-- ==== Sys2Proof/Word.lean ====
section
/-!
DEFINITION. The plainest words of the model: bytes, ticks and event codes.
Numbers of the dictionary that software adds and compares are natural numbers or integers; only what the
manual treats as raw bytes is a bit vector.
-/
namespace Sys2Proof

/-- One byte of a transfer, a table or a memory (14 R387). -/
abbrev Byte := BitVec 8

/-- Duration units in ticks of 1.25 ns (00 R9). -/
abbrev usTicks : Nat := 800
abbrev msTicks : Nat := 800000
abbrev secTicks : Nat := 800000000

/-- The two variants of the part (00 R2). -/
inductive Variant where
  | aeh2564
  | aeh1282
  deriving DecidableEq, Repr, Inhabited

/-- The two masters of the dictionary (14 R389): H over Strand, M over the side-band. -/
inductive Master where
  | host
  | mgmt
  deriving DecidableEq, Repr, Inhabited

/-- A value of a dictionary object: a number (BOOLEAN, INTEGERn, UNSIGNEDn, and the raw bits of a REAL32) or
bytes (VISIBLE_STRING, OCTET_STRING, DOMAIN), 14 R387. -/
inductive Val where
  | num (v : Int)
  | bytes (b : List Byte)
  deriving DecidableEq, Repr, Inhabited

end Sys2Proof
end

