-- ==== Sys2Proof/Syntax.lean ====
section
/-!
DEFINITION. The commands of the block, one constructor per row of the opcode table, and the plain data they carry.
-/
namespace Sys2Proof

/-- The four camera ports (03 R63): 0, 1 lower (Fix), 2, 3 upper (Grade). -/
abbrev Port := Fin 4
/-- The four Strand ports, in the order of the objects: 0 E, 1 W, 2 N, 3 S (02 R61, 13 R351). -/
abbrev Link := Fin 4
/-- A valve V000 to V255 and a group G00 to G31 (00 R8). -/
abbrev Valve := Fin 256
abbrev Group := Fin 32

/-- One pixel: its samples in channel order R, G, B, NIR (one sample for mono formats), 03 R64. -/
abbrev Pixel := List Nat

/-- One pixel clock of a camera line: DVAL and the pixels its taps carry (03 R66, R67). -/
structure PixelClock where
  dval : Bool
  taps : List Pixel
  deriving DecidableEq, Repr, Inhabited

/-- The sighting record of 04 R128. -/
structure Sighting where
  time : Nat
  centre : Int
  west : Int
  east : Int
  length : Nat
  area : Nat
  contrast : Nat
  port : Nat
  flags : Nat
  frame : Nat
  deriving DecidableEq, Repr, Inhabited

/-- The pixels of an object's bounding box (04 R113, R118; 13 R374): west column and first line, stage-2 samples by line
and pixel, and the mask of object pixels. -/
structure ObjImage where
  col : Nat := 0
  line : Nat := 0
  rows : List (List Pixel) := []
  mask : List (List Bool) := []
  deriving DecidableEq, Repr, Inhabited


/-- A HELLO (13 R360): what the sender says of itself. `port` is the sender's port, 0 E, 1 W, 2 N, 3 S. -/
structure Hello where
  id : Nat
  provisional : Bool
  westEnd : Bool
  rowId : Nat
  port : Nat
  host : Bool
  column : Nat
  columnKnown : Bool
  serial : List Byte
  deriving DecidableEq, Repr, Inhabited

/-- A topology record (13 R364). `links` holds the flags S, N, W, E of bits [3:0]; `neighbours` are E, W, N, S. -/
structure Topo where
  id : Nat := 0
  provisional : Bool := false
  conflict : Bool := false
  host : Bool := false
  westEnd : Bool := false
  links : Nat := 0
  state : Nat := 0
  neighbours : List Nat := [0xFFFF, 0xFFFF, 0xFFFF, 0xFFFF]
  valves : Nat := 0
  serial : List Byte := []
  seq : Nat := 0
  deriving DecidableEq, Repr, Inhabited

/-- The START body of a frame (13 R352). `len` is the payload in data blocks. -/
structure FrameHdr where
  vc : Nat
  dest : Nat
  src : Nat
  type : Nat
  phase : Nat := 0
  hops : Nat := 0
  len : Nat
  deriving DecidableEq, Repr, Inhabited

/-- A frame: its START body and its payload blocks (13 R352), and whether its END block carries the CRC inverted, as the copy of a frame does
that failed its CRC on the way in (13 R356). -/
structure Frame where
  hdr : FrameHdr
  words : List Nat
  inverted : Bool := false
  deriving DecidableEq, Repr, Inhabited

/-- What the start of the main side reads of the hardware (12 R341): whether the boot bank passes its CRC, the self-test item that fails (none where
every item passes) and the test's duration in ms, the die diode in 1/16 °C (none where it is open or shorted), valves whose calibration entry is invalid, the halves of the
calibration page that fail their CRC (18 R477), the panel IDs of the two flexes (none for a panel that does not answer, 19 R513), the ledger
copies whose write power loss cut short (08 R240), the blocks of the panel ledgers whose CRC fails (10 R292: panel and block), and the record
slots and header copies that are damaged (17 R466). -/
structure StartReadings where
  bootOk : Bool := true
  selfTest : Option (Nat × Nat) := none
  testMs : Nat := 0
  die : Option Int := some 0
  badValves : List Nat := []
  badHalves : List Nat := []
  flex : List (Option Nat) := [some 0, some 0]
  tornLedger : List Nat := []
  badBlocks : List (Nat × Nat) := []
  badSlots : List Nat := []
  badHeaders : List Nat := []
  deriving DecidableEq, Repr, Inhabited

/-- What a reading of the die's ring oscillator comes to (08 R253): the margin in percent at the die temperature T̄, and at the 110 °C that
stand for it while the diode is broken (11 R327). -/
structure RingMargin where
  atMean : Nat
  at110 : Nat
  deriving DecidableEq, Repr, Inhabited

/-- How a store or restore of parameters ends: done, with a flash failure, or abandoned at a power-fail warning (14 R403); or it runs on, and the
next command of its kind by the same master for the same part brings its end (log entry 94). -/
inductive StoreEnd where
  | done | failed | abandoned | running
  deriving DecidableEq, Repr, Inhabited

/-- A restore: the value written and how it ends (14 R404). -/
structure RestoreReq where
  value : Nat
  ends : StoreEnd := .done
  deriving DecidableEq, Repr, Inhabited

/-- What a DICT READ asks for: the whole object or one subindex, from a byte offset on (13 R377). -/
structure DictPart where
  whole : Bool := false
  offset : Nat := 0
  deriving DecidableEq, Repr, Inhabited

/-- A request frame of an SDO download (15 R424; forms of CiA 301, log entry 34): its start, expedited or with the size where it is indicated,
a segment, the start, a segment and the end of a block download with the number of unused bytes and the CRC, and the client's abort. The
object, the complete-access bit (14 R391) and the data bytes of the frame stand beside it. -/
inductive SdoDown where
  | expedited
  | start (size : Option Nat)
  | segment (toggle last : Bool)
  | blockStart (crc : Bool) (size : Option Nat)
  | blockSegment (seq : Nat) (last : Bool)
  | blockEnd (unused crc : Nat)
  | abort (code : Nat)
  deriving DecidableEq, Repr, Inhabited

/-- A request frame of an SDO upload (15 R424): its start, the request of a segment, the start of a block upload, its go-ahead, the answer to a
block of segments with the next block size, its end, and the client's abort. The object stands beside it. -/
inductive SdoUp where
  | start (complete : Bool)
  | segment (toggle : Bool)
  | blockStart (complete crc : Bool) (size : Nat)
  | blockGo
  | blockAck (seq size : Nat)
  | blockEnd
  | abort (code : Nat)
  deriving DecidableEq, Repr, Inhabited

/-- What follows the confidence in a VERDICT: margin, bank (0 A, 1 B) and model ID (13 R376). -/
structure VerdictTail where
  margin : Nat
  bank : Nat
  model : Nat
  deriving DecidableEq, Repr, Inhabited

/-- The instruction word that a valve's sequencer has fetched: whether its parity is wrong (07 R227). -/
structure FetchedWord where
  valve : Valve
  parity : Bool
  deriving DecidableEq, Repr, Inhabited

/-- The readings in mV of a rail at a step of the power-down; for VCOM those of BF and BB (10 R297). -/
structure RailReading where
  mv : Int
  mvBB : Int
  deriving DecidableEq, Repr, Inhabited

/-- The kinds of frame a CAN controller may see (15 R411, 00 R16). -/
inductive CanKind where
  | base | extended | remote | fd
  deriving DecidableEq, Repr, Inhabited

/-- A channel whose descriptor or link is read; `bad`: the read meets an uncorrectable memory error (16 R448). -/
structure ChanRead where
  c : Fin 16
  bad : Bool := false
  deriving DecidableEq, Repr, Inhabited

/-- How far a descriptor has come at the end of the burst in progress: `moved` bytes at least, by whole accesses; `bad`: the offset of an
uncorrectable memory error among them (16 R443, R445, R448). -/
structure Burst where
  moved : Nat
  bad : Option Nat := none
  deriving DecidableEq, Repr, Inhabited

/-- A memory error that a descriptor meets (16 R448, R454): uncorrectable at an offset of the bytes left, in the read of its link or in that of
the next descriptor; or a number of corrected ones. -/
inductive MemError where
  | data (offset : Nat)
  | link
  | descriptor
  | corrected (n : Nat)
  deriving DecidableEq, Repr, Inhabited

/-- The commands the block takes: one constructor per row of the opcode table, with the operands the command carries.
Writes of an object with a row of its own carry the master that writes; arrivals carry what arrives; timed and
internal steps carry only what names them (and readings of the outside world that the step takes). -/
inductive Instr where
  /-- SYNC_INTERVAL (R42). At each sync interval the near end sends TIME SYNC with stamp t1 on every link that is up. -/
  | syncInterval
  /-- TIME_SYNC (R42). The far end receives TIME SYNC, stamps t2 and answers with TIME REPLY at t3. -/
  | timeSync (link : Link) (t1 gm hops seq phase turnaround : Nat)
  /-- TIME_REPLY (R42). The near end receives TIME REPLY, stamps t4 and returns it in TIME FOLLOW. -/
  | timeReply (link : Link) (seq phase : Nat)
  /-- TIME_FOLLOW (R43). The far end computes link delay and offset, runs the servo and updates its time state. -/
  | timeFollow (link : Link) (t4 seq : Nat)
  /-- UPSTREAM_TIMEOUT (R50). No TIME SYNC on the upstream port for 4 sync intervals puts a LOCKED module in SLACK and selects a new upstream. -/
  | upstreamTimeout
  /-- ELECTION_TIMEOUT (R50). With no port announcing the grandmaster within 4 ms, the module announces itself and an election runs. -/
  | electionTimeout
  /-- ANNOUNCE (R372). An ANNOUNCE message is received and the best grandmaster candidate is updated. -/
  | announce (link : Link) (candidate : Nat) (designated : Bool) (hops : Nat)
  /-- HOLDOVER_LIMIT (R54). After 60 s in SLACK the module enters ACQUIRING with no upstream and stops FIRE traffic. -/
  | holdoverLimit
  /-- LEARNED_FREQUENCY_VALID (R53). After 10 s of unbroken LOCKED operation the learned frequency becomes valid. -/
  | learnedFrequencyValid
  /-- ROOT_PLL_LOCK_LOST (R35). Loss of root PLL lock puts the module in Fault with the valves closed. -/
  | rootPllLockLost
  /-- SYNC_IN_EDGE (R58). An active SYNC_IN edge is captured and, in mode 2 on the grandmaster, disciplines its frequency. -/
  | syncInEdge (rising : Bool) (phase : Nat)
  /-- SYNC_OUT_PULSE (R59). In mode 1, SYNC_OUT drives a pulse at each tick where tick minus phase is a multiple of the period. -/
  | syncOutPulse
  /-- LINE_TRIGGER (R41). A line-trigger generator fires CC1 on its grid tick, and the port appends the trigger to its pending list. -/
  | lineTrigger (p : Port)
  /-- GATE_EDGE (R55). At T plus L_fire the fire edge placer drives the valve's gate command and its sequencer starts the profile. -/
  | gateEdge (v : Valve)
  /-- PAIRING_TIMEOUT (R72). A pending trigger older than wmax is emitted as a missing line. -/
  | pairingTimeout (p : Port)
  /-- LINE_START (R72). A line starts arriving and is paired with the oldest pending trigger or discarded as unsolicited. -/
  | lineStart (p : Port) (tick : Nat) (fval : Bool)
  /-- LINE_COMPLETE (R68). A line ends after exactly W pixels. -/
  | lineComplete (p : Port) (clocks : List PixelClock)
  /-- SHORT_LINE (R69). LVAL falls before W pixels, so the line is padded with zeros, flagged short and counted. -/
  | shortLine (p : Port) (clocks : List PixelClock)
  /-- FIFO_OVERRUN (R70). A pixel clock arrives with the pixel FIFO full, so the rest of the line is dropped and marked missing. -/
  | fifoOverrun (p : Port)
  /-- FVAL_FALL (R77). In FVAL mode the frame of lines paired while FVAL was high closes. -/
  | fvalFall (p : Port)
  /-- SETTINGS_COMMAND (R84). A settings command written to 0x2305:01 is queued for the camera serial link. -/
  | settingsCommand (m : Master) (p : Port) (data : List Byte)
  /-- RAW_TRANSMIT (R84). Bytes written to 0x2305:03 are sent raw on the camera serial link while the port is not streaming. -/
  | rawTransmit (m : Master) (p : Port) (data : List Byte)
  /-- SETTINGS_TRANSMIT_START (R85). At the first trigger of a frame the oldest queued command starts transmitting and takes the next settings generation. -/
  | settingsTransmitStart (p : Port)
  /-- SETTINGS_TRANSMIT_END (R85). The last stop bit of a settings command is sent and the reply timeout starts. -/
  | settingsTransmitEnd (p : Port)
  /-- SERIAL_RECEIVE (R89). Reply bytes from the camera enter the receive buffer and a terminator confirms the command. -/
  | serialReceive (p : Port) (data : List Byte)
  /-- REPLY_TIMEOUT (R89). No reply terminator arrives within the reply timeout, so later frames of that generation are flagged unconfirmed. -/
  | replyTimeout (p : Port)
  /-- CC1_WIDTH_APPLY (R88). A CC1 width written while streaming in pulse-width mode takes effect at the next frame boundary with a new generation. -/
  | cc1WidthApply (p : Port)
  /-- START_PORT (R90). Stream command 1 checks the profile and starts the port alone. -/
  | startPort (m : Master) (p : Port)
  /-- START_PLANE (R90). Stream command 2 checks both partners and starts the plane on the same trigger tick. -/
  | startPlane (m : Master) (p : Port)
  /-- STOP_STREAM (R91). Stream command 0 stops CC1 after the frame in progress, or at once in FVAL mode. -/
  | stopStream (m : Master) (p : Port)
  /-- POCL_DETECTION_DONE (R92). PoCL load detection completes and V12 is applied to each connector with a PoCL load. -/
  | poclDetectionDone (p : Port) (loadA loadB : Bool)
  /-- PIXEL_CLOCK_STABLE (R90). The pixel clock has been within range and stable for 10 ms, so the start-up block is transmitted. -/
  | pixelClockStable (p : Port) (kHz : Nat)
  /-- PIXEL_CLOCK_TIMEOUT (R90). No stable pixel clock within 5 s fails the start and returns the port to OFF or IDLE. -/
  | pixelClockTimeout (p : Port)
  /-- STARTUP_BLOCK_SENT (R90). The start-up block has been transmitted and the settle time begins. -/
  | startupBlockSent (p : Port)
  /-- SETTLE_ELAPSED (R90). The settle time ends and the first trigger is placed, making the port STREAMING. -/
  | settleElapsed (p : Port)
  /-- POCL_TRIP (R92). PoCL current above 400 mA for 2 ms trips the port's camera power off, latching on the third trip within 60 s. -/
  | poclTrip (p : Port) (current : Nat)
  /-- POCL_REAPPLY (R92). One second after a trip the port reapplies PoCL power. -/
  | poclReapply (p : Port)
  /-- POCL_REARM (R92). A write of 1 to 0x2301:06 re-arms latched-off PoCL power. -/
  | poclRearm (m : Master) (p : Port)
  /-- PIXEL_CLOCK_LOSS (R93). The pixel clock is absent for 1 ms while streaming, so the port becomes LOST. -/
  | pixelClockLoss (p : Port)
  /-- PORT_RECOVERY (R94). The pixel clock of a LOST port is stable for 100 ms, so the start-up block is sent and the settle time begins. -/
  | portRecovery (p : Port) (kHz : Nat)
  /-- PORT_REJOIN (R94). The recovered port rejoins at the next frame boundary after the settle time with a new generation. -/
  | portRejoin (p : Port)
  /-- FIX_STRIPE (R102). The Fix engine processes one 64-pixel stripe through black level, flat-field, backdrop difference, threshold and run coding. -/
  | fixStripe
  /-- CONTEXT_TABLE_WRITE (R101). A write to a port's context table takes effect at the next line or frame of that port. -/
  | contextTableWrite (m : Master) (p : Port) (sub : Nat) (v : Val)
  /-- GRADE_FRAME_TAKE (R109). The frame part takes the closed frame with the lowest frame number, P2 first on ties. -/
  | gradeFrameTake
  /-- GRADE_FRAME_DONE (R110). The frame part finishes a frame, closing components and completing its statistics. -/
  | gradeFrameDone
  /-- OBJECT_CLASSIFIED (R117). The object part finishes features, colour LUT and trees for one object or chip and forms its verdict. -/
  | objectClassified
  /-- BANK_IMAGE_WRITE (R125). A bank image written to 0x2501:01 or 0x2502:01 is taken into the bank and validated. -/
  | bankImageWrite (m : Master) (bank : Nat) (image : List Byte)
  /-- LIBRARY_LOAD (R125). A write to 0x2501:06 or 0x2502:06 starts loading a bank from a classifier library slot. -/
  | libraryLoad (m : Master) (bank slot : Nat)
  /-- LIBRARY_LOAD_DONE (R125). A library load completes and the bank image is validated. -/
  | libraryLoadDone (bank : Nat)
  /-- BANK_SWAP_REQUEST (R127). A swap request to 0x2500:02 is refused or made pending. -/
  | bankSwapRequest (m : Master)
  /-- CAPTURE_DARK (R130). Capture command 1 measures the black-level table with strobes held. -/
  | captureDark (m : Master)
  /-- CAPTURE_GREY (R130). Capture command 2 measures flat-field gains against calibration grey. -/
  | captureGrey (m : Master)
  /-- CAPTURE_BACKDROP (R130). Capture command 3 measures the backdrop reference table. -/
  | captureBackdrop (m : Master)
  /-- CAPTURE_COMPLETE (R131). A capture finishes its two passes and writes its table or fails for range or too few samples. -/
  | captureComplete
  /-- CAPTURE_TIMEOUT (R131). A capture not completed within 2 s fails and writes no table. -/
  | captureTimeout
  /-- FIX_ARRIVAL (R150). The tracker associates a fix with an upper-first record or shadow, or opens a fix-first record, and predicts. -/
  | fixArrival (x : Sighting)
  /-- UPPER_SIGHTING_ARRIVAL (R150). The tracker associates an upper sighting with a fix-first record, opens an upper-first record or keeps a shadow. -/
  | upperSightingArrival (x : Sighting) (image : ObjImage)
  /-- FIX_DEADLINE (R151). An upper-first record without a fix at its deadline is predicted from the upper sighting alone. -/
  | fixDeadline (handle : Nat)
  /-- FIRE_DECISION (R162). At t_dec the tracker decides the record by the verdict or default action and issues one request per valve. -/
  | fireDecision (handle : Nat)
  /-- RECORD_RETIRE (R163). A decided record retires when its shot end, latest cover end or predicted arrival passes. -/
  | recordRetire (handle : Nat)
  /-- DROP_GEOMETRY_WRITE (R154). A write to 0x2601 seeds the priors of every lane group and face. -/
  | dropGeometryWrite (m : Master) (sub value : Nat)
  /-- PLACEMENT_WRITE (R167). A host write to 0x2604 moves a lane group's placement, raises the epoch and sets the pin. -/
  | placementWrite (m : Master) (group value : Nat)
  /-- GOVERNOR_RUN (R172). Every 10 ms the load governor moves at most one unpinned lane group out or back. -/
  | governorRun
  /-- CHIP_FRAME (R374). A CHIP segment is received and reassembled; a complete chip enters the chip queue or is refused. -/
  | chipFrame (src handle epoch segment count sendTick : Nat) (data : List Byte)
  /-- CHIP_REASSEMBLY_TIMEOUT (R375). A chip incomplete 100 µs after its first segment is discarded without reply. -/
  | chipReassemblyTimeout (src handle epoch : Nat)
  /-- VERDICT_MESSAGE (R170). A Ferry VERDICT is received and accepted or discarded as late or settled. -/
  | verdictMessage (src sendTick handle epoch cls conf : Nat) (tail : VerdictTail)
  /-- REFUSAL_MESSAGE (R169). A REFUSAL is received and the chip is re-issued to the own chip queue or discarded. -/
  | refusalMessage (src sendTick handle epoch cause : Nat)
  /-- FIRE_MESSAGE (R165). A FIRE message is checked for sender, valve, time state and setup and handed to the drive, replaced or refused. -/
  | fireMessage (src valve ta shotEnd handle conf : Nat) (cover : Bool)
  /-- FLOOR_RECOMPUTE (R157). Once per second the tracker recomputes sigma_floor per lane group from the centroid noise and line periods. -/
  | floorRecompute
  /-- DEFERRAL_LIMIT (R187). A waiting first boost reaches the smaller of tDEFER_MAX and its window limit and the shot is cancelled as group saturation. -/
  | deferralLimit (v : Valve)
  /-- KINK_WINDOW_OPEN (R190). A kink window opens and is sampled if its group converter has a free window. -/
  | kinkWindowOpen (v : Valve)
  /-- KINK_WINDOW_END (R191). A kink window ends and the kink is detected and time-stamped or counted lost. -/
  | kinkWindowEnd (v : Valve) (samples : List Int)
  /-- THERMAL_UPDATE (R195). Every 1 ms the two-node coil thermal model of each valve is updated. -/
  | thermalUpdate (squares : List Nat)
  /-- VALVE_EN_DEASSERT (R201). VALVE_EN_IN deasserts and gate drive is removed from every switch in hardware. -/
  | valveEnDeassert
  /-- VALVE_EN_ASSERT (R201). VALVE_EN_IN asserts and the 1 ms wait before accepting requests starts. -/
  | valveEnAssert
  /-- VALVE_EN_SETTLED (R201). VALVE_EN_IN has stayed asserted for 1 ms and the drive accepts requests again. -/
  | valveEnSettled
  /-- GROUP_OVERCURRENT (R202). Group current above 26 A for 1 µs opens the group switch and ends its running shots. -/
  | groupOvercurrent (g : Group)
  /-- COIL_SHORT (R202). Current above 10.2 A or with the low-side switch off sets the valve to coil short. -/
  | coilShort (v : Valve)
  /-- VALVE_STATE_WRITE (R203). A write to 0x2710 or 0x2711 disables or re-enables a valve. -/
  | valveStateWrite (m : Master) (v : Valve) (value : Nat)
  /-- GROUP_RESTORE (R203). A write of 1 to 0x2709 restores a lost group and its valves. -/
  | groupRestore (m : Master) (g : Group)
  /-- TEST_SHOT (R206). A write of 1 to 0x270A:03 in Idle fires one test shot 1 ms later. -/
  | testShot (m : Master)
  /-- NOP (R214). The sequencer executes NOP for one step. -/
  | nop (v : Valve)
  /-- BOOST (R216). The sequencer requests a boost slot and starts a boost phase on the grant. -/
  | boost (v : Valve)
  /-- BOOST_PHASE_END (R216). The peak comparator shows the boost target and the boost slot is released. -/
  | boostPhaseEnd (v : Valve) (tick energy : Nat)
  /-- BOOST_ABANDON (R216). A later BOOST of a shot waits tDEFER_MAX and is abandoned without cancelling the shot. -/
  | boostAbandon (v : Valve)
  /-- HOLD (R218). The sequencer sets the level and regulates for a time or until the shot end. -/
  | hold (v : Valve)
  /-- HOLD_END (R218). A HOLD reaches its duration, its shot end or its cut limit and issues the next instruction. -/
  | holdEnd (v : Valve)
  /-- SETI (R217). The sequencer sets the level in force. -/
  | seti (v : Valve)
  /-- DECAY (R220). The sequencer selects fast or slow decay. -/
  | decay (v : Valve)
  /-- WAIT (R214). The sequencer waits n steps with the mode unchanged. -/
  | wait (v : Valve)
  /-- WAIT_EXPIRY (R214). The WAIT count ends and the next instruction issues. -/
  | waitExpiry (v : Valve)
  /-- WAITI (R221). The sequencer waits for a current condition with a timeout. -/
  | waiti (v : Valve)
  /-- WAITI_CONDITION_MET (R221). The WAITI condition holds and WAITI ends in the next step. -/
  | waitiConditionMet (v : Valve) (tick reading : Nat)
  /-- WAITI_TIMEOUT (R221). The WAITI timeout expires and the shot continues or aborts. -/
  | waitiTimeout (v : Valve) (reading : Nat)
  /-- MARK (R223). The sequencer schedules the kink window. -/
  | mark (v : Valve)
  /-- OFF (R222). The sequencer turns the low-side switch off and sets t_off. -/
  | off (v : Valve)
  /-- LOOP (R224). The sequencer loads or decrements the loop counter and jumps back or falls through. -/
  | loop (v : Valve)
  /-- END (R225). The profile ends. -/
  | profileEnd (v : Valve)
  /-- ILLEGAL_WORD (R227). An illegal word or parity failure at fetch aborts the shot and reverts the valve's profile to 0. -/
  | illegalWord (word : FetchedWord)
  /-- SEQUENCER_IDLE (R212). After END or abort the coil current falls below 40 mA with the window closed and the valve becomes idle. -/
  | sequencerIdle (v : Valve) (tick : Nat)
  /-- SHADOW_IMAGE_WRITE (R230). A group image written to 0x2801 is checked and accepted into the shadow store or refused. -/
  | shadowImageWrite (m : Master) (g : Group) (image : List Byte)
  /-- IMAGE_ALL_GROUPS (R238). An image written to 0x2808:01 is accepted or refused for every group as a whole. -/
  | imageAllGroups (m : Master) (image : List Byte)
  /-- GROUP_SWAP_REQUEST (R233). A swap request for a group is refused or starts waiting for an idle step. -/
  | groupSwapRequest (m : Master) (g : Group)
  /-- SWAP_ALL_GROUPS (R238). A write to 0x2808:02 makes one swap request per group. -/
  | swapAllGroups (m : Master)
  /-- GROUP_SWAP (R234). At the first step with all eight valves idle the active and shadow stores exchange roles. -/
  | groupSwap (g : Group)
  /-- SWAP_HOLD (R233). One millisecond after acceptance an unfinished swap starts holding new gate edges of the group. -/
  | swapHold (g : Group)
  /-- SWAP_ABANDON (R233). Two milliseconds after acceptance an unfinished swap is abandoned and held shots are released. -/
  | swapAbandon (g : Group)
  /-- PROFILE_SELECT (R232). A write to 0x2810 or 0x2811 selects a valve's profile for its next gate edge. -/
  | profileSelect (m : Master) (v : Valve) (profile : Nat)
  /-- OPERATING_HOUR (R461). Operating seconds reach a multiple of 3,600 and an hourly record is triggered. -/
  | operatingHour
  /-- VALVE_REPLACED (R249). A write to 0x290B:01 records a valve replacement and clears its ledger entry and retirement. -/
  | valveReplaced (m : Master) (v : Nat)
  /-- DIE_MARGIN_SAMPLE (R253). Once per second the die ring-oscillator margin is measured. -/
  | dieMarginSample (margin : RingMargin)
  /-- BULK_RECHARGE_MEASURED (R251). A VBST recharge after a sag completes and yields a bulk capacitance measurement. -/
  | bulkRechargeMeasured (ticks rise : Nat)
  /-- LOOP_SAMPLE (R266). At a slot's sample boundary the control law computes and drives the new output. -/
  | loopSample (slot : Fin 8) (ains : List Int)
  /-- LOOP_BANK_WRITE (R268). A coefficient bank written to 0x2A13 or 0x2A14 is validated and accepted or refused. -/
  | loopBankWrite (m : Master) (slot : Fin 8) (bank : Nat) (image : List Byte)
  /-- LOOP_BANK_SWAP (R269). A swap request makes the other bank active at the next sample with a bumpless integrator. -/
  | loopBankSwap (m : Master) (slot : Fin 8)
  /-- LOOP_REARM (R276). A write of 1 to 0x2A10:04 clears a loop fault and enters warm-up. -/
  | loopRearm (m : Master) (slot : Fin 8)
  /-- LOOP_ENABLE_WRITE (R272). A write to 0x2A10:02 disables a slot or sets it to automatic or manual. -/
  | loopEnableWrite (m : Master) (slot : Fin 8) (value : Nat)
  /-- PIN0_PULSE (R260). A pulse on PIN0 updates the PIN0 frequency source. -/
  | pin0Pulse (tick : Nat)
  /-- TRACE_ARM (R279). Trace command 1 discards the buffer and fills the pre-trigger count. -/
  | traceArm (m : Master) (t : Fin 4)
  /-- TRACE_FORCE_TRIGGER (R279). Trace command 2 triggers the trace by software. -/
  | traceForceTrigger (m : Master) (t : Fin 4)
  /-- TRACE_STOP (R279). Trace command 0 stops the trace. -/
  | traceStop (m : Master) (t : Fin 4)
  /-- TRACE_SAMPLE (R278). At each decimated boundary the traced node is stored in the buffer. -/
  | traceSample (t : Fin 4) (ains : List Int)
  /-- PANEL_SCAN (R286). The panel driver addresses all 32 rows once per 1 ms scan. -/
  | panelScan
  /-- PAIR_COMPLETE (R291). A phase pair of 16 scans ends and each cell's charge ledger is updated. -/
  | pairComplete (r : Fin 10)
  /-- WAVEFORM_TABLE_WRITE (R288). A waveform table written to 0x2B03 is checked and accepted or refused. -/
  | waveformTableWrite (m : Master) (panel : Fin 2) (table : List Byte)
  /-- REGION_GO (R293). A write of 1 to a region slot's Go requests an update of its rectangle from an image slot. -/
  | regionGo (m : Master) (slot : Fin 8)
  /-- IMAGE_SLOT_WRITE (R296). A tone image written to 0x2B10 is checked and stored or refused. -/
  | imageSlotWrite (m : Master) (slot : Nat) (image : List Byte)
  /-- TRIM_MAP_WRITE (R290). A trim map written to 0x2B04 replaces the map in the calibration page. -/
  | trimMapWrite (m : Master) (panel : Fin 2) (map : List Byte)
  /-- RAIL_STEP (R297). In the panel rail power-up sequence the next rail is switched on after the previous one is checked. -/
  | railStep (reading reading2 : Int)
  /-- RAIL_HOLD_EXPIRY (R297). The rail hold time passes with nothing running and the rail power-down sequence starts. -/
  | railHoldExpiry
  /-- RAIL_POWER_DOWN_STEP (R297). In the power-down sequence the next panel rail is switched off. -/
  | railPowerDownStep (reading : RailReading)
  /-- STRIP_WRITE (R300). The status strip is written in one pair with its current content. -/
  | stripWrite
  /-- ISLAND_STRIP_WRITE (R301). The island writes FALT and the event code to the strip when the main side cannot. -/
  | islandStripWrite
  /-- PANEL_GREY (R303). Panel command 1 drives both panels to calibration grey. -/
  | panelGrey (m : Master)
  /-- PANEL_HOME (R303). Panel command 2 drives each panel to its home image. -/
  | panelHome (m : Master)
  /-- EVENT_CODE_ACK (R299). A write of 1 to 0x2B30:03 acknowledges the event code shown on the strip. -/
  | eventCodeAck (m : Master)
  /-- STROBE_PULSE (R306). At the trigger tick plus delay a strobe channel pulses its LED head at its effective current. -/
  | strobePulse (ch : Fin 4) (vf : Nat) (compliance : Bool)
  /-- STROBE_ENABLE (R308). A write to 0x2B4n:01 enables or disables a channel and clears its fault. -/
  | strobeEnable (m : Master) (ch : Fin 4) (value : Nat)
  /-- MAINS_UP (R312). The input exceeds 80 V rms and the input stage starts. -/
  | mainsUp
  /-- MAINS_OUT_OF_RANGE (R312). The input falls below 75 V rms or exceeds 320 V rms for 100 ms and the input stage stops. -/
  | mainsOutOfRange
  /-- INPUT_POWER_SAMPLE (R314). Every 10 ms input power is measured and the sustained bucket refill is suspended or resumed. -/
  | inputPowerSample (watts : Nat) (readings : List Nat)
  /-- RAIL_OUT_OF_REGULATION (R315). A rail out of its regulation band for 1 ms puts the module in Fault. -/
  | railOutOfRegulation (rail : Nat)
  /-- POWER_FAIL_WARNING (R317). The bus falls below 380 V and the power-fail sequence runs. -/
  | powerFailWarning
  /-- MAINS_RETURN (R318). Mains returns during the power-fail sequence, which still runs to its end. -/
  | mainsReturn
  /-- MAIN_SIDE_OFF_ELAPSED (R318). At least 100 ms after the sequence ends the main side starts again or the relay is opened by policy. -/
  | mainSideOffElapsed
  /-- MOORED_REQUEST (R321). A write of 0 to 0x2C01:01 requests Moored and starts the Moored entry sequence. -/
  | mooredRequest (m : Master)
  /-- MOORED_UPDATES_DONE (R321). Running region updates complete and the Moored sequence continues to relay opening. -/
  | mooredUpdatesDone
  /-- MOORED_ENTRY_TIMEOUT (R321). Region updates do not complete within the Moored entry limit and the request is abandoned. -/
  | mooredEntryTimeout
  /-- WAKE_TIMER (R322). The island's wake timer expires and the module wakes. -/
  | wakeTimer
  /-- WAKE_IN (R322). An active WAKE_IN edge held for 10 ms wakes the module. -/
  | wakeIn (high : Bool)
  /-- WAKE_CANOPEN (R322). A write of 1 to 0x2C01:01 through the side-band wakes the module or restarts it after shutdown. -/
  | wakeCanopen
  /-- V_SB_LOSS (R320). V_SB is lost and the island changes over to V5. -/
  | vSbLoss
  /-- V_SB_RETURN (R320). V_SB returns and the island restores its stored Moored condition. -/
  | vSbReturn (mV : Nat)
  /-- DIE_SAMPLE (R324). A die diode reading is taken at 1 kHz and the temperature and rate limits are evaluated. -/
  | dieSample (reading : Option Int)
  /-- DIODE_BROKEN_LIMIT (R326). The diode has been broken for 60 s and the module enters Fault. -/
  | diodeBrokenLimit
  /-- FAN_STALL (R331). A fan shows no tachometer pulse for 1 s at 20 % duty or more and is stalled. -/
  | fanStall (fan : Fin 4)
  /-- STATE_IDLE (R340). State command 1 ends Calibrating or closes the tracker and ends Sorting. -/
  | stateIdle (m : Master)
  /-- STATE_CALIBRATE (R339). State command 2 starts a calibration run or waits for hold bit 1. -/
  | stateCalibrate (m : Master)
  /-- STATE_SORT (R340). State command 3 enables the drive, starts VBST and opens the tracker when readiness is complete. -/
  | stateSort (m : Master)
  /-- SORTING_REACHED (R340). VBST reaches regulation and the module is Sorting. -/
  | sortingReached
  /-- SORT_STOP_DONE (R340). The last record retires or 30 ms pass and the module enters Idle. -/
  | sortStopDone
  /-- MAIN_SIDE_START (R341). The main side runs its start sequence from rails to Idle. -/
  | mainSideStart (r : StartReadings)
  /-- RESUME_SORTING (R341). After a main-side restart that interrupted Sorting the module issues command 3 itself once ready. -/
  | resumeSorting
  /-- WATCHDOG_EXPIRY (R342). A watchdog expiry restarts the main side, enters Recovery in the first-start watch, or Fault on the third within 600 s. -/
  | watchdogExpiry
  /-- RESTART_COMMAND (R343). A write of 1 to 0x2005:01 starts a main-side restart. -/
  | restartCommand (m : Master)
  /-- SIGNAL_DETECT (R357). A signal appears on a Strand port and training starts. -/
  | signalDetect (l : Link)
  /-- RETRAIN_TIMER (R357). Every 10 ms a DOWN port retrains. -/
  | retrainTimer (l : Link)
  /-- HELLO (R359). A HELLO is received and the link becomes UP, CROSSED or HOST. -/
  | hello (l : Link) (h : Hello)
  /-- SYNC_HEADER_ERRORS (R358). 16 invalid sync headers within 64 blocks take the link down. -/
  | syncHeaderErrors (l : Link)
  /-- UNKNOWN_CONTROL_BLOCK (R358). A control block of unknown type takes the link down. -/
  | unknownControlBlock (l : Link) (type : Nat)
  /-- HEARTBEAT_SEND (R360). Every 10 µs the module sends a HEARTBEAT on each UP or HOST link. -/
  | heartbeatSend
  /-- HEARTBEAT_RECEIVED (R360). A HEARTBEAT is received and the neighbour's state and load are recorded. -/
  | heartbeatReceived (l : Link) (id state time load seq : Nat)
  /-- HEARTBEAT_LOSS (R360). No HEARTBEAT for 100 µs loses the neighbour and floods the topology record. -/
  | heartbeatLoss (l : Link)
  /-- FRAME_RECEIVED (R355). A frame is received whole, CRC-checked and acknowledged, or NAKed and discarded. -/
  | frameReceived (l : Link) (f : Frame) (seq : Nat) (crc : Nat)
  /-- ACK_BLOCK (R355). An ACK releases acknowledged frames, or a NAK makes the sender replay every unacknowledged frame. -/
  | ackBlock (l : Link) (seq : Nat) (nak : Bool)
  /-- CREDIT_BLOCK (R354). A CREDIT block returns buffer credits for a VC. -/
  | creditBlock (l : Link) (vc blocks : Nat)
  /-- FRAME_FORWARD (R367). A transit frame is routed by its phase, detoured, sidestepped or dropped. -/
  | frameForward
  /-- TOPO_RECORD (R364). A topology record with a higher sequence is stored and resent on every other UP link. -/
  | topoRecord (l : Link) (r : Topo)
  /-- TOPO_FLOOD (R364). Every 1 s the module floods its own topology record. -/
  | topoFlood
  /-- TOPO_EXPIRY (R364). A topology record not refreshed for 3 s is removed. -/
  | topoExpiry (id : Nat)
  /-- DICT_READ (R377). A DICT READ is served with right H and answered in a RESPONSE. -/
  | dictRead (src txn index sub : Nat) (part : DictPart)
  /-- DICT_WRITE (R377). A DICT WRITE segment is buffered and the object is written atomically when complete. -/
  | dictWrite (src txn index sub : Nat) (whole : Bool) (offset total : Nat) (data : List Byte)
  /-- DICT_SEGMENT_TIMEOUT (R377). A gap of more than 1 s between DICT segments aborts the write. -/
  | dictSegmentTimeout (src txn : Nat)
  /-- WIN_READ (R379). A WIN READ returns memory-window data in READ DATA or is refused. -/
  | winRead (src txn address len : Nat)
  /-- WIN_WRITE (R379). A WIN WRITE writes memory-window data and answers with WRITE ACK. -/
  | winWrite (src txn address : Nat) (data : List Byte)
  /-- BULK_FRAME (R379). Received BULK data is written into DDR at the carried address or discarded. -/
  | bulkFrame (src stream seq : Nat) (last : Bool) (address : Nat) (data : List Byte)
  /-- MBOX_BELL (R381). A write to MBOX_BELL hands a mailbox message to the supervisor, which consumes it. -/
  | mboxBell (m : Fin 4)
  /-- STREAM_CFG_WRITE (R381). A write to STREAM_BASE or STREAM_CFG configures a BULK stream unless it is enabled. -/
  | streamCfgWrite (stream : Fin 16) (cfg : Bool) (value : Nat)
  /-- OBJECT_WRITE (R393). A write to an object with no row of its own is checked in order and applied atomically or aborted. -/
  | objectWrite (m : Master) (index sub : Nat) (v : Val)
  /-- LOCK_ACQUIRE (R397). Lock command 1 takes a lock slot over an index range for a lease. -/
  | lockAcquire (m : Master) (first last lease slot : Nat)
  /-- LOCK_RENEW (R397). Lock command 2 renews the lease of an owned slot. -/
  | lockRenew (m : Master) (lease slot : Nat)
  /-- LOCK_RELEASE (R397). Lock command 3 releases an owned slot. -/
  | lockRelease (m : Master) (slot : Nat)
  /-- LOCK_EXPIRY (R399). A lock's lease runs out and the lock ends. -/
  | lockExpiry (slot : Fin 4)
  /-- STAGE_OPEN (R400). Stage command 1 opens the master's stage. -/
  | stageOpen (m : Master)
  /-- STAGE_COMMIT (R401). Stage command 2 checks every staged entry and applies all at one instant or refuses the commit. -/
  | stageCommit (m : Master)
  /-- STAGE_DISCARD (R402). Stage command 3 discards the stage. -/
  | stageDiscard (m : Master)
  /-- STAGE_TIMEOUT (R402). A stage untouched for the stage timeout is discarded. -/
  | stageTimeout (m : Master)
  /-- STORE_PARAMETERS (R403). The save signature written to 0x1010 stores persistent parameters into the older settings store. -/
  | storeParameters (m : Master) (part : Fin 3) (value : Nat) (ends : StoreEnd)
  /-- RESTORE_DEFAULTS (R404). The load signature written to 0x1011 removes that part from the stores for the next start. -/
  | restoreDefaults (m : Master) (part : Fin 3) (req : RestoreReq)
  /-- NMT_START (R423). NMT start remote node enters Operational. -/
  | nmtStart (node : Nat)
  /-- NMT_STOP (R423). NMT stop remote node enters Stopped. -/
  | nmtStop (node : Nat)
  /-- NMT_PRE_OPERATIONAL (R423). NMT enter pre-operational enters Pre-operational. -/
  | nmtPreOperational (node : Nat)
  /-- NMT_RESET_COMMUNICATION (R423). NMT reset communication reloads communication objects, applies pending node-ID and bit timing and sends boot-up. -/
  | nmtResetCommunication (node : Nat)
  /-- NMT_RESET_NODE (R423). NMT reset node resets communication and restarts the main side or resets the island. -/
  | nmtResetNode (node : Nat)
  /-- CAN_FRAME_RECEIVED (R417). A CAN frame lands in its receive buffer's primary or shadow slot, overwriting the shadow on overrun. -/
  | canFrameReceived (kind : CanKind) (id : Nat) (data : List Byte)
  /-- CAN_BUS_ERROR (R419). An error changes TEC or REC and the controller enters Warning, Error passive or bus-off. -/
  | canBusError (tec rec_ : Nat)
  /-- BUS_OFF_RECOVERY (R420). After 128 occurrences of 11 recessive bits the controller leaves bus-off, paced after frequent bus-offs. -/
  | busOffRecovery
  /-- CLOCK_SOURCE_CHANGE (R410). During bus idle the CAN controller changes between the peripheral clock and the island PLL. -/
  | clockSourceChange
  /-- SDO_DOWNLOAD (R424). An SDO download transfer writes an object through the checks of the dictionary. -/
  | sdoDownload (index sub : Nat) (complete : Bool) (data : List Byte) (request : SdoDown)
  /-- SDO_UPLOAD (R424). An SDO upload transfer returns an object's value. -/
  | sdoUpload (index sub : Nat) (request : SdoUp)
  /-- SDO_TIMEOUT (R424). A gap of more than 1 s between frames of a transfer aborts it. -/
  | sdoTimeout
  /-- SYNC_FRAME (R428). A SYNC frame samples and sends synchronous TPDOs and applies synchronous RPDOs. -/
  | syncFrame (data : List Byte)
  /-- RPDO (R427). An RPDO is checked and written object by object with right M, or discarded. -/
  | rpdo (n : Fin 4) (data : List Byte)
  /-- TPDO_EVENT_TIMER (R426). An event-driven TPDO is sent on a changed value or event-timer expiry after its inhibit time. -/
  | tpdoEventTimer (n : Fin 4)
  /-- EMCY_SEND (R430). The oldest queued EMCY frame is sent once the inhibit time has passed. -/
  | emcySend
  /-- HEARTBEAT_PRODUCE (R432). The heartbeat producer sends the NMT state every producer time. -/
  | heartbeatProduce
  /-- HEARTBEAT_CONSUMER_TIMEOUT (R432). A consumer entry's node is not heard within its time and EMCY 0x8130 is raised. -/
  | heartbeatConsumerTimeout (entry : Fin 4)
  /-- LSS_SWITCH_GLOBAL (R433). LSS switch state global switches all slaves between waiting and configuration. -/
  | lssSwitchGlobal (mode : Nat)
  /-- LSS_SWITCH_SELECTIVE (R433). LSS switch state selective puts the slave with the matching LSS address into configuration. -/
  | lssSwitchSelective (vendor product revision serial : Nat)
  /-- LSS_CONFIGURE_NODE_ID (R434). LSS configure node-ID accepts 1 to 127 or 0xFF for the next reset communication. -/
  | lssConfigureNodeId (node : Nat)
  /-- LSS_CONFIGURE_BIT_TIMING (R434). LSS configure bit timing selects a table and index of the supported rates. -/
  | lssConfigureBitTiming (table index : Nat)
  /-- LSS_ACTIVATE_BIT_TIMING (R434). LSS activate bit timing stops transmission and waits the switch delay. -/
  | lssActivateBitTiming (delay : Nat)
  /-- LSS_SWITCH_DELAY_END (R434). A switch delay ends, loading CANBT after the first and resuming transmission after the second. -/
  | lssSwitchDelayEnd
  /-- LSS_STORE_CONFIGURATION (R434). LSS store configuration writes node-ID and bit timing to the island's memory. -/
  | lssStoreConfiguration (ok : Bool)
  /-- LSS_INQUIRE_VENDOR_ID (R433). LSS inquire vendor ID returns the vendor ID. -/
  | lssInquireVendorId
  /-- LSS_INQUIRE_PRODUCT_CODE (R433). LSS inquire product code returns the product code. -/
  | lssInquireProductCode
  /-- LSS_INQUIRE_REVISION (R433). LSS inquire revision returns the revision number. -/
  | lssInquireRevision
  /-- LSS_INQUIRE_SERIAL (R433). LSS inquire serial number returns the serial number. -/
  | lssInquireSerial
  /-- LSS_INQUIRE_NODE_ID (R433). LSS inquire node-ID returns the node-ID. -/
  | lssInquireNodeId
  /-- LSS_IDENTIFY_REMOTE_SLAVE (R433). LSS identify remote slave answers when the LSS address lies in the given ranges. -/
  | lssIdentifyRemoteSlave (vendor product revLow revHigh serLow serHigh : Nat)
  /-- LSS_IDENTIFY_NON_CONFIGURED (R433). LSS identify non-configured slave answers while the node-ID is 0xFF. -/
  | lssIdentifyNonConfigured
  /-- LSS_FASTSCAN (R433). An LSS Fastscan request is answered bit by bit to find the slave. -/
  | lssFastscan (number bitCheck sub next : Nat)
  /-- CH_START (R452). A write of CH_CTRL bit 0 starts a channel at CH_NEXT. -/
  | chStart (c : ChanRead)
  /-- CH_ABORT (R449). A write of CH_CTRL bit 1 aborts the channel after the burst in progress. -/
  | chAbort (c : Fin 16) (moved : Burst) (data : List Byte)
  /-- CH_APPEND (R450). The APPEND doorbell sets the append flag or resumes a channel stopped at END. -/
  | chAppend (c : ChanRead)
  /-- CH_NEXT_WRITE (R452). A write to CH_NEXT sets the first descriptor unless the channel is busy. -/
  | chNextWrite (c : Fin 16) (value : Nat)
  /-- CH_IRQ_CLEAR (R451). A write of 1 to CH_IRQ bit 1 clears the pending interrupt. -/
  | chIrqClear (c : Fin 16)
  /-- CH_IRQ_UNMASK (R451). A write to CH_IRQ bit 0 masks or unmasks the channel interrupt. -/
  | chIrqUnmask (c : Fin 16) (unmask : Bool)
  /-- DESCRIPTOR_COMPLETE (R442). The head channel finishes its descriptor count, raises its completion and follows or stops at its link. -/
  | descriptorComplete (data : List Byte) (bad : Option MemError)
  /-- REQUESTOR_ASSERT (R447). A requestor asserts its request and its channel becomes ready or resumes. -/
  | requestorAssert (code : Nat)
  /-- REQUESTOR_WITHDRAW (R443). A requestor withdraws and the head channel enters WAITING after its burst. -/
  | requestorWithdraw (code : Nat) (moved : Burst) (data : List Byte)
  /-- DMA_STALL (R443). A channel in WAITING beyond the stall limit stops in ERROR and the FIFO moves on. -/
  | dmaStall
  /-- RECORD_WRITE_DONE (R462). A record write ends and any waiting forced or hourly trigger follows. -/
  | recordWriteDone
  /-- TALLY_SAMPLE (R458). Every second the tally samples its chosen quantities into histograms and extremes. -/
  | tallySample
  /-- TALLY_CONFIG_WRITE (R460). A write to 0x2D01 takes effect at the next record trigger. -/
  | tallyConfigWrite (m : Master) (sub : Nat) (v : Val)
  /-- SELECT_BY_SEQUENCE (R468). A write to 0x2D03:03 selects the slot that holds the given record sequence. -/
  | selectBySequence (m : Master) (seq : Nat)
  /-- EXPORT_LOG (R469). A write to 0x2D04:02 exports the log header and all slots to DDR by DMA. -/
  | exportLog (m : Master) (address : Nat)
  /-- EXPORT_DONE (R469). The log export completes and event 0xD008 is raised. -/
  | exportDone
  /-- CLEAR_CHALLENGE (R470). A read of 0x2D05:01 issues a new clear challenge for the reading master. -/
  | clearChallenge (m : Master)
  /-- CLEAR_RESPONSE (R471). A write to 0x2D05:02 clears the log on a correct response or is refused. -/
  | clearResponse (m : Master) (response : List Byte)
  /-- CLEAR_LOCK_EXPIRY (R470). The 10 min clear lock ends. -/
  | clearLockExpiry
  /-- STAGING_IMAGE_WRITE (R481). Bytes of a firmware image written to 0x2E01:01 are programmed into the staging bank. -/
  | stagingImageWrite (m : Master) (offset total : Nat) (data : List Byte)
  /-- STAGING_IDLE_TIMEOUT (R482). A staging transfer without a byte for 10 s is aborted. -/
  | stagingIdleTimeout
  /-- VERIFY_DONE (R479). Image verification completes in the verified or verify-failed state. -/
  | verifyDone
  /-- UPDATE_VERIFY_AGAIN (R483). Update command 1 verifies the staging bank again. -/
  | updateVerifyAgain (m : Master)
  /-- UPDATE_MARK_PENDING (R483). Update command 2 marks the staged image pending. -/
  | updateMarkPending (m : Master)
  /-- UPDATE_MARK_PENDING_RESTART (R483). Update command 3 marks the image pending and restarts the main side. -/
  | updateMarkPendingRestart (m : Master)
  /-- UPDATE_CANCEL_PENDING (R483). Update command 4 cancels the pending mark. -/
  | updateCancelPending (m : Master)
  /-- UPDATE_RESTART_FROM_STAGING (R483). Update command 5 leaves Recovery by starting the staging image. -/
  | updateRestartFromStaging (m : Master)
  /-- UPDATE_STAGE_FROM_DDR (R483). Update command 6 copies an image from the host region into staging by DMA. -/
  | updateStageFromDdr (m : Master)
  /-- COPY_BLOCK_DONE (R484). A 64 KiB block of the staging bank is copied to the boot bank and journalled verified. -/
  | copyBlockDone
  /-- FIRST_START_WATCH_END (R484). The 30 s first-start watch passes with the copy complete and the image is confirmed. -/
  | firstStartWatchEnd
  /-- LIBRARY_SLOT_WRITE (R490). A bank image written to a classifier library slot is programmed and validated. -/
  | librarySlotWrite (m : Master) (slot : Nat) (image : List Byte)
  /-- AIR_OK_EDGE (R505). An AIR_OK edge that outlasts the input filter is reported as an event. -/
  | airOkEdge (level : Bool)
  /-- GUARD_OK_EDGE (R505). A GUARD_OK edge that outlasts the input filter is reported as an event. -/
  | guardOkEdge (level : Bool)
  /-- DOUT_OVERLOAD (R506). A DOUT or SENS_24V held at its current limit for 10 ms switches off. -/
  | doutOverload (out : Fin 5)
  /-- DOUT_RETRY (R506). Every 1 s an overloaded output is switched on again. -/
  | doutRetry (out : Fin 5)
  /-- STRAP_READ (R508). Every 100 ms the island reads the straps and a change takes effect as a learned ID. -/
  | strapRead (row : Nat) (westEnd : Bool)
  /-- TACHOMETER_PULSE (R331). A tachometer pulse from a stalled fan shows that the fan turns again, which ends the 100 % duty of the other fans and updates the fan-speed source. -/
  | tachometerPulse (fan : Fin 4) (period : Nat)
  /-- ISLAND_WATCHDOG_EXPIRY (R344). The management island's watchdog expires and the island restarts as an island reset of kind 4. -/
  | islandWatchdogExpiry
  /-- CAN_FRAME_SENT (R420). A CAN frame completes transmission, lowering TEC and, after bus-off recovery, queuing EMCY 0x8140 once the first pending frame has been sent. -/
  | canFrameSent
  deriving DecidableEq, Repr

end Sys2Proof
end

