-- ==== Sys2Proof/Decode.lean ====
section
/-!
DEFINITION. The command that a table word spells. No row of the opcode table gives bits: the commands of this block are events and register
accesses, not words, so no word spells one.
-/
namespace Sys2Proof

/-- The command spelt by a word of `nbits` bits: none, since the table gives no row any bits. -/
def decodeTableWord (_nbits _w : Nat) : Option Instr := none

end Sys2Proof
end

