-- ==== Sys2Proof/Config.lean ====
section
/-!
DEFINITION. What the manual leaves to the individual module or leaves open.
Every value here is an opaque constant: nothing in Lean can see it, so a claim holds whatever it is.
The assumption log names each one.
-/
namespace Sys2Proof

/-- Factory values, by index * 256 + subindex ("factory" in the object tables; log entry 4). -/
opaque Config.factory : Nat → Nat
/-- Factory strings and tables, by index * 256 + subindex (log entry 4). -/
opaque Config.factoryBytes : Nat → List Byte

/-- The numeric form of a serial number text (15 R438; log entry 4). -/
opaque Config.serialNumber : List Byte → Nat

/-- The boost converter's factory charge current in mA (08 R251; log entry 4). -/
opaque Config.chargeCurrent : Nat

/-- Factory speed in rpm of a fan at a duty in 0.01 % (08 R252; log entry 4). -/
opaque Config.fanSpeed : Nat → Nat → Nat

/-- The value of a feature that divides nothing by nothing, of the n-th draw (04 R119; log entry 8). -/
opaque Config.emptyFeature : Nat → Nat → Nat

/-- The n-th handling delay between a request's arrival and its hand-over to the placer (06 R182; log entry 10). -/
opaque Config.handOver : Nat → Nat

/-- The energy in µJ that the n-th boost phase drew that ended before its target (06 R199; log entry 133). -/
opaque Config.boostEnergy : Nat → Nat

/-- The bytes of the module's seal key, in one-time-programmable memory (18 R480; log entry 11). -/
opaque Config.sealKey : Nat → BitVec 8

/-- The public keys of the key indexes 0 to 3, in one-time-programmable memory (18 R479; log entry 11). -/
opaque Config.imageKey : Nat → Nat × Nat

/-- The servo's n-th frequency word in ppb: its gains are not in the manual (02 R45, R58; log entry 26). -/
opaque Config.servoWord : Nat → Int

/-- The bytes that a burst in progress still moves at the n-th abort by a power-fail warning (16 R449; log entry 27). -/
opaque Config.burstLeft : Nat → Nat

/-- The bytes that a source port supplies to that burst (16 R449; log entry 27). -/
opaque Config.portByte : Nat → Nat → BitVec 8

/-- Bytes of the copy of the settings with a sequence number, whose form is not in the manual (14 R403, 16 R440; log entry 83). -/
opaque Config.storeBytes : Nat → Nat

/-- The n-th clear challenge (17 R470; log entry 28). -/
opaque Config.challenge : Nat → Nat

/-- The right response to a challenge for a serial number under the module key (17 R470, 00 R17; log entry 28). -/
opaque Config.clearResponse : Nat → List Byte → Nat

/-- The n-th reading of a load or a current that no rule of the manual computes, by index * 256 + subindex (log entry 29). -/
opaque Config.measured : Nat → Nat → Nat

/-- The text of a firmware version in 0x100A: its form is not in the manual (log entry 30). -/
opaque Config.versionText : Nat → List Byte

/-- REC after a frame received while it stands above 127: ISO 11898-1 leaves 119 to 127; the n-th such frame (log entry 31). -/
opaque Config.receiveCount : Nat → Nat

/-- A pair of the ROM's clear cycle, as an entry of a waveform table: its drive scans, its balancing scans and its polarity (10 R287, R292;
log entry 139). -/
opaque Config.clearPair : Nat → Nat

/-- The strip's pair towards the dark level drives negative (10 R300; log entry 139). -/
opaque Config.stripDarkNegative : Bool

/-- A cell of a glyph of the ROM font is dark (10 R299; log entry 139): character, row, column. -/
opaque Config.glyph : Nat → Nat → Nat → Bool

end Sys2Proof
end

