-- ==== Sys2Proof/Machine/Num.lean ====
section
/-!
DEFINITION. Number helpers that many meanings share: little-endian bytes (14 R387), the two CRCs of the manual
(17 R464, 18 R478), REAL32 raw bits, rounding and integer square roots.
Everything here evaluates by structural recursion, so the kernel can run it.
-/
namespace Sys2Proof.Machine

/-- The largest values of the saturating counters. -/
abbrev max32 : Nat := 4294967295
abbrev max16 : Nat := 65535

/-- Little-endian bytes of a number, `n` bytes long (14 R387). -/
def leBytes : Nat → Nat → List Byte
  | 0, _ => []
  | n + 1, v => BitVec.ofNat 8 (v % 256) :: leBytes n (v / 256)

/-- The number that little-endian bytes spell. -/
def ofLe : List Byte → Nat
  | [] => 0
  | b :: r => b.toNat + 256 * ofLe r

/-- Two's complement reading of an `n`-byte number. -/
def signedOf (n v : Nat) : Int :=
  if v < 2 ^ (8 * n - 1) then (v : Int) else (v : Int) - (2 ^ (8 * n) : Nat)

/-- Two's complement encoding of an integer in `n` bytes. -/
def unsignedOf (n : Nat) (v : Int) : Nat := (v % ((2 ^ (8 * n) : Nat) : Int)).toNat

/-- `len` bytes from offset `off`; absent bytes are left out. -/
def slice (l : List Byte) (off len : Nat) : List Byte := (l.drop off).take len

/-- The little-endian field of `len` bytes at offset `off`. -/
def field (l : List Byte) (off len : Nat) : Nat := ofLe (slice l off len)

/-- Bit `i` of a number. -/
def bitOf (v i : Nat) : Bool := v.testBit i

/-- Bits [hi:lo] of a number, as the manual writes them (00 R10). -/
def bits (v hi lo : Nat) : Nat := (v >>> lo) % 2 ^ (hi + 1 - lo)

/-- `v` with bit `i` set or cleared. -/
def putBit (v i : Nat) (b : Bool) : Nat :=
  if b then v ||| (1 <<< i) else if v.testBit i then v - (1 <<< i) else v

def boolNat (b : Bool) : Nat := if b then 1 else 0

/-- A saturating sum (no counter of the manual wraps unless it says so). -/
def satAdd (m a b : Nat) : Nat := min m (a + b)

/-- Eight shifts of a reflected CRC-32 register. -/
def crc32Shift : Nat → Nat → Nat
  | 0, c => c
  | k + 1, c => crc32Shift k (if c % 2 = 1 then (c / 2) ^^^ 0xEDB88320 else c / 2)

/-- CRC-32 of IEEE 802.3 (polynomial 0x04C1_1DB7, reflected, initial and final value all ones). -/
def crc32 (l : List Byte) : Nat :=
  (l.foldl (fun c b => crc32Shift 8 (c ^^^ b.toNat)) 0xFFFFFFFF) ^^^ 0xFFFFFFFF

def crc16Shift : Nat → Nat → Nat
  | 0, c => c
  | k + 1, c =>
    crc16Shift k (if c ≥ 0x8000 then ((c * 2) % 0x10000) ^^^ 0x1021 else (c * 2) % 0x10000)

/-- CRC-16 CCITT with an initial value: polynomial 0x1021, not reflected, no final XOR. -/
def crc16From (initial : Nat) (l : List Byte) : Nat :=
  l.foldl (fun c b => crc16Shift 8 (c ^^^ (b.toNat * 256))) initial

/-- CRC-16 CCITT with initial value 0xFFFF (17 R464). -/
def crc16 (l : List Byte) : Nat := crc16From 0xFFFF l

/-- Parity of the low `k` bits. -/
def parityOf : Nat → Nat → Bool
  | 0, _ => false
  | k + 1, v => xor (v % 2 = 1) (parityOf k (v / 2))

/-- Rounded to nearest; a tie goes up (DESIGN CHOICE, log entry 6). -/
def roundQ (q : ℚ) : Int := (q + 1 / 2).floor

/-- Rounded to nearest, a negative result clamped to 0. -/
def roundN (q : ℚ) : Nat := (roundQ q).toNat

/-- Integer division rounded to nearest, ties up. -/
def roundDiv (a b : Nat) : Nat := if b = 0 then 0 else (2 * a + b) / (2 * b)

/-- Integer division rounded up. -/
def ceilDiv (a b : Nat) : Nat := if b = 0 then 0 else (a + b - 1) / b

/-- Integer square root, one bit a turn from bit `k`. -/
def isqrtFrom : Nat → Nat → Nat → Nat
  | 0, r, n => if (r + 1) * (r + 1) ≤ n then r + 1 else r
  | k + 1, r, n =>
    let t := r + 2 ^ (k + 1)
    isqrtFrom k (if t * t ≤ n then t else r) n

/-- The integer part of the square root. -/
def isqrt (n : Nat) : Nat := isqrtFrom (n.log2 / 2 + 1) 0 n

/-- Square root of a non-negative rational, down to 2^-60 (DESIGN CHOICE, log entry 7). -/
def sqrtQ (q : ℚ) : ℚ :=
  if q ≤ 0 then 0 else (isqrt ((q * (2 ^ 120 : Nat)).floor.toNat) : ℚ) / (2 ^ 60 : Nat)

/-- 2 to an integer power. -/
def pow2Q (e : Int) : ℚ := if 0 ≤ e then ((2 ^ e.toNat : Nat) : ℚ) else 1 / ((2 ^ (-e).toNat : Nat) : ℚ)

/-- The raw bits of a REAL32 name a NaN or an infinity. -/
def r32NotFinite (b : Nat) : Bool := bits b 30 23 == 255

/-- The value of finite REAL32 bits; 0 for bits that name no number. -/
def r32Value (b : Nat) : ℚ :=
  let m := bits b 22 0
  let e := bits b 30 23
  let a : ℚ :=
    if e = 255 then 0
    else if e = 0 then (m : ℚ) * pow2Q (-149)
    else ((8388608 + m : Nat) : ℚ) * pow2Q ((e : Int) - 150)
  if b.testBit 31 then -a else a

/-- Round half to even of a non-negative rational. -/
def roundEven (q : ℚ) : Nat :=
  let f := q.floor.toNat
  let d := q - f
  if d < 1 / 2 then f else if d > 1 / 2 then f + 1 else if f % 2 = 0 then f else f + 1

/-- Floor of the binary logarithm of a positive rational. -/
def log2Q (q : ℚ) : Int :=
  let g : Int := (q.num.natAbs.log2 : Int) - (q.den.log2 : Int)
  if pow2Q g ≤ q then (if pow2Q (g + 1) ≤ q then g + 1 else g) else g - 1

/-- The REAL32 nearest to a rational, ties to even (IEEE 754, 14 R387). -/
def r32Of (q : ℚ) : Nat :=
  if q = 0 then 0 else
    let s : Nat := if q < 0 then 2 ^ 31 else 0
    let a := if q < 0 then -q else q
    let e := max (log2Q a) (-126)
    let m := roundEven (a * pow2Q (23 - e))
    let raw : Int := (e + 126) * 8388608 + m
    if raw ≥ 255 * 8388608 then s + 255 * 8388608 else s + raw.toNat

/-- Insert into a rising list. -/
def insertSorted (x : Nat) : List Nat → List Nat
  | [] => [x]
  | y :: r => if x ≤ y then x :: y :: r else y :: insertSorted x r

/-- A list in rising order. -/
def sortN (l : List Nat) : List Nat := l.foldr insertSorted []

/-- Median of the values (of an even count, the lower of the middle two). -/
def medianN (l : List Nat) : Nat := (sortN l).getD ((l.length - 1) / 2) 0

def clampI (lo hi v : Int) : Int := max lo (min hi v)
def clampQ (lo hi v : ℚ) : ℚ := max lo (min hi v)

/-- Sum of a list of integers. -/
def sumI (l : List Int) : Int := l.foldl (· + ·) 0
def sumN (l : List Nat) : Nat := l.foldl (· + ·) 0
def sumQ (l : List ℚ) : ℚ := l.foldl (· + ·) 0

/-- ASCII bytes of a string. -/
def ascii (s : String) : List Byte := s.toList.map (fun c => BitVec.ofNat 8 c.toNat)

/-- Write a run of bytes into a byte list at an offset (a shorter list is first filled with zeros). -/
def overlay (l : List Byte) (off : Nat) (d : List Byte) : List Byte :=
  let l := l ++ List.replicate (off + d.length - l.length) 0#8
  l.take off ++ d ++ l.drop (off + d.length)

end Sys2Proof.Machine
end

