-- ==== Sys2Proof/Machine/Crypto.lean ====
section
/-!
DEFINITION. The authentication of images (18 R478 to R480): the AES-128 CMAC of a seal (FIPS 197, NIST SP 800-38B), and the ECDSA signature on
P-256 over SHA-256 of a firmware image (FIPS 180-4, FIPS 186-4). The keys that the module holds are free values of Config (log entry 11).
-/
namespace Sys2Proof.Machine

/-- The number that big-endian bytes spell. -/
def ofBe (l : List Byte) : Nat := l.foldl (fun n b => 256 * n + b.toNat) 0

/-- The `n` bytes of a number, the highest first. -/
def beBytes (n v : Nat) : List Byte := (leBytes n v).reverse

/-! ### AES-128 (FIPS 197) -/

/-- Multiplication by x in GF(2^8). -/
def gfDouble (a : Nat) : Nat := if 128 ≤ a then (2 * a) ^^^ 0x11B else 2 * a

/-- The product of two bytes in GF(2^8), over the lowest bits of the second. -/
def gfMul : Nat → Nat → Nat → Nat
  | 0, _, _ => 0
  | n + 1, a, b => (if b % 2 = 1 then a else 0) ^^^ gfMul n (gfDouble a) (b / 2)

/-- A power in GF(2^8). -/
def gfPow (a : Nat) : Nat → Nat
  | 0 => 1
  | n + 1 => gfMul 8 a (gfPow a n)

/-- A byte rotated to the left. -/
def rotByte (x k : Nat) : Nat := (x * 2 ^ k) % 256 ||| x / 2 ^ (8 - k)

/-- The substitution of a byte: its inverse, then the affine map. -/
def subByte (x : Nat) : Nat :=
  let y := gfPow x 254
  y ^^^ rotByte y 1 ^^^ rotByte y 2 ^^^ rotByte y 3 ^^^ rotByte y 4 ^^^ 0x63

/-- Two blocks added. -/
def xorBlock (a b : List Nat) : List Nat := List.zipWith (· ^^^ ·) a b

/-- The rows of the state shifted; the state stands column by column. -/
def shiftRows (s : List Nat) : List Nat := (List.range 16).map (fun i => s.getD (i % 4 + 4 * ((i / 4 + i % 4) % 4)) 0)

/-- The columns of the state mixed. -/
def mixColumns (s : List Nat) : List Nat :=
  (List.range 16).map (fun i =>
    let at_ := fun k => s.getD (i / 4 * 4 + (i + k) % 4) 0
    gfDouble (at_ 0) ^^^ gfDouble (at_ 1) ^^^ at_ 1 ^^^ at_ 2 ^^^ at_ 3)

/-- The next round key. -/
def nextKey (rcon : Nat) (k : List Nat) : List Nat :=
  let t := xorBlock [subByte (k.getD 13 0), subByte (k.getD 14 0), subByte (k.getD 15 0), subByte (k.getD 12 0)] [rcon, 0, 0, 0]
  let w0 := xorBlock (k.take 4) t
  let w1 := xorBlock ((k.drop 4).take 4) w0
  let w2 := xorBlock ((k.drop 8).take 4) w1
  w0 ++ w1 ++ w2 ++ xorBlock (k.drop 12) w2

/-- The rounds left; the last one mixes no columns. -/
def aesRounds : Nat → Nat → List Nat → List Nat → List Nat
  | 0, _, _, s => s
  | n + 1, rcon, k, s =>
    let k := nextKey rcon k
    let t := shiftRows (s.map subByte)
    aesRounds n (gfDouble rcon) k (xorBlock (if n = 0 then t else mixColumns t) k)

/-- One block encrypted. -/
def aesBlock (key block : List Nat) : List Nat := aesRounds 10 1 key (xorBlock block key)

/-! ### CMAC (NIST SP 800-38B) -/

/-- A block doubled in GF(2^128): the derivation of the subkeys. -/
def cmacDouble (b : List Nat) : List Nat :=
  let v := ofBe (b.map (BitVec.ofNat 8))
  (beBytes 16 (if v < 2 ^ 127 then 2 * v else (2 * v % 2 ^ 128) ^^^ 0x87)).map BitVec.toNat

/-- The chain over the blocks of a message, the last of them complete or padded. -/
def cmacChain (key : List Nat) : Nat → List Nat → List Nat → List Nat
  | 0, c, _ => c
  | n + 1, c, m =>
    if 16 < m.length then cmacChain key n (aesBlock key (xorBlock c (m.take 16))) (m.drop 16)
    else
      let k1 := cmacDouble (aesBlock key (List.replicate 16 0))
      let last := if m.length = 16 then xorBlock m k1 else xorBlock (m ++ 128 :: List.replicate (15 - m.length) 0) (cmacDouble k1)
      aesBlock key (xorBlock c last)

/-- The CMAC of a message. -/
def cmac (key : List Nat) (m : List Byte) : List Byte :=
  (cmacChain key (m.length / 16 + 1) (List.replicate 16 0) (m.map BitVec.toNat)).map (BitVec.ofNat 8)

/-- The seal of an image, its bytes 0x10 to 0x1F, is right under the module's seal key (18 R480). -/
def sealRight (d : List Byte) : Bool :=
  slice d 0x10 16 == cmac ((List.range 16).map (fun i => (Config.sealKey i).toNat)) (d.take 0x10 ++ List.replicate 16 0#8 ++ d.drop 0x20)

/-! ### SHA-256 (FIPS 180-4) -/

/-- The round constants. -/
def shaK : List Nat :=
  [0x428a2f98, 0x71374491, 0xb5c0fbcf, 0xe9b5dba5, 0x3956c25b, 0x59f111f1, 0x923f82a4, 0xab1c5ed5,
   0xd807aa98, 0x12835b01, 0x243185be, 0x550c7dc3, 0x72be5d74, 0x80deb1fe, 0x9bdc06a7, 0xc19bf174,
   0xe49b69c1, 0xefbe4786, 0x0fc19dc6, 0x240ca1cc, 0x2de92c6f, 0x4a7484aa, 0x5cb0a9dc, 0x76f988da,
   0x983e5152, 0xa831c66d, 0xb00327c8, 0xbf597fc7, 0xc6e00bf3, 0xd5a79147, 0x06ca6351, 0x14292967]
  ++ [0x27b70a85, 0x2e1b2138, 0x4d2c6dfc, 0x53380d13, 0x650a7354, 0x766a0abb, 0x81c2c92e, 0x92722c85,
   0xa2bfe8a1, 0xa81a664b, 0xc24b8b70, 0xc76c51a3, 0xd192e819, 0xd6990624, 0xf40e3585, 0x106aa070,
   0x19a4c116, 0x1e376c08, 0x2748774c, 0x34b0bcb5, 0x391c0cb3, 0x4ed8aa4a, 0x5b9cca4f, 0x682e6ff3,
   0x748f82ee, 0x78a5636f, 0x84c87814, 0x8cc70208, 0x90befffa, 0xa4506ceb, 0xbef9a3f7, 0xc67178f2]

/-- The initial hash value. -/
def shaStart : List Nat :=
  [0x6a09e667, 0xbb67ae85, 0x3c6ef372, 0xa54ff53a, 0x510e527f, 0x9b05688c, 0x1f83d9ab, 0x5be0cd19]

/-- A word rotated to the right. -/
def rotWord (x k : Nat) : Nat := (x / 2 ^ k) ||| (x * 2 ^ (32 - k)) % 2 ^ 32

/-- The message schedule, the last word first. -/
def shaSchedule : Nat → List Nat → List Nat
  | 0, w => w
  | n + 1, w =>
    let a := w.getD 14 0
    let b := w.getD 1 0
    let s0 := rotWord a 7 ^^^ rotWord a 18 ^^^ a / 2 ^ 3
    let s1 := rotWord b 17 ^^^ rotWord b 19 ^^^ b / 2 ^ 10
    shaSchedule n ((w.getD 15 0 + s0 + w.getD 6 0 + s1) % 2 ^ 32 :: w)

/-- One round on the eight working variables, with its constant and word. -/
def shaRound (h : List Nat) (kw : Nat × Nat) : List Nat :=
  match h with
  | [a, b, c, d, e, f, g, i] =>
    let t1 := i + (rotWord e 6 ^^^ rotWord e 11 ^^^ rotWord e 25) + ((e &&& f) ^^^ ((2 ^ 32 - 1 - e) &&& g)) + kw.1 + kw.2
    let t2 := (rotWord a 2 ^^^ rotWord a 13 ^^^ rotWord a 22) + ((a &&& b) ^^^ (a &&& c) ^^^ (b &&& c))
    [(t1 + t2) % 2 ^ 32, a, b, c, (d + t1) % 2 ^ 32, e, f, g]
  | h => h

/-- The blocks of 64 bytes of a padded message, one after another. -/
def shaBlocks : Nat → List Nat → List Byte → List Nat
  | 0, h, _ => h
  | n + 1, h, m =>
    let w := (List.range 16).map (fun i => ofBe (slice m (4 * i) 4))
    let out := (shaK.zip (shaSchedule 48 w.reverse).reverse).foldl shaRound h
    shaBlocks n (List.zipWith (fun a b => (a + b) % 2 ^ 32) h out) (m.drop 64)

/-- The hash of a message, as a number. -/
def sha256 (m : List Byte) : Nat :=
  let padded := m ++ 0x80#8 :: List.replicate ((119 - m.length % 64) % 64) 0#8 ++ beBytes 8 (8 * m.length)
  (shaBlocks (padded.length / 64) shaStart padded).foldl (fun n w => 2 ^ 32 * n + w) 0

/-! ### ECDSA on P-256 (FIPS 186-4) -/

/-- The field of the curve. -/
abbrev ecField : Nat := 2 ^ 256 - 2 ^ 224 + 2 ^ 192 + 2 ^ 96 - 1
/-- The order of the base point. -/
abbrev ecOrder : Nat := 0xffffffff00000000ffffffffffffffffbce6faada7179e84f3b9cac2fc632551
/-- The base point. -/
abbrev ecBase : Nat × Nat :=
  (0x6b17d1f2e12c4247f8bce6e563a440f277037d812deb33a0f4a13945d898c296, 0x4fe342e2fe1a7f9b8ee7eb4a7c0f9e162bce33576b315ececbb6406837bf51f5)

/-- A power modulo `m`, over the lowest bits of the exponent. -/
def powMod (m : Nat) : Nat → Nat → Nat → Nat
  | 0, _, _ => 1 % m
  | n + 1, b, e => (if e % 2 = 1 then b * powMod m n (b * b % m) (e / 2) else powMod m n (b * b % m) (e / 2)) % m

/-- The inverse modulo a prime. -/
def invMod (m a : Nat) : Nat := powMod m 256 (a % m) (m - 2)

/-- The third point of a line with a slope, reflected. -/
def ecLine (slope x1 y1 x2 : Nat) : Nat × Nat :=
  let p := ecField
  let x := (slope * slope + 2 * p - x1 - x2) % p
  (x, (slope * (x1 + p - x) + p - y1) % p)

/-- The sum of two points; none is the point at infinity. -/
def ecAdd (a b : Option (Nat × Nat)) : Option (Nat × Nat) :=
  let p := ecField
  match a, b with
  | none, b => b
  | a, none => a
  | some (x1, y1), some (x2, y2) =>
    if x1 ≠ x2 then some (ecLine ((y2 + p - y1) * invMod p (x2 + p - x1) % p) x1 y1 x2)
    else if (y1 + y2) % p = 0 then none
    else some (ecLine ((3 * x1 * x1 + p - 3) * invMod p (2 * y1) % p) x1 y1 x2)

/-- A multiple of a point, over the lowest bits of the factor. -/
def ecMul : Nat → Nat → Option (Nat × Nat) → Option (Nat × Nat)
  | 0, _, _ => none
  | n + 1, k, a =>
    let h := ecMul n (k / 2) (ecAdd a a)
    if k % 2 = 1 then ecAdd a h else h

/-- The signature (r, s) of a hash is valid under a public key. -/
def ecdsaValid (key : Nat × Nat) (hash r s : Nat) : Bool :=
  let n := ecOrder
  if r = 0 ∨ n ≤ r ∨ s = 0 ∨ n ≤ s then false
  else
    let w := invMod n s
    match ecAdd (ecMul 256 (hash * w % n) (some ecBase)) (ecMul 256 (r * w % n) (some key)) with
    | some (x, _) => x % n == r
    | none => false

/-- The signature of a firmware image is valid under the key of its index, 0 to 3 (18 R478, R479; log entry 183 for the byte order). -/
def signatureRight (d : List Byte) : Bool :=
  let key := field d 0x20 1
  decide (key < 4) && ecdsaValid (Config.imageKey key) (sha256 (d.take 0x40 ++ d.drop 0x100)) (field d 0x40 32) (field d 0x60 32)

end Sys2Proof.Machine
end

