-- ==== Sys2Proof/Machine/Objects.lean ====
section
/-!
DEFINITION. The object table: every row of the object tables of chapters 02 to 19 (14 R386 to R390, R407, R409),
with its type, access, rights, default, range and what a reset does to it.
An array is one row with its first and last subindex; an object repeated per port, loop, trace or slot is one row
with a block count and a stride of its index.
-/
namespace Sys2Proof.Machine

/-- The data types of 14 R387. -/
inductive OType where
  | bool | i8 | i16 | i32 | i64 | u8 | u16 | u32 | u64 | r32 | text | octets | domain
  deriving DecidableEq, Repr

/-- The access column, 14 R388. -/
inductive Access where
  | ro | rw | wo | const
  deriving DecidableEq, Repr

/-- The rights column, 14 R389: who may write. -/
inductive Rights where
  | h | m | hm
  deriving DecidableEq, Repr

/-- The default column. `factory` is a value measured or set at manufacture, which the manual does not state. -/
inductive Default where
  | num (v : Int)
  | nums (l : List Int)
  | bytes
  | factory
  | nodeIdPlus (base : Nat)
  | ports
  | productCode
  | variantName
  | valves
  | deviceType
  | revision
  | serial
  deriving DecidableEq, Repr

/-- The range column. `relative` ranges are stated against another object's value. -/
inductive Range where
  | any
  | between (lo hi : Int)
  | betweenOr (lo hi other : Int)
  | multiple (lo hi k : Int)
  | oneOf (l : List Int)
  | relative
  | finite
  | realAtLeast (lo : Int)
  | realAbove0
  | realBetween (lo hi : Int)
  deriving DecidableEq, Repr

/-- What resets do to the object: `counter` saturates, survives every reset and is cleared with the recorder
(17 R471); `saturating` saturates and is kept by its own chapter's rule; `sinceStart` restarts at each start of the
main side (12 R344); `stored` persists through 0x1010 (14 R403); `plain` is none of these. -/
inductive Keep where
  | plain | counter | saturating | sinceStart | stored
  deriving DecidableEq, Repr

/-- One row of an object table. -/
structure ObjRow where
  index : Nat
  blocks : Nat
  stride : Nat
  subLo : Nat
  subHi : Nat
  type : OType
  access : Access
  rights : Rights
  dflt : Default
  range : Range
  keep : Keep
  name : String
  deriving DecidableEq, Repr

/-- Object rows of chapter 02, as its object table gives them (1 of 2). -/
def rowsTime0 : List ObjRow := [
  ⟨0x2100, 1, 0, 1, 1, .u8, .ro, .hm, .num 0, .any, .plain, "Time state"⟩,
  ⟨0x2100, 1, 0, 2, 2, .u64, .ro, .hm, .num 0, .any, .plain, "Counter, latched at read"⟩,
  ⟨0x2100, 1, 0, 3, 3, .u16, .ro, .hm, .num 0, .any, .plain, "Grandmaster ID"⟩,
  ⟨0x2100, 1, 0, 4, 4, .u8, .ro, .hm, .num 0, .any, .plain, "Hops from grandmaster"⟩,
  ⟨0x2100, 1, 0, 5, 5, .u8, .ro, .hm, .num 0, .any, .plain, "Upstream port"⟩,
  ⟨0x2100, 1, 0, 6, 6, .i32, .ro, .hm, .num 0, .any, .plain, "Last offset theta"⟩,
  ⟨0x2100, 1, 0, 7, 7, .bool, .ro, .hm, .num 0, .any, .plain, "Learned frequency valid"⟩,
  ⟨0x2100, 1, 0, 8, 8, .i32, .ro, .hm, .num 0, .any, .plain, "Frequency correction"⟩,
  ⟨0x2100, 1, 0, 9, 9, .u32, .ro, .hm, .num 0, .any, .plain, "Holdover elapsed"⟩,
  ⟨0x2101, 1, 0, 1, 1, .u16, .rw, .h, .num 65535, .betweenOr 0 0xFFF 0xFFFF, .stored, "Designated grandmaster"⟩,
  ⟨0x2101, 1, 0, 3, 3, .u16, .rw, .h, .num 2000, .between 500 10000, .stored, "Lock threshold"⟩,
  ⟨0x2101, 1, 0, 4, 4, .u16, .rw, .h, .num 100, .between 10 1000, .stored, "Unlock threshold"⟩,
  ⟨0x2101, 1, 0, 5, 5, .u16, .rw, .h, .num 125, .between 125 1000, .stored, "Sync interval"⟩,
  ⟨0x2102, 1, 0, 1, 4, .i16, .rw, .h, .num 0, .between (-5000) 5000, .stored, "Link asymmetry a, ports E, W, N, S"⟩,
  ⟨0x2103, 1, 0, 1, 4, .u32, .ro, .hm, .num 0, .any, .plain, "Link delay d, ports E, W, N, S"⟩,
  ⟨0x2104, 1, 0, 1, 1, .u8, .rw, .hm, .num 0, .between 0 2, .stored, "SYNC_IN mode"⟩,
  ⟨0x2104, 1, 0, 2, 2, .u8, .rw, .hm, .num 0, .between 0 1, .stored, "SYNC_IN active edge"⟩,
  ⟨0x2104, 1, 0, 3, 3, .u64, .rw, .hm, .num 800000000, .between 800000 8000000000, .stored, "SYNC_IN expected interval"⟩,
  ⟨0x2104, 1, 0, 4, 4, .u64, .ro, .hm, .num 0, .any, .plain, "SYNC_IN last capture"⟩,
  ⟨0x2104, 1, 0, 5, 5, .u32, .ro, .hm, .num 0, .any, .saturating, "SYNC_IN capture count"⟩,
  ⟨0x2104, 1, 0, 6, 6, .u32, .ro, .hm, .num 0, .any, .saturating, "SYNC_IN rejected edges"⟩,
  ⟨0x2105, 1, 0, 1, 1, .u8, .rw, .hm, .num 0, .between 0 2, .stored, "SYNC_OUT mode"⟩,
  ⟨0x2105, 1, 0, 2, 2, .u64, .rw, .hm, .num 800000000, .between 8000 8000000000, .stored, "SYNC_OUT period"⟩,
  ⟨0x2105, 1, 0, 3, 3, .u64, .rw, .hm, .num 0, .relative, .stored, "SYNC_OUT phase"⟩]

/-- Object rows of chapter 02, as its object table gives them (2 of 2). -/
def rowsTime1 : List ObjRow := [
  ⟨0x2105, 1, 0, 4, 4, .u32, .rw, .hm, .num 80000, .relative, .stored, "SYNC_OUT width"⟩,
  ⟨0x2106, 1, 0, 1, 1, .u16, .const, .hm, .factory, .between 0 5000, .plain, "Fire latency L_fire"⟩,
  ⟨0x2107, 1, 0, 1, 1, .u32, .ro, .hm, .num 0, .any, .counter, "Counter steps"⟩,
  ⟨0x2107, 1, 0, 2, 2, .u32, .ro, .hm, .num 0, .any, .counter, "LOCKED losses"⟩,
  ⟨0x2107, 1, 0, 3, 3, .u32, .ro, .hm, .num 0, .any, .counter, "Slack water entries"⟩,
  ⟨0x2107, 1, 0, 4, 4, .u32, .ro, .hm, .num 0, .any, .counter, "Grandmaster changes"⟩,
  ⟨0x2107, 1, 0, 5, 5, .u32, .ro, .hm, .num 0, .any, .counter, "Late to placer"⟩]

/-- Object rows of chapter 03, as its object table gives them (1 of 3). -/
def rowsCamera0 : List ObjRow := [
  ⟨0x2300, 4, 16, 1, 1, .u8, .ro, .hm, .num 0, .any, .plain, "Port state"⟩,
  ⟨0x2300, 4, 16, 2, 2, .u32, .ro, .hm, .num 0, .any, .plain, "Measured pixel clock"⟩,
  ⟨0x2300, 4, 16, 3, 3, .u32, .ro, .hm, .num 0, .any, .plain, "Frame number in progress"⟩,
  ⟨0x2300, 4, 16, 4, 4, .u32, .ro, .hm, .num 0, .any, .plain, "Last generation assigned"⟩,
  ⟨0x2300, 4, 16, 5, 5, .u64, .ro, .hm, .num 0, .any, .plain, "Last trigger index"⟩,
  ⟨0x2300, 4, 16, 6, 6, .u8, .ro, .hm, .num 0, .any, .plain, "PoCL state"⟩,
  ⟨0x2300, 4, 16, 7, 7, .u16, .ro, .hm, .num 0, .any, .plain, "PoCL current"⟩,
  ⟨0x2301, 4, 16, 1, 1, .u8, .rw, .h, .num 0, .between 0 2, .plain, "Stream command"⟩,
  ⟨0x2301, 4, 16, 2, 2, .bool, .rw, .hm, .num 1, .any, .stored, "PoCL enable"⟩,
  ⟨0x2301, 4, 16, 3, 3, .u8, .rw, .h, .num 0, .between 0 1, .stored, "Frame mode"⟩,
  ⟨0x2301, 4, 16, 4, 4, .u16, .rw, .h, .num 256, .between 64 1024, .stored, "Frame height H"⟩,
  ⟨0x2301, 4, 16, 5, 5, .u8, .rw, .h, .num 8, .between 4 32, .stored, "Frame buffers"⟩,
  ⟨0x2301, 4, 16, 6, 6, .bool, .wo, .hm, .num 0, .between 1 1, .plain, "PoCL re-arm"⟩,
  ⟨0x2302, 4, 16, 1, 1, .u8, .rw, .h, .num 0, .between 0 3, .stored, "Configuration"⟩,
  ⟨0x2302, 4, 16, 2, 2, .u8, .rw, .h, .num 0, .between 0 2, .stored, "Tap geometry"⟩,
  ⟨0x2302, 4, 16, 3, 3, .u8, .rw, .h, .num 0, .between 0 5, .stored, "Pixel format"⟩,
  ⟨0x2302, 4, 16, 4, 4, .u16, .rw, .h, .num 2048, .multiple 256 8192 64, .stored, "Line width W"⟩,
  ⟨0x2302, 4, 16, 5, 5, .bool, .rw, .h, .num 0, .any, .stored, "DVAL used"⟩,
  ⟨0x2302, 4, 16, 6, 6, .u8, .rw, .h, .num 255, .betweenOr 0 7 0xFF, .stored, "Settings latency d"⟩,
  ⟨0x2302, 4, 16, 7, 7, .u8, .rw, .h, .num 7, .between 1 15, .stored, "Bound dmax"⟩,
  ⟨0x2302, 4, 16, 8, 8, .u32, .rw, .h, .num 0, .between 0 16000000, .stored, "Pairing window wmin"⟩,
  ⟨0x2302, 4, 16, 9, 9, .u32, .rw, .h, .num 8000, .between 1 16000000, .stored, "Pairing window wmax"⟩,
  ⟨0x2302, 4, 16, 10, 10, .u32, .rw, .h, .num 0, .between 0 800000, .stored, "Exposure-centre offset"⟩,
  ⟨0x2302, 4, 16, 11, 11, .u8, .rw, .h, .num 0, .between 0 1, .stored, "CC1 mode"⟩]

/-- Object rows of chapter 03, as its object table gives them (2 of 3). -/
def rowsCamera1 : List ObjRow := [
  ⟨0x2302, 4, 16, 12, 12, .u8, .rw, .h, .num 0, .between 0 1, .stored, "CC1 polarity"⟩,
  ⟨0x2302, 4, 16, 13, 13, .u32, .rw, .h, .num 9600, .oneOf [9600, 19200, 38400, 57600, 115200], .stored, "Serial bit rate"⟩,
  ⟨0x2302, 4, 16, 14, 14, .u8, .rw, .h, .num 13, .between 0 255, .stored, "Reply terminator"⟩,
  ⟨0x2302, 4, 16, 15, 15, .u16, .rw, .h, .num 100, .between 10 2000, .stored, "Reply timeout"⟩,
  ⟨0x2302, 4, 16, 16, 16, .domain, .rw, .h, .bytes, .any, .stored, "Start-up block"⟩,
  ⟨0x2302, 4, 16, 17, 17, .u16, .rw, .h, .num 50, .between 0 10000, .stored, "Settle time"⟩,
  ⟨0x2303, 4, 16, 1, 1, .u32, .rw, .h, .num 2560000, .between 1280000 4294967295, .stored, "Trigger period"⟩,
  ⟨0x2303, 4, 16, 2, 2, .u32, .rw, .h, .num 0, .relative, .stored, "Trigger phase"⟩,
  ⟨0x2303, 4, 16, 3, 3, .u32, .rw, .h, .num 80, .relative, .stored, "CC1 width"⟩,
  ⟨0x2304, 4, 16, 1, 3, .u8, .rw, .h, .num 0, .between 0 6, .stored, "CC2, CC3, CC4 source"⟩,
  ⟨0x2304, 4, 16, 4, 4, .u8, .rw, .h, .num 0, .between 0 7, .stored, "Software levels"⟩,
  ⟨0x2305, 4, 16, 1, 1, .domain, .wo, .h, .bytes, .any, .plain, "Settings command"⟩,
  ⟨0x2305, 4, 16, 2, 2, .u8, .ro, .hm, .num 0, .any, .plain, "Commands queued"⟩,
  ⟨0x2305, 4, 16, 3, 3, .domain, .wo, .hm, .bytes, .any, .plain, "Raw transmit"⟩,
  ⟨0x2305, 4, 16, 4, 4, .domain, .ro, .hm, .bytes, .any, .plain, "Receive buffer, emptied by reading"⟩,
  ⟨0x2305, 4, 16, 5, 5, .u32, .ro, .hm, .num 0, .any, .saturating, "Receive overruns"⟩,
  ⟨0x2306, 4, 16, 1, 1, .u32, .ro, .hm, .num 0, .any, .plain, "Last frame number"⟩,
  ⟨0x2306, 4, 16, 2, 2, .u16, .ro, .hm, .num 0, .any, .plain, "Last frame height"⟩,
  ⟨0x2306, 4, 16, 3, 3, .u64, .ro, .hm, .num 0, .any, .plain, "Last frame first trigger index"⟩,
  ⟨0x2306, 4, 16, 4, 4, .u64, .ro, .hm, .num 0, .any, .plain, "Last frame first line time"⟩,
  ⟨0x2306, 4, 16, 5, 5, .u64, .ro, .hm, .num 0, .any, .plain, "Last frame last line time"⟩,
  ⟨0x2306, 4, 16, 6, 6, .u32, .ro, .hm, .num 0, .any, .plain, "Last frame generation"⟩,
  ⟨0x2306, 4, 16, 7, 7, .u8, .ro, .hm, .num 0, .any, .plain, "Last frame span u"⟩,
  ⟨0x2306, 4, 16, 8, 8, .u16, .ro, .hm, .num 0, .any, .plain, "Last frame flags"⟩]

/-- Object rows of chapter 03, as its object table gives them (3 of 3). -/
def rowsCamera2 : List ObjRow := [
  ⟨0x2306, 4, 16, 9, 9, .u16, .ro, .hm, .num 0, .any, .plain, "Last frame missing lines"⟩,
  ⟨0x2306, 4, 16, 10, 10, .u16, .ro, .hm, .num 0, .any, .plain, "Last frame short lines"⟩,
  ⟨0x2307, 4, 16, 1, 1, .u32, .ro, .hm, .num 0, .any, .counter, "Missing lines"⟩,
  ⟨0x2307, 4, 16, 2, 2, .u32, .ro, .hm, .num 0, .any, .counter, "Unsolicited lines"⟩,
  ⟨0x2307, 4, 16, 3, 3, .u32, .ro, .hm, .num 0, .any, .counter, "Short lines"⟩,
  ⟨0x2307, 4, 16, 4, 4, .u32, .ro, .hm, .num 0, .any, .counter, "FIFO overruns"⟩,
  ⟨0x2307, 4, 16, 5, 5, .u32, .ro, .hm, .num 0, .any, .counter, "Frames dropped"⟩,
  ⟨0x2307, 4, 16, 6, 6, .u32, .ro, .hm, .num 0, .any, .counter, "FVAL frames split"⟩,
  ⟨0x2307, 4, 16, 7, 7, .u32, .ro, .hm, .num 0, .any, .counter, "Short frames"⟩,
  ⟨0x2307, 4, 16, 8, 8, .u32, .ro, .hm, .num 0, .any, .counter, "Port losses"⟩,
  ⟨0x2307, 4, 16, 9, 9, .u32, .ro, .hm, .num 0, .any, .counter, "PoCL trips"⟩,
  ⟨0x2307, 4, 16, 10, 10, .u32, .ro, .hm, .num 0, .any, .counter, "Reply timeouts"⟩,
  ⟨0x2307, 4, 16, 11, 11, .u32, .ro, .hm, .num 0, .any, .counter, "Settings commands sent"⟩,
  ⟨0x2307, 4, 16, 12, 12, .u32, .ro, .hm, .num 0, .any, .counter, "Start failures"⟩]

/-- Object rows of chapter 04, as its object table gives them (1 of 3). -/
def rowsPipeline0 : List ObjRow := [
  ⟨0x2400, 1, 0, 1, 1, .u16, .ro, .hm, .num 0, .any, .plain, "Fix engine load"⟩,
  ⟨0x2400, 1, 0, 2, 2, .u32, .ro, .hm, .num 0, .any, .counter, "Fixes emitted"⟩,
  ⟨0x2400, 1, 0, 3, 3, .u32, .ro, .hm, .num 0, .any, .counter, "Runs dropped"⟩,
  ⟨0x2400, 1, 0, 4, 4, .u32, .ro, .hm, .num 0, .any, .counter, "Runs not tracked, blob table full"⟩,
  ⟨0x2400, 1, 0, 5, 5, .u32, .ro, .hm, .num 0, .any, .counter, "Fixes bridged"⟩,
  ⟨0x2400, 1, 0, 6, 6, .u32, .ro, .hm, .num 0, .any, .counter, "Fixes cut"⟩,
  ⟨0x2400, 1, 0, 7, 7, .u32, .ro, .hm, .num 0, .any, .counter, "Fixes at length limit"⟩,
  ⟨0x2401, 1, 0, 1, 1, .u8, .rw, .h, .num 2, .between 1 32, .stored, "Minimum run length"⟩,
  ⟨0x2401, 1, 0, 2, 2, .u8, .rw, .h, .num 1, .between 0 8, .stored, "Run gap bridged"⟩,
  ⟨0x2401, 1, 0, 3, 3, .u16, .rw, .h, .num 8, .between 1 65535, .stored, "Minimum blob area"⟩,
  ⟨0x2401, 1, 0, 4, 4, .u16, .rw, .h, .num 512, .between 16 1024, .stored, "Blob length limit"⟩,
  ⟨0x2401, 1, 0, 5, 5, .u8, .rw, .h, .num 12, .betweenOr 4 20 0, .stored, "Backdrop tracking exponent, P0 and P1"⟩,
  ⟨0x2404, 1, 0, 1, 1, .u8, .rw, .h, .num 0, .between 0 3, .plain, "Capture command"⟩,
  ⟨0x2404, 1, 0, 2, 2, .u8, .rw, .h, .num 15, .between 0 15, .stored, "Capture ports"⟩,
  ⟨0x2404, 1, 0, 3, 3, .u16, .rw, .h, .num 256, .between 16 4096, .stored, "Capture lines N"⟩,
  ⟨0x2404, 1, 0, 4, 4, .u16, .rw, .h, .num 64, .between 1 4095, .stored, "Outlier limit"⟩,
  ⟨0x2404, 1, 0, 5, 5, .u16, .rw, .h, .num 2048, .between 256 3840, .stored, "Grey target"⟩,
  ⟨0x2404, 1, 0, 6, 6, .u8, .ro, .hm, .num 0, .any, .plain, "Capture status"⟩,
  ⟨0x2404, 1, 0, 7, 7, .u8, .ro, .hm, .num 0, .any, .plain, "Capture failure cause"⟩,
  ⟨0x2405, 1, 0, 1, 1, .u16, .ro, .hm, .num 0, .any, .plain, "Frame part load"⟩,
  ⟨0x2405, 1, 0, 2, 2, .u16, .ro, .hm, .num 0, .any, .plain, "Object part load, mean over 100 ms"⟩,
  ⟨0x2405, 1, 0, 3, 3, .u16, .ro, .hm, .num 0, .any, .plain, "Object queue occupancy"⟩,
  ⟨0x2405, 1, 0, 4, 4, .u16, .ro, .hm, .num 0, .any, .plain, "Chip queue occupancy"⟩,
  ⟨0x2405, 1, 0, 5, 5, .u8, .ro, .hm, .num 0, .any, .plain, "Busy frame buffers, P2"⟩]

/-- Object rows of chapter 04, as its object table gives them (2 of 3). -/
def rowsPipeline1 : List ObjRow := [
  ⟨0x2405, 1, 0, 6, 6, .u8, .ro, .hm, .num 0, .any, .plain, "Busy frame buffers, P3"⟩,
  ⟨0x2405, 1, 0, 7, 7, .u32, .ro, .hm, .num 0, .any, .counter, "Upper sightings"⟩,
  ⟨0x2405, 1, 0, 8, 8, .u32, .ro, .hm, .num 0, .any, .counter, "Local objects classified"⟩,
  ⟨0x2405, 1, 0, 9, 9, .u32, .ro, .hm, .num 0, .any, .counter, "Chips classified"⟩,
  ⟨0x2405, 1, 0, 10, 10, .u32, .ro, .hm, .num 0, .any, .counter, "Objects unclassified, queue full"⟩,
  ⟨0x2405, 1, 0, 11, 11, .u32, .ro, .hm, .num 0, .any, .counter, "Components cut"⟩,
  ⟨0x2405, 1, 0, 12, 12, .u32, .ro, .hm, .num 0, .any, .counter, "Components at length limit"⟩,
  ⟨0x2406, 1, 0, 1, 1, .u16, .rw, .h, .num 16, .between 1 65535, .stored, "Minimum object area"⟩,
  ⟨0x2406, 1, 0, 2, 2, .u16, .rw, .h, .num 2048, .between 64 4096, .stored, "Component length limit"⟩,
  ⟨0x2406, 1, 0, 3, 3, .u8, .rw, .h, .num 12, .betweenOr 4 20 0, .stored, "Backdrop tracking exponent, P2 and P3"⟩,
  ⟨0x2407, 1, 0, 1, 1, .u64, .ro, .hm, .num 0, .any, .plain, "Statistics ring base"⟩,
  ⟨0x2407, 1, 0, 2, 2, .u8, .const, .hm, .num 16, .any, .plain, "Ring depth"⟩,
  ⟨0x2407, 1, 0, 3, 6, .domain, .ro, .hm, .bytes, .any, .plain, "Latest statistics record, P0 to P3"⟩,
  ⟨0x2407, 1, 0, 7, 10, .u32, .ro, .hm, .num 0, .any, .plain, "Latest sequence, P0 to P3"⟩,
  ⟨0x2410, 4, 16, 1, 1, .domain, .rw, .h, .bytes, .any, .stored, "Black-level table"⟩,
  ⟨0x2410, 4, 16, 2, 2, .domain, .rw, .h, .bytes, .any, .stored, "Flat-field table"⟩,
  ⟨0x2410, 4, 16, 3, 3, .domain, .rw, .h, .bytes, .any, .stored, "Backdrop reference table"⟩,
  ⟨0x2410, 4, 16, 4, 4, .domain, .rw, .h, .bytes, .any, .stored, "Threshold table"⟩,
  ⟨0x2410, 4, 16, 5, 5, .domain, .rw, .h, .bytes, .any, .stored, "Colour matrix"⟩,
  ⟨0x2410, 4, 16, 6, 6, .domain, .rw, .h, .bytes, .any, .stored, "Histogram bin edges"⟩,
  ⟨0x2410, 4, 16, 7, 10, .r32, .rw, .h, .nums [3238002688, 1040711680, 0, 0], .any, .stored, "Lane map c0, c1, c2, c3"⟩,
  ⟨0x2410, 4, 16, 11, 11, .u32, .ro, .hm, .num 0, .any, .plain, "Context version"⟩,
  ⟨0x2410, 4, 16, 12, 12, .u8, .ro, .hm, .num 0, .any, .stored, "Tables valid"⟩,
  ⟨0x2500, 1, 0, 1, 1, .u8, .ro, .hm, .num 0, .any, .plain, "Active bank"⟩]

/-- Object rows of chapter 04, as its object table gives them (3 of 3). -/
def rowsPipeline2 : List ObjRow := [
  ⟨0x2500, 1, 0, 2, 2, .u8, .wo, .h, .num 0, .between 1 1, .plain, "Swap request"⟩,
  ⟨0x2500, 1, 0, 3, 3, .bool, .ro, .hm, .num 0, .any, .plain, "Swap pending or old bank in use"⟩,
  ⟨0x2500, 1, 0, 4, 4, .u32, .ro, .hm, .num 0, .any, .plain, "Frame number at last swap"⟩,
  ⟨0x2500, 1, 0, 5, 5, .u8, .ro, .hm, .num 255, .any, .plain, "Port of that frame"⟩,
  ⟨0x2500, 1, 0, 6, 6, .u32, .ro, .hm, .num 0, .any, .counter, "Swaps"⟩,
  ⟨0x2500, 1, 0, 7, 7, .u32, .ro, .hm, .num 0, .any, .counter, "Swaps refused"⟩,
  ⟨0x2500, 1, 0, 8, 8, .u32, .ro, .hm, .num 0, .any, .counter, "Verdicts delivered"⟩,
  ⟨0x2501, 2, 1, 1, 1, .domain, .rw, .h, .bytes, .any, .stored, "Bank image"⟩,
  ⟨0x2501, 2, 1, 2, 2, .bool, .ro, .hm, .num 0, .any, .plain, "Bank valid"⟩,
  ⟨0x2501, 2, 1, 3, 3, .u32, .ro, .hm, .num 0, .any, .plain, "Model ID"⟩,
  ⟨0x2501, 2, 1, 4, 4, .u16, .ro, .hm, .num 0, .any, .plain, "Tree count"⟩,
  ⟨0x2501, 2, 1, 5, 5, .u32, .ro, .hm, .num 0, .any, .plain, "Image CRC-32"⟩,
  ⟨0x2501, 2, 1, 6, 6, .u8, .wo, .h, .num 0, .between 0 15, .plain, "Load from library slot"⟩,
  ⟨0x2503, 1, 0, 1, 16, .text, .ro, .hm, .bytes, .any, .plain, "Class name, classes 0 to 15"⟩,
  ⟨0x2504, 1, 0, 1, 16, .bool, .ro, .hm, .num 0, .any, .plain, "Eject flag, classes 0 to 15"⟩,
  ⟨0x2505, 1, 0, 1, 16, .u8, .ro, .hm, .num 0, .any, .plain, "Eject threshold, classes 0 to 15"⟩,
  ⟨0x2506, 1, 0, 1, 16, .u32, .ro, .hm, .num 0, .any, .counter, "Verdicts, classes 0 to 15"⟩]

/-- Object rows of chapter 05, as its object table gives them (1 of 4). -/
def rowsTracker0 : List ObjRow := [
  ⟨0x2600, 1, 0, 1, 1, .u32, .ro, .hm, .num 0, .any, .plain, "Records in use"⟩,
  ⟨0x2600, 1, 0, 2, 2, .u32, .ro, .hm, .num 0, .any, .sinceStart, "Records in use, peak since start"⟩,
  ⟨0x2600, 1, 0, 3, 3, .u32, .ro, .hm, .num 0, .any, .counter, "Upper-first records opened"⟩,
  ⟨0x2600, 1, 0, 4, 4, .u32, .ro, .hm, .num 0, .any, .counter, "Fix-first records opened"⟩,
  ⟨0x2600, 1, 0, 5, 5, .u32, .ro, .hm, .num 0, .any, .counter, "Associations"⟩,
  ⟨0x2600, 1, 0, 6, 6, .u32, .ro, .hm, .num 0, .any, .counter, "Sightings and records discarded as foreign"⟩,
  ⟨0x2600, 1, 0, 7, 7, .u32, .ro, .hm, .num 0, .any, .counter, "Upper-alone predictions fix deadline passed, or "⟩,
  ⟨0x2600, 1, 0, 8, 8, .u32, .ro, .hm, .num 0, .any, .counter, "Records refused, table full"⟩,
  ⟨0x2600, 1, 0, 9, 9, .u32, .ro, .hm, .num 0, .any, .counter, "Default action, passed"⟩,
  ⟨0x2600, 1, 0, 10, 10, .u32, .ro, .hm, .num 0, .any, .counter, "Default action, ejected"⟩,
  ⟨0x2600, 1, 0, 11, 11, .u32, .ro, .hm, .num 0, .any, .counter, "Ejections decided by verdict"⟩,
  ⟨0x2600, 1, 0, 12, 12, .u32, .ro, .hm, .num 0, .any, .counter, "Objects passed by verdict"⟩,
  ⟨0x2600, 1, 0, 13, 13, .u32, .ro, .hm, .num 0, .any, .counter, "Wide objects clipped"⟩,
  ⟨0x2600, 1, 0, 14, 14, .u32, .ro, .hm, .num 0, .any, .counter, "Retired-valve replacements"⟩,
  ⟨0x2600, 1, 0, 15, 15, .u32, .ro, .hm, .num 0, .any, .counter, "Local fire requests"⟩,
  ⟨0x2601, 1, 0, 1, 1, .u32, .rw, .h, .num 3357, .between 0 10000, .stored, "Chute exit speed v_c"⟩,
  ⟨0x2601, 1, 0, 2, 2, .u32, .rw, .h, .num 50000, .between 0 2000000, .stored, "Chute exit to upper plane h_c"⟩,
  ⟨0x2601, 1, 0, 3, 3, .u32, .rw, .h, .num 40000, .between 10000 200000, .stored, "Upper to lower plane h_p"⟩,
  ⟨0x2601, 1, 0, 4, 4, .u32, .rw, .h, .num 25000, .between 5000 200000, .stored, "Lower plane to valve bar h_b"⟩,
  ⟨0x2601, 1, 0, 5, 5, .u32, .rw, .h, .num 9806650, .between 9700000 9900000, .stored, "Gravity g"⟩,
  ⟨0x2602, 1, 0, 1, 1, .u16, .rw, .h, .num 400, .between 20 5000, .stored, "Time gate G_t"⟩,
  ⟨0x2602, 1, 0, 2, 2, .u16, .rw, .h, .num 1500, .between 20 10000, .stored, "First-use time gate"⟩,
  ⟨0x2602, 1, 0, 3, 3, .u16, .rw, .h, .num 128, .between 16 1024, .stored, "Lateral gate G_u"⟩,
  ⟨0x2602, 1, 0, 4, 4, .u16, .rw, .h, .num 256, .between 16 1024, .stored, "First-use lateral gate"⟩]

/-- Object rows of chapter 05, as its object table gives them (2 of 4). -/
def rowsTracker1 : List ObjRow := [
  ⟨0x2602, 1, 0, 5, 5, .u16, .const, .hm, .num 4096, .any, .plain, "Associations to learn a prior"⟩,
  ⟨0x2602, 1, 0, 6, 6, .u16, .rw, .h, .num 170, .between 0 1000, .stored, "Configured centroid noise"⟩,
  ⟨0x2602, 1, 0, 7, 7, .u16, .ro, .hm, .num 0, .any, .plain, "Measured sigma_cu"⟩,
  ⟨0x2602, 1, 0, 8, 8, .u16, .ro, .hm, .num 0, .any, .plain, "Measured sigma_cl"⟩,
  ⟨0x2602, 1, 0, 9, 9, .u32, .ro, .hm, .num 0, .any, .saturating, "Twin pairs seen"⟩,
  ⟨0x2603, 1, 0, 1, 1, .u16, .rw, .h, .num 32, .between 0 512, .stored, "Air margin m"⟩,
  ⟨0x2603, 1, 0, 2, 2, .u16, .rw, .h, .num 96, .between 0 512, .stored, "First-use air margin"⟩,
  ⟨0x2603, 1, 0, 3, 3, .u16, .rw, .h, .num 64, .between 32 128, .stored, "Jet half-width J"⟩,
  ⟨0x2603, 1, 0, 4, 4, .u16, .rw, .h, .num 20, .between 0 1000, .stored, "End margin"⟩,
  ⟨0x2603, 1, 0, 5, 5, .u16, .rw, .h, .num 100, .between 0 2000, .stored, "Cover extension"⟩,
  ⟨0x2603, 1, 0, 6, 6, .u16, .rw, .h, .num 100, .between 20 2000, .stored, "Guard"⟩,
  ⟨0x2603, 1, 0, 7, 7, .u8, .rw, .h, .num 0, .between 0 1, .stored, "Default action"⟩,
  ⟨0x2603, 1, 0, 8, 8, .u16, .rw, .h, .num 450, .between 100 2000, .stored, "Remote lead bound"⟩,
  ⟨0x2603, 1, 0, 9, 9, .u8, .rw, .h, .num 16, .between 0 16, .stored, "Remote reach"⟩,
  ⟨0x2604, 1, 0, 1, 16, .u32, .rw, .h, .num 0, .any, .stored, "Placement, lane groups 0 to 15"⟩,
  ⟨0x2605, 1, 0, 1, 1, .u8, .ro, .hm, .num 0, .any, .plain, "Current epoch"⟩,
  ⟨0x2605, 1, 0, 2, 2, .bool, .rw, .h, .num 1, .any, .stored, "Governor enable"⟩,
  ⟨0x2605, 1, 0, 3, 3, .u16, .rw, .h, .num 8500, .between 1000 10000, .stored, "High threshold"⟩,
  ⟨0x2605, 1, 0, 4, 4, .u16, .rw, .h, .num 5000, .between 0 9000, .stored, "Low threshold"⟩,
  ⟨0x2605, 1, 0, 5, 5, .u16, .rw, .h, .num 4000, .between 1000 10000, .stored, "Derated high threshold"⟩,
  ⟨0x2605, 1, 0, 6, 6, .u16, .rw, .h, .num 6000, .between 0 10000, .stored, "Accept threshold"⟩,
  ⟨0x2605, 1, 0, 7, 7, .u8, .rw, .h, .num 1, .between 1 4, .stored, "Maximum target hops"⟩,
  ⟨0x2605, 1, 0, 8, 8, .u16, .rw, .h, .num 50, .between 10 500, .stored, "Verdict expiry"⟩,
  ⟨0x2605, 1, 0, 9, 9, .u16, .rw, .h, .num 100, .between 20 2000, .stored, "Re-issue margin"⟩]

/-- Object rows of chapter 05, as its object table gives them (3 of 4). -/
def rowsTracker2 : List ObjRow := [
  ⟨0x2606, 1, 0, 1, 16, .u32, .ro, .hm, .num 0, .any, .plain, "Speed prior v_prior, front, lane groups 0 to 15"⟩,
  ⟨0x2607, 1, 0, 1, 16, .u32, .ro, .hm, .num 0, .any, .plain, "Speed prior v_prior, back"⟩,
  ⟨0x2608, 1, 0, 1, 16, .u32, .ro, .hm, .num 0, .any, .saturating, "Association count n, front"⟩,
  ⟨0x2609, 1, 0, 1, 16, .u32, .ro, .hm, .num 0, .any, .saturating, "Association count n, back"⟩,
  ⟨0x260A, 1, 0, 1, 16, .i32, .ro, .hm, .num 0, .any, .plain, "Drift prior w_prior, front"⟩,
  ⟨0x260B, 1, 0, 1, 16, .i32, .ro, .hm, .num 0, .any, .plain, "Drift prior w_prior, back"⟩,
  ⟨0x260C, 1, 0, 1, 16, .u32, .ro, .hm, .num 0, .any, .plain, "sigma_floor, front"⟩,
  ⟨0x260D, 1, 0, 1, 16, .u32, .ro, .hm, .num 0, .any, .plain, "sigma_floor, back"⟩,
  ⟨0x260E, 1, 0, 1, 1, .u32, .ro, .hm, .num 0, .any, .counter, "Chips sent"⟩,
  ⟨0x260E, 1, 0, 2, 2, .u32, .ro, .hm, .num 0, .any, .counter, "Chips re-issued"⟩,
  ⟨0x260E, 1, 0, 3, 3, .u32, .ro, .hm, .num 0, .any, .counter, "Chips refused by target"⟩,
  ⟨0x260E, 1, 0, 4, 4, .u32, .ro, .hm, .num 0, .any, .counter, "Chips classified locally, store full"⟩,
  ⟨0x260E, 1, 0, 5, 5, .u32, .ro, .hm, .num 0, .any, .counter, "Verdicts accepted, local"⟩,
  ⟨0x260E, 1, 0, 6, 6, .u32, .ro, .hm, .num 0, .any, .counter, "Verdicts accepted, Ferry"⟩,
  ⟨0x260E, 1, 0, 7, 7, .u32, .ro, .hm, .num 0, .any, .counter, "Verdicts discarded, same epoch"⟩,
  ⟨0x260E, 1, 0, 8, 8, .u32, .ro, .hm, .num 0, .any, .counter, "Verdicts discarded, other epoch"⟩,
  ⟨0x260E, 1, 0, 9, 9, .u32, .ro, .hm, .num 0, .any, .counter, "Verdicts late"⟩,
  ⟨0x260E, 1, 0, 10, 10, .u8, .ro, .hm, .num 0, .any, .plain, "Epoch of last discarded verdict"⟩,
  ⟨0x260E, 1, 0, 11, 11, .u32, .ro, .hm, .num 0, .any, .counter, "Placement moves, line host"⟩,
  ⟨0x260E, 1, 0, 12, 12, .u32, .ro, .hm, .num 0, .any, .counter, "Placement moves, governor"⟩,
  ⟨0x260E, 1, 0, 13, 13, .u32, .ro, .hm, .num 0, .any, .plain, "Ferry round trip, last"⟩,
  ⟨0x260E, 1, 0, 14, 14, .u32, .ro, .hm, .num 0, .any, .sinceStart, "Ferry round trip, maximum since start"⟩,
  ⟨0x260E, 1, 0, 15, 15, .u32, .ro, .hm, .num 0, .any, .counter, "Chips refused to senders"⟩,
  ⟨0x260F, 1, 0, 1, 1, .u32, .ro, .hm, .num 0, .any, .counter, "FIRE sent to E"⟩]

/-- Object rows of chapter 05, as its object table gives them (4 of 4). -/
def rowsTracker3 : List ObjRow := [
  ⟨0x260F, 1, 0, 2, 2, .u32, .ro, .hm, .num 0, .any, .counter, "FIRE sent to W"⟩,
  ⟨0x260F, 1, 0, 3, 3, .u32, .ro, .hm, .num 0, .any, .counter, "FIRE received from the E neighbour, any port"⟩,
  ⟨0x260F, 1, 0, 4, 4, .u32, .ro, .hm, .num 0, .any, .counter, "FIRE received from the W neighbour, any port"⟩,
  ⟨0x260F, 1, 0, 5, 5, .u32, .ro, .hm, .num 0, .any, .counter, "FIRE from the E neighbour refused, time state"⟩,
  ⟨0x260F, 1, 0, 6, 6, .u32, .ro, .hm, .num 0, .any, .counter, "FIRE from the W neighbour refused, time state"⟩,
  ⟨0x260F, 1, 0, 7, 7, .u32, .ro, .hm, .num 0, .any, .counter, "FIRE from the E neighbour, target replaced"⟩,
  ⟨0x260F, 1, 0, 8, 8, .u32, .ro, .hm, .num 0, .any, .counter, "FIRE from the W neighbour, target replaced"⟩,
  ⟨0x260F, 1, 0, 9, 9, .u32, .ro, .hm, .num 0, .any, .counter, "FIRE refused, unknown sender or valve"⟩,
  ⟨0x2610, 1, 0, 1, 1, .u32, .rw, .hm, .num 0, .any, .plain, "Inspect handle"⟩,
  ⟨0x2610, 1, 0, 2, 2, .domain, .ro, .hm, .bytes, .any, .plain, "Inspected record"⟩]

/-- Object rows of chapter 06, as its object table gives them (1 of 5). -/
def rowsDrive0 : List ObjRow := [
  ⟨0x2700, 1, 0, 1, 1, .u8, .ro, .hm, .num 0, .any, .plain, "Drive state"⟩,
  ⟨0x2700, 1, 0, 2, 2, .bool, .ro, .hm, .num 0, .any, .plain, "VALVE_EN_IN asserted"⟩,
  ⟨0x2700, 1, 0, 3, 3, .u32, .ro, .hm, .num 0, .any, .plain, "VBST measured"⟩,
  ⟨0x2700, 1, 0, 4, 4, .u32, .ro, .hm, .num 0, .any, .plain, "V24 measured"⟩,
  ⟨0x2700, 1, 0, 5, 5, .u32, .ro, .hm, .num 0, .any, .counter, "Requests received"⟩,
  ⟨0x2700, 1, 0, 6, 6, .u32, .ro, .hm, .num 0, .any, .counter, "Requests accepted"⟩,
  ⟨0x2700, 1, 0, 7, 7, .u32, .ro, .hm, .num 0, .any, .counter, "Shots started"⟩,
  ⟨0x2700, 1, 0, 8, 8, .u32, .ro, .hm, .num 0, .any, .counter, "Merges"⟩,
  ⟨0x2700, 1, 0, 9, 9, .u32, .ro, .hm, .num 0, .any, .counter, "Deferrals"⟩,
  ⟨0x2700, 1, 0, 10, 10, .u32, .ro, .hm, .num 0, .any, .counter, "Group saturation"⟩,
  ⟨0x2700, 1, 0, 11, 11, .u32, .ro, .hm, .num 0, .any, .counter, "Off-time conflicts"⟩,
  ⟨0x2700, 1, 0, 12, 12, .u32, .ro, .hm, .num 0, .any, .counter, "Thermal skips"⟩,
  ⟨0x2700, 1, 0, 13, 13, .u32, .ro, .hm, .num 0, .any, .counter, "Budget skips"⟩,
  ⟨0x2700, 1, 0, 14, 14, .u32, .ro, .hm, .num 0, .any, .counter, "Refused, queue full"⟩,
  ⟨0x2700, 1, 0, 15, 15, .u32, .ro, .hm, .num 0, .any, .counter, "Refused, VALVE_EN"⟩,
  ⟨0x2700, 1, 0, 16, 16, .u32, .ro, .hm, .num 0, .any, .counter, "Refused, drive disabled"⟩,
  ⟨0x2700, 1, 0, 17, 17, .u32, .ro, .hm, .num 0, .any, .counter, "Refused, valve unavailable"⟩,
  ⟨0x2700, 1, 0, 18, 18, .u32, .ro, .hm, .num 0, .any, .counter, "Kinks accepted"⟩,
  ⟨0x2700, 1, 0, 19, 19, .u32, .ro, .hm, .num 0, .any, .counter, "Kinks lost"⟩,
  ⟨0x2700, 1, 0, 20, 20, .u32, .ro, .hm, .num 0, .any, .counter, "Windows not sampled"⟩,
  ⟨0x2700, 1, 0, 21, 21, .u32, .ro, .hm, .num 0, .any, .counter, "Kink outliers"⟩,
  ⟨0x2700, 1, 0, 22, 22, .u32, .ro, .hm, .num 0, .any, .plain, "Shot rate, last second"⟩,
  ⟨0x2700, 1, 0, 23, 23, .u8, .ro, .hm, .num 0, .any, .plain, "Budget state"⟩,
  ⟨0x2700, 1, 0, 24, 24, .u16, .ro, .hm, .num 10000, .any, .plain, "Sustained bucket level"⟩]

/-- Object rows of chapter 06, as its object table gives them (2 of 5). -/
def rowsDrive1 : List ObjRow := [
  ⟨0x2700, 1, 0, 25, 25, .i16, .ro, .hm, .num 0, .any, .plain, "Hottest winding estimate"⟩,
  ⟨0x2700, 1, 0, 26, 26, .u8, .ro, .hm, .num 0, .any, .plain, "Hottest valve"⟩,
  ⟨0x2700, 1, 0, 27, 27, .u32, .ro, .hm, .num 0, .any, .counter, "Holds cut"⟩,
  ⟨0x2701, 1, 0, 1, 1, .u32, .rw, .h, .num 60000, .between 48000 72000, .stored, "VBST set-point"⟩,
  ⟨0x2701, 1, 0, 2, 2, .u8, .rw, .h, .num 3, .between 1 3, .stored, "BOOST_SLOTS"⟩,
  ⟨0x2701, 1, 0, 3, 3, .u16, .rw, .h, .num 40, .between 0 200, .stored, "tDEFER_MAX"⟩,
  ⟨0x2701, 1, 0, 4, 4, .u16, .rw, .h, .num 200, .between 50 2000, .stored, "tOFF_MIN"⟩,
  ⟨0x2701, 1, 0, 5, 5, .u16, .rw, .h, .num 100, .between 0 1000, .stored, "Minimum jet time t_min_jet"⟩,
  ⟨0x2701, 1, 0, 6, 6, .u16, .rw, .h, .num 250, .between 50 2000, .stored, "Minimum hold H_min"⟩,
  ⟨0x2701, 1, 0, 7, 7, .u16, .rw, .h, .num 120, .between 40 1000, .stored, "Hold hysteresis"⟩,
  ⟨0x2702, 1, 0, 1, 1, .u8, .rw, .h, .num 4, .between 1 8, .stored, "Estimate exponent n"⟩,
  ⟨0x2702, 1, 0, 2, 2, .u16, .rw, .h, .num 1000, .between 0 2000, .stored, "Latency coupling kappa"⟩,
  ⟨0x2702, 1, 0, 3, 3, .u16, .rw, .h, .num 20, .between 0 500, .stored, "Jet transit t_jet"⟩,
  ⟨0x2702, 1, 0, 4, 4, .u16, .rw, .h, .num 110, .between 0 5000, .stored, "Advance distance d_adv"⟩,
  ⟨0x2702, 1, 0, 5, 5, .u32, .ro, .hm, .num 0, .any, .plain, "Bar speed v_bar"⟩,
  ⟨0x2702, 1, 0, 6, 6, .u16, .rw, .h, .num 50, .between 5 5000, .stored, "Kink amplitude threshold"⟩,
  ⟨0x2702, 1, 0, 7, 7, .u16, .rw, .h, .num 60, .between 10 500, .stored, "Outlier gate"⟩,
  ⟨0x2702, 1, 0, 8, 8, .u8, .const, .hm, .num 32, .any, .plain, "Kinks to calibrate"⟩,
  ⟨0x2702, 1, 0, 9, 9, .u16, .const, .hm, .num 256, .any, .plain, "Scatter window"⟩,
  ⟨0x2703, 1, 0, 1, 1, .u8, .rw, .h, .num 130, .between 60 180, .stored, "T_WARN"⟩,
  ⟨0x2703, 1, 0, 2, 2, .u8, .rw, .h, .num 155, .relative, .stored, "T_MAX"⟩,
  ⟨0x2703, 1, 0, 3, 3, .u8, .rw, .h, .num 20, .between 0 60, .stored, "Ambient offset"⟩,
  ⟨0x2703, 1, 0, 4, 4, .u8, .const, .hm, .num 15, .any, .plain, "Start offset"⟩,
  ⟨0x2703, 1, 0, 5, 5, .u32, .rw, .h, .num 800, .between 50 20000, .stored, "Winding capacity C_w"⟩]

/-- Object rows of chapter 06, as its object table gives them (3 of 5). -/
def rowsDrive2 : List ObjRow := [
  ⟨0x2703, 1, 0, 6, 6, .u32, .rw, .h, .num 6000, .between 100 100000, .stored, "Winding to body r_wb"⟩,
  ⟨0x2703, 1, 0, 7, 7, .u32, .rw, .h, .num 12000, .between 500 500000, .stored, "Body capacity C_b"⟩,
  ⟨0x2703, 1, 0, 8, 8, .u32, .rw, .h, .num 15000, .between 100 200000, .stored, "Body to ambient r_ba"⟩,
  ⟨0x2704, 1, 0, 1, 1, .u32, .rw, .h, .num 12000, .between 2000 50000, .stored, "Reference shot energy E_ref"⟩,
  ⟨0x2704, 1, 0, 2, 2, .u32, .const, .hm, .num 20000, .any, .plain, "Sustained shot rate"⟩,
  ⟨0x2704, 1, 0, 3, 3, .u32, .const, .hm, .num 64000, .any, .plain, "Burst shot rate"⟩,
  ⟨0x2704, 1, 0, 4, 4, .u8, .rw, .h, .num 224, .between 0 255, .stored, "Budget confidence threshold"⟩,
  ⟨0x2705, 1, 0, 1, 32, .u8, .ro, .hm, .num 0, .any, .plain, "Group state"⟩,
  ⟨0x2706, 1, 0, 1, 32, .u32, .ro, .hm, .num 0, .any, .counter, "Deferrals, per group"⟩,
  ⟨0x2707, 1, 0, 1, 32, .u32, .ro, .hm, .num 0, .any, .counter, "Group saturation, per group"⟩,
  ⟨0x2708, 1, 0, 1, 32, .u32, .ro, .hm, .num 0, .any, .sinceStart, "Largest deferral, per group"⟩,
  ⟨0x2709, 1, 0, 1, 32, .bool, .wo, .hm, .num 0, .between 1 1, .plain, "Group restore"⟩,
  ⟨0x270A, 1, 0, 1, 1, .u8, .rw, .hm, .num 0, .between 0 255, .stored, "Test shot valve"⟩,
  ⟨0x270A, 1, 0, 2, 2, .u16, .rw, .hm, .num 1000, .between 100 5000, .stored, "Test shot length"⟩,
  ⟨0x270A, 1, 0, 3, 3, .bool, .wo, .hm, .num 0, .between 1 1, .plain, "Test shot fire"⟩,
  ⟨0x2710, 1, 0, 1, 128, .u8, .rw, .hm, .num 0, .between 0 5, .stored, "Valve state"⟩,
  ⟨0x2711, 1, 0, 1, 128, .u8, .rw, .hm, .num 0, .between 0 5, .stored, "Valve state"⟩,
  ⟨0x2712, 1, 0, 1, 128, .u32, .ro, .hm, .num 0, .any, .plain, "Lead time L_k"⟩,
  ⟨0x2713, 1, 0, 1, 128, .u32, .ro, .hm, .num 0, .any, .plain, "Lead time L_k"⟩,
  ⟨0x2714, 1, 0, 1, 128, .u32, .ro, .hm, .num 0, .any, .plain, "Opening-latency estimate lambda_k"⟩,
  ⟨0x2715, 1, 0, 1, 128, .u32, .ro, .hm, .num 0, .any, .plain, "Opening-latency estimate lambda_k"⟩,
  ⟨0x2716, 1, 0, 1, 128, .u32, .ro, .hm, .num 0, .any, .plain, "Closing-delay estimate delta"⟩,
  ⟨0x2717, 1, 0, 1, 128, .u32, .ro, .hm, .num 0, .any, .plain, "Closing-delay estimate delta"⟩,
  ⟨0x2718, 1, 0, 1, 128, .u32, .ro, .hm, .num 0, .any, .sinceStart, "Kinks accepted since start"⟩]

/-- Object rows of chapter 06, as its object table gives them (4 of 5). -/
def rowsDrive3 : List ObjRow := [
  ⟨0x2719, 1, 0, 1, 128, .u32, .ro, .hm, .num 0, .any, .sinceStart, "Kinks accepted since start"⟩,
  ⟨0x271A, 1, 0, 1, 128, .u16, .ro, .hm, .num 0, .any, .plain, "Last kink amplitude"⟩,
  ⟨0x271B, 1, 0, 1, 128, .u16, .ro, .hm, .num 0, .any, .plain, "Last kink amplitude"⟩,
  ⟨0x271C, 1, 0, 1, 128, .u32, .ro, .hm, .num 4294967295, .any, .plain, "sigma_v"⟩,
  ⟨0x271D, 1, 0, 1, 128, .u32, .ro, .hm, .num 4294967295, .any, .plain, "sigma_v"⟩,
  ⟨0x271E, 1, 0, 1, 128, .u32, .ro, .hm, .num 4294967295, .any, .plain, "sigma_shot_floor"⟩,
  ⟨0x271F, 1, 0, 1, 128, .u32, .ro, .hm, .num 4294967295, .any, .plain, "sigma_shot_floor"⟩,
  ⟨0x2720, 1, 0, 1, 128, .i16, .ro, .hm, .num 0, .any, .plain, "Winding temperature theta_w"⟩,
  ⟨0x2721, 1, 0, 1, 128, .i16, .ro, .hm, .num 0, .any, .plain, "Winding temperature theta_w"⟩,
  ⟨0x2722, 1, 0, 1, 128, .i16, .ro, .hm, .num 0, .any, .plain, "Body temperature theta_b"⟩,
  ⟨0x2723, 1, 0, 1, 128, .i16, .ro, .hm, .num 0, .any, .plain, "Body temperature theta_b"⟩,
  ⟨0x2724, 1, 0, 1, 128, .u32, .ro, .hm, .num 0, .any, .counter, "Shots, per valve"⟩,
  ⟨0x2725, 1, 0, 1, 128, .u32, .ro, .hm, .num 0, .any, .counter, "Shots, per valve"⟩,
  ⟨0x2726, 1, 0, 1, 128, .u32, .ro, .hm, .num 0, .any, .counter, "Thermal skips, per valve"⟩,
  ⟨0x2727, 1, 0, 1, 128, .u32, .ro, .hm, .num 0, .any, .counter, "Thermal skips, per valve"⟩,
  ⟨0x2728, 1, 0, 1, 128, .u32, .ro, .hm, .num 0, .any, .counter, "Kinks lost, per valve"⟩,
  ⟨0x2729, 1, 0, 1, 128, .u32, .ro, .hm, .num 0, .any, .counter, "Kinks lost, per valve"⟩,
  ⟨0x272A, 1, 0, 1, 128, .u32, .const, .hm, .factory, .any, .plain, "Factory opening latency lambdaf"⟩,
  ⟨0x272B, 1, 0, 1, 128, .u32, .const, .hm, .factory, .any, .plain, "Factory opening latency lambdaf"⟩,
  ⟨0x272C, 1, 0, 1, 128, .u32, .const, .hm, .factory, .any, .plain, "Factory closing delay deltaf"⟩,
  ⟨0x272D, 1, 0, 1, 128, .u32, .const, .hm, .factory, .any, .plain, "Factory closing delay deltaf"⟩,
  ⟨0x272E, 1, 0, 1, 128, .u16, .const, .hm, .factory, .any, .plain, "Coil resistance r_c at 20 C"⟩,
  ⟨0x272F, 1, 0, 1, 128, .u16, .const, .hm, .factory, .any, .plain, "Coil resistance r_c at 20 C"⟩,
  ⟨0x2730, 1, 0, 1, 128, .u8, .ro, .hm, .num 0, .any, .plain, "Fire queue depth"⟩]

/-- Object rows of chapter 06, as its object table gives them (5 of 5). -/
def rowsDrive4 : List ObjRow := [
  ⟨0x2731, 1, 0, 1, 128, .u8, .ro, .hm, .num 0, .any, .plain, "Fire queue depth"⟩]

/-- Object rows of chapter 07, as its object table gives them (1 of 1). -/
def rowsSequencer : List ObjRow := [
  ⟨0x2800, 1, 0, 1, 1, .u32, .ro, .hm, .num 0, .any, .counter, "Microcode errors"⟩,
  ⟨0x2800, 1, 0, 2, 2, .u32, .ro, .hm, .num 0, .any, .counter, "Shots aborted, WAITI timeout"⟩,
  ⟨0x2800, 1, 0, 3, 3, .u32, .ro, .hm, .num 0, .any, .counter, "WAITI timeouts continued"⟩,
  ⟨0x2800, 1, 0, 4, 4, .u32, .ro, .hm, .num 0, .any, .counter, "Kink windows truncated"⟩,
  ⟨0x2800, 1, 0, 5, 5, .u32, .ro, .hm, .num 0, .any, .counter, "Shots aborted, VALVE_EN, power fail or group tri"⟩,
  ⟨0x2800, 1, 0, 6, 6, .u32, .ro, .hm, .num 0, .any, .counter, "Swaps completed"⟩,
  ⟨0x2800, 1, 0, 7, 7, .u32, .ro, .hm, .num 0, .any, .counter, "Swaps abandoned"⟩,
  ⟨0x2800, 1, 0, 8, 8, .u32, .ro, .hm, .num 0, .any, .counter, "Swaps refused"⟩,
  ⟨0x2800, 1, 0, 9, 9, .u32, .ro, .hm, .num 0, .any, .counter, "Images refused"⟩,
  ⟨0x2801, 1, 0, 1, 32, .domain, .rw, .hm, .bytes, .any, .plain, "Shadow image, per group"⟩,
  ⟨0x2802, 1, 0, 1, 32, .bool, .wo, .hm, .num 0, .between 1 1, .plain, "Swap request, per group"⟩,
  ⟨0x2803, 1, 0, 1, 32, .u8, .ro, .hm, .num 0, .any, .plain, "Store state, per group"⟩,
  ⟨0x2804, 1, 0, 1, 32, .u32, .ro, .hm, .num 0, .any, .plain, "Active image ID, per group"⟩,
  ⟨0x2805, 1, 0, 1, 32, .u32, .ro, .hm, .num 0, .any, .plain, "Shadow image ID, per group"⟩,
  ⟨0x2806, 1, 0, 1, 32, .u16, .ro, .hm, .num 0, .any, .plain, "Last swap delay, per group"⟩,
  ⟨0x2807, 1, 0, 1, 32, .u8, .ro, .hm, .num 0, .any, .plain, "Last image refusal cause, per group"⟩,
  ⟨0x2808, 1, 0, 1, 1, .domain, .wo, .hm, .bytes, .any, .plain, "Image to all groups"⟩,
  ⟨0x2808, 1, 0, 2, 2, .bool, .wo, .hm, .num 0, .between 1 1, .plain, "Swap request, all groups"⟩,
  ⟨0x2809, 1, 0, 1, 32, .domain, .ro, .hm, .bytes, .any, .plain, "Active image, per group"⟩,
  ⟨0x280A, 1, 0, 1, 1, .domain, .const, .hm, .bytes, .any, .plain, "Factory profile words"⟩,
  ⟨0x2810, 1, 0, 1, 128, .u8, .rw, .hm, .num 0, .between 0 15, .stored, "Profile selection"⟩,
  ⟨0x2811, 1, 0, 1, 128, .u8, .rw, .hm, .num 0, .between 0 15, .stored, "Profile selection"⟩,
  ⟨0x2812, 1, 0, 1, 128, .u8, .ro, .hm, .num 0, .any, .plain, "Last abort cause"⟩,
  ⟨0x2813, 1, 0, 1, 128, .u8, .ro, .hm, .num 0, .any, .plain, "Last abort cause"⟩]

/-- Object rows of chapter 08, as its object table gives them (1 of 3). -/
def rowsLedger0 : List ObjRow := [
  ⟨0x2900, 1, 0, 1, 1, .u16, .ro, .hm, .num 0, .any, .plain, "Valves retired"⟩,
  ⟨0x2900, 1, 0, 2, 2, .u16, .rw, .h, .num 16, .between 0 64, .stored, "Retirement cap"⟩,
  ⟨0x2900, 1, 0, 3, 3, .u16, .ro, .hm, .num 0, .any, .plain, "Valves due, not retired"⟩,
  ⟨0x2900, 1, 0, 4, 4, .u8, .ro, .hm, .num 100, .any, .plain, "Lowest valve margin"⟩,
  ⟨0x2900, 1, 0, 5, 5, .u8, .ro, .hm, .num 0, .any, .plain, "Valve with lowest margin"⟩,
  ⟨0x2900, 1, 0, 6, 6, .u32, .ro, .hm, .num 0, .any, .saturating, "Operating hours closed"⟩,
  ⟨0x2900, 1, 0, 7, 7, .u32, .ro, .hm, .num 0, .any, .saturating, "Store writes"⟩,
  ⟨0x2900, 1, 0, 8, 8, .bool, .ro, .hm, .num 0, .any, .plain, "Store valid at start"⟩,
  ⟨0x2901, 1, 0, 1, 1, .u16, .const, .hm, .num 150, .any, .plain, "Drift limit"⟩,
  ⟨0x2901, 1, 0, 2, 2, .u16, .const, .hm, .num 9500, .any, .plain, "Kink-loss limit per 10,000 shots"⟩,
  ⟨0x2901, 1, 0, 3, 3, .u16, .rw, .h, .num 256, .between 32 4096, .stored, "Kinks per hour for a drift test"⟩,
  ⟨0x2901, 1, 0, 4, 4, .u8, .rw, .h, .num 10, .between 2 50, .stored, "Boost rise tolerance"⟩,
  ⟨0x2901, 1, 0, 5, 5, .u16, .rw, .h, .num 6000, .between 0 12000, .stored, "VBST offset limit"⟩,
  ⟨0x2901, 1, 0, 6, 6, .u8, .rw, .h, .num 125, .between 100 150, .stored, "Strobe headroom"⟩,
  ⟨0x2901, 1, 0, 7, 7, .u8, .rw, .h, .num 20, .between 5 50, .stored, "Die margin step threshold"⟩,
  ⟨0x2901, 1, 0, 8, 8, .u8, .rw, .h, .num 5, .between 0 20, .stored, "Die margin immediate threshold"⟩,
  ⟨0x2901, 1, 0, 9, 9, .u8, .rw, .h, .num 10, .between 0 20, .stored, "Maximum threshold offset M_max"⟩,
  ⟨0x2901, 1, 0, 10, 10, .bool, .rw, .h, .num 1, .any, .stored, "Retirement enable"⟩,
  ⟨0x2902, 1, 0, 1, 4, .u16, .ro, .hm, .num 10000, .any, .plain, "Strobe output fraction f"⟩,
  ⟨0x2903, 1, 0, 1, 4, .u16, .ro, .hm, .num 10000, .any, .plain, "Strobe current factor"⟩,
  ⟨0x2904, 1, 0, 1, 4, .u8, .ro, .hm, .num 100, .any, .plain, "Strobe margin"⟩,
  ⟨0x2906, 1, 0, 1, 1, .u32, .ro, .hm, .num 0, .any, .plain, "Boost capacitance C"⟩,
  ⟨0x2906, 1, 0, 2, 2, .u32, .const, .hm, .factory, .any, .plain, "Factory capacitance C_f"⟩,
  ⟨0x2906, 1, 0, 3, 3, .u8, .ro, .hm, .num 100, .any, .plain, "Capacitance margin"⟩]

/-- Object rows of chapter 08, as its object table gives them (2 of 3). -/
def rowsLedger1 : List ObjRow := [
  ⟨0x2906, 1, 0, 4, 4, .u16, .ro, .hm, .num 0, .any, .plain, "VBST offset"⟩,
  ⟨0x2906, 1, 0, 5, 5, .u32, .ro, .hm, .num 0, .any, .plain, "Boost rise time, hourly mean"⟩,
  ⟨0x2907, 1, 0, 1, 4, .u16, .ro, .hm, .num 10000, .any, .plain, "Fan speed ratio r"⟩,
  ⟨0x2908, 1, 0, 1, 4, .u8, .ro, .hm, .num 100, .any, .plain, "Fan margin"⟩,
  ⟨0x2909, 1, 0, 1, 1, .u8, .ro, .hm, .num 100, .any, .plain, "Die margin, worst of the hour"⟩,
  ⟨0x2909, 1, 0, 2, 2, .u8, .ro, .hm, .num 0, .any, .plain, "Core voltage steps"⟩,
  ⟨0x2909, 1, 0, 3, 3, .u8, .ro, .hm, .num 0, .any, .plain, "Core voltage offset"⟩,
  ⟨0x290A, 1, 0, 1, 1, .u8, .ro, .hm, .num 0, .any, .plain, "Die threshold offset dT"⟩,
  ⟨0x290B, 1, 0, 1, 1, .u8, .wo, .hm, .num 0, .between 0 255, .plain, "Valve replaced"⟩,
  ⟨0x2910, 1, 0, 1, 128, .u64, .ro, .hm, .num 0, .any, .saturating, "Lifetime shots"⟩,
  ⟨0x2911, 1, 0, 1, 128, .u64, .ro, .hm, .num 0, .any, .saturating, "Lifetime shots"⟩,
  ⟨0x2912, 1, 0, 1, 128, .u32, .ro, .hm, .num 0, .any, .plain, "Reference closing delay delta_ref"⟩,
  ⟨0x2913, 1, 0, 1, 128, .u32, .ro, .hm, .num 0, .any, .plain, "Reference closing delay delta_ref"⟩,
  ⟨0x2914, 1, 0, 1, 128, .i32, .ro, .hm, .num 0, .any, .plain, "Drift D"⟩,
  ⟨0x2915, 1, 0, 1, 128, .i32, .ro, .hm, .num 0, .any, .plain, "Drift D"⟩,
  ⟨0x2916, 1, 0, 1, 128, .u16, .ro, .hm, .num 0, .any, .plain, "Hourly kink amplitude A_h"⟩,
  ⟨0x2917, 1, 0, 1, 128, .u16, .ro, .hm, .num 0, .any, .plain, "Hourly kink amplitude A_h"⟩,
  ⟨0x2918, 1, 0, 1, 128, .u16, .ro, .hm, .num 0, .any, .plain, "Amplitude baseline A_0"⟩,
  ⟨0x2919, 1, 0, 1, 128, .u16, .ro, .hm, .num 0, .any, .plain, "Amplitude baseline A_0"⟩,
  ⟨0x291A, 1, 0, 1, 128, .u16, .ro, .hm, .num 0, .any, .plain, "Lost kinks, last 10,000 qualifying shots"⟩,
  ⟨0x291B, 1, 0, 1, 128, .u16, .ro, .hm, .num 0, .any, .plain, "Lost kinks, last 10,000 qualifying shots"⟩,
  ⟨0x291C, 1, 0, 1, 128, .u8, .ro, .hm, .num 100, .any, .plain, "Valve margin"⟩,
  ⟨0x291D, 1, 0, 1, 128, .u8, .ro, .hm, .num 100, .any, .plain, "Valve margin"⟩,
  ⟨0x291E, 1, 0, 1, 128, .u8, .ro, .hm, .num 0, .any, .plain, "Retirement cause"⟩]

/-- Object rows of chapter 08, as its object table gives them (3 of 3). -/
def rowsLedger2 : List ObjRow := [
  ⟨0x291F, 1, 0, 1, 128, .u8, .ro, .hm, .num 0, .any, .plain, "Retirement cause"⟩,
  ⟨0x2920, 1, 0, 1, 128, .u8, .ro, .hm, .num 0, .any, .plain, "Coil threshold offset"⟩,
  ⟨0x2921, 1, 0, 1, 128, .u8, .ro, .hm, .num 0, .any, .plain, "Coil threshold offset"⟩]

/-- Object rows of chapter 09, as its object table gives them (1 of 3). -/
def rowsLoops0 : List ObjRow := [
  ⟨0x2A00, 1, 0, 1, 1, .u8, .ro, .hm, .num 0, .any, .plain, "Slots running"⟩,
  ⟨0x2A00, 1, 0, 2, 2, .u8, .ro, .hm, .num 0, .any, .plain, "Slots faulted"⟩,
  ⟨0x2A01, 1, 0, 1, 4, .u8, .rw, .h, .num 0, .between 0 1, .stored, "AIN0 to AIN3 mode"⟩,
  ⟨0x2A01, 1, 0, 5, 8, .u8, .rw, .h, .num 0, .between 0 1, .stored, "AOUT0 to AOUT3 mode"⟩,
  ⟨0x2A01, 1, 0, 9, 9, .u32, .rw, .h, .num 1000, .between 100 25000, .stored, "PWM frequency"⟩,
  ⟨0x2A01, 1, 0, 10, 10, .u16, .rw, .h, .num 1000, .between 10 60000, .stored, "PIN0 timeout"⟩,
  ⟨0x2A01, 1, 0, 11, 11, .u8, .rw, .h, .num 2, .between 1 8, .stored, "Tachometer pulses per revolution"⟩,
  ⟨0x2A02, 1, 0, 1, 4, .r32, .ro, .hm, .num 0, .any, .plain, "AIN0 to AIN3 value"⟩,
  ⟨0x2A02, 1, 0, 5, 5, .r32, .ro, .hm, .num 0, .any, .plain, "PIN0 frequency"⟩,
  ⟨0x2A02, 1, 0, 6, 9, .r32, .ro, .hm, .num 0, .any, .plain, "Fan speed 0 to 3"⟩,
  ⟨0x2A02, 1, 0, 10, 10, .r32, .ro, .hm, .num 0, .any, .plain, "Die temperature"⟩,
  ⟨0x2A02, 1, 0, 11, 11, .r32, .ro, .hm, .num 0, .any, .plain, "Coverage P2, P3"⟩,
  ⟨0x2A02, 1, 0, 12, 12, .r32, .ro, .hm, .num 0, .any, .plain, "Coverage P2, P3"⟩,
  ⟨0x2A10, 8, 16, 1, 1, .u8, .ro, .hm, .num 0, .any, .plain, "Loop state"⟩,
  ⟨0x2A10, 8, 16, 2, 2, .u8, .rw, .h, .num 0, .between 0 2, .stored, "Enable"⟩,
  ⟨0x2A10, 8, 16, 3, 3, .u8, .rw, .h, .num 0, .between 0 1, .stored, "Run condition"⟩,
  ⟨0x2A10, 8, 16, 4, 4, .bool, .wo, .hm, .num 0, .between 1 1, .plain, "Re-arm"⟩,
  ⟨0x2A10, 8, 16, 5, 5, .u8, .ro, .hm, .num 0, .any, .plain, "Fault cause"⟩,
  ⟨0x2A10, 8, 16, 6, 6, .u32, .rw, .h, .num 800000, .between 16000 800000000, .stored, "Sample period"⟩,
  ⟨0x2A10, 8, 16, 7, 7, .u32, .rw, .h, .num 0, .relative, .stored, "Sample phase"⟩,
  ⟨0x2A10, 8, 16, 8, 8, .r32, .rw, .hm, .num 0, .realBetween 0 100, .stored, "Manual output"⟩,
  ⟨0x2A10, 8, 16, 9, 9, .r32, .rw, .h, .num 0, .realBetween 0 100, .stored, "Idle output"⟩,
  ⟨0x2A10, 8, 16, 10, 10, .u8, .rw, .h, .num 1, .between 0 1, .stored, "Safe output mode"⟩,
  ⟨0x2A10, 8, 16, 11, 11, .r32, .rw, .h, .num 0, .realBetween 0 100, .stored, "Safe output value"⟩]

/-- Object rows of chapter 09, as its object table gives them (2 of 3). -/
def rowsLoops1 : List ObjRow := [
  ⟨0x2A10, 8, 16, 12, 12, .u8, .ro, .hm, .num 0, .any, .plain, "Active bank"⟩,
  ⟨0x2A10, 8, 16, 13, 13, .bool, .wo, .h, .num 0, .between 1 1, .plain, "Bank swap request"⟩,
  ⟨0x2A10, 8, 16, 14, 14, .bool, .ro, .hm, .num 0, .any, .plain, "Swap pending"⟩,
  ⟨0x2A11, 8, 16, 1, 1, .u8, .rw, .h, .num 0, .between 0 13, .stored, "Feedback source"⟩,
  ⟨0x2A11, 8, 16, 2, 2, .r32, .rw, .h, .num 1065353216, .finite, .stored, "Feedback gain g"⟩,
  ⟨0x2A11, 8, 16, 3, 3, .r32, .rw, .h, .num 0, .finite, .stored, "Feedback offset o"⟩,
  ⟨0x2A11, 8, 16, 4, 4, .u16, .rw, .h, .num 50, .between 1 60000, .stored, "Staleness limit"⟩,
  ⟨0x2A11, 8, 16, 5, 5, .u8, .rw, .h, .num 8, .between 1 255, .stored, "Stale samples to fault"⟩,
  ⟨0x2A11, 8, 16, 6, 6, .u8, .rw, .h, .num 0, .between 0 12, .stored, "Output"⟩,
  ⟨0x2A12, 8, 16, 1, 1, .r32, .rw, .hm, .num 0, .finite, .stored, "Set-point target (AEH-2564)"⟩,
  ⟨0x2A12, 8, 16, 2, 2, .r32, .rw, .h, .num 0, .realAtLeast 0, .stored, "Slew rate S (AEH-2564)"⟩,
  ⟨0x2A12, 8, 16, 3, 3, .u8, .rw, .h, .num 1, .between 1 5, .stored, "External set-point input (AEH-1282)"⟩,
  ⟨0x2A12, 8, 16, 4, 4, .r32, .rw, .h, .num 1065353216, .finite, .stored, "External gain g_sp (AEH-1282)"⟩,
  ⟨0x2A12, 8, 16, 5, 5, .r32, .rw, .h, .num 0, .finite, .stored, "External offset o_sp (AEH-1282)"⟩,
  ⟨0x2A12, 8, 16, 6, 6, .r32, .ro, .hm, .num 0, .any, .plain, "Set-point in force r"⟩,
  ⟨0x2A13, 8, 16, 1, 1, .domain, .rw, .h, .bytes, .any, .stored, "Bank A"⟩,
  ⟨0x2A14, 8, 16, 1, 1, .domain, .rw, .h, .bytes, .any, .stored, "Bank B"⟩,
  ⟨0x2A15, 8, 16, 1, 1, .u16, .rw, .h, .num 256, .between 0 65535, .stored, "Warm-up samples"⟩,
  ⟨0x2A15, 8, 16, 2, 2, .r32, .rw, .h, .num 1112014848, .realBetween 0 100, .stored, "Start limit"⟩,
  ⟨0x2A15, 8, 16, 3, 3, .r32, .rw, .h, .num 0, .finite, .stored, "Model gain K_m"⟩,
  ⟨0x2A15, 8, 16, 4, 4, .r32, .rw, .h, .num 0, .realAtLeast 0, .stored, "Model time constant tau_m"⟩,
  ⟨0x2A15, 8, 16, 5, 5, .r32, .rw, .h, .num 0, .relative, .stored, "Model dead time theta_m"⟩,
  ⟨0x2A15, 8, 16, 6, 6, .r32, .rw, .h, .num 0, .finite, .stored, "Model offset y_0"⟩,
  ⟨0x2A15, 8, 16, 7, 7, .r32, .rw, .h, .num 0, .realAtLeast 0, .stored, "Residual limit"⟩]

/-- Object rows of chapter 09, as its object table gives them (3 of 3). -/
def rowsLoops2 : List ObjRow := [
  ⟨0x2A15, 8, 16, 8, 8, .u16, .rw, .h, .num 16, .between 1 65535, .stored, "Residual samples to fault"⟩,
  ⟨0x2A16, 8, 16, 1, 14, .r32, .ro, .hm, .num 0, .any, .plain, "Nodes y_s, y, r, e, P, I, D, FF, v, w, u, u_a, ,"⟩,
  ⟨0x2A17, 8, 16, 1, 1, .u32, .ro, .hm, .num 0, .any, .counter, "Samples"⟩,
  ⟨0x2A17, 8, 16, 2, 2, .u32, .ro, .hm, .num 0, .any, .counter, "Stale or source-fault samples"⟩,
  ⟨0x2A17, 8, 16, 3, 3, .u32, .ro, .hm, .num 0, .any, .counter, "Samples at an output limit"⟩,
  ⟨0x2A17, 8, 16, 4, 4, .u32, .ro, .hm, .num 0, .any, .counter, "Faults"⟩,
  ⟨0x2A17, 8, 16, 5, 5, .u32, .ro, .hm, .num 0, .any, .counter, "Bank swaps"⟩,
  ⟨0x2A90, 4, 1, 1, 1, .u16, .rw, .hm, .num 11, .any, .plain, "Trace node"⟩,
  ⟨0x2A90, 4, 1, 2, 2, .u16, .rw, .hm, .num 1, .between 1 65535, .plain, "Decimation D"⟩,
  ⟨0x2A90, 4, 1, 3, 3, .u8, .rw, .hm, .num 0, .between 0 4, .plain, "Trigger mode"⟩,
  ⟨0x2A90, 4, 1, 4, 4, .u16, .rw, .hm, .num 11, .any, .plain, "Trigger node"⟩,
  ⟨0x2A90, 4, 1, 5, 5, .r32, .rw, .hm, .num 0, .finite, .plain, "Trigger level"⟩,
  ⟨0x2A90, 4, 1, 6, 6, .u16, .rw, .hm, .num 8192, .between 0 16383, .plain, "Pre-trigger samples"⟩,
  ⟨0x2A90, 4, 1, 7, 7, .u8, .wo, .hm, .num 0, .between 0 2, .plain, "Command"⟩,
  ⟨0x2A90, 4, 1, 8, 8, .u8, .ro, .hm, .num 0, .any, .plain, "Trace state"⟩,
  ⟨0x2A90, 4, 1, 9, 9, .u64, .ro, .hm, .num 0, .any, .plain, "Trigger tick"⟩,
  ⟨0x2A90, 4, 1, 10, 10, .domain, .ro, .hm, .bytes, .any, .plain, "Trace data"⟩,
  ⟨0x2A90, 4, 1, 11, 11, .u16, .ro, .hm, .num 0, .any, .plain, "Samples valid"⟩,
  ⟨0x2A90, 4, 1, 12, 12, .u64, .ro, .hm, .num 0, .any, .plain, "Sample interval"⟩,
  ⟨0x2A90, 4, 1, 13, 13, .u16, .ro, .hm, .num 0, .any, .plain, "Oldest sample index in ring"⟩]

/-- Object rows of chapter 10, as its object table gives them (1 of 3). -/
def rowsBackdrop0 : List ObjRow := [
  ⟨0x2B00, 1, 0, 1, 1, .u8, .ro, .hm, .num 0, .any, .plain, "Rail state"⟩,
  ⟨0x2B00, 1, 0, 2, 2, .u8, .ro, .hm, .num 0, .any, .plain, "Panel state, BF, BB"⟩,
  ⟨0x2B00, 1, 0, 3, 3, .u8, .ro, .hm, .num 0, .any, .plain, "Panel state, BF, BB"⟩,
  ⟨0x2B00, 1, 0, 4, 4, .u8, .ro, .hm, .num 0, .any, .plain, "Slots running"⟩,
  ⟨0x2B00, 1, 0, 5, 5, .u8, .ro, .hm, .num 0, .any, .plain, "Strobe hold"⟩,
  ⟨0x2B00, 1, 0, 6, 6, .u32, .ro, .hm, .num 0, .any, .counter, "Updates completed"⟩,
  ⟨0x2B00, 1, 0, 7, 7, .u32, .ro, .hm, .num 0, .any, .counter, "Requests superseded"⟩,
  ⟨0x2B00, 1, 0, 8, 8, .u32, .ro, .hm, .num 0, .any, .counter, "Requests refused"⟩,
  ⟨0x2B00, 1, 0, 9, 9, .u32, .ro, .hm, .num 0, .any, .counter, "Clear cycles"⟩,
  ⟨0x2B00, 1, 0, 10, 10, .u32, .ro, .hm, .num 0, .any, .counter, "Journal recoveries"⟩,
  ⟨0x2B00, 1, 0, 11, 11, .u32, .ro, .hm, .num 0, .any, .counter, "Ledger saturations"⟩,
  ⟨0x2B00, 1, 0, 12, 12, .u32, .ro, .hm, .num 0, .any, .counter, "Rail faults"⟩,
  ⟨0x2B00, 1, 0, 13, 13, .u32, .ro, .hm, .num 0, .any, .counter, "Strip writes"⟩,
  ⟨0x2B00, 1, 0, 14, 14, .u32, .ro, .hm, .num 0, .any, .plain, "Panel ID, BF, BB"⟩,
  ⟨0x2B00, 1, 0, 15, 15, .u32, .ro, .hm, .num 0, .any, .plain, "Panel ID, BF, BB"⟩,
  ⟨0x2B01, 1, 0, 1, 1, .u8, .rw, .h, .num 1, .between 0 2, .stored, "Inversion mode"⟩,
  ⟨0x2B01, 1, 0, 2, 2, .u8, .rw, .h, .num 8, .between 0 15, .stored, "Calibration grey level"⟩,
  ⟨0x2B01, 1, 0, 3, 3, .u8, .rw, .h, .num 32, .between 0 64, .stored, "Reference strip width w"⟩,
  ⟨0x2B01, 1, 0, 4, 4, .u8, .rw, .h, .num 8, .between 0 15, .stored, "Reference level"⟩,
  ⟨0x2B01, 1, 0, 5, 5, .u16, .rw, .h, .num 2000, .between 100 10000, .stored, "Rail hold time"⟩,
  ⟨0x2B01, 1, 0, 6, 6, .u8, .rw, .h, .num 0, .between 0 8, .stored, "Home image, BF, BB"⟩,
  ⟨0x2B01, 1, 0, 7, 7, .u8, .rw, .h, .num 0, .between 0 8, .stored, "Home image, BF, BB"⟩,
  ⟨0x2B01, 1, 0, 8, 8, .u8, .wo, .h, .num 0, .between 1 2, .plain, "Panel command"⟩,
  ⟨0x2B02, 1, 0, 1, 1, .i16, .rw, .h, .factory, .between (-2500) 2500, .stored, "VCOM trim, BF, BB"⟩]

/-- Object rows of chapter 10, as its object table gives them (2 of 3). -/
def rowsBackdrop1 : List ObjRow := [
  ⟨0x2B02, 1, 0, 2, 2, .i16, .rw, .h, .factory, .between (-2500) 2500, .stored, "VCOM trim, BF, BB"⟩,
  ⟨0x2B03, 1, 0, 1, 1, .domain, .rw, .h, .factory, .any, .stored, "Waveform table, BF, BB"⟩,
  ⟨0x2B03, 1, 0, 2, 2, .domain, .rw, .h, .factory, .any, .stored, "Waveform table, BF, BB"⟩,
  ⟨0x2B03, 1, 0, 3, 3, .u32, .ro, .hm, .factory, .any, .plain, "Table ID, BF, BB"⟩,
  ⟨0x2B03, 1, 0, 4, 4, .u32, .ro, .hm, .factory, .any, .plain, "Table ID, BF, BB"⟩,
  ⟨0x2B04, 1, 0, 1, 1, .domain, .rw, .hm, .factory, .any, .plain, "Trim map, BF, BB"⟩,
  ⟨0x2B04, 1, 0, 2, 2, .domain, .rw, .hm, .factory, .any, .plain, "Trim map, BF, BB"⟩,
  ⟨0x2B10, 1, 0, 1, 8, .domain, .rw, .h, .bytes, .any, .stored, "Image slot 1 to 8"⟩,
  ⟨0x2B11, 1, 0, 1, 8, .u32, .ro, .hm, .num 0, .any, .plain, "Image ID, slots 1 to 8"⟩,
  ⟨0x2B20, 8, 1, 1, 1, .u8, .rw, .h, .num 1, .between 0 1, .stored, "Panel"⟩,
  ⟨0x2B20, 8, 1, 2, 2, .u16, .rw, .h, .num 0, .between 0 511, .stored, "First, last column"⟩,
  ⟨0x2B20, 8, 1, 3, 3, .u16, .rw, .h, .num 511, .between 0 511, .stored, "First, last column"⟩,
  ⟨0x2B20, 8, 1, 4, 4, .u8, .rw, .h, .num 0, .between 0 31, .stored, "First, last row"⟩,
  ⟨0x2B20, 8, 1, 5, 5, .u8, .rw, .h, .num 27, .between 0 31, .stored, "First, last row"⟩,
  ⟨0x2B20, 8, 1, 6, 6, .u8, .rw, .h, .num 1, .between 1 8, .stored, "Image slot"⟩,
  ⟨0x2B20, 8, 1, 7, 7, .bool, .wo, .h, .num 0, .between 1 1, .plain, "Go"⟩,
  ⟨0x2B20, 8, 1, 8, 8, .u8, .ro, .hm, .num 0, .any, .plain, "Slot state"⟩,
  ⟨0x2B20, 8, 1, 9, 9, .u8, .ro, .hm, .num 0, .any, .plain, "Pairs done"⟩,
  ⟨0x2B20, 8, 1, 10, 10, .u8, .ro, .hm, .num 0, .any, .plain, "Pairs in waveform"⟩,
  ⟨0x2B20, 8, 1, 11, 11, .u8, .ro, .hm, .num 0, .any, .plain, "Last refusal cause"⟩,
  ⟨0x2B30, 1, 0, 1, 1, .text, .rw, .hm, .bytes, .any, .stored, "Host text"⟩,
  ⟨0x2B30, 1, 0, 2, 2, .u16, .ro, .hm, .num 0, .any, .plain, "Event code shown"⟩,
  ⟨0x2B30, 1, 0, 3, 3, .bool, .wo, .hm, .num 0, .between 1 1, .plain, "Acknowledge event code"⟩,
  ⟨0x2B40, 4, 1, 1, 1, .bool, .rw, .h, .num 0, .any, .stored, "Enable"⟩]

/-- Object rows of chapter 10, as its object table gives them (3 of 3). -/
def rowsBackdrop2 : List ObjRow := [
  ⟨0x2B40, 4, 1, 2, 2, .u8, .rw, .h, .num 2, .between 0 3, .stored, "Port followed"⟩,
  ⟨0x2B40, 4, 1, 3, 3, .u32, .rw, .h, .num 0, .between 0 800000, .stored, "Delay"⟩,
  ⟨0x2B40, 4, 1, 4, 4, .u32, .rw, .h, .num 8000, .between 80 80000, .stored, "Width"⟩,
  ⟨0x2B40, 4, 1, 5, 5, .u16, .rw, .h, .num 5000, .between 500 20000, .stored, "Set current I_set"⟩,
  ⟨0x2B40, 4, 1, 6, 6, .u16, .ro, .hm, .num 0, .any, .plain, "Effective current I_eff"⟩,
  ⟨0x2B40, 4, 1, 7, 7, .u16, .ro, .hm, .num 0, .any, .plain, "Forward voltage V_f"⟩,
  ⟨0x2B40, 4, 1, 8, 8, .u32, .ro, .hm, .num 0, .any, .plain, "Average power"⟩,
  ⟨0x2B40, 4, 1, 9, 9, .u8, .ro, .hm, .num 0, .any, .plain, "Channel state"⟩,
  ⟨0x2B40, 4, 1, 10, 10, .u32, .ro, .hm, .num 0, .any, .counter, "Pulses"⟩,
  ⟨0x2B40, 4, 1, 11, 11, .u32, .ro, .hm, .num 0, .any, .counter, "Seconds power-limited"⟩]

/-- Object rows of chapter 11, as its object table gives them (1 of 3). -/
def rowsPower0 : List ObjRow := [
  ⟨0x2C00, 1, 0, 1, 1, .u8, .ro, .hm, .num 0, .any, .plain, "Power state"⟩,
  ⟨0x2C00, 1, 0, 2, 2, .u16, .ro, .hm, .num 0, .any, .plain, "Mains voltage"⟩,
  ⟨0x2C00, 1, 0, 3, 3, .u16, .ro, .hm, .num 0, .any, .plain, "Mains frequency"⟩,
  ⟨0x2C00, 1, 0, 4, 4, .u16, .ro, .hm, .num 0, .any, .plain, "Input power"⟩,
  ⟨0x2C00, 1, 0, 5, 5, .u16, .ro, .hm, .num 0, .any, .plain, "Input power, 1 s mean"⟩,
  ⟨0x2C00, 1, 0, 6, 6, .u16, .ro, .hm, .num 0, .any, .plain, "Bus voltage"⟩,
  ⟨0x2C00, 1, 0, 7, 7, .u16, .ro, .hm, .num 0, .any, .plain, "Power factor"⟩,
  ⟨0x2C00, 1, 0, 8, 8, .u32, .ro, .hm, .num 0, .any, .saturating, "Input energy, lifetime"⟩,
  ⟨0x2C00, 1, 0, 9, 9, .u16, .ro, .hm, .num 24000, .any, .plain, "V_SB"⟩,
  ⟨0x2C00, 1, 0, 10, 10, .u8, .ro, .hm, .num 0, .any, .plain, "Island supply"⟩,
  ⟨0x2C00, 1, 0, 11, 11, .u32, .ro, .hm, .num 0, .any, .counter, "Power-fail warnings"⟩,
  ⟨0x2C00, 1, 0, 12, 12, .u32, .ro, .hm, .num 0, .any, .counter, "Mains returns during sequence"⟩,
  ⟨0x2C00, 1, 0, 13, 13, .u32, .ro, .hm, .num 0, .any, .counter, "Seconds refill suspended"⟩,
  ⟨0x2C00, 1, 0, 14, 14, .u32, .ro, .hm, .num 0, .any, .counter, "Wakes"⟩,
  ⟨0x2C00, 1, 0, 15, 15, .u32, .ro, .hm, .num 0, .any, .counter, "Moored requests refused or abandoned"⟩,
  ⟨0x2C01, 1, 0, 1, 1, .u8, .rw, .hm, .num 1, .between 0 1, .plain, "Requested power state"⟩,
  ⟨0x2C01, 1, 0, 2, 2, .u8, .rw, .hm, .num 7, .between 0 7, .plain, "Wake source enable"⟩,
  ⟨0x2C01, 1, 0, 3, 3, .u8, .rw, .hm, .num 0, .between 0 1, .plain, "WAKE_IN active edge"⟩,
  ⟨0x2C01, 1, 0, 4, 4, .u8, .rw, .hm, .num 1, .between 0 1, .plain, "WAKE_OUT mode"⟩,
  ⟨0x2C01, 1, 0, 5, 5, .u32, .rw, .hm, .num 0, .any, .plain, "Wake timer"⟩,
  ⟨0x2C01, 1, 0, 6, 6, .u8, .ro, .hm, .num 0, .any, .plain, "Last wake source"⟩,
  ⟨0x2C01, 1, 0, 7, 7, .u8, .rw, .hm, .num 0, .between 0 1, .plain, "Relay policy after power loss"⟩,
  ⟨0x2C01, 1, 0, 8, 8, .u16, .rw, .hm, .num 2000, .between 300 10000, .plain, "Moored entry limit"⟩,
  ⟨0x2C02, 1, 0, 1, 1, .u16, .ro, .hm, .num 0, .any, .plain, "V12 measured"⟩]

/-- Object rows of chapter 11, as its object table gives them (2 of 3). -/
def rowsPower1 : List ObjRow := [
  ⟨0x2C02, 1, 0, 2, 2, .u16, .ro, .hm, .num 0, .any, .plain, "V5 measured"⟩,
  ⟨0x2C02, 1, 0, 3, 3, .u16, .ro, .hm, .num 0, .any, .plain, "Core rail measured"⟩,
  ⟨0x2C02, 1, 0, 4, 4, .u8, .ro, .hm, .num 0, .any, .plain, "Rails in regulation"⟩,
  ⟨0x2C02, 1, 0, 5, 5, .u8, .ro, .hm, .num 0, .any, .plain, "Last rail fault"⟩,
  ⟨0x2C10, 1, 0, 1, 1, .i16, .ro, .hm, .num 0, .any, .plain, "Die temperature T"⟩,
  ⟨0x2C10, 1, 0, 2, 2, .i16, .ro, .hm, .num 0, .any, .plain, "8 s rate"⟩,
  ⟨0x2C10, 1, 0, 3, 3, .i16, .ro, .hm, .num 0, .any, .plain, "2 s rate"⟩,
  ⟨0x2C10, 1, 0, 4, 4, .u8, .ro, .hm, .num 0, .any, .plain, "Thermal status"⟩,
  ⟨0x2C10, 1, 0, 5, 5, .u8, .ro, .hm, .num 0, .any, .plain, "Derated causes"⟩,
  ⟨0x2C10, 1, 0, 6, 6, .u8, .ro, .hm, .num 0, .any, .plain, "Diode state"⟩,
  ⟨0x2C10, 1, 0, 7, 7, .u32, .ro, .hm, .num 0, .any, .plain, "Diode broken time"⟩,
  ⟨0x2C10, 1, 0, 8, 8, .i16, .ro, .hm, .num 0, .any, .sinceStart, "Highest T since start"⟩,
  ⟨0x2C10, 1, 0, 9, 9, .u8, .ro, .hm, .num 100, .any, .plain, "Warn threshold in force"⟩,
  ⟨0x2C10, 1, 0, 10, 10, .u8, .ro, .hm, .num 110, .any, .plain, "Derate threshold in force"⟩,
  ⟨0x2C11, 1, 0, 1, 1, .u8, .const, .hm, .num 100, .any, .plain, "Absolute warn"⟩,
  ⟨0x2C11, 1, 0, 2, 2, .u8, .const, .hm, .num 110, .any, .plain, "Absolute derate"⟩,
  ⟨0x2C11, 1, 0, 3, 3, .u8, .const, .hm, .num 125, .any, .plain, "Absolute shutdown"⟩,
  ⟨0x2C11, 1, 0, 4, 4, .u16, .const, .hm, .num 150, .any, .plain, "Rate-of-rise warn"⟩,
  ⟨0x2C11, 1, 0, 5, 5, .u16, .const, .hm, .num 400, .any, .plain, "Rate-of-rise derate"⟩,
  ⟨0x2C12, 1, 0, 1, 1, .u32, .ro, .hm, .num 0, .any, .counter, "Derated entries"⟩,
  ⟨0x2C12, 1, 0, 2, 2, .u32, .ro, .hm, .num 0, .any, .counter, "Seconds Derated"⟩,
  ⟨0x2C12, 1, 0, 3, 3, .u32, .ro, .hm, .num 0, .any, .counter, "Shutdowns"⟩,
  ⟨0x2C12, 1, 0, 4, 4, .u32, .ro, .hm, .num 0, .any, .counter, "Diode breaks"⟩,
  ⟨0x2C20, 1, 0, 1, 4, .u16, .ro, .hm, .num 0, .any, .plain, "Fan duty applied, fans 0 to 3"⟩]

/-- Object rows of chapter 11, as its object table gives them (3 of 3). -/
def rowsPower2 : List ObjRow := [
  ⟨0x2C21, 1, 0, 1, 1, .u16, .rw, .h, .num 3000, .between 2000 10000, .stored, "Fan floor duty"⟩,
  ⟨0x2C21, 1, 0, 2, 2, .u8, .rw, .h, .num 50, .between 20 80, .stored, "Floor temperature"⟩,
  ⟨0x2C21, 1, 0, 3, 3, .u8, .rw, .h, .num 90, .relative, .stored, "Full-duty temperature"⟩,
  ⟨0x2C22, 1, 0, 1, 4, .u32, .ro, .hm, .num 0, .any, .counter, "Fan stalls, fans 0 to 3"⟩]

/-- Object rows of chapter 12, as its object table gives them (1 of 2). -/
def rowsStates0 : List ObjRow := [
  ⟨0x2000, 1, 0, 1, 1, .u16, .ro, .hm, .num 0, .any, .plain, "Module ID"⟩,
  ⟨0x2000, 1, 0, 2, 2, .u16, .const, .hm, .productCode, .any, .plain, "Variant"⟩,
  ⟨0x2000, 1, 0, 3, 3, .text, .const, .hm, .factory, .any, .plain, "Serial number"⟩,
  ⟨0x2000, 1, 0, 4, 4, .u16, .const, .hm, .factory, .any, .plain, "Hardware issue"⟩,
  ⟨0x2000, 1, 0, 5, 5, .u32, .ro, .hm, .num 0, .any, .plain, "Firmware version"⟩,
  ⟨0x2000, 1, 0, 6, 6, .u32, .const, .hm, .factory, .any, .plain, "Boot ROM version"⟩,
  ⟨0x2000, 1, 0, 7, 7, .u16, .const, .hm, .valves, .any, .plain, "Valves fitted"⟩,
  ⟨0x2000, 1, 0, 8, 8, .u8, .const, .hm, .ports, .any, .plain, "Camera ports fitted"⟩,
  ⟨0x2000, 1, 0, 9, 9, .bool, .ro, .hm, .num 0, .any, .plain, "Calibration page valid"⟩,
  ⟨0x2001, 1, 0, 1, 1, .u8, .ro, .hm, .num 0, .any, .plain, "Module state"⟩,
  ⟨0x2001, 1, 0, 2, 2, .u8, .rw, .h, .num 1, .between 1 3, .plain, "State command"⟩,
  ⟨0x2001, 1, 0, 3, 3, .bool, .ro, .hm, .num 0, .any, .plain, "Derated"⟩,
  ⟨0x2001, 1, 0, 4, 4, .u8, .ro, .hm, .num 0, .any, .plain, "Previous state"⟩,
  ⟨0x2001, 1, 0, 5, 5, .u32, .ro, .hm, .num 0, .any, .saturating, "Time in state"⟩,
  ⟨0x2001, 1, 0, 6, 6, .u8, .ro, .hm, .num 0, .any, .plain, "Last transition trigger"⟩,
  ⟨0x2001, 1, 0, 7, 7, .u16, .ro, .hm, .num 0, .any, .plain, "Fault cause"⟩,
  ⟨0x2001, 1, 0, 8, 8, .u8, .ro, .hm, .num 0, .any, .plain, "Last refusal cause"⟩,
  ⟨0x2001, 1, 0, 9, 9, .u8, .rw, .h, .ports, .between 0 15, .stored, "Ports in use"⟩,
  ⟨0x2001, 1, 0, 10, 10, .u32, .ro, .hm, .num 0, .any, .saturating, "Operating seconds"⟩,
  ⟨0x2001, 1, 0, 11, 11, .u32, .ro, .hm, .num 0, .between 0 16777215, .plain, "Power-cycle count"⟩,
  ⟨0x2001, 1, 0, 12, 12, .u8, .ro, .hm, .num 0, .any, .plain, "Last reset kind"⟩,
  ⟨0x2001, 1, 0, 13, 13, .bool, .rw, .h, .num 0, .any, .stored, "Resume sorting after restart"⟩,
  ⟨0x2004, 1, 0, 1, 1, .u8, .ro, .hm, .num 0, .any, .plain, "Readiness"⟩,
  ⟨0x2005, 1, 0, 1, 1, .bool, .wo, .hm, .num 0, .between 1 1, .plain, "Restart command"⟩]

/-- Object rows of chapter 12, as its object table gives them (2 of 2). -/
def rowsStates1 : List ObjRow := [
  ⟨0x2005, 1, 0, 2, 2, .u32, .ro, .hm, .num 0, .any, .counter, "Watchdog restarts"⟩,
  ⟨0x2005, 1, 0, 3, 3, .u32, .ro, .hm, .num 0, .any, .counter, "Calibration runs"⟩,
  ⟨0x2005, 1, 0, 4, 4, .u32, .ro, .hm, .num 0, .any, .counter, "Calibration runs failed"⟩,
  ⟨0x2005, 1, 0, 5, 5, .u32, .ro, .hm, .num 0, .any, .plain, "Last calibration duration"⟩,
  ⟨0x2005, 1, 0, 6, 6, .u32, .ro, .hm, .num 0, .any, .counter, "Commands refused"⟩,
  ⟨0x2F03, 1, 0, 1, 1, .u8, .ro, .hm, .num 2, .any, .plain, "Self-test result"⟩,
  ⟨0x2F03, 1, 0, 2, 2, .u8, .ro, .hm, .num 0, .any, .plain, "Items passed"⟩,
  ⟨0x2F03, 1, 0, 3, 3, .u8, .ro, .hm, .num 0, .any, .plain, "Failing item"⟩,
  ⟨0x2F03, 1, 0, 4, 4, .u32, .ro, .hm, .num 0, .any, .plain, "Failure detail"⟩,
  ⟨0x2F03, 1, 0, 5, 5, .u16, .ro, .hm, .num 0, .any, .plain, "Duration"⟩,
  ⟨0x2F03, 1, 0, 6, 6, .u32, .ro, .hm, .num 0, .any, .counter, "Self-tests run"⟩,
  ⟨0x2F03, 1, 0, 7, 7, .u32, .ro, .hm, .num 0, .any, .counter, "Self-tests failed"⟩]

/-- Object rows of chapter 13, as its object table gives them (1 of 2). -/
def rowsStrand0 : List ObjRow := [
  ⟨0x2200, 1, 0, 1, 4, .u8, .ro, .hm, .num 0, .any, .plain, "Link state, E, W, N, S"⟩,
  ⟨0x2200, 1, 0, 5, 5, .u8, .ro, .hm, .num 0, .any, .plain, "ID state"⟩,
  ⟨0x2200, 1, 0, 6, 6, .u8, .ro, .hm, .num 255, .any, .plain, "Column learned"⟩,
  ⟨0x2200, 1, 0, 7, 7, .u8, .ro, .hm, .num 0, .any, .plain, "Straps"⟩,
  ⟨0x2200, 1, 0, 8, 8, .u16, .ro, .hm, .num 65535, .any, .plain, "Pending ID"⟩,
  ⟨0x2200, 1, 0, 9, 9, .u16, .ro, .hm, .num 65535, .any, .plain, "Host anchor"⟩,
  ⟨0x2200, 1, 0, 10, 10, .u16, .ro, .hm, .num 0, .any, .plain, "Records in topology table"⟩,
  ⟨0x2201, 1, 0, 1, 1, .u8, .rw, .h, .num 0, .between 0 1, .stored, "ID mode"⟩,
  ⟨0x2201, 1, 0, 2, 2, .u16, .rw, .h, .num 0, .between 0 4094, .stored, "Assigned ID"⟩,
  ⟨0x2201, 1, 0, 3, 3, .u8, .rw, .h, .num 8, .between 1 64, .stored, "Weight, FERRY"⟩,
  ⟨0x2201, 1, 0, 4, 4, .u8, .rw, .h, .num 4, .between 1 64, .stored, "Weight, DICT and EVENT"⟩,
  ⟨0x2201, 1, 0, 5, 5, .u8, .rw, .h, .num 2, .between 1 64, .stored, "Weight, WIN"⟩,
  ⟨0x2201, 1, 0, 6, 6, .u8, .rw, .h, .num 1, .between 1 64, .stored, "Weight, BULK"⟩,
  ⟨0x2202, 1, 0, 1, 1, .domain, .ro, .hm, .bytes, .any, .plain, "Topology table"⟩,
  ⟨0x2203, 1, 0, 1, 4, .u16, .ro, .hm, .num 65535, .any, .plain, "Neighbour ID, E, W, N, S"⟩,
  ⟨0x2204, 1, 0, 1, 4, .text, .ro, .hm, .bytes, .any, .plain, "Neighbour serial number, E, W, N, S"⟩,
  ⟨0x2206, 1, 0, 1, 1, .u32, .ro, .hm, .num 0, .any, .counter, "Frames forwarded"⟩,
  ⟨0x2206, 1, 0, 2, 2, .u32, .ro, .hm, .num 0, .any, .counter, "Frames detoured"⟩,
  ⟨0x2206, 1, 0, 3, 3, .u32, .ro, .hm, .num 0, .any, .counter, "Frames sidestepped"⟩,
  ⟨0x2206, 1, 0, 4, 4, .u32, .ro, .hm, .num 0, .any, .counter, "Frames dropped, no route"⟩,
  ⟨0x2206, 1, 0, 5, 5, .u32, .ro, .hm, .num 0, .any, .counter, "Frames dropped, hop limit"⟩,
  ⟨0x2206, 1, 0, 6, 6, .u32, .ro, .hm, .num 0, .any, .counter, "EVENT dropped, no host"⟩,
  ⟨0x2206, 1, 0, 7, 7, .u32, .ro, .hm, .num 0, .any, .counter, "DICT requests served"⟩,
  ⟨0x2206, 1, 0, 8, 8, .u32, .ro, .hm, .num 0, .any, .counter, "DICT requests aborted"⟩]

/-- Object rows of chapter 13, as its object table gives them (2 of 2). -/
def rowsStrand1 : List ObjRow := [
  ⟨0x2206, 1, 0, 9, 9, .u32, .ro, .hm, .num 0, .any, .counter, "WIN requests served"⟩,
  ⟨0x2206, 1, 0, 10, 10, .u32, .ro, .hm, .num 0, .any, .counter, "WIN requests refused"⟩,
  ⟨0x2206, 1, 0, 11, 11, .u64, .ro, .hm, .num 0, .any, .counter, "BULK bytes received"⟩,
  ⟨0x2206, 1, 0, 12, 12, .u64, .ro, .hm, .num 0, .any, .counter, "BULK bytes refused"⟩,
  ⟨0x2206, 1, 0, 13, 13, .u32, .ro, .hm, .num 0, .any, .counter, "Chips too large, classified locally"⟩,
  ⟨0x2206, 1, 0, 14, 14, .u32, .ro, .hm, .num 0, .any, .counter, "Chips discarded, incomplete"⟩,
  ⟨0x2210, 4, 1, 1, 1, .u32, .ro, .hm, .num 0, .any, .counter, "Frames sent"⟩,
  ⟨0x2210, 4, 1, 2, 2, .u32, .ro, .hm, .num 0, .any, .counter, "Frames received"⟩,
  ⟨0x2210, 4, 1, 3, 3, .u32, .ro, .hm, .num 0, .any, .counter, "CRC errors"⟩,
  ⟨0x2210, 4, 1, 4, 4, .u32, .ro, .hm, .num 0, .any, .counter, "Replays"⟩,
  ⟨0x2210, 4, 1, 5, 5, .u32, .ro, .hm, .num 0, .any, .counter, "TIME, FIRE and LINK frames discarded"⟩,
  ⟨0x2210, 4, 1, 6, 6, .u32, .ro, .hm, .num 0, .any, .counter, "Heartbeat losses"⟩,
  ⟨0x2210, 4, 1, 7, 7, .u32, .ro, .hm, .num 0, .any, .counter, "Link downs"⟩]

/-- Object rows of chapter 14, as its object table gives them (1 of 1). -/
def rowsDictionary : List ObjRow := [
  ⟨0x1010, 1, 0, 1, 3, .u32, .rw, .hm, .num 1, .any, .stored, "Store all, communication, application"⟩,
  ⟨0x1011, 1, 0, 1, 3, .u32, .rw, .hm, .num 1, .any, .stored, "Restore all, communication, application"⟩,
  ⟨0x2002, 1, 0, 1, 1, .u64, .wo, .hm, .num 0, .any, .plain, "Lock request"⟩,
  ⟨0x2002, 1, 0, 2, 5, .u64, .ro, .hm, .num 0, .any, .plain, "Lock slots 0 to 3"⟩,
  ⟨0x2002, 1, 0, 6, 6, .u8, .ro, .hm, .num 255, .any, .plain, "Slot granted to the reading master"⟩,
  ⟨0x2003, 1, 0, 1, 1, .u8, .wo, .hm, .num 0, .between 1 3, .plain, "Stage command"⟩,
  ⟨0x2003, 1, 0, 2, 2, .u8, .ro, .hm, .num 0, .any, .plain, "Stage state, reading master"⟩,
  ⟨0x2003, 1, 0, 3, 3, .u8, .ro, .hm, .num 0, .any, .plain, "Entries staged, reading master"⟩,
  ⟨0x2003, 1, 0, 4, 4, .u16, .rw, .hm, .num 60, .between 10 600, .stored, "Stage timeout"⟩,
  ⟨0x2003, 1, 0, 5, 5, .u32, .ro, .hm, .num 0, .any, .plain, "Last commit result, reading master"⟩,
  ⟨0x2003, 1, 0, 6, 6, .u32, .ro, .hm, .num 0, .any, .plain, "Failing entry, reading master"⟩,
  ⟨0x2003, 1, 0, 7, 7, .u64, .ro, .hm, .num 0, .any, .plain, "Last commit tick, reading master"⟩,
  ⟨0x2006, 1, 0, 1, 1, .u32, .ro, .hm, .num 0, .any, .counter, "Writes refused, edit lock"⟩,
  ⟨0x2006, 1, 0, 2, 2, .u32, .ro, .hm, .num 0, .any, .counter, "RPDO writes discarded, edit lock"⟩,
  ⟨0x2006, 1, 0, 3, 3, .u32, .ro, .hm, .num 0, .any, .counter, "Locks expired"⟩,
  ⟨0x2006, 1, 0, 4, 4, .u32, .ro, .hm, .num 0, .any, .counter, "Commits applied"⟩,
  ⟨0x2006, 1, 0, 5, 5, .u32, .ro, .hm, .num 0, .any, .counter, "Commits refused"⟩,
  ⟨0x2006, 1, 0, 6, 6, .u32, .ro, .hm, .num 0, .any, .counter, "Stages expired"⟩,
  ⟨0x2006, 1, 0, 7, 7, .u32, .ro, .hm, .num 0, .any, .counter, "Stores completed"⟩,
  ⟨0x2006, 1, 0, 8, 8, .u32, .ro, .hm, .num 0, .any, .counter, "Stores failed"⟩,
  ⟨0x2006, 1, 0, 9, 9, .u32, .ro, .hm, .num 0, .any, .plain, "Settings store sequence in force"⟩]

/-- Object rows of chapter 15, as its object table gives them (1 of 2). -/
def rowsSideband0 : List ObjRow := [
  ⟨0x1000, 1, 0, 0, 0, .u32, .const, .hm, .deviceType, .any, .plain, "Device type"⟩,
  ⟨0x1001, 1, 0, 0, 0, .u8, .ro, .hm, .num 0, .any, .plain, "Error register"⟩,
  ⟨0x1003, 1, 0, 0, 0, .u8, .rw, .m, .num 0, .between 0 0, .stored, "Errors recorded"⟩,
  ⟨0x1003, 1, 0, 1, 8, .u32, .ro, .hm, .num 0, .any, .plain, "Pre-defined error field"⟩,
  ⟨0x1005, 1, 0, 0, 0, .u32, .rw, .m, .num 128, .any, .stored, "COB-ID SYNC"⟩,
  ⟨0x1008, 1, 0, 0, 0, .text, .const, .hm, .variantName, .any, .plain, "Device name"⟩,
  ⟨0x1009, 1, 0, 0, 0, .text, .const, .hm, .factory, .any, .plain, "Hardware version"⟩,
  ⟨0x100A, 1, 0, 0, 0, .text, .ro, .hm, .bytes, .any, .plain, "Software version"⟩,
  ⟨0x1014, 1, 0, 0, 0, .u32, .rw, .m, .nodeIdPlus 128, .any, .stored, "COB-ID EMCY"⟩,
  ⟨0x1015, 1, 0, 0, 0, .u16, .rw, .m, .num 0, .between 0 65535, .stored, "EMCY inhibit time"⟩,
  ⟨0x1016, 1, 0, 1, 4, .u32, .rw, .m, .num 0, .any, .stored, "Consumer heartbeat time"⟩,
  ⟨0x1017, 1, 0, 0, 0, .u16, .rw, .m, .num 1000, .between 0 65535, .stored, "Producer heartbeat time"⟩,
  ⟨0x1018, 1, 0, 1, 1, .u32, .const, .hm, .factory, .any, .plain, "Vendor ID"⟩,
  ⟨0x1018, 1, 0, 2, 2, .u32, .const, .hm, .productCode, .any, .plain, "Product code"⟩,
  ⟨0x1018, 1, 0, 3, 3, .u32, .const, .hm, .revision, .any, .plain, "Revision number"⟩,
  ⟨0x1018, 1, 0, 4, 4, .u32, .const, .hm, .serial, .any, .plain, "Serial number"⟩,
  ⟨0x1200, 1, 0, 1, 1, .u32, .ro, .hm, .nodeIdPlus 1536, .any, .plain, "COB-ID client to server"⟩,
  ⟨0x1200, 1, 0, 2, 2, .u32, .ro, .hm, .nodeIdPlus 1408, .any, .plain, "COB-ID server to client"⟩,
  ⟨0x1400, 4, 1, 1, 1, .u32, .rw, .m, .nodeIdPlus 2147484160, .any, .stored, "RPDO COB-ID"⟩,
  ⟨0x1400, 4, 1, 2, 2, .u8, .rw, .m, .num 255, .any, .stored, "RPDO transmission type"⟩,
  ⟨0x1600, 4, 1, 0, 0, .u8, .rw, .m, .num 0, .between 0 8, .stored, "RPDO entries mapped"⟩,
  ⟨0x1600, 4, 1, 1, 8, .u32, .rw, .m, .num 0, .any, .stored, "RPDO mapping"⟩,
  ⟨0x1800, 4, 1, 1, 1, .u32, .rw, .m, .nodeIdPlus 2147484032, .any, .stored, "TPDO COB-ID"⟩,
  ⟨0x1800, 4, 1, 2, 2, .u8, .rw, .m, .num 255, .any, .stored, "TPDO transmission type"⟩]

/-- Object rows of chapter 15, as its object table gives them (2 of 2). -/
def rowsSideband1 : List ObjRow := [
  ⟨0x1800, 4, 1, 3, 3, .u16, .rw, .m, .num 0, .between 0 65535, .stored, "TPDO inhibit time"⟩,
  ⟨0x1800, 4, 1, 5, 5, .u16, .rw, .m, .num 0, .between 0 65535, .stored, "TPDO event timer"⟩,
  ⟨0x1A00, 4, 1, 0, 0, .u8, .rw, .m, .num 0, .between 0 8, .stored, "TPDO entries mapped"⟩,
  ⟨0x1A00, 4, 1, 1, 8, .u32, .rw, .m, .num 0, .any, .stored, "TPDO mapping"⟩]

/-- Object rows of chapter 16, as its object table gives them (1 of 1). -/
def rowsDma : List ObjRow := [
  ⟨0x2F00, 1, 0, 1, 1, .u64, .ro, .hm, .num 0, .any, .plain, "Channel states"⟩,
  ⟨0x2F00, 1, 0, 2, 2, .u64, .ro, .hm, .num 0, .any, .counter, "Bytes moved"⟩,
  ⟨0x2F00, 1, 0, 3, 3, .u32, .ro, .hm, .num 0, .any, .counter, "Errors"⟩,
  ⟨0x2F00, 1, 0, 4, 4, .u32, .ro, .hm, .num 0, .any, .counter, "Stalls"⟩,
  ⟨0x2F00, 1, 0, 5, 5, .u16, .rw, .h, .num 1000, .between 10 60000, .stored, "Stall limit"⟩,
  ⟨0x2F00, 1, 0, 6, 6, .u16, .ro, .hm, .num 0, .any, .plain, "Engine load, mean over 100 ms"⟩,
  ⟨0x2F00, 1, 0, 7, 7, .u32, .ro, .hm, .num 0, .any, .counter, "Completions while pending"⟩,
  ⟨0x2F00, 1, 0, 8, 8, .u32, .ro, .hm, .num 0, .any, .counter, "Empty appends"⟩,
  ⟨0x2F01, 1, 0, 1, 16, .u32, .ro, .hm, .num 0, .any, .counter, "Descriptors completed, C0 to C15"⟩,
  ⟨0x2F02, 1, 0, 1, 1, .u64, .const, .hm, .num 4294967296, .any, .plain, "DMA register block base"⟩,
  ⟨0x2F02, 1, 0, 2, 2, .u64, .const, .hm, .num 4311744512, .any, .plain, "Strand register block base"⟩,
  ⟨0x2F02, 1, 0, 3, 3, .u64, .ro, .hm, .num 0x10000000, .any, .plain, "Host region base"⟩,
  ⟨0x2F02, 1, 0, 4, 4, .u64, .ro, .hm, .num 268435456, .any, .plain, "Host region size"⟩,
  ⟨0x2F02, 1, 0, 5, 5, .u64, .ro, .hm, .num 0x20000000, .any, .plain, "Frame buffer region base"⟩,
  ⟨0x2F02, 1, 0, 6, 6, .u64, .ro, .hm, .num 0xE0000000, .any, .plain, "Frame buffer region size"⟩,
  ⟨0x2F04, 1, 0, 1, 1, .u32, .ro, .hm, .num 0, .any, .counter, "LPDDR4X corrected errors"⟩,
  ⟨0x2F04, 1, 0, 2, 2, .u32, .ro, .hm, .num 0, .any, .counter, "LPDDR4X uncorrectable errors"⟩,
  ⟨0x2F04, 1, 0, 3, 3, .u16, .ro, .hm, .num 0, .any, .plain, "Supervisor load, mean over 1 s"⟩,
  ⟨0x2F04, 1, 0, 4, 4, .u32, .ro, .hm, .num 0, .any, .plain, "Supervisor free memory"⟩]

/-- Object rows of chapter 17, as its object table gives them (1 of 2). -/
def rowsRecorder0 : List ObjRow := [
  ⟨0x2D00, 1, 0, 1, 1, .u8, .ro, .hm, .num 0, .any, .plain, "Recorder state"⟩,
  ⟨0x2D00, 1, 0, 2, 2, .domain, .ro, .hm, .bytes, .any, .plain, "Log header"⟩,
  ⟨0x2D00, 1, 0, 3, 3, .u32, .ro, .hm, .num 0, .any, .plain, "Header sequence"⟩,
  ⟨0x2D00, 1, 0, 4, 4, .u32, .ro, .hm, .num 0, .any, .plain, "Newest record sequence"⟩,
  ⟨0x2D00, 1, 0, 5, 5, .u16, .ro, .hm, .num 0, .any, .plain, "Records held"⟩,
  ⟨0x2D00, 1, 0, 6, 6, .u32, .ro, .hm, .num 0, .any, .counter, "Records dropped"⟩,
  ⟨0x2D00, 1, 0, 7, 7, .u32, .ro, .hm, .num 0, .any, .counter, "Records overwritten"⟩,
  ⟨0x2D00, 1, 0, 8, 8, .u32, .ro, .hm, .num 0, .any, .counter, "Clears"⟩,
  ⟨0x2D00, 1, 0, 9, 9, .u16, .ro, .hm, .num 0, .any, .plain, "Last write duration"⟩,
  ⟨0x2D01, 1, 0, 1, 4, .u8, .rw, .hm, .nums [1, 2, 3, 4], .between 0 20, .stored, "Histogram quantity, H0 to H3"⟩,
  ⟨0x2D01, 1, 0, 5, 8, .r32, .rw, .hm, .nums [1101004800, 1101004800, 0, 0], .finite, .stored, "Histogram low edge, H0 to H3"⟩,
  ⟨0x2D01, 1, 0, 9, 12, .r32, .rw, .hm, .nums [1082130432, 1086324736, 1148846080, 1090519040], .realAbove0, .stored, "Histogram bin width, H0 to H3"⟩,
  ⟨0x2D01, 1, 0, 13, 16, .u8, .rw, .hm, .nums [1, 2, 10, 14], .between 0 20, .stored, "Extreme quantity, X0 to X3"⟩,
  ⟨0x2D01, 1, 0, 17, 24, .u32, .rw, .hm, .nums [637536512, 638454016, 654313984, 654314496, 654314752, 654316288, 604310016, 570819584], .any, .stored, "Counter slot, C0 to C7"⟩,
  ⟨0x2D01, 1, 0, 25, 25, .u32, .ro, .hm, .num 0, .any, .plain, "Tally configuration ID"⟩,
  ⟨0x2D02, 1, 0, 1, 1, .u32, .ro, .hm, .num 0, .any, .plain, "Seconds since open"⟩,
  ⟨0x2D02, 1, 0, 2, 5, .u32, .ro, .hm, .num 0, .any, .counter, "Live events, S0 to S3"⟩,
  ⟨0x2D02, 1, 0, 6, 9, .domain, .ro, .hm, .bytes, .any, .plain, "Live histogram, H0 to H3"⟩,
  ⟨0x2D02, 1, 0, 10, 10, .domain, .ro, .hm, .bytes, .any, .plain, "Live extremes"⟩,
  ⟨0x2D02, 1, 0, 11, 11, .domain, .ro, .hm, .bytes, .any, .plain, "Live counter increases"⟩,
  ⟨0x2D02, 1, 0, 12, 12, .u32, .ro, .hm, .num 0, .any, .counter, "Side-band receive overruns"⟩,
  ⟨0x2D02, 1, 0, 13, 13, .u32, .ro, .hm, .num 0, .any, .counter, "EMCY frames lost"⟩,
  ⟨0x2D02, 1, 0, 14, 14, .u32, .ro, .hm, .num 0, .any, .counter, "Island buffer entries taken"⟩,
  ⟨0x2D02, 1, 0, 15, 15, .u32, .ro, .hm, .num 0, .any, .counter, "Island buffer events lost"⟩]

/-- Object rows of chapter 17, as its object table gives them (2 of 2). -/
def rowsRecorder1 : List ObjRow := [
  ⟨0x2D03, 1, 0, 1, 1, .u16, .rw, .hm, .num 0, .between 0 1999, .plain, "Selected slot, reading master"⟩,
  ⟨0x2D03, 1, 0, 2, 2, .domain, .ro, .hm, .bytes, .any, .plain, "Selected record"⟩,
  ⟨0x2D03, 1, 0, 3, 3, .u32, .wo, .hm, .num 0, .any, .plain, "Select by sequence"⟩,
  ⟨0x2D04, 1, 0, 1, 1, .domain, .ro, .hm, .bytes, .any, .plain, "Slot directory"⟩,
  ⟨0x2D04, 1, 0, 2, 2, .u64, .wo, .hm, .num 0, .any, .plain, "Export to DDR"⟩,
  ⟨0x2D04, 1, 0, 3, 3, .u8, .ro, .hm, .num 0, .any, .plain, "Export state"⟩,
  ⟨0x2D05, 1, 0, 1, 1, .octets, .ro, .hm, .bytes, .any, .plain, "Clear challenge"⟩,
  ⟨0x2D05, 1, 0, 2, 2, .octets, .wo, .hm, .bytes, .any, .plain, "Clear response"⟩,
  ⟨0x2D05, 1, 0, 3, 3, .u8, .ro, .hm, .num 0, .any, .plain, "Clear state"⟩,
  ⟨0x2D05, 1, 0, 4, 4, .u32, .ro, .hm, .num 0, .any, .saturating, "Clear responses refused"⟩]

/-- Object rows of chapter 18, as its object table gives them (1 of 1). -/
def rowsUpdate : List ObjRow := [
  ⟨0x2E00, 1, 0, 1, 1, .u8, .ro, .hm, .num 0, .any, .plain, "Update state"⟩,
  ⟨0x2E00, 1, 0, 2, 2, .u8, .ro, .hm, .num 0, .any, .plain, "Last verification cause"⟩,
  ⟨0x2E00, 1, 0, 3, 3, .u32, .ro, .hm, .num 0, .any, .plain, "Bytes received"⟩,
  ⟨0x2E00, 1, 0, 4, 4, .u8, .ro, .hm, .num 0, .any, .plain, "Blocks copied"⟩,
  ⟨0x2E00, 1, 0, 5, 5, .u16, .ro, .hm, .num 0, .any, .plain, "Watch remaining"⟩,
  ⟨0x2E00, 1, 0, 6, 6, .u8, .ro, .hm, .num 0, .any, .plain, "Recovery cause"⟩,
  ⟨0x2E01, 1, 0, 1, 1, .domain, .wo, .hm, .bytes, .any, .plain, "Staging image"⟩,
  ⟨0x2E01, 1, 0, 2, 2, .u64, .rw, .h, .num 0, .relative, .plain, "Stage source address"⟩,
  ⟨0x2E01, 1, 0, 3, 3, .u32, .rw, .h, .num 0, .between 256 8388608, .plain, "Stage length"⟩,
  ⟨0x2E02, 1, 0, 1, 1, .u8, .wo, .hm, .num 0, .between 1 6, .plain, "Update command"⟩,
  ⟨0x2E03, 1, 0, 1, 3, .u32, .ro, .hm, .num 0, .any, .plain, "Firmware version boot, staging, recovery"⟩,
  ⟨0x2E03, 1, 0, 4, 6, .u32, .ro, .hm, .num 0, .any, .plain, "CRC-32 boot, staging, recovery"⟩,
  ⟨0x2E04, 1, 0, 1, 1, .u16, .ro, .hm, .num 0, .any, .plain, "Settings format in force"⟩,
  ⟨0x2E04, 1, 0, 2, 2, .u16, .ro, .hm, .num 0, .any, .plain, "Pre-migration format kept"⟩,
  ⟨0x2E04, 1, 0, 3, 3, .bool, .ro, .hm, .num 0, .any, .plain, "Settings started at defaults"⟩,
  ⟨0x2E05, 1, 0, 1, 16, .domain, .rw, .h, .bytes, .any, .plain, "Library slot 0 to 15"⟩,
  ⟨0x2E06, 1, 0, 1, 1, .u32, .ro, .hm, .num 0, .any, .counter, "Images received"⟩,
  ⟨0x2E06, 1, 0, 2, 2, .u32, .ro, .hm, .num 0, .any, .counter, "Verifications failed"⟩,
  ⟨0x2E06, 1, 0, 3, 3, .u32, .ro, .hm, .num 0, .any, .counter, "Images confirmed"⟩,
  ⟨0x2E06, 1, 0, 4, 4, .u32, .ro, .hm, .num 0, .any, .counter, "First starts failed"⟩,
  ⟨0x2E06, 1, 0, 5, 5, .u32, .ro, .hm, .num 0, .any, .counter, "Copies resumed"⟩,
  ⟨0x2E06, 1, 0, 6, 6, .u32, .ro, .hm, .num 0, .any, .counter, "Transfers aborted"⟩]

/-- Object rows of chapter 19, as its object table gives them (1 of 1). -/
def rowsPins : List ObjRow := [
  ⟨0x2A01, 1, 0, 12, 15, .u8, .rw, .h, .num 0, .between 0 4, .stored, "DOUT0 to DOUT3 source"⟩,
  ⟨0x2A01, 1, 0, 16, 16, .u8, .rw, .hm, .num 0, .between 0 15, .stored, "DOUT software levels"⟩,
  ⟨0x2A01, 1, 0, 17, 17, .u8, .rw, .h, .num 3, .between 1 100, .stored, "Input filter, AIR_OK, GUARD_OK, DIN"⟩,
  ⟨0x2A02, 1, 0, 13, 13, .u8, .ro, .hm, .num 0, .any, .plain, "DIN levels"⟩,
  ⟨0x2A02, 1, 0, 14, 14, .u8, .ro, .hm, .num 0, .any, .plain, "Interlock levels"⟩,
  ⟨0x2A02, 1, 0, 15, 15, .u8, .ro, .hm, .num 0, .any, .plain, "DOUT state"⟩,
  ⟨0x2A02, 1, 0, 16, 16, .u16, .ro, .hm, .num 0, .any, .plain, "SENS_24V current"⟩,
  ⟨0x2A02, 1, 0, 17, 17, .bool, .ro, .hm, .num 0, .any, .plain, "SENS_24V fault"⟩]

/-- Every object row of the dictionary, R409. -/
def objectTable : List ObjRow :=
  rowsTime0 ++ rowsTime1 ++ rowsCamera0 ++ rowsCamera1 ++ rowsCamera2 ++ rowsPipeline0 ++ rowsPipeline1 ++ rowsPipeline2 ++ rowsTracker0 ++ rowsTracker1 ++ rowsTracker2 ++ rowsTracker3 ++ rowsDrive0 ++ rowsDrive1 ++ rowsDrive2 ++ rowsDrive3 ++ rowsDrive4 ++ rowsSequencer ++ rowsLedger0 ++ rowsLedger1 ++ rowsLedger2 ++ rowsLoops0 ++ rowsLoops1 ++ rowsLoops2 ++ rowsBackdrop0 ++ rowsBackdrop1 ++ rowsBackdrop2 ++ rowsPower0 ++ rowsPower1 ++ rowsPower2 ++ rowsStates0 ++ rowsStates1 ++ rowsStrand0 ++ rowsStrand1 ++ rowsDictionary ++ rowsSideband0 ++ rowsSideband1 ++ rowsDma ++ rowsRecorder0 ++ rowsRecorder1 ++ rowsUpdate ++ rowsPins

/-- The row names this index, in one of its blocks. -/
def ObjRow.hasIndex (r : ObjRow) (index : Nat) : Bool :=
  if r.blocks ≤ 1 then index == r.index
  else r.index ≤ index && (index - r.index) % r.stride == 0 && (index - r.index) / r.stride < r.blocks

/-- The row covers this index and subindex. -/
def ObjRow.covers (r : ObjRow) (index sub : Nat) : Bool :=
  r.hasIndex index && r.subLo ≤ sub && sub ≤ r.subHi

/-- The row of an object, if the dictionary has one. -/
def objRow? (index sub : Nat) : Option ObjRow := objectTable.find? (fun r => r.covers index sub)

/-- Some row names the index (14 R409). -/
def indexExists (index : Nat) : Bool := objectTable.any (fun r => r.hasIndex index)

/-- The highest subindex of an index, which its subindex 0 reads (14 R386, R390). -/
def highestSub (index : Nat) : Nat :=
  (objectTable.filter (fun r => r.hasIndex index)).foldl (fun m r => max m r.subHi) 0

/-- Some row gives the index a subindex 0 of its own (a VAR, or an array whose count is written). -/
def hasSubZeroRow (index : Nat) : Bool := objectTable.any (fun r => r.covers index 0)

end Sys2Proof.Machine
end

