-- ==== Sys2Proof/Machine/State.lean ====
section
/-!
DEFINITION. The state of the block as plain data: every register, table, queue, timer, mode and pin the manual gives
the module, the values of the object dictionary, the memory of LPDDR4X, the queue of commands that wait, and the
model's own log of what the block sent. Nested by subsystem, one structure per chapter.
-/
namespace Sys2Proof.Machine

/-! ### What the block sends (the model's own log, newest first) -/

/-- Something the block emits on a port, a pin or towards a master. The model keeps what it sent so that statements can
speak about it; no step reads it. -/
inductive Output where
  /-- The answer to a master's request: index, subindex, abort code (0 for success), data read. -/
  | reply (who : Master) (index sub abort : Nat) (data : List Byte)
  /-- A Strand control block on one link: block type and body fields (13 R351). -/
  | block (link : Nat) (type : Nat) (fields : List Nat)
  /-- A Strand frame leaving on one link (13 R352): the frame, and its START and END blocks as they stand on the wire (13 R351). -/
  | frame (link : Nat) (f : Frame) (first last : Nat)
  /-- A CAN frame: identifier and data (15). -/
  | can (id : Nat) (data : List Byte)
  /-- An error frame on the CAN bus, the answer to a CAN FD frame (00 R16). -/
  | canError
  /-- Bytes on a camera's serial link (03 R84). -/
  | serial (port : Nat) (data : List Byte)
  /-- A CC1 pulse: port, tick, width in ticks (03 R71). -/
  | cc1 (port tick width : Nat)
  /-- CC2 to CC4 (lines 0 to 2) of a port: a level from a tick on, and a pulse: port, line, tick, level or width in ticks (03 R75). -/
  | ccLevel (port line tick : Nat) (level : Bool)
  | ccPulse (port line tick width : Nat)
  /-- Gate commands: valve, tick, and the picoseconds after that tick at which the edge lies (02 R55, 07 R211). -/
  | gate (valve tick ps : Nat)
  /-- A strobe pulse: channel, tick, width, current in mA (10 R306); with width 0, the end of the pulse in progress (10 R304). -/
  | strobe (ch tick width current : Nat)
  /-- A SYNC_OUT pulse: tick and width (02 R59). -/
  | syncOut (tick width : Nat)
  /-- One scan of a panel (10 R286): panel, and of each cell that does not rest its key, the voltage in quarters of 15 V relative to VCOM, and
  the pulse width in 64ths of the row time. -/
  | scan (panel : Nat) (cells : List (Nat × Int × Nat))
  /-- A panel rail (10 R297): 1 VDDP, 2 VNEG, 3 VPOS, 4 VGL, 5 VGH, 6 VCOM; switched on or off. -/
  | rail (k : Nat) (on : Bool)
  /-- The status strip has been written: its characters (10 R300). -/
  | strip (text : List Nat)
  /-- A process output by its code of 09 R263: unit (0 unpowered, 1 mV, 2 µA, 3 duty in percent), value, PWM frequency in Hz. -/
  | loopOut (output unit : Nat) (value : ℚ) (hz : Nat)
  /-- VALVE_EN_OUT: its level (06 R201, 19 R504). -/
  | valveEnOut (level : Bool)
  /-- An output pin driven by a rule: its code (1 WAKE_OUT, 2 process output, 3 SYNC_OUT, 4 relay coil), and its fields. -/
  | pin (what : Nat) (fields : List Nat)
  /-- A write of FRAM, flash or the island's memory that the manual names: what, and its fields. -/
  | stored (what : Nat) (fields : List Nat)
  deriving DecidableEq, Repr, Inhabited

/-! ### Clock root and timebase (02) -/

/-- Time states, 0x2100:01 (02 R46). -/
inductive TimeState where
  | free | acquiring | locked | grandmaster | slack
  deriving DecidableEq, Repr, Inhabited

/-- The code of a time state (02 R46). -/
def TimeState.code : TimeState → Nat
  | .free => 0 | .acquiring => 1 | .locked => 2 | .grandmaster => 3 | .slack => 4

/-- The last TIME SYNC taken on a link: the clock of its arrival, its grandmaster, the sender's hops (02 R45, R50). -/
structure Heard where
  at_ : Nat
  gm : Nat
  hops : Nat
  deriving DecidableEq, Repr, Inhabited

/-- The far end's side of an exchange in progress: its sequence and the stamps t1 to t3 in quarter ticks (02 R42). -/
structure Exchange where
  seq : Nat
  t1 : Nat
  t2 : Nat
  t3 : Nat
  deriving DecidableEq, Repr, Inhabited

/-- A grandmaster candidate of an election (13 R372). -/
structure Candidate where
  id : Nat
  designated : Bool
  hops : Nat
  deriving DecidableEq, Repr, Inhabited

/-- The timebase: `corr` is the frequency correction in ppb, `words` the servo's words of the last 8 s of LOCKED operation, `good` the run of exchanges within the lock threshold, `first` that ACQUIRING has seen no exchange yet; clocks are local time. -/
structure TimeSt where
  counter : Nat := 0
  pllLocked : Bool := false
  state : TimeState := .free
  gm : Option Nat := none
  hops : Option Nat := none
  upstream : Option Nat := none
  theta : Int := 0
  delays : List Nat := [0, 0, 0, 0]
  corr : Int := 0
  heard : List (Option Heard) := [none, none, none, none]
  far : List (Option Exchange) := [none, none, none, none]
  seq : Nat := 0
  good : Nat := 0
  first : Bool := false
  lockedAt : Nat := 0
  slackAt : Nat := 0
  learned : Bool := false
  /-- The servo's words, each with the LOCKED time at which it was set, and the LOCKED time before the present stay in
  LOCKED (02 R53). -/
  words : List (Nat × Int) := []
  lockedSum : Nat := 0
  /-- Sync interval in force, in ticks, and the clock at which it ends (02 R62). -/
  interval : Nat := 100000
  syncAt : Nat := 0
  /-- Designated grandmaster in force (02 R52). -/
  designated : Nat := 0xFFFF
  /-- The clock at which an election begins if no port announces the grandmaster (02 R50). -/
  electAt : Option Nat := none
  electing : Bool := false
  best : Option Candidate := none
  /-- The grandmaster that fell silent for 4 ms, until it is heard again (02 R50). -/
  lost : Option Nat := none
  /-- Stamp of the last SYNC_IN capture in quarter ticks (02 R58). -/
  syncIn : Option Nat := none
  /-- The tick of the next SYNC_OUT edge in mode 1 (02 R59). -/
  syncOut : Option Nat := none
  /-- The levels of SYNC_IN and of SYNC_OUT in mode 2, and the tick at which a pulse of mode 1 in progress ends (02 R59). -/
  syncInHigh : Bool := false
  syncOutHigh : Bool := false
  syncOutEnd : Option Nat := none
  deriving DecidableEq, Repr, Inhabited

/-! ### Camera ports (03) -/

/-- Port states, 0x2300:01 (03 R96). -/
inductive PortState where
  | off | idle | starting | streaming | lost
  deriving DecidableEq, Repr, Inhabited

/-- Where a start stands (03 R90 steps 2 to 7); `armed` waits for the first trigger. -/
inductive StartStep where
  | none | detect | clock | sending | settling | settled | armed
  deriving DecidableEq, Repr, Inhabited

/-- A trigger waiting for its line (03 R72). -/
structure PendingTrigger where
  tick : Nat
  index : Nat
  lost : Bool := false
  deriving DecidableEq, Repr, Inhabited

/-- The context tables a line or a frame is processed with (04 R101, R110). Empty tables stand for the defaults; `lane` holds
the raw bits of c0 to c3. -/
structure Context where
  version : Nat := 0
  refVer : Nat := 0
  black : List Byte := []
  gain : List Byte := []
  ref : List Byte := []
  thresholds : List Byte := []
  matrix : List Byte := []
  edges : List Byte := []
  lane : List Nat := []
  deriving DecidableEq, Repr, Inhabited

/-- A settled line of a port: written, or emitted missing (03 R68 to R73). -/
structure Line where
  index : Nat := 0
  time : Nat := 0
  frame : Nat := 0
  missing : Bool := false
  short : Bool := false
  pixels : List Pixel := []
  padded : List Nat := []
  ctx : Context := {}
  deriving DecidableEq, Repr, Inhabited

/-- The line in reception (03 R72): the trigger it was paired with. -/
structure LineInWork where
  trigger : PendingTrigger
  fval : Bool := false
  ctx : Context := {}
  deriving DecidableEq, Repr, Inhabited

/-- A frame being filled: grouping or FVAL mode (03 R76, R77). `triggers` counts the triggers of the frame so far,
`settled` the lines written or emitted missing, `complete` says that no trigger follows; `buffer` is its place in the ring of R81, `lossGen`
the generation and span of a frame of a LOST port (03 R94). -/
structure OpenFrame where
  number : Nat := 0
  firstIndex : Nat := 0
  firstTime : Nat := 0
  lastTime : Nat := 0
  lastIndex : Nat := 0
  firstClk : Nat := 0
  triggers : Nat := 0
  settled : Nat := 0
  height : Nat := 0
  missing : Nat := 0
  short : Nat := 0
  complete : Bool := false
  dropped : Bool := false
  lostFlag : Bool := false
  split : Bool := false
  shortFlag : Bool := false
  stepFlag : Bool := false
  lossGen : Option (Nat × Nat) := none
  buffer : Nat := 0
  fresh : Bool := false
  lines : List Line := []
  deriving DecidableEq, Repr, Inhabited

/-- A frame record (03 R80). -/
structure FrameRecord where
  number : Nat := 0
  port : Nat := 0
  span : Nat := 0
  flags : Nat := 0
  height : Nat := 0
  missing : Nat := 0
  short : Nat := 0
  generation : Nat := 0
  firstIndex : Nat := 0
  firstTime : Nat := 0
  lastTime : Nat := 0
  deriving DecidableEq, Repr, Inhabited

/-- A settings generation and the frame in which its transmission began; `sure` marks a generation in force from
that frame on (03 R85 to R88, R94). -/
structure GenMark where
  gen : Nat
  frame : Nat
  sure : Bool := false
  deriving DecidableEq, Repr, Inhabited

/-- One camera port. -/
structure Camera where
  state : PortState := .off
  before : PortState := .off
  step : StartStep := .none
  planeStart : Bool := false
  startDeadline : Nat := 0
  settleEnd : Nat := 0
  clockKHz : Nat := 0
  gridN : Nat := 0
  nextIndex : Nat := 0
  cc1Running : Bool := false
  stopping : Bool := false
  pending : List PendingTrigger := []
  line : Option LineInWork := none
  frames : List OpenFrame := []
  nextFrame : Nat := 0
  fval : Bool := false
  consecutiveMissing : Nat := 0
  queue : List (List Byte) := []
  sending : Option (Nat × Nat) := none
  gens : List GenMark := []
  lastGen : Nat := 0
  replies : List (Nat × Nat) := []
  sentEnd : Nat := 0
  unconfirmed : List Nat := []
  rx : List Byte := []
  cc1Pending : Option Nat := none
  cc1Width : Nat := 80
  lossGen : Option (Nat × Nat) := none
  recovering : Bool := false
  rejoinGen : Bool := false
  pocl : Nat := 0
  poclTrips : List Nat := []
  poclReapplyAt : Nat := 0
  poclLoadA : Bool := false
  poclLoadB : Bool := false
  lastTrigger : Nat := 0
  freshStream : Bool := false
  /-- Levels of CC2, CC3 and CC4 (03 R75), and the buffer that the last frame took (03 R81). -/
  cc : List Bool := [false, false, false]
  buffer : Nat := 0
  deriving DecidableEq, Repr, Inhabited

/-! ### Fix and Grade engines (04) -/

/-- A run of object pixels on one line (04 R102, R103, R105): first and last column, Σw and Σ(2x+1)w, the sum of the
segmentation scores, and whether it is 8-connected to a padded pixel of its line or the line before (03 R69). -/
structure Run where
  lo : Nat := 0
  hi : Nat := 0
  w : Nat := 0
  wu : Nat := 0
  score : ℚ := 0
  padded : Bool := false
  deriving DecidableEq, Repr, Inhabited

/-- One line of a blob or component: trigger index, line time, frame, and its runs there (none on a bridged line). -/
structure BlobLine where
  index : Nat := 0
  time : Nat := 0
  frame : Nat := 0
  runs : List Run := []
  deriving DecidableEq, Repr, Inhabited

/-- An open blob (Fix) or component (Grade), its lines from the first to the last received (04 R103 to R105, R113). -/
structure Blob where
  rows : List BlobLine := []
  bridged : Bool := false
  padded : Bool := false
  deriving DecidableEq, Repr, Inhabited

/-- A processed line kept for frame statistics, components and captures (04 R130, R135): samples after flat-field, after
the colour matrix, and the object pixels. -/
structure ProcLine where
  line : Line := {}
  s2 : List Pixel := []
  s3 : List Pixel := []
  mask : List Bool := []
  deriving DecidableEq, Repr, Inhabited

/-- One port's segmentation state. `lane` is the lane map of the last line processed (04 R101, R110). `ref` is the tracked backdrop reference by column and channel, of the table written
with version `refVer`; `closings` are the frames in which emitted sightings closed; `closed` are the records of P0 and P1
whose statistics are due. -/
structure EnginePort where
  waiting : List Line := []
  done : List (Pixel × Bool × Nat) := []
  blobs : List Blob := []
  missingRun : Nat := 0
  gap : Option BlobLine := none
  prevPadded : List Nat := []
  refVer : Nat := 0
  lane : List Nat := []
  edges : List Byte := []
  bank : Nat := 0
  ref : List (List ℚ) := []
  procLines : List ProcLine := []
  closed : List FrameRecord := []
  closings : List Nat := []
  statSeq : Nat := 0
  latest : List Byte := []
  deriving DecidableEq, Repr, Inhabited

/-- A closed frame waiting for, in, or held by the Grade engine (04 R109, R115); `held` says that it keeps its buffer busy (03 R81). -/
structure GradeFrame where
  port : Nat := 0
  record : FrameRecord := {}
  dropped : Bool := false
  fresh : Bool := false
  lines : List Line := []
  finished : Bool := false
  held : Bool := false
  buffer : Nat := 0
  deriving DecidableEq, Repr, Inhabited

/-- The claim of an upper sighting on the frame buffers its pixels lie in, until it is settled (04 R115), the bank it is tagged with
(04 R127), and the bin edges of the frame in which it closed (04 R110, R119). -/
structure Claim where
  port : Nat
  frames : List Nat
  sighting : Sighting
  handle : Option Nat
  bank : Nat := 0
  edges : List Byte := []
  deriving DecidableEq, Repr, Inhabited

/-- An object or chip waiting for the object part (04 R116, R118). `sender` is the module that sent a chip, with its send
tick; `bank` is its tag (04 R127), `edges` are its bin edges (04 R119), and `since` is the clock at which it entered its queue. -/
structure ObjJob where
  handle : Nat := 0
  epoch : Nat := 0
  image : ObjImage := {}
  channels : Nat := 4
  sender : Option (Nat × Nat) := none
  port : Nat := 2
  bank : Nat := 0
  edges : List Byte := []
  since : Nat := 0
  deriving DecidableEq, Repr, Inhabited

/-- A classifier bank (04 R124, R125): its image, whether it is valid, and a library load in progress (slot and clock). -/
structure Bank where
  image : List Byte := []
  valid : Bool := false
  loading : Option (Nat × Nat) := none
  deriving DecidableEq, Repr, Inhabited

/-- A capture on one port: the generation and the next trigger index at acceptance, and the lines taken so far, by column
and channel (04 R130, R131). -/
structure CapturePort where
  port : Nat := 0
  gen : Nat := 0
  first : Nat := 0
  lines : List (List (List (Option ℚ))) := []
  deriving DecidableEq, Repr, Inhabited

/-- A capture (04 R130). -/
structure Capture where
  code : Nat := 0
  started : Nat := 0
  ports : List CapturePort := []
  deriving DecidableEq, Repr, Inhabited

structure Pipeline where
  ports : List EnginePort := [{}, {}, {}, {}]
  lastStripePort : Option Nat := none
  /-- The context version at which each port's backdrop table was last written (04 R101, R133). -/
  refVer : List Nat := [0, 0, 0, 0]
  frames : List GradeFrame := []
  /-- The frame that the frame part works on: port, number, context and the clock at which it is finished. -/
  current : Option (Nat × Nat × Context × Nat) := none
  frameBank : Nat := 0
  claims : List Claim := []
  upperOut : List (Sighting × ObjImage) := []
  fixOut : List Sighting := []
  objQueue : List ObjJob := []
  chipQueue : List ObjJob := []
  /-- The job that the object part works on, and the clock at which its work began. -/
  objWork : Option ObjJob := none
  objStart : Nat := 0
  banks : List Bank := [{}, {}]
  active : Nat := 0
  swapPending : Bool := false
  capture : Option Capture := none
  captureStatus : Nat := 0
  captureCause : Nat := 0
  /-- Intervals of local time in which the object part, the frame part and the Fix engine worked. -/
  objBusy : List (Nat × Nat) := []
  frameBusy : List (Nat × Nat) := []
  fixBusy : List (Nat × Nat) := []
  deriving DecidableEq, Repr, Inhabited

/-! ### Tracker and Ferry (05) -/

/-- The parameters of 0x2602 and 0x2603 in force when a record opened (05 R174): gates in ticks and 1/64 lane, margins in
1/64 lane, times in ticks. -/
structure TrackParams where
  gT : Nat := 0
  gT1 : Nat := 0
  gU : Nat := 0
  gU1 : Nat := 0
  margin : Nat := 0
  margin1 : Nat := 0
  jet : Nat := 0
  endMargin : Nat := 0
  cover : Nat := 0
  guard : Nat := 0
  dflt : Nat := 0
  remoteLead : Nat := 0
  reach : Nat := 0
  deriving DecidableEq, Repr, Inhabited

/-- A valve position of a record's set (05 R148, R159, R160): outcome 0 none, 1 local request, 2 FIRE sent, 3 nobody. -/
structure ValvePos where
  pos : Int := 0
  cover : Bool := false
  outcome : Nat := 0
  deriving DecidableEq, Repr, Inhabited

/-- Record states (05 R146); a retired record is not kept. -/
inductive RecState where
  | upperFirst | fixFirst | predicted | pass | eject
  deriving DecidableEq, Repr, Inhabited

def RecState.code : RecState → Nat
  | .upperFirst => 0 | .fixFirst => 1 | .predicted => 2 | .pass => 3 | .eject => 4

/-- An object record (05 R145 to R148). Lateral values in 1/64 lane, times in ticks. `tdec` is none until a prediction is
made; `chip` is the entry of the chip store, and `chipRefused` says that the module's own chip queue was full for it (05 R169). -/
structure Rec where
  handle : Nat := 0
  epoch : Nat := 0
  state : RecState := .upperFirst
  face : Nat := 0
  group : Nat := 0
  upper : Option Sighting := none
  fix : Option Sighting := none
  params : TrackParams := {}
  deadline : Nat := 0
  upperAlone : Bool := false
  fixAlone : Bool := false
  ta : Nat := 0
  shotEnd : Nat := 0
  tdec : Option Int := none
  centre : Int := 0
  west : Int := 0
  east : Int := 0
  verdict : Option (Nat × Nat × Nat) := none
  /-- Bank and model ID of the verdict record (04 R129). -/
  bank : Nat := 0
  model : Nat := 0
  defaulted : Bool := false
  firstUse : Bool := false
  wide : Bool := false
  valves : List ValvePos := []
  remote : Bool := false
  reissued : Bool := false
  chipRefused : Bool := false
  target : Nat := 0
  chip : Option ObjImage := none
  port : Nat := 2
  retireAt : Nat := 0
  deriving DecidableEq, Repr, Inhabited

/-- A foreign upper sighting kept for association (05 R150), until its fix deadline. -/
structure Shadow where
  sighting : Sighting := default
  deadline : Nat := 0
  deriving DecidableEq, Repr, Inhabited

/-- The priors of one face and lane group (05 R154, R155), in m/s and lanes/s. -/
structure Prior where
  v : ℚ := 0
  w : ℚ := 0
  n : Nat := 0
  deriving DecidableEq, Repr, Inhabited

/-- A placement entry of 0x2604 (05 R166, R167); no target: the own module. -/
structure Placement where
  target : Option Nat := none
  epoch : Nat := 0
  pinned : Bool := false
  deriving DecidableEq, Repr, Inhabited

structure Tracker where
  isOpen : Bool := false
  recs : List Rec := []
  shadows : List Shadow := []
  serial : Nat := 0
  peak : Nat := 0
  priors : List (List Prior) := [List.replicate 16 {}, List.replicate 16 {}]
  placement : List Placement := List.replicate 16 {}
  epoch : Nat := 0
  recent : List (List Sighting) := [[], [], [], []]
  twinUpper : List Int := []
  twinLower : List Int := []
  laneObjs : List (Nat × Nat) := []
  lowSince : Option Nat := none
  governorAt : Nat := 0
  floorAt : Nat := 0
  floors : List (List Nat) := [List.replicate 16 0, List.replicate 16 0]
  deriving DecidableEq, Repr, Inhabited

/-! ### Ejector drive (06) -/

/-- Where a fire request came from (06 R181). -/
inductive Origin where
  | local | east | west | test
  deriving DecidableEq, Repr, Inhabited

/-- The drive's parameters as a request finds them at its arrival (06 R208): BOOST_SLOTS, tDEFER_MAX, tOFF_MIN, t_min_jet and H_min in
µs, the hysteresis in mA, n, κ in thousandths, the kink threshold, the outlier gate in µs, T_WARN in °C and E_ref in µJ. -/
structure DriveTerms where
  slots : Nat := 3
  deferMax : Nat := 40
  offMin : Nat := 200
  minJet : Nat := 100
  holdMin : Nat := 250
  hysteresis : Nat := 120
  exponent : Nat := 4
  coupling : Nat := 1000
  kinkMin : Nat := 50
  gate : Nat := 60
  warn : Nat := 130
  energy : Nat := 12000
  deriving DecidableEq, Repr, Inhabited

/-- A fire request (06 R181): `sched` is its scheduled instant T, `shotEnd` its E, `terms` the parameters at its arrival. -/
structure Request where
  valve : Nat := 0
  sched : Nat := 0
  ta : Nat := 0
  shotEnd : Nat := 0
  handle : Nat := 0
  conf : Nat := 0
  cover : Bool := false
  origin : Origin := .local
  terms : DriveTerms := {}
  deriving DecidableEq, Repr, Inhabited

/-- A shot, queued or running (06 R184, R187): `start` is its start tick, `moved` says that R184 moved it past its T, `cutFrom` is the tick
from which its hold is cut (R196 to R198). -/
structure Shot where
  start : Nat := 0
  req : Request := {}
  shotEnd : Nat := 0
  holdCut : Bool := false
  cutFrom : Nat := 0
  moved : Bool := false
  deriving DecidableEq, Repr, Inhabited

/-- One valve: availability (06 R183), queue and running shot (R184, R185), estimates in ns (R192), the squares of the
last deviations (R194), coil model in °C (R195), `warm` where θ_w was above T_WARN at the last update (R196). -/
structure ValveSt where
  avail : Nat := 0
  queue : List Shot := []
  run : Option Shot := none
  deltaBar : ℚ := 0
  lambda : ℚ := 0
  lead : Nat := 0
  kinkI : Nat := 0
  devs : List ℚ := []
  outliers : List ℚ := []
  thetaW : ℚ := 40
  thetaB : ℚ := 40
  warm : Bool := false
  skip : Bool := false
  openFails : Nat := 0
  factoryBad : Bool := false
  deriving DecidableEq, Repr, Inhabited

/-- One group: its switch state (06 R202), the boost phases running (valve, target code), the boost requests that wait
(tick of the request, valve, target code), the clocks of its trips, and the valve of the last boost without current. -/
structure GroupSt where
  state : Nat := 0
  slots : List (Nat × Nat) := []
  waiting : List (Nat × Nat × Nat) := []
  trips : List Nat := []
  noRise : Option Nat := none
  deriving DecidableEq, Repr, Inhabited

structure Drive where
  valves : List ValveSt := List.replicate 256 {}
  groups : List GroupSt := List.replicate 32 {}
  enabled : Bool := false
  /-- VALVE_EN_IN: its level, and whether it has stayed asserted for 1 ms since `enSince` (06 R201). -/
  enIn : Bool := false
  enSettled : Bool := false
  enSince : Nat := 0
  powerFail : Bool := false
  /-- VBST and V24 as measured, in mV, and the set-point that VBST slews from since an instant (06 R177). -/
  vbst : Nat := 0
  vbstAt : Nat := 0
  v24 : Nat := 24000
  bucket : ℚ := 4400
  bucketAt : Nat := 0
  bucketEmpty : Bool := false
  refillSuspended : Bool := false
  burst : List (Nat × ℚ) := []
  startedAt : List Nat := []
  thermalAt : Nat := 0
  deriving DecidableEq, Repr, Inhabited

/-! ### Valve sequencers (07) -/

/-- The drive mode of a sequencer (07 R211). -/
inductive SeqMode where
  | off | boost | hold
  deriving DecidableEq, Repr, Inhabited

/-- What a sequencer does between two issues (07 R214). `boostWait` waits for a slot since a tick, `hold` runs to a tick
or to the shot end, `wait` to a tick, `waiti` for a condition until a deadline. -/
inductive SeqBusy where
  | none
  | boostWait (first : Bool) (since level : Nat)
  | hold (timed : Option Nat)
  | wait (untilTick : Nat)
  | waiti (cond threshold : Nat) (continues : Bool) (deadline : Nat)
  deriving DecidableEq, Repr, Inhabited

/-- A kink window (06 R190, 07 R223), in ticks of the counter. -/
structure KinkWindow where
  opens : Nat := 0
  closes : Nat := 0
  isOpen : Bool := false
  sampled : Bool := false
  deriving DecidableEq, Repr, Inhabited

/-- One valve's sequencer (07 R210, R211). Ticks are of the timebase counter; `idle` by R212, `running` until END or
abort. `level` is LVL and the peak in hold, `valley` the valley threshold in mA, `lowSide` the low-side switch (06 R176, R180). -/
structure Seq where
  running : Bool := false
  idle : Bool := true
  pc : Nat := 0
  issueAt : Nat := 0
  level : Nat := 0
  mode : SeqMode := .off
  fast : Bool := false
  loopCtr : Option Nat := none
  tOff : Option Nat := none
  window : Option KinkWindow := none
  busy : SeqBusy := .none
  boosted : Bool := false
  boostAt : Nat := 0
  boostEnd : Nat := 0
  valley : Nat := 0
  lowSide : Bool := false
  holdEnded : Bool := false
  deriving DecidableEq, Repr, Inhabited

/-- A store of a group (07 R228): its image (empty where none has been taken), whether it is valid, and the addresses
whose parity bit is wrong. -/
structure SeqStore where
  image : List Byte := []
  valid : Bool := false
  badParity : List Nat := []
  deriving DecidableEq, Repr, Inhabited

/-- A group's two stores and its swap (07 R228, R233): the clock of an accepted request, whether gate edges are held, and
the valves whose shots are held. -/
structure GroupStore where
  active : SeqStore := {}
  shadow : SeqStore := {}
  swapAt : Option Nat := none
  holding : Bool := false
  held : List Nat := []
  deriving DecidableEq, Repr, Inhabited

structure Sequencers where
  seqs : List Seq := List.replicate 256 {}
  stores : List GroupStore := List.replicate 32 {}
  deriving DecidableEq, Repr, Inhabited

/-! ### Wear ledger (08) -/

/-- The entry of a valve (08 R242 to R249): times in ns. `refBase` is δ_ref after a replacement; while `fresh` holds, the
mean of its first 256 kinks forms. `cause` is 0x291E: 1 drift, 2 kink loss, 0x81 and 0x82 due. -/
structure LedgerValve where
  shots : Nat := 0
  refBase : Option ℚ := none
  fresh : Option (ℚ × Nat) := none
  hourN : Nat := 0
  hourDelta : ℚ := 0
  hourAmp : Nat := 0
  calibrated : Bool := false
  drift : ℚ := 0
  formed : Bool := false
  ah : ℚ := 0
  a0 : Option ℚ := none
  blocks : List Nat := []
  curShots : Nat := 0
  curLost : Nat := 0
  margin : Nat := 100
  cause : Nat := 0
  offset : Nat := 0
  deriving DecidableEq, Repr, Inhabited

/-- A strobe channel's entry (08 R250): light per ampere of the hour, its baseline, the output fraction. -/
structure LedgerStrobe where
  sum : ℚ := 0
  n : Nat := 0
  gen : Option Nat := none
  base : Option ℚ := none
  f : ℚ := 1
  factor : ℚ := 1
  atLimit : Bool := false
  restart : Bool := false
  deriving DecidableEq, Repr, Inhabited

/-- Everything the ledger holds and stores (08 R240, R242, R250 to R254). Boost rise times are in ticks, per group. -/
structure LedgerData where
  valves : List LedgerValve := List.replicate 256 {}
  strobes : List LedgerStrobe := [{}, {}, {}, {}]
  caps : List ℚ := []
  capacitance : Option ℚ := none
  capMargin : Nat := 100
  rise : List (Nat × Nat) := List.replicate 32 (0, 0)
  riseMean : ℚ := 0
  riseBase : Option ℚ := none
  vbstOffset : Nat := 0
  vbstAtLimit : Bool := false
  fans : List (ℚ × Nat) := [(0, 0), (0, 0), (0, 0), (0, 0)]
  fanRatio : List ℚ := [1, 1, 1, 1]
  fanMargin : List Nat := [100, 100, 100, 100]
  dieWorst : Nat := 100
  coreSteps : Nat := 0
  corePending : Bool := false
  dieExhausted : Bool := false
  dieOffset : Nat := 0
  hours : Nat := 0
  writes : Nat := 0
  deriving DecidableEq, Repr, Inhabited

/-- A copy of the ledger in FRAM, with the sequence number at each end (08 R240); it is valid where both agree and are not 0. -/
structure LedgerCopy where
  first : Nat := 0
  last : Nat := 0
  data : LedgerData := {}
  deriving DecidableEq, Repr, Inhabited

/-- The ledger and its two copies in FRAM. -/
structure Ledger where
  data : LedgerData := {}
  copies : List LedgerCopy := [{}, {}]
  validAtStart : Bool := false
  deriving DecidableEq, Repr, Inhabited

/-! ### Loop engine (09) -/

/-- Slot states, 0x2A10:01 (09 R272). -/
inductive LoopState where
  | disabled | warmUp | running | fault | manual | parked
  deriving DecidableEq, Repr, Inhabited

def LoopState.code : LoopState → Nat
  | .disabled => 0 | .warmUp => 1 | .running => 2 | .fault => 3 | .manual => 4 | .parked => 5

/-- An engine input of 0x2A02: its value, the clock of its last update, and whether it is in source fault (09 R260). -/
structure LoopInput where
  value : ℚ := 0
  at_ : Option Nat := none
  fault : Bool := false
  deriving DecidableEq, Repr, Inhabited

/-- One loop slot (09 R266 to R276). `next` is the number of its next sample boundary; `fresh` marks the first sample after an entry to
warm-up; `warm` counts the warm-up samples to come; `delay` holds applied values, newest first; `nodes` are the nodes of 0x2A16 in
order; `out` is the value the slot drives; `rebase` marks a bank swap whose effect on I waits for the next computed sample. -/
structure LoopSlot where
  state : LoopState := .disabled
  cause : Nat := 0
  active : Nat := 0
  swapPending : Bool := false
  next : Nat := 0
  fresh : Bool := true
  rebase : Bool := false
  warm : Nat := 0
  armed : Bool := false
  staleRun : Nat := 0
  residRun : Nat := 0
  r : ℚ := 0
  y : ℚ := 0
  d : ℚ := 0
  i : ℚ := 0
  w : ℚ := 0
  applied : ℚ := 0
  bq1 : ℚ × ℚ := (0, 0)
  bq2 : ℚ × ℚ := (0, 0)
  yhat : ℚ := 0
  delay : List ℚ := []
  nodes : List ℚ := List.replicate 14 0
  out : ℚ := 0
  deriving DecidableEq, Repr, Inhabited

/-- A trace buffer (09 R278, R279): the raw bits of its ring of 16,384 samples, the index the next sample goes to, samples valid, the
samples to come in the states that fill, the boundaries passed since the last sample, and the trigger node's last value. -/
structure Trace where
  state : Nat := 0
  ring : List (Nat × Nat) := []
  head : Nat := 0
  valid : Nat := 0
  left : Nat := 0
  skipped : Nat := 0
  boundary : Nat := 0
  last : Option ℚ := none
  trigTick : Nat := 0
  deriving DecidableEq, Repr, Inhabited

/-- What stands on a process output (09 R263): unit (0 unpowered, 1 mV, 2 µA, 3 duty in percent), value, PWM frequency in Hz. -/
structure OutLevel where
  unit : Nat := 0
  value : ℚ := 0
  hz : Nat := 0
  deriving DecidableEq, Repr, Inhabited

structure Loops where
  slots : List LoopSlot := List.replicate 8 {}
  /-- Inputs of 0x2A02:01 to :0C. -/
  inputs : List LoopInput := List.replicate 12 {}
  /-- Ends of the last PIN0 pulse: its tick. -/
  pinTick : Option Nat := none
  traces : List Trace := [{}, {}, {}, {}]
  /-- Speeds in rpm of the fans at the last pulse before the present 100 ms (09 R260). -/
  fanHeld : List ℚ := [0, 0, 0, 0]
  /-- AOUT0 to AOUT3, PWM0 to PWM3, fan drives 0 to 3 as they stand. -/
  outs : List OutLevel := List.replicate 12 {}
  /-- Sampling has stopped at the power-fail warning (09 R277). -/
  stopped : Bool := false
  deriving DecidableEq, Repr, Inhabited

/-! ### Backdrop panels and strobes (10) -/

/-- What a rectangle is driven to: an image slot, or one level (calibration grey, or 0). -/
inductive PanelTarget where
  | image (slot : Nat)
  | level (n : Nat)
  deriving DecidableEq, Repr, Inhabited

/-- A rectangle of cells and its target (10 R293). -/
structure RegionReq where
  panel : Nat := 0
  c0 : Nat := 0
  c1 : Nat := 0
  r0 : Nat := 0
  r1 : Nat := 0
  target : PanelTarget := .level 0
  deriving DecidableEq, Repr, Inhabited

/-- An update that runs: its rectangle, the panel's levels when it began, pairs done, and the clock at which the pair in progress began
(none: it waits for a scan boundary). -/
structure RegionRun where
  req : RegionReq
  start : List (Nat × Nat) := []
  pairs : Nat := 0
  pairAt : Option Nat := none
  deriving DecidableEq, Repr, Inhabited

/-- A region slot (10 R293 to R295). -/
structure RegionSlot where
  run : Option RegionRun := none
  next : Option RegionReq := none
  cause : Nat := 0
  deriving DecidableEq, Repr, Inhabited

/-- One panel: levels other than 0 and charges other than 0 by cell (row * 512 + column), the CRC-16 of each block of 32 cells that has been
written (10 R291), whether its ledger is valid, and the stored panel ID. -/
structure Panel where
  levels : List (Nat × Nat) := []
  charge : List (Nat × Int) := []
  crcs : List (Nat × Nat) := []
  ledgerValid : Bool := false
  storedId : Option Nat := none
  fault : Bool := false
  deriving DecidableEq, Repr, Inhabited

/-- Phases of a run over whole panels or journalled rectangles (10 R292, R303, R305): a clear of rectangles, or a drive of rectangles. -/
inductive PanelPhase where
  | clear (rects : List RegionReq)
  | drive (rects : List RegionReq)
  deriving DecidableEq, Repr, Inhabited

/-- A run that uses every region slot: the clear cycle and recovery, or a panel command. `recovery` holds strobe bit [1]. -/
structure PanelRun where
  recovery : Bool := false
  phase : PanelPhase
  rest : List PanelPhase := []
  runs : List RegionRun := []
  pairs : Nat := 0
  pairAt : Option Nat := none
  counted : Bool := false
  severity : Nat := 1
  deriving DecidableEq, Repr, Inhabited

/-- A journal entry (10 R304). -/
structure JournalEntry where
  slot : Nat
  req : RegionReq
  imageId : Nat
  pair : Nat
  confirmed : Bool
  deriving DecidableEq, Repr, Inhabited

/-- Rails (10 R297): state of 0x2B00:01, the step reached and the clock of the request or of the start of power-down. -/
structure Rails where
  state : Nat := 0
  step : Nat := 0
  since : Nat := 0
  deriving DecidableEq, Repr, Inhabited

/-- A strobe channel (10 R306 to R308): fault state 0, 3 open, 4 short; setting invalid; consecutive pulses at compliance and below 6 V; what it
measured last; the second counted as limited last. -/
structure StrobeCh where
  fault : Nat := 0
  invalid : Bool := false
  openRun : Nat := 0
  shortRun : Nat := 0
  vf : Nat := 0
  ieff : Nat := 0
  power : Nat := 0
  limitedAt : Option Nat := none
  cleared : Bool := false
  pulsed : Bool := false
  trig : Option Nat := none
  pulseEnd : Nat := 0
  deriving DecidableEq, Repr, Inhabited

structure Backdrop where
  stripCode : Nat := 0
  stripAcked : Bool := false
  panels : List Panel := [{}, {}]
  slots : List RegionSlot := List.replicate 8 {}
  run : Option PanelRun := none
  rails : Rails := {}
  /-- The IDs of the panels on their flexes, none for one that does not answer (19 R513). -/
  flex : List (Option Nat) := [some 0, some 0]
  /-- Clock of the last scan boundary, and of the end of the last pair or strip write. -/
  scanAt : Nat := 0
  idleAt : Nat := 0
  journal : List JournalEntry := []
  powerFail : Bool := false
  greyReached : Bool := false
  /-- The panel command that was latest has brought both panels to calibration grey (10 R303). -/
  atGrey : Bool := false
  /-- The strip: characters shown, clock of the last write, a write in progress (its pair's start, none while it waits for a scan), and the
  island's copy. -/
  strip : List Nat := []
  stripAt : Option Nat := none
  stripRun : Option (Option Nat) := none
  stripNext : List Nat := []
  strobes : List StrobeCh := [{}, {}, {}, {}]
  deriving DecidableEq, Repr, Inhabited

/-! ### Power and thermal (11) -/

/-- Power supply, island and waking. -/
structure Power where
  /-- 0x2C00:01: 0 Moored, 1 Waking, 2 Waking mains absent, 3 main side up, 4 power-fail sequence. -/
  state : Nat := 1
  /-- The mains at the inlet is in range; the input stage runs while the relay is closed as well (11 R312). -/
  mains : Bool := true
  relayOpen : Bool := false
  /-- V_SB is present (11 R320). -/
  vsb : Bool := true
  /-- WAKE_IN is high, and has been for 10 ms. -/
  wakeHigh : Bool := false
  /-- Clock of the warning W or of the shutdown that runs the power-fail sequence (11 R317, R328). -/
  seqAt : Option Nat := none
  /-- Clock of the die shutdown that keeps the main side off (11 R328). -/
  shutAt : Option Nat := none
  /-- Clock of the end of the power-fail sequence (11 R318). -/
  offAt : Nat := 0
  /-- The reset kind of the start to come (12 R344), and the clock its times are relative to. -/
  kind : Nat := 0
  startAt : Nat := 0
  /-- Clock of the acceptance of a Moored request whose region updates are to complete (11 R321). -/
  moorAt : Option Nat := none
  /-- Clock at which the relay opened (11 R322). -/
  relayAt : Nat := 0
  /-- The X-capacitor bleeder is in, since a clock (11 R319). -/
  bleeder : Option Nat := none
  /-- The samples of input power of the last second, newest first (11 R314), and the clock of the last. -/
  samples : List Nat := []
  sampledAt : Nat := 0
  /-- Clock of the last full second with the refill suspended; runs of samples above 720 W and at or below 680 W. -/
  suspendedAt : Option Nat := none
  above : Nat := 0
  below : Nat := 0
  /-- Input energy in units of 10 mJ since the factory. -/
  energy : Nat := 0
  badRails : List Nat := []
  vbstOn : Bool := false
  /-- Clock of the last tachometer pulse of each fan, or of its start (11 R331). -/
  tachAt : List Nat := [0, 0, 0, 0]
  deriving DecidableEq, Repr, Inhabited

/-- The die diode and what follows from it (11 R324 to R330). Readings are in 1/16 °C. -/
structure Thermal where
  /-- The die temperature the module works with, in °C: T̄, or 110 while the diode is broken (11 R324, R327). -/
  die : ℚ := 25
  /-- The latest valid readings, newest first, at most 64; the reading before; T̄ by millisecond since the windows restarted, newest first. -/
  readings : List Int := []
  prev : Option Int := none
  hist : List ℚ := []
  sampledAt : Nat := 0
  mean : ℚ := 0
  highest : Option ℚ := none
  rate8 : ℚ := 0
  rate2 : ℚ := 0
  warnAbs : Bool := false
  warnRate : Bool := false
  derateAbs : Bool := false
  derateRate : Bool := false
  inputHot : Bool := false
  shutdown : Bool := false
  /-- Runs of milliseconds that clear the absolute and the rate derate. -/
  absLow : Nat := 0
  rateLow : Nat := 0
  /-- The diode is broken; the 60 s limit has been reached since it was sound; milliseconds broken since then, and of valid readings in a row. -/
  broken : Bool := false
  limitHit : Bool := false
  brokenMs : Nat := 0
  soundMs : Nat := 0
  derated : Bool := false
  /-- Clock of the last full second counted Derated. -/
  deratedAt : Nat := 0
  stalled : List Bool := [false, false, false, false]
  /-- Duty of each fan in 0.01 % as last seen, and the clock since which it is steady (08 R252). -/
  duty : List (Nat × Nat) := [(0, 0), (0, 0), (0, 0), (0, 0)]
  deriving DecidableEq, Repr, Inhabited

/-! ### Module states (12) -/

/-- The states of 12 R335. -/
inductive ModState where
  | moored | waking | idle | calibrating | sorting | recovery | fault
  deriving DecidableEq, Repr, Inhabited

/-- The code of a state, 0x2001:01 (12 R335). -/
def ModState.code : ModState → Nat
  | .moored => 0 | .waking => 1 | .idle => 2 | .calibrating => 3 | .sorting => 4 | .recovery => 5 | .fault => 6

/-- Steps of a calibration run (12 R339): grey drive with dark capture, grey capture, home drive, backdrop capture. -/
inductive CalStep where
  | greyDark | grey | home | backdrop
  deriving DecidableEq, Repr, Inhabited

/-- A calibration run: its step, the clock of its start and whether the dark capture and the panels have finished. -/
structure CalRun where
  step : CalStep := .greyDark
  since : Nat := 0
  captured : Bool := false
  driven : Bool := false
  deriving DecidableEq, Repr, Inhabited

structure Module where
  state : ModState := .waking
  prev : ModState := .waking
  trigger : Nat := 4
  changedAt : Nat := 0
  /-- The main side is up: its firmware runs (12 R341 step 6 onwards; not in Recovery). -/
  mainUp : Bool := false
  /-- The recovery loader runs (18 R486). -/
  loader : Bool := false
  faultCause : Nat := 0
  refusal : Nat := 0
  resetKind : Nat := 0
  interrupted : Bool := false
  resume : Bool := false
  calWaiting : Bool := false
  cal : Option CalRun := none
  /-- An accepted sort command waiting for VBST, and the clock of its acceptance (12 R340). -/
  sortAt : Option Nat := none
  /-- The clock of a command 1 accepted in Sorting (12 R340). -/
  stopAt : Option Nat := none
  watchdogs : List Nat := []
  /-- Clock of the last step of operating seconds. -/
  secondAt : Nat := 0
  deriving DecidableEq, Repr, Inhabited

/-! ### Strand fabric (13) -/

/-- Link states, 0x2200:01 to :04 (13 R357). -/
inductive LinkState where
  | down | training | up | crossed | host
  deriving DecidableEq, Repr, Inhabited

/-- The code of a link state (13 R357). -/
def LinkState.code : LinkState → Nat
  | .down => 0 | .training => 1 | .up => 2 | .crossed => 3 | .host => 4

/-- An interrupted frame: its VC, and the blocks of it that are still to leave (13 R353). -/
structure Broken where
  vc : Nat
  left : Nat
  deriving DecidableEq, Repr, Inhabited

/-- One Strand port. `credits` are the blocks of buffer free at the far end, per VC; `queue` are the frames waiting to leave, `unacked` those
sent and not yet acknowledged, `replay` those of them still to be sent again. The wire: `freeAt` is the instant, in eighths of a tick of local
time, at which the last block sent has left; `wireVc` and `wireLen` are the VC and the data blocks of the frame it ends; `broken` is the frame
that frames of VC 0 or 1 have interrupted (13 R353). -/
structure LinkSt where
  state : LinkState := .down
  signal : Bool := false
  trainedAt : Nat := 0
  hello : Option Hello := none
  credits : List Nat := [64, 64, 2048, 2048, 2048, 2048, 2048, 2048]
  queue : List Frame := []
  unacked : List (Nat × Frame) := []
  replay : List (Nat × Frame) := []
  freeAt : Nat := 0
  wireVc : Nat := 0
  wireLen : Nat := 0
  broken : Option Broken := none
  nextSeq : Nat := 0
  rxSeq : Nat := 0
  nakSent : Bool := false
  naks : Nat := 0
  served : List Nat := [0, 0, 0, 0, 0]
  lastBeat : Nat := 0
  nbState : Nat := 0
  nbTime : Nat := 0
  nbLoad : Nat := 0
  deriving DecidableEq, Repr, Inhabited

/-- A chip being reassembled (13 R374, R375). -/
structure ChipParts where
  src : Nat
  handle : Nat
  epoch : Nat
  count : Nat
  sendTick : Nat
  segments : List (Nat × List Byte)
  since : Nat
  deriving DecidableEq, Repr, Inhabited

/-- A DICT write whose segments arrive (13 R377). -/
structure DictParts where
  src : Nat
  txn : Nat
  index : Nat
  sub : Nat
  whole : Bool
  total : Nat
  data : List Byte
  last : Nat
  deriving DecidableEq, Repr, Inhabited

/-- A BULK stream and a mailbox of the Strand register block (13 R381). -/
structure Stream where
  base : Nat := 0
  enabled : Bool := false
  dest : Nat := 0
  seq : Nat := 0
  deriving DecidableEq, Repr, Inhabited

structure Mailbox where
  data : List Byte := []
  len : Nat := 0
  busy : Bool := false
  consumed : Bool := false
  deriving DecidableEq, Repr, Inhabited

structure Strand where
  links : List LinkSt := [{}, {}, {}, {}]
  id : Nat := 0
  /-- The island keeps an ID (13 R363). -/
  idStored : Bool := false
  provisional : Bool := true
  conflict : Bool := false
  rival : List Byte := []
  pendingId : Option Nat := none
  column : Option Nat := none
  westEnd : Bool := false
  rowId : Nat := 0
  limitRaised : Bool := false
  table : List (Topo × Nat) := []
  own : Topo := {}
  floodAt : Nat := 0
  beatAt : Nat := 0
  beatSeq : Nat := 0
  eventSeq : Nat := 0
  transit : List (Nat × Frame) := []
  chips : List ChipParts := []
  writes : List DictParts := []
  streams : List Stream := List.replicate 16 {}
  mailboxes : List Mailbox := List.replicate 4 {}
  deriving DecidableEq, Repr, Inhabited

/-! ### Object dictionary (14) -/

/-- An edit lock (14 R395): owner, range of indexes, the clock at which its lease ends. -/
structure Lock where
  owner : Master
  first : Nat
  last : Nat
  until_ : Nat
  deriving DecidableEq, Repr, Inhabited

/-- A master's stage (14 R400 to R402) and its last commit. -/
structure Stage where
  isOpen : Bool := false
  entries : List (Nat × Val) := []
  touched : Nat := 0
  result : Nat := 0
  failing : Nat := 0
  tick : Nat := 0
  deriving DecidableEq, Repr, Inhabited

/-- A settings store (14 R403): sequence, format version, validity, the stored objects (in the order of the
dictionary) and the parts that hold them. -/
structure Settings where
  seq : Nat := 0
  format : Nat := 0
  valid : Bool := false
  values : List (Nat × Val) := []
  deriving DecidableEq, Repr, Inhabited

/-- A store or restore in progress (14 R403, R404): who asked, the part, and what a store writes, taken at acceptance. -/
structure StoreRun where
  m : Master
  part : Nat
  restore : Bool
  app : List (Nat × Val) := []
  comm : List (Nat × Val) := []
  node : Nat := 0xFF
  deriving DecidableEq, Repr, Inhabited

structure Dict where
  storing : Option StoreRun := none
  locks : List (Option Lock) := [none, none, none, none]
  granted : List Nat := [0xFF, 0xFF]
  stages : List Stage := [{}, {}]
  stores : List Settings := [{}, {}]
  seqInForce : Nat := 0
  deriving DecidableEq, Repr, Inhabited

/-! ### Side-band (15) -/

/-- NMT states (15 R422). -/
inductive NmtState where
  | initialisation | preOperational | operational | stopped
  deriving DecidableEq, Repr, Inhabited

/-- The NMT state as the heartbeat carries it (15 R432). -/
def NmtState.code : NmtState → Nat
  | .initialisation => 0 | .stopped => 0x04 | .operational => 0x05 | .preOperational => 0x7F

/-- Error states of the controller, in rising order (15 R419). -/
inductive CanState where
  | active | warning | passive | busOff
  deriving DecidableEq, Repr, Inhabited

def CanState.level : CanState → Nat
  | .active => 0 | .warning => 1 | .passive => 2 | .busOff => 3

/-- An EMCY frame waiting to be sent (15 R429): generic code, event code, severity, argument. -/
structure Emcy where
  generic : Nat
  code : Nat
  severity : Nat
  arg : Nat
  deriving DecidableEq, Repr, Inhabited

/-- A receive buffer's two slots (15 R417). -/
structure RxBuffer where
  primary : Option (List Byte) := none
  shadow : Option (List Byte) := none
  deriving DecidableEq, Repr, Inhabited

/-- A frame pending in a transmit buffer (15 R416, R418). `entry` is the 0x1003 entry that an EMCY frame leaves. -/
structure TxFrame where
  buffer : Nat
  id : Nat
  data : List Byte
  entry : Nat := 0
  deriving DecidableEq, Repr, Inhabited

/-- One TPDO: the data of its last transmission, the clock of it, the SYNCs counted, the type and inhibit time in force (15 R426, R439). -/
structure Tpdo where
  sent : Option (List Byte) := none
  sentAt : Option Nat := none
  syncs : Nat := 0
  type : Nat := 255
  inhibit : Nat := 0
  deriving DecidableEq, Repr, Inhabited

/-- One RPDO: the data waiting for the next SYNC, and the type in force. -/
structure Rpdo where
  waiting : Option (List Byte) := none
  type : Nat := 255
  deriving DecidableEq, Repr, Inhabited

/-- A heartbeat consumer entry (15 R432, R439): the clock of the last heartbeat, of the last write of the entry, and whether it has timed out. -/
structure Consumer where
  heard : Option Nat := none
  written : Nat := 0
  timedOut : Bool := false
  deriving DecidableEq, Repr, Inhabited

/-- How far an SDO transfer is (15 R424): the toggle bit due next; the segment due next of a block download; the go-ahead, and the segments of
a block upload acknowledged and sent; a download whose write decides the answer, with the first byte of its frame. -/
inductive SdoPhase where
  | download (toggle : Bool)
  | upload (toggle : Bool)
  | blockDownload (crc : Bool) (next : Nat)
  | blockDownloadEnd (crc : Bool)
  | blockUploadStart (crc : Bool) (size : Nat)
  | blockUpload (crc : Bool) (acked sent : Nat)
  | blockUploadEnd
  | waits (first : Nat)
  deriving DecidableEq, Repr, Inhabited

/-- The SDO transfer in progress (15 R424): its object, the size indicated, the bytes received or to be sent, the clock of its last frame. -/
structure SdoTransfer where
  index : Nat
  sub : Nat
  whole : Bool
  total : Option Nat
  data : List Byte
  last : Nat
  phase : SdoPhase
  deriving DecidableEq, Repr, Inhabited

/-- The island's CAN node. Table entries are (table, index) of 15 R414; `switching` is the clock at which a switch delay ends, its length and whether it is the second. -/
structure Sideband where
  nodeId : Nat := 0xFF
  canbt : Nat := 0x0015400F
  pendingId : Nat := 0xFF
  pendingEntry : Nat × Nat := (0, 4)
  storedId : Nat := 0xFF
  storedEntry : Nat × Nat := (0, 4)
  nmt : NmtState := .initialisation
  tec : Nat := 0
  rec_ : Nat := 0
  errors : CanState := .active
  busOffs : List Nat := []
  busOffAt : Nat := 0
  busOffArg : Nat := 0
  recoveredAt : Option Nat := none
  paced : Bool := false
  afterBusOff : Bool := false
  peripheralClock : Bool := false
  rx : List RxBuffer := List.replicate 12 {}
  tx : List TxFrame := []
  emcy : List Emcy := []
  emcyAt : Option Nat := none
  /-- The pre-defined error field 0x1003, newest first (15 R430). -/
  errorField : List Nat := []
  sdo : Option SdoTransfer := none
  tpdos : List Tpdo := [{}, {}, {}, {}]
  rpdos : List Rpdo := [{}, {}, {}, {}]
  heartbeatAt : Nat := 0
  consumers : List Consumer := [{}, {}, {}, {}]
  /-- LSS: configuration state, the position of a Fastscan (15 R433). -/
  lssConfig : Bool := false
  lssPos : Nat := 0
  switching : Option (Nat × Nat × Bool) := none
  /-- The communication objects that the island's own memory holds (15 R438). -/
  nv : List (Nat × Val) := []
  /-- The node-ID under which they were stored (15 R435). -/
  nvNode : Nat := 0xFF
  deriving DecidableEq, Repr, Inhabited

/-! ### DMA engine (16) -/

/-- Channel states (16 R441). -/
inductive DmaState where
  | idle | queued | active | waiting | pending | stoppedEnd | error | aborted
  deriving DecidableEq, Repr, Inhabited

/-- The code of a channel state, CH_STATUS [3:0] (16 R441). -/
def DmaState.code : DmaState → Nat
  | .idle => 0 | .queued => 1 | .active => 2 | .waiting => 3 | .pending => 4 | .stoppedEnd => 5 | .error => 6 | .aborted => 7

/-- A descriptor as fetched (16 R444). -/
structure Descriptor where
  src : Nat := 0
  dst : Nat := 0
  count : Nat := 0
  control : Nat := 0
  link : Nat := 0
  deriving DecidableEq, Repr, Inhabited

/-- One channel: its registers (16 R452), the descriptor it runs and the clock since which it waits. -/
structure DmaChannel where
  state : DmaState := .idle
  cause : Nat := 0
  append : Bool := false
  next : Nat := 0
  cur : Nat := 0
  remain : Nat := 0
  done : Nat := 0
  pending : Bool := false
  unmask : Bool := false
  desc : Descriptor := {}
  since : Nat := 0
  /-- It runs a transfer of the firmware, whose bytes move with the commands of that transfer (log entry 142). -/
  own : Bool := false
  deriving DecidableEq, Repr, Inhabited

/-- BULK data of the head's descriptor that have not filled a frame: their stream, and the window address of the first (16 R446). -/
structure BulkRun where
  data : List Byte := []
  stream : Nat := 0
  at_ : Nat := 0
  deriving DecidableEq, Repr, Inhabited

/-- The engine: its channels, its FIFO with the head first, the requestors 2, 7 and 8 that assert, the BULK frame being filled, and the clock
at which bytes moved last. -/
structure Dma where
  channels : List DmaChannel := List.replicate 16 {}
  fifo : List Nat := []
  requests : List Nat := []
  gather : BulkRun := {}
  ranAt : Option Nat := none
  deriving DecidableEq, Repr, Inhabited

/-! ### Event recorder (17) -/

/-- The smallest and the largest sample of one quantity, each with its time in seconds from the open (17 R459). -/
structure Extreme where
  lo : Option (ℚ × Nat) := none
  hi : Option (ℚ × Nat) := none
  deriving DecidableEq, Repr, Inhabited

/-- One histogram: sample count and 32 bins (17 R458). -/
structure Hist where
  n : Nat := 0
  bins : List Nat := List.replicate 32 0
  deriving DecidableEq, Repr, Inhabited

/-- The configuration a bank was opened with (17 R460): quantities, low edges and widths of H0 to H3, quantities of
X0 to X3, objects of C0 to C7 (index * 256 + subindex), and its configuration ID. -/
structure TallyCfg where
  histQ : List Nat := [1, 2, 3, 4]
  edge : List ℚ := [20, 20, 0, 0]
  width : List ℚ := [4, 6, 1000, 8]
  extQ : List Nat := [1, 2, 10, 14]
  slots : List Nat := [0x260009, 0x260E09, 0x27000A, 0x27000C, 0x27000D, 0x270013, 0x24050A, 0x220604]
  id : Nat := 0
  deriving DecidableEq, Repr, Inhabited

/-- One bank of the tally (17 R457, R458). -/
structure Tally where
  cfg : TallyCfg := {}
  counts : List Nat := [0, 0, 0, 0]
  total : Nat := 0
  last : Nat := 0
  hists : List Hist := [{}, {}, {}, {}]
  exts : List Extreme := [{}, {}, {}, {}]
  base : List Nat := [0, 0, 0, 0, 0, 0, 0, 0]
  openedAt : Nat := 0
  atStart : Bool := false
  deriving DecidableEq, Repr, Inhabited

/-- A record as it stands in a slot of FRAM (17 R464). `closing` differs from `seq` while the record is written and
in a torn record. -/
structure Record where
  seq : Nat := 0
  trigger : Nat := 0
  severity : Nat := 0
  powerDown : Bool := false
  closed : Nat := 0
  cycles : Nat := 0
  state : Nat := 0
  code : Nat := 0
  arg : Nat := 0
  tally : Tally := {}
  increases : List Nat := []
  closing : Nat := 0
  deriving DecidableEq, Repr, Inhabited

/-- The log header (17 R465). -/
structure LogHeader where
  seq : Nat := 0
  newest : Nat := 0
  oldest : Nat := 0
  held : Nat := 0
  newestSlot : Nat := 0
  dropped : Nat := 0
  overwritten : Nat := 0
  torn : Nat := 0
  clears : Nat := 0
  clearedSlot : Nat := 0xFFFF
  clearSecs : Nat := 0
  cfgId : Nat := 0
  seqCopy : Nat := 0
  deriving DecidableEq, Repr, Inhabited

/-- An entry of the island buffer (17 R467). -/
structure IslandEntry where
  code : Nat
  severity : Nat
  arg : Nat
  secs : Nat
  deriving DecidableEq, Repr, Inhabited

/-- A record write in progress: its slot, its trigger's clock and whether it overwrites a record (17 R462). -/
structure RecWrite where
  slot : Nat
  since : Nat
  overwrites : Bool
  deriving DecidableEq, Repr, Inhabited

/-- What brought a clear response: a command of its own, a DICT WRITE of a requester, or an SDO download (17 R471). -/
inductive ClearVia where
  | command
  | dict (src txn sub : Nat) (whole : Bool)
  | sdo
  deriving DecidableEq, Repr, Inhabited

structure Recorder where
  live : Tally := {}
  slots : List (Nat × Record) := []
  header : LogHeader := {}
  copies : List LogHeader := [{}, {}]
  nextSeq : Nat := 1
  writing : Option RecWrite := none
  /-- Waiting triggers: a power-down trigger, the first S3 event of the write in progress, the hourly trigger. -/
  waitDown : Option Nat := none
  waitForced : Option (Nat × Nat) := none
  waitHour : Bool := false
  /-- The operating hours that have triggered. -/
  hour : Nat := 0
  /-- Events go to the island buffer (main side off, or a power-down trigger has come). -/
  toIsland : Bool := true
  island : List IslandEntry := []
  cfgDirty : Bool := false
  cfgId : Nat := 0
  /-- A correct clear response waiting for the write in progress: its master and the bank taken at acceptance. -/
  clearing : Option (Master × Tally) := none
  /-- The master whose clear is answered when the write in progress ends. -/
  clearReply : Option Master := none
  /-- The transport over which it is answered. -/
  clearVia : ClearVia := .command
  exporting : Option Nat := none
  exportState : Nat := 0
  selected : List Nat := [0, 0]
  /-- Challenges of H and M: value and the clock of issue. -/
  challenges : List (Option (Nat × Nat)) := [none, none]
  refusals : List Nat := []
  lockedAt : Option Nat := none
  /-- Clock of the last event of each code that is raised at most once per second. -/
  throttled : List (Nat × Nat) := []
  lastSample : Nat := 0
  lastDuration : Nat := 0
  /-- Lines received per port and upper sightings since the last sample. -/
  lines : List Nat := [0, 0, 0, 0]
  sightings : Nat := 0
  deriving DecidableEq, Repr, Inhabited

/-! ### Update and recovery (18) -/

/-- One half of the calibration page (18 R477): its sequence number, whether it passes its CRC-32, and the trim maps written to it, none where
the factory's stands. -/
structure CalHalf where
  seq : Nat := 0
  valid : Bool := true
  maps : List (Option (List Byte)) := [none, none]
  deriving DecidableEq, Repr, Inhabited

structure Update where
  /-- 0 idle, 1 receiving, 2 verifying, 3 verified, 4 pending, 5 first start, 6 verify failed (18 R481 to R485). In Recovery 0x2E00:01 reads 7. -/
  st : Nat := 0
  /-- The first failing check of the last verification (18 R479). -/
  cause : Nat := 0
  /-- The staging bank, and whether what it holds has verified. -/
  staging : List Byte := []
  verified : Bool := false
  /-- The transfer in progress: its path (0 side-band, 1 DICT, 2 mailbox 0, 3 DDR), its total length, its next message, the clock of its last
  byte. -/
  path : Nat := 0
  total : Nat := 0
  message : Nat := 0
  lastByte : Nat := 0
  /-- The images of the boot bank and of the running firmware; none is the factory's. -/
  boot : Option (List Byte) := none
  fw : Option (List Byte) := none
  /-- Blocks that the journal marks verified, and whether the boot bank is partly new (18 R484, R485). -/
  blocks : Nat := 0
  partly : Bool := false
  /-- The two halves of the calibration page. -/
  halves : List CalHalf := [{}, {}]
  /-- Clock of the start of the first-start watch; none once it has run out (18 R342, R484). -/
  watch : Option Nat := none
  recoveryCause : Nat := 0
  /-- Ports that streamed when command 3 restarted the module (18 R483). -/
  restartPorts : List Nat := []
  /-- The settings store kept as the pre-migration copy, and settings started at defaults (18 R487, R488). -/
  preMigration : Option Nat := none
  atDefaults : Bool := false
  /-- The images of the 16 classifier library slots (18 R490). -/
  library : List (List Byte) := List.replicate 16 []
  deriving DecidableEq, Repr, Inhabited

/-! ### Pins (19) -/

/-- AIR_OK, GUARD_OK and DIN levels, and the outputs DOUT0 to DOUT3 and SENS_24V that an overload has switched off, each with the clock of
its switching off, and the level of VALVE_EN_OUT (19 R503 to R506). -/
structure Pins where
  airOk : Bool := false
  guardOk : Bool := false
  din : Nat := 0
  faults : List (Option Nat) := [none, none, none, none, none]
  valveEnOut : Bool := false
  deriving DecidableEq, Repr, Inhabited

/-! ### The whole block -/

structure State where
  /-- Commands waiting, first in, first out. -/
  pending : List Instr := []
  variant : Variant := .aeh2564
  /-- Local time in ticks of 1.25 ns since power-on; never steps (log entry 1). -/
  clk : Nat := 0
  /-- Number of free values drawn so far (the model's own, log entry 2). -/
  freeCtr : Nat := 0
  /-- What the block sent, newest first (the model's own). -/
  out : List Output := []
  /-- Values of dictionary objects that differ from their defaults, by index * 256 + subindex, rising. -/
  od : List (Nat × Val) := []
  /-- LPDDR4X and the register windows that software fills, as (address, byte), rising, no zero byte listed. -/
  mem : List Host.Cell := []
  time : TimeSt := {}
  cams : List Camera := [{}, {}, {}, {}]
  pipe : Pipeline := {}
  tracker : Tracker := {}
  drive : Drive := {}
  seqs : Sequencers := {}
  ledger : Ledger := {}
  loops : Loops := {}
  power : Power := {}
  thermal : Thermal := {}
  backdrop : Backdrop := {}
  module : Module := {}
  strand : Strand := {}
  dict : Dict := {}
  side : Sideband := {}
  pins : Pins := {}
  dma : Dma := {}
  recorder : Recorder := {}
  update : Update := {}
  deriving DecidableEq, Repr, Inhabited

/-- Why the block stops with a fault. -/
inductive Fault where
  /-- A memory-window access to an address that the manual leaves unmapped, made inside the block (13 R380). Raised by no
  command of the manual's own: WIN answers status 1 instead. Safe. -/
  | unmapped
  deriving DecidableEq, Repr

/-- Why the block refuses a command. -/
inductive Refusal where
  /-- The command has no meaning in this model yet. Raised by the dispatcher only. Safe: nothing is claimed of it. -/
  | notModelled (mnemonic : String)
  deriving DecidableEq, Repr

/-- The block right after power-on with mains applied and no history (12 R344 kind 0, R345). -/
def State.reset : State := {}

end Sys2Proof.Machine
end

