-- ==== Sys2Proof/Machine/Ops.lean ====
section
/-!
DEFINITION. The named operations every meaning is written with: values of dictionary objects, time, memory, the log
of what the block sends.
-/
namespace Sys2Proof.Machine

/-! ### Sorted association lists -/

/-- The entry of a key. -/
def assocGet {α : Type} : List (Nat × α) → Nat → Option α
  | [], _ => none
  | (k, v) :: r, x => if k = x then some v else assocGet r x

/-- The list with an entry written, keys rising. -/
def assocSet {α : Type} : List (Nat × α) → Nat → α → List (Nat × α)
  | [], x, v => [(x, v)]
  | (k, w) :: r, x, v =>
    if x < k then (x, v) :: (k, w) :: r
    else if x = k then (x, v) :: r
    else (k, w) :: assocSet r x v

/-- The list without an entry. -/
def assocErase {α : Type} : List (Nat × α) → Nat → List (Nat × α)
  | [], _ => []
  | (k, w) :: r, x => if k = x then r else (k, w) :: assocErase r x

/-- Keys strictly rising. -/
def assocSorted {α : Type} : List (Nat × α) → Bool
  | [] => true
  | [_] => true
  | a :: b :: r => decide (a.1 < b.1) && assocSorted (b :: r)

/-! ### Values of dictionary objects -/

/-- The key of an object: index * 256 + subindex. -/
abbrev obj (index sub : Nat) : Nat := index * 256 + sub

/-- A factory value as its row's range and type admit it (14 R387; log entry 4). -/
def ObjRow.fitted (r : ObjRow) (n : Nat) : Int :=
  match r.range, r.type with
  | .between lo hi, _ => lo + (n : Int) % (hi - lo + 1)
  | _, .u8 => n % 256
  | _, .u16 => n % 65536
  | _, .u64 => n % 2 ^ 64
  | _, _ => n % 2 ^ 32

/-- The value a row gives an object before anything is written (14 R388). -/
def ObjRow.default (r : ObjRow) (variant : Variant) (nodeId index sub : Nat) : Val :=
  match r.dflt with
  | .num v => .num v
  | .nums l => .num (l.getD (sub - r.subLo) 0)
  | .bytes => .bytes []
  | .factory =>
    match r.type with
    | .text | .octets | .domain => .bytes (Config.factoryBytes (obj index sub))
    | _ => .num (r.fitted (Config.factory (obj index sub)))
  | .nodeIdPlus base => .num ((base + nodeId + 0x100 * (index - r.index) : Nat) : Int)
  | .ports => .num (match variant with | .aeh2564 => 0x0F | .aeh1282 => 0x05)
  | .productCode => .num (match variant with | .aeh2564 => 0x00002564 | .aeh1282 => 0x00001282)
  | .valves => .num (match variant with | .aeh2564 => 256 | .aeh1282 => 128)
  | .deviceType => .num (match variant with | .aeh2564 => 0x25640000 | .aeh1282 => 0x12820000)
  | .revision => .num ((Config.factory (obj 0x2000 4) % 65536 * 65536 + Config.factory (obj index sub) % 65536 : Nat) : Int)
  | .serial => .num ((Config.serialNumber (Config.factoryBytes (obj 0x2000 3)) % 2 ^ 32 : Nat) : Int)
  | .variantName => .bytes (ascii (match variant with | .aeh2564 => "AEH-2564" | .aeh1282 => "AEH-1282"))

/-- The value an object has before anything is written to it. -/
def State.dflt (s : State) (k : Nat) : Val :=
  match objRow? (k / 256) (k % 256) with
  | some r => r.default s.variant s.side.nodeId (k / 256) (k % 256)
  | none => .num 0

/-- The value held for an object. -/
def State.val (s : State) (k : Nat) : Val := (assocGet s.od k).getD (s.dflt k)

/-- The value held, as a number. -/
def State.int (s : State) (k : Nat) : Int :=
  match s.val k with
  | .num v => v
  | .bytes _ => 0

/-- The value held, as a natural number. -/
def State.nat (s : State) (k : Nat) : Nat := (s.int k).toNat

/-- The value held, as bytes. -/
def State.byteVal (s : State) (k : Nat) : List Byte :=
  match s.val k with
  | .num _ => []
  | .bytes b => b

/-- The REAL32 held, as a rational. -/
def State.real (s : State) (k : Nat) : ℚ := r32Value (s.nat k)

/-- Hold a value for an object. -/
def State.put (s : State) (k : Nat) (v : Val) : State := { s with od := assocSet s.od k v }

/-- An object back at its default. -/
def State.unset (s : State) (k : Nat) : State := { s with od := assocErase s.od k }

def State.putNat (s : State) (k : Nat) (v : Nat) : State := s.put k (.num v)
def State.putInt (s : State) (k : Nat) (v : Int) : State := s.put k (.num v)

/-- The largest value of an unsigned object. -/
def maxOf (k : Nat) : Nat :=
  match objRow? (k / 256) (k % 256) with
  | some r =>
    match r.type with
    | .u8 => 255
    | .u16 => max16
    | .u64 => 2 ^ 64 - 1
    | _ => max32
  | none => max32

/-- Raise a saturating counter. -/
def State.bumpBy (s : State) (k n : Nat) : State := s.putNat k (min (maxOf k) (s.nat k + n))
def State.bump (s : State) (k : Nat) : State := s.bumpBy k 1

/-! ### Indexed updates -/

def State.cam (s : State) (p : Nat) : Camera := s.cams.getD p {}
def State.setCam (s : State) (p : Nat) (c : Camera) : State := { s with cams := s.cams.set p c }
def State.link (s : State) (l : Nat) : LinkSt := s.strand.links.getD l {}
def State.setLink (s : State) (l : Nat) (c : LinkSt) : State :=
  { s with strand := { s.strand with links := s.strand.links.set l c } }

/-! ### Time -/

/-- The timebase counter runs while the main side is up (02 R38; log entry 25). -/
def State.timeRuns (s : State) : Bool := s.module.mainUp

/-- Let local time pass (log entry 1). -/
def State.advance (s : State) (d : Nat) : State :=
  { s with
    clk := s.clk + d
    time := { s.time with counter := if s.timeRuns then s.time.counter + d else s.time.counter } }

/-- The instant `t` of local time has come: jump to it if it lies ahead (log entry 1). -/
def State.atClk (s : State) (t : Nat) : State := s.advance (t - s.clk)

/-- The tick `t` of the timebase counter has come (log entry 1). -/
def State.atTick (s : State) (t : Nat) : State := s.advance (t - s.time.counter)

/-- Tick of the timebase counter. -/
def State.tick (s : State) : Nat := s.time.counter

def State.prior (s : State) (face group : Nat) : Prior := (s.tracker.priors.getD face []).getD group {}

/-- Operating seconds, 0x2001:0A: what was counted up to the last start, and the seconds since (12 R347, 17 R461). -/
def State.opSecs (s : State) : Nat :=
  min max32 (s.nat (obj 0x2001 0x0A) + (if s.module.mainUp then (s.clk - s.module.secondAt) / secTicks else 0))

/-- The next free value's number. -/
def State.draw (s : State) : Nat × State := (s.freeCtr, { s with freeCtr := s.freeCtr + 1 })

/-- Send something. -/
def State.emit (s : State) (o : Output) : State := { s with out := o :: s.out }

/-! ### Memory -/

/-- The byte an unlisted address reads as (log entry 5). -/
abbrev memDefault : Byte := 0#8

/-- One byte of memory. -/
def Mem.read (m : List Host.Cell) (a : Nat) : Byte := (assocGet m a).getD memDefault

/-- Memory with one byte written, in canonical form. -/
def Mem.write (m : List Host.Cell) (a : Nat) (b : Byte) : List Host.Cell :=
  if b = memDefault then assocErase m a else assocSet m a b

/-- Memory with a run of bytes written. -/
def Mem.writeAll : List Host.Cell → Nat → List Byte → List Host.Cell
  | m, _, [] => m
  | m, a, b :: r => Mem.writeAll (Mem.write m a b) (a + 1) r

/-- A run of bytes of memory. -/
def Mem.readAll (m : List Host.Cell) : Nat → Nat → List Byte
  | _, 0 => []
  | a, n + 1 => Mem.read m a :: Mem.readAll m (a + 1) n

/-- The canonical form: addresses strictly rising, no entry equal to what an unlisted address reads as. -/
def Mem.wf (m : List Host.Cell) : Bool := assocSorted m && m.all (fun c => c.2 != memDefault)

def State.memRead (s : State) (a n : Nat) : List Byte := Mem.readAll s.mem a n
def State.memWrite (s : State) (a : Nat) (d : List Byte) : State := { s with mem := Mem.writeAll s.mem a d }

/-- The end of LPDDR4X in the memory window (13 R380). -/
abbrev ddrEnd : Nat := 0x100000000

/-- A range of the window that lies within LPDDR4X. -/
def inDdr (a n : Nat) : Bool := a + n ≤ ddrEnd

end Sys2Proof.Machine
end

