-- ==== Sys2Proof/Machine/StrandOps.lean ====
section
/-!
DEFINITION. What every subsystem needs of the fabric: the topology table, routing (13 R367 to R369), and sending a frame on
a link under credits and replay (13 R354, R355, R371).
-/
namespace Sys2Proof.Machine

/-- The four ports by their numbers. -/
abbrev portE : Nat := 0
abbrev portW : Nat := 1
abbrev portN : Nat := 2
abbrev portS : Nat := 3

def colOf (id : Nat) : Nat := bits id 11 6
def rowOf (id : Nat) : Nat := bits id 5 0

/-- The link is UP: it carries module traffic (13 R357). -/
def State.linkUp (s : State) (l : Nat) : Bool := (s.link l).state == .up

/-- The link carries frames at all: UP or HOST. -/
def State.linkOpen (s : State) (l : Nat) : Bool := (s.link l).state == .up || (s.link l).state == .host

/-- The ID of the neighbour on a link that is UP (13 R364), 0xFFFF otherwise. -/
def State.neighbour (s : State) (l : Nat) : Nat :=
  if s.linkUp l then ((s.link l).hello.map (·.id)).getD 0xFFFF else 0xFFFF

/-- Strand runs: under the firmware, or under the recovery loader (13 R357, 18 R486). -/
def State.strandOn (s : State) : Bool := s.module.mainUp || s.module.loader

/-- The own topology record as it stands now, without its sequence (13 R364). -/
def State.ownTopo (s : State) : Topo :=
  { id := s.strand.id
    provisional := s.strand.provisional
    conflict := s.strand.conflict
    host := [0, 1, 2, 3].any (fun l => (s.link l).state == .host)
    westEnd := s.strand.westEnd
    links := boolNat (s.linkUp portE) + 2 * boolNat (s.linkUp portW) + 4 * boolNat (s.linkUp portN)
      + 8 * boolNat (s.linkUp portS)
    state := s.module.state.code
    neighbours := [s.neighbour portE, s.neighbour portW, s.neighbour portN, s.neighbour portS]
    valves := s.nat (obj 0x2000 7)
    serial := s.byteVal (obj 0x2000 3)
    seq := s.strand.own.seq }

/-- All records held, the own one among them, by ID (13 R364). -/
def State.topoTable (s : State) : List Topo :=
  let others := s.strand.table.map (·.1)
  (others.filter (fun r => r.id < s.strand.own.id)) ++ [s.strand.own] ++
    (others.filter (fun r => s.strand.own.id < r.id))

/-- The record of an ID. -/
def State.topoOf (s : State) (id : Nat) : Option Topo := s.topoTable.find? (fun r => r.id == id)

/-- The modules that links shown UP lead to, each with its distance, found hop by hop from those `h` hops away (13 R364). -/
def State.spread (s : State) : Nat → Nat → List (Nat × Nat) → List (Nat × Nat)
  | 0, _, found => found
  | n + 1, h, found =>
    let beyond := (found.filter (fun x => x.2 == h)).flatMap (fun x => ((s.topoOf x.1).map (·.neighbours)).getD [])
    let fresh := beyond.foldl (fun l id => if (s.topoOf id).isNone || (found ++ l).any (fun x => x.1 == id) then l else l ++ [(id, h + 1)]) []
    if fresh.isEmpty then found else State.spread s n (h + 1) (found ++ fresh)

/-- Hops to a module over the links that the records show UP; none where no chain of them leads to it (02 R49, R50; 13 R364). -/
def State.distance (s : State) (id : Nat) : Option Nat :=
  ((s.spread s.strand.table.length 0 [(s.strand.id, 0)]).find? (fun x => x.1 == id)).map (·.2)

/-- A module that no record held names as its neighbour, or whose record is gone (13 R366). -/
def State.isLost (s : State) (id : Nat) : Bool :=
  (s.topoOf id).isNone || s.topoTable.all (fun r => r.id == id || !r.neighbours.contains id)

/-- The next hop on a link is neither DOWN nor lost (13 R366, R368). -/
def State.hopUp (s : State) (l : Nat) : Bool := s.linkUp l && !s.isLost (s.neighbour l)

/-- The ID of the module beside this one, to the E or W: the neighbour on the direct link, or, while that link is not UP, the module of the
next column of the row that the topology table holds (05 R159, R165; 13 R361, R367, R373); 0xFFFF where there is none. -/
def State.beside (s : State) (l : Nat) : Nat :=
  let direct := s.neighbour l
  let id := s.strand.id
  let far := if l = portE then id + 64 else id - 64
  if direct ≠ 0xFFFF then direct
  else if (if l = portE then far < 4096 else 64 ≤ id) && (s.topoOf far).isSome then far
  else 0xFFFF

/-- The host anchor: the lowest ID whose record shows a host attached (13 R367). -/
def State.hostAnchor (s : State) : Option Nat := (s.topoTable.find? (fun r => r.host)).map (·.id)

/-- The hop of the column axis from `here` to `dest`. -/
def xHop (here dest : Nat) : Option Nat :=
  if colOf here < colOf dest then some portE else if colOf dest < colOf here then some portW else none

/-- The hop of the row axis. -/
def yHop (here dest : Nat) : Option Nat :=
  if rowOf here < rowOf dest then some portS else if rowOf dest < rowOf here then some portN else none

/-- The next hop of a phase (13 R367): X then Y in phases 0 and 2, Y then X in phases 1 and 3. -/
def phaseHop (phase here dest : Nat) : Option Nat :=
  if phase % 2 = 0 then (xHop here dest).or (yHop here dest) else (yHop here dest).or (xHop here dest)

/-- Where a frame goes. -/
inductive Route where
  | deliver
  | out (link phase : Nat) (detour sidestep : Bool)
  | noRoute
  | hopLimit
  deriving DecidableEq, Repr, Inhabited

/-- The sidestep ports for a failed hop (13 R368). -/
def sidesteps (failed : Nat) : List Nat :=
  if failed = portE ∨ failed = portW then [portN, portS] else [portW, portE]

/-- Routing of a frame that stands in this module (13 R367 to R369). -/
def State.route (s : State) (h : FrameHdr) : Route :=
  let here := s.strand.id
  let target := if h.dest = 0xFFF then s.hostAnchor.getD 0xFFF else h.dest
  if (s.topoOf target).isNone then .noRoute
  else if target = here then
    if h.dest = 0xFFF then
      match [0, 1, 2, 3].find? (fun l => (s.link l).state == .host) with
      | some l => .out l h.phase false false
      | none => .noRoute
    else .deliver
  else
    match phaseHop h.phase here target with
    | none => .deliver
    | some l =>
      if s.hopUp l || (h.phase != 0 && s.linkUp l) then .out l h.phase false false
      else if h.phase ≠ 0 then .noRoute
      else
        match phaseHop 1 here target with
        | some l' =>
          if l' ≠ l then (if s.linkUp l' then .out l' 1 true false else .noRoute)
          else
            match (sidesteps l).find? (fun d => s.linkUp d) with
            | some d => .out d (if l = portE ∨ l = portW then 2 else 3) false true
            | none => .noRoute
        | none => .noRoute

/-! ### Blocks (13 R351, R352) -/

/-- The body of a START block (13 R352). -/
def startBody (h : FrameHdr) : Nat :=
  (h.vc % 8) <<< 53 ||| (h.dest % 4096) <<< 41 ||| (h.src % 4096) <<< 29 ||| (h.type % 16) <<< 25 ||| (h.phase % 4) <<< 23
    ||| (h.hops % 128) <<< 16 ||| (h.len % 1024) <<< 6

/-- The START block of a frame (13 R351). -/
def frameStart (f : Frame) : Nat := 0x78 <<< 56 ||| startBody f.hdr

/-- The CRC-32 of a frame: the 7 bytes of the START body, then the payload blocks (13 R351), each least significant byte first (log entry 160). -/
def frameCrc (f : Frame) : Nat := crc32 (leBytes 7 (startBody f.hdr) ++ f.words.flatMap (leBytes 8))

/-- The END block of a frame with its link sequence (13 R351); a frame cut short carries its CRC inverted (13 R356). -/
def frameEnd (f : Frame) (seq : Nat) : Nat :=
  0xB4 <<< 56 ||| (seq % 256) <<< 48 ||| (if f.inverted then frameCrc f ^^^ 0xFFFFFFFF else frameCrc f)

/-- The frame as an output, with its blocks. -/
def frameOut (l : Nat) (f : Frame) (seq : Nat) : Output := .frame l f (frameStart f) (frameEnd f seq)

/-- What the CRC-32 of a received frame shows: it is right, wrong, or inverted by a transit module (13 R355, R356). -/
inductive CrcCheck where
  | right | wrong | inverted
  deriving DecidableEq, Repr, Inhabited

/-- The check of the CRC-32 that a frame's END block carries. -/
def crcCheck (f : Frame) (crc : Nat) : CrcCheck :=
  if crc = frameCrc f then .right else if crc = frameCrc f ^^^ 0xFFFFFFFF then .inverted else .wrong

/-! ### Frames on a link -/

/-- Blocks a frame fills on a link: START, payload and END (13 R352, R373; log entry 20). -/
def frameBlocks (h : FrameHdr) : Nat := h.len + 2

/-- Frames of VC 2 to 6 carry a link sequence and are replayed (13 R355). -/
def replayed (vc : Nat) : Bool := 2 ≤ vc && vc ≤ 6

/-- The frame may begin: credits for its whole length, and room among the unacknowledged frames (13 R354, R355). -/
def LinkSt.canSend (c : LinkSt) (h : FrameHdr) : Bool :=
  frameBlocks h ≤ c.credits.getD h.vc 0 && (!replayed h.vc || c.unacked.length < 128)

/-- Begin a frame: credits, link sequence and the copy kept for replay. -/
def LinkSt.begin (c : LinkSt) (f : Frame) : LinkSt :=
  let c := { c with credits := c.credits.modify f.hdr.vc (· - frameBlocks f.hdr) }
  if replayed f.hdr.vc then
    { c with unacked := c.unacked ++ [(c.nextSeq, f)], nextSeq := (c.nextSeq + 1) % 256 }
  else c

/-- The weighted class of a VC: FERRY, DICT, EVENT, WIN, BULK (13 R371). -/
def vcWeight (s : State) (vc : Nat) : Nat :=
  max 1 (s.nat (match vc with
    | 2 => obj 0x2201 3 | 3 => obj 0x2201 4 | 4 => obj 0x2201 4 | 5 => obj 0x2201 5 | _ => obj 0x2201 6))

/-- The weighted class that has been served least for its weight (13 R371). -/
def State.leastServed (s : State) (c : LinkSt) (vcs : List Nat) : Option Nat :=
  vcs.foldl (fun best v =>
    match best with
    | none => some v
    | some b => if c.served.getD (v - 2) 0 * vcWeight s b < c.served.getD (b - 2) 0 * vcWeight s v then some v else some b) none

/-- The weighted classes with a frame in a link's queue. -/
def LinkSt.backlogged (c : LinkSt) : List Nat := [2, 3, 4, 5, 6].filter (fun v => c.queue.any (fun f => f.hdr.vc == v))

/-- A weighted class that becomes backlogged gains nothing from the time for which it was not: it starts level with the least served of the
classes that are, and where none is the count of blocks starts anew (13 R371). -/
def State.catchUp (s : State) (c : LinkSt) (v : Nat) : LinkSt :=
  if !replayed v || c.backlogged.contains v then c
  else
    match s.leastServed c c.backlogged with
    | none => { c with served := [0, 0, 0, 0, 0] }
    | some b => { c with served := c.served.modify (v - 2) (max (c.served.getD (b - 2) 0 * vcWeight s v / vcWeight s b)) }

/-- The VC served next: TIME, FIRE, LINK, then the backlogged weighted class served least for its weight (13 R371). -/
def State.nextVc (s : State) (c : LinkSt) (ready : List Nat) : Option Nat :=
  match [0, 1, 7].find? (fun v => ready.contains v) with
  | some v => some v
  | none =>
    s.leastServed c ([2, 3, 4, 5, 6].filter (fun v => ready.contains v))

/-- The first waiting frame of each VC, where it may begin; no frame of VC 2 to 6 begins before the replay is done (13 R355). -/
def LinkSt.ready (c : LinkSt) : List Nat :=
  [0, 1, 2, 3, 4, 5, 6, 7].filter (fun v =>
    match c.queue.find? (fun f => f.hdr.vc == v) with
    | some f => c.canSend f.hdr && (!replayed v || c.replay.isEmpty)
    | none => false)

/-- Drop the first element that satisfies a test. -/
def dropFirst {α : Type} (p : α → Bool) : List α → List α
  | [] => []
  | a :: r => if p a then r else a :: dropFirst p r

/-- A block lasts 5.15625 ns, 33 eighths of a tick (13 R351). -/
abbrev blockTime : Nat := 33

/-- What the wire of a link takes next. -/
inductive Wire where
  | frame (vc : Nat)
  | again
  | resume
  | interrupt (left vc : Nat)
  deriving DecidableEq, Repr, Inhabited

/-- Blocks of the frame on the wire that follow the block being sent at `now`, where that is a data block, or the first data block (13 R353). -/
def LinkSt.blocksLeft (c : LinkSt) (now : Nat) : Nat := min ((c.freeAt - now) / blockTime) c.wireLen

/-- What the wire takes at `now` (13 R353, R355, R371): while a frame of VC 2 to 7 stands on it, a frame of VC 0 or 1 after a data block; once
it is free, frames of VC 0 and 1, then the interrupted frame, then LINK, the replay, and the weighted classes. -/
def State.nextOnWire (s : State) (c : LinkSt) (now : Nat) : Option Wire :=
  match c.ready.find? (· ≤ 1) with
  | some v =>
    if c.freeAt ≤ now then some (.frame v)
    else if 2 ≤ c.wireVc ∧ 0 < c.blocksLeft now then some (.interrupt (c.blocksLeft now) v)
    else none
  | none =>
    if now < c.freeAt then none
    else if c.broken.isSome then some .resume
    else
      match s.nextVc c c.ready with
      | some v => some (.frame v)
      | none =>
        match c.replay with
        | x :: _ => if frameBlocks x.2.hdr ≤ c.credits.getD x.2.hdr.vc 0 then some .again else none
        | [] => none

/-- A frame stands on the wire, from the instant at which the wire is free. -/
def LinkSt.onWire (c : LinkSt) (h : FrameHdr) : LinkSt :=
  { c with freeAt := c.freeAt + blockTime * frameBlocks h, wireVc := h.vc, wireLen := h.len }

/-- t1 of a TIME SYNC is inserted as the frame leaves (13 R372): a frame that waited for the wire carries the tick of its START block. -/
def State.stampSync (s : State) (start : Nat) (f : Frame) : Frame :=
  if f.hdr.vc = 0 ∧ f.hdr.type = 0 ∧ start ≠ 8 * s.clk then
    let t1 := (8 * s.tick + start - 8 * s.clk) / 2
    { f with words := (t1 / 4) :: (match f.words.drop 1 with
      | w :: r => ((t1 % 4) <<< 62 ||| w % 2 ^ 62) :: r
      | [] => []) }
  else f

/-- The first frame of a VC in the queue begins. -/
def State.startFrame (s : State) (l v : Nat) : State :=
  let c := s.link l
  match c.queue.find? (fun f => f.hdr.vc == v) with
  | none => s
  | some f =>
    let f := s.stampSync c.freeAt f
    let seq := if replayed v then c.nextSeq else 0
    let c := { c with queue := dropFirst (fun f => f.hdr.vc == v) c.queue }
    let c := if 2 ≤ v ∧ v ≤ 6 then { c with served := c.served.modify (v - 2) (· + frameBlocks f.hdr) } else c
    ((s.setLink l ((c.begin f).onWire f.hdr)).emit (frameOut l f seq)).bump (obj (0x2210 + l % 4) 1)

/-- The oldest frame to be replayed begins (13 R355). -/
def State.startAgain (s : State) (l : Nat) : State :=
  let c := s.link l
  match c.replay with
  | [] => s
  | x :: r =>
    let c := { c with replay := r, credits := c.credits.modify x.2.hdr.vc (· - frameBlocks x.2.hdr) }
    (s.setLink l (c.onWire x.2.hdr)).emit (frameOut l x.2 x.1)

/-- The wire takes what comes next; a RESUME block carries the VC of the frame that resumes (13 R351, R353). -/
def State.putOnWire (s : State) (l : Nat) : Wire → State
  | .frame v => s.startFrame l v
  | .again => s.startAgain l
  | .interrupt left v =>
    let c := s.link l
    (s.setLink l { c with broken := some ⟨c.wireVc, left⟩, freeAt := c.freeAt - blockTime * left }).startFrame l v
  | .resume =>
    let c := s.link l
    match c.broken with
    | none => s
    | some b =>
      (s.setLink l { c with broken := none, freeAt := c.freeAt + blockTime * (1 + b.left), wireVc := b.vc, wireLen := b.left - 1 }).emit
        (.block l 0x66 [b.vc])

/-- Send what a link's wire takes up to the instant `now`; `fuel` bounds the number of steps. -/
def State.drain : Nat → State → Nat → Nat → State
  | 0, s, _, _ => s
  | n + 1, s, l, now =>
    match s.nextOnWire (s.link l) now with
    | none => s
    | some w => State.drain n (s.putOnWire l w) l now

/-- Steps enough to empty a link. -/
def LinkSt.steps (c : LinkSt) : Nat := 2 * c.queue.length + c.replay.length + 2

/-- What waited for the wire of a link has left by now, and the wire is free from now on, where it was before (13 R353). -/
def State.pump (s : State) (l : Nat) : State :=
  if !s.linkOpen l then s
  else
    let s := s.drain (s.link l).steps l (8 * s.clk)
    s.setLink l { s.link l with freeAt := max (s.link l).freeAt (8 * s.clk) }

/-- Put a frame in a link's egress queue and send what may go. -/
def State.egress (s : State) (l : Nat) (f : Frame) : State :=
  let s := s.pump l
  let c := s.catchUp (s.link l) f.hdr.vc
  (s.setLink l { c with queue := c.queue ++ [f] }).pump l

/-- One tick of local time passes; what waited for a wire and has its turn leaves. -/
def State.tickOn (s : State) : State := [0, 1, 2, 3].foldl State.pump (s.advance 1)

/-- A link-local frame on a link that carries frames; on any other link nothing is sent. -/
def State.sendLocal (s : State) (l vc type : Nat) (words : List Nat) : State :=
  if s.linkOpen l then
    s.egress l ⟨{ vc := vc, dest := 0xFFF, src := s.strand.id, type := type, len := words.length }, words, false⟩
  else s

/-- Send a frame by its route; the Bool says that it was dropped (counted, but no event yet; 13 R369). -/
def State.routeOut (s : State) (f : Frame) : State × Bool :=
  match s.route f.hdr with
  | .deliver => (s, false)
  | .out l ph detour sidestep =>
    let s := if detour then s.bump (obj 0x2206 2) else s
    let s := if sidestep then s.bump (obj 0x2206 3) else s
    (s.egress l { f with hdr := { f.hdr with phase := ph } }, false)
  | .noRoute => (s.bump (obj 0x2206 4), true)
  | .hopLimit => (s.bump (obj 0x2206 5), true)

/-- A message of this module (13 R352): the Bool says that it was dropped at once. -/
def State.message (s : State) (dest vc type : Nat) (words : List Nat) : State × Bool :=
  s.routeOut ⟨{ vc := vc, dest := dest, src := s.strand.id, type := type, len := words.length }, words, false⟩

/-- Bytes packed into 64-bit blocks, little-endian, the last one filled with zeros. -/
def packWords : Nat → List Byte → List Nat
  | 0, _ => []
  | n + 1, d => ofLe (d.take 8) :: packWords n (d.drop 8)

def bytesToWords (d : List Byte) : List Nat := packWords (ceilDiv d.length 8) d

/-- A provisional or conflicted module sends and accepts no FIRE and no FERRY (13 R363, R365). -/
def State.fabricBarred (s : State) : Bool := s.strand.provisional || s.strand.conflict

end Sys2Proof.Machine
end

