-- ==== Sys2Proof/Machine/Events.lean ====
section
/-!
DEFINITION. Raising an event (17 R472, R473; 13 R378; 15 R429, R430; 10 R299) and the event recorder: tally, record triggers,
slots, header, island buffer (17 R456 to R467).
-/
namespace Sys2Proof.Machine

/-! ### Codes -/

/-- Codes at S3 (02 R60, 11 R332, 18 R491). -/
def codesS3 : List Nat := [0xF006, 0x1004, 0x2003, 0x2007, 0xE007]

/-- Codes at S2, the codes with a port, slot or channel in [11:8] apart. -/
def codesS2 : List Nat :=
  [0xF002, 0xF005, 0x4005, 0x5001, 0x5007, 0x6003, 0x6005, 0x6007, 0x6008, 0x6009, 0x600A, 0x6010, 0x7001, 0x7008,
   0x6020, 0x6021, 0x9080, 0x1080, 0x2080, 0x2082, 0x9004, 0x9005, 0x9006, 0x900B, 0x1001, 0x1009, 0x2002, 0x2005,
   0x2006, 0x2009, 0x1012, 0xA004, 0xA005, 0x1027, 0xB002, 0xB003, 0xB005, 0xB007, 0xD004, 0xD006, 0xE00A, 0x1030,
   0x1032]

/-- Codes at S0. -/
def codesS0 : List Nat :=
  [0xF001, 0xF007, 0x4007, 0x4009, 0x5002, 0x5005, 0x5006, 0x6006, 0x600C, 0x7003, 0x7005, 0x1005, 0x1006, 0x2008,
   0x1010, 0xA001, 0xA008, 0x1020, 0x1022, 0x1023, 0x1026, 0xB008, 0xB00C, 0xD007, 0xD008, 0xE001, 0xE004, 0xE005,
   0xE00B, 0x1031, 0x1033]

/-- The severity of an event code (17 R472). Event 0x9002 is S1 here; its S2 case is raised with its severity. -/
def severityOf (code : Nat) : Nat :=
  match bits code 15 12 with
  | 3 =>
    match bits code 7 0 with
    | 1 | 2 => 0
    | 3 | 5 | 6 => 2
    | _ => 1
  | 8 =>
    match bits code 7 0 with
    | 1 | 7 => 0
    | 6 => 1
    | _ => 2
  | 0xC =>
    match bits code 7 0 with
    | 1 | 3 => 0
    | 2 => 2
    | _ => 1
  | _ => if codesS3.contains code then 3 else if codesS2.contains code then 2 else if codesS0.contains code then 0 else 1

/-- The CiA generic code of an EMCY frame (15 R419, R429). -/
def genericCode (code : Nat) : Nat :=
  if code = 0xB002 then 0x8120
  else if code = 0xB007 then 0x8130
  else
    match bits code 15 12 with
    | 0x1 => 0x3000
    | 0x2 => 0x4000
    | 0xA | 0xB => 0x8100
    | 0xD | 0xE => 0x6000
    | _ => 0xFF00

/-! ### The tally -/

/-- The value of a counter (17 R459): held for it, or kept by the recorder or the ledger. -/
def State.counterNow (s : State) (k : Nat) : Nat :=
  match k / 256, k % 256 with
  | 0x2001, 0x05 => min max32 ((s.clk - s.module.changedAt) / msTicks)
  | 0x2001, 0x0A => s.opSecs
  | 0x2608, g => min max32 (s.prior 0 (g - 1)).n
  | 0x2609, g => min max32 (s.prior 1 (g - 1)).n
  | 0x2D00, 6 => s.recorder.header.dropped
  | 0x2D00, 7 => s.recorder.header.overwritten
  | 0x2D00, 8 => s.recorder.header.clears
  | 0x2D02, 2 => s.recorder.live.counts.getD 0 0
  | 0x2D02, 3 => s.recorder.live.counts.getD 1 0
  | 0x2D02, 4 => s.recorder.live.counts.getD 2 0
  | 0x2D02, 5 => s.recorder.live.counts.getD 3 0
  | 0x2900, 6 => s.ledger.data.hours
  | 0x2900, 7 => s.ledger.data.writes
  | _, _ => s.nat k

/-- The values of counter slots (17 R459). -/
def State.slotValues (s : State) (slots : List Nat) : List Nat := slots.map s.counterNow

/-- The configuration that 0x2D01 holds now (17 R460). -/
def State.tallyCfg (s : State) (id : Nat) : TallyCfg :=
  { histQ := [1, 2, 3, 4].map (fun i => s.nat (obj 0x2D01 i))
    edge := [5, 6, 7, 8].map (fun i => s.real (obj 0x2D01 i))
    width := [9, 10, 11, 12].map (fun i => s.real (obj 0x2D01 i))
    extQ := [13, 14, 15, 16].map (fun i => s.nat (obj 0x2D01 i))
    slots := [17, 18, 19, 20, 21, 22, 23, 24].map (fun i => s.nat (obj 0x2D01 i) / 256)
    id := id }

/-- A bank reset and opened now. -/
def State.freshTally (s : State) (cfg : TallyCfg) (atStart : Bool) : Tally :=
  { cfg := cfg, base := ({ s with recorder := { s.recorder with live := {} } }).slotValues cfg.slots, openedAt := s.opSecs, atStart := atStart }

/-- An event counted in a bank (17 R458). -/
def Tally.event (t : Tally) (code sev : Nat) : Tally :=
  { t with
    counts := t.counts.modify sev (satAdd max32 1)
    total := satAdd max32 1 t.total
    last := if 2 ≤ sev then code else t.last }

/-- The bin of a sample (17 R459). -/
def histBin (a b x : ℚ) : Nat := (clampI 0 31 ((x - a) / b).floor).toNat

/-- A sample of a quantity taken into a bank at second `t` of its interval (17 R459). -/
def Tally.sample (b : Tally) (t q : Nat) (x : ℚ) : Tally :=
  { b with
    hists := (List.range 4).map (fun h =>
      let g := b.hists.getD h {}
      if b.cfg.histQ.getD h 0 = q then
        { n := satAdd max32 1 g.n
          bins := g.bins.modify (histBin (b.cfg.edge.getD h 0) (b.cfg.width.getD h 1) x) (satAdd max32 1) }
      else g)
    exts := (List.range 4).map (fun i =>
      let e := b.exts.getD i {}
      if b.cfg.extQ.getD i 0 = q then
        { lo := match e.lo with | some (v, u) => if x < v then some (x, t) else some (v, u) | none => some (x, t)
          hi := match e.hi with | some (v, u) => if v < x then some (x, t) else some (v, u) | none => some (x, t) }
      else e) }

/-- A sample of quantity `q` (17 R458): taken by the live bank; quantity 0 is no quantity. -/
def State.sample (s : State) (q : Nat) (x : ℚ) : State :=
  if q = 0 then s
  else
    let t := min max16 (s.opSecs - s.recorder.live.openedAt)
    { s with recorder := { s.recorder with live := s.recorder.live.sample t q x } }

/-! ### Sending an event -/

/-- An event counted where events go now: the live bank, or the island buffer (17 R467). -/
def State.logEvent (s : State) (code sev arg : Nat) : State :=
  if s.recorder.toIsland then
    let e : IslandEntry := ⟨code, sev, arg % 65536, s.opSecs⟩
    let b := s.recorder.island
    if b.length < 128 then { s with recorder := { s.recorder with island := b ++ [e] } }
    else if b.any (fun x => x.severity < sev) then
      { s with recorder := { s.recorder with island := dropFirst (fun (x : IslandEntry) => x.severity < sev) b ++ [e] } }
    else s.bump (obj 0x2D02 0x0F)
  else { s with recorder := { s.recorder with live := s.recorder.live.event code sev } }

/-- The four blocks of an EVENT (13 R378). -/
def State.eventWords (s : State) (code sev arg : Nat) : List Nat :=
  [(code <<< 48) + (sev <<< 46) + ((s.strand.eventSeq % 65536) <<< 16), s.tick,
   (s.opSecs <<< 32) + ((s.nat (obj 0x2001 0x0B) % 2 ^ 24) <<< 8), arg]

/-- One EVENT frame; the Bool says that it was dropped on its way out. -/
def State.eventFrame (s : State) (dest code sev arg : Nat) : State × Bool :=
  let s := { s with strand := { s.strand with eventSeq := (s.strand.eventSeq + 1) % 65536 } }
  s.message dest 4 0 (s.eventWords code sev arg)

/-- The throttle of an event that is raised at most once per second: whether it may be raised now. -/
def State.mayRaise (s : State) (code : Nat) : Bool :=
  match assocGet s.recorder.throttled code with
  | some t => t + secTicks ≤ s.clk
  | none => true

def State.noteRaised (s : State) (code : Nat) : State :=
  { s with recorder := { s.recorder with throttled := assocSet s.recorder.throttled code s.clk } }

/-- EVENT frames to neighbours; the Bool says that one of them was dropped. -/
def State.eventFrames (code sev arg : Nat) : List Nat → State → State × Bool
  | [], s => (s, false)
  | n :: r, s =>
    match s.eventFrame n code sev arg with
    | (s, d) =>
      match State.eventFrames code sev arg r s with
      | (s, e) => (s, d || e)

/-- The EVENT frame to the host; without a host anchor it is dropped at once and counted (13 R378). -/
def State.eventToHost (s : State) (code sev arg : Nat) : State × Bool :=
  match s.hostAnchor with
  | none => (s.bump (obj 0x2206 6), false)
  | some _ => s.eventFrame 0xFFF code sev arg

/-- Frames were dropped: event 0xA007 at most once per second (13 R369). Where its own EVENT is dropped in turn, that is within the second. -/
def State.noteDrop (s : State) : State :=
  if s.mayRaise 0xA007 then (((s.noteRaised 0xA007).logEvent 0xA007 1 0).eventToHost 0xA007 1 0).1 else s

/-- What follows a frame's sending, where it was dropped. -/
def State.noteDropped (s : State) (dropped : Bool) : State := if dropped then s.noteDrop else s

/-- A message of this module, whose drop is an event (13 R352, R369). -/
def State.post (s : State) (dest vc type : Nat) (words : List Nat) : State :=
  match s.message dest vc type words with
  | (s, d) => s.noteDropped d

/-- The neighbours to which an event goes (13 R378). -/
def State.eventNear (s : State) (code : Nat) : List Nat :=
  if code = 0x1001 ∨ code = 0x1010 then ([0, 1, 2, 3].filter (fun l => s.linkUp l)).map (fun l => s.neighbour l) else []

/-- The EVENT messages of an event (13 R378): to the host, and of events 0x1001 and 0x1010 to every neighbour whose link is UP. -/
def State.sendEvent (s : State) (code sev arg : Nat) : State :=
  if !s.module.mainUp then s
  else
    match State.eventFrames code sev arg (s.eventNear code) s with
    | (s, d) =>
      match s.eventToHost code sev arg with
      | (s, e) => s.noteDropped (d || e)

/-- Enter an EMCY frame in the queue of 16 (15 R430). -/
def State.queueEmcy (s : State) (e : Emcy) : State :=
  let q := s.side.emcy
  if q.length < 16 then { s with side := { s.side with emcy := q ++ [e] } }
  else if q.any (fun x => x.severity == 2) && 2 ≤ e.severity then
    { s with side := { s.side with emcy := dropFirst (fun (x : Emcy) => x.severity == 2) q ++ [e] } }.bump (obj 0x2D02 0x0D)
  else s.bump (obj 0x2D02 0x0D)

/-- An event at S0 or S1, or the part of any event that triggers nothing. -/
def State.raiseLow (s : State) (code sev arg : Nat) : State := (s.logEvent code sev arg).sendEvent code sev arg

/-! ### Records -/

/-- The lowest free slot from `n` upwards of a rising slot list. -/
def firstFree : List (Nat × Record) → Nat → Nat
  | [], n => n
  | (k, _) :: r, n => if k = n then firstFree r (n + 1) else n

/-- The slot with the lowest sequence among those of a severity up to `sev`, the cleared record apart (17 R463). -/
def overwriteSlot (slots : List (Nat × Record)) (sev cleared : Nat) : Option Nat :=
  ((slots.filter (fun p => p.2.severity ≤ sev && p.1 != cleared)).foldl (fun best p =>
    match best with
    | none => some p
    | some b => if p.2.seq < b.2.seq then some p else some b) none).map (·.1)

/-- The highest severity counted in a bank (17 R463). -/
def Tally.severity (t : Tally) : Nat :=
  if 0 < t.counts.getD 3 0 then 3 else if 0 < t.counts.getD 2 0 then 2 else if 0 < t.counts.getD 1 0 then 1 else 0

/-- The increases of the counter slots since the bank opened. -/
def State.increases (s : State) (t : Tally) : List Nat :=
  (List.range 8).map (fun j =>
    let now := ({ s with recorder := { s.recorder with live := t } }).counterNow (t.cfg.slots.getD j 0)
    let base := t.base.getD j 0
    if base ≤ now then now - base else now)

/-- Counts of the header that change between its writes stand in its newer copy (17 R475). -/
def State.saveHeader (s : State) (h : LogHeader) : State :=
  { s with recorder := { s.recorder with
    header := h
    copies := s.recorder.copies.map (fun (c : LogHeader) => if c.seq ≠ 0 ∧ c.seq = h.seq ∧ c.seqCopy = h.seq then h else c) } }

/-- Write a formed record: into the given slot, or where 17 R463 puts it; dropped and counted where there is no place. -/
def State.writeRecord (s : State) (r : Record) (slot? : Option Nat) : State :=
  let free := firstFree s.recorder.slots 0
  let place := slot?.or (if free < 2000 then some free
    else overwriteSlot s.recorder.slots r.severity s.recorder.header.clearedSlot)
  match place with
  | none =>
    let h := s.recorder.header
    (s.saveHeader { h with dropped := satAdd max32 1 h.dropped }).raiseLow 0xD001 1 0
  | some k =>
    let old := assocGet s.recorder.slots k
    let r := { r with seq := s.recorder.nextSeq, closing := (old.map (·.seq)).getD 0 }
    { s with
      recorder :=
        { s.recorder with
          slots := assocSet s.recorder.slots k r
          nextSeq := (s.recorder.nextSeq + 1) % 2 ^ 32
          writing := some ⟨k, s.clk, old.isSome⟩ } }

/-- The banks change roles: the other bank is reset and becomes live, with the configuration that 0x2D01 holds where it was written
(17 R457, R460). -/
def State.switchBanks (s : State) : State :=
  let dirty := s.recorder.cfgDirty
  let id := if dirty then (s.recorder.cfgId + 1) % 2 ^ 32 else s.recorder.cfgId
  { s with recorder := { s.recorder with
    live := s.freshTally (if dirty then s.tallyCfg id else s.recorder.live.cfg) false, cfgDirty := false, cfgId := id } }

/-- The configuration changed with the trigger: event 0xD007 (17 R460). -/
def State.noteConfig (s before : State) : State := if before.recorder.cfgDirty then s.raiseLow 0xD007 0 s.recorder.cfgId else s

/-- A record trigger (17 R457, R461 to R463): the live bank becomes frozen and is written, the other becomes live. -/
def State.closeRecord (s : State) (trigger code arg : Nat) : State :=
  let bank := s.recorder.live
  let r : Record :=
    { trigger := trigger, severity := bank.severity
      powerDown := trigger == 5 || trigger == 6 || trigger == 8
      closed := s.opSecs, cycles := s.nat (obj 0x2001 0x0B), state := s.module.state.code
      code := code, arg := arg % 65536, tally := bank, increases := s.increases bank }
  (s.switchBanks.writeRecord r none).noteConfig s

/-- The triggers of an event at S2 or S3 (17 R461). -/
def State.severeTrigger (s : State) (code sev arg : Nat) : State :=
  if s.recorder.toIsland then s
  else if s.recorder.writing.isNone && s.recorder.clearing.isNone then s.closeRecord sev code arg
  else if sev = 3 then
    { s with recorder := { s.recorder with waitForced := s.recorder.waitForced.or (some (code, arg)) } }
  else s

/-- Raise an event with its severity and generic EMCY code. -/
def State.raiseAs (s : State) (code sev arg generic : Nat) : State :=
  let s := s.raiseLow code sev arg
  if 2 ≤ sev then
    let s := s.queueEmcy ⟨generic, code, sev, arg % 65536⟩
    let s := { s with backdrop := { s.backdrop with stripCode := code, stripAcked := false } }
    s.severeTrigger code sev arg
  else s

/-- Raise an event (17 R472). -/
def State.raise (s : State) (code arg : Nat) : State := s.raiseAs code (severityOf code) arg (genericCode code)

/-- Raise an event that is raised at most once per second. -/
def State.raiseSlow (s : State) (code arg : Nat) : State :=
  if s.mayRaise code then (s.noteRaised code).raise code arg else s

/-- The hourly trigger: at the end of a write in progress where there is one (17 R461). -/
def State.hourTrigger (s : State) : State :=
  if s.recorder.toIsland then s
  else if s.recorder.writing.isNone && s.recorder.clearing.isNone then s.closeRecord 1 0 0
  else { s with recorder := { s.recorder with waitHour := true } }

/-- An extreme of two intervals, the second opened `d` seconds after the first; the first of equal values is kept. -/
def Extreme.join (d : Nat) (a b : Extreme) : Extreme :=
  { lo := match a.lo, b.lo with
      | some (v, t), some (w, u) => if w < v then some (w, min max16 (u + d)) else some (v, t)
      | none, some (w, u) => some (w, min max16 (u + d))
      | x, none => x
    hi := match a.hi, b.hi with
      | some (v, t), some (w, u) => if v < w then some (w, min max16 (u + d)) else some (v, t)
      | none, some (w, u) => some (w, min max16 (u + d))
      | x, none => x }

/-- Two banks taken together, the second opened after the first; samples of the second only where both follow one configuration
(log entry 181). -/
def Tally.join (a b : Tally) : Tally :=
  let t := { a with
    counts := List.zipWith (satAdd max32) b.counts a.counts
    total := satAdd max32 b.total a.total
    last := if b.last = 0 then a.last else b.last }
  if a.cfg ≠ b.cfg then t
  else
    { t with
      hists := List.zipWith (fun (g h : Hist) => { n := satAdd max32 h.n g.n, bins := List.zipWith (satAdd max32) h.bins g.bins }) a.hists b.hists
      exts := List.zipWith (Extreme.join (b.openedAt - a.openedAt)) a.exts b.exts }

/-- A clear that waits writes no record: the bank it took at its acceptance stands in the live bank again (17 R461; log entry 181). -/
def State.dropClear (s : State) : State :=
  match s.recorder.clearing with
  | some (_, bank) => { s with recorder := { s.recorder with clearing := none, live := bank.join s.recorder.live } }
  | none => s

/-- A power-down trigger (5 power-fail and shutdown, 6 Moored, 8 restart): it supersedes waiting triggers, and from here
on events go to the island buffer (17 R461, R462). -/
def State.powerDownTrigger (s : State) (trigger : Nat) : State :=
  if s.recorder.toIsland then s
  else
    let s := s.dropClear
    let s := { s with recorder := { s.recorder with toIsland := true } }
    if s.recorder.writing.isNone then s.closeRecord trigger 0 0
    else { s with recorder := { s.recorder with waitDown := some trigger, waitForced := none, waitHour := false } }

/-- The header after the end of a write or a clear, written to the older copy (17 R462, R465). -/
def State.writeHeader (s : State) (h : LogHeader) : State :=
  let h := { h with seq := (h.seq + 1) % 2 ^ 32, seqCopy := (h.seq + 1) % 2 ^ 32 }
  let older := if (s.recorder.copies.getD 0 {}).seq ≤ (s.recorder.copies.getD 1 {}).seq then 0 else 1
  { s with recorder := { s.recorder with header := h, copies := s.recorder.copies.set older h } }

/-- The lowest sequence held. -/
def oldestSeq (slots : List (Nat × Record)) : Nat :=
  match slots with
  | [] => 0
  | p :: r => r.foldl (fun m q => min m q.2.seq) p.2.seq

/-- The end of a record's write: closing sequence, then header (17 R462). -/
def State.endWrite (s : State) (w : RecWrite) : State :=
  let r := (assocGet s.recorder.slots w.slot).getD {}
  let slots := assocSet s.recorder.slots w.slot { r with closing := r.seq }
  let h := s.recorder.header
  let s := { s with recorder := { s.recorder with
    slots := slots, writing := none, lastDuration := min 2000 ((s.clk - w.since) / usTicks) } }
  s.writeHeader { h with
    newest := r.seq, oldest := oldestSeq slots, held := slots.length, newestSlot := w.slot
    overwritten := satAdd max32 (boolNat w.overwrites) h.overwritten
    cfgId := r.tally.cfg.id }

/-- Counters that a clear leaves alone (17 R471). -/
def clearKeeps : List Nat := [obj 0x2D05 4, obj 0x2C00 8, obj 0x2001 0x0A, obj 0x2001 0x0B]

/-- The key is a counter that the manual clears only with the recorder. -/
def clearedWithRecorder (k : Nat) : Bool :=
  match objRow? (k / 256) (k % 256) with
  | some r => r.keep == .counter && !clearKeeps.contains k
  | none => false

/-- Steps 2 to 4 of a clear (17 R471), with the bank taken at its acceptance. -/
def State.runClear (s : State) (m : Master) (bank : Tally) : State :=
  let arg : Nat := match m with | .host => 1 | .mgmt => 2
  let r : Record :=
    { trigger := 7, severity := 1, closed := s.opSecs, cycles := s.nat (obj 0x2001 0x0B), state := s.module.state.code
      code := 0xD002, arg := arg, tally := bank, increases := s.increases bank }
  let h := s.recorder.header
  let s := { s with
    od := s.od.filter (fun p => !clearedWithRecorder p.1)
    recorder := { s.recorder with
      slots := [], clearing := none, clearReply := some m
      header := { h with
        clears := satAdd max32 1 h.clears, clearedSlot := 0, clearSecs := s.opSecs
        dropped := 0, overwritten := 0, torn := 0 } } }
  let live := s.recorder.live
  let s := { s with recorder := { s.recorder with live := { live with base := s.slotValues live.cfg.slots } } }
  (s.writeRecord r (some 0)).raiseLow 0xD002 1 arg

/-- What follows the end of a write: a power-down record, a clear, a forced record, the hourly record (17 R461, R471). -/
def State.nextTrigger (s : State) : State :=
  match s.recorder.waitDown with
  | some t => { s with recorder := { s.recorder with waitDown := none } }.closeRecord t 0 0
  | none =>
    match s.recorder.clearing with
    | some (m, bank) => s.runClear m bank
    | none =>
      match s.recorder.waitForced with
      | some (code, arg) => { s with recorder := { s.recorder with waitForced := none } }.closeRecord 4 code arg
      | none =>
        if s.recorder.waitHour then { s with recorder := { s.recorder with waitHour := false } }.closeRecord 1 0 0
        else s

/-- Finish the writes that a power-down leaves: they end within 3 ms, long before the main side is up again (17 R462). -/
def State.settleWrites : Nat → State → State
  | 0, s => s
  | n + 1, s =>
    match s.recorder.writing with
    | none => s
    | some w => State.settleWrites n (s.endWrite w).nextTrigger

end Sys2Proof.Machine
end

