-- ==== Sys2Proof/Machine/Operands.lean ====
section
/-!
DEFINITION. The operand forms of the block: values of objects on the wire (14 R387), and the checks that every write passes
before its object acts on it (14 R388, R389, R392, R393, R398, R400).
-/
namespace Sys2Proof.Machine

/-! ### Abort codes (14 R406) -/

abbrev abortTimeout : Nat := 0x05040000
abbrev abortSequence : Nat := 0x05040003
abbrev abortMemory : Nat := 0x05040005
abbrev abortRight : Nat := 0x06010000
abbrev abortWriteOnly : Nat := 0x06010001
abbrev abortReadOnly : Nat := 0x06010002
abbrev abortNoObject : Nat := 0x06020000
abbrev abortHardware : Nat := 0x06060000
abbrev abortLength : Nat := 0x06070010
abbrev abortLong : Nat := 0x06070012
abbrev abortSub : Nat := 0x06090011
abbrev abortRange : Nat := 0x06090030
abbrev abortData : Nat := 0x08000020
abbrev abortState : Nat := 0x08000022

/-! ### Values on the wire -/

/-- Bytes of a numeric type; 0 for strings and blocks. -/
def OType.size : OType → Nat
  | .bool | .i8 | .u8 => 1
  | .i16 | .u16 => 2
  | .i32 | .u32 | .r32 => 4
  | .i64 | .u64 => 8
  | .text | .octets | .domain => 0

/-- Two's complement types. -/
def OType.isSigned : OType → Bool
  | .i8 | .i16 | .i32 | .i64 => true
  | _ => false

/-- The number fits the type. -/
def OType.fits (t : OType) (v : Int) : Bool :=
  if t.isSigned then -(2 ^ (8 * t.size - 1) : Int) ≤ v && v < (2 ^ (8 * t.size - 1) : Int)
  else 0 ≤ v && v < (2 ^ (8 * t.size) : Int)

/-- A value of a type from bytes; none when the length does not match (14 R393 check 5). -/
def OType.ofBytes (t : OType) (d : List Byte) : Option Val :=
  if t.size = 0 then some (.bytes d)
  else if d.length ≠ t.size then none
  else some (.num (if t.isSigned then signedOf t.size (ofLe d) else (ofLe d : Int)))

/-- The bytes of a value of a type. -/
def OType.toBytes (t : OType) : Val → List Byte
  | .bytes b => b
  | .num v => leBytes t.size (unsignedOf t.size v)

/-! ### Rows for absent parts of the smaller variant -/

/-- The first index of a pair of per-valve arrays (14 R390). -/
def valvePair (index : Nat) : Bool :=
  (0x2710 ≤ index && index ≤ 0x2731) || (0x2810 ≤ index && index ≤ 0x2813) || (0x2910 ≤ index && index ≤ 0x2921)

/-- Per-group arrays (14 R390). -/
def groupArray (index : Nat) : Bool :=
  (0x2705 ≤ index && index ≤ 0x2709) || (0x2801 ≤ index && index ≤ 0x2807) || index == 0x2809

/-- Subindexes that read zero and refuse writes: frame buffers of P0 and P1 (03 R96), the external set-point on the AEH-2564
(09 R270), target and slew rate on the AEH-1282 (09 R271). -/
def State.readsZero (s : State) (k : Nat) : Bool :=
  let index := k / 256
  let sub := k % 256
  k == obj 0x2301 5 || k == obj 0x2311 5
  || (0x2A12 ≤ index && index ≤ 0x2A82 && index % 16 == 2 &&
    (match s.variant with | .aeh2564 => 3 ≤ sub && sub ≤ 5 | .aeh1282 => 1 ≤ sub && sub ≤ 2))

/-- Lane groups 8 to 15 and the back face in 0x2604 to 0x260D (05 R174). -/
def laneAbsent (index sub : Nat) : Bool :=
  (0x2604 ≤ index && index ≤ 0x260D && index != 0x2605 && 9 ≤ sub)
  || index == 0x2607 || index == 0x2609 || index == 0x260B || index == 0x260D

/-- The object stands for P1, P3, V128 to V255, G16 to G31, lane groups 8 to 15 or the back face, absent on the AEH-1282 (00 R4,
05 R174), or reads zero by a rule of its own. -/
def State.absent (s : State) (k : Nat) : Bool :=
  s.readsZero k ||
  match s.variant with
  | .aeh2564 => false
  | .aeh1282 =>
    let index := k / 256
    let sub := k % 256
    (0x2310 ≤ index && index ≤ 0x231F) || (0x2330 ≤ index && index ≤ 0x233F)
    || index == 0x2420 || index == 0x2440 || (laneAbsent index sub && sub ≠ 0)
    || (valvePair index && index % 2 == 1 && sub ≠ 0)
    || (groupArray index && 17 ≤ sub)

/-! ### Ranges (check 6) -/

/-- Ranges stated against another object, with `look` giving the values they rest on (14 R393). -/
def relativeOk (look : Nat → Nat) (k : Nat) (v : Int) : Bool :=
  let index := k / 256
  let sub := k % 256
  if k = obj 0x2E01 2 then (look (obj 0x2F02 3) : Int) ≤ v && v < (look (obj 0x2F02 3) : Int) + look (obj 0x2F02 4)
  else if k = obj 0x2105 3 then v ≤ (look (obj 0x2105 2) : Int) - 1
  else if k = obj 0x2105 4 then 8 ≤ v && 2 * v ≤ (look (obj 0x2105 2) : Int)
  else if k = obj 0x2703 2 then (look (obj 0x2703 1) : Int) + 5 ≤ v && v ≤ 200
  else if k = obj 0x2C21 3 then (look (obj 0x2C21 2) : Int) + 10 ≤ v && v ≤ 105
  else if 0x2300 ≤ index && index < 0x2340 && index % 16 = 3 && sub = 2 then 256 * (v + 1) ≤ (look (obj index 1) : Int)
  else if 0x2300 ≤ index && index < 0x2340 && index % 16 = 3 && sub = 3 then
    8 ≤ v && 256 * v ≤ (look (obj index 1) : Int) - 256 * 8
  else if 0x2A10 ≤ index && index < 0x2A90 && index % 16 = 0 && sub = 7 then v ≤ (look (obj index 6) : Int) - 1
  else if 0x2A10 ≤ index && index < 0x2A90 && index % 16 = 5 && sub = 5 then
    !r32NotFinite v.toNat && 0 ≤ r32Value v.toNat
      && r32Value v.toNat ≤ 255 * (look (obj (index - 5) 6) : ℚ) / secTicks
  else true

/-- A counter slot names an UNSIGNED32 saturating counter, its lowest byte 0 (17 R460). -/
def counterSlotOk (v : Nat) : Bool :=
  v % 256 == 0 &&
    (match objRow? (v / 65536) (v / 256 % 256) with
    | some r => r.type == .u32 && (r.keep == .counter || r.keep == .saturating)
    | none => false)

/-- Objects whose range column names a rule of its own that is no state of the block. -/
def ruleRange (k : Nat) (v : Int) : Bool :=
  let index := k / 256
  let sub := k % 256
  let n := v.toNat
  if index = 0x1005 then bits n 31 11 % 2 ^ 20 == 0 && bits n 30 11 == 0
  else if index = 0x1014 || (0x1400 ≤ index && index ≤ 0x1403 && sub = 1) || (0x1800 ≤ index && index ≤ 0x1803 && sub = 1) then
    bits n 30 11 == 0
  else if index = 0x1016 then bits n 31 24 == 0
  else if index = 0x2D01 && 0x11 ≤ sub && sub ≤ 0x18 then counterSlotOk n
  else if 0x2A90 ≤ index && index < 0x2A94 && (sub = 1 || sub = 4) then
    let node := n % 256
    (n / 256 < 8 && 1 ≤ node && node ≤ 14) || (n / 256 == 0xFE && 1 ≤ node && node ≤ 12)
  else true

/-- Bin edges ascend in each channel (04 R139). -/
def edgesAscend (b : List Byte) : Bool :=
  (List.range 4).all (fun c => (List.range 6).all (fun k => field b (14 * c + 2 * k) 2 < field b (14 * c + 2 * k + 2) 2))

/-- The object is a table of histogram bin edges (04 R139). -/
def edgeTable (k : Nat) : Bool := k % 256 == 6 && [0x2410, 0x2420, 0x2430, 0x2440].contains (k / 256)

/-- Check 6 for the range column of a row. -/
def rangeOk (look : Nat → Nat) (r : ObjRow) (k : Nat) (v : Val) : Bool :=
  match v with
  | .bytes b => !edgeTable k || edgesAscend b
  | .num n =>
    (r.type != .bool || n == 0 || n == 1) &&
    (match r.range with
    | .any => ruleRange k n
    | .between lo hi => lo ≤ n && n ≤ hi
    | .betweenOr lo hi o => (lo ≤ n && n ≤ hi) || n == o
    | .multiple lo hi m => lo ≤ n && n ≤ hi && n % m == 0
    | .oneOf l => l.contains n
    | .relative => relativeOk look k n
    | .finite => !r32NotFinite n.toNat
    | .realAtLeast lo => !r32NotFinite n.toNat && (lo : ℚ) ≤ r32Value n.toNat
    | .realAbove0 => !r32NotFinite n.toNat && 0 < r32Value n.toNat
    | .realBetween lo hi => !r32NotFinite n.toNat && (lo : ℚ) ≤ r32Value n.toNat && r32Value n.toNat ≤ (hi : ℚ))

/-- The longest string an object takes (14 R387). -/
def textMax (k : Nat) : Nat := if k / 256 = 0x2503 then 24 else if k = obj 0x2B30 1 then 32 else 64

/-- The length an OCTET_STRING has. -/
def octetLen (k : Nat) : Nat := if k / 256 = 0x2D05 then 8 else 0

/-! ### Who serves, who may write -/

/-- Objects that the island serves itself (14 R392). -/
def islandObject (k : Nat) : Bool :=
  let index := k / 256
  let sub := k % 256
  (0x1000 ≤ index && index ≤ 0x1FFF) || index == 0x2000
  || (index == 0x2001 && [0, 1, 7, 0x0B, 0x0C].contains sub) || k == obj 0x2005 1
  || (index == 0x2C00 && [0, 1, 9, 0x0A].contains sub) || index == 0x2C01
  || index == 0x2D00 || index == 0x2D03 || index == 0x2D04
  || (0x2E00 ≤ index && index ≤ 0x2E04) || index == 0x2E06 || k == obj 0x2A02 0x0E

/-- Objects that the recovery loader serves over Strand (18 R486). -/
def loaderObject (k : Nat) : Bool :=
  let index := k / 256
  index == 0x2000 || (0x2E00 ≤ index && index ≤ 0x2E06) || index == 0x2F03

/-- The other master. -/
def otherMaster : Master → Master
  | .host => .mgmt
  | .mgmt => .host

def masterIx : Master → Nat
  | .host => 0
  | .mgmt => 1

/-- Objects that no lock binds (14 R398). -/
def lockExempt (k : Nat) : Bool :=
  k / 256 == 0x2002 || k / 256 == 0x2003 || k == obj 0x2005 1 || k / 256 == 0x2C01

/-- A lock of this owner covers the object. While the main side is down the island holds no locks (14 R399). -/
def State.lockedBy (s : State) (o : Master) (k : Nat) : Bool :=
  s.module.mainUp && !lockExempt k &&
    s.dict.locks.any (fun l =>
      match l with
      | some l => l.owner == o && l.first ≤ k / 256 && k / 256 ≤ l.last && s.clk < l.until_
      | none => false)

/-- The main rails are on: the main side is up, restarts, or runs the power-fail sequence (11 R315, R317, 12 R344). -/
def State.railsUp (s : State) : Bool := s.power.state == 3 || s.power.seqAt.isSome

/-- The island runs: from V_SB, or from V5 of the main side (11 R320). -/
def State.islandFed (s : State) : Bool := s.power.vsb || s.railsUp

/-- The side-band works: its transceiver is supplied from V_SB alone (01 R33, 15 R410, 19 R502), and the island runs. -/
def State.canFed (s : State) : Bool := s.power.vsb && s.islandFed

/-- The CAN node has a node-ID and the bus; in bus-off it keeps on sampling (15 R420). -/
def State.nodeOn (s : State) : Bool := s.canFed && s.side.nodeId != 0xFF && s.side.switching.isNone

/-- The CAN node takes part in communication: a node-ID is in force, the bus is on, no bit timing is being switched (15 R420, R433, R434). -/
def State.nodeUp (s : State) : Bool := s.nodeOn && s.side.errors != .busOff

/-- NMT states with SDO, EMCY and SYNC (15 R422). -/
def NmtState.served : NmtState → Bool
  | .preOperational | .operational => true
  | .initialisation | .stopped => false

/-- The request reaches something that answers it: over the side-band the island's SDO server, over Strand the main side or the loader
(14 R392, R393; 15 R422, R433). -/
def State.reachable (s : State) (m : Master) : Bool :=
  match m with
  | .mgmt => s.nodeUp && s.side.nmt.served
  | .host => s.module.mainUp || s.module.loader

/-- Check 0 (14 R393). -/
def State.check0 (s : State) (m : Master) (k : Nat) : Bool :=
  s.module.mainUp ||
    (match m with
    | .mgmt => islandObject k || (s.module.loader && loaderObject k)
    | .host => loaderObject k)

/-- Right to write (14 R389). -/
def rightOk (r : Rights) (m : Master) : Bool :=
  match r, m with
  | .hm, _ => true
  | .h, .host => true
  | .m, .mgmt => true
  | _, _ => false

/-- Check 5 (14 R393). -/
def lengthAbort (r : ObjRow) (k : Nat) (v : Val) : Nat :=
  match r.type, v with
  | .text, .bytes b => if textMax k < b.length then abortLong else 0
  | .octets, .bytes b => if b.length = octetLen k then 0 else abortLength
  | .domain, .bytes _ => 0
  | .text, .num _ | .octets, .num _ | .domain, .num _ => abortLength
  | t, .num n => if t.fits n then 0 else abortLength
  | _, .bytes _ => abortLength

/-- Channels of a pixel format (03 R64). -/
def formatChannels (f : Nat) : Nat := if f ≤ 2 then 1 else if f = 3 then 3 else 4

/-- The one length that a block object has, where one is stated (04 R139, 07 R229, R238, 09 R268, 10 R287, R296). -/
def State.domainSize (s : State) (k : Nat) : Option Nat :=
  let index := k / 256
  let sub := k % 256
  if index = 0x2410 ∨ index = 0x2420 ∨ index = 0x2430 ∨ index = 0x2440 then
    let p := (index - 0x2410) / 16
    let w := s.nat (obj (0x2302 + 16 * p) 4)
    let c := formatChannels (s.nat (obj (0x2302 + 16 * p) 3))
    some (if sub ≤ 3 then 2 * w * c else if sub = 4 then (if p < 2 then w / 64 * 4 else 8) else if sub = 5 then 40 else 56)
  else if index = 0x2801 ∨ k = obj 0x2808 1 then some 4096
  else if (0x2A13 ≤ index ∧ index ≤ 0x2A84) ∧ (index % 16 = 3 ∨ index % 16 = 4) then some 80
  else if index = 0x2B03 then some 8512
  else if index = 0x2B04 then some (match s.variant with | .aeh2564 => 16416 | .aeh1282 => 8224)
  else if index = 0x2B10 then some (match s.variant with | .aeh2564 => 8224 | .aeh1282 => 4128)
  else none

/-- A group image of a wrong length: its refusal at check 5 has the effects of 07 R230, so the image's own rule makes it. -/
def imageOfLength (k n : Nat) : Bool := (k / 256 == 0x2801 || k == obj 0x2808 1) && n != 4096

/-- Lengths that a block object takes (check 5; 03 R96, 04 R125). -/
def State.domainLength (s : State) (k n : Nat) : Bool :=
  let index := k / 256
  let sub := k % 256
  match s.domainSize k with
  | some m => n == m || imageOfLength k n
  | none =>
    if 0x2300 ≤ index ∧ index < 0x2340 then
      if index % 16 = 5 then (if sub = 1 then 1 ≤ n && n ≤ 64 else 1 ≤ n && n ≤ 256)
      else if index % 16 = 2 then n ≤ 1024
      else true
    else if index = 0x2501 ∨ index = 0x2502 then
      0x40400 + 0x800 ≤ n && n ≤ 0x40400 + 256 * 0x800 && (n - 0x40400) % 0x800 == 0
    else true

/-- Subindexes that a port does not have: colour matrix and bin edges of P0 and P1 (04 R139). -/
def missingSub (k : Nat) : Bool := (k / 256 == 0x2410 || k / 256 == 0x2420) && (k % 256 == 5 || k % 256 == 6)

/-- Values that the AEH-1282 refuses by rules of their own: feedback from a second upper camera (09 R261) and columns above
255 (10 R310). -/
def State.variantRange (s : State) (k : Nat) (v : Val) : Bool :=
  match s.variant, v with
  | .aeh1282, .num n =>
    let index := k / 256
    let sub := k % 256
    if 0x2A11 ≤ index ∧ index ≤ 0x2A81 ∧ index % 16 = 1 ∧ sub = 1 then n ≤ 11
    else if 0x2B20 ≤ index ∧ index ≤ 0x2B27 ∧ (sub = 2 ∨ sub = 3) then n ≤ 255
    else true
  | _, _ => true

/-- Characters of a VISIBLE_STRING (14 R387). -/
def textOk (r : ObjRow) (v : Val) : Bool :=
  match r.type, v with
  | .text, .bytes b => b.all (fun c => 0x20 ≤ c.toNat && c.toNat ≤ 0x7E)
  | _, _ => true

def valLen : Val → Nat
  | .bytes b => b.length
  | .num _ => 0

/-- Checks 1 to 3 of a read (14 R393): 0, or the abort code. -/
def State.checkRead (s : State) (m : Master) (k : Nat) : Nat :=
  if !s.check0 m k then abortState
  else if !indexExists (k / 256) then abortNoObject
  else if k % 256 = 0 && !hasSubZeroRow (k / 256) then 0
  else if missingSub k then abortSub
  else
    match objRow? (k / 256) (k % 256) with
    | none => abortSub
    | some r => if r.access == .wo then abortWriteOnly else 0

/-- Checks 0 to 6 of a write, with `look` giving the values that ranges rest on (14 R393). -/
def State.checkWrite (s : State) (look : Nat → Nat) (m : Master) (k : Nat) (v : Val) : Nat :=
  if !s.check0 m k then abortState
  else if !indexExists (k / 256) then abortNoObject
  else if k % 256 = 0 && !hasSubZeroRow (k / 256) then abortReadOnly
  else if missingSub k then abortSub
  else
    match objRow? (k / 256) (k % 256) with
    | none => abortSub
    | some r =>
      if r.access == .ro || r.access == .const then abortReadOnly
      else if !rightOk r.rights m then abortRight
      else if lengthAbort r k v ≠ 0 then lengthAbort r k v
      else if r.type == .domain && !s.domainLength k (valLen v) then abortLength
      else if s.absent k || !textOk r v || !rangeOk look r k v || !s.variantRange k v then abortRange
      else 0

/-- An object whose writes go to an open stage (14 R400). -/
def stageable (k : Nat) : Bool :=
  match objRow? (k / 256) (k % 256) with
  | some r => r.access == .rw && r.type != .domain && 0x2000 ≤ k / 256 && !lockExempt k
  | none => false

/-! ### The answer, the stage, and a checked write -/

/-- Answer a master. -/
def State.answer (s : State) (m : Master) (k abort : Nat) (data : List Byte) : State :=
  s.emit (.reply m (k / 256) (k % 256) abort data)

def State.stage (s : State) (m : Master) : Stage := s.dict.stages.getD (masterIx m) {}
def State.setStage (s : State) (m : Master) (g : Stage) : State :=
  { s with dict := { s.dict with stages := s.dict.stages.set (masterIx m) g } }

/-- Enter a value in the master's stage: a second write replaces its entry, the 129th entry is refused (14 R400). -/
def State.stageWrite (s : State) (m : Master) (k : Nat) (v : Val) : State × Nat :=
  let g := s.stage m
  if g.entries.any (fun e => e.1 == k) then
    (s.setStage m { g with entries := g.entries.map (fun e => if e.1 = k then (k, v) else e), touched := s.clk }, 0)
  else if 128 ≤ g.entries.length then (s, abortMemory)
  else (s.setStage m { g with entries := g.entries ++ [(k, v)], touched := s.clk }, 0)

/-- Check 7 (14 R393, R398): a group image that has failed check 5 is past it. -/
def State.lockRefuses (s : State) (m : Master) (k : Nat) (v : Val) : Bool := s.lockedBy (otherMaster m) k && !imageOfLength k (valLen v)

/-- A write without its answer: checks 0 to 6, the stage, check 7, then the object's own rules `act` (14 R393, R400). -/
def State.tryWrite (s : State) (m : Master) (k : Nat) (v : Val) (act : State → State × Nat) : State × Nat :=
  let c := s.checkWrite s.nat m k v
  if c ≠ 0 then (s, c)
  else if (s.stage m).isOpen && stageable k then s.stageWrite m k v
  else if s.lockRefuses m k v then (s.bump (obj 0x2006 1), abortState)
  else act s

/-- A write by a master, answered (14 R393). A request that reaches nothing changes nothing and is not answered; one that takes down what
answers it is not answered either. -/
def State.write (s : State) (m : Master) (k : Nat) (v : Val) (act : State → State × Nat) : State :=
  if !s.reachable m then s
  else
    match s.tryWrite m k v act with
    | (s, c) => if s.reachable m then s.answer m k c [] else s

/-- A write whose answer follows later where it is accepted (14 R403). -/
def State.writeLater (s : State) (m : Master) (k : Nat) (v : Val) (act : State → State × Nat) : State :=
  if !s.reachable m then s
  else
    match s.tryWrite m k v act with
    | (s, c) => if c ≠ 0 && s.reachable m then s.answer m k c [] else s

/-- The plain action: the value is held. -/
def hold (k : Nat) (v : Val) (s : State) : State × Nat := (s.put k v, 0)

/-- The action that only holds a number and then acts. -/
def State.keep (s : State) (k : Nat) (v : Nat) : State := s.putNat k v

end Sys2Proof.Machine
end

