-- ==== Sys2Proof/Machine/Image.lean ====
section
/-!
DEFINITION. The arithmetic of the two engines on samples, lines and objects, free of the machine's state: working samples
and flat-field (04 R98, R99), stages 3 to 5 (R102, R112), joining of runs (R103, R113), centroids and sighting records
(R105, R128), features, colour categories and trees (R119 to R122), the bank image (R124, R125), frame statistics (R135).
-/
namespace Sys2Proof.Machine

/-! ### Working samples and tables (04 R98, R99) -/

/-- Bits per sample of a pixel format (03 R64). -/
def formatBits (f : Nat) : Nat := match f with | 1 | 5 => 10 | 2 => 12 | _ => 8

/-- A camera sample aligned to 12 bits. -/
def workSample (bits v : Nat) : Nat := v * 2 ^ (12 - bits)

/-- Entry of column `x` and channel `i` of a table with `ch` channels: black level, gain, backdrop reference. -/
def Context.blackAt (c : Context) (ch x i : Nat) : Int :=
  if c.black.isEmpty then 0 else signedOf 2 (field c.black (2 * (x * ch + i)) 2)
def Context.gainAt (c : Context) (ch x i : Nat) : Nat :=
  if c.gain.isEmpty then 16384 else field c.gain (2 * (x * ch + i)) 2
def Context.refAt (c : Context) (ch x i : Nat) : ℚ :=
  if c.ref.isEmpty then 0 else (field c.ref (2 * (x * ch + i)) 2 : ℚ) / 16

/-- The backdrop reference table of a context as rationals, by column and channel. -/
def Context.refTable (c : Context) (w ch : Nat) : List (List ℚ) :=
  (List.range w).map (fun x => (List.range ch).map (fun i => c.refAt ch x i))

/-- Stages 1 and 2 of one sample. -/
def Context.stage2 (c : Context) (ch bits x i v : Nat) : Nat :=
  let s1 := (clampI 0 4095 ((workSample bits v : Int) - c.blackAt ch x i)).toNat
  min 4095 (roundDiv (s1 * c.gainAt ch x i) 16384)

/-- Stages 1 and 2 of one pixel. -/
def Context.pixel2 (c : Context) (ch bits x : Nat) (p : Pixel) : Pixel :=
  (List.range ch).map (fun i => c.stage2 ch bits x i (p.getD i 0))

/-- Thresholds of a Fix stripe: T_dark and T_bright. -/
def Context.fixThresholds (c : Context) (stripe : Nat) : Nat × Nat :=
  if c.thresholds.isEmpty then (256, 256)
  else (field c.thresholds (4 * stripe) 2, field c.thresholds (4 * stripe + 2) 2)

/-- Stage 4 of the Fix engine (04 R102). -/
def fixObject (t : Nat × Nat) (d : Int) : Bool := (0 < t.1 && d ≤ -(t.1 : Int)) || (0 < t.2 && (t.2 : Int) ≤ d)

/-- Weights and threshold of the Grade engine. -/
def Context.weight (c : Context) (i : Nat) : Nat := if c.thresholds.isEmpty then 16 else field c.thresholds i 1
def Context.segThreshold (c : Context) : Nat := if c.thresholds.isEmpty then 512 else field c.thresholds 4 2

/-- Colour matrix and offsets. -/
def Context.matrixAt (c : Context) (o i : Nat) : Int :=
  if c.matrix.isEmpty then (if o = i then 4096 else 0) else signedOf 2 (field c.matrix (2 * (4 * o + i)) 2)
def Context.offsetAt (c : Context) (o : Nat) : Int :=
  if c.matrix.isEmpty then 0 else signedOf 2 (field c.matrix (32 + 2 * o) 2)

/-- Stage 2 of the frame part (04 R112): mono cameras use m[0][0] and off[0] only. The quotient is rounded to nearest (log entry 126). -/
def Context.pixel3 (c : Context) (ch : Nat) (p : Pixel) : Pixel :=
  let n := if ch = 1 then 1 else 4
  (List.range n).map (fun o =>
    let sum := sumI ((List.range n).map (fun i => c.matrixAt o i * (p.getD i 0 : Nat)))
    (clampI 0 4095 (roundQ ((sum : ℚ) / 4096) + c.offsetAt o)).toNat)

/-- Stages 3 and 4 of the frame part: the segmentation score of one pixel against its reference. -/
def Context.segScore (c : Context) (ch : Nat) (ref : List ℚ) (p : Pixel) : ℚ :=
  sumQ ((List.range (if ch = 1 then 1 else 4)).map (fun i =>
    let d := (p.getD i 0 : ℚ) - ref.getD i 0
    (c.weight i : ℚ) * (if d < 0 then -d else d))) / 16

/-- Histogram bin edges of a channel. -/
def Context.edge (c : Context) (i k : Nat) : Nat :=
  if c.edges.isEmpty then 512 * (k + 1) else field c.edges (2 * (7 * i + k)) 2

/-! ### Runs (04 R102, R103) -/

/-- Maximal runs of object pixels from column `x` on. -/
def maskRuns : List Bool → Nat → Option Nat → List (Nat × Nat)
  | [], x, some lo => [(lo, x - 1)]
  | [], _, none => []
  | true :: r, x, lo => maskRuns r (x + 1) (some (lo.getD x))
  | false :: r, x, some lo => (lo, x - 1) :: maskRuns r (x + 1) none
  | false :: r, x, none => maskRuns r (x + 1) none

/-- Bridge gaps of up to `gap` pixels between runs; the accumulator is the run before. -/
def bridgeRuns (gap : Nat) : Option (Nat × Nat) → List (Nat × Nat) → List (Nat × Nat)
  | none, [] => []
  | some a, [] => [a]
  | none, b :: r => bridgeRuns gap (some b) r
  | some a, b :: r =>
    if b.1 - a.2 - 1 ≤ gap then bridgeRuns gap (some (a.1, b.2)) r else a :: bridgeRuns gap (some b) r

/-- At most 16 runs start in a stripe of 64 columns: the runs kept, and the number dropped. -/
def limitRuns (l : List (Nat × Nat)) : List (Nat × Nat) × Nat :=
  l.foldl (fun (p : List (Nat × Nat) × Nat) r =>
    if 16 ≤ (p.1.filter (fun q => q.1 / 64 == r.1 / 64)).length then (p.1, p.2 + 1) else (p.1 ++ [r], p.2)) ([], 0)

/-- Two runs on lines that follow each other overlap or touch diagonally. -/
def Run.touches (a b : Run) : Bool := a.lo ≤ b.hi + 1 && b.lo ≤ a.hi + 1

/-- A run is 8-connected to one of these columns of its own or a neighbouring line. -/
def Run.meets (a : Run) (cols : List Nat) : Bool := cols.any (fun x => a.lo ≤ x + 1 && x ≤ a.hi + 1)

def Run.area (r : Run) : Nat := r.hi + 1 - r.lo

/-- A run of columns with the weight of each column. -/
def mkRun (weight : Nat → Nat) (score : Nat → ℚ) (padded : List Nat) (b : Nat × Nat) : Run :=
  let cols := (List.range (b.2 + 1 - b.1)).map (· + b.1)
  let r : Run :=
    { lo := b.1, hi := b.2
      w := sumN (cols.map weight)
      wu := sumN (cols.map (fun x => (2 * x + 1) * weight x))
      score := sumQ (cols.map score) }
  { r with padded := r.meets padded }

/-! ### Blobs and components (04 R103 to R105, R108, R113) -/

/-- The runs on the last received line. -/
def Blob.last (b : Blob) : List Run := (b.rows.getLast?.map (·.runs)).getD []

/-- Enter a line's runs in a list of lines, rising by trigger index. -/
def insertRow (x : BlobLine) : List BlobLine → List BlobLine
  | [] => [x]
  | y :: r =>
    if x.index = y.index then { y with runs := y.runs ++ x.runs } :: r
    else if x.index < y.index then x :: y :: r
    else y :: insertRow x r

/-- Two blobs merged into one. -/
def Blob.merge (a b : Blob) : Blob :=
  { rows := b.rows.foldl (fun l x => insertRow x l) a.rows
    bridged := a.bridged || b.bridged
    padded := a.padded || b.padded }

/-- One run joins what it touches on the line before: open blobs with their runs on this line so far, and how many runs
found no place. -/
def joinRun (limit : Nat) (p : List (Blob × List Run) × Nat) (r : Run) : List (Blob × List Run) × Nat :=
  let hit := p.1.filter (fun w => w.1.last.any r.touches)
  let rest := p.1.filter (fun w => !w.1.last.any r.touches)
  match hit with
  | [] => if limit ≤ p.1.length then (p.1, p.2 + 1) else (p.1 ++ [({}, [r])], p.2)
  | w :: l =>
    (rest ++ [(l.foldl (fun b x => b.merge x.1) w.1, l.foldl (fun c x => c ++ x.2) w.2 ++ [r])], p.2)

/-- What a complete line does to the open blobs: those that stay open, those that close untouched, those that close at the
length limit, and the runs that found the table full. `gap` is a missing line before it. -/
structure Joined where
  stay : List Blob
  close : List Blob
  atLimit : List Blob
  full : Nat

def joinLine (blobLimit lenLimit : Nat) (gap : Option BlobLine) (row : BlobLine) (padded : List Nat) (blobs : List Blob) :
    Joined :=
  let blobs := if gap.isSome then blobs else blobs.map (fun b => { b with padded := b.padded || b.last.any (·.meets padded) })
  let j := row.runs.foldl (joinRun blobLimit) (blobs.map (fun b => (b, [])), 0)
  let open_ := (j.1.filter (fun w => !w.2.isEmpty)).map (fun w =>
    let old := !w.1.rows.isEmpty
    let rows := w.1.rows ++ (match gap with | some g => if old then [g] else [] | none => []) ++ [{ row with runs := w.2 }]
    { w.1 with
      rows := rows
      bridged := w.1.bridged || (old && gap.isSome)
      padded := w.1.padded || w.2.any (·.padded) })
  { stay := open_.filter (fun b => b.rows.length < lenLimit)
    close := (j.1.filter (fun w => w.2.isEmpty)).map (·.1)
    atLimit := open_.filter (fun b => lenLimit ≤ b.rows.length)
    full := j.2 }

def Blob.runs (b : Blob) : List Run := b.rows.flatMap (·.runs)
def Blob.area (b : Blob) : Nat := sumN (b.runs.map (·.area))
def Blob.minCol (b : Blob) : Nat := (b.runs.map (·.lo)).foldl min 65535
def Blob.maxCol (b : Blob) : Nat := (b.runs.map (·.hi)).foldl max 0

/-- Centroid time of R105 from the line times and the weight of each line. -/
def centroidTime (rows : List (Nat × Nat)) : Nat :=
  let sum := sumN (rows.map (·.2))
  let moment := sumN ((List.range rows.length).map (fun j => j * (rows.getD j (0, 0)).2))
  let y : ℚ := (moment : ℚ) / sum
  let f := moment / sum
  let t0 : ℚ := (rows.getD f (0, 0)).1
  let t1 : ℚ := (rows.getD (f + 1) (0, 0)).1
  if sum = 0 ∨ moment % sum = 0 then (rows.getD f (0, 0)).1 else roundN (t0 + (y - f) * (t1 - t0))

/-- The lane map (04 R105) in 1/64 lane, as INTEGER16. -/
def laneOf (lane : List Nat) (u : ℚ) : Int :=
  let c := fun i => r32Value (lane.getD i 0)
  clampI (-32768) 32767 (roundQ (64 * (c 0 + c 1 * u + c 2 * u * u + c 3 * u * u * u)))

/-- The sighting record of a closed blob or component (04 R105, R114, R128). -/
def Blob.toSighting (b : Blob) (lane : List Nat) (port width frame : Nat) (contrast : ℚ) (cut atLimit : Bool) : Sighting :=
  let runs := b.runs
  let w := sumN (runs.map (·.w))
  { time := centroidTime (b.rows.map (fun r => (r.time, sumN (r.runs.map (·.w)))))
    centre := laneOf lane ((sumN (runs.map (·.wu)) : ℚ) / (2 * w))
    west := laneOf lane b.minCol
    east := laneOf lane (b.maxCol + 1)
    length := min max16 (16 * b.rows.length)
    area := b.area
    contrast := min max16 (roundN contrast)
    port := port
    flags := boolNat (b.minCol == 0) + 2 * boolNat (b.maxCol + 1 == width) + 4 * boolNat b.padded + 8 * boolNat b.bridged
      + 16 * boolNat cut + 32 * boolNat atLimit
    frame := frame }

/-- The bounding box of a component: samples of its lines after stage 2 of the frame part, the colour matrix, and the mask of its pixels
(04 R112, R118, 13 R374). A bridged line has no samples and reads zero. -/
def Blob.toImage (b : Blob) (ch : Nat) (lines : List ProcLine) : ObjImage :=
  let lo := b.minCol
  let n := b.maxCol + 1 - lo
  { col := lo
    line := (b.rows.head?.map (·.index)).getD 0
    rows := b.rows.map (fun r =>
      match lines.find? (fun l => l.line.index == r.index) with
      | some l => (l.s3.drop lo).take n
      | none => List.replicate n (List.replicate ch 0))
    mask := b.rows.map (fun r => (List.range n).map (fun x => r.runs.any (fun q => q.lo ≤ lo + x && lo + x ≤ q.hi))) }

/-! ### Backdrop tracking (04 R133) -/

/-- One sample's step of the reference. -/
def trackRef (a : Nat) (ref : List (List ℚ)) (samples : List Pixel) (object : Nat → Bool) : List (List ℚ) :=
  if a = 0 then ref
  else (List.range ref.length).map (fun x =>
    let r := ref.getD x []
    if object x then r
    else (List.range r.length).map (fun i =>
      let b := r.getD i 0
      b + (((samples.getD x []).getD i 0 : ℚ) - b) / (2 ^ a : Nat)))

/-- A reference table as UQ12.4 entries. -/
def refBytes (ref : List (List ℚ)) : List Byte := ref.flatMap (fun r => r.flatMap (fun b => leBytes 2 (min max16 (roundN (16 * b)))))

/-! ### Features (04 R119, R120) -/

/-- The pixels of an object with their column and line within the box. -/
def boxPixels (m : ObjImage) : List (Nat × Nat × Pixel) :=
  (List.range m.mask.length).flatMap (fun y =>
    let row := m.rows.getD y []
    let mask := m.mask.getD y []
    ((List.range mask.length).filter (fun x => mask.getD x false)).map (fun x => (x, y, row.getD x [])))

/-- A feature as a 16-bit value: rounded to nearest (log entry 129), saturating at its limit (04 R119). -/
def sat16 (q : ℚ) : Nat := min max16 (roundN q)

/-- Sum over pixels of a rational. -/
def pixelSum (l : List (Nat × Nat × Pixel)) (f : Nat × Nat × Pixel → ℚ) : ℚ := sumQ (l.map f)

/-- A ratio scaled to a feature: what divides by nothing saturates, and nothing by nothing is the free value `u`. -/
def ratioFeature (a b scale : ℚ) (u : Nat) : Nat :=
  if b = 0 then (if a = 0 then u % 65536 else max16) else sat16 (scale * a / b)

/-- Elongation F03: the square root of the ratio of the second central moments, in 1/16. -/
def elongation (l : List (Nat × Nat × Pixel)) (u : Nat) : Nat :=
  let n : ℚ := l.length
  let mx := pixelSum l (fun p => (p.1 : ℚ)) / n
  let my := pixelSum l (fun p => (p.2.1 : ℚ)) / n
  let a := pixelSum l (fun p => ((p.1 : ℚ) - mx) * ((p.1 : ℚ) - mx)) / n
  let c := pixelSum l (fun p => ((p.2.1 : ℚ) - my) * ((p.2.1 : ℚ) - my)) / n
  let b := pixelSum l (fun p => ((p.1 : ℚ) - mx) * ((p.2.1 : ℚ) - my)) / n
  let root := sqrtQ ((a - c) * (a - c) / 4 + b * b)
  let major := (a + c) / 2 + root
  let minor := (a + c) / 2 - root
  if a * c - b * b ≤ 0 ∨ minor ≤ 0 then (if major ≤ 0 then u % 65536 else max16) else sat16 (16 * sqrtQ (major / minor))

/-- Colour category of a pixel in a bank's LUT (04 R120). -/
def category (image : List Byte) (p : Pixel) : Nat :=
  let i := fun k => bits (p.getD k 0) 11 6
  field image (0x400 + i 0 * 4096 + i 1 * 64 + i 2) 1 % 16

/-- Bin of a value among seven edges. -/
def binOf (edge : Nat → Nat) (v : Nat) : Nat := ((List.range 7).filter (fun k => edge k ≤ v)).length

/-- The 64 features of an object (04 R119). `free` gives the value of a feature that divides nothing by nothing. -/
def features (edges : Context) (image : List Byte) (free : Nat → Nat) (m : ObjImage) : List Nat :=
  let l := boxPixels m
  let n := l.length
  let mono := ((l.head?.map (fun p => p.2.2.length)).getD 1) ≤ 1
  let len := m.mask.length
  let wid := (m.mask.headD []).length
  let mean : Nat → ℚ := fun c => pixelSum l (fun p => (p.2.2.getD c 0 : ℚ)) / n
  let dev : Nat → ℚ := fun c =>
    let a := mean c
    sqrtQ (pixelSum l (fun p => ((p.2.2.getD c 0 : ℚ) - a) * ((p.2.2.getD c 0 : ℚ) - a)) / n)
  let on : Nat → Bool := fun c => c == 0 || !mono
  let nir := mean 3
  [min max16 n, min max16 len, min max16 wid, elongation l (free 3), sat16 (65536 * (n : ℚ) / (len * wid : Nat))]
  ++ [0, 1, 2, 3].map (fun c => if on c then sat16 (mean c) else 0)
  ++ [0, 1, 2, 3].map (fun c => if on c then sat16 (dev c) else 0)
  ++ [0, 1, 2, 3].flatMap (fun c => (List.range 8).map (fun k =>
      if on c then sat16 (65536 * ((l.filter (fun p => binOf (edges.edge c) (p.2.2.getD c 0) == k)).length : ℚ) / n) else 0))
  ++ (List.range 3).map (fun c => if mono then 0 else ratioFeature nir (mean c) 256 (free (45 + c)))
  ++ [if mono then 0
      else if nir + mean 0 = 0 then free 48 % 65536
      else unsignedOf 2 (clampI (-32768) 32767 (roundQ (32768 * (nir - mean 0) / (nir + mean 0))))]
  ++ (List.range 15).map (fun k => min max16 (l.filter (fun p => category image p.2.2 == k + 1)).length)

/-! ### Trees (04 R121, R122) -/

/-- Word `i` of tree `t`. -/
def treeWord (image : List Byte) (t i : Nat) : Nat := field image (0x40400 + t * 0x800 + 4 * i) 4

/-- The comparison of a node: F48 and its threshold are signed. -/
def nodeLeft (fs : List Nat) (w : Nat) : Bool :=
  let f := bits w 29 24
  let v := fs.getD f 0
  let t := bits w 15 0
  if f = 48 then signedOf 2 v < signedOf 2 t else v < t

/-- The walk from a node; `fuel` is the depth left. The leaf's class and weight. -/
def walkTree (image : List Byte) (fs : List Nat) (t : Nat) : Nat → Nat → Nat × Nat
  | 0, _ => (0, 0)
  | n + 1, i =>
    let w := treeWord image t i
    if bitOf w 31 then (bits w 19 16, bits w 15 0)
    else walkTree image fs t n (if nodeLeft fs w then 2 * i + 1 else 2 * i + 2)

def treeCount (image : List Byte) : Nat := field image 2 2
def modelId (image : List Byte) : Nat := field image 4 4

/-- The verdict: class, confidence, margin (04 R122). -/
def verdictOf (scores : List Nat) : Nat × Nat × Nat :=
  let total := sumN scores
  let best := (List.range 16).foldl (fun b k => if scores.getD b 0 < scores.getD k 0 then k else b) 0
  let s1 := scores.getD best 0
  let s2 := ((List.range 16).filter (· != best)).foldl (fun m k => max m (scores.getD k 0)) 0
  if total = 0 then (0, 0, 0) else (best, min 255 (256 * s1 / total), min 255 (256 * (s1 - s2) / total))

/-- Stage 8 over every tree of a bank. -/
def classify (image : List Byte) (fs : List Nat) : Nat × Nat × Nat :=
  verdictOf ((List.range (treeCount image)).foldl (fun sc t =>
    let r := walkTree image fs t 9 0
    sc.modify r.1 (· + r.2)) (List.replicate 16 0))

/-! ### Bank images (04 R124, R125) -/

/-- Every walk from node `i` ends in a leaf within the depth left. -/
def walksEnd (image : List Byte) (t : Nat) : Nat → Nat → Bool
  | 0, _ => false
  | n + 1, i =>
    bitOf (treeWord image t i) 31 || (walksEnd image t n (2 * i + 1) && walksEnd image t n (2 * i + 2))

/-- The reserved bits of a tree word are zero. -/
def treeWordClean (w : Nat) : Bool :=
  !bitOf w 30 && bits w 23 20 == 0 && (if bitOf w 31 then bits w 29 24 == 0 else bits w 19 16 == 0)

def allZero (l : List Byte) : Bool := l.all (· == 0#8)

/-- The image is valid (04 R125). -/
def bankValid (d : List Byte) : Bool :=
  let n := treeCount d
  field d 0 2 == 1 && 1 ≤ n && n ≤ 256
  && d.length == 0x40400 + n * 0x800 && field d 8 4 == d.length && field d 0xC 4 == crc32 (d.drop 0x40)
  && allZero (slice d 0x10 48) && allZero (slice d 0x240 448)
  && (List.range 16).all (fun k =>
      field d (0x40 + 32 * k + 0x18) 1 ≤ 1 && allZero (slice d (0x40 + 32 * k + 0x1A) 6))
  && (slice d 0x400 0x40000).all (fun b => b.toNat < 16)
  && (List.range n).all (fun t =>
      treeWord d t 511 == 0 && (List.range 511).all (fun i => treeWordClean (treeWord d t i)) && walksEnd d t 9 0)

/-! ### Frame statistics (04 R135) -/

/-- The frame record as it travels (03 R80). -/
def FrameRecord.toBytes (r : FrameRecord) : List Byte :=
  leBytes 4 r.number ++ leBytes 1 r.port ++ leBytes 1 r.span ++ leBytes 2 r.flags ++ leBytes 2 r.height ++ leBytes 2 r.missing
  ++ leBytes 2 r.short ++ leBytes 2 0 ++ leBytes 4 r.generation ++ leBytes 4 0 ++ leBytes 8 r.firstIndex
  ++ leBytes 8 r.firstTime ++ leBytes 8 r.lastTime

/-- Valid columns of a received line. -/
def validCols (l : ProcLine) : List Nat := (List.range l.s2.length).filter (fun x => !l.line.padded.contains x)

/-- Mean of samples after flat-field over columns, in 1/16 native LSB. -/
def blockMean (bits_ : Nat) (vs : List Nat) (none_ : Nat) : Nat :=
  if vs.isEmpty then none_
  else min max16 (roundN ((16 * sumN vs : Nat) / ((vs.length * 2 ^ (12 - bits_) : Nat) : ℚ)))

/-- Coverage of channel 0, UQ0.16: object pixels over valid samples. -/
def coverageOf (lines : List ProcLine) : Nat × Nat :=
  let valid := sumN (lines.map (fun l => (validCols l).length))
  let objs := sumN (lines.map (fun l => (l.mask.filter id).length))
  (if valid = 0 then 0 else min max16 (roundDiv (objs * 65536) valid), valid)

/-- The statistics record of a frame (04 R135): 6,400 bytes. -/
def statsRecord (seq version : Nat) (rec : FrameRecord) (objects bank ch bits_ width : Nat) (lines : List ProcLine) :
    List Byte :=
  let lines := lines.filter (fun l => !l.line.missing)
  let cov := coverageOf lines
  let full := 2 ^ bits_ - 1
  let saturated := sumN (lines.map (fun l => sumN ((validCols l).map (fun x =>
    ((l.line.pixels.getD x []).filter (fun v => full ≤ v)).length))))
  let values : Nat → (ProcLine → Nat → Bool) → List Nat := fun c keep =>
    lines.flatMap (fun l => ((validCols l).filter (fun x => keep l x)).map (fun x => (l.s2.getD x []).getD c 0))
  let hist : List Byte := (List.range 4).flatMap (fun c =>
    if ch ≤ c then List.replicate 1024 0#8
    else
      let vs := values c (fun _ _ => true)
      (List.range 256).flatMap (fun b => leBytes 4 (vs.filter (fun v => v / 16 == b)).length))
  let blocks : Bool → List Byte := fun backdrop => (List.range 4).flatMap (fun c => (List.range 128).flatMap (fun b =>
    if ch ≤ c ∨ width ≤ 64 * b then leBytes 2 0
    else leBytes 2 (blockMean bits_ (values c (fun l x => x / 64 == b && (!backdrop || !l.mask.getD x false)))
      (if backdrop then 0xFFFF else 0))))
  leBytes 4 seq ++ leBytes 4 version ++ rec.toBytes ++ leBytes 4 objects ++ leBytes 2 cov.1 ++ leBytes 1 bank ++ leBytes 1 0
  ++ leBytes 4 saturated ++ leBytes 4 (ch * cov.2) ++ List.replicate 56 0#8 ++ hist ++ blocks false ++ blocks true
  ++ leBytes 4 seq ++ List.replicate 124 0#8

end Sys2Proof.Machine
end

