-- ==== Sys2Proof/Machine/DriveOps.lean ====
section
/-!
DEFINITION. Shared operations of the ejector drive and the valve sequencers: valves and groups (00 R8), stores and words
(07 R215, R228), boost slots (06 R178, R186), aborts (07 R226), fire requests (06 R181 to R185, R199, R200), lead times
(06 R188), and the ledger's hooks on shots and kinks (08 R242, R246).
-/
namespace Sys2Proof.Machine

/-! ### Layout -/

/-- Groups of the variant, and the stride of a group's valves (00 R2, R8). -/
def State.stride (s : State) : Nat :=
  match s.variant with
  | .aeh2564 => 32
  | .aeh1282 => 16

/-- Valves fitted (00 R2). -/
def State.valveCount (s : State) : Nat :=
  match s.variant with
  | .aeh2564 => 256
  | .aeh1282 => 128

/-- The group of a valve (00 R8). -/
def State.groupOf (s : State) (v : Nat) : Nat := v % s.stride

/-- The eight valves of a group. -/
def State.groupValves (s : State) (g : Nat) : List Nat := (List.range 8).map (fun i => g + i * s.stride)

/-- The key of a per-valve object with base `index` (14 R390). -/
def valveKey (index v : Nat) : Nat := obj (index + v / 128) (v % 128 + 1)

/-- The key of a per-group object. -/
def groupKey (index g : Nat) : Nat := obj index (g + 1)

def State.valve (s : State) (v : Nat) : ValveSt := s.drive.valves.getD v {}
def State.setValve (s : State) (v : Nat) (x : ValveSt) : State :=
  { s with drive := { s.drive with valves := s.drive.valves.set v x } }
def State.group (s : State) (g : Nat) : GroupSt := s.drive.groups.getD g {}
def State.setGroup (s : State) (g : Nat) (x : GroupSt) : State :=
  { s with drive := { s.drive with groups := s.drive.groups.set g x } }
def State.seq (s : State) (v : Nat) : Seq := s.seqs.seqs.getD v {}
def State.setSeq (s : State) (v : Nat) (x : Seq) : State :=
  { s with seqs := { s.seqs with seqs := s.seqs.seqs.set v x } }
def State.store (s : State) (g : Nat) : GroupStore := s.seqs.stores.getD g {}
def State.setStore (s : State) (g : Nat) (x : GroupStore) : State :=
  { s with seqs := { s.seqs with stores := s.seqs.stores.set g x } }
def State.ledgerValve (s : State) (v : Nat) : LedgerValve := s.ledger.data.valves.getD v {}
def State.setLedgerValve (s : State) (v : Nat) (x : LedgerValve) : State :=
  { s with ledger := { s.ledger with data := { s.ledger.data with valves := s.ledger.data.valves.set v x } } }

/-! ### VALVE_EN_OUT (06 R201, 19 R504) -/

/-- VALVE_EN_OUT repeats VALVE_EN_IN through a buffer fed from V_SB alone: without V_SB it is open. -/
def State.settleEnOut (s : State) : State :=
  let level := s.power.vsb && s.drive.enIn
  if s.pins.valveEnOut = level then s
  else { s with pins := { s.pins with valveEnOut := level } }.emit (.valveEnOut level)

/-! ### Words (07 R215, R228, R231) -/

/-- Profile 0 (07 R231). -/
def romWords : List Nat :=
  [0x10000096, 0x689C4000, 0x200FA03C, 0x2000001E, 0x40000001, 0x80000000, 0x70064258, 0xA0000000]

/-- A word of a store: ROM below 0x040, the image's words above, 0xFFFF_FFFF where nothing is written (07 R215, R228). -/
def SeqStore.word (st : SeqStore) (a : Nat) : Nat :=
  if a < 0x40 then romWords.getD a 0xFFFFFFFF
  else if st.image.length = 4096 ∧ a < 0x400 then field st.image (0x100 + 4 * (a - 0x40)) 4
  else 0xFFFFFFFF

/-- The directory entry of a profile: start address and length (07 R228, R229). -/
def SeqStore.entry (st : SeqStore) (p : Nat) : Nat × Nat :=
  if p = 0 then (0, 8)
  else if st.image.length = 4096 then
    let e := field st.image (0x40 + 4 * p) 4
    (bits e 9 0, bits e 25 16)
  else (0, 0)

/-- A decoded word (07 R215). -/
inductive SeqWord where
  | nop
  | boost (level : Nat)
  | hold (duration level : Nat)
  | seti (level : Nat)
  | decay (fast : Bool)
  | wait (n : Nat)
  | waiti (cond : Nat) (continues : Bool) (timeout threshold : Nat)
  | mark (delay length : Nat)
  | off
  | loop (count distance : Nat)
  | fin
  | illegal
  deriving DecidableEq, Repr

/-- The table of 07 R215: a word that breaks any entry is illegal. -/
def SeqWord.ofNat (w : Nat) : SeqWord :=
  match bits w 31 28 with
  | 0x0 => if bits w 27 0 = 0 then .nop else .illegal
  | 0x1 => if bits w 27 8 = 0 ∧ bits w 7 0 ≠ 0 then .boost (bits w 7 0) else .illegal
  | 0x2 => if bits w 27 26 = 0 ∧ bits w 7 0 ≠ 0 then .hold (bits w 25 8) (bits w 7 0) else .illegal
  | 0x3 => if bits w 27 8 = 0 then .seti (bits w 7 0) else .illegal
  | 0x4 => if bits w 27 1 = 0 then .decay (bitOf w 0) else .illegal
  | 0x5 => if bits w 27 24 = 0 ∧ bits w 23 0 ≠ 0 then .wait (bits w 23 0) else .illegal
  | 0x6 =>
    let c := bits w 27 26
    if c = 3 ∨ bits w 24 8 = 0 ∨ (c = 2 ∧ (bitOf w 25 ∨ bits w 7 0 ≠ 0)) then .illegal
    else .waiti c (bitOf w 25) (bits w 24 8) (bits w 7 0)
  | 0x7 => if bits w 27 24 = 0 ∧ bits w 11 0 ≠ 0 then .mark (bits w 23 12) (bits w 11 0) else .illegal
  | 0x8 => if bits w 27 0 = 0 then .off else .illegal
  | 0x9 =>
    if bits w 27 16 = 0 ∧ bits w 15 8 ≠ 0 ∧ bits w 7 0 ≠ 0 then .loop (bits w 15 8) (bits w 7 0) else .illegal
  | 0xA => if bits w 27 0 = 0 then .fin else .illegal
  | _ => .illegal

/-- The word that a valve's sequencer fetches now. -/
def State.fetch (s : State) (v : Nat) : SeqWord := SeqWord.ofNat ((s.store (s.groupOf v)).active.word (s.seq v).pc)

/-- The fetch fails parity (07 R227); ROM never does. -/
def State.parityBad (s : State) (v : Nat) : Bool :=
  0x40 ≤ (s.seq v).pc && (s.store (s.groupOf v)).active.badParity.contains (s.seq v).pc

/-- The sequencer is about to issue: it runs and waits for nothing. -/
def Seq.ready (q : Seq) : Bool := q.running && q.busy == .none

/-! ### Time and steps -/

/-- The step boundary of a phase at or after a tick (02 R56): steps of four ticks counted from `phase`. -/
def stepAt (phase t : Nat) : Nat := if t ≤ phase then phase else phase + 4 * ceilDiv (t - phase) 4

/-! ### Temperatures and cuts -/

/-- The parameters in force, which a request takes at its arrival (06 R208). -/
def State.driveTerms (s : State) : DriveTerms :=
  { slots := s.nat (obj 0x2701 2), deferMax := s.nat (obj 0x2701 3), offMin := s.nat (obj 0x2701 4), minJet := s.nat (obj 0x2701 5)
    holdMin := s.nat (obj 0x2701 6), hysteresis := s.nat (obj 0x2701 7), exponent := s.nat (obj 0x2702 1)
    coupling := s.nat (obj 0x2702 2), kinkMin := s.nat (obj 0x2702 6), gate := s.nat (obj 0x2702 7), warn := s.nat (obj 0x2703 1)
    energy := s.nat (obj 0x2704 1) }

/-- The parameters of a valve's running shot, as they stood when its request arrived (06 R208). -/
def State.shotTerms (s : State) (v : Nat) : DriveTerms :=
  match (s.valve v).run with
  | some x => x.req.terms
  | none => s.driveTerms

/-- T_WARN and T_MAX of a valve, lowered by its offset (06 R196, R197; 08 R254). -/
def State.tWarn (s : State) (v : Nat) : ℚ := (s.nat (obj 0x2703 1) : ℚ) - (s.ledgerValve v).offset
def State.tMax (s : State) (v : Nat) : ℚ := (s.nat (obj 0x2703 2) : ℚ) - (s.ledgerValve v).offset

/-- The valve is hot (06 R196). -/
def State.hot (s : State) (v : Nat) : Bool := s.tWarn v < (s.valve v).thetaW

/-- The hold of a shot that starts now is cut, T_WARN being that of its request (06 R196 to R198, R208). -/
def State.cuts (s : State) (v : Nat) (x : Shot) : Bool :=
  ((x.req.terms.warn : ℚ) - (s.ledgerValve v).offset < (s.valve v).thetaW) || (s.valve v).skip || s.thermal.derated

/-- The shot end a shot keeps, with its hold cut where it is or will be (06 R184, R196). -/
def Shot.keptEnd (cut : Bool) (x : Shot) : Nat :=
  if cut then min x.shotEnd (max x.cutFrom (x.start + x.req.terms.holdMin * usTicks)) else x.shotEnd

/-- Cut the hold of a running shot from a tick on (06 R197, R198). -/
def Shot.cutHold (t : Nat) (x : Shot) : Shot := if x.holdCut then x else { x with holdCut := true, cutFrom := t }

/-! ### Ledger hooks -/

/-- A shot counted in 0x2724 counts in the lifetime count (08 R242). -/
def State.ledgerShot (s : State) (v : Nat) : State :=
  let e := s.ledgerValve v
  s.setLedgerValve v { e with shots := satAdd (2 ^ 64 - 1) 1 e.shots }

/-! ### VBST (06 R177) -/

/-- The set-point of VBST in mV with the ledger's offset, never above 72 V (06 R177, 08 R251). -/
def State.vbstSet (s : State) : Nat := min 72000 (s.nat (obj 0x2701 1) + s.ledger.data.vbstOffset)

/-- VBST now, in mV: it slews towards its set-point at 1 V per ms. -/
def State.vbstNow (s : State) : Nat :=
  let span := (s.clk - s.drive.vbstAt) / usTicks
  if !s.power.vbstOn then 0
  else if s.drive.vbst ≤ s.vbstSet then min s.vbstSet (s.drive.vbst + span) else max s.vbstSet (s.drive.vbst - span)

/-- Before its set-point changes: VBST as it stands; outside Sorting a write takes effect at once (06 R177). -/
def State.holdVbst (s : State) : State := { s with drive := { s.drive with vbst := s.vbstNow, vbstAt := s.clk } }

/-- The action of a write of 0x2701:01. -/
def actVbst (v : Nat) (s : State) : State × Nat :=
  let s := s.holdVbst.putNat (obj 0x2701 1) v
  if s.module.state = .sorting || !s.power.vbstOn then (s, 0)
  else ({ s with drive := { s.drive with vbst := s.vbstSet } }, 0)

/-! ### Boost slots -/

/-- The regulation level of a valve in hold, as a code (06 R178). -/
def State.holdLevel (s : State) (v : Nat) : Nat := if (s.seq v).mode = .hold then (s.seq v).level else 0

/-- The group current budget admits a boost of this target: 24 A are 600 codes (06 R178). -/
def State.budgetAdmits (s : State) (g target : Nat) : Bool :=
  sumN ((s.group g).slots.map (·.2)) + target + sumN ((s.groupValves g).map s.holdLevel) ≤ 600

/-- The limit of a shot's deferral in ticks: the smaller of tDEFER_MAX and the window limit (06 R187). A test shot has no object, and so
no window (log entry 36). -/
def Shot.deferLimit (x : Shot) : Int :=
  let most : Int := (x.req.terms.deferMax * usTicks : Nat)
  if x.req.origin = .test then most else min most ((x.shotEnd : Int) - x.req.ta - (x.req.terms.minJet * usTicks : Nat))

/-- The tick of a shot's gate edge: its start, on the phase of its own T (02 R56). -/
def Shot.edge (x : Shot) : Nat := stepAt x.req.sched x.start

/-- Placing the shot's edge would already exceed its deferral limit (06 R187). -/
def Shot.beyondLimit (x : Shot) : Bool := x.deferLimit < (x.edge : Int) - x.req.sched

/-- Grant a slot to a valve's request: the boost phase begins at the first step boundary at or after now
(06 R186, 07 R216). A first boost that did not begin at its own request, or whose start R184 moved, has waited; a start that was moved is
counted in the module's total already (R184, R187). -/
def State.grantOne (s : State) (g v target : Nat) : State :=
  let q := s.seq v
  let x := (s.valve v).run.getD {}
  let t := stepAt x.start s.tick
  let gs := s.group g
  let s := s.setGroup g { gs with
    slots := gs.slots ++ [(v, target)]
    waiting := gs.waiting.filter (fun w => w.2.1 != v)
    state := if gs.state = 1 then 0 else gs.state }
  let (first, asked, level) := match q.busy with | .boostWait f n l => (f, n, l) | _ => (false, t, target)
  let s := s.setSeq v { q with
    busy := .none, mode := .boost, level := min level 200, pc := q.pc + 1, issueAt := t + 4, boosted := true, boostAt := t, lowSide := true }
  if first then
    let d := t - x.req.sched
    let s := if x.moved then s.bump (groupKey 0x2706 g)
      else if asked < t then (s.bump (obj 0x2700 9)).bump (groupKey 0x2706 g) else s
    s.putNat (groupKey 0x2708 g) (max (s.nat (groupKey 0x2708 g)) (min 160000 d))
  else s

/-- Grant freed slots and budget in the order of the requests; a request that the budget does not admit holds back those
behind it (06 R186). -/
def State.grant : Nat → State → Nat → State
  | 0, s, _ => s
  | n + 1, s, g =>
    match (s.group g).waiting with
    | [] => s
    | (_, v, target) :: _ =>
      if (s.group g).slots.length < (s.shotTerms v).slots && s.budgetAdmits g target && (s.group g).state != 2 then
        State.grant n (s.grantOne g v target) g
      else s

/-- Requests are ordered by tick, then by valve (06 R186). -/
def insertRequest (r : Nat × Nat × Nat) : List (Nat × Nat × Nat) → List (Nat × Nat × Nat)
  | [] => [r]
  | x :: l => if r.1 < x.1 ∨ (r.1 = x.1 ∧ r.2.1 < x.2.1) then r :: x :: l else x :: insertRequest r l

/-- Freed slots and freed budget go to those that wait (06 R186). -/
def State.regrant (s : State) (v : Nat) : State := State.grant 8 s (s.groupOf v)

/-- Withdraw the slots that valves hold or request, without a grant: what frees them also ends every request that they would serve. -/
def State.withdraw (s : State) (vs : List Nat) : State :=
  vs.foldl (fun s v =>
    let g := s.groupOf v
    let gs := s.group g
    s.setGroup g { gs with
      slots := gs.slots.filter (fun w => w.1 != v), waiting := gs.waiting.filter (fun w => w.2.1 != v) }) s

/-- Give up a slot held or requested, and grant what it frees (06 R186). -/
def State.releaseSlot (s : State) (v : Nat) : State :=
  let g := s.groupOf v
  let gs := s.group g
  State.grant 8 (s.setGroup g { gs with
    slots := gs.slots.filter (fun w => w.1 != v), waiting := gs.waiting.filter (fun w => w.2.1 != v) }) g

/-! ### The shot budget (06 R199, R200) -/

/-- Capacity of the sustained bucket in E_ref; halved while Derated. -/
def State.bucketCap (s : State) : ℚ := if s.thermal.derated then 2200 else 4400

/-- The burst limit in E_ref. -/
def State.burstLimit (s : State) : ℚ := if s.thermal.derated then 320 else 640

/-- The bucket brought to now: refill by time, and its exhausted state. -/
def State.refill (s : State) : State :=
  let rate : ℚ := if s.thermal.derated then 10000 else 20000
  let add : ℚ := if s.drive.refillSuspended then 0 else rate * ((s.clk - s.drive.bucketAt : Nat) : ℚ) / secTicks
  let level := min s.bucketCap (s.drive.bucket + add)
  { s with drive := { s.drive with
    bucket := level, bucketAt := s.clk
    bucketEmpty := if s.drive.bucketEmpty then level < s.bucketCap / 10 else level ≤ 0
    burst := s.drive.burst.filter (fun e => s.clk < e.1 + 10 * msTicks) } }

/-- The burst budget is exhausted: the energy of the last 10 ms exceeds the limit. -/
def State.burstEmpty (s : State) : Bool := s.burstLimit < sumQ (s.drive.burst.map (·.2))

/-- Charge the energy of a valve's boost phase, in µJ, to both budgets (06 R199). -/
def State.charge (s : State) (v energy : Nat) : State :=
  let s := s.refill
  let e : ℚ := (energy : ℚ) / (max 1 (s.shotTerms v).energy : ℚ)
  let level := max 0 (s.drive.bucket - e)
  { s with drive := { s.drive with
    bucket := level
    bucketEmpty := s.drive.bucketEmpty || level ≤ 0
    burst := (s.clk, e) :: s.drive.burst } }

/-! ### The end of a drive -/

/-- Regulate at LVL from now on (06 R180, 07 R217): the valley is the peak minus the hysteresis, in mA. -/
def Seq.regulate (hysteresis : Nat) (q : Seq) : Seq := { q with mode := .hold, valley := 40 * q.level - hysteresis }

/-- What a reading of the current, a code at 40 mA, does to the low-side switch of a valve in hold: off at the peak, on at the
valley (06 R180). -/
def Seq.chop (reading : Nat) (q : Seq) : Seq :=
  if q.mode != .hold then q
  else { q with lowSide := if q.level ≤ reading then false else if 40 * reading ≤ q.valley then true else q.lowSide }

/-- A boost phase that runs ends without the reading that BOOST_PHASE_END brings: the power supervisor's measure of its energy is a free
value (06 R199). -/
def State.chargeBoost (s : State) (v : Nat) : State :=
  if (s.seq v).mode = .boost then
    let (n, s) := s.draw
    s.charge v (Config.boostEnergy n)
  else s

/-- Turn the low-side switch off (07 R222, R226): `t` is the tick of the step. -/
def State.lowSideOff (s : State) (v t : Nat) : State :=
  let s := s.chargeBoost v
  let q := s.seq v
  (s.setSeq v { q with mode := .off, lowSide := false, tOff := some t, busy := .none }).releaseSlot v

/-- The drive of a valve ends at once (07 R226): low-side off, fast decay, no window, no slot. The shot end that its shot keeps is now
(06 R184). -/
def State.stopDrive (s : State) (v : Nat) : State :=
  let s := s.chargeBoost v
  let x := s.valve v
  let s := s.setValve v { x with run := x.run.map (fun y => { y with shotEnd := min y.shotEnd s.tick }) }
  (s.setSeq v { s.seq v with
    running := false, mode := .off, lowSide := false, fast := true, window := none, busy := .none, holdEnded := true }).releaseSlot v

/-- An abort (07 R226) with its cause, and what the cause counts in (cause 4 counts as group saturation). A shot that is cancelled in its
boost wait has opened no valve: no later shot keeps an off-time from it. -/
def State.abortShot (s : State) (v cause : Nat) : State :=
  let s := s.stopDrive v
  let s := s.putNat (valveKey 0x2812 v) cause
  match cause with
  | 1 => s.bump (obj 0x2800 2)
  | 2 | 3 => s.bump (obj 0x2800 1)
  | 4 => s.setValve v { s.valve v with run := none }
  | _ => s.bump (obj 0x2800 5)

/-- Group saturation (06 R187, 07 R216): counted per module and group, event 0x6001. -/
def State.saturation (s : State) (v : Nat) : State :=
  ((s.bump (obj 0x2700 0x0A)).bump (groupKey 0x2707 (s.groupOf v))).raiseSlow 0x6001 v

/-- A valve whose queue is dropped. -/
def State.dropQueue (s : State) (v : Nat) : State :=
  let x := s.valve v
  let g := s.groupOf v
  let st := s.store g
  (s.setValve v { x with queue := [] }).setStore g { st with held := st.held.filter (· != v) }

/-- Valves with a running shot. -/
def State.runningValves (s : State) : List Nat := (List.range s.valveCount).filter (fun v => (s.seq v).running)

/-- End the running shots of some valves together with an abort of one cause (06 R201, R202, R205): the boosts that they request are
withdrawn first, so that none of them is granted. -/
def State.abortThese (s : State) (vs : List Nat) (cause : Nat) : State :=
  let vs := vs.filter (fun v => (s.seq v).running)
  vs.foldl (fun s v => s.abortShot v cause) (s.withdraw vs)

/-- End every running shot (06 R201, R205). -/
def State.abortAll (s : State) (cause : Nat) : State := s.abortThese s.runningValves cause

/-- Empty every fire queue (06 R205, 12 R340). -/
def State.dropQueues (s : State) : State :=
  { s with
    drive := { s.drive with valves := s.drive.valves.map (fun x => { x with queue := [] }) }
    seqs := { s.seqs with stores := s.seqs.stores.map (fun st => { st with held := [] }) } }

/-! ### Availability -/

/-- The valve is available (06 R183). -/
def State.available (s : State) (v : Nat) : Bool := v < s.valveCount && (s.valve v).avail == 0

/-! ### Fire requests (06 R181 to R185) -/

/-- Handling delay of the placer hand-over, 0 to 1,600 ticks (06 R182); free. -/
def handOver (n : Nat) : Nat := Config.handOver n % 1601

/-- Insert a shot by its start. -/
def insertShot (x : Shot) : List Shot → List Shot
  | [] => [x]
  | y :: l => if x.start < y.start then x :: y :: l else y :: insertShot x l

/-- Merge queued shots that start less than tOFF_MIN after the end of the shot before (06 R184): the number merged and
the queue. -/
def mergeQueue (endOf : Shot → Nat) : Nat → List Shot → Nat × List Shot
  | n + 1, x :: y :: l =>
    if (y.start : Int) - endOf x < (y.req.terms.offMin * usTicks : Nat) then
      let r := mergeQueue endOf n ({ x with shotEnd := max x.shotEnd y.shotEnd } :: l)
      (r.1 + 1, r.2)
    else
      let r := mergeQueue endOf n (y :: l)
      (r.1, x :: r.2)
  | _, l => (0, l)

/-- The latest shot, running or queued, that starts before `t` (06 R184); the Bool says that it runs. -/
def ValveSt.previous (x : ValveSt) (t : Nat) : Option (Shot × Bool) :=
  match (x.queue.filter (fun y => y.start < t)).getLast? with
  | some y => some (y, false)
  | none => (x.run.filter (fun y => y.start < t)).map (fun y => (y, true))

/-- The tick at which a running HOLD ends (07 R218): its duration, or the first step boundary at or after E; while the
hold is cut, no later than the boundary at or after the earlier of E and the gate edge + H_min. -/
def State.holdDue (s : State) (v : Nat) (timed : Option Nat) : Nat :=
  let q := s.seq v
  let x := (s.valve v).run.getD {}
  let cutAt := stepAt x.start (x.keptEnd true)
  match timed with
  | some t => if x.holdCut then min t cutAt else t
  | none => if x.holdCut then cutAt else max (q.issueAt + 4) (stepAt x.start x.shotEnd)

/-- At a tick the HOLD of duration 0 of the running shot has ended (07 R219): it has issued its successor, or the step in which it ends
has come. -/
def State.holdOver (s : State) (v t : Nat) : Bool :=
  (s.seq v).holdEnded ||
    match (s.seq v).busy with
    | .hold none => max (s.holdDue v none) ((s.seq v).issueAt + 4) ≤ t
    | _ => false

/-- After a merge or a queuing: tidy the queue of a valve (06 R184) at the tick at which the drive handles the request. -/
def State.tidyQueue (s : State) (v handled : Nat) : State :=
  let x := s.valve v
  let alone := mergeQueue (fun y => y.keptEnd (s.cuts v y)) 8 x.queue
  let queued := (s.setValve v { x with queue := alone.2 }).bumpBy (obj 0x2700 8) alone.1
  match x.run with
  | some r =>
    if s.holdOver v handled then queued
    else
      let m := mergeQueue (fun y => y.keptEnd (if y.start = r.start then r.holdCut else s.cuts v y)) 9 (r :: x.queue)
      (s.setValve v { x with run := m.2.head?, queue := m.2.tail }).bumpBy (obj 0x2700 8) m.1
  | none => queued

/-- Hand a shot to the queue and the placer at a start tick: the queue's length, the placer's second check (06 R182
point 3, R185; 02 R57). A test shot meets no merge (06 R206). -/
def State.queueShot (s : State) (r : Request) (start handled : Nat) (deferred : Bool) : State :=
  let v := r.valve
  let x := s.valve v
  if 8 ≤ x.queue.length then (s.bump (obj 0x2700 0x0E)).raiseSlow 0x600B v
  else if start < handled + 32 then s.bump (obj 0x2107 5)
  else
    let s := s.bump (obj 0x2700 6)
    let s := if deferred then s.bump (obj 0x2700 9) else s
    let s := s.setValve v { x with queue := insertShot { start := start, req := r, shotEnd := r.shotEnd, moved := deferred } x.queue }
    if r.origin = .test then s else s.tidyQueue v handled

/-- Test 7 (06 R184), at the tick at which the drive handles the request. -/
def State.test7 (s : State) (r : Request) (handled : Nat) : State :=
  let v := r.valve
  let x := s.valve v
  let toff := r.terms.offMin * usTicks
  match x.previous r.sched with
  | none => s.queueShot r r.sched handled false
  | some (p, isRun) =>
    let ep := p.keptEnd (if isRun then p.holdCut else s.cuts v p)
    if (toff : Int) ≤ (r.sched : Int) - ep then s.queueShot r r.sched handled false
    else if !(isRun && s.holdOver v handled) && !s.hot v && !s.thermal.derated then
      let up : Shot → Shot := fun y => if y.start = p.start then { y with shotEnd := max y.shotEnd r.shotEnd } else y
      let x := if isRun then { x with run := x.run.map up } else { x with queue := x.queue.map up }
      (((s.setValve v x).bump (obj 0x2700 6)).bump (obj 0x2700 8)).tidyQueue v handled
    else
      s.queueShot r (ep + toff) handled true

/-- Test 5: thermal skip (06 R197). -/
def State.skipCount (s : State) (v : Nat) : State := (s.bump (obj 0x2700 0x0C)).bump (valveKey 0x2726 v)

/-- A fire request at the drive (06 R182): arrival check of 02 R57, then tests 4 to 7 of 00 R22, with the parameters at its arrival
(06 R208). It is handled within 2 µs, before its hand-over. A request of a test shot is made in Idle and meets tests 4 and 5 alone of
these (06 R206). -/
def State.request (s : State) (r : Request) : State :=
  let s := s.bump (obj 0x2700 5)
  let v := r.valve
  let r := { r with terms := s.driveTerms }
  if r.sched < s.tick + 32 then s.bump (obj 0x2107 5)
  else if !s.drive.enIn || !s.drive.enSettled then s.bump (obj 0x2700 0x0F)
  else if s.drive.powerFail || !((s.drive.enabled && s.module.state == .sorting) || r.origin == .test) then s.bump (obj 0x2700 0x10)
  else if !s.available v then s.bump (obj 0x2700 0x11)
  else if (s.valve v).skip then s.skipCount v
  else
    let (n, s) := s.draw
    let handled := s.tick + handOver n
    let s := s.refill
    if r.origin = .test then s.queueShot r r.sched handled false
    else if (s.drive.bucketEmpty || s.burstEmpty) && r.conf ≤ s.nat (obj 0x2704 4) then (s.bump (obj 0x2700 0x0D)).raiseSlow 0x6004 v
    else s.test7 r handled

/-! ### Factory values of a valve (06 R192, R195, R202) -/

/-- λf in ns: of the calibration page, or 350 µs where its entry is invalid. -/
def State.factoryLatency (s : State) (v : Nat) : ℚ :=
  if (s.valve v).factoryBad then 350000 else (s.nat (valveKey 0x272A v) : ℚ)

/-- δf in ns. -/
def State.factoryDelay (s : State) (v : Nat) : ℚ :=
  if (s.valve v).factoryBad then 350000 else (s.nat (valveKey 0x272C v) : ℚ)

/-- r_c in Ω. -/
def State.coilOhms (s : State) (v : Nat) : ℚ :=
  if (s.valve v).factoryBad then 8 else (s.nat (valveKey 0x272E v) : ℚ) / 1000

/-! ### Lead time (06 R188) -/

/-- Gravity of the drop geometry, 0x2601:05, in m/s². -/
def State.gravity (s : State) : ℚ := (s.nat (obj 0x2601 5) : ℚ) / 1000000

/-- The fall speed at the valve bar in m/s: from the drop geometry 0x2601 (01 R19, 06 R188). -/
def State.vBar (s : State) : ℚ :=
  let vc : ℚ := (s.nat (obj 0x2601 1) : ℚ) / 1000
  let h : ℚ := ((s.nat (obj 0x2601 2) + s.nat (obj 0x2601 3) + s.nat (obj 0x2601 4) : Nat) : ℚ) / 1000000
  sqrtQ (vc * vc + 2 * s.gravity * h)

/-- L_k in ticks from λ_k in ns. -/
def State.leadOf (s : State) (lambda : ℚ) : Nat :=
  let tjet : ℚ := (s.nat (obj 0x2702 3) : ℚ) * 1000
  let dadv : ℚ := (s.nat (obj 0x2702 4) : ℚ) * 1000
  let vb := s.vBar
  roundN ((lambda + tjet + (if vb = 0 then 0 else dadv / vb)) * 4 / 5)

/-- Recompute the lead times of all valves (06 R188). -/
def State.releads (s : State) : State :=
  { s with drive := { s.drive with valves := s.drive.valves.map (fun x => { x with lead := s.leadOf x.lambda }) } }

end Sys2Proof.Machine
end

