-- ==== Sys2Proof/Machine/Sequencer.lean ====
section
/-!
DEFINITION. The valve sequencers (07): one meaning per instruction, what ends a wait, aborts, images and swaps.
An instruction command names the valve; the word comes from the active store at the sequencer's pc. A command whose
instruction is not the one the sequencer is about to issue is no event and changes nothing (log entry 1).
-/
namespace Sys2Proof.Machine

/-! ### Issuing -/

/-- The instruction that the sequencer of a valve issues next; none while it waits or is not running, and none where the
fetch fails parity. -/
def State.issuing (s : State) (v : Nat) : Option SeqWord :=
  if (s.seq v).ready && !s.parityBad v then some (s.fetch v) else none

/-- Time brought to the step in which the sequencer issues. -/
def State.atIssue (s : State) (v : Nat) : State := s.atTick (s.seq v).issueAt

/-- The next instruction issues at tick `t`. -/
def State.nextWord (s : State) (v t : Nat) : State :=
  let q := s.seq v
  s.setSeq v { q with pc := q.pc + 1, issueAt := t, busy := .none }

/-- The word takes one step. -/
def State.oneStep (s : State) (v : Nat) : State := s.nextWord v ((s.seq v).issueAt + 4)

/-- The word lasts: the sequencer waits. -/
def State.busySeq (s : State) (v : Nat) (b : SeqBusy) : State := s.setSeq v { s.seq v with busy := b }

/-- NOP (07 R214). -/
def execNop (v : Valve) (s : State) : Host.Outcome State Fault Refusal :=
  match s.issuing v with
  | some .nop => .next ((s.atIssue v).oneStep v)
  | _ => .next s

/-- BOOST (07 R216): request a slot (06 R186); the first BOOST of a shot sets LVL at once and carries no current while it waits. -/
def execBoost (v : Valve) (s : State) : Host.Outcome State Fault Refusal :=
  match s.issuing v with
  | some (.boost level) =>
    let s := s.atIssue v
    let q := s.seq v
    let g := s.groupOf v
    let gs := s.group g
    let target := min level 200
    let first := !q.boosted
    let s := s.setSeq v { q with
      busy := .boostWait first q.issueAt level, level := if first then target else q.level
      mode := if first then .off else q.mode, lowSide := q.lowSide && !first }
    let s := s.setGroup g { gs with waiting := insertRequest (q.issueAt, v, target) gs.waiting }
    .next (State.grant 8 s g)
  | _ => .next s

/-- The end of a boost phase (07 R216, 06 R186, R199): the peak comparator shows LVL at a tick; the slot is released, the
valve regulates, and the energy drawn, in µJ, is charged to both budgets. The rise time goes to the ledger (08 R251). A target that is
reached only after the timeout of the WAITI that waits for it ends no phase: the timeout came first (07 R221). -/
def execBoostPhaseEnd (v : Valve) (tick energy : Nat) (s : State) : Host.Outcome State Fault Refusal :=
  let late := match (s.seq v).busy with
    | .waiti 2 _ _ deadline => deadline < stepAt (s.seq v).issueAt (max tick s.tick) + 4
    | _ => false
  if (s.seq v).mode = .boost && !late then
    let s := s.atTick tick
    let q := s.seq v
    let g := s.groupOf v
    let gs := s.group g
    let s := s.setSeq v { q.regulate (s.shotTerms v).hysteresis with lowSide := false, boostEnd := s.tick }
    let s := s.setGroup g { gs with noRise := none }
    let x := s.valve v
    let s := s.setValve v { x with openFails := 0 }
    let d := s.ledger.data
    let s := { s with ledger := { s.ledger with data := { d with
      rise := d.rise.modify g (fun r => (r.1 + (s.tick - q.boostAt), r.2 + 1)) } } }
    .next ((s.charge v energy).releaseSlot v)
  else .next s

/-- A later BOOST has waited tDEFER_MAX: it issues its successor without a boost phase (07 R216). -/
def execBoostAbandon (v : Valve) (s : State) : Host.Outcome State Fault Refusal :=
  match (s.seq v).busy with
  | .boostWait false since _ =>
    let t := since + (s.shotTerms v).deferMax * usTicks
    let s := s.atTick t
    let s := (s.nextWord v (max (since + 4) (stepAt since t))).releaseSlot v
    .next (s.saturation v)
  | _ => .next s

/-- HOLD (07 R218): LVL takes the level and the valve regulates; coming from no drive it is below the valley, so its low-side switch turns
on. A boost phase still running ends. The budget that a lower level frees goes to those that wait (06 R186). -/
def execHold (v : Valve) (s : State) : Host.Outcome State Fault Refusal :=
  match s.issuing v with
  | some (.hold d level) =>
    let s := (s.atIssue v).chargeBoost v
    let q := s.seq v
    let s := s.setSeq v (Seq.regulate (s.shotTerms v).hysteresis { q with
      level := level, lowSide := q.lowSide || q.mode == .off, busy := .hold (if d = 0 then none else some (q.issueAt + 4 * d)) })
    .next (if q.mode = .boost then s.releaseSlot v else s.regrant v)
  | _ => .next s

/-- A HOLD ends and issues the next instruction (07 R218, R219). -/
def execHoldEnd (v : Valve) (s : State) : Host.Outcome State Fault Refusal :=
  match (s.seq v).busy with
  | .hold timed =>
    let due := max (s.holdDue v timed) ((s.seq v).issueAt + 4)
    let s := s.atTick due
    let x := (s.valve v).run.getD {}
    let s := s.nextWord v (max due (stepAt x.start s.tick))
    let q := s.seq v
    .next (if timed.isNone then s.setSeq v { q with holdEnded := true } else s)
  | _ => .next s

/-- SETI (07 R217): LVL, and with it the boost target (clamped, 06 R178) or the regulation level with its valley. -/
def execSeti (v : Valve) (s : State) : Host.Outcome State Fault Refusal :=
  match s.issuing v with
  | some (.seti level) =>
    let s := s.atIssue v
    let q := s.seq v
    let level := if q.mode = .boost then min level 200 else level
    let q := { q with level := level }
    let s := s.setSeq v (if q.mode = .hold then q.regulate (s.shotTerms v).hysteresis else q)
    let g := s.groupOf v
    let gs := s.group g
    let s := s.setGroup g { gs with slots := gs.slots.map (fun w => if w.1 = v.val then (w.1, level) else w) }
    .next ((s.oneStep v).regrant v)
  | _ => .next s

/-- DECAY (07 R220). -/
def execDecay (v : Valve) (s : State) : Host.Outcome State Fault Refusal :=
  match s.issuing v with
  | some (.decay fast) =>
    let s := s.atIssue v
    .next ((s.setSeq v { s.seq v with fast := fast }).oneStep v)
  | _ => .next s

/-- WAIT (07 R214). -/
def execWait (v : Valve) (s : State) : Host.Outcome State Fault Refusal :=
  match s.issuing v with
  | some (.wait n) =>
    let s := s.atIssue v
    .next (s.busySeq v (.wait ((s.seq v).issueAt + 4 * n)))
  | _ => .next s

/-- The end of a WAIT (07 R214). -/
def execWaitExpiry (v : Valve) (s : State) : Host.Outcome State Fault Refusal :=
  match (s.seq v).busy with
  | .wait t => .next ((s.atTick t).nextWord v t)
  | _ => .next s

/-- WAITI (07 R221). Condition 2 with no boost phase running holds at once: the next instruction issues in the next step. -/
def execWaiti (v : Valve) (s : State) : Host.Outcome State Fault Refusal :=
  match s.issuing v with
  | some (.waiti c cont timeout thr) =>
    let s := s.atIssue v
    .next (
      if c = 2 && (s.seq v).mode != .boost then s.oneStep v
      else s.busySeq v (.waiti c thr cont ((s.seq v).issueAt + 4 * timeout)))
  | _ => .next s

/-- The condition of a WAITI for a current reading, a code at 40 mA (07 R221). -/
def waitiHolds (cond thr reading : Nat) (mode : SeqMode) : Bool :=
  match cond with
  | 0 => thr ≤ reading
  | 1 => reading ≤ thr
  | _ => mode != .boost

/-- A WAITI whose condition holds at a tick ends in the step after, if its timeout does not expire first (07 R221). The condition 2 holds
from the end of the boost phase. -/
def execWaitiConditionMet (v : Valve) (tick reading : Nat) (s : State) : Host.Outcome State Fault Refusal :=
  match (s.seq v).busy with
  | .waiti c thr _ deadline =>
    let q := s.seq v
    let t := stepAt q.issueAt (if c = 2 then q.boostEnd else max tick s.tick)
    if waitiHolds c thr reading q.mode && t + 4 ≤ deadline then
      let s := (s.atTick t).setSeq v (q.chop reading)
      .next (s.nextWord v (t + 4))
    else .next s
  | _ => .next s

/-- Mark a valve unavailable (06 R183, R202). -/
def State.setAvail (s : State) (v a : Nat) : State := s.setValve v { s.valve v with avail := a }

/-- The group switch is lost (06 R202): its valves take state 2. -/
def State.loseGroup (s : State) (g : Nat) : State :=
  let s := s.setGroup g { s.group g with state := 2, noRise := none, trips := [] }
  ((s.groupValves g).foldl (fun s v => s.setAvail v 2) s).raise 0x6008 g

/-- VBST is in regulation: within ±2 % of its effective set-point (11 R313). -/
def State.vbstOk (s : State) : Bool := 50 * ((s.vbstNow : Int) - s.vbstSet).natAbs ≤ s.vbstSet

/-- The coil-open test (06 R202): a boost that missed its target with VBST in regulation is one of three. -/
def State.coilOpenTest (s : State) (v : Nat) : State :=
  if s.vbstOk then
    let x := s.valve v
    let s := s.setValve v { x with openFails := x.openFails + 1 }
    if x.openFails + 1 = 3 then (s.setAvail v 4).raise 0x6009 v else s
  else s

/-- The lost-switch test (06 R202): no current rise on two different valves of the group in succession. -/
def State.lostSwitchTest (s : State) (v reading : Nat) : State :=
  let g := s.groupOf v
  let gs := s.group g
  if reading ≠ 0 then s.setGroup g { gs with noRise := none }
  else
    match gs.noRise with
    | some u => if u = v then s else s.loseGroup g
    | none => s.setGroup g { gs with noRise := some v }

/-- A boost that missed its target: the coil-open and the lost-switch tests of 06 R202. -/
def State.boostMissed (s : State) (v reading : Nat) : State := (s.coilOpenTest v).lostSwitchTest v reading

/-- A WAITI timeout (07 R221): continue, or abort with cause 1; a condition-2 timeout is one of the shots of the coil-open
test, and none comes once the boost phase has ended. `reading` is the current then, a code at 40 mA. -/
def execWaitiTimeout (v : Valve) (reading : Nat) (s : State) : Host.Outcome State Fault Refusal :=
  match (s.seq v).busy with
  | .waiti c _ cont deadline =>
    if c = 2 && (s.seq v).mode != .boost then .next s
    else
    let s := s.atTick deadline
    if cont && c ≠ 2 then
      .next (((s.setSeq v ((s.seq v).chop reading)).bump (obj 0x2800 3)).nextWord v deadline)
    else
      let s := (s.abortShot v 1).raiseSlow 0x7002 v
      .next (if c = 2 then s.boostMissed v reading else s)
  | _ => .next s

/-- MARK (07 R223): the window opens at this step plus the delay. -/
def execMark (v : Valve) (s : State) : Host.Outcome State Fault Refusal :=
  match s.issuing v with
  | some (.mark d n) =>
    let s := s.atIssue v
    let q := s.seq v
    let o := q.issueAt + d * usTicks
    .next ((s.setSeq v { q with window := some { opens := o, closes := o + n * usTicks } }).oneStep v)
  | _ => .next s

/-- OFF (07 R222). -/
def execOff (v : Valve) (s : State) : Host.Outcome State Fault Refusal :=
  match s.issuing v with
  | some .off =>
    let s := s.atIssue v
    .next ((s.lowSideOff v (s.seq v).issueAt).oneStep v)
  | _ => .next s

/-- LOOP (07 R224). -/
def execLoop (v : Valve) (s : State) : Host.Outcome State Fault Refusal :=
  match s.issuing v with
  | some (.loop c b) =>
    let s := s.atIssue v
    let q := s.seq v
    let n := match q.loopCtr with | none => c | some k => k - 1
    .next (
      if n = 0 then (s.setSeq v { q with loopCtr := none }).oneStep v
      else s.setSeq v { q with loopCtr := some n, pc := q.pc - b, issueAt := q.issueAt + 4 })
  | _ => .next s

/-- END (07 R225): as OFF first where the low-side switch is still on. -/
def execProfileEnd (v : Valve) (s : State) : Host.Outcome State Fault Refusal :=
  match s.issuing v with
  | some .fin =>
    let s := s.atIssue v
    let s := if (s.seq v).mode = .off then s else s.lowSideOff v (s.seq v).issueAt
    .next (s.setSeq v { s.seq v with running := false, busy := .none, holdEnded := true })
  | _ => .next s

/-- A word that is illegal or fails parity at fetch (07 R227). ROM has no parity, and
the word stays bad until its store is written. -/
def execIllegalWord (word : FetchedWord) (s : State) : Host.Outcome State Fault Refusal :=
  let q := s.seq word.valve
  let g := s.groupOf word.valve
  let st := s.store g
  let s := if word.parity && q.ready && 0x40 ≤ q.pc && !s.parityBad word.valve then
    s.setStore g { st with active := { st.active with badParity := q.pc :: st.active.badParity } } else s
  if (s.seq word.valve).ready && (s.parityBad word.valve || s.fetch word.valve == .illegal) then
    let s := s.atIssue word.valve
    let s := s.abortShot word.valve (if s.parityBad word.valve then 3 else 2)
    let s := s.keep (valveKey 0x2810 word.valve) 0
    .next ((s.raise 0x7001 word.valve).raise 0x7008 word.valve)
  else .next s

/-- The sequencer becomes idle (07 R212): END or abort executed, current below 40 mA at a tick, window closed. -/
def execSequencerIdle (v : Valve) (tick : Nat) (s : State) : Host.Outcome State Fault Refusal :=
  let q := s.seq v
  if !q.running && !q.idle && q.window.isNone then
    let s := s.atTick tick
    .next ((s.setSeq v { q with idle := true }).setValve v { s.valve v with run := none })
  else .next s

/-! ### Images (07 R229, R230) -/

/-- The words of a profile. -/
def imageWords (img : List Byte) (start len : Nat) : List SeqWord :=
  (List.range len).map (fun i => SeqWord.ofNat (field img (0x100 + 4 * (start + i - 0x40)) 4))

/-- Bodies of the loops of a profile, as index ranges from the target up to the LOOP. -/
def loopBodies : Nat → List SeqWord → List (Int × Nat)
  | _, [] => []
  | i, .loop _ b :: r => ((i : Int) - b, i) :: loopBodies (i + 1) r
  | i, _ :: r => loopBodies (i + 1) r

/-- The indexes at which a word of a kind stands. -/
def wordsAt (p : SeqWord → Bool) : Nat → List SeqWord → List Nat
  | _, [] => []
  | i, w :: r => if p w then i :: wordsAt p (i + 1) r else wordsAt p (i + 1) r

def SeqWord.isFin : SeqWord → Bool
  | .fin => true
  | _ => false
def SeqWord.isOff : SeqWord → Bool
  | .off => true
  | _ => false
def SeqWord.isHoldEnd : SeqWord → Bool
  | .hold 0 _ => true
  | _ => false
def SeqWord.isMark : SeqWord → Bool
  | .mark _ _ => true
  | _ => false
def SeqWord.isLoop : SeqWord → Bool
  | .loop _ _ => true
  | _ => false
def SeqWord.isWait2 : SeqWord → Bool
  | .waiti 2 _ _ _ => true
  | _ => false

/-- Every BOOST is followed directly by a WAITI with condition 2. -/
def boostsFollowed : List SeqWord → Bool
  | [] => true
  | .boost _ :: w :: r => w.isWait2 && boostsFollowed (w :: r)
  | [.boost _] => false
  | _ :: r => boostsFollowed r

/-- The structure rules of cause 7 (07 R230). -/
def structureOk (p : List SeqWord) : Bool :=
  let bodies := loopBodies 0 p
  let inBody : Nat → Bool := fun i => bodies.any (fun b => b.1 ≤ (i : Int) && i < b.2)
  let offs := wordsAt SeqWord.isOff 0 p
  let holds := wordsAt SeqWord.isHoldEnd 0 p
  let marks := wordsAt SeqWord.isMark 0 p
  wordsAt SeqWord.isFin 0 p == [p.length - 1]
    && offs.length == 1 && holds.length == 1 && !offs.any inBody && !holds.any inBody
    && boostsFollowed p
    && marks.length ≤ 1 && marks.all (fun m => !inBody m && offs.all (fun o => o < m))
    && bodies.all (fun b => 0 ≤ b.1)
    && !(wordsAt SeqWord.isLoop 0 p).any inBody

/-- The present profiles of 1 to 15 in an image: start and length. -/
def presentProfiles (img : List Byte) : List (Nat × Nat) :=
  ((List.range 15).map (fun i =>
    let e := field img (0x40 + 4 * (i + 1)) 4
    (bits e 9 0, bits e 25 16))).filter (fun e => e.2 ≠ 0)

/-- No two ranges overlap. -/
def disjointRanges : List (Nat × Nat) → Bool
  | [] => true
  | e :: r => r.all (fun f => e.1 + e.2 ≤ f.1 || f.1 + f.2 ≤ e.1) && disjointRanges r

/-- All bytes of a range are zero. -/
def zeroBytes (d : List Byte) (off len : Nat) : Bool := (slice d off len).all (fun b => b == 0#8)

/-- The first failing check of 07 R230, 0 if every check passes. -/
def imageCause (img : List Byte) : Nat :=
  let ps := presentProfiles img
  if img.length ≠ 4096 ∨ field img 8 4 ≠ 0x1000 then 1
  else if crc32 (img.drop 0x40) ≠ field img 0xC 4 then 2
  else if !sealRight img then 3
  else if field img 0 2 ≠ 1 ∨ field img 2 2 ≠ ps.length ∨ !zeroBytes img 0x20 32 ∨ !zeroBytes img 0x80 128
      ∨ !(List.range 16).all (fun i => let e := field img (0x40 + 4 * i) 4; bits e 31 26 == 0 && bits e 15 10 == 0) then 4
  else if field img 0x40 4 ≠ 0x00080000 ∨ !ps.all (fun e => 0x40 ≤ e.1 && e.1 + e.2 ≤ 0x400) ∨ !disjointRanges ps then 5
  else if !ps.all (fun e => (imageWords img e.1 e.2).all (fun w => w != .illegal)) then 6
  else if !ps.all (fun e => structureOk (imageWords img e.1 e.2)) then 7
  else 0

/-- Abort code of a refused image (07 R230): a length mismatch, or any other failure. -/
def imageAbort (img : List Byte) : Nat := if img.length ≠ 4096 ∨ field img 8 4 ≠ 0x1000 then abortLength else abortData

/-- A refused image: its cause in 0x2807, counted, event 0x7004 (07 R230). -/
def State.refuseImage (s : State) (g cause : Nat) : State :=
  ((s.keep (groupKey 0x2807 g) cause).bump (obj 0x2800 9)).raise 0x7004 g

/-- The action of a write to 0x2801 (07 R230, R234). -/
def actShadowImage (g : Nat) (img : List Byte) (s : State) : State × Nat :=
  let st := s.store g
  if st.swapAt.isSome then (s, abortState)
  else if imageCause img ≠ 0 then (s.refuseImage g (imageCause img), imageAbort img)
  else ((s.setStore g { st with shadow := { image := img, valid := true } }).raise 0x7003 g, 0)

/-- SHADOW_IMAGE_WRITE (07 R230). -/
def execShadowImageWrite (m : Master) (g : Group) (image : List Byte) (s : State) : Host.Outcome State Fault Refusal :=
  .next (s.write m (groupKey 0x2801 g) (.bytes image) (actShadowImage g image))

/-- Groups fitted (00 R2). -/
def State.groupList (s : State) : List Nat := List.range s.stride

/-- The action of a write to 0x2808:01: accepted or refused for every group as a whole (07 R237, R238). -/
def actImageAll (img : List Byte) (s : State) : State × Nat :=
  if img.length = 4096 && s.groupList.any (fun g => (s.store g).swapAt.isSome) then (s, abortState)
  else if imageCause img ≠ 0 then
    let s := s.groupList.foldl (fun s g => s.keep (groupKey 0x2807 g) (imageCause img)) s
    ((s.bump (obj 0x2800 9)).raise 0x7004 0xFF, imageAbort img)
  else (s.groupList.foldl (fun s g => (actShadowImage g img s).1) s, 0)

/-- IMAGE_ALL_GROUPS (07 R238). -/
def execImageAllGroups (m : Master) (image : List Byte) (s : State) : Host.Outcome State Fault Refusal :=
  .next (s.write m (obj 0x2808 1) (.bytes image) (actImageAll image))

/-! ### Swaps (07 R233 to R235) -/

/-- The profile a valve selects. -/
def State.profileOf (s : State) (v : Nat) : Nat := s.nat (valveKey 0x2810 v)

/-- Every valve of the group is idle. -/
def State.groupIdle (s : State) (g : Nat) : Bool := (s.groupValves g).all (fun v => (s.seq v).idle)

/-- A queued shot of the group, not held, has its gate edge within four ticks from `t`. -/
def State.edgeWithin (s : State) (g t : Nat) : Bool :=
  (s.groupValves g).any (fun v =>
    (s.valve v).queue.any (fun x => t ≤ x.edge && x.edge < t + 4 && !(s.store g).held.contains v))

/-- Release the held shots: they start at the next step, each on its own phase (07 R233). -/
def State.releaseHeld (s : State) (g : Nat) : State :=
  let st := s.store g
  let s := st.held.foldl (fun s v =>
    let x := s.valve v
    match x.queue with
    | [] => s
    | h :: r => s.setValve v { x with queue := { h with start := stepAt h.req.sched (s.tick + 4) } :: r }) s
  s.setStore g { s.store g with held := [], holding := false }

/-- The stores exchange roles (07 R233 steps 2, 4 and 5). The previous store stays valid as the shadow, also one that has taken no image
and holds profile 0 alone (log entry 134). -/
def State.swapStores (s : State) (g : Nat) : State :=
  let st := s.store g
  let d := match st.swapAt with | some t => min 2000 ((s.clk - t) / usTicks) | none => 0
  let s := s.setStore g { st with active := st.shadow, shadow := { st.active with valid := true }, swapAt := none }
  let s := ((s.keep (groupKey 0x2806 g) d).bump (obj 0x2800 6)).raise 0x7005 g
  s.releaseHeld g

/-- A test shot is queued or running (06 R206). -/
def State.testRunning (s : State) : Bool :=
  s.drive.valves.any (fun x => x.queue.any (fun y => y.req.origin == .test) ||
    (match x.run with | some y => y.req.origin == .test | none => false))

/-- A swap request (07 R233): refused, or waiting; while the module is not Sorting it swaps at step 2 at once unless a test shot
runs or a valve of the group is not yet idle, and a group that is lost swaps at once (07 R234, R235). -/
def State.requestSwap (s : State) (g : Nat) : State × Nat :=
  let st := s.store g
  if !st.shadow.valid || st.swapAt.isSome
      || (s.groupValves g).any (fun v => (st.shadow.entry (s.profileOf v)).2 == 0) then
    ((s.bump (obj 0x2800 8)).raise 0x7007 g, abortState)
  else
    let s := s.setStore g { st with swapAt := some s.clk, holding := false }
    if (s.module.state != .sorting && !s.testRunning && s.groupIdle g && !s.edgeWithin g s.tick) || (s.group g).state = 2 then (s.swapStores g, 0) else (s, 0)

/-- GROUP_SWAP_REQUEST (07 R233). -/
def execGroupSwapRequest (m : Master) (g : Group) (s : State) : Host.Outcome State Fault Refusal :=
  .next (s.write m (groupKey 0x2802 g) (.num 1) (fun s => s.requestSwap g))

/-- The action of a write to 0x2808:02: one request per group (07 R238). -/
def actSwapAll (s : State) : State × Nat := (s.groupList.foldl (fun s g => (s.requestSwap g).1) s, 0)

/-- SWAP_ALL_GROUPS (07 R238). -/
def execSwapAllGroups (m : Master) (s : State) : Host.Outcome State Fault Refusal :=
  .next (s.write m (obj 0x2808 2) (.num 1) actSwapAll)

/-- GROUP_SWAP (07 R233 steps 2 and 4): a step in which all eight valves are idle and no gate edge falls. -/
def execGroupSwap (g : Group) (s : State) : Host.Outcome State Fault Refusal :=
  if (s.store g).swapAt.isSome && s.groupIdle g && ((s.store g).holding || !s.edgeWithin g s.tick) then
    .next (s.swapStores g)
  else .next s

/-- SWAP_HOLD (07 R233 step 3). -/
def execSwapHold (g : Group) (s : State) : Host.Outcome State Fault Refusal :=
  match (s.store g).swapAt with
  | some t =>
    if (s.store g).holding then .next s
    else .next ((s.atClk (t + msTicks)).setStore g { s.store g with holding := true })
  | none => .next s

/-- SWAP_ABANDON (07 R233 step 6). -/
def execSwapAbandon (g : Group) (s : State) : Host.Outcome State Fault Refusal :=
  match (s.store g).swapAt with
  | some t =>
    if (s.store g).holding then
      let s := s.atClk (t + 2 * msTicks)
      let s := (s.setStore g { s.store g with swapAt := none }).releaseHeld g
      .next ((s.bump (obj 0x2800 7)).raise 0x7006 g)
    else .next s
  | none => .next s

/-- The action of a write to 0x2810 or 0x2811 (07 R232). -/
def actProfileSelect (v p : Nat) (s : State) : State × Nat :=
  let st := s.store (s.groupOf v)
  if (st.active.entry p).2 = 0 || (st.swapAt.isSome && (st.shadow.entry p).2 == 0) then (s, abortRange)
  else (s.keep (valveKey 0x2810 v) p, 0)

/-- PROFILE_SELECT (07 R232). -/
def execProfileSelect (m : Master) (v : Valve) (profile : Nat) (s : State) : Host.Outcome State Fault Refusal :=
  .next (s.write m (valveKey 0x2810 v) (.num profile) (actProfileSelect v profile))

end Sys2Proof.Machine
end

