-- ==== Sys2Proof/Machine/Drive.lean ====
section
/-!
DEFINITION. The ejector drive (06): gate edges, deferral limits, kinks and estimates, the coil model, VALVE_EN, faults,
valve states and test shots.
-/
namespace Sys2Proof.Machine

/-! ### Gate edges -/

/-- A window that is open or scheduled is cut at the next gate edge (07 R223). -/
def State.truncateWindow (s : State) (v : Nat) : State :=
  match (s.seq v).window with
  | some _ => (s.setSeq v { s.seq v with window := none }).bump (obj 0x2800 4)
  | none => s

/-- The sequencer's state at a gate edge (07 R210, R211). -/
def freshSeq (start pc : Nat) : Seq :=
  { running := true, idle := false, pc := pc, issueAt := start }

/-- A shot starts (02 R55, R56; 06 R196, R198; 07 R211): counted, its hold cut where the valve is hot or the module
Derated. -/
def State.startShot (s : State) (v : Nat) (x : Shot) : State :=
  let s := s.truncateWindow v
  let s := (s.chargeBoost v).releaseSlot v
  let cut := s.cuts v x
  let s := if cut then s.bump (obj 0x2700 0x1B) else s
  let vs := s.valve v
  let s := s.setValve v { vs with run := some { x with start := x.edge, holdCut := cut }, queue := vs.queue.tail }
  let pc := ((s.store (s.groupOf v)).active.entry (s.profileOf v)).1
  let s := s.setSeq v (freshSeq x.edge pc)
  let s := ((s.bump (obj 0x2700 7)).bump (valveKey 0x2724 v)).ledgerShot v
  let s := { s with drive := { s.drive with
    startedAt := s.clk :: s.drive.startedAt.filter (fun t => s.clk < t + secTicks) } }
  s.emit (.gate v x.edge (s.nat (obj 0x2106 1)))

/-- The shots of a valve that its group's swap holds, or whose start lies beyond their limit, first in the queue first (06 R187). -/
def State.overdue (s : State) (v : Nat) : Option Shot :=
  let held := (s.store (s.groupOf v)).held.contains v
  match (s.valve v).queue with
  | [] => none
  | x :: r => if held then some x else (x :: r).find? Shot.beyondLimit

/-- A shot cancelled at its deferral limit (06 R187): group saturation, and an off-time conflict where R184 moved it. -/
def State.cancelled (s : State) (v : Nat) (x : Shot) : State :=
  let s := s.saturation v
  if x.moved then (s.bump (obj 0x2700 0x0B)).raiseSlow 0x600E v else s

/-- Cancel a queued shot at its deferral limit (06 R187). -/
def State.cancelQueued (s : State) (v : Nat) (x : Shot) : State :=
  let s := s.atTick (x.req.sched + x.deferLimit.toNat)
  let s := s.setValve v { s.valve v with queue := (s.valve v).queue.erase x }
  let st := s.store (s.groupOf v)
  let s := s.setStore (s.groupOf v) { st with held := st.held.filter (· != v) }
  s.cancelled v x

/-- GATE_EDGE (02 R55): the shot at the head of the valve's queue has reached its start tick. While the group holds a
swap the shot waits (07 R233). A shot beyond its deferral limit is cancelled instead (06 R187). With VALVE_EN_IN deasserted there is no gate drive: the shot ends as an abort with cause 5
(log entry 12). -/
def execGateEdge (v : Valve) (s : State) : Host.Outcome State Fault Refusal :=
  match (s.valve v).queue with
  | [] => .next s
  | x :: r =>
    let s := s.atTick x.edge
    let g := s.groupOf v
    let st := s.store g
    if st.holding then
      .next (if st.held.contains v.val then s else s.setStore g { st with held := st.held ++ [v.val] })
    else if !s.drive.enIn then
      let s := s.setValve v { s.valve v with queue := r }
      .next ((s.putNat (valveKey 0x2812 v) 5).bump (obj 0x2800 5))
    else if x.beyondLimit then .next (s.cancelQueued v x)
    else .next (s.startShot v x)

/-- DEFERRAL_LIMIT (06 R187): the first boost of a shot has waited to its limit, at its slot, at a held swap, or at a start that R184
moved. -/
def execDeferralLimit (v : Valve) (s : State) : Host.Outcome State Fault Refusal :=
  match (s.seq v).busy, (s.valve v).run with
  | .boostWait true _ _, some x =>
    let s := s.atTick (x.req.sched + x.deferLimit.toNat)
    .next ((s.abortShot v 4).cancelled v x)
  | _, _ =>
    match s.overdue v with
    | some x => .next (s.cancelQueued v x)
    | none => .next s

/-! ### Kinks (06 R190 to R194, 08 R242, R246) -/

/-- Windows of the group that are open (06 R190). -/
def State.openWindows (s : State) (g : Nat) : Nat :=
  ((s.groupValves g).filter (fun v => match (s.seq v).window with | some w => w.isOpen | none => false)).length

/-- KINK_WINDOW_OPEN (06 R190): sampled if fewer than four windows of the group are open. -/
def execKinkWindowOpen (v : Valve) (s : State) : Host.Outcome State Fault Refusal :=
  match (s.seq v).window with
  | some w =>
    if w.isOpen then .next s
    else
      let s := s.atTick w.opens
      let ok := s.openWindows (s.groupOf v) < 4
      .next (s.setSeq v { s.seq v with window := some { w with isOpen := true, sampled := ok } })
  | none => .next s

/-- Slopes of the 4-sample moving average, in mV/µs at 4 MS/s (06 R191). -/
def slopes : List Int → List Int
  | a :: b :: c :: d :: e :: r => (e - a) :: slopes (b :: c :: d :: e :: r)
  | _ => []

/-- Magnitudes of s[n + 2] − s[n − 2] of the slopes (06 R191). -/
def slopeDiffs : List Int → List Nat
  | a :: b :: c :: d :: e :: r => (e - a).natAbs :: slopeDiffs (b :: c :: d :: e :: r)
  | _ => []

/-- The first position and the value of the largest element. -/
def argMax : Nat → List Nat → Nat × Nat
  | i, [] => (i, 0)
  | i, [a] => (i, a)
  | i, a :: r =>
    let m := argMax (i + 1) r
    if m.2 ≤ a then (i, a) else m

/-- The kink of a window's samples in mV: its time in ticks from the window's opening, and its amplitude in mV/µs; none
below the threshold (06 R191; log entry 13). -/
def kinkOf (samples : List Int) (threshold : Nat) : Option (Nat × Nat) :=
  let d := slopeDiffs (slopes samples)
  let m := argMax 0 d
  if d.isEmpty || m.2 < threshold then none
  else
    let y0 : ℚ := m.2
    let yl : ℚ := if m.1 = 0 then m.2 else d.getD (m.1 - 1) 0
    let yr : ℚ := if m.1 + 1 < d.length then d.getD (m.1 + 1) 0 else m.2
    let den := yl - 2 * y0 + yr
    let frac : ℚ := if den = 0 then 0 else (yl - yr) / (2 * den)
    some (roundN (((m.1 + 4 : Nat) + frac) * 200), m.2)

/-- The mean of a list. -/
def meanQ (l : List ℚ) : ℚ := if l.isEmpty then 0 else sumQ l / l.length

/-- λ_k from δ̄ (06 R192). -/
def State.lambdaOf (s : State) (v : Nat) (deltaBar : ℚ) : ℚ :=
  s.factoryLatency v + ((s.shotTerms v).coupling : ℚ) / 1000 * (deltaBar - s.factoryDelay v)

/-- An estimate written, with what follows from it (06 R188, R192). -/
def State.setEstimate (s : State) (v : Nat) (deltaBar : ℚ) : State :=
  let l := s.lambdaOf v deltaBar
  s.setValve v { s.valve v with deltaBar := deltaBar, lambda := l, lead := s.leadOf l }

/-- The hourly sums of the ledger take an accepted kink, and so does the reference of a replaced valve (08 R242, R249). -/
def State.ledgerKink (s : State) (v : Nat) (delta : ℚ) (amp : Nat) : State :=
  let e := s.ledgerValve v
  let e := { e with hourN := e.hourN + 1, hourDelta := e.hourDelta + delta, hourAmp := e.hourAmp + amp }
  let e := match e.fresh with
    | some (sum, n) =>
      if n + 1 = 256 then { e with refBase := some ((sum + delta) / 256), fresh := none }
      else { e with fresh := some (sum + delta, n + 1) }
    | none => e
  s.setLedgerValve v e

/-- Valves retired or due (08 R256). -/
def State.retiredCount (s : State) : Nat := (s.ledger.data.valves.filter (fun e => e.cause == 1 || e.cause == 2)).length

/-- A valve that meets a criterion: retired, or marked due (08 R247). -/
def State.retire (s : State) (v cause : Nat) : State :=
  let e := s.ledgerValve v
  if e.cause = 1 ∨ e.cause = 2 then s
  else
    let blocked := s.nat (obj 0x2901 0x0A) = 0 || s.nat (obj 0x2900 2) < s.retiredCount + 1
      || (0 < v && !s.available (v - 1)) || (v + 1 < s.valveCount && !s.available (v + 1))
    if blocked then
      if e.cause = 0 then (s.setLedgerValve v { e with cause := 0x80 + cause }).raise 0x6021 v
      else s.setLedgerValve v { e with cause := 0x80 + cause }
    else ((s.setLedgerValve v { e with cause := cause }).setAvail v 1).raise 0x6020 v

/-- Lost kinks of the last 100 complete blocks (08 R246). -/
def LedgerValve.losses (e : LedgerValve) : Nat := sumN e.blocks

/-- A qualifying shot, with or without its kink; at the end of a block of 100 the kink-loss criterion is tested
(08 R246). -/
def State.ledgerQualify (s : State) (v : Nat) (lost : Bool) : State :=
  let e := s.ledgerValve v
  let n := e.curShots + 1
  let l := e.curLost + boolNat lost
  if n < 100 then s.setLedgerValve v { e with curShots := n, curLost := l }
  else
    let e := { e with curShots := 0, curLost := 0, blocks := (l :: e.blocks).take 100 }
    let s := s.setLedgerValve v e
    if 9500 < e.losses then s.retire v 2
    else if e.cause = 0x81 ∧ e.formed ∧ 150000 < |e.drift| then s.retire v 1
    else s

/-- An accepted kink (06 R192 to R194). -/
def State.acceptKink (s : State) (v : Nat) (delta : ℚ) (amp : Nat) : State :=
  let x := s.valve v
  let dev := delta - x.deltaBar
  let w : ℚ := max (1 / ((x.kinkI : ℚ) + 1)) (pow2Q (-((s.shotTerms v).exponent : Int)))
  let before := s.nat (valveKey 0x2718 v)
  let s := s.setValve v { x with kinkI := x.kinkI + 1, devs := (dev * dev :: x.devs).take 256, outliers := [] }
  let s := s.setEstimate v (x.deltaBar + w * dev)
  let s := (((s.bump (obj 0x2700 0x12)).bump (valveKey 0x2718 v)).putNat (valveKey 0x271A v) (min max16 amp)).ledgerKink v delta amp
  if before + 1 = 32 then s.raise 0x600C v else s

/-- A kink outside the outlier gate; the eighth in succession reseeds the estimate (06 R192). -/
def State.outlierKink (s : State) (v : Nat) (delta : ℚ) : State :=
  let s := s.bump (obj 0x2700 0x15)
  let x := s.valve v
  let l := delta :: x.outliers
  if l.length < 8 then s.setValve v { x with outliers := l }
  else ((s.setValve v { x with kinkI := 0, outliers := [] }).setEstimate v (meanQ l)).raise 0x600D v

/-- KINK_WINDOW_END (06 R190 to R194): `samples` are the coil voltages in mV at 4 MS/s. A window that was not sampled is counted as it ends,
since one that the next gate edge truncates is counted there alone (07 R223). -/
def execKinkWindowEnd (v : Valve) (samples : List Int) (s : State) : Host.Outcome State Fault Refusal :=
  match (s.seq v).window with
  | some w =>
    if !w.isOpen then .next s
    else
      let s := s.atTick w.closes
      let q := s.seq v
      let s := s.setSeq v { q with window := none }
      if !w.sampled then .next (s.bump (obj 0x2700 0x14))
      else
        match kinkOf samples (s.shotTerms v).kinkMin with
        | none => .next (((s.bump (obj 0x2700 0x13)).bump (valveKey 0x2728 v)).ledgerQualify v true)
        | some (t, amp) =>
          let delta : ℚ := ((w.opens + t : Nat) - ((q.tOff.getD w.opens : Nat) : ℚ)) * 5 / 4
          let s := s.ledgerQualify v false
          let dev := delta - (s.valve v).deltaBar
          .next (if ((s.shotTerms v).gate : ℚ) * 1000 < |dev| then s.outlierKink v delta else s.acceptKink v delta amp)
  | none => .next s

/-! ### Coil model (06 R195 to R197) -/

/-- One millisecond of one valve's two nodes: `i2` is the mean squared current in mA². -/
def State.coilStep (s : State) (v i2 : Nat) (x : ValveSt) : ValveSt :=
  let rc : ℚ := s.coilOhms v
  let p := (i2 : ℚ) / 1000000 * rc * (1 + 393 / 100000 * (x.thetaW - 20))
  let cw : ℚ := (s.nat (obj 0x2703 5) : ℚ) / 1000
  let rwb : ℚ := (s.nat (obj 0x2703 6) : ℚ) / 1000
  let cb : ℚ := (s.nat (obj 0x2703 7) : ℚ) / 1000
  let rba : ℚ := (s.nat (obj 0x2703 8) : ℚ) / 1000
  let amb := s.thermal.die - s.nat (obj 0x2703 3)
  let flow := (x.thetaW - x.thetaB) / rwb
  { x with
    thetaW := x.thetaW + 1 / 1000 / cw * (p - flow)
    thetaB := x.thetaB + 1 / 1000 / cb * (flow - (x.thetaB - amb) / rba) }

/-- The limits of one valve after its update (06 R196, R197). -/
def State.coilLimits (s : State) (v : Nat) : State :=
  let x := s.valve v
  let s := if s.hot v && !x.warm then s.raiseSlow 0x6002 v else s
  let x := { x with warm := s.hot v }
  let s := s.setValve v x
  if !x.skip && s.tMax v < x.thetaW then
    let s := x.queue.foldl (fun s _ => s.skipCount v) s
    let s := s.dropQueue v
    let x := s.valve v
    (s.setValve v { x with skip := true, run := x.run.map (Shot.cutHold s.tick) }).raise 0x6003 v
  else if x.skip && x.thetaW < s.tWarn v then s.setValve v { x with skip := false }
  else s

/-- THERMAL_UPDATE (06 R195): every 1 ms; `squares` are the mean squared currents of V000 upwards in mA². -/
def execThermalUpdate (squares : List Nat) (s : State) : Host.Outcome State Fault Refusal :=
  if s.module.mainUp then
    let s := s.atClk (s.drive.thermalAt + msTicks)
    let valves := (s.drive.valves.zipIdx).map (fun p => if p.2 < s.valveCount then s.coilStep p.2 (squares.getD p.2 0) p.1 else p.1)
    let s := { s with drive := { s.drive with valves := valves, thermalAt := s.clk } }
    .next ((List.range s.valveCount).foldl (fun s v => s.coilLimits v) s)
  else .next s

/-! ### VALVE_EN (06 R201) -/

/-- Current in every coil falls in fast decay, also of a valve whose program has ended (06 R201). -/
def State.fastDecay (s : State) : State :=
  { s with seqs := { s.seqs with seqs := s.seqs.seqs.map (fun (q : Seq) => { q with fast := true }) } }

/-- VALVE_EN_DEASSERT: gate drive is removed from every switch; running shots end in fast decay without kinks. VALVE_EN_OUT follows. -/
def execValveEnDeassert (s : State) : Host.Outcome State Fault Refusal :=
  if s.drive.enIn then
    let s := { s with drive := { s.drive with enIn := false, enSettled := false } }.settleEnOut
    let s := (s.abortAll 5).fastDecay
    .next (s.raise 0x6005 0)
  else .next s

/-- VALVE_EN_ASSERT: event 0x6006, and the 1 ms wait starts. VALVE_EN_OUT follows. -/
def execValveEnAssert (s : State) : Host.Outcome State Fault Refusal :=
  if s.drive.enIn then .next s
  else .next ({ s with drive := { s.drive with enIn := true, enSettled := false, enSince := s.clk } }.settleEnOut.raise 0x6006 0)

/-- VALVE_EN_SETTLED: asserted for 1 ms, the drive accepts requests again. -/
def execValveEnSettled (s : State) : Host.Outcome State Fault Refusal :=
  if s.drive.enIn && !s.drive.enSettled then
    let s := s.atClk (s.drive.enSince + msTicks)
    .next { s with drive := { s.drive with enSettled := true } }
  else .next s

/-! ### Faults (06 R202, R203) -/

/-- GROUP_OVERCURRENT: the switch opens, running shots of the group end in fast decay; the third trip within 1 s loses
the group. -/
def execGroupOvercurrent (g : Group) (s : State) : Host.Outcome State Fault Refusal :=
  if g.val < s.stride && (s.group g).state ≠ 2 then
    let s := s.abortThese (s.groupValves g) 7
    let s := s.raise 0x6007 g
    let trips := s.clk :: (s.group g).trips.filter (fun t => s.clk < t + secTicks)
    let s := s.setGroup g { s.group g with state := 1, trips := trips }
    .next (if 3 ≤ trips.length then s.loseGroup g else s)
  else .next s

/-- COIL_SHORT: low-side off, state 5, event 0x600A. -/
def execCoilShort (v : Valve) (s : State) : Host.Outcome State Fault Refusal :=
  if v < s.valveCount then .next (((s.stopDrive v).setAvail v 5).raise 0x600A v) else .next s

/-- The state that a valve returns to: available, unless the ledger has retired it (06 R203, 08 R248). -/
def State.ledgerAvail (s : State) (v : Nat) : Nat := boolNat ((s.ledgerValve v).cause == 1 || (s.ledgerValve v).cause == 2)

/-- The action of a write to 0x2710 or 0x2711 (06 R203): a write of 0 clears no retirement, also not one that a fault has covered
(08 R248, R249). -/
def actValveState (v value : Nat) (s : State) : State × Nat :=
  let a := (s.valve v).avail
  if a = 1 ∨ a = 2 then (s, abortState)
  else if value = 0 then
    let x := s.valve v
    (s.setValve v { x with avail := s.ledgerAvail v, openFails := 0 }, 0)
  else if value = 3 then (if a = 0 ∨ a = 3 then (s.setAvail v 3, 0) else (s, abortState))
  else (s, abortRange)

/-- VALVE_STATE_WRITE (06 R203). -/
def execValveStateWrite (m : Master) (v : Valve) (value : Nat) (s : State) : Host.Outcome State Fault Refusal :=
  .next (s.write m (valveKey 0x2710 v) (.num value) (actValveState v value))

/-- The action of a write of 1 to 0x2709 (06 R203). -/
def actGroupRestore (g : Nat) (s : State) : State × Nat :=
  if (s.group g).state = 2 then
    let s := s.setGroup g { s.group g with state := 0, trips := [], noRise := none }
    let s := (s.groupValves g).foldl (fun s v => if (s.valve v).avail = 2 then s.setAvail v (s.ledgerAvail v) else s) s
    (s.raise 0x600F g, 0)
  else (s, 0)

/-- GROUP_RESTORE (06 R203). -/
def execGroupRestore (m : Master) (g : Group) (s : State) : Host.Outcome State Fault Refusal :=
  .next (s.write m (groupKey 0x2709 g) (.num 1) (actGroupRestore g))

/-- The action of a write of 1 to 0x270A:03 (06 R206). -/
def actTestShot (s : State) : State × Nat :=
  if s.module.state = .idle && s.drive.enIn then
    let v := s.nat (obj 0x270A 1)
    let t := s.tick + msTicks
    (s.request { valve := v, sched := t, ta := t + (s.valve v).lead,
                 shotEnd := t + s.nat (obj 0x270A 2) * usTicks, conf := 255, origin := .test }, 0)
  else (s, abortState)

/-- TEST_SHOT (06 R206). -/
def execTestShot (m : Master) (s : State) : Host.Outcome State Fault Refusal :=
  .next (s.write m (obj 0x270A 3) (.num 1) actTestShot)

/-! ### Start (06 R204) and power fail (06 R205) -/

/-- The drive at a start of the main side: estimates seeded, counts and models at their start, budgets full, states 2, 4
and 5 cleared (06 R204). Valves whose calibration entry is invalid raise event 0x6010 (06 R202). -/
def State.seedDrive (s : State) (badEntries : List Nat) : State :=
  let theta := s.thermal.die + 15
  let s := { s with
    drive := { s.drive with
      valves := s.drive.valves.zipIdx.map (fun p =>
        { avail := if p.1.avail = 1 ∨ p.1.avail = 3 then p.1.avail else s.ledgerAvail p.2
          thetaW := theta, thetaB := theta, factoryBad := badEntries.contains p.2 })
      groups := List.replicate 32 {}
      enabled := false, powerFail := false
      bucket := s.bucketCap, bucketAt := s.clk, bucketEmpty := false, burst := [], startedAt := [], thermalAt := s.clk }
    seqs := { s.seqs with seqs := List.replicate 256 {} } }
  let s := (List.range s.valveCount).foldl (fun s v =>
    let s := s.setEstimate v (s.factoryDelay v)
    ((s.putNat (valveKey 0x2718 v) 0).putNat (groupKey 0x2708 (s.groupOf v)) 0)) s
  badEntries.foldl (fun s v => if v < s.valveCount then s.raise 0x6010 v else s) s

/-- The drive at the power-fail warning, and before a main-side restart (06 R205, 12 R344): no kink is taken any more, also not of a shot
whose valve has closed. -/
def State.drivePowerFail (s : State) : State :=
  let s := ({ s with drive := { s.drive with powerFail := true, enabled := false } }.dropQueues).abortAll 6
  { s with seqs := { s.seqs with seqs := s.seqs.seqs.map (fun q => { q with window := none }) } }

end Sys2Proof.Machine
end

