-- ==== Sys2Proof/Machine/PipeOps.lean ====
section
/-!
DEFINITION. What the tracker needs of the engines: the queues of the object part (04 R116), the release of frame buffers
(04 R115), the active class table (04 R123, R124) and the engines' loads.
-/
namespace Sys2Proof.Machine

def State.engine (s : State) (p : Nat) : EnginePort := s.pipe.ports.getD p {}
def State.setEngine (s : State) (p : Nat) (e : EnginePort) : State :=
  { s with pipe := { s.pipe with ports := s.pipe.ports.set p e } }

/-- The frame number of a line that belongs to no frame: in FVAL mode, one paired while FVAL is low (03 R77). -/
abbrev noFrame : Nat := 2 ^ 32

/-- An open component of a port has pixels in a frame. -/
def State.openIn (s : State) (p number : Nat) : Bool :=
  (s.engine p).blobs.any (fun b => b.rows.any (fun r => r.frame == number && !r.runs.isEmpty))

/-- Frame buffers whose frame is finished and that neither a sighting nor an open component claims are released (04 R115). -/
def State.releaseFrames (s : State) : State :=
  { s with pipe := { s.pipe with frames := s.pipe.frames.filter (fun f =>
      !(f.finished && !s.openIn f.port f.record.number
        && s.pipe.claims.all (fun c => !(c.port == f.port && c.frames.contains f.record.number)))) } }

/-- A sighting is settled: its claim ends (04 R115). -/
def State.settleSighting (s : State) (x : Sighting) : State :=
  { s with pipe := { s.pipe with claims := dropFirst (fun c => c.sighting == x && c.handle.isNone) s.pipe.claims } }.releaseFrames

/-- The bank that an unsettled sighting is tagged with (04 R127). -/
def State.tagOf (s : State) (x : Sighting) : Nat :=
  ((s.pipe.claims.find? (fun c => c.sighting == x && c.handle.isNone)).map (·.bank)).getD s.pipe.active

/-- The claim of a sighting passes to the object that waits in the object queue. -/
def State.claimFor (s : State) (x : Sighting) (handle : Nat) : State :=
  { s with pipe := { s.pipe with claims := s.pipe.claims.map (fun c =>
      if c.sighting = x ∧ c.handle = none then { c with handle := some handle } else c) } }

/-- A queued object has been measured, or needs it no more. -/
def State.settleHandle (s : State) (handle : Nat) : State :=
  { s with pipe := { s.pipe with claims := s.pipe.claims.filter (fun c => c.handle != some handle) } }.releaseFrames

/-- The bin edges that an unsettled sighting was closed with (04 R119). -/
def State.edgesOf (s : State) (x : Sighting) : List Byte :=
  ((s.pipe.claims.find? (fun c => c.sighting == x && c.handle.isNone)).map (·.edges)).getD []

/-- Clocks of the object part for a job, in ticks of local time: 400 MHz (04 R117). -/
def State.jobCost (s : State) (j : ObjJob) : Nat :=
  2 * max (16 + ceilDiv ((boxPixels j.image).length * j.channels) 8) (treeCount (s.pipe.banks.getD j.bank {}).image)

/-- The clock at which a job that entered its queue at `since` can begin: after the job before, and on the AEH-1282 no more than 524,288 times a
second (04 R117). -/
def State.jobStart (s : State) (since : Nat) : Nat :=
  let free := (s.pipe.objBusy.head?.map (·.2)).getD 0
  let slot := match s.variant with | .aeh2564 => 0 | .aeh1282 => s.pipe.objStart + 1526
  max since (max free slot)

/-- The object in work: begun once the engine is free for it, taken out of its queue. -/
def State.beginJob (s : State) (j : ObjJob) (chips objects : List ObjJob) : State :=
  let start := s.jobStart j.since
  if s.clk < start then s
  else { s with pipe := { s.pipe with
    chipQueue := chips, objQueue := objects, objWork := some j, objStart := start
    objBusy := (start, start + s.jobCost j) :: s.pipe.objBusy.filter (fun b => s.clk < b.2 + 100 * msTicks) } }

/-- An idle object part takes the oldest chip, or else the oldest local object, and begins its work (04 R116). -/
def State.takeJob (s : State) : State :=
  match s.pipe.objWork, s.pipe.chipQueue, s.pipe.objQueue with
  | none, j :: r, q => s.beginJob j r q
  | none, [], j :: r => s.beginJob j [] r
  | _, _, _ => s

/-- A local object enters the object queue; a full queue leaves it unclassified (04 R116). -/
def State.queueObject (s : State) (j : ObjJob) (x : Sighting) : State :=
  let s := s.takeJob
  if s.pipe.objQueue.length < 4096 then
    let j := { j with bank := s.tagOf x, edges := s.edgesOf x, since := s.clk }
    (({ s with pipe := { s.pipe with objQueue := s.pipe.objQueue ++ [j] } }).claimFor x j.handle).takeJob
  else ((s.settleSighting x).bump (obj 0x2405 0x0A)).raiseSlow 0x4005 0

/-- A chip enters the chip queue of 256 entries; the Bool says that it found it full (04 R116). Its bin edges are those of the port as they
stand then (log entry 128). -/
def State.queueChip (s : State) (j : ObjJob) : State × Bool :=
  let s := s.takeJob
  let j := { j with bank := s.pipe.active, edges := s.byteVal (obj (0x2410 + 16 * j.port) 6), since := s.clk }
  if s.pipe.chipQueue.length < 256 then (({ s with pipe := { s.pipe with chipQueue := s.pipe.chipQueue ++ [j] } }).takeJob, false)
  else (s, true)

/-- The image of the active bank. -/
def State.activeImage (s : State) : List Byte := (s.pipe.banks.getD s.pipe.active {}).image

/-- Eject flag and threshold of a class in the active class table (04 R124). -/
def State.ejectFlag (s : State) (cls : Nat) : Nat := field s.activeImage (0x40 + 32 * cls + 0x18) 1
def State.ejectThreshold (s : State) (cls : Nat) : Nat := field s.activeImage (0x40 + 32 * cls + 0x19) 1

/-- A class and confidence call for ejection (04 R123). -/
def State.callsEject (s : State) (cls conf : Nat) : Bool := s.ejectFlag cls == 1 && s.ejectThreshold cls ≤ conf

/-- The part of a span of local time, up to now, that the intervals cover, in 0.01 %. -/
def State.load (s : State) (span : Nat) (busy : List (Nat × Nat)) : Nat :=
  let lo := s.clk - span
  min 10000 (sumN (busy.map (fun b => min b.2 s.clk - max b.1 lo)) * 10000 / span)

/-- Object part load, mean over 100 ms, 0x2405:02. -/
def State.objLoad (s : State) : Nat := s.load (100 * msTicks) s.pipe.objBusy

/-- Channels of a port's format: 4 for RGB and NIR formats, 1 for mono (03 R64); colour formats carry R, G, B and,
where the format has it, NIR. -/
def State.formatOf (s : State) (p : Nat) : Nat := s.nat (obj (0x2302 + 16 * p) 3)

/-- Line period of a port in ticks: 0x23p3:01 in 1/256 tick (03 R71). -/
def State.linePeriod (s : State) (p : Nat) : ℚ := (s.nat (obj (0x2303 + 16 * p) 1) : ℚ) / 256

/-- The context of a port as its tables stand now (04 R101, R110); c1 of the lane map defaults to 272 / W. -/
def State.context (s : State) (p : Nat) : Context :=
  let k := 0x2410 + 16 * p
  { version := s.nat (obj k 0x0B)
    refVer := s.pipe.refVer.getD p 0
    black := s.byteVal (obj k 1)
    gain := s.byteVal (obj k 2)
    ref := s.byteVal (obj k 3)
    thresholds := s.byteVal (obj k 4)
    matrix := s.byteVal (obj k 5)
    edges := s.byteVal (obj k 6)
    lane := [7, 8, 9, 10].map (fun i =>
      if i = 8 ∧ assocGet s.od (obj k 8) = none then r32Of (272 / (s.nat (obj (0x2302 + 16 * p) 4) : ℚ)) else s.nat (obj k i)) }

/-- Width, channels and bits of a port (03 R64, R96). -/
def State.widthOf (s : State) (p : Nat) : Nat := s.nat (obj (0x2302 + 16 * p) 4)

/-- The key of a port's object: P0's index plus 0x10 per port (03 R96). -/
def camKey (p index sub : Nat) : Nat := obj (index + 16 * p) sub

/-- Frame number `a` is at or before `b` (03 R79). -/
def frameLe (a b : Nat) : Bool := 0 ≤ signedOf 4 ((b + 2 ^ 32 - a % 2 ^ 32) % 2 ^ 32)

/-- Generation and span of frame `k`. -/
def State.generationOf (s : State) (p k : Nat) : Nat × Nat :=
  let c := s.cam p
  let d := s.nat (camKey p 0x2302 6)
  let top := fun (l : List GenMark) => (l.map (·.gen)).foldl max 0
  if d ≠ 0xFF then (top (c.gens.filter (fun g => frameLe (if g.sure then g.frame else g.frame + d) k)), 0)
  else
    let newest := top (c.gens.filter (fun g => frameLe g.frame k))
    let oldest := top (c.gens.filter (fun g => frameLe (if g.sure then g.frame else g.frame + s.nat (camKey p 0x2302 7)) k))
    (newest, newest - oldest)

/-- The frame in progress on a port, or else the next one. -/
def State.frameNow (s : State) (p : Nat) : Nat :=
  let c := s.cam p
  ((c.frames.find? (fun f => !f.complete)).map (·.number)).getD c.nextFrame

/-- A port that streams or will again: STARTING, STREAMING or LOST. -/
def State.portActive (s : State) (p : Nat) : Bool :=
  match (s.cam p).state with | .starting | .streaming | .lost => true | _ => false

end Sys2Proof.Machine
end

