-- ==== Sys2Proof/Machine/Ledger.lean ====
section
/-!
DEFINITION. The wear ledger (08): hourly close, storage, margins and threshold offsets, replacement of a valve, strobes, boost supply, fans, die.
-/
namespace Sys2Proof.Machine

def State.setLedger (s : State) (d : LedgerData) : State := { s with ledger := { s.ledger with data := d } }

/-! ### Store (08 R240) -/

/-- The age of a copy: its sequence number, 0 where its two numbers do not agree. -/
def LedgerCopy.age (c : LedgerCopy) : Nat := if c.first = c.last then c.first else 0

/-- Write the older copy. -/
def State.storeLedger (s : State) : State :=
  let d := { s.ledger.data with writes := satAdd max32 1 s.ledger.data.writes }
  let a := (s.ledger.copies.getD 0 {}).age
  let b := (s.ledger.copies.getD 1 {}).age
  let n := max a b + 1
  { s with ledger := { s.ledger with
    data := d, copies := s.ledger.copies.set (if a ≤ b then 0 else 1) { first := n, last := n, data := d } } }

/-! ### Margins (08 R244, R254) -/

/-- A percentage rounded down and clamped to 0 to 100. -/
def percent (q : ℚ) : Nat := (clampI 0 100 q.floor).toNat

/-- A threshold offset from a margin: M_max × (50 − M) / 50 below 50, in whole kelvin (08 R254). -/
def thresholdOffset (mMax margin : Nat) : Nat := if margin < 50 then mMax * (50 - margin) / 50 else 0

/-- δ_ref in ns: δf of the calibration page until the valve is replaced (08 R242, R249). -/
def State.refDelay (s : State) (v : Nat) : ℚ := ((s.ledgerValve v).refBase).getD (s.factoryDelay v)

/-- The valve is calibrated (06 R193). -/
def State.isCalibrated (s : State) (v : Nat) : Bool := 32 ≤ s.nat (valveKey 0x2718 v)

/-- The margin of a valve (08 R244). -/
def State.valveMargin (s : State) (e : LedgerValve) : Nat :=
  let thr : ℚ := s.nat (obj 0x2702 6)
  let md := if e.formed && e.fresh.isNone then percent (100 * (1 - |e.drift| / 150000)) else 100
  let mk := percent (100 * (1 - (e.losses : ℚ) / 9500))
  let ma := match e.a0 with
    | some a => if a ≤ thr then 100 else percent (100 * (e.ah - thr) / (a - thr))
    | none => 100
  min md (min mk ma)

/-- One valve at the hourly close: D, A_h, A_0, margin and offset (08 R242 to R244, R254). `calibrated` says that it was calibrated at the
start of the hour; only a start of the main side ends that. -/
def State.closeValve (s : State) (v : Nat) : State :=
  let e := s.ledgerValve v
  let enough := e.calibrated && s.nat (obj 0x2901 3) ≤ e.hourN
  let e :=
    if enough then
      let ah : ℚ := (e.hourAmp : ℚ) / e.hourN
      let e := { e with ah := ah, a0 := e.a0.or (some ah) }
      if e.fresh.isSome then e
      else { e with drift := e.hourDelta / e.hourN - s.refDelay v, formed := true }
    else e
  let e := if enough then { e with margin := s.valveMargin e } else e
  let e := { e with
    offset := thresholdOffset (s.nat (obj 0x2901 9)) e.margin
    hourN := 0, hourDelta := 0, hourAmp := 0, calibrated := s.isCalibrated v }
  s.setLedgerValve v e

/-- The drift test, and the retest of a due valve (08 R245, R247). -/
def State.testValve (s : State) (v : Nat) : State :=
  let e := s.ledgerValve v
  if e.formed ∧ 150000 < |e.drift| then s.retire v 1
  else if e.cause = 0x82 ∧ 9500 < e.losses then s.retire v 2
  else s

/-! ### Strobes (08 R250) -/

/-- Light per ampere of one statistics record for a strobe channel (08 R250): the mean of the backdrop means over the column blocks that lie wholly
on the reference strip (10 R285), divided by current and width. -/
def State.strobeLight (s : State) (n p : Nat) (record : List Byte) : Option ℚ :=
  let w := s.nat (obj 0x2B01 3)
  let cols := match s.variant with | .aeh2564 => 512 | .aeh1282 => 256
  let lane := (s.context p).lane
  let blocks := (List.range (s.nat (obj (0x2302 + 16 * p) 4) / 64)).filter (fun b =>
    let lo := laneOf lane (64 * b : Nat)
    let hi := laneOf lane (64 * (b + 1) : Nat)
    (0 ≤ lo && hi ≤ (32 * w : Nat)) || (((32 * cols : Nat) : Int) - (32 * w : Nat) ≤ lo && hi ≤ (32 * cols : Nat)))
  let ch := formatChannels (s.formatOf p)
  let vs := (blocks.flatMap (fun b => (List.range ch).map (fun c => field record (0x1480 + 256 * c + 2 * b) 2))).filter (· != 0xFFFF)
  let x := s.backdrop.strobes.getD n {}
  let amp := x.ieff * s.nat (obj (0x2B40 + n) 4)
  if vs.isEmpty ∨ amp = 0 ∨ x.fault ≠ 0 ∨ !x.pulsed then none else some ((sumN vs : ℚ) / vs.length / amp)

/-- A frame's measurement enters the hour of every channel that follows its port (08 R250); the hour's first frame, measured or not, sets the
generation. -/
def State.ledgerStats (s : State) (p : Nat) (rec : FrameRecord) (record : List Byte) : State :=
  let d := s.ledger.data
  s.setLedger { d with strobes := (List.range 4).map (fun n =>
    let e := d.strobes.getD n {}
    if s.nat (obj (0x2B40 + n) 2) ≠ p then e
    else
      let e := { e with gen := e.gen.or (some rec.generation) }
      if rec.span ≠ 0 ∨ bitOf rec.flags 1 ∨ e.gen ≠ some rec.generation then e
      else
        match s.strobeLight n p record with
        | some q => { e with sum := e.sum + q, n := e.n + 1 }
        | none => e) }

/-- The hourly close of a strobe channel (08 R250; 10 R285). -/
def State.closeStrobe (s : State) (n : Nat) : State :=
  let e := s.ledger.data.strobes.getD n {}
  let head : ℚ := (s.nat (obj 0x2901 6) : ℚ) / 100
  let mean : ℚ := if e.n = 0 then 0 else e.sum / e.n
  let e1 :=
    if e.n = 0 then e
    else
      match e.base with
      | none => { e with base := some mean, f := 1 }
      | some b => { e with f := min 1 (mean / b) }
  let k := 0x2B40 + n
  let x := s.backdrop.strobes.getD n {}
  let period := s.linePeriod (s.nat (obj k 2))
  let watts : ℚ := (s.nat (obj k 5) : ℚ) / 1000 * (x.vf : ℚ) / 1000 * (s.nat (obj k 4) : ℚ) / period
  let limit := min head (if watts ≤ 0 then head else max 1 (60 / watts))
  let want : ℚ := if e1.f ≤ 0 then limit else 1 / e1.f
  let e2 := { e1 with
    factor := max 1 (min want limit), atLimit := decide (limit ≤ want ∧ 1 < want), sum := 0, n := 0, gen := none
    base := if e.restart then none else e1.base, restart := false }
  let d := s.ledger.data
  let s := s.setLedger { d with strobes := d.strobes.set n e2 }
  if e2.atLimit && !e.atLimit then s.raise 0x9080 n else s

/-- The margin of a strobe channel (08 R250). -/
def State.strobeMargin (s : State) (n : Nat) : Nat :=
  let fmin : ℚ := 100 / (s.nat (obj 0x2901 6) : ℚ)
  let f := (s.ledger.data.strobes.getD n {}).f
  if fmin = 1 then (if f < 1 then 0 else 100) else percent (100 * (f - fmin) / (1 - fmin))

/-! ### Boost supply, fans, die (08 R251 to R253) -/

/-- The median of rationals: the lower of the middle two of an even count. -/
def insertQ (x : ℚ) : List ℚ → List ℚ
  | [] => [x]
  | y :: r => if x ≤ y then x :: y :: r else y :: insertQ x r
def medianQ (l : List ℚ) : ℚ := (l.foldr insertQ []).getD ((l.length - 1) / 2) 0

/-- Capacitance at the hourly close. -/
def State.closeCapacitance (s : State) : State :=
  let d := s.ledger.data
  if d.caps.isEmpty then s
  else
    let c := medianQ d.caps
    let f : ℚ := s.nat (obj 0x2906 2)
    let m := percent (100 * (c - 6 / 10 * f) / (4 / 10 * f))
    let s := s.setLedger { d with caps := [], capacitance := some c, capMargin := m }
    if m = 0 ∧ d.capMargin ≠ 0 then s.raise 0x1080 0 else s

/-- Boost rise time at the hourly close: the mean over the groups in service, in ticks. -/
def State.closeRise (s : State) : State :=
  let d := s.ledger.data
  let means := ((List.range s.stride).filter (fun g => (s.group g).state == 0)).filterMap (fun g =>
    let r := d.rise.getD g (0, 0)
    if r.2 = 0 then none else some ((r.1 : ℚ) / r.2))
  let d := { d with rise := List.replicate 32 (0, 0) }
  if means.isEmpty then s.setLedger d
  else
    let m := sumQ means / means.length
    match d.riseBase with
    | none => s.setLedger { d with riseMean := m, riseBase := some m }
    | some b =>
      let d := { d with riseMean := m }
      if b * (100 + s.nat (obj 0x2901 4) : Nat) / 100 < m then
        let top := min (s.nat (obj 0x2901 5)) (72000 - s.nat (obj 0x2701 1))
        let o := max d.vbstOffset (min (d.vbstOffset + 1000) top)
        if o = d.vbstOffset then
          let s := s.setLedger { d with vbstAtLimit := true }
          if d.vbstAtLimit then s else s.raise 0x1081 0
        else s.setLedger { d with vbstOffset := o, vbstAtLimit := false }
      else s.setLedger d

/-- A fan at the hourly close. -/
def State.closeFan (s : State) (i : Nat) : State :=
  let d := s.ledger.data
  let f := d.fans.getD i (0, 0)
  if f.2 = 0 then s
  else
    let r := f.1 / f.2
    let m := percent (100 * (r - 7 / 10) / (3 / 10))
    let s := s.setLedger { d with
      fans := d.fans.set i (0, 0), fanRatio := d.fanRatio.set i r, fanMargin := d.fanMargin.set i m }
    if m = 0 ∧ d.fanMargin.getD i 100 ≠ 0 then s.raise 0x2080 i else s

/-- The die offset (08 R254) from the fan margins, the worst die margin of the hour and the capacitance margin. -/
def State.closeDie (s : State) : State :=
  let d := s.ledger.data
  let m := d.fanMargin.foldl min (min d.dieWorst d.capMargin)
  s.setLedger { d with dieOffset := thresholdOffset (s.nat (obj 0x2901 9)) m, dieWorst := 100 }

/-- The hourly close (08 R239). -/
def State.hourlyClose (s : State) : State :=
  let vs := List.range s.valveCount
  let s := s.holdVbst
  let s := vs.foldl State.closeValve s
  let s := vs.foldl State.testValve s
  let s := (List.range 4).foldl State.closeStrobe s
  let s := s.closeCapacitance.closeRise
  let s := (List.range 4).foldl State.closeFan s
  let s := s.closeDie
  let d := s.ledger.data
  (s.setLedger { d with hours := satAdd max32 1 d.hours }).storeLedger

/-- OPERATING_HOUR (17 R461; 08 R239): operating seconds reach the next multiple of 3,600. -/
def execOperatingHour (s : State) : Host.Outcome State Fault Refusal :=
  if !s.module.mainUp then .next s
  else
    let h := s.recorder.hour + 1
    let s := s.atClk (s.clk + (3600 * h - s.opSecs) * secTicks - (if s.opSecs < 3600 * h then (s.clk - s.module.secondAt) % secTicks else 0))
    let s := { s with recorder := { s.recorder with hour := h } }
    .next s.hourTrigger.hourlyClose

/-! ### Replacement of a valve (08 R249) -/

/-- The action of a write to 0x290B:01. -/
def actValveReplaced (v : Nat) (s : State) : State × Nat :=
  if s.valveCount ≤ v then (s, abortRange)
  else if (s.valve v).avail = 2 then (s, abortState)
  else
    let s := s.setLedgerValve v { fresh := some (0, 0), calibrated := (s.ledgerValve v).calibrated }
    let s := if (s.valve v).avail = 1 then s.setValve v { s.valve v with avail := 0 } else s
    ((s.raise 0x6022 v).storeLedger, 0)

/-- VALVE_REPLACED (08 R249). -/
def execValveReplaced (m : Master) (v : Nat) (s : State) : Host.Outcome State Fault Refusal :=
  .next (s.write m (obj 0x290B 1) (.num v) (actValveReplaced v))

/-! ### Die margin and core voltage (08 R253) -/

/-- One step of the core voltage. -/
def State.coreStep (s : State) : State :=
  let d := s.ledger.data
  if 4 ≤ d.coreSteps then s.setLedger { d with corePending := false }
  else ((s.setLedger { d with coreSteps := d.coreSteps + 1, corePending := false }).raise 0x2081 (d.coreSteps + 1)).storeLedger

/-- The step that waits for an entry to Idle or a start. -/
def State.pendingCoreStep (s : State) : State := if s.ledger.data.corePending then s.coreStep else s

/-- The margin that a ring reading comes to, with 110 °C as the die temperature while the diode is broken (11 R327). -/
def State.dieMargin (s : State) (r : RingMargin) : Nat := if s.thermal.broken then r.at110 else r.atMean

/-- DIE_MARGIN_SAMPLE (08 R253): the margin measured now, in percent. -/
def execDieMarginSample (ring : RingMargin) (s : State) : Host.Outcome State Fault Refusal :=
  if !s.module.mainUp then .next s
  else
    let margin := s.dieMargin ring
    let m := min 100 margin
    let d := s.ledger.data
    let s := s.setLedger { d with dieWorst := min m d.dieWorst }
    let low := decide (margin < s.nat (obj 0x2901 8))
    let s := if low then s else s.setLedger { s.ledger.data with dieExhausted := false }
    if low && d.coreSteps < 4 then .next s.coreStep
    else if low then
      if d.dieExhausted then .next s
      else .next ((s.setLedger { s.ledger.data with dieExhausted := true }).raise 0x2082 m)
    else if margin < s.nat (obj 0x2901 7) ∧ d.coreSteps < 4 then
      .next (s.setLedger { s.ledger.data with corePending := true })
    else .next s

/-- BULK_RECHARGE_MEASURED (08 R251): the recharge time in ticks and the rise in mV. A rise below 0.5 V is no recharge after a sag of at least
1 V, and nothing is measured while a group switch is closed. -/
def execBulkRechargeMeasured (ticks rise : Nat) (s : State) : Host.Outcome State Fault Refusal :=
  if !s.module.mainUp || rise < 500 || s.drive.groups.any (fun g => !g.slots.isEmpty) then .next s
  else
    let c : ℚ := (Config.chargeCurrent : ℚ) * ((ticks : ℚ) / usTicks) / rise
    let d := s.ledger.data
    .next (s.setLedger { d with caps := d.caps ++ [c] })

end Sys2Proof.Machine
end

