-- ==== Sys2Proof/Machine/Engines.lean ====
section
/-!
DEFINITION. What the Fix and Grade engines do to the state: segmentation of a line (04 R102 to R108, R112 to R114), statistics records (R135 to R137),
samples for captures (R130, R131), bank swaps (R127), and the start and end of a capture.
-/
namespace Sys2Proof.Machine

/-! ### Captures (04 R130, R131) -/

/-- The sample a capture averages at one column and channel of a line. -/
def captureSample (code p bits_ : Nat) (ch : Nat) (ctx : Context) (sorting : Bool) (l : ProcLine) (x i : Nat) : Option ℚ :=
  if l.line.padded.contains x then none
  else
    let w : ℚ := workSample bits_ ((l.line.pixels.getD x []).getD i 0)
    match code with
    | 1 => some w
    | 2 => some (w - ctx.blackAt ch x i)
    | _ =>
      if sorting && l.mask.getD x false then none
      else some (((if p < 2 then l.s2 else l.s3).getD x []).getD i 0 : Nat)

/-- Lines of a completed frame enter the capture that runs on its port; a grey capture takes none before both panels have reached
calibration grey (10 R303), and a frame begun before the acceptance is not used (log entry 170). -/
def State.feedCapture (s : State) (p : Nat) (rec : FrameRecord) (lines : List ProcLine) : State :=
  match s.pipe.capture with
  | none => s
  | some c =>
    let n := s.nat (obj 0x2404 3)
    let ch := formatChannels (s.formatOf p)
    let bits_ := formatBits (s.formatOf p)
    let sorting := s.module.state == .sorting
    let ports := c.ports.map (fun q =>
      if q.port = p ∧ (c.code ≠ 2 ∨ s.backdrop.atGrey = true) ∧ rec.span = 0 ∧ !bitOf rec.flags 1 ∧ rec.generation = q.gen ∧ q.first ≤ rec.firstIndex then
        let new := (lines.filter (fun l => !l.line.missing)).map (fun l =>
          (List.range l.s2.length).map (fun x => (List.range ch).map (fun i =>
            captureSample c.code p bits_ ch l.line.ctx sorting l x i)))
        { q with lines := (q.lines ++ new).take (2 * n) }
      else q)
    { s with pipe := { s.pipe with capture := some { c with ports := ports } } }

/-- The end of a capture: status, cause, event (04 R131). -/
def State.endCapture (s : State) (status cause : Nat) : State :=
  let code := (s.pipe.capture.map (·.code)).getD 0
  let s := { s with pipe := { s.pipe with capture := none, captureStatus := status, captureCause := cause } }
  s.raise (if status = 2 then 0x4007 else 0x4008) code

/-- A capture begins on every port of a selection that streams (04 R130), with the generation in force for the frame in progress, or else
for the next one (04 R131; 03 R86); with no such port it fails at once. -/
def State.startCapture (s : State) (code sel : Nat) : State :=
  let ps := [0, 1, 2, 3].filter (fun p => bitOf sel p && (s.cam p).state == .streaming)
  let c : Capture :=
    { code := code, started := s.clk
      ports := ps.map (fun p => { port := p, gen := (s.generationOf p (s.frameNow p)).1, first := (s.cam p).nextIndex }) }
  let s := { s with pipe := { s.pipe with capture := some c, captureStatus := 1, captureCause := 0 } }
  if ps.isEmpty then s.endCapture 3 1 else s

/-! ### Statistics (04 R135 to R137) -/

/-- Coverage reaches the loop engine as inputs 0x2A02:0B and :0C (04 R137, 09 R261). -/
def State.presentCoverage (s : State) (p : Nat) (rec : FrameRecord) (cov valid : Nat) : State :=
  if p < 2 ∨ bitOf rec.flags 5 ∨ bitOf rec.flags 4 ∨ valid = 0 then s
  else
    let x : LoopInput := { value := (cov : ℚ) / 65536, at_ := some s.clk }
    { s with loops := { s.loops with inputs := s.loops.inputs.set (p + 8) x } }

/-- The statistics record of a frame is still to come: the frame is open, closed and waiting, or to be graded. -/
def State.recordDue (s : State) (p n : Nat) : Bool :=
  (s.cam p).frames.any (fun f => f.number == n) || (s.engine p).closed.any (fun r => r.number == n)
    || s.pipe.frames.any (fun f => f.port == p && f.record.number == n && !f.finished)

/-- Complete the statistics record of a frame. An object that was cut after the record of its last line's frame is counted in the next one
(log entry 166). -/
def State.completeStats (s : State) (p : Nat) (rec : FrameRecord) (bank version : Nat) (lines : List ProcLine) : State :=
  let e := s.engine p
  let seq := (e.statSeq + 1) % 2 ^ 32
  let counts : Nat → Bool := fun n => n == rec.number || !s.recordDue p n
  let objects := (e.closings.filter counts).length
  let received := lines.filter (fun l => !l.line.missing)
  let cov := coverageOf received
  let bytes := statsRecord seq version rec objects bank (formatChannels (s.formatOf p)) (formatBits (s.formatOf p)) (s.widthOf p) lines
  let s := s.setEngine p { e with statSeq := seq, latest := bytes, closings := e.closings.filter (fun n => !counts n) }
  let s := s.memWrite (s.nat (obj 0x2407 1) + p * 0x19000 + (seq % 16) * 0x1900) bytes
  (((s.putNat (obj 0x2407 (7 + p)) seq).presentCoverage p rec cov.1 cov.2).ledgerStats p rec bytes).feedCapture p rec lines

/-! ### Segmentation -/

/-- The tracked backdrop reference of a port: taken anew where its table was written, or its line has another shape. -/
def State.refOf (s : State) (p : Nat) (ctx : Context) : List (List ℚ) :=
  let e := s.engine p
  let w := s.widthOf p
  let ch := formatChannels (s.formatOf p)
  if e.refVer = ctx.refVer ∧ e.ref.length = w ∧ (e.ref.headD []).length = ch then e.ref else ctx.refTable w ch

/-- What closing a blob does: frame, cut, at the length limit, the blob. -/
abbrev Emit := State → Nat → Bool → Bool → Blob → State

/-- A received line meets the open blobs of its port; `fullAct` takes the runs that found no place. -/
def State.segment (s : State) (p blobLimit lenLimit : Nat) (row : BlobLine) (padded : List Nat) (emit : Emit) (fullAct : State → Nat → State) :
    State :=
  let e := s.engine p
  let j := joinLine blobLimit lenLimit e.gap row padded e.blobs
  let s := s.setEngine p { e with blobs := j.stay, missingRun := 0, gap := none, prevPadded := padded }
  let s := j.close.foldl (fun s b => emit s row.frame false false b) s
  let s := j.atLimit.foldl (fun s b => emit s row.frame false true b) s
  if j.full = 0 then s else fullAct s j.full

/-- Every open blob of a port closes at the last received line (04 R108). -/
def State.cutAll (s : State) (p : Nat) (emit : Emit) : State :=
  let e := s.engine p
  let s := s.setEngine p { e with blobs := [], gap := none, prevPadded := [] }
  e.blobs.foldl (fun s b => emit s ((b.rows.getLast?.map (·.frame)).getD 0) true false b) s

/-- A missing line: one is bridged, the second in a row cuts (04 R108). -/
def State.segmentMissing (s : State) (p : Nat) (l : Line) (emit : Emit) : State :=
  let e := s.engine p
  let gap : BlobLine := { index := l.index, time := l.time, frame := l.frame }
  let s := s.setEngine p { e with missingRun := e.missingRun + 1, gap := some gap, prevPadded := [] }
  if e.missingRun = 0 then s else s.cutAll p emit

/-- A closed blob of P0 or P1: a fix, or discarded below the minimum area (04 R104). -/
def State.emitFix (p : Nat) (s : State) (frame : Nat) (cut atLimit : Bool) (b : Blob) : State :=
  if b.area < s.nat (obj 0x2401 3) then s
  else
    let w := sumN (b.runs.map (·.w))
    let e := s.engine p
    let x := b.toSighting e.lane p (s.widthOf p) frame ((w : ℚ) / b.area) cut atLimit
    let s := s.setEngine p { e with closings := if frame = noFrame then e.closings else e.closings ++ [frame] }
    let s := { s with pipe := { s.pipe with fixOut := s.pipe.fixOut ++ [x] } }
    let s := s.bump (obj 0x2400 2)
    let s := if b.bridged then s.bump (obj 0x2400 5) else s
    let s := if cut then s.bump (obj 0x2400 6) else s
    if atLimit then s.bump (obj 0x2400 7) else s

/-- A closed component of P2 or P3: an upper sighting, tagged with the bank of the frame in which it closes (04 R113, R114, R127), one that
is cut with that of the last frame graded (log entry 166). -/
def State.emitUpper (p : Nat) (s : State) (frame : Nat) (cut atLimit : Bool) (b : Blob) : State :=
  let s := if cut then s.bump (obj 0x2405 0x0B) else s
  let s := if atLimit then s.bump (obj 0x2405 0x0C) else s
  if b.area < s.nat (obj 0x2406 1) then s
  else
    let ch := if formatChannels (s.formatOf p) = 1 then 1 else 4
    let e := s.engine p
    let x := b.toSighting e.lane p (s.widthOf p) frame (sumQ (b.runs.map (·.score)) / b.area) cut atLimit
    let frames := ((b.rows.filter (fun r => !r.runs.isEmpty)).map (·.frame)).dedup
    let s := s.setEngine p { e with closings := e.closings ++ [frame] }
    let claim : Claim := { port := p, frames := frames, sighting := x, handle := none, bank := e.bank, edges := e.edges }
    let s := { s with
      pipe := { s.pipe with
        upperOut := s.pipe.upperOut ++ [(x, b.toImage ch e.procLines)]
        claims := s.pipe.claims ++ [claim] }
      recorder := { s.recorder with sightings := s.recorder.sightings + 1 } }
    s.bump (obj 0x2405 7)

/-- Runs of a Fix line: short runs dropped, gaps bridged, at most 16 in a stripe (04 R102, R103). The pixels of a bridged gap belong to the blob
(log entry 168). -/
def State.fixRuns (s : State) (done : List (Pixel × Bool × Nat)) (padded : List Nat) : List Run × Nat :=
  let raw := maskRuns (done.map (fun d => d.2.1)) 0 none
  let kept := raw.filter (fun r => s.nat (obj 0x2401 1) ≤ r.2 + 1 - r.1)
  let l := limitRuns (bridgeRuns (s.nat (obj 0x2401 2)) none kept)
  (l.1.map (mkRun (fun x => (done.getD x ([], false, 0)).2.2) (fun _ => 0) padded), l.2)

/-- The records of closed frames of P0 or P1 whose lines are all processed (04 R135), with the context version of the frame's last line
(log entry 167). -/
def State.fixStats : Nat → State → Nat → State
  | 0, s, _ => s
  | n + 1, s, p =>
    let e := s.engine p
    match e.closed with
    | [] => s
    | rec :: r =>
      if e.waiting.any (fun l => l.frame == rec.number) then s
      else
        let lines := e.procLines.filter (fun l => l.line.frame == rec.number)
        let version := (lines.getLast?.map (fun l => l.line.ctx.version)).getD (s.context p).version
        let s := s.setEngine p { e with closed := r, procLines := e.procLines.filter (fun l => l.line.frame != rec.number) }
        State.fixStats n (s.completeStats p rec 0xFF version lines) p

/-- The last stripe of a line of P0 or P1 is done: stages 5 and 6, and the tracking of the reference (04 R102, R133). -/
def State.finishFixLine (s : State) (p : Nat) (line : Line) (done : List (Pixel × Bool × Nat)) : State :=
  let s := s.setEngine p { s.engine p with lane := line.ctx.lane }
  let e := s.engine p
  let ref := s.refOf p line.ctx
  let rr := s.fixRuns done (line.padded ++ (if e.gap.isSome then [] else e.prevPadded))
  let s := if rr.2 = 0 then s else ((s.bumpBy (obj 0x2400 3) rr.2).raiseSlow 0x4001 p)
  let mask := done.map (fun d => d.2.1)
  let s2 := done.map (fun d => d.1)
  let s := s.segment p 2048 (s.nat (obj 0x2401 4)) { index := line.index, time := line.time, frame := line.frame, runs := rr.1 } line.padded
    (State.emitFix p) (fun s n => (s.bumpBy (obj 0x2400 4) n).raiseSlow 0x4002 p)
  let e := s.engine p
  s.setEngine p { e with
    refVer := line.ctx.refVer
    ref := trackRef (s.nat (obj 0x2401 5)) ref s2 (fun x => mask.getD x false || line.padded.contains x)
    procLines := if line.frame = noFrame then e.procLines else e.procLines ++ [{ line := line, s2 := s2, s3 := [], mask := mask }] }

/-- Missing lines at the head of a Fix port's queue take no stripe (04 R108). -/
def State.skipMissing : Nat → State → Nat → State
  | 0, s, _ => s
  | n + 1, s, p =>
    let e := s.engine p
    match e.waiting with
    | l :: r =>
      if l.missing then
        let s := s.setEngine p { e with waiting := r, procLines := if l.frame = noFrame then e.procLines else e.procLines ++ [{ line := l }] }
        State.skipMissing n (s.segmentMissing p l (State.emitFix p)) p
      else s
    | [] => s

/-- What follows each line and each frame close of P0 or P1: the open blobs of a port that is LOST or stopped close (04 R108). -/
def State.settleFix (s : State) (p : Nat) : State :=
  let s := State.skipMissing ((s.engine p).waiting.length + 1) s p
  let s := State.fixStats ((s.engine p).closed.length + 1) s p
  if (s.cam p).state == .streaming || (s.cam p).line.isSome || !(s.engine p).waiting.isEmpty then s else s.cutAll p (State.emitFix p)

/-- A line of P2 or P3 in the frame part (04 R112, R113, R133). A run for which no component is left is dropped (log entry 169). The NIR
sample of a camera with three channels, and its reference, count as 0 (log entry 127). -/
def State.gradeLine (p : Nat) (ctx : Context) (s : State) (line : Line) : State :=
  if line.missing then
    let e := s.engine p
    (s.setEngine p { e with procLines := e.procLines ++ [{ line := line }] }).segmentMissing p line (State.emitUpper p)
  else
    let ch := formatChannels (s.formatOf p)
    let bits_ := formatBits (s.formatOf p)
    let s := s.setEngine p { s.engine p with lane := ctx.lane, edges := ctx.edges, bank := s.pipe.frameBank }
    let ref := s.refOf p ctx
    let s2 := (List.range (s.widthOf p)).map (fun x =>
      let q := ctx.pixel2 ch bits_ x (line.pixels.getD x [])
      if ch = 3 then q ++ [0] else q)
    let s3 := s2.map (ctx.pixel3 ch)
    let score := (List.range s3.length).map (fun x => ctx.segScore ch (ref.getD x []) (s3.getD x []))
    let mask := (List.range s3.length).map (fun x => !line.padded.contains x && (ctx.segThreshold : ℚ) ≤ score.getD x 0)
    let e := s.engine p
    let runs := (maskRuns mask 0 none).map (mkRun (fun _ => 1) (fun x => score.getD x 0)
      (line.padded ++ (if e.gap.isSome then [] else e.prevPadded)))
    let s := s.setEngine p { e with
      refVer := ctx.refVer
      ref := trackRef (s.nat (obj 0x2406 3)) ref s3 (fun x => mask.getD x false || line.padded.contains x)
      procLines := e.procLines ++ [{ line := { line with ctx := ctx }, s2 := s2, s3 := s3, mask := mask }] }
    s.segment p 8192 (s.nat (obj 0x2406 2)) { index := line.index, time := line.time, frame := line.frame, runs := runs } line.padded
      (State.emitUpper p) (fun s _ => s)

/-- Lines that no open component reaches are let go. -/
def State.pruneLines (s : State) (p : Nat) : State :=
  let e := s.engine p
  let first := (e.blobs.filterMap (fun b => b.rows.head?.map (·.index))).foldl (fun m i => match m with | none => some i | some j => some (min i j)) none
  s.setEngine p { e with procLines := match first with | none => [] | some i => e.procLines.filter (fun l => i ≤ l.line.index) }

/-- A LOST or stopped upper port with no line left to grade closes its components (04 R108), with the tables of the frame of their last line
(04 R110). -/
def State.settleGrade (s : State) (p : Nat) : State :=
  if (s.cam p).state == .streaming || (s.cam p).line.isSome || s.pipe.frames.any (fun f => f.port == p && !f.finished)
      || (s.cam p).frames.any (fun f => f.lines.any (fun l => !l.missing)) then s
  else ((s.cutAll p (State.emitUpper p)).pruneLines p).releaseFrames

/-! ### Bank swaps (04 R127) -/

/-- A bank is tagged on an object still to be classified. -/
def State.bankTagged (s : State) (b : Nat) : Bool :=
  s.pipe.claims.any (fun c => c.bank == b) || s.pipe.objQueue.any (fun j => j.bank == b) || s.pipe.chipQueue.any (fun j => j.bank == b)
  || s.pipe.objWork.any (fun j => j.bank == b)
  || (s.pipe.current.isSome && s.pipe.frameBank == b)

/-- The old bank is still in use. -/
def State.oldBankInUse (s : State) : Bool := s.bankTagged (1 - s.pipe.active)

/-- A bank takes no write and no load (04 R126). -/
def State.bankClosed (s : State) (b : Nat) : Bool := b == s.pipe.active || s.bankTagged b || s.pipe.swapPending

/-- The swap takes effect at a frame of a port, or at once while the frame part is idle (port 0xFF). -/
def State.swapBanks (s : State) (number : Option Nat) (port : Nat) : State :=
  let a := 1 - s.pipe.active
  let s := { s with pipe := { s.pipe with active := a, swapPending := false } }
  let s := match number with | some n => s.putNat (obj 0x2500 4) n | none => s
  ((s.putNat (obj 0x2500 5) port).bump (obj 0x2500 6)).raise 0x4009 a

end Sys2Proof.Machine
end

