-- ==== Sys2Proof/Machine/Panels.lean ====
section
/-!
DEFINITION. The backdrop's operations (10): cells and levels, waveform pairs and the charge ledger, region and panel runs, rails, strip, strobes.
-/
namespace Sys2Proof.Machine

/-! ### Cells (10 R283 to R285) -/

/-- Columns of a panel. -/
def State.panelCols (s : State) : Nat := match s.variant with | .aeh2564 => 512 | .aeh1282 => 256
/-- The key of a cell. -/
abbrev cellKey (row col : Nat) : Nat := row * 512 + col
def State.panel (s : State) (p : Nat) : Panel := s.backdrop.panels.getD p {}
def State.setPanel (s : State) (p : Nat) (x : Panel) : State :=
  { s with backdrop := { s.backdrop with panels := s.backdrop.panels.set p x } }
def levelAt (l : List (Nat × Nat)) (k : Nat) : Nat := (assocGet l k).getD 0

/-- A cell of the reference strip (10 R285). -/
def State.onReference (s : State) (row col : Nat) : Bool :=
  let w := s.nat (obj 0x2B01 3)
  row ≤ 27 && (col < w || s.panelCols ≤ col + w)

/-- The tone of a cell in an image (10 R296). -/
def toneAt (cols : Nat) (img : List Byte) (row col : Nat) : Nat :=
  let b := field img (0x20 + (row * cols + col) / 2) 1
  if col % 2 = 0 then b % 16 else b / 16

/-- The image of a slot, 1 to 8. -/
def State.imageSlot (s : State) (k : Nat) : List Byte := s.byteVal (obj 0x2B10 k)

/-- The level a request drives a cell to; the reference strip takes its own. -/
def State.targetLevel (s : State) (r : RegionReq) (row col : Nat) : Nat :=
  if s.onReference row col then s.nat (obj 0x2B01 4)
  else
    match r.target with
    | .image k => toneAt s.panelCols (s.imageSlot k) row col
    | .level n => n

/-- Rows and columns of a rectangle. -/
def RegionReq.cells (r : RegionReq) : List (Nat × Nat) :=
  (List.range (r.r1 + 1 - r.r0)).flatMap (fun y => (List.range (r.c1 + 1 - r.c0)).map (fun x => (r.r0 + y, r.c0 + x)))

def RegionReq.overlaps (a b : RegionReq) : Bool :=
  a.panel == b.panel && a.c0 ≤ b.c1 && b.c0 ≤ a.c1 && a.r0 ≤ b.r1 && b.r0 ≤ a.r1

/-! ### Waveforms (10 R286 to R288) -/

/-- Pair count and pair `k` of transition `t`. -/
def waveCount (tab : List Byte) (t : Nat) : Nat := field tab (0x40 + t) 1
def wavePair (tab : List Byte) (t k : Nat) : Nat := field tab (0x140 + 32 * t + 2 * k) 2
def pairDrive (e : Nat) : Nat := bits e 14 13
def pairNegative (e : Nat) : Bool := bitOf e 15
def pairBalance (e : Nat) : Nat := bits e 12 8
def pairLevel (e : Nat) : Nat := bits e 3 0

/-- The table is acceptable (10 R288). -/
def waveformOk (d : List Byte) : Bool :=
  d.length == 8512 && field d 0 2 == 1 && field d 2 2 == 0 && field d 8 4 == 0x2140 && field d 0xC 4 == crc32 (d.drop 0x40)
  && allZero (slice d 0x10 48)
  && (List.range 256).all (fun t =>
      let n := waveCount d t
      n ≤ 16 && (n != 0 || t / 16 == t % 16) && (n == 0 || pairLevel (wavePair d t (n - 1)) == t % 16)
      && (List.range 16).all (fun k =>
          let e := wavePair d t k
          bits e 7 4 == 0 && pairDrive e + pairBalance e ≤ 16))

/-- The level of a cell after `k` pairs of a transition. -/
def levelAfter (tab : List Byte) (from_ to_ k : Nat) : Nat :=
  let t := 16 * from_ + to_
  let n := waveCount tab t
  if k = 0 then from_ else if n < k then to_ else pairLevel (wavePair tab t (k - 1))

/-! ### Charge ledger (10 R290, R291) -/

/-- Trim of a cell, 0 to 31. -/
def State.trimAt (s : State) (panel row col : Nat) : Nat :=
  let m := s.byteVal (obj 0x2B04 (panel + 1))
  if m.isEmpty then 16 else field m (0x20 + row * s.panelCols + col) 1 % 32

/-- The charge after a pair with correction `c`. -/
def chargeWith (q : Int) (nd nb w : Nat) (c : Int) : Int :=
  q + (4 * (nd : Int) - clampI 0 (16 - nd : Nat) ((nb : Int) + c)) * w

/-- The correction of a pair (10 R291): the one that leaves the smallest |Q|, the smaller |c| on ties. -/
def correction (q : Int) (nd nb w : Nat) : Int :=
  [0, -1, 1, -2, 2].foldl (fun (b : Int) c =>
    if (chargeWith q nd nb w c).natAbs < (chargeWith q nd nb w b).natAbs then c else b) 0

/-- The charge after a pair. -/
def nextCharge (q : Int) (nd nb w : Nat) : Int := chargeWith q nd nb w (correction q nd nb w)

/-- The balancing scans applied in a pair: n_b + c, clamped to 0 to 16 − n_d (10 R291). -/
def balanceScans (q : Int) (nd nb w : Nat) : Nat := (clampI 0 (16 - nd : Nat) ((nb : Int) + correction q nd nb w)).toNat

/-! ### Phases of a pair (10 R286, R289) -/

/-- A cell of class B, which balances first, by the inversion mode (10 R289). -/
def classB (mode row col : Nat) : Bool :=
  match mode with
  | 0 => false
  | 1 => row % 2 == 1
  | _ => (row + col) % 2 == 1

/-- What a cell gets in scan `k` of a pair, in quarters of 15 V (10 R286, R289): the drive phase, the balancing phase at the opposite polarity
and a quarter of the voltage, and rest. -/
def phaseDrive (balanceFirst negative : Bool) (nd nb k : Nat) : Int :=
  let drive : Int := if negative then -4 else 4
  let balance : Int := if negative then 1 else -1
  if balanceFirst then (if k < nb then balance else if k < nb + nd then drive else 0)
  else if k < nd then drive else if k < nd + nb then balance else 0

/-! ### The ledger's blocks in FRAM (10 R291) -/

/-- The block of 32 cells, in cell order, that a cell lies in. -/
def State.blockOf (s : State) (row col : Nat) : Nat := (row * s.panelCols + col) / 32

/-- The 64 bytes of a block: its charges, little-endian. -/
def State.blockBytes (s : State) (p : Panel) (b : Nat) : List Byte :=
  (List.range 32).flatMap (fun i =>
    let n := 32 * b + i
    leBytes 2 ((((assocGet p.charge (cellKey (n / s.panelCols) (n % s.panelCols))).getD 0) % 65536).toNat))

/-- The blocks of some cells are written, each with its CRC-16. -/
def State.sealBlocks (s : State) (p : Panel) (cells : List (Nat × Nat)) : Panel :=
  let blocks := (cells.map (fun c => s.blockOf c.1 c.2)).eraseDups
  { p with crcs := blocks.foldl (fun l b => assocSet l b (crc16 (s.blockBytes p b))) p.crcs }

/-- Every block of a panel passes its CRC; a block that nothing has written holds zeros. -/
def State.blocksOk (s : State) (p : Panel) : Bool :=
  p.crcs.all (fun e => crc16 (s.blockBytes p e.1) == e.2)

/-- One cell's step: its level, its charge, and whether the charge saturated. -/
def State.cellStep (s : State) (tab : List Byte) (r : RegionRun) (p : Panel) (row col : Nat) : Panel × Bool :=
  let key := cellKey row col
  let from_ := levelAt r.start key
  let to_ := s.targetLevel r.req row col
  let t := 16 * from_ + to_
  if waveCount tab t ≤ r.pairs then (p, false)
  else
    let e := wavePair tab t r.pairs
    let q := nextCharge ((assocGet p.charge key).getD 0) (pairDrive e) (pairBalance e) (48 + s.trimAt r.req.panel row col)
    let lv := pairLevel e
    let qc := clampI (-32768) 32767 q
    ({ p with
        levels := if lv = 0 then assocErase p.levels key else assocSet p.levels key lv
        charge := if qc = 0 then assocErase p.charge key else assocSet p.charge key qc }, qc ≠ q)

/-- What a cell of a run gets in scan `k` of the pair in progress: none while it rests. -/
def State.cellScan (s : State) (tab : List Byte) (r : RegionRun) (k row col : Nat) : Option (Nat × Int × Nat) :=
  let key := cellKey row col
  let t := 16 * levelAt r.start key + s.targetLevel r.req row col
  if waveCount tab t ≤ r.pairs then none
  else
    let e := wavePair tab t r.pairs
    let w := 48 + s.trimAt r.req.panel row col
    let nb := balanceScans ((assocGet (s.panel r.req.panel).charge key).getD 0) (pairDrive e) (pairBalance e) w
    let x := phaseDrive (classB (s.nat (obj 0x2B01 1)) row col) (pairNegative e) (pairDrive e) nb k
    if x = 0 then none else some (key, x, w)

/-- The cells of a run at a scan. -/
def State.runScan (s : State) (r : RegionRun) : List (Nat × Int × Nat) :=
  match r.pairAt with
  | some t => r.req.cells.filterMap (fun c =>
      s.cellScan (s.byteVal (obj 0x2B03 (r.req.panel + 1))) r ((s.clk - t) / msTicks) c.1 c.2)
  | none => []

/-- Pairs that a run needs in all. -/
def State.runPairs (s : State) (r : RegionRun) : Nat :=
  let tab := s.byteVal (obj 0x2B03 (r.req.panel + 1))
  (r.req.cells.map (fun c => waveCount tab (16 * levelAt r.start (cellKey c.1 c.2) + s.targetLevel r.req c.1 c.2))).foldl max 0

/-- The end of one pair of a run: levels and charges of its cells; saturations are counted (10 R291). -/
def State.pairOf (s : State) (r : RegionRun) : State :=
  let tab := s.byteVal (obj 0x2B03 (r.req.panel + 1))
  let out := r.req.cells.foldl (fun (a : Panel × Nat) c =>
    let x := s.cellStep tab r a.1 c.1 c.2
    (x.1, a.2 + boolNat x.2)) (s.panel r.req.panel, 0)
  let s := s.setPanel r.req.panel (s.sealBlocks out.1 r.req.cells)
  if out.2 = 0 then s else (s.bumpBy (obj 0x2B00 0x0B) out.2).raiseSlow 0x9007 r.req.panel

/-! ### Rails (10 R297, R298) -/

/-- Nominal values in mV, in the order of power-up; VCOM is the trim of each panel. -/
def railNominal (k : Nat) : Int :=
  match k with | 1 => 3300 | 2 => -15000 | 3 => 15000 | 4 => -20000 | 5 => 22000 | _ => 0

/-- Something needs the rails. -/
def State.panelsBusy (s : State) : Bool :=
  s.backdrop.slots.any (fun x => x.run.isSome) || s.backdrop.run.isSome || s.backdrop.stripRun.isSome

/-- The rectangles of a phase. -/
def PanelPhase.rects : PanelPhase → List RegionReq
  | .clear rs => rs
  | .drive rs => rs

/-- A run drives this panel in its present phase or in one to come. -/
def PanelRun.onPanel (r : PanelRun) (p : Nat) : Bool := (r.phase :: r.rest).any (fun ph => ph.rects.any (fun q => q.panel == p))

/-- An update or a run drives a panel. -/
def State.panelRunning (s : State) (p : Nat) : Bool :=
  (s.backdrop.run.elim false (·.onPanel p)) || s.backdrop.slots.any (fun x => match x.run with | some r => r.req.panel == p | none => false)

/-- Every rail that is on goes off at once, in the power-down order (10 R298). -/
def State.railsOff (s : State) : State :=
  (List.range s.backdrop.rails.step).foldl (fun a i => a.emit (.rail (s.backdrop.rails.step - i) false)) s

/-- The rails go off in the power-down order from clock `t` on, 1 ms after one another (10 R297; R304 step 6). What each rail has fallen to is
not read here (log entry 173). -/
def State.railsDown (s : State) (t : Nat) : State :=
  let n := s.backdrop.rails.step
  let s := (List.range n).foldl (fun (a : State) i => (a.atClk (t + i * msTicks)).emit (.rail (n - i) false)) s
  if n = 0 then s else { s with backdrop := { s.backdrop with rails := {} } }

/-- A rail fault (10 R298): every rail that is on goes off. -/
def State.railFault (s : State) (rail : Nat) : State :=
  let hit := fun p => s.panelRunning p || (p == 0 && (match s.backdrop.stripRun with | some (some _) => true | _ => false))
  let s := s.railsOff
  let s := { s with backdrop := { s.backdrop with
    rails := { state := 4, step := 0, since := s.clk }
    slots := s.backdrop.slots.map (fun (x : RegionSlot) => { x with run := none, next := none })
    run := none, stripRun := none
    panels := (List.range 2).map (fun p =>
      let x : Panel := (s.backdrop.panels.getD p {})
      ({ x with fault := true, ledgerValid := x.ledgerValid && !hit p } : Panel)) } }
  (s.bump (obj 0x2B00 0x0C)).raise 0x9004 rail

/-- Request the rails where they are off: the panel IDs are read, and a panel that does not answer is a rail fault (19 R513); else VDDP is on at
once. -/
def State.requestRails (s : State) : State :=
  if s.backdrop.rails.state ≠ 0 then s
  else if s.backdrop.flex.any (·.isNone) then s.railFault 0
  else { s with backdrop := { s.backdrop with rails := { state := 1, step := 1, since := s.clk } } }.emit (.rail 1 true)

/-! ### Region requests (10 R293 to R295) -/

/-- The request that a slot's fields name. -/
def State.regionFields (s : State) (r : Nat) : RegionReq :=
  let f := fun i => s.nat (obj (0x2B20 + r) i)
  { panel := f 1, c0 := f 2, c1 := f 3, r0 := f 4, r1 := f 5, target := .image (f 6) }

/-- The first cause that refuses a request (10 R294), or 0. -/
def State.regionCause (s : State) (slot : Nat) (q : RegionReq) : Nat :=
  if s.panelCols ≤ q.c1 || q.c1 < q.c0 || 31 < q.r1 || q.r1 < q.r0 || (q.panel == 0 && 28 ≤ q.r1) then 1
  else if (match q.target with | .image k => (s.imageSlot k).isEmpty | .level _ => false) then 2
  else if (List.range 8).any (fun i => i != slot &&
      (let x := s.backdrop.slots.getD i {}
       (match x.run with | some r => r.req.overlaps q | none => false)
       || (match x.next with | some r => r.overlaps q | none => false)))
      || (match s.backdrop.run with | some r => !r.recovery | none => false) then 3
  else if s.backdrop.run.elim false (fun r => r.recovery && r.onPanel q.panel) || s.backdrop.rails.state == 4 || s.backdrop.powerFail || s.power.moorAt.isSome then 4
  else 0

/-- The slot after a pair, from which the panels are idle unless another runs. -/
def State.leaveSlot (s : State) (i : Nat) (x : RegionSlot) : State :=
  { s with backdrop := { s.backdrop with slots := s.backdrop.slots.set i x, idleAt := s.clk } }

/-- An update begins from the levels that its panel shows, its first pair at clock `first` or at the next scan boundary. One that needs no
pair is complete (10 R293; log entry 174). -/
def State.startUpdate (s : State) (i : Nat) (x : RegionSlot) (q : RegionReq) (first : Option Nat) : State :=
  let run : RegionRun := { req := q, start := (s.panel q.panel).levels, pairAt := first }
  if s.runPairs run = 0 then (s.leaveSlot i { x with run := none, next := none }).bump (obj 0x2B00 6)
  else s.leaveSlot i { x with run := some run, next := none }

/-- The action of a write of 1 to :07 of a slot. -/
def actRegionGo (slot : Nat) (s : State) : State × Nat :=
  let q := s.regionFields slot
  let c := s.regionCause slot q
  let x := s.backdrop.slots.getD slot {}
  if c ≠ 0 then
    let s := { s with backdrop := { s.backdrop with slots := s.backdrop.slots.set slot { x with cause := c } } }
    (((s.bump (obj 0x2B00 8)).raiseSlow 0x9003 slot), if c = 1 then abortRange else abortState)
  else
    match x.run with
    | some _ =>
      let s := if x.next.isSome then s.bump (obj 0x2B00 7) else s
      ({ s with backdrop := { s.backdrop with slots := s.backdrop.slots.set slot { x with next := some q } } }, 0)
    | none => ((s.startUpdate slot x q none).requestRails, 0)

/-- The end of a pair of a region slot (10 R293, R295, R304): the update whose last pair this is has completed. -/
def State.slotPair (s : State) (i : Nat) : State :=
  let x := s.backdrop.slots.getD i {}
  match x.run with
  | some r =>
    match r.pairAt with
    | some t =>
      let s := (s.atClk (t + 16 * msTicks)).pairOf r
      let done := r.pairs + 1
      let ended := s.runPairs r ≤ done
      let s := if ended then s.bump (obj 0x2B00 6) else s
      if s.backdrop.powerFail then
        let j := s.backdrop.journal.map (fun e => if e.slot = i then { e with confirmed := true } else e)
        let s := s.leaveSlot i { x with run := none, next := none }
        { s with backdrop := { s.backdrop with journal := j } }
      else
        match x.next with
        | some q => s.startUpdate i x q (some s.clk)
        | none =>
          if ended then s.leaveSlot i { x with run := none }
          else s.leaveSlot i { x with run := some { r with pairs := done, pairAt := some s.clk } }
    | none => s
  | none => s

/-! ### Runs over whole panels and journalled rectangles (10 R292, R303, R305) -/

/-- Rows 0 to 27 of both panels at calibration grey. -/
def State.greyRects (s : State) : List RegionReq :=
  [0, 1].map (fun p => { panel := p, c1 := s.panelCols - 1, r1 := 27, target := .level (s.nat (obj 0x2B01 2)) })

/-- Both panels at their home images; 0 means calibration grey, and an empty slot drives nothing. -/
def State.homeRects (s : State) : List RegionReq :=
  [0, 1].flatMap (fun p =>
    let k := s.nat (obj 0x2B01 (6 + p))
    if k = 0 then [{ panel := p, c1 := s.panelCols - 1, r1 := 27, target := .level (s.nat (obj 0x2B01 2)) }]
    else if (s.imageSlot k).isEmpty then []
    else [{ panel := p, c1 := s.panelCols - 1, r1 := if p = 0 then 27 else 31, target := .image k }])

/-- Every cell of both panels. -/
def State.allRects (s : State) : List RegionReq := [0, 1].map (fun p => { panel := p, c1 := s.panelCols - 1, r1 := 31 })

/-- Begin the next phase of a run, or none. -/
def State.beginPhase (s : State) (run : PanelRun) (ph : PanelPhase) (rest : List PanelPhase) : PanelRun :=
  { run with
    phase := ph, rest := rest, pairs := 0
    runs := match ph with
      | .clear _ => []
      | .drive rs => rs.map (fun q => { req := q, start := (s.panel q.panel).levels }) }

/-- Pairs in a phase: 112 of the clear cycle, or what the slowest cell of a drive needs. -/
def State.phasePairs (s : State) (run : PanelRun) : Nat :=
  match run.phase with
  | .clear _ => 112
  | .drive _ => (run.runs.map s.runPairs).foldl max 0

/-- Set every cell of rectangles to a level, and their charge to 0 at the end of a clear. -/
def State.setCells (s : State) (rects : List RegionReq) (level : Nat) (clearCharge : Bool) : State :=
  rects.foldl (fun s q =>
    let p := s.panel q.panel
    let inside := fun (k : Nat) => q.r0 ≤ k / 512 && k / 512 ≤ q.r1 && q.c0 ≤ k % 512 && k % 512 ≤ q.c1
    let keep := p.levels.filter (fun e => !inside e.1)
    let levels := if level = 0 then keep else q.cells.foldl (fun l c => assocSet l (cellKey c.1 c.2) level) keep
    let x : Panel := { p with levels := levels }
    s.setPanel q.panel (
      if clearCharge then s.sealBlocks { x with charge := p.charge.filter (fun e => !inside e.1) } q.cells else x)) s

/-- A run that drives calibration grey (10 R303). -/
def PanelRun.grey (r : PanelRun) : Bool :=
  !r.runs.isEmpty && r.runs.all (fun x => match x.req.target with | .level _ => true | .image _ => false)

/-- Both panels have reached calibration grey: hold bit [2] is released, and a grey capture samples the lines triggered from now on
(10 R303). -/
def State.reachGrey (s : State) : State :=
  { s with
    backdrop := { s.backdrop with greyReached := true, atGrey := true }
    pipe := { s.pipe with capture := s.pipe.capture.map (fun (c : Capture) =>
      if c.code = 2 then { c with ports := c.ports.map (fun (q : CapturePort) => { q with first := (s.cam q.port).nextIndex }) } else c) } }

/-- The end of a run: a recovery erases the journal and raises its events; a panel command of grey has reached it. -/
def State.endRun (s : State) (run : PanelRun) : State :=
  let s := { s with backdrop := { s.backdrop with run := none, idleAt := s.clk } }
  if run.recovery then
    let s := { s with backdrop := { s.backdrop with journal := [] } }
    if run.counted then (s.bump (obj 0x2B00 0x0A)).raiseAs 0x9002 run.severity 0 (genericCode 0x9002) else s
  else if run.grey then s.reachGrey
  else s

/-- Phases that need no pair are passed over; the Bool says that the run has ended. -/
def State.settlePhase : Nat → State → PanelRun → State × Bool
  | 0, s, run => ({ s with backdrop := { s.backdrop with run := some run } }, false)
  | n + 1, s, run =>
    if run.pairs < s.phasePairs run then ({ s with backdrop := { s.backdrop with run := some run } }, false)
    else
      match run.rest with
      | [] => (s.endRun run, true)
      | ph :: rest => State.settlePhase n s (s.beginPhase run ph rest)

/-- The end of a pair of the run; the Bool says that the run has ended. -/
def State.runPair (s : State) : State × Bool :=
  match s.backdrop.run with
  | some run =>
    match run.pairAt with
    | some t =>
      let s := s.atClk (t + 16 * msTicks)
      let done := run.pairs + 1
      let s := match run.phase with
        | .clear rects => s.setCells rects (if done % 2 = 1 then 15 else 0) (decide (done = 112))
        | .drive _ => run.runs.foldl (fun s (r : RegionRun) => s.pairOf { r with pairs := run.pairs }) s
      let s := match run.phase with
        | .clear rects =>
          if done = 112 then
            let s := (s.bump (obj 0x2B00 9)).raise 0x9001 rects.length
            let whole := rects.all (fun q => q.r1 == 31 && q.c0 == 0) && rects.length == 2
            if whole then
              let b := s.backdrop
              { s with backdrop := { s.backdrop with
                strip := []
                panels := (List.range 2).map (fun p =>
                  { b.panels.getD p {} with ledgerValid := true, storedId := some (s.nat (obj 0x2B00 (0x0E + p))) }) } }
            else s
          else s
        | .drive _ => s
      if s.backdrop.powerFail then
        let j := s.backdrop.journal.map (fun (e : JournalEntry) => if 8 ≤ e.slot then { e with confirmed := true } else e)
        ({ s with backdrop := { s.backdrop with run := none, journal := j } }, false)
      else
        State.settlePhase (run.rest.length + 2) s { run with pairs := done, pairAt := some s.clk }
    | none => (s, false)
  | none => (s, false)

/-- The action of a panel command (10 R303). -/
def State.panelCommand (s : State) (rects : List RegionReq) : State × Nat :=
  if s.panelsBusy && (s.backdrop.run.isSome || s.backdrop.slots.any (fun x => x.run.isSome || x.next.isSome))
      || s.backdrop.rails.state == 4 || s.backdrop.powerFail || s.power.moorAt.isSome then (s, abortState)
  else
    let s := { s with backdrop := { s.backdrop with atGrey := false } }
    let run : PanelRun := s.beginPhase { phase := .drive rects } (.drive rects) []
    let r := State.settlePhase 1 s run
    (if r.2 then r.1 else r.1.requestRails, 0)
def actPanelGrey (s : State) : State × Nat := s.panelCommand s.greyRects
def actPanelHome (s : State) : State × Nat := s.panelCommand s.homeRects

/-- A block of the FRAM area reads damaged: its CRC fails (10 R292). -/
def Panel.damage (p : Panel) (b : Nat) : Panel := { p with crcs := assocSet p.crcs b (((assocGet p.crcs b).getD 0 + 1) % 65536) }

/-- The start of the panel driver (10 R292, R305), with the panel IDs read from the flexes and the blocks that read damaged. -/
def State.startPanels (s : State) (flex : List (Option Nat)) (badBlocks : List (Nat × Nat)) : State :=
  let s := badBlocks.foldl (fun s e => s.setPanel e.1 ((s.panel e.1).damage e.2)) s
  let b := s.backdrop
  let id := fun p => (flex.getD p none).getD 0
  let changed := (List.range 2).filter (fun p => match (b.panels.getD p {}).storedId with | some i => i != id p | none => false)
  let bad := (List.range 2).any (fun p =>
    let x := b.panels.getD p {}
    !x.ledgerValid || !s.blocksOk x || x.storedId != some (id p)) || b.journal.any (fun e => !e.confirmed)
  let s := { s with backdrop := { s.backdrop with
    flex := flex
    panels := b.panels.map (fun (p : Panel) => { p with fault := false }), slots := List.replicate 8 {}, run := none, rails := {}
    powerFail := false, greyReached := false, atGrey := false, stripRun := none } }
  let s := (s.putNat (obj 0x2B00 0x0E) (id 0)).putNat (obj 0x2B00 0x0F) (id 1)
  let s := changed.foldl (fun s p => s.raise 0x900A p) s
  let rects := b.journal.map (·.req)
  let stale := b.journal.any (fun e => match e.req.target with | .image k => field (s.imageSlot k) 4 4 != e.imageId | .level _ => false)
  let base : PanelRun :=
    { recovery := true, phase := .clear [], counted := !b.journal.isEmpty, severity := if stale then 2 else 1 }
  let go := fun (s : State) (ph : PanelPhase) (rest : List PanelPhase) =>
    ({ s with backdrop := { s.backdrop with run := some (s.beginPhase base ph rest) } }).requestRails
  if bad then
    let s := { s with backdrop := { s.backdrop with panels := s.backdrop.panels.map (fun (p : Panel) => { p with ledgerValid := false }) } }
    go s (.clear s.allRects) ([.drive s.homeRects] ++ (if rects.isEmpty then [] else [.drive rects]))
  else if rects.isEmpty then s
  else go s (.clear rects) [.drive rects]

/-- A strobe pulse in progress ends (10 R304 step 1). -/
def State.cutPulse (s : State) (n : Nat) : State :=
  let x : StrobeCh := s.backdrop.strobes.getD n {}
  if s.clk < x.pulseEnd then
    { s with backdrop := { s.backdrop with strobes := s.backdrop.strobes.set n { x with pulseEnd := s.clk } } }.emit (.strobe n s.tick 0 0)
  else s

/-- The power-fail warning at the panel driver (10 R304 steps 1 to 3): pulses and pairs that wait end; a strip pair in progress completes as
other pairs do. -/
def State.panelPowerFail (s : State) : State :=
  let s := [0, 1, 2, 3].foldl State.cutPulse s
  let b := s.backdrop
  let idOf : RegionReq → Nat := fun q => match q.target with | .image k => field (s.imageSlot k) 4 4 | .level _ => 0
  let slots : List JournalEntry := (List.range 8).filterMap (fun i =>
    match (b.slots.getD i {}).run with
    | some r => some ({ slot := i, req := r.req, imageId := idOf r.req, pair := r.pairs + 1, confirmed := r.pairAt.isNone } : JournalEntry)
    | none => none)
  let whole : List JournalEntry := match b.run with
    | some r =>
      if r.recovery then []
      else r.runs.map (fun x =>
        { slot := 8, req := x.req, imageId := idOf x.req, pair := r.pairs + 1, confirmed := r.pairAt.isNone })
    | none => []
  let waiting : RegionSlot → RegionSlot := fun x =>
    { x with next := none, run := match x.run with | some r => if r.pairAt.isNone then none else some r | none => none }
  { s with backdrop := { s.backdrop with
    powerFail := true
    journal := b.journal ++ slots ++ whole
    slots := b.slots.map waiting
    run := match b.run with | some r => if r.pairAt.isNone then none else some r | none => none
    stripRun := match b.stripRun with | some (some t) => some (some t) | _ => none } }

/-- The main side goes off: the panel rails that are still on go off, and what ran is gone. -/
def State.panelsDown (s : State) : State :=
  let s := s.railsOff
  { s with backdrop := { s.backdrop with rails := {}, slots := List.replicate 8 {}, run := none, stripRun := none } }

/-! ### Status strip (10 R299, R300) -/

/-- A character as the font shows it. -/
def stripChar (c : Nat) : Nat :=
  let u := if 0x61 ≤ c ∧ c ≤ 0x7A then c - 0x20 else c
  if (0x30 ≤ u ∧ u ≤ 0x39) ∨ (0x41 ≤ u ∧ u ≤ 0x5A) ∨ u = 0x2D then u else 0x20

def hexDigit (n : Nat) : Nat := if n < 10 then 0x30 + n else 0x37 + n

def stateWord : ModState → String
  | .moored => "MOOR" | .waking => "WAKE" | .idle => "IDLE" | .calibrating => "CALB" | .sorting => "SORT" | .recovery => "RCVY"
  | .fault => "FALT"

/-- The content of the strip for a module state. -/
def State.stripText (s : State) (st : ModState) : List Nat :=
  let id := s.strand.id
  let code := s.backdrop.stripCode
  let host := s.byteVal (obj 0x2B30 1)
  let line := [hexDigit (bits id 11 8), hexDigit (bits id 7 4), hexDigit (bits id 3 0), 0x20]
    ++ (stateWord st).toList.map (fun c => c.toNat) ++ [if s.thermal.derated then 0x44 else 0x20, 0x20]
    ++ (if s.backdrop.stripAcked || code = 0 then [0x2D, 0x2D, 0x2D, 0x2D]
        else [hexDigit (bits code 15 12), hexDigit (bits code 11 8), hexDigit (bits code 7 4), hexDigit (bits code 3 0)])
    ++ [0x20] ++ (List.range 32).map (fun i => match host[i]? with | some b => stripChar b.toNat | none => 0x20)
  let width := s.panelCols / 4
  line ++ List.replicate (width - line.length) 0x20

/-- The level of a strip cell for a text (10 R299): glyphs of 3 columns and 4 rows at level 0 on level 15, character i at column 4i. -/
def stripLevel (text : List Nat) (row col : Nat) : Nat :=
  if col % 4 < 3 && Config.glyph (text.getD (col / 4) 0x20) (row - 28) (col % 4) then 0 else 15

/-- The strip's cells, rows 28 to 31 of BF. -/
def State.stripCells (s : State) : List (Nat × Nat) :=
  (List.range 4).flatMap (fun y => (List.range s.panelCols).map (fun x => (28 + y, x)))

/-- The strip stands at a text. -/
def State.drawStrip (s : State) (text : List Nat) : State :=
  let p := s.panel 0
  let levels := s.stripCells.foldl (fun l c =>
    if stripLevel text c.1 c.2 = 0 then assocErase l (cellKey c.1 c.2) else assocSet l (cellKey c.1 c.2) (stripLevel text c.1 c.2)) p.levels
  s.setPanel 0 { p with levels := levels }

/-- The strip path of the island (10 R301): it draws a text itself, with the converter fed from V_SB in the rail order. -/
def State.islandDraw (s : State) (text : List Nat) : State :=
  let s := { s with backdrop := { s.backdrop with strip := text, stripAt := some s.clk } }.drawStrip text
  let s := [1, 2, 3, 4, 5, 6].foldl (fun s k => s.emit (.rail k true)) s
  let s := s.emit (.strip text)
  [6, 5, 4, 3, 2, 1].foldl (fun s k => s.emit (.rail k false)) s

/-- The word of a state in which the main side cannot write the strip stands on it all the same (12 R335, R341 step 1; log entry 176). Without
V_SB the island cannot write. -/
def State.islandStrip (s : State) (st : ModState) : State :=
  if s.power.vsb && s.stripText st != s.backdrop.strip then s.islandDraw (s.stripText st) else s

/-- Scan `k` of the strip's pair (10 R300): n_d = 3 and n_b = 12 for the cells that change, rest for the others. -/
def State.stripScan (s : State) (k : Nat) : List (Nat × Int × Nat) :=
  s.stripCells.filterMap (fun c =>
    let to_ := stripLevel s.backdrop.stripNext c.1 c.2
    if levelAt (s.panel 0).levels (cellKey c.1 c.2) = to_ then none
    else
      let x := phaseDrive (classB (s.nat (obj 0x2B01 1)) c.1 c.2) ((to_ == 0) == Config.stripDarkNegative) 3 12 k
      if x = 0 then none else some (cellKey c.1 c.2, x, 48 + s.trimAt 0 c.1 c.2))

/-- What a cell gets in scan `k` of a pair of the clear cycle (10 R286, R289, R292). -/
def State.clearScan (s : State) (pairs k p row col : Nat) : Option (Nat × Int × Nat) :=
  let e := Config.clearPair pairs
  let nd := pairDrive e
  let x := phaseDrive (classB (s.nat (obj 0x2B01 1)) row col) (pairNegative e) nd (min (pairBalance e) (16 - nd)) k
  if x = 0 then none else some (cellKey row col, x, 48 + s.trimAt p row col)

/-- All cells of a panel that a scan drives: region slots, the run over the panels, and on BF the strip. -/
def State.panelScan (s : State) (p : Nat) : List (Nat × Int × Nat) :=
  let b := s.backdrop
  let slots := b.slots.flatMap (fun x => match x.run with | some r => if r.req.panel = p then s.runScan r else [] | none => [])
  let run := match b.run with
    | some r =>
      (match r.phase, r.pairAt with
       | .clear rs, some t =>
         (rs.filter (·.panel == p)).flatMap (fun q => q.cells.filterMap (fun c =>
           s.clearScan r.pairs ((s.clk - t) / msTicks) p c.1 c.2))
       | .drive _, some t =>
         (r.runs.filter (fun x => x.req.panel == p)).flatMap (fun x => s.runScan { x with pairs := r.pairs, pairAt := some t })
       | _, none => [])
    | none => []
  let strip := match b.stripRun with
    | some (some t) => if p = 0 then s.stripScan ((s.clk - t) / msTicks) else []
    | _ => []
  slots ++ run ++ strip

/-! ### The calibration page (18 R477) -/

def State.half (s : State) (n : Nat) : CalHalf := s.update.halves.getD n {}

/-- The half in force: the newer valid one. -/
def State.halfInForce (s : State) : Option Nat :=
  let a := s.half 0
  let b := s.half 1
  if a.valid && (!b.valid || b.seq ≤ a.seq) then some 0 else if b.valid then some 1 else none

/-- The older half is rewritten with what the half in force holds and a new trim map. -/
def State.rewriteHalf (s : State) (p : Nat) (d : List Byte) : State :=
  let n := match s.halfInForce with | some n => 1 - n | none => 0
  let old := match s.halfInForce with | some n => s.half n | none => {}
  { s with update := { s.update with halves := s.update.halves.set n { seq := old.seq + 1, valid := true, maps := old.maps.set p (some d) } } }

/-- The trim maps are those of the half in force, the factory's where it holds no other. -/
def State.putMaps (s : State) : State :=
  let maps := match s.halfInForce with | some n => (s.half n).maps | none => [none, none]
  (List.range 2).foldl (fun s p =>
    match maps.getD p none with
    | some d => s.put (obj 0x2B04 (p + 1)) (.bytes d)
    | none => s.unset (obj 0x2B04 (p + 1))) s

/-- The halves as a start finds them; `bad` fail their CRC. -/
def State.readCalPage (s : State) (bad : List Nat) : State :=
  State.putMaps { s with update := { s.update with
    halves := s.update.halves.zipIdx.map (fun (x : CalHalf × Nat) => if bad.contains x.2 then { x.1 with valid := false } else x.1) } }

/-! ### Strobes (10 R302, R306 to R308) -/

def State.strobe (s : State) (n : Nat) : StrobeCh := s.backdrop.strobes.getD n {}
def State.setStrobe (s : State) (n : Nat) (x : StrobeCh) : State :=
  { s with backdrop := { s.backdrop with strobes := s.backdrop.strobes.set n x } }

/-- The hold word of a channel (10 R302). -/
def State.strobeHold (s : State) (n : Nat) : Nat :=
  let port := s.nat (obj (0x2B40 + n) 2)
  let dark := match s.pipe.capture with | some c => c.code == 1 && c.ports.any (fun q => q.port == port) | none => false
  let recovery := match s.backdrop.run with | some r => r.recovery | none => false
  boolNat (match s.module.state with | .idle | .calibrating | .sorting => false | _ => true)
  + 2 * boolNat recovery
  + 4 * boolNat (s.module.state == .calibrating && !s.backdrop.greyReached)
  + 8 * boolNat s.backdrop.powerFail
  + 16 * boolNat dark
  + 32 * boolNat (s.nat (obj (0x2B40 + n) 1) == 0 || (s.strobe n).fault != 0)

/-- The setting test (10 R307): delay + width against the trigger period of the port less 80 ticks. -/
def State.testStrobe (s : State) (n : Nat) : State :=
  let k := 0x2B40 + n
  let x := s.strobe n
  let bad := decide (s.linePeriod (s.nat (obj k 2)) - 80 < ((s.nat (obj k 3) + s.nat (obj k 4) : Nat) : ℚ))
  let s := s.setStrobe n { x with invalid := bad }
  if bad && !x.invalid then s.raise 0x9008 n else s

/-- Channels that follow a port are tested when it starts streaming. -/
def State.testStrobesOf (s : State) (p : Nat) : State :=
  (List.range 4).foldl (fun s n => if s.nat (obj (0x2B40 + n) 2) = p then s.testStrobe n else s) s

/-- The action of a write of 0x2B4n:01 (10 R308). -/
def actStrobeEnable (n value : Nat) (s : State) : State × Nat :=
  let s := s.keep (obj (0x2B40 + n) 1) value
  let x := s.strobe n
  let s := if value = 0 then s.setStrobe n { x with cleared := x.fault != 0, pulsed := false }
    else if x.cleared then s.setStrobe n { x with fault := 0, openRun := 0, shortRun := 0, cleared := false } else s
  (s.testStrobe n, 0)

/-- The effective current of a channel in mA and whether a limit of R307 acts. -/
def State.strobeCurrent (s : State) (n vf : Nat) : ℚ × Bool :=
  let k := 0x2B40 + n
  let want : ℚ := (s.nat (obj k 5) : ℚ) * (s.ledger.data.strobes.getD n {}).factor * (if s.thermal.derated then 7 / 10 else 1)
  let duty : ℚ := (s.nat (obj k 4) : ℚ) / s.linePeriod (s.nat (obj k 2))
  let byPower : ℚ := if vf = 0 ∨ duty = 0 then want else 60000000 / ((vf : ℚ) * duty)
  let i := min want (min 20000 byPower)
  (i, decide (i < want))

end Sys2Proof.Machine
end

