-- ==== Sys2Proof/Machine/Tracker.lean ====
section
/-!
DEFINITION. Tracker, verdicts and Ferry (05): association, prediction, valve choice, decision, placement, chips and verdicts.
Speeds are in m/s, heights in m, lateral positions in 1/64 lane, times in ticks of 1.25 ns.
-/
namespace Sys2Proof.Machine

/-! ### Geometry and priors -/

def ticksToS (t : ℚ) : ℚ := t / 800000000
def sToTicks (x : ℚ) : ℚ := x * 800000000

/-- Heights of the drop geometry in m (05 R174). -/
def State.hC (s : State) : ℚ := (s.nat (obj 0x2601 2) : ℚ) / 1000000
def State.hP (s : State) : ℚ := (s.nat (obj 0x2601 3) : ℚ) / 1000000
def State.hB (s : State) : ℚ := (s.nat (obj 0x2601 4) : ℚ) / 1000000

/-- τ(v, h), the flight time over a height from a speed (05). -/
def State.tau (s : State) (v h : ℚ) : ℚ := (sqrtQ (v * v + 2 * s.gravity * h) - v) / s.gravity

/-- The face of a port: 0 front (P0, P2), 1 back (05 R142). -/
def faceOf (port : Nat) : Nat := port % 2

/-- The lane group of a centre (05 R143). -/
def State.laneGroup (s : State) (centre : Int) : Nat :=
  (clampI 0 (match s.variant with | .aeh2564 => 15 | .aeh1282 => 7) ((centre + 32) / 1024)).toNat

/-- The sighting's centre lies in the range the module owns (05 R144). -/
def State.owned (s : State) (centre : Int) : Bool := -32 ≤ centre && centre < 64 * (s.valveCount : Int) - 32

/-- The lane group is learned (05 R155). -/
def Prior.learned (p : Prior) : Bool := 4096 ≤ p.n

/-- Seed the priors of every lane group of each face (05 R154). -/
def State.seedPriors (s : State) : State :=
  let vc : ℚ := (s.nat (obj 0x2601 1) : ℚ) / 1000
  let p : Prior := { v := sqrtQ (vc * vc + 2 * s.gravity * s.hC), w := 0, n := 0 }
  { s with tracker := { s.tracker with priors := [List.replicate 16 p, List.replicate 16 p] } }

/-- The parameters in force now (05 R174). -/
def State.trackParams (s : State) : TrackParams :=
  { gT := s.nat (obj 0x2602 1) * usTicks, gT1 := s.nat (obj 0x2602 2) * usTicks
    gU := s.nat (obj 0x2602 3), gU1 := s.nat (obj 0x2602 4)
    margin := s.nat (obj 0x2603 1), margin1 := s.nat (obj 0x2603 2), jet := s.nat (obj 0x2603 3)
    endMargin := s.nat (obj 0x2603 4) * usTicks, cover := s.nat (obj 0x2603 5) * usTicks
    guard := s.nat (obj 0x2603 6) * usTicks, dflt := s.nat (obj 0x2603 7)
    remoteLead := s.nat (obj 0x2603 8) * usTicks, reach := s.nat (obj 0x2603 9) }

/-! ### Association (05 R149 to R151) -/

/-- The score of a fix as a candidate for an upper sighting, none where it is no candidate (05 R149). -/
def State.score (s : State) (pr : TrackParams) (u f : Sighting) : Option ℚ :=
  let p := s.prior (faceOf u.port) (s.laneGroup u.centre)
  let tp := s.tau p.v s.hP
  let gt : ℚ := if p.learned then pr.gT else pr.gT1
  let gu : ℚ := if p.learned then pr.gU else pr.gU1
  let dt : ℚ := (f.time : ℚ) - (u.time + sToTicks tp)
  let du : ℚ := (f.centre : ℚ) - (u.centre + 64 * p.w * tp)
  if f.time ≤ u.time || gt < |dt| || gu < |du| then none
  else some ((dt / gt) * (dt / gt) + (du / gu) * (du / gu))

/-- The fix deadline of an upper sighting (05 R151). -/
def State.fixDeadlineOf (s : State) (pr : TrackParams) (u : Sighting) : Nat :=
  let p := s.prior (faceOf u.port) (s.laneGroup u.centre)
  u.time + roundN (sToTicks (s.tau p.v s.hP)) + (if p.learned then pr.gT else pr.gT1) + 20 * usTicks

/-- Records of the table by handle. -/
def State.recOf (s : State) (handle : Nat) : Option Rec := s.tracker.recs.find? (fun r => r.handle == handle)
def State.setRec (s : State) (r : Rec) : State :=
  { s with tracker := { s.tracker with recs := s.tracker.recs.map (fun x => if x.handle = r.handle then r else x) } }
def State.dropRec (s : State) (handle : Nat) : State :=
  { s with tracker := { s.tracker with recs := s.tracker.recs.filter (fun x => x.handle != handle) } }

/-- The record is decided (05 R147). -/
def Rec.decided (r : Rec) : Bool := r.state == .pass || r.state == .eject

/-- The record is settled (05 R170). -/
def Rec.settled (r : Rec) : Bool := r.verdict.isSome || r.defaulted

/-! ### Prediction (05 R152, R153) -/

/-- Speed at the lower plane, arrival as a rational of ticks, centre and drift in 1/64 lane. -/
structure Flight where
  vl : ℚ
  arrival : ℚ
  centre : ℚ
  drift : ℚ
  num : ℚ

/-- The three cases of 05 R152. -/
def State.flight (s : State) (face group : Nat) (u f : Option Sighting) : Flight :=
  let p := s.prior face group
  let g := s.gravity
  let tp0 := s.tau p.v s.hP
  match u, f with
  | some u, some f =>
    let tp := ticksToS ((f.time : ℚ) - u.time)
    let vu := s.hP / tp - g * tp / 2
    let vl := vu + g * tp
    let tb := s.tau vl s.hB
    let w := ((f.centre : ℚ) - u.centre) / tp
    ⟨vl, f.time + sToTicks tb, f.centre + w * tb, w * tb, vl⟩
  | some u, none =>
    let vl := p.v + g * tp0
    let tb := s.tau vl s.hB
    let d := 64 * p.w * (tp0 + tb)
    ⟨vl, u.time + sToTicks (tp0 + tb), u.centre + d, d, p.v⟩
  | none, some f =>
    let vl := p.v + g * tp0
    let tb := s.tau vl s.hB
    let d := 64 * p.w * tb
    ⟨vl, f.time + sToTicks tb, f.centre + d, d, vl⟩
  | none, none => ⟨0, 0, 0, 0, 0⟩

/-- The latest sighting of a record: the fix where it has one. -/
def Rec.latest (r : Rec) : Sighting := (r.fix.or r.upper).getD default

/-! ### Valve choice (05 R158 to R161) -/

/-- The greedy pass: positions from `x` to `b` with jet half-width `j`, in 1/64 lane. -/
def greedySet : Nat → Int → Int → Int → List Int
  | 0, _, _, _ => []
  | n + 1, x, b, j => if x < b then ((x + j) / 64) :: greedySet n ((x + j) / 64 * 64 + j) b j else []

/-- The set covers the interval from a to b. -/
def coversAll (ks : List Int) (a b j : Int) : Bool :=
  match ks.head?, ks.getLast? with
  | some k0, some k1 => 64 * k0 - j ≤ a && b ≤ 64 * k1 + j && (ks.length ≤ 1 || 64 ≤ j)
  | _, _ => false

/-- The valve set of an interval; the Bool says that the object was clipped as wide (05 R158). -/
def valveSet (a b j : Int) : List Int × Bool :=
  let c : ℚ := ((a + b : Int) : ℚ) / 128
  let greedy := greedySet 1024 a b j
  let n := greedy.length
  if 3 < n then
    let k0 := roundQ c
    let j' := roundQ ((j : ℚ) / 64)
    ([k0 - 2 * j', k0, k0 + 2 * j'], true)
  else
    let k1 := roundQ (c - ((n : ℚ) - 1))
    let centred := (List.range n).map (fun i => k1 + 2 * (i : Int))
    (if coversAll centred a b j then centred else greedy, false)

/-- Lanes by which a position lies beyond the module's own edges (05 R159). -/
def State.beyond (s : State) (k : Int) : Nat :=
  if k < 0 then (-k).toNat else if (s.valveCount : Int) ≤ k then (k - s.valveCount + 1).toNat else 0

/-- The module and valve that a position names, if there is one to fire it (05 R159): own ID for own valves. -/
def State.valveAt (s : State) (k : Int) : Option (Nat × Nat) :=
  if k < 0 then
    let w := s.beside portW
    match s.topoOf w with
    | some r => if 0 ≤ (r.valves : Int) + k then some (w, ((r.valves : Int) + k).toNat) else none
    | none => none
  else if k < s.valveCount then some (s.strand.id, k.toNat)
  else
    let e := s.beside portE
    if (s.topoOf e).isSome then some (e, (k - s.valveCount).toNat) else none

/-- The position is a valve of a neighbour that is there to fire it (05 R159). -/
def State.onNeighbour (s : State) (k : Int) : Bool := (k < 0 || (s.valveCount : Int) ≤ k) && (s.valveAt k).isSome

/-- L_max of a set (05 R161). -/
def State.leadMax (s : State) (pr : TrackParams) (ks : List Int) : Nat :=
  let own : List Nat := (ks.flatMap (fun k => [k - 1, k, k + 1])).filterMap (fun (k : Int) =>
    if 0 ≤ k ∧ k < s.valveCount then some (s.valve k.toNat).lead else none)
  let remote := if ks.any s.onNeighbour then pr.remoteLead else 0
  own.foldl max remote

/-- Predict a record (05 R152, R153; whether a valve of the set has shown too few kinks is asked of the set of the normal margin, log entry 172), choose its valves (05 R156, R158, R159) and its fire-decision instant (05 R161). -/
def State.predict (s : State) (r : Rec) : State :=
  let fl := s.flight r.face r.group r.upper r.fix
  let x := r.latest
  let ta := roundN fl.arrival
  let vb := fl.vl + s.gravity * s.tau fl.vl s.hB
  let half : ℚ := (x.length : ℚ) / 32 * s.linePeriod x.port
  let te : ℚ := (ta : ℚ) + (if vb = 0 then 0 else half * fl.num / vb)
  let e := roundN te + r.params.endMargin
  let centre := roundQ fl.centre
  let west := roundQ ((x.west : ℚ) + fl.drift)
  let east := roundQ ((x.east : ℚ) + fl.drift)
  let alone := r.upper.isNone || r.fix.isNone
  let seeded := !(s.prior r.face r.group).learned
  let choose : Nat → List Int × Bool := fun m => valveSet (west - m) (east + m) r.params.jet
  let uncal : List Int → Bool := fun ks => ks.any (fun k =>
    0 ≤ k && k < s.valveCount && s.nat (valveKey 0x2718 k.toNat) < 32)
  let first := seeded || alone || uncal (choose r.params.margin).1
  let (ks, wide) := choose (if first then r.params.margin1 else r.params.margin)
  let ks := ks.filter (fun k => s.beyond k ≤ r.params.reach)
  let tdec : Int := (ta : Int) - s.leadMax r.params ks - r.params.guard
  let r := { r with
    state := .predicted
    upperAlone := r.fix.isNone, fixAlone := r.upper.isNone
    ta := ta, shotEnd := e, tdec := some tdec, centre := centre, west := west, east := east
    firstUse := first, wide := wide
    valves := ks.map (fun k => { pos := k }) }
  let s := s.setRec r
  if wide then (s.bump (obj 0x2600 0x0D)).raiseSlow 0x500A r.handle else s

/-- A record predicted from its upper sighting alone is counted (05 R151). -/
def State.predictUpperAlone (s : State) (r : Rec) : State := (s.predict r).bump (obj 0x2600 7)

/-- The lower port of a face is LOST: its upper-first records are predicted at once (05 R151). -/
def State.predictFace (s : State) (face : Nat) : State :=
  (s.tracker.recs.filter (fun r => r.face == face && r.state == .upperFirst)).foldl (fun s r => s.predictUpperAlone r) s

/-! ### Chips and placement (05 R166 to R169) -/

/-- The placement of a lane group: target and epoch. -/
def State.placementOf (s : State) (g : Nat) : Placement := s.tracker.placement.getD g {}
def State.targetOf (s : State) (g : Nat) : Nat := (s.placementOf g).target.getD s.strand.id

/-- Entries of the chip store in use. -/
def State.chipCount (s : State) : Nat := (s.tracker.recs.filter (fun r => r.chip.isSome)).length

def imageWidth (m : ObjImage) : Nat := (m.rows.headD []).length
def imageChannels (m : ObjImage) : Nat := ((m.rows.headD []).headD []).length

/-- One line's mask as 64-bit words, bit 0 westmost (13 R374). -/
def maskWords : Nat → List Bool → List Nat
  | 0, _ => []
  | n + 1, l => ((l.take 64).foldr (fun b v => 2 * v + boolNat b) 0) :: maskWords n (l.drop 64)

/-- The chip data of an object (13 R374). -/
def chipData (port frame : Nat) (m : ObjImage) : List Byte :=
  let w := imageWidth m
  leBytes 1 port ++ leBytes 1 (imageChannels m) ++ leBytes 2 w ++ leBytes 2 m.rows.length ++ leBytes 2 0 ++ leBytes 4 frame
    ++ leBytes 4 0 ++ (m.rows.flatMap (fun l => l.flatMap (fun p => p.flatMap (fun v => leBytes 2 v))))
    ++ (m.mask.flatMap (fun l => (maskWords (ceilDiv w 64) l).flatMap (fun v => leBytes 8 v)))

/-- The CHIP frames of a chip's data: up to 1,021 blocks each (13 R374). -/
def chipSegments : Nat → List Byte → List (List Byte)
  | 0, _ => []
  | n + 1, d => d.take 8168 :: chipSegments n (d.drop 8168)

/-- Send a chip to a target (13 R374). -/
def State.sendChip (s : State) (target : Nat) (r : Rec) (m : ObjImage) : State :=
  let d := chipData r.port ((r.upper.map (·.frame)).getD 0) m
  let n := max 1 (ceilDiv d.length 8168)
  (chipSegments n d).zipIdx.foldl (fun s p =>
    s.post target 2 0 (((r.handle <<< 32) + (r.epoch <<< 24) + (p.2 <<< 16) + (n <<< 8)) :: s.tick ::
      bytesToWords p.1)) s

/-- A chip enters the module's own chip queue; where that is full the module refuses itself, and the chip is not re-issued again
(05 R169). -/
def State.ownChip (s : State) (r : Rec) (m : ObjImage) : State :=
  match s.queueChip { handle := r.handle, epoch := r.epoch, image := m, channels := imageChannels m, port := r.port } with
  | (s, false) => s
  | (s, true) => ((s.setRec { r with chipRefused := true }).bump (obj 0x260E 3)).bump (obj 0x260E 0x0F)

/-- Re-issue a record's chip to a target (05 R168, R169); a provisional or conflicted module sends no FERRY, and classifies itself (13 R363, R365). -/
def State.reissueTo (s : State) (r : Rec) (target : Nat) : State :=
  match r.chip with
  | none => s
  | some m =>
    let r := { r with reissued := true }
    let s := (s.setRec r).bump (obj 0x260E 2)
    if target = s.strand.id || s.fabricBarred then s.ownChip r m else (s.sendChip target r m).bump (obj 0x260E 1)

/-- The record's t_dec lies at least the re-issue margin ahead, or it has none yet (05 R168). -/
def State.beyondMargin (s : State) (r : Rec) : Bool :=
  match r.tdec with
  | none => true
  | some t => (s.tick : Int) + (s.nat (obj 0x2605 9) * usTicks : Nat) ≤ t

/-- Re-issue the outstanding chips of a moved lane group (05 R168). -/
def State.reissueGroup (s : State) (g : Nat) : State :=
  let e := (s.placementOf g).epoch
  let t := s.targetOf g
  (s.tracker.recs.filter (fun r => r.remote && r.group == g && !r.settled && !r.chipRefused && s.beyondMargin r)).foldl (fun s r =>
    let r := { r with epoch := e, target := t }
    (s.setRec r).reissueTo r t) s

/-- A placement entry moves (05 R167): new epoch, event and counter of its cause, re-issue. -/
def State.movePlacement (s : State) (g : Nat) (target : Option Nat) (pinned : Bool) (event counter : Nat) : State :=
  let e := (s.tracker.epoch + 1) % 256
  let s := { s with tracker := { s.tracker with
    epoch := e, placement := s.tracker.placement.set g { target := target, epoch := e, pinned := pinned } } }
  ((s.raise event g).bump counter).reissueGroup g

/-- Place the classification of an owned upper sighting (05 R166). -/
def State.placeObject (s : State) (r : Rec) (x : Sighting) (m : ObjImage) : State :=
  let s := { s with tracker := { s.tracker with laneObjs :=
    (s.clk, r.group) :: s.tracker.laneObjs.filter (fun p => s.clk < p.1 + 100 * msTicks) } }
  let job : ObjJob := { handle := r.handle, epoch := r.epoch, image := m, channels := imageChannels m, port := r.port }
  if r.target = s.strand.id || s.fabricBarred then s.queueObject job x
  else if 65536 < (chipData r.port x.frame m).length then (s.bump (obj 0x2206 0x0D)).queueObject job x
  else if 4096 ≤ s.chipCount then (s.bump (obj 0x260E 4)).queueObject job x
  else
    let r := { r with remote := true, chip := some m }
    ((((s.setRec r).sendChip r.target r m).bump (obj 0x260E 1))).settleSighting x

/-! ### Arrivals -/

/-- Open a record (05 R145): none where all 65,536 are in use. -/
def State.openRec (s : State) (r : Rec) : Option (State × Rec) :=
  if 65536 ≤ s.tracker.recs.length then none
  else
    let pl := s.placementOf r.group
    let r := { r with
      handle := (s.strand.id <<< 20) + s.tracker.serial
      epoch := pl.epoch, target := s.targetOf r.group, params := s.trackParams }
    let t := { s.tracker with
      serial := (s.tracker.serial + 1) % 2 ^ 20, recs := s.tracker.recs ++ [r]
      peak := max s.tracker.peak (s.tracker.recs.length + 1) }
    some ({ s with tracker := t }, r)

/-- The record table is full (05 R145). -/
def State.tableFull (s : State) : State := (s.bump (obj 0x2600 8)).raiseSlow 0x5001 0

/-- Priors move by an association (05 R155). -/
def State.learn (s : State) (face group : Nat) (u f : Sighting) : State :=
  if bitOf u.flags 4 || bitOf u.flags 5 || bitOf f.flags 4 || bitOf f.flags 5 then s
  else
    let p := s.prior face group
    let tp := ticksToS ((f.time : ℚ) - u.time)
    let vu := s.hP / tp - s.gravity * tp / 2
    let w := ((f.centre : ℚ) - u.centre) / 64 / tp
    let k : ℚ := 1 / (min (p.n + 16) 256 : Nat)
    let p' : Prior := { v := p.v + k * (vu - p.v), w := p.w + k * (w - p.w), n := p.n + 1 }
    let s := { s with tracker := { s.tracker with
      priors := s.tracker.priors.modify face (fun l => l.set group p') } }
    if p.n + 1 = 4096 then s.raise 0x5002 (face * 16 + group) else s

/-- Twin pairs of a plane (05 R157): the new sighting against recent sightings of the other face. -/
def State.twins (s : State) (x : Sighting) : State :=
  let other := if x.port % 2 = 0 then x.port + 1 else x.port - 1
  let span : ℚ := 2 * s.linePeriod x.port
  let near := (s.tracker.recent.getD other []).filter (fun y =>
    |((x.time : ℚ) - y.time)| ≤ span && |x.centre - y.centre| ≤ 64)
  let ds : List Int := near.map (fun y => if x.port % 2 = 0 then (x.time : Int) - y.time else (y.time : Int) - x.time)
  let keep := x :: (s.tracker.recent.getD x.port []).filter (fun y => |((x.time : ℚ) - y.time)| ≤ 2 * span)
  let t := { s.tracker with recent := s.tracker.recent.set x.port keep }
  let t := if 2 ≤ x.port then { t with twinUpper := (ds ++ t.twinUpper).take 1024 }
    else { t with twinLower := (ds ++ t.twinLower).take 1024 }
  ({ s with tracker := t }).bumpBy (obj 0x2602 9) ds.length

/-- The best of the scored candidates: lowest score, then earlier time, then lower handle (05 R150). -/
def bestCand (l : List (ℚ × Nat × Nat)) : Option (ℚ × Nat × Nat) :=
  l.foldl (fun b c =>
    match b with
    | none => some c
    | some d => if c.1 < d.1 ∨ (c.1 = d.1 ∧ (c.2.1 < d.2.1 ∨ (c.2.1 = d.2.1 ∧ c.2.2 < d.2.2))) then some c else some d) none

/-- FIX_ARRIVAL (05 R150): the fix associates with an upper-first record or a shadow of its face, or opens a fix-first
record; while the tracker is closed one that associates with nothing is discarded without count (12 R340). A shadow stands among the
candidates by its place in the list, from 2^32 up, above every handle. -/
def execFixArrival (x : Sighting) (s : State) : Host.Outcome State Fault Refusal :=
  if !s.module.mainUp then .next s
  else
    let s := { s with pipe := { s.pipe with fixOut := dropFirst (fun y => y == x) s.pipe.fixOut } }
    let s := s.twins x
    let face := faceOf x.port
    let cr := s.tracker.recs.filterMap (fun r =>
      if r.face = face ∧ r.state = .upperFirst then
        match r.upper with
        | some u => (s.score r.params u x).map (fun q => (q, u.time, r.handle))
        | none => none
      else none)
    let cs := s.tracker.shadows.zipIdx.filterMap (fun h =>
      if faceOf h.1.sighting.port = face ∧ s.tick ≤ h.1.deadline then
        (s.score s.trackParams h.1.sighting x).map (fun q => (q, h.1.sighting.time, 2 ^ 32 + h.2))
      else none)
    match bestCand (cr ++ cs) with
    | none =>
      if !s.tracker.isOpen then .next s
      else if !s.owned x.centre then .next (s.bump (obj 0x2600 6))
      else
        match s.openRec { state := .fixFirst, face := face, group := s.laneGroup x.centre, fix := some x, port := face + 2 } with
        | none => .next s.tableFull
        | some (s, r) => .next ((s.bump (obj 0x2600 4)).predict r)
    | some (_, _, h) =>
      if 2 ^ 32 ≤ h then
        let rest := s.tracker.shadows.eraseIdx (h - 2 ^ 32)
        .next ({ s with tracker := { s.tracker with shadows := rest } }.bump (obj 0x2600 6))
      else
        match s.recOf h with
        | none => .next s
        | some r =>
          let u := r.upper.getD default
          let s := (s.bump (obj 0x2600 5)).learn face r.group u x
          .next (s.predict { r with fix := some x })

/-- The rest of a record that opens on, or takes, an owned upper sighting: its classification is placed (05 R166). -/
def State.placeIfLive (s : State) (h : Nat) (x : Sighting) (m : ObjImage) : State :=
  match s.recOf h with
  | some r => s.placeObject r x m
  | none => s

/-- An upper-first record that opens while the lower port of its face is LOST is predicted at once (05 R151). -/
def State.predictIfLost (s : State) (h : Nat) : State :=
  match s.recOf h with
  | some r => if (s.cam r.face).state = .lost then s.predictUpperAlone r else s
  | none => s

/-- UPPER_SIGHTING_ARRIVAL (05 R150): the upper sighting associates with a fix-first record of its face, opens an
upper-first record, or is kept as a shadow. -/
def execUpperSightingArrival (x : Sighting) (image : ObjImage) (s : State) : Host.Outcome State Fault Refusal :=
  if !s.module.mainUp then .next s
  else
    let s := { s with pipe := { s.pipe with upperOut := dropFirst (fun y => y.1 == x) s.pipe.upperOut } }
    let s := s.twins x
    let face := faceOf x.port
    let cands := s.tracker.recs.filterMap (fun r =>
      if r.face = face ∧ r.upper = none ∧ (r.state = .fixFirst ∨ r.state = .predicted) then
        match r.fix with
        | some f => (s.score r.params x f).map (fun q => (q, f.time, r.handle))
        | none => none
      else none)
    match bestCand cands with
    | none =>
      if !s.tracker.isOpen then .next (s.settleSighting x)
      else if s.owned x.centre then
        let pr := s.trackParams
        match s.openRec { state := .upperFirst, face := face, group := s.laneGroup x.centre, upper := some x,
                          deadline := s.fixDeadlineOf pr x, port := x.port } with
        | none => .next (s.tableFull.settleSighting x)
        | some (s, r) => .next (((s.bump (obj 0x2600 3)).placeObject r x image).predictIfLost r.handle)
      else
        let h : Shadow := { sighting := x, deadline := s.fixDeadlineOf s.trackParams x }
        .next ({ s with tracker := { s.tracker with
          shadows := h :: s.tracker.shadows.filter (fun y => s.tick ≤ y.deadline) } }.settleSighting x)
    | some (_, _, h) =>
      match s.recOf h with
      | none => .next s
      | some r =>
        if s.owned x.centre then
          let f := r.fix.getD default
          let s := (s.bump (obj 0x2600 5)).learn face r.group x f
          let s := s.predict { r with upper := some x, port := x.port }
          .next (s.placeIfLive h x image)
        else .next (((s.dropRec h).bump (obj 0x2600 6)).settleSighting x)

/-- FIX_DEADLINE (05 R151). -/
def execFixDeadline (handle : Nat) (s : State) : Host.Outcome State Fault Refusal :=
  match s.recOf handle with
  | some r => if r.state = .upperFirst then .next ((s.atTick r.deadline).predictUpperAlone r) else .next s
  | none => .next s

/-! ### Decision (05 R160 to R164) -/

/-- The module sends and accepts cross-module FIRE in this time state (02 R46). -/
def State.fireAllowed (s : State) : Bool :=
  s.time.state == .locked || s.time.state == .grandmaster || s.time.state == .slack

/-- The set with each unavailable own valve replaced in its place by its other-row neighbours, duplicates dropped (05 R160): the set and
the number of replacements. -/
def State.coverSet (s : State) (reach : Nat) (vs : List ValvePos) : List ValvePos × Nat :=
  let bad : ValvePos → Bool := fun v => 0 ≤ v.pos && v.pos < s.valveCount && !s.available v.pos.toNat
  let keep := vs.filter (fun v => !bad v)
  let fits : Int → Bool := fun k => s.beyond k ≤ reach && (s.valveAt k).isSome && !keep.any (fun v => v.pos == k)
  let covers : ValvePos → List ValvePos := fun v =>
    ([v.pos - 1, v.pos + 1].filter fits).map (fun k => { pos := k, cover := true })
  let set := vs.flatMap (fun v => if bad v then covers v else [v])
  (set.foldl (fun (l : List ValvePos) v => if l.any (fun u => u.pos == v.pos) then l else l ++ [v]) [], (vs.filter bad).length)

/-- One request of a record (05 R163, R164): the outcome byte. -/
def State.fireOne (s : State) (r : Rec) (conf : Nat) (v : ValvePos) : State × Nat :=
  let e := if v.cover then r.shotEnd + r.params.cover else r.shotEnd
  match s.valveAt v.pos with
  | none => (s, 3)
  | some (id, k) =>
    if 0 ≤ v.pos ∧ v.pos < s.valveCount then
      let s := s.bump (obj 0x2600 0x0F)
      (s.request { valve := k, sched := r.ta - (s.valve k).lead, ta := r.ta, shotEnd := e, handle := r.handle,
                   conf := conf, cover := v.cover, origin := .local }, 1)
    else if s.fabricBarred || !s.fireAllowed then (s, 0)
    else
      let s := s.bump (obj 0x260F (if v.pos < 0 then 2 else 1))
      (s.post id 1 0 [r.ta, e, (r.handle <<< 32) + (conf <<< 24) + (k <<< 16) + (boolNat v.cover <<< 15)], 2)

/-- FIRE_DECISION (05 R162, R163): at t_dec the record is decided, once. -/
def execFireDecision (handle : Nat) (s : State) : Host.Outcome State Fault Refusal :=
  match s.recOf handle with
  | some r =>
    match r.state, r.tdec with
    | .predicted, some t =>
      let s := s.atTick t.toNat
      let (s, eject, conf, r) :=
        match r.verdict with
        | some (cls, conf, _) =>
          let e := s.callsEject cls conf
          (s.bump (obj 0x2600 (if e then 0x0B else 0x0C)), e, conf, r)
        | none =>
          let e := r.params.dflt == 1
          ((s.bump (obj 0x2600 (if e then 0x0A else 9))).raiseSlow 0x5003 handle, e, 0, { r with defaulted := true })
      let r := { r with chip := none }
      if eject then
        let c := s.coverSet r.params.reach r.valves
        let s := s.bumpBy (obj 0x2600 0x0E) c.2
        let go := c.1.foldl (fun (p : State × List ValvePos) v =>
          let f := p.1.fireOne r conf v
          (f.1, p.2 ++ [{ v with outcome := f.2 }])) (s, [])
        let last := if go.2.any (fun v => v.cover) then r.shotEnd + r.params.cover else r.shotEnd
        .next (go.1.setRec { r with state := .eject, valves := go.2, retireAt := last })
      else .next (s.setRec { r with state := .pass, retireAt := r.ta })
    | _, _ => .next s
  | none => .next s

/-- RECORD_RETIRE (05 R163). -/
def execRecordRetire (handle : Nat) (s : State) : Host.Outcome State Fault Refusal :=
  match s.recOf handle with
  | some r => if r.decided then .next ((s.atTick r.retireAt).dropRec handle) else .next s
  | none => .next s

/-! ### Objects of the tracker -/

/-- The action of a write to 0x2601 (05 R154, 06 R188). -/
def actDropGeometry (sub v : Nat) (s : State) : State × Nat :=
  (((s.keep (obj 0x2601 sub) v).seedPriors.raise 0x5009 0).releads, 0)

/-- DROP_GEOMETRY_WRITE (05 R154). -/
def execDropGeometryWrite (m : Master) (sub value : Nat) (s : State) : Host.Outcome State Fault Refusal :=
  .next (s.write m (obj 0x2601 sub) (.num value) (actDropGeometry sub value))

/-- Hops from this module to an ID over links that the topology table shows UP, up to a bound (05 R167). -/
def State.within : Nat → State → List Nat → Nat → Bool
  | 0, _, seen, id => seen.contains id
  | n + 1, s, seen, id =>
    seen.contains id ||
      State.within n s (seen ++ seen.flatMap (fun k =>
        match s.topoOf k with
        | some r => r.neighbours.filter (fun j => j != 0xFFFF)
        | none => [])) id

/-- The action of a write to 0x2604 (05 R167, R172). -/
def actPlacement (g value : Nat) (s : State) : State × Nat :=
  let target := bits value 11 0
  if target = 0xFFF || (s.topoOf target).isNone || !s.within (s.nat (obj 0x2605 7)) [s.strand.id] target then (s, abortRange)
  else (s.movePlacement g (if target = s.strand.id then none else some target) (bitOf value 31) 0x5005 (obj 0x260E 0x0B), 0)

/-- PLACEMENT_WRITE (05 R167). -/
def execPlacementWrite (m : Master) (group value : Nat) (s : State) : Host.Outcome State Fault Refusal :=
  .next (s.write m (obj 0x2604 (group + 1)) (.num value) (actPlacement group value))

/-! ### The load governor (05 R172) -/

/-- Lane groups of the variant. -/
def State.laneGroups (s : State) : Nat := match s.variant with | .aeh2564 => 16 | .aeh1282 => 8

/-- Objects of a lane group in the last 100 ms. -/
def State.groupObjects (s : State) (g : Nat) : Nat :=
  (s.tracker.laneObjs.filter (fun p => p.2 == g && s.clk < p.1 + 100 * msTicks)).length

/-- A neighbour that may take a lane group: its ID and load (05 R172). -/
def State.takers (s : State) : List (Nat × Nat) :=
  [portE, portW].filterMap (fun l =>
    let id := s.neighbour l
    match s.topoOf id with
    | some r =>
      if s.linkUp l && !r.provisional && !r.conflict && (s.link l).nbLoad < s.nat (obj 0x2605 6) then some (id, (s.link l).nbLoad)
      else none
    | none => none)

/-- After 1 s of low load the lowest-numbered of these lane groups that is placed elsewhere returns (05 R172). -/
def State.returnGroup (s : State) (groups : List Nat) : State :=
  match s.tracker.lowSince, groups.find? (fun g => s.targetOf g != s.strand.id) with
  | some t, some g =>
    if t + secTicks ≤ s.clk then
      { s with tracker := { s.tracker with lowSince := some s.clk } }.movePlacement g none false 0x5006 (obj 0x260E 0x0C)
    else s
  | _, _ => s

/-- The action of a write to 0x2605:02: where it enables the governor, low load counts from the next run (05 R172). -/
def actGovernor (v : Nat) (s : State) : State × Nat :=
  let was := s.nat (obj 0x2605 2)
  let s := s.putNat (obj 0x2605 2) v
  (if was = 0 then { s with tracker := { s.tracker with lowSince := none } } else s, 0)

/-- GOVERNOR_RUN (05 R172): every 10 ms while 0x2605:02 is 1. A load above the high and below the low threshold returns a group only where
there is none to move (log entry 132). -/
def execGovernorRun (s : State) : Host.Outcome State Fault Refusal :=
  if !s.module.mainUp || s.nat (obj 0x2605 2) = 0 then .next s
  else
    let s := s.atClk (s.tracker.governorAt + 10 * msTicks)
    let s := { s with tracker := { s.tracker with governorAt := s.clk } }
    let load := s.objLoad
    let high := s.nat (obj 0x2605 (if s.thermal.derated then 5 else 3))
    let low := load < s.nat (obj 0x2605 4)
    let s := { s with tracker := { s.tracker with
      lowSince := if low then s.tracker.lowSince.or (some s.clk) else none } }
    let groups := (List.range s.laneGroups).filter (fun g => !(s.placementOf g).pinned)
    if high < load then
      let own := groups.filter (fun g => s.targetOf g == s.strand.id && 0 < s.groupObjects g)
      let best := own.foldl (fun (b : Option Nat) g =>
        match b with
        | none => some g
        | some h => if s.groupObjects h < s.groupObjects g then some g else some h) none
      let to_ := s.takers.foldl (fun (b : Option (Nat × Nat)) c =>
        match b with
        | none => some c
        | some d => if c.2 < d.2 then some c else some d) none
      match best, to_ with
      | some g, some (id, _) => .next (s.movePlacement g (some id) false 0x5006 (obj 0x260E 0x0C))
      | some _, none => .next s
      | none, _ => .next (s.returnGroup groups)
    else .next (s.returnGroup groups)

/-- The target of lane groups is lost (05 R171). -/
def State.ferryTargetLost (s : State) (id : Nat) : State :=
  let gs := (List.range s.laneGroups).filter (fun g => (s.placementOf g).target == some id)
  if gs.isEmpty then s
  else
    let s := s.raise 0x5007 id
    if s.nat (obj 0x2605 2) = 0 then s
    else (gs.filter (fun g => !(s.placementOf g).pinned)).foldl
      (fun s g => s.movePlacement g none false 0x5006 (obj 0x260E 0x0C)) s

/-! ### Verdicts and refusals (05 R169, R170) -/

/-- A verdict record at the tracker (04 R129, 05 R170): class, confidence and margin, bank, model ID; `sent` is the echoed send tick of a Ferry
verdict. -/
def State.verdict (s : State) (sent : Option Nat) (handle epoch : Nat) (v : Nat × Nat × Nat) (bank model : Nat) : State :=
  let late : Bool := match sent with
    | some t => decide ((t : Int) + (s.nat (obj 0x2605 8) * msTicks : Nat) < s.tick)
    | none => false
  match s.recOf handle with
  | none => s.bump (obj 0x260E 9)
  | some r =>
    if late then s.bump (obj 0x260E 9)
    else if r.settled then
      (s.bump (obj 0x260E (if epoch % 256 = r.epoch % 256 then 7 else 8))).keep (obj 0x260E 0x0A) (epoch % 256)
    else
      let s := s.setRec { r with verdict := some v, bank := bank, model := model, chip := none }
      (s.bump (obj 0x260E (if sent.isNone then 5 else 6))).sample 4 v.2.2

/-- The Ferry round trip (13 R376): last and largest in ns, and a sample in µs. -/
def State.roundTrip (s : State) (sent : Nat) : State :=
  let ns := (s.tick - sent) * 5 / 4
  let s := (s.keep (obj 0x260E 0x0D) ns).keep (obj 0x260E 0x0E) (max ns (s.nat (obj 0x260E 0x0E)))
  s.sample 5 ((ns : ℚ) / 1000)

/-- VERDICT_MESSAGE (05 R170). A provisional or conflicted module accepts no FERRY (13 R363). -/
def execVerdictMessage (src sendTick handle epoch cls conf : Nat) (tail : VerdictTail) (s : State) : Host.Outcome State Fault Refusal :=
  if !s.module.mainUp || s.fabricBarred then .next s
  else
    let _ := src
    .next ((s.roundTrip sendTick).verdict (some sendTick) handle epoch (cls, conf, tail.margin) tail.bank tail.model)

/-- REFUSAL_MESSAGE (05 R169). -/
def execRefusalMessage (src sendTick handle epoch cause : Nat) (s : State) : Host.Outcome State Fault Refusal :=
  if !s.module.mainUp || s.fabricBarred then .next s
  else
    let s := (((s.roundTrip sendTick).bump (obj 0x260E 3)).raiseSlow 0x5008 (src * 16 + cause))
    match s.recOf handle with
    | none => .next s
    | some r =>
      if epoch % 256 ≠ r.epoch % 256 || r.settled || r.chipRefused || !s.beyondMargin r then .next s
      else .next (s.reissueTo r s.strand.id)

/-- FIRE_MESSAGE (05 R165). A FIRE that reaches the module is counted by its sender also where the module accepts none: in Recovery, where test 4
of R22 refuses it (18 R486), and while it is provisional or conflicted (13 R363, R365). -/
def execFireMessage (src valve ta shotEnd handle conf : Nat) (cover : Bool) (s : State) :
    Host.Outcome State Fault Refusal :=
  if !s.strandOn then .next s
  else
    let e := s.beside portE
    let w := s.beside portW
    if !(src = e ∨ src = w) || s.valveCount ≤ valve then .next ((s.bump (obj 0x260F 9)).raiseSlow 0x500B src)
    else
      let i := if src = e then 0 else 1
      let o : Origin := if src = e then .east else .west
      let s := s.bump (obj 0x260F (3 + i))
      if s.module.loader then .next (s.bump (obj 0x2700 0x10))
      else if s.fabricBarred then .next s
      else if !s.fireAllowed then .next ((s.bump (obj 0x260F (5 + i))).raiseSlow 0x5004 src)
      else
        let req : Nat → Nat → Bool → Request := fun v en cv =>
          { valve := v, sched := ta - (s.valve v).lead, ta := ta, shotEnd := en, handle := handle, conf := conf, cover := cv,
            origin := o }
        let r := req valve shotEnd cover
        if r.sched < s.tick + 32 then .next (s.bump (obj 0x2107 5))
        else if s.available valve || cover then .next (s.request r)
        else
          let s := s.bump (obj 0x260F (7 + i))
          let en := shotEnd + s.nat (obj 0x2603 5) * usTicks
          let ks := (if valve = 0 then [] else [valve - 1]) ++ (if valve + 1 < s.valveCount then [valve + 1] else [])
          .next (ks.foldl (fun s k => s.request (req k en true)) s)

/-! ### Chips received (05 R169, 13 R374 to R376) -/

/-- The pixels that chip data carries. -/
def chipImage (d : List Byte) : ObjImage :=
  let c := field d 1 1
  let w := field d 2 2
  let h := field d 4 2
  { rows := (List.range h).map (fun y => (List.range w).map (fun x => (List.range c).map (fun k =>
      field d (0x10 + 2 * ((y * w + x) * c + k)) 2)))
    mask := (List.range h).map (fun y => (List.range w).map (fun x =>
      bitOf (field d (0x10 + 2 * w * h * c + 8 * (y * ceilDiv w 64 + x / 64)) 8) (x % 64))) }

/-- A REFUSAL to the owner of a chip (13 R376). -/
def State.refuseChip (s : State) (src handle epoch sent cause : Nat) : State :=
  (s.bump (obj 0x260E 0x0F)).post src 2 2 [sent, (handle <<< 32) + (epoch <<< 24) + (cause <<< 20), 0]

/-- A complete chip (05 R169, 13 R376). -/
def State.takeChip (s : State) (src handle epoch sent : Nat) (d : List Byte) : State :=
  if s.fabricBarred && !s.module.loader then s.refuseChip src handle epoch sent 3
  else if s.module.state ≠ .sorting then s.refuseChip src handle epoch sent 2
  else
    match s.queueChip { handle := handle, epoch := epoch, image := chipImage d, channels := field d 1 1,
                        sender := some (src, sent), port := field d 0 1 } with
    | (s, false) => s
    | (s, true) => s.refuseChip src handle epoch sent 1

/-- Segments 0 upwards, joined. -/
def joinSegments (l : List (Nat × List Byte)) (n : Nat) : List Byte :=
  (List.range n).flatMap (fun i => (assocGet l i).getD [])

/-- CHIP_FRAME (13 R374 to R376): a segment enters its reassembly; the last one completes the chip. -/
def execChipFrame (src handle epoch segment count sendTick : Nat) (data : List Byte) (s : State) :
    Host.Outcome State Fault Refusal :=
  if !s.strandOn then .next s
  else
    let same : ChipParts → Bool := fun c => c.src == src && c.handle == handle && c.epoch == epoch && c.sendTick == sendTick
    let c := (s.strand.chips.find? same).getD
      { src := src, handle := handle, epoch := epoch, count := count, sendTick := sendTick, segments := [], since := s.clk }
    let c := { c with segments := assocSet c.segments segment data }
    let rest := s.strand.chips.filter (fun x => !same x)
    if count ≤ c.segments.length then
      .next ({ s with strand := { s.strand with chips := rest } }.takeChip src handle epoch sendTick
        (joinSegments c.segments count))
    else .next { s with strand := { s.strand with chips := rest ++ [c] } }

/-- CHIP_REASSEMBLY_TIMEOUT (13 R375): 100 µs after its first segment. -/
def execChipReassemblyTimeout (src handle epoch : Nat) (s : State) : Host.Outcome State Fault Refusal :=
  let this : ChipParts → Bool := fun c => c.src == src && c.handle == handle && c.epoch == epoch
  match s.strand.chips.find? this with
  | some c =>
    let s := s.atClk (c.since + 100 * usTicks)
    .next ((({ s with strand := { s.strand with chips := dropFirst this s.strand.chips } }).bump
      (obj 0x2206 0x0E)).raiseSlow 0xA009 src)
  | none => .next s

/-! ### Floors (05 R157) -/

/-- Variance of a list of integers, over all of them (log entry 131). -/
def variance (l : List Int) : ℚ :=
  if l.isEmpty then 0
  else
    let n : ℚ := l.length
    let m : ℚ := (sumI l : ℚ) / n
    sumQ (l.map (fun d => ((d : ℚ) - m) * (d - m))) / n

/-- σ_c² of a plane in lines² (05 R157): measured from 1,024 twin pairs, the configured value before and on the AEH-1282. T is the line period
of `port`, the plane's port whose floor is computed (log entry 131). -/
def State.noise2 (s : State) (port : Nat) (pairs : List Int) : ℚ :=
  if pairs.length < 1024 || s.variant == .aeh1282 then
    let c : ℚ := (s.nat (obj 0x2602 6) : ℚ) / 1000
    c * c
  else
    let t := s.linePeriod port
    max 0 (variance pairs / (2 * t * t) - 1 / 12)

/-- σ_floor of a face and lane group in ns (01 R25). -/
def State.floorOf (s : State) (face g : Nat) : Nat :=
  let p := s.prior face g
  let tp := s.tau p.v s.hP
  let tb := s.tau (p.v + s.gravity * tp) s.hB
  let k := if tp = 0 then 0 else tb / tp
  let tl := s.linePeriod face * 5 / 4
  let tu := s.linePeriod (face + 2) * 5 / 4
  let cl := s.noise2 face s.tracker.twinLower
  let cu := s.noise2 (face + 2) s.tracker.twinUpper
  roundN (sqrtQ ((1 + k) * (1 + k) * tl * tl * (1 / 12 + cl) + k * k * tu * tu * (1 / 12 + cu)))

/-- The face and the lane group exist: the AEH-1282 has the front face and lane groups 0 to 7 (05 R142, R143). -/
def State.faceGroup (s : State) (face g : Nat) : Bool := g < s.laneGroups && (s.variant == .aeh2564 || face == 0)

/-- The noise of both planes and σ_floor of every lane group as they stand (05 R157). -/
def State.recomputeFloors (s : State) : State :=
  let s := (s.keep (obj 0x2602 7) (min 1000 (roundN (sqrtQ (s.noise2 2 s.tracker.twinUpper) * 1000)))).keep (obj 0x2602 8)
    (min 1000 (roundN (sqrtQ (s.noise2 0 s.tracker.twinLower) * 1000)))
  { s with tracker := { s.tracker with
    floorAt := s.clk
    floors := [0, 1].map (fun f => (List.range 16).map (fun g => if s.faceGroup f g then s.floorOf f g else 0)) } }

/-- FLOOR_RECOMPUTE (05 R157): once per second. -/
def execFloorRecompute (s : State) : Host.Outcome State Fault Refusal :=
  if !s.module.mainUp then .next s else .next (s.atClk (s.tracker.floorAt + secTicks)).recomputeFloors

end Sys2Proof.Machine
end

