-- ==== Sys2Proof/Machine/CameraOps.lean ====
section
/-!
DEFINITION. The operations of the camera ports (03): triggers and their grid, pairing, lines, frames and their records, settings generations, loss,
start and stop.
-/
namespace Sys2Proof.Machine

/-! ### Profile -/

/-- The event code of a port (03 R95). -/
def portEvent (p item : Nat) : Nat := 0x3000 + 0x100 * p + item

/-- The partner of a port (03 R63); none on the AEH-1282. -/
def State.partner (s : State) (p : Nat) : Option Nat :=
  match s.variant with
  | .aeh1282 => none
  | .aeh2564 => some (if p % 2 = 0 then p + 1 else p - 1)

/-- Pixels per clock of a configuration and a pixel format; 0 where it is not allowed (03 R64). -/
def pixelsPerClock (cfg fmt : Nat) : Nat :=
  match cfg with
  | 0 => [3, 2, 2, 1, 0, 0].getD fmt 0
  | 1 => [6, 4, 4, 2, 1, 1].getD fmt 0
  | 2 => [8, 0, 0, 0, 2, 0].getD fmt 0
  | 3 => [10, 8, 0, 0, 2, 2].getD fmt 0
  | _ => 0

def State.ppc (s : State) (p : Nat) : Nat := pixelsPerClock (s.nat (camKey p 0x2302 1)) (s.nat (camKey p 0x2302 3))
def State.wmin (s : State) (p : Nat) : Nat := s.nat (camKey p 0x2302 8)
def State.wmax (s : State) (p : Nat) : Nat := s.nat (camKey p 0x2302 9)
def State.fvalMode (s : State) (p : Nat) : Bool := s.nat (camKey p 0x2301 3) == 1

/-- The line time of a trigger (03 R73). -/
def State.lineTime (s : State) (p tick : Nat) : Nat := tick + s.nat (camKey p 0x2302 0x0A)

/-- The tick of trigger `n` of the grid (02 R41). -/
def State.gridTick (s : State) (p n : Nat) : Nat := roundDiv (256 * s.nat (camKey p 0x2303 2) + n * s.nat (camKey p 0x2303 1)) 256

/-- The first trigger of the grid that falls at or after a tick. -/
def State.gridFrom (s : State) (p t : Nat) : Nat :=
  let period := max 1 (s.nat (camKey p 0x2303 1))
  let n := (256 * t - 256 * s.nat (camKey p 0x2303 2)) / period
  if t ≤ s.gridTick p n then n else n + 1

/-- Where a pixel of the line arrives: clock and tap (03 R66). In geometry 1 tap k begins at column k W / T, rounded down where T does not
divide W; in geometry 2 with an odd T the last tap carries nothing (log entry 118). -/
def tapOf (geometry t w x : Nat) : Nat × Nat :=
  match geometry with
  | 1 => let k := ((x + 1) * t - 1) / w; (x - k * w / t, k)
  | 2 =>
    let h := t / 2
    if x < w / 2 then (x / h, x % h) else let y := w - 1 - x; (y / h, h + y % h)
  | _ => (x / t, x % t)

/-- The clocks that count towards the line (03 R67). -/
def State.validClocks (s : State) (p : Nat) (cs : List PixelClock) : List PixelClock :=
  if s.nat (camKey p 0x2302 5) = 1 then cs.filter (fun c => c.dval) else cs

/-- Pixels and padded columns of a line from its valid clocks (03 R66, R69). -/
def State.placePixels (s : State) (p : Nat) (cs : List PixelClock) : List Pixel × List Nat :=
  let w := s.widthOf p
  let t := max 1 (s.ppc p)
  let ch := formatChannels (s.formatOf p)
  let g := s.nat (camKey p 0x2302 2)
  ((List.range w).map (fun x =>
      let i := tapOf g t w x
      match cs[i.1]? with
      | some c => c.taps.getD i.2 (List.replicate ch 0)
      | none => List.replicate ch 0),
    (List.range w).filter (fun x => cs.length ≤ (tapOf g t w x).1))

/-! ### Settings generations (03 R85 to R88) -/

/-- Assign the next generation to a frame. -/
def Camera.assign (c : Camera) (frame : Nat) (sure : Bool) : Camera :=
  let g := (c.lastGen + 1) % 2 ^ 32
  { c with lastGen := g, gens := c.gens ++ [{ gen := g, frame := frame, sure := sure }] }

/-- Duration of a transmission on the serial link in ticks: ten bits a byte (03 R84). -/
def State.serialTicks (s : State) (p n : Nat) : Nat := 10 * n * secTicks / max 1 (s.nat (camKey p 0x2302 0x0D))

/-! ### CC2, CC3 and CC4 (03 R75) -/

/-- The source of a line, 0 to 2, of a port. -/
def State.ccSource (s : State) (p i : Nat) : Nat := s.nat (camKey p 0x2304 (i + 1))

/-- The level that a line's source gives it; the pulses of the sources 3 to 5 are sent by themselves. -/
def State.ccLevel (s : State) (p i : Nat) : Bool :=
  s.module.mainUp &&
  match s.ccSource p i with
  | 1 => true
  | 2 => bitOf (s.nat (camKey p 0x2304 4)) i
  | 5 => s.time.syncOutHigh
  | 6 => (s.cam p).cc1Running && ((s.cam p).state == .streaming || (s.cam p).state == .lost)
  | _ => false

/-- The lines of a port take the levels of their sources; each change is sent. -/
def State.settleCc (s : State) (p : Nat) : State :=
  [0, 1, 2].foldl (fun s i =>
    let c := s.cam p
    let level := s.ccLevel p i
    if level = c.cc.getD i false then s else (s.setCam p { c with cc := c.cc.set i level }).emit (.ccLevel p i s.tick level)) s

/-- The lines of every port follow their sources. -/
def State.settleCcs (s : State) : State := [0, 1, 2, 3].foldl State.settleCc s

/-- The lines of a port with this source pulse. -/
def State.pulseCc (s : State) (source tick width p : Nat) : State :=
  [0, 1, 2].foldl (fun s i => if s.ccSource p i = source then s.emit (.ccPulse p i tick width) else s) s

/-- A pulse that the lines of a port repeat ends early. -/
def State.endCc (s : State) (source p : Nat) : State :=
  [0, 1, 2].foldl (fun s i => if s.ccSource p i = source then s.emit (.ccLevel p i s.tick false) else s) s

/-! ### Frames (03 R76 to R82) -/

/-- Lines have been written into a frame's buffer: a missing line carries no samples (03 R72, R76, R81). -/
def written (lines : List Line) : Bool := lines.any (fun l => !l.missing)

/-- Frame buffers of P2 or P3 that are busy (03 R81). -/
def State.busyBuffers (s : State) (p : Nat) : Nat :=
  (s.pipe.frames.filter (fun f => f.port == p && f.held)).length
  + ((s.cam p).frames.filter (fun f => !f.dropped && written f.lines)).length

/-- Lines and bytes per line of a port's frame buffer: a line's time and its samples at 16 bits (log entry 119). -/
def State.bufferLines (s : State) (p : Nat) : Nat := if s.fvalMode p then 1024 else s.nat (camKey p 0x2301 4)
def State.bufferLine (s : State) (p : Nat) : Nat := 8 + 2 * s.widthOf p * formatChannels (s.formatOf p)

/-- Where a line of a frame buffer stands in LPDDR4X (03 R81; the layout of log entry 119). -/
def State.bufferAt (s : State) (p buffer line : Nat) : Nat :=
  let ring := s.nat (camKey 2 0x2301 5) * s.bufferLines 2 * s.bufferLine 2
  s.nat (obj 0x2F02 5) + (if p = 2 then 0 else ring) + (buffer * s.bufferLines p + line) * s.bufferLine p

/-- A received line is written into its frame's buffer (03 R81). -/
def State.writeLine (s : State) (p : Nat) (f : OpenFrame) (l : Line) : State :=
  let d := leBytes 8 l.time ++ (l.pixels.map (fun x => (x.map (leBytes 2)).flatten)).flatten
  let a := s.bufferAt p f.buffer (l.index - f.firstIndex)
  if inDdr a d.length then s.memWrite a d else s

/-- The next buffer of the ring that no frame holds. -/
def State.freeBuffer (s : State) (p : Nat) : Nat :=
  let n := max 1 (s.nat (camKey p 0x2301 5))
  let c := s.cam p
  let held := (c.frames.filter (fun f => !f.dropped)).map (·.buffer)
    ++ (s.pipe.frames.filter (fun f => f.port == p && f.held)).map (·.buffer)
  (((List.range n).map (fun i => (c.buffer + 1 + i) % n)).find? (fun b => !held.contains b)).getD ((c.buffer + 1) % n)

/-- A frame begins: its number, its buffer, the drop of R81 where every buffer is busy, and the frame-start pulses of R75. A frame of a LOST
port has the generation and span of the loss (03 R94). -/
def State.beginFrame (s : State) (p index time : Nat) : State :=
  let c := s.cam p
  let n := s.nat (camKey p 0x2301 5)
  let drop := 2 ≤ p && n ≤ s.busyBuffers p
  let buffer := if 2 ≤ p then s.freeBuffer p else 0
  let c := if c.rejoinGen then { (c.assign c.nextFrame true) with rejoinGen := false } else c
  let c := match c.cc1Pending with
    | some w => { (c.assign c.nextFrame true) with cc1Width := w, cc1Pending := none }
    | none => c
  let f : OpenFrame :=
    { number := c.nextFrame, firstIndex := index, firstTime := time, lastTime := time, firstClk := s.clk, dropped := drop
      lostFlag := c.state == .lost, lossGen := if c.state == .lost then c.lossGen else none, buffer := buffer, fresh := c.freshStream }
  let s := s.setCam p { c with frames := c.frames ++ [f], freshStream := false, nextFrame := (c.nextFrame + 1) % 2 ^ 32, buffer := if drop then c.buffer else buffer }
  let s := s.pulseCc 4 s.tick (s.nat (camKey p 0x2303 3)) p
  if drop then (s.bump (camKey p 0x2307 5)).raiseSlow (portEvent p 9) p else s

/-- The frame record (03 R80). -/
def State.frameRecord (s : State) (p : Nat) (f : OpenFrame) : FrameRecord :=
  let c := s.cam p
  let g := f.lossGen.getD (s.generationOf p f.number)
  { number := f.number, port := p, span := g.2
    flags := boolNat (0 < g.2) + 2 * boolNat (c.unconfirmed.contains g.1) + 4 * boolNat (0 < f.short) + 8 * boolNat (0 < f.missing)
      + 16 * boolNat f.lostFlag + 32 * boolNat f.dropped + 64 * boolNat f.shortFlag + 128 * boolNat f.split + 256 * boolNat f.stepFlag
    height := f.height, missing := f.missing, short := f.short, generation := g.1
    firstIndex := f.firstIndex, firstTime := f.firstTime, lastTime := f.lastTime }

/-- The record stands in 0x2306 (03 R80, R97). -/
def State.showFrame (s : State) (p : Nat) (r : FrameRecord) : State :=
  let k := fun i => camKey p 0x2306 i
  (((((((((s.putNat (k 1) r.number).putNat (k 2) r.height).putNat (k 3) r.firstIndex).putNat (k 4) r.firstTime).putNat (k 5) r.lastTime).putNat
    (k 6) r.generation).putNat (k 7) r.span).putNat (k 8) r.flags).putNat (k 9) r.missing).putNat (k 10) r.short

/-- A frame closes (03 R76, R80, R82): its record, its hand-over to the engine. -/
def State.closeFrame (s : State) (p : Nat) (f : OpenFrame) : State :=
  let r := s.frameRecord p f
  let c := s.cam p
  let s := s.setCam p { c with frames := c.frames.filter (fun g => g.firstIndex != f.firstIndex || g.number != f.number) }
  let s := s.showFrame p r
  let s := if f.split then (s.bump (camKey p 0x2307 6)).raise (portEvent p 8) p else s
  let s := if f.shortFlag then s.bump (camKey p 0x2307 7) else s
  if p < 2 then
    let e := s.engine p
    (s.setEngine p { e with closed := e.closed ++ [r] }).settleFix p
  else
    let g : GradeFrame := { port := p, record := r, dropped := f.dropped, fresh := f.fresh, lines := if f.dropped then [] else f.lines
                            held := !f.dropped && written f.lines, buffer := f.buffer }
    { s with pipe := { s.pipe with frames := s.pipe.frames ++ [g] } }

/-- Close every frame of a port whose lines have all settled. -/
def State.closeReady : Nat → State → Nat → State
  | 0, s, _ => s
  | n + 1, s, p =>
    match (s.cam p).frames.find? (fun f => f.complete && f.triggers ≤ f.settled) with
    | some f => State.closeReady n (s.closeFrame p f) p
    | none => s

/-- Enter a line by its trigger index. -/
def insertLine (x : Line) : List Line → List Line
  | [] => [x]
  | y :: r => if x.index < y.index then x :: y :: r else y :: insertLine x r

/-- The first line written into a frame makes its buffer busy: event 0x4006 as more than three quarters are (04 R138). -/
def State.crossBusy (s : State) (p before : Nat) : State :=
  let n := s.nat (camKey p 0x2301 5)
  if 3 * n < 4 * s.busyBuffers p ∧ 4 * before ≤ 3 * n then s.raise 0x4006 p else s

/-- A line settles: written or emitted missing. It enters its frame, on P2 and P3 its buffer too, and P0 and P1 hand it to the Fix engine at
once. -/
def State.settleLine (s : State) (p : Nat) (l : Line) : State :=
  let c := s.cam p
  let hit : OpenFrame → Bool := fun f => f.firstIndex ≤ l.index && l.index < f.firstIndex + f.triggers
  let number := ((c.frames.find? hit).map (·.number)).getD noFrame
  let l := { l with frame := number }
  let enter : OpenFrame → OpenFrame := fun f =>
    { f with
      settled := f.settled + 1, height := f.height + 1, missing := f.missing + boolNat l.missing, short := f.short + boolNat l.short
      lastTime := if f.lastIndex ≤ l.index then l.time else f.lastTime, lastIndex := max f.lastIndex l.index, lostFlag := f.lostFlag || c.state == .lost
      lines := if p < 2 then [] else insertLine l f.lines }
  let before := s.busyBuffers p
  let s := s.setCam p { c with frames := c.frames.map (fun f => if hit f then enter f else f) }
  let s := match c.frames.find? hit with
    | some f => if p < 2 || f.dropped || l.missing then s else (s.writeLine p f l).crossBusy p before
    | none => s
  let s :=
    if p < 2 then
      let e := s.engine p
      let busy := if e.done.isEmpty then 0 else 1
      let waiting := e.waiting.take busy ++ insertLine l (e.waiting.drop busy)
      (s.setEngine p { e with waiting := waiting }).settleFix p
    else s
  State.closeReady (c.frames.length + 1) s p

/-! ### Loss, start, stop (03 R90, R91, R93, R94) -/

/-- The open blobs or components of a port that streams no more close once its lines are processed (04 R108). -/
def State.settleEngine (s : State) (p : Nat) : State := if p < 2 then s.settleFix p else s.settleGrade p

/-- A streaming port is lost (03 R93, R94): the queue of commands is emptied (a transmission in progress ends by itself, log entry 163), and the
open blobs or components of the port close once its lines are processed (04 R108); a lower port's face is predicted from the upper plane alone
(05 R151). -/
def State.losePort (s : State) (p : Nat) : State :=
  let c := s.cam p
  if c.state ≠ .streaming then s
  else
    let g := s.generationOf p (s.frameNow p)
    let s := s.setCam p { c with
      state := .lost, queue := [], recovering := false, consecutiveMissing := 0, lossGen := some g
      frames := c.frames.map (fun f => { f with lostFlag := true, lossGen := some (f.lossGen.getD g) }) }
    let s := (s.bump (camKey p 0x2307 8)).raise (portEvent p 3) p
    if p < 2 then (s.settleFix p).predictFace p else s.settleGrade p

/-- A trigger finds no line (03 R72): the missing line, its count, and the 64th in a row. -/
def State.missLine (s : State) (p : Nat) (t : PendingTrigger) (counted : Bool) : State :=
  let s := if counted then s.bump (camKey p 0x2307 1) else s
  let c := s.cam p
  let s := s.setCam p { c with consecutiveMissing := c.consecutiveMissing + boolNat (!t.lost) }
  let s := s.settleLine p { index := t.index, time := s.lineTime p t.tick, missing := true, ctx := s.context p }
  if 64 ≤ (s.cam p).consecutiveMissing then s.losePort p else s

/-- A stop is complete once nothing is pending: the last line has been paired or emitted as missing (03 R91). A line still in reception then enters
its frame as it ends. -/
def State.settleStop (s : State) (p : Nat) : State :=
  let c := s.cam p
  if c.stopping && !c.cc1Running && c.pending.isEmpty then
    let s := s.setCam p { c with
      state := .idle, stopping := false, frames := c.frames.map (fun f => { f with complete := true }) }
    let s := State.closeReady (c.frames.length + 1) s p
    let s := s.raise (portEvent p 2) p
    s.settleEngine p
  else s

/-- In FVAL mode a line counts towards the frame in progress, which closes at 1,024 lines (03 R77). -/
def State.countInFval (s : State) (p : Nat) : State :=
  let c := s.cam p
  let count : OpenFrame → OpenFrame := fun f =>
    if f.complete then f else
    { f with triggers := f.triggers + 1, complete := decide (1024 ≤ f.triggers + 1), split := decide (1024 ≤ f.triggers + 1) }
  s.setCam p { c with frames := c.frames.map count }

/-- In FVAL mode a trigger that ends missing belongs to the frame in progress, where there is one. -/
def State.missInFrame (s : State) (p : Nat) : State := if s.fvalMode p then s.countInFval p else s

/-- Pending triggers older than wmax are emitted missing (03 R72); the last one may end a stop (03 R91). -/
def State.expire : Nat → State → Nat → State
  | 0, s, p => s.settleStop p
  | n + 1, s, p =>
    let c := s.cam p
    match c.pending with
    | [] => s.settleStop p
    | t :: r =>
      if s.tick ≤ t.tick + s.wmax p then s
      else State.expire n ((s.setCam p { c with pending := r }).missInFrame p |>.missLine p t true) p

/-- Every pending trigger of a port is emitted missing at once (03 R78); the last one may end a stop (03 R91). -/
def State.missAll : Nat → State → Nat → State
  | 0, s, p => s.settleStop p
  | n + 1, s, p =>
    let c := s.cam p
    match c.pending with
    | [] => s.settleStop p
    | t :: r => State.missAll n ((s.setCam p { c with pending := r }).missInFrame p |>.missLine p t true) p

/-- A start fails or ends before it streams: the port returns to the state it had (03 R90). -/
def State.backOut (s : State) (p : Nat) : State :=
  let c := s.cam p
  s.setCam p { c with state := c.before, step := .none, planeStart := false, cc1Running := false }

/-- An accepted start fails; a plane start returns both partners (03 R90). -/
def State.failStart (s : State) (p : Nat) : State :=
  let both := (s.cam p).planeStart
  let s := ((s.backOut p).bump (camKey p 0x2307 0x0C)).raise (portEvent p 5) p
  match both, s.partner p with
  | true, some q => if (s.cam q).state = .starting then s.backOut q else s
  | _, _ => s

/-- The sample rate of a port in samples per second, as `ch` samples a pixel (04 R107). -/
def State.sampleRate (s : State) (p ch : Nat) : ℚ :=
  ((s.widthOf p * ch * secTicks * 256 : Nat) : ℚ) / max 1 (s.nat (camKey p 0x2303 1))

/-- The admission test of a plane's engine with these ports started (04 R107, R111): the event of a refusal, or 0. -/
def State.admission (s : State) (ports : List Nat) : Nat :=
  let rate := fun (l : List Nat) (colour : Bool) => sumQ ((l.filter (fun q => s.portActive q || ports.contains q)).map (fun q =>
    s.sampleRate q (if colour then formatChannels (s.formatOf q) else 1)))
  if ports.any (· < 2) ∧ 1520000000 < rate [0, 1] false then 0x4003
  else if ports.any (2 ≤ ·) ∧ 3200000000 < rate [2, 3] true then 0x4004
  else 0

/-- The checks of step 1 on one port (03 R90). -/
def State.profileOk (s : State) (p : Nat) : Bool :=
  let w := s.widthOf p
  let period := s.linePeriod p
  w % 64 == 0 && 256 ≤ w && w ≤ 8192 && s.ppc p != 0
  && decide (((s.wmax p : Int) - s.wmin p : ℚ) < period) && decide ((s.wmax p : ℚ) ≤ 15 * period)

/-- The port may not be started now. -/
def State.startBarred (s : State) (p : Nat) : Bool := s.portActive p || (s.cam p).stopping

/-- A start is refused at its write (03 R90); the addressed port counts and raises it, for its partner too (log entry 164). -/
def State.refuseStart (s : State) (p : Nat) : State × Nat :=
  ((s.bump (camKey p 0x2307 0x0C)).raise (portEvent p 5) p, abortState)

/-- Step 1 of an accepted start on one port, and the beginning of step 2 or 4 (03 R90, R92). -/
def State.beginStart (plane : Bool) (s : State) (p : Nat) : State :=
  let c := s.cam p
  let detect := s.nat (camKey p 0x2301 2) == 1 && c.pocl != 2
  s.setCam p { c with
    state := .starting, before := c.state, planeStart := plane, startDeadline := s.clk + 5 * secTicks
    step := if detect then .detect else .clock
    pocl := if detect then 1 else c.pocl, poclTrips := if c.pocl = 4 then [] else c.poclTrips }

/-- The action of a start command. -/
def State.startCommand (s : State) (p : Nat) (ports : List Nat) (plane : Bool) : State × Nat :=
  if ports.any s.startBarred then (s, abortState)
  else if !ports.all s.profileOk then s.refuseStart p
  else if s.admission ports ≠ 0 then
    let r := s.refuseStart p
    (r.1.raise (s.admission ports) p, r.2)
  else
    let s := s.keep (camKey p 0x2301 1) (if plane then 2 else 1)
    (ports.foldl (State.beginStart plane) s, 0)
def actStartPort (p : Nat) (s : State) : State × Nat := s.startCommand p [p] false
def actStartPlane (p : Nat) (s : State) : State × Nat := s.startCommand p (p :: (s.partner p).toList) true

/-- The number of the next frame of a port that starts, or rejoins, while its partner begins frames: it streams or is LOST (03 R79, R94). -/
def State.nextNumber (s : State) (p : Nat) : Option Nat :=
  match s.partner p with
  | some q =>
    let o := s.cam q
    if o.state = .streaming ∨ o.state = .lost then
      let own := (s.cam p).nextFrame
      some (if frameLe own o.nextFrame then o.nextFrame else own)
    else none
  | none => none

/-- Step 7 (03 R90): the first trigger is placed on the grid at least 10 µs ahead. -/
def State.arm (first : Nat) (s : State) (p : Nat) : State :=
  s.setCam p { s.cam p with step := .armed, gridN := s.gridFrom p first, cc1Running := true }

/-- At its first trigger the port streams (03 R90 step 7): index 0, the first frame numbered by R79. Settings commands left from an earlier stream
are discarded (log entry 163). -/
def State.beginStream (s : State) (p : Nat) : State :=
  let c := s.cam p
  let number := if c.planeStart then 0 else (s.nextNumber p).getD 0
  let s := s.setCam p { c with
    state := .streaming, step := .none, planeStart := false, nextIndex := 0
    stopping := false, pending := [], line := none, frames := [], nextFrame := number, fval := false, consecutiveMissing := 0
    queue := [], sending := none, sentEnd := 0, gens := [{ gen := 0, frame := number, sure := true }], lastGen := 0, replies := []
    unconfirmed := [], lossGen := none, recovering := false, rejoinGen := false, cc1Pending := none
    cc1Width := s.nat (camKey p 0x2303 3), freshStream := true }
  let s := s.setEngine p { s.engine p with closings := [] }
  (s.testStrobesOf p).raise (portEvent p 1) p

/-- The action of a stop command (03 R91). A start that does not stream yet ends. -/
def actStopStream (p : Nat) (s : State) : State × Nat :=
  let s := s.keep (camKey p 0x2301 1) 0
  let c := s.cam p
  match c.state with
  | .starting =>
    let s := match c.planeStart, s.partner p with
      | true, some q => if (s.cam q).state = PortState.starting then s.backOut q else s
      | _, _ => s
    (s.backOut p, 0)
  | .streaming | .lost =>
    if s.fvalMode p then
      let s := s.setCam p { c with stopping := true, cc1Running := false, frames := c.frames.map (fun f => { f with complete := true }) }
      (((State.closeReady (c.frames.length + 1) s p).settleStop p).settleCc p, 0)
    else
      let whole := c.frames.all (fun f => f.complete)
      (((s.setCam p { c with stopping := true, cc1Running := !whole && c.cc1Running }).settleStop p).settleCc p, 0)
  | _ => (s, 0)

/-- A counter step (03 R78, 02 R41): on every streaming port pending triggers are emitted missing, the frame in progress of a port in grouping mode
closes short, and with it the stream of a port that stops; the generator restarts after the new value. -/
def State.camerasBeforeStep (s : State) : State :=
  [0, 1, 2, 3].foldl (fun s p =>
    match (s.cam p).state with
    | .streaming | .lost =>
      let s := if s.fvalMode p then s else
        let c := s.cam p
        (s.setCam p { c with
          cc1Running := c.cc1Running && !c.stopping
          frames := c.frames.map (fun f =>
            if f.complete then f else { f with complete := true, shortFlag := true, stepFlag := true }) }).settleCc p
      let s := State.missAll ((s.cam p).pending.length + 1) s p
      State.closeReady ((s.cam p).frames.length + 1) s p
    | _ => s) s
def State.camerasAfterStep (s : State) : State :=
  [0, 1, 2, 3].foldl (fun s p => s.setCam p { s.cam p with gridN := s.gridFrom p (s.tick + s.wmax p) }) s

end Sys2Proof.Machine
end

