-- ==== Sys2Proof/Machine/Camera.lean ====
section
/-!
DEFINITION. The commands of the camera ports (03).
-/
namespace Sys2Proof.Machine

/-! ### Triggers and lines (03 R68 to R73, R76, R77) -/

/-- LINE_TRIGGER (02 R41; 03 R71, R72, R75, R76, R81, R88, R90): CC1 fires on the next trigger of the grid, the first of a start begins the
stream; the port appends the trigger to its pending list; in grouping mode it opens a frame or counts towards the frame in progress, and a stop ends
CC1 with the frame's last trigger. H and the frame mode act as they stand at the trigger, on a frame in progress too (log entry 120). -/
def execLineTrigger (p : Port) (s : State) : Host.Outcome State Fault Refusal :=
  let c := s.cam p
  if !c.cc1Running || !s.timeRuns then .next s
  else
    let s := s.atTick (s.gridTick p c.gridN)
    let s := if c.step = .armed then s.beginStream p else s
    let c := s.cam p
    let s := State.expire (c.pending.length + 1) s p
    let t := s.gridTick p c.gridN
    let c := s.cam p
    let index := c.nextIndex
    let inFrame := c.frames.any (fun f => !f.complete)
    let s := if s.fvalMode p || inFrame then s else s.beginFrame p index (s.lineTime p t)
    let c := s.cam p
    let h := s.nat (camKey p 0x2301 4)
    let count : OpenFrame → OpenFrame := fun f =>
      if f.complete then f else { f with triggers := f.triggers + 1, complete := decide (h ≤ f.triggers + 1) }
    let c := if s.fvalMode p then c else { c with frames := c.frames.map count }
    let c := { c with
      pending := c.pending ++ [{ tick := t, index := index }], nextIndex := index + 1, gridN := c.gridN + 1, lastTrigger := t
      cc1Running := !(c.stopping && c.frames.all (fun f => f.complete)) }
    let s := ((s.setCam p c).putNat (camKey p 0x2300 5) index).emit (.cc1 p t c.cc1Width)
    .next ((s.pulseCc 3 t c.cc1Width p).settleCc p)

/-- PAIRING_TIMEOUT (03 R72): the oldest pending trigger has waited longer than wmax and is emitted missing. -/
def execPairingTimeout (p : Port) (s : State) : Host.Outcome State Fault Refusal :=
  let c := s.cam p
  match c.pending with
  | [] => .next s
  | t :: _ =>
    if !s.timeRuns then .next s
    else
      let s := s.atTick (t.tick + s.wmax p + 1)
      .next ((State.expire (c.pending.length + 1) s p).settleStop p)

/-- In FVAL mode a line paired while FVAL is high enters the frame in progress, or opens one (03 R77); a stop has closed the last frame
(03 R91). -/
def State.pairInFval (s : State) (p : Nat) (t : PendingTrigger) (fval : Bool) : State :=
  if !s.fvalMode p || !fval || (s.cam p).stopping then s
  else
    let s := if (s.cam p).frames.any (fun f => !f.complete) then s else s.beginFrame p t.index (s.lineTime p t.tick)
    s.countInFval p

/-- LINE_START (03 R72): a line starts arriving at a tick and is paired with the oldest pending trigger, or discarded as unsolicited. The triggers of frames
that a LOST port began pair with no line, and a LOST port takes none (03 R94); a port that is not STREAMING ignores a line and does not count it (log entry 121). -/
def execLineStart (p : Port) (tick : Nat) (fval : Bool) (s : State) : Host.Outcome State Fault Refusal :=
  if (s.cam p).state ≠ .streaming ∨ (s.cam p).line.isSome ∨ !s.timeRuns then .next s
  else
    let s := s.atTick tick
    let s := State.expire ((s.cam p).pending.length + 1) s p
    let c := s.cam p
    if c.state ≠ .streaming then .next s
    else
      match c.pending.find? (fun t => !t.lost) with
      | none => .next (s.bump (camKey p 0x2307 2))
      | some t =>
        if s.tick < t.tick + s.wmin p then .next (s.bump (camKey p 0x2307 2))
        else
          let s := s.setCam p { c with pending := dropFirst (· == t) c.pending, fval := fval, line := some { trigger := t, fval := fval, ctx := s.context p } }
          .next ((s.pairInFval p t fval).settleStop p)

/-- A received line settles with its pixels (03 R68, R69, R73). -/
def State.receiveLine (s : State) (p : Nat) (l : LineInWork) (cs : List PixelClock) : State :=
  let px := s.placePixels p cs
  let short := !px.2.isEmpty
  let s := s.setCam p { s.cam p with line := none, consecutiveMissing := 0 }
  let s := if short then s.bump (camKey p 0x2307 3) else s
  let s := { s with recorder := { s.recorder with lines := s.recorder.lines.modify p (· + 1) } }
  ((s.settleLine p { index := l.trigger.index, time := s.lineTime p l.trigger.tick, short := short, pixels := px.1, padded := px.2, ctx := l.ctx }).settleStop
    p).settleEngine p

/-- LINE_COMPLETE (03 R68): the line in reception ends after exactly W pixels; what the clocks do not fill is padded. -/
def execLineComplete (p : Port) (clocks : List PixelClock) (s : State) : Host.Outcome State Fault Refusal :=
  match (s.cam p).line with
  | none => .next s
  | some l => .next (s.receiveLine p l (s.validClocks p clocks))

/-- SHORT_LINE (03 R69): LVAL falls before W pixels have arrived. -/
def execShortLine (p : Port) (clocks : List PixelClock) (s : State) : Host.Outcome State Fault Refusal :=
  match (s.cam p).line with
  | none => .next s
  | some l => .next (s.receiveLine p l ((s.validClocks p clocks).take (ceilDiv (s.widthOf p) (max 1 (s.ppc p)) - 1)))

/-- FIFO_OVERRUN (03 R70): the rest of the line is dropped, and the line is marked missing. -/
def execFifoOverrun (p : Port) (s : State) : Host.Outcome State Fault Refusal :=
  match (s.cam p).line with
  | none => .next s
  | some l =>
    let s := (s.setCam p { s.cam p with line := none }).bump (camKey p 0x2307 4)
    .next ((s.missLine p l.trigger false).settleStop p)

/-- FVAL_FALL (03 R77): the frame in progress closes; with fewer than 64 lines it is short. -/
def execFvalFall (p : Port) (s : State) : Host.Outcome State Fault Refusal :=
  if !s.fvalMode p then .next s
  else
    let c := s.cam p
    let close : OpenFrame → OpenFrame := fun f =>
      if f.complete then f else { f with complete := true, shortFlag := decide (f.triggers < 64) }
    let s := s.setCam p { c with fval := false, frames := c.frames.map close }
    .next (State.closeReady (c.frames.length + 1) s p)

/-! ### Camera serial link (03 R84, R85, R88, R89) -/

/-- The action of a write to 0x23p5:01: four commands at most; while the port does not stream it is refused (log entry 122). -/
def actSettings (p : Nat) (d : List Byte) (s : State) : State × Nat :=
  let c := s.cam p
  if c.state ≠ .streaming then (s, abortState)
  else if 4 ≤ c.queue.length then (s, abortMemory)
  else (s.setCam p { c with queue := c.queue ++ [d] }, 0)

/-- SETTINGS_COMMAND (03 R84). -/
def execSettingsCommand (m : Master) (p : Port) (data : List Byte) (s : State) : Host.Outcome State Fault Refusal :=
  .next (s.write m (camKey p 0x2305 1) (.bytes data) (actSettings p data))

/-- The action of a write to 0x23p5:03. -/
def actRaw (p : Nat) (d : List Byte) (s : State) : State × Nat :=
  if (s.cam p).state = .streaming then (s, abortState) else (s.emit (.serial p d), 0)

/-- RAW_TRANSMIT (03 R84). -/
def execRawTransmit (m : Master) (p : Port) (data : List Byte) (s : State) : Host.Outcome State Fault Refusal :=
  .next (s.write m (camKey p 0x2305 3) (.bytes data) (actRaw p data))

/-- SETTINGS_TRANSMIT_START (03 R85): at the first trigger of a frame that falls after the end of the transmission before. -/
def execSettingsTransmitStart (p : Port) (s : State) : Host.Outcome State Fault Refusal :=
  let c := s.cam p
  match c.queue, c.frames.getLast? with
  | d :: r, some f =>
    if c.state ≠ .streaming ∨ c.sending.isSome ∨ f.complete ∨ 1 < f.triggers ∨ f.firstClk < c.sentEnd then .next s
    else
      let c := { (c.assign f.number false) with queue := r }
      let c := { c with sending := some (c.lastGen, s.clk + s.serialTicks p d.length) }
      .next ((s.setCam p c).emit (.serial p d))
  | _, _ => .next s

/-- SETTINGS_TRANSMIT_END (03 R85, R89): the last stop bit is sent, and a reply is expected. -/
def execSettingsTransmitEnd (p : Port) (s : State) : Host.Outcome State Fault Refusal :=
  match (s.cam p).sending with
  | none => .next s
  | some (g, t) =>
    let s := s.atClk t
    let c := s.cam p
    let due := s.clk + s.nat (camKey p 0x2302 0x0F) * msTicks
    let replies := if s.nat (camKey p 0x2302 0x0E) = 0 then c.replies else c.replies ++ [(g, due)]
    .next ((s.setCam p { c with sending := none, sentEnd := s.clk, replies := replies }).bump (camKey p 0x2307 0x0B))

/-- SERIAL_RECEIVE (03 R89): bytes collect in the receive buffer of 256; a terminator answers the oldest command. -/
def execSerialReceive (p : Port) (data : List Byte) (s : State) : Host.Outcome State Fault Refusal :=
  if !s.module.mainUp then .next s
  else
    let c := s.cam p
    let room := 256 - c.rx.length
    let term := s.nat (camKey p 0x2302 0x0E)
    let n := if term = 0 then 0 else (data.filter (fun b => b.toNat == term)).length
    .next ((s.setCam p { c with rx := c.rx ++ data.take room, replies := c.replies.drop n }).bumpBy (camKey p 0x2305 5) (data.length - room))

/-- REPLY_TIMEOUT (03 R89). -/
def execReplyTimeout (p : Port) (s : State) : Host.Outcome State Fault Refusal :=
  let c := s.cam p
  match c.replies with
  | [] => .next s
  | (g, t) :: r =>
    let s := s.atClk t
    .next (((s.setCam p { c with replies := r, unconfirmed := c.unconfirmed ++ [g] }).bump (camKey p 0x2307 0x0A)).raise (portEvent p 7) g)

/-- The action of a write to 0x23p3:03 (03 R88): while streaming in pulse-width mode it waits for the next frame boundary. -/
def actCc1Width (p w : Nat) (s : State) : State × Nat :=
  let s := s.keep (camKey p 0x2303 3) w
  let c := s.cam p
  if s.portActive p ∧ s.nat (camKey p 0x2302 0x0B) = 1 then (s.setCam p { c with cc1Pending := some w }, 0)
  else (s.setCam p { c with cc1Width := w }, 0)

/-- CC1_WIDTH_APPLY (03 R88): at a frame boundary, with the next generation. The first trigger of a frame applies a width that still waits. -/
def execCc1WidthApply (p : Port) (s : State) : Host.Outcome State Fault Refusal :=
  let c := s.cam p
  match c.cc1Pending with
  | none => .next s
  | some w =>
    if c.frames.any (fun f => !f.complete) then .next s
    else .next (s.setCam p { (c.assign c.nextFrame true) with cc1Width := w, cc1Pending := none })

/-! ### Start and stop (03 R90, R91) -/

/-- START_PORT (03 R90). -/
def execStartPort (m : Master) (p : Port) (s : State) : Host.Outcome State Fault Refusal :=
  .next (s.write m (camKey p 0x2301 1) (.num 1) (actStartPort p))

/-- START_PLANE (03 R90). -/
def execStartPlane (m : Master) (p : Port) (s : State) : Host.Outcome State Fault Refusal :=
  .next (s.write m (camKey p 0x2301 1) (.num 2) (actStartPlane p))

/-- STOP_STREAM (03 R91). -/
def execStopStream (m : Master) (p : Port) (s : State) : Host.Outcome State Fault Refusal :=
  .next (s.write m (camKey p 0x2301 1) (.num 0) (actStopStream p))

/-- POCL_DETECTION_DONE (03 R90 steps 2 and 3, R92): V12 is applied to each connector in use that has a PoCL load. -/
def execPoclDetectionDone (p : Port) (loadA loadB : Bool) (s : State) : Host.Outcome State Fault Refusal :=
  let c := s.cam p
  if c.pocl ≠ 1 then .next s
  else
    let b := loadB && s.nat (camKey p 0x2302 1) != 0
    .next (s.setCam p { c with
      pocl := if loadA || b then 2 else 5, poclLoadA := loadA, poclLoadB := b
      step := if c.step = .detect then .clock else c.step })

/-- PIXEL_CLOCK_STABLE (03 R65, R90 steps 4 and 5): a clock, stable for 10 ms, is measured. A clock out of range is not accepted; one whose line
time exceeds the trigger period by more than 0.5 % fails the start. -/
def execPixelClockStable (p : Port) (kHz : Nat) (s : State) : Host.Outcome State Fault Refusal :=
  let c := s.cam p
  let s := if s.module.mainUp then s.setCam p { c with clockKHz := kHz } else s
  if c.step ≠ .clock ∨ c.startDeadline < s.clk ∨ kHz < 20000 ∨ 85000 < kHz then .next s
  else
    let line : ℚ := ((s.widthOf p * 800000 : Nat) : ℚ) / ((s.ppc p * kHz : Nat) : ℚ)
    if s.linePeriod p * 1005 / 1000 < line then .next (s.failStart p)
    else
      let block := s.byteVal (camKey p 0x2302 0x10)
      let s := s.setCam p { s.cam p with step := .sending, settleEnd := s.clk + s.serialTicks p block.length }
      .next (if block.isEmpty then s else s.emit (.serial p block))

/-- PIXEL_CLOCK_TIMEOUT (03 R90): no stable clock within 5 s of the acceptance. -/
def execPixelClockTimeout (p : Port) (s : State) : Host.Outcome State Fault Refusal :=
  let c := s.cam p
  if c.step ≠ .clock ∧ c.step ≠ .detect then .next s else .next ((s.atClk c.startDeadline).failStart p)

/-- STARTUP_BLOCK_SENT (03 R90 step 6): the settle time of 0x23p2:11 begins (R96; log entry 59). -/
def execStartupBlockSent (p : Port) (s : State) : Host.Outcome State Fault Refusal :=
  let c := s.cam p
  if c.step ≠ .sending then .next s
  else
    let s := s.atClk c.settleEnd
    .next (s.setCam p { c with step := .settling, settleEnd := s.clk + s.nat (camKey p 0x2302 0x11) * msTicks })

/-- SETTLE_ELAPSED (03 R90 step 7): the first trigger is placed; partners of a plane start wait for the later of the two. The port streams from
that trigger on. -/
def execSettleElapsed (p : Port) (s : State) : Host.Outcome State Fault Refusal :=
  let c := s.cam p
  if c.step ≠ .settling then .next s
  else
    let s := s.atClk c.settleEnd
    let s := s.setCam p { c with step := .settled }
    let first := s.tick + 10 * usTicks
    match c.planeStart, s.partner p with
    | true, some q =>
      if (s.cam q).step = .settled then .next (State.arm first (State.arm first s p) q) else .next s
    | _, _ => .next (State.arm first s p)

/-! ### Camera power (03 R92) -/

/-- POCL_TRIP (03 R92): more than 400 mA for 2 ms; the third trip within 60 s latches. -/
def execPoclTrip (p : Port) (current : Nat) (s : State) : Host.Outcome State Fault Refusal :=
  let c := s.cam p
  if c.pocl ≠ 2 ∨ current ≤ 400 then .next s
  else
    let trips := s.clk :: c.poclTrips.filter (fun t => s.clk < t + 60 * secTicks)
    let s := s.setCam p { c with
      pocl := if 3 ≤ trips.length then 4 else 3, poclTrips := trips, poclReapplyAt := s.clk + secTicks }
    .next ((s.bump (camKey p 0x2307 9)).raise (portEvent p 6) p)

/-- POCL_REAPPLY (03 R92): one second after a trip. -/
def execPoclReapply (p : Port) (s : State) : Host.Outcome State Fault Refusal :=
  let c := s.cam p
  if c.pocl ≠ 3 then .next s else .next ((s.atClk c.poclReapplyAt).setCam p { c with pocl := 2 })

/-- The action of a write of 1 to 0x23p1:06: a latched port detects its loads again where power is enabled. -/
def actPoclRearm (p : Nat) (s : State) : State × Nat :=
  let c := s.cam p
  if c.pocl = 4 then (s.setCam p { c with pocl := if s.nat (camKey p 0x2301 2) = 1 then 1 else 0, poclTrips := [] }, 0) else (s, 0)

/-- POCL_REARM (03 R92). -/
def execPoclRearm (m : Master) (p : Port) (s : State) : Host.Outcome State Fault Refusal :=
  .next (s.write m (camKey p 0x2301 6) (.num 1) (actPoclRearm p))

/-! ### Loss and recovery (03 R93, R94) -/

/-- PIXEL_CLOCK_LOSS (03 R93): the pixel clock is absent for 1 ms while streaming; a line in reception never completes, nor does the last one
of a port that has stopped. -/
def execPixelClockLoss (p : Port) (s : State) : Host.Outcome State Fault Refusal :=
  let c := s.cam p
  if c.state ≠ .streaming ∧ c.line.isNone then .next s
  else
    let s := s.losePort p
    match c.line with
    | none => .next (s.settleStop p)
    | some l => .next ((((s.setCam p { s.cam p with line := none }).missLine p l.trigger true).settleStop p).settleEngine p)

/-- PORT_RECOVERY (03 R94): the clock of a LOST port has been stable for 100 ms; the start-up block is sent and the settle time begins. -/
def execPortRecovery (p : Port) (kHz : Nat) (s : State) : Host.Outcome State Fault Refusal :=
  let c := s.cam p
  let s := if s.module.mainUp then s.setCam p { c with clockKHz := kHz } else s
  if c.state ≠ .lost ∨ c.recovering ∨ kHz < 20000 ∨ 85000 < kHz then .next s
  else
    let block := s.byteVal (camKey p 0x2302 0x10)
    let s := s.setCam p { c with
      recovering := true, clockKHz := kHz
      settleEnd := s.clk + s.serialTicks p block.length + s.nat (camKey p 0x2302 0x11) * msTicks }
    .next (if block.isEmpty then s else s.emit (.serial p block))

/-- PORT_REJOIN (03 R94): at a frame boundary after the settle time; the next frame takes its number by R79, from the partner's next number as it
stands here (log entry 123), and the next generation. -/
def execPortRejoin (p : Port) (s : State) : Host.Outcome State Fault Refusal :=
  let c := s.cam p
  if c.state ≠ .lost ∨ !c.recovering ∨ s.clk < c.settleEnd ∨ c.frames.any (fun f => !f.complete) then .next s
  else
    let s := s.setCam p { c with
      state := .streaming, recovering := false, rejoinGen := true, consecutiveMissing := 0
      pending := c.pending.map (fun t => { t with lost := true })
      nextFrame := (s.nextNumber p).getD c.nextFrame }
    .next (s.raise (portEvent p 4) p)

end Sys2Proof.Machine
end

