-- ==== Sys2Proof/Machine/DmaOps.lean ====
section
/-!
DEFINITION. The DMA engine's operations (16 R440 to R451) and the address map that it and WIN share (13 R380, 16 R452).
-/
namespace Sys2Proof.Machine

/-! ### The memory window (13 R380, 16 R452) -/

abbrev dmaBase : Nat := 0x0100000000
abbrev strandBase : Nat := 0x0101000000
abbrev bulkBase : Nat := 0x0200000000
abbrev bulkEnd : Nat := 0x1200000000
abbrev linePort : Nat := 0x0100200000
abbrev qspiPort : Nat := 0x0100201000
abbrev exportPort : Nat := 0x0100202000

/-- What stands at a window address. -/
inductive Place where
  | ddr
  | dmaReg (offset : Nat)
  | ring (t offset : Nat)
  | port (code : Nat)
  | strandReg (offset : Nat)
  | aperture (stream offset : Nat)
  | unmapped
  deriving DecidableEq, Repr

/-- The map of the window. -/
def placeOf (a : Nat) : Place :=
  if a < ddrEnd then .ddr
  else if a < dmaBase + 0x2000 then .dmaReg (a - dmaBase)
  else if dmaBase + 0x100000 ≤ a ∧ a < dmaBase + 0x140000 then .ring ((a - dmaBase - 0x100000) / 0x10000) (a % 0x10000)
  else if linePort ≤ a ∧ a < linePort + 0x1000 then .port 2
  else if qspiPort ≤ a ∧ a < qspiPort + 0x1000 then .port 7
  else if exportPort ≤ a ∧ a < exportPort + 0x1000 then .port 8
  else if strandBase ≤ a ∧ a < strandBase + 0x10000 then .strandReg (a - strandBase)
  else if bulkBase ≤ a ∧ a < bulkEnd then .aperture ((a - bulkBase) / 0x100000000) (a % 0x100000000)
  else .unmapped

/-- The number of bytes from `a` on that stand in one place of the map: the next boundary of 4 KiB. -/
def placeRun (a : Nat) : Nat := 4096 - a % 4096

/-- One byte of a trace ring: 16,384 REAL32 samples (16 R452). -/
def State.ringByte (s : State) (t offset : Nat) : Byte :=
  let x := s.loops.traces.getD t {}
  (leBytes 4 ((assocGet x.ring (offset / 4)).getD 0)).getD (offset % 4) 0#8

def State.ringRead (s : State) (t offset : Nat) : Nat → List Byte
  | 0 => []
  | n + 1 => s.ringByte t offset :: State.ringRead s t (offset + 1) n

/-! ### BULK egress (13 R379 to R381) -/

/-- Bytes of this module's BULK frames that wait in the egress queues. -/
def State.bulkQueued (s : State) : Nat :=
  sumN (s.strand.links.map (fun (l : LinkSt) =>
    sumN ((l.queue.filter (fun f => f.hdr.vc == 6 && f.hdr.src == s.strand.id)).map (fun f => 8 * f.hdr.len))))

/-- BULK_FREE: free bytes of the 16 KiB egress FIFO (13 R381). -/
def State.bulkFree (s : State) : Nat := 16384 - (s.bulkQueued + s.dma.gather.data.length)

def State.stream (s : State) (n : Nat) : Stream := s.strand.streams.getD n {}
def State.setStream (s : State) (n : Nat) (x : Stream) : State :=
  { s with strand := { s.strand with streams := s.strand.streams.set n x } }

/-- One BULK frame (13 R379). -/
def State.sendBulk (s : State) (n dest : Nat) (last : Bool) (d : List Byte) : State :=
  let x := s.stream n
  let head := n <<< 56 ||| (x.seq % 256) <<< 48 ||| boolNat last <<< 47 ||| dest % 2 ^ 40
  let s := s.setStream n { x with seq := (x.seq + 1) % 256 }
  s.post x.dest 6 0 (head :: bytesToWords d)

/-- The BULK data gathered so far leave as a frame (16 R446). -/
def State.flushBulk (s : State) (last : Bool) : State :=
  let g := s.dma.gather
  if g.data.isEmpty then s
  else ({ s with dma := { s.dma with gather := {} } }).sendBulk g.stream (g.at_ % 2 ^ 40) last g.data

/-- BULK data of one access join the frame that is being filled, of 8,176 bytes at most; a frame ends too where the destination address does not
follow on (16 R446). -/
def State.gatherBulk (s : State) (stream to_ : Nat) (d : List Byte) : State :=
  let fits := s.dma.gather.data.isEmpty || (s.dma.gather.stream == stream && s.dma.gather.at_ + s.dma.gather.data.length == to_)
  let s := if fits then s else s.flushBulk false
  let g : BulkRun := if s.dma.gather.data.isEmpty then ⟨d, stream, to_⟩ else { s.dma.gather with data := s.dma.gather.data ++ d }
  if g.data.length ≤ 8176 then { s with dma := { s.dma with gather := g } }
  else
    ({ s with dma := { s.dma with gather := { g with data := g.data.drop 8176, at_ := g.at_ + 8176 } } }).sendBulk stream (g.at_ % 2 ^ 40) false
      (g.data.take 8176)

/-! ### Channels -/

def State.chan (s : State) (c : Nat) : DmaChannel := s.dma.channels.getD c {}
def State.setChan (s : State) (c : Nat) (x : DmaChannel) : State :=
  { s with dma := { s.dma with channels := s.dma.channels.set c x } }

/-- A channel that may be started or given a first descriptor (16 R452). -/
def DmaChannel.free (x : DmaChannel) : Bool :=
  x.state == .idle || x.state == .stoppedEnd || x.state == .error || x.state == .aborted

/-- An event of a channel: those of C0 to C7 are not sent as EVENT messages (16 R453). -/
def State.raiseChan (s : State) (c kind sev arg : Nat) : State :=
  let code := 0xC000 + 256 * c + kind
  let s := s.logEvent code sev arg
  let s := if 8 ≤ c then s.sendEvent code sev arg else s
  if 2 ≤ sev then
    let s := s.queueEmcy ⟨genericCode code, code, sev, arg % 65536⟩
    let s := { s with backdrop := { s.backdrop with stripCode := code, stripAcked := false } }
    s.severeTrigger code sev arg
  else s

/-- The requestor of a channel's descriptor (16 R444). -/
def DmaChannel.requestor (x : DmaChannel) : Nat := bits x.desc.control 27 24

/-- A requestor asserts (16 R447): BULK egress and the trace buffers by the state they are in, the line FIFO, the QSPI controller and the
recorder export by their own commands. -/
def State.asserted (s : State) (code : Nat) : Bool :=
  if code = 1 then 2048 ≤ s.bulkFree
  else if 3 ≤ code ∧ code ≤ 6 then (s.loops.traces.getD (code - 3) {}).state == 4
  else s.dma.requests.contains code

/-- The channel has no requestor, or its requestor asserts (16 R442). -/
def State.requested (s : State) (x : DmaChannel) : Bool := x.requestor == 0 || s.asserted x.requestor

/-- The head of the FIFO runs, or waits for its requestor (16 R442, R443). -/
def State.wakeHead (s : State) : State :=
  match s.dma.fifo with
  | [] => s
  | c :: _ =>
    let x := s.chan c
    if x.state = .queued then
      s.setChan c (if s.requested x || x.remain == 0 then { x with state := .active } else { x with state := .waiting, since := s.clk })
    else s

/-- The channel leaves the FIFO. -/
def State.leaveFifo (s : State) (c : Nat) : State :=
  ({ s with dma := { s.dma with fifo := s.dma.fifo.filter (· != c) } }).wakeHead

/-- The channel joins the tail if it is ready, and is else PENDING (16 R442). -/
def State.joinFifo (s : State) (c : Nat) : State :=
  let x := s.chan c
  if s.requested x then
    let s := s.setChan c { x with state := .queued }
    ({ s with dma := { s.dma with fifo := s.dma.fifo ++ [c] } }).wakeHead
  else s.setChan c { x with state := .pending }

/-- The channel stops in ERROR (16 R448): its interrupt is pending whatever the mask, event 0xCc02. -/
def State.dmaError (s : State) (c cause : Nat) : State :=
  let x := s.chan c
  let s := (s.setChan c { x with state := .error, cause := cause, pending := true }).bump (obj 0x2F00 3)
  (s.raiseChan c 2 2 (cause <<< 40 ||| x.cur)).leaveFifo c

/-- An error of that cause; an uncorrectable memory error is counted too (16 R448, R454). -/
def State.dmaFail (s : State) (c cause : Nat) : State := (if cause = 7 then s.bump (obj 0x2F04 2) else s).dmaError c cause

/-- A descriptor read from DDR (16 R444). -/
def State.readDescriptor (s : State) (a : Nat) : Descriptor :=
  let d := s.memRead a 32
  ⟨field d 0 8, field d 8 8, field d 16 4, field d 20 4, field d 24 8⟩

/-- Reserved bits of a descriptor, or an illegal requestor or burst size (16 R448 cause 2). -/
def Descriptor.malformed (d : Descriptor) : Bool :=
  d.src ≥ 2 ^ 40 || d.dst ≥ 2 ^ 40 || d.link ≥ 2 ^ 40 || bits d.link 4 1 != 0
    || bits d.control 30 28 != 0 || bits d.control 23 20 != 0 || bits d.control 15 2 != 0
    || 9 ≤ bits d.control 27 24 || 5 ≤ bits d.control 19 16

/-- The channel takes the descriptor at an address (16 R442, R448 causes 1 to 3, and 7 where its read fails). -/
def State.takeDescriptor (s : State) (c a : Nat) (bad : Bool) : State :=
  let x := s.chan c
  if a % 32 ≠ 0 ∨ !inDdr a 32 then (s.setChan c { x with cur := a, remain := 0 }).dmaFail c 1
  else if bad then (s.setChan c { x with cur := a, remain := 0 }).dmaFail c 7
  else
    let d := s.readDescriptor a
    let s := s.setChan c { x with cur := a, remain := d.count, desc := d }
    if d.malformed then s.dmaFail c 2
    else
      let r := bits d.control 27 24
      if 8 ≤ c ∧ (r = 2 ∨ r = 7 ∨ r = 8) then s.dmaFail c 3 else s.joinFifo c

/-- A channel reads the link of its descriptor (16 R450). -/
def State.followLink (s : State) (c : Nat) (bad : Option MemError) : State :=
  let x := s.chan c
  let link := ofLe (s.memRead (x.cur + 24) 8)
  if bad = some .link then s.dmaFail c 7
  else if link % 2 = 1 then
    ((s.setChan c { x with state := .stoppedEnd, append := false }).raiseChan c 3 0 x.cur).leaveFifo c
  else
    let s := s.leaveFifo c
    if link ≥ 2 ^ 40 ∨ bits link 4 1 ≠ 0 then s.dmaFail c 2 else s.takeDescriptor c (link / 32 * 32) (bad = some .descriptor)

/-- The interrupt of a completed descriptor (16 R451): pending, counted where it was pending, sent to the host by C8 to C15 when unmasked. -/
def State.completionInterrupt (s : State) (c : Nat) : State :=
  let x := s.chan c
  let code := 0xC001 + 256 * c
  if bitOf x.desc.control 31 then
    let s := if x.pending then s.bump (obj 0x2F00 7) else s
    let s := (s.setChan c { x with pending := true }).logEvent code 0 x.cur
    if 8 ≤ c ∧ x.unmask then s.sendEvent code 0 x.cur else s
  else s

/-- The descriptor is counted, and its interrupt raised (16 R451). -/
def State.countDescriptor (s : State) (c : Nat) : State :=
  let x := s.chan c
  ((s.setChan c { x with done := (x.done + 1) % 2 ^ 32 }).bump (obj 0x2F01 (c + 1))).completionInterrupt c

/-- The count of the descriptor has ended (16 R450, R451): counted, its interrupt, then its link. -/
def State.finishDescriptor (s : State) (c : Nat) (bad : Option MemError) : State := (s.countDescriptor c).followLink c bad

/-- Descriptors whose count is 0 complete as their channel reaches the head (16 R442), up to a number of them at one instant (log entry 180). -/
def State.settleHead : Nat → State → State
  | 0, s => s
  | n + 1, s =>
    match s.dma.fifo with
    | [] => s
    | c :: _ =>
      let x := s.chan c
      if x.state = .active ∧ x.remain = 0 ∧ !x.own then State.settleHead n (s.finishDescriptor c none) else s

/-- The FIFO after a change of its head. -/
def State.settleFifo (s : State) : State := s.settleHead 1024

/-! ### Moving bytes (16 R445, R446, R448) -/

/-- The burst size of a descriptor, 64 B to 1 KiB (16 R444). -/
def Descriptor.burst (d : Descriptor) : Nat := 64 * 2 ^ bits d.control 19 16

/-- The bytes of the next access on the destination side, with `n` bytes left (16 R445): narrow, of 8, 4, 2 or 1 bytes naturally aligned, up to
a boundary of 16 bytes and for less than 16 bytes; else whole words of 16 bytes up to a boundary of the burst size. -/
def accessLen (burst dst n : Nat) : Nat :=
  if dst % 16 = 0 ∧ 16 ≤ n then min (n / 16 * 16) (burst - dst % burst)
  else if dst % 8 = 0 ∧ 8 ≤ n then 8
  else if dst % 4 = 0 ∧ 4 ≤ n then 4
  else if dst % 2 = 0 ∧ 2 ≤ n then 2
  else min 1 n

/-- The address is one of a port. -/
def isPort (a : Nat) : Bool := match placeOf a with | .port _ => true | _ => false

/-- The bytes of one place of the map that a channel reads, up to a boundary of the map; none where the source is wrong. `data` are the bytes
that a source port supplies. -/
def State.sourceRun (s : State) (x : DmaChannel) (a n : Nat) (data : List Byte) : Option (List Byte) :=
  match placeOf a with
  | .ddr => some (s.memRead a (min n (placeRun a)))
  | .ring t o => some (s.ringRead t o (min n (placeRun a)))
  | .port code => if code = x.requestor ∧ code ≠ 2 then some (data.take n) else none
  | _ => none

/-- The bytes of one access on the source side; an access of at most 1 KiB meets one boundary of the map at most. -/
def State.sourceBytes (s : State) (x : DmaChannel) (a n : Nat) (data : List Byte) : Option (List Byte) :=
  match s.sourceRun x a n data with
  | none => none
  | some d =>
    if d.length < n && !isPort a then (s.sourceRun x (a + d.length) (n - d.length) data).map (d ++ ·) else some d

/-- The channel may write `n` bytes from `a` on (16 R444, R446, R448 cause 5). -/
def State.destOk (s : State) (c : Nat) (x : DmaChannel) (a n : Nat) : Bool :=
  match placeOf a with
  | .ddr =>
    c < 8 ||
      (let lo := s.nat (obj 0x2F02 3)
       decide (lo ≤ a ∧ a + n ≤ lo + s.nat (obj 0x2F02 4)))
  | .port code => code == x.requestor && code != 8
  | .aperture st _ => (s.stream st).enabled
  | _ => false

/-- What a move did: bytes moved, the cause of an error where one stopped it, and whether the requestor withdrew before the end. -/
structure Moved where
  count : Nat := 0
  cause : Nat := 0
  held : Bool := false
  deriving DecidableEq, Repr

/-- One access written: to DDR, to a port, or as BULK data of the descriptor's frames. -/
def State.writeAccess (s : State) (a : Nat) (d : List Byte) : State :=
  match placeOf a with
  | .ddr => s.memWrite a d
  | .port code => s.emit (.stored (0x100 + code) (d.map BitVec.toNat))
  | .aperture st o => s.gatherBulk st ((s.stream st).base + o) d
  | _ => s

/-- Move the `n` bytes left of the current descriptor, access by access, until `goal` of them have moved; `fuel` bounds the accesses. No access
begins while BULK egress, where it is the requestor, has withdrawn (16 R443, R447). A fixed address that is no port takes or gives one byte at a
time. `bad` is the offset, from here, of an uncorrectable memory error: the access that meets it moves nothing. -/
def State.moveRuns : Nat → State → Nat → Nat → Nat → Nat → Nat → List Byte → Option Nat → Moved → State × Moved
  | 0, s, _, _, _, _, _, _, _, m => (s, m)
  | fuel + 1, s, c, n, goal, src, dst, data, bad, m =>
    let x := s.chan c
    if n = 0 ∨ goal ≤ m.count then (s, m)
    else if x.requestor = 1 ∧ !s.asserted 1 then (s, { m with held := true })
    else
      let fixedSrc := bitOf x.desc.control 0
      let fixedDst := bitOf x.desc.control 1
      let single := (fixedSrc && !isPort src) || (fixedDst && !isPort dst)
      let k := if single then 1 else if fixedDst then min n x.desc.burst else accessLen x.desc.burst dst n
      match s.sourceBytes x src k data with
      | none => (s, { m with cause := 4 })
      | some d =>
        if !s.destOk c x dst k then (s, { m with cause := 5 })
        else if !isPort src && (match bad with | some b => decide (b < k) | none => false) then (s, { m with cause := 7 })
        else if d.isEmpty then (s, m)
        else
          let k := d.length
          State.moveRuns fuel (s.writeAccess dst d) c (n - k) goal (if fixedSrc then src else src + k) (if fixedDst then dst else dst + k)
            (if isPort src then data.drop k else data) (bad.map (· - k)) { m with count := m.count + k }

/-- Move bytes of the descriptor a channel runs, `goal` of those left at least, by whole accesses; the last BULK frame, with its flag, leaves with
the last of them. -/
def State.moveBytes (s : State) (c goal : Nat) (data : List Byte) (bad : Option Nat) : State × Moved :=
  let x := s.chan c
  let n := x.remain
  let off := x.desc.count - n
  let src := if bitOf x.desc.control 0 then x.desc.src else x.desc.src + off
  let dst := if bitOf x.desc.control 1 then x.desc.dst else x.desc.dst + off
  if x.own then (s, {})
  else
    match s.moveRuns (n + 1) c n goal src dst data bad {} with
    | (s, m) =>
      let s := if m.count = n then s.flushBulk true else if m.cause ≠ 0 then s.flushBulk false else s
      let s := if m.count = 0 then s else { s with dma := { s.dma with ranAt := some s.clk } }
      ((s.setChan c { s.chan c with remain := n - m.count }).bumpBy (obj 0x2F00 2) m.count, m)

/-- The requestor of the head has withdrawn (16 R443): the burst in progress completes, and the channel waits; a burst that ends the count
completes the descriptor. -/
def State.holdHead (s : State) (c : Nat) (b : Burst) (data : List Byte) : State :=
  match s.moveBytes c b.moved data b.bad with
  | (s, m) =>
    if m.cause ≠ 0 then s.dmaFail c m.cause
    else if (s.chan c).remain = 0 ∧ !(s.chan c).own then s.finishDescriptor c none
    else s.setChan c { s.chan c with state := .waiting, since := s.clk }

/-- The head of the FIFO, where it runs a descriptor with that requestor. -/
def State.headWith (s : State) (code : Nat) : Option Nat :=
  match s.dma.fifo with
  | [] => none
  | c :: _ => if (s.chan c).requestor = code ∧ (s.chan c).state = .active then some c else none

/-- A burst in progress of which nothing is said: a free number of bytes, and free data of a source port (log entry 27). -/
def State.freeBurst (s : State) : State × Burst × List Byte :=
  match s.draw with
  | (n, s) => (s, { moved := Config.burstLeft n }, (List.range 1024).map (Config.portByte n))

/-- A requestor asserts (16 R443, R447): PENDING channels become ready, a WAITING one resumes. -/
def State.dmaAssert (s : State) (code : Nat) : State :=
  ((List.range 16).foldl (fun s c =>
    let x := s.chan c
    if x.requestor = code ∧ x.state = .pending then s.joinFifo c
    else if x.requestor = code ∧ x.state = .waiting then s.setChan c { x with state := .active }
    else s) s).settleFifo

/-- A requestor whose condition is state of this model has come to meet it. -/
def State.dmaFollow (s : State) (code : Nat) : State := if s.asserted code then s.dmaAssert code else s

/-- The block idles for one tick of local time: what waited for a wire and has its turn leaves, and BULK egress asserts again where that makes
room (log entry 1). -/
def State.idle (s : State) : State := s.tickOn.dmaFollow 1

/-- A trace buffer is armed anew: the burst of a channel that reads it completes first, and then its requestor withdraws (16 R447). -/
def State.traceRelease (s : State) (t : Nat) : State :=
  match s.headWith (3 + t) with
  | some c =>
    match s.freeBurst with
    | (s, b, d) => (s.holdHead c b d).settleFifo
  | none => s

/-- The channel aborts after the burst in progress (16 R449): event 0xCc04; what stands of a BULK frame leaves. -/
def State.dmaAbort (s : State) (c : Nat) (b : Burst) (data : List Byte) : State :=
  let x := s.chan c
  if x.free then s
  else
    match (if x.state = .active then s.moveBytes c b.moved data b.bad else (s, {})) with
    | (s, m) =>
      if m.cause ≠ 0 then s.dmaFail c m.cause
      else
        let s := if x.state = .active ∨ x.state = .waiting then s.flushBulk false else s
        ((s.setChan c { s.chan c with state := .aborted }).raiseChan c 4 1 x.cur).leaveFifo c

/-- An abort with no word of the burst in progress. -/
def State.dmaAbortFree (s : State) (c : Nat) : State :=
  if (s.chan c).state = .active then
    match s.freeBurst with
    | (s, b, d) => s.dmaAbort c b d
  else s.dmaAbort c ⟨0, none⟩ []

/-! ### Transfers of the firmware (16 R440) -/

/-- The firmware starts a transfer of `n` bytes on a channel of its own, its requestor asserting: one descriptor, whose bytes move with the
commands of the transfer (log entry 142). A channel that is busy is left alone. -/
def State.fwStart (s : State) (c requestor n : Nat) : State :=
  if !(s.chan c).free then s
  else
    let s := { s with dma := { s.dma with requests := requestor :: s.dma.requests.filter (· != requestor) } }
    (s.setChan c { s.chan c with
      own := true, cause := 0, append := false, done := 0, remain := n
      desc := { count := n, control := requestor * 2 ^ 24, link := 1 } }).joinFifo c

/-- A transfer of the firmware has not come to the head yet, or was stopped. -/
def State.fwBarred (s : State) (c : Nat) : Bool :=
  match (s.chan c).state with
  | .active | .idle | .stoppedEnd => false
  | .queued | .waiting | .pending | .error | .aborted => true

/-- The transfer of the firmware at the head ends: its bytes and its descriptor are counted, and the channel stops at END. -/
def State.fwEnd (s : State) (c : Nat) : State :=
  let x := s.chan c
  if !x.own ∨ x.state ≠ .active then s
  else
    let s := { s with dma := { s.dma with ranAt := some s.clk, requests := s.dma.requests.filter (· != x.requestor) } }
    let s := ((s.setChan c { x with remain := 0, own := false }).bumpBy (obj 0x2F00 2) x.remain).countDescriptor c
    (((s.setChan c { s.chan c with state := .stoppedEnd }).raiseChan c 3 0 x.cur).leaveFifo c).settleFifo

/-- A transfer of the firmware that one command begins and ends, between two descriptors of the FIFO (log entry 142). -/
def State.fwRun (s : State) (c requestor n : Nat) : State :=
  if !s.module.mainUp || !(s.chan c).free then s
  else
    let s := s.setChan c { s.chan c with
      cause := 0, append := false, done := 0, remain := 0, desc := { count := n, control := requestor * 2 ^ 24, link := 1 } }
    let s := (({ s with dma := { s.dma with ranAt := some s.clk } }).bumpBy (obj 0x2F00 2) n).countDescriptor c
    (s.setChan c { s.chan c with state := .stoppedEnd }).raiseChan c 3 0 (s.chan c).cur

/-- Every channel but C2, the waiting ones first, so that none of them is woken by the abort of another (16 R449). -/
def State.abortOrder (s : State) : List Nat :=
  let all := [0, 1, 3, 4, 5, 6, 7, 8, 9, 10, 11, 12, 13, 14, 15]
  all.filter (fun c => (s.chan c).state != .active) ++ all.filter (fun c => (s.chan c).state = .active)

/-- The power-fail warning: every channel but C2 aborts (16 R449). -/
def State.dmaPowerFail (s : State) : State := (s.abortOrder.foldl State.dmaAbortFree s).settleFifo

end Sys2Proof.Machine
end

