-- ==== Sys2Proof/Machine/Fabric.lean ====
section
/-!
DEFINITION. The fabric's operations that raise events (13): topology records and their flooding, module IDs, links going down.
-/
namespace Sys2Proof.Machine

/-! ### Topology records (13 R364) -/

/-- The flag byte of a record. -/
def topoFlags (r : Topo) : Nat :=
  128 * boolNat r.provisional + 64 * boolNat r.conflict + 32 * boolNat r.host + 16 * boolNat r.westEnd + r.links % 16

/-- The 32 bytes of a record. -/
def topoBytes (r : Topo) : List Byte :=
  leBytes 2 r.id ++ leBytes 1 (topoFlags r) ++ leBytes 1 r.state ++ r.neighbours.flatMap (leBytes 2) ++ leBytes 2 r.valves
    ++ (r.serial ++ List.replicate 12 0#8).take 12 ++ leBytes 2 r.seq ++ leBytes 4 0

/-- Send a record on every UP link but one. -/
def State.sendTopo (s : State) (r : Topo) (except : Option Nat) : State :=
  [0, 1, 2, 3].foldl (fun s l =>
    if s.linkUp l && except != some l then s.sendLocal l 7 2 (bytesToWords (topoBytes r)) else s) s

/-- Flood the own record as it stands; its sequence is one higher for each new content. -/
def State.flood (s : State) : State :=
  let now := s.ownTopo
  let r := if now = s.strand.own then now else { now with seq := (now.seq + 1) % 65536 }
  ({ s with strand := { s.strand with own := r, floodAt := s.clk } }).sendTopo r none

/-- Flood the own record if its content has changed. -/
def State.refreshTopo (s : State) : State := if s.ownTopo = s.strand.own then s else s.flood

/-! ### Module ID (13 R361 to R365) -/

/-- An ID takes effect: the island keeps it, a conflict ends, event 0xA006. -/
def State.takeId (s : State) (id : Nat) : State :=
  let s := { s with strand := { s.strand with id := id, idStored := true, provisional := false, conflict := false, rival := [], pendingId := none } }
  (s.raise 0xA006 id).refreshTopo

/-- A learned or assigned ID: confirmed, taken at once, or held while Sorting (13 R363). -/
def State.confirmId (s : State) (id : Nat) : State :=
  if id = s.strand.id then ({ s with strand := { s.strand with idStored := true, provisional := false, pendingId := none } }).refreshTopo
  else if s.module.state = .sorting then { s with strand := { s.strand with pendingId := some id } }
  else s.takeId id

/-- The row from the straps (13 R361). -/
def State.strapRow (s : State) : Nat := s.strand.rowId % 8

/-- The words of a HELLO (13 R360). -/
def State.helloWords (s : State) (l : Nat) : List Nat :=
  let serial := (s.byteVal (obj 0x2000 3) ++ List.replicate 12 0#8).take 12
  [s.strand.id <<< 52 ||| boolNat s.strand.provisional <<< 51 ||| boolNat s.strand.westEnd <<< 50 ||| (s.strand.rowId % 8) <<< 47
      ||| l <<< 45 ||| (s.strand.column.getD 0) <<< 38 ||| boolNat s.strand.column.isSome <<< 37,
   ofLe (serial.take 8).reverse, ofLe (serial.drop 8).reverse <<< 32]

/-- Send HELLO on a link, whatever its state but DOWN (13 R357, R359). -/
def State.sendHello (s : State) (l : Nat) : State :=
  if (s.link l).state = .down then s
  else if s.linkOpen l then s.sendLocal l 7 0 (s.helloWords l)
  else
    s.emit (frameOut l ⟨{ vc := 7, dest := 0xFFF, src := s.strand.id, type := 0, len := 3 }, s.helloWords l, false⟩ 0)

/-- What the module's ID is to be now: assigned in ID mode 1, else learned where the column is known; event 0xA00A once per start where the W
neighbour shows column 63 (13 R361, R362). -/
def State.learnId (s : State) : State :=
  let w := s.link portW
  let col : Option Nat :=
    if s.strand.westEnd then some 0
    else if w.state = .up then
      match w.hello with
      | some h => if h.columnKnown && h.column < 63 then some (h.column + 1) else none
      | none => none
    else none
  let limit := !s.strand.westEnd && w.state = .up
    && (match w.hello with | some h => h.columnKnown && h.column == 63 | none => false)
  let changed := col != s.strand.column
  let s := { s with strand := { s.strand with column := col } }
  let s := if changed then [0, 1, 2, 3].foldl State.sendHello s else s
  let s := if limit && !s.strand.limitRaised then ({ s with strand := { s.strand with limitRaised := true } }).raise 0xA00A 0 else s
  if s.nat (obj 0x2201 1) = 1 then s.confirmId (s.nat (obj 0x2201 2))
  else match s.strand.column with
    | some c => s.confirmId (64 * c + s.strapRow)
    | none => s

/-- An ID held while Sorting takes effect at the next entry to Idle (13 R363). -/
def State.pendingIdTaken (s : State) : State :=
  match s.strand.pendingId with
  | some id => s.takeId id
  | none => s

/-! ### Links (13 R358, R368) -/

/-- Reroute the frames that waited for a link, or drop them; link-local frames are gone. -/
def State.rerouteAll : List Frame → State → State
  | [], s => s
  | f :: r, s =>
    if f.hdr.vc = 0 ∨ f.hdr.vc = 7 then State.rerouteAll r s
    else
      match s.routeOut f with
      | (s, d) => State.rerouteAll r (s.noteDropped d)

/-- A link goes DOWN (13 R358): event 0xA002, frames waiting are rerouted or dropped, the record is flooded. -/
def State.linkDown (s : State) (l : Nat) : State :=
  let c := s.link l
  if c.state = .down then s
  else
    let s := s.setLink l { ({} : LinkSt) with signal := c.signal, trainedAt := s.clk }
    let s := State.rerouteAll (c.unacked.map (·.2) ++ c.queue) s
    let s := (s.bump (obj (0x2210 + l) 7)).raise 0xA002 l
    let s := if c.state = .host then s.raise 0xA008 l else s
    s.learnId.refreshTopo

end Sys2Proof.Machine
end

