-- ==== Sys2Proof/Machine/Loops.lean ====
section
/-!
DEFINITION. The loop engine (09): slots and sampling, sources and outputs, the control law, banks, set-point, states, supervision, trace.
Arithmetic is exact on rationals (log entry 14).
-/
namespace Sys2Proof.Machine

def State.slot (s : State) (n : Nat) : LoopSlot := s.loops.slots.getD n {}
def State.setSlot (s : State) (n : Nat) (x : LoopSlot) : State := { s with loops := { s.loops with slots := s.loops.slots.set n x } }
/-- The key of a slot's object: block 0x2A10 of L0 at the index plus 0x10 × n (09 R281). -/
def slotKey (n index sub : Nat) : Nat := obj (index + 16 * n) sub

/-! ### Banks (09 R267, R268) -/

/-- Field `i` of a bank of coefficients, in the order of R267. -/
def bankReal (b : List Byte) (i : Nat) : ℚ := r32Value (field b (4 * i) 4)

/-- A bank that nothing has written (09 R281): u_hi 100, b0 = 1 in both biquads, all else 0. -/
def defaultBank : List Byte :=
  (List.range 20).flatMap (fun i => leBytes 4 (match i with | 8 => 0x42C80000 | 9 | 14 => 0x3F800000 | _ => 0))

/-- The bank is acceptable (09 R268). -/
def loopBankOk (b : List Byte) : Bool :=
  (List.range 19).all (fun i => !r32NotFinite (field b (4 * i) 4))
  && 0 ≤ bankReal b 7 && bankReal b 7 < bankReal b 8 && bankReal b 8 ≤ 100 && 0 ≤ bankReal b 3 && 0 ≤ bankReal b 4
  && |bankReal b 13| < 1 && |bankReal b 12| < 1 + bankReal b 13 && |bankReal b 18| < 1 && |bankReal b 17| < 1 + bankReal b 18
  && field b 0x4C 4 == 0

/-- The bank that a slot uses: A at 0x2A13, B at 0x2A14. -/
def State.bankOf (s : State) (n which : Nat) : List Byte :=
  let b := s.byteVal (slotKey n (0x2A13 + which) 1)
  if b.isEmpty then defaultBank else b

/-! ### Inputs (09 R260 to R262) -/

/-- A reading of AIN0 to AIN3 in thousandths of mA or V enters the inputs. -/
def State.readAins (s : State) (ains : List Int) : State :=
  let new := (List.range 4).map (fun i =>
    let v : ℚ := (ains.getD i 0 : ℚ) / 1000
    let bad := if s.nat (obj 0x2A01 (i + 1)) = 0 then v < 36 / 10 ∨ 21 < v else v < -5 / 10 ∨ 105 / 10 < v
    ({ value := v, at_ := some s.clk, fault := decide bad } : LoopInput))
  { s with loops := { s.loops with inputs := new ++ s.loops.inputs.drop 4 } }

/-- The last instant at which the fan speeds were updated: every 100 ms of local time (09 R260; log entry 136). -/
def State.fanUpdate (s : State) : Nat := s.clk / (100 * msTicks) * (100 * msTicks)

/-- An engine input as it stands now: PIN0 reads 0 after its timeout; a fan speed is that of the last update. -/
def State.loopInput (s : State) (i : Nat) : LoopInput :=
  let x := s.loops.inputs.getD i {}
  if i = 4 then
    match x.at_ with
    | some t =>
      let limit := s.nat (obj 0x2A01 0x0A) * msTicks
      if t + limit < s.clk then { x with value := 0, at_ := some (t + limit) } else x
    | none => x
  else if 5 ≤ i ∧ i ≤ 8 then
    let u := s.fanUpdate
    let late := match x.at_ with | some t => decide (u < t) | none => false
    { x with value := if late then s.loops.fanHeld.getD (i - 5) 0 else x.value, at_ := some u }
  else x

/-- A tachometer pulse gives a speed (09 R260): the speed before it stays the shown one until the next update. -/
def State.fanSpeedIn (s : State) (fan : Nat) (rpm : ℚ) : State :=
  let held := (s.loopInput (5 + fan)).value
  { s with loops := { s.loops with
    inputs := s.loops.inputs.set (5 + fan) { value := rpm, at_ := some s.clk, fault := false }
    fanHeld := s.loops.fanHeld.set fan held } }

/-- What a source gives at a boundary. -/
inductive SourceRead where
  | ok (v : ℚ)
  | fault
  | stale

/-- Source `code` with a staleness limit in ms; no source gives nothing. -/
def State.readSource (s : State) (code limit : Nat) : SourceRead :=
  let recent : LoopInput → Bool := fun x => match x.at_ with | some t => s.clk ≤ t + limit * msTicks | none => false
  if code = 13 then
    let a := s.loopInput 10
    let b := s.loopInput 11
    match recent a, recent b with
    | true, true => .ok ((a.value + b.value) / 2)
    | true, false => .ok a.value
    | false, true => .ok b.value
    | false, false => .stale
  else if code = 0 then .stale
  else
    let x := s.loopInput (code - 1)
    if x.fault then .fault else if recent x then .ok x.value else .stale

/-! ### Outputs (09 R263 to R265) -/

/-- Duty in percent of a fan drive that no loop owns (11 R331). -/
def State.fanRest (s : State) (i : Nat) : ℚ :=
  let floor : ℚ := (s.nat (obj 0x2C21 1) : ℚ) / 100
  let lo : ℚ := s.nat (obj 0x2C21 2)
  let hi : ℚ := s.nat (obj 0x2C21 3)
  if s.thermal.derated || (List.range 4).any (fun j => j != i && s.thermal.stalled.getD j false) then 100
  else if s.thermal.die ≤ lo then floor
  else if hi ≤ s.thermal.die then 100
  else floor + (100 - floor) * (s.thermal.die - lo) / (hi - lo)

/-- The override of a fan drive that a loop owns (09 R265, 11 R331). -/
def State.fanOverride (s : State) (i : Nat) : ℚ :=
  if s.thermal.derated || (List.range 4).any (fun j => j != i && s.thermal.stalled.getD j false) then 100
  else if s.thermal.warnAbs || s.thermal.warnRate then 70 else 0

/-- The value applied for a controller output of a slot. -/
def State.applied (s : State) (n : Nat) (u : ℚ) : ℚ :=
  let o := s.nat (slotKey n 0x2A11 6)
  if 9 ≤ o then max u (s.fanOverride (o - 9)) else u

/-- What stands on a slot's output now: at rest 0 % while disabled, or the duty of an unowned fan (09 R264). -/
def State.standing (s : State) (n : Nat) : ℚ :=
  let x := s.slot n
  let o := s.nat (slotKey n 0x2A11 6)
  if x.state = .disabled then (if 9 ≤ o then s.fanRest (o - 9) else 0) else s.applied n x.out

/-- The block drives outputs in Idle, Calibrating and Sorting only (09 R273), and not once a request for Moored has been accepted
(11 R321 step 1). -/
def State.outputsPowered (s : State) : Bool :=
  s.power.moorAt.isNone && (match s.module.state with | .idle | .calibrating | .sorting => true | _ => false)

/-- The slot that owns an output (09 R264); a Disabled slot owns none (09 R272). -/
def State.ownerOf (s : State) (o : Nat) : Option Nat :=
  (List.range 8).find? (fun n => (s.slot n).state != .disabled && s.nat (slotKey n 0x2A11 6) == o)

/-- Duty applied to a fan in percent (11 R331); all fans are off while the main side is off, and from step 4 of the power-fail sequence
(11 R317). In the Fault of a broken diode they stand at 100 % for as long as it lasts (R326, 12 R343). -/
def State.fanDuty (s : State) (i : Nat) : ℚ :=
  if !s.module.mainUp || s.power.state == 4 then 0
  else if s.module.state == .fault && (s.module.faultCause == 0x2007 || s.thermal.limitHit) then 100
  else match s.ownerOf (9 + i) with
    | some n => if s.outputsPowered then s.applied n (s.slot n).out else s.fanRest i
    | none => s.fanRest i

/-- What must stand on an output (09 R263, R264, R273): the span and the unit of its mode; an output that no slot owns rests at 0 %. -/
def State.outLevel (s : State) (o : Nat) : OutLevel :=
  let u : ℚ := match s.ownerOf o with | some n => s.applied n (s.slot n).out | none => 0
  if !s.module.mainUp then {}
  else if 9 ≤ o then { unit := 3, value := s.fanDuty (o - 9) }
  else if !s.outputsPowered then {}
  else if 5 ≤ o then { unit := 3, value := u, hz := s.nat (obj 0x2A01 9) }
  else if s.nat (obj 0x2A01 (4 + o)) = 0 then { unit := 1, value := 100 * u }
  else { unit := 2, value := 4000 + 160 * u }

/-- Bring one output to what must stand on it. -/
def State.settleOut (s : State) (o : Nat) : State :=
  let x := s.outLevel o
  if s.loops.outs.getD (o - 1) {} = x then s
  else { s with loops := { s.loops with outs := s.loops.outs.set (o - 1) x } }.emit (.loopOut o x.unit x.value x.hz)

/-- Bring every output to what must stand on it. -/
def State.settleOuts (s : State) : State := (List.range 12).foldl (fun s i => s.settleOut (i + 1)) s

/-- Drive a slot's output, if it owns one. -/
def State.driveOut (s : State) (n : Nat) (v : ℚ) : State :=
  let s := s.setSlot n { s.slot n with out := v }
  let o := s.nat (slotKey n 0x2A11 6)
  if o = 0 then s else s.settleOut o

/-! ### States (09 R272 to R274, R276) -/

/-- The run condition of a slot (09 R273). -/
def State.runCondition (s : State) (n : Nat) : Bool :=
  match s.module.state with
  | .sorting => true
  | .idle | .calibrating => s.nat (slotKey n 0x2A10 3) == 0
  | _ => false

/-- The number of the first boundary after a tick. -/
def State.boundaryAfter (s : State) (n t : Nat) : Nat :=
  let period := max 1 (s.nat (slotKey n 0x2A10 6))
  let phase := s.nat (slotKey n 0x2A10 7)
  if t < phase then 0 else (t - phase) / period + 1

/-- A swap that waits takes effect (09 R269): the banks change, counted, with its event. -/
def State.swapBank (s : State) (n : Nat) : State :=
  let x := s.slot n
  ((s.setSlot n { x with active := 1 - x.active, swapPending := false }).bump (slotKey n 0x2A17 5)).raise (0x8007 + 0x100 * n) n

/-- A slot leaves states 1 and 2: a swap that waits takes effect at once (09 R269). -/
def State.leaveLive (s : State) (n : Nat) : State :=
  let s := if (s.slot n).swapPending then s.swapBank n else s
  s.setSlot n { s.slot n with rebase := false }

/-- Enter warm-up (09 R274). -/
def State.enterWarmUp (s : State) (n : Nat) : State :=
  let x := s.slot n
  let v := s.standing n
  s.setSlot n { x with
    state := .warmUp, cause := 0, fresh := true, rebase := false, warm := s.nat (slotKey n 0x2A15 1), armed := false, staleRun := 0, residRun := 0
    d := 0, bq1 := (0, 0), bq2 := (0, 0), applied := v, out := v, delay := List.replicate 256 v
    next := s.boundaryAfter n s.tick }

/-- Enter Parked: the idle output is driven, filter, derivative and model states are cleared (09 R273). -/
def State.enterParked (s : State) (n : Nat) : State :=
  let s := s.leaveLive n
  let x := s.slot n
  (s.setSlot n { x with state := .parked, cause := 0, d := 0, bq1 := (0, 0), bq2 := (0, 0), yhat := 0, delay := [] }).driveOut n
    (s.real (slotKey n 0x2A10 9))

/-- Automatic: warm-up where the run condition holds, else Parked. -/
def State.enterAuto (s : State) (n : Nat) : State := if s.runCondition n then s.enterWarmUp n else s.enterParked n

/-- After a change of the module's state: run conditions that lapse or return, and the outputs that are powered (09 R273). -/
def State.loopsRecheck (s : State) : State :=
  if s.loops.stopped then s.settleOuts else ((List.range 8).foldl (fun s n =>
    match (s.slot n).state with
    | .warmUp | .running => if s.runCondition n then s else s.enterParked n
    | .parked => if s.runCondition n then s.enterWarmUp n else s
    | _ => s) s).settleOuts

/-- The safe output (09 R276): the value last applied is held, or the fixed one. -/
def State.safeOut (s : State) (n : Nat) : State :=
  if s.nat (slotKey n 0x2A10 0x0A) = 0 then s.driveOut n (s.standing n) else s.driveOut n (s.real (slotKey n 0x2A10 0x0B))

/-- A start of the main side: faults clear, filters begin anew, bank A is active, enabled slots are parked until the module state lets them run
(09 R274, R276, R282). -/
def State.startLoops (s : State) : State :=
  { s with loops := { s.loops with
    stopped := false
    traces := [{}, {}, {}, {}]
    slots := (List.range 8).map (fun n =>
      let e := s.nat (slotKey n 0x2A10 2)
      { ({} : LoopSlot) with
        state := if e = 0 then .disabled else if e = 1 then .parked else .manual
        out := if e = 2 then s.real (slotKey n 0x2A10 8) else if e = 1 then s.real (slotKey n 0x2A10 9) else 0 }) } }

/-- The power-fail warning: every slot stops sampling and drives its safe output (09 R277). -/
def State.stopLoops (s : State) : State :=
  let s := { s with loops := { s.loops with stopped := true } }
  ((List.range 8).foldl (fun s n => if (s.slot n).state = .disabled then s else s.safeOut n) s).settleOuts

/-- The number of the first boundary of the 50 kHz clock after now (09 R278). -/
def State.traceBoundary (s : State) : Nat := s.tick / 16000 + 1

/-- The slot's next boundary is the first after now (09 R258). -/
def State.resumeSlot (s : State) (n : Nat) : State := s.setSlot n { s.slot n with next := s.boundaryAfter n s.tick }

/-- A counter step: slots resume at their first boundary after the new value, and so does the clock of the engine inputs
(09 R258, R278). -/
def State.loopsAfterStep (s : State) : State :=
  let s := (List.range 8).foldl State.resumeSlot s
  { s with loops := { s.loops with traces := s.loops.traces.map (fun (x : Trace) => { x with boundary := s.traceBoundary }) } }

/-! ### Trace (09 R278, R279) -/

def State.trace (s : State) (t : Nat) : Trace := s.loops.traces.getD t {}
def State.setTrace (s : State) (t : Nat) (x : Trace) : State := { s with loops := { s.loops with traces := s.loops.traces.set t x } }

/-- The value of a node: [15:8] a slot or 0xFE for the engine inputs, [7:0] the subindex. -/
def State.nodeValue (s : State) (code : Nat) : ℚ :=
  if code / 256 = 0xFE then (s.loopInput (code % 256 - 1)).value else (s.slot (code / 256)).nodes.getD (code % 256 - 1) 0

/-- The trigger: its tick is recorded and the rest of the buffer fills. -/
def State.traceTrigger (s : State) (t : Nat) : State :=
  let x := s.trace t
  if x.state ≠ 2 then s
  else s.setTrace t { x with state := 3, left := 16384 - s.nat (obj (0x2A90 + t) 6), trigTick := s.tick }

/-- The fault of a loop triggers traces in mode 4. -/
def State.traceLoopFault (s : State) : State :=
  (List.range 4).foldl (fun s t => if s.nat (obj (0x2A90 + t) 3) = 4 then s.traceTrigger t else s) s

/-- A boundary of a trace's clock: the trigger node is read, and the boundary counts towards the decimation. -/
def State.traceClock (s : State) (t : Nat) : State :=
  let x := s.trace t
  if x.state = 0 ∨ x.state = 4 then s
  else
    let v := s.nodeValue (s.nat (obj (0x2A90 + t) 4))
    let level := s.real (obj (0x2A90 + t) 5)
    let rise := match x.last with | some u => decide (u < level ∧ level ≤ v) | none => false
    let fall := match x.last with | some u => decide (level ≤ u ∧ v < level) | none => false
    let mode := s.nat (obj (0x2A90 + t) 3)
    let fire := (rise && (mode == 1 || mode == 3)) || (fall && (mode == 2 || mode == 3))
    let s := s.setTrace t { x with last := some v, skipped := x.skipped + 1 }
    if fire then s.traceTrigger t else s

/-- Store a sample where the decimation is due. -/
def State.traceStore (s : State) (t : Nat) : State :=
  let x := s.trace t
  if x.state = 0 ∨ x.state = 4 ∨ x.skipped < s.nat (obj (0x2A90 + t) 2) then s
  else
    let v := r32Of (s.nodeValue (s.nat (obj (0x2A90 + t) 1)))
    let x := { x with
      ring := assocSet x.ring x.head v, head := (x.head + 1) % 16384, valid := min 16384 (x.valid + 1), skipped := 0, left := x.left - 1 }
    if x.left = 0 ∧ x.state = 3 then (s.setTrace t { x with state := 4 }).dmaFollow (3 + t)
    else s.setTrace t (if x.left = 0 ∧ x.state = 1 then { x with state := 2 } else x)

/-- Slots trace on their own boundaries, in whatever state they are (09 R258, R278). -/
def State.tracesOfSlot (s : State) (n : Nat) : State :=
  (List.range 4).foldl (fun s t => if s.nat (obj (0x2A90 + t) 1) / 256 = n then s.traceClock t else s) s

/-! ### The control law (09 R266) -/

/-- exp(−x) of a non-negative rational, down to 2^-60 (log entry 7). -/
def expNegQ (x : ℚ) : ℚ :=
  if 60 < x then 0
  else
    let y := x / 64
    let sum := ((List.range 24).foldl (fun (p : ℚ × ℚ) k => (p.1 + p.2, p.2 * y / (k + 1 : Nat))) (0, 1)).1
    let sq := fun (q : ℚ) => (((q * q * (2 ^ 80 : Nat)).floor : Int) : ℚ) / (2 ^ 80 : Nat)
    let big := sq (sq (sq (sq (sq (sq sum)))))
    (((1 / big * (2 ^ 60 : Nat)).floor : Int) : ℚ) / (2 ^ 60 : Nat)

/-- One step of a biquad, direct form II transposed: output and states. -/
def biquad (c : Nat → ℚ) (st : ℚ × ℚ) (x : ℚ) : ℚ × (ℚ × ℚ) :=
  let out := c 0 * x + st.1
  (out, (c 1 * x - c 3 * out + st.2, c 2 * x - c 4 * out))

/-- The states of a biquad that has had this input for ever. -/
def biquadSteady (c : Nat → ℚ) (x : ℚ) : ℚ × ℚ :=
  let out := x * (c 0 + c 1 + c 2) / (1 + c 3 + c 4)
  let s2 := c 2 * x - c 4 * out
  (c 1 * x - c 3 * out + s2, s2)

/-- P, D, FF and the smoothing factor with a bank. -/
def pdff (b : List Byte) (x : LoopSlot) (y r ts : ℚ) : ℚ × ℚ × ℚ :=
  let tf := bankReal b 3
  let alpha := tf / (tf + ts)
  (bankReal b 0 * (r - y), alpha * x.d - (1 - alpha) * bankReal b 2 * (y - x.y) / ts, bankReal b 5 * r + bankReal b 6)

/-- The set-point of this sample (09 R270, R271); none: the external input is in source fault. -/
def State.setPoint (s : State) (n : Nat) (ts : ℚ) : Option ℚ :=
  match s.variant with
  | .aeh2564 =>
    let target := s.real (slotKey n 0x2A12 1)
    let step := s.real (slotKey n 0x2A12 2) * ts
    let r := (s.slot n).r
    if step = 0 then some target else some (clampQ (r - step) (r + step) target)
  | .aeh1282 =>
    let x := s.loopInput (s.nat (slotKey n 0x2A12 3) - 1)
    if x.fault then none else some (s.real (slotKey n 0x2A12 4) * x.value + s.real (slotKey n 0x2A12 5))

/-- A loop faults (09 R262, R271, R275, R276). -/
def State.loopFault (s : State) (n cause : Nat) : State :=
  let s := s.leaveLive n
  let s := s.setSlot n { s.slot n with state := .fault, cause := cause }
  let s := (s.safeOut n).bump (slotKey n 0x2A17 4)
  s.traceLoopFault

/-- The event of a loop fault (09 R280). -/
def loopFaultEvent (n cause : Nat) : Nat := 0x8000 + 0x100 * n + 1 + cause

/-- A computed sample: everything after the sources are read. After the warm-up samples the slot runs, with its check armed and the start
limit lapsed, from this sample on; the Bool says so (09 R274). -/
def State.computeSample (s : State) (n : Nat) (ys r : ℚ) : State × Bool :=
  let s := if (s.slot n).swapPending then (s.swapBank n).setSlot n { (s.swapBank n).slot n with rebase := true } else s
  let x := s.slot n
  let done := x.state = .warmUp && x.warm = 0
  let x := if done then { x with state := .running, armed := true } else x
  let period := s.nat (slotKey n 0x2A10 6)
  let ts : ℚ := (period : ℚ) / secTicks
  let old := s.bankOf n (1 - x.active)
  let b := s.bankOf n x.active
  let c1 := fun i => bankReal b (9 + i)
  let c2 := fun i => bankReal b (14 + i)
  let bq1 := if x.fresh then biquadSteady c1 ys else x.bq1
  let f1 := biquad c1 bq1 ys
  let y := f1.1
  let x0 := if x.fresh then { x with y := y, d := 0 } else x
  let q := pdff b x0 y r ts
  let lo := bankReal b 7
  let hi := bankReal b 8
  let integ : List Byte → ℚ → ℚ := fun b y => clampQ (bankReal b 7) (bankReal b 8)
    (x.i + ts * (bankReal b 1 * (r - y) + bankReal b 4 * (x.applied - x.w)))
  let i :=
    if x.fresh then x.applied - q.1 - q.2.1 - q.2.2
    else if x.rebase then
      let yo := (biquad (fun i => bankReal old (9 + i)) x.bq1 ys).1
      let o := pdff old x0 yo r ts
      clampQ lo hi (o.1 + integ old yo + o.2.1 + o.2.2) - q.1 - q.2.1 - q.2.2
    else integ b y
  let v := q.1 + i + q.2.1 + q.2.2
  let bq2 := if x.fresh then biquadSteady c2 v else x.bq2
  let f2 := biquad c2 bq2 v
  let w := f2.1
  let top := if x.state = .warmUp then min hi (s.real (slotKey n 0x2A15 2)) else hi
  let u := max lo (min top w)
  let ua := s.applied n u
  let delay := (ua :: x.delay).take 257
  let tau := s.real (slotKey n 0x2A15 4)
  let lag := (roundQ (s.real (slotKey n 0x2A15 5) / ts)).toNat
  let yhat :=
    if x.fresh then y
    else if tau = 0 then x.yhat
    else x.yhat + (1 - expNegQ (ts / tau)) * (s.real (slotKey n 0x2A15 3) * delay.getD lag ua + s.real (slotKey n 0x2A15 6) - x.yhat)
  let rho := y - yhat
  let high := x.armed && tau ≠ 0 && s.real (slotKey n 0x2A15 7) < |rho|
  let s := s.setSlot n { x with
    next := x.next + 1, fresh := false, rebase := false, warm := x.warm - 1, staleRun := 0, residRun := if high then x.residRun + 1 else 0
    r := r, y := y, d := q.2.1, i := i, w := w, applied := ua, bq1 := f1.2, bq2 := f2.2, yhat := yhat, delay := delay
    nodes := [ys, y, r, r - y, q.1, i, q.2.1, q.2.2, v, w, u, ua, yhat, rho] }
  let s := s.driveOut n u
  let s := if w ≤ lo ∨ top ≤ w then s.bump (slotKey n 0x2A17 3) else s
  (s, done)

/-- The action of a write of 0x2A10:04: a faulted slot enters warm-up (09 R276); any other slot is left alone. -/
def actLoopRearm (n : Nat) (s : State) : State × Nat :=
  if (s.slot n).state = .fault then
    let s := if s.nat (slotKey n 0x2A10 2) = 0 then s.setSlot n { s.slot n with state := .disabled, cause := 0 } else s.enterAuto n
    (s.raise (0x8006 + 0x100 * n) n, 0)
  else (s, 0)

/-- An output is owned by a slot other than this one (09 R264). -/
def State.outputTaken (s : State) (n o : Nat) : Bool :=
  o != 0 && (match s.ownerOf o with | some i => i != n | none => false)

/-- The action of a write of 0x2A10:02 (09 R260, R272): a slot without a source cannot be enabled, nor one whose output another slot owns
(log entry 135); a slot in Fault stays there. -/
def actLoopEnable (n value : Nat) (s : State) : State × Nat :=
  if value ≠ 0 ∧ (s.nat (slotKey n 0x2A11 1) = 0 ∨ s.outputTaken n (s.nat (slotKey n 0x2A11 6))) then (s, abortState)
  else
    let s0 := s.keep (slotKey n 0x2A10 2) value
    let x := s0.slot n
    if x.state = .fault then (s0, 0)
    else
      match value with
      | 0 =>
        let s := s0.leaveLive n
        ((s.setSlot n { s.slot n with state := .disabled, out := 0 }).settleOuts, 0)
      | 1 =>
        match x.state with
        | .warmUp | .running | .parked => (s0, 0)
        | _ => (s0.enterAuto n, 0)
      | _ =>
        let s := s0.leaveLive n
        ((s.setSlot n { s.slot n with state := .manual }).driveOut n (s.real (slotKey n 0x2A10 8)), 0)

/-- The action of a bank write (09 R268, R269). -/
def actLoopBank (n which : Nat) (b : List Byte) (s : State) : State × Nat :=
  let x := s.slot n
  if which = x.active ∨ x.swapPending then (s, abortState)
  else if !loopBankOk b then (s, abortRange)
  else (s.put (slotKey n (0x2A13 + which) 1) (.bytes b), 0)

/-- The action of a swap request (09 R269): pending in states 1 and 2, at once in any other. -/
def actLoopSwap (n : Nat) (s : State) : State × Nat :=
  let x := s.slot n
  match x.state with
  | .warmUp | .running => (s.setSlot n { x with swapPending := true }, 0)
  | _ => (s.swapBank n, 0)

/-- The actions of a write of 0x2A9t:07 (09 R279; 16 R447). -/
def actTraceArm (t : Nat) (s : State) : State × Nat :=
  let s := s.traceRelease t
  let pre := s.nat (obj (0x2A90 + t) 6)
  (s.setTrace t { state := if pre = 0 then 2 else 1, left := pre, boundary := s.traceBoundary }, 0)
def actTraceForce (t : Nat) (s : State) : State × Nat := (s.traceTrigger t, 0)
def actTraceStop (t : Nat) (s : State) : State × Nat :=
  let x := s.trace t
  (if x.state = 4 then s else s.setTrace t { x with state := 0 }, 0)

end Sys2Proof.Machine
end

