-- ==== Sys2Proof/Machine/SideOps.lean ====
section
/-!
DEFINITION. The operations of the side-band and of dictionary transactions that other chapters share: transmit buffers, answers over SDO and
over Strand, the error register and its reset (15 R416, R418, R424, R431; 13 R377; 17 R471).
-/
namespace Sys2Proof.Machine

/-! ### The error register (15 R431) -/

/-- The word of causes, 0x2C10:05 (11 R332). -/
def Thermal.causes (t : Thermal) : Nat :=
  boolNat t.derateAbs + 2 * boolNat t.derateRate + 4 * boolNat t.broken + 8 * boolNat t.inputHot

/-- The thermal status, 0x2C10:04 (11 R332): shutdown, rate warn, absolute warn. -/
def Thermal.status (t : Thermal) : Nat := 4 * boolNat t.shutdown + 2 * boolNat t.warnRate + boolNat t.warnAbs

/-- 0x1001 (15 R431). -/
def State.errorRegister (s : State) : Nat :=
  let b7 := s.backdrop.stripCode != 0 && !s.backdrop.stripAcked
  let b4 := s.side.errors != .active || s.side.consumers.any (·.timedOut)
  let b3 := s.thermal.status != 0 || s.thermal.causes % 8 != 0
  let b2 := s.power.seqAt.isSome || s.nat (obj 0x2C02 5) != 0
  let b0 := b7 || b4 || b3 || b2 || s.module.state == .fault
  128 * boolNat b7 + 16 * boolNat b4 + 8 * boolNat b3 + 4 * boolNat b2 + boolNat b0

/-- The register has returned to 0 since `before`: event 0xB00C, and an EMCY frame with code 0 (15 R431). -/
def State.noteReset (s before : State) : State :=
  if before.errorRegister ≠ 0 ∧ s.errorRegister = 0 then (s.raise 0xB00C 0).queueEmcy ⟨0, 0xB00C, 0, 0⟩ else s

/-! ### Transmit buffers (15 R416, R418) -/

/-- Buffers whose pending frame a newer value replaces: heartbeat and TPDOs (15 R418). -/
def replaceable (buffer : Nat) : Bool := buffer == 18 || (20 ≤ buffer && buffer ≤ 23)

/-- A frame waits in a transmit buffer. Until a node-ID is configured nothing but LSS is sent (15 R433). -/
def State.queueTx (s : State) (f : TxFrame) : State :=
  if s.side.nodeId = 0xFF ∧ f.buffer ≠ 19 then s
  else if replaceable f.buffer && s.side.tx.any (fun x => x.buffer == f.buffer) then
    { s with side := { s.side with tx := s.side.tx.map (fun x => if x.buffer = f.buffer then f else x) } }
  else { s with side := { s.side with tx := s.side.tx ++ [f] } }

/-! ### SDO answers (15 R424; frame forms of CiA 301, log entry 34) -/

/-- An answer of the SDO server: first byte, index, subindex, four bytes. -/
def State.sdoFrame (s : State) (cmd index sub low : Nat) : State :=
  s.queueTx { buffer := 16, id := bits (s.nat (obj 0x1200 2)) 10 0,
              data := leBytes 1 cmd ++ leBytes 2 index ++ leBytes 1 sub ++ leBytes 4 low }

/-- The transfer ends with an abort. -/
def State.sdoAbort (s : State) (index sub code : Nat) : State :=
  (({ s with side := { s.side with sdo := none } }).sdoFrame 0x80 index sub code).answer .mgmt (obj index sub) code []

/-- A frame of the SDO server: a first byte and seven more, filled with zeros. -/
def State.sdoBytes (s : State) (cmd : Nat) (d : List Byte) : State :=
  s.queueTx { buffer := 16, id := bits (s.nat (obj 0x1200 2)) 10 0, data := leBytes 1 cmd ++ (d ++ List.replicate 7 0#8).take 7 }

/-- The first byte of the frame that ends a download: expedited 0x60, after a segment 0x20 with its toggle bit, after a block 0xA1 (CiA 301). -/
def SdoPhase.ended : SdoPhase → Nat
  | .download toggle => 0x20 + 16 * boolNat toggle
  | .blockDownloadEnd _ => 0xA1
  | .waits first => first
  | .upload _ | .blockDownload .. | .blockUploadStart .. | .blockUpload .. | .blockUploadEnd => 0x60

/-- The frame that ends a download. -/
def State.sdoDone (s : State) (t : SdoTransfer) : State :=
  if t.phase.ended = 0x60 then s.sdoFrame 0x60 t.index t.sub 0 else s.sdoBytes t.phase.ended []

/-- A download has ended: the frame that says so, and the dictionary's answer. -/
def State.sdoFinish (s : State) (t : SdoTransfer) (code : Nat) : State :=
  if code ≠ 0 then s.sdoAbort t.index t.sub code
  else (({ s with side := { s.side with sdo := none } }).sdoDone t).answer .mgmt (obj t.index t.sub) 0 []

/-- The main side goes down: an open transfer to it is aborted. -/
def State.sdoMainDown (s : State) : State :=
  match s.side.sdo with
  | some t => if islandObject (obj t.index t.sub) then s else s.sdoAbort t.index t.sub abortState
  | none => s

/-! ### Answers over Strand (13 R377) -/

/-- Header blocks of a DICT message. -/
def dictHead (index sub txn : Nat) (whole : Bool) (offset total low : Nat) : List Nat :=
  [index <<< 48 ||| sub <<< 40 ||| (txn % 256) <<< 32 ||| (boolNat whole) <<< 31 ||| offset, total <<< 32 ||| low]

/-- RESPONSE frames with data from an offset on, up to 8,160 bytes each. -/
def State.dictData : Nat → State → Nat → (Nat → List Nat) → Nat → List Byte → State
  | 0, s, _, _, _, _ => s
  | n + 1, s, src, head, offset, d =>
    let s := s.post src 3 2 (head offset ++ bytesToWords (d.take 8160))
    if d.length ≤ 8160 then s else State.dictData n s src head (offset + 8160) (d.drop 8160)

/-- A request answered, and counted as served or aborted. A main side that has gone down meanwhile answers nothing (14 R393). -/
def State.dictAnswerFrom (s : State) (offset src txn index sub : Nat) (whole : Bool) (code : Nat) (d : List Byte) : State :=
  if !s.reachable .host then s
  else
    let s := s.bump (obj 0x2206 (if code = 0 then 7 else 8))
    s.dictData (d.length / 8160 + 1) src (fun o => dictHead index sub txn whole o d.length code) offset (d.drop offset)

/-- An answer from the object's first byte on. -/
def State.dictAnswer (s : State) (src txn index sub : Nat) (whole : Bool) (code : Nat) (d : List Byte) : State :=
  s.dictAnswerFrom 0 src txn index sub whole code d

/-! ### The answer of a recorder clear (17 R471) -/

/-- A write of this object, or of the whole index, writes the clear response. -/
def clears (index sub : Nat) (whole : Bool) : Bool := index == 0x2D05 && (whole || sub == 2)

/-- The transport over which the clear that has just been accepted is answered. -/
def State.clearBy (s : State) (via : ClearVia) : State := { s with recorder := { s.recorder with clearVia := via } }

/-- The clear has completed: its response is answered over the transport that brought it. -/
def State.answerClear (s : State) (m : Master) : State :=
  match s.recorder.clearVia with
  | .command => s.answer m (obj 0x2D05 2) 0 []
  | .dict src txn sub whole => s.dictAnswer src txn 0x2D05 sub whole 0 []
  | .sdo =>
    match s.side.sdo with
    | some t => if clears t.index t.sub t.whole then s.sdoFinish t 0 else s
    | none => s

end Sys2Proof.Machine
end

