-- ==== Sys2Proof/Machine/ModOps.lean ====
section
/-!
DEFINITION. The module's operations that many commands share: change of state (12 R337, R338), the calibration run (R339), Fault (R343), the
power-fail sequence (11 R317), the main side going down, and Derated (11 R329, R330).
-/
namespace Sys2Proof.Machine

/-! ### Change of state (12 R337, R338) -/

/-- Triggers of 0x2001:06. -/
abbrev trigCommand : Nat := 0
abbrev trigRunEnd : Nat := 1
abbrev trigFault : Nat := 2
abbrev trigPowerFail : Nat := 3
abbrev trigRestart : Nat := 4
abbrev trigWake : Nat := 5

/-! ### Derated (11 R329, R330) -/

/-- Derated begins: counted, and the holds of running shots are cut (06 R198). -/
def State.beginDerated (s : State) : State :=
  let s := s.refill
  let s := ({ s with thermal := { s.thermal with derated := true, deratedAt := s.clk } }).bump (obj 0x2C12 1)
  s.runningValves.foldl (fun s v =>
    let x := s.valve v
    match x.run with
    | some r =>
      if r.holdCut then s
      else (s.setValve v { x with run := some (r.cutHold s.tick) }).bump (obj 0x2700 0x1B)
    | none => s) s

/-- Derated ends; event 0x2008 where every cause has cleared. -/
def State.endDerated (s : State) : State :=
  let s := s.refill
  let s := { s with thermal := { s.thermal with derated := false } }
  if s.thermal.causes = 0 then s.raise 0x2008 0 else s

/-- Derated holds in Idle and Sorting only (11 R329, 12 R336): it ends with them, and begins with them where a cause is present. A run that
Calibrating begins with it ends at once (11 R329; log entry 178). -/
def State.deratedIn (s : State) (st : ModState) : State :=
  match st with
  | .idle | .sorting => if s.thermal.causes != 0 && !s.thermal.derated then s.beginDerated else s
  | .calibrating => s
  | _ => if s.thermal.derated then s.endDerated else s

/-- Enter a state: previous state, time, trigger, event 0x1010; Derated, loops, the topology record, and at Idle a pending core-voltage step and
a pending ID follow it. -/
def State.enterState (s : State) (st : ModState) (trigger : Nat) : State :=
  if s.module.state = st then s
  else
    let s := { s with module := { s.module with state := st, prev := s.module.state, trigger := trigger, changedAt := s.clk } }
    let s := (s.raise 0x1010 st.code).deratedIn st
    let s := if st = .idle then s.pendingCoreStep.pendingIdTaken else s
    s.loopsRecheck.refreshTopo

/-- A command is refused (12 R338). -/
def State.refuseCommand (s : State) (cause : Nat) : State × Nat :=
  ({ s with module := { s.module with refusal := cause } }.bump (obj 0x2005 6), abortState)

/-! ### The calibration run (12 R339) -/

/-- A capture in progress is given up: it has failed, with an event, and its tables stand as they were (04 R131). None of the causes of
0x2404:07 is this one, so the cause is a free value among them (log entry 130). -/
def State.dropCapture (s : State) : State :=
  if s.pipe.capture.isSome then
    match s.draw with
    | (n, s) => s.endCapture 3 (1 + Config.measured (obj 0x2404 7) n % 4)
  else s

/-- The run ends early, and a capture in progress with it. -/
def State.dropRun (s : State) : State := ({ s with module := { s.module with cal := none } }).dropCapture

/-- A failed run: counted, event 0x1011; it does not itself choose the state. -/
def State.failRun (s : State) : State :=
  match s.module.cal with
  | some _ => (s.dropRun.bump (obj 0x2005 4)).raise 0x1011 0
  | none => s

/-- A failed run returns to Idle. -/
def State.failToIdle (s : State) : State := s.failRun.enterState .idle trigRunEnd

def State.setCal (s : State) (c : CalRun) : State := { s with module := { s.module with cal := some c } }

/-- Start the next capture of a run on the ports in use; one that fails at once fails the run. -/
def State.runCapture (s : State) (c : CalRun) (step : CalStep) (code : Nat) : State :=
  let s := (s.setCal { c with step := step, captured := false }).startCapture code (s.nat (obj 0x2001 9))
  if s.pipe.capture.isNone then s.failToIdle else s

/-- CALIBRATION_ADVANCE (12 R339): the run moves on as a capture or a panel drive completes. -/
def State.calAdvance (s : State) : State :=
  match s.module.cal with
  | none => s
  | some c =>
    match c.step with
    | .greyDark => if c.captured && s.backdrop.greyReached then s.runCapture c .grey 2 else s
    | .grey =>
      if c.captured then
        match actPanelHome s with
        | (s, 0) =>
          if s.backdrop.run.isNone then s.runCapture c .backdrop 3 else s.setCal { c with step := .home, captured := false }
        | (s, _) => s.failToIdle
      else s
    | .home => if s.backdrop.run.isNone then s.runCapture c .backdrop 3 else s
    | .backdrop =>
      if c.captured then
        let s := s.putNat (obj 0x2005 5) (min max32 ((s.clk - c.since) / msTicks))
        ({ s with module := { s.module with cal := none } }).enterState .idle trigRunEnd
      else s

/-- Calibrating begins: grey drive and dark capture together (12 R339 item 1). A cause of Derated that came up meanwhile ends it (11 R329). -/
def State.calStart (s : State) : State :=
  let s := { s with module := { s.module with calWaiting := false, cal := some { since := s.clk } }
                    backdrop := { s.backdrop with greyReached := false } }
  let s := (s.bump (obj 0x2005 3)).enterState .calibrating trigCommand
  match actPanelGrey s with
  | (s, 0) =>
    let s := s.startCapture 1 (s.nat (obj 0x2001 9))
    if s.pipe.capture.isNone || s.thermal.derated then s.failToIdle else s.calAdvance
  | (s, _) => s.failToIdle

/-- A run over the panels has ended: the run goes on, or a command that waited for hold bit [1] takes effect (12 R339). -/
def State.panelsSettled (s : State) : State :=
  let s := s.calAdvance
  if s.module.calWaiting && s.backdrop.run.isNone then
    if s.module.state = .idle then s.calStart else { s with module := { s.module with calWaiting := false } }
  else s

/-! ### Valves, drive, VBST -/

/-- Every running shot ends, its valve closed, without an abort cause: 07 R226 gives none for a Fault (log entry 21). -/
def State.closeValves (s : State) : State :=
  s.runningValves.foldl (fun s v =>
    s.stopDrive v) (s.withdraw s.runningValves)

/-- VBST is shed (11 R317 step 4, 12 R340). -/
def State.vbstOff (s : State) : State :=
  { s with power := { s.power with vbstOn := false }, drive := { s.drive with vbst := 0, vbstAt := s.clk } }

/-- VBST starts if it does not run (11 R315, 12 R340). -/
def State.vbstStart (s : State) : State :=
  if s.power.vbstOn then s
  else { s with power := { s.power with vbstOn := true }, drive := { s.drive with vbst := 0, vbstAt := s.clk } }

/-- The tracker takes no new sighting (12 R340). -/
def State.closeTracker (s : State) : State := { s with tracker := { s.tracker with isOpen := false } }

/-- Commands of Sorting, Calibrating and Moored that wait lapse. -/
def State.lapse (s : State) : State :=
  { s with module := { s.module with sortAt := none, stopAt := none, calWaiting := false, resume := false }
           power := { s.power with moorAt := none } }

/-! ### Fault (12 R343) -/

/-- A cause of Fault: the drive is disabled and every valve closed. The cause's event has been raised. -/
def State.enterFault (s : State) (code : Nat) : State :=
  if s.module.state = .fault then s
  else
    let s := s.failRun.lapse.closeTracker
    let s := ({ s with drive := { s.drive with enabled := false } }).dropQueues.closeValves.vbstOff
    ({ s with module := { s.module with faultCause := code } }).enterState .fault trigFault

/-- Derated follows its causes (11 R329). A cause that arises during Calibrating ends the run first, and Derated begins with Idle. -/
def State.settleDerated (s : State) : State :=
  if s.thermal.causes = 0 then (if s.thermal.derated then s.endDerated else s)
  else if s.thermal.derated then s
  else if s.module.state = .calibrating then s.failToIdle
  else s.deratedIn s.module.state

/-! ### A staging transfer is aborted (18 R482) -/

/-- The staging bank is left empty, the update state returns to 0; counted, event 0xE002. -/
def State.abortTransfer (s : State) : State :=
  if s.update.st = 1 then
    (({ s with update := { s.update with st := 0, staging := [], verified := false, total := 0, message := 0 } }).bump (obj 0x2E06 6)).raise 0xE002 0
  else s

/-! ### SYNC_OUT (02 R59) -/

/-- SYNC_OUT is held low: in FREE and ACQUIRING, and without the main side. -/
def State.syncOutHeld (s : State) : Bool := s.time.state == .free || s.time.state == .acquiring || !s.module.mainUp

/-- SYNC_OUT takes the level of its mode and the time state: mode 2 repeats SYNC_IN, and a pulse of mode 1 in progress ends early where
the output is held low or the mode has changed; CC2 to CC4 follow where they repeat it (03 R75). -/
def State.settleSyncOut (s : State) : State :=
  let mode := s.nat (obj 0x2105 1)
  let high := mode == 2 && !s.syncOutHeld && s.time.syncInHigh
  let cut := (mode != 1 || s.syncOutHeld) && (match s.time.syncOutEnd with | some e => decide (s.tick < e) | none => false)
  let t := { s.time with syncOutHigh := high, syncOutEnd := if cut then none else s.time.syncOutEnd }
  let s1 := if cut || high != s.time.syncOutHigh then { s with time := t }.emit (.pin 3 [boolNat high]) else { s with time := t }
  let s1 := if cut then [0, 1, 2, 3].foldl (fun s p => s.endCc 5 p) s1 else s1
  s1.settleCcs

/-! ### A store or restore in progress (14 R403, R404) -/

/-- The store that the next write takes: the older one, never the pre-migration copy (14 R403, 18 R487). -/
def State.storeTarget (s : State) : Nat :=
  match s.update.preMigration with
  | some k => 1 - k
  | none =>
    let a := s.dict.stores.getD 0 {}
    let b := s.dict.stores.getD 1 {}
    if !a.valid then 0 else if !b.valid then 1 else if a.seq ≤ b.seq then 0 else 1

/-- A store of the application part that does not complete leaves its target copy invalid; the other copy stands (14 R403). -/
def State.spoilStore (s : State) (part : Nat) : State :=
  if part ≠ 1 then
    { s with dict := { s.dict with
      stores := s.dict.stores.set s.storeTarget { s.dict.stores.getD s.storeTarget {} with valid := false } } }
  else s

/-- The power-fail warning, or the end of the main side, abandons a store that runs, and answers it (14 R403; log entry 144). -/
def State.abandonStore (s : State) : State :=
  match s.dict.storing with
  | none => s
  | some r =>
    let s := { s with dict := { s.dict with storing := none } }
    let s := if r.restore then s else s.spoilStore r.part
    if s.reachable r.m then s.answer r.m (obj (if r.restore then 0x1011 else 0x1010) (r.part + 1)) abortState [] else s

/-! ### The main side goes down (11 R317 step 8, 12 R344) -/

/-- What only the main side's power or its firmware holds is gone: seconds are kept by the island, links drop, queues and runs end. -/
def State.mainDown (s : State) : State :=
  let s := s.abandonStore
  let secs := s.opSecs
  let s := (s.dropCapture.putNat (obj 0x2001 0x0A) secs).panelsDown.abortTransfer.sdoMainDown
  State.settleOuts <| State.settleSyncOut { s with
    module := { s.module with mainUp := false, loader := false, cal := none }
    update := { s.update with st := if s.update.st = 5 then 4 else s.update.st, watch := none }
    time := { ({} : TimeSt) with
      counter := s.time.counter, syncInHigh := s.time.syncInHigh, syncOutHigh := s.time.syncOutHigh, syncOutEnd := s.time.syncOutEnd }
    cams := s.cams.map (fun (c : Camera) => { ({} : Camera) with cc := c.cc })
    pipe := { s.pipe with
      ports := [{}, {}, {}, {}], frames := [], current := none, claims := [], upperOut := [], fixOut := [], objQueue := [], chipQueue := [], objWork := none
      swapPending := false, capture := none, banks := s.pipe.banks.map (fun (b : Bank) => { b with loading := none }) }
    tracker := { s.tracker with isOpen := false, recs := [], shadows := [] }
    drive := { s.drive with
      valves := s.drive.valves.map (fun (x : ValveSt) => { x with queue := [], run := none })
      groups := List.replicate 32 {}, enabled := false }
    seqs := { s.seqs with seqs := List.replicate 256 {} }
    loops := { s.loops with stopped := true }
    dma := {}
    strand := { s.strand with
      links := [{}, {}, {}, {}], table := [], transit := [], chips := [], writes := [] }
    dict := { s.dict with locks := [none, none, none, none], stages := [{}, {}] } }

/-! ### Power fail (11 R317) -/

/-- A camera port loses V12 (11 R317 step 4): a streaming port is LOST, a start fails, and PoCL is off. -/
def State.portPowerLost (s : State) (p : Nat) : State :=
  let s := match (s.cam p).state with
    | .streaming => s.losePort p
    | .starting => s.backOut p
    | _ => s
  s.setCam p { s.cam p with pocl := 0, poclLoadA := false, poclLoadB := false }

/-- Steps 1 to 6 of the power-fail sequence; pairs in progress complete by their own commands (step 7), and the main side goes off at step 8. -/
def State.powerFailSteps (s : State) : State :=
  let s := s.failRun.dropCapture.lapse.closeTracker.drivePowerFail.stopLoops.panelPowerFail.vbstOff.abandonStore
  let s := [0, 1, 2, 3].foldl State.portPowerLost s
  let s := { s with power := { s.power with state := 4, seqAt := some s.clk } }
  ((s.dmaPowerFail.abortTransfer.powerDownTrigger 5).storeLedger).settleOuts

/-- The main side stops for a restart (12 R344): queues emptied, running shots end in fast decay, the record of trigger 8. -/
def State.beginRestart (s : State) : State :=
  let was := s.module.state
  let s := s.failRun.dropCapture.lapse.closeTracker.drivePowerFail.stopLoops
  let s := ((State.settleWrites 4 (s.powerDownTrigger 8)).enterState .waking trigRestart).mainDown
  { s with
    module := { s.module with interrupted := decide (was = ModState.sorting) }
    power := { s.power with kind := 2, startAt := s.clk } }.islandStrip .waking

/-! ### Moored (11 R320, R321) -/

/-- The relay opens and the module is Moored; the island stores it (11 R318, R320, R321). -/
def State.moor (s : State) (trigger : Nat) : State :=
  let s := { s with power := { s.power with state := 0, relayOpen := true, relayAt := s.clk, moorAt := none, bleeder := some s.clk } }
  ((s.emit (.pin 4 [0, 20 * msTicks])).emit (.stored 5 [0])).enterState .moored trigger

/-- A Moored request is refused or abandoned: counted, event 0x1007. -/
def State.mooredRefused (s : State) : State := (s.bump (obj 0x2C00 0x0F)).raise 0x1007 0

/-- An accepted request is abandoned: the module stays Idle and awake, and a strip write that waits for its scan is dropped. -/
def State.abandonMoored (s : State) : State :=
  let b := s.backdrop
  let s := { s with
    power := { s.power with moorAt := none }
    backdrop := { b with stripRun := if b.stripRun = some none then none else b.stripRun } }
  ((s.putNat (obj 0x2C01 1) 1).mooredRefused).settleOuts

/-- Steps 4 to 7 of the sequence (11 R321): record and ledger, panel rails, main rails, relay. The island drives the coil from V_SB (R319);
without it the request is abandoned before the point of no return (log entry 177). -/
def State.mooredOff (s : State) : State :=
  if !s.power.vsb then s.abandonMoored
  else
    let s := (State.settleWrites 4 (s.powerDownTrigger 6)).storeLedger.vbstOff
    let s := ((s.railsDown s.clk).enterState .moored trigCommand).lapse.mainDown
    s.moor trigCommand

end Sys2Proof.Machine
end

