-- ==== Sys2Proof/Machine/Pipeline.lean ====
section
/-!
DEFINITION. The commands of the Fix and Grade engines (04): stripes, frames, objects, tables, banks.
-/
namespace Sys2Proof.Machine

/-! ### Fix engine (04 R100 to R105) -/

/-- The port whose stripe is taken next (04 R100): turn about while both wait, the earlier line time first, P0 when they are equal. -/
def State.stripePort (s : State) : Option Nat :=
  match (s.engine 0).waiting, (s.engine 1).waiting with
  | [], [] => none
  | _ :: _, [] => some 0
  | [], _ :: _ => some 1
  | a :: _, b :: _ =>
    match s.pipe.lastStripePort with
    | some p => some (1 - p)
    | none => some (if a.time ≤ b.time then 0 else 1)

/-- FIX_STRIPE (04 R102): one stripe of 64 pixels of the line that R100 chooses; the last stripe of a line codes its runs, joins its blobs and emits its
fixes. -/
def execFixStripe (s : State) : Host.Outcome State Fault Refusal :=
  match s.stripePort with
  | none => .next s
  | some p =>
    let e := s.engine p
    match e.waiting with
    | [] => .next s
    | line :: rest =>
      let both := !(s.engine 0).waiting.isEmpty && !(s.engine 1).waiting.isEmpty
      let ch := formatChannels (s.formatOf p)
      let bits_ := formatBits (s.formatOf p)
      let ref := s.refOf p line.ctx
      let k := e.done.length / 64
      let t := line.ctx.fixThresholds k
      let new := (List.range 64).map (fun i =>
        let x := 64 * k + i
        let q := line.ctx.pixel2 ch bits_ x (line.pixels.getD x [])
        let d : Int := (q.getD 0 0 : Nat) - (roundN ((ref.getD x []).getD 0 0) : Nat)
        (q, !line.padded.contains x && fixObject t d, d.natAbs))
      let done := e.done ++ new
      let from_ := max s.clk ((s.pipe.fixBusy.head?.map (·.2)).getD 0)
      let s := { s with pipe := { s.pipe with
        lastStripePort := if both then some p else none
        fixBusy := (from_, from_ + 32) :: s.pipe.fixBusy.filter (fun b => s.clk < b.2 + 100 * msTicks) } }
      if done.length < s.widthOf p then .next (s.setEngine p { e with done := done })
      else .next (((s.setEngine p { e with done := [], waiting := rest }).finishFixLine p line done).settleFix p)

/-! ### Frame part (04 R109 to R114) -/

/-- Frame numbers compare as their difference modulo 2^32, read as signed (03 R79). -/
def frameBefore (a b : Nat) : Bool := signedOf 4 ((a + 2 ^ 32 - b) % 2 ^ 32) < 0

/-- The frame taken next (04 R109): lowest number, P2 first. -/
def State.nextFrame (s : State) : Option GradeFrame :=
  (s.pipe.frames.filter (fun f => !f.finished)).foldl (fun best f =>
    match best with
    | none => some f
    | some b =>
      if frameBefore f.record.number b.record.number || (f.record.number == b.record.number && f.port < b.port) then some f
      else some b) none

/-- GRADE_FRAME_TAKE (04 R109, R110): an accepted swap takes effect at the start of the frame. -/
def execGradeFrameTake (s : State) : Host.Outcome State Fault Refusal :=
  match s.pipe.current, s.nextFrame with
  | none, some f =>
    let s := if s.pipe.swapPending then s.swapBanks (some f.record.number) f.port else s
    let cost := if f.dropped then 0 else f.lines.length * s.widthOf f.port * formatChannels (s.formatOf f.port) / 4
    .next { s with pipe := { s.pipe with
      current := some (f.port, f.record.number, s.context f.port, s.clk + cost), frameBank := s.pipe.active } }
  | _, _ => .next s

/-- The processing of a whole frame. The components of a stream before do not continue into the first frame of the next (04 R108). -/
def State.gradeFrame (s : State) (f : GradeFrame) (ctx : Context) : State :=
  let s := if f.fresh then s.cutAll f.port (State.emitUpper f.port) else s
  if f.dropped then
    ((s.cutAll f.port (State.emitUpper f.port)).completeStats f.port f.record s.pipe.frameBank ctx.version [])
  else
    let s := f.lines.foldl (State.gradeLine f.port ctx) s
    let lines := (s.engine f.port).procLines.filter (fun l => l.line.frame == f.record.number)
    s.completeStats f.port f.record s.pipe.frameBank ctx.version lines

/-- GRADE_FRAME_DONE (04 R110, R113, R135): the frame part finishes its frame: components, sightings, statistics, release. -/
def execGradeFrameDone (s : State) : Host.Outcome State Fault Refusal :=
  match s.pipe.current with
  | none => .next s
  | some (p, n, ctx, at_) =>
    let s := s.atClk at_
    let this : GradeFrame → Bool := fun f => f.port == p && f.record.number == n && !f.finished
    match s.pipe.frames.find? this with
    | none => .next { s with pipe := { s.pipe with current := none } }
    | some f =>
      let cost := if f.dropped then 0 else f.lines.length * s.widthOf p * formatChannels (s.formatOf p) / 4
      let s := s.gradeFrame f ctx
      let s := { s with pipe := { s.pipe with
        current := none
        frameBusy := (at_ - cost, at_) :: s.pipe.frameBusy.filter (fun b => s.clk < b.2 + 100 * msTicks)
        frames := s.pipe.frames.map (fun g => if this g then { g with finished := true, lines := [] } else g) } }
      .next ((s.pruneLines p).releaseFrames.settleGrade p)

/-! ### Object part (04 R116 to R122) -/

/-- The rest of a classification: the verdict goes to the tracker or to the sender of the chip (04 R129, 13 R376). -/
def State.deliver (s : State) (j : ObjJob) (v : Nat × Nat × Nat) (model : Nat) : State :=
  let s := (s.bump (obj 0x2500 8)).bump (obj 0x2506 (v.1 + 1))
  match j.sender with
  | some (src, sent) =>
    (s.bump (obj 0x2405 9)).post src 2 1 [sent,
      (j.handle <<< 32) + ((j.epoch % 256) <<< 24) + (v.1 <<< 16) + (v.2.1 <<< 8) + v.2.2,
      (model <<< 32) + (j.bank <<< 24)]
  | none => ((s.bump (obj 0x2405 8)).verdict none j.handle j.epoch v j.bank model).settleHandle j.handle

/-- OBJECT_CLASSIFIED (04 R116 to R122): the job in work is measured and classified with the bank of its tag; the object part takes the next.
Where a job waits for its slot of the AEH-1282, its work begins at that slot. -/
def execObjectClassified (s : State) : Host.Outcome State Fault Refusal :=
  let since := match s.pipe.chipQueue, s.pipe.objQueue with
    | j :: _, _ => some j.since
    | [], j :: _ => some j.since
    | [], [] => none
  let s := match s.pipe.objWork, since with
    | none, some t => (s.atClk (s.jobStart t)).takeJob
    | _, _ => s
  match s.pipe.objWork with
  | none => .next s
  | some j =>
    let image := (s.pipe.banks.getD j.bank {}).image
    let s := s.atClk (s.pipe.objStart + s.jobCost j)
    let s := { s with pipe := { s.pipe with objWork := none } }
    let (n, s) := s.draw
    let fs := features { edges := j.edges } image (Config.emptyFeature n) j.image
    .next (s.deliver j (classify image fs) (modelId image)).takeJob

/-! ### Context tables (04 R101, R134, R139) -/

/-- A context table of a port is in place: version, valid bit, and the reference that starts anew. -/
def State.putTable (s : State) (p sub : Nat) (v : Val) : State :=
  let k := 0x2410 + 16 * p
  let s := s.put (obj k sub) v
  let ver := (s.nat (obj k 0x0B) + 1) % 2 ^ 32
  let s := s.putNat (obj k 0x0B) ver
  let s := if sub ≤ 3 then s.putNat (obj k 0x0C) (putBit (s.nat (obj k 0x0C)) (sub - 1) true) else s
  if sub = 3 then { s with pipe := { s.pipe with refVer := s.pipe.refVer.set p ver } } else s

/-- The action of a write to a context table. -/
def actContext (p sub : Nat) (v : Val) (s : State) : State × Nat := (s.putTable p sub v, 0)

/-- CONTEXT_TABLE_WRITE (04 R101, R110). -/
def execContextTableWrite (m : Master) (p : Port) (sub : Nat) (v : Val) (s : State) : Host.Outcome State Fault Refusal :=
  .next (s.write m (obj (0x2410 + 16 * p) sub) v (actContext p sub v))

/-! ### Banks (04 R125 to R127) -/

/-- An image stands in a bank, and is validated. -/
def State.takeImage (s : State) (b : Nat) (img : List Byte) : State × Bool :=
  let ok := bankValid img
  let s := { s with pipe := { s.pipe with banks := s.pipe.banks.set b { s.pipe.banks.getD b {} with image := img, valid := ok } } }
  (if ok then s else s.raise 0x400B b, ok)

/-- The action of a write to 0x2501:01 or 0x2502:01. -/
def actBankImage (b : Nat) (img : List Byte) (s : State) : State × Nat :=
  if s.bankClosed b then (s, abortState)
  else
    match s.takeImage b img with
    | (s, ok) => (s, if ok then 0 else abortData)

/-- BANK_IMAGE_WRITE (04 R125). -/
def execBankImageWrite (m : Master) (bank : Nat) (image : List Byte) (s : State) : Host.Outcome State Fault Refusal :=
  .next (s.write m (obj (0x2501 + bank) 1) (.bytes image) (actBankImage bank image))

/-- The action of a write to 0x2501:06 or 0x2502:06. -/
def actLibraryLoad (b slot : Nat) (s : State) : State × Nat :=
  if s.bankClosed b then (s, abortState)
  else
    let x := s.pipe.banks.getD b {}
    let s := { s with pipe := { s.pipe with banks := s.pipe.banks.set b { x with loading := some (slot, s.clk) } } }
    (s.fwStart 1 7 (max 1 (s.update.library.getD slot []).length), 0)

/-- LIBRARY_LOAD (04 R125). -/
def execLibraryLoad (m : Master) (bank slot : Nat) (s : State) : Host.Outcome State Fault Refusal :=
  .next (s.write m (obj (0x2501 + bank) 6) (.num slot) (actLibraryLoad bank slot))

/-- LIBRARY_LOAD_DONE (04 R125): the transfer of channel C1 has come to its end (16 R440). A load that was in progress when the banks were
swapped ends in its bank, which is the active one then (log entry 171). -/
def execLibraryLoadDone (bank : Nat) (s : State) : Host.Outcome State Fault Refusal :=
  match (s.pipe.banks.getD bank {}).loading with
  | none => .next s
  | some (slot, _) =>
    if s.fwBarred 1 then .next s
    else
      let s := (s.takeImage bank (s.update.library.getD slot [])).1
      .next (({ s with pipe := { s.pipe with banks := s.pipe.banks.modify bank (fun x => { x with loading := none }) } }).fwEnd 1)

/-- The action of a write to 0x2500:02. -/
def actBankSwap (s : State) : State × Nat :=
  if !(s.pipe.banks.getD (1 - s.pipe.active) {}).valid || s.pipe.swapPending || s.oldBankInUse then
    ((s.bump (obj 0x2500 7)).raise 0x400A (1 - s.pipe.active), abortState)
  else if s.pipe.current.isSome then ({ s with pipe := { s.pipe with swapPending := true } }, 0)
  else (s.swapBanks none 0xFF, 0)

/-- BANK_SWAP_REQUEST (04 R127). -/
def execBankSwapRequest (m : Master) (s : State) : Host.Outcome State Fault Refusal :=
  .next (s.write m (obj 0x2500 2) (.num 1) actBankSwap)

end Sys2Proof.Machine
end

