-- ==== Sys2Proof/Machine/Capture.lean ====
section
/-!
DEFINITION. Captures (04 R130 to R132): the command, the two passes, the end; a capture of a calibration run moves the run on (12 R339).
-/
namespace Sys2Proof.Machine

/-- The action of a write of 0x2404:01: dark and grey are refused while Sorting (04 R132), any while a capture runs (log entry 22). -/
def actCapture (code : Nat) (s : State) : State × Nat :=
  if code ≠ 0 ∧ (s.pipe.capture.isSome ∨ (code < 3 ∧ s.module.state = .sorting)) then (s, abortState)
  else
    let s := s.keep (obj 0x2404 1) code
    if code = 0 then (s, 0) else (s.startCapture code (s.nat (obj 0x2404 2)), 0)

/-- CAPTURE_DARK (04 R130). -/
def execCaptureDark (m : Master) (s : State) : Host.Outcome State Fault Refusal :=
  .next (s.write m (obj 0x2404 1) (.num 1) (actCapture 1))

/-- CAPTURE_GREY (04 R130). -/
def execCaptureGrey (m : Master) (s : State) : Host.Outcome State Fault Refusal :=
  .next (s.write m (obj 0x2404 1) (.num 2) (actCapture 2))

/-- CAPTURE_BACKDROP (04 R130). -/
def execCaptureBackdrop (m : Master) (s : State) : Host.Outcome State Fault Refusal :=
  .next (s.write m (obj 0x2404 1) (.num 3) (actCapture 3))

/-! ### The two passes (04 R130, R131) -/

/-- The samples of one column and channel over lines. -/
def columnSamples (lines : List (List (List (Option ℚ)))) (x i : Nat) : List ℚ :=
  lines.filterMap (fun l => (((l.getD x []).getD i none : Option ℚ)))

/-- The second-pass mean of one column and channel; none with fewer than N / 4 samples. -/
def twoPassMean (n limit : Nat) (first second : List ℚ) : Option ℚ :=
  if first.isEmpty then none
  else
    let m := sumQ first / first.length
    let kept := second.filter (fun q => |q - m| ≤ limit)
    if 4 * kept.length < n ∨ kept.isEmpty then none else some (sumQ kept / kept.length)

/-- One table entry of a capture, or the cause of its failure: 3 gain out of range, 4 too few samples. -/
def captureEntry (code target : Nat) (mean : Option ℚ) : List Byte × Nat :=
  match mean with
  | none => ([], 4)
  | some m =>
    match code with
    | 1 => (leBytes 2 (unsignedOf 2 (clampI (-32768) 32767 (roundQ m))), 0)
    | 2 =>
      let g : Int := if m ≤ 0 then 0 else roundQ ((target : ℚ) * 16384 / m)
      if g < 4096 ∨ 65535 < g then ([], 3) else (leBytes 2 g.toNat, 0)
    | _ => (leBytes 2 (min max16 (roundN (16 * m))), 0)

/-- The table of one port, and the cause of failure where it has one. -/
def State.captureTable (s : State) (code : Nat) (q : CapturePort) : List Byte × Nat :=
  let n := s.nat (obj 0x2404 3)
  let first := q.lines.take n
  let second := (q.lines.drop n).take n
  let w := s.widthOf q.port
  let ch := formatChannels (s.formatOf q.port)
  let cells := (List.range w).flatMap (fun x => (List.range ch).map (fun i =>
    captureEntry code (s.nat (obj 0x2404 5)) (twoPassMean n (s.nat (obj 0x2404 4)) (columnSamples first x i) (columnSamples second x i))))
  (cells.flatMap (·.1), (cells.find? (fun c => c.2 != 0)).elim 0 (·.2))

/-- The end of a capture, and what a calibration run does after it. -/
def State.captureEnds (s : State) (cause : Nat) : State :=
  let s := s.endCapture (if cause = 0 then 2 else 3) cause
  match s.module.cal with
  | none => s
  | some c => if cause = 0 then (s.setCal { c with captured := true }).calAdvance else s.failToIdle

/-- CAPTURE_COMPLETE (04 R131): every port has its lines, or one streams no more. -/
def execCaptureComplete (s : State) : Host.Outcome State Fault Refusal :=
  match s.pipe.capture with
  | none => .next s
  | some c =>
    if c.ports.any (fun q => (s.cam q.port).state != .streaming) then .next (s.captureEnds 1)
    else if c.ports.any (fun q => q.lines.length < 2 * s.nat (obj 0x2404 3)) then .next s
    else
      let tables := c.ports.map (fun q => (q.port, s.captureTable c.code q))
      match tables.find? (fun t => t.2.2 != 0) with
      | some t => .next (s.captureEnds t.2.2)
      | none =>
        let s := tables.foldl (fun s t => s.putTable t.1 c.code (.bytes t.2.1)) s
        .next (s.captureEnds 0)

/-- CAPTURE_TIMEOUT (04 R131): 2 s after acceptance. -/
def execCaptureTimeout (s : State) : Host.Outcome State Fault Refusal :=
  match s.pipe.capture with
  | none => .next s
  | some c => .next ((s.atClk (c.started + 2 * secTicks)).captureEnds 2)

end Sys2Proof.Machine
end

