-- ==== Sys2Proof/Machine/Backdrop.lean ====
section
/-!
DEFINITION. The commands of the backdrop (10 R286 to R308): scans, pairs, tables, images, region requests, rails, strip, panel commands, strobes.
-/
namespace Sys2Proof.Machine

/-! ### Scans and pairs (10 R286, R291, R293) -/

/-- PANEL_SCAN (10 R286): the next scan of both panels, 1 ms after the one before; updates that wait begin their first pair at it
(10 R293). -/
def execPanelScan (s : State) : Host.Outcome State Fault Refusal :=
  if s.module.mainUp && s.backdrop.rails.state == 2 then
    let s := s.atClk (s.backdrop.scanAt + msTicks)
    let b := s.backdrop
    let begin_ : RegionRun → RegionRun := fun r => { r with pairAt := r.pairAt.or (some s.clk) }
    let s := { s with backdrop := { s.backdrop with
      scanAt := s.clk
      slots := b.slots.map (fun (x : RegionSlot) => { x with run := x.run.map begin_ })
      run := b.run.map (fun (r : PanelRun) => { r with pairAt := r.pairAt.or (some s.clk) })
      stripRun := b.stripRun.map (fun (t : Option Nat) => t.or (some s.clk)) } }
    .next ((s.emit (.scan 0 (s.panelScan 0))).emit (.scan 1 (s.panelScan 1)))
  else .next s

/-- The end of the strip's pair (10 R300). -/
def State.stripPair (s : State) : State :=
  match s.backdrop.stripRun with
  | some (some t) =>
    let s := s.atClk (t + 16 * msTicks)
    let s := { s with backdrop := { s.backdrop with
      stripRun := none, strip := s.backdrop.stripNext, stripAt := some s.clk, idleAt := s.clk } }
    ((s.drawStrip s.backdrop.strip).bump (obj 0x2B00 0x0D)).emit (.strip s.backdrop.strip)
  | _ => s

/-- Region updates run or wait. -/
def State.updatesRun (s : State) : Bool :=
  s.backdrop.run.isSome || s.backdrop.slots.any (fun x => x.run.isSome || x.next.isSome)

/-- A Moored sequence whose strip shows MOOR goes on from step 4 (11 R321). -/
def State.moorOn (s : State) : State :=
  if s.power.moorAt.isSome && !s.updatesRun && s.backdrop.strip == s.stripText .moored then s.mooredOff else s

/-- PAIR_COMPLETE (10 R291): the pair of region slot 0 to 7, of the run over the panels (8) or of the strip (9). -/
def execPairComplete (r : Fin 10) (s : State) : Host.Outcome State Fault Refusal :=
  if r.val < 8 then .next (s.slotPair r)
  else if r.val = 8 then
    match s.runPair with
    | (s, true) => .next s.panelsSettled
    | (s, false) => .next s
  else .next s.stripPair.moorOn

/-! ### Tables and images (10 R288, R290, R296) -/

/-- The action of a write of 0x2B03:01 or :02. -/
def actWaveform (p : Nat) (d : List Byte) (s : State) : State × Nat :=
  if s.panelRunning p then (s, abortState)
  else if !waveformOk d then (s.raise 0x9008 p, abortData)
  else (s.put (obj 0x2B03 (p + 1)) (.bytes d), 0)

/-- WAVEFORM_TABLE_WRITE (10 R288). -/
def execWaveformTableWrite (m : Master) (panel : Fin 2) (table : List Byte) (s : State) : Host.Outcome State Fault Refusal :=
  .next (s.write m (obj 0x2B03 (panel + 1)) (.bytes table) (actWaveform panel table))

/-- REGION_GO (10 R293 to R295). -/
def execRegionGo (m : Master) (slot : Fin 8) (s : State) : Host.Outcome State Fault Refusal :=
  .next (s.write m (obj (0x2B20 + slot) 7) (.num 1) (actRegionGo slot))

/-- A request or a run names an image slot. -/
def RegionReq.uses (q : RegionReq) (k : Nat) : Bool := q.target == .image k

/-- The image slot is used by an update that runs, waits or is journalled, or names a home image during recovery (10 R296). -/
def State.imageInUse (s : State) (k : Nat) : Bool :=
  s.backdrop.slots.any (fun x => (x.run.elim false (fun r => r.req.uses k)) || (x.next.elim false (fun q => q.uses k)))
  || s.backdrop.journal.any (fun e => e.req.uses k)
  || (match s.backdrop.run with
     | some r => r.runs.any (fun x => x.req.uses k) || (r.recovery && (s.nat (obj 0x2B01 6) == k || s.nat (obj 0x2B01 7) == k))
     | none => false)

/-- The header of a tone image or trim map: 0, or the abort code. -/
def sealedAbort (d : List Byte) : Nat :=
  if field d 8 4 ≠ d.length then abortLength
  else if field d 0xC 4 ≠ crc32 (d.drop 0x20) ∨ !sealRight d then abortData
  else 0

/-- The action of a write of 0x2B10:01 to :08. -/
def actImageSlot (k : Nat) (d : List Byte) (s : State) : State × Nat :=
  if s.imageInUse k then (s, abortState)
  else if sealedAbort d = abortData then (s.raise 0x9009 k, abortData)
  else if sealedAbort d ≠ 0 then (s, sealedAbort d)
  else (s.put (obj 0x2B10 k) (.bytes d), 0)

/-- IMAGE_SLOT_WRITE (10 R296). -/
def execImageSlotWrite (m : Master) (slot : Nat) (image : List Byte) (s : State) : Host.Outcome State Fault Refusal :=
  .next (s.write m (obj 0x2B10 slot) (.bytes image) (actImageSlot slot image))

/-- The action of a write of 0x2B04:01 or :02: the map replaces the one of the calibration page, whose older half is rewritten (10 R290, 18 R477,
R489). -/
def actTrimMap (p : Nat) (d : List Byte) (s : State) : State × Nat :=
  if sealedAbort d = abortLength then (s, abortLength)
  else if sealedAbort d ≠ 0 ∨ field d 2 1 ≠ p then (s.raise 0x9009 p, abortData)
  else ((s.rewriteHalf p d).putMaps.emit (.stored 4 [p]), 0)

/-- TRIM_MAP_WRITE (10 R290). -/
def execTrimMapWrite (m : Master) (panel : Fin 2) (map : List Byte) (s : State) : Host.Outcome State Fault Refusal :=
  .next (s.write m (obj 0x2B04 (panel + 1)) (.bytes map) (actTrimMap panel map))

/-! ### Rails (10 R297, R298) -/

/-- A rail within ±5 % of its nominal value. -/
def railOk (k : Nat) (reading : Int) : Bool := 20 * (reading - railNominal k).natAbs ≤ (railNominal k).natAbs

/-- RAIL_STEP (10 R297): `reading` is the rail switched on last, in mV; for VCOM the two readings are those of BF and BB. -/
def execRailStep (reading reading2 : Int) (s : State) : Host.Outcome State Fault Refusal :=
  let r := s.backdrop.rails
  if r.state ≠ 1 then .next s
  else
    let s := s.atClk (r.since + 2 * r.step * msTicks)
    let ok :=
      if r.step < 6 then railOk r.step reading
      else decide ((reading - s.int (obj 0x2B02 1)).natAbs ≤ 50 ∧ (reading2 - s.int (obj 0x2B02 2)).natAbs ≤ 50)
    if !ok then .next (s.railFault r.step)
    else if r.step < 6 then
      .next ({ s with backdrop := { s.backdrop with rails := { r with step := r.step + 1 } } }.emit (.rail (r.step + 1) true))
    else .next { s with backdrop := { s.backdrop with rails := { r with state := 2 }, scanAt := s.clk - msTicks, idleAt := s.clk } }

/-- RAIL_HOLD_EXPIRY (10 R297): nothing has run for the hold time; VCOM goes off. In a power fail nothing is waited for once the pairs have
completed (R304 step 6). -/
def execRailHoldExpiry (s : State) : Host.Outcome State Fault Refusal :=
  if s.backdrop.rails.state = 2 ∧ !s.panelsBusy then
    let s := if s.backdrop.powerFail then s else s.atClk (s.backdrop.idleAt + s.nat (obj 0x2B01 5) * msTicks)
    .next ({ s with backdrop := { s.backdrop with rails := { state := 3, step := 5, since := s.clk } } }.emit (.rail 6 false))
  else .next s

/-- The rail has fallen below 10 % of its nominal value; VCOM on both panels, each against its trim. -/
def State.railFallen (s : State) (k : Nat) (reading reading2 : Int) : Bool :=
  let low : Int → Int → Bool := fun nominal x => nominal == 0 || 10 * x.natAbs < nominal.natAbs
  if k = 6 then low (s.int (obj 0x2B02 1)) reading && low (s.int (obj 0x2B02 2)) reading2 else low (railNominal k) reading

/-- RAIL_POWER_DOWN_STEP (10 R297): the next rail goes off once the one before it, read in mV, has fallen; for VCOM the two readings are
those of BF and BB. -/
def execRailPowerDownStep (reading : RailReading) (s : State) : Host.Outcome State Fault Refusal :=
  let r := s.backdrop.rails
  if r.state ≠ 3 then .next s
  else
    let s := s.atClk (r.since + (6 - r.step) * msTicks)
    if !s.railFallen (r.step + 1) reading.mv reading.mvBB then .next s
    else
      let s := s.emit (.rail r.step false)
      if 1 < r.step then .next { s with backdrop := { s.backdrop with rails := { r with step := r.step - 1 } } }
      else
        let s := { s with backdrop := { s.backdrop with rails := {} } }
        .next (if s.panelsBusy then s.requestRails else s)

/-! ### Strip (10 R299 to R301) -/

/-- STRIP_WRITE (10 R300): a change of content is written, no sooner than 1 s after the write before. -/
def execStripWrite (s : State) : Host.Outcome State Fault Refusal :=
  let text := s.stripText s.module.state
  if !s.module.mainUp || s.backdrop.powerFail || s.backdrop.rails.state == 4 || s.backdrop.stripRun.isSome || text == s.backdrop.strip then
    .next s
  else
    let s := match s.backdrop.stripAt with | some t => s.atClk (t + secTicks) | none => s
    .next ({ s with backdrop := { s.backdrop with stripRun := some none, stripNext := s.stripText s.module.state } }).requestRails

/-- The main side is lost: it is off although the module neither starts nor is Moored (01 R30), or it is in Fault and cannot write the strip. -/
def State.stripOrphaned (s : State) : Bool :=
  match s.module.state with
  | .moored => false
  | .waking => false
  | .fault => !s.module.mainUp || s.backdrop.rails.state == 4 || s.backdrop.powerFail
  | _ => !s.module.mainUp && !s.module.loader && s.power.seqAt.isNone

/-- ISLAND_STRIP_WRITE (10 R301): the island writes FALT and the event code itself, with the converter fed from V_SB in the rail order. Never
while Moored. -/
def execIslandStripWrite (s : State) : Host.Outcome State Fault Refusal :=
  if s.stripOrphaned && s.power.vsb then
    .next ((s.islandDraw (s.stripText .fault)).raise 0x900B 0)
  else .next s

/-- The action of a write of 1 to 0x2B30:03. -/
def actEventAck (s : State) : State × Nat := ({ s with backdrop := { s.backdrop with stripAcked := true } }, 0)

/-- EVENT_CODE_ACK (10 R299). -/
def execEventCodeAck (m : Master) (s : State) : Host.Outcome State Fault Refusal :=
  .next ((s.write m (obj 0x2B30 3) (.num 1) actEventAck).noteReset s)

/-! ### Panel commands (10 R303) -/

/-- PANEL_GREY (10 R303). -/
def execPanelGrey (m : Master) (s : State) : Host.Outcome State Fault Refusal :=
  .next (s.write m (obj 0x2B01 8) (.num 1) actPanelGrey)

/-- PANEL_HOME (10 R303). -/
def execPanelHome (m : Master) (s : State) : Host.Outcome State Fault Refusal :=
  .next (s.write m (obj 0x2B01 8) (.num 2) actPanelHome)

/-! ### Strobes (10 R306 to R308) -/

/-- STROBE_PULSE (10 R306): the pulse of the latest trigger of the channel's port: forward voltage in mV, and whether the output reached
compliance. -/
def execStrobePulse (ch : Fin 4) (vf : Nat) (compliance : Bool) (s : State) : Host.Outcome State Fault Refusal :=
  let k := 0x2B40 + ch.val
  let x := s.strobe ch
  let c := s.cam (s.nat (obj k 2))
  let fresh := (c.state == .streaming || c.state == .lost) && c.nextIndex != 0 && x.trig != some c.lastTrigger
  if !fresh || s.strobeHold ch != 0 || x.invalid then .next s
  else
    let s := s.atTick (c.lastTrigger + s.nat (obj k 3))
    let r := s.strobeCurrent ch vf
    let i := r.1.floor.toNat
    let watts : ℚ := (i * vf * s.nat (obj k 4) : Nat) / 1000 / s.linePeriod (s.nat (obj k 2))
    let again := r.2 && (match x.limitedAt with | some t => t + secTicks ≤ s.clk | none => true)
    let s := if again then s.bump (obj k 0x0B) else s
    let openRun := if compliance then x.openRun + 1 else 0
    let shortRun := if vf < 6000 then x.shortRun + 1 else 0
    let fault := if 3 ≤ openRun then 3 else if 3 ≤ shortRun then 4 else 0
    let s := s.setStrobe ch { x with
      fault := fault, openRun := openRun, shortRun := shortRun, vf := vf, ieff := i, power := watts.floor.toNat, pulsed := true
      trig := some c.lastTrigger, pulseEnd := s.clk + s.nat (obj k 4), limitedAt := if again then some s.clk else x.limitedAt }
    let s := (s.bump (obj k 0x0A)).emit (.strobe ch s.tick (s.nat (obj k 4)) i)
    .next (if fault = 3 then s.raise 0x9005 ch else if fault = 4 then s.raise 0x9006 ch else s)

/-- STROBE_ENABLE (10 R308). -/
def execStrobeEnable (m : Master) (ch : Fin 4) (value : Nat) (s : State) : Host.Outcome State Fault Refusal :=
  .next (s.write m (obj (0x2B40 + ch) 1) (.num value) (actStrobeEnable ch value))

end Sys2Proof.Machine
end

