-- ==== Sys2Proof/Machine/Dma.lean ====
section
/-!
DEFINITION. The commands of the DMA engine (16 R442 to R452). Each of the register writes answers a WIN status too: 0, or 3 where it is ignored.
-/
namespace Sys2Proof.Machine

/-- A start at CH_NEXT (16 R452): ignored while the channel is busy. `bad`: the descriptor's read fails. -/
def actChStart (c : Nat) (bad : Bool) (s : State) : State × Nat :=
  let x := s.chan c
  if x.free then (((s.setChan c { x with cause := 0, append := false, done := 0, own := false }).takeDescriptor c x.next bad).settleFifo, 0)
  else (s, 3)

/-- A write of CH_NEXT (16 R452). -/
def actChNext (c value : Nat) (s : State) : State × Nat :=
  let x := s.chan c
  if x.free then (s.setChan c { x with next := value % 2 ^ 40 / 32 * 32 }, 0) else (s, 3)

/-- The APPEND doorbell (16 R450). `bad`: the read of the link fails. -/
def actChAppend (c : Nat) (bad : Bool) (s : State) : State × Nat :=
  let x := s.chan c
  match x.state with
  | .queued | .active | .waiting | .pending => (s.setChan c { x with append := true }, 0)
  | .stoppedEnd =>
    let link := ofLe (s.memRead (x.cur + 24) 8)
    if bad then (s.dmaFail c 7, 0)
    else if link % 2 = 1 then (s.bump (obj 0x2F00 8), 0)
    else ((s.followLink c none).settleFifo, 0)
  | .idle | .error | .aborted => (s, 0)

/-- A write of CH_IRQ: bit 1 clears the pending interrupt, bit 0 is the mask (16 R451, R452). -/
def actChIrq (c value : Nat) (s : State) : State × Nat :=
  let x := s.chan c
  (s.setChan c { x with pending := x.pending && !bitOf value 1, unmask := bitOf value 0 }, 0)

/-- CH_START (16 R452). -/
def execChStart (c : ChanRead) (s : State) : Host.Outcome State Fault Refusal :=
  if s.module.mainUp then .next (actChStart c.c.val c.bad s).1 else .next s

/-- CH_ABORT (16 R449): how far the descriptor has come when the burst in progress ends, with the `data` of a source port. -/
def execChAbort (c : Fin 16) (moved : Burst) (data : List Byte) (s : State) : Host.Outcome State Fault Refusal :=
  if s.module.mainUp then .next (s.dmaAbort c.val moved data).settleFifo else .next s

/-- CH_APPEND (16 R450). -/
def execChAppend (c : ChanRead) (s : State) : Host.Outcome State Fault Refusal :=
  if s.module.mainUp then .next (actChAppend c.c.val c.bad s).1 else .next s

/-- CH_NEXT_WRITE (16 R452). -/
def execChNextWrite (c : Fin 16) (value : Nat) (s : State) : Host.Outcome State Fault Refusal :=
  if s.module.mainUp then .next (actChNext c.val value s).1 else .next s

/-- CH_IRQ_CLEAR (16 R451): a write of 1 to CH_IRQ [1], the mask as it stands. -/
def execChIrqClear (c : Fin 16) (s : State) : Host.Outcome State Fault Refusal :=
  if s.module.mainUp then .next (actChIrq c.val (2 + boolNat (s.chan c.val).unmask) s).1 else .next s

/-- CH_IRQ_UNMASK (16 R451): a write of CH_IRQ [0]. -/
def execChIrqUnmask (c : Fin 16) (unmask : Bool) (s : State) : Host.Outcome State Fault Refusal :=
  if s.module.mainUp then .next (actChIrq c.val (boolNat unmask) s).1 else .next s

/-- Corrected memory errors are counted (16 R454). -/
def State.noteCorrected (s : State) : Option MemError → State
  | some (.corrected n) => if n = 0 then s else s.bumpBy (obj 0x2F04 1) n
  | _ => s

/-- The offset of an uncorrectable error among the bytes left. -/
def badOffset : Option MemError → Option Nat
  | some (.data offset) => some offset
  | _ => none

/-- DESCRIPTOR_COMPLETE (16 R442, R445 to R451): the head channel runs its descriptor to the end of its count, to the access that fails, or until
BULK egress withdraws. `data` are the bytes a source port supplies; `bad` is a memory error on the way. -/
def execDescriptorComplete (data : List Byte) (bad : Option MemError) (s : State) : Host.Outcome State Fault Refusal :=
  let s1 := ([0, 1, 2, 3].foldl State.pump s).dmaFollow 1
  match s1.dma.fifo with
  | [] => .next s
  | c :: _ =>
    let x := s1.chan c
    if x.state ≠ .active || x.own then .next s
    else
      match (s1.noteCorrected bad).moveBytes c x.remain data (badOffset bad) with
      | (s, m) =>
        if m.cause ≠ 0 then .next (s.dmaFail c m.cause).settleFifo
        else if m.held then .next (s.setChan c { s.chan c with state := .waiting, since := s.clk })
        else if (s.chan c).remain ≠ 0 then .next s
        else .next (s.finishDescriptor c bad).settleFifo

/-- The requestors whose condition no state of this model shows: their commands say when they assert and withdraw (16 R447). -/
def outside (code : Nat) : Bool := code == 2 || code == 7 || code == 8

/-- REQUESTOR_ASSERT (16 R443, R447): PENDING channels become ready, a WAITING one resumes. -/
def execRequestorAssert (code : Nat) (s : State) : Host.Outcome State Fault Refusal :=
  if !s.module.mainUp then .next s
  else if outside code then
    .next ({ s with dma := { s.dma with requests := code :: s.dma.requests.filter (· != code) } }.dmaAssert code)
  else .next (([0, 1, 2, 3].foldl State.pump s).dmaFollow code)

/-- REQUESTOR_WITHDRAW (16 R443, R447): the head channel completes the burst in progress, and enters WAITING. -/
def execRequestorWithdraw (code : Nat) (moved : Burst) (data : List Byte) (s : State) : Host.Outcome State Fault Refusal :=
  let s1 := { s with dma := { s.dma with requests := s.dma.requests.filter (· != code) } }
  if s1.asserted code then .next s
  else
    match s1.headWith code with
    | some c => .next (s1.holdHead c moved data).settleFifo
    | none => .next s1

/-- DMA_STALL (16 R443): WAITING beyond the stall limit. -/
def execDmaStall (s : State) : Host.Outcome State Fault Refusal :=
  match s.dma.fifo with
  | [] => .next s
  | c :: _ =>
    let x := s.chan c
    if x.state = .waiting then
      let s := s.atClk (x.since + s.nat (obj 0x2F00 5) * usTicks)
      .next (((s.bump (obj 0x2F00 4)).flushBulk false).dmaFail c 6).settleFifo
    else .next s

end Sys2Proof.Machine
end

