-- ==== Sys2Proof/Machine/LoopCmds.lean ====
section
/-!
DEFINITION. The commands of the loop engine (09): samples, banks, states, PIN0, trace.
-/
namespace Sys2Proof.Machine

/-- A sample on which nothing is computed (09 R262, R271): the run grows, and at its limit the loop faults. A swap that waits takes effect at
this boundary all the same, and sets I at the next sample that is computed (09 R269; log entry 137). -/
def State.missSample (s : State) (n cause : Nat) : State :=
  let s := if (s.slot n).swapPending then (s.swapBank n).setSlot n { (s.swapBank n).slot n with rebase := true } else s
  let x := s.slot n
  let s := (s.setSlot n { x with next := x.next + 1, staleRun := x.staleRun + 1 }).bump (slotKey n 0x2A17 2)
  if s.nat (slotKey n 0x2A11 5) ≤ x.staleRun + 1 then (s.loopFault n cause).raise (loopFaultEvent n cause) n else s

/-- The sample of a slot in state 1 or 2 at its boundary (09 R259 to R262, R266, R269 to R271, R274, R275). -/
def State.liveSample (s : State) (n : Nat) : State :=
  let s := s.bump (slotKey n 0x2A17 1)
  let ts : ℚ := (s.nat (slotKey n 0x2A10 6) : ℚ) / secTicks
  match s.readSource (s.nat (slotKey n 0x2A11 1)) (s.nat (slotKey n 0x2A11 4)) with
  | .fault => s.missSample n 1
  | src =>
    match s.setPoint n ts with
    | none => s.missSample n 4
    | some r =>
      match src with
      | .ok v =>
        let c := s.computeSample n (s.real (slotKey n 0x2A11 2) * v + s.real (slotKey n 0x2A11 3)) r
        let s := if c.2 then c.1.raise (0x8001 + 0x100 * n) n else c.1
        if s.nat (slotKey n 0x2A15 8) ≤ (s.slot n).residRun ∧ 0 < (s.slot n).residRun then
          (s.loopFault n 3).raise (loopFaultEvent n 3) n
        else s
      | _ => s.missSample n 2

/-- LOOP_SAMPLE (09 R258, R259): the slot's next boundary, with the readings of AIN0 to AIN3 at it. A slot outside states 1 and 2 computes
nothing, but its boundary counts for the traces (09 R278); in states 1 to 4 the tally takes its filtered feedback (17 R458; log entry 182). -/
def execLoopSample (slot : Fin 8) (ains : List Int) (s : State) : Host.Outcome State Fault Refusal :=
  let n : Nat := slot
  let x := s.slot n
  let live := match x.state with | .warmUp | .running => true | _ => false
  if !s.timeRuns || s.loops.stopped then .next s
  else
    let s := (s.atTick (s.nat (slotKey n 0x2A10 7) + x.next * s.nat (slotKey n 0x2A10 6))).readAins ains
    let s := if live then s.liveSample n else s.setSlot n { s.slot n with next := x.next + 1 }
    let s := match x.state with
      | .warmUp | .running | .fault | .manual => s.sample (13 + n) (s.slot n).y
      | .disabled | .parked => s
    .next (s.tracesOfSlot n)

/-- LOOP_BANK_WRITE (09 R268). -/
def execLoopBankWrite (m : Master) (slot : Fin 8) (bank : Nat) (image : List Byte) (s : State) : Host.Outcome State Fault Refusal :=
  .next (s.write m (slotKey slot (0x2A13 + bank % 2) 1) (.bytes image) (actLoopBank slot (bank % 2) image))

/-- LOOP_BANK_SWAP (09 R269). -/
def execLoopBankSwap (m : Master) (slot : Fin 8) (s : State) : Host.Outcome State Fault Refusal :=
  .next (s.write m (slotKey slot 0x2A10 0x0D) (.num 1) (actLoopSwap slot))

/-- LOOP_REARM (09 R276). -/
def execLoopRearm (m : Master) (slot : Fin 8) (s : State) : Host.Outcome State Fault Refusal :=
  .next (s.write m (slotKey slot 0x2A10 4) (.num 1) (actLoopRearm slot))

/-- LOOP_ENABLE_WRITE (09 R272). -/
def execLoopEnableWrite (m : Master) (slot : Fin 8) (value : Nat) (s : State) : Host.Outcome State Fault Refusal :=
  .next (s.write m (slotKey slot 0x2A10 2) (.num value) (actLoopEnable slot value))

/-- PIN0_PULSE (09 R260): the frequency from the interval between pulses. -/
def execPin0Pulse (tick : Nat) (s : State) : Host.Outcome State Fault Refusal :=
  if !s.module.mainUp then .next s
  else
    let s := s.atTick tick
    let x := s.loops.inputs.getD 4 {}
    let v : ℚ := match s.loops.pinTick with
      | some t => if t < s.tick then (secTicks : ℚ) / (s.tick - t : Nat) else x.value
      | none => 0
    .next { s with loops := { s.loops with
      pinTick := some s.tick, inputs := s.loops.inputs.set 4 { value := v, at_ := some s.clk, fault := false } } }

/-- TRACE_ARM (09 R279). -/
def execTraceArm (m : Master) (t : Fin 4) (s : State) : Host.Outcome State Fault Refusal :=
  .next (s.write m (obj (0x2A90 + t) 7) (.num 1) (actTraceArm t))

/-- TRACE_FORCE_TRIGGER (09 R279). -/
def execTraceForceTrigger (m : Master) (t : Fin 4) (s : State) : Host.Outcome State Fault Refusal :=
  .next (s.write m (obj (0x2A90 + t) 7) (.num 2) (actTraceForce t))

/-- TRACE_STOP (09 R279). -/
def execTraceStop (m : Master) (t : Fin 4) (s : State) : Host.Outcome State Fault Refusal :=
  .next (s.write m (obj (0x2A90 + t) 7) (.num 0) (actTraceStop t))

/-- The next boundary of the 50 kHz clock for a trace of an engine input (09 R278), with the readings of AIN0 to AIN3 at it. Each trace
takes every boundary, whatever other traces have taken. -/
def State.traceTick (s : State) (t : Nat) (ains : List Int) : State :=
  let k := (s.trace t).boundary
  let s := ((s.atTick (16000 * k)).readAins ains).traceClock t
  s.setTrace t { s.trace t with boundary := k + 1 }

/-- TRACE_SAMPLE (09 R278): a slot's node is stored once its decimation is due; an engine input is stored at the next decimated boundary of
the 50 kHz clock, and the trigger node is read at each boundary up to it. `ains` are the readings of AIN0 to AIN3 at these boundaries, one
after the other. -/
def execTraceSample (t : Fin 4) (ains : List Int) (s : State) : Host.Outcome State Fault Refusal :=
  let node := s.nat (obj (0x2A90 + t) 1)
  let d := max 1 (s.nat (obj (0x2A90 + t) 2))
  if (s.trace t).state = 0 ∨ (s.trace t).state = 4 ∨ !s.timeRuns then .next s
  else if node / 256 = 0xFE then
    .next (((List.range (d - (s.trace t).skipped)).foldl (fun s j => s.traceTick t ((ains.drop (4 * j)).take 4)) s).traceStore t)
  else .next (s.traceStore t)

end Sys2Proof.Machine
end

