-- ==== Sys2Proof/Machine/Power.lean ====
section
/-!
DEFINITION. The commands of power and thermal management (11): mains, input power, rails, the power-fail sequence, Moored and waking, the die
diode, fans. V_SB_RETURN stands with the island's restart (Island.lean).
-/
namespace Sys2Proof.Machine

/-! ### Mains (11 R312, R318) -/

/-- The mains is at the inlet: with the relay closed the bleeder is out (11 R319). -/
def State.mainsIn (s : State) : State :=
  { s with power := { s.power with mains := true, bleeder := if s.power.relayOpen then s.power.bleeder else none } }

/-- The mains returns during the power-fail sequence: event 0x1002, counted (11 R318). -/
def State.mainsBack (s : State) : State := (s.mainsIn.bump (obj 0x2C00 0x0C)).raise 0x1002 0

/-- MAINS_UP (11 R312): the input is in range; a module that waits for it begins its start, no sooner than 100 ms after a power-fail sequence. -/
def execMainsUp (s : State) : Host.Outcome State Fault Refusal :=
  if s.power.mains then .next s
  else if s.power.seqAt.isSome then .next s.mainsBack
  else
    let s := s.mainsIn
    if s.module.state = .waking && s.power.state = 2 && !s.power.relayOpen then
      .next ({ s with power := { s.power with state := 1, startAt := max s.clk (s.power.offAt + 100 * msTicks) } }.islandStrip .waking)
    else .next s

/-- MAINS_OUT_OF_RANGE (11 R312): the input stage stops, event 0x1009, and the bleeder is switched in (R319). With the relay open there is no
input stage to stop. A start whose rails are not up waits for the mains; rails that are on fall to the power-fail warning (R316). -/
def execMainsOutOfRange (s : State) : Host.Outcome State Fault Refusal :=
  if !s.power.mains then .next s
  else
    let s := { s with power := { s.power with mains := false, bleeder := some s.clk } }
    if s.power.relayOpen then .next s
    else
      let s := if s.module.state = .waking && s.power.state = 1 then { s with power := { s.power with state := 2 } } else s
      .next (s.raise 0x1009 0)

/-- MAINS_RETURN (11 R318). -/
def execMainsReturn (s : State) : Host.Outcome State Fault Refusal :=
  if s.power.seqAt.isSome then .next s.mainsBack else .next s

/-! ### Input power (11 R314) -/

/-- The mean of the last second's samples. -/
def meanPower (l : List Nat) : ℚ := if l.isEmpty then 0 else (sumN l : ℚ) / l.length

/-- Suspension of the refill and its seconds. -/
def State.settleRefill (s : State) (mean : ℚ) : State :=
  match s.power.suspendedAt with
  | none =>
    if 700 < mean then
      let s := s.refill
      ({ s with drive := { s.drive with refillSuspended := true }, power := { s.power with suspendedAt := some s.clk } }).raiseSlow 0x1003 0
    else s
  | some t =>
    let s := if t + secTicks ≤ s.clk then
        (({ s with power := { s.power with suspendedAt := some (t + secTicks) } }).bump (obj 0x2C00 0x0D)).raiseSlow 0x1003 0
      else s
    if mean < 680 then
      let s := s.refill
      { s with drive := { s.drive with refillSuspended := false }, power := { s.power with suspendedAt := none } }
    else s

/-- INPUT_POWER_SAMPLE (11 R314): every 10 ms. `readings` are what the supervisor measures beside the power, in the units of 0x2C00 and 0x2C02:
mains voltage, mains frequency, bus voltage, power factor, V12, V5, core rail, V24. -/
def execInputPowerSample (watts : Nat) (readings : List Nat) (s : State) : Host.Outcome State Fault Refusal :=
  if !s.module.mainUp then .next s
  else
    let s := s.atClk (s.power.sampledAt + 10 * msTicks)
    let samples := (watts :: s.power.samples).take 100
    let mean := meanPower samples
    let energy := s.power.energy + watts
    let s := { s with power := { s.power with
      samples := samples, sampledAt := s.clk, energy := energy
      above := if 720 < mean then s.power.above + 1 else 0
      below := if mean ≤ 680 then s.power.below + 1 else 0 } }
    let s := (s.putNat (obj 0x2C00 4) (min max16 watts)).putNat (obj 0x2C00 5) (min max16 (roundN mean))
    let s := s.putNat (obj 0x2C00 8) (min max32 (energy / 36000000))
    let s := (([obj 0x2C00 2, obj 0x2C00 3, obj 0x2C00 6, obj 0x2C00 7, obj 0x2C02 1, obj 0x2C02 2, obj 0x2C02 3] : List Nat).zip readings).foldl
      (fun s r => s.putNat r.1 (min max16 r.2)) s
    let s := { s with drive := { s.drive with v24 := readings.getD 7 s.drive.v24 } }
    let s := s.settleRefill mean
    let hot := if s.thermal.inputHot then decide (s.power.below < 1000) else decide (1000 ≤ s.power.above)
    .next ({ s with thermal := { s.thermal with inputHot := hot } }).settleDerated.settleOuts

/-- RAIL_OUT_OF_REGULATION (11 R315): codes 1 V5, 2 core, 3 V12, 4 V24, 5 VBST, 6 auxiliary. -/
def execRailOutOfRegulation (rail : Nat) (s : State) : Host.Outcome State Fault Refusal :=
  if !s.module.mainUp || s.power.seqAt.isSome || rail = 0 || 6 < rail then .next s
  else
    let s := { s with power := { s.power with badRails := rail :: s.power.badRails } }
    .next (((s.putNat (obj 0x2C02 5) rail).raise 0x1004 rail).enterFault 0x1004)

/-! ### Power fail (11 R316 to R318) -/

/-- POWER_FAIL_WARNING (11 R317): W is counted and raised in every state of the main side (R316), and the sequence runs; with the recovery
loader, or while the main side starts, there is nothing to do but abort a transfer (18 R482). Sorting and Calibrating end in Idle (log
entry 23). -/
def execPowerFailWarning (s : State) : Host.Outcome State Fault Refusal :=
  if s.power.seqAt.isSome then .next s
  else if !s.module.mainUp then
    if s.module.loader || s.power.state = 1 || s.power.state = 3 then
      let s := ((s.bump (obj 0x2C00 0x0B)).raise 0x1001 0).abortTransfer
      .next { s with power := { s.power with state := 4, seqAt := some s.clk } }
    else .next s
  else
    let s := ((s.bump (obj 0x2C00 0x0B)).raise 0x1001 0).powerFailSteps
    .next (match s.module.state with
      | .sorting | .calibrating => s.enterState .idle trigPowerFail
      | _ => s)

/-- The pairs in progress complete (11 R317 step 7). -/
def State.finishPairs (s : State) : State := ((List.range 8).foldl State.slotPair s).runPair.1.stripPair

/-- The bleeder is switched in: it discharges the filter within 1 s and is then switched out (11 R319). -/
def State.bleederIn (s : State) : Bool :=
  match s.power.bleeder with
  | some t => s.clk < t + secTicks
  | none => false

/-- The end of the power-fail sequence: pairs complete, the panel rails go off once their ledger cells stand written, the main side is off (11 R317
steps 7 and 8). After a shutdown the main side stays off, by policy 1 the module is Moored, otherwise it starts 100 ms
later if the input stage runs, or waits for the mains. -/
def State.sequenceEnd (s : State) (w : Nat) : State :=
  let s := State.settleWrites 4 s.finishPairs
  let s := (s.railsDown (w + 19 * msTicks)).atClk (w + 25 * msTicks)
  let s := s.mainDown
  let s := { s with power := { s.power with seqAt := none, offAt := s.clk, badRails := [] } }
  if s.power.shutAt.isSome then s
  else if s.nat (obj 0x2C01 7) = 1 && s.power.vsb then s.moor trigPowerFail
  else if s.power.mains then
    (({ s with power := { s.power with state := 1, kind := 3, startAt := s.clk + 100 * msTicks } }).enterState .waking trigPowerFail).islandStrip
      .waking
  else (({ s with power := { s.power with state := 2, kind := 0, startAt := s.clk } }).enterState .waking trigPowerFail).islandStrip .waking

/-- MAIN_SIDE_OFF_ELAPSED (11 R318, R328): the sequence ends with the main side off. -/
def execMainSideOffElapsed (s : State) : Host.Outcome State Fault Refusal :=
  match s.power.seqAt with
  | none => .next s
  | some w => .next ((s.sequenceEnd w).noteReset s)

/-! ### Moored (11 R321) -/

/-- WAKE_IN is asserted: at the level its active edge leads to. -/
def State.wakeAsserted (s : State) : Bool := s.power.wakeHigh == (s.nat (obj 0x2C01 3) == 0)

/-- The action of a write of 0 to 0x2C01:01; from the acceptance on the loop outputs are unpowered (11 R321 step 1). -/
def actMoored (s : State) : State × Nat :=
  if s.power.moorAt.isSome then (s, 0)
  else if s.module.state ≠ .idle || !s.power.vsb || s.nat (obj 0x2C00 9) < 18000 || s.wakeAsserted then (s.mooredRefused, abortState)
  else
    let s := (s.putNat (obj 0x2C01 1) 0).raise 0x1005 0
    let s := { s with drive := { s.drive with enabled := false }
                      module := { s.module with sortAt := none, calWaiting := false }
                      power := { s.power with moorAt := some s.clk } }
    (([0, 1, 2, 3].foldl (fun s p => if s.portActive p then (actStopStream p s).1 else s) s.dropQueues).settleOuts, 0)

/-- MOORED_REQUEST (11 R321). -/
def execMooredRequest (m : Master) (s : State) : Host.Outcome State Fault Refusal :=
  .next (s.write m (obj 0x2C01 1) (.num 0) actMoored)

/-- MOORED_UPDATES_DONE (11 R321 steps 3 to 7): the strip is to show MOOR, and once it does, or where its rails have failed, the sequence goes on
to the opening of the relay. MOOR waits for no second after the write before (10 R300; log entry 175). -/
def execMooredUpdatesDone (s : State) : Host.Outcome State Fault Refusal :=
  if s.power.moorAt.isNone || s.updatesRun then .next s
  else
    let s := s.stripPair
    if s.backdrop.strip == s.stripText .moored || s.backdrop.rails.state = 4 then .next s.mooredOff
    else .next ({ s with backdrop := { s.backdrop with stripRun := some none, stripNext := s.stripText .moored } }).requestRails

/-- MOORED_ENTRY_TIMEOUT (11 R321): region updates have not completed within 0x2C01:08. -/
def execMooredEntryTimeout (s : State) : Host.Outcome State Fault Refusal :=
  match s.power.moorAt with
  | none => .next s
  | some t =>
    if s.updatesRun then .next (s.atClk (t + s.nat (obj 0x2C01 8) * msTicks)).abandonMoored else .next s

/-! ### Waking (11 R322, R323) -/

/-- A wake source fires: 1 CANopen, 2 WAKE_IN, 3 timer, where its bit of 0x2C01:02 enables it. Before the main side is off it abandons the
request (11 R321). -/
def State.wakeSource (s : State) (src : Nat) : State :=
  if !bitOf (s.nat (obj 0x2C01 2)) (src - 1) || !s.power.vsb then s
  else if s.power.moorAt.isSome then s.abandonMoored
  else if s.module.state ≠ .moored then s
  else
    let s := ((s.putNat (obj 0x2C01 6) src).putNat (obj 0x2C01 1) 1).bump (obj 0x2C00 0x0E)
    let s := s.raise 0x1006 src
    let s := (if s.nat (obj 0x2C01 4) = 1 then s.emit (.pin 1 [20 * msTicks]) else s).emit (.pin 4 [1, 20 * msTicks])
    let s := { s with
      power := { s.power with relayOpen := false, bleeder := none, kind := 1, startAt := s.clk, state := if s.power.mains then 1 else 2 } }
    (s.islandStrip .waking).enterState .waking trigWake

/-- WAKE_TIMER (11 R322): 0x2C01:05 seconds after the relay opened. -/
def execWakeTimer (s : State) : Host.Outcome State Fault Refusal :=
  let n := s.nat (obj 0x2C01 5)
  if s.module.state ≠ .moored || n = 0 then .next s
  else .next ((s.atClk (s.power.relayAt + n * secTicks)).wakeSource 3)

/-- WAKE_IN (11 R322): the pin has gone to this level and held it for 10 ms; the active edge wakes. -/
def execWakeIn (high : Bool) (s : State) : Host.Outcome State Fault Refusal :=
  if s.power.wakeHigh = high then .next s
  else
    let s := { s with power := { s.power with wakeHigh := high } }
    .next (if s.wakeAsserted then s.wakeSource 2 else s)

/-- The action of a write of 1 to 0x2C01:01. Through the side-band it is a wake source; after a die shutdown it starts the main side again, no
sooner than 60 s after the shutdown (11 R322, R328). -/
def actAwake (m : Master) (s : State) : State × Nat :=
  match s.power.shutAt with
  | some t =>
    if s.module.mainUp then (s, 0)
    else
      let s := (s.atClk (t + 60 * secTicks)).putNat (obj 0x2C01 1) 1
      ((({ s with power := { s.power with shutAt := none, kind := 0, startAt := s.clk, state := if s.power.mains then 1 else 2 } }).enterState
        .waking trigRestart).islandStrip .waking, 0)
  | none =>
    match m with
    | .mgmt => (s.wakeSource 1, 0)
    | .host => (s, 0)

/-- WAKE_CANOPEN (11 R322, R328). -/
def execWakeCanopen (s : State) : Host.Outcome State Fault Refusal :=
  .next ((s.write .mgmt (obj 0x2C01 1) (.num 1) (actAwake .mgmt)).noteReset s)

/-- V_SB_LOSS (11 R320): the island changes over to V5, event 0x1008; with the main side off nothing feeds it. -/
def execVSbLoss (s : State) : Host.Outcome State Fault Refusal :=
  if !s.power.vsb then .next s
  else
    let s := ({ s with power := { s.power with vsb := false } }.putNat (obj 0x2C00 9) 0).settleEnOut
    .next (if s.islandFed then (s.putNat (obj 0x2C00 0x0A) 1).raise 0x1008 0 else s)

/-! ### Die diode (11 R324 to R328) -/

/-- A reading is broken: open or short, outside −55 °C to +160 °C, or more than 20 K from the reading before. -/
def Thermal.bad (t : Thermal) (reading : Option Int) : Bool :=
  match reading with
  | none => true
  | some r => r < -880 || 2560 < r || (match t.prev with | some q => 320 < (r - q).natAbs | none => false)

/-- The state of the die as loop source 10 (09 R260, 11 R327). -/
def State.presentDie (s : State) : State :=
  let x : LoopInput := { value := s.thermal.mean, at_ := some s.clk, fault := s.thermal.broken }
  { s with loops := { s.loops with inputs := s.loops.inputs.set 9 x } }

/-- A broken reading is discarded; the first one makes the diode broken, event 0x2006. -/
def State.dieBroken (s : State) : State :=
  let t := s.thermal
  let s := { s with thermal := { t with
    broken := true, die := 110, hist := [], soundMs := 0, brokenMs := min 60000 (t.brokenMs + 1) } }
  if t.broken then s else ((s.bump (obj 0x2C12 4)).raise 0x2006 0)

/-- The rate over `w` milliseconds in K/s; none before that much valid history exists (11 R324). -/
def rateOver (hist : List ℚ) (w : Nat) : Option ℚ :=
  match hist[0]?, hist[w]? with
  | some a, some b => some ((a - b) * 1000 / w)
  | _, _ => none

/-- A valid reading: T̄, the rates, and the diode sound again after 10 s (11 R324, R326). -/
def State.dieValid (s : State) (r : Int) : State :=
  let t := s.thermal
  let readings := (r :: t.readings).take 64
  let mean : ℚ := (sumI readings : ℚ) / (16 * readings.length)
  let hist := (mean :: t.hist).take 8001
  let sound := t.soundMs + 1
  let broken := t.broken && decide (sound < 10000)
  { s with thermal := { t with
    readings := readings, mean := mean, hist := hist
    highest := match t.highest with | some h => some (max h mean) | none => some mean
    rate8 := (rateOver hist 8000).getD 0, rate2 := (rateOver hist 2000).getD 0
    broken := broken, limitHit := t.limitHit && broken
    soundMs := if t.broken then sound else 0, brokenMs := if broken then t.brokenMs else 0
    die := if broken then 110 else mean } }

/-- Thresholds in force, lowered by the die offset of the ledger (11 R325). -/
def State.warnAt (s : State) : ℚ := 100 - s.ledger.data.dieOffset
def State.derateAt (s : State) : ℚ := 110 - s.ledger.data.dieOffset

/-- The limits of 11 R325, but for shutdown. -/
def State.dieLimits (s : State) : State :=
  let t := s.thermal
  let warn := if t.warnAbs then decide (s.warnAt - 3 ≤ t.mean) else decide (s.warnAt ≤ t.mean)
  let low := if t.mean < s.derateAt - 5 then t.absLow + 1 else 0
  let derate := if t.derateAbs then decide (low < 10000) else decide (s.derateAt ≤ t.mean)
  let r8 := rateOver t.hist 8000
  let r2 := rateOver t.hist 2000
  let rwarn := match r8 with
    | some r => if t.warnRate then decide (1 < r) else decide (3 / 2 < r)
    | none => t.warnRate
  let rlow := match r8 with | some r => if r ≤ 3 / 2 then t.rateLow + 1 else 0 | none => 0
  let rderate := if t.derateRate then decide (rlow < 10000) else (match r2 with | some r => decide (4 < r) | none => false)
  let s := { s with thermal := { t with
    warnAbs := warn, derateAbs := derate, warnRate := rwarn, derateRate := rderate
    absLow := if derate then (if t.derateAbs then low else 0) else 0
    rateLow := if rderate then (if t.derateRate then rlow else 0) else 0 } }
  let s := if warn && !t.warnAbs then s.raise 0x2001 0 else s
  let s := if derate && !t.derateAbs then s.raise 0x2002 0 else s
  let s := if rwarn && !t.warnRate then s.raise 0x2004 0 else s
  if rderate && !t.derateRate then s.raise 0x2005 0 else s

/-- DIE_SHUTDOWN (11 R328): steps 1 to 8 of the power-fail sequence, and Fault. The EVENT of step 1 goes out on Strand as at W; in the island's
reports event 0x2003 stands for it. -/
def State.dieShutdown (s : State) : State :=
  let s := (({ s with thermal := { s.thermal with shutdown := true } }).bump (obj 0x2C12 3)).raise 0x2003 0
  let s := (s.sendEvent 0x1001 (severityOf 0x1001) 0).powerFailSteps
  ({ s with power := { s.power with shutAt := some s.clk }, module := { s.module with faultCause := 0x2003 } }).enterState .fault trigFault

/-- Seconds Derated, 0x2C12:02. -/
def State.countDerated (s : State) : State :=
  if s.thermal.derated && s.thermal.deratedAt + secTicks ≤ s.clk then
    ({ s with thermal := { s.thermal with deratedAt := s.thermal.deratedAt + secTicks } }).bump (obj 0x2C12 2)
  else s

/-- DIE_SAMPLE (11 R324): the reading of the next millisecond in 1/16 °C, none for an open or shorted diode. -/
def execDieSample (reading : Option Int) (s : State) : Host.Outcome State Fault Refusal :=
  if !s.module.mainUp || s.power.seqAt.isSome then .next s
  else
    let s := s.atClk (s.thermal.sampledAt + msTicks)
    let bad := s.thermal.bad reading
    let s := { s with thermal := { s.thermal with sampledAt := s.clk, prev := reading.or s.thermal.prev } }
    if bad then .next s.dieBroken.presentDie.settleDerated.settleOuts.countDerated
    else
      let s0 := s
      let s := (s.dieValid (reading.getD 0)).presentDie
      if 125 ≤ s.thermal.mean then .next s.dieShutdown
      else .next (s.dieLimits.settleDerated.settleOuts.countDerated.noteReset s0)

/-- DIODE_BROKEN_LIMIT (11 R326): the diode has been broken for 60 s, once until it is sound again. In another Fault the event is raised and the
fans go to 100 % too. -/
def execDiodeBrokenLimit (s : State) : Host.Outcome State Fault Refusal :=
  if !s.module.mainUp || !s.thermal.broken || s.power.seqAt.isSome || s.thermal.limitHit then .next s
  else
    let s := s.atClk (s.thermal.sampledAt + (60000 - s.thermal.brokenMs) * msTicks)
    let s := { s with thermal := { s.thermal with brokenMs := 60000, limitHit := true } }
    .next ((s.raise 0x2007 0).enterFault 0x2007).settleOuts

/-! ### Fans (11 R331) -/

/-- FAN_STALL (11 R331): no tachometer pulse for 1 s at 20 % duty or more. -/
def execFanStall (fan : Fin 4) (s : State) : Host.Outcome State Fault Refusal :=
  if !s.module.mainUp || s.thermal.stalled.getD fan false || s.fanDuty fan < 20 then .next s
  else
    let s := s.atClk (s.power.tachAt.getD fan 0 + secTicks)
    let x := s.loops.inputs.getD (5 + fan) {}
    let s := { s with
      thermal := { s.thermal with stalled := s.thermal.stalled.set fan true }
      loops := { s.loops with inputs := s.loops.inputs.set (5 + fan) { x with fault := true } } }
    .next ((s.settleOuts.bump (obj 0x2C22 (fan + 1))).raise 0x2009 fan)

end Sys2Proof.Machine
end

