-- ==== Sys2Proof/Machine/Update.lean ====
section
/-!
DEFINITION. Firmware update and recovery (18): staging, verification, update commands, the copy and the first-start watch, library slots.
-/
namespace Sys2Proof.Machine

/-! ### Images and formats (18 R478, R479, R487) -/

/-- The largest firmware image. -/
abbrev imageMax : Nat := 8388608

/-- The settings format that the running firmware writes; the factory's firmware has one of its own (log entry 4). -/
def State.fwFormat (s : State) : Nat :=
  match s.update.fw with
  | some img => field img 0x10 2
  | none => Config.factory (obj 0x2E04 1) % 65536

/-- The settings format in force: of the copy loaded at the start, or of the firmware where none was (18 R487, R488). -/
def State.formatInForce (s : State) : Nat :=
  match s.dict.stores.find? (fun c => c.valid && c.seq == s.dict.seqInForce && s.dict.seqInForce != 0) with
  | some c => c.format
  | none => s.fwFormat

/-- The length field of an image equals its bytes (18 R479 check 1; log entry 184). -/
def lengthFits (d : List Byte) : Bool := field d 0x18 4 == d.length

/-- The header of a firmware image (18 R478). -/
def headerFits (d : List Byte) : Bool :=
  slice d 0 4 == ascii "AEHF" && field d 4 2 == 1 && field d 6 1 == 1 && decide (field d 7 1 < 4) && zeroBytes d 0x16 2
    && zeroBytes d 0x21 31 && zeroBytes d 0x80 128

/-- The boot ROM can start an image: its header and its CRC-32 are right (18 R484). -/
def bootable (d : List Byte) : Bool := lengthFits d && headerFits d && field d 0x1C 4 == crc32 (d.drop 0x100)

/-- The first failing check of 18 R479, or 0. -/
def State.imageVerdict (s : State) (d : List Byte) : Nat :=
  if !lengthFits d then 1
  else if !headerFits d then 2
  else if !bitOf (field d 7 1) (match s.variant with | .aeh2564 => 0 | .aeh1282 => 1) ∨ s.nat (obj 0x2000 4) < field d 0x14 2
      ∨ s.nat (obj 0x2000 6) < field d 0x0C 4 then 3
  else if field d 0x1C 4 ≠ crc32 (d.drop 0x100) then 4
  else if !signatureRight d then 5
  else if s.formatInForce < field d 0x12 2 then 6
  else 0

/-- The update state as 0x2E00:01 shows it. -/
def State.updateState (s : State) : Nat := if s.module.state = .recovery then 7 else s.update.st

/-! ### Staging (18 R481, R482) -/

/-- Flash takes writes only while the main side, or the loader, is up (18 R476). -/
def State.flashUp (s : State) : Bool := s.module.mainUp || s.module.loader

/-- Every write to 0x2E01 is refused: an image is pending, or starts for the first time while it is copied (18 R482). -/
def State.stagingBarred (s : State) : Bool := s.update.st == 4 || s.update.st == 5

/-- The last byte has arrived: verification begins. -/
def State.received (s : State) : State :=
  ({ s with update := { s.update with st := 2, lastByte := s.clk } }).bump (obj 0x2E06 1)

/-- Bytes of a transfer on a path: the transfer begins with offset 0, goes on in order, and ends with its last byte. -/
def State.stageBytes (s : State) (path offset total : Nat) (data : List Byte) : State × Nat :=
  let u := s.update
  if !s.flashUp || s.power.seqAt.isSome || u.st = 2 || s.stagingBarred || (u.st = 1 && u.path != path) then (s, abortState)
  else if u.st ≠ 1 ∧ offset ≠ 0 then (s, abortState)
  else if u.st ≠ 1 ∧ (total < 256 ∨ imageMax < total) then (s, abortLength)
  else if u.st = 1 ∧ (offset ≠ u.staging.length ∨ total ≠ u.total ∨ u.total < offset + data.length) then (s.abortTransfer, abortState)
  else
    let held := if u.st = 1 then u.staging else []
    let staging := held ++ data
    let s := { s with update := { u with
      st := 1, path := path, total := total, staging := staging, verified := false, lastByte := s.clk } }
    let s := s.emit (.stored 6 [offset, data.length])
    (if total ≤ staging.length then s.received else s, 0)

/-- The action of a write to 0x2E01:01: the path is the side-band's or DICT's. -/
def actStaging (m : Master) (offset total : Nat) (data : List Byte) (s : State) : State × Nat :=
  s.stageBytes (match m with | .mgmt => 0 | .host => 1) offset total data

/-- STAGING_IMAGE_WRITE (18 R481): bytes of a write of `total` bytes to 0x2E01:01. -/
def execStagingImageWrite (m : Master) (offset total : Nat) (data : List Byte) (s : State) : Host.Outcome State Fault Refusal :=
  .next (s.write m (obj 0x2E01 1) (.bytes data) (actStaging m offset total data))

/-- STAGING_IDLE_TIMEOUT (18 R482): more than 10 s with no byte. -/
def execStagingIdleTimeout (s : State) : Host.Outcome State Fault Refusal :=
  if s.update.st = 1 then .next (s.atClk (s.update.lastByte + 10 * secTicks + 1)).abortTransfer else .next s

/-- VERIFY_DONE (18 R479, R481). -/
def execVerifyDone (s : State) : Host.Outcome State Fault Refusal :=
  if s.update.st ≠ 2 then .next s
  else
    let c := s.imageVerdict s.update.staging
    let s := { s with update := { s.update with st := if c = 0 then 3 else 6, cause := c, verified := decide (c = 0) } }
    .next (if c = 0 then s.raise 0xE001 0 else (s.bump (obj 0x2E06 2)).raise 0xE003 c)

/-! ### Update commands (18 R483) -/

/-- A command in the states that allow it. -/
def updateCommand (allowed : List Nat) (act : State → State) (s : State) : State × Nat :=
  if s.power.seqAt.isSome || !s.flashUp || !allowed.contains s.updateState then (s, abortState) else (act s, 0)

/-- The ports that stream now. -/
def State.streamingPorts (s : State) : List Nat := [0, 1, 2, 3].filter (fun p => (s.cam p).state == .streaming)

/-- The image is marked pending. -/
def State.markPending (s : State) : State := ({ s with update := { s.update with st := 4, blocks := 0 } }).raise 0xE004 0

def actVerifyAgain : State → State × Nat :=
  updateCommand [3, 6] (fun s => { s with update := { s.update with st := 2, lastByte := s.clk } })
def actMarkPending : State → State × Nat := updateCommand [3] State.markPending
def actMarkPendingRestart : State → State × Nat :=
  updateCommand [3] (fun s => ({ s with update := { s.update with restartPorts := s.streamingPorts } }).markPending.beginRestart)
def actCancelPending : State → State × Nat :=
  updateCommand [4] (fun s => ({ s with update := { s.update with st := 3 } }).raise 0xE005 0)
def actRestartFromStaging : State → State × Nat := updateCommand [7] (fun s => s.markPending.beginRestart)

/-- Command 6: the image is copied from the host region by DMA channel C0 (18 R481); the model takes the whole copy at once. -/
def actStageFromDdr : State → State × Nat :=
  updateCommand [0, 3, 6] (fun s =>
    let n := s.nat (obj 0x2E01 3)
    let d := s.memRead (s.nat (obj 0x2E01 2)) n
    (({ s with update := { s.update with path := 3, total := n, staging := d, verified := false } }).fwRun 0 0 n).received)

/-- The action of a write of 0x2E01:02. -/
def actStageSource (v : Nat) (s : State) : State × Nat :=
  if s.stagingBarred then (s, abortState)
  else (s.putNat (obj 0x2E01 2) v, 0)

/-- The action of a write of 0x2E01:03. -/
def actStageLength (v : Nat) (s : State) : State × Nat :=
  if s.stagingBarred then (s, abortState) else (s.putNat (obj 0x2E01 3) v, 0)

def State.updateWrite (s : State) (m : Master) (n : Nat) (act : State → State × Nat) : State := s.write m (obj 0x2E02 1) (.num n) act

/-- UPDATE_VERIFY_AGAIN (18 R483). -/
def execUpdateVerifyAgain (m : Master) (s : State) : Host.Outcome State Fault Refusal := .next (s.updateWrite m 1 actVerifyAgain)
/-- UPDATE_MARK_PENDING (18 R483). -/
def execUpdateMarkPending (m : Master) (s : State) : Host.Outcome State Fault Refusal := .next (s.updateWrite m 2 actMarkPending)
/-- UPDATE_MARK_PENDING_RESTART (18 R483). -/
def execUpdateMarkPendingRestart (m : Master) (s : State) : Host.Outcome State Fault Refusal :=
  .next (s.updateWrite m 3 actMarkPendingRestart)
/-- UPDATE_CANCEL_PENDING (18 R483). -/
def execUpdateCancelPending (m : Master) (s : State) : Host.Outcome State Fault Refusal := .next (s.updateWrite m 4 actCancelPending)
/-- UPDATE_RESTART_FROM_STAGING (18 R483). -/
def execUpdateRestartFromStaging (m : Master) (s : State) : Host.Outcome State Fault Refusal :=
  .next (s.updateWrite m 5 actRestartFromStaging)
/-- UPDATE_STAGE_FROM_DDR (18 R483). -/
def execUpdateStageFromDdr (m : Master) (s : State) : Host.Outcome State Fault Refusal := .next (s.updateWrite m 6 actStageFromDdr)

/-! ### Copy, watch, Recovery (18 R484 to R486) -/

/-- The image is confirmed once the copy is complete and the watch has run: state 0, journal erased, event 0xE006. -/
def State.settleFirstStart (s : State) : State :=
  if s.update.st = 5 ∧ s.update.blocks = 128 ∧ s.update.watch = none then
    (({ s with update := { s.update with st := 0, blocks := 0 } }).bump (obj 0x2E06 3)).raise 0xE006 0
  else s

/-- COPY_BLOCK_DONE (18 R484): the next block is erased, programmed, read back and marked verified. -/
def execCopyBlockDone (s : State) : Host.Outcome State Fault Refusal :=
  let u := s.update
  if u.st ≠ 5 ∨ 128 ≤ u.blocks then .next s
  else
    let n := u.blocks + 1
    let s := { s with update := { u with blocks := n, partly := decide (n < 128), boot := if n = 128 then some u.staging else u.boot } }
    .next (s.emit (.stored 7 [n - 1])).settleFirstStart

/-- FIRST_START_WATCH_END (18 R484): the watch has run 30 s without a watchdog expiry. -/
def execFirstStartWatchEnd (s : State) : Host.Outcome State Fault Refusal :=
  match s.update.watch with
  | none => .next s
  | some t =>
    let s := s.atClk (t + 30 * secTicks)
    .next ({ s with update := { s.update with watch := none } }).settleFirstStart

/-- Recovery (18 R485, R486): causes 1 boot bank unusable, 2 self-test, 3 watchdog in the first start. A failed first start raises 0xE007. -/
def State.enterRecovery (s : State) (cause : Nat) : State :=
  let first := s.update.st = 5
  let s := (s.failRun.lapse.drivePowerFail.enterState .recovery trigFault).mainDown
  let s := { s with
    module := { s.module with loader := true }
    update := { s.update with st := if s.update.verified then 3 else 0, recoveryCause := cause, watch := none } }.islandStrip .recovery
  if first then (s.bump (obj 0x2E06 4)).raise 0xE007 0 else s

/-! ### Library slots (18 R490) -/

/-- The action of a write of 0x2E05:01 to :10 (slot 0 to 15). -/
def actLibrarySlot (slot : Nat) (img : List Byte) (s : State) : State × Nat :=
  if !s.flashUp || s.pipe.banks.any (fun b => match b.loading with | some (k, _) => k == slot | none => false) then (s, abortState)
  else
    let ok := bankValid img
    let s := { s with update := { s.update with library := s.update.library.set slot (if ok then img else []) } }
    if ok then (((s.emit (.stored 8 [slot])).fwRun 1 7 img.length).raise 0xE00B slot, 0) else (s, abortData)

/-- LIBRARY_SLOT_WRITE (18 R490). -/
def execLibrarySlotWrite (m : Master) (slot : Nat) (image : List Byte) (s : State) : Host.Outcome State Fault Refusal :=
  .next (s.write m (obj 0x2E05 (slot + 1)) (.bytes image) (actLibrarySlot slot image))

end Sys2Proof.Machine
end

