-- ==== Sys2Proof/Machine/Recorder.lean ====
section
/-!
DEFINITION. The event recorder's commands and byte layouts (17): writes that end, samples, configuration, selection, export, clear.
-/
namespace Sys2Proof.Machine

/-! ### Byte layouts (17 R464, R465, R459) -/

/-- The quiet NaN of an extreme without samples (17 R459). -/
abbrev nan32 : Nat := 0x7FC00000

/-- One extreme: minimum, maximum, and their times. -/
def extremeBytes (e : Extreme) : List Byte :=
  leBytes 4 (match e.lo with | some (v, _) => r32Of v | none => nan32)
    ++ leBytes 4 (match e.hi with | some (v, _) => r32Of v | none => nan32)
    ++ leBytes 2 (match e.lo with | some (_, t) => t | none => max16)
    ++ leBytes 2 (match e.hi with | some (_, t) => t | none => max16)

/-- A stored bin (17 R464). -/
def storedBin (n total : Nat) : Nat := if n = 0 then 0 else max 1 (roundDiv (255 * n) total)

def histBytes (h : Hist) : List Byte := leBytes 4 h.n ++ h.bins.map (fun n => BitVec.ofNat 8 (storedBin n h.n))

/-- A count of the record saturated (17 R464). -/
def Record.saturated (r : Record) : Bool :=
  r.tally.total == max32 || r.tally.counts.any (max16 ≤ ·) || r.increases.any (max16 ≤ ·)
    || r.tally.hists.any (fun h => h.n == max32 || h.bins.any (max32 ≤ ·))

/-- Bytes 0x04 to 0x1F of a record. -/
def Record.head (r : Record) : List Byte :=
  leBytes 1 1 ++ leBytes 1 r.trigger ++ leBytes 1 r.severity
    ++ leBytes 1 (4 * boolNat r.saturated + 2 * boolNat r.tally.atStart + boolNat r.powerDown)
    ++ leBytes 4 r.tally.openedAt ++ leBytes 4 r.closed ++ leBytes 3 (r.cycles % 2 ^ 24) ++ leBytes 1 r.state
    ++ leBytes 2 r.code ++ leBytes 2 r.arg ++ leBytes 4 r.tally.cfg.id ++ leBytes 4 r.tally.total

/-- Bytes 0x22 to 0xFB of a record. -/
def Record.body (r : Record) : List Byte :=
  leBytes 2 r.tally.last ++ r.tally.counts.flatMap (fun n => leBytes 2 (min max16 n)) ++ r.tally.hists.flatMap histBytes
    ++ r.tally.exts.flatMap extremeBytes ++ r.increases.flatMap (fun n => leBytes 2 (min max16 n))

/-- The 256 bytes of a record (17 R464). -/
def Record.bytes (r : Record) : List Byte :=
  leBytes 4 r.seq ++ r.head ++ leBytes 2 (crc16 (r.head ++ r.body)) ++ r.body ++ leBytes 4 r.closing

/-- The 64 bytes of the log header (17 R465). -/
def LogHeader.bytes (h : LogHeader) : List Byte :=
  leBytes 4 h.seq ++ leBytes 2 1 ++ leBytes 2 2000 ++ leBytes 4 h.newest ++ leBytes 4 h.oldest ++ leBytes 2 h.held
    ++ leBytes 2 h.newestSlot ++ leBytes 4 h.dropped ++ leBytes 4 h.overwritten ++ leBytes 4 h.torn ++ leBytes 4 h.clears
    ++ leBytes 2 h.clearedSlot ++ leBytes 2 0 ++ leBytes 4 h.clearSecs ++ leBytes 4 h.cfgId ++ List.replicate 12 0#8
    ++ leBytes 4 h.seqCopy

/-- The 256 bytes of a slot; a free slot has both sequences 0 (17 R466; the rest of it as zeros). -/
def State.slotBytes (s : State) (n : Nat) : List Byte :=
  match assocGet s.recorder.slots n with
  | some r => r.bytes
  | none => List.replicate 256 0#8

/-- The slot directory, 0x2D04:01. -/
def State.slotDirectory (s : State) : List Byte :=
  (List.range 2000).flatMap (fun n =>
    match assocGet s.recorder.slots n with
    | some r => leBytes 4 r.seq ++ leBytes 1 r.severity ++ leBytes 1 r.trigger ++ leBytes 2 r.code
    | none => List.replicate 8 0#8)

/-! ### Writes and samples (17 R458, R462) -/

/-- RECORD_WRITE_DONE (17 R461, R462, R471): what waits follows, and the clear whose record it was is answered. -/
def execRecordWriteDone (s : State) : Host.Outcome State Fault Refusal :=
  match s.recorder.writing with
  | none => .next s
  | some w =>
    let reply := s.recorder.clearReply
    let s := { s with recorder := { s.recorder with clearReply := none } }.endWrite w
    let s := match reply with | some m => s.answerClear m | none => s
    .next s.nextTrigger

/-- Shots started in the last second, 0x2700:16. -/
def State.shotRate (s : State) : Nat := (s.drive.startedAt.filter (fun t => s.clk < t + secTicks)).length

/-- The hottest winding estimate and its valve, 0x2700:19 and :1A. -/
def State.hottest (s : State) : Nat × ℚ :=
  (List.range s.valveCount).foldl (fun (b : Nat × ℚ) v => if b.2 < (s.valve v).thetaW then (v, (s.valve v).thetaW) else b)
    (0, (s.valve 0).thetaW)

/-- TALLY_SAMPLE (17 R458): every 1 s. -/
def execTallySample (s : State) : Host.Outcome State Fault Refusal :=
  if !s.module.mainUp then .next s
  else
    let s := s.atClk (s.recorder.lastSample + secTicks)
    let lines := s.recorder.lines
    let s := (((s.sample 1 s.thermal.mean).sample 2 s.hottest.2).sample 3 s.shotRate).sample 10 (s.nat (obj 0x2C00 5))
    let s := (s.sample 11 ((s.vbstNow : ℚ) / 1000)).sample 12 s.recorder.sightings
    let s := [0, 1, 2, 3].foldl (fun s p => s.sample (6 + p) (lines.getD p 0)) s
    .next { s with recorder := { s.recorder with lastSample := s.clk, lines := [0, 0, 0, 0], sightings := 0 } }

/-! ### Configuration and selection (17 R460, R468) -/

/-- A write of 0x2D01 (17 R460). -/
def actTallyConfig (sub : Nat) (v : Val) (s : State) : State × Nat :=
  let s := s.put (obj 0x2D01 sub) v
  ({ s with recorder := { s.recorder with cfgDirty := true } }, 0)

/-- TALLY_CONFIG_WRITE (17 R460). -/
def execTallyConfigWrite (m : Master) (sub : Nat) (v : Val) (s : State) : Host.Outcome State Fault Refusal :=
  .next (s.write m (obj 0x2D01 (sub % 256)) v (actTallyConfig (sub % 256) v))

/-- The slot selected by a master, 0x2D03:01. -/
def State.selectSlot (s : State) (m : Master) (n : Nat) : State :=
  { s with recorder := { s.recorder with selected := s.recorder.selected.set (masterIx m) n } }

def actSelectSlot (m : Master) (n : Nat) (s : State) : State × Nat := (s.selectSlot m n, 0)

/-- A write of 0x2D03:03 (17 R468). -/
def actSelectSeq (m : Master) (seq : Nat) (s : State) : State × Nat :=
  match s.recorder.slots.find? (fun p => p.2.seq == seq) with
  | some p => (s.selectSlot m p.1, 0)
  | none => (s, abortRange)

/-- SELECT_BY_SEQUENCE (17 R468). -/
def execSelectBySequence (m : Master) (seq : Nat) (s : State) : Host.Outcome State Fault Refusal :=
  .next (s.write m (obj 0x2D03 3) (.num seq) (actSelectSeq m seq))

/-! ### Export (17 R469) -/

/-- A write of 0x2D04:02. -/
def actExport (address : Nat) (s : State) : State × Nat :=
  if !inDdr address 512064 then (s, abortRange)
  else if !s.module.mainUp ∨ s.recorder.exporting.isSome then (s, abortState)
  else ({ s with recorder := { s.recorder with exporting := some address, exportState := 1 } }.fwStart 3 8 512064, 0)

/-- EXPORT_LOG (17 R469). -/
def execExportLog (m : Master) (address : Nat) (s : State) : Host.Outcome State Fault Refusal :=
  .next (s.write m (obj 0x2D04 2) (.num address) (actExport address))

/-- EXPORT_DONE (17 R469): the transfer of channel C3 has come to its end: header and slots 0 to 1,999 stand in DDR. No slot is copied while it
is written. -/
def execExportDone (s : State) : Host.Outcome State Fault Refusal :=
  match s.recorder.exporting with
  | some a =>
    if !s.module.mainUp || s.recorder.writing.isSome || s.fwBarred 3 then .next s
    else
      let s := s.memWrite a (s.recorder.header.bytes ++ (List.range 2000).flatMap s.slotBytes)
      .next (({ s with recorder := { s.recorder with exporting := none, exportState := 2 } }.fwEnd 3).raise 0xD008 0)
  | none => .next s

/-! ### Clear (17 R470, R471) -/

/-- The clear is locked. -/
def State.clearLocked (s : State) : Bool :=
  match s.recorder.lockedAt with
  | some t => s.clk < t + 600 * secTicks
  | none => false

/-- A read of 0x2D05:01 issues a challenge: 8 free bytes (17 R470). -/
def State.newChallenge (s : State) (m : Master) : State × List Byte :=
  match s.draw with
  | (n, s) =>
    let c := Config.challenge n % 2 ^ 64
    ({ s with recorder := { s.recorder with challenges := s.recorder.challenges.set (masterIx m) (some (c, s.clk)) } }, leBytes 8 c)

/-- CLEAR_CHALLENGE (17 R470): the read of 0x2D05:01. -/
def execClearChallenge (m : Master) (s : State) : Host.Outcome State Fault Refusal :=
  if !s.reachable m then .next s
  else
    let c := s.checkRead m (obj 0x2D05 1)
    if c ≠ 0 then .next (s.answer m (obj 0x2D05 1) c [])
    else if s.clearLocked then .next (s.answer m (obj 0x2D05 1) abortState [])
    else
      match s.newChallenge m with
      | (s, d) => .next (s.answer m (obj 0x2D05 1) 0 d)

/-- A refusal of a clear response: the challenge is void; the third within 10 min locks the clear (17 R470). -/
def State.refuseClear (s : State) (m : Master) : State :=
  let recent := s.recorder.refusals.filter (fun t => s.clk ≤ t + 600 * secTicks)
  let s := { s with recorder := { s.recorder with
    challenges := s.recorder.challenges.set (masterIx m) none, refusals := recent ++ [s.clk] } }
  let s := (s.bump (obj 0x2D05 4)).raise 0xD003 0
  if 2 ≤ recent.length then
    ({ s with recorder := { s.recorder with lockedAt := some s.clk, refusals := [] } }).raise 0xD004 0
  else s

/-- The response is right for the challenge: a correct answer needs the module key, which is not in the manual (log entry 28). -/
def State.responseRight (s : State) (m : Master) (d : List Byte) : Bool :=
  match s.recorder.challenges.getD (masterIx m) none with
  | some (c, t) => s.clk ≤ t + 60 * secTicks && d == leBytes 8 (Config.clearResponse c (s.byteVal (obj 0x2000 3)) % 2 ^ 64)
  | none => false

/-- A correct response is accepted: the clear takes the live bank, and runs at once or at the end of a write in progress (17 R471). -/
def State.acceptClear (s : State) (m : Master) : State :=
  let bank := s.recorder.live
  let s := (s.switchBanks).noteConfig s
  let s := { s with recorder := { s.recorder with
    challenges := s.recorder.challenges.set (masterIx m) none, clearing := some (m, bank), clearVia := .command } }
  if s.recorder.writing.isNone then s.runClear m bank else s

/-- The action of a write of 0x2D05:02 (17 R470, R471). -/
def actClear (m : Master) (response : List Byte) (s : State) : State × Nat :=
  if s.clearLocked || s.recorder.exporting.isSome || s.power.seqAt.isSome || s.recorder.clearing.isSome then (s, abortState)
  else if s.responseRight m response then (s.acceptClear m, 0)
  else (s.refuseClear m, abortData)

/-- A write of 0x2D05:02: a refusal is answered at once, a correct response when the clear has completed. -/
def State.clearWrite (s : State) (m : Master) (response : List Byte) : State :=
  let k := obj 0x2D05 2
  if !s.reachable m then s
  else
    match s.tryWrite m k (.bytes response) (actClear m response) with
    | (s, c) => if c = 0 then s else s.answer m k c []

/-- CLEAR_RESPONSE (17 R470, R471). -/
def execClearResponse (m : Master) (response : List Byte) (s : State) : Host.Outcome State Fault Refusal := .next (s.clearWrite m response)

/-- CLEAR_LOCK_EXPIRY (17 R470): 10 min after it. -/
def execClearLockExpiry (s : State) : Host.Outcome State Fault Refusal :=
  match s.recorder.lockedAt with
  | some t =>
    let s := s.atClk (t + 600 * secTicks)
    .next { s with recorder := { s.recorder with lockedAt := none } }
  | none => .next s

end Sys2Proof.Machine
end

