-- ==== Sys2Proof/Machine/States.lean ====
section
/-!
DEFINITION. The commands of the module's states (12 R338 to R343): Idle, Calibrate, Sort, restart, watchdog. The start of the main side stands in
Start.lean.
-/
namespace Sys2Proof.Machine

/-! ### Readiness (12 R340) -/

/-- The ports in use, 0x2001:09. -/
def State.inUse (s : State) : List Nat := [0, 1, 2, 3].filter (fun p => bitOf (s.nat (obj 0x2001 9)) p)

/-- Hold bit [1] of 10 R302 is set: a clear cycle or journal recovery runs. -/
def State.recoveryHold (s : State) : Bool := match s.backdrop.run with | some r => r.recovery | none => false

/-- Every port in use is STREAMING. -/
def State.portsStream (s : State) : Bool := s.inUse.all (fun p => (s.cam p).state == .streaming)

/-- The readiness word, 0x2004:01. -/
def State.readiness (s : State) : Nat :=
  128 * boolNat (s.module.state == .idle && s.power.state == 3)
  + 64 * boolNat s.portsStream
  + 32 * boolNat (s.inUse.all (fun p => s.nat (obj (0x2410 + 16 * p) 0x0C) % 8 == 7))
  + 16 * boolNat (!s.recoveryHold)
  + 8 * boolNat ((s.pipe.banks.getD s.pipe.active {}).valid || s.inUse.all (· < 2))
  + 4 * boolNat s.module.mainUp
  + 2 * boolNat (s.seqs.stores.all (fun g => !g.holding))
  + boolNat (s.module.mainUp && !s.recorder.toIsland)

/-! ### Commands (12 R337 to R340) -/

/-- The value of an accepted state command stands in 0x2001:02. -/
def State.keepCommand (s : State) (n : Nat) : State := s.putNat (obj 0x2001 2) n

/-- The action of state command 1. -/
def actIdle (s : State) : State × Nat :=
  match s.module.state with
  | .idle => (s.keepCommand 1, 0)
  | .calibrating => (((s.keepCommand 1).dropRun).enterState .idle trigCommand, 0)
  | .sorting =>
    let s := s.keepCommand 1
    if s.module.stopAt.isSome then (s, 0)
    else ({ s.closeTracker with module := { s.module with stopAt := some s.clk } }, 0)
  | _ => s.refuseCommand 1

/-- A region update, or a panel command, is running or pending; recovery is none of them (12 R339). -/
def State.regionsBusy (s : State) : Bool :=
  s.backdrop.slots.any (fun x => x.run.isSome || x.next.isSome) || (s.backdrop.run.isSome && !s.recoveryHold)

/-- The action of state command 2. -/
def actCalibrate (s : State) : State × Nat :=
  match s.module.state with
  | .calibrating => (s.keepCommand 2, 0)
  | .idle =>
    if s.thermal.derated then s.refuseCommand 2
    else if !s.portsStream then s.refuseCommand 3
    else if s.pipe.capture.isSome || s.regionsBusy then s.refuseCommand 4
    else
      let s := s.keepCommand 2
      if s.recoveryHold then ({ s with module := { s.module with calWaiting := true } }, 0) else (s.calStart, 0)
  | _ => s.refuseCommand 1

/-- The action of state command 3: the drive is enabled, VBST starts; Sorting is reached once it regulates. -/
def actSort (s : State) : State × Nat :=
  match s.module.state with
  | .sorting => (s.keepCommand 3, 0)
  | .idle =>
    if s.readiness ≠ 255 then s.refuseCommand 3
    else
      let s := (s.keepCommand 3).vbstStart
      ({ s with drive := { s.drive with enabled := true }
                module := { s.module with sortAt := s.module.sortAt.or (some s.clk) } }, 0)
  | _ => s.refuseCommand 1

/-- STATE_IDLE (12 R340). -/
def execStateIdle (m : Master) (s : State) : Host.Outcome State Fault Refusal := .next (s.write m (obj 0x2001 2) (.num 1) actIdle)
/-- STATE_CALIBRATE (12 R339). -/
def execStateCalibrate (m : Master) (s : State) : Host.Outcome State Fault Refusal := .next (s.write m (obj 0x2001 2) (.num 2) actCalibrate)
/-- STATE_SORT (12 R340). -/
def execStateSort (m : Master) (s : State) : Host.Outcome State Fault Refusal := .next (s.write m (obj 0x2001 2) (.num 3) actSort)

/-- SORTING_REACHED (12 R340): VBST is in regulation; the tracker opens, loops that run while sorting enter warm-up. A Moored sequence in progress
comes first (log entry 179). -/
def execSortingReached (s : State) : Host.Outcome State Fault Refusal :=
  if s.module.sortAt.isSome && s.module.state = .idle && s.power.moorAt.isNone then
    let s := { s with
      module := { s.module with sortAt := none }
      drive := { s.drive with vbst := s.vbstSet, vbstAt := s.clk }
      tracker := { s.tracker with isOpen := true } }
    .next (s.enterState .sorting trigCommand)
  else .next s

/-- SORT_STOP_DONE (12 R340): the last record has retired, or 30 ms have passed; the drive empties its queues, running shots complete. -/
def execSortStopDone (s : State) : Host.Outcome State Fault Refusal :=
  match s.module.stopAt with
  | none => .next s
  | some t =>
    let s := if s.tracker.recs.isEmpty then s else s.atClk (t + 30 * msTicks)
    let s := { s with module := { s.module with stopAt := none }, drive := { s.drive with enabled := false } }
    .next (s.dropQueues.enterState .idle trigCommand)

/-- RESUME_SORTING (12 R341): command 3 by the module itself once readiness is complete. -/
def execResumeSorting (s : State) : Host.Outcome State Fault Refusal :=
  if s.module.resume && s.readiness = 255 then
    .next (actSort { s with module := { s.module with resume := false } }).1
  else .next s

/-- The action of a write of 0x2001:09 (12 R348). -/
def actPortsInUse (v : Nat) (s : State) : State × Nat :=
  let fitted : Nat := match s.variant with | .aeh2564 => 15 | .aeh1282 => 5
  if s.module.state ≠ .idle then (s, abortState)
  else if v ||| fitted ≠ fitted then (s, abortRange)
  else (s.putNat (obj 0x2001 9) v, 0)

/-! ### Restart and watchdog (12 R342 to R344) -/

/-- WATCHDOG_EXPIRY (12 R342): Recovery in the first-start watch, Fault on the third within 600 s, else a main-side restart. -/
def execWatchdogExpiry (s : State) : Host.Outcome State Fault Refusal :=
  if !s.module.mainUp then .next s
  else if s.update.watch.isSome then .next (s.enterRecovery 3)
  else
    let recent := s.clk :: s.module.watchdogs.filter (fun t => s.clk < t + 600 * secTicks)
    let s := { s with module := { s.module with watchdogs := if 3 ≤ recent.length then [] else recent } }
    let s := (s.bump (obj 0x2005 2)).raise 0x1012 0
    .next (if 3 ≤ recent.length then s.enterFault 0x1012 else s.beginRestart)

/-- The action of a write of 1 to 0x2005:01 (12 R337, R343): a main-side restart from every state but Moored. In Waking a restart in progress
begins anew, and a start from rails that are off goes on as it is. A shutdown is left by 0x2C01:01 alone (R343), and the power-fail
sequence runs to its end (log entry 24). -/
def actRestart (s : State) : State × Nat :=
  if s.module.state = .moored || s.power.shutAt.isSome || s.power.seqAt.isSome then s.refuseCommand 1
  else if s.module.mainUp || s.module.loader then (s.beginRestart, 0)
  else if s.power.state = 3 then ({ s with power := { s.power with kind := 2, startAt := s.clk } }, 0)
  else (s, 0)

/-- RESTART_COMMAND (12 R343). -/
def execRestartCommand (m : Master) (s : State) : Host.Outcome State Fault Refusal :=
  .next ((s.write m (obj 0x2005 1) (.num 1) actRestart).noteReset s)

end Sys2Proof.Machine
end

