-- ==== Sys2Proof/Machine/Strand.lean ====
section
/-!
DEFINITION. The Strand fabric (13): link states, HELLO, heartbeats, frames under replay and credits, transit, topology, the memory window, BULK and
mailboxes. TIME, FIRE, FERRY, EVENT and DICT messages have rows of their own in the chapters that use them.
-/
namespace Sys2Proof.Machine

/-! ### Modules lost (13 R366) -/

/-- What follows for the modules that were present before and are lost now (05 R171). -/
def State.noteLost (before s : State) : State :=
  ((before.topoTable.map (·.id)).filter (fun id => id != s.strand.id && !before.isLost id && s.isLost id)).foldl
    State.ferryTargetLost s

/-- A link goes DOWN, and modules are lost by it. -/
def State.dropLink (s : State) (l : Nat) : State := s.noteLost (s.linkDown l)

/-! ### Link states (13 R357 to R359) -/

/-- The port trains: HELLO goes out. -/
def State.train (s : State) (l : Nat) : State :=
  (s.setLink l { s.link l with state := .training, trainedAt := s.clk }).sendHello l

/-- SIGNAL_DETECT (13 R357). -/
def execSignalDetect (l : Link) (s : State) : Host.Outcome State Fault Refusal :=
  if !s.strandOn then .next s
  else
    let s := s.setLink l.val { s.link l.val with signal := true }
    if (s.link l.val).state = .down then .next (s.train l.val) else .next s

/-- RETRAIN_TIMER (13 R357): every 10 ms while DOWN. -/
def execRetrainTimer (l : Link) (s : State) : Host.Outcome State Fault Refusal :=
  if s.strandOn && (s.link l.val).state == .down then .next ((s.atClk ((s.link l.val).trainedAt + 10 * msTicks)).train l.val)
  else .next s

/-- The port that pairs with a port (13 R359). -/
def pairOf (l : Nat) : Nat := if l = portE then portW else if l = portW then portE else if l = portN then portS else portN

/-- The state that a HELLO gives a port: HOST for the one host link, TRAINING where another port is that, UP from the port that pairs with
this one, else CROSSED (13 R357, R359). -/
def State.helloState (s : State) (l : Nat) (h : Hello) : LinkState :=
  if h.host then (if [0, 1, 2, 3].any (fun k => k != l && (s.link k).state == .host) then .training else .host)
  else if h.port = Machine.pairOf l then .up
  else .crossed

/-- A port enters the state that a HELLO gives it. -/
def State.helloEnter (s : State) (l : Nat) (h : Hello) : State :=
  let c := s.link l
  let fresh : LinkSt := { signal := c.signal, trainedAt := c.trainedAt, hello := some h, lastBeat := s.clk, state := s.helloState l h }
  match s.helloState l h with
  | .host => (((s.setLink l fresh).sendHello l).raise 0xA008 l).refreshTopo
  | .up => (((s.setLink l fresh).sendHello l).raise 0xA001 l).learnId.refreshTopo
  | .crossed => ((s.setLink l fresh).raise 0xA003 l).learnId.refreshTopo
  | _ => (s.setLink l { fresh with hello := none }).learnId.refreshTopo

/-- HELLO (13 R357, R359, R361): a port goes UP, HOST or CROSSED; where it stays what it was, the far port's data are renewed. An open port whose
HELLO shows another far port than before is open no longer, and its frames are rerouted or dropped. That HELLO arrives implies block
lock (log entry 161). -/
def execHello (l : Link) (h : Hello) (s : State) : Host.Outcome State Fault Refusal :=
  let l := l.val
  let c := s.link l
  if !s.strandOn || c.state == .down then .next s
  else if s.helloState l h = c.state then
    if c.state = .training then .next s else .next (s.setLink l { c with hello := some h }).learnId.refreshTopo
  else if s.linkOpen l then
    let old := c.unacked.map (·.2) ++ c.queue
    .next (s.noteLost (State.rerouteAll old (s.helloEnter l h)))
  else .next (s.helloEnter l h)

/-- SYNC_HEADER_ERRORS (13 R358): 16 invalid sync headers within 64 blocks. -/
def execSyncHeaderErrors (l : Link) (s : State) : Host.Outcome State Fault Refusal :=
  if s.strandOn then .next (s.dropLink l.val) else .next s

/-- The control block types of 13 R351. -/
def blockTypes : List Nat := [0x1E, 0x78, 0xB4, 0x66, 0x33, 0x2D]

/-- UNKNOWN_CONTROL_BLOCK (13 R351, R358): any type but the six of the table. -/
def execUnknownControlBlock (l : Link) (type : Nat) (s : State) : Host.Outcome State Fault Refusal :=
  if s.strandOn && !(blockTypes.contains type) then .next (s.dropLink l.val) else .next s

/-! ### Heartbeats (13 R360, R366) -/

/-- The HEARTBEAT word (13 R360). -/
def State.beatWord (s : State) : Nat :=
  s.strand.id <<< 52 ||| s.module.state.code <<< 48 ||| s.time.state.code <<< 45 ||| (s.objLoad % 65536) <<< 16 ||| s.strand.beatSeq % 65536

/-- HEARTBEAT_SEND (13 R360): every 10 µs on every UP or HOST link. -/
def execHeartbeatSend (s : State) : Host.Outcome State Fault Refusal :=
  if !s.strandOn then .next s
  else
    let s := s.atClk (s.strand.beatAt + 10 * usTicks)
    let s := { s with strand := { s.strand with beatAt := s.clk, beatSeq := (s.strand.beatSeq + 1) % 65536 } }
    .next ([0, 1, 2, 3].foldl (fun s l => s.sendLocal l 7 1 [s.beatWord]) s)

/-- HEARTBEAT_RECEIVED (13 R360). -/
def execHeartbeatReceived (l : Link) (id state time load seq : Nat) (s : State) : Host.Outcome State Fault Refusal :=
  if s.strandOn && s.linkOpen l.val && decide (seq < 65536) then
    let c := s.link l.val
    let s := s.setLink l.val { c with
      lastBeat := s.clk, nbState := state, nbTime := time, nbLoad := load
      hello := c.hello.map (fun (h : Hello) => { h with id := id }) }
    .next s.refreshTopo
  else .next s

/-- HEARTBEAT_LOSS (13 R358, R360): 100 µs after the last one. -/
def execHeartbeatLoss (l : Link) (s : State) : Host.Outcome State Fault Refusal :=
  let l := l.val
  if s.strandOn && s.linkOpen l then
    let id := ((s.link l).hello.map (·.id)).getD 0xFFFF
    let s := s.atClk ((s.link l).lastBeat + 100 * usTicks)
    let s := (s.bump (obj (0x2210 + l) 6)).dropLink l
    let s := s.raise 0xA004 id
    .next (if s.isLost id then s else s.ferryTargetLost id)
  else .next s

/-! ### Frames on a link (13 R354 to R356) -/

/-- The highest link sequence received in order. -/
def LinkSt.highest (c : LinkSt) : Nat := (c.rxSeq + 255) % 256

/-- An ACK block; with the NAK bit it asks for replay (13 R351, R355). -/
def State.ack (s : State) (l : Nat) (nak : Bool) : State := s.emit (.block l 0x33 [(s.link l).highest, boolNat nak])

/-- Buffer freed: its credits are returned (13 R354). -/
def State.returnCredits (s : State) (l : Nat) (f : Frame) : State := s.emit (.block l 0x2D [f.hdr.vc, frameBlocks f.hdr])

/-- A NAK: the frames that follow are discarded until the first replayed one (13 R355). -/
def State.nakFrame (s : State) (l : Nat) : State := (s.setLink l { s.link l with nakSent := true }).ack l true

/-- The buffer of a VC at a receiver, in blocks (13 R354). -/
def vcBuffer (vc : Nat) : Nat := if vc ≤ 1 then 64 else 2048

/-- Blocks of a VC that stand in the buffer of a link: the frames in transit that came by it (13 R354). -/
def State.buffered (s : State) (l vc : Nat) : Nat :=
  sumN ((s.strand.transit.filter (fun x => x.1 == l && x.2.hdr.vc == vc)).map (fun x => frameBlocks x.2.hdr))

/-- The buffer of its VC has room for a frame. A sender keeps to its credits, so that it always has; a frame without room is discarded as one
that failed its CRC is (13 R354; log entry 162). -/
def State.hasRoom (s : State) (l : Nat) (f : Frame) : Bool := s.buffered l f.hdr.vc + frameBlocks f.hdr ≤ vcBuffer f.hdr.vc

/-- A good frame in order: kept for transit where it is for another module; a frame for this module or of the link goes to its own row. -/
def State.acceptFrame (s : State) (l : Nat) (f : Frame) : State :=
  let s := s.bump (obj (0x2210 + l) 2)
  if f.hdr.vc = 0 ∨ f.hdr.vc = 7 ∨ f.hdr.dest = s.strand.id then s.returnCredits l f
  else { s with strand := { s.strand with transit := s.strand.transit ++ [(l, f)] } }

/-- The frame one hop on. -/
def hopped (f : Frame) : Frame := { f with hdr := { f.hdr with hops := f.hdr.hops + 1 } }

/-- A transit frame may leave now, forwarded or dropped: its egress port holds credits for it, and nothing of its VC waits there. -/
def State.mayLeave (s : State) (f : Frame) : Bool :=
  if 127 ≤ f.hdr.hops + 1 then true
  else
    match s.route f.hdr with
    | .out l _ _ _ => (s.link l).canSend f.hdr && !(s.link l).queue.any (fun g => g.hdr.vc == f.hdr.vc)
    | _ => true

/-- Two frames of one VC leave by the same port, in the order in which they came (13 R370). -/
def State.sameWay (s : State) (f g : Frame) : Bool :=
  f.hdr.vc == g.hdr.vc
    && (match s.route f.hdr, s.route g.hdr with
      | .out l _ _ _, .out k _ _ _ => l == k
      | _, _ => false)

/-- The first of the frames in transit that may leave: none of its VC and its port came before it and still waits (13 R370). -/
def State.nextLeaving (s : State) : List (Nat × Frame) → List (Nat × Frame) → Option (Nat × Frame)
  | _, [] => none
  | before, x :: r =>
    if s.mayLeave x.2 && !before.any (fun y => s.sameWay y.2 x.2) then some x else State.nextLeaving s (x :: before) r

/-- The outgoing copy of a frame for another module that failed its CRC: forwarding began as its START block arrived, where the egress port held
credits for it, and the copy ends with the CRC inverted (13 R356). -/
def State.cutCopy (s : State) (f : Frame) : State :=
  if f.hdr.vc = 0 ∨ f.hdr.vc = 7 ∨ f.hdr.dest = s.strand.id ∨ 127 ≤ f.hdr.hops + 1
      ∨ s.strand.transit.any (fun x => s.sameWay x.2 f) = true then s
  else
    match s.route f.hdr with
    | .out .. => if s.mayLeave f then (s.routeOut { hopped f with inverted := true }).1 else s
    | _ => s

/-- FRAME_RECEIVED (13 R354 to R356): `seq` and `crc` are the link sequence and the CRC-32 of its END block. -/
def execFrameReceived (l : Link) (f : Frame) (seq : Nat) (crc : Nat) (s : State) : Host.Outcome State Fault Refusal :=
  let l := l.val
  let c := s.link l
  if !s.strandOn || !s.linkOpen l then .next s
  else if replayed f.hdr.vc then
    let ahead := (seq + 256 - c.rxSeq % 256) % 256
    match crcCheck f crc with
    | .wrong =>
      let s := s.bump (obj (0x2210 + l) 3)
      .next ((if c.nakSent && ahead != 0 then s else (s.nakFrame l).cutCopy f).returnCredits l f)
    | .inverted =>
      if ahead = 0 then
        .next ((((s.setLink l { c with rxSeq := (c.rxSeq + 1) % 256, nakSent := false }).ack l false).cutCopy f).returnCredits l f)
      else .next (s.returnCredits l f)
    | .right =>
      if ahead = 0 then
        if s.hasRoom l f then
          .next (((s.setLink l { c with rxSeq := (c.rxSeq + 1) % 256, nakSent := false }).ack l false).acceptFrame l f)
        else .next (s.nakFrame l)
      else if 128 ≤ ahead then .next ((s.ack l false).returnCredits l f)
      else .next ((if c.nakSent then s else s.nakFrame l).returnCredits l f)
  else
    match crcCheck f crc with
    | .right => .next (if s.hasRoom l f then s.acceptFrame l f else s.bump (obj (0x2210 + l) 5))
    | .wrong => .next ((((s.bump (obj (0x2210 + l) 3)).bump (obj (0x2210 + l) 5)).cutCopy f).returnCredits l f)
    | .inverted => .next ((s.cutCopy f).returnCredits l f)

/-- The frames left unacknowledged once a sequence is acknowledged. -/
def afterAck (seq : Nat) (l : List (Nat × Frame)) : List (Nat × Frame) :=
  if l.any (fun x => x.1 == seq) then (l.dropWhile (fun x => x.1 != seq)).drop 1 else l

/-- ACK_BLOCK (13 R355): frames are released; a NAK replays every frame left, and the fourth in a row takes the link down. -/
def execAckBlock (l : Link) (seq : Nat) (nak : Bool) (s : State) : Host.Outcome State Fault Refusal :=
  let l := l.val
  if !s.strandOn || !s.linkOpen l then .next s
  else
    let s := s.pump l
    let c := s.link l
    let left := afterAck seq c.unacked
    let released := left.length < c.unacked.length
    let naks := (if released then 0 else c.naks) + boolNat nak
    let again := if nak then left else c.replay.filter (fun x => left.contains x)
    let s := s.setLink l { c with unacked := left, replay := again, naks := if nak then naks else if released then 0 else c.naks }
    if nak ∧ 4 ≤ naks then .next (s.dropLink l)
    else .next ((if nak then s.bumpBy (obj (0x2210 + l) 4) left.length else s).pump l)

/-- CREDIT_BLOCK (13 R354). -/
def execCreditBlock (l : Link) (vc blocks : Nat) (s : State) : Host.Outcome State Fault Refusal :=
  let l := l.val
  if !s.strandOn || !s.linkOpen l then .next s
  else
    let s := s.pump l
    let c := s.link l
    .next ((s.setLink l { c with credits := c.credits.modify vc (fun n => min (vcBuffer vc) (n + blocks)) }).pump l)

/-! ### Transit (13 R356, R367 to R369) -/

/-- FRAME_FORWARD (13 R356, R367 to R370): the first transit frame that may leave. -/
def execFrameForward (s : State) : Host.Outcome State Fault Refusal :=
  if !s.strandOn then .next s
  else
    match s.nextLeaving [] s.strand.transit with
    | none => .next s
    | some (l, f) =>
      let s := { s with strand := { s.strand with transit := dropFirst (fun x => x == (l, f)) s.strand.transit } }
      let s := s.returnCredits l f
      if 127 ≤ f.hdr.hops + 1 then .next (s.bump (obj 0x2206 5)).noteDrop
      else
        match s.routeOut (hopped f) with
        | (s, true) => .next s.noteDrop
        | (s, false) => .next (s.bump (obj 0x2206 1))

/-! ### Topology (13 R364, R365) -/

/-- Two records of one ID with different serial numbers: the conflict flag, and event 0xA005 once (13 R365). -/
def State.noteConflict (s : State) (r : Topo) : State :=
  if r.id = s.strand.id ∧ r.serial ≠ (s.byteVal (obj 0x2000 3) ++ List.replicate 12 0#8).take 12 ∧ !s.strand.conflict then
    (({ s with strand := { s.strand with conflict := true, rival := r.serial } }).raise 0xA005 r.id).refreshTopo
  else s

/-- The other module of a conflict has taken a changed ID: the conflict ends (13 R365). -/
def State.endConflict (s : State) (r : Topo) : State :=
  if s.strand.conflict && r.serial == s.strand.rival then
    ({ s with strand := { s.strand with conflict := false, rival := [] } }).refreshTopo
  else s

/-- A record entered among those held, IDs rising. -/
def insertTopo (r : Topo) (t : Nat) : List (Topo × Nat) → List (Topo × Nat)
  | [] => [(r, t)]
  | x :: l => if r.id < x.1.id then (r, t) :: x :: l else if r.id = x.1.id then (r, t) :: l else x :: insertTopo r t l

/-- TOPO_RECORD (13 R364, R365): a higher sequence is stored and resent; the sequence held refreshes the record. -/
def execTopoRecord (l : Link) (r : Topo) (s : State) : Host.Outcome State Fault Refusal :=
  if !s.strandOn || !s.linkUp l.val then .next s
  else if r.id = s.strand.id then .next (s.noteConflict r)
  else
    let s := s.endConflict r
    let put : State := { s with strand := { s.strand with table := insertTopo r s.clk s.strand.table } }
    match s.strand.table.find? (fun x => x.1.id == r.id) with
    | none => .next (s.noteLost (put.sendTopo r (some l.val)))
    | some x =>
      if x.1.seq < r.seq then .next (s.noteLost (put.sendTopo r (some l.val)))
      else if x.1 = r then .next put
      else .next s

/-- TOPO_FLOOD (13 R364): every 1 s. -/
def execTopoFlood (s : State) : Host.Outcome State Fault Refusal :=
  if s.strandOn then .next (s.atClk (s.strand.floodAt + secTicks)).flood else .next s

/-- TOPO_EXPIRY (13 R364, R366): a record not refreshed for 3 s. -/
def execTopoExpiry (id : Nat) (s : State) : Host.Outcome State Fault Refusal :=
  match s.strand.table.find? (fun x => x.1.id == id) with
  | some (_, t) =>
    let s := s.atClk (t + 3 * secTicks)
    .next (s.noteLost { s with strand := { s.strand with table := s.strand.table.filter (fun x => x.1.id != id) } })
  | none => .next s

/-! ### The registers of the window (13 R381, 16 R452) -/

/-- Bits of a list of conditions, the first in bit 0. -/
def bitsOf (l : List Bool) : Nat := l.foldr (fun b n => boolNat b + 2 * n) 0

/-- A 64-bit register of the DMA part, by its offset; none where the window has none, or it belongs to the firmware (status 2). -/
def State.dmaRegister (s : State) (o : Nat) : Nat ⊕ Nat :=
  if o = 0 then .inr (16 ||| (Config.factory 0x2F0000 % 65536) <<< 16)
  else if o = 8 then
    .inr (bitsOf ((List.range 16).map (fun c => s.dma.fifo.contains c)) <<< 48 ||| boolNat (!s.dma.fifo.isEmpty) <<< 4 ||| s.dma.fifo.headD 0)
  else if o = 16 then .inr (bitsOf ((List.range 16).map (fun c => (s.chan c).pending)))
  else if 0x1800 ≤ o ∧ o < 0x2000 then
    let x := s.chan ((o - 0x1000) / 256)
    match o % 256 with
    | 0x00 => .inr x.next
    | 0x08 | 0x10 => .inr 0
    | 0x18 => .inr (x.cause <<< 24 ||| boolNat x.append <<< 8 ||| x.state.code)
    | 0x20 => .inr x.cur
    | 0x28 => .inr x.remain
    | 0x30 => .inr x.done
    | 0x38 => .inr (2 * boolNat x.pending + boolNat x.unmask)
    | _ => .inl 1
  else if 0x1000 ≤ o ∧ o < 0x1800 then .inl 2
  else .inl 1

/-- The mailbox of an offset in the Strand register block. -/
def State.mailbox (s : State) (m : Nat) : Mailbox := s.strand.mailboxes.getD m {}
def State.setMailbox (s : State) (m : Nat) (x : Mailbox) : State :=
  { s with strand := { s.strand with mailboxes := s.strand.mailboxes.set m x } }

/-- A 64-bit register of the Strand block (13 R381). -/
def State.strandRegister (s : State) (o : Nat) : Nat ⊕ Nat :=
  if o < 0x100 then
    let x := s.stream (o / 16)
    .inr (if o % 16 = 0 then x.base else boolNat x.enabled <<< 63 ||| x.dest)
  else if o = 0x100 then .inr s.bulkFree
  else if 0x1000 ≤ o ∧ o < 0x9000 then
    let x := s.mailbox ((o - 0x1000) / 0x2000)
    let r := (o - 0x1000) % 0x2000
    if r < 0x1000 then .inr (field x.data r 8)
    else if r = 0x1000 then .inr x.len
    else if r = 0x1008 then .inr 0
    else if r = 0x1010 then .inr (2 * boolNat x.busy + boolNat x.consumed)
    else .inl 1
  else .inl 1

/-- A register by its window address: its value, or a WIN status. -/
def State.register (s : State) (a : Nat) : Nat ⊕ Nat :=
  match placeOf a with
  | .dmaReg o => s.dmaRegister (o / 8 * 8)
  | .strandReg o => s.strandRegister (o / 8 * 8)
  | .ring t o => .inr (ofLe (s.ringRead t (o / 8 * 8) 8))
  | .port _ | .aperture _ _ => .inl 2
  | .ddr => .inr (ofLe (s.memRead (a / 8 * 8) 8))
  | .unmapped => .inl 1

/-- The bytes of `n` registers from an aligned address on. -/
def State.registers (s : State) (a : Nat) : Nat → (List Byte) ⊕ Nat
  | 0 => .inl []
  | n + 1 =>
    match s.register a with
    | .inl st => .inr st
    | .inr v =>
      match State.registers s (a + 8) n with
      | .inl r => .inl (leBytes 8 v ++ r)
      | .inr st => .inr st

/-- Bytes of the register blocks: the data or a status. -/
def State.registerBytes (s : State) (a n : Nat) : (List Byte) ⊕ Nat :=
  let first := a / 8 * 8
  match s.registers first ((a + n + 7) / 8 - a / 8) with
  | .inl d => .inl (slice d (a - first) n)
  | .inr st => .inr st

/-- Bytes of the window: the data or a status (13 R379, R380). The register blocks follow LPDDR4X, so a run of bytes may begin there and end in
a register. -/
def State.windowRead (s : State) (a n : Nat) : (List Byte) ⊕ Nat :=
  if inDdr a n then .inl (s.memRead a n)
  else if bulkBase ≤ a ∧ a + n ≤ bulkEnd then .inr 2
  else if strandBase + 0x10000 < a + n then .inr 1
  else if dmaBase ≤ a then s.registerBytes a n
  else
    match s.registerBytes dmaBase (a + n - dmaBase) with
    | .inl d => .inl (s.memRead a (dmaBase - a) ++ d)
    | .inr st => .inr st

/-! ### Streams and mailboxes (13 R381) -/

/-- A write of STREAM_BASE or STREAM_CFG: ignored while the stream is enabled. -/
def actStream (n : Nat) (cfg : Bool) (value : Nat) (s : State) : State × Nat :=
  let x := s.stream n
  if x.enabled then (s, 0)
  else if cfg then (s.setStream n { x with enabled := bitOf value 63, dest := value % 4096 }, 0)
  else (s.setStream n { x with base := value % 2 ^ 40 }, 0)

/-- STREAM_CFG_WRITE (13 R381). -/
def execStreamCfgWrite (stream : Fin 16) (cfg : Bool) (value : Nat) (s : State) : Host.Outcome State Fault Refusal :=
  if s.module.mainUp then .next (actStream stream.val cfg value s).1 else .next s

/-- A message of mailbox 0: bytes of an image (18 R481, R482). The message sequence is checked with the offset. -/
def State.stageMessage (s : State) (d : List Byte) : State :=
  let offset := field d 0 4
  let seq := field d 8 2
  if d.length < 17 then s
  else if s.update.st = 1 ∧ s.update.path = 2 ∧ seq ≠ s.update.message % 65536 then s.abortTransfer
  else if s.update.st ≠ 1 ∧ seq ≠ 0 then s
  else
    match s.stageBytes 2 offset (field d 4 4) (d.drop 16) with
    | (s, 0) => ({ s with update := { s.update with message := (seq + 1) % 65536 } }).fwRun 0 0 (d.length - 16)
    | (s, _) => s

/-- A mailbox message is handed over (13 R381): the supervisor takes it and sets consumed. -/
def actBell (m : Nat) (s : State) : State × Nat :=
  let x := s.mailbox m
  if x.busy then (s, 3)
  else
    let s := if m = 0 then s.stageMessage (x.data.take x.len) else s
    (s.setMailbox m { x with consumed := true }, 0)

/-- MBOX_BELL (13 R381). -/
def execMboxBell (m : Fin 4) (s : State) : Host.Outcome State Fault Refusal :=
  if s.module.mainUp || s.module.loader then .next (actBell m.val s).1 else .next s

/-! ### WIN and BULK (13 R379) -/

/-- A write of one register of the DMA part: a WIN status. -/
def State.writeDma (s : State) (o v : Nat) : State × Nat :=
  if 0x1800 ≤ o ∧ o < 0x2000 then
    let c := (o - 0x1000) / 256
    match o % 256 with
    | 0x00 => actChNext c v s
    | 0x08 =>
      let s := if bitOf v 1 then (s.dmaAbortFree c).settleFifo else s
      if bitOf v 0 then actChStart c false s else (s, 0)
    | 0x10 => actChAppend c false s
    | 0x38 => actChIrq c v s
    | 0x18 | 0x20 | 0x28 | 0x30 => (s, 2)
    | _ => (s, 1)
  else if 0x1000 ≤ o ∧ o < 0x1800 then (s, 2)
  else if o = 0 ∨ o = 8 ∨ o = 16 then (s, 2)
  else (s, 1)

/-- A write of one register of the Strand block. -/
def State.writeStrand (s : State) (o v : Nat) : State × Nat :=
  if o < 0x100 then actStream (o / 16) (o % 16 == 8) v s
  else if o = 0x100 then (s, 2)
  else if 0x1000 ≤ o ∧ o < 0x9000 then
    let m := (o - 0x1000) / 0x2000
    let r := (o - 0x1000) % 0x2000
    let x := s.mailbox m
    if r < 0x1000 then (s.setMailbox m { x with data := overlay (x.data ++ List.replicate (4096 - x.data.length) 0#8) r (leBytes 8 v) }, 0)
    else if r = 0x1000 then (s.setMailbox m { x with len := min 4096 (v % 8192), consumed := false }, 0)
    else if r = 0x1008 then (if v % 2 = 1 then actBell m s else (s, 0))
    else if r = 0x1010 then (s, 2)
    else (s, 1)
  else (s, 1)

/-- A write of one aligned register: a WIN status. -/
def State.writeRegister (s : State) (a v : Nat) : State × Nat :=
  match placeOf a with
  | .dmaReg o => s.writeDma o v
  | .strandReg o => s.writeStrand o v
  | .ring _ _ | .port _ | .aperture _ _ => (s, 2)
  | .ddr => (s, 0)
  | .unmapped => (s, 1)

/-- Registers written one after another; the first status that is not 0 ends it. -/
def State.writeRegisters : Nat → State → Nat → List Byte → State × Nat
  | 0, s, _, _ => (s, 0)
  | n + 1, s, a, d =>
    match s.writeRegister a (ofLe (d.take 8)) with
    | (s, 0) => State.writeRegisters n s (a + 8) (d.drop 8)
    | (s, st) => (s, st)

/-- A write of bytes of the register blocks: a WIN status. Registers of which only a part is written keep the rest as it reads. -/
def State.registerWrite (s : State) (a : Nat) (d : List Byte) : State × Nat :=
  let first := a / 8 * 8
  let k := (a + d.length + 7) / 8 - a / 8
  match s.registers first k with
  | .inr st => (s, st)
  | .inl old => State.writeRegisters k s first (overlay old (a - first) d)

/-- A write of window bytes: a WIN status; what lies in LPDDR4X is written before what lies in registers. -/
def State.windowWrite (s : State) (a : Nat) (d : List Byte) : State × Nat :=
  let n := d.length
  if inDdr a n then (s.memWrite a d, 0)
  else if bulkBase ≤ a ∧ a + n ≤ bulkEnd then (s, 2)
  else if strandBase + 0x10000 < a + n then (s, 1)
  else if dmaBase ≤ a then s.registerWrite a d
  else (s.memWrite a (d.take (dmaBase - a))).registerWrite dmaBase (d.drop (dmaBase - a))

/-- The header of a WIN message (13 R379). -/
def winHead (address txn len status : Nat) : List Nat := [address <<< 24 ||| (txn % 256) <<< 16, len <<< 32 ||| status]

/-- READ DATA frames of up to 8,160 bytes. -/
def State.sendReadData : Nat → State → Nat → Nat → Nat → List Byte → State
  | 0, s, _, _, _, _ => s
  | n + 1, s, src, txn, a, d =>
    let part := d.take 8160
    let s := s.post src 5 2 (winHead a txn part.length 0 ++ bytesToWords part)
    if d.length ≤ 8160 then s else State.sendReadData n s src txn (a + 8160) (d.drop 8160)

/-- WIN_READ (13 R379, R380): READ DATA, or refused and counted. -/
def execWinRead (src txn address len : Nat) (s : State) : Host.Outcome State Fault Refusal :=
  if !s.module.mainUp then .next s
  else
    match s.windowRead address len with
    | .inl d => .next ((s.bump (obj 0x2206 9)).sendReadData (d.length / 8160 + 1) src txn address d)
    | .inr st => .next ((s.bump (obj 0x2206 0x0A)).post src 5 2 (winHead address txn 0 st))

/-- WIN_WRITE (13 R379 to R381): WRITE ACK with its status. -/
def execWinWrite (src txn address : Nat) (data : List Byte) (s : State) : Host.Outcome State Fault Refusal :=
  if !s.module.mainUp then .next s
  else
    match s.windowWrite address data with
    | (s, st) => .next ((s.bump (obj 0x2206 (if st = 0 then 9 else 0x0A))).post src 5 3 (winHead address txn data.length st))

/-- BULK_FRAME (13 R379): bytes addressed within DDR are written, the others discarded; both are counted. -/
def execBulkFrame (src stream seq : Nat) (last : Bool) (address : Nat) (data : List Byte) (s : State) : Host.Outcome State Fault Refusal :=
  if !s.module.mainUp || src ≥ 4096 || stream ≥ 16 || seq ≥ 256 || (last && data.isEmpty) then .next s
  else
    let inside := data.take (ddrEnd - address)
    .next (((s.memWrite address inside).bumpBy (obj 0x2206 0x0B) inside.length).bumpBy (obj 0x2206 0x0C) (data.length - inside.length))

end Sys2Proof.Machine
end

