-- ==== Sys2Proof/Machine/Time.lean ====
section
/-!
DEFINITION. Clock root, timebase and fabric time (02 R34 to R62, R519; 13 R372).
-/
namespace Sys2Proof.Machine

def State.setTime (s : State) (t : TimeSt) : State := { s with time := t }

/-! ### Counter steps and slews (02 R40, R41) -/

/-- A step is allowed: not Sorting, and no shot is queued (02 R40). -/
def State.stepAllowed (s : State) : Bool :=
  s.module.state != .sorting && s.drive.valves.all (fun (x : ValveSt) => x.queue.isEmpty)

/-- The first tick after `t` at which SYNC_OUT pulses by the period and phase written (02 R59). -/
def State.syncOutAfter (s : State) (t : Nat) : Nat :=
  let period := max 1 (s.nat (obj 0x2105 2))
  let phase := s.nat (obj 0x2105 3)
  if t < phase then phase - (phase - 1 - t) / period * period else phase + ((t - phase) / period + 1) * period

/-- SYNC_OUT's next edge is looked up anew: mode 1 has one, the other modes none. -/
def State.restartSyncOut (s : State) : State :=
  s.setTime { s.time with syncOut := if s.nat (obj 0x2105 1) = 1 then some (s.syncOutAfter s.tick) else none }

/-- A write of the SYNC_OUT mode, 0x2105:01 (02 R59). -/
def actSyncOutMode (v : Nat) (s : State) : State × Nat := ((s.putNat (obj 0x2105 1) v).restartSyncOut.settleSyncOut, 0)

/-- A tick after the counter has stepped by `d`. -/
def shiftTick (d : Int) (t : Nat) : Nat := ((t : Int) + d).toNat

/-- What a sequencer does, its ticks moved by `d`. -/
def SeqBusy.shift (d : Int) : SeqBusy → SeqBusy
  | .none => .none
  | .boostWait first since level => .boostWait first (shiftTick d since) level
  | .hold timed => .hold (timed.map (shiftTick d))
  | .wait t => .wait (shiftTick d t)
  | .waiti cond threshold continues deadline => .waiti cond threshold continues (shiftTick d deadline)

/-- A sequencer whose ticks have moved by `d`: every duration that runs keeps its length (02 R56). -/
def Seq.shift (d : Int) (q : Seq) : Seq :=
  { q with
    issueAt := shiftTick d q.issueAt, boostAt := shiftTick d q.boostAt, boostEnd := shiftTick d q.boostEnd, tOff := q.tOff.map (shiftTick d), busy := q.busy.shift d
    window := q.window.map (fun (w : KinkWindow) => { w with opens := shiftTick d w.opens, closes := shiftTick d w.closes }) }

/-- A running shot whose ticks have moved by `d`. -/
def Shot.shift (d : Int) (x : Shot) : Shot :=
  { x with
    start := shiftTick d x.start, shotEnd := shiftTick d x.shotEnd, cutFrom := shiftTick d x.cutFrom
    req := { x.req with sched := shiftTick d x.req.sched, ta := shiftTick d x.req.ta, shotEnd := shiftTick d x.req.shotEnd } }

/-- Running shots and the boost requests that wait keep their durations through a step of the counter by `d` (02 R56). -/
def State.shiftShots (s : State) (d : Int) : State :=
  { s with
    seqs := { s.seqs with seqs := s.seqs.seqs.map (Seq.shift d) }
    drive := { s.drive with
      valves := s.drive.valves.map (fun (x : ValveSt) => { x with run := x.run.map (Shot.shift d) })
      groups := s.drive.groups.map (fun (g : GroupSt) => { g with waiting := g.waiting.map (fun w => (shiftTick d w.1, w.2)) }) } }

/-- The counter is loaded with a new value (02 R40): line triggers, loops and SYNC_OUT restart on their grids, a pulse and the shots in
progress keep their lengths; counted, event 0xF007. -/
def State.stepCounter (s : State) (by_ : Int) : State :=
  let s := s.camerasBeforeStep.shiftShots by_
  let s := s.setTime { s.time with
    counter := ((s.time.counter : Int) + by_).toNat % 2 ^ 64, good := 0, syncOutEnd := s.time.syncOutEnd.map (shiftTick by_) }
  (s.camerasAfterStep.loopsAfterStep.restartSyncOut.bump (obj 0x2107 1)).raise 0xF007 0

/-- The servo's word (02 R45): a free value within ±10 ppm, since its gains are not given. -/
def State.servo (s : State) : State :=
  match s.draw with
  | (n, s) => s.setTime { s.time with corr := clampI (-10000) 10000 (Config.servoWord n) }

/-! ### Time states (02 R46) -/

/-- Time spent in LOCKED so far, over every stay in it (02 R53). -/
def State.lockedTime (s : State) : Nat :=
  s.time.lockedSum + (if s.time.state = .locked then s.clk - s.time.lockedAt else 0)

/-- Enter a time state: the stay in LOCKED that ends is added up, and SYNC_OUT follows the state (02 R53, R59). -/
def State.enterTime (s : State) (st : TimeState) : State :=
  (s.setTime { s.time with state := st, lockedSum := s.lockedTime, lockedAt := if st = .locked then s.clk else s.time.lockedAt }).settleSyncOut

/-- LOCKED or SLACK is lost for ACQUIRING by the unlock threshold: event 0xF002, counted (02 R46, R519). The first exchange of R47 is
then the one after the exchange that unlocked, whose offset the servo has already taken (log entry 115). -/
def State.unlock (s : State) : State :=
  (((s.setTime { s.time with first := true, good := 0 }).enterTime .acquiring).bump (obj 0x2107 2)).raise 0xF002 0

/-- LOCKED is reached (02 R46). -/
def State.lock (s : State) : State := (s.enterTime .locked).raise 0xF001 0

/-- The learned frequency: the mean word of the last 8 s of LOCKED operation (02 R53). -/
def TimeSt.mean (t : TimeSt) : Int :=
  if t.words.isEmpty then t.corr else roundQ ((sumI (t.words.map (·.2)) : ℚ) / t.words.length)

/-- Slack water is entered: the learned frequency, or the word last applied, is held (02 R46, R53). -/
def State.enterSlack (s : State) : State :=
  (((s.setTime { s.time with
      slackAt := s.clk, good := 0
      corr := if s.time.learned then s.time.mean else s.time.corr }).enterTime .slack).bump (obj 0x2107 3)).raise 0xF003 0

/-! ### Grandmaster and upstream (02 R45, R49 to R52) -/

/-- Links in the order of ties (02 R45). -/
def upstreamOrder : List Nat := [portW, portN, portE, portS]

/-- The links on which the current grandmaster was announced within the last 4 sync intervals. -/
def State.freshLinks (s : State) : List (Nat × Heard) :=
  upstreamOrder.filterMap (fun l =>
    match s.time.heard.getD l none with
    | some h => if s.linkUp l && some h.gm == s.time.gm && s.clk - h.at_ ≤ 4 * s.time.interval then some (l, h) else none
    | none => none)

/-- The port with the fewest hops, the first of its order among equals (02 R45). -/
def fewestHops : List (Nat × Heard) → Option (Nat × Heard)
  | [] => none
  | x :: r =>
    match fewestHops r with
    | some y => if y.2.hops < x.2.hops then some y else some x
    | none => some x

/-- `a` is preferred to `b`: a designated candidate beats any other, otherwise the lower ID (13 R372). -/
def Candidate.beats (a b : Candidate) : Bool := if a.designated = b.designated then a.id < b.id else a.designated

/-- What is known of a module as a candidate. -/
def State.candidate (s : State) (id : Nat) : Candidate :=
  { id := id
    designated := id == s.time.designated || (match s.time.best with | some c => c.designated && c.id == id | none => false)
    hops := min 255 ((s.distance id).getD 255) }

/-- The better of two candidates. -/
def betterOf (a b : Option Candidate) : Option Candidate :=
  match a, b with
  | some x, some y => if x.beats y then a else b
  | some _, none => a
  | none, _ => b

/-- The best candidate known: the module itself unless it is provisional or conflicted, the designated module where the links reach it, its
record being what is heard of it (log entry 158), and the best heard (02 R49, 13 R372). -/
def State.bestCandidate (s : State) : Option Candidate :=
  let own : Option Candidate := if s.fabricBarred then none else some (s.candidate s.strand.id)
  let named : Option Candidate :=
    if s.time.designated ≠ s.strand.id && (s.distance s.time.designated).isSome && s.time.lost != some s.time.designated then some (s.candidate s.time.designated) else none
  betterOf (betterOf own named) s.time.best

/-- The module is the grandmaster of 02 R49: no better candidate is known, and no reachable module that may name itself has a lower ID unless
this one is designated. The grandmaster that fell silent counts for nothing, nor does a module that no chain of links reaches, though its
record has yet to expire (02 R50). -/
def State.isBest (s : State) : Bool :=
  match s.bestCandidate with
  | some c =>
    c.id == s.strand.id && !s.fabricBarred
      && (c.designated || s.topoTable.all (fun r => r.provisional || r.conflict || s.strand.id ≤ r.id || s.time.lost == some r.id || (s.distance r.id).isNone))
  | none => false

/-- Another module than the grandmaster is designated, and the links reach it: its ANNOUNCE is still to be passed on (02 R52, 13 R372). -/
def State.designatedDue (s : State) : Bool :=
  match s.bestCandidate with
  | some c => c.designated && s.time.gm != some c.id && (s.distance c.id).isSome
  | none => false

/-- Choose the upstream port (02 R45, R50): an election ends where one is found, but for one that a designated module is to win (02 R52). -/
def State.pickUpstream (s : State) : State :=
  if s.time.state = .grandmaster then s
  else
    match fewestHops s.freshLinks with
    | some (l, h) =>
      s.setTime { s.time with
        upstream := some l, hops := some (min 254 (h.hops + 1)), electAt := none
        electing := s.time.electing && s.designatedDue, best := if s.designatedDue then s.time.best else none }
    | none => s.setTime { s.time with upstream := none, hops := none }

/-- The grandmaster is named: another one than before is counted, event 0xF004 (02 R60). -/
def State.nameGrandmaster (s : State) (id : Nat) : State :=
  let old := s.time.gm
  let s := s.setTime { s.time with gm := some id }
  match old with
  | some g => if g = id then s else (s.bump (obj 0x2107 4)).raise 0xF004 id
  | none => s

/-- Elected grandmaster: the held-over counter is kept (02 R46, R51). -/
def State.becomeGrandmaster (s : State) : State :=
  ((s.setTime { s.time with
    upstream := none, hops := some 0, electAt := none, electing := false, best := none
    first := false, good := 0 }).enterTime .grandmaster).nameGrandmaster s.strand.id

/-- Another module is the grandmaster: a grandmaster that loses its role acquires by R47, which lets it step its counter where R40 allows a
step (02 R46, R51; log entry 159). -/
def State.followGrandmaster (s : State) (id : Nat) : State :=
  let s := s.nameGrandmaster id
  if s.time.state = .grandmaster then
    (s.setTime { s.time with first := true, good := 0, hops := none, upstream := none }).enterTime .acquiring
  else s

/-- A TIME message on every UP link but one. -/
def State.sendTime (s : State) (type : Nat) (except : Option Nat) (words : Nat → List Nat) : State :=
  [0, 1, 2, 3].foldl (fun s l => if s.linkUp l && except != some l then s.sendLocal l 0 type (words l) else s) s

/-- ANNOUNCE on every UP link (13 R372). -/
def State.sendAnnounce (s : State) : State :=
  match s.bestCandidate with
  | some c => s.sendTime 3 none (fun _ => [(c.id % 4096) <<< 52 ||| boolNat c.designated <<< 51 ||| (c.hops % 256) <<< 43])
  | none => s

/-- An election takes its course: the module announces the best it knows, and becomes grandmaster where that is itself. -/
def State.runElection (s : State) : State :=
  if !s.time.electing then s
  else if s.isBest then s.sendAnnounce.becomeGrandmaster
  else if s.time.gm = s.bestCandidate.map (·.id) && s.time.upstream.isSome then
    s.setTime { s.time with electing := false, best := none }
  else s.sendAnnounce

/-! ### The rows -/

/-- TIME SYNC on the links where this module is the near end: all but its upstream, once it knows its hops (02 R42, R45, R49). -/
def State.sendSync (s : State) : State :=
  match s.time.hops, s.time.gm with
  | some h, some g =>
    let seq := (s.time.seq + 1) % 65536
    let s := s.setTime { s.time with seq := seq }
    s.sendTime 0 s.time.upstream (fun _ => [s.tick, (g % 4096) <<< 50 ||| (h % 256) <<< 42 ||| seq <<< 26])
  | _, _ => s

/-- A LOCKED module that R49 names, under a grandmaster that it does not, takes the role over; R49 gives no instant, and the module does
so at the first sync interval in LOCKED (log entry 116). -/
def State.claimRole (s : State) : State :=
  if s.time.state = .locked ∧ s.isBest ∧ s.time.gm ≠ some s.strand.id then s.sendAnnounce.becomeGrandmaster else s

/-- SYNC_INTERVAL (02 R42, R49, R52, R62): a new designated grandmaster takes effect, an election takes its course, TIME SYNC goes out; the
next interval has the length written. -/
def execSyncInterval (s : State) : Host.Outcome State Fault Refusal :=
  if !s.module.mainUp then .next s
  else
    let s := s.atClk s.time.syncAt
    let interval := s.nat (obj 0x2101 5) * usTicks
    let s := s.setTime { s.time with interval := interval, syncAt := s.clk + interval }
    let named := s.nat (obj 0x2101 1)
    let s := if named = s.time.designated then s else s.setTime { s.time with designated := named, electing := true, best := none }
    .next s.runElection.claimRole.sendSync

/-- TIME_SYNC (02 R42, R49 to R51): stamped and answered; the grandmaster it names is taken where 02 R49 prefers it, and the upstream
port chosen anew. `t1` and the stamps are in quarter ticks, `phase` the quarter within the tick of arrival, `turnaround` t3 − t2. -/
def execTimeSync (link : Link) (t1 gm hops seq phase turnaround : Nat) (s : State) : Host.Outcome State Fault Refusal :=
  let l := link.val
  if !s.module.mainUp || !s.linkUp l then .next s
  else
    let t2 := 4 * s.tick + phase % 4
    let s := s.setTime { s.time with far := s.time.far.set l (some ⟨seq, t1, t2, t2 + turnaround⟩) }
    let s := s.sendLocal l 0 1 [(seq % 65536) <<< 48]
    let takes :=
      match s.time.gm with
      | none => true
      | some g =>
        g == gm || (s.candidate gm).beats (s.candidate g) || (s.topoOf g).isNone || s.time.lost == some g
          || (s.time.upstream == some l && !(s.candidate g).designated)
    if gm = s.strand.id || !takes then .next s
    else
      let s := if s.time.gm = some gm then s else s.followGrandmaster gm
      .next (s.setTime { s.time with
        heard := s.time.heard.set l (some ⟨s.clk, gm, hops⟩), lost := if s.time.lost = some gm then none else s.time.lost }).pickUpstream

/-- TIME_REPLY (02 R42): the near end stamps t4 and returns it in TIME FOLLOW. -/
def execTimeReply (link : Link) (seq phase : Nat) (s : State) : Host.Outcome State Fault Refusal :=
  if s.module.mainUp && s.linkUp link.val then
    .next (s.sendLocal link.val 0 2 [s.tick, (phase % 4) <<< 62 ||| (seq % 65536) <<< 26])
  else .next s

/-- The quantities of 02 R43 in ps, exactly: delay and offset. -/
def exchangeDelay (e : Exchange) (t4 : Nat) : ℚ :=
  (((t4 : Int) - e.t1 - ((e.t3 : Int) - e.t2) : Int) : ℚ) / 2 * (625 / 2)
def exchangeOffset (e : Exchange) (t4 : Nat) (a : Int) : ℚ :=
  (((e.t2 : Int) - e.t1 - ((t4 : Int) - e.t3) : Int) : ℚ) / 2 * (625 / 2) - (a : ℚ) / 2

/-- The frequency word after an exchange (02 R45, R47): the full pull in ACQUIRING from 1 µs upwards, else the servo's. -/
def State.steer (s : State) (offset : ℚ) : State :=
  if s.time.state = .acquiring ∧ 1000000 ≤ |offset| then
    s.setTime { s.time with corr := if 0 < offset then -10000 else 10000 }
  else s.servo

/-- The word of a LOCKED exchange enters the mean of the last 8 s (02 R53). -/
def State.learnWord (s : State) : State :=
  if s.time.state = .locked then
    s.setTime { s.time with
      words := (s.time.words.filter (fun w => s.lockedTime ≤ w.1 + 8 * secTicks)) ++ [(s.lockedTime, s.time.corr)] }
  else s

/-- An exchange against the upstream port (02 R45 to R47, R519). -/
def State.takeExchange (s : State) (offset : ℚ) : State :=
  let lock : ℚ := s.nat (obj 0x2101 3)
  let unlock : ℚ := s.nat (obj 0x2101 4) * 1000
  let s := s.setTime { s.time with theta := clampI (-(2 ^ 31)) (2 ^ 31 - 1) (roundQ offset) }
  let s := if s.time.state = .free then (s.setTime { s.time with first := true, good := 0 }).enterTime .acquiring else s
  if (s.time.state = .locked ∨ s.time.state = .slack) ∧ unlock < |offset| then (s.unlock).steer offset
  else
    let first := s.time.state = .acquiring ∧ s.time.first
    let s := if first then s.setTime { s.time with first := false } else s
    if first ∧ lock < |offset| ∧ s.stepAllowed then s.stepCounter (-(roundQ (offset / 1250)))
    else
      let s := s.setTime { s.time with good := if |offset| ≤ lock then s.time.good + 1 else 0 }
      let s := s.steer offset
      let s := if (s.time.state = .acquiring ∨ s.time.state = .slack) ∧ 16 ≤ s.time.good then s.lock else s
      s.learnWord

/-- TIME_FOLLOW (02 R43): the delay of the link, and on the upstream port the exchange. -/
def execTimeFollow (link : Link) (t4 seq : Nat) (s : State) : Host.Outcome State Fault Refusal :=
  let l := link.val
  if !s.module.mainUp then .next s
  else
    match s.time.far.getD l none with
    | some e =>
      if e.seq ≠ seq then .next s
      else
        let s := s.setTime { s.time with
          far := s.time.far.set l none
          delays := s.time.delays.set l (min max32 (roundN (exchangeDelay e t4))) }
        if s.time.upstream = some l ∧ s.time.state ≠ .grandmaster then
          .next (s.takeExchange (exchangeOffset e t4 (s.int (obj 0x2102 (l + 1)))))
        else .next s
    | none => .next s

/-- UPSTREAM_TIMEOUT (02 R50): 4 sync intervals after the last TIME SYNC of the upstream port. -/
def execUpstreamTimeout (s : State) : Host.Outcome State Fault Refusal :=
  match s.time.upstream with
  | some l =>
    let last := match s.time.heard.getD l none with | some h => h.at_ | none => s.clk
    let s := s.atClk (last + 4 * s.time.interval)
    let s := s.setTime { s.time with heard := s.time.heard.set l none }
    let s := if s.time.state = .locked then s.enterSlack else s
    let s := s.pickUpstream
    if s.time.upstream.isNone then .next (s.setTime { s.time with electAt := some (s.clk + 4 * msTicks), best := none })
    else .next s
  | none => .next s

/-- ELECTION_TIMEOUT (02 R50): 4 ms with no port announcing the grandmaster; the module announces itself and the election runs. -/
def execElectionTimeout (s : State) : Host.Outcome State Fault Refusal :=
  match s.time.electAt with
  | some t =>
    if s.module.mainUp then
      let s := s.atClk t
      .next (s.setTime { s.time with electAt := none, electing := true, lost := s.time.gm }).runElection
    else .next s
  | none => .next s

/-- ANNOUNCE (13 R372, 02 R50): the best candidate is updated; a designated candidate is passed on, and one that is this module makes it
grandmaster. -/
def execAnnounce (link : Link) (candidate : Nat) (designated : Bool) (hops : Nat) (s : State) : Host.Outcome State Fault Refusal :=
  if !s.module.mainUp || !s.linkUp link.val then .next s
  else
    let c : Candidate := ⟨candidate, designated, min 255 (hops + 1)⟩
    let s := s.setTime { s.time with
      best := betterOf (some c) s.time.best, lost := if hops = 0 ∧ s.time.lost = some candidate then none else s.time.lost }
    if designated && candidate == s.strand.id then
      if s.fabricBarred || s.time.state == .grandmaster then .next s else .next s.becomeGrandmaster
    else if designated && s.time.gm != some candidate then .next (s.setTime { s.time with electing := true })
    else .next s

/-- HOLDOVER_LIMIT (02 R54): 60 s after the entry to SLACK. -/
def execHoldoverLimit (s : State) : Host.Outcome State Fault Refusal :=
  if s.time.state = .slack then
    let s := s.atClk (s.time.slackAt + 60 * secTicks)
    .next (((s.setTime { s.time with first := true, good := 0, upstream := none, hops := none }).enterTime .acquiring).raise 0xF005 0)
  else .next s

/-- LEARNED_FREQUENCY_VALID (02 R53): 10 s after LOCKED was reached. -/
def execLearnedFrequencyValid (s : State) : Host.Outcome State Fault Refusal :=
  if s.time.state = .locked then
    let s := s.atClk (s.time.lockedAt + 10 * secTicks)
    .next (s.setTime { s.time with learned := true })
  else .next s

/-- ROOT_PLL_LOCK_LOST (02 R35): event 0xF006 at S3, Fault with the valves closed. -/
def execRootPllLockLost (s : State) : Host.Outcome State Fault Refusal :=
  if s.module.mainUp then
    .next (((s.setTime { s.time with pllLocked := false }).raise 0xF006 0).enterFault 0xF006)
  else .next s

/-- SYNC_IN_EDGE (02 R58, R59): an active edge is captured; in mode 2 on the grandmaster it disciplines the frequency where its interval
lies within 1 µs of the expected one, and is else rejected; a rejected edge still is the base of the next interval (log entry 117). In SYNC_OUT
mode 2 the level is repeated. -/
def execSyncInEdge (rising : Bool) (phase : Nat) (s : State) : Host.Outcome State Fault Refusal :=
  let s := s.setTime { s.time with syncInHigh := rising }
  if !s.module.mainUp then .next s
  else
    let s := s.settleSyncOut
    let mode := s.nat (obj 0x2104 1)
    if mode = 0 || rising != (s.nat (obj 0x2104 2) == 0) then .next s
    else
      let now := 4 * s.tick + phase % 4
      let before := s.time.syncIn
      let s := (s.setTime { s.time with syncIn := some now }).putNat (obj 0x2104 4) s.tick
      let s := s.bump (obj 0x2104 5)
      match before with
      | some b =>
        if mode = 2 ∧ s.time.state = .grandmaster then
          if ((now : Int) - b - 4 * s.nat (obj 0x2104 3)).natAbs ≤ 3200 then .next s.servo
          else .next (s.bump (obj 0x2104 6))
        else .next s
      | none => .next s

/-- SYNC_OUT_PULSE (02 R59, R62): the due edge; period, phase and width written before it act from it on. -/
def execSyncOutPulse (s : State) : Host.Outcome State Fault Refusal :=
  match s.time.syncOut with
  | some t =>
    if !s.module.mainUp then .next s
    else
      let s := s.atTick t
      let width := s.nat (obj 0x2105 4)
      let s := if s.syncOutHeld then s else [0, 1, 2, 3].foldl (State.pulseCc · 5 t width ·) (s.emit (.syncOut t width))
      .next (s.setTime { s.time with
        syncOut := some (s.syncOutAfter t), syncOutEnd := if s.syncOutHeld then s.time.syncOutEnd else some (t + s.nat (obj 0x2105 4)) })
  | none => .next s

end Sys2Proof.Machine
end

