-- ==== Sys2Proof/Machine/Flags.lean ====
section
/-!
DEFINITION. Every status, flag and measured value that the dictionary computes from the block's state when it is read, chapter by chapter,
and the read of an object (14 R386 to R393).
-/
namespace Sys2Proof.Machine

/-! ### Helpers -/

/-- A number as the value of an object. -/
def shownN (n : Nat) : Option Val := some (.num n)
def shownI (v : Int) : Option Val := some (.num v)
def shownB (b : Bool) : Option Val := some (.num (boolNat b))
def shownD (d : List Byte) : Option Val := some (.bytes d)
/-- A rational in a REAL32. -/
def shownR (q : ℚ) : Option Val := some (.num (r32Of q))

/-- Tenths of a degree in an INTEGER16. -/
def tenths (q : ℚ) : Int := clampI (-32768) 32767 (roundQ (q * 10))

/-- A rational, not negative, rounded and held to a maximum. -/
def capQ (m : Nat) (q : ℚ) : Nat := min m (roundN (max 0 q))

/-- The valve of an entry of a per-valve pair of arrays (14 R390). -/
def valveOf (index sub : Nat) : Nat := 128 * (index % 2) + (sub - 1)

/-! ### Time, cameras, engines (02, 03, 04) -/

def State.shownTime (s : State) (index sub : Nat) : Option Val :=
  let t := s.time
  match index, sub with
  | 0x2100, 1 => shownN t.state.code
  | 0x2100, 2 => shownN t.counter
  | 0x2100, 3 => shownN (t.gm.getD 0)
  | 0x2100, 4 => shownN (t.hops.getD 0)
  | 0x2100, 5 => shownN (t.upstream.getD 0xFF)
  | 0x2100, 6 => shownI t.theta
  | 0x2100, 7 => shownB t.learned
  | 0x2100, 8 => shownI t.corr
  | 0x2100, 9 => shownN (if t.state = .slack then min max32 ((s.clk - t.slackAt) / msTicks) else 0)
  | 0x2103, n => shownN (t.delays.getD (n - 1) 0)
  | _, _ => none

/-- Objects of a camera port (03 R96); `p` is the port, `r` the index less the port's base. Sub 3 is the oldest open frame (log entry 165). -/
def State.shownPort (s : State) (p r sub : Nat) : Option Val :=
  let c := s.cam p
  match r, sub with
  | 0, 1 => shownN (match c.state with | .off => 0 | .idle => 1 | .starting => 2 | .streaming => 3 | .lost => 4)
  | 0, 2 => shownN c.clockKHz
  | 0, 3 => shownN (((c.frames.head?).map (·.number)).getD c.nextFrame)
  | 0, 4 => shownN c.lastGen
  | 0, 6 => shownN c.pocl
  | 0, 7 => shownN (if c.pocl = 2 then Config.measured (obj (0x2300 + 16 * p) 7) s.freeCtr % 1001 else 0)
  | 5, 2 => shownN c.queue.length
  | 5, 4 => shownD c.rx
  | _, _ => none

/-- A context table while nothing has been written to it: its default (04 R139). -/
def State.tableDefault (s : State) (p sub : Nat) : List Byte :=
  let w := s.widthOf p
  let c := formatChannels (s.formatOf p)
  let each : Nat → List Byte → List Byte := fun n b => (List.replicate n b).flatten
  match sub with
  | 1 | 3 => List.replicate (2 * w * c) 0#8
  | 2 => each (w * c) (leBytes 2 16384)
  | 4 => if p < 2 then each (w / 64) (leBytes 2 256 ++ leBytes 2 256) else List.replicate 4 16#8 ++ leBytes 2 512 ++ leBytes 2 0
  | 5 => ((List.range 16).map (fun i => leBytes 2 (if i % 5 = 0 then 4096 else 0))).flatten ++ List.replicate 8 0#8
  | _ => each 4 (((List.range 7).map (fun k => leBytes 2 (512 * (k + 1)))).flatten)

/-- Lane-map defaults c0 to c3 (04 R139): −8, 272 / W, 0, 0. -/
def State.laneDefault (s : State) (p i : Nat) : Nat :=
  match i with
  | 0 => 0xC1000000
  | 1 => r32Of ((272 : ℚ) / s.widthOf p)
  | _ => 0

/-- The backdrop reference of a port as it has drifted, while the engine works with the table in force (04 R133). -/
def State.trackedRef (s : State) (p : Nat) : Option (List Byte) :=
  let e := s.engine p
  if e.refVer = s.pipe.refVer.getD p 0 ∧ !e.ref.isEmpty ∧ e.ref.length = s.widthOf p then some (refBytes e.ref) else none

def State.shownEngines (s : State) (index sub : Nat) : Option Val :=
  let span := 100 * msTicks
  match index, sub with
  | 0x2400, 1 => shownN (s.load span s.pipe.fixBusy)
  | 0x2404, 6 => shownN s.pipe.captureStatus
  | 0x2404, 7 => shownN s.pipe.captureCause
  | 0x2405, 1 => shownN (s.load span s.pipe.frameBusy)
  | 0x2405, 2 => shownN s.objLoad
  | 0x2405, 3 => shownN s.pipe.objQueue.length
  | 0x2405, 4 => shownN s.pipe.chipQueue.length
  | 0x2405, 5 => shownN (s.busyBuffers 2)
  | 0x2405, 6 => shownN (s.busyBuffers 3)
  | 0x2407, n => if 3 ≤ n ∧ n ≤ 6 then shownD (s.engine (n - 3)).latest else none
  | 0x2500, 1 => shownN s.pipe.active
  | 0x2500, 3 => shownB (s.pipe.swapPending || s.oldBankInUse)
  | 0x2503, n => shownD ((slice s.activeImage (0x40 + 32 * (n - 1)) 24).takeWhile (· != 0#8))
  | 0x2504, n => shownN (boolNat (s.ejectFlag (n - 1) == 1))
  | 0x2505, n => shownN (s.ejectThreshold (n - 1))
  | _, _ =>
    if index = 0x2501 ∨ index = 0x2502 then
      let b := s.pipe.banks.getD (index - 0x2501) {}
      match sub with
      | 1 => shownD b.image
      | 2 => shownB b.valid
      | 3 => shownN (modelId b.image)
      | 4 => shownN (if treeCount b.image ≤ 256 then treeCount b.image else Config.measured (obj index 4) s.freeCtr % 257)
      | 5 => shownN (field b.image 0xC 4)
      | _ => none
    else if index = 0x2410 ∨ index = 0x2420 ∨ index = 0x2430 ∨ index = 0x2440 then
      let p := (index - 0x2410) / 16
      if sub = 3 ∧ (s.trackedRef p).isSome then (s.trackedRef p).map Val.bytes
      else if sub ≤ 6 then (if (s.byteVal (obj index sub)).isEmpty then shownD (s.tableDefault p sub) else none)
      else if sub ≤ 10 then (if (assocGet s.od (obj index sub)).isNone then shownN (s.laneDefault p (sub - 7)) else none)
      else none
    else none

/-! ### Tracker (05) -/

/-- The 80 bytes of a record (05 R148). -/
def State.recordBytes (s : State) (r : Rec) : List Byte :=
  let pos := r.valves.map (·.pos)
  let flags := 512 * boolNat r.remote + 256 * boolNat r.reissued + 128 * boolNat r.defaulted + 64 * boolNat r.firstUse + 32 * boolNat r.wide
    + 16 * boolNat (r.valves.any (·.cover)) + 8 * boolNat (pos.any s.onNeighbour) + 4 * boolNat r.upperAlone + 2 * boolNat r.fixAlone + r.face
  let time := fun (x : Option Sighting) => match x with | some x => x.time | none => 0
  let v := r.verdict.getD (0, 0, 0)
  leBytes 4 r.handle ++ leBytes 1 r.epoch ++ leBytes 1 r.state.code ++ leBytes 2 flags
  ++ leBytes 8 (time r.upper) ++ leBytes 8 (time r.fix) ++ leBytes 8 r.ta ++ leBytes 8 r.shotEnd
  ++ leBytes 8 (unsignedOf 8 (r.tdec.getD 0))
  ++ leBytes 2 (unsignedOf 2 r.centre) ++ leBytes 2 (unsignedOf 2 r.west) ++ leBytes 2 (unsignedOf 2 r.east)
  ++ leBytes 1 r.group ++ leBytes 1 (128 * boolNat r.verdict.isSome + v.1) ++ leBytes 1 v.2.1 ++ leBytes 1 v.2.2
  ++ leBytes 1 r.valves.length ++ leBytes 1 0
  ++ ((List.range 6).map (fun i => leBytes 2 (unsignedOf 2 (pos.getD i 0)))).flatten
  ++ (List.range 6).map (fun i => BitVec.ofNat 8 ((r.valves.map (·.outcome)).getD i 0)) ++ leBytes 2 0

/-- An entry of 0x2604 (05 R166): target, epoch, pin. -/
def State.placementWord (s : State) (g : Nat) : Nat :=
  let p := s.placementOf g
  (p.target.getD s.strand.id) + 65536 * p.epoch + 2 ^ 31 * boolNat p.pinned

def State.shownTracker (s : State) (index sub : Nat) : Option Val :=
  let g := sub - 1
  match index, sub with
  | 0x2600, 1 => shownN s.tracker.recs.length
  | 0x2600, 2 => shownN s.tracker.peak
  | 0x2605, 1 => shownN s.tracker.epoch
  | 0x2604, _ => shownN (s.placementWord g)
  | 0x2606, _ => shownN (capQ max32 ((s.prior 0 g).v * 1000))
  | 0x2607, _ => shownN (capQ max32 ((s.prior 1 g).v * 1000))
  | 0x2608, _ => shownN (min max32 (s.prior 0 g).n)
  | 0x2609, _ => shownN (min max32 (s.prior 1 g).n)
  | 0x260A, _ => shownI (clampI (-(2 ^ 31)) (2 ^ 31 - 1) (roundQ ((s.prior 0 g).w * 64)))
  | 0x260B, _ => shownI (clampI (-(2 ^ 31)) (2 ^ 31 - 1) (roundQ ((s.prior 1 g).w * 64)))
  | 0x260C, _ => shownN (min max32 ((s.tracker.floors.getD 0 []).getD g 0))
  | 0x260D, _ => shownN (min max32 ((s.tracker.floors.getD 1 []).getD g 0))
  | 0x2610, 2 => shownD (match s.recOf (s.nat (obj 0x2610 1)) with | some r => s.recordBytes r | none => List.replicate 80 0#8)
  | _, _ => none

/-! ### Drive, sequencers, ledger (06, 07, 08) -/

/-- σ_v of a valve in ns (06 R194): κ times the rms of the last deviations. -/
def State.sigmaV (s : State) (v : Nat) : ℚ := (s.nat (obj 0x2702 2) : ℚ) / 1000 * sqrtQ (meanQ (s.valve v).devs)

def State.shownDrive (s : State) (index sub : Nat) : Option Val :=
  let d := s.drive
  let v := valveOf index sub
  let x := s.valve v
  let calibrated := 32 ≤ s.nat (valveKey 0x2718 v)
  match index, sub with
  | 0x2700, 1 => shownN (if d.powerFail then 3 else if !d.enIn then 2 else boolNat d.enabled)
  | 0x2700, 2 => shownB d.enIn
  | 0x2700, 3 => shownN s.vbstNow
  | 0x2700, 4 => shownN d.v24
  | 0x2700, 0x16 => shownN s.shotRate
  | 0x2700, 0x17 => shownN (2 * boolNat s.refill.burstEmpty + boolNat s.refill.drive.bucketEmpty)
  | 0x2700, 0x18 => shownN (capQ 10000 (s.refill.drive.bucket * 10000 / s.bucketCap))
  | 0x2700, 0x19 => shownI (tenths s.hottest.2)
  | 0x2700, 0x1A => shownN s.hottest.1
  | 0x2702, 5 => shownN (capQ max32 (s.vBar * 1000))
  | 0x2705, g => shownN (s.group (g - 1)).state
  | 0x2710, _ | 0x2711, _ => shownN x.avail
  | 0x2712, _ | 0x2713, _ => shownN (min max32 x.lead)
  | 0x2714, _ | 0x2715, _ => shownN (capQ max32 x.lambda)
  | 0x2716, _ | 0x2717, _ => shownN (capQ max32 x.deltaBar)
  | 0x271C, _ | 0x271D, _ => if calibrated then shownN (capQ max32 (s.sigmaV v)) else none
  | 0x271E, _ | 0x271F, _ =>
    if calibrated then
      let g := v / 16
      let f : ℚ := ((max ((s.tracker.floors.getD 0 []).getD g 0) ((s.tracker.floors.getD 1 []).getD g 0) : Nat) : ℚ)
      shownN (capQ max32 (sqrtQ (f * f + s.sigmaV v * s.sigmaV v)))
    else none
  | 0x2720, _ | 0x2721, _ => shownI (tenths x.thetaW)
  | 0x2722, _ | 0x2723, _ => shownI (tenths x.thetaB)
  | 0x272A, _ | 0x272B, _ | 0x272C, _ | 0x272D, _ => if x.factoryBad then shownN 350000 else none
  | 0x272E, _ | 0x272F, _ => if x.factoryBad then shownN 8000 else none
  | 0x2730, _ | 0x2731, _ => shownN x.queue.length
  | _, _ => none

def State.shownSeq (s : State) (index sub : Nat) : Option Val :=
  let st := s.store (sub - 1)
  match index, sub with
  | 0x2803, _ => shownN (if st.swapAt.isSome then (if st.holding then 3 else 2) else boolNat st.shadow.valid)
  | 0x2804, _ => shownN (field st.active.image 4 4)
  | 0x2805, _ => shownN (field st.shadow.image 4 4)
  | 0x2801, _ => shownD st.shadow.image
  | 0x2809, _ => shownD st.active.image
  | 0x280A, 1 => shownD ((romWords.map (leBytes 4)).flatten)
  | _, _ => none

/-- The lowest margin of the fitted valves, and the lowest valve that has it (08 R256). -/
def State.lowestMargin (s : State) : Nat × Nat :=
  (List.range s.valveCount).foldl (fun b v => if (s.ledgerValve v).margin < b.1 then ((s.ledgerValve v).margin, v) else b) (100, 0)

def State.shownLedger (s : State) (index sub : Nat) : Option Val :=
  let d := s.ledger.data
  let e := s.ledgerValve (valveOf index sub)
  let b := d.strobes.getD (sub - 1) {}
  match index, sub with
  | 0x2900, 1 => shownN s.retiredCount
  | 0x2900, 3 => shownN (d.valves.filter (fun e => 0x80 ≤ e.cause)).length
  | 0x2900, 4 => shownN s.lowestMargin.1
  | 0x2900, 5 => shownN s.lowestMargin.2
  | 0x2900, 6 => shownN d.hours
  | 0x2900, 7 => shownN d.writes
  | 0x2900, 8 => shownB s.ledger.validAtStart
  | 0x2902, _ => shownN (capQ 10000 (b.f * 10000))
  | 0x2903, _ => shownN (capQ 15000 (b.factor * 10000))
  | 0x2904, n => shownN (s.strobeMargin (n - 1))
  | 0x2906, 1 => shownN (match d.capacitance with | some c => capQ max32 c | none => 0)
  | 0x2906, 3 => shownN d.capMargin
  | 0x2906, 4 => shownN d.vbstOffset
  | 0x2906, 5 => shownN (capQ max32 (d.riseMean * 5 / 4))
  | 0x2907, _ => shownN (capQ 20000 (d.fanRatio.getD (sub - 1) 1 * 10000))
  | 0x2908, _ => shownN (d.fanMargin.getD (sub - 1) 100)
  | 0x2909, 1 => shownN d.dieWorst
  | 0x2909, 2 => shownN d.coreSteps
  | 0x2909, 3 => shownN (capQ 50 ((25 : ℚ) * d.coreSteps / 2))
  | 0x290A, 1 => shownN d.dieOffset
  | 0x2910, _ | 0x2911, _ => shownN e.shots
  | 0x2912, _ | 0x2913, _ => shownN (capQ max32 (s.refDelay (valveOf index sub)))
  | 0x2914, _ | 0x2915, _ => shownI (clampI (-(2 ^ 31)) (2 ^ 31 - 1) (roundQ e.drift))
  | 0x2916, _ | 0x2917, _ => shownN (capQ max16 e.ah)
  | 0x2918, _ | 0x2919, _ => shownN (match e.a0 with | some a => capQ max16 a | none => 0)
  | 0x291A, _ | 0x291B, _ => shownN e.losses
  | 0x291C, _ | 0x291D, _ => shownN e.margin
  | 0x291E, _ | 0x291F, _ => shownN e.cause
  | 0x2920, _ | 0x2921, _ => shownN e.offset
  | _, _ => none

/-! ### Loops (09, 19 R507) -/

/-- DOUT n is on (19 R506). -/
def State.doutOn (s : State) (n : Nat) : Bool :=
  s.module.mainUp && s.power.seqAt.isNone && (s.pins.faults.getD n none).isNone &&
    (match s.nat (obj 0x2A01 (0x0C + n)) with
    | 0 => bitOf (s.nat (obj 0x2A01 0x10)) n
    | 1 => s.module.state == .sorting
    | 2 => s.module.state == .idle || s.module.state == .calibrating || s.module.state == .sorting
    | 3 => s.thermal.derated
    | _ => s.loops.slots.any (fun x => x.state == .fault))

/-- A word with bit n for each index of a list that holds. -/
def bitWord (l : List Bool) : Nat := bitsOf l

def State.shownIo (s : State) (sub : Nat) : Option Val :=
  match sub with
  | 0x0D => shownN s.pins.din
  | 0x0E => shownN (2 * boolNat s.pins.guardOk + boolNat s.pins.airOk)
  | 0x0F => shownN (16 * bitWord ((s.pins.faults.take 4).map (·.isSome)) + bitWord ((List.range 4).map s.doutOn))
  | 0x10 => shownN (if s.module.mainUp && (s.pins.faults.getD 4 none).isNone then Config.measured (obj 0x2A02 0x10) s.freeCtr % 501 else 0)
  | 0x11 => shownB (s.pins.faults.getD 4 none).isSome
  | n => if 1 ≤ n ∧ n ≤ 12 then shownR (s.loopInput (n - 1)).value else none

/-- Objects of a loop slot (09 R281). -/
def State.shownSlot (s : State) (n r sub : Nat) : Option Val :=
  let x := s.slot n
  match r, sub with
  | 0, 1 => shownN x.state.code
  | 0, 5 => shownN x.cause
  | 0, 0x0C => shownN x.active
  | 0, 0x0E => shownB x.swapPending
  | 2, 6 => shownR x.r
  | 3, 1 => shownD (s.bankOf n 0)
  | 4, 1 => shownD (s.bankOf n 1)
  | 6, k => shownR (x.nodes.getD (k - 1) 0)
  | _, _ => none

/-- Index of the oldest sample of a trace. -/
def Trace.oldest (x : Trace) : Nat := (x.head + 16384 - x.valid) % 16384

/-- Objects of a trace buffer (09 R279, R281). -/
def State.shownTrace (s : State) (t sub : Nat) : Option Val :=
  let x := s.trace t
  match sub with
  | 8 => shownN x.state
  | 9 => shownN x.trigTick
  | 0x0A => shownD (((List.range 16384).map (fun i => leBytes 4
      (if i < x.valid then (assocGet x.ring ((x.oldest + i) % 16384)).getD 0 else 0))).flatten)
  | 0x0B => shownN x.valid
  | 0x0C =>
    let src := s.nat (obj (0x2A90 + t) 1) / 256
    shownN (s.nat (obj (0x2A90 + t) 2) * (if src = 0xFE then 16000 else s.nat (slotKey src 0x2A10 6)))
  | 0x0D => shownN x.oldest
  | _ => none

def State.shownLoops (s : State) (index sub : Nat) : Option Val :=
  if index = 0x2A00 then
    match sub with
    | 1 => shownN (bitWord (s.loops.slots.map (fun x => x.state == .warmUp || x.state == .running)))
    | 2 => shownN (bitWord (s.loops.slots.map (fun x => x.state == .fault)))
    | _ => none
  else if index = 0x2A02 then s.shownIo sub
  else if 0x2A10 ≤ index ∧ index < 0x2A90 then s.shownSlot ((index - 0x2A10) / 16) (index % 16) sub
  else if 0x2A90 ≤ index ∧ index < 0x2A94 then s.shownTrace (index - 0x2A90) sub
  else none

/-! ### Backdrop, power, thermal (10, 11) -/

/-- The run of a panel command, which uses every region slot (10 R303). -/
def State.commandRun (s : State) : Option PanelRun := s.backdrop.run.filter (fun r => !r.recovery)

/-- 0x2B00:02 and :03 (10 R310): clearing in the phases of the clear cycle, updating in any other. -/
def State.panelState (s : State) (p : Nat) : Nat :=
  let x := s.panel p
  if x.fault then 4
  else if s.backdrop.run.elim false (fun r => match r.phase with | .clear rs => rs.any (·.panel == p) | .drive _ => false) then 2
  else if s.panelRunning p then 1 else if x.ledgerValid then 0 else 3

/-- 0x2B4n:09 (10 R308). -/
def State.strobeState (s : State) (n : Nat) : Nat :=
  let x := s.strobe n
  if x.fault ≠ 0 then x.fault
  else if s.nat (obj (0x2B40 + n) 1) = 0 then 0
  else if x.invalid then 5
  else if s.strobeHold n ≠ 0 then 2
  else 1

def State.shownBackdrop (s : State) (index sub : Nat) : Option Val :=
  if index = 0x2B00 then
    match sub with
    | 1 => shownN s.backdrop.rails.state
    | 2 => shownN (s.panelState 0)
    | 3 => shownN (s.panelState 1)
    | 4 => shownN (if s.commandRun.isSome then 0xFF else bitWord (s.backdrop.slots.map (fun x => x.run.isSome)))
    | 5 => shownN (s.strobeHold 0 ||| s.strobeHold 1 ||| s.strobeHold 2 ||| s.strobeHold 3)
    | _ => none
  else if 0x2B20 ≤ index ∧ index < 0x2B28 then
    let x := s.backdrop.slots.getD (index - 0x2B20) {}
    match sub with
    | 8 => shownN (if x.run.isSome then (if x.next.isSome then 2 else 1) else boolNat s.commandRun.isSome)
    | 9 => shownN (match x.run with | some r => r.pairs | none => s.commandRun.elim 0 (·.pairs))
    | 0x0A => shownN (match x.run with | some r => s.runPairs r | none => s.commandRun.elim 0 s.phasePairs)
    | 0x0B => shownN x.cause
    | _ => none
  else if index = 0x2B03 ∧ 3 ≤ sub ∧ sub ≤ 4 then shownN (field (s.byteVal (obj 0x2B03 (sub - 2))) 4 4)
  else if index = 0x2B11 ∧ 1 ≤ sub ∧ sub ≤ 8 then shownN (field (s.imageSlot sub) 4 4)
  else if index = 0x2B30 ∧ sub = 2 then shownN (if s.backdrop.stripAcked then 0 else s.backdrop.stripCode)
  else if 0x2B40 ≤ index ∧ index < 0x2B44 then
    let n := index - 0x2B40
    match sub with
    | 6 => shownN (s.strobe n).ieff
    | 7 => shownN (s.strobe n).vf
    | 8 => shownN (s.strobe n).power
    | 9 => shownN (s.strobeState n)
    | _ => none
  else none

/-- The converter of a rail is switched on (11 R313, R315, R317): V5, core, V12, V24, VBST, auxiliary. V12 is shed at step 4 of the power-fail
sequence, and the auxiliary converter runs while the panel driver requests it (10 R297). -/
def State.railOn (s : State) (i : Nat) : Bool :=
  s.railsUp &&
    match i with
    | 2 => s.power.state != 4
    | 4 => s.vbstOk
    | 5 => s.backdrop.rails.state != 0 && s.backdrop.rails.state != 4
    | _ => true

/-- 0x2C02:04 (11 R313, R315). -/
def State.railsGood (s : State) : Nat :=
  bitWord ((List.range 6).map (fun i => s.railOn i && !s.power.badRails.contains (i + 1)))

def State.shownPower (s : State) (index sub : Nat) : Option Val :=
  let t := s.thermal
  match index, sub with
  | 0x2C00, 1 => shownN s.power.state
  | 0x2C02, 4 => shownN s.railsGood
  | 0x2C10, 1 => shownI (tenths t.mean)
  | 0x2C10, 2 => shownI (clampI (-32768) 32767 (roundQ (t.rate8 * 100)))
  | 0x2C10, 3 => shownI (clampI (-32768) 32767 (roundQ (t.rate2 * 100)))
  | 0x2C10, 4 => shownN t.status
  | 0x2C10, 5 => shownN t.causes
  | 0x2C10, 6 => shownB t.broken
  | 0x2C10, 7 => shownN t.brokenMs
  | 0x2C10, 8 => shownI (tenths (t.highest.getD 0))
  | 0x2C10, 9 => shownN (capQ 255 s.warnAt)
  | 0x2C10, 0x0A => shownN (capQ 255 s.derateAt)
  | 0x2C20, n => shownN (capQ 10000 (s.fanDuty (n - 1) * 100))
  | _, _ => none

/-! ### Module, Strand, dictionary, side-band (12 to 15) -/

/-- The firmware version that runs (12 R347, 18 R478). -/
def State.fwVersion (s : State) : Nat :=
  match s.update.fw with
  | some img => field img 8 4
  | none => Config.factory (obj 0x2000 5)

def State.shownModule (s : State) (index sub : Nat) : Option Val :=
  let m := s.module
  match index, sub with
  | 0x2000, 1 => shownN s.strand.id
  | 0x2000, 5 => shownN s.fwVersion
  | 0x2001, 1 => shownN m.state.code
  | 0x2001, 3 => shownB s.thermal.derated
  | 0x2001, 4 => shownN m.prev.code
  | 0x2001, 5 => shownN (min max32 ((s.clk - m.changedAt) / msTicks))
  | 0x2001, 6 => shownN m.trigger
  | 0x2001, 7 => shownN m.faultCause
  | 0x2001, 8 => shownN m.refusal
  | 0x2001, 0x0A => shownN s.opSecs
  | 0x2001, 0x0C => shownN m.resetKind
  | 0x2004, 1 => shownN s.readiness
  | _, _ => none

def State.shownStrand (s : State) (index sub : Nat) : Option Val :=
  let st := s.strand
  match index, sub with
  | 0x2200, 5 => shownN (if st.pendingId.isSome then 3 else if st.conflict then 2 else boolNat st.provisional)
  | 0x2200, 6 => shownN (st.column.getD 0xFF)
  | 0x2200, 7 => shownN (8 * boolNat st.westEnd + st.rowId)
  | 0x2200, 8 => shownN (st.pendingId.getD 0xFFFF)
  | 0x2200, 9 => shownN (if s.module.mainUp then s.hostAnchor.getD 0xFFFF else 0xFFFF)
  | 0x2200, 0x0A => shownN (if s.module.mainUp then s.topoTable.length else 0)
  | 0x2200, n => if 1 ≤ n ∧ n ≤ 4 then shownN (s.link (n - 1)).state.code else none
  | 0x2202, 1 => shownD (if s.module.mainUp then (s.topoTable.map topoBytes).flatten else [])
  | 0x2203, n => shownN (match (s.link (n - 1)).hello with | some h => h.id | none => 0xFFFF)
  | 0x2204, n => shownD (match (s.link (n - 1)).hello with | some h => h.serial | none => [])
  | _, _ => none

/-- A lock slot as it reads (14 R396). -/
def State.lockWord (s : State) (n : Nat) : Nat :=
  match s.dict.locks.getD n none with
  | some l =>
    l.first * 2 ^ 48 + l.last * 2 ^ 32 + ceilDiv (l.until_ - s.clk) secTicks * 65536 + (match l.owner with | .host => 1 | .mgmt => 2) * 256
  | none => 0

def State.shownDict (s : State) (m : Master) (index sub : Nat) : Option Val :=
  let g := s.stage m
  match index, sub with
  | 0x2002, 6 => shownN (s.dict.granted.getD (masterIx m) 0xFF)
  | 0x2002, n => if 2 ≤ n ∧ n ≤ 5 then shownN (s.lockWord (n - 2)) else none
  | 0x2003, 2 => shownB g.isOpen
  | 0x2003, 3 => shownN g.entries.length
  | 0x2003, 5 => shownN g.result
  | 0x2003, 6 => shownN g.failing
  | 0x2003, 7 => shownN g.tick
  | 0x2006, 9 => shownN s.dict.seqInForce
  | 0x1001, 0 => shownN s.errorRegister
  | 0x1003, 0 => shownN s.side.errorField.length
  | 0x1003, n => shownN (s.side.errorField.getD (n - 1) 0)
  | 0x100A, 0 => shownD (Config.versionText s.fwVersion)
  | _, _ => none

/-! ### DMA, recorder, update (16, 17, 18) -/

/-- 0x2D00:01 (17 R474). -/
def State.recorderState (s : State) : Nat :=
  if !s.module.mainUp then 4
  else if s.recorder.clearing.isSome || s.recorder.clearReply.isSome then 2
  else if s.recorder.writing.isSome then 1
  else if s.recorder.exporting.isSome then 3
  else 0

/-- 0x2D05:03 (17 R474). -/
def State.clearState (s : State) : Nat :=
  if s.clearLocked then 3
  else if s.recorder.clearing.isSome || s.recorder.clearReply.isSome then 2
  else boolNat (s.recorder.challenges.any (fun c => match c with | some (_, t) => decide (s.clk ≤ t + 60 * secTicks) | none => false))

def State.shownRecorder (s : State) (m : Master) (index sub : Nat) : Option Val :=
  let h := s.recorder.header
  let b := s.recorder.live
  match index, sub with
  | 0x2D00, 1 => shownN s.recorderState
  | 0x2D00, 2 => shownD h.bytes
  | 0x2D00, 3 => shownN h.seq
  | 0x2D00, 4 => shownN h.newest
  | 0x2D00, 5 => shownN h.held
  | 0x2D00, 6 => shownN h.dropped
  | 0x2D00, 7 => shownN h.overwritten
  | 0x2D00, 8 => shownN h.clears
  | 0x2D00, 9 => shownN s.recorder.lastDuration
  | 0x2D01, 0x19 => shownN s.recorder.cfgId
  | 0x2D02, 1 => shownN (s.opSecs - b.openedAt)
  | 0x2D02, 0x0A => shownD ((b.exts.map extremeBytes).flatten)
  | 0x2D02, 0x0B => shownD (((s.increases b).map (leBytes 4)).flatten)
  | 0x2D02, n =>
    if 2 ≤ n ∧ n ≤ 5 then shownN (b.counts.getD (n - 2) 0)
    else if 6 ≤ n ∧ n ≤ 9 then
      let g := b.hists.getD (n - 6) {}
      shownD (leBytes 4 g.n ++ (g.bins.map (leBytes 4)).flatten)
    else none
  | 0x2D03, 1 => shownN (s.recorder.selected.getD (masterIx m) 0)
  | 0x2D03, 2 => shownD (s.slotBytes (s.recorder.selected.getD (masterIx m) 0))
  | 0x2D04, 1 => shownD s.slotDirectory
  | 0x2D04, 3 => shownN s.recorder.exportState
  | 0x2D05, 3 => shownN s.clearState
  | _, _ => none

/-- The image of a firmware bank as 0x2E03 reads it: version and CRC-32; the factory's where none is held. -/
def bankInfo (img : Option (List Byte)) (key : Nat) : Nat × Nat :=
  match img with
  | some d => (field d 8 4, field d 0x1C 4)
  | none => (Config.factory key, Config.factory (key + 3))

def State.shownUpdate (s : State) (index sub : Nat) : Option Val :=
  let u := s.update
  match index, sub with
  | 0x2E00, 1 => shownN s.updateState
  | 0x2E00, 2 => shownN u.cause
  | 0x2E00, 3 => shownN u.staging.length
  | 0x2E00, 4 => shownN u.blocks
  | 0x2E00, 5 => shownN (match u.watch with | some t => (t + 30 * secTicks - s.clk) / msTicks | none => 0)
  | 0x2E00, 6 => shownN u.recoveryCause
  | 0x2E03, 1 => shownN (bankInfo u.boot (obj 0x2E03 1)).1
  | 0x2E03, 2 => shownN (field u.staging 8 4)
  | 0x2E03, 3 => shownN (bankInfo none (obj 0x2E03 3)).1
  | 0x2E03, 4 => shownN (bankInfo u.boot (obj 0x2E03 1)).2
  | 0x2E03, 5 => shownN (field u.staging 0x1C 4)
  | 0x2E03, 6 => shownN (bankInfo none (obj 0x2E03 3)).2
  | 0x2E04, 1 => shownN s.formatInForce
  | 0x2E04, 2 => shownN (match u.preMigration with | some k => (s.dict.stores.getD k {}).format | none => 0)
  | 0x2E04, 3 => shownB u.atDefaults
  | 0x2E05, n => shownD (u.library.getD (n - 1) [])
  | _, _ => none

/-- A channel runs, or bytes have moved within the last 100 ms (16 R454). -/
def State.dmaRan (s : State) : Bool :=
  s.dma.channels.any (fun x => x.state == .active) || (match s.dma.ranAt with | some t => decide (s.clk < t + 100 * msTicks) | none => false)

def State.shownDma (s : State) (index sub : Nat) : Option Val :=
  match index, sub with
  | 0x2F00, 1 => shownN ((List.range 16).foldl (fun w c => w + (s.chan c).state.code * 16 ^ c) 0)
  | 0x2F00, 6 => shownN (if s.dmaRan then Config.measured (obj 0x2F00 6) s.freeCtr % 10001 else 0)
  | 0x2F04, 3 => shownN (Config.measured (obj 0x2F04 3) s.freeCtr % 10001)
  | 0x2F04, 4 => shownN (Config.measured (obj 0x2F04 4) s.freeCtr % 2 ^ 32)
  | _, _ => none

/-! ### Reading an object -/

/-- What an object computes when read; none: it reads what is held for it. -/
def State.computed (s : State) (m : Master) (index sub : Nat) : Option Val :=
  match index / 256 with
  | 0x21 => s.shownTime index sub
  | 0x22 => s.shownStrand index sub
  | 0x23 => s.shownPort (index % 256 / 16) (index % 16) sub
  | 0x24 | 0x25 => s.shownEngines index sub
  | 0x26 => s.shownTracker index sub
  | 0x27 => s.shownDrive index sub
  | 0x28 => s.shownSeq index sub
  | 0x29 => s.shownLedger index sub
  | 0x2A => s.shownLoops index sub
  | 0x2B => s.shownBackdrop index sub
  | 0x2C => s.shownPower index sub
  | 0x2D => s.shownRecorder m index sub
  | 0x2E => s.shownUpdate index sub
  | 0x2F => s.shownDma index sub
  | 0x20 => (s.shownModule index sub).or (s.shownDict m index sub)
  | _ => s.shownDict m index sub

/-- The zero value of a type: what an absent entry reads as (00 R4). -/
def OType.zero (t : OType) : Val := if t.size = 0 then .bytes [] else .num 0

/-- The value of an object as a master reads it. -/
def State.shown (s : State) (m : Master) (k : Nat) : Val :=
  let index := k / 256
  let sub := k % 256
  if sub = 0 && !hasSubZeroRow index then .num (highestSub index)
  else if s.absent k then (match objRow? index sub with | some r => r.type.zero | none => .num 0)
  else if index = 0x1010 ∨ index = 0x1011 then .num 1
  else (s.computed m index sub).getD (s.val k)

/-- The bytes of an object on the wire (14 R387). -/
def State.shownBytes (s : State) (m : Master) (k : Nat) : List Byte :=
  match objRow? (k / 256) (k % 256) with
  | some r => r.type.toBytes (s.shown m k)
  | none => OType.u8.toBytes (s.shown m k)

/-- Objects whose reads draw a measured value. -/
def measuredKey (k : Nat) : Bool :=
  k == obj 0x2F00 6 || k == obj 0x2F04 3 || k == obj 0x2F04 4 || k == obj 0x2A02 0x10
    || [obj 0x2300 7, obj 0x2310 7, obj 0x2320 7, obj 0x2330 7].contains k

/-- What a read leaves behind: the serial receive buffer is emptied (03 R89), a measured value has been drawn. -/
def State.afterRead (s : State) (k : Nat) : State :=
  let index := k / 256
  if 0x2300 ≤ index ∧ index < 0x2340 ∧ index % 16 = 5 ∧ k % 256 = 4 then
    let p := (index - 0x2300) / 16
    s.setCam p { s.cam p with rx := [] }
  else if measuredKey k then s.draw.2
  else s

/-- Trace data reads in states 0 and 4 only (09 R279). -/
def State.readBarred (s : State) (k : Nat) : Bool :=
  let index := k / 256
  if 0x2A90 ≤ index ∧ index < 0x2A94 ∧ k % 256 = 0x0A then
    let x := s.trace (index - 0x2A90)
    x.state != 0 && x.state != 4
  else false

/-- A read of one object: abort code and data (14 R393). The read of a clear challenge is CLEAR_CHALLENGE's. -/
def State.readObject (s : State) (m : Master) (k : Nat) : State × Nat × List Byte :=
  let c := s.checkRead m k
  if c ≠ 0 then (s, c, [])
  else if s.readBarred k then (s, abortState, [])
  else if k = obj 0x2D05 1 then
    if s.clearLocked then (s, abortState, [])
    else
      match s.newChallenge m with
      | (s, d) => (s, 0, d)
  else (s.afterRead k, 0, s.shownBytes m k)

/-- The subindexes of an index, from 1 upwards. -/
def subsOf (index : Nat) : List Nat :=
  (List.range 255).filter (fun n => n != 0 && !missingSub (obj index n) && (objRow? index n).isSome)

/-- A whole-object read (14 R391): every subindex from 1 to the highest at one instant. -/
def State.readWhole (s : State) (m : Master) (index : Nat) : State × Nat × List Byte :=
  if !s.check0 m (obj index 1) then (s, abortState, [])
  else if !indexExists index then (s, abortNoObject, [])
  else
    match ((subsOf index).map (fun n =>
        let c := s.checkRead m (obj index n)
        if c = 0 && s.readBarred (obj index n) then abortState else c)).find? (· != 0) with
    | some c => (s, c, [])
    | none =>
      ((subsOf index).foldl (fun s n => s.afterRead (obj index n)) s, 0, ((subsOf index).map (fun n => s.shownBytes m (obj index n))).flatten)

end Sys2Proof.Machine
end

