-- ==== Sys2Proof/Machine/Actions.lean ====
section
/-!
DEFINITION. What a write to each object does once its checks have passed: check 8 of 14 R393, and the action (every chapter's own rules). An
object without a rule of its own holds the value.
-/
namespace Sys2Proof.Machine

/-- The number a value carries. -/
def valNat : Val → Nat
  | .num n => n.toNat
  | .bytes _ => 0

/-- The bytes a value carries. -/
def valData : Val → List Byte
  | .num _ => []
  | .bytes b => b

/-! ### Communication objects (15 R425, R426, R438, R439) -/

/-- Objects whose COB-ID may not change while the entry is valid, [31] = 0 (15 R439; log entry 32 for 0x1005). -/
def cobEntry (k : Nat) : Bool :=
  k == obj 0x1005 0 || k == obj 0x1014 0
    || (k % 256 == 1 && ((0x1400 ≤ k / 256 && k / 256 ≤ 0x1403) || (0x1800 ≤ k / 256 && k / 256 ≤ 0x1803)))

/-- Transmission types supported (15 R426). -/
def typeOk (v : Nat) : Bool := v ≤ 240 || v == 254 || v == 255

/-- Types that a PDO may map (15 R425). -/
def OType.mappable (t : OType) : Bool := t.size != 0

/-- A mapping entry names an object that can be mapped: index, subindex, length in bits. -/
def mapEntryOk (rpdo : Bool) (v : Nat) : Bool :=
  let index := bits v 31 16
  let sub := bits v 15 8
  0x2000 ≤ index && index ≤ 0x2FFF && !missingSub (obj index sub) &&
    (match objRow? index sub with
    | some r =>
      r.type.mappable && r.access != .wo && bits v 7 0 == 8 * r.type.size && (!rpdo || (r.access == .rw && rightOk r.rights .mgmt))
    | none => false)

/-- The COB-ID object of a mapping's PDO. -/
def cobOf (index : Nat) : Nat := obj (index - 0x200) 1

/-- Bits of the first `n` entries of a mapping. -/
def State.mapBits (s : State) (index n : Nat) : Nat := sumN ((List.range n).map (fun i => bits (s.nat (obj index (i + 1))) 7 0))

/-- A write of a mapping's subindex 0: entries in force, 0 before any other number; its entries are checked again (15 R425). -/
def State.mapCount (s : State) (index n : Nat) : State × Nat :=
  let rpdo := decide (index < 0x1A00)
  if !bitOf (s.nat (cobOf index)) 31 then (s, abortState)
  else if n ≠ 0 && s.nat (obj index 0) != 0 then (s, abortState)
  else if n ≠ 0 && !(List.range n).all (fun i => mapEntryOk rpdo (s.nat (obj index (i + 1)))) then (s, 0x06040041)
  else if 64 < s.mapBits index n then (s, 0x06040042)
  else (s.putNat (obj index 0) n, 0)

/-- A write of a mapping entry. -/
def State.mapEntry (s : State) (index sub v : Nat) : State × Nat :=
  let rpdo := decide (index < 0x1A00)
  if !bitOf (s.nat (cobOf index)) 31 || s.nat (obj index 0) != 0 then (s, abortState)
  else if v ≠ 0 && !mapEntryOk rpdo v then (s, 0x06040041)
  else if 64 < bits v 7 0 then (s, 0x06040042)
  else (s.putNat (obj index sub) v, 0)

/-- A write of a consumer entry takes effect at once; its first timeout counts from here (15 R439). -/
def State.setConsumer (s : State) (n : Nat) (v : Nat) : State :=
  let s := s.putNat (obj 0x1016 (n + 1)) v
  { s with side := { s.side with consumers := s.side.consumers.set n { heard := none, written := s.clk, timedOut := false } } }

/-- Writes in 0x1000 to 0x1FFF. -/
def State.actComm (s : State) (k : Nat) (v : Val) : State × Nat :=
  let index := k / 256
  let sub := k % 256
  let n := valNat v
  if cobEntry k then
    let old := s.nat k
    if !bitOf old 31 && bits old 10 0 != bits n 10 0 then (s, abortRange) else hold k v s
  else if index = 0x1003 then if n ≠ 0 then (s, abortRange) else ({ s with side := { s.side with errorField := [] } }, 0)
  else if index = 0x1016 then (s.setConsumer (sub - 1) n, 0)
  else if index = 0x1017 then
    let s := s.put k v
    ({ s with side := { s.side with heartbeatAt := s.clk } }, 0)
  else if sub = 2 ∧ ((0x1400 ≤ index ∧ index ≤ 0x1403) ∨ (0x1800 ≤ index ∧ index ≤ 0x1803)) then
    if typeOk n then hold k v s else (s, abortRange)
  else if (0x1600 ≤ index ∧ index ≤ 0x1603) ∨ (0x1A00 ≤ index ∧ index ≤ 0x1A03) then
    if sub = 0 then s.mapCount index n else s.mapEntry index sub n
  else hold k v s

/-! ### Module, time, Strand (12, 02, 13) -/

def State.actModule (s : State) (m : Master) (k : Nat) (v : Val) : State × Nat :=
  let n := valNat v
  if k = obj 0x2001 2 then
    (match n with | 1 => actIdle s | 2 => actCalibrate s | _ => actSort s)
  else if k = obj 0x2001 9 then actPortsInUse n s
  else if k = obj 0x2005 1 then actRestart s
  else if k = obj 0x2105 1 then actSyncOutMode n s
  else if k = obj 0x2201 1 ∨ k = obj 0x2201 2 then ((s.put k v).learnId, 0)
  else if k = obj 0x2C01 1 then (if n = 0 then actMoored s else actAwake m s)
  else hold k v s

/-! ### Camera ports (03) -/

/-- The port is STARTING, STREAMING or LOST. -/
def State.profileLocked (s : State) (p : Nat) : Bool :=
  match (s.cam p).state with
  | .starting | .streaming | .lost => true
  | .off | .idle => false

/-- A change of line width or pixel format makes the captured tables invalid (04 R134). -/
def State.dropTables (s : State) (p : Nat) : State := s.putNat (obj (0x2410 + 16 * p) 0x0C) 0

def State.actPort (s : State) (p r sub k : Nat) (v : Val) : State × Nat :=
  let n := valNat v
  match r, sub with
  | 1, 1 => (match n with | 0 => actStopStream p s | 1 => actStartPort p s | _ => actStartPlane p s)
  | 1, 2 =>
    let s := s.put k v
    let c := s.cam p
    (if n = 0 then
      s.setCam p { c with pocl := 0, poclLoadA := false, poclLoadB := false, step := if c.step = .detect then .clock else c.step }
     else s, 0)
  | 1, 6 => if n = 0 then (s, 0) else actPoclRearm p s
  | 2, _ =>
    if s.profileLocked p then (s, abortState)
    else
      let change := (sub = 3 ∨ sub = 4) ∧ s.nat k ≠ n
      let s := s.put k v
      (if change then s.dropTables p else s, 0)
  | 3, 3 => actCc1Width p n s
  | 3, _ => if (sub = 1 ∨ sub = 2) ∧ s.profileLocked p then (s, abortState) else hold k v s
  | 4, _ => ((s.put k v).settleCc p, 0)
  | 5, 1 => actSettings p (valData v) s
  | 5, 3 => actRaw p (valData v) s
  | _, _ => hold k v s

/-! ### Engines and tracker (04, 05) -/

def State.actEngines (s : State) (k : Nat) (v : Val) : State × Nat :=
  let index := k / 256
  let sub := k % 256
  let n := valNat v
  if k = obj 0x2404 1 then actCapture n s
  else if index = 0x2410 ∨ index = 0x2420 ∨ index = 0x2430 ∨ index = 0x2440 then actContext ((index - 0x2410) / 16) sub v s
  else if k = obj 0x2500 2 then (if n = 0 then (s, 0) else actBankSwap s)
  else if index = 0x2501 ∨ index = 0x2502 then
    (match sub with
    | 1 => actBankImage (index - 0x2501) (valData v) s
    | 6 => actLibraryLoad (index - 0x2501) n s
    | _ => hold k v s)
  else if index = 0x2601 then actDropGeometry sub n s
  else if k = obj 0x2605 2 then actGovernor n s
  else if index = 0x2604 then actPlacement (sub - 1) n s
  else hold k v s

/-! ### Drive, sequencers, ledger (06, 07, 08) -/

def State.actDrive (s : State) (k : Nat) (v : Val) : State × Nat :=
  let index := k / 256
  let sub := k % 256
  let n := valNat v
  match index, sub with
  | 0x2701, 1 => actVbst n s
  | 0x2702, 3 | 0x2702, 4 => ((s.put k v).releads, 0)
  | 0x2709, g => if n = 0 then (s, 0) else actGroupRestore (g - 1) s
  | 0x270A, 3 => if n = 0 then (s, 0) else actTestShot s
  | 0x2710, _ | 0x2711, _ => actValveState (valveOf index sub) n s
  | 0x2801, g => actShadowImage (g - 1) (valData v) s
  | 0x2802, g => if n = 0 then (s, 0) else s.requestSwap (g - 1)
  | 0x2808, 1 => actImageAll (valData v) s
  | 0x2808, 2 => if n = 0 then (s, 0) else actSwapAll s
  | 0x2810, _ | 0x2811, _ => actProfileSelect (valveOf index sub) n s
  | 0x290B, 1 => actValveReplaced n s
  | _, _ => hold k v s

/-! ### Loops (09) -/

/-- The slot is in state 1, 2 or 4 (09 R281). -/
def State.slotBusy (s : State) (n : Nat) : Bool :=
  match (s.slot n).state with
  | .warmUp | .running | .manual => true
  | .disabled | .fault | .parked => false

/-- A value of which an output is made has been written: the outputs follow. -/
def State.holdOut (s : State) (k : Nat) (v : Val) : State × Nat := ((s.put k v).settleOuts, 0)

def State.actSlot (s : State) (n r sub k : Nat) (v : Val) : State × Nat :=
  let x := valNat v
  match r, sub with
  | 0, 2 => actLoopEnable n x s
  | 0, 3 => if s.slotBusy n then (s, abortState) else ((s.put k v).loopsRecheck, 0)
  | 0, 4 => if x = 0 then (s, 0) else actLoopRearm n s
  | 0, 6 | 0, 7 => if s.slotBusy n then (s, abortState) else ((s.put k v).resumeSlot n, 0)
  | 0, 8 =>
    let s := s.put k v
    (if (s.slot n).state = .manual then s.driveOut n (s.real k) else s, 0)
  | 0, 9 =>
    let s := s.put k v
    (if (s.slot n).state = .parked then s.driveOut n (s.real k) else s, 0)
  | 0, 0x0A | 0, 0x0B =>
    let s := s.put k v
    (if (s.slot n).state = .fault || (s.loops.stopped && (s.slot n).state != .disabled) then s.safeOut n else s, 0)
  | 0, 0x0D => if x = 0 then (s, 0) else actLoopSwap n s
  | 1, 1 => if s.slotBusy n || (x == 0 && (s.slot n).state != .disabled) then (s, abortState) else hold k v s
  | 1, 6 => if s.slotBusy n || s.outputTaken n x then (s, abortState) else s.holdOut k v
  | 1, _ => if s.slotBusy n then (s, abortState) else hold k v s
  | 3, 1 => actLoopBank n 0 (valData v) s
  | 4, 1 => actLoopBank n 1 (valData v) s
  | _, _ => hold k v s

def State.actLoops (s : State) (k : Nat) (v : Val) : State × Nat :=
  let index := k / 256
  let sub := k % 256
  if 0x2A10 ≤ index ∧ index < 0x2A90 then s.actSlot ((index - 0x2A10) / 16) (index % 16) sub k v
  else if 0x2A90 ≤ index ∧ sub = 7 then
    let t := index - 0x2A90
    match valNat v with
    | 0 => actTraceStop t s
    | 1 => actTraceArm t s
    | _ => actTraceForce t s
  else if index = 0x2A01 ∧ 5 ≤ sub ∧ sub ≤ 9 then s.holdOut k v
  else hold k v s

/-! ### Panels, strobes (10) -/

def State.actBackdrop (s : State) (k : Nat) (v : Val) : State × Nat :=
  let index := k / 256
  let sub := k % 256
  let n := valNat v
  if k = obj 0x2B01 8 then (if n = 1 then actPanelGrey s else actPanelHome s)
  else if k = obj 0x2B01 3 ∨ k = obj 0x2B01 4 then
    let d := s.ledger.data
    ({ s.put k v with ledger := { s.ledger with
        data := { d with strobes := d.strobes.map (fun (e : LedgerStrobe) => { e with restart := true }) } } }, 0)
  else if index = 0x2B03 then actWaveform (sub - 1) (valData v) s
  else if index = 0x2B04 then actTrimMap (sub - 1) (valData v) s
  else if index = 0x2B10 then actImageSlot sub (valData v) s
  else if 0x2B20 ≤ index ∧ index < 0x2B28 ∧ sub = 7 then (if n = 0 then (s, 0) else actRegionGo (index - 0x2B20) s)
  else if k = obj 0x2B30 3 then (if n = 0 then (s, 0) else actEventAck s)
  else if 0x2B40 ≤ index ∧ index < 0x2B44 then
    let c := index - 0x2B40
    (match sub with
    | 1 => actStrobeEnable c n s
    | 2 | 3 | 4 => ((s.put k v).testStrobe c, 0)
    | _ => hold k v s)
  else hold k v s

/-! ### Recorder and update (17, 18) -/

def State.actUpdate (s : State) (n : Nat) : State × Nat :=
  match n with
  | 1 => actVerifyAgain s
  | 2 => actMarkPending s
  | 3 => actMarkPendingRestart s
  | 4 => actCancelPending s
  | 5 => actRestartFromStaging s
  | _ => actStageFromDdr s

def State.actRecorder (s : State) (m : Master) (k : Nat) (v : Val) : State × Nat :=
  let index := k / 256
  let sub := k % 256
  let n := valNat v
  match index, sub with
  | 0x2D01, _ => actTallyConfig sub v s
  | 0x2D03, 1 => actSelectSlot m n s
  | 0x2D03, 3 => actSelectSeq m n s
  | 0x2D04, 2 => actExport n s
  | 0x2D05, 2 => actClear m (valData v) s
  | 0x2E01, 1 => actStaging m 0 (valData v).length (valData v) s
  | 0x2E01, 2 => actStageSource n s
  | 0x2E01, 3 => actStageLength n s
  | 0x2E02, 1 => s.actUpdate n
  | 0x2E05, _ => actLibrarySlot (sub - 1) (valData v) s
  | _, _ => hold k v s

/-! ### Every object -/

/-- The action of a write that has passed checks 0 to 7, the lock and stage commands and the stores apart. -/
def State.actPlain (s : State) (m : Master) (k : Nat) (v : Val) : State × Nat :=
  let index := k / 256
  if index < 0x2000 then s.actComm k v
  else
    match index / 256 with
    | 0x20 | 0x21 | 0x22 | 0x2C => s.actModule m k v
    | 0x23 => s.actPort (index % 256 / 16) (index % 16) (k % 256) k v
    | 0x24 | 0x25 | 0x26 => s.actEngines k v
    | 0x27 | 0x28 | 0x29 => s.actDrive k v
    | 0x2A => s.actLoops k v
    | 0x2B => s.actBackdrop k v
    | 0x2D | 0x2E => s.actRecorder m k v
    | _ => hold k v s

end Sys2Proof.Machine
end

