-- ==== Sys2Proof/Machine/Dictionary.lean ====
section
/-!
DEFINITION. Edit locks, stages, the settings stores, and dictionary transactions over Strand (14 R391 to R404; 13 R377).
-/
namespace Sys2Proof.Machine

/-! ### Edit locks (14 R395 to R399) -/

def State.setLock (s : State) (n : Nat) (l : Option Lock) : State := { s with dict := { s.dict with locks := s.dict.locks.set n l } }

/-- A lock's lease has run out: the lock ends, counted, event 0x1021. -/
def State.expireLock (s : State) (n : Nat) : State := ((s.setLock n none).bump (obj 0x2006 3)).raise 0x1021 n

/-- Locks whose lease has run out by now end. -/
def State.expireDue (s : State) : State :=
  (List.range 4).foldl (fun s n =>
    match s.dict.locks.getD n none with
    | some l => if l.until_ ≤ s.clk then s.expireLock n else s
    | none => s) s

/-- The value of a lock request (14 R396). -/
def lockRequest (first last lease cmd slot : Nat) : Nat :=
  first % 65536 * 2 ^ 48 + last % 65536 * 2 ^ 32 + lease % 65536 * 65536 + cmd * 256 + slot % 256

/-- The slot that an acquire gets: the named one if it is free, or the lowest free one. -/
def State.lockSlot (s : State) (slot : Nat) : Option Nat :=
  let free := (List.range 4).filter (fun n => (s.dict.locks.getD n none).isNone)
  if slot = 0xFF then free.head? else if free.contains slot then some slot else none

/-- A lock of the other master overlaps the range. -/
def State.overlapsOther (s : State) (m : Master) (first last : Nat) : Bool :=
  s.dict.locks.any (fun l =>
    match l with
    | some l => l.owner == otherMaster m && l.first ≤ last && first ≤ l.last
    | none => false)

/-- Acquire (14 R396, R397). -/
def State.lockAcquire (s : State) (m : Master) (first last lease slot : Nat) : State × Nat :=
  if last < first ∨ first < 0x2000 ∨ 0x2FFF < last ∨ lease < 1 ∨ 600 < lease ∨ (3 < slot ∧ slot ≠ 0xFF) then (s, abortRange)
  else if s.overlapsOther m first last then (s, abortState)
  else
    match s.lockSlot slot with
    | none => (s, abortState)
    | some n =>
      let s := s.setLock n (some ⟨m, first, last, s.clk + lease * secTicks⟩)
      let s := { s with dict := { s.dict with granted := s.dict.granted.set (masterIx m) n } }
      (s.raise 0x1020 n, 0)

/-- The lock of a slot, if the master owns it. -/
def State.ownLock (s : State) (m : Master) (slot : Nat) : Option Lock :=
  (s.dict.locks.getD slot none).filter (fun l => l.owner == m)

/-- Renew and release (14 R396, R397). -/
def State.lockRenew (s : State) (m : Master) (lease slot : Nat) : State × Nat :=
  if lease < 1 ∨ 600 < lease ∨ 3 < slot then (s, abortRange)
  else
    match s.ownLock m slot with
    | some l => (s.setLock slot (some { l with until_ := s.clk + lease * secTicks }), 0)
    | none => (s, abortState)

def State.lockRelease (s : State) (m : Master) (slot : Nat) : State × Nat :=
  if 3 < slot then (s, abortRange)
  else
    match s.ownLock m slot with
    | some _ => ((s.setLock slot none).raise 0x1022 slot, 0)
    | none => (s, abortState)

/-- The action of a write of 0x2002:01. -/
def actLock (m : Master) (w : Nat) (s : State) : State × Nat :=
  let s := s.expireDue
  let lease := bits w 31 16
  let slot := bits w 7 0
  match bits w 15 8 with
  | 1 => s.lockAcquire m (bits w 63 48) (bits w 47 32) lease slot
  | 2 => s.lockRenew m lease slot
  | 3 => s.lockRelease m slot
  | _ => (s, abortRange)

def State.lockWrite (s : State) (m : Master) (w : Nat) : State := s.write m (obj 0x2002 1) (.num w) (actLock m w)

/-- LOCK_ACQUIRE (14 R396, R397). -/
def execLockAcquire (m : Master) (first last lease slot : Nat) (s : State) : Host.Outcome State Fault Refusal :=
  .next (s.lockWrite m (lockRequest first last lease 1 slot))
/-- LOCK_RENEW (14 R396, R397). -/
def execLockRenew (m : Master) (lease slot : Nat) (s : State) : Host.Outcome State Fault Refusal :=
  .next (s.lockWrite m (lockRequest 0 0 lease 2 slot))
/-- LOCK_RELEASE (14 R396, R397). -/
def execLockRelease (m : Master) (slot : Nat) (s : State) : Host.Outcome State Fault Refusal :=
  .next (s.lockWrite m (lockRequest 0 0 0 3 slot))
/-- LOCK_EXPIRY (14 R399). -/
def execLockExpiry (slot : Fin 4) (s : State) : Host.Outcome State Fault Refusal :=
  match s.dict.locks.getD slot none with
  | some l => .next ((s.atClk l.until_).expireLock slot)
  | none => .next s

/-! ### Stages (14 R400 to R402) -/

/-- The object's entry as it was. -/
def State.putBack (s : State) (k : Nat) (old : Option Val) : State :=
  match old with
  | some v => s.put k v
  | none => s.unset k

/-- The values of several objects put in force, without their actions. -/
def State.putAll (s : State) (es : List (Nat × Val)) : State := es.foldl (fun s e => s.put e.1 e.2) s

/-- A value that an object will have once the entries are in force. -/
def State.lookAfter (s : State) (es : List (Nat × Val)) (k : Nat) : Nat :=
  match es.find? (fun e => e.1 == k) with
  | some e => valNat e.2
  | none => s.nat k

/-- One entry's action, the other entries' values standing already. -/
def State.applyEntry (old : List (Nat × Val)) (m : Master) (s : State) (e : Nat × Val) : State :=
  match (s.putBack e.1 (assocGet old e.1)).actPlain m e.1 e.2 with
  | (s1, 0) => s1
  | (_, _) => s.put e.1 e.2

/-- Checks of one entry against the state after the commit of the others: check 6 on their values, then check 8 on a copy of the state in which
they have acted (14 R401 step 2). -/
def State.checkEntry (s : State) (m : Master) (es : List (Nat × Val)) (e : Nat × Val) : Nat :=
  let c := s.checkWrite (s.lookAfter es) m e.1 e.2
  if c ≠ 0 then c
  else
    let after := (es.filter (fun x => x.1 != e.1)).foldl (State.applyEntry s.od m) (s.putAll es)
    ((after.putBack e.1 (assocGet s.od e.1)).actPlain m e.1 e.2).2

/-- The state after entries in order, and those among them that the ones before do not yet admit. -/
def State.applyFirst (s : State) (m : Master) (es : List (Nat × Val)) : State × List (Nat × Val) :=
  es.foldl (fun (r : State × List (Nat × Val)) e =>
    match (r.1.putBack e.1 (assocGet s.od e.1)).actPlain m e.1 e.2 with
    | (s1, 0) => (s1, r.2)
    | (_, _) => (r.1, r.2 ++ [e])) (s.putAll es, [])

/-- Every entry applied at one instant, actions in order; one that rests on a later one acts after it. -/
def State.applyAll (s : State) (m : Master) (es : List (Nat × Val)) : State :=
  let r := s.applyFirst m es
  r.2.foldl (State.applyEntry s.od m) r.1

/-- The first entry that a check refuses. -/
def firstRefused (check : Nat × Val → Nat) : List (Nat × Val) → Option (Nat × Nat)
  | [] => none
  | e :: r => if check e ≠ 0 then some (e.1, check e) else firstRefused check r

/-- Steps 1 and 2 of a commit (14 R401). -/
def State.checkEntries (s : State) (m : Master) (es : List (Nat × Val)) : Option (Nat × Nat) :=
  (firstRefused (fun e => if s.lockedBy (otherMaster m) e.1 then abortState else 0) es).or (firstRefused (s.checkEntry m es) es)

/-- The commit of a stage (14 R401 steps 3 and 4). -/
def State.commit (s : State) (m : Master) : State × Nat :=
  let g := s.stage m
  match s.checkEntries m g.entries with
  | some (k, c) =>
    let s := s.setStage m { g with result := c, failing := k * 256, touched := s.clk }
    ((s.bump (obj 0x2006 5)).raise 0x1024 (masterIx m + 1), c)
  | none =>
    let s := s.applyAll m g.entries
    let s := s.setStage m { g with isOpen := false, entries := [], result := 0, failing := 0, tick := s.tick }
    ((s.bump (obj 0x2006 4)).raise 0x1023 (masterIx m + 1), 0)

/-- The action of a write of 0x2003:01. -/
def actStage (m : Master) (n : Nat) (s : State) : State × Nat :=
  let g := s.stage m
  match n with
  | 1 => if g.isOpen then (s, abortState) else (s.setStage m { g with isOpen := true, entries := [], touched := s.clk }, 0)
  | 2 => if g.isOpen then s.commit m else (s, abortState)
  | _ => if g.isOpen then (s.setStage m { g with isOpen := false, entries := [] }, 0) else (s, abortState)

def State.stageCommand (s : State) (m : Master) (n : Nat) : State := s.write m (obj 0x2003 1) (.num n) (actStage m n)

/-- STAGE_OPEN (14 R400). -/
def execStageOpen (m : Master) (s : State) : Host.Outcome State Fault Refusal := .next (s.stageCommand m 1)
/-- STAGE_COMMIT (14 R401). -/
def execStageCommit (m : Master) (s : State) : Host.Outcome State Fault Refusal := .next (s.stageCommand m 2)
/-- STAGE_DISCARD (14 R402). -/
def execStageDiscard (m : Master) (s : State) : Host.Outcome State Fault Refusal := .next (s.stageCommand m 3)
/-- STAGE_TIMEOUT (14 R402). -/
def execStageTimeout (m : Master) (s : State) : Host.Outcome State Fault Refusal :=
  let g := s.stage m
  if !g.isOpen then .next s
  else
    let s := s.atClk (g.touched + s.nat (obj 0x2003 4) * secTicks)
    .next (((s.setStage m { g with isOpen := false, entries := [] }).bump (obj 0x2006 6)).raise 0x1025 (masterIx m + 1))

/-! ### Store and restore (14 R403, R404) -/

abbrev sigSave : Nat := 0x65766173
abbrev sigLoad : Nat := 0x64616F6C

/-- The object persists through the store of 0x1010 by its row. -/
def storedKey (k : Nat) : Bool :=
  match objRow? (k / 256) (k % 256) with
  | some r => r.keep == .stored
  | none => false

/-- Objects that State holds in structures of their own and that persist: disabled valves, placements, bank images, active images of the
sequencer stores (none of a store that has taken no image), and backdrop references as they have drifted (04 R133, R141). -/
def State.storedApart (s : State) : List (Nat × Val) :=
  ((List.range s.valveCount).filter (fun v => (s.valve v).avail = 3)).map (fun v => (valveKey 0x2710 v, Val.num 3))
  ++ ((List.range 16).filter (fun g => let p := s.placementOf g; p.target.isSome || p.pinned)).map (fun g =>
      (obj 0x2604 (g + 1), Val.num (s.placementWord g)))
  ++ ((List.range 2).filter (fun b => !(s.pipe.banks.getD b {}).image.isEmpty)).map (fun b =>
      (obj (0x2501 + b) 1, Val.bytes (s.pipe.banks.getD b {}).image))
  ++ (s.groupList.filter (fun g => !(s.store g).active.image.isEmpty)).map (fun g => (groupKey 0x2809 g, Val.bytes (s.store g).active.image))
  ++ [0, 1, 2, 3].filterMap (fun p => (s.trackedRef p).map (fun b => (obj (0x2410 + 16 * p) 3, Val.bytes b)))

/-- The application parameters in force. -/
def State.appValues (s : State) : List (Nat × Val) :=
  s.storedApart.foldl (fun l e => assocSet l e.1 e.2)
    (s.od.filter (fun e => obj 0x2000 0 ≤ e.1 && storedKey e.1 && e.1 / 256 != 0x2604 && e.1 / 512 != 0x2710 / 2))

/-- The communication parameters in force; what has its default is not held. -/
def State.commValues (s : State) : List (Nat × Val) :=
  s.od.filter (fun e => e.1 < obj 0x2000 0 && storedKey e.1 && e.2 != s.dflt e.1)

/-- The highest sequence of the stores. -/
def State.storeSeq (s : State) : Nat := max (s.dict.stores.getD 0 {}).seq (s.dict.stores.getD 1 {}).seq

def State.setStore2 (s : State) (n : Nat) (x : Settings) : State := { s with dict := { s.dict with stores := s.dict.stores.set n x } }

/-- The write of the application part, and of the communication part into the island's memory: the values taken at acceptance. -/
def State.writeStores (s : State) (r : StoreRun) : State :=
  let s := if r.part ≠ 1 then
      let n := s.storeTarget
      ((s.setStore2 n { seq := s.storeSeq + 1, format := s.fwFormat, valid := true, values := r.app }).emit (.stored 9 [n])).fwRun 4 7 (Config.storeBytes (s.storeSeq + 1))
    else s
  if r.part ≠ 2 then { s with side := { s.side with nv := r.comm, nvNode := r.node } } else s

/-- The parts of the stores that a restore removes (14 R404). -/
def State.clearStores (s : State) (part : Nat) : State :=
  let s := if part ≠ 1 then
      { s with dict := { s.dict with stores := s.dict.stores.map (fun (x : Settings) => { x with values := [] }) } }
    else s
  if part ≠ 2 then { s with side := { s.side with nv := [] } } else s

/-- How a store or restore ends (14 R403, R404), or that it runs on. One that the power-fail warning abandons is refused by the sequence that
follows (log entry 144). -/
def State.storeEnds (s : State) (r : StoreRun) (ends : StoreEnd) : State × Nat :=
  let s := { s with dict := { s.dict with storing := none } }
  match ends with
  | .done =>
    if r.restore then ((s.clearStores r.part).raise 0x1028 (r.part + 1), 0)
    else (((s.writeStores r).bump (obj 0x2006 7)).raise 0x1026 (r.part + 1), 0)
  | .failed => (((if r.restore then s else s.spoilStore r.part).bump (obj 0x2006 8)).raise 0x1027 (r.part + 1), abortHardware)
  | .abandoned => (if r.restore then s else s.spoilStore r.part, abortState)
  | .running => ({ s with dict := { s.dict with storing := some r } }, 0)

/-- A store or restore of this part is refused: one runs already, the power-fail sequence runs, or the main side that the part belongs to is
down (14 R403). -/
def State.storeBarred (s : State) (part : Nat) : Bool :=
  s.dict.storing.isSome || s.power.seqAt.isSome || (part != 1 && !s.module.mainUp)

/-- The action of a write of 0x1010 (parts 0 all, 1 communication, 2 application). -/
def actStore (m : Master) (part value : Nat) (ends : StoreEnd) (s : State) : State × Nat :=
  if value ≠ sigSave then (s, abortData)
  else if s.storeBarred part then (s, abortState)
  else s.storeEnds { m := m, part := part, restore := false, app := s.appValues, comm := s.commValues, node := s.side.nodeId } ends

/-- The master holds a lock. -/
def State.holdsLock (s : State) (m : Master) : Bool :=
  s.dict.locks.any (fun l => match l with | some l => l.owner == m && s.clk < l.until_ | none => false)

/-- The action of a write of 0x1011: the part is removed from the stores; values in force stay. -/
def actRestore (m : Master) (part value : Nat) (ends : StoreEnd) (s : State) : State × Nat :=
  if value ≠ sigLoad then (s, abortData)
  else if s.storeBarred part || s.holdsLock (otherMaster m) then (s, abortState)
  else s.storeEnds { m := m, part := part, restore := true } ends

/-- The store or restore of this master and part that runs, where this command brings its end. -/
def State.storeToEnd (s : State) (m : Master) (part : Nat) (restore : Bool) (ends : StoreEnd) : Option StoreRun :=
  s.dict.storing.filter (fun r => ends != .running && r.m == m && r.part == part && r.restore == restore)

/-- A store or restore that runs ends and is answered. -/
def State.storeAnswered (s : State) (r : StoreRun) (ends : StoreEnd) : State :=
  match s.storeEnds r ends with
  | (s, c) => if s.reachable r.m then s.answer r.m (obj (if r.restore then 0x1011 else 0x1010) (r.part + 1)) c [] else s

/-- STORE_PARAMETERS (14 R403). -/
def execStoreParameters (m : Master) (part : Fin 3) (value : Nat) (ends : StoreEnd) (s : State) : Host.Outcome State Fault Refusal :=
  match s.storeToEnd m part false ends with
  | some r => .next (s.storeAnswered r ends)
  | none =>
    if ends = .running then .next (s.writeLater m (obj 0x1010 (part + 1)) (.num value) (actStore m part value ends))
    else .next (s.write m (obj 0x1010 (part + 1)) (.num value) (actStore m part value ends))

/-- RESTORE_DEFAULTS (14 R404). -/
def execRestoreDefaults (m : Master) (part : Fin 3) (req : RestoreReq) (s : State) : Host.Outcome State Fault Refusal :=
  match s.storeToEnd m part true req.ends with
  | some r => .next (s.storeAnswered r req.ends)
  | none =>
    if req.ends = .running then .next (s.writeLater m (obj 0x1011 (part + 1)) (.num req.value) (actRestore m part req.value req.ends))
    else .next (s.write m (obj 0x1011 (part + 1)) (.num req.value) (actRestore m part req.value req.ends))

/-! ### Every object (14 R391, R393) -/

/-- The action of a write of any object. -/
def State.act (s : State) (m : Master) (k : Nat) (v : Val) : State × Nat :=
  let n := valNat v
  if k = obj 0x2002 1 then actLock m n s
  else if k = obj 0x2003 1 then actStage m n s
  else if k / 256 = 0x1010 then actStore m (k % 256 - 1) n .done s
  else if k / 256 = 0x1011 then actRestore m (k % 256 - 1) n .done s
  else s.actPlain m k v

/-- A write of any object, checked (14 R393). -/
def State.writeAny (s : State) (m : Master) (k : Nat) (v : Val) : State × Nat := s.tryWrite m k v (fun s => s.act m k v)

/-- OBJECT_WRITE (14 R393): an object with no row of its own. -/
def execObjectWrite (m : Master) (index sub : Nat) (v : Val) (s : State) : Host.Outcome State Fault Refusal :=
  let k := obj (index % 65536) (sub % 256)
  .next ((if k = obj 0x2D05 2 then s.clearWrite m (valData v) else s.write m k v (fun s => s.act m k v)).noteReset s)

/-- A value of an object from the bytes of a transfer. A length that does not fit the type stays bytes, and fails check 5. -/
def valOfBytes (k : Nat) (d : List Byte) : Val :=
  match objRow? (k / 256) (k % 256) with
  | some r => (r.type.ofBytes d).getD (.bytes d)
  | none => .bytes d

/-- Bytes that a subindex takes in a whole-object transfer: its type's, for a block its stated length, and for a string or a block of no stated
length those that it reads with (log entry 33). -/
def State.widthIn (s : State) (m : Master) (k : Nat) : Nat :=
  match objRow? (k / 256) (k % 256) with
  | some r => if r.type.size = 0 then (s.domainSize k).getD (s.shownBytes m k).length else r.type.size
  | none => 0

/-- The subindexes of a whole-object transfer with their bytes; none where the length does not match. -/
def splitWhole : List (Nat × Nat) → List Byte → Option (List (Nat × List Byte))
  | [], d => if d.isEmpty then some [] else none
  | (k, w) :: r, d => if d.length < w then none else (splitWhole r (d.drop w)).map ((k, d.take w) :: ·)

/-- The subindex is ro or const: its bytes are skipped. -/
def readOnlyKey (k : Nat) : Bool :=
  match objRow? (k / 256) (k % 256) with
  | some r => r.access == .ro || r.access == .const
  | none => true

/-- One part of a whole-object write that has passed every check acts. -/
def State.applyPart (m : Master) (s : State) (e : Nat × Val) : State :=
  match s.act m e.1 e.2 with
  | (s1, 0) => s1
  | (_, _) => s.put e.1 e.2

/-- The stage has room for these writes (14 R400). -/
def State.stageRoom (s : State) (m : Master) (es : List (Nat × Val)) : Bool :=
  decide ((s.stage m).entries.length + (es.filter (fun e => !(s.stage m).entries.any (fun x => x.1 == e.1))).length ≤ 128)

/-- Writable parts of a whole-object write (14 R391, R393): those that the master's open stage takes are entered there, the others act at once. -/
def State.writeParts (s : State) (m : Master) (es : List (Nat × Val)) : State × Nat :=
  let staged := if (s.stage m).isOpen then es.filter (fun e => stageable e.1) else []
  let now_ := if (s.stage m).isOpen then es.filter (fun e => !stageable e.1) else es
  match firstRefused (fun e => s.checkWrite s.nat m e.1 e.2) es with
  | some (_, c) => (s, c)
  | none =>
    if !s.stageRoom m staged then (s, abortMemory)
    else if now_.any (fun e => s.lockRefuses m e.1 e.2) then (s.bump (obj 0x2006 1), abortState)
    else
      match firstRefused (fun e => (s.act m e.1 e.2).2) now_ with
      | some (_, c) => (s, c)
      | none => (now_.foldl (State.applyPart m) (staged.foldl (fun s e => (s.stageWrite m e.1 e.2).1) s), 0)

/-- A whole-object write (14 R391): every writable subindex passes, or nothing is written. -/
def State.writeWhole (s : State) (m : Master) (index : Nat) (d : List Byte) : State × Nat :=
  let keys := (subsOf index).map (fun n => obj index n)
  if !s.check0 m (obj index 1) then (s, abortState)
  else if !indexExists index then (s, abortNoObject)
  else if keys.isEmpty then (s, abortSub)
  else
    match splitWhole (keys.map (fun k => (k, s.widthIn m k))) d with
    | none => (s, abortLength)
    | some parts =>
      let es := (parts.filter (fun p => !readOnlyKey p.1)).map (fun p => (p.1, valOfBytes p.1 p.2))
      match es with
      | [] => (s, abortReadOnly)
      | [e] => s.writeAny m e.1 e.2
      | _ => s.writeParts m es

/-! ### Dictionary transactions over Strand (13 R377) -/

/-- The transactions that a requester has outstanding. -/
def State.dictOpen (s : State) (src : Nat) : List DictParts := s.strand.writes.filter (fun e => e.src == src)

/-- DICT_READ (13 R377): the value from the byte offset on; the ninth transaction beside eight that are outstanding is aborted. -/
def execDictRead (src txn index sub : Nat) (part : DictPart) (s : State) : Host.Outcome State Fault Refusal :=
  let index := index % 65536
  let sub := sub % 256
  if !s.reachable .host then .next s
  else if 8 ≤ (s.dictOpen src).length then .next (s.dictAnswer src txn index sub part.whole abortMemory [])
  else
    match (if part.whole then s.readWhole .host index else s.readObject .host (obj index sub)) with
    | (s, c, d) => .next (s.dictAnswerFrom part.offset src txn index sub part.whole c d)

def State.dropWrite (s : State) (src txn : Nat) : State :=
  { s with strand := { s.strand with writes := s.strand.writes.filter (fun e => !(e.src == src && e.txn == txn)) } }

/-- A segment kept in a write in progress. -/
def State.keepPart (s : State) (e : DictParts) : State :=
  let s := s.dropWrite e.src e.txn
  { s with strand := { s.strand with writes := s.strand.writes ++ [e] } }

/-- The write is complete: the object is written atomically and answered; a correct clear response is answered by the clear's end. -/
def State.dictFinish (s : State) (e : DictParts) : State :=
  let s0 := s
  let s := s.dropWrite e.src e.txn
  let k := obj e.index e.sub
  match (if e.whole then s.writeWhole .host e.index e.data else s.writeAny .host k (valOfBytes k e.data)) with
  | (s, c) =>
    (if clears e.index e.sub e.whole && c = 0 then s.clearBy (.dict e.src e.txn e.sub e.whole) else s.dictAnswer e.src e.txn e.index e.sub e.whole c []).noteReset s0

/-- A segment of the staging image is programmed as it arrives (18 R481); the write is answered with its last segment, or where it fails. -/
def State.dictStage (s : State) (e : DictParts) (offset : Nat) (d : List Byte) : State :=
  let k := obj e.index e.sub
  match s.tryWrite .host k (.bytes d) (actStaging .host offset e.total d) with
  | (s, c) =>
    if c ≠ 0 ∨ e.total ≤ offset + d.length then (s.dropWrite e.src e.txn).dictAnswer e.src e.txn e.index e.sub e.whole c []
    else s.keepPart e

/-- DICT_WRITE (13 R377). -/
def execDictWrite (src txn index sub : Nat) (whole : Bool) (offset total : Nat) (data : List Byte) (s : State) :
    Host.Outcome State Fault Refusal :=
  let index := index % 65536
  let sub := sub % 256
  let open_ := s.dictOpen src
  let old := open_.find? (fun e => e.txn == txn)
  let staging := index = 0x2E01 ∧ sub = 1 ∧ whole = false
  if !s.reachable .host then .next s
  else
    match old with
    | none =>
      if 8 ≤ open_.length then .next (s.dictAnswer src txn index sub whole abortMemory [])
      else if offset ≠ 0 then .next (s.dictAnswer src txn index sub whole abortSequence [])
      else
        let e : DictParts := ⟨src, txn, index, sub, whole, total, data, s.clk⟩
        .next (if staging then s.dictStage e 0 data else if total ≤ data.length then s.dictFinish e else s.keepPart e)
    | some e =>
      if e.last + secTicks < s.clk then .next ((s.dropWrite src txn).dictAnswer src txn index sub whole abortTimeout [])
      else if offset ≠ e.data.length ∨ total ≠ e.total ∨ index ≠ e.index ∨ sub ≠ e.sub ∨ whole ≠ e.whole then
        .next ((s.dropWrite src txn).dictAnswer src txn index sub whole abortSequence [])
      else
        let e := { e with data := e.data ++ data, last := s.clk }
        .next (if staging then s.dictStage e offset data else if total ≤ e.data.length then s.dictFinish e else s.keepPart e)

/-- DICT_SEGMENT_TIMEOUT (13 R377): more than 1 s since the last segment. -/
def execDictSegmentTimeout (src txn : Nat) (s : State) : Host.Outcome State Fault Refusal :=
  match s.strand.writes.find? (fun e => e.src == src && e.txn == txn) with
  | some e =>
    let s := s.atClk (e.last + secTicks + 1)
    .next ((s.dropWrite src txn).dictAnswer src txn e.index e.sub e.whole abortTimeout [])
  | none => .next s

end Sys2Proof.Machine
end

