-- ==== Sys2Proof/Machine/Sideband.lean ====
section
/-!
DEFINITION. The side-band management bus (15): the controller, NMT, SDO, PDO, SYNC, EMCY, heartbeat and LSS.
-/
namespace Sys2Proof.Machine

def State.setSide (s : State) (x : Sideband) : State := { s with side := x }

/-! ### Bit timing (15 R412 to R414) -/

/-- BRP of each index of R414; index 1 has none. -/
def brpOf (index : Nat) : Nat := [2, 0, 4, 8, 16, 20, 40, 100, 200].getD index 0

/-- The entry is supported: table 0 but index 1, table 0x80 from index 4 on. -/
def timingOk (table index : Nat) : Bool :=
  index ≤ 8 && ((table == 0 && index != 1) || (table == 0x80 && 4 ≤ index))

/-- CANBT of a supported entry: SJW 2, TSEG2 3, TSEG1 21, [23] for table 0x80. -/
def canbtOf (e : Nat × Nat) : Nat := (if e.1 = 0x80 then 0x800000 else 0) + 0x154000 + (brpOf e.2 - 1)

/-- One bit in ticks of 1.25 ns: BRP × 25 / 50 MHz. -/
def State.bitTicks (s : State) : Nat := 400 * (bits s.side.canbt 9 0 + 1)

/-! ### Receive buffers (15 R416, R417) -/

/-- A heartbeat consumer entry takes the frame: its time is not 0, and it names the node (15 R432). -/
def State.consumes (s : State) (id n : Nat) : Bool :=
  let v := s.nat (obj 0x1016 (n + 1))
  bits v 15 0 != 0 && 0x700 + bits v 23 16 == id

/-- A heartbeat is heard by every entry that names its node. -/
def State.hear (s : State) (id : Nat) : State :=
  s.setSide { s.side with consumers := (List.range 4).map (fun n =>
    let c := s.side.consumers.getD n {}
    if s.consumes id n then { c with heard := some s.clk, timedOut := false } else c) }

/-- The receive buffer of a COB-ID; before a node-ID is configured only that of LSS, and NMT's while one is pending. -/
def State.rxBufferOf (s : State) (id : Nat) : Option Nat :=
  let x := s.side
  let named : Nat → Bool := fun k => !bitOf (s.nat k) 31 && bits (s.nat k) 10 0 == id
  if id = 0x7E5 then some 3
  else if x.nodeId = 0xFF then (if id = 0 ∧ x.pendingId ≠ 0xFF then some 0 else none)
  else if id = 0 then some 0
  else if named (obj 0x1005 0) then some 1
  else if named (obj 0x1200 1) then some 2
  else
    match (List.range 4).find? (fun n => named (obj (0x1400 + n) 1)) with
    | some n => some (4 + n)
    | none => ((List.range 4).find? (s.consumes id)).map (8 + ·)

/-- The island has taken the frame of a buffer's primary; the shadow's moves in. -/
def State.takeRx (s : State) (n : Nat) : State :=
  let b := s.side.rx.getD n {}
  s.setSide { s.side with rx := s.side.rx.set n { primary := b.shadow, shadow := none } }

/-! ### Error states (15 R419 to R421) -/

/-- The state of the counters. -/
def canStateOf (tec rec_ : Nat) : CanState :=
  if 255 < tec then .busOff else if 128 ≤ tec ∨ 128 ≤ rec_ then .passive else if 96 ≤ tec ∨ 96 ≤ rec_ then .warning else .active

/-- REC and TEC as events carry them. -/
def State.canArg (s : State) : Nat := s.side.rec_ % 256 * 256 + min s.side.tec 255

/-- EMCY 0x8140 of a bus-off (15 R420). -/
def State.busOffEmcy (s : State) : State :=
  (s.setSide { s.side with afterBusOff := false }).queueEmcy ⟨0x8140, 0xB003, 2, s.side.busOffArg % 65536⟩

/-- Bus-off is entered: counted for pacing; the EMCY frame waits for the recovery. One still owed for the last bus-off is queued now. -/
def State.enterBusOff (s : State) : State :=
  let arg := s.canArg
  let recent := s.clk :: s.side.busOffs.filter (fun t => s.clk < t + secTicks)
  let idle := match s.side.busOffs.head? with | some t => decide (t + secTicks ≤ s.clk) | none => true
  let was := s.side.paced && !idle
  let paced := was || decide (8 ≤ recent.length)
  let s := if s.side.afterBusOff then s.busOffEmcy else s
  let s := s.setSide { s.side with busOffs := recent, busOffAt := s.clk, busOffArg := arg, paced := paced }
  let s := (s.raiseLow 0xB003 2 arg)
  let s := ({ s with backdrop := { s.backdrop with stripCode := 0xB003, stripAcked := false } }).severeTrigger 0xB003 2 arg
  if paced && !was then s.raise 0xB005 arg else s

/-- The error state follows the counters; each state entered upwards raises its event. -/
def State.settleCan (s : State) : State :=
  let was := s.side.errors.level
  let now := canStateOf s.side.tec s.side.rec_
  let s := s.setSide { s.side with errors := now }
  let s := if was < 1 ∧ 1 ≤ now.level then s.raise 0xB001 s.canArg else s
  let s := if was < 2 ∧ 2 ≤ now.level then s.raise 0xB002 s.canArg else s
  if was < 3 ∧ now.level = 3 then s.enterBusOff else s

/-- CAN_BUS_ERROR (15 R419): errors raise TEC and REC. -/
def execCanBusError (tec rec_ : Nat) (s : State) : Host.Outcome State Fault Refusal :=
  if !s.canFed || s.side.errors = .busOff then .next s
  else .next (s.setSide { s.side with tec := s.side.tec + tec, rec_ := s.side.rec_ + rec_ }).settleCan

/-- BUS_OFF_RECOVERY (15 R420, R421): after 128 × 11 recessive bits, paced after frequent bus-offs. -/
def execBusOffRecovery (s : State) : Host.Outcome State Fault Refusal :=
  if !s.canFed || s.side.errors ≠ .busOff then .next s
  else
    let due := s.side.busOffAt + 1408 * s.bitTicks
    let due := match s.side.paced, s.side.recoveredAt with
      | true, some t => max due (t + 100 * msTicks)
      | _, _ => due
    let s1 := s.atClk due
    let s1 := s1.setSide { s1.side with tec := 0, rec_ := 0, errors := .active, recoveredAt := some s1.clk, afterBusOff := true }
    .next ((if s1.side.tx.isEmpty then s1.busOffEmcy else s1).noteReset s)

/-- REC after a reception: one lower; a value free in 119 to 127 where it stood above 127 (log entry 31). -/
def State.received_ (s : State) : State :=
  if 127 < s.side.rec_ then
    match s.draw with
    | (n, s) => s.setSide { s.side with rec_ := 119 + Config.receiveCount n % 9 }
  else s.setSide { s.side with rec_ := s.side.rec_ - 1 }

/-- A frame lands in a buffer: primary, shadow, or over the shadow. -/
def State.landFrame (s : State) (n : Nat) (d : List Byte) : State :=
  let b := s.side.rx.getD n {}
  let set := fun (x : RxBuffer) => s.setSide { s.side with rx := s.side.rx.set n x }
  if b.primary.isNone then set { b with primary := some d }
  else if b.shadow.isNone then set { b with shadow := some d }
  else ((set { b with shadow := some d }).bump (obj 0x2D02 0x0C)).raiseSlow 0xB006 n

/-- CAN_FRAME_RECEIVED (15 R411, R416, R417; 00 R16): a base frame lands in its buffer; a heartbeat is taken at once. A CAN FD frame is
answered with an error frame, and is a receive error. -/
def execCanFrameReceived (kind : CanKind) (id : Nat) (data : List Byte) (s : State) : Host.Outcome State Fault Refusal :=
  if !s.canFed || s.side.errors = .busOff then .next s
  else
    match kind with
    | .fd => .next ((s.setSide { s.side with rec_ := s.side.rec_ + 1 }).emit .canError).settleCan
    | .extended | .remote => .next (s.received_.settleCan.noteReset s)
    | .base =>
      let s1 := s.received_.settleCan
      match s1.rxBufferOf (id % 2048) with
      | none => .next (s1.noteReset s)
      | some n =>
        if n < 8 then .next ((s1.landFrame n data).noteReset s)
        else .next ((s1.hear (id % 2048)).noteReset s)

/-! ### Transmission (15 R418, R420) -/

def State.tpdo (s : State) (n : Nat) : Tpdo := s.side.tpdos.getD n {}
def State.setTpdo (s : State) (n : Nat) (t : Tpdo) : State := s.setSide { s.side with tpdos := s.side.tpdos.set n t }

/-- The pending frame with the lowest COB-ID; of equal ones the first. -/
def lowestTx : List TxFrame → Option TxFrame
  | [] => none
  | f :: r =>
    match lowestTx r with
    | some g => if g.id < f.id then some g else some f
    | none => some f

/-- A TPDO has been sent: its content, the time, and a changed type or inhibit time that takes effect with it (15 R426, R439). -/
def State.tpdoSent (s : State) (n : Nat) (d : List Byte) : State :=
  s.setTpdo n { s.tpdo n with
    sent := some d, sentAt := some s.clk, type := s.nat (obj (0x1800 + n) 2), inhibit := s.nat (obj (0x1800 + n) 3) }

/-- The controller can send. -/
def State.canSend (s : State) : Bool := s.canFed && s.side.errors != .busOff && s.side.switching.isNone

/-- CAN_FRAME_SENT (15 R418, R420, R430): the pending frame with the lowest COB-ID has been sent. -/
def execCanFrameSent (s : State) : Host.Outcome State Fault Refusal :=
  match lowestTx s.side.tx with
  | none => .next s
  | some f =>
    if !s.canSend then .next s
    else
      let x := s.side
      let emcy := f.buffer == 17
      let s1 := s.setSide { x with
        tx := dropFirst (· == f) x.tx, tec := x.tec - 1
        errorField := if emcy then (f.entry :: x.errorField).take 8 else x.errorField
        emcyAt := if emcy then some s.clk else x.emcyAt }
      let s1 := s1.emit (.can f.id f.data)
      let s1 := if 20 ≤ f.buffer then s1.tpdoSent (f.buffer - 20) f.data else s1
      let s1 := if x.afterBusOff then s1.busOffEmcy else s1
      .next (s1.settleCan.noteReset s)

/-- CLOCK_SOURCE_CHANGE (15 R410): the peripheral clock while the main side is up and its root PLL locked. -/
def execClockSourceChange (s : State) : Host.Outcome State Fault Refusal :=
  if s.islandFed then .next (s.setSide { s.side with peripheralClock := s.module.mainUp && s.time.pllLocked }) else .next s

/-! ### NMT (15 R422, R423) -/

/-- A pending heartbeat carries the NMT state in force; the boot-up message stays (15 R418). -/
def TxFrame.inNmt (f : TxFrame) (x : NmtState) : TxFrame :=
  if f.buffer = 18 ∧ f.data ≠ [0#8] then { f with data := leBytes 1 x.code } else f

/-- Enter an NMT state; event 0xB008. In Stopped no transfer goes on. -/
def State.enterNmt (s : State) (x : NmtState) : State :=
  if s.side.nmt = x then s
  else
    let s := s.setSide { s.side with nmt := x, sdo := if x = .stopped then none else s.side.sdo, tx := s.side.tx.map (·.inNmt x) }
    s.raise 0xB008 x.code

/-- The NMT command reaches this node: addressed to all or to it. A node that has only a pending node-ID listens for its reset. -/
def State.nmtFor (s : State) (node : Nat) : Bool :=
  let x := s.side
  s.canSend &&
    (if x.nodeId = 0xFF then x.pendingId != 0xFF && (node == 0 || node == x.pendingId) else node == 0 || node == x.nodeId)

/-- A command that changes the NMT state alone. -/
def State.nmtChange (s : State) (node : Nat) (x : NmtState) : State :=
  if !s.nmtFor node then s
  else
    let s := s.takeRx 0
    if s.side.nmt = .initialisation then s else s.enterNmt x

/-- NMT_START (15 R423). -/
def execNmtStart (node : Nat) (s : State) : Host.Outcome State Fault Refusal := .next (s.nmtChange node .operational)
/-- NMT_STOP (15 R423). -/
def execNmtStop (node : Nat) (s : State) : Host.Outcome State Fault Refusal := .next (s.nmtChange node .stopped)
/-- NMT_PRE_OPERATIONAL (15 R423). -/
def execNmtPreOperational (node : Nat) (s : State) : Host.Outcome State Fault Refusal := .next (s.nmtChange node .preOperational)

/-- A stored COB-ID that has its predefined value, valid or not, follows the node-ID; another keeps its value (15 R435). -/
def State.follow (s : State) (e : Nat × Val) : Val :=
  match objRow? (e.1 / 256) (e.1 % 256) with
  | some r =>
    let predefined := fun (node : Nat) => valNat (r.default s.variant node (e.1 / 256) (e.1 % 256)) % 2 ^ 31
    if cobEntry e.1 && valNat e.2 % 2 ^ 31 == predefined s.side.nvNode then
      .num ((valNat e.2 / 2 ^ 31 * 2 ^ 31 + predefined s.side.nodeId : Nat) : Int)
    else e.2
  | none => e.2

/-- Communication objects as the island's memory holds them, the others at their defaults. -/
def State.reloadComm (s : State) : State :=
  let s := { s with od := s.side.nv.foldl (fun l (e : Nat × Val) => assocSet l e.1 (s.follow e)) (s.od.filter (fun (e : Nat × Val) => obj 0x2000 0 ≤ e.1)) }
  s.setSide { s.side with
    tpdos := (List.range 4).map (fun n =>
      { type := s.nat (obj (0x1800 + n) 2), inhibit := s.nat (obj (0x1800 + n) 3) : Tpdo })
    rpdos := (List.range 4).map (fun n => { type := s.nat (obj (0x1400 + n) 2) : Rpdo })
    consumers := List.replicate 4 { written := s.clk }
    heartbeatAt := s.clk }

/-- The controller restarts with a node-ID and a bit timing; with a node-ID the boot-up message is sent and Pre-operational entered. An EMCY
frame owed for a bus-off follows the first frame sent (15 R420). -/
def State.bootNode (s : State) (id canbt : Nat) : State :=
  let s := (s.setSide { s.side with
    nodeId := id, canbt := canbt, tec := 0, rec_ := 0, errors := .active, busOffs := [], paced := false
    recoveredAt := none, rx := List.replicate 12 {}, tx := [], sdo := none, lssConfig := false, lssPos := 0, switching := none }).enterNmt
      .initialisation
  let s := s.reloadComm
  if id = 0xFF then s
  else (s.queueTx { buffer := 18, id := 0x700 + id, data := [0#8] }).enterNmt .preOperational

/-- Reset communication (15 R423). -/
def State.resetComm (s : State) : State := s.bootNode s.side.pendingId (canbtOf s.side.pendingEntry)

/-- NMT_RESET_COMMUNICATION (15 R423). -/
def execNmtResetCommunication (node : Nat) (s : State) : Host.Outcome State Fault Refusal :=
  if s.nmtFor node then .next (s.resetComm.noteReset s) else .next s

/-- EMCY frames that a start of the island loses: those queued, and that of a bus-off not yet queued. -/
def Sideband.owed (x : Sideband) : Nat := x.emcy.length + boolNat (x.afterBusOff || x.errors == .busOff)

/-- The island starts: its CAN node from its own memory (15 R434). The EMCY frames it loses are counted (R430). -/
def State.islandBoot (s : State) : State :=
  let x := s.side
  let s := if x.owed = 0 then s else s.bumpBy (obj 0x2D02 0x0D) x.owed
  let s := s.setSide { ({} : Sideband) with
    storedId := x.storedId, storedEntry := x.storedEntry, pendingId := x.storedId, pendingEntry := x.storedEntry, nv := x.nv, nvNode := x.nvNode }
  s.bootNode x.storedId (canbtOf x.storedEntry)

/-- Island reset (12 R344, kind 4): the island restarts, and nothing else changes. -/
def State.islandReset (s : State) : State := ({ s with module := { s.module with resetKind := 4 } }).islandBoot

/-- NMT_RESET_NODE (15 R423): reset communication, and a main-side restart while the main side is on, else an island reset. -/
def execNmtResetNode (node : Nat) (s : State) : Host.Outcome State Fault Refusal :=
  if !s.nmtFor node then .next s
  else
    let s1 := s.resetComm
    .next ((if s1.power.seqAt.isSome then s1
      else if s1.module.mainUp || s1.module.loader then s1.beginRestart
      else s1.islandReset).noteReset s)

/-! ### SDO (15 R424) -/

/-- The abort codes of a transfer's protocol (14 R406). -/
abbrev abortToggle : Nat := 0x05030000
abbrev abortSpecifier : Nat := 0x05040001
abbrev abortCrc : Nat := 0x05040004

/-- Segments of a block that the server asks of a client (15 R424 allows 1 to 127; log entry 34). -/
abbrev sdoBlock : Nat := 127

/-- The open transfer goes on. -/
def State.sdoKeep (s : State) (t : SdoTransfer) : State := s.setSide { s.side with sdo := some { t with last := s.clk } }

/-- The staging image, whose bytes are programmed as they arrive (18 R481). -/
def SdoTransfer.stages (t : SdoTransfer) : Bool := t.index == 0x2E01 && t.sub == 1 && !t.whole

/-- A download that is complete is written; the staging image is in its place already. That of a clear stays open until the clear has
completed (17 R471). -/
def State.sdoWrite (s : State) (t : SdoTransfer) : State :=
  let k := obj t.index t.sub
  match (if t.data.length ≠ t.total.getD t.data.length then (s, abortLength)
    else if t.stages then (s, 0)
    else if t.whole then s.writeWhole .mgmt t.index t.data else s.writeAny .mgmt k (valOfBytes k t.data)) with
  | (s, c) =>
    if clears t.index t.sub t.whole && c = 0 then
      (s.setSide { s.side with sdo := some { t with last := s.clk, phase := .waits t.phase.ended } }).clearBy .sdo
    else if s.reachable .mgmt then s.sdoFinish t c else s

/-- Bytes of a download arrive: held, and those of the staging image programmed (18 R481); the code says whether they are refused. -/
def State.sdoTake (s : State) (t : SdoTransfer) (d : List Byte) : State × Nat :=
  if t.stages && !d.isEmpty then
    s.tryWrite .mgmt (obj 0x2E01 1) (.bytes d) (actStaging .mgmt t.data.length (t.total.getD 0) d)
  else (s, 0)

/-- Bytes of a download arrive: the transfer that holds them, or none where they end it. -/
def State.sdoBytesIn (s : State) (t : SdoTransfer) (d : List Byte) : State × Option SdoTransfer :=
  match s.sdoTake t d with
  | (s, 0) => (s, some { t with data := t.data ++ d })
  | (s, c) => (s.sdoAbort t.index t.sub c, none)

/-- The last bytes of a download arrive, and it is written. -/
def State.sdoLast (s : State) (t : SdoTransfer) (d : List Byte) : State :=
  match s.sdoBytesIn t d with
  | (s, some t) => s.sdoWrite t
  | (s, none) => s

/-- A download starts, where no transfer is open. -/
def State.sdoOpen (s : State) (index sub : Nat) (complete : Bool) (size : Option Nat) (phase : SdoPhase) (cmd low : Nat) : State :=
  (s.sdoKeep ⟨index % 65536, sub % 256, complete && sub % 256 == 1, size, [], s.clk, phase⟩).sdoFrame cmd (index % 65536) (sub % 256) low

/-- The answer to a block of segments: the last one received in order, and the size of the next block. -/
def State.sdoBlockAnswer (s : State) (seq : Nat) : State := s.sdoBytes 0xA2 (leBytes 1 seq ++ leBytes 1 sdoBlock)

/-- A request frame in an open download (CiA 301): the toggle bits alternate; a segment of a block that is out of order is left to be sent
again; after the last one the number of unused bytes and the CRC end the transfer. -/
def State.sdoDownloading (s : State) (t : SdoTransfer) (r : SdoDown) (d : List Byte) : State :=
  match r, t.phase with
  | .segment toggle last, .download due =>
    if toggle ≠ due then s.sdoAbort t.index t.sub abortToggle
    else
      match s.sdoBytesIn t (d.take 7) with
      | (s, some t) =>
        if last then s.sdoWrite t
        else (s.sdoKeep { t with phase := .download (!due) }).sdoBytes (0x20 + 16 * boolNat toggle) []
      | (s, none) => s
  | .blockSegment seq last, .blockDownload crc next =>
    if seq = 0 ∨ sdoBlock < seq then s.sdoAbort t.index t.sub abortSequence
    else if seq = next ∧ last then
      (s.sdoKeep { t with data := t.data ++ d.take 7, phase := .blockDownloadEnd crc }).sdoBlockAnswer seq
    else if seq = next then
      match s.sdoBytesIn t (d.take 7) with
      | (s, some t) =>
        if seq = sdoBlock then (s.sdoKeep { t with phase := .blockDownload crc 1 }).sdoBlockAnswer seq
        else s.sdoKeep { t with phase := .blockDownload crc (next + 1) }
      | (s, none) => s
    else if last ∨ seq = sdoBlock then (s.sdoKeep { t with phase := .blockDownload crc 1 }).sdoBlockAnswer (next - 1)
    else s.sdoKeep t
  | .blockEnd unused crcSent, .blockDownloadEnd crc =>
    let data := t.data.take (t.data.length - unused % 8)
    if crc && decide (crcSent % 65536 ≠ crc16From 0 data) then s.sdoAbort t.index t.sub abortCrc
    else
      let held := data.length - (7 - unused % 8)
      s.sdoLast { t with data := data.take held } (data.drop held)
  | .abort _, _ => s.setSide { s.side with sdo := none }
  | _, _ => s.sdoAbort t.index t.sub abortSpecifier

/-- A request frame of a download where no transfer is open. -/
def State.sdoDownloadStart (s : State) (index sub : Nat) (complete : Bool) (d : List Byte) (r : SdoDown) : State :=
  match r with
  | .expedited =>
    s.sdoLast ⟨index % 65536, sub % 256, complete && sub % 256 == 1, some d.length, [], s.clk, .waits 0x60⟩ d
  | .start size => s.sdoOpen index sub complete size (.download false) 0x60 0
  | .blockStart crc size => s.sdoOpen index sub complete size (.blockDownload crc 1) 0xA4 sdoBlock
  | .abort _ => s
  | .segment .. | .blockSegment .. | .blockEnd .. => s.sdoAbort 0 0 abortSpecifier

/-- A request frame arrives more than 1 s after the last frame of the open transfer (15 R424). -/
def State.sdoLate (s : State) : Bool := s.side.sdo.elim false (fun t => t.last + secTicks < s.clk)

/-- A request frame is taken by the server; a transfer that waited too long is aborted with it (15 R424). -/
def State.sdoRequest (s : State) : State :=
  let s := s.takeRx 2
  match s.side.sdo with
  | some t => if s.sdoLate then s.sdoAbort t.index t.sub abortTimeout else s
  | none => s

/-- SDO_DOWNLOAD (15 R424): a request frame of a download. -/
def execSdoDownload (index sub : Nat) (complete : Bool) (data : List Byte) (request : SdoDown) (s : State) : Host.Outcome State Fault Refusal :=
  if !s.reachable .mgmt then .next s
  else if s.sdoLate then .next s.sdoRequest
  else
    let s1 := s.sdoRequest
    match s1.side.sdo with
    | some t => .next ((s1.sdoDownloading t request data).noteReset s)
    | none => .next ((s1.sdoDownloadStart index sub complete data request).noteReset s)

/-- The first byte of an upload's answer: expedited for up to four bytes, else with the length. -/
def uploadCmd (n : Nat) : Nat := if 1 ≤ n ∧ n ≤ 4 then 0x43 + 4 * (4 - n) else 0x41

/-- An object is read for an upload: its bytes, or none where the read ends the transfer. -/
def State.sdoRead (s : State) (index sub : Nat) (complete : Bool) : State × Option (List Byte) :=
  match (if complete && sub == 1 then s.readWhole .mgmt index else s.readObject .mgmt (obj index sub)) with
  | (s, 0, d) => (s.answer .mgmt (obj index sub) 0 d, some d)
  | (s, c, _) => (s.sdoAbort index sub c, none)

/-- Segments of a value: one for every 7 bytes, and one for an empty value. -/
def segmentsOf (d : List Byte) : Nat := max 1 (ceilDiv d.length 7)

/-- Segments of a block upload from one on, numbered from 1; the last of the value carries bit 7. -/
def State.sdoSegments (d : List Byte) (first : Nat) : Nat → State → State
  | 0, s => s
  | n + 1, s =>
    let s := State.sdoSegments d first n s
    s.sdoBytes (n + 1 + (if first + n + 1 = segmentsOf d then 128 else 0)) ((d.drop (7 * (first + n))).take 7)

/-- A block of an upload is sent: at most `size` segments after those acknowledged. -/
def State.sdoSendBlock (s : State) (t : SdoTransfer) (crc : Bool) (acked size : Nat) : State :=
  let n := min size (segmentsOf t.data - acked)
  State.sdoSegments t.data acked n (s.sdoKeep { t with phase := .blockUpload crc acked n })

/-- A request frame in an open upload (CiA 301). -/
def State.sdoUploading (s : State) (t : SdoTransfer) (r : SdoUp) : State :=
  match r, t.phase with
  | .segment toggle, .upload due =>
    if toggle ≠ due then s.sdoAbort t.index t.sub abortToggle
    else
      let d := t.data.take 7
      let last := t.data.length ≤ 7
      let s := if last then s.setSide { s.side with sdo := none } else s.sdoKeep { t with data := t.data.drop 7, phase := .upload (!due) }
      s.sdoBytes (16 * boolNat toggle + 2 * (7 - d.length) + boolNat last) d
  | .blockGo, .blockUploadStart crc size => s.sdoSendBlock t crc 0 size
  | .blockAck seq size, .blockUpload crc acked sent =>
    if sent < seq then s.sdoAbort t.index t.sub abortSequence
    else if size % 256 = 0 ∨ 127 < size % 256 then s.sdoAbort t.index t.sub abortSpecifier
    else if acked + seq = segmentsOf t.data then
      let unused := 7 * segmentsOf t.data - t.data.length
      (s.sdoKeep { t with phase := .blockUploadEnd }).sdoBytes (0xC1 + 4 * unused) (leBytes 2 (if crc then crc16From 0 t.data else 0))
    else s.sdoSendBlock t crc (acked + seq) (size % 256)
  | .blockEnd, .blockUploadEnd => s.setSide { s.side with sdo := none }
  | .abort _, _ => s.setSide { s.side with sdo := none }
  | _, _ => s.sdoAbort t.index t.sub abortSpecifier

/-- A request frame of an upload where no transfer is open: the value is read at its start. -/
def State.sdoUploadStart (s : State) (index sub : Nat) (r : SdoUp) : State :=
  match r with
  | .start complete =>
    let index := index % 65536
    let sub := sub % 256
    match s.sdoRead index sub complete with
    | (s, some d) =>
      let s := if 1 ≤ d.length ∧ d.length ≤ 4 then s
        else s.sdoKeep ⟨index, sub, complete && sub == 1, some d.length, d, s.clk, .upload false⟩
      s.sdoFrame (uploadCmd d.length) index sub (if d.length ≤ 4 then ofLe d else d.length)
    | (s, none) => s
  | .blockStart complete crc size =>
    let index := index % 65536
    let sub := sub % 256
    if size % 256 = 0 ∨ 127 < size % 256 then s.sdoAbort index sub abortSpecifier
    else
      match s.sdoRead index sub complete with
      | (s, some d) =>
        (s.sdoKeep ⟨index, sub, complete && sub == 1, some d.length, d, s.clk, .blockUploadStart crc (size % 256)⟩).sdoFrame 0xC6 index sub d.length
      | (s, none) => s
  | .abort _ => s
  | .segment _ | .blockGo | .blockAck .. | .blockEnd => s.sdoAbort 0 0 abortSpecifier

/-- SDO_UPLOAD (15 R424): a request frame of an upload. -/
def execSdoUpload (index sub : Nat) (request : SdoUp) (s : State) : Host.Outcome State Fault Refusal :=
  if !s.reachable .mgmt then .next s
  else if s.sdoLate then .next s.sdoRequest
  else
    let s1 := s.sdoRequest
    match s1.side.sdo with
    | some t => .next ((s1.sdoUploading t request).noteReset s)
    | none => .next ((s1.sdoUploadStart index sub request).noteReset s)

/-- SDO_TIMEOUT (15 R424): more than 1 s between the frames of a transfer. -/
def execSdoTimeout (s : State) : Host.Outcome State Fault Refusal :=
  match s.side.sdo with
  | some t => .next ((s.atClk (t.last + secTicks + 1)).sdoAbort t.index t.sub abortTimeout)
  | none => .next s

/-! ### PDO (15 R425 to R428) -/

/-- The mapped objects of a PDO with their bytes. -/
def State.mapping (s : State) (index : Nat) : List (Nat × Nat) :=
  (List.range (s.nat (obj index 0))).map (fun i =>
    let v := s.nat (obj index (i + 1))
    (bits v 31 8, bits v 7 0 / 8))

/-- Every mapped object is served: by the island, or the main side is up (15 R427). -/
def State.mapServed (s : State) (m : List (Nat × Nat)) : Bool := s.module.mainUp || m.all (fun e => islandObject e.1)

/-- PDOs are in use: Operational, and the COB-ID is valid. -/
def State.pdoRuns (s : State) (cob : Nat) : Bool := s.nodeOn && s.side.nmt == .operational && !bitOf (s.nat cob) 31

/-- What a TPDO would carry now; none while it may not be sent. It is sampled in bus-off too (15 R420). -/
def State.tpdoData (s : State) (n : Nat) : Option (List Byte) :=
  let m := s.mapping (0x1A00 + n)
  if s.pdoRuns (obj (0x1800 + n) 1) && s.mapServed m && !m.isEmpty then
    some (m.flatMap (fun e => (s.shownBytes .mgmt e.1).take e.2))
  else none

/-- A TPDO waits in its buffer, over what is pending there. -/
def State.sendTpdo (s : State) (n : Nat) (d : List Byte) : State :=
  s.queueTx { buffer := 20 + n, id := bits (s.nat (obj (0x1800 + n) 1)) 10 0, data := d }

/-- A TPDO waits in its buffer already. -/
def State.tpdoPending (s : State) (n : Nat) : Bool := s.side.tx.any (fun f => f.buffer == 20 + n)

/-- A TPDO at a SYNC (15 R426): type 0 sends a change, types 1 to 240 send at every n-th SYNC. -/
def State.tpdoSync (s : State) (n : Nat) : State :=
  let t := { s.tpdo n with type := s.nat (obj (0x1800 + n) 2), inhibit := s.nat (obj (0x1800 + n) 3) }
  match s.tpdoData n with
  | none => s.setTpdo n t
  | some d =>
    if t.type = 0 then (if t.sent = some d && !s.tpdoPending n then s.setTpdo n t else (s.setTpdo n t).sendTpdo n d)
    else if t.type ≤ 240 then
      (if t.type ≤ t.syncs + 1 then (s.setTpdo n { t with syncs := 0 }).sendTpdo n d else s.setTpdo n { t with syncs := t.syncs + 1 })
    else s.setTpdo n t

/-- One object of an RPDO, written through the checks with right M; no stage takes it (14 R393, R400). -/
def State.pdoWrite (s : State) (k : Nat) (d : List Byte) : State :=
  let v := valOfBytes k d
  if s.checkWrite s.nat .mgmt k v ≠ 0 then s else (s.act .mgmt k v).1

/-- The data of an RPDO written object by object. -/
def State.pdoWriteAll : List (Nat × Nat) → List Byte → State → State
  | [], _, s => s
  | (k, n) :: r, d, s => State.pdoWriteAll r (d.drop n) (s.pdoWrite k (d.take n))

/-- Apply an RPDO, or discard it (15 R427, 14 R398). -/
def State.applyRpdo (s : State) (n : Nat) (d : List Byte) : State :=
  let m := s.mapping (0x1600 + n)
  if !s.mapServed m then s
  else if m.any (fun e => s.lockedBy .host e.1) then s.bump (obj 0x2006 2)
  else State.pdoWriteAll m d s

/-- A length error of an RPDO: EMCY 0x8210 or 0x8220, event 0xB00A at most once per second (15 R427). -/
def State.rpdoLength (s : State) (short : Bool) (n : Nat) : State :=
  (s.queueEmcy ⟨if short then 0x8210 else 0x8220, 0xB00A, 1, n + 1⟩).raiseSlow 0xB00A (n + 1)

def State.rpdo (s : State) (n : Nat) : Rpdo := s.side.rpdos.getD n {}
def State.setRpdo (s : State) (n : Nat) (x : Rpdo) : State := s.setSide { s.side with rpdos := s.side.rpdos.set n x }

/-- RPDO (15 R426, R427). A changed type acts from the next frame or SYNC on (R439). -/
def execRpdo (n : Fin 4) (data : List Byte) (s : State) : Host.Outcome State Fault Refusal :=
  if !s.nodeUp || !s.pdoRuns (obj (0x1400 + n) 1) then .next s
  else
    let s1 := s.takeRx (4 + n)
    let len := sumN ((s1.mapping (0x1600 + n)).map (·.2))
    if data.length ≠ len then .next (s1.rpdoLength (decide (data.length < len)) n)
    else
      let type := s1.nat (obj (0x1400 + n) 2)
      if (s1.rpdo n).type ≤ 240 then .next (s1.setRpdo n { waiting := some data, type := type })
      else .next (((s1.setRpdo n { s1.rpdo n with type := type }).applyRpdo n data).noteReset s)

/-- An RPDO at a SYNC: a changed type takes effect, and one that waits is applied. -/
def State.rpdoSync (s : State) (n : Nat) : State :=
  let x := s.rpdo n
  let s := s.setRpdo n { type := s.nat (obj (0x1400 + n) 2) }
  match x.waiting with
  | some d => if s.pdoRuns (obj (0x1400 + n) 1) then s.applyRpdo n d else s
  | none => s

/-- SYNC_FRAME (15 R426, R428): TPDOs are sampled and sent, then waiting RPDOs are applied. -/
def execSyncFrame (data : List Byte) (s : State) : Host.Outcome State Fault Refusal :=
  if !s.nodeUp || !s.side.nmt.served || bitOf (s.nat (obj 0x1005 0)) 31 then .next s
  else
    let s1 := s.takeRx 1
    if 1 < data.length then .next s1
    else .next (((List.range 4).foldl State.rpdoSync ((List.range 4).foldl State.tpdoSync s1)).noteReset s)

/-- TPDO_EVENT_TIMER (15 R426): an event-driven TPDO with a changed value is sent once its inhibit time has passed, an unchanged one on expiry of
its event timer; one that is pending takes the newest content (R418). -/
def execTpdoEventTimer (n : Fin 4) (s : State) : Host.Outcome State Fault Refusal :=
  let t := s.tpdo n
  match s.tpdoData n with
  | none => .next s
  | some d =>
    if t.type ≤ 240 then .next s
    else if s.tpdoPending n then .next (s.sendTpdo n d)
    else
      let free := match t.sentAt with | some at_ => at_ + t.inhibit * 80000 | none => 0
      let timer := s.nat (obj (0x1800 + n) 5)
      if t.sent ≠ some d then .next ((s.atClk free).sendTpdo n d)
      else if timer = 0 then .next s
      else
        let due := match t.sentAt with | some at_ => at_ + timer * msTicks | none => 0
        .next ((s.atClk (max free due)).sendTpdo n d)

/-! ### EMCY and heartbeat (15 R429 to R432) -/

/-- EMCY_SEND (15 R429, R430): the oldest queued frame is loaded once the inhibit time has passed and the last one is sent. -/
def execEmcySend (s : State) : Host.Outcome State Fault Refusal :=
  match s.side.emcy with
  | [] => .next s
  | e :: r =>
    let cob := s.nat (obj 0x1014 0)
    if !s.nodeUp || !s.side.nmt.served || bitOf cob 31 || s.side.tx.any (fun f => f.buffer == 17) then .next s
    else
      let due := match s.side.emcyAt with | some t => t + s.nat (obj 0x1015 0) * 80000 | none => 0
      let s := s.atClk due
      let s := s.setSide { s.side with emcy := r }
      .next (s.queueTx {
        buffer := 17, id := bits cob 10 0, entry := e.code * 65536 + e.generic
        data := leBytes 2 e.generic ++ leBytes 1 (if e.code = 0xB00C then 0 else s.errorRegister) ++ leBytes 2 e.code ++ leBytes 1 e.severity ++ leBytes 2 e.arg })

/-- HEARTBEAT_PRODUCE (15 R432). -/
def execHeartbeatProduce (s : State) : Host.Outcome State Fault Refusal :=
  let ms := s.nat (obj 0x1017 0)
  if !s.canFed || ms = 0 || s.side.nodeId = 0xFF || s.side.nmt = .initialisation then .next s
  else
    let s := s.atClk (s.side.heartbeatAt + ms * msTicks)
    let s := s.setSide { s.side with heartbeatAt := s.clk }
    .next (s.queueTx { buffer := 18, id := 0x700 + s.side.nodeId, data := leBytes 1 s.side.nmt.code })

/-- HEARTBEAT_CONSUMER_TIMEOUT (15 R432, R439): once until the node is heard again; event 0xB007, EMCY 0x8130. -/
def execHeartbeatConsumerTimeout (entry : Fin 4) (s : State) : Host.Outcome State Fault Refusal :=
  let v := s.nat (obj 0x1016 (entry + 1))
  let c := s.side.consumers.getD entry {}
  if !s.canFed || bits v 15 0 = 0 || c.timedOut || s.side.nodeId = 0xFF then .next s
  else
    let s := s.atClk (max c.written (c.heard.getD 0) + bits v 15 0 * msTicks)
    let s := s.setSide { s.side with consumers := s.side.consumers.set entry { c with timedOut := true } }
    .next (s.raise 0xB007 (bits v 23 16))

/-! ### LSS (15 R433 to R435; codes of CiA 305, log entry 35) -/

/-- The LSS slave listens. -/
def State.lssListens (s : State) : Bool := s.canSend

/-- An LSS answer on 0x7E4: command specifier, and seven bytes. -/
def State.lssAnswer (s : State) (cs : Nat) (d : List Byte) : State :=
  s.queueTx { buffer := 19, id := 0x7E4, data := leBytes 1 cs ++ (d ++ List.replicate 7 0#8).take 7 }

/-- The LSS address, 0x1018:01 to :04. -/
def State.lssAddress (s : State) (i : Nat) : Nat := s.nat (obj 0x1018 (i + 1)) % 2 ^ 32

/-- A service of the configuration state. -/
def State.lssService (s : State) (act : State → State) : State :=
  if s.lssListens then (let s := s.takeRx 3; if s.side.lssConfig then act s else s) else s

/-- LSS_SWITCH_GLOBAL: mode 0 waiting, 1 configuration. -/
def execLssSwitchGlobal (mode : Nat) (s : State) : Host.Outcome State Fault Refusal :=
  if !s.lssListens then .next s
  else
    let s := s.takeRx 3
    .next (if 1 < mode then s else s.setSide { s.side with lssConfig := decide (mode = 1) })

/-- LSS_SWITCH_SELECTIVE: the slave with the LSS address enters configuration and answers. -/
def execLssSwitchSelective (vendor product revision serial : Nat) (s : State) : Host.Outcome State Fault Refusal :=
  if !s.lssListens then .next s
  else
    let s := s.takeRx 3
    if vendor = s.lssAddress 0 ∧ product = s.lssAddress 1 ∧ revision = s.lssAddress 2 ∧ serial = s.lssAddress 3 then
      .next ((s.setSide { s.side with lssConfig := true }).lssAnswer 0x44 [])
    else .next s

/-- LSS_CONFIGURE_NODE_ID (15 R434, R435). -/
def execLssConfigureNodeId (node : Nat) (s : State) : Host.Outcome State Fault Refusal :=
  .next (s.lssService (fun s =>
    if (1 ≤ node ∧ node ≤ 127) ∨ node = 0xFF then (s.setSide { s.side with pendingId := node }).lssAnswer 0x11 [0#8]
    else s.lssAnswer 0x11 [1#8]))

/-- LSS_CONFIGURE_BIT_TIMING (15 R434, R435). -/
def execLssConfigureBitTiming (table index : Nat) (s : State) : Host.Outcome State Fault Refusal :=
  .next (s.lssService (fun s =>
    if timingOk table index then (s.setSide { s.side with pendingEntry := (table, index) }).lssAnswer 0x13 [0#8]
    else s.lssAnswer 0x13 [1#8]))

/-- LSS_ACTIVATE_BIT_TIMING (15 R434): transmission stops for the switch delay in ms. -/
def execLssActivateBitTiming (delay : Nat) (s : State) : Host.Outcome State Fault Refusal :=
  .next (s.lssService (fun s => s.setSide { s.side with switching := some (s.clk + delay % 65536 * msTicks, delay % 65536 * msTicks, false) }))

/-- LSS_SWITCH_DELAY_END (15 R434): the first delay loads CANBT, the second resumes; event 0xB00B. -/
def execLssSwitchDelayEnd (s : State) : Host.Outcome State Fault Refusal :=
  match s.side.switching with
  | none => .next s
  | some (t, d, second) =>
    let s := s.atClk t
    if second then .next ((s.setSide { s.side with switching := none }).raise 0xB00B 0)
    else .next (s.setSide { s.side with canbt := canbtOf s.side.pendingEntry, switching := some (s.clk + d, d, true) })

/-- LSS_STORE_CONFIGURATION (15 R434, R435); `ok` is false where the island's memory fails. -/
def execLssStoreConfiguration (ok : Bool) (s : State) : Host.Outcome State Fault Refusal :=
  .next (s.lssService (fun s =>
    if ok then
      ((s.setSide { s.side with storedId := s.side.pendingId, storedEntry := s.side.pendingEntry }).raise 0xB009 0).lssAnswer 0x17 [0#8]
    else s.lssAnswer 0x17 [2#8]))

/-- An inquiry of the LSS address. -/
def State.lssInquire (s : State) (i : Nat) : State := s.lssService (fun s => s.lssAnswer (0x5A + i) (leBytes 4 (s.lssAddress i)))

/-- LSS_INQUIRE_VENDOR_ID. -/
def execLssInquireVendorId (s : State) : Host.Outcome State Fault Refusal := .next (s.lssInquire 0)
/-- LSS_INQUIRE_PRODUCT_CODE. -/
def execLssInquireProductCode (s : State) : Host.Outcome State Fault Refusal := .next (s.lssInquire 1)
/-- LSS_INQUIRE_REVISION. -/
def execLssInquireRevision (s : State) : Host.Outcome State Fault Refusal := .next (s.lssInquire 2)
/-- LSS_INQUIRE_SERIAL. -/
def execLssInquireSerial (s : State) : Host.Outcome State Fault Refusal := .next (s.lssInquire 3)
/-- LSS_INQUIRE_NODE_ID. -/
def execLssInquireNodeId (s : State) : Host.Outcome State Fault Refusal :=
  .next (s.lssService (fun s => s.lssAnswer 0x5E (leBytes 1 s.side.nodeId)))

/-- LSS_IDENTIFY_REMOTE_SLAVE: the LSS address lies in the ranges. -/
def execLssIdentifyRemoteSlave (vendor product revLow revHigh serLow serHigh : Nat) (s : State) : Host.Outcome State Fault Refusal :=
  if !s.lssListens then .next s
  else
    let s := s.takeRx 3
    if vendor = s.lssAddress 0 ∧ product = s.lssAddress 1 ∧ revLow ≤ s.lssAddress 2 ∧ s.lssAddress 2 ≤ revHigh
        ∧ serLow ≤ s.lssAddress 3 ∧ s.lssAddress 3 ≤ serHigh then .next (s.lssAnswer 0x4F [])
    else .next s

/-- LSS_IDENTIFY_NON_CONFIGURED: answered while the node-ID is 0xFF. -/
def execLssIdentifyNonConfigured (s : State) : Host.Outcome State Fault Refusal :=
  if !s.lssListens then .next s
  else
    let s := s.takeRx 3
    .next (if s.side.nodeId = 0xFF then s.lssAnswer 0x50 [] else s)

/-- LSS_FASTSCAN: an unconfigured slave in the waiting state answers while the bits checked of its address agree. -/
def execLssFastscan (number bitCheck sub next : Nat) (s : State) : Host.Outcome State Fault Refusal :=
  if !s.lssListens then .next s
  else
    let s := s.takeRx 3
    if s.side.nodeId ≠ 0xFF || s.side.lssConfig then .next s
    else if bitCheck = 0x80 then .next ((s.setSide { s.side with lssPos := 0 }).lssAnswer 0x4F [])
    else if 31 < bitCheck ∨ 3 < sub ∨ sub ≠ s.side.lssPos then .next s
    else if number % 2 ^ 32 / 2 ^ bitCheck = s.lssAddress sub / 2 ^ bitCheck then
      .next ((s.setSide { s.side with lssPos := next % 4, lssConfig := decide (bitCheck = 0 ∧ next < sub) }).lssAnswer 0x4F [])
    else .next s

end Sys2Proof.Machine
end

