-- ==== Sys2Proof/Machine/Island.lean ====
section
/-!
DEFINITION. The management island's own starts (11 R320, 12 R344), its pins (19 R503 to R508), and the fans' tachometers (11 R331, 08 R252).
-/
namespace Sys2Proof.Machine

/-! ### The island (11 R320, 12 R344) -/

/-- V_SB_RETURN (11 R320): V_SB is back at a voltage in mV; the island runs from it again, and one that nothing fed starts, its stored Moored
condition restored. -/
def execVSbReturn (mV : Nat) (s : State) : Host.Outcome State Fault Refusal :=
  if s.power.vsb then .next s
  else
    let fed := s.islandFed
    let s := (s.putNat (obj 0x2C00 9) (min max16 mV)).putNat (obj 0x2C00 0x0A) 0
    let s := { s with power := { s.power with vsb := true } }.settleEnOut
    .next (if fed then s else s.islandBoot.noteReset s)

/-- ISLAND_WATCHDOG_EXPIRY (12 R344): an island reset. -/
def execIslandWatchdogExpiry (s : State) : Host.Outcome State Fault Refusal := .next (if s.islandFed then s.islandReset.noteReset s else s)

/-- STRAP_READ (19 R508): the straps as read; a change takes effect as a learned ID. -/
def execStrapRead (row : Nat) (westEnd : Bool) (s : State) : Host.Outcome State Fault Refusal :=
  if !s.islandFed || (s.strand.rowId = row % 8 && s.strand.westEnd = westEnd) then .next s
  else .next ({ s with strand := { s.strand with rowId := row % 8, westEnd := westEnd } }).learnId.refreshTopo

/-! ### Interlock inputs (19 R505) -/

/-- AIR_OK_EDGE (19 R505): an edge that has outlasted the input filter. -/
def execAirOkEdge (level : Bool) (s : State) : Host.Outcome State Fault Refusal :=
  if !s.islandFed || s.pins.airOk = level then .next s
  else .next (({ s with pins := { s.pins with airOk := level } }).raise (if level then 0x1031 else 0x1030) 0)

/-- GUARD_OK_EDGE (19 R505). -/
def execGuardOkEdge (level : Bool) (s : State) : Host.Outcome State Fault Refusal :=
  if !s.islandFed || s.pins.guardOk = level then .next s
  else .next (({ s with pins := { s.pins with guardOk := level } }).raise (if level then 0x1033 else 0x1032) 0)

/-! ### Outputs (19 R506) -/

/-- An output can be on: DOUT0 to DOUT3 by their sources, 4 SENS_24V. -/
def State.outputOn (s : State) (n : Nat) : Bool :=
  if n < 4 then s.doutOn n else s.module.mainUp && s.power.seqAt.isNone && (s.pins.faults.getD 4 none).isNone

def State.setFault (s : State) (n : Nat) (x : Option Nat) : State := { s with pins := { s.pins with faults := s.pins.faults.set n x } }

/-- DOUT_OVERLOAD (19 R506): an output held at its current limit for 10 ms switches off. -/
def execDoutOverload (out : Fin 5) (s : State) : Host.Outcome State Fault Refusal :=
  if s.outputOn out then .next (((s.setFault out (some s.clk)).emit (.pin 2 [out, 0])).raise 0x1034 out) else .next s

/-- DOUT_RETRY (19 R506): 1 s after it was switched off the output is tried again. -/
def execDoutRetry (out : Fin 5) (s : State) : Host.Outcome State Fault Refusal :=
  match s.pins.faults.getD out none with
  | none => .next s
  | some t =>
    if !s.module.mainUp || s.power.seqAt.isSome then .next s
    else
      let s := (s.atClk (t + secTicks)).setFault out none
      .next (s.emit (.pin 2 [out, boolNat (s.outputOn out)]))

/-! ### Fans (11 R331, 08 R252) -/

/-- The ledger takes the ratio of a fan's speed to its factory speed, at a duty of 40 % or more that has been steady for 10 s (08 R252). -/
def State.fanRatioSample (s : State) (fan : Nat) (rpm : ℚ) : State :=
  let duty := capQ 10000 (s.fanDuty fan * 100)
  let seen := s.thermal.duty.getD fan (0, 0)
  if seen.1 ≠ duty then { s with thermal := { s.thermal with duty := s.thermal.duty.set fan (duty, s.clk) } }
  else if 4000 ≤ duty ∧ seen.2 + 10 * secTicks ≤ s.clk then
    let d := s.ledger.data
    let f := d.fans.getD fan (0, 0)
    s.setLedger { d with fans := d.fans.set fan (f.1 + rpm / Config.fanSpeed fan duty, f.2 + 1) }
  else s

/-- TACHOMETER_PULSE (11 R331, 09 R260, 08 R252): a pulse that ends a period in ticks. The fan turns; its speed in rpm is an engine input. -/
def execTachometerPulse (fan : Fin 4) (period : Nat) (s : State) : Host.Outcome State Fault Refusal :=
  if !s.module.mainUp || period = 0 then .next s
  else
    let s := s.atClk (s.power.tachAt.getD fan 0 + period)
    let rpm : ℚ := (60 * secTicks : ℚ) / (period * max 1 (s.nat (obj 0x2A01 0x0B)))
    let s := { s with
      thermal := { s.thermal with stalled := s.thermal.stalled.set fan false }
      power := { s.power with tachAt := s.power.tachAt.set fan s.clk } }
    .next ((s.fanSpeedIn fan rpm).settleOuts.fanRatioSample fan rpm)

end Sys2Proof.Machine
end

