-- ==== Sys2Proof/Machine/Start.lean ====
section
/-!
DEFINITION. The start of the main side (12 R341, R344, R345, R350; 18 R484 to R488; 17 R466, R467): boot bank, self-test, settings, recorder, and the
seeds of every subsystem.
-/
namespace Sys2Proof.Machine

/-! ### Boot ROM (18 R484) -/

/-- The image that step 5 starts: the staging image at the first start of a new one, else the boot bank; none where neither will do. -/
inductive BootChoice where
  | staging | bank | none
  deriving DecidableEq, Repr

def State.bootChoice (s : State) (bootOk : Bool) : BootChoice :=
  let usable := bootOk && !s.update.partly
  if s.update.st = 4 ∨ (usable = false ∧ s.update.verified = true) then (if bootable s.update.staging then .staging else .none)
  else if usable then .bank else .none

/-- The first start of a staging image: state 5 and the watch. The copy begins with the erasing of a block; one that had verified blocks is
resumed. -/
def State.firstStart (s : State) (t : Nat) : State :=
  let again := 0 < s.update.blocks
  let s := { s with update := { s.update with
    st := 5, fw := some s.update.staging, watch := some t, partly := s.update.partly || decide (s.update.blocks < 128) } }
  if again then (s.bump (obj 0x2E06 5)).raise 0xE008 s.update.blocks else s

/-! ### Self-test (12 R350) -/

/-- Results in 0x2F03: items 1 to 6 in order, up to the first that fails. -/
def State.selfTest (s : State) (fail : Option (Nat × Nat)) (ms : Nat) : State :=
  let item := match fail with | some f => f.1 | none => 0
  let detail := match fail with | some f => f.2 | none => 0
  let passed := if item = 0 then 63 else 2 ^ (item - 1) - 1
  let s := ((s.putNat (obj 0x2F03 1) (boolNat fail.isSome)).putNat (obj 0x2F03 2) (passed % 64)).putNat (obj 0x2F03 3) item
  let s := ((s.putNat (obj 0x2F03 4) (min max32 detail)).putNat (obj 0x2F03 5) (min 150 ms)).bump (obj 0x2F03 6)
  if fail.isSome then s.bump (obj 0x2F03 7) else s

/-- No self-test has run since the start: no image could be started (12 R350). -/
def State.untested (s : State) : State := [2, 3, 4, 5].foldl (fun s i => s.putNat (obj 0x2F03 i) 0) (s.putNat (obj 0x2F03 1) 2)

/-! ### Settings (14 R403, R404; 18 R487, R488) -/

/-- What a start keeps of the values held: counters, what the island and the calibration page hold, the identity, the self-test of this start. -/
def keptAtStart (k : Nat) : Bool :=
  match objRow? (k / 256) (k % 256) with
  | some r =>
    match r.keep with
    | .counter | .saturating => true
    | .plain =>
      k < obj 0x2000 0 || k / 256 == 0x2C01 || k / 256 == 0x2C00 || k / 256 == 0x2000 || k / 256 == 0x2F03 || k == obj 0x2001 0x0B
    | .sinceStart | .stored => false
  | none => false

/-- The newer valid store. -/
def State.newestStore (s : State) : Option Nat :=
  let a := s.dict.stores.getD 0 {}
  let b := s.dict.stores.getD 1 {}
  if a.valid && (!b.valid || b.seq ≤ a.seq) then some 0 else if b.valid then some 1 else none

/-- Values of objects that the dictionary has (18 R487 item 1). -/
def knownValues (l : List (Nat × Val)) : List (Nat × Val) := l.filter (fun e => (objRow? (e.1 / 256) (e.1 % 256)).isSome)

/-- Which store a start loads: converted into the other store where its format is older, refused where it is newer. Store, and values. -/
def State.chooseStore (s : State) : State × List (Nat × Val) :=
  let s := { s with update := { s.update with atDefaults := false } }
  let none_ := fun (s : State) => ({ s with dict := { s.dict with seqInForce := 0 } }, ([] : List (Nat × Val)))
  let load := fun (s : State) (x : Settings) => ({ s with dict := { s.dict with seqInForce := x.seq } }, x.values)
  match s.newestStore with
  | none => none_ s
  | some n =>
    let x := s.dict.stores.getD n {}
    if x.format = s.fwFormat then load s x
    else if x.format < s.fwFormat then
      let y : Settings := { seq := s.storeSeq + 1, format := s.fwFormat, valid := true, values := knownValues x.values }
      let s := (s.setStore2 (1 - n) y).emit (.stored 9 [1 - n])
      load (({ s with update := { s.update with preMigration := some n } }).raise 0xE009 0) y
    else
      match s.update.preMigration with
      | some k =>
        let y := s.dict.stores.getD k {}
        if y.valid ∧ y.format = s.fwFormat then load s y
        else none_ (({ s with update := { s.update with atDefaults := true } }).raise 0xE00A 0)
      | none => none_ (({ s with update := { s.update with atDefaults := true } }).raise 0xE00A 0)

/-- Objects of `storedApart`. -/
def apartKey (k : Nat) : Bool :=
  let index := k / 256
  index == 0x2604 || index == 0x2710 || index == 0x2711 || k == obj 0x2501 1 || k == obj 0x2502 1 || index == 0x2809

/-- The values held after a start: those kept, and the stored ones; communication objects from the island's memory. -/
def State.loadValues (s : State) (app : List (Nat × Val)) : State :=
  let kept := s.od.filter (fun e => keptAtStart e.1)
  { s with od := ((app.filter (fun e => !apartKey e.1)) ++ s.side.nv).foldl (fun l (e : Nat × Val) => assocSet l e.1 e.2) kept }

/-- The placement of a lane group as stored, at epoch 0 (05 R175). -/
def storedPlacement (app : List (Nat × Val)) (id g : Nat) : Placement :=
  match assocGet app (obj 0x2604 (g + 1)) with
  | some v =>
    let w := valNat v
    { target := if bits w 11 0 = id then none else some (bits w 11 0), pinned := bitOf w 31 }
  | none => {}

/-- The stores of a group from its stored image (07 R235). -/
def storedGroup (app : List (Nat × Val)) (g : Nat) : GroupStore × Bool :=
  match assocGet app (groupKey 0x2809 g) with
  | some v =>
    if imageCause (valData v) = 0 then ({ active := { image := valData v, valid := true } }, false) else ({}, true)
  | none => ({}, false)

/-- A bank from its stored image (04 R125). -/
def storedBank (app : List (Nat × Val)) (b : Nat) : Bank :=
  match assocGet app (obj (0x2501 + b) 1) with
  | some v => { image := valData v, valid := bankValid (valData v) }
  | none => {}

/-- A stored image that fails its checks leaves its group with profile 0 on all its valves, event 0x7004. -/
def State.groupFallback (s : State) (g : Nat) : State :=
  ((s.groupValves g).foldl (fun s v => s.putNat (valveKey 0x2810 v) 0) s).raise 0x7004 g

/-- Parts of State that a stored object belongs to. -/
def State.loadApart (s : State) (app : List (Nat × Val)) : State :=
  let groups : List (GroupStore × Bool) := (List.range 32).map (storedGroup app)
  let s := { s with
    tracker := { ({} : Tracker) with placement := (List.range 16).map (storedPlacement app s.strand.id) }
    pipe := { ({} : Pipeline) with banks := [storedBank app 0, storedBank app 1] }
    seqs := { seqs := List.replicate 256 {}, stores := groups.map (fun (x : GroupStore × Bool) => x.1) }
    drive := { s.drive with
      valves := s.drive.valves.zipIdx.map (fun (p : ValveSt × Nat) =>
        { p.1 with avail := if (assocGet app (valveKey 0x2710 p.2)).isSome then 3 else 0 }) } }
  (s.groupList.filter (fun g => ((groups.getD g ({}, false)).2))).foldl State.groupFallback s

/-! ### Ledger (08 R241) and drive (06 R204) -/

/-- The newer copy whose two sequence numbers agree, or an empty ledger with event 0xD080 (08 R240); `torn` are the copies that a loss of
power cut short. No valve is calibrated at a start (08 R243), a step of the core voltage that waits still waits (R253), and retired
valves take state 1 again (R241). -/
def State.loadLedger (s : State) (torn : List Nat) : State :=
  let copies := s.ledger.copies.zipIdx.map (fun (p : LedgerCopy × Nat) =>
    if torn.contains p.2 then { p.1 with last := p.1.first + 1 } else p.1)
  let a := copies.getD 0 {}
  let b := copies.getD 1 {}
  let x := if b.age ≤ a.age then a else b
  let found := x.age ≠ 0
  let d : LedgerData := if found then x.data else {}
  let d := { d with
    valves := d.valves.map (fun (e : LedgerValve) => { e with calibrated := false })
    corePending := d.corePending || (decide found && s.ledger.data.corePending) }
  let s := { s with ledger := { data := d, copies := copies, validAtStart := decide found } }
  let s := if found then s else s.raise 0xD080 0
  (List.range s.valveCount).foldl (fun s v =>
    let c := (s.ledgerValve v).cause
    if c = 1 ∨ c = 2 then s.setAvail v 1 else s) s

/-! ### Recorder, step 9 (17 R466, R467) -/

/-- The slots with sound records, and the number torn; `bad` are the slots that fail their CRC-16 (17 R466). -/
def soundSlots (l : List (Nat × Record)) (bad : List Nat) : List (Nat × Record) × Nat :=
  let ok := l.filter (fun p => p.2.closing == p.2.seq && !bad.contains p.1)
  (ok, l.length - ok.length)

/-- The header: the newer valid copy, or rebuilt from the slots; the Bool says that it was rebuilt. `bad` are the copies that are damaged. -/
def State.startHeader (s : State) (slots : List (Nat × Record)) (bad : List Nat) : LogHeader × Bool :=
  let a := if bad.contains 0 then {} else s.recorder.copies.getD 0 {}
  let b := if bad.contains 1 then {} else s.recorder.copies.getD 1 {}
  let good := fun (h : LogHeader) => h.seq != 0 && h.seq == h.seqCopy
  if good a && (!good b || b.seq ≤ a.seq) then (a, false)
  else if good b then (b, false)
  else
    match slots with
    | [] => ({}, false)
    | p :: r =>
      let top := r.foldl (fun (m : Nat × Record) q => if m.2.seq < q.2.seq then q else m) p
      let cleared := slots.find? (fun q => q.2.trigger == 7)
      ({ newest := top.2.seq, oldest := oldestSeq slots, held := slots.length, newestSlot := top.1, cfgId := top.2.tally.cfg.id
         clearedSlot := (cleared.map (·.1)).getD 0xFFFF, clearSecs := (cleared.map (·.2.closed)).getD 0 }, true)

/-- Entries of the island buffer enter the live bank in order. -/
def drainIsland (t : Tally) (l : List IslandEntry) : Tally := l.foldl (fun t e => t.event e.code e.severity) t

/-- Step 9: torn slots freed, header read, a record opened, the island buffer taken over; its first S2 or S3 entry triggers. -/
def State.startRecorder (s : State) (badSlots badHeaders : List Nat) : State :=
  let r := s.recorder
  let sound := soundSlots r.slots badSlots
  let h := s.startHeader sound.1 badHeaders
  let header := { h.1 with torn := satAdd max32 sound.2 h.1.torn, held := sound.1.length }
  let entries := r.island
  let live := drainIsland (s.freshTally (s.tallyCfg r.cfgId) true) entries
  let s := { s with recorder := { r with
    slots := sound.1
    copies := r.copies.zipIdx.map (fun (c : LogHeader × Nat) => if badHeaders.contains c.2 then {} else c.1), nextSeq := if sound.1.isEmpty ∧ header.newest = 0 then 1 else (max header.newest (r.nextSeq - 1) + 1) % 2 ^ 32
    live := live, writing := none, waitDown := none, waitForced := none, waitHour := false, hour := s.opSecs / 3600
    toIsland := false, island := [], cfgDirty := false, clearing := none, clearReply := none, clearVia := .command, exporting := none, exportState := 0
    selected := [0, 0], challenges := [none, none], throttled := s.recorder.throttled.filter (fun p => p.1 == 0xB006 || p.1 == 0xB00A), lastSample := s.clk, lines := [0, 0, 0, 0], sightings := 0 } }
  let s := (s.saveHeader header).bumpBy (obj 0x2D02 0x0E) entries.length
  let s := (List.range sound.2).foldl (fun s _ => s.raise 0xD005 0) s
  let s := if h.2 then s.raise 0xD006 0 else s
  match entries.find? (fun e => 2 ≤ e.severity) with
  | some e => s.severeTrigger e.code e.severity e.arg
  | none => s

/-! ### The subsystems' seeds (12 R345) -/

/-- Timebase: counter 0 at step 4, FREE (02 R38); the exchange of the election begins 4 ms later. -/
def State.startTime (s : State) (upTicks : Nat) : State :=
  let n := s.nat (obj 0x2101 5) * usTicks
  let s := s.setTime { ({} : TimeSt) with
    syncInHigh := s.time.syncInHigh, counter := upTicks, pllLocked := true, interval := n, syncAt := s.clk + n, designated := s.nat (obj 0x2101 1), electAt := some (s.clk + 4 * msTicks) }
  s.restartSyncOut.loopsAfterStep

/-- What the first reading of the die diode gives (11 R324, R326, R327): T̄, or a broken diode, for which 110 °C stand. -/
def firstThermal (reading : Option Int) (now : Nat) : Thermal :=
  let x : Thermal := { prev := reading, sampledAt := now, duty := List.replicate 4 (0, now) }
  if Thermal.bad {} reading then { x with broken := true, die := 110, brokenMs := 1 }
  else
    let t : ℚ := ((reading.getD 0 : Int) : ℚ) / 16
    { x with die := t, mean := t, readings := [reading.getD 0], hist := [t], highest := some t }

/-- Die diode, rails and fans: the first reading stands (11 R324, R331); one that is broken is an event and is counted (R326). -/
def State.startThermal (s : State) (reading : Option Int) : State :=
  let s := { s with
    thermal := firstThermal reading s.clk
    power := { s.power with
      state := 3, badRails := [], vbstOn := false, samples := [], sampledAt := s.clk, suspendedAt := none, above := 0, below := 0
      tachAt := List.replicate 4 s.clk, seqAt := none }
    drive := { s.drive with refillSuspended := false, vbst := 0, vbstAt := s.clk } }
  let s := (s.putNat (obj 0x2C02 5) 0).presentDie
  if s.thermal.broken then (s.bump (obj 0x2C12 4)).raise 0x2006 0 else s

/-- Strand: links down, the stored ID provisional, the own record as it stands (13 R361, R363). -/
def State.startStrand (s : State) : State :=
  let x := s.strand
  let id := if x.idStored then x.id else x.rowId % 8
  let s := { s with strand := { ({} : Strand) with
    id := id, idStored := x.idStored, westEnd := x.westEnd, rowId := x.rowId, beatSeq := x.beatSeq, eventSeq := x.eventSeq, own := x.own
    floodAt := s.clk, beatAt := s.clk } }
  s.learnId.refreshTopo

/-- Locks and stages end (14 R399, R402). -/
def State.startDict (s : State) : State :=
  { s with dict := { s.dict with locks := [none, none, none, none], granted := [0xFF, 0xFF], stages := [{}, {}] } }

/-- The module's own fields: the main side is up. -/
def State.startModule (s : State) (kind : Nat) : State :=
  { s with
    module := { s.module with
      mainUp := true, loader := false, faultCause := 0, secondAt := s.clk, cal := none, calWaiting := false, sortAt := none, stopAt := none
      resetKind := kind, resume := decide (kind = 2) && s.module.interrupted && s.nat (obj 0x2001 0x0D) == 1, interrupted := false }
    cams := [{}, {}, {}, {}]
    loops := { s.loops with inputs := List.replicate 12 {}, pinTick := none }
    pins := { s.pins with faults := [none, none, none, none, none] }
    dma := {} }

/-- A pre-migration copy is released at a start that reaches Idle with its image confirmed, later than the one that made it (18 R487). -/
def State.releaseCopy (s : State) (had : Bool) : State :=
  if had && s.update.st != 5 && s.formatInForce == s.fwFormat then { s with update := { s.update with preMigration := none } } else s

/-- Ports that streamed before a restart by command 3 start again (18 R483). -/
def State.restartStreams (s : State) : State :=
  let ports := s.update.restartPorts
  let s := { s with update := { s.update with restartPorts := [] } }
  if s.module.resume then ports.foldl (fun s p => (actStartPort p s).1) s else s

/-- The trigger of the change to Idle by the kind of the start. -/
def startTrigger (kind : Nat) : Nat := if kind = 1 then trigWake else if kind = 3 then trigPowerFail else trigRestart

/-- Step 8: the values of the store that is in force. -/
def State.startValues (s : State) (kind : Nat) : State :=
  match s.chooseStore with
  | (s, p) =>
    ((s.loadValues p).startModule kind).loadApart p

/-- Step 9 at the calibration page: its half in force, and the drive's seeds of the valves it holds. -/
def State.startPage (s : State) (r : StartReadings) : State :=
  let s := s.readCalPage r.badHalves
  let page := s.halfInForce.isSome
  (s.putNat (obj 0x2000 9) (boolNat page)).seedDrive (if page then r.badValves else List.range s.valveCount)

/-- Steps 8 to 11. `upTicks` is how far the timebase has come since step 4. -/
def State.startSteps (s : State) (kind upTicks : Nat) (r : StartReadings) : State :=
  let had := s.update.preMigration.isSome
  let s := ((s.startValues kind).startDict.startThermal r.die).startStrand
  let s := ((s.startRecorder r.badSlots r.badHeaders).loadLedger r.tornLedger).startPage r
  let s := (s.seedPriors.recomputeFloors.releads.startLoops.startPanels r.flex r.badBlocks).startTime upTicks
  ((s.settleCcs.enterState .idle (startTrigger kind)).releaseCopy had).restartStreams

/-- Step 7 fails: Recovery with cause 2. -/
def State.startFails (s : State) (cause : Nat) : State :=
  ({ s with power := { s.power with state := 3 } }).enterRecovery cause

/-- The instant of a step of the table, `d` ms after the start of the table; a main-side restart begins at step 4, 320 ms into it. -/
def State.startStep (s : State) (d : Nat) : Nat := s.power.startAt + (if s.power.kind = 2 then d - 320 else d) * msTicks

/-- The main rails come up from off: the power cycle is counted up to 16,777,215 (12 R344, R347). Without V_SB the island, which had no
supply, starts with them from V5 (11 R320, 12 R344). -/
def State.railsFromOff (s : State) : State :=
  let k := obj 0x2001 0x0B
  let s := s.putNat k (min 16777215 (s.nat k + 1))
  if s.power.vsb then s else ((s.islandBoot.noteReset s).putNat (obj 0x2C00 0x0A) 1).raise 0x1008 0

/-- MAIN_SIDE_START (12 R341): each step at its latest instant. -/
def execMainSideStart (r : StartReadings) (s : State) : Host.Outcome State Fault Refusal :=
  let due := s.power.state = 1 ∨ (s.power.state = 3 ∧ s.power.kind = 2)
  if s.module.state ≠ .waking ∨ s.module.mainUp = true ∨ s.power.seqAt.isSome = true ∨ ¬due then .next s
  else
    let kind := s.power.kind
    let s1 := (if kind = 2 then s else s.railsFromOff)
    let s1 := { s1 with module := { s1.module with resetKind := kind } }
    match s1.bootChoice r.bootOk with
    | .none => .next (((s1.untested.atClk (s.startStep 330)).startFails 1).noteReset s)
    | choice =>
      let s1 := if choice = .staging then s1.firstStart (max s.clk (s.startStep 330))
        else { s1 with update := { s1.update with fw := s1.update.boot } }
      let s1 := s1.selfTest r.selfTest r.testMs
      if r.selfTest.isSome then .next (((s1.atClk (s.startStep 850)).startFails 2).noteReset s)
      else .next (((s1.atClk (s.startStep 1500)).startSteps kind (1178 * msTicks) r).noteReset s)

end Sys2Proof.Machine
end

