-- ==== Sys2Proof/Machine/Dispatch.lean ====
section
/-!
DEFINITION. One arm per command: each calls its meaning directly.
-/
namespace Sys2Proof.Machine

/-- The effect of a command on everything but the queue. -/
def exec (i : Instr) (s : State) : Host.Outcome State Fault Refusal :=
  match i with
  | .syncInterval => Sys2Proof.Machine.execSyncInterval s
  | .timeSync link t1 gm hops seq phase turnaround => Sys2Proof.Machine.execTimeSync link t1 gm hops seq phase turnaround s
  | .timeReply link seq phase => Sys2Proof.Machine.execTimeReply link seq phase s
  | .timeFollow link t4 seq => Sys2Proof.Machine.execTimeFollow link t4 seq s
  | .upstreamTimeout => Sys2Proof.Machine.execUpstreamTimeout s
  | .electionTimeout => Sys2Proof.Machine.execElectionTimeout s
  | .announce link candidate designated hops => Sys2Proof.Machine.execAnnounce link candidate designated hops s
  | .holdoverLimit => Sys2Proof.Machine.execHoldoverLimit s
  | .learnedFrequencyValid => Sys2Proof.Machine.execLearnedFrequencyValid s
  | .rootPllLockLost => Sys2Proof.Machine.execRootPllLockLost s
  | .syncInEdge rising phase => Sys2Proof.Machine.execSyncInEdge rising phase s
  | .syncOutPulse => Sys2Proof.Machine.execSyncOutPulse s
  | .lineTrigger p => Sys2Proof.Machine.execLineTrigger p s
  | .gateEdge v => Sys2Proof.Machine.execGateEdge v s
  | .pairingTimeout p => Sys2Proof.Machine.execPairingTimeout p s
  | .lineStart p tick fval => Sys2Proof.Machine.execLineStart p tick fval s
  | .lineComplete p clocks => Sys2Proof.Machine.execLineComplete p clocks s
  | .shortLine p clocks => Sys2Proof.Machine.execShortLine p clocks s
  | .fifoOverrun p => Sys2Proof.Machine.execFifoOverrun p s
  | .fvalFall p => Sys2Proof.Machine.execFvalFall p s
  | .settingsCommand m p data => Sys2Proof.Machine.execSettingsCommand m p data s
  | .rawTransmit m p data => Sys2Proof.Machine.execRawTransmit m p data s
  | .settingsTransmitStart p => Sys2Proof.Machine.execSettingsTransmitStart p s
  | .settingsTransmitEnd p => Sys2Proof.Machine.execSettingsTransmitEnd p s
  | .serialReceive p data => Sys2Proof.Machine.execSerialReceive p data s
  | .replyTimeout p => Sys2Proof.Machine.execReplyTimeout p s
  | .cc1WidthApply p => Sys2Proof.Machine.execCc1WidthApply p s
  | .startPort m p => Sys2Proof.Machine.execStartPort m p s
  | .startPlane m p => Sys2Proof.Machine.execStartPlane m p s
  | .stopStream m p => Sys2Proof.Machine.execStopStream m p s
  | .poclDetectionDone p loadA loadB => Sys2Proof.Machine.execPoclDetectionDone p loadA loadB s
  | .pixelClockStable p kHz => Sys2Proof.Machine.execPixelClockStable p kHz s
  | .pixelClockTimeout p => Sys2Proof.Machine.execPixelClockTimeout p s
  | .startupBlockSent p => Sys2Proof.Machine.execStartupBlockSent p s
  | .settleElapsed p => Sys2Proof.Machine.execSettleElapsed p s
  | .poclTrip p current => Sys2Proof.Machine.execPoclTrip p current s
  | .poclReapply p => Sys2Proof.Machine.execPoclReapply p s
  | .poclRearm m p => Sys2Proof.Machine.execPoclRearm m p s
  | .pixelClockLoss p => Sys2Proof.Machine.execPixelClockLoss p s
  | .portRecovery p kHz => Sys2Proof.Machine.execPortRecovery p kHz s
  | .portRejoin p => Sys2Proof.Machine.execPortRejoin p s
  | .fixStripe => Sys2Proof.Machine.execFixStripe s
  | .contextTableWrite m p sub v => Sys2Proof.Machine.execContextTableWrite m p sub v s
  | .gradeFrameTake => Sys2Proof.Machine.execGradeFrameTake s
  | .gradeFrameDone => Sys2Proof.Machine.execGradeFrameDone s
  | .objectClassified => Sys2Proof.Machine.execObjectClassified s
  | .bankImageWrite m bank image => Sys2Proof.Machine.execBankImageWrite m bank image s
  | .libraryLoad m bank slot => Sys2Proof.Machine.execLibraryLoad m bank slot s
  | .libraryLoadDone bank => Sys2Proof.Machine.execLibraryLoadDone bank s
  | .bankSwapRequest m => Sys2Proof.Machine.execBankSwapRequest m s
  | .captureDark m => Sys2Proof.Machine.execCaptureDark m s
  | .captureGrey m => Sys2Proof.Machine.execCaptureGrey m s
  | .captureBackdrop m => Sys2Proof.Machine.execCaptureBackdrop m s
  | .captureComplete => Sys2Proof.Machine.execCaptureComplete s
  | .captureTimeout => Sys2Proof.Machine.execCaptureTimeout s
  | .fixArrival x => Sys2Proof.Machine.execFixArrival x s
  | .upperSightingArrival x image => Sys2Proof.Machine.execUpperSightingArrival x image s
  | .fixDeadline handle => Sys2Proof.Machine.execFixDeadline handle s
  | .fireDecision handle => Sys2Proof.Machine.execFireDecision handle s
  | .recordRetire handle => Sys2Proof.Machine.execRecordRetire handle s
  | .dropGeometryWrite m sub value => Sys2Proof.Machine.execDropGeometryWrite m sub value s
  | .placementWrite m group value => Sys2Proof.Machine.execPlacementWrite m group value s
  | .governorRun => Sys2Proof.Machine.execGovernorRun s
  | .chipFrame src handle epoch segment count sendTick data => Sys2Proof.Machine.execChipFrame src handle epoch segment count sendTick data s
  | .chipReassemblyTimeout src handle epoch => Sys2Proof.Machine.execChipReassemblyTimeout src handle epoch s
  | .verdictMessage src sendTick handle epoch cls conf tail => Sys2Proof.Machine.execVerdictMessage src sendTick handle epoch cls conf tail s
  | .refusalMessage src sendTick handle epoch cause => Sys2Proof.Machine.execRefusalMessage src sendTick handle epoch cause s
  | .fireMessage src valve ta shotEnd handle conf cover => Sys2Proof.Machine.execFireMessage src valve ta shotEnd handle conf cover s
  | .floorRecompute => Sys2Proof.Machine.execFloorRecompute s
  | .deferralLimit v => Sys2Proof.Machine.execDeferralLimit v s
  | .kinkWindowOpen v => Sys2Proof.Machine.execKinkWindowOpen v s
  | .kinkWindowEnd v samples => Sys2Proof.Machine.execKinkWindowEnd v samples s
  | .thermalUpdate squares => Sys2Proof.Machine.execThermalUpdate squares s
  | .valveEnDeassert => Sys2Proof.Machine.execValveEnDeassert s
  | .valveEnAssert => Sys2Proof.Machine.execValveEnAssert s
  | .valveEnSettled => Sys2Proof.Machine.execValveEnSettled s
  | .groupOvercurrent g => Sys2Proof.Machine.execGroupOvercurrent g s
  | .coilShort v => Sys2Proof.Machine.execCoilShort v s
  | .valveStateWrite m v value => Sys2Proof.Machine.execValveStateWrite m v value s
  | .groupRestore m g => Sys2Proof.Machine.execGroupRestore m g s
  | .testShot m => Sys2Proof.Machine.execTestShot m s
  | .nop v => Sys2Proof.Machine.execNop v s
  | .boost v => Sys2Proof.Machine.execBoost v s
  | .boostPhaseEnd v tick energy => Sys2Proof.Machine.execBoostPhaseEnd v tick energy s
  | .boostAbandon v => Sys2Proof.Machine.execBoostAbandon v s
  | .hold v => Sys2Proof.Machine.execHold v s
  | .holdEnd v => Sys2Proof.Machine.execHoldEnd v s
  | .seti v => Sys2Proof.Machine.execSeti v s
  | .decay v => Sys2Proof.Machine.execDecay v s
  | .wait v => Sys2Proof.Machine.execWait v s
  | .waitExpiry v => Sys2Proof.Machine.execWaitExpiry v s
  | .waiti v => Sys2Proof.Machine.execWaiti v s
  | .waitiConditionMet v tick reading => Sys2Proof.Machine.execWaitiConditionMet v tick reading s
  | .waitiTimeout v reading => Sys2Proof.Machine.execWaitiTimeout v reading s
  | .mark v => Sys2Proof.Machine.execMark v s
  | .off v => Sys2Proof.Machine.execOff v s
  | .loop v => Sys2Proof.Machine.execLoop v s
  | .profileEnd v => Sys2Proof.Machine.execProfileEnd v s
  | .illegalWord word => Sys2Proof.Machine.execIllegalWord word s
  | .sequencerIdle v tick => Sys2Proof.Machine.execSequencerIdle v tick s
  | .shadowImageWrite m g image => Sys2Proof.Machine.execShadowImageWrite m g image s
  | .imageAllGroups m image => Sys2Proof.Machine.execImageAllGroups m image s
  | .groupSwapRequest m g => Sys2Proof.Machine.execGroupSwapRequest m g s
  | .swapAllGroups m => Sys2Proof.Machine.execSwapAllGroups m s
  | .groupSwap g => Sys2Proof.Machine.execGroupSwap g s
  | .swapHold g => Sys2Proof.Machine.execSwapHold g s
  | .swapAbandon g => Sys2Proof.Machine.execSwapAbandon g s
  | .profileSelect m v profile => Sys2Proof.Machine.execProfileSelect m v profile s
  | .operatingHour => Sys2Proof.Machine.execOperatingHour s
  | .valveReplaced m v => Sys2Proof.Machine.execValveReplaced m v s
  | .dieMarginSample margin => Sys2Proof.Machine.execDieMarginSample margin s
  | .bulkRechargeMeasured ticks rise => Sys2Proof.Machine.execBulkRechargeMeasured ticks rise s
  | .loopSample slot ains => Sys2Proof.Machine.execLoopSample slot ains s
  | .loopBankWrite m slot bank image => Sys2Proof.Machine.execLoopBankWrite m slot bank image s
  | .loopBankSwap m slot => Sys2Proof.Machine.execLoopBankSwap m slot s
  | .loopRearm m slot => Sys2Proof.Machine.execLoopRearm m slot s
  | .loopEnableWrite m slot value => Sys2Proof.Machine.execLoopEnableWrite m slot value s
  | .pin0Pulse tick => Sys2Proof.Machine.execPin0Pulse tick s
  | .traceArm m t => Sys2Proof.Machine.execTraceArm m t s
  | .traceForceTrigger m t => Sys2Proof.Machine.execTraceForceTrigger m t s
  | .traceStop m t => Sys2Proof.Machine.execTraceStop m t s
  | .traceSample t ains => Sys2Proof.Machine.execTraceSample t ains s
  | .panelScan => Sys2Proof.Machine.execPanelScan s
  | .pairComplete r => Sys2Proof.Machine.execPairComplete r s
  | .waveformTableWrite m panel table => Sys2Proof.Machine.execWaveformTableWrite m panel table s
  | .regionGo m slot => Sys2Proof.Machine.execRegionGo m slot s
  | .imageSlotWrite m slot image => Sys2Proof.Machine.execImageSlotWrite m slot image s
  | .trimMapWrite m panel map => Sys2Proof.Machine.execTrimMapWrite m panel map s
  | .railStep reading reading2 => Sys2Proof.Machine.execRailStep reading reading2 s
  | .railHoldExpiry => Sys2Proof.Machine.execRailHoldExpiry s
  | .railPowerDownStep reading => Sys2Proof.Machine.execRailPowerDownStep reading s
  | .stripWrite => Sys2Proof.Machine.execStripWrite s
  | .islandStripWrite => Sys2Proof.Machine.execIslandStripWrite s
  | .panelGrey m => Sys2Proof.Machine.execPanelGrey m s
  | .panelHome m => Sys2Proof.Machine.execPanelHome m s
  | .eventCodeAck m => Sys2Proof.Machine.execEventCodeAck m s
  | .strobePulse ch vf compliance => Sys2Proof.Machine.execStrobePulse ch vf compliance s
  | .strobeEnable m ch value => Sys2Proof.Machine.execStrobeEnable m ch value s
  | .mainsUp => Sys2Proof.Machine.execMainsUp s
  | .mainsOutOfRange => Sys2Proof.Machine.execMainsOutOfRange s
  | .inputPowerSample watts readings => Sys2Proof.Machine.execInputPowerSample watts readings s
  | .railOutOfRegulation rail => Sys2Proof.Machine.execRailOutOfRegulation rail s
  | .powerFailWarning => Sys2Proof.Machine.execPowerFailWarning s
  | .mainsReturn => Sys2Proof.Machine.execMainsReturn s
  | .mainSideOffElapsed => Sys2Proof.Machine.execMainSideOffElapsed s
  | .mooredRequest m => Sys2Proof.Machine.execMooredRequest m s
  | .mooredUpdatesDone => Sys2Proof.Machine.execMooredUpdatesDone s
  | .mooredEntryTimeout => Sys2Proof.Machine.execMooredEntryTimeout s
  | .wakeTimer => Sys2Proof.Machine.execWakeTimer s
  | .wakeIn high => Sys2Proof.Machine.execWakeIn high s
  | .wakeCanopen => Sys2Proof.Machine.execWakeCanopen s
  | .vSbLoss => Sys2Proof.Machine.execVSbLoss s
  | .vSbReturn mV => Sys2Proof.Machine.execVSbReturn mV s
  | .dieSample reading => Sys2Proof.Machine.execDieSample reading s
  | .diodeBrokenLimit => Sys2Proof.Machine.execDiodeBrokenLimit s
  | .fanStall fan => Sys2Proof.Machine.execFanStall fan s
  | .stateIdle m => Sys2Proof.Machine.execStateIdle m s
  | .stateCalibrate m => Sys2Proof.Machine.execStateCalibrate m s
  | .stateSort m => Sys2Proof.Machine.execStateSort m s
  | .sortingReached => Sys2Proof.Machine.execSortingReached s
  | .sortStopDone => Sys2Proof.Machine.execSortStopDone s
  | .mainSideStart r => Sys2Proof.Machine.execMainSideStart r s
  | .resumeSorting => Sys2Proof.Machine.execResumeSorting s
  | .watchdogExpiry => Sys2Proof.Machine.execWatchdogExpiry s
  | .restartCommand m => Sys2Proof.Machine.execRestartCommand m s
  | .signalDetect l => Sys2Proof.Machine.execSignalDetect l s
  | .retrainTimer l => Sys2Proof.Machine.execRetrainTimer l s
  | .hello l h => Sys2Proof.Machine.execHello l h s
  | .syncHeaderErrors l => Sys2Proof.Machine.execSyncHeaderErrors l s
  | .unknownControlBlock l type => Sys2Proof.Machine.execUnknownControlBlock l type s
  | .heartbeatSend => Sys2Proof.Machine.execHeartbeatSend s
  | .heartbeatReceived l id state time load seq => Sys2Proof.Machine.execHeartbeatReceived l id state time load seq s
  | .heartbeatLoss l => Sys2Proof.Machine.execHeartbeatLoss l s
  | .frameReceived l f seq crc => Sys2Proof.Machine.execFrameReceived l f seq crc s
  | .ackBlock l seq nak => Sys2Proof.Machine.execAckBlock l seq nak s
  | .creditBlock l vc blocks => Sys2Proof.Machine.execCreditBlock l vc blocks s
  | .frameForward => Sys2Proof.Machine.execFrameForward s
  | .topoRecord l r => Sys2Proof.Machine.execTopoRecord l r s
  | .topoFlood => Sys2Proof.Machine.execTopoFlood s
  | .topoExpiry id => Sys2Proof.Machine.execTopoExpiry id s
  | .dictRead src txn index sub part => Sys2Proof.Machine.execDictRead src txn index sub part s
  | .dictWrite src txn index sub whole offset total data => Sys2Proof.Machine.execDictWrite src txn index sub whole offset total data s
  | .dictSegmentTimeout src txn => Sys2Proof.Machine.execDictSegmentTimeout src txn s
  | .winRead src txn address len => Sys2Proof.Machine.execWinRead src txn address len s
  | .winWrite src txn address data => Sys2Proof.Machine.execWinWrite src txn address data s
  | .bulkFrame src stream seq last address data => Sys2Proof.Machine.execBulkFrame src stream seq last address data s
  | .mboxBell m => Sys2Proof.Machine.execMboxBell m s
  | .streamCfgWrite stream cfg value => Sys2Proof.Machine.execStreamCfgWrite stream cfg value s
  | .objectWrite m index sub v => Sys2Proof.Machine.execObjectWrite m index sub v s
  | .lockAcquire m first last lease slot => Sys2Proof.Machine.execLockAcquire m first last lease slot s
  | .lockRenew m lease slot => Sys2Proof.Machine.execLockRenew m lease slot s
  | .lockRelease m slot => Sys2Proof.Machine.execLockRelease m slot s
  | .lockExpiry slot => Sys2Proof.Machine.execLockExpiry slot s
  | .stageOpen m => Sys2Proof.Machine.execStageOpen m s
  | .stageCommit m => Sys2Proof.Machine.execStageCommit m s
  | .stageDiscard m => Sys2Proof.Machine.execStageDiscard m s
  | .stageTimeout m => Sys2Proof.Machine.execStageTimeout m s
  | .storeParameters m part value ends => Sys2Proof.Machine.execStoreParameters m part value ends s
  | .restoreDefaults m part req => Sys2Proof.Machine.execRestoreDefaults m part req s
  | .nmtStart node => Sys2Proof.Machine.execNmtStart node s
  | .nmtStop node => Sys2Proof.Machine.execNmtStop node s
  | .nmtPreOperational node => Sys2Proof.Machine.execNmtPreOperational node s
  | .nmtResetCommunication node => Sys2Proof.Machine.execNmtResetCommunication node s
  | .nmtResetNode node => Sys2Proof.Machine.execNmtResetNode node s
  | .canFrameReceived kind id data => Sys2Proof.Machine.execCanFrameReceived kind id data s
  | .canBusError tec rec_ => Sys2Proof.Machine.execCanBusError tec rec_ s
  | .busOffRecovery => Sys2Proof.Machine.execBusOffRecovery s
  | .clockSourceChange => Sys2Proof.Machine.execClockSourceChange s
  | .sdoDownload index sub complete data request => Sys2Proof.Machine.execSdoDownload index sub complete data request s
  | .sdoUpload index sub request => Sys2Proof.Machine.execSdoUpload index sub request s
  | .sdoTimeout => Sys2Proof.Machine.execSdoTimeout s
  | .syncFrame data => Sys2Proof.Machine.execSyncFrame data s
  | .rpdo n data => Sys2Proof.Machine.execRpdo n data s
  | .tpdoEventTimer n => Sys2Proof.Machine.execTpdoEventTimer n s
  | .emcySend => Sys2Proof.Machine.execEmcySend s
  | .heartbeatProduce => Sys2Proof.Machine.execHeartbeatProduce s
  | .heartbeatConsumerTimeout entry => Sys2Proof.Machine.execHeartbeatConsumerTimeout entry s
  | .lssSwitchGlobal mode => Sys2Proof.Machine.execLssSwitchGlobal mode s
  | .lssSwitchSelective vendor product revision serial => Sys2Proof.Machine.execLssSwitchSelective vendor product revision serial s
  | .lssConfigureNodeId node => Sys2Proof.Machine.execLssConfigureNodeId node s
  | .lssConfigureBitTiming table index => Sys2Proof.Machine.execLssConfigureBitTiming table index s
  | .lssActivateBitTiming delay => Sys2Proof.Machine.execLssActivateBitTiming delay s
  | .lssSwitchDelayEnd => Sys2Proof.Machine.execLssSwitchDelayEnd s
  | .lssStoreConfiguration ok => Sys2Proof.Machine.execLssStoreConfiguration ok s
  | .lssInquireVendorId => Sys2Proof.Machine.execLssInquireVendorId s
  | .lssInquireProductCode => Sys2Proof.Machine.execLssInquireProductCode s
  | .lssInquireRevision => Sys2Proof.Machine.execLssInquireRevision s
  | .lssInquireSerial => Sys2Proof.Machine.execLssInquireSerial s
  | .lssInquireNodeId => Sys2Proof.Machine.execLssInquireNodeId s
  | .lssIdentifyRemoteSlave vendor product revLow revHigh serLow serHigh => Sys2Proof.Machine.execLssIdentifyRemoteSlave vendor product revLow revHigh serLow serHigh s
  | .lssIdentifyNonConfigured => Sys2Proof.Machine.execLssIdentifyNonConfigured s
  | .lssFastscan number bitCheck sub next => Sys2Proof.Machine.execLssFastscan number bitCheck sub next s
  | .chStart c => Sys2Proof.Machine.execChStart c s
  | .chAbort c moved data => Sys2Proof.Machine.execChAbort c moved data s
  | .chAppend c => Sys2Proof.Machine.execChAppend c s
  | .chNextWrite c value => Sys2Proof.Machine.execChNextWrite c value s
  | .chIrqClear c => Sys2Proof.Machine.execChIrqClear c s
  | .chIrqUnmask c unmask => Sys2Proof.Machine.execChIrqUnmask c unmask s
  | .descriptorComplete data bad => Sys2Proof.Machine.execDescriptorComplete data bad s
  | .requestorAssert code => Sys2Proof.Machine.execRequestorAssert code s
  | .requestorWithdraw code moved data => Sys2Proof.Machine.execRequestorWithdraw code moved data s
  | .dmaStall => Sys2Proof.Machine.execDmaStall s
  | .recordWriteDone => Sys2Proof.Machine.execRecordWriteDone s
  | .tallySample => Sys2Proof.Machine.execTallySample s
  | .tallyConfigWrite m sub v => Sys2Proof.Machine.execTallyConfigWrite m sub v s
  | .selectBySequence m seq => Sys2Proof.Machine.execSelectBySequence m seq s
  | .exportLog m address => Sys2Proof.Machine.execExportLog m address s
  | .exportDone => Sys2Proof.Machine.execExportDone s
  | .clearChallenge m => Sys2Proof.Machine.execClearChallenge m s
  | .clearResponse m response => Sys2Proof.Machine.execClearResponse m response s
  | .clearLockExpiry => Sys2Proof.Machine.execClearLockExpiry s
  | .stagingImageWrite m offset total data => Sys2Proof.Machine.execStagingImageWrite m offset total data s
  | .stagingIdleTimeout => Sys2Proof.Machine.execStagingIdleTimeout s
  | .verifyDone => Sys2Proof.Machine.execVerifyDone s
  | .updateVerifyAgain m => Sys2Proof.Machine.execUpdateVerifyAgain m s
  | .updateMarkPending m => Sys2Proof.Machine.execUpdateMarkPending m s
  | .updateMarkPendingRestart m => Sys2Proof.Machine.execUpdateMarkPendingRestart m s
  | .updateCancelPending m => Sys2Proof.Machine.execUpdateCancelPending m s
  | .updateRestartFromStaging m => Sys2Proof.Machine.execUpdateRestartFromStaging m s
  | .updateStageFromDdr m => Sys2Proof.Machine.execUpdateStageFromDdr m s
  | .copyBlockDone => Sys2Proof.Machine.execCopyBlockDone s
  | .firstStartWatchEnd => Sys2Proof.Machine.execFirstStartWatchEnd s
  | .librarySlotWrite m slot image => Sys2Proof.Machine.execLibrarySlotWrite m slot image s
  | .airOkEdge level => Sys2Proof.Machine.execAirOkEdge level s
  | .guardOkEdge level => Sys2Proof.Machine.execGuardOkEdge level s
  | .doutOverload out => Sys2Proof.Machine.execDoutOverload out s
  | .doutRetry out => Sys2Proof.Machine.execDoutRetry out s
  | .strapRead row westEnd => Sys2Proof.Machine.execStrapRead row westEnd s
  | .tachometerPulse fan period => Sys2Proof.Machine.execTachometerPulse fan period s
  | .islandWatchdogExpiry => Sys2Proof.Machine.execIslandWatchdogExpiry s
  | .canFrameSent => Sys2Proof.Machine.execCanFrameSent s

end Sys2Proof.Machine
end

