-- ==== Sys2Proof/Safety.lean ====
section
/-!
DEFINITION. What claims about the block speak of: its parts, what a command may change of them and of the dictionary's values, and the invariant
that every state of a run meets.
-/
namespace Sys2Proof.Machine

/-- The parts of the state, one per chapter of the manual, with the queue, the log of what was sent, the dictionary's values and memory. -/
inductive Part where
  | pending | variant | clk | freeCtr | out | od | mem | time | cams | pipe | tracker | drive | seqs | ledger | loops | power | thermal
  | backdrop | module | strand | dict | side | pins | dma | recorder | update
  deriving DecidableEq, Repr

/-- A part stands in two states alike. -/
def State.agree (p : Part) (s t : State) : Prop :=
  match p with
  | .pending => t.pending = s.pending
  | .variant => t.variant = s.variant
  | .clk => t.clk = s.clk
  | .freeCtr => t.freeCtr = s.freeCtr
  | .out => t.out = s.out
  | .od => t.od = s.od
  | .mem => t.mem = s.mem
  | .time => t.time = s.time
  | .cams => t.cams = s.cams
  | .pipe => t.pipe = s.pipe
  | .tracker => t.tracker = s.tracker
  | .drive => t.drive = s.drive
  | .seqs => t.seqs = s.seqs
  | .ledger => t.ledger = s.ledger
  | .loops => t.loops = s.loops
  | .power => t.power = s.power
  | .thermal => t.thermal = s.thermal
  | .backdrop => t.backdrop = s.backdrop
  | .module => t.module = s.module
  | .strand => t.strand = s.strand
  | .dict => t.dict = s.dict
  | .side => t.side = s.side
  | .pins => t.pins = s.pins
  | .dma => t.dma = s.dma
  | .recorder => t.recorder = s.recorder
  | .update => t.update = s.update

/-- From `s` to `t` at most the listed parts change: every other part, with every register and byte in it, stands as before. -/
def State.Only (ps : List Part) (s t : State) : Prop := ∀ p, p ∉ ps → s.agree p t

/-- An outcome is a next state in which at most the listed parts have changed. -/
def NextOnly (ps : List Part) (s : State) (o : Host.Outcome State Fault Refusal) : Prop := ∃ t, o = .next t ∧ s.Only ps t

/-- The parts that the log of an event reaches: what was sent, counters, the strip's event code, EVENT messages, the EMCY queue, the recorder
(17 R472, 13 R378, 15 R430, 10 R299). -/
abbrev eventParts : List Part := [.out, .od, .backdrop, .strand, .side, .recorder]

/-! ### What claims about masters' commands speak of -/

/-- A write that passes every check of 14 R393, meets no open stage and no lock of the other master: its object's own rule decides. -/
def State.writable (s : State) (m : Master) (k : Nat) (v : Val) : Bool :=
  s.reachable m && s.checkWrite s.nat m k v == 0 && !((s.stage m).isOpen && stageable k) && !s.lockedBy (otherMaster m) k

/-- The answer to a master that its write was carried out (14 R393). -/
abbrev ack (m : Master) (k : Nat) : Output := .reply m (k / 256) (k % 256) 0 []

/-- A counter after one more count: it stands at the largest value of its type. -/
abbrev State.counted (s : State) (k : Nat) : Nat := min (maxOf k) (s.nat k + 1)

/-- The wire of a link is free and nothing waits for it: no frame in its queue, none to be replayed, none interrupted (13 R353, R355). -/
def State.wireIdle (s : State) (l : Nat) : Bool :=
  (s.link l).queue.isEmpty && (s.link l).replay.isEmpty && (s.link l).broken.isNone && decide ((s.link l).freeAt ≤ 8 * s.clk)

/-! ### Values of objects that stand -/

/-- The counters of sending a frame: detours, sidesteps, frames without a route (13 R369), and frames sent on each port. -/
abbrev frameKeys : List Nat :=
  [obj 0x2206 2, obj 0x2206 3, obj 0x2206 4, obj 0x2206 5, obj 0x2210 1, obj 0x2211 1, obj 0x2212 1, obj 0x2213 1]

/-- What the log of an event may count besides: events without a host anchor (13 R383), and entries lost to full buffers (15 R430, 17 R467). -/
abbrev eventKeys : List Nat := [obj 0x2206 6, obj 0x2D02 0x0D, obj 0x2D02 0x0F]

/-- A set of objects that a command may write. -/
inductive KeySet where
  /-- One object. -/
  | one (k : Nat)
  /-- The counters of sending a frame. -/
  | frames
  /-- The counters of the log of an event. -/
  | events
  /-- The object of every valve, every group, every camera port and every loop slot at an index. -/
  | valves (index : Nat)
  | groups (index : Nat)
  | ports (index sub : Nat)
  | slots (index sub : Nat)
  /-- Every counter that only a clear of the recorder resets (17 R471). -/
  | cleared
  /-- Every object. -/
  | any
  deriving DecidableEq, Repr

/-- The set holds an object. -/
def KeySet.has : KeySet → Nat → Prop
  | .one j, k => k = j
  | .frames, k => k ∈ frameKeys
  | .events, k => k ∈ eventKeys
  | .valves i, k => ∃ v, v < 256 ∧ k = valveKey i v
  | .groups i, k => ∃ g, g < 32 ∧ k = groupKey i g
  | .ports i j, k => ∃ p, p < 4 ∧ k = camKey p i j
  | .slots i j, k => ∃ n, n < 8 ∧ k = slotKey n i j
  | .cleared, k => clearedWithRecorder k = true
  | .any, _ => True

/-- From `s` to `t` every object of the dictionary outside the listed sets holds the value it held. -/
structure State.Keeps (ks : List KeySet) (s t : State) : Prop where
  val : ∀ k, (∀ x ∈ ks, ¬x.has k) → t.val k = s.val k

/-- An outcome is a next state in which at most the listed parts and, of the dictionary's values, at most the listed objects have changed. -/
def NextKeeps (ps : List Part) (ks : List KeySet) (s : State) (o : Host.Outcome State Fault Refusal) : Prop :=
  ∃ t, o = .next t ∧ s.Only ps t ∧ s.Keeps ks t

/-! ### The invariant -/

def TimeSt.shaped (x : TimeSt) : Prop := x.delays.length = 4 ∧ x.heard.length = 4 ∧ x.far.length = 4
def Pipeline.shaped (x : Pipeline) : Prop := x.ports.length = 4 ∧ x.banks.length = 2
def Tracker.shaped (x : Tracker) : Prop := x.placement.length = 16
def Drive.shaped (x : Drive) : Prop := x.valves.length = 256 ∧ x.groups.length = 32
def Sequencers.shaped (x : Sequencers) : Prop := x.seqs.length = 256 ∧ x.stores.length = 32
def Loops.shaped (x : Loops) : Prop := x.slots.length = 8 ∧ x.inputs.length = 12 ∧ x.traces.length = 4
def Backdrop.shaped (x : Backdrop) : Prop := x.panels.length = 2 ∧ x.slots.length = 8 ∧ x.strobes.length = 4
def Thermal.shaped (x : Thermal) : Prop := x.stalled.length = 4
def Strand.shaped (x : Strand) : Prop := x.links.length = 4 ∧ x.streams.length = 16 ∧ x.mailboxes.length = 4
def Dict.shaped (x : Dict) : Prop := x.locks.length = 4 ∧ x.stages.length = 2 ∧ x.stores.length = 2
def Pins.shaped (x : Pins) : Prop := x.faults.length = 5
def Dma.shaped (x : Dma) : Prop := x.channels.length = 16
/-- 15 R417, R430: twelve receive buffers, and at most 16 EMCY frames wait. -/
def Sideband.shaped (x : Sideband) : Prop := x.rx.length = 12 ∧ x.consumers.length = 4 ∧ x.emcy.length ≤ 16
/-- 17 R463, R467: slots 0 to 1,999 by number, the record being written among them, and at most 128 events in the island buffer. -/
def Recorder.shaped (x : Recorder) : Prop :=
  assocSorted x.slots = true ∧ x.slots.all (fun p => p.1 < 2000) = true ∧ x.writing.all (fun w => w.slot < 2000) = true
    ∧ x.island.length ≤ 128 ∧ x.copies.length = 2

/-- The invariant: memory and the dictionary's values stand in their canonical forms, and every part has the ports, valves, groups, slots,
channels and buffers the manual gives the block. -/
structure State.Inv (s : State) : Prop where
  mem : Mem.wf s.mem = true
  od : assocSorted s.od = true
  cams : s.cams.length = 4
  time : s.time.shaped
  pipe : s.pipe.shaped
  tracker : s.tracker.shaped
  drive : s.drive.shaped
  seqs : s.seqs.shaped
  loops : s.loops.shaped
  thermal : s.thermal.shaped
  backdrop : s.backdrop.shaped
  strand : s.strand.shaped
  dict : s.dict.shaped
  side : s.side.shaped
  pins : s.pins.shaped
  dma : s.dma.shaped
  recorder : s.recorder.shaped

end Sys2Proof.Machine
end

