-- ==== Sys2Proof/Certificates/Slice0/Obligations.lean ====
section
/-!
DEFINITION. The statements for the provers, one definition each. Results come family by family in the order of the manual, then the frames of the
families, then what holds of every step.
-/
set_option Elab.async false
set_option maxRecDepth 4000

open Sys2Proof Sys2Proof.Machine

/-- For each command of an exchange over a link that is up (for TIME REPLY one whose wire is free), on operands and state alone: SYNC_INTERVAL
advances local time to its instant, takes the interval written and counts its sequence; TIME_SYNC stamps the far end's exchange and notes the
grandmaster heard; TIME_REPLY sends TIME FOLLOW with t4; TIME_FOLLOW of a link that is not upstream stores its delay. -/
def Obligations.TimeExchangeResults : Prop :=
  (∀ (h g : Nat) (s : State),
      s.module.mainUp = true →
      s.clk ≤ s.time.syncAt →
      s.nat (obj 0x2101 1) = s.time.designated →
      s.time.electing = false →
      s.time.hops = some h →
      s.time.gm = some g →
      ∃ t, exec .syncInterval s = .next t
        ∧ t.clk = s.time.syncAt
        ∧ t.time.interval = s.nat (obj 0x2101 5) * usTicks
        ∧ t.time.syncAt = s.time.syncAt + s.nat (obj 0x2101 5) * usTicks
        ∧ t.time.seq = (s.time.seq + 1) % 65536)
  ∧ (∀ (link : Link) (t1 gm hops seq phase turnaround : Nat) (s : State),
      s.time.shaped →
      s.module.mainUp = true →
      s.linkUp link.val = true →
      s.time.gm = some gm →
      gm ≠ s.strand.id →
      ∃ t, exec (.timeSync link t1 gm hops seq phase turnaround) s = .next t
        ∧ t.time.far.getD link.val none = some ⟨seq, t1, 4 * s.tick + phase % 4, 4 * s.tick + phase % 4 + turnaround⟩
        ∧ t.time.heard.getD link.val none = some ⟨s.clk, gm, hops⟩
        ∧ t.time.gm = some gm
        ∧ t.clk = s.clk)
  ∧ (∀ (link : Link) (seq phase : Nat) (s : State),
      s.strand.shaped →
      s.module.mainUp = true →
      s.linkUp link.val = true →
      s.wireIdle link.val = true →
      4 ≤ (s.link link.val).credits.getD 0 0 →
      ∃ t, exec (.timeReply link seq phase) s = .next t
        ∧ t.out = frameOut link.val ⟨{ vc := 0, dest := 0xFFF, src := s.strand.id, type := 2, len := 2 }, [s.tick, (phase % 4) <<< 62 ||| (seq % 65536) <<< 26], false⟩ 0 :: s.out
        ∧ t.time = s.time)
  ∧ (∀ (link : Link) (t4 seq : Nat) (e : Exchange) (s : State),
      s.time.shaped →
      s.module.mainUp = true →
      s.time.far.getD link.val none = some e →
      e.seq = seq →
      s.time.upstream ≠ some link.val →
      ∃ t, exec (.timeFollow link t4 seq) s = .next t
        ∧ t.time.delays.getD link.val 0 = min max32 (roundN (exchangeDelay e t4))
        ∧ t.time.far.getD link.val none = none
        ∧ t.time.state = s.time.state)

/-- UPSTREAM_TIMEOUT of a LOCKED module with no other fresh port jumps to 4 sync intervals after the last TIME SYNC and enters SLACK with an election
due 4 ms later; ELECTION_TIMEOUT starts the election at its instant, and the module that is best when the silent grandmaster counts for nothing
becomes grandmaster; ANNOUNCE of another candidate is taken as best where none was known; HOLDOVER_LIMIT acquires 60 s after the entry to SLACK;
LEARNED_FREQUENCY_VALID comes 10 s after the lock; ROOT_PLL_LOCK_LOST takes the module to Fault. -/
def Obligations.TimeStateResults : Prop :=
  (∀ (l : Nat) (x : Heard) (s : State),
      s.time.shaped →
      s.time.upstream = some l →
      s.time.heard.getD l none = some x →
      s.time.state = .locked →
      s.clk ≤ x.at_ + 4 * s.time.interval →
      (∀ j, j ≠ l → s.time.heard.getD j none = none) →
      ∃ t, exec .upstreamTimeout s = .next t
        ∧ t.clk = x.at_ + 4 * s.time.interval
        ∧ t.time.state = .slack
        ∧ t.time.slackAt = t.clk
        ∧ t.time.upstream = none
        ∧ t.time.hops = none
        ∧ t.time.electAt = some (t.clk + 4 * msTicks))
  ∧ (∀ (u : Nat) (s : State),
      s.time.electAt = some u →
      s.module.mainUp = true →
      s.clk ≤ u →
      (s.setTime { s.time with lost := s.time.gm }).isBest = true →
      ∃ t, exec .electionTimeout s = .next t
        ∧ t.clk = u
        ∧ t.time.state = .grandmaster
        ∧ t.time.gm = some s.strand.id
        ∧ t.time.hops = some 0
        ∧ t.time.electAt = none
        ∧ t.time.electing = false)
  ∧ (∀ (link : Link) (candidate : Nat) (hops : Nat) (s : State),
      s.module.mainUp = true →
      s.linkUp link.val = true →
      s.time.best = none →
      ∃ t, exec (.announce link candidate false hops) s = .next t
        ∧ t.time.best = some ⟨candidate, false, min 255 (hops + 1)⟩
        ∧ t.time.gm = s.time.gm
        ∧ t.clk = s.clk)
  ∧ (∀ (s : State),
      s.time.state = .slack →
      s.clk ≤ s.time.slackAt + 60 * secTicks →
      ∃ t, exec .holdoverLimit s = .next t
        ∧ t.clk = s.time.slackAt + 60 * secTicks
        ∧ t.time.state = .acquiring
        ∧ t.time.upstream = none
        ∧ t.time.hops = none
        ∧ t.time.first = true)
  ∧ (∀ (s : State),
      s.time.state = .locked →
      s.clk ≤ s.time.lockedAt + 10 * secTicks →
      ∃ t, exec .learnedFrequencyValid s = .next t
        ∧ t.clk = s.time.lockedAt + 10 * secTicks
        ∧ t.time.learned = true
        ∧ t.time.state = .locked)
  ∧ (∀ (s : State),
      s.module.mainUp = true →
      s.module.state = .idle →
      ∃ t, exec .rootPllLockLost s = .next t
        ∧ t.time.pllLocked = false
        ∧ t.module.state = .fault
        ∧ t.module.faultCause = 0xF006)

/-- SYNC_IN_EDGE of the active edge in mode 1 stores the tick in 0x2104:04, counts in 0x2104:05 and keeps the quarter-tick stamp; SYNC_OUT_PULSE
outside FREE and ACQUIRING emits the pulse of the width written at the due tick and takes the next edge by period and phase. -/
def Obligations.SyncPinResults : Prop :=
  (∀ (rising : Bool) (phase : Nat) (s : State),
      s.module.mainUp = true →
      s.nat (obj 0x2105 1) = 0 →
      s.nat (obj 0x2104 1) = 1 →
      rising = (s.nat (obj 0x2104 2) == 0) →
      ∃ t, exec (.syncInEdge rising phase) s = .next t
        ∧ t.nat (obj 0x2104 4) = s.tick
        ∧ t.nat (obj 0x2104 5) = min max32 (s.nat (obj 0x2104 5) + 1)
        ∧ t.time.syncIn = some (4 * s.tick + phase % 4)
        ∧ t.time.counter = s.time.counter)
  ∧ (∀ (u : Nat) (s : State),
      s.time.syncOut = some u →
      s.module.mainUp = true →
      s.time.counter ≤ u →
      s.time.state = .locked →
      ∃ t, exec .syncOutPulse s = .next t
        ∧ t.time.counter = u
        ∧ .syncOut u (s.nat (obj 0x2105 4)) ∈ t.out
        ∧ t.time.syncOut = some (s.syncOutAfter u)
        ∧ t.time.syncOutEnd = some (u + s.nat (obj 0x2105 4)))

/-- LINE_TRIGGER fires CC1 on its grid tick, appends the trigger and shows its index; PAIRING_TIMEOUT empties the pending list of an expired trigger
and counts it missing; LINE_START pairs with the oldest pending trigger or, with none pending and no stop under way, is counted unsolicited;
LINE_COMPLETE and SHORT_LINE end the line in reception and count it short exactly where columns were padded; FIFO_OVERRUN gives the line up and
counts; FVAL_FALL completes every frame. -/
def Obligations.CameraLineResults : Prop :=
  (∀ (p : Port) (s : State),
      s.cams.length = 4 →
      (s.cam p).cc1Running = true →
      (s.cam p).step ≠ .armed →
      s.timeRuns = true →
      (s.cam p).pending = [] →
      s.time.counter ≤ s.gridTick p (s.cam p).gridN →
      s.fvalMode p = true ∨ (s.cam p).frames.any (fun f => !f.complete) = true →
      ∃ t, exec (.lineTrigger p) s = .next t
        ∧ t.time.counter = s.gridTick p (s.cam p).gridN
        ∧ (t.cam p).pending = [⟨s.gridTick p (s.cam p).gridN, (s.cam p).nextIndex, false⟩]
        ∧ (t.cam p).nextIndex = (s.cam p).nextIndex + 1
        ∧ (t.cam p).gridN = (s.cam p).gridN + 1
        ∧ t.nat (camKey p 0x2300 5) = (s.cam p).nextIndex
        ∧ .cc1 p (s.gridTick p (s.cam p).gridN) (s.cam p).cc1Width ∈ t.out)
  ∧ (∀ (p : Port) (u : PendingTrigger) (s : State),
      s.cams.length = 4 →
      (s.cam p).pending = [u] →
      s.timeRuns = true →
      s.time.counter ≤ u.tick + s.wmax p →
      ∃ t, exec (.pairingTimeout p) s = .next t
        ∧ t.time.counter = u.tick + s.wmax p + 1
        ∧ (t.cam p).pending = []
        ∧ t.nat (camKey p 0x2307 1) = s.counted (camKey p 0x2307 1))
  ∧ (∀ (p : Port) (tick : Nat) (fval : Bool) (u : PendingTrigger) (r : List PendingTrigger) (s : State),
      s.cams.length = 4 →
      (s.cam p).state = .streaming →
      (s.cam p).line = none →
      s.timeRuns = true →
      (s.cam p).pending = u :: r →
      u.lost = false →
      s.time.counter ≤ tick →
      u.tick + s.wmin p ≤ tick →
      tick ≤ u.tick + s.wmax p →
      ∃ t, exec (.lineStart p tick fval) s = .next t
        ∧ t.time.counter = tick
        ∧ (t.cam p).pending = r
        ∧ (t.cam p).line.map (fun l => l.trigger) = some u
        ∧ (t.cam p).fval = fval)
  ∧ (∀ (p : Port) (tick : Nat) (fval : Bool) (s : State),
      (s.cam p).state = .streaming →
      (s.cam p).stopping = false →
      (s.cam p).line = none →
      s.timeRuns = true →
      (s.cam p).pending = [] →
      s.time.counter ≤ tick →
      ∃ t, exec (.lineStart p tick fval) s = .next t
        ∧ t.time.counter = tick
        ∧ t.nat (camKey p 0x2307 2) = s.counted (camKey p 0x2307 2)
        ∧ t.cams = s.cams)
  ∧ (∀ (p : Port) (clocks : List PixelClock) (l : LineInWork) (s : State),
      s.cams.length = 4 →
      (s.cam p).line = some l →
      ∃ t, exec (.lineComplete p clocks) s = .next t
        ∧ (t.cam p).line = none
        ∧ (t.cam p).consecutiveMissing = 0
        ∧ (t.cam p).pending = (s.cam p).pending
        ∧ t.nat (camKey p 0x2307 3) = (if ((s.placePixels p (s.validClocks p clocks)).2).isEmpty then s.nat (camKey p 0x2307 3) else s.counted (camKey p 0x2307 3)))
  ∧ (∀ (p : Port) (clocks : List PixelClock) (l : LineInWork) (s : State),
      s.cams.length = 4 →
      (s.cam p).line = some l →
      ((s.placePixels p ((s.validClocks p clocks).take (ceilDiv (s.widthOf p) (max 1 (s.ppc p)) - 1))).2).isEmpty = false →
      ∃ t, exec (.shortLine p clocks) s = .next t
        ∧ (t.cam p).line = none
        ∧ (t.cam p).consecutiveMissing = 0
        ∧ t.nat (camKey p 0x2307 3) = s.counted (camKey p 0x2307 3))
  ∧ (∀ (p : Port) (l : LineInWork) (s : State),
      s.cams.length = 4 →
      (s.cam p).line = some l →
      l.trigger.lost = false →
      (s.cam p).consecutiveMissing < 63 →
      ∃ t, exec (.fifoOverrun p) s = .next t
        ∧ (t.cam p).line = none
        ∧ (t.cam p).consecutiveMissing = (s.cam p).consecutiveMissing + 1
        ∧ t.nat (camKey p 0x2307 4) = s.counted (camKey p 0x2307 4))
  ∧ (∀ (p : Port) (s : State),
      s.cams.length = 4 →
      s.fvalMode p = true →
      ∃ t, exec (.fvalFall p) s = .next t
        ∧ (t.cam p).fval = false
        ∧ (t.cam p).frames.all (fun f => f.complete) = true)

/-- A SETTINGS_COMMAND accepted while the port streams joins the queue of four and is acknowledged; RAW_TRANSMIT outside streaming puts its bytes on
the link; the transmission takes the oldest command with the next generation and ends at its instant, counted; received bytes fill the buffer up
to 256; a reply that does not come is counted and its generation marked unconfirmed; a waiting CC1 width is applied between frames with the next
generation. -/
def Obligations.CameraSerialResults : Prop :=
  (∀ (m : Master) (p : Port) (data : List Byte) (s : State),
      s.cams.length = 4 →
      s.writable m (camKey p 0x2305 1) (.bytes data) = true →
      (s.cam p).state = .streaming →
      (s.cam p).queue.length < 4 →
      ∃ t, exec (.settingsCommand m p data) s = .next t
        ∧ (t.cam p).queue = (s.cam p).queue ++ [data]
        ∧ t.out = ack m (camKey p 0x2305 1) :: s.out)
  ∧ (∀ (m : Master) (p : Port) (data : List Byte) (s : State),
      s.writable m (camKey p 0x2305 3) (.bytes data) = true →
      (s.cam p).state ≠ .streaming →
      ∃ t, exec (.rawTransmit m p data) s = .next t
        ∧ t.out = ack m (camKey p 0x2305 3) :: .serial p data :: s.out
        ∧ t.cams = s.cams)
  ∧ (∀ (p : Port) (d : List Byte) (r : List (List Byte)) (f : OpenFrame) (s : State),
      s.cams.length = 4 →
      (s.cam p).queue = d :: r →
      (s.cam p).frames.getLast? = some f →
      (s.cam p).state = .streaming →
      (s.cam p).sending = none →
      f.complete = false →
      f.triggers ≤ 1 →
      (s.cam p).sentEnd ≤ f.firstClk →
      ∃ t, exec (.settingsTransmitStart p) s = .next t
        ∧ (t.cam p).queue = r
        ∧ (t.cam p).lastGen = ((s.cam p).lastGen + 1) % 2 ^ 32
        ∧ (t.cam p).sending = some (((s.cam p).lastGen + 1) % 2 ^ 32, s.clk + s.serialTicks p d.length)
        ∧ t.out = .serial p d :: s.out)
  ∧ (∀ (p : Port) (g u : Nat) (s : State),
      s.cams.length = 4 →
      (s.cam p).sending = some (g, u) →
      s.clk ≤ u →
      ∃ t, exec (.settingsTransmitEnd p) s = .next t
        ∧ t.clk = u
        ∧ (t.cam p).sending = none
        ∧ (t.cam p).sentEnd = u
        ∧ t.nat (camKey p 0x2307 0x0B) = s.counted (camKey p 0x2307 0x0B))
  ∧ (∀ (p : Port) (data : List Byte) (s : State),
      s.cams.length = 4 →
      s.module.mainUp = true →
      ∃ t, exec (.serialReceive p data) s = .next t
        ∧ (t.cam p).rx = (s.cam p).rx ++ data.take (256 - (s.cam p).rx.length)
        ∧ t.nat (camKey p 0x2305 5) = min (maxOf (camKey p 0x2305 5)) (s.nat (camKey p 0x2305 5) + (data.length - (256 - (s.cam p).rx.length))))
  ∧ (∀ (p : Port) (g u : Nat) (r : List (Nat × Nat)) (s : State),
      s.cams.length = 4 →
      (s.cam p).replies = (g, u) :: r →
      s.clk ≤ u →
      ∃ t, exec (.replyTimeout p) s = .next t
        ∧ t.clk = u
        ∧ (t.cam p).replies = r
        ∧ (t.cam p).unconfirmed = (s.cam p).unconfirmed ++ [g]
        ∧ t.nat (camKey p 0x2307 0x0A) = s.counted (camKey p 0x2307 0x0A))
  ∧ (∀ (p : Port) (w : Nat) (s : State),
      s.cams.length = 4 →
      (s.cam p).cc1Pending = some w →
      (s.cam p).frames.all (fun f => f.complete) = true →
      ∃ t, exec (.cc1WidthApply p) s = .next t
        ∧ (t.cam p).cc1Width = w
        ∧ (t.cam p).cc1Pending = none
        ∧ (t.cam p).lastGen = ((s.cam p).lastGen + 1) % 2 ^ 32)

/-- An accepted START_PORT or START_PLANE begins the detection or clock step with a deadline 5 s ahead; each later step takes its instant: detection
sets PoCL, a clock within 20 to 85 MHz and the grid goes on to the start-up block, the time-out returns the port and counts, the block's end
begins the settle time, its end places the first trigger at least 10 µs ahead, and at that trigger, of index 0, the port streams. STOP_STREAM of
a port that is starting returns it to the state before. A PoCL trip removes power, the third in 60 s latches, one second later it is applied
again, and the rearm command detects anew. -/
def Obligations.CameraStartResults : Prop :=
  (∀ (m : Master) (p : Port) (s : State),
      s.cams.length = 4 →
      s.writable m (camKey p 0x2301 1) (.num 1) = true →
      s.startBarred p = false →
      s.profileOk p = true →
      s.admission [p.val] = 0 →
      ∃ t, exec (.startPort m p) s = .next t
        ∧ (t.cam p).state = .starting
        ∧ (t.cam p).before = (s.cam p).state
        ∧ (t.cam p).step = (if s.nat (camKey p 0x2301 2) = 1 ∧ (s.cam p).pocl ≠ 2 then .detect else .clock)
        ∧ (t.cam p).startDeadline = s.clk + 5 * secTicks
        ∧ t.nat (camKey p 0x2301 1) = 1
        ∧ t.out = ack m (camKey p 0x2301 1) :: s.out)
  ∧ (∀ (m : Master) (p : Port) (s : State),
      s.cams.length = 4 →
      s.writable m (camKey p 0x2301 1) (.num 2) = true →
      s.startBarred p = false →
      s.profileOk p = true →
      (∀ q, s.partner p = some q → s.startBarred q = false ∧ s.profileOk q = true) →
      s.admission (p.val :: (s.partner p).toList) = 0 →
      ∃ t, exec (.startPlane m p) s = .next t
        ∧ (t.cam p).state = .starting
        ∧ (t.cam p).planeStart = true
        ∧ (∀ q, s.partner p = some q → (t.cam q).state = .starting ∧ (t.cam q).planeStart = true)
        ∧ t.nat (camKey p 0x2301 1) = 2
        ∧ t.out = ack m (camKey p 0x2301 1) :: s.out)
  ∧ (∀ (m : Master) (p : Port) (s : State),
      s.cams.length = 4 →
      s.writable m (camKey p 0x2301 1) (.num 0) = true →
      (s.cam p).state = .starting →
      (s.cam p).planeStart = false →
      ∃ t, exec (.stopStream m p) s = .next t
        ∧ (t.cam p).state = (s.cam p).before
        ∧ (t.cam p).step = .none
        ∧ t.out = ack m (camKey p 0x2301 1) :: s.out)
  ∧ (∀ (m : Master) (p : Port) (s : State),
      s.cams.length = 4 →
      s.writable m (camKey p 0x2301 1) (.num 0) = true →
      (s.cam p).state = .streaming →
      s.fvalMode p = false →
      (s.cam p).frames.any (fun f => !f.complete) = true →
      (s.cam p).cc1Running = true →
      ∃ t, exec (.stopStream m p) s = .next t
        ∧ (t.cam p).state = .streaming
        ∧ (t.cam p).stopping = true
        ∧ (t.cam p).cc1Running = true
        ∧ t.out.head? = some (ack m (camKey p 0x2301 1)))
  ∧ (∀ (p : Port) (loadA loadB : Bool) (s : State),
      s.cams.length = 4 →
      (s.cam p).pocl = 1 →
      ∃ t, exec (.poclDetectionDone p loadA loadB) s = .next t
        ∧ (t.cam p).pocl = (if loadA || (loadB && s.nat (camKey p 0x2302 1) != 0) then 2 else 5)
        ∧ (t.cam p).step = (if (s.cam p).step = .detect then .clock else (s.cam p).step)
        ∧ (t.cam p).poclLoadA = loadA)
  ∧ (∀ (p : Port) (kHz : Nat) (s : State),
      s.cams.length = 4 →
      s.module.mainUp = true →
      (s.cam p).step = .clock →
      s.clk ≤ (s.cam p).startDeadline →
      20000 ≤ kHz →
      kHz ≤ 85000 →
      ((s.widthOf p * 800000 : Nat) : ℚ) / ((s.ppc p * kHz : Nat) : ℚ) ≤ s.linePeriod p * 1005 / 1000 →
      ∃ t, exec (.pixelClockStable p kHz) s = .next t
        ∧ (t.cam p).step = .sending
        ∧ (t.cam p).clockKHz = kHz
        ∧ (t.cam p).settleEnd = s.clk + s.serialTicks p (s.byteVal (camKey p 0x2302 0x10)).length)
  ∧ (∀ (p : Port) (s : State),
      s.cams.length = 4 →
      (s.cam p).step = .clock →
      s.clk ≤ (s.cam p).startDeadline →
      ∃ t, exec (.pixelClockTimeout p) s = .next t
        ∧ t.clk = (s.cam p).startDeadline
        ∧ (t.cam p).state = (s.cam p).before
        ∧ (t.cam p).step = .none
        ∧ t.nat (camKey p 0x2307 0x0C) = s.counted (camKey p 0x2307 0x0C))
  ∧ (∀ (p : Port) (s : State),
      s.cams.length = 4 →
      (s.cam p).step = .sending →
      s.clk ≤ (s.cam p).settleEnd →
      ∃ t, exec (.startupBlockSent p) s = .next t
        ∧ t.clk = (s.cam p).settleEnd
        ∧ (t.cam p).step = .settling
        ∧ (t.cam p).settleEnd = (s.cam p).settleEnd + s.nat (camKey p 0x2302 0x11) * msTicks)
  ∧ (∀ (p : Port) (s : State),
      s.cams.length = 4 →
      (s.cam p).step = .settling →
      (s.cam p).planeStart = false →
      s.clk ≤ (s.cam p).settleEnd →
      ∃ t, exec (.settleElapsed p) s = .next t
        ∧ t.clk = (s.cam p).settleEnd
        ∧ (t.cam p).step = .armed
        ∧ (t.cam p).state = (s.cam p).state
        ∧ (t.cam p).gridN = s.gridFrom p (t.time.counter + 10 * usTicks)
        ∧ (t.cam p).cc1Running = true)
  ∧ (∀ (p : Port) (s : State),
      s.cams.length = 4 →
      (s.cam p).cc1Running = true →
      (s.cam p).step = .armed →
      s.timeRuns = true →
      s.time.counter ≤ s.gridTick p (s.cam p).gridN →
      ∃ t, exec (.lineTrigger p) s = .next t
        ∧ t.time.counter = s.gridTick p (s.cam p).gridN
        ∧ (t.cam p).state = .streaming
        ∧ (t.cam p).step = .none
        ∧ (t.cam p).pending = [⟨s.gridTick p (s.cam p).gridN, 0, false⟩]
        ∧ (t.cam p).nextIndex = 1
        ∧ (t.cam p).gridN = (s.cam p).gridN + 1
        ∧ t.nat (camKey p 0x2300 5) = 0
        ∧ .cc1 p (s.gridTick p (s.cam p).gridN) (s.nat (camKey p 0x2303 3)) ∈ t.out)
  ∧ (∀ (p : Port) (current : Nat) (s : State),
      s.cams.length = 4 →
      (s.cam p).pocl = 2 →
      400 < current →
      ∃ t, exec (.poclTrip p current) s = .next t
        ∧ (t.cam p).pocl = (if 2 ≤ ((s.cam p).poclTrips.filter (fun u => s.clk < u + 60 * secTicks)).length then 4 else 3)
        ∧ (t.cam p).poclReapplyAt = s.clk + secTicks
        ∧ t.nat (camKey p 0x2307 9) = s.counted (camKey p 0x2307 9))
  ∧ (∀ (p : Port) (s : State),
      s.cams.length = 4 →
      (s.cam p).pocl = 3 →
      s.clk ≤ (s.cam p).poclReapplyAt →
      ∃ t, exec (.poclReapply p) s = .next t
        ∧ t.clk = (s.cam p).poclReapplyAt
        ∧ (t.cam p).pocl = 2)
  ∧ (∀ (m : Master) (p : Port) (s : State),
      s.cams.length = 4 →
      s.writable m (camKey p 0x2301 6) (.num 1) = true →
      (s.cam p).pocl = 4 →
      ∃ t, exec (.poclRearm m p) s = .next t
        ∧ (t.cam p).pocl = (if s.nat (camKey p 0x2301 2) = 1 then 1 else 0)
        ∧ (t.cam p).poclTrips = []
        ∧ t.out = ack m (camKey p 0x2301 6) :: s.out)

/-- PIXEL_CLOCK_LOSS of a streaming port that is not being stopped, with no line in reception, leaves it LOST, its command queue empty, counted, and
every frame in work flagged; PORT_RECOVERY with a clock in range begins the settle time; PORT_REJOIN after it and between frames streams again. -/
def Obligations.CameraLossResults : Prop :=
  (∀ (p : Port) (s : State),
      s.cams.length = 4 →
      (s.cam p).state = .streaming →
      (s.cam p).stopping = false →
      (s.cam p).line = none →
      ∃ t, exec (.pixelClockLoss p) s = .next t
        ∧ (t.cam p).state = .lost
        ∧ (t.cam p).queue = []
        ∧ (t.cam p).sending = (s.cam p).sending
        ∧ (t.cam p).frames.all (fun f => f.lostFlag) = true
        ∧ t.nat (camKey p 0x2307 8) = s.counted (camKey p 0x2307 8))
  ∧ (∀ (p : Port) (kHz : Nat) (s : State),
      s.cams.length = 4 →
      (s.cam p).state = .lost →
      (s.cam p).recovering = false →
      20000 ≤ kHz →
      kHz ≤ 85000 →
      ∃ t, exec (.portRecovery p kHz) s = .next t
        ∧ (t.cam p).recovering = true
        ∧ (t.cam p).clockKHz = kHz
        ∧ (t.cam p).settleEnd = s.clk + s.serialTicks p (s.byteVal (camKey p 0x2302 0x10)).length + s.nat (camKey p 0x2302 0x11) * msTicks
        ∧ (t.cam p).state = .lost)
  ∧ (∀ (p : Port) (s : State),
      s.cams.length = 4 →
      (s.cam p).state = .lost →
      (s.cam p).recovering = true →
      (s.cam p).settleEnd ≤ s.clk →
      (s.cam p).frames.all (fun f => f.complete) = true →
      ∃ t, exec (.portRejoin p) s = .next t
        ∧ (t.cam p).state = .streaming
        ∧ (t.cam p).recovering = false
        ∧ (t.cam p).rejoinGen = true
        ∧ (t.cam p).nextFrame = (s.nextNumber p).getD (s.cam p).nextFrame)

/-- FIX_STRIPE classifies 64 pixels of the line that R100 chooses; GRADE_FRAME_TAKE takes the next frame with the bank in force; GRADE_FRAME_DONE
finishes it at its instant; OBJECT_CLASSIFIED ends the job in work at its instant, or takes the one object that waits and ends it, counts it and
draws one free value; a context table write stands with the next table version; a bank image is validated; a library load is noted and then done,
while no other transfer bars channel C1; an accepted swap with the frame part idle acts at once. -/
def Obligations.PipelineResults : Prop :=
  (∀ (p : Nat) (line : Line) (rest : List Line) (s : State),
      s.pipe.shaped →
      s.stripePort = some p →
      p < 2 →
      (s.engine p).waiting = line :: rest →
      (s.engine p).done.length + 64 < s.widthOf p →
      ∃ t, exec .fixStripe s = .next t
        ∧ (t.engine p).done.length = (s.engine p).done.length + 64
        ∧ (t.engine p).waiting = line :: rest
        ∧ t.cams = s.cams)
  ∧ (∀ (f : GradeFrame) (s : State),
      s.pipe.current = none →
      s.nextFrame = some f →
      s.pipe.swapPending = false →
      ∃ t, exec .gradeFrameTake s = .next t
        ∧ t.pipe.current.map (fun c => (c.1, c.2.1)) = some (f.port, f.record.number)
        ∧ t.pipe.frameBank = s.pipe.active
        ∧ t.pipe.active = s.pipe.active)
  ∧ (∀ (f : GradeFrame) (s : State),
      s.pipe.current = none →
      s.nextFrame = some f →
      s.pipe.swapPending = true →
      ∃ t, exec .gradeFrameTake s = .next t
        ∧ t.pipe.active = 1 - s.pipe.active
        ∧ t.pipe.swapPending = false
        ∧ t.pipe.frameBank = 1 - s.pipe.active
        ∧ t.nat (obj 0x2500 4) = f.record.number
        ∧ t.nat (obj 0x2500 5) = f.port
        ∧ t.nat (obj 0x2500 6) = s.counted (obj 0x2500 6))
  ∧ (∀ (p n : Nat) (ctx : Context) (u : Nat) (s : State),
      s.pipe.current = some (p, n, ctx, u) →
      s.clk ≤ u →
      ∃ t, exec .gradeFrameDone s = .next t
        ∧ t.clk = u
        ∧ t.pipe.current = none
        ∧ (∀ f ∈ t.pipe.frames, f.port = p → f.record.number = n → f.finished = true))
  ∧ (∀ (j : ObjJob) (s : State),
      s.pipe.objWork = none →
      s.pipe.chipQueue = [] →
      s.pipe.objQueue = [j] →
      ∃ t, exec .objectClassified s = .next t
        ∧ t.clk = max s.clk (s.jobStart j.since + s.jobCost j)
        ∧ t.pipe.objQueue = []
        ∧ t.pipe.objWork = none
        ∧ t.nat (obj 0x2500 8) = s.counted (obj 0x2500 8)
        ∧ t.freeCtr = s.freeCtr + 1)
  ∧ (∀ (j : ObjJob) (s : State),
      s.pipe.objWork = some j →
      s.clk ≤ s.pipe.objStart + s.jobCost j →
      ∃ t, exec .objectClassified s = .next t
        ∧ t.clk = s.pipe.objStart + s.jobCost j
        ∧ t.nat (obj 0x2500 8) = s.counted (obj 0x2500 8)
        ∧ t.freeCtr = s.freeCtr + 1)
  ∧ (∀ (m : Master) (p : Port) (sub : Nat) (v : Val) (s : State),
      s.writable m (obj (0x2410 + 16 * p) sub) (v) = true →
      sub ≤ 10 →
      ∃ t, exec (.contextTableWrite m p sub v) s = .next t
        ∧ t.val (obj (0x2410 + 16 * p) sub) = v
        ∧ t.nat (obj (0x2410 + 16 * p) 0x0B) = (s.nat (obj (0x2410 + 16 * p) 0x0B) + 1) % 2 ^ 32
        ∧ t.out = ack m (obj (0x2410 + 16 * p) sub) :: s.out)
  ∧ (∀ (m : Master) (bank : Nat) (image : List Byte) (s : State),
      s.pipe.shaped →
      bank < 2 →
      s.writable m (obj (0x2501 + bank) 1) (.bytes image) = true →
      s.bankClosed bank = false →
      ∃ t, exec (.bankImageWrite m bank image) s = .next t
        ∧ t.pipe.banks.getD bank {} = { s.pipe.banks.getD bank {} with image := image, valid := bankValid image }
        ∧ t.out.head? = some (.reply m (0x2501 + bank) 1 (if bankValid image then 0 else abortData) []))
  ∧ (∀ (m : Master) (bank slot : Nat) (s : State),
      s.pipe.shaped →
      bank < 2 →
      s.writable m (obj (0x2501 + bank) 6) (.num slot) = true →
      s.bankClosed bank = false →
      ∃ t, exec (.libraryLoad m bank slot) s = .next t
        ∧ (t.pipe.banks.getD bank {}).loading = some (slot, s.clk)
        ∧ t.out = ack m (obj (0x2501 + bank) 6) :: s.out)
  ∧ (∀ (bank : Nat) (slot u : Nat) (s : State),
      s.pipe.shaped →
      (s.pipe.banks.getD bank {}).loading = some (slot, u) →
      s.fwBarred 1 = false →
      ∃ t, exec (.libraryLoadDone bank) s = .next t
        ∧ t.pipe.banks.getD bank {} = { image := s.update.library.getD slot [], valid := bankValid (s.update.library.getD slot []), loading := none })
  ∧ (∀ (m : Master) (s : State),
      s.writable m (obj 0x2500 2) (.num 1) = true →
      (s.pipe.banks.getD (1 - s.pipe.active) {}).valid = true →
      s.pipe.swapPending = false →
      s.oldBankInUse = false →
      s.pipe.current = none →
      ∃ t, exec (.bankSwapRequest m) s = .next t
        ∧ t.pipe.active = 1 - s.pipe.active
        ∧ t.nat (obj 0x2500 5) = 0xFF
        ∧ t.nat (obj 0x2500 6) = s.counted (obj 0x2500 6)
        ∧ t.out.head? = some (ack m (obj 0x2500 2)))

/-- CAPTURE_DARK and CAPTURE_GREY outside Sorting, and CAPTURE_BACKDROP in any state, with no capture running and a selected port streaming, begin a
capture now (status 1, cause 0). CAPTURE_COMPLETE with every line there and no failing table leaves status 2; CAPTURE_TIMEOUT comes 2 s after the
acceptance and leaves status 3 with cause 2 (no calibration run in progress). That a command while a capture runs is refused is the model's
choice, log entry 22. -/
def Obligations.CaptureResults : Prop :=
  (∀ (m : Master) (s : State),
      s.writable m (obj 0x2404 1) (.num 1) = true →
      s.pipe.capture = none →
      s.module.state ≠ .sorting →
      ([0, 1, 2, 3].filter (fun p => bitOf (s.nat (obj 0x2404 2)) p && (s.cam p).state == .streaming)) ≠ [] →
      ∃ t, exec (.captureDark m) s = .next t
        ∧ t.pipe.capture.map (fun c => (c.code, c.started)) = some (1, s.clk)
        ∧ t.pipe.captureStatus = 1
        ∧ t.pipe.captureCause = 0
        ∧ t.out = ack m (obj 0x2404 1) :: s.out)
  ∧ (∀ (m : Master) (s : State),
      s.writable m (obj 0x2404 1) (.num 2) = true →
      s.pipe.capture = none →
      s.module.state ≠ .sorting →
      ([0, 1, 2, 3].filter (fun p => bitOf (s.nat (obj 0x2404 2)) p && (s.cam p).state == .streaming)) ≠ [] →
      ∃ t, exec (.captureGrey m) s = .next t
        ∧ t.pipe.capture.map (fun c => (c.code, c.started)) = some (2, s.clk)
        ∧ t.pipe.captureStatus = 1
        ∧ t.pipe.captureCause = 0
        ∧ t.out = ack m (obj 0x2404 1) :: s.out)
  ∧ (∀ (m : Master) (s : State),
      s.writable m (obj 0x2404 1) (.num 3) = true →
      s.pipe.capture = none →
      ([0, 1, 2, 3].filter (fun p => bitOf (s.nat (obj 0x2404 2)) p && (s.cam p).state == .streaming)) ≠ [] →
      ∃ t, exec (.captureBackdrop m) s = .next t
        ∧ t.pipe.capture.map (fun c => (c.code, c.started)) = some (3, s.clk)
        ∧ t.pipe.captureStatus = 1
        ∧ t.pipe.captureCause = 0
        ∧ t.out = ack m (obj 0x2404 1) :: s.out)
  ∧ (∀ (c : Capture) (s : State),
      s.pipe.capture = some c →
      s.module.cal = none →
      c.ports.all (fun q => (s.cam q.port).state == .streaming) = true →
      c.ports.all (fun q => decide (2 * s.nat (obj 0x2404 3) ≤ q.lines.length)) = true →
      c.ports.all (fun q => (s.captureTable c.code q).2 == 0) = true →
      ∃ t, exec .captureComplete s = .next t
        ∧ t.pipe.capture = none
        ∧ t.pipe.captureStatus = 2
        ∧ t.pipe.captureCause = 0)
  ∧ (∀ (c : Capture) (s : State),
      s.pipe.capture = some c →
      s.module.cal = none →
      s.clk ≤ c.started + 2 * secTicks →
      ∃ t, exec .captureTimeout s = .next t
        ∧ t.clk = c.started + 2 * secTicks
        ∧ t.pipe.capture = none
        ∧ t.pipe.captureStatus = 3
        ∧ t.pipe.captureCause = 2)

/-- With no record and no shadow in the way and the tracker open: a FIX_ARRIVAL of an owned centre opens one predicted fix-first record with the next
handle and is counted in 0x2600:04; an UPPER_SIGHTING_ARRIVAL of an owned centre opens an upper-first record (while the lower port of its face is
not LOST), counted in 0x2600:03, and of a centre not owned becomes a shadow. A fix that scores against the only upper-first record of its face
associates, counted in 0x2600:05. FIX_DEADLINE predicts an upper-first record at its instant and counts it in 0x2600:07. -/
def Obligations.TrackerArrivalResults : Prop :=
  (∀ (x : Sighting) (s : State),
      s.module.mainUp = true →
      s.tracker.recs = [] →
      s.tracker.shadows = [] →
      s.owned x.centre = true →
      s.tracker.isOpen = true →
      ∃ t, exec (.fixArrival x) s = .next t
        ∧ t.tracker.recs.map (fun r => (r.handle, r.state, r.fix)) = [((s.strand.id <<< 20) + s.tracker.serial, .predicted, some x)]
        ∧ t.tracker.serial = (s.tracker.serial + 1) % 2 ^ 20
        ∧ t.nat (obj 0x2600 4) = s.counted (obj 0x2600 4))
  ∧ (∀ (x : Sighting) (r : Rec) (u : Sighting) (s : State),
      s.module.mainUp = true →
      s.tracker.recs = [r] →
      s.tracker.shadows = [] →
      r.state = .upperFirst →
      r.face = faceOf x.port →
      r.upper = some u →
      r.handle < 2 ^ 32 →
      (s.score r.params u x).isSome = true →
      ∃ t, exec (.fixArrival x) s = .next t
        ∧ t.tracker.recs.map (fun y => (y.handle, y.state, y.upper, y.fix)) = [(r.handle, .predicted, some u, some x)]
        ∧ t.nat (obj 0x2600 5) = s.counted (obj 0x2600 5))
  ∧ (∀ (x : Sighting) (image : ObjImage) (s : State),
      s.module.mainUp = true →
      s.tracker.recs = [] →
      s.owned x.centre = true →
      s.tracker.isOpen = true →
      (s.cam (faceOf x.port)).state ≠ .lost →
      ∃ t, exec (.upperSightingArrival x image) s = .next t
        ∧ t.tracker.recs.map (fun r => (r.handle, r.state, r.upper)) = [((s.strand.id <<< 20) + s.tracker.serial, .upperFirst, some x)]
        ∧ t.tracker.serial = (s.tracker.serial + 1) % 2 ^ 20
        ∧ t.nat (obj 0x2600 3) = s.counted (obj 0x2600 3))
  ∧ (∀ (x : Sighting) (image : ObjImage) (s : State),
      s.module.mainUp = true →
      s.tracker.recs = [] →
      s.owned x.centre = false →
      s.tracker.isOpen = true →
      ∃ t, exec (.upperSightingArrival x image) s = .next t
        ∧ t.tracker.recs = []
        ∧ t.tracker.shadows.head?.map (fun h => h.sighting) = some x)
  ∧ (∀ (handle : Nat) (r : Rec) (s : State),
      s.recOf handle = some r →
      r.state = .upperFirst →
      s.timeRuns = true →
      s.time.counter ≤ r.deadline →
      ∃ t, exec (.fixDeadline handle) s = .next t
        ∧ t.time.counter = r.deadline
        ∧ (t.recOf handle).map (fun y => y.state) = some .predicted
        ∧ t.nat (obj 0x2600 7) = s.counted (obj 0x2600 7))

/-- FIRE_DECISION of a predicted record jumps to t_dec and decides it: PASS counted in 0x2600:0C or EJECT counted in 0x2600:0B by its verdict and the
class table. RECORD_RETIRE frees a decided record at its instant. A drop geometry write stands and starts every prior anew; a placement write
that passes its checks moves the lane group with the next epoch, counted. GOVERNOR_RUN and FLOOR_RECOMPUTE come at their intervals, and the noise
of both planes is shown. -/
def Obligations.TrackerDecisionResults : Prop :=
  (∀ (handle : Nat) (r : Rec) (u : Int) (cls conf margin : Nat) (s : State),
      s.recOf handle = some r →
      r.state = .predicted →
      r.tdec = some u →
      r.verdict = some (cls, conf, margin) →
      s.callsEject cls conf = false →
      s.timeRuns = true →
      s.time.counter ≤ u.toNat →
      ∃ t, exec (.fireDecision handle) s = .next t
        ∧ t.time.counter = u.toNat
        ∧ (t.recOf handle).map (fun y => (y.state, y.retireAt)) = some (.pass, r.ta)
        ∧ t.nat (obj 0x2600 0x0C) = s.counted (obj 0x2600 0x0C))
  ∧ (∀ (handle : Nat) (r : Rec) (u : Int) (cls conf margin : Nat) (s : State),
      s.recOf handle = some r →
      r.state = .predicted →
      r.tdec = some u →
      r.verdict = some (cls, conf, margin) →
      s.callsEject cls conf = true →
      s.timeRuns = true →
      s.time.counter ≤ u.toNat →
      ∃ t, exec (.fireDecision handle) s = .next t
        ∧ t.time.counter = u.toNat
        ∧ (t.recOf handle).map (fun y => y.state) = some .eject
        ∧ t.nat (obj 0x2600 0x0B) = s.counted (obj 0x2600 0x0B))
  ∧ (∀ (handle : Nat) (r : Rec) (s : State),
      s.recOf handle = some r →
      r.decided = true →
      s.timeRuns = true →
      s.time.counter ≤ r.retireAt →
      ∃ t, exec (.recordRetire handle) s = .next t
        ∧ t.time.counter = r.retireAt
        ∧ t.recOf handle = none)
  ∧ (∀ (m : Master) (sub value : Nat) (s : State),
      sub < 256 →
      s.writable m (obj 0x2601 sub) (.num value) = true →
      ∃ t, exec (.dropGeometryWrite m sub value) s = .next t
        ∧ t.nat (obj 0x2601 sub) = value
        ∧ t.tracker.priors.all (fun l => l.length == 16 && l.all (fun p => p.n == 0)) = true
        ∧ t.out.head? = some (ack m (obj 0x2601 sub)))
  ∧ (∀ (m : Master) (group value : Nat) (s : State),
      s.tracker.shaped →
      group < 16 →
      s.writable m (obj 0x2604 (group + 1)) (.num value) = true →
      bits value 11 0 ≠ 0xFFF →
      (s.topoOf (bits value 11 0)).isSome = true →
      s.within (s.nat (obj 0x2605 7)) [s.strand.id] (bits value 11 0) = true →
      ∃ t, exec (.placementWrite m group value) s = .next t
        ∧ (s.tracker.epoch + 1) % 256 = t.tracker.epoch
        ∧ t.placementOf group = { target := if bits value 11 0 = s.strand.id then none else some (bits value 11 0), epoch := (s.tracker.epoch + 1) % 256, pinned := bitOf value 31 }
        ∧ t.nat (obj 0x260E 0x0B) = s.counted (obj 0x260E 0x0B)
        ∧ t.out.head? = some (ack m (obj 0x2604 (group + 1))))
  ∧ (∀ (s : State),
      s.module.mainUp = true →
      s.nat (obj 0x2605 2) ≠ 0 →
      s.clk ≤ s.tracker.governorAt + 10 * msTicks →
      ∃ t, exec .governorRun s = .next t
        ∧ t.clk = s.tracker.governorAt + 10 * msTicks
        ∧ t.tracker.governorAt = t.clk)
  ∧ (∀ (s : State),
      s.module.mainUp = true →
      s.clk ≤ s.tracker.floorAt + secTicks →
      ∃ t, exec .floorRecompute s = .next t
        ∧ t.clk = s.tracker.floorAt + secTicks
        ∧ t.tracker.floorAt = t.clk
        ∧ t.nat (obj 0x2602 7) = min 1000 (roundN (sqrtQ (s.noise2 2 s.tracker.twinUpper) * 1000))
        ∧ t.nat (obj 0x2602 8) = min 1000 (roundN (sqrtQ (s.noise2 0 s.tracker.twinLower) * 1000)))

/-- A CHIP_FRAME that is not the last of its chip waits with the instant of the first; a one-segment chip in Sorting with room enters the chip queue
behind an object in work; CHIP_REASSEMBLY_TIMEOUT drops the parts 100 µs after the first and counts. A timely VERDICT_MESSAGE settles its record
with its bank and Model ID, shows the round trip and counts; a REFUSAL_MESSAGE of the current epoch re-issues the chip to the module itself. A
FIRE_MESSAGE of a neighbour for an available valve, early enough, is counted and made a fire request. -/
def Obligations.FerryResults : Prop :=
  (∀ (src handle epoch segment count sendTick : Nat) (data : List Byte) (s : State),
      s.module.loader = false →
      s.module.mainUp = true →
      1 < count →
      s.strand.chips.all (fun c => !(c.src == src && c.handle == handle && c.epoch == epoch && c.sendTick == sendTick)) = true →
      ∃ t, exec (.chipFrame src handle epoch segment count sendTick data) s = .next t
        ∧ t.strand.chips = s.strand.chips ++ [{ src := src, handle := handle, epoch := epoch, count := count, sendTick := sendTick, segments := [(segment, data)], since := s.clk }]
        ∧ t.pipe = s.pipe)
  ∧ (∀ (src handle epoch segment sendTick : Nat) (data : List Byte) (w : ObjJob) (s : State),
      s.module.loader = false →
      s.module.mainUp = true →
      s.strand.chips.all (fun c => !(c.src == src && c.handle == handle && c.epoch == epoch && c.sendTick == sendTick)) = true →
      s.fabricBarred = false →
      s.module.state = .sorting →
      s.pipe.objWork = some w →
      s.pipe.chipQueue.length < 256 →
      ∃ t, exec (.chipFrame src handle epoch segment 1 sendTick data) s = .next t
        ∧ t.strand.chips = s.strand.chips
        ∧ t.pipe.chipQueue.map (fun j => (j.handle, j.epoch, j.sender)) = s.pipe.chipQueue.map (fun j => (j.handle, j.epoch, j.sender)) ++ [(handle, epoch, some (src, sendTick))])
  ∧ (∀ (src handle epoch : Nat) (c : ChipParts) (s : State),
      s.strand.chips.find? (fun c => c.src == src && c.handle == handle && c.epoch == epoch) = some c →
      s.clk ≤ c.since + 100 * usTicks →
      ∃ t, exec (.chipReassemblyTimeout src handle epoch) s = .next t
        ∧ t.clk = c.since + 100 * usTicks
        ∧ t.strand.chips = dropFirst (fun c => c.src == src && c.handle == handle && c.epoch == epoch) s.strand.chips
        ∧ t.nat (obj 0x2206 0x0E) = s.counted (obj 0x2206 0x0E))
  ∧ (∀ (src sendTick handle epoch cls conf margin bank model : Nat) (r : Rec) (s : State),
      s.module.mainUp = true →
      s.fabricBarred = false →
      s.recOf handle = some r →
      r.settled = false →
      s.tick ≤ sendTick + s.nat (obj 0x2605 8) * msTicks →
      ∃ t, exec (.verdictMessage src sendTick handle epoch cls conf ⟨margin, bank, model⟩) s = .next t
        ∧ (t.recOf handle).map (fun y => (y.verdict, y.bank, y.model, y.chip)) = some (some (cls, conf, margin), bank, model, none)
        ∧ t.nat (obj 0x260E 0x0D) = (s.tick - sendTick) * 5 / 4
        ∧ t.nat (obj 0x260E 6) = s.counted (obj 0x260E 6))
  ∧ (∀ (src sendTick handle epoch cause : Nat) (r : Rec) (image : ObjImage) (w : ObjJob) (s : State),
      s.module.mainUp = true →
      s.fabricBarred = false →
      s.recOf handle = some r →
      epoch % 256 = r.epoch % 256 →
      r.settled = false →
      r.chipRefused = false →
      r.tdec = none →
      r.chip = some image →
      s.pipe.objWork = some w →
      s.pipe.chipQueue.length < 256 →
      ∃ t, exec (.refusalMessage src sendTick handle epoch cause) s = .next t
        ∧ t.pipe.chipQueue.length = s.pipe.chipQueue.length + 1
        ∧ t.nat (obj 0x260E 3) = s.counted (obj 0x260E 3)
        ∧ t.nat (obj 0x260E 2) = s.counted (obj 0x260E 2))
  ∧ (∀ (src valve ta shotEnd handle conf : Nat) (cover : Bool) (s : State),
      s.module.loader = false →
      s.module.mainUp = true →
      s.fabricBarred = false →
      src = s.beside portE ∨ src = s.beside portW →
      valve < s.valveCount →
      s.fireAllowed = true →
      s.tick + 32 ≤ ta - (s.valve valve).lead →
      s.available valve = true →
      ∃ t, exec (.fireMessage src valve ta shotEnd handle conf cover) s = .next t
        ∧ t.nat (obj 0x260F (3 + if src = s.beside portE then 0 else 1)) = s.counted (obj 0x260F (3 + if src = s.beside portE then 0 else 1))
        ∧ t.nat (obj 0x2700 5) = s.counted (obj 0x2700 5))

/-- GATE_EDGE of a queued shot that its group does not hold and that lies within its limit, with VALVE_EN in, moves the shot into the running place
with its hold cut where the valve is hot or the module Derated, starts the sequencer at its profile's entry, counts in 0x2700:07 and 0x2724 and
gives the gate command. DEFERRAL_LIMIT aborts a first boost with cause 4. KINK_WINDOW_OPEN samples while fewer than four windows of the group are
open; KINK_WINDOW_END with no kink counts a lost one and ends the window, an accepted kink moves the estimate's count, and a window that was not
sampled counts in 0x2700:14. THERMAL_UPDATE steps both nodes of every fitted valve each millisecond. -/
def Obligations.DriveShotResults : Prop :=
  (∀ (v : Valve) (x : Shot) (r : List Shot) (s : State),
      s.drive.shaped →
      s.seqs.shaped →
      (s.valve v).queue = x :: r →
      (s.store (s.groupOf v)).holding = false →
      s.drive.enIn = true →
      x.beyondLimit = false →
      s.timeRuns = true →
      s.time.counter ≤ x.edge →
      ∃ t, exec (.gateEdge v) s = .next t
        ∧ t.time.counter = x.edge
        ∧ (t.valve v).queue = r
        ∧ (t.valve v).run = some { x with start := x.edge, holdCut := s.cuts v x }
        ∧ t.seq v = freshSeq x.edge ((s.store (s.groupOf v)).active.entry (s.profileOf v)).1
        ∧ t.nat (obj 0x2700 7) = s.counted (obj 0x2700 7)
        ∧ t.nat (valveKey 0x2724 v) = s.counted (valveKey 0x2724 v)
        ∧ t.out = .gate v x.edge (s.nat (obj 0x2106 1)) :: s.out)
  ∧ (∀ (v : Valve) (u l : Nat) (x : Shot) (s : State),
      s.drive.shaped →
      s.seqs.shaped →
      (s.seq v).busy = .boostWait true u l →
      (s.valve v).run = some x →
      s.timeRuns = true →
      s.time.counter ≤ x.req.sched + x.deferLimit.toNat →
      ∃ t, exec (.deferralLimit v) s = .next t
        ∧ t.time.counter = x.req.sched + x.deferLimit.toNat
        ∧ (t.valve v).run = none
        ∧ (t.seq v).running = false
        ∧ (t.seq v).mode = .off
        ∧ t.nat (valveKey 0x2812 v) = 4
        ∧ t.nat (obj 0x2700 0x0A) = s.counted (obj 0x2700 0x0A))
  ∧ (∀ (v : Valve) (w : KinkWindow) (s : State),
      s.seqs.shaped →
      (s.seq v).window = some w →
      w.isOpen = false →
      s.timeRuns = true →
      s.time.counter ≤ w.opens →
      ∃ t, exec (.kinkWindowOpen v) s = .next t
        ∧ t.time.counter = w.opens
        ∧ (t.seq v).window = some { w with isOpen := true, sampled := decide (s.openWindows (s.groupOf v) < 4) }
        ∧ t.od = s.od)
  ∧ (∀ (v : Valve) (samples : List Int) (w : KinkWindow) (s : State),
      s.seqs.shaped →
      (s.seq v).window = some w →
      w.isOpen = true →
      w.sampled = true →
      s.timeRuns = true →
      s.time.counter ≤ w.closes →
      kinkOf samples (s.shotTerms v).kinkMin = none →
      ∃ t, exec (.kinkWindowEnd v samples) s = .next t
        ∧ t.time.counter = w.closes
        ∧ (t.seq v).window = none
        ∧ t.nat (obj 0x2700 0x13) = s.counted (obj 0x2700 0x13)
        ∧ t.nat (valveKey 0x2728 v) = s.counted (valveKey 0x2728 v))
  ∧ (∀ (v : Valve) (samples : List Int) (w : KinkWindow) (k amp u : Nat) (s : State),
      s.drive.shaped →
      s.seqs.shaped →
      (s.seq v).window = some w →
      w.isOpen = true →
      w.sampled = true →
      kinkOf samples (s.shotTerms v).kinkMin = some (k, amp) →
      (s.seq v).tOff = some u →
      |((w.opens + k : Nat) - (u : ℚ)) * 5 / 4 - (s.valve v).deltaBar| ≤ ((s.shotTerms v).gate : ℚ) * 1000 →
      ∃ t, exec (.kinkWindowEnd v samples) s = .next t
        ∧ (t.seq v).window = none
        ∧ (t.valve v).kinkI = (s.valve v).kinkI + 1
        ∧ t.nat (valveKey 0x271A v) = min max16 amp
        ∧ t.nat (obj 0x2700 0x12) = s.counted (obj 0x2700 0x12)
        ∧ t.nat (valveKey 0x2718 v) = s.counted (valveKey 0x2718 v))
  ∧ (∀ (v : Valve) (samples : List Int) (w : KinkWindow) (s : State),
      s.seqs.shaped →
      (s.seq v).window = some w →
      w.isOpen = true →
      w.sampled = false →
      ∃ t, exec (.kinkWindowEnd v samples) s = .next t
        ∧ (t.seq v).window = none
        ∧ t.nat (obj 0x2700 0x14) = s.counted (obj 0x2700 0x14)
        ∧ t.drive = s.drive)
  ∧ (∀ (squares : List Nat) (s : State),
      s.drive.shaped →
      s.module.mainUp = true →
      s.clk ≤ s.drive.thermalAt + msTicks →
      ∃ t, exec (.thermalUpdate squares) s = .next t
        ∧ t.clk = s.drive.thermalAt + msTicks
        ∧ t.drive.thermalAt = t.clk
        ∧ (∀ v, v < s.valveCount → (t.valve v).thetaW = (s.coilStep v (squares.getD v 0) (s.valve v)).thetaW ∧ (t.valve v).thetaB = (s.coilStep v (squares.getD v 0) (s.valve v)).thetaB))

/-- VALVE_EN_DEASSERT ends every running shot; VALVE_EN_ASSERT notes its instant and 1 ms later the level has settled. GROUP_OVERCURRENT ends the
running shots of the group and trips it, the third trip within 1 s loses it. VALVE_EN_OUT follows both, from V_SB. COIL_SHORT leaves a fitted
valve in state 5 with its sequencer stopped. A valve state write of 0 clears states 3 to 5, of 3 disables; restoring a lost group clears its
trips and frees its valves of state 2. A test shot in Idle queues one shot 1 ms ahead with the length written. -/
def Obligations.DriveStateResults : Prop :=
  (∀ (s : State),
      s.seqs.shaped →
      s.drive.enIn = true →
      ∃ t, exec .valveEnDeassert s = .next t
        ∧ t.drive.enIn = false
        ∧ t.drive.enSettled = false
        ∧ t.pins.valveEnOut = false
        ∧ (∀ v, v < s.valveCount → (t.seq v).running = false))
  ∧ (∀ (s : State),
      s.drive.enIn = false →
      ∃ t, exec .valveEnAssert s = .next t
        ∧ t.drive.enIn = true
        ∧ t.drive.enSettled = false
        ∧ t.drive.enSince = s.clk
        ∧ t.pins.valveEnOut = s.power.vsb)
  ∧ (∀ (s : State),
      s.drive.enIn = true →
      s.drive.enSettled = false →
      s.clk ≤ s.drive.enSince + msTicks →
      ∃ t, exec .valveEnSettled s = .next t
        ∧ t.clk = s.drive.enSince + msTicks
        ∧ t.drive.enSettled = true
        ∧ t.drive.enIn = true)
  ∧ (∀ (g : Group) (s : State),
      s.drive.shaped →
      s.seqs.shaped →
      g.val < s.stride →
      (s.group g).state ≠ 2 →
      ∃ t, exec (.groupOvercurrent g) s = .next t
        ∧ (t.group g).state = (if 2 ≤ ((s.group g).trips.filter (fun u => s.clk < u + secTicks)).length then 2 else 1)
        ∧ (∀ v ∈ s.groupValves g, (t.seq v).running = false))
  ∧ (∀ (v : Valve) (s : State),
      s.drive.shaped →
      s.seqs.shaped →
      v.val < s.valveCount →
      ∃ t, exec (.coilShort v) s = .next t
        ∧ (t.valve v).avail = 5
        ∧ (t.seq v).running = false
        ∧ (t.seq v).mode = .off)
  ∧ (∀ (m : Master) (v : Valve) (s : State),
      s.drive.shaped →
      s.writable m (valveKey 0x2710 v) (.num 0) = true →
      (s.valve v).avail ≠ 1 →
      (s.valve v).avail ≠ 2 →
      ∃ t, exec (.valveStateWrite m v 0) s = .next t
        ∧ (t.valve v).avail = 0
        ∧ (t.valve v).openFails = 0
        ∧ (t.valve v).queue = (s.valve v).queue
        ∧ t.out = ack m (valveKey 0x2710 v) :: s.out)
  ∧ (∀ (m : Master) (v : Valve) (s : State),
      s.drive.shaped →
      s.writable m (valveKey 0x2710 v) (.num 3) = true →
      (s.valve v).avail = 0 ∨ (s.valve v).avail = 3 →
      ∃ t, exec (.valveStateWrite m v 3) s = .next t
        ∧ (t.valve v).avail = 3
        ∧ t.out = ack m (valveKey 0x2710 v) :: s.out)
  ∧ (∀ (m : Master) (g : Group) (s : State),
      s.drive.shaped →
      s.writable m (groupKey 0x2709 g) (.num 1) = true →
      (s.group g).state = 2 →
      ∃ t, exec (.groupRestore m g) s = .next t
        ∧ (t.group g).state = 0
        ∧ (t.group g).trips = []
        ∧ (∀ v ∈ s.groupValves g, (t.valve v).avail ≠ 2)
        ∧ t.out.head? = some (ack m (groupKey 0x2709 g)))
  ∧ (∀ (m : Master) (s : State),
      s.drive.shaped →
      s.writable m (obj 0x270A 3) (.num 1) = true →
      s.module.state = .idle →
      s.drive.enIn = true →
      s.drive.enSettled = true →
      s.drive.powerFail = false →
      s.available (s.nat (obj 0x270A 1)) = true →
      (s.valve (s.nat (obj 0x270A 1))).skip = false →
      (s.valve (s.nat (obj 0x270A 1))).queue = [] →
      ∃ t, exec (.testShot m) s = .next t
        ∧ (t.valve (s.nat (obj 0x270A 1))).queue.map (fun x => (x.start, x.shotEnd)) = [(s.tick + msTicks, s.tick + msTicks + s.nat (obj 0x270A 2) * usTicks)]
        ∧ t.nat (obj 0x2700 5) = s.counted (obj 0x2700 5)
        ∧ t.nat (obj 0x2700 6) = s.counted (obj 0x2700 6)
        ∧ t.out = ack m (obj 0x270A 3) :: s.out)

/-- NOP, SETI, DECAY, MARK, OFF, LOOP and END take one step of four ticks: SETI sets LVL (clamped to 200 codes in a boost phase), DECAY the decay
mode, MARK the kink window, OFF turns the low side off, LOOP jumps back while its counter runs and goes on when it is spent, END stops the
sequencer. WAIT and WAITI begin to wait, HOLD regulates at its level. None of them moves the pc otherwise. -/
def Obligations.SequencerWordResults : Prop :=
  (∀ (v : Valve) (s : State),
      s.seqs.shaped →
      s.issuing v = some (.nop) →
      ∃ t, exec (.nop v) s = .next t
        ∧ t.seq v = { s.seq v with pc := (s.seq v).pc + 1, issueAt := (s.seq v).issueAt + 4, busy := .none })
  ∧ (∀ (v : Valve) (l : Nat) (s : State),
      s.seqs.shaped →
      s.issuing v = some (.seti l) →
      (s.group (s.groupOf v)).waiting.all (fun w => w.2.1 != v.val) = true →
      ∃ t, exec (.seti v) s = .next t
        ∧ (t.seq v).level = (if (s.seq v).mode = .boost then min l 200 else l)
        ∧ (t.seq v).issueAt = (s.seq v).issueAt + 4
        ∧ (t.seq v).pc = (s.seq v).pc + 1)
  ∧ (∀ (v : Valve) (f : Bool) (s : State),
      s.seqs.shaped →
      s.issuing v = some (.decay f) →
      ∃ t, exec (.decay v) s = .next t
        ∧ (t.seq v).fast = f
        ∧ (t.seq v).issueAt = (s.seq v).issueAt + 4
        ∧ (t.seq v).pc = (s.seq v).pc + 1)
  ∧ (∀ (v : Valve) (n : Nat) (s : State),
      s.seqs.shaped →
      s.issuing v = some (.wait n) →
      ∃ t, exec (.wait v) s = .next t
        ∧ (t.seq v).busy = .wait ((s.seq v).issueAt + 4 * n)
        ∧ (t.seq v).pc = (s.seq v).pc)
  ∧ (∀ (v : Valve) (c n thr : Nat) (k : Bool) (s : State),
      s.seqs.shaped →
      s.issuing v = some (.waiti c k n thr) →
      c ≠ 2 ∨ (s.seq v).mode = .boost →
      ∃ t, exec (.waiti v) s = .next t
        ∧ (t.seq v).busy = .waiti c thr k ((s.seq v).issueAt + 4 * n)
        ∧ (t.seq v).pc = (s.seq v).pc)
  ∧ (∀ (v : Valve) (d n : Nat) (s : State),
      s.seqs.shaped →
      s.issuing v = some (.mark d n) →
      ∃ t, exec (.mark v) s = .next t
        ∧ (t.seq v).window = some { opens := (s.seq v).issueAt + d * usTicks, closes := (s.seq v).issueAt + d * usTicks + n * usTicks }
        ∧ (t.seq v).issueAt = (s.seq v).issueAt + 4
        ∧ (t.seq v).pc = (s.seq v).pc + 1)
  ∧ (∀ (v : Valve) (s : State),
      s.seqs.shaped →
      s.issuing v = some (.off) →
      ∃ t, exec (.off v) s = .next t
        ∧ (t.seq v).mode = .off
        ∧ (t.seq v).tOff = some (s.seq v).issueAt
        ∧ (t.seq v).issueAt = (s.seq v).issueAt + 4
        ∧ (t.seq v).pc = (s.seq v).pc + 1)
  ∧ (∀ (v : Valve) (c b : Nat) (s : State),
      s.seqs.shaped →
      s.issuing v = some (.loop c b) →
      (s.seq v).loopCtr = none →
      c ≠ 0 →
      ∃ t, exec (.loop v) s = .next t
        ∧ (t.seq v).loopCtr = some c
        ∧ (t.seq v).pc = (s.seq v).pc - b
        ∧ (t.seq v).issueAt = (s.seq v).issueAt + 4)
  ∧ (∀ (v : Valve) (c b k : Nat) (s : State),
      s.seqs.shaped →
      s.issuing v = some (.loop c b) →
      (s.seq v).loopCtr = some (k + 1) →
      k ≠ 0 →
      ∃ t, exec (.loop v) s = .next t
        ∧ (t.seq v).loopCtr = some k
        ∧ (t.seq v).pc = (s.seq v).pc - b)
  ∧ (∀ (v : Valve) (c b : Nat) (s : State),
      s.seqs.shaped →
      s.issuing v = some (.loop c b) →
      (s.seq v).loopCtr = some 1 →
      ∃ t, exec (.loop v) s = .next t
        ∧ (t.seq v).loopCtr = none
        ∧ (t.seq v).issueAt = (s.seq v).issueAt + 4
        ∧ (t.seq v).pc = (s.seq v).pc + 1)
  ∧ (∀ (v : Valve) (n l : Nat) (s : State),
      s.seqs.shaped →
      s.issuing v = some (.hold n l) →
      (s.group (s.groupOf v)).waiting.all (fun w => w.2.1 != v.val) = true →
      ∃ t, exec (.hold v) s = .next t
        ∧ (t.seq v).mode = .hold
        ∧ (t.seq v).level = l
        ∧ (t.seq v).busy = .hold (if n = 0 then none else some ((s.seq v).issueAt + 4 * n))
        ∧ (t.seq v).pc = (s.seq v).pc)
  ∧ (∀ (v : Valve) (s : State),
      s.seqs.shaped →
      s.issuing v = some (.fin) →
      ∃ t, exec (.profileEnd v) s = .next t
        ∧ (t.seq v).running = false
        ∧ (t.seq v).mode = .off
        ∧ (t.seq v).busy = .none)

/-- A BOOST with no slot free waits: the first sets LVL at once, a later one leaves it and the mode (the first carries no current). With a slot free
and the budget admitting it, it is granted: LVL takes min(level, 200), the mode is boost and the next word issues one step after the grant. At
the end of the phase the valve regulates and its slot is free. A later BOOST that waited tDEFER_MAX goes on without a phase. WAIT ends at its
tick, a WAITI whose condition holds ends in the next step, a timeout continues (counted in 0x2800:03) or aborts with cause 1, one of condition 2
always while the boost phase runs. A HOLD ends and issues the next word. An illegal word aborts with cause 2, one that fails parity with cause 3
and stays bad, and the selection reverts to 0. An ended, windowless sequencer becomes idle. -/
def Obligations.SequencerBoostResults : Prop :=
  (∀ (v : Valve) (l : Nat) (s : State),
      s.drive.shaped →
      s.seqs.shaped →
      s.issuing v = some (.boost l) →
      (s.shotTerms v).slots ≤ (s.group (s.groupOf v)).slots.length →
      ∃ t, exec (.boost v) s = .next t
        ∧ (t.seq v).busy = .boostWait (!(s.seq v).boosted) (s.seq v).issueAt l
        ∧ (t.seq v).level = (if (s.seq v).boosted then (s.seq v).level else min l 200)
        ∧ (t.seq v).mode = (if (s.seq v).boosted then (s.seq v).mode else .off)
        ∧ (t.seq v).pc = (s.seq v).pc)
  ∧ (∀ (v : Valve) (l : Nat) (s : State),
      s.drive.shaped →
      s.seqs.shaped →
      s.issuing v = some (.boost l) →
      (s.group (s.groupOf v)).waiting = [] →
      (s.group (s.groupOf v)).slots.length < (s.shotTerms v).slots →
      s.budgetAdmits (s.groupOf v) (min l 200) = true →
      (s.group (s.groupOf v)).state ≠ 2 →
      ∃ t, exec (.boost v) s = .next t
        ∧ (t.seq v).mode = .boost
        ∧ (t.seq v).level = min l 200
        ∧ (t.seq v).boosted = true
        ∧ (t.seq v).busy = .none
        ∧ (t.seq v).pc = (s.seq v).pc + 1
        ∧ (t.seq v).issueAt = (t.seq v).boostAt + 4
        ∧ (t.group (s.groupOf v)).slots = (s.group (s.groupOf v)).slots ++ [(v.val, min l 200)])
  ∧ (∀ (v : Valve) (tick energy : Nat) (s : State),
      s.drive.shaped →
      s.seqs.shaped →
      (s.seq v).mode = .boost →
      (match (s.seq v).busy with | .waiti 2 _ _ u => decide (stepAt (s.seq v).issueAt (max tick s.tick) + 4 ≤ u) | _ => true) = true →
      (s.group (s.groupOf v)).waiting = [] →
      s.time.counter ≤ tick →
      s.timeRuns = true →
      ∃ t, exec (.boostPhaseEnd v tick energy) s = .next t
        ∧ t.time.counter = tick
        ∧ (t.seq v).mode = .hold
        ∧ (t.seq v).level = (s.seq v).level
        ∧ (t.valve v).openFails = 0
        ∧ (t.group (s.groupOf v)).slots = (s.group (s.groupOf v)).slots.filter (fun w => w.1 != v.val))
  ∧ (∀ (v : Valve) (u l : Nat) (s : State),
      s.drive.shaped →
      s.seqs.shaped →
      (s.seq v).busy = .boostWait false u l →
      (s.group (s.groupOf v)).waiting.filter (fun w => w.2.1 != v.val) = [] →
      ∃ t, exec (.boostAbandon v) s = .next t
        ∧ (t.seq v).busy = .none
        ∧ (t.seq v).pc = (s.seq v).pc + 1
        ∧ (t.seq v).mode = (s.seq v).mode
        ∧ (t.seq v).level = (s.seq v).level
        ∧ t.nat (obj 0x2700 0x0A) = s.counted (obj 0x2700 0x0A)
        ∧ t.nat (groupKey 0x2707 (s.groupOf v)) = s.counted (groupKey 0x2707 (s.groupOf v)))
  ∧ (∀ (v : Valve) (timed : Option Nat) (s : State),
      s.seqs.shaped →
      (s.seq v).busy = .hold timed →
      ∃ t, exec (.holdEnd v) s = .next t
        ∧ (t.seq v).busy = .none
        ∧ (t.seq v).pc = (s.seq v).pc + 1
        ∧ (t.seq v).mode = (s.seq v).mode
        ∧ (t.seq v).level = (s.seq v).level
        ∧ (t.seq v).holdEnded = (timed.isNone || (s.seq v).holdEnded)
        ∧ max (s.holdDue v timed) ((s.seq v).issueAt + 4) ≤ (t.seq v).issueAt)
  ∧ (∀ (v : Valve) (u : Nat) (s : State),
      s.seqs.shaped →
      (s.seq v).busy = .wait u →
      ∃ t, exec (.waitExpiry v) s = .next t
        ∧ t.seq v = { s.seq v with busy := .none, pc := (s.seq v).pc + 1, issueAt := u })
  ∧ (∀ (v : Valve) (tick reading : Nat) (c thr u deadline : Nat) (k : Bool) (s : State),
      s.seqs.shaped →
      (s.seq v).busy = .waiti c thr k deadline →
      waitiHolds c thr reading (s.seq v).mode = true →
      u = stepAt (s.seq v).issueAt (if c = 2 then (s.seq v).boostEnd else max tick s.tick) + 4 →
      u ≤ deadline →
      ∃ t, exec (.waitiConditionMet v tick reading) s = .next t
        ∧ t.seq v = { (s.seq v).chop reading with busy := .none, pc := (s.seq v).pc + 1, issueAt := u })
  ∧ (∀ (v : Valve) (reading : Nat) (c thr u : Nat) (s : State),
      s.seqs.shaped →
      (s.seq v).busy = .waiti c thr true u →
      c ≠ 2 →
      ∃ t, exec (.waitiTimeout v reading) s = .next t
        ∧ t.seq v = { (s.seq v).chop reading with busy := .none, pc := (s.seq v).pc + 1, issueAt := u }
        ∧ t.nat (obj 0x2800 3) = s.counted (obj 0x2800 3))
  ∧ (∀ (v : Valve) (reading : Nat) (c thr u : Nat) (s : State),
      s.drive.shaped →
      s.seqs.shaped →
      (s.seq v).busy = .waiti c thr false u →
      c ≠ 2 →
      ∃ t, exec (.waitiTimeout v reading) s = .next t
        ∧ (t.seq v).running = false
        ∧ (t.seq v).mode = .off
        ∧ t.nat (valveKey 0x2812 v) = 1
        ∧ t.nat (obj 0x2800 2) = s.counted (obj 0x2800 2))
  ∧ (∀ (v : Valve) (reading : Nat) (thr u : Nat) (k : Bool) (s : State),
      s.drive.shaped →
      s.seqs.shaped →
      (s.seq v).busy = .waiti 2 thr k u →
      (s.seq v).mode = .boost →
      ∃ t, exec (.waitiTimeout v reading) s = .next t
        ∧ (t.seq v).running = false
        ∧ (t.seq v).mode = .off
        ∧ t.nat (valveKey 0x2812 v) = 1
        ∧ t.nat (obj 0x2800 2) = s.counted (obj 0x2800 2))
  ∧ (∀ (v : Valve) (parity : Bool) (s : State),
      s.drive.shaped →
      s.seqs.shaped →
      (s.seq v).ready = true →
      parity = true →
      0x40 ≤ (s.seq v).pc →
      ∃ t, exec (.illegalWord ⟨v, parity⟩) s = .next t
        ∧ (t.seq v).running = false
        ∧ (t.seq v).mode = .off
        ∧ t.nat (valveKey 0x2812 v) = 3
        ∧ t.nat (valveKey 0x2810 v) = 0
        ∧ t.nat (obj 0x2800 1) = s.counted (obj 0x2800 1)
        ∧ (t.store (s.groupOf v)).active.badParity.contains (s.seq v).pc = true)
  ∧ (∀ (v : Valve) (parity : Bool) (s : State),
      s.drive.shaped →
      s.seqs.shaped →
      (s.seq v).ready = true →
      parity = false →
      s.parityBad v = false →
      s.fetch v = .illegal →
      ∃ t, exec (.illegalWord ⟨v, parity⟩) s = .next t
        ∧ (t.seq v).running = false
        ∧ (t.seq v).mode = .off
        ∧ t.nat (valveKey 0x2812 v) = 2
        ∧ t.nat (valveKey 0x2810 v) = 0
        ∧ t.nat (obj 0x2800 1) = s.counted (obj 0x2800 1))
  ∧ (∀ (v : Valve) (tick : Nat) (s : State),
      s.drive.shaped →
      s.seqs.shaped →
      (s.seq v).running = false →
      (s.seq v).idle = false →
      (s.seq v).window = none →
      ∃ t, exec (.sequencerIdle v tick) s = .next t
        ∧ t.seq v = { s.seq v with idle := true }
        ∧ (t.valve v).run = none
        ∧ (t.valve v).queue = (s.valve v).queue
        ∧ t.od = s.od)

/-- SHADOW_IMAGE_WRITE while no swap waits takes an image that passes every check of R230 into the shadow store, or counts it in 0x2800:09 and shows
its cause in 0x2807; IMAGE_ALL_GROUPS does so for every group. A swap request with a valid shadow that holds the selected profiles swaps at once
outside Sorting with its group idle (0x2800:06) and waits while Sorting; refused it counts in 0x2800:08. GROUP_SWAP exchanges the stores of an
idle group, SWAP_HOLD holds edges 1 ms after the request, SWAP_ABANDON gives up 1 ms later and counts. PROFILE_SELECT of a present profile
stands. -/
def Obligations.SequencerStoreResults : Prop :=
  (∀ (m : Master) (g : Group) (image : List Byte) (s : State),
      s.seqs.shaped →
      g.val < s.stride →
      s.writable m (groupKey 0x2801 g) (.bytes image) = true →
      (s.store g).swapAt = none →
      s.reachable m = true →
      ∃ t, exec (.shadowImageWrite m g image) s = .next t
        ∧ (if imageCause image = 0 then (t.store g).shadow = { image := image, valid := true } ∧ (t.store g).active = (s.store g).active else t.nat (groupKey 0x2807 g) = imageCause image ∧ t.nat (obj 0x2800 9) = s.counted (obj 0x2800 9) ∧ t.seqs = s.seqs))
  ∧ (∀ (m : Master) (image : List Byte) (s : State),
      s.seqs.shaped →
      s.writable m (obj 0x2808 1) (.bytes image) = true →
      (∀ g, g < s.stride → (s.store g).swapAt = none) →
      ∃ t, exec (.imageAllGroups m image) s = .next t
        ∧ (if imageCause image = 0 then ∀ g, g < s.stride → (t.store g).shadow = { image := image, valid := true } else t.seqs = s.seqs ∧ t.nat (obj 0x2800 9) = s.counted (obj 0x2800 9) ∧ ∀ g, g < s.stride → t.nat (groupKey 0x2807 g) = imageCause image))
  ∧ (∀ (m : Master) (g : Group) (s : State),
      s.seqs.shaped →
      s.writable m (groupKey 0x2802 g) (.num 1) = true →
      (s.store g).shadow.valid = true →
      (s.store g).swapAt = none →
      (s.groupValves g).all (fun v => ((s.store g).shadow.entry (s.profileOf v)).2 != 0) = true →
      s.module.state ≠ .sorting →
      s.testRunning = false →
      s.groupIdle g = true →
      s.edgeWithin g s.tick = false →
      ∃ t, exec (.groupSwapRequest m g) s = .next t
        ∧ (t.store g).active = (s.store g).shadow
        ∧ (t.store g).shadow = { (s.store g).active with valid := true }
        ∧ (t.store g).swapAt = none
        ∧ t.nat (groupKey 0x2806 g) = 0
        ∧ t.nat (obj 0x2800 6) = s.counted (obj 0x2800 6)
        ∧ t.out.head? = some (ack m (groupKey 0x2802 g)))
  ∧ (∀ (m : Master) (g : Group) (s : State),
      s.seqs.shaped →
      s.writable m (groupKey 0x2802 g) (.num 1) = true →
      (s.store g).shadow.valid = true →
      (s.store g).swapAt = none →
      (s.groupValves g).all (fun v => ((s.store g).shadow.entry (s.profileOf v)).2 != 0) = true →
      s.module.state = .sorting →
      (s.group g).state ≠ 2 →
      ∃ t, exec (.groupSwapRequest m g) s = .next t
        ∧ (t.store g).active = (s.store g).active
        ∧ (t.store g).shadow = (s.store g).shadow
        ∧ (t.store g).swapAt = some s.clk
        ∧ t.out = ack m (groupKey 0x2802 g) :: s.out)
  ∧ (∀ (m : Master) (g : Group) (s : State),
      s.writable m (groupKey 0x2802 g) (.num 1) = true →
      (s.store g).shadow.valid = false →
      ∃ t, exec (.groupSwapRequest m g) s = .next t
        ∧ t.seqs = s.seqs
        ∧ t.nat (obj 0x2800 8) = s.counted (obj 0x2800 8)
        ∧ t.out.head? = some (.reply m (groupKey 0x2802 g / 256) (groupKey 0x2802 g % 256) abortState []))
  ∧ (∀ (m : Master) (s : State),
      s.writable m (obj 0x2808 2) (.num 1) = true →
      (∀ g, g < s.stride → (s.store g).shadow.valid = false) →
      ∃ t, exec (.swapAllGroups m) s = .next t
        ∧ t.seqs = s.seqs
        ∧ t.nat (obj 0x2800 8) = min (maxOf (obj 0x2800 8)) (s.nat (obj 0x2800 8) + s.stride)
        ∧ t.out.head? = some (ack m (obj 0x2808 2)))
  ∧ (∀ (g : Group) (u : Nat) (s : State),
      s.seqs.shaped →
      (s.store g).swapAt = some u →
      s.groupIdle g = true →
      (s.store g).holding = true ∨ s.edgeWithin g s.tick = false →
      g.val < s.stride →
      ∃ t, exec (.groupSwap g) s = .next t
        ∧ (t.store g).active = (s.store g).shadow
        ∧ (t.store g).shadow = { (s.store g).active with valid := true }
        ∧ (t.store g).swapAt = none
        ∧ (t.store g).holding = false
        ∧ t.nat (groupKey 0x2806 g) = min 2000 ((s.clk - u) / usTicks)
        ∧ t.nat (obj 0x2800 6) = s.counted (obj 0x2800 6))
  ∧ (∀ (g : Group) (u : Nat) (s : State),
      s.seqs.shaped →
      (s.store g).swapAt = some u →
      (s.store g).holding = false →
      s.clk ≤ u + msTicks →
      ∃ t, exec (.swapHold g) s = .next t
        ∧ t.clk = u + msTicks
        ∧ t.store g = { s.store g with holding := true }
        ∧ t.od = s.od)
  ∧ (∀ (g : Group) (u : Nat) (s : State),
      s.seqs.shaped →
      (s.store g).swapAt = some u →
      (s.store g).holding = true →
      s.clk ≤ u + 2 * msTicks →
      ∃ t, exec (.swapAbandon g) s = .next t
        ∧ t.clk = u + 2 * msTicks
        ∧ t.store g = { s.store g with swapAt := none, holding := false, held := [] }
        ∧ t.nat (obj 0x2800 7) = s.counted (obj 0x2800 7))
  ∧ (∀ (m : Master) (v : Valve) (profile : Nat) (s : State),
      s.writable m (valveKey 0x2810 v) (.num profile) = true →
      ((s.store (s.groupOf v)).active.entry profile).2 ≠ 0 →
      (s.store (s.groupOf v)).swapAt = none →
      ∃ t, exec (.profileSelect m v profile) s = .next t
        ∧ t.nat (valveKey 0x2810 v) = profile
        ∧ t.seqs = s.seqs
        ∧ t.out = ack m (valveKey 0x2810 v) :: s.out)

/-- SWAP_ALL_GROUPS by a master that may write 0x2808:02, while the module is not Sorting and no test shot runs, with every group idle, no edge held
or within a step, no swap waiting, and every shadow store valid and holding the profiles that its valves select: the active and the shadow store
of every group exchange their roles, no swap waits, 0x2806 shows 0 µs, 0x2800:06 counts every group, and the write is acknowledged. -/
def Obligations.SwapAllGroupsResult : Prop :=
  (∀ (m : Master) (s : State),
      s.seqs.shaped →
      s.writable m (obj 0x2808 2) (.num 1) = true →
      s.module.state ≠ .sorting →
      s.testRunning = false →
      (∀ g, g < s.stride → (s.store g).shadow.valid = true ∧ (s.store g).swapAt = none ∧ (s.store g).held = [] ∧ s.groupIdle g = true ∧ s.edgeWithin g s.tick = false ∧ (s.groupValves g).all (fun v => ((s.store g).shadow.entry (s.profileOf v)).2 != 0) = true) →
      ∃ t, exec (.swapAllGroups m) s = .next t
        ∧ (∀ g, g < s.stride → (t.store g).active = (s.store g).shadow ∧ (t.store g).shadow = { (s.store g).active with valid := true } ∧ (t.store g).swapAt = none ∧ t.nat (groupKey 0x2806 g) = 0)
        ∧ t.nat (obj 0x2800 6) = min (maxOf (obj 0x2800 6)) (s.nat (obj 0x2800 6) + s.stride)
        ∧ t.out.head? = some (ack m (obj 0x2808 2)))

/-- LOOP_SAMPLE of a slot in warm-up or running comes at phase + n × period, reads AIN0 to AIN3, advances n and counts the sample in 0x2A17:01. A
readable source and set-point give the nodes of R266: y_s = gain × value + offset, e = r − y, v = P + I + D + FF. A source fault or a stale
source computes nothing and is counted in 0x2A17:02. PIN0_PULSE measures the frequency from the interval. TRACE_SAMPLE stores the slot node whose
decimation is due, and takes an engine input at the boundary of the 50 kHz clock at which its decimation is due. -/
def Obligations.LoopSampleResults : Prop :=
  (∀ (slot : Fin 8) (ains : List Int) (s : State),
      s.loops.shaped →
      (s.slot slot).state = .warmUp ∨ (s.slot slot).state = .running →
      s.timeRuns = true →
      s.loops.stopped = false →
      ∃ t, exec (.loopSample slot ains) s = .next t
        ∧ (t.slot slot).next = (s.slot slot).next + 1
        ∧ t.nat (slotKey slot 0x2A17 1) = s.counted (slotKey slot 0x2A17 1)
        ∧ (∀ x r, ((s.atTick (s.nat (slotKey slot 0x2A10 7) + (s.slot slot).next * s.nat (slotKey slot 0x2A10 6))).readAins ains).readSource (s.nat (slotKey slot 0x2A11 1)) (s.nat (slotKey slot 0x2A11 4)) = .ok x → ((s.atTick (s.nat (slotKey slot 0x2A10 7) + (s.slot slot).next * s.nat (slotKey slot 0x2A10 6))).readAins ains).setPoint slot ((s.nat (slotKey slot 0x2A10 6) : ℚ) / secTicks) = some r → (t.slot slot).nodes.getD 0 0 = s.real (slotKey slot 0x2A11 2) * x + s.real (slotKey slot 0x2A11 3) ∧ (t.slot slot).nodes.getD 2 0 = r ∧ (t.slot slot).nodes.getD 3 0 = r - (t.slot slot).nodes.getD 1 0 ∧ (t.slot slot).nodes.getD 8 0 = (t.slot slot).nodes.getD 4 0 + (t.slot slot).nodes.getD 5 0 + (t.slot slot).nodes.getD 6 0 + (t.slot slot).nodes.getD 7 0 ∧ (t.slot slot).staleRun = 0))
  ∧ (∀ (slot : Fin 8) (ains : List Int) (s : State),
      s.loops.shaped →
      (s.slot slot).state = .warmUp ∨ (s.slot slot).state = .running →
      s.timeRuns = true →
      s.loops.stopped = false →
      s.nat (slotKey slot 0x2A11 1) = 1 →
      (((s.atTick (s.nat (slotKey slot 0x2A10 7) + (s.slot slot).next * s.nat (slotKey slot 0x2A10 6))).readAins ains).loopInput 0).fault = true →
      ∃ t, exec (.loopSample slot ains) s = .next t
        ∧ (t.slot slot).next = (s.slot slot).next + 1
        ∧ (t.slot slot).staleRun = (s.slot slot).staleRun + 1
        ∧ (t.slot slot).nodes = (s.slot slot).nodes
        ∧ t.nat (slotKey slot 0x2A17 2) = s.counted (slotKey slot 0x2A17 2)
        ∧ (t.slot slot).state = (if s.nat (slotKey slot 0x2A11 5) ≤ (s.slot slot).staleRun + 1 then .fault else (s.slot slot).state))
  ∧ (∀ (tick : Nat) (u : Nat) (s : State),
      s.loops.shaped →
      s.module.mainUp = true →
      s.timeRuns = true →
      s.loops.pinTick = some u →
      u < tick →
      s.time.counter ≤ tick →
      ∃ t, exec (.pin0Pulse tick) s = .next t
        ∧ t.loops.pinTick = some tick
        ∧ (t.loops.inputs.getD 4 {}).value = (secTicks : ℚ) / ((tick - u : Nat) : ℚ)
        ∧ (t.loops.inputs.getD 4 {}).at_ = some t.clk
        ∧ t.time.counter = tick)
  ∧ (∀ (t : Fin 4) (ains : List Int) (s : State),
      s.loops.shaped →
      (s.trace t).state = 2 →
      s.timeRuns = true →
      s.nat (obj (0x2A90 + t) 1) / 256 ≠ 0xFE →
      s.nat (obj (0x2A90 + t) 2) ≤ (s.trace t).skipped →
      ∃ t', exec (.traceSample t ains) s = .next t'
        ∧ t'.trace t = { s.trace t with ring := assocSet (s.trace t).ring (s.trace t).head (r32Of (s.nodeValue (s.nat (obj (0x2A90 + t) 1)))), head := ((s.trace t).head + 1) % 16384, valid := min 16384 ((s.trace t).valid + 1), skipped := 0, left := (s.trace t).left - 1 })
  ∧ (∀ (t : Fin 4) (ains : List Int) (s : State),
      s.loops.shaped →
      (s.trace t).state = 1 →
      s.timeRuns = true →
      s.nat (obj (0x2A90 + t) 1) / 256 = 0xFE →
      1 < (s.trace t).left →
      (s.trace t).skipped < s.nat (obj (0x2A90 + t) 2) →
      s.time.counter ≤ 16000 * (s.trace t).boundary →
      ∃ t', exec (.traceSample t ains) s = .next t'
        ∧ t'.time.counter = 16000 * ((s.trace t).boundary + (s.nat (obj (0x2A90 + t) 2) - (s.trace t).skipped - 1))
        ∧ (t'.trace t).boundary = (s.trace t).boundary + (s.nat (obj (0x2A90 + t) 2) - (s.trace t).skipped)
        ∧ (t'.trace t).left = (s.trace t).left - 1
        ∧ (t'.trace t).valid = min 16384 ((s.trace t).valid + 1)
        ∧ (t'.trace t).state = 1)

/-- LOOP_BANK_WRITE of an acceptable bank, inactive and with no swap pending, stands and is answered. A swap request in warm-up or running is pending
and at once in any other state, counted. A re-arm of an enabled faulted slot whose run condition holds enters warm-up. Enable 0 disables; with a
source, and an output that no other slot owns, 1 enters warm-up where the run condition holds and parks the slot otherwise, and 2 is Manual at
0x2A10:08; a faulted slot stays there. Arm fills the pre-trigger count or waits, the forced trigger records its tick and fills the rest, stop
leaves a full buffer. -/
def Obligations.LoopCommandResults : Prop :=
  (∀ (m : Master) (slot : Fin 8) (bank : Nat) (image : List Byte) (s : State),
      s.loops.shaped →
      s.writable m (slotKey slot (0x2A13 + bank % 2) 1) (.bytes image) = true →
      bank % 2 ≠ (s.slot slot).active →
      (s.slot slot).swapPending = false →
      loopBankOk image = true →
      ∃ t, exec (.loopBankWrite m slot bank image) s = .next t
        ∧ t.byteVal (slotKey slot (0x2A13 + bank % 2) 1) = image
        ∧ t.loops = s.loops
        ∧ t.out = ack m (slotKey slot (0x2A13 + bank % 2) 1) :: s.out)
  ∧ (∀ (m : Master) (slot : Fin 8) (bank : Nat) (image : List Byte) (s : State),
      s.writable m (slotKey slot (0x2A13 + bank % 2) 1) (.bytes image) = true →
      bank % 2 = (s.slot slot).active ∨ (s.slot slot).swapPending = true →
      ∃ t, exec (.loopBankWrite m slot bank image) s = .next t
        ∧ t.od = s.od
        ∧ t.loops = s.loops
        ∧ t.out = .reply m (slotKey slot (0x2A13 + bank % 2) 1 / 256) (slotKey slot (0x2A13 + bank % 2) 1 % 256) abortState [] :: s.out)
  ∧ (∀ (m : Master) (slot : Fin 8) (s : State),
      s.loops.shaped →
      s.writable m (slotKey slot 0x2A10 0x0D) (.num 1) = true →
      (s.slot slot).state = .warmUp ∨ (s.slot slot).state = .running →
      ∃ t, exec (.loopBankSwap m slot) s = .next t
        ∧ t.slot slot = { s.slot slot with swapPending := true }
        ∧ t.out = ack m (slotKey slot 0x2A10 0x0D) :: s.out)
  ∧ (∀ (m : Master) (slot : Fin 8) (s : State),
      s.loops.shaped →
      s.writable m (slotKey slot 0x2A10 0x0D) (.num 1) = true →
      (s.slot slot).state ≠ .warmUp →
      (s.slot slot).state ≠ .running →
      ∃ t, exec (.loopBankSwap m slot) s = .next t
        ∧ t.slot slot = { s.slot slot with active := 1 - (s.slot slot).active, swapPending := false }
        ∧ t.nat (slotKey slot 0x2A17 5) = s.counted (slotKey slot 0x2A17 5)
        ∧ t.out.head? = some (ack m (slotKey slot 0x2A10 0x0D)))
  ∧ (∀ (m : Master) (slot : Fin 8) (s : State),
      s.loops.shaped →
      s.writable m (slotKey slot 0x2A10 4) (.num 1) = true →
      (s.slot slot).state = .fault →
      s.nat (slotKey slot 0x2A10 2) ≠ 0 →
      s.runCondition slot = true →
      ∃ t, exec (.loopRearm m slot) s = .next t
        ∧ (t.slot slot).state = .warmUp
        ∧ (t.slot slot).cause = 0
        ∧ (t.slot slot).warm = s.nat (slotKey slot 0x2A15 1)
        ∧ t.out.head? = some (ack m (slotKey slot 0x2A10 4)))
  ∧ (∀ (m : Master) (slot : Fin 8) (s : State),
      s.loops.shaped →
      s.writable m (slotKey slot 0x2A10 2) (.num 0) = true →
      (s.slot slot).state ≠ .fault →
      ∃ t, exec (.loopEnableWrite m slot 0) s = .next t
        ∧ t.nat (slotKey slot 0x2A10 2) = 0
        ∧ (t.slot slot).state = .disabled
        ∧ (t.slot slot).out = 0
        ∧ (t.slot slot).swapPending = false
        ∧ (t.slot slot).rebase = false
        ∧ (t.slot slot).active = (if (s.slot slot).swapPending then 1 - (s.slot slot).active else (s.slot slot).active)
        ∧ t.out.head? = some (ack m (slotKey slot 0x2A10 2)))
  ∧ (∀ (m : Master) (slot : Fin 8) (s : State),
      s.loops.shaped →
      s.writable m (slotKey slot 0x2A10 2) (.num 1) = true →
      s.nat (slotKey slot 0x2A11 1) ≠ 0 →
      s.outputTaken slot (s.nat (slotKey slot 0x2A11 6)) = false →
      (s.slot slot).state = .disabled ∨ (s.slot slot).state = .manual →
      ∃ t, exec (.loopEnableWrite m slot 1) s = .next t
        ∧ t.nat (slotKey slot 0x2A10 2) = 1
        ∧ (t.slot slot).state = (if s.runCondition slot then .warmUp else .parked)
        ∧ t.out.head? = some (ack m (slotKey slot 0x2A10 2)))
  ∧ (∀ (m : Master) (slot : Fin 8) (s : State),
      s.loops.shaped →
      s.writable m (slotKey slot 0x2A10 2) (.num 2) = true →
      s.nat (slotKey slot 0x2A11 1) ≠ 0 →
      s.outputTaken slot (s.nat (slotKey slot 0x2A11 6)) = false →
      (s.slot slot).state ≠ .fault →
      ∃ t, exec (.loopEnableWrite m slot 2) s = .next t
        ∧ t.nat (slotKey slot 0x2A10 2) = 2
        ∧ (t.slot slot).state = .manual
        ∧ (t.slot slot).out = s.real (slotKey slot 0x2A10 8)
        ∧ (t.slot slot).swapPending = false
        ∧ (t.slot slot).rebase = false
        ∧ (t.slot slot).active = (if (s.slot slot).swapPending then 1 - (s.slot slot).active else (s.slot slot).active)
        ∧ t.out.head? = some (ack m (slotKey slot 0x2A10 2)))
  ∧ (∀ (m : Master) (t : Fin 4) (s : State),
      s.loops.shaped →
      s.writable m (obj (0x2A90 + t) 7) (.num 1) = true →
      ∃ t', exec (.traceArm m t) s = .next t'
        ∧ t'.trace t = { state := if s.nat (obj (0x2A90 + t) 6) = 0 then 2 else 1, left := s.nat (obj (0x2A90 + t) 6), boundary := s.tick / 16000 + 1 }
        ∧ t'.out.head? = some (ack m (obj (0x2A90 + t) 7)))
  ∧ (∀ (m : Master) (t : Fin 4) (s : State),
      s.loops.shaped →
      s.writable m (obj (0x2A90 + t) 7) (.num 2) = true →
      (s.trace t).state = 2 →
      ∃ t', exec (.traceForceTrigger m t) s = .next t'
        ∧ t'.trace t = { s.trace t with state := 3, left := 16384 - s.nat (obj (0x2A90 + t) 6), trigTick := s.tick }
        ∧ t'.out = ack m (obj (0x2A90 + t) 7) :: s.out)
  ∧ (∀ (m : Master) (t : Fin 4) (s : State),
      s.loops.shaped →
      s.writable m (obj (0x2A90 + t) 7) (.num 0) = true →
      ∃ t', exec (.traceStop m t) s = .next t'
        ∧ t'.trace t = (if (s.trace t).state = 4 then s.trace t else { s.trace t with state := 0 })
        ∧ t'.out = ack m (obj (0x2A90 + t) 7) :: s.out)

/-- OPERATING_HOUR closes the hour: its number and the hours counted go up by one and every valve's hour begins anew. VALVE_REPLACED of a valve that
is not in state 2 clears its entry, makes a retired valve available and writes the store. DIE_MARGIN_SAMPLE keeps the worst margin of the hour,
taken at the die temperature in force; below 0x2901:08 with steps left it takes a step at once, with none left the range is exhausted, below
0x2901:07 one is pending, above none is. BULK_RECHARGE_MEASURED with every group switch open adds C = I_chg × Δt / ΔV. -/
def Obligations.LedgerResults : Prop :=
  (∀ (s : State),
      s.module.mainUp = true →
      ∃ t, exec .operatingHour s = .next t
        ∧ t.recorder.hour = s.recorder.hour + 1
        ∧ t.ledger.data.hours = satAdd max32 1 s.ledger.data.hours
        ∧ (∀ v, v < s.valveCount → (t.ledgerValve v).hourN = 0 ∧ (t.ledgerValve v).hourDelta = 0 ∧ (t.ledgerValve v).hourAmp = 0))
  ∧ (∀ (m : Master) (v : Nat) (s : State),
      s.drive.shaped →
      s.writable m (obj 0x290B 1) (.num v) = true →
      v < s.valveCount →
      v < s.ledger.data.valves.length →
      (s.valve v).avail ≠ 2 →
      ∃ t, exec (.valveReplaced m v) s = .next t
        ∧ t.ledgerValve v = { fresh := some (0, 0), calibrated := (s.ledgerValve v).calibrated }
        ∧ (t.valve v).avail = (if (s.valve v).avail = 1 then 0 else (s.valve v).avail)
        ∧ t.ledger.data.writes = satAdd max32 1 s.ledger.data.writes
        ∧ t.out.head? = some (ack m (obj 0x290B 1)))
  ∧ (∀ (ring : RingMargin) (s : State),
      s.module.mainUp = true →
      s.nat (obj 0x2901 8) ≤ s.dieMargin ring →
      s.nat (obj 0x2901 7) ≤ s.dieMargin ring →
      ∃ t, exec (.dieMarginSample ring) s = .next t
        ∧ t.ledger.data = { s.ledger.data with dieWorst := min (min 100 (s.dieMargin ring)) s.ledger.data.dieWorst, dieExhausted := false }
        ∧ t.od = s.od)
  ∧ (∀ (ring : RingMargin) (s : State),
      s.module.mainUp = true →
      s.dieMargin ring < s.nat (obj 0x2901 8) →
      s.ledger.data.coreSteps < 4 →
      ∃ t, exec (.dieMarginSample ring) s = .next t
        ∧ t.ledger.data.coreSteps = s.ledger.data.coreSteps + 1
        ∧ t.ledger.data.corePending = false
        ∧ t.ledger.data.dieWorst = min (min 100 (s.dieMargin ring)) s.ledger.data.dieWorst
        ∧ t.ledger.data.writes = satAdd max32 1 s.ledger.data.writes)
  ∧ (∀ (ring : RingMargin) (s : State),
      s.module.mainUp = true →
      s.nat (obj 0x2901 8) ≤ s.dieMargin ring →
      s.dieMargin ring < s.nat (obj 0x2901 7) →
      s.ledger.data.coreSteps < 4 →
      ∃ t, exec (.dieMarginSample ring) s = .next t
        ∧ t.ledger.data.corePending = true
        ∧ t.ledger.data.coreSteps = s.ledger.data.coreSteps
        ∧ t.ledger.data.dieWorst = min (min 100 (s.dieMargin ring)) s.ledger.data.dieWorst
        ∧ t.od = s.od)
  ∧ (∀ (ring : RingMargin) (s : State),
      s.module.mainUp = true →
      s.dieMargin ring < s.nat (obj 0x2901 8) →
      4 ≤ s.ledger.data.coreSteps →
      ∃ t, exec (.dieMarginSample ring) s = .next t
        ∧ t.ledger.data.dieExhausted = true
        ∧ t.ledger.data.coreSteps = s.ledger.data.coreSteps
        ∧ t.ledger.data.dieWorst = min (min 100 (s.dieMargin ring)) s.ledger.data.dieWorst)
  ∧ (∀ (ticks rise : Nat) (s : State),
      s.module.mainUp = true →
      500 ≤ rise →
      s.drive.groups.all (fun g => g.slots.isEmpty) = true →
      ∃ t, exec (.bulkRechargeMeasured ticks rise) s = .next t
        ∧ t.ledger.data = { s.ledger.data with caps := s.ledger.data.caps ++ [(Config.chargeCurrent : ℚ) * ((ticks : ℚ) / usTicks) / rise] }
        ∧ t.od = s.od)

/-- PANEL_SCAN with the rails up comes 1 ms after the last and begins waiting pairs. PAIR_COMPLETE ends 16 ms later a pair of a region's update (the
last one counted in 0x2B00:06; a waiting request begins in its place where it needs a pair), a pair of a clear cycle, or the strip's pair, which
then shows the new content. RAIL_STEP checks the rail switched on last and goes on, opens the first scan after VCOM, or stops as a rail fault
counted in 0x2B00:0C; the hold time ends in a power-down, whose steps follow once a rail has fallen. STRIP_WRITE writes changed content 1 s after
the last write; the island writes the strip where the main side cannot. -/
def Obligations.PanelDriverResults : Prop :=
  (∀ (s : State),
      s.module.mainUp = true →
      s.backdrop.rails.state = 2 →
      s.clk ≤ s.backdrop.scanAt + msTicks →
      ∃ t, exec .panelScan s = .next t
        ∧ t.clk = s.backdrop.scanAt + msTicks
        ∧ t.backdrop.scanAt = t.clk
        ∧ (∀ i r, (s.backdrop.slots.getD i {}).run = some r → (t.backdrop.slots.getD i {}).run = some { r with pairAt := r.pairAt.or (some t.clk) }))
  ∧ (∀ (r : Fin 10) (x : RegionRun) (u : Nat) (s : State),
      s.backdrop.shaped →
      r.val < 8 →
      (s.backdrop.slots.getD r {}).run = some x →
      x.pairAt = some u →
      s.clk ≤ u + 16 * msTicks →
      s.backdrop.powerFail = false →
      (s.backdrop.slots.getD r {}).next = none →
      s.runPairs x ≤ x.pairs + 1 →
      ∃ t, exec (.pairComplete r) s = .next t
        ∧ t.clk = u + 16 * msTicks
        ∧ (t.backdrop.slots.getD r {}).run = none
        ∧ t.nat (obj 0x2B00 6) = s.counted (obj 0x2B00 6))
  ∧ (∀ (r : Fin 10) (x : RegionRun) (u : Nat) (s : State),
      s.backdrop.shaped →
      r.val < 8 →
      (s.backdrop.slots.getD r {}).run = some x →
      x.pairAt = some u →
      s.clk ≤ u + 16 * msTicks →
      s.backdrop.powerFail = false →
      (s.backdrop.slots.getD r {}).next = none →
      x.pairs + 1 < s.runPairs x →
      ∃ t, exec (.pairComplete r) s = .next t
        ∧ t.clk = u + 16 * msTicks
        ∧ (t.backdrop.slots.getD r {}).run = some { x with pairs := x.pairs + 1, pairAt := some t.clk })
  ∧ (∀ (r : Fin 10) (x : RegionRun) (u : Nat) (q : RegionReq) (s : State),
      s.backdrop.shaped →
      r.val < 8 →
      (s.backdrop.slots.getD r {}).run = some x →
      x.pairAt = some u →
      s.clk ≤ u + 16 * msTicks →
      s.backdrop.powerFail = false →
      (s.backdrop.slots.getD r {}).next = some q →
      ∃ t, exec (.pairComplete r) s = .next t
        ∧ t.clk = u + 16 * msTicks
        ∧ (t.backdrop.slots.getD r {}).run = (if t.runPairs { req := q, start := (t.panel q.panel).levels, pairAt := some t.clk } = 0 then none else some { req := q, start := (t.panel q.panel).levels, pairAt := some t.clk })
        ∧ (t.backdrop.slots.getD r {}).next = none)
  ∧ (∀ (r : Fin 10) (x : PanelRun) (u : Nat) (rects : List RegionReq) (s : State),
      r.val = 8 →
      s.backdrop.run = some x →
      x.phase = .clear rects →
      x.pairAt = some u →
      x.pairs + 1 < 112 →
      s.clk ≤ u + 16 * msTicks →
      s.backdrop.powerFail = false →
      ∃ t, exec (.pairComplete r) s = .next t
        ∧ t.clk = u + 16 * msTicks
        ∧ t.backdrop.run = some { x with pairs := x.pairs + 1, pairAt := some t.clk })
  ∧ (∀ (r : Fin 10) (u : Nat) (s : State),
      r.val = 9 →
      s.power.moorAt = none →
      s.backdrop.stripRun = some (some u) →
      s.clk ≤ u + 16 * msTicks →
      ∃ t, exec (.pairComplete r) s = .next t
        ∧ t.clk = u + 16 * msTicks
        ∧ t.backdrop.strip = s.backdrop.stripNext
        ∧ t.backdrop.stripRun = none
        ∧ t.backdrop.stripAt = some t.clk
        ∧ t.nat (obj 0x2B00 0x0D) = s.counted (obj 0x2B00 0x0D)
        ∧ t.out = .strip s.backdrop.stripNext :: s.out)
  ∧ (∀ (reading reading2 : Int) (k u : Nat) (s : State),
      s.backdrop.rails = { state := 1, step := k, since := u } →
      k < 6 →
      railOk k reading = true →
      s.clk ≤ u + 2 * k * msTicks →
      ∃ t, exec (.railStep reading reading2) s = .next t
        ∧ t.clk = u + 2 * k * msTicks
        ∧ t.backdrop.rails = { state := 1, step := k + 1, since := u })
  ∧ (∀ (reading reading2 : Int) (u : Nat) (s : State),
      s.backdrop.rails = { state := 1, step := 6, since := u } →
      (reading - s.int (obj 0x2B02 1)).natAbs ≤ 50 →
      (reading2 - s.int (obj 0x2B02 2)).natAbs ≤ 50 →
      s.clk ≤ u + 12 * msTicks →
      ∃ t, exec (.railStep reading reading2) s = .next t
        ∧ t.clk = u + 12 * msTicks
        ∧ t.backdrop.rails = { state := 2, step := 6, since := u }
        ∧ t.backdrop.idleAt = t.clk
        ∧ t.backdrop.scanAt = t.clk - msTicks)
  ∧ (∀ (reading reading2 : Int) (k u : Nat) (s : State),
      s.backdrop.rails = { state := 1, step := k, since := u } →
      k < 6 →
      railOk k reading = false →
      ∃ t, exec (.railStep reading reading2) s = .next t
        ∧ t.backdrop.rails.state = 4
        ∧ (∀ i, i < 8 → (t.backdrop.slots.getD i {}).run = none ∧ (t.backdrop.slots.getD i {}).next = none)
        ∧ t.backdrop.run = none
        ∧ t.nat (obj 0x2B00 0x0C) = s.counted (obj 0x2B00 0x0C))
  ∧ (∀ (s : State),
      s.backdrop.rails.state = 2 →
      s.panelsBusy = false →
      s.backdrop.powerFail = false →
      s.clk ≤ s.backdrop.idleAt + s.nat (obj 0x2B01 5) * msTicks →
      ∃ t, exec .railHoldExpiry s = .next t
        ∧ t.clk = s.backdrop.idleAt + s.nat (obj 0x2B01 5) * msTicks
        ∧ t.backdrop.rails = { state := 3, step := 5, since := t.clk })
  ∧ (∀ (reading reading2 : Int) (k u : Nat) (s : State),
      s.backdrop.rails = { state := 3, step := k, since := u } →
      1 < k →
      s.railFallen (k + 1) reading reading2 = true →
      ∃ t, exec (.railPowerDownStep ⟨reading, reading2⟩) s = .next t
        ∧ t.backdrop.rails = { state := 3, step := k - 1, since := u })
  ∧ (∀ (reading reading2 : Int) (u : Nat) (s : State),
      s.backdrop.rails = { state := 3, step := 1, since := u } →
      s.backdrop.flex.any (·.isNone) = false →
      s.railFallen 2 reading reading2 = true →
      s.clk ≤ u + 5 * msTicks →
      ∃ t, exec (.railPowerDownStep ⟨reading, reading2⟩) s = .next t
        ∧ t.backdrop.rails = (if s.panelsBusy then { state := 1, step := 1, since := t.clk } else {})
        ∧ t.clk = u + 5 * msTicks)
  ∧ (∀ (u : Nat) (s : State),
      s.module.mainUp = true →
      s.backdrop.powerFail = false →
      s.backdrop.rails.state ≠ 4 →
      s.backdrop.stripRun = none →
      s.stripText s.module.state ≠ s.backdrop.strip →
      s.backdrop.stripAt = some u →
      s.backdrop.flex.any (·.isNone) = false →
      ∃ t, exec .stripWrite s = .next t
        ∧ t.backdrop.stripRun = some none
        ∧ t.backdrop.stripNext = s.stripText s.module.state
        ∧ t.clk = max s.clk (u + secTicks)
        ∧ t.backdrop.strip = s.backdrop.strip
        ∧ t.backdrop.rails.state = (if s.backdrop.rails.state = 0 then 1 else s.backdrop.rails.state))
  ∧ (∀ (s : State),
      s.stripOrphaned = true →
      s.power.vsb = true →
      ∃ t, exec .islandStripWrite s = .next t
        ∧ t.backdrop.strip = s.stripText .fault
        ∧ t.backdrop.stripAt = some s.clk
        ∧ t.module = s.module
        ∧ t.backdrop.stripCode = 0x900B)

/-- A waveform table, tone image or trim map that passes its checks stands with its ID, and one that fails does not. REGION_GO of a request that no
cause of R294 refuses starts the slot's update, where it needs a pair, and the rails, or waits behind the running one; a refused request shows
its cause and is counted in 0x2B00:08. PANEL_GREY and PANEL_HOME begin a run over both panels, or end at once where no cell needs a pair.
EVENT_CODE_ACK acknowledges. STROBE_PULSE comes at trigger + delay with the effective current and is counted; STROBE_ENABLE holds the value and
clears a fault on 0 then 1. -/
def Obligations.BackdropCommandResults : Prop :=
  (∀ (m : Master) (panel : Fin 2) (table : List Byte) (s : State),
      s.writable m (obj (0x2B03) (panel + 1)) (.bytes table) = true →
      s.panelRunning panel = false →
      ∃ t, exec (.waveformTableWrite m panel table) s = .next t
        ∧ (if waveformOk table = true then t.byteVal (obj 0x2B03 (panel + 1)) = table ∧ t.shown m (obj 0x2B03 (panel + 3)) = .num (field table 4 4) ∧ t.out = ack m (obj 0x2B03 (panel + 1)) :: s.out else t.val (obj 0x2B03 (panel + 1)) = s.val (obj 0x2B03 (panel + 1)) ∧ t.out.head? = some (.reply m 0x2B03 (panel + 1) abortData [])))
  ∧ (∀ (m : Master) (slot : Fin 8) (s : State),
      s.backdrop.shaped →
      s.writable m (obj (0x2B20 + slot) 7) (.num 1) = true →
      s.regionCause slot (s.regionFields slot) = 0 →
      (s.backdrop.slots.getD slot {}).run = none →
      s.backdrop.flex.any (·.isNone) = false →
      ∃ t, exec (.regionGo m slot) s = .next t
        ∧ (t.backdrop.slots.getD slot {}).run = (if s.runPairs { req := s.regionFields slot, start := (s.panel (s.regionFields slot).panel).levels } = 0 then none else some { req := s.regionFields slot, start := (s.panel (s.regionFields slot).panel).levels })
        ∧ t.backdrop.rails = (if s.backdrop.rails.state = 0 then { state := 1, step := 1, since := s.clk } else s.backdrop.rails)
        ∧ t.out.head? = some (ack m (obj (0x2B20 + slot) 7)))
  ∧ (∀ (m : Master) (slot : Fin 8) (x : RegionRun) (s : State),
      s.backdrop.shaped →
      s.writable m (obj (0x2B20 + slot) 7) (.num 1) = true →
      s.regionCause slot (s.regionFields slot) = 0 →
      (s.backdrop.slots.getD slot {}).run = some x →
      ∃ t, exec (.regionGo m slot) s = .next t
        ∧ (t.backdrop.slots.getD slot {}).run = some x
        ∧ (t.backdrop.slots.getD slot {}).next = some (s.regionFields slot)
        ∧ t.out = ack m (obj (0x2B20 + slot) 7) :: s.out)
  ∧ (∀ (m : Master) (slot : Fin 8) (c : Nat) (s : State),
      s.backdrop.shaped →
      s.writable m (obj (0x2B20 + slot) 7) (.num 1) = true →
      s.regionCause slot (s.regionFields slot) = c →
      c ≠ 0 →
      ∃ t, exec (.regionGo m slot) s = .next t
        ∧ t.backdrop.slots.getD slot {} = { s.backdrop.slots.getD slot {} with cause := c }
        ∧ t.backdrop.rails = s.backdrop.rails
        ∧ t.nat (obj 0x2B00 8) = s.counted (obj 0x2B00 8)
        ∧ t.out.head? = some (.reply m (0x2B20 + slot) 7 (if c = 1 then abortRange else abortState) []))
  ∧ (∀ (m : Master) (slot : Nat) (image : List Byte) (s : State),
      1 ≤ slot →
      slot ≤ 8 →
      s.writable m (obj 0x2B10 slot) (.bytes image) = true →
      s.imageInUse slot = false →
      ∃ t, exec (.imageSlotWrite m slot image) s = .next t
        ∧ (if sealedAbort image = 0 then t.byteVal (obj 0x2B10 slot) = image ∧ t.shown m (obj 0x2B11 slot) = .num (field image 4 4) ∧ t.out = ack m (obj 0x2B10 slot) :: s.out else t.val (obj 0x2B10 slot) = s.val (obj 0x2B10 slot) ∧ t.out.head? = some (.reply m 0x2B10 slot (sealedAbort image) [])))
  ∧ (∀ (m : Master) (panel : Fin 2) (map : List Byte) (s : State),
      s.update.halves.map (fun h => h.maps.length) = [2, 2] →
      s.writable m (obj 0x2B04 (panel + 1)) (.bytes map) = true →
      ∃ t, exec (.trimMapWrite m panel map) s = .next t
        ∧ (if sealedAbort map = 0 ∧ field map 2 1 = panel then t.byteVal (obj 0x2B04 (panel + 1)) = map ∧ t.out.head? = some (ack m (obj 0x2B04 (panel + 1))) else t.val (obj 0x2B04 (panel + 1)) = s.val (obj 0x2B04 (panel + 1))))
  ∧ (∀ (m : Master) (s : State),
      s.writable m (obj 0x2B01 8) (.num 1) = true →
      s.backdrop.run = none →
      s.backdrop.slots.all (fun x => x.run.isNone && x.next.isNone) = true →
      s.backdrop.rails.state ≠ 4 →
      s.backdrop.powerFail = false →
      s.power.moorAt = none →
      s.backdrop.flex.any (·.isNone) = false →
      ∃ t, exec (.panelGrey m) s = .next t
        ∧ (if (s.greyRects.map (fun q => s.runPairs { req := q, start := (s.panel q.panel).levels })).foldl max 0 = 0 then t.backdrop.run = none ∧ t.backdrop.greyReached = true ∧ t.backdrop.atGrey = true else t.backdrop.run.map (fun r => r.runs.map (fun x => x.req)) = some s.greyRects ∧ t.backdrop.rails.state ≠ 0)
        ∧ t.out.head? = some (ack m (obj 0x2B01 8)))
  ∧ (∀ (m : Master) (s : State),
      s.writable m (obj 0x2B01 8) (.num 2) = true →
      s.backdrop.run = none →
      s.backdrop.slots.all (fun x => x.run.isNone && x.next.isNone) = true →
      s.backdrop.rails.state ≠ 4 →
      s.backdrop.powerFail = false →
      s.power.moorAt = none →
      s.backdrop.flex.any (·.isNone) = false →
      ∃ t, exec (.panelHome m) s = .next t
        ∧ (if (s.homeRects.map (fun q => s.runPairs { req := q, start := (s.panel q.panel).levels })).foldl max 0 = 0 then t.backdrop.run = none else t.backdrop.run.map (fun r => r.runs.map (fun x => x.req)) = some s.homeRects ∧ t.backdrop.rails.state ≠ 0)
        ∧ t.out.head? = some (ack m (obj 0x2B01 8)))
  ∧ (∀ (m : Master) (s : State),
      s.writable m (obj 0x2B30 3) (.num 1) = true →
      ∃ t, exec (.eventCodeAck m) s = .next t
        ∧ t.backdrop = { s.backdrop with stripAcked := true }
        ∧ ack m (obj 0x2B30 3) ∈ t.out)
  ∧ (∀ (ch : Fin 4) (vf : Nat) (s : State),
      s.backdrop.shaped →
      (s.cam (s.nat (obj (0x2B40 + ch) 2))).state = .streaming →
      (s.cam (s.nat (obj (0x2B40 + ch) 2))).nextIndex ≠ 0 →
      (s.strobe ch).trig ≠ some (s.cam (s.nat (obj (0x2B40 + ch) 2))).lastTrigger →
      s.strobeHold ch = 0 →
      (s.strobe ch).invalid = false →
      6000 ≤ vf →
      s.time.counter ≤ (s.cam (s.nat (obj (0x2B40 + ch) 2))).lastTrigger + s.nat (obj (0x2B40 + ch) 3) →
      s.timeRuns = true →
      ∃ t, exec (.strobePulse ch vf false) s = .next t
        ∧ t.time.counter = (s.cam (s.nat (obj (0x2B40 + ch) 2))).lastTrigger + s.nat (obj (0x2B40 + ch) 3)
        ∧ (t.strobe ch).ieff = (s.strobeCurrent ch vf).1.floor.toNat
        ∧ (t.strobe ch).vf = vf
        ∧ (t.strobe ch).fault = 0
        ∧ t.nat (obj (0x2B40 + ch) 0x0A) = s.counted (obj (0x2B40 + ch) 0x0A)
        ∧ t.out = .strobe ch t.time.counter (s.nat (obj (0x2B40 + ch) 4)) (s.strobeCurrent ch vf).1.floor.toNat :: s.out)
  ∧ (∀ (m : Master) (ch : Fin 4) (s : State),
      s.backdrop.shaped →
      s.writable m (obj (0x2B40 + ch) 1) (.num 0) = true →
      ∃ t, exec (.strobeEnable m ch 0) s = .next t
        ∧ t.nat (obj (0x2B40 + ch) 1) = 0
        ∧ (t.strobe ch).cleared = ((s.strobe ch).fault != 0)
        ∧ (t.strobe ch).pulsed = false
        ∧ (t.strobe ch).fault = (s.strobe ch).fault
        ∧ t.out.head? = some (ack m (obj (0x2B40 + ch) 1)))
  ∧ (∀ (m : Master) (ch : Fin 4) (s : State),
      s.backdrop.shaped →
      s.writable m (obj (0x2B40 + ch) 1) (.num 1) = true →
      (s.strobe ch).cleared = true →
      ∃ t, exec (.strobeEnable m ch 1) s = .next t
        ∧ t.nat (obj (0x2B40 + ch) 1) = 1
        ∧ (t.strobe ch).fault = 0
        ∧ (t.strobe ch).openRun = 0
        ∧ (t.strobe ch).shortRun = 0
        ∧ (t.strobe ch).cleared = false
        ∧ t.out.head? = some (ack m (obj (0x2B40 + ch) 1)))

/-- MAINS_UP starts a module that waits for the mains, 100 ms after a power-fail sequence at the soonest; while the sequence runs, it and
MAINS_RETURN only count in 0x2C00:0C. MAINS_OUT_OF_RANGE switches the bleeder in and leaves a start whose rails are not up waiting for the mains.
INPUT_POWER_SAMPLE comes every 10 ms and shows the power and its 1 s mean. RAIL_OUT_OF_REGULATION puts the module in Fault with the drive
disabled. POWER_FAIL_WARNING is counted and starts the sequence; at its end the main side is off and starts 100 ms later, waits for the mains, or
the module is Moored by policy 1. V_SB_LOSS feeds the island from V5 (0x2C00:0A) where the main converter runs; where it does not, the island is
without supply. -/
def Obligations.PowerResults : Prop :=
  (∀ (s : State),
      s.power.mains = false →
      s.power.seqAt = none →
      s.module.state = .waking →
      s.power.state = 2 →
      s.power.relayOpen = false →
      ∃ t, exec .mainsUp s = .next t
        ∧ t.power = { s.power with mains := true, bleeder := none, state := 1, startAt := max s.clk (s.power.offAt + 100 * msTicks) }
        ∧ t.od = s.od)
  ∧ (∀ (w : Nat) (s : State),
      s.power.mains = false →
      s.power.seqAt = some w →
      ∃ t, exec .mainsUp s = .next t
        ∧ t.power = { s.power with mains := true, bleeder := if s.power.relayOpen then s.power.bleeder else none }
        ∧ t.nat (obj 0x2C00 0x0C) = s.counted (obj 0x2C00 0x0C))
  ∧ (∀ (w : Nat) (s : State),
      s.power.seqAt = some w →
      ∃ t, exec .mainsReturn s = .next t
        ∧ t.power = { s.power with mains := true, bleeder := if s.power.relayOpen then s.power.bleeder else none }
        ∧ t.nat (obj 0x2C00 0x0C) = s.counted (obj 0x2C00 0x0C))
  ∧ (∀ (s : State),
      s.power.mains = true →
      s.power.relayOpen = false →
      ∃ t, exec .mainsOutOfRange s = .next t
        ∧ (t.power = { s.power with mains := false, bleeder := some s.clk, state := if s.module.state = .waking ∧ s.power.state = 1 then 2 else s.power.state }))
  ∧ (∀ (watts : Nat) (readings : List Nat) (s : State),
      s.module.mainUp = true →
      s.clk ≤ s.power.sampledAt + 10 * msTicks →
      ∃ t, exec (.inputPowerSample watts readings) s = .next t
        ∧ t.clk = s.power.sampledAt + 10 * msTicks
        ∧ t.power.sampledAt = t.clk
        ∧ t.power.samples = (watts :: s.power.samples).take 100
        ∧ t.power.energy = s.power.energy + watts
        ∧ t.nat (obj 0x2C00 4) = min max16 watts
        ∧ t.nat (obj 0x2C00 5) = min max16 (roundN (meanPower ((watts :: s.power.samples).take 100))))
  ∧ (∀ (rail : Nat) (s : State),
      s.seqs.shaped →
      s.module.mainUp = true →
      s.power.seqAt = none →
      1 ≤ rail →
      rail ≤ 6 →
      s.module.state ≠ .fault →
      ∃ t, exec (.railOutOfRegulation rail) s = .next t
        ∧ t.module.state = .fault
        ∧ t.module.faultCause = 0x1004
        ∧ t.drive.enabled = false
        ∧ t.nat (obj 0x2C02 5) = rail
        ∧ (∀ v, v < s.valveCount → (t.seq v).running = false))
  ∧ (∀ (s : State),
      s.seqs.shaped →
      s.module.mainUp = true →
      s.power.seqAt = none →
      ∃ t, exec .powerFailWarning s = .next t
        ∧ t.power.state = 4
        ∧ t.power.seqAt = some s.clk
        ∧ t.module.state = (if s.module.state = .sorting ∨ s.module.state = .calibrating then .idle else s.module.state)
        ∧ t.drive.enabled = false
        ∧ t.power.vbstOn = false
        ∧ (∀ v, v < s.valveCount → (t.seq v).running = false)
        ∧ t.nat (obj 0x2C00 0x0B) = s.counted (obj 0x2C00 0x0B))
  ∧ (∀ (w : Nat) (s : State),
      s.power.seqAt = some w →
      s.power.shutAt = none →
      s.nat (obj 0x2C01 7) ≠ 1 →
      ∃ t, exec .mainSideOffElapsed s = .next t
        ∧ t.module.state = .waking
        ∧ t.module.mainUp = false
        ∧ t.power.seqAt = none
        ∧ t.power.state = (if s.power.mains then 1 else 2)
        ∧ w + 25 * msTicks ≤ t.clk
        ∧ t.power.startAt = (if s.power.mains then t.clk + 100 * msTicks else t.clk))
  ∧ (∀ (w : Nat) (s : State),
      s.power.seqAt = some w →
      s.power.shutAt = none →
      s.nat (obj 0x2C01 7) = 1 →
      s.power.vsb = true →
      ∃ t, exec .mainSideOffElapsed s = .next t
        ∧ t.module.state = .moored
        ∧ t.module.mainUp = false
        ∧ t.power.seqAt = none
        ∧ t.power.state = 0
        ∧ t.power.relayOpen = true
        ∧ t.power.relayAt = t.clk)
  ∧ (∀ (s : State),
      s.power.vsb = true →
      ({ s with power := { s.power with vsb := false } } : State).islandFed = true →
      ∃ t, exec .vSbLoss s = .next t
        ∧ t.power = { s.power with vsb := false }
        ∧ t.nat (obj 0x2C00 9) = 0
        ∧ t.nat (obj 0x2C00 0x0A) = 1)
  ∧ (∀ (s : State),
      s.power.vsb = true →
      ({ s with power := { s.power with vsb := false } } : State).islandFed = false →
      ∃ t, exec .vSbLoss s = .next t
        ∧ t.power = { s.power with vsb := false }
        ∧ t.nat (obj 0x2C00 9) = 0
        ∧ t.nat (obj 0x2C00 0x0A) = s.nat (obj 0x2C00 0x0A)
        ∧ t.recorder = s.recorder)

/-- MOORED_REQUEST of an Idle module with V_SB at 18 V or more and WAKE_IN at rest is accepted: the drive is disabled, the queues are emptied and the
updates run out; from another state it is refused and counted in 0x2C00:0F. MOORED_UPDATES_DONE begins the strip pair of MOOR with the rails
requested, and with MOOR on the strip it opens the relay with the main side off; MOORED_ENTRY_TIMEOUT abandons the request at 0x2C01:08.
WAKE_TIMER at its time, the active edge of WAKE_IN and the side-band write, each where enabled, wake a Moored module: counted in 0x2C00:0E, the
source in 0x2C01:06. -/
def Obligations.MooredResults : Prop :=
  (∀ (m : Master) (s : State),
      s.writable m (obj 0x2C01 1) (.num 0) = true →
      s.power.moorAt = none →
      s.module.state = .idle →
      s.power.vsb = true →
      18000 ≤ s.nat (obj 0x2C00 9) →
      s.wakeAsserted = false →
      ∃ t, exec (.mooredRequest m) s = .next t
        ∧ t.power = { s.power with moorAt := some s.clk }
        ∧ t.drive.enabled = false
        ∧ t.nat (obj 0x2C01 1) = 0
        ∧ (∀ v, (t.valve v).queue = [])
        ∧ t.out.head? = some (ack m (obj 0x2C01 1)))
  ∧ (∀ (m : Master) (s : State),
      s.writable m (obj 0x2C01 1) (.num 0) = true →
      s.power.moorAt = none →
      s.module.state ≠ .idle →
      ∃ t, exec (.mooredRequest m) s = .next t
        ∧ t.power = s.power
        ∧ t.module = s.module
        ∧ t.nat (obj 0x2C00 0x0F) = s.counted (obj 0x2C00 0x0F)
        ∧ t.out.head? = some (.reply m 0x2C01 1 abortState []))
  ∧ (∀ (u : Nat) (s : State),
      s.power.moorAt = some u →
      s.updatesRun = false →
      s.backdrop.stripRun = none →
      s.backdrop.strip = s.stripText .moored →
      s.power.vsb = true →
      s.module.state ≠ .moored →
      ∃ t, exec .mooredUpdatesDone s = .next t
        ∧ t.module.state = .moored
        ∧ t.module.mainUp = false
        ∧ t.power.state = 0
        ∧ t.power.relayOpen = true
        ∧ t.power.relayAt = t.clk
        ∧ t.power.moorAt = none)
  ∧ (∀ (u : Nat) (s : State),
      s.power.moorAt = some u →
      s.updatesRun = false →
      s.backdrop.stripRun = none →
      s.backdrop.strip ≠ s.stripText .moored →
      s.backdrop.rails.state ≠ 4 →
      s.backdrop.flex.any (·.isNone) = false →
      ∃ t, exec .mooredUpdatesDone s = .next t
        ∧ t.backdrop.stripRun = some none
        ∧ t.backdrop.stripNext = s.stripText .moored
        ∧ t.backdrop.rails.state = (if s.backdrop.rails.state = 0 then 1 else s.backdrop.rails.state)
        ∧ t.power = s.power
        ∧ t.module = s.module)
  ∧ (∀ (u : Nat) (s : State),
      s.power.moorAt = some u →
      s.updatesRun = true →
      s.clk ≤ u + s.nat (obj 0x2C01 8) * msTicks →
      ∃ t, exec .mooredEntryTimeout s = .next t
        ∧ t.clk = u + s.nat (obj 0x2C01 8) * msTicks
        ∧ t.power = { s.power with moorAt := none }
        ∧ t.module = s.module
        ∧ t.nat (obj 0x2C01 1) = 1
        ∧ t.nat (obj 0x2C00 0x0F) = s.counted (obj 0x2C00 0x0F))
  ∧ (∀ (s : State),
      s.module.state = .moored →
      s.nat (obj 0x2C01 5) ≠ 0 →
      bitOf (s.nat (obj 0x2C01 2)) 2 = true →
      s.power.vsb = true →
      s.power.moorAt = none →
      s.clk ≤ s.power.relayAt + s.nat (obj 0x2C01 5) * secTicks →
      ∃ t, exec .wakeTimer s = .next t
        ∧ t.clk = s.power.relayAt + s.nat (obj 0x2C01 5) * secTicks
        ∧ t.module.state = .waking
        ∧ t.power.kind = 1
        ∧ t.power.relayOpen = false
        ∧ t.power.startAt = t.clk
        ∧ t.power.state = (if s.power.mains then 1 else 2)
        ∧ t.nat (obj 0x2C01 6) = 3
        ∧ t.nat (obj 0x2C00 0x0E) = s.counted (obj 0x2C00 0x0E))
  ∧ (∀ (high : Bool) (s : State),
      s.power.wakeHigh ≠ high →
      high = (s.nat (obj 0x2C01 3) == 0) →
      s.module.state = .moored →
      bitOf (s.nat (obj 0x2C01 2)) 1 = true →
      s.power.vsb = true →
      s.power.moorAt = none →
      ∃ t, exec (.wakeIn high) s = .next t
        ∧ t.clk = s.clk
        ∧ t.power.wakeHigh = high
        ∧ t.module.state = .waking
        ∧ t.power.kind = 1
        ∧ t.power.relayOpen = false
        ∧ t.power.startAt = t.clk
        ∧ t.power.state = (if s.power.mains then 1 else 2)
        ∧ t.nat (obj 0x2C01 6) = 2
        ∧ t.nat (obj 0x2C00 0x0E) = s.counted (obj 0x2C00 0x0E))
  ∧ (∀ (high : Bool) (s : State),
      s.power.wakeHigh ≠ high →
      high ≠ (s.nat (obj 0x2C01 3) == 0) →
      ∃ t, exec (.wakeIn high) s = .next t
        ∧ t.power = { s.power with wakeHigh := high }
        ∧ t.module = s.module
        ∧ t.od = s.od)
  ∧ (∀ (s : State),
      s.writable .mgmt (obj 0x2C01 1) (.num 1) = true →
      s.power.shutAt = none →
      s.module.state = .moored →
      bitOf (s.nat (obj 0x2C01 2)) 0 = true →
      s.power.vsb = true →
      s.power.moorAt = none →
      ∃ t, exec .wakeCanopen s = .next t
        ∧ t.module.state = .waking
        ∧ t.power.kind = 1
        ∧ t.power.relayOpen = false
        ∧ t.power.startAt = t.clk
        ∧ t.power.state = (if s.power.mains then 1 else 2)
        ∧ t.nat (obj 0x2C01 6) = 1
        ∧ t.nat (obj 0x2C00 0x0E) = s.counted (obj 0x2C00 0x0E))
  ∧ (∀ (u : Nat) (s : State),
      s.writable .mgmt (obj 0x2C01 1) (.num 1) = true →
      s.power.shutAt = some u →
      s.module.mainUp = false →
      s.clk ≤ u + 60 * secTicks →
      s.module.state = .fault →
      ∃ t, exec .wakeCanopen s = .next t
        ∧ t.clk = u + 60 * secTicks
        ∧ t.module.state = .waking
        ∧ t.power.shutAt = none
        ∧ t.power.kind = 0
        ∧ t.power.state = (if s.power.mains then 1 else 2))

/-- DIE_SAMPLE comes every millisecond: a first broken reading makes the diode broken at 110 °C (0x2C12:04), valid ones form the mean of up to 64,
and a mean of 125 °C or more shuts down into Fault with cause 0x2003. DIODE_BROKEN_LIMIT is a Fault with cause 0x2007. A fan without a pulse for
1 s is stalled, a pulse ends it and gives its speed. AIR_OK, GUARD_OK and the straps follow their levels, an overloaded output switches off and
is tried again after 1 s. V_SB_RETURN feeds the island again; its watchdog resets the island alone. -/
def Obligations.ThermalPinResults : Prop :=
  (∀ (s : State),
      s.module.mainUp = true →
      s.power.seqAt = none →
      s.thermal.broken = false →
      s.clk ≤ s.thermal.sampledAt + msTicks →
      ∃ t, exec (.dieSample none) s = .next t
        ∧ t.clk = s.thermal.sampledAt + msTicks
        ∧ t.thermal.sampledAt = t.clk
        ∧ t.thermal.broken = true
        ∧ t.thermal.die = 110
        ∧ t.thermal.readings = s.thermal.readings
        ∧ t.nat (obj 0x2C12 4) = s.counted (obj 0x2C12 4))
  ∧ (∀ (r : Int) (s : State),
      s.module.mainUp = true →
      s.power.seqAt = none →
      s.thermal.bad (some r) = false →
      s.clk ≤ s.thermal.sampledAt + msTicks →
      (sumI ((r :: s.thermal.readings).take 64) : ℚ) < 125 * (16 * ((r :: s.thermal.readings).take 64).length) →
      ∃ t, exec (.dieSample (some r)) s = .next t
        ∧ t.clk = s.thermal.sampledAt + msTicks
        ∧ t.thermal.prev = some r
        ∧ t.thermal.readings = (r :: s.thermal.readings).take 64
        ∧ t.thermal.mean = (sumI ((r :: s.thermal.readings).take 64) : ℚ) / (16 * ((r :: s.thermal.readings).take 64).length))
  ∧ (∀ (r : Int) (s : State),
      s.module.mainUp = true →
      s.power.seqAt = none →
      s.module.state ≠ .fault →
      s.thermal.bad (some r) = false →
      s.clk ≤ s.thermal.sampledAt + msTicks →
      125 * (16 * ((r :: s.thermal.readings).take 64).length) ≤ (sumI ((r :: s.thermal.readings).take 64) : ℚ) →
      ∃ t, exec (.dieSample (some r)) s = .next t
        ∧ t.module.state = .fault
        ∧ t.module.faultCause = 0x2003
        ∧ t.power.seqAt = some t.clk
        ∧ t.power.shutAt = some t.clk
        ∧ t.clk = s.thermal.sampledAt + msTicks
        ∧ t.nat (obj 0x2C12 3) = s.counted (obj 0x2C12 3))
  ∧ (∀ (s : State),
      s.module.mainUp = true →
      s.thermal.broken = true →
      s.power.seqAt = none →
      s.thermal.limitHit = false →
      s.module.state ≠ .fault →
      ∃ t, exec .diodeBrokenLimit s = .next t
        ∧ t.module.state = .fault
        ∧ t.module.faultCause = 0x2007
        ∧ t.drive.enabled = false
        ∧ t.thermal.brokenMs = 60000)
  ∧ (∀ (fan : Fin 4) (s : State),
      s.thermal.shaped →
      s.module.mainUp = true →
      s.thermal.stalled.getD fan false = false →
      20 ≤ s.fanDuty fan →
      s.clk ≤ s.power.tachAt.getD fan 0 + secTicks →
      ∃ t, exec (.fanStall fan) s = .next t
        ∧ t.clk = s.power.tachAt.getD fan 0 + secTicks
        ∧ t.thermal.stalled = s.thermal.stalled.set fan true
        ∧ t.nat (obj 0x2C22 (fan + 1)) = s.counted (obj 0x2C22 (fan + 1)))
  ∧ (∀ (fan : Fin 4) (period : Nat) (s : State),
      s.loops.shaped →
      s.thermal.shaped →
      s.module.mainUp = true →
      period ≠ 0 →
      s.clk ≤ s.power.tachAt.getD fan 0 + period →
      ∃ t, exec (.tachometerPulse fan period) s = .next t
        ∧ t.clk = s.power.tachAt.getD fan 0 + period
        ∧ t.thermal.stalled = s.thermal.stalled.set fan false
        ∧ (t.loops.inputs.getD (5 + fan) {}).value = (60 * secTicks : ℚ) / (period * max 1 (s.nat (obj 0x2A01 0x0B)))
        ∧ (t.loops.inputs.getD (5 + fan) {}).fault = false
        ∧ t.od = s.od)
  ∧ (∀ (level : Bool) (s : State),
      s.islandFed = true →
      s.pins.airOk ≠ level →
      ∃ t, exec (.airOkEdge level) s = .next t
        ∧ t.pins = { s.pins with airOk := level }
        ∧ t.module = s.module
        ∧ t.drive = s.drive)
  ∧ (∀ (level : Bool) (s : State),
      s.islandFed = true →
      s.pins.guardOk ≠ level →
      ∃ t, exec (.guardOkEdge level) s = .next t
        ∧ t.pins = { s.pins with guardOk := level }
        ∧ t.module = s.module
        ∧ t.drive = s.drive)
  ∧ (∀ (out : Fin 5) (s : State),
      s.pins.shaped →
      s.outputOn out = true →
      ∃ t, exec (.doutOverload out) s = .next t
        ∧ t.pins.faults.getD out none = some s.clk
        ∧ t.outputOn out = false)
  ∧ (∀ (out : Fin 5) (u : Nat) (s : State),
      s.pins.shaped →
      s.module.mainUp = true →
      s.power.seqAt = none →
      s.pins.faults.getD out none = some u →
      s.clk ≤ u + secTicks →
      ∃ t, exec (.doutRetry out) s = .next t
        ∧ t.clk = u + secTicks
        ∧ t.pins.faults = s.pins.faults.set out none
        ∧ t.out = .pin 2 [out, boolNat (t.outputOn out)] :: s.out)
  ∧ (∀ (row : Nat) (westEnd : Bool) (s : State),
      s.islandFed = true →
      s.strand.rowId ≠ row % 8 ∨ s.strand.westEnd ≠ westEnd →
      ∃ t, exec (.strapRead row westEnd) s = .next t
        ∧ t.strand.rowId = row % 8
        ∧ t.strand.westEnd = westEnd)
  ∧ (∀ (mV : Nat) (s : State),
      s.power.vsb = false →
      s.islandFed = true →
      ∃ t, exec (.vSbReturn mV) s = .next t
        ∧ t.power = { s.power with vsb := true }
        ∧ t.nat (obj 0x2C00 9) = min max16 mV
        ∧ t.nat (obj 0x2C00 0x0A) = 0
        ∧ t.side = s.side)
  ∧ (∀ (s : State),
      s.islandFed = true →
      ∃ t, exec .islandWatchdogExpiry s = .next t
        ∧ t.module = { s.module with resetKind := 4 }
        ∧ t.power = s.power
        ∧ t.drive = s.drive
        ∧ t.time = s.time)

/-- STATE_IDLE in Idle changes nothing, in Calibrating ends the run in Idle, and in Sorting closes the tracker until the records retire.
STATE_CALIBRATE in Idle with the ports in use streaming and nothing in its way begins a run (0x2005:03) or waits for hold bit [1]. STATE_SORT in
Idle with readiness 255 enables the drive and starts VBST. A command from a state that does not allow it shows its cause and is counted in
0x2005:06. SORTING_REACHED opens the tracker in Sorting; SORT_STOP_DONE empties the queues and leaves Idle, 30 ms after the command at the
latest; RESUME_SORTING accepts command 3 once readiness is complete. -/
def Obligations.StateCommandResults : Prop :=
  (∀ (m : Master) (s : State),
      s.writable m (obj 0x2001 2) (.num 1) = true →
      s.module.state = .idle →
      ∃ t, exec (.stateIdle m) s = .next t
        ∧ t.module = s.module
        ∧ t.tracker = s.tracker
        ∧ t.drive = s.drive
        ∧ t.nat (obj 0x2001 2) = 1
        ∧ t.out = ack m (obj 0x2001 2) :: s.out)
  ∧ (∀ (m : Master) (s : State),
      s.writable m (obj 0x2001 2) (.num 1) = true →
      s.module.state = .calibrating →
      ∃ t, exec (.stateIdle m) s = .next t
        ∧ t.module.state = .idle
        ∧ t.module.cal = none
        ∧ t.pipe.capture = none
        ∧ t.out.head? = some (ack m (obj 0x2001 2)))
  ∧ (∀ (m : Master) (s : State),
      s.writable m (obj 0x2001 2) (.num 1) = true →
      s.module.state = .sorting →
      s.module.stopAt = none →
      ∃ t, exec (.stateIdle m) s = .next t
        ∧ t.module = { s.module with stopAt := some s.clk }
        ∧ t.tracker = { s.tracker with isOpen := false }
        ∧ t.drive = s.drive
        ∧ t.out = ack m (obj 0x2001 2) :: s.out)
  ∧ (∀ (m : Master) (s : State),
      s.writable m (obj 0x2001 2) (.num 1) = true →
      s.module.state ≠ .idle →
      s.module.state ≠ .calibrating →
      s.module.state ≠ .sorting →
      ∃ t, exec (.stateIdle m) s = .next t
        ∧ t.module = { s.module with refusal := 1 }
        ∧ t.nat (obj 0x2005 6) = s.counted (obj 0x2005 6)
        ∧ t.out.head? = some (.reply m 0x2001 2 abortState []))
  ∧ (∀ (m : Master) (s : State),
      s.writable m (obj 0x2001 2) (.num 2) = true →
      s.module.state = .idle →
      s.thermal.derated = false →
      s.portsStream = true →
      s.pipe.capture = none →
      s.regionsBusy = false →
      s.recoveryHold = true →
      ∃ t, exec (.stateCalibrate m) s = .next t
        ∧ t.module = { s.module with calWaiting := true }
        ∧ t.nat (obj 0x2001 2) = 2
        ∧ t.out = ack m (obj 0x2001 2) :: s.out)
  ∧ (∀ (m : Master) (s : State),
      s.writable m (obj 0x2001 2) (.num 2) = true →
      s.module.state = .idle →
      s.thermal.derated = false →
      s.portsStream = true →
      s.pipe.capture = none →
      s.regionsBusy = false →
      s.recoveryHold = false →
      s.module.sortAt = none →
      s.power.moorAt = none →
      ∃ t, exec (.stateCalibrate m) s = .next t
        ∧ t.nat (obj 0x2001 2) = 2
        ∧ t.nat (obj 0x2005 3) = s.counted (obj 0x2005 3)
        ∧ (t.module.state = .calibrating ∨ t.module.state = .idle)
        ∧ t.out.head? = some (ack m (obj 0x2001 2)))
  ∧ (∀ (m : Master) (s : State),
      s.writable m (obj 0x2001 2) (.num 2) = true →
      s.module.state = .idle →
      s.thermal.derated = true →
      ∃ t, exec (.stateCalibrate m) s = .next t
        ∧ t.module = { s.module with refusal := 2 }
        ∧ t.nat (obj 0x2005 6) = s.counted (obj 0x2005 6)
        ∧ t.out.head? = some (.reply m 0x2001 2 abortState []))
  ∧ (∀ (m : Master) (s : State),
      s.writable m (obj 0x2001 2) (.num 3) = true →
      s.module.state = .idle →
      s.readiness = 255 →
      ∃ t, exec (.stateSort m) s = .next t
        ∧ t.drive.enabled = true
        ∧ t.power.vbstOn = true
        ∧ t.module = { s.module with sortAt := s.module.sortAt.or (some s.clk) }
        ∧ t.nat (obj 0x2001 2) = 3
        ∧ t.out = ack m (obj 0x2001 2) :: s.out)
  ∧ (∀ (m : Master) (s : State),
      s.writable m (obj 0x2001 2) (.num 3) = true →
      s.module.state = .idle →
      s.readiness ≠ 255 →
      ∃ t, exec (.stateSort m) s = .next t
        ∧ t.module = { s.module with refusal := 3 }
        ∧ t.drive = s.drive
        ∧ t.nat (obj 0x2005 6) = s.counted (obj 0x2005 6)
        ∧ t.out.head? = some (.reply m 0x2001 2 abortState []))
  ∧ (∀ (u : Nat) (s : State),
      s.module.sortAt = some u →
      s.module.state = .idle →
      s.power.moorAt = none →
      ∃ t, exec .sortingReached s = .next t
        ∧ t.module.state = .sorting
        ∧ t.module.prev = .idle
        ∧ t.module.sortAt = none
        ∧ t.module.changedAt = s.clk
        ∧ t.tracker.isOpen = true
        ∧ t.drive.vbst = s.vbstSet)
  ∧ (∀ (u : Nat) (s : State),
      s.module.stopAt = some u →
      s.module.state = .sorting →
      ∃ t, exec .sortStopDone s = .next t
        ∧ t.clk = (if s.tracker.recs = [] then s.clk else max s.clk (u + 30 * msTicks))
        ∧ t.module.state = .idle
        ∧ t.module.stopAt = none
        ∧ t.drive.enabled = false
        ∧ (∀ v, (t.valve v).queue = [] ∧ (t.valve v).run = (s.valve v).run))
  ∧ (∀ (s : State),
      s.module.resume = true →
      s.module.state = .idle →
      s.readiness = 255 →
      s.power.moorAt = none →
      ∃ t, exec .resumeSorting s = .next t
        ∧ t.drive.enabled = true
        ∧ t.power.vbstOn = true
        ∧ t.module = { s.module with resume := false, sortAt := s.module.sortAt.or (some s.clk) }
        ∧ t.nat (obj 0x2001 2) = 3)

/-- MAIN_SIDE_START of a Waking module whose rails are on comes 1,500 ms after the start of the table (a main-side restart begins at 320 ms) and,
with a usable image and a passed self-test, reaches Idle with the main side up; a failed self-test item or no usable image puts the module in
Recovery instead. WATCHDOG_EXPIRY is counted in 0x2005:02 and restarts the main side; the third within 600 s is a Fault with cause 0x1012.
RESTART_COMMAND restarts the main side, its counter of operating seconds kept and every running shot ended; in a restart's Waking it begins anew,
in Moored it is refused and counted. The latest instants of the table are the model's choice (log entry 25 and NOTES). -/
def Obligations.StartRestartResults : Prop :=
  (∀ (r : StartReadings) (s : State),
      s.module.state = .waking →
      s.module.mainUp = false →
      s.power.seqAt = none →
      s.power.state = 1 ∨ s.power.state = 3 ∧ s.power.kind = 2 →
      (s.bootChoice r.bootOk) = .bank →
      r.selfTest = none →
      ∃ t, exec (.mainSideStart r) s = .next t
        ∧ t.module.state = .idle
        ∧ t.module.mainUp = true
        ∧ t.module.loader = false
        ∧ t.module.resetKind = s.power.kind
        ∧ t.power.state = 3
        ∧ t.clk = max s.clk (s.startStep 1500)
        ∧ t.dict.locks = [none, none, none, none]
        ∧ (∀ p, p < 4 → (t.link p).state = .down)
        ∧ t.dma = {})
  ∧ (∀ (r : StartReadings) (f : Nat × Nat) (s : State),
      s.module.state = .waking →
      s.module.mainUp = false →
      s.power.seqAt = none →
      s.power.state = 1 ∨ s.power.state = 3 ∧ s.power.kind = 2 →
      (s.bootChoice r.bootOk) ≠ .none →
      r.selfTest = some f →
      ∃ t, exec (.mainSideStart r) s = .next t
        ∧ t.module.state = .recovery
        ∧ t.module.mainUp = false
        ∧ t.module.loader = true
        ∧ t.power.state = 3
        ∧ t.update.recoveryCause = 2)
  ∧ (∀ (r : StartReadings) (s : State),
      s.module.state = .waking →
      s.module.mainUp = false →
      s.power.seqAt = none →
      s.power.state = 1 ∨ s.power.state = 3 ∧ s.power.kind = 2 →
      (s.bootChoice r.bootOk) = .none →
      ∃ t, exec (.mainSideStart r) s = .next t
        ∧ t.module.state = .recovery
        ∧ t.module.mainUp = false
        ∧ t.module.loader = true
        ∧ t.power.state = 3
        ∧ t.update.recoveryCause = 1
        ∧ t.clk = max s.clk (s.startStep 330))
  ∧ (∀ (s : State),
      s.seqs.shaped →
      s.module.mainUp = true →
      s.update.watch = none →
      s.module.watchdogs = [] →
      s.module.state ≠ .waking →
      ∃ t, exec .watchdogExpiry s = .next t
        ∧ t.module.state = .waking
        ∧ t.module.mainUp = false
        ∧ t.module.watchdogs = [s.clk]
        ∧ t.power.kind = 2
        ∧ t.nat (obj 0x2005 2) = s.counted (obj 0x2005 2))
  ∧ (∀ (a b : Nat) (s : State),
      s.module.mainUp = true →
      s.update.watch = none →
      s.module.watchdogs = [a, b] →
      s.clk < a + 600 * secTicks →
      s.clk < b + 600 * secTicks →
      s.module.state ≠ .fault →
      ∃ t, exec .watchdogExpiry s = .next t
        ∧ t.module.state = .fault
        ∧ t.module.faultCause = 0x1012
        ∧ t.module.watchdogs = []
        ∧ t.module.mainUp = true
        ∧ t.drive.enabled = false
        ∧ t.nat (obj 0x2005 2) = s.counted (obj 0x2005 2))
  ∧ (∀ (u : Nat) (s : State),
      s.module.mainUp = true →
      s.update.watch = some u →
      ∃ t, exec .watchdogExpiry s = .next t
        ∧ t.module.state = .recovery
        ∧ t.module.loader = true
        ∧ t.update.recoveryCause = 3
        ∧ t.update.watch = none)
  ∧ (∀ (m : Master) (s : State),
      s.writable m (obj 0x2005 1) (.num 1) = true →
      s.module.mainUp = true →
      s.power.seqAt = none →
      s.power.shutAt = none →
      s.module.state ≠ .waking →
      s.module.state ≠ .moored →
      ∃ t, exec (.restartCommand m) s = .next t
        ∧ t.module.state = .waking
        ∧ t.module.mainUp = false
        ∧ t.module.trigger = trigRestart
        ∧ t.module.interrupted = decide (s.module.state = .sorting)
        ∧ t.power.kind = 2
        ∧ t.power.state = s.power.state
        ∧ (∀ v, (t.valve v).queue = [] ∧ (t.valve v).run = none)
        ∧ t.nat (obj 0x2001 0x0A) = s.opSecs)
  ∧ (∀ (m : Master) (s : State),
      s.writable m (obj 0x2005 1) (.num 1) = true →
      s.module.state = .waking →
      s.module.mainUp = false →
      s.module.loader = false →
      s.power.state = 3 →
      s.power.seqAt = none →
      s.power.shutAt = none →
      ∃ t, exec (.restartCommand m) s = .next t
        ∧ t.power = { s.power with kind := 2, startAt := s.clk }
        ∧ t.module = s.module
        ∧ t.out = ack m (obj 0x2005 1) :: s.out)
  ∧ (∀ (m : Master) (s : State),
      s.writable m (obj 0x2005 1) (.num 1) = true →
      s.module.state = .moored →
      ∃ t, exec (.restartCommand m) s = .next t
        ∧ t.module = { s.module with refusal := 1 }
        ∧ t.power = s.power
        ∧ t.nat (obj 0x2005 6) = s.counted (obj 0x2005 6)
        ∧ t.out.head? = some (.reply m 0x2005 1 abortState []))

/-- SIGNAL_DETECT trains a DOWN port and RETRAIN_TIMER does so every 10 ms. HELLO on a training port from the paired port leaves it UP, from a host
(no other host link) HOST, from any other port CROSSED; on an open port it renews the neighbour's data where it shows the far port that the port
is open with, and a port that is UP turns CROSSED by the HELLO of another one. HEARTBEAT_SEND comes every 10 µs with the next sequence;
HEARTBEAT_RECEIVED notes the neighbour's state, time, load and the instant. 16 sync-header errors, an unknown control block type and 100 µs
without a HEARTBEAT leave the link DOWN, counted in 0x221p:07, the loss in :06. -/
def Obligations.LinkStateResults : Prop :=
  (∀ (l : Link) (s : State),
      s.strand.shaped →
      s.module.mainUp = true →
      (s.link l).state = .down →
      ∃ t, exec (.signalDetect l) s = .next t
        ∧ t.link l = { s.link l with signal := true, state := .training, trainedAt := s.clk }
        ∧ t.od = s.od)
  ∧ (∀ (l : Link) (s : State),
      s.strand.shaped →
      s.module.mainUp = true →
      (s.link l).state = .down →
      s.clk ≤ (s.link l).trainedAt + 10 * msTicks →
      ∃ t, exec (.retrainTimer l) s = .next t
        ∧ t.clk = (s.link l).trainedAt + 10 * msTicks
        ∧ t.link l = { s.link l with state := .training, trainedAt := t.clk }
        ∧ t.od = s.od)
  ∧ (∀ (l : Link) (h : Hello) (s : State),
      s.strand.shaped →
      s.module.mainUp = true →
      (s.link l).state = .training →
      h.host = false →
      h.port = pairOf l →
      ∃ t, exec (.hello l h) s = .next t
        ∧ (t.link l).state = .up
        ∧ (t.link l).hello = some h
        ∧ (t.link l).lastBeat = s.clk)
  ∧ (∀ (l : Link) (h : Hello) (s : State),
      s.strand.shaped →
      s.module.mainUp = true →
      (s.link l).state = .training →
      h.host = true →
      (∀ k, k ≠ l.val → (s.link k).state ≠ .host) →
      ∃ t, exec (.hello l h) s = .next t
        ∧ (t.link l).state = .host
        ∧ (t.link l).hello = some h
        ∧ (t.link l).lastBeat = s.clk)
  ∧ (∀ (l : Link) (h : Hello) (s : State),
      s.strand.shaped →
      s.module.mainUp = true →
      (s.link l).state = .training →
      h.host = false →
      h.port ≠ pairOf l →
      ∃ t, exec (.hello l h) s = .next t
        ∧ (t.link l).state = .crossed
        ∧ (t.link l).hello = some h
        ∧ t.linkOpen l = false)
  ∧ (∀ (l : Link) (h : Hello) (s : State),
      s.strand.shaped →
      s.module.mainUp = true →
      (s.link l).state = .up →
      h.host = false →
      h.port = pairOf l →
      ∃ t, exec (.hello l h) s = .next t
        ∧ (t.link l).state = .up
        ∧ (t.link l).hello = some h
        ∧ (t.link l).lastBeat = (s.link l).lastBeat)
  ∧ (∀ (l : Link) (h : Hello) (s : State),
      s.strand.shaped →
      s.module.mainUp = true →
      (s.link l).state = .up →
      h.host = false →
      h.port ≠ pairOf l →
      ∃ t, exec (.hello l h) s = .next t
        ∧ (t.link l).state = .crossed
        ∧ (t.link l).hello = some h
        ∧ t.linkOpen l = false)
  ∧ (∀ (l : Link) (s : State),
      s.strand.shaped →
      s.module.mainUp = true →
      (s.link l).state ≠ .down →
      ∃ t, exec (.syncHeaderErrors l) s = .next t
        ∧ (t.link l).state = .down
        ∧ (t.link l).hello = none
        ∧ t.nat (obj (0x2210 + l) 7) = s.counted (obj (0x2210 + l) 7))
  ∧ (∀ (l : Link) (type : Nat) (s : State),
      s.strand.shaped →
      s.module.mainUp = true →
      type ≠ 0x1E →
      type ≠ 0x78 →
      type ≠ 0xB4 →
      type ≠ 0x66 →
      type ≠ 0x33 →
      type ≠ 0x2D →
      (s.link l).state ≠ .down →
      ∃ t, exec (.unknownControlBlock l type) s = .next t
        ∧ (t.link l).state = .down
        ∧ (t.link l).hello = none
        ∧ t.nat (obj (0x2210 + l) 7) = s.counted (obj (0x2210 + l) 7))
  ∧ (∀ (s : State),
      s.module.mainUp = true →
      s.clk ≤ s.strand.beatAt + 10 * usTicks →
      ∃ t, exec .heartbeatSend s = .next t
        ∧ t.clk = s.strand.beatAt + 10 * usTicks
        ∧ t.strand.beatAt = t.clk
        ∧ t.strand.beatSeq = (s.strand.beatSeq + 1) % 65536)
  ∧ (∀ (l : Link) (id state time load seq : Nat) (s : State),
      s.strand.shaped →
      s.module.mainUp = true →
      s.linkOpen l = true →
      seq < 65536 →
      ∃ t, exec (.heartbeatReceived l id state time load seq) s = .next t
        ∧ (t.link l).lastBeat = s.clk
        ∧ (t.link l).nbState = state
        ∧ (t.link l).nbTime = time
        ∧ (t.link l).nbLoad = load
        ∧ (t.link l).state = (s.link l).state)
  ∧ (∀ (l : Link) (s : State),
      s.strand.shaped →
      s.module.mainUp = true →
      s.linkOpen l = true →
      s.clk ≤ (s.link l).lastBeat + 100 * usTicks →
      ∃ t, exec (.heartbeatLoss l) s = .next t
        ∧ t.clk = (s.link l).lastBeat + 100 * usTicks
        ∧ (t.link l).state = .down
        ∧ t.nat (obj (0x2210 + l) 6) = s.counted (obj (0x2210 + l) 6)
        ∧ t.nat (obj (0x2210 + l) 7) = s.counted (obj (0x2210 + l) 7))

/-- A right frame of VC 2 to 6 with the next link sequence is acknowledged and counted in 0x221p:02; for another module it waits in transit. A wrong
one draws one NAK and is counted in :03; of VC 0, 1 and 7 it is discarded and counted in :03 and :05. The copy begun of a wrong frame for another
module ends with the inverted CRC and is not counted as forwarded (the model's choice, log 154); a received copy so ended takes its sequence and
is discarded. ACK_BLOCK releases what it acknowledges, a NAK replays the rest, counted in :04, and the fourth in a row takes the link down.
CREDIT_BLOCK returns credits up to the buffer. FRAME_FORWARD sends the oldest transit frame that may leave one hop on (0x2206:01), or drops it at
the hop limit (:05) or without a route (:04). -/
def Obligations.FrameResults : Prop :=
  (∀ (l : Link) (f : Frame) (s : State),
      s.strand.shaped →
      s.module.mainUp = true →
      s.linkOpen l = true →
      2 ≤ f.hdr.vc →
      f.hdr.vc ≤ 6 →
      f.hdr.dest ≠ s.strand.id →
      (s.link l).rxSeq < 256 →
      s.hasRoom l f = true →
      ∃ t, exec (.frameReceived l f (s.link l).rxSeq (frameCrc f)) s = .next t
        ∧ t.link l = { s.link l with rxSeq := ((s.link l).rxSeq + 1) % 256, nakSent := false }
        ∧ t.strand.transit = s.strand.transit ++ [(l.val, f)]
        ∧ t.nat (obj (0x2210 + l) 2) = s.counted (obj (0x2210 + l) 2)
        ∧ t.out = .block l 0x33 [(s.link l).rxSeq % 256, 0] :: s.out)
  ∧ (∀ (l : Link) (f : Frame) (s : State),
      s.strand.shaped →
      s.module.mainUp = true →
      s.linkOpen l = true →
      2 ≤ f.hdr.vc →
      f.hdr.vc ≤ 6 →
      f.hdr.dest = s.strand.id →
      (s.link l).rxSeq < 256 →
      s.hasRoom l f = true →
      ∃ t, exec (.frameReceived l f (s.link l).rxSeq (frameCrc f)) s = .next t
        ∧ (t.link l).rxSeq = ((s.link l).rxSeq + 1) % 256
        ∧ t.strand.transit = s.strand.transit
        ∧ t.nat (obj (0x2210 + l) 2) = s.counted (obj (0x2210 + l) 2)
        ∧ t.out = .block l 0x2D [f.hdr.vc, frameBlocks f.hdr] :: .block l 0x33 [(s.link l).rxSeq % 256, 0] :: s.out)
  ∧ (∀ (l : Link) (f : Frame) (seq crc : Nat) (s : State),
      s.strand.shaped →
      s.module.mainUp = true →
      s.linkOpen l = true →
      2 ≤ f.hdr.vc →
      f.hdr.vc ≤ 6 →
      f.hdr.dest = s.strand.id →
      crcCheck f crc = .wrong →
      (s.link l).nakSent = false ∨ seq = (s.link l).rxSeq ∧ seq < 256 →
      ∃ t, exec (.frameReceived l f seq crc) s = .next t
        ∧ t.link l = { s.link l with nakSent := true }
        ∧ t.strand.transit = s.strand.transit
        ∧ t.nat (obj (0x2210 + l) 3) = s.counted (obj (0x2210 + l) 3)
        ∧ t.out = .block l 0x2D [f.hdr.vc, frameBlocks f.hdr] :: .block l 0x33 [((s.link l).rxSeq + 255) % 256, 1] :: s.out)
  ∧ (∀ (l : Link) (f : Frame) (seq crc : Nat) (s : State),
      s.module.mainUp = true →
      s.linkOpen l = true →
      crcCheck f crc = .wrong →
      f.hdr.vc ≤ 1 ∨ f.hdr.vc = 7 →
      f.hdr.vc ≠ 1 ∨ f.hdr.dest = s.strand.id →
      ∃ t, exec (.frameReceived l f seq crc) s = .next t
        ∧ t.strand = s.strand
        ∧ t.nat (obj (0x2210 + l) 3) = s.counted (obj (0x2210 + l) 3)
        ∧ t.nat (obj (0x2210 + l) 5) = s.counted (obj (0x2210 + l) 5)
        ∧ t.out = .block l 0x2D [f.hdr.vc, frameBlocks f.hdr] :: s.out)
  ∧ (∀ (l : Link) (f : Frame) (seq crc : Nat) (i p : Nat) (s : State),
      s.strand.shaped →
      s.module.mainUp = true →
      s.linkOpen l = true →
      crcCheck f crc = .wrong →
      2 ≤ f.hdr.vc →
      f.hdr.vc ≤ 6 →
      f.hdr.dest ≠ s.strand.id →
      f.hdr.hops < 126 →
      (s.link l).nakSent = false →
      s.strand.transit = [] →
      s.route f.hdr = .out i p false false →
      s.route (hopped f).hdr = .out i p false false →
      i < 4 →
      i ≠ l.val →
      (s.link i).canSend f.hdr = true →
      s.wireIdle i = true →
      ∃ t, exec (.frameReceived l f seq crc) s = .next t
        ∧ t.strand.transit = []
        ∧ t.link l = { s.link l with nakSent := true }
        ∧ t.nat (obj (0x2210 + l) 3) = s.counted (obj (0x2210 + l) 3)
        ∧ t.nat (obj (0x2210 + i) 1) = s.counted (obj (0x2210 + i) 1)
        ∧ t.nat (obj 0x2206 1) = s.nat (obj 0x2206 1)
        ∧ t.out = .block l 0x2D [f.hdr.vc, frameBlocks f.hdr] :: frameOut i { f with hdr := { f.hdr with hops := f.hdr.hops + 1, phase := p }, inverted := true } (s.link i).nextSeq :: .block l 0x33 [((s.link l).rxSeq + 255) % 256, 1] :: s.out)
  ∧ (∀ (l : Link) (f : Frame) (s : State),
      s.strand.shaped →
      s.module.mainUp = true →
      s.linkOpen l = true →
      2 ≤ f.hdr.vc →
      f.hdr.vc ≤ 6 →
      f.hdr.dest = s.strand.id →
      (s.link l).rxSeq < 256 →
      ∃ t, exec (.frameReceived l f (s.link l).rxSeq (frameCrc f ^^^ 0xFFFFFFFF)) s = .next t
        ∧ (t.link l).rxSeq = ((s.link l).rxSeq + 1) % 256
        ∧ t.strand.transit = s.strand.transit
        ∧ t.od = s.od
        ∧ t.out = .block l 0x2D [f.hdr.vc, frameBlocks f.hdr] :: .block l 0x33 [(s.link l).rxSeq % 256, 0] :: s.out)
  ∧ (∀ (l : Link) (seq : Nat) (s : State),
      s.strand.shaped →
      s.module.mainUp = true →
      s.linkOpen l = true →
      s.wireIdle l = true →
      ∃ t, exec (.ackBlock l seq false) s = .next t
        ∧ (t.link l).unacked = afterAck seq (s.link l).unacked
        ∧ (t.link l).state = (s.link l).state
        ∧ t.od = s.od
        ∧ t.out = s.out)
  ∧ (∀ (l : Link) (seq : Nat) (s : State),
      s.strand.shaped →
      s.module.mainUp = true →
      s.linkOpen l = true →
      s.wireIdle l = true →
      (s.link l).naks < 3 →
      ∃ t, exec (.ackBlock l seq true) s = .next t
        ∧ (t.link l).unacked = afterAck seq (s.link l).unacked
        ∧ (t.link l).state = (s.link l).state
        ∧ t.nat (obj (0x2210 + l) 4) = min (maxOf (obj (0x2210 + l) 4)) (s.nat (obj (0x2210 + l) 4) + (afterAck seq (s.link l).unacked).length))
  ∧ (∀ (l : Link) (seq : Nat) (x : Nat × Frame) (s : State),
      s.strand.shaped →
      s.module.mainUp = true →
      s.linkOpen l = true →
      s.wireIdle l = true →
      (s.link l).naks < 3 →
      afterAck seq (s.link l).unacked = [x] →
      frameBlocks x.2.hdr ≤ (s.link l).credits.getD x.2.hdr.vc 0 →
      ∃ t, exec (.ackBlock l seq true) s = .next t
        ∧ t.out = frameOut l x.2 x.1 :: s.out
        ∧ (t.link l).replay = []
        ∧ (t.link l).unacked = [x])
  ∧ (∀ (l : Link) (seq : Nat) (s : State),
      s.strand.shaped →
      s.module.mainUp = true →
      s.linkOpen l = true →
      s.wireIdle l = true →
      afterAck seq (s.link l).unacked = (s.link l).unacked →
      3 ≤ (s.link l).naks →
      ∃ t, exec (.ackBlock l seq true) s = .next t
        ∧ (t.link l).state = .down
        ∧ t.nat (obj (0x2210 + l) 7) = s.counted (obj (0x2210 + l) 7))
  ∧ (∀ (l : Link) (vc blocks : Nat) (s : State),
      s.strand.shaped →
      s.module.mainUp = true →
      s.linkOpen l = true →
      s.wireIdle l = true →
      ∃ t, exec (.creditBlock l vc blocks) s = .next t
        ∧ (t.link l).credits = (s.link l).credits.modify vc (fun n => min (vcBuffer vc) (n + blocks))
        ∧ t.od = s.od
        ∧ t.out = s.out)
  ∧ (∀ (k : Nat) (f : Frame) (s : State),
      s.module.mainUp = true →
      s.strand.transit = [(k, f)] →
      126 ≤ f.hdr.hops →
      ∃ t, exec .frameForward s = .next t
        ∧ t.strand.transit = []
        ∧ t.nat (obj 0x2206 5) = s.counted (obj 0x2206 5))
  ∧ (∀ (k : Nat) (f : Frame) (s : State),
      s.module.mainUp = true →
      s.strand.transit = [(k, f)] →
      f.hdr.hops < 126 →
      s.route f.hdr = .noRoute →
      s.route (hopped f).hdr = .noRoute →
      ∃ t, exec .frameForward s = .next t
        ∧ t.strand.transit = []
        ∧ t.nat (obj 0x2206 4) = s.counted (obj 0x2206 4)
        ∧ t.nat (obj 0x2206 1) = s.nat (obj 0x2206 1))
  ∧ (∀ (k i p : Nat) (f : Frame) (s : State),
      s.strand.shaped →
      s.module.mainUp = true →
      s.strand.transit = [(k, f)] →
      f.hdr.hops < 126 →
      f.hdr.vc < 8 →
      s.route f.hdr = .out i p false false →
      s.route (hopped f).hdr = .out i p false false →
      i < 4 →
      (s.link i).canSend f.hdr = true →
      s.wireIdle i = true →
      ∃ t, exec .frameForward s = .next t
        ∧ t.strand.transit = []
        ∧ (t.link i).queue = []
        ∧ t.out = frameOut i { f with hdr := { f.hdr with hops := f.hdr.hops + 1, phase := p } } (if replayed f.hdr.vc then (s.link i).nextSeq else 0) :: .block k 0x2D [f.hdr.vc, frameBlocks f.hdr] :: s.out
        ∧ t.nat (obj 0x2206 1) = s.counted (obj 0x2206 1)
        ∧ t.nat (obj (0x2210 + i) 1) = s.counted (obj (0x2210 + i) 1))

/-- A TOPO_RECORD of an ID not held, or with a higher sequence, is stored with its instant; the record held is refreshed, a lower sequence changes
nothing, and one of the own ID with another serial number is a conflict. TOPO_FLOOD comes every 1 s, TOPO_EXPIRY drops a record 3 s after its
refresh. WIN_WRITE within DDR writes its bytes, a read that is served leaves memory alone, both counted in 0x2206:09, a refused one in :0A.
BULK_FRAME writes the bytes within DDR and counts both parts. STREAM_CFG_WRITE sets a stream that is not enabled; MBOX_BELL of a mailbox that is
not busy hands it over. -/
def Obligations.FabricTableResults : Prop :=
  (∀ (l : Link) (r : Topo) (s : State),
      s.module.mainUp = true →
      s.linkUp l = true →
      r.id ≠ s.strand.id →
      s.strand.table.all (fun x => x.1.id != r.id || decide (x.1.seq < r.seq)) = true →
      ∃ t, exec (.topoRecord l r) s = .next t
        ∧ t.strand.table = insertTopo r s.clk s.strand.table
        ∧ t.strand.own = s.strand.own
        ∧ t.clk = s.clk)
  ∧ (∀ (l : Link) (r : Topo) (u : Nat) (s : State),
      s.module.mainUp = true →
      s.linkUp l = true →
      r.id ≠ s.strand.id →
      s.strand.table.find? (fun x => x.1.id == r.id) = some (r, u) →
      ∃ t, exec (.topoRecord l r) s = .next t
        ∧ t = { s with strand := { s.strand with table := insertTopo r s.clk s.strand.table } })
  ∧ (∀ (l : Link) (r x : Topo) (u : Nat) (s : State),
      s.module.mainUp = true →
      s.linkUp l = true →
      r.id ≠ s.strand.id →
      s.strand.table.find? (fun x => x.1.id == r.id) = some (x, u) →
      r.seq < x.seq →
      ∃ t, exec (.topoRecord l r) s = .next t
        ∧ t = s)
  ∧ (∀ (l : Link) (r : Topo) (s : State),
      s.module.mainUp = true →
      s.linkUp l = true →
      r.id = s.strand.id →
      r.serial ≠ (s.byteVal (obj 0x2000 3) ++ List.replicate 12 0#8).take 12 →
      s.strand.conflict = false →
      ∃ t, exec (.topoRecord l r) s = .next t
        ∧ t.strand.conflict = true
        ∧ t.strand.table = s.strand.table)
  ∧ (∀ (s : State),
      s.module.mainUp = true →
      s.clk ≤ s.strand.floodAt + secTicks →
      ∃ t, exec .topoFlood s = .next t
        ∧ t.clk = s.strand.floodAt + secTicks
        ∧ t.strand.floodAt = t.clk
        ∧ { t.strand.own with seq := 0 } = { s.ownTopo with seq := 0 })
  ∧ (∀ (id : Nat) (r : Topo) (u : Nat) (s : State),
      s.strand.table.find? (fun x => x.1.id == id) = some (r, u) →
      s.clk ≤ u + 3 * secTicks →
      ∃ t, exec (.topoExpiry id) s = .next t
        ∧ t.clk = u + 3 * secTicks
        ∧ t.strand.table = s.strand.table.filter (fun x => x.1.id != id))
  ∧ (∀ (src txn address len : Nat) (d : List Byte) (s : State),
      s.module.mainUp = true →
      s.windowRead address len = .inl d →
      ∃ t, exec (.winRead src txn address len) s = .next t
        ∧ t.mem = s.mem
        ∧ t.nat (obj 0x2206 9) = s.counted (obj 0x2206 9)
        ∧ t.nat (obj 0x2206 0x0A) = s.nat (obj 0x2206 0x0A))
  ∧ (∀ (src txn address len : Nat) (w : Nat) (s : State),
      s.module.mainUp = true →
      s.windowRead address len = .inr w →
      ∃ t, exec (.winRead src txn address len) s = .next t
        ∧ t.mem = s.mem
        ∧ t.nat (obj 0x2206 0x0A) = s.counted (obj 0x2206 0x0A)
        ∧ t.nat (obj 0x2206 9) = s.nat (obj 0x2206 9))
  ∧ (∀ (src txn address : Nat) (data : List Byte) (s : State),
      s.module.mainUp = true →
      address + data.length ≤ ddrEnd →
      ∃ t, exec (.winWrite src txn address data) s = .next t
        ∧ t.memRead address data.length = data
        ∧ (∀ a, a < address ∨ address + data.length ≤ a → Mem.read t.mem a = Mem.read s.mem a)
        ∧ t.nat (obj 0x2206 9) = s.counted (obj 0x2206 9))
  ∧ (∀ (src txn address : Nat) (data : List Byte) (s : State),
      s.module.mainUp = true →
      strandBase + 0x10000 < address + data.length →
      address + data.length ≤ bulkBase →
      ∃ t, exec (.winWrite src txn address data) s = .next t
        ∧ t.mem = s.mem
        ∧ t.nat (obj 0x2206 0x0A) = s.counted (obj 0x2206 0x0A))
  ∧ (∀ (src stream seq : Nat) (last : Bool) (address : Nat) (data : List Byte) (s : State),
      s.module.mainUp = true →
      src < 4096 →
      stream < 16 →
      seq < 256 →
      data ≠ [] →
      ∃ t, exec (.bulkFrame src stream seq last address data) s = .next t
        ∧ t.memRead address (data.take (ddrEnd - address)).length = data.take (ddrEnd - address)
        ∧ (∀ a, a < address ∨ address + (data.take (ddrEnd - address)).length ≤ a → Mem.read t.mem a = Mem.read s.mem a)
        ∧ t.nat (obj 0x2206 0x0B) = min (maxOf (obj 0x2206 0x0B)) (s.nat (obj 0x2206 0x0B) + (data.take (ddrEnd - address)).length)
        ∧ t.nat (obj 0x2206 0x0C) = min (maxOf (obj 0x2206 0x0C)) (s.nat (obj 0x2206 0x0C) + (data.length - (data.take (ddrEnd - address)).length)))
  ∧ (∀ (stream : Fin 16) (value : Nat) (s : State),
      s.strand.shaped →
      s.module.mainUp = true →
      (s.stream stream).enabled = false →
      ∃ t, exec (.streamCfgWrite stream true value) s = .next t
        ∧ t.stream stream = { s.stream stream with enabled := bitOf value 63, dest := value % 4096 })
  ∧ (∀ (stream : Fin 16) (value : Nat) (s : State),
      s.strand.shaped →
      s.module.mainUp = true →
      (s.stream stream).enabled = false →
      ∃ t, exec (.streamCfgWrite stream false value) s = .next t
        ∧ t.stream stream = { s.stream stream with base := value % 2 ^ 40 })
  ∧ (∀ (m : Fin 4) (s : State),
      s.strand.shaped →
      s.module.mainUp = true ∨ s.module.loader = true →
      m.val ≠ 0 →
      (s.mailbox m).busy = false →
      ∃ t, exec (.mboxBell m) s = .next t
        ∧ t.mailbox m = { s.mailbox m with consumed := true }
        ∧ t.update = s.update
        ∧ t.mem = s.mem)

/-- An acquire of a free slot for a range that no lock of the other master overlaps holds the lock for its lease and shows the slot; one that
overlaps is refused. Renew and release of the own lock set its lease anew and free the slot. LOCK_EXPIRY frees the slot at its instant, counted
in 0x2006:03. Opening a stage that is closed opens it empty; a commit that every check passes closes it with its tick; one that a check refuses
leaves it open with the abort and the object shown, counted in 0x2006:05; discard and timeout close it, the timeout counted in 0x2006:06. -/
def Obligations.LockStageResults : Prop :=
  (∀ (m : Master) (first last lease slot : Nat) (n : Nat) (s : State),
      s.dict.shaped →
      s.writable m (obj 0x2002 1) (.num (lockRequest first last lease 1 slot)) = true →
      0x2000 ≤ first →
      first ≤ last →
      last ≤ 0x2FFF →
      1 ≤ lease →
      lease ≤ 600 →
      slot ≤ 3 ∨ slot = 0xFF →
      s.dict.locks.all (fun o => match o with | some l => decide (s.clk < l.until_) | none => true) = true →
      s.overlapsOther m first last = false →
      s.lockSlot slot = some n →
      ∃ t, exec (.lockAcquire m first last lease slot) s = .next t
        ∧ t.dict.locks = s.dict.locks.set n (some { owner := m, first := first, last := last, until_ := s.clk + lease * secTicks })
        ∧ t.dict.granted = s.dict.granted.set (masterIx m) n
        ∧ t.out.head? = some (ack m (obj 0x2002 1)))
  ∧ (∀ (m : Master) (first last lease slot : Nat) (s : State),
      s.writable m (obj 0x2002 1) (.num (lockRequest first last lease 1 slot)) = true →
      0x2000 ≤ first →
      first ≤ last →
      last ≤ 0x2FFF →
      1 ≤ lease →
      lease ≤ 600 →
      slot ≤ 3 ∨ slot = 0xFF →
      s.dict.locks.all (fun o => match o with | some l => decide (s.clk < l.until_) | none => true) = true →
      s.overlapsOther m first last = true →
      ∃ t, exec (.lockAcquire m first last lease slot) s = .next t
        ∧ t.dict = s.dict
        ∧ t.out = .reply m 0x2002 1 abortState [] :: s.out)
  ∧ (∀ (m : Master) (lease slot : Nat) (l : Lock) (s : State),
      s.dict.shaped →
      s.writable m (obj 0x2002 1) (.num (lockRequest 0 0 lease 2 slot)) = true →
      1 ≤ lease →
      lease ≤ 600 →
      slot ≤ 3 →
      s.dict.locks.all (fun o => match o with | some l => decide (s.clk < l.until_) | none => true) = true →
      s.dict.locks.getD slot none = some l →
      l.owner = m →
      ∃ t, exec (.lockRenew m lease slot) s = .next t
        ∧ t.dict.locks = s.dict.locks.set slot (some { l with until_ := s.clk + lease * secTicks })
        ∧ t.out = ack m (obj 0x2002 1) :: s.out)
  ∧ (∀ (m : Master) (slot : Nat) (l : Lock) (s : State),
      s.dict.shaped →
      s.writable m (obj 0x2002 1) (.num (lockRequest 0 0 0 3 slot)) = true →
      slot ≤ 3 →
      s.dict.locks.all (fun o => match o with | some l => decide (s.clk < l.until_) | none => true) = true →
      s.dict.locks.getD slot none = some l →
      l.owner = m →
      ∃ t, exec (.lockRelease m slot) s = .next t
        ∧ t.dict.locks = s.dict.locks.set slot none
        ∧ t.out.head? = some (ack m (obj 0x2002 1)))
  ∧ (∀ (slot : Fin 4) (l : Lock) (s : State),
      s.dict.locks.getD slot none = some l →
      s.clk ≤ l.until_ →
      ∃ t, exec (.lockExpiry slot) s = .next t
        ∧ t.clk = l.until_
        ∧ t.dict.locks = s.dict.locks.set slot none
        ∧ t.nat (obj 0x2006 3) = s.counted (obj 0x2006 3))
  ∧ (∀ (m : Master) (s : State),
      s.dict.shaped →
      s.writable m (obj 0x2003 1) (.num 1) = true →
      (s.stage m).isOpen = false →
      ∃ t, exec (.stageOpen m) s = .next t
        ∧ t.stage m = { s.stage m with isOpen := true, entries := [], touched := s.clk }
        ∧ t.out = ack m (obj 0x2003 1) :: s.out)
  ∧ (∀ (m : Master) (s : State),
      s.writable m (obj 0x2003 1) (.num 1) = true →
      (s.stage m).isOpen = true →
      ∃ t, exec (.stageOpen m) s = .next t
        ∧ t.dict = s.dict
        ∧ t.out = .reply m 0x2003 1 abortState [] :: s.out)
  ∧ (∀ (m : Master) (s : State),
      s.dict.shaped →
      s.writable m (obj 0x2003 1) (.num 2) = true →
      (s.stage m).isOpen = true →
      s.checkEntries m (s.stage m).entries = none →
      ∃ t, exec (.stageCommit m) s = .next t
        ∧ (t.stage m).isOpen = false
        ∧ (t.stage m).entries = []
        ∧ (t.stage m).result = 0
        ∧ (t.stage m).failing = 0)
  ∧ (∀ (m : Master) (k c : Nat) (s : State),
      s.dict.shaped →
      s.writable m (obj 0x2003 1) (.num 2) = true →
      (s.stage m).isOpen = true →
      s.checkEntries m (s.stage m).entries = some (k, c) →
      ∃ t, exec (.stageCommit m) s = .next t
        ∧ t.stage m = { s.stage m with result := c, failing := k * 256, touched := s.clk }
        ∧ t.drive = s.drive
        ∧ t.module = s.module
        ∧ t.nat (obj 0x2006 5) = s.counted (obj 0x2006 5)
        ∧ t.out.head? = some (.reply m 0x2003 1 c []))
  ∧ (∀ (m : Master) (s : State),
      s.dict.shaped →
      s.writable m (obj 0x2003 1) (.num 3) = true →
      (s.stage m).isOpen = true →
      ∃ t, exec (.stageDiscard m) s = .next t
        ∧ t.stage m = { s.stage m with isOpen := false, entries := [] }
        ∧ t.od = s.od
        ∧ t.out = ack m (obj 0x2003 1) :: s.out)
  ∧ (∀ (m : Master) (s : State),
      s.dict.shaped →
      (s.stage m).isOpen = true →
      s.clk ≤ (s.stage m).touched + s.nat (obj 0x2003 4) * secTicks →
      ∃ t, exec (.stageTimeout m) s = .next t
        ∧ t.clk = (s.stage m).touched + s.nat (obj 0x2003 4) * secTicks
        ∧ t.stage m = { s.stage m with isOpen := false, entries := [] }
        ∧ t.nat (obj 0x2006 6) = s.counted (obj 0x2006 6))

/-- A served DICT_READ is counted in 0x2206:07, and where the route to the requester is free its RESPONSE leaves at once with the value from the
first byte on; a refused one is counted in :08. A DICT_WRITE of one frame is carried out and counted; a first segment waits; a segment out of
order or after more than 1 s ends the write, counted in 0x2206:08. OBJECT_WRITE that passes its checks is answered with what the object's own
rules say; one that a check of R393 refuses changes nothing and is answered with that abort; one that a lock of the other master covers is
refused and counted in 0x2006:01. STORE_PARAMETERS writes the older store and the island's memory; a flash failure is counted in 0x2006:08, a
store that a power-fail warning abandons is answered with an abort (log entry 144); RESTORE_DEFAULTS empties the part. -/
def Obligations.DictionaryResults : Prop :=
  (∀ (src txn index sub : Nat) (s : State),
      s.reachable .host = true →
      index < 65536 →
      sub < 256 →
      (s.dictOpen src).length < 8 →
      obj index sub ≠ obj 0x2D05 1 →
      s.checkRead .host (obj index sub) = 0 →
      s.readBarred (obj index sub) = false →
      ∃ t, exec (.dictRead src txn index sub ⟨false, 0⟩) s = .next t
        ∧ t.nat (obj 0x2206 7) = s.counted (obj 0x2206 7)
        ∧ t.nat (obj 0x2206 8) = s.nat (obj 0x2206 8)
        ∧ t.mem = s.mem)
  ∧ (∀ (src txn index sub : Nat) (d : List Byte) (i p : Nat) (s : State),
      s.strand.shaped →
      s.reachable .host = true →
      index < 65536 →
      sub < 256 →
      (s.dictOpen src).length < 8 →
      obj index sub ≠ obj 0x2D05 1 →
      s.checkRead .host (obj index sub) = 0 →
      s.readBarred (obj index sub) = false →
      s.shownBytes .host (obj index sub) = d →
      d.length ≤ 8160 →
      s.route { vc := 3, dest := src, src := s.strand.id, type := 2, len := 2 + ceilDiv d.length 8 } = .out i p false false →
      i < 4 →
      s.linkOpen i = true →
      (s.link i).canSend { vc := 3, dest := src, src := s.strand.id, type := 2, len := 2 + ceilDiv d.length 8 } = true →
      s.wireIdle i = true →
      ∃ t, exec (.dictRead src txn index sub ⟨false, 0⟩) s = .next t
        ∧ t.nat (obj 0x2206 7) = s.counted (obj 0x2206 7)
        ∧ t.out.head? = some (frameOut i ⟨{ vc := 3, dest := src, src := s.strand.id, type := 2, phase := p, len := 2 + ceilDiv d.length 8 }, dictHead index sub txn false 0 d.length 0 ++ bytesToWords d, false⟩ (s.link i).nextSeq))
  ∧ (∀ (src txn index sub : Nat) (s : State),
      s.reachable .host = true →
      index < 65536 →
      sub < 256 →
      (s.dictOpen src).length < 8 →
      s.checkRead .host (obj index sub) ≠ 0 →
      ∃ t, exec (.dictRead src txn index sub ⟨false, 0⟩) s = .next t
        ∧ t.nat (obj 0x2206 8) = s.counted (obj 0x2206 8)
        ∧ t.nat (obj 0x2206 7) = s.nat (obj 0x2206 7)
        ∧ t.mem = s.mem)
  ∧ (∀ (src txn total : Nat) (data : List Byte) (s : State),
      s.reachable .host = true →
      s.strand.writes.all (fun e => e.src != src) = true →
      total ≤ data.length →
      s.writable .host (obj 0x2701 3) (valOfBytes (obj 0x2701 3) data) = true →
      ∃ t, exec (.dictWrite src txn 0x2701 3 false 0 total data) s = .next t
        ∧ t.val (obj 0x2701 3) = valOfBytes (obj 0x2701 3) data
        ∧ t.strand.writes = s.strand.writes
        ∧ t.nat (obj 0x2206 7) = s.counted (obj 0x2206 7))
  ∧ (∀ (src txn index sub total : Nat) (whole : Bool) (data : List Byte) (s : State),
      s.reachable .host = true →
      index < 65536 →
      sub < 256 →
      index ≠ 0x2E01 →
      s.strand.writes.all (fun e => e.src != src) = true →
      data.length < total →
      ∃ t, exec (.dictWrite src txn index sub whole 0 total data) s = .next t
        ∧ t.strand.writes = s.strand.writes ++ [{ src := src, txn := txn, index := index, sub := sub, whole := whole, total := total, data := data, last := s.clk }]
        ∧ t.od = s.od)
  ∧ (∀ (src txn index sub offset total : Nat) (whole : Bool) (data : List Byte) (s : State),
      s.reachable .host = true →
      s.strand.writes.all (fun e => e.src != src) = true →
      offset ≠ 0 →
      ∃ t, exec (.dictWrite src txn index sub whole offset total data) s = .next t
        ∧ t.strand.writes = s.strand.writes
        ∧ t.nat (obj 0x2206 8) = s.counted (obj 0x2206 8))
  ∧ (∀ (src txn : Nat) (e : DictParts) (s : State),
      s.reachable .host = true →
      s.strand.writes.find? (fun e => e.src == src && e.txn == txn) = some e →
      s.clk ≤ e.last + secTicks + 1 →
      ∃ t, exec (.dictSegmentTimeout src txn) s = .next t
        ∧ t.clk = e.last + secTicks + 1
        ∧ t.strand.writes = s.strand.writes.filter (fun e => !(e.src == src && e.txn == txn))
        ∧ t.nat (obj 0x2206 8) = s.counted (obj 0x2206 8))
  ∧ (∀ (m : Master) (v : Val) (s : State),
      s.writable m (obj 0x2701 3) (v) = true →
      ∃ t, exec (.objectWrite m 0x2701 3 v) s = .next t
        ∧ t.val (obj 0x2701 3) = v
        ∧ t.out = ack m (obj 0x2701 3) :: s.out)
  ∧ (∀ (m : Master) (index sub : Nat) (v : Val) (c : Nat) (s : State),
      index < 65536 →
      sub < 256 →
      obj index sub ≠ obj 0x2D05 2 →
      s.reachable m = true →
      s.checkWrite s.nat m (obj index sub) v = c →
      c ≠ 0 →
      ∃ t, exec (.objectWrite m index sub v) s = .next t
        ∧ t = { s with out := .reply m index sub c [] :: s.out })
  ∧ (∀ (m : Master) (index sub : Nat) (v : Val) (s : State),
      index < 65536 →
      sub < 256 →
      obj index sub ≠ obj 0x2D05 2 →
      s.reachable m = true →
      s.checkWrite s.nat m (obj index sub) v = 0 →
      (s.stage m).isOpen = false →
      s.lockRefuses m (obj index sub) v = true →
      ∃ t, exec (.objectWrite m index sub v) s = .next t
        ∧ t.nat (obj 0x2006 1) = s.counted (obj 0x2006 1)
        ∧ t.out = .reply m index sub abortState [] :: s.out
        ∧ t.drive = s.drive
        ∧ t.module = s.module
        ∧ t.dict = s.dict)
  ∧ (∀ (m : Master) (index sub : Nat) (v : Val) (s : State),
      index < 65536 →
      sub < 256 →
      s.reachable m = true →
      s.checkWrite s.nat m (obj index sub) v = 0 →
      (s.stage m).isOpen = true →
      stageable (obj index sub) = true →
      (s.stage m).entries.all (fun e => e.1 != obj index sub) = true →
      (s.stage m).entries.length < 128 →
      s.dict.shaped →
      ∃ t, exec (.objectWrite m index sub v) s = .next t
        ∧ t.stage m = { s.stage m with entries := (s.stage m).entries ++ [(obj index sub, v)], touched := s.clk }
        ∧ t.od = s.od
        ∧ t.out = ack m (obj index sub) :: s.out)
  ∧ (∀ (m : Master) (part : Fin 3) (s : State),
      s.dict.shaped →
      s.writable m (obj 0x1010 (part + 1)) (.num sigSave) = true →
      s.dict.storing = none →
      s.power.seqAt = none →
      s.module.mainUp = true →
      ∃ t, exec (.storeParameters m part sigSave .done) s = .next t
        ∧ t.dict.stores = (if part.val = 1 then s.dict.stores else s.dict.stores.set s.storeTarget ({ seq := s.storeSeq + 1, format := s.fwFormat, valid := true, values := s.appValues } : Settings))
        ∧ t.side.nv = (if part.val = 2 then s.side.nv else s.commValues)
        ∧ t.nat (obj 0x2006 7) = s.counted (obj 0x2006 7))
  ∧ (∀ (m : Master) (part : Fin 3) (s : State),
      s.dict.shaped →
      s.writable m (obj 0x1010 (part + 1)) (.num sigSave) = true →
      s.dict.storing = none →
      s.power.seqAt = none →
      s.module.mainUp = true →
      ∃ t, exec (.storeParameters m part sigSave .failed) s = .next t
        ∧ t.side.nv = s.side.nv
        ∧ t.nat (obj 0x2006 8) = s.counted (obj 0x2006 8)
        ∧ t.out.head? = some (.reply m 0x1010 (part + 1) abortHardware []))
  ∧ (∀ (m : Master) (part : Fin 3) (s : State),
      s.writable m (obj 0x1010 (part + 1)) (.num sigSave) = true →
      s.dict.storing = none →
      s.power.seqAt = none →
      s.module.mainUp = true →
      ∃ t, exec (.storeParameters m part sigSave .abandoned) s = .next t
        ∧ t.side.nv = s.side.nv
        ∧ t.nat (obj 0x2006 7) = s.nat (obj 0x2006 7)
        ∧ t.nat (obj 0x2006 8) = s.nat (obj 0x2006 8)
        ∧ t.out.head? = some (.reply m 0x1010 (part + 1) abortState []))
  ∧ (∀ (m : Master) (part : Fin 3) (s : State),
      s.writable m (obj 0x1011 (part + 1)) (.num sigLoad) = true →
      s.dict.storing = none →
      s.power.seqAt = none →
      s.module.mainUp = true →
      s.holdsLock (otherMaster m) = false →
      ∃ t, exec (.restoreDefaults m part ⟨sigLoad, .done⟩) s = .next t
        ∧ t.dict.stores = (if part.val = 1 then s.dict.stores else s.dict.stores.map (fun x => { x with values := [] }))
        ∧ t.side.nv = (if part.val = 2 then s.side.nv else [])
        ∧ t.out.head? = some (ack m (obj 0x1011 (part + 1))))

/-- Start, stop and pre-operational addressed to the node change the NMT state alone; reset communication restarts the controller with the pending
node-ID and bit timing, sends the boot-up message and enters Pre-operational; reset node also restarts the main side, or resets the island while
the main side is off. A base frame lands in its buffer's primary, its shadow, or over the shadow (counted in 0x2D02:0C); a heartbeat renews every
entry of its node. A CAN FD frame draws an error frame and raises the receive counter. CAN_BUS_ERROR raises the counters, whose state follows.
BUS_OFF_RECOVERY leaves bus-off after 128 × 11 bits. CAN_FRAME_SENT sends the pending frame with the lowest COB-ID; with a TPDO the type and
inhibit time in force take effect. -/
def Obligations.NmtCanResults : Prop :=
  (∀ (node : Nat) (s : State),
      s.canSend = true →
      s.side.nodeId ≠ 0xFF →
      node = 0 ∨ node = s.side.nodeId →
      s.side.nmt ≠ .initialisation →
      ∃ t, exec (.nmtStart node) s = .next t
        ∧ t.side.nmt = .operational
        ∧ t.module = s.module
        ∧ t.drive = s.drive
        ∧ t.power = s.power)
  ∧ (∀ (node : Nat) (s : State),
      s.canSend = true →
      s.side.nodeId ≠ 0xFF →
      node = 0 ∨ node = s.side.nodeId →
      s.side.nmt ≠ .initialisation →
      s.side.nmt ≠ .stopped →
      ∃ t, exec (.nmtStop node) s = .next t
        ∧ t.side.nmt = .stopped
        ∧ t.side.sdo = none
        ∧ t.module = s.module
        ∧ t.drive = s.drive
        ∧ t.power = s.power)
  ∧ (∀ (node : Nat) (s : State),
      s.canSend = true →
      s.side.nodeId ≠ 0xFF →
      node = 0 ∨ node = s.side.nodeId →
      s.side.nmt ≠ .initialisation →
      ∃ t, exec (.nmtPreOperational node) s = .next t
        ∧ t.side.nmt = .preOperational
        ∧ t.module = s.module
        ∧ t.drive = s.drive
        ∧ t.power = s.power)
  ∧ (∀ (node : Nat) (s : State),
      s.canSend = true →
      s.side.nodeId ≠ 0xFF →
      node = 0 ∨ node = s.side.nodeId →
      s.side.pendingId ≠ 0xFF →
      ∃ t, exec (.nmtResetCommunication node) s = .next t
        ∧ t.side.nodeId = s.side.pendingId
        ∧ t.side.canbt = canbtOf s.side.pendingEntry
        ∧ t.side.nmt = .preOperational
        ∧ t.side.tec = 0
        ∧ t.side.tx = [{ buffer := 18, id := 0x700 + s.side.pendingId, data := [0#8] }]
        ∧ t.module = s.module
        ∧ t.drive = s.drive
        ∧ t.power = s.power)
  ∧ (∀ (node : Nat) (s : State),
      s.canSend = true →
      s.side.nodeId ≠ 0xFF →
      node = 0 ∨ node = s.side.nodeId →
      s.side.pendingId ≠ 0xFF →
      s.power.seqAt = none →
      s.module.mainUp = true →
      s.module.state ≠ .waking →
      ∃ t, exec (.nmtResetNode node) s = .next t
        ∧ t.side.nodeId = s.side.pendingId
        ∧ t.side.nmt = .preOperational
        ∧ t.module.state = .waking
        ∧ t.module.mainUp = false
        ∧ t.power.kind = 2)
  ∧ (∀ (node : Nat) (s : State),
      s.canSend = true →
      s.side.nodeId ≠ 0xFF →
      node = 0 ∨ node = s.side.nodeId →
      s.power.seqAt = none →
      s.module.mainUp = false →
      s.module.loader = false →
      ∃ t, exec (.nmtResetNode node) s = .next t
        ∧ t.side.nodeId = s.side.storedId
        ∧ t.module = { s.module with resetKind := 4 }
        ∧ t.power = s.power)
  ∧ (∀ (id : Nat) (data : List Byte) (n : Nat) (s : State),
      s.side.shaped →
      s.canFed = true →
      s.side.errors ≠ .busOff →
      s.rxBufferOf (id % 2048) = some n →
      n < 8 →
      ∃ t, exec (.canFrameReceived .base id data) s = .next t
        ∧ t.side.rx.getD n {} = (if (s.side.rx.getD n {}).primary = none then { s.side.rx.getD n {} with primary := some data } else { s.side.rx.getD n {} with shadow := some data })
        ∧ t.nat (obj 0x2D02 0x0C) = (if (s.side.rx.getD n {}).primary ≠ none ∧ (s.side.rx.getD n {}).shadow ≠ none then s.counted (obj 0x2D02 0x0C) else s.nat (obj 0x2D02 0x0C)))
  ∧ (∀ (id : Nat) (data : List Byte) (n : Nat) (s : State),
      s.side.shaped →
      s.canFed = true →
      s.side.errors ≠ .busOff →
      s.rxBufferOf (id % 2048) = some n →
      8 ≤ n →
      n < 12 →
      ∃ t, exec (.canFrameReceived .base id data) s = .next t
        ∧ (∀ j, j < 4 → s.consumes (id % 2048) j = true → t.side.consumers.getD j {} = { s.side.consumers.getD j {} with heard := some s.clk, timedOut := false })
        ∧ t.side.rx = s.side.rx)
  ∧ (∀ (id : Nat) (data : List Byte) (s : State),
      s.canFed = true →
      s.side.errors ≠ .busOff →
      ∃ t, exec (.canFrameReceived .fd id data) s = .next t
        ∧ .canError ∈ t.out
        ∧ t.side.rec_ = s.side.rec_ + 1
        ∧ t.side.rx = s.side.rx)
  ∧ (∀ (tec rec_ : Nat) (s : State),
      s.canFed = true →
      s.side.errors ≠ .busOff →
      ∃ t, exec (.canBusError tec rec_) s = .next t
        ∧ t.side.tec = s.side.tec + tec
        ∧ t.side.rec_ = s.side.rec_ + rec_
        ∧ t.side.errors = canStateOf (s.side.tec + tec) (s.side.rec_ + rec_))
  ∧ (∀ (s : State),
      s.canFed = true →
      s.side.errors = .busOff →
      s.side.paced = false →
      s.clk ≤ s.side.busOffAt + 1408 * s.bitTicks →
      ∃ t, exec .busOffRecovery s = .next t
        ∧ t.clk = s.side.busOffAt + 1408 * s.bitTicks
        ∧ t.side.errors = .active
        ∧ t.side.tec = 0
        ∧ t.side.rec_ = 0
        ∧ t.side.recoveredAt = some t.clk
        ∧ t.side.afterBusOff = !s.side.tx.isEmpty)
  ∧ (∀ (s : State),
      s.islandFed = true →
      ∃ t, exec .clockSourceChange s = .next t
        ∧ t.side = { s.side with peripheralClock := s.module.mainUp && s.time.pllLocked })
  ∧ (∀ (f : TxFrame) (s : State),
      lowestTx s.side.tx = some f →
      s.canSend = true →
      ∃ t, exec .canFrameSent s = .next t
        ∧ .can f.id f.data ∈ t.out
        ∧ t.side.tx = dropFirst (· == f) s.side.tx
        ∧ t.side.tec = s.side.tec - 1
        ∧ t.side.errorField = (if f.buffer = 17 then (f.entry :: s.side.errorField).take 8 else s.side.errorField))
  ∧ (∀ (f : TxFrame) (n : Nat) (s : State),
      s.side.tpdos.length = 4 →
      lowestTx s.side.tx = some f →
      s.canSend = true →
      f.buffer = 20 + n →
      n < 4 →
      ∃ t, exec .canFrameSent s = .next t
        ∧ .can f.id f.data ∈ t.out
        ∧ t.tpdo n = { s.tpdo n with sent := some f.data, sentAt := some t.clk, type := s.nat (obj (0x1800 + n) 2), inhibit := s.nat (obj (0x1800 + n) 3) }
        ∧ t.clk = s.clk)

/-- An expedited download writes its object and ends; the start of a longer one opens a transfer, its segments are held in order, and the last one
writes the object; a wrong toggle bit or a wrong CRC of a block ends it with the abort of CiA 301 (log entry 34); a gap of more than 1 s ends the
transfer with 0x0504_0000, as SDO_TIMEOUT does. An upload answers with the object's bytes, in the frame or in segments or blocks after it. SYNC
queues a synchronous TPDO that is due; an RPDO of wrong length is discarded, a synchronous one waits, one on receipt is written at once, and one
that a lock of the line host covers is counted in 0x2006:02. A changed event-driven TPDO is queued. EMCY_SEND loads the oldest frame; the
heartbeat is queued at its time, and a consumer that misses its node times out once. -/
def Obligations.SdoPdoResults : Prop :=
  (∀ (data : List Byte) (s : State),
      s.side.shaped →
      s.reachable .mgmt = true →
      s.side.sdo = none →
      data.length ≤ 4 →
      s.writable .mgmt (obj 0x2003 4) (valOfBytes (obj 0x2003 4) data) = true →
      ∃ t, exec (.sdoDownload 0x2003 4 false data .expedited) s = .next t
        ∧ t.val (obj 0x2003 4) = valOfBytes (obj 0x2003 4) data
        ∧ t.side.sdo = none
        ∧ ack .mgmt (obj 0x2003 4) ∈ t.out)
  ∧ (∀ (index sub : Nat) (complete : Bool) (size : Option Nat) (s : State),
      s.reachable .mgmt = true →
      s.side.sdo = none →
      index < 65536 →
      sub < 256 →
      ∃ t, exec (.sdoDownload index sub complete [] (.start size)) s = .next t
        ∧ t.side.sdo = some ⟨index, sub, complete && sub == 1, size, [], s.clk, .download false⟩
        ∧ t.od = s.od
        ∧ t.out = s.out)
  ∧ (∀ (toggle : Bool) (data : List Byte) (i j : Nat) (w : Bool) (x : SdoTransfer) (s : State),
      s.reachable .mgmt = true →
      s.side.sdo = some x →
      s.clk ≤ x.last + secTicks →
      x.stages = false →
      x.phase = .download toggle →
      ∃ t, exec (.sdoDownload i j w data (.segment toggle false)) s = .next t
        ∧ t.side.sdo = some { x with data := x.data ++ data.take 7, phase := .download (!toggle), last := s.clk }
        ∧ t.od = s.od
        ∧ t.out = s.out)
  ∧ (∀ (toggle : Bool) (data : List Byte) (i j : Nat) (w : Bool) (x : SdoTransfer) (d : List Byte) (s : State),
      s.side.shaped →
      s.reachable .mgmt = true →
      s.side.sdo = some x →
      s.clk ≤ x.last + secTicks →
      x.stages = false →
      x.phase = .download toggle →
      x.whole = false →
      obj x.index x.sub = obj 0x2003 4 →
      x.data ++ data.take 7 = d →
      x.total.getD d.length = d.length →
      s.writable .mgmt (obj 0x2003 4) (valOfBytes (obj 0x2003 4) d) = true →
      ∃ t, exec (.sdoDownload i j w data (.segment toggle true)) s = .next t
        ∧ t.val (obj 0x2003 4) = valOfBytes (obj 0x2003 4) d
        ∧ t.side.sdo = none
        ∧ ack .mgmt (obj 0x2003 4) ∈ t.out)
  ∧ (∀ (toggle last : Bool) (data : List Byte) (i j : Nat) (w : Bool) (x : SdoTransfer) (s : State),
      s.reachable .mgmt = true →
      s.side.sdo = some x →
      s.clk ≤ x.last + secTicks →
      x.phase = .download (!toggle) →
      ∃ t, exec (.sdoDownload i j w data (.segment toggle last)) s = .next t
        ∧ t.side.sdo = none
        ∧ t.out = .reply .mgmt (obj x.index x.sub / 256) (obj x.index x.sub % 256) abortToggle [] :: s.out
        ∧ t.od = s.od)
  ∧ (∀ (seq : Nat) (data : List Byte) (i j : Nat) (w : Bool) (x : SdoTransfer) (crc : Bool) (s : State),
      s.reachable .mgmt = true →
      s.side.sdo = some x →
      s.clk ≤ x.last + secTicks →
      x.stages = false →
      x.phase = .blockDownload crc seq →
      1 ≤ seq →
      seq < 127 →
      ∃ t, exec (.sdoDownload i j w data (.blockSegment seq false)) s = .next t
        ∧ t.side.sdo = some { x with data := x.data ++ data.take 7, phase := .blockDownload crc (seq + 1), last := s.clk }
        ∧ t.od = s.od
        ∧ t.out = s.out)
  ∧ (∀ (unused crcSent : Nat) (i j : Nat) (w : Bool) (x : SdoTransfer) (s : State),
      s.reachable .mgmt = true →
      s.side.sdo = some x →
      s.clk ≤ x.last + secTicks →
      x.phase = .blockDownloadEnd true →
      crcSent < 65536 →
      crcSent ≠ crc16From 0 (x.data.take (x.data.length - unused % 8)) →
      ∃ t, exec (.sdoDownload i j w [] (.blockEnd unused crcSent)) s = .next t
        ∧ t.side.sdo = none
        ∧ t.out = .reply .mgmt (obj x.index x.sub / 256) (obj x.index x.sub % 256) abortCrc [] :: s.out
        ∧ t.od = s.od)
  ∧ (∀ (r : SdoDown) (i j : Nat) (w : Bool) (x : SdoTransfer) (data : List Byte) (s : State),
      s.reachable .mgmt = true →
      s.side.sdo = some x →
      x.last + secTicks < s.clk →
      ∃ t, exec (.sdoDownload i j w data r) s = .next t
        ∧ t.side.sdo = none
        ∧ t.out = .reply .mgmt (obj x.index x.sub / 256) (obj x.index x.sub % 256) abortTimeout [] :: s.out
        ∧ t.od = s.od)
  ∧ (∀ (index sub : Nat) (d : List Byte) (s : State),
      s.reachable .mgmt = true →
      s.side.sdo = none →
      index < 65536 →
      sub < 256 →
      obj index sub ≠ obj 0x2D05 1 →
      (s.takeRx 2).checkRead .mgmt (obj index sub) = 0 →
      (s.takeRx 2).readBarred (obj index sub) = false →
      (s.takeRx 2).shownBytes .mgmt (obj index sub) = d →
      ∃ t, exec (.sdoUpload index sub (.start false)) s = .next t
        ∧ t.out = .reply .mgmt index sub 0 d :: s.out
        ∧ (t.side.sdo = (if 1 ≤ d.length ∧ d.length ≤ 4 then none else some ⟨index, sub, false, some d.length, d, s.clk, .upload false⟩))
        ∧ t.od = s.od)
  ∧ (∀ (toggle : Bool) (i j : Nat) (x : SdoTransfer) (s : State),
      s.reachable .mgmt = true →
      s.side.sdo = some x →
      s.clk ≤ x.last + secTicks →
      x.phase = .upload toggle →
      ∃ t, exec (.sdoUpload i j (.segment toggle)) s = .next t
        ∧ t.side.sdo = (if x.data.length ≤ 7 then none else some { x with data := x.data.drop 7, phase := .upload (!toggle), last := s.clk })
        ∧ t.out = s.out
        ∧ t.od = s.od)
  ∧ (∀ (seq size : Nat) (i j : Nat) (x : SdoTransfer) (crc : Bool) (acked sent : Nat) (s : State),
      s.reachable .mgmt = true →
      s.side.sdo = some x →
      s.clk ≤ x.last + secTicks →
      x.phase = .blockUpload crc acked sent →
      seq ≤ sent →
      1 ≤ size →
      size ≤ 127 →
      acked + seq = segmentsOf x.data →
      ∃ t, exec (.sdoUpload i j (.blockAck seq size)) s = .next t
        ∧ t.side.sdo = some { x with phase := .blockUploadEnd, last := s.clk }
        ∧ t.out = s.out
        ∧ t.od = s.od)
  ∧ (∀ (i j : Nat) (x : SdoTransfer) (s : State),
      s.reachable .mgmt = true →
      s.side.sdo = some x →
      s.clk ≤ x.last + secTicks →
      x.phase = .blockUploadEnd →
      ∃ t, exec (.sdoUpload i j .blockEnd) s = .next t
        ∧ t.side.sdo = none
        ∧ t.side.tx = s.side.tx
        ∧ t.out = s.out
        ∧ t.od = s.od)
  ∧ (∀ (x : SdoTransfer) (s : State),
      s.side.sdo = some x →
      s.clk ≤ x.last + secTicks + 1 →
      ∃ t, exec .sdoTimeout s = .next t
        ∧ t.clk = x.last + secTicks + 1
        ∧ t.side.sdo = none
        ∧ t.out = .reply .mgmt (obj x.index x.sub / 256) (obj x.index x.sub % 256) abortTimeout [] :: s.out
        ∧ t.od = s.od)
  ∧ (∀ (data : List Byte) (d : List Byte) (s : State),
      s.side.shaped →
      s.side.rpdos = [{}, {}, {}, {}] →
      s.side.tpdos.length = 4 →
      s.nodeUp = true →
      s.side.nmt = .operational →
      bitOf (s.nat (obj 0x1005 0)) 31 = false →
      data.length ≤ 1 →
      (s.takeRx 1).tpdoData 0 = some d →
      1 ≤ s.nat (obj 0x1800 2) →
      s.nat (obj 0x1800 2) ≤ (s.tpdo 0).syncs + 1 →
      s.nat (obj 0x1800 2) ≤ 240 →
      s.pdoRuns (obj 0x1801 1) = false →
      s.pdoRuns (obj 0x1802 1) = false →
      s.pdoRuns (obj 0x1803 1) = false →
      s.side.tx = [] →
      ∃ t, exec (.syncFrame data) s = .next t
        ∧ t.side.tx = [{ buffer := 20, id := bits (s.nat (obj 0x1800 1)) 10 0, data := d }]
        ∧ t.tpdo 0 = { s.tpdo 0 with type := s.nat (obj 0x1800 2), inhibit := s.nat (obj 0x1800 3), syncs := 0 })
  ∧ (∀ (n : Fin 4) (data : List Byte) (s : State),
      s.nodeUp = true →
      s.pdoRuns (obj (0x1400 + n) 1) = true →
      sumN ((s.mapping (0x1600 + n)).map (·.2)) ≠ data.length →
      ∃ t, exec (.rpdo n data) s = .next t
        ∧ t.side.rpdos = s.side.rpdos
        ∧ t.drive = s.drive
        ∧ t.module = s.module
        ∧ t.power = s.power)
  ∧ (∀ (n : Fin 4) (data : List Byte) (s : State),
      s.nodeUp = true →
      s.side.rpdos.length = 4 →
      s.pdoRuns (obj (0x1400 + n) 1) = true →
      sumN ((s.mapping (0x1600 + n)).map (·.2)) = data.length →
      (s.rpdo n).type ≤ 240 →
      ∃ t, exec (.rpdo n data) s = .next t
        ∧ t.side.rpdos = s.side.rpdos.set n { waiting := some data, type := s.nat (obj (0x1400 + n) 2) }
        ∧ t.od = s.od)
  ∧ (∀ (n : Fin 4) (data : List Byte) (s : State),
      s.nodeUp = true →
      s.pdoRuns (obj (0x1400 + n) 1) = true →
      s.mapping (0x1600 + n) = [(obj 0x2003 4, 2)] →
      data.length = 2 →
      240 < (s.rpdo n).type →
      s.module.mainUp = true →
      s.lockedBy .host (obj 0x2003 4) = false →
      s.checkWrite s.nat .mgmt (obj 0x2003 4) (valOfBytes (obj 0x2003 4) data) = 0 →
      ∃ t, exec (.rpdo n data) s = .next t
        ∧ t.val (obj 0x2003 4) = valOfBytes (obj 0x2003 4) data)
  ∧ (∀ (n : Fin 4) (data : List Byte) (s : State),
      s.nodeUp = true →
      s.pdoRuns (obj (0x1400 + n) 1) = true →
      sumN ((s.mapping (0x1600 + n)).map (·.2)) = data.length →
      240 < (s.rpdo n).type →
      s.module.mainUp = true →
      (s.mapping (0x1600 + n)).any (fun e => s.lockedBy .host e.1) = true →
      ∃ t, exec (.rpdo n data) s = .next t
        ∧ t.nat (obj 0x2006 2) = s.counted (obj 0x2006 2)
        ∧ t.drive = s.drive
        ∧ t.module = s.module)
  ∧ (∀ (n : Fin 4) (d : List Byte) (s : State),
      s.side.tpdos.length = 4 →
      s.tpdoData n = some d →
      240 < (s.tpdo n).type →
      (s.tpdo n).sent ≠ some d →
      (s.tpdo n).sentAt = none →
      s.side.tx.all (fun f => f.buffer != 20 + n) = true →
      s.side.nodeId ≠ 0xFF →
      ∃ t, exec (.tpdoEventTimer n) s = .next t
        ∧ t.side.tx = s.side.tx ++ [{ buffer := 20 + n, id := bits (s.nat (obj (0x1800 + n) 1)) 10 0, data := d }]
        ∧ t.tpdo n = s.tpdo n
        ∧ t.clk = s.clk)
  ∧ (∀ (e : Emcy) (r : List Emcy) (s : State),
      s.side.emcy = e :: r →
      s.nodeUp = true →
      s.side.nmt.served = true →
      bitOf (s.nat (obj 0x1014 0)) 31 = false →
      s.side.tx.all (fun f => f.buffer != 17) = true →
      s.side.emcyAt = none →
      ∃ t, exec .emcySend s = .next t
        ∧ t.side.emcy = r
        ∧ t.side.tx = s.side.tx ++ [{ buffer := 17, id := bits (s.nat (obj 0x1014 0)) 10 0, entry := e.code * 65536 + e.generic, data := leBytes 2 e.generic ++ leBytes 1 (if e.code = 0xB00C then 0 else s.errorRegister) ++ leBytes 2 e.code ++ leBytes 1 e.severity ++ leBytes 2 e.arg }]
        ∧ t.od = s.od)
  ∧ (∀ (s : State),
      s.canFed = true →
      s.nat (obj 0x1017 0) ≠ 0 →
      s.side.nodeId ≠ 0xFF →
      s.side.nmt ≠ .initialisation →
      s.clk ≤ s.side.heartbeatAt + s.nat (obj 0x1017 0) * msTicks →
      s.side.tx = [] →
      ∃ t, exec .heartbeatProduce s = .next t
        ∧ t.clk = s.side.heartbeatAt + s.nat (obj 0x1017 0) * msTicks
        ∧ t.side.heartbeatAt = t.clk
        ∧ t.side.tx = [{ buffer := 18, id := 0x700 + s.side.nodeId, data := leBytes 1 s.side.nmt.code }])
  ∧ (∀ (entry : Fin 4) (u : Nat) (s : State),
      s.side.shaped →
      s.canFed = true →
      bits (s.nat (obj 0x1016 (entry + 1))) 15 0 ≠ 0 →
      (s.side.consumers.getD entry {}).timedOut = false →
      s.side.nodeId ≠ 0xFF →
      (s.side.consumers.getD entry {}).heard = some u →
      (s.side.consumers.getD entry {}).written ≤ u →
      s.clk ≤ u + bits (s.nat (obj 0x1016 (entry + 1))) 15 0 * msTicks →
      ∃ t, exec (.heartbeatConsumerTimeout entry) s = .next t
        ∧ t.clk = u + bits (s.nat (obj 0x1016 (entry + 1))) 15 0 * msTicks
        ∧ t.side.consumers.getD entry {} = { s.side.consumers.getD entry {} with timedOut := true })

/-- Switch global enters or leaves configuration; switch selective with the LSS address enters it and answers. In configuration: a node-ID of 1 to
127 or 0xFF and a supported bit timing become pending and are answered with 0; activate stops transmission for the delay, after the first delay
CANBT is loaded, after the second transmission resumes; store keeps the pending values; inquiries answer the LSS address and the node-ID.
Identify remote slave answers where the address lies in the ranges, identify non-configured while the node-ID is 0xFF, and Fastscan while the
bits checked agree. The codes are those of CiA 305 (log entry 35). -/
def Obligations.LssResults : Prop :=
  (∀ (mode : Nat) (s : State),
      s.canSend = true →
      mode ≤ 1 →
      ∃ t, exec (.lssSwitchGlobal mode) s = .next t
        ∧ t.side.lssConfig = decide (mode = 1)
        ∧ t.side.tx = s.side.tx
        ∧ t.od = s.od)
  ∧ (∀ (s : State),
      s.canSend = true →
      ∃ t, exec (.lssSwitchSelective (s.lssAddress 0) (s.lssAddress 1) (s.lssAddress 2) (s.lssAddress 3)) s = .next t
        ∧ t.side.lssConfig = true
        ∧ t.side.tx = s.side.tx ++ [{ buffer := 19, id := 0x7E4, data := leBytes 1 (0x44) ++ (([] : List Byte) ++ List.replicate 7 0#8).take 7 }])
  ∧ (∀ (node : Nat) (s : State),
      s.canSend = true →
      s.side.lssConfig = true →
      1 ≤ node ∧ node ≤ 127 ∨ node = 0xFF →
      ∃ t, exec (.lssConfigureNodeId node) s = .next t
        ∧ t.side.pendingId = node
        ∧ t.side.nodeId = s.side.nodeId
        ∧ t.side.tx = s.side.tx ++ [{ buffer := 19, id := 0x7E4, data := leBytes 1 (0x11) ++ ([0#8] ++ List.replicate 7 0#8).take 7 }])
  ∧ (∀ (table index : Nat) (s : State),
      s.canSend = true →
      s.side.lssConfig = true →
      timingOk table index = true →
      ∃ t, exec (.lssConfigureBitTiming table index) s = .next t
        ∧ t.side.pendingEntry = (table, index)
        ∧ t.side.canbt = s.side.canbt
        ∧ t.side.tx = s.side.tx ++ [{ buffer := 19, id := 0x7E4, data := leBytes 1 (0x13) ++ ([0#8] ++ List.replicate 7 0#8).take 7 }])
  ∧ (∀ (delay : Nat) (s : State),
      s.canSend = true →
      s.side.lssConfig = true →
      delay < 65536 →
      ∃ t, exec (.lssActivateBitTiming delay) s = .next t
        ∧ t.side.switching = some (s.clk + delay * msTicks, delay * msTicks, false)
        ∧ t.canSend = false)
  ∧ (∀ (u d : Nat) (s : State),
      s.side.switching = some (u, d, false) →
      s.clk ≤ u →
      ∃ t, exec .lssSwitchDelayEnd s = .next t
        ∧ t.clk = u
        ∧ t.side.canbt = canbtOf s.side.pendingEntry
        ∧ t.side.switching = some (u + d, d, true))
  ∧ (∀ (u d : Nat) (s : State),
      s.side.switching = some (u, d, true) →
      s.clk ≤ u →
      ∃ t, exec .lssSwitchDelayEnd s = .next t
        ∧ t.clk = u
        ∧ t.side.canbt = s.side.canbt
        ∧ t.side.switching = none)
  ∧ (∀ (s : State),
      s.canSend = true →
      s.side.lssConfig = true →
      ∃ t, exec (.lssStoreConfiguration true) s = .next t
        ∧ t.side.storedId = s.side.pendingId
        ∧ t.side.storedEntry = s.side.pendingEntry
        ∧ t.side.tx = s.side.tx ++ [{ buffer := 19, id := 0x7E4, data := leBytes 1 (0x17) ++ ([0#8] ++ List.replicate 7 0#8).take 7 }])
  ∧ (∀ (s : State),
      s.canSend = true →
      s.side.lssConfig = true →
      ∃ t, exec .lssInquireVendorId s = .next t
        ∧ t.side.tx = s.side.tx ++ [{ buffer := 19, id := 0x7E4, data := leBytes 1 (0x5A + 0) ++ (leBytes 4 (s.lssAddress 0) ++ List.replicate 7 0#8).take 7 }]
        ∧ t.od = s.od)
  ∧ (∀ (s : State),
      s.canSend = true →
      s.side.lssConfig = true →
      ∃ t, exec .lssInquireProductCode s = .next t
        ∧ t.side.tx = s.side.tx ++ [{ buffer := 19, id := 0x7E4, data := leBytes 1 (0x5A + 1) ++ (leBytes 4 (s.lssAddress 1) ++ List.replicate 7 0#8).take 7 }]
        ∧ t.od = s.od)
  ∧ (∀ (s : State),
      s.canSend = true →
      s.side.lssConfig = true →
      ∃ t, exec .lssInquireRevision s = .next t
        ∧ t.side.tx = s.side.tx ++ [{ buffer := 19, id := 0x7E4, data := leBytes 1 (0x5A + 2) ++ (leBytes 4 (s.lssAddress 2) ++ List.replicate 7 0#8).take 7 }]
        ∧ t.od = s.od)
  ∧ (∀ (s : State),
      s.canSend = true →
      s.side.lssConfig = true →
      ∃ t, exec .lssInquireSerial s = .next t
        ∧ t.side.tx = s.side.tx ++ [{ buffer := 19, id := 0x7E4, data := leBytes 1 (0x5A + 3) ++ (leBytes 4 (s.lssAddress 3) ++ List.replicate 7 0#8).take 7 }]
        ∧ t.od = s.od)
  ∧ (∀ (s : State),
      s.canSend = true →
      s.side.lssConfig = true →
      ∃ t, exec .lssInquireNodeId s = .next t
        ∧ t.side.tx = s.side.tx ++ [{ buffer := 19, id := 0x7E4, data := leBytes 1 (0x5E) ++ (leBytes 1 s.side.nodeId ++ List.replicate 7 0#8).take 7 }]
        ∧ t.od = s.od)
  ∧ (∀ (revLow revHigh serLow serHigh : Nat) (s : State),
      s.canSend = true →
      revLow ≤ s.lssAddress 2 →
      s.lssAddress 2 ≤ revHigh →
      serLow ≤ s.lssAddress 3 →
      s.lssAddress 3 ≤ serHigh →
      ∃ t, exec (.lssIdentifyRemoteSlave (s.lssAddress 0) (s.lssAddress 1) revLow revHigh serLow serHigh) s = .next t
        ∧ t.side.tx = s.side.tx ++ [{ buffer := 19, id := 0x7E4, data := leBytes 1 (0x4F) ++ (([] : List Byte) ++ List.replicate 7 0#8).take 7 }]
        ∧ t.side.lssConfig = s.side.lssConfig)
  ∧ (∀ (s : State),
      s.canSend = true →
      s.side.nodeId = 0xFF →
      ∃ t, exec .lssIdentifyNonConfigured s = .next t
        ∧ t.side.tx = s.side.tx ++ [{ buffer := 19, id := 0x7E4, data := leBytes 1 (0x50) ++ (([] : List Byte) ++ List.replicate 7 0#8).take 7 }]
        ∧ t.side.lssConfig = s.side.lssConfig)
  ∧ (∀ (number bitCheck sub next : Nat) (s : State),
      s.canSend = true →
      s.side.nodeId = 0xFF →
      s.side.lssConfig = false →
      bitCheck ≤ 31 →
      sub ≤ 3 →
      sub = s.side.lssPos →
      next < 4 →
      number % 2 ^ 32 / 2 ^ bitCheck = s.lssAddress sub / 2 ^ bitCheck →
      ∃ t, exec (.lssFastscan number bitCheck sub next) s = .next t
        ∧ t.side.lssPos = next
        ∧ (t.side.lssConfig = decide (bitCheck = 0 ∧ next < sub))
        ∧ t.side.tx = s.side.tx ++ [{ buffer := 19, id := 0x7E4, data := leBytes 1 (0x4F) ++ (([] : List Byte) ++ List.replicate 7 0#8).take 7 }])

/-- CH_START takes the descriptor at CH_NEXT: an empty FIFO runs it at once, a misplaced one is error 1, and a busy channel ignores it. CH_APPEND
sets the flag of a busy channel, is counted where the end still stands, takes the next descriptor of a new link, and is ignored else. CH_ABORT
leaves the FIFO in ABORTED after the bytes of the burst in progress. CH_NEXT and CH_IRQ take their bits. DESCRIPTOR_COMPLETE moves the bytes left
from DDR to DDR within pages, counts them and the descriptor; a source that is no place stops the channel with cause 4. A requestor that asserts,
by its command or by the state of its trace buffer, readies and resumes its channels, one that withdraws makes the head wait, and a wait beyond
0x2F00:05 is error 6. -/
def Obligations.DmaResults : Prop :=
  (∀ (c : Fin 16) (d : Descriptor) (s : State),
      s.dma.shaped →
      s.module.mainUp = true →
      (s.chan c).free = true →
      (s.chan c).next % 32 = 0 →
      inDdr (s.chan c).next 32 = true →
      d = s.readDescriptor (s.chan c).next →
      d.malformed = false →
      bits d.control 27 24 = 0 →
      d.count ≠ 0 →
      s.dma.fifo = [] →
      ∃ t, exec (.chStart ⟨c, false⟩) s = .next t
        ∧ t.chan c = { s.chan c with state := .active, cause := 0, append := false, done := 0, own := false, cur := (s.chan c).next, remain := d.count, desc := d }
        ∧ t.dma.fifo = [c.val]
        ∧ t.od = s.od
        ∧ t.mem = s.mem)
  ∧ (∀ (c : Fin 16) (bad : Bool) (s : State),
      s.dma.shaped →
      s.module.mainUp = true →
      (s.chan c).free = true →
      ¬((s.chan c).next % 32 = 0 ∧ inDdr (s.chan c).next 32 = true) →
      s.dma.fifo = [] →
      ∃ t, exec (.chStart ⟨c, bad⟩) s = .next t
        ∧ (t.chan c).state = .error
        ∧ (t.chan c).cause = 1
        ∧ (t.chan c).pending = true
        ∧ t.mem = s.mem
        ∧ t.nat (obj 0x2F00 3) = s.counted (obj 0x2F00 3))
  ∧ (∀ (c : Fin 16) (bad : Bool) (s : State),
      s.module.mainUp = true →
      (s.chan c).free = false →
      ∃ t, exec (.chStart ⟨c, bad⟩) s = .next t
        ∧ t = s)
  ∧ (∀ (c : Fin 16) (moved : Burst) (data : List Byte) (s : State),
      s.dma.shaped →
      s.module.mainUp = true →
      (s.chan c).free = false →
      (s.chan c).state ≠ .active →
      ∃ t, exec (.chAbort c moved data) s = .next t
        ∧ t.chan c = { s.chan c with state := .aborted }
        ∧ t.dma.fifo = t.dma.fifo.filter (· != c.val)
        ∧ t.mem = s.mem)
  ∧ (∀ (c : Fin 16) (data : List Byte) (s : State),
      s.dma.shaped →
      s.module.mainUp = true →
      (s.chan c).state = .active →
      ∃ t, exec (.chAbort c ⟨0, none⟩ data) s = .next t
        ∧ t.chan c = { s.chan c with state := .aborted }
        ∧ t.dma.fifo = t.dma.fifo.filter (· != c.val)
        ∧ t.mem = s.mem)
  ∧ (∀ (c : Fin 16) (data : List Byte) (s : State),
      s.dma.shaped →
      s.module.mainUp = true →
      (s.chan c).state = .active →
      (s.chan c).own = false →
      (s.chan c).requestor ≠ 1 →
      c.val < 8 →
      (s.chan c).remain = (s.chan c).desc.count →
      (s.chan c).remain ≠ 0 →
      bits (s.chan c).desc.control 1 0 = 0 →
      (s.chan c).desc.src < ddrEnd →
      (s.chan c).desc.dst < ddrEnd →
      (s.chan c).desc.src % 4096 + (s.chan c).desc.count ≤ 4096 →
      (s.chan c).desc.dst % 4096 + (s.chan c).desc.count ≤ 4096 →
      ∃ t, exec (.chAbort c ⟨(s.chan c).remain, none⟩ data) s = .next t
        ∧ (t.chan c).state = .aborted
        ∧ (t.chan c).remain = 0
        ∧ (t.chan c).done = (s.chan c).done
        ∧ t.mem = Mem.writeAll s.mem (s.chan c).desc.dst (s.memRead (s.chan c).desc.src (s.chan c).desc.count))
  ∧ (∀ (c : Fin 16) (bad : Bool) (s : State),
      s.dma.shaped →
      s.module.mainUp = true →
      (s.chan c).free = false →
      ∃ t, exec (.chAppend ⟨c, bad⟩) s = .next t
        ∧ t.chan c = { s.chan c with append := true }
        ∧ t.dma.fifo = s.dma.fifo
        ∧ t.od = s.od)
  ∧ (∀ (c : Fin 16) (s : State),
      s.module.mainUp = true →
      (s.chan c).state = .stoppedEnd →
      ofLe (s.memRead ((s.chan c).cur + 24) 8) % 2 = 1 →
      ∃ t, exec (.chAppend ⟨c, false⟩) s = .next t
        ∧ t.dma = s.dma
        ∧ t.nat (obj 0x2F00 8) = s.counted (obj 0x2F00 8))
  ∧ (∀ (c : Fin 16) (a : Nat) (d : Descriptor) (s : State),
      s.dma.shaped →
      s.module.mainUp = true →
      (s.chan c).state = .stoppedEnd →
      ofLe (s.memRead ((s.chan c).cur + 24) 8) = a →
      a % 32 = 0 →
      inDdr a 32 = true →
      d = s.readDescriptor a →
      d.malformed = false →
      bits d.control 27 24 = 0 →
      d.count ≠ 0 →
      s.dma.fifo = [] →
      ∃ t, exec (.chAppend ⟨c, false⟩) s = .next t
        ∧ t.chan c = { s.chan c with state := .active, cur := a, remain := d.count, desc := d }
        ∧ t.dma.fifo = [c.val]
        ∧ t.od = s.od
        ∧ t.mem = s.mem)
  ∧ (∀ (c : Fin 16) (bad : Bool) (s : State),
      s.module.mainUp = true →
      (s.chan c).state = .idle ∨ (s.chan c).state = .error ∨ (s.chan c).state = .aborted →
      ∃ t, exec (.chAppend ⟨c, bad⟩) s = .next t
        ∧ t = s)
  ∧ (∀ (c : Fin 16) (value : Nat) (s : State),
      s.dma.shaped →
      s.module.mainUp = true →
      (s.chan c).free = true →
      ∃ t, exec (.chNextWrite c value) s = .next t
        ∧ t.chan c = { s.chan c with next := value % 2 ^ 40 / 32 * 32 }
        ∧ t.dma.fifo = s.dma.fifo
        ∧ t.mem = s.mem)
  ∧ (∀ (c : Fin 16) (value : Nat) (s : State),
      s.module.mainUp = true →
      (s.chan c).free = false →
      ∃ t, exec (.chNextWrite c value) s = .next t
        ∧ t = s)
  ∧ (∀ (c : Fin 16) (s : State),
      s.dma.shaped →
      s.module.mainUp = true →
      ∃ t, exec (.chIrqClear c) s = .next t
        ∧ t.chan c = { s.chan c with pending := false }
        ∧ t.dma.fifo = s.dma.fifo)
  ∧ (∀ (c : Fin 16) (unmask : Bool) (s : State),
      s.dma.shaped →
      s.module.mainUp = true →
      ∃ t, exec (.chIrqUnmask c unmask) s = .next t
        ∧ t.chan c = { s.chan c with unmask := unmask }
        ∧ t.dma.fifo = s.dma.fifo)
  ∧ (∀ (data : List Byte) (c : Fin 16) (r : List Nat) (m : List Host.Cell) (s : State),
      s.dma.shaped →
      s.dma.fifo = c.val :: r →
      (s.chan c).state = .active →
      (s.chan c).own = false →
      (s.chan c).requestor ≠ 1 →
      c.val < 8 →
      (s.chan c).remain = (s.chan c).desc.count →
      (s.chan c).remain ≠ 0 →
      bits (s.chan c).desc.control 1 0 = 0 →
      (s.chan c).desc.src < ddrEnd →
      (s.chan c).desc.dst < ddrEnd →
      (s.chan c).desc.src % 4096 + (s.chan c).desc.count ≤ 4096 →
      (s.chan c).desc.dst % 4096 + (s.chan c).desc.count ≤ 4096 →
      Mem.writeAll s.mem (s.chan c).desc.dst (s.memRead (s.chan c).desc.src (s.chan c).desc.count) = m →
      ofLe (({ s with mem := m } : State).memRead ((s.chan c).cur + 24) 8) % 2 = 1 →
      ∃ t, exec (.descriptorComplete data none) s = .next t
        ∧ t.mem = m
        ∧ (t.chan c).state = .stoppedEnd
        ∧ (t.chan c).remain = 0
        ∧ (t.chan c).done = ((s.chan c).done + 1) % 2 ^ 32
        ∧ t.nat (obj 0x2F00 2) = min (maxOf (obj 0x2F00 2)) (s.nat (obj 0x2F00 2) + (s.chan c).desc.count)
        ∧ t.nat (obj 0x2F01 (c.val + 1)) = s.counted (obj 0x2F01 (c.val + 1)))
  ∧ (∀ (data : List Byte) (c : Fin 16) (s : State),
      s.dma.shaped →
      s.dma.fifo = [c.val] →
      (s.chan c).state = .active →
      (s.chan c).own = false →
      (s.chan c).requestor ≠ 1 →
      (s.chan c).remain = (s.chan c).desc.count →
      (s.chan c).remain ≠ 0 →
      placeOf (s.chan c).desc.src = .unmapped →
      s.dma.channels.all (fun x => x.state != .pending) = true →
      ∃ t, exec (.descriptorComplete data none) s = .next t
        ∧ t.mem = s.mem
        ∧ (t.chan c).state = .error
        ∧ (t.chan c).cause = 4
        ∧ (t.chan c).pending = true
        ∧ t.nat (obj 0x2F00 3) = s.counted (obj 0x2F00 3))
  ∧ (∀ (code : Nat) (s : State),
      s.dma.shaped →
      s.module.mainUp = true →
      outside code = true →
      ∃ t, exec (.requestorAssert code) s = .next t
        ∧ t.dma.requests = code :: s.dma.requests.filter (· != code)
        ∧ (∀ c : Fin 16, (s.chan c).requestor = code → (s.chan c).state = .waiting → (s.chan c).remain ≠ 0 → (t.chan c).state = .active)
        ∧ (∀ c : Fin 16, (s.chan c).requestor = code → (s.chan c).state = .pending → (s.chan c).remain ≠ 0 → c.val ∈ t.dma.fifo))
  ∧ (∀ (code : Nat) (s : State),
      s.dma.shaped →
      s.module.mainUp = true →
      3 ≤ code →
      code ≤ 6 →
      (s.trace (code - 3)).state = 4 →
      ∃ t, exec (.requestorAssert code) s = .next t
        ∧ t.dma.requests = s.dma.requests
        ∧ (∀ c : Fin 16, (s.chan c).requestor = code → (s.chan c).state = .waiting → (s.chan c).remain ≠ 0 → (t.chan c).state = .active)
        ∧ (∀ c : Fin 16, (s.chan c).requestor = code → (s.chan c).state = .pending → (s.chan c).remain ≠ 0 → c.val ∈ t.dma.fifo))
  ∧ (∀ (code : Nat) (bad : Option Nat) (data : List Byte) (c : Fin 16) (r : List Nat) (s : State),
      s.dma.shaped →
      outside code = true →
      s.dma.fifo = c.val :: r →
      (s.chan c).requestor = code →
      (s.chan c).state = .active →
      (s.chan c).remain ≠ 0 →
      ∃ t, exec (.requestorWithdraw code ⟨0, bad⟩ data) s = .next t
        ∧ t.chan c = { s.chan c with state := .waiting, since := s.clk }
        ∧ t.dma.requests = s.dma.requests.filter (· != code)
        ∧ t.dma.fifo = s.dma.fifo
        ∧ t.mem = s.mem)
  ∧ (∀ (code : Nat) (moved : Burst) (data : List Byte) (s : State),
      s.dma.fifo = [] →
      outside code = true →
      ∃ t, exec (.requestorWithdraw code moved data) s = .next t
        ∧ t = { s with dma := { s.dma with requests := s.dma.requests.filter (· != code) } })
  ∧ (∀ (c : Fin 16) (s : State),
      s.dma.shaped →
      s.dma.fifo = [c.val] →
      (s.chan c).state = .waiting →
      s.clk ≤ (s.chan c).since + s.nat (obj 0x2F00 5) * usTicks →
      ∃ t, exec .dmaStall s = .next t
        ∧ t.clk = (s.chan c).since + s.nat (obj 0x2F00 5) * usTicks
        ∧ (t.chan c).state = .error
        ∧ (t.chan c).cause = 6
        ∧ t.mem = s.mem
        ∧ t.nat (obj 0x2F00 4) = s.counted (obj 0x2F00 4)
        ∧ t.nat (obj 0x2F00 3) = s.counted (obj 0x2F00 3))

/-- RECORD_WRITE_DONE gives the record its closing sequence and counts it held. TALLY_SAMPLE comes 1 s after the last and starts the line and
sighting counts anew. A legal write of 0x2D01 is held for the next trigger, a counter slot that names no saturating UNSIGNED32 counter is
refused. A sequence held selects its slot, any other is refused. An export is accepted for a DDR range while none runs and, once no record is
written and channel C3 has come to it, puts header and slots there. The challenge replaces the master's earlier one; a wrong response is refused,
counted and voids it, a right one frees every slot; the lock ends after 10 min. -/
def Obligations.RecorderResults : Prop :=
  (∀ (w : RecWrite) (r : Record) (s : State),
      s.recorder.writing = some w →
      s.recorder.slots.length ≤ 2000 →
      assocGet s.recorder.slots w.slot = some r →
      s.recorder.waitDown = none →
      s.recorder.clearing = none →
      s.recorder.waitForced = none →
      s.recorder.waitHour = false →
      ∃ t, exec .recordWriteDone s = .next t
        ∧ t.recorder.writing = none
        ∧ t.recorder.slots = assocSet s.recorder.slots w.slot { r with closing := r.seq }
        ∧ t.recorder.header.newest = r.seq
        ∧ t.recorder.header.newestSlot = w.slot
        ∧ t.recorder.header.held = (assocSet s.recorder.slots w.slot { r with closing := r.seq }).length
        ∧ t.recorder.header.seq = (s.recorder.header.seq + 1) % 2 ^ 32
        ∧ t.od = s.od)
  ∧ (∀ (s : State),
      s.module.mainUp = true →
      s.clk ≤ s.recorder.lastSample + secTicks →
      ∃ t, exec .tallySample s = .next t
        ∧ t.clk = s.recorder.lastSample + secTicks
        ∧ t.recorder.lastSample = t.clk
        ∧ t.recorder.lines = [0, 0, 0, 0]
        ∧ t.recorder.sightings = 0
        ∧ t.od = s.od
        ∧ t.recorder.slots = s.recorder.slots)
  ∧ (∀ (m : Master) (sub n : Nat) (s : State),
      s.writable m (obj 0x2D01 sub) (.num n) = true →
      sub < 0x19 →
      ∃ t, exec (.tallyConfigWrite m sub (.num n)) s = .next t
        ∧ t.val (obj 0x2D01 sub) = .num n
        ∧ t.recorder = { s.recorder with cfgDirty := true }
        ∧ t.out = ack m (obj 0x2D01 sub) :: s.out)
  ∧ (∀ (m : Master) (sub n : Nat) (s : State),
      s.reachable m = true →
      s.check0 m (obj 0x2D01 sub) = true →
      0x11 ≤ sub →
      sub ≤ 0x18 →
      n < 2 ^ 32 →
      counterSlotOk n = false →
      ∃ t, exec (.tallyConfigWrite m sub (.num n)) s = .next t
        ∧ t = { s with out := .reply m 0x2D01 sub abortRange [] :: s.out })
  ∧ (∀ (m : Master) (seq : Nat) (p : Nat × Record) (s : State),
      s.writable m (obj 0x2D03 3) (.num seq) = true →
      s.recorder.selected.length = 2 →
      s.recorder.slots.find? (fun p => p.2.seq == seq) = some p →
      ∃ t, exec (.selectBySequence m seq) s = .next t
        ∧ t.recorder = { s.recorder with selected := s.recorder.selected.set (masterIx m) p.1 }
        ∧ t.out = ack m (obj 0x2D03 3) :: s.out)
  ∧ (∀ (m : Master) (seq : Nat) (s : State),
      s.writable m (obj 0x2D03 3) (.num seq) = true →
      s.recorder.slots.find? (fun p => p.2.seq == seq) = none →
      ∃ t, exec (.selectBySequence m seq) s = .next t
        ∧ t.recorder = s.recorder
        ∧ t.out = .reply m 0x2D03 3 abortRange [] :: s.out)
  ∧ (∀ (m : Master) (address : Nat) (s : State),
      s.writable m (obj 0x2D04 2) (.num address) = true →
      s.module.mainUp = true →
      inDdr address 512064 = true →
      ∃ t, exec (.exportLog m address) s = .next t
        ∧ t.recorder.exporting = s.recorder.exporting.or (some address)
        ∧ t.out = .reply m 0x2D04 2 (if s.recorder.exporting.isSome then abortState else 0) [] :: s.out
        ∧ t.mem = s.mem)
  ∧ (∀ (m : Master) (address : Nat) (s : State),
      s.writable m (obj 0x2D04 2) (.num address) = true →
      inDdr address 512064 = false →
      ∃ t, exec (.exportLog m address) s = .next t
        ∧ t.recorder = s.recorder
        ∧ t.out = .reply m 0x2D04 2 abortRange [] :: s.out)
  ∧ (∀ (a : Nat) (s : State),
      s.recorder.exporting = some a →
      s.module.mainUp = true →
      s.recorder.writing = none →
      s.fwBarred 3 = false →
      ∃ t, exec .exportDone s = .next t
        ∧ t.mem = Mem.writeAll s.mem a (s.recorder.header.bytes ++ (List.range 2000).flatMap s.slotBytes)
        ∧ t.recorder.exporting = none
        ∧ t.recorder.exportState = 2
        ∧ t.recorder.slots = s.recorder.slots)
  ∧ (∀ (m : Master) (s : State),
      s.reachable m = true →
      s.checkRead m (obj 0x2D05 1) = 0 →
      s.clearLocked = false →
      ∃ t, exec (.clearChallenge m) s = .next t
        ∧ t.recorder = { s.recorder with challenges := s.recorder.challenges.set (masterIx m) (some (Config.challenge s.freeCtr % 2 ^ 64, s.clk)) }
        ∧ t.freeCtr = s.freeCtr + 1
        ∧ t.out = .reply m 0x2D05 1 0 (leBytes 8 (Config.challenge s.freeCtr % 2 ^ 64)) :: s.out)
  ∧ (∀ (m : Master) (s : State),
      s.reachable m = true →
      s.checkRead m (obj 0x2D05 1) = 0 →
      s.clearLocked = true →
      ∃ t, exec (.clearChallenge m) s = .next t
        ∧ t.recorder = s.recorder
        ∧ t.out = .reply m 0x2D05 1 abortState [] :: s.out)
  ∧ (∀ (m : Master) (response : List Byte) (s : State),
      s.writable m (obj 0x2D05 2) (.bytes response) = true →
      s.clearLocked = false →
      s.recorder.exporting = none →
      s.power.seqAt = none →
      s.recorder.clearing = none →
      s.responseRight m response = false →
      ∃ t, exec (.clearResponse m response) s = .next t
        ∧ t.recorder.challenges = s.recorder.challenges.set (masterIx m) none
        ∧ t.out.head? = some (.reply m 0x2D05 2 abortData [])
        ∧ t.nat (obj 0x2D05 4) = s.counted (obj 0x2D05 4)
        ∧ (t.recorder.slots = s.recorder.slots ∨ 2 ≤ s.recorder.refusals.length)
        ∧ t.mem = s.mem)
  ∧ (∀ (m : Master) (response : List Byte) (s : State),
      s.writable m (obj 0x2D05 2) (.bytes response) = true →
      ¬(s.clearLocked = false ∧ s.recorder.exporting = none ∧ s.power.seqAt = none ∧ s.recorder.clearing = none) →
      ∃ t, exec (.clearResponse m response) s = .next t
        ∧ t.recorder = s.recorder
        ∧ t.out = .reply m 0x2D05 2 abortState [] :: s.out)
  ∧ (∀ (m : Master) (response : List Byte) (s : State),
      s.writable m (obj 0x2D05 2) (.bytes response) = true →
      s.clearLocked = false →
      s.recorder.exporting = none →
      s.power.seqAt = none →
      s.recorder.clearing = none →
      s.responseRight m response = true →
      s.recorder.writing = none →
      ∃ t, exec (.clearResponse m response) s = .next t
        ∧ t.recorder.slots.map Prod.fst = [0]
        ∧ t.recorder.header.clears = satAdd max32 1 s.recorder.header.clears
        ∧ t.recorder.nextSeq = (s.recorder.nextSeq + 1) % 2 ^ 32
        ∧ t.recorder.clearReply = some m)
  ∧ (∀ (u : Nat) (s : State),
      s.recorder.lockedAt = some u →
      s.clk ≤ u + 600 * secTicks →
      ∃ t, exec .clearLockExpiry s = .next t
        ∧ t.clk = u + 600 * secTicks
        ∧ t.recorder = { s.recorder with lockedAt := none }
        ∧ t.od = s.od)

/-- Bytes of an image in order fill the staging bank, the last of them starts verification; bytes out of order end the transfer, as more than 10 s
without a byte does (0x2E06:06). VERIFY_DONE shows the first check that failed, or state 3. Each update command acts in the states that allow it
and is refused in the others: verify again, mark pending, with a restart, cancel, restart from staging in Recovery, stage from DDR. Each copied
block is marked; the last one after the watch, and the watch's end after the last one, confirm the image. A library slot holds a valid image or
reads empty. -/
def Obligations.UpdateResults : Prop :=
  (∀ (m : Master) (total : Nat) (data : List Byte) (s : State),
      s.writable m (obj 0x2E01 1) (.bytes data) = true →
      s.power.seqAt = none →
      s.flashUp = true →
      s.update.st = 0 ∨ s.update.st = 3 ∨ s.update.st = 6 →
      256 ≤ total →
      total ≤ imageMax →
      data.length < total →
      ∃ t, exec (.stagingImageWrite m 0 total data) s = .next t
        ∧ t.update = { s.update with st := 1, path := (match m with | .mgmt => 0 | .host => 1), total := total, staging := data, verified := false, lastByte := s.clk }
        ∧ t.od = s.od
        ∧ t.out.head? = some (ack m (obj 0x2E01 1)))
  ∧ (∀ (m : Master) (total : Nat) (data : List Byte) (s : State),
      s.writable m (obj 0x2E01 1) (.bytes data) = true →
      s.power.seqAt = none →
      s.flashUp = true →
      s.update.st = 1 →
      s.update.path = (match m with | .mgmt => 0 | .host => 1) →
      total = s.update.total →
      s.update.staging.length + data.length = total →
      ∃ t, exec (.stagingImageWrite m s.update.staging.length total data) s = .next t
        ∧ t.update.st = 2
        ∧ t.update.staging = s.update.staging ++ data
        ∧ t.update.verified = false
        ∧ t.nat (obj 0x2E06 1) = s.counted (obj 0x2E06 1)
        ∧ t.out.head? = some (ack m (obj 0x2E01 1)))
  ∧ (∀ (m : Master) (offset total : Nat) (data : List Byte) (s : State),
      s.writable m (obj 0x2E01 1) (.bytes data) = true →
      s.power.seqAt = none →
      s.flashUp = true →
      s.update.st = 1 →
      s.update.path = (match m with | .mgmt => 0 | .host => 1) →
      offset ≠ s.update.staging.length →
      ∃ t, exec (.stagingImageWrite m offset total data) s = .next t
        ∧ t.update.st = 0
        ∧ t.update.staging = []
        ∧ t.nat (obj 0x2E06 6) = s.counted (obj 0x2E06 6)
        ∧ t.out.head? = some (.reply m 0x2E01 1 abortState []))
  ∧ (∀ (s : State),
      s.update.st = 1 →
      s.clk ≤ s.update.lastByte + 10 * secTicks + 1 →
      ∃ t, exec .stagingIdleTimeout s = .next t
        ∧ t.clk = s.update.lastByte + 10 * secTicks + 1
        ∧ t.update.st = 0
        ∧ t.update.staging = []
        ∧ t.nat (obj 0x2E06 6) = s.counted (obj 0x2E06 6))
  ∧ (∀ (s : State),
      s.update.st = 2 →
      ∃ t, exec .verifyDone s = .next t
        ∧ t.update.st = (if s.imageVerdict s.update.staging = 0 then 3 else 6)
        ∧ t.update.cause = s.imageVerdict s.update.staging
        ∧ t.update.staging = s.update.staging
        ∧ t.update.verified = decide (s.imageVerdict s.update.staging = 0)
        ∧ t.nat (obj 0x2E06 2) = (if s.imageVerdict s.update.staging = 0 then s.nat (obj 0x2E06 2) else s.counted (obj 0x2E06 2)))
  ∧ (∀ (m : Master) (s : State),
      s.writable m (obj 0x2E02 1) (.num 1) = true →
      s.power.seqAt = none →
      s.flashUp = true →
      s.updateState = 3 ∨ s.updateState = 6 →
      ∃ t, exec (.updateVerifyAgain m) s = .next t
        ∧ t.update = { s.update with st := 2, lastByte := s.clk }
        ∧ t.out = ack m (obj 0x2E02 1) :: s.out)
  ∧ (∀ (m : Master) (s : State),
      s.writable m (obj 0x2E02 1) (.num 2) = true →
      s.power.seqAt = none →
      s.flashUp = true →
      s.updateState = 3 →
      ∃ t, exec (.updateMarkPending m) s = .next t
        ∧ t.update = { s.update with st := 4, blocks := 0 }
        ∧ t.out.head? = some (ack m (obj 0x2E02 1)))
  ∧ (∀ (m : Master) (s : State),
      s.writable m (obj 0x2E02 1) (.num 2) = true →
      s.power.seqAt ≠ none ∨ s.updateState ≠ 3 →
      ∃ t, exec (.updateMarkPending m) s = .next t
        ∧ t.update = s.update
        ∧ t.out = .reply m 0x2E02 1 abortState [] :: s.out)
  ∧ (∀ (m : Master) (s : State),
      s.writable m (obj 0x2E02 1) (.num 3) = true →
      s.power.seqAt = none →
      s.flashUp = true →
      s.updateState = 3 →
      ∃ t, exec (.updateMarkPendingRestart m) s = .next t
        ∧ t.update.st = 4
        ∧ t.update.blocks = 0
        ∧ t.update.restartPorts = s.streamingPorts
        ∧ t.module.state = .waking
        ∧ t.power.kind = 2
        ∧ t.power.startAt = s.clk)
  ∧ (∀ (m : Master) (s : State),
      s.writable m (obj 0x2E02 1) (.num 4) = true →
      s.power.seqAt = none →
      s.flashUp = true →
      s.updateState = 4 →
      ∃ t, exec (.updateCancelPending m) s = .next t
        ∧ t.update = { s.update with st := 3 }
        ∧ t.out.head? = some (ack m (obj 0x2E02 1)))
  ∧ (∀ (m : Master) (s : State),
      s.writable m (obj 0x2E02 1) (.num 5) = true →
      s.power.seqAt = none →
      s.flashUp = true →
      s.updateState = 7 →
      ∃ t, exec (.updateRestartFromStaging m) s = .next t
        ∧ t.update.st = 4
        ∧ t.update.blocks = 0
        ∧ t.module.state = .waking
        ∧ t.power.kind = 2
        ∧ t.power.startAt = s.clk)
  ∧ (∀ (m : Master) (s : State),
      s.writable m (obj 0x2E02 1) (.num 6) = true →
      s.power.seqAt = none →
      s.flashUp = true →
      s.updateState = 0 ∨ s.updateState = 3 ∨ s.updateState = 6 →
      ∃ t, exec (.updateStageFromDdr m) s = .next t
        ∧ t.update = { s.update with st := 2, path := 3, total := s.nat (obj 0x2E01 3), staging := s.memRead (s.nat (obj 0x2E01 2)) (s.nat (obj 0x2E01 3)), verified := false, lastByte := s.clk }
        ∧ t.nat (obj 0x2E06 1) = s.counted (obj 0x2E06 1)
        ∧ t.mem = s.mem
        ∧ t.out = ack m (obj 0x2E02 1) :: s.out)
  ∧ (∀ (s : State),
      s.update.st = 5 →
      s.update.blocks < 127 →
      ∃ t, exec .copyBlockDone s = .next t
        ∧ t.update = { s.update with blocks := s.update.blocks + 1, partly := true }
        ∧ t.od = s.od
        ∧ t.module = s.module)
  ∧ (∀ (s : State),
      s.update.st = 5 →
      s.update.blocks = 127 →
      ∃ t, exec .copyBlockDone s = .next t
        ∧ t.update.st = (if s.update.watch = none then 0 else 5)
        ∧ t.update.boot = some s.update.staging
        ∧ t.update.partly = false
        ∧ t.nat (obj 0x2E06 3) = (if s.update.watch = none then s.counted (obj 0x2E06 3) else s.nat (obj 0x2E06 3)))
  ∧ (∀ (u : Nat) (s : State),
      s.update.watch = some u →
      s.clk ≤ u + 30 * secTicks →
      ∃ t, exec .firstStartWatchEnd s = .next t
        ∧ t.clk = u + 30 * secTicks
        ∧ t.update.watch = none
        ∧ t.update.st = (if s.update.st = 5 ∧ s.update.blocks = 128 then 0 else s.update.st)
        ∧ t.nat (obj 0x2E06 3) = (if s.update.st = 5 ∧ s.update.blocks = 128 then s.counted (obj 0x2E06 3) else s.nat (obj 0x2E06 3)))
  ∧ (∀ (m : Master) (slot : Nat) (image : List Byte) (s : State),
      s.writable m (obj 0x2E05 (slot + 1)) (.bytes image) = true →
      slot < 16 →
      s.flashUp = true →
      s.pipe.banks.all (fun b => b.loading.all (fun p => p.1 != slot)) = true →
      ∃ t, exec (.librarySlotWrite m slot image) s = .next t
        ∧ t.update = { s.update with library := s.update.library.set slot (if bankValid image then image else []) }
        ∧ t.out.head? = some (.reply m 0x2E05 (slot + 1) (if bankValid image then 0 else abortData) [])
        ∧ t.pipe = s.pipe)

/-- For every command c and state s with c at the front of its queue, step of s is exec of c on s with the rest of the queue. Where the queue is
empty, the block idles for one tick: local time advances by it, frames that wait for the wire of a link leave, and nothing besides local time,
the fabric, what leaves the block and the counters of frames changes; with the wires idle nothing leaves. That the block idles for one tick is
the choice of the model in log entry 1. -/
def Obligations.StepRunsTheFrontCommand : Prop :=
  (∀ (c : Instr) (r : List Instr) (s : State), s.pending = c :: r → step s = exec c { s with pending := r })
  ∧ (∀ s : State, s.pending = [] → step s = .next s.idle ∧ s.idle.clk = s.clk + 1
      ∧ ∀ p, p ∉ [Part.clk, .time, .strand, .out, .od] → s.agree p s.idle)
  ∧ (∀ s : State, s.pending = [] → [0, 1, 2, 3].all s.wireIdle = true → s.strand.shaped → ∃ t, step s = .next t ∧ t.clk = s.clk + 1 ∧ t.out = s.out ∧ t.od = s.od)

/-- Memory and the dictionary of the state after reset stand in their canonical forms, and every part has the ports, valves, groups, slots, channels
and buffers that the manual gives the block. -/
def Obligations.ResetMeetsTheInvariant : Prop :=
  State.reset.Inv

/-- For every state s with the invariant, whatever commands wait, if step answers the next state t then t meets the invariant: memory lists its bytes
in strictly rising order without a byte at the default, the dictionary holds one value an object, there are four camera ports, two banks, 16
entries of placement, 256 valves and 32 groups, eight loop slots, four trace units, two panels, four links, four lock slots, 16 DMA channels and
12 receive buffers, at most 16 EMCY frames and 128 island events wait, and every record slot lies below 2,000. -/
def Obligations.EveryStepKeepsTheInvariant : Prop :=
  ∀ s t : State, s.Inv → step s = .next t → t.Inv

/-- Whatever the command and its operands, exec answers a next state from every state: no command stops the block. It leaves the queue of waiting
commands and the variant of the module as they are, and local time does not go back (02 R38: the counter advances). -/
def Obligations.EveryCommandCompletes : Prop :=
  ∀ (c : Instr) (s : State), ∃ t, exec c s = .next t ∧ t.pending = s.pending ∧ t.variant = s.variant ∧ s.clk ≤ t.clk

/-- For every context, column x, channel i and sample v: black[x, i] is an INTEGER16 and gain[x, i] an UNSIGNED16. s1 is the working sample less
black, clamped to 0 to 4,095; s2 is s1 times gain over 16,384, rounded to nearest and clamped to 0 to 4,095. A gain of 16,384 leaves s1 as it is.
A tie may fall either way. -/
def Obligations.FlatFieldArithmetic : Prop :=
  ∀ (c : Context) (ch bits x i v : Nat),
    -32768 ≤ c.blackAt ch x i ∧ c.blackAt ch x i ≤ 32767 ∧ c.gainAt ch x i ≤ 65535
    ∧ ∃ s1 n : Nat, (s1 : Int) = max 0 (min 4095 ((workSample bits v : Int) - c.blackAt ch x i))
      ∧ 2 * |16384 * (n : Int) - s1 * c.gainAt ch x i| ≤ 16384
      ∧ c.stage2 ch bits x i v = min 4095 n
      ∧ (c.gainAt ch x i = 16384 → c.stage2 ch bits x i v = s1)

/-- In a node whose NMT state serves PDOs and whose SYNC COB-ID is valid, a SYNC frame with 0 or 1 data byte has the TPDOs sampled and then the
waiting RPDOs applied, in the same way whatever its counter byte; of a SYNC frame with more data bytes nothing remains but that its receive
buffer is free again. -/
def Obligations.SyncFrameAcceptance : Prop :=
  (∀ (data : List Byte) (s : State),
      s.nodeUp = true →
      s.side.nmt = .operational →
      bitOf (s.nat (obj 0x1005 0)) 31 = false →
      data.length ≤ 1 →
      ∃ t, exec (.syncFrame data) s = .next t
        ∧ t = ((List.range 4).foldl State.rpdoSync ((List.range 4).foldl State.tpdoSync (s.takeRx 1))).noteReset s)
  ∧ (∀ (data : List Byte) (s : State),
      s.nodeUp = true →
      s.side.nmt = .operational →
      bitOf (s.nat (obj 0x1005 0)) 31 = false →
      1 < data.length →
      ∃ t, exec (.syncFrame data) s = .next t
        ∧ t.side.rx = s.side.rx.set 1 { primary := (s.side.rx.getD 1 {}).shadow, shadow := none }
        ∧ t = { s with side := { s.side with rx := t.side.rx } })

/-- When the sequencer of a valve issues OFF, in whatever mode it regulates, the low-side switch is off and no regulation runs afterwards, the decay
mode in force stays in force, and t_off is the tick of this step. -/
def Obligations.OffWord : Prop :=
  (∀ (v : Valve) (s : State),
      s.seqs.shaped →
      s.issuing v = some .off →
      ∃ t, exec (.off v) s = .next t
        ∧ (t.seq v).mode = .off
        ∧ (t.seq v).busy = .none
        ∧ (t.seq v).fast = (s.seq v).fast
        ∧ (t.seq v).tOff = some (s.seq v).issueAt)

/-- Each command of the timebase answers a next state in which every part of the state outside the parts listed for it stands as before, and of the
object dictionary every object outside the sets listed for it holds the value it held: the objects the command writes or counts in, and the
counters that sending frames (13 R369) and logging events (13 R383, 15 R430, 17 R467) move. -/
def Obligations.TimeFrames : Prop :=
  (∀ (s : State),
      NextKeeps [.clk, .out, .od, .time, .cams, .backdrop, .strand, .side, .recorder]
        [.frames, .events, .one (obj 0x2107 4)]
        s (exec .syncInterval s))
  ∧ (∀ (link : Link) (t1 : Nat) (gm : Nat) (hops : Nat) (seq : Nat) (phase : Nat) (turnaround : Nat) (s : State),
      NextKeeps [.out, .od, .time, .cams, .backdrop, .strand, .side, .recorder]
        [.frames, .events, .one (obj 0x2107 4)]
        s (exec (.timeSync link t1 gm hops seq phase turnaround) s))
  ∧ (∀ (link : Link) (seq : Nat) (phase : Nat) (s : State),
      NextKeeps [.out, .od, .strand]
        [.frames]
        s (exec (.timeReply link seq phase) s))
  ∧ (∀ (link : Link) (t4 : Nat) (seq : Nat) (s : State),
      NextKeeps [.freeCtr, .out, .od, .mem, .time, .cams, .pipe, .tracker, .drive, .seqs, .ledger, .loops, .backdrop, .strand, .side, .recorder]
        [.frames, .events, .one (obj 0x2107 2), .one (obj 0x2400 2), .one (obj 0x2400 5), .one (obj 0x2400 6), .one (obj 0x2400 7),
         .one (obj 0x2405 11), .one (obj 0x2405 12), .one (obj 0x2405 7), .one (obj 0x2600 13), .one (obj 0x2600 7), .one (obj 0x2107 1),
         .ports 0x2306 1, .ports 0x2306 2, .ports 0x2306 3, .ports 0x2306 4, .ports 0x2306 5, .ports 0x2306 6, .ports 0x2306 7,
         .ports 0x2306 8, .ports 0x2306 9, .ports 0x2306 10, .ports 0x2307 6, .ports 0x2307 7, .one (obj 0x2407 7), .one (obj 0x2407 8),
         .one (obj 0x2407 9), .one (obj 0x2407 10), .ports 0x2307 1, .ports 0x2307 8]
        s (exec (.timeFollow link t4 seq) s))
  ∧ (∀ (s : State),
      NextKeeps [.clk, .out, .od, .time, .cams, .backdrop, .strand, .side, .recorder]
        [.frames, .events, .one (obj 0x2107 3)]
        s (exec .upstreamTimeout s))
  ∧ (∀ (s : State),
      NextKeeps [.clk, .out, .od, .time, .cams, .backdrop, .strand, .side, .recorder]
        [.frames, .events, .one (obj 0x2107 4)]
        s (exec .electionTimeout s))
  ∧ (∀ (link : Link) (candidate : Nat) (designated : Bool) (hops : Nat) (s : State),
      NextKeeps [.out, .od, .time, .cams, .backdrop, .strand, .side, .recorder]
        [.frames, .events, .one (obj 0x2107 4)]
        s (exec (.announce link candidate designated hops) s))
  ∧ (∀ (s : State),
      NextKeeps [.clk, .out, .od, .time, .cams, .backdrop, .strand, .side, .recorder]
        [.frames, .events]
        s (exec .holdoverLimit s))
  ∧ (∀ (s : State),
      NextKeeps [.clk, .time]
        []
        s (exec .learnedFrequencyValid s))
  ∧ (∀ (s : State),
      NextKeeps [.freeCtr, .out, .od, .time, .pipe, .tracker, .drive, .seqs, .ledger, .loops, .power, .thermal, .backdrop, .module, .strand, .side, .recorder]
        [.frames, .events, .one (obj 0x2005 4), .one (obj 0x2700 9), .one (obj 0x2C12 1), .one (obj 0x2700 27), .groups 0x2706,
         .groups 0x2708, .slots 0x2A17 5]
        s (exec .rootPllLockLost s))
  ∧ (∀ (rising : Bool) (phase : Nat) (s : State),
      NextKeeps [.freeCtr, .out, .od, .time, .cams]
        [.one (obj 0x2104 4), .one (obj 0x2104 5), .one (obj 0x2104 6)]
        s (exec (.syncInEdge rising phase) s))
  ∧ (∀ (s : State),
      NextKeeps [.clk, .out, .time]
        []
        s (exec .syncOutPulse s))

/-- Each command of the camera ports answers a next state in which every part of the state outside the parts listed for it stands as before, and of
the object dictionary every object outside the sets listed for it holds the value it held: the objects the command writes or counts in, and the
counters that sending frames (13 R369) and logging events (13 R383, 15 R430, 17 R467) move. -/
def Obligations.CameraFrames : Prop :=
  (∀ (p : Port) (s : State),
      NextKeeps [.clk, .out, .od, .mem, .time, .cams, .pipe, .tracker, .ledger, .loops, .backdrop, .strand, .side, .recorder]
        [.frames, .events, .one (camKey p.val 0x2306 1), .one (camKey p.val 0x2306 2), .one (camKey p.val 0x2306 3),
         .one (camKey p.val 0x2306 4), .one (camKey p.val 0x2306 5), .one (camKey p.val 0x2306 6), .one (camKey p.val 0x2306 7),
         .one (camKey p.val 0x2306 8), .one (camKey p.val 0x2306 9), .one (camKey p.val 0x2306 10), .one (camKey p.val 0x2307 6),
         .one (camKey p.val 0x2307 7), .one (obj 0x2400 2), .one (obj 0x2400 5), .one (obj 0x2400 6), .one (obj 0x2400 7),
         .one (obj 0x2407 (7 + p.val)), .one (obj 0x2405 11), .one (obj 0x2405 12), .one (obj 0x2405 7), .one (camKey p.val 0x2307 1),
         .one (camKey p.val 0x2307 8), .one (obj 0x2600 13), .one (obj 0x2600 7), .one (camKey p.val 0x2307 5),
         .one (camKey p.val 0x2300 5)]
        s (exec (.lineTrigger p) s))
  ∧ (∀ (p : Port) (s : State),
      NextKeeps [.clk, .out, .od, .mem, .time, .cams, .pipe, .tracker, .ledger, .loops, .backdrop, .strand, .side, .recorder]
        [.frames, .events, .one (camKey p.val 0x2306 1), .one (camKey p.val 0x2306 2), .one (camKey p.val 0x2306 3),
         .one (camKey p.val 0x2306 4), .one (camKey p.val 0x2306 5), .one (camKey p.val 0x2306 6), .one (camKey p.val 0x2306 7),
         .one (camKey p.val 0x2306 8), .one (camKey p.val 0x2306 9), .one (camKey p.val 0x2306 10), .one (camKey p.val 0x2307 6),
         .one (camKey p.val 0x2307 7), .one (obj 0x2400 2), .one (obj 0x2400 5), .one (obj 0x2400 6), .one (obj 0x2400 7),
         .one (obj 0x2407 (7 + p.val)), .one (obj 0x2405 11), .one (obj 0x2405 12), .one (obj 0x2405 7), .one (camKey p.val 0x2307 1),
         .one (camKey p.val 0x2307 8), .one (obj 0x2600 13), .one (obj 0x2600 7)]
        s (exec (.pairingTimeout p) s))
  ∧ (∀ (p : Port) (tick : Nat) (fval : Bool) (s : State),
      NextKeeps [.clk, .out, .od, .mem, .time, .cams, .pipe, .tracker, .ledger, .loops, .backdrop, .strand, .side, .recorder]
        [.frames, .events, .one (camKey p.val 0x2306 1), .one (camKey p.val 0x2306 2), .one (camKey p.val 0x2306 3),
         .one (camKey p.val 0x2306 4), .one (camKey p.val 0x2306 5), .one (camKey p.val 0x2306 6), .one (camKey p.val 0x2306 7),
         .one (camKey p.val 0x2306 8), .one (camKey p.val 0x2306 9), .one (camKey p.val 0x2306 10), .one (camKey p.val 0x2307 6),
         .one (camKey p.val 0x2307 7), .one (obj 0x2400 2), .one (obj 0x2400 5), .one (obj 0x2400 6), .one (obj 0x2400 7),
         .one (obj 0x2407 (7 + p.val)), .one (obj 0x2405 11), .one (obj 0x2405 12), .one (obj 0x2405 7), .one (camKey p.val 0x2307 1),
         .one (camKey p.val 0x2307 8), .one (obj 0x2600 13), .one (obj 0x2600 7), .one (camKey p.val 0x2307 2),
         .one (camKey p.val 0x2307 5)]
        s (exec (.lineStart p tick fval) s))
  ∧ (∀ (p : Port) (clocks : List PixelClock) (s : State),
      NextKeeps [.out, .od, .mem, .cams, .pipe, .ledger, .loops, .backdrop, .strand, .side, .recorder]
        [.frames, .events, .one (camKey p.val 0x2307 3), .one (obj 0x2400 2), .one (obj 0x2400 5), .one (obj 0x2400 6),
         .one (obj 0x2400 7), .one (obj 0x2407 (7 + p.val)), .one (camKey p.val 0x2306 1), .one (camKey p.val 0x2306 2),
         .one (camKey p.val 0x2306 3), .one (camKey p.val 0x2306 4), .one (camKey p.val 0x2306 5), .one (camKey p.val 0x2306 6),
         .one (camKey p.val 0x2306 7), .one (camKey p.val 0x2306 8), .one (camKey p.val 0x2306 9), .one (camKey p.val 0x2306 10),
         .one (camKey p.val 0x2307 6), .one (camKey p.val 0x2307 7), .one (obj 0x2405 11), .one (obj 0x2405 12), .one (obj 0x2405 7)]
        s (exec (.lineComplete p clocks) s))
  ∧ (∀ (p : Port) (clocks : List PixelClock) (s : State),
      NextKeeps [.out, .od, .mem, .cams, .pipe, .ledger, .loops, .backdrop, .strand, .side, .recorder]
        [.frames, .events, .one (camKey p.val 0x2307 3), .one (obj 0x2400 2), .one (obj 0x2400 5), .one (obj 0x2400 6),
         .one (obj 0x2400 7), .one (obj 0x2407 (7 + p.val)), .one (camKey p.val 0x2306 1), .one (camKey p.val 0x2306 2),
         .one (camKey p.val 0x2306 3), .one (camKey p.val 0x2306 4), .one (camKey p.val 0x2306 5), .one (camKey p.val 0x2306 6),
         .one (camKey p.val 0x2306 7), .one (camKey p.val 0x2306 8), .one (camKey p.val 0x2306 9), .one (camKey p.val 0x2306 10),
         .one (camKey p.val 0x2307 6), .one (camKey p.val 0x2307 7), .one (obj 0x2405 11), .one (obj 0x2405 12), .one (obj 0x2405 7)]
        s (exec (.shortLine p clocks) s))
  ∧ (∀ (p : Port) (s : State),
      NextKeeps [.out, .od, .mem, .cams, .pipe, .tracker, .ledger, .loops, .backdrop, .strand, .side, .recorder]
        [.frames, .events, .one (camKey p.val 0x2307 4), .one (camKey p.val 0x2307 1), .one (obj 0x2400 2), .one (obj 0x2400 5),
         .one (obj 0x2400 6), .one (obj 0x2400 7), .one (obj 0x2407 (7 + p.val)), .one (camKey p.val 0x2306 1),
         .one (camKey p.val 0x2306 2), .one (camKey p.val 0x2306 3), .one (camKey p.val 0x2306 4), .one (camKey p.val 0x2306 5),
         .one (camKey p.val 0x2306 6), .one (camKey p.val 0x2306 7), .one (camKey p.val 0x2306 8), .one (camKey p.val 0x2306 9),
         .one (camKey p.val 0x2306 10), .one (camKey p.val 0x2307 6), .one (camKey p.val 0x2307 7), .one (camKey p.val 0x2307 8),
         .one (obj 0x2600 13), .one (obj 0x2600 7), .one (obj 0x2405 11), .one (obj 0x2405 12), .one (obj 0x2405 7)]
        s (exec (.fifoOverrun p) s))
  ∧ (∀ (p : Port) (s : State),
      NextKeeps [.out, .od, .mem, .cams, .pipe, .ledger, .loops, .backdrop, .strand, .side, .recorder]
        [.frames, .events, .one (camKey p.val 0x2306 1), .one (camKey p.val 0x2306 2), .one (camKey p.val 0x2306 3),
         .one (camKey p.val 0x2306 4), .one (camKey p.val 0x2306 5), .one (camKey p.val 0x2306 6), .one (camKey p.val 0x2306 7),
         .one (camKey p.val 0x2306 8), .one (camKey p.val 0x2306 9), .one (camKey p.val 0x2306 10), .one (camKey p.val 0x2307 6),
         .one (camKey p.val 0x2307 7), .one (obj 0x2400 2), .one (obj 0x2400 5), .one (obj 0x2400 6), .one (obj 0x2400 7),
         .one (obj 0x2407 (7 + p.val))]
        s (exec (.fvalFall p) s))
  ∧ (∀ (m : Master) (p : Port) (data : List Byte) (s : State),
      NextKeeps [.out, .od, .cams, .dict]
        [.one (obj 0x2006 1)]
        s (exec (.settingsCommand m p data) s))
  ∧ (∀ (m : Master) (p : Port) (data : List Byte) (s : State),
      NextKeeps [.out, .od, .dict]
        [.one (obj 0x2006 1)]
        s (exec (.rawTransmit m p data) s))
  ∧ (∀ (p : Port) (s : State),
      NextKeeps [.out, .cams]
        []
        s (exec (.settingsTransmitStart p) s))
  ∧ (∀ (p : Port) (s : State),
      NextKeeps [.clk, .od, .time, .cams]
        [.one (camKey p.val 0x2307 11)]
        s (exec (.settingsTransmitEnd p) s))
  ∧ (∀ (p : Port) (data : List Byte) (s : State),
      NextKeeps [.od, .cams]
        [.one (camKey p.val 0x2305 5)]
        s (exec (.serialReceive p data) s))
  ∧ (∀ (p : Port) (s : State),
      NextKeeps [.clk, .out, .od, .time, .cams, .backdrop, .strand, .side, .recorder]
        [.frames, .events, .one (camKey p.val 0x2307 10)]
        s (exec (.replyTimeout p) s))
  ∧ (∀ (p : Port) (s : State),
      NextKeeps [.cams]
        []
        s (exec (.cc1WidthApply p) s))
  ∧ (∀ (m : Master) (p : Port) (s : State),
      NextKeeps [.out, .od, .cams, .backdrop, .strand, .dict, .side, .recorder]
        [.frames, .events, .one (obj 0x2006 1), .one (camKey p.val 0x2307 12), .one (camKey p.val 0x2301 1)]
        s (exec (.startPort m p) s))
  ∧ (∀ (m : Master) (p : Port) (s : State),
      NextKeeps [.out, .od, .cams, .backdrop, .strand, .dict, .side, .recorder]
        [.frames, .events, .one (obj 0x2006 1), .one (camKey p.val 0x2307 12), .one (camKey p.val 0x2301 1)]
        s (exec (.startPlane m p) s))
  ∧ (∀ (m : Master) (p : Port) (s : State),
      NextKeeps [.out, .od, .mem, .cams, .pipe, .ledger, .loops, .backdrop, .strand, .dict, .side, .recorder]
        [.frames, .events, .one (obj 0x2006 1), .one (obj 0x2400 2), .one (obj 0x2400 5), .one (obj 0x2400 6), .one (obj 0x2400 7),
         .one (obj 0x2405 11), .one (obj 0x2405 12), .one (obj 0x2405 7), .one (obj 0x2407 (7 + p.val)), .one (camKey p.val 0x2301 1),
         .one (camKey p.val 0x2307 7), .one (camKey p.val 0x2306 1), .one (camKey p.val 0x2306 2), .one (camKey p.val 0x2306 3),
         .one (camKey p.val 0x2306 4), .one (camKey p.val 0x2306 5), .one (camKey p.val 0x2306 6), .one (camKey p.val 0x2306 7),
         .one (camKey p.val 0x2306 8), .one (camKey p.val 0x2306 9), .one (camKey p.val 0x2306 10)]
        s (exec (.stopStream m p) s))
  ∧ (∀ (p : Port) (loadA : Bool) (loadB : Bool) (s : State),
      NextKeeps [.cams]
        []
        s (exec (.poclDetectionDone p loadA loadB) s))
  ∧ (∀ (p : Port) (kHz : Nat) (s : State),
      NextKeeps [.out, .od, .cams, .backdrop, .strand, .side, .recorder]
        [.frames, .events, .one (camKey p.val 0x2307 12)]
        s (exec (.pixelClockStable p kHz) s))
  ∧ (∀ (p : Port) (s : State),
      NextKeeps [.clk, .out, .od, .time, .cams, .backdrop, .strand, .side, .recorder]
        [.frames, .events, .one (camKey p.val 0x2307 12)]
        s (exec (.pixelClockTimeout p) s))
  ∧ (∀ (p : Port) (s : State),
      NextKeeps [.clk, .time, .cams]
        []
        s (exec (.startupBlockSent p) s))
  ∧ (∀ (p : Port) (s : State),
      NextKeeps [.clk, .time, .cams]
        []
        s (exec (.settleElapsed p) s))
  ∧ (∀ (p : Port) (current : Nat) (s : State),
      NextKeeps [.out, .od, .cams, .backdrop, .strand, .side, .recorder]
        [.frames, .events, .one (camKey p.val 0x2307 9)]
        s (exec (.poclTrip p current) s))
  ∧ (∀ (p : Port) (s : State),
      NextKeeps [.clk, .time, .cams]
        []
        s (exec (.poclReapply p) s))
  ∧ (∀ (m : Master) (p : Port) (s : State),
      NextKeeps [.out, .od, .cams, .dict]
        [.one (obj 0x2006 1)]
        s (exec (.poclRearm m p) s))
  ∧ (∀ (p : Port) (s : State),
      NextKeeps [.out, .od, .mem, .cams, .pipe, .tracker, .ledger, .loops, .backdrop, .strand, .side, .recorder]
        [.frames, .events, .one (camKey p.val 0x2307 8), .one (obj 0x2400 2), .one (obj 0x2400 5), .one (obj 0x2400 6),
         .one (obj 0x2400 7), .one (obj 0x2407 (7 + p.val)), .one (obj 0x2600 13), .one (obj 0x2600 7), .one (obj 0x2405 11),
         .one (obj 0x2405 12), .one (obj 0x2405 7), .one (camKey p.val 0x2306 1), .one (camKey p.val 0x2306 2),
         .one (camKey p.val 0x2306 3), .one (camKey p.val 0x2306 4), .one (camKey p.val 0x2306 5), .one (camKey p.val 0x2306 6),
         .one (camKey p.val 0x2306 7), .one (camKey p.val 0x2306 8), .one (camKey p.val 0x2306 9), .one (camKey p.val 0x2306 10),
         .one (camKey p.val 0x2307 6), .one (camKey p.val 0x2307 7), .one (camKey p.val 0x2307 1)]
        s (exec (.pixelClockLoss p) s))
  ∧ (∀ (p : Port) (kHz : Nat) (s : State),
      NextKeeps [.out, .cams]
        []
        s (exec (.portRecovery p kHz) s))
  ∧ (∀ (p : Port) (s : State),
      NextKeeps [.out, .od, .cams, .backdrop, .strand, .side, .recorder]
        [.frames, .events]
        s (exec (.portRejoin p) s))

/-- Each command of the frame and object pipeline and of captures answers a next state in which every part of the state outside the parts listed for
it stands as before, and of the object dictionary every object outside the sets listed for it holds the value it held: the objects the command
writes or counts in, and the counters that sending frames (13 R369) and logging events (13 R383, 15 R430, 17 R467) move. For libraryLoadDone the
dictionary as a whole is among the parts that may change: an object write, a start or a reset can reach every object. -/
def Obligations.PipelineFrames : Prop :=
  (∀ (s : State),
      NextKeeps [.out, .od, .mem, .pipe, .ledger, .loops, .backdrop, .strand, .side, .recorder]
        [.frames, .events, .one (obj 0x2400 3), .one (obj 0x2400 2), .one (obj 0x2400 5), .one (obj 0x2400 6), .one (obj 0x2400 7),
         .one (obj 0x2400 4), .one (obj 0x2407 7), .one (obj 0x2407 8)]
        s (exec .fixStripe s))
  ∧ (∀ (m : Master) (p : Port) (sub : Nat) (v : Val) (s : State),
      NextKeeps [.out, .od, .pipe, .dict]
        [.frames, .events, .one (obj 0x2006 1), .one (obj (0x2410 + 16 * p.val) sub), .one (obj (0x2410 + 16 * p.val) 6),
         .one (obj (0x2410 + 16 * p.val) 11), .one (obj (0x2410 + 16 * p.val) 12)]
        s (exec (.contextTableWrite m p sub v) s))
  ∧ (∀ (s : State),
      NextKeeps [.out, .od, .pipe, .backdrop, .strand, .side, .recorder]
        [.frames, .events, .one (obj 0x2500 4), .one (obj 0x2500 5), .one (obj 0x2500 6)]
        s (exec .gradeFrameTake s))
  ∧ (∀ (s : State),
      NextKeeps [.clk, .od, .mem, .time, .pipe, .ledger, .loops, .recorder]
        ([.one (obj 0x2405 11), .one (obj 0x2405 12), .one (obj 0x2405 7)]
      ++ (match s.pipe.current with | some (p, _) => [.one (obj 0x2407 (7 + p))] | none => []))
        s (exec .gradeFrameDone s))
  ∧ (∀ (s : State), ∃ c,
      NextKeeps [.clk, .freeCtr, .out, .od, .time, .pipe, .tracker, .strand, .recorder]
        [.frames, .one (obj 0x2500 8), .one (obj 0x2506 (c + 1)), .one (obj 0x2405 8), .one (obj 0x2405 9), .one (obj 0x260E 5), .one (obj 0x260E 6), .one (obj 0x260E 7), .one (obj 0x260E 8), .one (obj 0x260E 9), .one (obj 0x260E 10)]
        s (exec .objectClassified s))
  ∧ (∀ (m : Master) (bank : Nat) (image : List Byte) (s : State),
      NextKeeps [.out, .od, .pipe, .backdrop, .strand, .dict, .side, .recorder]
        [.frames, .events, .one (obj 0x2006 1)]
        s (exec (.bankImageWrite m bank image) s))
  ∧ (∀ (m : Master) (bank : Nat) (slot : Nat) (s : State),
      NextKeeps [.out, .od, .pipe, .dict, .dma]
        [.one (obj 0x2006 1)]
        s (exec (.libraryLoad m bank slot) s))
  ∧ (∀ (bank : Nat) (s : State),
      NextOnly [.out, .od, .pipe, .backdrop, .strand, .side, .dma, .recorder]
        s (exec (.libraryLoadDone bank) s))
  ∧ (∀ (m : Master) (s : State),
      NextKeeps [.out, .od, .pipe, .backdrop, .strand, .dict, .side, .recorder]
        [.frames, .events, .one (obj 0x2500 7), .one (obj 0x2500 4), .one (obj 0x2500 5), .one (obj 0x2500 6), .one (obj 0x2006 1)]
        s (exec (.bankSwapRequest m) s))
  ∧ (∀ (m : Master) (s : State),
      NextKeeps [.out, .od, .pipe, .backdrop, .strand, .dict, .side, .recorder]
        [.frames, .events, .one (obj 0x2404 1), .one (obj 0x2006 1)]
        s (exec (.captureDark m) s))
  ∧ (∀ (m : Master) (s : State),
      NextKeeps [.out, .od, .pipe, .backdrop, .strand, .dict, .side, .recorder]
        [.frames, .events, .one (obj 0x2404 1), .one (obj 0x2006 1)]
        s (exec (.captureGrey m) s))
  ∧ (∀ (m : Master) (s : State),
      NextKeeps [.out, .od, .pipe, .backdrop, .strand, .dict, .side, .recorder]
        [.frames, .events, .one (obj 0x2404 1), .one (obj 0x2006 1)]
        s (exec (.captureBackdrop m) s))
  ∧ (∀ (s : State),
      NextKeeps [.freeCtr, .out, .od, .pipe, .drive, .ledger, .loops, .thermal, .backdrop, .module, .strand, .side, .recorder]
        ([.frames, .events, .one (obj 0x2005 4), .one (obj 0x2C12 1), .one (obj 0x2700 27), .one (obj 0x2B00 10), .one (obj 0x2B00 12), .one (obj 0x2005 5), .slots 0x2A17 5]
      ++ (match s.pipe.capture with
        | some c => c.ports.flatMap fun q => [.one (obj (0x2410 + 16 * q.port) c.code), .one (obj (0x2410 + 16 * q.port) 11), .one (obj (0x2410 + 16 * q.port) 12)]
        | none => []))
        s (exec .captureComplete s))
  ∧ (∀ (s : State),
      NextKeeps [.clk, .freeCtr, .out, .od, .time, .pipe, .drive, .ledger, .loops, .thermal, .backdrop, .module, .strand, .side, .recorder]
        [.frames, .events, .one (obj 0x2005 4), .one (obj 0x2C12 1), .one (obj 0x2700 27), .one (obj 0x2B00 10), .one (obj 0x2B00 12),
         .one (obj 0x2005 5), .slots 0x2A17 5]
        s (exec .captureTimeout s))

/-- Each command of the tracker, verdicts and Ferry answers a next state in which every part of the state outside the parts listed for it stands as
before, and of the object dictionary every object outside the sets listed for it holds the value it held: the objects the command writes or
counts in, and the counters that sending frames (13 R369) and logging events (13 R383, 15 R430, 17 R467) move. -/
def Obligations.TrackerFrames : Prop :=
  (∀ (x : Sighting) (s : State),
      NextKeeps [.out, .od, .pipe, .tracker, .backdrop, .strand, .side, .recorder]
        [.frames, .events, .one (obj 0x2602 9), .one (obj 0x2600 6), .one (obj 0x2600 8), .one (obj 0x2600 4), .one (obj 0x2600 13),
         .one (obj 0x2600 5)]
        s (exec (.fixArrival x) s))
  ∧ (∀ (x : Sighting) (image : ObjImage) (s : State),
      NextKeeps [.out, .od, .pipe, .tracker, .backdrop, .strand, .side, .recorder]
        [.frames, .events, .one (obj 0x2602 9), .one (obj 0x2600 8), .one (obj 0x2600 3), .one (obj 0x2405 10), .one (obj 0x2206 13),
         .one (obj 0x260E 4), .one (obj 0x260E 1), .one (obj 0x2600 13), .one (obj 0x2600 7), .one (obj 0x2600 5), .one (obj 0x2600 6)]
        s (exec (.upperSightingArrival x image) s))
  ∧ (∀ (handle : Nat) (s : State),
      NextKeeps [.clk, .out, .od, .time, .tracker, .backdrop, .strand, .side, .recorder]
        [.frames, .events, .one (obj 0x2600 13), .one (obj 0x2600 7)]
        s (exec (.fixDeadline handle) s))
  ∧ (∀ (handle : Nat) (s : State),
      NextKeeps [.clk, .freeCtr, .out, .od, .time, .tracker, .drive, .backdrop, .strand, .side, .recorder]
        [.frames, .events, .one (obj 0x2600 14), .one (obj 0x2600 15), .one (obj 0x2700 5), .one (obj 0x2107 5), .one (obj 0x2700 15),
         .one (obj 0x2700 16), .one (obj 0x2700 17), .one (obj 0x2700 12), .one (obj 0x2700 14), .one (obj 0x2700 6), .one (obj 0x2700 9),
         .one (obj 0x2700 8), .one (obj 0x2700 13), .one (obj 0x2600 11), .one (obj 0x2600 12), .one (obj 0x2600 10), .one (obj 0x2600 9),
         .one (obj 0x260F 2), .one (obj 0x260F 1), .valves 0x2726]
        s (exec (.fireDecision handle) s))
  ∧ (∀ (handle : Nat) (s : State),
      NextKeeps [.clk, .time, .tracker]
        []
        s (exec (.recordRetire handle) s))
  ∧ (∀ (m : Master) (sub : Nat) (value : Nat) (s : State),
      NextKeeps [.out, .od, .tracker, .drive, .backdrop, .strand, .dict, .side, .recorder]
        [.frames, .events, .one (obj 0x2006 1), .one (obj 0x2601 sub)]
        s (exec (.dropGeometryWrite m sub value) s))
  ∧ (∀ (m : Master) (group : Nat) (value : Nat) (s : State),
      NextKeeps [.out, .od, .pipe, .tracker, .backdrop, .strand, .dict, .side, .recorder]
        [.frames, .events, .one (obj 0x260E 11), .one (obj 0x260E 2), .one (obj 0x260E 3), .one (obj 0x260E 15), .one (obj 0x260E 1),
         .one (obj 0x2006 1)]
        s (exec (.placementWrite m group value) s))
  ∧ (∀ (s : State),
      NextKeeps [.clk, .out, .od, .time, .pipe, .tracker, .backdrop, .strand, .side, .recorder]
        [.frames, .events, .one (obj 0x260E 12), .one (obj 0x260E 2), .one (obj 0x260E 3), .one (obj 0x260E 15), .one (obj 0x260E 1)]
        s (exec .governorRun s))
  ∧ (∀ (src : Nat) (handle : Nat) (epoch : Nat) (segment : Nat) (count : Nat) (sendTick : Nat) (data : List Byte) (s : State),
      NextKeeps [.out, .od, .pipe, .strand, .recorder]
        [.frames, .events, .one (obj 0x260E 15)]
        s (exec (.chipFrame src handle epoch segment count sendTick data) s))
  ∧ (∀ (src : Nat) (handle : Nat) (epoch : Nat) (s : State),
      NextKeeps [.clk, .out, .od, .time, .backdrop, .strand, .side, .recorder]
        [.frames, .events, .one (obj 0x2206 14)]
        s (exec (.chipReassemblyTimeout src handle epoch) s))
  ∧ (∀ (src : Nat) (sendTick : Nat) (handle : Nat) (epoch : Nat) (cls : Nat) (conf : Nat) (tail : VerdictTail) (s : State),
      NextKeeps [.od, .tracker, .recorder]
        [.one (obj 0x260E 13), .one (obj 0x260E 14), .one (obj 0x260E 9), .one (obj 0x260E 10), .one (obj 0x260E 5), .one (obj 0x260E 6),
         .one (obj 0x260E 7), .one (obj 0x260E 8)]
        s (exec (.verdictMessage src sendTick handle epoch cls conf tail) s))
  ∧ (∀ (src : Nat) (sendTick : Nat) (handle : Nat) (epoch : Nat) (cause : Nat) (s : State),
      NextKeeps [.out, .od, .pipe, .tracker, .backdrop, .strand, .side, .recorder]
        [.frames, .events, .one (obj 0x260E 13), .one (obj 0x260E 14), .one (obj 0x260E 3), .one (obj 0x260E 2), .one (obj 0x260E 15),
         .one (obj 0x260E 1)]
        s (exec (.refusalMessage src sendTick handle epoch cause) s))
  ∧ (∀ (src : Nat) (valve : Nat) (ta : Nat) (shotEnd : Nat) (handle : Nat) (conf : Nat) (cover : Bool) (s : State),
      NextKeeps [.freeCtr, .out, .od, .drive, .backdrop, .strand, .side, .recorder]
        [.frames, .events, .one (obj 0x260F 9), .one (obj 0x260F 3), .one (obj 0x260F 4), .one (obj 0x2700 16), .one (obj 0x260F 5),
         .one (obj 0x260F 6), .one (obj 0x2107 5), .one (obj 0x2700 5), .one (obj 0x2700 15), .one (obj 0x2700 17), .one (obj 0x2700 12),
         .one (obj 0x2700 14), .one (obj 0x2700 6), .one (obj 0x2700 9), .one (obj 0x2700 8), .one (obj 0x2700 13), .one (obj 0x260F 7),
         .one (obj 0x260F 8), .one (valveKey 0x2726 valve), .one (valveKey 0x2726 (valve - 1)), .one (valveKey 0x2726 (valve + 1))]
        s (exec (.fireMessage src valve ta shotEnd handle conf cover) s))
  ∧ (∀ (s : State),
      NextKeeps [.clk, .od, .time, .tracker]
        [.one (obj 0x2602 7), .one (obj 0x2602 8)]
        s (exec .floorRecompute s))

/-- Each command of the ejector drive answers a next state in which every part of the state outside the parts listed for it stands as before, and of
the object dictionary every object outside the sets listed for it holds the value it held: the objects the command writes or counts in, and the
counters that sending frames (13 R369) and logging events (13 R383, 15 R430, 17 R467) move. -/
def Obligations.DriveFrames : Prop :=
  (∀ (v : Valve) (s : State),
      NextKeeps [.clk, .freeCtr, .out, .od, .time, .drive, .seqs, .ledger, .backdrop, .strand, .side, .recorder]
        [.frames, .events, .one (valveKey 0x2812 v.val), .one (obj 0x2800 5), .one (obj 0x2700 10), .one (obj 0x2700 11),
         .one (obj 0x2800 4), .one (obj 0x2700 9), .one (obj 0x2700 27), .one (obj 0x2700 7), .one (valveKey 0x2724 v.val),
         .groups 0x2707, .groups 0x2706, .groups 0x2708]
        s (exec (.gateEdge v) s))
  ∧ (∀ (v : Valve) (s : State),
      NextKeeps [.clk, .freeCtr, .out, .od, .time, .drive, .seqs, .backdrop, .strand, .side, .recorder]
        [.frames, .events, .one (obj 0x2700 9), .one (valveKey 0x2812 v.val), .one (obj 0x2800 2), .one (obj 0x2800 1),
         .one (obj 0x2800 5), .one (obj 0x2700 10), .one (obj 0x2700 11), .groups 0x2706, .groups 0x2708, .groups 0x2707]
        s (exec (.deferralLimit v) s))
  ∧ (∀ (v : Valve) (s : State),
      NextKeeps [.clk, .time, .seqs]
        []
        s (exec (.kinkWindowOpen v) s))
  ∧ (∀ (v : Valve) (samples : List Int) (s : State),
      NextKeeps [.clk, .out, .od, .time, .drive, .seqs, .ledger, .backdrop, .strand, .side, .recorder]
        [.frames, .events, .one (obj 0x2700 20), .one (obj 0x2700 19), .one (valveKey 0x2728 v.val), .one (obj 0x2700 21),
         .one (obj 0x2700 18), .one (valveKey 0x2718 v.val), .one (valveKey 0x271A v.val)]
        s (exec (.kinkWindowEnd v samples) s))
  ∧ (∀ (squares : List Nat) (s : State),
      NextKeeps [.clk, .out, .od, .time, .drive, .seqs, .backdrop, .strand, .side, .recorder]
        [.frames, .events, .one (obj 0x2700 12), .valves 0x2726]
        s (exec (.thermalUpdate squares) s))
  ∧ (∀ (s : State),
      NextKeeps [.freeCtr, .out, .od, .drive, .seqs, .backdrop, .strand, .side, .pins, .recorder]
        [.frames, .events, .one (obj 0x2700 9), .one (obj 0x2800 2), .one (obj 0x2800 1), .one (obj 0x2800 5), .valves 0x2812,
         .groups 0x2706, .groups 0x2708]
        s (exec .valveEnDeassert s))
  ∧ (∀ (s : State),
      NextKeeps [.out, .od, .drive, .backdrop, .strand, .side, .pins, .recorder]
        [.frames, .events]
        s (exec .valveEnAssert s))
  ∧ (∀ (s : State),
      NextKeeps [.clk, .time, .drive]
        []
        s (exec .valveEnSettled s))
  ∧ (∀ (g : Group) (s : State),
      NextKeeps [.freeCtr, .out, .od, .drive, .seqs, .backdrop, .strand, .side, .recorder]
        [.frames, .events, .one (obj 0x2700 9), .one (obj 0x2800 2), .one (obj 0x2800 1), .one (obj 0x2800 5), .valves 0x2812,
         .groups 0x2706, .groups 0x2708]
        s (exec (.groupOvercurrent g) s))
  ∧ (∀ (v : Valve) (s : State),
      NextKeeps [.freeCtr, .out, .od, .drive, .seqs, .backdrop, .strand, .side, .recorder]
        [.frames, .events, .one (obj 0x2700 9), .groups 0x2706, .groups 0x2708]
        s (exec (.coilShort v) s))
  ∧ (∀ (m : Master) (v : Valve) (value : Nat) (s : State),
      NextKeeps [.out, .od, .drive, .dict]
        [.one (obj 0x2006 1)]
        s (exec (.valveStateWrite m v value) s))
  ∧ (∀ (m : Master) (g : Group) (s : State),
      NextKeeps [.out, .od, .drive, .backdrop, .strand, .dict, .side, .recorder]
        [.frames, .events, .one (obj 0x2006 1)]
        s (exec (.groupRestore m g) s))
  ∧ (∀ (m : Master) (s : State),
      NextKeeps [.freeCtr, .out, .od, .drive, .backdrop, .strand, .dict, .side, .recorder]
        [.frames, .events, .one (obj 0x2700 5), .one (obj 0x2107 5), .one (obj 0x2700 15), .one (obj 0x2700 16), .one (obj 0x2700 17),
         .one (obj 0x2700 12), .one (obj 0x2700 14), .one (obj 0x2700 6), .one (obj 0x2700 9), .one (obj 0x2700 8), .one (obj 0x2700 13),
         .one (obj 0x2006 1), .one (valveKey 0x2726 (s.nat (obj 0x270A 1)))]
        s (exec (.testShot m) s))

/-- Each command of the sequencers and their stores answers a next state in which every part of the state outside the parts listed for it stands as
before, and of the object dictionary every object outside the sets listed for it holds the value it held: the objects the command writes or
counts in, and the counters that sending frames (13 R369) and logging events (13 R383, 15 R430, 17 R467) move. -/
def Obligations.SequencerFrames : Prop :=
  (∀ (v : Valve) (s : State),
      NextKeeps [.clk, .time, .seqs]
        []
        s (exec (.nop v) s))
  ∧ (∀ (v : Valve) (s : State),
      NextKeeps [.clk, .od, .time, .drive, .seqs]
        [.one (obj 0x2700 9), .groups 0x2706, .groups 0x2708]
        s (exec (.boost v) s))
  ∧ (∀ (v : Valve) (tick : Nat) (energy : Nat) (s : State),
      NextKeeps [.clk, .od, .time, .drive, .seqs, .ledger]
        [.one (obj 0x2700 9), .groups 0x2706, .groups 0x2708]
        s (exec (.boostPhaseEnd v tick energy) s))
  ∧ (∀ (v : Valve) (s : State),
      NextKeeps [.clk, .out, .od, .time, .drive, .seqs, .backdrop, .strand, .side, .recorder]
        [.frames, .events, .one (obj 0x2700 9), .one (obj 0x2700 10), .groups 0x2706, .groups 0x2708, .groups 0x2707]
        s (exec (.boostAbandon v) s))
  ∧ (∀ (v : Valve) (s : State),
      NextKeeps [.clk, .freeCtr, .od, .time, .drive, .seqs]
        [.one (obj 0x2700 9), .groups 0x2706, .groups 0x2708]
        s (exec (.hold v) s))
  ∧ (∀ (v : Valve) (s : State),
      NextKeeps [.clk, .time, .seqs]
        []
        s (exec (.holdEnd v) s))
  ∧ (∀ (v : Valve) (s : State),
      NextKeeps [.clk, .od, .time, .drive, .seqs]
        [.one (obj 0x2700 9), .groups 0x2706, .groups 0x2708]
        s (exec (.seti v) s))
  ∧ (∀ (v : Valve) (s : State),
      NextKeeps [.clk, .time, .seqs]
        []
        s (exec (.decay v) s))
  ∧ (∀ (v : Valve) (s : State),
      NextKeeps [.clk, .time, .seqs]
        []
        s (exec (.wait v) s))
  ∧ (∀ (v : Valve) (s : State),
      NextKeeps [.clk, .time, .seqs]
        []
        s (exec (.waitExpiry v) s))
  ∧ (∀ (v : Valve) (s : State),
      NextKeeps [.clk, .time, .seqs]
        []
        s (exec (.waiti v) s))
  ∧ (∀ (v : Valve) (tick : Nat) (reading : Nat) (s : State),
      NextKeeps [.clk, .time, .seqs]
        []
        s (exec (.waitiConditionMet v tick reading) s))
  ∧ (∀ (v : Valve) (reading : Nat) (s : State),
      NextKeeps [.clk, .freeCtr, .out, .od, .time, .drive, .seqs, .backdrop, .strand, .side, .recorder]
        [.frames, .events, .one (obj 0x2800 3), .one (obj 0x2700 9), .one (valveKey 0x2812 v.val), .one (obj 0x2800 2),
         .one (obj 0x2800 1), .one (obj 0x2800 5), .groups 0x2706, .groups 0x2708]
        s (exec (.waitiTimeout v reading) s))
  ∧ (∀ (v : Valve) (s : State),
      NextKeeps [.clk, .time, .seqs]
        []
        s (exec (.mark v) s))
  ∧ (∀ (v : Valve) (s : State),
      NextKeeps [.clk, .freeCtr, .od, .time, .drive, .seqs]
        [.one (obj 0x2700 9), .groups 0x2706, .groups 0x2708]
        s (exec (.off v) s))
  ∧ (∀ (v : Valve) (s : State),
      NextKeeps [.clk, .time, .seqs]
        []
        s (exec (.loop v) s))
  ∧ (∀ (v : Valve) (s : State),
      NextKeeps [.clk, .freeCtr, .od, .time, .drive, .seqs]
        [.one (obj 0x2700 9), .groups 0x2706, .groups 0x2708]
        s (exec (.profileEnd v) s))
  ∧ (∀ (word : FetchedWord) (s : State),
      NextKeeps [.clk, .freeCtr, .out, .od, .time, .drive, .seqs, .backdrop, .strand, .side, .recorder]
        [.frames, .events, .one (obj 0x2700 9), .one (valveKey 0x2812 word.valve), .one (obj 0x2800 2), .one (obj 0x2800 1),
         .one (obj 0x2800 5), .one (valveKey 0x2810 word.valve), .groups 0x2706, .groups 0x2708]
        s (exec (.illegalWord word) s))
  ∧ (∀ (v : Valve) (tick : Nat) (s : State),
      NextKeeps [.clk, .time, .drive, .seqs]
        []
        s (exec (.sequencerIdle v tick) s))
  ∧ (∀ (m : Master) (g : Group) (image : List Byte) (s : State),
      NextKeeps [.out, .od, .seqs, .backdrop, .strand, .dict, .side, .recorder]
        [.frames, .events, .one (obj 0x2006 1), .one (obj 0x2800 9), .one (groupKey 0x2807 g.val)]
        s (exec (.shadowImageWrite m g image) s))
  ∧ (∀ (m : Master) (image : List Byte) (s : State),
      NextKeeps [.out, .od, .seqs, .backdrop, .strand, .dict, .side, .recorder]
        [.frames, .events, .one (obj 0x2800 9), .one (obj 0x2006 1), .groups 0x2807]
        s (exec (.imageAllGroups m image) s))
  ∧ (∀ (m : Master) (g : Group) (s : State),
      NextKeeps [.out, .od, .drive, .seqs, .backdrop, .strand, .dict, .side, .recorder]
        [.frames, .events, .one (obj 0x2800 8), .one (groupKey 0x2806 g.val), .one (obj 0x2800 6), .one (obj 0x2006 1)]
        s (exec (.groupSwapRequest m g) s))
  ∧ (∀ (m : Master) (s : State),
      NextKeeps [.out, .od, .drive, .seqs, .backdrop, .strand, .dict, .side, .recorder]
        [.frames, .events, .one (obj 0x2800 8), .one (obj 0x2800 6), .one (obj 0x2006 1), .groups 0x2806]
        s (exec (.swapAllGroups m) s))
  ∧ (∀ (g : Group) (s : State),
      NextKeeps [.out, .od, .drive, .seqs, .backdrop, .strand, .side, .recorder]
        [.frames, .events, .one (groupKey 0x2806 g.val), .one (obj 0x2800 6)]
        s (exec (.groupSwap g) s))
  ∧ (∀ (g : Group) (s : State),
      NextKeeps [.clk, .time, .seqs]
        []
        s (exec (.swapHold g) s))
  ∧ (∀ (g : Group) (s : State),
      NextKeeps [.clk, .out, .od, .time, .drive, .seqs, .backdrop, .strand, .side, .recorder]
        [.frames, .events, .one (obj 0x2800 7)]
        s (exec (.swapAbandon g) s))
  ∧ (∀ (m : Master) (v : Valve) (profile : Nat) (s : State),
      NextKeeps [.out, .od, .dict]
        [.one (obj 0x2006 1), .one (valveKey 0x2810 v.val)]
        s (exec (.profileSelect m v profile) s))

/-- Each command of the loop engine and the ledger answers a next state in which every part of the state outside the parts listed for it stands as
before, and of the object dictionary every object outside the sets listed for it holds the value it held: the objects the command writes or
counts in, and the counters that sending frames (13 R369) and logging events (13 R383, 15 R430, 17 R467) move. For traceArm, traceSample the
dictionary as a whole is among the parts that may change: an object write, a start or a reset can reach every object. -/
def Obligations.LoopLedgerFrames : Prop :=
  (∀ (s : State),
      NextKeeps [.clk, .out, .od, .time, .drive, .ledger, .backdrop, .strand, .side, .recorder]
        [.frames, .events]
        s (exec .operatingHour s))
  ∧ (∀ (m : Master) (v : Nat) (s : State),
      NextKeeps [.out, .od, .drive, .ledger, .backdrop, .strand, .dict, .side, .recorder]
        [.frames, .events, .one (obj 0x2006 1)]
        s (exec (.valveReplaced m v) s))
  ∧ (∀ (margin : RingMargin) (s : State),
      NextKeeps [.out, .od, .ledger, .backdrop, .strand, .side, .recorder]
        [.frames, .events]
        s (exec (.dieMarginSample margin) s))
  ∧ (∀ (ticks : Nat) (rise : Nat) (s : State),
      NextKeeps [.ledger]
        []
        s (exec (.bulkRechargeMeasured ticks rise) s))
  ∧ (∀ (slot : Fin 8) (ains : List Int) (s : State),
      NextKeeps [.clk, .out, .od, .time, .loops, .backdrop, .strand, .side, .recorder]
        [.frames, .events, .one (slotKey slot.val 0x2A17 1), .one (slotKey slot.val 0x2A17 5), .one (slotKey slot.val 0x2A17 2),
         .one (slotKey slot.val 0x2A17 4), .one (slotKey slot.val 0x2A17 3)]
        s (exec (.loopSample slot ains) s))
  ∧ (∀ (m : Master) (slot : Fin 8) (bank : Nat) (image : List Byte) (s : State),
      NextKeeps [.out, .od, .dict]
        [.frames, .events, .one (obj 0x2006 1), .one (slotKey slot.val (0x2A13 + bank % 2) 1)]
        s (exec (.loopBankWrite m slot bank image) s))
  ∧ (∀ (m : Master) (slot : Fin 8) (s : State),
      NextKeeps [.out, .od, .loops, .backdrop, .strand, .dict, .side, .recorder]
        [.frames, .events, .one (obj 0x2006 1), .one (slotKey slot.val 0x2A17 5)]
        s (exec (.loopBankSwap m slot) s))
  ∧ (∀ (m : Master) (slot : Fin 8) (s : State),
      NextKeeps [.out, .od, .loops, .backdrop, .strand, .dict, .side, .recorder]
        [.frames, .events, .one (obj 0x2006 1), .slots 0x2A17 5]
        s (exec (.loopRearm m slot) s))
  ∧ (∀ (m : Master) (slot : Fin 8) (value : Nat) (s : State),
      NextKeeps [.out, .od, .loops, .backdrop, .strand, .dict, .side, .recorder]
        [.one (obj 0x2006 1), .one (slotKey slot.val 0x2A10 2)]
        s (exec (.loopEnableWrite m slot value) s))
  ∧ (∀ (tick : Nat) (s : State),
      NextKeeps [.clk, .time, .loops]
        []
        s (exec (.pin0Pulse tick) s))
  ∧ (∀ (m : Master) (t : Fin 4) (s : State),
      NextOnly [.freeCtr, .out, .od, .mem, .loops, .backdrop, .strand, .dict, .side, .dma, .recorder]
        s (exec (.traceArm m t) s))
  ∧ (∀ (m : Master) (t : Fin 4) (s : State),
      NextKeeps [.out, .od, .loops, .dict]
        [.one (obj 0x2006 1)]
        s (exec (.traceForceTrigger m t) s))
  ∧ (∀ (m : Master) (t : Fin 4) (s : State),
      NextKeeps [.out, .od, .loops, .dict]
        [.one (obj 0x2006 1)]
        s (exec (.traceStop m t) s))
  ∧ (∀ (t : Fin 4) (ains : List Int) (s : State),
      NextOnly [.clk, .out, .od, .time, .loops, .backdrop, .strand, .side, .dma, .recorder]
        s (exec (.traceSample t ains) s))

/-- Each command of the backdrop panels and strobes answers a next state in which every part of the state outside the parts listed for it stands as
before, and of the object dictionary every object outside the sets listed for it holds the value it held: the objects the command writes or
counts in, and the counters that sending frames (13 R369) and logging events (13 R383, 15 R430, 17 R467) move. -/
def Obligations.BackdropFrames : Prop :=
  (∀ (s : State),
      NextKeeps [.clk, .out, .time, .backdrop]
        []
        s (exec .panelScan s))
  ∧ (∀ (r : Fin 10) (s : State),
      NextKeeps [.clk, .freeCtr, .out, .od, .time, .cams, .pipe, .tracker, .drive, .seqs, .ledger, .loops, .power, .thermal, .backdrop, .module, .strand, .dict, .side, .dma, .recorder, .update]
        [.frames, .events, .cleared, .one (obj 0x2B00 11), .one (obj 0x2B00 6), .one (obj 0x2B00 9), .one (obj 0x2B00 10),
         .one (obj 0x2005 4), .one (obj 0x2C12 1), .one (obj 0x2700 27), .one (obj 0x2B00 12), .one (obj 0x2005 5), .one (obj 0x2005 3),
         .one (obj 0x2B00 13), .one (obj 0x2C01 1), .one (obj 0x2C00 15), .one (obj 0x2001 10), .one (obj 0x2E06 6), .slots 0x2A17 5]
        s (exec (.pairComplete r) s))
  ∧ (∀ (m : Master) (panel : Fin 2) (table : List Byte) (s : State),
      NextKeeps [.out, .od, .backdrop, .strand, .dict, .side, .recorder]
        [.frames, .events, .one (obj 0x2006 1), .one (obj 0x2B03 (panel.val + 1)), .one (obj 0x2B03 (panel.val + 3))]
        s (exec (.waveformTableWrite m panel table) s))
  ∧ (∀ (m : Master) (slot : Fin 8) (s : State),
      NextKeeps [.out, .od, .backdrop, .strand, .dict, .side, .recorder]
        [.frames, .events, .one (obj 0x2B00 8), .one (obj 0x2B00 7), .one (obj 0x2B00 6), .one (obj 0x2B00 12), .one (obj 0x2006 1)]
        s (exec (.regionGo m slot) s))
  ∧ (∀ (m : Master) (slot : Nat) (image : List Byte) (s : State),
      NextKeeps [.out, .od, .backdrop, .strand, .dict, .side, .recorder]
        [.frames, .events, .one (obj 0x2006 1), .one (obj 0x2B10 slot), .one (obj 0x2B11 slot)]
        s (exec (.imageSlotWrite m slot image) s))
  ∧ (∀ (m : Master) (panel : Fin 2) (map : List Byte) (s : State),
      NextKeeps [.out, .od, .backdrop, .strand, .dict, .side, .recorder, .update]
        [.frames, .events, .one (obj 0x2006 1), .one (obj 0x2B04 (panel.val + 1))]
        s (exec (.trimMapWrite m panel map) s))
  ∧ (∀ (reading : Int) (reading2 : Int) (s : State),
      NextKeeps [.clk, .out, .od, .time, .backdrop, .strand, .side, .recorder]
        [.frames, .events, .one (obj 0x2B00 12)]
        s (exec (.railStep reading reading2) s))
  ∧ (∀ (s : State),
      NextKeeps [.clk, .out, .time, .backdrop]
        []
        s (exec .railHoldExpiry s))
  ∧ (∀ (reading : RailReading) (s : State),
      NextKeeps [.clk, .out, .od, .time, .backdrop, .strand, .side, .recorder]
        [.frames, .events, .one (obj 0x2B00 12)]
        s (exec (.railPowerDownStep reading) s))
  ∧ (∀ (s : State),
      NextKeeps [.clk, .out, .od, .time, .backdrop, .strand, .side, .recorder]
        [.frames, .events, .one (obj 0x2B00 12)]
        s (exec .stripWrite s))
  ∧ (∀ (s : State),
      NextKeeps [.out, .od, .backdrop, .strand, .side, .recorder]
        [.frames, .events]
        s (exec .islandStripWrite s))
  ∧ (∀ (m : Master) (s : State),
      NextKeeps [.out, .od, .pipe, .backdrop, .strand, .dict, .side, .recorder]
        [.frames, .events, .one (obj 0x2B00 10), .one (obj 0x2B00 12), .one (obj 0x2006 1)]
        s (exec (.panelGrey m) s))
  ∧ (∀ (m : Master) (s : State),
      NextKeeps [.out, .od, .pipe, .backdrop, .strand, .dict, .side, .recorder]
        [.frames, .events, .one (obj 0x2B00 10), .one (obj 0x2B00 12), .one (obj 0x2006 1)]
        s (exec (.panelHome m) s))
  ∧ (∀ (m : Master) (s : State),
      NextKeeps [.out, .od, .backdrop, .strand, .dict, .side, .recorder]
        [.frames, .events, .one (obj 0x2006 1)]
        s (exec (.eventCodeAck m) s))
  ∧ (∀ (ch : Fin 4) (vf : Nat) (compliance : Bool) (s : State),
      NextKeeps [.clk, .out, .od, .time, .backdrop, .strand, .side, .recorder]
        [.frames, .events, .one (obj (0x2B40 + ch.val) 11), .one (obj (0x2B40 + ch.val) 10)]
        s (exec (.strobePulse ch vf compliance) s))
  ∧ (∀ (m : Master) (ch : Fin 4) (value : Nat) (s : State),
      NextKeeps [.out, .od, .backdrop, .strand, .dict, .side, .recorder]
        [.frames, .events, .one (obj 0x2006 1), .one (obj (0x2B40 + ch.val) 1)]
        s (exec (.strobeEnable m ch value) s))

/-- Each command of power, the module state and the start answers a next state in which every part of the state outside the parts listed for it
stands as before, and of the object dictionary every object outside the sets listed for it holds the value it held: the objects the command
writes or counts in, and the counters that sending frames (13 R369) and logging events (13 R383, 15 R430, 17 R467) move. For powerFailWarning,
dieSample, mainSideStart the dictionary as a whole is among the parts that may change: an object write, a start or a reset can reach every
object. -/
def Obligations.PowerStateFrames : Prop :=
  (∀ (s : State),
      NextKeeps [.out, .od, .power, .backdrop, .strand, .side, .recorder]
        [.frames, .events, .one (obj 0x2C00 12)]
        s (exec .mainsUp s))
  ∧ (∀ (s : State),
      NextKeeps [.out, .od, .power, .backdrop, .strand, .side, .recorder]
        [.frames, .events]
        s (exec .mainsOutOfRange s))
  ∧ (∀ (watts : Nat) (readings : List Nat) (s : State),
      NextKeeps [.clk, .freeCtr, .out, .od, .time, .pipe, .drive, .ledger, .loops, .power, .thermal, .backdrop, .module, .strand, .side, .recorder]
        [.frames, .events, .one (obj 0x2C00 2), .one (obj 0x2C00 3), .one (obj 0x2C00 4), .one (obj 0x2C00 5), .one (obj 0x2C00 6),
         .one (obj 0x2C00 7), .one (obj 0x2C00 8), .one (obj 0x2C00 13), .one (obj 0x2C02 1), .one (obj 0x2C02 2), .one (obj 0x2C02 3),
         .one (obj 0x2005 4), .one (obj 0x2C12 1), .one (obj 0x2700 27)]
        s (exec (.inputPowerSample watts readings) s))
  ∧ (∀ (rail : Nat) (s : State),
      NextKeeps [.freeCtr, .out, .od, .pipe, .tracker, .drive, .seqs, .ledger, .loops, .power, .thermal, .backdrop, .module, .strand, .side, .recorder]
        [.frames, .events, .one (obj 0x2C02 5), .one (obj 0x2005 4), .one (obj 0x2700 9), .one (obj 0x2C12 1), .one (obj 0x2700 27),
         .groups 0x2706, .groups 0x2708, .slots 0x2A17 5]
        s (exec (.railOutOfRegulation rail) s))
  ∧ (∀ (s : State),
      NextOnly [.freeCtr, .out, .od, .mem, .cams, .pipe, .tracker, .drive, .seqs, .ledger, .loops, .power, .thermal, .backdrop, .module, .strand, .dict, .side, .dma, .recorder, .update]
        s (exec .powerFailWarning s))
  ∧ (∀ (s : State),
      NextKeeps [.out, .od, .power, .backdrop, .strand, .side, .recorder]
        [.frames, .events, .one (obj 0x2C00 12)]
        s (exec .mainsReturn s))
  ∧ (∀ (s : State),
      NextKeeps [.clk, .freeCtr, .out, .od, .time, .cams, .pipe, .tracker, .drive, .seqs, .ledger, .loops, .power, .thermal, .backdrop, .module, .strand, .dict, .side, .dma, .recorder, .update]
        [.frames, .events, .cleared, .one (obj 0x2B00 11), .one (obj 0x2B00 6), .one (obj 0x2B00 9), .one (obj 0x2B00 10),
         .one (obj 0x2B00 13), .one (obj 0x2001 10), .one (obj 0x2E06 6), .one (obj 0x2C12 1), .one (obj 0x2700 27), .slots 0x2A17 5]
        s (exec .mainSideOffElapsed s))
  ∧ (∀ (m : Master) (s : State),
      NextKeeps [.out, .od, .mem, .cams, .pipe, .drive, .seqs, .ledger, .loops, .power, .backdrop, .module, .strand, .dict, .side, .recorder]
        [.frames, .events, .one (obj 0x2C00 15), .one (obj 0x2C01 1), .one (obj 0x2400 2), .one (obj 0x2400 5), .one (obj 0x2400 6),
         .one (obj 0x2400 7), .one (obj 0x2405 11), .one (obj 0x2405 12), .one (obj 0x2405 7), .one (obj 0x2006 1), .ports 0x2301 1,
         .ports 0x2306 1, .ports 0x2306 2, .ports 0x2306 3, .ports 0x2306 4, .ports 0x2306 5, .ports 0x2306 6, .ports 0x2306 7,
         .ports 0x2306 8, .ports 0x2306 9, .ports 0x2306 10, .ports 0x2307 6, .ports 0x2307 7, .one (obj 0x2407 7), .one (obj 0x2407 8),
         .one (obj 0x2407 9), .one (obj 0x2407 10)]
        s (exec (.mooredRequest m) s))
  ∧ (∀ (s : State),
      NextKeeps [.clk, .freeCtr, .out, .od, .time, .cams, .pipe, .tracker, .drive, .seqs, .ledger, .loops, .power, .thermal, .backdrop, .module, .strand, .dict, .side, .dma, .recorder, .update]
        [.frames, .events, .cleared, .one (obj 0x2B00 13), .one (obj 0x2C01 1), .one (obj 0x2C00 15), .one (obj 0x2C12 1),
         .one (obj 0x2700 27), .one (obj 0x2001 10), .one (obj 0x2E06 6), .one (obj 0x2B00 12), .slots 0x2A17 5]
        s (exec .mooredUpdatesDone s))
  ∧ (∀ (s : State),
      NextKeeps [.clk, .out, .od, .time, .loops, .power, .backdrop, .strand, .side, .recorder]
        [.frames, .events, .one (obj 0x2C01 1), .one (obj 0x2C00 15)]
        s (exec .mooredEntryTimeout s))
  ∧ (∀ (s : State),
      NextKeeps [.clk, .out, .od, .time, .drive, .ledger, .loops, .power, .thermal, .backdrop, .module, .strand, .side, .recorder]
        [.frames, .events, .one (obj 0x2C01 1), .one (obj 0x2C00 15), .one (obj 0x2C01 6), .one (obj 0x2C00 14), .one (obj 0x2C12 1),
         .one (obj 0x2700 27), .slots 0x2A17 5]
        s (exec .wakeTimer s))
  ∧ (∀ (high : Bool) (s : State),
      NextKeeps [.out, .od, .drive, .ledger, .loops, .power, .thermal, .backdrop, .module, .strand, .side, .recorder]
        [.frames, .events, .one (obj 0x2C01 1), .one (obj 0x2C00 15), .one (obj 0x2C01 6), .one (obj 0x2C00 14), .one (obj 0x2C12 1),
         .one (obj 0x2700 27), .slots 0x2A17 5]
        s (exec (.wakeIn high) s))
  ∧ (∀ (s : State),
      NextKeeps [.clk, .out, .od, .time, .drive, .ledger, .loops, .power, .thermal, .backdrop, .module, .strand, .dict, .side, .recorder]
        [.frames, .events, .one (obj 0x2C01 1), .one (obj 0x2C12 1), .one (obj 0x2700 27), .one (obj 0x2C00 15), .one (obj 0x2C01 6),
         .one (obj 0x2C00 14), .one (obj 0x2006 1), .slots 0x2A17 5]
        s (exec .wakeCanopen s))
  ∧ (∀ (s : State),
      NextKeeps [.out, .od, .power, .backdrop, .strand, .side, .pins, .recorder]
        [.frames, .events, .one (obj 0x2C00 9), .one (obj 0x2C00 10)]
        s (exec .vSbLoss s))
  ∧ (∀ (reading : Option Int) (s : State),
      NextOnly [.clk, .freeCtr, .out, .od, .mem, .time, .cams, .pipe, .tracker, .drive, .seqs, .ledger, .loops, .power, .thermal, .backdrop, .module, .strand, .dict, .side, .dma, .recorder, .update]
        s (exec (.dieSample reading) s))
  ∧ (∀ (s : State),
      NextKeeps [.clk, .freeCtr, .out, .od, .time, .pipe, .tracker, .drive, .seqs, .ledger, .loops, .power, .thermal, .backdrop, .module, .strand, .side, .recorder]
        [.frames, .events, .one (obj 0x2005 4), .one (obj 0x2700 9), .one (obj 0x2C12 1), .one (obj 0x2700 27), .groups 0x2706,
         .groups 0x2708, .slots 0x2A17 5]
        s (exec .diodeBrokenLimit s))
  ∧ (∀ (fan : Fin 4) (s : State),
      NextKeeps [.clk, .out, .od, .time, .loops, .thermal, .backdrop, .strand, .side, .recorder]
        [.frames, .events, .one (obj 0x2C22 (fan.val + 1))]
        s (exec (.fanStall fan) s))
  ∧ (∀ (m : Master) (s : State),
      NextKeeps [.freeCtr, .out, .od, .pipe, .tracker, .drive, .ledger, .loops, .thermal, .backdrop, .module, .strand, .dict, .side, .recorder]
        [.frames, .events, .one (obj 0x2001 2), .one (obj 0x2C12 1), .one (obj 0x2700 27), .one (obj 0x2005 6), .one (obj 0x2006 1),
         .slots 0x2A17 5]
        s (exec (.stateIdle m) s))
  ∧ (∀ (m : Master) (s : State),
      NextKeeps [.freeCtr, .out, .od, .pipe, .drive, .ledger, .loops, .thermal, .backdrop, .module, .strand, .dict, .side, .recorder]
        [.frames, .events, .one (obj 0x2001 2), .one (obj 0x2005 6), .one (obj 0x2005 3), .one (obj 0x2C12 1), .one (obj 0x2700 27),
         .one (obj 0x2B00 10), .one (obj 0x2B00 12), .one (obj 0x2005 4), .one (obj 0x2005 5), .one (obj 0x2006 1), .slots 0x2A17 5]
        s (exec (.stateCalibrate m) s))
  ∧ (∀ (m : Master) (s : State),
      NextKeeps [.out, .od, .drive, .power, .module, .dict]
        [.one (obj 0x2001 2), .one (obj 0x2005 6), .one (obj 0x2006 1)]
        s (exec (.stateSort m) s))
  ∧ (∀ (s : State),
      NextKeeps [.out, .od, .tracker, .drive, .ledger, .loops, .thermal, .backdrop, .module, .strand, .side, .recorder]
        [.frames, .events, .one (obj 0x2C12 1), .one (obj 0x2700 27), .slots 0x2A17 5]
        s (exec .sortingReached s))
  ∧ (∀ (s : State),
      NextKeeps [.clk, .out, .od, .time, .drive, .seqs, .ledger, .loops, .thermal, .backdrop, .module, .strand, .side, .recorder]
        [.frames, .events, .one (obj 0x2C12 1), .one (obj 0x2700 27), .slots 0x2A17 5]
        s (exec .sortStopDone s))
  ∧ (∀ (r : StartReadings) (s : State),
      NextOnly [.clk, .freeCtr, .out, .od, .time, .cams, .pipe, .tracker, .drive, .seqs, .ledger, .loops, .power, .thermal, .backdrop, .module, .strand, .dict, .side, .pins, .dma, .recorder, .update]
        s (exec (.mainSideStart r) s))
  ∧ (∀ (s : State),
      NextKeeps [.od, .drive, .power, .module]
        [.one (obj 0x2001 2), .one (obj 0x2005 6)]
        s (exec .resumeSorting s))
  ∧ (∀ (s : State),
      NextKeeps [.freeCtr, .out, .od, .time, .cams, .pipe, .tracker, .drive, .seqs, .ledger, .loops, .power, .thermal, .backdrop, .module, .strand, .dict, .side, .dma, .recorder, .update]
        [.frames, .events, .cleared, .one (obj 0x2005 4), .one (obj 0x2700 9), .one (obj 0x2800 2), .one (obj 0x2800 1),
         .one (obj 0x2800 5), .one (obj 0x2C12 1), .one (obj 0x2700 27), .one (obj 0x2001 10), .one (obj 0x2E06 6), .one (obj 0x2E06 4),
         .one (obj 0x2005 2), .valves 0x2812, .groups 0x2706, .groups 0x2708, .slots 0x2A17 5]
        s (exec .watchdogExpiry s))
  ∧ (∀ (m : Master) (s : State),
      NextKeeps [.freeCtr, .out, .od, .time, .cams, .pipe, .tracker, .drive, .seqs, .ledger, .loops, .power, .thermal, .backdrop, .module, .strand, .dict, .side, .dma, .recorder, .update]
        [.frames, .events, .cleared, .one (obj 0x2005 6), .one (obj 0x2005 4), .one (obj 0x2700 9), .one (obj 0x2800 2),
         .one (obj 0x2800 1), .one (obj 0x2800 5), .one (obj 0x2C12 1), .one (obj 0x2700 27), .one (obj 0x2001 10), .one (obj 0x2E06 6),
         .one (obj 0x2006 1), .valves 0x2812, .groups 0x2706, .groups 0x2708, .slots 0x2A17 5]
        s (exec (.restartCommand m) s))

/-- Each command of the strand fabric answers a next state in which every part of the state outside the parts listed for it stands as before, and of
the object dictionary every object outside the sets listed for it holds the value it held: the objects the command writes or counts in, and the
counters that sending frames (13 R369) and logging events (13 R383, 15 R430, 17 R467) move. For winWrite the dictionary as a whole is among the
parts that may change: an object write, a start or a reset can reach every object. -/
def Obligations.StrandFrames : Prop :=
  (∀ (l : Link) (s : State),
      NextKeeps [.out, .od, .strand]
        [.frames]
        s (exec (.signalDetect l) s))
  ∧ (∀ (l : Link) (s : State),
      NextKeeps [.clk, .out, .od, .time, .strand]
        [.frames]
        s (exec (.retrainTimer l) s))
  ∧ (∀ (l : Link) (h : Hello) (s : State),
      NextKeeps [.out, .od, .pipe, .tracker, .backdrop, .strand, .side, .recorder]
        [.frames, .events, .one (obj 0x260E 12), .one (obj 0x260E 2), .one (obj 0x260E 3), .one (obj 0x260E 15), .one (obj 0x260E 1)]
        s (exec (.hello l h) s))
  ∧ (∀ (l : Link) (s : State),
      NextKeeps [.out, .od, .pipe, .tracker, .backdrop, .strand, .side, .recorder]
        [.frames, .events, .one (obj (0x2210 + l.val) 7), .one (obj 0x260E 12), .one (obj 0x260E 2), .one (obj 0x260E 3),
         .one (obj 0x260E 15), .one (obj 0x260E 1)]
        s (exec (.syncHeaderErrors l) s))
  ∧ (∀ (l : Link) (type : Nat) (s : State),
      NextKeeps [.out, .od, .pipe, .tracker, .backdrop, .strand, .side, .recorder]
        [.frames, .events, .one (obj (0x2210 + l.val) 7), .one (obj 0x260E 12), .one (obj 0x260E 2), .one (obj 0x260E 3),
         .one (obj 0x260E 15), .one (obj 0x260E 1)]
        s (exec (.unknownControlBlock l type) s))
  ∧ (∀ (s : State),
      NextKeeps [.clk, .out, .od, .time, .strand]
        [.frames]
        s (exec .heartbeatSend s))
  ∧ (∀ (l : Link) (id : Nat) (state : Nat) (time : Nat) (load : Nat) (seq : Nat) (s : State),
      NextKeeps [.out, .od, .strand]
        [.frames]
        s (exec (.heartbeatReceived l id state time load seq) s))
  ∧ (∀ (l : Link) (s : State),
      NextKeeps [.clk, .out, .od, .time, .pipe, .tracker, .backdrop, .strand, .side, .recorder]
        [.frames, .events, .one (obj (0x2210 + l.val) 6), .one (obj (0x2210 + l.val) 7), .one (obj 0x260E 12), .one (obj 0x260E 2),
         .one (obj 0x260E 3), .one (obj 0x260E 15), .one (obj 0x260E 1)]
        s (exec (.heartbeatLoss l) s))
  ∧ (∀ (l : Link) (f : Frame) (seq : Nat) (crc : Nat) (s : State),
      NextKeeps [.out, .od, .strand]
        [.frames, .one (obj (0x2210 + l.val) 3), .one (obj (0x2210 + l.val) 2), .one (obj (0x2210 + l.val) 5)]
        s (exec (.frameReceived l f seq crc) s))
  ∧ (∀ (l : Link) (seq : Nat) (nak : Bool) (s : State),
      NextKeeps [.out, .od, .pipe, .tracker, .backdrop, .strand, .side, .recorder]
        [.frames, .events, .one (obj (0x2210 + l.val) 7), .one (obj 0x260E 12), .one (obj 0x260E 2), .one (obj 0x260E 3),
         .one (obj 0x260E 15), .one (obj 0x260E 1), .one (obj (0x2210 + l.val) 4)]
        s (exec (.ackBlock l seq nak) s))
  ∧ (∀ (l : Link) (vc : Nat) (blocks : Nat) (s : State),
      NextKeeps [.out, .od, .strand]
        [.frames]
        s (exec (.creditBlock l vc blocks) s))
  ∧ (∀ (s : State),
      NextKeeps [.out, .od, .strand, .recorder]
        [.frames, .events, .one (obj 0x2206 1)]
        s (exec .frameForward s))
  ∧ (∀ (l : Link) (r : Topo) (s : State),
      NextKeeps [.out, .od, .pipe, .tracker, .backdrop, .strand, .side, .recorder]
        [.frames, .events, .one (obj 0x260E 12), .one (obj 0x260E 2), .one (obj 0x260E 3), .one (obj 0x260E 15), .one (obj 0x260E 1)]
        s (exec (.topoRecord l r) s))
  ∧ (∀ (s : State),
      NextKeeps [.clk, .out, .od, .time, .strand]
        [.frames]
        s (exec .topoFlood s))
  ∧ (∀ (id : Nat) (s : State),
      NextKeeps [.clk, .out, .od, .time, .pipe, .tracker, .backdrop, .strand, .side, .recorder]
        [.frames, .events, .one (obj 0x260E 12), .one (obj 0x260E 2), .one (obj 0x260E 3), .one (obj 0x260E 15), .one (obj 0x260E 1)]
        s (exec (.topoExpiry id) s))
  ∧ (∀ (src : Nat) (txn : Nat) (address : Nat) (len : Nat) (s : State),
      NextKeeps [.out, .od, .strand, .recorder]
        [.frames, .events, .one (obj 0x2206 9), .one (obj 0x2206 10)]
        s (exec (.winRead src txn address len) s))
  ∧ (∀ (src : Nat) (txn : Nat) (address : Nat) (data : List Byte) (s : State),
      NextOnly [.freeCtr, .out, .od, .mem, .backdrop, .strand, .side, .dma, .recorder, .update]
        s (exec (.winWrite src txn address data) s))
  ∧ (∀ (src : Nat) (stream : Nat) (seq : Nat) (last : Bool) (address : Nat) (data : List Byte) (s : State),
      NextKeeps [.od, .mem]
        [.one (obj 0x2206 11), .one (obj 0x2206 12)]
        s (exec (.bulkFrame src stream seq last address data) s))
  ∧ (∀ (m : Fin 4) (s : State),
      NextKeeps [.out, .od, .backdrop, .strand, .side, .dma, .recorder, .update]
        [.frames, .events, .one (obj 0x2E06 6), .one (obj 0x2E06 1), .one (obj 0x2F00 2), .one (obj 0x2F01 (0 + 1)), .one (obj 0x2F00 7)]
        s (exec (.mboxBell m) s))
  ∧ (∀ (stream : Fin 16) (cfg : Bool) (value : Nat) (s : State),
      NextKeeps [.strand]
        []
        s (exec (.streamCfgWrite stream cfg value) s))

/-- Each command of the object dictionary and the island pins answers a next state in which every part of the state outside the parts listed for it
stands as before, and of the object dictionary every object outside the sets listed for it holds the value it held: the objects the command
writes or counts in, and the counters that sending frames (13 R369) and logging events (13 R383, 15 R430, 17 R467) move. For vSbReturn,
dictWrite, objectWrite, stageCommit, islandWatchdogExpiry the dictionary as a whole is among the parts that may change: an object write, a start
or a reset can reach every object. -/
def Obligations.DictionaryIslandFrames : Prop :=
  (∀ (mV : Nat) (s : State),
      NextOnly [.out, .od, .power, .backdrop, .strand, .side, .pins, .recorder]
        s (exec (.vSbReturn mV) s))
  ∧ (∀ (src : Nat) (txn : Nat) (index : Nat) (sub : Nat) (part : DictPart) (s : State),
      NextKeeps [.freeCtr, .out, .od, .cams, .drive, .strand, .recorder]
        [.frames, .events, .one (obj 0x2206 7), .one (obj 0x2206 8)]
        s (exec (.dictRead src txn index sub part) s))
  ∧ (∀ (src : Nat) (txn : Nat) (index : Nat) (sub : Nat) (whole : Bool) (offset : Nat) (total : Nat) (data : List Byte) (s : State),
      NextOnly [.clk, .freeCtr, .out, .od, .mem, .time, .cams, .pipe, .tracker, .drive, .seqs, .ledger, .loops, .power, .thermal, .backdrop, .module, .strand, .dict, .side, .dma, .recorder, .update]
        s (exec (.dictWrite src txn index sub whole offset total data) s))
  ∧ (∀ (src : Nat) (txn : Nat) (s : State),
      NextKeeps [.clk, .out, .od, .time, .strand, .recorder]
        [.frames, .events, .one (obj 0x2206 7), .one (obj 0x2206 8)]
        s (exec (.dictSegmentTimeout src txn) s))
  ∧ (∀ (m : Master) (index : Nat) (sub : Nat) (v : Val) (s : State),
      NextOnly [.clk, .freeCtr, .out, .od, .mem, .time, .cams, .pipe, .tracker, .drive, .seqs, .ledger, .loops, .power, .thermal, .backdrop, .module, .strand, .dict, .side, .dma, .recorder, .update]
        s (exec (.objectWrite m index sub v) s))
  ∧ (∀ (m : Master) (first : Nat) (last : Nat) (lease : Nat) (slot : Nat) (s : State),
      NextKeeps [.out, .od, .backdrop, .strand, .dict, .side, .recorder]
        [.frames, .events, .one (obj 0x2006 3), .one (obj 0x2006 1)]
        s (exec (.lockAcquire m first last lease slot) s))
  ∧ (∀ (m : Master) (lease : Nat) (slot : Nat) (s : State),
      NextKeeps [.out, .od, .backdrop, .strand, .dict, .side, .recorder]
        [.frames, .events, .one (obj 0x2006 3), .one (obj 0x2006 1)]
        s (exec (.lockRenew m lease slot) s))
  ∧ (∀ (m : Master) (slot : Nat) (s : State),
      NextKeeps [.out, .od, .backdrop, .strand, .dict, .side, .recorder]
        [.frames, .events, .one (obj 0x2006 3), .one (obj 0x2006 1)]
        s (exec (.lockRelease m slot) s))
  ∧ (∀ (slot : Fin 4) (s : State),
      NextKeeps [.clk, .out, .od, .time, .backdrop, .strand, .dict, .side, .recorder]
        [.frames, .events, .one (obj 0x2006 3)]
        s (exec (.lockExpiry slot) s))
  ∧ (∀ (m : Master) (s : State),
      NextKeeps [.out, .od, .dict]
        [.one (obj 0x2006 1)]
        s (exec (.stageOpen m) s))
  ∧ (∀ (m : Master) (s : State),
      NextOnly [.clk, .freeCtr, .out, .od, .mem, .time, .cams, .pipe, .tracker, .drive, .seqs, .ledger, .loops, .power, .thermal, .backdrop, .module, .strand, .dict, .side, .dma, .recorder, .update]
        s (exec (.stageCommit m) s))
  ∧ (∀ (m : Master) (s : State),
      NextKeeps [.out, .od, .dict]
        [.one (obj 0x2006 1)]
        s (exec (.stageDiscard m) s))
  ∧ (∀ (m : Master) (s : State),
      NextKeeps [.clk, .out, .od, .time, .backdrop, .strand, .dict, .side, .recorder]
        [.frames, .events, .one (obj 0x2006 6)]
        s (exec (.stageTimeout m) s))
  ∧ (∀ (m : Master) (part : Fin 3) (value : Nat) (ends : StoreEnd) (s : State),
      NextKeeps [.out, .od, .backdrop, .strand, .dict, .side, .dma, .recorder]
        [.frames, .events, .one (obj 0x2F00 2), .one (obj 0x2F01 (4 + 1)), .one (obj 0x2F00 7), .one (obj 0x2006 7), .one (obj 0x2006 8),
         .one (obj 0x2006 1)]
        s (exec (.storeParameters m part value ends) s))
  ∧ (∀ (m : Master) (part : Fin 3) (req : RestoreReq) (s : State),
      NextKeeps [.out, .od, .backdrop, .strand, .dict, .side, .dma, .recorder]
        [.frames, .events, .one (obj 0x2F00 2), .one (obj 0x2F01 (4 + 1)), .one (obj 0x2F00 7), .one (obj 0x2006 7), .one (obj 0x2006 8),
         .one (obj 0x2006 1)]
        s (exec (.restoreDefaults m part req) s))
  ∧ (∀ (level : Bool) (s : State),
      NextKeeps [.out, .od, .backdrop, .strand, .side, .pins, .recorder]
        [.frames, .events]
        s (exec (.airOkEdge level) s))
  ∧ (∀ (level : Bool) (s : State),
      NextKeeps [.out, .od, .backdrop, .strand, .side, .pins, .recorder]
        [.frames, .events]
        s (exec (.guardOkEdge level) s))
  ∧ (∀ (out : Fin 5) (s : State),
      NextKeeps [.out, .od, .backdrop, .strand, .side, .pins, .recorder]
        [.frames, .events]
        s (exec (.doutOverload out) s))
  ∧ (∀ (out : Fin 5) (s : State),
      NextKeeps [.clk, .out, .time, .pins]
        []
        s (exec (.doutRetry out) s))
  ∧ (∀ (row : Nat) (westEnd : Bool) (s : State),
      NextKeeps [.out, .od, .backdrop, .strand, .side, .recorder]
        [.frames, .events]
        s (exec (.strapRead row westEnd) s))
  ∧ (∀ (fan : Fin 4) (period : Nat) (s : State),
      NextKeeps [.clk, .out, .time, .ledger, .loops, .power, .thermal]
        []
        s (exec (.tachometerPulse fan period) s))
  ∧ (∀ (s : State),
      NextOnly [.out, .od, .backdrop, .module, .strand, .side, .recorder]
        s (exec .islandWatchdogExpiry s))

/-- Each command of the CANopen side-band answers a next state in which every part of the state outside the parts listed for it stands as before, and
of the object dictionary every object outside the sets listed for it holds the value it held: the objects the command writes or counts in, and
the counters that sending frames (13 R369) and logging events (13 R383, 15 R430, 17 R467) move. For nmtResetCommunication, nmtResetNode,
sdoDownload, syncFrame, rpdo the dictionary as a whole is among the parts that may change: an object write, a start or a reset can reach every
object. -/
def Obligations.CanFrames : Prop :=
  (∀ (node : Nat) (s : State),
      NextKeeps [.out, .od, .backdrop, .strand, .side, .recorder]
        [.frames, .events]
        s (exec (.nmtStart node) s))
  ∧ (∀ (node : Nat) (s : State),
      NextKeeps [.out, .od, .backdrop, .strand, .side, .recorder]
        [.frames, .events]
        s (exec (.nmtStop node) s))
  ∧ (∀ (node : Nat) (s : State),
      NextKeeps [.out, .od, .backdrop, .strand, .side, .recorder]
        [.frames, .events]
        s (exec (.nmtPreOperational node) s))
  ∧ (∀ (node : Nat) (s : State),
      NextOnly [.out, .od, .backdrop, .strand, .side, .recorder]
        s (exec (.nmtResetCommunication node) s))
  ∧ (∀ (node : Nat) (s : State),
      NextOnly [.freeCtr, .out, .od, .time, .cams, .pipe, .tracker, .drive, .seqs, .ledger, .loops, .power, .thermal, .backdrop, .module, .strand, .dict, .side, .dma, .recorder, .update]
        s (exec (.nmtResetNode node) s))
  ∧ (∀ (kind : CanKind) (id : Nat) (data : List Byte) (s : State),
      NextKeeps [.freeCtr, .out, .od, .backdrop, .strand, .side, .recorder]
        [.frames, .events, .one (obj 0x2D02 12)]
        s (exec (.canFrameReceived kind id data) s))
  ∧ (∀ (tec : Nat) (rec_ : Nat) (s : State),
      NextKeeps [.out, .od, .backdrop, .strand, .side, .recorder]
        [.frames, .events]
        s (exec (.canBusError tec rec_) s))
  ∧ (∀ (s : State),
      NextKeeps [.clk, .out, .od, .time, .backdrop, .strand, .side, .recorder]
        [.frames, .events]
        s (exec .busOffRecovery s))
  ∧ (∀ (s : State),
      NextKeeps [.side]
        []
        s (exec .clockSourceChange s))
  ∧ (∀ (index : Nat) (sub : Nat) (complete : Bool) (data : List Byte) (request : SdoDown) (s : State),
      NextOnly [.clk, .freeCtr, .out, .od, .mem, .time, .cams, .pipe, .tracker, .drive, .seqs, .ledger, .loops, .power, .thermal, .backdrop, .module, .strand, .dict, .side, .dma, .recorder, .update]
        s (exec (.sdoDownload index sub complete data request) s))
  ∧ (∀ (index : Nat) (sub : Nat) (request : SdoUp) (s : State),
      NextKeeps [.freeCtr, .out, .od, .cams, .drive, .backdrop, .strand, .side, .recorder]
        [.frames, .events]
        s (exec (.sdoUpload index sub request) s))
  ∧ (∀ (s : State),
      NextKeeps [.clk, .out, .time, .side]
        []
        s (exec .sdoTimeout s))
  ∧ (∀ (data : List Byte) (s : State),
      NextOnly [.clk, .freeCtr, .out, .od, .mem, .time, .cams, .pipe, .tracker, .drive, .seqs, .ledger, .loops, .power, .thermal, .backdrop, .module, .strand, .dict, .side, .dma, .recorder, .update]
        s (exec (.syncFrame data) s))
  ∧ (∀ (n : Fin 4) (data : List Byte) (s : State),
      NextOnly [.clk, .freeCtr, .out, .od, .mem, .time, .cams, .pipe, .tracker, .drive, .seqs, .ledger, .loops, .power, .thermal, .backdrop, .module, .strand, .dict, .side, .dma, .recorder, .update]
        s (exec (.rpdo n data) s))
  ∧ (∀ (n : Fin 4) (s : State),
      NextKeeps [.clk, .time, .drive, .side, .recorder]
        []
        s (exec (.tpdoEventTimer n) s))
  ∧ (∀ (s : State),
      NextKeeps [.clk, .time, .side]
        []
        s (exec .emcySend s))
  ∧ (∀ (s : State),
      NextKeeps [.clk, .time, .side]
        []
        s (exec .heartbeatProduce s))
  ∧ (∀ (entry : Fin 4) (s : State),
      NextKeeps [.clk, .out, .od, .time, .backdrop, .strand, .side, .recorder]
        [.frames, .events]
        s (exec (.heartbeatConsumerTimeout entry) s))
  ∧ (∀ (mode : Nat) (s : State),
      NextKeeps [.side]
        []
        s (exec (.lssSwitchGlobal mode) s))
  ∧ (∀ (vendor : Nat) (product : Nat) (revision : Nat) (serial : Nat) (s : State),
      NextKeeps [.side]
        []
        s (exec (.lssSwitchSelective vendor product revision serial) s))
  ∧ (∀ (node : Nat) (s : State),
      NextKeeps [.side]
        []
        s (exec (.lssConfigureNodeId node) s))
  ∧ (∀ (table : Nat) (index : Nat) (s : State),
      NextKeeps [.side]
        []
        s (exec (.lssConfigureBitTiming table index) s))
  ∧ (∀ (delay : Nat) (s : State),
      NextKeeps [.side]
        []
        s (exec (.lssActivateBitTiming delay) s))
  ∧ (∀ (s : State),
      NextKeeps [.clk, .out, .od, .time, .backdrop, .strand, .side, .recorder]
        [.frames, .events]
        s (exec .lssSwitchDelayEnd s))
  ∧ (∀ (ok : Bool) (s : State),
      NextKeeps [.out, .od, .backdrop, .strand, .side, .recorder]
        [.frames, .events]
        s (exec (.lssStoreConfiguration ok) s))
  ∧ (∀ (s : State),
      NextKeeps [.side]
        []
        s (exec .lssInquireVendorId s))
  ∧ (∀ (s : State),
      NextKeeps [.side]
        []
        s (exec .lssInquireProductCode s))
  ∧ (∀ (s : State),
      NextKeeps [.side]
        []
        s (exec .lssInquireRevision s))
  ∧ (∀ (s : State),
      NextKeeps [.side]
        []
        s (exec .lssInquireSerial s))
  ∧ (∀ (s : State),
      NextKeeps [.side]
        []
        s (exec .lssInquireNodeId s))
  ∧ (∀ (vendor : Nat) (product : Nat) (revLow : Nat) (revHigh : Nat) (serLow : Nat) (serHigh : Nat) (s : State),
      NextKeeps [.side]
        []
        s (exec (.lssIdentifyRemoteSlave vendor product revLow revHigh serLow serHigh) s))
  ∧ (∀ (s : State),
      NextKeeps [.side]
        []
        s (exec .lssIdentifyNonConfigured s))
  ∧ (∀ (number : Nat) (bitCheck : Nat) (sub : Nat) (next : Nat) (s : State),
      NextKeeps [.side]
        []
        s (exec (.lssFastscan number bitCheck sub next) s))
  ∧ (∀ (s : State),
      NextKeeps [.out, .od, .backdrop, .strand, .side, .recorder]
        [.frames, .events]
        s (exec .canFrameSent s))

/-- Each command of the DMA engine and the event recorder answers a next state in which every part of the state outside the parts listed for it
stands as before, and of the object dictionary every object outside the sets listed for it holds the value it held: the objects the command
writes or counts in, and the counters that sending frames (13 R369) and logging events (13 R383, 15 R430, 17 R467) move. For chStart, chAbort,
chAppend, requestorAssert, requestorWithdraw, dmaStall, exportDone the dictionary as a whole is among the parts that may change: an object write,
a start or a reset can reach every object. -/
def Obligations.DmaRecorderFrames : Prop :=
  (∀ (c : ChanRead) (s : State),
      NextOnly [.out, .od, .backdrop, .strand, .side, .dma, .recorder]
        s (exec (.chStart c) s))
  ∧ (∀ (c : Fin 16) (moved : Burst) (data : List Byte) (s : State),
      NextOnly [.out, .od, .mem, .backdrop, .strand, .side, .dma, .recorder]
        s (exec (.chAbort c moved data) s))
  ∧ (∀ (c : ChanRead) (s : State),
      NextOnly [.out, .od, .backdrop, .strand, .side, .dma, .recorder]
        s (exec (.chAppend c) s))
  ∧ (∀ (c : Fin 16) (value : Nat) (s : State),
      NextKeeps [.dma]
        []
        s (exec (.chNextWrite c value) s))
  ∧ (∀ (c : Fin 16) (s : State),
      NextKeeps [.dma]
        []
        s (exec (.chIrqClear c) s))
  ∧ (∀ (c : Fin 16) (unmask : Bool) (s : State),
      NextKeeps [.dma]
        []
        s (exec (.chIrqUnmask c unmask) s))
  ∧ (∀ (data : List Byte) (bad : Option MemError) (s : State),
      NextKeeps [.out, .od, .mem, .backdrop, .strand, .side, .dma, .recorder]
        ([.frames, .events, .one (obj 0x2F00 2), .one (obj 0x2F00 3), .one (obj 0x2F00 7), .one (obj 0x2F04 2)]
      ++ (match s.dma.fifo with | c :: _ => [.one (obj 0x2F01 (c + 1))] | [] => []))
        s (exec (.descriptorComplete data bad) s))
  ∧ (∀ (code : Nat) (s : State),
      NextOnly [.out, .od, .backdrop, .strand, .side, .dma, .recorder]
        s (exec (.requestorAssert code) s))
  ∧ (∀ (code : Nat) (moved : Burst) (data : List Byte) (s : State),
      NextOnly [.out, .od, .mem, .backdrop, .strand, .side, .dma, .recorder]
        s (exec (.requestorWithdraw code moved data) s))
  ∧ (∀ (s : State),
      NextOnly [.clk, .out, .od, .time, .backdrop, .strand, .side, .dma, .recorder]
        s (exec .dmaStall s))
  ∧ (∀ (s : State),
      NextKeeps [.out, .od, .strand, .side, .recorder]
        [.frames, .events, .cleared, .one (obj 0x2206 7), .one (obj 0x2206 8)]
        s (exec .recordWriteDone s))
  ∧ (∀ (s : State),
      NextKeeps [.clk, .time, .recorder]
        []
        s (exec .tallySample s))
  ∧ (∀ (m : Master) (sub : Nat) (v : Val) (s : State),
      NextKeeps [.out, .od, .dict, .recorder]
        [.one (obj 0x2006 1), .one (obj 0x2D01 (sub % 256))]
        s (exec (.tallyConfigWrite m sub v) s))
  ∧ (∀ (m : Master) (seq : Nat) (s : State),
      NextKeeps [.out, .od, .dict, .recorder]
        [.one (obj 0x2006 1)]
        s (exec (.selectBySequence m seq) s))
  ∧ (∀ (m : Master) (address : Nat) (s : State),
      NextKeeps [.out, .od, .dict, .dma, .recorder]
        [.one (obj 0x2006 1)]
        s (exec (.exportLog m address) s))
  ∧ (∀ (s : State),
      NextOnly [.out, .od, .mem, .backdrop, .strand, .side, .dma, .recorder]
        s (exec .exportDone s))
  ∧ (∀ (m : Master) (s : State),
      NextKeeps [.freeCtr, .out, .recorder]
        []
        s (exec (.clearChallenge m) s))
  ∧ (∀ (m : Master) (response : List Byte) (s : State),
      NextKeeps [.out, .od, .backdrop, .strand, .dict, .side, .recorder]
        [.frames, .events, .cleared, .one (obj 0x2D05 4), .one (obj 0x2006 1)]
        s (exec (.clearResponse m response) s))
  ∧ (∀ (s : State),
      NextKeeps [.clk, .time, .recorder]
        []
        s (exec .clearLockExpiry s))

/-- Each command of the update engine answers a next state in which every part of the state outside the parts listed for it stands as before, and of
the object dictionary every object outside the sets listed for it holds the value it held: the objects the command writes or counts in, and the
counters that sending frames (13 R369) and logging events (13 R383, 15 R430, 17 R467) move. -/
def Obligations.UpdateFrames : Prop :=
  (∀ (m : Master) (offset : Nat) (total : Nat) (data : List Byte) (s : State),
      NextKeeps [.out, .od, .backdrop, .strand, .dict, .side, .recorder, .update]
        [.frames, .events, .one (obj 0x2E06 6), .one (obj 0x2E06 1), .one (obj 0x2006 1)]
        s (exec (.stagingImageWrite m offset total data) s))
  ∧ (∀ (s : State),
      NextKeeps [.clk, .out, .od, .time, .backdrop, .strand, .side, .recorder, .update]
        [.frames, .events, .one (obj 0x2E06 6)]
        s (exec .stagingIdleTimeout s))
  ∧ (∀ (s : State),
      NextKeeps [.out, .od, .backdrop, .strand, .side, .recorder, .update]
        [.frames, .events, .one (obj 0x2E06 2)]
        s (exec .verifyDone s))
  ∧ (∀ (m : Master) (s : State),
      NextKeeps [.out, .od, .dict, .update]
        [.one (obj 0x2006 1)]
        s (exec (.updateVerifyAgain m) s))
  ∧ (∀ (m : Master) (s : State),
      NextKeeps [.out, .od, .backdrop, .strand, .dict, .side, .recorder, .update]
        [.frames, .events, .one (obj 0x2006 1)]
        s (exec (.updateMarkPending m) s))
  ∧ (∀ (m : Master) (s : State),
      NextKeeps [.freeCtr, .out, .od, .time, .cams, .pipe, .tracker, .drive, .seqs, .ledger, .loops, .power, .thermal, .backdrop, .module, .strand, .dict, .side, .dma, .recorder, .update]
        [.frames, .events, .cleared, .one (obj 0x2005 4), .one (obj 0x2700 9), .one (obj 0x2800 2), .one (obj 0x2800 1),
         .one (obj 0x2800 5), .one (obj 0x2C12 1), .one (obj 0x2700 27), .one (obj 0x2001 10), .one (obj 0x2E06 6), .one (obj 0x2006 1),
         .valves 0x2812, .groups 0x2706, .groups 0x2708, .slots 0x2A17 5]
        s (exec (.updateMarkPendingRestart m) s))
  ∧ (∀ (m : Master) (s : State),
      NextKeeps [.out, .od, .backdrop, .strand, .dict, .side, .recorder, .update]
        [.frames, .events, .one (obj 0x2006 1)]
        s (exec (.updateCancelPending m) s))
  ∧ (∀ (m : Master) (s : State),
      NextKeeps [.freeCtr, .out, .od, .time, .cams, .pipe, .tracker, .drive, .seqs, .ledger, .loops, .power, .thermal, .backdrop, .module, .strand, .dict, .side, .dma, .recorder, .update]
        [.frames, .events, .cleared, .one (obj 0x2005 4), .one (obj 0x2700 9), .one (obj 0x2800 2), .one (obj 0x2800 1),
         .one (obj 0x2800 5), .one (obj 0x2C12 1), .one (obj 0x2700 27), .one (obj 0x2001 10), .one (obj 0x2E06 6), .one (obj 0x2006 1),
         .valves 0x2812, .groups 0x2706, .groups 0x2708, .slots 0x2A17 5]
        s (exec (.updateRestartFromStaging m) s))
  ∧ (∀ (m : Master) (s : State),
      NextKeeps [.out, .od, .backdrop, .strand, .dict, .side, .dma, .recorder, .update]
        [.frames, .events, .one (obj 0x2F00 2), .one (obj 0x2F01 (0 + 1)), .one (obj 0x2F00 7), .one (obj 0x2E06 1), .one (obj 0x2006 1)]
        s (exec (.updateStageFromDdr m) s))
  ∧ (∀ (s : State),
      NextKeeps [.out, .od, .backdrop, .strand, .side, .recorder, .update]
        [.frames, .events, .one (obj 0x2E06 3)]
        s (exec .copyBlockDone s))
  ∧ (∀ (s : State),
      NextKeeps [.clk, .out, .od, .time, .backdrop, .strand, .side, .recorder, .update]
        [.frames, .events, .one (obj 0x2E06 3)]
        s (exec .firstStartWatchEnd s))
  ∧ (∀ (m : Master) (slot : Nat) (image : List Byte) (s : State),
      NextKeeps [.out, .od, .backdrop, .strand, .dict, .side, .dma, .recorder, .update]
        [.frames, .events, .one (obj 0x2F00 2), .one (obj 0x2F01 (1 + 1)), .one (obj 0x2F00 7), .one (obj 0x2006 1)]
        s (exec (.librarySlotWrite m slot image) s))
end

