-- ==== Sys2Proof/Laws/Assoc.lean ====
section
/-!
SUPPORT. Sorted association lists and memory: what is read after a write, and that every write keeps the canonical form.
-/
set_option Elab.async false
set_option linter.all false

namespace Sys2Proof.Machine

variable {α : Type}

/-! ### Reading after writing -/

@[simp] theorem assocGet_assocSet_same (l : List (Nat × α)) (k : Nat) (v : α) : assocGet (assocSet l k v) k = some v := by
  induction l with
  | nil => simp [assocSet, assocGet]
  | cons a r ih =>
    simp only [assocSet]
    split
    · simp [assocGet]
    · split
      · simp [assocGet]
      · simp only [assocGet]
        rw [if_neg (by omega), ih]

theorem assocGet_assocSet_ne (l : List (Nat × α)) (k j : Nat) (v : α) (h : j ≠ k) :
    assocGet (assocSet l k v) j = assocGet l j := by
  induction l with
  | nil => simp [assocSet, assocGet, Ne.symm h]
  | cons a r ih =>
    simp only [assocSet]
    split
    · simp [assocGet, Ne.symm h]
    · split
      · next _ e => simp [assocGet, Ne.symm h, ← e]
      · simp [assocGet, ih]

theorem assocGet_assocErase_ne (l : List (Nat × α)) (k j : Nat) (h : j ≠ k) :
    assocGet (assocErase l k) j = assocGet l j := by
  induction l with
  | nil => rfl
  | cons a r ih =>
    simp only [assocErase]
    split
    · next e => simp [assocGet, e, Ne.symm h]
    · simp [assocGet, ih]

/-! ### The canonical form -/

theorem assocSorted_cons (a : Nat × α) (r : List (Nat × α)) :
    assocSorted (a :: r) = true ↔ (∀ b ∈ r, a.1 < b.1) ∧ assocSorted r = true := by
  induction r generalizing a with
  | nil => simp [assocSorted]
  | cons b r ih =>
    simp only [assocSorted, Bool.and_eq_true, decide_eq_true_eq, List.mem_cons, forall_eq_or_imp]
    constructor
    · rintro ⟨h, k⟩
      exact ⟨⟨h, fun c hc => lt_trans h (((ih b).1 k).1 c hc)⟩, k⟩
    · rintro ⟨⟨h, _⟩, k⟩
      exact ⟨h, k⟩

theorem mem_assocSet {l : List (Nat × α)} {k : Nat} {v : α} {b : Nat × α} (h : b ∈ assocSet l k v) : b = (k, v) ∨ b ∈ l := by
  induction l with
  | nil => exact .inl (by simpa [assocSet] using h)
  | cons a r ih =>
    simp only [assocSet] at h
    split at h
    · rcases List.mem_cons.1 h with h | h
      · exact .inl h
      · exact .inr h
    · split at h
      · rcases List.mem_cons.1 h with h | h
        · exact .inl h
        · exact .inr (List.mem_cons_of_mem _ h)
      · rcases List.mem_cons.1 h with h | h
        · exact .inr (h ▸ List.mem_cons_self)
        · exact (ih h).imp_right (List.mem_cons_of_mem _)

theorem assocSorted_assocSet {l : List (Nat × α)} (k : Nat) (v : α) (h : assocSorted l = true) :
    assocSorted (assocSet l k v) = true := by
  induction l with
  | nil => rfl
  | cons a r ih =>
    obtain ⟨h1, h2⟩ := (assocSorted_cons a r).1 h
    simp only [assocSet]
    split
    · next e =>
      refine (assocSorted_cons _ _).2 ⟨fun b hb => ?_, h⟩
      rcases List.mem_cons.1 hb with hb | hb
      · exact hb ▸ e
      · exact lt_trans e (h1 b hb)
    · split
      · next e => exact (assocSorted_cons _ _).2 ⟨fun b hb => e ▸ h1 b hb, h2⟩
      · next e1 e2 =>
        refine (assocSorted_cons _ _).2 ⟨fun b hb => ?_, ih h2⟩
        rcases mem_assocSet hb with hb | hb
        · subst hb
          show a.1 < k
          omega
        · exact h1 b hb

theorem mem_assocErase {l : List (Nat × α)} {k : Nat} {b : Nat × α} (h : b ∈ assocErase l k) : b ∈ l := by
  induction l with
  | nil => exact h
  | cons a r ih =>
    simp only [assocErase] at h
    split at h
    · exact List.mem_cons_of_mem _ h
    · rcases List.mem_cons.1 h with h | h
      · exact h ▸ List.mem_cons_self
      · exact List.mem_cons_of_mem _ (ih h)

theorem assocSorted_assocErase {l : List (Nat × α)} (k : Nat) (h : assocSorted l = true) :
    assocSorted (assocErase l k) = true := by
  induction l with
  | nil => rfl
  | cons a r ih =>
    obtain ⟨h1, h2⟩ := (assocSorted_cons a r).1 h
    simp only [assocErase]
    split
    · exact h2
    · exact (assocSorted_cons _ _).2 ⟨fun b hb => h1 b (mem_assocErase hb), ih h2⟩

theorem assocSorted_filter {l : List (Nat × α)} (p : Nat × α → Bool) (h : assocSorted l = true) :
    assocSorted (l.filter p) = true := by
  induction l with
  | nil => rfl
  | cons a r ih =>
    obtain ⟨h1, h2⟩ := (assocSorted_cons a r).1 h
    simp only [List.filter_cons]
    split
    · exact (assocSorted_cons _ _).2 ⟨fun b hb => h1 b (List.mem_filter.1 hb).1, ih h2⟩
    · exact ih h2

theorem assocSorted_foldl {l : List (Nat × α)} (es : List (Nat × α)) (h : assocSorted l = true) :
    assocSorted (es.foldl (fun l e => assocSet l e.1 e.2) l) = true := by
  induction es generalizing l with
  | nil => exact h
  | cons e r ih => exact ih (assocSorted_assocSet _ _ h)

theorem assocSorted_foldlMap {β : Type} {l : List (Nat × α)} (es : List (Nat × β)) (f : Nat × β → α) (h : assocSorted l = true) :
    assocSorted (es.foldl (fun l e => assocSet l e.1 (f e)) l) = true := by
  induction es generalizing l with
  | nil => exact h
  | cons e r ih => exact ih (assocSorted_assocSet _ _ h)

theorem assocGet_erase_self {l : List (Nat × α)} (k : Nat) (h : assocSorted l = true) : assocGet (assocErase l k) k = none := by
  induction l with
  | nil => rfl
  | cons a r ih =>
    obtain ⟨h1, h2⟩ := (assocSorted_cons a r).1 h
    simp only [assocErase]
    split
    · next e =>
      have : ∀ l : List (Nat × α), (∀ b ∈ l, k < b.1) → assocGet l k = none := by
        intro l hl
        induction l with
        | nil => rfl
        | cons b l ih =>
          have := hl b List.mem_cons_self
          simp only [assocGet]
          rw [if_neg (by omega)]
          exact ih (fun c hc => hl c (List.mem_cons_of_mem _ hc))
      exact this r (fun b hb => e ▸ h1 b hb)
    · next e => simp [assocGet, e, ih h2]

/-! ### Memory -/

theorem Mem.wf_write {m : List Host.Cell} (a : Nat) (b : Byte) (h : Mem.wf m = true) : Mem.wf (Mem.write m a b) = true := by
  simp only [Mem.wf, Bool.and_eq_true, List.all_eq_true, bne_iff_ne, ne_eq] at h ⊢
  obtain ⟨h1, h2⟩ := h
  simp only [Mem.write]
  split
  · exact ⟨assocSorted_assocErase a h1, fun c hc => h2 c (mem_assocErase hc)⟩
  · next e =>
    refine ⟨assocSorted_assocSet a b h1, fun c hc => ?_⟩
    rcases mem_assocSet hc with hc | hc
    · subst hc; exact e
    · exact h2 c hc

theorem Mem.wf_writeAll {m : List Host.Cell} (a : Nat) (d : List Byte) (h : Mem.wf m = true) : Mem.wf (Mem.writeAll m a d) = true := by
  induction d generalizing m a with
  | nil => exact h
  | cons b r ih => exact ih _ (Mem.wf_write a b h)

theorem Mem.read_write_ne (m : List Host.Cell) {a x : Nat} (b : Byte) (h : x ≠ a) : Mem.read (Mem.write m a b) x = Mem.read m x := by
  simp only [Mem.read, Mem.write]
  split
  · rw [assocGet_assocErase_ne _ _ _ h]
  · rw [assocGet_assocSet_ne _ _ _ _ h]

theorem Mem.read_write_same {m : List Host.Cell} (a : Nat) (b : Byte) (h : Mem.wf m = true) : Mem.read (Mem.write m a b) a = b := by
  simp only [Mem.wf, Bool.and_eq_true] at h
  simp only [Mem.read, Mem.write]
  split
  · next e => simp [assocGet_erase_self a h.1, e]
  · simp

/-- A byte outside the run written reads as before. -/
theorem Mem.read_writeAll_outside (m : List Host.Cell) (a x : Nat) (d : List Byte) (h : x < a ∨ a + d.length ≤ x) :
    Mem.read (Mem.writeAll m a d) x = Mem.read m x := by
  induction d generalizing m a with
  | nil => rfl
  | cons b r ih =>
    simp only [List.length_cons] at h
    rw [Mem.writeAll, ih _ _ (by omega), Mem.read_write_ne _ _ (by omega)]

/-- A byte inside the run written reads as written. -/
theorem Mem.read_writeAll_inside {m : List Host.Cell} (a i : Nat) (d : List Byte) (h : Mem.wf m = true) (hi : i < d.length) :
    Mem.read (Mem.writeAll m a d) (a + i) = d[i] := by
  induction d generalizing m a i with
  | nil => simp at hi
  | cons b r ih =>
    rw [Mem.writeAll]
    cases i with
    | zero =>
      rw [Mem.read_writeAll_outside _ _ _ _ (by omega)]
      simpa using Mem.read_write_same a b h
    | succ i =>
      have := ih (a + 1) i (Mem.wf_write a b h) (by simpa using hi)
      rw [show a + (i + 1) = a + 1 + i by omega]
      simpa using this

theorem Mem.readAll_length (m : List Host.Cell) (a n : Nat) : (Mem.readAll m a n).length = n := by
  induction n generalizing a with
  | zero => rfl
  | succ n ih => simp [Mem.readAll, ih]

end Sys2Proof.Machine
end

