-- ==== Sys2Proof/Laws/Does.lean ====
section
/-!
SUPPORT. What an operation does, said in one relation: the parts it may change, that the invariant is kept, and that local time does not go back.
-/
set_option Elab.async false
set_option linter.all false

namespace Sys2Proof.Machine

/-- From `s` to `t` at most the listed parts change, the invariant is kept and local time does not go back. -/
structure State.Does (ps : List Part) (s t : State) : Prop where
  only : s.Only ps t
  inv : s.Inv → t.Inv
  clk : s.clk ≤ t.clk

variable {ps qs : List Part} {s t u : State}

theorem State.agree_refl (p : Part) (s : State) : s.agree p s := by cases p <;> rfl

theorem State.agree_trans {p : Part} (h : s.agree p t) (k : t.agree p u) : s.agree p u := by
  cases p <;> exact k.trans h

theorem Does.refl (ps : List Part) (s : State) : s.Does ps s := ⟨fun p _ => State.agree_refl p s, id, le_rfl⟩

theorem Does.mono (h : s.Does qs t) (k : qs ⊆ ps) : s.Does ps t := ⟨fun p hp => h.only p (fun hq => hp (k hq)), h.inv, h.clk⟩

/-- The last of several operations. -/
theorem Does.step (h : t.Does qs u) (k : qs ⊆ ps) (g : s.Does ps t) : s.Does ps u :=
  ⟨fun p hp => State.agree_trans (g.only p hp) (h.only p (fun hq => hp (k hq))), fun i => h.inv (g.inv i), le_trans g.clk h.clk⟩

theorem Does.trans (g : s.Does ps t) (h : t.Does ps u) : s.Does ps u := Does.step h (fun _ hp => hp) g

/-- A local name for a state on the way. -/
theorem Does.keep (x : State) (h : s.Does ps x) (k : s.Does ps x → s.Does ps u) : s.Does ps u := k h

/-- A state taken out of a pair. -/
theorem Does.pair {α : Type} {f : State × α} {b : α} (h : f = (t, b)) (k : s.Does ps f.1) : s.Does ps t := by
  subst h; exact k

theorem Does.pairSnd {α : Type} {f : α × State} {b : α} (h : f = (b, t)) (k : s.Does ps f.2) : s.Does ps t := by
  subst h; exact k

theorem Does.foldl {α : Type} {f : State → α → State} {l : List α} (h : ∀ (t : State) (x : α), t.Does ps (f t x)) (g : s.Does ps t) :
    s.Does ps (l.foldl f t) := by
  induction l generalizing t with
  | nil => exact g
  | cons x r ih => exact ih (Does.step (h t x) (fun _ hp => hp) g)

theorem Does.foldlFst {α β : Type} {f : State × β → α → State × β} {l : List α} {r : State × β}
    (h : ∀ (t : State) (b : β) (x : α), t.Does ps (f (t, b) x).1) (g : s.Does ps r.1) : s.Does ps (l.foldl f r).1 := by
  induction l generalizing r with
  | nil => exact g
  | cons x l ih => exact ih (Does.step (h r.1 r.2 x) (fun _ hp => hp) g)

/-- A state with some parts replaced. -/
theorem Does.parts {a_pending} {a_variant} {a_clk} {a_freeCtr} {a_out} {a_od} {a_mem} {a_time} {a_cams} {a_pipe} {a_tracker} {a_drive} {a_seqs} {a_ledger} {a_loops} {a_power} {a_thermal} {a_backdrop} {a_module} {a_strand} {a_dict} {a_side} {a_pins} {a_dma} {a_recorder} {a_update} (t : State)
    (h_pending : t.pending = a_pending ∨ Part.pending ∈ ps)
    (h_variant : t.variant = a_variant ∨ Part.variant ∈ ps)
    (h_clk : t.clk = a_clk ∨ False)
    (h_freeCtr : t.freeCtr = a_freeCtr ∨ Part.freeCtr ∈ ps)
    (h_out : t.out = a_out ∨ Part.out ∈ ps)
    (h_od : t.od = a_od ∨ Part.od ∈ ps)
    (h_mem : t.mem = a_mem ∨ Part.mem ∈ ps)
    (h_time : t.time = a_time ∨ Part.time ∈ ps)
    (h_cams : t.cams = a_cams ∨ Part.cams ∈ ps)
    (h_pipe : t.pipe = a_pipe ∨ Part.pipe ∈ ps)
    (h_tracker : t.tracker = a_tracker ∨ Part.tracker ∈ ps)
    (h_drive : t.drive = a_drive ∨ Part.drive ∈ ps)
    (h_seqs : t.seqs = a_seqs ∨ Part.seqs ∈ ps)
    (h_ledger : t.ledger = a_ledger ∨ Part.ledger ∈ ps)
    (h_loops : t.loops = a_loops ∨ Part.loops ∈ ps)
    (h_power : t.power = a_power ∨ Part.power ∈ ps)
    (h_thermal : t.thermal = a_thermal ∨ Part.thermal ∈ ps)
    (h_backdrop : t.backdrop = a_backdrop ∨ Part.backdrop ∈ ps)
    (h_module : t.module = a_module ∨ Part.module ∈ ps)
    (h_strand : t.strand = a_strand ∨ Part.strand ∈ ps)
    (h_dict : t.dict = a_dict ∨ Part.dict ∈ ps)
    (h_side : t.side = a_side ∨ Part.side ∈ ps)
    (h_pins : t.pins = a_pins ∨ Part.pins ∈ ps)
    (h_dma : t.dma = a_dma ∨ Part.dma ∈ ps)
    (h_recorder : t.recorder = a_recorder ∨ Part.recorder ∈ ps)
    (h_update : t.update = a_update ∨ Part.update ∈ ps)
    (k : t.Inv → State.Inv (State.mk a_pending a_variant a_clk a_freeCtr a_out a_od a_mem a_time a_cams a_pipe a_tracker a_drive a_seqs a_ledger a_loops a_power a_thermal a_backdrop a_module a_strand a_dict a_side a_pins a_dma a_recorder a_update)) (g : s.Does ps t) :
    s.Does ps (State.mk a_pending a_variant a_clk a_freeCtr a_out a_od a_mem a_time a_cams a_pipe a_tracker a_drive a_seqs a_ledger a_loops a_power a_thermal a_backdrop a_module a_strand a_dict a_side a_pins a_dma a_recorder a_update) := by
  refine Does.step (t := t) (qs := ps) ⟨?_, k, ?_⟩ (fun _ hp => hp) g
  · intro p hp
    cases p
    · exact h_pending.elim Eq.symm (fun h => absurd h hp)
    · exact h_variant.elim Eq.symm (fun h => absurd h hp)
    · exact h_clk.elim Eq.symm False.elim
    · exact h_freeCtr.elim Eq.symm (fun h => absurd h hp)
    · exact h_out.elim Eq.symm (fun h => absurd h hp)
    · exact h_od.elim Eq.symm (fun h => absurd h hp)
    · exact h_mem.elim Eq.symm (fun h => absurd h hp)
    · exact h_time.elim Eq.symm (fun h => absurd h hp)
    · exact h_cams.elim Eq.symm (fun h => absurd h hp)
    · exact h_pipe.elim Eq.symm (fun h => absurd h hp)
    · exact h_tracker.elim Eq.symm (fun h => absurd h hp)
    · exact h_drive.elim Eq.symm (fun h => absurd h hp)
    · exact h_seqs.elim Eq.symm (fun h => absurd h hp)
    · exact h_ledger.elim Eq.symm (fun h => absurd h hp)
    · exact h_loops.elim Eq.symm (fun h => absurd h hp)
    · exact h_power.elim Eq.symm (fun h => absurd h hp)
    · exact h_thermal.elim Eq.symm (fun h => absurd h hp)
    · exact h_backdrop.elim Eq.symm (fun h => absurd h hp)
    · exact h_module.elim Eq.symm (fun h => absurd h hp)
    · exact h_strand.elim Eq.symm (fun h => absurd h hp)
    · exact h_dict.elim Eq.symm (fun h => absurd h hp)
    · exact h_side.elim Eq.symm (fun h => absurd h hp)
    · exact h_pins.elim Eq.symm (fun h => absurd h hp)
    · exact h_dma.elim Eq.symm (fun h => absurd h hp)
    · exact h_recorder.elim Eq.symm (fun h => absurd h hp)
    · exact h_update.elim Eq.symm (fun h => absurd h hp)
  · exact h_clk.elim le_of_eq False.elim

/-! ### One part replaced -/

theorem Does.cams {s : State} (x : List Camera) (k : s.cams.length = 4 → x.length = 4) : s.Does [.cams] { s with cams := x } :=
  ⟨fun p hp => by cases p <;> first | rfl | exact absurd (by decide) hp, fun h => ⟨h.mem, h.od, k h.cams, h.time, h.pipe, h.tracker, h.drive, h.seqs, h.loops, h.thermal, h.backdrop, h.strand, h.dict, h.side, h.pins, h.dma, h.recorder⟩, le_rfl⟩

theorem Does.time {s : State} (x : TimeSt) (k : s.time.shaped → x.shaped) : s.Does [.time] { s with time := x } :=
  ⟨fun p hp => by cases p <;> first | rfl | exact absurd (by decide) hp, fun h => ⟨h.mem, h.od, h.cams, k h.time, h.pipe, h.tracker, h.drive, h.seqs, h.loops, h.thermal, h.backdrop, h.strand, h.dict, h.side, h.pins, h.dma, h.recorder⟩, le_rfl⟩

theorem Does.pipe {s : State} (x : Pipeline) (k : s.pipe.shaped → x.shaped) : s.Does [.pipe] { s with pipe := x } :=
  ⟨fun p hp => by cases p <;> first | rfl | exact absurd (by decide) hp, fun h => ⟨h.mem, h.od, h.cams, h.time, k h.pipe, h.tracker, h.drive, h.seqs, h.loops, h.thermal, h.backdrop, h.strand, h.dict, h.side, h.pins, h.dma, h.recorder⟩, le_rfl⟩

theorem Does.tracker {s : State} (x : Tracker) (k : s.tracker.shaped → x.shaped) : s.Does [.tracker] { s with tracker := x } :=
  ⟨fun p hp => by cases p <;> first | rfl | exact absurd (by decide) hp, fun h => ⟨h.mem, h.od, h.cams, h.time, h.pipe, k h.tracker, h.drive, h.seqs, h.loops, h.thermal, h.backdrop, h.strand, h.dict, h.side, h.pins, h.dma, h.recorder⟩, le_rfl⟩

theorem Does.drive {s : State} (x : Drive) (k : s.drive.shaped → x.shaped) : s.Does [.drive] { s with drive := x } :=
  ⟨fun p hp => by cases p <;> first | rfl | exact absurd (by decide) hp, fun h => ⟨h.mem, h.od, h.cams, h.time, h.pipe, h.tracker, k h.drive, h.seqs, h.loops, h.thermal, h.backdrop, h.strand, h.dict, h.side, h.pins, h.dma, h.recorder⟩, le_rfl⟩

theorem Does.seqs {s : State} (x : Sequencers) (k : s.seqs.shaped → x.shaped) : s.Does [.seqs] { s with seqs := x } :=
  ⟨fun p hp => by cases p <;> first | rfl | exact absurd (by decide) hp, fun h => ⟨h.mem, h.od, h.cams, h.time, h.pipe, h.tracker, h.drive, k h.seqs, h.loops, h.thermal, h.backdrop, h.strand, h.dict, h.side, h.pins, h.dma, h.recorder⟩, le_rfl⟩

theorem Does.loops {s : State} (x : Loops) (k : s.loops.shaped → x.shaped) : s.Does [.loops] { s with loops := x } :=
  ⟨fun p hp => by cases p <;> first | rfl | exact absurd (by decide) hp, fun h => ⟨h.mem, h.od, h.cams, h.time, h.pipe, h.tracker, h.drive, h.seqs, k h.loops, h.thermal, h.backdrop, h.strand, h.dict, h.side, h.pins, h.dma, h.recorder⟩, le_rfl⟩

theorem Does.thermal {s : State} (x : Thermal) (k : s.thermal.shaped → x.shaped) : s.Does [.thermal] { s with thermal := x } :=
  ⟨fun p hp => by cases p <;> first | rfl | exact absurd (by decide) hp, fun h => ⟨h.mem, h.od, h.cams, h.time, h.pipe, h.tracker, h.drive, h.seqs, h.loops, k h.thermal, h.backdrop, h.strand, h.dict, h.side, h.pins, h.dma, h.recorder⟩, le_rfl⟩

theorem Does.backdrop {s : State} (x : Backdrop) (k : s.backdrop.shaped → x.shaped) : s.Does [.backdrop] { s with backdrop := x } :=
  ⟨fun p hp => by cases p <;> first | rfl | exact absurd (by decide) hp, fun h => ⟨h.mem, h.od, h.cams, h.time, h.pipe, h.tracker, h.drive, h.seqs, h.loops, h.thermal, k h.backdrop, h.strand, h.dict, h.side, h.pins, h.dma, h.recorder⟩, le_rfl⟩

theorem Does.strand {s : State} (x : Strand) (k : s.strand.shaped → x.shaped) : s.Does [.strand] { s with strand := x } :=
  ⟨fun p hp => by cases p <;> first | rfl | exact absurd (by decide) hp, fun h => ⟨h.mem, h.od, h.cams, h.time, h.pipe, h.tracker, h.drive, h.seqs, h.loops, h.thermal, h.backdrop, k h.strand, h.dict, h.side, h.pins, h.dma, h.recorder⟩, le_rfl⟩

theorem Does.dict {s : State} (x : Dict) (k : s.dict.shaped → x.shaped) : s.Does [.dict] { s with dict := x } :=
  ⟨fun p hp => by cases p <;> first | rfl | exact absurd (by decide) hp, fun h => ⟨h.mem, h.od, h.cams, h.time, h.pipe, h.tracker, h.drive, h.seqs, h.loops, h.thermal, h.backdrop, h.strand, k h.dict, h.side, h.pins, h.dma, h.recorder⟩, le_rfl⟩

theorem Does.side {s : State} (x : Sideband) (k : s.side.shaped → x.shaped) : s.Does [.side] { s with side := x } :=
  ⟨fun p hp => by cases p <;> first | rfl | exact absurd (by decide) hp, fun h => ⟨h.mem, h.od, h.cams, h.time, h.pipe, h.tracker, h.drive, h.seqs, h.loops, h.thermal, h.backdrop, h.strand, h.dict, k h.side, h.pins, h.dma, h.recorder⟩, le_rfl⟩

theorem Does.pins {s : State} (x : Pins) (k : s.pins.shaped → x.shaped) : s.Does [.pins] { s with pins := x } :=
  ⟨fun p hp => by cases p <;> first | rfl | exact absurd (by decide) hp, fun h => ⟨h.mem, h.od, h.cams, h.time, h.pipe, h.tracker, h.drive, h.seqs, h.loops, h.thermal, h.backdrop, h.strand, h.dict, h.side, k h.pins, h.dma, h.recorder⟩, le_rfl⟩

theorem Does.dma {s : State} (x : Dma) (k : s.dma.shaped → x.shaped) : s.Does [.dma] { s with dma := x } :=
  ⟨fun p hp => by cases p <;> first | rfl | exact absurd (by decide) hp, fun h => ⟨h.mem, h.od, h.cams, h.time, h.pipe, h.tracker, h.drive, h.seqs, h.loops, h.thermal, h.backdrop, h.strand, h.dict, h.side, h.pins, k h.dma, h.recorder⟩, le_rfl⟩

theorem Does.recorder {s : State} (x : Recorder) (k : s.recorder.shaped → x.shaped) : s.Does [.recorder] { s with recorder := x } :=
  ⟨fun p hp => by cases p <;> first | rfl | exact absurd (by decide) hp, fun h => ⟨h.mem, h.od, h.cams, h.time, h.pipe, h.tracker, h.drive, h.seqs, h.loops, h.thermal, h.backdrop, h.strand, h.dict, h.side, h.pins, h.dma, k h.recorder⟩, le_rfl⟩

theorem Does.ledger {s : State} (x : Ledger) : s.Does [.ledger] { s with ledger := x } :=
  ⟨fun p hp => by cases p <;> first | rfl | exact absurd (by decide) hp, fun h => ⟨h.mem, h.od, h.cams, h.time, h.pipe, h.tracker, h.drive, h.seqs, h.loops, h.thermal, h.backdrop, h.strand, h.dict, h.side, h.pins, h.dma, h.recorder⟩, le_rfl⟩

theorem Does.power {s : State} (x : Power) : s.Does [.power] { s with power := x } :=
  ⟨fun p hp => by cases p <;> first | rfl | exact absurd (by decide) hp, fun h => ⟨h.mem, h.od, h.cams, h.time, h.pipe, h.tracker, h.drive, h.seqs, h.loops, h.thermal, h.backdrop, h.strand, h.dict, h.side, h.pins, h.dma, h.recorder⟩, le_rfl⟩

theorem Does.module {s : State} (x : Module) : s.Does [.module] { s with module := x } :=
  ⟨fun p hp => by cases p <;> first | rfl | exact absurd (by decide) hp, fun h => ⟨h.mem, h.od, h.cams, h.time, h.pipe, h.tracker, h.drive, h.seqs, h.loops, h.thermal, h.backdrop, h.strand, h.dict, h.side, h.pins, h.dma, h.recorder⟩, le_rfl⟩

theorem Does.update {s : State} (x : Update) : s.Does [.update] { s with update := x } :=
  ⟨fun p hp => by cases p <;> first | rfl | exact absurd (by decide) hp, fun h => ⟨h.mem, h.od, h.cams, h.time, h.pipe, h.tracker, h.drive, h.seqs, h.loops, h.thermal, h.backdrop, h.strand, h.dict, h.side, h.pins, h.dma, h.recorder⟩, le_rfl⟩

theorem Does.freeCtr {s : State} (x : Nat) : s.Does [.freeCtr] { s with freeCtr := x } :=
  ⟨fun p hp => by cases p <;> first | rfl | exact absurd (by decide) hp, fun h => ⟨h.mem, h.od, h.cams, h.time, h.pipe, h.tracker, h.drive, h.seqs, h.loops, h.thermal, h.backdrop, h.strand, h.dict, h.side, h.pins, h.dma, h.recorder⟩, le_rfl⟩

theorem Does.out {s : State} (x : List Output) : s.Does [.out] { s with out := x } :=
  ⟨fun p hp => by cases p <;> first | rfl | exact absurd (by decide) hp, fun h => ⟨h.mem, h.od, h.cams, h.time, h.pipe, h.tracker, h.drive, h.seqs, h.loops, h.thermal, h.backdrop, h.strand, h.dict, h.side, h.pins, h.dma, h.recorder⟩, le_rfl⟩

end Sys2Proof.Machine
end

