-- ==== Sys2Proof/Laws/Ops.lean ====
section
/-!
SUPPORT. What the operations of Machine/Ops.lean do.
-/
set_option Elab.async false
set_option linter.all false

namespace Sys2Proof.Machine

theorem State.put_does (s : State) (k : Nat) (v : Val) : s.Does [.od] (s.put k v) := by
  unfold State.put
  with_reducible apply Does.parts
  any_goals first
    | exact Or.inr (by decide)
    | exact Or.inl rfl
  · exact fun h => ⟨h.mem, assocSorted_assocSet k v h.od, h.cams, h.time, h.pipe, h.tracker, h.drive, h.seqs, h.loops, h.thermal, h.backdrop, h.strand, h.dict, h.side, h.pins, h.dma, h.recorder⟩
  · exact Does.refl _ _

theorem State.putInt_does (s : State) (k : ℕ) (v : ℤ) : s.Does [.od] (State.putInt s k v) := by
  unfold State.putInt
  repeat' first
    | with_reducible exact Does.refl _ _
    | decide
    | with_reducible apply Does.step (State.put_does ..)

theorem State.setLink_does (s : State) (l : ℕ) (c : LinkSt) : s.Does [.strand] (State.setLink s l c) := by
  unfold State.setLink
  repeat' first
    | with_reducible exact Does.refl _ _
    | exact Or.inr (by decide)
    | exact Or.inl rfl
    | exact fun h => ⟨h.mem, h.od, h.cams, h.time, h.pipe, h.tracker, h.drive, h.seqs, h.loops, h.thermal, h.backdrop, by first | exact ⟨h.strand.1, h.strand.2.1, h.strand.2.2⟩ | simpa [Strand.shaped] using h.strand | (have hh := h.strand; clear h; simp_all [Strand.shaped]), h.dict, h.side, h.pins, h.dma, h.recorder⟩
    | with_reducible apply Does.parts

theorem State.advance_does (s : State) (d : Nat) : s.Does [.clk, .time] (s.advance d) :=
  ⟨fun p hp => by cases p <;> first | rfl | exact absurd (by decide) hp, fun h => ⟨h.mem, h.od, h.cams, h.time, h.pipe, h.tracker, h.drive, h.seqs, h.loops, h.thermal, h.backdrop, h.strand, h.dict, h.side, h.pins, h.dma, h.recorder⟩, Nat.le_add_right ..⟩

theorem State.atTick_does (s : State) (t : ℕ) : s.Does [.clk, .time] (State.atTick s t) := by
  unfold State.atTick
  repeat' first
    | with_reducible exact Does.refl _ _
    | decide
    | with_reducible apply Does.step (State.advance_does ..)

theorem State.putNat_does (s : State) (k : ℕ) (v : ℕ) : s.Does [.od] (State.putNat s k v) := by
  unfold State.putNat
  repeat' first
    | with_reducible exact Does.refl _ _
    | decide
    | with_reducible apply Does.step (State.put_does ..)

theorem State.bumpBy_does (s : State) (k : ℕ) (n : ℕ) : s.Does [.od] (State.bumpBy s k n) := by
  unfold State.bumpBy
  repeat' first
    | with_reducible exact Does.refl _ _
    | decide
    | with_reducible apply Does.step (State.putNat_does ..)

theorem State.memWrite_does (s : State) (a : Nat) (d : List Byte) : s.Does [.mem] (s.memWrite a d) := by
  unfold State.memWrite
  with_reducible apply Does.parts
  any_goals first
    | exact Or.inr (by decide)
    | exact Or.inl rfl
  · exact fun h => ⟨Mem.wf_writeAll a d h.mem, h.od, h.cams, h.time, h.pipe, h.tracker, h.drive, h.seqs, h.loops, h.thermal, h.backdrop, h.strand, h.dict, h.side, h.pins, h.dma, h.recorder⟩
  · exact Does.refl _ _

theorem State.unset_does (s : State) (k : Nat) : s.Does [.od] (s.unset k) := by
  unfold State.unset
  with_reducible apply Does.parts
  any_goals first
    | exact Or.inr (by decide)
    | exact Or.inl rfl
  · exact fun h => ⟨h.mem, assocSorted_assocErase k h.od, h.cams, h.time, h.pipe, h.tracker, h.drive, h.seqs, h.loops, h.thermal, h.backdrop, h.strand, h.dict, h.side, h.pins, h.dma, h.recorder⟩
  · exact Does.refl _ _

theorem State.setCam_does (s : State) (p : Nat) (c : Camera) : s.Does [.cams] (s.setCam p c) := by
  unfold State.setCam
  with_reducible apply Does.parts
  any_goals first
    | exact Or.inr (by decide)
    | exact Or.inl rfl
  · exact fun h => ⟨h.mem, h.od, by simpa using h.cams, h.time, h.pipe, h.tracker, h.drive, h.seqs, h.loops, h.thermal, h.backdrop, h.strand, h.dict, h.side, h.pins, h.dma, h.recorder⟩
  · exact Does.refl _ _

theorem State.bump_does (s : State) (k : ℕ) : s.Does [.od] (State.bump s k) := by
  unfold State.bump
  repeat' first
    | with_reducible exact Does.refl _ _
    | decide
    | with_reducible apply Does.step (State.bumpBy_does ..)

theorem State.atClk_does (s : State) (t : ℕ) : s.Does [.clk, .time] (State.atClk s t) := by
  unfold State.atClk
  repeat' first
    | with_reducible exact Does.refl _ _
    | decide
    | with_reducible apply Does.step (State.advance_does ..)

theorem State.draw_does (s : State) : s.Does [.freeCtr] (State.draw s).2 := by
  unfold State.draw
  repeat' first
    | with_reducible exact Does.refl _ _
    | exact Or.inr (by decide)
    | exact Or.inl rfl
    | exact fun h => ⟨h.mem, h.od, h.cams, h.time, h.pipe, h.tracker, h.drive, h.seqs, h.loops, h.thermal, h.backdrop, h.strand, h.dict, h.side, h.pins, h.dma, h.recorder⟩
    | with_reducible apply Does.parts

theorem State.emit_does (s : State) (o : Output) : s.Does [.out] (State.emit s o) := by
  unfold State.emit
  repeat' first
    | with_reducible exact Does.refl _ _
    | exact Or.inr (by decide)
    | exact Or.inl rfl
    | exact fun h => ⟨h.mem, h.od, h.cams, h.time, h.pipe, h.tracker, h.drive, h.seqs, h.loops, h.thermal, h.backdrop, h.strand, h.dict, h.side, h.pins, h.dma, h.recorder⟩
    | with_reducible apply Does.parts

end Sys2Proof.Machine
end

