-- ==== Sys2Proof/Laws/StrandOps.lean ====
section
/-!
SUPPORT. What the operations of Machine/StrandOps.lean do.
-/
set_option Elab.async false
set_option linter.all false

namespace Sys2Proof.Machine

theorem State.startAgain_does (s : State) (l : ℕ) : s.Does [.out, .strand] (State.startAgain s l) := by
  unfold State.startAgain
  repeat' first
    | with_reducible exact Does.refl _ _
    | with_reducible assumption
    | decide
    | with_reducible refine Does.pair (by assumption) ?_
    | with_reducible refine Does.pairSnd (by assumption) ?_
    | with_reducible refine Does.foldl ?_ ?_
    | (extract_lets +onlyGivenNames w_
       first
         | (refine Does.keep w_ ?_ ?_
            on_goal 1 => (unfold w_; clear w_)
            on_goal 2 => first | (clear_value w_; intro _; revert w_; intro _ _) | (intro _; revert w_; intro _ _))
         | (refine Does.keep w_.1 ?_ ?_
            on_goal 1 => (unfold w_; clear w_)
            on_goal 2 => first | (clear_value w_; intro _; revert w_; intro _ _) | (intro _; revert w_; intro _ _))
         | (clear_value w_; revert w_; intro _) | (revert w_; intro _))
    | with_reducible apply Does.step (State.setLink_does ..)
    | with_reducible apply Does.step (State.emit_does ..)
    | split
    | intro _
    | dsimp -zeta only

theorem State.startFrame_does (s : State) (l : ℕ) (v : ℕ) : s.Does [.out, .od, .strand] (State.startFrame s l v) := by
  unfold State.startFrame
  repeat' first
    | with_reducible exact Does.refl _ _
    | with_reducible assumption
    | decide
    | with_reducible refine Does.pair (by assumption) ?_
    | with_reducible refine Does.pairSnd (by assumption) ?_
    | with_reducible refine Does.foldl ?_ ?_
    | (extract_lets +onlyGivenNames w_
       first
         | (refine Does.keep w_ ?_ ?_
            on_goal 1 => (unfold w_; clear w_)
            on_goal 2 => first | (clear_value w_; intro _; revert w_; intro _ _) | (intro _; revert w_; intro _ _))
         | (refine Does.keep w_.1 ?_ ?_
            on_goal 1 => (unfold w_; clear w_)
            on_goal 2 => first | (clear_value w_; intro _; revert w_; intro _ _) | (intro _; revert w_; intro _ _))
         | (clear_value w_; revert w_; intro _) | (revert w_; intro _))
    | with_reducible apply Does.step (State.bump_does ..)
    | with_reducible apply Does.step (State.setLink_does ..)
    | with_reducible apply Does.step (State.emit_does ..)
    | split
    | intro _
    | dsimp -zeta only

theorem State.putOnWire_does (s : State) (l : ℕ) (a2 : Wire) : s.Does [.out, .od, .strand] (State.putOnWire s l a2) := by
  unfold State.putOnWire
  repeat' first
    | with_reducible exact Does.refl _ _
    | with_reducible assumption
    | decide
    | with_reducible refine Does.pair (by assumption) ?_
    | with_reducible refine Does.pairSnd (by assumption) ?_
    | with_reducible refine Does.foldl ?_ ?_
    | (extract_lets +onlyGivenNames w_
       first
         | (refine Does.keep w_ ?_ ?_
            on_goal 1 => (unfold w_; clear w_)
            on_goal 2 => first | (clear_value w_; intro _; revert w_; intro _ _) | (intro _; revert w_; intro _ _))
         | (refine Does.keep w_.1 ?_ ?_
            on_goal 1 => (unfold w_; clear w_)
            on_goal 2 => first | (clear_value w_; intro _; revert w_; intro _ _) | (intro _; revert w_; intro _ _))
         | (clear_value w_; revert w_; intro _) | (revert w_; intro _))
    | with_reducible apply Does.step (State.startFrame_does ..)
    | with_reducible apply Does.step (State.startAgain_does ..)
    | with_reducible apply Does.step (State.setLink_does ..)
    | with_reducible apply Does.step (State.emit_does ..)
    | split
    | intro _
    | dsimp -zeta only

theorem State.drain_does (a0 : ℕ) (a1 : State) (a2 : ℕ) (a3 : ℕ) : a1.Does [.out, .od, .strand] (State.drain a0 a1 a2 a3) := by
  induction a0 generalizing a1 a2 a3
  all_goals unfold State.drain
  · exact Does.refl _ _
  rename_i ih
  repeat' first
    | with_reducible exact Does.refl _ _
    | with_reducible assumption
    | decide
    | with_reducible refine Does.pair (by assumption) ?_
    | with_reducible refine Does.pairSnd (by assumption) ?_
    | with_reducible refine Does.foldl ?_ ?_
    | (extract_lets +onlyGivenNames w_
       first
         | (refine Does.keep w_ ?_ ?_
            on_goal 1 => (unfold w_; clear w_)
            on_goal 2 => first | (clear_value w_; intro _; revert w_; intro _ _) | (intro _; revert w_; intro _ _))
         | (refine Does.keep w_.1 ?_ ?_
            on_goal 1 => (unfold w_; clear w_)
            on_goal 2 => first | (clear_value w_; intro _; revert w_; intro _ _) | (intro _; revert w_; intro _ _))
         | (clear_value w_; revert w_; intro _) | (revert w_; intro _))
    | with_reducible refine Does.step (ih ..) ?_ ?_
    | with_reducible apply Does.step (State.putOnWire_does ..)
    | split
    | intro _
    | dsimp -zeta only

theorem State.pump_does (s : State) (l : ℕ) : s.Does [.out, .od, .strand] (State.pump s l) := by
  unfold State.pump
  repeat' first
    | with_reducible exact Does.refl _ _
    | with_reducible assumption
    | decide
    | with_reducible refine Does.pair (by assumption) ?_
    | with_reducible refine Does.pairSnd (by assumption) ?_
    | with_reducible refine Does.foldl ?_ ?_
    | (extract_lets +onlyGivenNames w_
       first
         | (refine Does.keep w_ ?_ ?_
            on_goal 1 => (unfold w_; clear w_)
            on_goal 2 => first | (clear_value w_; intro _; revert w_; intro _ _) | (intro _; revert w_; intro _ _))
         | (refine Does.keep w_.1 ?_ ?_
            on_goal 1 => (unfold w_; clear w_)
            on_goal 2 => first | (clear_value w_; intro _; revert w_; intro _ _) | (intro _; revert w_; intro _ _))
         | (clear_value w_; revert w_; intro _) | (revert w_; intro _))
    | with_reducible apply Does.step (State.drain_does ..)
    | with_reducible apply Does.step (State.setLink_does ..)
    | split
    | intro _
    | dsimp -zeta only

theorem State.egress_does (s : State) (l : ℕ) (f : Sys2Proof.Frame) : s.Does [.out, .od, .strand] (State.egress s l f) := by
  unfold State.egress
  repeat' first
    | with_reducible exact Does.refl _ _
    | with_reducible assumption
    | decide
    | with_reducible refine Does.pair (by assumption) ?_
    | with_reducible refine Does.pairSnd (by assumption) ?_
    | with_reducible refine Does.foldl ?_ ?_
    | (extract_lets +onlyGivenNames w_
       first
         | (refine Does.keep w_ ?_ ?_
            on_goal 1 => (unfold w_; clear w_)
            on_goal 2 => first | (clear_value w_; intro _; revert w_; intro _ _) | (intro _; revert w_; intro _ _))
         | (refine Does.keep w_.1 ?_ ?_
            on_goal 1 => (unfold w_; clear w_)
            on_goal 2 => first | (clear_value w_; intro _; revert w_; intro _ _) | (intro _; revert w_; intro _ _))
         | (clear_value w_; revert w_; intro _) | (revert w_; intro _))
    | with_reducible apply Does.step (State.pump_does ..)
    | with_reducible apply Does.step (State.setLink_does ..)
    | split
    | intro _
    | dsimp -zeta only

theorem State.sendLocal_does (s : State) (l : ℕ) (vc : ℕ) (type : ℕ) (words : List ℕ) : s.Does [.out, .od, .strand] (State.sendLocal s l vc type words) := by
  unfold State.sendLocal
  repeat' first
    | with_reducible exact Does.refl _ _
    | decide
    | with_reducible apply Does.step (State.egress_does ..)
    | split

theorem State.routeOut_does (s : State) (f : Sys2Proof.Frame) : s.Does [.out, .od, .strand] (State.routeOut s f).1 := by
  unfold State.routeOut
  repeat' first
    | with_reducible exact Does.refl _ _
    | with_reducible assumption
    | decide
    | with_reducible apply Does.step (State.egress_does ..)
    | with_reducible apply Does.step (State.bump_does ..)
    | split

theorem State.message_does (s : State) (dest : ℕ) (vc : ℕ) (type : ℕ) (words : List ℕ) : s.Does [.out, .od, .strand] (State.message s dest vc type words).1 := by
  unfold State.message
  repeat' first
    | with_reducible exact Does.refl _ _
    | decide
    | with_reducible apply Does.step (State.routeOut_does ..)

theorem State.tickOn_does (s : State) : s.Does [.clk, .out, .od, .time, .strand] (State.tickOn s) := by
  unfold State.tickOn
  repeat' first
    | with_reducible exact Does.refl _ _
    | with_reducible assumption
    | decide
    | with_reducible refine Does.pair (by assumption) ?_
    | with_reducible refine Does.pairSnd (by assumption) ?_
    | with_reducible refine Does.foldl ?_ ?_
    | (extract_lets +onlyGivenNames w_
       first
         | (refine Does.keep w_ ?_ ?_
            on_goal 1 => (unfold w_; clear w_)
            on_goal 2 => first | (clear_value w_; intro _; revert w_; intro _ _) | (intro _; revert w_; intro _ _))
         | (refine Does.keep w_.1 ?_ ?_
            on_goal 1 => (unfold w_; clear w_)
            on_goal 2 => first | (clear_value w_; intro _; revert w_; intro _ _) | (intro _; revert w_; intro _ _))
         | (clear_value w_; revert w_; intro _) | (revert w_; intro _))
    | with_reducible apply Does.step (State.pump_does ..)
    | with_reducible apply Does.step (State.advance_does ..)
    | split
    | intro _
    | dsimp -zeta only

end Sys2Proof.Machine
end

