-- ==== Sys2Proof/Laws/Events.lean ====
section
/-!
SUPPORT. What the operations of Machine/Events.lean do.
-/
set_option Elab.async false
set_option linter.all false

namespace Sys2Proof.Machine

theorem dropFirst_length {α : Type} (p : α → Bool) (l : List α) (h : l.any p = true) : (dropFirst p l).length + 1 = l.length := by
  induction l with
  | nil => simp at h
  | cons a r ih =>
    simp only [dropFirst]
    split
    · rfl
    · next e => simpa using ih (by simpa [e] using h)

theorem slots_assocSet {l : List (Nat × Record)} {k : Nat} (r : Record) (hk : k < 2000) (h : l.all (fun p => p.1 < 2000) = true) :
    (assocSet l k r).all (fun p => p.1 < 2000) = true := by
  simp only [List.all_eq_true, decide_eq_true_eq] at h ⊢
  intro x hx
  rcases mem_assocSet hx with hx | hx
  · subst hx; exact hk
  · exact h x hx

theorem overwriteSlot_mem {l : List (Nat × Record)} {sev c k : Nat} (h : overwriteSlot l sev c = some k) : ∃ r, (k, r) ∈ l := by
  simp only [overwriteSlot, Option.map_eq_some_iff] at h
  obtain ⟨p, hp, rfl⟩ := h
  have key : ∀ (m : List (Nat × Record)) (b : Option (Nat × Record)), (∀ q, b = some q → q ∈ l) → (∀ q ∈ m, q ∈ l) →
      m.foldl (fun best p => match best with | none => some p | some b => if p.2.seq < b.2.seq then some p else some b) b = some p → p ∈ l := by
    intro m
    induction m with
    | nil => intro b hb _ e; exact hb p e
    | cons x m ih =>
      intro b hb hm e
      refine ih _ ?_ (fun q hq => hm q (List.mem_cons_of_mem _ hq)) e
      intro q hq
      cases b with
      | none => cases hq; exact hm x List.mem_cons_self
      | some y =>
        dsimp only at hq
        split at hq
        · cases hq; exact hm x List.mem_cons_self
        · exact hb q hq
  exact ⟨p.2, key _ none (by simp) (fun q hq => (List.mem_filter.1 hq).1) hp⟩

theorem place_lt {slot? : Option Nat} {l : List (Nat × Record)} {sev c f k : Nat} (hk : ∀ k, slot? = some k → k < 2000)
    (hl : l.all (fun p => p.1 < 2000) = true)
    (h : (slot?.or (if f < 2000 then some f else overwriteSlot l sev c)) = some k) : k < 2000 := by
  rcases Option.or_eq_some_iff.1 h with h | ⟨-, h⟩
  · exact hk k h
  · split at h
    · cases h; assumption
    · obtain ⟨r, hr⟩ := overwriteSlot_mem h
      simpa using List.all_eq_true.1 hl _ hr

theorem State.eventFrame_does (s : State) (dest : ℕ) (code : ℕ) (sev : ℕ) (arg : ℕ) : s.Does [.out, .od, .strand] (State.eventFrame s dest code sev arg).1 := by
  unfold State.eventFrame
  repeat' first
    | with_reducible exact Does.refl _ _
    | with_reducible assumption
    | with_reducible apply Does.step (State.message_does ..)
    | exact Or.inr (by decide)
    | exact Or.inl rfl
    | exact fun h => ⟨h.mem, h.od, h.cams, h.time, h.pipe, h.tracker, h.drive, h.seqs, h.loops, h.thermal, h.backdrop, by first | exact ⟨h.strand.1, h.strand.2.1, h.strand.2.2⟩ | simpa [Strand.shaped] using h.strand | (have hh := h.strand; clear h; simp_all [Strand.shaped]), h.dict, h.side, h.pins, h.dma, h.recorder⟩
    | intro _
    | with_reducible apply Does.parts

theorem State.eventFrames_does (code : ℕ) (sev : ℕ) (arg : ℕ) (a3 : List ℕ) (a4 : State) : a4.Does [.out, .od, .strand] (State.eventFrames code sev arg a3 a4).1 := by
  induction a3 generalizing code sev arg a4
  all_goals unfold State.eventFrames
  · exact Does.refl _ _
  rename_i ih
  repeat' first
    | with_reducible exact Does.refl _ _
    | with_reducible assumption
    | decide
    | with_reducible refine Does.pair (by assumption) ?_
    | with_reducible refine Does.pairSnd (by assumption) ?_
    | with_reducible refine Does.foldl ?_ ?_
    | (extract_lets +onlyGivenNames w_
       first
         | (refine Does.keep w_ ?_ ?_
            on_goal 1 => (unfold w_; clear w_)
            on_goal 2 => first | (clear_value w_; intro _; revert w_; intro _ _) | (intro _; revert w_; intro _ _))
         | (refine Does.keep w_.1 ?_ ?_
            on_goal 1 => (unfold w_; clear w_)
            on_goal 2 => first | (clear_value w_; intro _; revert w_; intro _ _) | (intro _; revert w_; intro _ _))
         | (clear_value w_; revert w_; intro _) | (revert w_; intro _))
    | split
    | with_reducible refine Does.step (ih ..) ?_ ?_
    | with_reducible apply Does.step (State.eventFrame_does ..)
    | split
    | intro _
    | dsimp -zeta only

theorem State.noteRaised_does (s : State) (code : ℕ) : s.Does [.recorder] (State.noteRaised s code) := by
  unfold State.noteRaised
  repeat' first
    | with_reducible exact Does.refl _ _
    | exact Or.inr (by decide)
    | exact Or.inl rfl
    | exact fun h => ⟨h.mem, h.od, h.cams, h.time, h.pipe, h.tracker, h.drive, h.seqs, h.loops, h.thermal, h.backdrop, h.strand, h.dict, h.side, h.pins, h.dma, by first | exact ⟨h.recorder.1, h.recorder.2.1, h.recorder.2.2.1, h.recorder.2.2.2.1, h.recorder.2.2.2.2⟩ | simpa [Recorder.shaped] using h.recorder | (have hh := h.recorder; clear h; simp_all [Recorder.shaped])⟩
    | with_reducible apply Does.parts

theorem State.eventToHost_does (s : State) (code : ℕ) (sev : ℕ) (arg : ℕ) : s.Does [.out, .od, .strand] (State.eventToHost s code sev arg).1 := by
  unfold State.eventToHost
  repeat' first
    | with_reducible exact Does.refl _ _
    | with_reducible assumption
    | decide
    | with_reducible refine Does.pair (by assumption) ?_
    | with_reducible refine Does.pairSnd (by assumption) ?_
    | with_reducible refine Does.foldl ?_ ?_
    | (extract_lets +onlyGivenNames w_
       first
         | (refine Does.keep w_ ?_ ?_
            on_goal 1 => (unfold w_; clear w_)
            on_goal 2 => first | (clear_value w_; intro _; revert w_; intro _ _) | (intro _; revert w_; intro _ _))
         | (refine Does.keep w_.1 ?_ ?_
            on_goal 1 => (unfold w_; clear w_)
            on_goal 2 => first | (clear_value w_; intro _; revert w_; intro _ _) | (intro _; revert w_; intro _ _))
         | (clear_value w_; revert w_; intro _) | (revert w_; intro _))
    | split
    | with_reducible apply Does.step (State.eventFrame_does ..)
    | with_reducible apply Does.step (State.bump_does ..)
    | split
    | intro _
    | dsimp -zeta only

theorem State.logEvent_does (s : State) (code sev arg : Nat) : s.Does [.od, .recorder] (s.logEvent code sev arg) := by
  unfold State.logEvent
  dsimp only
  split
  · split
    · next hl =>
      refine Does.mono (Does.recorder _ fun h => ⟨h.1, h.2.1, h.2.2.1, ?_, h.2.2.2.2⟩) (by decide)
      rw [List.length_append, List.length_singleton]
      omega
    · split
      · next ha =>
        refine Does.mono (Does.recorder _ fun h => ⟨h.1, h.2.1, h.2.2.1, ?_, h.2.2.2.2⟩) (by decide)
        have := dropFirst_length _ _ ha
        have := h.2.2.2.1
        rw [List.length_append, List.length_singleton]
        omega
      · exact Does.mono (State.bump_does ..) (by decide)
  · exact Does.mono (Does.recorder _ id) (by decide)

theorem State.noteDrop_does (s : State) : s.Does [.out, .od, .strand, .recorder] (State.noteDrop s) := by
  unfold State.noteDrop
  repeat' first
    | with_reducible exact Does.refl _ _
    | with_reducible assumption
    | decide
    | with_reducible refine Does.pair (by assumption) ?_
    | with_reducible refine Does.pairSnd (by assumption) ?_
    | with_reducible refine Does.foldl ?_ ?_
    | (extract_lets +onlyGivenNames w_
       first
         | (refine Does.keep w_ ?_ ?_
            on_goal 1 => (unfold w_; clear w_)
            on_goal 2 => first | (clear_value w_; intro _; revert w_; intro _ _) | (intro _; revert w_; intro _ _))
         | (refine Does.keep w_.1 ?_ ?_
            on_goal 1 => (unfold w_; clear w_)
            on_goal 2 => first | (clear_value w_; intro _; revert w_; intro _ _) | (intro _; revert w_; intro _ _))
         | (clear_value w_; revert w_; intro _) | (revert w_; intro _))
    | with_reducible apply Does.step (State.eventToHost_does ..)
    | with_reducible apply Does.step (State.logEvent_does ..)
    | with_reducible apply Does.step (State.noteRaised_does ..)
    | split
    | intro _
    | dsimp -zeta only

theorem State.noteDropped_does (s : State) (dropped : Bool) : s.Does [.out, .od, .strand, .recorder] (State.noteDropped s dropped) := by
  unfold State.noteDropped
  repeat' first
    | with_reducible exact Does.refl _ _
    | with_reducible assumption
    | decide
    | with_reducible refine Does.pair (by assumption) ?_
    | with_reducible refine Does.pairSnd (by assumption) ?_
    | with_reducible refine Does.foldl ?_ ?_
    | (extract_lets +onlyGivenNames w_
       first
         | (refine Does.keep w_ ?_ ?_
            on_goal 1 => (unfold w_; clear w_)
            on_goal 2 => first | (clear_value w_; intro _; revert w_; intro _ _) | (intro _; revert w_; intro _ _))
         | (refine Does.keep w_.1 ?_ ?_
            on_goal 1 => (unfold w_; clear w_)
            on_goal 2 => first | (clear_value w_; intro _; revert w_; intro _ _) | (intro _; revert w_; intro _ _))
         | (clear_value w_; revert w_; intro _) | (revert w_; intro _))
    | with_reducible apply Does.step (State.noteDrop_does ..)
    | split
    | intro _
    | dsimp -zeta only

theorem State.sendEvent_does (s : State) (code : ℕ) (sev : ℕ) (arg : ℕ) : s.Does [.out, .od, .strand, .recorder] (State.sendEvent s code sev arg) := by
  unfold State.sendEvent
  repeat' first
    | with_reducible exact Does.refl _ _
    | with_reducible assumption
    | decide
    | with_reducible refine Does.pair (by assumption) ?_
    | with_reducible refine Does.pairSnd (by assumption) ?_
    | with_reducible refine Does.foldl ?_ ?_
    | (extract_lets +onlyGivenNames w_
       first
         | (refine Does.keep w_ ?_ ?_
            on_goal 1 => (unfold w_; clear w_)
            on_goal 2 => first | (clear_value w_; intro _; revert w_; intro _ _) | (intro _; revert w_; intro _ _))
         | (refine Does.keep w_.1 ?_ ?_
            on_goal 1 => (unfold w_; clear w_)
            on_goal 2 => first | (clear_value w_; intro _; revert w_; intro _ _) | (intro _; revert w_; intro _ _))
         | (clear_value w_; revert w_; intro _) | (revert w_; intro _))
    | with_reducible apply Does.step (State.noteDropped_does ..)
    | with_reducible apply Does.step (State.eventToHost_does ..)
    | with_reducible apply Does.step (State.eventFrames_does ..)
    | split
    | intro _
    | dsimp -zeta only

theorem State.raiseLow_does (s : State) (code : ℕ) (sev : ℕ) (arg : ℕ) : s.Does [.out, .od, .strand, .recorder] (State.raiseLow s code sev arg) := by
  unfold State.raiseLow
  repeat' first
    | with_reducible exact Does.refl _ _
    | decide
    | with_reducible apply Does.step (State.sendEvent_does ..)
    | with_reducible apply Does.step (State.logEvent_does ..)

theorem State.saveHeader_does (s : State) (h : LogHeader) : s.Does [.recorder] (State.saveHeader s h) := by
  unfold State.saveHeader
  repeat' first
    | with_reducible exact Does.refl _ _
    | with_reducible assumption
    | decide
    | with_reducible refine Does.pair (by assumption) ?_
    | with_reducible refine Does.pairSnd (by assumption) ?_
    | with_reducible refine Does.foldl ?_ ?_
    | (extract_lets +onlyGivenNames w_
       first
         | (refine Does.keep w_ ?_ ?_
            on_goal 1 => (unfold w_; clear w_)
            on_goal 2 => first | (clear_value w_; intro _; revert w_; intro _ _) | (intro _; revert w_; intro _ _))
         | (refine Does.keep w_.1 ?_ ?_
            on_goal 1 => (unfold w_; clear w_)
            on_goal 2 => first | (clear_value w_; intro _; revert w_; intro _ _) | (intro _; revert w_; intro _ _))
         | (have h_ : Recorder := w_; clear h_; subst w_)
         | (clear_value w_; revert w_; intro _) | (revert w_; intro _))
    | exact Or.inr (by decide)
    | exact Or.inl rfl
    | exact fun h => ⟨h.mem, h.od, h.cams, h.time, h.pipe, h.tracker, h.drive, h.seqs, h.loops, h.thermal, h.backdrop, h.strand, h.dict, h.side, h.pins, h.dma, by first | exact ⟨h.recorder.1, h.recorder.2.1, h.recorder.2.2.1, h.recorder.2.2.2.1, h.recorder.2.2.2.2⟩ | simpa [Recorder.shaped] using h.recorder | (have hh := h.recorder; clear h; simp_all [Recorder.shaped])⟩
    | split
    | intro _
    | dsimp -zeta only
    | with_reducible apply Does.parts

theorem State.writeRecord_does (s : State) (r : Record) (slot? : Option Nat) (hk : ∀ k, slot? = some k → k < 2000) :
    s.Does [.out, .od, .strand, .recorder] (s.writeRecord r slot?) := by
  unfold State.writeRecord
  dsimp only
  split
  · exact Does.step (State.raiseLow_does ..) (by decide) (Does.mono (State.saveHeader_does ..) (by decide))
  · next k hp =>
    have place : s.recorder.shaped → k < 2000 := fun h => place_lt hk h.2.1 hp
    exact Does.mono (Does.recorder _ fun h => ⟨assocSorted_assocSet _ _ h.1, slots_assocSet _ (place h) h.2.1, by simpa using place h,
      h.2.2.2⟩) (by decide)

theorem State.runClear_does (s : State) (m : Sys2Proof.Master) (bank : Tally) : s.Does [.out, .od, .strand, .recorder] (State.runClear s m bank) := by
  unfold State.runClear
  repeat' first
    | with_reducible exact Does.refl _ _
    | with_reducible assumption
    | with_reducible apply Does.step (State.writeRecord_does _ _ (some 0) (fun _ h => by cases h; decide))
    | with_reducible apply Does.step (State.raiseLow_does ..)
    | exact Or.inr (by decide)
    | exact Or.inl rfl
    | exact fun h => ⟨h.mem, by first | exact h.od | exact assocSorted_filter _ h.od, h.cams, h.time, h.pipe, h.tracker, h.drive, h.seqs, h.loops, h.thermal, h.backdrop, h.strand, h.dict, h.side, h.pins, h.dma, by first | exact ⟨h.recorder.1, h.recorder.2.1, h.recorder.2.2.1, h.recorder.2.2.2.1, h.recorder.2.2.2.2⟩ | exact ⟨rfl, rfl, h.recorder.2.2⟩⟩
    | intro _
    | with_reducible apply Does.parts

theorem State.dropClear_does (s : State) : s.Does [.recorder] (State.dropClear s) := by
  unfold State.dropClear
  repeat' first
    | with_reducible exact Does.refl _ _
    | with_reducible assumption
    | decide
    | with_reducible refine Does.pair (by assumption) ?_
    | with_reducible refine Does.pairSnd (by assumption) ?_
    | with_reducible refine Does.foldl ?_ ?_
    | (extract_lets +onlyGivenNames w_
       first
         | (refine Does.keep w_ ?_ ?_
            on_goal 1 => (unfold w_; clear w_)
            on_goal 2 => first | (clear_value w_; intro _; revert w_; intro _ _) | (intro _; revert w_; intro _ _))
         | (refine Does.keep w_.1 ?_ ?_
            on_goal 1 => (unfold w_; clear w_)
            on_goal 2 => first | (clear_value w_; intro _; revert w_; intro _ _) | (intro _; revert w_; intro _ _))
         | (have h_ : Recorder := w_; clear h_; subst w_)
         | (clear_value w_; revert w_; intro _) | (revert w_; intro _))
    | exact Or.inr (by decide)
    | exact Or.inl rfl
    | exact fun h => ⟨h.mem, h.od, h.cams, h.time, h.pipe, h.tracker, h.drive, h.seqs, h.loops, h.thermal, h.backdrop, h.strand, h.dict, h.side, h.pins, h.dma, by first | exact ⟨h.recorder.1, h.recorder.2.1, h.recorder.2.2.1, h.recorder.2.2.2.1, h.recorder.2.2.2.2⟩ | simpa [Recorder.shaped] using h.recorder | (have hh := h.recorder; clear h; simp_all [Recorder.shaped])⟩
    | split
    | intro _
    | dsimp -zeta only
    | with_reducible apply Does.parts

theorem State.queueEmcy_does (s : State) (e : Emcy) : s.Does [.od, .side] (s.queueEmcy e) := by
  unfold State.queueEmcy
  dsimp only
  split
  · next hl =>
    refine Does.mono (Does.side _ fun h => ⟨h.1, h.2.1, ?_⟩) (by decide)
    rw [List.length_append, List.length_singleton]
    omega
  · split
    · next ha =>
      refine Does.step (State.bump_does ..) (by decide) (Does.mono (Does.side _ fun h => ⟨h.1, h.2.1, ?_⟩) (by decide))
      have := dropFirst_length _ _ ((Bool.and_eq_true _ _).mp ha).1
      have := h.2.2
      rw [List.length_append, List.length_singleton]
      omega
    · exact Does.mono (State.bump_does ..) (by decide)

theorem State.noteConfig_does (s : State) (before : State) : s.Does [.out, .od, .strand, .recorder] (State.noteConfig s before) := by
  unfold State.noteConfig
  repeat' first
    | with_reducible exact Does.refl _ _
    | with_reducible assumption
    | decide
    | with_reducible refine Does.pair (by assumption) ?_
    | with_reducible refine Does.pairSnd (by assumption) ?_
    | with_reducible refine Does.foldl ?_ ?_
    | (extract_lets +onlyGivenNames w_
       first
         | (refine Does.keep w_ ?_ ?_
            on_goal 1 => (unfold w_; clear w_)
            on_goal 2 => first | (clear_value w_; intro _; revert w_; intro _ _) | (intro _; revert w_; intro _ _))
         | (refine Does.keep w_.1 ?_ ?_
            on_goal 1 => (unfold w_; clear w_)
            on_goal 2 => first | (clear_value w_; intro _; revert w_; intro _ _) | (intro _; revert w_; intro _ _))
         | (clear_value w_; revert w_; intro _) | (revert w_; intro _))
    | with_reducible apply Does.step (State.raiseLow_does ..)
    | split
    | intro _
    | dsimp -zeta only

theorem State.switchBanks_does (s : State) : s.Does [.recorder] (State.switchBanks s) := by
  unfold State.switchBanks
  repeat' first
    | with_reducible exact Does.refl _ _
    | with_reducible assumption
    | decide
    | with_reducible refine Does.pair (by assumption) ?_
    | with_reducible refine Does.pairSnd (by assumption) ?_
    | with_reducible refine Does.foldl ?_ ?_
    | (extract_lets +onlyGivenNames w_
       first
         | (refine Does.keep w_ ?_ ?_
            on_goal 1 => (unfold w_; clear w_)
            on_goal 2 => first | (clear_value w_; intro _; revert w_; intro _ _) | (intro _; revert w_; intro _ _))
         | (refine Does.keep w_.1 ?_ ?_
            on_goal 1 => (unfold w_; clear w_)
            on_goal 2 => first | (clear_value w_; intro _; revert w_; intro _ _) | (intro _; revert w_; intro _ _))
         | (have h_ : Recorder := w_; clear h_; subst w_)
         | (clear_value w_; revert w_; intro _) | (revert w_; intro _))
    | exact Or.inr (by decide)
    | exact Or.inl rfl
    | exact fun h => ⟨h.mem, h.od, h.cams, h.time, h.pipe, h.tracker, h.drive, h.seqs, h.loops, h.thermal, h.backdrop, h.strand, h.dict, h.side, h.pins, h.dma, by first | exact ⟨h.recorder.1, h.recorder.2.1, h.recorder.2.2.1, h.recorder.2.2.2.1, h.recorder.2.2.2.2⟩ | simpa [Recorder.shaped] using h.recorder | (have hh := h.recorder; clear h; simp_all [Recorder.shaped])⟩
    | split
    | intro _
    | dsimp -zeta only
    | with_reducible apply Does.parts

theorem State.closeRecord_does (s : State) (trigger : ℕ) (code : ℕ) (arg : ℕ) : s.Does [.out, .od, .strand, .recorder] (State.closeRecord s trigger code arg) := by
  unfold State.closeRecord
  repeat' first
    | with_reducible exact Does.refl _ _
    | with_reducible assumption
    | decide
    | with_reducible refine Does.pair (by assumption) ?_
    | with_reducible refine Does.pairSnd (by assumption) ?_
    | with_reducible refine Does.foldl ?_ ?_
    | (extract_lets +onlyGivenNames w_
       first
         | (refine Does.keep w_ ?_ ?_
            on_goal 1 => (unfold w_; clear w_)
            on_goal 2 => first | (clear_value w_; intro _; revert w_; intro _ _) | (intro _; revert w_; intro _ _))
         | (refine Does.keep w_.1 ?_ ?_
            on_goal 1 => (unfold w_; clear w_)
            on_goal 2 => first | (clear_value w_; intro _; revert w_; intro _ _) | (intro _; revert w_; intro _ _))
         | (clear_value w_; revert w_; intro _) | (revert w_; intro _))
    | with_reducible apply Does.step (State.writeRecord_does _ _ none (fun _ h => nomatch h))
    | with_reducible apply Does.step (State.writeRecord_does _ _ (some 0) (fun _ h => by cases h; decide))
    | with_reducible apply Does.step (State.noteConfig_does ..)
    | with_reducible apply Does.step (State.switchBanks_does ..)
    | split
    | intro _
    | dsimp -zeta only

theorem State.severeTrigger_does (s : State) (code : ℕ) (sev : ℕ) (arg : ℕ) : s.Does [.out, .od, .strand, .recorder] (State.severeTrigger s code sev arg) := by
  unfold State.severeTrigger
  repeat' first
    | with_reducible exact Does.refl _ _
    | decide
    | with_reducible apply Does.step (State.closeRecord_does ..)
    | exact Or.inr (by decide)
    | exact Or.inl rfl
    | exact fun h => ⟨h.mem, h.od, h.cams, h.time, h.pipe, h.tracker, h.drive, h.seqs, h.loops, h.thermal, h.backdrop, h.strand, h.dict, h.side, h.pins, h.dma, by first | exact ⟨h.recorder.1, h.recorder.2.1, h.recorder.2.2.1, h.recorder.2.2.2.1, h.recorder.2.2.2.2⟩ | simpa [Recorder.shaped] using h.recorder | (have hh := h.recorder; clear h; simp_all [Recorder.shaped])⟩
    | split
    | with_reducible apply Does.parts

theorem State.raiseAs_does (s : State) (code : ℕ) (sev : ℕ) (arg : ℕ) (generic : ℕ) : s.Does [.out, .od, .backdrop, .strand, .side, .recorder] (State.raiseAs s code sev arg generic) := by
  unfold State.raiseAs
  repeat' first
    | with_reducible exact Does.refl _ _
    | with_reducible assumption
    | decide
    | with_reducible apply Does.step (State.severeTrigger_does ..)
    | with_reducible apply Does.step (State.raiseLow_does ..)
    | with_reducible apply Does.step (State.queueEmcy_does ..)
    | exact Or.inr (by decide)
    | exact Or.inl rfl
    | exact fun h => ⟨h.mem, h.od, h.cams, h.time, h.pipe, h.tracker, h.drive, h.seqs, h.loops, h.thermal, by first | exact ⟨h.backdrop.1, h.backdrop.2.1, h.backdrop.2.2⟩ | simpa [Backdrop.shaped] using h.backdrop | (have hh := h.backdrop; clear h; simp_all [Backdrop.shaped]), h.strand, h.dict, h.side, h.pins, h.dma, h.recorder⟩
    | split
    | with_reducible apply Does.parts

theorem State.raise_does (s : State) (code : ℕ) (arg : ℕ) : s.Does [.out, .od, .backdrop, .strand, .side, .recorder] (State.raise s code arg) := by
  unfold State.raise
  repeat' first
    | with_reducible exact Does.refl _ _
    | decide
    | with_reducible apply Does.step (State.raiseAs_does ..)

theorem State.powerDownTrigger_does (s : State) (trigger : ℕ) : s.Does [.out, .od, .strand, .recorder] (State.powerDownTrigger s trigger) := by
  unfold State.powerDownTrigger
  repeat' first
    | with_reducible exact Does.refl _ _
    | with_reducible assumption
    | decide
    | with_reducible refine Does.pair (by assumption) ?_
    | with_reducible refine Does.pairSnd (by assumption) ?_
    | with_reducible refine Does.foldl ?_ ?_
    | (extract_lets +onlyGivenNames w_
       first
         | (refine Does.keep w_ ?_ ?_
            on_goal 1 => (unfold w_; clear w_)
            on_goal 2 => first | (clear_value w_; intro _; revert w_; intro _ _) | (intro _; revert w_; intro _ _))
         | (refine Does.keep w_.1 ?_ ?_
            on_goal 1 => (unfold w_; clear w_)
            on_goal 2 => first | (clear_value w_; intro _; revert w_; intro _ _) | (intro _; revert w_; intro _ _))
         | (have h_ : Recorder := w_; clear h_; subst w_)
         | (clear_value w_; revert w_; intro _) | (revert w_; intro _))
    | with_reducible apply Does.step (State.closeRecord_does ..)
    | with_reducible apply Does.step (State.dropClear_does ..)
    | exact Or.inr (by decide)
    | exact Or.inl rfl
    | exact fun h => ⟨h.mem, h.od, h.cams, h.time, h.pipe, h.tracker, h.drive, h.seqs, h.loops, h.thermal, h.backdrop, h.strand, h.dict, h.side, h.pins, h.dma, by first | exact ⟨h.recorder.1, h.recorder.2.1, h.recorder.2.2.1, h.recorder.2.2.2.1, h.recorder.2.2.2.2⟩ | simpa [Recorder.shaped] using h.recorder | (have hh := h.recorder; clear h; simp_all [Recorder.shaped])⟩
    | split
    | intro _
    | dsimp -zeta only
    | with_reducible apply Does.parts

theorem State.nextTrigger_does (s : State) : s.Does [.out, .od, .strand, .recorder] (State.nextTrigger s) := by
  unfold State.nextTrigger
  repeat' first
    | with_reducible exact Does.refl _ _
    | decide
    | with_reducible apply Does.step (State.closeRecord_does ..)
    | with_reducible apply Does.step (State.runClear_does ..)
    | exact Or.inr (by decide)
    | exact Or.inl rfl
    | exact fun h => ⟨h.mem, h.od, h.cams, h.time, h.pipe, h.tracker, h.drive, h.seqs, h.loops, h.thermal, h.backdrop, h.strand, h.dict, h.side, h.pins, h.dma, by first | exact ⟨h.recorder.1, h.recorder.2.1, h.recorder.2.2.1, h.recorder.2.2.2.1, h.recorder.2.2.2.2⟩ | simpa [Recorder.shaped] using h.recorder | (have hh := h.recorder; clear h; simp_all [Recorder.shaped])⟩
    | split
    | with_reducible apply Does.parts

theorem State.raiseSlow_does (s : State) (code : ℕ) (arg : ℕ) : s.Does [.out, .od, .backdrop, .strand, .side, .recorder] (State.raiseSlow s code arg) := by
  unfold State.raiseSlow
  repeat' first
    | with_reducible exact Does.refl _ _
    | decide
    | with_reducible apply Does.step (State.raise_does ..)
    | with_reducible apply Does.step (State.noteRaised_does ..)
    | split

theorem State.writeHeader_does (s : State) (h : LogHeader) : s.Does [.recorder] (State.writeHeader s h) := by
  unfold State.writeHeader
  repeat' first
    | with_reducible exact Does.refl _ _
    | exact Or.inr (by decide)
    | exact Or.inl rfl
    | exact fun h => ⟨h.mem, h.od, h.cams, h.time, h.pipe, h.tracker, h.drive, h.seqs, h.loops, h.thermal, h.backdrop, h.strand, h.dict, h.side, h.pins, h.dma, by first | exact ⟨h.recorder.1, h.recorder.2.1, h.recorder.2.2.1, h.recorder.2.2.2.1, h.recorder.2.2.2.2⟩ | simpa [Recorder.shaped] using h.recorder | (have hh := h.recorder; clear h; simp_all [Recorder.shaped])⟩
    | with_reducible apply Does.parts

theorem State.endWrite_does (s : State) (w : RecWrite) (hw : s.recorder.writing = some w) : s.Does [.recorder] (s.endWrite w) := by
  unfold State.endWrite
  dsimp only
  refine Does.step (State.writeHeader_does ..) (by decide) ?_
  refine Does.recorder _ fun h => ?_
  have hs : w.slot < 2000 := by simpa [hw] using h.2.2.1
  exact ⟨assocSorted_assocSet _ _ h.1, slots_assocSet _ hs h.2.1, rfl, h.2.2.2⟩

theorem State.hourTrigger_does (s : State) : s.Does [.out, .od, .strand, .recorder] (State.hourTrigger s) := by
  unfold State.hourTrigger
  repeat' first
    | with_reducible exact Does.refl _ _
    | decide
    | with_reducible apply Does.step (State.closeRecord_does ..)
    | exact Or.inr (by decide)
    | exact Or.inl rfl
    | exact fun h => ⟨h.mem, h.od, h.cams, h.time, h.pipe, h.tracker, h.drive, h.seqs, h.loops, h.thermal, h.backdrop, h.strand, h.dict, h.side, h.pins, h.dma, by first | exact ⟨h.recorder.1, h.recorder.2.1, h.recorder.2.2.1, h.recorder.2.2.2.1, h.recorder.2.2.2.2⟩ | simpa [Recorder.shaped] using h.recorder | (have hh := h.recorder; clear h; simp_all [Recorder.shaped])⟩
    | split
    | with_reducible apply Does.parts

theorem State.sample_does (s : State) (q : ℕ) (x : ℚ) : s.Does [.recorder] (State.sample s q x) := by
  unfold State.sample
  repeat' first
    | with_reducible exact Does.refl _ _
    | exact Or.inr (by decide)
    | exact Or.inl rfl
    | exact fun h => ⟨h.mem, h.od, h.cams, h.time, h.pipe, h.tracker, h.drive, h.seqs, h.loops, h.thermal, h.backdrop, h.strand, h.dict, h.side, h.pins, h.dma, by first | exact ⟨h.recorder.1, h.recorder.2.1, h.recorder.2.2.1, h.recorder.2.2.2.1, h.recorder.2.2.2.2⟩ | simpa [Recorder.shaped] using h.recorder | (have hh := h.recorder; clear h; simp_all [Recorder.shaped])⟩
    | split
    | with_reducible apply Does.parts

theorem State.post_does (s : State) (dest : ℕ) (vc : ℕ) (type : ℕ) (words : List ℕ) : s.Does [.out, .od, .strand, .recorder] (State.post s dest vc type words) := by
  unfold State.post
  repeat' first
    | with_reducible exact Does.refl _ _
    | with_reducible assumption
    | decide
    | with_reducible refine Does.pair (by assumption) ?_
    | with_reducible refine Does.pairSnd (by assumption) ?_
    | with_reducible refine Does.foldl ?_ ?_
    | (extract_lets +onlyGivenNames w_
       first
         | (refine Does.keep w_ ?_ ?_
            on_goal 1 => (unfold w_; clear w_)
            on_goal 2 => first | (clear_value w_; intro _; revert w_; intro _ _) | (intro _; revert w_; intro _ _))
         | (refine Does.keep w_.1 ?_ ?_
            on_goal 1 => (unfold w_; clear w_)
            on_goal 2 => first | (clear_value w_; intro _; revert w_; intro _ _) | (intro _; revert w_; intro _ _))
         | (clear_value w_; revert w_; intro _) | (revert w_; intro _))
    | with_reducible apply Does.step (State.noteDropped_does ..)
    | with_reducible apply Does.step (State.message_does ..)
    | split
    | intro _
    | dsimp -zeta only

theorem State.settleWrites_does (n : Nat) (s : State) : s.Does [.out, .od, .strand, .recorder] (State.settleWrites n s) := by
  induction n generalizing s with
  | zero => exact Does.refl _ _
  | succ n ih =>
    unfold State.settleWrites
    split
    · exact Does.refl _ _
    · next w hw =>
      exact Does.step (ih _) (by decide) (Does.step (State.nextTrigger_does ..) (by decide)
        (Does.mono (State.endWrite_does _ _ hw) (by decide)))

end Sys2Proof.Machine
end

