-- ==== Sys2Proof/Laws/Operands.lean ====
section
/-!
SUPPORT. What the operations of Machine/Operands.lean do.
-/
set_option Elab.async false
set_option linter.all false

namespace Sys2Proof.Machine

theorem State.answer_does (s : State) (m : Sys2Proof.Master) (k : ℕ) (abort : ℕ) (data : List Sys2Proof.Byte) : s.Does [.out] (State.answer s m k abort data) := by
  unfold State.answer
  repeat' first
    | with_reducible exact Does.refl _ _
    | decide
    | with_reducible apply Does.step (State.emit_does ..)

theorem State.setStage_does (s : State) (m : Sys2Proof.Master) (g : Stage) : s.Does [.dict] (State.setStage s m g) := by
  unfold State.setStage
  repeat' first
    | with_reducible exact Does.refl _ _
    | exact Or.inr (by decide)
    | exact Or.inl rfl
    | exact fun h => ⟨h.mem, h.od, h.cams, h.time, h.pipe, h.tracker, h.drive, h.seqs, h.loops, h.thermal, h.backdrop, h.strand, by first | exact ⟨h.dict.1, h.dict.2.1, h.dict.2.2⟩ | simpa [Dict.shaped] using h.dict | (have hh := h.dict; clear h; simp_all [Dict.shaped]), h.side, h.pins, h.dma, h.recorder⟩
    | with_reducible apply Does.parts

theorem State.stageWrite_does (s : State) (m : Sys2Proof.Master) (k : ℕ) (v : Sys2Proof.Val) : s.Does [.dict] (State.stageWrite s m k v).1 := by
  unfold State.stageWrite
  repeat' first
    | with_reducible exact Does.refl _ _
    | decide
    | (extract_lets +onlyGivenNames w_
       first
         | (clear_value w_; revert w_; intro _) | (revert w_; intro _))
    | with_reducible apply Does.step (State.setStage_does ..)
    | split

theorem State.tryWrite_does {ps : List Part} (h1 : Part.od ∈ ps) (h2 : Part.dict ∈ ps) (s : State) (m : Master) (k : Nat) (v : Val)
    (act : State → State × Nat) (ha : s.Does ps (act s).1) : s.Does ps (s.tryWrite m k v act).1 := by
  unfold State.tryWrite
  dsimp only
  have h12 : [Part.dict] ⊆ ps := by simpa using h2
  split
  · exact Does.refl _ _
  · split
    · exact Does.mono (State.stageWrite_does ..) h12
    · split
      · exact Does.mono (State.bump_does ..) (by simpa using h1)
      · exact ha

theorem State.writeLater_does {ps : List Part} (h0 : Part.out ∈ ps) (h1 : Part.od ∈ ps) (h2 : Part.dict ∈ ps) (s : State) (m : Master) (k : Nat)
    (v : Val) (act : State → State × Nat) (ha : s.Does ps (act s).1) : s.Does ps (s.writeLater m k v act) := by
  unfold State.writeLater
  split
  · exact Does.refl _ _
  · have h := State.tryWrite_does h1 h2 s m k v act ha
    split
    next e =>
      rw [e] at h
      split
      · exact Does.step (State.answer_does ..) (by simpa using h0) h
      · exact h

theorem hold_does (k : ℕ) (v : Sys2Proof.Val) (s : State) : s.Does [.od] (hold k v s).1 := by
  unfold hold
  repeat' first
    | with_reducible exact Does.refl _ _
    | decide
    | with_reducible apply Does.step (State.put_does ..)

theorem State.keep_does (s : State) (k : ℕ) (v : ℕ) : s.Does [.od] (State.keep s k v) := by
  unfold State.keep
  repeat' first
    | with_reducible exact Does.refl _ _
    | decide
    | with_reducible apply Does.step (State.putNat_does ..)

theorem State.write_does {ps : List Part} (h0 : Part.out ∈ ps) (h1 : Part.od ∈ ps) (h2 : Part.dict ∈ ps) (s : State) (m : Master) (k : Nat)
    (v : Val) (act : State → State × Nat) (ha : s.Does ps (act s).1) : s.Does ps (s.write m k v act) := by
  unfold State.write
  split
  · exact Does.refl _ _
  · have h := State.tryWrite_does h1 h2 s m k v act ha
    split
    next e =>
      rw [e] at h
      split
      · exact Does.step (State.answer_does ..) (by simpa using h0) h
      · exact h

end Sys2Proof.Machine
end

