-- ==== Sys2Proof/Laws/DriveOps.lean ====
section
/-!
SUPPORT. What the operations of Machine/DriveOps.lean do.
-/
set_option Elab.async false
set_option linter.all false

namespace Sys2Proof.Machine

theorem State.setSeq_does (s : State) (v : ℕ) (x : Seq) : s.Does [.seqs] (State.setSeq s v x) := by
  unfold State.setSeq
  repeat' first
    | with_reducible exact Does.refl _ _
    | exact Or.inr (by decide)
    | exact Or.inl rfl
    | exact fun h => ⟨h.mem, h.od, h.cams, h.time, h.pipe, h.tracker, h.drive, by first | exact ⟨h.seqs.1, h.seqs.2⟩ | simpa [Sequencers.shaped] using h.seqs | (have hh := h.seqs; clear h; simp_all [Sequencers.shaped]), h.loops, h.thermal, h.backdrop, h.strand, h.dict, h.side, h.pins, h.dma, h.recorder⟩
    | with_reducible apply Does.parts

theorem State.setStore_does (s : State) (g : ℕ) (x : GroupStore) : s.Does [.seqs] (State.setStore s g x) := by
  unfold State.setStore
  repeat' first
    | with_reducible exact Does.refl _ _
    | exact Or.inr (by decide)
    | exact Or.inl rfl
    | exact fun h => ⟨h.mem, h.od, h.cams, h.time, h.pipe, h.tracker, h.drive, by first | exact ⟨h.seqs.1, h.seqs.2⟩ | simpa [Sequencers.shaped] using h.seqs | (have hh := h.seqs; clear h; simp_all [Sequencers.shaped]), h.loops, h.thermal, h.backdrop, h.strand, h.dict, h.side, h.pins, h.dma, h.recorder⟩
    | with_reducible apply Does.parts

theorem State.releads_does (s : State) : s.Does [.drive] (State.releads s) := by
  unfold State.releads
  repeat' first
    | with_reducible exact Does.refl _ _
    | exact Or.inr (by decide)
    | exact Or.inl rfl
    | exact fun h => ⟨h.mem, h.od, h.cams, h.time, h.pipe, h.tracker, by first | exact ⟨h.drive.1, h.drive.2⟩ | simpa [Drive.shaped] using h.drive | (have hh := h.drive; clear h; simp_all [Drive.shaped]), h.seqs, h.loops, h.thermal, h.backdrop, h.strand, h.dict, h.side, h.pins, h.dma, h.recorder⟩
    | with_reducible apply Does.parts

theorem State.setGroup_does (s : State) (g : ℕ) (x : GroupSt) : s.Does [.drive] (State.setGroup s g x) := by
  unfold State.setGroup
  repeat' first
    | with_reducible exact Does.refl _ _
    | exact Or.inr (by decide)
    | exact Or.inl rfl
    | exact fun h => ⟨h.mem, h.od, h.cams, h.time, h.pipe, h.tracker, by first | exact ⟨h.drive.1, h.drive.2⟩ | simpa [Drive.shaped] using h.drive | (have hh := h.drive; clear h; simp_all [Drive.shaped]), h.seqs, h.loops, h.thermal, h.backdrop, h.strand, h.dict, h.side, h.pins, h.dma, h.recorder⟩
    | with_reducible apply Does.parts

theorem State.withdraw_does (s : State) (vs : List ℕ) : s.Does [.drive] (State.withdraw s vs) := by
  unfold State.withdraw
  repeat' first
    | with_reducible exact Does.refl _ _
    | with_reducible assumption
    | decide
    | with_reducible refine Does.pair (by assumption) ?_
    | with_reducible refine Does.pairSnd (by assumption) ?_
    | with_reducible refine Does.foldl ?_ ?_
    | (extract_lets +onlyGivenNames w_
       first
         | (refine Does.keep w_ ?_ ?_
            on_goal 1 => (unfold w_; clear w_)
            on_goal 2 => first | (clear_value w_; intro _; revert w_; intro _ _) | (intro _; revert w_; intro _ _))
         | (refine Does.keep w_.1 ?_ ?_
            on_goal 1 => (unfold w_; clear w_)
            on_goal 2 => first | (clear_value w_; intro _; revert w_; intro _ _) | (intro _; revert w_; intro _ _))
         | (clear_value w_; revert w_; intro _) | (revert w_; intro _))
    | with_reducible apply Does.step (State.setGroup_does ..)
    | split
    | intro _
    | dsimp -zeta only

theorem State.dropQueues_does (s : State) : s.Does [.drive, .seqs] (State.dropQueues s) := by
  unfold State.dropQueues
  repeat' first
    | with_reducible exact Does.refl _ _
    | exact Or.inr (by decide)
    | exact Or.inl rfl
    | exact fun h => ⟨h.mem, h.od, h.cams, h.time, h.pipe, h.tracker, by first | exact ⟨h.drive.1, h.drive.2⟩ | simpa [Drive.shaped] using h.drive | (have hh := h.drive; clear h; simp_all [Drive.shaped]), by first | exact ⟨h.seqs.1, h.seqs.2⟩ | simpa [Sequencers.shaped] using h.seqs | (have hh := h.seqs; clear h; simp_all [Sequencers.shaped]), h.loops, h.thermal, h.backdrop, h.strand, h.dict, h.side, h.pins, h.dma, h.recorder⟩
    | with_reducible apply Does.parts

theorem State.settleEnOut_does (s : State) : s.Does [.out, .pins] (State.settleEnOut s) := by
  unfold State.settleEnOut
  repeat' first
    | with_reducible exact Does.refl _ _
    | with_reducible assumption
    | decide
    | with_reducible refine Does.pair (by assumption) ?_
    | with_reducible refine Does.pairSnd (by assumption) ?_
    | with_reducible refine Does.foldl ?_ ?_
    | (extract_lets +onlyGivenNames w_
       first
         | (refine Does.keep w_ ?_ ?_
            on_goal 1 => (unfold w_; clear w_)
            on_goal 2 => first | (clear_value w_; intro _; revert w_; intro _ _) | (intro _; revert w_; intro _ _))
         | (refine Does.keep w_.1 ?_ ?_
            on_goal 1 => (unfold w_; clear w_)
            on_goal 2 => first | (clear_value w_; intro _; revert w_; intro _ _) | (intro _; revert w_; intro _ _))
         | (have h_ : Pins := w_; clear h_; subst w_)
         | (clear_value w_; revert w_; intro _) | (revert w_; intro _))
    | with_reducible apply Does.step (State.emit_does ..)
    | exact Or.inr (by decide)
    | exact Or.inl rfl
    | exact fun h => ⟨h.mem, h.od, h.cams, h.time, h.pipe, h.tracker, h.drive, h.seqs, h.loops, h.thermal, h.backdrop, h.strand, h.dict, h.side, by first | exact h.pins | simpa [Pins.shaped] using h.pins | (have hh := h.pins; clear h; simp_all [Pins.shaped]), h.dma, h.recorder⟩
    | split
    | intro _
    | dsimp -zeta only
    | with_reducible apply Does.parts

theorem State.skipCount_does (s : State) (v : ℕ) : s.Does [.od] (State.skipCount s v) := by
  unfold State.skipCount
  repeat' first
    | with_reducible exact Does.refl _ _
    | decide
    | with_reducible apply Does.step (State.bump_does ..)

theorem State.setValve_does (s : State) (v : ℕ) (x : ValveSt) : s.Does [.drive] (State.setValve s v x) := by
  unfold State.setValve
  repeat' first
    | with_reducible exact Does.refl _ _
    | exact Or.inr (by decide)
    | exact Or.inl rfl
    | exact fun h => ⟨h.mem, h.od, h.cams, h.time, h.pipe, h.tracker, by first | exact ⟨h.drive.1, h.drive.2⟩ | simpa [Drive.shaped] using h.drive | (have hh := h.drive; clear h; simp_all [Drive.shaped]), h.seqs, h.loops, h.thermal, h.backdrop, h.strand, h.dict, h.side, h.pins, h.dma, h.recorder⟩
    | with_reducible apply Does.parts

theorem State.tidyQueue_does (s : State) (v : ℕ) (handled : ℕ) : s.Does [.od, .drive] (State.tidyQueue s v handled) := by
  unfold State.tidyQueue
  repeat' first
    | with_reducible exact Does.refl _ _
    | with_reducible assumption
    | decide
    | with_reducible refine Does.pair (by assumption) ?_
    | with_reducible refine Does.pairSnd (by assumption) ?_
    | with_reducible refine Does.foldl ?_ ?_
    | (extract_lets +onlyGivenNames w_
       first
         | (refine Does.keep w_ ?_ ?_
            on_goal 1 => (unfold w_; clear w_)
            on_goal 2 => first | (clear_value w_; intro _; revert w_; intro _ _) | (intro _; revert w_; intro _ _))
         | (refine Does.keep w_.1 ?_ ?_
            on_goal 1 => (unfold w_; clear w_)
            on_goal 2 => first | (clear_value w_; intro _; revert w_; intro _ _) | (intro _; revert w_; intro _ _))
         | (clear_value w_; revert w_; intro _) | (revert w_; intro _))
    | with_reducible apply Does.step (State.bumpBy_does ..)
    | with_reducible apply Does.step (State.setValve_does ..)
    | split
    | intro _
    | dsimp -zeta only

theorem State.queueShot_does (s : State) (r : Request) (start : ℕ) (handled : ℕ) (deferred : Bool) : s.Does [.out, .od, .drive, .backdrop, .strand, .side, .recorder] (State.queueShot s r start handled deferred) := by
  unfold State.queueShot
  repeat' first
    | with_reducible exact Does.refl _ _
    | with_reducible assumption
    | decide
    | with_reducible refine Does.pair (by assumption) ?_
    | with_reducible refine Does.pairSnd (by assumption) ?_
    | with_reducible refine Does.foldl ?_ ?_
    | (extract_lets +onlyGivenNames w_
       first
         | (refine Does.keep w_ ?_ ?_
            on_goal 1 => (unfold w_; clear w_)
            on_goal 2 => first | (clear_value w_; intro _; revert w_; intro _ _) | (intro _; revert w_; intro _ _))
         | (refine Does.keep w_.1 ?_ ?_
            on_goal 1 => (unfold w_; clear w_)
            on_goal 2 => first | (clear_value w_; intro _; revert w_; intro _ _) | (intro _; revert w_; intro _ _))
         | (clear_value w_; revert w_; intro _) | (revert w_; intro _))
    | with_reducible apply Does.step (State.raiseSlow_does ..)
    | with_reducible apply Does.step (State.bump_does ..)
    | with_reducible apply Does.step (State.tidyQueue_does ..)
    | with_reducible apply Does.step (State.setValve_does ..)
    | split
    | intro _
    | dsimp -zeta only

theorem State.test7_does (s : State) (r : Request) (handled : ℕ) : s.Does [.out, .od, .drive, .backdrop, .strand, .side, .recorder] (State.test7 s r handled) := by
  unfold State.test7
  repeat' first
    | with_reducible exact Does.refl _ _
    | with_reducible assumption
    | decide
    | with_reducible refine Does.pair (by assumption) ?_
    | with_reducible refine Does.pairSnd (by assumption) ?_
    | with_reducible refine Does.foldl ?_ ?_
    | (extract_lets +onlyGivenNames w_
       first
         | (refine Does.keep w_ ?_ ?_
            on_goal 1 => (unfold w_; clear w_)
            on_goal 2 => first | (clear_value w_; intro _; revert w_; intro _ _) | (intro _; revert w_; intro _ _))
         | (refine Does.keep w_.1 ?_ ?_
            on_goal 1 => (unfold w_; clear w_)
            on_goal 2 => first | (clear_value w_; intro _; revert w_; intro _ _) | (intro _; revert w_; intro _ _))
         | (clear_value w_; revert w_; intro _) | (revert w_; intro _))
    | with_reducible apply Does.step (State.queueShot_does ..)
    | with_reducible apply Does.step (State.bump_does ..)
    | with_reducible apply Does.step (State.tidyQueue_does ..)
    | with_reducible apply Does.step (State.setValve_does ..)
    | split
    | intro _
    | dsimp -zeta only

theorem State.refill_does (s : State) : s.Does [.drive] (State.refill s) := by
  unfold State.refill
  repeat' first
    | with_reducible exact Does.refl _ _
    | exact Or.inr (by decide)
    | exact Or.inl rfl
    | exact fun h => ⟨h.mem, h.od, h.cams, h.time, h.pipe, h.tracker, by first | exact ⟨h.drive.1, h.drive.2⟩ | simpa [Drive.shaped] using h.drive | (have hh := h.drive; clear h; simp_all [Drive.shaped]), h.seqs, h.loops, h.thermal, h.backdrop, h.strand, h.dict, h.side, h.pins, h.dma, h.recorder⟩
    | with_reducible apply Does.parts

theorem State.request_does (s : State) (r : Request) : s.Does [.freeCtr, .out, .od, .drive, .backdrop, .strand, .side, .recorder] (State.request s r) := by
  unfold State.request
  repeat' first
    | with_reducible exact Does.refl _ _
    | with_reducible assumption
    | decide
    | with_reducible refine Does.pair (by assumption) ?_
    | with_reducible refine Does.pairSnd (by assumption) ?_
    | with_reducible refine Does.foldl ?_ ?_
    | (extract_lets +onlyGivenNames w_
       first
         | (refine Does.keep w_ ?_ ?_
            on_goal 1 => (unfold w_; clear w_)
            on_goal 2 => first | (clear_value w_; intro _; revert w_; intro _ _) | (intro _; revert w_; intro _ _))
         | (refine Does.keep w_.1 ?_ ?_
            on_goal 1 => (unfold w_; clear w_)
            on_goal 2 => first | (clear_value w_; intro _; revert w_; intro _ _) | (intro _; revert w_; intro _ _))
         | (clear_value w_; revert w_; intro _) | (revert w_; intro _))
    | with_reducible apply Does.step (State.test7_does ..)
    | with_reducible apply Does.step (State.queueShot_does ..)
    | with_reducible apply Does.step (State.raiseSlow_does ..)
    | with_reducible apply Does.step (State.skipCount_does ..)
    | with_reducible apply Does.step (State.bump_does ..)
    | with_reducible apply Does.step (State.draw_does ..)
    | with_reducible apply Does.step (State.refill_does ..)
    | split
    | intro _
    | dsimp -zeta only

theorem State.saturation_does (s : State) (v : ℕ) : s.Does [.out, .od, .backdrop, .strand, .side, .recorder] (State.saturation s v) := by
  unfold State.saturation
  repeat' first
    | with_reducible exact Does.refl _ _
    | decide
    | with_reducible apply Does.step (State.raiseSlow_does ..)
    | with_reducible apply Does.step (State.bump_does ..)

theorem State.grantOne_does (s : State) (g : ℕ) (v : ℕ) (target : ℕ) : s.Does [.od, .drive, .seqs] (State.grantOne s g v target) := by
  unfold State.grantOne
  repeat' first
    | with_reducible exact Does.refl _ _
    | with_reducible assumption
    | decide
    | (extract_lets +onlyGivenNames w_
       first
         | (refine Does.keep w_ ?_ ?_
            on_goal 1 => (unfold w_; clear w_)
            on_goal 2 => first | (clear_value w_; intro _; revert w_; intro _ _) | (intro _; revert w_; intro _ _))
         | (clear_value w_; revert w_; intro _) | (revert w_; intro _))
    | with_reducible apply Does.step (State.bump_does ..)
    | with_reducible apply Does.step (State.putNat_does ..)
    | with_reducible apply Does.step (State.setSeq_does ..)
    | with_reducible apply Does.step (State.setGroup_does ..)
    | split

theorem State.grant_does (a0 : ℕ) (a1 : State) (a2 : ℕ) : a1.Does [.od, .drive, .seqs] (State.grant a0 a1 a2) := by
  induction a0 generalizing a1 a2
  all_goals unfold State.grant
  · exact Does.refl _ _
  rename_i ih
  repeat' first
    | with_reducible exact Does.refl _ _
    | decide
    | with_reducible refine Does.step (ih ..) ?_ ?_
    | with_reducible apply Does.step (State.grantOne_does ..)
    | split

theorem State.releaseSlot_does (s : State) (v : ℕ) : s.Does [.od, .drive, .seqs] (State.releaseSlot s v) := by
  unfold State.releaseSlot
  repeat' first
    | with_reducible exact Does.refl _ _
    | decide
    | with_reducible apply Does.step (State.grant_does ..)
    | with_reducible apply Does.step (State.setGroup_does ..)

theorem State.charge_does (s : State) (v : ℕ) (energy : ℕ) : s.Does [.drive] (State.charge s v energy) := by
  unfold State.charge
  repeat' first
    | with_reducible exact Does.refl _ _
    | with_reducible assumption
    | decide
    | with_reducible refine Does.pair (by assumption) ?_
    | with_reducible refine Does.pairSnd (by assumption) ?_
    | with_reducible refine Does.foldl ?_ ?_
    | (extract_lets +onlyGivenNames w_
       first
         | (refine Does.keep w_ ?_ ?_
            on_goal 1 => (unfold w_; clear w_)
            on_goal 2 => first | (clear_value w_; intro _; revert w_; intro _ _) | (intro _; revert w_; intro _ _))
         | (refine Does.keep w_.1 ?_ ?_
            on_goal 1 => (unfold w_; clear w_)
            on_goal 2 => first | (clear_value w_; intro _; revert w_; intro _ _) | (intro _; revert w_; intro _ _))
         | (have h_ : Drive := w_; clear h_; subst w_)
         | (clear_value w_; revert w_; intro _) | (revert w_; intro _))
    | with_reducible apply Does.step (State.refill_does ..)
    | exact Or.inr (by decide)
    | exact Or.inl rfl
    | exact fun h => ⟨h.mem, h.od, h.cams, h.time, h.pipe, h.tracker, by first | exact ⟨h.drive.1, h.drive.2⟩ | simpa [Drive.shaped] using h.drive | (have hh := h.drive; clear h; simp_all [Drive.shaped]), h.seqs, h.loops, h.thermal, h.backdrop, h.strand, h.dict, h.side, h.pins, h.dma, h.recorder⟩
    | split
    | intro _
    | dsimp -zeta only
    | with_reducible apply Does.parts

theorem State.chargeBoost_does (s : State) (v : ℕ) : s.Does [.freeCtr, .drive] (State.chargeBoost s v) := by
  unfold State.chargeBoost
  repeat' first
    | with_reducible exact Does.refl _ _
    | with_reducible assumption
    | decide
    | with_reducible refine Does.pair (by assumption) ?_
    | with_reducible refine Does.pairSnd (by assumption) ?_
    | with_reducible refine Does.foldl ?_ ?_
    | (extract_lets +onlyGivenNames w_
       first
         | (refine Does.keep w_ ?_ ?_
            on_goal 1 => (unfold w_; clear w_)
            on_goal 2 => first | (clear_value w_; intro _; revert w_; intro _ _) | (intro _; revert w_; intro _ _))
         | (refine Does.keep w_.1 ?_ ?_
            on_goal 1 => (unfold w_; clear w_)
            on_goal 2 => first | (clear_value w_; intro _; revert w_; intro _ _) | (intro _; revert w_; intro _ _))
         | (clear_value w_; revert w_; intro _) | (revert w_; intro _))
    | with_reducible apply Does.step (State.charge_does ..)
    | with_reducible apply Does.step (State.draw_does ..)
    | split
    | intro _
    | dsimp -zeta only

theorem State.stopDrive_does (s : State) (v : ℕ) : s.Does [.freeCtr, .od, .drive, .seqs] (State.stopDrive s v) := by
  unfold State.stopDrive
  repeat' first
    | with_reducible exact Does.refl _ _
    | with_reducible assumption
    | decide
    | with_reducible refine Does.pair (by assumption) ?_
    | with_reducible refine Does.pairSnd (by assumption) ?_
    | with_reducible refine Does.foldl ?_ ?_
    | (extract_lets +onlyGivenNames w_
       first
         | (refine Does.keep w_ ?_ ?_
            on_goal 1 => (unfold w_; clear w_)
            on_goal 2 => first | (clear_value w_; intro _; revert w_; intro _ _) | (intro _; revert w_; intro _ _))
         | (refine Does.keep w_.1 ?_ ?_
            on_goal 1 => (unfold w_; clear w_)
            on_goal 2 => first | (clear_value w_; intro _; revert w_; intro _ _) | (intro _; revert w_; intro _ _))
         | (clear_value w_; revert w_; intro _) | (revert w_; intro _))
    | with_reducible apply Does.step (State.releaseSlot_does ..)
    | with_reducible apply Does.step (State.chargeBoost_does ..)
    | with_reducible apply Does.step (State.setSeq_does ..)
    | with_reducible apply Does.step (State.setValve_does ..)
    | split
    | intro _
    | dsimp -zeta only

theorem State.abortShot_does (s : State) (v : ℕ) (cause : ℕ) : s.Does [.freeCtr, .od, .drive, .seqs] (State.abortShot s v cause) := by
  unfold State.abortShot
  repeat' first
    | with_reducible exact Does.refl _ _
    | with_reducible assumption
    | decide
    | with_reducible refine Does.pair (by assumption) ?_
    | with_reducible refine Does.pairSnd (by assumption) ?_
    | with_reducible refine Does.foldl ?_ ?_
    | (extract_lets +onlyGivenNames w_
       first
         | (refine Does.keep w_ ?_ ?_
            on_goal 1 => (unfold w_; clear w_)
            on_goal 2 => first | (clear_value w_; intro _; revert w_; intro _ _) | (intro _; revert w_; intro _ _))
         | (refine Does.keep w_.1 ?_ ?_
            on_goal 1 => (unfold w_; clear w_)
            on_goal 2 => first | (clear_value w_; intro _; revert w_; intro _ _) | (intro _; revert w_; intro _ _))
         | (clear_value w_; revert w_; intro _) | (revert w_; intro _))
    | with_reducible apply Does.step (State.stopDrive_does ..)
    | with_reducible apply Does.step (State.bump_does ..)
    | with_reducible apply Does.step (State.putNat_does ..)
    | with_reducible apply Does.step (State.setValve_does ..)
    | split
    | intro _
    | dsimp -zeta only

theorem State.abortThese_does (s : State) (vs : List ℕ) (cause : ℕ) : s.Does [.freeCtr, .od, .drive, .seqs] (State.abortThese s vs cause) := by
  unfold State.abortThese
  repeat' first
    | with_reducible exact Does.refl _ _
    | with_reducible assumption
    | decide
    | with_reducible refine Does.pair (by assumption) ?_
    | with_reducible refine Does.pairSnd (by assumption) ?_
    | with_reducible refine Does.foldl ?_ ?_
    | (extract_lets +onlyGivenNames w_
       first
         | (refine Does.keep w_ ?_ ?_
            on_goal 1 => (unfold w_; clear w_)
            on_goal 2 => first | (clear_value w_; intro _; revert w_; intro _ _) | (intro _; revert w_; intro _ _))
         | (refine Does.keep w_.1 ?_ ?_
            on_goal 1 => (unfold w_; clear w_)
            on_goal 2 => first | (clear_value w_; intro _; revert w_; intro _ _) | (intro _; revert w_; intro _ _))
         | (clear_value w_; revert w_; intro _) | (revert w_; intro _))
    | with_reducible apply Does.step (State.abortShot_does ..)
    | with_reducible apply Does.step (State.withdraw_does ..)
    | split
    | intro _
    | dsimp -zeta only

theorem State.abortAll_does (s : State) (cause : ℕ) : s.Does [.freeCtr, .od, .drive, .seqs] (State.abortAll s cause) := by
  unfold State.abortAll
  repeat' first
    | with_reducible exact Does.refl _ _
    | with_reducible assumption
    | decide
    | with_reducible refine Does.pair (by assumption) ?_
    | with_reducible refine Does.pairSnd (by assumption) ?_
    | with_reducible refine Does.foldl ?_ ?_
    | (extract_lets +onlyGivenNames w_
       first
         | (refine Does.keep w_ ?_ ?_
            on_goal 1 => (unfold w_; clear w_)
            on_goal 2 => first | (clear_value w_; intro _; revert w_; intro _ _) | (intro _; revert w_; intro _ _))
         | (refine Does.keep w_.1 ?_ ?_
            on_goal 1 => (unfold w_; clear w_)
            on_goal 2 => first | (clear_value w_; intro _; revert w_; intro _ _) | (intro _; revert w_; intro _ _))
         | (clear_value w_; revert w_; intro _) | (revert w_; intro _))
    | with_reducible apply Does.step (State.abortThese_does ..)
    | split
    | intro _
    | dsimp -zeta only

theorem State.holdVbst_does (s : State) : s.Does [.drive] (State.holdVbst s) := by
  unfold State.holdVbst
  repeat' first
    | with_reducible exact Does.refl _ _
    | exact Or.inr (by decide)
    | exact Or.inl rfl
    | exact fun h => ⟨h.mem, h.od, h.cams, h.time, h.pipe, h.tracker, by first | exact ⟨h.drive.1, h.drive.2⟩ | simpa [Drive.shaped] using h.drive | (have hh := h.drive; clear h; simp_all [Drive.shaped]), h.seqs, h.loops, h.thermal, h.backdrop, h.strand, h.dict, h.side, h.pins, h.dma, h.recorder⟩
    | with_reducible apply Does.parts

theorem actVbst_does (v : ℕ) (s : State) : s.Does [.od, .drive] (actVbst v s).1 := by
  unfold actVbst
  repeat' first
    | with_reducible exact Does.refl _ _
    | with_reducible assumption
    | decide
    | (extract_lets +onlyGivenNames w_
       first
         | (refine Does.keep w_ ?_ ?_
            on_goal 1 => (unfold w_; clear w_)
            on_goal 2 => first | (clear_value w_; intro _; revert w_; intro _ _) | (intro _; revert w_; intro _ _))
         | (have h_ : Drive := w_; clear h_; subst w_))
    | with_reducible apply Does.step (State.putNat_does ..)
    | with_reducible apply Does.step (State.holdVbst_does ..)
    | exact Or.inr (by decide)
    | exact Or.inl rfl
    | exact fun h => ⟨h.mem, h.od, h.cams, h.time, h.pipe, h.tracker, by first | exact ⟨h.drive.1, h.drive.2⟩ | simpa [Drive.shaped] using h.drive | (have hh := h.drive; clear h; simp_all [Drive.shaped]), h.seqs, h.loops, h.thermal, h.backdrop, h.strand, h.dict, h.side, h.pins, h.dma, h.recorder⟩
    | split
    | with_reducible apply Does.parts

theorem State.setLedgerValve_does (s : State) (v : ℕ) (x : LedgerValve) : s.Does [.ledger] (State.setLedgerValve s v x) := by
  unfold State.setLedgerValve
  repeat' first
    | with_reducible exact Does.refl _ _
    | exact Or.inr (by decide)
    | exact Or.inl rfl
    | exact fun h => ⟨h.mem, h.od, h.cams, h.time, h.pipe, h.tracker, h.drive, h.seqs, h.loops, h.thermal, h.backdrop, h.strand, h.dict, h.side, h.pins, h.dma, h.recorder⟩
    | with_reducible apply Does.parts

theorem State.dropQueue_does (s : State) (v : ℕ) : s.Does [.drive, .seqs] (State.dropQueue s v) := by
  unfold State.dropQueue
  repeat' first
    | with_reducible exact Does.refl _ _
    | decide
    | with_reducible apply Does.step (State.setValve_does ..)
    | with_reducible apply Does.step (State.setStore_does ..)

theorem State.regrant_does (s : State) (v : ℕ) : s.Does [.od, .drive, .seqs] (State.regrant s v) := by
  unfold State.regrant
  repeat' first
    | with_reducible exact Does.refl _ _
    | with_reducible assumption
    | decide
    | with_reducible refine Does.pair (by assumption) ?_
    | with_reducible refine Does.pairSnd (by assumption) ?_
    | with_reducible refine Does.foldl ?_ ?_
    | (extract_lets +onlyGivenNames w_
       first
         | (refine Does.keep w_ ?_ ?_
            on_goal 1 => (unfold w_; clear w_)
            on_goal 2 => first | (clear_value w_; intro _; revert w_; intro _ _) | (intro _; revert w_; intro _ _))
         | (refine Does.keep w_.1 ?_ ?_
            on_goal 1 => (unfold w_; clear w_)
            on_goal 2 => first | (clear_value w_; intro _; revert w_; intro _ _) | (intro _; revert w_; intro _ _))
         | (clear_value w_; revert w_; intro _) | (revert w_; intro _))
    | with_reducible apply Does.step (State.grant_does ..)
    | split
    | intro _
    | dsimp -zeta only

theorem State.lowSideOff_does (s : State) (v : ℕ) (t : ℕ) : s.Does [.freeCtr, .od, .drive, .seqs] (State.lowSideOff s v t) := by
  unfold State.lowSideOff
  repeat' first
    | with_reducible exact Does.refl _ _
    | with_reducible assumption
    | decide
    | with_reducible refine Does.pair (by assumption) ?_
    | with_reducible refine Does.pairSnd (by assumption) ?_
    | with_reducible refine Does.foldl ?_ ?_
    | (extract_lets +onlyGivenNames w_
       first
         | (refine Does.keep w_ ?_ ?_
            on_goal 1 => (unfold w_; clear w_)
            on_goal 2 => first | (clear_value w_; intro _; revert w_; intro _ _) | (intro _; revert w_; intro _ _))
         | (refine Does.keep w_.1 ?_ ?_
            on_goal 1 => (unfold w_; clear w_)
            on_goal 2 => first | (clear_value w_; intro _; revert w_; intro _ _) | (intro _; revert w_; intro _ _))
         | (clear_value w_; revert w_; intro _) | (revert w_; intro _))
    | with_reducible apply Does.step (State.releaseSlot_does ..)
    | with_reducible apply Does.step (State.chargeBoost_does ..)
    | with_reducible apply Does.step (State.setSeq_does ..)
    | split
    | intro _
    | dsimp -zeta only

theorem State.ledgerShot_does (s : State) (v : ℕ) : s.Does [.ledger] (State.ledgerShot s v) := by
  unfold State.ledgerShot
  repeat' first
    | with_reducible exact Does.refl _ _
    | decide
    | with_reducible apply Does.step (State.setLedgerValve_does ..)

end Sys2Proof.Machine
end

