-- ==== Sys2Proof/Laws/Sequencer.lean ====
section
/-!
SUPPORT. What the operations of Machine/Sequencer.lean do.
-/
set_option Elab.async false
set_option linter.all false

namespace Sys2Proof.Machine

theorem State.setAvail_does (s : State) (v : ℕ) (a : ℕ) : s.Does [.drive] (State.setAvail s v a) := by
  unfold State.setAvail
  repeat' first
    | with_reducible exact Does.refl _ _
    | decide
    | with_reducible apply Does.step (State.setValve_does ..)

theorem State.loseGroup_does (s : State) (g : ℕ) : s.Does [.out, .od, .drive, .backdrop, .strand, .side, .recorder] (State.loseGroup s g) := by
  unfold State.loseGroup
  repeat' first
    | with_reducible exact Does.refl _ _
    | with_reducible assumption
    | decide
    | with_reducible refine Does.foldl ?_ ?_
    | with_reducible apply Does.step (State.raise_does ..)
    | with_reducible apply Does.step (State.setAvail_does ..)
    | with_reducible apply Does.step (State.setGroup_does ..)
    | intro _

theorem State.coilOpenTest_does (s : State) (v : ℕ) : s.Does [.out, .od, .drive, .backdrop, .strand, .side, .recorder] (State.coilOpenTest s v) := by
  unfold State.coilOpenTest
  repeat' first
    | with_reducible exact Does.refl _ _
    | with_reducible assumption
    | decide
    | with_reducible refine Does.pair (by assumption) ?_
    | with_reducible refine Does.pairSnd (by assumption) ?_
    | with_reducible refine Does.foldl ?_ ?_
    | (extract_lets +onlyGivenNames w_
       first
         | (refine Does.keep w_ ?_ ?_
            on_goal 1 => (unfold w_; clear w_)
            on_goal 2 => first | (clear_value w_; intro _; revert w_; intro _ _) | (intro _; revert w_; intro _ _))
         | (refine Does.keep w_.1 ?_ ?_
            on_goal 1 => (unfold w_; clear w_)
            on_goal 2 => first | (clear_value w_; intro _; revert w_; intro _ _) | (intro _; revert w_; intro _ _))
         | (clear_value w_; revert w_; intro _) | (revert w_; intro _))
    | with_reducible apply Does.step (State.raise_does ..)
    | with_reducible apply Does.step (State.setAvail_does ..)
    | with_reducible apply Does.step (State.setValve_does ..)
    | split
    | intro _
    | dsimp -zeta only

theorem State.lostSwitchTest_does (s : State) (v : ℕ) (reading : ℕ) : s.Does [.out, .od, .drive, .backdrop, .strand, .side, .recorder] (State.lostSwitchTest s v reading) := by
  unfold State.lostSwitchTest
  repeat' first
    | with_reducible exact Does.refl _ _
    | with_reducible assumption
    | decide
    | with_reducible refine Does.pair (by assumption) ?_
    | with_reducible refine Does.pairSnd (by assumption) ?_
    | with_reducible refine Does.foldl ?_ ?_
    | (extract_lets +onlyGivenNames w_
       first
         | (refine Does.keep w_ ?_ ?_
            on_goal 1 => (unfold w_; clear w_)
            on_goal 2 => first | (clear_value w_; intro _; revert w_; intro _ _) | (intro _; revert w_; intro _ _))
         | (refine Does.keep w_.1 ?_ ?_
            on_goal 1 => (unfold w_; clear w_)
            on_goal 2 => first | (clear_value w_; intro _; revert w_; intro _ _) | (intro _; revert w_; intro _ _))
         | (clear_value w_; revert w_; intro _) | (revert w_; intro _))
    | with_reducible apply Does.step (State.loseGroup_does ..)
    | with_reducible apply Does.step (State.setGroup_does ..)
    | split
    | intro _
    | dsimp -zeta only

theorem State.boostMissed_does (s : State) (v : ℕ) (reading : ℕ) : s.Does [.out, .od, .drive, .backdrop, .strand, .side, .recorder] (State.boostMissed s v reading) := by
  unfold State.boostMissed
  repeat' first
    | with_reducible exact Does.refl _ _
    | with_reducible assumption
    | decide
    | with_reducible refine Does.pair (by assumption) ?_
    | with_reducible refine Does.pairSnd (by assumption) ?_
    | with_reducible refine Does.foldl ?_ ?_
    | (extract_lets +onlyGivenNames w_
       first
         | (refine Does.keep w_ ?_ ?_
            on_goal 1 => (unfold w_; clear w_)
            on_goal 2 => first | (clear_value w_; intro _; revert w_; intro _ _) | (intro _; revert w_; intro _ _))
         | (refine Does.keep w_.1 ?_ ?_
            on_goal 1 => (unfold w_; clear w_)
            on_goal 2 => first | (clear_value w_; intro _; revert w_; intro _ _) | (intro _; revert w_; intro _ _))
         | (clear_value w_; revert w_; intro _) | (revert w_; intro _))
    | with_reducible apply Does.step (State.lostSwitchTest_does ..)
    | with_reducible apply Does.step (State.coilOpenTest_does ..)
    | split
    | intro _
    | dsimp -zeta only

theorem State.releaseHeld_does (s : State) (g : ℕ) : s.Does [.drive, .seqs] (State.releaseHeld s g) := by
  unfold State.releaseHeld
  repeat' first
    | with_reducible exact Does.refl _ _
    | with_reducible assumption
    | decide
    | with_reducible refine Does.foldl ?_ ?_
    | (extract_lets +onlyGivenNames w_
       first
         | (refine Does.keep w_ ?_ ?_
            on_goal 1 => (unfold w_; clear w_)
            on_goal 2 => first | (clear_value w_; intro _; revert w_; intro _ _) | (intro _; revert w_; intro _ _))
         | (clear_value w_; revert w_; intro _) | (revert w_; intro _))
    | with_reducible apply Does.step (State.setValve_does ..)
    | with_reducible apply Does.step (State.setStore_does ..)
    | split
    | intro _

theorem State.swapStores_does (s : State) (g : ℕ) : s.Does [.out, .od, .drive, .seqs, .backdrop, .strand, .side, .recorder] (State.swapStores s g) := by
  unfold State.swapStores
  repeat' first
    | with_reducible exact Does.refl _ _
    | with_reducible assumption
    | decide
    | with_reducible apply Does.step (State.raise_does ..)
    | with_reducible apply Does.step (State.bump_does ..)
    | with_reducible apply Does.step (State.keep_does ..)
    | with_reducible apply Does.step (State.releaseHeld_does ..)
    | with_reducible apply Does.step (State.setStore_does ..)

theorem State.nextWord_does (s : State) (v : ℕ) (t : ℕ) : s.Does [.seqs] (State.nextWord s v t) := by
  unfold State.nextWord
  repeat' first
    | with_reducible exact Does.refl _ _
    | decide
    | with_reducible apply Does.step (State.setSeq_does ..)

theorem State.refuseImage_does (s : State) (g : ℕ) (cause : ℕ) : s.Does [.out, .od, .backdrop, .strand, .side, .recorder] (State.refuseImage s g cause) := by
  unfold State.refuseImage
  repeat' first
    | with_reducible exact Does.refl _ _
    | decide
    | with_reducible apply Does.step (State.raise_does ..)
    | with_reducible apply Does.step (State.bump_does ..)
    | with_reducible apply Does.step (State.keep_does ..)

theorem State.atIssue_does (s : State) (v : ℕ) : s.Does [.clk, .time] (State.atIssue s v) := by
  unfold State.atIssue
  repeat' first
    | with_reducible exact Does.refl _ _
    | decide
    | with_reducible apply Does.step (State.atTick_does ..)

theorem State.requestSwap_does (s : State) (g : ℕ) : s.Does [.out, .od, .drive, .seqs, .backdrop, .strand, .side, .recorder] (State.requestSwap s g).1 := by
  unfold State.requestSwap
  repeat' first
    | with_reducible exact Does.refl _ _
    | with_reducible assumption
    | decide
    | (extract_lets +onlyGivenNames w_
       first
         | (refine Does.keep w_ ?_ ?_
            on_goal 1 => (unfold w_; clear w_)
            on_goal 2 => first | (clear_value w_; intro _; revert w_; intro _ _) | (intro _; revert w_; intro _ _))
         | (clear_value w_; revert w_; intro _) | (revert w_; intro _))
    | with_reducible apply Does.step (State.swapStores_does ..)
    | with_reducible apply Does.step (State.raise_does ..)
    | with_reducible apply Does.step (State.bump_does ..)
    | with_reducible apply Does.step (State.setStore_does ..)
    | split

theorem actShadowImage_does (g : ℕ) (img : List Sys2Proof.Byte) (s : State) : s.Does [.out, .od, .seqs, .backdrop, .strand, .side, .recorder] (actShadowImage g img s).1 := by
  unfold actShadowImage
  repeat' first
    | with_reducible exact Does.refl _ _
    | decide
    | (extract_lets +onlyGivenNames w_
       first
         | (clear_value w_; revert w_; intro _) | (revert w_; intro _))
    | with_reducible apply Does.step (State.refuseImage_does ..)
    | with_reducible apply Does.step (State.raise_does ..)
    | with_reducible apply Does.step (State.setStore_does ..)
    | split

theorem actProfileSelect_does (v : ℕ) (p : ℕ) (s : State) : s.Does [.od] (actProfileSelect v p s).1 := by
  unfold actProfileSelect
  repeat' first
    | with_reducible exact Does.refl _ _
    | decide
    | (extract_lets +onlyGivenNames w_
       first
         | (clear_value w_; revert w_; intro _) | (revert w_; intro _))
    | with_reducible apply Does.step (State.keep_does ..)
    | split

theorem actSwapAll_does (s : State) : s.Does [.out, .od, .drive, .seqs, .backdrop, .strand, .side, .recorder] (actSwapAll s).1 := by
  unfold actSwapAll
  repeat' first
    | with_reducible exact Does.refl _ _
    | decide
    | with_reducible refine Does.foldl ?_ ?_
    | with_reducible apply Does.step (State.requestSwap_does ..)
    | intro _

theorem State.busySeq_does (s : State) (v : ℕ) (b : SeqBusy) : s.Does [.seqs] (State.busySeq s v b) := by
  unfold State.busySeq
  repeat' first
    | with_reducible exact Does.refl _ _
    | decide
    | with_reducible apply Does.step (State.setSeq_does ..)

theorem actImageAll_does (img : List Sys2Proof.Byte) (s : State) : s.Does [.out, .od, .seqs, .backdrop, .strand, .side, .recorder] (actImageAll img s).1 := by
  unfold actImageAll
  repeat' first
    | with_reducible exact Does.refl _ _
    | with_reducible assumption
    | decide
    | with_reducible refine Does.foldl ?_ ?_
    | with_reducible apply Does.step (actShadowImage_does ..)
    | with_reducible apply Does.step (State.raise_does ..)
    | with_reducible apply Does.step (State.bump_does ..)
    | with_reducible apply Does.step (State.keep_does ..)
    | split
    | intro _

theorem State.oneStep_does (s : State) (v : ℕ) : s.Does [.seqs] (State.oneStep s v) := by
  unfold State.oneStep
  repeat' first
    | with_reducible exact Does.refl _ _
    | decide
    | with_reducible apply Does.step (State.nextWord_does ..)

end Sys2Proof.Machine
end

