-- ==== Sys2Proof/Laws/Drive.lean ====
section
/-!
SUPPORT. What the operations of Machine/Drive.lean do.
-/
set_option Elab.async false
set_option linter.all false

namespace Sys2Proof.Machine

theorem State.fastDecay_does (s : State) : s.Does [.seqs] (State.fastDecay s) := by
  unfold State.fastDecay
  repeat' first
    | with_reducible exact Does.refl _ _
    | with_reducible assumption
    | decide
    | with_reducible refine Does.pair (by assumption) ?_
    | with_reducible refine Does.pairSnd (by assumption) ?_
    | with_reducible refine Does.foldl ?_ ?_
    | (extract_lets +onlyGivenNames w_
       first
         | (refine Does.keep w_ ?_ ?_
            on_goal 1 => (unfold w_; clear w_)
            on_goal 2 => first | (clear_value w_; intro _; revert w_; intro _ _) | (intro _; revert w_; intro _ _))
         | (refine Does.keep w_.1 ?_ ?_
            on_goal 1 => (unfold w_; clear w_)
            on_goal 2 => first | (clear_value w_; intro _; revert w_; intro _ _) | (intro _; revert w_; intro _ _))
         | (have h_ : Sequencers := w_; clear h_; subst w_)
         | (clear_value w_; revert w_; intro _) | (revert w_; intro _))
    | exact Or.inr (by decide)
    | exact Or.inl rfl
    | exact fun h => ⟨h.mem, h.od, h.cams, h.time, h.pipe, h.tracker, h.drive, by first | exact ⟨h.seqs.1, h.seqs.2⟩ | simpa [Sequencers.shaped] using h.seqs | (have hh := h.seqs; clear h; simp_all [Sequencers.shaped]), h.loops, h.thermal, h.backdrop, h.strand, h.dict, h.side, h.pins, h.dma, h.recorder⟩
    | split
    | intro _
    | dsimp -zeta only
    | with_reducible apply Does.parts

theorem State.cancelled_does (s : State) (v : ℕ) (x : Shot) : s.Does [.out, .od, .backdrop, .strand, .side, .recorder] (State.cancelled s v x) := by
  unfold State.cancelled
  repeat' first
    | with_reducible exact Does.refl _ _
    | with_reducible assumption
    | decide
    | with_reducible refine Does.pair (by assumption) ?_
    | with_reducible refine Does.pairSnd (by assumption) ?_
    | with_reducible refine Does.foldl ?_ ?_
    | (extract_lets +onlyGivenNames w_
       first
         | (refine Does.keep w_ ?_ ?_
            on_goal 1 => (unfold w_; clear w_)
            on_goal 2 => first | (clear_value w_; intro _; revert w_; intro _ _) | (intro _; revert w_; intro _ _))
         | (refine Does.keep w_.1 ?_ ?_
            on_goal 1 => (unfold w_; clear w_)
            on_goal 2 => first | (clear_value w_; intro _; revert w_; intro _ _) | (intro _; revert w_; intro _ _))
         | (clear_value w_; revert w_; intro _) | (revert w_; intro _))
    | with_reducible apply Does.step (State.saturation_does ..)
    | with_reducible apply Does.step (State.raiseSlow_does ..)
    | with_reducible apply Does.step (State.bump_does ..)
    | split
    | intro _
    | dsimp -zeta only

theorem State.setEstimate_does (s : State) (v : ℕ) (deltaBar : ℚ) : s.Does [.drive] (State.setEstimate s v deltaBar) := by
  unfold State.setEstimate
  repeat' first
    | with_reducible exact Does.refl _ _
    | decide
    | with_reducible apply Does.step (State.setValve_does ..)

theorem State.outlierKink_does (s : State) (v : ℕ) (delta : ℚ) : s.Does [.out, .od, .drive, .backdrop, .strand, .side, .recorder] (State.outlierKink s v delta) := by
  unfold State.outlierKink
  repeat' first
    | with_reducible exact Does.refl _ _
    | with_reducible assumption
    | decide
    | (extract_lets +onlyGivenNames w_
       first
         | (refine Does.keep w_ ?_ ?_
            on_goal 1 => (unfold w_; clear w_)
            on_goal 2 => first | (clear_value w_; intro _; revert w_; intro _ _) | (intro _; revert w_; intro _ _))
         | (clear_value w_; revert w_; intro _) | (revert w_; intro _))
    | with_reducible apply Does.step (State.raise_does ..)
    | with_reducible apply Does.step (State.bump_does ..)
    | with_reducible apply Does.step (State.setEstimate_does ..)
    | with_reducible apply Does.step (State.setValve_does ..)
    | split

theorem State.truncateWindow_does (s : State) (v : ℕ) : s.Does [.od, .seqs] (State.truncateWindow s v) := by
  unfold State.truncateWindow
  repeat' first
    | with_reducible exact Does.refl _ _
    | decide
    | with_reducible apply Does.step (State.bump_does ..)
    | with_reducible apply Does.step (State.setSeq_does ..)
    | split

theorem State.retire_does (s : State) (v : ℕ) (cause : ℕ) : s.Does [.out, .od, .drive, .ledger, .backdrop, .strand, .side, .recorder] (State.retire s v cause) := by
  unfold State.retire
  repeat' first
    | with_reducible exact Does.refl _ _
    | decide
    | (extract_lets +onlyGivenNames w_
       first
         | (clear_value w_; revert w_; intro _) | (revert w_; intro _))
    | with_reducible apply Does.step (State.raise_does ..)
    | with_reducible apply Does.step (State.setAvail_does ..)
    | with_reducible apply Does.step (State.setLedgerValve_does ..)
    | split

theorem State.ledgerQualify_does (s : State) (v : ℕ) (lost : Bool) : s.Does [.out, .od, .drive, .ledger, .backdrop, .strand, .side, .recorder] (State.ledgerQualify s v lost) := by
  unfold State.ledgerQualify
  repeat' first
    | with_reducible exact Does.refl _ _
    | with_reducible assumption
    | decide
    | (extract_lets +onlyGivenNames w_
       first
         | (refine Does.keep w_ ?_ ?_
            on_goal 1 => (unfold w_; clear w_)
            on_goal 2 => first | (clear_value w_; intro _; revert w_; intro _ _) | (intro _; revert w_; intro _ _))
         | (clear_value w_; revert w_; intro _) | (revert w_; intro _))
    | with_reducible apply Does.step (State.retire_does ..)
    | with_reducible apply Does.step (State.setLedgerValve_does ..)
    | split

theorem State.seedDrive_does (s : State) (badEntries : List ℕ) : s.Does [.out, .od, .drive, .seqs, .backdrop, .strand, .side, .recorder] (State.seedDrive s badEntries) := by
  unfold State.seedDrive
  repeat' first
    | with_reducible exact Does.refl _ _
    | with_reducible assumption
    | decide
    | with_reducible refine Does.foldl ?_ ?_
    | with_reducible apply Does.step (State.raise_does ..)
    | with_reducible apply Does.step (State.setEstimate_does ..)
    | with_reducible apply Does.step (State.putNat_does ..)
    | exact Or.inr (by decide)
    | exact Or.inl rfl
    | exact fun h => ⟨h.mem, h.od, h.cams, h.time, h.pipe, h.tracker, by first | exact ⟨h.drive.1, h.drive.2⟩ | exact ⟨by simpa using h.drive.1, List.length_replicate⟩, by first | exact ⟨h.seqs.1, h.seqs.2⟩ | exact ⟨List.length_replicate, h.seqs.2⟩, h.loops, h.thermal, h.backdrop, h.strand, h.dict, h.side, h.pins, h.dma, h.recorder⟩
    | split
    | intro _
    | with_reducible apply Does.parts

theorem State.drivePowerFail_does (s : State) : s.Does [.freeCtr, .od, .drive, .seqs] (State.drivePowerFail s) := by
  unfold State.drivePowerFail
  repeat' first
    | with_reducible exact Does.refl _ _
    | with_reducible assumption
    | decide
    | with_reducible refine Does.pair (by assumption) ?_
    | with_reducible refine Does.pairSnd (by assumption) ?_
    | with_reducible refine Does.foldl ?_ ?_
    | (extract_lets +onlyGivenNames w_
       first
         | (refine Does.keep w_ ?_ ?_
            on_goal 1 => (unfold w_; clear w_)
            on_goal 2 => first | (clear_value w_; intro _; revert w_; intro _ _) | (intro _; revert w_; intro _ _))
         | (refine Does.keep w_.1 ?_ ?_
            on_goal 1 => (unfold w_; clear w_)
            on_goal 2 => first | (clear_value w_; intro _; revert w_; intro _ _) | (intro _; revert w_; intro _ _))
         | (have h_ : Drive := w_; clear h_; subst w_)
         | (have h_ : Sequencers := w_; clear h_; subst w_)
         | (clear_value w_; revert w_; intro _) | (revert w_; intro _))
    | with_reducible apply Does.step (State.abortAll_does ..)
    | with_reducible apply Does.step (State.dropQueues_does ..)
    | exact Or.inr (by decide)
    | exact Or.inl rfl
    | exact fun h => ⟨h.mem, h.od, h.cams, h.time, h.pipe, h.tracker, by first | exact ⟨h.drive.1, h.drive.2⟩ | simpa [Drive.shaped] using h.drive | (have hh := h.drive; clear h; simp_all [Drive.shaped]), by first | exact ⟨h.seqs.1, h.seqs.2⟩ | simpa [Sequencers.shaped] using h.seqs | (have hh := h.seqs; clear h; simp_all [Sequencers.shaped]), h.loops, h.thermal, h.backdrop, h.strand, h.dict, h.side, h.pins, h.dma, h.recorder⟩
    | split
    | intro _
    | dsimp -zeta only
    | with_reducible apply Does.parts

theorem State.startShot_does (s : State) (v : ℕ) (x : Shot) : s.Does [.freeCtr, .out, .od, .drive, .seqs, .ledger] (State.startShot s v x) := by
  unfold State.startShot
  repeat' first
    | with_reducible exact Does.refl _ _
    | with_reducible assumption
    | decide
    | with_reducible refine Does.pair (by assumption) ?_
    | with_reducible refine Does.pairSnd (by assumption) ?_
    | with_reducible refine Does.foldl ?_ ?_
    | (extract_lets +onlyGivenNames w_
       first
         | (refine Does.keep w_ ?_ ?_
            on_goal 1 => (unfold w_; clear w_)
            on_goal 2 => first | (clear_value w_; intro _; revert w_; intro _ _) | (intro _; revert w_; intro _ _))
         | (refine Does.keep w_.1 ?_ ?_
            on_goal 1 => (unfold w_; clear w_)
            on_goal 2 => first | (clear_value w_; intro _; revert w_; intro _ _) | (intro _; revert w_; intro _ _))
         | (have h_ : Drive := w_; clear h_; subst w_)
         | (clear_value w_; revert w_; intro _) | (revert w_; intro _))
    | with_reducible apply Does.step (State.releaseSlot_does ..)
    | with_reducible apply Does.step (State.truncateWindow_does ..)
    | with_reducible apply Does.step (State.bump_does ..)
    | with_reducible apply Does.step (State.chargeBoost_does ..)
    | with_reducible apply Does.step (State.ledgerShot_does ..)
    | with_reducible apply Does.step (State.setSeq_does ..)
    | with_reducible apply Does.step (State.setValve_does ..)
    | with_reducible apply Does.step (State.emit_does ..)
    | exact Or.inr (by decide)
    | exact Or.inl rfl
    | exact fun h => ⟨h.mem, h.od, h.cams, h.time, h.pipe, h.tracker, by first | exact ⟨h.drive.1, h.drive.2⟩ | simpa [Drive.shaped] using h.drive | (have hh := h.drive; clear h; simp_all [Drive.shaped]), h.seqs, h.loops, h.thermal, h.backdrop, h.strand, h.dict, h.side, h.pins, h.dma, h.recorder⟩
    | split
    | intro _
    | dsimp -zeta only
    | with_reducible apply Does.parts

theorem actValveState_does (v : ℕ) (value : ℕ) (s : State) : s.Does [.drive] (actValveState v value s).1 := by
  unfold actValveState
  repeat' first
    | with_reducible exact Does.refl _ _
    | decide
    | (extract_lets +onlyGivenNames w_
       first
         | (clear_value w_; revert w_; intro _) | (revert w_; intro _))
    | with_reducible apply Does.step (State.setAvail_does ..)
    | with_reducible apply Does.step (State.setValve_does ..)
    | split

theorem actTestShot_does (s : State) : s.Does [.freeCtr, .out, .od, .drive, .backdrop, .strand, .side, .recorder] (actTestShot s).1 := by
  unfold actTestShot
  repeat' first
    | with_reducible exact Does.refl _ _
    | decide
    | with_reducible apply Does.step (State.request_does ..)
    | split

theorem State.ledgerKink_does (s : State) (v : ℕ) (delta : ℚ) (amp : ℕ) : s.Does [.ledger] (State.ledgerKink s v delta amp) := by
  unfold State.ledgerKink
  repeat' first
    | with_reducible exact Does.refl _ _
    | decide
    | with_reducible apply Does.step (State.setLedgerValve_does ..)

theorem actGroupRestore_does (g : ℕ) (s : State) : s.Does [.out, .od, .drive, .backdrop, .strand, .side, .recorder] (actGroupRestore g s).1 := by
  unfold actGroupRestore
  repeat' first
    | with_reducible exact Does.refl _ _
    | with_reducible assumption
    | decide
    | with_reducible refine Does.foldl ?_ ?_
    | with_reducible apply Does.step (State.raise_does ..)
    | with_reducible apply Does.step (State.setAvail_does ..)
    | with_reducible apply Does.step (State.setGroup_does ..)
    | split
    | intro _

theorem State.acceptKink_does (s : State) (v : ℕ) (delta : ℚ) (amp : ℕ) : s.Does [.out, .od, .drive, .ledger, .backdrop, .strand, .side, .recorder] (State.acceptKink s v delta amp) := by
  unfold State.acceptKink
  repeat' first
    | with_reducible exact Does.refl _ _
    | with_reducible assumption
    | decide
    | (extract_lets +onlyGivenNames w_
       first
         | (refine Does.keep w_ ?_ ?_
            on_goal 1 => (unfold w_; clear w_)
            on_goal 2 => first | (clear_value w_; intro _; revert w_; intro _ _) | (intro _; revert w_; intro _ _))
         | (clear_value w_; revert w_; intro _) | (revert w_; intro _))
    | with_reducible apply Does.step (State.raise_does ..)
    | with_reducible apply Does.step (State.bump_does ..)
    | with_reducible apply Does.step (State.setEstimate_does ..)
    | with_reducible apply Does.step (State.ledgerKink_does ..)
    | with_reducible apply Does.step (State.putNat_does ..)
    | with_reducible apply Does.step (State.setValve_does ..)
    | split

theorem State.cancelQueued_does (s : State) (v : ℕ) (x : Shot) : s.Does [.clk, .out, .od, .time, .drive, .seqs, .backdrop, .strand, .side, .recorder] (State.cancelQueued s v x) := by
  unfold State.cancelQueued
  repeat' first
    | with_reducible exact Does.refl _ _
    | with_reducible assumption
    | decide
    | with_reducible refine Does.pair (by assumption) ?_
    | with_reducible refine Does.pairSnd (by assumption) ?_
    | with_reducible refine Does.foldl ?_ ?_
    | (extract_lets +onlyGivenNames w_
       first
         | (refine Does.keep w_ ?_ ?_
            on_goal 1 => (unfold w_; clear w_)
            on_goal 2 => first | (clear_value w_; intro _; revert w_; intro _ _) | (intro _; revert w_; intro _ _))
         | (refine Does.keep w_.1 ?_ ?_
            on_goal 1 => (unfold w_; clear w_)
            on_goal 2 => first | (clear_value w_; intro _; revert w_; intro _ _) | (intro _; revert w_; intro _ _))
         | (clear_value w_; revert w_; intro _) | (revert w_; intro _))
    | with_reducible apply Does.step (State.cancelled_does ..)
    | with_reducible apply Does.step (State.atTick_does ..)
    | with_reducible apply Does.step (State.setValve_does ..)
    | with_reducible apply Does.step (State.setStore_does ..)
    | split
    | intro _
    | dsimp -zeta only

theorem State.coilLimits_does (s : State) (v : ℕ) : s.Does [.out, .od, .drive, .seqs, .backdrop, .strand, .side, .recorder] (State.coilLimits s v) := by
  unfold State.coilLimits
  repeat' first
    | with_reducible exact Does.refl _ _
    | with_reducible assumption
    | decide
    | with_reducible refine Does.foldl ?_ ?_
    | (extract_lets +onlyGivenNames w_
       first
         | (refine Does.keep w_ ?_ ?_
            on_goal 1 => (unfold w_; clear w_)
            on_goal 2 => first | (clear_value w_; intro _; revert w_; intro _ _) | (intro _; revert w_; intro _ _))
         | (clear_value w_; revert w_; intro _) | (revert w_; intro _))
    | with_reducible apply Does.step (State.raiseSlow_does ..)
    | with_reducible apply Does.step (State.raise_does ..)
    | with_reducible apply Does.step (State.skipCount_does ..)
    | with_reducible apply Does.step (State.dropQueue_does ..)
    | with_reducible apply Does.step (State.setValve_does ..)
    | split
    | intro _

end Sys2Proof.Machine
end

