-- ==== Sys2Proof/Laws/PipeOps.lean ====
section
/-!
SUPPORT. What the operations of Machine/PipeOps.lean do.
-/
set_option Elab.async false
set_option linter.all false

namespace Sys2Proof.Machine

theorem State.releaseFrames_does (s : State) : s.Does [.pipe] (State.releaseFrames s) := by
  unfold State.releaseFrames
  repeat' first
    | with_reducible exact Does.refl _ _
    | exact Or.inr (by decide)
    | exact Or.inl rfl
    | exact fun h => ⟨h.mem, h.od, h.cams, h.time, by first | exact ⟨h.pipe.1, h.pipe.2⟩ | simpa [Pipeline.shaped] using h.pipe | (have hh := h.pipe; clear h; simp_all [Pipeline.shaped]), h.tracker, h.drive, h.seqs, h.loops, h.thermal, h.backdrop, h.strand, h.dict, h.side, h.pins, h.dma, h.recorder⟩
    | with_reducible apply Does.parts

theorem State.claimFor_does (s : State) (x : Sys2Proof.Sighting) (handle : ℕ) : s.Does [.pipe] (State.claimFor s x handle) := by
  unfold State.claimFor
  repeat' first
    | with_reducible exact Does.refl _ _
    | exact Or.inr (by decide)
    | exact Or.inl rfl
    | exact fun h => ⟨h.mem, h.od, h.cams, h.time, by first | exact ⟨h.pipe.1, h.pipe.2⟩ | simpa [Pipeline.shaped] using h.pipe | (have hh := h.pipe; clear h; simp_all [Pipeline.shaped]), h.tracker, h.drive, h.seqs, h.loops, h.thermal, h.backdrop, h.strand, h.dict, h.side, h.pins, h.dma, h.recorder⟩
    | with_reducible apply Does.parts

theorem State.settleHandle_does (s : State) (handle : ℕ) : s.Does [.pipe] (State.settleHandle s handle) := by
  unfold State.settleHandle
  repeat' first
    | with_reducible exact Does.refl _ _
    | decide
    | with_reducible apply Does.step (State.releaseFrames_does ..)
    | exact Or.inr (by decide)
    | exact Or.inl rfl
    | exact fun h => ⟨h.mem, h.od, h.cams, h.time, by first | exact ⟨h.pipe.1, h.pipe.2⟩ | simpa [Pipeline.shaped] using h.pipe | (have hh := h.pipe; clear h; simp_all [Pipeline.shaped]), h.tracker, h.drive, h.seqs, h.loops, h.thermal, h.backdrop, h.strand, h.dict, h.side, h.pins, h.dma, h.recorder⟩
    | with_reducible apply Does.parts

theorem State.settleSighting_does (s : State) (x : Sys2Proof.Sighting) : s.Does [.pipe] (State.settleSighting s x) := by
  unfold State.settleSighting
  repeat' first
    | with_reducible exact Does.refl _ _
    | decide
    | with_reducible apply Does.step (State.releaseFrames_does ..)
    | exact Or.inr (by decide)
    | exact Or.inl rfl
    | exact fun h => ⟨h.mem, h.od, h.cams, h.time, by first | exact ⟨h.pipe.1, h.pipe.2⟩ | simpa [Pipeline.shaped] using h.pipe | (have hh := h.pipe; clear h; simp_all [Pipeline.shaped]), h.tracker, h.drive, h.seqs, h.loops, h.thermal, h.backdrop, h.strand, h.dict, h.side, h.pins, h.dma, h.recorder⟩
    | with_reducible apply Does.parts

theorem State.beginJob_does (s : State) (j : ObjJob) (chips : List ObjJob) (objects : List ObjJob) : s.Does [.pipe] (State.beginJob s j chips objects) := by
  unfold State.beginJob
  repeat' first
    | with_reducible exact Does.refl _ _
    | with_reducible assumption
    | decide
    | with_reducible refine Does.pair (by assumption) ?_
    | with_reducible refine Does.pairSnd (by assumption) ?_
    | with_reducible refine Does.foldl ?_ ?_
    | (extract_lets +onlyGivenNames w_
       first
         | (refine Does.keep w_ ?_ ?_
            on_goal 1 => (unfold w_; clear w_)
            on_goal 2 => first | (clear_value w_; intro _; revert w_; intro _ _) | (intro _; revert w_; intro _ _))
         | (refine Does.keep w_.1 ?_ ?_
            on_goal 1 => (unfold w_; clear w_)
            on_goal 2 => first | (clear_value w_; intro _; revert w_; intro _ _) | (intro _; revert w_; intro _ _))
         | (have h_ : Pipeline := w_; clear h_; subst w_)
         | (clear_value w_; revert w_; intro _) | (revert w_; intro _))
    | exact Or.inr (by decide)
    | exact Or.inl rfl
    | exact fun h => ⟨h.mem, h.od, h.cams, h.time, by first | exact ⟨h.pipe.1, h.pipe.2⟩ | simpa [Pipeline.shaped] using h.pipe | (have hh := h.pipe; clear h; simp_all [Pipeline.shaped]), h.tracker, h.drive, h.seqs, h.loops, h.thermal, h.backdrop, h.strand, h.dict, h.side, h.pins, h.dma, h.recorder⟩
    | split
    | intro _
    | dsimp -zeta only
    | with_reducible apply Does.parts

theorem State.takeJob_does (s : State) : s.Does [.pipe] (State.takeJob s) := by
  unfold State.takeJob
  repeat' first
    | with_reducible exact Does.refl _ _
    | with_reducible assumption
    | decide
    | with_reducible refine Does.pair (by assumption) ?_
    | with_reducible refine Does.pairSnd (by assumption) ?_
    | with_reducible refine Does.foldl ?_ ?_
    | (extract_lets +onlyGivenNames w_
       first
         | (refine Does.keep w_ ?_ ?_
            on_goal 1 => (unfold w_; clear w_)
            on_goal 2 => first | (clear_value w_; intro _; revert w_; intro _ _) | (intro _; revert w_; intro _ _))
         | (refine Does.keep w_.1 ?_ ?_
            on_goal 1 => (unfold w_; clear w_)
            on_goal 2 => first | (clear_value w_; intro _; revert w_; intro _ _) | (intro _; revert w_; intro _ _))
         | (clear_value w_; revert w_; intro _) | (revert w_; intro _))
    | with_reducible apply Does.step (State.beginJob_does ..)
    | split
    | intro _
    | dsimp -zeta only

theorem State.queueObject_does (s : State) (j : ObjJob) (x : Sys2Proof.Sighting) : s.Does [.out, .od, .pipe, .backdrop, .strand, .side, .recorder] (State.queueObject s j x) := by
  unfold State.queueObject
  repeat' first
    | with_reducible exact Does.refl _ _
    | with_reducible assumption
    | decide
    | with_reducible refine Does.pair (by assumption) ?_
    | with_reducible refine Does.pairSnd (by assumption) ?_
    | with_reducible refine Does.foldl ?_ ?_
    | (extract_lets +onlyGivenNames w_
       first
         | (refine Does.keep w_ ?_ ?_
            on_goal 1 => (unfold w_; clear w_)
            on_goal 2 => first | (clear_value w_; intro _; revert w_; intro _ _) | (intro _; revert w_; intro _ _))
         | (refine Does.keep w_.1 ?_ ?_
            on_goal 1 => (unfold w_; clear w_)
            on_goal 2 => first | (clear_value w_; intro _; revert w_; intro _ _) | (intro _; revert w_; intro _ _))
         | (have h_ : Pipeline := w_; clear h_; subst w_)
         | (clear_value w_; revert w_; intro _) | (revert w_; intro _))
    | with_reducible apply Does.step (State.raiseSlow_does ..)
    | with_reducible apply Does.step (State.bump_does ..)
    | with_reducible apply Does.step (State.takeJob_does ..)
    | with_reducible apply Does.step (State.settleSighting_does ..)
    | with_reducible apply Does.step (State.claimFor_does ..)
    | exact Or.inr (by decide)
    | exact Or.inl rfl
    | exact fun h => ⟨h.mem, h.od, h.cams, h.time, by first | exact ⟨h.pipe.1, h.pipe.2⟩ | simpa [Pipeline.shaped] using h.pipe | (have hh := h.pipe; clear h; simp_all [Pipeline.shaped]), h.tracker, h.drive, h.seqs, h.loops, h.thermal, h.backdrop, h.strand, h.dict, h.side, h.pins, h.dma, h.recorder⟩
    | split
    | intro _
    | dsimp -zeta only
    | with_reducible apply Does.parts

theorem State.queueChip_does (s : State) (j : ObjJob) : s.Does [.pipe] (State.queueChip s j).1 := by
  unfold State.queueChip
  repeat' first
    | with_reducible exact Does.refl _ _
    | with_reducible assumption
    | decide
    | with_reducible refine Does.pair (by assumption) ?_
    | with_reducible refine Does.pairSnd (by assumption) ?_
    | with_reducible refine Does.foldl ?_ ?_
    | (extract_lets +onlyGivenNames w_
       first
         | (refine Does.keep w_ ?_ ?_
            on_goal 1 => (unfold w_; clear w_)
            on_goal 2 => first | (clear_value w_; intro _; revert w_; intro _ _) | (intro _; revert w_; intro _ _))
         | (refine Does.keep w_.1 ?_ ?_
            on_goal 1 => (unfold w_; clear w_)
            on_goal 2 => first | (clear_value w_; intro _; revert w_; intro _ _) | (intro _; revert w_; intro _ _))
         | (have h_ : Pipeline := w_; clear h_; subst w_)
         | (clear_value w_; revert w_; intro _) | (revert w_; intro _))
    | split
    | with_reducible apply Does.step (State.takeJob_does ..)
    | exact Or.inr (by decide)
    | exact Or.inl rfl
    | exact fun h => ⟨h.mem, h.od, h.cams, h.time, by first | exact ⟨h.pipe.1, h.pipe.2⟩ | simpa [Pipeline.shaped] using h.pipe | (have hh := h.pipe; clear h; simp_all [Pipeline.shaped]), h.tracker, h.drive, h.seqs, h.loops, h.thermal, h.backdrop, h.strand, h.dict, h.side, h.pins, h.dma, h.recorder⟩
    | split
    | intro _
    | dsimp -zeta only
    | with_reducible apply Does.parts

theorem State.setEngine_does (s : State) (p : ℕ) (e : EnginePort) : s.Does [.pipe] (State.setEngine s p e) := by
  unfold State.setEngine
  repeat' first
    | with_reducible exact Does.refl _ _
    | exact Or.inr (by decide)
    | exact Or.inl rfl
    | exact fun h => ⟨h.mem, h.od, h.cams, h.time, by first | exact ⟨h.pipe.1, h.pipe.2⟩ | simpa [Pipeline.shaped] using h.pipe | (have hh := h.pipe; clear h; simp_all [Pipeline.shaped]), h.tracker, h.drive, h.seqs, h.loops, h.thermal, h.backdrop, h.strand, h.dict, h.side, h.pins, h.dma, h.recorder⟩
    | with_reducible apply Does.parts

end Sys2Proof.Machine
end

