-- ==== Sys2Proof/Laws/Tracker.lean ====
section
/-!
SUPPORT. What the operations of Machine/Tracker.lean do.
-/
set_option Elab.async false
set_option linter.all false

namespace Sys2Proof.Machine

theorem State.seedPriors_does (s : State) : s.Does [.tracker] (State.seedPriors s) := by
  unfold State.seedPriors
  repeat' first
    | with_reducible exact Does.refl _ _
    | exact Or.inr (by decide)
    | exact Or.inl rfl
    | exact fun h => ⟨h.mem, h.od, h.cams, h.time, h.pipe, by first | exact h.tracker | simpa [Tracker.shaped] using h.tracker | (have hh := h.tracker; clear h; simp_all [Tracker.shaped]), h.drive, h.seqs, h.loops, h.thermal, h.backdrop, h.strand, h.dict, h.side, h.pins, h.dma, h.recorder⟩
    | with_reducible apply Does.parts

theorem actDropGeometry_does (sub : ℕ) (v : ℕ) (s : State) : s.Does [.out, .od, .tracker, .drive, .backdrop, .strand, .side, .recorder] (actDropGeometry sub v s).1 := by
  unfold actDropGeometry
  repeat' first
    | with_reducible exact Does.refl _ _
    | decide
    | with_reducible apply Does.step (State.raise_does ..)
    | with_reducible apply Does.step (State.keep_does ..)
    | with_reducible apply Does.step (State.releads_does ..)
    | with_reducible apply Does.step (State.seedPriors_does ..)

theorem State.sendChip_does (s : State) (target : ℕ) (r : Rec) (m : Sys2Proof.ObjImage) : s.Does [.out, .od, .strand, .recorder] (State.sendChip s target r m) := by
  unfold State.sendChip
  repeat' first
    | with_reducible exact Does.refl _ _
    | with_reducible assumption
    | decide
    | with_reducible refine Does.pair (by assumption) ?_
    | with_reducible refine Does.pairSnd (by assumption) ?_
    | with_reducible refine Does.foldl ?_ ?_
    | (extract_lets +onlyGivenNames w_
       first
         | (refine Does.keep w_ ?_ ?_
            on_goal 1 => (unfold w_; clear w_)
            on_goal 2 => first | (clear_value w_; intro _; revert w_; intro _ _) | (intro _; revert w_; intro _ _))
         | (refine Does.keep w_.1 ?_ ?_
            on_goal 1 => (unfold w_; clear w_)
            on_goal 2 => first | (clear_value w_; intro _; revert w_; intro _ _) | (intro _; revert w_; intro _ _))
         | (clear_value w_; revert w_; intro _) | (revert w_; intro _))
    | with_reducible apply Does.step (State.post_does ..)
    | split
    | intro _
    | dsimp -zeta only

theorem State.openRec_does {s t : State} {r r' : Rec} (h : s.openRec r = some (t, r')) : s.Does [.tracker] t := by
  unfold State.openRec at h
  dsimp only at h
  split at h
  · simp at h
  · simp only [Option.some.injEq, Prod.mk.injEq] at h
    rw [← h.1]
    with_reducible apply Does.parts
    any_goals first
      | exact Or.inr (by decide)
      | exact Or.inl rfl
    · exact fun h => ⟨h.mem, h.od, h.cams, h.time, h.pipe, h.tracker, h.drive, h.seqs, h.loops, h.thermal, h.backdrop, h.strand, h.dict, h.side, h.pins, h.dma, h.recorder⟩
    · exact Does.refl _ _

theorem State.setRec_does (s : State) (r : Rec) : s.Does [.tracker] (State.setRec s r) := by
  unfold State.setRec
  repeat' first
    | with_reducible exact Does.refl _ _
    | exact Or.inr (by decide)
    | exact Or.inl rfl
    | exact fun h => ⟨h.mem, h.od, h.cams, h.time, h.pipe, by first | exact h.tracker | simpa [Tracker.shaped] using h.tracker | (have hh := h.tracker; clear h; simp_all [Tracker.shaped]), h.drive, h.seqs, h.loops, h.thermal, h.backdrop, h.strand, h.dict, h.side, h.pins, h.dma, h.recorder⟩
    | with_reducible apply Does.parts

theorem State.dropRec_does (s : State) (handle : ℕ) : s.Does [.tracker] (State.dropRec s handle) := by
  unfold State.dropRec
  repeat' first
    | with_reducible exact Does.refl _ _
    | exact Or.inr (by decide)
    | exact Or.inl rfl
    | exact fun h => ⟨h.mem, h.od, h.cams, h.time, h.pipe, by first | exact h.tracker | simpa [Tracker.shaped] using h.tracker | (have hh := h.tracker; clear h; simp_all [Tracker.shaped]), h.drive, h.seqs, h.loops, h.thermal, h.backdrop, h.strand, h.dict, h.side, h.pins, h.dma, h.recorder⟩
    | with_reducible apply Does.parts

theorem State.ownChip_does (s : State) (r : Rec) (m : Sys2Proof.ObjImage) : s.Does [.od, .pipe, .tracker] (State.ownChip s r m) := by
  unfold State.ownChip
  repeat' first
    | with_reducible exact Does.refl _ _
    | with_reducible assumption
    | decide
    | with_reducible refine Does.pair (by assumption) ?_
    | with_reducible refine Does.pairSnd (by assumption) ?_
    | with_reducible refine Does.foldl ?_ ?_
    | (extract_lets +onlyGivenNames w_
       first
         | (refine Does.keep w_ ?_ ?_
            on_goal 1 => (unfold w_; clear w_)
            on_goal 2 => first | (clear_value w_; intro _; revert w_; intro _ _) | (intro _; revert w_; intro _ _))
         | (refine Does.keep w_.1 ?_ ?_
            on_goal 1 => (unfold w_; clear w_)
            on_goal 2 => first | (clear_value w_; intro _; revert w_; intro _ _) | (intro _; revert w_; intro _ _))
         | (clear_value w_; revert w_; intro _) | (revert w_; intro _))
    | with_reducible apply Does.step (State.bump_does ..)
    | with_reducible apply Does.step (State.queueChip_does ..)
    | with_reducible apply Does.step (State.setRec_does ..)
    | split
    | intro _
    | dsimp -zeta only

theorem State.reissueTo_does (s : State) (r : Rec) (target : ℕ) : s.Does [.out, .od, .pipe, .tracker, .strand, .recorder] (State.reissueTo s r target) := by
  unfold State.reissueTo
  repeat' first
    | with_reducible exact Does.refl _ _
    | with_reducible assumption
    | decide
    | with_reducible refine Does.pair (by assumption) ?_
    | with_reducible refine Does.pairSnd (by assumption) ?_
    | with_reducible refine Does.foldl ?_ ?_
    | (extract_lets +onlyGivenNames w_
       first
         | (refine Does.keep w_ ?_ ?_
            on_goal 1 => (unfold w_; clear w_)
            on_goal 2 => first | (clear_value w_; intro _; revert w_; intro _ _) | (intro _; revert w_; intro _ _))
         | (refine Does.keep w_.1 ?_ ?_
            on_goal 1 => (unfold w_; clear w_)
            on_goal 2 => first | (clear_value w_; intro _; revert w_; intro _ _) | (intro _; revert w_; intro _ _))
         | (clear_value w_; revert w_; intro _) | (revert w_; intro _))
    | with_reducible apply Does.step (State.sendChip_does ..)
    | with_reducible apply Does.step (State.ownChip_does ..)
    | with_reducible apply Does.step (State.bump_does ..)
    | with_reducible apply Does.step (State.setRec_does ..)
    | split
    | intro _
    | dsimp -zeta only

theorem State.tableFull_does (s : State) : s.Does [.out, .od, .backdrop, .strand, .side, .recorder] (State.tableFull s) := by
  unfold State.tableFull
  repeat' first
    | with_reducible exact Does.refl _ _
    | decide
    | with_reducible apply Does.step (State.raiseSlow_does ..)
    | with_reducible apply Does.step (State.bump_does ..)

theorem State.verdict_does (s : State) (sent : Option ℕ) (handle : ℕ) (epoch : ℕ) (v : ℕ × ℕ × ℕ) (bank : ℕ) (model : ℕ) : s.Does [.od, .tracker, .recorder] (State.verdict s sent handle epoch v bank model) := by
  unfold State.verdict
  repeat' first
    | with_reducible exact Does.refl _ _
    | with_reducible assumption
    | decide
    | with_reducible refine Does.pair (by assumption) ?_
    | with_reducible refine Does.pairSnd (by assumption) ?_
    | with_reducible refine Does.foldl ?_ ?_
    | (extract_lets +onlyGivenNames w_
       first
         | (refine Does.keep w_ ?_ ?_
            on_goal 1 => (unfold w_; clear w_)
            on_goal 2 => first | (clear_value w_; intro _; revert w_; intro _ _) | (intro _; revert w_; intro _ _))
         | (refine Does.keep w_.1 ?_ ?_
            on_goal 1 => (unfold w_; clear w_)
            on_goal 2 => first | (clear_value w_; intro _; revert w_; intro _ _) | (intro _; revert w_; intro _ _))
         | (clear_value w_; revert w_; intro _) | (revert w_; intro _))
    | with_reducible apply Does.step (State.bump_does ..)
    | with_reducible apply Does.step (State.keep_does ..)
    | with_reducible apply Does.step (State.sample_does ..)
    | with_reducible apply Does.step (State.setRec_does ..)
    | split
    | intro _
    | dsimp -zeta only

theorem State.placeObject_does (s : State) (r : Rec) (x : Sys2Proof.Sighting) (m : Sys2Proof.ObjImage) : s.Does [.out, .od, .pipe, .tracker, .backdrop, .strand, .side, .recorder] (State.placeObject s r x m) := by
  unfold State.placeObject
  repeat' first
    | with_reducible exact Does.refl _ _
    | decide
    | with_reducible apply Does.step (State.queueObject_does ..)
    | with_reducible apply Does.step (State.sendChip_does ..)
    | with_reducible apply Does.step (State.bump_does ..)
    | with_reducible apply Does.step (State.settleSighting_does ..)
    | with_reducible apply Does.step (State.setRec_does ..)
    | exact Or.inr (by decide)
    | exact Or.inl rfl
    | exact fun h => ⟨h.mem, h.od, h.cams, h.time, h.pipe, by first | exact h.tracker | simpa [Tracker.shaped] using h.tracker | (have hh := h.tracker; clear h; simp_all [Tracker.shaped]), h.drive, h.seqs, h.loops, h.thermal, h.backdrop, h.strand, h.dict, h.side, h.pins, h.dma, h.recorder⟩
    | split
    | with_reducible apply Does.parts

theorem State.placeIfLive_does (s : State) (h : ℕ) (x : Sys2Proof.Sighting) (m : Sys2Proof.ObjImage) : s.Does [.out, .od, .pipe, .tracker, .backdrop, .strand, .side, .recorder] (State.placeIfLive s h x m) := by
  unfold State.placeIfLive
  repeat' first
    | with_reducible exact Does.refl _ _
    | decide
    | with_reducible apply Does.step (State.placeObject_does ..)
    | split

theorem State.fireOne_does (s : State) (r : Rec) (conf : ℕ) (v : ValvePos) : s.Does [.freeCtr, .out, .od, .drive, .backdrop, .strand, .side, .recorder] (State.fireOne s r conf v).1 := by
  unfold State.fireOne
  repeat' first
    | with_reducible exact Does.refl _ _
    | with_reducible assumption
    | decide
    | with_reducible refine Does.pair (by assumption) ?_
    | with_reducible refine Does.pairSnd (by assumption) ?_
    | with_reducible refine Does.foldl ?_ ?_
    | (extract_lets +onlyGivenNames w_
       first
         | (refine Does.keep w_ ?_ ?_
            on_goal 1 => (unfold w_; clear w_)
            on_goal 2 => first | (clear_value w_; intro _; revert w_; intro _ _) | (intro _; revert w_; intro _ _))
         | (refine Does.keep w_.1 ?_ ?_
            on_goal 1 => (unfold w_; clear w_)
            on_goal 2 => first | (clear_value w_; intro _; revert w_; intro _ _) | (intro _; revert w_; intro _ _))
         | (clear_value w_; revert w_; intro _) | (revert w_; intro _))
    | split
    | with_reducible apply Does.step (State.request_does ..)
    | with_reducible apply Does.step (State.post_does ..)
    | with_reducible apply Does.step (State.bump_does ..)
    | split
    | intro _
    | dsimp -zeta only

theorem State.predict_does (s : State) (r : Rec) : s.Does [.out, .od, .tracker, .backdrop, .strand, .side, .recorder] (State.predict s r) := by
  unfold State.predict
  repeat' first
    | with_reducible exact Does.refl _ _
    | with_reducible assumption
    | decide
    | (extract_lets +onlyGivenNames w_
       first
         | (refine Does.keep w_ ?_ ?_
            on_goal 1 => (unfold w_; clear w_)
            on_goal 2 => first | (clear_value w_; intro _; revert w_; intro _ _) | (intro _; revert w_; intro _ _))
         | (clear_value w_; revert w_; intro _) | (revert w_; intro _))
    | with_reducible apply Does.step (State.raiseSlow_does ..)
    | with_reducible apply Does.step (State.bump_does ..)
    | with_reducible apply Does.step (State.setRec_does ..)
    | split

theorem State.refuseChip_does (s : State) (src : ℕ) (handle : ℕ) (epoch : ℕ) (sent : ℕ) (cause : ℕ) : s.Does [.out, .od, .strand, .recorder] (State.refuseChip s src handle epoch sent cause) := by
  unfold State.refuseChip
  repeat' first
    | with_reducible exact Does.refl _ _
    | with_reducible assumption
    | decide
    | with_reducible refine Does.pair (by assumption) ?_
    | with_reducible refine Does.pairSnd (by assumption) ?_
    | with_reducible refine Does.foldl ?_ ?_
    | (extract_lets +onlyGivenNames w_
       first
         | (refine Does.keep w_ ?_ ?_
            on_goal 1 => (unfold w_; clear w_)
            on_goal 2 => first | (clear_value w_; intro _; revert w_; intro _ _) | (intro _; revert w_; intro _ _))
         | (refine Does.keep w_.1 ?_ ?_
            on_goal 1 => (unfold w_; clear w_)
            on_goal 2 => first | (clear_value w_; intro _; revert w_; intro _ _) | (intro _; revert w_; intro _ _))
         | (clear_value w_; revert w_; intro _) | (revert w_; intro _))
    | with_reducible apply Does.step (State.post_does ..)
    | with_reducible apply Does.step (State.bump_does ..)
    | split
    | intro _
    | dsimp -zeta only

theorem State.takeChip_does (s : State) (src : ℕ) (handle : ℕ) (epoch : ℕ) (sent : ℕ) (d : List Sys2Proof.Byte) : s.Does [.out, .od, .pipe, .strand, .recorder] (State.takeChip s src handle epoch sent d) := by
  unfold State.takeChip
  repeat' first
    | with_reducible exact Does.refl _ _
    | with_reducible assumption
    | decide
    | with_reducible refine Does.pair (by assumption) ?_
    | with_reducible refine Does.pairSnd (by assumption) ?_
    | with_reducible refine Does.foldl ?_ ?_
    | (extract_lets +onlyGivenNames w_
       first
         | (refine Does.keep w_ ?_ ?_
            on_goal 1 => (unfold w_; clear w_)
            on_goal 2 => first | (clear_value w_; intro _; revert w_; intro _ _) | (intro _; revert w_; intro _ _))
         | (refine Does.keep w_.1 ?_ ?_
            on_goal 1 => (unfold w_; clear w_)
            on_goal 2 => first | (clear_value w_; intro _; revert w_; intro _ _) | (intro _; revert w_; intro _ _))
         | (clear_value w_; revert w_; intro _) | (revert w_; intro _))
    | with_reducible apply Does.step (State.refuseChip_does ..)
    | with_reducible apply Does.step (State.queueChip_does ..)
    | split
    | intro _
    | dsimp -zeta only

theorem State.predictUpperAlone_does (s : State) (r : Rec) : s.Does [.out, .od, .tracker, .backdrop, .strand, .side, .recorder] (State.predictUpperAlone s r) := by
  unfold State.predictUpperAlone
  repeat' first
    | with_reducible exact Does.refl _ _
    | decide
    | with_reducible apply Does.step (State.predict_does ..)
    | with_reducible apply Does.step (State.bump_does ..)

theorem State.predictIfLost_does (s : State) (h : ℕ) : s.Does [.out, .od, .tracker, .backdrop, .strand, .side, .recorder] (State.predictIfLost s h) := by
  unfold State.predictIfLost
  repeat' first
    | with_reducible exact Does.refl _ _
    | with_reducible assumption
    | decide
    | with_reducible refine Does.pair (by assumption) ?_
    | with_reducible refine Does.pairSnd (by assumption) ?_
    | with_reducible refine Does.foldl ?_ ?_
    | (extract_lets +onlyGivenNames w_
       first
         | (refine Does.keep w_ ?_ ?_
            on_goal 1 => (unfold w_; clear w_)
            on_goal 2 => first | (clear_value w_; intro _; revert w_; intro _ _) | (intro _; revert w_; intro _ _))
         | (refine Does.keep w_.1 ?_ ?_
            on_goal 1 => (unfold w_; clear w_)
            on_goal 2 => first | (clear_value w_; intro _; revert w_; intro _ _) | (intro _; revert w_; intro _ _))
         | (clear_value w_; revert w_; intro _) | (revert w_; intro _))
    | with_reducible apply Does.step (State.predictUpperAlone_does ..)
    | split
    | intro _
    | dsimp -zeta only

theorem State.roundTrip_does (s : State) (sent : ℕ) : s.Does [.od, .recorder] (State.roundTrip s sent) := by
  unfold State.roundTrip
  repeat' first
    | with_reducible exact Does.refl _ _
    | with_reducible assumption
    | decide
    | with_reducible apply Does.step (State.keep_does ..)
    | with_reducible apply Does.step (State.sample_does ..)

theorem State.reissueGroup_does (s : State) (g : ℕ) : s.Does [.out, .od, .pipe, .tracker, .strand, .recorder] (State.reissueGroup s g) := by
  unfold State.reissueGroup
  repeat' first
    | with_reducible exact Does.refl _ _
    | with_reducible assumption
    | decide
    | with_reducible refine Does.pair (by assumption) ?_
    | with_reducible refine Does.pairSnd (by assumption) ?_
    | with_reducible refine Does.foldl ?_ ?_
    | (extract_lets +onlyGivenNames w_
       first
         | (refine Does.keep w_ ?_ ?_
            on_goal 1 => (unfold w_; clear w_)
            on_goal 2 => first | (clear_value w_; intro _; revert w_; intro _ _) | (intro _; revert w_; intro _ _))
         | (refine Does.keep w_.1 ?_ ?_
            on_goal 1 => (unfold w_; clear w_)
            on_goal 2 => first | (clear_value w_; intro _; revert w_; intro _ _) | (intro _; revert w_; intro _ _))
         | (clear_value w_; revert w_; intro _) | (revert w_; intro _))
    | with_reducible apply Does.step (State.reissueTo_does ..)
    | with_reducible apply Does.step (State.setRec_does ..)
    | split
    | intro _
    | dsimp -zeta only

theorem State.movePlacement_does (s : State) (g : ℕ) (target : Option ℕ) (pinned : Bool) (event : ℕ) (counter : ℕ) : s.Does [.out, .od, .pipe, .tracker, .backdrop, .strand, .side, .recorder] (State.movePlacement s g target pinned event counter) := by
  unfold State.movePlacement
  repeat' first
    | with_reducible exact Does.refl _ _
    | with_reducible assumption
    | decide
    | with_reducible apply Does.step (State.raise_does ..)
    | with_reducible apply Does.step (State.reissueGroup_does ..)
    | with_reducible apply Does.step (State.bump_does ..)
    | exact Or.inr (by decide)
    | exact Or.inl rfl
    | exact fun h => ⟨h.mem, h.od, h.cams, h.time, h.pipe, by first | exact h.tracker | simpa [Tracker.shaped] using h.tracker | (have hh := h.tracker; clear h; simp_all [Tracker.shaped]), h.drive, h.seqs, h.loops, h.thermal, h.backdrop, h.strand, h.dict, h.side, h.pins, h.dma, h.recorder⟩
    | with_reducible apply Does.parts

theorem State.returnGroup_does (s : State) (groups : List ℕ) : s.Does [.out, .od, .pipe, .tracker, .backdrop, .strand, .side, .recorder] (State.returnGroup s groups) := by
  unfold State.returnGroup
  repeat' first
    | with_reducible exact Does.refl _ _
    | with_reducible assumption
    | decide
    | with_reducible refine Does.pair (by assumption) ?_
    | with_reducible refine Does.pairSnd (by assumption) ?_
    | with_reducible refine Does.foldl ?_ ?_
    | (extract_lets +onlyGivenNames w_
       first
         | (refine Does.keep w_ ?_ ?_
            on_goal 1 => (unfold w_; clear w_)
            on_goal 2 => first | (clear_value w_; intro _; revert w_; intro _ _) | (intro _; revert w_; intro _ _))
         | (refine Does.keep w_.1 ?_ ?_
            on_goal 1 => (unfold w_; clear w_)
            on_goal 2 => first | (clear_value w_; intro _; revert w_; intro _ _) | (intro _; revert w_; intro _ _))
         | (have h_ : Tracker := w_; clear h_; subst w_)
         | (clear_value w_; revert w_; intro _) | (revert w_; intro _))
    | with_reducible apply Does.step (State.movePlacement_does ..)
    | exact Or.inr (by decide)
    | exact Or.inl rfl
    | exact fun h => ⟨h.mem, h.od, h.cams, h.time, h.pipe, by first | exact h.tracker | simpa [Tracker.shaped] using h.tracker | (have hh := h.tracker; clear h; simp_all [Tracker.shaped]), h.drive, h.seqs, h.loops, h.thermal, h.backdrop, h.strand, h.dict, h.side, h.pins, h.dma, h.recorder⟩
    | split
    | intro _
    | dsimp -zeta only
    | with_reducible apply Does.parts

theorem State.twins_does (s : State) (x : Sys2Proof.Sighting) : s.Does [.od, .tracker] (State.twins s x) := by
  unfold State.twins
  repeat' first
    | with_reducible exact Does.refl _ _
    | decide
    | with_reducible apply Does.step (State.bumpBy_does ..)
    | exact Or.inr (by decide)
    | exact Or.inl rfl
    | exact fun h => ⟨h.mem, h.od, h.cams, h.time, h.pipe, by first | exact h.tracker | simpa [Tracker.shaped] using h.tracker | (have hh := h.tracker; clear h; simp_all [Tracker.shaped]), h.drive, h.seqs, h.loops, h.thermal, h.backdrop, h.strand, h.dict, h.side, h.pins, h.dma, h.recorder⟩
    | split
    | with_reducible apply Does.parts

theorem actPlacement_does (g : ℕ) (value : ℕ) (s : State) : s.Does [.out, .od, .pipe, .tracker, .backdrop, .strand, .side, .recorder] (actPlacement g value s).1 := by
  unfold actPlacement
  repeat' first
    | with_reducible exact Does.refl _ _
    | decide
    | (extract_lets +onlyGivenNames w_
       first
         | (clear_value w_; revert w_; intro _) | (revert w_; intro _))
    | with_reducible apply Does.step (State.movePlacement_does ..)
    | split

theorem State.predictFace_does (s : State) (face : ℕ) : s.Does [.out, .od, .tracker, .backdrop, .strand, .side, .recorder] (State.predictFace s face) := by
  unfold State.predictFace
  repeat' first
    | with_reducible exact Does.refl _ _
    | decide
    | with_reducible refine Does.foldl ?_ ?_
    | with_reducible apply Does.step (State.predictUpperAlone_does ..)
    | intro _

theorem actGovernor_does (v : ℕ) (s : State) : s.Does [.od, .tracker] (actGovernor v s).1 := by
  unfold actGovernor
  repeat' first
    | with_reducible exact Does.refl _ _
    | with_reducible assumption
    | decide
    | with_reducible refine Does.pair (by assumption) ?_
    | with_reducible refine Does.pairSnd (by assumption) ?_
    | with_reducible refine Does.foldl ?_ ?_
    | (extract_lets +onlyGivenNames w_
       first
         | (refine Does.keep w_ ?_ ?_
            on_goal 1 => (unfold w_; clear w_)
            on_goal 2 => first | (clear_value w_; intro _; revert w_; intro _ _) | (intro _; revert w_; intro _ _))
         | (refine Does.keep w_.1 ?_ ?_
            on_goal 1 => (unfold w_; clear w_)
            on_goal 2 => first | (clear_value w_; intro _; revert w_; intro _ _) | (intro _; revert w_; intro _ _))
         | (have h_ : Tracker := w_; clear h_; subst w_)
         | (clear_value w_; revert w_; intro _) | (revert w_; intro _))
    | split
    | with_reducible apply Does.step (State.putNat_does ..)
    | exact Or.inr (by decide)
    | exact Or.inl rfl
    | exact fun h => ⟨h.mem, h.od, h.cams, h.time, h.pipe, by first | exact h.tracker | simpa [Tracker.shaped] using h.tracker | (have hh := h.tracker; clear h; simp_all [Tracker.shaped]), h.drive, h.seqs, h.loops, h.thermal, h.backdrop, h.strand, h.dict, h.side, h.pins, h.dma, h.recorder⟩
    | split
    | intro _
    | dsimp -zeta only
    | with_reducible apply Does.parts

theorem State.learn_does (s : State) (face : ℕ) (group : ℕ) (u : Sys2Proof.Sighting) (f : Sys2Proof.Sighting) : s.Does [.out, .od, .tracker, .backdrop, .strand, .side, .recorder] (State.learn s face group u f) := by
  unfold State.learn
  repeat' first
    | with_reducible exact Does.refl _ _
    | with_reducible assumption
    | decide
    | with_reducible apply Does.step (State.raise_does ..)
    | exact Or.inr (by decide)
    | exact Or.inl rfl
    | exact fun h => ⟨h.mem, h.od, h.cams, h.time, h.pipe, by first | exact h.tracker | simpa [Tracker.shaped] using h.tracker | (have hh := h.tracker; clear h; simp_all [Tracker.shaped]), h.drive, h.seqs, h.loops, h.thermal, h.backdrop, h.strand, h.dict, h.side, h.pins, h.dma, h.recorder⟩
    | split
    | with_reducible apply Does.parts

theorem State.recomputeFloors_does (s : State) : s.Does [.od, .tracker] (State.recomputeFloors s) := by
  unfold State.recomputeFloors
  repeat' first
    | with_reducible exact Does.refl _ _
    | with_reducible assumption
    | decide
    | with_reducible apply Does.step (State.keep_does ..)
    | exact Or.inr (by decide)
    | exact Or.inl rfl
    | exact fun h => ⟨h.mem, h.od, h.cams, h.time, h.pipe, by first | exact h.tracker | simpa [Tracker.shaped] using h.tracker | (have hh := h.tracker; clear h; simp_all [Tracker.shaped]), h.drive, h.seqs, h.loops, h.thermal, h.backdrop, h.strand, h.dict, h.side, h.pins, h.dma, h.recorder⟩
    | with_reducible apply Does.parts

theorem State.ferryTargetLost_does (s : State) (id : ℕ) : s.Does [.out, .od, .pipe, .tracker, .backdrop, .strand, .side, .recorder] (State.ferryTargetLost s id) := by
  unfold State.ferryTargetLost
  repeat' first
    | with_reducible exact Does.refl _ _
    | with_reducible assumption
    | decide
    | with_reducible refine Does.foldl ?_ ?_
    | (extract_lets +onlyGivenNames w_
       first
         | (refine Does.keep w_ ?_ ?_
            on_goal 1 => (unfold w_; clear w_)
            on_goal 2 => first | (clear_value w_; intro _; revert w_; intro _ _) | (intro _; revert w_; intro _ _))
         | (clear_value w_; revert w_; intro _) | (revert w_; intro _))
    | with_reducible apply Does.step (State.movePlacement_does ..)
    | with_reducible apply Does.step (State.raise_does ..)
    | split
    | intro _

end Sys2Proof.Machine
end

