-- ==== Sys2Proof/Laws/DmaOps.lean ====
section
/-!
SUPPORT. What the operations of Machine/DmaOps.lean do.
-/
set_option Elab.async false
set_option linter.all false

namespace Sys2Proof.Machine

theorem State.setChan_does (s : State) (c : ℕ) (x : DmaChannel) : s.Does [.dma] (State.setChan s c x) := by
  unfold State.setChan
  repeat' first
    | with_reducible exact Does.refl _ _
    | exact Or.inr (by decide)
    | exact Or.inl rfl
    | exact fun h => ⟨h.mem, h.od, h.cams, h.time, h.pipe, h.tracker, h.drive, h.seqs, h.loops, h.thermal, h.backdrop, h.strand, h.dict, h.side, h.pins, by first | exact h.dma | simpa [Dma.shaped] using h.dma | (have hh := h.dma; clear h; simp_all [Dma.shaped]), h.recorder⟩
    | with_reducible apply Does.parts

theorem State.raiseChan_does (s : State) (c : ℕ) (kind : ℕ) (sev : ℕ) (arg : ℕ) : s.Does [.out, .od, .backdrop, .strand, .side, .recorder] (State.raiseChan s c kind sev arg) := by
  unfold State.raiseChan
  repeat' first
    | with_reducible exact Does.refl _ _
    | with_reducible assumption
    | decide
    | with_reducible apply Does.step (State.severeTrigger_does ..)
    | with_reducible apply Does.step (State.sendEvent_does ..)
    | with_reducible apply Does.step (State.queueEmcy_does ..)
    | with_reducible apply Does.step (State.logEvent_does ..)
    | exact Or.inr (by decide)
    | exact Or.inl rfl
    | exact fun h => ⟨h.mem, h.od, h.cams, h.time, h.pipe, h.tracker, h.drive, h.seqs, h.loops, h.thermal, by first | exact ⟨h.backdrop.1, h.backdrop.2.1, h.backdrop.2.2⟩ | simpa [Backdrop.shaped] using h.backdrop | (have hh := h.backdrop; clear h; simp_all [Backdrop.shaped]), h.strand, h.dict, h.side, h.pins, h.dma, h.recorder⟩
    | split
    | with_reducible apply Does.parts

theorem State.wakeHead_does (s : State) : s.Does [.dma] (State.wakeHead s) := by
  unfold State.wakeHead
  repeat' first
    | with_reducible exact Does.refl _ _
    | decide
    | (extract_lets +onlyGivenNames w_
       first
         | (clear_value w_; revert w_; intro _) | (revert w_; intro _))
    | with_reducible apply Does.step (State.setChan_does ..)
    | split

theorem State.leaveFifo_does (s : State) (c : ℕ) : s.Does [.dma] (State.leaveFifo s c) := by
  unfold State.leaveFifo
  repeat' first
    | with_reducible exact Does.refl _ _
    | decide
    | with_reducible apply Does.step (State.wakeHead_does ..)
    | exact Or.inr (by decide)
    | exact Or.inl rfl
    | exact fun h => ⟨h.mem, h.od, h.cams, h.time, h.pipe, h.tracker, h.drive, h.seqs, h.loops, h.thermal, h.backdrop, h.strand, h.dict, h.side, h.pins, by first | exact h.dma | simpa [Dma.shaped] using h.dma | (have hh := h.dma; clear h; simp_all [Dma.shaped]), h.recorder⟩
    | with_reducible apply Does.parts

theorem State.dmaError_does (s : State) (c : ℕ) (cause : ℕ) : s.Does [.out, .od, .backdrop, .strand, .side, .dma, .recorder] (State.dmaError s c cause) := by
  unfold State.dmaError
  repeat' first
    | with_reducible exact Does.refl _ _
    | with_reducible assumption
    | decide
    | with_reducible apply Does.step (State.raiseChan_does ..)
    | with_reducible apply Does.step (State.bump_does ..)
    | with_reducible apply Does.step (State.leaveFifo_does ..)
    | with_reducible apply Does.step (State.setChan_does ..)

theorem State.dmaFail_does (s : State) (c : ℕ) (cause : ℕ) : s.Does [.out, .od, .backdrop, .strand, .side, .dma, .recorder] (State.dmaFail s c cause) := by
  unfold State.dmaFail
  repeat' first
    | with_reducible exact Does.refl _ _
    | with_reducible assumption
    | decide
    | with_reducible refine Does.pair (by assumption) ?_
    | with_reducible refine Does.pairSnd (by assumption) ?_
    | with_reducible refine Does.foldl ?_ ?_
    | (extract_lets +onlyGivenNames w_
       first
         | (refine Does.keep w_ ?_ ?_
            on_goal 1 => (unfold w_; clear w_)
            on_goal 2 => first | (clear_value w_; intro _; revert w_; intro _ _) | (intro _; revert w_; intro _ _))
         | (refine Does.keep w_.1 ?_ ?_
            on_goal 1 => (unfold w_; clear w_)
            on_goal 2 => first | (clear_value w_; intro _; revert w_; intro _ _) | (intro _; revert w_; intro _ _))
         | (clear_value w_; revert w_; intro _) | (revert w_; intro _))
    | with_reducible apply Does.step (State.dmaError_does ..)
    | with_reducible apply Does.step (State.bump_does ..)
    | split
    | intro _
    | dsimp -zeta only

theorem State.setStream_does (s : State) (n : ℕ) (x : Stream) : s.Does [.strand] (State.setStream s n x) := by
  unfold State.setStream
  repeat' first
    | with_reducible exact Does.refl _ _
    | exact Or.inr (by decide)
    | exact Or.inl rfl
    | exact fun h => ⟨h.mem, h.od, h.cams, h.time, h.pipe, h.tracker, h.drive, h.seqs, h.loops, h.thermal, h.backdrop, by first | exact ⟨h.strand.1, h.strand.2.1, h.strand.2.2⟩ | simpa [Strand.shaped] using h.strand | (have hh := h.strand; clear h; simp_all [Strand.shaped]), h.dict, h.side, h.pins, h.dma, h.recorder⟩
    | with_reducible apply Does.parts

theorem State.sendBulk_does (s : State) (n : ℕ) (dest : ℕ) (last : Bool) (d : List Sys2Proof.Byte) : s.Does [.out, .od, .strand, .recorder] (State.sendBulk s n dest last d) := by
  unfold State.sendBulk
  repeat' first
    | with_reducible exact Does.refl _ _
    | with_reducible assumption
    | decide
    | with_reducible refine Does.pair (by assumption) ?_
    | with_reducible refine Does.pairSnd (by assumption) ?_
    | with_reducible refine Does.foldl ?_ ?_
    | (extract_lets +onlyGivenNames w_
       first
         | (refine Does.keep w_ ?_ ?_
            on_goal 1 => (unfold w_; clear w_)
            on_goal 2 => first | (clear_value w_; intro _; revert w_; intro _ _) | (intro _; revert w_; intro _ _))
         | (refine Does.keep w_.1 ?_ ?_
            on_goal 1 => (unfold w_; clear w_)
            on_goal 2 => first | (clear_value w_; intro _; revert w_; intro _ _) | (intro _; revert w_; intro _ _))
         | (clear_value w_; revert w_; intro _) | (revert w_; intro _))
    | with_reducible apply Does.step (State.post_does ..)
    | with_reducible apply Does.step (State.setStream_does ..)
    | split
    | intro _
    | dsimp -zeta only

theorem State.flushBulk_does (s : State) (last : Bool) : s.Does [.out, .od, .strand, .dma, .recorder] (State.flushBulk s last) := by
  unfold State.flushBulk
  repeat' first
    | with_reducible exact Does.refl _ _
    | with_reducible assumption
    | decide
    | with_reducible refine Does.pair (by assumption) ?_
    | with_reducible refine Does.pairSnd (by assumption) ?_
    | with_reducible refine Does.foldl ?_ ?_
    | (extract_lets +onlyGivenNames w_
       first
         | (refine Does.keep w_ ?_ ?_
            on_goal 1 => (unfold w_; clear w_)
            on_goal 2 => first | (clear_value w_; intro _; revert w_; intro _ _) | (intro _; revert w_; intro _ _))
         | (refine Does.keep w_.1 ?_ ?_
            on_goal 1 => (unfold w_; clear w_)
            on_goal 2 => first | (clear_value w_; intro _; revert w_; intro _ _) | (intro _; revert w_; intro _ _))
         | (have h_ : Dma := w_; clear h_; subst w_)
         | (clear_value w_; revert w_; intro _) | (revert w_; intro _))
    | with_reducible apply Does.step (State.sendBulk_does ..)
    | exact Or.inr (by decide)
    | exact Or.inl rfl
    | exact fun h => ⟨h.mem, h.od, h.cams, h.time, h.pipe, h.tracker, h.drive, h.seqs, h.loops, h.thermal, h.backdrop, h.strand, h.dict, h.side, h.pins, by first | exact h.dma | simpa [Dma.shaped] using h.dma | (have hh := h.dma; clear h; simp_all [Dma.shaped]), h.recorder⟩
    | split
    | intro _
    | dsimp -zeta only
    | with_reducible apply Does.parts

theorem State.gatherBulk_does (s : State) (stream : ℕ) (to_ : ℕ) (d : List Sys2Proof.Byte) : s.Does [.out, .od, .strand, .dma, .recorder] (State.gatherBulk s stream to_ d) := by
  unfold State.gatherBulk
  repeat' first
    | with_reducible exact Does.refl _ _
    | with_reducible assumption
    | decide
    | with_reducible refine Does.pair (by assumption) ?_
    | with_reducible refine Does.pairSnd (by assumption) ?_
    | with_reducible refine Does.foldl ?_ ?_
    | (extract_lets +onlyGivenNames w_
       first
         | (refine Does.keep w_ ?_ ?_
            on_goal 1 => (unfold w_; clear w_)
            on_goal 2 => first | (clear_value w_; intro _; revert w_; intro _ _) | (intro _; revert w_; intro _ _))
         | (refine Does.keep w_.1 ?_ ?_
            on_goal 1 => (unfold w_; clear w_)
            on_goal 2 => first | (clear_value w_; intro _; revert w_; intro _ _) | (intro _; revert w_; intro _ _))
         | (have h_ : Dma := w_; clear h_; subst w_)
         | (clear_value w_; revert w_; intro _) | (revert w_; intro _))
    | with_reducible apply Does.step (State.flushBulk_does ..)
    | with_reducible apply Does.step (State.sendBulk_does ..)
    | exact Or.inr (by decide)
    | exact Or.inl rfl
    | exact fun h => ⟨h.mem, h.od, h.cams, h.time, h.pipe, h.tracker, h.drive, h.seqs, h.loops, h.thermal, h.backdrop, h.strand, h.dict, h.side, h.pins, by first | exact h.dma | simpa [Dma.shaped] using h.dma | (have hh := h.dma; clear h; simp_all [Dma.shaped]), h.recorder⟩
    | split
    | intro _
    | dsimp -zeta only
    | with_reducible apply Does.parts

theorem State.writeAccess_does (s : State) (a : ℕ) (d : List Sys2Proof.Byte) : s.Does [.out, .od, .mem, .strand, .dma, .recorder] (State.writeAccess s a d) := by
  unfold State.writeAccess
  repeat' first
    | with_reducible exact Does.refl _ _
    | with_reducible assumption
    | decide
    | with_reducible refine Does.pair (by assumption) ?_
    | with_reducible refine Does.pairSnd (by assumption) ?_
    | with_reducible refine Does.foldl ?_ ?_
    | (extract_lets +onlyGivenNames w_
       first
         | (refine Does.keep w_ ?_ ?_
            on_goal 1 => (unfold w_; clear w_)
            on_goal 2 => first | (clear_value w_; intro _; revert w_; intro _ _) | (intro _; revert w_; intro _ _))
         | (refine Does.keep w_.1 ?_ ?_
            on_goal 1 => (unfold w_; clear w_)
            on_goal 2 => first | (clear_value w_; intro _; revert w_; intro _ _) | (intro _; revert w_; intro _ _))
         | (clear_value w_; revert w_; intro _) | (revert w_; intro _))
    | with_reducible apply Does.step (State.gatherBulk_does ..)
    | with_reducible apply Does.step (State.memWrite_does ..)
    | with_reducible apply Does.step (State.emit_does ..)
    | split
    | intro _
    | dsimp -zeta only

theorem State.moveRuns_does (a0 : ℕ) (a1 : State) (a2 : ℕ) (a3 : ℕ) (a4 : ℕ) (a5 : ℕ) (a6 : ℕ) (a7 : List Sys2Proof.Byte) (a8 : Option ℕ) (a9 : Moved) : a1.Does [.out, .od, .mem, .strand, .dma, .recorder] (State.moveRuns a0 a1 a2 a3 a4 a5 a6 a7 a8 a9).1 := by
  induction a0 generalizing a1 a2 a3 a4 a5 a6 a7 a8 a9
  all_goals unfold State.moveRuns
  · exact Does.refl _ _
  rename_i ih
  repeat' first
    | with_reducible exact Does.refl _ _
    | with_reducible assumption
    | decide
    | with_reducible refine Does.pair (by assumption) ?_
    | with_reducible refine Does.pairSnd (by assumption) ?_
    | with_reducible refine Does.foldl ?_ ?_
    | (extract_lets +onlyGivenNames w_
       first
         | (refine Does.keep w_ ?_ ?_
            on_goal 1 => (unfold w_; clear w_)
            on_goal 2 => first | (clear_value w_; intro _; revert w_; intro _ _) | (intro _; revert w_; intro _ _))
         | (refine Does.keep w_.1 ?_ ?_
            on_goal 1 => (unfold w_; clear w_)
            on_goal 2 => first | (clear_value w_; intro _; revert w_; intro _ _) | (intro _; revert w_; intro _ _))
         | (clear_value w_; revert w_; intro _) | (revert w_; intro _))
    | split
    | with_reducible refine Does.step (ih ..) ?_ ?_
    | with_reducible apply Does.step (State.writeAccess_does ..)
    | split
    | intro _
    | dsimp -zeta only

theorem State.moveBytes_does (s : State) (c : ℕ) (goal : ℕ) (data : List Sys2Proof.Byte) (bad : Option ℕ) : s.Does [.out, .od, .mem, .strand, .dma, .recorder] (State.moveBytes s c goal data bad).1 := by
  unfold State.moveBytes
  repeat' first
    | with_reducible exact Does.refl _ _
    | with_reducible assumption
    | decide
    | with_reducible refine Does.pair (by assumption) ?_
    | with_reducible refine Does.pairSnd (by assumption) ?_
    | with_reducible refine Does.foldl ?_ ?_
    | (extract_lets +onlyGivenNames w_
       first
         | (refine Does.keep w_ ?_ ?_
            on_goal 1 => (unfold w_; clear w_)
            on_goal 2 => first | (clear_value w_; intro _; revert w_; intro _ _) | (intro _; revert w_; intro _ _))
         | (refine Does.keep w_.1 ?_ ?_
            on_goal 1 => (unfold w_; clear w_)
            on_goal 2 => first | (clear_value w_; intro _; revert w_; intro _ _) | (intro _; revert w_; intro _ _))
         | (have h_ : Dma := w_; clear h_; subst w_)
         | (clear_value w_; revert w_; intro _) | (revert w_; intro _))
    | split
    | with_reducible apply Does.step (State.moveRuns_does ..)
    | with_reducible apply Does.step (State.flushBulk_does ..)
    | with_reducible apply Does.step (State.bumpBy_does ..)
    | with_reducible apply Does.step (State.setChan_does ..)
    | exact Or.inr (by decide)
    | exact Or.inl rfl
    | exact fun h => ⟨h.mem, h.od, h.cams, h.time, h.pipe, h.tracker, h.drive, h.seqs, h.loops, h.thermal, h.backdrop, h.strand, h.dict, h.side, h.pins, by first | exact h.dma | simpa [Dma.shaped] using h.dma | (have hh := h.dma; clear h; simp_all [Dma.shaped]), h.recorder⟩
    | split
    | intro _
    | dsimp -zeta only
    | with_reducible apply Does.parts

theorem State.completionInterrupt_does (s : State) (c : ℕ) : s.Does [.out, .od, .strand, .dma, .recorder] (State.completionInterrupt s c) := by
  unfold State.completionInterrupt
  repeat' first
    | with_reducible exact Does.refl _ _
    | with_reducible assumption
    | decide
    | (extract_lets +onlyGivenNames w_
       first
         | (refine Does.keep w_ ?_ ?_
            on_goal 1 => (unfold w_; clear w_)
            on_goal 2 => first | (clear_value w_; intro _; revert w_; intro _ _) | (intro _; revert w_; intro _ _))
         | (clear_value w_; revert w_; intro _) | (revert w_; intro _))
    | with_reducible apply Does.step (State.sendEvent_does ..)
    | with_reducible apply Does.step (State.logEvent_does ..)
    | with_reducible apply Does.step (State.bump_does ..)
    | with_reducible apply Does.step (State.setChan_does ..)
    | split

theorem State.countDescriptor_does (s : State) (c : ℕ) : s.Does [.out, .od, .strand, .dma, .recorder] (State.countDescriptor s c) := by
  unfold State.countDescriptor
  repeat' first
    | with_reducible exact Does.refl _ _
    | with_reducible assumption
    | decide
    | with_reducible refine Does.pair (by assumption) ?_
    | with_reducible refine Does.pairSnd (by assumption) ?_
    | with_reducible refine Does.foldl ?_ ?_
    | (extract_lets +onlyGivenNames w_
       first
         | (refine Does.keep w_ ?_ ?_
            on_goal 1 => (unfold w_; clear w_)
            on_goal 2 => first | (clear_value w_; intro _; revert w_; intro _ _) | (intro _; revert w_; intro _ _))
         | (refine Does.keep w_.1 ?_ ?_
            on_goal 1 => (unfold w_; clear w_)
            on_goal 2 => first | (clear_value w_; intro _; revert w_; intro _ _) | (intro _; revert w_; intro _ _))
         | (clear_value w_; revert w_; intro _) | (revert w_; intro _))
    | with_reducible apply Does.step (State.completionInterrupt_does ..)
    | with_reducible apply Does.step (State.bump_does ..)
    | with_reducible apply Does.step (State.setChan_does ..)
    | split
    | intro _
    | dsimp -zeta only

theorem State.joinFifo_does (s : State) (c : ℕ) : s.Does [.dma] (State.joinFifo s c) := by
  unfold State.joinFifo
  repeat' first
    | with_reducible exact Does.refl _ _
    | with_reducible assumption
    | with_reducible apply Does.step (State.wakeHead_does ..)
    | with_reducible apply Does.step (State.setChan_does ..)
    | exact Or.inr (by decide)
    | exact Or.inl rfl
    | exact fun h => ⟨h.mem, h.od, h.cams, h.time, h.pipe, h.tracker, h.drive, h.seqs, h.loops, h.thermal, h.backdrop, h.strand, h.dict, h.side, h.pins, by first | exact h.dma | simpa [Dma.shaped] using h.dma | (have hh := h.dma; clear h; simp_all [Dma.shaped]), h.recorder⟩
    | split
    | intro _
    | with_reducible apply Does.parts

theorem State.takeDescriptor_does (s : State) (c : ℕ) (a : ℕ) (bad : Bool) : s.Does [.out, .od, .backdrop, .strand, .side, .dma, .recorder] (State.takeDescriptor s c a bad) := by
  unfold State.takeDescriptor
  repeat' first
    | with_reducible exact Does.refl _ _
    | with_reducible assumption
    | decide
    | with_reducible refine Does.pair (by assumption) ?_
    | with_reducible refine Does.pairSnd (by assumption) ?_
    | with_reducible refine Does.foldl ?_ ?_
    | (extract_lets +onlyGivenNames w_
       first
         | (refine Does.keep w_ ?_ ?_
            on_goal 1 => (unfold w_; clear w_)
            on_goal 2 => first | (clear_value w_; intro _; revert w_; intro _ _) | (intro _; revert w_; intro _ _))
         | (refine Does.keep w_.1 ?_ ?_
            on_goal 1 => (unfold w_; clear w_)
            on_goal 2 => first | (clear_value w_; intro _; revert w_; intro _ _) | (intro _; revert w_; intro _ _))
         | (clear_value w_; revert w_; intro _) | (revert w_; intro _))
    | with_reducible apply Does.step (State.dmaFail_does ..)
    | with_reducible apply Does.step (State.joinFifo_does ..)
    | with_reducible apply Does.step (State.setChan_does ..)
    | split
    | intro _
    | dsimp -zeta only

theorem State.followLink_does (s : State) (c : ℕ) (bad : Option Sys2Proof.MemError) : s.Does [.out, .od, .backdrop, .strand, .side, .dma, .recorder] (State.followLink s c bad) := by
  unfold State.followLink
  repeat' first
    | with_reducible exact Does.refl _ _
    | with_reducible assumption
    | decide
    | with_reducible refine Does.pair (by assumption) ?_
    | with_reducible refine Does.pairSnd (by assumption) ?_
    | with_reducible refine Does.foldl ?_ ?_
    | (extract_lets +onlyGivenNames w_
       first
         | (refine Does.keep w_ ?_ ?_
            on_goal 1 => (unfold w_; clear w_)
            on_goal 2 => first | (clear_value w_; intro _; revert w_; intro _ _) | (intro _; revert w_; intro _ _))
         | (refine Does.keep w_.1 ?_ ?_
            on_goal 1 => (unfold w_; clear w_)
            on_goal 2 => first | (clear_value w_; intro _; revert w_; intro _ _) | (intro _; revert w_; intro _ _))
         | (clear_value w_; revert w_; intro _) | (revert w_; intro _))
    | with_reducible apply Does.step (State.takeDescriptor_does ..)
    | with_reducible apply Does.step (State.dmaFail_does ..)
    | with_reducible apply Does.step (State.raiseChan_does ..)
    | with_reducible apply Does.step (State.leaveFifo_does ..)
    | with_reducible apply Does.step (State.setChan_does ..)
    | split
    | intro _
    | dsimp -zeta only

theorem State.finishDescriptor_does (s : State) (c : ℕ) (bad : Option Sys2Proof.MemError) : s.Does [.out, .od, .backdrop, .strand, .side, .dma, .recorder] (State.finishDescriptor s c bad) := by
  unfold State.finishDescriptor
  repeat' first
    | with_reducible exact Does.refl _ _
    | with_reducible assumption
    | decide
    | with_reducible refine Does.pair (by assumption) ?_
    | with_reducible refine Does.pairSnd (by assumption) ?_
    | with_reducible refine Does.foldl ?_ ?_
    | (extract_lets +onlyGivenNames w_
       first
         | (refine Does.keep w_ ?_ ?_
            on_goal 1 => (unfold w_; clear w_)
            on_goal 2 => first | (clear_value w_; intro _; revert w_; intro _ _) | (intro _; revert w_; intro _ _))
         | (refine Does.keep w_.1 ?_ ?_
            on_goal 1 => (unfold w_; clear w_)
            on_goal 2 => first | (clear_value w_; intro _; revert w_; intro _ _) | (intro _; revert w_; intro _ _))
         | (clear_value w_; revert w_; intro _) | (revert w_; intro _))
    | with_reducible apply Does.step (State.followLink_does ..)
    | with_reducible apply Does.step (State.countDescriptor_does ..)
    | split
    | intro _
    | dsimp -zeta only

theorem State.settleHead_does (a0 : ℕ) (a1 : State) : a1.Does [.out, .od, .backdrop, .strand, .side, .dma, .recorder] (State.settleHead a0 a1) := by
  induction a0 generalizing a1 with
  | zero => exact Does.refl _ _
  | succ n ih =>
    unfold State.settleHead
    split
    · exact Does.refl _ _
    · dsimp only
      split
      · exact Does.step (ih _) (fun _ h => h) (Does.mono (State.finishDescriptor_does ..) (by decide))
      · exact Does.refl _ _

theorem State.settleFifo_does (s : State) : s.Does [.out, .od, .backdrop, .strand, .side, .dma, .recorder] (State.settleFifo s) :=
  State.settleHead_does _ _

theorem State.dmaAssert_does (s : State) (code : ℕ) : s.Does [.out, .od, .backdrop, .strand, .side, .dma, .recorder] (State.dmaAssert s code) := by
  unfold State.dmaAssert
  refine Does.step (State.settleFifo_does _) (fun _ h => h) (Does.foldl (fun t c => ?_) (Does.refl _ _))
  dsimp only
  split
  · exact Does.mono (State.joinFifo_does ..) (by decide)
  · split
    · exact Does.mono (State.setChan_does ..) (by decide)
    · exact Does.refl _ _

theorem State.dmaFollow_does (s : State) (code : ℕ) : s.Does [.out, .od, .backdrop, .strand, .side, .dma, .recorder] (State.dmaFollow s code) := by
  unfold State.dmaFollow
  repeat' first
    | with_reducible exact Does.refl _ _
    | with_reducible assumption
    | decide
    | with_reducible refine Does.pair (by assumption) ?_
    | with_reducible refine Does.pairSnd (by assumption) ?_
    | with_reducible refine Does.foldl ?_ ?_
    | (extract_lets +onlyGivenNames w_
       first
         | (refine Does.keep w_ ?_ ?_
            on_goal 1 => (unfold w_; clear w_)
            on_goal 2 => first | (clear_value w_; intro _; revert w_; intro _ _) | (intro _; revert w_; intro _ _))
         | (refine Does.keep w_.1 ?_ ?_
            on_goal 1 => (unfold w_; clear w_)
            on_goal 2 => first | (clear_value w_; intro _; revert w_; intro _ _) | (intro _; revert w_; intro _ _))
         | (clear_value w_; revert w_; intro _) | (revert w_; intro _))
    | with_reducible apply Does.step (State.dmaAssert_does ..)
    | split
    | intro _
    | dsimp -zeta only

theorem State.idle_does (s : State) : s.Does [.clk, .out, .od, .time, .backdrop, .strand, .side, .dma, .recorder] (State.idle s) := by
  unfold State.idle
  repeat' first
    | with_reducible exact Does.refl _ _
    | with_reducible assumption
    | decide
    | with_reducible refine Does.pair (by assumption) ?_
    | with_reducible refine Does.pairSnd (by assumption) ?_
    | with_reducible refine Does.foldl ?_ ?_
    | (extract_lets +onlyGivenNames w_
       first
         | (refine Does.keep w_ ?_ ?_
            on_goal 1 => (unfold w_; clear w_)
            on_goal 2 => first | (clear_value w_; intro _; revert w_; intro _ _) | (intro _; revert w_; intro _ _))
         | (refine Does.keep w_.1 ?_ ?_
            on_goal 1 => (unfold w_; clear w_)
            on_goal 2 => first | (clear_value w_; intro _; revert w_; intro _ _) | (intro _; revert w_; intro _ _))
         | (clear_value w_; revert w_; intro _) | (revert w_; intro _))
    | with_reducible apply Does.step (State.dmaFollow_does ..)
    | with_reducible apply Does.step (State.tickOn_does ..)
    | split
    | intro _
    | dsimp -zeta only

theorem State.freeBurst_does (s : State) : s.Does [.freeCtr] (State.freeBurst s).1 := by
  unfold State.freeBurst
  repeat' first
    | with_reducible exact Does.refl _ _
    | with_reducible assumption
    | decide
    | with_reducible refine Does.pair (by assumption) ?_
    | with_reducible refine Does.pairSnd (by assumption) ?_
    | with_reducible refine Does.foldl ?_ ?_
    | (extract_lets +onlyGivenNames w_
       first
         | (refine Does.keep w_ ?_ ?_
            on_goal 1 => (unfold w_; clear w_)
            on_goal 2 => first | (clear_value w_; intro _; revert w_; intro _ _) | (intro _; revert w_; intro _ _))
         | (refine Does.keep w_.1 ?_ ?_
            on_goal 1 => (unfold w_; clear w_)
            on_goal 2 => first | (clear_value w_; intro _; revert w_; intro _ _) | (intro _; revert w_; intro _ _))
         | (clear_value w_; revert w_; intro _) | (revert w_; intro _))
    | split
    | with_reducible apply Does.step (State.draw_does ..)
    | split
    | intro _
    | dsimp -zeta only

theorem State.dmaAbort_does (s : State) (c : ℕ) (b : Sys2Proof.Burst) (data : List Sys2Proof.Byte) : s.Does [.out, .od, .mem, .backdrop, .strand, .side, .dma, .recorder] (State.dmaAbort s c b data) := by
  unfold State.dmaAbort
  repeat' first
    | with_reducible exact Does.refl _ _
    | with_reducible assumption
    | decide
    | with_reducible refine Does.pair (by assumption) ?_
    | with_reducible refine Does.pairSnd (by assumption) ?_
    | with_reducible refine Does.foldl ?_ ?_
    | (extract_lets +onlyGivenNames w_
       first
         | (refine Does.keep w_ ?_ ?_
            on_goal 1 => (unfold w_; clear w_)
            on_goal 2 => first | (clear_value w_; intro _; revert w_; intro _ _) | (intro _; revert w_; intro _ _))
         | (refine Does.keep w_.1 ?_ ?_
            on_goal 1 => (unfold w_; clear w_)
            on_goal 2 => first | (clear_value w_; intro _; revert w_; intro _ _) | (intro _; revert w_; intro _ _))
         | (clear_value w_; revert w_; intro _) | (revert w_; intro _))
    | with_reducible apply Does.step (State.dmaFail_does ..)
    | with_reducible apply Does.step (State.moveBytes_does ..)
    | with_reducible apply Does.step (State.raiseChan_does ..)
    | with_reducible apply Does.step (State.flushBulk_does ..)
    | with_reducible apply Does.step (State.leaveFifo_does ..)
    | with_reducible apply Does.step (State.setChan_does ..)
    | split
    | intro _
    | dsimp -zeta only

theorem State.dmaAbortFree_does (s : State) (c : ℕ) : s.Does [.freeCtr, .out, .od, .mem, .backdrop, .strand, .side, .dma, .recorder] (State.dmaAbortFree s c) := by
  unfold State.dmaAbortFree
  repeat' first
    | with_reducible exact Does.refl _ _
    | with_reducible assumption
    | decide
    | with_reducible refine Does.pair (by assumption) ?_
    | with_reducible refine Does.pairSnd (by assumption) ?_
    | with_reducible refine Does.foldl ?_ ?_
    | (extract_lets +onlyGivenNames w_
       first
         | (refine Does.keep w_ ?_ ?_
            on_goal 1 => (unfold w_; clear w_)
            on_goal 2 => first | (clear_value w_; intro _; revert w_; intro _ _) | (intro _; revert w_; intro _ _))
         | (refine Does.keep w_.1 ?_ ?_
            on_goal 1 => (unfold w_; clear w_)
            on_goal 2 => first | (clear_value w_; intro _; revert w_; intro _ _) | (intro _; revert w_; intro _ _))
         | (clear_value w_; revert w_; intro _) | (revert w_; intro _))
    | with_reducible apply Does.step (State.dmaAbort_does ..)
    | with_reducible apply Does.step (State.freeBurst_does ..)
    | split
    | intro _
    | dsimp -zeta only

theorem State.fwStart_does (s : State) (c : ℕ) (requestor : ℕ) (n : ℕ) : s.Does [.dma] (State.fwStart s c requestor n) := by
  unfold State.fwStart
  repeat' first
    | with_reducible exact Does.refl _ _
    | with_reducible assumption
    | decide
    | with_reducible refine Does.pair (by assumption) ?_
    | with_reducible refine Does.pairSnd (by assumption) ?_
    | with_reducible refine Does.foldl ?_ ?_
    | (extract_lets +onlyGivenNames w_
       first
         | (refine Does.keep w_ ?_ ?_
            on_goal 1 => (unfold w_; clear w_)
            on_goal 2 => first | (clear_value w_; intro _; revert w_; intro _ _) | (intro _; revert w_; intro _ _))
         | (refine Does.keep w_.1 ?_ ?_
            on_goal 1 => (unfold w_; clear w_)
            on_goal 2 => first | (clear_value w_; intro _; revert w_; intro _ _) | (intro _; revert w_; intro _ _))
         | (have h_ : Dma := w_; clear h_; subst w_)
         | (clear_value w_; revert w_; intro _) | (revert w_; intro _))
    | with_reducible apply Does.step (State.joinFifo_does ..)
    | with_reducible apply Does.step (State.setChan_does ..)
    | exact Or.inr (by decide)
    | exact Or.inl rfl
    | exact fun h => ⟨h.mem, h.od, h.cams, h.time, h.pipe, h.tracker, h.drive, h.seqs, h.loops, h.thermal, h.backdrop, h.strand, h.dict, h.side, h.pins, by first | exact h.dma | simpa [Dma.shaped] using h.dma | (have hh := h.dma; clear h; simp_all [Dma.shaped]), h.recorder⟩
    | split
    | intro _
    | dsimp -zeta only
    | with_reducible apply Does.parts

theorem State.holdHead_does (s : State) (c : ℕ) (b : Sys2Proof.Burst) (data : List Sys2Proof.Byte) : s.Does [.out, .od, .mem, .backdrop, .strand, .side, .dma, .recorder] (State.holdHead s c b data) := by
  unfold State.holdHead
  repeat' first
    | with_reducible exact Does.refl _ _
    | with_reducible assumption
    | decide
    | with_reducible refine Does.pair (by assumption) ?_
    | with_reducible refine Does.pairSnd (by assumption) ?_
    | with_reducible refine Does.foldl ?_ ?_
    | (extract_lets +onlyGivenNames w_
       first
         | (refine Does.keep w_ ?_ ?_
            on_goal 1 => (unfold w_; clear w_)
            on_goal 2 => first | (clear_value w_; intro _; revert w_; intro _ _) | (intro _; revert w_; intro _ _))
         | (refine Does.keep w_.1 ?_ ?_
            on_goal 1 => (unfold w_; clear w_)
            on_goal 2 => first | (clear_value w_; intro _; revert w_; intro _ _) | (intro _; revert w_; intro _ _))
         | (clear_value w_; revert w_; intro _) | (revert w_; intro _))
    | with_reducible apply Does.step (State.finishDescriptor_does ..)
    | with_reducible apply Does.step (State.dmaFail_does ..)
    | with_reducible apply Does.step (State.moveBytes_does ..)
    | with_reducible apply Does.step (State.setChan_does ..)
    | split
    | intro _
    | dsimp -zeta only

theorem State.traceRelease_does (s : State) (t : ℕ) : s.Does [.freeCtr, .out, .od, .mem, .backdrop, .strand, .side, .dma, .recorder] (State.traceRelease s t) := by
  unfold State.traceRelease
  repeat' first
    | with_reducible exact Does.refl _ _
    | with_reducible assumption
    | decide
    | with_reducible refine Does.pair (by assumption) ?_
    | with_reducible refine Does.pairSnd (by assumption) ?_
    | with_reducible refine Does.foldl ?_ ?_
    | (extract_lets +onlyGivenNames w_
       first
         | (refine Does.keep w_ ?_ ?_
            on_goal 1 => (unfold w_; clear w_)
            on_goal 2 => first | (clear_value w_; intro _; revert w_; intro _ _) | (intro _; revert w_; intro _ _))
         | (refine Does.keep w_.1 ?_ ?_
            on_goal 1 => (unfold w_; clear w_)
            on_goal 2 => first | (clear_value w_; intro _; revert w_; intro _ _) | (intro _; revert w_; intro _ _))
         | (clear_value w_; revert w_; intro _) | (revert w_; intro _))
    | with_reducible apply Does.step (State.settleFifo_does ..)
    | with_reducible apply Does.step (State.holdHead_does ..)
    | with_reducible apply Does.step (State.freeBurst_does ..)
    | split
    | intro _
    | dsimp -zeta only

theorem State.fwEnd_does (s : State) (c : ℕ) : s.Does [.out, .od, .backdrop, .strand, .side, .dma, .recorder] (State.fwEnd s c) := by
  unfold State.fwEnd
  repeat' first
    | with_reducible exact Does.refl _ _
    | with_reducible assumption
    | decide
    | with_reducible refine Does.pair (by assumption) ?_
    | with_reducible refine Does.pairSnd (by assumption) ?_
    | with_reducible refine Does.foldl ?_ ?_
    | (extract_lets +onlyGivenNames w_
       first
         | (refine Does.keep w_ ?_ ?_
            on_goal 1 => (unfold w_; clear w_)
            on_goal 2 => first | (clear_value w_; intro _; revert w_; intro _ _) | (intro _; revert w_; intro _ _))
         | (refine Does.keep w_.1 ?_ ?_
            on_goal 1 => (unfold w_; clear w_)
            on_goal 2 => first | (clear_value w_; intro _; revert w_; intro _ _) | (intro _; revert w_; intro _ _))
         | (have h_ : Dma := w_; clear h_; subst w_)
         | (clear_value w_; revert w_; intro _) | (revert w_; intro _))
    | with_reducible apply Does.step (State.settleFifo_does ..)
    | with_reducible apply Does.step (State.raiseChan_does ..)
    | with_reducible apply Does.step (State.countDescriptor_does ..)
    | with_reducible apply Does.step (State.bumpBy_does ..)
    | with_reducible apply Does.step (State.leaveFifo_does ..)
    | with_reducible apply Does.step (State.setChan_does ..)
    | exact Or.inr (by decide)
    | exact Or.inl rfl
    | exact fun h => ⟨h.mem, h.od, h.cams, h.time, h.pipe, h.tracker, h.drive, h.seqs, h.loops, h.thermal, h.backdrop, h.strand, h.dict, h.side, h.pins, by first | exact h.dma | simpa [Dma.shaped] using h.dma | (have hh := h.dma; clear h; simp_all [Dma.shaped]), h.recorder⟩
    | split
    | intro _
    | dsimp -zeta only
    | with_reducible apply Does.parts

theorem State.dmaPowerFail_does (s : State) : s.Does [.freeCtr, .out, .od, .mem, .backdrop, .strand, .side, .dma, .recorder] (State.dmaPowerFail s) := by
  unfold State.dmaPowerFail
  repeat' first
    | with_reducible exact Does.refl _ _
    | with_reducible assumption
    | decide
    | with_reducible refine Does.pair (by assumption) ?_
    | with_reducible refine Does.pairSnd (by assumption) ?_
    | with_reducible refine Does.foldl ?_ ?_
    | (extract_lets +onlyGivenNames w_
       first
         | (refine Does.keep w_ ?_ ?_
            on_goal 1 => (unfold w_; clear w_)
            on_goal 2 => first | (clear_value w_; intro _; revert w_; intro _ _) | (intro _; revert w_; intro _ _))
         | (refine Does.keep w_.1 ?_ ?_
            on_goal 1 => (unfold w_; clear w_)
            on_goal 2 => first | (clear_value w_; intro _; revert w_; intro _ _) | (intro _; revert w_; intro _ _))
         | (clear_value w_; revert w_; intro _) | (revert w_; intro _))
    | with_reducible apply Does.step (State.settleFifo_does ..)
    | with_reducible apply Does.step (State.dmaAbortFree_does ..)
    | split
    | intro _
    | dsimp -zeta only

theorem State.fwRun_does (s : State) (c : ℕ) (requestor : ℕ) (n : ℕ) : s.Does [.out, .od, .backdrop, .strand, .side, .dma, .recorder] (State.fwRun s c requestor n) := by
  unfold State.fwRun
  repeat' first
    | with_reducible exact Does.refl _ _
    | with_reducible assumption
    | decide
    | with_reducible refine Does.pair (by assumption) ?_
    | with_reducible refine Does.pairSnd (by assumption) ?_
    | with_reducible refine Does.foldl ?_ ?_
    | (extract_lets +onlyGivenNames w_
       first
         | (refine Does.keep w_ ?_ ?_
            on_goal 1 => (unfold w_; clear w_)
            on_goal 2 => first | (clear_value w_; intro _; revert w_; intro _ _) | (intro _; revert w_; intro _ _))
         | (refine Does.keep w_.1 ?_ ?_
            on_goal 1 => (unfold w_; clear w_)
            on_goal 2 => first | (clear_value w_; intro _; revert w_; intro _ _) | (intro _; revert w_; intro _ _))
         | (have h_ : Dma := w_; clear h_; subst w_)
         | (clear_value w_; revert w_; intro _) | (revert w_; intro _))
    | with_reducible apply Does.step (State.raiseChan_does ..)
    | with_reducible apply Does.step (State.countDescriptor_does ..)
    | with_reducible apply Does.step (State.bumpBy_does ..)
    | with_reducible apply Does.step (State.setChan_does ..)
    | exact Or.inr (by decide)
    | exact Or.inl rfl
    | exact fun h => ⟨h.mem, h.od, h.cams, h.time, h.pipe, h.tracker, h.drive, h.seqs, h.loops, h.thermal, h.backdrop, h.strand, h.dict, h.side, h.pins, by first | exact h.dma | simpa [Dma.shaped] using h.dma | (have hh := h.dma; clear h; simp_all [Dma.shaped]), h.recorder⟩
    | split
    | intro _
    | dsimp -zeta only
    | with_reducible apply Does.parts

end Sys2Proof.Machine
end

