-- ==== Sys2Proof/Laws/Loops.lean ====
section
/-!
SUPPORT. What the operations of Machine/Loops.lean do.
-/
set_option Elab.async false
set_option linter.all false

namespace Sys2Proof.Machine

theorem actLoopBank_does (n : ℕ) (which : ℕ) (b : List Sys2Proof.Byte) (s : State) : s.Does [.od] (actLoopBank n which b s).1 := by
  unfold actLoopBank
  repeat' first
    | with_reducible exact Does.refl _ _
    | decide
    | (extract_lets +onlyGivenNames w_
       first
         | (clear_value w_; revert w_; intro _) | (revert w_; intro _))
    | with_reducible apply Does.step (State.put_does ..)
    | split

theorem State.setSlot_does (s : State) (n : ℕ) (x : LoopSlot) : s.Does [.loops] (State.setSlot s n x) := by
  unfold State.setSlot
  repeat' first
    | with_reducible exact Does.refl _ _
    | exact Or.inr (by decide)
    | exact Or.inl rfl
    | exact fun h => ⟨h.mem, h.od, h.cams, h.time, h.pipe, h.tracker, h.drive, h.seqs, by first | exact ⟨h.loops.1, h.loops.2.1, h.loops.2.2⟩ | simpa [Loops.shaped] using h.loops | (have hh := h.loops; clear h; simp_all [Loops.shaped]), h.thermal, h.backdrop, h.strand, h.dict, h.side, h.pins, h.dma, h.recorder⟩
    | with_reducible apply Does.parts

theorem State.swapBank_does (s : State) (n : ℕ) : s.Does [.out, .od, .loops, .backdrop, .strand, .side, .recorder] (State.swapBank s n) := by
  unfold State.swapBank
  repeat' first
    | with_reducible exact Does.refl _ _
    | with_reducible assumption
    | decide
    | with_reducible refine Does.pair (by assumption) ?_
    | with_reducible refine Does.pairSnd (by assumption) ?_
    | with_reducible refine Does.foldl ?_ ?_
    | (extract_lets +onlyGivenNames w_
       first
         | (refine Does.keep w_ ?_ ?_
            on_goal 1 => (unfold w_; clear w_)
            on_goal 2 => first | (clear_value w_; intro _; revert w_; intro _ _) | (intro _; revert w_; intro _ _))
         | (refine Does.keep w_.1 ?_ ?_
            on_goal 1 => (unfold w_; clear w_)
            on_goal 2 => first | (clear_value w_; intro _; revert w_; intro _ _) | (intro _; revert w_; intro _ _))
         | (clear_value w_; revert w_; intro _) | (revert w_; intro _))
    | with_reducible apply Does.step (State.raise_does ..)
    | with_reducible apply Does.step (State.bump_does ..)
    | with_reducible apply Does.step (State.setSlot_does ..)
    | split
    | intro _
    | dsimp -zeta only

theorem actLoopSwap_does (n : ℕ) (s : State) : s.Does [.out, .od, .loops, .backdrop, .strand, .side, .recorder] (actLoopSwap n s).1 := by
  unfold actLoopSwap
  repeat' first
    | with_reducible exact Does.refl _ _
    | with_reducible assumption
    | decide
    | with_reducible refine Does.pair (by assumption) ?_
    | with_reducible refine Does.pairSnd (by assumption) ?_
    | with_reducible refine Does.foldl ?_ ?_
    | (extract_lets +onlyGivenNames w_
       first
         | (refine Does.keep w_ ?_ ?_
            on_goal 1 => (unfold w_; clear w_)
            on_goal 2 => first | (clear_value w_; intro _; revert w_; intro _ _) | (intro _; revert w_; intro _ _))
         | (refine Does.keep w_.1 ?_ ?_
            on_goal 1 => (unfold w_; clear w_)
            on_goal 2 => first | (clear_value w_; intro _; revert w_; intro _ _) | (intro _; revert w_; intro _ _))
         | (clear_value w_; revert w_; intro _) | (revert w_; intro _))
    | split
    | with_reducible apply Does.step (State.swapBank_does ..)
    | with_reducible apply Does.step (State.setSlot_does ..)
    | split
    | intro _
    | dsimp -zeta only

theorem State.setTrace_does (s : State) (t : ℕ) (x : Trace) : s.Does [.loops] (State.setTrace s t x) := by
  unfold State.setTrace
  repeat' first
    | with_reducible exact Does.refl _ _
    | exact Or.inr (by decide)
    | exact Or.inl rfl
    | exact fun h => ⟨h.mem, h.od, h.cams, h.time, h.pipe, h.tracker, h.drive, h.seqs, by first | exact ⟨h.loops.1, h.loops.2.1, h.loops.2.2⟩ | simpa [Loops.shaped] using h.loops | (have hh := h.loops; clear h; simp_all [Loops.shaped]), h.thermal, h.backdrop, h.strand, h.dict, h.side, h.pins, h.dma, h.recorder⟩
    | with_reducible apply Does.parts

theorem State.traceStore_does (s : State) (t : ℕ) : s.Does [.out, .od, .loops, .backdrop, .strand, .side, .dma, .recorder] (State.traceStore s t) := by
  unfold State.traceStore
  repeat' first
    | with_reducible exact Does.refl _ _
    | with_reducible assumption
    | decide
    | with_reducible refine Does.pair (by assumption) ?_
    | with_reducible refine Does.pairSnd (by assumption) ?_
    | with_reducible refine Does.foldl ?_ ?_
    | (extract_lets +onlyGivenNames w_
       first
         | (refine Does.keep w_ ?_ ?_
            on_goal 1 => (unfold w_; clear w_)
            on_goal 2 => first | (clear_value w_; intro _; revert w_; intro _ _) | (intro _; revert w_; intro _ _))
         | (refine Does.keep w_.1 ?_ ?_
            on_goal 1 => (unfold w_; clear w_)
            on_goal 2 => first | (clear_value w_; intro _; revert w_; intro _ _) | (intro _; revert w_; intro _ _))
         | (clear_value w_; revert w_; intro _) | (revert w_; intro _))
    | with_reducible apply Does.step (State.dmaFollow_does ..)
    | with_reducible apply Does.step (State.setTrace_does ..)
    | split
    | intro _
    | dsimp -zeta only

theorem State.startLoops_does (s : State) : s.Does [.loops] (State.startLoops s) := by
  unfold State.startLoops
  repeat' first
    | with_reducible exact Does.refl _ _
    | exact Or.inr (by decide)
    | exact Or.inl rfl
    | exact fun h => ⟨h.mem, h.od, h.cams, h.time, h.pipe, h.tracker, h.drive, h.seqs, by first | exact ⟨h.loops.1, h.loops.2.1, h.loops.2.2⟩ | simpa [Loops.shaped] using h.loops | (have hh := h.loops; clear h; simp_all [Loops.shaped]), h.thermal, h.backdrop, h.strand, h.dict, h.side, h.pins, h.dma, h.recorder⟩
    | with_reducible apply Does.parts

theorem State.traceTrigger_does (s : State) (t : ℕ) : s.Does [.loops] (State.traceTrigger s t) := by
  unfold State.traceTrigger
  repeat' first
    | with_reducible exact Does.refl _ _
    | decide
    | (extract_lets +onlyGivenNames w_
       first
         | (clear_value w_; revert w_; intro _) | (revert w_; intro _))
    | with_reducible apply Does.step (State.setTrace_does ..)
    | split

theorem actTraceForce_does (t : ℕ) (s : State) : s.Does [.loops] (actTraceForce t s).1 := by
  unfold actTraceForce
  repeat' first
    | with_reducible exact Does.refl _ _
    | decide
    | with_reducible apply Does.step (State.traceTrigger_does ..)

theorem State.fanSpeedIn_does (s : State) (fan : ℕ) (rpm : ℚ) : s.Does [.loops] (State.fanSpeedIn s fan rpm) := by
  unfold State.fanSpeedIn
  repeat' first
    | with_reducible exact Does.refl _ _
    | with_reducible assumption
    | decide
    | with_reducible refine Does.pair (by assumption) ?_
    | with_reducible refine Does.pairSnd (by assumption) ?_
    | with_reducible refine Does.foldl ?_ ?_
    | (extract_lets +onlyGivenNames w_
       first
         | (refine Does.keep w_ ?_ ?_
            on_goal 1 => (unfold w_; clear w_)
            on_goal 2 => first | (clear_value w_; intro _; revert w_; intro _ _) | (intro _; revert w_; intro _ _))
         | (refine Does.keep w_.1 ?_ ?_
            on_goal 1 => (unfold w_; clear w_)
            on_goal 2 => first | (clear_value w_; intro _; revert w_; intro _ _) | (intro _; revert w_; intro _ _))
         | (have h_ : Loops := w_; clear h_; subst w_)
         | (clear_value w_; revert w_; intro _) | (revert w_; intro _))
    | exact Or.inr (by decide)
    | exact Or.inl rfl
    | exact fun h => ⟨h.mem, h.od, h.cams, h.time, h.pipe, h.tracker, h.drive, h.seqs, by first | exact ⟨h.loops.1, h.loops.2.1, h.loops.2.2⟩ | simpa [Loops.shaped] using h.loops | (have hh := h.loops; clear h; simp_all [Loops.shaped]), h.thermal, h.backdrop, h.strand, h.dict, h.side, h.pins, h.dma, h.recorder⟩
    | split
    | intro _
    | dsimp -zeta only
    | with_reducible apply Does.parts

theorem State.settleOut_does (s : State) (o : ℕ) : s.Does [.out, .loops] (State.settleOut s o) := by
  unfold State.settleOut
  repeat' first
    | with_reducible exact Does.refl _ _
    | with_reducible assumption
    | decide
    | with_reducible refine Does.pair (by assumption) ?_
    | with_reducible refine Does.pairSnd (by assumption) ?_
    | with_reducible refine Does.foldl ?_ ?_
    | (extract_lets +onlyGivenNames w_
       first
         | (refine Does.keep w_ ?_ ?_
            on_goal 1 => (unfold w_; clear w_)
            on_goal 2 => first | (clear_value w_; intro _; revert w_; intro _ _) | (intro _; revert w_; intro _ _))
         | (refine Does.keep w_.1 ?_ ?_
            on_goal 1 => (unfold w_; clear w_)
            on_goal 2 => first | (clear_value w_; intro _; revert w_; intro _ _) | (intro _; revert w_; intro _ _))
         | (have h_ : Loops := w_; clear h_; subst w_)
         | (clear_value w_; revert w_; intro _) | (revert w_; intro _))
    | with_reducible apply Does.step (State.emit_does ..)
    | exact Or.inr (by decide)
    | exact Or.inl rfl
    | exact fun h => ⟨h.mem, h.od, h.cams, h.time, h.pipe, h.tracker, h.drive, h.seqs, by first | exact ⟨h.loops.1, h.loops.2.1, h.loops.2.2⟩ | simpa [Loops.shaped] using h.loops | (have hh := h.loops; clear h; simp_all [Loops.shaped]), h.thermal, h.backdrop, h.strand, h.dict, h.side, h.pins, h.dma, h.recorder⟩
    | split
    | intro _
    | dsimp -zeta only
    | with_reducible apply Does.parts

theorem State.driveOut_does (s : State) (n : ℕ) (v : ℚ) : s.Does [.out, .loops] (State.driveOut s n v) := by
  unfold State.driveOut
  repeat' first
    | with_reducible exact Does.refl _ _
    | with_reducible assumption
    | decide
    | with_reducible refine Does.pair (by assumption) ?_
    | with_reducible refine Does.pairSnd (by assumption) ?_
    | with_reducible refine Does.foldl ?_ ?_
    | (extract_lets +onlyGivenNames w_
       first
         | (refine Does.keep w_ ?_ ?_
            on_goal 1 => (unfold w_; clear w_)
            on_goal 2 => first | (clear_value w_; intro _; revert w_; intro _ _) | (intro _; revert w_; intro _ _))
         | (refine Does.keep w_.1 ?_ ?_
            on_goal 1 => (unfold w_; clear w_)
            on_goal 2 => first | (clear_value w_; intro _; revert w_; intro _ _) | (intro _; revert w_; intro _ _))
         | (clear_value w_; revert w_; intro _) | (revert w_; intro _))
    | with_reducible apply Does.step (State.settleOut_does ..)
    | with_reducible apply Does.step (State.setSlot_does ..)
    | split
    | intro _
    | dsimp -zeta only

theorem State.safeOut_does (s : State) (n : ℕ) : s.Does [.out, .loops] (State.safeOut s n) := by
  unfold State.safeOut
  repeat' first
    | with_reducible exact Does.refl _ _
    | decide
    | with_reducible apply Does.step (State.driveOut_does ..)
    | split

theorem State.traceLoopFault_does (s : State) : s.Does [.loops] (State.traceLoopFault s) := by
  unfold State.traceLoopFault
  repeat' first
    | with_reducible exact Does.refl _ _
    | decide
    | with_reducible refine Does.foldl ?_ ?_
    | with_reducible apply Does.step (State.traceTrigger_does ..)
    | split
    | intro _

theorem actTraceStop_does (t : ℕ) (s : State) : s.Does [.loops] (actTraceStop t s).1 := by
  unfold actTraceStop
  repeat' first
    | with_reducible exact Does.refl _ _
    | decide
    | (extract_lets +onlyGivenNames w_
       first
         | (clear_value w_; revert w_; intro _) | (revert w_; intro _))
    | with_reducible apply Does.step (State.setTrace_does ..)
    | split

theorem State.settleOuts_does (s : State) : s.Does [.out, .loops] (State.settleOuts s) := by
  unfold State.settleOuts
  repeat' first
    | with_reducible exact Does.refl _ _
    | with_reducible assumption
    | decide
    | with_reducible refine Does.pair (by assumption) ?_
    | with_reducible refine Does.pairSnd (by assumption) ?_
    | with_reducible refine Does.foldl ?_ ?_
    | (extract_lets +onlyGivenNames w_
       first
         | (refine Does.keep w_ ?_ ?_
            on_goal 1 => (unfold w_; clear w_)
            on_goal 2 => first | (clear_value w_; intro _; revert w_; intro _ _) | (intro _; revert w_; intro _ _))
         | (refine Does.keep w_.1 ?_ ?_
            on_goal 1 => (unfold w_; clear w_)
            on_goal 2 => first | (clear_value w_; intro _; revert w_; intro _ _) | (intro _; revert w_; intro _ _))
         | (clear_value w_; revert w_; intro _) | (revert w_; intro _))
    | with_reducible apply Does.step (State.settleOut_does ..)
    | split
    | intro _
    | dsimp -zeta only

theorem State.stopLoops_does (s : State) : s.Does [.out, .loops] (State.stopLoops s) := by
  unfold State.stopLoops
  repeat' first
    | with_reducible exact Does.refl _ _
    | with_reducible assumption
    | decide
    | with_reducible refine Does.pair (by assumption) ?_
    | with_reducible refine Does.pairSnd (by assumption) ?_
    | with_reducible refine Does.foldl ?_ ?_
    | (extract_lets +onlyGivenNames w_
       first
         | (refine Does.keep w_ ?_ ?_
            on_goal 1 => (unfold w_; clear w_)
            on_goal 2 => first | (clear_value w_; intro _; revert w_; intro _ _) | (intro _; revert w_; intro _ _))
         | (refine Does.keep w_.1 ?_ ?_
            on_goal 1 => (unfold w_; clear w_)
            on_goal 2 => first | (clear_value w_; intro _; revert w_; intro _ _) | (intro _; revert w_; intro _ _))
         | (have h_ : Loops := w_; clear h_; subst w_)
         | (clear_value w_; revert w_; intro _) | (revert w_; intro _))
    | with_reducible apply Does.step (State.safeOut_does ..)
    | with_reducible apply Does.step (State.settleOuts_does ..)
    | exact Or.inr (by decide)
    | exact Or.inl rfl
    | exact fun h => ⟨h.mem, h.od, h.cams, h.time, h.pipe, h.tracker, h.drive, h.seqs, by first | exact ⟨h.loops.1, h.loops.2.1, h.loops.2.2⟩ | simpa [Loops.shaped] using h.loops | (have hh := h.loops; clear h; simp_all [Loops.shaped]), h.thermal, h.backdrop, h.strand, h.dict, h.side, h.pins, h.dma, h.recorder⟩
    | split
    | intro _
    | dsimp -zeta only
    | with_reducible apply Does.parts

theorem State.traceClock_does (s : State) (t : ℕ) : s.Does [.loops] (State.traceClock s t) := by
  unfold State.traceClock
  repeat' first
    | with_reducible exact Does.refl _ _
    | with_reducible assumption
    | (extract_lets +onlyGivenNames w_
       first
         | (refine Does.keep w_ ?_ ?_
            on_goal 1 => (unfold w_; clear w_)
            on_goal 2 => first | (clear_value w_; intro _; revert w_; intro _ _) | (intro _; revert w_; intro _ _))
         | (clear_value w_; revert w_; intro _) | (revert w_; intro _))
    | with_reducible apply Does.step (State.traceTrigger_does ..)
    | with_reducible apply Does.step (State.setTrace_does ..)
    | split
    | intro _

theorem State.computeSample_does (s : State) (n : ℕ) (ys : ℚ) (r : ℚ) : s.Does [.out, .od, .loops, .backdrop, .strand, .side, .recorder] (State.computeSample s n ys r).1 := by
  unfold State.computeSample
  repeat' first
    | with_reducible exact Does.refl _ _
    | with_reducible assumption
    | decide
    | with_reducible refine Does.pair (by assumption) ?_
    | with_reducible refine Does.pairSnd (by assumption) ?_
    | with_reducible refine Does.foldl ?_ ?_
    | (extract_lets +onlyGivenNames w_
       first
         | (refine Does.keep w_ ?_ ?_
            on_goal 1 => (unfold w_; clear w_)
            on_goal 2 => first | (clear_value w_; intro _; revert w_; intro _ _) | (intro _; revert w_; intro _ _))
         | (refine Does.keep w_.1 ?_ ?_
            on_goal 1 => (unfold w_; clear w_)
            on_goal 2 => first | (clear_value w_; intro _; revert w_; intro _ _) | (intro _; revert w_; intro _ _))
         | (clear_value w_; revert w_; intro _) | (revert w_; intro _))
    | split
    | with_reducible apply Does.step (State.swapBank_does ..)
    | with_reducible apply Does.step (State.bump_does ..)
    | with_reducible apply Does.step (State.driveOut_does ..)
    | with_reducible apply Does.step (State.setSlot_does ..)
    | split
    | intro _
    | dsimp -zeta only

theorem State.leaveLive_does (s : State) (n : ℕ) : s.Does [.out, .od, .loops, .backdrop, .strand, .side, .recorder] (State.leaveLive s n) := by
  unfold State.leaveLive
  repeat' first
    | with_reducible exact Does.refl _ _
    | with_reducible assumption
    | decide
    | with_reducible refine Does.pair (by assumption) ?_
    | with_reducible refine Does.pairSnd (by assumption) ?_
    | with_reducible refine Does.foldl ?_ ?_
    | (extract_lets +onlyGivenNames w_
       first
         | (refine Does.keep w_ ?_ ?_
            on_goal 1 => (unfold w_; clear w_)
            on_goal 2 => first | (clear_value w_; intro _; revert w_; intro _ _) | (intro _; revert w_; intro _ _))
         | (refine Does.keep w_.1 ?_ ?_
            on_goal 1 => (unfold w_; clear w_)
            on_goal 2 => first | (clear_value w_; intro _; revert w_; intro _ _) | (intro _; revert w_; intro _ _))
         | (clear_value w_; revert w_; intro _) | (revert w_; intro _))
    | with_reducible apply Does.step (State.swapBank_does ..)
    | with_reducible apply Does.step (State.setSlot_does ..)
    | split
    | intro _
    | dsimp -zeta only

theorem State.resumeSlot_does (s : State) (n : ℕ) : s.Does [.loops] (State.resumeSlot s n) := by
  unfold State.resumeSlot
  repeat' first
    | with_reducible exact Does.refl _ _
    | with_reducible assumption
    | decide
    | with_reducible refine Does.pair (by assumption) ?_
    | with_reducible refine Does.pairSnd (by assumption) ?_
    | with_reducible refine Does.foldl ?_ ?_
    | (extract_lets +onlyGivenNames w_
       first
         | (refine Does.keep w_ ?_ ?_
            on_goal 1 => (unfold w_; clear w_)
            on_goal 2 => first | (clear_value w_; intro _; revert w_; intro _ _) | (intro _; revert w_; intro _ _))
         | (refine Does.keep w_.1 ?_ ?_
            on_goal 1 => (unfold w_; clear w_)
            on_goal 2 => first | (clear_value w_; intro _; revert w_; intro _ _) | (intro _; revert w_; intro _ _))
         | (clear_value w_; revert w_; intro _) | (revert w_; intro _))
    | with_reducible apply Does.step (State.setSlot_does ..)
    | split
    | intro _
    | dsimp -zeta only

theorem State.loopsAfterStep_does (s : State) : s.Does [.loops] (State.loopsAfterStep s) := by
  unfold State.loopsAfterStep
  repeat' first
    | with_reducible exact Does.refl _ _
    | with_reducible assumption
    | decide
    | with_reducible refine Does.pair (by assumption) ?_
    | with_reducible refine Does.pairSnd (by assumption) ?_
    | with_reducible refine Does.foldl ?_ ?_
    | (extract_lets +onlyGivenNames w_
       first
         | (refine Does.keep w_ ?_ ?_
            on_goal 1 => (unfold w_; clear w_)
            on_goal 2 => first | (clear_value w_; intro _; revert w_; intro _ _) | (intro _; revert w_; intro _ _))
         | (refine Does.keep w_.1 ?_ ?_
            on_goal 1 => (unfold w_; clear w_)
            on_goal 2 => first | (clear_value w_; intro _; revert w_; intro _ _) | (intro _; revert w_; intro _ _))
         | (have h_ : Loops := w_; clear h_; subst w_)
         | (clear_value w_; revert w_; intro _) | (revert w_; intro _))
    | with_reducible apply Does.step (State.resumeSlot_does ..)
    | exact Or.inr (by decide)
    | exact Or.inl rfl
    | exact fun h => ⟨h.mem, h.od, h.cams, h.time, h.pipe, h.tracker, h.drive, h.seqs, by first | exact ⟨h.loops.1, h.loops.2.1, h.loops.2.2⟩ | simpa [Loops.shaped] using h.loops | (have hh := h.loops; clear h; simp_all [Loops.shaped]), h.thermal, h.backdrop, h.strand, h.dict, h.side, h.pins, h.dma, h.recorder⟩
    | split
    | intro _
    | dsimp -zeta only
    | with_reducible apply Does.parts

theorem State.enterParked_does (s : State) (n : ℕ) : s.Does [.out, .od, .loops, .backdrop, .strand, .side, .recorder] (State.enterParked s n) := by
  unfold State.enterParked
  repeat' first
    | with_reducible exact Does.refl _ _
    | with_reducible assumption
    | decide
    | with_reducible refine Does.pair (by assumption) ?_
    | with_reducible refine Does.pairSnd (by assumption) ?_
    | with_reducible refine Does.foldl ?_ ?_
    | (extract_lets +onlyGivenNames w_
       first
         | (refine Does.keep w_ ?_ ?_
            on_goal 1 => (unfold w_; clear w_)
            on_goal 2 => first | (clear_value w_; intro _; revert w_; intro _ _) | (intro _; revert w_; intro _ _))
         | (refine Does.keep w_.1 ?_ ?_
            on_goal 1 => (unfold w_; clear w_)
            on_goal 2 => first | (clear_value w_; intro _; revert w_; intro _ _) | (intro _; revert w_; intro _ _))
         | (clear_value w_; revert w_; intro _) | (revert w_; intro _))
    | with_reducible apply Does.step (State.leaveLive_does ..)
    | with_reducible apply Does.step (State.driveOut_does ..)
    | with_reducible apply Does.step (State.setSlot_does ..)
    | split
    | intro _
    | dsimp -zeta only

theorem actTraceArm_does (t : ℕ) (s : State) : s.Does [.freeCtr, .out, .od, .mem, .loops, .backdrop, .strand, .side, .dma, .recorder] (actTraceArm t s).1 := by
  unfold actTraceArm
  repeat' first
    | with_reducible exact Does.refl _ _
    | with_reducible assumption
    | decide
    | with_reducible refine Does.pair (by assumption) ?_
    | with_reducible refine Does.pairSnd (by assumption) ?_
    | with_reducible refine Does.foldl ?_ ?_
    | (extract_lets +onlyGivenNames w_
       first
         | (refine Does.keep w_ ?_ ?_
            on_goal 1 => (unfold w_; clear w_)
            on_goal 2 => first | (clear_value w_; intro _; revert w_; intro _ _) | (intro _; revert w_; intro _ _))
         | (refine Does.keep w_.1 ?_ ?_
            on_goal 1 => (unfold w_; clear w_)
            on_goal 2 => first | (clear_value w_; intro _; revert w_; intro _ _) | (intro _; revert w_; intro _ _))
         | (clear_value w_; revert w_; intro _) | (revert w_; intro _))
    | split
    | with_reducible apply Does.step (State.traceRelease_does ..)
    | with_reducible apply Does.step (State.setTrace_does ..)
    | split
    | intro _
    | dsimp -zeta only

theorem State.enterWarmUp_does (s : State) (n : ℕ) : s.Does [.loops] (State.enterWarmUp s n) := by
  unfold State.enterWarmUp
  repeat' first
    | with_reducible exact Does.refl _ _
    | decide
    | with_reducible apply Does.step (State.setSlot_does ..)

theorem State.loopsRecheck_does (s : State) : s.Does [.out, .od, .loops, .backdrop, .strand, .side, .recorder] (State.loopsRecheck s) := by
  unfold State.loopsRecheck
  repeat' first
    | with_reducible exact Does.refl _ _
    | with_reducible assumption
    | decide
    | with_reducible refine Does.pair (by assumption) ?_
    | with_reducible refine Does.pairSnd (by assumption) ?_
    | with_reducible refine Does.foldl ?_ ?_
    | (extract_lets +onlyGivenNames w_
       first
         | (refine Does.keep w_ ?_ ?_
            on_goal 1 => (unfold w_; clear w_)
            on_goal 2 => first | (clear_value w_; intro _; revert w_; intro _ _) | (intro _; revert w_; intro _ _))
         | (refine Does.keep w_.1 ?_ ?_
            on_goal 1 => (unfold w_; clear w_)
            on_goal 2 => first | (clear_value w_; intro _; revert w_; intro _ _) | (intro _; revert w_; intro _ _))
         | (clear_value w_; revert w_; intro _) | (revert w_; intro _))
    | with_reducible apply Does.step (State.enterParked_does ..)
    | with_reducible apply Does.step (State.settleOuts_does ..)
    | with_reducible apply Does.step (State.enterWarmUp_does ..)
    | split
    | intro _
    | dsimp -zeta only

theorem State.enterAuto_does (s : State) (n : ℕ) : s.Does [.out, .od, .loops, .backdrop, .strand, .side, .recorder] (State.enterAuto s n) := by
  unfold State.enterAuto
  repeat' first
    | with_reducible exact Does.refl _ _
    | with_reducible assumption
    | decide
    | with_reducible refine Does.pair (by assumption) ?_
    | with_reducible refine Does.pairSnd (by assumption) ?_
    | with_reducible refine Does.foldl ?_ ?_
    | (extract_lets +onlyGivenNames w_
       first
         | (refine Does.keep w_ ?_ ?_
            on_goal 1 => (unfold w_; clear w_)
            on_goal 2 => first | (clear_value w_; intro _; revert w_; intro _ _) | (intro _; revert w_; intro _ _))
         | (refine Does.keep w_.1 ?_ ?_
            on_goal 1 => (unfold w_; clear w_)
            on_goal 2 => first | (clear_value w_; intro _; revert w_; intro _ _) | (intro _; revert w_; intro _ _))
         | (clear_value w_; revert w_; intro _) | (revert w_; intro _))
    | with_reducible apply Does.step (State.enterParked_does ..)
    | with_reducible apply Does.step (State.enterWarmUp_does ..)
    | split
    | intro _
    | dsimp -zeta only

theorem actLoopEnable_does (n : ℕ) (value : ℕ) (s : State) : s.Does [.out, .od, .loops, .backdrop, .strand, .side, .recorder] (actLoopEnable n value s).1 := by
  unfold actLoopEnable
  repeat' first
    | with_reducible exact Does.refl _ _
    | with_reducible assumption
    | decide
    | with_reducible refine Does.pair (by assumption) ?_
    | with_reducible refine Does.pairSnd (by assumption) ?_
    | with_reducible refine Does.foldl ?_ ?_
    | (extract_lets +onlyGivenNames w_
       first
         | (refine Does.keep w_ ?_ ?_
            on_goal 1 => (unfold w_; clear w_)
            on_goal 2 => first | (clear_value w_; intro _; revert w_; intro _ _) | (intro _; revert w_; intro _ _))
         | (refine Does.keep w_.1 ?_ ?_
            on_goal 1 => (unfold w_; clear w_)
            on_goal 2 => first | (clear_value w_; intro _; revert w_; intro _ _) | (intro _; revert w_; intro _ _))
         | (clear_value w_; revert w_; intro _) | (revert w_; intro _))
    | split
    | with_reducible apply Does.step (State.enterAuto_does ..)
    | with_reducible apply Does.step (State.leaveLive_does ..)
    | with_reducible apply Does.step (State.keep_does ..)
    | with_reducible apply Does.step (State.driveOut_does ..)
    | with_reducible apply Does.step (State.settleOuts_does ..)
    | with_reducible apply Does.step (State.setSlot_does ..)
    | split
    | intro _
    | dsimp -zeta only

theorem State.readAins_does (s : State) (ains : List ℤ) : s.Does [.loops] (State.readAins s ains) := by
  unfold State.readAins
  repeat' first
    | with_reducible exact Does.refl _ _
    | exact Or.inr (by decide)
    | exact Or.inl rfl
    | exact fun h => ⟨h.mem, h.od, h.cams, h.time, h.pipe, h.tracker, h.drive, h.seqs, by first | exact ⟨h.loops.1, h.loops.2.1, h.loops.2.2⟩ | exact ⟨h.loops.1, by simp [h.loops.2.1], h.loops.2.2⟩, h.thermal, h.backdrop, h.strand, h.dict, h.side, h.pins, h.dma, h.recorder⟩
    | with_reducible apply Does.parts

theorem State.loopFault_does (s : State) (n : ℕ) (cause : ℕ) : s.Does [.out, .od, .loops, .backdrop, .strand, .side, .recorder] (State.loopFault s n cause) := by
  unfold State.loopFault
  repeat' first
    | with_reducible exact Does.refl _ _
    | with_reducible assumption
    | decide
    | with_reducible refine Does.pair (by assumption) ?_
    | with_reducible refine Does.pairSnd (by assumption) ?_
    | with_reducible refine Does.foldl ?_ ?_
    | (extract_lets +onlyGivenNames w_
       first
         | (refine Does.keep w_ ?_ ?_
            on_goal 1 => (unfold w_; clear w_)
            on_goal 2 => first | (clear_value w_; intro _; revert w_; intro _ _) | (intro _; revert w_; intro _ _))
         | (refine Does.keep w_.1 ?_ ?_
            on_goal 1 => (unfold w_; clear w_)
            on_goal 2 => first | (clear_value w_; intro _; revert w_; intro _ _) | (intro _; revert w_; intro _ _))
         | (clear_value w_; revert w_; intro _) | (revert w_; intro _))
    | with_reducible apply Does.step (State.leaveLive_does ..)
    | with_reducible apply Does.step (State.bump_does ..)
    | with_reducible apply Does.step (State.safeOut_does ..)
    | with_reducible apply Does.step (State.traceLoopFault_does ..)
    | with_reducible apply Does.step (State.setSlot_does ..)
    | split
    | intro _
    | dsimp -zeta only

theorem actLoopRearm_does (n : ℕ) (s : State) : s.Does [.out, .od, .loops, .backdrop, .strand, .side, .recorder] (actLoopRearm n s).1 := by
  unfold actLoopRearm
  repeat' first
    | with_reducible exact Does.refl _ _
    | with_reducible assumption
    | decide
    | with_reducible apply Does.step (State.raise_does ..)
    | with_reducible apply Does.step (State.enterAuto_does ..)
    | with_reducible apply Does.step (State.setSlot_does ..)
    | split

theorem State.tracesOfSlot_does (s : State) (n : ℕ) : s.Does [.loops] (State.tracesOfSlot s n) := by
  unfold State.tracesOfSlot
  repeat' first
    | with_reducible exact Does.refl _ _
    | decide
    | with_reducible refine Does.foldl ?_ ?_
    | with_reducible apply Does.step (State.traceClock_does ..)
    | split
    | intro _

end Sys2Proof.Machine
end

