-- ==== Sys2Proof/Laws/Ledger.lean ====
section
/-!
SUPPORT. What the operations of Machine/Ledger.lean do.
-/
set_option Elab.async false
set_option linter.all false

namespace Sys2Proof.Machine

theorem State.setLedger_does (s : State) (d : LedgerData) : s.Does [.ledger] (State.setLedger s d) := by
  unfold State.setLedger
  repeat' first
    | with_reducible exact Does.refl _ _
    | exact Or.inr (by decide)
    | exact Or.inl rfl
    | exact fun h => ⟨h.mem, h.od, h.cams, h.time, h.pipe, h.tracker, h.drive, h.seqs, h.loops, h.thermal, h.backdrop, h.strand, h.dict, h.side, h.pins, h.dma, h.recorder⟩
    | with_reducible apply Does.parts

theorem State.closeRise_does (s : State) : s.Does [.out, .od, .ledger, .backdrop, .strand, .side, .recorder] (State.closeRise s) := by
  unfold State.closeRise
  repeat' first
    | with_reducible exact Does.refl _ _
    | with_reducible assumption
    | decide
    | (extract_lets +onlyGivenNames w_
       first
         | (refine Does.keep w_ ?_ ?_
            on_goal 1 => (unfold w_; clear w_)
            on_goal 2 => first | (clear_value w_; intro _; revert w_; intro _ _) | (intro _; revert w_; intro _ _))
         | (clear_value w_; revert w_; intro _) | (revert w_; intro _))
    | with_reducible apply Does.step (State.raise_does ..)
    | with_reducible apply Does.step (State.setLedger_does ..)
    | split

theorem State.closeCapacitance_does (s : State) : s.Does [.out, .od, .ledger, .backdrop, .strand, .side, .recorder] (State.closeCapacitance s) := by
  unfold State.closeCapacitance
  repeat' first
    | with_reducible exact Does.refl _ _
    | with_reducible assumption
    | decide
    | (extract_lets +onlyGivenNames w_
       first
         | (refine Does.keep w_ ?_ ?_
            on_goal 1 => (unfold w_; clear w_)
            on_goal 2 => first | (clear_value w_; intro _; revert w_; intro _ _) | (intro _; revert w_; intro _ _))
         | (clear_value w_; revert w_; intro _) | (revert w_; intro _))
    | with_reducible apply Does.step (State.raise_does ..)
    | with_reducible apply Does.step (State.setLedger_does ..)
    | split

theorem State.storeLedger_does (s : State) : s.Does [.ledger] (State.storeLedger s) := by
  unfold State.storeLedger
  repeat' first
    | with_reducible exact Does.refl _ _
    | exact Or.inr (by decide)
    | exact Or.inl rfl
    | exact fun h => ⟨h.mem, h.od, h.cams, h.time, h.pipe, h.tracker, h.drive, h.seqs, h.loops, h.thermal, h.backdrop, h.strand, h.dict, h.side, h.pins, h.dma, h.recorder⟩
    | with_reducible apply Does.parts

theorem State.closeStrobe_does (s : State) (n : ℕ) : s.Does [.out, .od, .ledger, .backdrop, .strand, .side, .recorder] (State.closeStrobe s n) := by
  unfold State.closeStrobe
  repeat' first
    | with_reducible exact Does.refl _ _
    | with_reducible assumption
    | decide
    | (extract_lets +onlyGivenNames w_
       first
         | (refine Does.keep w_ ?_ ?_
            on_goal 1 => (unfold w_; clear w_)
            on_goal 2 => first | (clear_value w_; intro _; revert w_; intro _ _) | (intro _; revert w_; intro _ _))
         | (clear_value w_; revert w_; intro _) | (revert w_; intro _))
    | with_reducible apply Does.step (State.raise_does ..)
    | with_reducible apply Does.step (State.setLedger_does ..)
    | split

theorem State.closeDie_does (s : State) : s.Does [.ledger] (State.closeDie s) := by
  unfold State.closeDie
  repeat' first
    | with_reducible exact Does.refl _ _
    | decide
    | with_reducible apply Does.step (State.setLedger_does ..)

theorem State.closeFan_does (s : State) (i : ℕ) : s.Does [.out, .od, .ledger, .backdrop, .strand, .side, .recorder] (State.closeFan s i) := by
  unfold State.closeFan
  repeat' first
    | with_reducible exact Does.refl _ _
    | with_reducible assumption
    | decide
    | (extract_lets +onlyGivenNames w_
       first
         | (refine Does.keep w_ ?_ ?_
            on_goal 1 => (unfold w_; clear w_)
            on_goal 2 => first | (clear_value w_; intro _; revert w_; intro _ _) | (intro _; revert w_; intro _ _))
         | (clear_value w_; revert w_; intro _) | (revert w_; intro _))
    | with_reducible apply Does.step (State.raise_does ..)
    | with_reducible apply Does.step (State.setLedger_does ..)
    | split

theorem State.closeValve_does (s : State) (v : ℕ) : s.Does [.ledger] (State.closeValve s v) := by
  unfold State.closeValve
  repeat' first
    | with_reducible exact Does.refl _ _
    | decide
    | with_reducible apply Does.step (State.setLedgerValve_does ..)

theorem State.testValve_does (s : State) (v : ℕ) : s.Does [.out, .od, .drive, .ledger, .backdrop, .strand, .side, .recorder] (State.testValve s v) := by
  unfold State.testValve
  repeat' first
    | with_reducible exact Does.refl _ _
    | decide
    | (extract_lets +onlyGivenNames w_
       first
         | (clear_value w_; revert w_; intro _) | (revert w_; intro _))
    | with_reducible apply Does.step (State.retire_does ..)
    | split

theorem State.hourlyClose_does (s : State) : s.Does [.out, .od, .drive, .ledger, .backdrop, .strand, .side, .recorder] (State.hourlyClose s) := by
  unfold State.hourlyClose
  repeat' first
    | with_reducible exact Does.refl _ _
    | with_reducible assumption
    | decide
    | with_reducible refine Does.foldl ?_ ?_
    | with_reducible apply Does.step (State.testValve_does ..)
    | with_reducible apply Does.step (State.closeCapacitance_does ..)
    | with_reducible apply Does.step (State.closeRise_does ..)
    | with_reducible apply Does.step (State.closeStrobe_does ..)
    | with_reducible apply Does.step (State.closeFan_does ..)
    | with_reducible apply Does.step (State.closeDie_does ..)
    | with_reducible apply Does.step (State.closeValve_does ..)
    | with_reducible apply Does.step (State.storeLedger_does ..)
    | with_reducible apply Does.step (State.holdVbst_does ..)
    | with_reducible apply Does.step (State.setLedger_does ..)
    | intro _

theorem State.coreStep_does (s : State) : s.Does [.out, .od, .ledger, .backdrop, .strand, .side, .recorder] (State.coreStep s) := by
  unfold State.coreStep
  repeat' first
    | with_reducible exact Does.refl _ _
    | decide
    | (extract_lets +onlyGivenNames w_
       first
         | (clear_value w_; revert w_; intro _) | (revert w_; intro _))
    | with_reducible apply Does.step (State.raise_does ..)
    | with_reducible apply Does.step (State.storeLedger_does ..)
    | with_reducible apply Does.step (State.setLedger_does ..)
    | split

theorem State.ledgerStats_does (s : State) (p : ℕ) (rec : FrameRecord) (record : List Sys2Proof.Byte) : s.Does [.ledger] (State.ledgerStats s p rec record) := by
  unfold State.ledgerStats
  repeat' first
    | with_reducible exact Does.refl _ _
    | decide
    | with_reducible apply Does.step (State.setLedger_does ..)
    | split

theorem State.pendingCoreStep_does (s : State) : s.Does [.out, .od, .ledger, .backdrop, .strand, .side, .recorder] (State.pendingCoreStep s) := by
  unfold State.pendingCoreStep
  repeat' first
    | with_reducible exact Does.refl _ _
    | decide
    | with_reducible apply Does.step (State.coreStep_does ..)
    | split

theorem actValveReplaced_does (v : ℕ) (s : State) : s.Does [.out, .od, .drive, .ledger, .backdrop, .strand, .side, .recorder] (actValveReplaced v s).1 := by
  unfold actValveReplaced
  repeat' first
    | with_reducible exact Does.refl _ _
    | with_reducible assumption
    | decide
    | with_reducible apply Does.step (State.raise_does ..)
    | with_reducible apply Does.step (State.storeLedger_does ..)
    | with_reducible apply Does.step (State.setValve_does ..)
    | with_reducible apply Does.step (State.setLedgerValve_does ..)
    | split

end Sys2Proof.Machine
end

