-- ==== Sys2Proof/Laws/Engines.lean ====
section
/-!
SUPPORT. What the operations of Machine/Engines.lean do.
-/
set_option Elab.async false
set_option linter.all false

namespace Sys2Proof.Machine

theorem State.endCapture_does (s : State) (status : ℕ) (cause : ℕ) : s.Does [.out, .od, .pipe, .backdrop, .strand, .side, .recorder] (State.endCapture s status cause) := by
  unfold State.endCapture
  repeat' first
    | with_reducible exact Does.refl _ _
    | with_reducible assumption
    | decide
    | with_reducible apply Does.step (State.raise_does ..)
    | exact Or.inr (by decide)
    | exact Or.inl rfl
    | exact fun h => ⟨h.mem, h.od, h.cams, h.time, by first | exact ⟨h.pipe.1, h.pipe.2⟩ | simpa [Pipeline.shaped] using h.pipe | (have hh := h.pipe; clear h; simp_all [Pipeline.shaped]), h.tracker, h.drive, h.seqs, h.loops, h.thermal, h.backdrop, h.strand, h.dict, h.side, h.pins, h.dma, h.recorder⟩
    | with_reducible apply Does.parts

theorem State.startCapture_does (s : State) (code : ℕ) (sel : ℕ) : s.Does [.out, .od, .pipe, .backdrop, .strand, .side, .recorder] (State.startCapture s code sel) := by
  unfold State.startCapture
  repeat' first
    | with_reducible exact Does.refl _ _
    | with_reducible assumption
    | with_reducible apply Does.step (State.endCapture_does ..)
    | exact Or.inr (by decide)
    | exact Or.inl rfl
    | exact fun h => ⟨h.mem, h.od, h.cams, h.time, by first | exact ⟨h.pipe.1, h.pipe.2⟩ | simpa [Pipeline.shaped] using h.pipe | (have hh := h.pipe; clear h; simp_all [Pipeline.shaped]), h.tracker, h.drive, h.seqs, h.loops, h.thermal, h.backdrop, h.strand, h.dict, h.side, h.pins, h.dma, h.recorder⟩
    | split
    | intro _
    | with_reducible apply Does.parts

theorem State.emitUpper_does (p : ℕ) (s : State) (frame : ℕ) (cut : Bool) (atLimit : Bool) (b : Blob) : s.Does [.od, .pipe, .recorder] (State.emitUpper p s frame cut atLimit b) := by
  unfold State.emitUpper
  repeat' first
    | with_reducible exact Does.refl _ _
    | with_reducible assumption
    | decide
    | with_reducible refine Does.pair (by assumption) ?_
    | with_reducible refine Does.pairSnd (by assumption) ?_
    | with_reducible refine Does.foldl ?_ ?_
    | (extract_lets +onlyGivenNames w_
       first
         | (refine Does.keep w_ ?_ ?_
            on_goal 1 => (unfold w_; clear w_)
            on_goal 2 => first | (clear_value w_; intro _; revert w_; intro _ _) | (intro _; revert w_; intro _ _))
         | (refine Does.keep w_.1 ?_ ?_
            on_goal 1 => (unfold w_; clear w_)
            on_goal 2 => first | (clear_value w_; intro _; revert w_; intro _ _) | (intro _; revert w_; intro _ _))
         | (have h_ : Pipeline := w_; clear h_; subst w_)
         | (have h_ : Recorder := w_; clear h_; subst w_)
         | (clear_value w_; revert w_; intro _) | (revert w_; intro _))
    | with_reducible apply Does.step (State.bump_does ..)
    | with_reducible apply Does.step (State.setEngine_does ..)
    | exact Or.inr (by decide)
    | exact Or.inl rfl
    | exact fun h => ⟨h.mem, h.od, h.cams, h.time, by first | exact ⟨h.pipe.1, h.pipe.2⟩ | simpa [Pipeline.shaped] using h.pipe | (have hh := h.pipe; clear h; simp_all [Pipeline.shaped]), h.tracker, h.drive, h.seqs, h.loops, h.thermal, h.backdrop, h.strand, h.dict, h.side, h.pins, h.dma, by first | exact ⟨h.recorder.1, h.recorder.2.1, h.recorder.2.2.1, h.recorder.2.2.2.1, h.recorder.2.2.2.2⟩ | simpa [Recorder.shaped] using h.recorder | (have hh := h.recorder; clear h; simp_all [Recorder.shaped])⟩
    | split
    | intro _
    | dsimp -zeta only
    | with_reducible apply Does.parts

theorem State.segment_does {ps : List Part} (hp : Part.pipe ∈ ps) (s : State) (p blobLimit lenLimit : Nat) (row : BlobLine) (padded : List Nat)
    (emit : Emit) (full : State → Nat → State)
    (he : ∀ (t : State) (f : Nat) (c a : Bool) (b : Blob), t.Does ps (emit t f c a b)) (hf : ∀ (t : State) (n : Nat), t.Does ps (full t n)) :
    s.Does ps (s.segment p blobLimit lenLimit row padded emit full) := by
  unfold State.segment
  dsimp only
  have h : ∀ e, s.Does ps (s.setEngine p e) := fun e => Does.mono (State.setEngine_does ..) (by simpa using hp)
  split
  · exact Does.foldl (fun t b => he ..) (Does.foldl (fun t b => he ..) (h _))
  · exact Does.trans (Does.foldl (fun t b => he ..) (Does.foldl (fun t b => he ..) (h _))) (hf ..)

theorem State.emitFix_does (p : ℕ) (s : State) (frame : ℕ) (cut : Bool) (atLimit : Bool) (b : Blob) : s.Does [.od, .pipe] (State.emitFix p s frame cut atLimit b) := by
  unfold State.emitFix
  repeat' first
    | with_reducible exact Does.refl _ _
    | with_reducible assumption
    | decide
    | with_reducible apply Does.step (State.bump_does ..)
    | with_reducible apply Does.step (State.setEngine_does ..)
    | exact Or.inr (by decide)
    | exact Or.inl rfl
    | exact fun h => ⟨h.mem, h.od, h.cams, h.time, by first | exact ⟨h.pipe.1, h.pipe.2⟩ | simpa [Pipeline.shaped] using h.pipe | (have hh := h.pipe; clear h; simp_all [Pipeline.shaped]), h.tracker, h.drive, h.seqs, h.loops, h.thermal, h.backdrop, h.strand, h.dict, h.side, h.pins, h.dma, h.recorder⟩
    | split
    | with_reducible apply Does.parts

theorem State.swapBanks_does (s : State) (number : Option ℕ) (port : ℕ) : s.Does [.out, .od, .pipe, .backdrop, .strand, .side, .recorder] (State.swapBanks s number port) := by
  unfold State.swapBanks
  repeat' first
    | with_reducible exact Does.refl _ _
    | with_reducible assumption
    | decide
    | with_reducible apply Does.step (State.raise_does ..)
    | with_reducible apply Does.step (State.bump_does ..)
    | with_reducible apply Does.step (State.putNat_does ..)
    | exact Or.inr (by decide)
    | exact Or.inl rfl
    | exact fun h => ⟨h.mem, h.od, h.cams, h.time, by first | exact ⟨h.pipe.1, h.pipe.2⟩ | simpa [Pipeline.shaped] using h.pipe | (have hh := h.pipe; clear h; simp_all [Pipeline.shaped]), h.tracker, h.drive, h.seqs, h.loops, h.thermal, h.backdrop, h.strand, h.dict, h.side, h.pins, h.dma, h.recorder⟩
    | split
    | with_reducible apply Does.parts

theorem State.feedCapture_does (s : State) (p : ℕ) (rec : FrameRecord) (lines : List ProcLine) : s.Does [.pipe] (State.feedCapture s p rec lines) := by
  unfold State.feedCapture
  repeat' first
    | with_reducible exact Does.refl _ _
    | exact Or.inr (by decide)
    | exact Or.inl rfl
    | exact fun h => ⟨h.mem, h.od, h.cams, h.time, by first | exact ⟨h.pipe.1, h.pipe.2⟩ | simpa [Pipeline.shaped] using h.pipe | (have hh := h.pipe; clear h; simp_all [Pipeline.shaped]), h.tracker, h.drive, h.seqs, h.loops, h.thermal, h.backdrop, h.strand, h.dict, h.side, h.pins, h.dma, h.recorder⟩
    | split
    | with_reducible apply Does.parts

theorem State.presentCoverage_does (s : State) (p : ℕ) (rec : FrameRecord) (cov : ℕ) (valid : ℕ) : s.Does [.loops] (State.presentCoverage s p rec cov valid) := by
  unfold State.presentCoverage
  repeat' first
    | with_reducible exact Does.refl _ _
    | exact Or.inr (by decide)
    | exact Or.inl rfl
    | exact fun h => ⟨h.mem, h.od, h.cams, h.time, h.pipe, h.tracker, h.drive, h.seqs, by first | exact ⟨h.loops.1, h.loops.2.1, h.loops.2.2⟩ | simpa [Loops.shaped] using h.loops | (have hh := h.loops; clear h; simp_all [Loops.shaped]), h.thermal, h.backdrop, h.strand, h.dict, h.side, h.pins, h.dma, h.recorder⟩
    | split
    | with_reducible apply Does.parts

theorem State.finishFixLine_does (s : State) (p : ℕ) (line : Line) (done : List (Sys2Proof.Pixel × Bool × ℕ)) : s.Does [.out, .od, .pipe, .backdrop, .strand, .side, .recorder] (State.finishFixLine s p line done) := by
  unfold State.finishFixLine
  repeat' first
    | with_reducible exact Does.refl _ _
    | with_reducible assumption
    | decide
    | (extract_lets +onlyGivenNames w_
       first
         | (refine Does.keep w_ ?_ ?_
            on_goal 1 => (unfold w_; clear w_)
            on_goal 2 => first | (clear_value w_; intro _; revert w_; intro _ _) | (intro _; revert w_; intro _ _))
         | (clear_value w_; revert w_; intro _) | (revert w_; intro _))
    | with_reducible apply Does.step (State.raiseSlow_does ..)
    | with_reducible apply Does.step (State.emitFix_does ..)
    | with_reducible apply Does.step (State.bumpBy_does ..)
    | with_reducible refine Does.trans ?_ (State.segment_does (by decide) _ _ _ _ _ _ _ _ ?_ ?_)
    | with_reducible apply Does.step (State.setEngine_does ..)
    | split
    | intro _

theorem State.cutAll_does {ps : List Part} (hp : Part.pipe ∈ ps) (s : State) (p : Nat) (emit : Emit)
    (he : ∀ (t : State) (f : Nat) (c a : Bool) (b : Blob), t.Does ps (emit t f c a b)) : s.Does ps (s.cutAll p emit) := by
  unfold State.cutAll
  dsimp only
  exact Does.foldl (fun t b => he ..) (Does.mono (State.setEngine_does ..) (by simpa using hp))

theorem State.segmentMissing_does {ps : List Part} (hp : Part.pipe ∈ ps) (s : State) (p : Nat) (l : Line) (emit : Emit)
    (he : ∀ (t : State) (f : Nat) (c a : Bool) (b : Blob), t.Does ps (emit t f c a b)) : s.Does ps (s.segmentMissing p l emit) := by
  unfold State.segmentMissing
  dsimp only
  have h : ∀ e, s.Does ps (s.setEngine p e) := fun e => Does.mono (State.setEngine_does ..) (by simpa using hp)
  split
  · exact h _
  · exact Does.trans (h _) (State.cutAll_does hp _ _ _ he)

theorem State.skipMissing_does (a0 : ℕ) (a1 : State) (a2 : ℕ) : a1.Does [.od, .pipe] (State.skipMissing a0 a1 a2) := by
  induction a0 generalizing a1 a2
  all_goals unfold State.skipMissing
  · exact Does.refl _ _
  rename_i ih
  repeat' first
    | with_reducible exact Does.refl _ _
    | with_reducible assumption
    | decide
    | (extract_lets +onlyGivenNames w_
       first
         | (refine Does.keep w_ ?_ ?_
            on_goal 1 => (unfold w_; clear w_)
            on_goal 2 => first | (clear_value w_; intro _; revert w_; intro _ _) | (intro _; revert w_; intro _ _))
         | (clear_value w_; revert w_; intro _) | (revert w_; intro _))
    | with_reducible refine Does.step (ih ..) ?_ ?_
    | with_reducible apply Does.step (State.emitFix_does ..)
    | with_reducible refine Does.trans ?_ (State.segmentMissing_does (by decide) _ _ _ _ ?_)
    | with_reducible apply Does.step (State.setEngine_does ..)
    | split
    | intro _

theorem State.completeStats_does (s : State) (p : ℕ) (rec : FrameRecord) (bank : ℕ) (version : ℕ) (lines : List ProcLine) : s.Does [.od, .mem, .pipe, .ledger, .loops] (State.completeStats s p rec bank version lines) := by
  unfold State.completeStats
  repeat' first
    | with_reducible exact Does.refl _ _
    | with_reducible assumption
    | decide
    | with_reducible apply Does.step (State.ledgerStats_does ..)
    | with_reducible apply Does.step (State.putNat_does ..)
    | with_reducible apply Does.step (State.feedCapture_does ..)
    | with_reducible apply Does.step (State.presentCoverage_does ..)
    | with_reducible apply Does.step (State.setEngine_does ..)
    | with_reducible apply Does.step (State.memWrite_does ..)

theorem State.fixStats_does (a0 : ℕ) (a1 : State) (a2 : ℕ) : a1.Does [.od, .mem, .pipe, .ledger, .loops] (State.fixStats a0 a1 a2) := by
  induction a0 generalizing a1 a2
  all_goals unfold State.fixStats
  · exact Does.refl _ _
  rename_i ih
  repeat' first
    | with_reducible exact Does.refl _ _
    | with_reducible assumption
    | decide
    | (extract_lets +onlyGivenNames w_
       first
         | (refine Does.keep w_ ?_ ?_
            on_goal 1 => (unfold w_; clear w_)
            on_goal 2 => first | (clear_value w_; intro _; revert w_; intro _ _) | (intro _; revert w_; intro _ _))
         | (clear_value w_; revert w_; intro _) | (revert w_; intro _))
    | with_reducible refine Does.step (ih ..) ?_ ?_
    | with_reducible apply Does.step (State.completeStats_does ..)
    | with_reducible apply Does.step (State.setEngine_does ..)
    | split

theorem State.settleFix_does (s : State) (p : ℕ) : s.Does [.od, .mem, .pipe, .ledger, .loops] (State.settleFix s p) := by
  unfold State.settleFix
  repeat' first
    | with_reducible exact Does.refl _ _
    | with_reducible assumption
    | decide
    | (extract_lets +onlyGivenNames w_
       first
         | (refine Does.keep w_ ?_ ?_
            on_goal 1 => (unfold w_; clear w_)
            on_goal 2 => first | (clear_value w_; intro _; revert w_; intro _ _) | (intro _; revert w_; intro _ _)))
    | with_reducible apply Does.step (State.skipMissing_does ..)
    | with_reducible apply Does.step (State.emitFix_does ..)
    | with_reducible apply Does.step (State.fixStats_does ..)
    | with_reducible refine Does.trans ?_ (State.cutAll_does (by decide) _ _ _ ?_)
    | split
    | intro _

theorem State.pruneLines_does (s : State) (p : ℕ) : s.Does [.pipe] (State.pruneLines s p) := by
  unfold State.pruneLines
  repeat' first
    | with_reducible exact Does.refl _ _
    | decide
    | with_reducible apply Does.step (State.setEngine_does ..)

theorem State.settleGrade_does (s : State) (p : ℕ) : s.Does [.od, .pipe, .recorder] (State.settleGrade s p) := by
  unfold State.settleGrade
  repeat' first
    | with_reducible exact Does.refl _ _
    | with_reducible assumption
    | decide
    | with_reducible refine Does.pair (by assumption) ?_
    | with_reducible refine Does.pairSnd (by assumption) ?_
    | with_reducible refine Does.foldl ?_ ?_
    | (extract_lets +onlyGivenNames w_
       first
         | (refine Does.keep w_ ?_ ?_
            on_goal 1 => (unfold w_; clear w_)
            on_goal 2 => first | (clear_value w_; intro _; revert w_; intro _ _) | (intro _; revert w_; intro _ _))
         | (refine Does.keep w_.1 ?_ ?_
            on_goal 1 => (unfold w_; clear w_)
            on_goal 2 => first | (clear_value w_; intro _; revert w_; intro _ _) | (intro _; revert w_; intro _ _))
         | (clear_value w_; revert w_; intro _) | (revert w_; intro _))
    | with_reducible apply Does.step (State.emitUpper_does ..)
    | with_reducible apply Does.step (State.pruneLines_does ..)
    | with_reducible refine Does.trans ?_ (State.cutAll_does (by decide) _ _ _ ?_)
    | with_reducible apply Does.step (State.releaseFrames_does ..)
    | split
    | intro _
    | dsimp -zeta only

theorem State.gradeLine_does (p : ℕ) (ctx : Context) (s : State) (line : Line) : s.Does [.od, .pipe, .recorder] (State.gradeLine p ctx s line) := by
  unfold State.gradeLine
  repeat' first
    | with_reducible exact Does.refl _ _
    | with_reducible assumption
    | decide
    | with_reducible refine Does.pair (by assumption) ?_
    | with_reducible refine Does.pairSnd (by assumption) ?_
    | with_reducible refine Does.foldl ?_ ?_
    | (extract_lets +onlyGivenNames w_
       first
         | (refine Does.keep w_ ?_ ?_
            on_goal 1 => (unfold w_; clear w_)
            on_goal 2 => first | (clear_value w_; intro _; revert w_; intro _ _) | (intro _; revert w_; intro _ _))
         | (refine Does.keep w_.1 ?_ ?_
            on_goal 1 => (unfold w_; clear w_)
            on_goal 2 => first | (clear_value w_; intro _; revert w_; intro _ _) | (intro _; revert w_; intro _ _))
         | (clear_value w_; revert w_; intro _) | (revert w_; intro _))
    | with_reducible apply Does.step (State.emitUpper_does ..)
    | with_reducible refine Does.trans ?_ (State.segmentMissing_does (by decide) _ _ _ _ ?_)
    | with_reducible refine Does.trans ?_ (State.segment_does (by decide) _ _ _ _ _ _ _ _ ?_ ?_)
    | with_reducible apply Does.step (State.setEngine_does ..)
    | split
    | intro _
    | dsimp -zeta only

end Sys2Proof.Machine
end

