-- ==== Sys2Proof/Laws/Panels.lean ====
section
/-!
SUPPORT. What the operations of Machine/Panels.lean do.
-/
set_option Elab.async false
set_option linter.all false

namespace Sys2Proof.Machine

theorem State.setPanel_does (s : State) (p : ℕ) (x : Panel) : s.Does [.backdrop] (State.setPanel s p x) := by
  unfold State.setPanel
  repeat' first
    | with_reducible exact Does.refl _ _
    | exact Or.inr (by decide)
    | exact Or.inl rfl
    | exact fun h => ⟨h.mem, h.od, h.cams, h.time, h.pipe, h.tracker, h.drive, h.seqs, h.loops, h.thermal, by first | exact ⟨h.backdrop.1, h.backdrop.2.1, h.backdrop.2.2⟩ | simpa [Backdrop.shaped] using h.backdrop | (have hh := h.backdrop; clear h; simp_all [Backdrop.shaped]), h.strand, h.dict, h.side, h.pins, h.dma, h.recorder⟩
    | with_reducible apply Does.parts

theorem State.drawStrip_does (s : State) (text : List ℕ) : s.Does [.backdrop] (State.drawStrip s text) := by
  unfold State.drawStrip
  repeat' first
    | with_reducible exact Does.refl _ _
    | with_reducible assumption
    | decide
    | with_reducible refine Does.pair (by assumption) ?_
    | with_reducible refine Does.pairSnd (by assumption) ?_
    | with_reducible refine Does.foldl ?_ ?_
    | (extract_lets +onlyGivenNames w_
       first
         | (refine Does.keep w_ ?_ ?_
            on_goal 1 => (unfold w_; clear w_)
            on_goal 2 => first | (clear_value w_; intro _; revert w_; intro _ _) | (intro _; revert w_; intro _ _))
         | (refine Does.keep w_.1 ?_ ?_
            on_goal 1 => (unfold w_; clear w_)
            on_goal 2 => first | (clear_value w_; intro _; revert w_; intro _ _) | (intro _; revert w_; intro _ _))
         | (clear_value w_; revert w_; intro _) | (revert w_; intro _))
    | with_reducible apply Does.step (State.setPanel_does ..)
    | split
    | intro _
    | dsimp -zeta only

theorem State.islandDraw_does (s : State) (text : List ℕ) : s.Does [.out, .backdrop] (State.islandDraw s text) := by
  unfold State.islandDraw
  repeat' first
    | with_reducible exact Does.refl _ _
    | with_reducible assumption
    | decide
    | with_reducible refine Does.pair (by assumption) ?_
    | with_reducible refine Does.pairSnd (by assumption) ?_
    | with_reducible refine Does.foldl ?_ ?_
    | (extract_lets +onlyGivenNames w_
       first
         | (refine Does.keep w_ ?_ ?_
            on_goal 1 => (unfold w_; clear w_)
            on_goal 2 => first | (clear_value w_; intro _; revert w_; intro _ _) | (intro _; revert w_; intro _ _))
         | (refine Does.keep w_.1 ?_ ?_
            on_goal 1 => (unfold w_; clear w_)
            on_goal 2 => first | (clear_value w_; intro _; revert w_; intro _ _) | (intro _; revert w_; intro _ _))
         | (have h_ : Backdrop := w_; clear h_; subst w_)
         | (clear_value w_; revert w_; intro _) | (revert w_; intro _))
    | with_reducible apply Does.step (State.drawStrip_does ..)
    | with_reducible apply Does.step (State.emit_does ..)
    | exact Or.inr (by decide)
    | exact Or.inl rfl
    | exact fun h => ⟨h.mem, h.od, h.cams, h.time, h.pipe, h.tracker, h.drive, h.seqs, h.loops, h.thermal, by first | exact ⟨h.backdrop.1, h.backdrop.2.1, h.backdrop.2.2⟩ | simpa [Backdrop.shaped] using h.backdrop | (have hh := h.backdrop; clear h; simp_all [Backdrop.shaped]), h.strand, h.dict, h.side, h.pins, h.dma, h.recorder⟩
    | split
    | intro _
    | dsimp -zeta only
    | with_reducible apply Does.parts

theorem State.rewriteHalf_does (s : State) (p : ℕ) (d : List Sys2Proof.Byte) : s.Does [.update] (State.rewriteHalf s p d) := by
  unfold State.rewriteHalf
  repeat' first
    | with_reducible exact Does.refl _ _
    | with_reducible assumption
    | decide
    | with_reducible refine Does.pair (by assumption) ?_
    | with_reducible refine Does.pairSnd (by assumption) ?_
    | with_reducible refine Does.foldl ?_ ?_
    | (extract_lets +onlyGivenNames w_
       first
         | (refine Does.keep w_ ?_ ?_
            on_goal 1 => (unfold w_; clear w_)
            on_goal 2 => first | (clear_value w_; intro _; revert w_; intro _ _) | (intro _; revert w_; intro _ _))
         | (refine Does.keep w_.1 ?_ ?_
            on_goal 1 => (unfold w_; clear w_)
            on_goal 2 => first | (clear_value w_; intro _; revert w_; intro _ _) | (intro _; revert w_; intro _ _))
         | (clear_value w_; revert w_; intro _) | (revert w_; intro _))
    | exact Or.inr (by decide)
    | exact Or.inl rfl
    | exact fun h => ⟨h.mem, h.od, h.cams, h.time, h.pipe, h.tracker, h.drive, h.seqs, h.loops, h.thermal, h.backdrop, h.strand, h.dict, h.side, h.pins, h.dma, h.recorder⟩
    | split
    | intro _
    | dsimp -zeta only
    | with_reducible apply Does.parts

theorem State.railsDown_does (s : State) (t : ℕ) : s.Does [.clk, .out, .time, .backdrop] (State.railsDown s t) := by
  unfold State.railsDown
  repeat' first
    | with_reducible exact Does.refl _ _
    | with_reducible assumption
    | decide
    | with_reducible refine Does.pair (by assumption) ?_
    | with_reducible refine Does.pairSnd (by assumption) ?_
    | with_reducible refine Does.foldl ?_ ?_
    | (extract_lets +onlyGivenNames w_
       first
         | (refine Does.keep w_ ?_ ?_
            on_goal 1 => (unfold w_; clear w_)
            on_goal 2 => first | (clear_value w_; intro _; revert w_; intro _ _) | (intro _; revert w_; intro _ _))
         | (refine Does.keep w_.1 ?_ ?_
            on_goal 1 => (unfold w_; clear w_)
            on_goal 2 => first | (clear_value w_; intro _; revert w_; intro _ _) | (intro _; revert w_; intro _ _))
         | (have h_ : Backdrop := w_; clear h_; subst w_)
         | (clear_value w_; revert w_; intro _) | (revert w_; intro _))
    | with_reducible apply Does.step (State.atClk_does ..)
    | with_reducible apply Does.step (State.emit_does ..)
    | exact Or.inr (by decide)
    | exact Or.inl rfl
    | exact fun h => ⟨h.mem, h.od, h.cams, h.time, h.pipe, h.tracker, h.drive, h.seqs, h.loops, h.thermal, by first | exact ⟨h.backdrop.1, h.backdrop.2.1, h.backdrop.2.2⟩ | simpa [Backdrop.shaped] using h.backdrop | (have hh := h.backdrop; clear h; simp_all [Backdrop.shaped]), h.strand, h.dict, h.side, h.pins, h.dma, h.recorder⟩
    | split
    | intro _
    | dsimp -zeta only
    | with_reducible apply Does.parts

theorem State.leaveSlot_does (s : State) (i : Nat) (x : RegionSlot) : s.Does [.backdrop] (s.leaveSlot i x) :=
  Does.backdrop _ fun h => ⟨h.1, by simpa using h.2.1, h.2.2⟩

theorem State.startUpdate_does (s : State) (i : ℕ) (x : RegionSlot) (q : RegionReq) (first : Option ℕ) : s.Does [.od, .backdrop] (State.startUpdate s i x q first) := by
  unfold State.startUpdate
  repeat' first
    | with_reducible exact Does.refl _ _
    | with_reducible assumption
    | decide
    | with_reducible refine Does.pair (by assumption) ?_
    | with_reducible refine Does.pairSnd (by assumption) ?_
    | with_reducible refine Does.foldl ?_ ?_
    | (extract_lets +onlyGivenNames w_
       first
         | (refine Does.keep w_ ?_ ?_
            on_goal 1 => (unfold w_; clear w_)
            on_goal 2 => first | (clear_value w_; intro _; revert w_; intro _ _) | (intro _; revert w_; intro _ _))
         | (refine Does.keep w_.1 ?_ ?_
            on_goal 1 => (unfold w_; clear w_)
            on_goal 2 => first | (clear_value w_; intro _; revert w_; intro _ _) | (intro _; revert w_; intro _ _))
         | (clear_value w_; revert w_; intro _) | (revert w_; intro _))
    | with_reducible apply Does.step (State.bump_does ..)
    | with_reducible apply Does.step (State.leaveSlot_does ..)
    | split
    | intro _
    | dsimp -zeta only

theorem State.railsOff_does (s : State) : s.Does [.out] (State.railsOff s) := by
  unfold State.railsOff
  repeat' first
    | with_reducible exact Does.refl _ _
    | with_reducible assumption
    | decide
    | with_reducible refine Does.pair (by assumption) ?_
    | with_reducible refine Does.pairSnd (by assumption) ?_
    | with_reducible refine Does.foldl ?_ ?_
    | (extract_lets +onlyGivenNames w_
       first
         | (refine Does.keep w_ ?_ ?_
            on_goal 1 => (unfold w_; clear w_)
            on_goal 2 => first | (clear_value w_; intro _; revert w_; intro _ _) | (intro _; revert w_; intro _ _))
         | (refine Does.keep w_.1 ?_ ?_
            on_goal 1 => (unfold w_; clear w_)
            on_goal 2 => first | (clear_value w_; intro _; revert w_; intro _ _) | (intro _; revert w_; intro _ _))
         | (clear_value w_; revert w_; intro _) | (revert w_; intro _))
    | with_reducible apply Does.step (State.emit_does ..)
    | split
    | intro _
    | dsimp -zeta only

theorem State.railFault_does (s : State) (rail : ℕ) : s.Does [.out, .od, .backdrop, .strand, .side, .recorder] (State.railFault s rail) := by
  unfold State.railFault
  repeat' first
    | with_reducible exact Does.refl _ _
    | with_reducible assumption
    | decide
    | with_reducible refine Does.pair (by assumption) ?_
    | with_reducible refine Does.pairSnd (by assumption) ?_
    | with_reducible refine Does.foldl ?_ ?_
    | (extract_lets +onlyGivenNames w_
       first
         | (refine Does.keep w_ ?_ ?_
            on_goal 1 => (unfold w_; clear w_)
            on_goal 2 => first | (clear_value w_; intro _; revert w_; intro _ _) | (intro _; revert w_; intro _ _))
         | (refine Does.keep w_.1 ?_ ?_
            on_goal 1 => (unfold w_; clear w_)
            on_goal 2 => first | (clear_value w_; intro _; revert w_; intro _ _) | (intro _; revert w_; intro _ _))
         | (have h_ : Backdrop := w_; clear h_; subst w_)
         | (clear_value w_; revert w_; intro _) | (revert w_; intro _))
    | with_reducible apply Does.step (State.raise_does ..)
    | with_reducible apply Does.step (State.bump_does ..)
    | with_reducible apply Does.step (State.railsOff_does ..)
    | exact Or.inr (by decide)
    | exact Or.inl rfl
    | exact fun h => ⟨h.mem, h.od, h.cams, h.time, h.pipe, h.tracker, h.drive, h.seqs, h.loops, h.thermal, by first | exact ⟨h.backdrop.1, h.backdrop.2.1, h.backdrop.2.2⟩ | simpa [Backdrop.shaped] using h.backdrop | (have hh := h.backdrop; clear h; simp_all [Backdrop.shaped]), h.strand, h.dict, h.side, h.pins, h.dma, h.recorder⟩
    | split
    | intro _
    | dsimp -zeta only
    | with_reducible apply Does.parts

theorem State.setStrobe_does (s : State) (n : ℕ) (x : StrobeCh) : s.Does [.backdrop] (State.setStrobe s n x) := by
  unfold State.setStrobe
  repeat' first
    | with_reducible exact Does.refl _ _
    | exact Or.inr (by decide)
    | exact Or.inl rfl
    | exact fun h => ⟨h.mem, h.od, h.cams, h.time, h.pipe, h.tracker, h.drive, h.seqs, h.loops, h.thermal, by first | exact ⟨h.backdrop.1, h.backdrop.2.1, h.backdrop.2.2⟩ | simpa [Backdrop.shaped] using h.backdrop | (have hh := h.backdrop; clear h; simp_all [Backdrop.shaped]), h.strand, h.dict, h.side, h.pins, h.dma, h.recorder⟩
    | with_reducible apply Does.parts

theorem State.testStrobe_does (s : State) (n : ℕ) : s.Does [.out, .od, .backdrop, .strand, .side, .recorder] (State.testStrobe s n) := by
  unfold State.testStrobe
  repeat' first
    | with_reducible exact Does.refl _ _
    | with_reducible assumption
    | decide
    | (extract_lets +onlyGivenNames w_
       first
         | (refine Does.keep w_ ?_ ?_
            on_goal 1 => (unfold w_; clear w_)
            on_goal 2 => first | (clear_value w_; intro _; revert w_; intro _ _) | (intro _; revert w_; intro _ _))
         | (clear_value w_; revert w_; intro _) | (revert w_; intro _))
    | with_reducible apply Does.step (State.raise_does ..)
    | with_reducible apply Does.step (State.setStrobe_does ..)
    | split

theorem actStrobeEnable_does (n : ℕ) (value : ℕ) (s : State) : s.Does [.out, .od, .backdrop, .strand, .side, .recorder] (actStrobeEnable n value s).1 := by
  unfold actStrobeEnable
  repeat' first
    | with_reducible exact Does.refl _ _
    | with_reducible assumption
    | decide
    | with_reducible apply Does.step (State.testStrobe_does ..)
    | with_reducible apply Does.step (State.keep_does ..)
    | with_reducible apply Does.step (State.setStrobe_does ..)
    | split

theorem State.cutPulse_does (s : State) (n : ℕ) : s.Does [.out, .backdrop] (State.cutPulse s n) := by
  unfold State.cutPulse
  repeat' first
    | with_reducible exact Does.refl _ _
    | with_reducible assumption
    | decide
    | with_reducible refine Does.pair (by assumption) ?_
    | with_reducible refine Does.pairSnd (by assumption) ?_
    | with_reducible refine Does.foldl ?_ ?_
    | (extract_lets +onlyGivenNames w_
       first
         | (refine Does.keep w_ ?_ ?_
            on_goal 1 => (unfold w_; clear w_)
            on_goal 2 => first | (clear_value w_; intro _; revert w_; intro _ _) | (intro _; revert w_; intro _ _))
         | (refine Does.keep w_.1 ?_ ?_
            on_goal 1 => (unfold w_; clear w_)
            on_goal 2 => first | (clear_value w_; intro _; revert w_; intro _ _) | (intro _; revert w_; intro _ _))
         | (have h_ : Backdrop := w_; clear h_; subst w_)
         | (clear_value w_; revert w_; intro _) | (revert w_; intro _))
    | with_reducible apply Does.step (State.emit_does ..)
    | exact Or.inr (by decide)
    | exact Or.inl rfl
    | exact fun h => ⟨h.mem, h.od, h.cams, h.time, h.pipe, h.tracker, h.drive, h.seqs, h.loops, h.thermal, by first | exact ⟨h.backdrop.1, h.backdrop.2.1, h.backdrop.2.2⟩ | simpa [Backdrop.shaped] using h.backdrop | (have hh := h.backdrop; clear h; simp_all [Backdrop.shaped]), h.strand, h.dict, h.side, h.pins, h.dma, h.recorder⟩
    | split
    | intro _
    | dsimp -zeta only
    | with_reducible apply Does.parts

theorem State.reachGrey_does (s : State) : s.Does [.pipe, .backdrop] (State.reachGrey s) := by
  unfold State.reachGrey
  repeat' first
    | with_reducible exact Does.refl _ _
    | with_reducible assumption
    | decide
    | with_reducible refine Does.pair (by assumption) ?_
    | with_reducible refine Does.pairSnd (by assumption) ?_
    | with_reducible refine Does.foldl ?_ ?_
    | (extract_lets +onlyGivenNames w_
       first
         | (refine Does.keep w_ ?_ ?_
            on_goal 1 => (unfold w_; clear w_)
            on_goal 2 => first | (clear_value w_; intro _; revert w_; intro _ _) | (intro _; revert w_; intro _ _))
         | (refine Does.keep w_.1 ?_ ?_
            on_goal 1 => (unfold w_; clear w_)
            on_goal 2 => first | (clear_value w_; intro _; revert w_; intro _ _) | (intro _; revert w_; intro _ _))
         | (have h_ : Pipeline := w_; clear h_; subst w_)
         | (have h_ : Backdrop := w_; clear h_; subst w_)
         | (clear_value w_; revert w_; intro _) | (revert w_; intro _))
    | exact Or.inr (by decide)
    | exact Or.inl rfl
    | exact fun h => ⟨h.mem, h.od, h.cams, h.time, by first | exact ⟨h.pipe.1, h.pipe.2⟩ | simpa [Pipeline.shaped] using h.pipe | (have hh := h.pipe; clear h; simp_all [Pipeline.shaped]), h.tracker, h.drive, h.seqs, h.loops, h.thermal, by first | exact ⟨h.backdrop.1, h.backdrop.2.1, h.backdrop.2.2⟩ | simpa [Backdrop.shaped] using h.backdrop | (have hh := h.backdrop; clear h; simp_all [Backdrop.shaped]), h.strand, h.dict, h.side, h.pins, h.dma, h.recorder⟩
    | split
    | intro _
    | dsimp -zeta only
    | with_reducible apply Does.parts

theorem State.endRun_does (s : State) (run : PanelRun) : s.Does [.out, .od, .pipe, .backdrop, .strand, .side, .recorder] (State.endRun s run) := by
  unfold State.endRun
  repeat' first
    | with_reducible exact Does.refl _ _
    | with_reducible assumption
    | decide
    | with_reducible refine Does.pair (by assumption) ?_
    | with_reducible refine Does.pairSnd (by assumption) ?_
    | with_reducible refine Does.foldl ?_ ?_
    | (extract_lets +onlyGivenNames w_
       first
         | (refine Does.keep w_ ?_ ?_
            on_goal 1 => (unfold w_; clear w_)
            on_goal 2 => first | (clear_value w_; intro _; revert w_; intro _ _) | (intro _; revert w_; intro _ _))
         | (refine Does.keep w_.1 ?_ ?_
            on_goal 1 => (unfold w_; clear w_)
            on_goal 2 => first | (clear_value w_; intro _; revert w_; intro _ _) | (intro _; revert w_; intro _ _))
         | (have h_ : Backdrop := w_; clear h_; subst w_)
         | (clear_value w_; revert w_; intro _) | (revert w_; intro _))
    | with_reducible apply Does.step (State.raiseAs_does ..)
    | with_reducible apply Does.step (State.bump_does ..)
    | with_reducible apply Does.step (State.reachGrey_does ..)
    | exact Or.inr (by decide)
    | exact Or.inl rfl
    | exact fun h => ⟨h.mem, h.od, h.cams, h.time, h.pipe, h.tracker, h.drive, h.seqs, h.loops, h.thermal, by first | exact ⟨h.backdrop.1, h.backdrop.2.1, h.backdrop.2.2⟩ | simpa [Backdrop.shaped] using h.backdrop | (have hh := h.backdrop; clear h; simp_all [Backdrop.shaped]), h.strand, h.dict, h.side, h.pins, h.dma, h.recorder⟩
    | split
    | intro _
    | dsimp -zeta only
    | with_reducible apply Does.parts

theorem State.settlePhase_does (n : Nat) (s : State) (run : PanelRun) :
    s.Does [.out, .od, .pipe, .backdrop, .strand, .side, .recorder] (State.settlePhase n s run).1 := by
  induction n generalizing s run with
  | zero => exact Does.mono (Does.backdrop _ id) (by decide)
  | succ n ih =>
    unfold State.settlePhase
    split
    · exact Does.mono (Does.backdrop _ id) (by decide)
    · split
      · exact Does.mono (State.endRun_does ..) (by decide)
      · exact ih ..

theorem State.setCells_does (s : State) (rects : List RegionReq) (level : ℕ) (clearCharge : Bool) : s.Does [.backdrop] (State.setCells s rects level clearCharge) := by
  unfold State.setCells
  repeat' first
    | with_reducible exact Does.refl _ _
    | decide
    | with_reducible refine Does.foldl ?_ ?_
    | with_reducible apply Does.step (State.setPanel_does ..)
    | intro _

theorem State.pairOf_does (s : State) (r : RegionRun) : s.Does [.out, .od, .backdrop, .strand, .side, .recorder] (State.pairOf s r) := by
  unfold State.pairOf
  repeat' first
    | with_reducible exact Does.refl _ _
    | with_reducible assumption
    | decide
    | (extract_lets +onlyGivenNames w_
       first
         | (refine Does.keep w_ ?_ ?_
            on_goal 1 => (unfold w_; clear w_)
            on_goal 2 => first | (clear_value w_; intro _; revert w_; intro _ _) | (intro _; revert w_; intro _ _))
         | (clear_value w_; revert w_; intro _) | (revert w_; intro _))
    | with_reducible apply Does.step (State.raiseSlow_does ..)
    | with_reducible apply Does.step (State.bumpBy_does ..)
    | with_reducible apply Does.step (State.setPanel_does ..)
    | split

theorem State.runPair_does (s : State) : s.Does [.clk, .out, .od, .time, .pipe, .backdrop, .strand, .side, .recorder] (State.runPair s).1 := by
  unfold State.runPair
  repeat' first
    | with_reducible exact Does.refl _ _
    | with_reducible assumption
    | decide
    | with_reducible refine Does.pair (by assumption) ?_
    | with_reducible refine Does.pairSnd (by assumption) ?_
    | with_reducible refine Does.foldl ?_ ?_
    | (extract_lets +onlyGivenNames w_
       first
         | (refine Does.keep w_ ?_ ?_
            on_goal 1 => (unfold w_; clear w_)
            on_goal 2 => first | (clear_value w_; intro _; revert w_; intro _ _) | (intro _; revert w_; intro _ _))
         | (refine Does.keep w_.1 ?_ ?_
            on_goal 1 => (unfold w_; clear w_)
            on_goal 2 => first | (clear_value w_; intro _; revert w_; intro _ _) | (intro _; revert w_; intro _ _))
         | (have h_ : Backdrop := w_; clear h_; subst w_)
         | (clear_value w_; revert w_; intro _) | (revert w_; intro _))
    | split
    | with_reducible apply Does.step (State.pairOf_does ..)
    | with_reducible apply Does.step (State.settlePhase_does ..)
    | with_reducible apply Does.step (State.raise_does ..)
    | with_reducible apply Does.step (State.bump_does ..)
    | with_reducible apply Does.step (State.atClk_does ..)
    | with_reducible apply Does.step (State.setCells_does ..)
    | exact Or.inr (by decide)
    | exact Or.inl rfl
    | exact fun h => ⟨h.mem, h.od, h.cams, h.time, h.pipe, h.tracker, h.drive, h.seqs, h.loops, h.thermal, by first | exact ⟨h.backdrop.1, h.backdrop.2.1, h.backdrop.2.2⟩ | simpa [Backdrop.shaped] using h.backdrop | (have hh := h.backdrop; clear h; simp_all [Backdrop.shaped]), h.strand, h.dict, h.side, h.pins, h.dma, h.recorder⟩
    | split
    | intro _
    | dsimp -zeta only
    | with_reducible apply Does.parts

theorem State.slotPair_does (s : State) (i : ℕ) : s.Does [.clk, .out, .od, .time, .backdrop, .strand, .side, .recorder] (State.slotPair s i) := by
  unfold State.slotPair
  repeat' first
    | with_reducible exact Does.refl _ _
    | with_reducible assumption
    | decide
    | with_reducible refine Does.pair (by assumption) ?_
    | with_reducible refine Does.pairSnd (by assumption) ?_
    | with_reducible refine Does.foldl ?_ ?_
    | (extract_lets +onlyGivenNames w_
       first
         | (refine Does.keep w_ ?_ ?_
            on_goal 1 => (unfold w_; clear w_)
            on_goal 2 => first | (clear_value w_; intro _; revert w_; intro _ _) | (intro _; revert w_; intro _ _))
         | (refine Does.keep w_.1 ?_ ?_
            on_goal 1 => (unfold w_; clear w_)
            on_goal 2 => first | (clear_value w_; intro _; revert w_; intro _ _) | (intro _; revert w_; intro _ _))
         | (have h_ : Backdrop := w_; clear h_; subst w_)
         | (clear_value w_; revert w_; intro _) | (revert w_; intro _))
    | with_reducible apply Does.step (State.pairOf_does ..)
    | with_reducible apply Does.step (State.startUpdate_does ..)
    | with_reducible apply Does.step (State.bump_does ..)
    | with_reducible apply Does.step (State.atClk_does ..)
    | with_reducible apply Does.step (State.leaveSlot_does ..)
    | exact Or.inr (by decide)
    | exact Or.inl rfl
    | exact fun h => ⟨h.mem, h.od, h.cams, h.time, h.pipe, h.tracker, h.drive, h.seqs, h.loops, h.thermal, by first | exact ⟨h.backdrop.1, h.backdrop.2.1, h.backdrop.2.2⟩ | simpa [Backdrop.shaped] using h.backdrop | (have hh := h.backdrop; clear h; simp_all [Backdrop.shaped]), h.strand, h.dict, h.side, h.pins, h.dma, h.recorder⟩
    | split
    | intro _
    | dsimp -zeta only
    | with_reducible apply Does.parts

theorem State.putMaps_does (s : State) : s.Does [.od] (State.putMaps s) := by
  unfold State.putMaps
  repeat' first
    | with_reducible exact Does.refl _ _
    | with_reducible assumption
    | decide
    | with_reducible refine Does.pair (by assumption) ?_
    | with_reducible refine Does.pairSnd (by assumption) ?_
    | with_reducible refine Does.foldl ?_ ?_
    | (extract_lets +onlyGivenNames w_
       first
         | (refine Does.keep w_ ?_ ?_
            on_goal 1 => (unfold w_; clear w_)
            on_goal 2 => first | (clear_value w_; intro _; revert w_; intro _ _) | (intro _; revert w_; intro _ _))
         | (refine Does.keep w_.1 ?_ ?_
            on_goal 1 => (unfold w_; clear w_)
            on_goal 2 => first | (clear_value w_; intro _; revert w_; intro _ _) | (intro _; revert w_; intro _ _))
         | (clear_value w_; revert w_; intro _) | (revert w_; intro _))
    | with_reducible apply Does.step (State.unset_does ..)
    | with_reducible apply Does.step (State.put_does ..)
    | split
    | intro _
    | dsimp -zeta only

theorem State.readCalPage_does (s : State) (bad : List ℕ) : s.Does [.od, .update] (State.readCalPage s bad) := by
  unfold State.readCalPage
  repeat' first
    | with_reducible exact Does.refl _ _
    | with_reducible assumption
    | decide
    | with_reducible refine Does.pair (by assumption) ?_
    | with_reducible refine Does.pairSnd (by assumption) ?_
    | with_reducible refine Does.foldl ?_ ?_
    | (extract_lets +onlyGivenNames w_
       first
         | (refine Does.keep w_ ?_ ?_
            on_goal 1 => (unfold w_; clear w_)
            on_goal 2 => first | (clear_value w_; intro _; revert w_; intro _ _) | (intro _; revert w_; intro _ _))
         | (refine Does.keep w_.1 ?_ ?_
            on_goal 1 => (unfold w_; clear w_)
            on_goal 2 => first | (clear_value w_; intro _; revert w_; intro _ _) | (intro _; revert w_; intro _ _))
         | (clear_value w_; revert w_; intro _) | (revert w_; intro _))
    | with_reducible apply Does.step (State.putMaps_does ..)
    | exact Or.inr (by decide)
    | exact Or.inl rfl
    | exact fun h => ⟨h.mem, h.od, h.cams, h.time, h.pipe, h.tracker, h.drive, h.seqs, h.loops, h.thermal, h.backdrop, h.strand, h.dict, h.side, h.pins, h.dma, h.recorder⟩
    | split
    | intro _
    | dsimp -zeta only
    | with_reducible apply Does.parts

theorem State.testStrobesOf_does (s : State) (p : ℕ) : s.Does [.out, .od, .backdrop, .strand, .side, .recorder] (State.testStrobesOf s p) := by
  unfold State.testStrobesOf
  repeat' first
    | with_reducible exact Does.refl _ _
    | decide
    | with_reducible refine Does.foldl ?_ ?_
    | with_reducible apply Does.step (State.testStrobe_does ..)
    | split
    | intro _

theorem State.requestRails_does (s : State) : s.Does [.out, .od, .backdrop, .strand, .side, .recorder] (State.requestRails s) := by
  unfold State.requestRails
  repeat' first
    | with_reducible exact Does.refl _ _
    | with_reducible assumption
    | decide
    | with_reducible refine Does.pair (by assumption) ?_
    | with_reducible refine Does.pairSnd (by assumption) ?_
    | with_reducible refine Does.foldl ?_ ?_
    | (extract_lets +onlyGivenNames w_
       first
         | (refine Does.keep w_ ?_ ?_
            on_goal 1 => (unfold w_; clear w_)
            on_goal 2 => first | (clear_value w_; intro _; revert w_; intro _ _) | (intro _; revert w_; intro _ _))
         | (refine Does.keep w_.1 ?_ ?_
            on_goal 1 => (unfold w_; clear w_)
            on_goal 2 => first | (clear_value w_; intro _; revert w_; intro _ _) | (intro _; revert w_; intro _ _))
         | (have h_ : Backdrop := w_; clear h_; subst w_)
         | (clear_value w_; revert w_; intro _) | (revert w_; intro _))
    | with_reducible apply Does.step (State.railFault_does ..)
    | with_reducible apply Does.step (State.emit_does ..)
    | exact Or.inr (by decide)
    | exact Or.inl rfl
    | exact fun h => ⟨h.mem, h.od, h.cams, h.time, h.pipe, h.tracker, h.drive, h.seqs, h.loops, h.thermal, by first | exact ⟨h.backdrop.1, h.backdrop.2.1, h.backdrop.2.2⟩ | simpa [Backdrop.shaped] using h.backdrop | (have hh := h.backdrop; clear h; simp_all [Backdrop.shaped]), h.strand, h.dict, h.side, h.pins, h.dma, h.recorder⟩
    | split
    | intro _
    | dsimp -zeta only
    | with_reducible apply Does.parts

theorem State.panelCommand_does (s : State) (rects : List RegionReq) :
    s.Does [.out, .od, .pipe, .backdrop, .strand, .side, .recorder] (s.panelCommand rects).1 := by
  unfold State.panelCommand
  split
  · exact Does.refl _ _
  · dsimp only
    split
    · exact Does.step (State.settlePhase_does ..) (fun _ h => h) (Does.mono (Does.backdrop _ id) (by decide))
    · exact Does.step (State.requestRails_does ..) (by decide)
        (Does.step (State.settlePhase_does ..) (fun _ h => h) (Does.mono (Does.backdrop _ id) (by decide)))

theorem actPanelHome_does (s : State) : s.Does [.out, .od, .pipe, .backdrop, .strand, .side, .recorder] (actPanelHome s).1 := by
  unfold actPanelHome
  repeat' first
    | with_reducible exact Does.refl _ _
    | with_reducible assumption
    | decide
    | with_reducible refine Does.pair (by assumption) ?_
    | with_reducible refine Does.pairSnd (by assumption) ?_
    | with_reducible refine Does.foldl ?_ ?_
    | (extract_lets +onlyGivenNames w_
       first
         | (refine Does.keep w_ ?_ ?_
            on_goal 1 => (unfold w_; clear w_)
            on_goal 2 => first | (clear_value w_; intro _; revert w_; intro _ _) | (intro _; revert w_; intro _ _))
         | (refine Does.keep w_.1 ?_ ?_
            on_goal 1 => (unfold w_; clear w_)
            on_goal 2 => first | (clear_value w_; intro _; revert w_; intro _ _) | (intro _; revert w_; intro _ _))
         | (clear_value w_; revert w_; intro _) | (revert w_; intro _))
    | split
    | with_reducible apply Does.step (State.panelCommand_does ..)
    | split
    | intro _
    | dsimp -zeta only

theorem actRegionGo_does (slot : ℕ) (s : State) : s.Does [.out, .od, .backdrop, .strand, .side, .recorder] (actRegionGo slot s).1 := by
  unfold actRegionGo
  repeat' first
    | with_reducible exact Does.refl _ _
    | with_reducible assumption
    | decide
    | with_reducible refine Does.pair (by assumption) ?_
    | with_reducible refine Does.pairSnd (by assumption) ?_
    | with_reducible refine Does.foldl ?_ ?_
    | (extract_lets +onlyGivenNames w_
       first
         | (refine Does.keep w_ ?_ ?_
            on_goal 1 => (unfold w_; clear w_)
            on_goal 2 => first | (clear_value w_; intro _; revert w_; intro _ _) | (intro _; revert w_; intro _ _))
         | (refine Does.keep w_.1 ?_ ?_
            on_goal 1 => (unfold w_; clear w_)
            on_goal 2 => first | (clear_value w_; intro _; revert w_; intro _ _) | (intro _; revert w_; intro _ _))
         | (have h_ : Backdrop := w_; clear h_; subst w_)
         | (clear_value w_; revert w_; intro _) | (revert w_; intro _))
    | split
    | with_reducible apply Does.step (State.requestRails_does ..)
    | with_reducible apply Does.step (State.raiseSlow_does ..)
    | with_reducible apply Does.step (State.startUpdate_does ..)
    | with_reducible apply Does.step (State.bump_does ..)
    | exact Or.inr (by decide)
    | exact Or.inl rfl
    | exact fun h => ⟨h.mem, h.od, h.cams, h.time, h.pipe, h.tracker, h.drive, h.seqs, h.loops, h.thermal, by first | exact ⟨h.backdrop.1, h.backdrop.2.1, h.backdrop.2.2⟩ | simpa [Backdrop.shaped] using h.backdrop | (have hh := h.backdrop; clear h; simp_all [Backdrop.shaped]), h.strand, h.dict, h.side, h.pins, h.dma, h.recorder⟩
    | split
    | intro _
    | dsimp -zeta only
    | with_reducible apply Does.parts

theorem State.startPanels_does (s : State) (flex : List (Option Nat)) (badBlocks : List (Nat × Nat)) :
    s.Does [.out, .od, .backdrop, .strand, .side, .recorder] (s.startPanels flex badBlocks) := by
  unfold State.startPanels
  extract_lets x0 b id_ changed bad x1 x2 x3 rects stale base go
  have h0 : s.Does [.out, .od, .backdrop, .strand, .side, .recorder] x0 :=
    Does.foldl (fun t e => Does.mono (State.setPanel_does ..) (by decide)) (Does.refl _ _)
  have h1 : s.Does [.out, .od, .backdrop, .strand, .side, .recorder] x1 :=
    Does.trans h0 (Does.mono (Does.backdrop _ fun h => ⟨by simpa [b] using h.1, List.length_replicate, h.2.2⟩) (by decide))
  have h3 : s.Does [.out, .od, .backdrop, .strand, .side, .recorder] x3 := by
    refine Does.foldl (fun t p => State.raise_does ..) ?_
    exact Does.step (State.putNat_does ..) (by decide) (Does.step (State.putNat_does ..) (by decide) h1)
  have hg : ∀ (t : State) ph rest, t.Does [.out, .od, .backdrop, .strand, .side, .recorder] (go t ph rest) := fun t ph rest =>
    Does.step (State.requestRails_does ..) (by decide) (Does.mono (Does.backdrop _ id) (by decide))
  clear_value x3
  split
  · refine Does.trans (Does.trans h3 ?_) (hg ..)
    exact Does.mono (Does.backdrop _ fun h => ⟨by simpa using h.1, h.2⟩) (by decide)
  · split
    · exact h3
    · exact Does.trans h3 (hg ..)

theorem actPanelGrey_does (s : State) : s.Does [.out, .od, .pipe, .backdrop, .strand, .side, .recorder] (actPanelGrey s).1 := by
  unfold actPanelGrey
  repeat' first
    | with_reducible exact Does.refl _ _
    | with_reducible assumption
    | decide
    | with_reducible refine Does.pair (by assumption) ?_
    | with_reducible refine Does.pairSnd (by assumption) ?_
    | with_reducible refine Does.foldl ?_ ?_
    | (extract_lets +onlyGivenNames w_
       first
         | (refine Does.keep w_ ?_ ?_
            on_goal 1 => (unfold w_; clear w_)
            on_goal 2 => first | (clear_value w_; intro _; revert w_; intro _ _) | (intro _; revert w_; intro _ _))
         | (refine Does.keep w_.1 ?_ ?_
            on_goal 1 => (unfold w_; clear w_)
            on_goal 2 => first | (clear_value w_; intro _; revert w_; intro _ _) | (intro _; revert w_; intro _ _))
         | (clear_value w_; revert w_; intro _) | (revert w_; intro _))
    | split
    | with_reducible apply Does.step (State.panelCommand_does ..)
    | split
    | intro _
    | dsimp -zeta only

theorem State.islandStrip_does (s : State) (st : ModState) : s.Does [.out, .backdrop] (State.islandStrip s st) := by
  unfold State.islandStrip
  repeat' first
    | with_reducible exact Does.refl _ _
    | with_reducible assumption
    | decide
    | with_reducible refine Does.pair (by assumption) ?_
    | with_reducible refine Does.pairSnd (by assumption) ?_
    | with_reducible refine Does.foldl ?_ ?_
    | (extract_lets +onlyGivenNames w_
       first
         | (refine Does.keep w_ ?_ ?_
            on_goal 1 => (unfold w_; clear w_)
            on_goal 2 => first | (clear_value w_; intro _; revert w_; intro _ _) | (intro _; revert w_; intro _ _))
         | (refine Does.keep w_.1 ?_ ?_
            on_goal 1 => (unfold w_; clear w_)
            on_goal 2 => first | (clear_value w_; intro _; revert w_; intro _ _) | (intro _; revert w_; intro _ _))
         | (clear_value w_; revert w_; intro _) | (revert w_; intro _))
    | with_reducible apply Does.step (State.islandDraw_does ..)
    | split
    | intro _
    | dsimp -zeta only

theorem State.panelsDown_does (s : State) : s.Does [.out, .backdrop] (State.panelsDown s) := by
  unfold State.panelsDown
  repeat' first
    | with_reducible exact Does.refl _ _
    | with_reducible assumption
    | decide
    | with_reducible refine Does.pair (by assumption) ?_
    | with_reducible refine Does.pairSnd (by assumption) ?_
    | with_reducible refine Does.foldl ?_ ?_
    | (extract_lets +onlyGivenNames w_
       first
         | (refine Does.keep w_ ?_ ?_
            on_goal 1 => (unfold w_; clear w_)
            on_goal 2 => first | (clear_value w_; intro _; revert w_; intro _ _) | (intro _; revert w_; intro _ _))
         | (refine Does.keep w_.1 ?_ ?_
            on_goal 1 => (unfold w_; clear w_)
            on_goal 2 => first | (clear_value w_; intro _; revert w_; intro _ _) | (intro _; revert w_; intro _ _))
         | (have h_ : Backdrop := w_; clear h_; subst w_)
         | (clear_value w_; revert w_; intro _) | (revert w_; intro _))
    | with_reducible apply Does.step (State.railsOff_does ..)
    | exact Or.inr (by decide)
    | exact Or.inl rfl
    | exact fun h => ⟨h.mem, h.od, h.cams, h.time, h.pipe, h.tracker, h.drive, h.seqs, h.loops, h.thermal, by first | exact ⟨h.backdrop.1, h.backdrop.2.1, h.backdrop.2.2⟩ | simpa [Backdrop.shaped] using h.backdrop | (have hh := h.backdrop; clear h; simp_all [Backdrop.shaped]), h.strand, h.dict, h.side, h.pins, h.dma, h.recorder⟩
    | split
    | intro _
    | dsimp -zeta only
    | with_reducible apply Does.parts

theorem State.panelPowerFail_does (s : State) : s.Does [.out, .backdrop] (State.panelPowerFail s) := by
  unfold State.panelPowerFail
  repeat' first
    | with_reducible exact Does.refl _ _
    | with_reducible assumption
    | decide
    | with_reducible refine Does.pair (by assumption) ?_
    | with_reducible refine Does.pairSnd (by assumption) ?_
    | with_reducible refine Does.foldl ?_ ?_
    | (extract_lets +onlyGivenNames w_
       first
         | (refine Does.keep w_ ?_ ?_
            on_goal 1 => (unfold w_; clear w_)
            on_goal 2 => first | (clear_value w_; intro _; revert w_; intro _ _) | (intro _; revert w_; intro _ _))
         | (refine Does.keep w_.1 ?_ ?_
            on_goal 1 => (unfold w_; clear w_)
            on_goal 2 => first | (clear_value w_; intro _; revert w_; intro _ _) | (intro _; revert w_; intro _ _))
         | (have h_ : Backdrop := w_; clear h_; subst w_)
         | (clear_value w_; revert w_; intro _) | (revert w_; intro _))
    | with_reducible apply Does.step (State.cutPulse_does ..)
    | exact Or.inr (by decide)
    | exact Or.inl rfl
    | exact fun h => ⟨h.mem, h.od, h.cams, h.time, h.pipe, h.tracker, h.drive, h.seqs, h.loops, h.thermal, by first | exact ⟨h.backdrop.1, h.backdrop.2.1, h.backdrop.2.2⟩ | simpa [Backdrop.shaped] using h.backdrop | (have hh := h.backdrop; clear h; simp_all [Backdrop.shaped]), h.strand, h.dict, h.side, h.pins, h.dma, h.recorder⟩
    | split
    | intro _
    | dsimp -zeta only
    | with_reducible apply Does.parts

end Sys2Proof.Machine
end

