-- ==== Sys2Proof/Laws/CameraOps.lean ====
section
/-!
SUPPORT. What the operations of Machine/CameraOps.lean do.
-/
set_option Elab.async false
set_option linter.all false

namespace Sys2Proof.Machine

theorem State.beginStream_does (s : State) (p : ℕ) : s.Does [.out, .od, .cams, .pipe, .backdrop, .strand, .side, .recorder] (State.beginStream s p) := by
  unfold State.beginStream
  repeat' first
    | with_reducible exact Does.refl _ _
    | with_reducible assumption
    | decide
    | with_reducible refine Does.pair (by assumption) ?_
    | with_reducible refine Does.pairSnd (by assumption) ?_
    | with_reducible refine Does.foldl ?_ ?_
    | (extract_lets +onlyGivenNames w_
       first
         | (refine Does.keep w_ ?_ ?_
            on_goal 1 => (unfold w_; clear w_)
            on_goal 2 => first | (clear_value w_; intro _; revert w_; intro _ _) | (intro _; revert w_; intro _ _))
         | (refine Does.keep w_.1 ?_ ?_
            on_goal 1 => (unfold w_; clear w_)
            on_goal 2 => first | (clear_value w_; intro _; revert w_; intro _ _) | (intro _; revert w_; intro _ _))
         | (clear_value w_; revert w_; intro _) | (revert w_; intro _))
    | with_reducible apply Does.step (State.testStrobesOf_does ..)
    | with_reducible apply Does.step (State.raise_does ..)
    | with_reducible apply Does.step (State.setEngine_does ..)
    | with_reducible apply Does.step (State.setCam_does ..)
    | split
    | intro _
    | dsimp -zeta only

theorem State.camerasAfterStep_does (s : State) : s.Does [.cams] (State.camerasAfterStep s) := by
  unfold State.camerasAfterStep
  repeat' first
    | with_reducible exact Does.refl _ _
    | decide
    | with_reducible refine Does.foldl ?_ ?_
    | with_reducible apply Does.step (State.setCam_does ..)
    | intro _

theorem State.backOut_does (s : State) (p : ℕ) : s.Does [.cams] (State.backOut s p) := by
  unfold State.backOut
  repeat' first
    | with_reducible exact Does.refl _ _
    | decide
    | with_reducible apply Does.step (State.setCam_does ..)

theorem State.writeLine_does (s : State) (p : ℕ) (f : OpenFrame) (l : Line) : s.Does [.mem] (State.writeLine s p f l) := by
  unfold State.writeLine
  repeat' first
    | with_reducible exact Does.refl _ _
    | with_reducible assumption
    | decide
    | with_reducible refine Does.pair (by assumption) ?_
    | with_reducible refine Does.pairSnd (by assumption) ?_
    | with_reducible refine Does.foldl ?_ ?_
    | (extract_lets +onlyGivenNames w_
       first
         | (refine Does.keep w_ ?_ ?_
            on_goal 1 => (unfold w_; clear w_)
            on_goal 2 => first | (clear_value w_; intro _; revert w_; intro _ _) | (intro _; revert w_; intro _ _))
         | (refine Does.keep w_.1 ?_ ?_
            on_goal 1 => (unfold w_; clear w_)
            on_goal 2 => first | (clear_value w_; intro _; revert w_; intro _ _) | (intro _; revert w_; intro _ _))
         | (clear_value w_; revert w_; intro _) | (revert w_; intro _))
    | with_reducible apply Does.step (State.memWrite_does ..)
    | split
    | intro _
    | dsimp -zeta only

theorem State.showFrame_does (s : State) (p : ℕ) (r : FrameRecord) : s.Does [.od] (State.showFrame s p r) := by
  unfold State.showFrame
  repeat' first
    | with_reducible exact Does.refl _ _
    | decide
    | with_reducible apply Does.step (State.putNat_does ..)

theorem State.closeFrame_does (s : State) (p : ℕ) (f : OpenFrame) : s.Does [.out, .od, .mem, .cams, .pipe, .ledger, .loops, .backdrop, .strand, .side, .recorder] (State.closeFrame s p f) := by
  unfold State.closeFrame
  repeat' first
    | with_reducible exact Does.refl _ _
    | with_reducible assumption
    | decide
    | with_reducible refine Does.pair (by assumption) ?_
    | with_reducible refine Does.pairSnd (by assumption) ?_
    | with_reducible refine Does.foldl ?_ ?_
    | (extract_lets +onlyGivenNames w_
       first
         | (refine Does.keep w_ ?_ ?_
            on_goal 1 => (unfold w_; clear w_)
            on_goal 2 => first | (clear_value w_; intro _; revert w_; intro _ _) | (intro _; revert w_; intro _ _))
         | (refine Does.keep w_.1 ?_ ?_
            on_goal 1 => (unfold w_; clear w_)
            on_goal 2 => first | (clear_value w_; intro _; revert w_; intro _ _) | (intro _; revert w_; intro _ _))
         | (have h_ : Pipeline := w_; clear h_; subst w_)
         | (clear_value w_; revert w_; intro _) | (revert w_; intro _))
    | with_reducible apply Does.step (State.raise_does ..)
    | with_reducible apply Does.step (State.settleFix_does ..)
    | with_reducible apply Does.step (State.bump_does ..)
    | with_reducible apply Does.step (State.showFrame_does ..)
    | with_reducible apply Does.step (State.setEngine_does ..)
    | with_reducible apply Does.step (State.setCam_does ..)
    | exact Or.inr (by decide)
    | exact Or.inl rfl
    | exact fun h => ⟨h.mem, h.od, h.cams, h.time, by first | exact ⟨h.pipe.1, h.pipe.2⟩ | simpa [Pipeline.shaped] using h.pipe | (have hh := h.pipe; clear h; simp_all [Pipeline.shaped]), h.tracker, h.drive, h.seqs, h.loops, h.thermal, h.backdrop, h.strand, h.dict, h.side, h.pins, h.dma, h.recorder⟩
    | split
    | intro _
    | dsimp -zeta only
    | with_reducible apply Does.parts

theorem State.closeReady_does (a0 : ℕ) (a1 : State) (a2 : ℕ) : a1.Does [.out, .od, .mem, .cams, .pipe, .ledger, .loops, .backdrop, .strand, .side, .recorder] (State.closeReady a0 a1 a2) := by
  induction a0 generalizing a1 a2
  all_goals unfold State.closeReady
  · exact Does.refl _ _
  rename_i ih
  repeat' first
    | with_reducible exact Does.refl _ _
    | with_reducible assumption
    | decide
    | with_reducible refine Does.pair (by assumption) ?_
    | with_reducible refine Does.pairSnd (by assumption) ?_
    | with_reducible refine Does.foldl ?_ ?_
    | (extract_lets +onlyGivenNames w_
       first
         | (refine Does.keep w_ ?_ ?_
            on_goal 1 => (unfold w_; clear w_)
            on_goal 2 => first | (clear_value w_; intro _; revert w_; intro _ _) | (intro _; revert w_; intro _ _))
         | (refine Does.keep w_.1 ?_ ?_
            on_goal 1 => (unfold w_; clear w_)
            on_goal 2 => first | (clear_value w_; intro _; revert w_; intro _ _) | (intro _; revert w_; intro _ _))
         | (clear_value w_; revert w_; intro _) | (revert w_; intro _))
    | with_reducible refine Does.step (ih ..) ?_ ?_
    | with_reducible apply Does.step (State.closeFrame_does ..)
    | split
    | intro _
    | dsimp -zeta only

theorem State.crossBusy_does (s : State) (p : ℕ) (before : ℕ) : s.Does [.out, .od, .backdrop, .strand, .side, .recorder] (State.crossBusy s p before) := by
  unfold State.crossBusy
  repeat' first
    | with_reducible exact Does.refl _ _
    | with_reducible assumption
    | decide
    | with_reducible refine Does.pair (by assumption) ?_
    | with_reducible refine Does.pairSnd (by assumption) ?_
    | with_reducible refine Does.foldl ?_ ?_
    | (extract_lets +onlyGivenNames w_
       first
         | (refine Does.keep w_ ?_ ?_
            on_goal 1 => (unfold w_; clear w_)
            on_goal 2 => first | (clear_value w_; intro _; revert w_; intro _ _) | (intro _; revert w_; intro _ _))
         | (refine Does.keep w_.1 ?_ ?_
            on_goal 1 => (unfold w_; clear w_)
            on_goal 2 => first | (clear_value w_; intro _; revert w_; intro _ _) | (intro _; revert w_; intro _ _))
         | (clear_value w_; revert w_; intro _) | (revert w_; intro _))
    | with_reducible apply Does.step (State.raise_does ..)
    | split
    | intro _
    | dsimp -zeta only

theorem State.settleLine_does (s : State) (p : ℕ) (l : Line) : s.Does [.out, .od, .mem, .cams, .pipe, .ledger, .loops, .backdrop, .strand, .side, .recorder] (State.settleLine s p l) := by
  unfold State.settleLine
  repeat' first
    | with_reducible exact Does.refl _ _
    | with_reducible assumption
    | decide
    | with_reducible refine Does.pair (by assumption) ?_
    | with_reducible refine Does.pairSnd (by assumption) ?_
    | with_reducible refine Does.foldl ?_ ?_
    | (extract_lets +onlyGivenNames w_
       first
         | (refine Does.keep w_ ?_ ?_
            on_goal 1 => (unfold w_; clear w_)
            on_goal 2 => first | (clear_value w_; intro _; revert w_; intro _ _) | (intro _; revert w_; intro _ _))
         | (refine Does.keep w_.1 ?_ ?_
            on_goal 1 => (unfold w_; clear w_)
            on_goal 2 => first | (clear_value w_; intro _; revert w_; intro _ _) | (intro _; revert w_; intro _ _))
         | (clear_value w_; revert w_; intro _) | (revert w_; intro _))
    | with_reducible apply Does.step (State.closeReady_does ..)
    | with_reducible apply Does.step (State.crossBusy_does ..)
    | with_reducible apply Does.step (State.settleFix_does ..)
    | with_reducible apply Does.step (State.writeLine_does ..)
    | with_reducible apply Does.step (State.setEngine_does ..)
    | with_reducible apply Does.step (State.setCam_does ..)
    | split
    | intro _
    | dsimp -zeta only

theorem State.losePort_does (s : State) (p : ℕ) : s.Does [.out, .od, .mem, .cams, .pipe, .tracker, .ledger, .loops, .backdrop, .strand, .side, .recorder] (State.losePort s p) := by
  unfold State.losePort
  repeat' first
    | with_reducible exact Does.refl _ _
    | with_reducible assumption
    | decide
    | with_reducible refine Does.pair (by assumption) ?_
    | with_reducible refine Does.pairSnd (by assumption) ?_
    | with_reducible refine Does.foldl ?_ ?_
    | (extract_lets +onlyGivenNames w_
       first
         | (refine Does.keep w_ ?_ ?_
            on_goal 1 => (unfold w_; clear w_)
            on_goal 2 => first | (clear_value w_; intro _; revert w_; intro _ _) | (intro _; revert w_; intro _ _))
         | (refine Does.keep w_.1 ?_ ?_
            on_goal 1 => (unfold w_; clear w_)
            on_goal 2 => first | (clear_value w_; intro _; revert w_; intro _ _) | (intro _; revert w_; intro _ _))
         | (clear_value w_; revert w_; intro _) | (revert w_; intro _))
    | with_reducible apply Does.step (State.predictFace_does ..)
    | with_reducible apply Does.step (State.raise_does ..)
    | with_reducible apply Does.step (State.settleFix_does ..)
    | with_reducible apply Does.step (State.settleGrade_does ..)
    | with_reducible apply Does.step (State.bump_does ..)
    | with_reducible apply Does.step (State.setCam_does ..)
    | split
    | intro _
    | dsimp -zeta only

theorem State.refuseStart_does (s : State) (p : ℕ) : s.Does [.out, .od, .backdrop, .strand, .side, .recorder] (State.refuseStart s p).1 := by
  unfold State.refuseStart
  repeat' first
    | with_reducible exact Does.refl _ _
    | decide
    | with_reducible apply Does.step (State.raise_does ..)
    | with_reducible apply Does.step (State.bump_does ..)

theorem State.beginStart_does (plane : Bool) (s : State) (p : ℕ) : s.Does [.cams] (State.beginStart plane s p) := by
  unfold State.beginStart
  repeat' first
    | with_reducible exact Does.refl _ _
    | decide
    | with_reducible apply Does.step (State.setCam_does ..)

theorem State.startCommand_does (s : State) (p : ℕ) (ports : List ℕ) (plane : Bool) : s.Does [.out, .od, .cams, .backdrop, .strand, .side, .recorder] (State.startCommand s p ports plane).1 := by
  unfold State.startCommand
  repeat' first
    | with_reducible exact Does.refl _ _
    | with_reducible assumption
    | decide
    | with_reducible refine Does.foldl ?_ ?_
    | with_reducible apply Does.step (State.refuseStart_does ..)
    | with_reducible apply Does.step (State.raise_does ..)
    | with_reducible apply Does.step (State.keep_does ..)
    | with_reducible apply Does.step (State.beginStart_does ..)
    | split
    | intro _

theorem actStartPort_does (p : ℕ) (s : State) : s.Does [.out, .od, .cams, .backdrop, .strand, .side, .recorder] (actStartPort p s).1 := by
  unfold actStartPort
  repeat' first
    | with_reducible exact Does.refl _ _
    | decide
    | with_reducible apply Does.step (State.startCommand_does ..)

theorem State.pulseCc_does (s : State) (source : ℕ) (tick : ℕ) (width : ℕ) (p : ℕ) : s.Does [.out] (State.pulseCc s source tick width p) := by
  unfold State.pulseCc
  repeat' first
    | with_reducible exact Does.refl _ _
    | with_reducible assumption
    | decide
    | with_reducible refine Does.pair (by assumption) ?_
    | with_reducible refine Does.pairSnd (by assumption) ?_
    | with_reducible refine Does.foldl ?_ ?_
    | (extract_lets +onlyGivenNames w_
       first
         | (refine Does.keep w_ ?_ ?_
            on_goal 1 => (unfold w_; clear w_)
            on_goal 2 => first | (clear_value w_; intro _; revert w_; intro _ _) | (intro _; revert w_; intro _ _))
         | (refine Does.keep w_.1 ?_ ?_
            on_goal 1 => (unfold w_; clear w_)
            on_goal 2 => first | (clear_value w_; intro _; revert w_; intro _ _) | (intro _; revert w_; intro _ _))
         | (clear_value w_; revert w_; intro _) | (revert w_; intro _))
    | with_reducible apply Does.step (State.emit_does ..)
    | split
    | intro _
    | dsimp -zeta only

theorem State.arm_does (first : ℕ) (s : State) (p : ℕ) : s.Does [.cams] (State.arm first s p) := by
  unfold State.arm
  repeat' first
    | with_reducible exact Does.refl _ _
    | with_reducible assumption
    | decide
    | with_reducible refine Does.pair (by assumption) ?_
    | with_reducible refine Does.pairSnd (by assumption) ?_
    | with_reducible refine Does.foldl ?_ ?_
    | (extract_lets +onlyGivenNames w_
       first
         | (refine Does.keep w_ ?_ ?_
            on_goal 1 => (unfold w_; clear w_)
            on_goal 2 => first | (clear_value w_; intro _; revert w_; intro _ _) | (intro _; revert w_; intro _ _))
         | (refine Does.keep w_.1 ?_ ?_
            on_goal 1 => (unfold w_; clear w_)
            on_goal 2 => first | (clear_value w_; intro _; revert w_; intro _ _) | (intro _; revert w_; intro _ _))
         | (clear_value w_; revert w_; intro _) | (revert w_; intro _))
    | with_reducible apply Does.step (State.setCam_does ..)
    | split
    | intro _
    | dsimp -zeta only

theorem State.settleEngine_does (s : State) (p : ℕ) : s.Does [.od, .mem, .pipe, .ledger, .loops, .recorder] (State.settleEngine s p) := by
  unfold State.settleEngine
  repeat' first
    | with_reducible exact Does.refl _ _
    | with_reducible assumption
    | decide
    | with_reducible refine Does.pair (by assumption) ?_
    | with_reducible refine Does.pairSnd (by assumption) ?_
    | with_reducible refine Does.foldl ?_ ?_
    | (extract_lets +onlyGivenNames w_
       first
         | (refine Does.keep w_ ?_ ?_
            on_goal 1 => (unfold w_; clear w_)
            on_goal 2 => first | (clear_value w_; intro _; revert w_; intro _ _) | (intro _; revert w_; intro _ _))
         | (refine Does.keep w_.1 ?_ ?_
            on_goal 1 => (unfold w_; clear w_)
            on_goal 2 => first | (clear_value w_; intro _; revert w_; intro _ _) | (intro _; revert w_; intro _ _))
         | (clear_value w_; revert w_; intro _) | (revert w_; intro _))
    | with_reducible apply Does.step (State.settleFix_does ..)
    | with_reducible apply Does.step (State.settleGrade_does ..)
    | split
    | intro _
    | dsimp -zeta only

theorem State.settleStop_does (s : State) (p : ℕ) : s.Does [.out, .od, .mem, .cams, .pipe, .ledger, .loops, .backdrop, .strand, .side, .recorder] (State.settleStop s p) := by
  unfold State.settleStop
  repeat' first
    | with_reducible exact Does.refl _ _
    | with_reducible assumption
    | decide
    | with_reducible refine Does.pair (by assumption) ?_
    | with_reducible refine Does.pairSnd (by assumption) ?_
    | with_reducible refine Does.foldl ?_ ?_
    | (extract_lets +onlyGivenNames w_
       first
         | (refine Does.keep w_ ?_ ?_
            on_goal 1 => (unfold w_; clear w_)
            on_goal 2 => first | (clear_value w_; intro _; revert w_; intro _ _) | (intro _; revert w_; intro _ _))
         | (refine Does.keep w_.1 ?_ ?_
            on_goal 1 => (unfold w_; clear w_)
            on_goal 2 => first | (clear_value w_; intro _; revert w_; intro _ _) | (intro _; revert w_; intro _ _))
         | (clear_value w_; revert w_; intro _) | (revert w_; intro _))
    | with_reducible apply Does.step (State.closeReady_does ..)
    | with_reducible apply Does.step (State.raise_does ..)
    | with_reducible apply Does.step (State.settleEngine_does ..)
    | with_reducible apply Does.step (State.setCam_does ..)
    | split
    | intro _
    | dsimp -zeta only

theorem State.countInFval_does (s : State) (p : ℕ) : s.Does [.cams] (State.countInFval s p) := by
  unfold State.countInFval
  repeat' first
    | with_reducible exact Does.refl _ _
    | with_reducible assumption
    | decide
    | with_reducible refine Does.pair (by assumption) ?_
    | with_reducible refine Does.pairSnd (by assumption) ?_
    | with_reducible refine Does.foldl ?_ ?_
    | (extract_lets +onlyGivenNames w_
       first
         | (refine Does.keep w_ ?_ ?_
            on_goal 1 => (unfold w_; clear w_)
            on_goal 2 => first | (clear_value w_; intro _; revert w_; intro _ _) | (intro _; revert w_; intro _ _))
         | (refine Does.keep w_.1 ?_ ?_
            on_goal 1 => (unfold w_; clear w_)
            on_goal 2 => first | (clear_value w_; intro _; revert w_; intro _ _) | (intro _; revert w_; intro _ _))
         | (clear_value w_; revert w_; intro _) | (revert w_; intro _))
    | with_reducible apply Does.step (State.setCam_does ..)
    | split
    | intro _
    | dsimp -zeta only

theorem State.missInFrame_does (s : State) (p : ℕ) : s.Does [.cams] (State.missInFrame s p) := by
  unfold State.missInFrame
  repeat' first
    | with_reducible exact Does.refl _ _
    | with_reducible assumption
    | decide
    | with_reducible refine Does.pair (by assumption) ?_
    | with_reducible refine Does.pairSnd (by assumption) ?_
    | with_reducible refine Does.foldl ?_ ?_
    | (extract_lets +onlyGivenNames w_
       first
         | (refine Does.keep w_ ?_ ?_
            on_goal 1 => (unfold w_; clear w_)
            on_goal 2 => first | (clear_value w_; intro _; revert w_; intro _ _) | (intro _; revert w_; intro _ _))
         | (refine Does.keep w_.1 ?_ ?_
            on_goal 1 => (unfold w_; clear w_)
            on_goal 2 => first | (clear_value w_; intro _; revert w_; intro _ _) | (intro _; revert w_; intro _ _))
         | (clear_value w_; revert w_; intro _) | (revert w_; intro _))
    | with_reducible apply Does.step (State.countInFval_does ..)
    | split
    | intro _
    | dsimp -zeta only

theorem State.missLine_does (s : State) (p : ℕ) (t : PendingTrigger) (counted : Bool) : s.Does [.out, .od, .mem, .cams, .pipe, .tracker, .ledger, .loops, .backdrop, .strand, .side, .recorder] (State.missLine s p t counted) := by
  unfold State.missLine
  repeat' first
    | with_reducible exact Does.refl _ _
    | with_reducible assumption
    | decide
    | with_reducible refine Does.pair (by assumption) ?_
    | with_reducible refine Does.pairSnd (by assumption) ?_
    | with_reducible refine Does.foldl ?_ ?_
    | (extract_lets +onlyGivenNames w_
       first
         | (refine Does.keep w_ ?_ ?_
            on_goal 1 => (unfold w_; clear w_)
            on_goal 2 => first | (clear_value w_; intro _; revert w_; intro _ _) | (intro _; revert w_; intro _ _))
         | (refine Does.keep w_.1 ?_ ?_
            on_goal 1 => (unfold w_; clear w_)
            on_goal 2 => first | (clear_value w_; intro _; revert w_; intro _ _) | (intro _; revert w_; intro _ _))
         | (clear_value w_; revert w_; intro _) | (revert w_; intro _))
    | with_reducible apply Does.step (State.losePort_does ..)
    | with_reducible apply Does.step (State.settleLine_does ..)
    | with_reducible apply Does.step (State.bump_does ..)
    | with_reducible apply Does.step (State.setCam_does ..)
    | split
    | intro _
    | dsimp -zeta only

theorem State.expire_does (a0 : ℕ) (a1 : State) (a2 : ℕ) : a1.Does [.out, .od, .mem, .cams, .pipe, .tracker, .ledger, .loops, .backdrop, .strand, .side, .recorder] (State.expire a0 a1 a2) := by
  induction a0 generalizing a1 a2
  all_goals unfold State.expire
  · exact Does.mono (State.settleStop_does ..) (by decide)
  rename_i ih
  repeat' first
    | with_reducible exact Does.refl _ _
    | with_reducible assumption
    | decide
    | with_reducible refine Does.pair (by assumption) ?_
    | with_reducible refine Does.pairSnd (by assumption) ?_
    | with_reducible refine Does.foldl ?_ ?_
    | (extract_lets +onlyGivenNames w_
       first
         | (refine Does.keep w_ ?_ ?_
            on_goal 1 => (unfold w_; clear w_)
            on_goal 2 => first | (clear_value w_; intro _; revert w_; intro _ _) | (intro _; revert w_; intro _ _))
         | (refine Does.keep w_.1 ?_ ?_
            on_goal 1 => (unfold w_; clear w_)
            on_goal 2 => first | (clear_value w_; intro _; revert w_; intro _ _) | (intro _; revert w_; intro _ _))
         | (clear_value w_; revert w_; intro _) | (revert w_; intro _))
    | with_reducible refine Does.step (ih ..) ?_ ?_
    | with_reducible apply Does.step (State.missLine_does ..)
    | with_reducible apply Does.step (State.settleStop_does ..)
    | with_reducible apply Does.step (State.missInFrame_does ..)
    | with_reducible apply Does.step (State.setCam_does ..)
    | split
    | intro _
    | dsimp -zeta only

theorem State.settleCc_does (s : State) (p : ℕ) : s.Does [.out, .cams] (State.settleCc s p) := by
  unfold State.settleCc
  repeat' first
    | with_reducible exact Does.refl _ _
    | with_reducible assumption
    | decide
    | with_reducible refine Does.pair (by assumption) ?_
    | with_reducible refine Does.pairSnd (by assumption) ?_
    | with_reducible refine Does.foldl ?_ ?_
    | (extract_lets +onlyGivenNames w_
       first
         | (refine Does.keep w_ ?_ ?_
            on_goal 1 => (unfold w_; clear w_)
            on_goal 2 => first | (clear_value w_; intro _; revert w_; intro _ _) | (intro _; revert w_; intro _ _))
         | (refine Does.keep w_.1 ?_ ?_
            on_goal 1 => (unfold w_; clear w_)
            on_goal 2 => first | (clear_value w_; intro _; revert w_; intro _ _) | (intro _; revert w_; intro _ _))
         | (clear_value w_; revert w_; intro _) | (revert w_; intro _))
    | with_reducible apply Does.step (State.setCam_does ..)
    | with_reducible apply Does.step (State.emit_does ..)
    | split
    | intro _
    | dsimp -zeta only

theorem State.missAll_does (a0 : ℕ) (a1 : State) (a2 : ℕ) : a1.Does [.out, .od, .mem, .cams, .pipe, .tracker, .ledger, .loops, .backdrop, .strand, .side, .recorder] (State.missAll a0 a1 a2) := by
  induction a0 generalizing a1 a2
  all_goals unfold State.missAll
  · exact Does.mono (State.settleStop_does ..) (by decide)
  rename_i ih
  repeat' first
    | with_reducible exact Does.refl _ _
    | with_reducible assumption
    | decide
    | with_reducible refine Does.pair (by assumption) ?_
    | with_reducible refine Does.pairSnd (by assumption) ?_
    | with_reducible refine Does.foldl ?_ ?_
    | (extract_lets +onlyGivenNames w_
       first
         | (refine Does.keep w_ ?_ ?_
            on_goal 1 => (unfold w_; clear w_)
            on_goal 2 => first | (clear_value w_; intro _; revert w_; intro _ _) | (intro _; revert w_; intro _ _))
         | (refine Does.keep w_.1 ?_ ?_
            on_goal 1 => (unfold w_; clear w_)
            on_goal 2 => first | (clear_value w_; intro _; revert w_; intro _ _) | (intro _; revert w_; intro _ _))
         | (clear_value w_; revert w_; intro _) | (revert w_; intro _))
    | with_reducible refine Does.step (ih ..) ?_ ?_
    | with_reducible apply Does.step (State.missLine_does ..)
    | with_reducible apply Does.step (State.settleStop_does ..)
    | with_reducible apply Does.step (State.missInFrame_does ..)
    | with_reducible apply Does.step (State.setCam_does ..)
    | split
    | intro _
    | dsimp -zeta only

theorem State.camerasBeforeStep_does (s : State) : s.Does [.out, .od, .mem, .cams, .pipe, .tracker, .ledger, .loops, .backdrop, .strand, .side, .recorder] (State.camerasBeforeStep s) := by
  unfold State.camerasBeforeStep
  repeat' first
    | with_reducible exact Does.refl _ _
    | with_reducible assumption
    | decide
    | with_reducible refine Does.pair (by assumption) ?_
    | with_reducible refine Does.pairSnd (by assumption) ?_
    | with_reducible refine Does.foldl ?_ ?_
    | (extract_lets +onlyGivenNames w_
       first
         | (refine Does.keep w_ ?_ ?_
            on_goal 1 => (unfold w_; clear w_)
            on_goal 2 => first | (clear_value w_; intro _; revert w_; intro _ _) | (intro _; revert w_; intro _ _))
         | (refine Does.keep w_.1 ?_ ?_
            on_goal 1 => (unfold w_; clear w_)
            on_goal 2 => first | (clear_value w_; intro _; revert w_; intro _ _) | (intro _; revert w_; intro _ _))
         | (clear_value w_; revert w_; intro _) | (revert w_; intro _))
    | with_reducible apply Does.step (State.missAll_does ..)
    | with_reducible apply Does.step (State.closeReady_does ..)
    | with_reducible apply Does.step (State.settleCc_does ..)
    | with_reducible apply Does.step (State.setCam_does ..)
    | split
    | intro _
    | dsimp -zeta only

theorem actStartPlane_does (p : ℕ) (s : State) : s.Does [.out, .od, .cams, .backdrop, .strand, .side, .recorder] (actStartPlane p s).1 := by
  unfold actStartPlane
  repeat' first
    | with_reducible exact Does.refl _ _
    | decide
    | with_reducible apply Does.step (State.startCommand_does ..)

theorem actStopStream_does (p : ℕ) (s : State) : s.Does [.out, .od, .mem, .cams, .pipe, .ledger, .loops, .backdrop, .strand, .side, .recorder] (actStopStream p s).1 := by
  unfold actStopStream
  repeat' first
    | with_reducible exact Does.refl _ _
    | with_reducible assumption
    | decide
    | with_reducible refine Does.pair (by assumption) ?_
    | with_reducible refine Does.pairSnd (by assumption) ?_
    | with_reducible refine Does.foldl ?_ ?_
    | (extract_lets +onlyGivenNames w_
       first
         | (refine Does.keep w_ ?_ ?_
            on_goal 1 => (unfold w_; clear w_)
            on_goal 2 => first | (clear_value w_; intro _; revert w_; intro _ _) | (intro _; revert w_; intro _ _))
         | (refine Does.keep w_.1 ?_ ?_
            on_goal 1 => (unfold w_; clear w_)
            on_goal 2 => first | (clear_value w_; intro _; revert w_; intro _ _) | (intro _; revert w_; intro _ _))
         | (clear_value w_; revert w_; intro _) | (revert w_; intro _))
    | split
    | with_reducible apply Does.step (State.settleStop_does ..)
    | with_reducible apply Does.step (State.closeReady_does ..)
    | with_reducible apply Does.step (State.keep_does ..)
    | with_reducible apply Does.step (State.settleCc_does ..)
    | with_reducible apply Does.step (State.backOut_does ..)
    | with_reducible apply Does.step (State.setCam_does ..)
    | split
    | intro _
    | dsimp -zeta only

theorem State.endCc_does (s : State) (source : ℕ) (p : ℕ) : s.Does [.out] (State.endCc s source p) := by
  unfold State.endCc
  repeat' first
    | with_reducible exact Does.refl _ _
    | with_reducible assumption
    | decide
    | with_reducible refine Does.pair (by assumption) ?_
    | with_reducible refine Does.pairSnd (by assumption) ?_
    | with_reducible refine Does.foldl ?_ ?_
    | (extract_lets +onlyGivenNames w_
       first
         | (refine Does.keep w_ ?_ ?_
            on_goal 1 => (unfold w_; clear w_)
            on_goal 2 => first | (clear_value w_; intro _; revert w_; intro _ _) | (intro _; revert w_; intro _ _))
         | (refine Does.keep w_.1 ?_ ?_
            on_goal 1 => (unfold w_; clear w_)
            on_goal 2 => first | (clear_value w_; intro _; revert w_; intro _ _) | (intro _; revert w_; intro _ _))
         | (clear_value w_; revert w_; intro _) | (revert w_; intro _))
    | with_reducible apply Does.step (State.emit_does ..)
    | split
    | intro _
    | dsimp -zeta only

theorem State.beginFrame_does (s : State) (p : ℕ) (index : ℕ) (time : ℕ) : s.Does [.out, .od, .cams, .backdrop, .strand, .side, .recorder] (State.beginFrame s p index time) := by
  unfold State.beginFrame
  repeat' first
    | with_reducible exact Does.refl _ _
    | with_reducible assumption
    | decide
    | with_reducible refine Does.pair (by assumption) ?_
    | with_reducible refine Does.pairSnd (by assumption) ?_
    | with_reducible refine Does.foldl ?_ ?_
    | (extract_lets +onlyGivenNames w_
       first
         | (refine Does.keep w_ ?_ ?_
            on_goal 1 => (unfold w_; clear w_)
            on_goal 2 => first | (clear_value w_; intro _; revert w_; intro _ _) | (intro _; revert w_; intro _ _))
         | (refine Does.keep w_.1 ?_ ?_
            on_goal 1 => (unfold w_; clear w_)
            on_goal 2 => first | (clear_value w_; intro _; revert w_; intro _ _) | (intro _; revert w_; intro _ _))
         | (clear_value w_; revert w_; intro _) | (revert w_; intro _))
    | with_reducible apply Does.step (State.raiseSlow_does ..)
    | with_reducible apply Does.step (State.bump_does ..)
    | with_reducible apply Does.step (State.pulseCc_does ..)
    | with_reducible apply Does.step (State.setCam_does ..)
    | split
    | intro _
    | dsimp -zeta only

theorem State.settleCcs_does (s : State) : s.Does [.out, .cams] (State.settleCcs s) := by
  unfold State.settleCcs
  repeat' first
    | with_reducible exact Does.refl _ _
    | with_reducible assumption
    | decide
    | with_reducible refine Does.pair (by assumption) ?_
    | with_reducible refine Does.pairSnd (by assumption) ?_
    | with_reducible refine Does.foldl ?_ ?_
    | (extract_lets +onlyGivenNames w_
       first
         | (refine Does.keep w_ ?_ ?_
            on_goal 1 => (unfold w_; clear w_)
            on_goal 2 => first | (clear_value w_; intro _; revert w_; intro _ _) | (intro _; revert w_; intro _ _))
         | (refine Does.keep w_.1 ?_ ?_
            on_goal 1 => (unfold w_; clear w_)
            on_goal 2 => first | (clear_value w_; intro _; revert w_; intro _ _) | (intro _; revert w_; intro _ _))
         | (clear_value w_; revert w_; intro _) | (revert w_; intro _))
    | with_reducible apply Does.step (State.settleCc_does ..)
    | split
    | intro _
    | dsimp -zeta only

theorem State.failStart_does (s : State) (p : ℕ) : s.Does [.out, .od, .cams, .backdrop, .strand, .side, .recorder] (State.failStart s p) := by
  unfold State.failStart
  repeat' first
    | with_reducible exact Does.refl _ _
    | with_reducible assumption
    | decide
    | (extract_lets +onlyGivenNames w_
       first
         | (refine Does.keep w_ ?_ ?_
            on_goal 1 => (unfold w_; clear w_)
            on_goal 2 => first | (clear_value w_; intro _; revert w_; intro _ _) | (intro _; revert w_; intro _ _))
         | (clear_value w_; revert w_; intro _) | (revert w_; intro _))
    | with_reducible apply Does.step (State.raise_does ..)
    | with_reducible apply Does.step (State.bump_does ..)
    | with_reducible apply Does.step (State.backOut_does ..)
    | split

end Sys2Proof.Machine
end

