-- ==== Sys2Proof/Laws/Fabric.lean ====
section
/-!
SUPPORT. What the operations of Machine/Fabric.lean do.
-/
set_option Elab.async false
set_option linter.all false

namespace Sys2Proof.Machine

theorem State.sendTopo_does (s : State) (r : Sys2Proof.Topo) (except : Option ℕ) : s.Does [.out, .od, .strand] (State.sendTopo s r except) := by
  unfold State.sendTopo
  repeat' first
    | with_reducible exact Does.refl _ _
    | decide
    | with_reducible refine Does.foldl ?_ ?_
    | with_reducible apply Does.step (State.sendLocal_does ..)
    | split
    | intro _

theorem State.flood_does (s : State) : s.Does [.out, .od, .strand] (State.flood s) := by
  unfold State.flood
  repeat' first
    | with_reducible exact Does.refl _ _
    | decide
    | with_reducible apply Does.step (State.sendTopo_does ..)
    | exact Or.inr (by decide)
    | exact Or.inl rfl
    | exact fun h => ⟨h.mem, h.od, h.cams, h.time, h.pipe, h.tracker, h.drive, h.seqs, h.loops, h.thermal, h.backdrop, by first | exact ⟨h.strand.1, h.strand.2.1, h.strand.2.2⟩ | simpa [Strand.shaped] using h.strand | (have hh := h.strand; clear h; simp_all [Strand.shaped]), h.dict, h.side, h.pins, h.dma, h.recorder⟩
    | with_reducible apply Does.parts

theorem State.refreshTopo_does (s : State) : s.Does [.out, .od, .strand] (State.refreshTopo s) := by
  unfold State.refreshTopo
  repeat' first
    | with_reducible exact Does.refl _ _
    | decide
    | with_reducible apply Does.step (State.flood_does ..)
    | split

theorem State.takeId_does (s : State) (id : ℕ) : s.Does [.out, .od, .backdrop, .strand, .side, .recorder] (State.takeId s id) := by
  unfold State.takeId
  repeat' first
    | with_reducible exact Does.refl _ _
    | with_reducible assumption
    | decide
    | with_reducible apply Does.step (State.raise_does ..)
    | with_reducible apply Does.step (State.refreshTopo_does ..)
    | exact Or.inr (by decide)
    | exact Or.inl rfl
    | exact fun h => ⟨h.mem, h.od, h.cams, h.time, h.pipe, h.tracker, h.drive, h.seqs, h.loops, h.thermal, h.backdrop, by first | exact ⟨h.strand.1, h.strand.2.1, h.strand.2.2⟩ | simpa [Strand.shaped] using h.strand | (have hh := h.strand; clear h; simp_all [Strand.shaped]), h.dict, h.side, h.pins, h.dma, h.recorder⟩
    | with_reducible apply Does.parts

theorem State.sendHello_does (s : State) (l : ℕ) : s.Does [.out, .od, .strand] (State.sendHello s l) := by
  unfold State.sendHello
  repeat' first
    | with_reducible exact Does.refl _ _
    | with_reducible assumption
    | decide
    | with_reducible refine Does.pair (by assumption) ?_
    | with_reducible refine Does.pairSnd (by assumption) ?_
    | with_reducible refine Does.foldl ?_ ?_
    | (extract_lets +onlyGivenNames w_
       first
         | (refine Does.keep w_ ?_ ?_
            on_goal 1 => (unfold w_; clear w_)
            on_goal 2 => first | (clear_value w_; intro _; revert w_; intro _ _) | (intro _; revert w_; intro _ _))
         | (refine Does.keep w_.1 ?_ ?_
            on_goal 1 => (unfold w_; clear w_)
            on_goal 2 => first | (clear_value w_; intro _; revert w_; intro _ _) | (intro _; revert w_; intro _ _))
         | (clear_value w_; revert w_; intro _) | (revert w_; intro _))
    | with_reducible apply Does.step (State.sendLocal_does ..)
    | with_reducible apply Does.step (State.emit_does ..)
    | split
    | intro _
    | dsimp -zeta only

theorem State.pendingIdTaken_does (s : State) : s.Does [.out, .od, .backdrop, .strand, .side, .recorder] (State.pendingIdTaken s) := by
  unfold State.pendingIdTaken
  repeat' first
    | with_reducible exact Does.refl _ _
    | decide
    | with_reducible apply Does.step (State.takeId_does ..)
    | split

theorem State.rerouteAll_does (a0 : List Sys2Proof.Frame) (a1 : State) : a1.Does [.out, .od, .strand, .recorder] (State.rerouteAll a0 a1) := by
  induction a0 generalizing a1
  all_goals unfold State.rerouteAll
  · exact Does.refl _ _
  rename_i ih
  repeat' first
    | with_reducible exact Does.refl _ _
    | with_reducible assumption
    | decide
    | with_reducible refine Does.pair (by assumption) ?_
    | with_reducible refine Does.pairSnd (by assumption) ?_
    | with_reducible refine Does.foldl ?_ ?_
    | (extract_lets +onlyGivenNames w_
       first
         | (refine Does.keep w_ ?_ ?_
            on_goal 1 => (unfold w_; clear w_)
            on_goal 2 => first | (clear_value w_; intro _; revert w_; intro _ _) | (intro _; revert w_; intro _ _))
         | (refine Does.keep w_.1 ?_ ?_
            on_goal 1 => (unfold w_; clear w_)
            on_goal 2 => first | (clear_value w_; intro _; revert w_; intro _ _) | (intro _; revert w_; intro _ _))
         | (clear_value w_; revert w_; intro _) | (revert w_; intro _))
    | with_reducible refine Does.step (ih ..) ?_ ?_
    | with_reducible apply Does.step (State.noteDropped_does ..)
    | with_reducible apply Does.step (State.routeOut_does ..)
    | split
    | intro _
    | dsimp -zeta only

theorem State.confirmId_does (s : State) (id : ℕ) : s.Does [.out, .od, .backdrop, .strand, .side, .recorder] (State.confirmId s id) := by
  unfold State.confirmId
  repeat' first
    | with_reducible exact Does.refl _ _
    | decide
    | with_reducible apply Does.step (State.takeId_does ..)
    | with_reducible apply Does.step (State.refreshTopo_does ..)
    | exact Or.inr (by decide)
    | exact Or.inl rfl
    | exact fun h => ⟨h.mem, h.od, h.cams, h.time, h.pipe, h.tracker, h.drive, h.seqs, h.loops, h.thermal, h.backdrop, by first | exact ⟨h.strand.1, h.strand.2.1, h.strand.2.2⟩ | simpa [Strand.shaped] using h.strand | (have hh := h.strand; clear h; simp_all [Strand.shaped]), h.dict, h.side, h.pins, h.dma, h.recorder⟩
    | split
    | with_reducible apply Does.parts

theorem State.learnId_does (s : State) : s.Does [.out, .od, .backdrop, .strand, .side, .recorder] (State.learnId s) := by
  unfold State.learnId
  repeat' first
    | with_reducible exact Does.refl _ _
    | with_reducible assumption
    | decide
    | with_reducible refine Does.foldl ?_ ?_
    | (extract_lets +onlyGivenNames w_
       first
         | (refine Does.keep w_ ?_ ?_
            on_goal 1 => (unfold w_; clear w_)
            on_goal 2 => first | (clear_value w_; intro _; revert w_; intro _ _) | (intro _; revert w_; intro _ _))
         | (have h_ : Strand := w_; clear h_; subst w_)
         | (clear_value w_; revert w_; intro _) | (revert w_; intro _))
    | with_reducible apply Does.step (State.confirmId_does ..)
    | with_reducible apply Does.step (State.raise_does ..)
    | with_reducible apply Does.step (State.sendHello_does ..)
    | exact Or.inr (by decide)
    | exact Or.inl rfl
    | exact fun h => ⟨h.mem, h.od, h.cams, h.time, h.pipe, h.tracker, h.drive, h.seqs, h.loops, h.thermal, h.backdrop, by first | exact ⟨h.strand.1, h.strand.2.1, h.strand.2.2⟩ | simpa [Strand.shaped] using h.strand | (have hh := h.strand; clear h; simp_all [Strand.shaped]), h.dict, h.side, h.pins, h.dma, h.recorder⟩
    | split
    | intro _
    | with_reducible apply Does.parts

theorem State.linkDown_does (s : State) (l : ℕ) : s.Does [.out, .od, .backdrop, .strand, .side, .recorder] (State.linkDown s l) := by
  unfold State.linkDown
  repeat' first
    | with_reducible exact Does.refl _ _
    | with_reducible assumption
    | decide
    | (extract_lets +onlyGivenNames w_
       first
         | (refine Does.keep w_ ?_ ?_
            on_goal 1 => (unfold w_; clear w_)
            on_goal 2 => first | (clear_value w_; intro _; revert w_; intro _ _) | (intro _; revert w_; intro _ _))
         | (clear_value w_; revert w_; intro _) | (revert w_; intro _))
    | with_reducible apply Does.step (State.learnId_does ..)
    | with_reducible apply Does.step (State.raise_does ..)
    | with_reducible apply Does.step (State.refreshTopo_does ..)
    | with_reducible apply Does.step (State.rerouteAll_does ..)
    | with_reducible apply Does.step (State.bump_does ..)
    | with_reducible apply Does.step (State.setLink_does ..)
    | split

end Sys2Proof.Machine
end

