-- ==== Sys2Proof/Laws/SideOps.lean ====
section
/-!
SUPPORT. What the operations of Machine/SideOps.lean do.
-/
set_option Elab.async false
set_option linter.all false

namespace Sys2Proof.Machine

theorem State.queueTx_does (s : State) (f : TxFrame) : s.Does [.side] (State.queueTx s f) := by
  unfold State.queueTx
  repeat' first
    | with_reducible exact Does.refl _ _
    | exact Or.inr (by decide)
    | exact Or.inl rfl
    | exact fun h => ⟨h.mem, h.od, h.cams, h.time, h.pipe, h.tracker, h.drive, h.seqs, h.loops, h.thermal, h.backdrop, h.strand, h.dict, by first | exact ⟨h.side.1, h.side.2.1, h.side.2.2⟩ | simpa [Sideband.shaped] using h.side | (have hh := h.side; clear h; simp_all [Sideband.shaped]), h.pins, h.dma, h.recorder⟩
    | split
    | with_reducible apply Does.parts

theorem State.sdoFrame_does (s : State) (cmd : ℕ) (index : ℕ) (sub : ℕ) (low : ℕ) : s.Does [.side] (State.sdoFrame s cmd index sub low) := by
  unfold State.sdoFrame
  repeat' first
    | with_reducible exact Does.refl _ _
    | decide
    | with_reducible apply Does.step (State.queueTx_does ..)

theorem State.sdoAbort_does (s : State) (index : ℕ) (sub : ℕ) (code : ℕ) : s.Does [.out, .side] (State.sdoAbort s index sub code) := by
  unfold State.sdoAbort
  repeat' first
    | with_reducible exact Does.refl _ _
    | decide
    | with_reducible apply Does.step (State.answer_does ..)
    | with_reducible apply Does.step (State.sdoFrame_does ..)
    | exact Or.inr (by decide)
    | exact Or.inl rfl
    | exact fun h => ⟨h.mem, h.od, h.cams, h.time, h.pipe, h.tracker, h.drive, h.seqs, h.loops, h.thermal, h.backdrop, h.strand, h.dict, by first | exact ⟨h.side.1, h.side.2.1, h.side.2.2⟩ | simpa [Sideband.shaped] using h.side | (have hh := h.side; clear h; simp_all [Sideband.shaped]), h.pins, h.dma, h.recorder⟩
    | with_reducible apply Does.parts

theorem State.sdoMainDown_does (s : State) : s.Does [.out, .side] (State.sdoMainDown s) := by
  unfold State.sdoMainDown
  repeat' first
    | with_reducible exact Does.refl _ _
    | decide
    | with_reducible apply Does.step (State.sdoAbort_does ..)
    | split

theorem State.dictData_does (a0 : ℕ) (a1 : State) (a2 : ℕ) (a3 : ℕ → List ℕ) (a4 : ℕ) (a5 : List Sys2Proof.Byte) : a1.Does [.out, .od, .strand, .recorder] (State.dictData a0 a1 a2 a3 a4 a5) := by
  induction a0 generalizing a1 a2 a3 a4 a5
  all_goals unfold State.dictData
  · exact Does.refl _ _
  rename_i ih
  repeat' first
    | with_reducible exact Does.refl _ _
    | with_reducible assumption
    | decide
    | with_reducible refine Does.pair (by assumption) ?_
    | with_reducible refine Does.pairSnd (by assumption) ?_
    | with_reducible refine Does.foldl ?_ ?_
    | (extract_lets +onlyGivenNames w_
       first
         | (refine Does.keep w_ ?_ ?_
            on_goal 1 => (unfold w_; clear w_)
            on_goal 2 => first | (clear_value w_; intro _; revert w_; intro _ _) | (intro _; revert w_; intro _ _))
         | (refine Does.keep w_.1 ?_ ?_
            on_goal 1 => (unfold w_; clear w_)
            on_goal 2 => first | (clear_value w_; intro _; revert w_; intro _ _) | (intro _; revert w_; intro _ _))
         | (clear_value w_; revert w_; intro _) | (revert w_; intro _))
    | with_reducible refine Does.step (ih ..) ?_ ?_
    | with_reducible apply Does.step (State.post_does ..)
    | split
    | intro _
    | dsimp -zeta only

theorem State.dictAnswerFrom_does (s : State) (offset : ℕ) (src : ℕ) (txn : ℕ) (index : ℕ) (sub : ℕ) (whole : Bool) (code : ℕ) (d : List Sys2Proof.Byte) : s.Does [.out, .od, .strand, .recorder] (State.dictAnswerFrom s offset src txn index sub whole code d) := by
  unfold State.dictAnswerFrom
  repeat' first
    | with_reducible exact Does.refl _ _
    | with_reducible assumption
    | decide
    | with_reducible refine Does.pair (by assumption) ?_
    | with_reducible refine Does.pairSnd (by assumption) ?_
    | with_reducible refine Does.foldl ?_ ?_
    | (extract_lets +onlyGivenNames w_
       first
         | (refine Does.keep w_ ?_ ?_
            on_goal 1 => (unfold w_; clear w_)
            on_goal 2 => first | (clear_value w_; intro _; revert w_; intro _ _) | (intro _; revert w_; intro _ _))
         | (refine Does.keep w_.1 ?_ ?_
            on_goal 1 => (unfold w_; clear w_)
            on_goal 2 => first | (clear_value w_; intro _; revert w_; intro _ _) | (intro _; revert w_; intro _ _))
         | (clear_value w_; revert w_; intro _) | (revert w_; intro _))
    | with_reducible apply Does.step (State.dictData_does ..)
    | with_reducible apply Does.step (State.bump_does ..)
    | split
    | intro _
    | dsimp -zeta only

theorem State.sdoBytes_does (s : State) (cmd : ℕ) (d : List Sys2Proof.Byte) : s.Does [.side] (State.sdoBytes s cmd d) := by
  unfold State.sdoBytes
  repeat' first
    | with_reducible exact Does.refl _ _
    | with_reducible assumption
    | decide
    | with_reducible refine Does.pair (by assumption) ?_
    | with_reducible refine Does.pairSnd (by assumption) ?_
    | with_reducible refine Does.foldl ?_ ?_
    | (extract_lets +onlyGivenNames w_
       first
         | (refine Does.keep w_ ?_ ?_
            on_goal 1 => (unfold w_; clear w_)
            on_goal 2 => first | (clear_value w_; intro _; revert w_; intro _ _) | (intro _; revert w_; intro _ _))
         | (refine Does.keep w_.1 ?_ ?_
            on_goal 1 => (unfold w_; clear w_)
            on_goal 2 => first | (clear_value w_; intro _; revert w_; intro _ _) | (intro _; revert w_; intro _ _))
         | (clear_value w_; revert w_; intro _) | (revert w_; intro _))
    | with_reducible apply Does.step (State.queueTx_does ..)
    | split
    | intro _
    | dsimp -zeta only

theorem State.sdoDone_does (s : State) (t : SdoTransfer) : s.Does [.side] (State.sdoDone s t) := by
  unfold State.sdoDone
  repeat' first
    | with_reducible exact Does.refl _ _
    | with_reducible assumption
    | decide
    | with_reducible refine Does.pair (by assumption) ?_
    | with_reducible refine Does.pairSnd (by assumption) ?_
    | with_reducible refine Does.foldl ?_ ?_
    | (extract_lets +onlyGivenNames w_
       first
         | (refine Does.keep w_ ?_ ?_
            on_goal 1 => (unfold w_; clear w_)
            on_goal 2 => first | (clear_value w_; intro _; revert w_; intro _ _) | (intro _; revert w_; intro _ _))
         | (refine Does.keep w_.1 ?_ ?_
            on_goal 1 => (unfold w_; clear w_)
            on_goal 2 => first | (clear_value w_; intro _; revert w_; intro _ _) | (intro _; revert w_; intro _ _))
         | (clear_value w_; revert w_; intro _) | (revert w_; intro _))
    | with_reducible apply Does.step (State.sdoBytes_does ..)
    | with_reducible apply Does.step (State.sdoFrame_does ..)
    | split
    | intro _
    | dsimp -zeta only

theorem State.sdoFinish_does (s : State) (t : SdoTransfer) (code : ℕ) : s.Does [.out, .side] (State.sdoFinish s t code) := by
  unfold State.sdoFinish
  repeat' first
    | with_reducible exact Does.refl _ _
    | with_reducible assumption
    | decide
    | with_reducible refine Does.pair (by assumption) ?_
    | with_reducible refine Does.pairSnd (by assumption) ?_
    | with_reducible refine Does.foldl ?_ ?_
    | (extract_lets +onlyGivenNames w_
       first
         | (refine Does.keep w_ ?_ ?_
            on_goal 1 => (unfold w_; clear w_)
            on_goal 2 => first | (clear_value w_; intro _; revert w_; intro _ _) | (intro _; revert w_; intro _ _))
         | (refine Does.keep w_.1 ?_ ?_
            on_goal 1 => (unfold w_; clear w_)
            on_goal 2 => first | (clear_value w_; intro _; revert w_; intro _ _) | (intro _; revert w_; intro _ _))
         | (have h_ : Sideband := w_; clear h_; subst w_)
         | (clear_value w_; revert w_; intro _) | (revert w_; intro _))
    | with_reducible apply Does.step (State.sdoDone_does ..)
    | with_reducible apply Does.step (State.sdoAbort_does ..)
    | with_reducible apply Does.step (State.answer_does ..)
    | exact Or.inr (by decide)
    | exact Or.inl rfl
    | exact fun h => ⟨h.mem, h.od, h.cams, h.time, h.pipe, h.tracker, h.drive, h.seqs, h.loops, h.thermal, h.backdrop, h.strand, h.dict, by first | exact ⟨h.side.1, h.side.2.1, h.side.2.2⟩ | simpa [Sideband.shaped] using h.side | (have hh := h.side; clear h; simp_all [Sideband.shaped]), h.pins, h.dma, h.recorder⟩
    | split
    | intro _
    | dsimp -zeta only
    | with_reducible apply Does.parts

theorem State.clearBy_does (s : State) (via : ClearVia) : s.Does [.recorder] (State.clearBy s via) := by
  unfold State.clearBy
  repeat' first
    | with_reducible exact Does.refl _ _
    | with_reducible assumption
    | decide
    | with_reducible refine Does.pair (by assumption) ?_
    | with_reducible refine Does.pairSnd (by assumption) ?_
    | with_reducible refine Does.foldl ?_ ?_
    | (extract_lets +onlyGivenNames w_
       first
         | (refine Does.keep w_ ?_ ?_
            on_goal 1 => (unfold w_; clear w_)
            on_goal 2 => first | (clear_value w_; intro _; revert w_; intro _ _) | (intro _; revert w_; intro _ _))
         | (refine Does.keep w_.1 ?_ ?_
            on_goal 1 => (unfold w_; clear w_)
            on_goal 2 => first | (clear_value w_; intro _; revert w_; intro _ _) | (intro _; revert w_; intro _ _))
         | (have h_ : Recorder := w_; clear h_; subst w_)
         | (clear_value w_; revert w_; intro _) | (revert w_; intro _))
    | exact Or.inr (by decide)
    | exact Or.inl rfl
    | exact fun h => ⟨h.mem, h.od, h.cams, h.time, h.pipe, h.tracker, h.drive, h.seqs, h.loops, h.thermal, h.backdrop, h.strand, h.dict, h.side, h.pins, h.dma, by first | exact ⟨h.recorder.1, h.recorder.2.1, h.recorder.2.2.1, h.recorder.2.2.2.1, h.recorder.2.2.2.2⟩ | simpa [Recorder.shaped] using h.recorder | (have hh := h.recorder; clear h; simp_all [Recorder.shaped])⟩
    | split
    | intro _
    | dsimp -zeta only
    | with_reducible apply Does.parts

theorem State.dictAnswer_does (s : State) (src : ℕ) (txn : ℕ) (index : ℕ) (sub : ℕ) (whole : Bool) (code : ℕ) (d : List Sys2Proof.Byte) : s.Does [.out, .od, .strand, .recorder] (State.dictAnswer s src txn index sub whole code d) := by
  unfold State.dictAnswer
  repeat' first
    | with_reducible exact Does.refl _ _
    | with_reducible assumption
    | decide
    | with_reducible refine Does.pair (by assumption) ?_
    | with_reducible refine Does.pairSnd (by assumption) ?_
    | with_reducible refine Does.foldl ?_ ?_
    | (extract_lets +onlyGivenNames w_
       first
         | (refine Does.keep w_ ?_ ?_
            on_goal 1 => (unfold w_; clear w_)
            on_goal 2 => first | (clear_value w_; intro _; revert w_; intro _ _) | (intro _; revert w_; intro _ _))
         | (refine Does.keep w_.1 ?_ ?_
            on_goal 1 => (unfold w_; clear w_)
            on_goal 2 => first | (clear_value w_; intro _; revert w_; intro _ _) | (intro _; revert w_; intro _ _))
         | (clear_value w_; revert w_; intro _) | (revert w_; intro _))
    | with_reducible apply Does.step (State.dictAnswerFrom_does ..)
    | split
    | intro _
    | dsimp -zeta only

theorem State.answerClear_does (s : State) (m : Sys2Proof.Master) : s.Does [.out, .od, .strand, .side, .recorder] (State.answerClear s m) := by
  unfold State.answerClear
  repeat' first
    | with_reducible exact Does.refl _ _
    | with_reducible assumption
    | decide
    | with_reducible refine Does.pair (by assumption) ?_
    | with_reducible refine Does.pairSnd (by assumption) ?_
    | with_reducible refine Does.foldl ?_ ?_
    | (extract_lets +onlyGivenNames w_
       first
         | (refine Does.keep w_ ?_ ?_
            on_goal 1 => (unfold w_; clear w_)
            on_goal 2 => first | (clear_value w_; intro _; revert w_; intro _ _) | (intro _; revert w_; intro _ _))
         | (refine Does.keep w_.1 ?_ ?_
            on_goal 1 => (unfold w_; clear w_)
            on_goal 2 => first | (clear_value w_; intro _; revert w_; intro _ _) | (intro _; revert w_; intro _ _))
         | (clear_value w_; revert w_; intro _) | (revert w_; intro _))
    | with_reducible apply Does.step (State.dictAnswer_does ..)
    | with_reducible apply Does.step (State.sdoFinish_does ..)
    | with_reducible apply Does.step (State.answer_does ..)
    | split
    | intro _
    | dsimp -zeta only

theorem State.noteReset_does (s : State) (before : State) : s.Does [.out, .od, .backdrop, .strand, .side, .recorder] (State.noteReset s before) := by
  unfold State.noteReset
  repeat' first
    | with_reducible exact Does.refl _ _
    | decide
    | with_reducible apply Does.step (State.raise_does ..)
    | with_reducible apply Does.step (State.queueEmcy_does ..)
    | split

end Sys2Proof.Machine
end

