-- ==== Sys2Proof/Laws/ModOps.lean ====
section
/-!
SUPPORT. What the operations of Machine/ModOps.lean do.
-/
set_option Elab.async false
set_option linter.all false

namespace Sys2Proof.Machine

theorem State.vbstOff_does (s : State) : s.Does [.drive, .power] (State.vbstOff s) := by
  unfold State.vbstOff
  repeat' first
    | with_reducible exact Does.refl _ _
    | exact Or.inr (by decide)
    | exact Or.inl rfl
    | exact fun h => ⟨h.mem, h.od, h.cams, h.time, h.pipe, h.tracker, by first | exact ⟨h.drive.1, h.drive.2⟩ | simpa [Drive.shaped] using h.drive | (have hh := h.drive; clear h; simp_all [Drive.shaped]), h.seqs, h.loops, h.thermal, h.backdrop, h.strand, h.dict, h.side, h.pins, h.dma, h.recorder⟩
    | with_reducible apply Does.parts

theorem State.beginDerated_does (s : State) : s.Does [.od, .drive, .thermal] (State.beginDerated s) := by
  unfold State.beginDerated
  repeat' first
    | with_reducible exact Does.refl _ _
    | with_reducible assumption
    | decide
    | with_reducible refine Does.pair (by assumption) ?_
    | with_reducible refine Does.pairSnd (by assumption) ?_
    | with_reducible refine Does.foldl ?_ ?_
    | (extract_lets +onlyGivenNames w_
       first
         | (refine Does.keep w_ ?_ ?_
            on_goal 1 => (unfold w_; clear w_)
            on_goal 2 => first | (clear_value w_; intro _; revert w_; intro _ _) | (intro _; revert w_; intro _ _))
         | (refine Does.keep w_.1 ?_ ?_
            on_goal 1 => (unfold w_; clear w_)
            on_goal 2 => first | (clear_value w_; intro _; revert w_; intro _ _) | (intro _; revert w_; intro _ _))
         | (have h_ : Thermal := w_; clear h_; subst w_)
         | (clear_value w_; revert w_; intro _) | (revert w_; intro _))
    | with_reducible apply Does.step (State.bump_does ..)
    | with_reducible apply Does.step (State.setValve_does ..)
    | with_reducible apply Does.step (State.refill_does ..)
    | exact Or.inr (by decide)
    | exact Or.inl rfl
    | exact fun h => ⟨h.mem, h.od, h.cams, h.time, h.pipe, h.tracker, h.drive, h.seqs, h.loops, by first | exact h.thermal | simpa [Thermal.shaped] using h.thermal | (have hh := h.thermal; clear h; simp_all [Thermal.shaped]), h.backdrop, h.strand, h.dict, h.side, h.pins, h.dma, h.recorder⟩
    | split
    | intro _
    | dsimp -zeta only
    | with_reducible apply Does.parts

theorem State.endDerated_does (s : State) : s.Does [.out, .od, .drive, .thermal, .backdrop, .strand, .side, .recorder] (State.endDerated s) := by
  unfold State.endDerated
  repeat' first
    | with_reducible exact Does.refl _ _
    | with_reducible assumption
    | decide
    | with_reducible refine Does.pair (by assumption) ?_
    | with_reducible refine Does.pairSnd (by assumption) ?_
    | with_reducible refine Does.foldl ?_ ?_
    | (extract_lets +onlyGivenNames w_
       first
         | (refine Does.keep w_ ?_ ?_
            on_goal 1 => (unfold w_; clear w_)
            on_goal 2 => first | (clear_value w_; intro _; revert w_; intro _ _) | (intro _; revert w_; intro _ _))
         | (refine Does.keep w_.1 ?_ ?_
            on_goal 1 => (unfold w_; clear w_)
            on_goal 2 => first | (clear_value w_; intro _; revert w_; intro _ _) | (intro _; revert w_; intro _ _))
         | (have h_ : Thermal := w_; clear h_; subst w_)
         | (clear_value w_; revert w_; intro _) | (revert w_; intro _))
    | with_reducible apply Does.step (State.raise_does ..)
    | with_reducible apply Does.step (State.refill_does ..)
    | exact Or.inr (by decide)
    | exact Or.inl rfl
    | exact fun h => ⟨h.mem, h.od, h.cams, h.time, h.pipe, h.tracker, h.drive, h.seqs, h.loops, by first | exact h.thermal | simpa [Thermal.shaped] using h.thermal | (have hh := h.thermal; clear h; simp_all [Thermal.shaped]), h.backdrop, h.strand, h.dict, h.side, h.pins, h.dma, h.recorder⟩
    | split
    | intro _
    | dsimp -zeta only
    | with_reducible apply Does.parts

theorem State.deratedIn_does (s : State) (st : ModState) : s.Does [.out, .od, .drive, .thermal, .backdrop, .strand, .side, .recorder] (State.deratedIn s st) := by
  unfold State.deratedIn
  repeat' first
    | with_reducible exact Does.refl _ _
    | with_reducible assumption
    | decide
    | with_reducible refine Does.pair (by assumption) ?_
    | with_reducible refine Does.pairSnd (by assumption) ?_
    | with_reducible refine Does.foldl ?_ ?_
    | (extract_lets +onlyGivenNames w_
       first
         | (refine Does.keep w_ ?_ ?_
            on_goal 1 => (unfold w_; clear w_)
            on_goal 2 => first | (clear_value w_; intro _; revert w_; intro _ _) | (intro _; revert w_; intro _ _))
         | (refine Does.keep w_.1 ?_ ?_
            on_goal 1 => (unfold w_; clear w_)
            on_goal 2 => first | (clear_value w_; intro _; revert w_; intro _ _) | (intro _; revert w_; intro _ _))
         | (clear_value w_; revert w_; intro _) | (revert w_; intro _))
    | with_reducible apply Does.step (State.endDerated_does ..)
    | with_reducible apply Does.step (State.beginDerated_does ..)
    | split
    | intro _
    | dsimp -zeta only

theorem State.enterState_does (s : State) (st : ModState) (trigger : ℕ) : s.Does [.out, .od, .drive, .ledger, .loops, .thermal, .backdrop, .module, .strand, .side, .recorder] (State.enterState s st trigger) := by
  unfold State.enterState
  repeat' first
    | with_reducible exact Does.refl _ _
    | with_reducible assumption
    | decide
    | with_reducible refine Does.pair (by assumption) ?_
    | with_reducible refine Does.pairSnd (by assumption) ?_
    | with_reducible refine Does.foldl ?_ ?_
    | (extract_lets +onlyGivenNames w_
       first
         | (refine Does.keep w_ ?_ ?_
            on_goal 1 => (unfold w_; clear w_)
            on_goal 2 => first | (clear_value w_; intro _; revert w_; intro _ _) | (intro _; revert w_; intro _ _))
         | (refine Does.keep w_.1 ?_ ?_
            on_goal 1 => (unfold w_; clear w_)
            on_goal 2 => first | (clear_value w_; intro _; revert w_; intro _ _) | (intro _; revert w_; intro _ _))
         | (clear_value w_; revert w_; intro _) | (revert w_; intro _))
    | with_reducible apply Does.step (State.loopsRecheck_does ..)
    | with_reducible apply Does.step (State.pendingCoreStep_does ..)
    | with_reducible apply Does.step (State.deratedIn_does ..)
    | with_reducible apply Does.step (State.pendingIdTaken_does ..)
    | with_reducible apply Does.step (State.raise_does ..)
    | with_reducible apply Does.step (State.refreshTopo_does ..)
    | exact Or.inr (by decide)
    | exact Or.inl rfl
    | exact fun h => ⟨h.mem, h.od, h.cams, h.time, h.pipe, h.tracker, h.drive, h.seqs, h.loops, h.thermal, h.backdrop, h.strand, h.dict, h.side, h.pins, h.dma, h.recorder⟩
    | split
    | intro _
    | dsimp -zeta only
    | with_reducible apply Does.parts

theorem State.lapse_does (s : State) : s.Does [.power, .module] (State.lapse s) := by
  unfold State.lapse
  repeat' first
    | with_reducible exact Does.refl _ _
    | exact Or.inr (by decide)
    | exact Or.inl rfl
    | exact fun h => ⟨h.mem, h.od, h.cams, h.time, h.pipe, h.tracker, h.drive, h.seqs, h.loops, h.thermal, h.backdrop, h.strand, h.dict, h.side, h.pins, h.dma, h.recorder⟩
    | with_reducible apply Does.parts

theorem State.moor_does (s : State) (trigger : ℕ) : s.Does [.out, .od, .drive, .ledger, .loops, .power, .thermal, .backdrop, .module, .strand, .side, .recorder] (State.moor s trigger) := by
  unfold State.moor
  repeat' first
    | with_reducible exact Does.refl _ _
    | with_reducible assumption
    | decide
    | with_reducible refine Does.pair (by assumption) ?_
    | with_reducible refine Does.pairSnd (by assumption) ?_
    | with_reducible refine Does.foldl ?_ ?_
    | (extract_lets +onlyGivenNames w_
       first
         | (refine Does.keep w_ ?_ ?_
            on_goal 1 => (unfold w_; clear w_)
            on_goal 2 => first | (clear_value w_; intro _; revert w_; intro _ _) | (intro _; revert w_; intro _ _))
         | (refine Does.keep w_.1 ?_ ?_
            on_goal 1 => (unfold w_; clear w_)
            on_goal 2 => first | (clear_value w_; intro _; revert w_; intro _ _) | (intro _; revert w_; intro _ _))
         | (clear_value w_; revert w_; intro _) | (revert w_; intro _))
    | with_reducible apply Does.step (State.enterState_does ..)
    | with_reducible apply Does.step (State.emit_does ..)
    | exact Or.inr (by decide)
    | exact Or.inl rfl
    | exact fun h => ⟨h.mem, h.od, h.cams, h.time, h.pipe, h.tracker, h.drive, h.seqs, h.loops, h.thermal, h.backdrop, h.strand, h.dict, h.side, h.pins, h.dma, h.recorder⟩
    | split
    | intro _
    | dsimp -zeta only
    | with_reducible apply Does.parts

theorem State.mooredRefused_does (s : State) : s.Does [.out, .od, .backdrop, .strand, .side, .recorder] (State.mooredRefused s) := by
  unfold State.mooredRefused
  repeat' first
    | with_reducible exact Does.refl _ _
    | decide
    | with_reducible apply Does.step (State.raise_does ..)
    | with_reducible apply Does.step (State.bump_does ..)

theorem State.abandonMoored_does (s : State) : s.Does [.out, .od, .loops, .power, .backdrop, .strand, .side, .recorder] (State.abandonMoored s) := by
  unfold State.abandonMoored
  repeat' first
    | with_reducible exact Does.refl _ _
    | with_reducible assumption
    | decide
    | with_reducible refine Does.pair (by assumption) ?_
    | with_reducible refine Does.pairSnd (by assumption) ?_
    | with_reducible refine Does.foldl ?_ ?_
    | (extract_lets +onlyGivenNames w_
       first
         | (refine Does.keep w_ ?_ ?_
            on_goal 1 => (unfold w_; clear w_)
            on_goal 2 => first | (clear_value w_; intro _; revert w_; intro _ _) | (intro _; revert w_; intro _ _))
         | (refine Does.keep w_.1 ?_ ?_
            on_goal 1 => (unfold w_; clear w_)
            on_goal 2 => first | (clear_value w_; intro _; revert w_; intro _ _) | (intro _; revert w_; intro _ _))
         | (have h_ : Backdrop := w_; clear h_; subst w_)
         | (clear_value w_; revert w_; intro _) | (revert w_; intro _))
    | with_reducible apply Does.step (State.mooredRefused_does ..)
    | with_reducible apply Does.step (State.settleOuts_does ..)
    | with_reducible apply Does.step (State.putNat_does ..)
    | exact Or.inr (by decide)
    | exact Or.inl rfl
    | exact fun h => ⟨h.mem, h.od, h.cams, h.time, h.pipe, h.tracker, h.drive, h.seqs, h.loops, h.thermal, by first | exact ⟨h.backdrop.1, h.backdrop.2.1, h.backdrop.2.2⟩ | simpa [Backdrop.shaped] using h.backdrop | (have hh := h.backdrop; clear h; simp_all [Backdrop.shaped]), h.strand, h.dict, h.side, h.pins, h.dma, h.recorder⟩
    | split
    | intro _
    | dsimp -zeta only
    | with_reducible apply Does.parts

theorem State.spoilStore_does (s : State) (part : ℕ) : s.Does [.dict] (State.spoilStore s part) := by
  unfold State.spoilStore
  repeat' first
    | with_reducible exact Does.refl _ _
    | with_reducible assumption
    | decide
    | with_reducible refine Does.pair (by assumption) ?_
    | with_reducible refine Does.pairSnd (by assumption) ?_
    | with_reducible refine Does.foldl ?_ ?_
    | (extract_lets +onlyGivenNames w_
       first
         | (refine Does.keep w_ ?_ ?_
            on_goal 1 => (unfold w_; clear w_)
            on_goal 2 => first | (clear_value w_; intro _; revert w_; intro _ _) | (intro _; revert w_; intro _ _))
         | (refine Does.keep w_.1 ?_ ?_
            on_goal 1 => (unfold w_; clear w_)
            on_goal 2 => first | (clear_value w_; intro _; revert w_; intro _ _) | (intro _; revert w_; intro _ _))
         | (have h_ : Dict := w_; clear h_; subst w_)
         | (clear_value w_; revert w_; intro _) | (revert w_; intro _))
    | exact Or.inr (by decide)
    | exact Or.inl rfl
    | exact fun h => ⟨h.mem, h.od, h.cams, h.time, h.pipe, h.tracker, h.drive, h.seqs, h.loops, h.thermal, h.backdrop, h.strand, by first | exact ⟨h.dict.1, h.dict.2.1, h.dict.2.2⟩ | simpa [Dict.shaped] using h.dict | (have hh := h.dict; clear h; simp_all [Dict.shaped]), h.side, h.pins, h.dma, h.recorder⟩
    | split
    | intro _
    | dsimp -zeta only
    | with_reducible apply Does.parts

theorem State.abandonStore_does (s : State) : s.Does [.out, .dict] (State.abandonStore s) := by
  unfold State.abandonStore
  repeat' first
    | with_reducible exact Does.refl _ _
    | with_reducible assumption
    | decide
    | with_reducible refine Does.pair (by assumption) ?_
    | with_reducible refine Does.pairSnd (by assumption) ?_
    | with_reducible refine Does.foldl ?_ ?_
    | (extract_lets +onlyGivenNames w_
       first
         | (refine Does.keep w_ ?_ ?_
            on_goal 1 => (unfold w_; clear w_)
            on_goal 2 => first | (clear_value w_; intro _; revert w_; intro _ _) | (intro _; revert w_; intro _ _))
         | (refine Does.keep w_.1 ?_ ?_
            on_goal 1 => (unfold w_; clear w_)
            on_goal 2 => first | (clear_value w_; intro _; revert w_; intro _ _) | (intro _; revert w_; intro _ _))
         | (have h_ : Dict := w_; clear h_; subst w_)
         | (clear_value w_; revert w_; intro _) | (revert w_; intro _))
    | with_reducible apply Does.step (State.answer_does ..)
    | with_reducible apply Does.step (State.spoilStore_does ..)
    | exact Or.inr (by decide)
    | exact Or.inl rfl
    | exact fun h => ⟨h.mem, h.od, h.cams, h.time, h.pipe, h.tracker, h.drive, h.seqs, h.loops, h.thermal, h.backdrop, h.strand, by first | exact ⟨h.dict.1, h.dict.2.1, h.dict.2.2⟩ | simpa [Dict.shaped] using h.dict | (have hh := h.dict; clear h; simp_all [Dict.shaped]), h.side, h.pins, h.dma, h.recorder⟩
    | split
    | intro _
    | dsimp -zeta only
    | with_reducible apply Does.parts

theorem State.dropCapture_does (s : State) : s.Does [.freeCtr, .out, .od, .pipe, .backdrop, .strand, .side, .recorder] (State.dropCapture s) := by
  unfold State.dropCapture
  repeat' first
    | with_reducible exact Does.refl _ _
    | with_reducible assumption
    | decide
    | with_reducible refine Does.pair (by assumption) ?_
    | with_reducible refine Does.pairSnd (by assumption) ?_
    | with_reducible refine Does.foldl ?_ ?_
    | (extract_lets +onlyGivenNames w_
       first
         | (refine Does.keep w_ ?_ ?_
            on_goal 1 => (unfold w_; clear w_)
            on_goal 2 => first | (clear_value w_; intro _; revert w_; intro _ _) | (intro _; revert w_; intro _ _))
         | (refine Does.keep w_.1 ?_ ?_
            on_goal 1 => (unfold w_; clear w_)
            on_goal 2 => first | (clear_value w_; intro _; revert w_; intro _ _) | (intro _; revert w_; intro _ _))
         | (clear_value w_; revert w_; intro _) | (revert w_; intro _))
    | with_reducible apply Does.step (State.endCapture_does ..)
    | with_reducible apply Does.step (State.draw_does ..)
    | split
    | intro _
    | dsimp -zeta only

theorem State.settleSyncOut_does (s : State) : s.Does [.out, .time, .cams] (State.settleSyncOut s) := by
  unfold State.settleSyncOut
  repeat' first
    | with_reducible exact Does.refl _ _
    | with_reducible assumption
    | decide
    | with_reducible refine Does.pair (by assumption) ?_
    | with_reducible refine Does.pairSnd (by assumption) ?_
    | with_reducible refine Does.foldl ?_ ?_
    | (extract_lets +onlyGivenNames w_
       first
         | (refine Does.keep w_ ?_ ?_
            on_goal 1 => (unfold w_; clear w_)
            on_goal 2 => first | (clear_value w_; intro _; revert w_; intro _ _) | (intro _; revert w_; intro _ _))
         | (refine Does.keep w_.1 ?_ ?_
            on_goal 1 => (unfold w_; clear w_)
            on_goal 2 => first | (clear_value w_; intro _; revert w_; intro _ _) | (intro _; revert w_; intro _ _))
         | (have h_ : TimeSt := w_; clear h_; subst w_)
         | (clear_value w_; revert w_; intro _) | (revert w_; intro _))
    | with_reducible apply Does.step (State.settleCcs_does ..)
    | with_reducible apply Does.step (State.endCc_does ..)
    | with_reducible apply Does.step (State.emit_does ..)
    | exact Or.inr (by decide)
    | exact Or.inl rfl
    | exact fun h => ⟨h.mem, h.od, h.cams, by first | exact ⟨h.time.1, h.time.2.1, h.time.2.2⟩ | simpa [TimeSt.shaped] using h.time | (have hh := h.time; clear h; simp_all [TimeSt.shaped]), h.pipe, h.tracker, h.drive, h.seqs, h.loops, h.thermal, h.backdrop, h.strand, h.dict, h.side, h.pins, h.dma, h.recorder⟩
    | split
    | intro _
    | dsimp -zeta only
    | with_reducible apply Does.parts

theorem State.abortTransfer_does (s : State) : s.Does [.out, .od, .backdrop, .strand, .side, .recorder, .update] (State.abortTransfer s) := by
  unfold State.abortTransfer
  repeat' first
    | with_reducible exact Does.refl _ _
    | decide
    | with_reducible apply Does.step (State.raise_does ..)
    | with_reducible apply Does.step (State.bump_does ..)
    | exact Or.inr (by decide)
    | exact Or.inl rfl
    | exact fun h => ⟨h.mem, h.od, h.cams, h.time, h.pipe, h.tracker, h.drive, h.seqs, h.loops, h.thermal, h.backdrop, h.strand, h.dict, h.side, h.pins, h.dma, h.recorder⟩
    | split
    | with_reducible apply Does.parts

theorem State.mainDown_does (s : State) : s.Does [.freeCtr, .out, .od, .time, .cams, .pipe, .tracker, .drive, .seqs, .loops, .backdrop, .module, .strand, .dict, .side, .dma, .recorder, .update] (State.mainDown s) := by
  unfold State.mainDown
  repeat' first
    | with_reducible exact Does.refl _ _
    | with_reducible assumption
    | decide
    | with_reducible refine Does.pair (by assumption) ?_
    | with_reducible refine Does.pairSnd (by assumption) ?_
    | with_reducible refine Does.foldl ?_ ?_
    | (extract_lets +onlyGivenNames w_
       first
         | (refine Does.keep w_ ?_ ?_
            on_goal 1 => (unfold w_; clear w_)
            on_goal 2 => first | (clear_value w_; intro _; revert w_; intro _ _) | (intro _; revert w_; intro _ _))
         | (refine Does.keep w_.1 ?_ ?_
            on_goal 1 => (unfold w_; clear w_)
            on_goal 2 => first | (clear_value w_; intro _; revert w_; intro _ _) | (intro _; revert w_; intro _ _))
         | (have h_ : List Camera := w_; clear h_; subst w_)
         | (have h_ : TimeSt := w_; clear h_; subst w_)
         | (have h_ : Pipeline := w_; clear h_; subst w_)
         | (have h_ : Tracker := w_; clear h_; subst w_)
         | (have h_ : Drive := w_; clear h_; subst w_)
         | (have h_ : Sequencers := w_; clear h_; subst w_)
         | (have h_ : Loops := w_; clear h_; subst w_)
         | (have h_ : Strand := w_; clear h_; subst w_)
         | (have h_ : Dict := w_; clear h_; subst w_)
         | (have h_ : Dma := w_; clear h_; subst w_)
         | (clear_value w_; revert w_; intro _) | (revert w_; intro _))
    | with_reducible apply Does.step (State.dropCapture_does ..)
    | with_reducible apply Does.step (State.abortTransfer_does ..)
    | with_reducible apply Does.step (State.settleSyncOut_does ..)
    | with_reducible apply Does.step (State.sdoMainDown_does ..)
    | with_reducible apply Does.step (State.abandonStore_does ..)
    | with_reducible apply Does.step (State.settleOuts_does ..)
    | with_reducible apply Does.step (State.panelsDown_does ..)
    | with_reducible apply Does.step (State.putNat_does ..)
    | exact Or.inr (by decide)
    | exact Or.inl rfl
    | exact fun h => ⟨h.mem, h.od, by first | exact h.cams | simpa using h.cams, by first | exact ⟨h.time.1, h.time.2.1, h.time.2.2⟩ | exact ⟨rfl, rfl, rfl⟩, by first | exact ⟨h.pipe.1, h.pipe.2⟩ | exact ⟨rfl, by simpa using h.pipe.2⟩, by first | exact h.tracker | simpa [Tracker.shaped] using h.tracker | (have hh := h.tracker; clear h; simp_all [Tracker.shaped]), by first | exact ⟨h.drive.1, h.drive.2⟩ | exact ⟨by simpa using h.drive.1, List.length_replicate⟩, by first | exact ⟨h.seqs.1, h.seqs.2⟩ | exact ⟨List.length_replicate, h.seqs.2⟩, by first | exact ⟨h.loops.1, h.loops.2.1, h.loops.2.2⟩ | simpa [Loops.shaped] using h.loops | (have hh := h.loops; clear h; simp_all [Loops.shaped]), h.thermal, h.backdrop, by first | exact ⟨h.strand.1, h.strand.2.1, h.strand.2.2⟩ | exact ⟨rfl, h.strand.2⟩, by first | exact ⟨h.dict.1, h.dict.2.1, h.dict.2.2⟩ | exact ⟨rfl, rfl, h.dict.2.2⟩, h.side, h.pins, by first | exact h.dma | exact List.length_replicate, h.recorder⟩
    | split
    | intro _
    | dsimp -zeta only
    | with_reducible apply Does.parts

theorem State.mooredOff_does (s : State) : s.Does [.clk, .freeCtr, .out, .od, .time, .cams, .pipe, .tracker, .drive, .seqs, .ledger, .loops, .power, .thermal, .backdrop, .module, .strand, .dict, .side, .dma, .recorder, .update] (State.mooredOff s) := by
  unfold State.mooredOff
  repeat' first
    | with_reducible exact Does.refl _ _
    | with_reducible assumption
    | decide
    | with_reducible refine Does.pair (by assumption) ?_
    | with_reducible refine Does.pairSnd (by assumption) ?_
    | with_reducible refine Does.foldl ?_ ?_
    | (extract_lets +onlyGivenNames w_
       first
         | (refine Does.keep w_ ?_ ?_
            on_goal 1 => (unfold w_; clear w_)
            on_goal 2 => first | (clear_value w_; intro _; revert w_; intro _ _) | (intro _; revert w_; intro _ _))
         | (refine Does.keep w_.1 ?_ ?_
            on_goal 1 => (unfold w_; clear w_)
            on_goal 2 => first | (clear_value w_; intro _; revert w_; intro _ _) | (intro _; revert w_; intro _ _))
         | (clear_value w_; revert w_; intro _) | (revert w_; intro _))
    | with_reducible apply Does.step (State.moor_does ..)
    | with_reducible apply Does.step (State.enterState_does ..)
    | with_reducible apply Does.step (State.mainDown_does ..)
    | with_reducible apply Does.step (State.abandonMoored_does ..)
    | with_reducible apply Does.step (State.settleWrites_does ..)
    | with_reducible apply Does.step (State.powerDownTrigger_does ..)
    | with_reducible apply Does.step (State.railsDown_does ..)
    | with_reducible apply Does.step (State.vbstOff_does ..)
    | with_reducible apply Does.step (State.lapse_does ..)
    | with_reducible apply Does.step (State.storeLedger_does ..)
    | split
    | intro _
    | dsimp -zeta only

theorem State.setCal_does (s : State) (c : CalRun) : s.Does [.module] (State.setCal s c) := by
  unfold State.setCal
  repeat' first
    | with_reducible exact Does.refl _ _
    | exact Or.inr (by decide)
    | exact Or.inl rfl
    | exact fun h => ⟨h.mem, h.od, h.cams, h.time, h.pipe, h.tracker, h.drive, h.seqs, h.loops, h.thermal, h.backdrop, h.strand, h.dict, h.side, h.pins, h.dma, h.recorder⟩
    | with_reducible apply Does.parts

theorem State.dropRun_does (s : State) : s.Does [.freeCtr, .out, .od, .pipe, .backdrop, .module, .strand, .side, .recorder] (State.dropRun s) := by
  unfold State.dropRun
  repeat' first
    | with_reducible exact Does.refl _ _
    | with_reducible assumption
    | decide
    | with_reducible refine Does.pair (by assumption) ?_
    | with_reducible refine Does.pairSnd (by assumption) ?_
    | with_reducible refine Does.foldl ?_ ?_
    | (extract_lets +onlyGivenNames w_
       first
         | (refine Does.keep w_ ?_ ?_
            on_goal 1 => (unfold w_; clear w_)
            on_goal 2 => first | (clear_value w_; intro _; revert w_; intro _ _) | (intro _; revert w_; intro _ _))
         | (refine Does.keep w_.1 ?_ ?_
            on_goal 1 => (unfold w_; clear w_)
            on_goal 2 => first | (clear_value w_; intro _; revert w_; intro _ _) | (intro _; revert w_; intro _ _))
         | (clear_value w_; revert w_; intro _) | (revert w_; intro _))
    | with_reducible apply Does.step (State.dropCapture_does ..)
    | exact Or.inr (by decide)
    | exact Or.inl rfl
    | exact fun h => ⟨h.mem, h.od, h.cams, h.time, h.pipe, h.tracker, h.drive, h.seqs, h.loops, h.thermal, h.backdrop, h.strand, h.dict, h.side, h.pins, h.dma, h.recorder⟩
    | split
    | intro _
    | dsimp -zeta only
    | with_reducible apply Does.parts

theorem State.portPowerLost_does (s : State) (p : ℕ) : s.Does [.out, .od, .mem, .cams, .pipe, .tracker, .ledger, .loops, .backdrop, .strand, .side, .recorder] (State.portPowerLost s p) := by
  unfold State.portPowerLost
  repeat' first
    | with_reducible exact Does.refl _ _
    | with_reducible assumption
    | decide
    | with_reducible refine Does.pair (by assumption) ?_
    | with_reducible refine Does.pairSnd (by assumption) ?_
    | with_reducible refine Does.foldl ?_ ?_
    | (extract_lets +onlyGivenNames w_
       first
         | (refine Does.keep w_ ?_ ?_
            on_goal 1 => (unfold w_; clear w_)
            on_goal 2 => first | (clear_value w_; intro _; revert w_; intro _ _) | (intro _; revert w_; intro _ _))
         | (refine Does.keep w_.1 ?_ ?_
            on_goal 1 => (unfold w_; clear w_)
            on_goal 2 => first | (clear_value w_; intro _; revert w_; intro _ _) | (intro _; revert w_; intro _ _))
         | (clear_value w_; revert w_; intro _) | (revert w_; intro _))
    | with_reducible apply Does.step (State.losePort_does ..)
    | with_reducible apply Does.step (State.backOut_does ..)
    | with_reducible apply Does.step (State.setCam_does ..)
    | split
    | intro _
    | dsimp -zeta only

theorem State.failRun_does (s : State) : s.Does [.freeCtr, .out, .od, .pipe, .backdrop, .module, .strand, .side, .recorder] (State.failRun s) := by
  unfold State.failRun
  repeat' first
    | with_reducible exact Does.refl _ _
    | with_reducible assumption
    | decide
    | with_reducible refine Does.pair (by assumption) ?_
    | with_reducible refine Does.pairSnd (by assumption) ?_
    | with_reducible refine Does.foldl ?_ ?_
    | (extract_lets +onlyGivenNames w_
       first
         | (refine Does.keep w_ ?_ ?_
            on_goal 1 => (unfold w_; clear w_)
            on_goal 2 => first | (clear_value w_; intro _; revert w_; intro _ _) | (intro _; revert w_; intro _ _))
         | (refine Does.keep w_.1 ?_ ?_
            on_goal 1 => (unfold w_; clear w_)
            on_goal 2 => first | (clear_value w_; intro _; revert w_; intro _ _) | (intro _; revert w_; intro _ _))
         | (clear_value w_; revert w_; intro _) | (revert w_; intro _))
    | with_reducible apply Does.step (State.dropRun_does ..)
    | with_reducible apply Does.step (State.raise_does ..)
    | with_reducible apply Does.step (State.bump_does ..)
    | split
    | intro _
    | dsimp -zeta only

theorem State.closeTracker_does (s : State) : s.Does [.tracker] (State.closeTracker s) := by
  unfold State.closeTracker
  repeat' first
    | with_reducible exact Does.refl _ _
    | exact Or.inr (by decide)
    | exact Or.inl rfl
    | exact fun h => ⟨h.mem, h.od, h.cams, h.time, h.pipe, by first | exact h.tracker | simpa [Tracker.shaped] using h.tracker | (have hh := h.tracker; clear h; simp_all [Tracker.shaped]), h.drive, h.seqs, h.loops, h.thermal, h.backdrop, h.strand, h.dict, h.side, h.pins, h.dma, h.recorder⟩
    | with_reducible apply Does.parts

theorem State.powerFailSteps_does (s : State) : s.Does [.freeCtr, .out, .od, .mem, .cams, .pipe, .tracker, .drive, .seqs, .ledger, .loops, .power, .backdrop, .module, .strand, .dict, .side, .dma, .recorder, .update] (State.powerFailSteps s) := by
  unfold State.powerFailSteps
  repeat' first
    | with_reducible exact Does.refl _ _
    | with_reducible assumption
    | decide
    | with_reducible refine Does.pair (by assumption) ?_
    | with_reducible refine Does.pairSnd (by assumption) ?_
    | with_reducible refine Does.foldl ?_ ?_
    | (extract_lets +onlyGivenNames w_
       first
         | (refine Does.keep w_ ?_ ?_
            on_goal 1 => (unfold w_; clear w_)
            on_goal 2 => first | (clear_value w_; intro _; revert w_; intro _ _) | (intro _; revert w_; intro _ _))
         | (refine Does.keep w_.1 ?_ ?_
            on_goal 1 => (unfold w_; clear w_)
            on_goal 2 => first | (clear_value w_; intro _; revert w_; intro _ _) | (intro _; revert w_; intro _ _))
         | (clear_value w_; revert w_; intro _) | (revert w_; intro _))
    | with_reducible apply Does.step (State.dmaPowerFail_does ..)
    | with_reducible apply Does.step (State.portPowerLost_does ..)
    | with_reducible apply Does.step (State.failRun_does ..)
    | with_reducible apply Does.step (State.dropCapture_does ..)
    | with_reducible apply Does.step (State.abortTransfer_does ..)
    | with_reducible apply Does.step (State.powerDownTrigger_does ..)
    | with_reducible apply Does.step (State.drivePowerFail_does ..)
    | with_reducible apply Does.step (State.stopLoops_does ..)
    | with_reducible apply Does.step (State.abandonStore_does ..)
    | with_reducible apply Does.step (State.panelPowerFail_does ..)
    | with_reducible apply Does.step (State.settleOuts_does ..)
    | with_reducible apply Does.step (State.vbstOff_does ..)
    | with_reducible apply Does.step (State.lapse_does ..)
    | with_reducible apply Does.step (State.storeLedger_does ..)
    | with_reducible apply Does.step (State.closeTracker_does ..)
    | exact Or.inr (by decide)
    | exact Or.inl rfl
    | exact fun h => ⟨h.mem, h.od, h.cams, h.time, h.pipe, h.tracker, h.drive, h.seqs, h.loops, h.thermal, h.backdrop, h.strand, h.dict, h.side, h.pins, h.dma, h.recorder⟩
    | split
    | intro _
    | dsimp -zeta only
    | with_reducible apply Does.parts

theorem State.refuseCommand_does (s : State) (cause : ℕ) : s.Does [.od, .module] (State.refuseCommand s cause).1 := by
  unfold State.refuseCommand
  repeat' first
    | with_reducible exact Does.refl _ _
    | decide
    | with_reducible apply Does.step (State.bump_does ..)
    | exact Or.inr (by decide)
    | exact Or.inl rfl
    | exact fun h => ⟨h.mem, h.od, h.cams, h.time, h.pipe, h.tracker, h.drive, h.seqs, h.loops, h.thermal, h.backdrop, h.strand, h.dict, h.side, h.pins, h.dma, h.recorder⟩
    | with_reducible apply Does.parts

theorem State.failToIdle_does (s : State) : s.Does [.freeCtr, .out, .od, .pipe, .drive, .ledger, .loops, .thermal, .backdrop, .module, .strand, .side, .recorder] (State.failToIdle s) := by
  unfold State.failToIdle
  repeat' first
    | with_reducible exact Does.refl _ _
    | with_reducible assumption
    | decide
    | with_reducible refine Does.pair (by assumption) ?_
    | with_reducible refine Does.pairSnd (by assumption) ?_
    | with_reducible refine Does.foldl ?_ ?_
    | (extract_lets +onlyGivenNames w_
       first
         | (refine Does.keep w_ ?_ ?_
            on_goal 1 => (unfold w_; clear w_)
            on_goal 2 => first | (clear_value w_; intro _; revert w_; intro _ _) | (intro _; revert w_; intro _ _))
         | (refine Does.keep w_.1 ?_ ?_
            on_goal 1 => (unfold w_; clear w_)
            on_goal 2 => first | (clear_value w_; intro _; revert w_; intro _ _) | (intro _; revert w_; intro _ _))
         | (clear_value w_; revert w_; intro _) | (revert w_; intro _))
    | with_reducible apply Does.step (State.enterState_does ..)
    | with_reducible apply Does.step (State.failRun_does ..)
    | split
    | intro _
    | dsimp -zeta only

theorem State.runCapture_does (s : State) (c : CalRun) (step : CalStep) (code : ℕ) : s.Does [.freeCtr, .out, .od, .pipe, .drive, .ledger, .loops, .thermal, .backdrop, .module, .strand, .side, .recorder] (State.runCapture s c step code) := by
  unfold State.runCapture
  repeat' first
    | with_reducible exact Does.refl _ _
    | with_reducible assumption
    | decide
    | with_reducible refine Does.pair (by assumption) ?_
    | with_reducible refine Does.pairSnd (by assumption) ?_
    | with_reducible refine Does.foldl ?_ ?_
    | (extract_lets +onlyGivenNames w_
       first
         | (refine Does.keep w_ ?_ ?_
            on_goal 1 => (unfold w_; clear w_)
            on_goal 2 => first | (clear_value w_; intro _; revert w_; intro _ _) | (intro _; revert w_; intro _ _))
         | (refine Does.keep w_.1 ?_ ?_
            on_goal 1 => (unfold w_; clear w_)
            on_goal 2 => first | (clear_value w_; intro _; revert w_; intro _ _) | (intro _; revert w_; intro _ _))
         | (clear_value w_; revert w_; intro _) | (revert w_; intro _))
    | with_reducible apply Does.step (State.failToIdle_does ..)
    | with_reducible apply Does.step (State.startCapture_does ..)
    | with_reducible apply Does.step (State.setCal_does ..)
    | split
    | intro _
    | dsimp -zeta only

theorem State.calAdvance_does (s : State) : s.Does [.freeCtr, .out, .od, .pipe, .drive, .ledger, .loops, .thermal, .backdrop, .module, .strand, .side, .recorder] (State.calAdvance s) := by
  unfold State.calAdvance
  repeat' first
    | with_reducible exact Does.refl _ _
    | with_reducible assumption
    | decide
    | with_reducible refine Does.pair (by assumption) ?_
    | with_reducible refine Does.pairSnd (by assumption) ?_
    | with_reducible refine Does.foldl ?_ ?_
    | (extract_lets +onlyGivenNames w_
       first
         | (refine Does.keep w_ ?_ ?_
            on_goal 1 => (unfold w_; clear w_)
            on_goal 2 => first | (clear_value w_; intro _; revert w_; intro _ _) | (intro _; revert w_; intro _ _))
         | (refine Does.keep w_.1 ?_ ?_
            on_goal 1 => (unfold w_; clear w_)
            on_goal 2 => first | (clear_value w_; intro _; revert w_; intro _ _) | (intro _; revert w_; intro _ _))
         | (clear_value w_; revert w_; intro _) | (revert w_; intro _))
    | with_reducible apply Does.step (State.runCapture_does ..)
    | with_reducible apply Does.step (State.failToIdle_does ..)
    | with_reducible apply Does.step (State.enterState_does ..)
    | with_reducible apply Does.step (actPanelHome_does ..)
    | with_reducible apply Does.step (State.putNat_does ..)
    | with_reducible apply Does.step (State.setCal_does ..)
    | exact Or.inr (by decide)
    | exact Or.inl rfl
    | exact fun h => ⟨h.mem, h.od, h.cams, h.time, h.pipe, h.tracker, h.drive, h.seqs, h.loops, h.thermal, h.backdrop, h.strand, h.dict, h.side, h.pins, h.dma, h.recorder⟩
    | split
    | intro _
    | dsimp -zeta only
    | with_reducible apply Does.parts

theorem State.calStart_does (s : State) : s.Does [.freeCtr, .out, .od, .pipe, .drive, .ledger, .loops, .thermal, .backdrop, .module, .strand, .side, .recorder] (State.calStart s) := by
  unfold State.calStart
  repeat' first
    | with_reducible exact Does.refl _ _
    | with_reducible assumption
    | decide
    | with_reducible refine Does.pair (by assumption) ?_
    | with_reducible refine Does.pairSnd (by assumption) ?_
    | with_reducible refine Does.foldl ?_ ?_
    | (extract_lets +onlyGivenNames w_
       first
         | (refine Does.keep w_ ?_ ?_
            on_goal 1 => (unfold w_; clear w_)
            on_goal 2 => first | (clear_value w_; intro _; revert w_; intro _ _) | (intro _; revert w_; intro _ _))
         | (refine Does.keep w_.1 ?_ ?_
            on_goal 1 => (unfold w_; clear w_)
            on_goal 2 => first | (clear_value w_; intro _; revert w_; intro _ _) | (intro _; revert w_; intro _ _))
         | (have h_ : Backdrop := w_; clear h_; subst w_)
         | (clear_value w_; revert w_; intro _) | (revert w_; intro _))
    | with_reducible apply Does.step (State.calAdvance_does ..)
    | with_reducible apply Does.step (State.failToIdle_does ..)
    | with_reducible apply Does.step (State.enterState_does ..)
    | with_reducible apply Does.step (actPanelGrey_does ..)
    | with_reducible apply Does.step (State.startCapture_does ..)
    | with_reducible apply Does.step (State.bump_does ..)
    | exact Or.inr (by decide)
    | exact Or.inl rfl
    | exact fun h => ⟨h.mem, h.od, h.cams, h.time, h.pipe, h.tracker, h.drive, h.seqs, h.loops, h.thermal, by first | exact ⟨h.backdrop.1, h.backdrop.2.1, h.backdrop.2.2⟩ | simpa [Backdrop.shaped] using h.backdrop | (have hh := h.backdrop; clear h; simp_all [Backdrop.shaped]), h.strand, h.dict, h.side, h.pins, h.dma, h.recorder⟩
    | split
    | intro _
    | dsimp -zeta only
    | with_reducible apply Does.parts

theorem State.beginRestart_does (s : State) : s.Does [.freeCtr, .out, .od, .time, .cams, .pipe, .tracker, .drive, .seqs, .ledger, .loops, .power, .thermal, .backdrop, .module, .strand, .dict, .side, .dma, .recorder, .update] (State.beginRestart s) := by
  unfold State.beginRestart
  repeat' first
    | with_reducible exact Does.refl _ _
    | with_reducible assumption
    | decide
    | with_reducible refine Does.pair (by assumption) ?_
    | with_reducible refine Does.pairSnd (by assumption) ?_
    | with_reducible refine Does.foldl ?_ ?_
    | (extract_lets +onlyGivenNames w_
       first
         | (refine Does.keep w_ ?_ ?_
            on_goal 1 => (unfold w_; clear w_)
            on_goal 2 => first | (clear_value w_; intro _; revert w_; intro _ _) | (intro _; revert w_; intro _ _))
         | (refine Does.keep w_.1 ?_ ?_
            on_goal 1 => (unfold w_; clear w_)
            on_goal 2 => first | (clear_value w_; intro _; revert w_; intro _ _) | (intro _; revert w_; intro _ _))
         | (clear_value w_; revert w_; intro _) | (revert w_; intro _))
    | with_reducible apply Does.step (State.enterState_does ..)
    | with_reducible apply Does.step (State.failRun_does ..)
    | with_reducible apply Does.step (State.mainDown_does ..)
    | with_reducible apply Does.step (State.dropCapture_does ..)
    | with_reducible apply Does.step (State.settleWrites_does ..)
    | with_reducible apply Does.step (State.powerDownTrigger_does ..)
    | with_reducible apply Does.step (State.drivePowerFail_does ..)
    | with_reducible apply Does.step (State.stopLoops_does ..)
    | with_reducible apply Does.step (State.islandStrip_does ..)
    | with_reducible apply Does.step (State.lapse_does ..)
    | with_reducible apply Does.step (State.closeTracker_does ..)
    | exact Or.inr (by decide)
    | exact Or.inl rfl
    | exact fun h => ⟨h.mem, h.od, h.cams, h.time, h.pipe, h.tracker, h.drive, h.seqs, h.loops, h.thermal, h.backdrop, h.strand, h.dict, h.side, h.pins, h.dma, h.recorder⟩
    | split
    | intro _
    | dsimp -zeta only
    | with_reducible apply Does.parts

theorem State.closeValves_does (s : State) : s.Does [.freeCtr, .od, .drive, .seqs] (State.closeValves s) := by
  unfold State.closeValves
  repeat' first
    | with_reducible exact Does.refl _ _
    | with_reducible assumption
    | decide
    | with_reducible refine Does.pair (by assumption) ?_
    | with_reducible refine Does.pairSnd (by assumption) ?_
    | with_reducible refine Does.foldl ?_ ?_
    | (extract_lets +onlyGivenNames w_
       first
         | (refine Does.keep w_ ?_ ?_
            on_goal 1 => (unfold w_; clear w_)
            on_goal 2 => first | (clear_value w_; intro _; revert w_; intro _ _) | (intro _; revert w_; intro _ _))
         | (refine Does.keep w_.1 ?_ ?_
            on_goal 1 => (unfold w_; clear w_)
            on_goal 2 => first | (clear_value w_; intro _; revert w_; intro _ _) | (intro _; revert w_; intro _ _))
         | (clear_value w_; revert w_; intro _) | (revert w_; intro _))
    | with_reducible apply Does.step (State.stopDrive_does ..)
    | with_reducible apply Does.step (State.withdraw_does ..)
    | split
    | intro _
    | dsimp -zeta only

theorem State.enterFault_does (s : State) (code : ℕ) : s.Does [.freeCtr, .out, .od, .pipe, .tracker, .drive, .seqs, .ledger, .loops, .power, .thermal, .backdrop, .module, .strand, .side, .recorder] (State.enterFault s code) := by
  unfold State.enterFault
  repeat' first
    | with_reducible exact Does.refl _ _
    | with_reducible assumption
    | decide
    | with_reducible refine Does.pair (by assumption) ?_
    | with_reducible refine Does.pairSnd (by assumption) ?_
    | with_reducible refine Does.foldl ?_ ?_
    | (extract_lets +onlyGivenNames w_
       first
         | (refine Does.keep w_ ?_ ?_
            on_goal 1 => (unfold w_; clear w_)
            on_goal 2 => first | (clear_value w_; intro _; revert w_; intro _ _) | (intro _; revert w_; intro _ _))
         | (refine Does.keep w_.1 ?_ ?_
            on_goal 1 => (unfold w_; clear w_)
            on_goal 2 => first | (clear_value w_; intro _; revert w_; intro _ _) | (intro _; revert w_; intro _ _))
         | (have h_ : Drive := w_; clear h_; subst w_)
         | (clear_value w_; revert w_; intro _) | (revert w_; intro _))
    | with_reducible apply Does.step (State.enterState_does ..)
    | with_reducible apply Does.step (State.failRun_does ..)
    | with_reducible apply Does.step (State.closeValves_does ..)
    | with_reducible apply Does.step (State.vbstOff_does ..)
    | with_reducible apply Does.step (State.lapse_does ..)
    | with_reducible apply Does.step (State.dropQueues_does ..)
    | with_reducible apply Does.step (State.closeTracker_does ..)
    | exact Or.inr (by decide)
    | exact Or.inl rfl
    | exact fun h => ⟨h.mem, h.od, h.cams, h.time, h.pipe, h.tracker, by first | exact ⟨h.drive.1, h.drive.2⟩ | simpa [Drive.shaped] using h.drive | (have hh := h.drive; clear h; simp_all [Drive.shaped]), h.seqs, h.loops, h.thermal, h.backdrop, h.strand, h.dict, h.side, h.pins, h.dma, h.recorder⟩
    | split
    | intro _
    | dsimp -zeta only
    | with_reducible apply Does.parts

theorem State.panelsSettled_does (s : State) : s.Does [.freeCtr, .out, .od, .pipe, .drive, .ledger, .loops, .thermal, .backdrop, .module, .strand, .side, .recorder] (State.panelsSettled s) := by
  unfold State.panelsSettled
  repeat' first
    | with_reducible exact Does.refl _ _
    | with_reducible assumption
    | decide
    | with_reducible refine Does.pair (by assumption) ?_
    | with_reducible refine Does.pairSnd (by assumption) ?_
    | with_reducible refine Does.foldl ?_ ?_
    | (extract_lets +onlyGivenNames w_
       first
         | (refine Does.keep w_ ?_ ?_
            on_goal 1 => (unfold w_; clear w_)
            on_goal 2 => first | (clear_value w_; intro _; revert w_; intro _ _) | (intro _; revert w_; intro _ _))
         | (refine Does.keep w_.1 ?_ ?_
            on_goal 1 => (unfold w_; clear w_)
            on_goal 2 => first | (clear_value w_; intro _; revert w_; intro _ _) | (intro _; revert w_; intro _ _))
         | (clear_value w_; revert w_; intro _) | (revert w_; intro _))
    | with_reducible apply Does.step (State.calStart_does ..)
    | with_reducible apply Does.step (State.calAdvance_does ..)
    | exact Or.inr (by decide)
    | exact Or.inl rfl
    | exact fun h => ⟨h.mem, h.od, h.cams, h.time, h.pipe, h.tracker, h.drive, h.seqs, h.loops, h.thermal, h.backdrop, h.strand, h.dict, h.side, h.pins, h.dma, h.recorder⟩
    | split
    | intro _
    | dsimp -zeta only
    | with_reducible apply Does.parts

theorem State.vbstStart_does (s : State) : s.Does [.drive, .power] (State.vbstStart s) := by
  unfold State.vbstStart
  repeat' first
    | with_reducible exact Does.refl _ _
    | exact Or.inr (by decide)
    | exact Or.inl rfl
    | exact fun h => ⟨h.mem, h.od, h.cams, h.time, h.pipe, h.tracker, by first | exact ⟨h.drive.1, h.drive.2⟩ | simpa [Drive.shaped] using h.drive | (have hh := h.drive; clear h; simp_all [Drive.shaped]), h.seqs, h.loops, h.thermal, h.backdrop, h.strand, h.dict, h.side, h.pins, h.dma, h.recorder⟩
    | split
    | with_reducible apply Does.parts

theorem State.settleDerated_does (s : State) : s.Does [.freeCtr, .out, .od, .pipe, .drive, .ledger, .loops, .thermal, .backdrop, .module, .strand, .side, .recorder] (State.settleDerated s) := by
  unfold State.settleDerated
  repeat' first
    | with_reducible exact Does.refl _ _
    | with_reducible assumption
    | decide
    | with_reducible refine Does.pair (by assumption) ?_
    | with_reducible refine Does.pairSnd (by assumption) ?_
    | with_reducible refine Does.foldl ?_ ?_
    | (extract_lets +onlyGivenNames w_
       first
         | (refine Does.keep w_ ?_ ?_
            on_goal 1 => (unfold w_; clear w_)
            on_goal 2 => first | (clear_value w_; intro _; revert w_; intro _ _) | (intro _; revert w_; intro _ _))
         | (refine Does.keep w_.1 ?_ ?_
            on_goal 1 => (unfold w_; clear w_)
            on_goal 2 => first | (clear_value w_; intro _; revert w_; intro _ _) | (intro _; revert w_; intro _ _))
         | (clear_value w_; revert w_; intro _) | (revert w_; intro _))
    | with_reducible apply Does.step (State.failToIdle_does ..)
    | with_reducible apply Does.step (State.deratedIn_does ..)
    | with_reducible apply Does.step (State.endDerated_does ..)
    | split
    | intro _
    | dsimp -zeta only

end Sys2Proof.Machine
end

