-- ==== Sys2Proof/Laws/Pipeline.lean ====
section
/-!
SUPPORT. What the operations of Machine/Pipeline.lean do.
-/
set_option Elab.async false
set_option linter.all false

namespace Sys2Proof.Machine

theorem State.gradeFrame_does (s : State) (f : GradeFrame) (ctx : Context) : s.Does [.od, .mem, .pipe, .ledger, .loops, .recorder] (State.gradeFrame s f ctx) := by
  unfold State.gradeFrame
  repeat' first
    | with_reducible exact Does.refl _ _
    | with_reducible assumption
    | decide
    | with_reducible refine Does.foldl ?_ ?_
    | with_reducible apply Does.step (State.gradeLine_does ..)
    | with_reducible apply Does.step (State.emitUpper_does ..)
    | with_reducible apply Does.step (State.completeStats_does ..)
    | with_reducible refine Does.trans ?_ (State.cutAll_does (by decide) _ _ _ ?_)
    | split
    | intro _

theorem State.putTable_does (s : State) (p : ℕ) (sub : ℕ) (v : Sys2Proof.Val) : s.Does [.od, .pipe] (State.putTable s p sub v) := by
  unfold State.putTable
  repeat' first
    | with_reducible exact Does.refl _ _
    | with_reducible assumption
    | decide
    | with_reducible apply Does.step (State.putNat_does ..)
    | with_reducible apply Does.step (State.put_does ..)
    | exact Or.inr (by decide)
    | exact Or.inl rfl
    | exact fun h => ⟨h.mem, h.od, h.cams, h.time, by first | exact ⟨h.pipe.1, h.pipe.2⟩ | simpa [Pipeline.shaped] using h.pipe | (have hh := h.pipe; clear h; simp_all [Pipeline.shaped]), h.tracker, h.drive, h.seqs, h.loops, h.thermal, h.backdrop, h.strand, h.dict, h.side, h.pins, h.dma, h.recorder⟩
    | split
    | with_reducible apply Does.parts

theorem actContext_does (p : ℕ) (sub : ℕ) (v : Sys2Proof.Val) (s : State) : s.Does [.od, .pipe] (actContext p sub v s).1 := by
  unfold actContext
  repeat' first
    | with_reducible exact Does.refl _ _
    | decide
    | with_reducible apply Does.step (State.putTable_does ..)
    | split

theorem actBankSwap_does (s : State) : s.Does [.out, .od, .pipe, .backdrop, .strand, .side, .recorder] (actBankSwap s).1 := by
  unfold actBankSwap
  repeat' first
    | with_reducible exact Does.refl _ _
    | decide
    | with_reducible apply Does.step (State.swapBanks_does ..)
    | with_reducible apply Does.step (State.raise_does ..)
    | with_reducible apply Does.step (State.bump_does ..)
    | exact Or.inr (by decide)
    | exact Or.inl rfl
    | exact fun h => ⟨h.mem, h.od, h.cams, h.time, by first | exact ⟨h.pipe.1, h.pipe.2⟩ | simpa [Pipeline.shaped] using h.pipe | (have hh := h.pipe; clear h; simp_all [Pipeline.shaped]), h.tracker, h.drive, h.seqs, h.loops, h.thermal, h.backdrop, h.strand, h.dict, h.side, h.pins, h.dma, h.recorder⟩
    | split
    | with_reducible apply Does.parts

theorem State.takeImage_does (s : State) (b : ℕ) (img : List Sys2Proof.Byte) : s.Does [.out, .od, .pipe, .backdrop, .strand, .side, .recorder] (State.takeImage s b img).1 := by
  unfold State.takeImage
  repeat' first
    | with_reducible exact Does.refl _ _
    | with_reducible assumption
    | decide
    | (extract_lets +onlyGivenNames w_
       first
         | (refine Does.keep w_ ?_ ?_
            on_goal 1 => (unfold w_; clear w_)
            on_goal 2 => first | (clear_value w_; intro _; revert w_; intro _ _) | (intro _; revert w_; intro _ _))
         | (have h_ : Pipeline := w_; clear h_; subst w_))
    | with_reducible apply Does.step (State.raise_does ..)
    | exact Or.inr (by decide)
    | exact Or.inl rfl
    | exact fun h => ⟨h.mem, h.od, h.cams, h.time, by first | exact ⟨h.pipe.1, h.pipe.2⟩ | simpa [Pipeline.shaped] using h.pipe | (have hh := h.pipe; clear h; simp_all [Pipeline.shaped]), h.tracker, h.drive, h.seqs, h.loops, h.thermal, h.backdrop, h.strand, h.dict, h.side, h.pins, h.dma, h.recorder⟩
    | split
    | with_reducible apply Does.parts

theorem actLibraryLoad_does (b : ℕ) (slot : ℕ) (s : State) : s.Does [.pipe, .dma] (actLibraryLoad b slot s).1 := by
  unfold actLibraryLoad
  repeat' first
    | with_reducible exact Does.refl _ _
    | with_reducible assumption
    | decide
    | with_reducible refine Does.pair (by assumption) ?_
    | with_reducible refine Does.pairSnd (by assumption) ?_
    | with_reducible refine Does.foldl ?_ ?_
    | (extract_lets +onlyGivenNames w_
       first
         | (refine Does.keep w_ ?_ ?_
            on_goal 1 => (unfold w_; clear w_)
            on_goal 2 => first | (clear_value w_; intro _; revert w_; intro _ _) | (intro _; revert w_; intro _ _))
         | (refine Does.keep w_.1 ?_ ?_
            on_goal 1 => (unfold w_; clear w_)
            on_goal 2 => first | (clear_value w_; intro _; revert w_; intro _ _) | (intro _; revert w_; intro _ _))
         | (have h_ : Pipeline := w_; clear h_; subst w_)
         | (clear_value w_; revert w_; intro _) | (revert w_; intro _))
    | split
    | with_reducible apply Does.step (State.fwStart_does ..)
    | exact Or.inr (by decide)
    | exact Or.inl rfl
    | exact fun h => ⟨h.mem, h.od, h.cams, h.time, by first | exact ⟨h.pipe.1, h.pipe.2⟩ | simpa [Pipeline.shaped] using h.pipe | (have hh := h.pipe; clear h; simp_all [Pipeline.shaped]), h.tracker, h.drive, h.seqs, h.loops, h.thermal, h.backdrop, h.strand, h.dict, h.side, h.pins, h.dma, h.recorder⟩
    | split
    | intro _
    | dsimp -zeta only
    | with_reducible apply Does.parts

theorem actBankImage_does (b : ℕ) (img : List Sys2Proof.Byte) (s : State) : s.Does [.out, .od, .pipe, .backdrop, .strand, .side, .recorder] (actBankImage b img s).1 := by
  unfold actBankImage
  repeat' first
    | with_reducible exact Does.refl _ _
    | decide
    | with_reducible refine Does.pair (by assumption) ?_
    | with_reducible apply Does.step (State.takeImage_does ..)
    | split

theorem State.deliver_does (s : State) (j : ObjJob) (v : ℕ × ℕ × ℕ) (model : ℕ) : s.Does [.out, .od, .pipe, .tracker, .strand, .recorder] (State.deliver s j v model) := by
  unfold State.deliver
  repeat' first
    | with_reducible exact Does.refl _ _
    | with_reducible assumption
    | decide
    | with_reducible refine Does.pair (by assumption) ?_
    | with_reducible refine Does.pairSnd (by assumption) ?_
    | with_reducible refine Does.foldl ?_ ?_
    | (extract_lets +onlyGivenNames w_
       first
         | (refine Does.keep w_ ?_ ?_
            on_goal 1 => (unfold w_; clear w_)
            on_goal 2 => first | (clear_value w_; intro _; revert w_; intro _ _) | (intro _; revert w_; intro _ _))
         | (refine Does.keep w_.1 ?_ ?_
            on_goal 1 => (unfold w_; clear w_)
            on_goal 2 => first | (clear_value w_; intro _; revert w_; intro _ _) | (intro _; revert w_; intro _ _))
         | (clear_value w_; revert w_; intro _) | (revert w_; intro _))
    | with_reducible apply Does.step (State.post_does ..)
    | with_reducible apply Does.step (State.verdict_does ..)
    | with_reducible apply Does.step (State.bump_does ..)
    | with_reducible apply Does.step (State.settleHandle_does ..)
    | split
    | intro _
    | dsimp -zeta only

end Sys2Proof.Machine
end

