-- ==== Sys2Proof/Laws/Capture.lean ====
section
/-!
SUPPORT. What the operations of Machine/Capture.lean do.
-/
set_option Elab.async false
set_option linter.all false

namespace Sys2Proof.Machine

theorem actCapture_does (code : ℕ) (s : State) : s.Does [.out, .od, .pipe, .backdrop, .strand, .side, .recorder] (actCapture code s).1 := by
  unfold actCapture
  repeat' first
    | with_reducible exact Does.refl _ _
    | with_reducible assumption
    | decide
    | with_reducible apply Does.step (State.startCapture_does ..)
    | with_reducible apply Does.step (State.keep_does ..)
    | split

theorem State.captureEnds_does (s : State) (cause : ℕ) : s.Does [.freeCtr, .out, .od, .pipe, .drive, .ledger, .loops, .thermal, .backdrop, .module, .strand, .side, .recorder] (State.captureEnds s cause) := by
  unfold State.captureEnds
  repeat' first
    | with_reducible exact Does.refl _ _
    | with_reducible assumption
    | decide
    | with_reducible refine Does.pair (by assumption) ?_
    | with_reducible refine Does.pairSnd (by assumption) ?_
    | with_reducible refine Does.foldl ?_ ?_
    | (extract_lets +onlyGivenNames w_
       first
         | (refine Does.keep w_ ?_ ?_
            on_goal 1 => (unfold w_; clear w_)
            on_goal 2 => first | (clear_value w_; intro _; revert w_; intro _ _) | (intro _; revert w_; intro _ _))
         | (refine Does.keep w_.1 ?_ ?_
            on_goal 1 => (unfold w_; clear w_)
            on_goal 2 => first | (clear_value w_; intro _; revert w_; intro _ _) | (intro _; revert w_; intro _ _))
         | (clear_value w_; revert w_; intro _) | (revert w_; intro _))
    | with_reducible apply Does.step (State.calAdvance_does ..)
    | with_reducible apply Does.step (State.failToIdle_does ..)
    | with_reducible apply Does.step (State.endCapture_does ..)
    | with_reducible apply Does.step (State.setCal_does ..)
    | split
    | intro _
    | dsimp -zeta only

end Sys2Proof.Machine
end

