-- ==== Sys2Proof/Laws/Camera.lean ====
section
/-!
SUPPORT. What the operations of Machine/Camera.lean do.
-/
set_option Elab.async false
set_option linter.all false

namespace Sys2Proof.Machine

theorem actRaw_does (p : ℕ) (d : List Sys2Proof.Byte) (s : State) : s.Does [.out] (actRaw p d s).1 := by
  unfold actRaw
  repeat' first
    | with_reducible exact Does.refl _ _
    | decide
    | with_reducible apply Does.step (State.emit_does ..)
    | split

theorem State.pairInFval_does (s : State) (p : ℕ) (t : PendingTrigger) (fval : Bool) : s.Does [.out, .od, .cams, .backdrop, .strand, .side, .recorder] (State.pairInFval s p t fval) := by
  unfold State.pairInFval
  repeat' first
    | with_reducible exact Does.refl _ _
    | with_reducible assumption
    | decide
    | with_reducible refine Does.pair (by assumption) ?_
    | with_reducible refine Does.pairSnd (by assumption) ?_
    | with_reducible refine Does.foldl ?_ ?_
    | (extract_lets +onlyGivenNames w_
       first
         | (refine Does.keep w_ ?_ ?_
            on_goal 1 => (unfold w_; clear w_)
            on_goal 2 => first | (clear_value w_; intro _; revert w_; intro _ _) | (intro _; revert w_; intro _ _))
         | (refine Does.keep w_.1 ?_ ?_
            on_goal 1 => (unfold w_; clear w_)
            on_goal 2 => first | (clear_value w_; intro _; revert w_; intro _ _) | (intro _; revert w_; intro _ _))
         | (clear_value w_; revert w_; intro _) | (revert w_; intro _))
    | with_reducible apply Does.step (State.beginFrame_does ..)
    | with_reducible apply Does.step (State.countInFval_does ..)
    | split
    | intro _
    | dsimp -zeta only

theorem actCc1Width_does (p : ℕ) (w : ℕ) (s : State) : s.Does [.od, .cams] (actCc1Width p w s).1 := by
  unfold actCc1Width
  repeat' first
    | with_reducible exact Does.refl _ _
    | with_reducible assumption
    | decide
    | (extract_lets +onlyGivenNames w_
       first
         | (refine Does.keep w_ ?_ ?_
            on_goal 1 => (unfold w_; clear w_)
            on_goal 2 => first | (clear_value w_; intro _; revert w_; intro _ _) | (intro _; revert w_; intro _ _)))
    | with_reducible apply Does.step (State.keep_does ..)
    | with_reducible apply Does.step (State.setCam_does ..)
    | split

theorem State.receiveLine_does (s : State) (p : ℕ) (l : LineInWork) (cs : List Sys2Proof.PixelClock) : s.Does [.out, .od, .mem, .cams, .pipe, .ledger, .loops, .backdrop, .strand, .side, .recorder] (State.receiveLine s p l cs) := by
  unfold State.receiveLine
  repeat' first
    | with_reducible exact Does.refl _ _
    | with_reducible assumption
    | decide
    | with_reducible refine Does.pair (by assumption) ?_
    | with_reducible refine Does.pairSnd (by assumption) ?_
    | with_reducible refine Does.foldl ?_ ?_
    | (extract_lets +onlyGivenNames w_
       first
         | (refine Does.keep w_ ?_ ?_
            on_goal 1 => (unfold w_; clear w_)
            on_goal 2 => first | (clear_value w_; intro _; revert w_; intro _ _) | (intro _; revert w_; intro _ _))
         | (refine Does.keep w_.1 ?_ ?_
            on_goal 1 => (unfold w_; clear w_)
            on_goal 2 => first | (clear_value w_; intro _; revert w_; intro _ _) | (intro _; revert w_; intro _ _))
         | (have h_ : Recorder := w_; clear h_; subst w_)
         | (clear_value w_; revert w_; intro _) | (revert w_; intro _))
    | with_reducible apply Does.step (State.settleLine_does ..)
    | with_reducible apply Does.step (State.settleStop_does ..)
    | with_reducible apply Does.step (State.settleEngine_does ..)
    | with_reducible apply Does.step (State.bump_does ..)
    | with_reducible apply Does.step (State.setCam_does ..)
    | exact Or.inr (by decide)
    | exact Or.inl rfl
    | exact fun h => ⟨h.mem, h.od, h.cams, h.time, h.pipe, h.tracker, h.drive, h.seqs, h.loops, h.thermal, h.backdrop, h.strand, h.dict, h.side, h.pins, h.dma, by first | exact ⟨h.recorder.1, h.recorder.2.1, h.recorder.2.2.1, h.recorder.2.2.2.1, h.recorder.2.2.2.2⟩ | simpa [Recorder.shaped] using h.recorder | (have hh := h.recorder; clear h; simp_all [Recorder.shaped])⟩
    | split
    | intro _
    | dsimp -zeta only
    | with_reducible apply Does.parts

theorem actPoclRearm_does (p : ℕ) (s : State) : s.Does [.cams] (actPoclRearm p s).1 := by
  unfold actPoclRearm
  repeat' first
    | with_reducible exact Does.refl _ _
    | decide
    | (extract_lets +onlyGivenNames w_
       first
         | (clear_value w_; revert w_; intro _) | (revert w_; intro _))
    | with_reducible apply Does.step (State.setCam_does ..)
    | split

theorem actSettings_does (p : ℕ) (d : List Sys2Proof.Byte) (s : State) : s.Does [.cams] (actSettings p d s).1 := by
  unfold actSettings
  repeat' first
    | with_reducible exact Does.refl _ _
    | decide
    | (extract_lets +onlyGivenNames w_
       first
         | (clear_value w_; revert w_; intro _) | (revert w_; intro _))
    | with_reducible apply Does.step (State.setCam_does ..)
    | split

end Sys2Proof.Machine
end

