-- ==== Sys2Proof/Laws/Backdrop.lean ====
section
/-!
SUPPORT. What the operations of Machine/Backdrop.lean do.
-/
set_option Elab.async false
set_option linter.all false

namespace Sys2Proof.Machine

theorem actTrimMap_does (p : ℕ) (d : List Sys2Proof.Byte) (s : State) : s.Does [.out, .od, .backdrop, .strand, .side, .recorder, .update] (actTrimMap p d s).1 := by
  unfold actTrimMap
  repeat' first
    | with_reducible exact Does.refl _ _
    | with_reducible assumption
    | decide
    | with_reducible refine Does.pair (by assumption) ?_
    | with_reducible refine Does.pairSnd (by assumption) ?_
    | with_reducible refine Does.foldl ?_ ?_
    | (extract_lets +onlyGivenNames w_
       first
         | (refine Does.keep w_ ?_ ?_
            on_goal 1 => (unfold w_; clear w_)
            on_goal 2 => first | (clear_value w_; intro _; revert w_; intro _ _) | (intro _; revert w_; intro _ _))
         | (refine Does.keep w_.1 ?_ ?_
            on_goal 1 => (unfold w_; clear w_)
            on_goal 2 => first | (clear_value w_; intro _; revert w_; intro _ _) | (intro _; revert w_; intro _ _))
         | (clear_value w_; revert w_; intro _) | (revert w_; intro _))
    | split
    | with_reducible apply Does.step (State.raise_does ..)
    | with_reducible apply Does.step (State.putMaps_does ..)
    | with_reducible apply Does.step (State.rewriteHalf_does ..)
    | with_reducible apply Does.step (State.emit_does ..)
    | split
    | intro _
    | dsimp -zeta only

theorem Does.drawn {s u : State} (h : s.Does [.clk, .out, .od, .time, .backdrop] u) : s.Does [.clk, .out, .od, .time, .backdrop] (
    let s := { u with backdrop := { u.backdrop with
      stripRun := none, strip := u.backdrop.stripNext, stripAt := some u.clk, idleAt := u.clk } }
    ((s.drawStrip s.backdrop.strip).bump (obj 0x2B00 0x0D)).emit (.strip s.backdrop.strip)) := by
  refine Does.step (State.emit_does ..) (by decide) (Does.step (State.bump_does ..) (by decide)
    (Does.step (State.drawStrip_does ..) (by decide) (Does.trans h ?_)))
  exact Does.mono (Does.backdrop _ fun h => h) (by decide)

theorem State.stripPair_does (s : State) : s.Does [.clk, .out, .od, .time, .backdrop] s.stripPair := by
  unfold State.stripPair
  split
  · exact Does.drawn (Does.mono (State.atClk_does ..) (by decide))
  · exact Does.refl _ _

theorem State.moorOn_does (s : State) : s.Does [.clk, .freeCtr, .out, .od, .time, .cams, .pipe, .tracker, .drive, .seqs, .ledger, .loops, .power, .thermal, .backdrop, .module, .strand, .dict, .side, .dma, .recorder, .update] (State.moorOn s) := by
  unfold State.moorOn
  repeat' first
    | with_reducible exact Does.refl _ _
    | with_reducible assumption
    | decide
    | with_reducible refine Does.pair (by assumption) ?_
    | with_reducible refine Does.pairSnd (by assumption) ?_
    | with_reducible refine Does.foldl ?_ ?_
    | (extract_lets +onlyGivenNames w_
       first
         | (refine Does.keep w_ ?_ ?_
            on_goal 1 => (unfold w_; clear w_)
            on_goal 2 => first | (clear_value w_; intro _; revert w_; intro _ _) | (intro _; revert w_; intro _ _))
         | (refine Does.keep w_.1 ?_ ?_
            on_goal 1 => (unfold w_; clear w_)
            on_goal 2 => first | (clear_value w_; intro _; revert w_; intro _ _) | (intro _; revert w_; intro _ _))
         | (clear_value w_; revert w_; intro _) | (revert w_; intro _))
    | with_reducible apply Does.step (State.mooredOff_does ..)
    | split
    | intro _
    | dsimp -zeta only

theorem actWaveform_does (p : ℕ) (d : List Sys2Proof.Byte) (s : State) : s.Does [.out, .od, .backdrop, .strand, .side, .recorder] (actWaveform p d s).1 := by
  unfold actWaveform
  repeat' first
    | with_reducible exact Does.refl _ _
    | decide
    | with_reducible apply Does.step (State.raise_does ..)
    | with_reducible apply Does.step (State.putNat_does ..)
    | with_reducible apply Does.step (State.put_does ..)
    | split

theorem actImageSlot_does (k : ℕ) (d : List Sys2Proof.Byte) (s : State) : s.Does [.out, .od, .backdrop, .strand, .side, .recorder] (actImageSlot k d s).1 := by
  unfold actImageSlot
  repeat' first
    | with_reducible exact Does.refl _ _
    | decide
    | with_reducible apply Does.step (State.raise_does ..)
    | with_reducible apply Does.step (State.putNat_does ..)
    | with_reducible apply Does.step (State.put_does ..)
    | split

theorem actEventAck_does (s : State) : s.Does [.backdrop] (actEventAck s).1 := by
  unfold actEventAck
  repeat' first
    | with_reducible exact Does.refl _ _
    | exact Or.inr (by decide)
    | exact Or.inl rfl
    | exact fun h => ⟨h.mem, h.od, h.cams, h.time, h.pipe, h.tracker, h.drive, h.seqs, h.loops, h.thermal, by first | exact ⟨h.backdrop.1, h.backdrop.2.1, h.backdrop.2.2⟩ | simpa [Backdrop.shaped] using h.backdrop | (have hh := h.backdrop; clear h; simp_all [Backdrop.shaped]), h.strand, h.dict, h.side, h.pins, h.dma, h.recorder⟩
    | with_reducible apply Does.parts

end Sys2Proof.Machine
end

