-- ==== Sys2Proof/Laws/Power.lean ====
section
/-!
SUPPORT. What the operations of Machine/Power.lean do.
-/
set_option Elab.async false
set_option linter.all false

namespace Sys2Proof.Machine

theorem State.countDerated_does (s : State) : s.Does [.od, .thermal] (State.countDerated s) := by
  unfold State.countDerated
  repeat' first
    | with_reducible exact Does.refl _ _
    | decide
    | with_reducible apply Does.step (State.bump_does ..)
    | exact Or.inr (by decide)
    | exact Or.inl rfl
    | exact fun h => ⟨h.mem, h.od, h.cams, h.time, h.pipe, h.tracker, h.drive, h.seqs, h.loops, by first | exact h.thermal | simpa [Thermal.shaped] using h.thermal | (have hh := h.thermal; clear h; simp_all [Thermal.shaped]), h.backdrop, h.strand, h.dict, h.side, h.pins, h.dma, h.recorder⟩
    | split
    | with_reducible apply Does.parts

theorem State.wakeSource_does (s : State) (src : ℕ) : s.Does [.out, .od, .drive, .ledger, .loops, .power, .thermal, .backdrop, .module, .strand, .side, .recorder] (State.wakeSource s src) := by
  unfold State.wakeSource
  repeat' first
    | with_reducible exact Does.refl _ _
    | with_reducible assumption
    | decide
    | with_reducible refine Does.pair (by assumption) ?_
    | with_reducible refine Does.pairSnd (by assumption) ?_
    | with_reducible refine Does.foldl ?_ ?_
    | (extract_lets +onlyGivenNames w_
       first
         | (refine Does.keep w_ ?_ ?_
            on_goal 1 => (unfold w_; clear w_)
            on_goal 2 => first | (clear_value w_; intro _; revert w_; intro _ _) | (intro _; revert w_; intro _ _))
         | (refine Does.keep w_.1 ?_ ?_
            on_goal 1 => (unfold w_; clear w_)
            on_goal 2 => first | (clear_value w_; intro _; revert w_; intro _ _) | (intro _; revert w_; intro _ _))
         | (clear_value w_; revert w_; intro _) | (revert w_; intro _))
    | with_reducible apply Does.step (State.enterState_does ..)
    | with_reducible apply Does.step (State.abandonMoored_does ..)
    | with_reducible apply Does.step (State.raise_does ..)
    | with_reducible apply Does.step (State.bump_does ..)
    | with_reducible apply Does.step (State.islandStrip_does ..)
    | with_reducible apply Does.step (State.putNat_does ..)
    | with_reducible apply Does.step (State.emit_does ..)
    | exact Or.inr (by decide)
    | exact Or.inl rfl
    | exact fun h => ⟨h.mem, h.od, h.cams, h.time, h.pipe, h.tracker, h.drive, h.seqs, h.loops, h.thermal, h.backdrop, h.strand, h.dict, h.side, h.pins, h.dma, h.recorder⟩
    | split
    | intro _
    | dsimp -zeta only
    | with_reducible apply Does.parts

theorem State.dieBroken_does (s : State) : s.Does [.out, .od, .thermal, .backdrop, .strand, .side, .recorder] (State.dieBroken s) := by
  unfold State.dieBroken
  repeat' first
    | with_reducible exact Does.refl _ _
    | with_reducible assumption
    | decide
    | with_reducible apply Does.step (State.raise_does ..)
    | with_reducible apply Does.step (State.bump_does ..)
    | exact Or.inr (by decide)
    | exact Or.inl rfl
    | exact fun h => ⟨h.mem, h.od, h.cams, h.time, h.pipe, h.tracker, h.drive, h.seqs, h.loops, by first | exact h.thermal | simpa [Thermal.shaped] using h.thermal | (have hh := h.thermal; clear h; simp_all [Thermal.shaped]), h.backdrop, h.strand, h.dict, h.side, h.pins, h.dma, h.recorder⟩
    | split
    | with_reducible apply Does.parts

theorem State.finishPairs_does (s : State) : s.Does [.clk, .out, .od, .time, .pipe, .backdrop, .strand, .side, .recorder] (State.finishPairs s) := by
  unfold State.finishPairs
  repeat' first
    | with_reducible exact Does.refl _ _
    | with_reducible assumption
    | decide
    | with_reducible refine Does.pair (by assumption) ?_
    | with_reducible refine Does.pairSnd (by assumption) ?_
    | with_reducible refine Does.foldl ?_ ?_
    | (extract_lets +onlyGivenNames w_
       first
         | (refine Does.keep w_ ?_ ?_
            on_goal 1 => (unfold w_; clear w_)
            on_goal 2 => first | (clear_value w_; intro _; revert w_; intro _ _) | (intro _; revert w_; intro _ _))
         | (refine Does.keep w_.1 ?_ ?_
            on_goal 1 => (unfold w_; clear w_)
            on_goal 2 => first | (clear_value w_; intro _; revert w_; intro _ _) | (intro _; revert w_; intro _ _))
         | (clear_value w_; revert w_; intro _) | (revert w_; intro _))
    | with_reducible apply Does.step (State.runPair_does ..)
    | with_reducible apply Does.step (State.slotPair_does ..)
    | with_reducible apply Does.step (State.stripPair_does ..)
    | split
    | intro _
    | dsimp -zeta only

theorem State.sequenceEnd_does (s : State) (w : ℕ) : s.Does [.clk, .freeCtr, .out, .od, .time, .cams, .pipe, .tracker, .drive, .seqs, .ledger, .loops, .power, .thermal, .backdrop, .module, .strand, .dict, .side, .dma, .recorder, .update] (State.sequenceEnd s w) := by
  unfold State.sequenceEnd
  repeat' first
    | with_reducible exact Does.refl _ _
    | with_reducible assumption
    | decide
    | with_reducible refine Does.pair (by assumption) ?_
    | with_reducible refine Does.pairSnd (by assumption) ?_
    | with_reducible refine Does.foldl ?_ ?_
    | (extract_lets +onlyGivenNames w_
       first
         | (refine Does.keep w_ ?_ ?_
            on_goal 1 => (unfold w_; clear w_)
            on_goal 2 => first | (clear_value w_; intro _; revert w_; intro _ _) | (intro _; revert w_; intro _ _))
         | (refine Does.keep w_.1 ?_ ?_
            on_goal 1 => (unfold w_; clear w_)
            on_goal 2 => first | (clear_value w_; intro _; revert w_; intro _ _) | (intro _; revert w_; intro _ _))
         | (clear_value w_; revert w_; intro _) | (revert w_; intro _))
    | with_reducible apply Does.step (State.moor_does ..)
    | with_reducible apply Does.step (State.enterState_does ..)
    | with_reducible apply Does.step (State.finishPairs_does ..)
    | with_reducible apply Does.step (State.mainDown_does ..)
    | with_reducible apply Does.step (State.settleWrites_does ..)
    | with_reducible apply Does.step (State.islandStrip_does ..)
    | with_reducible apply Does.step (State.railsDown_does ..)
    | with_reducible apply Does.step (State.atClk_does ..)
    | exact Or.inr (by decide)
    | exact Or.inl rfl
    | exact fun h => ⟨h.mem, h.od, h.cams, h.time, h.pipe, h.tracker, h.drive, h.seqs, h.loops, h.thermal, h.backdrop, h.strand, h.dict, h.side, h.pins, h.dma, h.recorder⟩
    | split
    | intro _
    | dsimp -zeta only
    | with_reducible apply Does.parts

theorem State.mainsIn_does (s : State) : s.Does [.power] (State.mainsIn s) := by
  unfold State.mainsIn
  repeat' first
    | with_reducible exact Does.refl _ _
    | with_reducible assumption
    | decide
    | with_reducible refine Does.pair (by assumption) ?_
    | with_reducible refine Does.pairSnd (by assumption) ?_
    | with_reducible refine Does.foldl ?_ ?_
    | (extract_lets +onlyGivenNames w_
       first
         | (refine Does.keep w_ ?_ ?_
            on_goal 1 => (unfold w_; clear w_)
            on_goal 2 => first | (clear_value w_; intro _; revert w_; intro _ _) | (intro _; revert w_; intro _ _))
         | (refine Does.keep w_.1 ?_ ?_
            on_goal 1 => (unfold w_; clear w_)
            on_goal 2 => first | (clear_value w_; intro _; revert w_; intro _ _) | (intro _; revert w_; intro _ _))
         | (clear_value w_; revert w_; intro _) | (revert w_; intro _))
    | exact Or.inr (by decide)
    | exact Or.inl rfl
    | exact fun h => ⟨h.mem, h.od, h.cams, h.time, h.pipe, h.tracker, h.drive, h.seqs, h.loops, h.thermal, h.backdrop, h.strand, h.dict, h.side, h.pins, h.dma, h.recorder⟩
    | split
    | intro _
    | dsimp -zeta only
    | with_reducible apply Does.parts

theorem State.dieValid_does (s : State) (r : ℤ) : s.Does [.thermal] (State.dieValid s r) := by
  unfold State.dieValid
  repeat' first
    | with_reducible exact Does.refl _ _
    | exact Or.inr (by decide)
    | exact Or.inl rfl
    | exact fun h => ⟨h.mem, h.od, h.cams, h.time, h.pipe, h.tracker, h.drive, h.seqs, h.loops, by first | exact h.thermal | simpa [Thermal.shaped] using h.thermal | (have hh := h.thermal; clear h; simp_all [Thermal.shaped]), h.backdrop, h.strand, h.dict, h.side, h.pins, h.dma, h.recorder⟩
    | with_reducible apply Does.parts

theorem State.mainsBack_does (s : State) : s.Does [.out, .od, .power, .backdrop, .strand, .side, .recorder] (State.mainsBack s) := by
  unfold State.mainsBack
  repeat' first
    | with_reducible exact Does.refl _ _
    | with_reducible assumption
    | decide
    | with_reducible refine Does.pair (by assumption) ?_
    | with_reducible refine Does.pairSnd (by assumption) ?_
    | with_reducible refine Does.foldl ?_ ?_
    | (extract_lets +onlyGivenNames w_
       first
         | (refine Does.keep w_ ?_ ?_
            on_goal 1 => (unfold w_; clear w_)
            on_goal 2 => first | (clear_value w_; intro _; revert w_; intro _ _) | (intro _; revert w_; intro _ _))
         | (refine Does.keep w_.1 ?_ ?_
            on_goal 1 => (unfold w_; clear w_)
            on_goal 2 => first | (clear_value w_; intro _; revert w_; intro _ _) | (intro _; revert w_; intro _ _))
         | (clear_value w_; revert w_; intro _) | (revert w_; intro _))
    | with_reducible apply Does.step (State.raise_does ..)
    | with_reducible apply Does.step (State.bump_does ..)
    | with_reducible apply Does.step (State.mainsIn_does ..)
    | split
    | intro _
    | dsimp -zeta only

theorem State.dieLimits_does (s : State) : s.Does [.out, .od, .thermal, .backdrop, .strand, .side, .recorder] (State.dieLimits s) := by
  unfold State.dieLimits
  repeat' first
    | with_reducible exact Does.refl _ _
    | with_reducible assumption
    | decide
    | (extract_lets +onlyGivenNames w_
       first
         | (refine Does.keep w_ ?_ ?_
            on_goal 1 => (unfold w_; clear w_)
            on_goal 2 => first | (clear_value w_; intro _; revert w_; intro _ _) | (intro _; revert w_; intro _ _))
         | (have h_ : Thermal := w_; clear h_; subst w_)
         | (clear_value w_; revert w_; intro _) | (revert w_; intro _))
    | with_reducible apply Does.step (State.raise_does ..)
    | exact Or.inr (by decide)
    | exact Or.inl rfl
    | exact fun h => ⟨h.mem, h.od, h.cams, h.time, h.pipe, h.tracker, h.drive, h.seqs, h.loops, by first | exact h.thermal | simpa [Thermal.shaped] using h.thermal | (have hh := h.thermal; clear h; simp_all [Thermal.shaped]), h.backdrop, h.strand, h.dict, h.side, h.pins, h.dma, h.recorder⟩
    | split
    | with_reducible apply Does.parts

theorem State.presentDie_does (s : State) : s.Does [.loops] (State.presentDie s) := by
  unfold State.presentDie
  repeat' first
    | with_reducible exact Does.refl _ _
    | exact Or.inr (by decide)
    | exact Or.inl rfl
    | exact fun h => ⟨h.mem, h.od, h.cams, h.time, h.pipe, h.tracker, h.drive, h.seqs, by first | exact ⟨h.loops.1, h.loops.2.1, h.loops.2.2⟩ | simpa [Loops.shaped] using h.loops | (have hh := h.loops; clear h; simp_all [Loops.shaped]), h.thermal, h.backdrop, h.strand, h.dict, h.side, h.pins, h.dma, h.recorder⟩
    | with_reducible apply Does.parts

theorem actAwake_does (m : Sys2Proof.Master) (s : State) : s.Does [.clk, .out, .od, .time, .drive, .ledger, .loops, .power, .thermal, .backdrop, .module, .strand, .side, .recorder] (actAwake m s).1 := by
  unfold actAwake
  repeat' first
    | with_reducible exact Does.refl _ _
    | with_reducible assumption
    | decide
    | with_reducible refine Does.pair (by assumption) ?_
    | with_reducible refine Does.pairSnd (by assumption) ?_
    | with_reducible refine Does.foldl ?_ ?_
    | (extract_lets +onlyGivenNames w_
       first
         | (refine Does.keep w_ ?_ ?_
            on_goal 1 => (unfold w_; clear w_)
            on_goal 2 => first | (clear_value w_; intro _; revert w_; intro _ _) | (intro _; revert w_; intro _ _))
         | (refine Does.keep w_.1 ?_ ?_
            on_goal 1 => (unfold w_; clear w_)
            on_goal 2 => first | (clear_value w_; intro _; revert w_; intro _ _) | (intro _; revert w_; intro _ _))
         | (clear_value w_; revert w_; intro _) | (revert w_; intro _))
    | split
    | with_reducible apply Does.step (State.wakeSource_does ..)
    | with_reducible apply Does.step (State.enterState_does ..)
    | with_reducible apply Does.step (State.islandStrip_does ..)
    | with_reducible apply Does.step (State.atClk_does ..)
    | with_reducible apply Does.step (State.putNat_does ..)
    | exact Or.inr (by decide)
    | exact Or.inl rfl
    | exact fun h => ⟨h.mem, h.od, h.cams, h.time, h.pipe, h.tracker, h.drive, h.seqs, h.loops, h.thermal, h.backdrop, h.strand, h.dict, h.side, h.pins, h.dma, h.recorder⟩
    | split
    | intro _
    | dsimp -zeta only
    | with_reducible apply Does.parts

theorem actMoored_does (s : State) : s.Does [.out, .od, .mem, .cams, .pipe, .drive, .seqs, .ledger, .loops, .power, .backdrop, .module, .strand, .side, .recorder] (actMoored s).1 := by
  unfold actMoored
  repeat' first
    | with_reducible exact Does.refl _ _
    | with_reducible assumption
    | decide
    | with_reducible refine Does.pair (by assumption) ?_
    | with_reducible refine Does.pairSnd (by assumption) ?_
    | with_reducible refine Does.foldl ?_ ?_
    | (extract_lets +onlyGivenNames w_
       first
         | (refine Does.keep w_ ?_ ?_
            on_goal 1 => (unfold w_; clear w_)
            on_goal 2 => first | (clear_value w_; intro _; revert w_; intro _ _) | (intro _; revert w_; intro _ _))
         | (refine Does.keep w_.1 ?_ ?_
            on_goal 1 => (unfold w_; clear w_)
            on_goal 2 => first | (clear_value w_; intro _; revert w_; intro _ _) | (intro _; revert w_; intro _ _))
         | (have h_ : Drive := w_; clear h_; subst w_)
         | (clear_value w_; revert w_; intro _) | (revert w_; intro _))
    | split
    | with_reducible apply Does.step (actStopStream_does ..)
    | with_reducible apply Does.step (State.mooredRefused_does ..)
    | with_reducible apply Does.step (State.raise_does ..)
    | with_reducible apply Does.step (State.settleOuts_does ..)
    | with_reducible apply Does.step (State.putNat_does ..)
    | with_reducible apply Does.step (State.dropQueues_does ..)
    | exact Or.inr (by decide)
    | exact Or.inl rfl
    | exact fun h => ⟨h.mem, h.od, h.cams, h.time, h.pipe, h.tracker, by first | exact ⟨h.drive.1, h.drive.2⟩ | simpa [Drive.shaped] using h.drive | (have hh := h.drive; clear h; simp_all [Drive.shaped]), h.seqs, h.loops, h.thermal, h.backdrop, h.strand, h.dict, h.side, h.pins, h.dma, h.recorder⟩
    | split
    | intro _
    | dsimp -zeta only
    | with_reducible apply Does.parts

theorem State.settleRefill_does (s : State) (mean : ℚ) :
    s.Does [.out, .od, .drive, .power, .backdrop, .strand, .side, .recorder] (s.settleRefill mean) := by
  have up : ∀ (t : State) (b : Bool) (o : Option Nat), t.Does [.out, .od, .drive, .power, .backdrop, .strand, .side, .recorder]
      { t with drive := { t.drive with refillSuspended := b }, power := { t.power with suspendedAt := o } } := fun t b o =>
    Does.step (Does.power (s := { t with drive := { t.drive with refillSuspended := b } }) _) (by decide)
      (Does.mono (Does.drive _ fun h => ⟨h.1, h.2⟩) (by decide))
  have fill : ∀ t : State, t.Does [.out, .od, .drive, .power, .backdrop, .strand, .side, .recorder] t.refill := fun t =>
    Does.mono (State.refill_does t) (by decide)
  unfold State.settleRefill
  split
  · split
    · exact Does.step (State.raiseSlow_does ..) (by decide) (Does.trans (fill s) (up ..))
    · exact Does.refl _ _
  · next t _ =>
    dsimp only
    have h : s.Does [.out, .od, .drive, .power, .backdrop, .strand, .side, .recorder]
        (if t + secTicks ≤ s.clk then
          (({ s with power := { s.power with suspendedAt := some (t + secTicks) } }).bump (obj 0x2C00 0x0D)).raiseSlow 0x1003 0
        else s) := by
      split
      · exact Does.step (State.raiseSlow_does ..) (by decide) (Does.step (State.bump_does ..) (by decide)
          (Does.mono (Does.power _) (by decide)))
      · exact Does.refl _ _
    generalize (if t + secTicks ≤ s.clk then
          (({ s with power := { s.power with suspendedAt := some (t + secTicks) } }).bump (obj 0x2C00 0x0D)).raiseSlow 0x1003 0
        else s) = u at h ⊢
    split
    · exact Does.trans (Does.trans h (fill u)) (up ..)
    · exact h

theorem State.dieShutdown_does (s : State) : s.Does [.freeCtr, .out, .od, .mem, .cams, .pipe, .tracker, .drive, .seqs, .ledger, .loops, .power, .thermal, .backdrop, .module, .strand, .dict, .side, .dma, .recorder, .update] (State.dieShutdown s) := by
  unfold State.dieShutdown
  repeat' first
    | with_reducible exact Does.refl _ _
    | with_reducible assumption
    | decide
    | with_reducible refine Does.pair (by assumption) ?_
    | with_reducible refine Does.pairSnd (by assumption) ?_
    | with_reducible refine Does.foldl ?_ ?_
    | (extract_lets +onlyGivenNames w_
       first
         | (refine Does.keep w_ ?_ ?_
            on_goal 1 => (unfold w_; clear w_)
            on_goal 2 => first | (clear_value w_; intro _; revert w_; intro _ _) | (intro _; revert w_; intro _ _))
         | (refine Does.keep w_.1 ?_ ?_
            on_goal 1 => (unfold w_; clear w_)
            on_goal 2 => first | (clear_value w_; intro _; revert w_; intro _ _) | (intro _; revert w_; intro _ _))
         | (have h_ : Thermal := w_; clear h_; subst w_)
         | (clear_value w_; revert w_; intro _) | (revert w_; intro _))
    | with_reducible apply Does.step (State.powerFailSteps_does ..)
    | with_reducible apply Does.step (State.enterState_does ..)
    | with_reducible apply Does.step (State.raise_does ..)
    | with_reducible apply Does.step (State.sendEvent_does ..)
    | with_reducible apply Does.step (State.bump_does ..)
    | exact Or.inr (by decide)
    | exact Or.inl rfl
    | exact fun h => ⟨h.mem, h.od, h.cams, h.time, h.pipe, h.tracker, h.drive, h.seqs, h.loops, by first | exact h.thermal | simpa [Thermal.shaped] using h.thermal | (have hh := h.thermal; clear h; simp_all [Thermal.shaped]), h.backdrop, h.strand, h.dict, h.side, h.pins, h.dma, h.recorder⟩
    | split
    | intro _
    | dsimp -zeta only
    | with_reducible apply Does.parts

end Sys2Proof.Machine
end

