-- ==== Sys2Proof/Laws/Update.lean ====
section
/-!
SUPPORT. What the operations of Machine/Update.lean do.
-/
set_option Elab.async false
set_option linter.all false

namespace Sys2Proof.Machine

theorem updateCommand_does {ps : List Part} (allowed : List Nat) (act : State → State) (s : State) (ha : s.Does ps (act s)) :
    s.Does ps (updateCommand allowed act s).1 := by
  unfold updateCommand
  split
  · exact Does.refl _ _
  · exact ha

theorem State.received_does (s : State) : s.Does [.od, .update] (State.received s) := by
  unfold State.received
  repeat' first
    | with_reducible exact Does.refl _ _
    | decide
    | with_reducible apply Does.step (State.bump_does ..)
    | exact Or.inr (by decide)
    | exact Or.inl rfl
    | exact fun h => ⟨h.mem, h.od, h.cams, h.time, h.pipe, h.tracker, h.drive, h.seqs, h.loops, h.thermal, h.backdrop, h.strand, h.dict, h.side, h.pins, h.dma, h.recorder⟩
    | with_reducible apply Does.parts

theorem actStageFromDdr_does (a0 : State) : a0.Does [.out, .od, .backdrop, .strand, .side, .dma, .recorder, .update] (actStageFromDdr a0).1 := by
  unfold actStageFromDdr
  repeat' first
    | with_reducible exact Does.refl _ _
    | with_reducible assumption
    | decide
    | with_reducible refine Does.pair (by assumption) ?_
    | with_reducible refine Does.pairSnd (by assumption) ?_
    | with_reducible refine Does.foldl ?_ ?_
    | (extract_lets +onlyGivenNames w_
       first
         | (refine Does.keep w_ ?_ ?_
            on_goal 1 => (unfold w_; clear w_)
            on_goal 2 => first | (clear_value w_; intro _; revert w_; intro _ _) | (intro _; revert w_; intro _ _))
         | (refine Does.keep w_.1 ?_ ?_
            on_goal 1 => (unfold w_; clear w_)
            on_goal 2 => first | (clear_value w_; intro _; revert w_; intro _ _) | (intro _; revert w_; intro _ _))
         | (clear_value w_; revert w_; intro _) | (revert w_; intro _))
    | split
    | with_reducible apply Does.step (State.fwRun_does ..)
    | with_reducible apply Does.step (State.received_does ..)
    | with_reducible refine Does.trans ?_ (updateCommand_does _ _ _ ?_)
    | exact Or.inr (by decide)
    | exact Or.inl rfl
    | exact fun h => ⟨h.mem, h.od, h.cams, h.time, h.pipe, h.tracker, h.drive, h.seqs, h.loops, h.thermal, h.backdrop, h.strand, h.dict, h.side, h.pins, h.dma, h.recorder⟩
    | split
    | intro _
    | dsimp -zeta only
    | with_reducible apply Does.parts

theorem State.markPending_does (s : State) : s.Does [.out, .od, .backdrop, .strand, .side, .recorder, .update] (State.markPending s) := by
  unfold State.markPending
  repeat' first
    | with_reducible exact Does.refl _ _
    | decide
    | with_reducible apply Does.step (State.raise_does ..)
    | exact Or.inr (by decide)
    | exact Or.inl rfl
    | exact fun h => ⟨h.mem, h.od, h.cams, h.time, h.pipe, h.tracker, h.drive, h.seqs, h.loops, h.thermal, h.backdrop, h.strand, h.dict, h.side, h.pins, h.dma, h.recorder⟩
    | with_reducible apply Does.parts

theorem actMarkPending_does (a0 : State) : a0.Does [.out, .od, .backdrop, .strand, .side, .recorder, .update] (actMarkPending a0).1 := by
  unfold actMarkPending
  repeat' first
    | with_reducible exact Does.refl _ _
    | decide
    | with_reducible apply Does.step (State.markPending_does ..)
    | with_reducible refine Does.trans ?_ (updateCommand_does _ _ _ ?_)

theorem actRestartFromStaging_does (a0 : State) : a0.Does [.freeCtr, .out, .od, .time, .cams, .pipe, .tracker, .drive, .seqs, .ledger, .loops, .power, .thermal, .backdrop, .module, .strand, .dict, .side, .dma, .recorder, .update] (actRestartFromStaging a0).1 := by
  unfold actRestartFromStaging
  repeat' first
    | with_reducible exact Does.refl _ _
    | with_reducible assumption
    | decide
    | with_reducible refine Does.pair (by assumption) ?_
    | with_reducible refine Does.pairSnd (by assumption) ?_
    | with_reducible refine Does.foldl ?_ ?_
    | (extract_lets +onlyGivenNames w_
       first
         | (refine Does.keep w_ ?_ ?_
            on_goal 1 => (unfold w_; clear w_)
            on_goal 2 => first | (clear_value w_; intro _; revert w_; intro _ _) | (intro _; revert w_; intro _ _))
         | (refine Does.keep w_.1 ?_ ?_
            on_goal 1 => (unfold w_; clear w_)
            on_goal 2 => first | (clear_value w_; intro _; revert w_; intro _ _) | (intro _; revert w_; intro _ _))
         | (clear_value w_; revert w_; intro _) | (revert w_; intro _))
    | split
    | with_reducible apply Does.step (State.beginRestart_does ..)
    | with_reducible apply Does.step (State.markPending_does ..)
    | with_reducible refine Does.trans ?_ (updateCommand_does _ _ _ ?_)
    | split
    | intro _
    | dsimp -zeta only

theorem actCancelPending_does (a0 : State) : a0.Does [.out, .od, .backdrop, .strand, .side, .recorder, .update] (actCancelPending a0).1 := by
  unfold actCancelPending
  repeat' first
    | with_reducible exact Does.refl _ _
    | decide
    | with_reducible apply Does.step (State.raise_does ..)
    | with_reducible refine Does.trans ?_ (updateCommand_does _ _ _ ?_)
    | exact Or.inr (by decide)
    | exact Or.inl rfl
    | exact fun h => ⟨h.mem, h.od, h.cams, h.time, h.pipe, h.tracker, h.drive, h.seqs, h.loops, h.thermal, h.backdrop, h.strand, h.dict, h.side, h.pins, h.dma, h.recorder⟩
    | with_reducible apply Does.parts

theorem State.enterRecovery_does (s : State) (cause : ℕ) : s.Does [.freeCtr, .out, .od, .time, .cams, .pipe, .tracker, .drive, .seqs, .ledger, .loops, .power, .thermal, .backdrop, .module, .strand, .dict, .side, .dma, .recorder, .update] (State.enterRecovery s cause) := by
  unfold State.enterRecovery
  repeat' first
    | with_reducible exact Does.refl _ _
    | with_reducible assumption
    | decide
    | with_reducible refine Does.pair (by assumption) ?_
    | with_reducible refine Does.pairSnd (by assumption) ?_
    | with_reducible refine Does.foldl ?_ ?_
    | (extract_lets +onlyGivenNames w_
       first
         | (refine Does.keep w_ ?_ ?_
            on_goal 1 => (unfold w_; clear w_)
            on_goal 2 => first | (clear_value w_; intro _; revert w_; intro _ _) | (intro _; revert w_; intro _ _))
         | (refine Does.keep w_.1 ?_ ?_
            on_goal 1 => (unfold w_; clear w_)
            on_goal 2 => first | (clear_value w_; intro _; revert w_; intro _ _) | (intro _; revert w_; intro _ _))
         | (clear_value w_; revert w_; intro _) | (revert w_; intro _))
    | with_reducible apply Does.step (State.enterState_does ..)
    | with_reducible apply Does.step (State.failRun_does ..)
    | with_reducible apply Does.step (State.mainDown_does ..)
    | with_reducible apply Does.step (State.raise_does ..)
    | with_reducible apply Does.step (State.drivePowerFail_does ..)
    | with_reducible apply Does.step (State.bump_does ..)
    | with_reducible apply Does.step (State.islandStrip_does ..)
    | with_reducible apply Does.step (State.lapse_does ..)
    | exact Or.inr (by decide)
    | exact Or.inl rfl
    | exact fun h => ⟨h.mem, h.od, h.cams, h.time, h.pipe, h.tracker, h.drive, h.seqs, h.loops, h.thermal, h.backdrop, h.strand, h.dict, h.side, h.pins, h.dma, h.recorder⟩
    | split
    | intro _
    | dsimp -zeta only
    | with_reducible apply Does.parts

theorem State.stageBytes_does (s : State) (path : ℕ) (offset : ℕ) (total : ℕ) (data : List Sys2Proof.Byte) : s.Does [.out, .od, .backdrop, .strand, .side, .recorder, .update] (State.stageBytes s path offset total data).1 := by
  unfold State.stageBytes
  repeat' first
    | with_reducible exact Does.refl _ _
    | with_reducible assumption
    | decide
    | (extract_lets +onlyGivenNames w_
       first
         | (refine Does.keep w_ ?_ ?_
            on_goal 1 => (unfold w_; clear w_)
            on_goal 2 => first | (clear_value w_; intro _; revert w_; intro _ _) | (intro _; revert w_; intro _ _))
         | (clear_value w_; revert w_; intro _) | (revert w_; intro _))
    | with_reducible apply Does.step (State.abortTransfer_does ..)
    | with_reducible apply Does.step (State.received_does ..)
    | with_reducible apply Does.step (State.emit_does ..)
    | exact Or.inr (by decide)
    | exact Or.inl rfl
    | exact fun h => ⟨h.mem, h.od, h.cams, h.time, h.pipe, h.tracker, h.drive, h.seqs, h.loops, h.thermal, h.backdrop, h.strand, h.dict, h.side, h.pins, h.dma, h.recorder⟩
    | split
    | with_reducible apply Does.parts

theorem actStaging_does (m : Sys2Proof.Master) (offset : ℕ) (total : ℕ) (data : List Sys2Proof.Byte) (s : State) : s.Does [.out, .od, .backdrop, .strand, .side, .recorder, .update] (actStaging m offset total data s).1 := by
  unfold actStaging
  repeat' first
    | with_reducible exact Does.refl _ _
    | decide
    | with_reducible apply Does.step (State.stageBytes_does ..)

theorem actVerifyAgain_does (a0 : State) : a0.Does [.update] (actVerifyAgain a0).1 := by
  unfold actVerifyAgain
  repeat' first
    | with_reducible exact Does.refl _ _
    | with_reducible refine Does.trans ?_ (updateCommand_does _ _ _ ?_)
    | exact Or.inr (by decide)
    | exact Or.inl rfl
    | exact fun h => ⟨h.mem, h.od, h.cams, h.time, h.pipe, h.tracker, h.drive, h.seqs, h.loops, h.thermal, h.backdrop, h.strand, h.dict, h.side, h.pins, h.dma, h.recorder⟩
    | with_reducible apply Does.parts

theorem State.settleFirstStart_does (s : State) : s.Does [.out, .od, .backdrop, .strand, .side, .recorder, .update] (State.settleFirstStart s) := by
  unfold State.settleFirstStart
  repeat' first
    | with_reducible exact Does.refl _ _
    | decide
    | with_reducible apply Does.step (State.raise_does ..)
    | with_reducible apply Does.step (State.bump_does ..)
    | exact Or.inr (by decide)
    | exact Or.inl rfl
    | exact fun h => ⟨h.mem, h.od, h.cams, h.time, h.pipe, h.tracker, h.drive, h.seqs, h.loops, h.thermal, h.backdrop, h.strand, h.dict, h.side, h.pins, h.dma, h.recorder⟩
    | split
    | with_reducible apply Does.parts

theorem actStageSource_does (v : ℕ) (s : State) : s.Does [.od] (actStageSource v s).1 := by
  unfold actStageSource
  repeat' first
    | with_reducible exact Does.refl _ _
    | decide
    | (extract_lets +onlyGivenNames w_
       first
         | (clear_value w_; revert w_; intro _) | (revert w_; intro _))
    | with_reducible apply Does.step (State.putNat_does ..)
    | split

theorem State.updateWrite_does {ps : List Part} (h0 : Part.out ∈ ps) (h1 : Part.od ∈ ps) (h2 : Part.dict ∈ ps) (s : State) (m : Master)
    (n : Nat) (act : State → State × Nat) (ha : s.Does ps (act s).1) : s.Does ps (s.updateWrite m n act) :=
  State.write_does h0 h1 h2 s m _ _ act ha

theorem actMarkPendingRestart_does (a0 : State) : a0.Does [.freeCtr, .out, .od, .time, .cams, .pipe, .tracker, .drive, .seqs, .ledger, .loops, .power, .thermal, .backdrop, .module, .strand, .dict, .side, .dma, .recorder, .update] (actMarkPendingRestart a0).1 := by
  unfold actMarkPendingRestart
  repeat' first
    | with_reducible exact Does.refl _ _
    | with_reducible assumption
    | decide
    | with_reducible refine Does.pair (by assumption) ?_
    | with_reducible refine Does.pairSnd (by assumption) ?_
    | with_reducible refine Does.foldl ?_ ?_
    | (extract_lets +onlyGivenNames w_
       first
         | (refine Does.keep w_ ?_ ?_
            on_goal 1 => (unfold w_; clear w_)
            on_goal 2 => first | (clear_value w_; intro _; revert w_; intro _ _) | (intro _; revert w_; intro _ _))
         | (refine Does.keep w_.1 ?_ ?_
            on_goal 1 => (unfold w_; clear w_)
            on_goal 2 => first | (clear_value w_; intro _; revert w_; intro _ _) | (intro _; revert w_; intro _ _))
         | (clear_value w_; revert w_; intro _) | (revert w_; intro _))
    | split
    | with_reducible apply Does.step (State.beginRestart_does ..)
    | with_reducible apply Does.step (State.markPending_does ..)
    | with_reducible refine Does.trans ?_ (updateCommand_does _ _ _ ?_)
    | exact Or.inr (by decide)
    | exact Or.inl rfl
    | exact fun h => ⟨h.mem, h.od, h.cams, h.time, h.pipe, h.tracker, h.drive, h.seqs, h.loops, h.thermal, h.backdrop, h.strand, h.dict, h.side, h.pins, h.dma, h.recorder⟩
    | split
    | intro _
    | dsimp -zeta only
    | with_reducible apply Does.parts

theorem actStageLength_does (v : ℕ) (s : State) : s.Does [.od] (actStageLength v s).1 := by
  unfold actStageLength
  repeat' first
    | with_reducible exact Does.refl _ _
    | with_reducible assumption
    | decide
    | with_reducible refine Does.pair (by assumption) ?_
    | with_reducible refine Does.pairSnd (by assumption) ?_
    | with_reducible refine Does.foldl ?_ ?_
    | (extract_lets +onlyGivenNames w_
       first
         | (refine Does.keep w_ ?_ ?_
            on_goal 1 => (unfold w_; clear w_)
            on_goal 2 => first | (clear_value w_; intro _; revert w_; intro _ _) | (intro _; revert w_; intro _ _))
         | (refine Does.keep w_.1 ?_ ?_
            on_goal 1 => (unfold w_; clear w_)
            on_goal 2 => first | (clear_value w_; intro _; revert w_; intro _ _) | (intro _; revert w_; intro _ _))
         | (clear_value w_; revert w_; intro _) | (revert w_; intro _))
    | split
    | with_reducible apply Does.step (State.putNat_does ..)
    | split
    | intro _
    | dsimp -zeta only

theorem actLibrarySlot_does (slot : ℕ) (img : List Sys2Proof.Byte) (s : State) : s.Does [.out, .od, .backdrop, .strand, .side, .dma, .recorder, .update] (actLibrarySlot slot img s).1 := by
  unfold actLibrarySlot
  repeat' first
    | with_reducible exact Does.refl _ _
    | with_reducible assumption
    | decide
    | with_reducible refine Does.pair (by assumption) ?_
    | with_reducible refine Does.pairSnd (by assumption) ?_
    | with_reducible refine Does.foldl ?_ ?_
    | (extract_lets +onlyGivenNames w_
       first
         | (refine Does.keep w_ ?_ ?_
            on_goal 1 => (unfold w_; clear w_)
            on_goal 2 => first | (clear_value w_; intro _; revert w_; intro _ _) | (intro _; revert w_; intro _ _))
         | (refine Does.keep w_.1 ?_ ?_
            on_goal 1 => (unfold w_; clear w_)
            on_goal 2 => first | (clear_value w_; intro _; revert w_; intro _ _) | (intro _; revert w_; intro _ _))
         | (clear_value w_; revert w_; intro _) | (revert w_; intro _))
    | split
    | with_reducible apply Does.step (State.fwRun_does ..)
    | with_reducible apply Does.step (State.raise_does ..)
    | with_reducible apply Does.step (State.emit_does ..)
    | exact Or.inr (by decide)
    | exact Or.inl rfl
    | exact fun h => ⟨h.mem, h.od, h.cams, h.time, h.pipe, h.tracker, h.drive, h.seqs, h.loops, h.thermal, h.backdrop, h.strand, h.dict, h.side, h.pins, h.dma, h.recorder⟩
    | split
    | intro _
    | dsimp -zeta only
    | with_reducible apply Does.parts

end Sys2Proof.Machine
end

