-- ==== Sys2Proof/Laws/Dma.lean ====
section
/-!
SUPPORT. What the operations of Machine/Dma.lean do.
-/
set_option Elab.async false
set_option linter.all false

namespace Sys2Proof.Machine

theorem actChNext_does (c : ℕ) (value : ℕ) (s : State) : s.Does [.dma] (actChNext c value s).1 := by
  unfold actChNext
  repeat' first
    | with_reducible exact Does.refl _ _
    | decide
    | (extract_lets +onlyGivenNames w_
       first
         | (clear_value w_; revert w_; intro _) | (revert w_; intro _))
    | with_reducible apply Does.step (State.setChan_does ..)
    | split

theorem actChIrq_does (c : ℕ) (value : ℕ) (s : State) : s.Does [.dma] (actChIrq c value s).1 := by
  unfold actChIrq
  repeat' first
    | with_reducible exact Does.refl _ _
    | decide
    | with_reducible apply Does.step (State.setChan_does ..)

theorem State.noteCorrected_does (s : State) (a1 : Option Sys2Proof.MemError) : s.Does [.od] (State.noteCorrected s a1) := by
  unfold State.noteCorrected
  repeat' first
    | with_reducible exact Does.refl _ _
    | with_reducible assumption
    | decide
    | with_reducible refine Does.pair (by assumption) ?_
    | with_reducible refine Does.pairSnd (by assumption) ?_
    | with_reducible refine Does.foldl ?_ ?_
    | (extract_lets +onlyGivenNames w_
       first
         | (refine Does.keep w_ ?_ ?_
            on_goal 1 => (unfold w_; clear w_)
            on_goal 2 => first | (clear_value w_; intro _; revert w_; intro _ _) | (intro _; revert w_; intro _ _))
         | (refine Does.keep w_.1 ?_ ?_
            on_goal 1 => (unfold w_; clear w_)
            on_goal 2 => first | (clear_value w_; intro _; revert w_; intro _ _) | (intro _; revert w_; intro _ _))
         | (clear_value w_; revert w_; intro _) | (revert w_; intro _))
    | with_reducible apply Does.step (State.bumpBy_does ..)
    | split
    | intro _
    | dsimp -zeta only

theorem actChStart_does (c : ℕ) (bad : Bool) (s : State) : s.Does [.out, .od, .backdrop, .strand, .side, .dma, .recorder] (actChStart c bad s).1 := by
  unfold actChStart
  repeat' first
    | with_reducible exact Does.refl _ _
    | with_reducible assumption
    | decide
    | with_reducible refine Does.pair (by assumption) ?_
    | with_reducible refine Does.pairSnd (by assumption) ?_
    | with_reducible refine Does.foldl ?_ ?_
    | (extract_lets +onlyGivenNames w_
       first
         | (refine Does.keep w_ ?_ ?_
            on_goal 1 => (unfold w_; clear w_)
            on_goal 2 => first | (clear_value w_; intro _; revert w_; intro _ _) | (intro _; revert w_; intro _ _))
         | (refine Does.keep w_.1 ?_ ?_
            on_goal 1 => (unfold w_; clear w_)
            on_goal 2 => first | (clear_value w_; intro _; revert w_; intro _ _) | (intro _; revert w_; intro _ _))
         | (clear_value w_; revert w_; intro _) | (revert w_; intro _))
    | split
    | with_reducible apply Does.step (State.settleFifo_does ..)
    | with_reducible apply Does.step (State.takeDescriptor_does ..)
    | with_reducible apply Does.step (State.setChan_does ..)
    | split
    | intro _
    | dsimp -zeta only

theorem actChAppend_does (c : ℕ) (bad : Bool) (s : State) : s.Does [.out, .od, .backdrop, .strand, .side, .dma, .recorder] (actChAppend c bad s).1 := by
  unfold actChAppend
  repeat' first
    | with_reducible exact Does.refl _ _
    | with_reducible assumption
    | decide
    | with_reducible refine Does.pair (by assumption) ?_
    | with_reducible refine Does.pairSnd (by assumption) ?_
    | with_reducible refine Does.foldl ?_ ?_
    | (extract_lets +onlyGivenNames w_
       first
         | (refine Does.keep w_ ?_ ?_
            on_goal 1 => (unfold w_; clear w_)
            on_goal 2 => first | (clear_value w_; intro _; revert w_; intro _ _) | (intro _; revert w_; intro _ _))
         | (refine Does.keep w_.1 ?_ ?_
            on_goal 1 => (unfold w_; clear w_)
            on_goal 2 => first | (clear_value w_; intro _; revert w_; intro _ _) | (intro _; revert w_; intro _ _))
         | (clear_value w_; revert w_; intro _) | (revert w_; intro _))
    | split
    | with_reducible apply Does.step (State.settleFifo_does ..)
    | with_reducible apply Does.step (State.followLink_does ..)
    | with_reducible apply Does.step (State.dmaFail_does ..)
    | with_reducible apply Does.step (State.bump_does ..)
    | with_reducible apply Does.step (State.setChan_does ..)
    | split
    | intro _
    | dsimp -zeta only

end Sys2Proof.Machine
end

