-- ==== Sys2Proof/Laws/Recorder.lean ====
section
/-!
SUPPORT. What the operations of Machine/Recorder.lean do.
-/
set_option Elab.async false
set_option linter.all false

namespace Sys2Proof.Machine

theorem State.newChallenge_does (s : State) (m : Sys2Proof.Master) : s.Does [.freeCtr, .recorder] (State.newChallenge s m).1 := by
  unfold State.newChallenge
  repeat' first
    | with_reducible exact Does.refl _ _
    | decide
    | with_reducible refine Does.pairSnd (by assumption) ?_
    | with_reducible apply Does.step (State.draw_does ..)
    | exact Or.inr (by decide)
    | exact Or.inl rfl
    | exact fun h => ⟨h.mem, h.od, h.cams, h.time, h.pipe, h.tracker, h.drive, h.seqs, h.loops, h.thermal, h.backdrop, h.strand, h.dict, h.side, h.pins, h.dma, by first | exact ⟨h.recorder.1, h.recorder.2.1, h.recorder.2.2.1, h.recorder.2.2.2.1, h.recorder.2.2.2.2⟩ | simpa [Recorder.shaped] using h.recorder | (have hh := h.recorder; clear h; simp_all [Recorder.shaped])⟩
    | with_reducible apply Does.parts

theorem State.selectSlot_does (s : State) (m : Sys2Proof.Master) (n : ℕ) : s.Does [.recorder] (State.selectSlot s m n) := by
  unfold State.selectSlot
  repeat' first
    | with_reducible exact Does.refl _ _
    | exact Or.inr (by decide)
    | exact Or.inl rfl
    | exact fun h => ⟨h.mem, h.od, h.cams, h.time, h.pipe, h.tracker, h.drive, h.seqs, h.loops, h.thermal, h.backdrop, h.strand, h.dict, h.side, h.pins, h.dma, by first | exact ⟨h.recorder.1, h.recorder.2.1, h.recorder.2.2.1, h.recorder.2.2.2.1, h.recorder.2.2.2.2⟩ | simpa [Recorder.shaped] using h.recorder | (have hh := h.recorder; clear h; simp_all [Recorder.shaped])⟩
    | with_reducible apply Does.parts

theorem actSelectSeq_does (m : Sys2Proof.Master) (seq : ℕ) (s : State) : s.Does [.recorder] (actSelectSeq m seq s).1 := by
  unfold actSelectSeq
  repeat' first
    | with_reducible exact Does.refl _ _
    | decide
    | with_reducible apply Does.step (State.selectSlot_does ..)
    | split

theorem State.refuseClear_does (s : State) (m : Sys2Proof.Master) : s.Does [.out, .od, .backdrop, .strand, .side, .recorder] (State.refuseClear s m) := by
  unfold State.refuseClear
  repeat' first
    | with_reducible exact Does.refl _ _
    | with_reducible assumption
    | decide
    | with_reducible apply Does.step (State.raise_does ..)
    | with_reducible apply Does.step (State.bump_does ..)
    | exact Or.inr (by decide)
    | exact Or.inl rfl
    | exact fun h => ⟨h.mem, h.od, h.cams, h.time, h.pipe, h.tracker, h.drive, h.seqs, h.loops, h.thermal, h.backdrop, h.strand, h.dict, h.side, h.pins, h.dma, by first | exact ⟨h.recorder.1, h.recorder.2.1, h.recorder.2.2.1, h.recorder.2.2.2.1, h.recorder.2.2.2.2⟩ | simpa [Recorder.shaped] using h.recorder | (have hh := h.recorder; clear h; simp_all [Recorder.shaped])⟩
    | split
    | with_reducible apply Does.parts

theorem State.acceptClear_does (s : State) (m : Sys2Proof.Master) : s.Does [.out, .od, .strand, .recorder] (State.acceptClear s m) := by
  unfold State.acceptClear
  repeat' first
    | with_reducible exact Does.refl _ _
    | with_reducible assumption
    | decide
    | with_reducible refine Does.pair (by assumption) ?_
    | with_reducible refine Does.pairSnd (by assumption) ?_
    | with_reducible refine Does.foldl ?_ ?_
    | (extract_lets +onlyGivenNames w_
       first
         | (refine Does.keep w_ ?_ ?_
            on_goal 1 => (unfold w_; clear w_)
            on_goal 2 => first | (clear_value w_; intro _; revert w_; intro _ _) | (intro _; revert w_; intro _ _))
         | (refine Does.keep w_.1 ?_ ?_
            on_goal 1 => (unfold w_; clear w_)
            on_goal 2 => first | (clear_value w_; intro _; revert w_; intro _ _) | (intro _; revert w_; intro _ _))
         | (have h_ : Recorder := w_; clear h_; subst w_)
         | (clear_value w_; revert w_; intro _) | (revert w_; intro _))
    | with_reducible apply Does.step (State.runClear_does ..)
    | with_reducible apply Does.step (State.noteConfig_does ..)
    | with_reducible apply Does.step (State.switchBanks_does ..)
    | exact Or.inr (by decide)
    | exact Or.inl rfl
    | exact fun h => ⟨h.mem, h.od, h.cams, h.time, h.pipe, h.tracker, h.drive, h.seqs, h.loops, h.thermal, h.backdrop, h.strand, h.dict, h.side, h.pins, h.dma, by first | exact ⟨h.recorder.1, h.recorder.2.1, h.recorder.2.2.1, h.recorder.2.2.2.1, h.recorder.2.2.2.2⟩ | simpa [Recorder.shaped] using h.recorder | (have hh := h.recorder; clear h; simp_all [Recorder.shaped])⟩
    | split
    | intro _
    | dsimp -zeta only
    | with_reducible apply Does.parts

theorem actClear_does (m : Sys2Proof.Master) (response : List Sys2Proof.Byte) (s : State) : s.Does [.out, .od, .backdrop, .strand, .side, .recorder] (actClear m response s).1 := by
  unfold actClear
  repeat' first
    | with_reducible exact Does.refl _ _
    | with_reducible assumption
    | decide
    | with_reducible refine Does.pair (by assumption) ?_
    | with_reducible refine Does.pairSnd (by assumption) ?_
    | with_reducible refine Does.foldl ?_ ?_
    | (extract_lets +onlyGivenNames w_
       first
         | (refine Does.keep w_ ?_ ?_
            on_goal 1 => (unfold w_; clear w_)
            on_goal 2 => first | (clear_value w_; intro _; revert w_; intro _ _) | (intro _; revert w_; intro _ _))
         | (refine Does.keep w_.1 ?_ ?_
            on_goal 1 => (unfold w_; clear w_)
            on_goal 2 => first | (clear_value w_; intro _; revert w_; intro _ _) | (intro _; revert w_; intro _ _))
         | (clear_value w_; revert w_; intro _) | (revert w_; intro _))
    | split
    | with_reducible apply Does.step (State.refuseClear_does ..)
    | with_reducible apply Does.step (State.acceptClear_does ..)
    | split
    | intro _
    | dsimp -zeta only

theorem State.clearWrite_does (s : State) (m : Sys2Proof.Master) (response : List Sys2Proof.Byte) : s.Does [.out, .od, .backdrop, .strand, .dict, .side, .recorder] (State.clearWrite s m response) := by
  unfold State.clearWrite
  repeat' first
    | with_reducible exact Does.refl _ _
    | decide
    | with_reducible refine Does.pair (by assumption) ?_
    | (extract_lets +onlyGivenNames w_
       first
         | (clear_value w_; revert w_; intro _) | (revert w_; intro _))
    | with_reducible apply Does.step (actClear_does ..)
    | with_reducible refine Does.trans ?_ (State.tryWrite_does (by decide) (by decide) _ _ _ _ _ ?_)
    | with_reducible apply Does.step (State.answer_does ..)
    | split

theorem actTallyConfig_does (sub : ℕ) (v : Sys2Proof.Val) (s : State) : s.Does [.od, .recorder] (actTallyConfig sub v s).1 := by
  unfold actTallyConfig
  repeat' first
    | with_reducible exact Does.refl _ _
    | with_reducible assumption
    | decide
    | (extract_lets +onlyGivenNames w_
       first
         | (refine Does.keep w_ ?_ ?_
            on_goal 1 => (unfold w_; clear w_)
            on_goal 2 => first | (clear_value w_; intro _; revert w_; intro _ _) | (intro _; revert w_; intro _ _))
         | (have h_ : Recorder := w_; clear h_; subst w_)
         | (clear_value w_; revert w_; intro _) | (revert w_; intro _))
    | with_reducible apply Does.step (State.put_does ..)
    | exact Or.inr (by decide)
    | exact Or.inl rfl
    | exact fun h => ⟨h.mem, h.od, h.cams, h.time, h.pipe, h.tracker, h.drive, h.seqs, h.loops, h.thermal, h.backdrop, h.strand, h.dict, h.side, h.pins, h.dma, by first | exact ⟨h.recorder.1, h.recorder.2.1, h.recorder.2.2.1, h.recorder.2.2.2.1, h.recorder.2.2.2.2⟩ | simpa [Recorder.shaped] using h.recorder | (have hh := h.recorder; clear h; simp_all [Recorder.shaped])⟩
    | split
    | with_reducible apply Does.parts

theorem actExport_does (address : ℕ) (s : State) : s.Does [.dma, .recorder] (actExport address s).1 := by
  unfold actExport
  repeat' first
    | with_reducible exact Does.refl _ _
    | with_reducible assumption
    | decide
    | with_reducible refine Does.pair (by assumption) ?_
    | with_reducible refine Does.pairSnd (by assumption) ?_
    | with_reducible refine Does.foldl ?_ ?_
    | (extract_lets +onlyGivenNames w_
       first
         | (refine Does.keep w_ ?_ ?_
            on_goal 1 => (unfold w_; clear w_)
            on_goal 2 => first | (clear_value w_; intro _; revert w_; intro _ _) | (intro _; revert w_; intro _ _))
         | (refine Does.keep w_.1 ?_ ?_
            on_goal 1 => (unfold w_; clear w_)
            on_goal 2 => first | (clear_value w_; intro _; revert w_; intro _ _) | (intro _; revert w_; intro _ _))
         | (have h_ : Recorder := w_; clear h_; subst w_)
         | (clear_value w_; revert w_; intro _) | (revert w_; intro _))
    | split
    | with_reducible apply Does.step (State.fwStart_does ..)
    | exact Or.inr (by decide)
    | exact Or.inl rfl
    | exact fun h => ⟨h.mem, h.od, h.cams, h.time, h.pipe, h.tracker, h.drive, h.seqs, h.loops, h.thermal, h.backdrop, h.strand, h.dict, h.side, h.pins, h.dma, by first | exact ⟨h.recorder.1, h.recorder.2.1, h.recorder.2.2.1, h.recorder.2.2.2.1, h.recorder.2.2.2.2⟩ | simpa [Recorder.shaped] using h.recorder | (have hh := h.recorder; clear h; simp_all [Recorder.shaped])⟩
    | split
    | intro _
    | dsimp -zeta only
    | with_reducible apply Does.parts

theorem actSelectSlot_does (m : Sys2Proof.Master) (n : ℕ) (s : State) : s.Does [.recorder] (actSelectSlot m n s).1 := by
  unfold actSelectSlot
  repeat' first
    | with_reducible exact Does.refl _ _
    | decide
    | with_reducible apply Does.step (State.selectSlot_does ..)

end Sys2Proof.Machine
end

