-- ==== Sys2Proof/Laws/Strand.lean ====
section
/-!
SUPPORT. What the operations of Machine/Strand.lean do.
-/
set_option Elab.async false
set_option linter.all false

namespace Sys2Proof.Machine

theorem State.writeDma_does (s : State) (o : ℕ) (v : ℕ) : s.Does [.freeCtr, .out, .od, .mem, .backdrop, .strand, .side, .dma, .recorder] (State.writeDma s o v).1 := by
  unfold State.writeDma
  repeat' first
    | with_reducible exact Does.refl _ _
    | with_reducible assumption
    | decide
    | with_reducible refine Does.pair (by assumption) ?_
    | with_reducible refine Does.pairSnd (by assumption) ?_
    | with_reducible refine Does.foldl ?_ ?_
    | (extract_lets +onlyGivenNames w_
       first
         | (refine Does.keep w_ ?_ ?_
            on_goal 1 => (unfold w_; clear w_)
            on_goal 2 => first | (clear_value w_; intro _; revert w_; intro _ _) | (intro _; revert w_; intro _ _))
         | (refine Does.keep w_.1 ?_ ?_
            on_goal 1 => (unfold w_; clear w_)
            on_goal 2 => first | (clear_value w_; intro _; revert w_; intro _ _) | (intro _; revert w_; intro _ _))
         | (clear_value w_; revert w_; intro _) | (revert w_; intro _))
    | split
    | with_reducible apply Does.step (actChAppend_does ..)
    | with_reducible apply Does.step (actChStart_does ..)
    | with_reducible apply Does.step (State.settleFifo_does ..)
    | with_reducible apply Does.step (State.dmaAbortFree_does ..)
    | with_reducible apply Does.step (actChIrq_does ..)
    | with_reducible apply Does.step (actChNext_does ..)
    | split
    | intro _
    | dsimp -zeta only

theorem State.setMailbox_does (s : State) (m : ℕ) (x : Mailbox) : s.Does [.strand] (State.setMailbox s m x) := by
  unfold State.setMailbox
  repeat' first
    | with_reducible exact Does.refl _ _
    | exact Or.inr (by decide)
    | exact Or.inl rfl
    | exact fun h => ⟨h.mem, h.od, h.cams, h.time, h.pipe, h.tracker, h.drive, h.seqs, h.loops, h.thermal, h.backdrop, by first | exact ⟨h.strand.1, h.strand.2.1, h.strand.2.2⟩ | simpa [Strand.shaped] using h.strand | (have hh := h.strand; clear h; simp_all [Strand.shaped]), h.dict, h.side, h.pins, h.dma, h.recorder⟩
    | with_reducible apply Does.parts

theorem State.stageMessage_does (s : State) (d : List Sys2Proof.Byte) : s.Does [.out, .od, .backdrop, .strand, .side, .dma, .recorder, .update] (State.stageMessage s d) := by
  unfold State.stageMessage
  repeat' first
    | with_reducible exact Does.refl _ _
    | with_reducible assumption
    | decide
    | with_reducible refine Does.pair (by assumption) ?_
    | with_reducible refine Does.pairSnd (by assumption) ?_
    | with_reducible refine Does.foldl ?_ ?_
    | (extract_lets +onlyGivenNames w_
       first
         | (refine Does.keep w_ ?_ ?_
            on_goal 1 => (unfold w_; clear w_)
            on_goal 2 => first | (clear_value w_; intro _; revert w_; intro _ _) | (intro _; revert w_; intro _ _))
         | (refine Does.keep w_.1 ?_ ?_
            on_goal 1 => (unfold w_; clear w_)
            on_goal 2 => first | (clear_value w_; intro _; revert w_; intro _ _) | (intro _; revert w_; intro _ _))
         | (clear_value w_; revert w_; intro _) | (revert w_; intro _))
    | with_reducible apply Does.step (State.stageBytes_does ..)
    | with_reducible apply Does.step (State.abortTransfer_does ..)
    | with_reducible apply Does.step (State.fwRun_does ..)
    | exact Or.inr (by decide)
    | exact Or.inl rfl
    | exact fun h => ⟨h.mem, h.od, h.cams, h.time, h.pipe, h.tracker, h.drive, h.seqs, h.loops, h.thermal, h.backdrop, h.strand, h.dict, h.side, h.pins, h.dma, h.recorder⟩
    | split
    | intro _
    | dsimp -zeta only
    | with_reducible apply Does.parts

theorem actBell_does (m : ℕ) (s : State) : s.Does [.out, .od, .backdrop, .strand, .side, .dma, .recorder, .update] (actBell m s).1 := by
  unfold actBell
  repeat' first
    | with_reducible exact Does.refl _ _
    | with_reducible assumption
    | decide
    | with_reducible refine Does.pair (by assumption) ?_
    | with_reducible refine Does.pairSnd (by assumption) ?_
    | with_reducible refine Does.foldl ?_ ?_
    | (extract_lets +onlyGivenNames w_
       first
         | (refine Does.keep w_ ?_ ?_
            on_goal 1 => (unfold w_; clear w_)
            on_goal 2 => first | (clear_value w_; intro _; revert w_; intro _ _) | (intro _; revert w_; intro _ _))
         | (refine Does.keep w_.1 ?_ ?_
            on_goal 1 => (unfold w_; clear w_)
            on_goal 2 => first | (clear_value w_; intro _; revert w_; intro _ _) | (intro _; revert w_; intro _ _))
         | (clear_value w_; revert w_; intro _) | (revert w_; intro _))
    | split
    | with_reducible apply Does.step (State.stageMessage_does ..)
    | with_reducible apply Does.step (State.setMailbox_does ..)
    | split
    | intro _
    | dsimp -zeta only

theorem actStream_does (n : ℕ) (cfg : Bool) (value : ℕ) (s : State) : s.Does [.strand] (actStream n cfg value s).1 := by
  unfold actStream
  repeat' first
    | with_reducible exact Does.refl _ _
    | decide
    | (extract_lets +onlyGivenNames w_
       first
         | (clear_value w_; revert w_; intro _) | (revert w_; intro _))
    | with_reducible apply Does.step (State.setStream_does ..)
    | split

theorem State.writeStrand_does (s : State) (o : ℕ) (v : ℕ) : s.Does [.out, .od, .backdrop, .strand, .side, .dma, .recorder, .update] (State.writeStrand s o v).1 := by
  unfold State.writeStrand
  repeat' first
    | with_reducible exact Does.refl _ _
    | with_reducible assumption
    | decide
    | with_reducible refine Does.pair (by assumption) ?_
    | with_reducible refine Does.pairSnd (by assumption) ?_
    | with_reducible refine Does.foldl ?_ ?_
    | (extract_lets +onlyGivenNames w_
       first
         | (refine Does.keep w_ ?_ ?_
            on_goal 1 => (unfold w_; clear w_)
            on_goal 2 => first | (clear_value w_; intro _; revert w_; intro _ _) | (intro _; revert w_; intro _ _))
         | (refine Does.keep w_.1 ?_ ?_
            on_goal 1 => (unfold w_; clear w_)
            on_goal 2 => first | (clear_value w_; intro _; revert w_; intro _ _) | (intro _; revert w_; intro _ _))
         | (clear_value w_; revert w_; intro _) | (revert w_; intro _))
    | split
    | with_reducible apply Does.step (actBell_does ..)
    | with_reducible apply Does.step (actStream_does ..)
    | with_reducible apply Does.step (State.setMailbox_does ..)
    | split
    | intro _
    | dsimp -zeta only

theorem State.writeRegister_does (s : State) (a : ℕ) (v : ℕ) : s.Does [.freeCtr, .out, .od, .mem, .backdrop, .strand, .side, .dma, .recorder, .update] (State.writeRegister s a v).1 := by
  unfold State.writeRegister
  repeat' first
    | with_reducible exact Does.refl _ _
    | decide
    | with_reducible apply Does.step (State.writeStrand_does ..)
    | with_reducible apply Does.step (State.writeDma_does ..)
    | split

theorem State.train_does (s : State) (l : ℕ) : s.Does [.out, .od, .strand] (State.train s l) := by
  unfold State.train
  repeat' first
    | with_reducible exact Does.refl _ _
    | with_reducible assumption
    | decide
    | with_reducible refine Does.pair (by assumption) ?_
    | with_reducible refine Does.pairSnd (by assumption) ?_
    | with_reducible refine Does.foldl ?_ ?_
    | (extract_lets +onlyGivenNames w_
       first
         | (refine Does.keep w_ ?_ ?_
            on_goal 1 => (unfold w_; clear w_)
            on_goal 2 => first | (clear_value w_; intro _; revert w_; intro _ _) | (intro _; revert w_; intro _ _))
         | (refine Does.keep w_.1 ?_ ?_
            on_goal 1 => (unfold w_; clear w_)
            on_goal 2 => first | (clear_value w_; intro _; revert w_; intro _ _) | (intro _; revert w_; intro _ _))
         | (clear_value w_; revert w_; intro _) | (revert w_; intro _))
    | with_reducible apply Does.step (State.sendHello_does ..)
    | with_reducible apply Does.step (State.setLink_does ..)
    | split
    | intro _
    | dsimp -zeta only

theorem State.writeRegisters_does (a0 : ℕ) (a1 : State) (a2 : ℕ) (a3 : List Sys2Proof.Byte) : a1.Does [.freeCtr, .out, .od, .mem, .backdrop, .strand, .side, .dma, .recorder, .update] (State.writeRegisters a0 a1 a2 a3).1 := by
  induction a0 generalizing a1 a2 a3
  all_goals unfold State.writeRegisters
  · exact Does.refl _ _
  rename_i ih
  repeat' first
    | with_reducible exact Does.refl _ _
    | decide
    | with_reducible refine Does.pair (by assumption) ?_
    | with_reducible refine Does.step (ih ..) ?_ ?_
    | with_reducible apply Does.step (State.writeRegister_does ..)
    | split

theorem State.registerWrite_does (s : State) (a : ℕ) (d : List Sys2Proof.Byte) : s.Does [.freeCtr, .out, .od, .mem, .backdrop, .strand, .side, .dma, .recorder, .update] (State.registerWrite s a d).1 := by
  unfold State.registerWrite
  repeat' first
    | with_reducible exact Does.refl _ _
    | with_reducible assumption
    | decide
    | with_reducible refine Does.pair (by assumption) ?_
    | with_reducible refine Does.pairSnd (by assumption) ?_
    | with_reducible refine Does.foldl ?_ ?_
    | (extract_lets +onlyGivenNames w_
       first
         | (refine Does.keep w_ ?_ ?_
            on_goal 1 => (unfold w_; clear w_)
            on_goal 2 => first | (clear_value w_; intro _; revert w_; intro _ _) | (intro _; revert w_; intro _ _))
         | (refine Does.keep w_.1 ?_ ?_
            on_goal 1 => (unfold w_; clear w_)
            on_goal 2 => first | (clear_value w_; intro _; revert w_; intro _ _) | (intro _; revert w_; intro _ _))
         | (clear_value w_; revert w_; intro _) | (revert w_; intro _))
    | split
    | with_reducible apply Does.step (State.writeRegisters_does ..)
    | split
    | intro _
    | dsimp -zeta only

theorem State.windowWrite_does (s : State) (a : ℕ) (d : List Sys2Proof.Byte) : s.Does [.freeCtr, .out, .od, .mem, .backdrop, .strand, .side, .dma, .recorder, .update] (State.windowWrite s a d).1 := by
  unfold State.windowWrite
  repeat' first
    | with_reducible exact Does.refl _ _
    | with_reducible assumption
    | decide
    | with_reducible refine Does.pair (by assumption) ?_
    | with_reducible refine Does.pairSnd (by assumption) ?_
    | with_reducible refine Does.foldl ?_ ?_
    | (extract_lets +onlyGivenNames w_
       first
         | (refine Does.keep w_ ?_ ?_
            on_goal 1 => (unfold w_; clear w_)
            on_goal 2 => first | (clear_value w_; intro _; revert w_; intro _ _) | (intro _; revert w_; intro _ _))
         | (refine Does.keep w_.1 ?_ ?_
            on_goal 1 => (unfold w_; clear w_)
            on_goal 2 => first | (clear_value w_; intro _; revert w_; intro _ _) | (intro _; revert w_; intro _ _))
         | (clear_value w_; revert w_; intro _) | (revert w_; intro _))
    | split
    | with_reducible apply Does.step (State.registerWrite_does ..)
    | with_reducible apply Does.step (State.memWrite_does ..)
    | split
    | intro _
    | dsimp -zeta only

theorem State.returnCredits_does (s : State) (l : ℕ) (f : Sys2Proof.Frame) : s.Does [.out] (State.returnCredits s l f) := by
  unfold State.returnCredits
  repeat' first
    | with_reducible exact Does.refl _ _
    | decide
    | with_reducible apply Does.step (State.emit_does ..)

theorem State.endConflict_does (s : State) (r : Sys2Proof.Topo) : s.Does [.out, .od, .strand] (State.endConflict s r) := by
  unfold State.endConflict
  repeat' first
    | with_reducible exact Does.refl _ _
    | with_reducible assumption
    | decide
    | with_reducible refine Does.pair (by assumption) ?_
    | with_reducible refine Does.pairSnd (by assumption) ?_
    | with_reducible refine Does.foldl ?_ ?_
    | (extract_lets +onlyGivenNames w_
       first
         | (refine Does.keep w_ ?_ ?_
            on_goal 1 => (unfold w_; clear w_)
            on_goal 2 => first | (clear_value w_; intro _; revert w_; intro _ _) | (intro _; revert w_; intro _ _))
         | (refine Does.keep w_.1 ?_ ?_
            on_goal 1 => (unfold w_; clear w_)
            on_goal 2 => first | (clear_value w_; intro _; revert w_; intro _ _) | (intro _; revert w_; intro _ _))
         | (have h_ : Strand := w_; clear h_; subst w_)
         | (clear_value w_; revert w_; intro _) | (revert w_; intro _))
    | with_reducible apply Does.step (State.refreshTopo_does ..)
    | exact Or.inr (by decide)
    | exact Or.inl rfl
    | exact fun h => ⟨h.mem, h.od, h.cams, h.time, h.pipe, h.tracker, h.drive, h.seqs, h.loops, h.thermal, h.backdrop, by first | exact ⟨h.strand.1, h.strand.2.1, h.strand.2.2⟩ | simpa [Strand.shaped] using h.strand | (have hh := h.strand; clear h; simp_all [Strand.shaped]), h.dict, h.side, h.pins, h.dma, h.recorder⟩
    | split
    | intro _
    | dsimp -zeta only
    | with_reducible apply Does.parts

theorem State.noteConflict_does (s : State) (r : Sys2Proof.Topo) : s.Does [.out, .od, .backdrop, .strand, .side, .recorder] (State.noteConflict s r) := by
  unfold State.noteConflict
  repeat' first
    | with_reducible exact Does.refl _ _
    | decide
    | with_reducible apply Does.step (State.raise_does ..)
    | with_reducible apply Does.step (State.refreshTopo_does ..)
    | exact Or.inr (by decide)
    | exact Or.inl rfl
    | exact fun h => ⟨h.mem, h.od, h.cams, h.time, h.pipe, h.tracker, h.drive, h.seqs, h.loops, h.thermal, h.backdrop, by first | exact ⟨h.strand.1, h.strand.2.1, h.strand.2.2⟩ | simpa [Strand.shaped] using h.strand | (have hh := h.strand; clear h; simp_all [Strand.shaped]), h.dict, h.side, h.pins, h.dma, h.recorder⟩
    | split
    | with_reducible apply Does.parts

theorem State.noteLost_does (before : State) (s : State) : s.Does [.out, .od, .pipe, .tracker, .backdrop, .strand, .side, .recorder] (State.noteLost before s) := by
  unfold State.noteLost
  repeat' first
    | with_reducible exact Does.refl _ _
    | decide
    | with_reducible refine Does.foldl ?_ ?_
    | with_reducible apply Does.step (State.ferryTargetLost_does ..)
    | intro _

theorem State.dropLink_does (s : State) (l : ℕ) : s.Does [.out, .od, .pipe, .tracker, .backdrop, .strand, .side, .recorder] (State.dropLink s l) := by
  unfold State.dropLink
  repeat' first
    | with_reducible exact Does.refl _ _
    | decide
    | with_reducible apply Does.step (State.linkDown_does ..)
    | with_reducible apply Does.step (State.noteLost_does ..)

theorem State.ack_does (s : State) (l : ℕ) (nak : Bool) : s.Does [.out] (State.ack s l nak) := by
  unfold State.ack
  repeat' first
    | with_reducible exact Does.refl _ _
    | decide
    | with_reducible apply Does.step (State.emit_does ..)

theorem State.nakFrame_does (s : State) (l : ℕ) : s.Does [.out, .strand] (State.nakFrame s l) := by
  unfold State.nakFrame
  repeat' first
    | with_reducible exact Does.refl _ _
    | decide
    | with_reducible apply Does.step (State.ack_does ..)
    | with_reducible apply Does.step (State.setLink_does ..)
    | split

theorem State.acceptFrame_does (s : State) (l : ℕ) (f : Sys2Proof.Frame) : s.Does [.out, .od, .strand] (State.acceptFrame s l f) := by
  unfold State.acceptFrame
  repeat' first
    | with_reducible exact Does.refl _ _
    | with_reducible assumption
    | decide
    | with_reducible apply Does.step (State.bump_does ..)
    | with_reducible apply Does.step (State.returnCredits_does ..)
    | exact Or.inr (by decide)
    | exact Or.inl rfl
    | exact fun h => ⟨h.mem, h.od, h.cams, h.time, h.pipe, h.tracker, h.drive, h.seqs, h.loops, h.thermal, h.backdrop, by first | exact ⟨h.strand.1, h.strand.2.1, h.strand.2.2⟩ | simpa [Strand.shaped] using h.strand | (have hh := h.strand; clear h; simp_all [Strand.shaped]), h.dict, h.side, h.pins, h.dma, h.recorder⟩
    | split
    | with_reducible apply Does.parts

theorem State.sendReadData_does (a0 : ℕ) (a1 : State) (a2 : ℕ) (a3 : ℕ) (a4 : ℕ) (a5 : List Sys2Proof.Byte) : a1.Does [.out, .od, .strand, .recorder] (State.sendReadData a0 a1 a2 a3 a4 a5) := by
  induction a0 generalizing a1 a2 a3 a4 a5
  all_goals unfold State.sendReadData
  · exact Does.refl _ _
  rename_i ih
  repeat' first
    | with_reducible exact Does.refl _ _
    | with_reducible assumption
    | decide
    | with_reducible refine Does.pair (by assumption) ?_
    | with_reducible refine Does.pairSnd (by assumption) ?_
    | with_reducible refine Does.foldl ?_ ?_
    | (extract_lets +onlyGivenNames w_
       first
         | (refine Does.keep w_ ?_ ?_
            on_goal 1 => (unfold w_; clear w_)
            on_goal 2 => first | (clear_value w_; intro _; revert w_; intro _ _) | (intro _; revert w_; intro _ _))
         | (refine Does.keep w_.1 ?_ ?_
            on_goal 1 => (unfold w_; clear w_)
            on_goal 2 => first | (clear_value w_; intro _; revert w_; intro _ _) | (intro _; revert w_; intro _ _))
         | (clear_value w_; revert w_; intro _) | (revert w_; intro _))
    | with_reducible refine Does.step (ih ..) ?_ ?_
    | with_reducible apply Does.step (State.post_does ..)
    | split
    | intro _
    | dsimp -zeta only

theorem State.cutCopy_does (s : State) (f : Sys2Proof.Frame) : s.Does [.out, .od, .strand] (State.cutCopy s f) := by
  unfold State.cutCopy
  repeat' first
    | with_reducible exact Does.refl _ _
    | with_reducible assumption
    | decide
    | with_reducible refine Does.pair (by assumption) ?_
    | with_reducible refine Does.pairSnd (by assumption) ?_
    | with_reducible refine Does.foldl ?_ ?_
    | (extract_lets +onlyGivenNames w_
       first
         | (refine Does.keep w_ ?_ ?_
            on_goal 1 => (unfold w_; clear w_)
            on_goal 2 => first | (clear_value w_; intro _; revert w_; intro _ _) | (intro _; revert w_; intro _ _))
         | (refine Does.keep w_.1 ?_ ?_
            on_goal 1 => (unfold w_; clear w_)
            on_goal 2 => first | (clear_value w_; intro _; revert w_; intro _ _) | (intro _; revert w_; intro _ _))
         | (clear_value w_; revert w_; intro _) | (revert w_; intro _))
    | with_reducible apply Does.step (State.routeOut_does ..)
    | split
    | intro _
    | dsimp -zeta only

theorem State.helloEnter_does (s : State) (l : ℕ) (h : Sys2Proof.Hello) : s.Does [.out, .od, .backdrop, .strand, .side, .recorder] (State.helloEnter s l h) := by
  unfold State.helloEnter
  repeat' first
    | with_reducible exact Does.refl _ _
    | with_reducible assumption
    | decide
    | with_reducible refine Does.pair (by assumption) ?_
    | with_reducible refine Does.pairSnd (by assumption) ?_
    | with_reducible refine Does.foldl ?_ ?_
    | (extract_lets +onlyGivenNames w_
       first
         | (refine Does.keep w_ ?_ ?_
            on_goal 1 => (unfold w_; clear w_)
            on_goal 2 => first | (clear_value w_; intro _; revert w_; intro _ _) | (intro _; revert w_; intro _ _))
         | (refine Does.keep w_.1 ?_ ?_
            on_goal 1 => (unfold w_; clear w_)
            on_goal 2 => first | (clear_value w_; intro _; revert w_; intro _ _) | (intro _; revert w_; intro _ _))
         | (clear_value w_; revert w_; intro _) | (revert w_; intro _))
    | with_reducible apply Does.step (State.learnId_does ..)
    | with_reducible apply Does.step (State.raise_does ..)
    | with_reducible apply Does.step (State.refreshTopo_does ..)
    | with_reducible apply Does.step (State.sendHello_does ..)
    | with_reducible apply Does.step (State.setLink_does ..)
    | split
    | intro _
    | dsimp -zeta only

end Sys2Proof.Machine
end

