-- ==== Sys2Proof/Laws/Time.lean ====
section
/-!
SUPPORT. What the operations of Machine/Time.lean do.
-/
set_option Elab.async false
set_option linter.all false

namespace Sys2Proof.Machine

theorem State.setTime_does (s : State) (t : TimeSt) (ht : s.time.shaped → t.shaped) : s.Does [.time] (s.setTime t) :=
  Does.time t ht

theorem State.setTime_step {ps : List Part} {s u : State} {t : TimeSt} (ht : u.time.shaped → t.shaped) (hp : Part.time ∈ ps)
    (g : s.Does ps u) : s.Does ps (u.setTime t) := Does.trans g (Does.mono (Does.time t ht) (by simpa using hp))

theorem State.restartSyncOut_does (s : State) : s.Does [.time] (State.restartSyncOut s) := by
  unfold State.restartSyncOut
  repeat' first
    | with_reducible exact Does.refl _ _
    | decide
    | with_reducible apply State.setTime_step
    | exact fun h => ⟨by simpa using h.1, by simpa using h.2.1, by simpa using h.2.2⟩

theorem State.enterTime_does (s : State) (st : TimeState) : s.Does [.out, .time, .cams] (State.enterTime s st) := by
  unfold State.enterTime
  repeat' first
    | with_reducible exact Does.refl _ _
    | with_reducible assumption
    | decide
    | with_reducible refine Does.pair (by assumption) ?_
    | with_reducible refine Does.pairSnd (by assumption) ?_
    | with_reducible refine Does.foldl ?_ ?_
    | (extract_lets +onlyGivenNames w_
       first
         | (refine Does.keep w_ ?_ ?_
            on_goal 1 => (unfold w_; clear w_)
            on_goal 2 => first | (clear_value w_; intro _; revert w_; intro _ _) | (intro _; revert w_; intro _ _))
         | (refine Does.keep w_.1 ?_ ?_
            on_goal 1 => (unfold w_; clear w_)
            on_goal 2 => first | (clear_value w_; intro _; revert w_; intro _ _) | (intro _; revert w_; intro _ _))
         | (have h_ : TimeSt := w_; clear h_; subst w_)
         | (clear_value w_; revert w_; intro _) | (revert w_; intro _))
    | with_reducible apply Does.step (State.settleSyncOut_does ..)
    | with_reducible apply State.setTime_step
    | exact fun h => ⟨h.1, h.2.1, h.2.2⟩
    | exact fun h => ⟨by simpa using h.1, by simpa using h.2.1, by simpa using h.2.2⟩
    | split
    | intro _
    | dsimp -zeta only

theorem State.unlock_does (s : State) : s.Does [.out, .od, .time, .cams, .backdrop, .strand, .side, .recorder] (State.unlock s) := by
  unfold State.unlock
  repeat' first
    | with_reducible exact Does.refl _ _
    | with_reducible assumption
    | decide
    | with_reducible refine Does.pair (by assumption) ?_
    | with_reducible refine Does.pairSnd (by assumption) ?_
    | with_reducible refine Does.foldl ?_ ?_
    | (extract_lets +onlyGivenNames w_
       first
         | (refine Does.keep w_ ?_ ?_
            on_goal 1 => (unfold w_; clear w_)
            on_goal 2 => first | (clear_value w_; intro _; revert w_; intro _ _) | (intro _; revert w_; intro _ _))
         | (refine Does.keep w_.1 ?_ ?_
            on_goal 1 => (unfold w_; clear w_)
            on_goal 2 => first | (clear_value w_; intro _; revert w_; intro _ _) | (intro _; revert w_; intro _ _))
         | (have h_ : TimeSt := w_; clear h_; subst w_)
         | (clear_value w_; revert w_; intro _) | (revert w_; intro _))
    | with_reducible apply Does.step (State.raise_does ..)
    | with_reducible apply Does.step (State.enterTime_does ..)
    | with_reducible apply Does.step (State.bump_does ..)
    | with_reducible apply State.setTime_step
    | exact fun h => ⟨h.1, h.2.1, h.2.2⟩
    | exact fun h => ⟨by simpa using h.1, by simpa using h.2.1, by simpa using h.2.2⟩
    | split
    | intro _
    | dsimp -zeta only

theorem State.pickUpstream_does (s : State) : s.Does [.time] (State.pickUpstream s) := by
  unfold State.pickUpstream
  repeat' first
    | with_reducible exact Does.refl _ _
    | decide
    | with_reducible apply State.setTime_step
    | exact fun h => ⟨by simpa using h.1, by simpa using h.2.1, by simpa using h.2.2⟩
    | split

theorem State.shiftShots_does (s : State) (d : ℤ) : s.Does [.drive, .seqs] (State.shiftShots s d) := by
  unfold State.shiftShots
  repeat' first
    | with_reducible exact Does.refl _ _
    | with_reducible assumption
    | decide
    | with_reducible refine Does.pair (by assumption) ?_
    | with_reducible refine Does.pairSnd (by assumption) ?_
    | with_reducible refine Does.foldl ?_ ?_
    | (extract_lets +onlyGivenNames w_
       first
         | (refine Does.keep w_ ?_ ?_
            on_goal 1 => (unfold w_; clear w_)
            on_goal 2 => first | (clear_value w_; intro _; revert w_; intro _ _) | (intro _; revert w_; intro _ _))
         | (refine Does.keep w_.1 ?_ ?_
            on_goal 1 => (unfold w_; clear w_)
            on_goal 2 => first | (clear_value w_; intro _; revert w_; intro _ _) | (intro _; revert w_; intro _ _))
         | (have h_ : Drive := w_; clear h_; subst w_)
         | (have h_ : Sequencers := w_; clear h_; subst w_)
         | (clear_value w_; revert w_; intro _) | (revert w_; intro _))
    | exact Or.inr (by decide)
    | exact Or.inl rfl
    | exact fun h => ⟨h.mem, h.od, h.cams, h.time, h.pipe, h.tracker, by first | exact ⟨h.drive.1, h.drive.2⟩ | simpa [Drive.shaped] using h.drive | (have hh := h.drive; clear h; simp_all [Drive.shaped]), by first | exact ⟨h.seqs.1, h.seqs.2⟩ | simpa [Sequencers.shaped] using h.seqs | (have hh := h.seqs; clear h; simp_all [Sequencers.shaped]), h.loops, h.thermal, h.backdrop, h.strand, h.dict, h.side, h.pins, h.dma, h.recorder⟩
    | split
    | intro _
    | dsimp -zeta only
    | with_reducible apply Does.parts

theorem State.nameGrandmaster_does (s : State) (id : ℕ) : s.Does [.out, .od, .time, .backdrop, .strand, .side, .recorder] (State.nameGrandmaster s id) := by
  unfold State.nameGrandmaster
  repeat' first
    | with_reducible exact Does.refl _ _
    | with_reducible assumption
    | decide
    | (extract_lets +onlyGivenNames w_
       first
         | (refine Does.keep w_ ?_ ?_
            on_goal 1 => (unfold w_; clear w_)
            on_goal 2 => first | (clear_value w_; intro _; revert w_; intro _ _) | (intro _; revert w_; intro _ _))
         | (have h_ : TimeSt := w_; clear h_; subst w_)
         | (clear_value w_; revert w_; intro _) | (revert w_; intro _))
    | with_reducible apply Does.step (State.raise_does ..)
    | with_reducible apply Does.step (State.bump_does ..)
    | with_reducible apply State.setTime_step
    | exact fun h => ⟨by simpa using h.1, by simpa using h.2.1, by simpa using h.2.2⟩
    | split

theorem State.becomeGrandmaster_does (s : State) : s.Does [.out, .od, .time, .cams, .backdrop, .strand, .side, .recorder] (State.becomeGrandmaster s) := by
  unfold State.becomeGrandmaster
  repeat' first
    | with_reducible exact Does.refl _ _
    | with_reducible assumption
    | decide
    | with_reducible refine Does.pair (by assumption) ?_
    | with_reducible refine Does.pairSnd (by assumption) ?_
    | with_reducible refine Does.foldl ?_ ?_
    | (extract_lets +onlyGivenNames w_
       first
         | (refine Does.keep w_ ?_ ?_
            on_goal 1 => (unfold w_; clear w_)
            on_goal 2 => first | (clear_value w_; intro _; revert w_; intro _ _) | (intro _; revert w_; intro _ _))
         | (refine Does.keep w_.1 ?_ ?_
            on_goal 1 => (unfold w_; clear w_)
            on_goal 2 => first | (clear_value w_; intro _; revert w_; intro _ _) | (intro _; revert w_; intro _ _))
         | (have h_ : TimeSt := w_; clear h_; subst w_)
         | (clear_value w_; revert w_; intro _) | (revert w_; intro _))
    | with_reducible apply Does.step (State.nameGrandmaster_does ..)
    | with_reducible apply Does.step (State.enterTime_does ..)
    | with_reducible apply State.setTime_step
    | exact fun h => ⟨h.1, h.2.1, h.2.2⟩
    | exact fun h => ⟨by simpa using h.1, by simpa using h.2.1, by simpa using h.2.2⟩
    | split
    | intro _
    | dsimp -zeta only

theorem State.lock_does (s : State) : s.Does [.out, .od, .time, .cams, .backdrop, .strand, .side, .recorder] (State.lock s) := by
  unfold State.lock
  repeat' first
    | with_reducible exact Does.refl _ _
    | with_reducible assumption
    | decide
    | with_reducible refine Does.pair (by assumption) ?_
    | with_reducible refine Does.pairSnd (by assumption) ?_
    | with_reducible refine Does.foldl ?_ ?_
    | (extract_lets +onlyGivenNames w_
       first
         | (refine Does.keep w_ ?_ ?_
            on_goal 1 => (unfold w_; clear w_)
            on_goal 2 => first | (clear_value w_; intro _; revert w_; intro _ _) | (intro _; revert w_; intro _ _))
         | (refine Does.keep w_.1 ?_ ?_
            on_goal 1 => (unfold w_; clear w_)
            on_goal 2 => first | (clear_value w_; intro _; revert w_; intro _ _) | (intro _; revert w_; intro _ _))
         | (clear_value w_; revert w_; intro _) | (revert w_; intro _))
    | with_reducible apply Does.step (State.raise_does ..)
    | with_reducible apply Does.step (State.enterTime_does ..)
    | split
    | intro _
    | dsimp -zeta only

theorem actSyncOutMode_does (v : ℕ) (s : State) : s.Does [.out, .od, .time, .cams] (actSyncOutMode v s).1 := by
  unfold actSyncOutMode
  repeat' first
    | with_reducible exact Does.refl _ _
    | with_reducible assumption
    | decide
    | with_reducible refine Does.pair (by assumption) ?_
    | with_reducible refine Does.pairSnd (by assumption) ?_
    | with_reducible refine Does.foldl ?_ ?_
    | (extract_lets +onlyGivenNames w_
       first
         | (refine Does.keep w_ ?_ ?_
            on_goal 1 => (unfold w_; clear w_)
            on_goal 2 => first | (clear_value w_; intro _; revert w_; intro _ _) | (intro _; revert w_; intro _ _))
         | (refine Does.keep w_.1 ?_ ?_
            on_goal 1 => (unfold w_; clear w_)
            on_goal 2 => first | (clear_value w_; intro _; revert w_; intro _ _) | (intro _; revert w_; intro _ _))
         | (clear_value w_; revert w_; intro _) | (revert w_; intro _))
    | split
    | with_reducible apply Does.step (State.settleSyncOut_does ..)
    | with_reducible apply Does.step (State.putNat_does ..)
    | with_reducible apply Does.step (State.restartSyncOut_does ..)
    | split
    | intro _
    | dsimp -zeta only

theorem State.sendTime_does (s : State) (type : ℕ) (except : Option ℕ) (words : ℕ → List ℕ) : s.Does [.out, .od, .strand] (State.sendTime s type except words) := by
  unfold State.sendTime
  repeat' first
    | with_reducible exact Does.refl _ _
    | decide
    | with_reducible refine Does.foldl ?_ ?_
    | with_reducible apply Does.step (State.sendLocal_does ..)
    | split
    | intro _

theorem State.enterSlack_does (s : State) : s.Does [.out, .od, .time, .cams, .backdrop, .strand, .side, .recorder] (State.enterSlack s) := by
  unfold State.enterSlack
  repeat' first
    | with_reducible exact Does.refl _ _
    | with_reducible assumption
    | decide
    | with_reducible refine Does.pair (by assumption) ?_
    | with_reducible refine Does.pairSnd (by assumption) ?_
    | with_reducible refine Does.foldl ?_ ?_
    | (extract_lets +onlyGivenNames w_
       first
         | (refine Does.keep w_ ?_ ?_
            on_goal 1 => (unfold w_; clear w_)
            on_goal 2 => first | (clear_value w_; intro _; revert w_; intro _ _) | (intro _; revert w_; intro _ _))
         | (refine Does.keep w_.1 ?_ ?_
            on_goal 1 => (unfold w_; clear w_)
            on_goal 2 => first | (clear_value w_; intro _; revert w_; intro _ _) | (intro _; revert w_; intro _ _))
         | (have h_ : TimeSt := w_; clear h_; subst w_)
         | (clear_value w_; revert w_; intro _) | (revert w_; intro _))
    | with_reducible apply Does.step (State.raise_does ..)
    | with_reducible apply Does.step (State.enterTime_does ..)
    | with_reducible apply Does.step (State.bump_does ..)
    | with_reducible apply State.setTime_step
    | exact fun h => ⟨h.1, h.2.1, h.2.2⟩
    | exact fun h => ⟨by simpa using h.1, by simpa using h.2.1, by simpa using h.2.2⟩
    | split
    | intro _
    | dsimp -zeta only

theorem State.learnWord_does (s : State) : s.Does [.time] (State.learnWord s) := by
  unfold State.learnWord
  repeat' first
    | with_reducible exact Does.refl _ _
    | decide
    | with_reducible apply State.setTime_step
    | exact fun h => ⟨by simpa using h.1, by simpa using h.2.1, by simpa using h.2.2⟩
    | split

theorem State.sendAnnounce_does (s : State) : s.Does [.out, .od, .strand] (State.sendAnnounce s) := by
  unfold State.sendAnnounce
  repeat' first
    | with_reducible exact Does.refl _ _
    | decide
    | with_reducible apply Does.step (State.sendTime_does ..)
    | split

theorem State.sendSync_does (s : State) : s.Does [.out, .od, .time, .strand] (State.sendSync s) := by
  unfold State.sendSync
  repeat' first
    | with_reducible exact Does.refl _ _
    | with_reducible assumption
    | decide
    | with_reducible apply Does.step (State.sendTime_does ..)
    | with_reducible apply State.setTime_step
    | exact fun h => ⟨by simpa using h.1, by simpa using h.2.1, by simpa using h.2.2⟩
    | split

theorem State.followGrandmaster_does (s : State) (id : ℕ) : s.Does [.out, .od, .time, .cams, .backdrop, .strand, .side, .recorder] (State.followGrandmaster s id) := by
  unfold State.followGrandmaster
  repeat' first
    | with_reducible exact Does.refl _ _
    | with_reducible assumption
    | decide
    | with_reducible refine Does.pair (by assumption) ?_
    | with_reducible refine Does.pairSnd (by assumption) ?_
    | with_reducible refine Does.foldl ?_ ?_
    | (extract_lets +onlyGivenNames w_
       first
         | (refine Does.keep w_ ?_ ?_
            on_goal 1 => (unfold w_; clear w_)
            on_goal 2 => first | (clear_value w_; intro _; revert w_; intro _ _) | (intro _; revert w_; intro _ _))
         | (refine Does.keep w_.1 ?_ ?_
            on_goal 1 => (unfold w_; clear w_)
            on_goal 2 => first | (clear_value w_; intro _; revert w_; intro _ _) | (intro _; revert w_; intro _ _))
         | (have h_ : TimeSt := w_; clear h_; subst w_)
         | (clear_value w_; revert w_; intro _) | (revert w_; intro _))
    | with_reducible apply Does.step (State.nameGrandmaster_does ..)
    | with_reducible apply Does.step (State.enterTime_does ..)
    | with_reducible apply State.setTime_step
    | exact fun h => ⟨h.1, h.2.1, h.2.2⟩
    | exact fun h => ⟨by simpa using h.1, by simpa using h.2.1, by simpa using h.2.2⟩
    | split
    | intro _
    | dsimp -zeta only

theorem State.claimRole_does (s : State) : s.Does [.out, .od, .time, .cams, .backdrop, .strand, .side, .recorder] (State.claimRole s) := by
  unfold State.claimRole
  repeat' first
    | with_reducible exact Does.refl _ _
    | with_reducible assumption
    | decide
    | with_reducible refine Does.pair (by assumption) ?_
    | with_reducible refine Does.pairSnd (by assumption) ?_
    | with_reducible refine Does.foldl ?_ ?_
    | (extract_lets +onlyGivenNames w_
       first
         | (refine Does.keep w_ ?_ ?_
            on_goal 1 => (unfold w_; clear w_)
            on_goal 2 => first | (clear_value w_; intro _; revert w_; intro _ _) | (intro _; revert w_; intro _ _))
         | (refine Does.keep w_.1 ?_ ?_
            on_goal 1 => (unfold w_; clear w_)
            on_goal 2 => first | (clear_value w_; intro _; revert w_; intro _ _) | (intro _; revert w_; intro _ _))
         | (clear_value w_; revert w_; intro _) | (revert w_; intro _))
    | with_reducible apply Does.step (State.becomeGrandmaster_does ..)
    | with_reducible apply Does.step (State.sendAnnounce_does ..)
    | split
    | intro _
    | dsimp -zeta only

theorem State.runElection_does (s : State) : s.Does [.out, .od, .time, .cams, .backdrop, .strand, .side, .recorder] (State.runElection s) := by
  unfold State.runElection
  repeat' first
    | with_reducible exact Does.refl _ _
    | with_reducible assumption
    | decide
    | with_reducible refine Does.pair (by assumption) ?_
    | with_reducible refine Does.pairSnd (by assumption) ?_
    | with_reducible refine Does.foldl ?_ ?_
    | (extract_lets +onlyGivenNames w_
       first
         | (refine Does.keep w_ ?_ ?_
            on_goal 1 => (unfold w_; clear w_)
            on_goal 2 => first | (clear_value w_; intro _; revert w_; intro _ _) | (intro _; revert w_; intro _ _))
         | (refine Does.keep w_.1 ?_ ?_
            on_goal 1 => (unfold w_; clear w_)
            on_goal 2 => first | (clear_value w_; intro _; revert w_; intro _ _) | (intro _; revert w_; intro _ _))
         | (have h_ : TimeSt := w_; clear h_; subst w_)
         | (clear_value w_; revert w_; intro _) | (revert w_; intro _))
    | with_reducible apply Does.step (State.becomeGrandmaster_does ..)
    | with_reducible apply Does.step (State.sendAnnounce_does ..)
    | with_reducible apply State.setTime_step
    | exact fun h => ⟨h.1, h.2.1, h.2.2⟩
    | exact fun h => ⟨by simpa using h.1, by simpa using h.2.1, by simpa using h.2.2⟩
    | split
    | intro _
    | dsimp -zeta only

theorem State.stepCounter_does (s : State) (by_ : ℤ) : s.Does [.out, .od, .mem, .time, .cams, .pipe, .tracker, .drive, .seqs, .ledger, .loops, .backdrop, .strand, .side, .recorder] (State.stepCounter s by_) := by
  unfold State.stepCounter
  repeat' first
    | with_reducible exact Does.refl _ _
    | with_reducible assumption
    | decide
    | with_reducible refine Does.pair (by assumption) ?_
    | with_reducible refine Does.pairSnd (by assumption) ?_
    | with_reducible refine Does.foldl ?_ ?_
    | (extract_lets +onlyGivenNames w_
       first
         | (refine Does.keep w_ ?_ ?_
            on_goal 1 => (unfold w_; clear w_)
            on_goal 2 => first | (clear_value w_; intro _; revert w_; intro _ _) | (intro _; revert w_; intro _ _))
         | (refine Does.keep w_.1 ?_ ?_
            on_goal 1 => (unfold w_; clear w_)
            on_goal 2 => first | (clear_value w_; intro _; revert w_; intro _ _) | (intro _; revert w_; intro _ _))
         | (have h_ : TimeSt := w_; clear h_; subst w_)
         | (clear_value w_; revert w_; intro _) | (revert w_; intro _))
    | with_reducible apply Does.step (State.camerasBeforeStep_does ..)
    | with_reducible apply Does.step (State.raise_does ..)
    | with_reducible apply Does.step (State.bump_does ..)
    | with_reducible apply Does.step (State.loopsAfterStep_does ..)
    | with_reducible apply Does.step (State.camerasAfterStep_does ..)
    | with_reducible apply Does.step (State.restartSyncOut_does ..)
    | with_reducible apply Does.step (State.shiftShots_does ..)
    | with_reducible apply State.setTime_step
    | exact fun h => ⟨h.1, h.2.1, h.2.2⟩
    | exact fun h => ⟨by simpa using h.1, by simpa using h.2.1, by simpa using h.2.2⟩
    | split
    | intro _
    | dsimp -zeta only

theorem State.servo_does (s : State) : s.Does [.freeCtr, .time] (State.servo s) := by
  unfold State.servo
  repeat' first
    | with_reducible exact Does.refl _ _
    | decide
    | with_reducible apply Does.step (State.draw_does ..)
    | with_reducible apply State.setTime_step
    | exact fun h => ⟨by simpa using h.1, by simpa using h.2.1, by simpa using h.2.2⟩

theorem State.steer_does (s : State) (offset : ℚ) : s.Does [.freeCtr, .time] (State.steer s offset) := by
  unfold State.steer
  repeat' first
    | with_reducible exact Does.refl _ _
    | decide
    | with_reducible apply Does.step (State.servo_does ..)
    | with_reducible apply State.setTime_step
    | exact fun h => ⟨by simpa using h.1, by simpa using h.2.1, by simpa using h.2.2⟩
    | split

theorem State.takeExchange_does (s : State) (offset : ℚ) : s.Does [.freeCtr, .out, .od, .mem, .time, .cams, .pipe, .tracker, .drive, .seqs, .ledger, .loops, .backdrop, .strand, .side, .recorder] (State.takeExchange s offset) := by
  unfold State.takeExchange
  repeat' first
    | with_reducible exact Does.refl _ _
    | with_reducible assumption
    | decide
    | with_reducible refine Does.pair (by assumption) ?_
    | with_reducible refine Does.pairSnd (by assumption) ?_
    | with_reducible refine Does.foldl ?_ ?_
    | (extract_lets +onlyGivenNames w_
       first
         | (refine Does.keep w_ ?_ ?_
            on_goal 1 => (unfold w_; clear w_)
            on_goal 2 => first | (clear_value w_; intro _; revert w_; intro _ _) | (intro _; revert w_; intro _ _))
         | (refine Does.keep w_.1 ?_ ?_
            on_goal 1 => (unfold w_; clear w_)
            on_goal 2 => first | (clear_value w_; intro _; revert w_; intro _ _) | (intro _; revert w_; intro _ _))
         | (have h_ : TimeSt := w_; clear h_; subst w_)
         | (clear_value w_; revert w_; intro _) | (revert w_; intro _))
    | with_reducible apply Does.step (State.stepCounter_does ..)
    | with_reducible apply Does.step (State.lock_does ..)
    | with_reducible apply Does.step (State.unlock_does ..)
    | with_reducible apply Does.step (State.enterTime_does ..)
    | with_reducible apply Does.step (State.steer_does ..)
    | with_reducible apply Does.step (State.learnWord_does ..)
    | with_reducible apply State.setTime_step
    | exact fun h => ⟨h.1, h.2.1, h.2.2⟩
    | exact fun h => ⟨by simpa using h.1, by simpa using h.2.1, by simpa using h.2.2⟩
    | split
    | intro _
    | dsimp -zeta only

end Sys2Proof.Machine
end

