-- ==== Sys2Proof/Laws/Flags.lean ====
section
/-!
SUPPORT. What the operations of Machine/Flags.lean do.
-/
set_option Elab.async false
set_option linter.all false

namespace Sys2Proof.Machine

theorem State.afterRead_does (s : State) (k : ℕ) : s.Does [.freeCtr, .cams] (State.afterRead s k) := by
  unfold State.afterRead
  repeat' first
    | with_reducible exact Does.refl _ _
    | decide
    | (extract_lets +onlyGivenNames w_
       first
         | (clear_value w_; revert w_; intro _) | (revert w_; intro _))
    | with_reducible apply Does.step (State.draw_does ..)
    | with_reducible apply Does.step (State.setCam_does ..)
    | split

theorem State.readObject_does (s : State) (m : Sys2Proof.Master) (k : ℕ) : s.Does [.freeCtr, .cams, .drive, .recorder] (State.readObject s m k).1 := by
  unfold State.readObject
  repeat' first
    | with_reducible exact Does.refl _ _
    | decide
    | with_reducible refine Does.pair (by assumption) ?_
    | (extract_lets +onlyGivenNames w_
       first
         | (clear_value w_; revert w_; intro _) | (revert w_; intro _))
    | with_reducible apply Does.step (State.afterRead_does ..)
    | with_reducible apply Does.step (State.newChallenge_does ..)
    | split

theorem State.readWhole_does (s : State) (m : Sys2Proof.Master) (index : ℕ) : s.Does [.freeCtr, .cams, .drive, .recorder] (State.readWhole s m index).1 := by
  unfold State.readWhole
  repeat' first
    | with_reducible exact Does.refl _ _
    | with_reducible assumption
    | decide
    | with_reducible refine Does.pair (by assumption) ?_
    | with_reducible refine Does.pairSnd (by assumption) ?_
    | with_reducible refine Does.foldl ?_ ?_
    | (extract_lets +onlyGivenNames w_
       first
         | (refine Does.keep w_ ?_ ?_
            on_goal 1 => (unfold w_; clear w_)
            on_goal 2 => first | (clear_value w_; intro _; revert w_; intro _ _) | (intro _; revert w_; intro _ _))
         | (refine Does.keep w_.1 ?_ ?_
            on_goal 1 => (unfold w_; clear w_)
            on_goal 2 => first | (clear_value w_; intro _; revert w_; intro _ _) | (intro _; revert w_; intro _ _))
         | (clear_value w_; revert w_; intro _) | (revert w_; intro _))
    | split
    | with_reducible apply Does.step (State.afterRead_does ..)
    | split
    | intro _
    | dsimp -zeta only

end Sys2Proof.Machine
end

