-- ==== Sys2Proof/Laws/Actions.lean ====
section
/-!
SUPPORT. What the operations of Machine/Actions.lean do.
-/
set_option Elab.async false
set_option linter.all false

namespace Sys2Proof.Machine

theorem State.mapCount_does (s : State) (index : ℕ) (n : ℕ) : s.Does [.od] (State.mapCount s index n).1 := by
  unfold State.mapCount
  repeat' first
    | with_reducible exact Does.refl _ _
    | decide
    | (extract_lets +onlyGivenNames w_
       first
         | (clear_value w_; revert w_; intro _) | (revert w_; intro _))
    | with_reducible apply Does.step (State.putNat_does ..)
    | split

theorem State.mapEntry_does (s : State) (index : ℕ) (sub : ℕ) (v : ℕ) : s.Does [.od] (State.mapEntry s index sub v).1 := by
  unfold State.mapEntry
  repeat' first
    | with_reducible exact Does.refl _ _
    | decide
    | (extract_lets +onlyGivenNames w_
       first
         | (clear_value w_; revert w_; intro _) | (revert w_; intro _))
    | with_reducible apply Does.step (State.putNat_does ..)
    | split

theorem State.setConsumer_does (s : State) (n : ℕ) (v : ℕ) : s.Does [.od, .side] (State.setConsumer s n v) := by
  unfold State.setConsumer
  repeat' first
    | with_reducible exact Does.refl _ _
    | with_reducible assumption
    | decide
    | with_reducible apply Does.step (State.putNat_does ..)
    | exact Or.inr (by decide)
    | exact Or.inl rfl
    | exact fun h => ⟨h.mem, h.od, h.cams, h.time, h.pipe, h.tracker, h.drive, h.seqs, h.loops, h.thermal, h.backdrop, h.strand, h.dict, by first | exact ⟨h.side.1, h.side.2.1, h.side.2.2⟩ | simpa [Sideband.shaped] using h.side | (have hh := h.side; clear h; simp_all [Sideband.shaped]), h.pins, h.dma, h.recorder⟩
    | with_reducible apply Does.parts

theorem State.actComm_does (s : State) (k : ℕ) (v : Sys2Proof.Val) : s.Does [.od, .side] (State.actComm s k v).1 := by
  unfold State.actComm
  repeat' first
    | with_reducible exact Does.refl _ _
    | with_reducible assumption
    | decide
    | (extract_lets +onlyGivenNames w_
       first
         | (refine Does.keep w_ ?_ ?_
            on_goal 1 => (unfold w_; clear w_)
            on_goal 2 => first | (clear_value w_; intro _; revert w_; intro _ _) | (intro _; revert w_; intro _ _))
         | (have h_ : Sideband := w_; clear h_; subst w_)
         | (clear_value w_; revert w_; intro _) | (revert w_; intro _))
    | with_reducible apply Does.step (State.mapCount_does ..)
    | with_reducible apply Does.step (State.mapEntry_does ..)
    | with_reducible apply Does.step (State.setConsumer_does ..)
    | with_reducible apply Does.step (hold_does ..)
    | with_reducible apply Does.step (State.put_does ..)
    | exact Or.inr (by decide)
    | exact Or.inl rfl
    | exact fun h => ⟨h.mem, h.od, h.cams, h.time, h.pipe, h.tracker, h.drive, h.seqs, h.loops, h.thermal, h.backdrop, h.strand, h.dict, by first | exact ⟨h.side.1, h.side.2.1, h.side.2.2⟩ | simpa [Sideband.shaped] using h.side | (have hh := h.side; clear h; simp_all [Sideband.shaped]), h.pins, h.dma, h.recorder⟩
    | split
    | with_reducible apply Does.parts

theorem State.actBackdrop_does (s : State) (k : ℕ) (v : Sys2Proof.Val) : s.Does [.out, .od, .pipe, .ledger, .backdrop, .strand, .side, .recorder, .update] (State.actBackdrop s k v).1 := by
  unfold State.actBackdrop
  repeat' first
    | with_reducible exact Does.refl _ _
    | with_reducible assumption
    | decide
    | with_reducible refine Does.pair (by assumption) ?_
    | with_reducible refine Does.pairSnd (by assumption) ?_
    | with_reducible refine Does.foldl ?_ ?_
    | (extract_lets +onlyGivenNames w_
       first
         | (refine Does.keep w_ ?_ ?_
            on_goal 1 => (unfold w_; clear w_)
            on_goal 2 => first | (clear_value w_; intro _; revert w_; intro _ _) | (intro _; revert w_; intro _ _))
         | (refine Does.keep w_.1 ?_ ?_
            on_goal 1 => (unfold w_; clear w_)
            on_goal 2 => first | (clear_value w_; intro _; revert w_; intro _ _) | (intro _; revert w_; intro _ _))
         | (clear_value w_; revert w_; intro _) | (revert w_; intro _))
    | split
    | with_reducible apply Does.step (actPanelHome_does ..)
    | with_reducible apply Does.step (actPanelGrey_does ..)
    | with_reducible apply Does.step (actRegionGo_does ..)
    | with_reducible apply Does.step (actStrobeEnable_does ..)
    | with_reducible apply Does.step (actTrimMap_does ..)
    | with_reducible apply Does.step (actWaveform_does ..)
    | with_reducible apply Does.step (actImageSlot_does ..)
    | with_reducible apply Does.step (State.testStrobe_does ..)
    | with_reducible apply Does.step (hold_does ..)
    | with_reducible apply Does.step (actEventAck_does ..)
    | with_reducible apply Does.step (State.put_does ..)
    | exact Or.inr (by decide)
    | exact Or.inl rfl
    | exact fun h => ⟨h.mem, h.od, h.cams, h.time, h.pipe, h.tracker, h.drive, h.seqs, h.loops, h.thermal, h.backdrop, h.strand, h.dict, h.side, h.pins, h.dma, h.recorder⟩
    | split
    | intro _
    | dsimp -zeta only
    | with_reducible apply Does.parts

theorem State.actUpdate_does (s : State) (n : ℕ) : s.Does [.freeCtr, .out, .od, .time, .cams, .pipe, .tracker, .drive, .seqs, .ledger, .loops, .power, .thermal, .backdrop, .module, .strand, .dict, .side, .dma, .recorder, .update] (State.actUpdate s n).1 := by
  unfold State.actUpdate
  repeat' first
    | with_reducible exact Does.refl _ _
    | with_reducible assumption
    | decide
    | with_reducible refine Does.pair (by assumption) ?_
    | with_reducible refine Does.pairSnd (by assumption) ?_
    | with_reducible refine Does.foldl ?_ ?_
    | (extract_lets +onlyGivenNames w_
       first
         | (refine Does.keep w_ ?_ ?_
            on_goal 1 => (unfold w_; clear w_)
            on_goal 2 => first | (clear_value w_; intro _; revert w_; intro _ _) | (intro _; revert w_; intro _ _))
         | (refine Does.keep w_.1 ?_ ?_
            on_goal 1 => (unfold w_; clear w_)
            on_goal 2 => first | (clear_value w_; intro _; revert w_; intro _ _) | (intro _; revert w_; intro _ _))
         | (clear_value w_; revert w_; intro _) | (revert w_; intro _))
    | split
    | with_reducible apply Does.step (actMarkPendingRestart_does ..)
    | with_reducible apply Does.step (actRestartFromStaging_does ..)
    | with_reducible apply Does.step (actMarkPending_does ..)
    | with_reducible apply Does.step (actCancelPending_does ..)
    | with_reducible apply Does.step (actStageFromDdr_does ..)
    | with_reducible apply Does.step (actVerifyAgain_does ..)
    | split
    | intro _
    | dsimp -zeta only

theorem State.actRecorder_does (s : State) (m : Sys2Proof.Master) (k : ℕ) (v : Sys2Proof.Val) : s.Does [.freeCtr, .out, .od, .time, .cams, .pipe, .tracker, .drive, .seqs, .ledger, .loops, .power, .thermal, .backdrop, .module, .strand, .dict, .side, .dma, .recorder, .update] (State.actRecorder s m k v).1 := by
  unfold State.actRecorder
  repeat' first
    | with_reducible exact Does.refl _ _
    | with_reducible assumption
    | decide
    | with_reducible refine Does.pair (by assumption) ?_
    | with_reducible refine Does.pairSnd (by assumption) ?_
    | with_reducible refine Does.foldl ?_ ?_
    | (extract_lets +onlyGivenNames w_
       first
         | (refine Does.keep w_ ?_ ?_
            on_goal 1 => (unfold w_; clear w_)
            on_goal 2 => first | (clear_value w_; intro _; revert w_; intro _ _) | (intro _; revert w_; intro _ _))
         | (refine Does.keep w_.1 ?_ ?_
            on_goal 1 => (unfold w_; clear w_)
            on_goal 2 => first | (clear_value w_; intro _; revert w_; intro _ _) | (intro _; revert w_; intro _ _))
         | (clear_value w_; revert w_; intro _) | (revert w_; intro _))
    | split
    | with_reducible apply Does.step (State.actUpdate_does ..)
    | with_reducible apply Does.step (actStaging_does ..)
    | with_reducible apply Does.step (actClear_does ..)
    | with_reducible apply Does.step (actLibrarySlot_does ..)
    | with_reducible apply Does.step (actExport_does ..)
    | with_reducible apply Does.step (actStageSource_does ..)
    | with_reducible apply Does.step (actStageLength_does ..)
    | with_reducible apply Does.step (actSelectSlot_does ..)
    | with_reducible apply Does.step (hold_does ..)
    | with_reducible apply Does.step (actSelectSeq_does ..)
    | with_reducible apply Does.step (actTallyConfig_does ..)
    | split
    | intro _
    | dsimp -zeta only

theorem State.actEngines_does (s : State) (k : ℕ) (v : Sys2Proof.Val) : s.Does [.out, .od, .pipe, .tracker, .drive, .backdrop, .strand, .side, .dma, .recorder] (State.actEngines s k v).1 := by
  unfold State.actEngines
  repeat' first
    | with_reducible exact Does.refl _ _
    | with_reducible assumption
    | decide
    | with_reducible refine Does.pair (by assumption) ?_
    | with_reducible refine Does.pairSnd (by assumption) ?_
    | with_reducible refine Does.foldl ?_ ?_
    | (extract_lets +onlyGivenNames w_
       first
         | (refine Does.keep w_ ?_ ?_
            on_goal 1 => (unfold w_; clear w_)
            on_goal 2 => first | (clear_value w_; intro _; revert w_; intro _ _) | (intro _; revert w_; intro _ _))
         | (refine Does.keep w_.1 ?_ ?_
            on_goal 1 => (unfold w_; clear w_)
            on_goal 2 => first | (clear_value w_; intro _; revert w_; intro _ _) | (intro _; revert w_; intro _ _))
         | (clear_value w_; revert w_; intro _) | (revert w_; intro _))
    | split
    | with_reducible apply Does.step (actCapture_does ..)
    | with_reducible apply Does.step (actBankImage_does ..)
    | with_reducible apply Does.step (actBankSwap_does ..)
    | with_reducible apply Does.step (actPlacement_does ..)
    | with_reducible apply Does.step (actDropGeometry_does ..)
    | with_reducible apply Does.step (actLibraryLoad_does ..)
    | with_reducible apply Does.step (actContext_does ..)
    | with_reducible apply Does.step (actGovernor_does ..)
    | with_reducible apply Does.step (hold_does ..)
    | split
    | intro _
    | dsimp -zeta only

theorem State.actDrive_does (s : State) (k : ℕ) (v : Sys2Proof.Val) : s.Does [.freeCtr, .out, .od, .drive, .seqs, .ledger, .backdrop, .strand, .side, .recorder] (State.actDrive s k v).1 := by
  unfold State.actDrive
  repeat' first
    | with_reducible exact Does.refl _ _
    | decide
    | (extract_lets +onlyGivenNames w_
       first
         | (clear_value w_; revert w_; intro _) | (revert w_; intro _))
    | with_reducible apply Does.step (actTestShot_does ..)
    | with_reducible apply Does.step (actImageAll_does ..)
    | with_reducible apply Does.step (actSwapAll_does ..)
    | with_reducible apply Does.step (State.requestSwap_does ..)
    | with_reducible apply Does.step (actShadowImage_does ..)
    | with_reducible apply Does.step (actValveReplaced_does ..)
    | with_reducible apply Does.step (actGroupRestore_does ..)
    | with_reducible apply Does.step (actProfileSelect_does ..)
    | with_reducible apply Does.step (actVbst_does ..)
    | with_reducible apply Does.step (actValveState_does ..)
    | with_reducible apply Does.step (hold_does ..)
    | with_reducible apply Does.step (State.releads_does ..)
    | with_reducible apply Does.step (State.put_does ..)
    | split

theorem State.holdOut_does (s : State) (k : ℕ) (v : Sys2Proof.Val) : s.Does [.out, .od, .loops] (State.holdOut s k v).1 := by
  unfold State.holdOut
  repeat' first
    | with_reducible exact Does.refl _ _
    | with_reducible assumption
    | decide
    | with_reducible refine Does.pair (by assumption) ?_
    | with_reducible refine Does.pairSnd (by assumption) ?_
    | with_reducible refine Does.foldl ?_ ?_
    | (extract_lets +onlyGivenNames w_
       first
         | (refine Does.keep w_ ?_ ?_
            on_goal 1 => (unfold w_; clear w_)
            on_goal 2 => first | (clear_value w_; intro _; revert w_; intro _ _) | (intro _; revert w_; intro _ _))
         | (refine Does.keep w_.1 ?_ ?_
            on_goal 1 => (unfold w_; clear w_)
            on_goal 2 => first | (clear_value w_; intro _; revert w_; intro _ _) | (intro _; revert w_; intro _ _))
         | (clear_value w_; revert w_; intro _) | (revert w_; intro _))
    | split
    | with_reducible apply Does.step (State.settleOuts_does ..)
    | with_reducible apply Does.step (State.put_does ..)
    | split
    | intro _
    | dsimp -zeta only

theorem State.actSlot_does (s : State) (n : ℕ) (r : ℕ) (sub : ℕ) (k : ℕ) (v : Sys2Proof.Val) : s.Does [.out, .od, .loops, .backdrop, .strand, .side, .recorder] (State.actSlot s n r sub k v).1 := by
  unfold State.actSlot
  repeat' first
    | with_reducible exact Does.refl _ _
    | with_reducible assumption
    | decide
    | with_reducible refine Does.pair (by assumption) ?_
    | with_reducible refine Does.pairSnd (by assumption) ?_
    | with_reducible refine Does.foldl ?_ ?_
    | (extract_lets +onlyGivenNames w_
       first
         | (refine Does.keep w_ ?_ ?_
            on_goal 1 => (unfold w_; clear w_)
            on_goal 2 => first | (clear_value w_; intro _; revert w_; intro _ _) | (intro _; revert w_; intro _ _))
         | (refine Does.keep w_.1 ?_ ?_
            on_goal 1 => (unfold w_; clear w_)
            on_goal 2 => first | (clear_value w_; intro _; revert w_; intro _ _) | (intro _; revert w_; intro _ _))
         | (clear_value w_; revert w_; intro _) | (revert w_; intro _))
    | split
    | with_reducible apply Does.step (actLoopEnable_does ..)
    | with_reducible apply Does.step (actLoopRearm_does ..)
    | with_reducible apply Does.step (State.loopsRecheck_does ..)
    | with_reducible apply Does.step (actLoopSwap_does ..)
    | with_reducible apply Does.step (State.holdOut_does ..)
    | with_reducible apply Does.step (State.safeOut_does ..)
    | with_reducible apply Does.step (State.driveOut_does ..)
    | with_reducible apply Does.step (actLoopBank_does ..)
    | with_reducible apply Does.step (hold_does ..)
    | with_reducible apply Does.step (State.resumeSlot_does ..)
    | with_reducible apply Does.step (State.put_does ..)
    | split
    | intro _
    | dsimp -zeta only

theorem State.actLoops_does (s : State) (k : ℕ) (v : Sys2Proof.Val) : s.Does [.freeCtr, .out, .od, .mem, .loops, .backdrop, .strand, .side, .dma, .recorder] (State.actLoops s k v).1 := by
  unfold State.actLoops
  repeat' first
    | with_reducible exact Does.refl _ _
    | with_reducible assumption
    | decide
    | with_reducible refine Does.pair (by assumption) ?_
    | with_reducible refine Does.pairSnd (by assumption) ?_
    | with_reducible refine Does.foldl ?_ ?_
    | (extract_lets +onlyGivenNames w_
       first
         | (refine Does.keep w_ ?_ ?_
            on_goal 1 => (unfold w_; clear w_)
            on_goal 2 => first | (clear_value w_; intro _; revert w_; intro _ _) | (intro _; revert w_; intro _ _))
         | (refine Does.keep w_.1 ?_ ?_
            on_goal 1 => (unfold w_; clear w_)
            on_goal 2 => first | (clear_value w_; intro _; revert w_; intro _ _) | (intro _; revert w_; intro _ _))
         | (clear_value w_; revert w_; intro _) | (revert w_; intro _))
    | split
    | with_reducible apply Does.step (actTraceArm_does ..)
    | with_reducible apply Does.step (State.actSlot_does ..)
    | with_reducible apply Does.step (State.holdOut_does ..)
    | with_reducible apply Does.step (actTraceForce_does ..)
    | with_reducible apply Does.step (actTraceStop_does ..)
    | with_reducible apply Does.step (hold_does ..)
    | split
    | intro _
    | dsimp -zeta only

theorem State.actModule_does (s : State) (m : Sys2Proof.Master) (k : ℕ) (v : Sys2Proof.Val) : s.Does [.clk, .freeCtr, .out, .od, .mem, .time, .cams, .pipe, .tracker, .drive, .seqs, .ledger, .loops, .power, .thermal, .backdrop, .module, .strand, .dict, .side, .dma, .recorder, .update] (State.actModule s m k v).1 := by
  unfold State.actModule
  repeat' first
    | with_reducible exact Does.refl _ _
    | with_reducible assumption
    | decide
    | with_reducible refine Does.pair (by assumption) ?_
    | with_reducible refine Does.pairSnd (by assumption) ?_
    | with_reducible refine Does.foldl ?_ ?_
    | (extract_lets +onlyGivenNames w_
       first
         | (refine Does.keep w_ ?_ ?_
            on_goal 1 => (unfold w_; clear w_)
            on_goal 2 => first | (clear_value w_; intro _; revert w_; intro _ _) | (intro _; revert w_; intro _ _))
         | (refine Does.keep w_.1 ?_ ?_
            on_goal 1 => (unfold w_; clear w_)
            on_goal 2 => first | (clear_value w_; intro _; revert w_; intro _ _) | (intro _; revert w_; intro _ _))
         | (clear_value w_; revert w_; intro _) | (revert w_; intro _))
    | split
    | with_reducible apply Does.step (actCalibrate_does ..)
    | with_reducible apply Does.step (actRestart_does ..)
    | with_reducible apply Does.step (actAwake_does ..)
    | with_reducible apply Does.step (actIdle_does ..)
    | with_reducible apply Does.step (actMoored_does ..)
    | with_reducible apply Does.step (State.learnId_does ..)
    | with_reducible apply Does.step (actSort_does ..)
    | with_reducible apply Does.step (actSyncOutMode_does ..)
    | with_reducible apply Does.step (actPortsInUse_does ..)
    | with_reducible apply Does.step (hold_does ..)
    | with_reducible apply Does.step (State.put_does ..)
    | split
    | intro _
    | dsimp -zeta only

theorem State.dropTables_does (s : State) (p : ℕ) : s.Does [.od] (State.dropTables s p) := by
  unfold State.dropTables
  repeat' first
    | with_reducible exact Does.refl _ _
    | decide
    | with_reducible apply Does.step (State.putNat_does ..)

theorem State.actPort_does (s : State) (p : ℕ) (r : ℕ) (sub : ℕ) (k : ℕ) (v : Sys2Proof.Val) : s.Does [.out, .od, .mem, .cams, .pipe, .ledger, .loops, .backdrop, .strand, .side, .recorder] (State.actPort s p r sub k v).1 := by
  unfold State.actPort
  repeat' first
    | with_reducible exact Does.refl _ _
    | with_reducible assumption
    | decide
    | with_reducible refine Does.pair (by assumption) ?_
    | with_reducible refine Does.pairSnd (by assumption) ?_
    | with_reducible refine Does.foldl ?_ ?_
    | (extract_lets +onlyGivenNames w_
       first
         | (refine Does.keep w_ ?_ ?_
            on_goal 1 => (unfold w_; clear w_)
            on_goal 2 => first | (clear_value w_; intro _; revert w_; intro _ _) | (intro _; revert w_; intro _ _))
         | (refine Does.keep w_.1 ?_ ?_
            on_goal 1 => (unfold w_; clear w_)
            on_goal 2 => first | (clear_value w_; intro _; revert w_; intro _ _) | (intro _; revert w_; intro _ _))
         | (clear_value w_; revert w_; intro _) | (revert w_; intro _))
    | split
    | with_reducible apply Does.step (actStopStream_does ..)
    | with_reducible apply Does.step (actStartPort_does ..)
    | with_reducible apply Does.step (actStartPlane_does ..)
    | with_reducible apply Does.step (actCc1Width_does ..)
    | with_reducible apply Does.step (State.dropTables_does ..)
    | with_reducible apply Does.step (actRaw_does ..)
    | with_reducible apply Does.step (State.settleCc_does ..)
    | with_reducible apply Does.step (actSettings_does ..)
    | with_reducible apply Does.step (hold_does ..)
    | with_reducible apply Does.step (actPoclRearm_does ..)
    | with_reducible apply Does.step (State.put_does ..)
    | with_reducible apply Does.step (State.setCam_does ..)
    | split
    | intro _
    | dsimp -zeta only

theorem State.actPlain_does (s : State) (m : Sys2Proof.Master) (k : ℕ) (v : Sys2Proof.Val) : s.Does [.clk, .freeCtr, .out, .od, .mem, .time, .cams, .pipe, .tracker, .drive, .seqs, .ledger, .loops, .power, .thermal, .backdrop, .module, .strand, .dict, .side, .dma, .recorder, .update] (State.actPlain s m k v).1 := by
  unfold State.actPlain
  repeat' first
    | with_reducible exact Does.refl _ _
    | with_reducible assumption
    | decide
    | with_reducible refine Does.pair (by assumption) ?_
    | with_reducible refine Does.pairSnd (by assumption) ?_
    | with_reducible refine Does.foldl ?_ ?_
    | (extract_lets +onlyGivenNames w_
       first
         | (refine Does.keep w_ ?_ ?_
            on_goal 1 => (unfold w_; clear w_)
            on_goal 2 => first | (clear_value w_; intro _; revert w_; intro _ _) | (intro _; revert w_; intro _ _))
         | (refine Does.keep w_.1 ?_ ?_
            on_goal 1 => (unfold w_; clear w_)
            on_goal 2 => first | (clear_value w_; intro _; revert w_; intro _ _) | (intro _; revert w_; intro _ _))
         | (clear_value w_; revert w_; intro _) | (revert w_; intro _))
    | split
    | with_reducible apply Does.step (State.actModule_does ..)
    | with_reducible apply Does.step (State.actRecorder_does ..)
    | with_reducible apply Does.step (State.actLoops_does ..)
    | with_reducible apply Does.step (State.actDrive_does ..)
    | with_reducible apply Does.step (State.actBackdrop_does ..)
    | with_reducible apply Does.step (State.actPort_does ..)
    | with_reducible apply Does.step (State.actEngines_does ..)
    | with_reducible apply Does.step (State.actComm_does ..)
    | with_reducible apply Does.step (hold_does ..)
    | split
    | intro _
    | dsimp -zeta only

end Sys2Proof.Machine
end

