-- ==== Sys2Proof/Laws/Dictionary.lean ====
section
/-!
SUPPORT. What the operations of Machine/Dictionary.lean do.
-/
set_option Elab.async false
set_option linter.all false

namespace Sys2Proof.Machine

theorem State.putBack_does (s : State) (k : ℕ) (old : Option Sys2Proof.Val) : s.Does [.od] (State.putBack s k old) := by
  unfold State.putBack
  repeat' first
    | with_reducible exact Does.refl _ _
    | with_reducible assumption
    | decide
    | with_reducible refine Does.pair (by assumption) ?_
    | with_reducible refine Does.pairSnd (by assumption) ?_
    | with_reducible refine Does.foldl ?_ ?_
    | (extract_lets +onlyGivenNames w_
       first
         | (refine Does.keep w_ ?_ ?_
            on_goal 1 => (unfold w_; clear w_)
            on_goal 2 => first | (clear_value w_; intro _; revert w_; intro _ _) | (intro _; revert w_; intro _ _))
         | (refine Does.keep w_.1 ?_ ?_
            on_goal 1 => (unfold w_; clear w_)
            on_goal 2 => first | (clear_value w_; intro _; revert w_; intro _ _) | (intro _; revert w_; intro _ _))
         | (clear_value w_; revert w_; intro _) | (revert w_; intro _))
    | with_reducible apply Does.step (State.unset_does ..)
    | with_reducible apply Does.step (State.put_does ..)
    | split
    | intro _
    | dsimp -zeta only

theorem State.putAll_does (s : State) (es : List (ℕ × Sys2Proof.Val)) : s.Does [.od] (State.putAll s es) := by
  unfold State.putAll
  repeat' first
    | with_reducible exact Does.refl _ _
    | decide
    | with_reducible refine Does.foldl ?_ ?_
    | with_reducible apply Does.step (State.put_does ..)
    | intro _

theorem State.applyFirst_does (s : State) (m : Sys2Proof.Master) (es : List (ℕ × Sys2Proof.Val)) : s.Does [.clk, .freeCtr, .out, .od, .mem, .time, .cams, .pipe, .tracker, .drive, .seqs, .ledger, .loops, .power, .thermal, .backdrop, .module, .strand, .dict, .side, .dma, .recorder, .update] (State.applyFirst s m es).1 := by
  unfold State.applyFirst
  repeat' first
    | with_reducible exact Does.refl _ _
    | with_reducible assumption
    | decide
    | with_reducible refine Does.pair (by assumption) ?_
    | with_reducible refine Does.pairSnd (by assumption) ?_
    | with_reducible refine Does.foldl ?_ ?_
    | with_reducible refine Does.foldlFst ?_ ?_
    | (extract_lets +onlyGivenNames w_
       first
         | (refine Does.keep w_ ?_ ?_
            on_goal 1 => (unfold w_; clear w_)
            on_goal 2 => first | (clear_value w_; intro _; revert w_; intro _ _) | (intro _; revert w_; intro _ _))
         | (refine Does.keep w_.1 ?_ ?_
            on_goal 1 => (unfold w_; clear w_)
            on_goal 2 => first | (clear_value w_; intro _; revert w_; intro _ _) | (intro _; revert w_; intro _ _))
         | (clear_value w_; revert w_; intro _) | (revert w_; intro _))
    | split
    | with_reducible apply Does.step (State.actPlain_does ..)
    | with_reducible apply Does.step (State.putBack_does ..)
    | with_reducible apply Does.step (State.putAll_does ..)
    | split
    | intro _
    | dsimp -zeta only

theorem State.applyEntry_does (old : List (ℕ × Sys2Proof.Val)) (m : Sys2Proof.Master) (s : State) (e : ℕ × Sys2Proof.Val) : s.Does [.clk, .freeCtr, .out, .od, .mem, .time, .cams, .pipe, .tracker, .drive, .seqs, .ledger, .loops, .power, .thermal, .backdrop, .module, .strand, .dict, .side, .dma, .recorder, .update] (State.applyEntry old m s e) := by
  unfold State.applyEntry
  repeat' first
    | with_reducible exact Does.refl _ _
    | with_reducible assumption
    | decide
    | with_reducible refine Does.pair (by assumption) ?_
    | with_reducible refine Does.pairSnd (by assumption) ?_
    | with_reducible refine Does.foldl ?_ ?_
    | (extract_lets +onlyGivenNames w_
       first
         | (refine Does.keep w_ ?_ ?_
            on_goal 1 => (unfold w_; clear w_)
            on_goal 2 => first | (clear_value w_; intro _; revert w_; intro _ _) | (intro _; revert w_; intro _ _))
         | (refine Does.keep w_.1 ?_ ?_
            on_goal 1 => (unfold w_; clear w_)
            on_goal 2 => first | (clear_value w_; intro _; revert w_; intro _ _) | (intro _; revert w_; intro _ _))
         | (clear_value w_; revert w_; intro _) | (revert w_; intro _))
    | with_reducible apply Does.step (State.actPlain_does ..)
    | with_reducible apply Does.step (State.putBack_does ..)
    | with_reducible apply Does.step (State.put_does ..)
    | split
    | intro _
    | dsimp -zeta only

theorem State.applyAll_does (s : State) (m : Sys2Proof.Master) (es : List (ℕ × Sys2Proof.Val)) : s.Does [.clk, .freeCtr, .out, .od, .mem, .time, .cams, .pipe, .tracker, .drive, .seqs, .ledger, .loops, .power, .thermal, .backdrop, .module, .strand, .dict, .side, .dma, .recorder, .update] (State.applyAll s m es) := by
  unfold State.applyAll
  repeat' first
    | with_reducible exact Does.refl _ _
    | with_reducible assumption
    | decide
    | with_reducible refine Does.pair (by assumption) ?_
    | with_reducible refine Does.pairSnd (by assumption) ?_
    | with_reducible refine Does.foldl ?_ ?_
    | with_reducible refine Does.foldlFst ?_ ?_
    | (extract_lets +onlyGivenNames w_
       first
         | (refine Does.keep w_ ?_ ?_
            on_goal 1 => (unfold w_; clear w_)
            on_goal 2 => first | (clear_value w_; intro _; revert w_; intro _ _) | (intro _; revert w_; intro _ _))
         | (refine Does.keep w_.1 ?_ ?_
            on_goal 1 => (unfold w_; clear w_)
            on_goal 2 => first | (clear_value w_; intro _; revert w_; intro _ _) | (intro _; revert w_; intro _ _))
         | (clear_value w_; revert w_; intro _) | (revert w_; intro _))
    | with_reducible apply Does.step (State.applyFirst_does ..)
    | with_reducible apply Does.step (State.applyEntry_does ..)
    | split
    | intro _
    | dsimp -zeta only

theorem State.commit_does (s : State) (m : Sys2Proof.Master) : s.Does [.clk, .freeCtr, .out, .od, .mem, .time, .cams, .pipe, .tracker, .drive, .seqs, .ledger, .loops, .power, .thermal, .backdrop, .module, .strand, .dict, .side, .dma, .recorder, .update] (State.commit s m).1 := by
  unfold State.commit
  repeat' first
    | with_reducible exact Does.refl _ _
    | with_reducible assumption
    | decide
    | with_reducible refine Does.pair (by assumption) ?_
    | with_reducible refine Does.pairSnd (by assumption) ?_
    | with_reducible refine Does.foldl ?_ ?_
    | (extract_lets +onlyGivenNames w_
       first
         | (refine Does.keep w_ ?_ ?_
            on_goal 1 => (unfold w_; clear w_)
            on_goal 2 => first | (clear_value w_; intro _; revert w_; intro _ _) | (intro _; revert w_; intro _ _))
         | (refine Does.keep w_.1 ?_ ?_
            on_goal 1 => (unfold w_; clear w_)
            on_goal 2 => first | (clear_value w_; intro _; revert w_; intro _ _) | (intro _; revert w_; intro _ _))
         | (clear_value w_; revert w_; intro _) | (revert w_; intro _))
    | split
    | with_reducible apply Does.step (State.applyAll_does ..)
    | with_reducible apply Does.step (State.raise_does ..)
    | with_reducible apply Does.step (State.bump_does ..)
    | with_reducible apply Does.step (State.setStage_does ..)
    | split
    | intro _
    | dsimp -zeta only

theorem actStage_does (m : Sys2Proof.Master) (n : ℕ) (s : State) : s.Does [.clk, .freeCtr, .out, .od, .mem, .time, .cams, .pipe, .tracker, .drive, .seqs, .ledger, .loops, .power, .thermal, .backdrop, .module, .strand, .dict, .side, .dma, .recorder, .update] (actStage m n s).1 := by
  unfold actStage
  repeat' first
    | with_reducible exact Does.refl _ _
    | with_reducible assumption
    | decide
    | with_reducible refine Does.pair (by assumption) ?_
    | with_reducible refine Does.pairSnd (by assumption) ?_
    | with_reducible refine Does.foldl ?_ ?_
    | (extract_lets +onlyGivenNames w_
       first
         | (refine Does.keep w_ ?_ ?_
            on_goal 1 => (unfold w_; clear w_)
            on_goal 2 => first | (clear_value w_; intro _; revert w_; intro _ _) | (intro _; revert w_; intro _ _))
         | (refine Does.keep w_.1 ?_ ?_
            on_goal 1 => (unfold w_; clear w_)
            on_goal 2 => first | (clear_value w_; intro _; revert w_; intro _ _) | (intro _; revert w_; intro _ _))
         | (clear_value w_; revert w_; intro _) | (revert w_; intro _))
    | split
    | with_reducible apply Does.step (State.commit_does ..)
    | with_reducible apply Does.step (State.setStage_does ..)
    | split
    | intro _
    | dsimp -zeta only

theorem State.stageCommand_does (s : State) (m : Sys2Proof.Master) (n : ℕ) : s.Does [.clk, .freeCtr, .out, .od, .mem, .time, .cams, .pipe, .tracker, .drive, .seqs, .ledger, .loops, .power, .thermal, .backdrop, .module, .strand, .dict, .side, .dma, .recorder, .update] (State.stageCommand s m n) := by
  unfold State.stageCommand
  repeat' first
    | with_reducible exact Does.refl _ _
    | with_reducible assumption
    | decide
    | with_reducible refine Does.pair (by assumption) ?_
    | with_reducible refine Does.pairSnd (by assumption) ?_
    | with_reducible refine Does.foldl ?_ ?_
    | (extract_lets +onlyGivenNames w_
       first
         | (refine Does.keep w_ ?_ ?_
            on_goal 1 => (unfold w_; clear w_)
            on_goal 2 => first | (clear_value w_; intro _; revert w_; intro _ _) | (intro _; revert w_; intro _ _))
         | (refine Does.keep w_.1 ?_ ?_
            on_goal 1 => (unfold w_; clear w_)
            on_goal 2 => first | (clear_value w_; intro _; revert w_; intro _ _) | (intro _; revert w_; intro _ _))
         | (clear_value w_; revert w_; intro _) | (revert w_; intro _))
    | with_reducible apply Does.step (actStage_does ..)
    | with_reducible refine Does.trans ?_ (State.write_does (by decide) (by decide) (by decide) _ _ _ _ _ ?_)
    | split
    | intro _
    | dsimp -zeta only

theorem State.clearStores_does (s : State) (part : ℕ) : s.Does [.dict, .side] (State.clearStores s part) := by
  unfold State.clearStores
  repeat' first
    | with_reducible exact Does.refl _ _
    | with_reducible assumption
    | decide
    | with_reducible refine Does.pair (by assumption) ?_
    | with_reducible refine Does.pairSnd (by assumption) ?_
    | with_reducible refine Does.foldl ?_ ?_
    | (extract_lets +onlyGivenNames w_
       first
         | (refine Does.keep w_ ?_ ?_
            on_goal 1 => (unfold w_; clear w_)
            on_goal 2 => first | (clear_value w_; intro _; revert w_; intro _ _) | (intro _; revert w_; intro _ _))
         | (refine Does.keep w_.1 ?_ ?_
            on_goal 1 => (unfold w_; clear w_)
            on_goal 2 => first | (clear_value w_; intro _; revert w_; intro _ _) | (intro _; revert w_; intro _ _))
         | (have h_ : Dict := w_; clear h_; subst w_)
         | (have h_ : Sideband := w_; clear h_; subst w_)
         | (clear_value w_; revert w_; intro _) | (revert w_; intro _))
    | exact Or.inr (by decide)
    | exact Or.inl rfl
    | exact fun h => ⟨h.mem, h.od, h.cams, h.time, h.pipe, h.tracker, h.drive, h.seqs, h.loops, h.thermal, h.backdrop, h.strand, by first | exact ⟨h.dict.1, h.dict.2.1, h.dict.2.2⟩ | simpa [Dict.shaped] using h.dict | (have hh := h.dict; clear h; simp_all [Dict.shaped]), by first | exact ⟨h.side.1, h.side.2.1, h.side.2.2⟩ | simpa [Sideband.shaped] using h.side | (have hh := h.side; clear h; simp_all [Sideband.shaped]), h.pins, h.dma, h.recorder⟩
    | split
    | intro _
    | dsimp -zeta only
    | with_reducible apply Does.parts

theorem State.setStore2_does (s : State) (n : ℕ) (x : Settings) : s.Does [.dict] (State.setStore2 s n x) := by
  unfold State.setStore2
  repeat' first
    | with_reducible exact Does.refl _ _
    | exact Or.inr (by decide)
    | exact Or.inl rfl
    | exact fun h => ⟨h.mem, h.od, h.cams, h.time, h.pipe, h.tracker, h.drive, h.seqs, h.loops, h.thermal, h.backdrop, h.strand, by first | exact ⟨h.dict.1, h.dict.2.1, h.dict.2.2⟩ | simpa [Dict.shaped] using h.dict | (have hh := h.dict; clear h; simp_all [Dict.shaped]), h.side, h.pins, h.dma, h.recorder⟩
    | with_reducible apply Does.parts

theorem State.writeStores_does (s : State) (r : StoreRun) : s.Does [.out, .od, .backdrop, .strand, .dict, .side, .dma, .recorder] (State.writeStores s r) := by
  unfold State.writeStores
  repeat' first
    | with_reducible exact Does.refl _ _
    | with_reducible assumption
    | decide
    | with_reducible refine Does.pair (by assumption) ?_
    | with_reducible refine Does.pairSnd (by assumption) ?_
    | with_reducible refine Does.foldl ?_ ?_
    | (extract_lets +onlyGivenNames w_
       first
         | (refine Does.keep w_ ?_ ?_
            on_goal 1 => (unfold w_; clear w_)
            on_goal 2 => first | (clear_value w_; intro _; revert w_; intro _ _) | (intro _; revert w_; intro _ _))
         | (refine Does.keep w_.1 ?_ ?_
            on_goal 1 => (unfold w_; clear w_)
            on_goal 2 => first | (clear_value w_; intro _; revert w_; intro _ _) | (intro _; revert w_; intro _ _))
         | (have h_ : Sideband := w_; clear h_; subst w_)
         | (clear_value w_; revert w_; intro _) | (revert w_; intro _))
    | with_reducible apply Does.step (State.fwRun_does ..)
    | with_reducible apply Does.step (State.setStore2_does ..)
    | with_reducible apply Does.step (State.emit_does ..)
    | exact Or.inr (by decide)
    | exact Or.inl rfl
    | exact fun h => ⟨h.mem, h.od, h.cams, h.time, h.pipe, h.tracker, h.drive, h.seqs, h.loops, h.thermal, h.backdrop, h.strand, h.dict, by first | exact ⟨h.side.1, h.side.2.1, h.side.2.2⟩ | simpa [Sideband.shaped] using h.side | (have hh := h.side; clear h; simp_all [Sideband.shaped]), h.pins, h.dma, h.recorder⟩
    | split
    | intro _
    | dsimp -zeta only
    | with_reducible apply Does.parts

theorem State.storeEnds_does (s : State) (r : StoreRun) (ends : Sys2Proof.StoreEnd) : s.Does [.out, .od, .backdrop, .strand, .dict, .side, .dma, .recorder] (State.storeEnds s r ends).1 := by
  unfold State.storeEnds
  repeat' first
    | with_reducible exact Does.refl _ _
    | with_reducible assumption
    | decide
    | with_reducible refine Does.pair (by assumption) ?_
    | with_reducible refine Does.pairSnd (by assumption) ?_
    | with_reducible refine Does.foldl ?_ ?_
    | (extract_lets +onlyGivenNames w_
       first
         | (refine Does.keep w_ ?_ ?_
            on_goal 1 => (unfold w_; clear w_)
            on_goal 2 => first | (clear_value w_; intro _; revert w_; intro _ _) | (intro _; revert w_; intro _ _))
         | (refine Does.keep w_.1 ?_ ?_
            on_goal 1 => (unfold w_; clear w_)
            on_goal 2 => first | (clear_value w_; intro _; revert w_; intro _ _) | (intro _; revert w_; intro _ _))
         | (have h_ : Dict := w_; clear h_; subst w_)
         | (clear_value w_; revert w_; intro _) | (revert w_; intro _))
    | split
    | with_reducible apply Does.step (State.writeStores_does ..)
    | with_reducible apply Does.step (State.raise_does ..)
    | with_reducible apply Does.step (State.bump_does ..)
    | with_reducible apply Does.step (State.spoilStore_does ..)
    | with_reducible apply Does.step (State.clearStores_does ..)
    | exact Or.inr (by decide)
    | exact Or.inl rfl
    | exact fun h => ⟨h.mem, h.od, h.cams, h.time, h.pipe, h.tracker, h.drive, h.seqs, h.loops, h.thermal, h.backdrop, h.strand, by first | exact ⟨h.dict.1, h.dict.2.1, h.dict.2.2⟩ | simpa [Dict.shaped] using h.dict | (have hh := h.dict; clear h; simp_all [Dict.shaped]), h.side, h.pins, h.dma, h.recorder⟩
    | split
    | intro _
    | dsimp -zeta only
    | with_reducible apply Does.parts

theorem actStore_does (m : Sys2Proof.Master) (part : ℕ) (value : ℕ) (ends : Sys2Proof.StoreEnd) (s : State) : s.Does [.out, .od, .backdrop, .strand, .dict, .side, .dma, .recorder] (actStore m part value ends s).1 := by
  unfold actStore
  repeat' first
    | with_reducible exact Does.refl _ _
    | with_reducible assumption
    | decide
    | with_reducible refine Does.pair (by assumption) ?_
    | with_reducible refine Does.pairSnd (by assumption) ?_
    | with_reducible refine Does.foldl ?_ ?_
    | (extract_lets +onlyGivenNames w_
       first
         | (refine Does.keep w_ ?_ ?_
            on_goal 1 => (unfold w_; clear w_)
            on_goal 2 => first | (clear_value w_; intro _; revert w_; intro _ _) | (intro _; revert w_; intro _ _))
         | (refine Does.keep w_.1 ?_ ?_
            on_goal 1 => (unfold w_; clear w_)
            on_goal 2 => first | (clear_value w_; intro _; revert w_; intro _ _) | (intro _; revert w_; intro _ _))
         | (clear_value w_; revert w_; intro _) | (revert w_; intro _))
    | split
    | with_reducible apply Does.step (State.storeEnds_does ..)
    | split
    | intro _
    | dsimp -zeta only

theorem actRestore_does (m : Sys2Proof.Master) (part : ℕ) (value : ℕ) (ends : Sys2Proof.StoreEnd) (s : State) : s.Does [.out, .od, .backdrop, .strand, .dict, .side, .dma, .recorder] (actRestore m part value ends s).1 := by
  unfold actRestore
  repeat' first
    | with_reducible exact Does.refl _ _
    | with_reducible assumption
    | decide
    | with_reducible refine Does.pair (by assumption) ?_
    | with_reducible refine Does.pairSnd (by assumption) ?_
    | with_reducible refine Does.foldl ?_ ?_
    | (extract_lets +onlyGivenNames w_
       first
         | (refine Does.keep w_ ?_ ?_
            on_goal 1 => (unfold w_; clear w_)
            on_goal 2 => first | (clear_value w_; intro _; revert w_; intro _ _) | (intro _; revert w_; intro _ _))
         | (refine Does.keep w_.1 ?_ ?_
            on_goal 1 => (unfold w_; clear w_)
            on_goal 2 => first | (clear_value w_; intro _; revert w_; intro _ _) | (intro _; revert w_; intro _ _))
         | (clear_value w_; revert w_; intro _) | (revert w_; intro _))
    | split
    | with_reducible apply Does.step (State.storeEnds_does ..)
    | split
    | intro _
    | dsimp -zeta only

theorem State.setLock_does (s : State) (n : ℕ) (l : Option Lock) : s.Does [.dict] (State.setLock s n l) := by
  unfold State.setLock
  repeat' first
    | with_reducible exact Does.refl _ _
    | exact Or.inr (by decide)
    | exact Or.inl rfl
    | exact fun h => ⟨h.mem, h.od, h.cams, h.time, h.pipe, h.tracker, h.drive, h.seqs, h.loops, h.thermal, h.backdrop, h.strand, by first | exact ⟨h.dict.1, h.dict.2.1, h.dict.2.2⟩ | simpa [Dict.shaped] using h.dict | (have hh := h.dict; clear h; simp_all [Dict.shaped]), h.side, h.pins, h.dma, h.recorder⟩
    | with_reducible apply Does.parts

theorem State.expireLock_does (s : State) (n : ℕ) : s.Does [.out, .od, .backdrop, .strand, .dict, .side, .recorder] (State.expireLock s n) := by
  unfold State.expireLock
  repeat' first
    | with_reducible exact Does.refl _ _
    | decide
    | with_reducible apply Does.step (State.raise_does ..)
    | with_reducible apply Does.step (State.bump_does ..)
    | with_reducible apply Does.step (State.setLock_does ..)

theorem State.expireDue_does (s : State) : s.Does [.out, .od, .backdrop, .strand, .dict, .side, .recorder] (State.expireDue s) := by
  unfold State.expireDue
  repeat' first
    | with_reducible exact Does.refl _ _
    | decide
    | with_reducible refine Does.foldl ?_ ?_
    | with_reducible apply Does.step (State.expireLock_does ..)
    | split
    | intro _

theorem State.lockRenew_does (s : State) (m : Sys2Proof.Master) (lease : ℕ) (slot : ℕ) : s.Does [.dict] (State.lockRenew s m lease slot).1 := by
  unfold State.lockRenew
  repeat' first
    | with_reducible exact Does.refl _ _
    | decide
    | with_reducible apply Does.step (State.setLock_does ..)
    | split

theorem State.lockAcquire_does (s : State) (m : Sys2Proof.Master) (first : ℕ) (last : ℕ) (lease : ℕ) (slot : ℕ) : s.Does [.out, .od, .backdrop, .strand, .dict, .side, .recorder] (State.lockAcquire s m first last lease slot).1 := by
  unfold State.lockAcquire
  repeat' first
    | with_reducible exact Does.refl _ _
    | with_reducible assumption
    | decide
    | with_reducible apply Does.step (State.raise_does ..)
    | with_reducible apply Does.step (State.setLock_does ..)
    | exact Or.inr (by decide)
    | exact Or.inl rfl
    | exact fun h => ⟨h.mem, h.od, h.cams, h.time, h.pipe, h.tracker, h.drive, h.seqs, h.loops, h.thermal, h.backdrop, h.strand, by first | exact ⟨h.dict.1, h.dict.2.1, h.dict.2.2⟩ | simpa [Dict.shaped] using h.dict | (have hh := h.dict; clear h; simp_all [Dict.shaped]), h.side, h.pins, h.dma, h.recorder⟩
    | split
    | with_reducible apply Does.parts

theorem State.lockRelease_does (s : State) (m : Sys2Proof.Master) (slot : ℕ) : s.Does [.out, .od, .backdrop, .strand, .dict, .side, .recorder] (State.lockRelease s m slot).1 := by
  unfold State.lockRelease
  repeat' first
    | with_reducible exact Does.refl _ _
    | decide
    | with_reducible apply Does.step (State.raise_does ..)
    | with_reducible apply Does.step (State.setLock_does ..)
    | split

theorem actLock_does (m : Sys2Proof.Master) (w : ℕ) (s : State) : s.Does [.out, .od, .backdrop, .strand, .dict, .side, .recorder] (actLock m w s).1 := by
  unfold actLock
  repeat' first
    | with_reducible exact Does.refl _ _
    | with_reducible assumption
    | decide
    | with_reducible apply Does.step (State.expireDue_does ..)
    | with_reducible apply Does.step (State.lockAcquire_does ..)
    | with_reducible apply Does.step (State.lockRelease_does ..)
    | with_reducible apply Does.step (State.lockRenew_does ..)
    | split

theorem State.act_does (s : State) (m : Sys2Proof.Master) (k : ℕ) (v : Sys2Proof.Val) : s.Does [.clk, .freeCtr, .out, .od, .mem, .time, .cams, .pipe, .tracker, .drive, .seqs, .ledger, .loops, .power, .thermal, .backdrop, .module, .strand, .dict, .side, .dma, .recorder, .update] (State.act s m k v).1 := by
  unfold State.act
  repeat' first
    | with_reducible exact Does.refl _ _
    | with_reducible assumption
    | decide
    | with_reducible refine Does.pair (by assumption) ?_
    | with_reducible refine Does.pairSnd (by assumption) ?_
    | with_reducible refine Does.foldl ?_ ?_
    | (extract_lets +onlyGivenNames w_
       first
         | (refine Does.keep w_ ?_ ?_
            on_goal 1 => (unfold w_; clear w_)
            on_goal 2 => first | (clear_value w_; intro _; revert w_; intro _ _) | (intro _; revert w_; intro _ _))
         | (refine Does.keep w_.1 ?_ ?_
            on_goal 1 => (unfold w_; clear w_)
            on_goal 2 => first | (clear_value w_; intro _; revert w_; intro _ _) | (intro _; revert w_; intro _ _))
         | (clear_value w_; revert w_; intro _) | (revert w_; intro _))
    | split
    | with_reducible apply Does.step (actStage_does ..)
    | with_reducible apply Does.step (State.actPlain_does ..)
    | with_reducible apply Does.step (actStore_does ..)
    | with_reducible apply Does.step (actRestore_does ..)
    | with_reducible apply Does.step (actLock_does ..)
    | split
    | intro _
    | dsimp -zeta only

theorem State.writeAny_does (s : State) (m : Sys2Proof.Master) (k : ℕ) (v : Sys2Proof.Val) : s.Does [.clk, .freeCtr, .out, .od, .mem, .time, .cams, .pipe, .tracker, .drive, .seqs, .ledger, .loops, .power, .thermal, .backdrop, .module, .strand, .dict, .side, .dma, .recorder, .update] (State.writeAny s m k v).1 := by
  unfold State.writeAny
  repeat' first
    | with_reducible exact Does.refl _ _
    | with_reducible assumption
    | decide
    | with_reducible refine Does.pair (by assumption) ?_
    | with_reducible refine Does.pairSnd (by assumption) ?_
    | with_reducible refine Does.foldl ?_ ?_
    | (extract_lets +onlyGivenNames w_
       first
         | (refine Does.keep w_ ?_ ?_
            on_goal 1 => (unfold w_; clear w_)
            on_goal 2 => first | (clear_value w_; intro _; revert w_; intro _ _) | (intro _; revert w_; intro _ _))
         | (refine Does.keep w_.1 ?_ ?_
            on_goal 1 => (unfold w_; clear w_)
            on_goal 2 => first | (clear_value w_; intro _; revert w_; intro _ _) | (intro _; revert w_; intro _ _))
         | (clear_value w_; revert w_; intro _) | (revert w_; intro _))
    | split
    | with_reducible apply Does.step (State.act_does ..)
    | with_reducible refine Does.trans ?_ (State.tryWrite_does (by decide) (by decide) _ _ _ _ _ ?_)
    | split
    | intro _
    | dsimp -zeta only

theorem State.applyPart_does (m : Sys2Proof.Master) (s : State) (e : ℕ × Sys2Proof.Val) : s.Does [.clk, .freeCtr, .out, .od, .mem, .time, .cams, .pipe, .tracker, .drive, .seqs, .ledger, .loops, .power, .thermal, .backdrop, .module, .strand, .dict, .side, .dma, .recorder, .update] (State.applyPart m s e) := by
  unfold State.applyPart
  repeat' first
    | with_reducible exact Does.refl _ _
    | with_reducible assumption
    | decide
    | with_reducible refine Does.pair (by assumption) ?_
    | with_reducible refine Does.pairSnd (by assumption) ?_
    | with_reducible refine Does.foldl ?_ ?_
    | (extract_lets +onlyGivenNames w_
       first
         | (refine Does.keep w_ ?_ ?_
            on_goal 1 => (unfold w_; clear w_)
            on_goal 2 => first | (clear_value w_; intro _; revert w_; intro _ _) | (intro _; revert w_; intro _ _))
         | (refine Does.keep w_.1 ?_ ?_
            on_goal 1 => (unfold w_; clear w_)
            on_goal 2 => first | (clear_value w_; intro _; revert w_; intro _ _) | (intro _; revert w_; intro _ _))
         | (clear_value w_; revert w_; intro _) | (revert w_; intro _))
    | with_reducible apply Does.step (State.act_does ..)
    | with_reducible apply Does.step (State.put_does ..)
    | split
    | intro _
    | dsimp -zeta only

theorem State.writeParts_does (s : State) (m : Sys2Proof.Master) (es : List (ℕ × Sys2Proof.Val)) : s.Does [.clk, .freeCtr, .out, .od, .mem, .time, .cams, .pipe, .tracker, .drive, .seqs, .ledger, .loops, .power, .thermal, .backdrop, .module, .strand, .dict, .side, .dma, .recorder, .update] (State.writeParts s m es).1 := by
  unfold State.writeParts
  repeat' first
    | with_reducible exact Does.refl _ _
    | with_reducible assumption
    | decide
    | with_reducible refine Does.pair (by assumption) ?_
    | with_reducible refine Does.pairSnd (by assumption) ?_
    | with_reducible refine Does.foldl ?_ ?_
    | (extract_lets +onlyGivenNames w_
       first
         | (refine Does.keep w_ ?_ ?_
            on_goal 1 => (unfold w_; clear w_)
            on_goal 2 => first | (clear_value w_; intro _; revert w_; intro _ _) | (intro _; revert w_; intro _ _))
         | (refine Does.keep w_.1 ?_ ?_
            on_goal 1 => (unfold w_; clear w_)
            on_goal 2 => first | (clear_value w_; intro _; revert w_; intro _ _) | (intro _; revert w_; intro _ _))
         | (clear_value w_; revert w_; intro _) | (revert w_; intro _))
    | split
    | with_reducible apply Does.step (State.applyPart_does ..)
    | with_reducible apply Does.step (State.act_does ..)
    | with_reducible apply Does.step (State.bump_does ..)
    | with_reducible apply Does.step (State.stageWrite_does ..)
    | split
    | intro _
    | dsimp -zeta only

theorem State.writeWhole_does (s : State) (m : Sys2Proof.Master) (index : ℕ) (d : List Sys2Proof.Byte) : s.Does [.clk, .freeCtr, .out, .od, .mem, .time, .cams, .pipe, .tracker, .drive, .seqs, .ledger, .loops, .power, .thermal, .backdrop, .module, .strand, .dict, .side, .dma, .recorder, .update] (State.writeWhole s m index d).1 := by
  unfold State.writeWhole
  repeat' first
    | with_reducible exact Does.refl _ _
    | with_reducible assumption
    | decide
    | with_reducible refine Does.pair (by assumption) ?_
    | with_reducible refine Does.pairSnd (by assumption) ?_
    | with_reducible refine Does.foldl ?_ ?_
    | with_reducible refine Does.foldlFst ?_ ?_
    | (extract_lets +onlyGivenNames w_
       first
         | (refine Does.keep w_ ?_ ?_
            on_goal 1 => (unfold w_; clear w_)
            on_goal 2 => first | (clear_value w_; intro _; revert w_; intro _ _) | (intro _; revert w_; intro _ _))
         | (refine Does.keep w_.1 ?_ ?_
            on_goal 1 => (unfold w_; clear w_)
            on_goal 2 => first | (clear_value w_; intro _; revert w_; intro _ _) | (intro _; revert w_; intro _ _))
         | (clear_value w_; revert w_; intro _) | (revert w_; intro _))
    | split
    | with_reducible apply Does.step (State.writeParts_does ..)
    | with_reducible apply Does.step (State.writeAny_does ..)
    | split
    | intro _
    | dsimp -zeta only

theorem State.lockWrite_does (s : State) (m : Sys2Proof.Master) (w : ℕ) : s.Does [.out, .od, .backdrop, .strand, .dict, .side, .recorder] (State.lockWrite s m w) := by
  unfold State.lockWrite
  repeat' first
    | with_reducible exact Does.refl _ _
    | decide
    | with_reducible apply Does.step (actLock_does ..)
    | with_reducible refine Does.trans ?_ (State.write_does (by decide) (by decide) (by decide) _ _ _ _ _ ?_)

theorem State.storeAnswered_does (s : State) (r : StoreRun) (ends : Sys2Proof.StoreEnd) : s.Does [.out, .od, .backdrop, .strand, .dict, .side, .dma, .recorder] (State.storeAnswered s r ends) := by
  unfold State.storeAnswered
  repeat' first
    | with_reducible exact Does.refl _ _
    | with_reducible assumption
    | decide
    | with_reducible refine Does.pair (by assumption) ?_
    | with_reducible refine Does.pairSnd (by assumption) ?_
    | with_reducible refine Does.foldl ?_ ?_
    | (extract_lets +onlyGivenNames w_
       first
         | (refine Does.keep w_ ?_ ?_
            on_goal 1 => (unfold w_; clear w_)
            on_goal 2 => first | (clear_value w_; intro _; revert w_; intro _ _) | (intro _; revert w_; intro _ _))
         | (refine Does.keep w_.1 ?_ ?_
            on_goal 1 => (unfold w_; clear w_)
            on_goal 2 => first | (clear_value w_; intro _; revert w_; intro _ _) | (intro _; revert w_; intro _ _))
         | (clear_value w_; revert w_; intro _) | (revert w_; intro _))
    | with_reducible apply Does.step (State.storeEnds_does ..)
    | with_reducible apply Does.step (State.answer_does ..)
    | split
    | intro _
    | dsimp -zeta only

theorem State.dropWrite_does (s : State) (src : ℕ) (txn : ℕ) : s.Does [.strand] (State.dropWrite s src txn) := by
  unfold State.dropWrite
  repeat' first
    | with_reducible exact Does.refl _ _
    | exact Or.inr (by decide)
    | exact Or.inl rfl
    | exact fun h => ⟨h.mem, h.od, h.cams, h.time, h.pipe, h.tracker, h.drive, h.seqs, h.loops, h.thermal, h.backdrop, by first | exact ⟨h.strand.1, h.strand.2.1, h.strand.2.2⟩ | simpa [Strand.shaped] using h.strand | (have hh := h.strand; clear h; simp_all [Strand.shaped]), h.dict, h.side, h.pins, h.dma, h.recorder⟩
    | with_reducible apply Does.parts

theorem State.dictFinish_does (s : State) (e : DictParts) : s.Does [.clk, .freeCtr, .out, .od, .mem, .time, .cams, .pipe, .tracker, .drive, .seqs, .ledger, .loops, .power, .thermal, .backdrop, .module, .strand, .dict, .side, .dma, .recorder, .update] (State.dictFinish s e) := by
  unfold State.dictFinish
  repeat' first
    | with_reducible exact Does.refl _ _
    | with_reducible assumption
    | decide
    | with_reducible refine Does.pair (by assumption) ?_
    | with_reducible refine Does.pairSnd (by assumption) ?_
    | with_reducible refine Does.foldl ?_ ?_
    | (extract_lets +onlyGivenNames w_
       first
         | (refine Does.keep w_ ?_ ?_
            on_goal 1 => (unfold w_; clear w_)
            on_goal 2 => first | (clear_value w_; intro _; revert w_; intro _ _) | (intro _; revert w_; intro _ _))
         | (refine Does.keep w_.1 ?_ ?_
            on_goal 1 => (unfold w_; clear w_)
            on_goal 2 => first | (clear_value w_; intro _; revert w_; intro _ _) | (intro _; revert w_; intro _ _))
         | (clear_value w_; revert w_; intro _) | (revert w_; intro _))
    | with_reducible apply Does.step (State.writeWhole_does ..)
    | with_reducible apply Does.step (State.writeAny_does ..)
    | with_reducible apply Does.step (State.noteReset_does ..)
    | with_reducible apply Does.step (State.dictAnswer_does ..)
    | with_reducible apply Does.step (State.dropWrite_does ..)
    | with_reducible apply Does.step (State.clearBy_does ..)
    | split
    | intro _
    | dsimp -zeta only

theorem State.keepPart_does (s : State) (e : DictParts) : s.Does [.strand] (State.keepPart s e) := by
  unfold State.keepPart
  repeat' first
    | with_reducible exact Does.refl _ _
    | with_reducible assumption
    | with_reducible apply Does.step (State.dropWrite_does ..)
    | exact Or.inr (by decide)
    | exact Or.inl rfl
    | exact fun h => ⟨h.mem, h.od, h.cams, h.time, h.pipe, h.tracker, h.drive, h.seqs, h.loops, h.thermal, h.backdrop, by first | exact ⟨h.strand.1, h.strand.2.1, h.strand.2.2⟩ | simpa [Strand.shaped] using h.strand | (have hh := h.strand; clear h; simp_all [Strand.shaped]), h.dict, h.side, h.pins, h.dma, h.recorder⟩
    | intro _
    | with_reducible apply Does.parts

theorem State.dictStage_does (s : State) (e : DictParts) (offset : ℕ) (d : List Sys2Proof.Byte) : s.Does [.out, .od, .backdrop, .strand, .dict, .side, .recorder, .update] (State.dictStage s e offset d) := by
  unfold State.dictStage
  repeat' first
    | with_reducible exact Does.refl _ _
    | decide
    | with_reducible refine Does.pair (by assumption) ?_
    | (extract_lets +onlyGivenNames w_
       first
         | (clear_value w_; revert w_; intro _) | (revert w_; intro _))
    | with_reducible apply Does.step (actStaging_does ..)
    | with_reducible apply Does.step (State.dictAnswer_does ..)
    | with_reducible refine Does.trans ?_ (State.tryWrite_does (by decide) (by decide) _ _ _ _ _ ?_)
    | with_reducible apply Does.step (State.keepPart_does ..)
    | with_reducible apply Does.step (State.dropWrite_does ..)
    | split

end Sys2Proof.Machine
end

