-- ==== Sys2Proof/Laws/Sideband.lean ====
section
/-!
SUPPORT. What the operations of Machine/Sideband.lean do.
-/
set_option Elab.async false
set_option linter.all false

namespace Sys2Proof.Machine

theorem State.setSide_does (s : State) (x : Sideband) (hx : s.side.shaped → x.shaped) : s.Does [.side] (s.setSide x) :=
  Does.side x hx

theorem State.setSide_step {ps : List Part} {s u : State} {x : Sideband} (hx : u.side.shaped → x.shaped) (hp : Part.side ∈ ps)
    (g : s.Does ps u) : s.Does ps (u.setSide x) := Does.trans g (Does.mono (Does.side x hx) (by simpa using hp))

theorem State.setRpdo_does (s : State) (n : ℕ) (x : Rpdo) : s.Does [.side] (State.setRpdo s n x) := by
  unfold State.setRpdo
  repeat' first
    | with_reducible exact Does.refl _ _
    | with_reducible assumption
    | decide
    | with_reducible refine Does.pair (by assumption) ?_
    | with_reducible refine Does.pairSnd (by assumption) ?_
    | with_reducible refine Does.foldl ?_ ?_
    | (extract_lets +onlyGivenNames w_
       first
         | (refine Does.keep w_ ?_ ?_
            on_goal 1 => (unfold w_; clear w_)
            on_goal 2 => first | (clear_value w_; intro _; revert w_; intro _ _) | (intro _; revert w_; intro _ _))
         | (refine Does.keep w_.1 ?_ ?_
            on_goal 1 => (unfold w_; clear w_)
            on_goal 2 => first | (clear_value w_; intro _; revert w_; intro _ _) | (intro _; revert w_; intro _ _))
         | (have h_ : Sideband := w_; clear h_; subst w_)
         | (clear_value w_; revert w_; intro _) | (revert w_; intro _))
    | with_reducible apply State.setSide_step
    | exact fun h => ⟨h.1, h.2.1, h.2.2⟩
    | exact fun h => ⟨by simpa using h.1, by simpa using h.2.1, by simpa using h.2.2⟩
    | split
    | intro _
    | dsimp -zeta only

theorem State.busOffEmcy_does (s : State) : s.Does [.od, .side] (State.busOffEmcy s) := by
  unfold State.busOffEmcy
  repeat' first
    | with_reducible exact Does.refl _ _
    | decide
    | with_reducible apply Does.step (State.queueEmcy_does ..)
    | with_reducible apply State.setSide_step
    | exact fun h => ⟨by simpa using h.1, by simpa using h.2.1, by simpa using h.2.2⟩

theorem State.takeRx_does (s : State) (n : ℕ) : s.Does [.side] (State.takeRx s n) := by
  unfold State.takeRx
  repeat' first
    | with_reducible exact Does.refl _ _
    | decide
    | with_reducible apply State.setSide_step
    | exact fun h => ⟨by simpa using h.1, by simpa using h.2.1, by simpa using h.2.2⟩

theorem State.enterNmt_does (s : State) (x : NmtState) : s.Does [.out, .od, .backdrop, .strand, .side, .recorder] (State.enterNmt s x) := by
  unfold State.enterNmt
  repeat' first
    | with_reducible exact Does.refl _ _
    | with_reducible assumption
    | decide
    | with_reducible apply Does.step (State.raise_does ..)
    | with_reducible apply State.setSide_step
    | exact fun h => ⟨by simpa using h.1, by simpa using h.2.1, by simpa using h.2.2⟩
    | split

theorem State.nmtChange_does (s : State) (node : ℕ) (x : NmtState) : s.Does [.out, .od, .backdrop, .strand, .side, .recorder] (State.nmtChange s node x) := by
  unfold State.nmtChange
  repeat' first
    | with_reducible exact Does.refl _ _
    | with_reducible assumption
    | decide
    | (extract_lets +onlyGivenNames w_
       first
         | (refine Does.keep w_ ?_ ?_
            on_goal 1 => (unfold w_; clear w_)
            on_goal 2 => first | (clear_value w_; intro _; revert w_; intro _ _) | (intro _; revert w_; intro _ _)))
    | with_reducible apply Does.step (State.enterNmt_does ..)
    | with_reducible apply Does.step (State.takeRx_does ..)
    | split

theorem State.sdoRequest_does (s : State) : s.Does [.out, .side] (State.sdoRequest s) := by
  unfold State.sdoRequest
  repeat' first
    | with_reducible exact Does.refl _ _
    | with_reducible assumption
    | decide
    | with_reducible refine Does.pair (by assumption) ?_
    | with_reducible refine Does.pairSnd (by assumption) ?_
    | with_reducible refine Does.foldl ?_ ?_
    | (extract_lets +onlyGivenNames w_
       first
         | (refine Does.keep w_ ?_ ?_
            on_goal 1 => (unfold w_; clear w_)
            on_goal 2 => first | (clear_value w_; intro _; revert w_; intro _ _) | (intro _; revert w_; intro _ _))
         | (refine Does.keep w_.1 ?_ ?_
            on_goal 1 => (unfold w_; clear w_)
            on_goal 2 => first | (clear_value w_; intro _; revert w_; intro _ _) | (intro _; revert w_; intro _ _))
         | (clear_value w_; revert w_; intro _) | (revert w_; intro _))
    | with_reducible apply Does.step (State.sdoAbort_does ..)
    | with_reducible apply Does.step (State.takeRx_does ..)
    | split
    | intro _
    | dsimp -zeta only

theorem State.sendTpdo_does (s : State) (n : ℕ) (d : List Sys2Proof.Byte) : s.Does [.side] (State.sendTpdo s n d) := by
  unfold State.sendTpdo
  repeat' first
    | with_reducible exact Does.refl _ _
    | with_reducible assumption
    | with_reducible apply Does.step (State.setTpdo_does ..)
    | with_reducible apply Does.step (State.queueTx_does ..)
    | intro _

theorem State.setTpdo_does (s : State) (n : ℕ) (t : Tpdo) : s.Does [.side] (State.setTpdo s n t) := by
  unfold State.setTpdo
  repeat' first
    | with_reducible exact Does.refl _ _
    | decide
    | with_reducible apply State.setSide_step
    | exact fun h => ⟨by simpa using h.1, by simpa using h.2.1, by simpa using h.2.2⟩

theorem State.tpdoSync_does (s : State) (n : ℕ) : s.Does [.drive, .side, .recorder] (State.tpdoSync s n) := by
  unfold State.tpdoSync
  repeat' first
    | with_reducible exact Does.refl _ _
    | with_reducible assumption
    | decide
    | with_reducible refine Does.pair (by assumption) ?_
    | with_reducible refine Does.pairSnd (by assumption) ?_
    | with_reducible refine Does.foldl ?_ ?_
    | (extract_lets +onlyGivenNames w_
       first
         | (refine Does.keep w_ ?_ ?_
            on_goal 1 => (unfold w_; clear w_)
            on_goal 2 => first | (clear_value w_; intro _; revert w_; intro _ _) | (intro _; revert w_; intro _ _))
         | (refine Does.keep w_.1 ?_ ?_
            on_goal 1 => (unfold w_; clear w_)
            on_goal 2 => first | (clear_value w_; intro _; revert w_; intro _ _) | (intro _; revert w_; intro _ _))
         | (clear_value w_; revert w_; intro _) | (revert w_; intro _))
    | with_reducible apply Does.step (State.sendTpdo_does ..)
    | with_reducible apply Does.step (State.setTpdo_does ..)
    | split
    | intro _
    | dsimp -zeta only

theorem State.sdoRead_does (s : State) (index : ℕ) (sub : ℕ) (complete : Bool) : s.Does [.freeCtr, .out, .cams, .drive, .side, .recorder] (State.sdoRead s index sub complete).1 := by
  unfold State.sdoRead
  repeat' first
    | with_reducible exact Does.refl _ _
    | with_reducible assumption
    | decide
    | with_reducible refine Does.pair (by assumption) ?_
    | with_reducible refine Does.pairSnd (by assumption) ?_
    | with_reducible refine Does.foldl ?_ ?_
    | (extract_lets +onlyGivenNames w_
       first
         | (refine Does.keep w_ ?_ ?_
            on_goal 1 => (unfold w_; clear w_)
            on_goal 2 => first | (clear_value w_; intro _; revert w_; intro _ _) | (intro _; revert w_; intro _ _))
         | (refine Does.keep w_.1 ?_ ?_
            on_goal 1 => (unfold w_; clear w_)
            on_goal 2 => first | (clear_value w_; intro _; revert w_; intro _ _) | (intro _; revert w_; intro _ _))
         | (clear_value w_; revert w_; intro _) | (revert w_; intro _))
    | split
    | with_reducible apply Does.step (State.readObject_does ..)
    | with_reducible apply Does.step (State.readWhole_does ..)
    | with_reducible apply Does.step (State.sdoAbort_does ..)
    | with_reducible apply Does.step (State.answer_does ..)
    | split
    | intro _
    | dsimp -zeta only

theorem State.sdoKeep_does (s : State) (t : SdoTransfer) : s.Does [.side] (State.sdoKeep s t) := by
  unfold State.sdoKeep
  repeat' first
    | with_reducible exact Does.refl _ _
    | with_reducible assumption
    | decide
    | with_reducible refine Does.pair (by assumption) ?_
    | with_reducible refine Does.pairSnd (by assumption) ?_
    | with_reducible refine Does.foldl ?_ ?_
    | (extract_lets +onlyGivenNames w_
       first
         | (refine Does.keep w_ ?_ ?_
            on_goal 1 => (unfold w_; clear w_)
            on_goal 2 => first | (clear_value w_; intro _; revert w_; intro _ _) | (intro _; revert w_; intro _ _))
         | (refine Does.keep w_.1 ?_ ?_
            on_goal 1 => (unfold w_; clear w_)
            on_goal 2 => first | (clear_value w_; intro _; revert w_; intro _ _) | (intro _; revert w_; intro _ _))
         | (have h_ : Sideband := w_; clear h_; subst w_)
         | (clear_value w_; revert w_; intro _) | (revert w_; intro _))
    | with_reducible apply State.setSide_step
    | exact fun h => ⟨h.1, h.2.1, h.2.2⟩
    | exact fun h => ⟨by simpa using h.1, by simpa using h.2.1, by simpa using h.2.2⟩
    | split
    | intro _
    | dsimp -zeta only

theorem State.sdoUploadStart_does (s : State) (index : ℕ) (sub : ℕ) (r : Sys2Proof.SdoUp) : s.Does [.freeCtr, .out, .cams, .drive, .side, .recorder] (State.sdoUploadStart s index sub r) := by
  unfold State.sdoUploadStart
  repeat' first
    | with_reducible exact Does.refl _ _
    | with_reducible assumption
    | decide
    | with_reducible refine Does.pair (by assumption) ?_
    | with_reducible refine Does.pairSnd (by assumption) ?_
    | with_reducible refine Does.foldl ?_ ?_
    | (extract_lets +onlyGivenNames w_
       first
         | (refine Does.keep w_ ?_ ?_
            on_goal 1 => (unfold w_; clear w_)
            on_goal 2 => first | (clear_value w_; intro _; revert w_; intro _ _) | (intro _; revert w_; intro _ _))
         | (refine Does.keep w_.1 ?_ ?_
            on_goal 1 => (unfold w_; clear w_)
            on_goal 2 => first | (clear_value w_; intro _; revert w_; intro _ _) | (intro _; revert w_; intro _ _))
         | (clear_value w_; revert w_; intro _) | (revert w_; intro _))
    | with_reducible apply Does.step (State.sdoRead_does ..)
    | with_reducible apply Does.step (State.sdoAbort_does ..)
    | with_reducible apply Does.step (State.sdoKeep_does ..)
    | with_reducible apply Does.step (State.sdoFrame_does ..)
    | split
    | intro _
    | dsimp -zeta only

theorem State.sdoTake_does (s : State) (t : SdoTransfer) (d : List Sys2Proof.Byte) : s.Does [.out, .od, .backdrop, .strand, .dict, .side, .recorder, .update] (State.sdoTake s t d).1 := by
  unfold State.sdoTake
  repeat' first
    | with_reducible exact Does.refl _ _
    | with_reducible assumption
    | decide
    | with_reducible refine Does.pair (by assumption) ?_
    | with_reducible refine Does.pairSnd (by assumption) ?_
    | with_reducible refine Does.foldl ?_ ?_
    | (extract_lets +onlyGivenNames w_
       first
         | (refine Does.keep w_ ?_ ?_
            on_goal 1 => (unfold w_; clear w_)
            on_goal 2 => first | (clear_value w_; intro _; revert w_; intro _ _) | (intro _; revert w_; intro _ _))
         | (refine Does.keep w_.1 ?_ ?_
            on_goal 1 => (unfold w_; clear w_)
            on_goal 2 => first | (clear_value w_; intro _; revert w_; intro _ _) | (intro _; revert w_; intro _ _))
         | (clear_value w_; revert w_; intro _) | (revert w_; intro _))
    | split
    | with_reducible apply Does.step (actStaging_does ..)
    | with_reducible refine Does.trans ?_ (State.tryWrite_does (by decide) (by decide) _ _ _ _ _ ?_)
    | split
    | intro _
    | dsimp -zeta only

theorem State.sdoBytesIn_does (s : State) (t : SdoTransfer) (d : List Sys2Proof.Byte) : s.Does [.out, .od, .backdrop, .strand, .dict, .side, .recorder, .update] (State.sdoBytesIn s t d).1 := by
  unfold State.sdoBytesIn
  repeat' first
    | with_reducible exact Does.refl _ _
    | with_reducible assumption
    | decide
    | with_reducible refine Does.pair (by assumption) ?_
    | with_reducible refine Does.pairSnd (by assumption) ?_
    | with_reducible refine Does.foldl ?_ ?_
    | (extract_lets +onlyGivenNames w_
       first
         | (refine Does.keep w_ ?_ ?_
            on_goal 1 => (unfold w_; clear w_)
            on_goal 2 => first | (clear_value w_; intro _; revert w_; intro _ _) | (intro _; revert w_; intro _ _))
         | (refine Does.keep w_.1 ?_ ?_
            on_goal 1 => (unfold w_; clear w_)
            on_goal 2 => first | (clear_value w_; intro _; revert w_; intro _ _) | (intro _; revert w_; intro _ _))
         | (clear_value w_; revert w_; intro _) | (revert w_; intro _))
    | split
    | with_reducible apply Does.step (State.sdoTake_does ..)
    | with_reducible apply Does.step (State.sdoAbort_does ..)
    | split
    | intro _
    | dsimp -zeta only

theorem State.sdoWrite_does (s : State) (t : SdoTransfer) : s.Does [.clk, .freeCtr, .out, .od, .mem, .time, .cams, .pipe, .tracker, .drive, .seqs, .ledger, .loops, .power, .thermal, .backdrop, .module, .strand, .dict, .side, .dma, .recorder, .update] (State.sdoWrite s t) := by
  unfold State.sdoWrite
  repeat' first
    | with_reducible exact Does.refl _ _
    | with_reducible assumption
    | decide
    | with_reducible refine Does.pair (by assumption) ?_
    | with_reducible refine Does.pairSnd (by assumption) ?_
    | with_reducible refine Does.foldl ?_ ?_
    | (extract_lets +onlyGivenNames w_
       first
         | (refine Does.keep w_ ?_ ?_
            on_goal 1 => (unfold w_; clear w_)
            on_goal 2 => first | (clear_value w_; intro _; revert w_; intro _ _) | (intro _; revert w_; intro _ _))
         | (refine Does.keep w_.1 ?_ ?_
            on_goal 1 => (unfold w_; clear w_)
            on_goal 2 => first | (clear_value w_; intro _; revert w_; intro _ _) | (intro _; revert w_; intro _ _))
         | (have h_ : Sideband := w_; clear h_; subst w_)
         | (clear_value w_; revert w_; intro _) | (revert w_; intro _))
    | with_reducible apply Does.step (State.writeWhole_does ..)
    | with_reducible apply Does.step (State.writeAny_does ..)
    | with_reducible apply Does.step (State.sdoFinish_does ..)
    | with_reducible apply State.setSide_step
    | with_reducible apply Does.step (State.clearBy_does ..)
    | exact fun h => ⟨h.1, h.2.1, h.2.2⟩
    | exact fun h => ⟨by simpa using h.1, by simpa using h.2.1, by simpa using h.2.2⟩
    | split
    | intro _
    | dsimp -zeta only

theorem State.sdoLast_does (s : State) (t : SdoTransfer) (d : List Sys2Proof.Byte) : s.Does [.clk, .freeCtr, .out, .od, .mem, .time, .cams, .pipe, .tracker, .drive, .seqs, .ledger, .loops, .power, .thermal, .backdrop, .module, .strand, .dict, .side, .dma, .recorder, .update] (State.sdoLast s t d) := by
  unfold State.sdoLast
  repeat' first
    | with_reducible exact Does.refl _ _
    | with_reducible assumption
    | decide
    | with_reducible refine Does.pair (by assumption) ?_
    | with_reducible refine Does.pairSnd (by assumption) ?_
    | with_reducible refine Does.foldl ?_ ?_
    | (extract_lets +onlyGivenNames w_
       first
         | (refine Does.keep w_ ?_ ?_
            on_goal 1 => (unfold w_; clear w_)
            on_goal 2 => first | (clear_value w_; intro _; revert w_; intro _ _) | (intro _; revert w_; intro _ _))
         | (refine Does.keep w_.1 ?_ ?_
            on_goal 1 => (unfold w_; clear w_)
            on_goal 2 => first | (clear_value w_; intro _; revert w_; intro _ _) | (intro _; revert w_; intro _ _))
         | (clear_value w_; revert w_; intro _) | (revert w_; intro _))
    | with_reducible apply Does.step (State.sdoWrite_does ..)
    | with_reducible apply Does.step (State.sdoBytesIn_does ..)
    | split
    | intro _
    | dsimp -zeta only

theorem State.sdoBlockAnswer_does (s : State) (seq : ℕ) : s.Does [.side] (State.sdoBlockAnswer s seq) := by
  unfold State.sdoBlockAnswer
  repeat' first
    | with_reducible exact Does.refl _ _
    | with_reducible assumption
    | decide
    | with_reducible refine Does.pair (by assumption) ?_
    | with_reducible refine Does.pairSnd (by assumption) ?_
    | with_reducible refine Does.foldl ?_ ?_
    | (extract_lets +onlyGivenNames w_
       first
         | (refine Does.keep w_ ?_ ?_
            on_goal 1 => (unfold w_; clear w_)
            on_goal 2 => first | (clear_value w_; intro _; revert w_; intro _ _) | (intro _; revert w_; intro _ _))
         | (refine Does.keep w_.1 ?_ ?_
            on_goal 1 => (unfold w_; clear w_)
            on_goal 2 => first | (clear_value w_; intro _; revert w_; intro _ _) | (intro _; revert w_; intro _ _))
         | (clear_value w_; revert w_; intro _) | (revert w_; intro _))
    | with_reducible apply Does.step (State.sdoBytes_does ..)
    | split
    | intro _
    | dsimp -zeta only

theorem State.sdoDownloading_does (s : State) (t : SdoTransfer) (r : Sys2Proof.SdoDown) (d : List Sys2Proof.Byte) : s.Does [.clk, .freeCtr, .out, .od, .mem, .time, .cams, .pipe, .tracker, .drive, .seqs, .ledger, .loops, .power, .thermal, .backdrop, .module, .strand, .dict, .side, .dma, .recorder, .update] (State.sdoDownloading s t r d) := by
  unfold State.sdoDownloading
  repeat' first
    | with_reducible exact Does.refl _ _
    | with_reducible assumption
    | decide
    | with_reducible refine Does.pair (by assumption) ?_
    | with_reducible refine Does.pairSnd (by assumption) ?_
    | with_reducible refine Does.foldl ?_ ?_
    | (extract_lets +onlyGivenNames w_
       first
         | (refine Does.keep w_ ?_ ?_
            on_goal 1 => (unfold w_; clear w_)
            on_goal 2 => first | (clear_value w_; intro _; revert w_; intro _ _) | (intro _; revert w_; intro _ _))
         | (refine Does.keep w_.1 ?_ ?_
            on_goal 1 => (unfold w_; clear w_)
            on_goal 2 => first | (clear_value w_; intro _; revert w_; intro _ _) | (intro _; revert w_; intro _ _))
         | (have h_ : Sideband := w_; clear h_; subst w_)
         | (clear_value w_; revert w_; intro _) | (revert w_; intro _))
    | with_reducible apply Does.step (State.sdoLast_does ..)
    | with_reducible apply Does.step (State.sdoWrite_does ..)
    | with_reducible apply Does.step (State.sdoBytesIn_does ..)
    | with_reducible apply Does.step (State.sdoAbort_does ..)
    | with_reducible apply Does.step (State.sdoBlockAnswer_does ..)
    | with_reducible apply Does.step (State.sdoBytes_does ..)
    | with_reducible apply Does.step (State.sdoKeep_does ..)
    | with_reducible apply State.setSide_step
    | exact fun h => ⟨h.1, h.2.1, h.2.2⟩
    | exact fun h => ⟨by simpa using h.1, by simpa using h.2.1, by simpa using h.2.2⟩
    | split
    | intro _
    | dsimp -zeta only

theorem State.sdoSegments_does (d : List Sys2Proof.Byte) (first : ℕ) (a2 : ℕ) (a3 : State) : a3.Does [.side] (State.sdoSegments d first a2 a3) := by
  induction a2 generalizing d first a3
  all_goals unfold State.sdoSegments
  · exact Does.refl _ _
  rename_i ih
  repeat' first
    | with_reducible exact Does.refl _ _
    | with_reducible assumption
    | decide
    | with_reducible refine Does.pair (by assumption) ?_
    | with_reducible refine Does.pairSnd (by assumption) ?_
    | with_reducible refine Does.foldl ?_ ?_
    | (extract_lets +onlyGivenNames w_
       first
         | (refine Does.keep w_ ?_ ?_
            on_goal 1 => (unfold w_; clear w_)
            on_goal 2 => first | (clear_value w_; intro _; revert w_; intro _ _) | (intro _; revert w_; intro _ _))
         | (refine Does.keep w_.1 ?_ ?_
            on_goal 1 => (unfold w_; clear w_)
            on_goal 2 => first | (clear_value w_; intro _; revert w_; intro _ _) | (intro _; revert w_; intro _ _))
         | (clear_value w_; revert w_; intro _) | (revert w_; intro _))
    | with_reducible refine Does.step (ih ..) ?_ ?_
    | with_reducible apply Does.step (State.sdoBytes_does ..)
    | split
    | intro _
    | dsimp -zeta only

theorem State.lssAnswer_does (s : State) (cs : ℕ) (d : List Sys2Proof.Byte) : s.Does [.side] (State.lssAnswer s cs d) := by
  unfold State.lssAnswer
  repeat' first
    | with_reducible exact Does.refl _ _
    | decide
    | with_reducible apply Does.step (State.queueTx_does ..)

theorem State.lssService_does {ps : List Part} (h0 : Part.side ∈ ps) (s : State) (act : State → State)
    (ha : ∀ t : State, t.Does ps (act t)) : s.Does ps (s.lssService act) := by
  unfold State.lssService
  dsimp only
  split
  · have h := Does.mono (State.takeRx_does s 3) (show [Part.side] ⊆ ps by simpa using h0)
    split
    · exact Does.trans h (ha _)
    · exact h
  · exact Does.refl _ _

theorem State.sdoSendBlock_does (s : State) (t : SdoTransfer) (crc : Bool) (acked : ℕ) (size : ℕ) : s.Does [.side] (State.sdoSendBlock s t crc acked size) := by
  unfold State.sdoSendBlock
  repeat' first
    | with_reducible exact Does.refl _ _
    | with_reducible assumption
    | decide
    | with_reducible refine Does.pair (by assumption) ?_
    | with_reducible refine Does.pairSnd (by assumption) ?_
    | with_reducible refine Does.foldl ?_ ?_
    | (extract_lets +onlyGivenNames w_
       first
         | (refine Does.keep w_ ?_ ?_
            on_goal 1 => (unfold w_; clear w_)
            on_goal 2 => first | (clear_value w_; intro _; revert w_; intro _ _) | (intro _; revert w_; intro _ _))
         | (refine Does.keep w_.1 ?_ ?_
            on_goal 1 => (unfold w_; clear w_)
            on_goal 2 => first | (clear_value w_; intro _; revert w_; intro _ _) | (intro _; revert w_; intro _ _))
         | (clear_value w_; revert w_; intro _) | (revert w_; intro _))
    | with_reducible apply Does.step (State.sdoSegments_does ..)
    | with_reducible apply Does.step (State.sdoKeep_does ..)
    | split
    | intro _
    | dsimp -zeta only

theorem State.sdoUploading_does (s : State) (t : SdoTransfer) (r : Sys2Proof.SdoUp) : s.Does [.out, .side] (State.sdoUploading s t r) := by
  unfold State.sdoUploading
  repeat' first
    | with_reducible exact Does.refl _ _
    | with_reducible assumption
    | decide
    | with_reducible refine Does.pair (by assumption) ?_
    | with_reducible refine Does.pairSnd (by assumption) ?_
    | with_reducible refine Does.foldl ?_ ?_
    | (extract_lets +onlyGivenNames w_
       first
         | (refine Does.keep w_ ?_ ?_
            on_goal 1 => (unfold w_; clear w_)
            on_goal 2 => first | (clear_value w_; intro _; revert w_; intro _ _) | (intro _; revert w_; intro _ _))
         | (refine Does.keep w_.1 ?_ ?_
            on_goal 1 => (unfold w_; clear w_)
            on_goal 2 => first | (clear_value w_; intro _; revert w_; intro _ _) | (intro _; revert w_; intro _ _))
         | (have h_ : Sideband := w_; clear h_; subst w_)
         | (clear_value w_; revert w_; intro _) | (revert w_; intro _))
    | with_reducible apply Does.step (State.sdoSendBlock_does ..)
    | with_reducible apply Does.step (State.sdoAbort_does ..)
    | with_reducible apply Does.step (State.sdoBytes_does ..)
    | with_reducible apply Does.step (State.sdoKeep_does ..)
    | with_reducible apply State.setSide_step
    | exact fun h => ⟨h.1, h.2.1, h.2.2⟩
    | exact fun h => ⟨by simpa using h.1, by simpa using h.2.1, by simpa using h.2.2⟩
    | split
    | intro _
    | dsimp -zeta only

theorem State.sdoOpen_does (s : State) (index : ℕ) (sub : ℕ) (complete : Bool) (size : Option ℕ) (phase : SdoPhase) (cmd : ℕ) (low : ℕ) : s.Does [.side] (State.sdoOpen s index sub complete size phase cmd low) := by
  unfold State.sdoOpen
  repeat' first
    | with_reducible exact Does.refl _ _
    | with_reducible assumption
    | decide
    | with_reducible refine Does.pair (by assumption) ?_
    | with_reducible refine Does.pairSnd (by assumption) ?_
    | with_reducible refine Does.foldl ?_ ?_
    | (extract_lets +onlyGivenNames w_
       first
         | (refine Does.keep w_ ?_ ?_
            on_goal 1 => (unfold w_; clear w_)
            on_goal 2 => first | (clear_value w_; intro _; revert w_; intro _ _) | (intro _; revert w_; intro _ _))
         | (refine Does.keep w_.1 ?_ ?_
            on_goal 1 => (unfold w_; clear w_)
            on_goal 2 => first | (clear_value w_; intro _; revert w_; intro _ _) | (intro _; revert w_; intro _ _))
         | (clear_value w_; revert w_; intro _) | (revert w_; intro _))
    | with_reducible apply Does.step (State.sdoKeep_does ..)
    | with_reducible apply Does.step (State.sdoFrame_does ..)
    | split
    | intro _
    | dsimp -zeta only

theorem State.sdoDownloadStart_does (s : State) (index : ℕ) (sub : ℕ) (complete : Bool) (d : List Sys2Proof.Byte) (r : Sys2Proof.SdoDown) : s.Does [.clk, .freeCtr, .out, .od, .mem, .time, .cams, .pipe, .tracker, .drive, .seqs, .ledger, .loops, .power, .thermal, .backdrop, .module, .strand, .dict, .side, .dma, .recorder, .update] (State.sdoDownloadStart s index sub complete d r) := by
  unfold State.sdoDownloadStart
  repeat' first
    | with_reducible exact Does.refl _ _
    | with_reducible assumption
    | decide
    | with_reducible refine Does.pair (by assumption) ?_
    | with_reducible refine Does.pairSnd (by assumption) ?_
    | with_reducible refine Does.foldl ?_ ?_
    | (extract_lets +onlyGivenNames w_
       first
         | (refine Does.keep w_ ?_ ?_
            on_goal 1 => (unfold w_; clear w_)
            on_goal 2 => first | (clear_value w_; intro _; revert w_; intro _ _) | (intro _; revert w_; intro _ _))
         | (refine Does.keep w_.1 ?_ ?_
            on_goal 1 => (unfold w_; clear w_)
            on_goal 2 => first | (clear_value w_; intro _; revert w_; intro _ _) | (intro _; revert w_; intro _ _))
         | (clear_value w_; revert w_; intro _) | (revert w_; intro _))
    | with_reducible apply Does.step (State.sdoLast_does ..)
    | with_reducible apply Does.step (State.sdoOpen_does ..)
    | with_reducible apply Does.step (State.sdoAbort_does ..)
    | split
    | intro _
    | dsimp -zeta only

theorem State.pdoWrite_does (s : State) (k : ℕ) (d : List Sys2Proof.Byte) : s.Does [.clk, .freeCtr, .out, .od, .mem, .time, .cams, .pipe, .tracker, .drive, .seqs, .ledger, .loops, .power, .thermal, .backdrop, .module, .strand, .dict, .side, .dma, .recorder, .update] (State.pdoWrite s k d) := by
  unfold State.pdoWrite
  repeat' first
    | with_reducible exact Does.refl _ _
    | with_reducible assumption
    | decide
    | with_reducible refine Does.pair (by assumption) ?_
    | with_reducible refine Does.pairSnd (by assumption) ?_
    | with_reducible refine Does.foldl ?_ ?_
    | (extract_lets +onlyGivenNames w_
       first
         | (refine Does.keep w_ ?_ ?_
            on_goal 1 => (unfold w_; clear w_)
            on_goal 2 => first | (clear_value w_; intro _; revert w_; intro _ _) | (intro _; revert w_; intro _ _))
         | (refine Does.keep w_.1 ?_ ?_
            on_goal 1 => (unfold w_; clear w_)
            on_goal 2 => first | (clear_value w_; intro _; revert w_; intro _ _) | (intro _; revert w_; intro _ _))
         | (clear_value w_; revert w_; intro _) | (revert w_; intro _))
    | with_reducible apply Does.step (State.act_does ..)
    | split
    | intro _
    | dsimp -zeta only

theorem State.pdoWriteAll_does (a0 : List (ℕ × ℕ)) (a1 : List Sys2Proof.Byte) (a2 : State) : a2.Does [.clk, .freeCtr, .out, .od, .mem, .time, .cams, .pipe, .tracker, .drive, .seqs, .ledger, .loops, .power, .thermal, .backdrop, .module, .strand, .dict, .side, .dma, .recorder, .update] (State.pdoWriteAll a0 a1 a2) := by
  induction a0 generalizing a1 a2
  all_goals unfold State.pdoWriteAll
  · exact Does.refl _ _
  rename_i ih
  repeat' first
    | with_reducible exact Does.refl _ _
    | with_reducible assumption
    | decide
    | with_reducible refine Does.pair (by assumption) ?_
    | with_reducible refine Does.pairSnd (by assumption) ?_
    | with_reducible refine Does.foldl ?_ ?_
    | (extract_lets +onlyGivenNames w_
       first
         | (refine Does.keep w_ ?_ ?_
            on_goal 1 => (unfold w_; clear w_)
            on_goal 2 => first | (clear_value w_; intro _; revert w_; intro _ _) | (intro _; revert w_; intro _ _))
         | (refine Does.keep w_.1 ?_ ?_
            on_goal 1 => (unfold w_; clear w_)
            on_goal 2 => first | (clear_value w_; intro _; revert w_; intro _ _) | (intro _; revert w_; intro _ _))
         | (clear_value w_; revert w_; intro _) | (revert w_; intro _))
    | with_reducible refine Does.step (ih ..) ?_ ?_
    | with_reducible apply Does.step (State.pdoWrite_does ..)
    | split
    | intro _
    | dsimp -zeta only

theorem State.applyRpdo_does (s : State) (n : ℕ) (d : List Sys2Proof.Byte) : s.Does [.clk, .freeCtr, .out, .od, .mem, .time, .cams, .pipe, .tracker, .drive, .seqs, .ledger, .loops, .power, .thermal, .backdrop, .module, .strand, .dict, .side, .dma, .recorder, .update] (State.applyRpdo s n d) := by
  unfold State.applyRpdo
  repeat' first
    | with_reducible exact Does.refl _ _
    | with_reducible assumption
    | decide
    | with_reducible refine Does.pair (by assumption) ?_
    | with_reducible refine Does.pairSnd (by assumption) ?_
    | with_reducible refine Does.foldl ?_ ?_
    | (extract_lets +onlyGivenNames w_
       first
         | (refine Does.keep w_ ?_ ?_
            on_goal 1 => (unfold w_; clear w_)
            on_goal 2 => first | (clear_value w_; intro _; revert w_; intro _ _) | (intro _; revert w_; intro _ _))
         | (refine Does.keep w_.1 ?_ ?_
            on_goal 1 => (unfold w_; clear w_)
            on_goal 2 => first | (clear_value w_; intro _; revert w_; intro _ _) | (intro _; revert w_; intro _ _))
         | (clear_value w_; revert w_; intro _) | (revert w_; intro _))
    | with_reducible apply Does.step (State.pdoWriteAll_does ..)
    | with_reducible apply Does.step (State.bump_does ..)
    | split
    | intro _
    | dsimp -zeta only

theorem State.lssInquire_does (s : State) (i : ℕ) : s.Does [.side] (State.lssInquire s i) := by
  unfold State.lssInquire
  repeat' first
    | with_reducible exact Does.refl _ _
    | decide
    | with_reducible refine Does.trans ?_ (State.lssService_does (by decide) _ _ ?_)
    | with_reducible apply Does.step (State.lssAnswer_does ..)
    | intro _

theorem State.reloadComm_does (s : State) : s.Does [.od, .side] (State.reloadComm s) := by
  unfold State.reloadComm
  repeat' first
    | with_reducible exact Does.refl _ _
    | with_reducible assumption
    | decide
    | with_reducible refine Does.pair (by assumption) ?_
    | with_reducible refine Does.pairSnd (by assumption) ?_
    | with_reducible refine Does.foldl ?_ ?_
    | (extract_lets +onlyGivenNames w_
       first
         | (refine Does.keep w_ ?_ ?_
            on_goal 1 => (unfold w_; clear w_)
            on_goal 2 => first | (clear_value w_; intro _; revert w_; intro _ _) | (intro _; revert w_; intro _ _))
         | (refine Does.keep w_.1 ?_ ?_
            on_goal 1 => (unfold w_; clear w_)
            on_goal 2 => first | (clear_value w_; intro _; revert w_; intro _ _) | (intro _; revert w_; intro _ _))
         | (have h_ : Sideband := w_; clear h_; subst w_)
         | subst w_)
    | with_reducible apply State.setSide_step
    | exact fun h => ⟨h.1, h.2.1, h.2.2⟩
    | exact fun h => ⟨by simpa using h.1, by simpa using h.2.1, by simpa using h.2.2⟩
    | exact Or.inr (by decide)
    | exact Or.inl rfl
    | exact fun h => ⟨h.mem, by first | exact h.od | exact assocSorted_foldlMap _ _ (assocSorted_filter _ h.od), h.cams, h.time, h.pipe, h.tracker, h.drive, h.seqs, h.loops, h.thermal, h.backdrop, h.strand, h.dict, h.side, h.pins, h.dma, h.recorder⟩
    | split
    | intro _
    | dsimp -zeta only
    | with_reducible apply Does.parts

theorem State.bootNode_does (s : State) (id : ℕ) (canbt : ℕ) : s.Does [.out, .od, .backdrop, .strand, .side, .recorder] (State.bootNode s id canbt) := by
  unfold State.bootNode
  repeat' first
    | with_reducible exact Does.refl _ _
    | with_reducible assumption
    | decide
    | with_reducible apply Does.step (State.enterNmt_does ..)
    | with_reducible apply Does.step (State.reloadComm_does ..)
    | with_reducible apply Does.step (State.queueTx_does ..)
    | with_reducible apply State.setSide_step
    | exact fun h => ⟨by simpa using h.1, by simpa using h.2.1, by simpa using h.2.2⟩
    | split

theorem State.hear_does (s : State) (id : ℕ) : s.Does [.side] (State.hear s id) := by
  unfold State.hear
  repeat' first
    | with_reducible exact Does.refl _ _
    | with_reducible assumption
    | decide
    | with_reducible refine Does.pair (by assumption) ?_
    | with_reducible refine Does.pairSnd (by assumption) ?_
    | with_reducible refine Does.foldl ?_ ?_
    | (extract_lets +onlyGivenNames w_
       first
         | (refine Does.keep w_ ?_ ?_
            on_goal 1 => (unfold w_; clear w_)
            on_goal 2 => first | (clear_value w_; intro _; revert w_; intro _ _) | (intro _; revert w_; intro _ _))
         | (refine Does.keep w_.1 ?_ ?_
            on_goal 1 => (unfold w_; clear w_)
            on_goal 2 => first | (clear_value w_; intro _; revert w_; intro _ _) | (intro _; revert w_; intro _ _))
         | (have h_ : Sideband := w_; clear h_; subst w_)
         | (clear_value w_; revert w_; intro _) | (revert w_; intro _))
    | with_reducible apply State.setSide_step
    | exact fun h => ⟨h.1, h.2.1, h.2.2⟩
    | exact fun h => ⟨by simpa using h.1, by simpa using h.2.1, by simpa using h.2.2⟩
    | split
    | intro _
    | dsimp -zeta only

theorem State.islandBoot_does (s : State) : s.Does [.out, .od, .backdrop, .strand, .side, .recorder] (State.islandBoot s) := by
  unfold State.islandBoot
  repeat' first
    | with_reducible exact Does.refl _ _
    | with_reducible assumption
    | decide
    | with_reducible refine Does.pair (by assumption) ?_
    | with_reducible refine Does.pairSnd (by assumption) ?_
    | with_reducible refine Does.foldl ?_ ?_
    | (extract_lets +onlyGivenNames w_
       first
         | (refine Does.keep w_ ?_ ?_
            on_goal 1 => (unfold w_; clear w_)
            on_goal 2 => first | (clear_value w_; intro _; revert w_; intro _ _) | (intro _; revert w_; intro _ _))
         | (refine Does.keep w_.1 ?_ ?_
            on_goal 1 => (unfold w_; clear w_)
            on_goal 2 => first | (clear_value w_; intro _; revert w_; intro _ _) | (intro _; revert w_; intro _ _))
         | (have h_ : Sideband := w_; clear h_; subst w_)
         | (clear_value w_; revert w_; intro _) | (revert w_; intro _))
    | with_reducible apply Does.step (State.bootNode_does ..)
    | with_reducible apply Does.step (State.bumpBy_does ..)
    | with_reducible apply State.setSide_step
    | exact fun h => ⟨h.1, h.2.1, h.2.2⟩
    | exact fun h => ⟨by simpa using h.1, by simpa using h.2.1, by simpa using h.2.2⟩
    | split
    | intro _
    | dsimp -zeta only

theorem State.enterBusOff_does (s : State) : s.Does [.out, .od, .backdrop, .strand, .side, .recorder] (State.enterBusOff s) := by
  unfold State.enterBusOff
  repeat' first
    | with_reducible exact Does.refl _ _
    | with_reducible assumption
    | decide
    | with_reducible refine Does.pair (by assumption) ?_
    | with_reducible refine Does.pairSnd (by assumption) ?_
    | with_reducible refine Does.foldl ?_ ?_
    | (extract_lets +onlyGivenNames w_
       first
         | (refine Does.keep w_ ?_ ?_
            on_goal 1 => (unfold w_; clear w_)
            on_goal 2 => first | (clear_value w_; intro _; revert w_; intro _ _) | (intro _; revert w_; intro _ _))
         | (refine Does.keep w_.1 ?_ ?_
            on_goal 1 => (unfold w_; clear w_)
            on_goal 2 => first | (clear_value w_; intro _; revert w_; intro _ _) | (intro _; revert w_; intro _ _))
         | (have h_ : Backdrop := w_; clear h_; subst w_)
         | (have h_ : Sideband := w_; clear h_; subst w_)
         | (clear_value w_; revert w_; intro _) | (revert w_; intro _))
    | with_reducible apply Does.step (State.raise_does ..)
    | with_reducible apply Does.step (State.severeTrigger_does ..)
    | with_reducible apply Does.step (State.raiseLow_does ..)
    | with_reducible apply Does.step (State.busOffEmcy_does ..)
    | with_reducible apply State.setSide_step
    | exact fun h => ⟨h.1, h.2.1, h.2.2⟩
    | exact fun h => ⟨by simpa using h.1, by simpa using h.2.1, by simpa using h.2.2⟩
    | exact Or.inr (by decide)
    | exact Or.inl rfl
    | exact fun h => ⟨h.mem, h.od, h.cams, h.time, h.pipe, h.tracker, h.drive, h.seqs, h.loops, h.thermal, by first | exact ⟨h.backdrop.1, h.backdrop.2.1, h.backdrop.2.2⟩ | simpa [Backdrop.shaped] using h.backdrop | (have hh := h.backdrop; clear h; simp_all [Backdrop.shaped]), h.strand, h.dict, h.side, h.pins, h.dma, h.recorder⟩
    | split
    | intro _
    | dsimp -zeta only
    | with_reducible apply Does.parts

theorem State.tpdoSent_does (s : State) (n : ℕ) (d : List Sys2Proof.Byte) : s.Does [.side] (State.tpdoSent s n d) := by
  unfold State.tpdoSent
  repeat' first
    | with_reducible exact Does.refl _ _
    | with_reducible assumption
    | decide
    | with_reducible refine Does.pair (by assumption) ?_
    | with_reducible refine Does.pairSnd (by assumption) ?_
    | with_reducible refine Does.foldl ?_ ?_
    | (extract_lets +onlyGivenNames w_
       first
         | (refine Does.keep w_ ?_ ?_
            on_goal 1 => (unfold w_; clear w_)
            on_goal 2 => first | (clear_value w_; intro _; revert w_; intro _ _) | (intro _; revert w_; intro _ _))
         | (refine Does.keep w_.1 ?_ ?_
            on_goal 1 => (unfold w_; clear w_)
            on_goal 2 => first | (clear_value w_; intro _; revert w_; intro _ _) | (intro _; revert w_; intro _ _))
         | (clear_value w_; revert w_; intro _) | (revert w_; intro _))
    | with_reducible apply Does.step (State.setTpdo_does ..)
    | split
    | intro _
    | dsimp -zeta only

theorem State.resetComm_does (s : State) : s.Does [.out, .od, .backdrop, .strand, .side, .recorder] (State.resetComm s) := by
  unfold State.resetComm
  repeat' first
    | with_reducible exact Does.refl _ _
    | decide
    | with_reducible apply Does.step (State.bootNode_does ..)

theorem State.settleCan_does (s : State) : s.Does [.out, .od, .backdrop, .strand, .side, .recorder] (State.settleCan s) := by
  unfold State.settleCan
  repeat' first
    | with_reducible exact Does.refl _ _
    | with_reducible assumption
    | decide
    | with_reducible refine Does.pair (by assumption) ?_
    | with_reducible refine Does.pairSnd (by assumption) ?_
    | with_reducible refine Does.foldl ?_ ?_
    | (extract_lets +onlyGivenNames w_
       first
         | (refine Does.keep w_ ?_ ?_
            on_goal 1 => (unfold w_; clear w_)
            on_goal 2 => first | (clear_value w_; intro _; revert w_; intro _ _) | (intro _; revert w_; intro _ _))
         | (refine Does.keep w_.1 ?_ ?_
            on_goal 1 => (unfold w_; clear w_)
            on_goal 2 => first | (clear_value w_; intro _; revert w_; intro _ _) | (intro _; revert w_; intro _ _))
         | (have h_ : Sideband := w_; clear h_; subst w_)
         | (clear_value w_; revert w_; intro _) | (revert w_; intro _))
    | with_reducible apply Does.step (State.enterBusOff_does ..)
    | with_reducible apply Does.step (State.raise_does ..)
    | with_reducible apply State.setSide_step
    | exact fun h => ⟨h.1, h.2.1, h.2.2⟩
    | exact fun h => ⟨by simpa using h.1, by simpa using h.2.1, by simpa using h.2.2⟩
    | split
    | intro _
    | dsimp -zeta only

theorem State.landFrame_does (s : State) (n : Nat) (d : List Byte) :
    s.Does [.out, .od, .backdrop, .strand, .side, .recorder] (s.landFrame n d) := by
  unfold State.landFrame
  dsimp only
  have set : ∀ x : RxBuffer, s.Does [.out, .od, .backdrop, .strand, .side, .recorder] (s.setSide { s.side with rx := s.side.rx.set n x }) :=
    fun x => Does.mono (Does.side _ fun h => ⟨by simpa using h.1, h.2.1, h.2.2⟩) (by decide)
  split
  · exact set _
  · split
    · exact set _
    · exact Does.step (State.raiseSlow_does ..) (by decide) (Does.step (State.bump_does ..) (by decide) (set _))

theorem State.rpdoSync_does (s : State) (n : ℕ) : s.Does [.clk, .freeCtr, .out, .od, .mem, .time, .cams, .pipe, .tracker, .drive, .seqs, .ledger, .loops, .power, .thermal, .backdrop, .module, .strand, .dict, .side, .dma, .recorder, .update] (State.rpdoSync s n) := by
  unfold State.rpdoSync
  repeat' first
    | with_reducible exact Does.refl _ _
    | with_reducible assumption
    | decide
    | with_reducible refine Does.pair (by assumption) ?_
    | with_reducible refine Does.pairSnd (by assumption) ?_
    | with_reducible refine Does.foldl ?_ ?_
    | (extract_lets +onlyGivenNames w_
       first
         | (refine Does.keep w_ ?_ ?_
            on_goal 1 => (unfold w_; clear w_)
            on_goal 2 => first | (clear_value w_; intro _; revert w_; intro _ _) | (intro _; revert w_; intro _ _))
         | (refine Does.keep w_.1 ?_ ?_
            on_goal 1 => (unfold w_; clear w_)
            on_goal 2 => first | (clear_value w_; intro _; revert w_; intro _ _) | (intro _; revert w_; intro _ _))
         | (clear_value w_; revert w_; intro _) | (revert w_; intro _))
    | with_reducible apply Does.step (State.applyRpdo_does ..)
    | with_reducible apply Does.step (State.setRpdo_does ..)
    | split
    | intro _
    | dsimp -zeta only

theorem State.islandReset_does (s : State) : s.Does [.out, .od, .backdrop, .module, .strand, .side, .recorder] (State.islandReset s) := by
  unfold State.islandReset
  repeat' first
    | with_reducible exact Does.refl _ _
    | decide
    | with_reducible apply Does.step (State.islandBoot_does ..)
    | exact Or.inr (by decide)
    | exact Or.inl rfl
    | exact fun h => ⟨h.mem, h.od, h.cams, h.time, h.pipe, h.tracker, h.drive, h.seqs, h.loops, h.thermal, h.backdrop, h.strand, h.dict, h.side, h.pins, h.dma, h.recorder⟩
    | with_reducible apply Does.parts

theorem State.rpdoLength_does (s : State) (short : Bool) (n : ℕ) : s.Does [.out, .od, .backdrop, .strand, .side, .recorder] (State.rpdoLength s short n) := by
  unfold State.rpdoLength
  repeat' first
    | with_reducible exact Does.refl _ _
    | decide
    | with_reducible apply Does.step (State.raiseSlow_does ..)
    | with_reducible apply Does.step (State.queueEmcy_does ..)

theorem State.received__does (s : State) : s.Does [.freeCtr, .side] (State.received_ s) := by
  unfold State.received_
  repeat' first
    | with_reducible exact Does.refl _ _
    | decide
    | with_reducible apply Does.step (State.draw_does ..)
    | with_reducible apply State.setSide_step
    | exact fun h => ⟨by simpa using h.1, by simpa using h.2.1, by simpa using h.2.2⟩
    | split

end Sys2Proof.Machine
end

