-- ==== Sys2Proof/Laws/Island.lean ====
section
/-!
SUPPORT. What the operations of Machine/Island.lean do.
-/
set_option Elab.async false
set_option linter.all false

namespace Sys2Proof.Machine

theorem State.fanRatioSample_does (s : State) (fan : ℕ) (rpm : ℚ) : s.Does [.ledger, .thermal] (State.fanRatioSample s fan rpm) := by
  unfold State.fanRatioSample
  repeat' first
    | with_reducible exact Does.refl _ _
    | decide
    | with_reducible apply Does.step (State.setLedger_does ..)
    | exact Or.inr (by decide)
    | exact Or.inl rfl
    | exact fun h => ⟨h.mem, h.od, h.cams, h.time, h.pipe, h.tracker, h.drive, h.seqs, h.loops, by first | exact h.thermal | simpa [Thermal.shaped] using h.thermal | (have hh := h.thermal; clear h; simp_all [Thermal.shaped]), h.backdrop, h.strand, h.dict, h.side, h.pins, h.dma, h.recorder⟩
    | split
    | with_reducible apply Does.parts

theorem State.setFault_does (s : State) (n : ℕ) (x : Option ℕ) : s.Does [.pins] (State.setFault s n x) := by
  unfold State.setFault
  repeat' first
    | with_reducible exact Does.refl _ _
    | exact Or.inr (by decide)
    | exact Or.inl rfl
    | exact fun h => ⟨h.mem, h.od, h.cams, h.time, h.pipe, h.tracker, h.drive, h.seqs, h.loops, h.thermal, h.backdrop, h.strand, h.dict, h.side, by first | exact h.pins | simpa [Pins.shaped] using h.pins | (have hh := h.pins; clear h; simp_all [Pins.shaped]), h.dma, h.recorder⟩
    | with_reducible apply Does.parts

end Sys2Proof.Machine
end

