-- ==== Sys2Proof/Laws/Keeps.lean ====
section
/-!
SUPPORT. Which objects of the dictionary an operation may write: how the claims `Keeps` of operations are put together.
-/
set_option Elab.async false
set_option linter.all false

namespace Sys2Proof.Machine

/-- Every object of the sets `js` stands in one of the sets `ks`. -/
def Cov (js ks : List KeySet) : Prop := ∀ k, ∀ x ∈ js, x.has k → ∃ y ∈ ks, y.has k

variable {ps : List Part} {js ks : List KeySet} {s t u : State}

theorem Cov.of_subset (h : js ⊆ ks) : Cov js ks := fun _ x hx hk => ⟨x, h hx, hk⟩

theorem Cov.mem {x : KeySet} (h : x ∈ ks) : Cov [x] ks := fun _ _ hz hk => ⟨x, h, List.mem_singleton.1 hz ▸ hk⟩

theorem Cov.cons {x y : KeySet} (h : Cov [x] ks) (g : Cov (y :: js) ks) : Cov (x :: y :: js) ks :=
  fun k z hz hk => by
    rcases List.mem_cons.1 hz with rfl | hz
    · exact h k z (List.mem_singleton.2 rfl) hk
    · exact g k z hz hk

theorem Cov.group {i g : Nat} (hg : g < 32) (h : KeySet.groups i ∈ ks) : Cov [.one (groupKey i g)] ks :=
  fun _ x hx hk => by obtain rfl := List.mem_singleton.1 hx; exact ⟨_, h, g, hg, hk⟩

theorem Cov.valve {i v : Nat} (hv : v < 256) (h : KeySet.valves i ∈ ks) : Cov [.one (valveKey i v)] ks :=
  fun _ x hx hk => by obtain rfl := List.mem_singleton.1 hx; exact ⟨_, h, v, hv, hk⟩

theorem Cov.port {i j p : Nat} (hp : p < 4) (h : KeySet.ports i j ∈ ks) : Cov [.one (camKey p i j)] ks :=
  fun _ x hx hk => by obtain rfl := List.mem_singleton.1 hx; exact ⟨_, h, p, hp, hk⟩

theorem Cov.slot {i j n : Nat} (hn : n < 8) (h : KeySet.slots i j ∈ ks) : Cov [.one (slotKey n i j)] ks :=
  fun _ x hx hk => by obtain rfl := List.mem_singleton.1 hx; exact ⟨_, h, n, hn, hk⟩

/-- The latest frame of every port, 0x2407:07 to :0A. -/
theorem Cov.latest {p : Nat} (hp : p < 4) (h0 : KeySet.one (obj 0x2407 7) ∈ ks) (h1 : KeySet.one (obj 0x2407 8) ∈ ks)
    (h2 : KeySet.one (obj 0x2407 9) ∈ ks) (h3 : KeySet.one (obj 0x2407 10) ∈ ks) : Cov [.one (obj 0x2407 (7 + p))] ks := by
  have h : p = 0 ∨ p = 1 ∨ p = 2 ∨ p = 3 := by omega
  rcases h with rfl | rfl | rfl | rfl
  · exact Cov.mem h0
  · exact Cov.mem h1
  · exact Cov.mem h2
  · exact Cov.mem h3

theorem Cov.frame {k : Nat} (hk : k ∈ frameKeys) (h : KeySet.frames ∈ ks) : Cov [.one k] ks :=
  fun _ x hx he => by obtain rfl := List.mem_singleton.1 hx; exact ⟨_, h, he ▸ hk⟩

theorem Cov.event {k : Nat} (hk : k ∈ eventKeys) (h : KeySet.events ∈ ks) : Cov [.one k] ks :=
  fun _ x hx he => by obtain rfl := List.mem_singleton.1 hx; exact ⟨_, h, he ▸ hk⟩

theorem Keeps.refl (ks : List KeySet) (s : State) : s.Keeps ks s := ⟨fun _ _ => rfl⟩

theorem Keeps.mono (h : s.Keeps js t) (c : Cov js ks) : s.Keeps ks t :=
  ⟨fun k hk => h.val k fun x hx hx' => by obtain ⟨y, hy, hy'⟩ := c k x hx hx'; exact hk y hy hy'⟩

theorem Keeps.trans (g : s.Keeps ks t) (h : t.Keeps ks u) : s.Keeps ks u :=
  ⟨fun k hk => (h.val k hk).trans (g.val k hk)⟩

/-- The last of several operations. -/
theorem Keeps.step (h : t.Keeps js u) (c : Cov js ks) (g : s.Keeps ks t) : s.Keeps ks u := Keeps.trans g (Keeps.mono h c)

theorem State.val_congr (h : u.od = t.od) (hv : u.variant = t.variant) (hn : u.side.nodeId = t.side.nodeId) (k : Nat) : u.val k = t.val k := by
  unfold State.val State.dflt
  rw [h, hv, hn]

/-- An operation that touches neither the dictionary's values nor the side-band. -/
theorem Does.keeps (h : s.Does ps t) (hp : Part.od ∉ ps ∧ Part.variant ∉ ps ∧ Part.side ∉ ps) : s.Keeps ks t :=
  ⟨fun k _ => State.val_congr (h.only _ hp.1) (h.only _ hp.2.1) (congrArg Sideband.nodeId (h.only _ hp.2.2)) k⟩

theorem Keeps.skip (h : t.Does ps u) (hp : Part.od ∉ ps ∧ Part.variant ∉ ps ∧ Part.side ∉ ps) (g : s.Keeps ks t) : s.Keeps ks u :=
  Keeps.trans g (Does.keeps h hp)

theorem Keeps.keep (x : State) (h : s.Keeps ks x) (k : s.Keeps ks x → s.Keeps ks u) : s.Keeps ks u := k h

theorem Keeps.pair {α : Type} {f : State × α} {b : α} (h : f = (t, b)) (k : s.Keeps ks f.1) : s.Keeps ks t := by subst h; exact k

theorem Keeps.pairSnd {α : Type} {f : α × State} {b : α} (h : f = (b, t)) (k : s.Keeps ks f.2) : s.Keeps ks t := by subst h; exact k

theorem Keeps.foldl {α : Type} {f : State → α → State} {l : List α} (h : ∀ (t : State) (x : α), t.Keeps ks (f t x)) (g : s.Keeps ks t) :
    s.Keeps ks (l.foldl f t) := by
  induction l generalizing t with
  | nil => exact g
  | cons x r ih => exact ih (Keeps.trans g (h t x))

theorem Keeps.foldlMem {α : Type} {f : State → α → State} {l : List α} (h : ∀ (t : State) (x : α), x ∈ l → t.Keeps ks (f t x))
    (g : s.Keeps ks t) : s.Keeps ks (l.foldl f t) := by
  induction l generalizing t with
  | nil => exact g
  | cons x r ih => exact ih (fun t y hy => h t y (List.mem_cons_of_mem _ hy)) (Keeps.trans g (h t x List.mem_cons_self))

theorem Keeps.foldlFst {α β : Type} {f : State × β → α → State × β} {l : List α} {r : State × β}
    (h : ∀ (t : State) (b : β) (x : α), t.Keeps ks (f (t, b) x).1) (g : s.Keeps ks r.1) : s.Keeps ks (l.foldl f r).1 := by
  induction l generalizing r with
  | nil => exact g
  | cons x l ih => exact ih (Keeps.trans g (h r.1 r.2 x))

/-- A state with some parts replaced, the dictionary's values and the node-ID among those that stand. -/
theorem Keeps.parts {a_pending} {a_variant} {a_clk} {a_freeCtr} {a_out} {a_od} {a_mem} {a_time} {a_cams} {a_pipe} {a_tracker} {a_drive} {a_seqs}
    {a_ledger} {a_loops} {a_power} {a_thermal} {a_backdrop} {a_module} {a_strand} {a_dict} {a_side} {a_pins} {a_dma} {a_recorder} {a_update}
    (t : State) (h_pending : t.pending = a_pending) (h_od : t.od = a_od) (h_variant : t.variant = a_variant)
    (h_side : t.side.nodeId = Sideband.nodeId a_side) (g : s.Keeps ks t) :
    s.Keeps ks (State.mk a_pending a_variant a_clk a_freeCtr a_out a_od a_mem a_time a_cams a_pipe a_tracker a_drive a_seqs a_ledger a_loops
      a_power a_thermal a_backdrop a_module a_strand a_dict a_side a_pins a_dma a_recorder a_update) :=
  have _ := h_pending
  Keeps.trans g ⟨fun k _ => State.val_congr (t := t) h_od.symm h_variant.symm h_side.symm k⟩

theorem State.put_keeps (s : State) (k : Nat) (v : Val) : s.Keeps [.one k] (s.put k v) := by
  refine ⟨fun j hj => ?_⟩
  have h : j ≠ k := fun e => hj (.one k) (List.mem_singleton.2 rfl) e
  have e : assocGet (s.put k v).od j = assocGet s.od j := assocGet_assocSet_ne _ _ _ _ h
  unfold State.val
  rw [e]
  rfl

theorem State.putNat_keeps (s : State) (k v : Nat) : s.Keeps [.one k] (s.putNat k v) := State.put_keeps s k _

theorem State.putInt_keeps (s : State) (k : Nat) (v : Int) : s.Keeps [.one k] (s.putInt k v) := State.put_keeps s k _

theorem State.bumpBy_keeps (s : State) (k n : Nat) : s.Keeps [.one k] (s.bumpBy k n) := State.put_keeps s k _

theorem State.bump_keeps (s : State) (k : Nat) : s.Keeps [.one k] (s.bump k) := State.put_keeps s k _

/-- An operation that drops the counters a clear resets, and no other object. -/
theorem Keeps.clear {f : Nat × Val → Bool} (hf : ∀ p, clearedWithRecorder p.1 = false → f p = true) (h_od : t.od.filter f = u.od)
    (h_variant : t.variant = u.variant) (h_side : t.side.nodeId = u.side.nodeId) (g : s.Keeps (.cleared :: ks) t) :
    s.Keeps (.cleared :: ks) u :=
  Keeps.trans g <| by
    refine ⟨fun k hk => ?_⟩
    have hc : clearedWithRecorder k = false := by simpa [KeySet.has] using hk .cleared List.mem_cons_self
    have e : assocGet (t.od.filter f) k = assocGet t.od k := by
      induction t.od with
      | nil => rfl
      | cons a r ih =>
        obtain ⟨j, v⟩ := a
        by_cases hj : j = k
        · subst hj
          rw [List.filter_cons_of_pos (hf (j, v) hc)]
          simp [assocGet]
        · by_cases hx : f (j, v) = true
          · rw [List.filter_cons_of_pos hx]
            simp [assocGet, hj, ih]
          · rw [List.filter_cons_of_neg hx]
            simp [assocGet, hj, ih]
    unfold State.val State.dflt
    rw [← h_od, e, h_variant, h_side]

theorem State.groupOf_lt (s : State) (v : Nat) : s.groupOf v < 32 := by
  have h : 0 < s.stride ∧ s.stride ≤ 32 := by
    unfold State.stride
    split <;> decide
  exact lt_of_lt_of_le (Nat.mod_lt _ h.1) h.2

theorem State.groupList_lt {g : Nat} {s : State} (h : g ∈ s.groupList) : g < 32 := by
  have k : s.stride ≤ 32 := by
    unfold State.stride
    split <;> decide
  exact lt_of_lt_of_le (List.mem_range.1 h) k

theorem ports_lt {p : Nat} (h : p ∈ [0, 1, 2, 3]) : p < 4 := by
  revert h
  simp only [List.mem_cons, List.not_mem_nil, or_false]
  omega

theorem State.valveCount_le (s : State) : s.valveCount ≤ 256 := by
  unfold State.valveCount
  split <;> decide

end Sys2Proof.Machine
end

