-- ==== Sys2Proof/Laws/Start.lean ====
section
/-!
SUPPORT. What the operations of Machine/Start.lean do.
-/
set_option Elab.async false
set_option linter.all false

namespace Sys2Proof.Machine

theorem firstThermal_shaped (reading : Option Int) (now : Nat) : (firstThermal reading now).shaped := by
  unfold firstThermal Thermal.shaped
  dsimp only
  split <;> rfl

theorem State.groupFallback_does (s : State) (g : ℕ) : s.Does [.out, .od, .backdrop, .strand, .side, .recorder] (State.groupFallback s g) := by
  unfold State.groupFallback
  repeat' first
    | with_reducible exact Does.refl _ _
    | decide
    | with_reducible refine Does.foldl ?_ ?_
    | with_reducible apply Does.step (State.raise_does ..)
    | with_reducible apply Does.step (State.putNat_does ..)
    | intro _

theorem State.loadApart_does (s : State) (app : List (Nat × Val)) :
    s.Does [.out, .od, .pipe, .tracker, .drive, .seqs, .backdrop, .strand, .side, .recorder] (State.loadApart s app) := by
  unfold State.loadApart
  extract_lets groups s1
  refine Does.foldl (fun t g => Does.mono (State.groupFallback_does t g) (by decide)) ?_
  refine ⟨fun p hp => ?_, fun h => ⟨h.mem, h.od, h.cams, h.time, ⟨rfl, rfl⟩, ?_, ⟨?_, h.drive.2⟩, ⟨List.length_replicate, ?_⟩, h.loops, h.thermal,
    h.backdrop, h.strand, h.dict, h.side, h.pins, h.dma, h.recorder⟩, le_rfl⟩
  · cases p <;> first | rfl | exact absurd (by decide) hp
  · exact (List.length_map ..).trans List.length_range
  · exact (List.length_map ..).trans (List.length_zipIdx.trans h.drive.1)
  · exact (List.length_map ..).trans ((List.length_map ..).trans List.length_range)

theorem State.chooseStore_does (s : State) :
    s.Does [.out, .od, .backdrop, .strand, .dict, .side, .recorder, .update] (State.chooseStore s).1 := by
  have up : ∀ (t : State) (x : Update), t.Does [.out, .od, .backdrop, .strand, .dict, .side, .recorder, .update] { t with update := x } :=
    fun t x => Does.mono (Does.update x) (by decide)
  unfold State.chooseStore
  extract_lets src s1 none_ load
  have hn : ∀ t : State, t.Does [.out, .od, .backdrop, .strand, .dict, .side, .recorder, .update] (none_ t).1 :=
    fun t => Does.mono (Does.dict _ fun h => ⟨h.1, h.2.1, h.2.2⟩) (by decide)
  have hl : ∀ (t : State) (x : Settings), t.Does [.out, .od, .backdrop, .strand, .dict, .side, .recorder, .update] (load t x).1 :=
    fun t x => Does.mono (Does.dict _ fun h => ⟨h.1, h.2.1, h.2.2⟩) (by decide)
  have h1 : s.Does [.out, .od, .backdrop, .strand, .dict, .side, .recorder, .update] s1 := up s _
  have hr : ∀ x : Update, s.Does [.out, .od, .backdrop, .strand, .dict, .side, .recorder, .update]
      (({ s1 with update := x }).raise 0xE00A 0) := fun x => Does.step (State.raise_does ..) (by decide) (Does.trans h1 (up s1 x))
  clear_value none_ load s1
  split
  · exact Does.trans h1 (hn _)
  · extract_lets +onlyGivenNames x
    split
    · exact Does.trans h1 (hl ..)
    · split
      · extract_lets +onlyGivenNames y s2
        have h2 : s.Does [.out, .od, .backdrop, .strand, .dict, .side, .recorder, .update] s2 :=
          Does.step (State.emit_does ..) (by decide) (Does.step (State.setStore2_does ..) (by decide) h1)
        clear_value s2
        exact Does.trans (Does.step (State.raise_does ..) (by decide) (Does.trans h2 (up s2 _))) (hl ..)
      · split
        · extract_lets +onlyGivenNames y
          split
          · exact Does.trans h1 (hl ..)
          · exact Does.trans (hr _) (hn _)
        · exact Does.trans (hr _) (hn _)

theorem State.startModule_does (s : State) (kind : ℕ) : s.Does [.cams, .loops, .module, .pins, .dma] (State.startModule s kind) := by
  unfold State.startModule
  repeat' first
    | with_reducible exact Does.refl _ _
    | exact Or.inr (by decide)
    | exact Or.inl rfl
    | exact fun h => ⟨h.mem, h.od, by first | exact h.cams | simpa using h.cams | (have hh := h.cams; clear h; simp_all), h.time, h.pipe, h.tracker, h.drive, h.seqs, by first | exact ⟨h.loops.1, h.loops.2.1, h.loops.2.2⟩ | simpa [Loops.shaped] using h.loops | (have hh := h.loops; clear h; simp_all [Loops.shaped]), h.thermal, h.backdrop, h.strand, h.dict, h.side, by first | exact h.pins | simpa [Pins.shaped] using h.pins | (have hh := h.pins; clear h; simp_all [Pins.shaped]), by first | exact h.dma | simpa [Dma.shaped] using h.dma | (have hh := h.dma; clear h; simp_all [Dma.shaped]), h.recorder⟩
    | with_reducible apply Does.parts

theorem State.loadValues_does (s : State) (app : List (ℕ × Sys2Proof.Val)) : s.Does [.od] (State.loadValues s app) := by
  unfold State.loadValues
  repeat' first
    | with_reducible exact Does.refl _ _
    | exact Or.inr (by decide)
    | exact Or.inl rfl
    | exact fun h => ⟨h.mem, by first | exact h.od | exact assocSorted_foldl _ (assocSorted_filter _ h.od), h.cams, h.time, h.pipe, h.tracker, h.drive, h.seqs, h.loops, h.thermal, h.backdrop, h.strand, h.dict, h.side, h.pins, h.dma, h.recorder⟩
    | with_reducible apply Does.parts

theorem State.startValues_does (s : State) (kind : ℕ) : s.Does [.out, .od, .cams, .pipe, .tracker, .drive, .seqs, .loops, .backdrop, .module, .strand, .dict, .side, .pins, .dma, .recorder, .update] (State.startValues s kind) := by
  unfold State.startValues
  repeat' first
    | with_reducible exact Does.refl _ _
    | with_reducible assumption
    | decide
    | with_reducible refine Does.pair (by assumption) ?_
    | with_reducible refine Does.pairSnd (by assumption) ?_
    | with_reducible refine Does.foldl ?_ ?_
    | (extract_lets +onlyGivenNames w_
       first
         | (refine Does.keep w_ ?_ ?_
            on_goal 1 => (unfold w_; clear w_)
            on_goal 2 => first | (clear_value w_; intro _; revert w_; intro _ _) | (intro _; revert w_; intro _ _))
         | (refine Does.keep w_.1 ?_ ?_
            on_goal 1 => (unfold w_; clear w_)
            on_goal 2 => first | (clear_value w_; intro _; revert w_; intro _ _) | (intro _; revert w_; intro _ _))
         | (clear_value w_; revert w_; intro _) | (revert w_; intro _))
    | with_reducible apply Does.step (State.loadApart_does ..)
    | with_reducible apply Does.step (State.chooseStore_does ..)
    | with_reducible apply Does.step (State.startModule_does ..)
    | with_reducible apply Does.step (State.loadValues_does ..)
    | split
    | intro _
    | dsimp -zeta only

theorem State.firstStart_does (s : State) (t : ℕ) : s.Does [.out, .od, .backdrop, .strand, .side, .recorder, .update] (State.firstStart s t) := by
  unfold State.firstStart
  repeat' first
    | with_reducible exact Does.refl _ _
    | with_reducible assumption
    | decide
    | with_reducible apply Does.step (State.raise_does ..)
    | with_reducible apply Does.step (State.bump_does ..)
    | exact Or.inr (by decide)
    | exact Or.inl rfl
    | exact fun h => ⟨h.mem, h.od, h.cams, h.time, h.pipe, h.tracker, h.drive, h.seqs, h.loops, h.thermal, h.backdrop, h.strand, h.dict, h.side, h.pins, h.dma, h.recorder⟩
    | split
    | with_reducible apply Does.parts

theorem State.railsFromOff_does (s : State) : s.Does [.out, .od, .backdrop, .strand, .side, .recorder] (State.railsFromOff s) := by
  unfold State.railsFromOff
  repeat' first
    | with_reducible exact Does.refl _ _
    | with_reducible assumption
    | decide
    | with_reducible refine Does.pair (by assumption) ?_
    | with_reducible refine Does.pairSnd (by assumption) ?_
    | with_reducible refine Does.foldl ?_ ?_
    | (extract_lets +onlyGivenNames w_
       first
         | (refine Does.keep w_ ?_ ?_
            on_goal 1 => (unfold w_; clear w_)
            on_goal 2 => first | (clear_value w_; intro _; revert w_; intro _ _) | (intro _; revert w_; intro _ _))
         | (refine Does.keep w_.1 ?_ ?_
            on_goal 1 => (unfold w_; clear w_)
            on_goal 2 => first | (clear_value w_; intro _; revert w_; intro _ _) | (intro _; revert w_; intro _ _))
         | (clear_value w_; revert w_; intro _) | (revert w_; intro _))
    | with_reducible apply Does.step (State.islandBoot_does ..)
    | with_reducible apply Does.step (State.noteReset_does ..)
    | with_reducible apply Does.step (State.raise_does ..)
    | with_reducible apply Does.step (State.putNat_does ..)
    | split
    | intro _
    | dsimp -zeta only

theorem State.startTime_does (s : State) (upTicks : ℕ) : s.Does [.time, .loops] (State.startTime s upTicks) := by
  unfold State.startTime
  repeat' first
    | with_reducible exact Does.refl _ _
    | with_reducible assumption
    | decide
    | with_reducible refine Does.pair (by assumption) ?_
    | with_reducible refine Does.pairSnd (by assumption) ?_
    | with_reducible refine Does.foldl ?_ ?_
    | (extract_lets +onlyGivenNames w_
       first
         | (refine Does.keep w_ ?_ ?_
            on_goal 1 => (unfold w_; clear w_)
            on_goal 2 => first | (clear_value w_; intro _; revert w_; intro _ _) | (intro _; revert w_; intro _ _))
         | (refine Does.keep w_.1 ?_ ?_
            on_goal 1 => (unfold w_; clear w_)
            on_goal 2 => first | (clear_value w_; intro _; revert w_; intro _ _) | (intro _; revert w_; intro _ _))
         | (have h_ : TimeSt := w_; clear h_; subst w_)
         | (clear_value w_; revert w_; intro _) | (revert w_; intro _))
    | with_reducible apply Does.step (State.loopsAfterStep_does ..)
    | with_reducible apply Does.step (State.restartSyncOut_does ..)
    | with_reducible apply State.setTime_step
    | exact fun h => ⟨h.1, h.2.1, h.2.2⟩
    | exact fun h => ⟨by simpa using h.1, by simpa using h.2.1, by simpa using h.2.2⟩
    | split
    | intro _
    | dsimp -zeta only

theorem State.startFails_does (s : State) (cause : ℕ) : s.Does [.freeCtr, .out, .od, .time, .cams, .pipe, .tracker, .drive, .seqs, .ledger, .loops, .power, .thermal, .backdrop, .module, .strand, .dict, .side, .dma, .recorder, .update] (State.startFails s cause) := by
  unfold State.startFails
  repeat' first
    | with_reducible exact Does.refl _ _
    | with_reducible assumption
    | decide
    | with_reducible refine Does.pair (by assumption) ?_
    | with_reducible refine Does.pairSnd (by assumption) ?_
    | with_reducible refine Does.foldl ?_ ?_
    | (extract_lets +onlyGivenNames w_
       first
         | (refine Does.keep w_ ?_ ?_
            on_goal 1 => (unfold w_; clear w_)
            on_goal 2 => first | (clear_value w_; intro _; revert w_; intro _ _) | (intro _; revert w_; intro _ _))
         | (refine Does.keep w_.1 ?_ ?_
            on_goal 1 => (unfold w_; clear w_)
            on_goal 2 => first | (clear_value w_; intro _; revert w_; intro _ _) | (intro _; revert w_; intro _ _))
         | (clear_value w_; revert w_; intro _) | (revert w_; intro _))
    | with_reducible apply Does.step (State.enterRecovery_does ..)
    | exact Or.inr (by decide)
    | exact Or.inl rfl
    | exact fun h => ⟨h.mem, h.od, h.cams, h.time, h.pipe, h.tracker, h.drive, h.seqs, h.loops, h.thermal, h.backdrop, h.strand, h.dict, h.side, h.pins, h.dma, h.recorder⟩
    | split
    | intro _
    | dsimp -zeta only
    | with_reducible apply Does.parts

theorem State.releaseCopy_does (s : State) (had : Bool) : s.Does [.update] (State.releaseCopy s had) := by
  unfold State.releaseCopy
  repeat' first
    | with_reducible exact Does.refl _ _
    | exact Or.inr (by decide)
    | exact Or.inl rfl
    | exact fun h => ⟨h.mem, h.od, h.cams, h.time, h.pipe, h.tracker, h.drive, h.seqs, h.loops, h.thermal, h.backdrop, h.strand, h.dict, h.side, h.pins, h.dma, h.recorder⟩
    | split
    | with_reducible apply Does.parts

theorem State.startStrand_does (s : State) : s.Does [.out, .od, .backdrop, .strand, .side, .recorder] (State.startStrand s) := by
  unfold State.startStrand
  repeat' first
    | with_reducible exact Does.refl _ _
    | with_reducible assumption
    | decide
    | with_reducible apply Does.step (State.learnId_does ..)
    | with_reducible apply Does.step (State.refreshTopo_does ..)
    | exact Or.inr (by decide)
    | exact Or.inl rfl
    | exact fun h => ⟨h.mem, h.od, h.cams, h.time, h.pipe, h.tracker, h.drive, h.seqs, h.loops, h.thermal, h.backdrop, by first | exact ⟨h.strand.1, h.strand.2.1, h.strand.2.2⟩ | simpa [Strand.shaped] using h.strand | (have hh := h.strand; clear h; simp_all [Strand.shaped]), h.dict, h.side, h.pins, h.dma, h.recorder⟩
    | with_reducible apply Does.parts

theorem State.untested_does (s : State) : s.Does [.od] (State.untested s) := by
  unfold State.untested
  repeat' first
    | with_reducible exact Does.refl _ _
    | with_reducible assumption
    | decide
    | with_reducible refine Does.pair (by assumption) ?_
    | with_reducible refine Does.pairSnd (by assumption) ?_
    | with_reducible refine Does.foldl ?_ ?_
    | (extract_lets +onlyGivenNames w_
       first
         | (refine Does.keep w_ ?_ ?_
            on_goal 1 => (unfold w_; clear w_)
            on_goal 2 => first | (clear_value w_; intro _; revert w_; intro _ _) | (intro _; revert w_; intro _ _))
         | (refine Does.keep w_.1 ?_ ?_
            on_goal 1 => (unfold w_; clear w_)
            on_goal 2 => first | (clear_value w_; intro _; revert w_; intro _ _) | (intro _; revert w_; intro _ _))
         | (clear_value w_; revert w_; intro _) | (revert w_; intro _))
    | with_reducible apply Does.step (State.putNat_does ..)
    | split
    | intro _
    | dsimp -zeta only

theorem State.startPage_does (s : State) (r : Sys2Proof.StartReadings) : s.Does [.out, .od, .drive, .seqs, .backdrop, .strand, .side, .recorder, .update] (State.startPage s r) := by
  unfold State.startPage
  repeat' first
    | with_reducible exact Does.refl _ _
    | with_reducible assumption
    | decide
    | with_reducible refine Does.pair (by assumption) ?_
    | with_reducible refine Does.pairSnd (by assumption) ?_
    | with_reducible refine Does.foldl ?_ ?_
    | (extract_lets +onlyGivenNames w_
       first
         | (refine Does.keep w_ ?_ ?_
            on_goal 1 => (unfold w_; clear w_)
            on_goal 2 => first | (clear_value w_; intro _; revert w_; intro _ _) | (intro _; revert w_; intro _ _))
         | (refine Does.keep w_.1 ?_ ?_
            on_goal 1 => (unfold w_; clear w_)
            on_goal 2 => first | (clear_value w_; intro _; revert w_; intro _ _) | (intro _; revert w_; intro _ _))
         | (clear_value w_; revert w_; intro _) | (revert w_; intro _))
    | with_reducible apply Does.step (State.seedDrive_does ..)
    | with_reducible apply Does.step (State.readCalPage_does ..)
    | with_reducible apply Does.step (State.putNat_does ..)
    | split
    | intro _
    | dsimp -zeta only

theorem State.selfTest_does (s : State) (fail : Option (ℕ × ℕ)) (ms : ℕ) : s.Does [.od] (State.selfTest s fail ms) := by
  unfold State.selfTest
  repeat' first
    | with_reducible exact Does.refl _ _
    | with_reducible assumption
    | (extract_lets +onlyGivenNames w_
       first
         | (refine Does.keep w_ ?_ ?_
            on_goal 1 => (unfold w_; clear w_)
            on_goal 2 => first | (clear_value w_; intro _; revert w_; intro _ _) | (intro _; revert w_; intro _ _))
         | (clear_value w_; revert w_; intro _) | (revert w_; intro _))
    | with_reducible apply Does.step (State.bump_does ..)
    | with_reducible apply Does.step (State.putNat_does ..)
    | split
    | intro _

theorem State.startRecorder_does (s : State) (badSlots badHeaders : List Nat) :
    s.Does [.out, .od, .backdrop, .strand, .side, .recorder] (State.startRecorder s badSlots badHeaders) := by
  unfold State.startRecorder
  extract_lets r sound h src header entries live s1 sb s2 s3
  have h1 : s.Does [.out, .od, .backdrop, .strand, .side, .recorder] s1 := by
    refine Does.mono (Does.recorder _ fun h => ⟨assocSorted_filter _ h.1, ?_, rfl, Nat.zero_le _, by simpa using h.2.2.2.2⟩) (by decide)
    exact List.all_eq_true.mpr fun x hx => List.all_eq_true.mp h.2.1 x (List.mem_filter.mp hx).1
  clear_value s1
  have h2 : s.Does [.out, .od, .backdrop, .strand, .side, .recorder] s2 :=
    Does.foldl (fun t _ => State.raise_does t ..)
      (Does.step (State.bumpBy_does ..) (by decide) (Does.step (State.saveHeader_does ..) (by decide) h1))
  clear_value s2
  have h3 : s.Does [.out, .od, .backdrop, .strand, .side, .recorder] s3 := by
    unfold s3
    split
    · exact Does.step (State.raise_does ..) (by decide) h2
    · exact h2
  clear_value s3
  split
  · exact Does.step (State.severeTrigger_does ..) (by decide) h3
  · exact h3

theorem State.startThermal_does (s : State) (reading : Option ℤ) : s.Does [.out, .od, .drive, .loops, .power, .thermal, .backdrop, .strand, .side, .recorder] (State.startThermal s reading) := by
  unfold State.startThermal
  repeat' first
    | with_reducible exact Does.refl _ _
    | with_reducible assumption
    | decide
    | with_reducible refine Does.pair (by assumption) ?_
    | with_reducible refine Does.pairSnd (by assumption) ?_
    | with_reducible refine Does.foldl ?_ ?_
    | (extract_lets +onlyGivenNames w_
       first
         | (refine Does.keep w_ ?_ ?_
            on_goal 1 => (unfold w_; clear w_)
            on_goal 2 => first | (clear_value w_; intro _; revert w_; intro _ _) | (intro _; revert w_; intro _ _))
         | (refine Does.keep w_.1 ?_ ?_
            on_goal 1 => (unfold w_; clear w_)
            on_goal 2 => first | (clear_value w_; intro _; revert w_; intro _ _) | (intro _; revert w_; intro _ _))
         | (have h_ : Drive := w_; clear h_; subst w_)
         | (have h_ : Thermal := w_; clear h_; subst w_)
         | (clear_value w_; revert w_; intro _) | (revert w_; intro _))
    | with_reducible apply Does.step (State.raise_does ..)
    | with_reducible apply Does.step (State.bump_does ..)
    | with_reducible apply Does.step (State.putNat_does ..)
    | with_reducible apply Does.step (State.presentDie_does ..)
    | exact Or.inr (by decide)
    | exact Or.inl rfl
    | exact fun h => ⟨h.mem, h.od, h.cams, h.time, h.pipe, h.tracker, by first | exact ⟨h.drive.1, h.drive.2⟩ | simpa [Drive.shaped] using h.drive | (have hh := h.drive; clear h; simp_all [Drive.shaped]), h.seqs, h.loops, by first | exact h.thermal | exact firstThermal_shaped .., h.backdrop, h.strand, h.dict, h.side, h.pins, h.dma, h.recorder⟩
    | split
    | intro _
    | dsimp -zeta only
    | with_reducible apply Does.parts

theorem State.startDict_does (s : State) : s.Does [.dict] (State.startDict s) := by
  unfold State.startDict
  repeat' first
    | with_reducible exact Does.refl _ _
    | exact Or.inr (by decide)
    | exact Or.inl rfl
    | exact fun h => ⟨h.mem, h.od, h.cams, h.time, h.pipe, h.tracker, h.drive, h.seqs, h.loops, h.thermal, h.backdrop, h.strand, by first | exact ⟨h.dict.1, h.dict.2.1, h.dict.2.2⟩ | simpa [Dict.shaped] using h.dict | (have hh := h.dict; clear h; simp_all [Dict.shaped]), h.side, h.pins, h.dma, h.recorder⟩
    | with_reducible apply Does.parts

theorem State.restartStreams_does (s : State) : s.Does [.out, .od, .cams, .backdrop, .strand, .side, .recorder, .update] (State.restartStreams s) := by
  unfold State.restartStreams
  repeat' first
    | with_reducible exact Does.refl _ _
    | with_reducible assumption
    | decide
    | with_reducible refine Does.foldl ?_ ?_
    | with_reducible apply Does.step (actStartPort_does ..)
    | exact Or.inr (by decide)
    | exact Or.inl rfl
    | exact fun h => ⟨h.mem, h.od, h.cams, h.time, h.pipe, h.tracker, h.drive, h.seqs, h.loops, h.thermal, h.backdrop, h.strand, h.dict, h.side, h.pins, h.dma, h.recorder⟩
    | split
    | intro _
    | with_reducible apply Does.parts

theorem State.loadLedger_does (s : State) (torn : List ℕ) : s.Does [.out, .od, .drive, .ledger, .backdrop, .strand, .side, .recorder] (State.loadLedger s torn) := by
  unfold State.loadLedger
  repeat' first
    | with_reducible exact Does.refl _ _
    | with_reducible assumption
    | decide
    | with_reducible refine Does.pair (by assumption) ?_
    | with_reducible refine Does.pairSnd (by assumption) ?_
    | with_reducible refine Does.foldl ?_ ?_
    | (extract_lets +onlyGivenNames w_
       first
         | (refine Does.keep w_ ?_ ?_
            on_goal 1 => (unfold w_; clear w_)
            on_goal 2 => first | (clear_value w_; intro _; revert w_; intro _ _) | (intro _; revert w_; intro _ _))
         | (refine Does.keep w_.1 ?_ ?_
            on_goal 1 => (unfold w_; clear w_)
            on_goal 2 => first | (clear_value w_; intro _; revert w_; intro _ _) | (intro _; revert w_; intro _ _))
         | (clear_value w_; revert w_; intro _) | (revert w_; intro _))
    | with_reducible apply Does.step (State.raise_does ..)
    | with_reducible apply Does.step (State.setAvail_does ..)
    | exact Or.inr (by decide)
    | exact Or.inl rfl
    | exact fun h => ⟨h.mem, h.od, h.cams, h.time, h.pipe, h.tracker, h.drive, h.seqs, h.loops, h.thermal, h.backdrop, h.strand, h.dict, h.side, h.pins, h.dma, h.recorder⟩
    | split
    | intro _
    | dsimp -zeta only
    | with_reducible apply Does.parts

theorem State.startSteps_does (s : State) (kind : ℕ) (upTicks : ℕ) (r : Sys2Proof.StartReadings) : s.Does [.out, .od, .time, .cams, .pipe, .tracker, .drive, .seqs, .ledger, .loops, .power, .thermal, .backdrop, .module, .strand, .dict, .side, .pins, .dma, .recorder, .update] (State.startSteps s kind upTicks r) := by
  unfold State.startSteps
  repeat' first
    | with_reducible exact Does.refl _ _
    | with_reducible assumption
    | decide
    | with_reducible refine Does.pair (by assumption) ?_
    | with_reducible refine Does.pairSnd (by assumption) ?_
    | with_reducible refine Does.foldl ?_ ?_
    | (extract_lets +onlyGivenNames w_
       first
         | (refine Does.keep w_ ?_ ?_
            on_goal 1 => (unfold w_; clear w_)
            on_goal 2 => first | (clear_value w_; intro _; revert w_; intro _ _) | (intro _; revert w_; intro _ _))
         | (refine Does.keep w_.1 ?_ ?_
            on_goal 1 => (unfold w_; clear w_)
            on_goal 2 => first | (clear_value w_; intro _; revert w_; intro _ _) | (intro _; revert w_; intro _ _))
         | (clear_value w_; revert w_; intro _) | (revert w_; intro _))
    | with_reducible apply Does.step (State.enterState_does ..)
    | with_reducible apply Does.step (State.startStrand_does ..)
    | with_reducible apply Does.step (State.restartStreams_does ..)
    | with_reducible apply Does.step (State.startValues_does ..)
    | with_reducible apply Does.step (State.startPanels_does ..)
    | with_reducible apply Does.step (State.startPage_does ..)
    | with_reducible apply Does.step (State.startRecorder_does ..)
    | with_reducible apply Does.step (State.startThermal_does ..)
    | with_reducible apply Does.step (State.loadLedger_does ..)
    | with_reducible apply Does.step (State.startTime_does ..)
    | with_reducible apply Does.step (State.recomputeFloors_does ..)
    | with_reducible apply Does.step (State.settleCcs_does ..)
    | with_reducible apply Does.step (State.releads_does ..)
    | with_reducible apply Does.step (State.startLoops_does ..)
    | with_reducible apply Does.step (State.seedPriors_does ..)
    | with_reducible apply Does.step (State.startDict_does ..)
    | with_reducible apply Does.step (State.releaseCopy_does ..)
    | split
    | intro _
    | dsimp -zeta only

end Sys2Proof.Machine
end

