-- ==== Sys2Proof/Laws/State.lean ====
section
/-!
SUPPORT. The fields of the state after the plain updates, and what the indexed updates read back: lemmas for simp.
-/
namespace Sys2Proof.Machine

/-! ### State.put -/

@[simp] theorem State.put_pending (s : State) (k : Nat) (v : Val) : (s.put k v).pending = s.pending := rfl
@[simp] theorem State.put_variant (s : State) (k : Nat) (v : Val) : (s.put k v).variant = s.variant := rfl
@[simp] theorem State.put_clk (s : State) (k : Nat) (v : Val) : (s.put k v).clk = s.clk := rfl
@[simp] theorem State.put_freeCtr (s : State) (k : Nat) (v : Val) : (s.put k v).freeCtr = s.freeCtr := rfl
@[simp] theorem State.put_out (s : State) (k : Nat) (v : Val) : (s.put k v).out = s.out := rfl
@[simp] theorem State.put_mem (s : State) (k : Nat) (v : Val) : (s.put k v).mem = s.mem := rfl
@[simp] theorem State.put_time (s : State) (k : Nat) (v : Val) : (s.put k v).time = s.time := rfl
@[simp] theorem State.put_cams (s : State) (k : Nat) (v : Val) : (s.put k v).cams = s.cams := rfl
@[simp] theorem State.put_pipe (s : State) (k : Nat) (v : Val) : (s.put k v).pipe = s.pipe := rfl
@[simp] theorem State.put_tracker (s : State) (k : Nat) (v : Val) : (s.put k v).tracker = s.tracker := rfl
@[simp] theorem State.put_drive (s : State) (k : Nat) (v : Val) : (s.put k v).drive = s.drive := rfl
@[simp] theorem State.put_seqs (s : State) (k : Nat) (v : Val) : (s.put k v).seqs = s.seqs := rfl
@[simp] theorem State.put_ledger (s : State) (k : Nat) (v : Val) : (s.put k v).ledger = s.ledger := rfl
@[simp] theorem State.put_loops (s : State) (k : Nat) (v : Val) : (s.put k v).loops = s.loops := rfl
@[simp] theorem State.put_power (s : State) (k : Nat) (v : Val) : (s.put k v).power = s.power := rfl
@[simp] theorem State.put_thermal (s : State) (k : Nat) (v : Val) : (s.put k v).thermal = s.thermal := rfl
@[simp] theorem State.put_backdrop (s : State) (k : Nat) (v : Val) : (s.put k v).backdrop = s.backdrop := rfl
@[simp] theorem State.put_module (s : State) (k : Nat) (v : Val) : (s.put k v).module = s.module := rfl
@[simp] theorem State.put_strand (s : State) (k : Nat) (v : Val) : (s.put k v).strand = s.strand := rfl
@[simp] theorem State.put_dict (s : State) (k : Nat) (v : Val) : (s.put k v).dict = s.dict := rfl
@[simp] theorem State.put_side (s : State) (k : Nat) (v : Val) : (s.put k v).side = s.side := rfl
@[simp] theorem State.put_pins (s : State) (k : Nat) (v : Val) : (s.put k v).pins = s.pins := rfl
@[simp] theorem State.put_dma (s : State) (k : Nat) (v : Val) : (s.put k v).dma = s.dma := rfl
@[simp] theorem State.put_recorder (s : State) (k : Nat) (v : Val) : (s.put k v).recorder = s.recorder := rfl
@[simp] theorem State.put_update (s : State) (k : Nat) (v : Val) : (s.put k v).update = s.update := rfl

/-! ### State.memWrite -/

@[simp] theorem State.memWrite_pending (s : State) (a : Nat) (d : List Byte) : (s.memWrite a d).pending = s.pending := rfl
@[simp] theorem State.memWrite_variant (s : State) (a : Nat) (d : List Byte) : (s.memWrite a d).variant = s.variant := rfl
@[simp] theorem State.memWrite_clk (s : State) (a : Nat) (d : List Byte) : (s.memWrite a d).clk = s.clk := rfl
@[simp] theorem State.memWrite_freeCtr (s : State) (a : Nat) (d : List Byte) : (s.memWrite a d).freeCtr = s.freeCtr := rfl
@[simp] theorem State.memWrite_out (s : State) (a : Nat) (d : List Byte) : (s.memWrite a d).out = s.out := rfl
@[simp] theorem State.memWrite_od (s : State) (a : Nat) (d : List Byte) : (s.memWrite a d).od = s.od := rfl
@[simp] theorem State.memWrite_time (s : State) (a : Nat) (d : List Byte) : (s.memWrite a d).time = s.time := rfl
@[simp] theorem State.memWrite_cams (s : State) (a : Nat) (d : List Byte) : (s.memWrite a d).cams = s.cams := rfl
@[simp] theorem State.memWrite_pipe (s : State) (a : Nat) (d : List Byte) : (s.memWrite a d).pipe = s.pipe := rfl
@[simp] theorem State.memWrite_tracker (s : State) (a : Nat) (d : List Byte) : (s.memWrite a d).tracker = s.tracker := rfl
@[simp] theorem State.memWrite_drive (s : State) (a : Nat) (d : List Byte) : (s.memWrite a d).drive = s.drive := rfl
@[simp] theorem State.memWrite_seqs (s : State) (a : Nat) (d : List Byte) : (s.memWrite a d).seqs = s.seqs := rfl
@[simp] theorem State.memWrite_ledger (s : State) (a : Nat) (d : List Byte) : (s.memWrite a d).ledger = s.ledger := rfl
@[simp] theorem State.memWrite_loops (s : State) (a : Nat) (d : List Byte) : (s.memWrite a d).loops = s.loops := rfl
@[simp] theorem State.memWrite_power (s : State) (a : Nat) (d : List Byte) : (s.memWrite a d).power = s.power := rfl
@[simp] theorem State.memWrite_thermal (s : State) (a : Nat) (d : List Byte) : (s.memWrite a d).thermal = s.thermal := rfl
@[simp] theorem State.memWrite_backdrop (s : State) (a : Nat) (d : List Byte) : (s.memWrite a d).backdrop = s.backdrop := rfl
@[simp] theorem State.memWrite_module (s : State) (a : Nat) (d : List Byte) : (s.memWrite a d).module = s.module := rfl
@[simp] theorem State.memWrite_strand (s : State) (a : Nat) (d : List Byte) : (s.memWrite a d).strand = s.strand := rfl
@[simp] theorem State.memWrite_dict (s : State) (a : Nat) (d : List Byte) : (s.memWrite a d).dict = s.dict := rfl
@[simp] theorem State.memWrite_side (s : State) (a : Nat) (d : List Byte) : (s.memWrite a d).side = s.side := rfl
@[simp] theorem State.memWrite_pins (s : State) (a : Nat) (d : List Byte) : (s.memWrite a d).pins = s.pins := rfl
@[simp] theorem State.memWrite_dma (s : State) (a : Nat) (d : List Byte) : (s.memWrite a d).dma = s.dma := rfl
@[simp] theorem State.memWrite_recorder (s : State) (a : Nat) (d : List Byte) : (s.memWrite a d).recorder = s.recorder := rfl
@[simp] theorem State.memWrite_update (s : State) (a : Nat) (d : List Byte) : (s.memWrite a d).update = s.update := rfl

/-! ### State.emit -/

@[simp] theorem State.emit_pending (s : State) (o : Output) : (s.emit o).pending = s.pending := rfl
@[simp] theorem State.emit_variant (s : State) (o : Output) : (s.emit o).variant = s.variant := rfl
@[simp] theorem State.emit_clk (s : State) (o : Output) : (s.emit o).clk = s.clk := rfl
@[simp] theorem State.emit_freeCtr (s : State) (o : Output) : (s.emit o).freeCtr = s.freeCtr := rfl
@[simp] theorem State.emit_od (s : State) (o : Output) : (s.emit o).od = s.od := rfl
@[simp] theorem State.emit_mem (s : State) (o : Output) : (s.emit o).mem = s.mem := rfl
@[simp] theorem State.emit_time (s : State) (o : Output) : (s.emit o).time = s.time := rfl
@[simp] theorem State.emit_cams (s : State) (o : Output) : (s.emit o).cams = s.cams := rfl
@[simp] theorem State.emit_pipe (s : State) (o : Output) : (s.emit o).pipe = s.pipe := rfl
@[simp] theorem State.emit_tracker (s : State) (o : Output) : (s.emit o).tracker = s.tracker := rfl
@[simp] theorem State.emit_drive (s : State) (o : Output) : (s.emit o).drive = s.drive := rfl
@[simp] theorem State.emit_seqs (s : State) (o : Output) : (s.emit o).seqs = s.seqs := rfl
@[simp] theorem State.emit_ledger (s : State) (o : Output) : (s.emit o).ledger = s.ledger := rfl
@[simp] theorem State.emit_loops (s : State) (o : Output) : (s.emit o).loops = s.loops := rfl
@[simp] theorem State.emit_power (s : State) (o : Output) : (s.emit o).power = s.power := rfl
@[simp] theorem State.emit_thermal (s : State) (o : Output) : (s.emit o).thermal = s.thermal := rfl
@[simp] theorem State.emit_backdrop (s : State) (o : Output) : (s.emit o).backdrop = s.backdrop := rfl
@[simp] theorem State.emit_module (s : State) (o : Output) : (s.emit o).module = s.module := rfl
@[simp] theorem State.emit_strand (s : State) (o : Output) : (s.emit o).strand = s.strand := rfl
@[simp] theorem State.emit_dict (s : State) (o : Output) : (s.emit o).dict = s.dict := rfl
@[simp] theorem State.emit_side (s : State) (o : Output) : (s.emit o).side = s.side := rfl
@[simp] theorem State.emit_pins (s : State) (o : Output) : (s.emit o).pins = s.pins := rfl
@[simp] theorem State.emit_dma (s : State) (o : Output) : (s.emit o).dma = s.dma := rfl
@[simp] theorem State.emit_recorder (s : State) (o : Output) : (s.emit o).recorder = s.recorder := rfl
@[simp] theorem State.emit_update (s : State) (o : Output) : (s.emit o).update = s.update := rfl

/-! ### State.setCam -/

@[simp] theorem State.setCam_pending (s : State) (p : Nat) (c : Camera) : (s.setCam p c).pending = s.pending := rfl
@[simp] theorem State.setCam_variant (s : State) (p : Nat) (c : Camera) : (s.setCam p c).variant = s.variant := rfl
@[simp] theorem State.setCam_clk (s : State) (p : Nat) (c : Camera) : (s.setCam p c).clk = s.clk := rfl
@[simp] theorem State.setCam_freeCtr (s : State) (p : Nat) (c : Camera) : (s.setCam p c).freeCtr = s.freeCtr := rfl
@[simp] theorem State.setCam_out (s : State) (p : Nat) (c : Camera) : (s.setCam p c).out = s.out := rfl
@[simp] theorem State.setCam_od (s : State) (p : Nat) (c : Camera) : (s.setCam p c).od = s.od := rfl
@[simp] theorem State.setCam_mem (s : State) (p : Nat) (c : Camera) : (s.setCam p c).mem = s.mem := rfl
@[simp] theorem State.setCam_time (s : State) (p : Nat) (c : Camera) : (s.setCam p c).time = s.time := rfl
@[simp] theorem State.setCam_pipe (s : State) (p : Nat) (c : Camera) : (s.setCam p c).pipe = s.pipe := rfl
@[simp] theorem State.setCam_tracker (s : State) (p : Nat) (c : Camera) : (s.setCam p c).tracker = s.tracker := rfl
@[simp] theorem State.setCam_drive (s : State) (p : Nat) (c : Camera) : (s.setCam p c).drive = s.drive := rfl
@[simp] theorem State.setCam_seqs (s : State) (p : Nat) (c : Camera) : (s.setCam p c).seqs = s.seqs := rfl
@[simp] theorem State.setCam_ledger (s : State) (p : Nat) (c : Camera) : (s.setCam p c).ledger = s.ledger := rfl
@[simp] theorem State.setCam_loops (s : State) (p : Nat) (c : Camera) : (s.setCam p c).loops = s.loops := rfl
@[simp] theorem State.setCam_power (s : State) (p : Nat) (c : Camera) : (s.setCam p c).power = s.power := rfl
@[simp] theorem State.setCam_thermal (s : State) (p : Nat) (c : Camera) : (s.setCam p c).thermal = s.thermal := rfl
@[simp] theorem State.setCam_backdrop (s : State) (p : Nat) (c : Camera) : (s.setCam p c).backdrop = s.backdrop := rfl
@[simp] theorem State.setCam_module (s : State) (p : Nat) (c : Camera) : (s.setCam p c).module = s.module := rfl
@[simp] theorem State.setCam_strand (s : State) (p : Nat) (c : Camera) : (s.setCam p c).strand = s.strand := rfl
@[simp] theorem State.setCam_dict (s : State) (p : Nat) (c : Camera) : (s.setCam p c).dict = s.dict := rfl
@[simp] theorem State.setCam_side (s : State) (p : Nat) (c : Camera) : (s.setCam p c).side = s.side := rfl
@[simp] theorem State.setCam_pins (s : State) (p : Nat) (c : Camera) : (s.setCam p c).pins = s.pins := rfl
@[simp] theorem State.setCam_dma (s : State) (p : Nat) (c : Camera) : (s.setCam p c).dma = s.dma := rfl
@[simp] theorem State.setCam_recorder (s : State) (p : Nat) (c : Camera) : (s.setCam p c).recorder = s.recorder := rfl
@[simp] theorem State.setCam_update (s : State) (p : Nat) (c : Camera) : (s.setCam p c).update = s.update := rfl

/-! ### State.setLink -/

@[simp] theorem State.setLink_pending (s : State) (l : Nat) (c : LinkSt) : (s.setLink l c).pending = s.pending := rfl
@[simp] theorem State.setLink_variant (s : State) (l : Nat) (c : LinkSt) : (s.setLink l c).variant = s.variant := rfl
@[simp] theorem State.setLink_clk (s : State) (l : Nat) (c : LinkSt) : (s.setLink l c).clk = s.clk := rfl
@[simp] theorem State.setLink_freeCtr (s : State) (l : Nat) (c : LinkSt) : (s.setLink l c).freeCtr = s.freeCtr := rfl
@[simp] theorem State.setLink_out (s : State) (l : Nat) (c : LinkSt) : (s.setLink l c).out = s.out := rfl
@[simp] theorem State.setLink_od (s : State) (l : Nat) (c : LinkSt) : (s.setLink l c).od = s.od := rfl
@[simp] theorem State.setLink_mem (s : State) (l : Nat) (c : LinkSt) : (s.setLink l c).mem = s.mem := rfl
@[simp] theorem State.setLink_time (s : State) (l : Nat) (c : LinkSt) : (s.setLink l c).time = s.time := rfl
@[simp] theorem State.setLink_cams (s : State) (l : Nat) (c : LinkSt) : (s.setLink l c).cams = s.cams := rfl
@[simp] theorem State.setLink_pipe (s : State) (l : Nat) (c : LinkSt) : (s.setLink l c).pipe = s.pipe := rfl
@[simp] theorem State.setLink_tracker (s : State) (l : Nat) (c : LinkSt) : (s.setLink l c).tracker = s.tracker := rfl
@[simp] theorem State.setLink_drive (s : State) (l : Nat) (c : LinkSt) : (s.setLink l c).drive = s.drive := rfl
@[simp] theorem State.setLink_seqs (s : State) (l : Nat) (c : LinkSt) : (s.setLink l c).seqs = s.seqs := rfl
@[simp] theorem State.setLink_ledger (s : State) (l : Nat) (c : LinkSt) : (s.setLink l c).ledger = s.ledger := rfl
@[simp] theorem State.setLink_loops (s : State) (l : Nat) (c : LinkSt) : (s.setLink l c).loops = s.loops := rfl
@[simp] theorem State.setLink_power (s : State) (l : Nat) (c : LinkSt) : (s.setLink l c).power = s.power := rfl
@[simp] theorem State.setLink_thermal (s : State) (l : Nat) (c : LinkSt) : (s.setLink l c).thermal = s.thermal := rfl
@[simp] theorem State.setLink_backdrop (s : State) (l : Nat) (c : LinkSt) : (s.setLink l c).backdrop = s.backdrop := rfl
@[simp] theorem State.setLink_module (s : State) (l : Nat) (c : LinkSt) : (s.setLink l c).module = s.module := rfl
@[simp] theorem State.setLink_dict (s : State) (l : Nat) (c : LinkSt) : (s.setLink l c).dict = s.dict := rfl
@[simp] theorem State.setLink_side (s : State) (l : Nat) (c : LinkSt) : (s.setLink l c).side = s.side := rfl
@[simp] theorem State.setLink_pins (s : State) (l : Nat) (c : LinkSt) : (s.setLink l c).pins = s.pins := rfl
@[simp] theorem State.setLink_dma (s : State) (l : Nat) (c : LinkSt) : (s.setLink l c).dma = s.dma := rfl
@[simp] theorem State.setLink_recorder (s : State) (l : Nat) (c : LinkSt) : (s.setLink l c).recorder = s.recorder := rfl
@[simp] theorem State.setLink_update (s : State) (l : Nat) (c : LinkSt) : (s.setLink l c).update = s.update := rfl

/-! ### State.setTime -/

@[simp] theorem State.setTime_pending (s : State) (x : TimeSt) : (s.setTime x).pending = s.pending := rfl
@[simp] theorem State.setTime_variant (s : State) (x : TimeSt) : (s.setTime x).variant = s.variant := rfl
@[simp] theorem State.setTime_clk (s : State) (x : TimeSt) : (s.setTime x).clk = s.clk := rfl
@[simp] theorem State.setTime_freeCtr (s : State) (x : TimeSt) : (s.setTime x).freeCtr = s.freeCtr := rfl
@[simp] theorem State.setTime_out (s : State) (x : TimeSt) : (s.setTime x).out = s.out := rfl
@[simp] theorem State.setTime_od (s : State) (x : TimeSt) : (s.setTime x).od = s.od := rfl
@[simp] theorem State.setTime_mem (s : State) (x : TimeSt) : (s.setTime x).mem = s.mem := rfl
@[simp] theorem State.setTime_cams (s : State) (x : TimeSt) : (s.setTime x).cams = s.cams := rfl
@[simp] theorem State.setTime_pipe (s : State) (x : TimeSt) : (s.setTime x).pipe = s.pipe := rfl
@[simp] theorem State.setTime_tracker (s : State) (x : TimeSt) : (s.setTime x).tracker = s.tracker := rfl
@[simp] theorem State.setTime_drive (s : State) (x : TimeSt) : (s.setTime x).drive = s.drive := rfl
@[simp] theorem State.setTime_seqs (s : State) (x : TimeSt) : (s.setTime x).seqs = s.seqs := rfl
@[simp] theorem State.setTime_ledger (s : State) (x : TimeSt) : (s.setTime x).ledger = s.ledger := rfl
@[simp] theorem State.setTime_loops (s : State) (x : TimeSt) : (s.setTime x).loops = s.loops := rfl
@[simp] theorem State.setTime_power (s : State) (x : TimeSt) : (s.setTime x).power = s.power := rfl
@[simp] theorem State.setTime_thermal (s : State) (x : TimeSt) : (s.setTime x).thermal = s.thermal := rfl
@[simp] theorem State.setTime_backdrop (s : State) (x : TimeSt) : (s.setTime x).backdrop = s.backdrop := rfl
@[simp] theorem State.setTime_module (s : State) (x : TimeSt) : (s.setTime x).module = s.module := rfl
@[simp] theorem State.setTime_strand (s : State) (x : TimeSt) : (s.setTime x).strand = s.strand := rfl
@[simp] theorem State.setTime_dict (s : State) (x : TimeSt) : (s.setTime x).dict = s.dict := rfl
@[simp] theorem State.setTime_side (s : State) (x : TimeSt) : (s.setTime x).side = s.side := rfl
@[simp] theorem State.setTime_pins (s : State) (x : TimeSt) : (s.setTime x).pins = s.pins := rfl
@[simp] theorem State.setTime_dma (s : State) (x : TimeSt) : (s.setTime x).dma = s.dma := rfl
@[simp] theorem State.setTime_recorder (s : State) (x : TimeSt) : (s.setTime x).recorder = s.recorder := rfl
@[simp] theorem State.setTime_update (s : State) (x : TimeSt) : (s.setTime x).update = s.update := rfl

/-! ### State.setSide -/

@[simp] theorem State.setSide_pending (s : State) (x : Sideband) : (s.setSide x).pending = s.pending := rfl
@[simp] theorem State.setSide_variant (s : State) (x : Sideband) : (s.setSide x).variant = s.variant := rfl
@[simp] theorem State.setSide_clk (s : State) (x : Sideband) : (s.setSide x).clk = s.clk := rfl
@[simp] theorem State.setSide_freeCtr (s : State) (x : Sideband) : (s.setSide x).freeCtr = s.freeCtr := rfl
@[simp] theorem State.setSide_out (s : State) (x : Sideband) : (s.setSide x).out = s.out := rfl
@[simp] theorem State.setSide_od (s : State) (x : Sideband) : (s.setSide x).od = s.od := rfl
@[simp] theorem State.setSide_mem (s : State) (x : Sideband) : (s.setSide x).mem = s.mem := rfl
@[simp] theorem State.setSide_time (s : State) (x : Sideband) : (s.setSide x).time = s.time := rfl
@[simp] theorem State.setSide_cams (s : State) (x : Sideband) : (s.setSide x).cams = s.cams := rfl
@[simp] theorem State.setSide_pipe (s : State) (x : Sideband) : (s.setSide x).pipe = s.pipe := rfl
@[simp] theorem State.setSide_tracker (s : State) (x : Sideband) : (s.setSide x).tracker = s.tracker := rfl
@[simp] theorem State.setSide_drive (s : State) (x : Sideband) : (s.setSide x).drive = s.drive := rfl
@[simp] theorem State.setSide_seqs (s : State) (x : Sideband) : (s.setSide x).seqs = s.seqs := rfl
@[simp] theorem State.setSide_ledger (s : State) (x : Sideband) : (s.setSide x).ledger = s.ledger := rfl
@[simp] theorem State.setSide_loops (s : State) (x : Sideband) : (s.setSide x).loops = s.loops := rfl
@[simp] theorem State.setSide_power (s : State) (x : Sideband) : (s.setSide x).power = s.power := rfl
@[simp] theorem State.setSide_thermal (s : State) (x : Sideband) : (s.setSide x).thermal = s.thermal := rfl
@[simp] theorem State.setSide_backdrop (s : State) (x : Sideband) : (s.setSide x).backdrop = s.backdrop := rfl
@[simp] theorem State.setSide_module (s : State) (x : Sideband) : (s.setSide x).module = s.module := rfl
@[simp] theorem State.setSide_strand (s : State) (x : Sideband) : (s.setSide x).strand = s.strand := rfl
@[simp] theorem State.setSide_dict (s : State) (x : Sideband) : (s.setSide x).dict = s.dict := rfl
@[simp] theorem State.setSide_pins (s : State) (x : Sideband) : (s.setSide x).pins = s.pins := rfl
@[simp] theorem State.setSide_dma (s : State) (x : Sideband) : (s.setSide x).dma = s.dma := rfl
@[simp] theorem State.setSide_recorder (s : State) (x : Sideband) : (s.setSide x).recorder = s.recorder := rfl
@[simp] theorem State.setSide_update (s : State) (x : Sideband) : (s.setSide x).update = s.update := rfl

/-! ### State.setValve -/

@[simp] theorem State.setValve_pending (s : State) (v : Nat) (x : ValveSt) : (s.setValve v x).pending = s.pending := rfl
@[simp] theorem State.setValve_variant (s : State) (v : Nat) (x : ValveSt) : (s.setValve v x).variant = s.variant := rfl
@[simp] theorem State.setValve_clk (s : State) (v : Nat) (x : ValveSt) : (s.setValve v x).clk = s.clk := rfl
@[simp] theorem State.setValve_freeCtr (s : State) (v : Nat) (x : ValveSt) : (s.setValve v x).freeCtr = s.freeCtr := rfl
@[simp] theorem State.setValve_out (s : State) (v : Nat) (x : ValveSt) : (s.setValve v x).out = s.out := rfl
@[simp] theorem State.setValve_od (s : State) (v : Nat) (x : ValveSt) : (s.setValve v x).od = s.od := rfl
@[simp] theorem State.setValve_mem (s : State) (v : Nat) (x : ValveSt) : (s.setValve v x).mem = s.mem := rfl
@[simp] theorem State.setValve_time (s : State) (v : Nat) (x : ValveSt) : (s.setValve v x).time = s.time := rfl
@[simp] theorem State.setValve_cams (s : State) (v : Nat) (x : ValveSt) : (s.setValve v x).cams = s.cams := rfl
@[simp] theorem State.setValve_pipe (s : State) (v : Nat) (x : ValveSt) : (s.setValve v x).pipe = s.pipe := rfl
@[simp] theorem State.setValve_tracker (s : State) (v : Nat) (x : ValveSt) : (s.setValve v x).tracker = s.tracker := rfl
@[simp] theorem State.setValve_seqs (s : State) (v : Nat) (x : ValveSt) : (s.setValve v x).seqs = s.seqs := rfl
@[simp] theorem State.setValve_ledger (s : State) (v : Nat) (x : ValveSt) : (s.setValve v x).ledger = s.ledger := rfl
@[simp] theorem State.setValve_loops (s : State) (v : Nat) (x : ValveSt) : (s.setValve v x).loops = s.loops := rfl
@[simp] theorem State.setValve_power (s : State) (v : Nat) (x : ValveSt) : (s.setValve v x).power = s.power := rfl
@[simp] theorem State.setValve_thermal (s : State) (v : Nat) (x : ValveSt) : (s.setValve v x).thermal = s.thermal := rfl
@[simp] theorem State.setValve_backdrop (s : State) (v : Nat) (x : ValveSt) : (s.setValve v x).backdrop = s.backdrop := rfl
@[simp] theorem State.setValve_module (s : State) (v : Nat) (x : ValveSt) : (s.setValve v x).module = s.module := rfl
@[simp] theorem State.setValve_strand (s : State) (v : Nat) (x : ValveSt) : (s.setValve v x).strand = s.strand := rfl
@[simp] theorem State.setValve_dict (s : State) (v : Nat) (x : ValveSt) : (s.setValve v x).dict = s.dict := rfl
@[simp] theorem State.setValve_side (s : State) (v : Nat) (x : ValveSt) : (s.setValve v x).side = s.side := rfl
@[simp] theorem State.setValve_pins (s : State) (v : Nat) (x : ValveSt) : (s.setValve v x).pins = s.pins := rfl
@[simp] theorem State.setValve_dma (s : State) (v : Nat) (x : ValveSt) : (s.setValve v x).dma = s.dma := rfl
@[simp] theorem State.setValve_recorder (s : State) (v : Nat) (x : ValveSt) : (s.setValve v x).recorder = s.recorder := rfl
@[simp] theorem State.setValve_update (s : State) (v : Nat) (x : ValveSt) : (s.setValve v x).update = s.update := rfl

/-! ### State.setGroup -/

@[simp] theorem State.setGroup_pending (s : State) (g : Nat) (x : GroupSt) : (s.setGroup g x).pending = s.pending := rfl
@[simp] theorem State.setGroup_variant (s : State) (g : Nat) (x : GroupSt) : (s.setGroup g x).variant = s.variant := rfl
@[simp] theorem State.setGroup_clk (s : State) (g : Nat) (x : GroupSt) : (s.setGroup g x).clk = s.clk := rfl
@[simp] theorem State.setGroup_freeCtr (s : State) (g : Nat) (x : GroupSt) : (s.setGroup g x).freeCtr = s.freeCtr := rfl
@[simp] theorem State.setGroup_out (s : State) (g : Nat) (x : GroupSt) : (s.setGroup g x).out = s.out := rfl
@[simp] theorem State.setGroup_od (s : State) (g : Nat) (x : GroupSt) : (s.setGroup g x).od = s.od := rfl
@[simp] theorem State.setGroup_mem (s : State) (g : Nat) (x : GroupSt) : (s.setGroup g x).mem = s.mem := rfl
@[simp] theorem State.setGroup_time (s : State) (g : Nat) (x : GroupSt) : (s.setGroup g x).time = s.time := rfl
@[simp] theorem State.setGroup_cams (s : State) (g : Nat) (x : GroupSt) : (s.setGroup g x).cams = s.cams := rfl
@[simp] theorem State.setGroup_pipe (s : State) (g : Nat) (x : GroupSt) : (s.setGroup g x).pipe = s.pipe := rfl
@[simp] theorem State.setGroup_tracker (s : State) (g : Nat) (x : GroupSt) : (s.setGroup g x).tracker = s.tracker := rfl
@[simp] theorem State.setGroup_seqs (s : State) (g : Nat) (x : GroupSt) : (s.setGroup g x).seqs = s.seqs := rfl
@[simp] theorem State.setGroup_ledger (s : State) (g : Nat) (x : GroupSt) : (s.setGroup g x).ledger = s.ledger := rfl
@[simp] theorem State.setGroup_loops (s : State) (g : Nat) (x : GroupSt) : (s.setGroup g x).loops = s.loops := rfl
@[simp] theorem State.setGroup_power (s : State) (g : Nat) (x : GroupSt) : (s.setGroup g x).power = s.power := rfl
@[simp] theorem State.setGroup_thermal (s : State) (g : Nat) (x : GroupSt) : (s.setGroup g x).thermal = s.thermal := rfl
@[simp] theorem State.setGroup_backdrop (s : State) (g : Nat) (x : GroupSt) : (s.setGroup g x).backdrop = s.backdrop := rfl
@[simp] theorem State.setGroup_module (s : State) (g : Nat) (x : GroupSt) : (s.setGroup g x).module = s.module := rfl
@[simp] theorem State.setGroup_strand (s : State) (g : Nat) (x : GroupSt) : (s.setGroup g x).strand = s.strand := rfl
@[simp] theorem State.setGroup_dict (s : State) (g : Nat) (x : GroupSt) : (s.setGroup g x).dict = s.dict := rfl
@[simp] theorem State.setGroup_side (s : State) (g : Nat) (x : GroupSt) : (s.setGroup g x).side = s.side := rfl
@[simp] theorem State.setGroup_pins (s : State) (g : Nat) (x : GroupSt) : (s.setGroup g x).pins = s.pins := rfl
@[simp] theorem State.setGroup_dma (s : State) (g : Nat) (x : GroupSt) : (s.setGroup g x).dma = s.dma := rfl
@[simp] theorem State.setGroup_recorder (s : State) (g : Nat) (x : GroupSt) : (s.setGroup g x).recorder = s.recorder := rfl
@[simp] theorem State.setGroup_update (s : State) (g : Nat) (x : GroupSt) : (s.setGroup g x).update = s.update := rfl

/-! ### State.setSeq -/

@[simp] theorem State.setSeq_pending (s : State) (v : Nat) (x : Seq) : (s.setSeq v x).pending = s.pending := rfl
@[simp] theorem State.setSeq_variant (s : State) (v : Nat) (x : Seq) : (s.setSeq v x).variant = s.variant := rfl
@[simp] theorem State.setSeq_clk (s : State) (v : Nat) (x : Seq) : (s.setSeq v x).clk = s.clk := rfl
@[simp] theorem State.setSeq_freeCtr (s : State) (v : Nat) (x : Seq) : (s.setSeq v x).freeCtr = s.freeCtr := rfl
@[simp] theorem State.setSeq_out (s : State) (v : Nat) (x : Seq) : (s.setSeq v x).out = s.out := rfl
@[simp] theorem State.setSeq_od (s : State) (v : Nat) (x : Seq) : (s.setSeq v x).od = s.od := rfl
@[simp] theorem State.setSeq_mem (s : State) (v : Nat) (x : Seq) : (s.setSeq v x).mem = s.mem := rfl
@[simp] theorem State.setSeq_time (s : State) (v : Nat) (x : Seq) : (s.setSeq v x).time = s.time := rfl
@[simp] theorem State.setSeq_cams (s : State) (v : Nat) (x : Seq) : (s.setSeq v x).cams = s.cams := rfl
@[simp] theorem State.setSeq_pipe (s : State) (v : Nat) (x : Seq) : (s.setSeq v x).pipe = s.pipe := rfl
@[simp] theorem State.setSeq_tracker (s : State) (v : Nat) (x : Seq) : (s.setSeq v x).tracker = s.tracker := rfl
@[simp] theorem State.setSeq_drive (s : State) (v : Nat) (x : Seq) : (s.setSeq v x).drive = s.drive := rfl
@[simp] theorem State.setSeq_ledger (s : State) (v : Nat) (x : Seq) : (s.setSeq v x).ledger = s.ledger := rfl
@[simp] theorem State.setSeq_loops (s : State) (v : Nat) (x : Seq) : (s.setSeq v x).loops = s.loops := rfl
@[simp] theorem State.setSeq_power (s : State) (v : Nat) (x : Seq) : (s.setSeq v x).power = s.power := rfl
@[simp] theorem State.setSeq_thermal (s : State) (v : Nat) (x : Seq) : (s.setSeq v x).thermal = s.thermal := rfl
@[simp] theorem State.setSeq_backdrop (s : State) (v : Nat) (x : Seq) : (s.setSeq v x).backdrop = s.backdrop := rfl
@[simp] theorem State.setSeq_module (s : State) (v : Nat) (x : Seq) : (s.setSeq v x).module = s.module := rfl
@[simp] theorem State.setSeq_strand (s : State) (v : Nat) (x : Seq) : (s.setSeq v x).strand = s.strand := rfl
@[simp] theorem State.setSeq_dict (s : State) (v : Nat) (x : Seq) : (s.setSeq v x).dict = s.dict := rfl
@[simp] theorem State.setSeq_side (s : State) (v : Nat) (x : Seq) : (s.setSeq v x).side = s.side := rfl
@[simp] theorem State.setSeq_pins (s : State) (v : Nat) (x : Seq) : (s.setSeq v x).pins = s.pins := rfl
@[simp] theorem State.setSeq_dma (s : State) (v : Nat) (x : Seq) : (s.setSeq v x).dma = s.dma := rfl
@[simp] theorem State.setSeq_recorder (s : State) (v : Nat) (x : Seq) : (s.setSeq v x).recorder = s.recorder := rfl
@[simp] theorem State.setSeq_update (s : State) (v : Nat) (x : Seq) : (s.setSeq v x).update = s.update := rfl

/-! ### State.setStore -/

@[simp] theorem State.setStore_pending (s : State) (g : Nat) (x : GroupStore) : (s.setStore g x).pending = s.pending := rfl
@[simp] theorem State.setStore_variant (s : State) (g : Nat) (x : GroupStore) : (s.setStore g x).variant = s.variant := rfl
@[simp] theorem State.setStore_clk (s : State) (g : Nat) (x : GroupStore) : (s.setStore g x).clk = s.clk := rfl
@[simp] theorem State.setStore_freeCtr (s : State) (g : Nat) (x : GroupStore) : (s.setStore g x).freeCtr = s.freeCtr := rfl
@[simp] theorem State.setStore_out (s : State) (g : Nat) (x : GroupStore) : (s.setStore g x).out = s.out := rfl
@[simp] theorem State.setStore_od (s : State) (g : Nat) (x : GroupStore) : (s.setStore g x).od = s.od := rfl
@[simp] theorem State.setStore_mem (s : State) (g : Nat) (x : GroupStore) : (s.setStore g x).mem = s.mem := rfl
@[simp] theorem State.setStore_time (s : State) (g : Nat) (x : GroupStore) : (s.setStore g x).time = s.time := rfl
@[simp] theorem State.setStore_cams (s : State) (g : Nat) (x : GroupStore) : (s.setStore g x).cams = s.cams := rfl
@[simp] theorem State.setStore_pipe (s : State) (g : Nat) (x : GroupStore) : (s.setStore g x).pipe = s.pipe := rfl
@[simp] theorem State.setStore_tracker (s : State) (g : Nat) (x : GroupStore) : (s.setStore g x).tracker = s.tracker := rfl
@[simp] theorem State.setStore_drive (s : State) (g : Nat) (x : GroupStore) : (s.setStore g x).drive = s.drive := rfl
@[simp] theorem State.setStore_ledger (s : State) (g : Nat) (x : GroupStore) : (s.setStore g x).ledger = s.ledger := rfl
@[simp] theorem State.setStore_loops (s : State) (g : Nat) (x : GroupStore) : (s.setStore g x).loops = s.loops := rfl
@[simp] theorem State.setStore_power (s : State) (g : Nat) (x : GroupStore) : (s.setStore g x).power = s.power := rfl
@[simp] theorem State.setStore_thermal (s : State) (g : Nat) (x : GroupStore) : (s.setStore g x).thermal = s.thermal := rfl
@[simp] theorem State.setStore_backdrop (s : State) (g : Nat) (x : GroupStore) : (s.setStore g x).backdrop = s.backdrop := rfl
@[simp] theorem State.setStore_module (s : State) (g : Nat) (x : GroupStore) : (s.setStore g x).module = s.module := rfl
@[simp] theorem State.setStore_strand (s : State) (g : Nat) (x : GroupStore) : (s.setStore g x).strand = s.strand := rfl
@[simp] theorem State.setStore_dict (s : State) (g : Nat) (x : GroupStore) : (s.setStore g x).dict = s.dict := rfl
@[simp] theorem State.setStore_side (s : State) (g : Nat) (x : GroupStore) : (s.setStore g x).side = s.side := rfl
@[simp] theorem State.setStore_pins (s : State) (g : Nat) (x : GroupStore) : (s.setStore g x).pins = s.pins := rfl
@[simp] theorem State.setStore_dma (s : State) (g : Nat) (x : GroupStore) : (s.setStore g x).dma = s.dma := rfl
@[simp] theorem State.setStore_recorder (s : State) (g : Nat) (x : GroupStore) : (s.setStore g x).recorder = s.recorder := rfl
@[simp] theorem State.setStore_update (s : State) (g : Nat) (x : GroupStore) : (s.setStore g x).update = s.update := rfl

/-! ### State.setSlot -/

@[simp] theorem State.setSlot_pending (s : State) (n : Nat) (x : LoopSlot) : (s.setSlot n x).pending = s.pending := rfl
@[simp] theorem State.setSlot_variant (s : State) (n : Nat) (x : LoopSlot) : (s.setSlot n x).variant = s.variant := rfl
@[simp] theorem State.setSlot_clk (s : State) (n : Nat) (x : LoopSlot) : (s.setSlot n x).clk = s.clk := rfl
@[simp] theorem State.setSlot_freeCtr (s : State) (n : Nat) (x : LoopSlot) : (s.setSlot n x).freeCtr = s.freeCtr := rfl
@[simp] theorem State.setSlot_out (s : State) (n : Nat) (x : LoopSlot) : (s.setSlot n x).out = s.out := rfl
@[simp] theorem State.setSlot_od (s : State) (n : Nat) (x : LoopSlot) : (s.setSlot n x).od = s.od := rfl
@[simp] theorem State.setSlot_mem (s : State) (n : Nat) (x : LoopSlot) : (s.setSlot n x).mem = s.mem := rfl
@[simp] theorem State.setSlot_time (s : State) (n : Nat) (x : LoopSlot) : (s.setSlot n x).time = s.time := rfl
@[simp] theorem State.setSlot_cams (s : State) (n : Nat) (x : LoopSlot) : (s.setSlot n x).cams = s.cams := rfl
@[simp] theorem State.setSlot_pipe (s : State) (n : Nat) (x : LoopSlot) : (s.setSlot n x).pipe = s.pipe := rfl
@[simp] theorem State.setSlot_tracker (s : State) (n : Nat) (x : LoopSlot) : (s.setSlot n x).tracker = s.tracker := rfl
@[simp] theorem State.setSlot_drive (s : State) (n : Nat) (x : LoopSlot) : (s.setSlot n x).drive = s.drive := rfl
@[simp] theorem State.setSlot_seqs (s : State) (n : Nat) (x : LoopSlot) : (s.setSlot n x).seqs = s.seqs := rfl
@[simp] theorem State.setSlot_ledger (s : State) (n : Nat) (x : LoopSlot) : (s.setSlot n x).ledger = s.ledger := rfl
@[simp] theorem State.setSlot_power (s : State) (n : Nat) (x : LoopSlot) : (s.setSlot n x).power = s.power := rfl
@[simp] theorem State.setSlot_thermal (s : State) (n : Nat) (x : LoopSlot) : (s.setSlot n x).thermal = s.thermal := rfl
@[simp] theorem State.setSlot_backdrop (s : State) (n : Nat) (x : LoopSlot) : (s.setSlot n x).backdrop = s.backdrop := rfl
@[simp] theorem State.setSlot_module (s : State) (n : Nat) (x : LoopSlot) : (s.setSlot n x).module = s.module := rfl
@[simp] theorem State.setSlot_strand (s : State) (n : Nat) (x : LoopSlot) : (s.setSlot n x).strand = s.strand := rfl
@[simp] theorem State.setSlot_dict (s : State) (n : Nat) (x : LoopSlot) : (s.setSlot n x).dict = s.dict := rfl
@[simp] theorem State.setSlot_side (s : State) (n : Nat) (x : LoopSlot) : (s.setSlot n x).side = s.side := rfl
@[simp] theorem State.setSlot_pins (s : State) (n : Nat) (x : LoopSlot) : (s.setSlot n x).pins = s.pins := rfl
@[simp] theorem State.setSlot_dma (s : State) (n : Nat) (x : LoopSlot) : (s.setSlot n x).dma = s.dma := rfl
@[simp] theorem State.setSlot_recorder (s : State) (n : Nat) (x : LoopSlot) : (s.setSlot n x).recorder = s.recorder := rfl
@[simp] theorem State.setSlot_update (s : State) (n : Nat) (x : LoopSlot) : (s.setSlot n x).update = s.update := rfl

/-! ### State.setTrace -/

@[simp] theorem State.setTrace_pending (s : State) (t : Nat) (x : Trace) : (s.setTrace t x).pending = s.pending := rfl
@[simp] theorem State.setTrace_variant (s : State) (t : Nat) (x : Trace) : (s.setTrace t x).variant = s.variant := rfl
@[simp] theorem State.setTrace_clk (s : State) (t : Nat) (x : Trace) : (s.setTrace t x).clk = s.clk := rfl
@[simp] theorem State.setTrace_freeCtr (s : State) (t : Nat) (x : Trace) : (s.setTrace t x).freeCtr = s.freeCtr := rfl
@[simp] theorem State.setTrace_out (s : State) (t : Nat) (x : Trace) : (s.setTrace t x).out = s.out := rfl
@[simp] theorem State.setTrace_od (s : State) (t : Nat) (x : Trace) : (s.setTrace t x).od = s.od := rfl
@[simp] theorem State.setTrace_mem (s : State) (t : Nat) (x : Trace) : (s.setTrace t x).mem = s.mem := rfl
@[simp] theorem State.setTrace_time (s : State) (t : Nat) (x : Trace) : (s.setTrace t x).time = s.time := rfl
@[simp] theorem State.setTrace_cams (s : State) (t : Nat) (x : Trace) : (s.setTrace t x).cams = s.cams := rfl
@[simp] theorem State.setTrace_pipe (s : State) (t : Nat) (x : Trace) : (s.setTrace t x).pipe = s.pipe := rfl
@[simp] theorem State.setTrace_tracker (s : State) (t : Nat) (x : Trace) : (s.setTrace t x).tracker = s.tracker := rfl
@[simp] theorem State.setTrace_drive (s : State) (t : Nat) (x : Trace) : (s.setTrace t x).drive = s.drive := rfl
@[simp] theorem State.setTrace_seqs (s : State) (t : Nat) (x : Trace) : (s.setTrace t x).seqs = s.seqs := rfl
@[simp] theorem State.setTrace_ledger (s : State) (t : Nat) (x : Trace) : (s.setTrace t x).ledger = s.ledger := rfl
@[simp] theorem State.setTrace_power (s : State) (t : Nat) (x : Trace) : (s.setTrace t x).power = s.power := rfl
@[simp] theorem State.setTrace_thermal (s : State) (t : Nat) (x : Trace) : (s.setTrace t x).thermal = s.thermal := rfl
@[simp] theorem State.setTrace_backdrop (s : State) (t : Nat) (x : Trace) : (s.setTrace t x).backdrop = s.backdrop := rfl
@[simp] theorem State.setTrace_module (s : State) (t : Nat) (x : Trace) : (s.setTrace t x).module = s.module := rfl
@[simp] theorem State.setTrace_strand (s : State) (t : Nat) (x : Trace) : (s.setTrace t x).strand = s.strand := rfl
@[simp] theorem State.setTrace_dict (s : State) (t : Nat) (x : Trace) : (s.setTrace t x).dict = s.dict := rfl
@[simp] theorem State.setTrace_side (s : State) (t : Nat) (x : Trace) : (s.setTrace t x).side = s.side := rfl
@[simp] theorem State.setTrace_pins (s : State) (t : Nat) (x : Trace) : (s.setTrace t x).pins = s.pins := rfl
@[simp] theorem State.setTrace_dma (s : State) (t : Nat) (x : Trace) : (s.setTrace t x).dma = s.dma := rfl
@[simp] theorem State.setTrace_recorder (s : State) (t : Nat) (x : Trace) : (s.setTrace t x).recorder = s.recorder := rfl
@[simp] theorem State.setTrace_update (s : State) (t : Nat) (x : Trace) : (s.setTrace t x).update = s.update := rfl

/-! ### State.setChan -/

@[simp] theorem State.setChan_pending (s : State) (c : Nat) (x : DmaChannel) : (s.setChan c x).pending = s.pending := rfl
@[simp] theorem State.setChan_variant (s : State) (c : Nat) (x : DmaChannel) : (s.setChan c x).variant = s.variant := rfl
@[simp] theorem State.setChan_clk (s : State) (c : Nat) (x : DmaChannel) : (s.setChan c x).clk = s.clk := rfl
@[simp] theorem State.setChan_freeCtr (s : State) (c : Nat) (x : DmaChannel) : (s.setChan c x).freeCtr = s.freeCtr := rfl
@[simp] theorem State.setChan_out (s : State) (c : Nat) (x : DmaChannel) : (s.setChan c x).out = s.out := rfl
@[simp] theorem State.setChan_od (s : State) (c : Nat) (x : DmaChannel) : (s.setChan c x).od = s.od := rfl
@[simp] theorem State.setChan_mem (s : State) (c : Nat) (x : DmaChannel) : (s.setChan c x).mem = s.mem := rfl
@[simp] theorem State.setChan_time (s : State) (c : Nat) (x : DmaChannel) : (s.setChan c x).time = s.time := rfl
@[simp] theorem State.setChan_cams (s : State) (c : Nat) (x : DmaChannel) : (s.setChan c x).cams = s.cams := rfl
@[simp] theorem State.setChan_pipe (s : State) (c : Nat) (x : DmaChannel) : (s.setChan c x).pipe = s.pipe := rfl
@[simp] theorem State.setChan_tracker (s : State) (c : Nat) (x : DmaChannel) : (s.setChan c x).tracker = s.tracker := rfl
@[simp] theorem State.setChan_drive (s : State) (c : Nat) (x : DmaChannel) : (s.setChan c x).drive = s.drive := rfl
@[simp] theorem State.setChan_seqs (s : State) (c : Nat) (x : DmaChannel) : (s.setChan c x).seqs = s.seqs := rfl
@[simp] theorem State.setChan_ledger (s : State) (c : Nat) (x : DmaChannel) : (s.setChan c x).ledger = s.ledger := rfl
@[simp] theorem State.setChan_loops (s : State) (c : Nat) (x : DmaChannel) : (s.setChan c x).loops = s.loops := rfl
@[simp] theorem State.setChan_power (s : State) (c : Nat) (x : DmaChannel) : (s.setChan c x).power = s.power := rfl
@[simp] theorem State.setChan_thermal (s : State) (c : Nat) (x : DmaChannel) : (s.setChan c x).thermal = s.thermal := rfl
@[simp] theorem State.setChan_backdrop (s : State) (c : Nat) (x : DmaChannel) : (s.setChan c x).backdrop = s.backdrop := rfl
@[simp] theorem State.setChan_module (s : State) (c : Nat) (x : DmaChannel) : (s.setChan c x).module = s.module := rfl
@[simp] theorem State.setChan_strand (s : State) (c : Nat) (x : DmaChannel) : (s.setChan c x).strand = s.strand := rfl
@[simp] theorem State.setChan_dict (s : State) (c : Nat) (x : DmaChannel) : (s.setChan c x).dict = s.dict := rfl
@[simp] theorem State.setChan_side (s : State) (c : Nat) (x : DmaChannel) : (s.setChan c x).side = s.side := rfl
@[simp] theorem State.setChan_pins (s : State) (c : Nat) (x : DmaChannel) : (s.setChan c x).pins = s.pins := rfl
@[simp] theorem State.setChan_recorder (s : State) (c : Nat) (x : DmaChannel) : (s.setChan c x).recorder = s.recorder := rfl
@[simp] theorem State.setChan_update (s : State) (c : Nat) (x : DmaChannel) : (s.setChan c x).update = s.update := rfl

/-! ### State.setPanel -/

@[simp] theorem State.setPanel_pending (s : State) (p : Nat) (x : Panel) : (s.setPanel p x).pending = s.pending := rfl
@[simp] theorem State.setPanel_variant (s : State) (p : Nat) (x : Panel) : (s.setPanel p x).variant = s.variant := rfl
@[simp] theorem State.setPanel_clk (s : State) (p : Nat) (x : Panel) : (s.setPanel p x).clk = s.clk := rfl
@[simp] theorem State.setPanel_freeCtr (s : State) (p : Nat) (x : Panel) : (s.setPanel p x).freeCtr = s.freeCtr := rfl
@[simp] theorem State.setPanel_out (s : State) (p : Nat) (x : Panel) : (s.setPanel p x).out = s.out := rfl
@[simp] theorem State.setPanel_od (s : State) (p : Nat) (x : Panel) : (s.setPanel p x).od = s.od := rfl
@[simp] theorem State.setPanel_mem (s : State) (p : Nat) (x : Panel) : (s.setPanel p x).mem = s.mem := rfl
@[simp] theorem State.setPanel_time (s : State) (p : Nat) (x : Panel) : (s.setPanel p x).time = s.time := rfl
@[simp] theorem State.setPanel_cams (s : State) (p : Nat) (x : Panel) : (s.setPanel p x).cams = s.cams := rfl
@[simp] theorem State.setPanel_pipe (s : State) (p : Nat) (x : Panel) : (s.setPanel p x).pipe = s.pipe := rfl
@[simp] theorem State.setPanel_tracker (s : State) (p : Nat) (x : Panel) : (s.setPanel p x).tracker = s.tracker := rfl
@[simp] theorem State.setPanel_drive (s : State) (p : Nat) (x : Panel) : (s.setPanel p x).drive = s.drive := rfl
@[simp] theorem State.setPanel_seqs (s : State) (p : Nat) (x : Panel) : (s.setPanel p x).seqs = s.seqs := rfl
@[simp] theorem State.setPanel_ledger (s : State) (p : Nat) (x : Panel) : (s.setPanel p x).ledger = s.ledger := rfl
@[simp] theorem State.setPanel_loops (s : State) (p : Nat) (x : Panel) : (s.setPanel p x).loops = s.loops := rfl
@[simp] theorem State.setPanel_power (s : State) (p : Nat) (x : Panel) : (s.setPanel p x).power = s.power := rfl
@[simp] theorem State.setPanel_thermal (s : State) (p : Nat) (x : Panel) : (s.setPanel p x).thermal = s.thermal := rfl
@[simp] theorem State.setPanel_module (s : State) (p : Nat) (x : Panel) : (s.setPanel p x).module = s.module := rfl
@[simp] theorem State.setPanel_strand (s : State) (p : Nat) (x : Panel) : (s.setPanel p x).strand = s.strand := rfl
@[simp] theorem State.setPanel_dict (s : State) (p : Nat) (x : Panel) : (s.setPanel p x).dict = s.dict := rfl
@[simp] theorem State.setPanel_side (s : State) (p : Nat) (x : Panel) : (s.setPanel p x).side = s.side := rfl
@[simp] theorem State.setPanel_pins (s : State) (p : Nat) (x : Panel) : (s.setPanel p x).pins = s.pins := rfl
@[simp] theorem State.setPanel_dma (s : State) (p : Nat) (x : Panel) : (s.setPanel p x).dma = s.dma := rfl
@[simp] theorem State.setPanel_recorder (s : State) (p : Nat) (x : Panel) : (s.setPanel p x).recorder = s.recorder := rfl
@[simp] theorem State.setPanel_update (s : State) (p : Nat) (x : Panel) : (s.setPanel p x).update = s.update := rfl

/-! ### State.setStrobe -/

@[simp] theorem State.setStrobe_pending (s : State) (n : Nat) (x : StrobeCh) : (s.setStrobe n x).pending = s.pending := rfl
@[simp] theorem State.setStrobe_variant (s : State) (n : Nat) (x : StrobeCh) : (s.setStrobe n x).variant = s.variant := rfl
@[simp] theorem State.setStrobe_clk (s : State) (n : Nat) (x : StrobeCh) : (s.setStrobe n x).clk = s.clk := rfl
@[simp] theorem State.setStrobe_freeCtr (s : State) (n : Nat) (x : StrobeCh) : (s.setStrobe n x).freeCtr = s.freeCtr := rfl
@[simp] theorem State.setStrobe_out (s : State) (n : Nat) (x : StrobeCh) : (s.setStrobe n x).out = s.out := rfl
@[simp] theorem State.setStrobe_od (s : State) (n : Nat) (x : StrobeCh) : (s.setStrobe n x).od = s.od := rfl
@[simp] theorem State.setStrobe_mem (s : State) (n : Nat) (x : StrobeCh) : (s.setStrobe n x).mem = s.mem := rfl
@[simp] theorem State.setStrobe_time (s : State) (n : Nat) (x : StrobeCh) : (s.setStrobe n x).time = s.time := rfl
@[simp] theorem State.setStrobe_cams (s : State) (n : Nat) (x : StrobeCh) : (s.setStrobe n x).cams = s.cams := rfl
@[simp] theorem State.setStrobe_pipe (s : State) (n : Nat) (x : StrobeCh) : (s.setStrobe n x).pipe = s.pipe := rfl
@[simp] theorem State.setStrobe_tracker (s : State) (n : Nat) (x : StrobeCh) : (s.setStrobe n x).tracker = s.tracker := rfl
@[simp] theorem State.setStrobe_drive (s : State) (n : Nat) (x : StrobeCh) : (s.setStrobe n x).drive = s.drive := rfl
@[simp] theorem State.setStrobe_seqs (s : State) (n : Nat) (x : StrobeCh) : (s.setStrobe n x).seqs = s.seqs := rfl
@[simp] theorem State.setStrobe_ledger (s : State) (n : Nat) (x : StrobeCh) : (s.setStrobe n x).ledger = s.ledger := rfl
@[simp] theorem State.setStrobe_loops (s : State) (n : Nat) (x : StrobeCh) : (s.setStrobe n x).loops = s.loops := rfl
@[simp] theorem State.setStrobe_power (s : State) (n : Nat) (x : StrobeCh) : (s.setStrobe n x).power = s.power := rfl
@[simp] theorem State.setStrobe_thermal (s : State) (n : Nat) (x : StrobeCh) : (s.setStrobe n x).thermal = s.thermal := rfl
@[simp] theorem State.setStrobe_module (s : State) (n : Nat) (x : StrobeCh) : (s.setStrobe n x).module = s.module := rfl
@[simp] theorem State.setStrobe_strand (s : State) (n : Nat) (x : StrobeCh) : (s.setStrobe n x).strand = s.strand := rfl
@[simp] theorem State.setStrobe_dict (s : State) (n : Nat) (x : StrobeCh) : (s.setStrobe n x).dict = s.dict := rfl
@[simp] theorem State.setStrobe_side (s : State) (n : Nat) (x : StrobeCh) : (s.setStrobe n x).side = s.side := rfl
@[simp] theorem State.setStrobe_pins (s : State) (n : Nat) (x : StrobeCh) : (s.setStrobe n x).pins = s.pins := rfl
@[simp] theorem State.setStrobe_dma (s : State) (n : Nat) (x : StrobeCh) : (s.setStrobe n x).dma = s.dma := rfl
@[simp] theorem State.setStrobe_recorder (s : State) (n : Nat) (x : StrobeCh) : (s.setStrobe n x).recorder = s.recorder := rfl
@[simp] theorem State.setStrobe_update (s : State) (n : Nat) (x : StrobeCh) : (s.setStrobe n x).update = s.update := rfl

/-! ### State.setLock -/

@[simp] theorem State.setLock_pending (s : State) (n : Nat) (l : Option Lock) : (s.setLock n l).pending = s.pending := rfl
@[simp] theorem State.setLock_variant (s : State) (n : Nat) (l : Option Lock) : (s.setLock n l).variant = s.variant := rfl
@[simp] theorem State.setLock_clk (s : State) (n : Nat) (l : Option Lock) : (s.setLock n l).clk = s.clk := rfl
@[simp] theorem State.setLock_freeCtr (s : State) (n : Nat) (l : Option Lock) : (s.setLock n l).freeCtr = s.freeCtr := rfl
@[simp] theorem State.setLock_out (s : State) (n : Nat) (l : Option Lock) : (s.setLock n l).out = s.out := rfl
@[simp] theorem State.setLock_od (s : State) (n : Nat) (l : Option Lock) : (s.setLock n l).od = s.od := rfl
@[simp] theorem State.setLock_mem (s : State) (n : Nat) (l : Option Lock) : (s.setLock n l).mem = s.mem := rfl
@[simp] theorem State.setLock_time (s : State) (n : Nat) (l : Option Lock) : (s.setLock n l).time = s.time := rfl
@[simp] theorem State.setLock_cams (s : State) (n : Nat) (l : Option Lock) : (s.setLock n l).cams = s.cams := rfl
@[simp] theorem State.setLock_pipe (s : State) (n : Nat) (l : Option Lock) : (s.setLock n l).pipe = s.pipe := rfl
@[simp] theorem State.setLock_tracker (s : State) (n : Nat) (l : Option Lock) : (s.setLock n l).tracker = s.tracker := rfl
@[simp] theorem State.setLock_drive (s : State) (n : Nat) (l : Option Lock) : (s.setLock n l).drive = s.drive := rfl
@[simp] theorem State.setLock_seqs (s : State) (n : Nat) (l : Option Lock) : (s.setLock n l).seqs = s.seqs := rfl
@[simp] theorem State.setLock_ledger (s : State) (n : Nat) (l : Option Lock) : (s.setLock n l).ledger = s.ledger := rfl
@[simp] theorem State.setLock_loops (s : State) (n : Nat) (l : Option Lock) : (s.setLock n l).loops = s.loops := rfl
@[simp] theorem State.setLock_power (s : State) (n : Nat) (l : Option Lock) : (s.setLock n l).power = s.power := rfl
@[simp] theorem State.setLock_thermal (s : State) (n : Nat) (l : Option Lock) : (s.setLock n l).thermal = s.thermal := rfl
@[simp] theorem State.setLock_backdrop (s : State) (n : Nat) (l : Option Lock) : (s.setLock n l).backdrop = s.backdrop := rfl
@[simp] theorem State.setLock_module (s : State) (n : Nat) (l : Option Lock) : (s.setLock n l).module = s.module := rfl
@[simp] theorem State.setLock_strand (s : State) (n : Nat) (l : Option Lock) : (s.setLock n l).strand = s.strand := rfl
@[simp] theorem State.setLock_side (s : State) (n : Nat) (l : Option Lock) : (s.setLock n l).side = s.side := rfl
@[simp] theorem State.setLock_pins (s : State) (n : Nat) (l : Option Lock) : (s.setLock n l).pins = s.pins := rfl
@[simp] theorem State.setLock_dma (s : State) (n : Nat) (l : Option Lock) : (s.setLock n l).dma = s.dma := rfl
@[simp] theorem State.setLock_recorder (s : State) (n : Nat) (l : Option Lock) : (s.setLock n l).recorder = s.recorder := rfl
@[simp] theorem State.setLock_update (s : State) (n : Nat) (l : Option Lock) : (s.setLock n l).update = s.update := rfl

/-! ### State.setStage -/

@[simp] theorem State.setStage_pending (s : State) (m : Master) (g : Stage) : (s.setStage m g).pending = s.pending := rfl
@[simp] theorem State.setStage_variant (s : State) (m : Master) (g : Stage) : (s.setStage m g).variant = s.variant := rfl
@[simp] theorem State.setStage_clk (s : State) (m : Master) (g : Stage) : (s.setStage m g).clk = s.clk := rfl
@[simp] theorem State.setStage_freeCtr (s : State) (m : Master) (g : Stage) : (s.setStage m g).freeCtr = s.freeCtr := rfl
@[simp] theorem State.setStage_out (s : State) (m : Master) (g : Stage) : (s.setStage m g).out = s.out := rfl
@[simp] theorem State.setStage_od (s : State) (m : Master) (g : Stage) : (s.setStage m g).od = s.od := rfl
@[simp] theorem State.setStage_mem (s : State) (m : Master) (g : Stage) : (s.setStage m g).mem = s.mem := rfl
@[simp] theorem State.setStage_time (s : State) (m : Master) (g : Stage) : (s.setStage m g).time = s.time := rfl
@[simp] theorem State.setStage_cams (s : State) (m : Master) (g : Stage) : (s.setStage m g).cams = s.cams := rfl
@[simp] theorem State.setStage_pipe (s : State) (m : Master) (g : Stage) : (s.setStage m g).pipe = s.pipe := rfl
@[simp] theorem State.setStage_tracker (s : State) (m : Master) (g : Stage) : (s.setStage m g).tracker = s.tracker := rfl
@[simp] theorem State.setStage_drive (s : State) (m : Master) (g : Stage) : (s.setStage m g).drive = s.drive := rfl
@[simp] theorem State.setStage_seqs (s : State) (m : Master) (g : Stage) : (s.setStage m g).seqs = s.seqs := rfl
@[simp] theorem State.setStage_ledger (s : State) (m : Master) (g : Stage) : (s.setStage m g).ledger = s.ledger := rfl
@[simp] theorem State.setStage_loops (s : State) (m : Master) (g : Stage) : (s.setStage m g).loops = s.loops := rfl
@[simp] theorem State.setStage_power (s : State) (m : Master) (g : Stage) : (s.setStage m g).power = s.power := rfl
@[simp] theorem State.setStage_thermal (s : State) (m : Master) (g : Stage) : (s.setStage m g).thermal = s.thermal := rfl
@[simp] theorem State.setStage_backdrop (s : State) (m : Master) (g : Stage) : (s.setStage m g).backdrop = s.backdrop := rfl
@[simp] theorem State.setStage_module (s : State) (m : Master) (g : Stage) : (s.setStage m g).module = s.module := rfl
@[simp] theorem State.setStage_strand (s : State) (m : Master) (g : Stage) : (s.setStage m g).strand = s.strand := rfl
@[simp] theorem State.setStage_side (s : State) (m : Master) (g : Stage) : (s.setStage m g).side = s.side := rfl
@[simp] theorem State.setStage_pins (s : State) (m : Master) (g : Stage) : (s.setStage m g).pins = s.pins := rfl
@[simp] theorem State.setStage_dma (s : State) (m : Master) (g : Stage) : (s.setStage m g).dma = s.dma := rfl
@[simp] theorem State.setStage_recorder (s : State) (m : Master) (g : Stage) : (s.setStage m g).recorder = s.recorder := rfl
@[simp] theorem State.setStage_update (s : State) (m : Master) (g : Stage) : (s.setStage m g).update = s.update := rfl

/-! ### State.setMailbox -/

@[simp] theorem State.setMailbox_pending (s : State) (m : Nat) (x : Mailbox) : (s.setMailbox m x).pending = s.pending := rfl
@[simp] theorem State.setMailbox_variant (s : State) (m : Nat) (x : Mailbox) : (s.setMailbox m x).variant = s.variant := rfl
@[simp] theorem State.setMailbox_clk (s : State) (m : Nat) (x : Mailbox) : (s.setMailbox m x).clk = s.clk := rfl
@[simp] theorem State.setMailbox_freeCtr (s : State) (m : Nat) (x : Mailbox) : (s.setMailbox m x).freeCtr = s.freeCtr := rfl
@[simp] theorem State.setMailbox_out (s : State) (m : Nat) (x : Mailbox) : (s.setMailbox m x).out = s.out := rfl
@[simp] theorem State.setMailbox_od (s : State) (m : Nat) (x : Mailbox) : (s.setMailbox m x).od = s.od := rfl
@[simp] theorem State.setMailbox_mem (s : State) (m : Nat) (x : Mailbox) : (s.setMailbox m x).mem = s.mem := rfl
@[simp] theorem State.setMailbox_time (s : State) (m : Nat) (x : Mailbox) : (s.setMailbox m x).time = s.time := rfl
@[simp] theorem State.setMailbox_cams (s : State) (m : Nat) (x : Mailbox) : (s.setMailbox m x).cams = s.cams := rfl
@[simp] theorem State.setMailbox_pipe (s : State) (m : Nat) (x : Mailbox) : (s.setMailbox m x).pipe = s.pipe := rfl
@[simp] theorem State.setMailbox_tracker (s : State) (m : Nat) (x : Mailbox) : (s.setMailbox m x).tracker = s.tracker := rfl
@[simp] theorem State.setMailbox_drive (s : State) (m : Nat) (x : Mailbox) : (s.setMailbox m x).drive = s.drive := rfl
@[simp] theorem State.setMailbox_seqs (s : State) (m : Nat) (x : Mailbox) : (s.setMailbox m x).seqs = s.seqs := rfl
@[simp] theorem State.setMailbox_ledger (s : State) (m : Nat) (x : Mailbox) : (s.setMailbox m x).ledger = s.ledger := rfl
@[simp] theorem State.setMailbox_loops (s : State) (m : Nat) (x : Mailbox) : (s.setMailbox m x).loops = s.loops := rfl
@[simp] theorem State.setMailbox_power (s : State) (m : Nat) (x : Mailbox) : (s.setMailbox m x).power = s.power := rfl
@[simp] theorem State.setMailbox_thermal (s : State) (m : Nat) (x : Mailbox) : (s.setMailbox m x).thermal = s.thermal := rfl
@[simp] theorem State.setMailbox_backdrop (s : State) (m : Nat) (x : Mailbox) : (s.setMailbox m x).backdrop = s.backdrop := rfl
@[simp] theorem State.setMailbox_module (s : State) (m : Nat) (x : Mailbox) : (s.setMailbox m x).module = s.module := rfl
@[simp] theorem State.setMailbox_dict (s : State) (m : Nat) (x : Mailbox) : (s.setMailbox m x).dict = s.dict := rfl
@[simp] theorem State.setMailbox_side (s : State) (m : Nat) (x : Mailbox) : (s.setMailbox m x).side = s.side := rfl
@[simp] theorem State.setMailbox_pins (s : State) (m : Nat) (x : Mailbox) : (s.setMailbox m x).pins = s.pins := rfl
@[simp] theorem State.setMailbox_dma (s : State) (m : Nat) (x : Mailbox) : (s.setMailbox m x).dma = s.dma := rfl
@[simp] theorem State.setMailbox_recorder (s : State) (m : Nat) (x : Mailbox) : (s.setMailbox m x).recorder = s.recorder := rfl
@[simp] theorem State.setMailbox_update (s : State) (m : Nat) (x : Mailbox) : (s.setMailbox m x).update = s.update := rfl

/-! ### What is read back -/

theorem getD_set_self {α : Type} (l : List α) (p : Nat) (x d : α) (h : p < l.length) : (l.set p x).getD p d = x := by
  simp [List.getD_eq_getElem?_getD, List.getElem?_set, h]

theorem getD_set_other {α : Type} (l : List α) (p q : Nat) (x d : α) (h : q ≠ p) : (l.set p x).getD q d = l.getD q d := by
  simp [List.getD_eq_getElem?_getD, List.getElem?_set, h.symm]

theorem State.setCam_cam_self (s : State) (p : Nat) (x : Camera) (h : p < s.cams.length) : (s.setCam p x).cam p = x := getD_set_self _ _ _ _ h
theorem State.setCam_cam_other (s : State) {q : Nat} (p : Nat) (x : Camera) (h : q ≠ p) : (s.setCam p x).cam q = s.cam q := getD_set_other _ _ _ _ _ h

theorem State.setLink_link_self (s : State) (p : Nat) (x : LinkSt) (h : p < s.strand.links.length) : (s.setLink p x).link p = x := getD_set_self _ _ _ _ h
theorem State.setLink_link_other (s : State) {q : Nat} (p : Nat) (x : LinkSt) (h : q ≠ p) : (s.setLink p x).link q = s.link q := getD_set_other _ _ _ _ _ h

theorem State.setValve_valve_self (s : State) (p : Nat) (x : ValveSt) (h : p < s.drive.valves.length) : (s.setValve p x).valve p = x := getD_set_self _ _ _ _ h
theorem State.setValve_valve_other (s : State) {q : Nat} (p : Nat) (x : ValveSt) (h : q ≠ p) : (s.setValve p x).valve q = s.valve q := getD_set_other _ _ _ _ _ h

theorem State.setGroup_group_self (s : State) (p : Nat) (x : GroupSt) (h : p < s.drive.groups.length) : (s.setGroup p x).group p = x := getD_set_self _ _ _ _ h
theorem State.setGroup_group_other (s : State) {q : Nat} (p : Nat) (x : GroupSt) (h : q ≠ p) : (s.setGroup p x).group q = s.group q := getD_set_other _ _ _ _ _ h

theorem State.setSeq_seq_self (s : State) (p : Nat) (x : Seq) (h : p < s.seqs.seqs.length) : (s.setSeq p x).seq p = x := getD_set_self _ _ _ _ h
theorem State.setSeq_seq_other (s : State) {q : Nat} (p : Nat) (x : Seq) (h : q ≠ p) : (s.setSeq p x).seq q = s.seq q := getD_set_other _ _ _ _ _ h

theorem State.setStore_store_self (s : State) (p : Nat) (x : GroupStore) (h : p < s.seqs.stores.length) : (s.setStore p x).store p = x := getD_set_self _ _ _ _ h
theorem State.setStore_store_other (s : State) {q : Nat} (p : Nat) (x : GroupStore) (h : q ≠ p) : (s.setStore p x).store q = s.store q := getD_set_other _ _ _ _ _ h

theorem State.setSlot_slot_self (s : State) (p : Nat) (x : LoopSlot) (h : p < s.loops.slots.length) : (s.setSlot p x).slot p = x := getD_set_self _ _ _ _ h
theorem State.setSlot_slot_other (s : State) {q : Nat} (p : Nat) (x : LoopSlot) (h : q ≠ p) : (s.setSlot p x).slot q = s.slot q := getD_set_other _ _ _ _ _ h

theorem State.setTrace_trace_self (s : State) (p : Nat) (x : Trace) (h : p < s.loops.traces.length) : (s.setTrace p x).trace p = x := getD_set_self _ _ _ _ h
theorem State.setTrace_trace_other (s : State) {q : Nat} (p : Nat) (x : Trace) (h : q ≠ p) : (s.setTrace p x).trace q = s.trace q := getD_set_other _ _ _ _ _ h

theorem State.setChan_chan_self (s : State) (p : Nat) (x : DmaChannel) (h : p < s.dma.channels.length) : (s.setChan p x).chan p = x := getD_set_self _ _ _ _ h
theorem State.setChan_chan_other (s : State) {q : Nat} (p : Nat) (x : DmaChannel) (h : q ≠ p) : (s.setChan p x).chan q = s.chan q := getD_set_other _ _ _ _ _ h

theorem State.setPanel_panel_self (s : State) (p : Nat) (x : Panel) (h : p < s.backdrop.panels.length) : (s.setPanel p x).panel p = x := getD_set_self _ _ _ _ h
theorem State.setPanel_panel_other (s : State) {q : Nat} (p : Nat) (x : Panel) (h : q ≠ p) : (s.setPanel p x).panel q = s.panel q := getD_set_other _ _ _ _ _ h

/-- A value put is read back, another object's value stands. -/
@[simp] theorem State.val_put_self (s : State) (k : Nat) (v : Val) : (s.put k v).val k = v := by
  unfold State.val State.put
  simp

theorem State.val_put_other (s : State) {k j : Nat} (v : Val) (h : j ≠ k) : (s.put k v).val j = s.val j := by
  unfold State.val State.put
  simp only [assocGet_assocSet_ne _ _ _ _ h]
  rfl

end Sys2Proof.Machine
end

