-- ==== Sys2Proof/WellFormed.lean ====
section
/-!
DEFINITION. Well-formed commands: every operand fits the field that carries it (the field widths of chapters 02 to 18).
-/
namespace Sys2Proof

/-- A number fits a field of `n` bits. -/
def fits (n v : Nat) : Bool := v < 2 ^ n

/-- Data is no longer than its carrier takes. -/
def short (n : Nat) (d : List Byte) : Bool := d.length ≤ n

/-- A value fits the largest type of its kind (14 R387). -/
def valFits : Val → Bool
  | .num n => -(2 ^ 63 : Int) ≤ n && n < 2 ^ 64
  | .bytes b => short 8388608 b

/-- A received frame: header fields that fit their bits, and the length of its payload (13 R352). -/
def frameFits (f : Frame) : Bool :=
  fits 3 f.hdr.vc && fits 12 f.hdr.dest && fits 12 f.hdr.src && fits 4 f.hdr.type && fits 10 f.hdr.len && f.hdr.len == f.words.length && !f.inverted

/-- A size that an SDO request may indicate. -/
def sizeFits (size : Option Nat) : Bool := match size with | some n => fits 32 n | none => true

/-- A request frame of an SDO download: fields of their widths, at most 4 bytes expedited, 7 in a segment, and none where the frame has none. -/
def downFits (data : List Byte) : SdoDown → Bool
  | .expedited => short 4 data && !data.isEmpty
  | .start size => sizeFits size && data.isEmpty
  | .segment _ _ => short 7 data
  | .blockStart _ size => sizeFits size && data.isEmpty
  | .blockSegment seq _ => fits 7 seq && data.length == 7
  | .blockEnd unused crc => fits 3 unused && fits 16 crc && data.isEmpty
  | .abort code => fits 32 code && data.isEmpty

/-- A request frame of an SDO upload: fields of their widths. -/
def upFits : SdoUp → Bool
  | .start _ => true
  | .segment _ => true
  | .blockStart _ _ size => fits 8 size
  | .blockGo => true
  | .blockAck seq size => fits 8 seq && fits 8 size
  | .blockEnd => true
  | .abort code => fits 32 code

/-- The fields after the confidence of a VERDICT fit their bits (13 R376). -/
def tailFits (x : VerdictTail) : Bool := fits 8 x.margin && fits 1 x.bank && fits 32 x.model

/-- A command is well formed. -/
def Instr.wf (i : Instr) : Bool :=
  match i with
  | .syncInterval => true
  | .timeSync _ t1 gm hops seq phase turnaround => fits 64 t1 && fits 12 gm && fits 8 hops && fits 32 seq && fits 8 phase && fits 64 turnaround
  | .timeReply _ seq phase => fits 32 seq && fits 8 phase
  | .timeFollow _ t4 seq => fits 64 t4 && fits 32 seq
  | .upstreamTimeout => true
  | .electionTimeout => true
  | .announce _ candidate _ hops => fits 12 candidate && fits 8 hops
  | .holdoverLimit => true
  | .learnedFrequencyValid => true
  | .rootPllLockLost => true
  | .syncInEdge _ phase => fits 8 phase
  | .syncOutPulse => true
  | .lineTrigger _ => true
  | .gateEdge _ => true
  | .pairingTimeout _ => true
  | .lineStart _ tick _ => fits 64 tick
  | .lineComplete _ _ => true
  | .shortLine _ _ => true
  | .fifoOverrun _ => true
  | .fvalFall _ => true
  | .settingsCommand _ _ data => short 64 data
  | .rawTransmit _ _ data => short 256 data
  | .settingsTransmitStart _ => true
  | .settingsTransmitEnd _ => true
  | .serialReceive _ data => short 8388608 data
  | .replyTimeout _ => true
  | .cc1WidthApply _ => true
  | .startPort _ _ => true
  | .startPlane _ _ => true
  | .stopStream _ _ => true
  | .poclDetectionDone _ _ _ => true
  | .pixelClockStable _ kHz => fits 32 kHz
  | .pixelClockTimeout _ => true
  | .startupBlockSent _ => true
  | .settleElapsed _ => true
  | .poclTrip _ current => fits 16 current
  | .poclReapply _ => true
  | .poclRearm _ _ => true
  | .pixelClockLoss _ => true
  | .portRecovery _ kHz => fits 32 kHz
  | .portRejoin _ => true
  | .fixStripe => true
  | .contextTableWrite _ _ sub v => fits 8 sub && valFits v
  | .gradeFrameTake => true
  | .gradeFrameDone => true
  | .objectClassified => true
  | .bankImageWrite _ bank image => fits 1 bank && short 8388608 image
  | .libraryLoad _ bank slot => fits 1 bank && fits 16 slot
  | .libraryLoadDone bank => fits 1 bank
  | .bankSwapRequest _ => true
  | .captureDark _ => true
  | .captureGrey _ => true
  | .captureBackdrop _ => true
  | .captureComplete => true
  | .captureTimeout => true
  | .fixArrival _ => true
  | .upperSightingArrival _ _ => true
  | .fixDeadline handle => fits 32 handle
  | .fireDecision handle => fits 32 handle
  | .recordRetire handle => fits 32 handle
  | .dropGeometryWrite _ sub value => fits 8 sub && fits 64 value
  | .placementWrite _ group value => fits 4 group && fits 64 value
  | .governorRun => true
  | .chipFrame src handle epoch segment count sendTick data => fits 12 src && fits 32 handle && fits 8 epoch && fits 8 segment && fits 8 count && fits 64 sendTick && short 8388608 data
  | .chipReassemblyTimeout src handle epoch => fits 12 src && fits 32 handle && fits 8 epoch
  | .verdictMessage src sendTick handle epoch cls conf tail => fits 12 src && fits 64 sendTick && fits 32 handle && fits 8 epoch && fits 4 cls && fits 8 conf && tailFits tail
  | .refusalMessage src sendTick handle epoch cause => fits 12 src && fits 64 sendTick && fits 32 handle && fits 8 epoch && fits 8 cause
  | .fireMessage src valve ta shotEnd handle conf _ => fits 12 src && fits 8 valve && fits 64 ta && fits 64 shotEnd && fits 32 handle && fits 8 conf
  | .floorRecompute => true
  | .deferralLimit _ => true
  | .kinkWindowOpen _ => true
  | .kinkWindowEnd _ _ => true
  | .thermalUpdate _ => true
  | .valveEnDeassert => true
  | .valveEnAssert => true
  | .valveEnSettled => true
  | .groupOvercurrent _ => true
  | .coilShort _ => true
  | .valveStateWrite _ _ value => fits 64 value
  | .groupRestore _ _ => true
  | .testShot _ => true
  | .nop _ => true
  | .boost _ => true
  | .boostPhaseEnd _ tick energy => fits 64 tick && fits 32 energy
  | .boostAbandon _ => true
  | .hold _ => true
  | .holdEnd _ => true
  | .seti _ => true
  | .decay _ => true
  | .wait _ => true
  | .waitExpiry _ => true
  | .waiti _ => true
  | .waitiConditionMet _ tick reading => fits 64 tick && fits 32 reading
  | .waitiTimeout _ reading => fits 32 reading
  | .mark _ => true
  | .off _ => true
  | .loop _ => true
  | .profileEnd _ => true
  | .illegalWord _ => true
  | .sequencerIdle _ tick => fits 64 tick
  | .shadowImageWrite _ _ image => short 8388608 image
  | .imageAllGroups _ image => short 8388608 image
  | .groupSwapRequest _ _ => true
  | .swapAllGroups _ => true
  | .groupSwap _ => true
  | .swapHold _ => true
  | .swapAbandon _ => true
  | .profileSelect _ _ profile => fits 4 profile
  | .operatingHour => true
  | .valveReplaced _ v => fits 16 v
  | .dieMarginSample margin => fits 16 margin.atMean && fits 16 margin.at110
  | .bulkRechargeMeasured ticks rise => fits 32 ticks && fits 32 rise
  | .loopSample _ _ => true
  | .loopBankWrite _ _ bank image => fits 1 bank && short 8388608 image
  | .loopBankSwap _ _ => true
  | .loopRearm _ _ => true
  | .loopEnableWrite _ _ value => fits 64 value
  | .pin0Pulse tick => fits 64 tick
  | .traceArm _ _ => true
  | .traceForceTrigger _ _ => true
  | .traceStop _ _ => true
  | .traceSample _ _ => true
  | .panelScan => true
  | .pairComplete _ => true
  | .waveformTableWrite _ _ table => short 8388608 table
  | .regionGo _ _ => true
  | .imageSlotWrite _ slot image => fits 16 slot && short 8388608 image
  | .trimMapWrite _ _ map => short 8388608 map
  | .railStep _ _ => true
  | .railHoldExpiry => true
  | .railPowerDownStep _ => true
  | .stripWrite => true
  | .islandStripWrite => true
  | .panelGrey _ => true
  | .panelHome _ => true
  | .eventCodeAck _ => true
  | .strobePulse _ vf _ => fits 16 vf
  | .strobeEnable _ _ value => fits 64 value
  | .mainsUp => true
  | .mainsOutOfRange => true
  | .inputPowerSample watts _ => fits 16 watts
  | .railOutOfRegulation rail => fits 8 rail
  | .powerFailWarning => true
  | .mainsReturn => true
  | .mainSideOffElapsed => true
  | .mooredRequest _ => true
  | .mooredUpdatesDone => true
  | .mooredEntryTimeout => true
  | .wakeTimer => true
  | .wakeIn _ => true
  | .wakeCanopen => true
  | .vSbLoss => true
  | .vSbReturn mV => fits 16 mV
  | .dieSample _ => true
  | .diodeBrokenLimit => true
  | .fanStall _ => true
  | .stateIdle _ => true
  | .stateCalibrate _ => true
  | .stateSort _ => true
  | .sortingReached => true
  | .sortStopDone => true
  | .mainSideStart _ => true
  | .resumeSorting => true
  | .watchdogExpiry => true
  | .restartCommand _ => true
  | .signalDetect _ => true
  | .retrainTimer _ => true
  | .hello _ _ => true
  | .syncHeaderErrors _ => true
  | .unknownControlBlock _ type => fits 8 type
  | .heartbeatSend => true
  | .heartbeatReceived _ id state time load seq => fits 29 id && fits 8 state && fits 64 time && fits 16 load && fits 32 seq
  | .heartbeatLoss _ => true
  | .frameReceived _ f seq crc => frameFits f && fits 32 seq && fits 32 crc
  | .ackBlock _ seq _ => fits 32 seq
  | .creditBlock _ vc blocks => fits 3 vc && fits 16 blocks
  | .frameForward => true
  | .topoRecord _ _ => true
  | .topoFlood => true
  | .topoExpiry id => fits 29 id
  | .dictRead src txn index sub part => fits 12 src && fits 8 txn && fits 16 index && fits 8 sub && fits 31 part.offset
  | .dictWrite src txn index sub _ offset total data => fits 12 src && fits 8 txn && fits 16 index && fits 8 sub && fits 32 offset && fits 32 total && short 8160 data
  | .dictSegmentTimeout src txn => fits 12 src && fits 8 txn
  | .winRead src txn address len => fits 12 src && fits 8 txn && fits 40 address && fits 32 len
  | .winWrite src txn address data => fits 12 src && fits 8 txn && fits 40 address && short 8160 data
  | .bulkFrame src stream seq _ address data => fits 12 src && fits 4 stream && fits 32 seq && fits 40 address && short 8176 data
  | .mboxBell _ => true
  | .streamCfgWrite _ _ value => fits 64 value
  | .objectWrite _ index sub v => fits 16 index && fits 8 sub && valFits v
  | .lockAcquire _ first last lease slot => fits 16 first && fits 16 last && fits 16 lease && fits 16 slot
  | .lockRenew _ lease slot => fits 16 lease && fits 16 slot
  | .lockRelease _ slot => fits 16 slot
  | .lockExpiry _ => true
  | .stageOpen _ => true
  | .stageCommit _ => true
  | .stageDiscard _ => true
  | .stageTimeout _ => true
  | .storeParameters _ _ value _ => fits 64 value
  | .restoreDefaults _ _ req => fits 64 req.value
  | .nmtStart node => fits 8 node
  | .nmtStop node => fits 8 node
  | .nmtPreOperational node => fits 8 node
  | .nmtResetCommunication node => fits 8 node
  | .nmtResetNode node => fits 8 node
  | .canFrameReceived _ id data => fits 29 id && short 64 data
  | .canBusError tec rec_ => fits 16 tec && fits 16 rec_
  | .busOffRecovery => true
  | .clockSourceChange => true
  | .sdoDownload index sub _ data request => fits 16 index && fits 8 sub && downFits data request
  | .sdoUpload index sub request => fits 16 index && fits 8 sub && upFits request
  | .sdoTimeout => true
  | .syncFrame data => short 8 data
  | .rpdo _ data => short 8 data
  | .tpdoEventTimer _ => true
  | .emcySend => true
  | .heartbeatProduce => true
  | .heartbeatConsumerTimeout _ => true
  | .lssSwitchGlobal mode => fits 8 mode
  | .lssSwitchSelective vendor product revision serial => fits 32 vendor && fits 32 product && fits 32 revision && fits 32 serial
  | .lssConfigureNodeId node => fits 8 node
  | .lssConfigureBitTiming table index => fits 8 table && fits 16 index
  | .lssActivateBitTiming delay => fits 16 delay
  | .lssSwitchDelayEnd => true
  | .lssStoreConfiguration _ => true
  | .lssInquireVendorId => true
  | .lssInquireProductCode => true
  | .lssInquireRevision => true
  | .lssInquireSerial => true
  | .lssInquireNodeId => true
  | .lssIdentifyRemoteSlave vendor product revLow revHigh serLow serHigh => fits 32 vendor && fits 32 product && fits 32 revLow && fits 32 revHigh && fits 32 serLow && fits 32 serHigh
  | .lssIdentifyNonConfigured => true
  | .lssFastscan number bitCheck sub next => fits 32 number && fits 8 bitCheck && fits 8 sub && fits 8 next
  | .chStart _ => true
  | .chAbort _ moved data => fits 32 moved.moved && short 8388608 data
  | .chAppend _ => true
  | .chNextWrite _ value => fits 64 value
  | .chIrqClear _ => true
  | .chIrqUnmask _ _ => true
  | .descriptorComplete data _ => short 8388608 data
  | .requestorAssert code => fits 8 code
  | .requestorWithdraw code moved data => fits 8 code && fits 32 moved.moved && short 8388608 data
  | .dmaStall => true
  | .recordWriteDone => true
  | .tallySample => true
  | .tallyConfigWrite _ sub v => fits 8 sub && valFits v
  | .selectBySequence _ seq => fits 32 seq
  | .exportLog _ address => fits 40 address
  | .exportDone => true
  | .clearChallenge _ => true
  | .clearResponse _ response => short 8 response
  | .clearLockExpiry => true
  | .stagingImageWrite _ offset total data => fits 32 offset && fits 32 total && short 8388608 data
  | .stagingIdleTimeout => true
  | .verifyDone => true
  | .updateVerifyAgain _ => true
  | .updateMarkPending _ => true
  | .updateMarkPendingRestart _ => true
  | .updateCancelPending _ => true
  | .updateRestartFromStaging _ => true
  | .updateStageFromDdr _ => true
  | .copyBlockDone => true
  | .firstStartWatchEnd => true
  | .librarySlotWrite _ slot image => fits 16 slot && short 8388608 image
  | .airOkEdge _ => true
  | .guardOkEdge _ => true
  | .doutOverload _ => true
  | .doutRetry _ => true
  | .strapRead row _ => fits 3 row
  | .tachometerPulse _ period => fits 32 period
  | .islandWatchdogExpiry => true
  | .canFrameSent => true

end Sys2Proof
end

