-- ==== Sys2Proof/Tests/Slice0.lean ====
section
/-!
SUPPORT. Tests: ill-formed terms refused by each check, single steps with results worked out from the manual, and a witness for the hypotheses of
every statement that has them.
-/
set_option Elab.async false
set_option maxRecDepth 4000

namespace Sys2Proof

/-! ### The checks of well-formedness each refuse an ill-formed term -/

/-- One operand too wide for its field in each. -/
theorem test_ill_formed_1 : ([
    .timeSync 0 18446744073709551616 0 0 0 0 0,
    .timeSync 0 0 4096 0 0 0 0,
    .timeSync 0 0 0 256 0 0 0,
    .timeSync 0 0 0 0 4294967296 0 0,
    .timeSync 0 0 0 0 0 256 0,
    .timeSync 0 0 0 0 0 0 18446744073709551616,
    .timeReply 0 4294967296 0,
    .timeReply 0 0 256,
    .timeFollow 0 18446744073709551616 0,
    .timeFollow 0 0 4294967296,
    .announce 0 4096 false 0,
    .announce 0 0 false 256,
    .syncInEdge false 256,
    .lineStart 0 18446744073709551616 false,
    .settingsCommand .host 0 (List.replicate 65 0),
    .rawTransmit .host 0 (List.replicate 257 0),
    .pixelClockStable 0 4294967296,
    .poclTrip 0 65536,
    .portRecovery 0 4294967296,
    .contextTableWrite .host 0 256 (.num 0),
    .contextTableWrite .host 0 0 (.num (2 ^ 64)),
    .bankImageWrite .host 2 [],
    .libraryLoad .host 2 0,
    .libraryLoad .host 0 65536] : List Instr).all (fun i => !i.wf) = true := by decide +kernel

/-- One operand too wide for its field in each. -/
theorem test_ill_formed_2 : ([
    .libraryLoadDone 2,
    .fixDeadline 4294967296,
    .fireDecision 4294967296,
    .recordRetire 4294967296,
    .dropGeometryWrite .host 256 0,
    .dropGeometryWrite .host 0 18446744073709551616,
    .placementWrite .host 16 0,
    .placementWrite .host 0 18446744073709551616,
    .chipFrame 4096 0 0 0 0 0 [],
    .chipFrame 0 4294967296 0 0 0 0 [],
    .chipFrame 0 0 256 0 0 0 [],
    .chipFrame 0 0 0 256 0 0 [],
    .chipFrame 0 0 0 0 256 0 [],
    .chipFrame 0 0 0 0 0 18446744073709551616 [],
    .chipReassemblyTimeout 4096 0 0,
    .chipReassemblyTimeout 0 4294967296 0,
    .chipReassemblyTimeout 0 0 256,
    .verdictMessage 4096 0 0 0 0 0 ⟨0, 0, 0⟩,
    .verdictMessage 0 18446744073709551616 0 0 0 0 ⟨0, 0, 0⟩,
    .verdictMessage 0 0 4294967296 0 0 0 ⟨0, 0, 0⟩,
    .verdictMessage 0 0 0 256 0 0 ⟨0, 0, 0⟩,
    .verdictMessage 0 0 0 0 16 0 ⟨0, 0, 0⟩,
    .verdictMessage 0 0 0 0 0 256 ⟨0, 0, 0⟩,
    .verdictMessage 0 0 0 0 0 0 ⟨256, 0, 0⟩] : List Instr).all (fun i => !i.wf) = true := by decide +kernel

/-- One operand too wide for its field in each. -/
theorem test_ill_formed_3 : ([
    .verdictMessage 0 0 0 0 0 0 ⟨0, 2, 0⟩,
    .verdictMessage 0 0 0 0 0 0 ⟨0, 0, 4294967296⟩,
    .refusalMessage 4096 0 0 0 0,
    .refusalMessage 0 18446744073709551616 0 0 0,
    .refusalMessage 0 0 4294967296 0 0,
    .refusalMessage 0 0 0 256 0,
    .refusalMessage 0 0 0 0 256,
    .fireMessage 4096 0 0 0 0 0 false,
    .fireMessage 0 256 0 0 0 0 false,
    .fireMessage 0 0 18446744073709551616 0 0 0 false,
    .fireMessage 0 0 0 18446744073709551616 0 0 false,
    .fireMessage 0 0 0 0 4294967296 0 false,
    .fireMessage 0 0 0 0 0 256 false,
    .valveStateWrite .host 0 18446744073709551616,
    .boostPhaseEnd 0 18446744073709551616 0,
    .boostPhaseEnd 0 0 4294967296,
    .waitiConditionMet 0 18446744073709551616 0,
    .waitiConditionMet 0 0 4294967296,
    .waitiTimeout 0 4294967296,
    .sequencerIdle 0 18446744073709551616,
    .profileSelect .host 0 16,
    .valveReplaced .host 65536,
    .dieMarginSample ⟨65536, 0⟩,
    .dieMarginSample ⟨0, 65536⟩] : List Instr).all (fun i => !i.wf) = true := by decide +kernel

/-- One operand too wide for its field in each. -/
theorem test_ill_formed_4 : ([
    .bulkRechargeMeasured 4294967296 0,
    .bulkRechargeMeasured 0 4294967296,
    .loopBankWrite .host 0 2 [],
    .loopEnableWrite .host 0 18446744073709551616,
    .pin0Pulse 18446744073709551616,
    .imageSlotWrite .host 65536 [],
    .strobePulse 0 65536 false,
    .strobeEnable .host 0 18446744073709551616,
    .inputPowerSample 65536 [],
    .railOutOfRegulation 256,
    .vSbReturn 65536,
    .unknownControlBlock 0 256,
    .heartbeatReceived 0 536870912 0 0 0 0,
    .heartbeatReceived 0 0 256 0 0 0,
    .heartbeatReceived 0 0 0 18446744073709551616 0 0,
    .heartbeatReceived 0 0 0 0 65536 0,
    .heartbeatReceived 0 0 0 0 0 4294967296,
    .frameReceived 0 { hdr := { vc := 8, dest := 0, src := 0, type := 0, len := 0 }, words := [] } 0 0,
    .frameReceived 0 { hdr := { vc := 0, dest := 4096, src := 0, type := 0, len := 0 }, words := [] } 0 0,
    .frameReceived 0 { hdr := { vc := 0, dest := 0, src := 4096, type := 0, len := 0 }, words := [] } 0 0,
    .frameReceived 0 { hdr := { vc := 0, dest := 0, src := 0, type := 16, len := 0 }, words := [] } 0 0,
    .frameReceived 0 { hdr := { vc := 0, dest := 0, src := 0, type := 0, len := 1024 }, words := [] } 0 0,
    .frameReceived 0 { hdr := { vc := 0, dest := 0, src := 0, type := 0, len := 0 }, words := [] } 4294967296 0,
    .frameReceived 0 { hdr := { vc := 0, dest := 0, src := 0, type := 0, len := 0 }, words := [] } 0 4294967296] : List Instr).all (fun i => !i.wf) = true := by decide +kernel

/-- One operand too wide for its field in each. -/
theorem test_ill_formed_5 : ([
    .ackBlock 0 4294967296 false,
    .creditBlock 0 8 0,
    .creditBlock 0 0 65536,
    .topoExpiry 536870912,
    .dictRead 4096 0 0 0 {},
    .dictRead 0 256 0 0 {},
    .dictRead 0 0 65536 0 {},
    .dictRead 0 0 0 256 {},
    .dictRead 0 0 0 0 ⟨false, 2147483648⟩,
    .dictWrite 4096 0 0 0 false 0 0 [],
    .dictWrite 0 256 0 0 false 0 0 [],
    .dictWrite 0 0 65536 0 false 0 0 [],
    .dictWrite 0 0 0 256 false 0 0 [],
    .dictWrite 0 0 0 0 false 4294967296 0 [],
    .dictWrite 0 0 0 0 false 0 4294967296 [],
    .dictSegmentTimeout 4096 0,
    .dictSegmentTimeout 0 256,
    .winRead 4096 0 0 0,
    .winRead 0 256 0 0,
    .winRead 0 0 1099511627776 0,
    .winRead 0 0 0 4294967296,
    .winWrite 4096 0 0 [],
    .winWrite 0 256 0 [],
    .winWrite 0 0 1099511627776 []] : List Instr).all (fun i => !i.wf) = true := by decide +kernel

/-- One operand too wide for its field in each. -/
theorem test_ill_formed_6 : ([
    .bulkFrame 4096 0 0 false 0 [],
    .bulkFrame 0 16 0 false 0 [],
    .bulkFrame 0 0 4294967296 false 0 [],
    .bulkFrame 0 0 0 false 1099511627776 [],
    .streamCfgWrite 0 false 18446744073709551616,
    .objectWrite .host 65536 0 (.num 0),
    .objectWrite .host 0 256 (.num 0),
    .objectWrite .host 0 0 (.num (2 ^ 64)),
    .lockAcquire .host 65536 0 0 0,
    .lockAcquire .host 0 65536 0 0,
    .lockAcquire .host 0 0 65536 0,
    .lockAcquire .host 0 0 0 65536,
    .lockRenew .host 65536 0,
    .lockRenew .host 0 65536,
    .lockRelease .host 65536,
    .storeParameters .host 0 18446744073709551616 .done,
    .restoreDefaults .host 0 ⟨18446744073709551616, .done⟩,
    .nmtStart 256,
    .nmtStop 256,
    .nmtPreOperational 256,
    .nmtResetCommunication 256,
    .nmtResetNode 256,
    .canFrameReceived .base 536870912 [],
    .canFrameReceived .base 0 (List.replicate 65 0)] : List Instr).all (fun i => !i.wf) = true := by decide +kernel

/-- One operand too wide for its field in each. -/
theorem test_ill_formed_7 : ([
    .canBusError 65536 0,
    .canBusError 0 65536,
    .sdoDownload 65536 0 false [] (.abort 0),
    .sdoDownload 0 256 false [] (.abort 0),
    .sdoDownload 0 0 false [] (.expedited),
    .sdoDownload 0 0 false [0, 0, 0, 0, 0] (.expedited),
    .sdoDownload 0 0 false [] (.start (some 4294967296)),
    .sdoDownload 0 0 false [0] (.start none),
    .sdoDownload 0 0 false [0, 0, 0, 0, 0, 0, 0, 0] (.segment false false),
    .sdoDownload 0 0 false [] (.blockStart false (some 4294967296)),
    .sdoDownload 0 0 false [0] (.blockStart false none),
    .sdoDownload 0 0 false [0, 0, 0, 0, 0, 0, 0] (.blockSegment 128 false),
    .sdoDownload 0 0 false [0] (.blockSegment 1 false),
    .sdoDownload 0 0 false [] (.blockEnd 8 0),
    .sdoDownload 0 0 false [] (.blockEnd 0 65536),
    .sdoDownload 0 0 false [0] (.blockEnd 0 0),
    .sdoDownload 0 0 false [] (.abort 4294967296),
    .sdoDownload 0 0 false [0] (.abort 0),
    .sdoUpload 65536 0 (.abort 0),
    .sdoUpload 0 256 (.abort 0),
    .sdoUpload 0 0 (.blockStart false false 256),
    .sdoUpload 0 0 (.blockAck 256 0),
    .sdoUpload 0 0 (.blockAck 0 256),
    .sdoUpload 0 0 (.abort 4294967296)] : List Instr).all (fun i => !i.wf) = true := by decide +kernel

/-- One operand too wide for its field in each. -/
theorem test_ill_formed_8 : ([
    .syncFrame (List.replicate 9 0),
    .rpdo 0 (List.replicate 9 0),
    .lssSwitchGlobal 256,
    .lssSwitchSelective 4294967296 0 0 0,
    .lssSwitchSelective 0 4294967296 0 0,
    .lssSwitchSelective 0 0 4294967296 0,
    .lssSwitchSelective 0 0 0 4294967296,
    .lssConfigureNodeId 256,
    .lssConfigureBitTiming 256 0,
    .lssConfigureBitTiming 0 65536,
    .lssActivateBitTiming 65536,
    .lssIdentifyRemoteSlave 4294967296 0 0 0 0 0,
    .lssIdentifyRemoteSlave 0 4294967296 0 0 0 0,
    .lssIdentifyRemoteSlave 0 0 4294967296 0 0 0,
    .lssIdentifyRemoteSlave 0 0 0 4294967296 0 0,
    .lssIdentifyRemoteSlave 0 0 0 0 4294967296 0,
    .lssIdentifyRemoteSlave 0 0 0 0 0 4294967296,
    .lssFastscan 4294967296 0 0 0,
    .lssFastscan 0 256 0 0,
    .lssFastscan 0 0 256 0,
    .lssFastscan 0 0 0 256,
    .chAbort 0 ⟨4294967296, none⟩ [],
    .chNextWrite 0 18446744073709551616,
    .requestorAssert 256] : List Instr).all (fun i => !i.wf) = true := by decide +kernel

/-- One operand too wide for its field in each. -/
theorem test_ill_formed_9 : ([
    .requestorWithdraw 256 ⟨0, none⟩ [],
    .requestorWithdraw 0 ⟨4294967296, none⟩ [],
    .tallyConfigWrite .host 256 (.num 0),
    .tallyConfigWrite .host 0 (.num (2 ^ 64)),
    .selectBySequence .host 4294967296,
    .exportLog .host 1099511627776,
    .clearResponse .host (List.replicate 9 0),
    .stagingImageWrite .host 4294967296 0 [],
    .stagingImageWrite .host 0 4294967296 [],
    .librarySlotWrite .host 65536 [],
    .strapRead 8 false,
    .tachometerPulse 0 4294967296] : List Instr).all (fun i => !i.wf) = true := by decide +kernel

theorem short_too_long (n : Nat) (d : List Byte) (h : n < d.length) : short n d = false := by simp [short, h]

/-- Data longer than its carrier takes in each. -/
theorem test_ill_formed_10 (d : List Byte) (h : 8388608 < d.length) : (.serialReceive 0 d : Instr).wf = false
    ∧ (.bankImageWrite .host 0 d : Instr).wf = false
    ∧ (.chipFrame 0 0 0 0 0 0 d : Instr).wf = false
    ∧ (.shadowImageWrite .host 0 d : Instr).wf = false
    ∧ (.imageAllGroups .host d : Instr).wf = false
    ∧ (.loopBankWrite .host 0 0 d : Instr).wf = false
    ∧ (.waveformTableWrite .host 0 d : Instr).wf = false
    ∧ (.imageSlotWrite .host 0 d : Instr).wf = false := by
  have h2 : 8160 < d.length := by omega
  have h3 : 8176 < d.length := by omega
  simp [Instr.wf, short_too_long _ _ h, short_too_long _ _ h2, short_too_long _ _ h3]

/-- Data longer than its carrier takes in each. -/
theorem test_ill_formed_11 (d : List Byte) (h : 8388608 < d.length) : (.trimMapWrite .host 0 d : Instr).wf = false
    ∧ (.dictWrite 0 0 0 0 false 0 0 d : Instr).wf = false
    ∧ (.winWrite 0 0 0 d : Instr).wf = false
    ∧ (.bulkFrame 0 0 0 false 0 d : Instr).wf = false
    ∧ (.chAbort 0 ⟨0, none⟩ d : Instr).wf = false
    ∧ (.descriptorComplete d none : Instr).wf = false
    ∧ (.requestorWithdraw 0 ⟨0, none⟩ d : Instr).wf = false
    ∧ (.stagingImageWrite .host 0 0 d : Instr).wf = false := by
  have h2 : 8160 < d.length := by omega
  have h3 : 8176 < d.length := by omega
  simp [Instr.wf, short_too_long _ _ h, short_too_long _ _ h2, short_too_long _ _ h3]

/-- Data longer than its carrier takes in each. -/
theorem test_ill_formed_12 (d : List Byte) (h : 8388608 < d.length) : (.librarySlotWrite .host 0 d : Instr).wf = false := by
  have h2 : 8160 < d.length := by omega
  have h3 : 8176 < d.length := by omega
  simp [Instr.wf, short_too_long _ _ h, short_too_long _ _ h2, short_too_long _ _ h3]

theorem test_ill_formed_data_exists : ∃ d : List Byte, 8388608 < d.length := ⟨List.replicate (8388608 + 1) 0, by rw [List.length_replicate]; omega⟩

end Sys2Proof

namespace Sys2Proof.Machine

/-! ### Single steps, expected results worked out from the manual -/

/-- What a check says of the next state of a command. -/
def after (o : Host.Outcome State Fault Refusal) (f : State → Bool) : Bool :=
  match o with
  | .next t => f t
  | _ => false

/-- The main side up, otherwise as after reset. -/
def up : State := { State.reset with module := { State.reset.module with mainUp := true, state := .idle } }

/-- An empty queue: one tick passes (log entry 1). -/
theorem test_idle_tick : after (step State.reset) (fun t => t.clk == 1 && t.pending.isEmpty) = true := by decide +kernel

/-- The front command leaves the queue and runs (11 R320: WAKE_IN outside Moored changes no state). -/
theorem test_front_command :
    after (step { State.reset with pending := [.busOffRecovery, .clockSourceChange] }) (fun t => t.pending == [.clockSourceChange]) = true := by
  decide +kernel

/-- 04 R98: 8-bit samples times 16, 10-bit samples times 4, 12-bit samples as they are. -/
theorem test_working_samples : (workSample 8 255, workSample 10 1023, workSample 12 4095) = (4080, 4092, 4095) := by decide +kernel

/-- 04 R99: black −16, gain 1.5 in UQ2.14: (1600 + 16) × 1.5 = 2,424. -/
theorem test_flat_field :
    Context.stage2 { (default : Context) with black := [0xF0, 0xFF], gain := [0x00, 0x60] } 1 8 0 0 100 = 2424 := by decide +kernel

/-- 14 R395, R396: a lock of 0x2300 to 0x230F taken by the host in the first free slot. -/
theorem test_lock_acquire :
    after (exec (.lockAcquire .host 0x2300 0x230F 100 0) up) (fun t => (t.dict.locks.getD 0 none).isSome && (t.dict.locks.getD 1 none).isNone) = true := by
  decide +kernel

/-- 14 R400: an open stage stands open. -/
theorem test_stage_open : after (exec (.stageOpen .host) up) (fun t => (t.stage .host).isOpen && !(t.stage .mgmt).isOpen) = true := by decide +kernel

/-- 18 R505, R506: the level of AIR_OK is sampled. -/
theorem test_air_ok : after (exec (.airOkEdge true) up) (fun t => t.pins.airOk) = true := by decide +kernel

/-- 15 R433: LSS switch state global selects the configuration mode. -/
theorem test_lss_global : after (exec (.lssSwitchGlobal 1) { State.reset with side := { State.reset.side with nmt := .stopped } })
    (fun t => t.side.lssConfig) = true := by decide +kernel

/-- 13 R379: a bulk frame writes its bytes; a byte past them stands. -/
theorem test_bulk_frame :
    after (exec (.bulkFrame 0 3 0 true 0x1000 [7, 0, 9]) up)
      (fun t => Mem.readAll t.mem 0x1000 4 == [7, 0, 9, 0] && t.nat (obj 0x2206 0x0B) == 3) = true := by decide +kernel

/-- 16 R444: the unmask bit of a channel. -/
theorem test_irq_unmask : after (exec (.chIrqUnmask 15 true) up) (fun t => (t.chan 15).unmask) = true := by decide +kernel

/-- FIPS 180-4: SHA-256 of the message "abc" (18 R479). -/
theorem test_sha256 : sha256 [0x61, 0x62, 0x63] = 0xba7816bf8f01cfea414140de5dae2223b00361a396177a9cb410ff61f20015ad := by decide +kernel

/-! ### Witnesses: states and operands that meet the hypotheses of the statements -/

/-- A block of the right length passes the checks of a bank image write. -/
theorem bank_image_writable (l : List Byte) (hl : l.length = 0x40C00) :
    ({ State.reset with module := { State.reset.module with mainUp := true } } : State).writable .host (obj (0x2501 + 1) 1) (.bytes l) = true := by
  have h : objRow? (obj (0x2501 + 1) 1 / 256) (obj (0x2501 + 1) 1 % 256)
      = some ((objRow? (obj (0x2501 + 1) 1 / 256) (obj (0x2501 + 1) 1 % 256)).get (by decide +kernel)) := by simp
  unfold State.writable State.checkWrite
  rw [h]
  simp only [valLen, hl]
  rfl


theorem clear_response_right (s : State) (m : Master) (c u : Nat) (h : s.recorder.challenges.getD (masterIx m) none = some (c, u))
    (hu : s.clk ≤ u + 60 * secTicks) :
    s.responseRight m (leBytes 8 (Config.clearResponse c (s.byteVal (obj 0x2000 3)) % 2 ^ 64)) = true := by
  unfold State.responseRight
  rw [h]
  simp [hu]

theorem witness_TimeExchangeResults_1 :
    ∃ (h : Nat) (g : Nat) (s : State),
    (s.module.mainUp = true) ∧ (s.clk ≤ s.time.syncAt) ∧ (s.nat (obj 0x2101 1) = s.time.designated) ∧ (s.time.electing = false) ∧ (s.time.hops = some h) ∧ (s.time.gm = some g) :=
  ⟨0, 0, { State.reset with module := { State.reset.module with mainUp := true }, time := { State.reset.time with hops := some 0, gm := some 0, designated := 0xFFFF } }, by decide +kernel⟩

theorem witness_TimeExchangeResults_2 :
    ∃ (link : Link) (t1 : Nat) (gm : Nat) (hops : Nat) (seq : Nat) (phase : Nat) (turnaround : Nat) (s : State),
    (s.time.shaped) ∧ (s.module.mainUp = true) ∧ (s.linkUp link.val = true) ∧ (s.time.gm = some gm) ∧ (gm ≠ s.strand.id) :=
  ⟨0, 0, 65, 0, 65535, 3, 1, { State.reset with module := { State.reset.module with mainUp := true }, strand := { State.reset.strand with links := [{ State.reset.link 0 with state := .up, credits := [8, 8, 8, 8, 8, 8, 8, 8] }, {}, {}, {}] }, time := { State.reset.time with gm := some 65 } }, ⟨rfl, rfl, rfl⟩, by decide +kernel⟩

theorem witness_TimeExchangeResults_3 :
    ∃ (link : Link) (seq : Nat) (phase : Nat) (s : State),
    (s.strand.shaped) ∧ (s.module.mainUp = true) ∧ (s.linkUp link.val = true) ∧ (s.wireIdle link.val = true) ∧ (4 ≤ (s.link link.val).credits.getD 0 0) :=
  ⟨0, 65535, 3, { State.reset with module := { State.reset.module with mainUp := true }, strand := { State.reset.strand with links := [{ State.reset.link 0 with state := .up, credits := [8, 8, 8, 8, 8, 8, 8, 8] }, {}, {}, {}] } }, ⟨rfl, rfl, rfl⟩, by decide +kernel⟩

theorem witness_TimeExchangeResults_4 :
    ∃ (link : Link) (t4 : Nat) (seq : Nat) (e : Exchange) (s : State),
    (s.time.shaped) ∧ (s.module.mainUp = true) ∧ (s.time.far.getD link.val none = some e) ∧ (e.seq = seq) ∧ (s.time.upstream ≠ some link.val) :=
  ⟨0, 600, 7, ⟨7, 100, 300, 308⟩, { State.reset with module := { State.reset.module with mainUp := true }, time := { State.reset.time with far := [some ⟨7, 100, 300, 308⟩, none, none, none] } }, ⟨rfl, rfl, rfl⟩, by decide +kernel⟩


theorem witness_TimeStateResults_1 :
    ∃ (l : Nat) (x : Heard) (s : State),
    (s.time.shaped) ∧ (∀ j, j ≠ l → s.time.heard.getD j none = none) ∧ (s.time.upstream = some l) ∧ (s.time.heard.getD l none = some x) ∧ (s.time.state = .locked) ∧ (s.clk ≤ x.at_ + 4 * s.time.interval) :=
  ⟨0, ⟨0, 65, 1⟩, { State.reset with module := { State.reset.module with mainUp := true }, time := { State.reset.time with state := .locked, upstream := some 0, heard := [some ⟨0, 65, 1⟩, none, none, none] } }, ⟨rfl, rfl, rfl⟩, by intro j hj; match j with | 0 => exact absurd rfl hj | 1 | 2 | 3 => rfl | _ + 4 => rfl, by decide +kernel⟩

theorem witness_TimeStateResults_2 :
    ∃ (u : Nat) (s : State),
    (s.time.electAt = some u) ∧ (s.module.mainUp = true) ∧ (s.clk ≤ u) ∧ ((s.setTime { s.time with lost := s.time.gm }).isBest = true) :=
  ⟨5, { State.reset with module := { State.reset.module with mainUp := true }, strand := { State.reset.strand with provisional := false }, time := { State.reset.time with electAt := some 5 } }, by decide +kernel⟩

theorem witness_TimeStateResults_3 :
    ∃ (link : Link) (candidate : Nat) (hops : Nat) (s : State),
    (s.module.mainUp = true) ∧ (s.linkUp link.val = true) ∧ (s.time.best = none) :=
  ⟨0, 4095, 255, { State.reset with module := { State.reset.module with mainUp := true }, strand := { State.reset.strand with links := [{ State.reset.link 0 with state := .up, credits := [8, 8, 8, 8, 8, 8, 8, 8] }, {}, {}, {}] } }, by decide +kernel⟩

theorem witness_TimeStateResults_4 :
    ∃ (s : State),
    (s.time.state = .slack) ∧ (s.clk ≤ s.time.slackAt + 60 * secTicks) :=
  ⟨{ State.reset with module := { State.reset.module with mainUp := true }, time := { State.reset.time with state := .slack } }, by decide +kernel⟩

theorem witness_TimeStateResults_5 :
    ∃ (s : State),
    (s.time.state = .locked) ∧ (s.clk ≤ s.time.lockedAt + 10 * secTicks) :=
  ⟨{ State.reset with module := { State.reset.module with mainUp := true }, time := { State.reset.time with state := .locked } }, by decide +kernel⟩

theorem witness_TimeStateResults_6 :
    ∃ (s : State),
    (s.module.mainUp = true) ∧ (s.module.state = .idle) :=
  ⟨{ State.reset with module := { State.reset.module with mainUp := true, state := .idle } }, by decide +kernel⟩


theorem witness_SyncPinResults_1 :
    ∃ (rising : Bool) (phase : Nat) (s : State),
    (s.module.mainUp = true) ∧ (s.nat (obj 0x2105 1) = 0) ∧ (s.nat (obj 0x2104 1) = 1) ∧ (rising = (s.nat (obj 0x2104 2) == 0)) :=
  ⟨true, 255, { { State.reset with module := { State.reset.module with mainUp := true } }.putNat (obj 0x2104 1) 1 with clk := 9 }, by decide +kernel⟩

theorem witness_SyncPinResults_2 :
    ∃ (u : Nat) (s : State),
    (s.time.syncOut = some u) ∧ (s.module.mainUp = true) ∧ (s.time.counter ≤ u) ∧ (s.time.state = .locked) :=
  ⟨800, { State.reset with module := { State.reset.module with mainUp := true }, time := { State.reset.time with state := .locked, syncOut := some 800 } }, by decide +kernel⟩


theorem witness_CameraLineResults_1 :
    ∃ (p : Port) (s : State),
    (s.cams.length = 4) ∧ ((s.cam p).cc1Running = true) ∧ ((s.cam p).step ≠ .armed) ∧ (s.timeRuns = true) ∧ ((s.cam p).pending = []) ∧ (s.time.counter ≤ s.gridTick p (s.cam p).gridN) ∧ (s.fvalMode p = true ∨ (s.cam p).frames.any (fun f => !f.complete) = true) :=
  ⟨0, { State.reset with module := { State.reset.module with mainUp := true }, cams := [{ cc1Running := true, state := .streaming, frames := [{}] }, {}, {}, {}] }, by decide +kernel⟩

theorem witness_CameraLineResults_2 :
    ∃ (p : Port) (u : PendingTrigger) (s : State),
    (s.cams.length = 4) ∧ ((s.cam p).pending = [u]) ∧ (s.timeRuns = true) ∧ (s.time.counter ≤ u.tick + s.wmax p) :=
  ⟨2, ⟨100, 7, false⟩, { State.reset with module := { State.reset.module with mainUp := true }, cams := [{}, {}, { state := .streaming, pending := [⟨100, 7, false⟩] }, {}] }, by decide +kernel⟩

theorem witness_CameraLineResults_3 :
    ∃ (p : Port) (tick : Nat) (fval : Bool) (u : PendingTrigger) (r : List PendingTrigger) (s : State),
    (s.cams.length = 4) ∧ ((s.cam p).state = .streaming) ∧ ((s.cam p).line = none) ∧ (s.timeRuns = true) ∧ ((s.cam p).pending = u :: r) ∧ (u.lost = false) ∧ (s.time.counter ≤ tick) ∧ (u.tick + s.wmin p ≤ tick) ∧ (tick ≤ u.tick + s.wmax p) :=
  ⟨0, 100 + State.reset.wmax 0, true, ⟨100, 7, false⟩, [], { State.reset with module := { State.reset.module with mainUp := true }, cams := [{ state := .streaming, pending := [⟨100, 7, false⟩] }, {}, {}, {}] }, by decide +kernel⟩

theorem witness_CameraLineResults_4 :
    ∃ (p : Port) (tick : Nat) (fval : Bool) (s : State),
    ((s.cam p).state = .streaming) ∧ ((s.cam p).stopping = false) ∧ ((s.cam p).line = none) ∧ (s.timeRuns = true) ∧ ((s.cam p).pending = []) ∧ (s.time.counter ≤ tick) :=
  ⟨0, 0, false, { State.reset with module := { State.reset.module with mainUp := true }, cams := [{ state := .streaming }, {}, {}, {}] }, by decide +kernel⟩

theorem witness_CameraLineResults_5 :
    ∃ (p : Port) (clocks : List PixelClock) (l : LineInWork) (s : State),
    (s.cams.length = 4) ∧ ((s.cam p).line = some l) :=
  ⟨2, [], { trigger := ⟨100, 7, false⟩ }, { State.reset with module := { State.reset.module with mainUp := true }, cams := [{}, {}, { state := .streaming, line := some { trigger := ⟨100, 7, false⟩ } }, {}] }, by decide +kernel⟩

theorem witness_CameraLineResults_6 :
    ∃ (p : Port) (clocks : List PixelClock) (l : LineInWork) (s : State),
    (s.cams.length = 4) ∧ ((s.cam p).line = some l) ∧ (((s.placePixels p ((s.validClocks p clocks).take (ceilDiv (s.widthOf p) (max 1 (s.ppc p)) - 1))).2).isEmpty = false) :=
  ⟨2, [], { trigger := ⟨100, 7, false⟩ }, ({ State.reset with module := { State.reset.module with mainUp := true }, cams := [{}, {}, { state := .streaming, line := some { trigger := ⟨100, 7, false⟩ } }, {}] }).putNat (camKey 2 0x2302 4) 256, by decide +kernel⟩

theorem witness_CameraLineResults_7 :
    ∃ (p : Port) (l : LineInWork) (s : State),
    (s.cams.length = 4) ∧ ((s.cam p).line = some l) ∧ (l.trigger.lost = false) ∧ ((s.cam p).consecutiveMissing < 63) :=
  ⟨2, { trigger := ⟨100, 7, false⟩ }, { State.reset with module := { State.reset.module with mainUp := true }, cams := [{}, {}, { state := .streaming, consecutiveMissing := 62, line := some { trigger := ⟨100, 7, false⟩ } }, {}] }, by decide +kernel⟩

theorem witness_CameraLineResults_8 :
    ∃ (p : Port) (s : State),
    (s.cams.length = 4) ∧ (s.fvalMode p = true) :=
  ⟨2, ({ State.reset with module := { State.reset.module with mainUp := true }, cams := [{}, {}, { state := .streaming, fval := true, frames := [{ triggers := 3 }] }, {}] }).putNat (camKey 2 0x2301 3) 1, by decide +kernel⟩


theorem witness_CameraSerialResults_1 :
    ∃ (m : Master) (p : Port) (data : List Byte) (s : State),
    (s.cams.length = 4) ∧ (s.writable m (camKey p 0x2305 1) (.bytes data) = true) ∧ ((s.cam p).state = .streaming) ∧ ((s.cam p).queue.length < 4) :=
  ⟨.host, 0, [65], { State.reset with module := { State.reset.module with mainUp := true }, cams := [{ state := .streaming, queue := [[1], [2], [3]] }, {}, {}, {}] }, by decide +kernel⟩

theorem witness_CameraSerialResults_2 :
    ∃ (m : Master) (p : Port) (data : List Byte) (s : State),
    (s.writable m (camKey p 0x2305 3) (.bytes data) = true) ∧ ((s.cam p).state ≠ .streaming) :=
  ⟨.host, 0, [65], { State.reset with module := { State.reset.module with mainUp := true }, cams := [{ state := .idle }, {}, {}, {}] }, by decide +kernel⟩

theorem witness_CameraSerialResults_3 :
    ∃ (p : Port) (d : List Byte) (r : List (List Byte)) (f : OpenFrame) (s : State),
    (s.cams.length = 4) ∧ ((s.cam p).queue = d :: r) ∧ ((s.cam p).frames.getLast? = some f) ∧ ((s.cam p).state = .streaming) ∧ ((s.cam p).sending = none) ∧ (f.complete = false) ∧ (f.triggers ≤ 1) ∧ ((s.cam p).sentEnd ≤ f.firstClk) :=
  ⟨0, [65], [[66]], { triggers := 1 }, { State.reset with module := { State.reset.module with mainUp := true }, cams := [{ state := .streaming, queue := [[65], [66]], frames := [{ triggers := 1 }], lastGen := 2 ^ 32 - 1 }, {}, {}, {}] }, by decide +kernel⟩

theorem witness_CameraSerialResults_4 :
    ∃ (p : Port) (g : Nat) (u : Nat) (s : State),
    (s.cams.length = 4) ∧ ((s.cam p).sending = some (g, u)) ∧ (s.clk ≤ u) :=
  ⟨0, 3, 80, { State.reset with module := { State.reset.module with mainUp := true }, cams := [{ state := .streaming, sending := some (3, 80) }, {}, {}, {}] }, by decide +kernel⟩

theorem witness_CameraSerialResults_5 :
    ∃ (p : Port) (data : List Byte) (s : State),
    (s.cams.length = 4) ∧ (s.module.mainUp = true) :=
  ⟨0, [1, 2], { State.reset with module := { State.reset.module with mainUp := true }, cams := [{ rx := List.replicate 255 7 }, {}, {}, {}] }, by decide +kernel⟩

theorem witness_CameraSerialResults_6 :
    ∃ (p : Port) (g : Nat) (u : Nat) (r : List (Nat × Nat)) (s : State),
    (s.cams.length = 4) ∧ ((s.cam p).replies = (g, u) :: r) ∧ (s.clk ≤ u) :=
  ⟨0, 3, 80, [], { State.reset with module := { State.reset.module with mainUp := true }, cams := [{ replies := [(3, 80)] }, {}, {}, {}] }, by decide +kernel⟩

theorem witness_CameraSerialResults_7 :
    ∃ (p : Port) (w : Nat) (s : State),
    (s.cams.length = 4) ∧ ((s.cam p).cc1Pending = some w) ∧ ((s.cam p).frames.all (fun f => f.complete) = true) :=
  ⟨0, 90, { State.reset with module := { State.reset.module with mainUp := true }, cams := [{ cc1Pending := some 90 }, {}, {}, {}] }, by decide +kernel⟩


theorem witness_CameraStartResults_1 :
    ∃ (m : Master) (p : Port) (s : State),
    (s.cams.length = 4) ∧ (s.writable m (camKey p 0x2301 1) (.num 1) = true) ∧ (s.startBarred p = false) ∧ (s.profileOk p = true) ∧ (s.admission [p.val] = 0) :=
  ⟨.host, 0, { State.reset with module := { State.reset.module with mainUp := true }, cams := [{ state := .idle }, {}, {}, {}] }, by decide +kernel⟩

theorem witness_CameraStartResults_2 :
    ∃ (m : Master) (p : Port) (s : State),
    (∀ q, s.partner p = some q → s.startBarred q = false ∧ s.profileOk q = true) ∧ (s.cams.length = 4) ∧ (s.writable m (camKey p 0x2301 1) (.num 2) = true) ∧ (s.startBarred p = false) ∧ (s.profileOk p = true) ∧ (s.admission (p.val :: (s.partner p).toList) = 0) :=
  ⟨.host, 3, { State.reset with module := { State.reset.module with mainUp := true } }, by intro q hq; cases hq; decide +kernel, by decide +kernel⟩

theorem witness_CameraStartResults_3 :
    ∃ (m : Master) (p : Port) (s : State),
    (s.cams.length = 4) ∧ (s.writable m (camKey p 0x2301 1) (.num 0) = true) ∧ ((s.cam p).state = .starting) ∧ ((s.cam p).planeStart = false) :=
  ⟨.host, 0, { State.reset with module := { State.reset.module with mainUp := true }, cams := [{ state := .starting, step := .clock }, {}, {}, {}] }, by decide +kernel⟩

theorem witness_CameraStartResults_4 :
    ∃ (m : Master) (p : Port) (s : State),
    (s.cams.length = 4) ∧ (s.writable m (camKey p 0x2301 1) (.num 0) = true) ∧ ((s.cam p).state = .streaming) ∧ (s.fvalMode p = false) ∧ ((s.cam p).frames.any (fun f => !f.complete) = true) ∧ ((s.cam p).cc1Running = true) :=
  ⟨.host, 0, { State.reset with module := { State.reset.module with mainUp := true }, cams := [{ state := .streaming, cc1Running := true, frames := [{}] }, {}, {}, {}] }, by decide +kernel⟩

theorem witness_CameraStartResults_5 :
    ∃ (p : Port) (loadA : Bool) (loadB : Bool) (s : State),
    (s.cams.length = 4) ∧ ((s.cam p).pocl = 1) :=
  ⟨0, false, true, { State.reset with module := { State.reset.module with mainUp := true }, cams := [{ pocl := 1, step := .detect }, {}, {}, {}] }, by decide +kernel⟩

theorem witness_CameraStartResults_6 :
    ∃ (p : Port) (kHz : Nat) (s : State),
    (s.cams.length = 4) ∧ (s.module.mainUp = true) ∧ ((s.cam p).step = .clock) ∧ (s.clk ≤ (s.cam p).startDeadline) ∧ (20000 ≤ kHz) ∧ (kHz ≤ 85000) ∧ (((s.widthOf p * 800000 : Nat) : ℚ) / ((s.ppc p * kHz : Nat) : ℚ) ≤ s.linePeriod p * 1005 / 1000) :=
  ⟨0, 85000, { State.reset with module := { State.reset.module with mainUp := true }, cams := [{ step := .clock }, {}, {}, {}] }, by decide +kernel⟩

theorem witness_CameraStartResults_7 :
    ∃ (p : Port) (s : State),
    (s.cams.length = 4) ∧ ((s.cam p).step = .clock) ∧ (s.clk ≤ (s.cam p).startDeadline) :=
  ⟨0, { State.reset with module := { State.reset.module with mainUp := true }, cams := [{ step := .clock, state := .starting, before := .idle }, {}, {}, {}] }, by decide +kernel⟩

theorem witness_CameraStartResults_8 :
    ∃ (p : Port) (s : State),
    (s.cams.length = 4) ∧ ((s.cam p).step = .sending) ∧ (s.clk ≤ (s.cam p).settleEnd) :=
  ⟨0, { State.reset with module := { State.reset.module with mainUp := true }, cams := [{ step := .sending, settleEnd := 5 }, {}, {}, {}] }, by decide +kernel⟩

theorem witness_CameraStartResults_9 :
    ∃ (p : Port) (s : State),
    (s.cams.length = 4) ∧ ((s.cam p).step = .settling) ∧ ((s.cam p).planeStart = false) ∧ (s.clk ≤ (s.cam p).settleEnd) :=
  ⟨0, { State.reset with module := { State.reset.module with mainUp := true }, cams := [{ step := .settling, state := .starting, settleEnd := 5 }, {}, {}, {}] }, by decide +kernel⟩

theorem witness_CameraStartResults_10 :
    ∃ (p : Port) (s : State),
    (s.cams.length = 4) ∧ ((s.cam p).cc1Running = true) ∧ ((s.cam p).step = .armed) ∧ (s.timeRuns = true) ∧ (s.time.counter ≤ s.gridTick p (s.cam p).gridN) :=
  ⟨0, { State.reset with module := { State.reset.module with mainUp := true }, cams := [{ cc1Running := true, step := .armed, state := .starting }, {}, {}, {}] }, by decide +kernel⟩

theorem witness_CameraStartResults_11 :
    ∃ (p : Port) (current : Nat) (s : State),
    (s.cams.length = 4) ∧ ((s.cam p).pocl = 2) ∧ (400 < current) :=
  ⟨0, 401, { State.reset with module := { State.reset.module with mainUp := true }, cams := [{ pocl := 2, poclTrips := [0, 0] }, {}, {}, {}] }, by decide +kernel⟩

theorem witness_CameraStartResults_12 :
    ∃ (p : Port) (s : State),
    (s.cams.length = 4) ∧ ((s.cam p).pocl = 3) ∧ (s.clk ≤ (s.cam p).poclReapplyAt) :=
  ⟨0, { State.reset with module := { State.reset.module with mainUp := true }, cams := [{ pocl := 3, poclReapplyAt := 9 }, {}, {}, {}] }, by decide +kernel⟩

theorem witness_CameraStartResults_13 :
    ∃ (m : Master) (p : Port) (s : State),
    (s.cams.length = 4) ∧ (s.writable m (camKey p 0x2301 6) (.num 1) = true) ∧ ((s.cam p).pocl = 4) :=
  ⟨.host, 0, { State.reset with module := { State.reset.module with mainUp := true }, cams := [{ pocl := 4, poclTrips := [1, 2, 3] }, {}, {}, {}] }, by decide +kernel⟩


theorem witness_CameraLossResults_1 :
    ∃ (p : Port) (s : State),
    (s.cams.length = 4) ∧ ((s.cam p).state = .streaming) ∧ ((s.cam p).stopping = false) ∧ ((s.cam p).line = none) :=
  ⟨0, { State.reset with module := { State.reset.module with mainUp := true }, cams := [{ state := .streaming, queue := [[1]], frames := [{}] }, {}, {}, {}] }, by decide +kernel⟩

theorem witness_CameraLossResults_2 :
    ∃ (p : Port) (kHz : Nat) (s : State),
    (s.cams.length = 4) ∧ ((s.cam p).state = .lost) ∧ ((s.cam p).recovering = false) ∧ (20000 ≤ kHz) ∧ (kHz ≤ 85000) :=
  ⟨0, 20000, { State.reset with module := { State.reset.module with mainUp := true }, cams := [{ state := .lost }, {}, {}, {}] }, by decide +kernel⟩

theorem witness_CameraLossResults_3 :
    ∃ (p : Port) (s : State),
    (s.cams.length = 4) ∧ ((s.cam p).state = .lost) ∧ ((s.cam p).recovering = true) ∧ ((s.cam p).settleEnd ≤ s.clk) ∧ ((s.cam p).frames.all (fun f => f.complete) = true) :=
  ⟨0, { State.reset with module := { State.reset.module with mainUp := true }, cams := [{ state := .lost, recovering := true }, {}, {}, {}] }, by decide +kernel⟩


theorem witness_PipelineResults_1 :
    ∃ (p : Nat) (line : Line) (rest : List Line) (s : State),
    (s.pipe.shaped) ∧ (s.stripePort = some p) ∧ (p < 2) ∧ ((s.engine p).waiting = line :: rest) ∧ ((s.engine p).done.length + 64 < s.widthOf p) :=
  ⟨0, {}, [], ({ State.reset with module := { State.reset.module with mainUp := true }, pipe := { State.reset.pipe with ports := [{ waiting := [{}] }, {}, {}, {}] } }).putNat (camKey 0 0x2302 4) 128, ⟨rfl, rfl⟩, by decide +kernel⟩

theorem witness_PipelineResults_2 :
    ∃ (f : GradeFrame) (s : State),
    (s.pipe.current = none) ∧ (s.nextFrame = some f) ∧ (s.pipe.swapPending = false) :=
  ⟨{ port := 2 }, { State.reset with module := { State.reset.module with mainUp := true }, pipe := { State.reset.pipe with frames := [{ port := 2 }] } }, by decide +kernel⟩

theorem witness_PipelineResults_3 :
    ∃ (f : GradeFrame) (s : State),
    (s.pipe.current = none) ∧ (s.nextFrame = some f) ∧ (s.pipe.swapPending = true) :=
  ⟨{ port := 3 }, { State.reset with module := { State.reset.module with mainUp := true }, pipe := { State.reset.pipe with frames := [{ port := 3 }], swapPending := true } }, by decide +kernel⟩

theorem witness_PipelineResults_4 :
    ∃ (p : Nat) (n : Nat) (ctx : Context) (u : Nat) (s : State),
    (s.pipe.current = some (p, n, ctx, u)) ∧ (s.clk ≤ u) :=
  ⟨2, 0, {}, 40, { State.reset with module := { State.reset.module with mainUp := true }, pipe := { State.reset.pipe with current := some (2, 0, {}, 40), frames := [{ port := 2 }, { port := 3 }] } }, by decide +kernel⟩

theorem witness_PipelineResults_5 :
    ∃ (j : ObjJob) (s : State),
    (s.pipe.objWork = none) ∧ (s.pipe.chipQueue = []) ∧ (s.pipe.objQueue = [j]) :=
  ⟨{ since := 3 }, { State.reset with module := { State.reset.module with mainUp := true }, pipe := { State.reset.pipe with objQueue := [{ since := 3 }] } }, by decide +kernel⟩

theorem witness_PipelineResults_6 :
    ∃ (j : ObjJob) (s : State),
    (s.pipe.objWork = some j) ∧ (s.clk ≤ s.pipe.objStart + s.jobCost j) :=
  ⟨{}, { State.reset with module := { State.reset.module with mainUp := true }, pipe := { State.reset.pipe with objWork := some {}, objStart := 5 } }, by decide +kernel⟩

theorem witness_PipelineResults_7 :
    ∃ (m : Master) (p : Port) (sub : Nat) (v : Val) (s : State),
    (s.writable m (obj (0x2410 + 16 * p) sub) (v) = true) ∧ (sub ≤ 10) :=
  ⟨.host, 3, 10, .num 0x3F800000, { State.reset with module := { State.reset.module with mainUp := true } }, by decide +kernel⟩

theorem witness_PipelineResults_8 :
    ∃ (m : Master) (bank : Nat) (image : List Byte) (s : State),
    (s.pipe.shaped) ∧ (s.writable m (obj (0x2501 + bank) 1) (.bytes image) = true) ∧ (bank < 2) ∧ (s.bankClosed bank = false) :=
  ⟨.host, 1, List.replicate 0x40C00 0, { State.reset with module := { State.reset.module with mainUp := true } }, ⟨rfl, rfl⟩, bank_image_writable _ List.length_replicate, by decide +kernel⟩

theorem witness_PipelineResults_9 :
    ∃ (m : Master) (bank : Nat) (slot : Nat) (s : State),
    (s.pipe.shaped) ∧ (bank < 2) ∧ (s.writable m (obj (0x2501 + bank) 6) (.num slot) = true) ∧ (s.bankClosed bank = false) :=
  ⟨.host, 1, 15, { State.reset with module := { State.reset.module with mainUp := true } }, ⟨rfl, rfl⟩, by decide +kernel⟩

theorem witness_PipelineResults_10 :
    ∃ (bank : Nat) (slot : Nat) (u : Nat) (s : State),
    (s.pipe.shaped) ∧ ((s.pipe.banks.getD bank {}).loading = some (slot, u)) ∧ (s.fwBarred 1 = false) :=
  ⟨1, 15, 0, { State.reset with module := { State.reset.module with mainUp := true }, pipe := { State.reset.pipe with banks := [{}, { loading := some (15, 0) }] } }, ⟨rfl, rfl⟩, by decide +kernel⟩

theorem witness_PipelineResults_11 :
    ∃ (m : Master) (s : State),
    (s.writable m (obj 0x2500 2) (.num 1) = true) ∧ ((s.pipe.banks.getD (1 - s.pipe.active) {}).valid = true) ∧ (s.pipe.swapPending = false) ∧ (s.oldBankInUse = false) ∧ (s.pipe.current = none) :=
  ⟨.host, { State.reset with module := { State.reset.module with mainUp := true }, pipe := { State.reset.pipe with banks := [{}, { valid := true }] } }, by decide +kernel⟩


theorem witness_CaptureResults_1 :
    ∃ (m : Master) (s : State),
    (s.writable m (obj 0x2404 1) (.num 1) = true) ∧ (s.pipe.capture = none) ∧ (s.module.state ≠ .sorting) ∧ (([0, 1, 2, 3].filter (fun p => bitOf (s.nat (obj 0x2404 2)) p && (s.cam p).state == .streaming)) ≠ []) :=
  ⟨.host, { State.reset with module := { State.reset.module with mainUp := true }, cams := [{ state := .streaming }, {}, {}, {}] }, by decide +kernel⟩

theorem witness_CaptureResults_2 :
    ∃ (m : Master) (s : State),
    (s.writable m (obj 0x2404 1) (.num 2) = true) ∧ (s.pipe.capture = none) ∧ (s.module.state ≠ .sorting) ∧ (([0, 1, 2, 3].filter (fun p => bitOf (s.nat (obj 0x2404 2)) p && (s.cam p).state == .streaming)) ≠ []) :=
  ⟨.host, { State.reset with module := { State.reset.module with mainUp := true }, cams := [{ state := .streaming }, {}, {}, {}] }, by decide +kernel⟩

theorem witness_CaptureResults_3 :
    ∃ (m : Master) (s : State),
    (s.writable m (obj 0x2404 1) (.num 3) = true) ∧ (s.pipe.capture = none) ∧ (([0, 1, 2, 3].filter (fun p => bitOf (s.nat (obj 0x2404 2)) p && (s.cam p).state == .streaming)) ≠ []) :=
  ⟨.host, { State.reset with module := { State.reset.module with mainUp := true }, cams := [{ state := .streaming }, {}, {}, {}] }, by decide +kernel⟩

theorem witness_CaptureResults_4 :
    ∃ (c : Capture) (s : State),
    (s.pipe.capture = some c) ∧ (s.module.cal = none) ∧ (c.ports.all (fun q => (s.cam q.port).state == .streaming) = true) ∧ (c.ports.all (fun q => decide (2 * s.nat (obj 0x2404 3) ≤ q.lines.length)) = true) ∧ (c.ports.all (fun q => (s.captureTable c.code q).2 == 0) = true) :=
  ⟨{ code := 3 }, { State.reset with module := { State.reset.module with mainUp := true }, pipe := { State.reset.pipe with capture := some { code := 3 } } }, by decide +kernel⟩

theorem witness_CaptureResults_5 :
    ∃ (c : Capture) (s : State),
    (s.pipe.capture = some c) ∧ (s.module.cal = none) ∧ (s.clk ≤ c.started + 2 * secTicks) :=
  ⟨{ code := 1 }, { State.reset with module := { State.reset.module with mainUp := true }, pipe := { State.reset.pipe with capture := some { code := 1 } } }, by decide +kernel⟩


theorem witness_TrackerArrivalResults_1 :
    ∃ (x : Sighting) (s : State),
    (s.module.mainUp = true) ∧ (s.tracker.recs = []) ∧ (s.tracker.shadows = []) ∧ (s.owned x.centre = true) ∧ (s.tracker.isOpen = true) :=
  ⟨{ time := 5, centre := 640, west := 630, east := 650, length := 4, area := 9, contrast := 9, port := 0, flags := 0, frame := 1 }, { State.reset with module := { State.reset.module with mainUp := true }, tracker := { State.reset.tracker with isOpen := true, serial := 2 ^ 20 - 1 } }, by decide +kernel⟩

theorem witness_TrackerArrivalResults_2 :
    ∃ (x : Sighting) (r : Rec) (u : Sighting) (s : State),
    (s.module.mainUp = true) ∧ (s.tracker.recs = [r]) ∧ (s.tracker.shadows = []) ∧ (r.state = .upperFirst) ∧ (r.face = faceOf x.port) ∧ (r.upper = some u) ∧ (r.handle < 2 ^ 32) ∧ ((s.score r.params u x).isSome = true) :=
  ⟨{ time := 60000000, centre := 640, west := 630, east := 650, length := 4, area := 9, contrast := 9, port := 0, flags := 0, frame := 1 }, { upper := some { time := 5, centre := 640, west := 630, east := 650, length := 4, area := 9, contrast := 9, port := 2, flags := 0, frame := 1 }, params := { gT := 100000000, gT1 := 100000000, gU := 100, gU1 := 100 } }, { time := 5, centre := 640, west := 630, east := 650, length := 4, area := 9, contrast := 9, port := 2, flags := 0, frame := 1 }, { State.reset with module := { State.reset.module with mainUp := true }, tracker := { State.reset.tracker with recs := [{ upper := some { time := 5, centre := 640, west := 630, east := 650, length := 4, area := 9, contrast := 9, port := 2, flags := 0, frame := 1 }, params := { gT := 100000000, gT1 := 100000000, gU := 100, gU1 := 100 } }] } }, by decide +kernel⟩

theorem witness_TrackerArrivalResults_3 :
    ∃ (x : Sighting) (image : ObjImage) (s : State),
    (s.module.mainUp = true) ∧ (s.tracker.recs = []) ∧ (s.owned x.centre = true) ∧ (s.tracker.isOpen = true) ∧ ((s.cam (faceOf x.port)).state ≠ .lost) :=
  ⟨{ time := 5, centre := 640, west := 630, east := 650, length := 4, area := 9, contrast := 9, port := 2, flags := 0, frame := 1 }, default, { State.reset with module := { State.reset.module with mainUp := true }, tracker := { State.reset.tracker with isOpen := true } }, by decide +kernel⟩

theorem witness_TrackerArrivalResults_4 :
    ∃ (x : Sighting) (image : ObjImage) (s : State),
    (s.module.mainUp = true) ∧ (s.tracker.recs = []) ∧ (s.owned x.centre = false) ∧ (s.tracker.isOpen = true) :=
  ⟨{ time := 5, centre := -33, west := 630, east := 650, length := 4, area := 9, contrast := 9, port := 2, flags := 0, frame := 1 }, default, { State.reset with module := { State.reset.module with mainUp := true }, tracker := { State.reset.tracker with isOpen := true } }, by decide +kernel⟩

theorem witness_TrackerArrivalResults_5 :
    ∃ (handle : Nat) (r : Rec) (s : State),
    (s.recOf handle = some r) ∧ (r.state = .upperFirst) ∧ (s.timeRuns = true) ∧ (s.time.counter ≤ r.deadline) :=
  ⟨0, { upper := some { time := 5, centre := 640, west := 630, east := 650, length := 4, area := 9, contrast := 9, port := 2, flags := 0, frame := 1 }, deadline := 77 }, { State.reset with module := { State.reset.module with mainUp := true }, tracker := { State.reset.tracker with recs := [{ upper := some { time := 5, centre := 640, west := 630, east := 650, length := 4, area := 9, contrast := 9, port := 2, flags := 0, frame := 1 }, deadline := 77 }] } }, by decide +kernel⟩


theorem witness_TrackerDecisionResults_1 :
    ∃ (handle : Nat) (r : Rec) (u : Int) (cls : Nat) (conf : Nat) (margin : Nat) (s : State),
    (s.recOf handle = some r) ∧ (r.state = .predicted) ∧ (r.tdec = some u) ∧ (r.verdict = some (cls, conf, margin)) ∧ (s.callsEject cls conf = false) ∧ (s.timeRuns = true) ∧ (s.time.counter ≤ u.toNat) :=
  ⟨0, { state := .predicted, tdec := some 90, verdict := some (3, 200, 10) }, 90, 3, 200, 10, { State.reset with module := { State.reset.module with mainUp := true }, tracker := { State.reset.tracker with recs := [{ state := .predicted, tdec := some 90, verdict := some (3, 200, 10) }] } }, by decide +kernel⟩

theorem witness_TrackerDecisionResults_2 :
    ∃ (handle : Nat) (r : Rec) (u : Int) (cls : Nat) (conf : Nat) (margin : Nat) (s : State),
    (s.recOf handle = some r) ∧ (r.state = .predicted) ∧ (r.tdec = some u) ∧ (r.verdict = some (cls, conf, margin)) ∧ (s.callsEject cls conf = true) ∧ (s.timeRuns = true) ∧ (s.time.counter ≤ u.toNat) :=
  ⟨0, { state := .predicted, tdec := some 90, verdict := some (0, 255, 10) }, 90, 0, 255, 10, { State.reset with module := { State.reset.module with mainUp := true }, tracker := { State.reset.tracker with recs := [{ state := .predicted, tdec := some 90, verdict := some (0, 255, 10) }] }, pipe := { State.reset.pipe with banks := [{ image := List.replicate 0x58 0 ++ [1, 255] }, {}] } }, by decide +kernel⟩

theorem witness_TrackerDecisionResults_3 :
    ∃ (handle : Nat) (r : Rec) (s : State),
    (s.recOf handle = some r) ∧ (r.decided = true) ∧ (s.timeRuns = true) ∧ (s.time.counter ≤ r.retireAt) :=
  ⟨0, { state := .pass, retireAt := 9 }, { State.reset with module := { State.reset.module with mainUp := true }, tracker := { State.reset.tracker with recs := [{ state := .pass, retireAt := 9 }] } }, by decide +kernel⟩

theorem witness_TrackerDecisionResults_4 :
    ∃ (m : Master) (sub : Nat) (value : Nat) (s : State),
    (sub < 256) ∧ (s.writable m (obj 0x2601 sub) (.num value) = true) :=
  ⟨.host, 5, 9830000, { State.reset with module := { State.reset.module with mainUp := true } }, by decide +kernel⟩

theorem witness_TrackerDecisionResults_5 :
    ∃ (m : Master) (group : Nat) (value : Nat) (s : State),
    (s.tracker.shaped) ∧ (group < 16) ∧ (s.writable m (obj 0x2604 (group + 1)) (.num value) = true) ∧ (bits value 11 0 ≠ 0xFFF) ∧ ((s.topoOf (bits value 11 0)).isSome = true) ∧ (s.within (s.nat (obj 0x2605 7)) [s.strand.id] (bits value 11 0) = true) :=
  ⟨.host, 15, 0x80000000, { State.reset with module := { State.reset.module with mainUp := true }, tracker := { State.reset.tracker with epoch := 255 } }, rfl, by decide +kernel⟩

theorem witness_TrackerDecisionResults_6 :
    ∃ (s : State),
    (s.module.mainUp = true) ∧ (s.nat (obj 0x2605 2) ≠ 0) ∧ (s.clk ≤ s.tracker.governorAt + 10 * msTicks) :=
  ⟨({ State.reset with module := { State.reset.module with mainUp := true } }).putNat (obj 0x2605 2) 1, by decide +kernel⟩

theorem witness_TrackerDecisionResults_7 :
    ∃ (s : State),
    (s.module.mainUp = true) ∧ (s.clk ≤ s.tracker.floorAt + secTicks) :=
  ⟨{ State.reset with module := { State.reset.module with mainUp := true } }, by decide +kernel⟩


theorem witness_FerryResults_1 :
    ∃ (src : Nat) (handle : Nat) (epoch : Nat) (segment : Nat) (count : Nat) (sendTick : Nat) (data : List Byte) (s : State),
    (s.module.loader = false) ∧ (s.module.mainUp = true) ∧ (1 < count) ∧ (s.strand.chips.all (fun c => !(c.src == src && c.handle == handle && c.epoch == epoch && c.sendTick == sendTick)) = true) :=
  ⟨64, 1, 0, 1, 2, 5, [1], { State.reset with module := { State.reset.module with mainUp := true } }, by decide +kernel⟩

theorem witness_FerryResults_2 :
    ∃ (src : Nat) (handle : Nat) (epoch : Nat) (segment : Nat) (sendTick : Nat) (data : List Byte) (w : ObjJob) (s : State),
    (s.module.loader = false) ∧ (s.module.mainUp = true) ∧ (s.strand.chips.all (fun c => !(c.src == src && c.handle == handle && c.epoch == epoch && c.sendTick == sendTick)) = true) ∧ (s.fabricBarred = false) ∧ (s.module.state = .sorting) ∧ (s.pipe.objWork = some w) ∧ (s.pipe.chipQueue.length < 256) :=
  ⟨64, 1, 0, 0, 5, [], {}, { State.reset with module := { State.reset.module with mainUp := true, state := .sorting }, strand := { State.reset.strand with provisional := false }, pipe := { State.reset.pipe with objWork := some {} } }, by decide +kernel⟩

theorem witness_FerryResults_3 :
    ∃ (src : Nat) (handle : Nat) (epoch : Nat) (c : ChipParts) (s : State),
    (s.strand.chips.find? (fun c => c.src == src && c.handle == handle && c.epoch == epoch) = some c) ∧ (s.clk ≤ c.since + 100 * usTicks) :=
  ⟨64, 1, 0, ⟨64, 1, 0, 2, 5, [], 3⟩, { State.reset with module := { State.reset.module with mainUp := true }, strand := { State.reset.strand with chips := [⟨64, 1, 0, 2, 5, [], 3⟩] } }, by decide +kernel⟩

theorem witness_FerryResults_4 :
    ∃ (src : Nat) (sendTick : Nat) (handle : Nat) (epoch : Nat) (cls : Nat) (conf : Nat) (margin : Nat) (bank : Nat) (model : Nat) (r : Rec) (s : State),
    (s.module.mainUp = true) ∧ (s.fabricBarred = false) ∧ (s.recOf handle = some r) ∧ (r.settled = false) ∧ (s.tick ≤ sendTick + s.nat (obj 0x2605 8) * msTicks) :=
  ⟨64, 0, 0, 0, 31, 255, 0, 1, 7, {}, { State.reset with module := { State.reset.module with mainUp := true }, strand := { State.reset.strand with provisional := false }, tracker := { State.reset.tracker with recs := [{}] } }, by decide +kernel⟩

theorem witness_FerryResults_5 :
    ∃ (src : Nat) (sendTick : Nat) (handle : Nat) (epoch : Nat) (cause : Nat) (r : Rec) (image : ObjImage) (w : ObjJob) (s : State),
    (s.module.mainUp = true) ∧ (s.fabricBarred = false) ∧ (s.recOf handle = some r) ∧ (epoch % 256 = r.epoch % 256) ∧ (r.settled = false) ∧ (r.chipRefused = false) ∧ (r.tdec = none) ∧ (r.chip = some image) ∧ (s.pipe.objWork = some w) ∧ (s.pipe.chipQueue.length < 256) :=
  ⟨64, 0, 0, 256, 1, { chip := some default }, default, {}, { State.reset with module := { State.reset.module with mainUp := true }, strand := { State.reset.strand with provisional := false }, tracker := { State.reset.tracker with recs := [{ chip := some default }] }, pipe := { State.reset.pipe with objWork := some {} } }, by decide +kernel⟩

theorem witness_FerryResults_6 :
    ∃ (src : Nat) (valve : Nat) (ta : Nat) (shotEnd : Nat) (handle : Nat) (conf : Nat) (cover : Bool) (s : State),
    (s.module.loader = false) ∧ (s.module.mainUp = true) ∧ (s.fabricBarred = false) ∧ (src = s.beside portE ∨ src = s.beside portW) ∧ (valve < s.valveCount) ∧ (s.fireAllowed = true) ∧ (s.tick + 32 ≤ ta - (s.valve valve).lead) ∧ (s.available valve = true) :=
  ⟨64, 255, 32, 90, 0, 0, false, { State.reset with module := { State.reset.module with mainUp := true }, strand := { State.reset.strand with provisional := false, links := [{ state := .up, hello := some { (default : Hello) with id := 64 } }, {}, {}, {}] }, time := { State.reset.time with state := .locked } }, by decide +kernel⟩


theorem witness_DriveShotResults_1 :
    ∃ (v : Valve) (x : Shot) (r : List Shot) (s : State),
    (s.drive.shaped) ∧ (s.seqs.shaped) ∧ ((s.valve v).queue = x :: r) ∧ ((s.store (s.groupOf v)).holding = false) ∧ (s.drive.enIn = true) ∧ (x.beyondLimit = false) ∧ (s.timeRuns = true) ∧ (s.time.counter ≤ x.edge) :=
  ⟨255, { start := 8, req := { sched := 8, ta := 100, shotEnd := 900000 }, shotEnd := 900000 }, [], { State.reset with module := { State.reset.module with mainUp := true }, drive := { State.reset.drive with enIn := true, valves := State.reset.drive.valves.set 255 { queue := [{ start := 8, req := { sched := 8, ta := 100, shotEnd := 900000 }, shotEnd := 900000 }] } } }, ⟨by decide, by decide⟩, ⟨by decide, by decide⟩, by decide +kernel⟩

theorem witness_DriveShotResults_2 :
    ∃ (v : Valve) (u : Nat) (l : Nat) (x : Shot) (s : State),
    (s.drive.shaped) ∧ (s.seqs.shaped) ∧ ((s.seq v).busy = .boostWait true u l) ∧ ((s.valve v).run = some x) ∧ (s.timeRuns = true) ∧ (s.time.counter ≤ x.req.sched + x.deferLimit.toNat) :=
  ⟨0, 8, 100, { start := 8, req := { sched := 8, ta := 100, shotEnd := 900000 }, shotEnd := 900000 }, { State.reset with module := { State.reset.module with mainUp := true }, drive := { State.reset.drive with valves := State.reset.drive.valves.set 0 { run := some { start := 8, req := { sched := 8, ta := 100, shotEnd := 900000 }, shotEnd := 900000 } } }, seqs := { State.reset.seqs with seqs := State.reset.seqs.seqs.set 0 { running := true, busy := .boostWait true 8 100 } } }, ⟨by decide, by decide⟩, ⟨by decide, by decide⟩, by decide +kernel⟩

theorem witness_DriveShotResults_3 :
    ∃ (v : Valve) (w : KinkWindow) (s : State),
    (s.seqs.shaped) ∧ ((s.seq v).window = some w) ∧ (w.isOpen = false) ∧ (s.timeRuns = true) ∧ (s.time.counter ≤ w.opens) :=
  ⟨3, { opens := 7, closes := 9 }, { State.reset with module := { State.reset.module with mainUp := true }, seqs := { State.reset.seqs with seqs := State.reset.seqs.seqs.set 3 { window := some { opens := 7, closes := 9 } } } }, ⟨by decide, by decide⟩, by decide +kernel⟩

theorem witness_DriveShotResults_4 :
    ∃ (v : Valve) (samples : List Int) (w : KinkWindow) (s : State),
    (s.seqs.shaped) ∧ ((s.seq v).window = some w) ∧ (w.isOpen = true) ∧ (w.sampled = true) ∧ (s.timeRuns = true) ∧ (s.time.counter ≤ w.closes) ∧ (kinkOf samples (s.shotTerms v).kinkMin = none) :=
  ⟨3, [], { opens := 7, closes := 9, isOpen := true, sampled := true }, { State.reset with module := { State.reset.module with mainUp := true }, seqs := { State.reset.seqs with seqs := State.reset.seqs.seqs.set 3 { window := some { opens := 7, closes := 9, isOpen := true, sampled := true } } } }, ⟨by decide, by decide⟩, by decide +kernel⟩

theorem witness_DriveShotResults_5 :
    ∃ (v : Valve) (samples : List Int) (w : KinkWindow) (k : Nat) (amp : Nat) (u : Nat) (s : State),
    (s.drive.shaped) ∧ (s.seqs.shaped) ∧ ((s.seq v).window = some w) ∧ (w.isOpen = true) ∧ (w.sampled = true) ∧ (kinkOf samples (s.shotTerms v).kinkMin = some (k, amp)) ∧ ((s.seq v).tOff = some u) ∧ (|((w.opens + k : Nat) - (u : ℚ)) * 5 / 4 - (s.valve v).deltaBar| ≤ ((s.shotTerms v).gate : ℚ) * 1000) :=
  ⟨3, [0, 0, 0, 0, 0, 0, 0, 0, 9000, 0, 0, 0], { opens := 7, closes := 9, isOpen := true, sampled := true }, ((kinkOf [0, 0, 0, 0, 0, 0, 0, 0, 9000, 0, 0, 0] 0).getD (0, 0)).1, ((kinkOf [0, 0, 0, 0, 0, 0, 0, 0, 9000, 0, 0, 0] 0).getD (0, 0)).2, 5, { State.reset with module := { State.reset.module with mainUp := true }, seqs := { State.reset.seqs with seqs := State.reset.seqs.seqs.set 3 { tOff := some 5, window := some { opens := 7, closes := 9, isOpen := true, sampled := true } } } }, ⟨by decide, by decide⟩, ⟨by decide, by decide⟩, by decide +kernel⟩

theorem witness_DriveShotResults_6 :
    ∃ (v : Valve) (samples : List Int) (w : KinkWindow) (s : State),
    (s.seqs.shaped) ∧ ((s.seq v).window = some w) ∧ (w.isOpen = true) ∧ (w.sampled = false) :=
  ⟨3, [], { opens := 7, closes := 9, isOpen := true }, { State.reset with module := { State.reset.module with mainUp := true }, seqs := { State.reset.seqs with seqs := State.reset.seqs.seqs.set 3 { window := some { opens := 7, closes := 9, isOpen := true } } } }, ⟨by decide, by decide⟩, by decide +kernel⟩

theorem witness_DriveShotResults_7 :
    ∃ (squares : List Nat) (s : State),
    (s.drive.shaped) ∧ (s.module.mainUp = true) ∧ (s.clk ≤ s.drive.thermalAt + msTicks) :=
  ⟨[1000000], { State.reset with module := { State.reset.module with mainUp := true } }, ⟨by decide, by decide⟩, by decide +kernel⟩


theorem witness_DriveStateResults_1 :
    ∃ (s : State),
    (s.seqs.shaped) ∧ (s.drive.enIn = true) :=
  ⟨{ State.reset with module := { State.reset.module with mainUp := true }, drive := { State.reset.drive with enIn := true }, seqs := { State.reset.seqs with seqs := State.reset.seqs.seqs.set 9 { running := true } } }, ⟨by decide, by decide⟩, by decide +kernel⟩

theorem witness_DriveStateResults_2 :
    ∃ (s : State),
    (s.drive.enIn = false) :=
  ⟨{ State.reset with module := { State.reset.module with mainUp := true } }, by decide +kernel⟩

theorem witness_DriveStateResults_3 :
    ∃ (s : State),
    (s.drive.enIn = true) ∧ (s.drive.enSettled = false) ∧ (s.clk ≤ s.drive.enSince + msTicks) :=
  ⟨{ State.reset with module := { State.reset.module with mainUp := true }, drive := { State.reset.drive with enIn := true } }, by decide +kernel⟩

theorem witness_DriveStateResults_4 :
    ∃ (g : Group) (s : State),
    (s.drive.shaped) ∧ (s.seqs.shaped) ∧ (g.val < s.stride) ∧ ((s.group g).state ≠ 2) :=
  ⟨31, { State.reset with module := { State.reset.module with mainUp := true }, drive := { State.reset.drive with groups := State.reset.drive.groups.set 31 { trips := [0, 0] } }, seqs := { State.reset.seqs with seqs := State.reset.seqs.seqs.set 31 { running := true } } }, ⟨by decide, by decide⟩, ⟨by decide, by decide⟩, by decide +kernel⟩

theorem witness_DriveStateResults_5 :
    ∃ (v : Valve) (s : State),
    (s.drive.shaped) ∧ (s.seqs.shaped) ∧ (v.val < s.valveCount) :=
  ⟨9, { State.reset with module := { State.reset.module with mainUp := true }, seqs := { State.reset.seqs with seqs := State.reset.seqs.seqs.set 9 { running := true } } }, ⟨by decide, by decide⟩, ⟨by decide, by decide⟩, by decide +kernel⟩

theorem witness_DriveStateResults_6 :
    ∃ (m : Master) (v : Valve) (s : State),
    (s.drive.shaped) ∧ (s.writable m (valveKey 0x2710 v) (.num 0) = true) ∧ ((s.valve v).avail ≠ 1) ∧ ((s.valve v).avail ≠ 2) :=
  ⟨.host, 255, { State.reset with module := { State.reset.module with mainUp := true }, drive := { State.reset.drive with valves := State.reset.drive.valves.set 255 { avail := 5, openFails := 2 } } }, ⟨by decide, by decide⟩, by decide +kernel⟩

theorem witness_DriveStateResults_7 :
    ∃ (m : Master) (v : Valve) (s : State),
    (s.drive.shaped) ∧ (s.writable m (valveKey 0x2710 v) (.num 3) = true) ∧ ((s.valve v).avail = 0 ∨ (s.valve v).avail = 3) :=
  ⟨.host, 128, { State.reset with module := { State.reset.module with mainUp := true } }, ⟨by decide, by decide⟩, by decide +kernel⟩

theorem witness_DriveStateResults_8 :
    ∃ (m : Master) (g : Group) (s : State),
    (s.drive.shaped) ∧ (s.writable m (groupKey 0x2709 g) (.num 1) = true) ∧ ((s.group g).state = 2) :=
  ⟨.host, 31, { State.reset with module := { State.reset.module with mainUp := true }, drive := { State.reset.drive with groups := State.reset.drive.groups.set 31 { state := 2 }, valves := State.reset.drive.valves.set 31 { avail := 2 } } }, ⟨by decide, by decide⟩, by decide +kernel⟩

theorem witness_DriveStateResults_9 :
    ∃ (m : Master) (s : State),
    (s.drive.shaped) ∧ (s.writable m (obj 0x270A 3) (.num 1) = true) ∧ (s.module.state = .idle) ∧ (s.drive.enIn = true) ∧ (s.drive.enSettled = true) ∧ (s.drive.powerFail = false) ∧ (s.available (s.nat (obj 0x270A 1)) = true) ∧ ((s.valve (s.nat (obj 0x270A 1))).skip = false) ∧ ((s.valve (s.nat (obj 0x270A 1))).queue = []) :=
  ⟨.host, { State.reset with module := { State.reset.module with mainUp := true, state := .idle }, drive := { State.reset.drive with enIn := true, enSettled := true } }, ⟨by decide, by decide⟩, by decide +kernel⟩


theorem witness_SequencerWordResults_1 :
    ∃ (v : Valve) (s : State),
    (s.seqs.shaped) ∧ (s.issuing v = some (.nop)) :=
  ⟨255, { State.reset with module := { State.reset.module with mainUp := true }, seqs := { State.reset.seqs with seqs := State.reset.seqs.seqs.set 255 { running := true, pc := 0x40, issueAt := 12 }, stores := State.reset.seqs.stores.set (255 % 32) { active := { image := List.replicate 0x100 0 ++ [0, 0, 0, 0] ++ List.replicate 3836 0, valid := true } } } }, ⟨by decide, by decide⟩, by decide +kernel⟩

theorem witness_SequencerWordResults_2 :
    ∃ (v : Valve) (l : Nat) (s : State),
    (s.seqs.shaped) ∧ (s.issuing v = some (.seti l)) ∧ ((s.group (s.groupOf v)).waiting.all (fun w => w.2.1 != v.val) = true) :=
  ⟨255, 255, { State.reset with module := { State.reset.module with mainUp := true }, seqs := { State.reset.seqs with seqs := State.reset.seqs.seqs.set 255 { running := true, pc := 0x40, issueAt := 12, mode := .boost, boosted := true }, stores := State.reset.seqs.stores.set (255 % 32) { active := { image := List.replicate 0x100 0 ++ [255, 0, 0, 48] ++ List.replicate 3836 0, valid := true } } } }, ⟨by decide, by decide⟩, by decide +kernel⟩

theorem witness_SequencerWordResults_3 :
    ∃ (v : Valve) (f : Bool) (s : State),
    (s.seqs.shaped) ∧ (s.issuing v = some (.decay f)) :=
  ⟨255, true, { State.reset with module := { State.reset.module with mainUp := true }, seqs := { State.reset.seqs with seqs := State.reset.seqs.seqs.set 255 { running := true, pc := 0x40, issueAt := 12 }, stores := State.reset.seqs.stores.set (255 % 32) { active := { image := List.replicate 0x100 0 ++ [1, 0, 0, 64] ++ List.replicate 3836 0, valid := true } } } }, ⟨by decide, by decide⟩, by decide +kernel⟩

theorem witness_SequencerWordResults_4 :
    ∃ (v : Valve) (n : Nat) (s : State),
    (s.seqs.shaped) ∧ (s.issuing v = some (.wait n)) :=
  ⟨255, 0xFFFFFF, { State.reset with module := { State.reset.module with mainUp := true }, seqs := { State.reset.seqs with seqs := State.reset.seqs.seqs.set 255 { running := true, pc := 0x40, issueAt := 12 }, stores := State.reset.seqs.stores.set (255 % 32) { active := { image := List.replicate 0x100 0 ++ [255, 255, 255, 80] ++ List.replicate 3836 0, valid := true } } } }, ⟨by decide, by decide⟩, by decide +kernel⟩

theorem witness_SequencerWordResults_5 :
    ∃ (v : Valve) (c : Nat) (n : Nat) (thr : Nat) (k : Bool) (s : State),
    (s.seqs.shaped) ∧ (s.issuing v = some (.waiti c k n thr)) ∧ (c ≠ 2 ∨ (s.seq v).mode = .boost) :=
  ⟨255, 1, 0x1FF, 255, true, { State.reset with module := { State.reset.module with mainUp := true }, seqs := { State.reset.seqs with seqs := State.reset.seqs.seqs.set 255 { running := true, pc := 0x40, issueAt := 12 }, stores := State.reset.seqs.stores.set (255 % 32) { active := { image := List.replicate 0x100 0 ++ [255, 255, 1, 102] ++ List.replicate 3836 0, valid := true } } } }, ⟨by decide, by decide⟩, by decide +kernel⟩

theorem witness_SequencerWordResults_6 :
    ∃ (v : Valve) (d : Nat) (n : Nat) (s : State),
    (s.seqs.shaped) ∧ (s.issuing v = some (.mark d n)) :=
  ⟨255, 0xFFF, 0xFFF, { State.reset with module := { State.reset.module with mainUp := true }, seqs := { State.reset.seqs with seqs := State.reset.seqs.seqs.set 255 { running := true, pc := 0x40, issueAt := 12 }, stores := State.reset.seqs.stores.set (255 % 32) { active := { image := List.replicate 0x100 0 ++ [255, 255, 255, 112] ++ List.replicate 3836 0, valid := true } } } }, ⟨by decide, by decide⟩, by decide +kernel⟩

theorem witness_SequencerWordResults_7 :
    ∃ (v : Valve) (s : State),
    (s.seqs.shaped) ∧ (s.issuing v = some (.off)) :=
  ⟨255, { State.reset with module := { State.reset.module with mainUp := true }, seqs := { State.reset.seqs with seqs := State.reset.seqs.seqs.set 255 { running := true, pc := 0x40, issueAt := 12, mode := .hold }, stores := State.reset.seqs.stores.set (255 % 32) { active := { image := List.replicate 0x100 0 ++ [0, 0, 0, 128] ++ List.replicate 3836 0, valid := true } } } }, ⟨by decide, by decide⟩, by decide +kernel⟩

theorem witness_SequencerWordResults_8 :
    ∃ (v : Valve) (c : Nat) (b : Nat) (s : State),
    (s.seqs.shaped) ∧ (s.issuing v = some (.loop c b)) ∧ ((s.seq v).loopCtr = none) ∧ (c ≠ 0) :=
  ⟨255, 255, 1, { State.reset with module := { State.reset.module with mainUp := true }, seqs := { State.reset.seqs with seqs := State.reset.seqs.seqs.set 255 { running := true, pc := 0x40, issueAt := 12 }, stores := State.reset.seqs.stores.set (255 % 32) { active := { image := List.replicate 0x100 0 ++ [1, 255, 0, 144] ++ List.replicate 3836 0, valid := true } } } }, ⟨by decide, by decide⟩, by decide +kernel⟩

theorem witness_SequencerWordResults_9 :
    ∃ (v : Valve) (c : Nat) (b : Nat) (k : Nat) (s : State),
    (s.seqs.shaped) ∧ (s.issuing v = some (.loop c b)) ∧ ((s.seq v).loopCtr = some (k + 1)) ∧ (k ≠ 0) :=
  ⟨255, 255, 1, 254, { State.reset with module := { State.reset.module with mainUp := true }, seqs := { State.reset.seqs with seqs := State.reset.seqs.seqs.set 255 { running := true, pc := 0x40, issueAt := 12, loopCtr := some 255 }, stores := State.reset.seqs.stores.set (255 % 32) { active := { image := List.replicate 0x100 0 ++ [1, 255, 0, 144] ++ List.replicate 3836 0, valid := true } } } }, ⟨by decide, by decide⟩, by decide +kernel⟩

theorem witness_SequencerWordResults_10 :
    ∃ (v : Valve) (c : Nat) (b : Nat) (s : State),
    (s.seqs.shaped) ∧ (s.issuing v = some (.loop c b)) ∧ ((s.seq v).loopCtr = some 1) :=
  ⟨255, 255, 1, { State.reset with module := { State.reset.module with mainUp := true }, seqs := { State.reset.seqs with seqs := State.reset.seqs.seqs.set 255 { running := true, pc := 0x40, issueAt := 12, loopCtr := some 1 }, stores := State.reset.seqs.stores.set (255 % 32) { active := { image := List.replicate 0x100 0 ++ [1, 255, 0, 144] ++ List.replicate 3836 0, valid := true } } } }, ⟨by decide, by decide⟩, by decide +kernel⟩

theorem witness_SequencerWordResults_11 :
    ∃ (v : Valve) (n : Nat) (l : Nat) (s : State),
    (s.seqs.shaped) ∧ (s.issuing v = some (.hold n l)) ∧ ((s.group (s.groupOf v)).waiting.all (fun w => w.2.1 != v.val) = true) :=
  ⟨255, 0x3FFFF, 255, { State.reset with module := { State.reset.module with mainUp := true }, seqs := { State.reset.seqs with seqs := State.reset.seqs.seqs.set 255 { running := true, pc := 0x40, issueAt := 12 }, stores := State.reset.seqs.stores.set (255 % 32) { active := { image := List.replicate 0x100 0 ++ [255, 255, 255, 35] ++ List.replicate 3836 0, valid := true } } } }, ⟨by decide, by decide⟩, by decide +kernel⟩

theorem witness_SequencerWordResults_12 :
    ∃ (v : Valve) (s : State),
    (s.seqs.shaped) ∧ (s.issuing v = some (.fin)) :=
  ⟨255, { State.reset with module := { State.reset.module with mainUp := true }, seqs := { State.reset.seqs with seqs := State.reset.seqs.seqs.set 255 { running := true, pc := 0x40, issueAt := 12 }, stores := State.reset.seqs.stores.set (255 % 32) { active := { image := List.replicate 0x100 0 ++ [0, 0, 0, 160] ++ List.replicate 3836 0, valid := true } } } }, ⟨by decide, by decide⟩, by decide +kernel⟩


theorem witness_SequencerBoostResults_1 :
    ∃ (v : Valve) (l : Nat) (s : State),
    (s.drive.shaped) ∧ (s.seqs.shaped) ∧ (s.issuing v = some (.boost l)) ∧ ((s.shotTerms v).slots ≤ (s.group (s.groupOf v)).slots.length) :=
  ⟨255, 150, { State.reset with module := { State.reset.module with mainUp := true }, drive := { State.reset.drive with groups := State.reset.drive.groups.set 31 { slots := [(1, 20), (33, 20), (65, 20), (97, 20)] } }, seqs := { State.reset.seqs with seqs := State.reset.seqs.seqs.set 255 { running := true, pc := 0x40, issueAt := 12 }, stores := State.reset.seqs.stores.set (255 % 32) { active := { image := List.replicate 0x100 0 ++ [150, 0, 0, 16] ++ List.replicate 3836 0, valid := true } } } }, ⟨by decide, by decide⟩, ⟨by decide, by decide⟩, by decide +kernel⟩

theorem witness_SequencerBoostResults_2 :
    ∃ (v : Valve) (l : Nat) (s : State),
    (s.drive.shaped) ∧ (s.seqs.shaped) ∧ (s.issuing v = some (.boost l)) ∧ ((s.group (s.groupOf v)).waiting = []) ∧ ((s.group (s.groupOf v)).slots.length < (s.shotTerms v).slots) ∧ (s.budgetAdmits (s.groupOf v) (min l 200) = true) ∧ ((s.group (s.groupOf v)).state ≠ 2) :=
  ⟨255, 255, { State.reset with module := { State.reset.module with mainUp := true }, seqs := { State.reset.seqs with seqs := State.reset.seqs.seqs.set 255 { running := true, pc := 0x40, issueAt := 12 }, stores := State.reset.seqs.stores.set (255 % 32) { active := { image := List.replicate 0x100 0 ++ [255, 0, 0, 16] ++ List.replicate 3836 0, valid := true } } } }, ⟨by decide, by decide⟩, ⟨by decide, by decide⟩, by decide +kernel⟩

theorem witness_SequencerBoostResults_3 :
    ∃ (v : Valve) (tick : Nat) (energy : Nat) (s : State),
    (s.drive.shaped) ∧ (s.seqs.shaped) ∧ ((s.seq v).mode = .boost) ∧ ((match (s.seq v).busy with | .waiti 2 _ _ u => decide (stepAt (s.seq v).issueAt (max tick s.tick) + 4 ≤ u) | _ => true) = true) ∧ ((s.group (s.groupOf v)).waiting = []) ∧ (s.time.counter ≤ tick) ∧ (s.timeRuns = true) :=
  ⟨255, 400, 5000, { State.reset with module := { State.reset.module with mainUp := true }, drive := { State.reset.drive with groups := State.reset.drive.groups.set 31 { slots := [(255, 20), (33, 20)] } }, seqs := { State.reset.seqs with seqs := State.reset.seqs.seqs.set 255 { running := true, mode := .boost } } }, ⟨by decide, by decide⟩, ⟨by decide, by decide⟩, by decide +kernel⟩

theorem witness_SequencerBoostResults_4 :
    ∃ (v : Valve) (u : Nat) (l : Nat) (s : State),
    (s.drive.shaped) ∧ (s.seqs.shaped) ∧ ((s.seq v).busy = .boostWait false u l) ∧ ((s.group (s.groupOf v)).waiting.filter (fun w => w.2.1 != v.val) = []) :=
  ⟨255, 8, 20, { State.reset with module := { State.reset.module with mainUp := true }, drive := { State.reset.drive with groups := State.reset.drive.groups.set 31 { waiting := [(5, 255, 20)] } }, seqs := { State.reset.seqs with seqs := State.reset.seqs.seqs.set 255 { running := true, mode := .hold, level := 9, boosted := true, busy := .boostWait false 8 20 } } }, ⟨by decide, by decide⟩, ⟨by decide, by decide⟩, by decide +kernel⟩

theorem witness_SequencerBoostResults_5 :
    ∃ (v : Valve) (timed : Option Nat) (s : State),
    (s.seqs.shaped) ∧ ((s.seq v).busy = .hold timed) :=
  ⟨255, none, { State.reset with module := { State.reset.module with mainUp := true }, seqs := { State.reset.seqs with seqs := State.reset.seqs.seqs.set 255 { running := true, busy := .hold none } } }, ⟨by decide, by decide⟩, by decide +kernel⟩

theorem witness_SequencerBoostResults_6 :
    ∃ (v : Valve) (u : Nat) (s : State),
    (s.seqs.shaped) ∧ ((s.seq v).busy = .wait u) :=
  ⟨255, 88, { State.reset with module := { State.reset.module with mainUp := true }, seqs := { State.reset.seqs with seqs := State.reset.seqs.seqs.set 255 { running := true, busy := .wait 88 } } }, ⟨by decide, by decide⟩, by decide +kernel⟩

theorem witness_SequencerBoostResults_7 :
    ∃ (v : Valve) (tick : Nat) (reading : Nat) (c : Nat) (thr : Nat) (u : Nat) (deadline : Nat) (k : Bool) (s : State),
    (s.seqs.shaped) ∧ ((s.seq v).busy = .waiti c thr k deadline) ∧ (waitiHolds c thr reading (s.seq v).mode = true) ∧ (u = stepAt (s.seq v).issueAt (if c = 2 then (s.seq v).boostEnd else max tick s.tick) + 4) ∧ (u ≤ deadline) :=
  ⟨255, 21, 7, 0, 7, 28, 88, true, { State.reset with module := { State.reset.module with mainUp := true }, seqs := { State.reset.seqs with seqs := State.reset.seqs.seqs.set 255 { running := true, busy := .waiti 0 7 true 88 } } }, ⟨by decide, by decide⟩, by decide +kernel⟩

theorem witness_SequencerBoostResults_8 :
    ∃ (v : Valve) (reading : Nat) (c : Nat) (thr : Nat) (u : Nat) (s : State),
    (s.seqs.shaped) ∧ ((s.seq v).busy = .waiti c thr true u) ∧ (c ≠ 2) :=
  ⟨255, 6, 0, 7, 88, { State.reset with module := { State.reset.module with mainUp := true }, seqs := { State.reset.seqs with seqs := State.reset.seqs.seqs.set 255 { running := true, busy := .waiti 0 7 true 88 } } }, ⟨by decide, by decide⟩, by decide +kernel⟩

theorem witness_SequencerBoostResults_9 :
    ∃ (v : Valve) (reading : Nat) (c : Nat) (thr : Nat) (u : Nat) (s : State),
    (s.drive.shaped) ∧ (s.seqs.shaped) ∧ ((s.seq v).busy = .waiti c thr false u) ∧ (c ≠ 2) :=
  ⟨255, 6, 0, 7, 88, { State.reset with module := { State.reset.module with mainUp := true }, seqs := { State.reset.seqs with seqs := State.reset.seqs.seqs.set 255 { running := true, busy := .waiti 0 7 false 88 } } }, ⟨by decide, by decide⟩, ⟨by decide, by decide⟩, by decide +kernel⟩

theorem witness_SequencerBoostResults_10 :
    ∃ (v : Valve) (reading : Nat) (thr : Nat) (u : Nat) (k : Bool) (s : State),
    (s.drive.shaped) ∧ (s.seqs.shaped) ∧ ((s.seq v).busy = .waiti 2 thr k u) ∧ ((s.seq v).mode = .boost) :=
  ⟨255, 6, 0, 88, false, { State.reset with module := { State.reset.module with mainUp := true }, seqs := { State.reset.seqs with seqs := State.reset.seqs.seqs.set 255 { running := true, mode := .boost, busy := .waiti 2 0 false 88 } } }, ⟨by decide, by decide⟩, ⟨by decide, by decide⟩, by decide +kernel⟩

theorem witness_SequencerBoostResults_11 :
    ∃ (v : Valve) (parity : Bool) (s : State),
    (s.drive.shaped) ∧ (s.seqs.shaped) ∧ ((s.seq v).ready = true) ∧ (parity = true) ∧ (0x40 ≤ (s.seq v).pc) :=
  ⟨255, true, { State.reset with module := { State.reset.module with mainUp := true }, seqs := { State.reset.seqs with seqs := State.reset.seqs.seqs.set 255 { running := true, pc := 0x40, issueAt := 12 }, stores := State.reset.seqs.stores.set (255 % 32) { active := { image := List.replicate 0x100 0 ++ [0, 0, 0, 0] ++ List.replicate 3836 0, valid := true } } } }, ⟨by decide, by decide⟩, ⟨by decide, by decide⟩, by decide +kernel⟩

theorem witness_SequencerBoostResults_12 :
    ∃ (v : Valve) (parity : Bool) (s : State),
    (s.drive.shaped) ∧ (s.seqs.shaped) ∧ ((s.seq v).ready = true) ∧ (parity = false) ∧ (s.parityBad v = false) ∧ (s.fetch v = .illegal) :=
  ⟨255, false, { State.reset with module := { State.reset.module with mainUp := true }, seqs := { State.reset.seqs with seqs := State.reset.seqs.seqs.set 255 { running := true, pc := 0x40, issueAt := 12 }, stores := State.reset.seqs.stores.set (255 % 32) { active := { image := List.replicate 0x100 0 ++ [0, 0, 0, 176] ++ List.replicate 3836 0, valid := true } } } }, ⟨by decide, by decide⟩, ⟨by decide, by decide⟩, by decide +kernel⟩

theorem witness_SequencerBoostResults_13 :
    ∃ (v : Valve) (tick : Nat) (s : State),
    (s.drive.shaped) ∧ (s.seqs.shaped) ∧ ((s.seq v).running = false) ∧ ((s.seq v).idle = false) ∧ ((s.seq v).window = none) :=
  ⟨255, 44, { State.reset with module := { State.reset.module with mainUp := true }, seqs := { State.reset.seqs with seqs := State.reset.seqs.seqs.set 255 { idle := false } } }, ⟨by decide, by decide⟩, ⟨by decide, by decide⟩, by decide +kernel⟩


theorem witness_SequencerStoreResults_1 :
    ∃ (m : Master) (g : Group) (image : List Byte) (s : State),
    (s.seqs.shaped) ∧ (g.val < s.stride) ∧ (s.writable m (groupKey 0x2801 g) (.bytes image) = true) ∧ ((s.store g).swapAt = none) ∧ (s.reachable m = true) :=
  ⟨.host, 31, List.replicate 4096 0, { State.reset with module := { State.reset.module with mainUp := true } }, ⟨by decide, by decide⟩, by decide +kernel⟩

theorem witness_SequencerStoreResults_2 :
    ∃ (m : Master) (image : List Byte) (s : State),
    (s.seqs.shaped) ∧ (s.writable m (obj 0x2808 1) (.bytes image) = true) ∧ (∀ g, g < s.stride → (s.store g).swapAt = none) :=
  ⟨.host, List.replicate 4096 0, { State.reset with module := { State.reset.module with mainUp := true } }, ⟨by decide, by decide⟩, by decide +kernel⟩

theorem witness_SequencerStoreResults_3 :
    ∃ (m : Master) (g : Group) (s : State),
    (s.seqs.shaped) ∧ (s.writable m (groupKey 0x2802 g) (.num 1) = true) ∧ ((s.store g).shadow.valid = true) ∧ ((s.store g).swapAt = none) ∧ ((s.groupValves g).all (fun v => ((s.store g).shadow.entry (s.profileOf v)).2 != 0) = true) ∧ (s.module.state ≠ .sorting) ∧ (s.testRunning = false) ∧ (s.groupIdle g = true) ∧ (s.edgeWithin g s.tick = false) :=
  ⟨.host, 31, { State.reset with module := { State.reset.module with mainUp := true, state := .idle }, seqs := { State.reset.seqs with seqs := State.reset.seqs.seqs.set 31 {  }, stores := State.reset.seqs.stores.set (31 % 32) { shadow := { image := List.replicate 0x100 0 ++ [0, 0, 0, 160] ++ List.replicate 3836 0, valid := true } } } }, ⟨by decide, by decide⟩, by decide +kernel⟩

theorem witness_SequencerStoreResults_4 :
    ∃ (m : Master) (g : Group) (s : State),
    (s.seqs.shaped) ∧ (s.writable m (groupKey 0x2802 g) (.num 1) = true) ∧ ((s.store g).shadow.valid = true) ∧ ((s.store g).swapAt = none) ∧ ((s.groupValves g).all (fun v => ((s.store g).shadow.entry (s.profileOf v)).2 != 0) = true) ∧ (s.module.state = .sorting) ∧ ((s.group g).state ≠ 2) :=
  ⟨.host, 31, { State.reset with module := { State.reset.module with mainUp := true, state := .sorting }, seqs := { State.reset.seqs with seqs := State.reset.seqs.seqs.set 31 {  }, stores := State.reset.seqs.stores.set (31 % 32) { shadow := { image := List.replicate 0x100 0 ++ [0, 0, 0, 160] ++ List.replicate 3836 0, valid := true } } } }, ⟨by decide, by decide⟩, by decide +kernel⟩

theorem witness_SequencerStoreResults_5 :
    ∃ (m : Master) (g : Group) (s : State),
    (s.writable m (groupKey 0x2802 g) (.num 1) = true) ∧ ((s.store g).shadow.valid = false) :=
  ⟨.host, 31, { State.reset with module := { State.reset.module with mainUp := true } }, by decide +kernel⟩

theorem witness_SequencerStoreResults_6 :
    ∃ (m : Master) (s : State),
    (s.writable m (obj 0x2808 2) (.num 1) = true) ∧ (∀ g, g < s.stride → (s.store g).shadow.valid = false) :=
  ⟨.host, { State.reset with module := { State.reset.module with mainUp := true } }, by decide +kernel⟩

theorem witness_SequencerStoreResults_7 :
    ∃ (g : Group) (u : Nat) (s : State),
    (s.seqs.shaped) ∧ ((s.store g).swapAt = some u) ∧ (s.groupIdle g = true) ∧ ((s.store g).holding = true ∨ s.edgeWithin g s.tick = false) ∧ (g.val < s.stride) :=
  ⟨31, 0, { State.reset with module := { State.reset.module with mainUp := true, state := .sorting }, seqs := { State.reset.seqs with seqs := State.reset.seqs.seqs.set 31 {  }, stores := State.reset.seqs.stores.set (31 % 32) { shadow := { image := List.replicate 0x100 0 ++ [0, 0, 0, 160] ++ List.replicate 3836 0, valid := true }, swapAt := some 0 } } }, ⟨by decide, by decide⟩, by decide +kernel⟩

theorem witness_SequencerStoreResults_8 :
    ∃ (g : Group) (u : Nat) (s : State),
    (s.seqs.shaped) ∧ ((s.store g).swapAt = some u) ∧ ((s.store g).holding = false) ∧ (s.clk ≤ u + msTicks) :=
  ⟨31, 0, { State.reset with module := { State.reset.module with mainUp := true, state := .sorting }, seqs := { State.reset.seqs with seqs := State.reset.seqs.seqs.set 31 {  }, stores := State.reset.seqs.stores.set (31 % 32) { swapAt := some 0 } } }, ⟨by decide, by decide⟩, by decide +kernel⟩

theorem witness_SequencerStoreResults_9 :
    ∃ (g : Group) (u : Nat) (s : State),
    (s.seqs.shaped) ∧ ((s.store g).swapAt = some u) ∧ ((s.store g).holding = true) ∧ (s.clk ≤ u + 2 * msTicks) :=
  ⟨31, 0, { State.reset with module := { State.reset.module with mainUp := true, state := .sorting }, seqs := { State.reset.seqs with seqs := State.reset.seqs.seqs.set 31 {  }, stores := State.reset.seqs.stores.set (31 % 32) { swapAt := some 0, holding := true, held := [31] } } }, ⟨by decide, by decide⟩, by decide +kernel⟩

theorem witness_SequencerStoreResults_10 :
    ∃ (m : Master) (v : Valve) (profile : Nat) (s : State),
    (s.writable m (valveKey 0x2810 v) (.num profile) = true) ∧ (((s.store (s.groupOf v)).active.entry profile).2 ≠ 0) ∧ ((s.store (s.groupOf v)).swapAt = none) :=
  ⟨.host, 255, 0, { State.reset with module := { State.reset.module with mainUp := true }, seqs := { State.reset.seqs with seqs := State.reset.seqs.seqs.set 255 {  }, stores := State.reset.seqs.stores.set (255 % 32) { active := { image := List.replicate 0x100 0 ++ [0, 0, 0, 0] ++ List.replicate 3836 0, valid := true } } } }, by decide +kernel⟩


theorem witness_SwapAllGroupsResult :
    ∃ (m : Master) (s : State),
    (s.seqs.shaped) ∧ (s.writable m (obj 0x2808 2) (.num 1) = true) ∧ (s.module.state ≠ .sorting) ∧ (s.testRunning = false) ∧ (∀ g, g < s.stride → (s.store g).shadow.valid = true ∧ (s.store g).swapAt = none ∧ (s.store g).held = [] ∧ s.groupIdle g = true ∧ s.edgeWithin g s.tick = false ∧ (s.groupValves g).all (fun v => ((s.store g).shadow.entry (s.profileOf v)).2 != 0) = true) :=
  ⟨.host, { State.reset with module := { State.reset.module with mainUp := true, state := .idle }, seqs := { State.reset.seqs with stores := List.replicate 32 { shadow := { image := List.replicate 0x100 0 ++ [0, 0, 0, 160] ++ List.replicate 3836 0, valid := true } } } }, ⟨by decide, by decide⟩, by decide +kernel⟩


theorem witness_LoopSampleResults_1 :
    ∃ (slot : Fin 8) (ains : List Int) (s : State),
    (s.loops.shaped) ∧ ((s.slot slot).state = .warmUp ∨ (s.slot slot).state = .running) ∧ (s.timeRuns = true) ∧ (s.loops.stopped = false) :=
  ⟨7, [12000, 0, 0, 0], ({ State.reset with module := { State.reset.module with mainUp := true, state := .sorting }, loops := { State.reset.loops with slots := State.reset.loops.slots.set 7 { state := .running, next := 3, active := 1 } } }).putNat (slotKey 7 0x2A11 1) 1, ⟨by decide, by decide, by decide⟩, by decide +kernel, by decide +kernel⟩

theorem witness_LoopSampleResults_2 :
    ∃ (slot : Fin 8) (ains : List Int) (s : State),
    (s.loops.shaped) ∧ ((s.slot slot).state = .warmUp ∨ (s.slot slot).state = .running) ∧ (s.timeRuns = true) ∧ (s.loops.stopped = false) ∧ (s.nat (slotKey slot 0x2A11 1) = 1) ∧ ((((s.atTick (s.nat (slotKey slot 0x2A10 7) + (s.slot slot).next * s.nat (slotKey slot 0x2A10 6))).readAins ains).loopInput 0).fault = true) :=
  ⟨7, [0, 0, 0, 0], ({ State.reset with module := { State.reset.module with mainUp := true, state := .sorting }, loops := { State.reset.loops with slots := State.reset.loops.slots.set 7 { state := .running, next := 3, active := 1, staleRun := 200 } } }).putNat (slotKey 7 0x2A11 1) 1, ⟨by decide, by decide, by decide⟩, by decide +kernel⟩

theorem witness_LoopSampleResults_3 :
    ∃ (tick : Nat) (u : Nat) (s : State),
    (s.loops.shaped) ∧ (s.module.mainUp = true) ∧ (s.timeRuns = true) ∧ (s.loops.pinTick = some u) ∧ (u < tick) ∧ (s.time.counter ≤ tick) :=
  ⟨1605, 5, { State.reset with module := { State.reset.module with mainUp := true }, loops := { State.reset.loops with pinTick := some 5 } }, ⟨by decide, by decide, by decide⟩, by decide +kernel⟩

theorem witness_LoopSampleResults_4 :
    ∃ (t : Fin 4) (ains : List Int) (s : State),
    (s.loops.shaped) ∧ ((s.trace t).state = 2) ∧ (s.timeRuns = true) ∧ (s.nat (obj (0x2A90 + t) 1) / 256 ≠ 0xFE) ∧ (s.nat (obj (0x2A90 + t) 2) ≤ (s.trace t).skipped) :=
  ⟨3, [], { State.reset with module := { State.reset.module with mainUp := true }, loops := { State.reset.loops with traces := State.reset.loops.traces.set 3 { state := 2, head := 16383, valid := 16384, skipped := 1 } } }, ⟨by decide, by decide, by decide⟩, by decide +kernel⟩

theorem witness_LoopSampleResults_5 :
    ∃ (t : Fin 4) (ains : List Int) (s : State),
    (s.loops.shaped) ∧ ((s.trace t).state = 1) ∧ (s.timeRuns = true) ∧ (s.nat (obj (0x2A90 + t) 1) / 256 = 0xFE) ∧ (1 < (s.trace t).left) ∧ ((s.trace t).skipped < s.nat (obj (0x2A90 + t) 2)) ∧ (s.time.counter ≤ 16000 * (s.trace t).boundary) :=
  ⟨3, [12000], ({ State.reset with module := { State.reset.module with mainUp := true }, loops := { State.reset.loops with traces := State.reset.loops.traces.set 3 { state := 1, left := 2, boundary := 1 } } }).putNat (obj 0x2A93 1) 0xFE01, ⟨by decide, by decide, by decide⟩, by decide +kernel⟩


theorem witness_LoopCommandResults_1 :
    ∃ (m : Master) (slot : Fin 8) (bank : Nat) (image : List Byte) (s : State),
    (s.loops.shaped) ∧ (s.writable m (slotKey slot (0x2A13 + bank % 2) 1) (.bytes image) = true) ∧ (bank % 2 ≠ (s.slot slot).active) ∧ ((s.slot slot).swapPending = false) ∧ (loopBankOk image = true) :=
  ⟨.host, 7, 3, (List.replicate 32 0 ++ [0, 0, 0xC8, 0x42] ++ List.replicate 44 0), { State.reset with module := { State.reset.module with mainUp := true } }, ⟨by decide, by decide, by decide⟩, by decide +kernel⟩

theorem witness_LoopCommandResults_2 :
    ∃ (m : Master) (slot : Fin 8) (bank : Nat) (image : List Byte) (s : State),
    (s.writable m (slotKey slot (0x2A13 + bank % 2) 1) (.bytes image) = true) ∧ (bank % 2 = (s.slot slot).active ∨ (s.slot slot).swapPending = true) :=
  ⟨.host, 7, 2, (List.replicate 32 0 ++ [0, 0, 0xC8, 0x42] ++ List.replicate 44 0), { State.reset with module := { State.reset.module with mainUp := true } }, by decide +kernel⟩

theorem witness_LoopCommandResults_3 :
    ∃ (m : Master) (slot : Fin 8) (s : State),
    (s.loops.shaped) ∧ (s.writable m (slotKey slot 0x2A10 0x0D) (.num 1) = true) ∧ ((s.slot slot).state = .warmUp ∨ (s.slot slot).state = .running) :=
  ⟨.host, 7, { State.reset with module := { State.reset.module with mainUp := true }, loops := { State.reset.loops with slots := State.reset.loops.slots.set 7 { state := .warmUp } } }, ⟨by decide, by decide, by decide⟩, by decide +kernel⟩

theorem witness_LoopCommandResults_4 :
    ∃ (m : Master) (slot : Fin 8) (s : State),
    (s.loops.shaped) ∧ (s.writable m (slotKey slot 0x2A10 0x0D) (.num 1) = true) ∧ ((s.slot slot).state ≠ .warmUp) ∧ ((s.slot slot).state ≠ .running) :=
  ⟨.host, 7, { State.reset with module := { State.reset.module with mainUp := true }, loops := { State.reset.loops with slots := State.reset.loops.slots.set 7 { active := 1 } } }, ⟨by decide, by decide, by decide⟩, by decide +kernel⟩

theorem witness_LoopCommandResults_5 :
    ∃ (m : Master) (slot : Fin 8) (s : State),
    (s.loops.shaped) ∧ (s.writable m (slotKey slot 0x2A10 4) (.num 1) = true) ∧ ((s.slot slot).state = .fault) ∧ (s.nat (slotKey slot 0x2A10 2) ≠ 0) ∧ (s.runCondition slot = true) :=
  ⟨.host, 7, ({ State.reset with module := { State.reset.module with mainUp := true, state := .sorting }, loops := { State.reset.loops with slots := State.reset.loops.slots.set 7 { state := .fault, cause := 3 } } }).putNat (slotKey 7 0x2A10 2) 1, ⟨by decide, by decide, by decide⟩, by decide +kernel⟩

theorem witness_LoopCommandResults_6 :
    ∃ (m : Master) (slot : Fin 8) (s : State),
    (s.loops.shaped) ∧ (s.writable m (slotKey slot 0x2A10 2) (.num 0) = true) ∧ ((s.slot slot).state ≠ .fault) :=
  ⟨.host, 7, { State.reset with module := { State.reset.module with mainUp := true, state := .sorting }, loops := { State.reset.loops with slots := State.reset.loops.slots.set 7 { state := .running, out := 50 } } }, ⟨by decide, by decide, by decide⟩, by decide +kernel⟩

theorem witness_LoopCommandResults_7 :
    ∃ (m : Master) (slot : Fin 8) (s : State),
    (s.loops.shaped) ∧ (s.writable m (slotKey slot 0x2A10 2) (.num 1) = true) ∧ (s.nat (slotKey slot 0x2A11 1) ≠ 0) ∧ (s.outputTaken slot (s.nat (slotKey slot 0x2A11 6)) = false) ∧ ((s.slot slot).state = .disabled ∨ (s.slot slot).state = .manual) :=
  ⟨.host, 7, ({ State.reset with module := { State.reset.module with mainUp := true, state := .sorting } }).putNat (slotKey 7 0x2A11 1) 1, ⟨by decide, by decide, by decide⟩, by decide +kernel⟩

theorem witness_LoopCommandResults_8 :
    ∃ (m : Master) (slot : Fin 8) (s : State),
    (s.loops.shaped) ∧ (s.writable m (slotKey slot 0x2A10 2) (.num 2) = true) ∧ (s.nat (slotKey slot 0x2A11 1) ≠ 0) ∧ (s.outputTaken slot (s.nat (slotKey slot 0x2A11 6)) = false) ∧ ((s.slot slot).state ≠ .fault) :=
  ⟨.host, 7, ({ State.reset with module := { State.reset.module with mainUp := true, state := .sorting }, loops := { State.reset.loops with slots := State.reset.loops.slots.set 7 { state := .parked } } }).putNat (slotKey 7 0x2A11 1) 1, ⟨by decide, by decide, by decide⟩, by decide +kernel⟩

theorem witness_LoopCommandResults_9 :
    ∃ (m : Master) (t : Fin 4) (s : State),
    (s.loops.shaped) ∧ (s.writable m (obj (0x2A90 + t) 7) (.num 1) = true) :=
  ⟨.host, 3, { State.reset with module := { State.reset.module with mainUp := true }, loops := { State.reset.loops with traces := State.reset.loops.traces.set 3 { state := 4, valid := 9 } } }, ⟨by decide, by decide, by decide⟩, by decide +kernel⟩

theorem witness_LoopCommandResults_10 :
    ∃ (m : Master) (t : Fin 4) (s : State),
    (s.loops.shaped) ∧ (s.writable m (obj (0x2A90 + t) 7) (.num 2) = true) ∧ ((s.trace t).state = 2) :=
  ⟨.host, 3, { State.reset with module := { State.reset.module with mainUp := true }, loops := { State.reset.loops with traces := State.reset.loops.traces.set 3 { state := 2, valid := 9 } } }, ⟨by decide, by decide, by decide⟩, by decide +kernel⟩

theorem witness_LoopCommandResults_11 :
    ∃ (m : Master) (t : Fin 4) (s : State),
    (s.loops.shaped) ∧ (s.writable m (obj (0x2A90 + t) 7) (.num 0) = true) :=
  ⟨.host, 3, { State.reset with module := { State.reset.module with mainUp := true }, loops := { State.reset.loops with traces := State.reset.loops.traces.set 3 { state := 3, valid := 9 } } }, ⟨by decide, by decide, by decide⟩, by decide +kernel⟩


theorem witness_LedgerResults_1 :
    ∃ (s : State),
    (s.module.mainUp = true) :=
  ⟨{ State.reset with module := { State.reset.module with mainUp := true } }, by decide +kernel⟩

theorem witness_LedgerResults_2 :
    ∃ (m : Master) (v : Nat) (s : State),
    (s.drive.shaped) ∧ (s.writable m (obj 0x290B 1) (.num v) = true) ∧ (v < s.valveCount) ∧ (v < s.ledger.data.valves.length) ∧ ((s.valve v).avail ≠ 2) :=
  ⟨.host, 102, { State.reset with module := { State.reset.module with mainUp := true }, drive := { State.reset.drive with valves := State.reset.drive.valves.set 102 { avail := 1 } } }, ⟨by decide, by decide⟩, by decide +kernel⟩

theorem witness_LedgerResults_3 :
    ∃ (ring : RingMargin) (s : State),
    (s.module.mainUp = true) ∧ (s.nat (obj 0x2901 8) ≤ s.dieMargin ring) ∧ (s.nat (obj 0x2901 7) ≤ s.dieMargin ring) :=
  ⟨⟨20, 20⟩, { State.reset with module := { State.reset.module with mainUp := true } }, by decide +kernel⟩

theorem witness_LedgerResults_4 :
    ∃ (ring : RingMargin) (s : State),
    (s.module.mainUp = true) ∧ (s.dieMargin ring < s.nat (obj 0x2901 8)) ∧ (s.ledger.data.coreSteps < 4) :=
  ⟨⟨4, 4⟩, { State.reset with module := { State.reset.module with mainUp := true } }, by decide +kernel⟩

theorem witness_LedgerResults_5 :
    ∃ (ring : RingMargin) (s : State),
    (s.module.mainUp = true) ∧ (s.nat (obj 0x2901 8) ≤ s.dieMargin ring) ∧ (s.dieMargin ring < s.nat (obj 0x2901 7)) ∧ (s.ledger.data.coreSteps < 4) :=
  ⟨⟨19, 19⟩, { State.reset with module := { State.reset.module with mainUp := true } }, by decide +kernel⟩

theorem witness_LedgerResults_6 :
    ∃ (ring : RingMargin) (s : State),
    (s.module.mainUp = true) ∧ (s.dieMargin ring < s.nat (obj 0x2901 8)) ∧ (4 ≤ s.ledger.data.coreSteps) :=
  ⟨⟨4, 4⟩, { State.reset with module := { State.reset.module with mainUp := true }, ledger := { State.reset.ledger with data := { State.reset.ledger.data with coreSteps := 4 } } }, by decide +kernel⟩

theorem witness_LedgerResults_7 :
    ∃ (ticks : Nat) (rise : Nat) (s : State),
    (s.module.mainUp = true) ∧ (500 ≤ rise) ∧ (s.drive.groups.all (fun g => g.slots.isEmpty) = true) :=
  ⟨8000, 500, { State.reset with module := { State.reset.module with mainUp := true } }, by decide +kernel⟩


theorem witness_PanelDriverResults_1 :
    ∃ (s : State),
    (s.module.mainUp = true) ∧ (s.backdrop.rails.state = 2) ∧ (s.clk ≤ s.backdrop.scanAt + msTicks) :=
  ⟨{ State.reset with module := { State.reset.module with mainUp := true }, backdrop := { State.reset.backdrop with rails := { state := 2 } } }, by decide +kernel⟩

theorem witness_PanelDriverResults_2 :
    ∃ (r : Fin 10) (x : RegionRun) (u : Nat) (s : State),
    (s.backdrop.shaped) ∧ (r.val < 8) ∧ ((s.backdrop.slots.getD r {}).run = some x) ∧ (x.pairAt = some u) ∧ (s.clk ≤ u + 16 * msTicks) ∧ (s.backdrop.powerFail = false) ∧ ((s.backdrop.slots.getD r {}).next = none) ∧ (s.runPairs x ≤ x.pairs + 1) :=
  ⟨7, { req := { panel := 1, c1 := 1, r1 := 1 }, pairs := 2, pairAt := some 5 }, 5, { State.reset with module := { State.reset.module with mainUp := true }, backdrop := { State.reset.backdrop with slots := State.reset.backdrop.slots.set 7 { run := some { req := { panel := 1, c1 := 1, r1 := 1 }, pairs := 2, pairAt := some 5 } } }, od := [(obj 0x2B03 2, .bytes [1])] }, ⟨by decide, by decide, by decide⟩, by decide +kernel⟩

theorem witness_PanelDriverResults_3 :
    ∃ (r : Fin 10) (x : RegionRun) (u : Nat) (s : State),
    (s.backdrop.shaped) ∧ (r.val < 8) ∧ ((s.backdrop.slots.getD r {}).run = some x) ∧ (x.pairAt = some u) ∧ (s.clk ≤ u + 16 * msTicks) ∧ (s.backdrop.powerFail = false) ∧ ((s.backdrop.slots.getD r {}).next = none) ∧ (x.pairs + 1 < s.runPairs x) :=
  ⟨7, { req := { panel := 1, c1 := 1, r1 := 1 }, pairs := 0, pairAt := some 5 }, 5, { State.reset with module := { State.reset.module with mainUp := true }, backdrop := { State.reset.backdrop with slots := State.reset.backdrop.slots.set 7 { run := some { req := { panel := 1, c1 := 1, r1 := 1 }, pairs := 0, pairAt := some 5 } } }, od := [(obj 0x2B03 2, .bytes (List.replicate 0x40 0 ++ List.replicate 256 9 ++ List.replicate 8192 0))] }, ⟨by decide, by decide, by decide⟩, by decide +kernel⟩

theorem witness_PanelDriverResults_4 :
    ∃ (r : Fin 10) (x : RegionRun) (u : Nat) (q : RegionReq) (s : State),
    (s.backdrop.shaped) ∧ (r.val < 8) ∧ ((s.backdrop.slots.getD r {}).run = some x) ∧ (x.pairAt = some u) ∧ (s.clk ≤ u + 16 * msTicks) ∧ (s.backdrop.powerFail = false) ∧ ((s.backdrop.slots.getD r {}).next = some q) :=
  ⟨7, { req := { panel := 1, c1 := 1, r1 := 1 }, pairs := 2, pairAt := some 5 }, 5, { c1 := 1 }, { State.reset with module := { State.reset.module with mainUp := true }, backdrop := { State.reset.backdrop with slots := State.reset.backdrop.slots.set 7 { next := some { c1 := 1 }, run := some { req := { panel := 1, c1 := 1, r1 := 1 }, pairs := 2, pairAt := some 5 } } } }, ⟨by decide, by decide, by decide⟩, by decide +kernel⟩

theorem witness_PanelDriverResults_5 :
    ∃ (r : Fin 10) (x : PanelRun) (u : Nat) (rects : List RegionReq) (s : State),
    (r.val = 8) ∧ (s.backdrop.run = some x) ∧ (x.phase = .clear rects) ∧ (x.pairAt = some u) ∧ (x.pairs + 1 < 112) ∧ (s.clk ≤ u + 16 * msTicks) ∧ (s.backdrop.powerFail = false) :=
  ⟨8, { recovery := true, phase := .clear [], pairs := 110, pairAt := some 5 }, 5, [], { State.reset with module := { State.reset.module with mainUp := true }, backdrop := { State.reset.backdrop with run := some { recovery := true, phase := .clear [], pairs := 110, pairAt := some 5 } } }, by decide +kernel⟩

theorem witness_PanelDriverResults_6 :
    ∃ (r : Fin 10) (u : Nat) (s : State),
    (r.val = 9) ∧ (s.power.moorAt = none) ∧ (s.backdrop.stripRun = some (some u)) ∧ (s.clk ≤ u + 16 * msTicks) :=
  ⟨9, 5, { State.reset with module := { State.reset.module with mainUp := true }, backdrop := { State.reset.backdrop with stripRun := some (some 5), stripNext := [48] } }, by decide +kernel⟩

theorem witness_PanelDriverResults_7 :
    ∃ (reading : Int) (reading2 : Int) (k : Nat) (u : Nat) (s : State),
    (s.backdrop.rails = { state := 1, step := k, since := u }) ∧ (k < 6) ∧ (railOk k reading = true) ∧ (s.clk ≤ u + 2 * k * msTicks) :=
  ⟨-19000, 0, 4, 0, { State.reset with module := { State.reset.module with mainUp := true }, backdrop := { State.reset.backdrop with rails := { state := 1, step := 4, since := 0 } } }, by decide +kernel⟩

theorem witness_PanelDriverResults_8 :
    ∃ (reading : Int) (reading2 : Int) (u : Nat) (s : State),
    (s.backdrop.rails = { state := 1, step := 6, since := u }) ∧ ((reading - s.int (obj 0x2B02 1)).natAbs ≤ 50) ∧ ((reading2 - s.int (obj 0x2B02 2)).natAbs ≤ 50) ∧ (s.clk ≤ u + 12 * msTicks) :=
  ⟨-950, -1250, 0, { State.reset with module := { State.reset.module with mainUp := true }, backdrop := { State.reset.backdrop with rails := { state := 1, step := 6, since := 0 } }, od := [(obj 0x2B02 1, .num (-1000)), (obj 0x2B02 2, .num (-1200))] }, by decide +kernel⟩

theorem witness_PanelDriverResults_9 :
    ∃ (reading : Int) (reading2 : Int) (k : Nat) (u : Nat) (s : State),
    (s.backdrop.rails = { state := 1, step := k, since := u }) ∧ (k < 6) ∧ (railOk k reading = false) :=
  ⟨3134, 0, 1, 0, { State.reset with module := { State.reset.module with mainUp := true }, backdrop := { State.reset.backdrop with rails := { state := 1, step := 1, since := 0 } } }, by decide +kernel⟩

theorem witness_PanelDriverResults_10 :
    ∃ (s : State),
    (s.backdrop.rails.state = 2) ∧ (s.panelsBusy = false) ∧ (s.backdrop.powerFail = false) ∧ (s.clk ≤ s.backdrop.idleAt + s.nat (obj 0x2B01 5) * msTicks) :=
  ⟨{ State.reset with module := { State.reset.module with mainUp := true }, backdrop := { State.reset.backdrop with rails := { state := 2 } } }, by decide +kernel⟩

theorem witness_PanelDriverResults_11 :
    ∃ (reading : Int) (reading2 : Int) (k : Nat) (u : Nat) (s : State),
    (s.backdrop.rails = { state := 3, step := k, since := u }) ∧ (1 < k) ∧ (s.railFallen (k + 1) reading reading2 = true) :=
  ⟨1499, 0, 2, 0, { State.reset with module := { State.reset.module with mainUp := true }, backdrop := { State.reset.backdrop with rails := { state := 3, step := 2, since := 0 } } }, by decide +kernel⟩

theorem witness_PanelDriverResults_12 :
    ∃ (reading : Int) (reading2 : Int) (u : Nat) (s : State),
    (s.backdrop.rails = { state := 3, step := 1, since := u }) ∧ (s.backdrop.flex.any (·.isNone) = false) ∧ (s.railFallen 2 reading reading2 = true) ∧ (s.clk ≤ u + 5 * msTicks) :=
  ⟨-1499, 0, 0, { State.reset with module := { State.reset.module with mainUp := true }, backdrop := { State.reset.backdrop with rails := { state := 3, step := 1, since := 0 } } }, by decide +kernel⟩

theorem witness_PanelDriverResults_13 :
    ∃ (u : Nat) (s : State),
    (s.module.mainUp = true) ∧ (s.backdrop.powerFail = false) ∧ (s.backdrop.rails.state ≠ 4) ∧ (s.backdrop.stripRun = none) ∧ (s.stripText s.module.state ≠ s.backdrop.strip) ∧ (s.backdrop.stripAt = some u) ∧ (s.backdrop.flex.any (·.isNone) = false) :=
  ⟨5, { State.reset with module := { State.reset.module with mainUp := true }, backdrop := { State.reset.backdrop with stripAt := some 5 } }, by decide +kernel⟩

theorem witness_PanelDriverResults_14 :
    ∃ (s : State),
    (s.stripOrphaned = true) ∧ (s.power.vsb = true) :=
  ⟨{ State.reset with module := { State.reset.module with state := .fault } }, by decide +kernel⟩


theorem witness_BackdropCommandResults_1 :
    ∃ (m : Master) (panel : Fin 2) (table : List Byte) (s : State),
    (s.writable m (obj (0x2B03) (panel + 1)) (.bytes table) = true) ∧ (s.panelRunning panel = false) :=
  ⟨.host, 1, List.replicate 8512 0, { State.reset with module := { State.reset.module with mainUp := true } }, by decide +kernel⟩

theorem witness_BackdropCommandResults_2 :
    ∃ (m : Master) (slot : Fin 8) (s : State),
    (s.backdrop.shaped) ∧ (s.writable m (obj (0x2B20 + slot) 7) (.num 1) = true) ∧ (s.regionCause slot (s.regionFields slot) = 0) ∧ ((s.backdrop.slots.getD slot {}).run = none) ∧ (s.backdrop.flex.any (·.isNone) = false) :=
  ⟨.host, 7, ({ State.reset with module := { State.reset.module with mainUp := true } }).put (obj 0x2B10 1) (.bytes [1]), ⟨by decide, by decide, by decide⟩, by decide +kernel⟩

theorem witness_BackdropCommandResults_3 :
    ∃ (m : Master) (slot : Fin 8) (x : RegionRun) (s : State),
    (s.backdrop.shaped) ∧ (s.writable m (obj (0x2B20 + slot) 7) (.num 1) = true) ∧ (s.regionCause slot (s.regionFields slot) = 0) ∧ ((s.backdrop.slots.getD slot {}).run = some x) :=
  ⟨.host, 7, { req := { panel := 1, c1 := 511, r1 := 31 }, pairs := 2, pairAt := some 5 }, ({ State.reset with module := { State.reset.module with mainUp := true }, backdrop := { State.reset.backdrop with slots := State.reset.backdrop.slots.set 7 { run := some { req := { panel := 1, c1 := 511, r1 := 31 }, pairs := 2, pairAt := some 5 } } } }).put (obj 0x2B10 1) (.bytes [1]), ⟨by decide, by decide, by decide⟩, by decide +kernel⟩

theorem witness_BackdropCommandResults_4 :
    ∃ (m : Master) (slot : Fin 8) (c : Nat) (s : State),
    (s.backdrop.shaped) ∧ (s.writable m (obj (0x2B20 + slot) 7) (.num 1) = true) ∧ (s.regionCause slot (s.regionFields slot) = c) ∧ (c ≠ 0) :=
  ⟨.host, 7, 2, { State.reset with module := { State.reset.module with mainUp := true } }, ⟨by decide, by decide, by decide⟩, by decide +kernel⟩

theorem witness_BackdropCommandResults_5 :
    ∃ (m : Master) (slot : Nat) (image : List Byte) (s : State),
    (1 ≤ slot) ∧ (slot ≤ 8) ∧ (s.writable m (obj 0x2B10 slot) (.bytes image) = true) ∧ (s.imageInUse slot = false) :=
  ⟨.host, 8, List.replicate 8224 0, { State.reset with module := { State.reset.module with mainUp := true } }, by decide +kernel⟩

theorem witness_BackdropCommandResults_6 :
    ∃ (m : Master) (panel : Fin 2) (map : List Byte) (s : State),
    (s.update.halves.map (fun h => h.maps.length) = [2, 2]) ∧ (s.writable m (obj 0x2B04 (panel + 1)) (.bytes map) = true) :=
  ⟨.host, 1, List.replicate 16416 0, { State.reset with module := { State.reset.module with mainUp := true } }, by decide +kernel⟩

theorem witness_BackdropCommandResults_7 :
    ∃ (m : Master) (s : State),
    (s.writable m (obj 0x2B01 8) (.num 1) = true) ∧ (s.backdrop.run = none) ∧ (s.backdrop.slots.all (fun x => x.run.isNone && x.next.isNone) = true) ∧ (s.backdrop.rails.state ≠ 4) ∧ (s.backdrop.powerFail = false) ∧ (s.power.moorAt = none) ∧ (s.backdrop.flex.any (·.isNone) = false) :=
  ⟨.host, { State.reset with module := { State.reset.module with mainUp := true } }, by decide +kernel⟩

theorem witness_BackdropCommandResults_8 :
    ∃ (m : Master) (s : State),
    (s.writable m (obj 0x2B01 8) (.num 2) = true) ∧ (s.backdrop.run = none) ∧ (s.backdrop.slots.all (fun x => x.run.isNone && x.next.isNone) = true) ∧ (s.backdrop.rails.state ≠ 4) ∧ (s.backdrop.powerFail = false) ∧ (s.power.moorAt = none) ∧ (s.backdrop.flex.any (·.isNone) = false) :=
  ⟨.host, { State.reset with module := { State.reset.module with mainUp := true } }, by decide +kernel⟩

theorem witness_BackdropCommandResults_9 :
    ∃ (m : Master) (s : State),
    (s.writable m (obj 0x2B30 3) (.num 1) = true) :=
  ⟨.host, { State.reset with module := { State.reset.module with mainUp := true }, backdrop := { State.reset.backdrop with stripCode := 0x9004 } }, by decide +kernel⟩

theorem witness_BackdropCommandResults_10 :
    ∃ (ch : Fin 4) (vf : Nat) (s : State),
    (s.backdrop.shaped) ∧ ((s.cam (s.nat (obj (0x2B40 + ch) 2))).state = .streaming) ∧ ((s.cam (s.nat (obj (0x2B40 + ch) 2))).nextIndex ≠ 0) ∧ ((s.strobe ch).trig ≠ some (s.cam (s.nat (obj (0x2B40 + ch) 2))).lastTrigger) ∧ (s.strobeHold ch = 0) ∧ ((s.strobe ch).invalid = false) ∧ (6000 ≤ vf) ∧ (s.time.counter ≤ (s.cam (s.nat (obj (0x2B40 + ch) 2))).lastTrigger + s.nat (obj (0x2B40 + ch) 3)) ∧ (s.timeRuns = true) :=
  ⟨3, 24000, ({ State.reset with module := { State.reset.module with mainUp := true, state := .idle }, cams := List.replicate 4 { state := .streaming, nextIndex := 1, lastTrigger := 500 } }).putNat (obj 0x2B43 1) 1, ⟨by decide, by decide, by decide⟩, by decide +kernel⟩

theorem witness_BackdropCommandResults_11 :
    ∃ (m : Master) (ch : Fin 4) (s : State),
    (s.backdrop.shaped) ∧ (s.writable m (obj (0x2B40 + ch) 1) (.num 0) = true) :=
  ⟨.host, 3, { State.reset with module := { State.reset.module with mainUp := true, state := .idle }, backdrop := { State.reset.backdrop with strobes := [{}, {}, {}, { fault := 3 }] } }, ⟨by decide, by decide, by decide⟩, by decide +kernel⟩

theorem witness_BackdropCommandResults_12 :
    ∃ (m : Master) (ch : Fin 4) (s : State),
    (s.backdrop.shaped) ∧ (s.writable m (obj (0x2B40 + ch) 1) (.num 1) = true) ∧ ((s.strobe ch).cleared = true) :=
  ⟨.host, 3, { State.reset with module := { State.reset.module with mainUp := true, state := .idle }, backdrop := { State.reset.backdrop with strobes := [{}, {}, {}, { fault := 3, cleared := true }] } }, ⟨by decide, by decide, by decide⟩, by decide +kernel⟩


theorem witness_PowerResults_1 :
    ∃ (s : State),
    (s.power.mains = false) ∧ (s.power.seqAt = none) ∧ (s.module.state = .waking) ∧ (s.power.state = 2) ∧ (s.power.relayOpen = false) :=
  ⟨{ State.reset with power := { State.reset.power with mains := false, state := 2, offAt := 9 } }, by decide +kernel⟩

theorem witness_PowerResults_2 :
    ∃ (w : Nat) (s : State),
    (s.power.mains = false) ∧ (s.power.seqAt = some w) :=
  ⟨0, { State.reset with module := { State.reset.module with mainUp := true }, power := { State.reset.power with mains := false, seqAt := some 0 } }, by decide +kernel⟩

theorem witness_PowerResults_3 :
    ∃ (w : Nat) (s : State),
    (s.power.seqAt = some w) :=
  ⟨0, { State.reset with module := { State.reset.module with mainUp := true }, power := { State.reset.power with mains := false, seqAt := some 0 } }, by decide +kernel⟩

theorem witness_PowerResults_4 :
    ∃ (s : State),
    (s.power.mains = true) ∧ (s.power.relayOpen = false) :=
  ⟨State.reset, by decide +kernel⟩

theorem witness_PowerResults_5 :
    ∃ (watts : Nat) (readings : List Nat) (s : State),
    (s.module.mainUp = true) ∧ (s.clk ≤ s.power.sampledAt + 10 * msTicks) :=
  ⟨701, [2300, 5000], { State.reset with module := { State.reset.module with mainUp := true }, power := { State.reset.power with samples := List.replicate 100 500 } }, by decide +kernel⟩

theorem witness_PowerResults_6 :
    ∃ (rail : Nat) (s : State),
    (s.seqs.shaped) ∧ (s.module.mainUp = true) ∧ (s.power.seqAt = none) ∧ (1 ≤ rail) ∧ (rail ≤ 6) ∧ (s.module.state ≠ .fault) :=
  ⟨6, { State.reset with module := { State.reset.module with mainUp := true, state := .sorting } }, ⟨by decide, by decide⟩, by decide +kernel⟩

theorem witness_PowerResults_7 :
    ∃ (s : State),
    (s.seqs.shaped) ∧ (s.module.mainUp = true) ∧ (s.power.seqAt = none) :=
  ⟨{ State.reset with module := { State.reset.module with mainUp := true, state := .sorting }, power := { State.reset.power with state := 3 } }, ⟨by decide, by decide⟩, by decide +kernel⟩

theorem witness_PowerResults_8 :
    ∃ (w : Nat) (s : State),
    (s.power.seqAt = some w) ∧ (s.power.shutAt = none) ∧ (s.nat (obj 0x2C01 7) ≠ 1) :=
  ⟨9, { State.reset with module := { State.reset.module with mainUp := true, state := .idle }, power := { State.reset.power with state := 4, seqAt := some 9 } }, by decide +kernel⟩

theorem witness_PowerResults_9 :
    ∃ (w : Nat) (s : State),
    (s.power.seqAt = some w) ∧ (s.power.shutAt = none) ∧ (s.nat (obj 0x2C01 7) = 1) ∧ (s.power.vsb = true) :=
  ⟨9, ({ State.reset with module := { State.reset.module with mainUp := true, state := .idle }, power := { State.reset.power with state := 4, seqAt := some 9 } }).putNat (obj 0x2C01 7) 1, by decide +kernel⟩

theorem witness_PowerResults_10 :
    ∃ (s : State),
    (s.power.vsb = true) ∧ (({ s with power := { s.power with vsb := false } } : State).islandFed = true) :=
  ⟨{ State.reset with module := { State.reset.module with mainUp := true }, power := { State.reset.power with state := 3 } }, by decide +kernel⟩

theorem witness_PowerResults_11 :
    ∃ (s : State),
    (s.power.vsb = true) ∧ (({ s with power := { s.power with vsb := false } } : State).islandFed = false) :=
  ⟨{ State.reset with power := { State.reset.power with state := 2 } }, by decide +kernel⟩


theorem witness_MooredResults_1 :
    ∃ (m : Master) (s : State),
    (s.writable m (obj 0x2C01 1) (.num 0) = true) ∧ (s.power.moorAt = none) ∧ (s.module.state = .idle) ∧ (s.power.vsb = true) ∧ (18000 ≤ s.nat (obj 0x2C00 9)) ∧ (s.wakeAsserted = false) :=
  ⟨.host, ({ State.reset with module := { State.reset.module with mainUp := true, state := .idle } }).putNat (obj 0x2C00 9) 24000, by decide +kernel⟩

theorem witness_MooredResults_2 :
    ∃ (m : Master) (s : State),
    (s.writable m (obj 0x2C01 1) (.num 0) = true) ∧ (s.power.moorAt = none) ∧ (s.module.state ≠ .idle) :=
  ⟨.host, { State.reset with module := { State.reset.module with mainUp := true, state := .sorting } }, by decide +kernel⟩

theorem witness_MooredResults_3 :
    ∃ (u : Nat) (s : State),
    (s.power.moorAt = some u) ∧ (s.updatesRun = false) ∧ (s.backdrop.stripRun = none) ∧ (s.backdrop.strip = s.stripText .moored) ∧ (s.power.vsb = true) ∧ (s.module.state ≠ .moored) :=
  ⟨0, { State.reset with module := { State.reset.module with mainUp := true, state := .idle }, power := { State.reset.power with state := 3, moorAt := some 0 }, backdrop := { State.reset.backdrop with strip := State.reset.stripText .moored } }, by decide +kernel⟩

theorem witness_MooredResults_4 :
    ∃ (u : Nat) (s : State),
    (s.power.moorAt = some u) ∧ (s.updatesRun = false) ∧ (s.backdrop.stripRun = none) ∧ (s.backdrop.strip ≠ s.stripText .moored) ∧ (s.backdrop.rails.state ≠ 4) ∧ (s.backdrop.flex.any (·.isNone) = false) :=
  ⟨0, { State.reset with module := { State.reset.module with mainUp := true, state := .idle }, power := { State.reset.power with state := 3, moorAt := some 0 } }, by decide +kernel⟩

theorem witness_MooredResults_5 :
    ∃ (u : Nat) (s : State),
    (s.power.moorAt = some u) ∧ (s.updatesRun = true) ∧ (s.clk ≤ u + s.nat (obj 0x2C01 8) * msTicks) :=
  ⟨0, { State.reset with module := { State.reset.module with mainUp := true, state := .idle }, power := { State.reset.power with state := 3, moorAt := some 0 }, backdrop := { State.reset.backdrop with slots := State.reset.backdrop.slots.set 7 { run := some { req := {} } } } }, by decide +kernel⟩

theorem witness_MooredResults_6 :
    ∃ (s : State),
    (s.module.state = .moored) ∧ (s.nat (obj 0x2C01 5) ≠ 0) ∧ (bitOf (s.nat (obj 0x2C01 2)) 2 = true) ∧ (s.power.vsb = true) ∧ (s.power.moorAt = none) ∧ (s.clk ≤ s.power.relayAt + s.nat (obj 0x2C01 5) * secTicks) :=
  ⟨(({ State.reset with module := { State.reset.module with state := .moored }, power := { State.reset.power with state := 0, relayOpen := true } }).putNat (obj 0x2C01 2) 4).putNat (obj 0x2C01 5) 60, by decide +kernel⟩

theorem witness_MooredResults_7 :
    ∃ (high : Bool) (s : State),
    (s.power.wakeHigh ≠ high) ∧ (high = (s.nat (obj 0x2C01 3) == 0)) ∧ (s.module.state = .moored) ∧ (bitOf (s.nat (obj 0x2C01 2)) 1 = true) ∧ (s.power.vsb = true) ∧ (s.power.moorAt = none) :=
  ⟨true, (({ State.reset with module := { State.reset.module with state := .moored }, power := { State.reset.power with state := 0, relayOpen := true } }).putNat (obj 0x2C01 2) 2).putNat (obj 0x2C01 3) 0, by decide +kernel⟩

theorem witness_MooredResults_8 :
    ∃ (high : Bool) (s : State),
    (s.power.wakeHigh ≠ high) ∧ (high ≠ (s.nat (obj 0x2C01 3) == 0)) :=
  ⟨false, ({ State.reset with module := { State.reset.module with state := .moored }, power := { State.reset.power with state := 0, wakeHigh := true } }).putNat (obj 0x2C01 3) 0, by decide +kernel⟩

theorem witness_MooredResults_9 :
    ∃ (s : State),
    (s.writable .mgmt (obj 0x2C01 1) (.num 1) = true) ∧ (s.power.shutAt = none) ∧ (s.module.state = .moored) ∧ (bitOf (s.nat (obj 0x2C01 2)) 0 = true) ∧ (s.power.vsb = true) ∧ (s.power.moorAt = none) :=
  ⟨({ State.reset with module := { State.reset.module with state := .moored }, power := { State.reset.power with state := 0, relayOpen := true }, side := { State.reset.side with nodeId := 5, nmt := .operational } }).putNat (obj 0x2C01 2) 1, by decide +kernel⟩

theorem witness_MooredResults_10 :
    ∃ (u : Nat) (s : State),
    (s.writable .mgmt (obj 0x2C01 1) (.num 1) = true) ∧ (s.power.shutAt = some u) ∧ (s.module.mainUp = false) ∧ (s.clk ≤ u + 60 * secTicks) ∧ (s.module.state = .fault) :=
  ⟨7, { State.reset with module := { State.reset.module with state := .fault }, power := { State.reset.power with shutAt := some 7 }, side := { State.reset.side with nodeId := 5, nmt := .operational } }, by decide +kernel⟩


theorem witness_ThermalPinResults_1 :
    ∃ (s : State),
    (s.module.mainUp = true) ∧ (s.power.seqAt = none) ∧ (s.thermal.broken = false) ∧ (s.clk ≤ s.thermal.sampledAt + msTicks) :=
  ⟨{ State.reset with module := { State.reset.module with mainUp := true } }, by decide +kernel⟩

theorem witness_ThermalPinResults_2 :
    ∃ (r : Int) (s : State),
    (s.module.mainUp = true) ∧ (s.power.seqAt = none) ∧ (s.thermal.bad (some r) = false) ∧ (s.clk ≤ s.thermal.sampledAt + msTicks) ∧ ((sumI ((r :: s.thermal.readings).take 64) : ℚ) < 125 * (16 * ((r :: s.thermal.readings).take 64).length)) :=
  ⟨1999, { State.reset with module := { State.reset.module with mainUp := true } }, by decide +kernel⟩

theorem witness_ThermalPinResults_3 :
    ∃ (r : Int) (s : State),
    (s.module.mainUp = true) ∧ (s.power.seqAt = none) ∧ (s.module.state ≠ .fault) ∧ (s.thermal.bad (some r) = false) ∧ (s.clk ≤ s.thermal.sampledAt + msTicks) ∧ (125 * (16 * ((r :: s.thermal.readings).take 64).length) ≤ (sumI ((r :: s.thermal.readings).take 64) : ℚ)) :=
  ⟨2000, { State.reset with module := { State.reset.module with mainUp := true, state := .sorting } }, by decide +kernel⟩

theorem witness_ThermalPinResults_4 :
    ∃ (s : State),
    (s.module.mainUp = true) ∧ (s.thermal.broken = true) ∧ (s.power.seqAt = none) ∧ (s.thermal.limitHit = false) ∧ (s.module.state ≠ .fault) :=
  ⟨{ State.reset with module := { State.reset.module with mainUp := true, state := .sorting }, thermal := { State.reset.thermal with broken := true } }, by decide +kernel⟩

theorem witness_ThermalPinResults_5 :
    ∃ (fan : Fin 4) (s : State),
    (s.thermal.shaped) ∧ (s.module.mainUp = true) ∧ (s.thermal.stalled.getD fan false = false) ∧ (20 ≤ s.fanDuty fan) ∧ (s.clk ≤ s.power.tachAt.getD fan 0 + secTicks) :=
  ⟨3, { State.reset with module := { State.reset.module with mainUp := true }, thermal := { State.reset.thermal with derated := true } }, rfl, by decide +kernel⟩

theorem witness_ThermalPinResults_6 :
    ∃ (fan : Fin 4) (period : Nat) (s : State),
    (s.loops.shaped) ∧ (s.thermal.shaped) ∧ (s.module.mainUp = true) ∧ (period ≠ 0) ∧ (s.clk ≤ s.power.tachAt.getD fan 0 + period) :=
  ⟨3, 8000, { State.reset with module := { State.reset.module with mainUp := true } }, ⟨by decide, by decide, by decide⟩, rfl, by decide +kernel⟩

theorem witness_ThermalPinResults_7 :
    ∃ (level : Bool) (s : State),
    (s.islandFed = true) ∧ (s.pins.airOk ≠ level) :=
  ⟨!State.reset.pins.airOk, State.reset, by decide +kernel⟩

theorem witness_ThermalPinResults_8 :
    ∃ (level : Bool) (s : State),
    (s.islandFed = true) ∧ (s.pins.guardOk ≠ level) :=
  ⟨!State.reset.pins.guardOk, State.reset, by decide +kernel⟩

theorem witness_ThermalPinResults_9 :
    ∃ (out : Fin 5) (s : State),
    (s.pins.shaped) ∧ (s.outputOn out = true) :=
  ⟨4, { State.reset with module := { State.reset.module with mainUp := true } }, rfl, by decide +kernel⟩

theorem witness_ThermalPinResults_10 :
    ∃ (out : Fin 5) (u : Nat) (s : State),
    (s.pins.shaped) ∧ (s.module.mainUp = true) ∧ (s.power.seqAt = none) ∧ (s.pins.faults.getD out none = some u) ∧ (s.clk ≤ u + secTicks) :=
  ⟨4, 3, { State.reset with module := { State.reset.module with mainUp := true }, pins := { State.reset.pins with faults := [none, none, none, none, some 3] } }, rfl, by decide +kernel⟩

theorem witness_ThermalPinResults_11 :
    ∃ (row : Nat) (westEnd : Bool) (s : State),
    (s.islandFed = true) ∧ (s.strand.rowId ≠ row % 8 ∨ s.strand.westEnd ≠ westEnd) :=
  ⟨7, true, { State.reset with module := { State.reset.module with mainUp := true } }, by decide +kernel⟩

theorem witness_ThermalPinResults_12 :
    ∃ (mV : Nat) (s : State),
    (s.power.vsb = false) ∧ (s.islandFed = true) :=
  ⟨24000, { State.reset with module := { State.reset.module with mainUp := true }, power := { State.reset.power with vsb := false, state := 3 } }, by decide +kernel⟩

theorem witness_ThermalPinResults_13 :
    ∃ (s : State),
    (s.islandFed = true) :=
  ⟨State.reset, by decide +kernel⟩


theorem witness_StateCommandResults_1 :
    ∃ (m : Master) (s : State),
    (s.writable m (obj 0x2001 2) (.num 1) = true) ∧ (s.module.state = .idle) :=
  ⟨.host, { State.reset with module := { State.reset.module with mainUp := true, state := .idle } }, by decide +kernel⟩

theorem witness_StateCommandResults_2 :
    ∃ (m : Master) (s : State),
    (s.writable m (obj 0x2001 2) (.num 1) = true) ∧ (s.module.state = .calibrating) :=
  ⟨.host, { State.reset with module := { State.reset.module with mainUp := true, state := .calibrating, cal := some {} } }, by decide +kernel⟩

theorem witness_StateCommandResults_3 :
    ∃ (m : Master) (s : State),
    (s.writable m (obj 0x2001 2) (.num 1) = true) ∧ (s.module.state = .sorting) ∧ (s.module.stopAt = none) :=
  ⟨.host, { State.reset with module := { State.reset.module with mainUp := true, state := .sorting }, tracker := { State.reset.tracker with isOpen := true } }, by decide +kernel⟩

theorem witness_StateCommandResults_4 :
    ∃ (m : Master) (s : State),
    (s.writable m (obj 0x2001 2) (.num 1) = true) ∧ (s.module.state ≠ .idle) ∧ (s.module.state ≠ .calibrating) ∧ (s.module.state ≠ .sorting) :=
  ⟨.host, { State.reset with module := { State.reset.module with mainUp := true, state := .fault } }, by decide +kernel⟩

theorem witness_StateCommandResults_5 :
    ∃ (m : Master) (s : State),
    (s.writable m (obj 0x2001 2) (.num 2) = true) ∧ (s.module.state = .idle) ∧ (s.thermal.derated = false) ∧ (s.portsStream = true) ∧ (s.pipe.capture = none) ∧ (s.regionsBusy = false) ∧ (s.recoveryHold = true) :=
  ⟨.host, ({ State.reset with module := { State.reset.module with mainUp := true, state := .idle }, backdrop := { State.reset.backdrop with run := some { recovery := true, phase := .clear [] } } }).putNat (obj 0x2001 9) 0, by decide +kernel⟩

theorem witness_StateCommandResults_6 :
    ∃ (m : Master) (s : State),
    (s.writable m (obj 0x2001 2) (.num 2) = true) ∧ (s.module.state = .idle) ∧ (s.thermal.derated = false) ∧ (s.portsStream = true) ∧ (s.pipe.capture = none) ∧ (s.regionsBusy = false) ∧ (s.recoveryHold = false) ∧ (s.module.sortAt = none) ∧ (s.power.moorAt = none) :=
  ⟨.host, ({ State.reset with module := { State.reset.module with mainUp := true, state := .idle } }).putNat (obj 0x2001 9) 0, by decide +kernel⟩

theorem witness_StateCommandResults_7 :
    ∃ (m : Master) (s : State),
    (s.writable m (obj 0x2001 2) (.num 2) = true) ∧ (s.module.state = .idle) ∧ (s.thermal.derated = true) :=
  ⟨.host, { State.reset with module := { State.reset.module with mainUp := true, state := .idle }, thermal := { State.reset.thermal with derated := true } }, by decide +kernel⟩

theorem witness_StateCommandResults_8 :
    ∃ (m : Master) (s : State),
    (s.writable m (obj 0x2001 2) (.num 3) = true) ∧ (s.module.state = .idle) ∧ (s.readiness = 255) :=
  ⟨.host, ({ State.reset with module := { State.reset.module with mainUp := true, state := .idle }, power := { State.reset.power with state := 3 }, recorder := { State.reset.recorder with toIsland := false } }).putNat (obj 0x2001 9) 0, by decide +kernel⟩

theorem witness_StateCommandResults_9 :
    ∃ (m : Master) (s : State),
    (s.writable m (obj 0x2001 2) (.num 3) = true) ∧ (s.module.state = .idle) ∧ (s.readiness ≠ 255) :=
  ⟨.host, { State.reset with module := { State.reset.module with mainUp := true, state := .idle } }, by decide +kernel⟩

theorem witness_StateCommandResults_10 :
    ∃ (u : Nat) (s : State),
    (s.module.sortAt = some u) ∧ (s.module.state = .idle) ∧ (s.power.moorAt = none) :=
  ⟨3, { State.reset with module := { State.reset.module with mainUp := true, state := .idle, sortAt := some 3 } }, by decide +kernel⟩

theorem witness_StateCommandResults_11 :
    ∃ (u : Nat) (s : State),
    (s.module.stopAt = some u) ∧ (s.module.state = .sorting) :=
  ⟨3, { State.reset with module := { State.reset.module with mainUp := true, state := .sorting, stopAt := some 3 }, tracker := { State.reset.tracker with recs := [{}] } }, by decide +kernel⟩

theorem witness_StateCommandResults_12 :
    ∃ (s : State),
    (s.module.resume = true) ∧ (s.module.state = .idle) ∧ (s.readiness = 255) ∧ (s.power.moorAt = none) :=
  ⟨({ State.reset with module := { State.reset.module with mainUp := true, state := .idle, resume := true }, power := { State.reset.power with state := 3 }, recorder := { State.reset.recorder with toIsland := false } }).putNat (obj 0x2001 9) 0, by decide +kernel⟩


theorem witness_StartRestartResults_1 :
    ∃ (r : StartReadings) (s : State),
    (s.module.state = .waking) ∧ (s.module.mainUp = false) ∧ (s.power.seqAt = none) ∧ (s.power.state = 1 ∨ s.power.state = 3 ∧ s.power.kind = 2) ∧ ((s.bootChoice r.bootOk) = .bank) ∧ (r.selfTest = none) :=
  ⟨{ (default : StartReadings) with bootOk := true }, State.reset, by decide +kernel⟩

theorem witness_StartRestartResults_2 :
    ∃ (r : StartReadings) (f : Nat × Nat) (s : State),
    (s.module.state = .waking) ∧ (s.module.mainUp = false) ∧ (s.power.seqAt = none) ∧ (s.power.state = 1 ∨ s.power.state = 3 ∧ s.power.kind = 2) ∧ ((s.bootChoice r.bootOk) ≠ .none) ∧ (r.selfTest = some f) :=
  ⟨{ (default : StartReadings) with bootOk := true, selfTest := some (3, 7) }, (3, 7), State.reset, by decide +kernel⟩

theorem witness_StartRestartResults_3 :
    ∃ (r : StartReadings) (s : State),
    (s.module.state = .waking) ∧ (s.module.mainUp = false) ∧ (s.power.seqAt = none) ∧ (s.power.state = 1 ∨ s.power.state = 3 ∧ s.power.kind = 2) ∧ ((s.bootChoice r.bootOk) = .none) :=
  ⟨{ (default : StartReadings) with bootOk := false }, State.reset, by decide +kernel⟩

theorem witness_StartRestartResults_4 :
    ∃ (s : State),
    (s.seqs.shaped) ∧ (s.module.mainUp = true) ∧ (s.update.watch = none) ∧ (s.module.watchdogs = []) ∧ (s.module.state ≠ .waking) :=
  ⟨{ State.reset with module := { State.reset.module with mainUp := true, state := .idle } }, ⟨by decide, by decide⟩, by decide +kernel⟩

theorem witness_StartRestartResults_5 :
    ∃ (a : Nat) (b : Nat) (s : State),
    (s.module.mainUp = true) ∧ (s.update.watch = none) ∧ (s.module.watchdogs = [a, b]) ∧ (s.clk < a + 600 * secTicks) ∧ (s.clk < b + 600 * secTicks) ∧ (s.module.state ≠ .fault) :=
  ⟨5, 3, { State.reset with module := { State.reset.module with mainUp := true, state := .idle, watchdogs := [5, 3] } }, by decide +kernel⟩

theorem witness_StartRestartResults_6 :
    ∃ (u : Nat) (s : State),
    (s.module.mainUp = true) ∧ (s.update.watch = some u) :=
  ⟨3, { State.reset with module := { State.reset.module with mainUp := true, state := .idle }, update := { State.reset.update with watch := some 3 } }, by decide +kernel⟩

theorem witness_StartRestartResults_7 :
    ∃ (m : Master) (s : State),
    (s.writable m (obj 0x2005 1) (.num 1) = true) ∧ (s.module.mainUp = true) ∧ (s.power.seqAt = none) ∧ (s.power.shutAt = none) ∧ (s.module.state ≠ .waking) ∧ (s.module.state ≠ .moored) :=
  ⟨.host, { State.reset with module := { State.reset.module with mainUp := true, state := .sorting }, power := { State.reset.power with state := 3 } }, by decide +kernel⟩

theorem witness_StartRestartResults_8 :
    ∃ (m : Master) (s : State),
    (s.writable m (obj 0x2005 1) (.num 1) = true) ∧ (s.module.state = .waking) ∧ (s.module.mainUp = false) ∧ (s.module.loader = false) ∧ (s.power.state = 3) ∧ (s.power.seqAt = none) ∧ (s.power.shutAt = none) :=
  ⟨.mgmt, { State.reset with power := { State.reset.power with state := 3 }, side := { State.reset.side with nodeId := 5, nmt := .operational } }, by decide +kernel⟩

theorem witness_StartRestartResults_9 :
    ∃ (m : Master) (s : State),
    (s.writable m (obj 0x2005 1) (.num 1) = true) ∧ (s.module.state = .moored) :=
  ⟨.mgmt, { State.reset with module := { State.reset.module with state := .moored }, side := { State.reset.side with nodeId := 5, nmt := .operational } }, by decide +kernel⟩


theorem witness_LinkStateResults_1 :
    ∃ (l : Link) (s : State),
    (s.strand.shaped) ∧ (s.module.mainUp = true) ∧ ((s.link l).state = .down) :=
  ⟨3, { State.reset with module := { State.reset.module with mainUp := true } }, ⟨rfl, rfl, rfl⟩, by decide +kernel⟩

theorem witness_LinkStateResults_2 :
    ∃ (l : Link) (s : State),
    (s.strand.shaped) ∧ (s.module.mainUp = true) ∧ ((s.link l).state = .down) ∧ (s.clk ≤ (s.link l).trainedAt + 10 * msTicks) :=
  ⟨3, { State.reset with module := { State.reset.module with mainUp := true } }, ⟨rfl, rfl, rfl⟩, by decide +kernel⟩

theorem witness_LinkStateResults_3 :
    ∃ (l : Link) (h : Hello) (s : State),
    (s.strand.shaped) ∧ (s.module.mainUp = true) ∧ ((s.link l).state = .training) ∧ (h.host = false) ∧ (h.port = pairOf l) :=
  ⟨3, { (default : Hello) with id := 64, port := 2, host := false }, { State.reset with module := { State.reset.module with mainUp := true }, strand := { State.reset.strand with links := [{}, {}, {}, { state := .training }] } }, ⟨rfl, rfl, rfl⟩, by decide +kernel⟩

theorem witness_LinkStateResults_4 :
    ∃ (l : Link) (h : Hello) (s : State),
    (s.strand.shaped) ∧ (∀ k, k ≠ l.val → (s.link k).state ≠ .host) ∧ (s.module.mainUp = true) ∧ ((s.link l).state = .training) ∧ (h.host = true) :=
  ⟨0, { (default : Hello) with id := 64, port := 2, host := true }, { State.reset with module := { State.reset.module with mainUp := true }, strand := { State.reset.strand with links := [{ state := .training }, {}, {}, {}] } }, ⟨rfl, rfl, rfl⟩, fun k _ => match k with | 0 | 1 | 2 | 3 => by decide +kernel | k + 4 => by show ([{ state := .training }, {}, {}, {}].getD (k + 4) {} : LinkSt).state ≠ _; simp, by decide +kernel⟩

theorem witness_LinkStateResults_5 :
    ∃ (l : Link) (h : Hello) (s : State),
    (s.strand.shaped) ∧ (s.module.mainUp = true) ∧ ((s.link l).state = .training) ∧ (h.host = false) ∧ (h.port ≠ pairOf l) :=
  ⟨0, { (default : Hello) with id := 64, port := 0, host := false }, { State.reset with module := { State.reset.module with mainUp := true }, strand := { State.reset.strand with links := [{ state := .training }, {}, {}, {}] } }, ⟨rfl, rfl, rfl⟩, by decide +kernel⟩

theorem witness_LinkStateResults_6 :
    ∃ (l : Link) (h : Hello) (s : State),
    (s.strand.shaped) ∧ (s.module.mainUp = true) ∧ ((s.link l).state = .up) ∧ (h.host = false) ∧ (h.port = pairOf l) :=
  ⟨3, { (default : Hello) with id := 64, port := 2, host := false }, { State.reset with module := { State.reset.module with mainUp := true }, strand := { State.reset.strand with links := [{}, {}, {}, { state := .up }] } }, ⟨rfl, rfl, rfl⟩, by decide +kernel⟩

theorem witness_LinkStateResults_7 :
    ∃ (l : Link) (h : Hello) (s : State),
    (s.strand.shaped) ∧ (s.module.mainUp = true) ∧ ((s.link l).state = .up) ∧ (h.host = false) ∧ (h.port ≠ pairOf l) :=
  ⟨3, { (default : Hello) with id := 64, port := 3, host := false }, { State.reset with module := { State.reset.module with mainUp := true }, strand := { State.reset.strand with links := [{}, {}, {}, { state := .up }] } }, ⟨rfl, rfl, rfl⟩, by decide +kernel⟩

theorem witness_LinkStateResults_8 :
    ∃ (l : Link) (s : State),
    (s.strand.shaped) ∧ (s.module.mainUp = true) ∧ ((s.link l).state ≠ .down) :=
  ⟨3, { State.reset with module := { State.reset.module with mainUp := true }, strand := { State.reset.strand with links := [{}, {}, {}, { state := .up }] } }, ⟨rfl, rfl, rfl⟩, by decide +kernel⟩

theorem witness_LinkStateResults_9 :
    ∃ (l : Link) (type : Nat) (s : State),
    (s.strand.shaped) ∧ (s.module.mainUp = true) ∧ (type ≠ 0x1E) ∧ (type ≠ 0x78) ∧ (type ≠ 0xB4) ∧ (type ≠ 0x66) ∧ (type ≠ 0x33) ∧ (type ≠ 0x2D) ∧ ((s.link l).state ≠ .down) :=
  ⟨3, 0x2E, { State.reset with module := { State.reset.module with mainUp := true }, strand := { State.reset.strand with links := [{}, {}, {}, { state := .crossed }] } }, ⟨rfl, rfl, rfl⟩, by decide +kernel⟩

theorem witness_LinkStateResults_10 :
    ∃ (s : State),
    (s.module.mainUp = true) ∧ (s.clk ≤ s.strand.beatAt + 10 * usTicks) :=
  ⟨{ State.reset with module := { State.reset.module with mainUp := true }, strand := { State.reset.strand with beatSeq := 65535 } }, by decide +kernel⟩

theorem witness_LinkStateResults_11 :
    ∃ (l : Link) (id : Nat) (state : Nat) (time : Nat) (load : Nat) (seq : Nat) (s : State),
    (s.strand.shaped) ∧ (s.module.mainUp = true) ∧ (s.linkOpen l = true) ∧ (seq < 65536) :=
  ⟨3, 64, 2, 1, 5, 65535, { State.reset with module := { State.reset.module with mainUp := true }, strand := { State.reset.strand with links := [{}, {}, {}, { state := .up }] } }, ⟨rfl, rfl, rfl⟩, by decide +kernel⟩

theorem witness_LinkStateResults_12 :
    ∃ (l : Link) (s : State),
    (s.strand.shaped) ∧ (s.module.mainUp = true) ∧ (s.linkOpen l = true) ∧ (s.clk ≤ (s.link l).lastBeat + 100 * usTicks) :=
  ⟨3, { State.reset with module := { State.reset.module with mainUp := true }, strand := { State.reset.strand with links := [{}, {}, {}, { state := .up }] } }, ⟨rfl, rfl, rfl⟩, by decide +kernel⟩


theorem witness_FrameResults_1 :
    ∃ (l : Link) (f : Frame) (s : State),
    (s.strand.shaped) ∧ (s.module.mainUp = true) ∧ (s.linkOpen l = true) ∧ (2 ≤ f.hdr.vc) ∧ (f.hdr.vc ≤ 6) ∧ (f.hdr.dest ≠ s.strand.id) ∧ ((s.link l).rxSeq < 256) ∧ (s.hasRoom l f = true) :=
  ⟨3, { hdr := { vc := 5, dest := 64, src := 7, type := 0, hops := 0, len := 1 }, words := [9] }, { State.reset with module := { State.reset.module with mainUp := true }, strand := { State.reset.strand with links := [{}, {}, {}, { state := .up, rxSeq := 255 }] } }, ⟨rfl, rfl, rfl⟩, by decide +kernel⟩

theorem witness_FrameResults_2 :
    ∃ (l : Link) (f : Frame) (s : State),
    (s.strand.shaped) ∧ (s.module.mainUp = true) ∧ (s.linkOpen l = true) ∧ (2 ≤ f.hdr.vc) ∧ (f.hdr.vc ≤ 6) ∧ (f.hdr.dest = s.strand.id) ∧ ((s.link l).rxSeq < 256) ∧ (s.hasRoom l f = true) :=
  ⟨3, { hdr := { vc := 2, dest := 0, src := 7, type := 0, hops := 0, len := 1 }, words := [9] }, { State.reset with module := { State.reset.module with mainUp := true }, strand := { State.reset.strand with links := [{}, {}, {}, { state := .up }] } }, ⟨rfl, rfl, rfl⟩, by decide +kernel⟩

theorem witness_FrameResults_3 :
    ∃ (l : Link) (f : Frame) (seq : Nat) (crc : Nat) (s : State),
    (s.strand.shaped) ∧ (s.module.mainUp = true) ∧ (s.linkOpen l = true) ∧ (2 ≤ f.hdr.vc) ∧ (f.hdr.vc ≤ 6) ∧ (f.hdr.dest = s.strand.id) ∧ (crcCheck f crc = .wrong) ∧ ((s.link l).nakSent = false ∨ seq = (s.link l).rxSeq ∧ seq < 256) :=
  ⟨3, { hdr := { vc := 6, dest := 0, src := 7, type := 0, hops := 0, len := 1 }, words := [9] }, 0, 5, { State.reset with module := { State.reset.module with mainUp := true }, strand := { State.reset.strand with links := [{}, {}, {}, { state := .up }] } }, ⟨rfl, rfl, rfl⟩, by decide +kernel⟩

theorem witness_FrameResults_4 :
    ∃ (l : Link) (f : Frame) (seq : Nat) (crc : Nat) (s : State),
    (s.module.mainUp = true) ∧ (s.linkOpen l = true) ∧ (crcCheck f crc = .wrong) ∧ (f.hdr.vc ≤ 1 ∨ f.hdr.vc = 7) ∧ (f.hdr.vc ≠ 1 ∨ f.hdr.dest = s.strand.id) :=
  ⟨3, { hdr := { vc := 7, dest := 0, src := 7, type := 0, hops := 0, len := 1 }, words := [9] }, 0, 5, { State.reset with module := { State.reset.module with mainUp := true }, strand := { State.reset.strand with links := [{}, {}, {}, { state := .host }] } }, by decide +kernel⟩

theorem witness_FrameResults_5 :
    ∃ (l : Link) (f : Frame) (seq : Nat) (crc : Nat) (i : Nat) (p : Nat) (s : State),
    (s.strand.shaped) ∧ (s.module.mainUp = true) ∧ (s.linkOpen l = true) ∧ (crcCheck f crc = .wrong) ∧ (2 ≤ f.hdr.vc) ∧ (f.hdr.vc ≤ 6) ∧ (f.hdr.dest ≠ s.strand.id) ∧ (f.hdr.hops < 126) ∧ ((s.link l).nakSent = false) ∧ (s.strand.transit = []) ∧ (s.route f.hdr = .out i p false false) ∧ (s.route (hopped f).hdr = .out i p false false) ∧ (i < 4) ∧ (i ≠ l.val) ∧ ((s.link i).canSend f.hdr = true) ∧ (s.wireIdle i = true) :=
  ⟨3, { hdr := { vc := 5, dest := 64, src := 7, type := 0, hops := 125, len := 1 }, words := [9] }, 0, 5, 0, 0, { State.reset with module := { State.reset.module with mainUp := true }, strand := { State.reset.strand with links := [{ state := .up, hello := some { (default : Hello) with id := 64 } }, {}, {}, { state := .up }], own := { State.reset.strand.own with neighbours := [64, 0xFFFF, 0xFFFF, 0xFFFF] }, table := [({ id := 64 }, 0)] } }, ⟨rfl, rfl, rfl⟩, by decide +kernel⟩

theorem witness_FrameResults_6 :
    ∃ (l : Link) (f : Frame) (s : State),
    (s.strand.shaped) ∧ (s.module.mainUp = true) ∧ (s.linkOpen l = true) ∧ (2 ≤ f.hdr.vc) ∧ (f.hdr.vc ≤ 6) ∧ (f.hdr.dest = s.strand.id) ∧ ((s.link l).rxSeq < 256) :=
  ⟨3, { hdr := { vc := 2, dest := 0, src := 7, type := 0, hops := 0, len := 1 }, words := [9] }, { State.reset with module := { State.reset.module with mainUp := true }, strand := { State.reset.strand with links := [{}, {}, {}, { state := .up }] } }, ⟨rfl, rfl, rfl⟩, by decide +kernel⟩

theorem witness_FrameResults_7 :
    ∃ (l : Link) (seq : Nat) (s : State),
    (s.strand.shaped) ∧ (s.module.mainUp = true) ∧ (s.linkOpen l = true) ∧ (s.wireIdle l = true) :=
  ⟨3, 255, { State.reset with module := { State.reset.module with mainUp := true }, strand := { State.reset.strand with links := [{}, {}, {}, { state := .up, unacked := [(255, { hdr := { vc := 2, dest := 64, src := 7, type := 0, hops := 0, len := 1 }, words := [9] }), (0, { hdr := { vc := 3, dest := 64, src := 7, type := 0, hops := 0, len := 1 }, words := [9] })] }] } }, ⟨rfl, rfl, rfl⟩, by decide +kernel⟩

theorem witness_FrameResults_8 :
    ∃ (l : Link) (seq : Nat) (s : State),
    (s.strand.shaped) ∧ (s.module.mainUp = true) ∧ (s.linkOpen l = true) ∧ (s.wireIdle l = true) ∧ ((s.link l).naks < 3) :=
  ⟨3, 7, { State.reset with module := { State.reset.module with mainUp := true }, strand := { State.reset.strand with links := [{}, {}, {}, { state := .up, naks := 2, unacked := [(255, { hdr := { vc := 2, dest := 64, src := 7, type := 0, hops := 0, len := 1 }, words := [9] }), (0, { hdr := { vc := 3, dest := 64, src := 7, type := 0, hops := 0, len := 1 }, words := [9] })] }] } }, ⟨rfl, rfl, rfl⟩, by decide +kernel⟩

theorem witness_FrameResults_9 :
    ∃ (l : Link) (seq : Nat) (x : Nat × Frame) (s : State),
    (s.strand.shaped) ∧ (s.module.mainUp = true) ∧ (s.linkOpen l = true) ∧ (s.wireIdle l = true) ∧ ((s.link l).naks < 3) ∧ (afterAck seq (s.link l).unacked = [x]) ∧ (frameBlocks x.2.hdr ≤ (s.link l).credits.getD x.2.hdr.vc 0) :=
  ⟨3, 255, (0, { hdr := { vc := 3, dest := 64, src := 7, type := 0, hops := 0, len := 1 }, words := [9] }), { State.reset with module := { State.reset.module with mainUp := true }, strand := { State.reset.strand with links := [{}, {}, {}, { state := .up, naks := 2, unacked := [(255, { hdr := { vc := 2, dest := 64, src := 7, type := 0, hops := 0, len := 1 }, words := [9] }), (0, { hdr := { vc := 3, dest := 64, src := 7, type := 0, hops := 0, len := 1 }, words := [9] })] }] } }, ⟨rfl, rfl, rfl⟩, by decide +kernel⟩

theorem witness_FrameResults_10 :
    ∃ (l : Link) (seq : Nat) (s : State),
    (s.strand.shaped) ∧ (s.module.mainUp = true) ∧ (s.linkOpen l = true) ∧ (s.wireIdle l = true) ∧ (afterAck seq (s.link l).unacked = (s.link l).unacked) ∧ (3 ≤ (s.link l).naks) :=
  ⟨3, 7, { State.reset with module := { State.reset.module with mainUp := true }, strand := { State.reset.strand with links := [{}, {}, {}, { state := .up, naks := 3 }] } }, ⟨rfl, rfl, rfl⟩, by decide +kernel⟩

theorem witness_FrameResults_11 :
    ∃ (l : Link) (vc : Nat) (blocks : Nat) (s : State),
    (s.strand.shaped) ∧ (s.module.mainUp = true) ∧ (s.linkOpen l = true) ∧ (s.wireIdle l = true) :=
  ⟨3, 7, 100, { State.reset with module := { State.reset.module with mainUp := true }, strand := { State.reset.strand with links := [{}, {}, {}, { state := .up, credits := [0, 0, 0, 0, 0, 0, 0, 2000] }] } }, ⟨rfl, rfl, rfl⟩, by decide +kernel⟩

theorem witness_FrameResults_12 :
    ∃ (k : Nat) (f : Frame) (s : State),
    (s.module.mainUp = true) ∧ (s.strand.transit = [(k, f)]) ∧ (126 ≤ f.hdr.hops) :=
  ⟨3, { hdr := { vc := 5, dest := 64, src := 7, type := 0, hops := 126, len := 1 }, words := [9] }, { State.reset with module := { State.reset.module with mainUp := true }, strand := { State.reset.strand with transit := [(3, { hdr := { vc := 5, dest := 64, src := 7, type := 0, hops := 126, len := 1 }, words := [9] })] } }, by decide +kernel⟩

theorem witness_FrameResults_13 :
    ∃ (k : Nat) (f : Frame) (s : State),
    (s.module.mainUp = true) ∧ (s.strand.transit = [(k, f)]) ∧ (f.hdr.hops < 126) ∧ (s.route f.hdr = .noRoute) ∧ (s.route (hopped f).hdr = .noRoute) :=
  ⟨3, { hdr := { vc := 5, dest := 640, src := 7, type := 0, hops := 12, len := 1 }, words := [9] }, { State.reset with module := { State.reset.module with mainUp := true }, strand := { State.reset.strand with transit := [(3, { hdr := { vc := 5, dest := 640, src := 7, type := 0, hops := 12, len := 1 }, words := [9] })] } }, by decide +kernel⟩

theorem witness_FrameResults_14 :
    ∃ (k : Nat) (i : Nat) (p : Nat) (f : Frame) (s : State),
    (s.strand.shaped) ∧ (s.module.mainUp = true) ∧ (s.strand.transit = [(k, f)]) ∧ (f.hdr.hops < 126) ∧ (f.hdr.vc < 8) ∧ (s.route f.hdr = .out i p false false) ∧ (s.route (hopped f).hdr = .out i p false false) ∧ (i < 4) ∧ ((s.link i).canSend f.hdr = true) ∧ (s.wireIdle i = true) :=
  ⟨3, 0, 0, { hdr := { vc := 5, dest := 64, src := 7, type := 0, hops := 125, len := 1 }, words := [9] }, { State.reset with module := { State.reset.module with mainUp := true }, strand := { State.reset.strand with links := [{ state := .up, hello := some { (default : Hello) with id := 64 } }, {}, {}, {}], transit := [(3, { hdr := { vc := 5, dest := 64, src := 7, type := 0, hops := 125, len := 1 }, words := [9] })], own := { State.reset.strand.own with neighbours := [64, 0xFFFF, 0xFFFF, 0xFFFF] }, table := [({ id := 64 }, 0)] } }, ⟨rfl, rfl, rfl⟩, by decide +kernel⟩


theorem witness_FabricTableResults_1 :
    ∃ (l : Link) (r : Topo) (s : State),
    (s.module.mainUp = true) ∧ (s.linkUp l = true) ∧ (r.id ≠ s.strand.id) ∧ (s.strand.table.all (fun x => x.1.id != r.id || decide (x.1.seq < r.seq)) = true) :=
  ⟨3, { id := 64, seq := 5 }, { State.reset with module := { State.reset.module with mainUp := true }, strand := { State.reset.strand with links := [{}, {}, {}, { state := .up }], table := [({ id := 64, seq := 4 }, 0)] } }, by decide +kernel⟩

theorem witness_FabricTableResults_2 :
    ∃ (l : Link) (r : Topo) (u : Nat) (s : State),
    (s.module.mainUp = true) ∧ (s.linkUp l = true) ∧ (r.id ≠ s.strand.id) ∧ (s.strand.table.find? (fun x => x.1.id == r.id) = some (r, u)) :=
  ⟨3, { id := 64, seq := 5 }, 0, { State.reset with module := { State.reset.module with mainUp := true }, strand := { State.reset.strand with links := [{}, {}, {}, { state := .up }], table := [({ id := 64, seq := 5 }, 0)] } }, by decide +kernel⟩

theorem witness_FabricTableResults_3 :
    ∃ (l : Link) (r : Topo) (x : Topo) (u : Nat) (s : State),
    (s.module.mainUp = true) ∧ (s.linkUp l = true) ∧ (r.id ≠ s.strand.id) ∧ (s.strand.table.find? (fun x => x.1.id == r.id) = some (x, u)) ∧ (r.seq < x.seq) :=
  ⟨3, { id := 64, seq := 5 }, { id := 64, seq := 6 }, 0, { State.reset with module := { State.reset.module with mainUp := true }, strand := { State.reset.strand with links := [{}, {}, {}, { state := .up }], table := [({ id := 64, seq := 6 }, 0)] } }, by decide +kernel⟩

theorem witness_FabricTableResults_4 :
    ∃ (l : Link) (r : Topo) (s : State),
    (s.module.mainUp = true) ∧ (s.linkUp l = true) ∧ (r.id = s.strand.id) ∧ (r.serial ≠ (s.byteVal (obj 0x2000 3) ++ List.replicate 12 0#8).take 12) ∧ (s.strand.conflict = false) :=
  ⟨3, { id := 0, serial := [49] }, { State.reset with module := { State.reset.module with mainUp := true }, strand := { State.reset.strand with links := [{}, {}, {}, { state := .up }] }, od := [(obj 0x2000 3, .bytes [49])] }, by decide +kernel⟩

theorem witness_FabricTableResults_5 :
    ∃ (s : State),
    (s.module.mainUp = true) ∧ (s.clk ≤ s.strand.floodAt + secTicks) :=
  ⟨{ State.reset with module := { State.reset.module with mainUp := true } }, by decide +kernel⟩

theorem witness_FabricTableResults_6 :
    ∃ (id : Nat) (r : Topo) (u : Nat) (s : State),
    (s.strand.table.find? (fun x => x.1.id == id) = some (r, u)) ∧ (s.clk ≤ u + 3 * secTicks) :=
  ⟨64, { id := 64, seq := 5 }, 7, { State.reset with module := { State.reset.module with mainUp := true }, strand := { State.reset.strand with table := [({ id := 64, seq := 5 }, 7)] } }, by decide +kernel⟩

theorem witness_FabricTableResults_7 :
    ∃ (src : Nat) (txn : Nat) (address : Nat) (len : Nat) (d : List Byte) (s : State),
    (s.module.mainUp = true) ∧ (s.windowRead address len = .inl d) :=
  ⟨64, 1, 0xFFFFFFFF, 1, [0], { State.reset with module := { State.reset.module with mainUp := true } }, by decide +kernel⟩

theorem witness_FabricTableResults_8 :
    ∃ (src : Nat) (txn : Nat) (address : Nat) (len : Nat) (w : Nat) (s : State),
    (s.module.mainUp = true) ∧ (s.windowRead address len = .inr w) :=
  ⟨64, 1, strandBase + 0xFFFF, 2, 1, { State.reset with module := { State.reset.module with mainUp := true } }, by decide +kernel⟩

theorem witness_FabricTableResults_9 :
    ∃ (src : Nat) (txn : Nat) (address : Nat) (data : List Byte) (s : State),
    (s.module.mainUp = true) ∧ (address + data.length ≤ ddrEnd) :=
  ⟨64, 1, 0xFFFFFFFE, [1, 2], { State.reset with module := { State.reset.module with mainUp := true } }, by decide +kernel⟩

theorem witness_FabricTableResults_10 :
    ∃ (src : Nat) (txn : Nat) (address : Nat) (data : List Byte) (s : State),
    (s.module.mainUp = true) ∧ (strandBase + 0x10000 < address + data.length) ∧ (address + data.length ≤ bulkBase) :=
  ⟨64, 1, strandBase + 0xFFFF, [1, 2], { State.reset with module := { State.reset.module with mainUp := true } }, by decide +kernel⟩

theorem witness_FabricTableResults_11 :
    ∃ (src : Nat) (stream : Nat) (seq : Nat) (last : Bool) (address : Nat) (data : List Byte) (s : State),
    (s.module.mainUp = true) ∧ (src < 4096) ∧ (stream < 16) ∧ (seq < 256) ∧ (data ≠ []) :=
  ⟨4095, 15, 255, true, ddrEnd - 1, [1, 2], { State.reset with module := { State.reset.module with mainUp := true } }, by decide +kernel⟩

theorem witness_FabricTableResults_12 :
    ∃ (stream : Fin 16) (value : Nat) (s : State),
    (s.strand.shaped) ∧ (s.module.mainUp = true) ∧ ((s.stream stream).enabled = false) :=
  ⟨15, 0x8000000000000040, { State.reset with module := { State.reset.module with mainUp := true } }, ⟨rfl, rfl, rfl⟩, by decide +kernel⟩

theorem witness_FabricTableResults_13 :
    ∃ (stream : Fin 16) (value : Nat) (s : State),
    (s.strand.shaped) ∧ (s.module.mainUp = true) ∧ ((s.stream stream).enabled = false) :=
  ⟨15, 0x8000000000000040, { State.reset with module := { State.reset.module with mainUp := true } }, ⟨rfl, rfl, rfl⟩, by decide +kernel⟩

theorem witness_FabricTableResults_14 :
    ∃ (m : Fin 4) (s : State),
    (s.strand.shaped) ∧ (s.module.mainUp = true ∨ s.module.loader = true) ∧ (m.val ≠ 0) ∧ ((s.mailbox m).busy = false) :=
  ⟨3, { State.reset with module := { State.reset.module with mainUp := true } }, ⟨rfl, rfl, rfl⟩, by decide +kernel⟩


theorem witness_LockStageResults_1 :
    ∃ (m : Master) (first : Nat) (last : Nat) (lease : Nat) (slot : Nat) (n : Nat) (s : State),
    (s.dict.shaped) ∧ (s.writable m (obj 0x2002 1) (.num (lockRequest first last lease 1 slot)) = true) ∧ (0x2000 ≤ first) ∧ (first ≤ last) ∧ (last ≤ 0x2FFF) ∧ (1 ≤ lease) ∧ (lease ≤ 600) ∧ (slot ≤ 3 ∨ slot = 0xFF) ∧ (s.dict.locks.all (fun o => match o with | some l => decide (s.clk < l.until_) | none => true) = true) ∧ (s.overlapsOther m first last = false) ∧ (s.lockSlot slot = some n) :=
  ⟨.host, 0x2700, 0x2711, 30, 0xFF, 1, { State.reset with module := { State.reset.module with mainUp := true }, dict := { State.reset.dict with locks := [some { owner := .host, first := 0x2700, last := 0x2711, until_ := 30 * secTicks }, none, none, none] } }, ⟨rfl, rfl, rfl⟩, by decide +kernel⟩

theorem witness_LockStageResults_2 :
    ∃ (m : Master) (first : Nat) (last : Nat) (lease : Nat) (slot : Nat) (s : State),
    (s.writable m (obj 0x2002 1) (.num (lockRequest first last lease 1 slot)) = true) ∧ (0x2000 ≤ first) ∧ (first ≤ last) ∧ (last ≤ 0x2FFF) ∧ (1 ≤ lease) ∧ (lease ≤ 600) ∧ (slot ≤ 3 ∨ slot = 0xFF) ∧ (s.dict.locks.all (fun o => match o with | some l => decide (s.clk < l.until_) | none => true) = true) ∧ (s.overlapsOther m first last = true) :=
  ⟨.host, 0x2700, 0x2711, 600, 3, { State.reset with module := { State.reset.module with mainUp := true }, dict := { State.reset.dict with locks := [some { owner := .mgmt, first := 0x2711, last := 0x2FFF, until_ := 9 }, none, none, none] } }, by decide +kernel⟩

theorem witness_LockStageResults_3 :
    ∃ (m : Master) (lease : Nat) (slot : Nat) (l : Lock) (s : State),
    (s.dict.shaped) ∧ (s.writable m (obj 0x2002 1) (.num (lockRequest 0 0 lease 2 slot)) = true) ∧ (1 ≤ lease) ∧ (lease ≤ 600) ∧ (slot ≤ 3) ∧ (s.dict.locks.all (fun o => match o with | some l => decide (s.clk < l.until_) | none => true) = true) ∧ (s.dict.locks.getD slot none = some l) ∧ (l.owner = m) :=
  ⟨.host, 1, 3, { owner := .host, first := 0x2700, last := 0x2711, until_ := 30 * secTicks }, { State.reset with module := { State.reset.module with mainUp := true }, dict := { State.reset.dict with locks := [some { owner := .host, first := 0x2700, last := 0x2711, until_ := 30 * secTicks }, none, none, some { owner := .host, first := 0x2700, last := 0x2711, until_ := 30 * secTicks }] } }, ⟨rfl, rfl, rfl⟩, by decide +kernel⟩

theorem witness_LockStageResults_4 :
    ∃ (m : Master) (slot : Nat) (l : Lock) (s : State),
    (s.dict.shaped) ∧ (s.writable m (obj 0x2002 1) (.num (lockRequest 0 0 0 3 slot)) = true) ∧ (slot ≤ 3) ∧ (s.dict.locks.all (fun o => match o with | some l => decide (s.clk < l.until_) | none => true) = true) ∧ (s.dict.locks.getD slot none = some l) ∧ (l.owner = m) :=
  ⟨.host, 3, { owner := .host, first := 0x2700, last := 0x2711, until_ := 30 * secTicks }, { State.reset with module := { State.reset.module with mainUp := true }, dict := { State.reset.dict with locks := [some { owner := .host, first := 0x2700, last := 0x2711, until_ := 30 * secTicks }, none, none, some { owner := .host, first := 0x2700, last := 0x2711, until_ := 30 * secTicks }] } }, ⟨rfl, rfl, rfl⟩, by decide +kernel⟩

theorem witness_LockStageResults_5 :
    ∃ (slot : Fin 4) (l : Lock) (s : State),
    (s.dict.locks.getD slot none = some l) ∧ (s.clk ≤ l.until_) :=
  ⟨3, { owner := .host, first := 0x2700, last := 0x2711, until_ := 30 * secTicks }, { State.reset with module := { State.reset.module with mainUp := true }, dict := { State.reset.dict with locks := [some { owner := .host, first := 0x2700, last := 0x2711, until_ := 30 * secTicks }, none, none, some { owner := .host, first := 0x2700, last := 0x2711, until_ := 30 * secTicks }] } }, by decide +kernel⟩

theorem witness_LockStageResults_6 :
    ∃ (m : Master) (s : State),
    (s.dict.shaped) ∧ (s.writable m (obj 0x2003 1) (.num 1) = true) ∧ ((s.stage m).isOpen = false) :=
  ⟨.host, { State.reset with module := { State.reset.module with mainUp := true } }, ⟨rfl, rfl, rfl⟩, by decide +kernel⟩

theorem witness_LockStageResults_7 :
    ∃ (m : Master) (s : State),
    (s.writable m (obj 0x2003 1) (.num 1) = true) ∧ ((s.stage m).isOpen = true) :=
  ⟨.host, { State.reset with module := { State.reset.module with mainUp := true }, dict := { State.reset.dict with stages := [{ isOpen := true }, {}] } }, by decide +kernel⟩

theorem witness_LockStageResults_8 :
    ∃ (m : Master) (s : State),
    (s.dict.shaped) ∧ (s.writable m (obj 0x2003 1) (.num 2) = true) ∧ ((s.stage m).isOpen = true) ∧ (s.checkEntries m (s.stage m).entries = none) :=
  ⟨.host, { State.reset with module := { State.reset.module with mainUp := true }, dict := { State.reset.dict with stages := [{ isOpen := true, entries := [(obj 0x2701 2, .num 3)] }, {}] } }, ⟨rfl, rfl, rfl⟩, by decide +kernel⟩

theorem witness_LockStageResults_9 :
    ∃ (m : Master) (k : Nat) (c : Nat) (s : State),
    (s.dict.shaped) ∧ (s.writable m (obj 0x2003 1) (.num 2) = true) ∧ ((s.stage m).isOpen = true) ∧ (s.checkEntries m (s.stage m).entries = some (k, c)) :=
  ⟨.host, obj 0x2701 2, abortRange, { State.reset with module := { State.reset.module with mainUp := true }, dict := { State.reset.dict with stages := [{ isOpen := true, entries := [(obj 0x2701 2, .num 99)] }, {}] } }, ⟨rfl, rfl, rfl⟩, by decide +kernel⟩

theorem witness_LockStageResults_10 :
    ∃ (m : Master) (s : State),
    (s.dict.shaped) ∧ (s.writable m (obj 0x2003 1) (.num 3) = true) ∧ ((s.stage m).isOpen = true) :=
  ⟨.host, { State.reset with module := { State.reset.module with mainUp := true }, dict := { State.reset.dict with stages := [{ isOpen := true, entries := [(obj 0x2701 2, .num 3)] }, {}] } }, ⟨rfl, rfl, rfl⟩, by decide +kernel⟩

theorem witness_LockStageResults_11 :
    ∃ (m : Master) (s : State),
    (s.dict.shaped) ∧ ((s.stage m).isOpen = true) ∧ (s.clk ≤ (s.stage m).touched + s.nat (obj 0x2003 4) * secTicks) :=
  ⟨.host, { State.reset with module := { State.reset.module with mainUp := true }, dict := { State.reset.dict with stages := [{ isOpen := true, touched := 5 }, {}] } }, ⟨rfl, rfl, rfl⟩, by decide +kernel⟩


theorem witness_DictionaryResults_1 :
    ∃ (src : Nat) (txn : Nat) (index : Nat) (sub : Nat) (s : State),
    (s.reachable .host = true) ∧ (index < 65536) ∧ (sub < 256) ∧ ((s.dictOpen src).length < 8) ∧ (obj index sub ≠ obj 0x2D05 1) ∧ (s.checkRead .host (obj index sub) = 0) ∧ (s.readBarred (obj index sub) = false) :=
  ⟨64, 255, 0x2701, 2, { State.reset with module := { State.reset.module with mainUp := true } }, by decide +kernel⟩

theorem witness_DictionaryResults_2 :
    ∃ (src : Nat) (txn : Nat) (index : Nat) (sub : Nat) (d : List Byte) (i : Nat) (p : Nat) (s : State),
    (s.strand.shaped) ∧ (s.reachable .host = true) ∧ (index < 65536) ∧ (sub < 256) ∧ ((s.dictOpen src).length < 8) ∧ (obj index sub ≠ obj 0x2D05 1) ∧ (s.checkRead .host (obj index sub) = 0) ∧ (s.readBarred (obj index sub) = false) ∧ (s.shownBytes .host (obj index sub) = d) ∧ (d.length ≤ 8160) ∧ (s.route { vc := 3, dest := src, src := s.strand.id, type := 2, len := 2 + ceilDiv d.length 8 } = .out i p false false) ∧ (i < 4) ∧ (s.linkOpen i = true) ∧ ((s.link i).canSend { vc := 3, dest := src, src := s.strand.id, type := 2, len := 2 + ceilDiv d.length 8 } = true) ∧ (s.wireIdle i = true) :=
  ⟨64, 255, 0x2701, 2, [3], 0, 0, { State.reset with module := { State.reset.module with mainUp := true }, strand := { State.reset.strand with links := [{ State.reset.link 0 with state := .up, hello := some { (default : Hello) with id := 64 }, credits := [8, 8, 8, 8, 8, 8, 8, 8] }, {}, {}, {}], own := { State.reset.strand.own with neighbours := [64, 0xFFFF, 0xFFFF, 0xFFFF] }, table := [({ id := 64 }, 0)] } }, ⟨rfl, rfl, rfl⟩, by decide +kernel⟩

theorem witness_DictionaryResults_3 :
    ∃ (src : Nat) (txn : Nat) (index : Nat) (sub : Nat) (s : State),
    (s.reachable .host = true) ∧ (index < 65536) ∧ (sub < 256) ∧ ((s.dictOpen src).length < 8) ∧ (s.checkRead .host (obj index sub) ≠ 0) :=
  ⟨64, 255, 0x2701, 255, { State.reset with module := { State.reset.module with mainUp := true } }, by decide +kernel⟩

theorem witness_DictionaryResults_4 :
    ∃ (src : Nat) (txn : Nat) (total : Nat) (data : List Byte) (s : State),
    (s.reachable .host = true) ∧ (s.strand.writes.all (fun e => e.src != src) = true) ∧ (total ≤ data.length) ∧ (s.writable .host (obj 0x2701 3) (valOfBytes (obj 0x2701 3) data) = true) :=
  ⟨64, 1, 2, [60, 0], { State.reset with module := { State.reset.module with mainUp := true } }, by decide +kernel⟩

theorem witness_DictionaryResults_5 :
    ∃ (src : Nat) (txn : Nat) (index : Nat) (sub : Nat) (total : Nat) (whole : Bool) (data : List Byte) (s : State),
    (s.reachable .host = true) ∧ (index < 65536) ∧ (sub < 256) ∧ (index ≠ 0x2E01) ∧ (s.strand.writes.all (fun e => e.src != src) = true) ∧ (data.length < total) :=
  ⟨64, 1, 0x2501, 1, 2, false, [60], { State.reset with module := { State.reset.module with mainUp := true } }, by decide +kernel⟩

theorem witness_DictionaryResults_6 :
    ∃ (src : Nat) (txn : Nat) (index : Nat) (sub : Nat) (offset : Nat) (total : Nat) (whole : Bool) (data : List Byte) (s : State),
    (s.reachable .host = true) ∧ (s.strand.writes.all (fun e => e.src != src) = true) ∧ (offset ≠ 0) :=
  ⟨64, 1, 0x2501, 1, 1, 2, false, [60], { State.reset with module := { State.reset.module with mainUp := true } }, by decide +kernel⟩

theorem witness_DictionaryResults_7 :
    ∃ (src : Nat) (txn : Nat) (e : DictParts) (s : State),
    (s.reachable .host = true) ∧ (s.strand.writes.find? (fun e => e.src == src && e.txn == txn) = some e) ∧ (s.clk ≤ e.last + secTicks + 1) :=
  ⟨64, 1, { src := 64, txn := 1, index := 0x2501, sub := 1, whole := false, total := 2, data := [60], last := 5 }, { State.reset with module := { State.reset.module with mainUp := true }, strand := { State.reset.strand with writes := [{ src := 64, txn := 1, index := 0x2501, sub := 1, whole := false, total := 2, data := [60], last := 5 }] } }, by decide +kernel⟩

theorem witness_DictionaryResults_8 :
    ∃ (m : Master) (v : Val) (s : State),
    (s.writable m (obj 0x2701 3) (v) = true) :=
  ⟨.host, .num 60, { State.reset with module := { State.reset.module with mainUp := true } }, by decide +kernel⟩

theorem witness_DictionaryResults_9 :
    ∃ (m : Master) (index : Nat) (sub : Nat) (v : Val) (c : Nat) (s : State),
    (index < 65536) ∧ (sub < 256) ∧ (obj index sub ≠ obj 0x2D05 2) ∧ (s.reachable m = true) ∧ (s.checkWrite s.nat m (obj index sub) v = c) ∧ (c ≠ 0) :=
  ⟨.host, 0x2701, 3, .num 60000, abortRange, { State.reset with module := { State.reset.module with mainUp := true } }, by decide +kernel⟩

theorem witness_DictionaryResults_10 :
    ∃ (m : Master) (index : Nat) (sub : Nat) (v : Val) (s : State),
    (index < 65536) ∧ (sub < 256) ∧ (obj index sub ≠ obj 0x2D05 2) ∧ (s.reachable m = true) ∧ (s.checkWrite s.nat m (obj index sub) v = 0) ∧ ((s.stage m).isOpen = false) ∧ (s.lockRefuses m (obj index sub) v = true) :=
  ⟨.host, 0x2901, 3, .num 60, { State.reset with module := { State.reset.module with mainUp := true }, dict := { State.reset.dict with locks := [some { owner := .mgmt, first := 0x2711, last := 0x2FFF, until_ := 9 }, none, none, none] } }, by decide +kernel⟩

theorem witness_DictionaryResults_11 :
    ∃ (m : Master) (index : Nat) (sub : Nat) (v : Val) (s : State),
    (s.dict.shaped) ∧ (index < 65536) ∧ (sub < 256) ∧ (s.reachable m = true) ∧ (s.checkWrite s.nat m (obj index sub) v = 0) ∧ ((s.stage m).isOpen = true) ∧ (stageable (obj index sub) = true) ∧ ((s.stage m).entries.all (fun e => e.1 != obj index sub) = true) ∧ ((s.stage m).entries.length < 128) :=
  ⟨.host, 0x2701, 2, .num 3, { State.reset with module := { State.reset.module with mainUp := true }, dict := { State.reset.dict with stages := [{ isOpen := true }, {}] } }, ⟨rfl, rfl, rfl⟩, by decide +kernel⟩

theorem witness_DictionaryResults_12 :
    ∃ (m : Master) (part : Fin 3) (s : State),
    (s.dict.shaped) ∧ (s.writable m (obj 0x1010 (part + 1)) (.num sigSave) = true) ∧ (s.dict.storing = none) ∧ (s.power.seqAt = none) ∧ (s.module.mainUp = true) :=
  ⟨.host, 0, { State.reset with module := { State.reset.module with mainUp := true } }, ⟨rfl, rfl, rfl⟩, by decide +kernel⟩

theorem witness_DictionaryResults_13 :
    ∃ (m : Master) (part : Fin 3) (s : State),
    (s.dict.shaped) ∧ (s.writable m (obj 0x1010 (part + 1)) (.num sigSave) = true) ∧ (s.dict.storing = none) ∧ (s.power.seqAt = none) ∧ (s.module.mainUp = true) :=
  ⟨.host, 2, { State.reset with module := { State.reset.module with mainUp := true } }, ⟨rfl, rfl, rfl⟩, by decide +kernel⟩

theorem witness_DictionaryResults_14 :
    ∃ (m : Master) (part : Fin 3) (s : State),
    (s.writable m (obj 0x1010 (part + 1)) (.num sigSave) = true) ∧ (s.dict.storing = none) ∧ (s.power.seqAt = none) ∧ (s.module.mainUp = true) :=
  ⟨.host, 1, { State.reset with module := { State.reset.module with mainUp := true } }, by decide +kernel⟩

theorem witness_DictionaryResults_15 :
    ∃ (m : Master) (part : Fin 3) (s : State),
    (s.writable m (obj 0x1011 (part + 1)) (.num sigLoad) = true) ∧ (s.dict.storing = none) ∧ (s.power.seqAt = none) ∧ (s.module.mainUp = true) ∧ (s.holdsLock (otherMaster m) = false) :=
  ⟨.host, 0, { State.reset with module := { State.reset.module with mainUp := true } }, by decide +kernel⟩


theorem witness_NmtCanResults_1 :
    ∃ (node : Nat) (s : State),
    (s.canSend = true) ∧ (s.side.nodeId ≠ 0xFF) ∧ (node = 0 ∨ node = s.side.nodeId) ∧ (s.side.nmt ≠ .initialisation) :=
  ⟨0, { State.reset with module := { State.reset.module with mainUp := true }, side := { State.reset.side with nodeId := 5, pendingId := 7, nmt := .stopped } }, by decide +kernel⟩

theorem witness_NmtCanResults_2 :
    ∃ (node : Nat) (s : State),
    (s.canSend = true) ∧ (s.side.nodeId ≠ 0xFF) ∧ (node = 0 ∨ node = s.side.nodeId) ∧ (s.side.nmt ≠ .initialisation) ∧ (s.side.nmt ≠ .stopped) :=
  ⟨5, { State.reset with module := { State.reset.module with mainUp := true }, side := { State.reset.side with nodeId := 5, pendingId := 7, nmt := .operational } }, by decide +kernel⟩

theorem witness_NmtCanResults_3 :
    ∃ (node : Nat) (s : State),
    (s.canSend = true) ∧ (s.side.nodeId ≠ 0xFF) ∧ (node = 0 ∨ node = s.side.nodeId) ∧ (s.side.nmt ≠ .initialisation) :=
  ⟨5, { State.reset with module := { State.reset.module with mainUp := true }, side := { State.reset.side with nodeId := 5, pendingId := 7, nmt := .operational } }, by decide +kernel⟩

theorem witness_NmtCanResults_4 :
    ∃ (node : Nat) (s : State),
    (s.canSend = true) ∧ (s.side.nodeId ≠ 0xFF) ∧ (node = 0 ∨ node = s.side.nodeId) ∧ (s.side.pendingId ≠ 0xFF) :=
  ⟨5, { State.reset with module := { State.reset.module with mainUp := true }, side := { State.reset.side with nodeId := 5, pendingId := 7, nmt := .operational } }, by decide +kernel⟩

theorem witness_NmtCanResults_5 :
    ∃ (node : Nat) (s : State),
    (s.canSend = true) ∧ (s.side.nodeId ≠ 0xFF) ∧ (node = 0 ∨ node = s.side.nodeId) ∧ (s.side.pendingId ≠ 0xFF) ∧ (s.power.seqAt = none) ∧ (s.module.mainUp = true) ∧ (s.module.state ≠ .waking) :=
  ⟨0, { State.reset with module := { State.reset.module with mainUp := true, state := .idle }, side := { State.reset.side with nodeId := 5, pendingId := 7, nmt := .operational } }, by decide +kernel⟩

theorem witness_NmtCanResults_6 :
    ∃ (node : Nat) (s : State),
    (s.canSend = true) ∧ (s.side.nodeId ≠ 0xFF) ∧ (node = 0 ∨ node = s.side.nodeId) ∧ (s.power.seqAt = none) ∧ (s.module.mainUp = false) ∧ (s.module.loader = false) :=
  ⟨0, { State.reset with side := { State.reset.side with nodeId := 5, pendingId := 7, nmt := .operational } }, by decide +kernel⟩

theorem witness_NmtCanResults_7 :
    ∃ (id : Nat) (data : List Byte) (n : Nat) (s : State),
    (s.side.shaped) ∧ (s.canFed = true) ∧ (s.side.errors ≠ .busOff) ∧ (s.rxBufferOf (id % 2048) = some n) ∧ (n < 8) :=
  ⟨0x7E5, [4, 1], 3, { State.reset with module := { State.reset.module with mainUp := true }, side := { State.reset.side with nodeId := 5, pendingId := 7, nmt := .operational } }, ⟨rfl, rfl, by decide⟩, by decide +kernel⟩

theorem witness_NmtCanResults_8 :
    ∃ (id : Nat) (data : List Byte) (n : Nat) (s : State),
    (s.side.shaped) ∧ (s.canFed = true) ∧ (s.side.errors ≠ .busOff) ∧ (s.rxBufferOf (id % 2048) = some n) ∧ (8 ≤ n) ∧ (n < 12) :=
  ⟨0x720, [5], 11, { State.reset with module := { State.reset.module with mainUp := true }, side := { State.reset.side with nodeId := 5, pendingId := 7, nmt := .operational }, od := [(obj 0x1016 4, .num 0x2003E8)] }, ⟨rfl, rfl, by decide⟩, by decide +kernel⟩

theorem witness_NmtCanResults_9 :
    ∃ (id : Nat) (data : List Byte) (s : State),
    (s.canFed = true) ∧ (s.side.errors ≠ .busOff) :=
  ⟨0x7E5, [4, 1], { State.reset with module := { State.reset.module with mainUp := true }, side := { State.reset.side with nodeId := 5, rec_ := 127 } }, by decide +kernel⟩

theorem witness_NmtCanResults_10 :
    ∃ (tec : Nat) (rec_ : Nat) (s : State),
    (s.canFed = true) ∧ (s.side.errors ≠ .busOff) :=
  ⟨8, 0, { State.reset with module := { State.reset.module with mainUp := true }, side := { State.reset.side with nodeId := 5, tec := 248 } }, by decide +kernel⟩

theorem witness_NmtCanResults_11 :
    ∃ (s : State),
    (s.canFed = true) ∧ (s.side.errors = .busOff) ∧ (s.side.paced = false) ∧ (s.clk ≤ s.side.busOffAt + 1408 * s.bitTicks) :=
  ⟨{ State.reset with module := { State.reset.module with mainUp := true }, side := { State.reset.side with nodeId := 5, tec := 256, errors := .busOff } }, by decide +kernel⟩

theorem witness_NmtCanResults_12 :
    ∃ (s : State),
    (s.islandFed = true) :=
  ⟨{ State.reset with module := { State.reset.module with mainUp := true } }, by decide +kernel⟩

theorem witness_NmtCanResults_13 :
    ∃ (f : TxFrame) (s : State),
    (lowestTx s.side.tx = some f) ∧ (s.canSend = true) :=
  ⟨{ buffer := 17, id := 0x85, data := [1], entry := 9 }, { State.reset with module := { State.reset.module with mainUp := true }, side := { State.reset.side with nodeId := 5, tx := [{ buffer := 18, id := 0x705, data := [5] }, { buffer := 17, id := 0x85, data := [1], entry := 9 }] } }, by decide +kernel⟩

theorem witness_NmtCanResults_14 :
    ∃ (f : TxFrame) (n : Nat) (s : State),
    (s.side.tpdos.length = 4) ∧ (lowestTx s.side.tx = some f) ∧ (s.canSend = true) ∧ (f.buffer = 20 + n) ∧ (n < 4) :=
  ⟨{ buffer := 23, id := 0x485, data := [3] }, 3, { State.reset with module := { State.reset.module with mainUp := true }, side := { State.reset.side with nodeId := 5, tx := [{ buffer := 23, id := 0x485, data := [3] }] } }, by decide +kernel⟩


theorem witness_SdoPdoResults_1 :
    ∃ (data : List Byte) (s : State),
    (s.side.shaped) ∧ (s.reachable .mgmt = true) ∧ (s.side.sdo = none) ∧ (data.length ≤ 4) ∧ (s.writable .mgmt (obj 0x2003 4) (valOfBytes (obj 0x2003 4) data) = true) :=
  ⟨[60, 0], { State.reset with module := { State.reset.module with mainUp := true }, side := { State.reset.side with nodeId := 5, nmt := .operational } }, ⟨rfl, rfl, by decide⟩, by decide +kernel⟩

theorem witness_SdoPdoResults_2 :
    ∃ (index : Nat) (sub : Nat) (complete : Bool) (size : Option Nat) (s : State),
    (s.reachable .mgmt = true) ∧ (s.side.sdo = none) ∧ (index < 65536) ∧ (sub < 256) :=
  ⟨0x2701, 3, false, some 2, { State.reset with module := { State.reset.module with mainUp := true }, side := { State.reset.side with nodeId := 5, nmt := .operational } }, by decide +kernel⟩

theorem witness_SdoPdoResults_3 :
    ∃ (toggle : Bool) (data : List Byte) (i : Nat) (j : Nat) (w : Bool) (x : SdoTransfer) (s : State),
    (s.reachable .mgmt = true) ∧ (s.side.sdo = some x) ∧ (s.clk ≤ x.last + secTicks) ∧ (x.stages = false) ∧ (x.phase = .download toggle) :=
  ⟨true, [0], 0, 0, false, { index := 0x2701, sub := 3, whole := false, total := some 2, data := [60], last := 5, phase := .download true }, { State.reset with module := { State.reset.module with mainUp := true }, side := { State.reset.side with nodeId := 5, nmt := .operational, sdo := some { index := 0x2701, sub := 3, whole := false, total := some 2, data := [60], last := 5, phase := .download true } } }, by decide +kernel⟩

theorem witness_SdoPdoResults_4 :
    ∃ (toggle : Bool) (data : List Byte) (i : Nat) (j : Nat) (w : Bool) (x : SdoTransfer) (d : List Byte) (s : State),
    (s.side.shaped) ∧ (s.reachable .mgmt = true) ∧ (s.side.sdo = some x) ∧ (s.clk ≤ x.last + secTicks) ∧ (x.stages = false) ∧ (x.phase = .download toggle) ∧ (x.whole = false) ∧ (obj x.index x.sub = obj 0x2003 4) ∧ (x.data ++ data.take 7 = d) ∧ (x.total.getD d.length = d.length) ∧ (s.writable .mgmt (obj 0x2003 4) (valOfBytes (obj 0x2003 4) d) = true) :=
  ⟨true, [0], 0, 0, false, { index := 0x2003, sub := 4, whole := false, total := some 2, data := [60], last := 5, phase := .download true }, [60, 0], { State.reset with module := { State.reset.module with mainUp := true }, side := { State.reset.side with nodeId := 5, nmt := .operational, sdo := some { index := 0x2003, sub := 4, whole := false, total := some 2, data := [60], last := 5, phase := .download true } } }, ⟨rfl, rfl, by decide⟩, by decide +kernel⟩

theorem witness_SdoPdoResults_5 :
    ∃ (toggle : Bool) (last : Bool) (data : List Byte) (i : Nat) (j : Nat) (w : Bool) (x : SdoTransfer) (s : State),
    (s.reachable .mgmt = true) ∧ (s.side.sdo = some x) ∧ (s.clk ≤ x.last + secTicks) ∧ (x.phase = .download (!toggle)) :=
  ⟨false, true, [0], 0, 0, false, { index := 0x2701, sub := 3, whole := false, total := some 2, data := [60], last := 5, phase := .download true }, { State.reset with module := { State.reset.module with mainUp := true }, side := { State.reset.side with nodeId := 5, nmt := .operational, sdo := some { index := 0x2701, sub := 3, whole := false, total := some 2, data := [60], last := 5, phase := .download true } } }, by decide +kernel⟩

theorem witness_SdoPdoResults_6 :
    ∃ (seq : Nat) (data : List Byte) (i : Nat) (j : Nat) (w : Bool) (x : SdoTransfer) (crc : Bool) (s : State),
    (s.reachable .mgmt = true) ∧ (s.side.sdo = some x) ∧ (s.clk ≤ x.last + secTicks) ∧ (x.stages = false) ∧ (x.phase = .blockDownload crc seq) ∧ (1 ≤ seq) ∧ (seq < 127) :=
  ⟨126, [0, 1, 2, 3, 4, 5, 6], 0, 0, false, { index := 0x2701, sub := 3, whole := false, total := some 2, data := [60], last := 5, phase := .blockDownload true 126 }, true, { State.reset with module := { State.reset.module with mainUp := true }, side := { State.reset.side with nodeId := 5, nmt := .operational, sdo := some { index := 0x2701, sub := 3, whole := false, total := some 2, data := [60], last := 5, phase := .blockDownload true 126 } } }, by decide +kernel⟩

theorem witness_SdoPdoResults_7 :
    ∃ (unused : Nat) (crcSent : Nat) (i : Nat) (j : Nat) (w : Bool) (x : SdoTransfer) (s : State),
    (s.reachable .mgmt = true) ∧ (s.side.sdo = some x) ∧ (s.clk ≤ x.last + secTicks) ∧ (x.phase = .blockDownloadEnd true) ∧ (crcSent < 65536) ∧ (crcSent ≠ crc16From 0 (x.data.take (x.data.length - unused % 8))) :=
  ⟨5, 0, 0, 0, false, { index := 0x2701, sub := 3, whole := false, total := some 2, data := [60, 0, 0, 0, 0, 0, 0], last := 5, phase := .blockDownloadEnd true }, { State.reset with module := { State.reset.module with mainUp := true }, side := { State.reset.side with nodeId := 5, nmt := .operational, sdo := some { index := 0x2701, sub := 3, whole := false, total := some 2, data := [60, 0, 0, 0, 0, 0, 0], last := 5, phase := .blockDownloadEnd true } } }, by decide +kernel⟩

theorem witness_SdoPdoResults_8 :
    ∃ (r : SdoDown) (i : Nat) (j : Nat) (w : Bool) (x : SdoTransfer) (data : List Byte) (s : State),
    (s.reachable .mgmt = true) ∧ (s.side.sdo = some x) ∧ (x.last + secTicks < s.clk) :=
  ⟨.segment false true, 0, 0, false, { index := 0x2701, sub := 3, whole := false, total := some 2, data := [60], last := 5, phase := .download false }, [0], { State.reset with module := { State.reset.module with mainUp := true }, clk := secTicks + 6, side := { State.reset.side with nodeId := 5, nmt := .operational, sdo := some { index := 0x2701, sub := 3, whole := false, total := some 2, data := [60], last := 5, phase := .download false } } }, by decide +kernel⟩

theorem witness_SdoPdoResults_9 :
    ∃ (index : Nat) (sub : Nat) (d : List Byte) (s : State),
    (s.reachable .mgmt = true) ∧ (s.side.sdo = none) ∧ (index < 65536) ∧ (sub < 256) ∧ (obj index sub ≠ obj 0x2D05 1) ∧ ((s.takeRx 2).checkRead .mgmt (obj index sub) = 0) ∧ ((s.takeRx 2).readBarred (obj index sub) = false) ∧ ((s.takeRx 2).shownBytes .mgmt (obj index sub) = d) :=
  ⟨0x2701, 3, [40, 0], { State.reset with module := { State.reset.module with mainUp := true }, side := { State.reset.side with nodeId := 5, nmt := .operational } }, by decide +kernel⟩

theorem witness_SdoPdoResults_10 :
    ∃ (toggle : Bool) (i : Nat) (j : Nat) (x : SdoTransfer) (s : State),
    (s.reachable .mgmt = true) ∧ (s.side.sdo = some x) ∧ (s.clk ≤ x.last + secTicks) ∧ (x.phase = .upload toggle) :=
  ⟨true, 0, 0, { index := 0x2701, sub := 3, whole := false, total := some 2, data := [1, 2, 3, 4, 5, 6, 7, 8], last := 5, phase := .upload true }, { State.reset with module := { State.reset.module with mainUp := true }, side := { State.reset.side with nodeId := 5, nmt := .operational, sdo := some { index := 0x2701, sub := 3, whole := false, total := some 2, data := [1, 2, 3, 4, 5, 6, 7, 8], last := 5, phase := .upload true } } }, by decide +kernel⟩

theorem witness_SdoPdoResults_11 :
    ∃ (seq : Nat) (size : Nat) (i : Nat) (j : Nat) (x : SdoTransfer) (crc : Bool) (acked : Nat) (sent : Nat) (s : State),
    (s.reachable .mgmt = true) ∧ (s.side.sdo = some x) ∧ (s.clk ≤ x.last + secTicks) ∧ (x.phase = .blockUpload crc acked sent) ∧ (seq ≤ sent) ∧ (1 ≤ size) ∧ (size ≤ 127) ∧ (acked + seq = segmentsOf x.data) :=
  ⟨1, 127, 0, 0, { index := 0x2701, sub := 3, whole := false, total := some 2, data := [60], last := 5, phase := .blockUpload true 0 1 }, true, 0, 1, { State.reset with module := { State.reset.module with mainUp := true }, side := { State.reset.side with nodeId := 5, nmt := .operational, sdo := some { index := 0x2701, sub := 3, whole := false, total := some 2, data := [60], last := 5, phase := .blockUpload true 0 1 } } }, by decide +kernel⟩

theorem witness_SdoPdoResults_12 :
    ∃ (i : Nat) (j : Nat) (x : SdoTransfer) (s : State),
    (s.reachable .mgmt = true) ∧ (s.side.sdo = some x) ∧ (s.clk ≤ x.last + secTicks) ∧ (x.phase = .blockUploadEnd) :=
  ⟨0, 0, { index := 0x2701, sub := 3, whole := false, total := some 2, data := [60], last := 5, phase := .blockUploadEnd }, { State.reset with module := { State.reset.module with mainUp := true }, side := { State.reset.side with nodeId := 5, nmt := .operational, sdo := some { index := 0x2701, sub := 3, whole := false, total := some 2, data := [60], last := 5, phase := .blockUploadEnd } } }, by decide +kernel⟩

theorem witness_SdoPdoResults_13 :
    ∃ (x : SdoTransfer) (s : State),
    (s.side.sdo = some x) ∧ (s.clk ≤ x.last + secTicks + 1) :=
  ⟨{ index := 0x2701, sub := 3, whole := false, total := some 2, data := [60], last := 5, phase := .download false }, { State.reset with module := { State.reset.module with mainUp := true }, side := { State.reset.side with nodeId := 5, nmt := .operational, sdo := some { index := 0x2701, sub := 3, whole := false, total := some 2, data := [60], last := 5, phase := .download false } } }, by decide +kernel⟩

theorem witness_SdoPdoResults_14 :
    ∃ (data : List Byte) (d : List Byte) (s : State),
    (s.side.shaped) ∧ (s.side.rpdos = [{}, {}, {}, {}]) ∧ (s.side.tpdos.length = 4) ∧ (s.nodeUp = true) ∧ (s.side.nmt = .operational) ∧ (bitOf (s.nat (obj 0x1005 0)) 31 = false) ∧ (data.length ≤ 1) ∧ ((s.takeRx 1).tpdoData 0 = some d) ∧ (1 ≤ s.nat (obj 0x1800 2)) ∧ (s.nat (obj 0x1800 2) ≤ (s.tpdo 0).syncs + 1) ∧ (s.nat (obj 0x1800 2) ≤ 240) ∧ (s.pdoRuns (obj 0x1801 1) = false) ∧ (s.pdoRuns (obj 0x1802 1) = false) ∧ (s.pdoRuns (obj 0x1803 1) = false) ∧ (s.side.tx = []) :=
  ⟨[1], [3], { State.reset with module := { State.reset.module with mainUp := true }, side := { State.reset.side with nodeId := 5, nmt := .operational, tpdos := [{ syncs := 1 }, {}, {}, {}] }, od := [(obj 0x1800 1, .num 0x185), (obj 0x1800 2, .num 2), (obj 0x1801 1, .num 0x80000285), (obj 0x1802 1, .num 0x80000385), (obj 0x1803 1, .num 0x80000485), (obj 0x1A00 0, .num 1), (obj 0x1A00 1, .num 0x27010208)] }, ⟨rfl, rfl, by decide⟩, by decide +kernel⟩

theorem witness_SdoPdoResults_15 :
    ∃ (n : Fin 4) (data : List Byte) (s : State),
    (s.nodeUp = true) ∧ (s.pdoRuns (obj (0x1400 + n) 1) = true) ∧ (sumN ((s.mapping (0x1600 + n)).map (·.2)) ≠ data.length) :=
  ⟨3, [1], { State.reset with module := { State.reset.module with mainUp := true }, side := { State.reset.side with nodeId := 5, nmt := .operational }, od := [(obj 0x1403 1, .num 0x505)] }, by decide +kernel⟩

theorem witness_SdoPdoResults_16 :
    ∃ (n : Fin 4) (data : List Byte) (s : State),
    (s.nodeUp = true) ∧ (s.side.rpdos.length = 4) ∧ (s.pdoRuns (obj (0x1400 + n) 1) = true) ∧ (sumN ((s.mapping (0x1600 + n)).map (·.2)) = data.length) ∧ ((s.rpdo n).type ≤ 240) :=
  ⟨3, [], { State.reset with module := { State.reset.module with mainUp := true }, side := { State.reset.side with nodeId := 5, nmt := .operational, rpdos := [{}, {}, {}, { type := 0 }] }, od := [(obj 0x1403 1, .num 0x505), (obj 0x1403 2, .num 0)] }, by decide +kernel⟩

theorem witness_SdoPdoResults_17 :
    ∃ (n : Fin 4) (data : List Byte) (s : State),
    (s.nodeUp = true) ∧ (s.pdoRuns (obj (0x1400 + n) 1) = true) ∧ (s.mapping (0x1600 + n) = [(obj 0x2003 4, 2)]) ∧ (data.length = 2) ∧ (240 < (s.rpdo n).type) ∧ (s.module.mainUp = true) ∧ (s.lockedBy .host (obj 0x2003 4) = false) ∧ (s.checkWrite s.nat .mgmt (obj 0x2003 4) (valOfBytes (obj 0x2003 4) data) = 0) :=
  ⟨3, [60, 0], { State.reset with module := { State.reset.module with mainUp := true }, side := { State.reset.side with nodeId := 5, nmt := .operational }, od := [(obj 0x1403 1, .num 0x505), (obj 0x1403 2, .num 255), (obj 0x1603 0, .num 1), (obj 0x1603 1, .num 0x20030410)] }, by decide +kernel⟩

theorem witness_SdoPdoResults_18 :
    ∃ (n : Fin 4) (data : List Byte) (s : State),
    (s.nodeUp = true) ∧ (s.pdoRuns (obj (0x1400 + n) 1) = true) ∧ (sumN ((s.mapping (0x1600 + n)).map (·.2)) = data.length) ∧ (240 < (s.rpdo n).type) ∧ (s.module.mainUp = true) ∧ ((s.mapping (0x1600 + n)).any (fun e => s.lockedBy .host e.1) = true) :=
  ⟨3, [60, 0], { State.reset with module := { State.reset.module with mainUp := true }, side := { State.reset.side with nodeId := 5, nmt := .operational }, od := [(obj 0x1403 1, .num 0x505), (obj 0x1403 2, .num 255), (obj 0x1603 0, .num 1), (obj 0x1603 1, .num 0x27010310)], dict := { State.reset.dict with locks := [some { owner := .host, first := 0x2701, last := 0x2701, until_ := 9 }, none, none, none] } }, by decide +kernel⟩

theorem witness_SdoPdoResults_19 :
    ∃ (n : Fin 4) (d : List Byte) (s : State),
    (s.side.tpdos.length = 4) ∧ (s.tpdoData n = some d) ∧ (240 < (s.tpdo n).type) ∧ ((s.tpdo n).sent ≠ some d) ∧ ((s.tpdo n).sentAt = none) ∧ (s.side.tx.all (fun f => f.buffer != 20 + n) = true) ∧ (s.side.nodeId ≠ 0xFF) :=
  ⟨3, [3], { State.reset with module := { State.reset.module with mainUp := true }, side := { State.reset.side with nodeId := 5, nmt := .operational }, od := [(obj 0x1803 1, .num 0x485), (obj 0x1A03 0, .num 1), (obj 0x1A03 1, .num 0x27010208)] }, by decide +kernel⟩

theorem witness_SdoPdoResults_20 :
    ∃ (e : Emcy) (r : List Emcy) (s : State),
    (s.side.emcy = e :: r) ∧ (s.nodeUp = true) ∧ (s.side.nmt.served = true) ∧ (bitOf (s.nat (obj 0x1014 0)) 31 = false) ∧ (s.side.tx.all (fun f => f.buffer != 17) = true) ∧ (s.side.emcyAt = none) :=
  ⟨⟨0x1000, 0x9004, 2, 1⟩, [], { State.reset with module := { State.reset.module with mainUp := true }, side := { State.reset.side with nodeId := 5, nmt := .operational, emcy := [⟨0x1000, 0x9004, 2, 1⟩] } }, by decide +kernel⟩

theorem witness_SdoPdoResults_21 :
    ∃ (s : State),
    (s.canFed = true) ∧ (s.nat (obj 0x1017 0) ≠ 0) ∧ (s.side.nodeId ≠ 0xFF) ∧ (s.side.nmt ≠ .initialisation) ∧ (s.clk ≤ s.side.heartbeatAt + s.nat (obj 0x1017 0) * msTicks) ∧ (s.side.tx = []) :=
  ⟨({ State.reset with module := { State.reset.module with mainUp := true }, side := { State.reset.side with nodeId := 5, nmt := .operational } }).putNat (obj 0x1017 0) 1000, by decide +kernel⟩

theorem witness_SdoPdoResults_22 :
    ∃ (entry : Fin 4) (u : Nat) (s : State),
    (s.side.shaped) ∧ (s.canFed = true) ∧ (bits (s.nat (obj 0x1016 (entry + 1))) 15 0 ≠ 0) ∧ ((s.side.consumers.getD entry {}).timedOut = false) ∧ (s.side.nodeId ≠ 0xFF) ∧ ((s.side.consumers.getD entry {}).heard = some u) ∧ ((s.side.consumers.getD entry {}).written ≤ u) ∧ (s.clk ≤ u + bits (s.nat (obj 0x1016 (entry + 1))) 15 0 * msTicks) :=
  ⟨3, 3, { State.reset with module := { State.reset.module with mainUp := true }, side := { State.reset.side with nodeId := 5, consumers := [{}, {}, {}, { heard := some 3 }] }, od := [(obj 0x1016 4, .num 0x2003E8)] }, ⟨rfl, rfl, by decide⟩, by decide +kernel⟩


theorem witness_LssResults_1 :
    ∃ (mode : Nat) (s : State),
    (s.canSend = true) ∧ (mode ≤ 1) :=
  ⟨1, { State.reset with module := { State.reset.module with mainUp := true } }, by decide +kernel⟩

theorem witness_LssResults_2 :
    ∃ (s : State),
    (s.canSend = true) :=
  ⟨{ State.reset with module := { State.reset.module with mainUp := true } }, by decide +kernel⟩

theorem witness_LssResults_3 :
    ∃ (node : Nat) (s : State),
    (s.canSend = true) ∧ (s.side.lssConfig = true) ∧ (1 ≤ node ∧ node ≤ 127 ∨ node = 0xFF) :=
  ⟨127, { State.reset with module := { State.reset.module with mainUp := true }, side := { State.reset.side with nodeId := 5, lssConfig := true } }, by decide +kernel⟩

theorem witness_LssResults_4 :
    ∃ (table : Nat) (index : Nat) (s : State),
    (s.canSend = true) ∧ (s.side.lssConfig = true) ∧ (timingOk table index = true) :=
  ⟨0x80, 8, { State.reset with module := { State.reset.module with mainUp := true }, side := { State.reset.side with nodeId := 5, lssConfig := true } }, by decide +kernel⟩

theorem witness_LssResults_5 :
    ∃ (delay : Nat) (s : State),
    (s.canSend = true) ∧ (s.side.lssConfig = true) ∧ (delay < 65536) :=
  ⟨65535, { State.reset with module := { State.reset.module with mainUp := true }, side := { State.reset.side with nodeId := 5, lssConfig := true } }, by decide +kernel⟩

theorem witness_LssResults_6 :
    ∃ (u : Nat) (d : Nat) (s : State),
    (s.side.switching = some (u, d, false)) ∧ (s.clk ≤ u) :=
  ⟨9, 9, { State.reset with module := { State.reset.module with mainUp := true }, side := { State.reset.side with nodeId := 5, switching := some (9, 9, false) } }, by decide +kernel⟩

theorem witness_LssResults_7 :
    ∃ (u : Nat) (d : Nat) (s : State),
    (s.side.switching = some (u, d, true)) ∧ (s.clk ≤ u) :=
  ⟨9, 9, { State.reset with module := { State.reset.module with mainUp := true }, side := { State.reset.side with nodeId := 5, switching := some (9, 9, true) } }, by decide +kernel⟩

theorem witness_LssResults_8 :
    ∃ (s : State),
    (s.canSend = true) ∧ (s.side.lssConfig = true) :=
  ⟨{ State.reset with module := { State.reset.module with mainUp := true }, side := { State.reset.side with nodeId := 5, lssConfig := true } }, by decide +kernel⟩

theorem witness_LssResults_9 :
    ∃ (s : State),
    (s.canSend = true) ∧ (s.side.lssConfig = true) :=
  ⟨{ State.reset with module := { State.reset.module with mainUp := true }, side := { State.reset.side with nodeId := 5, lssConfig := true } }, by decide +kernel⟩

theorem witness_LssResults_10 :
    ∃ (s : State),
    (s.canSend = true) ∧ (s.side.lssConfig = true) :=
  ⟨{ State.reset with module := { State.reset.module with mainUp := true }, side := { State.reset.side with nodeId := 5, lssConfig := true } }, by decide +kernel⟩

theorem witness_LssResults_11 :
    ∃ (s : State),
    (s.canSend = true) ∧ (s.side.lssConfig = true) :=
  ⟨{ State.reset with module := { State.reset.module with mainUp := true }, side := { State.reset.side with nodeId := 5, lssConfig := true } }, by decide +kernel⟩

theorem witness_LssResults_12 :
    ∃ (s : State),
    (s.canSend = true) ∧ (s.side.lssConfig = true) :=
  ⟨{ State.reset with module := { State.reset.module with mainUp := true }, side := { State.reset.side with nodeId := 5, lssConfig := true } }, by decide +kernel⟩

theorem witness_LssResults_13 :
    ∃ (s : State),
    (s.canSend = true) ∧ (s.side.lssConfig = true) :=
  ⟨{ State.reset with module := { State.reset.module with mainUp := true }, side := { State.reset.side with nodeId := 5, lssConfig := true } }, by decide +kernel⟩

theorem witness_LssResults_14 :
    ∃ (revLow : Nat) (revHigh : Nat) (serLow : Nat) (serHigh : Nat) (s : State),
    (s.canSend = true) ∧ (revLow ≤ s.lssAddress 2) ∧ (s.lssAddress 2 ≤ revHigh) ∧ (serLow ≤ s.lssAddress 3) ∧ (s.lssAddress 3 ≤ serHigh) :=
  ⟨7, 7, 0, 9, { State.reset with module := { State.reset.module with mainUp := true }, od := [(obj 0x1018 3, .num 7), (obj 0x1018 4, .num 9)] }, by decide +kernel⟩

theorem witness_LssResults_15 :
    ∃ (s : State),
    (s.canSend = true) ∧ (s.side.nodeId = 0xFF) :=
  ⟨{ State.reset with module := { State.reset.module with mainUp := true } }, by decide +kernel⟩

theorem witness_LssResults_16 :
    ∃ (number : Nat) (bitCheck : Nat) (sub : Nat) (next : Nat) (s : State),
    (s.canSend = true) ∧ (s.side.nodeId = 0xFF) ∧ (s.side.lssConfig = false) ∧ (bitCheck ≤ 31) ∧ (sub ≤ 3) ∧ (sub = s.side.lssPos) ∧ (next < 4) ∧ (number % 2 ^ 32 / 2 ^ bitCheck = s.lssAddress sub / 2 ^ bitCheck) :=
  ⟨9, 0, 3, 0, { State.reset with module := { State.reset.module with mainUp := true }, side := { State.reset.side with lssPos := 3 }, od := [(obj 0x1018 4, .num 9)] }, by decide +kernel⟩


theorem witness_DmaResults_1 :
    ∃ (c : Fin 16) (d : Descriptor) (s : State),
    (s.dma.shaped) ∧ (s.module.mainUp = true) ∧ ((s.chan c).free = true) ∧ ((s.chan c).next % 32 = 0) ∧ (inDdr (s.chan c).next 32 = true) ∧ (d = s.readDescriptor (s.chan c).next) ∧ (d.malformed = false) ∧ (bits d.control 27 24 = 0) ∧ (d.count ≠ 0) ∧ (s.dma.fifo = []) :=
  ⟨15, State.readDescriptor { State.reset with mem := [(0x110, 64#8)] } 0x100, { State.reset with module := { State.reset.module with mainUp := true }, mem := [(0x110, 64#8)], dma := { State.reset.dma with channels := State.reset.dma.channels.set 15 { state := .error, cause := 4, next := 0x100 } } }, rfl, by decide +kernel⟩

theorem witness_DmaResults_2 :
    ∃ (c : Fin 16) (bad : Bool) (s : State),
    (s.dma.shaped) ∧ (s.module.mainUp = true) ∧ ((s.chan c).free = true) ∧ (¬((s.chan c).next % 32 = 0 ∧ inDdr (s.chan c).next 32 = true)) ∧ (s.dma.fifo = []) :=
  ⟨8, false, { State.reset with module := { State.reset.module with mainUp := true }, dma := { State.reset.dma with channels := State.reset.dma.channels.set 8 { next := 0x100000000 } } }, rfl, by decide +kernel⟩

theorem witness_DmaResults_3 :
    ∃ (c : Fin 16) (bad : Bool) (s : State),
    (s.module.mainUp = true) ∧ ((s.chan c).free = false) :=
  ⟨8, true, { State.reset with module := { State.reset.module with mainUp := true }, dma := { State.reset.dma with channels := State.reset.dma.channels.set 8 { state := .waiting } } }, by decide +kernel⟩

theorem witness_DmaResults_4 :
    ∃ (c : Fin 16) (moved : Burst) (data : List Byte) (s : State),
    (s.dma.shaped) ∧ (s.module.mainUp = true) ∧ ((s.chan c).free = false) ∧ ((s.chan c).state ≠ .active) :=
  ⟨8, ⟨0, none⟩, [], { State.reset with module := { State.reset.module with mainUp := true }, dma := { State.reset.dma with channels := State.reset.dma.channels.set 8 { state := .queued }, fifo := [3, 8, 9] } }, rfl, by decide +kernel⟩

theorem witness_DmaResults_5 :
    ∃ (c : Fin 16) (data : List Byte) (s : State),
    (s.dma.shaped) ∧ (s.module.mainUp = true) ∧ ((s.chan c).state = .active) :=
  ⟨8, [], { State.reset with module := { State.reset.module with mainUp := true }, dma := { State.reset.dma with channels := State.reset.dma.channels.set 8 { state := .active }, fifo := [8, 9] } }, rfl, by decide +kernel⟩

theorem witness_DmaResults_6 :
    ∃ (c : Fin 16) (data : List Byte) (s : State),
    (s.dma.shaped) ∧ (s.module.mainUp = true) ∧ ((s.chan c).state = .active) ∧ ((s.chan c).own = false) ∧ ((s.chan c).requestor ≠ 1) ∧ (c.val < 8) ∧ ((s.chan c).remain = (s.chan c).desc.count) ∧ ((s.chan c).remain ≠ 0) ∧ (bits (s.chan c).desc.control 1 0 = 0) ∧ ((s.chan c).desc.src < ddrEnd) ∧ ((s.chan c).desc.dst < ddrEnd) ∧ ((s.chan c).desc.src % 4096 + (s.chan c).desc.count ≤ 4096) ∧ ((s.chan c).desc.dst % 4096 + (s.chan c).desc.count ≤ 4096) :=
  ⟨7, [], { State.reset with module := { State.reset.module with mainUp := true }, mem := [(0x101, 7#8), (0x118, 1#8)], dma := { State.reset.dma with channels := State.reset.dma.channels.set 7 { state := .active, cur := 0x100, remain := 3, desc := { State.readDescriptor State.reset 0 with src := 0xFFFFFFFD, dst := 0x1FFD, count := 3, link := 1 } }, fifo := [7] } }, rfl, by decide +kernel⟩

theorem witness_DmaResults_7 :
    ∃ (c : Fin 16) (bad : Bool) (s : State),
    (s.dma.shaped) ∧ (s.module.mainUp = true) ∧ ((s.chan c).free = false) :=
  ⟨0, false, { State.reset with module := { State.reset.module with mainUp := true }, dma := { State.reset.dma with channels := State.reset.dma.channels.set 0 { state := .pending } } }, rfl, by decide +kernel⟩

theorem witness_DmaResults_8 :
    ∃ (c : Fin 16) (s : State),
    (s.module.mainUp = true) ∧ ((s.chan c).state = .stoppedEnd) ∧ (ofLe (s.memRead ((s.chan c).cur + 24) 8) % 2 = 1) :=
  ⟨8, { State.reset with module := { State.reset.module with mainUp := true }, mem := [(0x118, 1#8)], dma := { State.reset.dma with channels := State.reset.dma.channels.set 8 { state := .stoppedEnd, cur := 0x100 } } }, by decide +kernel⟩

theorem witness_DmaResults_9 :
    ∃ (c : Fin 16) (a : Nat) (d : Descriptor) (s : State),
    (s.dma.shaped) ∧ (s.module.mainUp = true) ∧ ((s.chan c).state = .stoppedEnd) ∧ (ofLe (s.memRead ((s.chan c).cur + 24) 8) = a) ∧ (a % 32 = 0) ∧ (inDdr a 32 = true) ∧ (d = s.readDescriptor a) ∧ (d.malformed = false) ∧ (bits d.control 27 24 = 0) ∧ (d.count ≠ 0) ∧ (s.dma.fifo = []) :=
  ⟨8, 0x100, State.readDescriptor { State.reset with mem := [(0x110, 64#8), (0x119, 1#8), (0x219, 1#8)] } 0x100, { State.reset with module := { State.reset.module with mainUp := true }, mem := [(0x110, 64#8), (0x119, 1#8), (0x219, 1#8)], dma := { State.reset.dma with channels := State.reset.dma.channels.set 8 { state := .stoppedEnd, cur := 0x200 } } }, rfl, by decide +kernel⟩

theorem witness_DmaResults_10 :
    ∃ (c : Fin 16) (bad : Bool) (s : State),
    (s.module.mainUp = true) ∧ ((s.chan c).state = .idle ∨ (s.chan c).state = .error ∨ (s.chan c).state = .aborted) :=
  ⟨8, true, { State.reset with module := { State.reset.module with mainUp := true }, dma := { State.reset.dma with channels := State.reset.dma.channels.set 8 { state := .error } } }, by decide +kernel⟩

theorem witness_DmaResults_11 :
    ∃ (c : Fin 16) (value : Nat) (s : State),
    (s.dma.shaped) ∧ (s.module.mainUp = true) ∧ ((s.chan c).free = true) :=
  ⟨15, 0xFF000000013F, { State.reset with module := { State.reset.module with mainUp := true } }, rfl, by decide +kernel⟩

theorem witness_DmaResults_12 :
    ∃ (c : Fin 16) (value : Nat) (s : State),
    (s.module.mainUp = true) ∧ ((s.chan c).free = false) :=
  ⟨8, 64, { State.reset with module := { State.reset.module with mainUp := true }, dma := { State.reset.dma with channels := State.reset.dma.channels.set 8 { state := .active } } }, by decide +kernel⟩

theorem witness_DmaResults_13 :
    ∃ (c : Fin 16) (s : State),
    (s.dma.shaped) ∧ (s.module.mainUp = true) :=
  ⟨8, { State.reset with module := { State.reset.module with mainUp := true }, dma := { State.reset.dma with channels := State.reset.dma.channels.set 8 { pending := true, unmask := true } } }, rfl, by decide +kernel⟩

theorem witness_DmaResults_14 :
    ∃ (c : Fin 16) (unmask : Bool) (s : State),
    (s.dma.shaped) ∧ (s.module.mainUp = true) :=
  ⟨8, true, { State.reset with module := { State.reset.module with mainUp := true }, dma := { State.reset.dma with channels := State.reset.dma.channels.set 8 { pending := true } } }, rfl, by decide +kernel⟩

theorem witness_DmaResults_15 :
    ∃ (data : List Byte) (c : Fin 16) (r : List Nat) (m : List Host.Cell) (s : State),
    (s.dma.shaped) ∧ (s.dma.fifo = c.val :: r) ∧ ((s.chan c).state = .active) ∧ ((s.chan c).own = false) ∧ ((s.chan c).requestor ≠ 1) ∧ (c.val < 8) ∧ ((s.chan c).remain = (s.chan c).desc.count) ∧ ((s.chan c).remain ≠ 0) ∧ (bits (s.chan c).desc.control 1 0 = 0) ∧ ((s.chan c).desc.src < ddrEnd) ∧ ((s.chan c).desc.dst < ddrEnd) ∧ ((s.chan c).desc.src % 4096 + (s.chan c).desc.count ≤ 4096) ∧ ((s.chan c).desc.dst % 4096 + (s.chan c).desc.count ≤ 4096) ∧ (Mem.writeAll s.mem (s.chan c).desc.dst (s.memRead (s.chan c).desc.src (s.chan c).desc.count) = m) ∧ (ofLe (({ s with mem := m } : State).memRead ((s.chan c).cur + 24) 8) % 2 = 1) :=
  ⟨[], 7, [], [(0x101, 7#8), (0x118, 1#8)], { State.reset with module := { State.reset.module with mainUp := true }, mem := [(0x101, 7#8), (0x118, 1#8)], dma := { State.reset.dma with channels := State.reset.dma.channels.set 7 { state := .active, cur := 0x100, remain := 3, desc := { State.readDescriptor State.reset 0 with src := 0xFFFFFFFD, dst := 0x1FFD, count := 3, link := 1 } }, fifo := [7] } }, rfl, by decide +kernel⟩

theorem witness_DmaResults_16 :
    ∃ (data : List Byte) (c : Fin 16) (s : State),
    (s.dma.shaped) ∧ (s.dma.fifo = [c.val]) ∧ ((s.chan c).state = .active) ∧ ((s.chan c).own = false) ∧ ((s.chan c).requestor ≠ 1) ∧ ((s.chan c).remain = (s.chan c).desc.count) ∧ ((s.chan c).remain ≠ 0) ∧ (placeOf (s.chan c).desc.src = .unmapped) ∧ (s.dma.channels.all (fun x => x.state != .pending) = true) :=
  ⟨[], 7, { State.reset with module := { State.reset.module with mainUp := true }, dma := { State.reset.dma with channels := State.reset.dma.channels.set 7 { state := .active, remain := 3, desc := { State.readDescriptor State.reset 0 with src := 0x1200000000, dst := 0x1FFD, count := 3, link := 1 } }, fifo := [7] } }, rfl, by decide +kernel⟩

theorem witness_DmaResults_17 :
    ∃ (code : Nat) (s : State),
    (s.dma.shaped) ∧ (s.module.mainUp = true) ∧ (outside code = true) :=
  ⟨8, { State.reset with module := { State.reset.module with mainUp := true } }, rfl, by decide +kernel⟩

theorem witness_DmaResults_18 :
    ∃ (code : Nat) (s : State),
    (s.dma.shaped) ∧ (s.module.mainUp = true) ∧ (3 ≤ code) ∧ (code ≤ 6) ∧ ((s.trace (code - 3)).state = 4) :=
  ⟨6, { State.reset with module := { State.reset.module with mainUp := true }, loops := { State.reset.loops with traces := State.reset.loops.traces.set 3 { state := 4 } } }, rfl, by decide +kernel⟩

theorem witness_DmaResults_19 :
    ∃ (code : Nat) (bad : Option Nat) (data : List Byte) (c : Fin 16) (r : List Nat) (s : State),
    (s.dma.shaped) ∧ (outside code = true) ∧ (s.dma.fifo = c.val :: r) ∧ ((s.chan c).requestor = code) ∧ ((s.chan c).state = .active) ∧ ((s.chan c).remain ≠ 0) :=
  ⟨7, none, [], 7, [], { State.reset with module := { State.reset.module with mainUp := true }, dma := { State.reset.dma with channels := State.reset.dma.channels.set 7 { state := .active, remain := 3, desc := { State.readDescriptor State.reset 0 with control := 0x7000000 } }, fifo := [7] } }, rfl, by decide +kernel⟩

theorem witness_DmaResults_20 :
    ∃ (code : Nat) (moved : Burst) (data : List Byte) (s : State),
    (s.dma.fifo = []) ∧ (outside code = true) :=
  ⟨2, ⟨0, none⟩, [], State.reset, by decide +kernel⟩

theorem witness_DmaResults_21 :
    ∃ (c : Fin 16) (s : State),
    (s.dma.shaped) ∧ (s.dma.fifo = [c.val]) ∧ ((s.chan c).state = .waiting) ∧ (s.clk ≤ (s.chan c).since + s.nat (obj 0x2F00 5) * usTicks) :=
  ⟨7, { State.reset with module := { State.reset.module with mainUp := true }, dma := { State.reset.dma with channels := State.reset.dma.channels.set 7 { state := .waiting, since := 5 }, fifo := [7] } }, rfl, by decide +kernel⟩


theorem witness_RecorderResults_1 :
    ∃ (w : RecWrite) (r : Record) (s : State),
    (s.recorder.writing = some w) ∧ (s.recorder.slots.length ≤ 2000) ∧ (assocGet s.recorder.slots w.slot = some r) ∧ (s.recorder.waitDown = none) ∧ (s.recorder.clearing = none) ∧ (s.recorder.waitForced = none) ∧ (s.recorder.waitHour = false) :=
  ⟨{ slot := 1999, since := 0, overwrites := false }, { seq := 5 }, { State.reset with module := { State.reset.module with mainUp := true }, recorder := { State.reset.recorder with writing := some { slot := 1999, since := 0, overwrites := false }, slots := [(1999, { seq := 5 })] } }, by decide +kernel⟩

theorem witness_RecorderResults_2 :
    ∃ (s : State),
    (s.module.mainUp = true) ∧ (s.clk ≤ s.recorder.lastSample + secTicks) :=
  ⟨{ State.reset with module := { State.reset.module with mainUp := true }, recorder := { State.reset.recorder with lines := [5, 4, 3, 2], sightings := 9 } }, by decide +kernel⟩

theorem witness_RecorderResults_3 :
    ∃ (m : Master) (sub : Nat) (n : Nat) (s : State),
    (s.writable m (obj 0x2D01 sub) (.num n) = true) ∧ (sub < 0x19) :=
  ⟨.host, 0x10, 20, { State.reset with module := { State.reset.module with mainUp := true } }, by decide +kernel⟩

theorem witness_RecorderResults_4 :
    ∃ (m : Master) (sub : Nat) (n : Nat) (s : State),
    (s.reachable m = true) ∧ (s.check0 m (obj 0x2D01 sub) = true) ∧ (0x11 ≤ sub) ∧ (sub ≤ 0x18) ∧ (n < 2 ^ 32) ∧ (counterSlotOk n = false) :=
  ⟨.host, 0x18, 0x26010100, { State.reset with module := { State.reset.module with mainUp := true } }, by decide +kernel⟩

theorem witness_RecorderResults_5 :
    ∃ (m : Master) (seq : Nat) (p : Nat × Record) (s : State),
    (s.writable m (obj 0x2D03 3) (.num seq) = true) ∧ (s.recorder.selected.length = 2) ∧ (s.recorder.slots.find? (fun p => p.2.seq == seq) = some p) :=
  ⟨.host, 5, (1999, { seq := 5 }), { State.reset with module := { State.reset.module with mainUp := true }, recorder := { State.reset.recorder with slots := [(4, { seq := 8 }), (1999, { seq := 5 })] } }, by decide +kernel⟩

theorem witness_RecorderResults_6 :
    ∃ (m : Master) (seq : Nat) (s : State),
    (s.writable m (obj 0x2D03 3) (.num seq) = true) ∧ (s.recorder.slots.find? (fun p => p.2.seq == seq) = none) :=
  ⟨.host, 5, { State.reset with module := { State.reset.module with mainUp := true } }, by decide +kernel⟩

theorem witness_RecorderResults_7 :
    ∃ (m : Master) (address : Nat) (s : State),
    (s.writable m (obj 0x2D04 2) (.num address) = true) ∧ (s.module.mainUp = true) ∧ (inDdr address 512064 = true) :=
  ⟨.host, 0xFFF82FC0, { State.reset with module := { State.reset.module with mainUp := true } }, by decide +kernel⟩

theorem witness_RecorderResults_8 :
    ∃ (m : Master) (address : Nat) (s : State),
    (s.writable m (obj 0x2D04 2) (.num address) = true) ∧ (inDdr address 512064 = false) :=
  ⟨.host, 0xFFF82FC1, { State.reset with module := { State.reset.module with mainUp := true } }, by decide +kernel⟩

theorem witness_RecorderResults_9 :
    ∃ (a : Nat) (s : State),
    (s.recorder.exporting = some a) ∧ (s.module.mainUp = true) ∧ (s.recorder.writing = none) ∧ (s.fwBarred 3 = false) :=
  ⟨64, { State.reset with module := { State.reset.module with mainUp := true }, recorder := { State.reset.recorder with exporting := some 64 } }, by decide +kernel⟩

theorem witness_RecorderResults_10 :
    ∃ (m : Master) (s : State),
    (s.reachable m = true) ∧ (s.checkRead m (obj 0x2D05 1) = 0) ∧ (s.clearLocked = false) :=
  ⟨.host, { State.reset with module := { State.reset.module with mainUp := true } }, by decide +kernel⟩

theorem witness_RecorderResults_11 :
    ∃ (m : Master) (s : State),
    (s.reachable m = true) ∧ (s.checkRead m (obj 0x2D05 1) = 0) ∧ (s.clearLocked = true) :=
  ⟨.host, { State.reset with module := { State.reset.module with mainUp := true }, recorder := { State.reset.recorder with lockedAt := some 0 } }, by decide +kernel⟩

theorem witness_RecorderResults_12 :
    ∃ (m : Master) (response : List Byte) (s : State),
    (s.writable m (obj 0x2D05 2) (.bytes response) = true) ∧ (s.clearLocked = false) ∧ (s.recorder.exporting = none) ∧ (s.power.seqAt = none) ∧ (s.recorder.clearing = none) ∧ (s.responseRight m response = false) :=
  ⟨.host, [1, 2, 3, 4, 5, 6, 7, 8], { State.reset with module := { State.reset.module with mainUp := true } }, by decide +kernel⟩

theorem witness_RecorderResults_13 :
    ∃ (m : Master) (response : List Byte) (s : State),
    (s.writable m (obj 0x2D05 2) (.bytes response) = true) ∧ (¬(s.clearLocked = false ∧ s.recorder.exporting = none ∧ s.power.seqAt = none ∧ s.recorder.clearing = none)) :=
  ⟨.host, [1, 2, 3, 4, 5, 6, 7, 8], { State.reset with module := { State.reset.module with mainUp := true }, recorder := { State.reset.recorder with exporting := some 64 } }, by decide +kernel⟩

theorem witness_RecorderResults_14 :
    ∃ (m : Master) (response : List Byte) (s : State),
    (s.responseRight m response = true) ∧ (s.writable m (obj 0x2D05 2) (.bytes response) = true) ∧ (s.clearLocked = false) ∧ (s.recorder.exporting = none) ∧ (s.power.seqAt = none) ∧ (s.recorder.clearing = none) ∧ (s.recorder.writing = none) :=
  ⟨.host, leBytes 8 (Config.clearResponse 7 (State.reset.byteVal (obj 0x2000 3)) % 2 ^ 64), { State.reset with module := { State.reset.module with mainUp := true }, recorder := { State.reset.recorder with challenges := [some (7, 0), none], slots := [(4, { seq := 8 })] } }, clear_response_right _ _ 7 0 rfl (by decide), by decide +kernel⟩

theorem witness_RecorderResults_15 :
    ∃ (u : Nat) (s : State),
    (s.recorder.lockedAt = some u) ∧ (s.clk ≤ u + 600 * secTicks) :=
  ⟨4, { State.reset with module := { State.reset.module with mainUp := true }, recorder := { State.reset.recorder with lockedAt := some 4 } }, by decide +kernel⟩


theorem witness_UpdateResults_1 :
    ∃ (m : Master) (total : Nat) (data : List Byte) (s : State),
    (s.writable m (obj 0x2E01 1) (.bytes data) = true) ∧ (s.power.seqAt = none) ∧ (s.flashUp = true) ∧ (s.update.st = 0 ∨ s.update.st = 3 ∨ s.update.st = 6) ∧ (256 ≤ total) ∧ (total ≤ imageMax) ∧ (data.length < total) :=
  ⟨.host, 256, [1, 2], { State.reset with module := { State.reset.module with mainUp := true }, update := { State.reset.update with st := 6, cause := 4 } }, by decide +kernel⟩

theorem witness_UpdateResults_2 :
    ∃ (m : Master) (total : Nat) (data : List Byte) (s : State),
    (s.writable m (obj 0x2E01 1) (.bytes data) = true) ∧ (s.power.seqAt = none) ∧ (s.flashUp = true) ∧ (s.update.st = 1) ∧ (s.update.path = (match m with | .mgmt => 0 | .host => 1)) ∧ (total = s.update.total) ∧ (s.update.staging.length + data.length = total) :=
  ⟨.host, 256, [1, 2], { State.reset with module := { State.reset.module with mainUp := true }, update := { State.reset.update with st := 1, path := 1, total := 256, staging := List.replicate 254 9 } }, by decide +kernel⟩

theorem witness_UpdateResults_3 :
    ∃ (m : Master) (offset : Nat) (total : Nat) (data : List Byte) (s : State),
    (s.writable m (obj 0x2E01 1) (.bytes data) = true) ∧ (s.power.seqAt = none) ∧ (s.flashUp = true) ∧ (s.update.st = 1) ∧ (s.update.path = (match m with | .mgmt => 0 | .host => 1)) ∧ (offset ≠ s.update.staging.length) :=
  ⟨.host, 255, 256, [1], { State.reset with module := { State.reset.module with mainUp := true }, update := { State.reset.update with st := 1, path := 1, total := 256, staging := List.replicate 254 9 } }, by decide +kernel⟩

theorem witness_UpdateResults_4 :
    ∃ (s : State),
    (s.update.st = 1) ∧ (s.clk ≤ s.update.lastByte + 10 * secTicks + 1) :=
  ⟨{ State.reset with module := { State.reset.module with mainUp := true }, update := { State.reset.update with st := 1, lastByte := 9 } }, by decide +kernel⟩

theorem witness_UpdateResults_5 :
    ∃ (s : State),
    (s.update.st = 2) :=
  ⟨{ State.reset with module := { State.reset.module with mainUp := true }, update := { State.reset.update with st := 2 } }, by decide +kernel⟩

theorem witness_UpdateResults_6 :
    ∃ (m : Master) (s : State),
    (s.writable m (obj 0x2E02 1) (.num 1) = true) ∧ (s.power.seqAt = none) ∧ (s.flashUp = true) ∧ (s.updateState = 3 ∨ s.updateState = 6) :=
  ⟨.host, { State.reset with module := { State.reset.module with mainUp := true }, update := { State.reset.update with st := 6 } }, by decide +kernel⟩

theorem witness_UpdateResults_7 :
    ∃ (m : Master) (s : State),
    (s.writable m (obj 0x2E02 1) (.num 2) = true) ∧ (s.power.seqAt = none) ∧ (s.flashUp = true) ∧ (s.updateState = 3) :=
  ⟨.host, { State.reset with module := { State.reset.module with mainUp := true }, update := { State.reset.update with st := 3 } }, by decide +kernel⟩

theorem witness_UpdateResults_8 :
    ∃ (m : Master) (s : State),
    (s.writable m (obj 0x2E02 1) (.num 2) = true) ∧ (s.power.seqAt ≠ none ∨ s.updateState ≠ 3) :=
  ⟨.host, { State.reset with module := { State.reset.module with mainUp := true }, update := { State.reset.update with st := 6 } }, by decide +kernel⟩

theorem witness_UpdateResults_9 :
    ∃ (m : Master) (s : State),
    (s.writable m (obj 0x2E02 1) (.num 3) = true) ∧ (s.power.seqAt = none) ∧ (s.flashUp = true) ∧ (s.updateState = 3) :=
  ⟨.host, { State.reset with module := { State.reset.module with mainUp := true }, update := { State.reset.update with st := 3 } }, by decide +kernel⟩

theorem witness_UpdateResults_10 :
    ∃ (m : Master) (s : State),
    (s.writable m (obj 0x2E02 1) (.num 4) = true) ∧ (s.power.seqAt = none) ∧ (s.flashUp = true) ∧ (s.updateState = 4) :=
  ⟨.host, { State.reset with module := { State.reset.module with mainUp := true }, update := { State.reset.update with st := 4 } }, by decide +kernel⟩

theorem witness_UpdateResults_11 :
    ∃ (m : Master) (s : State),
    (s.writable m (obj 0x2E02 1) (.num 5) = true) ∧ (s.power.seqAt = none) ∧ (s.flashUp = true) ∧ (s.updateState = 7) :=
  ⟨.host, { State.reset with module := { State.reset.module with loader := true, state := .recovery } }, by decide +kernel⟩

theorem witness_UpdateResults_12 :
    ∃ (m : Master) (s : State),
    (s.writable m (obj 0x2E02 1) (.num 6) = true) ∧ (s.power.seqAt = none) ∧ (s.flashUp = true) ∧ (s.updateState = 0 ∨ s.updateState = 3 ∨ s.updateState = 6) :=
  ⟨.host, { State.reset with module := { State.reset.module with mainUp := true } }, by decide +kernel⟩

theorem witness_UpdateResults_13 :
    ∃ (s : State),
    (s.update.st = 5) ∧ (s.update.blocks < 127) :=
  ⟨{ State.reset with module := { State.reset.module with mainUp := true }, update := { State.reset.update with st := 5, blocks := 126 } }, by decide +kernel⟩

theorem witness_UpdateResults_14 :
    ∃ (s : State),
    (s.update.st = 5) ∧ (s.update.blocks = 127) :=
  ⟨{ State.reset with module := { State.reset.module with mainUp := true }, update := { State.reset.update with st := 5, blocks := 127 } }, by decide +kernel⟩

theorem witness_UpdateResults_15 :
    ∃ (u : Nat) (s : State),
    (s.update.watch = some u) ∧ (s.clk ≤ u + 30 * secTicks) :=
  ⟨3, { State.reset with module := { State.reset.module with mainUp := true }, update := { State.reset.update with st := 5, blocks := 128, watch := some 3 } }, by decide +kernel⟩

theorem witness_UpdateResults_16 :
    ∃ (m : Master) (slot : Nat) (image : List Byte) (s : State),
    (s.writable m (obj 0x2E05 (slot + 1)) (.bytes image) = true) ∧ (slot < 16) ∧ (s.flashUp = true) ∧ (s.pipe.banks.all (fun b => b.loading.all (fun p => p.1 != slot)) = true) :=
  ⟨.host, 15, [], { State.reset with module := { State.reset.module with mainUp := true } }, by decide +kernel⟩







theorem witness_SyncFrameAcceptance_1 :
    ∃ (data : List Byte) (s : State),
    (s.nodeUp = true) ∧ (s.side.nmt = .operational) ∧ (bitOf (s.nat (obj 0x1005 0)) 31 = false) ∧ (data.length ≤ 1) :=
  ⟨[7], { State.reset with module := { State.reset.module with mainUp := true }, side := { State.reset.side with nodeId := 5, nmt := .operational, rx := State.reset.side.rx.set 1 { primary := some [7], shadow := some [8] } } }, by decide +kernel⟩

theorem witness_SyncFrameAcceptance_2 :
    ∃ (data : List Byte) (s : State),
    (s.nodeUp = true) ∧ (s.side.nmt = .operational) ∧ (bitOf (s.nat (obj 0x1005 0)) 31 = false) ∧ (1 < data.length) :=
  ⟨[7, 8], { State.reset with module := { State.reset.module with mainUp := true }, side := { State.reset.side with nodeId := 5, nmt := .operational, rx := State.reset.side.rx.set 1 { primary := some [7], shadow := some [8] } } }, by decide +kernel⟩


theorem witness_OffWord :
    ∃ (v : Valve) (s : State),
    (s.seqs.shaped) ∧ (s.issuing v = some .off) :=
  ⟨255, { State.reset with module := { State.reset.module with mainUp := true }, seqs := { State.reset.seqs with seqs := State.reset.seqs.seqs.set 255 { running := true, pc := 0x40, issueAt := 12, mode := .hold, fast := true }, stores := State.reset.seqs.stores.set (255 % 32) { active := { image := List.replicate 0x100 0 ++ [0, 0, 0, 128] ++ List.replicate 3836 0, valid := true } } } }, ⟨by decide, by decide⟩, by decide +kernel⟩
















end Sys2Proof.Machine
end

section
/-!
What a command does, said by the relation `State.Does` of its outcome.
-/
set_option Elab.async false
set_option linter.all false

namespace Sys2Proof.Machine

open Sys2Proof State

/-- An outcome is a next state that is reached by changing at most the listed parts, with the invariant kept and local time not set back. -/
def NextDoes (ps : List Part) (s : State) (o : Host.Outcome State Fault Refusal) : Prop := ∃ t, o = .next t ∧ s.Does ps t

section
variable {ps qs : List Part} {s t u : State} {o r : Host.Outcome State Fault Refusal} {c : Prop} [Decidable c]

theorem State.Does.same : s.Does ps s := Does.refl ps s

/-- One operation `h`, done last, whose parts are among those listed. -/
theorem State.Does.via (h : t.Does qs u) (g : s.Does ps t) (k : qs ⊆ ps := by decide) : s.Does ps u := Does.step h k g

/-- One operation alone. -/
theorem State.Does.of (h : s.Does qs t) (k : qs ⊆ ps := by decide) : s.Does ps t := Does.mono h k

theorem State.Does.keep (x : State) (h : s.Does ps x) (k : s.Does ps x → s.Does ps u) : s.Does ps u := k h

theorem State.Does.ite (h : s.Does ps t) (k : s.Does ps u) : s.Does ps (if c then t else u) := by
  split
  · exact h
  · exact k

theorem NextDoes.next (h : s.Does ps t) : NextDoes ps s (.next t) := ⟨t, rfl, h⟩

/-- A local name for a state on the way. -/
theorem NextDoes.keep (x : State) (h : s.Does ps x) (k : s.Does ps x → NextDoes ps s o) : NextDoes ps s o := k h

theorem NextDoes.ite (h : NextDoes ps s o) (k : NextDoes ps s r) : NextDoes ps s (if c then o else r) := by
  split
  · exact h
  · exact k

end

end Sys2Proof.Machine
end


section
/-!
What every command does: one lemma for each `exec` function, by the rules of the operations it runs.
-/
set_option Elab.async false
set_option linter.all false

namespace Sys2Proof.Machine

open Sys2Proof State

/-! ### Timebase -/

theorem execSyncInterval_does (s : State) : NextDoes [.clk, .out, .od, .time, .cams, .backdrop,
    .strand, .side, .recorder] s (execSyncInterval s) := by
  unfold execSyncInterval
  refine .ite (.next .same) ?_
  extract_lets +onlyGivenNames s1 interval src s2 named src2 s3
  refine .keep s1 (.of (atClk_does ..)) fun h1 => ?_
  refine .keep s2 (.via (setTime_does _ _ id) h1) fun h2 => ?_
  refine .keep s3 (.ite h2 (.via (setTime_does _ _ id) h2)) fun h3 => ?_
  exact .next (.via (sendSync_does ..) (.via (claimRole_does ..) (.via (runElection_does ..) h3)))

theorem execTimeSync_does (link : Link) (t1 : Nat) (gm : Nat) (hops : Nat) (seq : Nat) (phase :
    Nat) (turnaround : Nat) (s : State) : NextDoes [.out, .od, .time, .cams, .backdrop, .strand,
    .side, .recorder] s (execTimeSync link t1 gm hops seq phase turnaround s) := by
  unfold execTimeSync
  extract_lets +onlyGivenNames l
  refine .ite (.next .same) ?_
  extract_lets +onlyGivenNames t2 src s1 s2 takes
  refine .keep s1 (.via (setTime_does _ _ (fun h => ⟨by simpa using h.1, by simpa using h.2⟩))
    .same) fun h1 => ?_
  refine .keep s2 (.via (sendLocal_does ..) h1) fun h2 => ?_
  refine .ite (.next h2) ?_
  extract_lets +onlyGivenNames s3
  refine .keep s3 (.ite h2 (.via (followGrandmaster_does ..) h2)) fun h3 => ?_
  exact .next (.via (pickUpstream_does ..) (.via (setTime_does _ _ (fun h => ⟨by simpa using h.1,
    by simpa using h.2⟩)) h3))

theorem execTimeReply_does (link : Link) (seq : Nat) (phase : Nat) (s : State) : NextDoes [.out,
    .od, .strand] s (execTimeReply link seq phase s) := by
  unfold execTimeReply
  exact .ite (.next (.of (sendLocal_does ..))) (.next .same)

theorem execTimeFollow_does (link : Link) (t4 : Nat) (seq : Nat) (s : State) : NextDoes [.freeCtr,
    .out, .od, .mem, .time, .cams, .pipe, .tracker, .drive, .seqs, .ledger, .loops, .backdrop,
    .strand, .side, .recorder] s (execTimeFollow link t4 seq s) := by
  unfold execTimeFollow
  extract_lets +onlyGivenNames l
  refine .ite (.next .same) ?_
  split
  · refine .ite (.next .same) ?_
    extract_lets +onlyGivenNames src s1
    refine .keep s1 (.via (setTime_does _ _ (fun h => ⟨by simpa using h.1, by simpa using h.2⟩))
      .same) fun h1 => ?_
    exact .ite (.next (.via (takeExchange_does ..) h1)) (.next h1)
  · exact .next .same

theorem execUpstreamTimeout_does (s : State) : NextDoes [.clk, .out, .od, .time, .cams, .backdrop,
    .strand, .side, .recorder] s (execUpstreamTimeout s) := by
  unfold execUpstreamTimeout
  split
  · extract_lets +onlyGivenNames last s1 src s2 s3 s4
    refine .keep s1 (.of (atClk_does ..)) fun h1 => ?_
    refine .keep s2 (.via (setTime_does _ _ (fun h => ⟨by simpa using h.1, by simpa using h.2⟩))
      h1) fun h2 => ?_
    refine .keep s3 (.ite (.via (enterSlack_does ..) h2) h2) fun h3 => ?_
    refine .keep s4 (.via (pickUpstream_does ..) h3) fun h4 => ?_
    exact .ite (.next (.via (setTime_does _ _ id) h4)) (.next h4)
  · exact .next .same

theorem execElectionTimeout_does (s : State) : NextDoes [.clk, .out, .od, .time, .cams, .backdrop,
    .strand, .side, .recorder] s (execElectionTimeout s) := by
  unfold execElectionTimeout
  split
  · refine .ite ?_ (.next .same)
    extract_lets +onlyGivenNames s1
    refine .keep s1 (.of (atClk_does ..)) fun h1 => ?_
    exact .next (.via (runElection_does ..) (.via (setTime_does _ _ id) h1))
  · exact .next .same

theorem execAnnounce_does (link : Link) (candidate : Nat) (designated : Bool) (hops : Nat) (s :
    State) : NextDoes [.out, .od, .time, .cams, .backdrop, .strand, .side, .recorder] s (execAnnounce
    link candidate designated hops s) := by
  unfold execAnnounce
  refine .ite (.next .same) ?_
  extract_lets +onlyGivenNames c src s1
  refine .keep s1 (.via (setTime_does _ _ id) .same) fun h1 => ?_
  exact .ite (.ite (.next h1) (.next (.via (becomeGrandmaster_does ..) h1))) (.ite (.next (.via
    (setTime_does _ _ id) h1)) (.next h1))

theorem execHoldoverLimit_does (s : State) : NextDoes [.clk, .out, .od, .time, .cams, .backdrop,
    .strand, .side, .recorder] s (execHoldoverLimit s) := by
  unfold execHoldoverLimit
  refine .ite ?_ (.next .same)
  extract_lets +onlyGivenNames s1
  refine .keep s1 (.of (atClk_does ..)) fun h1 => ?_
  exact .next (.via (raise_does ..) (.via (enterTime_does ..) (.via (setTime_does _ _ id) h1)))

theorem execLearnedFrequencyValid_does (s : State) : NextDoes [.clk, .time] s
    (execLearnedFrequencyValid s) := by
  unfold execLearnedFrequencyValid
  refine .ite ?_ (.next .same)
  extract_lets +onlyGivenNames s1
  refine .keep s1 (.of (atClk_does ..)) fun h1 => ?_
  exact .next (.via (setTime_does _ _ id) h1)

theorem execRootPllLockLost_does (s : State) : NextDoes [.freeCtr, .out, .od, .time, .pipe,
    .tracker, .drive, .seqs, .ledger, .loops, .power, .thermal, .backdrop, .module, .strand, .side,
    .recorder] s (execRootPllLockLost s) := by
  unfold execRootPllLockLost
  exact .ite (.next (.via (enterFault_does ..) (.via (raise_does ..) (.via (setTime_does _ _ id)
    .same)))) (.next .same)

theorem execSyncInEdge_does (rising : Bool) (phase : Nat) (s : State) : NextDoes [.freeCtr, .out,
    .od, .time, .cams] s (execSyncInEdge rising phase s) := by
  unfold execSyncInEdge
  extract_lets +onlyGivenNames src s1
  refine .keep s1 (.via (setTime_does _ _ id) .same) fun h1 => ?_
  refine .ite (.next h1) ?_
  extract_lets +onlyGivenNames s2 mode
  refine .keep s2 (.via (settleSyncOut_does ..) h1) fun h2 => ?_
  refine .ite (.next h2) ?_
  extract_lets +onlyGivenNames now before src2 s3 s4
  refine .keep s3 (.via (putNat_does ..) (.via (setTime_does _ _ id) h2)) fun h3 => ?_
  refine .keep s4 (.via (bump_does ..) h3) fun h4 => ?_
  clear_value before
  split
  · exact .ite (.ite (.next (.via (servo_does ..) h4)) (.next (.via (bump_does ..) h4))) (.next h4)
  · exact .next h4

theorem execSyncOutPulse_does (s : State) : NextDoes [.clk, .out, .time] s (execSyncOutPulse s) :=
    by
  unfold execSyncOutPulse
  split
  · refine .ite (.next .same) ?_
    extract_lets +onlyGivenNames s1 width s2
    refine .keep s1 (.of (atTick_does ..)) fun h1 => ?_
    refine .keep s2 (.ite h1 (Does.foldl (fun _ _ => (.of (pulseCc_does ..))) (.via (emit_does ..)
      h1))) fun h2 => ?_
    exact .next (.via (setTime_does _ _ id) h2)
  · exact .next .same

/-! ### Camera ports -/

theorem execLineTrigger_does (p : Port) (s : State) : NextDoes [.clk, .out, .od, .mem, .time,
    .cams, .pipe, .tracker, .ledger, .loops, .backdrop, .strand, .side, .recorder] s (execLineTrigger
    p s) := by
  unfold execLineTrigger
  extract_lets +onlyGivenNames c
  refine .ite (.next .same) ?_
  extract_lets +onlyGivenNames s1 s2 c2 s3 t c3 index inFrame s4 c4 h count c5 c6 s5
  refine .keep s1 (.of (atTick_does ..)) fun h1 => ?_
  refine .keep s2 (.ite (.via (beginStream_does ..) h1) h1) fun h2 => ?_
  refine .keep s3 (.via (expire_does ..) h2) fun h3 => ?_
  refine .keep s4 (.ite h3 (.via (beginFrame_does ..) h3)) fun h4 => ?_
  refine .keep s5 (.via (emit_does ..) (.via (putNat_does ..) (.via (setCam_does ..) h4))) fun h5
    => ?_
  exact .next (.via (settleCc_does ..) (.via (pulseCc_does ..) h5))

/-! ### Ejector drive -/

theorem execGateEdge_does (v : Valve) (s : State) : NextDoes [.clk, .freeCtr, .out, .od, .time,
    .drive, .seqs, .ledger, .backdrop, .strand, .side, .recorder] s (execGateEdge v s) := by
  unfold execGateEdge
  split
  · exact .next .same
  · extract_lets +onlyGivenNames s1 g st
    refine .keep s1 (.of (atTick_does ..)) fun h1 => ?_
    refine .ite (.next (.ite h1 (.via (setStore_does ..) h1))) ?_
    refine .ite ?_ (.ite (.next (.via (cancelQueued_does ..) h1)) (.next (.via (startShot_does ..)
      h1)))
    extract_lets +onlyGivenNames x s2
    refine .keep s2 (.via (setValve_does ..) h1) fun h2 => ?_
    exact .next (.via (bump_does ..) (.via (putNat_does ..) h2))

theorem execPairingTimeout_does (p : Port) (s : State) : NextDoes [.clk, .out, .od, .mem, .time,
    .cams, .pipe, .tracker, .ledger, .loops, .backdrop, .strand, .side, .recorder] s
    (execPairingTimeout p s) := by
  unfold execPairingTimeout
  extract_lets +onlyGivenNames c
  split
  · exact .next .same
  · refine .ite (.next .same) ?_
    extract_lets +onlyGivenNames s1
    refine .keep s1 (.of (atTick_does ..)) fun h1 => ?_
    exact .next (.via (settleStop_does ..) (.via (expire_does ..) h1))

theorem execLineStart_does (p : Port) (tick : Nat) (fval : Bool) (s : State) : NextDoes [.clk,
    .out, .od, .mem, .time, .cams, .pipe, .tracker, .ledger, .loops, .backdrop, .strand, .side,
    .recorder] s (execLineStart p tick fval s) := by
  unfold execLineStart
  refine .ite (.next .same) ?_
  extract_lets +onlyGivenNames s1 s2 c
  refine .keep s1 (.of (atTick_does ..)) fun h1 => ?_
  refine .keep s2 (.via (expire_does ..) h1) fun h2 => ?_
  refine .ite (.next h2) ?_
  split
  · exact .next (.via (bump_does ..) h2)
  · refine .ite (.next (.via (bump_does ..) h2)) ?_
    extract_lets +onlyGivenNames s3
    refine .keep s3 (.via (setCam_does ..) h2) fun h3 => ?_
    exact .next (.via (settleStop_does ..) (.via (pairInFval_does ..) h3))

theorem execLineComplete_does (p : Port) (clocks : List PixelClock) (s : State) : NextDoes [.out,
    .od, .mem, .cams, .pipe, .ledger, .loops, .backdrop, .strand, .side, .recorder] s
    (execLineComplete p clocks s) := by
  unfold execLineComplete
  split
  · exact .next .same
  · exact .next (.of (receiveLine_does ..))

theorem execShortLine_does (p : Port) (clocks : List PixelClock) (s : State) : NextDoes [.out, .od,
    .mem, .cams, .pipe, .ledger, .loops, .backdrop, .strand, .side, .recorder] s (execShortLine p
    clocks s) := by
  unfold execShortLine
  split
  · exact .next .same
  · exact .next (.of (receiveLine_does ..))

theorem execFifoOverrun_does (p : Port) (s : State) : NextDoes [.out, .od, .mem, .cams, .pipe,
    .tracker, .ledger, .loops, .backdrop, .strand, .side, .recorder] s (execFifoOverrun p s) := by
  unfold execFifoOverrun
  split
  · exact .next .same
  · extract_lets +onlyGivenNames x s1
    refine .keep s1 (.via (bump_does ..) (.of (setCam_does ..))) fun h1 => ?_
    exact .next (.via (settleStop_does ..) (.via (missLine_does ..) h1))

theorem execFvalFall_does (p : Port) (s : State) : NextDoes [.out, .od, .mem, .cams, .pipe,
    .ledger, .loops, .backdrop, .strand, .side, .recorder] s (execFvalFall p s) := by
  unfold execFvalFall
  refine .ite (.next .same) ?_
  extract_lets +onlyGivenNames c close s1
  refine .keep s1 (.of (setCam_does ..)) fun h1 => ?_
  exact .next (.via (closeReady_does ..) h1)

theorem execSettingsCommand_does (m : Master) (p : Port) (data : List Byte) (s : State) : NextDoes
    [.out, .od, .cams, .dict] s (execSettingsCommand m p data s) := by
  unfold execSettingsCommand
  exact .next (write_does (by decide) (by decide) (by decide) _ _ _ _ _ (.of (actSettings_does ..)))

theorem execRawTransmit_does (m : Master) (p : Port) (data : List Byte) (s : State) : NextDoes
    [.out, .od, .dict] s (execRawTransmit m p data s) := by
  unfold execRawTransmit
  exact .next (write_does (by decide) (by decide) (by decide) _ _ _ _ _ (.of (actRaw_does ..)))

theorem execSettingsTransmitStart_does (p : Port) (s : State) : NextDoes [.out, .cams] s
    (execSettingsTransmitStart p s) := by
  unfold execSettingsTransmitStart
  extract_lets +onlyGivenNames c
  split
  · refine .ite (.next .same) ?_
    extract_lets +onlyGivenNames c2 c3 c4
    exact .next (.via (emit_does ..) (.of (setCam_does ..)))
  · exact .next .same

theorem execSettingsTransmitEnd_does (p : Port) (s : State) : NextDoes [.clk, .od, .time, .cams] s
    (execSettingsTransmitEnd p s) := by
  unfold execSettingsTransmitEnd
  split
  · exact .next .same
  · extract_lets +onlyGivenNames s1 c due replies
    refine .keep s1 (.of (atClk_does ..)) fun h1 => ?_
    exact .next (.via (bump_does ..) (.via (setCam_does ..) h1))

theorem execSerialReceive_does (p : Port) (data : List Byte) (s : State) : NextDoes [.od, .cams] s
    (execSerialReceive p data s) := by
  unfold execSerialReceive
  refine .ite (.next .same) ?_
  extract_lets +onlyGivenNames c room term n
  exact .next (.via (bumpBy_does ..) (.of (setCam_does ..)))

theorem execReplyTimeout_does (p : Port) (s : State) : NextDoes [.clk, .out, .od, .time, .cams,
    .backdrop, .strand, .side, .recorder] s (execReplyTimeout p s) := by
  unfold execReplyTimeout
  extract_lets +onlyGivenNames c
  split
  · exact .next .same
  · extract_lets +onlyGivenNames s1
    refine .keep s1 (.of (atClk_does ..)) fun h1 => ?_
    exact .next (.via (raise_does ..) (.via (bump_does ..) (.via (setCam_does ..) h1)))

theorem execCc1WidthApply_does (p : Port) (s : State) : NextDoes [.cams] s (execCc1WidthApply p s)
    := by
  unfold execCc1WidthApply
  extract_lets +onlyGivenNames c
  split
  · exact .next .same
  · exact .ite (.next .same) (.next (.of (setCam_does ..)))

theorem execStartPort_does (m : Master) (p : Port) (s : State) : NextDoes [.out, .od, .cams,
    .backdrop, .strand, .dict, .side, .recorder] s (execStartPort m p s) := by
  unfold execStartPort
  exact .next (write_does (by decide) (by decide) (by decide) _ _ _ _ _ (.of (actStartPort_does
    ..)))

theorem execStartPlane_does (m : Master) (p : Port) (s : State) : NextDoes [.out, .od, .cams,
    .backdrop, .strand, .dict, .side, .recorder] s (execStartPlane m p s) := by
  unfold execStartPlane
  exact .next (write_does (by decide) (by decide) (by decide) _ _ _ _ _ (.of (actStartPlane_does
    ..)))

theorem execStopStream_does (m : Master) (p : Port) (s : State) : NextDoes [.out, .od, .mem, .cams,
    .pipe, .ledger, .loops, .backdrop, .strand, .dict, .side, .recorder] s (execStopStream m p s) :=
    by
  unfold execStopStream
  exact .next (write_does (by decide) (by decide) (by decide) _ _ _ _ _ (.of (actStopStream_does
    ..)))

theorem execPoclDetectionDone_does (p : Port) (loadA : Bool) (loadB : Bool) (s : State) : NextDoes
    [.cams] s (execPoclDetectionDone p loadA loadB s) := by
  unfold execPoclDetectionDone
  extract_lets +onlyGivenNames c
  refine .ite (.next .same) ?_
  extract_lets +onlyGivenNames b
  exact .next (.of (setCam_does ..))

theorem execPixelClockStable_does (p : Port) (kHz : Nat) (s : State) : NextDoes [.out, .od, .cams,
    .backdrop, .strand, .side, .recorder] s (execPixelClockStable p kHz s) := by
  unfold execPixelClockStable
  extract_lets +onlyGivenNames c s1
  refine .keep s1 (.ite (.of (setCam_does ..)) .same) fun h1 => ?_
  refine .ite (.next h1) ?_
  extract_lets +onlyGivenNames line
  refine .ite (.next (.via (failStart_does ..) h1)) ?_
  extract_lets +onlyGivenNames block x s2
  refine .keep s2 (.via (setCam_does ..) h1) fun h2 => ?_
  exact .next (.ite h2 (.via (emit_does ..) h2))

theorem execPixelClockTimeout_does (p : Port) (s : State) : NextDoes [.clk, .out, .od, .time,
    .cams, .backdrop, .strand, .side, .recorder] s (execPixelClockTimeout p s) := by
  unfold execPixelClockTimeout
  extract_lets +onlyGivenNames c
  exact .ite (.next .same) (.next (.via (failStart_does ..) (.of (atClk_does ..))))

theorem execStartupBlockSent_does (p : Port) (s : State) : NextDoes [.clk, .time, .cams] s
    (execStartupBlockSent p s) := by
  unfold execStartupBlockSent
  extract_lets +onlyGivenNames c
  refine .ite (.next .same) ?_
  extract_lets +onlyGivenNames s1
  refine .keep s1 (.of (atClk_does ..)) fun h1 => ?_
  exact .next (.via (setCam_does ..) h1)

theorem execSettleElapsed_does (p : Port) (s : State) : NextDoes [.clk, .time, .cams] s
    (execSettleElapsed p s) := by
  unfold execSettleElapsed
  extract_lets +onlyGivenNames c
  refine .ite (.next .same) ?_
  extract_lets +onlyGivenNames s1 s2 first
  refine .keep s1 (.of (atClk_does ..)) fun h1 => ?_
  refine .keep s2 (.via (setCam_does ..) h1) fun h2 => ?_
  split
  · exact .ite (.next (.via (arm_does ..) (.via (arm_does ..) h2))) (.next h2)
  · exact .next (.via (arm_does ..) h2)

theorem execPoclTrip_does (p : Port) (current : Nat) (s : State) : NextDoes [.out, .od, .cams,
    .backdrop, .strand, .side, .recorder] s (execPoclTrip p current s) := by
  unfold execPoclTrip
  extract_lets +onlyGivenNames c
  refine .ite (.next .same) ?_
  extract_lets +onlyGivenNames trips s1
  refine .keep s1 (.of (setCam_does ..)) fun h1 => ?_
  exact .next (.via (raise_does ..) (.via (bump_does ..) h1))

theorem execPoclReapply_does (p : Port) (s : State) : NextDoes [.clk, .time, .cams] s
    (execPoclReapply p s) := by
  unfold execPoclReapply
  extract_lets +onlyGivenNames c
  exact .ite (.next .same) (.next (.via (setCam_does ..) (.of (atClk_does ..))))

theorem execPoclRearm_does (m : Master) (p : Port) (s : State) : NextDoes [.out, .od, .cams, .dict]
    s (execPoclRearm m p s) := by
  unfold execPoclRearm
  exact .next (write_does (by decide) (by decide) (by decide) _ _ _ _ _ (.of (actPoclRearm_does
    ..)))

theorem execPixelClockLoss_does (p : Port) (s : State) : NextDoes [.out, .od, .mem, .cams, .pipe,
    .tracker, .ledger, .loops, .backdrop, .strand, .side, .recorder] s (execPixelClockLoss p s) := by
  unfold execPixelClockLoss
  extract_lets +onlyGivenNames c
  refine .ite (.next .same) ?_
  extract_lets +onlyGivenNames s1
  refine .keep s1 (.of (losePort_does ..)) fun h1 => ?_
  split
  · exact .next (.via (settleStop_does ..) h1)
  · exact .next (.via (settleEngine_does ..) (.via (settleStop_does ..) (.via (missLine_does ..)
      (.via (setCam_does ..) h1))))

theorem execPortRecovery_does (p : Port) (kHz : Nat) (s : State) : NextDoes [.out, .cams] s
    (execPortRecovery p kHz s) := by
  unfold execPortRecovery
  extract_lets +onlyGivenNames c s1
  refine .keep s1 (.ite (.of (setCam_does ..)) .same) fun h1 => ?_
  refine .ite (.next h1) ?_
  extract_lets +onlyGivenNames block s2
  refine .keep s2 (.via (setCam_does ..) h1) fun h2 => ?_
  exact .next (.ite h2 (.via (emit_does ..) h2))

theorem execPortRejoin_does (p : Port) (s : State) : NextDoes [.out, .od, .cams, .backdrop,
    .strand, .side, .recorder] s (execPortRejoin p s) := by
  unfold execPortRejoin
  extract_lets +onlyGivenNames c
  refine .ite (.next .same) ?_
  extract_lets +onlyGivenNames s1
  refine .keep s1 (.of (setCam_does ..)) fun h1 => ?_
  exact .next (.via (raise_does ..) h1)

/-! ### Frame and object pipeline, captures -/

theorem execFixStripe_does (s : State) : NextDoes [.out, .od, .mem, .pipe, .ledger, .loops,
    .backdrop, .strand, .side, .recorder] s (execFixStripe s) := by
  unfold execFixStripe
  split
  · exact .next .same
  · extract_lets +onlyGivenNames e
    split
    · exact .next .same
    · extract_lets +onlyGivenNames both ch bits_ ref k t new done from_ src s1
      refine .keep s1 (.via (Does.pipe _ id) .same) fun h1 => ?_
      exact .ite (.next (.via (setEngine_does ..) h1)) (.next (.via (settleFix_does ..) (.via
        (finishFixLine_does ..) (.via (setEngine_does ..) h1))))

theorem execContextTableWrite_does (m : Master) (p : Port) (sub : Nat) (v : Val) (s : State) :
    NextDoes [.out, .od, .pipe, .dict] s (execContextTableWrite m p sub v s) := by
  unfold execContextTableWrite
  exact .next (write_does (by decide) (by decide) (by decide) _ _ _ _ _ (.of (actContext_does ..)))

theorem execGradeFrameTake_does (s : State) : NextDoes [.out, .od, .pipe, .backdrop, .strand,
    .side, .recorder] s (execGradeFrameTake s) := by
  unfold execGradeFrameTake
  split
  · extract_lets +onlyGivenNames s1 cost
    refine .keep s1 (.ite (.of (swapBanks_does ..)) .same) fun h1 => ?_
    exact .next (.via (Does.pipe _ id) h1)
  · exact .next .same

theorem execGradeFrameDone_does (s : State) : NextDoes [.clk, .od, .mem, .time, .pipe, .ledger,
    .loops, .recorder] s (execGradeFrameDone s) := by
  unfold execGradeFrameDone
  split
  · exact .next .same
  · extract_lets +onlyGivenNames s1 this
    refine .keep s1 (.of (atClk_does ..)) fun h1 => ?_
    split
    · exact .next (.via (Does.pipe _ id) h1)
    · extract_lets +onlyGivenNames cost s2 src s3
      refine .keep s2 (.via (gradeFrame_does ..) h1) fun h2 => ?_
      refine .keep s3 (.via (Does.pipe _ id) h2) fun h3 => ?_
      exact .next (.via (settleGrade_does ..) (.via (releaseFrames_does ..) (.via (pruneLines_does
        ..) h3)))

theorem execObjectClassified_does (s : State) : NextDoes [.clk, .freeCtr, .out, .od, .time, .pipe,
    .tracker, .strand, .recorder] s (execObjectClassified s) := by
  unfold execObjectClassified
  extract_lets +onlyGivenNames since s1
  refine .keep s1 ?_ fun h1 => ?_
  · unfold s1
    split
    · exact .via (takeJob_does ..) (.of (atClk_does ..))
    · exact .same
  split
  · exact .next h1
  · extract_lets +onlyGivenNames image s2 src s3
    refine .keep s2 (.via (atClk_does ..) h1) fun h2 => ?_
    refine .keep s3 (.via (Does.pipe _ id) h2) fun h3 => ?_
    split
    extract_lets +onlyGivenNames fs
    exact .next (.via (takeJob_does ..) (.via (deliver_does ..) (Does.pairSnd (by assumption) (.via
      (draw_does ..) h3))))

theorem execBankImageWrite_does (m : Master) (bank : Nat) (image : List Byte) (s : State) :
    NextDoes [.out, .od, .pipe, .backdrop, .strand, .dict, .side, .recorder] s (execBankImageWrite m
    bank image s) := by
  unfold execBankImageWrite
  exact .next (write_does (by decide) (by decide) (by decide) _ _ _ _ _ (.of (actBankImage_does
    ..)))

theorem execLibraryLoad_does (m : Master) (bank : Nat) (slot : Nat) (s : State) : NextDoes [.out,
    .od, .pipe, .dict, .dma] s (execLibraryLoad m bank slot s) := by
  unfold execLibraryLoad
  exact .next (write_does (by decide) (by decide) (by decide) _ _ _ _ _ (.of (actLibraryLoad_does
    ..)))

theorem execLibraryLoadDone_does (bank : Nat) (s : State) : NextDoes [.out, .od, .pipe, .backdrop,
    .strand, .side, .dma, .recorder] s (execLibraryLoadDone bank s) := by
  unfold execLibraryLoadDone
  split
  · exact .next .same
  · refine .ite (.next .same) ?_
    extract_lets +onlyGivenNames s1
    refine .keep s1 (.of (takeImage_does ..)) fun h1 => ?_
    exact .next (.via (fwEnd_does ..) (.via (Does.pipe _ (fun h => ⟨by simpa using h.1, by simpa
      using h.2⟩)) h1))

theorem execBankSwapRequest_does (m : Master) (s : State) : NextDoes [.out, .od, .pipe, .backdrop,
    .strand, .dict, .side, .recorder] s (execBankSwapRequest m s) := by
  unfold execBankSwapRequest
  exact .next (write_does (by decide) (by decide) (by decide) _ _ _ _ _ (.of (actBankSwap_does ..)))

theorem execCaptureDark_does (m : Master) (s : State) : NextDoes [.out, .od, .pipe, .backdrop,
    .strand, .dict, .side, .recorder] s (execCaptureDark m s) := by
  unfold execCaptureDark
  exact .next (write_does (by decide) (by decide) (by decide) _ _ _ _ _ (.of (actCapture_does ..)))

theorem execCaptureGrey_does (m : Master) (s : State) : NextDoes [.out, .od, .pipe, .backdrop,
    .strand, .dict, .side, .recorder] s (execCaptureGrey m s) := by
  unfold execCaptureGrey
  exact .next (write_does (by decide) (by decide) (by decide) _ _ _ _ _ (.of (actCapture_does ..)))

theorem execCaptureBackdrop_does (m : Master) (s : State) : NextDoes [.out, .od, .pipe, .backdrop,
    .strand, .dict, .side, .recorder] s (execCaptureBackdrop m s) := by
  unfold execCaptureBackdrop
  exact .next (write_does (by decide) (by decide) (by decide) _ _ _ _ _ (.of (actCapture_does ..)))

theorem execCaptureComplete_does (s : State) : NextDoes [.clk, .freeCtr, .out, .od, .mem, .time,
    .cams, .pipe, .tracker, .drive, .seqs, .ledger, .loops, .power, .thermal, .backdrop, .module,
    .strand, .dict, .side, .pins, .dma, .recorder, .update] s (execCaptureComplete s) := by
  unfold execCaptureComplete
  split
  · exact .next .same
  · refine .ite (.next (.of (captureEnds_does ..))) ?_
    refine .ite (.next .same) ?_
    extract_lets +onlyGivenNames tables
    split
    · exact .next (.of (captureEnds_does ..))
    · extract_lets +onlyGivenNames s1
      refine .keep s1 (Does.foldl (fun _ _ => (.of (putTable_does ..))) .same) fun h1 => ?_
      exact .next (.via (captureEnds_does ..) h1)

theorem execCaptureTimeout_does (s : State) : NextDoes [.clk, .freeCtr, .out, .od, .time, .pipe,
    .drive, .ledger, .loops, .thermal, .backdrop, .module, .strand, .side, .recorder] s
    (execCaptureTimeout s) := by
  unfold execCaptureTimeout
  split
  · exact .next .same
  · exact .next (.via (captureEnds_does ..) (.of (atClk_does ..)))

/-! ### Tracker, verdicts and Ferry -/

theorem execFixArrival_does (x : Sighting) (s : State) : NextDoes [.out, .od, .pipe, .tracker,
    .backdrop, .strand, .side, .recorder] s (execFixArrival x s) := by
  unfold execFixArrival
  refine .ite (.next .same) ?_
  extract_lets +onlyGivenNames src s1 s2 face cr cs
  refine .keep s1 (.via (Does.pipe _ id) .same) fun h1 => ?_
  refine .keep s2 (.via (twins_does ..) h1) fun h2 => ?_
  split
  · refine .ite (.next h2) ?_
    refine .ite (.next (.via (bump_does ..) h2)) ?_
    split
    · exact .next (.via (tableFull_does ..) h2)
    · exact .next (.via (predict_does ..) (.via (bump_does ..) (.via (openRec_does (by assumption))
        h2)))
  · refine .ite ?_ ?_
    · extract_lets +onlyGivenNames rest
      exact .next (.via (bump_does ..) (.via (Does.tracker _ id) h2))
    · split
      · exact .next h2
      · extract_lets +onlyGivenNames u s3
        refine .keep s3 (.via (learn_does ..) (.via (bump_does ..) h2)) fun h3 => ?_
        exact .next (.via (predict_does ..) h3)

theorem execUpperSightingArrival_does (x : Sighting) (image : ObjImage) (s : State) : NextDoes
    [.out, .od, .pipe, .tracker, .backdrop, .strand, .side, .recorder] s (execUpperSightingArrival x
    image s) := by
  unfold execUpperSightingArrival
  refine .ite (.next .same) ?_
  extract_lets +onlyGivenNames src s1 s2 face cands
  refine .keep s1 (.via (Does.pipe _ id) .same) fun h1 => ?_
  refine .keep s2 (.via (twins_does ..) h1) fun h2 => ?_
  split
  · refine .ite (.next (.via (settleSighting_does ..) h2)) ?_
    refine .ite ?_ ?_
    · extract_lets +onlyGivenNames pr
      split
      · exact .next (.via (settleSighting_does ..) (.via (tableFull_does ..) h2))
      · exact .next (.via (predictIfLost_does ..) (.via (placeObject_does ..) (.via (bump_does ..)
          (.via (openRec_does (by assumption)) h2))))
    · extract_lets +onlyGivenNames h
      exact .next (.via (settleSighting_does ..) (.via (Does.tracker _ id) h2))
  · split
    · exact .next h2
    · refine .ite ?_ (.next (.via (settleSighting_does ..) (.via (bump_does ..) (.via (dropRec_does
        ..) h2))))
      extract_lets +onlyGivenNames f s3 s4
      refine .keep s3 (.via (learn_does ..) (.via (bump_does ..) h2)) fun h3 => ?_
      refine .keep s4 (.via (predict_does ..) h3) fun h4 => ?_
      exact .next (.via (placeIfLive_does ..) h4)

theorem execFixDeadline_does (handle : Nat) (s : State) : NextDoes [.clk, .out, .od, .time,
    .tracker, .backdrop, .strand, .side, .recorder] s (execFixDeadline handle s) := by
  unfold execFixDeadline
  split
  · exact .ite (.next (.via (predictUpperAlone_does ..) (.of (atTick_does ..)))) (.next .same)
  · exact .next .same

theorem execFireDecision_does (handle : Nat) (s : State) : NextDoes [.clk, .freeCtr, .out, .od,
    .time, .tracker, .drive, .backdrop, .strand, .side, .recorder] s (execFireDecision handle s) := by
  unfold execFireDecision
  split
  · split
    · extract_lets +onlyGivenNames s1
      refine .keep s1 (.of (atTick_does ..)) fun h1 => ?_
      split
      extract_lets +onlyGivenNames r
      refine .ite ?_ ?_
      · extract_lets +onlyGivenNames c s2 r3 last
        refine .keep s2 ?_ fun h2 => ?_
        · unfold s2
          refine .via (bumpBy_does ..) ?_
          refine Does.pair (by assumption) ?_
          split
          · dsimp only
            exact .via (bump_does ..) h1
          · dsimp only
            exact .via (raiseSlow_does ..) (.via (bump_does ..) h1)
        refine .keep r3.1 ?_ fun h3 => ?_
        · unfold r3
          refine Does.foldlFst (fun _ _ _ => ?_) ?_
          · dsimp only
            exact .of (fireOne_does ..)
          · dsimp -zeta only
            exact h2
        exact .next (.via (setRec_does ..) h3)
      · refine .next ?_
        refine .via (setRec_does ..) ?_
        refine Does.pair (by assumption) ?_
        split
        · dsimp only
          exact .via (bump_does ..) h1
        · dsimp only
          exact .via (raiseSlow_does ..) (.via (bump_does ..) h1)
    · exact .next .same
  · exact .next .same

theorem execRecordRetire_does (handle : Nat) (s : State) : NextDoes [.clk, .time, .tracker] s
    (execRecordRetire handle s) := by
  unfold execRecordRetire
  split
  · exact .ite (.next (.via (dropRec_does ..) (.of (atTick_does ..)))) (.next .same)
  · exact .next .same

theorem execDropGeometryWrite_does (m : Master) (sub : Nat) (value : Nat) (s : State) : NextDoes
    [.out, .od, .tracker, .drive, .backdrop, .strand, .dict, .side, .recorder] s
    (execDropGeometryWrite m sub value s) := by
  unfold execDropGeometryWrite
  exact .next (write_does (by decide) (by decide) (by decide) _ _ _ _ _ (.of (actDropGeometry_does
    ..)))

theorem execPlacementWrite_does (m : Master) (group : Nat) (value : Nat) (s : State) : NextDoes
    [.out, .od, .pipe, .tracker, .backdrop, .strand, .dict, .side, .recorder] s (execPlacementWrite m
    group value s) := by
  unfold execPlacementWrite
  exact .next (write_does (by decide) (by decide) (by decide) _ _ _ _ _ (.of (actPlacement_does
    ..)))

/-- The run of the governor once local time stands at its instant (05 R172): the load is measured and a group changes its placement. -/
def governorStep (s : State) : Host.Outcome State Fault Refusal :=
  let s := { s with tracker := { s.tracker with governorAt := s.clk } }
  let load := s.objLoad
  let high := s.nat (obj 0x2605 (if s.thermal.derated then 5 else 3))
  let low := load < s.nat (obj 0x2605 4)
  let s := { s with tracker := { s.tracker with
    lowSince := if low then s.tracker.lowSince.or (some s.clk) else none } }
  let groups := (List.range s.laneGroups).filter (fun g => !(s.placementOf g).pinned)
  if high < load then
    let own := groups.filter (fun g => s.targetOf g == s.strand.id && 0 < s.groupObjects g)
    let best := own.foldl (fun (b : Option Nat) g =>
      match b with
      | none => some g
      | some h => if s.groupObjects h < s.groupObjects g then some g else some h) none
    let to_ := s.takers.foldl (fun (b : Option (Nat × Nat)) c =>
      match b with
      | none => some c
      | some d => if c.2 < d.2 then some c else some d) none
    match best, to_ with
    | some g, some (id, _) => .next (s.movePlacement g (some id) false 0x5006 (obj 0x260E 0x0C))
    | some _, none => .next s
    | none, _ => .next (s.returnGroup groups)
  else .next (s.returnGroup groups)

theorem execGovernorRun_eq (s : State) : execGovernorRun s =
    if !s.module.mainUp || s.nat (obj 0x2605 2) = 0 then .next s
    else governorStep (s.atClk (s.tracker.governorAt + 10 * msTicks)) := rfl

theorem governorStep_does {s t : State} (h1 : s.Does [.clk, .out, .od, .time, .pipe, .tracker,
    .backdrop, .strand, .side, .recorder] t) : NextDoes [.clk, .out, .od, .time, .pipe, .tracker,
    .backdrop, .strand, .side, .recorder] s (governorStep t) := by
  unfold governorStep
  extract_lets +onlyGivenNames src s2 load high low src2 s3 groups
  refine .keep s2 (.via (Does.tracker _ id) h1) fun h2 => ?_
  refine .keep s3 (.via (Does.tracker _ id) h2) fun h3 => ?_
  refine .ite ?_ (.next (.via (returnGroup_does ..) h3))
  extract_lets +onlyGivenNames own best to_
  clear_value best to_
  split
  · exact .next (.via (movePlacement_does ..) h3)
  · exact .next h3
  · exact .next (.via (returnGroup_does ..) h3)

theorem execGovernorRun_does (s : State) : NextDoes [.clk, .out, .od, .time, .pipe, .tracker,
    .backdrop, .strand, .side, .recorder] s (execGovernorRun s) := by
  rw [execGovernorRun_eq]
  exact .ite (.next .same) (governorStep_does (.of (atClk_does ..)))

theorem execChipFrame_does (src : Nat) (handle : Nat) (epoch : Nat) (segment : Nat) (count : Nat)
    (sendTick : Nat) (data : List Byte) (s : State) : NextDoes [.out, .od, .pipe, .strand, .recorder]
    s (execChipFrame src handle epoch segment count sendTick data s) := by
  unfold execChipFrame
  refine .ite (.next .same) ?_
  extract_lets +onlyGivenNames same c c2 rest
  exact .ite (.next (.via (takeChip_does ..) (.via (Does.strand _ id) .same))) (.next (.via
    (Does.strand _ id) .same))

theorem execChipReassemblyTimeout_does (src : Nat) (handle : Nat) (epoch : Nat) (s : State) :
    NextDoes [.clk, .out, .od, .time, .backdrop, .strand, .side, .recorder] s
    (execChipReassemblyTimeout src handle epoch s) := by
  unfold execChipReassemblyTimeout
  extract_lets +onlyGivenNames this
  split
  · extract_lets +onlyGivenNames s1
    refine .keep s1 (.of (atClk_does ..)) fun h1 => ?_
    exact .next (.via (raiseSlow_does ..) (.via (bump_does ..) (.via (Does.strand _ id) h1)))
  · exact .next .same

theorem execVerdictMessage_does (src : Nat) (sendTick : Nat) (handle : Nat) (epoch : Nat) (cls :
    Nat) (conf : Nat) (tail : VerdictTail) (s : State) : NextDoes [.od, .tracker, .recorder] s
    (execVerdictMessage src sendTick handle epoch cls conf tail s) := by
  unfold execVerdictMessage
  exact .ite (.next .same) (.next (.via (verdict_does ..) (.of (roundTrip_does ..))))

theorem execRefusalMessage_does (src : Nat) (sendTick : Nat) (handle : Nat) (epoch : Nat) (cause :
    Nat) (s : State) : NextDoes [.out, .od, .pipe, .tracker, .backdrop, .strand, .side, .recorder] s
    (execRefusalMessage src sendTick handle epoch cause s) := by
  unfold execRefusalMessage
  refine .ite (.next .same) ?_
  extract_lets +onlyGivenNames s1
  refine .keep s1 (.via (raiseSlow_does ..) (.via (bump_does ..) (.of (roundTrip_does ..)))) fun h1
    => ?_
  split
  · exact .next h1
  · exact .ite (.next h1) (.next (.via (reissueTo_does ..) h1))

theorem execFireMessage_does (src : Nat) (valve : Nat) (ta : Nat) (shotEnd : Nat) (handle : Nat)
    (conf : Nat) (cover : Bool) (s : State) : NextDoes [.freeCtr, .out, .od, .drive, .backdrop,
    .strand, .side, .recorder] s (execFireMessage src valve ta shotEnd handle conf cover s) := by
  unfold execFireMessage
  refine .ite (.next .same) ?_
  extract_lets +onlyGivenNames e w
  refine .ite (.next (.via (raiseSlow_does ..) (.of (bump_does ..)))) ?_
  extract_lets +onlyGivenNames i o s1
  refine .keep s1 (.of (bump_does ..)) fun h1 => ?_
  refine .ite (.next (.via (bump_does ..) h1)) ?_
  refine .ite (.next h1) ?_
  refine .ite (.next (.via (raiseSlow_does ..) (.via (bump_does ..) h1))) ?_
  extract_lets +onlyGivenNames req r
  refine .ite (.next (.via (bump_does ..) h1)) ?_
  refine .ite (.next (.via (request_does ..) h1)) ?_
  extract_lets +onlyGivenNames s2 en ks
  refine .keep s2 (.via (bump_does ..) h1) fun h2 => ?_
  exact .next (Does.foldl (fun _ _ => (.of (request_does ..))) h2)

theorem execFloorRecompute_does (s : State) : NextDoes [.clk, .od, .time, .tracker] s
    (execFloorRecompute s) := by
  unfold execFloorRecompute
  exact .ite (.next .same) (.next (.via (recomputeFloors_does ..) (.of (atClk_does ..))))

theorem execDeferralLimit_does (v : Valve) (s : State) : NextDoes [.clk, .freeCtr, .out, .od,
    .time, .drive, .seqs, .backdrop, .strand, .side, .recorder] s (execDeferralLimit v s) := by
  unfold execDeferralLimit
  split
  · extract_lets +onlyGivenNames s1
    refine .keep s1 (.of (atTick_does ..)) fun h1 => ?_
    exact .next (.via (cancelled_does ..) (.via (abortShot_does ..) h1))
  · split
    · exact .next (.of (cancelQueued_does ..))
    · exact .next .same

theorem execKinkWindowOpen_does (v : Valve) (s : State) : NextDoes [.clk, .time, .seqs] s
    (execKinkWindowOpen v s) := by
  unfold execKinkWindowOpen
  split
  · refine .ite (.next .same) ?_
    extract_lets +onlyGivenNames s1 ok
    refine .keep s1 (.of (atTick_does ..)) fun h1 => ?_
    exact .next (.via (setSeq_does ..) h1)
  · exact .next .same

theorem execKinkWindowEnd_does (v : Valve) (samples : List Int) (s : State) : NextDoes [.clk, .out,
    .od, .time, .drive, .seqs, .ledger, .backdrop, .strand, .side, .recorder] s (execKinkWindowEnd v
    samples s) := by
  unfold execKinkWindowEnd
  split
  · refine .ite (.next .same) ?_
    extract_lets +onlyGivenNames s1 q s2
    refine .keep s1 (.of (atTick_does ..)) fun h1 => ?_
    refine .keep s2 (.via (setSeq_does ..) h1) fun h2 => ?_
    refine .ite (.next (.via (bump_does ..) h2)) ?_
    split
    · exact .next (.via (ledgerQualify_does ..) (.via (bump_does ..) (.via (bump_does ..) h2)))
    · extract_lets +onlyGivenNames delta s3 dev
      refine .keep s3 (.via (ledgerQualify_does ..) h2) fun h3 => ?_
      exact .next (.ite (.via (outlierKink_does ..) h3) (.via (acceptKink_does ..) h3))
  · exact .next .same

theorem execThermalUpdate_does (squares : List Nat) (s : State) : NextDoes [.clk, .out, .od, .time,
    .drive, .seqs, .backdrop, .strand, .side, .recorder] s (execThermalUpdate squares s) := by
  unfold execThermalUpdate
  refine .ite ?_ (.next .same)
  extract_lets +onlyGivenNames s1 valves src s2
  refine .keep s1 (.of (atClk_does ..)) fun h1 => ?_
  refine .keep s2 (.via (Does.drive _ (fun h => ⟨by simpa [s1, valves] using h.1, by simpa [s1,
    valves] using h.2⟩)) h1) fun h2 => ?_
  exact .next (Does.foldl (fun _ _ => (.of (coilLimits_does ..))) h2)

theorem execValveEnDeassert_does (s : State) : NextDoes [.freeCtr, .out, .od, .drive, .seqs,
    .backdrop, .strand, .side, .pins, .recorder] s (execValveEnDeassert s) := by
  unfold execValveEnDeassert
  refine .ite ?_ (.next .same)
  extract_lets +onlyGivenNames src s1 s2
  refine .keep s1 (.via (settleEnOut_does ..) (.via (Does.drive _ id) .same)) fun h1 => ?_
  refine .keep s2 (.via (fastDecay_does ..) (.via (abortAll_does ..) h1)) fun h2 => ?_
  exact .next (.via (raise_does ..) h2)

theorem execValveEnAssert_does (s : State) : NextDoes [.out, .od, .drive, .backdrop, .strand,
    .side, .pins, .recorder] s (execValveEnAssert s) := by
  unfold execValveEnAssert
  exact .ite (.next .same) (.next (.via (raise_does ..) (.via (settleEnOut_does ..) (.via
    (Does.drive _ id) .same))))

theorem execValveEnSettled_does (s : State) : NextDoes [.clk, .time, .drive] s (execValveEnSettled
    s) := by
  unfold execValveEnSettled
  refine .ite ?_ (.next .same)
  extract_lets +onlyGivenNames s1
  refine .keep s1 (.of (atClk_does ..)) fun h1 => ?_
  exact .next (.via (Does.drive _ id) h1)

theorem execGroupOvercurrent_does (g : Group) (s : State) : NextDoes [.freeCtr, .out, .od, .drive,
    .seqs, .backdrop, .strand, .side, .recorder] s (execGroupOvercurrent g s) := by
  unfold execGroupOvercurrent
  refine .ite ?_ (.next .same)
  extract_lets +onlyGivenNames s1 s2 trips x s3
  refine .keep s1 (.of (abortThese_does ..)) fun h1 => ?_
  refine .keep s2 (.via (raise_does ..) h1) fun h2 => ?_
  refine .keep s3 (.via (setGroup_does ..) h2) fun h3 => ?_
  exact .next (.ite (.via (loseGroup_does ..) h3) h3)

theorem execCoilShort_does (v : Valve) (s : State) : NextDoes [.freeCtr, .out, .od, .drive, .seqs,
    .backdrop, .strand, .side, .recorder] s (execCoilShort v s) := by
  unfold execCoilShort
  exact .ite (.next (.via (raise_does ..) (.via (setAvail_does ..) (.of (stopDrive_does ..)))))
    (.next .same)

theorem execValveStateWrite_does (m : Master) (v : Valve) (value : Nat) (s : State) : NextDoes
    [.out, .od, .drive, .dict] s (execValveStateWrite m v value s) := by
  unfold execValveStateWrite
  exact .next (write_does (by decide) (by decide) (by decide) _ _ _ _ _ (.of (actValveState_does
    ..)))

theorem execGroupRestore_does (m : Master) (g : Group) (s : State) : NextDoes [.out, .od, .drive,
    .backdrop, .strand, .dict, .side, .recorder] s (execGroupRestore m g s) := by
  unfold execGroupRestore
  exact .next (write_does (by decide) (by decide) (by decide) _ _ _ _ _ (.of (actGroupRestore_does
    ..)))

theorem execTestShot_does (m : Master) (s : State) : NextDoes [.freeCtr, .out, .od, .drive,
    .backdrop, .strand, .dict, .side, .recorder] s (execTestShot m s) := by
  unfold execTestShot
  exact .next (write_does (by decide) (by decide) (by decide) _ _ _ _ _ (.of (actTestShot_does ..)))

/-! ### Sequencers and their stores -/

theorem execNop_does (v : Valve) (s : State) : NextDoes [.clk, .time, .seqs] s (execNop v s) := by
  unfold execNop
  split
  · exact .next (.via (oneStep_does ..) (.of (atIssue_does ..)))
  · exact .next .same

theorem execBoost_does (v : Valve) (s : State) : NextDoes [.clk, .od, .time, .drive, .seqs] s
    (execBoost v s) := by
  unfold execBoost
  split
  · extract_lets +onlyGivenNames s1 q g gs target first s2 s3
    refine .keep s1 (.of (atIssue_does ..)) fun h1 => ?_
    refine .keep s2 (.via (setSeq_does ..) h1) fun h2 => ?_
    refine .keep s3 (.via (setGroup_does ..) h2) fun h3 => ?_
    exact .next (.via (grant_does ..) h3)
  · exact .next .same

theorem execBoostPhaseEnd_does (v : Valve) (tick : Nat) (energy : Nat) (s : State) : NextDoes
    [.clk, .od, .time, .drive, .seqs, .ledger] s (execBoostPhaseEnd v tick energy s) := by
  unfold execBoostPhaseEnd
  extract_lets +onlyGivenNames late
  refine .ite ?_ (.next .same)
  extract_lets +onlyGivenNames s1 q g gs x s2 s3 x2 s4 d x3 s5
  refine .keep s1 (.of (atTick_does ..)) fun h1 => ?_
  refine .keep s2 (.via (setSeq_does ..) h1) fun h2 => ?_
  refine .keep s3 (.via (setGroup_does ..) h2) fun h3 => ?_
  refine .keep s4 (.via (setValve_does ..) h3) fun h4 => ?_
  refine .keep s5 (.via (Does.ledger _) h4) fun h5 => ?_
  exact .next (.via (releaseSlot_does ..) (.via (charge_does ..) h5))

theorem execBoostAbandon_does (v : Valve) (s : State) : NextDoes [.clk, .out, .od, .time, .drive,
    .seqs, .backdrop, .strand, .side, .recorder] s (execBoostAbandon v s) := by
  unfold execBoostAbandon
  split
  · extract_lets +onlyGivenNames t s1 s2
    refine .keep s1 (.of (atTick_does ..)) fun h1 => ?_
    refine .keep s2 (.via (releaseSlot_does ..) (.via (nextWord_does ..) h1)) fun h2 => ?_
    exact .next (.via (saturation_does ..) h2)
  · exact .next .same

theorem execHold_does (v : Valve) (s : State) : NextDoes [.clk, .freeCtr, .od, .time, .drive,
    .seqs] s (execHold v s) := by
  unfold execHold
  split
  · extract_lets +onlyGivenNames s1 q s2
    refine .keep s1 (.via (chargeBoost_does ..) (.of (atIssue_does ..))) fun h1 => ?_
    refine .keep s2 (.via (setSeq_does ..) h1) fun h2 => ?_
    exact .next (.ite (.via (releaseSlot_does ..) h2) (.via (regrant_does ..) h2))
  · exact .next .same

theorem execHoldEnd_does (v : Valve) (s : State) : NextDoes [.clk, .time, .seqs] s (execHoldEnd v
    s) := by
  unfold execHoldEnd
  split
  · extract_lets +onlyGivenNames due s1 x s2 q
    refine .keep s1 (.of (atTick_does ..)) fun h1 => ?_
    refine .keep s2 (.via (nextWord_does ..) h1) fun h2 => ?_
    exact .next (.ite (.via (setSeq_does ..) h2) h2)
  · exact .next .same

theorem execSeti_does (v : Valve) (s : State) : NextDoes [.clk, .od, .time, .drive, .seqs] s
    (execSeti v s) := by
  unfold execSeti
  split
  · extract_lets +onlyGivenNames s1 q level q2 s2 g gs s3
    refine .keep s1 (.of (atIssue_does ..)) fun h1 => ?_
    refine .keep s2 (.via (setSeq_does ..) h1) fun h2 => ?_
    refine .keep s3 (.via (setGroup_does ..) h2) fun h3 => ?_
    exact .next (.via (regrant_does ..) (.via (oneStep_does ..) h3))
  · exact .next .same

theorem execDecay_does (v : Valve) (s : State) : NextDoes [.clk, .time, .seqs] s (execDecay v s) :=
    by
  unfold execDecay
  split
  · extract_lets +onlyGivenNames s1
    refine .keep s1 (.of (atIssue_does ..)) fun h1 => ?_
    exact .next (.via (oneStep_does ..) (.via (setSeq_does ..) h1))
  · exact .next .same

theorem execWait_does (v : Valve) (s : State) : NextDoes [.clk, .time, .seqs] s (execWait v s) := by
  unfold execWait
  split
  · extract_lets +onlyGivenNames s1
    refine .keep s1 (.of (atIssue_does ..)) fun h1 => ?_
    exact .next (.via (busySeq_does ..) h1)
  · exact .next .same

theorem execWaitExpiry_does (v : Valve) (s : State) : NextDoes [.clk, .time, .seqs] s
    (execWaitExpiry v s) := by
  unfold execWaitExpiry
  split
  · exact .next (.via (nextWord_does ..) (.of (atTick_does ..)))
  · exact .next .same

theorem execWaiti_does (v : Valve) (s : State) : NextDoes [.clk, .time, .seqs] s (execWaiti v s) :=
    by
  unfold execWaiti
  split
  · extract_lets +onlyGivenNames s1
    refine .keep s1 (.of (atIssue_does ..)) fun h1 => ?_
    exact .next (.ite (.via (oneStep_does ..) h1) (.via (busySeq_does ..) h1))
  · exact .next .same

theorem execWaitiConditionMet_does (v : Valve) (tick : Nat) (reading : Nat) (s : State) : NextDoes
    [.clk, .time, .seqs] s (execWaitiConditionMet v tick reading s) := by
  unfold execWaitiConditionMet
  split
  · extract_lets +onlyGivenNames q t
    refine .ite ?_ (.next .same)
    extract_lets +onlyGivenNames s1
    refine .keep s1 (.via (setSeq_does ..) (.of (atTick_does ..))) fun h1 => ?_
    exact .next (.via (nextWord_does ..) h1)
  · exact .next .same

theorem execWaitiTimeout_does (v : Valve) (reading : Nat) (s : State) : NextDoes [.clk, .freeCtr,
    .out, .od, .time, .drive, .seqs, .backdrop, .strand, .side, .recorder] s (execWaitiTimeout v
    reading s) := by
  unfold execWaitiTimeout
  split
  · refine .ite (.next .same) ?_
    extract_lets +onlyGivenNames s1
    refine .keep s1 (.of (atTick_does ..)) fun h1 => ?_
    refine .ite (.next (.via (nextWord_does ..) (.via (bump_does ..) (.via (setSeq_does ..) h1))))
      ?_
    extract_lets +onlyGivenNames s2
    refine .keep s2 (.via (raiseSlow_does ..) (.via (abortShot_does ..) h1)) fun h2 => ?_
    exact .next (.ite (.via (boostMissed_does ..) h2) h2)
  · exact .next .same

theorem execMark_does (v : Valve) (s : State) : NextDoes [.clk, .time, .seqs] s (execMark v s) := by
  unfold execMark
  split
  · extract_lets +onlyGivenNames s1 q o
    refine .keep s1 (.of (atIssue_does ..)) fun h1 => ?_
    exact .next (.via (oneStep_does ..) (.via (setSeq_does ..) h1))
  · exact .next .same

theorem execOff_does (v : Valve) (s : State) : NextDoes [.clk, .freeCtr, .od, .time, .drive, .seqs]
    s (execOff v s) := by
  unfold execOff
  split
  · extract_lets +onlyGivenNames s1
    refine .keep s1 (.of (atIssue_does ..)) fun h1 => ?_
    exact .next (.via (oneStep_does ..) (.via (lowSideOff_does ..) h1))
  · exact .next .same

theorem execLoop_does (v : Valve) (s : State) : NextDoes [.clk, .time, .seqs] s (execLoop v s) := by
  unfold execLoop
  split
  · extract_lets +onlyGivenNames s1 q n
    refine .keep s1 (.of (atIssue_does ..)) fun h1 => ?_
    exact .next (.ite (.via (oneStep_does ..) (.via (setSeq_does ..) h1)) (.via (setSeq_does ..)
      h1))
  · exact .next .same

theorem execProfileEnd_does (v : Valve) (s : State) : NextDoes [.clk, .freeCtr, .od, .time, .drive,
    .seqs] s (execProfileEnd v s) := by
  unfold execProfileEnd
  split
  · extract_lets +onlyGivenNames s1 s2
    refine .keep s1 (.of (atIssue_does ..)) fun h1 => ?_
    refine .keep s2 (.ite h1 (.via (lowSideOff_does ..) h1)) fun h2 => ?_
    exact .next (.via (setSeq_does ..) h2)
  · exact .next .same

theorem execIllegalWord_does (word : FetchedWord) (s : State) : NextDoes [.clk, .freeCtr, .out,
    .od, .time, .drive, .seqs, .backdrop, .strand, .side, .recorder] s (execIllegalWord word s) := by
  unfold execIllegalWord
  extract_lets +onlyGivenNames q g st x s1
  refine .keep s1 (.ite (.of (setStore_does ..)) .same) fun h1 => ?_
  refine .ite ?_ (.next h1)
  extract_lets +onlyGivenNames s2 s3 s4
  refine .keep s2 (.via (atIssue_does ..) h1) fun h2 => ?_
  refine .keep s3 (.via (abortShot_does ..) h2) fun h3 => ?_
  refine .keep s4 (.via (keep_does ..) h3) fun h4 => ?_
  exact .next (.via (raise_does ..) (.via (raise_does ..) h4))

theorem execSequencerIdle_does (v : Valve) (tick : Nat) (s : State) : NextDoes [.clk, .time,
    .drive, .seqs] s (execSequencerIdle v tick s) := by
  unfold execSequencerIdle
  extract_lets +onlyGivenNames q
  refine .ite ?_ (.next .same)
  extract_lets +onlyGivenNames s1
  refine .keep s1 (.of (atTick_does ..)) fun h1 => ?_
  exact .next (.via (setValve_does ..) (.via (setSeq_does ..) h1))

theorem execShadowImageWrite_does (m : Master) (g : Group) (image : List Byte) (s : State) :
    NextDoes [.out, .od, .seqs, .backdrop, .strand, .dict, .side, .recorder] s (execShadowImageWrite
    m g image s) := by
  unfold execShadowImageWrite
  exact .next (write_does (by decide) (by decide) (by decide) _ _ _ _ _ (.of (actShadowImage_does
    ..)))

theorem execImageAllGroups_does (m : Master) (image : List Byte) (s : State) : NextDoes [.out, .od,
    .seqs, .backdrop, .strand, .dict, .side, .recorder] s (execImageAllGroups m image s) := by
  unfold execImageAllGroups
  exact .next (write_does (by decide) (by decide) (by decide) _ _ _ _ _ (.of (actImageAll_does ..)))

theorem execGroupSwapRequest_does (m : Master) (g : Group) (s : State) : NextDoes [.out, .od,
    .drive, .seqs, .backdrop, .strand, .dict, .side, .recorder] s (execGroupSwapRequest m g s) := by
  unfold execGroupSwapRequest
  exact .next (write_does (by decide) (by decide) (by decide) _ _ _ _ _ (.of (requestSwap_does ..)))

theorem execSwapAllGroups_does (m : Master) (s : State) : NextDoes [.out, .od, .drive, .seqs,
    .backdrop, .strand, .dict, .side, .recorder] s (execSwapAllGroups m s) := by
  unfold execSwapAllGroups
  exact .next (write_does (by decide) (by decide) (by decide) _ _ _ _ _ (.of (actSwapAll_does ..)))

theorem execGroupSwap_does (g : Group) (s : State) : NextDoes [.out, .od, .drive, .seqs, .backdrop,
    .strand, .side, .recorder] s (execGroupSwap g s) := by
  unfold execGroupSwap
  exact .ite (.next (.of (swapStores_does ..))) (.next .same)

theorem execSwapHold_does (g : Group) (s : State) : NextDoes [.clk, .time, .seqs] s (execSwapHold g
    s) := by
  unfold execSwapHold
  split
  · exact .ite (.next .same) (.next (.via (setStore_does ..) (.of (atClk_does ..))))
  · exact .next .same

theorem execSwapAbandon_does (g : Group) (s : State) : NextDoes [.clk, .out, .od, .time, .drive,
    .seqs, .backdrop, .strand, .side, .recorder] s (execSwapAbandon g s) := by
  unfold execSwapAbandon
  split
  · refine .ite ?_ (.next .same)
    extract_lets +onlyGivenNames s1 x s2
    refine .keep s1 (.of (atClk_does ..)) fun h1 => ?_
    refine .keep s2 (.via (releaseHeld_does ..) (.via (setStore_does ..) h1)) fun h2 => ?_
    exact .next (.via (raise_does ..) (.via (bump_does ..) h2))
  · exact .next .same

theorem execProfileSelect_does (m : Master) (v : Valve) (profile : Nat) (s : State) : NextDoes
    [.out, .od, .dict] s (execProfileSelect m v profile s) := by
  unfold execProfileSelect
  exact .next (write_does (by decide) (by decide) (by decide) _ _ _ _ _ (.of (actProfileSelect_does
    ..)))

/-! ### Loop engine and the ledger -/

theorem execOperatingHour_does (s : State) : NextDoes [.clk, .out, .od, .time, .drive, .ledger,
    .backdrop, .strand, .side, .recorder] s (execOperatingHour s) := by
  unfold execOperatingHour
  refine .ite (.next .same) ?_
  extract_lets +onlyGivenNames h s1 src s2
  refine .keep s1 (.of (atClk_does ..)) fun h1 => ?_
  refine .keep s2 (.via (Does.recorder _ id) h1) fun h2 => ?_
  exact .next (.via (hourlyClose_does ..) (.via (hourTrigger_does ..) h2))

theorem execValveReplaced_does (m : Master) (v : Nat) (s : State) : NextDoes [.out, .od, .drive,
    .ledger, .backdrop, .strand, .dict, .side, .recorder] s (execValveReplaced m v s) := by
  unfold execValveReplaced
  exact .next (write_does (by decide) (by decide) (by decide) _ _ _ _ _ (.of (actValveReplaced_does
    ..)))

theorem execDieMarginSample_does (margin : RingMargin) (s : State) : NextDoes [.out, .od, .ledger,
    .backdrop, .strand, .side, .recorder] s (execDieMarginSample margin s) := by
  unfold execDieMarginSample
  refine .ite (.next .same) ?_
  extract_lets +onlyGivenNames margin2 m d s1 low x s2
  refine .keep s1 (.of (setLedger_does ..)) fun h1 => ?_
  refine .keep s2 (.ite h1 (.via (setLedger_does ..) h1)) fun h2 => ?_
  exact .ite (.next (.via (coreStep_does ..) h2)) (.ite (.ite (.next h2) (.next (.via (raise_does
    ..) (.via (setLedger_does ..) h2)))) (.ite (.next (.via (setLedger_does ..) h2)) (.next h2)))

theorem execBulkRechargeMeasured_does (ticks : Nat) (rise : Nat) (s : State) : NextDoes [.ledger] s
    (execBulkRechargeMeasured ticks rise s) := by
  unfold execBulkRechargeMeasured
  refine .ite (.next .same) ?_
  extract_lets +onlyGivenNames c d
  exact .next (.of (setLedger_does ..))

theorem execLoopSample_does (slot : Fin 8) (ains : List Int) (s : State) : NextDoes [.clk, .out,
    .od, .time, .loops, .backdrop, .strand, .side, .recorder] s (execLoopSample slot ains s) := by
  unfold execLoopSample
  extract_lets +onlyGivenNames n x live
  refine .ite (.next .same) ?_
  extract_lets +onlyGivenNames s1 x2 s2 s3
  refine .keep s1 (.via (readAins_does ..) (.of (atTick_does ..))) fun h1 => ?_
  refine .keep s2 (.ite (.via (liveSample_does ..) h1) (.via (setSlot_does ..) h1)) fun h2 => ?_
  refine .keep s3 ?_ fun h3 => ?_
  · unfold s3
    split
    · exact .via (sample_does ..) h2
    · exact .via (sample_does ..) h2
    · exact .via (sample_does ..) h2
    · exact .via (sample_does ..) h2
    · exact h2
    · exact h2
  exact .next (.via (tracesOfSlot_does ..) h3)

theorem execLoopBankWrite_does (m : Master) (slot : Fin 8) (bank : Nat) (image : List Byte) (s :
    State) : NextDoes [.out, .od, .dict] s (execLoopBankWrite m slot bank image s) := by
  unfold execLoopBankWrite
  exact .next (write_does (by decide) (by decide) (by decide) _ _ _ _ _ (.of (actLoopBank_does ..)))

theorem execLoopBankSwap_does (m : Master) (slot : Fin 8) (s : State) : NextDoes [.out, .od,
    .loops, .backdrop, .strand, .dict, .side, .recorder] s (execLoopBankSwap m slot s) := by
  unfold execLoopBankSwap
  exact .next (write_does (by decide) (by decide) (by decide) _ _ _ _ _ (.of (actLoopSwap_does ..)))

theorem execLoopRearm_does (m : Master) (slot : Fin 8) (s : State) : NextDoes [.out, .od, .loops,
    .backdrop, .strand, .dict, .side, .recorder] s (execLoopRearm m slot s) := by
  unfold execLoopRearm
  exact .next (write_does (by decide) (by decide) (by decide) _ _ _ _ _ (.of (actLoopRearm_does
    ..)))

theorem execLoopEnableWrite_does (m : Master) (slot : Fin 8) (value : Nat) (s : State) : NextDoes
    [.out, .od, .loops, .backdrop, .strand, .dict, .side, .recorder] s (execLoopEnableWrite m slot
    value s) := by
  unfold execLoopEnableWrite
  exact .next (write_does (by decide) (by decide) (by decide) _ _ _ _ _ (.of (actLoopEnable_does
    ..)))

theorem execPin0Pulse_does (tick : Nat) (s : State) : NextDoes [.clk, .time, .loops] s
    (execPin0Pulse tick s) := by
  unfold execPin0Pulse
  refine .ite (.next .same) ?_
  extract_lets +onlyGivenNames s1 x v
  refine .keep s1 (.of (atTick_does ..)) fun h1 => ?_
  exact .next (.via (Does.loops _ (fun h => ⟨by simpa using h.1, by simpa using h.2⟩)) h1)

theorem execTraceArm_does (m : Master) (t : Fin 4) (s : State) : NextDoes [.freeCtr, .out, .od,
    .mem, .loops, .backdrop, .strand, .dict, .side, .dma, .recorder] s (execTraceArm m t s) := by
  unfold execTraceArm
  exact .next (write_does (by decide) (by decide) (by decide) _ _ _ _ _ (.of (actTraceArm_does ..)))

theorem execTraceForceTrigger_does (m : Master) (t : Fin 4) (s : State) : NextDoes [.out, .od,
    .loops, .dict] s (execTraceForceTrigger m t s) := by
  unfold execTraceForceTrigger
  exact .next (write_does (by decide) (by decide) (by decide) _ _ _ _ _ (.of (actTraceForce_does
    ..)))

theorem execTraceStop_does (m : Master) (t : Fin 4) (s : State) : NextDoes [.out, .od, .loops,
    .dict] s (execTraceStop m t s) := by
  unfold execTraceStop
  exact .next (write_does (by decide) (by decide) (by decide) _ _ _ _ _ (.of (actTraceStop_does
    ..)))

theorem execTraceSample_does (t : Fin 4) (ains : List Int) (s : State) : NextDoes [.clk, .out, .od,
    .time, .loops, .backdrop, .strand, .side, .dma, .recorder] s (execTraceSample t ains s) := by
  unfold execTraceSample
  extract_lets +onlyGivenNames node d
  exact .ite (.next .same) (.ite (.next (.via (traceStore_does ..) (Does.foldl (fun _ _ => (.of
    (traceTick_does ..))) .same))) (.next (.of (traceStore_does ..))))

/-! ### Backdrop panels and strobes -/

theorem execPanelScan_does (s : State) : NextDoes [.clk, .out, .time, .backdrop] s (execPanelScan
    s) := by
  unfold execPanelScan
  refine .ite ?_ (.next .same)
  extract_lets +onlyGivenNames s1 src begin_ s2
  refine .keep s1 (.of (atClk_does ..)) fun h1 => ?_
  refine .keep s2 (.via (Does.backdrop _ (fun h => ⟨by simpa using h.1, by simpa using h.2⟩)) h1)
    fun h2 => ?_
  exact .next (.via (emit_does ..) (.via (emit_does ..) h2))

theorem execPairComplete_does (r : Fin 10) (s : State) : NextDoes [.clk, .freeCtr, .out, .od,
    .time, .cams, .pipe, .tracker, .drive, .seqs, .ledger, .loops, .power, .thermal, .backdrop,
    .module, .strand, .dict, .side, .dma, .recorder, .update] s (execPairComplete r s) := by
  unfold execPairComplete
  refine .ite (.next (.of (slotPair_does ..))) ?_
  refine .ite ?_ (.next (.via (moorOn_does ..) (.of (stripPair_does ..))))
  split
  · exact .next (.via (panelsSettled_does ..) (Does.pair (by assumption) (.of (runPair_does ..))))
  · exact .next (Does.pair (by assumption) (.of (runPair_does ..)))

theorem execWaveformTableWrite_does (m : Master) (panel : Fin 2) (table : List Byte) (s : State) :
    NextDoes [.out, .od, .backdrop, .strand, .dict, .side, .recorder] s (execWaveformTableWrite m
    panel table s) := by
  unfold execWaveformTableWrite
  exact .next (write_does (by decide) (by decide) (by decide) _ _ _ _ _ (.of (actWaveform_does ..)))

theorem execRegionGo_does (m : Master) (slot : Fin 8) (s : State) : NextDoes [.out, .od, .backdrop,
    .strand, .dict, .side, .recorder] s (execRegionGo m slot s) := by
  unfold execRegionGo
  exact .next (write_does (by decide) (by decide) (by decide) _ _ _ _ _ (.of (actRegionGo_does ..)))

theorem execImageSlotWrite_does (m : Master) (slot : Nat) (image : List Byte) (s : State) :
    NextDoes [.out, .od, .backdrop, .strand, .dict, .side, .recorder] s (execImageSlotWrite m slot
    image s) := by
  unfold execImageSlotWrite
  exact .next (write_does (by decide) (by decide) (by decide) _ _ _ _ _ (.of (actImageSlot_does
    ..)))

theorem execTrimMapWrite_does (m : Master) (panel : Fin 2) (map : List Byte) (s : State) : NextDoes
    [.out, .od, .backdrop, .strand, .dict, .side, .recorder, .update] s (execTrimMapWrite m panel map
    s) := by
  unfold execTrimMapWrite
  exact .next (write_does (by decide) (by decide) (by decide) _ _ _ _ _ (.of (actTrimMap_does ..)))

theorem execRailStep_does (reading : Int) (reading2 : Int) (s : State) : NextDoes [.clk, .out, .od,
    .time, .backdrop, .strand, .side, .recorder] s (execRailStep reading reading2 s) := by
  unfold execRailStep
  extract_lets +onlyGivenNames r
  refine .ite (.next .same) ?_
  extract_lets +onlyGivenNames s1 ok
  refine .keep s1 (.of (atClk_does ..)) fun h1 => ?_
  exact .ite (.next (.via (railFault_does ..) h1)) (.ite (.next (.via (emit_does ..) (.via
    (Does.backdrop _ id) h1))) (.next (.via (Does.backdrop _ id) h1)))

theorem execRailHoldExpiry_does (s : State) : NextDoes [.clk, .out, .time, .backdrop] s
    (execRailHoldExpiry s) := by
  unfold execRailHoldExpiry
  refine .ite ?_ (.next .same)
  extract_lets +onlyGivenNames s1
  refine .keep s1 (.ite .same (.of (atClk_does ..))) fun h1 => ?_
  exact .next (.via (emit_does ..) (.via (Does.backdrop _ id) h1))

theorem execRailPowerDownStep_does (reading : RailReading) (s : State) : NextDoes [.clk, .out, .od,
    .time, .backdrop, .strand, .side, .recorder] s (execRailPowerDownStep reading s) := by
  unfold execRailPowerDownStep
  extract_lets +onlyGivenNames r
  refine .ite (.next .same) ?_
  extract_lets +onlyGivenNames s1
  refine .keep s1 (.of (atClk_does ..)) fun h1 => ?_
  refine .ite (.next h1) ?_
  extract_lets +onlyGivenNames s2
  refine .keep s2 (.via (emit_does ..) h1) fun h2 => ?_
  refine .ite (.next (.via (Does.backdrop _ id) h2)) ?_
  extract_lets +onlyGivenNames src s3
  refine .keep s3 (.via (Does.backdrop _ id) h2) fun h3 => ?_
  exact .next (.ite (.via (requestRails_does ..) h3) h3)

theorem execStripWrite_does (s : State) : NextDoes [.clk, .out, .od, .time, .backdrop, .strand,
    .side, .recorder] s (execStripWrite s) := by
  unfold execStripWrite
  extract_lets +onlyGivenNames text
  refine .ite (.next .same) ?_
  extract_lets +onlyGivenNames s1
  refine .keep s1 ?_ fun h1 => ?_
  · unfold s1
    split
    · exact .of (atClk_does ..)
    · exact .same
  exact .next (.via (requestRails_does ..) (.via (Does.backdrop _ id) h1))

theorem execIslandStripWrite_does (s : State) : NextDoes [.out, .od, .backdrop, .strand, .side,
    .recorder] s (execIslandStripWrite s) := by
  unfold execIslandStripWrite
  exact .ite (.next (.via (raise_does ..) (.of (islandDraw_does ..)))) (.next .same)

theorem execPanelGrey_does (m : Master) (s : State) : NextDoes [.out, .od, .pipe, .backdrop,
    .strand, .dict, .side, .recorder] s (execPanelGrey m s) := by
  unfold execPanelGrey
  exact .next (write_does (by decide) (by decide) (by decide) _ _ _ _ _ (.of (actPanelGrey_does
    ..)))

theorem execPanelHome_does (m : Master) (s : State) : NextDoes [.out, .od, .pipe, .backdrop,
    .strand, .dict, .side, .recorder] s (execPanelHome m s) := by
  unfold execPanelHome
  exact .next (write_does (by decide) (by decide) (by decide) _ _ _ _ _ (.of (actPanelHome_does
    ..)))

theorem execEventCodeAck_does (m : Master) (s : State) : NextDoes [.out, .od, .backdrop, .strand,
    .dict, .side, .recorder] s (execEventCodeAck m s) := by
  unfold execEventCodeAck
  exact .next (.via (noteReset_does ..) (write_does (by decide) (by decide) (by decide) _ _ _ _ _
    (.of (actEventAck_does ..))))

theorem execStrobePulse_does (ch : Fin 4) (vf : Nat) (compliance : Bool) (s : State) : NextDoes
    [.clk, .out, .od, .time, .backdrop, .strand, .side, .recorder] s (execStrobePulse ch vf
    compliance s) := by
  unfold execStrobePulse
  extract_lets +onlyGivenNames k x c fresh
  refine .ite (.next .same) ?_
  extract_lets +onlyGivenNames s1 r i watts again s2 openRun shortRun fault s3 s4
  refine .keep s1 (.of (atTick_does ..)) fun h1 => ?_
  refine .keep s2 (.ite (.via (bump_does ..) h1) h1) fun h2 => ?_
  refine .keep s3 (.via (setStrobe_does ..) h2) fun h3 => ?_
  refine .keep s4 (.via (emit_does ..) (.via (bump_does ..) h3)) fun h4 => ?_
  exact .next (.ite (.via (raise_does ..) h4) (.ite (.via (raise_does ..) h4) h4))

theorem execStrobeEnable_does (m : Master) (ch : Fin 4) (value : Nat) (s : State) : NextDoes [.out,
    .od, .backdrop, .strand, .dict, .side, .recorder] s (execStrobeEnable m ch value s) := by
  unfold execStrobeEnable
  exact .next (write_does (by decide) (by decide) (by decide) _ _ _ _ _ (.of (actStrobeEnable_does
    ..)))

/-! ### Power, the module state and the start -/

theorem execMainsUp_does (s : State) : NextDoes [.out, .od, .power, .backdrop, .strand, .side,
    .recorder] s (execMainsUp s) := by
  unfold execMainsUp
  refine .ite (.next .same) ?_
  refine .ite (.next (.of (mainsBack_does ..))) ?_
  extract_lets +onlyGivenNames s1
  refine .keep s1 (.of (mainsIn_does ..)) fun h1 => ?_
  exact .ite (.next (.via (islandStrip_does ..) (.via (Does.power _) h1))) (.next h1)

theorem execMainsOutOfRange_does (s : State) : NextDoes [.out, .od, .power, .backdrop, .strand,
    .side, .recorder] s (execMainsOutOfRange s) := by
  unfold execMainsOutOfRange
  refine .ite (.next .same) ?_
  extract_lets +onlyGivenNames x s1
  refine .keep s1 (.of (Does.power _)) fun h1 => ?_
  refine .ite (.next h1) ?_
  extract_lets +onlyGivenNames x2 s2
  refine .keep s2 (.ite (.via (Does.power _) h1) h1) fun h2 => ?_
  exact .next (.via (raise_does ..) h2)

theorem execInputPowerSample_does (watts : Nat) (readings : List Nat) (s : State) : NextDoes [.clk,
    .freeCtr, .out, .od, .time, .pipe, .drive, .ledger, .loops, .power, .thermal, .backdrop, .module,
    .strand, .side, .recorder] s (execInputPowerSample watts readings s) := by
  unfold execInputPowerSample
  refine .ite (.next .same) ?_
  extract_lets +onlyGivenNames s1 samples mean energy x s2 s3 s4 s5 src s6 s7 hot
  refine .keep s1 (.of (atClk_does ..)) fun h1 => ?_
  refine .keep s2 (.via (Does.power _) h1) fun h2 => ?_
  refine .keep s3 (.via (putNat_does ..) (.via (putNat_does ..) h2)) fun h3 => ?_
  refine .keep s4 (.via (putNat_does ..) h3) fun h4 => ?_
  refine .keep s5 (Does.foldl (fun _ _ => (.of (putNat_does ..))) h4) fun h5 => ?_
  refine .keep s6 (.via (Does.drive _ id) h5) fun h6 => ?_
  refine .keep s7 (.via (settleRefill_does ..) h6) fun h7 => ?_
  exact .next (.via (settleOuts_does ..) (.via (settleDerated_does ..) (.via (Does.thermal _ id)
    h7)))

theorem execRailOutOfRegulation_does (rail : Nat) (s : State) : NextDoes [.freeCtr, .out, .od,
    .pipe, .tracker, .drive, .seqs, .ledger, .loops, .power, .thermal, .backdrop, .module, .strand,
    .side, .recorder] s (execRailOutOfRegulation rail s) := by
  unfold execRailOutOfRegulation
  refine .ite (.next .same) ?_
  extract_lets +onlyGivenNames x s1
  refine .keep s1 (.of (Does.power _)) fun h1 => ?_
  exact .next (.via (enterFault_does ..) (.via (raise_does ..) (.via (putNat_does ..) h1)))

theorem execPowerFailWarning_does (s : State) : NextDoes [.freeCtr, .out, .od, .mem, .cams, .pipe,
    .tracker, .drive, .seqs, .ledger, .loops, .power, .thermal, .backdrop, .module, .strand, .dict,
    .side, .dma, .recorder, .update] s (execPowerFailWarning s) := by
  unfold execPowerFailWarning
  refine .ite (.next .same) ?_
  refine .ite ?_ ?_
  · refine .ite ?_ (.next .same)
    extract_lets +onlyGivenNames s1
    refine .keep s1 (.via (abortTransfer_does ..) (.via (raise_does ..) (.of (bump_does ..)))) fun
      h1 => ?_
    exact .next (.via (Does.power _) h1)
  · extract_lets +onlyGivenNames s1
    refine .keep s1 (.via (powerFailSteps_does ..) (.via (raise_does ..) (.of (bump_does ..)))) fun
      h1 => ?_
    refine .next ?_
    split
    · exact .via (enterState_does ..) h1
    · exact .via (enterState_does ..) h1
    · exact h1

theorem execMainsReturn_does (s : State) : NextDoes [.out, .od, .power, .backdrop, .strand, .side,
    .recorder] s (execMainsReturn s) := by
  unfold execMainsReturn
  exact .ite (.next (.of (mainsBack_does ..))) (.next .same)

theorem execMainSideOffElapsed_does (s : State) : NextDoes [.clk, .freeCtr, .out, .od, .time,
    .cams, .pipe, .tracker, .drive, .seqs, .ledger, .loops, .power, .thermal, .backdrop, .module,
    .strand, .dict, .side, .dma, .recorder, .update] s (execMainSideOffElapsed s) := by
  unfold execMainSideOffElapsed
  split
  · exact .next .same
  · exact .next (.via (noteReset_does ..) (.of (sequenceEnd_does ..)))

theorem execMooredRequest_does (m : Master) (s : State) : NextDoes [.out, .od, .mem, .cams, .pipe,
    .drive, .seqs, .ledger, .loops, .power, .backdrop, .module, .strand, .dict, .side, .recorder] s
    (execMooredRequest m s) := by
  unfold execMooredRequest
  exact .next (write_does (by decide) (by decide) (by decide) _ _ _ _ _ (.of (actMoored_does ..)))

theorem execMooredUpdatesDone_does (s : State) : NextDoes [.clk, .freeCtr, .out, .od, .time, .cams,
    .pipe, .tracker, .drive, .seqs, .ledger, .loops, .power, .thermal, .backdrop, .module, .strand,
    .dict, .side, .dma, .recorder, .update] s (execMooredUpdatesDone s) := by
  unfold execMooredUpdatesDone
  refine .ite (.next .same) ?_
  extract_lets +onlyGivenNames s1
  refine .keep s1 (.of (stripPair_does ..)) fun h1 => ?_
  exact .ite (.next (.via (mooredOff_does ..) h1)) (.next (.via (requestRails_does ..) (.via
    (Does.backdrop _ id) h1)))

theorem execMooredEntryTimeout_does (s : State) : NextDoes [.clk, .out, .od, .time, .loops, .power,
    .backdrop, .strand, .side, .recorder] s (execMooredEntryTimeout s) := by
  unfold execMooredEntryTimeout
  split
  · exact .next .same
  · exact .ite (.next (.via (abandonMoored_does ..) (.of (atClk_does ..)))) (.next .same)

theorem execWakeTimer_does (s : State) : NextDoes [.clk, .out, .od, .time, .drive, .ledger, .loops,
    .power, .thermal, .backdrop, .module, .strand, .side, .recorder] s (execWakeTimer s) := by
  unfold execWakeTimer
  extract_lets +onlyGivenNames n
  exact .ite (.next .same) (.next (.via (wakeSource_does ..) (.of (atClk_does ..))))

theorem execWakeIn_does (high : Bool) (s : State) : NextDoes [.out, .od, .drive, .ledger, .loops,
    .power, .thermal, .backdrop, .module, .strand, .side, .recorder] s (execWakeIn high s) := by
  unfold execWakeIn
  refine .ite (.next .same) ?_
  extract_lets +onlyGivenNames x s1
  refine .keep s1 (.of (Does.power _)) fun h1 => ?_
  exact .next (.ite (.via (wakeSource_does ..) h1) h1)

theorem execWakeCanopen_does (s : State) : NextDoes [.clk, .out, .od, .time, .drive, .ledger,
    .loops, .power, .thermal, .backdrop, .module, .strand, .dict, .side, .recorder] s
    (execWakeCanopen s) := by
  unfold execWakeCanopen
  exact .next (.via (noteReset_does ..) (write_does (by decide) (by decide) (by decide) _ _ _ _ _
    (.of (actAwake_does ..))))

theorem execVSbLoss_does (s : State) : NextDoes [.out, .od, .power, .backdrop, .strand, .side,
    .pins, .recorder] s (execVSbLoss s) := by
  unfold execVSbLoss
  refine .ite (.next .same) ?_
  extract_lets +onlyGivenNames x s1
  refine .keep s1 (.via (settleEnOut_does ..) (.via (putNat_does ..) (.of (Does.power _)))) fun h1
    => ?_
  exact .next (.ite (.via (raise_does ..) (.via (putNat_does ..) h1)) h1)

/-! ### Object dictionary and the island pins -/

theorem execVSbReturn_does (mV : Nat) (s : State) : NextDoes [.out, .od, .power, .backdrop,
    .strand, .side, .pins, .recorder] s (execVSbReturn mV s) := by
  unfold execVSbReturn
  refine .ite (.next .same) ?_
  extract_lets +onlyGivenNames fed s1 x s2
  refine .keep s1 (.via (putNat_does ..) (.of (putNat_does ..))) fun h1 => ?_
  refine .keep s2 (.via (settleEnOut_does ..) (.via (Does.power _) h1)) fun h2 => ?_
  exact .next (.ite h2 (.via (noteReset_does ..) (.via (islandBoot_does ..) h2)))

/-- The sample of the die once local time stands at its instant (11 R324). -/
def takeDieSample (reading : Option Int) (s : State) : Host.Outcome State Fault Refusal :=
  let bad := s.thermal.bad reading
  let s := { s with thermal := { s.thermal with sampledAt := s.clk, prev := reading.or s.thermal.prev } }
  if bad then .next s.dieBroken.presentDie.settleDerated.settleOuts.countDerated
  else
    let s0 := s
    let s := (s.dieValid (reading.getD 0)).presentDie
    if 125 ≤ s.thermal.mean then .next s.dieShutdown
    else .next (s.dieLimits.settleDerated.settleOuts.countDerated.noteReset s0)

theorem execDieSample_eq (reading : Option Int) (s : State) : execDieSample reading s =
    if !s.module.mainUp || s.power.seqAt.isSome then .next s
    else takeDieSample reading (s.atClk (s.thermal.sampledAt + msTicks)) := rfl

theorem takeDieSample_does {reading : Option Int} {s t : State} (h1 : s.Does [.clk, .freeCtr, .out,
    .od, .mem, .time, .cams, .pipe, .tracker, .drive, .seqs, .ledger, .loops, .power, .thermal,
    .backdrop, .module, .strand, .dict, .side, .dma, .recorder, .update] t) : NextDoes [.clk,
    .freeCtr, .out, .od, .mem, .time, .cams, .pipe, .tracker, .drive, .seqs, .ledger, .loops,
    .power, .thermal, .backdrop, .module, .strand, .dict, .side, .dma, .recorder, .update] s
    (takeDieSample reading t) := by
  unfold takeDieSample
  extract_lets +onlyGivenNames bad src s2
  refine .keep s2 (.via (Does.thermal _ id) h1) fun h2 => ?_
  refine .ite (.next (.via (countDerated_does ..) (.via (settleOuts_does ..) (.via
    (settleDerated_does ..) (.via (presentDie_does ..) (.via (dieBroken_does ..) h2)))))) ?_
  extract_lets +onlyGivenNames s3 s4
  refine .keep s4 (.via (presentDie_does ..) (.via (dieValid_does ..) h2)) fun h4 => ?_
  exact .ite (.next (.via (dieShutdown_does ..) h4)) (.next (.via (noteReset_does ..) (.via
    (countDerated_does ..) (.via (settleOuts_does ..) (.via (settleDerated_does ..) (.via
    (dieLimits_does ..) h4))))))

theorem execDieSample_does (reading : Option Int) (s : State) : NextDoes [.clk, .freeCtr, .out,
    .od, .mem, .time, .cams, .pipe, .tracker, .drive, .seqs, .ledger, .loops, .power, .thermal,
    .backdrop, .module, .strand, .dict, .side, .dma, .recorder, .update] s (execDieSample reading s)
    := by
  rw [execDieSample_eq]
  exact .ite (.next .same) (takeDieSample_does (.of (atClk_does ..)))

theorem execDiodeBrokenLimit_does (s : State) : NextDoes [.clk, .freeCtr, .out, .od, .time, .pipe,
    .tracker, .drive, .seqs, .ledger, .loops, .power, .thermal, .backdrop, .module, .strand, .side,
    .recorder] s (execDiodeBrokenLimit s) := by
  unfold execDiodeBrokenLimit
  refine .ite (.next .same) ?_
  extract_lets +onlyGivenNames s1 src s2
  refine .keep s1 (.of (atClk_does ..)) fun h1 => ?_
  refine .keep s2 (.via (Does.thermal _ id) h1) fun h2 => ?_
  exact .next (.via (settleOuts_does ..) (.via (enterFault_does ..) (.via (raise_does ..) h2)))

theorem execFanStall_does (fan : Fin 4) (s : State) : NextDoes [.clk, .out, .od, .time, .loops,
    .thermal, .backdrop, .strand, .side, .recorder] s (execFanStall fan s) := by
  unfold execFanStall
  refine .ite (.next .same) ?_
  extract_lets +onlyGivenNames s1 x src src2 s2
  refine .keep s1 (.of (atClk_does ..)) fun h1 => ?_
  have ht : s1.Does [.thermal] { s1 with thermal := s2.thermal } := Does.thermal _ fun h => by
    simpa [Thermal.shaped, s2] using h
  have hl : ({ s1 with thermal := s2.thermal } : State).Does [.loops] s2 := Does.loops _ fun h =>
    ⟨by simpa using h.1, by simpa using h.2⟩
  refine .keep s2 (.via hl (.via ht h1)) fun h2 => ?_
  exact .next (.via (raise_does ..) (.via (bump_does ..) (.via (settleOuts_does ..) h2)))

theorem execStateIdle_does (m : Master) (s : State) : NextDoes [.freeCtr, .out, .od, .pipe,
    .tracker, .drive, .ledger, .loops, .thermal, .backdrop, .module, .strand, .dict, .side,
    .recorder] s (execStateIdle m s) := by
  unfold execStateIdle
  exact .next (write_does (by decide) (by decide) (by decide) _ _ _ _ _ (.of (actIdle_does ..)))

theorem execStateCalibrate_does (m : Master) (s : State) : NextDoes [.freeCtr, .out, .od, .pipe,
    .drive, .ledger, .loops, .thermal, .backdrop, .module, .strand, .dict, .side, .recorder] s
    (execStateCalibrate m s) := by
  unfold execStateCalibrate
  exact .next (write_does (by decide) (by decide) (by decide) _ _ _ _ _ (.of (actCalibrate_does
    ..)))

theorem execStateSort_does (m : Master) (s : State) : NextDoes [.out, .od, .drive, .power, .module,
    .dict] s (execStateSort m s) := by
  unfold execStateSort
  exact .next (write_does (by decide) (by decide) (by decide) _ _ _ _ _ (.of (actSort_does ..)))

theorem execSortingReached_does (s : State) : NextDoes [.out, .od, .tracker, .drive, .ledger,
    .loops, .thermal, .backdrop, .module, .strand, .side, .recorder] s (execSortingReached s) := by
  unfold execSortingReached
  refine .ite ?_ (.next .same)
  extract_lets +onlyGivenNames src src2 x s1
  let t1 : State := { s with drive := s1.drive }
  let t2 : State := { t1 with module := s1.module }
  have hd : s.Does [.drive] t1 := Does.drive _ id
  have hm : t1.Does [.module] t2 := Does.module _
  have ht : t2.Does [.tracker] s1 := Does.tracker _ id
  exact .next (.via (enterState_does ..) (.via ht (.via hm (.of hd))))

theorem execSortStopDone_does (s : State) : NextDoes [.clk, .out, .od, .time, .drive, .seqs,
    .ledger, .loops, .thermal, .backdrop, .module, .strand, .side, .recorder] s (execSortStopDone s)
    := by
  unfold execSortStopDone
  split
  · exact .next .same
  · extract_lets +onlyGivenNames s1 src x s2
    refine .keep s1 (.ite .same (.of (atClk_does ..))) fun h1 => ?_
    have hd : s1.Does [.drive] { s1 with drive := s2.drive } := Does.drive _ id
    have hm : ({ s1 with drive := s2.drive } : State).Does [.module] s2 := Does.module _
    exact .next (.via (enterState_does ..) (.via (dropQueues_does ..) (.via hm (.via hd h1))))

theorem execMainSideStart_does (r : StartReadings) (s : State) : NextDoes [.clk, .freeCtr, .out,
    .od, .time, .cams, .pipe, .tracker, .drive, .seqs, .ledger, .loops, .power, .thermal, .backdrop,
    .module, .strand, .dict, .side, .pins, .dma, .recorder, .update] s (execMainSideStart r s) := by
  unfold execMainSideStart
  extract_lets +onlyGivenNames due
  refine .ite (.next .same) ?_
  extract_lets +onlyGivenNames kind s1 s12 s13
  refine .keep s1 (.ite .same (.of (railsFromOff_does ..))) fun h1 => ?_
  refine .keep s13 (.via (Does.module _) h1) fun h13 => ?_
  split
  · exact .next (.via (noteReset_does ..) (.via (startFails_does ..) (.via (atClk_does ..) (.via
      (untested_does ..) h13))))
  · extract_lets +onlyGivenNames s14 s15 s16
    refine .keep s15 (.ite (.via (firstStart_does ..) h13) (.via (Does.update _) h13)) fun h15 => ?_
    refine .keep s16 (.via (selfTest_does ..) h15) fun h16 => ?_
    exact .ite (.next (.via (noteReset_does ..) (.via (startFails_does ..) (.via (atClk_does ..)
      h16)))) (.next (.via (noteReset_does ..) (.via (startSteps_does ..) (.via (atClk_does ..)
      h16))))

theorem execResumeSorting_does (s : State) : NextDoes [.od, .drive, .power, .module] s
    (execResumeSorting s) := by
  unfold execResumeSorting
  exact .ite (.next (.via (actSort_does ..) (.of (Does.module _)))) (.next .same)

theorem execWatchdogExpiry_does (s : State) : NextDoes [.freeCtr, .out, .od, .time, .cams, .pipe,
    .tracker, .drive, .seqs, .ledger, .loops, .power, .thermal, .backdrop, .module, .strand, .dict,
    .side, .dma, .recorder, .update] s (execWatchdogExpiry s) := by
  unfold execWatchdogExpiry
  refine .ite (.next .same) ?_
  refine .ite (.next (.of (enterRecovery_does ..))) ?_
  extract_lets +onlyGivenNames recent x s1 s2
  refine .keep s1 (.of (Does.module _)) fun h1 => ?_
  refine .keep s2 (.via (raise_does ..) (.via (bump_does ..) h1)) fun h2 => ?_
  exact .next (.ite (.via (enterFault_does ..) h2) (.via (beginRestart_does ..) h2))

theorem execRestartCommand_does (m : Master) (s : State) : NextDoes [.freeCtr, .out, .od, .time,
    .cams, .pipe, .tracker, .drive, .seqs, .ledger, .loops, .power, .thermal, .backdrop, .module,
    .strand, .dict, .side, .dma, .recorder, .update] s (execRestartCommand m s) := by
  unfold execRestartCommand
  exact .next (.via (noteReset_does ..) (write_does (by decide) (by decide) (by decide) _ _ _ _ _
    (.of (actRestart_does ..))))

/-! ### Strand fabric -/

theorem execSignalDetect_does (l : Link) (s : State) : NextDoes [.out, .od, .strand] s
    (execSignalDetect l s) := by
  unfold execSignalDetect
  refine .ite (.next .same) ?_
  extract_lets +onlyGivenNames x s1
  refine .keep s1 (.of (setLink_does ..)) fun h1 => ?_
  exact .ite (.next (.via (train_does ..) h1)) (.next h1)

theorem execRetrainTimer_does (l : Link) (s : State) : NextDoes [.clk, .out, .od, .time, .strand] s
    (execRetrainTimer l s) := by
  unfold execRetrainTimer
  exact .ite (.next (.via (train_does ..) (.of (atClk_does ..)))) (.next .same)

theorem execHello_does (l : Link) (h : Hello) (s : State) : NextDoes [.out, .od, .pipe, .tracker,
    .backdrop, .strand, .side, .recorder] s (execHello l h s) := by
  unfold execHello
  extract_lets +onlyGivenNames l2 c
  refine .ite (.next .same) ?_
  refine .ite (.ite (.next .same) (.next (.via (refreshTopo_does ..) (.via (learnId_does ..) (.of
    (setLink_does ..)))))) ?_
  refine .ite ?_ (.next (.of (helloEnter_does ..)))
  extract_lets +onlyGivenNames old
  exact .next (.via (noteLost_does ..) (.via (rerouteAll_does ..) (.of (helloEnter_does ..))))

theorem execSyncHeaderErrors_does (l : Link) (s : State) : NextDoes [.out, .od, .pipe, .tracker,
    .backdrop, .strand, .side, .recorder] s (execSyncHeaderErrors l s) := by
  unfold execSyncHeaderErrors
  exact .ite (.next (.of (dropLink_does ..))) (.next .same)

theorem execUnknownControlBlock_does (l : Link) (type : Nat) (s : State) : NextDoes [.out, .od,
    .pipe, .tracker, .backdrop, .strand, .side, .recorder] s (execUnknownControlBlock l type s) := by
  unfold execUnknownControlBlock
  exact .ite (.next (.of (dropLink_does ..))) (.next .same)

theorem execHeartbeatSend_does (s : State) : NextDoes [.clk, .out, .od, .time, .strand] s
    (execHeartbeatSend s) := by
  unfold execHeartbeatSend
  refine .ite (.next .same) ?_
  extract_lets +onlyGivenNames s1 src s2
  refine .keep s1 (.of (atClk_does ..)) fun h1 => ?_
  refine .keep s2 (.via (Does.strand _ id) h1) fun h2 => ?_
  exact .next (Does.foldl (fun _ _ => (.of (sendLocal_does ..))) h2)

theorem execHeartbeatReceived_does (l : Link) (id : Nat) (state : Nat) (time : Nat) (load : Nat)
    (seq : Nat) (s : State) : NextDoes [.out, .od, .strand] s (execHeartbeatReceived l id state time
    load seq s) := by
  unfold execHeartbeatReceived
  refine .ite ?_ (.next .same)
  extract_lets +onlyGivenNames c s1
  refine .keep s1 (.of (setLink_does ..)) fun h1 => ?_
  exact .next (.via (refreshTopo_does ..) h1)

theorem execHeartbeatLoss_does (l : Link) (s : State) : NextDoes [.clk, .out, .od, .time, .pipe,
    .tracker, .backdrop, .strand, .side, .recorder] s (execHeartbeatLoss l s) := by
  unfold execHeartbeatLoss
  extract_lets +onlyGivenNames l2
  refine .ite ?_ (.next .same)
  extract_lets +onlyGivenNames id s1 s2 s3
  refine .keep s1 (.of (atClk_does ..)) fun h1 => ?_
  refine .keep s2 (.via (dropLink_does ..) (.via (bump_does ..) h1)) fun h2 => ?_
  refine .keep s3 (.via (raise_does ..) h2) fun h3 => ?_
  exact .next (.ite h3 (.via (ferryTargetLost_does ..) h3))

theorem execFrameReceived_does (l : Link) (f : Frame) (seq : Nat) (crc : Nat) (s : State) :
    NextDoes [.out, .od, .strand] s (execFrameReceived l f seq crc s) := by
  unfold execFrameReceived
  extract_lets +onlyGivenNames l2 c
  refine .ite (.next .same) ?_
  refine .ite ?_ ?_
  · extract_lets +onlyGivenNames ahead
    split
    · extract_lets +onlyGivenNames s1
      refine .keep s1 (.of (bump_does ..)) fun h1 => ?_
      exact .next (.via (returnCredits_does ..) (.ite h1 (.via (cutCopy_does ..) (.via
        (nakFrame_does ..) h1))))
    · exact .ite (.next (.via (returnCredits_does ..) (.via (cutCopy_does ..) (.via (ack_does ..)
        (.of (setLink_does ..)))))) (.next (.of (returnCredits_does ..)))
    · exact .ite (.ite (.next (.via (acceptFrame_does ..) (.via (ack_does ..) (.of (setLink_does
        ..))))) (.next (.of (nakFrame_does ..)))) (.ite (.next (.via (returnCredits_does ..) (.of
        (ack_does ..)))) (.next (.via (returnCredits_does ..) (.ite .same (.of (nakFrame_does
        ..))))))
  · split
    · exact .next (.ite (.of (acceptFrame_does ..)) (.of (bump_does ..)))
    · exact .next (.via (returnCredits_does ..) (.via (cutCopy_does ..) (.via (bump_does ..) (.of
        (bump_does ..)))))
    · exact .next (.via (returnCredits_does ..) (.of (cutCopy_does ..)))

theorem execAckBlock_does (l : Link) (seq : Nat) (nak : Bool) (s : State) : NextDoes [.out, .od,
    .pipe, .tracker, .backdrop, .strand, .side, .recorder] s (execAckBlock l seq nak s) := by
  unfold execAckBlock
  extract_lets +onlyGivenNames l2
  refine .ite (.next .same) ?_
  extract_lets +onlyGivenNames s1 c left released naks again s2
  refine .keep s1 (.of (pump_does ..)) fun h1 => ?_
  refine .keep s2 (.via (setLink_does ..) h1) fun h2 => ?_
  exact .ite (.next (.via (dropLink_does ..) h2)) (.next (.via (pump_does ..) (.ite (.via
    (bumpBy_does ..) h2) h2)))

theorem execCreditBlock_does (l : Link) (vc : Nat) (blocks : Nat) (s : State) : NextDoes [.out,
    .od, .strand] s (execCreditBlock l vc blocks s) := by
  unfold execCreditBlock
  extract_lets +onlyGivenNames l2
  refine .ite (.next .same) ?_
  extract_lets +onlyGivenNames s1 c
  refine .keep s1 (.of (pump_does ..)) fun h1 => ?_
  exact .next (.via (pump_does ..) (.via (setLink_does ..) h1))

theorem execFrameForward_does (s : State) : NextDoes [.out, .od, .strand, .recorder] s
    (execFrameForward s) := by
  unfold execFrameForward
  refine .ite (.next .same) ?_
  split
  · exact .next .same
  · extract_lets +onlyGivenNames src s1 s2
    refine .keep s1 (.via (Does.strand _ id) .same) fun h1 => ?_
    refine .keep s2 (.via (returnCredits_does ..) h1) fun h2 => ?_
    refine .ite (.next (.via (noteDrop_does ..) (.via (bump_does ..) h2))) ?_
    split
    · exact .next (.via (noteDrop_does ..) (Does.pair (by assumption) (.via (routeOut_does ..) h2)))
    · exact .next (.via (bump_does ..) (Does.pair (by assumption) (.via (routeOut_does ..) h2)))

theorem execTopoRecord_does (l : Link) (r : Topo) (s : State) : NextDoes [.out, .od, .pipe,
    .tracker, .backdrop, .strand, .side, .recorder] s (execTopoRecord l r s) := by
  unfold execTopoRecord
  refine .ite (.next .same) ?_
  refine .ite (.next (.of (noteConflict_does ..))) ?_
  extract_lets +onlyGivenNames s1 src s2
  refine .keep s1 (.of (endConflict_does ..)) fun h1 => ?_
  refine .keep s2 (.via (Does.strand _ id) h1) fun h2 => ?_
  split
  · exact .next (.via (noteLost_does ..) (.via (sendTopo_does ..) h2))
  · exact .ite (.next (.via (noteLost_does ..) (.via (sendTopo_does ..) h2))) (.ite (.next h2)
      (.next h1))

theorem execTopoFlood_does (s : State) : NextDoes [.clk, .out, .od, .time, .strand] s
    (execTopoFlood s) := by
  unfold execTopoFlood
  exact .ite (.next (.via (flood_does ..) (.of (atClk_does ..)))) (.next .same)

theorem execTopoExpiry_does (id : Nat) (s : State) : NextDoes [.clk, .out, .od, .time, .pipe,
    .tracker, .backdrop, .strand, .side, .recorder] s (execTopoExpiry id s) := by
  unfold execTopoExpiry
  split
  · extract_lets +onlyGivenNames s1
    refine .keep s1 (.of (atClk_does ..)) fun h1 => ?_
    exact .next (.via (noteLost_does ..) (.via (Does.strand _ (fun h => h)) h1))
  · exact .next .same

theorem execDictRead_does (src : Nat) (txn : Nat) (index : Nat) (sub : Nat) (part : DictPart) (s :
    State) : NextDoes [.freeCtr, .out, .od, .cams, .drive, .strand, .recorder] s (execDictRead src
    txn index sub part s) := by
  unfold execDictRead
  extract_lets +onlyGivenNames index2 sub2
  refine .ite (.next .same) ?_
  refine .ite (.next (.of (dictAnswer_does ..))) ?_
  split
  refine .next ?_
  refine .via (dictAnswerFrom_does ..) ?_
  refine Does.pair (by assumption) ?_
  split
  · exact .of (readWhole_does ..)
  · exact .of (readObject_does ..)

theorem execDictWrite_does (src : Nat) (txn : Nat) (index : Nat) (sub : Nat) (whole : Bool) (offset
    : Nat) (total : Nat) (data : List Byte) (s : State) : NextDoes [.clk, .freeCtr, .out, .od, .mem,
    .time, .cams, .pipe, .tracker, .drive, .seqs, .ledger, .loops, .power, .thermal, .backdrop,
    .module, .strand, .dict, .side, .dma, .recorder, .update] s (execDictWrite src txn index sub
    whole offset total data s) := by
  unfold execDictWrite
  extract_lets +onlyGivenNames index2 sub2 open_ old staging
  refine .ite (.next .same) ?_
  clear_value old
  split
  · refine .ite (.next (.of (dictAnswer_does ..))) ?_
    refine .ite (.next (.of (dictAnswer_does ..))) ?_
    extract_lets +onlyGivenNames e
    exact .next (.ite (.of (dictStage_does ..)) (.ite (.of (dictFinish_does ..)) (.of
      (keepPart_does ..))))
  · refine .ite (.next (.via (dictAnswer_does ..) (.of (dropWrite_does ..)))) ?_
    refine .ite (.next (.via (dictAnswer_does ..) (.of (dropWrite_does ..)))) ?_
    extract_lets +onlyGivenNames e
    exact .next (.ite (.of (dictStage_does ..)) (.ite (.of (dictFinish_does ..)) (.of
      (keepPart_does ..))))

theorem execDictSegmentTimeout_does (src : Nat) (txn : Nat) (s : State) : NextDoes [.clk, .out,
    .od, .time, .strand, .recorder] s (execDictSegmentTimeout src txn s) := by
  unfold execDictSegmentTimeout
  split
  · extract_lets +onlyGivenNames s1
    refine .keep s1 (.of (atClk_does ..)) fun h1 => ?_
    exact .next (.via (dictAnswer_does ..) (.via (dropWrite_does ..) h1))
  · exact .next .same

theorem execWinRead_does (src : Nat) (txn : Nat) (address : Nat) (len : Nat) (s : State) : NextDoes
    [.out, .od, .strand, .recorder] s (execWinRead src txn address len s) := by
  unfold execWinRead
  refine .ite (.next .same) ?_
  split
  · exact .next (.via (sendReadData_does ..) (.of (bump_does ..)))
  · exact .next (.via (post_does ..) (.of (bump_does ..)))

theorem execWinWrite_does (src : Nat) (txn : Nat) (address : Nat) (data : List Byte) (s : State) :
    NextDoes [.freeCtr, .out, .od, .mem, .backdrop, .strand, .side, .dma, .recorder, .update] s
    (execWinWrite src txn address data s) := by
  unfold execWinWrite
  refine .ite (.next .same) ?_
  split
  exact .next (.via (post_does ..) (.via (bump_does ..) (Does.pair (by assumption) (.of
    (windowWrite_does ..)))))

theorem execBulkFrame_does (src : Nat) (stream : Nat) (seq : Nat) (last : Bool) (address : Nat)
    (data : List Byte) (s : State) : NextDoes [.od, .mem] s (execBulkFrame src stream seq last
    address data s) := by
  unfold execBulkFrame
  refine .ite (.next .same) ?_
  extract_lets +onlyGivenNames inside
  exact .next (.via (bumpBy_does ..) (.via (bumpBy_does ..) (.of (memWrite_does ..))))

theorem execMboxBell_does (m : Fin 4) (s : State) : NextDoes [.out, .od, .backdrop, .strand, .side,
    .dma, .recorder, .update] s (execMboxBell m s) := by
  unfold execMboxBell
  exact .ite (.next (.of (actBell_does ..))) (.next .same)

theorem execStreamCfgWrite_does (stream : Fin 16) (cfg : Bool) (value : Nat) (s : State) : NextDoes
    [.strand] s (execStreamCfgWrite stream cfg value s) := by
  unfold execStreamCfgWrite
  exact .ite (.next (.of (actStream_does ..))) (.next .same)

theorem execObjectWrite_does (m : Master) (index : Nat) (sub : Nat) (v : Val) (s : State) :
    NextDoes [.clk, .freeCtr, .out, .od, .mem, .time, .cams, .pipe, .tracker, .drive, .seqs, .ledger,
    .loops, .power, .thermal, .backdrop, .module, .strand, .dict, .side, .dma, .recorder, .update] s
    (execObjectWrite m index sub v s) := by
  unfold execObjectWrite
  extract_lets +onlyGivenNames k
  exact .next (.via (noteReset_does ..) (.ite (.of (clearWrite_does ..)) (write_does (by decide)
    (by decide) (by decide) _ _ _ _ _ (.of (act_does ..)))))

theorem execLockAcquire_does (m : Master) (first : Nat) (last : Nat) (lease : Nat) (slot : Nat) (s
    : State) : NextDoes [.out, .od, .backdrop, .strand, .dict, .side, .recorder] s (execLockAcquire m
    first last lease slot s) := by
  unfold execLockAcquire
  exact .next (.of (lockWrite_does ..))

theorem execLockRenew_does (m : Master) (lease : Nat) (slot : Nat) (s : State) : NextDoes [.out,
    .od, .backdrop, .strand, .dict, .side, .recorder] s (execLockRenew m lease slot s) := by
  unfold execLockRenew
  exact .next (.of (lockWrite_does ..))

theorem execLockRelease_does (m : Master) (slot : Nat) (s : State) : NextDoes [.out, .od,
    .backdrop, .strand, .dict, .side, .recorder] s (execLockRelease m slot s) := by
  unfold execLockRelease
  exact .next (.of (lockWrite_does ..))

theorem execLockExpiry_does (slot : Fin 4) (s : State) : NextDoes [.clk, .out, .od, .time,
    .backdrop, .strand, .dict, .side, .recorder] s (execLockExpiry slot s) := by
  unfold execLockExpiry
  split
  · exact .next (.via (expireLock_does ..) (.of (atClk_does ..)))
  · exact .next .same

theorem execStageOpen_does (m : Master) (s : State) : NextDoes [.out, .od, .dict] s (execStageOpen
    m s) := by
  unfold execStageOpen
  unfold stageCommand
  refine .next (write_does (by decide) (by decide) (by decide) _ _ _ _ _ ?_)
  show s.Does _ (if (s.stage m).isOpen then _ else _ : State × Nat).1
  split
  · exact .same
  · exact .of (setStage_does ..)

theorem execStageCommit_does (m : Master) (s : State) : NextDoes [.clk, .freeCtr, .out, .od, .mem,
    .time, .cams, .pipe, .tracker, .drive, .seqs, .ledger, .loops, .power, .thermal, .backdrop,
    .module, .strand, .dict, .side, .dma, .recorder, .update] s (execStageCommit m s) := by
  unfold execStageCommit
  exact .next (.of (stageCommand_does ..))

theorem execStageDiscard_does (m : Master) (s : State) : NextDoes [.out, .od, .dict] s
    (execStageDiscard m s) := by
  unfold execStageDiscard
  unfold stageCommand
  refine .next (write_does (by decide) (by decide) (by decide) _ _ _ _ _ ?_)
  show s.Does _ (if (s.stage m).isOpen then _ else _ : State × Nat).1
  split
  · exact .of (setStage_does ..)
  · exact .same

theorem execStageTimeout_does (m : Master) (s : State) : NextDoes [.clk, .out, .od, .time,
    .backdrop, .strand, .dict, .side, .recorder] s (execStageTimeout m s) := by
  unfold execStageTimeout
  extract_lets +onlyGivenNames g
  refine .ite (.next .same) ?_
  extract_lets +onlyGivenNames s1
  refine .keep s1 (.of (atClk_does ..)) fun h1 => ?_
  exact .next (.via (raise_does ..) (.via (bump_does ..) (.via (setStage_does ..) h1)))

theorem execStoreParameters_does (m : Master) (part : Fin 3) (value : Nat) (ends : StoreEnd) (s :
    State) : NextDoes [.out, .od, .backdrop, .strand, .dict, .side, .dma, .recorder] s
    (execStoreParameters m part value ends s) := by
  unfold execStoreParameters
  split
  · exact .next (.of (storeAnswered_does ..))
  · exact .ite (.next (writeLater_does (by decide) (by decide) (by decide) _ _ _ _ _ (.of
      (actStore_does ..)))) (.next (write_does (by decide) (by decide) (by decide) _ _ _ _ _ (.of
      (actStore_does ..))))

theorem execRestoreDefaults_does (m : Master) (part : Fin 3) (req : RestoreReq) (s : State) :
    NextDoes [.out, .od, .backdrop, .strand, .dict, .side, .dma, .recorder] s (execRestoreDefaults m
    part req s) := by
  unfold execRestoreDefaults
  split
  · exact .next (.of (storeAnswered_does ..))
  · exact .ite (.next (writeLater_does (by decide) (by decide) (by decide) _ _ _ _ _ (.of
      (actRestore_does ..)))) (.next (write_does (by decide) (by decide) (by decide) _ _ _ _ _ (.of
      (actRestore_does ..))))

/-! ### CANopen side-band -/

theorem execNmtStart_does (node : Nat) (s : State) : NextDoes [.out, .od, .backdrop, .strand,
    .side, .recorder] s (execNmtStart node s) := by
  unfold execNmtStart
  exact .next (.of (nmtChange_does ..))

theorem execNmtStop_does (node : Nat) (s : State) : NextDoes [.out, .od, .backdrop, .strand, .side,
    .recorder] s (execNmtStop node s) := by
  unfold execNmtStop
  exact .next (.of (nmtChange_does ..))

theorem execNmtPreOperational_does (node : Nat) (s : State) : NextDoes [.out, .od, .backdrop,
    .strand, .side, .recorder] s (execNmtPreOperational node s) := by
  unfold execNmtPreOperational
  exact .next (.of (nmtChange_does ..))

theorem execNmtResetCommunication_does (node : Nat) (s : State) : NextDoes [.out, .od, .backdrop,
    .strand, .side, .recorder] s (execNmtResetCommunication node s) := by
  unfold execNmtResetCommunication
  exact .ite (.next (.via (noteReset_does ..) (.of (resetComm_does ..)))) (.next .same)

theorem execNmtResetNode_does (node : Nat) (s : State) : NextDoes [.freeCtr, .out, .od, .time,
    .cams, .pipe, .tracker, .drive, .seqs, .ledger, .loops, .power, .thermal, .backdrop, .module,
    .strand, .dict, .side, .dma, .recorder, .update] s (execNmtResetNode node s) := by
  unfold execNmtResetNode
  refine .ite (.next .same) ?_
  extract_lets +onlyGivenNames s1
  refine .keep s1 (.of (resetComm_does ..)) fun h1 => ?_
  exact .next (.via (noteReset_does ..) (.ite h1 (.ite (.via (beginRestart_does ..) h1) (.via
    (islandReset_does ..) h1))))

theorem execCanFrameReceived_does (kind : CanKind) (id : Nat) (data : List Byte) (s : State) :
    NextDoes [.freeCtr, .out, .od, .backdrop, .strand, .side, .recorder] s (execCanFrameReceived kind
    id data s) := by
  unfold execCanFrameReceived
  refine .ite (.next .same) ?_
  split
  · exact .next (.via (settleCan_does ..) (.via (emit_does ..) (.via (setSide_does _ _ (fun h =>
      h)) .same)))
  · exact .next (.via (noteReset_does ..) (.via (settleCan_does ..) (.of (received__does ..))))
  · exact .next (.via (noteReset_does ..) (.via (settleCan_does ..) (.of (received__does ..))))
  · extract_lets +onlyGivenNames s1
    refine .keep s1 (.via (settleCan_does ..) (.of (received__does ..))) fun h1 => ?_
    split
    · exact .next (.via (noteReset_does ..) h1)
    · exact .ite (.next (.via (noteReset_does ..) (.via (landFrame_does ..) h1))) (.next (.via
        (noteReset_does ..) (.via (hear_does ..) h1)))

theorem execCanBusError_does (tec : Nat) (rec_ : Nat) (s : State) : NextDoes [.out, .od, .backdrop,
    .strand, .side, .recorder] s (execCanBusError tec rec_ s) := by
  unfold execCanBusError
  exact .ite (.next .same) (.next (.via (settleCan_does ..) (.via (setSide_does _ _ id) .same)))

theorem execBusOffRecovery_does (s : State) : NextDoes [.clk, .out, .od, .time, .backdrop, .strand,
    .side, .recorder] s (execBusOffRecovery s) := by
  unfold execBusOffRecovery
  refine .ite (.next .same) ?_
  extract_lets +onlyGivenNames due due2 s1 src s2
  refine .keep s1 (.of (atClk_does ..)) fun h1 => ?_
  refine .keep s2 (.via (setSide_does _ _ id) h1) fun h2 => ?_
  exact .next (.via (noteReset_does ..) (.ite (.via (busOffEmcy_does ..) h2) h2))

theorem execClockSourceChange_does (s : State) : NextDoes [.side] s (execClockSourceChange s) := by
  unfold execClockSourceChange
  exact .ite (.next (.via (setSide_does _ _ id) .same)) (.next .same)

theorem execSdoDownload_does (index : Nat) (sub : Nat) (complete : Bool) (data : List Byte)
    (request : SdoDown) (s : State) : NextDoes [.clk, .freeCtr, .out, .od, .mem, .time, .cams, .pipe,
    .tracker, .drive, .seqs, .ledger, .loops, .power, .thermal, .backdrop, .module, .strand, .dict,
    .side, .dma, .recorder, .update] s (execSdoDownload index sub complete data request s) := by
  unfold execSdoDownload
  refine .ite (.next .same) ?_
  refine .ite (.next (.of (sdoRequest_does ..))) ?_
  extract_lets +onlyGivenNames s1
  refine .keep s1 (.of (sdoRequest_does ..)) fun h1 => ?_
  split
  · exact .next (.via (noteReset_does ..) (.via (sdoDownloading_does ..) h1))
  · exact .next (.via (noteReset_does ..) (.via (sdoDownloadStart_does ..) h1))

theorem execSdoUpload_does (index : Nat) (sub : Nat) (request : SdoUp) (s : State) : NextDoes
    [.freeCtr, .out, .od, .cams, .drive, .backdrop, .strand, .side, .recorder] s (execSdoUpload index
    sub request s) := by
  unfold execSdoUpload
  refine .ite (.next .same) ?_
  refine .ite (.next (.of (sdoRequest_does ..))) ?_
  extract_lets +onlyGivenNames s1
  refine .keep s1 (.of (sdoRequest_does ..)) fun h1 => ?_
  split
  · exact .next (.via (noteReset_does ..) (.via (sdoUploading_does ..) h1))
  · exact .next (.via (noteReset_does ..) (.via (sdoUploadStart_does ..) h1))

theorem execSdoTimeout_does (s : State) : NextDoes [.clk, .out, .time, .side] s (execSdoTimeout s)
    := by
  unfold execSdoTimeout
  split
  · exact .next (.via (sdoAbort_does ..) (.of (atClk_does ..)))
  · exact .next .same

theorem execSyncFrame_does (data : List Byte) (s : State) : NextDoes [.clk, .freeCtr, .out, .od,
    .mem, .time, .cams, .pipe, .tracker, .drive, .seqs, .ledger, .loops, .power, .thermal, .backdrop,
    .module, .strand, .dict, .side, .dma, .recorder, .update] s (execSyncFrame data s) := by
  unfold execSyncFrame
  refine .ite (.next .same) ?_
  extract_lets +onlyGivenNames s1
  refine .keep s1 (.of (takeRx_does ..)) fun h1 => ?_
  exact .ite (.next h1) (.next (.via (noteReset_does ..) (Does.foldl (fun _ _ => (.of
    (rpdoSync_does ..))) (Does.foldl (fun _ _ => (.of (tpdoSync_does ..))) h1))))

theorem execRpdo_does (n : Fin 4) (data : List Byte) (s : State) : NextDoes [.clk, .freeCtr, .out,
    .od, .mem, .time, .cams, .pipe, .tracker, .drive, .seqs, .ledger, .loops, .power, .thermal,
    .backdrop, .module, .strand, .dict, .side, .dma, .recorder, .update] s (execRpdo n data s) := by
  unfold execRpdo
  refine .ite (.next .same) ?_
  extract_lets +onlyGivenNames s1 len
  refine .keep s1 (.of (takeRx_does ..)) fun h1 => ?_
  refine .ite (.next (.via (rpdoLength_does ..) h1)) ?_
  extract_lets +onlyGivenNames type
  exact .ite (.next (.via (setRpdo_does ..) h1)) (.next (.via (noteReset_does ..) (.via
    (applyRpdo_does ..) (.via (setRpdo_does ..) h1))))

theorem execTpdoEventTimer_does (n : Fin 4) (s : State) : NextDoes [.clk, .time, .drive, .side,
    .recorder] s (execTpdoEventTimer n s) := by
  unfold execTpdoEventTimer
  extract_lets +onlyGivenNames t
  split
  · exact .next .same
  · refine .ite (.next .same) ?_
    refine .ite (.next (.of (sendTpdo_does ..))) ?_
    extract_lets +onlyGivenNames free timer
    refine .ite (.next (.via (sendTpdo_does ..) (.of (atClk_does ..)))) ?_
    refine .ite (.next .same) ?_
    extract_lets +onlyGivenNames due
    exact .next (.via (sendTpdo_does ..) (.of (atClk_does ..)))

theorem execEmcySend_does (s : State) : NextDoes [.clk, .time, .side] s (execEmcySend s) := by
  unfold execEmcySend
  split
  · exact .next .same
  next e r hs =>
    extract_lets +onlyGivenNames cob
    refine .ite (.next .same) ?_
    extract_lets +onlyGivenNames due s1 src s2
    have hside : s.side = s1.side := (atClk_does s due).only .side (by decide)
    refine .keep s1 (.of (atClk_does ..)) fun h1 => ?_
    refine .keep s2 (.via (setSide_does _ _ fun h => ⟨h.1, h.2.1, ?_⟩) h1) fun h2 => .next (.via
      (queueTx_does ..) h2)
    have h3 : (e :: r).length ≤ 16 := hs ▸ hside ▸ h.2.2
    exact Nat.le_of_succ_le h3

theorem execHeartbeatProduce_does (s : State) : NextDoes [.clk, .time, .side] s
    (execHeartbeatProduce s) := by
  unfold execHeartbeatProduce
  extract_lets +onlyGivenNames ms
  refine .ite (.next .same) ?_
  extract_lets +onlyGivenNames s1 src s2
  refine .keep s1 (.of (atClk_does ..)) fun h1 => ?_
  refine .keep s2 (.via (setSide_does _ _ fun h => ⟨h.1, h.2.1, h.2.2⟩) h1) fun h2 => ?_
  exact .next (.via (queueTx_does ..) h2)

theorem execHeartbeatConsumerTimeout_does (entry : Fin 4) (s : State) : NextDoes [.clk, .out, .od,
    .time, .backdrop, .strand, .side, .recorder] s (execHeartbeatConsumerTimeout entry s) := by
  unfold execHeartbeatConsumerTimeout
  extract_lets +onlyGivenNames v c
  refine .ite (.next .same) ?_
  extract_lets +onlyGivenNames s1 src s2
  refine .keep s1 (.of (atClk_does ..)) fun h1 => ?_
  refine .keep s2 (.via (setSide_does _ _ (fun h => ⟨by simpa using h.1, by simpa using h.2⟩)) h1)
    fun h2 => ?_
  exact .next (.via (raise_does ..) h2)

theorem execLssSwitchGlobal_does (mode : Nat) (s : State) : NextDoes [.side] s (execLssSwitchGlobal
    mode s) := by
  unfold execLssSwitchGlobal
  refine .ite (.next .same) ?_
  extract_lets +onlyGivenNames s1
  refine .keep s1 (.of (takeRx_does ..)) fun h1 => ?_
  exact .next (.ite h1 (.via (setSide_does _ _ id) h1))

theorem execLssSwitchSelective_does (vendor : Nat) (product : Nat) (revision : Nat) (serial : Nat)
    (s : State) : NextDoes [.side] s (execLssSwitchSelective vendor product revision serial s) := by
  unfold execLssSwitchSelective
  refine .ite (.next .same) ?_
  extract_lets +onlyGivenNames s1
  refine .keep s1 (.of (takeRx_does ..)) fun h1 => ?_
  exact .ite (.next (.via (lssAnswer_does ..) (.via (setSide_does _ _ id) h1))) (.next h1)

theorem execLssConfigureNodeId_does (node : Nat) (s : State) : NextDoes [.side] s
    (execLssConfigureNodeId node s) := by
  unfold execLssConfigureNodeId
  refine .next ?_
  refine lssService_does (by decide) _ _ ?_
  intro _
  exact .ite (.via (lssAnswer_does ..) (.via (setSide_does _ _ id) .same)) (.of (lssAnswer_does ..))

theorem execLssConfigureBitTiming_does (table : Nat) (index : Nat) (s : State) : NextDoes [.side] s
    (execLssConfigureBitTiming table index s) := by
  unfold execLssConfigureBitTiming
  refine .next ?_
  refine lssService_does (by decide) _ _ ?_
  intro _
  exact .ite (.via (lssAnswer_does ..) (.via (setSide_does _ _ id) .same)) (.of (lssAnswer_does ..))

theorem execLssActivateBitTiming_does (delay : Nat) (s : State) : NextDoes [.side] s
    (execLssActivateBitTiming delay s) := by
  unfold execLssActivateBitTiming
  refine .next ?_
  refine lssService_does (by decide) _ _ ?_
  intro _
  exact .via (setSide_does _ _ id) .same

theorem execLssSwitchDelayEnd_does (s : State) : NextDoes [.clk, .out, .od, .time, .backdrop,
    .strand, .side, .recorder] s (execLssSwitchDelayEnd s) := by
  unfold execLssSwitchDelayEnd
  split
  · exact .next .same
  · extract_lets +onlyGivenNames s1
    refine .keep s1 (.of (atClk_does ..)) fun h1 => ?_
    exact .ite (.next (.via (raise_does ..) (.via (setSide_does _ _ id) h1))) (.next (.via
      (setSide_does _ _ id) h1))

theorem execLssStoreConfiguration_does (ok : Bool) (s : State) : NextDoes [.out, .od, .backdrop,
    .strand, .side, .recorder] s (execLssStoreConfiguration ok s) := by
  unfold execLssStoreConfiguration
  refine .next ?_
  refine lssService_does (by decide) _ _ ?_
  intro _
  exact .ite (.via (lssAnswer_does ..) (.via (raise_does ..) (.via (setSide_does _ _ id) .same)))
    (.of (lssAnswer_does ..))

theorem execLssInquireVendorId_does (s : State) : NextDoes [.side] s (execLssInquireVendorId s) :=
    by
  unfold execLssInquireVendorId
  exact .next (.of (lssInquire_does ..))

theorem execLssInquireProductCode_does (s : State) : NextDoes [.side] s (execLssInquireProductCode
    s) := by
  unfold execLssInquireProductCode
  exact .next (.of (lssInquire_does ..))

theorem execLssInquireRevision_does (s : State) : NextDoes [.side] s (execLssInquireRevision s) :=
    by
  unfold execLssInquireRevision
  exact .next (.of (lssInquire_does ..))

theorem execLssInquireSerial_does (s : State) : NextDoes [.side] s (execLssInquireSerial s) := by
  unfold execLssInquireSerial
  exact .next (.of (lssInquire_does ..))

theorem execLssInquireNodeId_does (s : State) : NextDoes [.side] s (execLssInquireNodeId s) := by
  unfold execLssInquireNodeId
  refine .next ?_
  refine lssService_does (by decide) _ _ ?_
  intro _
  exact .of (lssAnswer_does ..)

theorem execLssIdentifyRemoteSlave_does (vendor : Nat) (product : Nat) (revLow : Nat) (revHigh :
    Nat) (serLow : Nat) (serHigh : Nat) (s : State) : NextDoes [.side] s (execLssIdentifyRemoteSlave
    vendor product revLow revHigh serLow serHigh s) := by
  unfold execLssIdentifyRemoteSlave
  refine .ite (.next .same) ?_
  extract_lets +onlyGivenNames s1
  refine .keep s1 (.of (takeRx_does ..)) fun h1 => ?_
  exact .ite (.next (.via (lssAnswer_does ..) h1)) (.next h1)

theorem execLssIdentifyNonConfigured_does (s : State) : NextDoes [.side] s
    (execLssIdentifyNonConfigured s) := by
  unfold execLssIdentifyNonConfigured
  refine .ite (.next .same) ?_
  extract_lets +onlyGivenNames s1
  refine .keep s1 (.of (takeRx_does ..)) fun h1 => ?_
  exact .next (.ite (.via (lssAnswer_does ..) h1) h1)

theorem execLssFastscan_does (number : Nat) (bitCheck : Nat) (sub : Nat) (next : Nat) (s : State) :
    NextDoes [.side] s (execLssFastscan number bitCheck sub next s) := by
  unfold execLssFastscan
  refine .ite (.next .same) ?_
  extract_lets +onlyGivenNames s1
  refine .keep s1 (.of (takeRx_does ..)) fun h1 => ?_
  exact .ite (.next h1) (.ite (.next (.via (lssAnswer_does ..) (.via (setSide_does _ _ id) h1)))
    (.ite (.next h1) (.ite (.next (.via (lssAnswer_does ..) (.via (setSide_does _ _ id) h1)))
    (.next h1))))

/-! ### DMA engine and the event recorder -/

theorem execChStart_does (c : ChanRead) (s : State) : NextDoes [.out, .od, .backdrop, .strand,
    .side, .dma, .recorder] s (execChStart c s) := by
  unfold execChStart
  exact .ite (.next (.of (actChStart_does ..))) (.next .same)

theorem execChAbort_does (c : Fin 16) (moved : Burst) (data : List Byte) (s : State) : NextDoes
    [.out, .od, .mem, .backdrop, .strand, .side, .dma, .recorder] s (execChAbort c moved data s) := by
  unfold execChAbort
  exact .ite (.next (.via (settleFifo_does ..) (.of (dmaAbort_does ..)))) (.next .same)

theorem execChAppend_does (c : ChanRead) (s : State) : NextDoes [.out, .od, .backdrop, .strand,
    .side, .dma, .recorder] s (execChAppend c s) := by
  unfold execChAppend
  exact .ite (.next (.of (actChAppend_does ..))) (.next .same)

theorem execChNextWrite_does (c : Fin 16) (value : Nat) (s : State) : NextDoes [.dma] s
    (execChNextWrite c value s) := by
  unfold execChNextWrite
  exact .ite (.next (.of (actChNext_does ..))) (.next .same)

theorem execChIrqClear_does (c : Fin 16) (s : State) : NextDoes [.dma] s (execChIrqClear c s) := by
  unfold execChIrqClear
  exact .ite (.next (.of (actChIrq_does ..))) (.next .same)

theorem execChIrqUnmask_does (c : Fin 16) (unmask : Bool) (s : State) : NextDoes [.dma] s
    (execChIrqUnmask c unmask s) := by
  unfold execChIrqUnmask
  exact .ite (.next (.of (actChIrq_does ..))) (.next .same)

theorem execDescriptorComplete_does (data : List Byte) (bad : Option MemError) (s : State) :
    NextDoes [.clk, .freeCtr, .out, .od, .mem, .time, .cams, .pipe, .tracker, .drive, .seqs, .ledger,
    .loops, .power, .thermal, .backdrop, .module, .strand, .dict, .side, .pins, .dma, .recorder,
    .update] s (execDescriptorComplete data bad s) := by
  unfold execDescriptorComplete
  extract_lets +onlyGivenNames s1
  refine .keep s1 (.via (dmaFollow_does ..) (Does.foldl (fun _ _ => (.of (pump_does ..))) .same))
    fun h1 => ?_
  split
  · exact .next .same
  · extract_lets +onlyGivenNames x
    refine .ite (.next .same) ?_
    split
    exact .ite (.next (.via (settleFifo_does ..) (.via (dmaFail_does ..) (Does.pair (by assumption)
      (.via (moveBytes_does ..) (.via (noteCorrected_does ..) h1)))))) (.ite (.next (.via
      (setChan_does ..) (Does.pair (by assumption) (.via (moveBytes_does ..) (.via
      (noteCorrected_does ..) h1))))) (.ite (.next (Does.pair (by assumption) (.via (moveBytes_does
      ..) (.via (noteCorrected_does ..) h1)))) (.next (.via (settleFifo_does ..) (.via
      (finishDescriptor_does ..) (Does.pair (by assumption) (.via (moveBytes_does ..) (.via
      (noteCorrected_does ..) h1))))))))

theorem execRequestorAssert_does (code : Nat) (s : State) : NextDoes [.out, .od, .backdrop,
    .strand, .side, .dma, .recorder] s (execRequestorAssert code s) := by
  unfold execRequestorAssert
  exact .ite (.next .same) (.ite (.next (.via (dmaAssert_does ..) (.via (Does.dma _ id) .same)))
    (.next (.via (dmaFollow_does ..) (Does.foldl (fun _ _ => (.of (pump_does ..))) .same))))

theorem execRequestorWithdraw_does (code : Nat) (moved : Burst) (data : List Byte) (s : State) :
    NextDoes [.out, .od, .mem, .backdrop, .strand, .side, .dma, .recorder] s (execRequestorWithdraw
    code moved data s) := by
  unfold execRequestorWithdraw
  extract_lets +onlyGivenNames src s1
  refine .keep s1 (.via (Does.dma _ id) .same) fun h1 => ?_
  refine .ite (.next .same) ?_
  split
  · exact .next (.via (settleFifo_does ..) (.via (holdHead_does ..) h1))
  · exact .next h1

theorem execDmaStall_does (s : State) : NextDoes [.clk, .out, .od, .time, .backdrop, .strand,
    .side, .dma, .recorder] s (execDmaStall s) := by
  unfold execDmaStall
  split
  · exact .next .same
  · extract_lets +onlyGivenNames x
    refine .ite ?_ (.next .same)
    extract_lets +onlyGivenNames s1
    refine .keep s1 (.of (atClk_does ..)) fun h1 => ?_
    exact .next (.via (settleFifo_does ..) (.via (dmaFail_does ..) (.via (flushBulk_does ..) (.via
      (bump_does ..) h1))))

theorem execRecordWriteDone_does (s : State) : NextDoes [.out, .od, .strand, .side, .recorder] s
    (execRecordWriteDone s) := by
  unfold execRecordWriteDone
  split
  · exact .next .same
  · extract_lets +onlyGivenNames reply src s1 s2
    refine .keep s1 (.via (endWrite_does _ _ ((by assumption))) (.via (Does.recorder _ id) .same))
      fun h1 => ?_
    refine .keep s2 ?_ fun h2 => ?_
    · unfold s2
      clear_value reply
      split
      · exact .via (answerClear_does ..) h1
      · exact h1
    exact .next (.via (nextTrigger_does ..) h2)

theorem execTallySample_does (s : State) : NextDoes [.clk, .time, .recorder] s (execTallySample s)
    := by
  unfold execTallySample
  refine .ite (.next .same) ?_
  extract_lets +onlyGivenNames s1 lines s2 s3 s4
  refine .keep s1 (.of (atClk_does ..)) fun h1 => ?_
  refine .keep s2 (.via (sample_does ..) (.via (sample_does ..) (.via (sample_does ..) (.via
    (sample_does ..) h1)))) fun h2 => ?_
  refine .keep s3 (.via (sample_does ..) (.via (sample_does ..) h2)) fun h3 => ?_
  refine .keep s4 (Does.foldl (fun _ _ => (.of (sample_does ..))) h3) fun h4 => ?_
  exact .next (.via (Does.recorder _ fun h => ⟨h.1, h.2.1, h.2.2.1, h.2.2.2⟩) h4)

theorem execTallyConfigWrite_does (m : Master) (sub : Nat) (v : Val) (s : State) : NextDoes [.out,
    .od, .dict, .recorder] s (execTallyConfigWrite m sub v s) := by
  unfold execTallyConfigWrite
  exact .next (write_does (by decide) (by decide) (by decide) _ _ _ _ _ (.of (actTallyConfig_does
    ..)))

theorem execSelectBySequence_does (m : Master) (seq : Nat) (s : State) : NextDoes [.out, .od,
    .dict, .recorder] s (execSelectBySequence m seq s) := by
  unfold execSelectBySequence
  exact .next (write_does (by decide) (by decide) (by decide) _ _ _ _ _ (.of (actSelectSeq_does
    ..)))

theorem execExportLog_does (m : Master) (address : Nat) (s : State) : NextDoes [.out, .od, .dict,
    .dma, .recorder] s (execExportLog m address s) := by
  unfold execExportLog
  exact .next (write_does (by decide) (by decide) (by decide) _ _ _ _ _ (.of (actExport_does ..)))

theorem execExportDone_does (s : State) : NextDoes [.out, .od, .mem, .backdrop, .strand, .side,
    .dma, .recorder] s (execExportDone s) := by
  unfold execExportDone
  split
  · refine .ite (.next .same) ?_
    extract_lets +onlyGivenNames s1
    refine .keep s1 (.of (memWrite_does ..)) fun h1 => ?_
    exact .next (.via (raise_does ..) (.via (fwEnd_does ..) (.via (Does.recorder _ id) h1)))
  · exact .next .same

theorem execClearChallenge_does (m : Master) (s : State) : NextDoes [.freeCtr, .out, .recorder] s
    (execClearChallenge m s) := by
  unfold execClearChallenge
  refine .ite (.next .same) ?_
  extract_lets +onlyGivenNames c
  refine .ite (.next (.of (answer_does ..))) ?_
  refine .ite (.next (.of (answer_does ..))) ?_
  split
  exact .next (.via (answer_does ..) (Does.pair (by assumption) (.of (newChallenge_does ..))))

theorem execClearResponse_does (m : Master) (response : List Byte) (s : State) : NextDoes [.out,
    .od, .backdrop, .strand, .dict, .side, .recorder] s (execClearResponse m response s) := by
  unfold execClearResponse
  exact .next (.of (clearWrite_does ..))

theorem execClearLockExpiry_does (s : State) : NextDoes [.clk, .time, .recorder] s
    (execClearLockExpiry s) := by
  unfold execClearLockExpiry
  split
  · extract_lets +onlyGivenNames s1
    refine .keep s1 (.of (atClk_does ..)) fun h1 => ?_
    exact .next (.via (Does.recorder _ id) h1)
  · exact .next .same

/-! ### Update engine -/

theorem execStagingImageWrite_does (m : Master) (offset : Nat) (total : Nat) (data : List Byte) (s
    : State) : NextDoes [.out, .od, .backdrop, .strand, .dict, .side, .recorder, .update] s
    (execStagingImageWrite m offset total data s) := by
  unfold execStagingImageWrite
  exact .next (write_does (by decide) (by decide) (by decide) _ _ _ _ _ (.of (actStaging_does ..)))

theorem execStagingIdleTimeout_does (s : State) : NextDoes [.clk, .out, .od, .time, .backdrop,
    .strand, .side, .recorder, .update] s (execStagingIdleTimeout s) := by
  unfold execStagingIdleTimeout
  exact .ite (.next (.via (abortTransfer_does ..) (.of (atClk_does ..)))) (.next .same)

theorem execVerifyDone_does (s : State) : NextDoes [.out, .od, .backdrop, .strand, .side,
    .recorder, .update] s (execVerifyDone s) := by
  unfold execVerifyDone
  refine .ite (.next .same) ?_
  extract_lets +onlyGivenNames c x s1
  refine .keep s1 (.of (Does.update _)) fun h1 => ?_
  exact .next (.ite (.via (raise_does ..) h1) (.via (raise_does ..) (.via (bump_does ..) h1)))

theorem execUpdateVerifyAgain_does (m : Master) (s : State) : NextDoes [.out, .od, .dict, .update]
    s (execUpdateVerifyAgain m s) := by
  unfold execUpdateVerifyAgain
  exact .next (updateWrite_does (by decide) (by decide) (by decide) _ _ _ _ (.of
    (actVerifyAgain_does ..)))

theorem execUpdateMarkPending_does (m : Master) (s : State) : NextDoes [.out, .od, .backdrop,
    .strand, .dict, .side, .recorder, .update] s (execUpdateMarkPending m s) := by
  unfold execUpdateMarkPending
  exact .next (updateWrite_does (by decide) (by decide) (by decide) _ _ _ _ (.of
    (actMarkPending_does ..)))

theorem execUpdateMarkPendingRestart_does (m : Master) (s : State) : NextDoes [.freeCtr, .out, .od,
    .time, .cams, .pipe, .tracker, .drive, .seqs, .ledger, .loops, .power, .thermal, .backdrop,
    .module, .strand, .dict, .side, .dma, .recorder, .update] s (execUpdateMarkPendingRestart m s) :=
    by
  unfold execUpdateMarkPendingRestart
  exact .next (updateWrite_does (by decide) (by decide) (by decide) _ _ _ _ (.of
    (actMarkPendingRestart_does ..)))

theorem execUpdateCancelPending_does (m : Master) (s : State) : NextDoes [.out, .od, .backdrop,
    .strand, .dict, .side, .recorder, .update] s (execUpdateCancelPending m s) := by
  unfold execUpdateCancelPending
  exact .next (updateWrite_does (by decide) (by decide) (by decide) _ _ _ _ (.of
    (actCancelPending_does ..)))

theorem execUpdateRestartFromStaging_does (m : Master) (s : State) : NextDoes [.freeCtr, .out, .od,
    .time, .cams, .pipe, .tracker, .drive, .seqs, .ledger, .loops, .power, .thermal, .backdrop,
    .module, .strand, .dict, .side, .dma, .recorder, .update] s (execUpdateRestartFromStaging m s) :=
    by
  unfold execUpdateRestartFromStaging
  exact .next (updateWrite_does (by decide) (by decide) (by decide) _ _ _ _ (.of
    (actRestartFromStaging_does ..)))

theorem execUpdateStageFromDdr_does (m : Master) (s : State) : NextDoes [.out, .od, .backdrop,
    .strand, .dict, .side, .dma, .recorder, .update] s (execUpdateStageFromDdr m s) := by
  unfold execUpdateStageFromDdr
  exact .next (updateWrite_does (by decide) (by decide) (by decide) _ _ _ _ (.of
    (actStageFromDdr_does ..)))

theorem execCopyBlockDone_does (s : State) : NextDoes [.out, .od, .backdrop, .strand, .side,
    .recorder, .update] s (execCopyBlockDone s) := by
  unfold execCopyBlockDone
  extract_lets +onlyGivenNames u
  refine .ite (.next .same) ?_
  extract_lets +onlyGivenNames n s1
  refine .keep s1 (.of (Does.update _)) fun h1 => ?_
  exact .next (.via (settleFirstStart_does ..) (.via (emit_does ..) h1))

theorem execFirstStartWatchEnd_does (s : State) : NextDoes [.clk, .out, .od, .time, .backdrop,
    .strand, .side, .recorder, .update] s (execFirstStartWatchEnd s) := by
  unfold execFirstStartWatchEnd
  split
  · exact .next .same
  · extract_lets +onlyGivenNames s1
    refine .keep s1 (.of (atClk_does ..)) fun h1 => ?_
    exact .next (.via (settleFirstStart_does ..) (.via (Does.update _) h1))

theorem execLibrarySlotWrite_does (m : Master) (slot : Nat) (image : List Byte) (s : State) :
    NextDoes [.out, .od, .backdrop, .strand, .dict, .side, .dma, .recorder, .update] s
    (execLibrarySlotWrite m slot image s) := by
  unfold execLibrarySlotWrite
  exact .next (write_does (by decide) (by decide) (by decide) _ _ _ _ _ (.of (actLibrarySlot_does
    ..)))

theorem execAirOkEdge_does (level : Bool) (s : State) : NextDoes [.out, .od, .backdrop, .strand,
    .side, .pins, .recorder] s (execAirOkEdge level s) := by
  unfold execAirOkEdge
  exact .ite (.next .same) (.next (.via (raise_does ..) (.via (Does.pins _ id) .same)))

theorem execGuardOkEdge_does (level : Bool) (s : State) : NextDoes [.out, .od, .backdrop, .strand,
    .side, .pins, .recorder] s (execGuardOkEdge level s) := by
  unfold execGuardOkEdge
  exact .ite (.next .same) (.next (.via (raise_does ..) (.via (Does.pins _ id) .same)))

theorem execDoutOverload_does (out : Fin 5) (s : State) : NextDoes [.out, .od, .backdrop, .strand,
    .side, .pins, .recorder] s (execDoutOverload out s) := by
  unfold execDoutOverload
  exact .ite (.next (.via (raise_does ..) (.via (emit_does ..) (.of (setFault_does ..))))) (.next
    .same)

theorem execDoutRetry_does (out : Fin 5) (s : State) : NextDoes [.clk, .out, .time, .pins] s
    (execDoutRetry out s) := by
  unfold execDoutRetry
  split
  · exact .next .same
  · refine .ite (.next .same) ?_
    extract_lets +onlyGivenNames s1
    refine .keep s1 (.via (setFault_does ..) (.of (atClk_does ..))) fun h1 => ?_
    exact .next (.via (emit_does ..) h1)

theorem execStrapRead_does (row : Nat) (westEnd : Bool) (s : State) : NextDoes [.out, .od,
    .backdrop, .strand, .side, .recorder] s (execStrapRead row westEnd s) := by
  unfold execStrapRead
  exact .ite (.next .same) (.next (.via (refreshTopo_does ..) (.via (learnId_does ..) (.via
    (Does.strand _ id) .same))))

theorem execTachometerPulse_does (fan : Fin 4) (period : Nat) (s : State) : NextDoes [.clk, .out,
    .time, .ledger, .loops, .power, .thermal] s (execTachometerPulse fan period s) := by
  unfold execTachometerPulse
  refine .ite (.next .same) ?_
  extract_lets +onlyGivenNames s1 rpm src x s2
  refine .keep s1 (.of (atClk_does ..)) fun h1 => ?_
  have ht : s1.Does [.thermal] { s1 with thermal := s2.thermal } := Does.thermal _ fun h => by
    simpa [Thermal.shaped, s2] using h
  have hp : ({ s1 with thermal := s2.thermal } : State).Does [.power] s2 := Does.power _
  exact .next (.via (fanRatioSample_does ..) (.via (settleOuts_does ..) (.via (fanSpeedIn_does ..)
    (.via hp (.via ht h1)))))

theorem execIslandWatchdogExpiry_does (s : State) : NextDoes [.out, .od, .backdrop, .module,
    .strand, .side, .recorder] s (execIslandWatchdogExpiry s) := by
  unfold execIslandWatchdogExpiry
  exact .next (.ite (.via (noteReset_does ..) (.of (islandReset_does ..))) .same)

theorem execCanFrameSent_does (s : State) : NextDoes [.out, .od, .backdrop, .strand, .side,
    .recorder] s (execCanFrameSent s) := by
  unfold execCanFrameSent
  split
  · exact .next .same
  · refine .ite (.next .same) ?_
    extract_lets +onlyGivenNames src emcy s1 s2 s3 s4
    refine .keep s1 (.via (setSide_does _ _ id) .same) fun h1 => ?_
    refine .keep s2 (.via (emit_does ..) h1) fun h2 => ?_
    refine .keep s3 (.ite (.via (tpdoSent_does ..) h2) h2) fun h3 => ?_
    refine .keep s4 (.ite (.via (busOffEmcy_does ..) h3) h3) fun h4 => ?_
    exact .next (.via (noteReset_does ..) (.via (settleCan_does ..) h4))

end Sys2Proof.Machine
end


section
/-!
What every command leaves, and what the idle tick may change.
-/
set_option Elab.async false
set_option linter.all false

namespace Sys2Proof.Machine

open Sys2Proof State

/-- What every command leaves: the queue of waiting commands and the variant, and local time does not go back. -/
theorem NextDoes.completes {ps : List Part} {s : State} {o : Host.Outcome State Fault Refusal} (h : NextDoes ps s o)
    (k : Part.pending ∉ ps ∧ Part.variant ∉ ps := by decide) :
    ∃ t, o = .next t ∧ t.pending = s.pending ∧ t.variant = s.variant ∧ s.clk ≤ t.clk := by
  obtain ⟨t, e, d⟩ := h
  exact ⟨t, e, d.only .pending k.1, d.only .variant k.2, d.clk⟩

theorem exec_descriptorComplete (data : List Byte) (bad : Option MemError) (s : State) :
    exec (.descriptorComplete data bad) s = execDescriptorComplete data bad s := rfl

/-- Settles O43: command by command, from what each `exec` function does. -/
theorem everyCommandCompletes : Obligations.EveryCommandCompletes := by
  intro c s
  cases c with
  | syncInterval => exact (execSyncInterval_does ..).completes
  | timeSync => exact (execTimeSync_does ..).completes
  | timeReply => exact (execTimeReply_does ..).completes
  | timeFollow => exact (execTimeFollow_does ..).completes
  | upstreamTimeout => exact (execUpstreamTimeout_does ..).completes
  | electionTimeout => exact (execElectionTimeout_does ..).completes
  | announce => exact (execAnnounce_does ..).completes
  | holdoverLimit => exact (execHoldoverLimit_does ..).completes
  | learnedFrequencyValid => exact (execLearnedFrequencyValid_does ..).completes
  | rootPllLockLost => exact (execRootPllLockLost_does ..).completes
  | syncInEdge => exact (execSyncInEdge_does ..).completes
  | syncOutPulse => exact (execSyncOutPulse_does ..).completes
  | lineTrigger => exact (execLineTrigger_does ..).completes
  | gateEdge => exact (execGateEdge_does ..).completes
  | pairingTimeout => exact (execPairingTimeout_does ..).completes
  | lineStart => exact (execLineStart_does ..).completes
  | lineComplete => exact (execLineComplete_does ..).completes
  | shortLine => exact (execShortLine_does ..).completes
  | fifoOverrun => exact (execFifoOverrun_does ..).completes
  | fvalFall => exact (execFvalFall_does ..).completes
  | settingsCommand => exact (execSettingsCommand_does ..).completes
  | rawTransmit => exact (execRawTransmit_does ..).completes
  | settingsTransmitStart => exact (execSettingsTransmitStart_does ..).completes
  | settingsTransmitEnd => exact (execSettingsTransmitEnd_does ..).completes
  | serialReceive => exact (execSerialReceive_does ..).completes
  | replyTimeout => exact (execReplyTimeout_does ..).completes
  | cc1WidthApply => exact (execCc1WidthApply_does ..).completes
  | startPort => exact (execStartPort_does ..).completes
  | startPlane => exact (execStartPlane_does ..).completes
  | stopStream => exact (execStopStream_does ..).completes
  | poclDetectionDone => exact (execPoclDetectionDone_does ..).completes
  | pixelClockStable => exact (execPixelClockStable_does ..).completes
  | pixelClockTimeout => exact (execPixelClockTimeout_does ..).completes
  | startupBlockSent => exact (execStartupBlockSent_does ..).completes
  | settleElapsed => exact (execSettleElapsed_does ..).completes
  | poclTrip => exact (execPoclTrip_does ..).completes
  | poclReapply => exact (execPoclReapply_does ..).completes
  | poclRearm => exact (execPoclRearm_does ..).completes
  | pixelClockLoss => exact (execPixelClockLoss_does ..).completes
  | portRecovery => exact (execPortRecovery_does ..).completes
  | portRejoin => exact (execPortRejoin_does ..).completes
  | fixStripe => exact (execFixStripe_does ..).completes
  | contextTableWrite => exact (execContextTableWrite_does ..).completes
  | gradeFrameTake => exact (execGradeFrameTake_does ..).completes
  | gradeFrameDone => exact (execGradeFrameDone_does ..).completes
  | objectClassified => exact (execObjectClassified_does ..).completes
  | bankImageWrite => exact (execBankImageWrite_does ..).completes
  | libraryLoad => exact (execLibraryLoad_does ..).completes
  | libraryLoadDone => exact (execLibraryLoadDone_does ..).completes
  | bankSwapRequest => exact (execBankSwapRequest_does ..).completes
  | captureDark => exact (execCaptureDark_does ..).completes
  | captureGrey => exact (execCaptureGrey_does ..).completes
  | captureBackdrop => exact (execCaptureBackdrop_does ..).completes
  | captureComplete => exact (execCaptureComplete_does ..).completes
  | captureTimeout => exact (execCaptureTimeout_does ..).completes
  | fixArrival => exact (execFixArrival_does ..).completes
  | upperSightingArrival => exact (execUpperSightingArrival_does ..).completes
  | fixDeadline => exact (execFixDeadline_does ..).completes
  | fireDecision => exact (execFireDecision_does ..).completes
  | recordRetire => exact (execRecordRetire_does ..).completes
  | dropGeometryWrite => exact (execDropGeometryWrite_does ..).completes
  | placementWrite => exact (execPlacementWrite_does ..).completes
  | governorRun => exact (execGovernorRun_does ..).completes
  | chipFrame => exact (execChipFrame_does ..).completes
  | chipReassemblyTimeout => exact (execChipReassemblyTimeout_does ..).completes
  | verdictMessage src => exact (execVerdictMessage_does src ..).completes
  | refusalMessage => exact (execRefusalMessage_does ..).completes
  | fireMessage => exact (execFireMessage_does ..).completes
  | floorRecompute => exact (execFloorRecompute_does ..).completes
  | deferralLimit => exact (execDeferralLimit_does ..).completes
  | kinkWindowOpen => exact (execKinkWindowOpen_does ..).completes
  | kinkWindowEnd => exact (execKinkWindowEnd_does ..).completes
  | thermalUpdate => exact (execThermalUpdate_does ..).completes
  | valveEnDeassert => exact (execValveEnDeassert_does ..).completes
  | valveEnAssert => exact (execValveEnAssert_does ..).completes
  | valveEnSettled => exact (execValveEnSettled_does ..).completes
  | groupOvercurrent => exact (execGroupOvercurrent_does ..).completes
  | coilShort => exact (execCoilShort_does ..).completes
  | valveStateWrite => exact (execValveStateWrite_does ..).completes
  | groupRestore => exact (execGroupRestore_does ..).completes
  | testShot => exact (execTestShot_does ..).completes
  | nop => exact (execNop_does ..).completes
  | boost => exact (execBoost_does ..).completes
  | boostPhaseEnd => exact (execBoostPhaseEnd_does ..).completes
  | boostAbandon => exact (execBoostAbandon_does ..).completes
  | hold => exact (execHold_does ..).completes
  | holdEnd => exact (execHoldEnd_does ..).completes
  | seti => exact (execSeti_does ..).completes
  | decay => exact (execDecay_does ..).completes
  | wait => exact (execWait_does ..).completes
  | waitExpiry => exact (execWaitExpiry_does ..).completes
  | waiti => exact (execWaiti_does ..).completes
  | waitiConditionMet => exact (execWaitiConditionMet_does ..).completes
  | waitiTimeout => exact (execWaitiTimeout_does ..).completes
  | mark => exact (execMark_does ..).completes
  | off => exact (execOff_does ..).completes
  | loop => exact (execLoop_does ..).completes
  | profileEnd => exact (execProfileEnd_does ..).completes
  | illegalWord => exact (execIllegalWord_does ..).completes
  | sequencerIdle => exact (execSequencerIdle_does ..).completes
  | shadowImageWrite => exact (execShadowImageWrite_does ..).completes
  | imageAllGroups => exact (execImageAllGroups_does ..).completes
  | groupSwapRequest => exact (execGroupSwapRequest_does ..).completes
  | swapAllGroups => exact (execSwapAllGroups_does ..).completes
  | groupSwap => exact (execGroupSwap_does ..).completes
  | swapHold => exact (execSwapHold_does ..).completes
  | swapAbandon => exact (execSwapAbandon_does ..).completes
  | profileSelect => exact (execProfileSelect_does ..).completes
  | operatingHour => exact (execOperatingHour_does ..).completes
  | valveReplaced => exact (execValveReplaced_does ..).completes
  | dieMarginSample => exact (execDieMarginSample_does ..).completes
  | bulkRechargeMeasured => exact (execBulkRechargeMeasured_does ..).completes
  | loopSample => exact (execLoopSample_does ..).completes
  | loopBankWrite => exact (execLoopBankWrite_does ..).completes
  | loopBankSwap => exact (execLoopBankSwap_does ..).completes
  | loopRearm => exact (execLoopRearm_does ..).completes
  | loopEnableWrite => exact (execLoopEnableWrite_does ..).completes
  | pin0Pulse => exact (execPin0Pulse_does ..).completes
  | traceArm => exact (execTraceArm_does ..).completes
  | traceForceTrigger => exact (execTraceForceTrigger_does ..).completes
  | traceStop => exact (execTraceStop_does ..).completes
  | traceSample => exact (execTraceSample_does ..).completes
  | panelScan => exact (execPanelScan_does ..).completes
  | pairComplete => exact (execPairComplete_does ..).completes
  | waveformTableWrite => exact (execWaveformTableWrite_does ..).completes
  | regionGo => exact (execRegionGo_does ..).completes
  | imageSlotWrite => exact (execImageSlotWrite_does ..).completes
  | trimMapWrite => exact (execTrimMapWrite_does ..).completes
  | railStep => exact (execRailStep_does ..).completes
  | railHoldExpiry => exact (execRailHoldExpiry_does ..).completes
  | railPowerDownStep => exact (execRailPowerDownStep_does ..).completes
  | stripWrite => exact (execStripWrite_does ..).completes
  | islandStripWrite => exact (execIslandStripWrite_does ..).completes
  | panelGrey => exact (execPanelGrey_does ..).completes
  | panelHome => exact (execPanelHome_does ..).completes
  | eventCodeAck => exact (execEventCodeAck_does ..).completes
  | strobePulse => exact (execStrobePulse_does ..).completes
  | strobeEnable => exact (execStrobeEnable_does ..).completes
  | mainsUp => exact (execMainsUp_does ..).completes
  | mainsOutOfRange => exact (execMainsOutOfRange_does ..).completes
  | inputPowerSample => exact (execInputPowerSample_does ..).completes
  | railOutOfRegulation => exact (execRailOutOfRegulation_does ..).completes
  | powerFailWarning => exact (execPowerFailWarning_does ..).completes
  | mainsReturn => exact (execMainsReturn_does ..).completes
  | mainSideOffElapsed => exact (execMainSideOffElapsed_does ..).completes
  | mooredRequest => exact (execMooredRequest_does ..).completes
  | mooredUpdatesDone => exact (execMooredUpdatesDone_does ..).completes
  | mooredEntryTimeout => exact (execMooredEntryTimeout_does ..).completes
  | wakeTimer => exact (execWakeTimer_does ..).completes
  | wakeIn => exact (execWakeIn_does ..).completes
  | wakeCanopen => exact (execWakeCanopen_does ..).completes
  | vSbLoss => exact (execVSbLoss_does ..).completes
  | vSbReturn => exact (execVSbReturn_does ..).completes
  | dieSample => exact (execDieSample_does ..).completes
  | diodeBrokenLimit => exact (execDiodeBrokenLimit_does ..).completes
  | fanStall => exact (execFanStall_does ..).completes
  | stateIdle => exact (execStateIdle_does ..).completes
  | stateCalibrate => exact (execStateCalibrate_does ..).completes
  | stateSort => exact (execStateSort_does ..).completes
  | sortingReached => exact (execSortingReached_does ..).completes
  | sortStopDone => exact (execSortStopDone_does ..).completes
  | mainSideStart => exact (execMainSideStart_does ..).completes
  | resumeSorting => exact (execResumeSorting_does ..).completes
  | watchdogExpiry => exact (execWatchdogExpiry_does ..).completes
  | restartCommand => exact (execRestartCommand_does ..).completes
  | signalDetect => exact (execSignalDetect_does ..).completes
  | retrainTimer => exact (execRetrainTimer_does ..).completes
  | hello => exact (execHello_does ..).completes
  | syncHeaderErrors => exact (execSyncHeaderErrors_does ..).completes
  | unknownControlBlock => exact (execUnknownControlBlock_does ..).completes
  | heartbeatSend => exact (execHeartbeatSend_does ..).completes
  | heartbeatReceived => exact (execHeartbeatReceived_does ..).completes
  | heartbeatLoss => exact (execHeartbeatLoss_does ..).completes
  | frameReceived => exact (execFrameReceived_does ..).completes
  | ackBlock => exact (execAckBlock_does ..).completes
  | creditBlock => exact (execCreditBlock_does ..).completes
  | frameForward => exact (execFrameForward_does ..).completes
  | topoRecord => exact (execTopoRecord_does ..).completes
  | topoFlood => exact (execTopoFlood_does ..).completes
  | topoExpiry => exact (execTopoExpiry_does ..).completes
  | dictRead => exact (execDictRead_does ..).completes
  | dictWrite => exact (execDictWrite_does ..).completes
  | dictSegmentTimeout => exact (execDictSegmentTimeout_does ..).completes
  | winRead => exact (execWinRead_does ..).completes
  | winWrite => exact (execWinWrite_does ..).completes
  | bulkFrame => exact (execBulkFrame_does ..).completes
  | mboxBell => exact (execMboxBell_does ..).completes
  | streamCfgWrite => exact (execStreamCfgWrite_does ..).completes
  | objectWrite => exact (execObjectWrite_does ..).completes
  | lockAcquire => exact (execLockAcquire_does ..).completes
  | lockRenew => exact (execLockRenew_does ..).completes
  | lockRelease => exact (execLockRelease_does ..).completes
  | lockExpiry => exact (execLockExpiry_does ..).completes
  | stageOpen => exact (execStageOpen_does ..).completes
  | stageCommit => exact (execStageCommit_does ..).completes
  | stageDiscard => exact (execStageDiscard_does ..).completes
  | stageTimeout => exact (execStageTimeout_does ..).completes
  | storeParameters => exact (execStoreParameters_does ..).completes
  | restoreDefaults => exact (execRestoreDefaults_does ..).completes
  | nmtStart => exact (execNmtStart_does ..).completes
  | nmtStop => exact (execNmtStop_does ..).completes
  | nmtPreOperational => exact (execNmtPreOperational_does ..).completes
  | nmtResetCommunication => exact (execNmtResetCommunication_does ..).completes
  | nmtResetNode => exact (execNmtResetNode_does ..).completes
  | canFrameReceived => exact (execCanFrameReceived_does ..).completes
  | canBusError => exact (execCanBusError_does ..).completes
  | busOffRecovery => exact (execBusOffRecovery_does ..).completes
  | clockSourceChange => exact (execClockSourceChange_does ..).completes
  | sdoDownload => exact (execSdoDownload_does ..).completes
  | sdoUpload => exact (execSdoUpload_does ..).completes
  | sdoTimeout => exact (execSdoTimeout_does ..).completes
  | syncFrame => exact (execSyncFrame_does ..).completes
  | rpdo => exact (execRpdo_does ..).completes
  | tpdoEventTimer => exact (execTpdoEventTimer_does ..).completes
  | emcySend => exact (execEmcySend_does ..).completes
  | heartbeatProduce => exact (execHeartbeatProduce_does ..).completes
  | heartbeatConsumerTimeout => exact (execHeartbeatConsumerTimeout_does ..).completes
  | lssSwitchGlobal => exact (execLssSwitchGlobal_does ..).completes
  | lssSwitchSelective => exact (execLssSwitchSelective_does ..).completes
  | lssConfigureNodeId => exact (execLssConfigureNodeId_does ..).completes
  | lssConfigureBitTiming => exact (execLssConfigureBitTiming_does ..).completes
  | lssActivateBitTiming => exact (execLssActivateBitTiming_does ..).completes
  | lssSwitchDelayEnd => exact (execLssSwitchDelayEnd_does ..).completes
  | lssStoreConfiguration => exact (execLssStoreConfiguration_does ..).completes
  | lssInquireVendorId => exact (execLssInquireVendorId_does ..).completes
  | lssInquireProductCode => exact (execLssInquireProductCode_does ..).completes
  | lssInquireRevision => exact (execLssInquireRevision_does ..).completes
  | lssInquireSerial => exact (execLssInquireSerial_does ..).completes
  | lssInquireNodeId => exact (execLssInquireNodeId_does ..).completes
  | lssIdentifyRemoteSlave => exact (execLssIdentifyRemoteSlave_does ..).completes
  | lssIdentifyNonConfigured => exact (execLssIdentifyNonConfigured_does ..).completes
  | lssFastscan => exact (execLssFastscan_does ..).completes
  | chStart => exact (execChStart_does ..).completes
  | chAbort => exact (execChAbort_does ..).completes
  | chAppend => exact (execChAppend_does ..).completes
  | chNextWrite => exact (execChNextWrite_does ..).completes
  | chIrqClear => exact (execChIrqClear_does ..).completes
  | chIrqUnmask => exact (execChIrqUnmask_does ..).completes
  | descriptorComplete => exact exec_descriptorComplete .. ▸ (execDescriptorComplete_does ..).completes
  | requestorAssert => exact (execRequestorAssert_does ..).completes
  | requestorWithdraw => exact (execRequestorWithdraw_does ..).completes
  | dmaStall => exact (execDmaStall_does ..).completes
  | recordWriteDone => exact (execRecordWriteDone_does ..).completes
  | tallySample => exact (execTallySample_does ..).completes
  | tallyConfigWrite => exact (execTallyConfigWrite_does ..).completes
  | selectBySequence => exact (execSelectBySequence_does ..).completes
  | exportLog => exact (execExportLog_does ..).completes
  | exportDone => exact (execExportDone_does ..).completes
  | clearChallenge => exact (execClearChallenge_does ..).completes
  | clearResponse => exact (execClearResponse_does ..).completes
  | clearLockExpiry => exact (execClearLockExpiry_does ..).completes
  | stagingImageWrite => exact (execStagingImageWrite_does ..).completes
  | stagingIdleTimeout => exact (execStagingIdleTimeout_does ..).completes
  | verifyDone => exact (execVerifyDone_does ..).completes
  | updateVerifyAgain => exact (execUpdateVerifyAgain_does ..).completes
  | updateMarkPending => exact (execUpdateMarkPending_does ..).completes
  | updateMarkPendingRestart => exact (execUpdateMarkPendingRestart_does ..).completes
  | updateCancelPending => exact (execUpdateCancelPending_does ..).completes
  | updateRestartFromStaging => exact (execUpdateRestartFromStaging_does ..).completes
  | updateStageFromDdr => exact (execUpdateStageFromDdr_does ..).completes
  | copyBlockDone => exact (execCopyBlockDone_does ..).completes
  | firstStartWatchEnd => exact (execFirstStartWatchEnd_does ..).completes
  | librarySlotWrite => exact (execLibrarySlotWrite_does ..).completes
  | airOkEdge => exact (execAirOkEdge_does ..).completes
  | guardOkEdge => exact (execGuardOkEdge_does ..).completes
  | doutOverload => exact (execDoutOverload_does ..).completes
  | doutRetry => exact (execDoutRetry_does ..).completes
  | strapRead => exact (execStrapRead_does ..).completes
  | tachometerPulse => exact (execTachometerPulse_does ..).completes
  | islandWatchdogExpiry => exact (execIslandWatchdogExpiry_does ..).completes
  | canFrameSent => exact (execCanFrameSent_does ..).completes

/-- A module whose first DMA channel waits for BULK egress, which has room (16 R443, R447). -/
def bulkWaiting : State :=
  let waiting : DmaChannel := { desc := { control := 2 ^ 24 }, state := .waiting }
  { State.reset with dma := { State.reset.dma with channels := State.reset.dma.channels.set 0 waiting } }

theorem asserted_bulkWaiting : bulkWaiting.asserted 1 = true := by decide

set_option maxRecDepth 10000 in
/-- The idle tick resumes the channel, since BULK egress asserts. -/
theorem idle_bulkWaiting_chan : (bulkWaiting.idle.chan 0).state = .active := rfl

/-- Refutes O40: the idle tick also lets BULK egress assert (16 R447), which resumes a channel of the DMA that waits for it, so a part outside
those listed changes. -/
theorem not_stepRunsTheFrontCommand : ¬ Obligations.StepRunsTheFrontCommand := by
  rintro ⟨-, hidle, -⟩
  obtain ⟨-, -, hkept⟩ := hidle bulkWaiting rfl
  have hdma : bulkWaiting.idle.dma = bulkWaiting.dma := hkept .dma (by decide)
  have hchan : (bulkWaiting.idle.chan 0).state = (bulkWaiting.chan 0).state :=
    congrArg (fun d : Dma => (d.channels.getD 0 {}).state) hdma
  rw [idle_bulkWaiting_chan] at hchan
  exact absurd hchan (by decide)

end Sys2Proof.Machine
end


section
/-!
Which objects of the dictionary the outcome of a command may write.
-/
set_option Elab.async false
set_option linter.all false

namespace Sys2Proof.Machine

open Sys2Proof State

/-- An outcome is a next state in which of the dictionary's values at most the listed objects have changed. -/
def NextKept (ks : List KeySet) (s : State) (o : Host.Outcome State Fault Refusal) : Prop := ∃ t, o = .next t ∧ s.Keeps ks t

section
variable {ps : List Part} {js ks : List KeySet} {s t u : State} {o r : Host.Outcome State Fault Refusal} {c : Prop} [Decidable c]

theorem State.Keeps.same : s.Keeps ks s := Keeps.refl ks s

/-- One operation `h`, done last, whose objects are among those listed. -/
theorem State.Keeps.via (h : t.Keeps js u) (g : s.Keeps ks t) (k : js ⊆ ks := by decide) : s.Keeps ks u :=
  Keeps.step h (Cov.of_subset k) g

/-- One operation alone. -/
theorem State.Keeps.of (h : s.Keeps js t) (k : js ⊆ ks := by decide) : s.Keeps ks t := Keeps.mono h (Cov.of_subset k)

/-- One operation, done last, that touches no object. -/
theorem State.Keeps.past (h : t.Does ps u) (g : s.Keeps ks t) (k : Part.od ∉ ps ∧ Part.variant ∉ ps ∧ Part.side ∉ ps := by decide) :
    s.Keeps ks u := Keeps.trans g (Does.keeps h k)

theorem State.Keeps.keep (x : State) (h : s.Keeps ks x) (k : s.Keeps ks x → s.Keeps ks u) : s.Keeps ks u := k h

theorem State.Keeps.ite (h : s.Keeps ks t) (k : s.Keeps ks u) : s.Keeps ks (if c then t else u) := by
  split
  · exact h
  · exact k

theorem NextKept.next (h : s.Keeps ks t) : NextKept ks s (.next t) := ⟨t, rfl, h⟩

theorem NextKept.keep (x : State) (h : s.Keeps ks x) (k : s.Keeps ks x → NextKept ks s o) : NextKept ks s o := k h

theorem NextKept.ite (h : NextKept ks s o) (k : NextKept ks s r) : NextKept ks s (if c then o else r) := by
  split
  · exact h
  · exact k

/-- A frame: the parts that may change, and the objects. -/
theorem NextDoes.frame (h : NextDoes ps s o) (k : NextKept ks s o) : NextKeeps ps ks s o := by
  obtain ⟨t, e, d⟩ := h
  obtain ⟨u, f, g⟩ := k
  obtain rfl : u = t := Host.Outcome.next.inj (f.symm.trans e)
  exact ⟨u, e, d.only, g⟩

end

end Sys2Proof.Machine
end


section
/-!
Which objects of the dictionary the operations of a command may write.
-/
set_option Elab.async false
set_option linter.all false

namespace Sys2Proof.Machine

open Sys2Proof State

/-- What the grant of a boost slot of a group writes. -/
abbrev grantKeys (g : Nat) : List KeySet := [.one (groupKey 0x2706 g), .one (obj 0x2700 9), .one (groupKey 0x2708 g)]

/-- The same for every group. -/
abbrev releaseKeys : List KeySet := [.groups 0x2706, .one (obj 0x2700 9), .groups 0x2708]

/-- What the abort of a shot of a valve writes. -/
abbrev abortKeys (v : Nat) : List KeySet :=
  [.groups 0x2706, .one (obj 0x2700 9), .groups 0x2708, .one (valveKey 0x2812 v), .one (obj 0x2800 2), .one (obj 0x2800 1), .one (obj 0x2800 5)]

/-- The same for every valve. -/
abbrev abortAllKeys : List KeySet :=
  [.groups 0x2706, .one (obj 0x2700 9), .groups 0x2708, .valves 0x2812, .one (obj 0x2800 2), .one (obj 0x2800 1), .one (obj 0x2800 5)]

/-- The counters of the blobs that leave a port of the Fix engine. -/
abbrev blobKeys : List KeySet := [.one (obj 0x2400 2), .one (obj 0x2400 5), .one (obj 0x2400 6), .one (obj 0x2400 7)]

/-- The counters of the blobs that leave a port of the Grade engine. -/
abbrev gradeKeys : List KeySet := [.one (obj 0x2405 11), .one (obj 0x2405 12), .one (obj 0x2405 7)]

/-- The record of the last frame of a port. -/
abbrev recordKeys (p : Nat) : List KeySet :=
  [.one (camKey p 0x2306 1), .one (camKey p 0x2306 2), .one (camKey p 0x2306 3), .one (camKey p 0x2306 4), .one (camKey p 0x2306 5),
   .one (camKey p 0x2306 6), .one (camKey p 0x2306 7), .one (camKey p 0x2306 8), .one (camKey p 0x2306 9), .one (camKey p 0x2306 10)]

/-- What the Fix engine writes as it settles lines of a port. -/
abbrev fixKeys (p : Nat) : List KeySet := .one (obj 0x2407 (7 + p)) :: blobKeys

/-- What the close of a frame of a port writes. -/
abbrev closeKeys (p : Nat) : List KeySet :=
  .frames :: .events :: .one (camKey p 0x2307 6) :: .one (camKey p 0x2307 7) :: (recordKeys p ++ fixKeys p)

/-- What a line of a port that is missed writes. -/
abbrev missKeys (p : Nat) : List KeySet :=
  .one (camKey p 0x2307 1) :: .one (camKey p 0x2307 8) :: .one (obj 0x2600 13) :: .one (obj 0x2600 7) :: (closeKeys p ++ gradeKeys)

/-- The same for the four ports. -/
abbrev missAllKeys : List KeySet :=
  [.frames, .events, .ports 0x2307 1, .ports 0x2307 8, .one (obj 0x2600 13), .one (obj 0x2600 7), .ports 0x2307 6, .ports 0x2307 7,
   .ports 0x2306 1, .ports 0x2306 2, .ports 0x2306 3, .ports 0x2306 4, .ports 0x2306 5, .ports 0x2306 6, .ports 0x2306 7,
   .ports 0x2306 8, .ports 0x2306 9, .ports 0x2306 10, .one (obj 0x2407 7), .one (obj 0x2407 8), .one (obj 0x2407 9), .one (obj 0x2407 10),
   .one (obj 0x2400 2), .one (obj 0x2400 5), .one (obj 0x2400 6), .one (obj 0x2400 7), .one (obj 0x2405 11), .one (obj 0x2405 12), .one (obj 0x2405 7)]

/-- What a request of a shot counts by its outcome. -/
abbrev requestKeys (v : Nat) : List KeySet :=
  [.frames, .events, .one (obj 0x2700 5), .one (obj 0x2107 5), .one (obj 0x2700 15), .one (obj 0x2700 16), .one (obj 0x2700 17),
   .one (valveKey 0x2726 v), .one (obj 0x2700 12), .one (obj 0x2700 14), .one (obj 0x2700 6), .one (obj 0x2700 9), .one (obj 0x2700 8),
   .one (obj 0x2700 13)]

theorem Cov.forall {js ks : List KeySet} (h : ∀ x ∈ js, Cov [x] ks) : Cov js ks :=
  fun k x hx hk => h x hx k x List.mem_cons_self hk

theorem Cov.trans {is js ks : List KeySet} (h : Cov is js) (g : Cov js ks) : Cov is ks := fun k x hx hk => by
  obtain ⟨y, hy, hyk⟩ := h k x hx hk
  exact g k y hy hyk

theorem Cov.append {is js ks : List KeySet} (h : Cov is ks) (g : Cov js ks) : Cov (is ++ js) ks :=
  fun k x hx hk => (List.mem_append.1 hx).elim (h k x · hk) (g k x · hk)

theorem Cov.more {x : KeySet} {js ks : List KeySet} (h : Cov [x] ks) (g : Cov js ks) : Cov (x :: js) ks := Cov.append h g

theorem grantKeys_cov {g : Nat} (h : g < 32) : Cov (grantKeys g) releaseKeys :=
  .more (.group h (by decide)) (.more (.mem (by decide)) (.group h (by decide)))

theorem abortKeys_cov {v : Nat} (h : v < 256) : Cov (abortKeys v) abortAllKeys :=
  .more (.mem (by decide)) <| .more (.mem (by decide)) <| .more (.mem (by decide)) <| .more (.valve h (by decide)) <| .of_subset (by decide)

theorem linkKey_mem_frameKeys (l : Nat) : obj (0x2210 + l % 4) 1 ∈ frameKeys := by
  have h : l % 4 = 0 ∨ l % 4 = 1 ∨ l % 4 = 2 ∨ l % 4 = 3 := by omega
  rcases h with h | h | h | h <;> rw [h] <;> decide

/-- What a loop that swaps its bank writes. -/
abbrev swapKeys (n : Nat) : List KeySet := [.frames, .events, .one (slotKey n 0x2A17 5)]

theorem swapKeys_cov {n : Nat} (h : n < 8) : Cov (swapKeys n) [.frames, .events, .slots 0x2A17 5] :=
  .more (.mem (by decide)) <| .more (.mem (by decide)) <| .slot h (by decide)

theorem recordKeys_cov {p : Nat} (h : p < 4) : Cov (recordKeys p) missAllKeys := by
  refine .forall fun x hx => ?_
  simp only [List.mem_cons, List.not_mem_nil, or_false] at hx
  rcases hx with rfl | rfl | rfl | rfl | rfl | rfl | rfl | rfl | rfl | rfl <;> exact .port h (by decide)

theorem closeKeys_cov {p : Nat} (h : p < 4) : Cov (closeKeys p) missAllKeys :=
  .more (.mem (by decide)) <| .more (.mem (by decide)) <| .more (.port h (by decide)) <| .more (.port h (by decide)) <|
    .append (recordKeys_cov h) <| .more (.latest h (by decide) (by decide) (by decide) (by decide)) <| .of_subset (by decide)

theorem missKeys_cov {p : Nat} (h : p < 4) : Cov (missKeys p) missAllKeys :=
  .more (.port h (by decide)) <| .more (.port h (by decide)) <| .more (.mem (by decide)) <| .more (.mem (by decide)) <|
    .append (closeKeys_cov h) <| .of_subset (by decide)

theorem State.grantOne_keeps (s : State) (g : ℕ) (v : ℕ) (target : ℕ) : s.Keeps (grantKeys g)
    (s.grantOne g v target) := by
  unfold State.grantOne
  extract_lets +onlyGivenNames q x t gs s1
  refine .keep s1 (.past (setGroup_does ..) .same) fun h1 => ?_
  split
  extract_lets +onlyGivenNames s2
  refine .keep s2 (.past (setSeq_does ..) h1) fun h2 => ?_
  refine .ite ?_ h2
  extract_lets +onlyGivenNames d s3
  refine .keep s3 (.ite (.via (bump_keeps ..) h2 (by simp)) (.ite (.via (bump_keeps ..) (.via
    (bump_keeps ..) h2 (by simp)) (by simp)) h2)) fun h3 => ?_
  exact .via (putNat_keeps ..) h3 (by simp)

theorem State.grant_keeps (n : Nat) (s : State) (g : Nat) : s.Keeps (grantKeys g) (State.grant n s g) := by
  induction n generalizing s with
  | zero => exact .same
  | succ n ih =>
    unfold State.grant
    split
    · exact .same
    · exact .ite (Keeps.trans (grantOne_keeps ..) (ih _)) .same

theorem State.releaseSlot_keeps (s : State) (v : ℕ) : s.Keeps releaseKeys (s.releaseSlot v) := by
  unfold State.releaseSlot
  extract_lets +onlyGivenNames g gs
  exact Keeps.step (grant_keeps ..) (grantKeys_cov (groupOf_lt ..)) (.past (setGroup_does ..) .same)

theorem State.stopDrive_keeps (s : State) (v : ℕ) : s.Keeps releaseKeys (s.stopDrive v) := by
  unfold State.stopDrive
  extract_lets +onlyGivenNames s1 x s2
  refine .keep s1 (.past (chargeBoost_does ..) .same) fun h1 => ?_
  refine .keep s2 (.past (setValve_does ..) h1) fun h2 => ?_
  exact .via (releaseSlot_keeps ..) (.past (setSeq_does ..) h2)

theorem State.abortShot_keeps (s : State) (v : ℕ) (cause : ℕ) : s.Keeps (abortKeys v) (s.abortShot
    v cause) := by
  unfold State.abortShot
  extract_lets +onlyGivenNames s1 s2
  refine .keep s1 (.of (stopDrive_keeps ..) (by simp)) fun h1 => ?_
  refine .keep s2 (.via (putNat_keeps ..) h1 (by simp)) fun h2 => ?_
  split
  · exact .via (bump_keeps ..) h2 (by simp)
  · exact .via (bump_keeps ..) h2 (by simp)
  · exact .via (bump_keeps ..) h2 (by simp)
  · exact .past (setValve_does ..) h2
  · exact .via (bump_keeps ..) h2 (by simp)

theorem State.abortThese_keeps (s : State) {vs : List Nat} (hv : ∀ v ∈ vs, v < 256) (cause : Nat) :
    s.Keeps abortAllKeys (s.abortThese vs cause) := by
  unfold State.abortThese
  refine Keeps.foldlMem (fun t v hm => ?_) (.past (withdraw_does ..) .same)
  exact Keeps.mono (abortShot_keeps ..) (abortKeys_cov (hv v (List.mem_of_mem_filter hm)))

theorem State.abortAll_keeps (s : State) (cause : Nat) : s.Keeps abortAllKeys (s.abortAll cause) :=
  abortThese_keeps s (fun _ hm => lt_of_lt_of_le (List.mem_range.1 (List.mem_of_mem_filter hm)) s.valveCount_le) cause

theorem State.startFrame_keeps (s : State) (l : ℕ) (v : ℕ) : s.Keeps [.frames] (s.startFrame l v)
    := by
  unfold State.startFrame
  extract_lets +onlyGivenNames c
  split
  · exact .same
  · extract_lets +onlyGivenNames f seq c2 c3
    exact Keeps.step (bump_keeps ..) (Cov.frame (linkKey_mem_frameKeys l) (by decide)) (.past
      (emit_does ..) (.past (setLink_does ..) .same))

theorem State.putOnWire_keeps (s : State) (l : Nat) (w : Wire) : s.Keeps [.frames] (s.putOnWire l
    w) := by
  unfold State.putOnWire
  split
  · exact .of (startFrame_keeps ..)
  · exact .past (startAgain_does ..) .same
  · extract_lets +onlyGivenNames c
    exact .via (startFrame_keeps ..) (.past (setLink_does ..) .same)
  · extract_lets +onlyGivenNames c
    split
    · exact .same
    · exact .past (emit_does ..) (.past (setLink_does ..) .same)

theorem State.drain_keeps (n : Nat) (s : State) (l now : Nat) : s.Keeps [.frames] (State.drain n s l now) := by
  induction n generalizing s with
  | zero => exact .same
  | succ n ih =>
    unfold State.drain
    split
    · exact .same
    · exact Keeps.trans (putOnWire_keeps ..) (ih _)

theorem State.pump_keeps (s : State) (l : ℕ) : s.Keeps [.frames] (s.pump l) := by
  unfold State.pump
  refine .ite .same ?_
  extract_lets +onlyGivenNames s1
  refine .keep s1 (.of (drain_keeps ..)) fun h1 => ?_
  exact .past (setLink_does ..) h1

theorem State.egress_keeps (s : State) (l : ℕ) (f : Frame) : s.Keeps [.frames] (s.egress l f) := by
  unfold State.egress
  extract_lets +onlyGivenNames s1 c
  refine .keep s1 (.of (pump_keeps ..)) fun h1 => ?_
  exact .via (pump_keeps ..) (.past (setLink_does ..) h1)

theorem State.routeOut_keeps (s : State) (f : Frame) : s.Keeps [.frames] (s.routeOut f).1 := by
  unfold State.routeOut
  split
  · exact .same
  · refine .via (egress_keeps ..) (.ite ?_ (.ite (Keeps.mono (bump_keeps ..) (.frame (by decide)
      (by decide))) .same))
    exact Keeps.step (bump_keeps ..) (.frame (by decide) (by decide)) (.ite (Keeps.mono (bump_keeps
      ..) (.frame (by decide) (by decide))) .same)
  · exact Keeps.mono (bump_keeps ..) (.frame (by decide) (by decide))
  · exact Keeps.mono (bump_keeps ..) (.frame (by decide) (by decide))

theorem State.message_keeps (s : State) (dest : ℕ) (vc : ℕ) (type : ℕ) (words : List ℕ) : s.Keeps
    [.frames] (s.message dest vc type words).1 := by
  unfold State.message
  exact .of (routeOut_keeps ..)

theorem State.eventFrame_keeps (s : State) (dest : ℕ) (code : ℕ) (sev : ℕ) (arg : ℕ) : s.Keeps
    [.frames] (s.eventFrame dest code sev arg).1 := by
  unfold State.eventFrame
  dsimp only
  exact .via (message_keeps ..) (Keeps.parts _ rfl rfl rfl rfl .same)

theorem State.eventFrames_keeps (code sev arg : Nat) (ns : List Nat) (s : State) :
    s.Keeps [.frames] (State.eventFrames code sev arg ns s).1 := by
  induction ns generalizing s with
  | nil => exact .same
  | cons n ns ih => exact Keeps.trans (eventFrame_keeps s n code sev arg) (ih _)

theorem State.eventToHost_keeps (s : State) (code : ℕ) (sev : ℕ) (arg : ℕ) : s.Keeps [.frames,
    .events] (s.eventToHost code sev arg).1 := by
  unfold State.eventToHost
  split
  · dsimp -zeta only
    exact Keeps.mono (bump_keeps ..) (Cov.event (by decide) (by decide))
  · exact .of (eventFrame_keeps ..)

theorem State.logEvent_keeps (s : State) (code : ℕ) (sev : ℕ) (arg : ℕ) : s.Keeps [.events]
    (s.logEvent code sev arg) := by
  unfold State.logEvent
  refine .ite ?_ (Keeps.parts _ rfl rfl rfl rfl .same)
  extract_lets +onlyGivenNames e b
  exact .ite (Keeps.parts _ rfl rfl rfl rfl .same) (.ite (Keeps.parts _ rfl rfl rfl rfl .same)
    (Keeps.mono (bump_keeps ..) (Cov.event (by decide) (by decide))))

theorem State.noteDrop_keeps (s : State) : s.Keeps [.frames, .events] (s.noteDrop) := by
  unfold State.noteDrop
  exact .ite (.via (eventToHost_keeps ..) (.via (logEvent_keeps ..) (.past (noteRaised_does ..)
    .same))) .same

theorem State.noteDropped_keeps (s : State) (dropped : Bool) : s.Keeps [.frames, .events]
    (s.noteDropped dropped) := by
  unfold State.noteDropped
  exact .ite (.of (noteDrop_keeps ..)) .same

theorem State.sendEvent_keeps (s : State) (code : ℕ) (sev : ℕ) (arg : ℕ) : s.Keeps [.frames,
    .events] (s.sendEvent code sev arg) := by
  unfold State.sendEvent
  refine .ite .same ?_
  split
  split
  exact .via (noteDropped_keeps ..) (Keeps.pair (by assumption) (.via (eventToHost_keeps ..)
    (Keeps.pair (by assumption) (.of (eventFrames_keeps ..)))))

theorem State.raiseLow_keeps (s : State) (code : ℕ) (sev : ℕ) (arg : ℕ) : s.Keeps [.frames,
    .events] (s.raiseLow code sev arg) := by
  unfold State.raiseLow
  exact .via (sendEvent_keeps ..) (.of (logEvent_keeps ..))

theorem State.queueEmcy_keeps (s : State) (e : Emcy) : s.Keeps [.events] (s.queueEmcy e) := by
  unfold State.queueEmcy
  extract_lets +onlyGivenNames q
  exact .ite (Keeps.parts _ rfl rfl rfl rfl .same) (.ite (Keeps.step (bump_keeps ..) (Cov.event (by
    decide) (by decide)) (Keeps.parts _ rfl rfl rfl rfl .same)) (Keeps.mono (bump_keeps ..)
    (Cov.event (by decide) (by decide))))

theorem State.noteConfig_keeps (s : State) (before : State) : s.Keeps [.frames, .events]
    (s.noteConfig before) := by
  unfold State.noteConfig
  exact .ite (.of (raiseLow_keeps ..)) .same

theorem State.writeRecord_keeps (s : State) (r : Record) (slot? : Option ℕ) : s.Keeps [.frames,
    .events] (s.writeRecord r slot?) := by
  unfold State.writeRecord
  extract_lets +onlyGivenNames free place
  clear_value place
  split
  · extract_lets +onlyGivenNames h
    exact .via (raiseLow_keeps ..) (.past (saveHeader_does ..) .same)
  · extract_lets +onlyGivenNames old r2
    exact Keeps.parts _ rfl rfl rfl rfl .same

theorem State.closeRecord_keeps (s : State) (trigger : ℕ) (code : ℕ) (arg : ℕ) : s.Keeps [.frames,
    .events] (s.closeRecord trigger code arg) := by
  unfold State.closeRecord
  extract_lets +onlyGivenNames bank r
  exact .via (noteConfig_keeps ..) (.via (writeRecord_keeps ..) (.past (switchBanks_does ..) .same))

theorem State.severeTrigger_keeps (s : State) (code : ℕ) (sev : ℕ) (arg : ℕ) : s.Keeps [.frames,
    .events] (s.severeTrigger code sev arg) := by
  unfold State.severeTrigger
  exact .ite .same (.ite (.of (closeRecord_keeps ..)) (.ite (Keeps.parts _ rfl rfl rfl rfl .same)
    .same))

theorem State.raiseAs_keeps (s : State) (code : ℕ) (sev : ℕ) (arg : ℕ) (generic : ℕ) : s.Keeps
    [.frames, .events] (s.raiseAs code sev arg generic) := by
  unfold State.raiseAs
  extract_lets +onlyGivenNames s1
  refine .keep s1 (.of (raiseLow_keeps ..)) fun h1 => ?_
  refine .ite ?_ h1
  extract_lets +onlyGivenNames s2 src s3
  refine .keep s2 (.via (queueEmcy_keeps ..) h1) fun h2 => ?_
  refine .keep s3 (Keeps.parts _ rfl rfl rfl rfl h2) fun h3 => ?_
  exact .via (severeTrigger_keeps ..) h3

theorem State.raise_keeps (s : State) (code : ℕ) (arg : ℕ) : s.Keeps [.frames, .events] (s.raise
    code arg) := by
  unfold State.raise
  exact .of (raiseAs_keeps ..)

theorem State.acceptKink_keeps (s : State) (v : ℕ) (delta : ℚ) (amp : ℕ) : s.Keeps [.frames,
    .events, .one (valveKey 0x271A v), .one (valveKey 0x2718 v), .one (obj 0x2700 18)] (s.acceptKink
    v delta amp) := by
  unfold State.acceptKink
  extract_lets +onlyGivenNames x dev w before s1 s2 s3
  refine .keep s1 (.past (setValve_does ..) .same) fun h1 => ?_
  refine .keep s2 (.past (setEstimate_does ..) h1) fun h2 => ?_
  refine .keep s3 (.past (ledgerKink_does ..) (.via (putNat_keeps ..) (.via (bump_keeps ..) (.via
    (bump_keeps ..) h2 (by simp)) (by simp)) (by simp))) fun h3 => ?_
  exact .ite (.via (raise_keeps ..) h3 (by simp)) h3

theorem State.nameGrandmaster_keeps (s : State) (id : ℕ) : s.Keeps [.frames, .events, .one (obj
    0x2107 4)] (s.nameGrandmaster id) := by
  unfold State.nameGrandmaster
  extract_lets +onlyGivenNames old src s1
  refine .keep s1 (.past (setTime_does _ _ (fun h => h)) .same) fun h1 => ?_
  clear_value old
  split
  · exact .ite h1 (.via (raise_keeps ..) (.via (bump_keeps ..) h1))
  · exact h1

theorem State.becomeGrandmaster_keeps (s : State) : s.Keeps [.frames, .events, .one (obj 0x2107 4)]
    (s.becomeGrandmaster) := by
  unfold State.becomeGrandmaster
  exact .via (nameGrandmaster_keeps ..) (.past (enterTime_does ..) (.past (setTime_does _ _ id)
    .same))

theorem State.beginDerated_keeps (s : State) : s.Keeps [.one (obj 0x2C12 1), .one (obj 0x2700 27)]
    (s.beginDerated) := by
  unfold State.beginDerated
  extract_lets +onlyGivenNames s1 src s2
  refine .keep s1 (.past (refill_does ..) .same) fun h1 => ?_
  refine .keep s2 (.via (bump_keeps ..) (Keeps.parts _ rfl rfl rfl rfl h1)) fun h2 => ?_
  refine Keeps.foldl (fun _ _ => ?_) h2
  extract_lets +onlyGivenNames x
  split
  · exact .ite .same (.via (bump_keeps ..) (.past (setValve_does ..) .same))
  · exact .same

theorem State.raiseSlow_keeps (s : State) (code : ℕ) (arg : ℕ) : s.Keeps [.frames, .events]
    (s.raiseSlow code arg) := by
  unfold State.raiseSlow
  exact .ite (.via (raise_keeps ..) (.past (noteRaised_does ..) .same)) .same

theorem State.showFrame_keeps (s : State) (p : ℕ) (r : FrameRecord) : s.Keeps (recordKeys p)
    (s.showFrame p r) := by
  unfold State.showFrame
  dsimp only
  exact .via (putNat_keeps ..) (.via (putNat_keeps ..) (.via (putNat_keeps ..) (.via (putNat_keeps
    ..) (.via (putNat_keeps ..) (.via (putNat_keeps ..) (.via (putNat_keeps ..) (.via (putNat_keeps
    ..) (.via (putNat_keeps ..) (.of (putNat_keeps ..) (by simp)) (by simp)) (by simp)) (by simp))
    (by simp)) (by simp)) (by simp)) (by simp)) (by simp)) (by simp)

/-- What is said of the blobs that leave is said of the end of all blobs. -/
theorem State.cutAll_keeps {ks : List KeySet} (s : State) (p : Nat) (emit : Emit)
    (he : ∀ (t : State) (f : Nat) (c a : Bool) (b : Blob), t.Keeps ks (emit t f c a b)) : s.Keeps ks (s.cutAll p emit) := by
  unfold State.cutAll
  exact Keeps.foldl (fun _ _ => he ..) (.past (setEngine_does ..) .same)

theorem State.segmentMissing_keeps {ks : List KeySet} (s : State) (p : Nat) (l : Line) (emit : Emit)
    (he : ∀ (t : State) (f : Nat) (c a : Bool) (b : Blob), t.Keeps ks (emit t f c a b)) : s.Keeps ks (s.segmentMissing p l emit) := by
  unfold State.segmentMissing
  extract_lets +onlyGivenNames e gap s1
  refine .keep s1 (.past (setEngine_does ..) .same) fun h1 => ?_
  exact .ite h1 (Keeps.trans h1 (cutAll_keeps _ _ _ he))

theorem State.emitFix_keeps (p : ℕ) (s : State) (frame : ℕ) (cut : Bool) (atLimit : Bool) (b :
    Blob) : s.Keeps blobKeys (State.emitFix p s frame cut atLimit b) := by
  unfold State.emitFix
  refine .ite .same ?_
  extract_lets +onlyGivenNames w e x s1 src s2 s3 s4 s5
  refine .keep s1 (.past (setEngine_does ..) .same) fun h1 => ?_
  refine .keep s2 (Keeps.parts _ rfl rfl rfl rfl h1) fun h2 => ?_
  refine .keep s3 (.via (bump_keeps ..) h2) fun h3 => ?_
  refine .keep s4 (.ite (.via (bump_keeps ..) h3) h3) fun h4 => ?_
  refine .keep s5 (.ite (.via (bump_keeps ..) h4) h4) fun h5 => ?_
  exact .ite (.via (bump_keeps ..) h5) h5

theorem State.skipMissing_keeps (n : Nat) (s : State) (p : Nat) : s.Keeps blobKeys (State.skipMissing n s p) := by
  induction n generalizing s with
  | zero => exact .same
  | succ n ih =>
    unfold State.skipMissing
    extract_lets +onlyGivenNames e
    split
    · refine .ite ?_ .same
      extract_lets +onlyGivenNames s1
      refine .keep s1 (.past (setEngine_does ..) .same) fun h1 => ?_
      exact Keeps.trans h1 (Keeps.trans (segmentMissing_keeps _ _ _ _ (emitFix_keeps p)) (ih _))
    · exact .same

theorem State.completeStats_keeps (s : State) (p : ℕ) (rec : FrameRecord) (bank : ℕ) (version : ℕ)
    (lines : List ProcLine) : s.Keeps [.one (obj 0x2407 (7 + p))] (s.completeStats p rec bank version
    lines) := by
  unfold State.completeStats
  extract_lets +onlyGivenNames e seq counts objects received cov bytes s1 s2
  refine .keep s1 (.past (setEngine_does ..) .same) fun h1 => ?_
  refine .keep s2 (.past (memWrite_does ..) h1) fun h2 => ?_
  exact .past (feedCapture_does ..) (.past (ledgerStats_does ..) (.past (presentCoverage_does ..)
    (.via (putNat_keeps ..) h2 (by simp))))

theorem State.fixStats_keeps (n : Nat) (s : State) (p : Nat) : s.Keeps [.one (obj 0x2407 (7 + p))] (State.fixStats n s p) := by
  induction n generalizing s with
  | zero => exact .same
  | succ n ih =>
    unfold State.fixStats
    extract_lets +onlyGivenNames e
    split
    · exact .same
    · refine .ite .same ?_
      extract_lets +onlyGivenNames lines version s1
      refine .keep s1 (.past (setEngine_does ..) .same) fun h1 => ?_
      exact Keeps.trans h1 (Keeps.trans (completeStats_keeps ..) (ih _))

theorem State.settleFix_keeps (s : State) (p : ℕ) : s.Keeps (fixKeys p) (s.settleFix p) := by
  unfold State.settleFix
  extract_lets +onlyGivenNames s1 s2
  refine .keep s1 (.of (skipMissing_keeps ..) (by simp)) fun h1 => ?_
  refine .keep s2 (.via (fixStats_keeps ..) h1 (by simp)) fun h2 => ?_
  exact .ite h2 (Keeps.trans h2 (cutAll_keeps _ _ _ fun t f c a b => .of (emitFix_keeps p t f c a
    b) (by simp)))

theorem State.closeFrame_keeps (s : State) (p : ℕ) (f : OpenFrame) : s.Keeps (closeKeys p)
    (s.closeFrame p f) := by
  unfold State.closeFrame
  extract_lets +onlyGivenNames r c s1 s2 s3 s4
  refine .keep s1 (.past (setCam_does ..) .same) fun h1 => ?_
  refine .keep s2 (.via (showFrame_keeps ..) h1 (by simp)) fun h2 => ?_
  refine .keep s3 (.ite (.via (raise_keeps ..) (.via (bump_keeps ..) h2 (by simp)) (by simp)) h2)
    fun h3 => ?_
  refine .keep s4 (.ite (.via (bump_keeps ..) h3 (by simp)) h3) fun h4 => ?_
  refine .ite ?_ ?_
  · extract_lets +onlyGivenNames e
    exact .via (settleFix_keeps ..) (.past (setEngine_does ..) h4) (by simp)
  · extract_lets +onlyGivenNames g
    exact Keeps.parts _ rfl rfl rfl rfl h4

theorem State.closeReady_keeps (n : Nat) (s : State) (p : Nat) : s.Keeps (closeKeys p) (State.closeReady n s p) := by
  induction n generalizing s with
  | zero => exact .same
  | succ n ih =>
    unfold State.closeReady
    split
    · exact Keeps.trans (closeFrame_keeps ..) (ih _)
    · exact .same

theorem State.emitUpper_keeps (p : ℕ) (s : State) (frame : ℕ) (cut : Bool) (atLimit : Bool) (b :
    Blob) : s.Keeps gradeKeys (State.emitUpper p s frame cut atLimit b) := by
  unfold State.emitUpper
  extract_lets +onlyGivenNames s1 s2
  refine .keep s1 (.ite (.of (bump_keeps ..)) .same) fun h1 => ?_
  refine .keep s2 (.ite (.via (bump_keeps ..) h1) h1) fun h2 => ?_
  refine .ite h2 ?_
  extract_lets +onlyGivenNames ch e x frames s3 claim src src2 s4
  refine .keep s3 (.past (setEngine_does ..) h2) fun h3 => ?_
  refine .keep s4 (Keeps.parts _ rfl rfl rfl rfl h3) fun h4 => ?_
  exact .via (bump_keeps ..) h4

theorem State.settleGrade_keeps (s : State) (p : ℕ) : s.Keeps gradeKeys (s.settleGrade p) := by
  unfold State.settleGrade
  refine .ite .same ?_
  refine .past (releaseFrames_does ..) ?_
  refine .past (pruneLines_does ..) ?_
  refine cutAll_keeps _ _ _ ?_
  intro _
  intro _
  intro _
  intro _
  intro _
  exact .of (emitUpper_keeps ..)

theorem State.settleEngine_keeps (s : State) (p : ℕ) : s.Keeps (fixKeys p ++ gradeKeys)
    (s.settleEngine p) := by
  unfold State.settleEngine
  exact .ite (.of (settleFix_keeps ..) (by simp)) (.of (settleGrade_keeps ..) (by simp))

theorem State.settleStop_keeps (s : State) (p : ℕ) : s.Keeps (closeKeys p ++ gradeKeys)
    (s.settleStop p) := by
  unfold State.settleStop
  extract_lets +onlyGivenNames c
  refine .ite ?_ .same
  extract_lets +onlyGivenNames s1 s2 s3
  refine .keep s1 (.past (setCam_does ..) .same) fun h1 => ?_
  refine .keep s2 (.via (closeReady_keeps ..) h1 (by simp)) fun h2 => ?_
  refine .keep s3 (.via (raise_keeps ..) h2 (by simp)) fun h3 => ?_
  exact .via (settleEngine_keeps ..) h3 (by simp)

theorem State.crossBusy_keeps (s : State) (p : ℕ) (before : ℕ) : s.Keeps [.frames, .events]
    (s.crossBusy p before) := by
  unfold State.crossBusy
  extract_lets +onlyGivenNames n
  exact .ite (.of (raise_keeps ..)) .same

theorem State.settleLine_keeps (s : State) (p : ℕ) (l : Line) : s.Keeps (closeKeys p) (s.settleLine
    p l) := by
  unfold State.settleLine
  extract_lets +onlyGivenNames c hit number l2 enter before s1 s2 e busy waiting s3
  refine .keep s1 (.past (setCam_does ..) .same) fun h1 => ?_
  have h2 : s.Keeps (closeKeys p) s2 := by
    unfold s2
    split
    · exact .ite h1 (.via (crossBusy_keeps ..) (.past (writeLine_does ..) h1) (by simp))
    · exact h1
  have h3 : s.Keeps (closeKeys p) s3 := .ite (.via (settleFix_keeps ..) (.past (setEngine_does ..)
    h2) (by simp)) h2
  exact Keeps.trans h3 (closeReady_keeps ..)

theorem State.predict_keeps (s : State) (r : Rec) : s.Keeps [.frames, .events, .one (obj 0x2600
    13)] (s.predict r) := by
  unfold State.predict
  extract_lets +onlyGivenNames fl x ta vb half te e centre west east alone seeded choose uncal first
  split
  extract_lets +onlyGivenNames ks tdec r2 s3
  refine .keep s3 (.past (setRec_does ..) .same) fun h3 => ?_
  exact .ite (.via (raiseSlow_keeps ..) (.via (bump_keeps ..) h3)) h3

theorem State.predictUpperAlone_keeps (s : State) (r : Rec) : s.Keeps [.frames, .events, .one (obj
    0x2600 7), .one (obj 0x2600 13)] (s.predictUpperAlone r) := by
  unfold State.predictUpperAlone
  exact .via (bump_keeps ..) (.of (predict_keeps ..))

theorem State.predictFace_keeps (s : State) (face : ℕ) : s.Keeps [.frames, .events, .one (obj
    0x2600 7), .one (obj 0x2600 13)] (s.predictFace face) := by
  unfold State.predictFace
  exact Keeps.foldl (fun _ _ => (.of (predictUpperAlone_keeps ..))) .same

theorem State.losePort_keeps (s : State) (p : ℕ) : s.Keeps (missKeys p) (s.losePort p) := by
  unfold State.losePort
  extract_lets +onlyGivenNames c
  refine .ite .same ?_
  extract_lets +onlyGivenNames g s1 s2
  refine .keep s1 (.past (setCam_does ..) .same) fun h1 => ?_
  refine .keep s2 (.via (raise_keeps ..) (.via (bump_keeps ..) h1 (by simp)) (by simp)) fun h2 => ?_
  exact .ite (.via (predictFace_keeps ..) (.via (settleFix_keeps ..) h2 (by simp)) (by simp)) (.via
    (settleGrade_keeps ..) h2 (by simp))

theorem State.missLine_keeps (s : State) (p : ℕ) (t : PendingTrigger) (counted : Bool) : s.Keeps
    (missKeys p) (s.missLine p t counted) := by
  unfold State.missLine
  extract_lets +onlyGivenNames s1 c s2 s3
  refine .keep s1 (.ite (.of (bump_keeps ..) (by simp)) .same) fun h1 => ?_
  refine .keep s2 (.past (setCam_does ..) h1) fun h2 => ?_
  refine .keep s3 (.via (settleLine_keeps ..) h2 (by simp)) fun h3 => ?_
  exact .ite (.via (losePort_keeps ..) h3 (by simp)) h3

theorem State.missAll_keeps (n : Nat) (s : State) (p : Nat) : s.Keeps (missKeys p) (State.missAll n s p) := by
  induction n generalizing s with
  | zero => exact .of (settleStop_keeps ..) (by simp)
  | succ n ih =>
    unfold State.missAll
    extract_lets +onlyGivenNames c
    split
    · exact .of (settleStop_keeps ..) (by simp)
    · exact Keeps.trans (.past (missInFrame_does ..) (.past (setCam_does ..) .same)) (Keeps.trans (missLine_keeps ..) (ih _))

theorem State.camerasBeforeStep_keeps (s : State) : s.Keeps missAllKeys (s.camerasBeforeStep) := by
  unfold State.camerasBeforeStep
  refine Keeps.foldlMem (fun t p hp => ?_) .same
  have run : ∀ u : State, t.Keeps missAllKeys u → t.Keeps missAllKeys
      (State.closeReady (((missAll ((u.cam p).pending.length + 1) u p).cam p).frames.length + 1)
        (missAll ((u.cam p).pending.length + 1) u p) p) := fun u hu =>
    Keeps.step (closeReady_keeps ..) (closeKeys_cov (ports_lt hp)) (Keeps.step (missAll_keeps ..)
      (missKeys_cov (ports_lt hp)) hu)
  split
  · exact run _ (.ite .same (.past (settleCc_does ..) (.past (setCam_does ..) .same)))
  · exact run _ (.ite .same (.past (settleCc_does ..) (.past (setCam_does ..) .same)))
  · exact .same

theorem State.saturation_keeps (s : State) (v : ℕ) : s.Keeps [.frames, .events, .groups 0x2707,
    .one (obj 0x2700 10)] (s.saturation v) := by
  unfold State.saturation
  exact .via (raiseSlow_keeps ..) (Keeps.step (bump_keeps ..) (Cov.group (groupOf_lt ..) (by
    decide)) (.of (bump_keeps ..)))

theorem State.cancelled_keeps (s : State) (v : ℕ) (x : Shot) : s.Keeps [.frames, .events, .groups
    0x2707, .one (obj 0x2700 10), .one (obj 0x2700 11)] (s.cancelled v x) := by
  unfold State.cancelled
  extract_lets +onlyGivenNames s1
  refine .keep s1 (.of (saturation_keeps ..)) fun h1 => ?_
  exact .ite (.via (raiseSlow_keeps ..) (.via (bump_keeps ..) h1)) h1

theorem State.cancelQueued_keeps (s : State) (v : ℕ) (x : Shot) : s.Keeps [.frames, .events,
    .groups 0x2707, .one (obj 0x2700 10), .one (obj 0x2700 11)] (s.cancelQueued v x) := by
  unfold State.cancelQueued
  extract_lets +onlyGivenNames s1 x2 s2 st s3
  refine .keep s1 (.past (atTick_does ..) .same) fun h1 => ?_
  refine .keep s2 (.past (setValve_does ..) h1) fun h2 => ?_
  refine .keep s3 (.past (setStore_does ..) h2) fun h3 => ?_
  exact .via (cancelled_keeps ..) h3

theorem State.sendLocal_keeps (s : State) (l : ℕ) (vc : ℕ) (type : ℕ) (words : List ℕ) : s.Keeps
    [.frames] (s.sendLocal l vc type words) := by
  unfold State.sendLocal
  exact .ite (.of (egress_keeps ..)) .same

theorem State.sendTime_keeps (s : State) (type : ℕ) (except : Option ℕ) (words : ℕ → List ℕ) :
    s.Keeps [.frames] (s.sendTime type except words) := by
  unfold State.sendTime
  exact Keeps.foldl (fun _ _ => (.ite (.of (sendLocal_keeps ..)) .same)) .same

theorem State.sendAnnounce_keeps (s : State) : s.Keeps [.frames] (s.sendAnnounce) := by
  unfold State.sendAnnounce
  split
  · exact .of (sendTime_keeps ..)
  · exact .same

theorem State.claimRole_keeps (s : State) : s.Keeps [.frames, .events, .one (obj 0x2107 4)]
    (s.claimRole) := by
  unfold State.claimRole
  exact .ite (.via (becomeGrandmaster_keeps ..) (.of (sendAnnounce_keeps ..))) .same

theorem State.closeValves_keeps (s : State) : s.Keeps releaseKeys (s.closeValves) := by
  unfold State.closeValves
  exact Keeps.foldl (fun _ _ => (.of (stopDrive_keeps ..))) (.past (withdraw_does ..) .same)

theorem State.skipCount_keeps (s : State) (v : ℕ) : s.Keeps [.one (valveKey 0x2726 v), .one (obj
    0x2700 12)] (s.skipCount v) := by
  unfold State.skipCount
  exact .via (bump_keeps ..) (.of (bump_keeps ..) (by simp)) (by simp)

theorem State.coilLimits_keeps (s : State) (v : ℕ) : s.Keeps [.frames, .events, .one (valveKey
    0x2726 v), .one (obj 0x2700 12)] (s.coilLimits v) := by
  unfold State.coilLimits
  extract_lets +onlyGivenNames x s1 x2 s2
  refine .keep s1 (.ite (.of (raiseSlow_keeps ..) (by simp)) .same) fun h1 => ?_
  refine .keep s2 (.past (setValve_does ..) h1) fun h2 => ?_
  refine .ite ?_ (.ite (.past (setValve_does ..) h2) h2)
  extract_lets +onlyGivenNames s3 s4 x3
  refine .keep s3 (Keeps.foldl (fun _ _ => (.of (skipCount_keeps ..) (by simp))) h2) fun h3 => ?_
  refine .keep s4 (.past (dropQueue_does ..) h3) fun h4 => ?_
  exact .via (raise_keeps ..) (.past (setValve_does ..) h4) (by simp)

theorem State.coreStep_keeps (s : State) : s.Keeps [.frames, .events] (s.coreStep) := by
  unfold State.coreStep
  extract_lets +onlyGivenNames d
  exact .ite (.past (setLedger_does ..) .same) (.past (storeLedger_does ..) (.via (raise_keeps ..)
    (.past (setLedger_does ..) .same)))

theorem State.endDerated_keeps (s : State) : s.Keeps [.frames, .events] (s.endDerated) := by
  unfold State.endDerated
  extract_lets +onlyGivenNames s1 src s2
  refine .keep s1 (.past (refill_does ..) .same) fun h1 => ?_
  refine .keep s2 (Keeps.parts _ rfl rfl rfl rfl h1) fun h2 => ?_
  exact .ite (.via (raise_keeps ..) h2) h2

theorem State.deratedIn_keeps (s : State) (st : ModState) : s.Keeps [.frames, .events, .one (obj
    0x2C12 1), .one (obj 0x2700 27)] (s.deratedIn st) := by
  unfold State.deratedIn
  split
  · exact .ite (.of (beginDerated_keeps ..)) .same
  · exact .ite (.of (beginDerated_keeps ..)) .same
  · exact .same
  · exact .ite (.of (endDerated_keeps ..)) .same

theorem State.endCapture_keeps (s : State) (status : ℕ) (cause : ℕ) : s.Keeps [.frames, .events]
    (s.endCapture status cause) := by
  unfold State.endCapture
  extract_lets +onlyGivenNames code src s1
  refine .keep s1 (Keeps.parts _ rfl rfl rfl rfl .same) fun h1 => ?_
  exact .via (raise_keeps ..) h1

theorem State.dropCapture_keeps (s : State) : s.Keeps [.frames, .events] (s.dropCapture) := by
  unfold State.dropCapture
  refine .ite ?_ .same
  split
  exact .via (endCapture_keeps ..) (Keeps.pairSnd (by assumption) (.past (draw_does ..) .same))

theorem State.dropRun_keeps (s : State) : s.Keeps [.frames, .events] (s.dropRun) := by
  unfold State.dropRun
  exact .via (dropCapture_keeps ..) (Keeps.parts _ rfl rfl rfl rfl .same)

theorem State.failRun_keeps (s : State) : s.Keeps [.frames, .events, .one (obj 0x2005 4)]
    (s.failRun) := by
  unfold State.failRun
  split
  · exact .via (raise_keeps ..) (.via (bump_keeps ..) (.of (dropRun_keeps ..)))
  · exact .same

theorem State.sendTopo_keeps (s : State) (r : Topo) (except : Option ℕ) : s.Keeps [.frames]
    (s.sendTopo r except) := by
  unfold State.sendTopo
  exact Keeps.foldl (fun _ _ => (.ite (.of (sendLocal_keeps ..)) .same)) .same

theorem State.flood_keeps (s : State) : s.Keeps [.frames] (s.flood) := by
  unfold State.flood
  extract_lets +onlyGivenNames now r
  exact .via (sendTopo_keeps ..) (Keeps.parts _ rfl rfl rfl rfl .same)

theorem State.refreshTopo_keeps (s : State) : s.Keeps [.frames] (s.refreshTopo) := by
  unfold State.refreshTopo
  exact .ite .same (.of (flood_keeps ..))

theorem State.takeId_keeps (s : State) (id : ℕ) : s.Keeps [.frames, .events] (s.takeId id) := by
  unfold State.takeId
  extract_lets +onlyGivenNames src s1
  refine .keep s1 (Keeps.parts _ rfl rfl rfl rfl .same) fun h1 => ?_
  exact .via (refreshTopo_keeps ..) (.via (raise_keeps ..) h1)

theorem State.pendingIdTaken_keeps (s : State) : s.Keeps [.frames, .events] (s.pendingIdTaken) := by
  unfold State.pendingIdTaken
  split
  · exact .of (takeId_keeps ..)
  · exact .same

theorem State.pendingCoreStep_keeps (s : State) : s.Keeps [.frames, .events] (s.pendingCoreStep) :=
    by
  unfold State.pendingCoreStep
  exact .ite (.of (coreStep_keeps ..)) .same

theorem State.swapBank_keeps (s : State) (n : ℕ) : s.Keeps (swapKeys n) (s.swapBank n) := by
  unfold State.swapBank
  extract_lets +onlyGivenNames x
  exact .via (raise_keeps ..) (.via (bump_keeps ..) (.past (setSlot_does ..) .same) (by simp)) (by
    simp)

theorem State.leaveLive_keeps (s : State) (n : ℕ) : s.Keeps (swapKeys n) (s.leaveLive n) := by
  unfold State.leaveLive
  extract_lets +onlyGivenNames s1
  refine .keep s1 (.ite (.of (swapBank_keeps ..) (by simp)) .same) fun h1 => ?_
  exact .past (setSlot_does ..) h1

theorem State.enterParked_keeps (s : State) (n : ℕ) : s.Keeps (swapKeys n) (s.enterParked n) := by
  unfold State.enterParked
  extract_lets +onlyGivenNames s1 x
  refine .keep s1 (.of (leaveLive_keeps ..) (by simp)) fun h1 => ?_
  exact .past (driveOut_does ..) (.past (setSlot_does ..) h1)

theorem State.loopsRecheck_keeps (s : State) : s.Keeps [.frames, .events, .slots 0x2A17 5]
    (s.loopsRecheck) := by
  unfold State.loopsRecheck
  refine .ite (.past (settleOuts_does ..) .same) ?_
  refine .past (settleOuts_does ..) ?_
  refine Keeps.foldlMem (fun _ _ hp => ?_) .same
  split
  · exact .ite .same (Keeps.mono (enterParked_keeps ..) (swapKeys_cov (List.mem_range.1 hp)))
  · exact .ite .same (Keeps.mono (enterParked_keeps ..) (swapKeys_cov (List.mem_range.1 hp)))
  · exact .ite (.past (enterWarmUp_does ..) .same) .same
  · exact .same

theorem State.enterState_keeps (s : State) (st : ModState) (trigger : ℕ) : s.Keeps [.frames,
    .events, .one (obj 0x2C12 1), .one (obj 0x2700 27), .slots 0x2A17 5] (s.enterState st trigger) :=
    by
  unfold State.enterState
  refine .ite .same ?_
  extract_lets +onlyGivenNames x s1 s2 s3
  refine .keep s1 (Keeps.parts _ rfl rfl rfl rfl .same) fun h1 => ?_
  refine .keep s2 (.via (deratedIn_keeps ..) (.via (raise_keeps ..) h1)) fun h2 => ?_
  refine .keep s3 (.ite (.via (pendingIdTaken_keeps ..) (.via (pendingCoreStep_keeps ..) h2)) h2)
    fun h3 => ?_
  exact .via (refreshTopo_keeps ..) (.via (loopsRecheck_keeps ..) h3)

theorem State.enterFault_keeps (s : State) (code : ℕ) : s.Keeps [.frames, .events, .one (obj 0x2005
    4), .groups 0x2706, .one (obj 0x2700 9), .groups 0x2708, .one (obj 0x2C12 1), .one (obj 0x2700
    27), .slots 0x2A17 5] (s.enterFault code) := by
  unfold State.enterFault
  refine .ite .same ?_
  extract_lets +onlyGivenNames s1 src s2
  refine .keep s1 (.past (closeTracker_does ..) (.past (lapse_does ..) (.of (failRun_keeps ..))))
    fun h1 => ?_
  refine .keep s2 (.past (vbstOff_does ..) (.via (closeValves_keeps ..) (.past (dropQueues_does ..)
    (Keeps.parts _ rfl rfl rfl rfl h1)))) fun h2 => ?_
  exact .via (enterState_keeps ..) (Keeps.parts _ rfl rfl rfl rfl h2)

theorem State.enterSlack_keeps (s : State) : s.Keeps [.frames, .events, .one (obj 0x2107 3)]
    (s.enterSlack) := by
  unfold State.enterSlack
  exact .via (raise_keeps ..) (.via (bump_keeps ..) (.past (enterTime_does ..) (.past (setTime_does
    _ _ id) .same)))

theorem State.followGrandmaster_keeps (s : State) (id : ℕ) : s.Keeps [.frames, .events, .one (obj
    0x2107 4)] (s.followGrandmaster id) := by
  unfold State.followGrandmaster
  extract_lets +onlyGivenNames s1
  refine .keep s1 (.of (nameGrandmaster_keeps ..)) fun h1 => ?_
  exact .ite (.past (enterTime_does ..) (.past (setTime_does _ _ (fun h => h)) h1)) h1

theorem State.retire_keeps (s : State) (v : ℕ) (cause : ℕ) : s.Keeps [.frames, .events] (s.retire v
    cause) := by
  unfold State.retire
  extract_lets +onlyGivenNames e
  refine .ite .same ?_
  extract_lets +onlyGivenNames blocked
  exact .ite (.ite (.via (raise_keeps ..) (.past (setLedgerValve_does ..) .same)) (.past
    (setLedgerValve_does ..) .same)) (.via (raise_keeps ..) (.past (setAvail_does ..) (.past
    (setLedgerValve_does ..) .same)))

theorem State.ledgerQualify_keeps (s : State) (v : ℕ) (lost : Bool) : s.Keeps [.frames, .events]
    (s.ledgerQualify v lost) := by
  unfold State.ledgerQualify
  extract_lets +onlyGivenNames e n l
  refine .ite (.past (setLedgerValve_does ..) .same) ?_
  extract_lets +onlyGivenNames e2 s1
  refine .keep s1 (.past (setLedgerValve_does ..) .same) fun h1 => ?_
  exact .ite (.via (retire_keeps ..) h1) (.ite (.via (retire_keeps ..) h1) h1)

theorem State.lock_keeps (s : State) : s.Keeps [.frames, .events] (s.lock) := by
  unfold State.lock
  exact .via (raise_keeps ..) (.past (enterTime_does ..) .same)

theorem State.loseGroup_keeps (s : State) (g : ℕ) : s.Keeps [.frames, .events] (s.loseGroup g) := by
  unfold State.loseGroup
  extract_lets +onlyGivenNames x s1
  refine .keep s1 (.past (setGroup_does ..) .same) fun h1 => ?_
  exact .via (raise_keeps ..) (Keeps.foldl (fun _ _ => (.past (setAvail_does ..) .same)) h1)

theorem State.outlierKink_keeps (s : State) (v : ℕ) (delta : ℚ) : s.Keeps [.frames, .events, .one
    (obj 0x2700 21)] (s.outlierKink v delta) := by
  unfold State.outlierKink
  extract_lets +onlyGivenNames s1 x l
  refine .keep s1 (.of (bump_keeps ..)) fun h1 => ?_
  exact .ite (.past (setValve_does ..) h1) (.via (raise_keeps ..) (.past (setEstimate_does ..)
    (.past (setValve_does ..) h1)))

theorem State.tidyQueue_keeps (s : State) (v : ℕ) (handled : ℕ) : s.Keeps [.one (obj 0x2700 8)]
    (s.tidyQueue v handled) := by
  unfold State.tidyQueue
  extract_lets +onlyGivenNames x alone s1
  refine .keep s1 (.via (bumpBy_keeps ..) (.past (setValve_does ..) .same)) fun h1 => ?_
  split
  · refine .ite h1 ?_
    extract_lets +onlyGivenNames m
    exact .via (bumpBy_keeps ..) (.past (setValve_does ..) .same)
  · exact h1

theorem State.queueShot_keeps (s : State) (r : Request) (start : ℕ) (handled : ℕ) (deferred : Bool)
    : s.Keeps [.frames, .events, .one (obj 0x2700 14), .one (obj 0x2107 5), .one (obj 0x2700 6), .one
    (obj 0x2700 9), .one (obj 0x2700 8)] (s.queueShot r start handled deferred) := by
  unfold State.queueShot
  extract_lets +onlyGivenNames v x
  refine .ite (.via (raiseSlow_keeps ..) (.of (bump_keeps ..))) ?_
  refine .ite (.of (bump_keeps ..)) ?_
  extract_lets +onlyGivenNames s1 s2 s3
  refine .keep s1 (.of (bump_keeps ..)) fun h1 => ?_
  refine .keep s2 (.ite (.via (bump_keeps ..) h1) h1) fun h2 => ?_
  refine .keep s3 (.past (setValve_does ..) h2) fun h3 => ?_
  exact .ite h3 (.via (tidyQueue_keeps ..) h3)

theorem State.test7_keeps (s : State) (r : Request) (handled : ℕ) : s.Keeps [.frames, .events, .one
    (obj 0x2700 14), .one (obj 0x2107 5), .one (obj 0x2700 6), .one (obj 0x2700 9), .one (obj 0x2700
    8)] (s.test7 r handled) := by
  unfold State.test7
  extract_lets +onlyGivenNames v x toff
  split
  · exact .of (queueShot_keeps ..)
  · extract_lets +onlyGivenNames ep
    refine .ite (.of (queueShot_keeps ..)) ?_
    refine .ite ?_ (.of (queueShot_keeps ..))
    extract_lets +onlyGivenNames up x2
    exact .via (tidyQueue_keeps ..) (.via (bump_keeps ..) (.via (bump_keeps ..) (.past
      (setValve_does ..) .same)))

theorem State.request_keeps (s : State) (r : Request) : s.Keeps (requestKeys r.valve) (s.request r)
    := by
  unfold State.request
  extract_lets +onlyGivenNames s1 v r2
  refine .keep s1 (.of (bump_keeps ..) (by simp)) fun h1 => ?_
  refine .ite (.via (bump_keeps ..) h1 (by simp)) ?_
  refine .ite (.via (bump_keeps ..) h1 (by simp)) ?_
  refine .ite (.via (bump_keeps ..) h1 (by simp)) ?_
  refine .ite (.via (bump_keeps ..) h1 (by simp)) ?_
  refine .ite (.via (skipCount_keeps _ r.valve) h1 (by simp)) ?_
  split
  extract_lets +onlyGivenNames handled s3
  refine .keep s3 (.past (refill_does ..) (Keeps.pairSnd (by assumption) (.past (draw_does ..)
    h1))) fun h3 => ?_
  refine .ite (.via (queueShot_keeps ..) h3 (by simp)) ?_
  refine .ite (.via (raiseSlow_keeps ..) (.via (bump_keeps ..) h3 (by simp)) (by simp)) ?_
  exact .via (test7_keeps ..) h3 (by simp)

theorem State.runElection_keeps (s : State) : s.Keeps [.frames, .events, .one (obj 0x2107 4)]
    (s.runElection) := by
  unfold State.runElection
  exact .ite .same (.ite (.via (becomeGrandmaster_keeps ..) (.of (sendAnnounce_keeps ..))) (.ite
    (.past (setTime_does _ _ id) .same) (.of (sendAnnounce_keeps ..))))

theorem State.sendSync_keeps (s : State) : s.Keeps [.frames] (s.sendSync) := by
  unfold State.sendSync
  split
  · extract_lets +onlyGivenNames seq src s1
    refine .keep s1 (.past (setTime_does _ _ id) .same) fun h1 => ?_
    exact .via (sendTime_keeps ..) h1
  · exact .same

theorem State.truncateWindow_keeps (s : State) (v : ℕ) : s.Keeps [.one (obj 0x2800 4)]
    (s.truncateWindow v) := by
  unfold State.truncateWindow
  split
  · exact .via (bump_keeps ..) (.past (setSeq_does ..) .same)
  · exact .same

theorem State.startShot_keeps (s : State) (v : ℕ) (x : Shot) : s.Keeps [.one (obj 0x2800 4),
    .groups 0x2706, .one (obj 0x2700 9), .groups 0x2708, .one (obj 0x2700 27), .one (valveKey 0x2724
    v), .one (obj 0x2700 7)] (s.startShot v x) := by
  unfold State.startShot
  extract_lets +onlyGivenNames s1 s2 cut s3 vs s4 pc s5 s6 src s7
  refine .keep s1 (.of (truncateWindow_keeps ..) (by simp)) fun h1 => ?_
  refine .keep s2 (.via (releaseSlot_keeps ..) (.past (chargeBoost_does ..) h1) (by simp)) fun h2
    => ?_
  refine .keep s3 (.ite (.via (bump_keeps ..) h2 (by simp)) h2) fun h3 => ?_
  refine .keep s4 (.past (setValve_does ..) h3) fun h4 => ?_
  refine .keep s5 (.past (setSeq_does ..) h4) fun h5 => ?_
  refine .keep s6 (.past (ledgerShot_does ..) (.via (bump_keeps ..) (.via (bump_keeps ..) h5 (by
    simp)) (by simp))) fun h6 => ?_
  refine .keep s7 (Keeps.parts _ rfl rfl rfl rfl h6) fun h7 => ?_
  exact .past (emit_does ..) h7

theorem State.stepCounter_keeps (s : State) (by_ : ℤ) : s.Keeps (.one (obj 0x2107 1) ::
    missAllKeys) (s.stepCounter by_) := by
  unfold State.stepCounter
  extract_lets +onlyGivenNames s1 src s2
  refine .keep s1 (.past (shiftShots_does ..) (.of (camerasBeforeStep_keeps ..))) fun h1 => ?_
  refine .keep s2 (.past (setTime_does _ _ id) h1) fun h2 => ?_
  exact .via (raise_keeps ..) (.via (bump_keeps ..) (.past (restartSyncOut_does ..) (.past
    (loopsAfterStep_does ..) (.past (camerasAfterStep_does ..) h2))))

theorem State.unlock_keeps (s : State) : s.Keeps [.frames, .events, .one (obj 0x2107 2)] (s.unlock)
    := by
  unfold State.unlock
  exact .via (raise_keeps ..) (.via (bump_keeps ..) (.past (enterTime_does ..) (.past (setTime_does
    _ _ id) .same)))

theorem State.takeExchange_keeps (s : State) (offset : ℚ) : s.Keeps (.one (obj 0x2107 2) :: .one
    (obj 0x2107 1) :: missAllKeys) (s.takeExchange offset) := by
  unfold State.takeExchange
  extract_lets +onlyGivenNames lock unlock src s1 src2 s2
  refine .keep s1 (.past (setTime_does _ _ id) .same) fun h1 => ?_
  refine .keep s2 (.ite (.past (enterTime_does ..) (.past (setTime_does _ _ id) h1)) h1) fun h2 =>
    ?_
  refine .ite (.past (steer_does ..) (.via (unlock_keeps ..) h2)) ?_
  extract_lets +onlyGivenNames first src3 s3
  refine .keep s3 (.ite (.past (setTime_does _ _ id) h2) h2) fun h3 => ?_
  refine .ite (.via (stepCounter_keeps ..) h3) ?_
  extract_lets +onlyGivenNames src4 s4 s5 s6
  refine .keep s4 (.past (setTime_does _ _ id) h3) fun h4 => ?_
  refine .keep s5 (.past (steer_does ..) h4) fun h5 => ?_
  refine .keep s6 (.ite (.via (lock_keeps ..) h5) h5) fun h6 => ?_
  exact .past (learnWord_does ..) h6

theorem State.tryWrite_keeps {ks : List KeySet} (hk : .one (obj 0x2006 1) ∈ ks) (s : State) (m : Master) (k : Nat) (v : Val)
    (act : State → State × Nat) (ha : s.Keeps ks (act s).1) : s.Keeps ks (s.tryWrite m k v act).1 := by
  unfold State.tryWrite
  dsimp only
  split
  · exact .same
  · split
    · exact .past (stageWrite_does ..) .same
    · split
      · exact Keeps.mono (bump_keeps ..) (.mem hk)
      · exact ha

theorem State.write_keeps {ks : List KeySet} (hk : .one (obj 0x2006 1) ∈ ks) (s : State) (m : Master) (k : Nat) (v : Val)
    (act : State → State × Nat) (ha : s.Keeps ks (act s).1) : s.Keeps ks (s.write m k v act) := by
  unfold State.write
  refine .ite .same ?_
  have h := tryWrite_keeps hk s m k v act ha
  split
  next e => exact .ite (.past (answer_does ..) (Keeps.pair e h)) (Keeps.pair e h)

theorem actGroupRestore_keeps (g : ℕ) (s : State) : s.Keeps [.frames, .events] (actGroupRestore g
    s).1 := by
  unfold actGroupRestore
  split
  · dsimp only
    exact .via (raise_keeps ..) (Keeps.foldl (fun _ _ => (.ite (.past (setAvail_does ..) .same)
      .same)) (.past (setGroup_does ..) .same))
  · dsimp -zeta only
    exact .same

theorem actTestShot_keeps (s : State) : s.Keeps (requestKeys (s.nat (obj 0x270A 1))) (actTestShot
    s).1 := by
  unfold actTestShot
  have h : ∀ r : Request, r.valve = s.nat (obj 0x270A 1) → s.Keeps (requestKeys (s.nat (obj 0x270A
    1))) (s.request r) :=
    fun r hr => hr ▸ request_keeps s r
  split
  · exact h _ rfl
  · exact .same

end Sys2Proof.Machine
end


section
/-!
The frames of the timebase, the camera ports and the ejector drive.
-/
set_option Elab.async false
set_option linter.all false

namespace Sys2Proof.Machine

open Sys2Proof State

theorem coilKeys_cov {v : Nat} (h : v < 256) :
    Cov [.frames, .events, .one (valveKey 0x2726 v), .one (obj 0x2700 12)]
      [.frames, .events, .one (obj 0x2700 12), .valves 0x2726] :=
  .more (.mem (by decide)) <| .more (.mem (by decide)) <| .more (.valve h (by decide)) <| .mem (by decide)

theorem State.groupValves_lt {s : State} {g v : Nat} (hg : g < 32) (h : v ∈ s.groupValves g) : v < 256 := by
  have hs : s.stride ≤ 32 := by
    unfold State.stride
    split <;> decide
  unfold State.groupValves at h
  obtain ⟨i, hi, rfl⟩ := List.mem_map.1 h
  have h7 : i ≤ 7 := Nat.le_of_lt_succ (List.mem_range.1 hi)
  calc g + i * s.stride ≤ 31 + 7 * 32 := Nat.add_le_add (Nat.le_of_lt_succ hg) (Nat.mul_le_mul h7 hs)
    _ < 256 := by decide

/-! ### The timebase -/

theorem execSyncInterval_keeps (s : State) : NextKept [.frames, .events, .one (obj 0x2107 4)] s
    (execSyncInterval s) := by
  unfold execSyncInterval
  refine .ite (.next .same) ?_
  extract_lets +onlyGivenNames s1 interval src s2 named src2 s3
  refine .keep s1 (.past (atClk_does ..) .same) fun h1 => ?_
  refine .keep s2 (.past (setTime_does _ _ id) h1) fun h2 => ?_
  refine .keep s3 (.ite h2 (.past (setTime_does _ _ id) h2)) fun h3 => ?_
  exact .next (.via (sendSync_keeps ..) (.via (claimRole_keeps ..) (.via (runElection_keeps ..)
    h3)))

theorem execTimeSync_keeps (link : Link) (t1 : Nat) (gm : Nat) (hops : Nat) (seq : Nat) (phase :
    Nat) (turnaround : Nat) (s : State) : NextKept [.frames, .events, .one (obj 0x2107 4)] s
    (execTimeSync link t1 gm hops seq phase turnaround s) := by
  unfold execTimeSync
  extract_lets +onlyGivenNames l
  refine .ite (.next .same) ?_
  extract_lets +onlyGivenNames t2 src s1 s2 takes
  refine .keep s1 (.past (setTime_does _ _ (fun h => ⟨by simpa using h.1, by simpa using h.2⟩))
    .same) fun h1 => ?_
  refine .keep s2 (.via (sendLocal_keeps ..) h1) fun h2 => ?_
  refine .ite (.next h2) ?_
  extract_lets +onlyGivenNames s3
  refine .keep s3 (.ite h2 (.via (followGrandmaster_keeps ..) h2)) fun h3 => ?_
  exact .next (.past (pickUpstream_does ..) (.past (setTime_does _ _ (fun h => ⟨by simpa using h.1,
    by simpa using h.2⟩)) h3))

theorem execTimeReply_keeps (link : Link) (seq : Nat) (phase : Nat) (s : State) : NextKept
    [.frames] s (execTimeReply link seq phase s) := by
  unfold execTimeReply
  exact .ite (.next (.of (sendLocal_keeps ..))) (.next .same)

theorem execTimeFollow_keeps (link : Link) (t4 : Nat) (seq : Nat) (s : State) : NextKept [.frames,
    .events, .one (obj 0x2107 2), .one (obj 0x2400 2), .one (obj 0x2400 5), .one (obj 0x2400 6), .one
    (obj 0x2400 7), .one (obj 0x2405 11), .one (obj 0x2405 12), .one (obj 0x2405 7), .one (obj 0x2600
    13), .one (obj 0x2600 7), .one (obj 0x2107 1), .ports 0x2306 1, .ports 0x2306 2, .ports 0x2306 3,
    .ports 0x2306 4, .ports 0x2306 5, .ports 0x2306 6, .ports 0x2306 7, .ports 0x2306 8, .ports
    0x2306 9, .ports 0x2306 10, .ports 0x2307 6, .ports 0x2307 7, .one (obj 0x2407 7), .one (obj
    0x2407 8), .one (obj 0x2407 9), .one (obj 0x2407 10), .ports 0x2307 1, .ports 0x2307 8] s
    (execTimeFollow link t4 seq s) := by
  unfold execTimeFollow
  extract_lets +onlyGivenNames l
  refine .ite (.next .same) ?_
  split
  · refine .ite (.next .same) ?_
    extract_lets +onlyGivenNames src s1
    refine .keep s1 (.past (setTime_does _ _ (fun h => ⟨by simpa using h.1, by simpa using h.2⟩))
      .same) fun h1 => ?_
    exact .ite (.next (.via (takeExchange_keeps ..) h1)) (.next h1)
  · exact .next .same

theorem execUpstreamTimeout_keeps (s : State) : NextKept [.frames, .events, .one (obj 0x2107 3)] s
    (execUpstreamTimeout s) := by
  unfold execUpstreamTimeout
  split
  · extract_lets +onlyGivenNames last s1 src s2 s3 s4
    refine .keep s1 (.past (atClk_does ..) .same) fun h1 => ?_
    refine .keep s2 (.past (setTime_does _ _ (fun h => ⟨by simpa using h.1, by simpa using h.2⟩))
      h1) fun h2 => ?_
    refine .keep s3 (.ite (.via (enterSlack_keeps ..) h2) h2) fun h3 => ?_
    refine .keep s4 (.past (pickUpstream_does ..) h3) fun h4 => ?_
    exact .ite (.next (.past (setTime_does _ _ id) h4)) (.next h4)
  · exact .next .same

theorem execElectionTimeout_keeps (s : State) : NextKept [.frames, .events, .one (obj 0x2107 4)] s
    (execElectionTimeout s) := by
  unfold execElectionTimeout
  split
  · refine .ite ?_ (.next .same)
    extract_lets +onlyGivenNames s1
    refine .keep s1 (.past (atClk_does ..) .same) fun h1 => ?_
    exact .next (.via (runElection_keeps ..) (.past (setTime_does _ _ id) h1))
  · exact .next .same

theorem execAnnounce_keeps (link : Link) (candidate : Nat) (designated : Bool) (hops : Nat) (s :
    State) : NextKept [.frames, .events, .one (obj 0x2107 4)] s (execAnnounce link candidate
    designated hops s) := by
  unfold execAnnounce
  refine .ite (.next .same) ?_
  extract_lets +onlyGivenNames c src s1
  refine .keep s1 (.past (setTime_does _ _ id) .same) fun h1 => ?_
  exact .ite (.ite (.next h1) (.next (.via (becomeGrandmaster_keeps ..) h1))) (.ite (.next (.past
    (setTime_does _ _ id) h1)) (.next h1))

theorem execHoldoverLimit_keeps (s : State) : NextKept [.frames, .events] s (execHoldoverLimit s)
    := by
  unfold execHoldoverLimit
  refine .ite ?_ (.next .same)
  extract_lets +onlyGivenNames s1
  refine .keep s1 (.past (atClk_does ..) .same) fun h1 => ?_
  exact .next (.via (raise_keeps ..) (.past (enterTime_does ..) (.past (setTime_does _ _ id) h1)))

theorem execLearnedFrequencyValid_keeps (s : State) : NextKept [] s (execLearnedFrequencyValid s)
    := by
  unfold execLearnedFrequencyValid
  refine .ite ?_ (.next .same)
  extract_lets +onlyGivenNames s1
  refine .keep s1 (.past (atClk_does ..) .same) fun h1 => ?_
  exact .next (.past (setTime_does _ _ id) h1)

theorem execRootPllLockLost_keeps (s : State) : NextKept [.frames, .events, .one (obj 0x2005 4),
    .one (obj 0x2700 9), .one (obj 0x2C12 1), .one (obj 0x2700 27), .groups 0x2706, .groups 0x2708,
    .slots 0x2A17 5] s (execRootPllLockLost s) := by
  unfold execRootPllLockLost
  exact .ite (.next (.via (enterFault_keeps ..) (.via (raise_keeps ..) (.past (setTime_does _ _ id)
    .same)))) (.next .same)

theorem execSyncInEdge_keeps (rising : Bool) (phase : Nat) (s : State) : NextKept [.one (obj 0x2104
    4), .one (obj 0x2104 5), .one (obj 0x2104 6)] s (execSyncInEdge rising phase s) := by
  unfold execSyncInEdge
  extract_lets +onlyGivenNames src s1
  refine .keep s1 (.past (setTime_does _ _ id) .same) fun h1 => ?_
  refine .ite (.next h1) ?_
  extract_lets +onlyGivenNames s2 mode
  refine .keep s2 (.past (settleSyncOut_does ..) h1) fun h2 => ?_
  refine .ite (.next h2) ?_
  extract_lets +onlyGivenNames now before src2 s3 s4
  refine .keep s3 (.via (putNat_keeps ..) (.past (setTime_does _ _ id) h2)) fun h3 => ?_
  refine .keep s4 (.via (bump_keeps ..) h3) fun h4 => ?_
  clear_value before
  split
  · exact .ite (.ite (.next (.past (servo_does ..) h4)) (.next (.via (bump_keeps ..) h4))) (.next
      h4)
  · exact .next h4

theorem execSyncOutPulse_keeps (s : State) : NextKept [] s (execSyncOutPulse s) := by
  unfold execSyncOutPulse
  split
  · refine .ite (.next .same) ?_
    extract_lets +onlyGivenNames s1 width s2
    refine .keep s1 (.past (atTick_does ..) .same) fun h1 => ?_
    refine .keep s2 (.ite h1 (Keeps.foldl (fun _ _ => (.past (pulseCc_does ..) .same)) (.past
      (emit_does ..) h1))) fun h2 => ?_
    exact .next (.past (setTime_does _ _ id) h2)
  · exact .next .same

/-! ### The ejector drive -/

theorem execGateEdge_keeps (v : Valve) (s : State) : NextKept [.frames, .events, .one (valveKey
    0x2812 v.val), .one (obj 0x2800 5), .one (obj 0x2700 10), .one (obj 0x2700 11), .one (obj 0x2800
    4), .one (obj 0x2700 9), .one (obj 0x2700 27), .one (obj 0x2700 7), .one (valveKey 0x2724 v.val),
    .groups 0x2707, .groups 0x2706, .groups 0x2708] s (execGateEdge v s) := by
  unfold execGateEdge
  split
  · exact .next .same
  · extract_lets +onlyGivenNames s1 g st
    refine .keep s1 (.past (atTick_does ..) .same) fun h1 => ?_
    refine .ite (.next (.ite h1 (.past (setStore_does ..) h1))) ?_
    refine .ite ?_ (.ite (.next (.via (cancelQueued_keeps ..) h1 (by simp))) (.next (.via
      (startShot_keeps ..) h1 (by simp))))
    extract_lets +onlyGivenNames x s2
    refine .keep s2 (.past (setValve_does ..) h1) fun h2 => ?_
    exact .next (.via (bump_keeps ..) (.via (putNat_keeps ..) h2 (by simp)) (by simp))

theorem execDeferralLimit_keeps (v : Valve) (s : State) : NextKept [.frames, .events, .one (obj
    0x2700 9), .one (valveKey 0x2812 v.val), .one (obj 0x2800 2), .one (obj 0x2800 1), .one (obj
    0x2800 5), .one (obj 0x2700 10), .one (obj 0x2700 11), .groups 0x2706, .groups 0x2708, .groups
    0x2707] s (execDeferralLimit v s) := by
  unfold execDeferralLimit
  split
  · extract_lets +onlyGivenNames s1
    refine .keep s1 (.past (atTick_does ..) .same) fun h1 => ?_
    exact .next (.via (cancelled_keeps ..) (.via (abortShot_keeps ..) h1 (by simp)) (by simp))
  · split
    · exact .next (.of (cancelQueued_keeps ..) (by simp))
    · exact .next .same

theorem execKinkWindowOpen_keeps (v : Valve) (s : State) : NextKept [] s (execKinkWindowOpen v s)
    := by
  unfold execKinkWindowOpen
  split
  · refine .ite (.next .same) ?_
    extract_lets +onlyGivenNames s1 ok
    refine .keep s1 (.past (atTick_does ..) .same) fun h1 => ?_
    exact .next (.past (setSeq_does ..) h1)
  · exact .next .same

theorem execKinkWindowEnd_keeps (v : Valve) (samples : List Int) (s : State) : NextKept [.frames,
    .events, .one (obj 0x2700 20), .one (obj 0x2700 19), .one (valveKey 0x2728 v.val), .one (obj
    0x2700 21), .one (obj 0x2700 18), .one (valveKey 0x2718 v.val), .one (valveKey 0x271A v.val)] s
    (execKinkWindowEnd v samples s) := by
  unfold execKinkWindowEnd
  split
  · refine .ite (.next .same) ?_
    extract_lets +onlyGivenNames s1 q s2
    refine .keep s1 (.past (atTick_does ..) .same) fun h1 => ?_
    refine .keep s2 (.past (setSeq_does ..) h1) fun h2 => ?_
    refine .ite (.next (.via (bump_keeps ..) h2 (by simp))) ?_
    split
    · exact .next (.via (ledgerQualify_keeps ..) (.via (bump_keeps ..) (.via (bump_keeps ..) h2 (by
        simp)) (by simp)) (by simp))
    · extract_lets +onlyGivenNames delta s3 dev
      refine .keep s3 (.via (ledgerQualify_keeps ..) h2 (by simp)) fun h3 => ?_
      exact .next (.ite (.via (outlierKink_keeps ..) h3 (by simp)) (.via (acceptKink_keeps ..) h3
        (by simp)))
  · exact .next .same

theorem execThermalUpdate_keeps (squares : List Nat) (s : State) : NextKept [.frames, .events, .one
    (obj 0x2700 12), .valves 0x2726] s (execThermalUpdate squares s) := by
  unfold execThermalUpdate
  refine .ite ?_ (.next .same)
  extract_lets +onlyGivenNames s1 valves src s2
  refine .keep s1 (.past (atClk_does ..) .same) fun h1 => ?_
  refine .keep s2 (Keeps.parts _ rfl rfl rfl rfl h1) fun h2 => ?_
  refine .next (Keeps.foldlMem (fun t v hv => Keeps.mono (coilLimits_keeps ..) (coilKeys_cov ?_))
    h2)
  exact lt_of_lt_of_le (List.mem_range.1 hv) s2.valveCount_le

theorem execValveEnDeassert_keeps (s : State) : NextKept [.frames, .events, .one (obj 0x2700 9),
    .one (obj 0x2800 2), .one (obj 0x2800 1), .one (obj 0x2800 5), .valves 0x2812, .groups 0x2706,
    .groups 0x2708] s (execValveEnDeassert s) := by
  unfold execValveEnDeassert
  refine .ite ?_ (.next .same)
  extract_lets +onlyGivenNames src s1 s2
  refine .keep s1 (.past (settleEnOut_does ..) (Keeps.parts _ rfl rfl rfl rfl .same)) fun h1 => ?_
  refine .keep s2 (.past (fastDecay_does ..) (.via (abortAll_keeps ..) h1)) fun h2 => ?_
  exact .next (.via (raise_keeps ..) h2)

theorem execValveEnAssert_keeps (s : State) : NextKept [.frames, .events] s (execValveEnAssert s)
    := by
  unfold execValveEnAssert
  exact .ite (.next .same) (.next (.via (raise_keeps ..) (.past (settleEnOut_does ..) (Keeps.parts
    _ rfl rfl rfl rfl .same))))

theorem execValveEnSettled_keeps (s : State) : NextKept [] s (execValveEnSettled s) := by
  unfold execValveEnSettled
  refine .ite ?_ (.next .same)
  extract_lets +onlyGivenNames s1
  refine .keep s1 (.past (atClk_does ..) .same) fun h1 => ?_
  exact .next (Keeps.parts _ rfl rfl rfl rfl h1)

theorem execGroupOvercurrent_keeps (g : Group) (s : State) : NextKept [.frames, .events, .one (obj
    0x2700 9), .one (obj 0x2800 2), .one (obj 0x2800 1), .one (obj 0x2800 5), .valves 0x2812, .groups
    0x2706, .groups 0x2708] s (execGroupOvercurrent g s) := by
  unfold execGroupOvercurrent
  refine .ite ?_ (.next .same)
  extract_lets +onlyGivenNames s1 s2 trips x s3
  refine .keep s1 (.of (abortThese_keeps s (fun v hv => groupValves_lt g.isLt hv) 7)) fun h1 => ?_
  refine .keep s2 (.via (raise_keeps ..) h1) fun h2 => ?_
  refine .keep s3 (.past (setGroup_does ..) h2) fun h3 => ?_
  exact .next (.ite (.via (loseGroup_keeps ..) h3) h3)

theorem execCoilShort_keeps (v : Valve) (s : State) : NextKept [.frames, .events, .one (obj 0x2700
    9), .groups 0x2706, .groups 0x2708] s (execCoilShort v s) := by
  unfold execCoilShort
  exact .ite (.next (.via (raise_keeps ..) (.past (setAvail_does ..) (.of (stopDrive_keeps ..)))))
    (.next .same)

theorem execValveStateWrite_keeps (m : Master) (v : Valve) (value : Nat) (s : State) : NextKept
    [.one (obj 0x2006 1)] s (execValveStateWrite m v value s) := by
  unfold execValveStateWrite
  exact .next (write_keeps (by decide) _ _ _ _ _ (.past (actValveState_does ..) .same))

theorem execGroupRestore_keeps (m : Master) (g : Group) (s : State) : NextKept [.frames, .events,
    .one (obj 0x2006 1)] s (execGroupRestore m g s) := by
  unfold execGroupRestore
  exact .next (write_keeps (by decide) _ _ _ _ _ (.of (actGroupRestore_keeps ..)))

theorem execTestShot_keeps (m : Master) (s : State) : NextKept [.frames, .events, .one (obj 0x2700
    5), .one (obj 0x2107 5), .one (obj 0x2700 15), .one (obj 0x2700 16), .one (obj 0x2700 17), .one
    (obj 0x2700 12), .one (obj 0x2700 14), .one (obj 0x2700 6), .one (obj 0x2700 9), .one (obj 0x2700
    8), .one (obj 0x2700 13), .one (obj 0x2006 1), .one (valveKey 0x2726 (s.nat (obj 0x270A 1)))] s
    (execTestShot m s) := by
  unfold execTestShot
  exact .next (write_keeps (by simp) _ _ _ _ _ (.of (actTestShot_keeps ..) (by simp)))

/-- Settles O47: each command changes only the parts and only the objects of its own lemmas. -/
theorem timeFrames : Obligations.TimeFrames := by
  unfold Obligations.TimeFrames
  exact ⟨
    fun _ => (execSyncInterval_does ..).frame (execSyncInterval_keeps ..),
    fun _ _ _ _ _ _ _ _ => (execTimeSync_does ..).frame (execTimeSync_keeps ..),
    fun _ _ _ _ => (execTimeReply_does ..).frame (execTimeReply_keeps ..),
    fun _ _ _ _ => (execTimeFollow_does ..).frame (execTimeFollow_keeps ..),
    fun _ => (execUpstreamTimeout_does ..).frame (execUpstreamTimeout_keeps ..),
    fun _ => (execElectionTimeout_does ..).frame (execElectionTimeout_keeps ..),
    fun _ _ _ _ _ => (execAnnounce_does ..).frame (execAnnounce_keeps ..),
    fun _ => (execHoldoverLimit_does ..).frame (execHoldoverLimit_keeps ..),
    fun _ => (execLearnedFrequencyValid_does ..).frame (execLearnedFrequencyValid_keeps ..),
    fun _ => (execRootPllLockLost_does ..).frame (execRootPllLockLost_keeps ..),
    fun _ _ _ => (execSyncInEdge_does ..).frame (execSyncInEdge_keeps ..),
    fun _ => (execSyncOutPulse_does ..).frame (execSyncOutPulse_keeps ..)⟩

/-- Settles O51: each command changes only the parts and only the objects of its own lemmas. -/
theorem driveFrames : Obligations.DriveFrames := by
  unfold Obligations.DriveFrames
  exact ⟨
    fun _ _ => (execGateEdge_does ..).frame (execGateEdge_keeps ..),
    fun _ _ => (execDeferralLimit_does ..).frame (execDeferralLimit_keeps ..),
    fun _ _ => (execKinkWindowOpen_does ..).frame (execKinkWindowOpen_keeps ..),
    fun _ _ _ => (execKinkWindowEnd_does ..).frame (execKinkWindowEnd_keeps ..),
    fun _ _ => (execThermalUpdate_does ..).frame (execThermalUpdate_keeps ..),
    fun _ => (execValveEnDeassert_does ..).frame (execValveEnDeassert_keeps ..),
    fun _ => (execValveEnAssert_does ..).frame (execValveEnAssert_keeps ..),
    fun _ => (execValveEnSettled_does ..).frame (execValveEnSettled_keeps ..),
    fun _ _ => (execGroupOvercurrent_does ..).frame (execGroupOvercurrent_keeps ..),
    fun _ _ => (execCoilShort_does ..).frame (execCoilShort_keeps ..),
    fun _ _ _ _ => (execValveStateWrite_does ..).frame (execValveStateWrite_keeps ..),
    fun _ _ _ => (execGroupRestore_does ..).frame (execGroupRestore_keeps ..),
    fun _ _ => (execTestShot_does ..).frame (execTestShot_keeps ..)⟩

/-- A camera port in FVAL mode that streams, with an open frame that was split (03 R77). -/
def splitOpen : State :=
  { State.reset with
    module := { State.reset.module with mainUp := true }
    od := [(camKey 0 0x2301 3, .num 1)]
    cams := [{ state := .streaming, frames := [{ split := true }] }, {}, {}, {}] }

/-- The count of split frames of port 0 in the next state. -/
def splitCount : Host.Outcome State Fault Refusal → Option Val
  | .next t => some (t.val (camKey 0 0x2307 6))
  | _ => none

set_option maxRecDepth 20000 in
theorem splitCount_stopStream : splitCount (exec (.stopStream .host 0) splitOpen) = some (.num 1) := by decide

set_option maxRecDepth 20000 in
/-- Refutes O48: STOP_STREAM in FVAL mode closes the open frame, and where that frame was split its close counts in 0x2307:06 of the port, which
the frame of STOP_STREAM does not list. -/
theorem not_cameraFrames : ¬ Obligations.CameraFrames := by
  rintro h
  obtain ⟨-, -, -, -, -, -, -, -, -, -, -, -, -, -, -, -, hstop, -⟩ := h
  obtain ⟨t, ht, -, hkeeps⟩ := hstop .host 0 splitOpen
  have hval : t.val (camKey 0 0x2307 6) = splitOpen.val (camKey 0 0x2307 6) :=
    hkeeps.val _ (by simp [KeySet.has, obj, camKey])
  have hcount : some (t.val (camKey 0 0x2307 6)) = some (.num 1) := (congrArg splitCount ht).symm.trans splitCount_stopStream
  rw [hval] at hcount
  exact absurd hcount (by decide)

end Sys2Proof.Machine
end


section
/-!
The exchange of time over a link, and what the operations of the timebase leave.
-/
set_option Elab.async false
set_option linter.all false

namespace Sys2Proof.Machine

open Sys2Proof State

section
variable {ps : List Part} {s t : State}

theorem State.Does.time_eq (h : s.Does ps t) (k : Part.time ∉ ps := by decide) : t.time = s.time := h.only .time k

theorem State.Does.clk_eq (h : s.Does ps t) (k : Part.clk ∉ ps := by decide) : t.clk = s.clk := h.only .clk k

theorem State.Does.module_eq (h : s.Does ps t) (k : Part.module ∉ ps := by decide) : t.module = s.module := h.only .module k

theorem State.Does.out_eq (h : s.Does ps t) (k : Part.out ∉ ps := by decide) : t.out = s.out := h.only .out k

end

theorem State.atClk_clk {s : State} {t : Nat} (h : s.clk ≤ t) : (s.atClk t).clk = t := Nat.add_sub_cancel' h

/-! ### What the operations of the timebase leave in its state -/

/-- SYNC_OUT follows what is in force: only its level and the end of its pulse change. -/
theorem State.settleSyncOut_time (s : State) : ∃ high stop, s.settleSyncOut.time = { s.time with syncOutHigh := high, syncOutEnd := stop } := by
  unfold State.settleSyncOut
  extract_lets mode high cut src t s1 s2
  have h1 : s1.time = t := by
    unfold s1
    split <;> rfl
  have h2 : s2.time = t := by
    unfold s2
    split
    · exact (Does.foldl (fun _ _ => endCc_does ..) .same : s1.Does [.out] _).time_eq.trans h1
    · exact h1
  exact ⟨_, _, (settleCcs_does s2).time_eq.trans h2⟩

theorem State.enterTime_time (s : State) (st : TimeState) : ∃ high stop, (s.enterTime st).time =
    { s.time with state := st, lockedSum := s.lockedTime, lockedAt := if st = .locked then s.clk else s.time.lockedAt,
                  syncOutHigh := high, syncOutEnd := stop } :=
  settleSyncOut_time _

theorem State.nameGrandmaster_time (s : State) (id : Nat) : (s.nameGrandmaster id).time = { s.time with gm := some id } := by
  unfold State.nameGrandmaster
  dsimp only
  split
  · split
    · rfl
    · exact (raise_does ..).time_eq
  · rfl

theorem State.becomeGrandmaster_time (s : State) : ∃ high stop, s.becomeGrandmaster.time =
    { s.time with
      upstream := none, hops := some 0, electAt := none, electing := false, best := none, first := false, good := 0, state := .grandmaster,
      gm := some s.strand.id, lockedSum := s.lockedTime, syncOutHigh := high, syncOutEnd := stop } := by
  obtain ⟨high, stop, h⟩ := enterTime_time (s.setTime { s.time with
    upstream := none, hops := some 0, electAt := none, electing := false, best := none, first := false, good := 0 }) .grandmaster
  exact ⟨high, stop, (nameGrandmaster_time ..).trans (h ▸ rfl)⟩

theorem State.sendSync_time {s : State} {h g : Nat} (hh : s.time.hops = some h) (hg : s.time.gm = some g) :
    s.sendSync.time = { s.time with seq := (s.time.seq + 1) % 65536 } := by
  unfold State.sendSync
  rw [hh, hg]
  exact (sendTime_does ..).time_eq

theorem State.claimRole_cases (s : State) : s.claimRole = s ∨ s.claimRole = s.sendAnnounce.becomeGrandmaster := by
  unfold State.claimRole
  split
  · exact .inr rfl
  · exact .inl rfl

theorem State.pickUpstream_time (s : State) : ∃ upstream hops electAt electing best, s.pickUpstream.time =
    { s.time with upstream := upstream, hops := hops, electAt := electAt, electing := electing, best := best } := by
  unfold State.pickUpstream
  split
  · exact ⟨_, _, _, _, _, rfl⟩
  · split
    · exact ⟨_, _, _, _, _, rfl⟩
    · exact ⟨_, _, _, _, _, rfl⟩

/-! ### The wire of a link -/

theorem State.startFrame_id (s : State) (l v : Nat) : (s.startFrame l v).strand.id = s.strand.id := by
  unfold State.startFrame
  dsimp only
  split
  · rfl
  · rfl

theorem State.putOnWire_id (s : State) (l : Nat) (w : Wire) : (s.putOnWire l w).strand.id = s.strand.id := by
  unfold State.putOnWire
  split
  · exact startFrame_id ..
  · unfold State.startAgain
    dsimp only
    split
    · rfl
    · rfl
  · exact startFrame_id ..
  · dsimp only
    split
    · rfl
    · rfl

theorem State.drain_id (n : Nat) (s : State) (l now : Nat) : (State.drain n s l now).strand.id = s.strand.id := by
  induction n generalizing s with
  | zero => rfl
  | succ n ih =>
    unfold State.drain
    split
    · rfl
    · exact (ih _).trans (putOnWire_id ..)

theorem State.pump_id (s : State) (l : Nat) : (s.pump l).strand.id = s.strand.id := by
  unfold State.pump
  split
  · rfl
  · exact drain_id ..

theorem State.sendLocal_id (s : State) (l vc type : Nat) (words : List Nat) : (s.sendLocal l vc type words).strand.id = s.strand.id := by
  unfold State.sendLocal
  split
  · exact (pump_id _ l).trans (pump_id s l)
  · rfl

/-- Nothing waits for the wire of a link. -/
structure LinkSt.Quiet (c : LinkSt) : Prop where
  queue : c.queue = []
  replay : c.replay = []
  broken : c.broken = none

theorem LinkSt.ready_of_queue_nil {c : LinkSt} (h : c.queue = []) : c.ready = [] := by simp [LinkSt.ready, h]

theorem State.nextOnWire_quiet (s : State) {c : LinkSt} (h : c.Quiet) (now : Nat) : s.nextOnWire c now = none := by
  unfold State.nextOnWire
  rw [LinkSt.ready_of_queue_nil h.queue, h.replay, h.broken]
  simp [State.nextVc, State.leastServed]

theorem State.drain_of_none {s : State} {l now : Nat} (h : s.nextOnWire (s.link l) now = none) (n : Nat) : State.drain n s l now = s := by
  cases n with
  | zero => rfl
  | succ n => rw [State.drain, h]

/-- A frame of VC 0 with credits on a wire that is free goes at once. -/
theorem State.nextOnWire_time (s : State) {c : LinkSt} {f : Frame} {now : Nat} (hq : c.queue = [f]) (hvc : f.hdr.vc = 0)
    (hcredit : f.hdr.len + 2 ≤ c.credits.getD 0 0) (hfree : c.freeAt ≤ now) : s.nextOnWire c now = some (.frame 0) := by
  have hsend : c.canSend f.hdr = true := by
    simp only [LinkSt.canSend, frameBlocks, replayed, hvc]
    simpa using hcredit
  have hr : c.ready = [0] := by simp [LinkSt.ready, List.filter, hq, hvc, hsend, replayed]
  unfold State.nextOnWire
  rw [hr]
  simp [hfree]

theorem LinkSt.quiet_of_wireIdle {s : State} {l : Nat} (h : s.wireIdle l = true) :
    (s.link l).Quiet ∧ (s.link l).freeAt ≤ 8 * s.clk := by
  unfold State.wireIdle at h
  simp only [Bool.and_eq_true, List.isEmpty_iff, Option.isNone_iff_eq_none, decide_eq_true_eq] at h
  obtain ⟨⟨⟨hq, hr⟩, hb⟩, hf⟩ := h
  exact ⟨⟨hq, hr, hb⟩, hf⟩

theorem State.pump_quiet {s : State} {l : Nat} (ho : s.linkOpen l = true) (hq : (s.link l).Quiet) :
    s.pump l = s.setLink l { s.link l with freeAt := max (s.link l).freeAt (8 * s.clk) } := by
  unfold State.pump
  rw [if_neg (by simp [ho]), drain_of_none (nextOnWire_quiet s hq _)]

/-- The only frame of a queue, one of VC 0 other than TIME SYNC, leaves as it is. -/
theorem State.startFrame_single {s : State} {l : Nat} {f : Frame} (hl : l < s.strand.links.length) (hq : (s.link l).queue = [f])
    (hvc : f.hdr.vc = 0) (ht : f.hdr.type ≠ 0) :
    (s.startFrame l 0).out = frameOut l f 0 :: s.out ∧ ((s.startFrame l 0).link l).queue = []
      ∧ ((s.startFrame l 0).link l).replay = (s.link l).replay ∧ ((s.startFrame l 0).link l).broken = (s.link l).broken := by
  have hstamp : s.stampSync (s.link l).freeAt f = f := if_neg fun h => ht h.2.1
  have hfind : (s.link l).queue.find? (fun f => f.hdr.vc == 0) = some f := by simp [hq, hvc]
  have hc : s.startFrame l 0 = ((s.setLink l (({ s.link l with queue := [] }.begin f).onWire f.hdr)).emit (frameOut l f 0)).bump
      (obj (0x2210 + l % 4) 1) := by
    unfold State.startFrame
    simp only [hfind, hstamp]
    simp [hq, hvc, dropFirst, replayed]
  have hlink : (s.startFrame l 0).link l = ({ s.link l with queue := [] }.begin f).onWire f.hdr := by
    rw [hc]
    exact setLink_link_self _ _ _ hl
  rw [hlink, hc]
  have hb : ∀ c : LinkSt, (c.begin f) = { c with credits := c.credits.modify f.hdr.vc (· - frameBlocks f.hdr) } := fun c =>
    if_neg (by simp [replayed, hvc])
  rw [hb]
  exact ⟨rfl, rfl, rfl, rfl⟩

theorem State.setLink_setLink (s : State) (l : Nat) (a b : LinkSt) : (s.setLink l a).setLink l b = s.setLink l b := by
  simp [State.setLink, List.set_set]

/-- A link takes a frame of VC 0 while nothing waits for its wire. -/
theorem State.egress_quiet {s : State} {l : Nat} {f : Frame} (hl : l < s.strand.links.length) (ho : s.linkOpen l = true)
    (hq : (s.link l).Quiet) (hvc : f.hdr.vc = 0) :
    s.egress l f = (s.setLink l { s.link l with freeAt := max (s.link l).freeAt (8 * s.clk), queue := [f] }).pump l := by
  have hcatch : ∀ (t : State) (c : LinkSt), t.catchUp c f.hdr.vc = c := fun t c => if_pos (by simp [replayed, hvc])
  unfold State.egress
  rw [pump_quiet ho hq]
  dsimp only
  rw [hcatch, setLink_link_self _ _ _ hl, setLink_setLink, hq.queue]
  rfl

/-- A frame of VC 0 other than TIME SYNC, alone in the queue of a free wire, goes at once. -/
theorem State.pump_single {s : State} {l : Nat} {f : Frame} (hl : l < s.strand.links.length) (ho : s.linkOpen l = true)
    (hq : (s.link l).queue = [f]) (hr : (s.link l).replay = []) (hb : (s.link l).broken = none) (hvc : f.hdr.vc = 0) (ht : f.hdr.type ≠ 0)
    (hcredit : f.hdr.len + 2 ≤ (s.link l).credits.getD 0 0) (hfree : (s.link l).freeAt ≤ 8 * s.clk) :
    (s.pump l).out = frameOut l f 0 :: s.out := by
  obtain ⟨hout, hqueue, hreplay, hbroken⟩ := startFrame_single hl hq hvc ht
  have hquiet : ((s.startFrame l 0).link l).Quiet := ⟨hqueue, hreplay.trans hr, hbroken.trans hb⟩
  have hnext : s.nextOnWire (s.link l) (8 * s.clk) = some (.frame 0) := nextOnWire_time s hq hvc hcredit hfree
  have hdrain : State.drain (s.link l).steps s l (8 * s.clk) = s.startFrame l 0 := by
    unfold LinkSt.steps
    rw [State.drain, hnext]
    exact drain_of_none (nextOnWire_quiet _ hquiet _) _
  unfold State.pump
  rw [if_neg (by simp [ho]), hdrain]
  exact hout

/-- Over a wire that is free, with credits, a TIME message other than TIME SYNC goes at once. -/
theorem State.sendLocal_idle {s : State} {l type : Nat} {words : List Nat} (hl : l < s.strand.links.length) (ho : s.linkOpen l = true)
    (hidle : s.wireIdle l = true) (hcredit : words.length + 2 ≤ (s.link l).credits.getD 0 0) (ht : type ≠ 0) :
    (s.sendLocal l 0 type words).out =
      frameOut l ⟨{ vc := 0, dest := 0xFFF, src := s.strand.id, type := type, len := words.length }, words, false⟩ 0 :: s.out := by
  obtain ⟨hquiet, hfree⟩ := LinkSt.quiet_of_wireIdle hidle
  unfold State.sendLocal
  rw [if_pos ho, egress_quiet hl ho hquiet rfl]
  have hlink := setLink_link_self s l
    { s.link l with
      freeAt := max (s.link l).freeAt (8 * s.clk)
      queue := [⟨{ vc := 0, dest := 0xFFF, src := s.strand.id, type := type, len := words.length }, words, false⟩] } hl
  refine pump_single (by simpa [State.setLink] using hl) ?_ ?_ ?_ ?_ rfl ht ?_ ?_
  · unfold State.linkOpen
    rw [hlink]
    exact ho
  · rw [hlink]
  · rw [hlink]
    exact hquiet.replay
  · rw [hlink]
    exact hquiet.broken
  · rw [hlink]
    exact hcredit
  · rw [hlink]
    exact max_le hfree le_rfl

/-! ### The exchange -/

theorem execSyncInterval_result {s : State} {h g : Nat} (hup : s.module.mainUp = true) (hclk : s.clk ≤ s.time.syncAt)
    (hnamed : s.nat (obj 0x2101 1) = s.time.designated) (helect : s.time.electing = false) (hhops : s.time.hops = some h)
    (hgm : s.time.gm = some g) :
    ∃ t, execSyncInterval s = .next t ∧ t.clk = s.time.syncAt ∧ t.time.interval = s.nat (obj 0x2101 5) * usTicks
      ∧ t.time.syncAt = s.time.syncAt + s.nat (obj 0x2101 5) * usTicks ∧ t.time.seq = (s.time.seq + 1) % 65536 := by
  unfold execSyncInterval
  rw [if_neg (by simp [hup])]
  extract_lets s1 interval src s2 named src2 s3
  have hc : s2.clk = s.time.syncAt := atClk_clk hclk
  have h3 : s3 = s2 := if_pos hnamed
  have hrun : s2.runElection = s2 := if_pos (by rw [show s2.time.electing = false from helect]; rfl)
  refine ⟨_, rfl, ?_⟩
  rw [h3, hrun]
  rcases claimRole_cases s2 with hrole | hrole <;> rw [hrole]
  · rw [(sendSync_does s2).clk_eq, @sendSync_time s2 _ _ hhops hgm]
    exact ⟨hc, rfl, congrArg (· + interval) hc, rfl⟩
  · obtain ⟨high, stop, ht⟩ := becomeGrandmaster_time s2.sendAnnounce
    rw [(sendAnnounce_does s2).time_eq] at ht
    rw [(sendSync_does _).clk_eq, (becomeGrandmaster_does _).clk_eq, (sendAnnounce_does _).clk_eq, sendSync_time (by rw [ht]) (by rw [ht]), ht]
    exact ⟨hc, rfl, congrArg (· + interval) hc, rfl⟩

theorem execTimeSync_result {s : State} {link : Link} {t1 gm hops seq phase turnaround : Nat} (hs : s.time.shaped)
    (hup : s.module.mainUp = true) (hlink : s.linkUp link.val = true) (hgm : s.time.gm = some gm) (hid : gm ≠ s.strand.id) :
    ∃ t, execTimeSync link t1 gm hops seq phase turnaround s = .next t
      ∧ t.time.far.getD link.val none = some ⟨seq, t1, 4 * s.tick + phase % 4, 4 * s.tick + phase % 4 + turnaround⟩
      ∧ t.time.heard.getD link.val none = some ⟨s.clk, gm, hops⟩ ∧ t.time.gm = some gm ∧ t.clk = s.clk := by
  obtain ⟨-, hheard, hfar⟩ := hs
  unfold execTimeSync
  extract_lets +onlyGivenNames l
  rw [if_neg (by simp [hup, l, hlink])]
  extract_lets +onlyGivenNames t2 src s1 s2 takes
  have ht : s2.time = s1.time := (sendLocal_does ..).time_eq
  have hc : s2.clk = s.clk := (sendLocal_does ..).clk_eq
  have hgm2 : s2.time.gm = some gm := ht ▸ hgm
  have htakes : takes = true := by
    unfold takes
    rw [hgm2]
    simp
  rw [if_neg (by simp [htakes, show s2.strand.id = s.strand.id from sendLocal_id .., hid]), if_pos hgm2]
  refine ⟨_, rfl, ?_⟩
  obtain ⟨upstream, hops', electAt, electing, best, hp⟩ := pickUpstream_time
    (s2.setTime { s2.time with heard := s2.time.heard.set l (some ⟨s2.clk, gm, hops⟩), lost := if s2.time.lost = some gm then none else s2.time.lost })
  rw [hp, (pickUpstream_does _).clk_eq]
  refine ⟨?_, ?_, hgm2, hc⟩
  · exact (congrArg (·.far.getD l none) ht).trans (getD_set_self _ _ _ _ (lt_of_lt_of_eq link.isLt hfar.symm))
  · have hlen : s2.time.heard.length = 4 := ht ▸ hheard
    exact (getD_set_self _ _ _ _ (lt_of_lt_of_eq link.isLt hlen.symm)).trans (by rw [hc])

theorem execTimeReply_result {s : State} {link : Link} {seq phase : Nat} (hs : s.strand.shaped) (hup : s.module.mainUp = true)
    (hlink : s.linkUp link.val = true) (hidle : s.wireIdle link.val = true) (hcredit : 4 ≤ (s.link link.val).credits.getD 0 0) :
    ∃ t, execTimeReply link seq phase s = .next t
      ∧ t.out = frameOut link.val ⟨{ vc := 0, dest := 0xFFF, src := s.strand.id, type := 2, len := 2 },
          [s.tick, (phase % 4) <<< 62 ||| (seq % 65536) <<< 26], false⟩ 0 :: s.out
      ∧ t.time = s.time := by
  have hopen : s.linkOpen link.val = true := Bool.or_eq_true_iff.2 (.inl hlink)
  unfold execTimeReply
  rw [if_pos (by simp [hup, hlink])]
  exact ⟨_, rfl, sendLocal_idle (lt_of_lt_of_eq link.isLt hs.1.symm) hopen hidle hcredit (by decide), (sendLocal_does ..).time_eq⟩

theorem execTimeFollow_result {s : State} {link : Link} {t4 seq : Nat} {e : Exchange} (hs : s.time.shaped) (hup : s.module.mainUp = true)
    (hfar : s.time.far.getD link.val none = some e) (hseq : e.seq = seq) (hport : s.time.upstream ≠ some link.val) :
    ∃ t, execTimeFollow link t4 seq s = .next t ∧ t.time.delays.getD link.val 0 = min max32 (roundN (exchangeDelay e t4))
      ∧ t.time.far.getD link.val none = none ∧ t.time.state = s.time.state := by
  obtain ⟨hdelays, -, hfars⟩ := hs
  unfold execTimeFollow
  rw [if_neg (by simp [hup])]
  simp only [hfar]
  rw [if_neg (by simp [hseq]), if_neg (fun h => hport h.1)]
  exact ⟨_, rfl, getD_set_self _ _ _ _ (lt_of_lt_of_eq link.isLt hdelays.symm), getD_set_self _ _ _ _ (lt_of_lt_of_eq link.isLt hfars.symm), rfl⟩

/-- Settles O1: each exchange command from the lemma on its `exec` function. -/
theorem timeExchangeResults : Obligations.TimeExchangeResults := by
  unfold Obligations.TimeExchangeResults
  exact ⟨fun _ _ _ hup hclk hnamed helect hhops hgm => execSyncInterval_result hup hclk hnamed helect hhops hgm,
    fun _ _ _ _ _ _ _ _ hs hup hlink hgm hid => execTimeSync_result hs hup hlink hgm hid,
    fun _ _ _ _ hs hup hlink hidle hcredit => execTimeReply_result hs hup hlink hidle hcredit,
    fun _ _ _ _ _ hs hup hfar hseq hport => execTimeFollow_result hs hup hfar hseq hport⟩

end Sys2Proof.Machine
end


section
/-!
The timed changes of the time state.
-/
set_option Elab.async false
set_option linter.all false

namespace Sys2Proof.Machine

open Sys2Proof State

theorem State.enterSlack_time (s : State) : ∃ corr high stop, s.enterSlack.time =
    { s.time with
      slackAt := s.clk, good := 0, corr := corr, state := .slack, lockedSum := s.lockedTime, syncOutHigh := high, syncOutEnd := stop } := by
  unfold State.enterSlack
  extract_lets src
  obtain ⟨high, stop, h⟩ := enterTime_time (s.setTime { src with
    slackAt := s.clk, good := 0, corr := if s.time.learned then s.time.mean else s.time.corr }) .slack
  exact ⟨_, high, stop, (raise_does ..).time_eq.trans h⟩

/-- No link is fresh where the grandmaster is heard on none: the module has no upstream port. -/
theorem State.pickUpstream_silent {s : State} (hst : s.time.state ≠ .grandmaster) (hheard : ∀ j, s.time.heard.getD j none = none) :
    s.pickUpstream = s.setTime { s.time with upstream := none, hops := none } := by
  have hfresh : s.freshLinks = [] := by
    unfold State.freshLinks
    exact List.filterMap_eq_nil_iff.2 fun l _ => by rw [hheard l]
  unfold State.pickUpstream
  rw [if_neg hst, hfresh]
  rfl

theorem State.foldl_id {α : Type} {f : State → α → State} (h : ∀ t x, (f t x).strand.id = t.strand.id) (s : State) (l : List α) :
    (l.foldl f s).strand.id = s.strand.id := by
  induction l generalizing s with
  | nil => rfl
  | cons x l ih => exact (ih _).trans (h s x)

theorem State.sendAnnounce_id (s : State) : s.sendAnnounce.strand.id = s.strand.id := by
  unfold State.sendAnnounce
  split
  · refine foldl_id (fun t l => ?_) _ _
    split
    · exact sendLocal_id ..
    · rfl
  · rfl

theorem execUpstreamTimeout_result {l : Nat} {x : Heard} {s : State} (hup : s.time.upstream = some l)
    (hx : s.time.heard.getD l none = some x) (hst : s.time.state = .locked) (hclk : s.clk ≤ x.at_ + 4 * s.time.interval)
    (hother : ∀ j, j ≠ l → s.time.heard.getD j none = none) :
    ∃ t, execUpstreamTimeout s = .next t ∧ t.clk = x.at_ + 4 * s.time.interval ∧ t.time.state = .slack ∧ t.time.slackAt = t.clk
      ∧ t.time.upstream = none ∧ t.time.hops = none ∧ t.time.electAt = some (t.clk + 4 * msTicks) := by
  unfold execUpstreamTimeout
  rw [hup]
  dsimp -zeta only
  extract_lets +onlyGivenNames last s1 src s2 s3 s4
  have hlast : last = x.at_ := by
    unfold last
    rw [hx]
  have hc : s2.clk = x.at_ + 4 * s.time.interval := by
    unfold s2 s1
    rw [hlast]
    exact atClk_clk hclk
  have h3 : s3 = s2.enterSlack := if_pos hst
  obtain ⟨corr, high, stop, ht⟩ := enterSlack_time s2
  have hc3 : s3.clk = s2.clk := h3 ▸ (enterSlack_does s2).clk_eq
  have h4 : s4 = s3.setTime { s3.time with upstream := none, hops := none } := by
    refine pickUpstream_silent (by rw [h3, ht]; exact nofun) fun j => ?_
    rw [h3, ht]
    by_cases hj : j = l
    · subst hj
      simp [s2, setTime, src, List.getD_eq_getElem?_getD, List.getElem?_set]
      split <;> rfl
    · exact (getD_set_other _ _ _ _ _ hj).trans (hother j hj)
  refine ⟨_, if_pos (by rw [h4]; rfl), ?_⟩
  have hc4 : s4.clk = x.at_ + 4 * s.time.interval := (h4 ▸ hc3 : s4.clk = s2.clk).trans hc
  have ht3 : s3.time.state = .slack ∧ s3.time.slackAt = s2.clk := by
    rw [h3, ht]
    exact ⟨rfl, rfl⟩
  refine ⟨hc4, ?_, ?_, ?_, ?_, rfl⟩
  · exact h4 ▸ ht3.1
  · exact (h4 ▸ ht3.2 : s4.time.slackAt = s2.clk).trans (hc.trans hc4.symm)
  · exact h4 ▸ rfl
  · exact h4 ▸ rfl

/-- The distance of a module is a matter of the records alone (13 R364). -/
theorem State.spread_congr {s t : State} (h : t.strand = s.strand) (n k : Nat) (found : List (Nat × Nat)) :
    t.spread n k found = s.spread n k found := by
  have htopo : t.topoOf = s.topoOf := by
    funext id
    unfold State.topoOf State.topoTable
    rw [h]
  induction n generalizing k found with
  | zero => rfl
  | succ n ih =>
    unfold State.spread
    simp only [htopo, ih]

theorem State.distance_congr {s t : State} (h : t.strand = s.strand) (id : Nat) : t.distance id = s.distance id := by
  unfold State.distance
  rw [h, spread_congr h]

/-- Who is best turns on the records and on what is known of the candidates (02 R49, R50). -/
theorem State.isBest_congr {s t : State} (h : t.strand = s.strand) (hd : t.time.designated = s.time.designated)
    (hb : t.time.best = s.time.best) (hl : t.time.lost = s.time.lost) : t.isBest = s.isBest := by
  unfold State.isBest State.bestCandidate State.candidate State.fabricBarred State.topoTable
  simp only [h, hd, hb, hl, distance_congr h]

theorem execElectionTimeout_result {u : Nat} {s : State} (helect : s.time.electAt = some u) (hup : s.module.mainUp = true) (hclk : s.clk ≤ u)
    (hbest : (s.setTime { s.time with lost := s.time.gm }).isBest = true) :
    ∃ t, execElectionTimeout s = .next t ∧ t.clk = u ∧ t.time.state = .grandmaster ∧ t.time.gm = some s.strand.id ∧ t.time.hops = some 0
      ∧ t.time.electAt = none ∧ t.time.electing = false := by
  unfold execElectionTimeout
  rw [helect]
  dsimp -zeta only
  rw [if_pos hup]
  extract_lets +onlyGivenNames s1 s2
  refine ⟨_, rfl, ?_⟩
  generalize h2 : s1.setTime _ = s2
  have hbest2 : s2.isBest = true := by
    rw [← hbest, ← h2]
    exact isBest_congr rfl rfl rfl rfl
  have hrun : s2.runElection = s2.sendAnnounce.becomeGrandmaster := by
    unfold State.runElection
    rw [if_neg (by rw [← h2]; exact nofun), if_pos hbest2]
  obtain ⟨high, stop, ht⟩ := becomeGrandmaster_time s2.sendAnnounce
  rw [hrun, ht, (becomeGrandmaster_does _).clk_eq, (sendAnnounce_does _).clk_eq, sendAnnounce_id]
  subst h2
  exact ⟨atClk_clk hclk, rfl, rfl, rfl, rfl, rfl⟩

theorem execAnnounce_result {link : Link} {candidate hops : Nat} {s : State} (hup : s.module.mainUp = true) (hlink : s.linkUp link.val = true)
    (hbest : s.time.best = none) :
    ∃ t, execAnnounce link candidate false hops s = .next t ∧ t.time.best = some ⟨candidate, false, min 255 (hops + 1)⟩
      ∧ t.time.gm = s.time.gm ∧ t.clk = s.clk := by
  unfold execAnnounce
  rw [if_neg (by simp [hup, hlink])]
  exact ⟨_, rfl, by rw [hbest]; rfl, rfl, rfl⟩

theorem execHoldoverLimit_result {s : State} (hst : s.time.state = .slack) (hclk : s.clk ≤ s.time.slackAt + 60 * secTicks) :
    ∃ t, execHoldoverLimit s = .next t ∧ t.clk = s.time.slackAt + 60 * secTicks ∧ t.time.state = .acquiring ∧ t.time.upstream = none
      ∧ t.time.hops = none ∧ t.time.first = true := by
  unfold execHoldoverLimit
  rw [if_pos hst]
  extract_lets +onlyGivenNames s1
  refine ⟨_, rfl, ?_⟩
  generalize h2 : s1.setTime _ = s2
  obtain ⟨high, stop, ht⟩ := enterTime_time s2 .acquiring
  rw [(raise_does ..).time_eq, (raise_does ..).clk_eq, (enterTime_does ..).clk_eq, ht]
  subst h2
  exact ⟨atClk_clk hclk, rfl, rfl, rfl, rfl⟩

theorem State.atClk_timeState (s : State) (u : Nat) : (s.atClk u).time.state = s.time.state := rfl

theorem execLearnedFrequencyValid_result {s : State} (hst : s.time.state = .locked) (hclk : s.clk ≤ s.time.lockedAt + 10 * secTicks) :
    ∃ t, execLearnedFrequencyValid s = .next t ∧ t.clk = s.time.lockedAt + 10 * secTicks ∧ t.time.learned = true ∧ t.time.state = .locked := by
  unfold execLearnedFrequencyValid
  rw [if_pos hst]
  have hc := atClk_clk hclk
  have hs := (atClk_timeState s (s.time.lockedAt + 10 * secTicks)).trans hst
  generalize s.time.lockedAt + 10 * secTicks = due at hc hs ⊢
  exact ⟨_, rfl, hc, rfl, hs⟩

/-! ### Fault -/

theorem State.enterState_module (s : State) {st : ModState} (trigger : Nat) (hst : st ≠ .idle) :
    (s.enterState st trigger).module.state = st ∧ (s.enterState st trigger).module.faultCause = s.module.faultCause := by
  unfold State.enterState
  split
  next h => exact ⟨h, rfl⟩
  next h =>
    extract_lets +onlyGivenNames src s1 s2 s3
    have h2 : s2.module = s1.module := (deratedIn_does ..).module_eq.trans (raise_does ..).module_eq
    rw [(refreshTopo_does _).module_eq, (loopsRecheck_does _).module_eq, h2]
    exact ⟨rfl, rfl⟩

theorem State.enterFault_module {s : State} (code : Nat) (h : s.module.state ≠ .fault) :
    (s.enterFault code).module.state = .fault ∧ (s.enterFault code).module.faultCause = code := by
  unfold State.enterFault
  rw [if_neg h]
  exact enterState_module _ _ (by decide)

theorem execRootPllLockLost_result {s : State} (hup : s.module.mainUp = true) (hst : s.module.state = .idle) :
    ∃ t, execRootPllLockLost s = .next t ∧ t.time.pllLocked = false ∧ t.module.state = .fault ∧ t.module.faultCause = 0xF006 := by
  unfold execRootPllLockLost
  rw [if_pos hup]
  refine ⟨_, rfl, ?_, enterFault_module _ ?_⟩
  · rw [(enterFault_does ..).time_eq, (raise_does ..).time_eq]
    rfl
  · rw [(raise_does ..).module_eq]
    exact fun h => absurd (hst.symm.trans h) (by decide)

/-- Settles O2: each timed change from the lemma on its `exec` function. -/
theorem timeStateResults : Obligations.TimeStateResults := by
  unfold Obligations.TimeStateResults
  exact ⟨fun _ _ _ _ hup hx hst hclk hother => execUpstreamTimeout_result hup hx hst hclk hother,
    fun _ _ helect hup hclk hbest => execElectionTimeout_result helect hup hclk hbest,
    fun _ _ _ _ hup hlink hbest => execAnnounce_result hup hlink hbest,
    fun _ hst hclk => execHoldoverLimit_result hst hclk,
    fun _ hst hclk => execLearnedFrequencyValid_result hst hclk,
    fun _ hup hst => execRootPllLockLost_result hup hst⟩

end Sys2Proof.Machine
end


section
/-!
The synchronisation pins.
-/
set_option Elab.async false
set_option linter.all false

namespace Sys2Proof.Machine

open Sys2Proof State

/-! ### Numbers read from the dictionary -/

section
variable {ks : List KeySet} {ps : List Part} {s t : State}

theorem State.nat_congr {k : Nat} (h : t.val k = s.val k) : t.nat k = s.nat k := by
  unfold State.nat State.int
  rw [h]

theorem State.Keeps.nat_eq (h : s.Keeps ks t) {k : Nat} (hk : ∀ x ∈ ks, ¬x.has k) : t.nat k = s.nat k := nat_congr (h.val k hk)

theorem State.Does.keeps_all (h : s.Does ps t) (hp : Part.od ∉ ps ∧ Part.variant ∉ ps ∧ Part.side ∉ ps := by decide) : s.Keeps [] t := Does.keeps h hp

/-- An operation that does not touch the dictionary leaves every number in it. -/
theorem State.Does.nat_eq (h : s.Does ps t) (k : Nat) (hp : Part.od ∉ ps ∧ Part.variant ∉ ps ∧ Part.side ∉ ps := by decide) : t.nat k = s.nat k :=
  (h.keeps_all hp).nat_eq nofun

theorem State.nat_putNat_self (s : State) (k v : Nat) : (s.putNat k v).nat k = v := by
  unfold State.nat State.int State.putNat
  rw [val_put_self]
  rfl

theorem State.nat_putNat_other (s : State) {k j : Nat} (v : Nat) (h : j ≠ k) : (s.putNat k v).nat j = s.nat j := nat_congr (val_put_other _ _ h)

theorem State.nat_bump_self (s : State) (k : Nat) : (s.bump k).nat k = s.counted k := nat_putNat_self ..

theorem State.nat_bump_other (s : State) {k j : Nat} (h : j ≠ k) : (s.bump k).nat j = s.nat j := nat_putNat_other _ _ h

end

/-! ### The synchronisation pins -/

/-- A state reached without taking back what left the block. -/
def State.Sends (s t : State) : Prop := s.out ⊆ t.out

theorem State.pulseCc_sends (s : State) (source tick width p : Nat) : s.Sends (s.pulseCc source tick width p) := by
  refine List.foldlRecOn (motive := s.Sends) _ _ (List.Subset.refl _) fun t ht i _ => ?_
  split
  · exact List.Subset.trans ht (List.subset_cons_self ..)
  · exact ht

/-- A pulse on the lines that repeat SYNC_OUT takes nothing back. -/
theorem State.foldl_pulseCc_sends (source tick width : Nat) (l : List Nat) (s : State) :
    s.Sends (l.foldl (State.pulseCc · source tick width ·) s) :=
  List.foldlRecOn (motive := s.Sends) _ _ (List.Subset.refl _) fun _ ht _ _ => List.Subset.trans ht (pulseCc_sends ..)

theorem State.atTick_counter {s : State} {u : Nat} (hrun : s.timeRuns = true) (h : s.time.counter ≤ u) : (s.atTick u).time.counter = u :=
  (if_pos hrun).trans (Nat.add_sub_cancel' h)

theorem execSyncInEdge_result {rising : Bool} {phase : Nat} {s : State} (hup : s.module.mainUp = true) (hmode : s.nat (obj 0x2104 1) = 1)
    (hedge : rising = (s.nat (obj 0x2104 2) == 0)) :
    ∃ t, execSyncInEdge rising phase s = .next t ∧ t.nat (obj 0x2104 4) = s.tick
      ∧ t.nat (obj 0x2104 5) = min max32 (s.nat (obj 0x2104 5) + 1) ∧ t.time.syncIn = some (4 * s.tick + phase % 4)
      ∧ t.time.counter = s.time.counter := by
  unfold execSyncInEdge
  extract_lets +onlyGivenNames src s1 s2 mode now before src2 s3 s4
  obtain ⟨high, stop, ht⟩ := settleSyncOut_time s1
  have hnat : ∀ k, s2.nat k = s.nat k := fun k => (settleSyncOut_does s1).nat_eq k
  have htick : s2.tick = s.tick := (congrArg TimeSt.counter ht).trans rfl
  have hm : mode = 1 := (hnat _).trans hmode
  have hcount : s3.nat (obj 0x2104 5) = s.nat (obj 0x2104 5) := (nat_putNat_other _ _ (by decide)).trans (hnat _)
  rw [if_neg (by simp [s1, State.setTime, hup]), if_neg (by rw [hm, hnat, hedge]; simp)]
  refine ⟨s4, ?_, ?_, ?_, ?_, htick⟩
  · clear_value before
    cases before with
    | some b => exact if_neg fun h => absurd (hm.symm.trans h.1) (by decide)
    | none => rfl
  · exact (nat_bump_other _ (by decide)).trans ((nat_putNat_self ..).trans htick)
  · refine (nat_bump_self ..).trans ?_
    rw [State.counted, hcount]
    rfl
  · exact congrArg (fun n => some (4 * n + phase % 4)) htick

theorem execSyncOutPulse_result {u : Nat} {s : State} (hpulse : s.time.syncOut = some u) (hup : s.module.mainUp = true)
    (hcount : s.time.counter ≤ u) (hst : s.time.state = .locked) :
    ∃ t, execSyncOutPulse s = .next t ∧ t.time.counter = u ∧ .syncOut u (s.nat (obj 0x2105 4)) ∈ t.out
      ∧ t.time.syncOut = some (s.syncOutAfter u) ∧ t.time.syncOutEnd = some (u + s.nat (obj 0x2105 4)) := by
  unfold execSyncOutPulse
  rw [hpulse]
  dsimp -zeta only
  rw [if_neg (by simp [hup])]
  extract_lets +onlyGivenNames s1 width s2
  have hfree : s1.syncOutHeld = false := by
    unfold State.syncOutHeld
    rw [show s1.time.state = .locked from hst, show s1.module.mainUp = true from hup]
    rfl
  have h2 : s2 = [0, 1, 2, 3].foldl (State.pulseCc · 5 u width ·) (s1.emit (.syncOut u width)) :=
    if_neg (by rw [hfree]; exact nofun)
  have hdoes : (s1.emit (.syncOut u width)).Does [.out] s2 := h2 ▸ Does.foldl (fun _ _ => pulseCc_does ..) .same
  have ht : s2.time = s1.time := hdoes.time_eq
  have hheld : s2.syncOutHeld = false := by
    unfold State.syncOutHeld at hfree ⊢
    rw [ht, hdoes.module_eq]
    exact hfree
  have hnat : ∀ k, s2.nat k = s.nat k := fun k => hdoes.nat_eq k
  have hout : .syncOut u width ∈ s2.out := by
    rw [h2]
    exact foldl_pulseCc_sends 5 u width _ (s1.emit (.syncOut u width)) List.mem_cons_self
  clear_value s2
  refine ⟨_, rfl, (congrArg TimeSt.counter ht).trans (atTick_counter hup hcount), hout, ?_, ?_⟩
  · refine congrArg some ?_
    unfold State.syncOutAfter
    simp only [hnat]
  · exact (if_neg (by rw [hheld]; exact nofun)).trans (by rw [hnat])

/-- Settles O3: an active edge of SYNC_IN and a due edge of SYNC_OUT, each from the lemma on its `exec` function. -/
theorem syncPinResults : Obligations.SyncPinResults := by
  unfold Obligations.SyncPinResults
  exact ⟨fun _ _ _ hup _ hmode hedge => execSyncInEdge_result hup hmode hedge,
    fun _ _ hpulse hup hcount hst => execSyncOutPulse_result hpulse hup hcount hst⟩

end Sys2Proof.Machine
end


section
/-!
What the operations of a camera port leave in its camera.
-/
set_option Elab.async false
set_option linter.all false

namespace Sys2Proof.Machine

open Sys2Proof State

/-! ### What the operations of a port leave in its camera -/

section
variable {s t u : State} {p : Nat} {ps : List Part}

theorem State.Does.cams_eq (h : s.Does ps t) (k : Part.cams ∉ ps := by decide) : t.cams = s.cams := h.only .cams k

theorem State.Does.cam_eq (h : s.Does ps t) (p : Nat) (k : Part.cams ∉ ps := by decide) : t.cam p = s.cam p :=
  congrArg (·.getD p {}) (h.cams_eq k)

/-- Of a port's camera only the frames in progress have changed. -/
def State.OnlyFrames (p : Nat) (s t : State) : Prop := ∃ frames, t.cam p = { s.cam p with frames := frames }

theorem State.OnlyFrames.refl (p : Nat) (s : State) : s.OnlyFrames p s := ⟨_, rfl⟩

theorem State.OnlyFrames.trans (h : s.OnlyFrames p t) (k : t.OnlyFrames p u) : s.OnlyFrames p u := by
  obtain ⟨f, h⟩ := h
  obtain ⟨g, k⟩ := k
  exact ⟨g, by rw [k, h]⟩

theorem State.OnlyFrames.of_cam (h : t.cam p = s.cam p) : s.OnlyFrames p t := ⟨_, h⟩

theorem State.Does.onlyFrames (h : s.Does ps t) (p : Nat) (k : Part.cams ∉ ps := by decide) : s.OnlyFrames p t := .of_cam (h.cam_eq p k)

/-- A port without a camera takes none. -/
theorem State.setCam_cam (s : State) (p : Nat) (c : Camera) : (s.setCam p c).cam p = if p < s.cams.length then c else s.cam p := by
  split
  next h => exact setCam_cam_self _ _ _ h
  next h => exact congrArg (·.getD p {}) (List.set_eq_of_length_le (Nat.le_of_not_lt h))

theorem State.setCam_frames (s : State) (p : Nat) (frames : List OpenFrame) :
    s.OnlyFrames p (s.setCam p { s.cam p with frames := frames }) := by
  unfold State.OnlyFrames
  rw [setCam_cam]
  split
  · exact ⟨_, rfl⟩
  · exact ⟨_, rfl⟩

/-- What a port waits for and receives: its pending triggers, the line in reception, the level of FVAL, the lines missed in a row. -/
def Camera.reception (c : Camera) : List PendingTrigger × Option LineInWork × Bool × Nat := (c.pending, c.line, c.fval, c.consecutiveMissing)

theorem State.OnlyFrames.reception (h : s.OnlyFrames p t) : (t.cam p).reception = (s.cam p).reception := by
  obtain ⟨f, h⟩ := h
  rw [h]
  rfl

theorem State.setCam_reception (s : State) (p : Nat) (c : Camera) (h : c.reception = (s.cam p).reception) :
    ((s.setCam p c).cam p).reception = (s.cam p).reception := by
  rw [setCam_cam]
  split
  · exact h
  · rfl

end

/-- What the events of the ports touch, and the engines that their lines enter. -/
abbrev portParts : List Part := [.out, .od, .mem, .pipe, .tracker, .ledger, .loops, .backdrop, .strand, .side, .recorder]

section
variable (s : State) (p : Nat)

/-- A frame that closes leaves the frames in progress; nothing else of the camera changes. -/
theorem State.closeFrame_cam (f : OpenFrame) :
    ∃ frames, frames ⊆ (s.cam p).frames ∧ (s.closeFrame p f).cam p = { s.cam p with frames := frames } := by
  unfold State.closeFrame
  extract_lets +onlyGivenNames r c s1 s2 s3 s4
  have h1 : ∃ frames, frames ⊆ (s.cam p).frames ∧ s1.cam p = { s.cam p with frames := frames } := by
    unfold s1
    rw [setCam_cam]
    split
    · exact ⟨_, List.filter_subset' _, rfl⟩
    · exact ⟨_, List.Subset.refl _, rfl⟩
  have hdoes : s2.Does portParts s3 := .ite (.via (raise_does ..) (.of (bump_does ..))) .same
  have h3 : s3.cam p = s1.cam p := (hdoes.cam_eq p).trans ((showFrame_does ..).cam_eq p)
  have h4 : s4.cam p = s1.cam p := ((Does.ite (.of (bump_does ..)) .same : s3.Does [.od] s4).cam_eq p).trans h3
  split
  · rw [(settleFix_does ..).cam_eq, (setEngine_does ..).cam_eq, h4]
    exact h1
  · exact h4 ▸ h1

theorem State.closeReady_cam (n : Nat) :
    ∃ frames, frames ⊆ (s.cam p).frames ∧ (State.closeReady n s p).cam p = { s.cam p with frames := frames } := by
  induction n generalizing s with
  | zero => exact ⟨_, List.Subset.refl _, rfl⟩
  | succ n ih =>
    unfold State.closeReady
    split
    next f _ =>
      obtain ⟨g, hg, h⟩ := closeFrame_cam s p f
      obtain ⟨g', hg', h'⟩ := ih (s.closeFrame p f)
      exact ⟨g', fun x hx => hg (by rw [h] at hg'; exact hg' hx), by rw [h', h]⟩
    · exact ⟨_, List.Subset.refl _, rfl⟩

theorem State.closeReady_onlyFrames (n : Nat) : s.OnlyFrames p (State.closeReady n s p) :=
  (closeReady_cam s p n).imp fun _ h => h.2

theorem State.settleLine_onlyFrames (l : Line) : s.OnlyFrames p (s.settleLine p l) := by
  unfold State.settleLine
  extract_lets +onlyGivenNames c hit number l2 enter before s1 s2 e busy waiting s3
  have h2 : s1.OnlyFrames p s2 := by
    unfold s2
    split
    · split
      · exact .refl p s1
      · exact ((writeLine_does ..).onlyFrames p).trans ((crossBusy_does ..).onlyFrames p)
    · exact .refl p s1
  have h3 : s2.OnlyFrames p s3 :=
    (Does.ite (.via (settleFix_does ..) (.of (setEngine_does ..))) .same : s2.Does portParts s3).onlyFrames p
  exact (setCam_frames s p _).trans (h2.trans (h3.trans (closeReady_onlyFrames ..)))

theorem State.countInFval_onlyFrames : s.OnlyFrames p (s.countInFval p) := setCam_frames s p _

theorem State.missInFrame_onlyFrames : s.OnlyFrames p (s.missInFrame p) := by
  unfold State.missInFrame
  split
  · exact countInFval_onlyFrames s p
  · exact .refl p s

theorem State.settleStop_reception : ((s.settleStop p).cam p).reception = (s.cam p).reception := by
  unfold State.settleStop
  extract_lets +onlyGivenNames c
  split
  · rw [(settleEngine_does ..).cam_eq, (raise_does ..).cam_eq, (closeReady_onlyFrames ..).reception]
    exact setCam_reception _ _ _ rfl
  · rfl

theorem State.beginFrame_reception (index time : Nat) : ((s.beginFrame p index time).cam p).reception = (s.cam p).reception := by
  unfold State.beginFrame
  extract_lets +onlyGivenNames c n drop buffer given c1 given2 c2 f s1 s2
  have hc1 : c1.reception = (s.cam p).reception := by
    unfold c1
    split
    · rfl
    · rfl
  have hc2 : c2.reception = (s.cam p).reception := by
    refine Eq.trans ?_ hc1
    unfold c2
    split
    · rfl
    · rfl
  have hs1 : (s1.cam p).reception = (s.cam p).reception := setCam_reception s p _ hc2
  have hs2 : s2.cam p = s1.cam p := (pulseCc_does ..).cam_eq p
  split
  · rw [(raiseSlow_does ..).cam_eq, (bump_does ..).cam_eq, hs2, hs1]
  · rw [hs2, hs1]

theorem State.pairInFval_reception (t : PendingTrigger) (fval : Bool) : ((s.pairInFval p t fval).cam p).reception = (s.cam p).reception := by
  unfold State.pairInFval
  split
  · rfl
  · extract_lets s1
    refine (countInFval_onlyFrames ..).reception.trans ?_
    unfold s1
    split
    · rfl
    · exact beginFrame_reception ..

theorem State.losePort_pending : ((s.losePort p).cam p).pending = (s.cam p).pending := by
  unfold State.losePort
  extract_lets +onlyGivenNames c
  split
  · rfl
  · extract_lets +onlyGivenNames g s1 s2
    have h1 : (s1.cam p).pending = (s.cam p).pending := by
      unfold s1
      rw [setCam_cam]
      split
      · rfl
      · rfl
    have h2 : s2.cam p = s1.cam p := (Does.via (raise_does ..) (.of (bump_does ..)) : s1.Does portParts s2).cam_eq p
    split
    · rw [(predictFace_does ..).cam_eq, (settleFix_does ..).cam_eq, h2, h1]
    · rw [(settleGrade_does ..).cam_eq, h2, h1]

theorem State.missLine_pending (t : PendingTrigger) (counted : Bool) : ((s.missLine p t counted).cam p).pending = (s.cam p).pending := by
  unfold State.missLine
  extract_lets +onlyGivenNames s1 c s2 s3
  have h1 : s1.cam p = s.cam p := (Does.ite (.of (bump_does ..)) .same : s.Does [.od] s1).cam_eq p
  have h2 : (s2.cam p).pending = (s.cam p).pending := by
    unfold s2
    rw [setCam_cam]
    split
    · exact (congrArg Camera.pending h1 : (s1.cam p).pending = _)
    · exact congrArg Camera.pending h1
  have h3 : (s3.cam p).pending = (s.cam p).pending := (congrArg Prod.fst (settleLine_onlyFrames ..).reception).trans h2
  split
  · rw [losePort_pending, h3]
  · exact h3

end

/-! ### Pending triggers that grow old (03 R72) -/

section
variable {s : State} {p : Nat}

theorem State.settleStop_idle (h : ((s.cam p).stopping && !(s.cam p).cc1Running && (s.cam p).pending.isEmpty) = false) : s.settleStop p = s := by
  unfold State.settleStop
  exact if_neg (by simp [h])

theorem State.expire_nil (n : Nat) (h : (s.cam p).pending = []) : State.expire n s p = s.settleStop p := by
  cases n with
  | zero => rfl
  | succ n =>
    unfold State.expire
    dsimp only
    rw [h]

theorem State.expire_young {t : PendingTrigger} {r : List PendingTrigger} (n : Nat) (h : (s.cam p).pending = t :: r)
    (ht : s.tick ≤ t.tick + s.wmax p) : State.expire (n + 1) s p = s := by
  unfold State.expire
  dsimp only
  rw [h]
  exact if_pos ht

theorem State.expire_old {t : PendingTrigger} {r : List PendingTrigger} (n : Nat) (h : (s.cam p).pending = t :: r)
    (ht : ¬s.tick ≤ t.tick + s.wmax p) :
    State.expire (n + 1) s p = State.expire n (((s.setCam p { s.cam p with pending := r }).missInFrame p).missLine p t true) p := by
  rw [State.expire]
  dsimp only
  rw [h]
  exact if_neg ht

end

/-! ### Counters of a port (03 R72) -/

/-- What the loss of a port writes. -/
abbrev lossKeys (p : Nat) : List KeySet :=
  .one (camKey p 0x2307 8) :: .one (obj 0x2600 13) :: .one (obj 0x2600 7) :: (closeKeys p ++ gradeKeys)

/-- The counters of the lines of a port, 0x23p7:01 to 04, are none of the objects written as frames close, a port is lost and events are raised. -/
theorem lossKeys_line (p : Port) {j : Nat} (hj : j ∈ [1, 2, 3, 4]) : ∀ x ∈ lossKeys p, ¬x.has (camKey p 0x2307 j) := by
  simp only [List.cons_append, List.nil_append, List.mem_cons, List.not_mem_nil, or_false, forall_eq_or_imp, forall_eq, KeySet.has]
  revert p j
  decide

end Sys2Proof.Machine
end


section
/-!
A line trigger.
-/
set_option Elab.async false
set_option linter.all false

namespace Sys2Proof.Machine

open Sys2Proof State

section
variable (s : State) (p : Nat)

/-- The lines CC2 to CC4 follow their sources: of the camera only their levels change, and nothing sent is taken back. -/
theorem State.settleCc_cam : ∃ cc, (s.settleCc p).cam p = { s.cam p with cc := cc } := by
  refine List.foldlRecOn (motive := fun (t : State) => ∃ cc, t.cam p = { s.cam p with cc := cc }) _ _ ⟨_, rfl⟩ fun t ⟨cc, ht⟩ i _ => ?_
  dsimp only
  split
  · exact ⟨cc, ht⟩
  · rw [(emit_does ..).cam_eq, setCam_cam, ht]
    split
    · exact ⟨_, rfl⟩
    · exact ⟨_, rfl⟩

theorem State.settleCc_sends : s.Sends (s.settleCc p) := by
  refine List.foldlRecOn (motive := s.Sends) _ _ (List.Subset.refl _) fun t ht i _ => ?_
  dsimp only
  split
  · exact ht
  · exact List.Subset.trans ht (List.subset_cons_self ..)

end

section
variable {p : Port} {s : State}

theorem Port.lt_length (p : Port) (h : s.cams.length = 4) : p.val < s.cams.length := lt_of_lt_of_eq p.isLt h.symm

/-- CC1 fires: the camera takes its new state, 0x23p0:05 shows the index, and the pulse leaves the block (03 R71, R75). -/
theorem State.fireTrigger (s : State) (c : Camera) (tick index w : Nat) (hp : p.val < s.cams.length) :
    ∃ t, (((((s.setCam p c).putNat (camKey p 0x2300 5) index).emit (.cc1 p tick w)).pulseCc 3 tick w p).settleCc p) = t
      ∧ (∃ cc, t.cam p = { c with cc := cc }) ∧ t.nat (camKey p 0x2300 5) = index ∧ t.time = s.time ∧ .cc1 p tick w ∈ t.out := by
  refine ⟨_, rfl, ?_, ?_, ?_, ?_⟩
  · obtain ⟨cc, h⟩ := settleCc_cam ((((s.setCam p c).putNat (camKey p 0x2300 5) index).emit (.cc1 p tick w)).pulseCc 3 tick w p) p
    rw [(pulseCc_does ..).cam_eq, (emit_does ..).cam_eq, (putNat_does ..).cam_eq, setCam_cam_self _ _ _ hp] at h
    exact ⟨cc, h⟩
  · rw [(settleCc_does ..).nat_eq, (pulseCc_does ..).nat_eq, (emit_does ..).nat_eq, nat_putNat_self]
  · rw [(settleCc_does ..).time_eq, (pulseCc_does ..).time_eq, (emit_does ..).time_eq, (putNat_does ..).time_eq, (setCam_does ..).time_eq]
  · exact settleCc_sends _ _ (pulseCc_sends _ _ _ _ _ List.mem_cons_self)

theorem execLineTrigger_result (hcams : s.cams.length = 4) (hcc : (s.cam p).cc1Running = true) (hstep : (s.cam p).step ≠ .armed)
    (hrun : s.timeRuns = true) (hpend : (s.cam p).pending = []) (hcount : s.time.counter ≤ s.gridTick p (s.cam p).gridN)
    (hframe : s.fvalMode p = true ∨ (s.cam p).frames.any (fun f => !f.complete) = true) :
    ∃ t, execLineTrigger p s = .next t ∧ t.time.counter = s.gridTick p (s.cam p).gridN
      ∧ (t.cam p).pending = [⟨s.gridTick p (s.cam p).gridN, (s.cam p).nextIndex, false⟩]
      ∧ (t.cam p).nextIndex = (s.cam p).nextIndex + 1 ∧ (t.cam p).gridN = (s.cam p).gridN + 1
      ∧ t.nat (camKey p 0x2300 5) = (s.cam p).nextIndex
      ∧ .cc1 p (s.gridTick p (s.cam p).gridN) (s.cam p).cc1Width ∈ t.out := by
  unfold execLineTrigger
  extract_lets +onlyGivenNames c
  rw [if_neg (by simp [c, hcc, hrun])]
  extract_lets +onlyGivenNames s1 s2 c2 s3 tick c3 index inFrame s4 c4 h count c5 c6 s5
  have hc1 : s1.cam p = s.cam p := rfl
  have hn1 : ∀ k, s1.nat k = s.nat k := fun _ => rfl
  have ht1 : s1.time.counter = s.gridTick p (s.cam p).gridN := atTick_counter hrun hcount
  have h2 : s2 = s1 := if_neg hstep
  have h3 : s3 = s1 := by
    unfold s3 c2
    rw [h2, expire_nil _ (hc1 ▸ hpend), settleStop_idle (by simp [hc1, hcc])]
  have htick : tick = s.gridTick p (s.cam p).gridN := by
    unfold tick c2 State.gridTick
    rw [h2, h3]
    simp only [hn1, hc1]
  have hc3 : c3 = s.cam p := (congrArg (·.cam p) h3).trans hc1
  have h4 : s4 = s1 := by
    refine (if_pos ?_).trans h3
    unfold inFrame
    rw [Bool.or_eq_true, hc3]
    refine hframe.imp_left fun hf => ?_
    unfold State.fvalMode at hf ⊢
    rw [h3, hn1, hf]
  have hc4 : c4 = s.cam p := (congrArg (·.cam p) h4).trans hc1
  have hc5 : ∃ frames, c5 = { s.cam p with frames := frames } := by
    unfold c5
    rw [hc4]
    split
    · exact ⟨_, rfl⟩
    · exact ⟨_, rfl⟩
  obtain ⟨frames, hc5⟩ := hc5
  have hlen : p.val < s4.cams.length := by
    rw [h4]
    exact Port.lt_length p hcams
  obtain ⟨t, ht, ⟨cc, hcam⟩, hindex, htime, hout⟩ := fireTrigger s4 c6 tick index c6.cc1Width hlen
  have hw : c6.cc1Width = (s.cam p).cc1Width := (congrArg Camera.cc1Width hc5 : c5.cc1Width = _)
  refine ⟨t, congrArg _ ht, ?_, ?_, ?_, ?_, ?_, ?_⟩
  · rw [htime, h4, ht1]
  · rw [hcam, ← htick]
    have hp5 : c5.pending = [] := (congrArg Camera.pending hc5).trans hpend
    exact (congrArg (· ++ [⟨tick, index, false⟩]) hp5).trans (by rw [List.nil_append, show index = _ from congrArg Camera.nextIndex hc3])
  · rw [hcam]
    exact congrArg (·.nextIndex + 1) hc3
  · rw [hcam]
    exact congrArg (·.gridN + 1) hc5
  · rw [hindex]
    exact congrArg Camera.nextIndex hc3
  · rw [← htick, ← hw]
    exact hout
end

end Sys2Proof.Machine
end


section
/-!
Lines and frames of a camera port.
-/
set_option Elab.async false
set_option linter.all false

namespace Sys2Proof.Machine

open Sys2Proof State

section
variable (s : State) (p : Nat)

theorem State.losePort_keeps_counts : s.Keeps (lossKeys p) (s.losePort p) := by
  unfold State.losePort
  extract_lets +onlyGivenNames c
  refine .ite .same ?_
  extract_lets +onlyGivenNames g s1 s2
  refine .keep s1 (.past (setCam_does ..) .same) fun h1 => ?_
  refine .keep s2 (.via (raise_keeps ..) (.via (bump_keeps ..) h1 (by simp)) (by simp)) fun h2 => ?_
  exact .ite (.via (predictFace_keeps ..) (.via (settleFix_keeps ..) h2 (by simp)) (by simp))
    (.via (settleGrade_keeps ..) h2 (by simp))

/-- A missed line counts where it is to be counted, and then writes what the loss of a port may write. -/
theorem State.missLine_counts (t : PendingTrigger) (counted : Bool) :
    (if counted then s.bump (camKey p 0x2307 1) else s).Keeps (lossKeys p) (s.missLine p t counted) := by
  unfold State.missLine
  extract_lets +onlyGivenNames s1 c s2 s3
  refine .keep s2 (.past (setCam_does ..) .same) fun h2 => ?_
  refine .keep s3 (.via (settleLine_keeps ..) h2 (by simp)) fun h3 => ?_
  exact .ite (.via (losePort_keeps_counts ..) h3 (by simp)) h3

end

section
variable {p : Port} {s : State}

theorem State.settleStop_counter {j : Nat} (hj : j ∈ [1, 2, 3, 4]) :
    (s.settleStop p).nat (camKey p 0x2307 j) = s.nat (camKey p 0x2307 j) :=
  (Keeps.of (settleStop_keeps s p) (by simp) : s.Keeps (lossKeys p) _).nat_eq (lossKeys_line p hj)

theorem State.settleLine_counter {j : Nat} (hj : j ∈ [1, 2, 3, 4]) (l : Line) :
    (s.settleLine p l).nat (camKey p 0x2307 j) = s.nat (camKey p 0x2307 j) :=
  (Keeps.of (settleLine_keeps s p l) (by simp) : s.Keeps (lossKeys p) _).nat_eq (lossKeys_line p hj)

theorem State.settleEngine_counter {j : Nat} (hj : j ∈ [1, 2, 3, 4]) :
    (s.settleEngine p).nat (camKey p 0x2307 j) = s.nat (camKey p 0x2307 j) :=
  (Keeps.of (settleEngine_keeps s p) (by simp) : s.Keeps (lossKeys p) _).nat_eq (lossKeys_line p hj)

theorem execPairingTimeout_result {u : PendingTrigger} (hcams : s.cams.length = 4) (hpend : (s.cam p).pending = [u]) (hrun : s.timeRuns = true)
    (hcount : s.time.counter ≤ u.tick + s.wmax p) :
    ∃ t, execPairingTimeout p s = .next t ∧ t.time.counter = u.tick + s.wmax p + 1 ∧ (t.cam p).pending = []
      ∧ t.nat (camKey p 0x2307 1) = s.counted (camKey p 0x2307 1) := by
  unfold execPairingTimeout
  dsimp only
  rw [hpend]
  dsimp only
  rw [if_neg (by simp [hrun])]
  have ht1 : (s.atTick (u.tick + s.wmax p + 1)).time.counter = u.tick + s.wmax p + 1 := atTick_counter hrun (Nat.le_succ_of_le hcount)
  have hc1 : (s.atTick (u.tick + s.wmax p + 1)).cam p = s.cam p := rfl
  have hl1 : (s.atTick (u.tick + s.wmax p + 1)).cams.length = 4 := hcams
  have hn1 : ∀ k, (s.atTick (u.tick + s.wmax p + 1)).nat k = s.nat k := fun _ => rfl
  generalize s.atTick (u.tick + s.wmax p + 1) = s1 at ht1 hc1 hl1 hn1 ⊢
  generalize h2 : (s1.setCam p { s1.cam p with pending := [] }).missInFrame p = s2
  have hp2 : (s2.cam p).pending = [] := by
    rw [← h2]
    refine (congrArg Prod.fst (missInFrame_onlyFrames ..).reception).trans ?_
    rw [setCam_cam_self _ _ _ (Port.lt_length p hl1)]
    rfl
  have hn2 : ∀ k, s2.nat k = s.nat k := fun k => by rw [← h2, (missInFrame_does ..).nat_eq, (setCam_does ..).nat_eq, hn1]
  generalize h3 : s2.missLine p u true = s3
  have hp3 : (s3.cam p).pending = [] := by rw [← h3, missLine_pending, hp2]
  have hn3 : s3.nat (camKey p 0x2307 1) = s.counted (camKey p 0x2307 1) := by
    rw [← h3, (missLine_counts ..).nat_eq (lossKeys_line p (by decide)), if_pos rfl, nat_bump_self, State.counted, hn2]
  have hexpire : State.expire 2 s1 p = s3.settleStop p := by
    rw [expire_old 1 (hc1 ▸ hpend) (by unfold State.tick State.wmax; rw [ht1, hn1]; exact Nat.not_succ_le_self _), h2, h3, expire_nil _ hp3]
  refine ⟨_, rfl, ?_, ?_, ?_⟩
  · rw [(settleStop_does ..).time_eq, (expire_does ..).time_eq, ht1]
  · rw [show [u].length + 1 = 2 from rfl, hexpire]
    exact (congrArg Prod.fst ((settleStop_reception ..).trans (settleStop_reception ..))).trans hp3
  · rw [show [u].length + 1 = 2 from rfl, hexpire, settleStop_counter (by decide), settleStop_counter (by decide), hn3]

theorem execLineStart_paired {tick : Nat} {fval : Bool} {u : PendingTrigger} {r : List PendingTrigger} (hcams : s.cams.length = 4)
    (hst : (s.cam p).state = .streaming) (hline : (s.cam p).line = none) (hrun : s.timeRuns = true) (hpend : (s.cam p).pending = u :: r)
    (hu : u.lost = false) (hcount : s.time.counter ≤ tick) (hmin : u.tick + s.wmin p ≤ tick) (hmax : tick ≤ u.tick + s.wmax p) :
    ∃ t, execLineStart p tick fval s = .next t ∧ t.time.counter = tick ∧ (t.cam p).pending = r
      ∧ (t.cam p).line.map (fun l => l.trigger) = some u ∧ (t.cam p).fval = fval := by
  unfold execLineStart
  rw [if_neg (by simp [hst, hline, hrun])]
  dsimp only
  have ht1 : (s.atTick tick).time.counter = tick := atTick_counter hrun hcount
  have hc1 : (s.atTick tick).cam p = s.cam p := rfl
  have hl1 : (s.atTick tick).cams.length = 4 := hcams
  have hn1 : ∀ k, (s.atTick tick).nat k = s.nat k := fun _ => rfl
  generalize s.atTick tick = s1 at ht1 hc1 hl1 hn1 ⊢
  have hp1 : (s1.cam p).pending = u :: r := hc1 ▸ hpend
  rw [expire_young _ hp1 (by unfold State.tick State.wmax; rw [ht1, hn1]; exact hmax), if_neg (by simp [hc1, hst]), hp1,
    List.find?_cons_of_pos (by simp [hu])]
  dsimp only
  rw [if_neg (by unfold State.tick State.wmin; rw [ht1, hn1]; exact Nat.not_lt.2 hmin)]
  refine ⟨_, rfl, ?_⟩
  generalize h2 : s1.setCam p _ = s2
  have hc2 := congrArg (·.cam p) h2
  rw [setCam_cam_self _ _ _ (Port.lt_length p hl1)] at hc2
  have hrec := (settleStop_reception (s2.pairInFval p u fval) p).trans (pairInFval_reception s2 p u fval)
  rw [← hc2] at hrec
  simp only [Camera.reception, Prod.mk.injEq] at hrec
  obtain ⟨hpending, hline2, hfval, -⟩ := hrec
  refine ⟨?_, ?_, ?_, hfval⟩
  · rw [(settleStop_does ..).time_eq, (pairInFval_does ..).time_eq, ← h2, (setCam_does ..).time_eq, ht1]
  · rw [hpending]
    simp [dropFirst]
  · rw [hline2]
    rfl

theorem execLineStart_unsolicited {tick : Nat} {fval : Bool} (hst : (s.cam p).state = .streaming) (hstop : (s.cam p).stopping = false)
    (hline : (s.cam p).line = none) (hrun : s.timeRuns = true) (hpend : (s.cam p).pending = []) (hcount : s.time.counter ≤ tick) :
    ∃ t, execLineStart p tick fval s = .next t ∧ t.time.counter = tick ∧ t.nat (camKey p 0x2307 2) = s.counted (camKey p 0x2307 2)
      ∧ t.cams = s.cams := by
  unfold execLineStart
  rw [if_neg (by simp [hst, hline, hrun])]
  dsimp only
  have ht1 : (s.atTick tick).time.counter = tick := atTick_counter hrun hcount
  have hc1 : (s.atTick tick).cam p = s.cam p := rfl
  have hl1 : (s.atTick tick).cams = s.cams := rfl
  have hn1 : ∀ k, (s.atTick tick).nat k = s.nat k := fun _ => rfl
  generalize s.atTick tick = s1 at ht1 hc1 hl1 hn1 ⊢
  rw [expire_nil _ (hc1 ▸ hpend), settleStop_idle (by simp [hc1, hstop]), if_neg (by simp [hc1, hst]), hc1, hpend]
  exact ⟨_, rfl, ht1, (nat_bump_self ..).trans (by rw [State.counted, hn1]), hl1⟩

/-! ### A line ends -/

theorem State.receiveLine_result (l : LineInWork) (cs : List PixelClock) (hcams : s.cams.length = 4) :
    ((s.receiveLine p l cs).cam p).line = none ∧ ((s.receiveLine p l cs).cam p).consecutiveMissing = 0
      ∧ ((s.receiveLine p l cs).cam p).pending = (s.cam p).pending
      ∧ (s.receiveLine p l cs).nat (camKey p 0x2307 3)
        = if ((s.placePixels p cs).2).isEmpty then s.nat (camKey p 0x2307 3) else s.counted (camKey p 0x2307 3) := by
  unfold State.receiveLine
  extract_lets +onlyGivenNames px short src s1 s2 src2 s3
  have hc1 : s1.cam p = { s.cam p with line := none, consecutiveMissing := 0 } := setCam_cam_self _ _ _ (Port.lt_length p hcams)
  have hc3 : s3.cam p = s1.cam p := (Does.ite (.of (bump_does ..)) .same : s1.Does [.od] s2).cam_eq p
  have hn3 : s3.nat (camKey p 0x2307 3) = if px.2.isEmpty then s.nat (camKey p 0x2307 3) else s.counted (camKey p 0x2307 3) := by
    cases he : px.2.isEmpty with
    | true => exact congrArg (·.nat (camKey p 0x2307 3)) (if_neg (by simp [short, he]) : s2 = s1)
    | false =>
      have h2 : s2 = s1.bump (camKey p 0x2307 3) := if_pos (by simp [short, he])
      exact (congrArg (·.nat (camKey p 0x2307 3)) h2).trans (nat_bump_self ..)
  clear_value s3
  generalize hl : s3.settleLine p _ = s4
  have hcam : (((s4.settleStop p).settleEngine p).cam p).reception = ((s.cam p).pending, none, (s.cam p).fval, 0) := by
    rw [(settleEngine_does ..).cam_eq, settleStop_reception, ← hl, (settleLine_onlyFrames ..).reception, hc3, hc1]
    rfl
  simp only [Camera.reception, Prod.mk.injEq] at hcam
  obtain ⟨hpending, hline, -, hmissing⟩ := hcam
  refine ⟨hline, hmissing, hpending, ?_⟩
  rw [settleEngine_counter (by decide), settleStop_counter (by decide), ← hl, settleLine_counter (by decide), hn3]

theorem execLineComplete_result {clocks : List PixelClock} {l : LineInWork} (hcams : s.cams.length = 4) (hline : (s.cam p).line = some l) :
    ∃ t, execLineComplete p clocks s = .next t ∧ (t.cam p).line = none ∧ (t.cam p).consecutiveMissing = 0
      ∧ (t.cam p).pending = (s.cam p).pending
      ∧ t.nat (camKey p 0x2307 3)
        = if ((s.placePixels p (s.validClocks p clocks)).2).isEmpty then s.nat (camKey p 0x2307 3) else s.counted (camKey p 0x2307 3) := by
  unfold execLineComplete
  rw [hline]
  exact ⟨_, rfl, receiveLine_result _ _ hcams⟩

theorem execShortLine_result {clocks : List PixelClock} {l : LineInWork} (hcams : s.cams.length = 4) (hline : (s.cam p).line = some l)
    (hshort : ((s.placePixels p ((s.validClocks p clocks).take (ceilDiv (s.widthOf p) (max 1 (s.ppc p)) - 1))).2).isEmpty = false) :
    ∃ t, execShortLine p clocks s = .next t ∧ (t.cam p).line = none ∧ (t.cam p).consecutiveMissing = 0
      ∧ t.nat (camKey p 0x2307 3) = s.counted (camKey p 0x2307 3) := by
  unfold execShortLine
  rw [hline]
  obtain ⟨hnone, hmissing, -, hcount⟩ := receiveLine_result l ((s.validClocks p clocks).take (ceilDiv (s.widthOf p) (max 1 (s.ppc p)) - 1)) hcams
  exact ⟨_, rfl, hnone, hmissing, hcount.trans (if_neg (by simp [hshort]))⟩

/-- A missed line that is not yet the 64th in a row is one more of them, and the port is not lost. -/
theorem State.missLine_reception {q : Nat} {t : PendingTrigger} {counted : Bool} (hmiss : (s.cam q).consecutiveMissing < 63)
    (hq : q < s.cams.length) (ht : t.lost = false) :
    ((s.missLine q t counted).cam q).reception
      = ((s.cam q).pending, (s.cam q).line, (s.cam q).fval, (s.cam q).consecutiveMissing + 1) := by
  unfold State.missLine
  extract_lets +onlyGivenNames s1 c s2 s3
  have h1 : s.Does [.od] s1 := .ite (.of (bump_does ..)) .same
  have hc : c = s.cam q := h1.cam_eq q
  have h2 : (s2.cam q).reception = ((s.cam q).pending, (s.cam q).line, (s.cam q).fval, (s.cam q).consecutiveMissing + 1) := by
    unfold s2
    rw [setCam_cam_self _ _ _ (lt_of_lt_of_eq hq (congrArg List.length h1.cams_eq).symm), hc, ht]
    rfl
  have h3 : (s3.cam q).reception = _ := (settleLine_onlyFrames ..).reception.trans h2
  have hfew : ¬64 ≤ (s3.cam q).consecutiveMissing := by
    rw [show (s3.cam q).consecutiveMissing = _ from congrArg (·.2.2.2) h3]
    dsimp only
    omega
  rw [if_neg hfew, h3]

theorem execFifoOverrun_result {l : LineInWork} (hcams : s.cams.length = 4) (hline : (s.cam p).line = some l) (hlost : l.trigger.lost = false)
    (hmiss : (s.cam p).consecutiveMissing < 63) :
    ∃ t, execFifoOverrun p s = .next t ∧ (t.cam p).line = none ∧ (t.cam p).consecutiveMissing = (s.cam p).consecutiveMissing + 1
      ∧ t.nat (camKey p 0x2307 4) = s.counted (camKey p 0x2307 4) := by
  unfold execFifoOverrun
  rw [hline]
  extract_lets +onlyGivenNames src s1
  have hp : p.val < s.cams.length := Port.lt_length p hcams
  have hc1 : s1.cam p = { s.cam p with line := none } := ((bump_does ..).cam_eq p).trans (setCam_cam_self _ _ _ hp)
  have hl1 : s1.cams.length = 4 := (List.length_set ..).trans hcams
  have hn1 : s1.nat (camKey p 0x2307 4) = s.counted (camKey p 0x2307 4) := nat_bump_self ..
  clear_value s1
  have hcam : ((s1.missLine p l.trigger false).cam p).reception
      = ((s.cam p).pending, none, (s.cam p).fval, (s.cam p).consecutiveMissing + 1) := by
    rw [missLine_reception (hc1 ▸ hmiss) (lt_of_lt_of_eq p.isLt hl1.symm) hlost, hc1]
  have hrec := (settleStop_reception (s1.missLine p l.trigger false) p).trans hcam
  simp only [Camera.reception, Prod.mk.injEq] at hrec
  obtain ⟨-, hnone, -, hmissing⟩ := hrec
  refine ⟨_, rfl, hnone, hmissing, ?_⟩
  rw [settleStop_counter (by decide), (missLine_counts ..).nat_eq (lossKeys_line p (by decide)), if_neg (by decide), hn1]

theorem execFvalFall_result (hcams : s.cams.length = 4) (hmode : s.fvalMode p = true) :
    ∃ t, execFvalFall p s = .next t ∧ (t.cam p).fval = false ∧ (t.cam p).frames.all (fun f => f.complete) = true := by
  unfold execFvalFall
  rw [if_neg (by simp [hmode])]
  extract_lets +onlyGivenNames c close s1
  have hc1 : s1.cam p = { s.cam p with fval := false, frames := (s.cam p).frames.map close } := setCam_cam_self _ _ _ (Port.lt_length p hcams)
  obtain ⟨frames, hsub, hcam⟩ := closeReady_cam s1 p (c.frames.length + 1)
  refine ⟨_, rfl, by rw [hcam, hc1], ?_⟩
  rw [hcam, List.all_eq_true]
  intro f hf
  have hmem := hsub hf
  rw [hc1] at hmem
  obtain ⟨g, -, rfl⟩ := List.mem_map.1 hmem
  unfold close
  split
  next h => exact h
  · rfl

end

/-- Settles O4: each event of a port from the lemma on its `exec` function. -/
theorem cameraLineResults : Obligations.CameraLineResults := by
  unfold Obligations.CameraLineResults
  exact ⟨fun _ _ hcams hcc hstep hrun hpend hcount hframe => execLineTrigger_result hcams hcc hstep hrun hpend hcount hframe,
    fun _ _ _ hcams hpend hrun hcount => execPairingTimeout_result hcams hpend hrun hcount,
    fun _ _ _ _ _ _ hcams hst hline hrun hpend hu hcount hmin hmax => execLineStart_paired hcams hst hline hrun hpend hu hcount hmin hmax,
    fun _ _ _ _ hst hstop hline hrun hpend hcount => execLineStart_unsolicited hst hstop hline hrun hpend hcount,
    fun _ _ _ _ hcams hline => execLineComplete_result hcams hline,
    fun _ _ _ _ hcams hline hshort => execShortLine_result hcams hline hshort,
    fun _ _ _ hcams hline hlost hmiss => execFifoOverrun_result hcams hline hlost hmiss,
    fun _ _ hcams hmode => execFvalFall_result hcams hmode⟩

end Sys2Proof.Machine
end


section
/-!
What the operations of the drive leave of a valve, and slots granted (06 R186).
-/
set_option Elab.async false
set_option linter.all false

namespace Sys2Proof.Machine

open Sys2Proof State

/-! ### Objects of valves and groups -/

theorem valveKey_div (i v : Nat) : valveKey i v / 256 = i + v / 128 := by
  unfold valveKey obj
  omega

theorem groups_has_div {i k : Nat} (h : (KeySet.groups i).has k) : k / 256 = i := by
  obtain ⟨g, hg, rfl⟩ := h
  unfold groupKey obj
  omega

theorem frames_has_lt {k : Nat} (h : KeySet.frames.has k) : k / 256 < 0x2300 :=
  (by decide : ∀ j ∈ frameKeys, j / 256 < 0x2300) k h

theorem events_has_div {k : Nat} (h : KeySet.events.has k) : k / 256 = 0x2206 ∨ k / 256 = 0x2D02 :=
  (by decide : ∀ j ∈ eventKeys, j / 256 = 0x2206 ∨ j / 256 = 0x2D02) k h

/-! ### What the operations of the drive leave of a valve -/

section
variable {s t u : State} {v : Nat} {ps : List Part}

theorem State.Does.drive_eq (h : s.Does ps t) (k : Part.drive ∉ ps := by decide) : t.drive = s.drive := h.only .drive k

theorem State.Does.seqs_eq (h : s.Does ps t) (k : Part.seqs ∉ ps := by decide) : t.seqs = s.seqs := h.only .seqs k

theorem State.Does.variant_eq (h : s.Does ps t) (k : Part.variant ∉ ps := by decide) : t.variant = s.variant := h.only .variant k

theorem State.Does.valve_eq (h : s.Does ps t) (v : Nat) (k : Part.drive ∉ ps := by decide) : t.valve v = s.valve v :=
  congrArg (·.valves.getD v {}) (h.drive_eq k)

theorem State.Does.seq_eq (h : s.Does ps t) (v : Nat) (k : Part.seqs ∉ ps := by decide) : t.seq v = s.seq v :=
  congrArg (·.seqs.getD v {}) (h.seqs_eq k)

/-- Every valve stands, and every store of a group; the sequencers are as many. -/
structure State.DriveKept (s t : State) : Prop where
  valves : t.drive.valves = s.drive.valves
  stores : t.seqs.stores = s.seqs.stores
  length : t.seqs.seqs.length = s.seqs.seqs.length

theorem State.DriveKept.refl (s : State) : s.DriveKept s := ⟨rfl, rfl, rfl⟩

theorem State.DriveKept.trans (h : s.DriveKept t) (k : t.DriveKept u) : s.DriveKept u :=
  ⟨k.valves.trans h.valves, k.stores.trans h.stores, k.length.trans h.length⟩

theorem State.Does.driveKept (h : s.Does ps t) (hd : Part.drive ∉ ps := by decide) (hq : Part.seqs ∉ ps := by decide) : s.DriveKept t :=
  ⟨congrArg Drive.valves (h.drive_eq hd), congrArg Sequencers.stores (h.seqs_eq hq), congrArg (·.seqs.length) (h.seqs_eq hq)⟩

theorem State.DriveKept.valve_eq (h : s.DriveKept t) (v : Nat) : t.valve v = s.valve v := congrArg (·.getD v {}) h.valves

theorem State.DriveKept.store_eq (h : s.DriveKept t) (g : Nat) : t.store g = s.store g := congrArg (·.getD g {}) h.stores

theorem State.setSeq_driveKept (s : State) (v : Nat) (q : Seq) : s.DriveKept (s.setSeq v q) := ⟨rfl, rfl, List.length_set ..⟩

theorem State.setGroup_driveKept (s : State) (g : Nat) (x : GroupSt) : s.DriveKept (s.setGroup g x) := ⟨rfl, rfl, rfl⟩

end

/-! ### Slots that are given up and granted (06 R186) -/

section
variable (s : State)

/-- What a grant writes and counts beyond the group and the sequencer it is for. -/
theorem State.grantOne_seqs (g w target : Nat) : ∃ gs q, gs.waiting ⊆ (s.group g).waiting
    ∧ ((s.setGroup g gs).setSeq w q).Does [.od] (s.grantOne g w target) := by
  unfold State.grantOne
  extract_lets +onlyGivenNames q x t gs s1
  split
  extract_lets +onlyGivenNames s2
  refine ⟨_, _, ?_, (?_ : s2.Does [.od] _)⟩
  case refine_2 =>
    split
    · extract_lets +onlyGivenNames d s3
      exact .via (putNat_does ..) (.ite (.of (bump_does ..)) (.ite (.via (bump_does ..) (.of (bump_does ..))) .same))
    · exact .same
  · exact List.filter_subset' _

theorem State.setGroup_group (g : Nat) (x : GroupSt) : (s.setGroup g x).group g = if g < s.drive.groups.length then x else s.group g := by
  split
  next h => exact setGroup_group_self _ _ _ h
  next h => exact congrArg (·.getD g {}) (List.set_eq_of_length_le (Nat.le_of_not_lt h))

theorem State.grant_driveKept (n g : Nat) : s.DriveKept (State.grant n s g) := by
  induction n generalizing s with
  | zero => exact .refl s
  | succ n ih =>
    unfold State.grant
    split
    · exact .refl s
    next w target _ _ =>
      split
      · obtain ⟨gs, q, -, h⟩ := grantOne_seqs s g w target
        exact ((setGroup_driveKept ..).trans (setSeq_driveKept ..)).trans (h.driveKept.trans (ih _))
      · exact .refl s

/-- A valve that waits for no slot of its group is granted none. -/
theorem State.grant_seq {v : Nat} (n g : Nat) (h : ∀ x ∈ (s.group g).waiting, x.2.1 ≠ v) : (State.grant n s g).seq v = s.seq v := by
  induction n generalizing s with
  | zero => rfl
  | succ n ih =>
    unfold State.grant
    split
    · rfl
    next w target l hw =>
      split
      · obtain ⟨gs, q, hsub, hdoes⟩ := grantOne_seqs s g w target
        have hwv : w ≠ v := h _ (hw ▸ List.mem_cons_self)
        have hgroup : ((s.grantOne g w target).group g).waiting ⊆ (s.group g).waiting := by
          have hg : (s.grantOne g w target).group g = (s.setGroup g gs).group g := congrArg (·.groups.getD g {}) hdoes.drive_eq
          rw [hg, setGroup_group]
          split
          · exact hsub
          · exact List.Subset.refl _
        rw [ih _ fun x hx => h x (hgroup hx), hdoes.seq_eq]
        exact setSeq_seq_other _ _ _ hwv.symm
      · rfl

theorem State.releaseSlot_driveKept (v : Nat) : s.DriveKept (s.releaseSlot v) := (setGroup_driveKept ..).trans (grant_driveKept ..)

theorem State.releaseSlot_seq (v : Nat) : (s.releaseSlot v).seq v = s.seq v := by
  refine grant_seq _ _ _ fun x hx => ?_
  rw [setGroup_group] at hx
  split at hx
  · simpa using List.of_mem_filter hx
  next h =>
    rw [State.group, List.getD_eq_default _ _ (Nat.le_of_not_lt h)] at hx
    exact absurd hx List.not_mem_nil

theorem State.chargeBoost_driveKept (v : Nat) : s.DriveKept (s.chargeBoost v) := by
  unfold State.chargeBoost
  split
  · exact ⟨rfl, rfl, rfl⟩
  · exact .refl s

theorem State.truncateWindow_driveKept (v : Nat) : s.DriveKept (s.truncateWindow v) := by
  unfold State.truncateWindow
  split
  · exact (setSeq_driveKept ..).trans (bump_does ..).driveKept
  · exact .refl s

end

end Sys2Proof.Machine
end


section
/-!
A shot starts at its gate edge.
-/
set_option Elab.async false
set_option linter.all false

namespace Sys2Proof.Machine

open Sys2Proof State

/-! ### A shot starts (02 R55) -/

section
variable {s : State} {v : Valve} {x : Shot}

theorem State.Does.cuts_eq {ps : List Part} {t : State} (h : s.Does ps t) (hv : t.valve v = s.valve v) (hl : Part.ledger ∉ ps := by decide)
    (ht : Part.thermal ∉ ps := by decide) : t.cuts v x = s.cuts v x := by
  have hledger : t.ledger = s.ledger := h.only .ledger hl
  have hthermal : t.thermal = s.thermal := h.only .thermal ht
  unfold State.cuts State.ledgerValve
  rw [hv, hledger, hthermal]

/-- The objects that count a start are none of those written before it. -/
theorem startKeys_shot {k : Nat} (hk : k = obj 0x2700 7 ∨ k = valveKey 0x2724 v ∨ k = obj 0x2106 1 ∨ k = valveKey 0x2810 v) :
    ∀ y ∈ KeySet.one (obj 0x2800 4) :: .one (obj 0x2700 0x1B) :: releaseKeys, ¬y.has k := by
  have hdiv : k / 256 = 0x2700 ∧ k % 256 = 7 ∨ k / 256 = 0x2724 + v / 128 ∨ k / 256 = 0x2106 ∨ k / 256 = 0x2810 + v / 128 := by
    obtain rfl | rfl | rfl | rfl := hk
    · exact .inl (by decide)
    · exact .inr (.inl (valveKey_div ..))
    · exact .inr (.inr (.inl (by decide)))
    · exact .inr (.inr (.inr (valveKey_div ..)))
  have hv := v.isLt
  simp only [List.mem_cons, List.not_mem_nil, or_false, forall_eq_or_imp, forall_eq]
  refine ⟨?_, ?_, fun h => ?_, ?_, fun h => ?_⟩
  · rintro rfl
    simp only [obj] at hdiv
    omega
  · rintro rfl
    simp only [obj] at hdiv
    omega
  · have := groups_has_div h
    omega
  · rintro rfl
    simp only [obj] at hdiv
    omega
  · have := groups_has_div h
    omega

theorem State.startShot_result {r : List Shot} (hdrive : s.drive.shaped) (hseqs : s.seqs.shaped) (hqueue : (s.valve v).queue = x :: r) :
    ∃ t, s.startShot v x = t ∧ (t.valve v).queue = r ∧ (t.valve v).run = some { x with start := x.edge, holdCut := s.cuts v x }
      ∧ t.seq v = freshSeq x.edge ((s.store (s.groupOf v)).active.entry (s.profileOf v)).1
      ∧ t.nat (obj 0x2700 7) = s.counted (obj 0x2700 7) ∧ t.nat (valveKey 0x2724 v) = s.counted (valveKey 0x2724 v)
      ∧ t.out = .gate v x.edge (s.nat (obj 0x2106 1)) :: s.out := by
  unfold State.startShot
  extract_lets +onlyGivenNames s1 s2 cut s3 vs s4 pc s5 s6 src s7
  have hdoes : s.Does [.freeCtr, .od, .drive, .seqs] s2 := .via (releaseSlot_does ..) (.via (chargeBoost_does ..) (.of (truncateWindow_does ..)))
  have hkept : s.DriveKept s2 := (truncateWindow_driveKept ..).trans ((chargeBoost_driveKept ..).trans (releaseSlot_driveKept ..))
  have hcut : cut = s.cuts v x := hdoes.cuts_eq (hkept.valve_eq v)
  have hdoes3 : s.Does [.freeCtr, .od, .drive, .seqs] s3 := .ite (.via (bump_does ..) hdoes) hdoes
  have hkept3 : s.DriveKept s3 := hkept.trans (Does.ite (.of (bump_does ..)) .same : s2.Does [.od] s3).driveKept
  have hkeeps : s.Keeps (.one (obj 0x2800 4) :: .one (obj 0x2700 0x1B) :: releaseKeys) s3 := by
    have h2 : s.Keeps (.one (obj 0x2800 4) :: .one (obj 0x2700 0x1B) :: releaseKeys) s2 :=
      .via (releaseSlot_keeps ..) (.past (chargeBoost_does ..) (.of (truncateWindow_keeps ..) (by simp))) (by simp)
    exact .ite (.via (bump_keeps ..) h2 (by simp)) h2
  have hvs : vs = s.valve v := hkept3.valve_eq v
  have hn : ∀ k, (k = obj 0x2700 7 ∨ k = valveKey 0x2724 v ∨ k = obj 0x2106 1 ∨ k = valveKey 0x2810 v) → s3.nat k = s.nat k :=
    fun k hk => hkeeps.nat_eq (startKeys_shot hk)
  have hpc : pc = ((s.store (s.groupOf v)).active.entry (s.profileOf v)).1 := by
    have hstore : ∀ g, s4.store g = s.store g := hkept3.store_eq
    have hgroup : s4.groupOf v = s.groupOf v := by
      unfold State.groupOf State.stride
      rw [show s4.variant = s.variant from hdoes3.variant_eq]
    have hprofile : s4.profileOf v = s.profileOf v := hn _ (.inr (.inr (.inr rfl)))
    unfold pc
    rw [hstore, hgroup, hprofile]
  have hv4 : s4.valve v = { s.valve v with run := some { x with start := x.edge, holdCut := s.cuts v x }, queue := r } := by
    have hlen : v.val < s3.drive.valves.length := by
      rw [hkept3.valves]
      exact lt_of_lt_of_eq v.isLt hdrive.1.symm
    refine (setValve_valve_self _ _ _ hlen).trans ?_
    rw [hvs, hcut, hqueue]
    rfl
  have hq5 : s5.seq v = freshSeq x.edge pc := by
    refine setSeq_seq_self _ _ _ ?_
    exact lt_of_lt_of_eq v.isLt (hkept3.length.trans hseqs.1).symm
  have hd6 : s5.Does [.od, .ledger] s6 := .via (ledgerShot_does ..) (.via (bump_does ..) (.of (bump_does ..)))
  have hn5 : ∀ k, s5.nat k = s3.nat k := fun _ => rfl
  have hv := v.isLt
  have hne : obj 0x2700 7 ≠ valveKey 0x2724 v := by
    unfold valveKey obj
    omega
  have hn6 : ∀ k, s6.nat k = ((s5.bump (obj 0x2700 7)).bump (valveKey 0x2724 v)).nat k :=
    fun k => (ledgerShot_does ((s5.bump (obj 0x2700 7)).bump (valveKey 0x2724 v)) v).nat_eq k
  have hn7 : ∀ k, s7.nat k = s6.nat k := fun _ => rfl
  refine ⟨_, rfl, ?_, ?_, ?_, ?_, ?_, ?_⟩
  · exact congrArg ValveSt.queue ((hd6.valve_eq v).trans hv4)
  · exact congrArg ValveSt.run ((hd6.valve_eq v).trans hv4)
  · exact (hd6.seq_eq v).trans (hpc ▸ hq5)
  · refine (hn6 _).trans ?_
    rw [nat_bump_other _ hne, nat_bump_self, State.counted, hn5, hn _ (.inl rfl)]
  · refine (hn6 _).trans ?_
    rw [nat_bump_self, State.counted, nat_bump_other _ hne.symm, hn5, hn _ (.inr (.inl rfl))]
  · have hout : s7.out = s.out := hd6.out_eq.trans hdoes3.out_eq
    have hwidth : s7.nat (obj 0x2106 1) = s.nat (obj 0x2106 1) := by
      rw [hn7, hn6, nat_bump_other _ (by unfold valveKey obj; omega), nat_bump_other _ (by decide), hn5, hn _ (.inr (.inr (.inl rfl)))]
    rw [← hout, ← hwidth]
    rfl

theorem execGateEdge_result {r : List Shot} (hdrive : s.drive.shaped) (hseqs : s.seqs.shaped) (hqueue : (s.valve v).queue = x :: r)
    (hholding : (s.store (s.groupOf v)).holding = false) (hen : s.drive.enIn = true) (hlimit : x.beyondLimit = false)
    (hrun : s.timeRuns = true) (hcount : s.time.counter ≤ x.edge) :
    ∃ t, execGateEdge v s = .next t ∧ t.time.counter = x.edge ∧ (t.valve v).queue = r
      ∧ (t.valve v).run = some { x with start := x.edge, holdCut := s.cuts v x }
      ∧ t.seq v = freshSeq x.edge ((s.store (s.groupOf v)).active.entry (s.profileOf v)).1
      ∧ t.nat (obj 0x2700 7) = s.counted (obj 0x2700 7) ∧ t.nat (valveKey 0x2724 v) = s.counted (valveKey 0x2724 v)
      ∧ t.out = .gate v x.edge (s.nat (obj 0x2106 1)) :: s.out := by
  unfold execGateEdge
  rw [hqueue]
  dsimp only
  have hholding1 : ((s.atTick x.edge).store ((s.atTick x.edge).groupOf v)).holding = false := hholding
  have hen1 : (s.atTick x.edge).drive.enIn = true := hen
  rw [if_neg (by rw [hholding1]; exact nofun), if_neg (by rw [hen1]; exact nofun), if_neg (by rw [hlimit]; exact nofun)]
  obtain ⟨t, ht, hresult⟩ := @startShot_result (s.atTick x.edge) v x r hdrive hseqs hqueue
  have htime : t.time.counter = x.edge := by
    rw [← ht, (startShot_does ..).time_eq]
    exact atTick_counter hrun hcount
  exact ⟨t, congrArg _ ht, htime, hresult⟩

end

end Sys2Proof.Machine
end


section
/-!
A shot is cancelled at its deferral limit.
-/
set_option Elab.async false
set_option linter.all false

namespace Sys2Proof.Machine

open Sys2Proof State

/-! ### A shot that is cancelled in its boost wait (06 R187) -/

section
variable {s : State} {v : Nat}

theorem State.stopDrive_driveLength (s : State) (v : Nat) :
    (s.stopDrive v).drive.valves.length = s.drive.valves.length ∧ (s.stopDrive v).seqs.seqs.length = s.seqs.seqs.length := by
  unfold State.stopDrive
  extract_lets +onlyGivenNames s1 x s2
  have h1 : s.DriveKept s1 := chargeBoost_driveKept ..
  have h2 : s2.drive.valves.length = s1.drive.valves.length := List.length_set ..
  have hr : ∀ q, s2.DriveKept ((s2.setSeq v q).releaseSlot v) := fun q => (setSeq_driveKept s2 v q).trans (releaseSlot_driveKept ..)
  exact ⟨(congrArg List.length (hr _).valves).trans (h2.trans (congrArg List.length h1.valves)), (hr _).length.trans h1.length⟩

theorem State.stopDrive_seq (h : v < s.seqs.seqs.length) : ((s.stopDrive v).seq v).running = false ∧ ((s.stopDrive v).seq v).mode = .off := by
  unfold State.stopDrive
  extract_lets +onlyGivenNames s1 x s2
  have hlen : v < s2.seqs.seqs.length := lt_of_lt_of_eq h (chargeBoost_driveKept s v).length.symm
  rw [releaseSlot_seq, setSeq_seq_self _ _ _ hlen]
  exact ⟨rfl, rfl⟩

theorem State.abortShot_saturated (hv : v < s.drive.valves.length) (hq : v < s.seqs.seqs.length) :
    ((s.abortShot v 4).valve v).run = none ∧ ((s.abortShot v 4).seq v).running = false ∧ ((s.abortShot v 4).seq v).mode = .off
      ∧ (s.abortShot v 4).nat (valveKey 0x2812 v) = 4 := by
  unfold State.abortShot
  extract_lets +onlyGivenNames s1 s2
  obtain ⟨hrunning, hmode⟩ := stopDrive_seq hq
  have hlen : v < s2.drive.valves.length := lt_of_lt_of_eq hv (stopDrive_driveLength s v).1.symm
  refine ⟨?_, hrunning, hmode, nat_putNat_self ..⟩
  exact congrArg ValveSt.run (setValve_valve_self _ _ _ hlen)

/-- What a cancelled shot writes besides 0x2700:0A: counters of events, of its group and of off-time conflicts. -/
abbrev cancelKeys : List KeySet := [.frames, .events, .groups 0x2707, .one (obj 0x2700 11)]

theorem cancelKeys_not {k : Nat} (hlow : 0x2700 ≤ k / 256) (hhigh : k / 256 < 0x2D02) (hgroup : k / 256 ≠ 0x2707) (hk : k ≠ obj 0x2700 11) :
    ∀ y ∈ cancelKeys, ¬y.has k := by
  simp only [List.mem_cons, List.not_mem_nil, or_false, forall_eq_or_imp, forall_eq]
  refine ⟨fun h => ?_, fun h => ?_, fun h => hgroup (groups_has_div h), hk⟩
  · have := frames_has_lt h
    omega
  · have := events_has_div h
    omega

theorem abortKeys_not (v : Nat) {k : Nat} (hk : k / 256 = 0x2700) (hgrant : k ≠ obj 0x2700 9) : ∀ y ∈ abortKeys v, ¬y.has k := by
  have hdiv := valveKey_div 0x2812 v
  simp only [List.mem_cons, List.not_mem_nil, or_false, forall_eq_or_imp, forall_eq]
  refine ⟨fun h => ?_, hgrant, fun h => ?_, ?_, ?_, ?_, ?_⟩
  · have := groups_has_div h
    omega
  · have := groups_has_div h
    omega
  · rintro rfl
    omega
  all_goals
    rintro rfl
    exact absurd hk (by decide)

/-- A cancelled shot counts once as group saturation. -/
theorem State.cancelled_counts (s : State) (v : Nat) (x : Shot) :
    (s.bump (obj 0x2700 0x0A)).Keeps cancelKeys (s.cancelled v x) := by
  unfold State.cancelled State.saturation
  extract_lets +onlyGivenNames s1
  have h1 : (s.bump (obj 0x2700 0x0A)).Keeps cancelKeys s1 :=
    .via (raiseSlow_keeps ..) (Keeps.step (bump_keeps ..) (Cov.group (groupOf_lt ..) (by decide)) .same) (by simp)
  exact .ite (.via (raiseSlow_keeps ..) (.via (bump_keeps ..) h1 (by simp)) (by simp)) h1

end

section
variable {s : State} {v : Valve}

theorem execDeferralLimit_result {u l : Nat} {x : Shot} (hdrive : s.drive.shaped) (hseqs : s.seqs.shaped)
    (hbusy : (s.seq v).busy = .boostWait true u l) (hshot : (s.valve v).run = some x) (hrun : s.timeRuns = true)
    (hcount : s.time.counter ≤ x.req.sched + x.deferLimit.toNat) :
    ∃ t, execDeferralLimit v s = .next t ∧ t.time.counter = x.req.sched + x.deferLimit.toNat ∧ (t.valve v).run = none
      ∧ (t.seq v).running = false ∧ (t.seq v).mode = .off ∧ t.nat (valveKey 0x2812 v) = 4
      ∧ t.nat (obj 0x2700 0x0A) = s.counted (obj 0x2700 0x0A) := by
  unfold execDeferralLimit
  rw [hbusy, hshot]
  dsimp only
  have hcount1 : (s.atTick (x.req.sched + x.deferLimit.toNat)).time.counter = x.req.sched + x.deferLimit.toNat := atTick_counter hrun hcount
  have hv1 : v.val < (s.atTick (x.req.sched + x.deferLimit.toNat)).drive.valves.length := lt_of_lt_of_eq v.isLt hdrive.1.symm
  have hq1 : v.val < (s.atTick (x.req.sched + x.deferLimit.toNat)).seqs.seqs.length := lt_of_lt_of_eq v.isLt hseqs.1.symm
  have hn1 : ∀ k, (s.atTick (x.req.sched + x.deferLimit.toNat)).nat k = s.nat k := fun _ => rfl
  generalize s.atTick (x.req.sched + x.deferLimit.toNat) = s1 at hcount1 hv1 hq1 hn1 ⊢
  obtain ⟨hnone, hrunning, hmode, hcause⟩ := abortShot_saturated hv1 hq1
  have hdoes := cancelled_does (s1.abortShot v 4) v x
  have hkeeps := cancelled_counts (s1.abortShot v 4) v x
  have hlt := v.isLt
  refine ⟨_, rfl, ?_, ?_, ?_, ?_, ?_, ?_⟩
  · rw [hdoes.time_eq, (abortShot_does ..).time_eq, hcount1]
  · rw [hdoes.valve_eq, hnone]
  · rw [hdoes.seq_eq, hrunning]
  · rw [hdoes.seq_eq, hmode]
  · have hdiv := valveKey_div 0x2812 v
    have hother : ∀ j, j < 256 → valveKey 0x2812 v ≠ obj 0x2700 j := fun j hj => by
      unfold valveKey obj
      omega
    rw [hkeeps.nat_eq (cancelKeys_not (by omega) (by omega) (by omega) (hother _ (by decide))), nat_bump_other _ (hother _ (by decide)), hcause]
  · rw [hkeeps.nat_eq (cancelKeys_not (by decide) (by decide) (by decide) (by decide)), nat_bump_self, State.counted,
      (abortShot_keeps ..).nat_eq (abortKeys_not v (by decide) (by decide)), hn1]

end

end Sys2Proof.Machine
end


section
/-!
Kink windows.
-/
set_option Elab.async false
set_option linter.all false

namespace Sys2Proof.Machine

open Sys2Proof State

/-! ### Kink windows (06 R190 to R194) -/

section
variable {s : State} {v : Valve} {w : KinkWindow}

theorem execKinkWindowOpen_result (hseqs : s.seqs.shaped) (hw : (s.seq v).window = some w) (hopen : w.isOpen = false)
    (hrun : s.timeRuns = true) (hcount : s.time.counter ≤ w.opens) :
    ∃ t, execKinkWindowOpen v s = .next t ∧ t.time.counter = w.opens
      ∧ (t.seq v).window = some { w with isOpen := true, sampled := decide (s.openWindows (s.groupOf v) < 4) } ∧ t.od = s.od := by
  unfold execKinkWindowOpen
  rw [hw]
  dsimp only
  rw [if_neg (by rw [hopen]; exact nofun)]
  have hlen : v.val < (s.atTick w.opens).seqs.seqs.length := lt_of_lt_of_eq v.isLt hseqs.1.symm
  exact ⟨_, rfl, atTick_counter hrun hcount, congrArg Seq.window (setSeq_seq_self _ _ _ hlen), rfl⟩

/-- A qualifying shot may retire its valve: of the valve only the availability may change. -/
def State.OnlyAvail (v : Nat) (s t : State) : Prop :=
  (∃ a, t.valve v = { s.valve v with avail := a }) ∧ t.drive.valves.length = s.drive.valves.length

theorem State.Does.onlyAvail {ps : List Part} {t : State} (h : s.Does ps t) (v : Nat) (k : Part.drive ∉ ps := by decide) : s.OnlyAvail v t :=
  ⟨⟨_, h.valve_eq v k⟩, congrArg (·.valves.length) (h.drive_eq k)⟩

theorem State.OnlyAvail.trans {v : Nat} {t u : State} (h : s.OnlyAvail v t) (k : t.OnlyAvail v u) : s.OnlyAvail v u := by
  obtain ⟨⟨a, ha⟩, hlen⟩ := h
  obtain ⟨⟨b, hb⟩, hlen'⟩ := k
  exact ⟨⟨b, by rw [hb, ha]⟩, hlen'.trans hlen⟩

theorem State.setAvail_onlyAvail (s : State) (v a : Nat) : s.OnlyAvail v (s.setAvail v a) := by
  refine ⟨?_, List.length_set ..⟩
  by_cases h : v < s.drive.valves.length
  · exact ⟨a, setValve_valve_self _ _ _ h⟩
  · exact ⟨_, congrArg (·.getD v {}) (List.set_eq_of_length_le (Nat.le_of_not_lt h))⟩

/-- What the ledger touches of a qualifying shot, but for the drive. -/
abbrev ledgerParts : List Part := [.out, .od, .ledger, .backdrop, .strand, .side, .recorder]

theorem State.retire_onlyAvail (s : State) (v cause : Nat) : s.OnlyAvail v (s.retire v cause) := by
  unfold State.retire
  extract_lets +onlyGivenNames e blocked
  split
  · exact (Does.same : s.Does ledgerParts s).onlyAvail v
  · split
    · exact (Does.ite (.via (raise_does ..) (.of (setLedgerValve_does ..))) (.of (setLedgerValve_does ..)) : s.Does ledgerParts _).onlyAvail v
    · exact (((setLedgerValve_does ..).onlyAvail v).trans (setAvail_onlyAvail ..)).trans ((raise_does ..).onlyAvail v)

theorem State.ledgerQualify_onlyAvail (s : State) (v : Nat) (lost : Bool) : s.OnlyAvail v (s.ledgerQualify v lost) := by
  unfold State.ledgerQualify
  extract_lets +onlyGivenNames e n l
  split
  · exact (setLedgerValve_does ..).onlyAvail v
  · extract_lets +onlyGivenNames e2 s1
    have h1 : s.OnlyAvail v s1 := (setLedgerValve_does ..).onlyAvail v
    split
    · exact h1.trans (retire_onlyAvail ..)
    · split
      · exact h1.trans (retire_onlyAvail ..)
      · exact h1

/-- Events count in none of the objects of the drive. -/
theorem State.Keeps.nat_drive {t : State} (h : s.Keeps [.frames, .events] t) {k : Nat} (hlow : 0x2700 ≤ k / 256) (hhigh : k / 256 < 0x2D02) :
    t.nat k = s.nat k := by
  refine h.nat_eq ?_
  simp only [List.mem_cons, List.not_mem_nil, or_false, forall_eq_or_imp, forall_eq]
  refine ⟨fun h => ?_, fun h => ?_⟩
  · have := frames_has_lt h
    omega
  · have := events_has_div h
    omega

/-- The window of a valve has ended. -/
def State.windowEnded (s : State) (v : Nat) (w : KinkWindow) : State :=
  (s.atTick w.closes).setSeq v { (s.atTick w.closes).seq v with window := none }

theorem State.windowEnded_window (hseqs : s.seqs.shaped) : ((s.windowEnded v w).seq v).window = none :=
  congrArg Seq.window (setSeq_seq_self _ _ _ (lt_of_lt_of_eq v.isLt hseqs.1.symm))

theorem State.windowEnded_counter (hrun : s.timeRuns = true) (hcount : s.time.counter ≤ w.closes) :
    (s.windowEnded v w).time.counter = w.closes := atTick_counter hrun hcount

theorem State.windowEnded_nat (k : Nat) : (s.windowEnded v w).nat k = s.nat k := rfl

theorem State.windowEnded_valve (u : Nat) : (s.windowEnded v w).valve u = s.valve u := rfl

theorem State.windowEnded_drive : (s.windowEnded v w).drive = s.drive := rfl

theorem State.windowEnded_terms : (s.windowEnded v w).shotTerms v = s.shotTerms v := rfl

theorem execKinkWindowEnd_unsampled {samples : List Int} (hseqs : s.seqs.shaped) (hw : (s.seq v).window = some w) (hopen : w.isOpen = true)
    (hsampled : w.sampled = false) :
    ∃ t, execKinkWindowEnd v samples s = .next t ∧ (t.seq v).window = none ∧ t.nat (obj 0x2700 0x14) = s.counted (obj 0x2700 0x14)
      ∧ t.drive = s.drive := by
  refine ⟨(s.windowEnded v w).bump (obj 0x2700 0x14), ?_, windowEnded_window hseqs, nat_bump_self .., rfl⟩
  unfold execKinkWindowEnd
  rw [hw]
  dsimp only
  rw [if_neg (by simp [hopen]), if_pos (by simp [hsampled])]
  rfl

theorem execKinkWindowEnd_lost {samples : List Int} (hseqs : s.seqs.shaped) (hw : (s.seq v).window = some w) (hopen : w.isOpen = true)
    (hsampled : w.sampled = true) (hrun : s.timeRuns = true) (hcount : s.time.counter ≤ w.closes)
    (hkink : kinkOf samples (s.shotTerms v).kinkMin = none) :
    ∃ t, execKinkWindowEnd v samples s = .next t ∧ t.time.counter = w.closes ∧ (t.seq v).window = none
      ∧ t.nat (obj 0x2700 0x13) = s.counted (obj 0x2700 0x13) ∧ t.nat (valveKey 0x2728 v) = s.counted (valveKey 0x2728 v) := by
  have hexec : execKinkWindowEnd v samples s
      = .next ((((s.windowEnded v w).bump (obj 0x2700 0x13)).bump (valveKey 0x2728 v)).ledgerQualify v true) := by
    unfold execKinkWindowEnd
    rw [hw]
    dsimp only
    rw [if_neg (by simp [hopen]), if_neg (by simp [hsampled])]
    have hkink1 : kinkOf samples ((s.windowEnded v w).shotTerms v).kinkMin = none := hkink
    unfold State.windowEnded at hkink1 ⊢
    rw [hkink1]
  have hv := v.isLt
  have hdiv := valveKey_div 0x2728 v
  have hne : obj 0x2700 0x13 ≠ valveKey 0x2728 v := by
    unfold valveKey obj
    omega
  refine ⟨_, hexec, ?_, ?_, ?_, ?_⟩
  · rw [(ledgerQualify_does ..).time_eq, (bump_does ..).time_eq, (bump_does ..).time_eq, windowEnded_counter hrun hcount]
  · rw [(ledgerQualify_does ..).seq_eq, (bump_does ..).seq_eq, (bump_does ..).seq_eq, windowEnded_window hseqs]
  · rw [(ledgerQualify_keeps ..).nat_drive (by decide) (by decide), nat_bump_other _ hne, nat_bump_self, State.counted, windowEnded_nat]
  · rw [(ledgerQualify_keeps ..).nat_drive (by omega) (by omega), nat_bump_self, State.counted, nat_bump_other _ hne.symm, windowEnded_nat]

/-- The terms of a valve's shot are of its request, or of the parameters in force. -/
theorem State.shotTerms_congr {t : State} {v : Nat} (hvalve : (t.valve v).run = (s.valve v).run)
    (hn : ∀ k, 0x2700 ≤ k / 256 → k / 256 < 0x2D02 → t.nat k = s.nat k) : t.shotTerms v = s.shotTerms v := by
  have hterms : t.driveTerms = s.driveTerms := by
    have hobj : ∀ i j, 0x2700 ≤ i → i < 0x2D00 → j < 256 → t.nat (obj i j) = s.nat (obj i j) := fun i j _ _ _ =>
      hn _ (by unfold obj; omega) (by unfold obj; omega)
    unfold State.driveTerms
    simp (disch := decide) only [hobj]
  unfold State.shotTerms
  rw [hvalve, hterms]

/-- An accepted kink moves the estimate's count, and counts. -/
theorem State.acceptKink_result (delta : ℚ) (amp : Nat) (hlen : v.val < s.drive.valves.length) :
    ((s.acceptKink v delta amp).valve v).kinkI = (s.valve v).kinkI + 1
      ∧ (s.acceptKink v delta amp).nat (valveKey 0x271A v) = min max16 amp
      ∧ (s.acceptKink v delta amp).nat (obj 0x2700 0x12) = s.counted (obj 0x2700 0x12)
      ∧ (s.acceptKink v delta amp).nat (valveKey 0x2718 v) = s.counted (valveKey 0x2718 v) := by
  unfold State.acceptKink
  extract_lets +onlyGivenNames x dev weight before s1 s2 s3
  have hv1 : (s1.valve v).kinkI = (s.valve v).kinkI + 1 := congrArg ValveSt.kinkI (setValve_valve_self _ _ _ hlen)
  have hv2 : (s2.valve v).kinkI = (s.valve v).kinkI + 1 :=
    (congrArg ValveSt.kinkI (setValve_valve_self s1 _ _ (lt_of_lt_of_eq hlen (List.length_set ..).symm))).trans hv1
  have hv3 : s3.valve v = s2.valve v :=
    (Does.via (ledgerKink_does ..) (.via (putNat_does ..) (.via (bump_does ..) (.of (bump_does ..)))) : s2.Does [.od, .ledger] s3).valve_eq v
  have hn2 : ∀ k, s2.nat k = s.nat k := fun _ => rfl
  have hn3 : ∀ k, s3.nat k = (((s2.bump (obj 0x2700 0x12)).bump (valveKey 0x2718 v)).putNat (valveKey 0x271A v) (min max16 amp)).nat k :=
    (ledgerKink_does ..).nat_eq
  have hkeeps : s3.Keeps [.frames, .events] (if before + 1 = 32 then s3.raise 0x600C v else s3) := .ite (.of (raise_keeps ..)) .same
  have hdoes : s3.Does ledgerParts (if before + 1 = 32 then s3.raise 0x600C v else s3) := .ite (.of (raise_does ..)) .same
  have hlt := v.isLt
  have hcount : valveKey 0x2718 v ≠ obj 0x2700 0x12 ∧ valveKey 0x271A v ≠ obj 0x2700 0x12 ∧ valveKey 0x271A v ≠ valveKey 0x2718 v := by
    unfold valveKey obj
    omega
  obtain ⟨hne, hne', hne''⟩ := hcount
  have hdiv := valveKey_div 0x2718 v
  have hdiv' := valveKey_div 0x271A v
  refine ⟨?_, ?_, ?_, ?_⟩
  · rw [hdoes.valve_eq, hv3, hv2]
  · rw [hkeeps.nat_drive (by omega) (by omega), hn3, nat_putNat_self]
  · rw [hkeeps.nat_drive (by decide) (by decide), hn3, nat_putNat_other _ _ hne'.symm, nat_bump_other _ hne.symm, nat_bump_self, State.counted, hn2]
  · rw [hkeeps.nat_drive (by omega) (by omega), hn3, nat_putNat_other _ _ hne''.symm, nat_bump_self, State.counted, nat_bump_other _ hne, hn2]

theorem execKinkWindowEnd_accepted {samples : List Int} {k amp u : Nat} (hdrive : s.drive.shaped) (hseqs : s.seqs.shaped)
    (hw : (s.seq v).window = some w) (hopen : w.isOpen = true) (hsampled : w.sampled = true)
    (hkink : kinkOf samples (s.shotTerms v).kinkMin = some (k, amp)) (hoff : (s.seq v).tOff = some u)
    (hgate : |((w.opens + k : Nat) - (u : ℚ)) * 5 / 4 - (s.valve v).deltaBar| ≤ ((s.shotTerms v).gate : ℚ) * 1000) :
    ∃ t, execKinkWindowEnd v samples s = .next t ∧ (t.seq v).window = none ∧ (t.valve v).kinkI = (s.valve v).kinkI + 1
      ∧ t.nat (valveKey 0x271A v) = min max16 amp ∧ t.nat (obj 0x2700 0x12) = s.counted (obj 0x2700 0x12)
      ∧ t.nat (valveKey 0x2718 v) = s.counted (valveKey 0x2718 v) := by
  obtain ⟨⟨a, ha⟩, hlen⟩ := ledgerQualify_onlyAvail (s.windowEnded v w) v false
  have hexec : execKinkWindowEnd v samples s
      = .next (((s.windowEnded v w).ledgerQualify v false).acceptKink v (((w.opens + k : Nat) - (u : ℚ)) * 5 / 4) amp) := by
    have hkink1 : kinkOf samples ((s.windowEnded v w).shotTerms v).kinkMin = some (k, amp) := hkink
    have hterms : ((s.windowEnded v w).ledgerQualify v false).shotTerms v = s.shotTerms v :=
      shotTerms_congr (by rw [ha, windowEnded_valve]) fun j hlow hhigh => (ledgerQualify_keeps ..).nat_drive hlow hhigh
    have hbar : (((s.windowEnded v w).ledgerQualify v false).valve v).deltaBar = (s.valve v).deltaBar := by rw [ha, windowEnded_valve]
    have hoff1 : ((s.atTick w.closes).seq v).tOff.getD w.opens = u := congrArg (·.getD w.opens) hoff
    unfold execKinkWindowEnd
    rw [hw]
    dsimp only
    rw [if_neg (by simp [hopen]), if_neg (by simp [hsampled])]
    unfold State.windowEnded at hkink1 hterms hbar ⊢
    rw [hkink1]
    dsimp only
    rw [hoff1, hterms, hbar, if_neg (not_lt.2 hgate)]
  have hlt := v.isLt
  have hdiv := valveKey_div 0x2718 v
  have hvlen : v.val < ((s.windowEnded v w).ledgerQualify v false).drive.valves.length := by
    rw [hlen]
    exact lt_of_lt_of_eq hlt hdrive.1.symm
  obtain ⟨hkinkI, hamp, hcount, hvcount⟩ := acceptKink_result (((w.opens + k : Nat) - (u : ℚ)) * 5 / 4) amp hvlen
  refine ⟨_, hexec, ?_, ?_, hamp, ?_, ?_⟩
  · rw [(acceptKink_does ..).seq_eq, (ledgerQualify_does ..).seq_eq, windowEnded_window hseqs]
  · rw [hkinkI, ha, windowEnded_valve]
  · rw [hcount, State.counted, (ledgerQualify_keeps ..).nat_drive (by decide) (by decide), windowEnded_nat]
  · rw [hvcount, State.counted, (ledgerQualify_keeps ..).nat_drive (by omega) (by omega), windowEnded_nat]

end

end Sys2Proof.Machine
end


section
/-!
The coil model, and the results of the drive's shots.
-/
set_option Elab.async false
set_option linter.all false

namespace Sys2Proof.Machine

open Sys2Proof State

/-! ### The coil model (06 R195) -/

section
variable {s t u : State}

/-- The temperatures of every valve stand, and the instant of their update. -/
structure State.ThetasKept (s t : State) : Prop where
  at_ : t.drive.thermalAt = s.drive.thermalAt
  thetaW : ∀ v, (t.valve v).thetaW = (s.valve v).thetaW
  thetaB : ∀ v, (t.valve v).thetaB = (s.valve v).thetaB

theorem State.ThetasKept.refl (s : State) : s.ThetasKept s := ⟨rfl, fun _ => rfl, fun _ => rfl⟩

theorem State.ThetasKept.trans (h : s.ThetasKept t) (k : t.ThetasKept u) : s.ThetasKept u :=
  ⟨k.at_.trans h.at_, fun v => (k.thetaW v).trans (h.thetaW v), fun v => (k.thetaB v).trans (h.thetaB v)⟩

theorem State.Does.thetasKept {ps : List Part} (h : s.Does ps t) (k : Part.drive ∉ ps := by decide) : s.ThetasKept t :=
  ⟨congrArg Drive.thermalAt (h.drive_eq k), fun v => congrArg ValveSt.thetaW (h.valve_eq v k), fun v => congrArg ValveSt.thetaB (h.valve_eq v k)⟩

theorem State.setValve_valve (s : State) (v : Nat) (x : ValveSt) (u : Nat) :
    (s.setValve v x).valve u = x ∧ u = v ∨ (s.setValve v x).valve u = s.valve u := by
  by_cases hu : u = v
  · subst hu
    by_cases h : u < s.drive.valves.length
    · exact .inl ⟨setValve_valve_self _ _ _ h, rfl⟩
    · exact .inr (congrArg (·.getD u {}) (List.set_eq_of_length_le (Nat.le_of_not_lt h)))
  · exact .inr (setValve_valve_other _ _ _ hu)

theorem State.setValve_thetasKept (s : State) (v : Nat) (x : ValveSt) (hw : x.thetaW = (s.valve v).thetaW) (hb : x.thetaB = (s.valve v).thetaB) :
    s.ThetasKept (s.setValve v x) := by
  refine ⟨rfl, fun u => ?_, fun u => ?_⟩
  all_goals
    obtain ⟨h, rfl⟩ | h := setValve_valve s v x u
    · rw [h]
      assumption
    · rw [h]

theorem State.dropQueue_thetasKept (s : State) (v : Nat) : s.ThetasKept (s.dropQueue v) :=
  (setValve_thetasKept s v { s.valve v with queue := [] } rfl rfl).trans (setStore_does ..).thetasKept

theorem State.coilLimits_thetasKept (s : State) (v : Nat) : s.ThetasKept (s.coilLimits v) := by
  unfold State.coilLimits
  extract_lets +onlyGivenNames x s1 y s2
  have h1 : s.Does portParts s1 := .ite (.of (raiseSlow_does ..)) .same
  have hx : s1.valve v = x := h1.valve_eq v
  have h2 : s.ThetasKept s2 := h1.thetasKept.trans (setValve_thetasKept s1 v y (congrArg ValveSt.thetaW hx).symm (congrArg ValveSt.thetaB hx).symm)
  split
  · extract_lets +onlyGivenNames s3 s4 z
    have h3 : s2.Does [.od] s3 := Does.foldl (fun _ _ => skipCount_does ..) .same
    have h5 : s4.ThetasKept (s4.setValve v { z with skip := true, run := z.run.map (Shot.cutHold s4.tick) }) := setValve_thetasKept _ _ _ rfl rfl
    exact (h2.trans (h3.thetasKept.trans (dropQueue_thetasKept s3 v))).trans (h5.trans (raise_does ..).thetasKept)
  · split
    · exact h2.trans (setValve_thetasKept s2 v { y with skip := false } (h2.thetaW v).symm (h2.thetaB v).symm)
    · exact h2

/-- The step of a valve's two nodes rests on its calibration page, on the parameters in force and on the temperature of the die. -/
theorem State.Does.coilStep_eq {ps : List Part} (h : s.Does ps t)
    (hp : Part.od ∉ ps ∧ Part.variant ∉ ps ∧ Part.side ∉ ps := by decide) (hd : Part.drive ∉ ps := by decide)
    (ht : Part.thermal ∉ ps := by decide) : t.coilStep = s.coilStep := by
  have hthermal : t.thermal = s.thermal := h.only .thermal ht
  funext v i x
  unfold State.coilStep State.coilOhms
  simp only [h.valve_eq v hd, fun k => h.nat_eq k hp, hthermal]

theorem valveCount_le (s : State) : s.valveCount ≤ 256 := by
  unfold State.valveCount
  split
  · exact Nat.le_refl _
  · decide

theorem getD_map_zipIdx {α : Type} (l : List α) (f : α × Nat → α) (d : α) {i : Nat} (h : i < l.length) :
    (l.zipIdx.map f).getD i d = f (l.getD i d, i) := by
  simp [List.getD_eq_getElem?_getD, h]

theorem execThermalUpdate_result {squares : List Nat} (hdrive : s.drive.shaped) (hup : s.module.mainUp = true)
    (hclk : s.clk ≤ s.drive.thermalAt + msTicks) :
    ∃ t, execThermalUpdate squares s = .next t ∧ t.clk = s.drive.thermalAt + msTicks ∧ t.drive.thermalAt = t.clk
      ∧ ∀ v, v < s.valveCount → (t.valve v).thetaW = (s.coilStep v (squares.getD v 0) (s.valve v)).thetaW
          ∧ (t.valve v).thetaB = (s.coilStep v (squares.getD v 0) (s.valve v)).thetaB := by
  unfold execThermalUpdate
  rw [if_pos hup]
  extract_lets +onlyGivenNames s1 valves src s2
  have hc1 : s1.clk = s.drive.thermalAt + msTicks := atClk_clk hclk
  have hdoes1 : s.Does [.clk, .time] s1 := atClk_does ..
  clear_value s1
  have hkept : s2.ThetasKept ((List.range s2.valveCount).foldl (fun s v => s.coilLimits v) s2) :=
    List.foldlRecOn (motive := s2.ThetasKept) _ _ (.refl s2) fun _ h _ _ => h.trans (coilLimits_thetasKept ..)
  have hdoes : s2.Does [.out, .od, .drive, .seqs, .backdrop, .strand, .side, .recorder] ((List.range s2.valveCount).foldl (fun s v => s.coilLimits v) s2) :=
    Does.foldl (fun _ _ => coilLimits_does ..) .same
  refine ⟨_, rfl, hdoes.clk_eq.trans hc1, hkept.at_.trans hdoes.clk_eq.symm, fun v hv => ?_⟩
  have hvalve : s2.valve v = s.coilStep v (squares.getD v 0) (s.valve v) := by
    have hlen : v < s1.drive.valves.length := by
      rw [hdoes1.drive_eq, hdrive.1]
      exact lt_of_lt_of_le hv (valveCount_le s)
    have hcount : s1.valveCount = s.valveCount := by
      unfold State.valveCount
      rw [hdoes1.variant_eq]
    calc s2.valve v = if v < s1.valveCount then s1.coilStep v (squares.getD v 0) (s1.valve v) else s1.valve v := getD_map_zipIdx _ _ _ hlen
      _ = s1.coilStep v (squares.getD v 0) (s1.valve v) := if_pos (hcount ▸ hv)
      _ = s.coilStep v (squares.getD v 0) (s.valve v) := by rw [hdoes1.coilStep_eq, hdoes1.valve_eq]
  exact ⟨(hkept.thetaW v).trans (congrArg _ hvalve), (hkept.thetaB v).trans (congrArg _ hvalve)⟩

end

/-- Settles O13: each event of a shot from the lemma on its `exec` function. -/
theorem driveShotResults : Obligations.DriveShotResults := by
  unfold Obligations.DriveShotResults
  exact ⟨fun _ _ _ _ hdrive hseqs hqueue hholding hen hlimit hrun hcount => execGateEdge_result hdrive hseqs hqueue hholding hen hlimit hrun hcount,
    fun _ _ _ _ _ hdrive hseqs hbusy hshot hrun hcount => execDeferralLimit_result hdrive hseqs hbusy hshot hrun hcount,
    fun _ _ _ hseqs hw hopen hrun hcount => execKinkWindowOpen_result hseqs hw hopen hrun hcount,
    fun _ _ _ _ hseqs hw hopen hsampled hrun hcount hkink => execKinkWindowEnd_lost hseqs hw hopen hsampled hrun hcount hkink,
    fun _ _ _ _ _ _ _ hdrive hseqs hw hopen hsampled hkink hoff hgate =>
      execKinkWindowEnd_accepted hdrive hseqs hw hopen hsampled hkink hoff hgate,
    fun _ _ _ _ hseqs hw hopen hsampled => execKinkWindowEnd_unsampled hseqs hw hopen hsampled,
    fun _ _ hdrive hup hclk => execThermalUpdate_result hdrive hup hclk⟩

end Sys2Proof.Machine
end


section
/-!
A write that is carried out, and the settings of a camera port.
-/
set_option Elab.async false
set_option linter.all false

namespace Sys2Proof.Machine

open Sys2Proof State

/-! ### A write that is carried out (14 R393) -/

section
variable {ps : List Part} {s t : State} {m : Master} {k : Nat} {v : Val} {act : State → State × Nat}

theorem State.Does.power_eq (h : s.Does ps t) (k : Part.power ∉ ps := by decide) : t.power = s.power := h.only .power k

theorem State.Does.side_eq (h : s.Does ps t) (k : Part.side ∉ ps := by decide) : t.side = s.side := h.only .side k

/-- Whether a master reaches the block turns on the module, its power and the side-band alone. -/
theorem State.Does.reachable_eq (h : s.Does ps t) (m : Master) (hm : Part.module ∉ ps := by decide) (hp : Part.power ∉ ps := by decide)
    (hs : Part.side ∉ ps := by decide) : t.reachable m = s.reachable m := by
  unfold State.reachable State.nodeUp State.nodeOn State.canFed State.islandFed State.railsUp
  rw [h.module_eq hm, h.power_eq hp, h.side_eq hs]

theorem State.writable_iff : s.writable m k v = true ↔ s.reachable m = true ∧ s.checkWrite s.nat m k v = 0
    ∧ ((s.stage m).isOpen && stageable k) = false ∧ s.lockedBy (otherMaster m) k = false := by
  unfold State.writable
  rw [Bool.and_eq_true, Bool.and_eq_true, Bool.and_eq_true, beq_iff_eq, Bool.not_eq_true', Bool.not_eq_true', and_assoc, and_assoc]

/-- A write that passes every check, and whose object's own rule carries it out, is acknowledged. -/
theorem State.write_accepted (hw : s.writable m k v = true) (hact : act s = (t, 0)) (hdoes : s.Does ps t) (hm : Part.module ∉ ps := by decide)
    (hp : Part.power ∉ ps := by decide) (hs : Part.side ∉ ps := by decide) : s.write m k v act = t.emit (Machine.ack m k) := by
  obtain ⟨hreach, hcheck, hstage, hlock⟩ := writable_iff.1 hw
  have htry : s.tryWrite m k v act = (t, 0) := by
    unfold State.tryWrite State.lockRefuses
    dsimp only
    rw [if_neg (not_not.2 hcheck), if_neg (by rw [hstage]; exact nofun), if_neg (by rw [hlock]; exact nofun), hact]
  unfold State.write
  rw [if_neg (by rw [hreach]; exact nofun), htry]
  exact if_pos ((hdoes.reachable_eq m hm hp hs).trans hreach)

end

/-! ### Objects of a port -/

section
variable {s t : State}

theorem camKey_div (p i : Nat) {j : Nat} (hj : j < 256) : camKey p i j / 256 = i + 16 * p := by
  unfold camKey obj
  omega

/-- Events count in no object of a port, 0x2300 to 0x233F. -/
theorem State.Keeps.nat_camKey (h : s.Keeps [.frames, .events] t) (p : Port) {i j : Nat} (hi : 0x2300 ≤ i ∧ i < 0x2310 := by decide)
    (hj : j < 256 := by decide) : t.nat (camKey p i j) = s.nat (camKey p i j) := by
  refine h.nat_eq ?_
  have hdiv := camKey_div p i hj
  have hp := p.isLt
  simp only [List.mem_cons, List.not_mem_nil, or_false, forall_eq_or_imp, forall_eq]
  refine ⟨fun h => ?_, fun h => ?_⟩
  · have := frames_has_lt h
    omega
  · have := events_has_div h
    omega

end

/-! ### Settings commands, replies and the width of CC1 (03 R84, R85, R88, R89) -/

section
variable {p : Port} {s : State} {m : Master} {data : List Byte}

theorem execSettingsCommand_result (hcams : s.cams.length = 4) (hw : s.writable m (camKey p 0x2305 1) (.bytes data) = true)
    (hst : (s.cam p).state = .streaming) (hroom : (s.cam p).queue.length < 4) :
    ∃ t, execSettingsCommand m p data s = .next t ∧ (t.cam p).queue = (s.cam p).queue ++ [data] ∧ t.out = ack m (camKey p 0x2305 1) :: s.out := by
  have hact : actSettings p data s = (s.setCam p { s.cam p with queue := (s.cam p).queue ++ [data] }, 0) := by
    unfold actSettings
    dsimp only
    rw [if_neg (not_not.2 hst), if_neg (Nat.not_le.2 hroom)]
  unfold execSettingsCommand
  rw [write_accepted hw hact (setCam_does ..)]
  refine ⟨_, rfl, ?_, rfl⟩
  rw [(emit_does ..).cam_eq, setCam_cam_self _ _ _ (Port.lt_length p hcams)]

theorem execRawTransmit_result (hw : s.writable m (camKey p 0x2305 3) (.bytes data) = true) (hst : (s.cam p).state ≠ .streaming) :
    ∃ t, execRawTransmit m p data s = .next t ∧ t.out = ack m (camKey p 0x2305 3) :: .serial p data :: s.out ∧ t.cams = s.cams := by
  have hact : actRaw p data s = (s.emit (.serial p data), 0) := if_neg hst
  unfold execRawTransmit
  rw [write_accepted hw hact (emit_does ..)]
  exact ⟨_, rfl, rfl, rfl⟩

theorem execSettingsTransmitStart_result {d : List Byte} {r : List (List Byte)} {f : OpenFrame} (hcams : s.cams.length = 4)
    (hqueue : (s.cam p).queue = d :: r) (hlast : (s.cam p).frames.getLast? = some f) (hst : (s.cam p).state = .streaming)
    (hsend : (s.cam p).sending = none) (hopen : f.complete = false) (hfirst : f.triggers ≤ 1) (hend : (s.cam p).sentEnd ≤ f.firstClk) :
    ∃ t, execSettingsTransmitStart p s = .next t ∧ (t.cam p).queue = r ∧ (t.cam p).lastGen = ((s.cam p).lastGen + 1) % 2 ^ 32
      ∧ (t.cam p).sending = some (((s.cam p).lastGen + 1) % 2 ^ 32, s.clk + s.serialTicks p d.length)
      ∧ t.out = .serial p d :: s.out := by
  unfold execSettingsTransmitStart
  dsimp only
  rw [hqueue, hlast]
  dsimp only
  rw [if_neg (by simp [hst, hsend, hopen, hfirst, hend])]
  refine ⟨_, rfl, ?_⟩
  rw [(emit_does ..).cam_eq, setCam_cam_self _ _ _ (Port.lt_length p hcams)]
  exact ⟨rfl, rfl, rfl, rfl⟩

theorem execSettingsTransmitEnd_result {g u : Nat} (hcams : s.cams.length = 4) (hsend : (s.cam p).sending = some (g, u)) (hclk : s.clk ≤ u) :
    ∃ t, execSettingsTransmitEnd p s = .next t ∧ t.clk = u ∧ (t.cam p).sending = none ∧ (t.cam p).sentEnd = u
      ∧ t.nat (camKey p 0x2307 0x0B) = s.counted (camKey p 0x2307 0x0B) := by
  unfold execSettingsTransmitEnd
  rw [hsend]
  dsimp -zeta only
  extract_lets +onlyGivenNames s1 c due replies
  have hclk1 : s1.clk = u := atClk_clk hclk
  refine ⟨_, rfl, hclk1, ?_⟩
  rw [(bump_does ..).cam_eq, setCam_cam_self s1 _ _ (Port.lt_length p hcams), nat_bump_self]
  exact ⟨rfl, hclk1, rfl⟩

theorem execSerialReceive_result (hcams : s.cams.length = 4) (hup : s.module.mainUp = true) :
    ∃ t, execSerialReceive p data s = .next t ∧ (t.cam p).rx = (s.cam p).rx ++ data.take (256 - (s.cam p).rx.length)
      ∧ t.nat (camKey p 0x2305 5)
        = min (maxOf (camKey p 0x2305 5)) (s.nat (camKey p 0x2305 5) + (data.length - (256 - (s.cam p).rx.length))) := by
  unfold execSerialReceive
  rw [if_neg (by rw [hup]; exact nofun)]
  refine ⟨_, rfl, ?_, nat_putNat_self ..⟩
  rw [(bumpBy_does ..).cam_eq, setCam_cam_self _ _ _ (Port.lt_length p hcams)]

theorem execReplyTimeout_result {g u : Nat} {r : List (Nat × Nat)} (hcams : s.cams.length = 4) (hreplies : (s.cam p).replies = (g, u) :: r)
    (hclk : s.clk ≤ u) :
    ∃ t, execReplyTimeout p s = .next t ∧ t.clk = u ∧ (t.cam p).replies = r ∧ (t.cam p).unconfirmed = (s.cam p).unconfirmed ++ [g]
      ∧ t.nat (camKey p 0x2307 0x0A) = s.counted (camKey p 0x2307 0x0A) := by
  unfold execReplyTimeout
  dsimp only
  rw [hreplies]
  refine ⟨_, rfl, ?_⟩
  rw [(raise_does ..).clk_eq, (raise_does ..).cam_eq, (bump_does ..).cam_eq, setCam_cam_self (s.atClk u) _ _ (Port.lt_length p hcams),
    (raise_keeps ..).nat_camKey p, nat_bump_self]
  exact ⟨atClk_clk hclk, rfl, rfl, rfl⟩

theorem execCc1WidthApply_result {w : Nat} (hcams : s.cams.length = 4) (hwait : (s.cam p).cc1Pending = some w)
    (hframes : (s.cam p).frames.all (fun f => f.complete) = true) :
    ∃ t, execCc1WidthApply p s = .next t ∧ (t.cam p).cc1Width = w ∧ (t.cam p).cc1Pending = none
      ∧ (t.cam p).lastGen = ((s.cam p).lastGen + 1) % 2 ^ 32 := by
  unfold execCc1WidthApply
  dsimp only
  rw [hwait]
  dsimp only
  rw [if_neg (by simpa using hframes)]
  refine ⟨_, rfl, ?_⟩
  rw [setCam_cam_self _ _ _ (Port.lt_length p hcams)]
  exact ⟨rfl, rfl, rfl⟩

end

/-- Settles O5: each command of a port's serial link from the lemma on its `exec` function. -/
theorem cameraSerialResults : Obligations.CameraSerialResults := by
  unfold Obligations.CameraSerialResults
  exact ⟨fun _ _ _ _ hcams hw hst hroom => execSettingsCommand_result hcams hw hst hroom,
    fun _ _ _ _ hw hst => execRawTransmit_result hw hst,
    fun _ _ _ _ _ hcams hqueue hlast hst hsend hopen hfirst hend =>
      execSettingsTransmitStart_result hcams hqueue hlast hst hsend hopen hfirst hend,
    fun _ _ _ _ hcams hsend hclk => execSettingsTransmitEnd_result hcams hsend hclk,
    fun _ _ _ hcams hup => execSerialReceive_result hcams hup,
    fun _ _ _ _ _ hcams hreplies hclk => execReplyTimeout_result hcams hreplies hclk,
    fun _ _ _ hcams hwait hframes => execCc1WidthApply_result hcams hwait hframes⟩

end Sys2Proof.Machine
end


section
/-!
A start of a camera port: its commands and its end.
-/
set_option Elab.async false
set_option linter.all false

namespace Sys2Proof.Machine

open Sys2Proof State

/-! ### Partners (03 R63) -/

section
variable {s : State} {p : Port} {q : Nat}

theorem State.partner_cases (h : s.partner p = some q) : q ≠ p ∧ q < 4 := by
  have hp := p.isLt
  unfold State.partner at h
  split at h
  · exact absurd h nofun
  · have hq := Option.some.inj h
    split at hq
    · omega
    · omega

end

/-! ### A start is accepted, or ends before it streams (03 R90) -/

section
variable {s : State} {p q : Nat}

/-- Step 1 of a start on one port. -/
theorem State.beginStart_cam (plane : Bool) (hp : p < s.cams.length) :
    ((s.beginStart plane p).cam p).state = .starting ∧ ((s.beginStart plane p).cam p).before = (s.cam p).state
      ∧ ((s.beginStart plane p).cam p).planeStart = plane
      ∧ ((s.beginStart plane p).cam p).step = (if s.nat (camKey p 0x2301 2) = 1 ∧ (s.cam p).pocl ≠ 2 then .detect else .clock)
      ∧ ((s.beginStart plane p).cam p).startDeadline = s.clk + 5 * secTicks := by
  unfold State.beginStart
  rw [setCam_cam_self _ _ _ hp]
  refine ⟨rfl, rfl, rfl, ?_, rfl⟩
  simp

theorem State.beginStart_other (plane : Bool) (h : q ≠ p) : (s.beginStart plane p).cam q = s.cam q := setCam_cam_other _ _ _ h

theorem State.startCommand_accepted {ports : List Nat} {plane : Bool} (hbar : ∀ q ∈ ports, s.startBarred q = false)
    (hok : ∀ q ∈ ports, s.profileOk q = true) (hadm : s.admission ports = 0) :
    s.startCommand p ports plane
      = (ports.foldl (State.beginStart plane) (s.putNat (camKey p 0x2301 1) (if plane then 2 else 1)), 0) := by
  unfold State.startCommand
  rw [if_neg (by simpa using hbar), if_neg (by simpa using hok), if_neg (not_not.2 hadm)]
  rfl

theorem State.beginStarts_does (ports : List Nat) (plane : Bool) (s : State) (k v : Nat) :
    s.Does [.od, .cams] (ports.foldl (State.beginStart plane) (s.putNat k v)) :=
  Does.foldl (fun _ _ => .of (beginStart_does ..)) (.of (putNat_does ..))

theorem State.backOut_cam (hp : p < s.cams.length) :
    (s.backOut p).cam p = { s.cam p with state := (s.cam p).before, step := .none, planeStart := false, cc1Running := false } :=
  setCam_cam_self _ _ _ hp

theorem State.backOut_other (h : q ≠ p) : (s.backOut p).cam q = s.cam q := setCam_cam_other _ _ _ h

end

section
variable {s : State} {p : Port} {m : Master}

/-- A start that fails returns its port to the state it had, and counts. -/
theorem State.failStart_result (hcams : s.cams.length = 4) :
    ((s.failStart p).cam p).state = (s.cam p).before ∧ ((s.failStart p).cam p).step = .none
      ∧ (s.failStart p).nat (camKey p 0x2307 0x0C) = s.counted (camKey p 0x2307 0x0C) := by
  unfold State.failStart
  extract_lets +onlyGivenNames both s1
  have hcam : s1.cam p = { s.cam p with state := (s.cam p).before, step := .none, planeStart := false, cc1Running := false } := by
    unfold s1
    rw [(raise_does ..).cam_eq, (bump_does ..).cam_eq, backOut_cam (Port.lt_length p hcams)]
  have hcount : s1.nat (camKey p 0x2307 0x0C) = s.counted (camKey p 0x2307 0x0C) := by
    unfold s1
    rw [(raise_keeps ..).nat_camKey p, nat_bump_self]
    rfl
  have hresult : (s1.cam p).state = (s.cam p).before ∧ (s1.cam p).step = .none
      ∧ s1.nat (camKey p 0x2307 0x0C) = s.counted (camKey p 0x2307 0x0C) := by
    rw [hcam]
    exact ⟨rfl, rfl, hcount⟩
  clear_value s1 both
  split
  next q hq =>
    split
    · rw [backOut_other (partner_cases hq).1.symm, (backOut_does ..).nat_eq]
      exact hresult
    · exact hresult
  · exact hresult

theorem execStartPort_result (hcams : s.cams.length = 4) (hw : s.writable m (camKey p 0x2301 1) (.num 1) = true)
    (hbar : s.startBarred p = false) (hok : s.profileOk p = true) (hadm : s.admission [p.val] = 0) :
    ∃ t, execStartPort m p s = .next t ∧ (t.cam p).state = .starting ∧ (t.cam p).before = (s.cam p).state
      ∧ (t.cam p).step = (if s.nat (camKey p 0x2301 2) = 1 ∧ (s.cam p).pocl ≠ 2 then .detect else .clock)
      ∧ (t.cam p).startDeadline = s.clk + 5 * secTicks ∧ t.nat (camKey p 0x2301 1) = 1 ∧ t.out = ack m (camKey p 0x2301 1) :: s.out := by
  have hact : actStartPort p s = _ := startCommand_accepted (by simpa using hbar) (by simpa using hok) hadm
  unfold execStartPort
  rw [write_accepted hw hact (beginStarts_does ..)]
  have hlen : p.val < (s.putNat (camKey p 0x2301 1) 1).cams.length := Port.lt_length p hcams
  obtain ⟨hstate, hbefore, -, hstep, hdeadline⟩ := beginStart_cam false hlen
  rw [nat_putNat_other _ _ (by unfold camKey obj; omega)] at hstep
  exact ⟨_, rfl, hstate, hbefore, hstep, hdeadline, nat_putNat_self s (camKey p 0x2301 1) 1, rfl⟩

theorem execStartPlane_result (hcams : s.cams.length = 4) (hw : s.writable m (camKey p 0x2301 1) (.num 2) = true)
    (hbar : s.startBarred p = false) (hok : s.profileOk p = true)
    (hpartner : ∀ q, s.partner p = some q → s.startBarred q = false ∧ s.profileOk q = true)
    (hadm : s.admission (p.val :: (s.partner p).toList) = 0) :
    ∃ t, execStartPlane m p s = .next t ∧ (t.cam p).state = .starting ∧ (t.cam p).planeStart = true
      ∧ (∀ q, s.partner p = some q → (t.cam q).state = .starting ∧ (t.cam q).planeStart = true)
      ∧ t.nat (camKey p 0x2301 1) = 2 ∧ t.out = ack m (camKey p 0x2301 1) :: s.out := by
  have hact : actStartPlane p s = _ :=
    startCommand_accepted (by simpa using ⟨hbar, fun q hq => (hpartner q hq).1⟩) (by simpa using ⟨hok, fun q hq => (hpartner q hq).2⟩) hadm
  unfold execStartPlane
  rw [write_accepted hw hact (beginStarts_does ..)]
  have hlen : p.val < (s.putNat (camKey p 0x2301 1) 2).cams.length := Port.lt_length p hcams
  obtain ⟨hstate, -, hplane, -, -⟩ := beginStart_cam true hlen
  have hnat := nat_putNat_self s (camKey p 0x2301 1) 2
  cases hq : s.partner p with
  | none => exact ⟨_, rfl, hstate, hplane, nofun, hnat, rfl⟩
  | some q =>
    obtain ⟨hne, hlt⟩ := partner_cases hq
    have hlenq : q < ((s.putNat (camKey p 0x2301 1) 2).beginStart true p).cams.length :=
      lt_of_lt_of_eq hlt ((List.length_set ..).trans hcams).symm
    obtain ⟨hstateq, -, hplaneq, -, -⟩ := beginStart_cam true hlenq
    have hother := beginStart_other (s := (s.putNat (camKey p 0x2301 1) 2).beginStart true p) true hne.symm
    refine ⟨_, rfl, (congrArg Camera.state hother).trans hstate, (congrArg Camera.planeStart hother).trans hplane, ?_, hnat, rfl⟩
    rintro _ ⟨⟩
    exact ⟨hstateq, hplaneq⟩

/-- A port that is starting alone is stopped: it returns to the state before. -/
theorem execStopStream_starting (hcams : s.cams.length = 4) (hw : s.writable m (camKey p 0x2301 1) (.num 0) = true)
    (hst : (s.cam p).state = .starting) (hplane : (s.cam p).planeStart = false) :
    ∃ t, execStopStream m p s = .next t ∧ (t.cam p).state = (s.cam p).before ∧ (t.cam p).step = .none
      ∧ t.out = ack m (camKey p 0x2301 1) :: s.out := by
  have hdoes := putNat_does s (camKey p 0x2301 1) 0
  have hact : actStopStream p s = ((s.putNat (camKey p 0x2301 1) 0).backOut p, 0) := by
    unfold actStopStream State.keep
    generalize s.putNat (camKey p 0x2301 1) 0 = s1 at hdoes
    dsimp only
    rw [hdoes.cam_eq, hst, hplane]
  unfold execStopStream
  rw [write_accepted hw hact (.via (backOut_does ..) (.of hdoes) : s.Does [.od, .cams] _)]
  refine ⟨_, rfl, ?_⟩
  rw [(emit_does ..).cam_eq, backOut_cam (s := s.putNat (camKey p 0x2301 1) 0) (Port.lt_length p hcams)]
  exact ⟨rfl, rfl, rfl⟩

/-- A camera that is being stopped, and whose CC1 runs on or does not. -/
def Camera.stop (c : Camera) (runs : Bool) : Camera := { c with stopping := true, cc1Running := runs }

/-- The stop of a streaming port in grouping mode: CC1 runs on where a frame still takes triggers. -/
theorem actStopStream_grouping (hst : (s.cam p).state = .streaming) (hmode : s.fvalMode p = false) :
    actStopStream p s = ((((s.putNat (camKey p 0x2301 1) 0).setCam p
      ((s.cam p).stop (!(s.cam p).frames.all (fun f => f.complete) && (s.cam p).cc1Running))).settleStop p).settleCc p, 0) := by
  have hmode1 : ¬(s.putNat (camKey p 0x2301 1) 0).fvalMode p = true := by
    unfold State.fvalMode at hmode ⊢
    rw [nat_putNat_other _ _ (by unfold camKey obj; omega), hmode]
    exact nofun
  unfold actStopStream
  dsimp only
  split
  next h => exact absurd (hst.symm.trans h) (by decide)
  next => exact if_neg hmode1
  next h => exact absurd (hst.symm.trans h) (by decide)
  next _ h _ => exact absurd hst h

/-- A streaming port in grouping mode that is stopped within a frame: CC1 runs on to the frame's last trigger. -/
theorem execStopStream_streaming (hcams : s.cams.length = 4) (hw : s.writable m (camKey p 0x2301 1) (.num 0) = true)
    (hst : (s.cam p).state = .streaming) (hmode : s.fvalMode p = false) (hframes : (s.cam p).frames.any (fun f => !f.complete) = true)
    (hcc : (s.cam p).cc1Running = true) :
    ∃ t, execStopStream m p s = .next t ∧ (t.cam p).state = .streaming ∧ (t.cam p).stopping = true ∧ (t.cam p).cc1Running = true
      ∧ t.out.head? = some (ack m (camKey p 0x2301 1)) := by
  have hact := actStopStream_grouping hst hmode
  have hruns : (!(s.cam p).frames.all (fun f => f.complete) && (s.cam p).cc1Running) = true := by
    rw [List.all_eq_not_any_not, hframes, hcc]
    rfl
  rw [hruns] at hact
  have hdoes : s.Does [.od, .cams] _ := .via (setCam_does _ p ((s.cam p).stop true)) (.of (putNat_does s (camKey p 0x2301 1) 0))
  have hcam := setCam_cam_self (s.putNat (camKey p 0x2301 1) 0) p ((s.cam p).stop true) (Port.lt_length p hcams)
  generalize (s.putNat (camKey p 0x2301 1) 0).setCam p ((s.cam p).stop true) = s2 at hact hdoes hcam
  rw [settleStop_idle (by rw [hcam]; rfl)] at hact
  unfold execStopStream
  rw [write_accepted hw hact (.via (settleCc_does ..) (.of hdoes) : s.Does [.out, .od, .cams] _)]
  obtain ⟨cc, hlevels⟩ := settleCc_cam s2 p
  refine ⟨_, rfl, ?_⟩
  rw [(emit_does ..).cam_eq, hlevels, hcam]
  exact ⟨hst, rfl, rfl, rfl⟩

end

end Sys2Proof.Machine
end


section
/-!
The steps of a start of a camera port, and its power.
-/
set_option Elab.async false
set_option linter.all false

namespace Sys2Proof.Machine

open Sys2Proof State

/-! ### The steps up to the first trigger (03 R90) -/

section
variable {s : State} {p : Port}

theorem execPoclDetectionDone_result {loadA loadB : Bool} (hcams : s.cams.length = 4) (hpocl : (s.cam p).pocl = 1) :
    ∃ t, execPoclDetectionDone p loadA loadB s = .next t
      ∧ (t.cam p).pocl = (if loadA || (loadB && s.nat (camKey p 0x2302 1) != 0) then 2 else 5)
      ∧ (t.cam p).step = (if (s.cam p).step = .detect then .clock else (s.cam p).step) ∧ (t.cam p).poclLoadA = loadA := by
  unfold execPoclDetectionDone
  dsimp only
  rw [if_neg (not_not.2 hpocl)]
  refine ⟨_, rfl, ?_⟩
  rw [setCam_cam_self _ _ _ (Port.lt_length p hcams)]
  exact ⟨rfl, rfl, rfl⟩

theorem execPixelClockStable_result {kHz : Nat} (hcams : s.cams.length = 4) (hup : s.module.mainUp = true) (hstep : (s.cam p).step = .clock)
    (hclk : s.clk ≤ (s.cam p).startDeadline) (hlow : 20000 ≤ kHz) (hhigh : kHz ≤ 85000)
    (hline : ((s.widthOf p * 800000 : Nat) : ℚ) / ((s.ppc p * kHz : Nat) : ℚ) ≤ s.linePeriod p * 1005 / 1000) :
    ∃ t, execPixelClockStable p kHz s = .next t ∧ (t.cam p).step = .sending ∧ (t.cam p).clockKHz = kHz
      ∧ (t.cam p).settleEnd = s.clk + s.serialTicks p (s.byteVal (camKey p 0x2302 0x10)).length := by
  unfold execPixelClockStable
  extract_lets +onlyGivenNames c
  rw [if_pos hup]
  extract_lets +onlyGivenNames s1 line block src s2
  have hc1 : s1.cam p = { s.cam p with clockKHz := kHz } := setCam_cam_self _ _ _ (Port.lt_length p hcams)
  rw [if_neg (by simp [c, hstep, hlow, hhigh, s1, hclk]), if_neg (show ¬s1.linePeriod p * 1005 / 1000 < line from not_lt.2 hline)]
  generalize hs3 : (if block.isEmpty then s2 else s2.emit (.serial p block)) = s3
  have hdoes : s2.Does [.out] s3 := hs3 ▸ .ite .same (.of (emit_does ..))
  have hlen1 : s1.cams.length = 4 := (List.length_set ..).trans hcams
  refine ⟨_, rfl, ?_⟩
  rw [hdoes.cam_eq, setCam_cam_self _ _ _ (Port.lt_length p hlen1)]
  exact ⟨rfl, congrArg Camera.clockKHz hc1, rfl⟩

theorem execPixelClockTimeout_result (hcams : s.cams.length = 4) (hstep : (s.cam p).step = .clock) (hclk : s.clk ≤ (s.cam p).startDeadline) :
    ∃ t, execPixelClockTimeout p s = .next t ∧ t.clk = (s.cam p).startDeadline ∧ (t.cam p).state = (s.cam p).before
      ∧ (t.cam p).step = .none ∧ t.nat (camKey p 0x2307 0x0C) = s.counted (camKey p 0x2307 0x0C) := by
  unfold execPixelClockTimeout
  dsimp only
  rw [if_neg (by simp [hstep])]
  exact ⟨_, rfl, (failStart_does ..).clk_eq.trans (atClk_clk hclk), failStart_result (s := s.atClk (s.cam p).startDeadline) hcams⟩

theorem execStartupBlockSent_result (hcams : s.cams.length = 4) (hstep : (s.cam p).step = .sending) (hclk : s.clk ≤ (s.cam p).settleEnd) :
    ∃ t, execStartupBlockSent p s = .next t ∧ t.clk = (s.cam p).settleEnd ∧ (t.cam p).step = .settling
      ∧ (t.cam p).settleEnd = (s.cam p).settleEnd + s.nat (camKey p 0x2302 0x11) * msTicks := by
  unfold execStartupBlockSent
  extract_lets +onlyGivenNames c s1
  rw [if_neg (not_not.2 hstep)]
  have hclk1 : s1.clk = (s.cam p).settleEnd := atClk_clk hclk
  refine ⟨_, rfl, hclk1, ?_⟩
  rw [setCam_cam_self s1 _ _ (Port.lt_length p hcams), hclk1]
  exact ⟨rfl, rfl⟩

theorem State.arm_cam {q : Nat} (first : Nat) (hq : q < s.cams.length) :
    (State.arm first s q).cam q = { s.cam q with step := .armed, gridN := s.gridFrom q first, cc1Running := true } := setCam_cam_self _ _ _ hq

theorem execSettleElapsed_result (hcams : s.cams.length = 4) (hstep : (s.cam p).step = .settling) (hplane : (s.cam p).planeStart = false)
    (hclk : s.clk ≤ (s.cam p).settleEnd) :
    ∃ t, execSettleElapsed p s = .next t ∧ t.clk = (s.cam p).settleEnd ∧ (t.cam p).step = .armed ∧ (t.cam p).state = (s.cam p).state
      ∧ (t.cam p).gridN = s.gridFrom p (t.time.counter + 10 * usTicks) ∧ (t.cam p).cc1Running = true := by
  unfold execSettleElapsed
  extract_lets +onlyGivenNames c s1 s2 first
  rw [if_neg (not_not.2 hstep), show c.planeStart = false from hplane]
  have hc2 : s2.cam p = { s.cam p with step := .settled } := setCam_cam_self _ _ _ (Port.lt_length p hcams)
  have hlen2 : s2.cams.length = 4 := (List.length_set ..).trans hcams
  refine ⟨State.arm first s2 p, rfl, atClk_clk hclk, ?_⟩
  rw [arm_cam _ (Port.lt_length p hlen2), hc2]
  exact ⟨rfl, rfl, rfl, rfl⟩

end

/-! ### The first trigger (03 R90 step 7) -/

section
variable {s : State}

theorem State.testStrobesOf_keeps (s : State) (p : Nat) : s.Keeps [.frames, .events] (s.testStrobesOf p) := by
  refine Keeps.foldl (fun t n => .ite ?_ .same) .same
  unfold State.testStrobe
  extract_lets +onlyGivenNames k x bad s1
  have h1 : t.Keeps [.frames, .events] s1 := .past (setStrobe_does ..) .same
  exact .ite (.via (raise_keeps ..) h1) h1

theorem State.beginStream_keeps (s : State) (p : Nat) : s.Keeps [.frames, .events] (s.beginStream p) := by
  unfold State.beginStream
  extract_lets +onlyGivenNames c number s1 engine s2
  have h2 : s.Keeps [.frames, .events] s2 := .past (setEngine_does ..) (.past (setCam_does ..) .same)
  exact .via (raise_keeps ..) (.via (testStrobesOf_keeps ..) h2)

/-- A port that begins to stream: what its first trigger finds. -/
theorem State.beginStream_cam {p : Nat} (hp : p < s.cams.length) :
    ∃ c : Camera, (s.beginStream p).cam p = { c with
      state := .streaming, step := .none, gridN := (s.cam p).gridN, nextIndex := 0, cc1Running := (s.cam p).cc1Running, stopping := false
      pending := [], frames := [], rejoinGen := false, cc1Pending := none, cc1Width := s.nat (camKey p 0x2303 3) } := by
  unfold State.beginStream
  extract_lets +onlyGivenNames c number s1 engine s2
  refine ⟨s1.cam p, ?_⟩
  have hcam : s1.cam p = _ := setCam_cam_self _ _ _ hp
  rw [(raise_does ..).cam_eq, (testStrobesOf_does ..).cam_eq, (setEngine_does ..).cam_eq, hcam]

theorem State.beginStream_length (p : Nat) : (s.beginStream p).cams.length = s.cams.length := by
  unfold State.beginStream
  extract_lets +onlyGivenNames c number s1 engine s2
  rw [(raise_does ..).cams_eq, (testStrobesOf_does ..).cams_eq, (setEngine_does ..).cams_eq]
  exact List.length_set ..

theorem State.beginFrame_length (p index time : Nat) : (s.beginFrame p index time).cams.length = s.cams.length := by
  unfold State.beginFrame
  extract_lets +onlyGivenNames c n drop buffer given c1 given2 c2 f s1 s2
  have hs2 : s2.cams.length = s.cams.length := (congrArg List.length (pulseCc_does ..).cams_eq).trans (List.length_set ..)
  split
  · rw [(raiseSlow_does ..).cams_eq, (bump_does ..).cams_eq, hs2]
  · exact hs2

/-- Of a camera only its frames in progress and what numbers and places the next one have changed. -/
def Camera.OnlyFraming (c d : Camera) : Prop :=
  ∃ frames fresh next buffer, d = { c with frames := frames, freshStream := fresh, nextFrame := next, buffer := buffer }

/-- A frame begins with no settings waiting. -/
theorem State.beginFrame_onlyFraming {p index time : Nat} (hp : p < s.cams.length) (hrejoin : (s.cam p).rejoinGen = false)
    (hwait : (s.cam p).cc1Pending = none) : (s.cam p).OnlyFraming ((s.beginFrame p index time).cam p) := by
  unfold State.beginFrame
  extract_lets +onlyGivenNames c n drop buffer given c1 given2 c2 f s1 s2
  have hc1 : c1 = s.cam p := if_neg (by simp [c, hrejoin])
  have hc2 : c2 = s.cam p := by
    unfold c2
    rw [hc1, hwait]
  have hs2 : s2.cam p = s1.cam p := (pulseCc_does ..).cam_eq p
  have hs1 : s1.cam p = _ := setCam_cam_self _ _ _ hp
  rw [hc2] at hs1
  refine ⟨_, _, _, _, Eq.trans ?_ hs1⟩
  split
  · rw [(raiseSlow_does ..).cam_eq, (bump_does ..).cam_eq, hs2]
  · exact hs2

/-- A trigger opens a frame where none is in progress. -/
theorem State.openFrame_result {p index time : Nat} (b : Bool) (hp : p < s.cams.length) (hrejoin : (s.cam p).rejoinGen = false)
    (hwait : (s.cam p).cc1Pending = none) :
    (if b then s else s.beginFrame p index time).time = s.time ∧ p < (if b then s else s.beginFrame p index time).cams.length
      ∧ (s.cam p).OnlyFraming ((if b then s else s.beginFrame p index time).cam p) := by
  split
  · exact ⟨rfl, hp, _, _, _, _, rfl⟩
  · exact ⟨(beginFrame_does ..).time_eq, lt_of_lt_of_eq hp (beginFrame_length ..).symm, beginFrame_onlyFraming hp hrejoin hwait⟩

end

section
variable {s : State} {p : Port}

theorem execLineTrigger_first (hcams : s.cams.length = 4) (hcc : (s.cam p).cc1Running = true) (hstep : (s.cam p).step = .armed)
    (hrun : s.timeRuns = true) (hcount : s.time.counter ≤ s.gridTick p (s.cam p).gridN) :
    ∃ t, execLineTrigger p s = .next t ∧ t.time.counter = s.gridTick p (s.cam p).gridN ∧ (t.cam p).state = .streaming
      ∧ (t.cam p).step = .none ∧ (t.cam p).pending = [⟨s.gridTick p (s.cam p).gridN, 0, false⟩] ∧ (t.cam p).nextIndex = 1
      ∧ (t.cam p).gridN = (s.cam p).gridN + 1 ∧ t.nat (camKey p 0x2300 5) = 0
      ∧ .cc1 p (s.gridTick p (s.cam p).gridN) (s.nat (camKey p 0x2303 3)) ∈ t.out := by
  unfold execLineTrigger
  extract_lets +onlyGivenNames c
  rw [if_neg (by simp [c, hcc, hrun])]
  extract_lets +onlyGivenNames s1 s2 c2 s3 tick c3 index inFrame s4 c4 h count c5 c6 s5
  have ht1 : s1.time.counter = s.gridTick p (s.cam p).gridN := atTick_counter hrun hcount
  have h2 : s2 = s1.beginStream p := if_pos hstep
  obtain ⟨b, hb⟩ := beginStream_cam (s := s1) (Port.lt_length p hcams)
  have hc2 : s2.cam p = _ := (congrArg (·.cam p) h2).trans hb
  have hlen2 : p.val < s2.cams.length := by
    rw [h2, beginStream_length]
    exact Port.lt_length p hcams
  have h3 : s3 = s2 := by
    unfold s3 c2
    rw [expire_nil _ (congrArg Camera.pending hc2), settleStop_idle (by rw [hc2]; rfl)]
  have htick : tick = s.gridTick p (s.cam p).gridN := by
    have hkeeps : s.Keeps [.frames, .events] s2 := h2 ▸ .via (beginStream_keeps ..) (.past (atTick_does ..) .same)
    unfold tick c2 State.gridTick
    rw [h3, hkeeps.nat_camKey p, hkeeps.nat_camKey p, hc2]
    rfl
  have ht3 : s3.time = s1.time := by rw [h3, h2, (beginStream_does ..).time_eq]
  have hc3 : s3.cam p = _ := (congrArg (·.cam p) h3).trans hc2
  obtain ⟨ht4, hlen4, hc4⟩ : s4.time = s3.time ∧ p.val < s4.cams.length ∧ (s3.cam p).OnlyFraming c4 :=
    openFrame_result _ (h3 ▸ hlen2) (congrArg Camera.rejoinGen hc3) (congrArg Camera.cc1Pending hc3)
  obtain ⟨frames, fresh, next, buffer, hc5⟩ : (s3.cam p).OnlyFraming c5 := by
    obtain ⟨frames, fresh, next, buffer, hc4⟩ := hc4
    unfold c5
    rw [hc4]
    split
    · exact ⟨_, _, _, _, rfl⟩
    · exact ⟨_, _, _, _, rfl⟩
  rw [hc3] at hc5
  have hindex : index = 0 := congrArg Camera.nextIndex hc3
  have hw : c6.cc1Width = s.nat (camKey p 0x2303 3) := (congrArg Camera.cc1Width hc5 : c5.cc1Width = _)
  obtain ⟨t, ht, ⟨cc, hcam⟩, hshown, htime, hout⟩ := fireTrigger s4 c6 tick index c6.cc1Width hlen4
  refine ⟨t, congrArg _ ht, ?_, ?_, ?_, ?_, ?_, ?_, ?_, ?_⟩
  · rw [htime, ht4, ht3, ht1]
  · rw [hcam]
    exact congrArg Camera.state hc5
  · rw [hcam]
    exact congrArg Camera.step hc5
  · rw [hcam, ← htick, ← hindex]
    exact congrArg (·.pending ++ [⟨tick, index, false⟩]) hc5
  · rw [hcam]
    exact congrArg (· + 1) hindex
  · rw [hcam]
    exact congrArg (·.gridN + 1) hc5
  · rw [hshown, hindex]
  · rw [← htick, ← hw]
    exact hout

end

/-! ### Camera power (03 R92) -/

section
variable {s : State} {p : Port}

theorem execPoclTrip_result {current : Nat} (hcams : s.cams.length = 4) (hpocl : (s.cam p).pocl = 2) (hover : 400 < current) :
    ∃ t, execPoclTrip p current s = .next t
      ∧ (t.cam p).pocl = (if 2 ≤ ((s.cam p).poclTrips.filter (fun u => s.clk < u + 60 * secTicks)).length then 4 else 3)
      ∧ (t.cam p).poclReapplyAt = s.clk + secTicks ∧ t.nat (camKey p 0x2307 9) = s.counted (camKey p 0x2307 9) := by
  unfold execPoclTrip
  dsimp only
  rw [if_neg (by simp [hpocl, hover])]
  refine ⟨_, rfl, ?_⟩
  rw [(raise_does ..).cam_eq, (bump_does ..).cam_eq, setCam_cam_self _ _ _ (Port.lt_length p hcams), (raise_keeps ..).nat_camKey p, nat_bump_self]
  exact ⟨if_congr Nat.succ_le_succ_iff rfl rfl, rfl, rfl⟩

theorem execPoclReapply_result (hcams : s.cams.length = 4) (hpocl : (s.cam p).pocl = 3) (hclk : s.clk ≤ (s.cam p).poclReapplyAt) :
    ∃ t, execPoclReapply p s = .next t ∧ t.clk = (s.cam p).poclReapplyAt ∧ (t.cam p).pocl = 2 := by
  unfold execPoclReapply
  dsimp only
  rw [if_neg (not_not.2 hpocl)]
  exact ⟨_, rfl, atClk_clk hclk, congrArg Camera.pocl (setCam_cam_self _ _ _ (Port.lt_length p hcams))⟩

theorem execPoclRearm_result {m : Master} (hcams : s.cams.length = 4) (hw : s.writable m (camKey p 0x2301 6) (.num 1) = true)
    (hpocl : (s.cam p).pocl = 4) :
    ∃ t, execPoclRearm m p s = .next t ∧ (t.cam p).pocl = (if s.nat (camKey p 0x2301 2) = 1 then 1 else 0) ∧ (t.cam p).poclTrips = []
      ∧ t.out = ack m (camKey p 0x2301 6) :: s.out := by
  have hact : actPoclRearm p s = _ := if_pos hpocl
  unfold execPoclRearm
  rw [write_accepted hw hact (setCam_does ..)]
  refine ⟨_, rfl, ?_⟩
  rw [(emit_does ..).cam_eq, setCam_cam_self _ _ _ (Port.lt_length p hcams)]
  exact ⟨rfl, rfl, rfl⟩

end

/-- Settles O6: each step of a start, its ends and the events of camera power, each from the lemma on its `exec` function. -/
theorem cameraStartResults : Obligations.CameraStartResults := by
  unfold Obligations.CameraStartResults
  exact ⟨fun _ _ _ hcams hw hbar hok hadm => execStartPort_result hcams hw hbar hok hadm,
    fun _ _ _ hcams hw hbar hok hpartner hadm => execStartPlane_result hcams hw hbar hok hpartner hadm,
    fun _ _ _ hcams hw hst hplane => execStopStream_starting hcams hw hst hplane,
    fun _ _ _ hcams hw hst hmode hframes hcc => execStopStream_streaming hcams hw hst hmode hframes hcc,
    fun _ _ _ _ hcams hpocl => execPoclDetectionDone_result hcams hpocl,
    fun _ _ _ hcams hup hstep hclk hlow hhigh hline => execPixelClockStable_result hcams hup hstep hclk hlow hhigh hline,
    fun _ _ hcams hstep hclk => execPixelClockTimeout_result hcams hstep hclk,
    fun _ _ hcams hstep hclk => execStartupBlockSent_result hcams hstep hclk,
    fun _ _ hcams hstep hplane hclk => execSettleElapsed_result hcams hstep hplane hclk,
    fun _ _ hcams hcc hstep hrun hcount => execLineTrigger_first hcams hcc hstep hrun hcount,
    fun _ _ _ hcams hpocl hover => execPoclTrip_result hcams hpocl hover,
    fun _ _ hcams hpocl hclk => execPoclReapply_result hcams hpocl hclk,
    fun _ _ _ hcams hw hpocl => execPoclRearm_result hcams hw hpocl⟩

end Sys2Proof.Machine
end


section
/-!
A camera port is lost, recovers and streams again.
-/
set_option Elab.async false
set_option linter.all false

namespace Sys2Proof.Machine

open Sys2Proof State

/-! ### Loss and recovery (03 R93, R94) -/

/-- What a lost port writes once its loss is counted. -/
abbrev afterLossKeys (p : Nat) : List KeySet :=
  .frames :: .events :: .one (obj 0x2600 7) :: .one (obj 0x2600 13) :: (fixKeys p ++ gradeKeys)

theorem afterLossKeys_loss (p : Port) : ∀ x ∈ afterLossKeys p, ¬x.has (camKey p 0x2307 8) := by
  simp only [List.cons_append, List.nil_append, List.mem_cons, List.not_mem_nil, or_false, forall_eq_or_imp, forall_eq, KeySet.has]
  revert p
  decide

section
variable {p : Port} {s : State}

/-- A streaming port that is lost: its camera, and the count of the loss. -/
theorem State.losePort_streaming (hcams : s.cams.length = 4) (hst : (s.cam p).state = .streaming) :
    (s.losePort p).cam p = { s.cam p with
      state := .lost, queue := [], recovering := false, consecutiveMissing := 0, lossGen := some (s.generationOf p (s.frameNow p))
      frames := (s.cam p).frames.map (fun f => { f with lostFlag := true, lossGen := some (f.lossGen.getD (s.generationOf p (s.frameNow p))) }) }
    ∧ (s.losePort p).nat (camKey p 0x2307 8) = s.counted (camKey p 0x2307 8) := by
  unfold State.losePort
  extract_lets +onlyGivenNames c
  rw [if_neg (not_not.2 hst)]
  extract_lets +onlyGivenNames g s1 s2
  generalize hs3 : (if p.val < 2 then (s2.settleFix p).predictFace p else s2.settleGrade p) = s3
  have hdoes : s2.Does portParts s3 := hs3 ▸ .ite (.via (predictFace_does ..) (.of (settleFix_does ..))) (.of (settleGrade_does ..))
  have hkeeps : (s1.bump (camKey p 0x2307 8)).Keeps (afterLossKeys p) s3 := by
    have h2 : (s1.bump (camKey p 0x2307 8)).Keeps (afterLossKeys p) s2 := .of (raise_keeps ..) (by simp)
    exact hs3 ▸ .ite (.via (predictFace_keeps ..) (.via (settleFix_keeps ..) h2 (by simp)) (by simp))
      (.via (settleGrade_keeps ..) h2 (by simp))
  constructor
  · rw [hdoes.cam_eq, (raise_does ..).cam_eq, (bump_does ..).cam_eq]
    exact setCam_cam_self _ _ _ (Port.lt_length p hcams)
  · rw [hkeeps.nat_eq (afterLossKeys_loss p), nat_bump_self]
    rfl

theorem execPixelClockLoss_result (hcams : s.cams.length = 4) (hst : (s.cam p).state = .streaming) (hstop : (s.cam p).stopping = false)
    (hline : (s.cam p).line = none) :
    ∃ t, execPixelClockLoss p s = .next t ∧ (t.cam p).state = .lost ∧ (t.cam p).queue = [] ∧ (t.cam p).sending = (s.cam p).sending
      ∧ (t.cam p).frames.all (fun f => f.lostFlag) = true ∧ t.nat (camKey p 0x2307 8) = s.counted (camKey p 0x2307 8) := by
  unfold execPixelClockLoss
  dsimp only
  rw [if_neg (by simp [hst]), hline]
  dsimp only
  obtain ⟨hcam, hcount⟩ := losePort_streaming hcams hst
  rw [settleStop_idle (by simp [hcam, hstop])]
  refine ⟨_, rfl, ?_⟩
  rw [hcam]
  refine ⟨rfl, rfl, rfl, ?_, hcount⟩
  rw [List.all_map]
  exact List.all_eq_true.2 fun _ _ => rfl

theorem execPortRecovery_result {kHz : Nat} (hcams : s.cams.length = 4) (hst : (s.cam p).state = .lost) (hrec : (s.cam p).recovering = false)
    (hlow : 20000 ≤ kHz) (hhigh : kHz ≤ 85000) :
    ∃ t, execPortRecovery p kHz s = .next t ∧ (t.cam p).recovering = true ∧ (t.cam p).clockKHz = kHz
      ∧ (t.cam p).settleEnd
        = s.clk + s.serialTicks p (s.byteVal (camKey p 0x2302 0x10)).length + s.nat (camKey p 0x2302 0x11) * msTicks
      ∧ (t.cam p).state = .lost := by
  unfold execPortRecovery
  extract_lets +onlyGivenNames c s1 block s2
  have hdoes1 : s.Does [.cams] s1 := .ite (.of (setCam_does ..)) .same
  have hlen1 : s1.cams.length = 4 := by
    unfold s1
    split
    · exact (List.length_set ..).trans hcams
    · exact hcams
  rw [if_neg (by simp [c, hst, hrec, hlow, hhigh])]
  generalize hs3 : (if block.isEmpty then s2 else s2.emit (.serial p block)) = s3
  have hdoes : s2.Does [.out] s3 := hs3 ▸ .ite .same (.of (emit_does ..))
  have hval : ∀ k, s1.val k = s.val k := fun k => (hdoes1.keeps_all).val k nofun
  have hblock : block = s.byteVal (camKey p 0x2302 0x10) := by
    unfold block State.byteVal
    rw [hval]
  have hticks : s1.serialTicks p block.length = s.serialTicks p (s.byteVal (camKey p 0x2302 0x10)).length := by
    unfold State.serialTicks
    rw [hdoes1.nat_eq, hblock]
  refine ⟨_, rfl, ?_⟩
  rw [hdoes.cam_eq, setCam_cam_self _ _ _ (Port.lt_length p hlen1), hticks, hdoes1.clk_eq, hdoes1.nat_eq]
  exact ⟨rfl, rfl, rfl, hst⟩

theorem execPortRejoin_result (hcams : s.cams.length = 4) (hst : (s.cam p).state = .lost) (hrec : (s.cam p).recovering = true)
    (hsettled : (s.cam p).settleEnd ≤ s.clk) (hframes : (s.cam p).frames.all (fun f => f.complete) = true) :
    ∃ t, execPortRejoin p s = .next t ∧ (t.cam p).state = .streaming ∧ (t.cam p).recovering = false ∧ (t.cam p).rejoinGen = true
      ∧ (t.cam p).nextFrame = (s.nextNumber p).getD (s.cam p).nextFrame := by
  unfold execPortRejoin
  dsimp only
  have hwhole : (s.cam p).frames.any (fun f => !f.complete) = false := by simpa using hframes
  rw [if_neg (by rw [hst, hrec, hwhole]; simp [hsettled])]
  refine ⟨_, rfl, ?_⟩
  rw [(raise_does ..).cam_eq, setCam_cam_self _ _ _ (Port.lt_length p hcams)]
  exact ⟨rfl, rfl, rfl, rfl⟩

end

/-- Settles O7: each event of the loss of a port from the lemma on its `exec` function. -/
theorem cameraLossResults : Obligations.CameraLossResults := by
  unfold Obligations.CameraLossResults
  exact ⟨fun _ _ hcams hst hstop hline => execPixelClockLoss_result hcams hst hstop hline,
    fun _ _ _ hcams hst hrec hlow hhigh => execPortRecovery_result hcams hst hrec hlow hhigh,
    fun _ _ hcams hst hrec hsettled hframes => execPortRejoin_result hcams hst hrec hsettled hframes⟩

end Sys2Proof.Machine
end


section
/-!
One sample in the engines: black level and flat-field.
-/
set_option Elab.async false
set_option linter.all false

namespace Sys2Proof.Machine

open Sys2Proof State

/-! ### Fields of a table -/

theorem ofLe_lt (l : List Byte) : ofLe l < 256 ^ l.length := by
  induction l with
  | nil => exact Nat.one_pos
  | cons b r ih =>
    have hb : b.toNat < 256 := b.isLt
    rw [ofLe, List.length_cons, pow_succ]
    omega

theorem field_lt (l : List Byte) (off n : Nat) : field l off n < 256 ^ n :=
  (ofLe_lt _).trans_le (Nat.pow_le_pow_right (by decide) (List.length_take_le ..))

theorem signedOf_two_bounds {v : Nat} (h : v < 65536) : -32768 ≤ signedOf 2 v ∧ signedOf 2 v ≤ 32767 := by
  unfold signedOf
  split
  · omega
  · omega

/-! ### Rounding and clamping -/

theorem roundDiv_near (a : Nat) {b : Nat} (hb : 0 < b) : 2 * |(b : Int) * (roundDiv a b : Nat) - a| ≤ b := by
  unfold roundDiv
  rw [if_neg hb.ne']
  have hdiv := Nat.div_add_mod (2 * a + b) (2 * b)
  have hmod := Nat.mod_lt (2 * a + b) (Nat.mul_pos two_pos hb)
  rw [Nat.mul_assoc] at hdiv
  generalize (2 * a + b) / (2 * b) = n at hdiv
  rw [← Nat.cast_mul]
  generalize b * n = x at hdiv
  have habs := abs_cases ((x : Int) - a)
  omega

theorem roundDiv_mul (a : Nat) {b : Nat} (hb : 0 < b) : roundDiv (a * b) b = a := by
  unfold roundDiv
  rw [if_neg hb.ne', show 2 * (a * b) + b = b + 2 * b * a by ring, Nat.add_mul_div_left _ _ (by omega), Nat.div_eq_of_lt (by omega), zero_add]

theorem clampI_toNat {hi : Int} (v : Int) : (((clampI 0 hi v).toNat : Nat) : Int) = max 0 (min hi v) := Int.toNat_of_nonneg (le_max_left ..)

/-! ### Stages 1 and 2 (04 R99) -/

section
variable (c : Context) (ch x i : Nat)

theorem Context.blackAt_bounds : -32768 ≤ c.blackAt ch x i ∧ c.blackAt ch x i ≤ 32767 := by
  unfold Context.blackAt
  split
  · decide
  · exact signedOf_two_bounds (field_lt ..)

theorem Context.gainAt_le : c.gainAt ch x i ≤ 65535 := by
  unfold Context.gainAt
  split
  · decide
  · exact Nat.le_of_lt_succ (field_lt ..)

/-- The sample after stage 1, s1 of R99. -/
def Context.stage1 (bits v : Nat) : Nat := (clampI 0 4095 ((workSample bits v : Int) - c.blackAt ch x i)).toNat

theorem Context.stage1_eq (bits v : Nat) :
    (c.stage1 ch x i bits v : Int) = max 0 (min 4095 ((workSample bits v : Int) - c.blackAt ch x i)) := clampI_toNat _

theorem Context.stage2_eq (bits v : Nat) :
    c.stage2 ch bits x i v = min 4095 (roundDiv (c.stage1 ch x i bits v * c.gainAt ch x i) 16384) := rfl

theorem Context.stage2_unit_gain {bits v : Nat} (h : c.gainAt ch x i = 16384) : c.stage2 ch bits x i v = c.stage1 ch x i bits v := by
  have hle := c.stage1_eq ch x i bits v
  rw [stage2_eq, h, roundDiv_mul _ (by decide)]
  omega

end

/-- Settles O44: the quotient of stage 2 from `roundDiv_near`, a gain of 1 from `roundDiv_mul`. -/
theorem flatFieldArithmetic : Obligations.FlatFieldArithmetic := by
  unfold Obligations.FlatFieldArithmetic
  intro c ch bits x i v
  obtain ⟨hlow, hhigh⟩ := c.blackAt_bounds ch x i
  have hnear := roundDiv_near (c.stage1 ch x i bits v * c.gainAt ch x i) (b := 16384) (by decide)
  rw [Nat.cast_mul] at hnear
  exact ⟨hlow, hhigh, c.gainAt_le ch x i, c.stage1 ch x i bits v, _, c.stage1_eq ch x i bits v, hnear, c.stage2_eq ch x i bits v,
    c.stage2_unit_gain ch x i⟩

end Sys2Proof.Machine
end


section
/-!
What an event leaves of the side-band, and writes whose action raises one.
-/
set_option Elab.async false
set_option linter.all false

namespace Sys2Proof.Machine

open Sys2Proof State

section
variable {s t : State} {m : Master} {k : Nat} {v : Val} {act : State → State × Nat}

/-! ### A master that reaches the block still does after an event -/

theorem State.queueEmcy_side (s : State) (e : Emcy) : ∃ q, (s.queueEmcy e).side = { s.side with emcy := q } := by
  unfold State.queueEmcy
  dsimp only
  split
  · exact ⟨_, rfl⟩
  · split
    · exact ⟨_, rfl⟩
    · exact ⟨_, rfl⟩

theorem State.raise_side (s : State) (code arg : Nat) : ∃ q, (s.raise code arg).side = { s.side with emcy := q } := by
  unfold State.raise State.raiseAs
  extract_lets +onlyGivenNames s1 s2 src s3
  have h1 : s1.side = s.side := (raiseLow_does ..).side_eq
  split
  · obtain ⟨q, h2⟩ := queueEmcy_side s1 ⟨genericCode code, code, severityOf code, arg % 65536⟩
    exact ⟨q, (severeTrigger_does ..).side_eq.trans (h2.trans (congrArg (fun x : Sideband => { x with emcy := q }) h1))⟩
  · exact ⟨_, h1⟩

theorem State.raise_reachable (s : State) (code arg : Nat) (m : Master) : (s.raise code arg).reachable m = s.reachable m := by
  obtain ⟨q, hside⟩ := raise_side s code arg
  unfold State.reachable State.nodeUp State.nodeOn State.canFed State.islandFed State.railsUp
  rw [(raise_does ..).module_eq, (raise_does ..).power_eq, hside]

/-! ### A write that comes to its object's own rule (14 R393) -/

theorem State.tryWrite_of_writable (hw : s.writable m k v = true) : s.tryWrite m k v act = act s := by
  obtain ⟨-, hcheck, hstage, hlock⟩ := writable_iff.1 hw
  unfold State.tryWrite State.lockRefuses
  dsimp only
  rw [if_neg (not_not.2 hcheck), if_neg (by rw [hstage]; exact nofun), if_neg (by rw [hlock]; exact nofun)]

/-- A write that passes every check is answered with what its object's own rule says. -/
theorem State.write_answered {c : Nat} (hw : s.writable m k v = true) (hact : act s = (t, c)) (hreach : t.reachable m = s.reachable m) :
    s.write m k v act = t.answer m k c [] := by
  have h := (writable_iff.1 hw).1
  unfold State.write
  rw [if_neg (by rw [h]; exact nofun), tryWrite_of_writable hw, hact]
  exact if_pos (hreach.trans h)

/-! ### Objects that events leave -/

/-- Events count in no object from 0x2300 up to the recorder's, 0x2D02. -/
theorem State.Keeps.nat_engines (h : s.Keeps [.frames, .events] t) (hlow : 0x2300 ≤ k / 256 := by decide) (hhigh : k / 256 < 0x2D02 := by decide) :
    t.nat k = s.nat k := by
  refine h.nat_eq ?_
  simp only [List.mem_cons, List.not_mem_nil, or_false, forall_eq_or_imp, forall_eq]
  refine ⟨fun h => ?_, fun h => ?_⟩
  · have := frames_has_lt h
    omega
  · have := events_has_div h
    omega

end

/-! ### Parts of the state that stand -/

section
variable {ps : List Part} {s t : State}

theorem State.Does.pipe_eq (h : s.Does ps t) (k : Part.pipe ∉ ps := by decide) : t.pipe = s.pipe := h.only .pipe k

theorem State.Does.freeCtr_eq (h : s.Does ps t) (k : Part.freeCtr ∉ ps := by decide) : t.freeCtr = s.freeCtr := h.only .freeCtr k

end

end Sys2Proof.Machine
end


section
/-!
Stripes of the Fix engine and frames of the Grade engine.
-/
set_option Elab.async false
set_option linter.all false

namespace Sys2Proof.Machine

open Sys2Proof State

/-! ### A stripe (04 R100, R102) -/

theorem State.setEngine_engine_self (s : State) (p : Nat) (e : EnginePort) (h : p < s.pipe.ports.length) : (s.setEngine p e).engine p = e :=
  getD_set_self _ _ _ _ h

section
variable {s : State}

theorem execFixStripe_result {p : Nat} {line : Line} {rest : List Line} (hpipe : s.pipe.shaped) (hport : s.stripePort = some p) (hp : p < 2)
    (hwait : (s.engine p).waiting = line :: rest) (hlen : (s.engine p).done.length + 64 < s.widthOf p) :
    ∃ t, execFixStripe s = .next t ∧ (t.engine p).done.length = (s.engine p).done.length + 64 ∧ (t.engine p).waiting = line :: rest
      ∧ t.cams = s.cams := by
  unfold execFixStripe
  rw [hport]
  dsimp -zeta only
  extract_lets +onlyGivenNames e
  split
  next h => exact absurd (hwait.symm.trans h) nofun
  next l r h =>
    extract_lets +onlyGivenNames both ch bits_ ref k t new done from_ src s1
    have hdone : done.length = e.done.length + 64 := by simp [done, new]
    rw [if_pos (show done.length < s1.widthOf p from lt_of_eq_of_lt hdone hlen)]
    have he := setEngine_engine_self s1 p { e with done := done } (show p < s.pipe.ports.length by rw [hpipe.1]; omega)
    refine ⟨_, rfl, ?_⟩
    rw [he]
    exact ⟨hdone, hwait, rfl⟩

/-! ### A swap takes effect (04 R127) -/

theorem State.swapBanks_pipe (s : State) (number : Option Nat) (port : Nat) :
    (s.swapBanks number port).pipe = { s.pipe with active := 1 - s.pipe.active, swapPending := false } := by
  unfold State.swapBanks
  extract_lets +onlyGivenNames a src s1 s2
  rw [(raise_does ..).pipe_eq, (bump_does ..).pipe_eq, (putNat_does ..).pipe_eq]
  unfold s2
  split
  · rfl
  · rfl

/-- The port and the count of a swap, and the number of the frame at which it takes effect where one gives it. -/
theorem State.swapBanks_nat (s : State) (number : Option Nat) (port : Nat) :
    (s.swapBanks number port).nat (obj 0x2500 5) = port ∧ (s.swapBanks number port).nat (obj 0x2500 6) = s.counted (obj 0x2500 6)
      ∧ ∀ n ∈ number, (s.swapBanks number port).nat (obj 0x2500 4) = n := by
  unfold State.swapBanks
  extract_lets +onlyGivenNames a src s1 s2
  have hraise := raise_keeps ((s2.putNat (obj 0x2500 5) port).bump (obj 0x2500 6)) 0x4009 a
  refine ⟨?_, ?_, fun n hn => ?_⟩
  · rw [hraise.nat_engines, nat_bump_other _ (by decide), nat_putNat_self]
  · have h2 : s2.nat (obj 0x2500 6) = s.nat (obj 0x2500 6) := by
      unfold s2
      split
      · exact nat_putNat_other s1 _ (by decide)
      · rfl
    rw [hraise.nat_engines, nat_bump_self, State.counted, nat_putNat_other _ _ (by decide), h2]
  · have h2 : s2 = s1.putNat (obj 0x2500 4) n := by
      unfold s2
      rw [Option.mem_def.1 hn]
    rw [hraise.nat_engines, nat_bump_other _ (by decide), nat_putNat_other _ _ (by decide), h2, nat_putNat_self]

/-! ### The frame part takes a frame (04 R109, R110) -/

theorem execGradeFrameTake_same_bank {f : GradeFrame} (hidle : s.pipe.current = none) (hnext : s.nextFrame = some f)
    (hswap : s.pipe.swapPending = false) :
    ∃ t, execGradeFrameTake s = .next t ∧ t.pipe.current.map (fun c => (c.1, c.2.1)) = some (f.port, f.record.number)
      ∧ t.pipe.frameBank = s.pipe.active ∧ t.pipe.active = s.pipe.active := by
  unfold execGradeFrameTake
  rw [hidle, hnext]
  dsimp -zeta only
  rw [hswap]
  exact ⟨_, rfl, rfl, rfl, rfl⟩

theorem execGradeFrameTake_swap {f : GradeFrame} (hidle : s.pipe.current = none) (hnext : s.nextFrame = some f)
    (hswap : s.pipe.swapPending = true) :
    ∃ t, execGradeFrameTake s = .next t ∧ t.pipe.active = 1 - s.pipe.active ∧ t.pipe.swapPending = false
      ∧ t.pipe.frameBank = 1 - s.pipe.active ∧ t.nat (obj 0x2500 4) = f.record.number ∧ t.nat (obj 0x2500 5) = f.port
      ∧ t.nat (obj 0x2500 6) = s.counted (obj 0x2500 6) := by
  obtain ⟨hport, hcount, hnumber⟩ := swapBanks_nat s (some f.record.number) f.port
  have hpipe := swapBanks_pipe s (some f.record.number) f.port
  unfold execGradeFrameTake
  rw [hidle, hnext]
  dsimp -zeta only
  rw [if_pos hswap]
  exact ⟨_, rfl, congrArg Pipeline.active hpipe, congrArg Pipeline.swapPending hpipe, congrArg Pipeline.active hpipe, hnumber _ rfl, hport, hcount⟩

end

/-! ### The frame part ends a frame (04 R110, R113, R115) -/

/-- The frame in work is the same, and no frame has been added or changed: frames leave as their buffers are released. -/
structure State.FramesKept (s t : State) : Prop where
  current : t.pipe.current = s.pipe.current
  frames : t.pipe.frames ⊆ s.pipe.frames

section
variable {ps : List Part} {r s t : State}

theorem State.FramesKept.refl (s : State) : s.FramesKept s := ⟨rfl, List.Subset.refl _⟩

theorem State.FramesKept.trans (h : r.FramesKept s) (k : s.FramesKept t) : r.FramesKept t :=
  ⟨k.current.trans h.current, List.Subset.trans k.frames h.frames⟩

theorem State.Does.framesKept (h : s.Does ps t) (k : Part.pipe ∉ ps := by decide) : s.FramesKept t :=
  ⟨congrArg Pipeline.current (h.pipe_eq k), by rw [h.pipe_eq k]; exact List.Subset.refl _⟩

theorem State.setEngine_framesKept (s : State) (p : Nat) (e : EnginePort) : s.FramesKept (s.setEngine p e) := ⟨rfl, List.Subset.refl _⟩

theorem State.releaseFrames_framesKept (s : State) : s.FramesKept s.releaseFrames := ⟨rfl, List.filter_subset' _⟩

theorem State.emitUpper_framesKept (p : Nat) (s : State) (frame : Nat) (cut atLimit : Bool) (b : Blob) :
    s.FramesKept (State.emitUpper p s frame cut atLimit b) := by
  unfold State.emitUpper
  extract_lets +onlyGivenNames s1 s2
  have h1 : s.Does [.od] s1 := .ite (.of (bump_does ..)) .same
  have h2 : s.FramesKept s2 := (Does.ite (.via (bump_does ..) h1) h1 : s.Does [.od] s2).framesKept
  split
  · exact h2
  · extract_lets +onlyGivenNames ch e x frames s3 claim src rec s4
    have h4 : s2.FramesKept s4 := ⟨rfl, List.Subset.refl _⟩
    exact (h2.trans h4).trans (bump_does ..).framesKept

theorem State.cutAll_framesKept (s : State) (p : Nat) {emit : Emit} (he : ∀ (t : State) f c a b, t.FramesKept (emit t f c a b)) :
    s.FramesKept (s.cutAll p emit) :=
  List.foldlRecOn (motive := s.FramesKept) _ _ (setEngine_framesKept ..) fun _ ht _ _ => ht.trans (he ..)

theorem State.pruneLines_framesKept (s : State) (p : Nat) : s.FramesKept (s.pruneLines p) := setEngine_framesKept ..

theorem State.settleGrade_framesKept (s : State) (p : Nat) : s.FramesKept (s.settleGrade p) := by
  unfold State.settleGrade
  split
  · exact .refl s
  · exact ((cutAll_framesKept s p (emitUpper_framesKept p)).trans (pruneLines_framesKept ..)).trans (releaseFrames_framesKept _)

theorem execGradeFrameDone_result {p n u : Nat} {ctx : Context} (hcur : s.pipe.current = some (p, n, ctx, u)) (hclk : s.clk ≤ u) :
    ∃ t, execGradeFrameDone s = .next t ∧ t.clk = u ∧ t.pipe.current = none
      ∧ ∀ f ∈ t.pipe.frames, f.port = p → f.record.number = n → f.finished = true := by
  unfold execGradeFrameDone
  rw [hcur]
  dsimp -zeta only
  extract_lets +onlyGivenNames s1 this
  have hclk1 : s1.clk = u := atClk_clk hclk
  have hother : ∀ f : GradeFrame, ¬this f = true → f.port = p → f.record.number = n → f.finished = true :=
    fun f hf hp hn => by simpa [this, hp, hn] using hf
  split
  next hnone => exact ⟨_, rfl, hclk1, rfl, fun f hf => hother f (List.find?_eq_none.1 hnone f hf)⟩
  next =>
    extract_lets +onlyGivenNames cost s2 src s3
    have h3 := ((pruneLines_framesKept s3 p).trans (releaseFrames_framesKept _)).trans (settleGrade_framesKept _ p)
    refine ⟨_, rfl, ?_, h3.current, fun f hf hp hn => ?_⟩
    · exact (((settleGrade_does ..).clk_eq.trans (releaseFrames_does ..).clk_eq).trans (pruneLines_does ..).clk_eq).trans
        ((gradeFrame_does ..).clk_eq.trans hclk1)
    · obtain ⟨g', -, rfl⟩ := List.mem_map.1 (h3.frames hf)
      by_cases hg' : this g' = true
      · rw [if_pos hg']
      · rw [if_neg hg'] at hp hn ⊢
        exact hother g' hg' hp hn

end

end Sys2Proof.Machine
end


section
/-!
The object part.
-/
set_option Elab.async false
set_option linter.all false

namespace Sys2Proof.Machine

open Sys2Proof State

section
variable {s : State}

/-! ### A job is taken (04 R116, R117) -/

theorem State.atClk_eq_max (s : State) (t : Nat) : (s.atClk t).clk = max s.clk t := by
  show s.clk + (t - s.clk) = max s.clk t
  omega

/-- The one local object that waits is taken at the clock at which its work can begin. -/
theorem State.takeJob_object {j : ObjJob} (hwork : s.pipe.objWork = none) (hchip : s.pipe.chipQueue = []) (hobj : s.pipe.objQueue = [j])
    (hstart : s.jobStart j.since ≤ s.clk) :
    s.takeJob.pipe.objWork = some j ∧ s.takeJob.pipe.chipQueue = [] ∧ s.takeJob.pipe.objQueue = []
      ∧ s.takeJob.pipe.objStart = s.jobStart j.since ∧ s.takeJob.jobCost j = s.jobCost j := by
  unfold State.takeJob
  rw [hwork, hchip, hobj]
  dsimp only
  unfold State.beginJob
  rw [if_neg (not_lt.2 hstart)]
  exact ⟨rfl, rfl, rfl, rfl, rfl⟩

theorem State.takeJob_idle (hchip : s.pipe.chipQueue = []) (hobj : s.pipe.objQueue = []) : s.takeJob = s := by
  unfold State.takeJob
  rw [hchip, hobj]
  cases s.pipe.objWork with
  | none => rfl
  | some => rfl

/-! ### A verdict is delivered (04 R129) -/

/-- The objects that a verdict counts in at the tracker. -/
abbrev verdictKeys : List KeySet :=
  [.one (obj 0x260E 5), .one (obj 0x260E 6), .one (obj 0x260E 7), .one (obj 0x260E 8), .one (obj 0x260E 9), .one (obj 0x260E 0x0A)]

theorem State.verdict_keeps (s : State) (sent : Option Nat) (handle epoch : Nat) (v : Nat × Nat × Nat) (bank model : Nat) :
    s.Keeps verdictKeys (s.verdict sent handle epoch v bank model) := by
  unfold State.verdict
  extract_lets +onlyGivenNames late
  split
  · exact .of (bump_keeps ..)
  · refine .ite (.of (bump_keeps ..)) (.ite ?_ ?_)
    · refine .via (putNat_keeps ..) ?_
      split
      · exact .of (bump_keeps ..)
      · exact .of (bump_keeps ..)
    · extract_lets +onlyGivenNames s1
      refine .past (sample_does ..) (.keep s1 (.past (setRec_does ..) .same) fun h1 => ?_)
      split
      · exact .via (bump_keeps ..) h1
      · exact .via (bump_keeps ..) h1

theorem State.post_keeps (s : State) (dest vc type : Nat) (words : List Nat) : s.Keeps [.frames, .events] (s.post dest vc type words) := by
  unfold State.post
  split
  exact .via (noteDropped_keeps ..) (Keeps.pair (by assumption) (.of (message_keeps ..)))

/-- What the delivery of a verdict counts besides the object and its class. -/
abbrev deliverKeys : List KeySet := .frames :: .events :: .one (obj 0x2405 8) :: .one (obj 0x2405 9) :: verdictKeys

/-- A verdict counts its object, then its class. -/
theorem State.deliver_keeps (s : State) (j : ObjJob) (v : Nat × Nat × Nat) (model : Nat) :
    ((s.bump (obj 0x2500 8)).bump (obj 0x2506 (v.1 + 1))).Keeps deliverKeys (s.deliver j v model) := by
  unfold State.deliver
  extract_lets +onlyGivenNames s1
  split
  · exact .via (post_keeps ..) (.of (bump_keeps ..))
  · exact .past (settleHandle_does ..) (.via (verdict_keeps ..) (.of (bump_keeps ..)))

theorem deliverKeys_not_classified : ∀ x ∈ deliverKeys, ¬x.has (obj 0x2500 8) := by
  simp only [List.mem_cons, List.not_mem_nil, or_false, forall_eq_or_imp, forall_eq, KeySet.has]
  decide

theorem State.deliver_counts (s : State) (j : ObjJob) (v : Nat × Nat × Nat) (model : Nat) :
    (s.deliver j v model).nat (obj 0x2500 8) = s.counted (obj 0x2500 8) := by
  rw [(deliver_keeps ..).nat_eq deliverKeys_not_classified, nat_bump_other _ (by unfold obj; omega), nat_bump_self]

/-- The queues and the work of the object part. -/
def Pipeline.objects (x : Pipeline) : List ObjJob × List ObjJob × Option ObjJob := (x.chipQueue, x.objQueue, x.objWork)

theorem State.deliver_objects (s : State) (j : ObjJob) (v : Nat × Nat × Nat) (model : Nat) :
    (s.deliver j v model).pipe.objects = s.pipe.objects := by
  unfold State.deliver
  extract_lets +onlyGivenNames s1
  have h1 : s1.pipe = s.pipe := (Does.via (bump_does ..) (.of (bump_does ..)) : s.Does [.od] s1).pipe_eq
  split
  · rw [(post_does ..).pipe_eq, (bump_does ..).pipe_eq, h1]
  · refine Eq.trans (b := ((s1.bump (obj 0x2405 8)).verdict none j.handle j.epoch v j.bank model).pipe.objects) rfl ?_
    rw [(verdict_does ..).pipe_eq, (bump_does ..).pipe_eq, h1]

/-! ### A job ends (04 R117 to R122) -/

/-- The end of the job in work: its verdict, and the next job is taken. -/
def State.endJob (s : State) (j : ObjJob) : State :=
  let image := (s.pipe.banks.getD j.bank {}).image
  let s := s.atClk (s.pipe.objStart + s.jobCost j)
  let s := { s with pipe := { s.pipe with objWork := none } }
  (s.draw.2.deliver j (classify image (features { edges := j.edges } image (Config.emptyFeature s.freeCtr) j.image)) (modelId image)).takeJob

theorem State.endJob_result {j : ObjJob} :
    (s.endJob j).clk = max s.clk (s.pipe.objStart + s.jobCost j) ∧ (s.endJob j).nat (obj 0x2500 8) = s.counted (obj 0x2500 8)
      ∧ (s.endJob j).freeCtr = s.freeCtr + 1 := by
  unfold State.endJob
  extract_lets +onlyGivenNames image s1 src s2
  have hnat : s2.draw.2.nat (obj 0x2500 8) = s.nat (obj 0x2500 8) := rfl
  refine ⟨?_, ?_, ?_⟩
  · rw [(takeJob_does ..).clk_eq, (deliver_does ..).clk_eq]
    exact atClk_eq_max ..
  · rw [(takeJob_does ..).nat_eq, deliver_counts, State.counted, hnat]
  · rw [(takeJob_does ..).freeCtr_eq, (deliver_does ..).freeCtr_eq]
    rfl

theorem State.endJob_idle {j : ObjJob} (hchip : s.pipe.chipQueue = []) (hobj : s.pipe.objQueue = []) :
    (s.endJob j).pipe.objQueue = [] ∧ (s.endJob j).pipe.objWork = none := by
  unfold State.endJob
  extract_lets +onlyGivenNames image s1 src s2
  have hobjects := deliver_objects s2.draw.2 j
    (classify image (features { edges := j.edges } image (Config.emptyFeature s2.freeCtr) j.image)) (modelId image)
  have h2 : s2.draw.2.pipe.objects = ([], [], none) := by
    show (s.pipe.chipQueue, s.pipe.objQueue, none) = _
    rw [hchip, hobj]
  obtain ⟨hc, hrest⟩ := Prod.mk.inj (hobjects.trans h2)
  obtain ⟨ho, hw⟩ := Prod.mk.inj hrest
  rw [takeJob_idle hc ho]
  exact ⟨ho, hw⟩

theorem execObjectClassified_working {j : ObjJob} (hwork : s.pipe.objWork = some j) : execObjectClassified s = .next (s.endJob j) := by
  unfold execObjectClassified
  extract_lets +onlyGivenNames since s1
  have h1 : s1 = s := by
    unfold s1
    rw [hwork]
  clear_value s1
  subst h1
  rw [hwork]
  rfl

theorem execObjectClassified_result {j : ObjJob} (hwork : s.pipe.objWork = some j) (hclk : s.clk ≤ s.pipe.objStart + s.jobCost j) :
    ∃ t, execObjectClassified s = .next t ∧ t.clk = s.pipe.objStart + s.jobCost j ∧ t.nat (obj 0x2500 8) = s.counted (obj 0x2500 8)
      ∧ t.freeCtr = s.freeCtr + 1 := by
  obtain ⟨hc, hn, hf⟩ := endJob_result (s := s) (j := j)
  exact ⟨_, execObjectClassified_working hwork, hc.trans (max_eq_right hclk), hn, hf⟩

theorem execObjectClassified_waiting {j : ObjJob} (hwork : s.pipe.objWork = none) (hchip : s.pipe.chipQueue = []) (hobj : s.pipe.objQueue = [j])
    (htaken : (s.atClk (s.jobStart j.since)).takeJob.pipe.objWork = some j) :
    execObjectClassified s = .next ((s.atClk (s.jobStart j.since)).takeJob.endJob j) := by
  unfold execObjectClassified
  extract_lets +onlyGivenNames since s1
  have h1 : s1 = (s.atClk (s.jobStart j.since)).takeJob := by
    unfold s1 since
    rw [hwork, hchip, hobj]
  rw [← h1] at htaken ⊢
  clear_value s1
  rw [htaken]
  rfl

theorem execObjectClassified_taken {j : ObjJob} (hwork : s.pipe.objWork = none) (hchip : s.pipe.chipQueue = []) (hobj : s.pipe.objQueue = [j]) :
    ∃ t, execObjectClassified s = .next t ∧ t.clk = max s.clk (s.jobStart j.since + s.jobCost j) ∧ t.pipe.objQueue = [] ∧ t.pipe.objWork = none
      ∧ t.nat (obj 0x2500 8) = s.counted (obj 0x2500 8) ∧ t.freeCtr = s.freeCtr + 1 := by
  have hclk := atClk_eq_max s (s.jobStart j.since)
  obtain ⟨hw, hc, ho, hstart, hcost⟩ :=
    takeJob_object (s := s.atClk (s.jobStart j.since)) hwork hchip hobj ((le_max_right ..).trans_eq hclk.symm)
  have hexec := execObjectClassified_waiting hwork hchip hobj hw
  have hdoes : s.Does [.clk, .time, .pipe] (s.atClk (s.jobStart j.since)).takeJob := .via (takeJob_does ..) (.of (atClk_does ..))
  rw [← (takeJob_does ..).clk_eq] at hclk
  generalize (s.atClk (s.jobStart j.since)).takeJob = s1 at *
  obtain ⟨hend, hcount, hdraw⟩ := endJob_result (s := s1) (j := j)
  obtain ⟨hqueue, hidle⟩ := endJob_idle (j := j) hc ho
  refine ⟨_, hexec, ?_, hqueue, hidle, ?_, ?_⟩
  · rw [hend, hclk, hstart, hcost]
    exact (max_assoc ..).trans (congrArg _ (max_eq_right (Nat.le_add_right ..)))
  · rw [hcount, State.counted, hdoes.nat_eq]
  · rw [hdraw, hdoes.freeCtr_eq]

end

end Sys2Proof.Machine
end


section
/-!
Context tables, classifier banks and library loads.
-/
set_option Elab.async false
set_option linter.all false

namespace Sys2Proof.Machine

open Sys2Proof State

section
variable {s : State} {m : Master}

/-! ### Context tables (04 R101) -/

/-- A table stands with the next table version. -/
theorem State.putTable_result {p sub : Nat} {v : Val} (hsub : sub ≤ 10) :
    (s.putTable p sub v).val (obj (0x2410 + 16 * p) sub) = v
      ∧ (s.putTable p sub v).nat (obj (0x2410 + 16 * p) 0x0B) = (s.nat (obj (0x2410 + 16 * p) 0x0B) + 1) % 2 ^ 32 := by
  unfold State.putTable
  extract_lets +onlyGivenNames k s1 ver s2 s3
  have hver : s2.nat (obj k 0x0B) = (s.nat (obj k 0x0B) + 1) % 2 ^ 32 := by
    rw [nat_putNat_self]
    exact congrArg (fun n => (n + 1) % 2 ^ 32) (nat_congr (val_put_other _ _ (by unfold obj; omega)))
  have hval : s2.val (obj k sub) = v := (val_put_other _ _ (by unfold obj; omega)).trans (val_put_self ..)
  have hother : ∀ j, j ≤ 0x0B → ∀ x ∈ [KeySet.one (obj k 0x0C)], ¬x.has (obj k j) := by
    simp only [List.mem_singleton, forall_eq, KeySet.has]
    unfold obj
    omega
  have hkeeps : ∀ t, s2.Keeps [.one (obj k 0x0C)] t → t.val (obj k sub) = v ∧ t.nat (obj k 0x0B) = (s.nat (obj k 0x0B) + 1) % 2 ^ 32 :=
    fun t h => ⟨(h.val _ (hother sub (by omega))).trans hval, (h.nat_eq (hother 0x0B le_rfl)).trans hver⟩
  have h3 : s2.Keeps [.one (obj k 0x0C)] s3 := .ite (putNat_keeps ..) .same
  exact hkeeps _ (.ite (Keeps.parts _ rfl rfl rfl rfl h3) h3)

theorem execContextTableWrite_result {p : Port} {sub : Nat} {v : Val} (hw : s.writable m (obj (0x2410 + 16 * p) sub) v = true) (hsub : sub ≤ 10) :
    ∃ t, execContextTableWrite m p sub v s = .next t ∧ t.val (obj (0x2410 + 16 * p) sub) = v
      ∧ t.nat (obj (0x2410 + 16 * p) 0x0B) = (s.nat (obj (0x2410 + 16 * p) 0x0B) + 1) % 2 ^ 32
      ∧ t.out = ack m (obj (0x2410 + 16 * p) sub) :: s.out := by
  obtain ⟨hval, hver⟩ := putTable_result (s := s) (p := p) (v := v) hsub
  unfold execContextTableWrite
  rw [write_accepted hw rfl (putTable_does ..)]
  exact ⟨_, rfl, hval, hver, congrArg _ (putTable_does ..).out_eq⟩

/-! ### Bank images (04 R125) -/

theorem setBank_getD {x : Pipeline} {bank : Nat} (hpipe : x.shaped) (hbank : bank < 2) (b : Bank) : (x.banks.set bank b).getD bank {} = b :=
  getD_set_self _ _ _ _ (hbank.trans_eq hpipe.2.symm)

theorem State.takeImage_pipe (s : State) (bank : Nat) (image : List Byte) :
    (s.takeImage bank image).1.pipe
      = { s.pipe with banks := s.pipe.banks.set bank { s.pipe.banks.getD bank {} with image := image, valid := bankValid image } } := by
  unfold State.takeImage
  dsimp only
  split
  · rfl
  · exact (raise_does ..).pipe_eq

theorem State.takeImage_reachable (s : State) (bank : Nat) (image : List Byte) (m : Master) :
    (s.takeImage bank image).1.reachable m = s.reachable m := by
  unfold State.takeImage
  dsimp only
  split
  · rfl
  · exact raise_reachable ..

theorem execBankImageWrite_result {bank : Nat} {image : List Byte} (hpipe : s.pipe.shaped) (hbank : bank < 2)
    (hw : s.writable m (obj (0x2501 + bank) 1) (.bytes image) = true) (hopen : s.bankClosed bank = false) :
    ∃ t, execBankImageWrite m bank image s = .next t
      ∧ t.pipe.banks.getD bank {} = { s.pipe.banks.getD bank {} with image := image, valid := bankValid image }
      ∧ t.out.head? = some (.reply m (0x2501 + bank) 1 (if bankValid image then 0 else abortData) []) := by
  have hact : actBankImage bank image s = ((s.takeImage bank image).1, if bankValid image then 0 else abortData) := by
    unfold actBankImage
    rw [hopen]
    rfl
  have hindex : obj (0x2501 + bank) 1 / 256 = 0x2501 + bank ∧ obj (0x2501 + bank) 1 % 256 = 1 := by
    unfold obj
    omega
  unfold execBankImageWrite
  rw [write_answered hw hact (takeImage_reachable ..)]
  refine ⟨_, rfl, ?_, ?_⟩
  · rw [(answer_does ..).pipe_eq, takeImage_pipe]
    exact setBank_getD hpipe hbank _
  · unfold State.answer
    rw [hindex.1, hindex.2]
    rfl

/-! ### Library loads (04 R125) -/

theorem getD_modify_self {α : Type} (l : List α) {i : Nat} (f : α → α) (d : α) (h : i < l.length) : (l.modify i f).getD i d = f (l.getD i d) := by
  simp [List.getD_eq_getElem?_getD, List.getElem?_modify, h]

theorem execLibraryLoad_result {bank slot : Nat} (hpipe : s.pipe.shaped) (hbank : bank < 2)
    (hw : s.writable m (obj (0x2501 + bank) 6) (.num slot) = true) (hopen : s.bankClosed bank = false) :
    ∃ t, execLibraryLoad m bank slot s = .next t ∧ (t.pipe.banks.getD bank {}).loading = some (slot, s.clk)
      ∧ t.out = ack m (obj (0x2501 + bank) 6) :: s.out := by
  have hact : actLibraryLoad bank slot s = _ := if_neg (by rw [hopen]; exact nofun)
  have hdoes := actLibraryLoad_does bank slot s
  unfold execLibraryLoad
  rw [write_accepted hw hact (by rw [hact] at hdoes; exact hdoes)]
  refine ⟨_, rfl, ?_, ?_⟩
  · rw [(emit_does ..).pipe_eq, (fwStart_does ..).pipe_eq]
    exact congrArg Bank.loading (setBank_getD hpipe hbank _)
  · exact congrArg _ (fwStart_does ..).out_eq

theorem execLibraryLoadDone_result {bank slot u : Nat} (hload : (s.pipe.banks.getD bank {}).loading = some (slot, u))
    (hchannel : s.fwBarred 1 = false) :
    ∃ t, execLibraryLoadDone bank s = .next t ∧ t.pipe.banks.getD bank {}
      = { image := s.update.library.getD slot [], valid := bankValid (s.update.library.getD slot []), loading := none } := by
  have hbank : bank < s.pipe.banks.length := by
    by_contra h
    rw [List.getD_eq_default _ _ (not_lt.1 h)] at hload
    exact absurd hload nofun
  unfold execLibraryLoadDone
  rw [hload]
  dsimp -zeta only
  rw [if_neg (by rw [hchannel]; exact nofun)]
  refine ⟨_, rfl, ?_⟩
  rw [(fwEnd_does ..).pipe_eq]
  dsimp only
  rw [takeImage_pipe, getD_modify_self _ _ _ ((List.length_set ..).symm ▸ hbank), getD_set_self _ _ _ _ hbank]

/-! ### A swap is requested (04 R127) -/

theorem State.swapBanks_reachable (s : State) (number : Option Nat) (port : Nat) (m : Master) :
    (s.swapBanks number port).reachable m = s.reachable m := by
  unfold State.swapBanks
  extract_lets +onlyGivenNames a src s1 s2
  have h1 : s.Does [.od, .pipe] s1 := .of (Does.pipe _ id)
  have h2 : s.Does [.od, .pipe] s2 := by
    unfold s2
    split
    · exact .via (putNat_does ..) h1
    · exact h1
  exact (raise_reachable ..).trans (Does.reachable_eq (.via (bump_does ..) (.via (putNat_does ..) h2)) m)

theorem execBankSwapRequest_result (hw : s.writable m (obj 0x2500 2) (.num 1) = true)
    (hvalid : (s.pipe.banks.getD (1 - s.pipe.active) {}).valid = true) (hswap : s.pipe.swapPending = false) (hold : s.oldBankInUse = false)
    (hidle : s.pipe.current = none) :
    ∃ t, execBankSwapRequest m s = .next t ∧ t.pipe.active = 1 - s.pipe.active ∧ t.nat (obj 0x2500 5) = 0xFF
      ∧ t.nat (obj 0x2500 6) = s.counted (obj 0x2500 6) ∧ t.out.head? = some (ack m (obj 0x2500 2)) := by
  have hact : actBankSwap s = (s.swapBanks none 0xFF, 0) := by
    unfold actBankSwap
    rw [hvalid, hswap, hold, hidle]
    rfl
  obtain ⟨hport, hcount, -⟩ := swapBanks_nat s none 0xFF
  unfold execBankSwapRequest
  rw [write_answered hw hact (swapBanks_reachable ..)]
  exact ⟨_, rfl, congrArg Pipeline.active (swapBanks_pipe ..), hport, hcount, rfl⟩

end

/-- Settles O8: each command of the engines from the lemma on its `exec` function. -/
theorem pipelineResults : Obligations.PipelineResults := by
  unfold Obligations.PipelineResults
  exact ⟨fun _ _ _ _ hpipe hport hp hwait hlen => execFixStripe_result hpipe hport hp hwait hlen,
    fun _ _ hidle hnext hswap => execGradeFrameTake_same_bank hidle hnext hswap,
    fun _ _ hidle hnext hswap => execGradeFrameTake_swap hidle hnext hswap,
    fun _ _ _ _ _ hcur hclk => execGradeFrameDone_result hcur hclk,
    fun _ _ hwork hchip hobj => execObjectClassified_taken hwork hchip hobj,
    fun _ _ hwork hclk => execObjectClassified_result hwork hclk,
    fun _ _ _ _ _ hw hsub => execContextTableWrite_result hw hsub,
    fun _ _ _ _ hpipe hbank hw hopen => execBankImageWrite_result hpipe hbank hw hopen,
    fun _ _ _ _ hpipe hbank hw hopen => execLibraryLoad_result hpipe hbank hw hopen,
    fun _ _ _ _ _ hload hchannel => execLibraryLoadDone_result hload hchannel,
    fun _ _ hw hvalid hswap hold hidle => execBankSwapRequest_result hw hvalid hswap hold hidle⟩

end Sys2Proof.Machine
end


section
/-!
Captures.
-/
set_option Elab.async false
set_option linter.all false

namespace Sys2Proof.Machine

open Sys2Proof State

section
variable {s : State} {m : Master}

/-! ### A capture begins (04 R130) -/

/-- The ports of a capture: those selected in 0x2404:02 that stream. -/
abbrev State.capturePorts (s : State) : List Nat :=
  [0, 1, 2, 3].filter (fun p => bitOf (s.nat (obj 0x2404 2)) p && (s.cam p).state == .streaming)

theorem actCapture_accepted {code : Nat} (hcode : code ≠ 0) (hfree : s.pipe.capture = none) (hstate : code < 3 → s.module.state ≠ .sorting) :
    actCapture code s = ((s.putNat (obj 0x2404 1) code).startCapture code (s.nat (obj 0x2404 2)), 0) := by
  unfold actCapture State.keep
  rw [hfree, if_neg (by simpa using fun _ => hstate), if_neg hcode, nat_putNat_other _ _ (by decide)]

/-- A capture runs from its acceptance, with status 1 and cause 0. -/
def State.withCapture (s : State) (c : Capture) : State :=
  { s with pipe := { s.pipe with capture := some c, captureStatus := 1, captureCause := 0 } }

theorem State.withCapture_does (s : State) (c : Capture) : s.Does [.pipe] (s.withCapture c) := Does.pipe _ id

/-- A capture that finds a port begins now. -/
theorem State.startCapture_begins {code sel : Nat} (hports : ([0, 1, 2, 3].filter (fun p => bitOf sel p && (s.cam p).state == .streaming)) ≠ []) :
    ∃ ports, s.startCapture code sel = s.withCapture ⟨code, s.clk, ports⟩ := by
  unfold State.startCapture
  exact ⟨_, if_neg (by simpa using hports)⟩

/-- A capture command that is accepted. -/
theorem writeCapture_begins {code : Nat} (hw : s.writable m (obj 0x2404 1) (.num code) = true) (hcode : code ≠ 0) (hfree : s.pipe.capture = none)
    (hstate : code < 3 → s.module.state ≠ .sorting) (hports : s.capturePorts ≠ []) :
    ∃ t, s.write m (obj 0x2404 1) (.num code) (actCapture code) = t
      ∧ t.pipe.capture.map (fun c => (c.code, c.started)) = some (code, s.clk) ∧ t.pipe.captureStatus = 1 ∧ t.pipe.captureCause = 0
      ∧ t.out = ack m (obj 0x2404 1) :: s.out := by
  obtain ⟨ports, hbegin⟩ := startCapture_begins (s := s.putNat (obj 0x2404 1) code) (code := code) hports
  have hact := (actCapture_accepted hcode hfree hstate).trans (congrArg (·, 0) hbegin)
  have hdoes : ∀ c, s.Does [.od, .pipe] ((s.putNat (obj 0x2404 1) code).withCapture c) :=
    fun c => .via (withCapture_does _ c) (.of (putNat_does ..))
  exact ⟨_, write_accepted hw hact (hdoes _), rfl, rfl, rfl, rfl⟩

theorem execCaptureDark_result (hw : s.writable m (obj 0x2404 1) (.num 1) = true) (hfree : s.pipe.capture = none)
    (hstate : s.module.state ≠ .sorting) (hports : s.capturePorts ≠ []) :
    ∃ t, execCaptureDark m s = .next t ∧ t.pipe.capture.map (fun c => (c.code, c.started)) = some (1, s.clk) ∧ t.pipe.captureStatus = 1
      ∧ t.pipe.captureCause = 0 ∧ t.out = ack m (obj 0x2404 1) :: s.out := by
  obtain ⟨t, ht, hbegun⟩ := writeCapture_begins hw (by decide) hfree (fun _ => hstate) hports
  exact ⟨t, congrArg _ ht, hbegun⟩

theorem execCaptureGrey_result (hw : s.writable m (obj 0x2404 1) (.num 2) = true) (hfree : s.pipe.capture = none)
    (hstate : s.module.state ≠ .sorting) (hports : s.capturePorts ≠ []) :
    ∃ t, execCaptureGrey m s = .next t ∧ t.pipe.capture.map (fun c => (c.code, c.started)) = some (2, s.clk) ∧ t.pipe.captureStatus = 1
      ∧ t.pipe.captureCause = 0 ∧ t.out = ack m (obj 0x2404 1) :: s.out := by
  obtain ⟨t, ht, hbegun⟩ := writeCapture_begins hw (by decide) hfree (fun _ => hstate) hports
  exact ⟨t, congrArg _ ht, hbegun⟩

theorem execCaptureBackdrop_result (hw : s.writable m (obj 0x2404 1) (.num 3) = true) (hfree : s.pipe.capture = none)
    (hports : s.capturePorts ≠ []) :
    ∃ t, execCaptureBackdrop m s = .next t ∧ t.pipe.capture.map (fun c => (c.code, c.started)) = some (3, s.clk) ∧ t.pipe.captureStatus = 1
      ∧ t.pipe.captureCause = 0 ∧ t.out = ack m (obj 0x2404 1) :: s.out := by
  obtain ⟨t, ht, hbegun⟩ := writeCapture_begins hw (by decide) hfree (fun h => absurd h (by decide)) hports
  exact ⟨t, congrArg _ ht, hbegun⟩

/-! ### A capture ends (04 R131) -/

theorem State.captureEnds_result (cause : Nat) (hcal : s.module.cal = none) :
    (s.captureEnds cause).pipe = { s.pipe with capture := none, captureStatus := if cause = 0 then 2 else 3, captureCause := cause }
      ∧ (s.captureEnds cause).clk = s.clk := by
  unfold State.captureEnds
  extract_lets +onlyGivenNames s1
  have hmodule : s1.module = s.module := (endCapture_does ..).module_eq
  rw [hmodule, hcal]
  exact ⟨(raise_does ..).pipe_eq, (endCapture_does ..).clk_eq⟩

theorem execCaptureComplete_result {c : Capture} (hrun : s.pipe.capture = some c) (hcal : s.module.cal = none)
    (hstream : c.ports.all (fun q => (s.cam q.port).state == .streaming) = true)
    (hlines : c.ports.all (fun q => decide (2 * s.nat (obj 0x2404 3) ≤ q.lines.length)) = true)
    (htables : c.ports.all (fun q => (s.captureTable c.code q).2 == 0) = true) :
    ∃ t, execCaptureComplete s = .next t ∧ t.pipe.capture = none ∧ t.pipe.captureStatus = 2 ∧ t.pipe.captureCause = 0 := by
  unfold execCaptureComplete
  rw [hrun]
  dsimp -zeta only
  rw [if_neg (by simpa using hstream), if_neg (by simpa using hlines)]
  extract_lets +onlyGivenNames tables
  have hgood : tables.find? (fun t => t.2.2 != 0) = none := by simpa [tables] using htables
  rw [hgood]
  dsimp -zeta only
  extract_lets +onlyGivenNames s1
  have h1 : s.Does [.od, .pipe] s1 := Does.foldl (fun _ _ => putTable_does ..) .same
  obtain ⟨hpipe, -⟩ := captureEnds_result (s := s1) 0 (by rw [h1.module_eq, hcal])
  refine ⟨_, rfl, ?_⟩
  rw [hpipe]
  exact ⟨rfl, rfl, rfl⟩

/-- A capture that fails at an instant still to come. -/
theorem State.captureEnds_at {u : Nat} (hcal : s.module.cal = none) (hclk : s.clk ≤ u) :
    ((s.atClk u).captureEnds 2).clk = u ∧ ((s.atClk u).captureEnds 2).pipe.capture = none
      ∧ ((s.atClk u).captureEnds 2).pipe.captureStatus = 3 ∧ ((s.atClk u).captureEnds 2).pipe.captureCause = 2 := by
  obtain ⟨hpipe, hend⟩ := captureEnds_result (s := s.atClk u) 2 hcal
  rw [hend, hpipe]
  exact ⟨atClk_clk hclk, rfl, rfl, rfl⟩

theorem execCaptureTimeout_result {c : Capture} (hrun : s.pipe.capture = some c) (hcal : s.module.cal = none)
    (hclk : s.clk ≤ c.started + 2 * secTicks) :
    ∃ t, execCaptureTimeout s = .next t ∧ t.clk = c.started + 2 * secTicks ∧ t.pipe.capture = none ∧ t.pipe.captureStatus = 3
      ∧ t.pipe.captureCause = 2 := by
  have hexec : execCaptureTimeout s = .next ((s.atClk (c.started + 2 * secTicks)).captureEnds 2) := by
    unfold execCaptureTimeout
    rw [hrun]
  exact ⟨_, hexec, captureEnds_at hcal hclk⟩

end

/-- Settles O9: the start, the end and the limit of a capture, each from the lemma on its `exec` function. -/
theorem captureResults : Obligations.CaptureResults := by
  unfold Obligations.CaptureResults
  exact ⟨fun _ _ hw hfree hstate hports => execCaptureDark_result hw hfree hstate hports,
    fun _ _ hw hfree hstate hports => execCaptureGrey_result hw hfree hstate hports,
    fun _ _ hw hfree hports => execCaptureBackdrop_result hw hfree hports,
    fun _ _ hrun hcal hstream hlines htables => execCaptureComplete_result hrun hcal hstream hlines htables,
    fun _ _ hrun hcal hclk => execCaptureTimeout_result hrun hcal hclk⟩

end Sys2Proof.Machine
end


section
/-!
The frames of the tracker, verdicts and Ferry.
-/
set_option Elab.async false
set_option linter.all false

namespace Sys2Proof.Machine

open Sys2Proof State

/-! ### Which objects the operations of the tracker write -/

/-- What a chip that is issued again counts in (05 R168, R169). -/
abbrev reissueKeys : List KeySet :=
  [.frames, .events, .one (obj 0x260E 2), .one (obj 0x260E 3), .one (obj 0x260E 15), .one (obj 0x260E 1)]

/-- What the placement of an object counts in (05 R166). -/
abbrev placeKeys : List KeySet :=
  [.frames, .events, .one (obj 0x2405 10), .one (obj 0x2206 13), .one (obj 0x260E 4), .one (obj 0x260E 1)]

/-- What the prediction of a record from its upper sighting alone counts in (05 R151). -/
abbrev aloneKeys : List KeySet := [.frames, .events, .one (obj 0x2600 7), .one (obj 0x2600 13)]

/-- What one request of a record counts in (05 R163, R164). -/
abbrev fireKeys : List KeySet :=
  [.frames, .events, .one (obj 0x2600 15), .one (obj 0x2700 5), .one (obj 0x2107 5), .one (obj 0x2700 15), .one (obj 0x2700 16),
   .one (obj 0x2700 17), .one (obj 0x2700 12), .one (obj 0x2700 14), .one (obj 0x2700 6), .one (obj 0x2700 9), .one (obj 0x2700 8),
   .one (obj 0x2700 13), .one (obj 0x260F 2), .one (obj 0x260F 1), .valves 0x2726]

theorem State.twins_keeps (s : State) (x : Sighting) : s.Keeps [.one (obj 0x2602 9)] (s.twins x) := by
  unfold State.twins
  exact .via (bumpBy_keeps ..) (Keeps.parts _ rfl rfl rfl rfl .same)

theorem State.tableFull_keeps (s : State) : s.Keeps [.frames, .events, .one (obj 0x2600 8)] s.tableFull :=
  .via (raiseSlow_keeps ..) (.of (bump_keeps ..))

theorem State.learn_keeps (s : State) (face group : Nat) (u f : Sighting) : s.Keeps [.frames, .events] (s.learn face group u f) := by
  unfold State.learn
  refine .ite .same ?_
  extract_lets +onlyGivenNames p tp vu w k p' src s1
  have h1 : s.Keeps [.frames, .events] s1 := Keeps.parts _ rfl rfl rfl rfl .same
  exact .ite (.via (raise_keeps ..) h1) h1

theorem State.queueObject_keeps (s : State) (j : ObjJob) (x : Sighting) :
    s.Keeps [.frames, .events, .one (obj 0x2405 10)] (s.queueObject j x) := by
  unfold State.queueObject
  extract_lets +onlyGivenNames s1 j1
  refine .keep s1 (.past (takeJob_does ..) .same) fun h1 => ?_
  exact .ite (.past (takeJob_does ..) (.past (claimFor_does ..) (Keeps.parts _ rfl rfl rfl rfl h1)))
    (.via (raiseSlow_keeps ..) (.via (bump_keeps ..) (.past (settleSighting_does ..) h1)))

theorem State.sendChip_keeps (s : State) (target : Nat) (r : Rec) (m : ObjImage) : s.Keeps [.frames, .events] (s.sendChip target r m) :=
  Keeps.foldl (fun _ _ => post_keeps ..) .same

theorem State.placeObject_keeps (s : State) (r : Rec) (x : Sighting) (m : ObjImage) : s.Keeps placeKeys (s.placeObject r x m) := by
  unfold State.placeObject
  extract_lets +onlyGivenNames src s1 job
  refine .keep s1 (Keeps.parts _ rfl rfl rfl rfl .same) fun h1 => ?_
  refine .ite (.via (queueObject_keeps ..) h1) (.ite (.via (queueObject_keeps ..) (.via (bump_keeps ..) h1))
    (.ite (.via (queueObject_keeps ..) (.via (bump_keeps ..) h1)) ?_))
  exact .past (settleSighting_does ..) (.via (bump_keeps ..) (.via (sendChip_keeps ..) (.past (setRec_does ..) h1)))

theorem State.placeIfLive_keeps (s : State) (h : Nat) (x : Sighting) (m : ObjImage) : s.Keeps placeKeys (s.placeIfLive h x m) := by
  unfold State.placeIfLive
  split
  · exact placeObject_keeps ..
  · exact .same

theorem State.predictIfLost_keeps (s : State) (h : Nat) : s.Keeps aloneKeys (s.predictIfLost h) := by
  unfold State.predictIfLost
  split
  · exact .ite (predictUpperAlone_keeps ..) .same
  · exact .same

/-- An own valve that a position names. -/
theorem State.valveAt_own {s : State} {k : Int} (h : 0 ≤ k ∧ k < s.valveCount) : s.valveAt k = some (s.strand.id, k.toNat) := by
  unfold State.valveAt
  rw [if_neg (by omega), if_pos h.2]

theorem requestKeys_cov {v : Nat} (h : v < 256) : Cov (requestKeys v) fireKeys :=
  .append (is := [.frames, .events, .one (obj 0x2700 5), .one (obj 0x2107 5), .one (obj 0x2700 15), .one (obj 0x2700 16), .one (obj 0x2700 17)])
    (.of_subset (by decide)) (.more (.valve h (by decide)) (.of_subset (by decide)))

theorem State.fireOne_keeps (s : State) (r : Rec) (conf : Nat) (v : ValvePos) : s.Keeps fireKeys (s.fireOne r conf v).1 := by
  unfold State.fireOne
  extract_lets +onlyGivenNames e
  split
  · exact .same
  · next id k hk =>
    split
    · next hown =>
      rw [valveAt_own hown, Option.some.injEq, Prod.mk.injEq] at hk
      have hlt : k < 256 := by
        have := s.valveCount_le
        omega
      exact Keeps.step (request_keeps ..) (requestKeys_cov hlt) (.of (bump_keeps ..))
    · split
      · exact .same
      · refine .via (post_keeps ..) ?_
        split
        · exact .of (bump_keeps ..)
        · exact .of (bump_keeps ..)

theorem State.ownChip_keeps (s : State) (r : Rec) (m : ObjImage) : s.Keeps reissueKeys (s.ownChip r m) := by
  unfold State.ownChip
  have h := (queueChip_does s { handle := r.handle, epoch := r.epoch, image := m, channels := imageChannels m, port := r.port })
  split
  · next e => exact Keeps.pair e (.past h .same)
  · next e => exact .via (bump_keeps ..) (.via (bump_keeps ..) (.past (setRec_does ..) (Keeps.pair e (.past h .same))))

theorem State.reissueTo_keeps (s : State) (r : Rec) (target : Nat) : s.Keeps reissueKeys (s.reissueTo r target) := by
  unfold State.reissueTo
  split
  · exact .same
  · extract_lets +onlyGivenNames r1 s1
    refine .keep s1 (.via (bump_keeps ..) (.past (setRec_does ..) .same)) fun h1 => ?_
    exact .ite (.via (ownChip_keeps ..) h1) (.via (bump_keeps ..) (.via (sendChip_keeps ..) h1))

theorem State.reissueGroup_keeps (s : State) (g : Nat) : s.Keeps reissueKeys (s.reissueGroup g) :=
  Keeps.foldl (fun _ _ => .via (reissueTo_keeps ..) (.past (setRec_does ..) .same)) .same

theorem State.movePlacement_keeps (s : State) (g : Nat) (target : Option Nat) (pinned : Bool) (event counter : Nat) :
    s.Keeps (.one counter :: reissueKeys) (s.movePlacement g target pinned event counter) := by
  unfold State.movePlacement
  exact .via (reissueGroup_keeps ..) (.via (bump_keeps ..) (.via (raise_keeps ..) (Keeps.parts _ rfl rfl rfl rfl .same) (by simp))
    (by simp)) (by simp)

theorem State.returnGroup_keeps (s : State) (groups : List Nat) : s.Keeps (.one (obj 0x260E 12) :: reissueKeys) (s.returnGroup groups) := by
  unfold State.returnGroup
  split
  · exact .ite (.via (movePlacement_keeps ..) (Keeps.parts _ rfl rfl rfl rfl .same)) .same
  · exact .same

theorem actDropGeometry_keeps (sub v : Nat) (s : State) : s.Keeps [.frames, .events, .one (obj 0x2601 sub)] (actDropGeometry sub v s).1 :=
  .past (releads_does ..) (.via (raise_keeps ..) (.past (seedPriors_does ..) (.of (putNat_keeps ..) (by simp))) (by simp))

theorem actPlacement_keeps (g value : Nat) (s : State) : s.Keeps (.one (obj 0x260E 11) :: reissueKeys) (actPlacement g value s).1 := by
  unfold actPlacement
  extract_lets +onlyGivenNames target
  split
  · exact .same
  · exact movePlacement_keeps ..

theorem State.roundTrip_keeps (s : State) (sent : Nat) : s.Keeps [.one (obj 0x260E 13), .one (obj 0x260E 14)] (s.roundTrip sent) :=
  .past (sample_does ..) (.via (putNat_keeps ..) (.of (putNat_keeps ..)))

theorem State.refuseChip_keeps (s : State) (src handle epoch sent cause : Nat) :
    s.Keeps [.frames, .events, .one (obj 0x260E 15)] (s.refuseChip src handle epoch sent cause) :=
  .via (post_keeps ..) (.of (bump_keeps ..))

theorem State.takeChip_keeps (s : State) (src handle epoch sent : Nat) (d : List Byte) :
    s.Keeps [.frames, .events, .one (obj 0x260E 15)] (s.takeChip src handle epoch sent d) := by
  unfold State.takeChip
  refine .ite (refuseChip_keeps ..) (.ite (refuseChip_keeps ..) ?_)
  split
  · next e => exact Keeps.pair e (.past (queueChip_does ..) .same)
  · next e => exact .via (refuseChip_keeps ..) (Keeps.pair e (.past (queueChip_does ..) .same))

theorem State.recomputeFloors_keeps (s : State) : s.Keeps [.one (obj 0x2602 7), .one (obj 0x2602 8)] s.recomputeFloors := by
  unfold State.recomputeFloors
  extract_lets +onlyGivenNames s1
  exact Keeps.parts _ rfl rfl rfl rfl (.via (putNat_keeps ..) (.of (putNat_keeps ..)))

/-! ### The commands of the tracker -/

theorem execFixArrival_keeps (x : Sighting) (s : State) : NextKept [.frames, .events, .one (obj 0x2602 9), .one (obj 0x2600 6),
    .one (obj 0x2600 8), .one (obj 0x2600 4), .one (obj 0x2600 13), .one (obj 0x2600 5)] s (execFixArrival x s) := by
  unfold execFixArrival
  refine .ite (.next .same) ?_
  extract_lets +onlyGivenNames src s1 s2 face cr cs
  refine .keep s2 (.via (twins_keeps ..) (Keeps.parts _ rfl rfl rfl rfl .same)) fun h2 => ?_
  split
  · refine .ite (.next h2) (.ite (.next (.via (bump_keeps ..) h2)) ?_)
    split
    · exact .next (.via (tableFull_keeps ..) h2)
    · exact .next (.via (predict_keeps ..) (.via (bump_keeps ..) (.past (openRec_does (by assumption)) h2)))
  · refine .ite (.next (.via (bump_keeps ..) (Keeps.parts _ rfl rfl rfl rfl h2))) ?_
    split
    · exact .next h2
    · exact .next (.via (predict_keeps ..) (.via (learn_keeps ..) (.via (bump_keeps ..) h2)))

theorem execUpperSightingArrival_keeps (x : Sighting) (image : ObjImage) (s : State) : NextKept [.frames, .events, .one (obj 0x2602 9),
    .one (obj 0x2600 8), .one (obj 0x2600 3), .one (obj 0x2405 10), .one (obj 0x2206 13), .one (obj 0x260E 4), .one (obj 0x260E 1),
    .one (obj 0x2600 13), .one (obj 0x2600 7), .one (obj 0x2600 5), .one (obj 0x2600 6)] s (execUpperSightingArrival x image s) := by
  unfold execUpperSightingArrival
  refine .ite (.next .same) ?_
  extract_lets +onlyGivenNames src s1 s2 face cands
  refine .keep s2 (.via (twins_keeps ..) (Keeps.parts _ rfl rfl rfl rfl .same)) fun h2 => ?_
  split
  · refine .ite (.next (.past (settleSighting_does ..) h2)) (.ite ?_ ?_)
    · extract_lets +onlyGivenNames pr
      split
      · exact .next (.past (settleSighting_does ..) (.via (tableFull_keeps ..) h2))
      · exact .next (.via (predictIfLost_keeps ..) (.via (placeObject_keeps ..) (.via (bump_keeps ..)
          (.past (openRec_does (by assumption)) h2))))
    · exact .next (.past (settleSighting_does ..) (Keeps.parts _ rfl rfl rfl rfl h2))
  · split
    · exact .next h2
    · refine .ite ?_ (.next (.past (settleSighting_does ..) (.via (bump_keeps ..) (.past (dropRec_does ..) h2))))
      exact .next (.via (placeIfLive_keeps ..) (.via (predict_keeps ..) (.via (learn_keeps ..) (.via (bump_keeps ..) h2))))

theorem execFixDeadline_keeps (handle : Nat) (s : State) : NextKept [.frames, .events, .one (obj 0x2600 13), .one (obj 0x2600 7)] s
    (execFixDeadline handle s) := by
  unfold execFixDeadline
  split
  · exact .ite (.next (.via (predictUpperAlone_keeps ..) (.past (atTick_does ..) .same))) (.next .same)
  · exact .next .same

theorem execRecordRetire_keeps (handle : Nat) (s : State) : NextKept [] s (execRecordRetire handle s) := by
  unfold execRecordRetire
  split
  · exact .ite (.next (.past (dropRec_does ..) (.past (atTick_does ..) .same))) (.next .same)
  · exact .next .same

theorem execDropGeometryWrite_keeps (m : Master) (sub value : Nat) (s : State) :
    NextKept [.frames, .events, .one (obj 0x2006 1), .one (obj 0x2601 sub)] s (execDropGeometryWrite m sub value s) :=
  .next (write_keeps (by simp) _ _ _ _ _ (.of (actDropGeometry_keeps ..) (by simp)))

theorem execPlacementWrite_keeps (m : Master) (group value : Nat) (s : State) : NextKept [.frames, .events, .one (obj 0x260E 11),
    .one (obj 0x260E 2), .one (obj 0x260E 3), .one (obj 0x260E 15), .one (obj 0x260E 1), .one (obj 0x2006 1)] s
    (execPlacementWrite m group value s) :=
  .next (write_keeps (by simp) _ _ _ _ _ (.of (actPlacement_keeps ..)))

theorem governorStep_keeps {ks : List KeySet} {s t : State} (hk : .one (obj 0x260E 12) :: reissueKeys ⊆ ks) (h1 : s.Keeps ks t) :
    NextKept ks s (governorStep t) := by
  unfold governorStep
  extract_lets +onlyGivenNames src s2 load high low src2 s3 groups
  refine .keep s3 (Keeps.parts _ rfl rfl rfl rfl (Keeps.parts _ rfl rfl rfl rfl h1)) fun h3 => ?_
  refine .ite ?_ (.next (.via (returnGroup_keeps ..) h3 hk))
  extract_lets +onlyGivenNames own best to_
  clear_value best to_
  split
  · exact .next (.via (movePlacement_keeps ..) h3 hk)
  · exact .next h3
  · exact .next (.via (returnGroup_keeps ..) h3 hk)

theorem execGovernorRun_keeps (s : State) : NextKept [.frames, .events, .one (obj 0x260E 12), .one (obj 0x260E 2), .one (obj 0x260E 3),
    .one (obj 0x260E 15), .one (obj 0x260E 1)] s (execGovernorRun s) := by
  rw [execGovernorRun_eq]
  exact .ite (.next .same) (governorStep_keeps (by decide) (.past (atClk_does ..) .same))

theorem execChipFrame_keeps (src handle epoch segment count sendTick : Nat) (data : List Byte) (s : State) :
    NextKept [.frames, .events, .one (obj 0x260E 15)] s (execChipFrame src handle epoch segment count sendTick data s) := by
  unfold execChipFrame
  refine .ite (.next .same) ?_
  extract_lets +onlyGivenNames same c c2 rest
  exact .ite (.next (.via (takeChip_keeps ..) (Keeps.parts _ rfl rfl rfl rfl .same))) (.next (Keeps.parts _ rfl rfl rfl rfl .same))

theorem execChipReassemblyTimeout_keeps (src handle epoch : Nat) (s : State) :
    NextKept [.frames, .events, .one (obj 0x2206 14)] s (execChipReassemblyTimeout src handle epoch s) := by
  unfold execChipReassemblyTimeout
  extract_lets +onlyGivenNames this
  split
  · extract_lets +onlyGivenNames s1
    refine .keep s1 (.past (atClk_does ..) .same) fun h1 => ?_
    exact .next (.via (raiseSlow_keeps ..) (.via (bump_keeps ..) (Keeps.parts _ rfl rfl rfl rfl h1)))
  · exact .next .same

theorem execVerdictMessage_keeps (src sendTick handle epoch cls conf : Nat) (tail : VerdictTail) (s : State) :
    NextKept [.one (obj 0x260E 13), .one (obj 0x260E 14), .one (obj 0x260E 9), .one (obj 0x260E 10), .one (obj 0x260E 5),
      .one (obj 0x260E 6), .one (obj 0x260E 7), .one (obj 0x260E 8)] s (execVerdictMessage src sendTick handle epoch cls conf tail s) := by
  unfold execVerdictMessage
  exact .ite (.next .same) (.next (.via (verdict_keeps ..) (.of (roundTrip_keeps ..))))

theorem execRefusalMessage_keeps (src sendTick handle epoch cause : Nat) (s : State) :
    NextKept [.frames, .events, .one (obj 0x260E 13), .one (obj 0x260E 14), .one (obj 0x260E 3), .one (obj 0x260E 2),
      .one (obj 0x260E 15), .one (obj 0x260E 1)] s (execRefusalMessage src sendTick handle epoch cause s) := by
  unfold execRefusalMessage
  refine .ite (.next .same) ?_
  extract_lets +onlyGivenNames s1
  refine .keep s1 (.via (raiseSlow_keeps ..) (.via (bump_keeps ..) (.of (roundTrip_keeps ..)))) fun h1 => ?_
  split
  · exact .next h1
  · exact .ite (.next h1) (.next (.via (reissueTo_keeps ..) h1))

theorem execFloorRecompute_keeps (s : State) : NextKept [.one (obj 0x2602 7), .one (obj 0x2602 8)] s (execFloorRecompute s) := by
  unfold execFloorRecompute
  exact .ite (.next .same) (.next (.via (recomputeFloors_keeps ..) (.past (atClk_does ..) .same)))

end Sys2Proof.Machine
end


section
/-!
A record is decided, and a FIRE is received.
-/
set_option Elab.async false
set_option linter.all false

namespace Sys2Proof.Machine

open Sys2Proof State

/-! ### A decision (05 R162, R163) -/

/-- What decides a record, counted: its verdict, or the default of its parameters. With the state, whether the record is ejected, the confidence
of its requests, and the record. -/
def State.judge (s : State) (r : Rec) : State × Bool × Nat × Rec :=
  match r.verdict with
  | some (cls, conf, _) => (s.bump (obj 0x2600 (if s.callsEject cls conf then 0x0B else 0x0C)), s.callsEject cls conf, conf, r)
  | none =>
    ((s.bump (obj 0x2600 (if r.params.dflt == 1 then 0x0A else 9))).raiseSlow 0x5003 r.handle, r.params.dflt == 1, 0,
      { r with defaulted := true })

/-- The requests of a record, one after the other: the state, and the positions with their outcomes. -/
def State.fireSet (s : State) (r : Rec) (conf : Nat) : State × List ValvePos :=
  (s.coverSet r.params.reach r.valves).1.foldl (fun (p : State × List ValvePos) v =>
    ((p.1.fireOne r conf v).1, p.2 ++ [{ v with outcome := (p.1.fireOne r conf v).2 }]))
    (s.bumpBy (obj 0x2600 0x0E) (s.coverSet r.params.reach r.valves).2, [])

/-- A record decided for ejection: its requests are made. -/
def State.ejectRec (s : State) (r : Rec) (conf : Nat) : State :=
  (s.fireSet r conf).1.setRec { r with
    state := .eject, valves := (s.fireSet r conf).2
    retireAt := if (s.fireSet r conf).2.any (fun v => v.cover) then r.shotEnd + r.params.cover else r.shotEnd }

/-- A record that is decided by what `judge` says of it gives up its chip. -/
def State.decideRec (s : State) (r : Rec) : State :=
  let j := s.judge r
  if j.2.1 then j.1.ejectRec { j.2.2.2 with chip := none } j.2.2.1
  else j.1.setRec { j.2.2.2 with chip := none, state := .pass, retireAt := j.2.2.2.ta }

theorem State.recOf_handle {s : State} {handle : Nat} {r : Rec} (h : s.recOf handle = some r) : r.handle = handle := by
  simpa using List.find?_some h

theorem execFireDecision_predicted {s : State} {handle : Nat} {r : Rec} {u : Int} (hrec : s.recOf handle = some r) (hst : r.state = .predicted)
    (hdec : r.tdec = some u) : execFireDecision handle s = .next ((s.atTick u.toNat).decideRec r) := by
  obtain rfl := recOf_handle hrec
  unfold execFireDecision State.decideRec State.judge
  rw [hrec]
  dsimp -zeta only
  rw [hst, hdec]
  dsimp -zeta only
  cases r.verdict with
  | none => exact (apply_ite _ _ _ _).symm
  | some v => exact (apply_ite _ _ _ _).symm

/-- Whatever a FIRE_DECISION meets, it decides a predicted record or changes nothing. -/
theorem execFireDecision_cases (handle : Nat) (s : State) :
    execFireDecision handle s = .next s ∨ ∃ r, ∃ u : Int, execFireDecision handle s = .next ((s.atTick u.toNat).decideRec r) := by
  cases hrec : s.recOf handle with
  | none => exact .inl (by unfold execFireDecision; rw [hrec])
  | some r =>
    by_cases hst : r.state = .predicted
    · cases hdec : r.tdec with
      | none => exact .inl (by unfold execFireDecision; rw [hrec]; dsimp only; rw [hst, hdec])
      | some u => exact .inr ⟨r, u, execFireDecision_predicted hrec hst hdec⟩
    · refine .inl ?_
      unfold execFireDecision
      rw [hrec]
      dsimp -zeta only
      split
      · next h _ => exact absurd h hst
      · rfl

/-- What the decision of a record counts in besides its requests. -/
abbrev judgeKeys : List KeySet :=
  [.frames, .events, .one (obj 0x2600 11), .one (obj 0x2600 12), .one (obj 0x2600 10), .one (obj 0x2600 9)]

theorem State.judge_keeps (s : State) (r : Rec) : s.Keeps judgeKeys (s.judge r).1 := by
  unfold State.judge
  split
  · dsimp only
    split
    · exact .of (bump_keeps ..)
    · exact .of (bump_keeps ..)
  · dsimp only
    refine .via (raiseSlow_keeps ..) ?_
    split
    · exact .of (bump_keeps ..)
    · exact .of (bump_keeps ..)

theorem State.fireSet_keeps (s : State) (r : Rec) (conf : Nat) : s.Keeps (.one (obj 0x2600 14) :: fireKeys) (s.fireSet r conf).1 :=
  Keeps.foldlFst (fun _ _ _ => .of (fireOne_keeps ..)) (.of (bumpBy_keeps ..))

theorem State.ejectRec_keeps (s : State) (r : Rec) (conf : Nat) : s.Keeps (.one (obj 0x2600 14) :: fireKeys) (s.ejectRec r conf) :=
  .past (setRec_does ..) (fireSet_keeps ..)

theorem State.decideRec_keeps (s : State) (r : Rec) : s.Keeps (.one (obj 0x2600 14) :: (judgeKeys ++ fireKeys)) (s.decideRec r) :=
  .ite (.via (ejectRec_keeps ..) (.of (judge_keeps ..))) (.past (setRec_does ..) (.of (judge_keeps ..)))

theorem execFireDecision_keeps (handle : Nat) (s : State) : NextKept [.frames, .events, .one (obj 0x2600 14), .one (obj 0x2600 15),
    .one (obj 0x2700 5), .one (obj 0x2107 5), .one (obj 0x2700 15), .one (obj 0x2700 16), .one (obj 0x2700 17), .one (obj 0x2700 12),
    .one (obj 0x2700 14), .one (obj 0x2700 6), .one (obj 0x2700 9), .one (obj 0x2700 8), .one (obj 0x2700 13), .one (obj 0x2600 11),
    .one (obj 0x2600 12), .one (obj 0x2600 10), .one (obj 0x2600 9), .one (obj 0x260F 2), .one (obj 0x260F 1), .valves 0x2726] s
    (execFireDecision handle s) := by
  obtain h | ⟨r, u, h⟩ := execFireDecision_cases handle s
  · exact ⟨s, h, .same⟩
  · exact ⟨_, h, .via (decideRec_keeps ..) (.past (atTick_does ..) .same)⟩

/-! ### A FIRE of a neighbour (05 R165) -/

theorem execFireMessage_keeps (src valve ta shotEnd handle conf : Nat) (cover : Bool) (s : State) : NextKept [.frames, .events,
    .one (obj 0x260F 9), .one (obj 0x260F 3), .one (obj 0x260F 4), .one (obj 0x2700 16), .one (obj 0x260F 5), .one (obj 0x260F 6),
    .one (obj 0x2107 5), .one (obj 0x2700 5), .one (obj 0x2700 15), .one (obj 0x2700 17), .one (obj 0x2700 12), .one (obj 0x2700 14),
    .one (obj 0x2700 6), .one (obj 0x2700 9), .one (obj 0x2700 8), .one (obj 0x2700 13), .one (obj 0x260F 7), .one (obj 0x260F 8),
    .one (valveKey 0x2726 valve), .one (valveKey 0x2726 (valve - 1)), .one (valveKey 0x2726 (valve + 1))] s
    (execFireMessage src valve ta shotEnd handle conf cover s) := by
  unfold execFireMessage
  refine .ite (.next .same) ?_
  extract_lets +onlyGivenNames e w
  refine .ite (.next (.via (raiseSlow_keeps ..) (.of (bump_keeps ..) (by simp)) (by simp))) ?_
  extract_lets +onlyGivenNames i o s1
  have hi : i = 0 ∨ i = 1 := by
    unfold i
    split
    · exact .inl rfl
    · exact .inr rfl
  clear_value i
  refine .keep s1 (.of (bump_keeps ..) (by rcases hi with rfl | rfl <;> simp)) fun h1 => ?_
  refine .ite (.next (.via (bump_keeps ..) h1 (by simp))) (.ite (.next h1) ?_)
  refine .ite (.next (.via (raiseSlow_keeps ..) (.via (bump_keeps ..) h1 (by rcases hi with rfl | rfl <;> simp)) (by simp))) ?_
  extract_lets +onlyGivenNames req r
  refine .ite (.next (.via (bump_keeps ..) h1 (by simp))) (.ite (.next (.via (request_keeps ..) h1 (by simp [r, req]))) ?_)
  extract_lets +onlyGivenNames s2 en ks
  refine .keep s2 (.via (bump_keeps ..) h1 (by rcases hi with rfl | rfl <;> simp)) fun h2 => ?_
  refine .next (Keeps.foldlMem (fun t k hk => ?_) h2)
  have hk' : k = valve - 1 ∨ k = valve + 1 := by
    simp only [ks, List.mem_append] at hk
    split at hk <;> split at hk <;> simp at hk <;> tauto
  exact .of (request_keeps ..) (by rcases hk' with rfl | rfl <;> simp [req])

/-- Settles O50: each command changes only the parts and only the objects of its own lemmas. -/
theorem trackerFrames : Obligations.TrackerFrames := by
  unfold Obligations.TrackerFrames
  exact ⟨
    fun _ _ => (execFixArrival_does ..).frame (execFixArrival_keeps ..),
    fun _ _ _ => (execUpperSightingArrival_does ..).frame (execUpperSightingArrival_keeps ..),
    fun _ _ => (execFixDeadline_does ..).frame (execFixDeadline_keeps ..),
    fun _ _ => (execFireDecision_does ..).frame (execFireDecision_keeps ..),
    fun _ _ => (execRecordRetire_does ..).frame (execRecordRetire_keeps ..),
    fun _ _ _ _ => (execDropGeometryWrite_does ..).frame (execDropGeometryWrite_keeps ..),
    fun _ _ _ _ => (execPlacementWrite_does ..).frame (execPlacementWrite_keeps ..),
    fun _ => (execGovernorRun_does ..).frame (execGovernorRun_keeps ..),
    fun _ _ _ _ _ _ _ _ => (execChipFrame_does ..).frame (execChipFrame_keeps ..),
    fun _ _ _ _ => (execChipReassemblyTimeout_does ..).frame (execChipReassemblyTimeout_keeps ..),
    fun src _ _ _ _ _ _ _ => (execVerdictMessage_does src ..).frame (execVerdictMessage_keeps src ..),
    fun _ _ _ _ _ _ => (execRefusalMessage_does ..).frame (execRefusalMessage_keeps ..),
    fun _ _ _ _ _ _ _ _ => (execFireMessage_does ..).frame (execFireMessage_keeps ..),
    fun _ => (execFloorRecompute_does ..).frame (execFloorRecompute_keeps ..)⟩

end Sys2Proof.Machine
end


section
/-!
Counts that operations leave, and the records of the tracker.
-/
set_option Elab.async false
set_option linter.all false

namespace Sys2Proof.Machine

open Sys2Proof State

/-! ### Counts -/

/-- An object lies outside a set, as a test. -/
def KeySet.misses (k : Nat) : KeySet → Bool
  | .one j => k != j
  | .frames => !frameKeys.contains k
  | .events => !eventKeys.contains k
  | .valves i => k / 256 != i && k / 256 != i + 1
  | _ => false

theorem KeySet.not_has_of_misses {x : KeySet} {k : Nat} (h : x.misses k = true) : ¬x.has k := by
  cases x with
  | one j => simpa [KeySet.misses, KeySet.has] using h
  | frames => simpa [KeySet.misses, KeySet.has] using h
  | events => simpa [KeySet.misses, KeySet.has] using h
  | valves i =>
    simp only [KeySet.misses, Bool.and_eq_true, bne_iff_ne] at h
    rintro ⟨v, hv, rfl⟩
    rw [valveKey_div] at h
    omega
  | groups | ports | slots | cleared | any => exact absurd h Bool.false_ne_true

section
variable {ps : List Part} {js ks : List KeySet} {s t u : State} {k : Nat}

theorem State.Keeps.nat_missed (h : s.Keeps ks t) (hk : ks.all (·.misses k) = true := by decide) : t.nat k = s.nat k :=
  h.nat_eq fun x hx => KeySet.not_has_of_misses (List.all_eq_true.1 hk x hx)

/-- A count between operations that leave its object. -/
theorem State.Keeps.nat_counted (g : s.Keeps js t) (h : (t.bump k).Keeps ks u) (hj : js.all (·.misses k) = true := by decide)
    (hk : ks.all (·.misses k) = true := by decide) : u.nat k = s.counted k := by
  rw [h.nat_missed hk, nat_bump_self, State.counted, g.nat_missed hj]

theorem State.Does.tracker_eq (h : s.Does ps t) (k : Part.tracker ∉ ps := by decide) : t.tracker = s.tracker := h.only .tracker k

theorem State.Does.strand_eq (h : s.Does ps t) (k : Part.strand ∉ ps := by decide) : t.strand = s.strand := h.only .strand k

theorem State.Does.recOf_eq (h : s.Does ps t) (handle : Nat) (k : Part.tracker ∉ ps := by decide) : t.recOf handle = s.recOf handle :=
  congrArg (·.recs.find? (fun r => r.handle == handle)) (h.tracker_eq k)

end

/-! ### Records of the table (05 R145) -/

section
variable {s t : State} {r q : Rec} {x : Sighting}

/-- A record written over the one of its handle is the record of that handle. -/
theorem State.setRec_recOf {handle : Nat} (hr : r.handle = handle) (h : s.recOf handle = some q) : (s.setRec r).recOf handle = some r := by
  subst hr
  have hcomp : ((fun y : Rec => y.handle == r.handle) ∘ fun y => if y.handle = r.handle then r else y) = fun y => y.handle == r.handle := by
    funext y
    simp only [Function.comp_apply]
    split
    next hy => simp [hy]
    next => rfl
  have hfind : (s.setRec r).recOf r.handle = (s.recOf r.handle).map (fun y => if y.handle = r.handle then r else y) := by
    unfold State.recOf State.setRec
    rw [List.find?_map, hcomp]
  rw [hfind, h, Option.map_some, if_pos (recOf_handle h)]

theorem State.dropRec_recOf (s : State) (handle : Nat) : (s.dropRec handle).recOf handle = none := by
  unfold State.recOf State.dropRec
  rw [List.find?_eq_none]
  intro y hy
  simpa using (List.mem_filter.1 hy).2

theorem State.recOf_single (h : s.tracker.recs = [r]) : s.recOf r.handle = some r := by
  unfold State.recOf
  rw [h]
  exact List.find?_cons_of_pos (beq_self_eq_true _)

theorem State.setRec_single (h : s.tracker.recs = [q]) (hq : r.handle = q.handle) : (s.setRec r).tracker = { s.tracker with recs := [r] } := by
  unfold State.setRec
  rw [h, hq]
  simp

/-- A twin pair is counted; of the tracker only what it remembers for pairs changes. -/
theorem State.twins_tracker (s : State) (x : Sighting) :
    ∃ recent up low, (s.twins x).tracker = { s.tracker with recent := recent, twinUpper := up, twinLower := low } := by
  unfold State.twins
  extract_lets other span near ds keep src t1 t2
  rw [(bumpBy_does ..).tracker_eq]
  change ∃ recent up low, t2 = _
  unfold t2
  split
  · exact ⟨_, _, _, rfl⟩
  · exact ⟨_, _, _, rfl⟩

/-- The first record opens with the next handle. -/
theorem State.openRec_first (h : s.tracker.recs = []) : ∃ t q, s.openRec r = some (t, q) ∧ t.tracker.recs = [q]
    ∧ t.tracker.serial = (s.tracker.serial + 1) % 2 ^ 20 ∧ q.handle = (s.strand.id <<< 20) + s.tracker.serial ∧ q.state = r.state
    ∧ q.face = r.face ∧ q.upper = r.upper ∧ q.fix = r.fix := by
  unfold State.openRec
  rw [h, if_neg (by decide)]
  exact ⟨_, _, rfl, rfl, rfl, rfl, rfl, rfl, rfl, rfl⟩

/-- A prediction writes the record over: what it predicts of it keeps its handle and its sightings. -/
theorem State.predict_tracker (s : State) (r : Rec) : ∃ q : Rec, (s.predict r).tracker = (s.setRec q).tracker ∧ q.handle = r.handle
    ∧ q.state = .predicted ∧ q.upper = r.upper ∧ q.fix = r.fix := by
  unfold State.predict
  extract_lets +onlyGivenNames fl x ta vb half te e centre west east alone seeded choose uncal first
  split
  extract_lets +onlyGivenNames ks tdec q s1
  refine ⟨q, ?_, rfl, rfl, rfl, rfl⟩
  exact (Does.ite (.via (raiseSlow_does ..) (.of (bump_does ..))) .same : s1.Does [.out, .od, .backdrop, .strand, .side, .recorder] _).tracker_eq

theorem State.predict_single (h : s.tracker.recs = [q]) (hr : r.handle = q.handle) : ∃ p : Rec,
    (s.predict r).tracker = { s.tracker with recs := [p] } ∧ p.handle = r.handle ∧ p.state = .predicted ∧ p.upper = r.upper ∧ p.fix = r.fix := by
  obtain ⟨p, hp, hhandle, hrest⟩ := predict_tracker s r
  exact ⟨p, hp.trans (setRec_single h (hhandle.trans hr)), hhandle, hrest⟩

theorem State.predict_recOf (h : s.recOf r.handle = some q) : ∃ p, (s.predict r).recOf r.handle = some p ∧ p.state = .predicted := by
  obtain ⟨p, hp, hhandle, hst, -⟩ := predict_tracker s r
  exact ⟨p, (congrArg (·.recs.find? (fun y => y.handle == r.handle)) hp).trans (setRec_recOf hhandle h), hst⟩

/-- An association moves the priors alone. -/
theorem State.learn_tracker (s : State) (face group : Nat) (u f : Sighting) :
    ∃ priors, (s.learn face group u f).tracker = { s.tracker with priors := priors } := by
  unfold State.learn
  split
  · exact ⟨_, rfl⟩
  · extract_lets +onlyGivenNames p tp vu w k p' s1
    split
    · exact ⟨_, (raise_does ..).tracker_eq⟩
    · exact ⟨_, rfl⟩

/-- A score turns on the priors, the variant and the drop geometry alone. -/
theorem State.score_congr (hp : t.tracker.priors = s.tracker.priors) (hv : t.variant = s.variant)
    (hn : ∀ j < 256, t.nat (obj 0x2601 j) = s.nat (obj 0x2601 j)) (pr : TrackParams) (u f : Sighting) : t.score pr u f = s.score pr u f := by
  unfold State.score State.prior State.laneGroup State.tau State.gravity State.hP
  simp only [hp, hv, hn 3 (by decide), hn 5 (by decide)]

/-- The only record of the table, as its object is placed: its chip may be kept and sent. -/
theorem State.placeObject_single (m : ObjImage) (h : s.tracker.recs = [r]) : ∃ q l,
    (s.placeObject r x m).tracker = { s.tracker with recs := [q], laneObjs := l } ∧ q.handle = r.handle ∧ q.state = r.state ∧ q.face = r.face
      ∧ q.upper = r.upper := by
  unfold State.placeObject
  extract_lets +onlyGivenNames src s1 job
  have h1 : s1.tracker.recs = [r] := h
  have hqueue : ∀ t, s1.Does [.od] t → (t.queueObject job x).tracker = { s.tracker with recs := [r], laneObjs := s1.tracker.laneObjs } := fun t ht => by
    rw [(queueObject_does ..).tracker_eq, ht.tracker_eq, ← h]
  split
  · exact ⟨_, _, hqueue _ .same, rfl, rfl, rfl, rfl⟩
  · split
    · exact ⟨_, _, hqueue _ (.of (bump_does ..)), rfl, rfl, rfl, rfl⟩
    · split
      · exact ⟨_, _, hqueue _ (.of (bump_does ..)), rfl, rfl, rfl, rfl⟩
      · refine ⟨{ r with remote := true, chip := some m }, s1.tracker.laneObjs, ?_, rfl, rfl, rfl, rfl⟩
        rw [(settleSighting_does ..).tracker_eq, (bump_does ..).tracker_eq, (sendChip_does ..).tracker_eq]
        exact setRec_single h1 rfl

theorem State.predictIfLost_single (h : s.tracker.recs = [r]) (hlost : (s.cam r.face).state ≠ .lost) : s.predictIfLost r.handle = s := by
  unfold State.predictIfLost
  rw [recOf_single h]
  exact if_neg hlost

end

/-! ### Arrivals and the fix deadline (05 R150, R151) -/

section
variable {s t : State} {x : Sighting}

/-- A sighting has arrived: it has left the queue of its engine and met the sightings of the other face. -/
theorem State.twins_arrived (s : State) (p : Pipeline) (x : Sighting) :
    ∃ recent up low, ({ s with pipe := p }.twins x).tracker = { s.tracker with recent := recent, twinUpper := up, twinLower := low } :=
  twins_tracker _ x

theorem State.arrived_does (s : State) (p : Pipeline) (x : Sighting) (hp : s.pipe.shaped → p.shaped) :
    s.Does [.od, .pipe, .tracker] ({ s with pipe := p }.twins x) := .via (twins_does ..) (.of (Does.pipe p hp))

theorem State.arrived_keeps (s : State) (p : Pipeline) (x : Sighting) : s.Keeps [.one (obj 0x2602 9)] ({ s with pipe := p }.twins x) :=
  .via (twins_keeps ..) (Keeps.parts _ rfl rfl rfl rfl .same)

theorem State.owned_congr (h : t.variant = s.variant) (c : Int) : t.owned c = s.owned c := by
  unfold State.owned State.valveCount
  rw [h]

theorem execFixArrival_opens (hup : s.module.mainUp = true) (hrecs : s.tracker.recs = []) (hshadows : s.tracker.shadows = [])
    (howned : s.owned x.centre = true) (hopen : s.tracker.isOpen = true) :
    ∃ t, execFixArrival x s = .next t
      ∧ t.tracker.recs.map (fun r => (r.handle, r.state, r.fix)) = [((s.strand.id <<< 20) + s.tracker.serial, .predicted, some x)]
      ∧ t.tracker.serial = (s.tracker.serial + 1) % 2 ^ 20 ∧ t.nat (obj 0x2600 4) = s.counted (obj 0x2600 4) := by
  unfold execFixArrival
  rw [if_neg (by simp [hup])]
  extract_lets src s1 s2 face cr cs
  obtain ⟨recent, up, low, htracker⟩ : ∃ recent up low, s2.tracker = { s.tracker with recent := recent, twinUpper := up, twinLower := low } :=
    twins_arrived ..
  have hdoes : s.Does [.od, .pipe, .tracker] s2 := arrived_does _ _ _ id
  have hkeeps : s.Keeps [.one (obj 0x2602 9)] s2 := arrived_keeps ..
  have hcand : bestCand (cr ++ cs) = none := by
    simp only [cr, cs, htracker, hrecs, hshadows]
    rfl
  obtain ⟨t, q, hq, hone, hserial, hhandle, -, -, -, hfix⟩ := openRec_first (s := s2)
    (r := { state := .fixFirst, face := face, group := s2.laneGroup x.centre, fix := some x, port := face + 2 }) (by rw [htracker, hrecs])
  obtain ⟨p, hp, hph, hpst, -, hpfix⟩ := predict_single (s := t.bump (obj 0x2600 4)) (r := q) hone rfl
  rw [hcand]
  dsimp only
  rw [if_neg (by rw [htracker, hopen]; exact nofun), if_neg (by rw [owned_congr hdoes.variant_eq, howned]; exact nofun), hq]
  refine ⟨_, rfl, ?_, ?_, ?_⟩
  · rw [hp]
    simp [hph, hpst, hpfix, hfix, hhandle, htracker, hdoes.strand_eq]
  · rw [hp]
    exact hserial.trans (by rw [htracker])
  · exact Keeps.nat_counted (.past (openRec_does hq) hkeeps) (predict_keeps ..)

theorem execFixArrival_associates {r : Rec} {u : Sighting} (hup : s.module.mainUp = true) (hrecs : s.tracker.recs = [r])
    (hshadows : s.tracker.shadows = []) (hst : r.state = .upperFirst) (hface : r.face = faceOf x.port) (hupper : r.upper = some u)
    (hhandle : r.handle < 2 ^ 32) (hscore : (s.score r.params u x).isSome = true) :
    ∃ t, execFixArrival x s = .next t
      ∧ t.tracker.recs.map (fun y => (y.handle, y.state, y.upper, y.fix)) = [(r.handle, .predicted, some u, some x)]
      ∧ t.nat (obj 0x2600 5) = s.counted (obj 0x2600 5) := by
  unfold execFixArrival
  rw [if_neg (by simp [hup])]
  extract_lets src s1 s2 face cr cs
  obtain ⟨recent, up, low, htracker⟩ : ∃ recent up low, s2.tracker = { s.tracker with recent := recent, twinUpper := up, twinLower := low } :=
    twins_arrived ..
  have hdoes : s.Does [.od, .pipe, .tracker] s2 := arrived_does _ _ _ id
  have hkeeps : s.Keeps [.one (obj 0x2602 9)] s2 := arrived_keeps ..
  have hrecs2 : s2.tracker.recs = [r] := by rw [htracker, hrecs]
  obtain ⟨d, hd⟩ := Option.isSome_iff_exists.1 hscore
  have hd2 : s2.score r.params u x = some d := by
    rw [score_congr (by rw [htracker]) hdoes.variant_eq (fun j hj => hkeeps.nat_eq ?_), hd]
    simp only [List.mem_singleton, forall_eq, KeySet.has]
    unfold obj
    omega
  have hcand : bestCand (cr ++ cs) = some (d, u.time, r.handle) := by
    have hcr : cr = [(d, u.time, r.handle)] := by
      unfold cr
      rw [hrecs2]
      simp [hface, hst, hupper, hd2, face]
    have hcs : cs = [] := by
      simp only [cs, htracker, hshadows]
      rfl
    rw [hcr, hcs]
    rfl
  rw [hcand]
  dsimp only
  rw [if_neg (by omega), recOf_single hrecs2]
  dsimp only
  obtain ⟨priors, hlearn⟩ := learn_tracker (s2.bump (obj 0x2600 5)) face r.group (r.upper.getD default) x
  obtain ⟨p, hp, hph, hpst, hpup, hpfix⟩ := predict_single (s := (s2.bump (obj 0x2600 5)).learn face r.group (r.upper.getD default) x)
    (q := r) (r := { r with fix := some x }) (by rw [hlearn]; exact hrecs2) rfl
  refine ⟨_, rfl, ?_, ?_⟩
  · rw [hp]
    simp [hph, hpst, hpup, hpfix, hupper]
  · exact Keeps.nat_counted hkeeps (Keeps.via (js := [.frames, .events, .one (obj 0x2600 13)])
      (ks := [.frames, .events, .one (obj 0x2600 13)]) (predict_keeps ..) (.of (learn_keeps ..)))

theorem execUpperSightingArrival_opens {image : ObjImage} (hup : s.module.mainUp = true) (hrecs : s.tracker.recs = [])
    (howned : s.owned x.centre = true) (hopen : s.tracker.isOpen = true) (hlost : (s.cam (faceOf x.port)).state ≠ .lost) :
    ∃ t, execUpperSightingArrival x image s = .next t
      ∧ t.tracker.recs.map (fun r => (r.handle, r.state, r.upper)) = [((s.strand.id <<< 20) + s.tracker.serial, .upperFirst, some x)]
      ∧ t.tracker.serial = (s.tracker.serial + 1) % 2 ^ 20 ∧ t.nat (obj 0x2600 3) = s.counted (obj 0x2600 3) := by
  unfold execUpperSightingArrival
  rw [if_neg (by simp [hup])]
  extract_lets src s1 s2 face cands pr
  obtain ⟨recent, up, low, htracker⟩ : ∃ recent up low, s2.tracker = { s.tracker with recent := recent, twinUpper := up, twinLower := low } :=
    twins_arrived ..
  have hdoes : s.Does [.od, .pipe, .tracker] s2 := arrived_does _ _ _ id
  have hkeeps : s.Keeps [.one (obj 0x2602 9)] s2 := arrived_keeps ..
  have hrecs2 : s2.tracker.recs = [] := by rw [htracker, hrecs]
  have hcand : bestCand cands = none := by
    simp only [cands, hrecs2]
    rfl
  rw [hcand]
  dsimp -zeta only
  rw [if_neg (by rw [htracker, hopen]; exact nofun), if_pos (by rw [owned_congr hdoes.variant_eq, howned])]
  obtain ⟨t, q, hq, hone, hserial, hhandle, hqst, hqface, hqup, -⟩ := openRec_first (s := s2)
    (r := { state := .upperFirst, face := face, group := s2.laneGroup x.centre, upper := some x, deadline := s2.fixDeadlineOf pr x,
            port := x.port }) hrecs2
  rw [hq]
  dsimp only
  obtain ⟨p, l, hp, hph, hpst, hpface, hpup⟩ := placeObject_single (s := t.bump (obj 0x2600 3)) (r := q) (x := x) image hone
  have hplaced : ((t.bump (obj 0x2600 3)).placeObject q x image).tracker.recs = [p] := by rw [hp]
  have hcam : ∀ n, ((t.bump (obj 0x2600 3)).placeObject q x image).cam n = s.cam n := fun n => by
    rw [(placeObject_does ..).cam_eq, (bump_does ..).cam_eq, (openRec_does hq).cam_eq, hdoes.cam_eq]
  rw [← hph, predictIfLost_single hplaced (by rw [hcam, hpface, hqface]; exact hlost)]
  refine ⟨_, rfl, ?_, ?_, ?_⟩
  · rw [hplaced]
    simp [hph, hpst, hpup, hqst, hqup, hhandle, htracker, hdoes.strand_eq]
  · rw [hp]
    exact hserial.trans (by rw [htracker])
  · exact Keeps.nat_counted (.past (openRec_does hq) hkeeps) (placeObject_keeps ..)

theorem execUpperSightingArrival_shadow {image : ObjImage} (hup : s.module.mainUp = true) (hrecs : s.tracker.recs = [])
    (howned : s.owned x.centre = false) (hopen : s.tracker.isOpen = true) :
    ∃ t, execUpperSightingArrival x image s = .next t ∧ t.tracker.recs = []
      ∧ t.tracker.shadows.head?.map (fun h => h.sighting) = some x := by
  unfold execUpperSightingArrival
  rw [if_neg (by simp [hup])]
  extract_lets src s1 s2 face cands
  obtain ⟨recent, up, low, htracker⟩ : ∃ recent up low, s2.tracker = { s.tracker with recent := recent, twinUpper := up, twinLower := low } :=
    twins_arrived ..
  have hdoes : s.Does [.od, .pipe, .tracker] s2 := arrived_does _ _ _ id
  have hrecs2 : s2.tracker.recs = [] := by rw [htracker, hrecs]
  have hcand : bestCand cands = none := by
    simp only [cands, hrecs2]
    rfl
  rw [hcand]
  dsimp -zeta only
  rw [if_neg (by rw [htracker, hopen]; exact nofun), if_neg (by rw [owned_congr hdoes.variant_eq, howned]; exact nofun)]
  exact ⟨_, rfl, hrecs2, rfl⟩

theorem execFixDeadline_result {handle : Nat} {r : Rec} (hrec : s.recOf handle = some r) (hst : r.state = .upperFirst)
    (hrun : s.timeRuns = true) (hcount : s.time.counter ≤ r.deadline) :
    ∃ t, execFixDeadline handle s = .next t ∧ t.time.counter = r.deadline ∧ (t.recOf handle).map (fun y => y.state) = some .predicted
      ∧ t.nat (obj 0x2600 7) = s.counted (obj 0x2600 7) := by
  obtain rfl := recOf_handle hrec
  obtain ⟨p, hp, hpst⟩ := predict_recOf (s := s.atTick r.deadline) (r := r) hrec
  unfold execFixDeadline
  rw [hrec]
  dsimp only
  rw [if_pos hst]
  refine ⟨_, rfl, ?_, ?_, ?_⟩
  · rw [(predictUpperAlone_does ..).time_eq]
    exact atTick_counter hrun hcount
  · exact (congrArg (Option.map _) ((bump_does ..).recOf_eq r.handle |>.trans hp)).trans (congrArg some hpst)
  · exact Keeps.nat_counted (js := [.frames, .events, .one (obj 0x2600 13)]) (.via (predict_keeps ..) (.past (atTick_does ..) .same)) (Keeps.refl [] _)

end

/-- Settles O10: each arrival and the fix deadline from the lemma on its `exec` function. -/
theorem trackerArrivalResults : Obligations.TrackerArrivalResults := by
  unfold Obligations.TrackerArrivalResults
  exact ⟨fun _ _ hup hrecs hshadows howned hopen => execFixArrival_opens hup hrecs hshadows howned hopen,
    fun _ _ _ _ hup hrecs hshadows hst hface hupper hhandle hscore =>
      execFixArrival_associates hup hrecs hshadows hst hface hupper hhandle hscore,
    fun _ _ _ hup hrecs howned hopen hlost => execUpperSightingArrival_opens hup hrecs howned hopen hlost,
    fun _ _ _ hup hrecs howned hopen => execUpperSightingArrival_shadow hup hrecs howned hopen,
    fun _ _ _ hrec hst hrun hcount => execFixDeadline_result hrec hst hrun hcount⟩

end Sys2Proof.Machine
end


section
/-!
Decisions, placement, the governor and the floors.
-/
set_option Elab.async false
set_option linter.all false

namespace Sys2Proof.Machine

open Sys2Proof State

section
variable {s t u : State}

/-! ### Operations that change of the tracker the records alone -/

/-- Of the tracker only the records have changed. -/
def State.OnlyRecs (s t : State) : Prop := ∃ recs, t.tracker = { s.tracker with recs := recs }

theorem State.OnlyRecs.refl (s : State) : s.OnlyRecs s := ⟨_, rfl⟩

theorem State.OnlyRecs.trans (h : s.OnlyRecs t) (k : t.OnlyRecs u) : s.OnlyRecs u := by
  obtain ⟨p, h⟩ := h
  obtain ⟨q, k⟩ := k
  exact ⟨q, by rw [k, h]⟩

theorem State.Does.onlyRecs {ps : List Part} (h : s.Does ps t) (k : Part.tracker ∉ ps := by decide) : s.OnlyRecs t := ⟨_, h.tracker_eq k⟩

theorem State.setRec_onlyRecs (s : State) (r : Rec) : s.OnlyRecs (s.setRec r) := ⟨_, rfl⟩

theorem State.ownChip_onlyRecs (s : State) (r : Rec) (m : ObjImage) : s.OnlyRecs (s.ownChip r m) := by
  unfold State.ownChip
  have h := (queueChip_does s { handle := r.handle, epoch := r.epoch, image := m, channels := imageChannels m, port := r.port }).onlyRecs
  split
  · next e =>
    rw [e] at h
    exact h
  · next e =>
    rw [e] at h
    exact h.trans ((setRec_onlyRecs ..).trans ((bump_does ..).onlyRecs.trans (bump_does ..).onlyRecs))

theorem State.reissueTo_onlyRecs (s : State) (r : Rec) (target : Nat) : s.OnlyRecs (s.reissueTo r target) := by
  unfold State.reissueTo
  split
  · exact .refl s
  · extract_lets +onlyGivenNames q s1
    have h1 : s.OnlyRecs s1 := (setRec_onlyRecs s q).trans (bump_does ..).onlyRecs
    split
    · exact h1.trans (ownChip_onlyRecs ..)
    · exact h1.trans ((sendChip_does ..).onlyRecs.trans (bump_does ..).onlyRecs)

theorem State.reissueGroup_onlyRecs (s : State) (g : Nat) : s.OnlyRecs (s.reissueGroup g) :=
  List.foldlRecOn (motive := s.OnlyRecs) _ _ (.refl s) fun _ ht _ _ => ht.trans ((setRec_onlyRecs ..).trans (reissueTo_onlyRecs ..))

/-- A placement that moves takes the next epoch (05 R167). -/
theorem State.movePlacement_tracker (s : State) (g : Nat) (target : Option Nat) (pinned : Bool) (event counter : Nat) :
    ∃ recs, (s.movePlacement g target pinned event counter).tracker = { s.tracker with
      epoch := (s.tracker.epoch + 1) % 256
      placement := s.tracker.placement.set g { target := target, epoch := (s.tracker.epoch + 1) % 256, pinned := pinned }
      recs := recs } := by
  unfold State.movePlacement
  extract_lets +onlyGivenNames e src s1
  have h : ((s1.raise event g).bump counter).tracker = s1.tracker := (bump_does ..).tracker_eq.trans (raise_does ..).tracker_eq
  obtain ⟨recs, hrecs⟩ := reissueGroup_onlyRecs ((s1.raise event g).bump counter) g
  exact ⟨recs, by rw [hrecs, h]⟩

theorem State.movePlacement_reachable (s : State) (g : Nat) (target : Option Nat) (pinned : Bool) (event counter : Nat) (m : Master) :
    (s.movePlacement g target pinned event counter).reachable m = s.reachable m := by
  unfold State.movePlacement
  rw [(reissueGroup_does ..).reachable_eq, (bump_does ..).reachable_eq, raise_reachable]
  rfl

theorem State.movePlacement_counts (s : State) {g : Nat} {target : Option Nat} {pinned : Bool} {event counter : Nat}
    (hk : reissueKeys.all (·.misses counter) = true) :
    (s.movePlacement g target pinned event counter).nat counter = s.counted counter := by
  unfold State.movePlacement
  simp only [List.all_cons, Bool.and_eq_true] at hk
  refine Keeps.nat_counted (js := [.frames, .events]) (.via (raise_keeps ..) (Keeps.parts _ rfl rfl rfl rfl .same)) (reissueGroup_keeps ..) ?_ ?_
  · simp [hk.1, hk.2.1]
  · simp only [List.all_cons, Bool.and_eq_true]
    exact hk

/-! ### The decision (05 R162, R163) -/

/-- The requests of a record change no part but those of the drive and of what is sent. -/
theorem State.fireSet_does (s : State) (r : Rec) (conf : Nat) :
    s.Does [.freeCtr, .out, .od, .drive, .backdrop, .strand, .side, .recorder] (s.fireSet r conf).1 :=
  Does.foldlFst (fun _ _ _ => fireOne_does ..) (.of (bumpBy_does ..))

/-- The record of the handle has been decided for ejection. -/
theorem State.ejectRec_state {r q : Rec} {conf : Nat} (h : s.recOf r.handle = some q) :
    ((s.ejectRec r conf).recOf r.handle).map (fun y => y.state) = some .eject := by
  unfold State.ejectRec
  exact Eq.trans (congrArg _ (setRec_recOf (by rfl) (((fireSet_does ..).recOf_eq r.handle).trans h))) rfl

theorem State.judge_verdict {r : Rec} {cls conf margin : Nat} (h : r.verdict = some (cls, conf, margin)) :
    s.judge r = (s.bump (obj 0x2600 (if s.callsEject cls conf then 0x0B else 0x0C)), s.callsEject cls conf, conf, r) := by
  unfold State.judge
  rw [h]

section
variable {handle : Nat} {r : Rec} {i : Int} {cls conf margin : Nat}

theorem execFireDecision_pass (hrec : s.recOf handle = some r) (hst : r.state = .predicted) (hdec : r.tdec = some i)
    (hverdict : r.verdict = some (cls, conf, margin)) (hcalls : s.callsEject cls conf = false) (hrun : s.timeRuns = true)
    (hcount : s.time.counter ≤ i.toNat) :
    ∃ t, execFireDecision handle s = .next t ∧ t.time.counter = i.toNat
      ∧ (t.recOf handle).map (fun y => (y.state, y.retireAt)) = some (.pass, r.ta) ∧ t.nat (obj 0x2600 0x0C) = s.counted (obj 0x2600 0x0C) := by
  obtain rfl := recOf_handle hrec
  have hjudge : (s.atTick i.toNat).judge r = ((s.atTick i.toNat).bump (obj 0x2600 0x0C), false, conf, r) := by
    rw [judge_verdict hverdict, show (s.atTick i.toNat).callsEject cls conf = false from hcalls]
    rfl
  refine ⟨_, execFireDecision_predicted hrec hst hdec, ?_⟩
  unfold State.decideRec
  rw [hjudge]
  refine ⟨atTick_counter hrun hcount, ?_, ?_⟩
  · exact congrArg (Option.map _) (setRec_recOf (s := (s.atTick i.toNat).bump (obj 0x2600 0x0C))
      (r := { r with chip := none, state := .pass, retireAt := r.ta }) rfl hrec)
  · exact Keeps.nat_counted (js := []) (.past (atTick_does ..) .same) (ks := []) (.past (setRec_does ..) .same)

theorem execFireDecision_eject (hrec : s.recOf handle = some r) (hst : r.state = .predicted) (hdec : r.tdec = some i)
    (hverdict : r.verdict = some (cls, conf, margin)) (hcalls : s.callsEject cls conf = true) (hrun : s.timeRuns = true)
    (hcount : s.time.counter ≤ i.toNat) :
    ∃ t, execFireDecision handle s = .next t ∧ t.time.counter = i.toNat ∧ (t.recOf handle).map (fun y => y.state) = some .eject
      ∧ t.nat (obj 0x2600 0x0B) = s.counted (obj 0x2600 0x0B) := by
  obtain rfl := recOf_handle hrec
  have hjudge : (s.atTick i.toNat).judge r = ((s.atTick i.toNat).bump (obj 0x2600 0x0B), true, conf, r) := by
    rw [judge_verdict hverdict, show (s.atTick i.toNat).callsEject cls conf = true from hcalls]
    rfl
  refine ⟨_, execFireDecision_predicted hrec hst hdec, ?_⟩
  unfold State.decideRec
  rw [hjudge]
  dsimp only
  rw [if_pos rfl]
  refine ⟨?_, ?_, ?_⟩
  · exact (congrArg TimeSt.counter (fireSet_does ..).time_eq).trans (atTick_counter hrun hcount)
  · exact ejectRec_state (r := { r with chip := none }) hrec
  · exact Keeps.nat_counted (js := []) (.past (atTick_does ..) .same) (ejectRec_keeps ..)

theorem execRecordRetire_result (hrec : s.recOf handle = some r) (hdecided : r.decided = true) (hrun : s.timeRuns = true)
    (hcount : s.time.counter ≤ r.retireAt) :
    ∃ t, execRecordRetire handle s = .next t ∧ t.time.counter = r.retireAt ∧ t.recOf handle = none := by
  unfold execRecordRetire
  rw [hrec]
  dsimp only
  rw [if_pos hdecided]
  exact ⟨_, rfl, atTick_counter hrun hcount, dropRec_recOf ..⟩

end

/-! ### Drop geometry and placement (05 R154, R167) -/

section
variable {m : Master}

theorem execDropGeometryWrite_result {sub value : Nat} (hsub : sub < 256) (hw : s.writable m (obj 0x2601 sub) (.num value) = true) :
    ∃ t, execDropGeometryWrite m sub value s = .next t ∧ t.nat (obj 0x2601 sub) = value
      ∧ t.tracker.priors.all (fun l => l.length == 16 && l.all (fun p => p.n == 0)) = true
      ∧ t.out.head? = some (ack m (obj 0x2601 sub)) := by
  have hreach : (actDropGeometry sub value s).1.reachable m = s.reachable m := by
    unfold actDropGeometry
    rw [(releads_does ..).reachable_eq, raise_reachable, (seedPriors_does ..).reachable_eq]
    rfl
  have hkeeps : (s.putNat (obj 0x2601 sub) value).Keeps [.frames, .events] (actDropGeometry sub value s).1 :=
    .past (releads_does ..) (.via (raise_keeps ..) (.past (seedPriors_does ..) .same))
  have htracker : (actDropGeometry sub value s).1.tracker = (s.keep (obj 0x2601 sub) value).seedPriors.tracker :=
    (releads_does ..).tracker_eq.trans (raise_does ..).tracker_eq
  have hdiv : obj 0x2601 sub / 256 = 0x2601 := by
    unfold obj
    omega
  unfold execDropGeometryWrite
  rw [write_answered hw rfl hreach]
  refine ⟨_, rfl, ?_, ?_, rfl⟩
  · exact (hkeeps.nat_engines (by omega) (by omega)).trans (nat_putNat_self ..)
  · rw [(answer_does ..).tracker_eq, htracker]
    unfold State.seedPriors
    simp

theorem actPlacement_accepted {g value : Nat} (hnone : bits value 11 0 ≠ 0xFFF) (htopo : (s.topoOf (bits value 11 0)).isSome = true)
    (hwithin : s.within (s.nat (obj 0x2605 7)) [s.strand.id] (bits value 11 0) = true) :
    actPlacement g value s
      = (s.movePlacement g (if bits value 11 0 = s.strand.id then none else some (bits value 11 0)) (bitOf value 31) 0x5005 (obj 0x260E 0x0B), 0) := by
  unfold actPlacement
  exact if_neg (by simp [hnone, hwithin, Option.isSome_iff_ne_none.1 htopo])

theorem execPlacementWrite_result {group value : Nat} (hs : s.tracker.shaped) (hg : group < 16)
    (hw : s.writable m (obj 0x2604 (group + 1)) (.num value) = true) (hnone : bits value 11 0 ≠ 0xFFF)
    (htopo : (s.topoOf (bits value 11 0)).isSome = true)
    (hwithin : s.within (s.nat (obj 0x2605 7)) [s.strand.id] (bits value 11 0) = true) :
    ∃ t, execPlacementWrite m group value s = .next t ∧ (s.tracker.epoch + 1) % 256 = t.tracker.epoch
      ∧ t.placementOf group = { target := if bits value 11 0 = s.strand.id then none else some (bits value 11 0), epoch := (s.tracker.epoch + 1) % 256, pinned := bitOf value 31 }
      ∧ t.nat (obj 0x260E 0x0B) = s.counted (obj 0x260E 0x0B) ∧ t.out.head? = some (ack m (obj 0x2604 (group + 1))) := by
  obtain ⟨recs, htracker⟩ := movePlacement_tracker s group (if bits value 11 0 = s.strand.id then none else some (bits value 11 0))
    (bitOf value 31) 0x5005 (obj 0x260E 0x0B)
  unfold execPlacementWrite
  rw [write_answered hw (actPlacement_accepted hnone htopo hwithin) (movePlacement_reachable ..)]
  refine ⟨_, rfl, ?_, ?_, movePlacement_counts s (by decide), rfl⟩
  · exact (congrArg Tracker.epoch htracker).symm
  · exact (congrArg (·.placement.getD group {}) htracker).trans (getD_set_self _ _ _ _ (hg.trans_eq hs.symm))

end

/-! ### The governor and the floors (05 R157, R172) -/

theorem State.returnGroup_governorAt (s : State) (groups : List Nat) : (s.returnGroup groups).tracker.governorAt = s.tracker.governorAt := by
  unfold State.returnGroup
  split
  · split
    · obtain ⟨recs, h⟩ := movePlacement_tracker { s with tracker := { s.tracker with lowSince := some s.clk } } _ none false 0x5006 (obj 0x260E 0x0C)
      rw [h]
    · rfl
  · rfl

theorem governorStep_result (s : State) : ∃ t, governorStep s = .next t ∧ t.clk = s.clk ∧ t.tracker.governorAt = s.clk := by
  unfold governorStep
  extract_lets +onlyGivenNames src s1 load high low src2 s2 groups
  have hreturn : (s2.returnGroup groups).clk = s.clk ∧ (s2.returnGroup groups).tracker.governorAt = s.clk :=
    ⟨(returnGroup_does ..).clk_eq, returnGroup_governorAt ..⟩
  split
  · extract_lets +onlyGivenNames own best to_
    clear_value best to_
    split
    · next g id _ =>
      obtain ⟨recs, h⟩ := movePlacement_tracker s2 g (some id) false 0x5006 (obj 0x260E 0x0C)
      exact ⟨_, rfl, (movePlacement_does ..).clk_eq, by rw [h]⟩
    · exact ⟨_, rfl, rfl, rfl⟩
    · exact ⟨_, rfl, hreturn⟩
  · exact ⟨_, rfl, hreturn⟩

theorem execGovernorRun_result (hup : s.module.mainUp = true) (hon : s.nat (obj 0x2605 2) ≠ 0)
    (hclk : s.clk ≤ s.tracker.governorAt + 10 * msTicks) :
    ∃ t, execGovernorRun s = .next t ∧ t.clk = s.tracker.governorAt + 10 * msTicks ∧ t.tracker.governorAt = t.clk := by
  obtain ⟨t, ht, htclk, hat⟩ := governorStep_result (s.atClk (s.tracker.governorAt + 10 * msTicks))
  rw [execGovernorRun_eq, if_neg (by simp [hup, hon])]
  exact ⟨t, ht, htclk.trans (atClk_clk hclk), hat.trans htclk.symm⟩

theorem State.noise2_atClk (s : State) (u port : Nat) (pairs : List Int) : (s.atClk u).noise2 port pairs = s.noise2 port pairs := by
  unfold State.noise2 State.linePeriod
  rw [(atClk_does ..).variant_eq, (atClk_does ..).nat_eq, (atClk_does ..).nat_eq]

theorem State.recomputeFloors_nat (s : State) :
    s.recomputeFloors.nat (obj 0x2602 7) = min 1000 (roundN (sqrtQ (s.noise2 2 s.tracker.twinUpper) * 1000))
      ∧ s.recomputeFloors.nat (obj 0x2602 8) = min 1000 (roundN (sqrtQ (s.noise2 0 s.tracker.twinLower) * 1000)) := by
  unfold State.recomputeFloors State.keep
  generalize min 1000 (roundN (sqrtQ (s.noise2 2 s.tracker.twinUpper) * 1000)) = up
  generalize min 1000 (roundN (sqrtQ (s.noise2 0 s.tracker.twinLower) * 1000)) = low
  exact ⟨(nat_putNat_other (s.putNat (obj 0x2602 7) up) (j := obj 0x2602 7) low (by decide)).trans (nat_putNat_self ..), nat_putNat_self ..⟩

theorem State.recomputeFloors_floorAt (s : State) : s.recomputeFloors.tracker.floorAt = s.recomputeFloors.clk := by
  unfold State.recomputeFloors
  rfl

theorem execFloorRecompute_result (hup : s.module.mainUp = true) (hclk : s.clk ≤ s.tracker.floorAt + secTicks) :
    ∃ t, execFloorRecompute s = .next t ∧ t.clk = s.tracker.floorAt + secTicks ∧ t.tracker.floorAt = t.clk
      ∧ t.nat (obj 0x2602 7) = min 1000 (roundN (sqrtQ (s.noise2 2 s.tracker.twinUpper) * 1000))
      ∧ t.nat (obj 0x2602 8) = min 1000 (roundN (sqrtQ (s.noise2 0 s.tracker.twinLower) * 1000)) := by
  obtain ⟨hup7, hlow8⟩ := recomputeFloors_nat (s.atClk (s.tracker.floorAt + secTicks))
  rw [noise2_atClk, (atClk_does ..).tracker_eq] at hup7 hlow8
  unfold execFloorRecompute
  rw [if_neg (by simp [hup])]
  refine ⟨_, rfl, ?_, ?_, ?_, ?_⟩
  · exact (recomputeFloors_does ..).clk_eq.trans (atClk_clk hclk)
  · exact recomputeFloors_floorAt ..
  · exact hup7
  · exact hlow8

end

/-- Settles O11: each command from the lemma on its `exec` function. -/
theorem trackerDecisionResults : Obligations.TrackerDecisionResults := by
  unfold Obligations.TrackerDecisionResults
  exact ⟨fun _ _ _ _ _ _ _ hrec hst hdec hverdict hcalls hrun hcount => execFireDecision_pass hrec hst hdec hverdict hcalls hrun hcount,
    fun _ _ _ _ _ _ _ hrec hst hdec hverdict hcalls hrun hcount => execFireDecision_eject hrec hst hdec hverdict hcalls hrun hcount,
    fun _ _ _ hrec hdecided hrun hcount => execRecordRetire_result hrec hdecided hrun hcount,
    fun _ _ _ _ hsub hw => execDropGeometryWrite_result hsub hw,
    fun _ _ _ _ hs hg hw hnone htopo hwithin => execPlacementWrite_result hs hg hw hnone htopo hwithin,
    fun _ hup hon hclk => execGovernorRun_result hup hon hclk,
    fun _ hup hclk => execFloorRecompute_result hup hclk⟩

end Sys2Proof.Machine
end


section
/-!
What traffic leaves of the Strand, and the messages of the Ferry.
-/
set_option Elab.async false
set_option linter.all false

namespace Sys2Proof.Machine

open Sys2Proof State

/-! ### Traffic leaves all of the Strand but its links -/

section
variable {s t u : State}

/-- Of the Strand only what stands on the links and the number of the next event have changed. -/
def State.OnlyTraffic (s t : State) : Prop := ∃ links seq, t.strand = { s.strand with links := links, eventSeq := seq }

theorem State.OnlyTraffic.refl (s : State) : s.OnlyTraffic s := ⟨_, _, rfl⟩

theorem State.OnlyTraffic.trans (h : s.OnlyTraffic t) (k : t.OnlyTraffic u) : s.OnlyTraffic u := by
  obtain ⟨l, n, h⟩ := h
  obtain ⟨l', n', k⟩ := k
  exact ⟨l', n', by rw [k, h]⟩

theorem State.OnlyTraffic.ite {c : Prop} [Decidable c] (h : s.OnlyTraffic t) (k : s.OnlyTraffic u) : s.OnlyTraffic (if c then t else u) := by
  split
  · exact h
  · exact k

theorem State.Does.onlyTraffic {ps : List Part} (h : s.Does ps t) (k : Part.strand ∉ ps := by decide) : s.OnlyTraffic t := ⟨_, _, h.strand_eq k⟩

theorem State.OnlyTraffic.chips (h : s.OnlyTraffic t) : t.strand.chips = s.strand.chips := by
  obtain ⟨l, n, h⟩ := h
  rw [h]

theorem State.setLink_onlyTraffic (s : State) (l : Nat) (c : LinkSt) : s.OnlyTraffic (s.setLink l c) := ⟨_, _, rfl⟩

theorem State.startFrame_onlyTraffic (s : State) (l v : Nat) : s.OnlyTraffic (s.startFrame l v) := by
  unfold State.startFrame
  dsimp only
  split
  · exact .refl s
  · exact (setLink_onlyTraffic ..).trans ((emit_does ..).onlyTraffic.trans (bump_does ..).onlyTraffic)

theorem State.startAgain_onlyTraffic (s : State) (l : Nat) : s.OnlyTraffic (s.startAgain l) := by
  unfold State.startAgain
  dsimp only
  split
  · exact .refl s
  · exact (setLink_onlyTraffic ..).trans (emit_does ..).onlyTraffic

theorem State.putOnWire_onlyTraffic (s : State) (l : Nat) (w : Wire) : s.OnlyTraffic (s.putOnWire l w) := by
  cases w with
  | frame v => exact startFrame_onlyTraffic ..
  | again => exact startAgain_onlyTraffic ..
  | interrupt left v => exact (setLink_onlyTraffic ..).trans (startFrame_onlyTraffic ..)
  | resume =>
    unfold State.putOnWire
    dsimp only
    split
    · exact .refl s
    · exact (setLink_onlyTraffic ..).trans (emit_does ..).onlyTraffic

theorem State.drain_onlyTraffic (n : Nat) (s : State) (l now : Nat) : s.OnlyTraffic (State.drain n s l now) := by
  induction n generalizing s with
  | zero => exact .refl s
  | succ n ih =>
    unfold State.drain
    split
    · exact .refl s
    · exact (putOnWire_onlyTraffic ..).trans (ih _)

theorem State.pump_onlyTraffic (s : State) (l : Nat) : s.OnlyTraffic (s.pump l) := by
  unfold State.pump
  exact .ite (.refl s) ((drain_onlyTraffic ..).trans (setLink_onlyTraffic ..))

theorem State.egress_onlyTraffic (s : State) (l : Nat) (f : Frame) : s.OnlyTraffic (s.egress l f) := by
  unfold State.egress
  exact (pump_onlyTraffic s l).trans ((setLink_onlyTraffic ..).trans (pump_onlyTraffic ..))

theorem State.routeOut_onlyTraffic (s : State) (f : Frame) : s.OnlyTraffic (s.routeOut f).1 := by
  unfold State.routeOut
  split
  · exact .refl s
  · dsimp only
    refine OnlyTraffic.trans (State.Does.onlyTraffic (ps := [.od]) ?_) (egress_onlyTraffic ..)
    exact .ite (.via (bump_does ..) (.ite (bump_does ..) .same)) (.ite (bump_does ..) .same)
  · exact (bump_does ..).onlyTraffic
  · exact (bump_does ..).onlyTraffic

theorem State.eventFrame_onlyTraffic (s : State) (dest code sev arg : Nat) : s.OnlyTraffic (s.eventFrame dest code sev arg).1 := by
  unfold State.eventFrame State.message
  exact OnlyTraffic.trans ⟨_, _, rfl⟩ (routeOut_onlyTraffic ..)

theorem State.eventFrames_onlyTraffic (code sev arg : Nat) (ns : List Nat) (s : State) :
    s.OnlyTraffic (State.eventFrames code sev arg ns s).1 := by
  induction ns generalizing s with
  | nil => exact .refl s
  | cons n ns ih => exact (eventFrame_onlyTraffic s n code sev arg).trans (ih _)

theorem State.eventToHost_onlyTraffic (s : State) (code sev arg : Nat) : s.OnlyTraffic (s.eventToHost code sev arg).1 := by
  unfold State.eventToHost
  split
  · exact (bump_does ..).onlyTraffic
  · exact eventFrame_onlyTraffic ..

theorem State.noteDropped_onlyTraffic (s : State) (dropped : Bool) : s.OnlyTraffic (s.noteDropped dropped) := by
  unfold State.noteDropped State.noteDrop
  exact .ite (.ite ((noteRaised_does ..).onlyTraffic.trans ((logEvent_does ..).onlyTraffic.trans (eventToHost_onlyTraffic ..))) (.refl s)) (.refl s)

theorem State.sendEvent_onlyTraffic (s : State) (code sev arg : Nat) : s.OnlyTraffic (s.sendEvent code sev arg) := by
  unfold State.sendEvent
  exact .ite (.refl s) ((eventFrames_onlyTraffic code sev arg _ s).trans ((eventToHost_onlyTraffic ..).trans (noteDropped_onlyTraffic ..)))

/-- An event below S2 triggers nothing: it is logged and sent. -/
theorem State.raise_onlyTraffic (s : State) {code : Nat} (arg : Nat) (h : severityOf code < 2) : s.OnlyTraffic (s.raise code arg) := by
  unfold State.raise State.raiseAs State.raiseLow
  dsimp only
  rw [if_neg (not_le.2 h)]
  exact (logEvent_does ..).onlyTraffic.trans (sendEvent_onlyTraffic ..)

theorem State.raiseSlow_onlyTraffic (s : State) {code : Nat} (arg : Nat) (h : severityOf code < 2) : s.OnlyTraffic (s.raiseSlow code arg) := by
  unfold State.raiseSlow
  exact .ite ((noteRaised_does ..).onlyTraffic.trans (raise_onlyTraffic _ arg h)) (.refl s)

end

/-! ### Chips (05 R169, 13 R374, R375) -/

section
variable {s : State} {src handle epoch segment count sendTick : Nat} {data : List Byte}

/-- The reassembly to which a segment belongs. -/
abbrev sameChip (src handle epoch sendTick : Nat) (c : ChipParts) : Bool :=
  c.src == src && c.handle == handle && c.epoch == epoch && c.sendTick == sendTick

theorem chips_of_none {l : List ChipParts} {p : ChipParts → Bool} (h : l.all (fun c => !p c) = true) :
    l.find? p = none ∧ l.filter (fun c => !p c) = l :=
  ⟨List.find?_eq_none.2 fun c hc => by simpa using List.all_eq_true.1 h c hc, List.filter_eq_self.2 (List.all_eq_true.1 h)⟩

/-- The first segment that comes of a chip: its reassembly begins, and where it is the only one it is complete. -/
theorem execChipFrame_first (hup : s.module.mainUp = true)
    (hnew : s.strand.chips.all (fun c => !sameChip src handle epoch sendTick c) = true) :
    execChipFrame src handle epoch segment count sendTick data s =
      if count ≤ 1 then .next (s.takeChip src handle epoch sendTick (joinSegments [(segment, data)] count))
      else .next { s with strand := { s.strand with chips := s.strand.chips ++
        [{ src := src, handle := handle, epoch := epoch, count := count, sendTick := sendTick, segments := [(segment, data)], since := s.clk }] } } := by
  obtain ⟨hfind, hrest⟩ := chips_of_none hnew
  unfold execChipFrame
  rw [if_neg (by simp [State.strandOn, hup])]
  dsimp only
  rw [hfind, hrest]
  rfl

theorem execChipFrame_waits (hup : s.module.mainUp = true) (hcount : 1 < count)
    (hnew : s.strand.chips.all (fun c => !sameChip src handle epoch sendTick c) = true) :
    ∃ t, execChipFrame src handle epoch segment count sendTick data s = .next t
      ∧ t.strand.chips = s.strand.chips ++ [{ src := src, handle := handle, epoch := epoch, count := count, sendTick := sendTick, segments := [(segment, data)], since := s.clk }]
      ∧ t.pipe = s.pipe :=
  ⟨_, (execChipFrame_first hup hnew).trans (if_neg (not_le.2 hcount)), rfl, rfl⟩

theorem State.takeJob_working {w : ObjJob} (h : s.pipe.objWork = some w) : s.takeJob = s := by
  unfold State.takeJob
  rw [h]

/-- Behind an object in work a chip waits in the chip queue, where that has room. -/
theorem State.queueChip_waits {w : ObjJob} (j : ObjJob) (hwork : s.pipe.objWork = some w) (hroom : s.pipe.chipQueue.length < 256) :
    ∃ bank edges, s.queueChip j
      = ({ s with pipe := { s.pipe with chipQueue := s.pipe.chipQueue ++ [{ j with bank := bank, edges := edges, since := s.clk }] } }, false) := by
  unfold State.queueChip
  dsimp only
  rw [takeJob_working hwork, if_pos hroom, takeJob_working (by exact hwork)]
  exact ⟨_, _, rfl⟩

theorem execChipFrame_queued {w : ObjJob} (hup : s.module.mainUp = true)
    (hnew : s.strand.chips.all (fun c => !sameChip src handle epoch sendTick c) = true) (hbar : s.fabricBarred = false)
    (hst : s.module.state = .sorting) (hwork : s.pipe.objWork = some w) (hroom : s.pipe.chipQueue.length < 256) :
    ∃ t, execChipFrame src handle epoch segment 1 sendTick data s = .next t ∧ t.strand.chips = s.strand.chips
      ∧ t.pipe.chipQueue.map (fun j => (j.handle, j.epoch, j.sender))
        = s.pipe.chipQueue.map (fun j => (j.handle, j.epoch, j.sender)) ++ [(handle, epoch, some (src, sendTick))] := by
  rw [execChipFrame_first hup hnew, if_pos le_rfl]
  unfold State.takeChip
  rw [hbar, if_neg (by simp), if_neg (not_not.2 hst)]
  obtain ⟨bank, edges, hqueue⟩ := queueChip_waits { handle := handle, epoch := epoch, image := chipImage (joinSegments [(segment, data)] 1), channels := field (joinSegments [(segment, data)] 1) 1 1, sender := some (src, sendTick), port := field (joinSegments [(segment, data)] 1) 0 1 } hwork hroom
  rw [hqueue]
  exact ⟨_, rfl, rfl, by simp⟩

theorem execChipReassemblyTimeout_result {c : ChipParts}
    (hfind : s.strand.chips.find? (fun c => c.src == src && c.handle == handle && c.epoch == epoch) = some c)
    (hclk : s.clk ≤ c.since + 100 * usTicks) :
    ∃ t, execChipReassemblyTimeout src handle epoch s = .next t ∧ t.clk = c.since + 100 * usTicks
      ∧ t.strand.chips = dropFirst (fun c => c.src == src && c.handle == handle && c.epoch == epoch) s.strand.chips
      ∧ t.nat (obj 0x2206 0x0E) = s.counted (obj 0x2206 0x0E) := by
  unfold execChipReassemblyTimeout
  extract_lets this
  rw [hfind]
  dsimp -zeta only
  extract_lets s1
  refine ⟨_, rfl, ?_, ?_, ?_⟩
  · exact (raiseSlow_does ..).clk_eq.trans (atClk_clk hclk)
  · exact (raiseSlow_onlyTraffic _ src (by decide)).chips
  · exact Keeps.nat_counted (js := []) (Keeps.parts _ rfl rfl rfl rfl (.past (atClk_does ..) .same)) (raiseSlow_keeps ..)

/-! ### Verdicts and refusals (05 R169, R170) -/

theorem State.roundTrip_tick (s : State) (sent : Nat) : (s.roundTrip sent).tick = s.tick := congrArg TimeSt.counter (roundTrip_does ..).time_eq

/-- A verdict that comes in time settles its record. -/
theorem State.verdict_settles {r : Rec} {v : Nat × Nat × Nat} {bank model : Nat} (hrec : s.recOf handle = some r) (hset : r.settled = false)
    (htime : s.tick ≤ sendTick + s.nat (obj 0x2605 8) * msTicks) :
    s.verdict (some sendTick) handle epoch v bank model
      = ((s.setRec { r with verdict := some v, bank := bank, model := model, chip := none }).bump (obj 0x260E 6)).sample 4 v.2.2 := by
  have hlate : ¬(sendTick : Int) + (s.nat (obj 0x2605 8) * msTicks : Nat) < s.tick := by omega
  unfold State.verdict
  dsimp only
  rw [hrec]
  dsimp only
  rw [if_neg (by simpa using hlate), if_neg (by simp [hset])]
  rfl

theorem execVerdictMessage_result {cls conf margin bank model : Nat} {r : Rec} (hup : s.module.mainUp = true) (hbar : s.fabricBarred = false)
    (hrec : s.recOf handle = some r) (hset : r.settled = false) (htime : s.tick ≤ sendTick + s.nat (obj 0x2605 8) * msTicks) :
    ∃ t, execVerdictMessage src sendTick handle epoch cls conf ⟨margin, bank, model⟩ s = .next t
      ∧ (t.recOf handle).map (fun y => (y.verdict, y.bank, y.model, y.chip)) = some (some (cls, conf, margin), bank, model, none)
      ∧ t.nat (obj 0x260E 0x0D) = (s.tick - sendTick) * 5 / 4 ∧ t.nat (obj 0x260E 6) = s.counted (obj 0x260E 6) := by
  have hround := roundTrip_keeps s sendTick
  have hrec1 : (s.roundTrip sendTick).recOf handle = some r := ((roundTrip_does ..).recOf_eq handle).trans hrec
  have hns : (s.roundTrip sendTick).nat (obj 0x260E 0x0D) = (s.tick - sendTick) * 5 / 4 :=
    ((sample_does ..).nat_eq _).trans ((nat_putNat_other _ _ (by decide)).trans (nat_putNat_self ..))
  unfold execVerdictMessage
  rw [if_neg (by simp [hup, hbar])]
  dsimp only
  rw [verdict_settles hrec1 hset (by rw [roundTrip_tick, hround.nat_missed]; exact htime)]
  obtain rfl := recOf_handle hrec
  refine ⟨_, rfl, ?_, ?_, ?_⟩
  · rw [(sample_does ..).recOf_eq, (bump_does ..).recOf_eq]
    exact Eq.trans (congrArg _ (setRec_recOf (by rfl) hrec1)) rfl
  · rw [(sample_does ..).nat_eq, nat_bump_other _ (by decide), (setRec_does ..).nat_eq, hns]
  · exact Keeps.nat_counted (t := (s.roundTrip sendTick).setRec { r with verdict := some (cls, conf, margin), bank := bank, model := model, chip := none }) (.past (setRec_does ..) hround) (.past (ps := [.recorder]) (ks := []) (sample_does ..) .same)

theorem State.reissueTo_own {r : Rec} {image : ObjImage} {w : ObjJob} (hchip : r.chip = some image) (hwork : s.pipe.objWork = some w)
    (hroom : s.pipe.chipQueue.length < 256) :
    ∃ j, s.reissueTo r s.strand.id
      = { ((s.setRec { r with reissued := true, chip := some image }).bump (obj 0x260E 2)) with pipe := { s.pipe with chipQueue := s.pipe.chipQueue ++ [j] } } := by
  unfold State.reissueTo State.ownChip
  rw [hchip]
  dsimp only
  rw [if_pos (by simp; exact .inl rfl)]
  obtain ⟨bank, edges, hqueue⟩ := queueChip_waits (s := (s.setRec { r with reissued := true, chip := some image }).bump (obj 0x260E 2))
    { handle := r.handle, epoch := r.epoch, image := image, channels := imageChannels image, port := r.port } hwork hroom
  rw [hqueue]
  exact ⟨_, rfl⟩

theorem execRefusalMessage_result {cause : Nat} {r : Rec} {image : ObjImage} {w : ObjJob} (hup : s.module.mainUp = true)
    (hbar : s.fabricBarred = false) (hrec : s.recOf handle = some r) (hepoch : epoch % 256 = r.epoch % 256) (hset : r.settled = false)
    (hrefused : r.chipRefused = false) (hdec : r.tdec = none) (hchip : r.chip = some image) (hwork : s.pipe.objWork = some w)
    (hroom : s.pipe.chipQueue.length < 256) :
    ∃ t, execRefusalMessage src sendTick handle epoch cause s = .next t ∧ t.pipe.chipQueue.length = s.pipe.chipQueue.length + 1
      ∧ t.nat (obj 0x260E 3) = s.counted (obj 0x260E 3) ∧ t.nat (obj 0x260E 2) = s.counted (obj 0x260E 2) := by
  unfold execRefusalMessage
  rw [if_neg (by simp [hup, hbar])]
  extract_lets s1
  have hdoes : s.Does [.out, .od, .backdrop, .strand, .side, .recorder] s1 :=
    .via (raiseSlow_does ..) (.via (bump_does ..) (.of (roundTrip_does ..)))
  have hround := roundTrip_keeps s sendTick
  have hrefusals : ((s.roundTrip sendTick).bump (obj 0x260E 3)).Keeps [.frames, .events] s1 := raiseSlow_keeps ..
  have hmargin : s1.beyondMargin r = true := by
    unfold State.beyondMargin
    rw [hdec]
  have hpipe : s1.pipe = s.pipe := hdoes.pipe_eq
  obtain ⟨j, hj⟩ := reissueTo_own (s := s1) hchip (by rw [hpipe, hwork]) (by rw [hpipe]; exact hroom)
  rw [(hdoes.recOf_eq handle).trans hrec]
  dsimp only
  rw [if_neg (by simp [hepoch, hset, hrefused, hmargin]), hj]
  have hlast : ∀ p : Pipeline, ∀ k, { ((s1.setRec { r with reissued := true, chip := some image }).bump (obj 0x260E 2)) with pipe := p }.nat k
      = (s1.bump (obj 0x260E 2)).nat k := fun _ _ => rfl
  refine ⟨_, rfl, ?_, ?_, ?_⟩
  · simp [hpipe]
  · rw [hlast, nat_bump_other _ (by decide)]
    exact Keeps.nat_counted hround hrefusals
  · rw [hlast]
    exact Keeps.nat_counted (js := [.frames, .events, .one (obj 0x260E 3), .one (obj 0x260E 13), .one (obj 0x260E 14)])
      (.via hrefusals (.via (bump_keeps ..) (.of hround))) (Keeps.refl [] _)

end

/-! ### A FIRE of a neighbour that is accepted (05 R165) -/

/-- What a request counts in besides its own count. -/
abbrev requestTestKeys : List KeySet :=
  [.frames, .events, .one (obj 0x2107 5), .one (obj 0x2700 15), .one (obj 0x2700 16), .one (obj 0x2700 17), .valves 0x2726,
   .one (obj 0x2700 12), .one (obj 0x2700 14), .one (obj 0x2700 6), .one (obj 0x2700 9), .one (obj 0x2700 8), .one (obj 0x2700 13)]

/-- A request is counted before its tests. -/
theorem State.request_counts (s : State) {r : Request} (hv : r.valve < 256) :
    (s.bump (obj 0x2700 5)).Keeps requestTestKeys (s.request r) := by
  unfold State.request
  extract_lets +onlyGivenNames s1 v r2
  have hskip : Cov [.one (valveKey 0x2726 v), .one (obj 0x2700 12)] requestTestKeys := .more (.valve hv (by decide)) (.mem (by decide))
  refine .ite (.of (bump_keeps ..)) (.ite (.of (bump_keeps ..)) (.ite (.of (bump_keeps ..)) (.ite (.of (bump_keeps ..))
    (.ite (Keeps.mono (skipCount_keeps ..) hskip) ?_))))
  split
  extract_lets +onlyGivenNames handled s3
  refine .keep s3 (.past (refill_does ..) (Keeps.pairSnd (by assumption) (.past (draw_does ..) .same))) fun h3 => ?_
  exact .ite (.via (queueShot_keeps ..) h3) (.ite (.via (raiseSlow_keeps ..) (.via (bump_keeps ..) h3)) (.via (test7_keeps ..) h3))

theorem execFireMessage_result {src valve ta shotEnd handle conf : Nat} {cover : Bool} {s : State} (hloader : s.module.loader = false)
    (hup : s.module.mainUp = true) (hbar : s.fabricBarred = false) (hsrc : src = s.beside portE ∨ src = s.beside portW)
    (hvalve : valve < s.valveCount) (hfire : s.fireAllowed = true) (htime : s.tick + 32 ≤ ta - (s.valve valve).lead)
    (havail : s.available valve = true) :
    ∃ t, execFireMessage src valve ta shotEnd handle conf cover s = .next t
      ∧ t.nat (obj 0x260F (3 + if src = s.beside portE then 0 else 1)) = s.counted (obj 0x260F (3 + if src = s.beside portE then 0 else 1))
      ∧ t.nat (obj 0x2700 5) = s.counted (obj 0x2700 5) := by
  have hlt : valve < 256 := hvalve.trans_le s.valveCount_le
  unfold execFireMessage
  rw [if_neg (by simp [State.strandOn, hup])]
  extract_lets e w i o s1 req r
  have hi : i = 0 ∨ i = 1 := by
    unfold i
    split
    · exact .inl rfl
    · exact .inr rfl
  rw [if_neg (by simp [show src = e ∨ src = w from hsrc, hvalve])]
  change ∃ t : State, _ ∧ t.nat (obj 0x260F (3 + i)) = s.counted (obj 0x260F (3 + i)) ∧ _
  clear_value i
  rw [if_neg (by rw [show s1.module.loader = false from hloader]; exact nofun), if_neg (by rw [show s1.fabricBarred = false from hbar]; exact nofun),
    if_neg (by rw [show s1.fireAllowed = true from hfire]; exact nofun), if_neg (by exact not_lt.2 htime),
    if_pos (by rw [show s1.available valve = true from havail]; rfl)]
  refine ⟨_, rfl, ?_, ?_⟩
  · refine Keeps.nat_counted (Keeps.refl [] s) (Keeps.mono (request_keeps ..) (requestKeys_cov hlt)) (by simp) ?_
    rcases hi with rfl | rfl <;> decide
  · refine Keeps.nat_counted (js := [.one (obj 0x260F (3 + i))]) (.of (bump_keeps ..) (by simp)) (request_counts _ hlt) ?_
    rcases hi with rfl | rfl <;> decide

/-- Settles O12: each message of the Ferry from the lemma on its `exec` function. -/
theorem ferryResults : Obligations.FerryResults := by
  unfold Obligations.FerryResults
  exact ⟨fun _ _ _ _ _ _ _ _ _ hup hcount hnew => execChipFrame_waits hup hcount hnew,
    fun _ _ _ _ _ _ _ _ _ hup hnew hbar hst hwork hroom => execChipFrame_queued hup hnew hbar hst hwork hroom,
    fun _ _ _ _ _ hfind hclk => execChipReassemblyTimeout_result hfind hclk,
    fun src _ _ _ _ _ _ _ _ _ _ hup hbar hrec hset htime => execVerdictMessage_result (src := src) hup hbar hrec hset htime,
    fun _ _ _ _ _ _ _ _ _ hup hbar hrec hepoch hset hrefused hdec hchip hwork hroom =>
      execRefusalMessage_result hup hbar hrec hepoch hset hrefused hdec hchip hwork hroom,
    fun _ _ _ _ _ _ _ _ hloader hup hbar hsrc hvalve hfire htime havail =>
      execFireMessage_result hloader hup hbar hsrc hvalve hfire htime havail⟩

end Sys2Proof.Machine
end


section
/-!
The invariant, at reset and in every step.
-/
set_option Elab.async false
set_option linter.all false

namespace Sys2Proof.Machine

open Sys2Proof State

/-! ### The invariant at reset -/

/-- Settles O41: nothing is written at reset, and every part stands with the entries the manual gives the block. -/
theorem resetMeetsTheInvariant : Obligations.ResetMeetsTheInvariant where
  mem := rfl
  od := rfl
  cams := rfl
  time := ⟨rfl, rfl, rfl⟩
  pipe := ⟨rfl, rfl⟩
  tracker := rfl
  drive := ⟨List.length_replicate, List.length_replicate⟩
  seqs := ⟨List.length_replicate, List.length_replicate⟩
  loops := ⟨rfl, rfl, rfl⟩
  thermal := rfl
  backdrop := ⟨rfl, rfl, rfl⟩
  strand := ⟨rfl, rfl, rfl⟩
  dict := ⟨rfl, rfl, rfl⟩
  side := ⟨rfl, rfl, by decide⟩
  pins := rfl
  dma := rfl
  recorder := ⟨rfl, rfl, rfl, by decide, rfl⟩

/-! ### The invariant in every step -/

/-- The invariant does not speak of the queue of waiting commands. -/
theorem State.Inv.withPending {s : State} (h : s.Inv) (r : List Instr) : State.Inv { s with pending := r } :=
  ⟨h.mem, h.od, h.cams, h.time, h.pipe, h.tracker, h.drive, h.seqs, h.loops, h.thermal, h.backdrop, h.strand, h.dict, h.side, h.pins, h.dma,
    h.recorder⟩

/-- Whatever the command, its outcome is reached by operations that keep the invariant. -/
theorem exec_does (c : Instr) (s : State) : ∃ ps, NextDoes ps s (exec c s) := by
  cases c with
  | syncInterval => exact ⟨_, execSyncInterval_does ..⟩
  | timeSync => exact ⟨_, execTimeSync_does ..⟩
  | timeReply => exact ⟨_, execTimeReply_does ..⟩
  | timeFollow => exact ⟨_, execTimeFollow_does ..⟩
  | upstreamTimeout => exact ⟨_, execUpstreamTimeout_does ..⟩
  | electionTimeout => exact ⟨_, execElectionTimeout_does ..⟩
  | announce => exact ⟨_, execAnnounce_does ..⟩
  | holdoverLimit => exact ⟨_, execHoldoverLimit_does ..⟩
  | learnedFrequencyValid => exact ⟨_, execLearnedFrequencyValid_does ..⟩
  | rootPllLockLost => exact ⟨_, execRootPllLockLost_does ..⟩
  | syncInEdge => exact ⟨_, execSyncInEdge_does ..⟩
  | syncOutPulse => exact ⟨_, execSyncOutPulse_does ..⟩
  | lineTrigger => exact ⟨_, execLineTrigger_does ..⟩
  | gateEdge => exact ⟨_, execGateEdge_does ..⟩
  | pairingTimeout => exact ⟨_, execPairingTimeout_does ..⟩
  | lineStart => exact ⟨_, execLineStart_does ..⟩
  | lineComplete => exact ⟨_, execLineComplete_does ..⟩
  | shortLine => exact ⟨_, execShortLine_does ..⟩
  | fifoOverrun => exact ⟨_, execFifoOverrun_does ..⟩
  | fvalFall => exact ⟨_, execFvalFall_does ..⟩
  | settingsCommand => exact ⟨_, execSettingsCommand_does ..⟩
  | rawTransmit => exact ⟨_, execRawTransmit_does ..⟩
  | settingsTransmitStart => exact ⟨_, execSettingsTransmitStart_does ..⟩
  | settingsTransmitEnd => exact ⟨_, execSettingsTransmitEnd_does ..⟩
  | serialReceive => exact ⟨_, execSerialReceive_does ..⟩
  | replyTimeout => exact ⟨_, execReplyTimeout_does ..⟩
  | cc1WidthApply => exact ⟨_, execCc1WidthApply_does ..⟩
  | startPort => exact ⟨_, execStartPort_does ..⟩
  | startPlane => exact ⟨_, execStartPlane_does ..⟩
  | stopStream => exact ⟨_, execStopStream_does ..⟩
  | poclDetectionDone => exact ⟨_, execPoclDetectionDone_does ..⟩
  | pixelClockStable => exact ⟨_, execPixelClockStable_does ..⟩
  | pixelClockTimeout => exact ⟨_, execPixelClockTimeout_does ..⟩
  | startupBlockSent => exact ⟨_, execStartupBlockSent_does ..⟩
  | settleElapsed => exact ⟨_, execSettleElapsed_does ..⟩
  | poclTrip => exact ⟨_, execPoclTrip_does ..⟩
  | poclReapply => exact ⟨_, execPoclReapply_does ..⟩
  | poclRearm => exact ⟨_, execPoclRearm_does ..⟩
  | pixelClockLoss => exact ⟨_, execPixelClockLoss_does ..⟩
  | portRecovery => exact ⟨_, execPortRecovery_does ..⟩
  | portRejoin => exact ⟨_, execPortRejoin_does ..⟩
  | fixStripe => exact ⟨_, execFixStripe_does ..⟩
  | contextTableWrite => exact ⟨_, execContextTableWrite_does ..⟩
  | gradeFrameTake => exact ⟨_, execGradeFrameTake_does ..⟩
  | gradeFrameDone => exact ⟨_, execGradeFrameDone_does ..⟩
  | objectClassified => exact ⟨_, execObjectClassified_does ..⟩
  | bankImageWrite => exact ⟨_, execBankImageWrite_does ..⟩
  | libraryLoad => exact ⟨_, execLibraryLoad_does ..⟩
  | libraryLoadDone => exact ⟨_, execLibraryLoadDone_does ..⟩
  | bankSwapRequest => exact ⟨_, execBankSwapRequest_does ..⟩
  | captureDark => exact ⟨_, execCaptureDark_does ..⟩
  | captureGrey => exact ⟨_, execCaptureGrey_does ..⟩
  | captureBackdrop => exact ⟨_, execCaptureBackdrop_does ..⟩
  | captureComplete => exact ⟨_, execCaptureComplete_does ..⟩
  | captureTimeout => exact ⟨_, execCaptureTimeout_does ..⟩
  | fixArrival => exact ⟨_, execFixArrival_does ..⟩
  | upperSightingArrival => exact ⟨_, execUpperSightingArrival_does ..⟩
  | fixDeadline => exact ⟨_, execFixDeadline_does ..⟩
  | fireDecision => exact ⟨_, execFireDecision_does ..⟩
  | recordRetire => exact ⟨_, execRecordRetire_does ..⟩
  | dropGeometryWrite => exact ⟨_, execDropGeometryWrite_does ..⟩
  | placementWrite => exact ⟨_, execPlacementWrite_does ..⟩
  | governorRun => exact ⟨_, execGovernorRun_does ..⟩
  | chipFrame => exact ⟨_, execChipFrame_does ..⟩
  | chipReassemblyTimeout => exact ⟨_, execChipReassemblyTimeout_does ..⟩
  | verdictMessage src => exact ⟨_, execVerdictMessage_does src ..⟩
  | refusalMessage => exact ⟨_, execRefusalMessage_does ..⟩
  | fireMessage => exact ⟨_, execFireMessage_does ..⟩
  | floorRecompute => exact ⟨_, execFloorRecompute_does ..⟩
  | deferralLimit => exact ⟨_, execDeferralLimit_does ..⟩
  | kinkWindowOpen => exact ⟨_, execKinkWindowOpen_does ..⟩
  | kinkWindowEnd => exact ⟨_, execKinkWindowEnd_does ..⟩
  | thermalUpdate => exact ⟨_, execThermalUpdate_does ..⟩
  | valveEnDeassert => exact ⟨_, execValveEnDeassert_does ..⟩
  | valveEnAssert => exact ⟨_, execValveEnAssert_does ..⟩
  | valveEnSettled => exact ⟨_, execValveEnSettled_does ..⟩
  | groupOvercurrent => exact ⟨_, execGroupOvercurrent_does ..⟩
  | coilShort => exact ⟨_, execCoilShort_does ..⟩
  | valveStateWrite => exact ⟨_, execValveStateWrite_does ..⟩
  | groupRestore => exact ⟨_, execGroupRestore_does ..⟩
  | testShot => exact ⟨_, execTestShot_does ..⟩
  | nop => exact ⟨_, execNop_does ..⟩
  | boost => exact ⟨_, execBoost_does ..⟩
  | boostPhaseEnd => exact ⟨_, execBoostPhaseEnd_does ..⟩
  | boostAbandon => exact ⟨_, execBoostAbandon_does ..⟩
  | hold => exact ⟨_, execHold_does ..⟩
  | holdEnd => exact ⟨_, execHoldEnd_does ..⟩
  | seti => exact ⟨_, execSeti_does ..⟩
  | decay => exact ⟨_, execDecay_does ..⟩
  | wait => exact ⟨_, execWait_does ..⟩
  | waitExpiry => exact ⟨_, execWaitExpiry_does ..⟩
  | waiti => exact ⟨_, execWaiti_does ..⟩
  | waitiConditionMet => exact ⟨_, execWaitiConditionMet_does ..⟩
  | waitiTimeout => exact ⟨_, execWaitiTimeout_does ..⟩
  | mark => exact ⟨_, execMark_does ..⟩
  | off => exact ⟨_, execOff_does ..⟩
  | loop => exact ⟨_, execLoop_does ..⟩
  | profileEnd => exact ⟨_, execProfileEnd_does ..⟩
  | illegalWord => exact ⟨_, execIllegalWord_does ..⟩
  | sequencerIdle => exact ⟨_, execSequencerIdle_does ..⟩
  | shadowImageWrite => exact ⟨_, execShadowImageWrite_does ..⟩
  | imageAllGroups => exact ⟨_, execImageAllGroups_does ..⟩
  | groupSwapRequest => exact ⟨_, execGroupSwapRequest_does ..⟩
  | swapAllGroups => exact ⟨_, execSwapAllGroups_does ..⟩
  | groupSwap => exact ⟨_, execGroupSwap_does ..⟩
  | swapHold => exact ⟨_, execSwapHold_does ..⟩
  | swapAbandon => exact ⟨_, execSwapAbandon_does ..⟩
  | profileSelect => exact ⟨_, execProfileSelect_does ..⟩
  | operatingHour => exact ⟨_, execOperatingHour_does ..⟩
  | valveReplaced => exact ⟨_, execValveReplaced_does ..⟩
  | dieMarginSample => exact ⟨_, execDieMarginSample_does ..⟩
  | bulkRechargeMeasured => exact ⟨_, execBulkRechargeMeasured_does ..⟩
  | loopSample => exact ⟨_, execLoopSample_does ..⟩
  | loopBankWrite => exact ⟨_, execLoopBankWrite_does ..⟩
  | loopBankSwap => exact ⟨_, execLoopBankSwap_does ..⟩
  | loopRearm => exact ⟨_, execLoopRearm_does ..⟩
  | loopEnableWrite => exact ⟨_, execLoopEnableWrite_does ..⟩
  | pin0Pulse => exact ⟨_, execPin0Pulse_does ..⟩
  | traceArm => exact ⟨_, execTraceArm_does ..⟩
  | traceForceTrigger => exact ⟨_, execTraceForceTrigger_does ..⟩
  | traceStop => exact ⟨_, execTraceStop_does ..⟩
  | traceSample => exact ⟨_, execTraceSample_does ..⟩
  | panelScan => exact ⟨_, execPanelScan_does ..⟩
  | pairComplete => exact ⟨_, execPairComplete_does ..⟩
  | waveformTableWrite => exact ⟨_, execWaveformTableWrite_does ..⟩
  | regionGo => exact ⟨_, execRegionGo_does ..⟩
  | imageSlotWrite => exact ⟨_, execImageSlotWrite_does ..⟩
  | trimMapWrite => exact ⟨_, execTrimMapWrite_does ..⟩
  | railStep => exact ⟨_, execRailStep_does ..⟩
  | railHoldExpiry => exact ⟨_, execRailHoldExpiry_does ..⟩
  | railPowerDownStep => exact ⟨_, execRailPowerDownStep_does ..⟩
  | stripWrite => exact ⟨_, execStripWrite_does ..⟩
  | islandStripWrite => exact ⟨_, execIslandStripWrite_does ..⟩
  | panelGrey => exact ⟨_, execPanelGrey_does ..⟩
  | panelHome => exact ⟨_, execPanelHome_does ..⟩
  | eventCodeAck => exact ⟨_, execEventCodeAck_does ..⟩
  | strobePulse => exact ⟨_, execStrobePulse_does ..⟩
  | strobeEnable => exact ⟨_, execStrobeEnable_does ..⟩
  | mainsUp => exact ⟨_, execMainsUp_does ..⟩
  | mainsOutOfRange => exact ⟨_, execMainsOutOfRange_does ..⟩
  | inputPowerSample => exact ⟨_, execInputPowerSample_does ..⟩
  | railOutOfRegulation => exact ⟨_, execRailOutOfRegulation_does ..⟩
  | powerFailWarning => exact ⟨_, execPowerFailWarning_does ..⟩
  | mainsReturn => exact ⟨_, execMainsReturn_does ..⟩
  | mainSideOffElapsed => exact ⟨_, execMainSideOffElapsed_does ..⟩
  | mooredRequest => exact ⟨_, execMooredRequest_does ..⟩
  | mooredUpdatesDone => exact ⟨_, execMooredUpdatesDone_does ..⟩
  | mooredEntryTimeout => exact ⟨_, execMooredEntryTimeout_does ..⟩
  | wakeTimer => exact ⟨_, execWakeTimer_does ..⟩
  | wakeIn => exact ⟨_, execWakeIn_does ..⟩
  | wakeCanopen => exact ⟨_, execWakeCanopen_does ..⟩
  | vSbLoss => exact ⟨_, execVSbLoss_does ..⟩
  | vSbReturn => exact ⟨_, execVSbReturn_does ..⟩
  | dieSample => exact ⟨_, execDieSample_does ..⟩
  | diodeBrokenLimit => exact ⟨_, execDiodeBrokenLimit_does ..⟩
  | fanStall => exact ⟨_, execFanStall_does ..⟩
  | stateIdle => exact ⟨_, execStateIdle_does ..⟩
  | stateCalibrate => exact ⟨_, execStateCalibrate_does ..⟩
  | stateSort => exact ⟨_, execStateSort_does ..⟩
  | sortingReached => exact ⟨_, execSortingReached_does ..⟩
  | sortStopDone => exact ⟨_, execSortStopDone_does ..⟩
  | mainSideStart => exact ⟨_, execMainSideStart_does ..⟩
  | resumeSorting => exact ⟨_, execResumeSorting_does ..⟩
  | watchdogExpiry => exact ⟨_, execWatchdogExpiry_does ..⟩
  | restartCommand => exact ⟨_, execRestartCommand_does ..⟩
  | signalDetect => exact ⟨_, execSignalDetect_does ..⟩
  | retrainTimer => exact ⟨_, execRetrainTimer_does ..⟩
  | hello => exact ⟨_, execHello_does ..⟩
  | syncHeaderErrors => exact ⟨_, execSyncHeaderErrors_does ..⟩
  | unknownControlBlock => exact ⟨_, execUnknownControlBlock_does ..⟩
  | heartbeatSend => exact ⟨_, execHeartbeatSend_does ..⟩
  | heartbeatReceived => exact ⟨_, execHeartbeatReceived_does ..⟩
  | heartbeatLoss => exact ⟨_, execHeartbeatLoss_does ..⟩
  | frameReceived => exact ⟨_, execFrameReceived_does ..⟩
  | ackBlock => exact ⟨_, execAckBlock_does ..⟩
  | creditBlock => exact ⟨_, execCreditBlock_does ..⟩
  | frameForward => exact ⟨_, execFrameForward_does ..⟩
  | topoRecord => exact ⟨_, execTopoRecord_does ..⟩
  | topoFlood => exact ⟨_, execTopoFlood_does ..⟩
  | topoExpiry => exact ⟨_, execTopoExpiry_does ..⟩
  | dictRead => exact ⟨_, execDictRead_does ..⟩
  | dictWrite => exact ⟨_, execDictWrite_does ..⟩
  | dictSegmentTimeout => exact ⟨_, execDictSegmentTimeout_does ..⟩
  | winRead => exact ⟨_, execWinRead_does ..⟩
  | winWrite => exact ⟨_, execWinWrite_does ..⟩
  | bulkFrame => exact ⟨_, execBulkFrame_does ..⟩
  | mboxBell => exact ⟨_, execMboxBell_does ..⟩
  | streamCfgWrite => exact ⟨_, execStreamCfgWrite_does ..⟩
  | objectWrite => exact ⟨_, execObjectWrite_does ..⟩
  | lockAcquire => exact ⟨_, execLockAcquire_does ..⟩
  | lockRenew => exact ⟨_, execLockRenew_does ..⟩
  | lockRelease => exact ⟨_, execLockRelease_does ..⟩
  | lockExpiry => exact ⟨_, execLockExpiry_does ..⟩
  | stageOpen => exact ⟨_, execStageOpen_does ..⟩
  | stageCommit => exact ⟨_, execStageCommit_does ..⟩
  | stageDiscard => exact ⟨_, execStageDiscard_does ..⟩
  | stageTimeout => exact ⟨_, execStageTimeout_does ..⟩
  | storeParameters => exact ⟨_, execStoreParameters_does ..⟩
  | restoreDefaults => exact ⟨_, execRestoreDefaults_does ..⟩
  | nmtStart => exact ⟨_, execNmtStart_does ..⟩
  | nmtStop => exact ⟨_, execNmtStop_does ..⟩
  | nmtPreOperational => exact ⟨_, execNmtPreOperational_does ..⟩
  | nmtResetCommunication => exact ⟨_, execNmtResetCommunication_does ..⟩
  | nmtResetNode => exact ⟨_, execNmtResetNode_does ..⟩
  | canFrameReceived => exact ⟨_, execCanFrameReceived_does ..⟩
  | canBusError => exact ⟨_, execCanBusError_does ..⟩
  | busOffRecovery => exact ⟨_, execBusOffRecovery_does ..⟩
  | clockSourceChange => exact ⟨_, execClockSourceChange_does ..⟩
  | sdoDownload => exact ⟨_, execSdoDownload_does ..⟩
  | sdoUpload => exact ⟨_, execSdoUpload_does ..⟩
  | sdoTimeout => exact ⟨_, execSdoTimeout_does ..⟩
  | syncFrame => exact ⟨_, execSyncFrame_does ..⟩
  | rpdo => exact ⟨_, execRpdo_does ..⟩
  | tpdoEventTimer => exact ⟨_, execTpdoEventTimer_does ..⟩
  | emcySend => exact ⟨_, execEmcySend_does ..⟩
  | heartbeatProduce => exact ⟨_, execHeartbeatProduce_does ..⟩
  | heartbeatConsumerTimeout => exact ⟨_, execHeartbeatConsumerTimeout_does ..⟩
  | lssSwitchGlobal => exact ⟨_, execLssSwitchGlobal_does ..⟩
  | lssSwitchSelective => exact ⟨_, execLssSwitchSelective_does ..⟩
  | lssConfigureNodeId => exact ⟨_, execLssConfigureNodeId_does ..⟩
  | lssConfigureBitTiming => exact ⟨_, execLssConfigureBitTiming_does ..⟩
  | lssActivateBitTiming => exact ⟨_, execLssActivateBitTiming_does ..⟩
  | lssSwitchDelayEnd => exact ⟨_, execLssSwitchDelayEnd_does ..⟩
  | lssStoreConfiguration => exact ⟨_, execLssStoreConfiguration_does ..⟩
  | lssInquireVendorId => exact ⟨_, execLssInquireVendorId_does ..⟩
  | lssInquireProductCode => exact ⟨_, execLssInquireProductCode_does ..⟩
  | lssInquireRevision => exact ⟨_, execLssInquireRevision_does ..⟩
  | lssInquireSerial => exact ⟨_, execLssInquireSerial_does ..⟩
  | lssInquireNodeId => exact ⟨_, execLssInquireNodeId_does ..⟩
  | lssIdentifyRemoteSlave => exact ⟨_, execLssIdentifyRemoteSlave_does ..⟩
  | lssIdentifyNonConfigured => exact ⟨_, execLssIdentifyNonConfigured_does ..⟩
  | lssFastscan => exact ⟨_, execLssFastscan_does ..⟩
  | chStart => exact ⟨_, execChStart_does ..⟩
  | chAbort => exact ⟨_, execChAbort_does ..⟩
  | chAppend => exact ⟨_, execChAppend_does ..⟩
  | chNextWrite => exact ⟨_, execChNextWrite_does ..⟩
  | chIrqClear => exact ⟨_, execChIrqClear_does ..⟩
  | chIrqUnmask => exact ⟨_, execChIrqUnmask_does ..⟩
  | descriptorComplete data bad => exact ⟨_, exec_descriptorComplete data bad s ▸ execDescriptorComplete_does ..⟩
  | requestorAssert => exact ⟨_, execRequestorAssert_does ..⟩
  | requestorWithdraw => exact ⟨_, execRequestorWithdraw_does ..⟩
  | dmaStall => exact ⟨_, execDmaStall_does ..⟩
  | recordWriteDone => exact ⟨_, execRecordWriteDone_does ..⟩
  | tallySample => exact ⟨_, execTallySample_does ..⟩
  | tallyConfigWrite => exact ⟨_, execTallyConfigWrite_does ..⟩
  | selectBySequence => exact ⟨_, execSelectBySequence_does ..⟩
  | exportLog => exact ⟨_, execExportLog_does ..⟩
  | exportDone => exact ⟨_, execExportDone_does ..⟩
  | clearChallenge => exact ⟨_, execClearChallenge_does ..⟩
  | clearResponse => exact ⟨_, execClearResponse_does ..⟩
  | clearLockExpiry => exact ⟨_, execClearLockExpiry_does ..⟩
  | stagingImageWrite => exact ⟨_, execStagingImageWrite_does ..⟩
  | stagingIdleTimeout => exact ⟨_, execStagingIdleTimeout_does ..⟩
  | verifyDone => exact ⟨_, execVerifyDone_does ..⟩
  | updateVerifyAgain => exact ⟨_, execUpdateVerifyAgain_does ..⟩
  | updateMarkPending => exact ⟨_, execUpdateMarkPending_does ..⟩
  | updateMarkPendingRestart => exact ⟨_, execUpdateMarkPendingRestart_does ..⟩
  | updateCancelPending => exact ⟨_, execUpdateCancelPending_does ..⟩
  | updateRestartFromStaging => exact ⟨_, execUpdateRestartFromStaging_does ..⟩
  | updateStageFromDdr => exact ⟨_, execUpdateStageFromDdr_does ..⟩
  | copyBlockDone => exact ⟨_, execCopyBlockDone_does ..⟩
  | firstStartWatchEnd => exact ⟨_, execFirstStartWatchEnd_does ..⟩
  | librarySlotWrite => exact ⟨_, execLibrarySlotWrite_does ..⟩
  | airOkEdge => exact ⟨_, execAirOkEdge_does ..⟩
  | guardOkEdge => exact ⟨_, execGuardOkEdge_does ..⟩
  | doutOverload => exact ⟨_, execDoutOverload_does ..⟩
  | doutRetry => exact ⟨_, execDoutRetry_does ..⟩
  | strapRead => exact ⟨_, execStrapRead_does ..⟩
  | tachometerPulse => exact ⟨_, execTachometerPulse_does ..⟩
  | islandWatchdogExpiry => exact ⟨_, execIslandWatchdogExpiry_does ..⟩
  | canFrameSent => exact ⟨_, execCanFrameSent_does ..⟩

/-- Settles O42: the idle tick and every command are made of operations that keep the invariant. -/
theorem everyStepKeepsTheInvariant : Obligations.EveryStepKeepsTheInvariant := by
  intro s t hs hstep
  unfold step at hstep
  split at hstep
  next =>
    obtain rfl := Host.Outcome.next.inj hstep
    exact (idle_does s).inv hs
  next c r _ =>
    obtain ⟨ps, u, hu, hdoes⟩ := exec_does c { s with pending := r }
    obtain rfl := Host.Outcome.next.inj (hstep.symm.trans hu)
    exact hdoes.inv (hs.withPending r)

end Sys2Proof.Machine
end


section
/-!
A write of 0 to the state of a valve that the ledger has retired.
-/
set_option Elab.async false
set_option linter.all false

namespace Sys2Proof.Machine

open Sys2Proof State

/-- A write of 0 leaves a valve in the state that the ledger gives it (06 R203, 08 R248). -/
theorem execValveStateWrite_zero {m : Master} {v : Valve} {s : State} (hdrive : s.drive.shaped)
    (hw : s.writable m (valveKey 0x2710 v) (.num 0) = true) (hretired : (s.valve v).avail ≠ 1) (hlost : (s.valve v).avail ≠ 2) :
    ∃ t, execValveStateWrite m v 0 s = .next t ∧ (t.valve v).avail = s.ledgerAvail v := by
  have hact : actValveState v 0 s = (s.setValve v { s.valve v with avail := s.ledgerAvail v, openFails := 0 }, 0) := by
    unfold actValveState
    dsimp only
    rw [if_neg (not_or.2 ⟨hretired, hlost⟩), if_pos rfl]
  refine ⟨_, congrArg Host.Outcome.next (write_accepted hw hact (setValve_does ..)), ?_⟩
  exact congrArg ValveSt.avail (setValve_valve_self _ _ _ (lt_of_lt_of_eq v.isLt hdrive.1.symm))

/-- A module whose valve 0, retired by the ledger for its drift (08 R247), has a coil short (06 R202). -/
def retiredShorted : State :=
  { State.reset with
    module := { State.reset.module with mainUp := true }
    drive := { State.reset.drive with valves := State.reset.drive.valves.set 0 { avail := 5 } }
    ledger := { State.reset.ledger with
      data := { State.reset.ledger.data with valves := State.reset.ledger.data.valves.set 0 { cause := 1 } } } }

theorem retiredShorted_drive : retiredShorted.drive.shaped := ⟨(List.length_set ..).trans List.length_replicate, List.length_replicate⟩

theorem writable_retiredShorted : retiredShorted.writable .host (valveKey 0x2710 0) (.num 0) = true := by decide +kernel

theorem ledgerAvail_retiredShorted : retiredShorted.ledgerAvail 0 = 1 := rfl

theorem valve_retiredShorted : (retiredShorted.valve 0).avail = 5 := rfl

/-- Refutes O14: a write of 0 returns a valve that the ledger has retired, and that a fault has covered since, to state 1 and not to state 0. -/
theorem not_driveStateResults : ¬ Obligations.DriveStateResults := by
  rintro ⟨-, -, -, -, -, hclear, -⟩
  have hretired : (retiredShorted.valve 0).avail ≠ 1 := by
    rw [valve_retiredShorted]
    decide
  have hlost : (retiredShorted.valve 0).avail ≠ 2 := by
    rw [valve_retiredShorted]
    decide
  obtain ⟨t, ht, hzero, -⟩ := hclear .host 0 retiredShorted retiredShorted_drive writable_retiredShorted hretired hlost
  obtain ⟨u, hu, hone⟩ := execValveStateWrite_zero (v := 0) retiredShorted_drive writable_retiredShorted hretired hlost
  obtain rfl : t = u := Host.Outcome.next.inj (ht.symm.trans hu)
  exact absurd (hzero.symm.trans (hone.trans ledgerAvail_retiredShorted)) (by decide)

end Sys2Proof.Machine
end


section
/-!
What ends a wait of a sequencer.
-/
set_option Elab.async false
set_option linter.all false

namespace Sys2Proof.Machine

open Sys2Proof State

theorem Seq.chop_pc (reading : Nat) (q : Seq) : (q.chop reading).pc = q.pc := by
  unfold Seq.chop
  split <;> rfl

section
variable {s : State} {v : Valve}

theorem State.seqs_lt (h : s.seqs.shaped) (v : Valve) : v.val < s.seqs.seqs.length := lt_of_lt_of_eq v.isLt h.1.symm

theorem State.nextWord_seq {v : Nat} (h : v < s.seqs.seqs.length) (u : Nat) :
    (s.nextWord v u).seq v = { s.seq v with pc := (s.seq v).pc + 1, issueAt := u, busy := .none } := setSeq_seq_self _ _ _ h

/-- A reading that ends a wait also moves the low-side switch of a valve in hold (06 R180). -/
theorem State.nextWord_chop {v u reading : Nat} {q : Seq} (h : v < s.seqs.seqs.length) :
    ((s.setSeq v (q.chop reading)).nextWord v u).seq v = { q.chop reading with busy := .none, pc := q.pc + 1, issueAt := u } := by
  rw [nextWord_seq (h.trans_eq (List.length_set ..).symm), setSeq_seq_self _ _ _ h, Seq.chop_pc]

/-! ### WAIT, WAITI and HOLD end (07 R214, R218, R221) -/

theorem execWaitExpiry_result {u : Nat} (hseqs : s.seqs.shaped) (hbusy : (s.seq v).busy = .wait u) :
    ∃ t, execWaitExpiry v s = .next t ∧ t.seq v = { s.seq v with busy := .none, pc := (s.seq v).pc + 1, issueAt := u } := by
  unfold execWaitExpiry
  rw [hbusy]
  exact ⟨_, rfl, nextWord_seq (s := s.atTick u) (seqs_lt hseqs v) u⟩

theorem execWaitiConditionMet_result {tick reading c thr u deadline : Nat} {k : Bool} (hseqs : s.seqs.shaped)
    (hbusy : (s.seq v).busy = .waiti c thr k deadline) (hholds : waitiHolds c thr reading (s.seq v).mode = true)
    (hu : u = stepAt (s.seq v).issueAt (if c = 2 then (s.seq v).boostEnd else max tick s.tick) + 4) (hdeadline : u ≤ deadline) :
    ∃ t, execWaitiConditionMet v tick reading s = .next t
      ∧ t.seq v = { (s.seq v).chop reading with busy := .none, pc := (s.seq v).pc + 1, issueAt := u } := by
  subst hu
  unfold execWaitiConditionMet
  rw [hbusy]
  dsimp only
  rw [if_pos (by simp [hholds, hdeadline])]
  exact ⟨_, rfl, nextWord_chop (s := s.atTick _) (seqs_lt hseqs v)⟩

theorem execWaitiTimeout_continues {reading c thr u : Nat} (hseqs : s.seqs.shaped) (hbusy : (s.seq v).busy = .waiti c thr true u) (hc : c ≠ 2) :
    ∃ t, execWaitiTimeout v reading s = .next t
      ∧ t.seq v = { (s.seq v).chop reading with busy := .none, pc := (s.seq v).pc + 1, issueAt := u }
      ∧ t.nat (obj 0x2800 3) = s.counted (obj 0x2800 3) := by
  unfold execWaitiTimeout
  rw [hbusy]
  dsimp only
  rw [if_neg (by simp [hc]), if_pos (by simp [hc])]
  refine ⟨_, rfl, nextWord_chop (s := s.atTick u) (seqs_lt hseqs v), ?_⟩
  exact ((nextWord_does ..).nat_eq _).trans (nat_bump_self ..)

theorem execHoldEnd_result {timed : Option Nat} (hseqs : s.seqs.shaped) (hbusy : (s.seq v).busy = .hold timed) :
    ∃ t, execHoldEnd v s = .next t ∧ (t.seq v).busy = .none ∧ (t.seq v).pc = (s.seq v).pc + 1 ∧ (t.seq v).mode = (s.seq v).mode
      ∧ (t.seq v).level = (s.seq v).level ∧ (t.seq v).holdEnded = (timed.isNone || (s.seq v).holdEnded)
      ∧ max (s.holdDue v timed) ((s.seq v).issueAt + 4) ≤ (t.seq v).issueAt := by
  unfold execHoldEnd
  rw [hbusy]
  dsimp -zeta only
  extract_lets +onlyGivenNames due s1 x s2 q
  have h2 : q = { s.seq v with pc := (s.seq v).pc + 1, issueAt := max due (stepAt x.start s1.tick), busy := .none } :=
    nextWord_seq (s := s1) (seqs_lt hseqs v) _
  have hlen : v.val < s2.seqs.seqs.length := (seqs_lt hseqs v).trans_eq (List.length_set ..).symm
  cases timed with
  | none =>
    refine ⟨s2.setSeq v { q with holdEnded := true }, rfl, ?_⟩
    rw [setSeq_seq_self _ _ _ hlen, h2]
    exact ⟨rfl, rfl, rfl, rfl, rfl, le_max_left ..⟩
  | some d =>
    refine ⟨s2, rfl, ?_⟩
    change q.busy = _ ∧ q.pc = _ ∧ q.mode = _ ∧ q.level = _ ∧ q.holdEnded = _ ∧ _ ≤ q.issueAt
    rw [h2]
    exact ⟨rfl, rfl, rfl, rfl, rfl, le_max_left ..⟩

/-- A sequencer that has ended its program becomes idle (07 R212). -/
theorem execSequencerIdle_result {tick : Nat} (hdrive : s.drive.shaped) (hseqs : s.seqs.shaped) (hrunning : (s.seq v).running = false)
    (hidle : (s.seq v).idle = false) (hwindow : (s.seq v).window = none) :
    ∃ t, execSequencerIdle v tick s = .next t ∧ t.seq v = { s.seq v with idle := true } ∧ (t.valve v).run = none
      ∧ (t.valve v).queue = (s.valve v).queue ∧ t.od = s.od := by
  unfold execSequencerIdle
  dsimp only
  rw [if_pos (by simp [hrunning, hidle, hwindow])]
  have hvalve : ∀ x, (((s.atTick tick).setSeq v { s.seq v with idle := true }).setValve v x).valve v = x :=
    fun x => setValve_valve_self _ _ _ (lt_of_lt_of_eq v.isLt hdrive.1.symm)
  refine ⟨_, rfl, setSeq_seq_self (s.atTick tick) _ _ (seqs_lt hseqs v), ?_, ?_, rfl⟩
  · rw [hvalve]
  · rw [hvalve]
    rfl

end

end Sys2Proof.Machine
end


section
/-!
Aborts of a sequencer.
-/
set_option Elab.async false
set_option linter.all false

namespace Sys2Proof.Machine

open Sys2Proof State

/-! ### A shot that is aborted (07 R226) -/

section
variable {s : State} {v : Valve}

theorem State.stopDrive_stores (s : State) (v : Nat) : (s.stopDrive v).seqs.stores = s.seqs.stores := by
  unfold State.stopDrive
  extract_lets +onlyGivenNames s1 x s2
  exact ((setSeq_driveKept s2 v _).trans (releaseSlot_driveKept ..)).stores.trans (chargeBoost_driveKept s v).stores

theorem releaseKeys_not {k : Nat} (hk : k / 256 = 0x2800) : ∀ y ∈ releaseKeys, ¬y.has k := by
  simp only [List.mem_cons, List.not_mem_nil, or_false, forall_eq_or_imp, forall_eq]
  refine ⟨fun h => ?_, ?_, fun h => ?_⟩
  · have := groups_has_div h
    omega
  · rintro rfl
    simp only [obj] at hk
    omega
  · have := groups_has_div h
    omega

/-- From `s` to `t` the shot of a valve ends with a cause, counted in 0x2800 at `j`. -/
structure State.Aborted (v : Valve) (cause j : Nat) (s t : State) : Prop where
  running : (t.seq v).running = false
  mode : (t.seq v).mode = .off
  cause : t.nat (valveKey 0x2812 v) = cause
  counted : t.nat (obj 0x2800 j) = s.counted (obj 0x2800 j)

theorem State.stopDrive_aborted (hlen : v.val < s.seqs.seqs.length) (cause : Nat) {j : Nat} (hj : j < 256) :
    s.Aborted v cause j (((s.stopDrive v).putNat (valveKey 0x2812 v) cause).bump (obj 0x2800 j)) := by
  obtain ⟨hrunning, hmode⟩ := stopDrive_seq hlen
  have hv := v.isLt
  have hne : valveKey 0x2812 v ≠ obj 0x2800 j := by
    unfold valveKey obj
    omega
  have hdiv : obj 0x2800 j / 256 = 0x2800 := by
    unfold obj
    omega
  refine ⟨hrunning, hmode, ?_, ?_⟩
  · rw [nat_bump_other _ hne, nat_putNat_self]
  · rw [nat_bump_self, State.counted, nat_putNat_other _ _ hne.symm, (stopDrive_keeps s v).nat_eq (releaseKeys_not hdiv)]

theorem State.abortShot_timeout (hlen : v.val < s.seqs.seqs.length) : s.Aborted v 1 2 (s.abortShot v 1) := stopDrive_aborted hlen 1 (by decide)

theorem State.abortShot_word (hlen : v.val < s.seqs.seqs.length) {cause : Nat} (hcause : cause = 2 ∨ cause = 3) :
    s.Aborted v cause 1 (s.abortShot v cause) ∧ (s.abortShot v cause).seqs.stores = s.seqs.stores := by
  obtain rfl | rfl := hcause
  · exact ⟨stopDrive_aborted hlen 2 (by decide), stopDrive_stores s v⟩
  · exact ⟨stopDrive_aborted hlen 3 (by decide), stopDrive_stores s v⟩

theorem State.Aborted.rebase {cause j : Nat} {t u : State} (h : t.Aborted v cause j u) (hn : t.nat (obj 0x2800 j) = s.nat (obj 0x2800 j)) :
    s.Aborted v cause j u :=
  ⟨h.running, h.mode, h.cause, h.counted.trans (congrArg (fun n => min _ (n + 1)) hn)⟩

/-- What follows an abort only raises events, and touches no sequencer. -/
theorem State.Aborted.past {cause j : Nat} {t u : State} {ps : List Part} (h : s.Aborted v cause j t) (hdoes : t.Does ps u)
    (hkeeps : t.Keeps [.frames, .events] u) (hj : j < 256 := by decide) (hq : Part.seqs ∉ ps := by decide) : s.Aborted v cause j u := by
  obtain ⟨hrunning, hmode, hcause, hcounted⟩ := h
  have hv := v.isLt
  have hdiv : obj 0x2800 j / 256 = 0x2800 := by
    unfold obj
    omega
  have hdiv' := valveKey_div 0x2812 v
  have hseq := hdoes.seq_eq v hq
  exact ⟨hseq ▸ hrunning, hseq ▸ hmode, (hkeeps.nat_drive (by omega) (by omega)).trans hcause,
    (hkeeps.nat_drive (by omega) (by omega)).trans hcounted⟩

/-! ### A timeout that aborts (07 R221) -/

theorem State.coilOpenTest_keeps (s : State) (v : Nat) : s.Keeps [.frames, .events] (s.coilOpenTest v) := by
  unfold State.coilOpenTest
  refine .ite ?_ .same
  extract_lets +onlyGivenNames x s1
  have h1 : s.Keeps [.frames, .events] s1 := .past (setValve_does ..) .same
  exact .ite (.via (raise_keeps ..) (.past (setAvail_does ..) h1)) h1

theorem State.lostSwitchTest_keeps (s : State) (v reading : Nat) : s.Keeps [.frames, .events] (s.lostSwitchTest v reading) := by
  unfold State.lostSwitchTest
  extract_lets +onlyGivenNames g gs
  refine .ite (.past (setGroup_does ..) .same) ?_
  split
  · exact .ite .same (loseGroup_keeps ..)
  · exact .past (setGroup_does ..) .same

theorem State.boostMissed_keeps (s : State) (v reading : Nat) : s.Keeps [.frames, .events] (s.boostMissed v reading) :=
  .via (lostSwitchTest_keeps ..) (coilOpenTest_keeps ..)

/-- A timeout aborts where the word does not continue, and in a boost phase where it waits for the end of that. -/
theorem execWaitiTimeout_aborts {reading c thr u : Nat} {k : Bool} (hseqs : s.seqs.shaped) (hbusy : (s.seq v).busy = .waiti c thr k u)
    (hcase : (c ≠ 2 ∧ k = false) ∨ (c = 2 ∧ (s.seq v).mode = .boost)) :
    ∃ t, execWaitiTimeout v reading s = .next t ∧ s.Aborted v 1 2 t := by
  have hcomes : (decide (c = 2) && (s.seq v).mode != .boost) = false := by
    obtain ⟨hc, -⟩ | ⟨-, hmode⟩ := hcase
    · simp [hc]
    · simp [hmode]
  have haborts : (k && decide (c ≠ 2)) = false := by
    obtain ⟨-, rfl⟩ | ⟨hc, -⟩ := hcase
    · rfl
    · simp [hc]
  unfold execWaitiTimeout
  rw [hbusy]
  dsimp -zeta only
  rw [if_neg (by rw [hcomes]; exact nofun)]
  extract_lets +onlyGivenNames s1 s2
  rw [if_neg (by rw [haborts]; exact nofun)]
  have h1 : s.Aborted v 1 2 (s1.abortShot v 1) := (abortShot_timeout (s := s1) (seqs_lt hseqs v)).rebase rfl
  have h2 : s.Aborted v 1 2 s2 := h1.past (raiseSlow_does ..) (raiseSlow_keeps ..)
  refine ⟨_, rfl, ?_⟩
  split
  · exact h2.past (boostMissed_does ..) (boostMissed_keeps ..)
  · exact h2

/-! ### A word that is illegal or fails parity (07 R227) -/

/-- What a bad word does to its shot: an abort with a cause, and the selection of the valve reverts to profile 0. -/
def State.abortWord (s : State) (v cause : Nat) : State :=
  (((s.abortShot v cause).keep (valveKey 0x2810 v) 0).raise 0x7001 v).raise 0x7008 v

theorem State.abortWord_result (hlen : v.val < s.seqs.seqs.length) {cause : Nat} (hcause : cause = 2 ∨ cause = 3) :
    s.Aborted v cause 1 (s.abortWord v cause) ∧ (s.abortWord v cause).nat (valveKey 0x2810 v) = 0
      ∧ (s.abortWord v cause).seqs.stores = s.seqs.stores := by
  have hv := v.isLt
  obtain ⟨hne, hne'⟩ : valveKey 0x2812 v ≠ valveKey 0x2810 v ∧ obj 0x2800 1 ≠ valveKey 0x2810 v := by
    unfold valveKey obj
    omega
  obtain ⟨⟨hrunning, hmode, hnat, hcounted⟩, hstores⟩ := abortShot_word hlen hcause
  have hkept : s.Aborted v cause 1 ((s.abortShot v cause).keep (valveKey 0x2810 v) 0) :=
    ⟨hrunning, hmode, (nat_putNat_other _ _ hne).trans hnat, (nat_putNat_other _ _ hne').trans hcounted⟩
  have hdiv := valveKey_div 0x2810 v
  unfold State.abortWord
  refine ⟨(hkept.past (raise_does ..) (raise_keeps ..)).past (raise_does ..) (raise_keeps ..), ?_, ?_⟩
  · rw [(raise_keeps ..).nat_drive (by omega) (by omega), (raise_keeps ..).nat_drive (by omega) (by omega)]
    exact nat_putNat_self ..
  · rw [(raise_does ..).seqs_eq, (raise_does ..).seqs_eq]
    exact hstores

/-- The store of the valve's group takes note of a word that fails parity at its fetch. -/
def State.noteWord (s : State) (word : FetchedWord) : State :=
  let q := s.seq word.valve
  let g := s.groupOf word.valve
  let st := s.store g
  if word.parity && q.ready && 0x40 ≤ q.pc && !s.parityBad word.valve then
    s.setStore g { st with active := { st.active with badParity := q.pc :: st.active.badParity } }
  else s

theorem execIllegalWord_eq (word : FetchedWord) (s : State) :
    execIllegalWord word s =
      if ((s.noteWord word).seq word.valve).ready && ((s.noteWord word).parityBad word.valve || (s.noteWord word).fetch word.valve == .illegal) then
        .next (((s.noteWord word).atIssue word.valve).abortWord word.valve (if (s.noteWord word).parityBad word.valve then 3 else 2))
      else .next (s.noteWord word) := rfl

theorem State.noteWord_does (s : State) (word : FetchedWord) : s.Does [.seqs] (s.noteWord word) := by
  unfold State.noteWord
  exact .ite (setStore_does ..) .same

theorem State.noteWord_seqs (s : State) (word : FetchedWord) : (s.noteWord word).seqs.seqs = s.seqs.seqs := by
  unfold State.noteWord
  dsimp only
  split <;> rfl

theorem State.noteWord_seq (s : State) (word : FetchedWord) (v : Nat) : (s.noteWord word).seq v = s.seq v :=
  congrArg (·.getD v {}) (noteWord_seqs s word)

theorem State.noteWord_groupOf (s : State) (word : FetchedWord) (v : Nat) : (s.noteWord word).groupOf v = s.groupOf v := by
  unfold State.groupOf State.stride
  rw [(noteWord_does ..).variant_eq]

theorem State.noteWord_bad (hseqs : s.seqs.shaped) (hready : (s.seq v).ready = true) (hpc : 0x40 ≤ (s.seq v).pc) :
    ((s.noteWord ⟨v, true⟩).store (s.groupOf v)).active.badParity.contains (s.seq v).pc = true := by
  unfold State.noteWord
  dsimp only
  split
  next =>
    rw [setStore_store_self _ _ _ ((groupOf_lt s v).trans_eq hseqs.2.symm)]
    simp
  next h =>
    have hparity : s.parityBad v = true := by simpa [hready, hpc] using h
    exact (Bool.and_eq_true_iff.1 hparity).2

theorem execIllegalWord_illegal (hseqs : s.seqs.shaped) (hready : (s.seq v).ready = true) (hgood : s.parityBad v = false)
    (hword : s.fetch v = .illegal) :
    ∃ t, execIllegalWord ⟨v, false⟩ s = .next t ∧ s.Aborted v 2 1 t ∧ t.nat (valveKey 0x2810 v) = 0 := by
  have hnote : s.noteWord ⟨v, false⟩ = s := by simp [State.noteWord]
  obtain ⟨hresult, hprofile, -⟩ := abortWord_result (s := s.atIssue v) (v := v) (seqs_lt hseqs v) (.inl rfl)
  refine ⟨(s.atIssue v).abortWord v 2, ?_, hresult.rebase rfl, hprofile⟩
  rw [execIllegalWord_eq, hnote, if_pos (by simp [hready, hword]), if_neg (by simp [hgood])]

/-- A word that fails parity is one of the bad words of its store from then on. -/
theorem execIllegalWord_parity (hseqs : s.seqs.shaped) (hready : (s.seq v).ready = true) (hpc : 0x40 ≤ (s.seq v).pc) :
    ∃ t, execIllegalWord ⟨v, true⟩ s = .next t ∧ s.Aborted v 3 1 t ∧ t.nat (valveKey 0x2810 v) = 0
      ∧ (t.store (s.groupOf v)).active.badParity.contains (s.seq v).pc = true := by
  have hbad := noteWord_bad hseqs hready hpc
  have hparity : (s.noteWord ⟨v, true⟩).parityBad v = true := by
    unfold State.parityBad
    rw [noteWord_seq, noteWord_groupOf, hbad, Bool.and_true]
    exact decide_eq_true hpc
  have hlen : v.val < ((s.noteWord ⟨v, true⟩).atIssue v).seqs.seqs.length :=
    (seqs_lt hseqs v).trans_eq (congrArg List.length (noteWord_seqs s ⟨v, true⟩)).symm
  obtain ⟨hresult, hprofile, hstores⟩ := abortWord_result hlen (.inr rfl)
  have hcounted : ((s.noteWord ⟨v, true⟩).atIssue v).nat (obj 0x2800 1) = s.nat (obj 0x2800 1) :=
    ((atIssue_does ..).nat_eq _).trans ((noteWord_does ..).nat_eq _)
  have hstore : (((s.noteWord ⟨v, true⟩).atIssue v).abortWord v 3).store (s.groupOf v) = (s.noteWord ⟨v, true⟩).store (s.groupOf v) :=
    congrArg (·.getD (s.groupOf v) {}) hstores
  refine ⟨((s.noteWord ⟨v, true⟩).atIssue v).abortWord v 3, ?_, hresult.rebase hcounted, hprofile, by rw [hstore, hbad]⟩
  rw [execIllegalWord_eq, if_pos (by simp [noteWord_seq, hready, hparity]), if_pos hparity]

end

end Sys2Proof.Machine
end


section
/-!
Boost slots: requests that wait, and the grant of one.
-/
set_option Elab.async false
set_option linter.all false

namespace Sys2Proof.Machine

open Sys2Proof State

/-! ### The grant of a slot (06 R186) -/

/-- The group once a slot of it is granted to a valve. -/
def GroupSt.granted (gs : GroupSt) (v target : Nat) : GroupSt :=
  { gs with
    slots := gs.slots ++ [(v, target)]
    waiting := gs.waiting.filter (fun w => w.2.1 != v)
    state := if gs.state = 1 then 0 else gs.state }

/-- The sequencer whose boost phase begins at tick `t`. -/
def Seq.boosting (q : Seq) (level t : Nat) : Seq :=
  { q with
    busy := .none, mode := .boost, level := min level 200, pc := q.pc + 1, issueAt := t + 4, boosted := true, boostAt := t, lowSide := true }

section
variable {s : State} {v g target : Nat}

/-- A grant changes the group and the sequencer it is for, and counts. -/
theorem State.grantOne_eq (s : State) (g v target : Nat) : ∃ q, ((s.setGroup g ((s.group g).granted v target)).setSeq v q).Does [.od] (s.grantOne g v target)
    ∧ ∀ f n l, (s.seq v).busy = .boostWait f n l → ∃ t, q = (s.seq v).boosting l t := by
  unfold State.grantOne
  extract_lets +onlyGivenNames q x t gs s1
  split
  next first asked level hbusy =>
    extract_lets +onlyGivenNames s2
    refine ⟨_, (?_ : s2.Does [.od] _), fun f n l h => ⟨t, ?_⟩⟩
    · refine .ite ?_ .same
      extract_lets +onlyGivenNames d s3
      exact .via (putNat_does ..) (.ite (.of (bump_does ..)) (.ite (.via (bump_does ..) (.of (bump_does ..))) .same))
    · rw [show q.busy = .boostWait f n l from h] at hbusy
      obtain ⟨rfl, rfl, rfl⟩ := hbusy
      rfl

theorem State.grantOne_group (hg : g < s.drive.groups.length) : (s.grantOne g v target).group g = (s.group g).granted v target := by
  obtain ⟨q, hdoes, -⟩ := grantOne_eq s g v target
  exact (congrArg (·.groups.getD g {}) hdoes.drive_eq).trans (setGroup_group_self _ _ _ hg)

theorem State.grantOne_groups (s : State) (g v target : Nat) : (s.grantOne g v target).drive.groups.length = s.drive.groups.length := by
  obtain ⟨q, hdoes, -⟩ := grantOne_eq s g v target
  exact (congrArg (·.groups.length) hdoes.drive_eq).trans (List.length_set ..)

theorem State.grantOne_seq_other {w : Nat} (h : w ≠ v) : (s.grantOne g v target).seq w = s.seq w := by
  obtain ⟨q, hdoes, -⟩ := grantOne_eq s g v target
  exact (hdoes.seq_eq w).trans (setSeq_seq_other _ _ _ h)

theorem State.grantOne_seq_self {f : Bool} {n l : Nat} (hv : v < s.seqs.seqs.length) (hbusy : (s.seq v).busy = .boostWait f n l) :
    ∃ t, (s.grantOne g v target).seq v = (s.seq v).boosting l t := by
  obtain ⟨q, hdoes, hq⟩ := grantOne_eq s g v target
  obtain ⟨t, rfl⟩ := hq f n l hbusy
  exact ⟨t, (hdoes.seq_eq v).trans (setSeq_seq_self _ _ _ hv)⟩

/-- The terms of a valve's shot are of its request, or of the parameters 0x2701 to 0x2704 in force. -/
theorem State.shotTerms_of_params {t : State} {v : Nat} (hvalve : (t.valve v).run = (s.valve v).run)
    (hn : ∀ k, 0x2701 ≤ k / 256 → k / 256 < 0x2705 → t.nat k = s.nat k) : t.shotTerms v = s.shotTerms v := by
  have hterms : t.driveTerms = s.driveTerms := by
    have hobj : ∀ i j, 0x2701 ≤ i → i < 0x2705 → j < 256 → t.nat (obj i j) = s.nat (obj i j) := fun i j _ _ _ =>
      hn _ (by unfold obj; omega) (by unfold obj; omega)
    unfold State.driveTerms
    simp (disch := decide) only [hobj]
  unfold State.shotTerms
  rw [hvalve, hterms]

theorem grantKeys_not (hg : g < 32) {k : Nat} (hlow : 0x2701 ≤ k / 256) (hhigh : k / 256 < 0x2705) : ∀ y ∈ grantKeys g, ¬y.has k := by
  simp only [List.mem_cons, List.not_mem_nil, or_false, forall_eq_or_imp, forall_eq]
  refine ⟨?_, ?_, ?_⟩
  all_goals
    rintro rfl
    simp only [groupKey, obj] at hlow hhigh
    omega

theorem State.grantOne_terms (hg : g < 32) (w : Nat) : (s.grantOne g v target).shotTerms w = s.shotTerms w := by
  obtain ⟨q, hdoes, -⟩ := grantOne_eq s g v target
  exact shotTerms_of_params (congrArg ValveSt.run (hdoes.valve_eq w)) fun k hlow hhigh => (grantOne_keeps ..).nat_eq (grantKeys_not hg hlow hhigh)

/-! ### Grants in a group (06 R186) -/

theorem State.grant_none (n : Nat) (h : (s.group g).waiting = []) : State.grant n s g = s := by
  cases n with
  | zero => rfl
  | succ n =>
    unfold State.grant
    rw [h]

/-- A request that waits alone is granted where a slot is free and the budget admits it. -/
theorem State.grant_single {u : Nat} (n : Nat) (hg : g < s.drive.groups.length) (hw : (s.group g).waiting = [(u, v, target)])
    (hslot : (s.group g).slots.length < (s.shotTerms v).slots) (hbudget : s.budgetAdmits g target = true) (hstate : (s.group g).state ≠ 2) :
    State.grant (n + 1) s g = s.grantOne g v target := by
  unfold State.grant
  rw [hw]
  dsimp only
  rw [if_pos (by simp [hslot, hbudget, hstate])]
  refine grant_none n ?_
  rw [grantOne_group hg]
  unfold GroupSt.granted
  rw [hw]
  simp

/-- A valve is granted no slot while those of its group are taken, whatever else is granted. -/
theorem State.grant_seq_full (n : Nat) (hg : g < 32) (hlen : s.drive.groups.length = 32)
    (hfull : (s.shotTerms v).slots ≤ (s.group g).slots.length) : (State.grant n s g).seq v = s.seq v := by
  induction n generalizing s with
  | zero => rfl
  | succ n ih =>
    unfold State.grant
    split
    · rfl
    next w target l hw =>
      split
      next hgrant =>
        have hwv : v ≠ w := by
          rintro rfl
          simp only [Bool.and_eq_true, decide_eq_true_eq] at hgrant
          omega
        have hslots : (s.group g).slots.length ≤ ((s.grantOne g w target).group g).slots.length := by
          rw [grantOne_group (hg.trans_eq hlen.symm)]
          simp [GroupSt.granted]
        rw [ih ((grantOne_groups ..).trans hlen) (by rw [grantOne_terms hg]; exact hfull.trans hslots), grantOne_seq_other hwv]
      · rfl

/-- A slot that is given up, for which nothing else waits. -/
theorem State.releaseSlot_eq {v : Nat} (hlen : s.drive.groups.length = 32)
    (h : (s.group (s.groupOf v)).waiting.filter (fun w => w.2.1 != v) = []) :
    s.releaseSlot v = s.setGroup (s.groupOf v) { s.group (s.groupOf v) with
      slots := (s.group (s.groupOf v)).slots.filter (fun w => w.1 != v), waiting := [] } := by
  unfold State.releaseSlot
  dsimp only
  rw [h]
  refine grant_none 8 ?_
  rw [setGroup_group_self _ _ _ ((groupOf_lt s v).trans_eq hlen.symm)]

theorem sumN_map_le {α : Type} {f h : α → Nat} (l : List α) (hle : ∀ x, f x ≤ h x) : sumN (l.map f) ≤ sumN (l.map h) := by
  unfold sumN
  rw [← List.sum_eq_foldl, ← List.sum_eq_foldl]
  exact List.sum_le_sum fun x _ => hle x

/-- A budget that admits a boost still does where no valve regulates at a higher level. -/
theorem State.budgetAdmits_mono {t : State} (hvariant : t.variant = s.variant) (hslots : (t.group g).slots = (s.group g).slots)
    (hlevel : ∀ w, t.holdLevel w ≤ s.holdLevel w) (h : s.budgetAdmits g target = true) : t.budgetAdmits g target = true := by
  have hvalves : t.groupValves g = s.groupValves g := by
    unfold State.groupValves State.stride
    rw [hvariant]
  unfold State.budgetAdmits at h ⊢
  rw [decide_eq_true_eq] at h ⊢
  rw [hslots, hvalves]
  have := sumN_map_le (s.groupValves g) hlevel
  omega

end

/-! ### BOOST (07 R216) -/

/-- The sequencer of a valve that waits for a slot: the first BOOST of a shot carries no current meanwhile. -/
def Seq.waiting (q : Seq) (level : Nat) : Seq :=
  { q with
    busy := .boostWait (!q.boosted) q.issueAt level, level := if !q.boosted then min level 200 else q.level
    mode := if !q.boosted then .off else q.mode, lowSide := q.lowSide && !(!q.boosted) }

section
variable {s : State} {v : Valve} {l : Nat}

/-- The state in which the slot that BOOST requests is granted. -/
def State.boostRequested (s : State) (v l : Nat) : State :=
  ((s.atIssue v).setSeq v ((s.seq v).waiting l)).setGroup (s.groupOf v) { s.group (s.groupOf v) with
    waiting := insertRequest ((s.seq v).issueAt, v, min l 200) (s.group (s.groupOf v)).waiting }

theorem execBoost_eq (hissue : s.issuing v = some (.boost l)) : execBoost v s = .next (State.grant 8 (s.boostRequested v l) (s.groupOf v)) := by
  unfold execBoost
  rw [hissue]
  rfl

theorem State.boostRequested_seq (hseqs : s.seqs.shaped) : (s.boostRequested v l).seq v = (s.seq v).waiting l :=
  setSeq_seq_self (s.atIssue v) _ _ (seqs_lt hseqs v)

theorem State.boostRequested_group (hdrive : s.drive.shaped) : (s.boostRequested v l).group (s.groupOf v) = { s.group (s.groupOf v) with
    waiting := insertRequest ((s.seq v).issueAt, v, min l 200) (s.group (s.groupOf v)).waiting } :=
  setGroup_group_self _ _ _ ((groupOf_lt s v).trans_eq hdrive.2.symm)

theorem State.boostRequested_terms : (s.boostRequested v l).shotTerms v = s.shotTerms v := rfl

theorem State.boostRequested_groups : (s.boostRequested v l).drive.groups.length = s.drive.groups.length := List.length_set ..

/-- A valve that waits for a slot regulates at no higher level than before. -/
theorem State.boostRequested_holdLevel (hseqs : s.seqs.shaped) (w : Nat) : (s.boostRequested v l).holdLevel w ≤ s.holdLevel w := by
  unfold State.holdLevel
  by_cases hw : w = v
  · subst hw
    rw [boostRequested_seq hseqs]
    unfold Seq.waiting
    cases (s.seq v).boosted <;> simp
  · rw [show (s.boostRequested v l).seq w = s.seq w from setSeq_seq_other (s.atIssue v) _ _ hw]

theorem execBoost_waits (hdrive : s.drive.shaped) (hseqs : s.seqs.shaped) (hissue : s.issuing v = some (.boost l))
    (hfull : (s.shotTerms v).slots ≤ (s.group (s.groupOf v)).slots.length) :
    ∃ t, execBoost v s = .next t ∧ (t.seq v).busy = .boostWait (!(s.seq v).boosted) (s.seq v).issueAt l
      ∧ (t.seq v).level = (if (s.seq v).boosted then (s.seq v).level else min l 200)
      ∧ (t.seq v).mode = (if (s.seq v).boosted then (s.seq v).mode else .off) ∧ (t.seq v).pc = (s.seq v).pc := by
  have hseq : (State.grant 8 (s.boostRequested v l) (s.groupOf v)).seq v = (s.seq v).waiting l := by
    refine (grant_seq_full 8 (groupOf_lt ..) (boostRequested_groups.trans hdrive.2) ?_).trans (boostRequested_seq hseqs)
    rw [boostRequested_terms, boostRequested_group hdrive]
    exact hfull
  refine ⟨_, execBoost_eq hissue, ?_⟩
  rw [hseq]
  unfold Seq.waiting
  cases (s.seq v).boosted <;> exact ⟨rfl, rfl, rfl, rfl⟩

theorem execBoost_granted (hdrive : s.drive.shaped) (hseqs : s.seqs.shaped) (hissue : s.issuing v = some (.boost l))
    (hwaiting : (s.group (s.groupOf v)).waiting = []) (hslot : (s.group (s.groupOf v)).slots.length < (s.shotTerms v).slots)
    (hbudget : s.budgetAdmits (s.groupOf v) (min l 200) = true) (hstate : (s.group (s.groupOf v)).state ≠ 2) :
    ∃ t, execBoost v s = .next t ∧ (t.seq v).mode = .boost ∧ (t.seq v).level = min l 200 ∧ (t.seq v).boosted = true ∧ (t.seq v).busy = .none
      ∧ (t.seq v).pc = (s.seq v).pc + 1 ∧ (t.seq v).issueAt = (t.seq v).boostAt + 4
      ∧ (t.group (s.groupOf v)).slots = (s.group (s.groupOf v)).slots ++ [(v.val, min l 200)] := by
  have hgroup := boostRequested_group (v := v) (l := l) hdrive
  have hseq := boostRequested_seq (v := v) (l := l) hseqs
  have hg : s.groupOf v < (s.boostRequested v l).drive.groups.length := (groupOf_lt s v).trans_eq (boostRequested_groups.trans hdrive.2).symm
  have hgrant : State.grant 8 (s.boostRequested v l) (s.groupOf v) = (s.boostRequested v l).grantOne (s.groupOf v) v (min l 200) := by
    refine grant_single 7 hg (by rw [hgroup, hwaiting]; rfl) ?_ ?_ ?_
    · rw [hgroup]
      exact hslot
    · exact budgetAdmits_mono (s := s) rfl (by rw [hgroup]) (boostRequested_holdLevel hseqs) hbudget
    · rw [hgroup]
      exact hstate
  have hlen : v.val < (s.boostRequested v l).seqs.seqs.length := (seqs_lt hseqs v).trans_eq (List.length_set ..).symm
  obtain ⟨t, ht⟩ := grantOne_seq_self (g := s.groupOf v) (target := min l 200) hlen (congrArg Seq.busy hseq)
  refine ⟨_, execBoost_eq hissue, ?_⟩
  rw [hgrant, ht, hseq, grantOne_group hg, hgroup]
  exact ⟨rfl, rfl, rfl, rfl, rfl, rfl, rfl⟩

/-! ### The end of a boost phase, and a boost that is given up (07 R216) -/

theorem execBoostPhaseEnd_result {tick energy : Nat} (hdrive : s.drive.shaped) (hseqs : s.seqs.shaped) (hmode : (s.seq v).mode = .boost)
    (hintime : ∀ thr k u, (s.seq v).busy = .waiti 2 thr k u → stepAt (s.seq v).issueAt (max tick s.tick) + 4 ≤ u)
    (hwaiting : (s.group (s.groupOf v)).waiting = []) (hcount : s.time.counter ≤ tick) (hrun : s.timeRuns = true) :
    ∃ t, execBoostPhaseEnd v tick energy s = .next t ∧ t.time.counter = tick ∧ (t.seq v).mode = .hold ∧ (t.seq v).level = (s.seq v).level
      ∧ (t.valve v).openFails = 0
      ∧ (t.group (s.groupOf v)).slots = (s.group (s.groupOf v)).slots.filter (fun w => w.1 != v.val) := by
  unfold execBoostPhaseEnd
  extract_lets +onlyGivenNames late s1 q g gs src s2 s3 x s4 d src2
  have hlate : late = false := by
    unfold late
    split
    next thr k u hbusy => exact decide_eq_false (not_lt.2 (hintime thr k u hbusy))
    · rfl
  rw [if_pos (by rw [hlate, hmode]; rfl)]
  extract_lets +onlyGivenNames s5
  have hgl : g < 32 := groupOf_lt ..
  have hg3 : s3.group g = { gs with noRise := none } := setGroup_group_self _ _ _ (hgl.trans_eq hdrive.2.symm)
  have hwaiting3 : (s3.group g).waiting = [] := by
    rw [hg3]
    exact hwaiting
  have hlen3 : s3.drive.groups.length = 32 := (List.length_set ..).trans hdrive.2
  have hrelease : (s5.charge v energy).releaseSlot v
      = (s5.charge v energy).setGroup g { s3.group g with slots := (s3.group g).slots.filter (fun w => w.1 != v.val), waiting := [] } :=
    releaseSlot_eq (s := s5.charge v energy) hlen3 (congrArg (List.filter _) hwaiting3)
  refine ⟨_, rfl, ?_⟩
  rw [hrelease]
  have hseq : s5.seq v = { q.regulate (s1.shotTerms v).hysteresis with lowSide := false, boostEnd := s1.tick } :=
    setSeq_seq_self s1 _ _ (seqs_lt hseqs v)
  have hvalve : s5.valve v = { x with openFails := 0 } := setValve_valve_self s3 _ _ (lt_of_lt_of_eq v.isLt hdrive.1.symm)
  refine ⟨atTick_counter hrun hcount, congrArg Seq.mode hseq, (congrArg Seq.level hseq).trans rfl, congrArg ValveSt.openFails hvalve, ?_⟩
  refine (congrArg GroupSt.slots (setGroup_group_self (s5.charge v energy) g _ (hgl.trans_eq hlen3.symm))).trans ?_
  rw [hg3]
  rfl

/-- A boost that finds no slot in time counts once, for the module and for its group (06 R187). -/
theorem State.saturation_counts (s : State) (v : Nat) :
    (s.saturation v).nat (obj 0x2700 0x0A) = s.counted (obj 0x2700 0x0A)
      ∧ (s.saturation v).nat (groupKey 0x2707 (s.groupOf v)) = s.counted (groupKey 0x2707 (s.groupOf v)) := by
  have hg := groupOf_lt s v
  have hdiv : groupKey 0x2707 (s.groupOf v) / 256 = 0x2707 := by
    unfold groupKey obj
    omega
  have hne : obj 0x2700 0x0A ≠ groupKey 0x2707 (s.groupOf v) := by
    unfold groupKey obj
    omega
  unfold State.saturation
  refine ⟨?_, ?_⟩
  · rw [(raiseSlow_keeps ..).nat_drive (by decide) (by decide), nat_bump_other _ hne, nat_bump_self]
  · rw [(raiseSlow_keeps ..).nat_drive (by omega) (by omega)]
    refine (nat_bump_self ..).trans ?_
    rw [State.counted, nat_bump_other _ hne.symm]

theorem execBoostAbandon_result {u : Nat} (hdrive : s.drive.shaped) (hseqs : s.seqs.shaped) (hbusy : (s.seq v).busy = .boostWait false u l)
    (hwaiting : (s.group (s.groupOf v)).waiting.filter (fun w => w.2.1 != v.val) = []) :
    ∃ t, execBoostAbandon v s = .next t ∧ (t.seq v).busy = .none ∧ (t.seq v).pc = (s.seq v).pc + 1 ∧ (t.seq v).mode = (s.seq v).mode
      ∧ (t.seq v).level = (s.seq v).level ∧ t.nat (obj 0x2700 0x0A) = s.counted (obj 0x2700 0x0A)
      ∧ t.nat (groupKey 0x2707 (s.groupOf v)) = s.counted (groupKey 0x2707 (s.groupOf v)) := by
  unfold execBoostAbandon
  rw [hbusy]
  dsimp -zeta only
  extract_lets +onlyGivenNames at_ s1 s2
  have hrelease : s2 = (s1.nextWord v (max (u + 4) (stepAt u at_))).setGroup (s.groupOf v) { s.group (s.groupOf v) with
      slots := (s.group (s.groupOf v)).slots.filter (fun w => w.1 != v.val), waiting := [] } :=
    releaseSlot_eq (s := s1.nextWord v (max (u + 4) (stepAt u at_))) hdrive.2 hwaiting
  have hseq : s2.seq v = { s.seq v with pc := (s.seq v).pc + 1, issueAt := max (u + 4) (stepAt u at_), busy := .none } := by
    rw [hrelease]
    exact nextWord_seq (s := s1) (seqs_lt hseqs v) _
  have hnat : ∀ k, s2.nat k = s.nat k := fun k => by
    rw [hrelease]
    rfl
  have hgroup : s2.groupOf v = s.groupOf v := by
    rw [hrelease]
    rfl
  have hcounted : ∀ k, s2.counted k = s.counted k := fun k => congrArg (fun n => min (maxOf k) (n + 1)) (hnat k)
  obtain ⟨hmodule, hvgroup⟩ := saturation_counts s2 v
  rw [hgroup] at hvgroup
  refine ⟨_, rfl, ?_⟩
  rw [(saturation_does ..).seq_eq, hseq]
  exact ⟨rfl, rfl, rfl, rfl, hmodule.trans (hcounted _), hvgroup.trans (hcounted _)⟩

end

/-- Settles O16: each event of a sequencer from the lemma on its `exec` function. -/
theorem sequencerBoostResults : Obligations.SequencerBoostResults := by
  unfold Obligations.SequencerBoostResults
  refine ⟨fun _ _ _ hdrive hseqs hissue hfull => execBoost_waits hdrive hseqs hissue hfull,
    fun _ _ _ hdrive hseqs hissue hwaiting hslot hbudget hstate => execBoost_granted hdrive hseqs hissue hwaiting hslot hbudget hstate,
    fun v tick energy s hdrive hseqs hmode hintime hwaiting hcount hrun =>
      execBoostPhaseEnd_result hdrive hseqs hmode (fun thr k u hbusy => ?_) hwaiting hcount hrun,
    fun _ _ _ _ hdrive hseqs hbusy hwaiting => execBoostAbandon_result hdrive hseqs hbusy hwaiting,
    fun _ _ _ hseqs hbusy => execHoldEnd_result hseqs hbusy,
    fun _ _ _ hseqs hbusy => execWaitExpiry_result hseqs hbusy,
    fun _ _ _ _ _ _ _ _ _ hseqs hbusy hholds hu hdeadline => execWaitiConditionMet_result hseqs hbusy hholds hu hdeadline,
    fun _ _ _ _ _ _ hseqs hbusy hc => execWaitiTimeout_continues hseqs hbusy hc,
    fun v reading c thr u s _ hseqs hbusy hc => ?_, fun v reading thr u k s _ hseqs hbusy hmode => ?_,
    fun v parity s _ hseqs hready hparity hpc => ?_, fun v parity s _ hseqs hready hparity hgood hword => ?_,
    fun _ _ _ hdrive hseqs hrunning hidle hwindow => execSequencerIdle_result hdrive hseqs hrunning hidle hwindow⟩
  · rw [hbusy] at hintime
    exact of_decide_eq_true hintime
  · obtain ⟨t, ht, hresult⟩ := execWaitiTimeout_aborts (reading := reading) hseqs hbusy (.inl ⟨hc, rfl⟩)
    exact ⟨t, ht, hresult.running, hresult.mode, hresult.cause, hresult.counted⟩
  · obtain ⟨t, ht, hresult⟩ := execWaitiTimeout_aborts (reading := reading) hseqs hbusy (.inr ⟨rfl, hmode⟩)
    exact ⟨t, ht, hresult.running, hresult.mode, hresult.cause, hresult.counted⟩
  · subst hparity
    obtain ⟨t, ht, hresult, hprofile, hbad⟩ := execIllegalWord_parity hseqs hready hpc
    exact ⟨t, ht, hresult.running, hresult.mode, hresult.cause, hprofile, hresult.counted, hbad⟩
  · subst hparity
    obtain ⟨t, ht, hresult, hprofile⟩ := execIllegalWord_illegal hseqs hready hgood hword
    exact ⟨t, ht, hresult.running, hresult.mode, hresult.cause, hprofile, hresult.counted⟩

end Sys2Proof.Machine
end


section
/-!
The frames of the sequencers and their stores.
-/
set_option Elab.async false
set_option linter.all false

namespace Sys2Proof.Machine

open Sys2Proof State

section
variable {ps : List Part} {ks : List KeySet} {s : State} {o : Host.Outcome State Fault Refusal}

/-- A command that touches neither the dictionary nor what its defaults rest on keeps every object. -/
theorem NextDoes.kept (h : NextDoes ps s o) (k : Part.od ∉ ps ∧ Part.variant ∉ ps ∧ Part.side ∉ ps := by decide) : NextKept ks s o := by
  obtain ⟨t, ht, hdoes⟩ := h
  exact ⟨t, ht, Does.keeps hdoes k⟩

end

/-! ### Which objects the operations of the sequencers write -/

section
variable (s : State)

theorem State.regrant_keeps (v : Nat) : s.Keeps releaseKeys (s.regrant v) := Keeps.mono (grant_keeps ..) (grantKeys_cov (groupOf_lt ..))

theorem State.lowSideOff_keeps (v u : Nat) : s.Keeps releaseKeys (s.lowSideOff v u) :=
  .via (releaseSlot_keeps ..) (.past (setSeq_does ..) (.past (chargeBoost_does ..) .same))

/-- The exchange of a group's stores shows its duration and counts. -/
theorem State.swapStores_keeps (g : Nat) :
    s.Keeps [.frames, .events, .one (groupKey 0x2806 g), .one (obj 0x2800 6)] (s.swapStores g) :=
  .past (releaseHeld_does ..) <| .via (raise_keeps ..) (.via (bump_keeps ..) (.via (putNat_keeps ..) (.past (setStore_does ..) .same)
    (by simp)) (by simp)) (by simp)

/-- What a swap request of a group writes: it is refused, it waits, or the stores are exchanged. -/
abbrev requestKeysOf (g : Nat) : List KeySet :=
  [.frames, .events, .one (obj 0x2800 8), .one (groupKey 0x2806 g), .one (obj 0x2800 6)]

theorem State.requestSwap_keeps (g : Nat) : s.Keeps (requestKeysOf g) (s.requestSwap g).1 := by
  unfold State.requestSwap
  extract_lets +onlyGivenNames st s1
  have h1 : s.Keeps (requestKeysOf g) s1 := .past (setStore_does ..) .same
  split
  · dsimp only
    exact .via (raise_keeps ..) (.of (bump_keeps ..) (by simp)) (by simp)
  · split
    · exact .via (swapStores_keeps ..) h1 (by simp)
    · exact h1

/-- What the requests of all groups write, with the count of a write that a lock refuses. -/
abbrev requestAllKeys : List KeySet := [.frames, .events, .one (obj 0x2800 8), .one (obj 0x2800 6), .one (obj 0x2006 1), .groups 0x2806]

theorem requestKeysOf_cov {g : Nat} (hg : g < 32) : Cov (requestKeysOf g) requestAllKeys :=
  .more (.mem (by decide)) <| .more (.mem (by decide)) <| .more (.mem (by decide)) <| .more (.group hg (by decide)) <| .mem (by decide)

theorem actSwapAll_keeps : s.Keeps requestAllKeys (actSwapAll s).1 :=
  Keeps.foldlMem (fun t g hg => Keeps.mono (requestSwap_keeps t g) (requestKeysOf_cov (groupList_lt hg))) .same

/-- What a group's image writes: its cause and the count where it is refused. -/
abbrev imageKeys (g : Nat) : List KeySet := [.frames, .events, .one (obj 0x2800 9), .one (groupKey 0x2807 g)]

theorem actShadowImage_keeps (g : Nat) (img : List Byte) : s.Keeps (imageKeys g) (actShadowImage g img s).1 := by
  unfold actShadowImage State.refuseImage
  dsimp only
  split
  · exact .same
  · split
    · dsimp only
      exact .via (raise_keeps ..) (.via (bump_keeps ..) (.of (putNat_keeps ..) (by simp)) (by simp)) (by simp)
    · dsimp only
      exact .via (raise_keeps ..) (.past (setStore_does ..) .same) (by simp)

theorem actImageAll_keeps (img : List Byte) :
    s.Keeps [.frames, .events, .one (obj 0x2800 9), .one (obj 0x2006 1), .groups 0x2807] (actImageAll img s).1 := by
  unfold actImageAll
  split
  · exact .same
  · split
    · dsimp only
      refine .via (raise_keeps ..) (.via (bump_keeps ..) (Keeps.foldlMem (fun t g hg => ?_) .same))
      exact Keeps.mono (putNat_keeps ..) (.group (groupList_lt hg) (by decide))
    · refine Keeps.foldlMem (fun t g hg => Keeps.mono (actShadowImage_keeps t g img) ?_) .same
      exact .more (.mem (by decide)) <| .more (.mem (by decide)) <| .more (.mem (by decide)) <| .group (groupList_lt hg) (by decide)

theorem actProfileSelect_keeps (v p : Nat) : s.Keeps [.one (valveKey 0x2810 v)] (actProfileSelect v p s).1 := by
  unfold actProfileSelect
  dsimp only
  split
  · exact .same
  · exact putNat_keeps ..

end

/-! ### The words of a sequencer and what ends them -/

section
variable (v : Valve) (s : State)

theorem execBoost_keeps : NextKept [.one (obj 0x2700 9), .groups 0x2706, .groups 0x2708] s (execBoost v s) := by
  unfold execBoost
  split
  · extract_lets +onlyGivenNames s1 q g gs target first s2 s3
    have h3 : s.Keeps releaseKeys s3 := .past (setGroup_does ..) (.past (setSeq_does ..) (.past (atIssue_does ..) .same))
    exact .next (.of (Keeps.step (grant_keeps ..) (grantKeys_cov (groupOf_lt ..)) h3))
  · exact .next .same

theorem execBoostPhaseEnd_keeps (tick energy : Nat) :
    NextKept [.one (obj 0x2700 9), .groups 0x2706, .groups 0x2708] s (execBoostPhaseEnd v tick energy s) := by
  unfold execBoostPhaseEnd
  extract_lets +onlyGivenNames late
  refine .ite ?_ (.next .same)
  extract_lets +onlyGivenNames s1 q g gs x s2 s3 x2 s4 d x3 s5
  have h5 : s.Keeps releaseKeys s5 :=
    .past (Does.ledger _) <| .past (setValve_does ..) <| .past (setGroup_does ..) <| .past (setSeq_does ..) <| .past (atTick_does ..) .same
  exact .next (.via (releaseSlot_keeps ..) (.past (charge_does ..) (.of h5)))

theorem execBoostAbandon_keeps :
    NextKept [.frames, .events, .one (obj 0x2700 9), .one (obj 0x2700 10), .groups 0x2706, .groups 0x2708, .groups 0x2707] s
      (execBoostAbandon v s) := by
  unfold execBoostAbandon
  split
  · exact .next (.via (saturation_keeps ..) (.via (releaseSlot_keeps ..) (.past (nextWord_does ..) (.past (atTick_does ..) .same))))
  · exact .next .same

theorem execHold_keeps : NextKept [.one (obj 0x2700 9), .groups 0x2706, .groups 0x2708] s (execHold v s) := by
  unfold execHold
  split
  · extract_lets +onlyGivenNames s1 q s2
    have h2 : s.Keeps releaseKeys s2 := .past (setSeq_does ..) (.past (chargeBoost_does ..) (.past (atIssue_does ..) .same))
    exact .next (.ite (.via (releaseSlot_keeps ..) (.of h2)) (.via (regrant_keeps ..) (.of h2)))
  · exact .next .same

theorem execSeti_keeps : NextKept [.one (obj 0x2700 9), .groups 0x2706, .groups 0x2708] s (execSeti v s) := by
  unfold execSeti
  split
  · extract_lets +onlyGivenNames s1 q level q2 s2 g gs s3
    have h3 : s.Keeps releaseKeys s3 := .past (setGroup_does ..) (.past (setSeq_does ..) (.past (atIssue_does ..) .same))
    exact .next (.via (regrant_keeps ..) (.past (oneStep_does ..) (.of h3)))
  · exact .next .same

theorem execWaitiTimeout_keeps (reading : Nat) :
    NextKept [.frames, .events, .one (obj 0x2800 3), .one (obj 0x2700 9), .one (valveKey 0x2812 v.val), .one (obj 0x2800 2),
      .one (obj 0x2800 1), .one (obj 0x2800 5), .groups 0x2706, .groups 0x2708] s (execWaitiTimeout v reading s) := by
  unfold execWaitiTimeout
  split
  · refine .ite (.next .same) ?_
    extract_lets +onlyGivenNames s1
    refine .keep s1 (.past (atTick_does ..) .same) fun h1 => ?_
    refine .ite (.next (.past (nextWord_does ..) (.via (bump_keeps ..) (.past (setSeq_does ..) h1) (by simp)))) ?_
    extract_lets +onlyGivenNames s2
    refine .keep s2 (.via (raiseSlow_keeps ..) (.via (abortShot_keeps ..) h1 (by simp)) (by simp)) fun h2 => ?_
    exact .next (.ite (.via (boostMissed_keeps ..) h2 (by simp)) h2)
  · exact .next .same

theorem execOff_keeps : NextKept [.one (obj 0x2700 9), .groups 0x2706, .groups 0x2708] s (execOff v s) := by
  unfold execOff
  split
  · exact .next (.past (oneStep_does ..) (.via (lowSideOff_keeps ..) (.past (atIssue_does ..) .same)))
  · exact .next .same

theorem execProfileEnd_keeps : NextKept [.one (obj 0x2700 9), .groups 0x2706, .groups 0x2708] s (execProfileEnd v s) := by
  unfold execProfileEnd
  split
  · extract_lets +onlyGivenNames s1 s2
    refine .keep s1 (.past (atIssue_does ..) .same) fun h1 => ?_
    exact .next (.past (setSeq_does ..) (.ite h1 (.via (lowSideOff_keeps ..) h1)))
  · exact .next .same

theorem execIllegalWord_keeps (word : FetchedWord) :
    NextKept [.frames, .events, .one (obj 0x2700 9), .one (valveKey 0x2812 word.valve), .one (obj 0x2800 2), .one (obj 0x2800 1),
      .one (obj 0x2800 5), .one (valveKey 0x2810 word.valve), .groups 0x2706, .groups 0x2708] s (execIllegalWord word s) := by
  rw [execIllegalWord_eq]
  unfold State.abortWord
  refine .keep (s.noteWord word) (.past (noteWord_does ..) .same) fun h1 => .ite (.next ?_) (.next h1)
  exact .via (raise_keeps ..) (.via (raise_keeps ..) (.via (putNat_keeps ..) (.via (abortShot_keeps ..) (.past (atIssue_does ..) h1) (by simp))
    (by simp)) (by simp)) (by simp)

end

/-! ### Images, swaps and the selection of profiles -/

section
variable (m : Master) (s : State)

theorem execShadowImageWrite_keeps (g : Group) (image : List Byte) :
    NextKept [.frames, .events, .one (obj 0x2006 1), .one (obj 0x2800 9), .one (groupKey 0x2807 g.val)] s (execShadowImageWrite m g image s) :=
  .next (write_keeps (by simp) _ _ _ _ _ (.of (actShadowImage_keeps ..) (by simp)))

theorem execImageAllGroups_keeps (image : List Byte) :
    NextKept [.frames, .events, .one (obj 0x2800 9), .one (obj 0x2006 1), .groups 0x2807] s (execImageAllGroups m image s) :=
  .next (write_keeps (by decide) _ _ _ _ _ (actImageAll_keeps ..))

theorem execGroupSwapRequest_keeps (g : Group) :
    NextKept [.frames, .events, .one (obj 0x2800 8), .one (groupKey 0x2806 g.val), .one (obj 0x2800 6), .one (obj 0x2006 1)] s
      (execGroupSwapRequest m g s) :=
  .next (write_keeps (by simp) _ _ _ _ _ (.of (requestSwap_keeps ..) (by simp)))

theorem execSwapAllGroups_keeps :
    NextKept [.frames, .events, .one (obj 0x2800 8), .one (obj 0x2800 6), .one (obj 0x2006 1), .groups 0x2806] s (execSwapAllGroups m s) :=
  .next (write_keeps (by decide) _ _ _ _ _ (actSwapAll_keeps ..))

theorem execGroupSwap_keeps (g : Group) :
    NextKept [.frames, .events, .one (groupKey 0x2806 g.val), .one (obj 0x2800 6)] s (execGroupSwap g s) :=
  .ite (.next (swapStores_keeps ..)) (.next .same)

theorem execSwapAbandon_keeps (g : Group) : NextKept [.frames, .events, .one (obj 0x2800 7)] s (execSwapAbandon g s) := by
  unfold execSwapAbandon
  split
  · refine .ite ?_ (.next .same)
    exact .next (.via (raise_keeps ..) (.via (bump_keeps ..) (.past (releaseHeld_does ..) (.past (setStore_does ..) (.past (atClk_does ..) .same)))))
  · exact .next .same

theorem execProfileSelect_keeps (v : Valve) (profile : Nat) :
    NextKept [.one (obj 0x2006 1), .one (valveKey 0x2810 v.val)] s (execProfileSelect m v profile s) :=
  .next (write_keeps (by simp) _ _ _ _ _ (.of (actProfileSelect_keeps ..) (by simp)))

end

/-- Settles O52: each command changes only the parts and only the objects of its own lemmas. -/
theorem sequencerFrames : Obligations.SequencerFrames := by
  unfold Obligations.SequencerFrames
  exact ⟨
    fun _ _ => (execNop_does ..).frame (execNop_does ..).kept,
    fun _ _ => (execBoost_does ..).frame (execBoost_keeps ..),
    fun _ _ _ _ => (execBoostPhaseEnd_does ..).frame (execBoostPhaseEnd_keeps ..),
    fun _ _ => (execBoostAbandon_does ..).frame (execBoostAbandon_keeps ..),
    fun _ _ => (execHold_does ..).frame (execHold_keeps ..),
    fun _ _ => (execHoldEnd_does ..).frame (execHoldEnd_does ..).kept,
    fun _ _ => (execSeti_does ..).frame (execSeti_keeps ..),
    fun _ _ => (execDecay_does ..).frame (execDecay_does ..).kept,
    fun _ _ => (execWait_does ..).frame (execWait_does ..).kept,
    fun _ _ => (execWaitExpiry_does ..).frame (execWaitExpiry_does ..).kept,
    fun _ _ => (execWaiti_does ..).frame (execWaiti_does ..).kept,
    fun _ _ _ _ => (execWaitiConditionMet_does ..).frame (execWaitiConditionMet_does ..).kept,
    fun _ _ _ => (execWaitiTimeout_does ..).frame (execWaitiTimeout_keeps ..),
    fun _ _ => (execMark_does ..).frame (execMark_does ..).kept,
    fun _ _ => (execOff_does ..).frame (execOff_keeps ..),
    fun _ _ => (execLoop_does ..).frame (execLoop_does ..).kept,
    fun _ _ => (execProfileEnd_does ..).frame (execProfileEnd_keeps ..),
    fun _ _ => (execIllegalWord_does ..).frame (execIllegalWord_keeps ..),
    fun _ _ _ => (execSequencerIdle_does ..).frame (execSequencerIdle_does ..).kept,
    fun _ _ _ _ => (execShadowImageWrite_does ..).frame (execShadowImageWrite_keeps ..),
    fun _ _ _ => (execImageAllGroups_does ..).frame (execImageAllGroups_keeps ..),
    fun _ _ _ => (execGroupSwapRequest_does ..).frame (execGroupSwapRequest_keeps ..),
    fun _ _ => (execSwapAllGroups_does ..).frame (execSwapAllGroups_keeps ..),
    fun _ _ => (execGroupSwap_does ..).frame (execGroupSwap_keeps ..),
    fun _ _ => (execSwapHold_does ..).frame (execSwapHold_does ..).kept,
    fun _ _ => (execSwapAbandon_does ..).frame (execSwapAbandon_keeps ..),
    fun _ _ _ _ => (execProfileSelect_does ..).frame (execProfileSelect_keeps ..)⟩

end Sys2Proof.Machine
end


section
/-!
What the words of a profile do when a sequencer issues them.
-/
set_option Elab.async false
set_option linter.all false

namespace Sys2Proof.Machine

open Sys2Proof State

/-! ### What the operations of a word leave of a sequencer -/

section
variable {ps : List Part} {s t : State} {v : Nat}

theorem State.Does.groupOf_eq (h : s.Does ps t) (v : Nat) (k : Part.variant ∉ ps := by decide) : t.groupOf v = s.groupOf v := by
  unfold State.groupOf State.stride
  rw [h.variant_eq k]

theorem State.chargeBoost_groups (s : State) (v : Nat) : (s.chargeBoost v).drive.groups = s.drive.groups := by
  unfold State.chargeBoost
  split <;> rfl

/-- A grant to the group of a valve that waits for no slot leaves its sequencer. -/
theorem State.regrant_seq (h : ∀ w ∈ (s.group (s.groupOf v)).waiting, w.2.1 ≠ v) : (s.regrant v).seq v = s.seq v := grant_seq _ _ _ h

theorem State.oneStep_seq (h : v < s.seqs.seqs.length) :
    (s.oneStep v).seq v = { s.seq v with pc := (s.seq v).pc + 1, issueAt := (s.seq v).issueAt + 4, busy := .none } := nextWord_seq h _

/-- A word that sets something of its sequencer and takes one step. -/
theorem State.setSeq_oneStep_seq (h : v < s.seqs.seqs.length) (q : Seq) :
    ((s.setSeq v q).oneStep v).seq v = { q with pc := q.pc + 1, issueAt := q.issueAt + 4, busy := .none } := by
  rw [oneStep_seq (h.trans_eq (List.length_set ..).symm), setSeq_seq_self _ _ _ h]

theorem State.lowSideOff_driveKept (s : State) (v u : Nat) : s.DriveKept (s.lowSideOff v u) :=
  (chargeBoost_driveKept ..).trans ((setSeq_driveKept ..).trans (releaseSlot_driveKept ..))

theorem State.lowSideOff_seq (h : v < s.seqs.seqs.length) (u : Nat) :
    (s.lowSideOff v u).seq v = { s.seq v with mode := .off, lowSide := false, tOff := some u, busy := .none } := by
  unfold State.lowSideOff
  dsimp only
  rw [releaseSlot_seq, setSeq_seq_self _ _ _ (h.trans_eq (chargeBoost_driveKept s v).length.symm), (chargeBoost_does ..).seq_eq]

end

/-! ### The words (07 R214 to R225) -/

section
variable {s : State} {v : Valve}

theorem execNop_result (hseqs : s.seqs.shaped) (hissue : s.issuing v = some .nop) :
    ∃ t, execNop v s = .next t
      ∧ t.seq v = { s.seq v with pc := (s.seq v).pc + 1, issueAt := (s.seq v).issueAt + 4, busy := .none } := by
  unfold execNop
  rw [hissue]
  exact ⟨_, rfl, oneStep_seq (s := s.atIssue v) (seqs_lt hseqs v)⟩

/-- SETI sets LVL whatever the mode; in hold the valley follows it. -/
theorem execSeti_result {l : Nat} (hseqs : s.seqs.shaped) (hissue : s.issuing v = some (.seti l))
    (hwait : ∀ w ∈ (s.group (s.groupOf v)).waiting, w.2.1 ≠ v.val) :
    ∃ t, execSeti v s = .next t ∧ (t.seq v).level = (if (s.seq v).mode = .boost then min l 200 else l)
      ∧ (t.seq v).issueAt = (s.seq v).issueAt + 4 ∧ (t.seq v).pc = (s.seq v).pc + 1 := by
  unfold execSeti
  rw [hissue]
  dsimp -zeta only
  extract_lets +onlyGivenNames s1 q level q2 s2 g gs s3
  have hwaiting : ((s3.oneStep v).group g).waiting = (s.group g).waiting := by
    change (s3.group g).waiting = _
    unfold s3
    rw [setGroup_group]
    split <;> rfl
  have hseq : ((s3.oneStep v).regrant v).seq v = (s3.oneStep v).seq v := regrant_seq fun w hw => hwait w (hwaiting ▸ hw)
  refine ⟨_, rfl, ?_⟩
  rw [hseq, show (s3.oneStep v).seq v = _ from setSeq_oneStep_seq (s := s1) (seqs_lt hseqs v) _]
  split
  · exact ⟨rfl, rfl, rfl⟩
  · exact ⟨rfl, rfl, rfl⟩

theorem execDecay_result {f : Bool} (hseqs : s.seqs.shaped) (hissue : s.issuing v = some (.decay f)) :
    ∃ t, execDecay v s = .next t ∧ (t.seq v).fast = f ∧ (t.seq v).issueAt = (s.seq v).issueAt + 4 ∧ (t.seq v).pc = (s.seq v).pc + 1 := by
  unfold execDecay
  rw [hissue]
  refine ⟨_, rfl, ?_⟩
  rw [setSeq_oneStep_seq (s := s.atIssue v) (seqs_lt hseqs v)]
  exact ⟨rfl, rfl, rfl⟩

theorem execWait_result {n : Nat} (hseqs : s.seqs.shaped) (hissue : s.issuing v = some (.wait n)) :
    ∃ t, execWait v s = .next t ∧ (t.seq v).busy = .wait ((s.seq v).issueAt + 4 * n) ∧ (t.seq v).pc = (s.seq v).pc := by
  unfold execWait State.busySeq
  rw [hissue]
  refine ⟨_, rfl, ?_⟩
  rw [setSeq_seq_self (s.atIssue v) _ _ (seqs_lt hseqs v)]
  exact ⟨rfl, rfl⟩

theorem execWaiti_result {c n thr : Nat} {k : Bool} (hseqs : s.seqs.shaped) (hissue : s.issuing v = some (.waiti c k n thr))
    (hwaits : c ≠ 2 ∨ (s.seq v).mode = .boost) :
    ∃ t, execWaiti v s = .next t ∧ (t.seq v).busy = .waiti c thr k ((s.seq v).issueAt + 4 * n) ∧ (t.seq v).pc = (s.seq v).pc := by
  unfold execWaiti State.busySeq
  rw [hissue]
  dsimp only
  have hmode : ((s.atIssue v).seq v).mode = (s.seq v).mode := rfl
  rw [if_neg (by rw [hmode]; obtain h | h := hwaits <;> simp [h])]
  refine ⟨_, rfl, ?_⟩
  rw [setSeq_seq_self (s.atIssue v) _ _ (seqs_lt hseqs v)]
  exact ⟨rfl, rfl⟩

theorem execMark_result {d n : Nat} (hseqs : s.seqs.shaped) (hissue : s.issuing v = some (.mark d n)) :
    ∃ t, execMark v s = .next t
      ∧ (t.seq v).window = some { opens := (s.seq v).issueAt + d * usTicks, closes := (s.seq v).issueAt + d * usTicks + n * usTicks }
      ∧ (t.seq v).issueAt = (s.seq v).issueAt + 4 ∧ (t.seq v).pc = (s.seq v).pc + 1 := by
  unfold execMark
  rw [hissue]
  refine ⟨_, rfl, ?_⟩
  rw [setSeq_oneStep_seq (s := s.atIssue v) (seqs_lt hseqs v)]
  exact ⟨rfl, rfl, rfl⟩

/-- OFF turns the low side off and regulates no longer; the decay mode in force stays. -/
theorem execOff_result (hseqs : s.seqs.shaped) (hissue : s.issuing v = some .off) :
    ∃ t, execOff v s = .next t ∧ t.seq v = { s.seq v with
      mode := .off, lowSide := false, tOff := some (s.seq v).issueAt, busy := .none, pc := (s.seq v).pc + 1, issueAt := (s.seq v).issueAt + 4 } := by
  unfold execOff
  rw [hissue]
  refine ⟨_, rfl, ?_⟩
  have hlen := seqs_lt hseqs v
  rw [oneStep_seq (hlen.trans_eq (lowSideOff_driveKept (s.atIssue v) v _).length.symm), lowSideOff_seq (s := s.atIssue v) hlen]
  rfl

/-- LOOP jumps back while its counter runs. -/
theorem execLoop_repeats {c b n : Nat} (hseqs : s.seqs.shaped) (hissue : s.issuing v = some (.loop c b)) (hn : n ≠ 0)
    (hcount : (s.seq v).loopCtr = none ∧ c = n ∨ (s.seq v).loopCtr = some (n + 1)) :
    ∃ t, execLoop v s = .next t ∧ t.seq v = { s.seq v with
      loopCtr := some n, pc := (s.seq v).pc - b, issueAt := (s.seq v).issueAt + 4 } := by
  unfold execLoop
  rw [hissue]
  dsimp -zeta only
  extract_lets +onlyGivenNames s1 q r
  have hr : r = n := by
    unfold r
    obtain ⟨hctr, hc⟩ | hctr := hcount
    · rw [show q.loopCtr = none from hctr, hc]
    · rw [show q.loopCtr = some (n + 1) from hctr]
      rfl
  rw [if_neg (by rw [hr]; exact hn), hr]
  exact ⟨_, rfl, setSeq_seq_self s1 _ _ (seqs_lt hseqs v)⟩

/-- LOOP goes on when its counter is spent. -/
theorem execLoop_spent {c b : Nat} (hseqs : s.seqs.shaped) (hissue : s.issuing v = some (.loop c b)) (hcount : (s.seq v).loopCtr = some 1) :
    ∃ t, execLoop v s = .next t ∧ (t.seq v).loopCtr = none ∧ (t.seq v).issueAt = (s.seq v).issueAt + 4 ∧ (t.seq v).pc = (s.seq v).pc + 1 := by
  unfold execLoop
  rw [hissue]
  dsimp -zeta only
  extract_lets +onlyGivenNames s1 q r
  have hr : r = 0 := by
    unfold r
    rw [show q.loopCtr = some 1 from hcount]
  rw [if_pos hr]
  refine ⟨_, rfl, ?_⟩
  rw [setSeq_oneStep_seq (s := s1) (seqs_lt hseqs v)]
  exact ⟨rfl, rfl, rfl⟩

/-- HOLD regulates at its level; a boost phase that it ends gives its slot up. -/
theorem execHold_result {n l : Nat} (hseqs : s.seqs.shaped) (hissue : s.issuing v = some (.hold n l))
    (hwait : ∀ w ∈ (s.group (s.groupOf v)).waiting, w.2.1 ≠ v.val) :
    ∃ t, execHold v s = .next t ∧ (t.seq v).mode = .hold ∧ (t.seq v).level = l
      ∧ (t.seq v).busy = .hold (if n = 0 then none else some ((s.seq v).issueAt + 4 * n)) ∧ (t.seq v).pc = (s.seq v).pc := by
  unfold execHold
  rw [hissue]
  dsimp -zeta only
  extract_lets +onlyGivenNames s1 q s2
  have hdoes : s.Does [.clk, .freeCtr, .time, .drive] s1 := .via (chargeBoost_does ..) (.of (atIssue_does ..))
  have hq : q = s.seq v := hdoes.seq_eq v
  have hgroup : s2.group (s2.groupOf v) = s.group (s.groupOf v) := by
    rw [show s2.groupOf v = s.groupOf v from hdoes.groupOf_eq v]
    exact congrArg (fun l : List GroupSt => l.getD (s.groupOf v) {}) (chargeBoost_groups (s.atIssue v) v)
  have hlen : v.val < s1.seqs.seqs.length := (seqs_lt hseqs v).trans_eq (congrArg (·.seqs.length) hdoes.seqs_eq).symm
  have hseq : (if q.mode = .boost then s2.releaseSlot v else s2.regrant v).seq v = s2.seq v := by
    split
    · exact releaseSlot_seq ..
    · exact regrant_seq fun w hw => hwait w (hgroup ▸ hw)
  refine ⟨_, rfl, ?_⟩
  rw [hseq, show s2.seq v = _ from setSeq_seq_self s1 _ _ hlen, hq]
  exact ⟨rfl, rfl, rfl, rfl⟩

/-- END stops the sequencer, as OFF first where the valve is still driven. -/
theorem execProfileEnd_result (hseqs : s.seqs.shaped) (hissue : s.issuing v = some .fin) :
    ∃ t, execProfileEnd v s = .next t ∧ (t.seq v).running = false ∧ (t.seq v).mode = .off ∧ (t.seq v).busy = .none := by
  unfold execProfileEnd
  rw [hissue]
  dsimp -zeta only
  extract_lets +onlyGivenNames s1 s2
  have hlen : v.val < s1.seqs.seqs.length := seqs_lt hseqs v
  have h2 : v.val < s2.seqs.seqs.length ∧ (s2.seq v).mode = .off := by
    unfold s2
    split
    next hoff => exact ⟨hlen, hoff⟩
    next => exact ⟨hlen.trans_eq (lowSideOff_driveKept ..).length.symm, congrArg Seq.mode (lowSideOff_seq hlen _)⟩
  refine ⟨_, rfl, ?_⟩
  rw [setSeq_seq_self _ _ _ h2.1]
  exact ⟨rfl, h2.2, rfl⟩

end

/-- Settles O15: each word from the lemma on its `exec` function. -/
theorem sequencerWordResults : Obligations.SequencerWordResults := by
  unfold Obligations.SequencerWordResults
  refine ⟨fun _ _ hseqs hissue => execNop_result hseqs hissue,
    fun _ _ _ hseqs hissue hwait => execSeti_result hseqs hissue (by simpa using hwait),
    fun _ _ _ hseqs hissue => execDecay_result hseqs hissue,
    fun _ _ _ hseqs hissue => execWait_result hseqs hissue,
    fun _ _ _ _ _ _ hseqs hissue hwaits => execWaiti_result hseqs hissue hwaits,
    fun _ _ _ _ hseqs hissue => execMark_result hseqs hissue,
    fun v s hseqs hissue => ?_, fun v c b s hseqs hissue hctr hc => ?_, fun v c b k s hseqs hissue hctr hk => ?_,
    fun _ _ _ _ hseqs hissue hctr => execLoop_spent hseqs hissue hctr,
    fun _ _ _ _ hseqs hissue hwait => execHold_result hseqs hissue (by simpa using hwait),
    fun _ _ hseqs hissue => execProfileEnd_result hseqs hissue⟩
  · obtain ⟨t, ht, hseq⟩ := execOff_result hseqs hissue
    refine ⟨t, ht, ?_⟩
    rw [hseq]
    exact ⟨rfl, rfl, rfl, rfl⟩
  · obtain ⟨t, ht, hseq⟩ := execLoop_repeats hseqs hissue hc (.inl ⟨hctr, rfl⟩)
    refine ⟨t, ht, ?_⟩
    rw [hseq]
    exact ⟨rfl, rfl, rfl⟩
  · obtain ⟨t, ht, hseq⟩ := execLoop_repeats hseqs hissue hk (.inr hctr)
    refine ⟨t, ht, ?_⟩
    rw [hseq]
    exact ⟨rfl, rfl⟩

end Sys2Proof.Machine
end


section
/-!
The stores of a group: shots that are released, the exchange of the stores, and requests for it.
-/
set_option Elab.async false
set_option linter.all false

namespace Sys2Proof.Machine

open Sys2Proof State

/-! ### Stores and the objects of groups -/

theorem groupKey_inj {i g h : Nat} (e : groupKey i g = groupKey i h) : g = h := by
  unfold groupKey obj at e
  omega

theorem groupKey_ne_obj {i j g n : Nat} (hg : g < 32) (h : i ≠ j := by decide) (hn : n < 256 := by decide) : groupKey i g ≠ obj j n := by
  unfold groupKey obj
  omega

theorem groupKey_div {i g : Nat} (hg : g < 32) : groupKey i g / 256 = i := by
  unfold groupKey obj
  omega

section
variable {ps : List Part} {s t : State} {g : Nat}

theorem State.Does.store_eq (h : s.Does ps t) (g : Nat) (k : Part.seqs ∉ ps := by decide) : t.store g = s.store g :=
  congrArg (·.stores.getD g {}) (h.seqs_eq k)

theorem State.stores_lt (h : s.seqs.shaped) (g : Group) : g.val < s.seqs.stores.length := lt_of_lt_of_eq g.isLt h.2.symm

theorem State.groupList_stores_lt (h : s.seqs.shaped) (hg : g ∈ s.groupList) : g < s.seqs.stores.length := lt_of_lt_of_eq (groupList_lt hg) h.2.symm

theorem State.mem_groupList : g ∈ s.groupList ↔ g < s.stride := List.mem_range

theorem State.groupList_length (s : State) : s.groupList.length = s.stride := List.length_range

theorem State.groupList_ne_nil (s : State) : s.groupList ≠ [] := by
  refine List.ne_nil_of_length_pos ?_
  rw [groupList_length]
  unfold State.stride
  split <;> decide

theorem State.setStore_store (s : State) (g : Nat) (x : GroupStore) (h : Nat) (hg : g < s.seqs.stores.length) :
    (s.setStore g x).store h = if h = g then x else s.store h := by
  split
  next e => rw [e, setStore_store_self _ _ _ hg]
  next e => exact setStore_store_other _ _ _ e

end

/-! ### Steps over a list of groups -/

section
variable {f : State → Nat → State}

theorem foldl_reachable {m : Master} (h : ∀ t g, (f t g).reachable m = t.reachable m) (s : State) (l : List Nat) :
    (l.foldl f s).reachable m = s.reachable m := by
  induction l generalizing s with
  | nil => rfl
  | cons g l ih => exact (ih (f s g)).trans (h s g)

/-- What each step over a list keeps holds after the last, and a counter that each step counts in once stands at the sum, or at the largest value of
its type. -/
theorem foldl_counted {k : Nat} {P : List Nat → State → Prop} (hstep : ∀ g l t, P (g :: l) t → P l (f t g) ∧ (f t g).nat k = t.counted k)
    (l : List Nat) (s : State) (h : P l s) : P [] (l.foldl f s) ∧ (l ≠ [] → (l.foldl f s).nat k = min (maxOf k) (s.nat k + l.length)) := by
  induction l generalizing s with
  | nil => exact ⟨h, (absurd rfl ·)⟩
  | cons g l ih =>
    obtain ⟨hrest, hcounted⟩ := hstep g l s h
    obtain ⟨hlast, hsum⟩ := ih (f s g) hrest
    refine ⟨hlast, fun _ => ?_⟩
    by_cases he : l = []
    · subst he
      exact hcounted
    · rw [List.foldl_cons, hsum he, hcounted, List.length_cons]
      unfold State.counted
      omega

end

/-! ### The exchange of the stores (07 R233) -/

/-- The stores of a group after they have exchanged their roles. -/
def GroupStore.swapped (st : GroupStore) : GroupStore := { active := st.shadow, shadow := { st.active with valid := true } }

section
variable {s : State} {g : Nat}

/-- Held shots are released in the drive alone. -/
theorem State.releaseHeld_eq (s : State) (g : Nat) : ∃ t, s.Does [.drive] t ∧ ((s.store g).held = [] → t = s)
    ∧ s.releaseHeld g = t.setStore g { s.store g with held := [], holding := false } := by
  unfold State.releaseHeld
  extract_lets +onlyGivenNames st s1
  have h1 : s.Does [.drive] s1 := by
    refine Does.foldl (fun t v => ?_) .same
    dsimp only
    split
    · exact .same
    · exact setValve_does ..
  refine ⟨s1, h1, fun hheld => ?_, by rw [h1.store_eq]⟩
  unfold s1
  rw [show st.held = [] from hheld]
  rfl

theorem State.releaseHeld_seqs (s : State) (g : Nat) :
    (s.releaseHeld g).seqs = { s.seqs with stores := s.seqs.stores.set g { s.store g with held := [], holding := false } } := by
  obtain ⟨t, hdoes, -, heq⟩ := releaseHeld_eq s g
  rw [heq, ← hdoes.seqs_eq]
  rfl

theorem State.releaseHeld_store (hg : g < s.seqs.stores.length) : (s.releaseHeld g).store g = { s.store g with held := [], holding := false } :=
  (congrArg (·.stores.getD g {}) (releaseHeld_seqs s g)).trans (getD_set_self _ _ _ _ hg)

theorem State.releaseHeld_drive (h : (s.store g).held = []) : (s.releaseHeld g).drive = s.drive := by
  obtain ⟨t, -, ht, heq⟩ := releaseHeld_eq s g
  rw [heq, ht h]
  rfl

/-- How long a swap has waited, as 0x2806 shows it. -/
def State.swapTime (s : State) (g : Nat) : Nat := (s.store g).swapAt.elim 0 fun u => min 2000 ((s.clk - u) / usTicks)

/-- The stores exchange their roles; shots are still held. -/
def State.exchange (s : State) (g : Nat) : State :=
  (((s.setStore g { s.store g with active := (s.store g).shadow, shadow := { (s.store g).active with valid := true }, swapAt := none }).keep
    (groupKey 0x2806 g) (s.swapTime g)).bump (obj 0x2800 6)).raise 0x7005 g

theorem State.swapStores_eq (s : State) (g : Nat) : s.swapStores g = (s.exchange g).releaseHeld g := by
  unfold State.swapStores State.exchange State.swapTime
  dsimp only
  cases (s.store g).swapAt <;> rfl

/-- What is shown and counted of an exchange, and its event, touch no store. -/
theorem State.exchange_does (s : State) (g : Nat) :
    (s.setStore g { s.store g with active := (s.store g).shadow, shadow := { (s.store g).active with valid := true }, swapAt := none }).Does
      eventParts (s.exchange g) := .via (raise_does ..) (.via (bump_does ..) (.of (keep_does ..)))

theorem State.swapStores_seqs (hg : g < s.seqs.stores.length) :
    (s.swapStores g).seqs = { s.seqs with stores := s.seqs.stores.set g (s.store g).swapped } := by
  rw [swapStores_eq, releaseHeld_seqs, (exchange_does s g).store_eq, (exchange_does s g).seqs_eq, setStore_store_self _ _ _ hg]
  unfold State.setStore
  rw [List.set_set]
  rfl

theorem State.swapStores_store (hg : g < s.seqs.stores.length) (h : Nat) :
    (s.swapStores g).store h = if h = g then (s.store g).swapped else s.store h := by
  rw [← setStore_store s g _ h hg]
  exact congrArg (·.stores.getD h {}) (swapStores_seqs hg)

/-- An exchange for which no shot is held leaves the drive. -/
theorem State.swapStores_drive (hg : g < s.seqs.stores.length) (hheld : (s.store g).held = []) : (s.swapStores g).drive = s.drive := by
  have hstore : ((s.exchange g).store g).held = [] := by
    rw [(exchange_does s g).store_eq, setStore_store_self _ _ _ hg]
    exact hheld
  rw [swapStores_eq, releaseHeld_drive hstore, (exchange_does s g).drive_eq]
  rfl

theorem State.swapStores_nat (hg : g < 32) :
    (s.swapStores g).nat (groupKey 0x2806 g) = s.swapTime g ∧ (s.swapStores g).nat (obj 0x2800 6) = s.counted (obj 0x2800 6) := by
  have hdiv : groupKey 0x2806 g / 256 = 0x2806 := groupKey_div hg
  have hne : groupKey 0x2806 g ≠ obj 0x2800 6 := groupKey_ne_obj hg
  rw [swapStores_eq, (releaseHeld_does ..).nat_eq, (releaseHeld_does ..).nat_eq]
  unfold State.exchange State.keep
  refine ⟨?_, ?_⟩
  · rw [(raise_keeps ..).nat_drive (by omega) (by omega), nat_bump_other _ hne, nat_putNat_self]
  · rw [(raise_keeps ..).nat_drive (by decide) (by decide), nat_bump_self, State.counted, nat_putNat_other _ _ hne.symm]
    rfl

theorem State.swapStores_reachable (s : State) (g : Nat) (m : Master) : (s.swapStores g).reachable m = s.reachable m := by
  rw [swapStores_eq, (releaseHeld_does ..).reachable_eq]
  exact raise_reachable ..

end

/-! ### Requests (07 R233) -/

/-- A swap of a group is requested and waits. -/
def State.asked (s : State) (g : Nat) : State := s.setStore g { s.store g with swapAt := some s.clk, holding := false }

/-- The shadow store of a group can be exchanged: it is valid, no swap waits, and it holds the profiles that the valves select. -/
structure State.Swappable (s : State) (g : Nat) : Prop where
  valid : (s.store g).shadow.valid = true
  free : (s.store g).swapAt = none
  profiles : (s.groupValves g).all (fun v => ((s.store g).shadow.entry (s.profileOf v)).2 != 0) = true

/-- Nothing delays an exchange of a group's stores: the module does not sort, the group is idle and no edge of it is near. -/
structure State.SwapsNow (s : State) (g : Nat) : Prop where
  state : s.module.state ≠ .sorting
  test : s.testRunning = false
  idle : s.groupIdle g = true
  edges : s.edgeWithin g s.tick = false

section
variable {s : State} {g : Nat}

theorem State.asked_store (hg : g < s.seqs.stores.length) :
    (s.asked g).store g = { s.store g with swapAt := some s.clk, holding := false } := setStore_store_self _ _ _ hg

theorem State.requestSwap_refused (h : (s.store g).shadow.valid = false) :
    s.requestSwap g = ((s.bump (obj 0x2800 8)).raise 0x7007 g, abortState) := by
  unfold State.requestSwap
  dsimp only
  rw [if_pos (by simp [h])]

/-- A request that stands is refused by none of the tests of step 1. -/
theorem State.requestSwap_taken (h : s.Swappable g) : s.requestSwap g =
    if ((s.asked g).module.state != .sorting && !(s.asked g).testRunning && (s.asked g).groupIdle g && !(s.asked g).edgeWithin g (s.asked g).tick)
        || ((s.asked g).group g).state = 2 then ((s.asked g).swapStores g, 0)
    else (s.asked g, 0) := by
  obtain ⟨hvalid, hfree, hprofiles⟩ := h
  have hany : (s.groupValves g).any (fun v => ((s.store g).shadow.entry (s.profileOf v)).2 == 0) = false := by
    simpa using hprofiles
  unfold State.requestSwap
  dsimp only
  rw [if_neg (by simp [hvalid, hfree, hany])]
  rfl

theorem State.requestSwap_waits (h : s.Swappable g) (hstate : s.module.state = .sorting) (hgroup : (s.group g).state ≠ 2) :
    s.requestSwap g = (s.asked g, 0) := by
  have hstate' : (s.asked g).module.state = .sorting := hstate
  have hgroup' : ((s.asked g).group g).state ≠ 2 := hgroup
  rw [requestSwap_taken h, if_neg (by simp [hstate', hgroup'])]

theorem State.requestSwap_swaps (hg : g < s.seqs.stores.length) (h : s.Swappable g) (hnow : s.SwapsNow g) :
    s.requestSwap g = ((s.asked g).swapStores g, 0) := by
  obtain ⟨hstate, htest, hidle, hedges⟩ := hnow
  have hstate' : (s.asked g).module.state ≠ .sorting := hstate
  have htest' : (s.asked g).testRunning = false := htest
  have hidle' : (s.asked g).groupIdle g = true := hidle
  have hedges' : (s.asked g).edgeWithin g (s.asked g).tick = false := by
    rw [← hedges]
    unfold State.edgeWithin
    rw [asked_store hg]
    rfl
  rw [requestSwap_taken h, if_pos (by simp [hstate', htest', hidle', hedges'])]

theorem State.requestSwap_reachable (s : State) (g : Nat) (m : Master) : (s.requestSwap g).1.reachable m = s.reachable m := by
  unfold State.requestSwap
  dsimp only
  split
  · exact (raise_reachable ..).trans ((bump_does ..).reachable_eq m)
  · split
    · exact swapStores_reachable ..
    · rfl

end

/-! ### An exchange at once -/

section
variable {s : State} {g : Nat}

theorem State.swapTime_asked (hg : g < s.seqs.stores.length) : (s.asked g).swapTime g = 0 := by
  unfold State.swapTime
  rw [asked_store hg]
  change min 2000 ((s.clk - s.clk) / usTicks) = 0
  simp

/-- From `s` to `t` the stores of one group have exchanged their roles at its request. -/
structure State.SwappedAtOnce (g : Nat) (s t : State) : Prop where
  stores : ∀ h, t.store h = if h = g then (s.store g).swapped else s.store h
  seqs : t.seqs.seqs = s.seqs.seqs
  length : t.seqs.stores.length = s.seqs.stores.length
  shown : t.nat (groupKey 0x2806 g) = 0
  counted : t.nat (obj 0x2800 6) = s.counted (obj 0x2800 6)
  drive : (s.store g).held = [] → t.drive = s.drive

theorem State.asked_swapped (hg : g < s.seqs.stores.length) (hlt : g < 32) : s.SwappedAtOnce g ((s.asked g).swapStores g) := by
  have hlen : g < (s.asked g).seqs.stores.length := hg.trans_eq (List.length_set ..).symm
  obtain ⟨hshown, hcounted⟩ := swapStores_nat (s := s.asked g) hlt
  refine ⟨fun h => ?_, by rw [swapStores_seqs hlen]; rfl, ?_, hshown.trans (swapTime_asked hg), hcounted, fun hheld => ?_⟩
  · rw [swapStores_store hlen, asked_store hg]
    split
    · rfl
    next hne => exact setStore_store_other _ _ _ hne
  · rw [swapStores_seqs hlen]
    exact (List.length_set ..).trans (List.length_set ..)
  · refine (swapStores_drive hlen ?_).trans rfl
    rw [asked_store hg]
    exact hheld

end

end Sys2Proof.Machine
end


section
/-!
Images that are taken into the stores of groups, swaps that are requested, held and given up, and the selection of profiles.
-/
set_option Elab.async false
set_option linter.all false

namespace Sys2Proof.Machine

open Sys2Proof State

section
variable {s t : State} {m : Master} {k : Nat} {v : Val} {act : State → State × Nat}

/-- A write that passes every check does what its object's own rule does; beyond that it is at most answered. -/
theorem State.write_acts (hw : s.writable m k v = true) : (act s).1.Does [.out] (s.write m k v act) := by
  have hreach := (writable_iff.1 hw).1
  unfold State.write
  rw [if_neg (by rw [hreach]; exact nofun), tryWrite_of_writable hw]
  dsimp only
  exact .ite (answer_does ..) .same

end

/-! ### Images (07 R230, R238) -/

section
variable {s : State} {m : Master} {g : Nat} {img : List Byte}

theorem actShadowImage_taken (hfree : (s.store g).swapAt = none) (hcause : imageCause img = 0) :
    actShadowImage g img s = ((s.setStore g { s.store g with shadow := { image := img, valid := true } }).raise 0x7003 g, 0) := by
  unfold actShadowImage
  dsimp only
  rw [if_neg (by simp [hfree]), if_neg (not_not.2 hcause)]

theorem actShadowImage_refused (hfree : (s.store g).swapAt = none) (hcause : imageCause img ≠ 0) :
    actShadowImage g img s = (s.refuseImage g (imageCause img), imageAbort img) := by
  unfold actShadowImage
  dsimp only
  rw [if_neg (by simp [hfree]), if_pos hcause]

theorem actShadowImage_store (hg : g < s.seqs.stores.length) (hfree : (s.store g).swapAt = none) (hcause : imageCause img = 0) (h : Nat) :
    (actShadowImage g img s).1.store h = if h = g then { s.store g with shadow := { image := img, valid := true } } else s.store h := by
  rw [actShadowImage_taken hfree hcause, (raise_does ..).store_eq]
  exact setStore_store _ _ _ _ hg

theorem actShadowImage_stores (hfree : (s.store g).swapAt = none) (hcause : imageCause img = 0) :
    (actShadowImage g img s).1.seqs.stores.length = s.seqs.stores.length := by
  rw [actShadowImage_taken hfree hcause, (raise_does ..).seqs_eq]
  exact List.length_set ..

theorem State.refuseImage_nat (hg : g < 32) (cause : Nat) : (s.refuseImage g cause).nat (groupKey 0x2807 g) = cause
    ∧ (s.refuseImage g cause).nat (obj 0x2800 9) = s.counted (obj 0x2800 9) := by
  have hdiv : groupKey 0x2807 g / 256 = 0x2807 := groupKey_div hg
  have hne : groupKey 0x2807 g ≠ obj 0x2800 9 := groupKey_ne_obj hg
  unfold State.refuseImage State.keep
  refine ⟨?_, ?_⟩
  · rw [(raise_keeps ..).nat_drive (by omega) (by omega), nat_bump_other _ hne, nat_putNat_self]
  · rw [(raise_keeps ..).nat_drive (by decide) (by decide), nat_bump_self, State.counted, nat_putNat_other _ _ hne.symm]

theorem State.refuseImage_seqs (s : State) (g cause : Nat) : (s.refuseImage g cause).seqs = s.seqs := (refuseImage_does ..).seqs_eq

/-- An image that every group of a list takes is the shadow image of each of them, and of no other. -/
theorem takeImages_store (hcause : imageCause img = 0) (l : List Nat) (s : State)
    (hl : ∀ g ∈ l, g < s.seqs.stores.length ∧ (s.store g).swapAt = none) (h : Nat) :
    (l.foldl (fun s g => (actShadowImage g img s).1) s).store h
      = if h ∈ l then { s.store h with shadow := { image := img, valid := true } } else s.store h := by
  induction l generalizing s with
  | nil => simp
  | cons g l ih =>
    obtain ⟨⟨hg, hfree⟩, hrest⟩ := List.forall_mem_cons.1 hl
    have hstore := actShadowImage_store hg hfree hcause
    rw [List.foldl_cons, ih]
    · rw [hstore h]
      by_cases hhg : h = g
      · subst hhg
        simp
      · simp [hhg]
    · intro x hx
      rw [actShadowImage_stores hfree hcause, hstore x]
      refine ⟨(hrest x hx).1, ?_⟩
      split
      · exact hfree
      · exact (hrest x hx).2

/-- A number kept for each group of a list is read back there, and every other object stands. -/
theorem keepAll_nat (i c : Nat) (l : List Nat) (s : State) (k : Nat) : (l.foldl (fun s g => s.keep (groupKey i g) c) s).nat k
    = if k ∈ l.map (groupKey i) then c else s.nat k := by
  induction l generalizing s with
  | nil => simp
  | cons g l ih =>
    rw [List.foldl_cons, ih]
    unfold State.keep
    by_cases hk : k = groupKey i g
    · subst hk
      simp [nat_putNat_self]
    · simp [hk, nat_putNat_other _ _ hk]

end

section
variable {s : State} {m : Master} {image : List Byte}

theorem execShadowImageWrite_result {g : Group} (hseqs : s.seqs.shaped) (hw : s.writable m (groupKey 0x2801 g) (.bytes image) = true)
    (hfree : (s.store g).swapAt = none) :
    ∃ t, execShadowImageWrite m g image s = .next t ∧ (if imageCause image = 0 then
        (t.store g).shadow = { image := image, valid := true } ∧ (t.store g).active = (s.store g).active
      else t.nat (groupKey 0x2807 g) = imageCause image ∧ t.nat (obj 0x2800 9) = s.counted (obj 0x2800 9) ∧ t.seqs = s.seqs) := by
  have hdoes := write_acts (act := actShadowImage g image) hw
  refine ⟨_, rfl, ?_⟩
  split
  next hcause =>
    rw [hdoes.store_eq, actShadowImage_store (stores_lt hseqs g) hfree hcause, if_pos rfl]
    exact ⟨rfl, rfl⟩
  next hcause =>
    rw [actShadowImage_refused hfree hcause] at hdoes
    obtain ⟨hshown, hcounted⟩ := refuseImage_nat (s := s) g.isLt (imageCause image)
    exact ⟨(hdoes.nat_eq _).trans hshown, (hdoes.nat_eq _).trans hcounted, hdoes.seqs_eq.trans (refuseImage_seqs ..)⟩

/-- The image of all groups is tested once: no group takes it where it fails. -/
theorem actImageAll_eq (hfree : ∀ g ∈ s.groupList, (s.store g).swapAt = none) : actImageAll image s =
    if imageCause image ≠ 0 then
      (((s.groupList.foldl (fun s g => s.keep (groupKey 0x2807 g) (imageCause image)) s).bump (obj 0x2800 9)).raise 0x7004 0xFF, imageAbort image)
    else (s.groupList.foldl (fun s g => (actShadowImage g image s).1) s, 0) := by
  have hnone : s.groupList.any (fun g => (s.store g).swapAt.isSome) = false := by simpa using hfree
  unfold actImageAll
  rw [if_neg (by rw [hnone, Bool.and_false]; exact nofun)]

/-- An image is taken by every group, or refused as a whole. -/
theorem execImageAllGroups_result (hseqs : s.seqs.shaped) (hw : s.writable m (obj 0x2808 1) (.bytes image) = true)
    (hfree : ∀ g, g < s.stride → (s.store g).swapAt = none) :
    ∃ t, execImageAllGroups m image s = .next t ∧ (if imageCause image = 0 then
        ∀ g, g < s.stride → (t.store g).shadow = { image := image, valid := true }
      else t.seqs = s.seqs ∧ t.nat (obj 0x2800 9) = s.counted (obj 0x2800 9)
        ∧ ∀ g, g < s.stride → t.nat (groupKey 0x2807 g) = imageCause image) := by
  have hfree' : ∀ g ∈ s.groupList, (s.store g).swapAt = none := fun g hg => hfree g (mem_groupList.1 hg)
  have hdoes := write_acts (act := actImageAll image) hw
  rw [actImageAll_eq hfree'] at hdoes
  refine ⟨_, rfl, ?_⟩
  split
  next hcause =>
    rw [if_neg (not_not.2 hcause)] at hdoes
    intro g hg
    rw [hdoes.store_eq, takeImages_store hcause _ _ (fun g hg => ⟨groupList_stores_lt hseqs hg, hfree' g hg⟩), if_pos (mem_groupList.2 hg)]
  next hcause =>
    rw [if_pos hcause] at hdoes
    have hkept : s.Does [.od] (s.groupList.foldl (fun s g => s.keep (groupKey 0x2807 g) (imageCause image)) s) :=
      Does.foldl (fun _ _ => keep_does ..) .same
    refine ⟨?_, ?_, fun g hg => ?_⟩
    · exact hdoes.seqs_eq.trans ((raise_does ..).seqs_eq.trans ((bump_does ..).seqs_eq.trans hkept.seqs_eq))
    · have hother : obj 0x2800 9 ∉ s.groupList.map (groupKey 0x2807) := fun h => by
        obtain ⟨g, hg, he⟩ := List.mem_map.1 h
        exact groupKey_ne_obj (groupList_lt hg) (by decide) (by decide) he
      rw [hdoes.nat_eq, (raise_keeps ..).nat_drive (by decide) (by decide), nat_bump_self, State.counted, keepAll_nat, if_neg hother]
    · have hlt : g < 32 := groupList_lt (mem_groupList.2 hg)
      have hdiv : groupKey 0x2807 g / 256 = 0x2807 := groupKey_div hlt
      rw [hdoes.nat_eq, (raise_keeps ..).nat_drive (by omega) (by omega), nat_bump_other _ (groupKey_ne_obj hlt), keepAll_nat,
        if_pos (List.mem_map_of_mem (mem_groupList.2 hg))]

end

/-! ### A swap of one group (07 R233, R234) -/

section
variable {s : State} {m : Master} {g : Group}

theorem execGroupSwapRequest_swaps (hseqs : s.seqs.shaped) (hw : s.writable m (groupKey 0x2802 g) (.num 1) = true)
    (hswap : s.Swappable g) (hnow : s.SwapsNow g) :
    ∃ t, execGroupSwapRequest m g s = .next t ∧ s.SwappedAtOnce g t ∧ t.out.head? = some (ack m (groupKey 0x2802 g)) := by
  have hact := requestSwap_swaps (stores_lt hseqs g) hswap hnow
  have hreach := requestSwap_reachable s g m
  rw [hact] at hreach
  obtain ⟨hstores, hseq, hlength, hshown, hcounted, hdrive⟩ := asked_swapped (stores_lt hseqs g) g.isLt
  unfold execGroupSwapRequest
  rw [write_answered hw hact hreach]
  exact ⟨_, rfl, ⟨hstores, hseq, hlength, hshown, hcounted, hdrive⟩, rfl⟩

theorem execGroupSwapRequest_waits (hseqs : s.seqs.shaped) (hw : s.writable m (groupKey 0x2802 g) (.num 1) = true)
    (hswap : s.Swappable g) (hstate : s.module.state = .sorting) (hgroup : (s.group g).state ≠ 2) :
    ∃ t, execGroupSwapRequest m g s = .next t ∧ t.store g = { s.store g with swapAt := some s.clk, holding := false }
      ∧ t.out = ack m (groupKey 0x2802 g) :: s.out := by
  unfold execGroupSwapRequest
  rw [write_accepted hw (requestSwap_waits hswap hstate hgroup) (setStore_does ..)]
  exact ⟨_, rfl, asked_store (stores_lt hseqs g), rfl⟩

/-- A refusal counts once and leaves the stores. -/
theorem State.refusedSwap_result (s : State) (g : Nat) : ((s.bump (obj 0x2800 8)).raise 0x7007 g).seqs = s.seqs
    ∧ ((s.bump (obj 0x2800 8)).raise 0x7007 g).nat (obj 0x2800 8) = s.counted (obj 0x2800 8) :=
  ⟨(raise_does ..).seqs_eq, ((raise_keeps ..).nat_drive (by decide) (by decide)).trans (nat_bump_self ..)⟩

theorem execGroupSwapRequest_refused (hw : s.writable m (groupKey 0x2802 g) (.num 1) = true) (hvalid : (s.store g).shadow.valid = false) :
    ∃ t, execGroupSwapRequest m g s = .next t ∧ t.seqs = s.seqs ∧ t.nat (obj 0x2800 8) = s.counted (obj 0x2800 8)
      ∧ t.out.head? = some (.reply m (groupKey 0x2802 g / 256) (groupKey 0x2802 g % 256) abortState []) := by
  have hact := requestSwap_refused hvalid
  have hreach := requestSwap_reachable s g m
  rw [hact] at hreach
  obtain ⟨hseq, hcounted⟩ := refusedSwap_result s g
  unfold execGroupSwapRequest
  rw [write_answered hw hact hreach]
  exact ⟨_, rfl, hseq, hcounted, rfl⟩

theorem execGroupSwap_result {u : Nat} (hseqs : s.seqs.shaped) (hswap : (s.store g).swapAt = some u) (hidle : s.groupIdle g = true)
    (hedges : (s.store g).holding = true ∨ s.edgeWithin g s.tick = false) :
    ∃ t, execGroupSwap g s = .next t ∧ t.store g = (s.store g).swapped ∧ t.nat (groupKey 0x2806 g) = min 2000 ((s.clk - u) / usTicks)
      ∧ t.nat (obj 0x2800 6) = s.counted (obj 0x2800 6) := by
  unfold execGroupSwap
  rw [if_pos (by obtain h | h := hedges <;> simp [hswap, hidle, h])]
  obtain ⟨hshown, hcounted⟩ := swapStores_nat (s := s) g.isLt
  refine ⟨_, rfl, (swapStores_store (stores_lt hseqs g) g).trans (if_pos rfl), hshown.trans ?_, hcounted⟩
  unfold State.swapTime
  rw [hswap]
  rfl

theorem execSwapHold_result {u : Nat} (hseqs : s.seqs.shaped) (hswap : (s.store g).swapAt = some u) (hholding : (s.store g).holding = false)
    (hclk : s.clk ≤ u + msTicks) :
    ∃ t, execSwapHold g s = .next t ∧ t.clk = u + msTicks ∧ t.store g = { s.store g with holding := true } ∧ t.od = s.od := by
  unfold execSwapHold
  rw [hswap]
  dsimp only
  rw [if_neg (by rw [hholding]; exact nofun)]
  exact ⟨_, rfl, atClk_clk hclk, setStore_store_self (s.atClk (u + msTicks)) _ _ (stores_lt hseqs g), rfl⟩

theorem execSwapAbandon_result {u : Nat} (hseqs : s.seqs.shaped) (hswap : (s.store g).swapAt = some u) (hholding : (s.store g).holding = true)
    (hclk : s.clk ≤ u + 2 * msTicks) :
    ∃ t, execSwapAbandon g s = .next t ∧ t.clk = u + 2 * msTicks
      ∧ t.store g = { s.store g with swapAt := none, holding := false, held := [] } ∧ t.nat (obj 0x2800 7) = s.counted (obj 0x2800 7) := by
  unfold execSwapAbandon
  rw [hswap]
  dsimp -zeta only
  rw [if_pos hholding]
  extract_lets +onlyGivenNames s1 x s2
  have hclk1 : s1.clk = u + 2 * msTicks := atClk_clk hclk
  have hdoes1 : s.Does [.clk, .time] s1 := atClk_does ..
  clear_value s1
  have hlen : g.val < s1.seqs.stores.length := by
    rw [hdoes1.seqs_eq]
    exact stores_lt hseqs g
  have hx : x = s.store g := hdoes1.store_eq g
  have hdoes2 : s1.Does [.drive, .seqs] s2 := .via (releaseHeld_does ..) (.of (setStore_does ..))
  have hstore : s2.store g = { s.store g with swapAt := none, holding := false, held := [] } := by
    rw [show s2.store g = _ from releaseHeld_store (hlen.trans_eq (List.length_set ..).symm), setStore_store_self s1 _ _ hlen, hx]
  refine ⟨_, rfl, ?_, ?_, ?_⟩
  · rw [(raise_does ..).clk_eq, (bump_does ..).clk_eq, hdoes2.clk_eq, hclk1]
  · rw [(raise_does ..).store_eq, (bump_does ..).store_eq, hstore]
  · rw [(raise_keeps ..).nat_drive (by decide) (by decide), nat_bump_self, State.counted, hdoes2.nat_eq, hdoes1.nat_eq]

end

/-! ### The selection of profiles (07 R232) -/

theorem execProfileSelect_result {s : State} {m : Master} {v : Valve} {profile : Nat}
    (hw : s.writable m (valveKey 0x2810 v) (.num profile) = true) (hpresent : ((s.store (s.groupOf v)).active.entry profile).2 ≠ 0)
    (hfree : (s.store (s.groupOf v)).swapAt = none) :
    ∃ t, execProfileSelect m v profile s = .next t ∧ t.nat (valveKey 0x2810 v) = profile ∧ t.seqs = s.seqs
      ∧ t.out = ack m (valveKey 0x2810 v) :: s.out := by
  have hact : actProfileSelect v profile s = (s.keep (valveKey 0x2810 v) profile, 0) := by
    unfold actProfileSelect
    dsimp only
    rw [if_neg (by simp [hpresent, hfree])]
  unfold execProfileSelect
  rw [write_accepted hw hact (keep_does ..)]
  exact ⟨_, rfl, nat_putNat_self .., rfl, rfl⟩

/-! ### Swaps of all groups (07 R238) -/

section
variable {s : State} {m : Master}

/-- Each group's request is answered in the write of 0x2808:02 alone. -/
theorem execSwapAllGroups_answer (hw : s.writable m (obj 0x2808 2) (.num 1) = true) :
    execSwapAllGroups m s = .next ((actSwapAll s).1.answer m (obj 0x2808 2) 0 []) := by
  unfold execSwapAllGroups
  exact congrArg _ (write_answered hw rfl (foldl_reachable (fun t g => requestSwap_reachable t g m) _ _))

/-- Every request is refused where no shadow store is valid. -/
theorem execSwapAllGroups_refused (hw : s.writable m (obj 0x2808 2) (.num 1) = true)
    (hvalid : ∀ g, g < s.stride → (s.store g).shadow.valid = false) :
    ∃ t, execSwapAllGroups m s = .next t ∧ t.seqs = s.seqs
      ∧ t.nat (obj 0x2800 8) = min (maxOf (obj 0x2800 8)) (s.nat (obj 0x2800 8) + s.stride) ∧ t.out.head? = some (ack m (obj 0x2808 2)) := by
  obtain ⟨⟨hseq, -⟩, hsum⟩ := foldl_counted (f := fun t g => (t.requestSwap g).1) (k := obj 0x2800 8)
    (P := fun l t => t.seqs = s.seqs ∧ ∀ g ∈ l, (s.store g).shadow.valid = false)
    (fun g l t ⟨hseqs, hl⟩ => by
      have hstore : t.store g = s.store g := congrArg (·.stores.getD g {}) hseqs
      obtain ⟨hseq, hcounted⟩ := refusedSwap_result t g
      rw [requestSwap_refused (by rw [hstore]; exact hl g List.mem_cons_self)]
      exact ⟨⟨hseq.trans hseqs, fun h hh => hl h (List.mem_cons_of_mem _ hh)⟩, hcounted⟩)
    s.groupList s ⟨rfl, fun g hg => hvalid g (mem_groupList.1 hg)⟩
  have hcount := hsum s.groupList_ne_nil
  rw [groupList_length] at hcount
  exact ⟨_, execSwapAllGroups_answer hw, hseq, hcount, rfl⟩

end

/-- Settles O17: each command of the stores from the lemma on its `exec` function. -/
theorem sequencerStoreResults : Obligations.SequencerStoreResults := by
  unfold Obligations.SequencerStoreResults
  refine ⟨fun _ _ _ _ hseqs _ hw hfree _ => execShadowImageWrite_result hseqs hw hfree,
    fun _ _ _ hseqs hw hfree => execImageAllGroups_result hseqs hw hfree,
    fun m g s hseqs hw hvalid hfree hprofiles hstate htest hidle hedges => ?_,
    fun m g s hseqs hw hvalid hfree hprofiles hstate hgroup => ?_,
    fun _ _ _ hw hvalid => execGroupSwapRequest_refused hw hvalid,
    fun _ _ hw hvalid => execSwapAllGroups_refused hw hvalid,
    fun g u s hseqs hswap hidle hedges _ => ?_,
    fun _ _ _ hseqs hswap hholding hclk => execSwapHold_result hseqs hswap hholding hclk,
    fun _ _ _ hseqs hswap hholding hclk => execSwapAbandon_result hseqs hswap hholding hclk,
    fun _ _ _ _ hw hpresent hfree => execProfileSelect_result hw hpresent hfree⟩
  · obtain ⟨t, ht, hswapped, hout⟩ := execGroupSwapRequest_swaps hseqs hw ⟨hvalid, hfree, hprofiles⟩ ⟨hstate, htest, hidle, hedges⟩
    have hstore := (hswapped.stores g).trans (if_pos rfl)
    exact ⟨t, ht, congrArg GroupStore.active hstore, congrArg GroupStore.shadow hstore, congrArg GroupStore.swapAt hstore, hswapped.shown,
      hswapped.counted, hout⟩
  · obtain ⟨t, ht, hstore, hout⟩ := execGroupSwapRequest_waits hseqs hw ⟨hvalid, hfree, hprofiles⟩ hstate hgroup
    refine ⟨t, ht, ?_⟩
    rw [hstore]
    exact ⟨rfl, rfl, rfl, hout⟩
  · obtain ⟨t, ht, hstore, hshown, hcounted⟩ := execGroupSwap_result hseqs hswap hidle hedges
    exact ⟨t, ht, congrArg GroupStore.active hstore, congrArg GroupStore.shadow hstore, congrArg GroupStore.swapAt hstore,
      congrArg GroupStore.holding hstore, hshown, hcounted⟩

end Sys2Proof.Machine
end


section
/-!
The swap of every group at once.
-/
set_option Elab.async false
set_option linter.all false

namespace Sys2Proof.Machine

open Sys2Proof State

section
variable {s t : State} {g : Nat}

/-! ### What the tests of a swap rest on -/

/-- Requests of swaps leave the profile that a valve selects. -/
theorem State.Keeps.profileOf_eq (h : s.Keeps requestAllKeys t) {v : Nat} (hv : v < 256) : t.profileOf v = s.profileOf v := by
  have hdiv := valveKey_div 0x2810 v
  refine h.nat_eq ?_
  simp only [List.mem_cons, List.not_mem_nil, or_false, forall_eq_or_imp, forall_eq]
  refine ⟨fun h => ?_, fun h => ?_, ?_, ?_, ?_, fun h => ?_⟩
  · have := frames_has_lt h
    omega
  · have := events_has_div h
    omega
  iterate 3
    intro h
    rw [show valveKey 0x2810 v = _ from h] at hdiv
    simp only [obj] at hdiv
    omega
  · have := groups_has_div h
    omega

theorem State.groupValves_congr (h : t.variant = s.variant) (g : Nat) : t.groupValves g = s.groupValves g := by
  unfold State.groupValves State.stride
  rw [h]

theorem State.Swappable.of_eq (h : s.Swappable g) (hg : g < 32) (hstore : t.store g = s.store g) (hvariant : t.variant = s.variant)
    (hprofile : ∀ v, v < 256 → t.profileOf v = s.profileOf v) : t.Swappable g := by
  obtain ⟨hvalid, hfree, hprofiles⟩ := h
  refine ⟨hstore ▸ hvalid, hstore ▸ hfree, ?_⟩
  rw [groupValves_congr hvariant, hstore]
  rw [List.all_eq_true] at hprofiles ⊢
  intro v hv
  rw [hprofile v (groupValves_lt hg hv)]
  exact hprofiles v hv

theorem State.SwapsNow.of_eq (h : s.SwapsNow g) (hstore : t.store g = s.store g) (hvariant : t.variant = s.variant)
    (hmodule : t.module = s.module) (htime : t.time = s.time) (hdrive : t.drive = s.drive) (hseqs : t.seqs.seqs = s.seqs.seqs) : t.SwapsNow g := by
  obtain ⟨hstate, htest, hidle, hedges⟩ := h
  have hseq : ∀ v, t.seq v = s.seq v := fun v => congrArg (·.getD v {}) hseqs
  have hvalve : ∀ v, t.valve v = s.valve v := fun v => congrArg (·.valves.getD v {}) hdrive
  refine ⟨hmodule ▸ hstate, ?_, ?_, ?_⟩
  · rw [← htest]
    unfold State.testRunning
    rw [hdrive]
  · rw [← hidle]
    unfold State.groupIdle
    simp only [groupValves_congr hvariant, hseq]
  · rw [← hedges]
    unfold State.edgeWithin State.tick
    simp only [groupValves_congr hvariant, hvalve, hstore, htime]

/-! ### The requests one after another -/

/-- A group whose stores exchange their roles as soon as it is asked, with no shot held. -/
structure State.SwapReady (s : State) (g : Nat) : Prop where
  swappable : s.Swappable g
  now : s.SwapsNow g
  held : (s.store g).held = []

/-- Between `s` and `t` the stores of every group but those of a list have exchanged their roles, and nothing has changed that a swap asks of
another group. -/
structure State.SwappingAll (s : State) (l : List Nat) (t : State) : Prop where
  nodup : l.Nodup
  groups : ∀ g ∈ l, g < 32
  does : s.Does [.out, .od, .drive, .seqs, .backdrop, .strand, .side, .recorder] t
  keeps : s.Keeps requestAllKeys t
  drive : t.drive = s.drive
  seqs : t.seqs.seqs = s.seqs.seqs
  length : t.seqs.stores.length = s.seqs.stores.length
  waiting : ∀ g ∈ l, t.store g = s.store g
  done : ∀ g, g < s.stride → g ∉ l → t.store g = (s.store g).swapped ∧ t.nat (groupKey 0x2806 g) = 0

theorem State.SwappingAll.refl (s : State) : s.SwappingAll s.groupList s :=
  ⟨List.nodup_range, fun _ hg => groupList_lt hg, .same, .same, rfl, rfl, rfl, fun _ _ => rfl,
    fun _ hg hnot => absurd (mem_groupList.2 hg) hnot⟩

/-- The group that is asked next still meets every test. -/
theorem State.SwappingAll.ready {l : List Nat} (h : s.SwappingAll (g :: l) t) (hready : s.SwapReady g) : t.SwapReady g := by
  have hstore := h.waiting g List.mem_cons_self
  have hvariant := h.does.variant_eq
  exact ⟨hready.swappable.of_eq (h.groups g List.mem_cons_self) hstore hvariant fun v hv => h.keeps.profileOf_eq hv,
    hready.now.of_eq hstore hvariant h.does.module_eq h.does.time_eq h.drive h.seqs, hstore ▸ hready.held⟩

/-- The request of one group leaves what the last exchange of another shows. -/
theorem State.requestSwap_shown {h : Nat} (hne : h ≠ g) (hh : h < 32) :
    (s.requestSwap g).1.nat (groupKey 0x2806 h) = s.nat (groupKey 0x2806 h) := by
  have hdiv : groupKey 0x2806 h / 256 = 0x2806 := groupKey_div hh
  refine (requestSwap_keeps s g).nat_eq ?_
  simp only [List.mem_cons, List.not_mem_nil, or_false, forall_eq_or_imp, forall_eq]
  refine ⟨fun h => ?_, fun h => ?_, groupKey_ne_obj hh, fun h => hne (groupKey_inj h), groupKey_ne_obj hh⟩
  · have := frames_has_lt h
    omega
  · have := events_has_div h
    omega

theorem State.SwappingAll.step {l : List Nat} (h : s.SwappingAll (g :: l) t) (hlen : s.seqs.stores.length = 32) (hready : s.SwapReady g) :
    s.SwappingAll l (t.requestSwap g).1 ∧ (t.requestSwap g).1.nat (obj 0x2800 6) = t.counted (obj 0x2800 6) := by
  obtain ⟨hswap, hnow, hheld⟩ := h.ready hready
  have hg : g < 32 := h.groups g List.mem_cons_self
  have hlt : g < t.seqs.stores.length := hg.trans_eq (h.length.trans hlen).symm
  obtain ⟨hgl, hnodup⟩ := List.nodup_cons.1 h.nodup
  have hdoes := requestSwap_does t g
  have hkeeps := requestSwap_keeps t g
  have hswapped : t.SwappedAtOnce g (t.requestSwap g).1 := by
    rw [requestSwap_swaps hlt hswap hnow]
    exact asked_swapped hlt hg
  refine ⟨⟨hnodup, fun x hx => h.groups x (List.mem_cons_of_mem _ hx), Does.trans h.does hdoes, Keeps.step hkeeps (requestKeysOf_cov hg) h.keeps,
    (hswapped.drive hheld).trans h.drive, hswapped.seqs.trans h.seqs, hswapped.length.trans h.length, fun x hx => ?_, fun x hx hxl => ?_⟩,
    hswapped.counted⟩
  · have hxg : x ≠ g := fun e => hgl (e ▸ hx)
    rw [hswapped.stores x, if_neg hxg]
    exact h.waiting x (List.mem_cons_of_mem _ hx)
  · by_cases hxg : x = g
    · subst hxg
      rw [hswapped.stores x, if_pos rfl, h.waiting x List.mem_cons_self]
      exact ⟨rfl, hswapped.shown⟩
    · obtain ⟨hstore, hshown⟩ := h.done x hx (by simp [hxg, hxl])
      rw [hswapped.stores x, if_neg hxg, requestSwap_shown hxg (groupList_lt (mem_groupList.2 hx))]
      exact ⟨hstore, hshown⟩

end

/-- Settles O18: the requests of the groups, asked one after another, each exchange the stores of their group. -/
theorem swapAllGroupsResult : Obligations.SwapAllGroupsResult := by
  unfold Obligations.SwapAllGroupsResult
  intro m s hseqs hw hstate htest hgroups
  have hready : ∀ g, g < s.stride → s.SwapReady g := fun g hg => by
    obtain ⟨hvalid, hfree, hheld, hidle, hedges, hprofiles⟩ := hgroups g hg
    exact ⟨⟨hvalid, hfree, hprofiles⟩, ⟨hstate, htest, hidle, hedges⟩, hheld⟩
  obtain ⟨⟨hdone, -⟩, hsum⟩ := foldl_counted (f := fun t g => (t.requestSwap g).1) (k := obj 0x2800 6)
    (P := fun l t => s.SwappingAll l t ∧ ∀ g ∈ l, g < s.stride)
    (fun g l t ⟨h, hl⟩ => by
      obtain ⟨hnext, hcounted⟩ := h.step hseqs.2 (hready g (hl g List.mem_cons_self))
      exact ⟨⟨hnext, fun x hx => hl x (List.mem_cons_of_mem _ hx)⟩, hcounted⟩)
    s.groupList s ⟨.refl s, fun _ hg => mem_groupList.1 hg⟩
  have hcount := hsum s.groupList_ne_nil
  rw [groupList_length] at hcount
  refine ⟨_, execSwapAllGroups_answer hw, fun g hg => ?_, hcount, rfl⟩
  obtain ⟨hstore, hshown⟩ := hdone.done g hg List.not_mem_nil
  exact ⟨congrArg GroupStore.active hstore, congrArg GroupStore.shadow hstore, congrArg GroupStore.swapAt hstore, hshown⟩

end Sys2Proof.Machine
end


section
/-!
The frames of the loop engine and the ledger.
-/
set_option Elab.async false
set_option linter.all false

namespace Sys2Proof.Machine

open Sys2Proof State

/-- A loop that runs, with a swap of its banks that waits for the next boundary (09 R269). -/
def swapWaiting : State :=
  { State.reset with
    module := { State.reset.module with mainUp := true }
    loops := { State.reset.loops with slots := State.reset.loops.slots.set 0 { state := .running, swapPending := true } } }

/-- The count of bank swaps of slot 0 in the next state. -/
def swapCount : Host.Outcome State Fault Refusal → Option Val
  | .next t => some (t.val (slotKey 0 0x2A17 5))
  | _ => none

theorem swapCount_loopEnableWrite : swapCount (exec (.loopEnableWrite .host 0 0) swapWaiting) = some (.num 1) := by decide +kernel

/-- Refutes O53: a write of 0 to 0x2A10:02 of a loop in operation takes it out of states 1 and 2, where a swap of its banks that waits takes effect at
once (09 R269): its count 0x2A17:05 rises, which the frame of LOOP_ENABLE_WRITE does not list. -/
theorem not_loopLedgerFrames : ¬ Obligations.LoopLedgerFrames := by
  rintro ⟨-, -, -, -, -, -, -, -, henable, -⟩
  obtain ⟨t, ht, -, hkeeps⟩ := henable .host 0 0 swapWaiting
  have hval : t.val (slotKey 0 0x2A17 5) = swapWaiting.val (slotKey 0 0x2A17 5) :=
    hkeeps.val _ (by simp [KeySet.has, obj, slotKey])
  have hcount : some (t.val (slotKey 0 0x2A17 5)) = some (.num 1) := (congrArg swapCount ht).symm.trans swapCount_loopEnableWrite
  rw [hval] at hcount
  exact absurd hcount (by decide +kernel)

end Sys2Proof.Machine
end


section
/-!
What events leave of the recorder, and what the hourly close leaves of the ledger.
-/
set_option Elab.async false
set_option linter.all false

namespace Sys2Proof.Machine

open Sys2Proof State

/-! ### Parts of the state that stand -/

section
variable {ps : List Part} {s t : State}

theorem State.Does.recorder_eq (h : s.Does ps t) (k : Part.recorder ∉ ps := by decide) : t.recorder = s.recorder := h.only .recorder k

theorem State.Does.ledger_eq (h : s.Does ps t) (k : Part.ledger ∉ ps := by decide) : t.ledger = s.ledger := h.only .ledger k

theorem State.Does.od_eq (h : s.Does ps t) (k : Part.od ∉ ps := by decide) : t.od = s.od := h.only .od k

end

/-! ### The number of the hour (17 R461) -/

section
variable (s : State) (code sev arg : Nat)

@[simp] theorem State.logEvent_hour : (s.logEvent code sev arg).recorder.hour = s.recorder.hour := by
  unfold State.logEvent
  dsimp only
  split
  · split
    · rfl
    · split <;> rfl
  · rfl

@[simp] theorem State.noteDropped_hour (dropped : Bool) : (s.noteDropped dropped).recorder.hour = s.recorder.hour := by
  unfold State.noteDropped State.noteDrop
  split
  · split
    · rw [(eventToHost_does ..).recorder_eq, logEvent_hour]
      rfl
    · rfl
  · rfl

@[simp] theorem State.sendEvent_hour : (s.sendEvent code sev arg).recorder.hour = s.recorder.hour := by
  unfold State.sendEvent
  split
  · rfl
  · dsimp only
    rw [noteDropped_hour, (eventToHost_does ..).recorder_eq, (eventFrames_does ..).recorder_eq]

@[simp] theorem State.raiseLow_hour : (s.raiseLow code sev arg).recorder.hour = s.recorder.hour := by
  unfold State.raiseLow
  rw [sendEvent_hour, logEvent_hour]

@[simp] theorem State.writeRecord_hour (r : Record) (slot? : Option Nat) : (s.writeRecord r slot?).recorder.hour = s.recorder.hour := by
  unfold State.writeRecord
  dsimp only
  split
  · rw [raiseLow_hour]
    rfl
  · rfl

@[simp] theorem State.closeRecord_hour (trigger : Nat) : (s.closeRecord trigger code arg).recorder.hour = s.recorder.hour := by
  unfold State.closeRecord State.noteConfig
  dsimp only
  split
  · rw [raiseLow_hour, writeRecord_hour]
    rfl
  · rw [writeRecord_hour]
    rfl

@[simp] theorem State.severeTrigger_hour : (s.severeTrigger code sev arg).recorder.hour = s.recorder.hour := by
  unfold State.severeTrigger
  split
  · rfl
  · split
    · exact closeRecord_hour ..
    · split <;> rfl

@[simp] theorem State.raise_hour : (s.raise code arg).recorder.hour = s.recorder.hour := by
  unfold State.raise State.raiseAs
  dsimp only
  split
  · rw [severeTrigger_hour]
    exact congrArg Recorder.hour ((queueEmcy_does ..).recorder_eq) |>.trans (raiseLow_hour ..)
  · exact raiseLow_hour ..

@[simp] theorem State.hourTrigger_hour : s.hourTrigger.recorder.hour = s.recorder.hour := by
  unfold State.hourTrigger
  split
  · rfl
  · split
    · exact closeRecord_hour ..
    · rfl

end

/-! ### Entries of the ledger -/

section
variable (s : State) (v : Nat) (e : LedgerValve)

theorem State.setLedgerValve_self (h : v < s.ledger.data.valves.length) : (s.setLedgerValve v e).ledgerValve v = e := getD_set_self _ _ _ _ h

theorem State.setLedgerValve_other {u : Nat} (h : u ≠ v) : (s.setLedgerValve v e).ledgerValve u = s.ledgerValve u := getD_set_other _ _ _ _ _ h

theorem State.setLedgerValve_outside (h : ¬v < s.ledger.data.valves.length) : s.setLedgerValve v e = s := by
  unfold State.setLedgerValve
  rw [List.set_eq_of_length_le (not_lt.1 h)]

end

/-- The sums of the hour stand at their beginning (08 R242). -/
def LedgerValve.HourBegun (e : LedgerValve) : Prop := e.hourN = 0 ∧ e.hourDelta = 0 ∧ e.hourAmp = 0

/-! ### The steps of the hourly close (08 R239) -/

/-- What a step of the hourly close leaves: the number of the hour, the hours counted, and the entries whose hour begins anew. -/
structure State.Closing (s t : State) : Prop where
  hour : t.recorder.hour = s.recorder.hour
  hours : t.ledger.data.hours = s.ledger.data.hours
  begun : ∀ v, (s.ledgerValve v).HourBegun → (t.ledgerValve v).HourBegun

section
variable {s t u : State}

theorem State.Closing.refl (s : State) : s.Closing s := ⟨rfl, rfl, fun _ h => h⟩

theorem State.Closing.trans (h : s.Closing t) (k : t.Closing u) : s.Closing u :=
  ⟨k.hour.trans h.hour, k.hours.trans h.hours, fun v hv => k.begun v (h.begun v hv)⟩

theorem State.Closing.ite {c : Prop} [Decidable c] (h : s.Closing t) (k : s.Closing u) : s.Closing (if c then t else u) := by
  split
  · exact h
  · exact k

theorem State.Closing.foldl {α : Type} {f : State → α → State} (h : ∀ (t : State) x, t.Closing (f t x)) (l : List α) (s : State) :
    s.Closing (l.foldl f s) := by
  induction l generalizing s with
  | nil => exact .refl s
  | cons x l ih => exact (h s x).trans (ih _)

/-- What each of several steps brings about, and none undoes, holds after them of all. -/
theorem foldl_brings {α : Type} {f : State → α → State} {P : α → State → Prop} (hmake : ∀ (t : State) x, P x (f t x))
    (hkeep : ∀ (t : State) x y, P y t → P y (f t x)) (l : List α) (s : State) : ∀ x ∈ l, P x (l.foldl f s) := by
  induction l using List.reverseRecOn with
  | nil => nofun
  | append_singleton l a ih =>
    intro x hx
    rw [List.foldl_append]
    rcases List.mem_append.1 hx with hx | hx
    · exact hkeep _ _ _ (ih x hx)
    · obtain rfl := List.mem_singleton.1 hx
      exact hmake _ _

theorem State.setLedger_closing (s : State) {d : LedgerData} (hv : d.valves = s.ledger.data.valves) (hh : d.hours = s.ledger.data.hours) :
    s.Closing (s.setLedger d) :=
  ⟨rfl, hh, fun v h => by
    unfold State.ledgerValve State.setLedger
    rw [hv]
    exact h⟩

theorem State.setLedgerValve_closing (s : State) (v : Nat) {e : LedgerValve} (he : (s.ledgerValve v).HourBegun → e.HourBegun) :
    s.Closing (s.setLedgerValve v e) := by
  by_cases hv : v < s.ledger.data.valves.length
  · refine ⟨rfl, rfl, fun u h => ?_⟩
    by_cases hu : u = v
    · subst hu
      rw [setLedgerValve_self _ _ _ hv]
      exact he h
    · rw [setLedgerValve_other _ _ _ hu]
      exact h
  · rw [setLedgerValve_outside _ _ _ hv]
    exact .refl s

theorem State.Does.closing {ps : List Part} (h : s.Does ps t) (hr : Part.recorder ∉ ps := by decide) (hl : Part.ledger ∉ ps := by decide) :
    s.Closing t :=
  ⟨congrArg Recorder.hour (h.recorder_eq hr), congrArg (·.data.hours) (h.ledger_eq hl), fun v hv => by
    unfold State.ledgerValve
    rw [h.ledger_eq hl]
    exact hv⟩

theorem State.raise_closing (s : State) (code arg : Nat) : s.Closing (s.raise code arg) :=
  ⟨raise_hour .., congrArg (·.data.hours) (raise_does ..).ledger_eq, fun v hv => by
    unfold State.ledgerValve
    rw [(raise_does ..).ledger_eq]
    exact hv⟩

theorem State.closeValve_closing (s : State) (v : Nat) : s.Closing (s.closeValve v) := setLedgerValve_closing _ _ fun _ => ⟨rfl, rfl, rfl⟩

theorem State.closeValve_begun (s : State) (v : Nat) : ((s.closeValve v).ledgerValve v).HourBegun := by
  by_cases hv : v < s.ledger.data.valves.length
  · unfold State.closeValve
    extract_lets
    rw [setLedgerValve_self _ _ _ hv]
    exact ⟨rfl, rfl, rfl⟩
  · refine (closeValve_closing s v).begun v ?_
    unfold State.ledgerValve
    rw [List.getD_eq_default _ _ (not_lt.1 hv)]
    exact ⟨rfl, rfl, rfl⟩

theorem State.retire_closing (s : State) (v cause : Nat) : s.Closing (s.retire v cause) := by
  unfold State.retire
  dsimp only
  have hmark : ∀ c, s.Closing (s.setLedgerValve v { s.ledgerValve v with cause := c }) := fun c => setLedgerValve_closing _ _ id
  refine .ite (.refl s) (.ite (.ite ((hmark _).trans (raise_closing ..)) (hmark _)) ?_)
  exact (hmark _).trans ((setAvail_does ..).closing.trans (raise_closing ..))

theorem State.testValve_closing (s : State) (v : Nat) : s.Closing (s.testValve v) := by
  unfold State.testValve
  exact .ite (retire_closing ..) (.ite (retire_closing ..) (.refl s))

theorem State.closeStrobe_closing (s : State) (n : Nat) : s.Closing (s.closeStrobe n) := by
  unfold State.closeStrobe
  extract_lets +onlyGivenNames e head mean e1 k x period watts limit want e2 d s1
  have h1 : s.Closing s1 := setLedger_closing _ rfl rfl
  exact .ite (h1.trans (raise_closing ..)) h1

theorem State.closeCapacitance_closing (s : State) : s.Closing s.closeCapacitance := by
  unfold State.closeCapacitance
  extract_lets +onlyGivenNames d
  refine .ite (.refl s) ?_
  extract_lets +onlyGivenNames c f m s1
  have h1 : s.Closing s1 := setLedger_closing _ rfl rfl
  exact .ite (h1.trans (raise_closing ..)) h1

theorem State.closeRise_closing (s : State) : s.Closing s.closeRise := by
  unfold State.closeRise
  extract_lets +onlyGivenNames d0 means d
  refine .ite (setLedger_closing _ rfl rfl) ?_
  extract_lets +onlyGivenNames m
  split
  · exact setLedger_closing _ rfl rfl
  · extract_lets +onlyGivenNames d2
    refine .ite ?_ (setLedger_closing _ rfl rfl)
    extract_lets +onlyGivenNames top o
    refine .ite ?_ (setLedger_closing _ rfl rfl)
    extract_lets +onlyGivenNames s1
    have h1 : s.Closing s1 := setLedger_closing _ rfl rfl
    exact .ite h1 (h1.trans (raise_closing ..))

theorem State.closeFan_closing (s : State) (i : Nat) : s.Closing (s.closeFan i) := by
  unfold State.closeFan
  extract_lets +onlyGivenNames d f
  refine .ite (.refl s) ?_
  extract_lets +onlyGivenNames r m s1
  have h1 : s.Closing s1 := setLedger_closing _ rfl rfl
  exact .ite (h1.trans (raise_closing ..)) h1

theorem State.closeDie_closing (s : State) : s.Closing s.closeDie := setLedger_closing _ rfl rfl

theorem State.hourTrigger_closing (s : State) : s.Closing s.hourTrigger :=
  ⟨hourTrigger_hour s, congrArg (·.data.hours) (hourTrigger_does _).ledger_eq, fun v hv => by
    unfold State.ledgerValve
    rw [(hourTrigger_does _).ledger_eq]
    exact hv⟩

/-- The steps of the close up to its end. -/
def State.closeHour (s : State) : State :=
  ((List.range 4).foldl State.closeFan ((List.range 4).foldl State.closeStrobe ((List.range s.valveCount).foldl State.testValve
    ((List.range s.valveCount).foldl State.closeValve s.holdVbst))).closeCapacitance.closeRise).closeDie

theorem State.hourlyClose_eq (s : State) : s.hourlyClose =
    (s.closeHour.setLedger { s.closeHour.ledger.data with hours := satAdd max32 1 s.closeHour.ledger.data.hours }).storeLedger := rfl

theorem State.closeHour_closing (s : State) : s.Closing s.closeHour := by
  unfold State.closeHour
  refine Closing.trans ?_ (closeDie_closing _)
  refine Closing.trans ?_ (.foldl closeFan_closing _ _)
  refine Closing.trans ?_ ((closeCapacitance_closing _).trans (closeRise_closing _))
  refine Closing.trans ?_ (.foldl closeStrobe_closing _ _)
  refine Closing.trans ?_ (.foldl testValve_closing _ _)
  exact (holdVbst_does s).closing.trans (.foldl closeValve_closing _ _)

theorem State.closeHour_begun (s : State) {v : Nat} (hv : v < s.valveCount) : (s.closeHour.ledgerValve v).HourBegun := by
  unfold State.closeHour
  refine (closeDie_closing _).begun v ((Closing.foldl closeFan_closing _ _).begun v ?_)
  refine ((closeCapacitance_closing _).trans (closeRise_closing _)).begun v ((Closing.foldl closeStrobe_closing _ _).begun v ?_)
  refine (Closing.foldl testValve_closing _ _).begun v ?_
  exact foldl_brings (P := fun v t => (t.ledgerValve v).HourBegun) closeValve_begun (fun t x y h => (closeValve_closing t x).begun y h) _ _ v
    (List.mem_range.2 hv)

theorem State.valveCount_congr {s t : State} (h : t.variant = s.variant) : t.valveCount = s.valveCount := by
  unfold State.valveCount
  rw [h]

theorem State.hourlyClose_result (s : State) : s.hourlyClose.recorder.hour = s.recorder.hour
    ∧ s.hourlyClose.ledger.data.hours = satAdd max32 1 s.ledger.data.hours
    ∧ ∀ v, v < s.valveCount → (s.hourlyClose.ledgerValve v).HourBegun := by
  have hclose := closeHour_closing s
  have hbegun := fun v hv => closeHour_begun s (v := v) hv
  rw [hourlyClose_eq]
  generalize s.closeHour = t at hclose hbegun
  exact ⟨hclose.hour, congrArg (satAdd max32 1) hclose.hours, hbegun⟩

end

/-! ### The commands of the ledger -/

section
variable {s : State}

theorem execOperatingHour_result (hup : s.module.mainUp = true) :
    ∃ t, execOperatingHour s = .next t ∧ t.recorder.hour = s.recorder.hour + 1 ∧ t.ledger.data.hours = satAdd max32 1 s.ledger.data.hours
      ∧ ∀ v, v < s.valveCount → (t.ledgerValve v).HourBegun := by
  unfold execOperatingHour
  rw [if_neg (by rw [hup]; exact nofun)]
  extract_lets h s1 src s2
  have hnumber : s2.recorder.hour = s.recorder.hour + 1 := rfl
  have hdoes : s.Does [.clk, .time, .recorder] s2 := .via (Does.recorder _ id) (.of (atClk_does ..))
  clear_value s2
  obtain ⟨hhour, hhours, hbegun⟩ := hourlyClose_result s2.hourTrigger
  have htrigger := hourTrigger_closing s2
  rw [valveCount_congr ((hourTrigger_does _).variant_eq.trans hdoes.variant_eq)] at hbegun
  refine ⟨_, rfl, hhour.trans (htrigger.hour.trans hnumber), hhours.trans ?_, hbegun⟩
  rw [htrigger.hours, hdoes.ledger_eq]

theorem State.storeLedger_data (s : State) :
    s.storeLedger.ledger.data = { s.ledger.data with writes := satAdd max32 1 s.ledger.data.writes } := rfl

theorem execValveReplaced_result {m : Master} {v : Nat} (hdrive : s.drive.shaped) (hw : s.writable m (obj 0x290B 1) (.num v) = true)
    (hv : v < s.valveCount) (hentry : v < s.ledger.data.valves.length) (havail : (s.valve v).avail ≠ 2) :
    ∃ t, execValveReplaced m v s = .next t
      ∧ t.ledgerValve v = { fresh := some (0, 0), calibrated := (s.ledgerValve v).calibrated }
      ∧ (t.valve v).avail = (if (s.valve v).avail = 1 then 0 else (s.valve v).avail)
      ∧ t.ledger.data.writes = satAdd max32 1 s.ledger.data.writes
      ∧ t.out.head? = some (Machine.ack m (obj 0x290B 1)) := by
  have hlen : v < s.drive.valves.length := (hv.trans_le (valveCount_le s)).trans_eq hdrive.1.symm
  let s1 := s.setLedgerValve v { fresh := some (0, 0), calibrated := (s.ledgerValve v).calibrated }
  let s2 := if (s1.valve v).avail = 1 then s1.setValve v { s1.valve v with avail := 0 } else s1
  have hact : actValveReplaced v s = ((s2.raise 0x6022 v).storeLedger, 0) := by
    unfold actValveReplaced
    rw [if_neg (not_le.2 hv), if_neg havail]
  have hdoes : s.Does [.drive, .ledger] s2 := .ite (.via (setValve_does ..) (.of (setLedgerValve_does ..))) (.of (setLedgerValve_does ..))
  have hledger : s2.ledger = s1.ledger := by
    unfold s2
    split <;> rfl
  have hraised := (raise_does s2 0x6022 v).ledger_eq.trans hledger
  have hreach : (s2.raise 0x6022 v).storeLedger.reachable m = s.reachable m :=
    (storeLedger_does _).reachable_eq m |>.trans ((raise_reachable ..).trans (hdoes.reachable_eq m))
  refine ⟨_, congrArg Host.Outcome.next (write_answered hw hact hreach), ?_, ?_, ?_, rfl⟩
  · exact (congrArg (fun x : Ledger => x.data.valves.getD v {}) hraised).trans (setLedgerValve_self _ _ _ hentry)
  · refine (congrArg ValveSt.avail ((raise_does s2 0x6022 v).valve_eq v)).trans ?_
    by_cases hretired : (s.valve v).avail = 1
    · rw [show s2 = s1.setValve v { s1.valve v with avail := 0 } from if_pos hretired, if_pos hretired]
      exact congrArg ValveSt.avail (setValve_valve_self s1 _ _ hlen)
    · rw [show s2 = s1 from if_neg hretired, if_neg hretired]
      rfl
  · exact congrArg (satAdd max32 1 ·.data.writes) hraised

theorem State.coreStep_data (h : s.ledger.data.coreSteps < 4) :
    s.coreStep.ledger.data = { s.ledger.data with
      coreSteps := s.ledger.data.coreSteps + 1, corePending := false, writes := satAdd max32 1 s.ledger.data.writes } := by
  unfold State.coreStep
  dsimp only
  rw [if_neg (not_le.2 h), storeLedger_data, (raise_does ..).ledger_eq]
  rfl

/-- The worst margin of the hour after a sample (08 R253). -/
def State.withMargin (s : State) (ring : RingMargin) : State :=
  s.setLedger { s.ledger.data with dieWorst := min (min 100 (s.dieMargin ring)) s.ledger.data.dieWorst }

section
variable {ring : RingMargin} (hup : s.module.mainUp = true)
include hup

/-- A sample below the limit of 0x2901:08 with steps left. -/
theorem execDieMarginSample_step (hlow : s.dieMargin ring < s.nat (obj 0x2901 8)) (hsteps : s.ledger.data.coreSteps < 4) :
    execDieMarginSample ring s = .next (s.withMargin ring).coreStep := by
  unfold execDieMarginSample
  rw [if_neg (by rw [hup]; exact nofun)]
  extract_lets margin m d s1 low d1 s2
  have hbelow : low = true := decide_eq_true hlow
  have htaken : s2 = s.withMargin ring := if_pos hbelow
  have hstep : (low && decide (d.coreSteps < 4)) = true := by rw [hbelow, decide_eq_true hsteps]; rfl
  rw [if_pos hstep, htaken]

/-- A sample below that limit with no step left. -/
theorem execDieMarginSample_exhausted (hlow : s.dieMargin ring < s.nat (obj 0x2901 8)) (hsteps : 4 ≤ s.ledger.data.coreSteps) :
    ∃ t, execDieMarginSample ring s = .next t ∧ t.ledger.data.dieExhausted = true ∧ t.ledger.data.coreSteps = s.ledger.data.coreSteps
      ∧ t.ledger.data.dieWorst = (s.withMargin ring).ledger.data.dieWorst := by
  unfold execDieMarginSample
  rw [if_neg (by rw [hup]; exact nofun)]
  extract_lets margin m d s1 low d1 s2
  have hbelow : low = true := decide_eq_true hlow
  have htaken : s2 = s.withMargin ring := if_pos hbelow
  have hstep : (low && decide (d.coreSteps < 4)) = false := by rw [hbelow, decide_eq_false (not_lt.2 hsteps)]; rfl
  rw [if_neg (by rw [hstep]; exact nofun), if_pos hbelow]
  clear_value s2
  subst htaken
  by_cases hexhausted : d.dieExhausted = true
  · exact ⟨_, if_pos hexhausted, hexhausted, rfl, rfl⟩
  · refine ⟨_, if_neg hexhausted, ?_⟩
    rw [(raise_does ..).ledger_eq]
    exact ⟨rfl, rfl, rfl⟩

section
variable (hhigh : s.nat (obj 0x2901 8) ≤ s.dieMargin ring)
include hhigh

/-- A sample at that limit or above it, with steps left, below 0x2901:07: the range is not exhausted, and a step is pending. -/
theorem execDieMarginSample_pending (hwarn : s.dieMargin ring < s.nat (obj 0x2901 7)) (hsteps : s.ledger.data.coreSteps < 4) :
    execDieMarginSample ring s =
      .next ((s.withMargin ring).setLedger { (s.withMargin ring).ledger.data with dieExhausted := false, corePending := true }) := by
  unfold execDieMarginSample
  rw [if_neg (by rw [hup]; exact nofun)]
  extract_lets margin m d s1 low d1 s2
  have habove : ¬low = true := by rw [show low = false from decide_eq_false (not_lt.2 hhigh)]; exact nofun
  have htaken : s2 = (s.withMargin ring).setLedger { (s.withMargin ring).ledger.data with dieExhausted := false } := if_neg habove
  rw [if_neg (fun h => habove (Bool.and_eq_true_iff.1 h).1), if_neg habove]
  clear_value s2
  subst htaken
  exact if_pos ⟨hwarn, hsteps⟩

/-- A sample at 0x2901:07 or above it. -/
theorem execDieMarginSample_above (hwarn : s.nat (obj 0x2901 7) ≤ s.dieMargin ring) :
    execDieMarginSample ring s = .next ((s.withMargin ring).setLedger { (s.withMargin ring).ledger.data with dieExhausted := false }) := by
  unfold execDieMarginSample
  rw [if_neg (by rw [hup]; exact nofun)]
  extract_lets margin m d s1 low d1 s2
  have habove : ¬low = true := by rw [show low = false from decide_eq_false (not_lt.2 hhigh)]; exact nofun
  have htaken : s2 = (s.withMargin ring).setLedger { (s.withMargin ring).ledger.data with dieExhausted := false } := if_neg habove
  rw [if_neg (fun h => habove (Bool.and_eq_true_iff.1 h).1), if_neg habove]
  clear_value s2
  subst htaken
  exact if_neg fun h => absurd h.1 (not_lt.2 hwarn)

end

end

theorem execBulkRechargeMeasured_result {ticks rise : Nat} (hup : s.module.mainUp = true) (hrise : 500 ≤ rise)
    (hopen : s.drive.groups.all (fun g => g.slots.isEmpty) = true) :
    execBulkRechargeMeasured ticks rise s = .next (s.setLedger { s.ledger.data with
      caps := s.ledger.data.caps ++ [(Config.chargeCurrent : ℚ) * ((ticks : ℚ) / usTicks) / rise] }) := by
  have hclosed : s.drive.groups.any (fun g => !g.slots.isEmpty) = false := by
    rw [← Bool.not_eq_true', List.not_any_eq_all_not]
    simpa using hopen
  unfold execBulkRechargeMeasured
  rw [hup, hclosed, Bool.or_false, Bool.not_true, Bool.false_or, if_neg (by rw [decide_eq_true_eq]; exact not_lt.2 hrise)]

end

/-- Settles O21: each command of the ledger from the lemma on its `exec` function. -/
theorem ledgerResults : Obligations.LedgerResults := by
  unfold Obligations.LedgerResults
  refine ⟨fun _ hup => execOperatingHour_result hup, fun _ _ _ hdrive hw hv hentry havail => execValveReplaced_result hdrive hw hv hentry havail,
    fun ring s hup hhigh hwarn => ?_, fun ring s hup hlow hsteps => ?_, fun ring s hup hhigh hwarn hsteps => ?_, fun ring s hup hlow hsteps => ?_,
    fun _ _ _ hup hrise hopen => ⟨_, execBulkRechargeMeasured_result hup hrise hopen, rfl, rfl⟩⟩
  · exact ⟨_, execDieMarginSample_above hup hhigh hwarn, rfl, rfl⟩
  · refine ⟨_, execDieMarginSample_step hup hlow hsteps, ?_⟩
    rw [coreStep_data (s := s.withMargin ring) hsteps]
    exact ⟨rfl, rfl, rfl, rfl⟩
  · exact ⟨_, execDieMarginSample_pending hup hhigh hwarn hsteps, rfl, rfl, rfl, rfl⟩
  · exact execDieMarginSample_exhausted hup hlow hsteps

end Sys2Proof.Machine
end


section
/-!
What the operations of power and thermal management leave: the thermal state, the drive's release, the straps, the objects of the die.
-/
set_option Elab.async false
set_option linter.all false

namespace Sys2Proof.Machine

open Sys2Proof State

section
variable {ps : List Part} {s t : State}

theorem State.Does.thermal_eq (h : s.Does ps t) (k : Part.thermal ∉ ps := by decide) : t.thermal = s.thermal := h.only .thermal k

theorem State.Does.loops_eq (h : s.Does ps t) (k : Part.loops ∉ ps := by decide) : t.loops = s.loops := h.only .loops k

theorem State.Does.pins_eq (h : s.Does ps t) (k : Part.pins ∉ ps := by decide) : t.pins = s.pins := h.only .pins k

end

/-! ### Derated leaves the readings of the die (11 R329) -/

/-- Of the thermal state only that it is Derated, and since when, has changed. -/
def State.OnlyDerated (s t : State) : Prop := ∃ derated since, t.thermal = { s.thermal with derated := derated, deratedAt := since }

section
variable {s t u : State}

theorem State.OnlyDerated.refl (s : State) : s.OnlyDerated s := ⟨_, _, rfl⟩

theorem State.OnlyDerated.trans (h : s.OnlyDerated t) (k : t.OnlyDerated u) : s.OnlyDerated u := by
  obtain ⟨d, a, h⟩ := h
  obtain ⟨d', a', k⟩ := k
  exact ⟨d', a', by rw [k, h]⟩

theorem State.OnlyDerated.ite {c : Prop} [Decidable c] (h : s.OnlyDerated t) (k : s.OnlyDerated u) : s.OnlyDerated (if c then t else u) := by
  split
  · exact h
  · exact k

theorem State.Does.onlyDerated {ps : List Part} (h : s.Does ps t) (k : Part.thermal ∉ ps := by decide) : s.OnlyDerated t := ⟨_, _, h.thermal_eq k⟩

theorem State.beginDerated_onlyDerated (s : State) : s.OnlyDerated s.beginDerated := by
  unfold State.beginDerated
  extract_lets +onlyGivenNames s1 src s2
  have h2 : s1.OnlyDerated s2 := ⟨_, _, (bump_does ..).thermal_eq⟩
  refine (refill_does s).onlyDerated.trans (h2.trans (State.Does.onlyDerated (ps := [.od, .drive]) (Does.foldl (fun t v => ?_) .same)))
  dsimp only
  split
  · exact .ite .same (.via (bump_does ..) (.of (setValve_does ..)))
  · exact .same

theorem State.endDerated_onlyDerated (s : State) : s.OnlyDerated s.endDerated := by
  unfold State.endDerated
  extract_lets +onlyGivenNames s1 src s2
  have h2 : s.OnlyDerated s2 := (refill_does s).onlyDerated.trans ⟨_, _, rfl⟩
  exact .ite (h2.trans (raise_does ..).onlyDerated) h2

theorem State.deratedIn_onlyDerated (s : State) (st : ModState) : s.OnlyDerated (s.deratedIn st) := by
  have hbegin : s.OnlyDerated (if s.thermal.causes != 0 && !s.thermal.derated then s.beginDerated else s) :=
    .ite (beginDerated_onlyDerated s) (.refl s)
  have hend : s.OnlyDerated (if s.thermal.derated then s.endDerated else s) := .ite (endDerated_onlyDerated s) (.refl s)
  cases st with
  | idle | sorting => exact hbegin
  | calibrating => exact .refl s
  | moored | waking | recovery | fault => exact hend

theorem State.enterState_onlyDerated (s : State) (st : ModState) (trigger : Nat) : s.OnlyDerated (s.enterState st trigger) := by
  unfold State.enterState
  refine .ite (.refl s) ?_
  extract_lets +onlyGivenNames src s1 s2 s3
  have h2 : s.OnlyDerated s2 := ((Does.module _).onlyDerated.trans (raise_does s1 ..).onlyDerated).trans (deratedIn_onlyDerated ..)
  have h3 : s2.OnlyDerated s3 := .ite ((pendingCoreStep_does _).onlyDerated.trans (pendingIdTaken_does _).onlyDerated) (.refl s2)
  exact (h2.trans h3).trans ((loopsRecheck_does _).onlyDerated.trans (refreshTopo_does _).onlyDerated)

theorem State.enterFault_onlyDerated (s : State) (code : Nat) : s.OnlyDerated (s.enterFault code) := by
  unfold State.enterFault
  refine .ite (.refl s) ?_
  extract_lets +onlyGivenNames s1 src s2
  have h1 : s.Does [.freeCtr, .out, .od, .pipe, .tracker, .power, .backdrop, .module, .strand, .side, .recorder] s1 :=
    .via (closeTracker_does _) (.via (lapse_does _) (.of (failRun_does s)))
  clear_value s1
  have hdrive : s1.Does [.drive] { s1 with drive := { s1.drive with enabled := false } } := Does.drive _ id
  have h2 : s1.OnlyDerated s2 := hdrive.onlyDerated.trans
    ((dropQueues_does _).onlyDerated.trans ((closeValves_does _).onlyDerated.trans (vbstOff_does _).onlyDerated))
  have hcause : s2.Does [.module] { s2 with module := { s2.module with faultCause := code } } := Does.module _
  exact (h1.onlyDerated.trans h2).trans (hcause.onlyDerated.trans (enterState_onlyDerated ..))

theorem State.settleDerated_onlyDerated (s : State) : s.OnlyDerated s.settleDerated := by
  unfold State.settleDerated State.failToIdle
  refine .ite (.ite (endDerated_onlyDerated s) (.refl s)) (.ite (.refl s) (.ite ?_ (deratedIn_onlyDerated ..)))
  exact (failRun_does s).onlyDerated.trans (enterState_onlyDerated ..)

theorem State.countDerated_onlyDerated (s : State) : s.OnlyDerated s.countDerated := by
  unfold State.countDerated
  exact .ite ⟨_, _, rfl⟩ (.refl s)

end

/-! ### Objects outside a set of objects -/

/-- An object lies outside a set, as a test: `KeySet.misses`, and for the objects of groups, ports and slots too. -/
def KeySet.lacks (k : Nat) : KeySet → Bool
  | .groups i => k / 256 != i
  | .ports i j => !(List.range 4).any (fun p => k == camKey p i j)
  | .slots i j => !(List.range 8).any (fun n => k == slotKey n i j)
  | x => x.misses k

theorem KeySet.not_has_of_lacks {x : KeySet} {k : Nat} (h : x.lacks k = true) : ¬x.has k := by
  cases x with
  | groups i =>
    intro hk
    simp [KeySet.lacks, groups_has_div hk] at h
  | ports i j =>
    rintro ⟨p, hp, rfl⟩
    have hany : ((List.range 4).any fun q => camKey p i j == camKey q i j) = true :=
      List.any_eq_true.2 ⟨p, List.mem_range.2 hp, beq_self_eq_true _⟩
    simp [KeySet.lacks, hany] at h
  | slots i j =>
    rintro ⟨n, hn, rfl⟩
    have hany : ((List.range 8).any fun q => slotKey n i j == slotKey q i j) = true :=
      List.any_eq_true.2 ⟨n, List.mem_range.2 hn, beq_self_eq_true _⟩
    simp [KeySet.lacks, hany] at h
  | one | frames | events | valves | cleared | any => exact not_has_of_misses h

section
variable {js ks : List KeySet} {s t u : State} {k : Nat}

theorem State.Keeps.val_lacked (h : s.Keeps ks t) (hk : ks.all (·.lacks k) = true := by decide) : t.val k = s.val k :=
  h.val k fun x hx => KeySet.not_has_of_lacks (List.all_eq_true.1 hk x hx)

theorem State.Keeps.nat_lacked (h : s.Keeps ks t) (hk : ks.all (·.lacks k) = true := by decide) : t.nat k = s.nat k := nat_congr (h.val_lacked hk)

end

/-! ### Objects that the operations of the die write -/

section
variable (s : State)

abbrev deratedKeys : List KeySet :=
  [.frames, .events, .one (obj 0x2005 4), .one (obj 0x2C12 1), .one (obj 0x2700 27), .slots 0x2A17 5]

theorem State.settleDerated_keeps : s.Keeps deratedKeys s.settleDerated := by
  unfold State.settleDerated State.failToIdle
  refine .ite (.ite (.of (endDerated_keeps s)) .same) (.ite .same (.ite ?_ (.of (deratedIn_keeps ..))))
  exact .via (enterState_keeps ..) (.of (failRun_keeps s))

theorem State.countDerated_keeps : s.Keeps [.one (obj 0x2C12 2)] s.countDerated := by
  unfold State.countDerated
  exact .ite (.via (bump_keeps ..) (.past (Does.thermal _ id) .same)) .same

end

/-! ### Objects that the DMA engine writes (16 R448, R450, R451) -/

section
variable (s : State)

theorem State.sendBulk_keeps (n dest : Nat) (last : Bool) (d : List Byte) : s.Keeps [.frames, .events] (s.sendBulk n dest last d) := by
  unfold State.sendBulk
  exact .via (post_keeps ..) (.past (setStream_does ..) .same)

theorem State.flushBulk_keeps (last : Bool) : s.Keeps [.frames, .events] (s.flushBulk last) := by
  unfold State.flushBulk
  exact .ite .same (.via (sendBulk_keeps ..) (Keeps.parts _ rfl rfl rfl rfl .same))

theorem State.gatherBulk_keeps (stream to_ : Nat) (d : List Byte) : s.Keeps [.frames, .events] (s.gatherBulk stream to_ d) := by
  unfold State.gatherBulk
  extract_lets +onlyGivenNames fits s1 g
  refine .keep s1 (.ite .same (flushBulk_keeps ..)) fun h1 => ?_
  exact .ite (Keeps.parts _ rfl rfl rfl rfl h1) (.via (sendBulk_keeps ..) (Keeps.parts _ rfl rfl rfl rfl h1))

theorem State.writeAccess_keeps (a : Nat) (d : List Byte) : s.Keeps [.frames, .events] (s.writeAccess a d) := by
  unfold State.writeAccess
  split
  · exact .past (memWrite_does ..) .same
  · exact .past (emit_does ..) .same
  · exact gatherBulk_keeps ..
  · exact .same

theorem State.Keeps.iteFst {s : State} {α : Type} {ks : List KeySet} {c : Prop} [Decidable c] {a b : State × α} (h : s.Keeps ks a.1) (k : s.Keeps ks b.1) :
    s.Keeps ks (if c then a else b).1 := by
  split
  · exact h
  · exact k

theorem State.moveRuns_keeps (fuel : Nat) (s : State) (c n goal src dst : Nat) (data : List Byte) (bad : Option Nat) (m : Moved) :
    s.Keeps [.frames, .events] (State.moveRuns fuel s c n goal src dst data bad m).1 := by
  induction fuel generalizing s n src dst data bad m with
  | zero => exact .same
  | succ fuel ih =>
    unfold State.moveRuns
    extract_lets +onlyGivenNames x fixedSrc fixedDst single k
    refine .iteFst .same (.iteFst .same ?_)
    split
    · exact .same
    · exact .iteFst .same (.iteFst .same (.iteFst .same (.via (ih ..) (writeAccess_keeps ..))))

abbrev dmaFailKeys : List KeySet := [.frames, .events, .one (obj 0x2F00 3), .one (obj 0x2F04 2)]

/-- What the abort of a channel writes: the bytes its burst still moves are counted. -/
abbrev dmaAbortKeys : List KeySet := .one (obj 0x2F00 2) :: dmaFailKeys

/-- What the end of a descriptor of a channel writes. -/
abbrev descriptorKeys (c : Nat) : List KeySet := .one (obj 0x2F00 7) :: .one (obj 0x2F01 (c + 1)) :: dmaFailKeys

theorem State.raiseChan_keeps (c kind sev arg : Nat) : s.Keeps [.frames, .events] (s.raiseChan c kind sev arg) := by
  unfold State.raiseChan
  extract_lets +onlyGivenNames code s1 s2 s3 src s4
  refine .keep s1 (.of (logEvent_keeps ..)) fun h1 => ?_
  refine .keep s2 (.ite (.via (sendEvent_keeps ..) h1) h1) fun h2 => ?_
  exact .ite (.via (severeTrigger_keeps ..) (Keeps.parts _ rfl rfl rfl rfl (.via (queueEmcy_keeps ..) h2))) h2

theorem State.dmaFail_keeps (c cause : Nat) : s.Keeps dmaFailKeys (s.dmaFail c cause) := by
  unfold State.dmaFail State.dmaError
  dsimp only
  refine .past (leaveFifo_does ..) (.via (raiseChan_keeps ..) (.via (bump_keeps ..) (.past (setChan_does ..) ?_)))
  exact .ite (.of (bump_keeps ..)) .same

theorem State.moveBytes_keeps (c goal : Nat) (data : List Byte) (bad : Option Nat) :
    s.Keeps [.frames, .events, .one (obj 0x2F00 2)] (s.moveBytes c goal data bad).1 := by
  unfold State.moveBytes
  extract_lets +onlyGivenNames x n off src dst
  split
  · exact .same
  · split
    next t m h =>
      have ht : s.Keeps [.frames, .events] t := Keeps.pair h (moveRuns_keeps ..)
      extract_lets +onlyGivenNames s1 src2 s2
      have h1 : s.Keeps [.frames, .events] s1 := .ite (.via (flushBulk_keeps ..) ht) (.ite (.via (flushBulk_keeps ..) ht) ht)
      have h2 : s.Keeps [.frames, .events] s2 := .ite h1 (Keeps.parts _ rfl rfl rfl rfl h1)
      exact .via (bumpBy_keeps ..) (.past (setChan_does ..) (.of h2))

theorem State.dmaAbort_keeps (c : Nat) (b : Burst) (data : List Byte) : s.Keeps dmaAbortKeys (s.dmaAbort c b data) := by
  unfold State.dmaAbort
  extract_lets +onlyGivenNames x
  refine .ite .same ?_
  split
  next t m h =>
    have ht : s.Keeps dmaAbortKeys t := Keeps.pair h (by
      split
      · exact .of (moveBytes_keeps ..)
      · exact .same)
    refine .ite (.via (dmaFail_keeps ..) ht) ?_
    extract_lets +onlyGivenNames s1
    have h1 : s.Keeps dmaAbortKeys s1 := .ite (.via (flushBulk_keeps ..) ht) ht
    exact .past (leaveFifo_does ..) (.via (raiseChan_keeps ..) (.past (setChan_does ..) h1))

theorem State.dmaAbortFree_keeps (c : Nat) : s.Keeps dmaAbortKeys (s.dmaAbortFree c) := by
  unfold State.dmaAbortFree
  split
  · exact Keeps.trans (Does.keeps (freeBurst_does s) (by decide)) (dmaAbort_keeps ..)
  · exact dmaAbort_keeps ..

theorem State.takeDescriptor_keeps (c a : Nat) (bad : Bool) : s.Keeps dmaFailKeys (s.takeDescriptor c a bad) := by
  unfold State.takeDescriptor
  extract_lets +onlyGivenNames x d s1 r
  have h1 : s.Keeps dmaFailKeys s1 := .past (setChan_does ..) .same
  refine .ite (.via (dmaFail_keeps ..) (.past (setChan_does ..) .same)) (.ite (.via (dmaFail_keeps ..) (.past (setChan_does ..) .same)) ?_)
  exact .ite (.via (dmaFail_keeps ..) h1) (.ite (.via (dmaFail_keeps ..) h1) (.past (joinFifo_does ..) h1))

theorem State.followLink_keeps (c : Nat) (bad : Option MemError) : s.Keeps dmaFailKeys (s.followLink c bad) := by
  unfold State.followLink
  extract_lets +onlyGivenNames x link s1
  have h1 : s.Keeps dmaFailKeys s1 := .past (leaveFifo_does ..) .same
  refine .ite (dmaFail_keeps ..) (.ite ?_ (.ite (.via (dmaFail_keeps ..) h1) (.via (takeDescriptor_keeps ..) h1)))
  exact .past (leaveFifo_does ..) (.via (raiseChan_keeps ..) (.past (setChan_does ..) .same))

theorem State.completionInterrupt_keeps (c : Nat) : s.Keeps [.frames, .events, .one (obj 0x2F00 7)] (s.completionInterrupt c) := by
  unfold State.completionInterrupt
  extract_lets +onlyGivenNames x code s1 s2
  refine .ite ?_ .same
  refine .keep s1 (.ite (.of (bump_keeps ..)) .same) fun h1 => ?_
  refine .keep s2 (.via (logEvent_keeps ..) (.past (setChan_does ..) h1)) fun h2 => ?_
  exact .ite (.via (sendEvent_keeps ..) h2) h2

theorem State.finishDescriptor_keeps (c : Nat) (bad : Option MemError) : s.Keeps (descriptorKeys c) (s.finishDescriptor c bad) := by
  unfold State.finishDescriptor State.countDescriptor
  dsimp only
  refine .via (followLink_keeps ..) (.via (completionInterrupt_keeps ..) ?_ (by simp)) (by simp)
  exact .via (bump_keeps ..) (.past (setChan_does ..) .same) (by simp)

end

section
variable {s : State} {k : Nat}

theorem KeySet.one_above {n j : Nat} (hk : k < n) (hj : n ≤ j) : ¬(KeySet.one j).has k := fun h => absurd h (hk.trans_le hj).ne

/-- The FIFO settles without a word to the objects below the engine's own but the counters of frames and events. -/
theorem State.settleHead_val (n : Nat) (hk : k < obj 0x2F00 0) (hf : k ∉ frameKeys) (he : k ∉ eventKeys) :
    (State.settleHead n s).val k = s.val k := by
  induction n generalizing s with
  | zero => rfl
  | succ n ih =>
    unfold State.settleHead
    split
    · rfl
    next c _ _ =>
      dsimp only
      split
      · refine ih.trans ((finishDescriptor_keeps s c none).val k ?_)
        simp only [List.mem_cons, List.not_mem_nil, or_false, forall_eq_or_imp, forall_eq]
        have hchan : obj 0x2F00 0 ≤ obj 0x2F01 (c + 1) := by
          unfold obj
          omega
        exact ⟨KeySet.one_above hk (by decide), KeySet.one_above hk hchan, hf, he, KeySet.one_above hk (by decide), KeySet.one_above hk (by decide)⟩
      · rfl

theorem State.dmaPowerFail_val (hk : k < obj 0x2F00 0) (hf : k ∉ frameKeys) (he : k ∉ eventKeys) : s.dmaPowerFail.val k = s.val k := by
  unfold State.dmaPowerFail
  refine (settleHead_val _ hk hf he).trans ((Keeps.foldl (ks := dmaAbortKeys) dmaAbortFree_keeps .same).val k ?_)
  simp only [List.mem_cons, List.not_mem_nil, or_false, forall_eq_or_imp, forall_eq]
  exact ⟨KeySet.one_above hk (by decide), hf, he, KeySet.one_above hk (by decide), KeySet.one_above hk (by decide)⟩

end

/-! ### Objects that the power-fail sequence writes (11 R317) -/

section
variable (s : State)

theorem State.portPowerLost_keeps {p : Nat} (hp : p < 4) : s.Keeps missAllKeys (s.portPowerLost p) := by
  unfold State.portPowerLost
  dsimp only
  refine .past (setCam_does ..) ?_
  split
  · exact Keeps.mono (losePort_keeps ..) (missKeys_cov hp)
  · exact .past (backOut_does ..) .same
  · exact .same

theorem State.drivePowerFail_keeps : s.Keeps abortAllKeys s.drivePowerFail := by
  unfold State.drivePowerFail
  exact Keeps.parts _ rfl rfl rfl rfl (.via (abortAll_keeps ..) (.past (dropQueues_does ..) (Keeps.parts _ rfl rfl rfl rfl .same)))

theorem State.abortTransfer_keeps : s.Keeps [.frames, .events, .one (obj 0x2E06 6)] s.abortTransfer := by
  unfold State.abortTransfer
  exact .ite (.via (raise_keeps ..) (.via (bump_keeps ..) (Keeps.parts _ rfl rfl rfl rfl .same))) .same

theorem State.powerDownTrigger_keeps (trigger : Nat) : s.Keeps [.frames, .events] (s.powerDownTrigger trigger) := by
  unfold State.powerDownTrigger
  extract_lets +onlyGivenNames s1 src s2
  refine .ite .same ?_
  have h2 : s.Keeps [.frames, .events] s2 := Keeps.parts _ rfl rfl rfl rfl (.past (dropClear_does ..) .same)
  exact .ite (.via (closeRecord_keeps ..) h2) (Keeps.parts _ rfl rfl rfl rfl h2)

/-- What the steps before the DMA engine's abort write. -/
abbrev powerLostKeys : List KeySet := .one (obj 0x2005 4) :: (abortAllKeys ++ missAllKeys)

/-- The power-fail sequence leaves the count of die shutdowns. -/
theorem State.powerFailSteps_shutdowns : s.powerFailSteps.nat (obj 0x2C12 3) = s.nat (obj 0x2C12 3) := by
  unfold State.powerFailSteps
  extract_lets s1 s2 src s3
  have h1 : s.Keeps powerLostKeys s1 := by
    refine .past (ps := [.out, .drive, .power, .dict, .loops, .backdrop]) (.via (abandonStore_does _) (.via (vbstOff_does _)
      (.via (panelPowerFail_does _) (.of (stopLoops_does _))))) ?_
    refine .via (drivePowerFail_keeps _) (.past (closeTracker_does _) (.past (lapse_does _) ?_))
    exact .via (dropCapture_keeps _) (.of (failRun_keeps s))
  have h2 : s.Keeps powerLostKeys s2 := Keeps.trans h1 <| Keeps.foldlMem (fun t p hp => .of (portPowerLost_keeps t (ports_lt hp)) (by simp)) .same
  have h3 : s.Keeps powerLostKeys s3 := .past (Does.power _) h2
  have h4 : s3.dmaPowerFail.Keeps [.frames, .events, .one (obj 0x2E06 6)] (s3.dmaPowerFail.abortTransfer.powerDownTrigger 5).storeLedger.settleOuts :=
    .past (settleOuts_does _) (.past (storeLedger_does _) (.via (powerDownTrigger_keeps ..) (abortTransfer_keeps _)))
  exact h4.nat_lacked.trans ((nat_congr (dmaPowerFail_val (by decide) (by decide) (by decide))).trans h3.nat_lacked)

theorem State.powerFailSteps_seqAt : s.powerFailSteps.power.seqAt = some s.clk := by
  unfold State.powerFailSteps
  extract_lets s1 s2 src s3
  have h1 : s.Does [.freeCtr, .out, .od, .pipe, .tracker, .drive, .seqs, .loops, .power, .module, .backdrop, .strand, .side, .dict, .recorder] s1 :=
    .via (abandonStore_does _) <| .via (vbstOff_does _) <| .via (panelPowerFail_does _) <| .via (stopLoops_does _) <|
      .via (drivePowerFail_does _) <| .via (closeTracker_does _) <| .via (lapse_does _) <| .via (dropCapture_does _) <| .of (failRun_does s)
  have h2 : s1.Does [.out, .od, .mem, .cams, .pipe, .tracker, .ledger, .loops, .backdrop, .strand, .side, .recorder] s2 :=
    Does.foldl (fun t p => portPowerLost_does t p) .same
  have h4 : s3.Does [.freeCtr, .out, .od, .mem, .ledger, .loops, .backdrop, .strand, .side, .dma, .recorder, .update]
      (s3.dmaPowerFail.abortTransfer.powerDownTrigger 5).storeLedger.settleOuts :=
    .via (settleOuts_does _) <| .via (storeLedger_does _) <| .via (powerDownTrigger_does ..) <| .via (abortTransfer_does _) <|
      .of (dmaPowerFail_does _)
  rw [h4.power_eq]
  exact congrArg some (h2.clk_eq.trans h1.clk_eq)

end

/-! ### The release of the drive (06 R204, 12 R340) -/

section
variable (s : State)

/-- What none of several steps changes stands after them. -/
theorem foldl_same {α β : Type} {f : State → α → State} (p : State → β) (h : ∀ t x, p (f t x) = p t) (l : List α) (s : State) :
    p (l.foldl f s) = p s := by
  induction l generalizing s with
  | nil => rfl
  | cons x l ih => exact (ih _).trans (h s x)

theorem State.grant_enabled (n g : Nat) : (State.grant n s g).drive.enabled = s.drive.enabled := by
  induction n generalizing s with
  | zero => rfl
  | succ n ih =>
    unfold State.grant
    split
    · rfl
    next w target _ _ =>
      split
      · obtain ⟨gs, q, -, h⟩ := grantOne_seqs s g w target
        rw [ih, h.drive_eq]
        rfl
      · rfl

theorem State.chargeBoost_enabled (v : Nat) : (s.chargeBoost v).drive.enabled = s.drive.enabled := by
  unfold State.chargeBoost
  split <;> rfl

theorem State.stopDrive_enabled (v : Nat) : (s.stopDrive v).drive.enabled = s.drive.enabled := by
  unfold State.stopDrive State.releaseSlot
  rw [grant_enabled]
  exact chargeBoost_enabled s v

theorem State.withdraw_enabled (vs : List Nat) : (s.withdraw vs).drive.enabled = s.drive.enabled := by
  unfold State.withdraw
  refine foldl_same (·.drive.enabled) (fun t v => ?_) vs s
  rfl

theorem State.closeValves_enabled : s.closeValves.drive.enabled = s.drive.enabled := by
  unfold State.closeValves
  exact (foldl_same (·.drive.enabled) stopDrive_enabled _ _).trans (withdraw_enabled ..)

theorem State.beginDerated_enabled : s.beginDerated.drive.enabled = s.drive.enabled := by
  unfold State.beginDerated
  refine (foldl_same (·.drive.enabled) (fun t v => ?_) _ _).trans rfl
  dsimp only
  split
  · split <;> rfl
  · rfl

theorem State.endDerated_enabled : s.endDerated.drive.enabled = s.drive.enabled := by
  unfold State.endDerated
  dsimp only
  split
  · rw [(raise_does ..).drive_eq]
    rfl
  · rfl

theorem State.deratedIn_enabled (st : ModState) : (s.deratedIn st).drive.enabled = s.drive.enabled := by
  unfold State.deratedIn
  split
  · split
    · exact beginDerated_enabled s
    · rfl
  · split
    · exact beginDerated_enabled s
    · rfl
  · rfl
  · split
    · exact endDerated_enabled s
    · rfl

theorem State.enterState_enabled (st : ModState) (trigger : Nat) : (s.enterState st trigger).drive.enabled = s.drive.enabled := by
  unfold State.enterState
  split
  · rfl
  · extract_lets src s1 s2 s3
    have h2 : s2.drive.enabled = s.drive.enabled := (deratedIn_enabled ..).trans (congrArg Drive.enabled (raise_does s1 ..).drive_eq)
    have h3 : s3.drive = s2.drive := by
      unfold s3
      split
      · rw [(pendingIdTaken_does _).drive_eq, (pendingCoreStep_does _).drive_eq]
      · rfl
    rw [(refreshTopo_does _).drive_eq, (loopsRecheck_does _).drive_eq, h3, h2]

theorem State.enterFault_disabled (code : Nat) (h : s.module.state ≠ .fault) : (s.enterFault code).drive.enabled = false := by
  unfold State.enterFault
  rw [if_neg h]
  extract_lets s1 src s2
  refine (enterState_enabled ..).trans (?_ : s2.drive.enabled = false)
  exact closeValves_enabled (State.dropQueues { s1 with drive := { s1.drive with enabled := false } })

end

/-! ### The straps (13 R361, 19 R508) -/

/-- The straps stand as they were read. -/
def State.StrapsKept (s t : State) : Prop := t.strand.rowId = s.strand.rowId ∧ t.strand.westEnd = s.strand.westEnd

section
variable {s t u : State}

theorem State.StrapsKept.refl (s : State) : s.StrapsKept s := ⟨rfl, rfl⟩

theorem State.StrapsKept.trans (h : s.StrapsKept t) (k : t.StrapsKept u) : s.StrapsKept u := ⟨k.1.trans h.1, k.2.trans h.2⟩

theorem State.StrapsKept.ite {c : Prop} [Decidable c] (h : s.StrapsKept t) (k : s.StrapsKept u) : s.StrapsKept (if c then t else u) := by
  split
  · exact h
  · exact k

theorem State.StrapsKept.foldl {α : Type} {f : State → α → State} (h : ∀ (t : State) x, t.StrapsKept (f t x)) (l : List α) (s : State) :
    s.StrapsKept (l.foldl f s) :=
  ⟨foldl_same (·.strand.rowId) (fun t x => (h t x).1) l s, foldl_same (·.strand.westEnd) (fun t x => (h t x).2) l s⟩

theorem State.OnlyTraffic.strapsKept (h : s.OnlyTraffic t) : s.StrapsKept t := by
  obtain ⟨l, n, h⟩ := h
  unfold State.StrapsKept
  rw [h]
  exact ⟨rfl, rfl⟩

theorem State.sendLocal_strapsKept (s : State) (l vc type : Nat) (words : List Nat) : s.StrapsKept (s.sendLocal l vc type words) := by
  unfold State.sendLocal
  exact .ite (egress_onlyTraffic ..).strapsKept (.refl s)

theorem State.sendHello_strapsKept (s : State) (l : Nat) : s.StrapsKept (s.sendHello l) := by
  unfold State.sendHello
  exact .ite (.refl s) (.ite (sendLocal_strapsKept ..) ⟨rfl, rfl⟩)

theorem State.sendTopo_strapsKept (s : State) (r : Topo) (except : Option Nat) : s.StrapsKept (s.sendTopo r except) := by
  unfold State.sendTopo
  refine .foldl (fun t l => ?_) _ s
  exact .ite (sendLocal_strapsKept ..) (.refl t)

theorem State.refreshTopo_strapsKept (s : State) : s.StrapsKept s.refreshTopo := by
  unfold State.refreshTopo State.flood
  refine .ite (.refl s) ?_
  extract_lets +onlyGivenNames now r
  have h1 : s.StrapsKept { s with strand := { s.strand with own := r, floodAt := s.clk } } := ⟨rfl, rfl⟩
  exact h1.trans (sendTopo_strapsKept ..)

theorem State.takeId_strapsKept (s : State) (id : Nat) : s.StrapsKept (s.takeId id) := by
  unfold State.takeId
  extract_lets src s1
  have h1 : s.StrapsKept s1 := ⟨rfl, rfl⟩
  exact h1.trans ((raise_onlyTraffic s1 id (by decide)).strapsKept.trans (refreshTopo_strapsKept _))

theorem State.confirmId_strapsKept (s : State) (id : Nat) : s.StrapsKept (s.confirmId id) := by
  unfold State.confirmId
  refine .ite ?_ (.ite ⟨rfl, rfl⟩ (takeId_strapsKept ..))
  have h1 : s.StrapsKept { s with strand := { s.strand with idStored := true, provisional := false, pendingId := none } } := ⟨rfl, rfl⟩
  exact h1.trans (refreshTopo_strapsKept _)

theorem State.learnId_strapsKept (s : State) : s.StrapsKept s.learnId := by
  unfold State.learnId
  extract_lets +onlyGivenNames w col limit changed src s1 s2 src2 s3
  have h1 : s.StrapsKept s1 := ⟨rfl, rfl⟩
  have h2 : s1.StrapsKept s2 := .ite (.foldl sendHello_strapsKept _ _) (.refl s1)
  have hraised : s2.StrapsKept { s2 with strand := { s2.strand with limitRaised := true } } := ⟨rfl, rfl⟩
  have h3 : s2.StrapsKept s3 := .ite (hraised.trans (raise_onlyTraffic _ 0 (by decide)).strapsKept) (.refl s2)
  refine (h1.trans h2).trans (h3.trans (.ite (confirmId_strapsKept ..) ?_))
  split
  · exact confirmId_strapsKept ..
  · exact .refl s3

end

/-! ### The outputs of the loops leave the inputs (09 R263) -/

theorem State.settleOuts_inputs (s : State) : s.settleOuts.loops.inputs = s.loops.inputs := by
  unfold State.settleOuts
  refine foldl_same (·.loops.inputs) (fun t i => ?_) _ s
  unfold State.settleOut
  dsimp only
  split <;> rfl

end Sys2Proof.Machine
end


section
/-!
The die diode, the fans, the pins and the island's own starts.
-/
set_option Elab.async false
set_option linter.all false

namespace Sys2Proof.Machine

open Sys2Proof State

/-! ### The die diode (11 R324 to R328) -/

section
variable {s : State}

/-- A count of an object that stood till then, before operations that leave it. -/
theorem State.Keeps.nat_countedThen {ks : List KeySet} {t u : State} {k : Nat} (h : (t.bump k).Keeps ks u) (g : t.nat k = s.nat k)
    (hk : ks.all (·.lacks k) = true := by decide) : u.nat k = s.counted k := by
  rw [h.nat_lacked hk, nat_bump_self, State.counted, g]

/-- The objects stand when the dictionary, the variant and the node's identity do. -/
theorem State.nat_same (s t : State) (h : t.od = s.od) (hv : t.variant = s.variant) (hn : t.side.nodeId = s.side.nodeId) (k : Nat) : t.nat k = s.nat k :=
  nat_congr (val_congr h hv hn k)

theorem State.nat_withThermal (s : State) (x : Thermal) (k : Nat) : ({ s with thermal := x } : State).nat k = s.nat k :=
  nat_same s _ rfl rfl rfl k

theorem State.module_withThermal (s : State) (x : Thermal) : ({ s with thermal := x } : State).module = s.module := rfl

/-- What follows a reading: Derated with its causes, the outputs, and the seconds Derated. -/
def State.afterReading (s : State) : State := s.settleDerated.settleOuts.countDerated

theorem State.afterReading_does (s : State) : s.Does [.freeCtr, .out, .od, .pipe, .drive, .ledger, .loops, .thermal, .backdrop, .module, .strand,
    .side, .recorder] s.afterReading :=
  .via (countDerated_does _) (.via (settleOuts_does _) (.of (settleDerated_does s)))

theorem State.afterReading_onlyDerated (s : State) : s.OnlyDerated s.afterReading :=
  (settleDerated_onlyDerated s).trans ((settleOuts_does _).onlyDerated.trans (countDerated_onlyDerated _))

theorem State.afterReading_keeps (s : State) : s.Keeps (.one (obj 0x2C12 2) :: deratedKeys) s.afterReading :=
  .via (countDerated_keeps _) (.past (settleOuts_does _) (.of (settleDerated_keeps s)))

theorem State.dieBroken_first (h : s.thermal.broken = false) : s.dieBroken =
    (State.bump { s with thermal := { s.thermal with
      broken := true, die := 110, hist := [], soundMs := 0, brokenMs := min 60000 (s.thermal.brokenMs + 1) } } (obj 0x2C12 4)).raise 0x2006 0 := by
  unfold State.dieBroken
  dsimp only
  rw [if_neg (by rw [h]; exact nofun)]

theorem State.dieBroken_thermal (h : s.thermal.broken = false) : s.dieBroken.thermal = { s.thermal with
    broken := true, die := 110, hist := [], soundMs := 0, brokenMs := min 60000 (s.thermal.brokenMs + 1) } := by
  rw [dieBroken_first h, (raise_does ..).thermal_eq, (bump_does ..).thermal_eq]

theorem State.dieBroken_counts (h : s.thermal.broken = false) : s.dieBroken.nat (obj 0x2C12 4) = s.counted (obj 0x2C12 4) := by
  rw [dieBroken_first h]
  exact Keeps.nat_countedThen (ks := [.frames, .events]) (.of (raise_keeps ..)) (nat_withThermal s _ _)

theorem State.sampled_thermal (s : State) (at_ : Nat) (x : Option Int) :
    ({ s with thermal := { s.thermal with sampledAt := at_, prev := x } } : State).thermal.broken = s.thermal.broken
    ∧ ({ s with thermal := { s.thermal with sampledAt := at_, prev := x } } : State).thermal.readings = s.thermal.readings := ⟨rfl, rfl⟩

theorem execDieSample_broken (hup : s.module.mainUp = true) (hseq : s.power.seqAt = none) (hsound : s.thermal.broken = false)
    (hclk : s.clk ≤ s.thermal.sampledAt + msTicks) :
    ∃ t, execDieSample none s = .next t ∧ t.clk = s.thermal.sampledAt + msTicks ∧ t.thermal.sampledAt = t.clk ∧ t.thermal.broken = true
      ∧ t.thermal.die = 110 ∧ t.thermal.readings = s.thermal.readings ∧ t.nat (obj 0x2C12 4) = s.counted (obj 0x2C12 4) := by
  rw [execDieSample_eq, if_neg (by rw [hup, hseq]; exact nofun)]
  have hdue := atClk_clk hclk
  have hnat := (atClk_does s (s.thermal.sampledAt + msTicks)).nat_eq (obj 0x2C12 4)
  have hthermal := (atClk_does s (s.thermal.sampledAt + msTicks)).thermal_eq
  generalize s.atClk (s.thermal.sampledAt + msTicks) = s1 at hdue hnat hthermal ⊢
  unfold takeDieSample
  extract_lets bad src s2
  rw [if_pos (show bad = true from rfl), ← State.afterReading]
  obtain ⟨hbroken2, hreadings2⟩ : s2.thermal.broken = s1.thermal.broken ∧ s2.thermal.readings = s1.thermal.readings := sampled_thermal s1 _ _
  have hsound2 : s2.thermal.broken = false := by rw [hbroken2, hthermal, hsound]
  have hat : s2.thermal.sampledAt = s1.clk := rfl
  have hreadings : s2.thermal.readings = s.thermal.readings := by rw [hreadings2, hthermal]
  have hclk2 : s2.clk = s1.clk := rfl
  have hnat2 : s2.nat (obj 0x2C12 4) = s1.nat (obj 0x2C12 4) := nat_same s1 s2 rfl rfl rfl _
  clear_value s2
  obtain ⟨d, a, hd⟩ := (presentDie_does s2.dieBroken).onlyDerated.trans (afterReading_onlyDerated _)
  have hend : s2.dieBroken.presentDie.afterReading.clk = s1.clk :=
    (afterReading_does _).clk_eq.trans ((presentDie_does _).clk_eq.trans ((dieBroken_does s2).clk_eq.trans hclk2))
  have hcount : s2.dieBroken.Keeps (.one (obj 0x2C12 2) :: deratedKeys) s2.dieBroken.presentDie.afterReading :=
    .via (afterReading_keeps _) (.past (presentDie_does _) .same)
  rw [dieBroken_thermal hsound2] at hd
  refine ⟨_, rfl, hend.trans hdue, ?_, ?_, ?_, ?_, ?_⟩
  · rw [hd, hend, hat]
  · rw [hd]
  · rw [hd]
  · rw [hd, hreadings]
  · rw [hcount.nat_lacked, dieBroken_counts hsound2, State.counted, hnat2, hnat]

theorem State.dieLimits_readings (s : State) : s.dieLimits.thermal.prev = s.thermal.prev ∧ s.dieLimits.thermal.readings = s.thermal.readings
    ∧ s.dieLimits.thermal.mean = s.thermal.mean := by
  unfold State.dieLimits
  extract_lets +onlyGivenNames t warn low derate r8 r2 rwarn rlow rderate s1 s2 s3 s4
  have h : s1.Does [.out, .od, .backdrop, .strand, .side, .recorder] (if rderate && !t.derateRate then s4.raise 0x2005 0 else s4) := by
    refine Does.keep s2 (.ite (raise_does ..) .same) fun h2 => ?_
    refine Does.keep s3 (.ite (.via (raise_does ..) h2) h2) fun h3 => ?_
    refine Does.keep s4 (.ite (.via (raise_does ..) h3) h3) fun h4 => ?_
    exact .ite (.via (raise_does ..) h4) h4
  rw [h.thermal_eq]
  exact ⟨rfl, rfl, rfl⟩

/-- The mean that a valid reading gives (11 R324). -/
abbrev dieMean (r : Int) (readings : List Int) : ℚ := (sumI ((r :: readings).take 64) : ℚ) / (16 * ((r :: readings).take 64).length)

theorem dieMean_pos (r : Int) (readings : List Int) : (0 : ℚ) < 16 * ((r :: readings).take 64).length := by
  rw [List.take_succ_cons, List.length_cons]
  positivity

/-- The state in which a valid reading of the die has come at its millisecond. -/
def State.dieTaken (s : State) (r : Int) : State :=
  let s := s.atClk (s.thermal.sampledAt + msTicks)
  { s with thermal := { s.thermal with sampledAt := s.clk, prev := some r } }

theorem execDieSample_valid {r : Int} (hup : s.module.mainUp = true) (hseq : s.power.seqAt = none) (hgood : s.thermal.bad (some r) = false) :
    execDieSample (some r) s = .next (if 125 ≤ dieMean r s.thermal.readings then ((s.dieTaken r).dieValid r).presentDie.dieShutdown
      else ((s.dieTaken r).dieValid r).presentDie.dieLimits.afterReading.noteReset (s.dieTaken r)) := by
  rw [execDieSample_eq, if_neg (by rw [hup, hseq]; exact nofun)]
  unfold takeDieSample
  extract_lets bad src s2 s0 s3
  rw [if_neg (by rw [show bad = false from hgood]; exact nofun), apply_ite Host.Outcome.next]
  rfl

theorem State.dieTaken_does (s : State) (r : Int) : s.Does [.clk, .time, .thermal] (s.dieTaken r) :=
  .via (Does.thermal _ id) (.of (atClk_does s _))

theorem State.dieTaken_clk (r : Int) (h : s.clk ≤ s.thermal.sampledAt + msTicks) : (s.dieTaken r).clk = s.thermal.sampledAt + msTicks :=
  atClk_clk (s := s) h

theorem State.dieTaken_prev (s : State) (r : Int) : (s.dieTaken r).thermal.prev = some r := rfl

theorem State.dieTaken_readings (s : State) (r : Int) : (s.dieTaken r).thermal.readings = s.thermal.readings :=
  (sampled_thermal (s.atClk (s.thermal.sampledAt + msTicks)) _ _).2.trans (congrArg Thermal.readings (atClk_does ..).thermal_eq)

theorem State.dieValid_thermal (s : State) (r : Int) : (s.dieValid r).presentDie.thermal.prev = s.thermal.prev
    ∧ (s.dieValid r).presentDie.thermal.readings = (r :: s.thermal.readings).take 64
    ∧ (s.dieValid r).presentDie.thermal.mean = dieMean r s.thermal.readings := ⟨rfl, rfl, rfl⟩

theorem execDieSample_mean {r : Int} (hup : s.module.mainUp = true) (hseq : s.power.seqAt = none) (hgood : s.thermal.bad (some r) = false)
    (hclk : s.clk ≤ s.thermal.sampledAt + msTicks)
    (hcool : (sumI ((r :: s.thermal.readings).take 64) : ℚ) < 125 * (16 * ((r :: s.thermal.readings).take 64).length)) :
    ∃ t, execDieSample (some r) s = .next t ∧ t.clk = s.thermal.sampledAt + msTicks ∧ t.thermal.prev = some r
      ∧ t.thermal.readings = (r :: s.thermal.readings).take 64 ∧ t.thermal.mean = dieMean r s.thermal.readings := by
  have hmean : ¬125 ≤ dieMean r s.thermal.readings := not_le.2 ((div_lt_iff₀ (dieMean_pos ..)).2 hcool)
  rw [execDieSample_valid hup hseq hgood, if_neg hmean]
  have hdue := dieTaken_clk r hclk
  have hread := dieValid_thermal (s.dieTaken r) r
  rw [dieTaken_prev, dieTaken_readings] at hread
  have hclk2 : ((s.dieTaken r).dieValid r).presentDie.clk = (s.dieTaken r).clk := (presentDie_does _).clk_eq.trans (dieValid_does ..).clk_eq
  generalize ((s.dieTaken r).dieValid r).presentDie = s3 at hread hclk2 ⊢
  obtain ⟨hprev, hreadings, hmean3⟩ := hread
  obtain ⟨lprev, lreadings, lmean⟩ := dieLimits_readings s3
  obtain ⟨d, a, hd⟩ := (afterReading_onlyDerated s3.dieLimits).trans (noteReset_does _ (s.dieTaken r)).onlyDerated
  refine ⟨_, rfl, ?_, ?_, ?_, ?_⟩
  · rw [(noteReset_does ..).clk_eq, (afterReading_does _).clk_eq, (dieLimits_does _).clk_eq, hclk2, hdue]
  · rw [hd]
    exact lprev.trans hprev
  · rw [hd]
    exact lreadings.trans hreadings
  · rw [hd]
    exact lmean.trans hmean3

/-- The EVENT of the shutdown and the power-fail sequence leave the count of shutdowns. -/
theorem State.dieSteps_result (s : State) : (s.sendEvent 0x1001 (severityOf 0x1001) 0).powerFailSteps.clk = s.clk
    ∧ (s.sendEvent 0x1001 (severityOf 0x1001) 0).powerFailSteps.power.seqAt = some s.clk
    ∧ (s.sendEvent 0x1001 (severityOf 0x1001) 0).powerFailSteps.nat (obj 0x2C12 3) = s.nat (obj 0x2C12 3) := by
  have hkeeps := sendEvent_keeps s 0x1001 (severityOf 0x1001) 0
  have hclk := (sendEvent_does s 0x1001 (severityOf 0x1001) 0).clk_eq
  generalize s.sendEvent 0x1001 (severityOf 0x1001) 0 = s1 at hkeeps hclk ⊢
  exact ⟨(powerFailSteps_does s1).clk_eq.trans hclk, (powerFailSteps_seqAt s1).trans (congrArg some hclk),
    (powerFailSteps_shutdowns s1).trans hkeeps.nat_lacked⟩

/-- The end of the shutdown: its instant, and Fault with its cause. -/
def State.dieFault (s : State) : State :=
  ({ s with power := { s.power with shutAt := some s.clk }, module := { s.module with faultCause := 0x2003 } }).enterState .fault trigFault

theorem State.dieFault_result (s : State) : s.dieFault.module.state = .fault ∧ s.dieFault.module.faultCause = 0x2003
    ∧ s.dieFault.power.seqAt = s.power.seqAt ∧ s.dieFault.power.shutAt = some s.clk ∧ s.dieFault.clk = s.clk
    ∧ s.dieFault.nat (obj 0x2C12 3) = s.nat (obj 0x2C12 3) := by
  unfold State.dieFault
  obtain ⟨hstate, hcause⟩ := enterState_module { s with
    power := { s.power with shutAt := some s.clk }, module := { s.module with faultCause := 0x2003 } } trigFault (st := .fault) (by decide)
  refine ⟨hstate, hcause, ?_, ?_, ?_, ?_⟩
  · rw [(enterState_does ..).power_eq]
  · rw [(enterState_does ..).power_eq]
  · rw [(enterState_does ..).clk_eq]
  · rw [(enterState_keeps ..).nat_lacked]
    exact nat_same s { s with power := { s.power with shutAt := some s.clk }, module := { s.module with faultCause := 0x2003 } } rfl rfl rfl _

/-- The shutdown up to its power-fail sequence: it is counted, and its event raised. -/
def State.dieRaised (s : State) : State := (State.bump { s with thermal := { s.thermal with shutdown := true } } (obj 0x2C12 3)).raise 0x2003 0

theorem State.dieRaised_clk (s : State) : s.dieRaised.clk = s.clk :=
  (raise_does (State.bump { s with thermal := { s.thermal with shutdown := true } } (obj 0x2C12 3)) 0x2003 0).clk_eq.trans (bump_does ..).clk_eq

theorem State.dieRaised_counts (s : State) : s.dieRaised.nat (obj 0x2C12 3) = s.counted (obj 0x2C12 3) :=
  Keeps.nat_countedThen (ks := [.frames, .events]) (.of (raise_keeps ..)) (nat_withThermal s _ _)

theorem State.dieShutdown_eq (s : State) : s.dieShutdown = (s.dieRaised.sendEvent 0x1001 (severityOf 0x1001) 0).powerFailSteps.dieFault := by
  unfold State.dieShutdown State.dieFault State.dieRaised
  with_reducible rfl

theorem State.dieShutdown_result (s : State) : s.dieShutdown.module.state = .fault ∧ s.dieShutdown.module.faultCause = 0x2003
    ∧ s.dieShutdown.power.seqAt = some s.clk ∧ s.dieShutdown.power.shutAt = some s.clk ∧ s.dieShutdown.clk = s.clk
    ∧ s.dieShutdown.nat (obj 0x2C12 3) = s.counted (obj 0x2C12 3) := by
  obtain ⟨hclk, hseq, hcount⟩ := dieSteps_result s.dieRaised
  obtain ⟨hstate, hcause, hseqEnd, hshut, hclkEnd, hcountEnd⟩ := dieFault_result (s.dieRaised.sendEvent 0x1001 (severityOf 0x1001) 0).powerFailSteps
  rw [hclk, dieRaised_clk] at hshut hclkEnd
  rw [hseq, dieRaised_clk] at hseqEnd
  rw [hcount, dieRaised_counts] at hcountEnd
  rw [dieShutdown_eq]
  exact ⟨hstate, hcause, hseqEnd, hshut, hclkEnd, hcountEnd⟩

theorem execDieSample_shutdown {r : Int} (hup : s.module.mainUp = true) (hseq : s.power.seqAt = none) (hgood : s.thermal.bad (some r) = false)
    (hclk : s.clk ≤ s.thermal.sampledAt + msTicks)
    (hhot : 125 * (16 * ((r :: s.thermal.readings).take 64).length) ≤ (sumI ((r :: s.thermal.readings).take 64) : ℚ)) :
    ∃ t, execDieSample (some r) s = .next t ∧ t.module.state = .fault ∧ t.module.faultCause = 0x2003 ∧ t.power.seqAt = some t.clk
      ∧ t.power.shutAt = some t.clk ∧ t.clk = s.thermal.sampledAt + msTicks ∧ t.nat (obj 0x2C12 3) = s.counted (obj 0x2C12 3) := by
  have hmean : 125 ≤ dieMean r s.thermal.readings := (le_div_iff₀ (dieMean_pos ..)).2 hhot
  rw [execDieSample_valid hup hseq hgood, if_pos hmean]
  have hdoes : s.Does [.clk, .time, .thermal, .loops] ((s.dieTaken r).dieValid r).presentDie :=
    .via (presentDie_does _) (.via (dieValid_does ..) (.of (dieTaken_does s r)))
  have hdue := (presentDie_does ((s.dieTaken r).dieValid r)).clk_eq.trans ((dieValid_does ..).clk_eq.trans (dieTaken_clk r hclk))
  generalize ((s.dieTaken r).dieValid r).presentDie = s3 at hdoes hdue ⊢
  obtain ⟨hstate, hcause, hseqAt, hshut, hsame, hcount⟩ := dieShutdown_result s3
  refine ⟨_, rfl, hstate, hcause, hseqAt.trans (congrArg some hsame.symm), hshut.trans (congrArg some hsame.symm), hsame.trans hdue, ?_⟩
  rw [hcount, State.counted, State.counted, hdoes.nat_eq]

/-- A diode broken for too long: Fault with its cause, and the release of the drive ends. -/
theorem State.diodeLimit_result (s : State) (h : s.module.state ≠ .fault) : ((s.raise 0x2007 0).enterFault 0x2007).settleOuts.module.state = .fault
    ∧ ((s.raise 0x2007 0).enterFault 0x2007).settleOuts.module.faultCause = 0x2007
    ∧ ((s.raise 0x2007 0).enterFault 0x2007).settleOuts.drive.enabled = false
    ∧ ((s.raise 0x2007 0).enterFault 0x2007).settleOuts.thermal.brokenMs = s.thermal.brokenMs := by
  have hraise := raise_does s 0x2007 0
  have hst : (s.raise 0x2007 0).module.state ≠ .fault := by
    rw [hraise.module_eq]
    exact h
  have hthermal := hraise.onlyDerated
  generalize s.raise 0x2007 0 = s1 at hst hthermal ⊢
  obtain ⟨hstate, hcause⟩ := enterFault_module 0x2007 hst
  have hend := settleOuts_does (s1.enterFault 0x2007)
  obtain ⟨d, a, hd⟩ := hthermal.trans ((enterFault_onlyDerated s1 0x2007).trans hend.onlyDerated)
  rw [hend.module_eq, hend.drive_eq, hd]
  exact ⟨hstate, hcause, enterFault_disabled s1 0x2007 hst, rfl⟩

theorem execDiodeBrokenLimit_result (hup : s.module.mainUp = true) (hbroken : s.thermal.broken = true) (hseq : s.power.seqAt = none)
    (hlimit : s.thermal.limitHit = false) (hst : s.module.state ≠ .fault) :
    ∃ t, execDiodeBrokenLimit s = .next t ∧ t.module.state = .fault ∧ t.module.faultCause = 0x2007 ∧ t.drive.enabled = false
      ∧ t.thermal.brokenMs = 60000 := by
  unfold execDiodeBrokenLimit
  rw [if_neg (by rw [hup, hbroken, hseq, hlimit]; exact nofun)]
  extract_lets s1 src s2
  have hmodule : s1.module = s.module := (atClk_does ..).module_eq
  clear_value s1
  have hmodule2 : s2.module = s1.module := module_withThermal s1 { src with brokenMs := 60000, limitHit := true }
  have hms : s2.thermal.brokenMs = 60000 := rfl
  have hst2 : s2.module.state ≠ .fault := by
    rw [hmodule2, hmodule]
    exact hst
  clear_value s2
  obtain ⟨hstate, hcause, hoff, hmsEnd⟩ := diodeLimit_result s2 hst2
  exact ⟨_, rfl, hstate, hcause, hoff, hmsEnd.trans hms⟩

end

/-! ### Fans (08 R252, 09 R260, 11 R331) -/

section
variable {s : State} {fan : Fin 4}

theorem execFanStall_result (hup : s.module.mainUp = true) (hturns : s.thermal.stalled.getD fan false = false) (hduty : 20 ≤ s.fanDuty fan)
    (hclk : s.clk ≤ s.power.tachAt.getD fan 0 + secTicks) :
    ∃ t, execFanStall fan s = .next t ∧ t.clk = s.power.tachAt.getD fan 0 + secTicks ∧ t.thermal.stalled = s.thermal.stalled.set fan true
      ∧ t.nat (obj 0x2C22 (fan + 1)) = s.counted (obj 0x2C22 (fan + 1)) := by
  have hrun : (!s.module.mainUp || s.thermal.stalled.getD fan false || decide (s.fanDuty fan < 20)) = false := by
    rw [hup, hturns, decide_eq_false (not_lt.2 hduty)]
    rfl
  unfold execFanStall
  rw [if_neg (by rw [hrun]; exact nofun)]
  extract_lets s1 x src src2 s2
  have hdue : s1.clk = s.power.tachAt.getD fan 0 + secTicks := atClk_clk hclk
  have hsame : s.Does [.clk, .time] s1 := atClk_does ..
  clear_value s1
  have hsub : obj 0x2C22 (fan + 1) / 256 = 0x2C22 := by
    have := fan.isLt
    unfold obj
    omega
  refine ⟨_, rfl, ?_, ?_, ?_⟩
  · rw [(raise_does ..).clk_eq, (bump_does ..).clk_eq, (settleOuts_does _).clk_eq]
    exact hdue
  · rw [(raise_does ..).thermal_eq, (bump_does ..).thermal_eq, (settleOuts_does _).thermal_eq]
    exact congrArg (fun t => (Thermal.stalled t).set fan true) hsame.thermal_eq
  · rw [(raise_keeps ..).nat_engines (by rw [hsub]; decide) (by rw [hsub]; decide), nat_bump_self, State.counted, (settleOuts_does _).nat_eq,
      nat_same s1 s2 rfl rfl rfl, hsame.nat_eq]

theorem State.fanRatioSample_stalled (s : State) (n : Nat) (rpm : ℚ) : (s.fanRatioSample n rpm).thermal.stalled = s.thermal.stalled := by
  unfold State.fanRatioSample
  dsimp only
  split
  · rfl
  · split <;> rfl

theorem execTachometerPulse_result {period : Nat} (hloops : s.loops.shaped) (hup : s.module.mainUp = true) (hperiod : period ≠ 0)
    (hclk : s.clk ≤ s.power.tachAt.getD fan 0 + period) :
    ∃ t, execTachometerPulse fan period s = .next t ∧ t.clk = s.power.tachAt.getD fan 0 + period
      ∧ t.thermal.stalled = s.thermal.stalled.set fan false
      ∧ (t.loops.inputs.getD (5 + fan) {}).value = (60 * secTicks : ℚ) / (period * max 1 (s.nat (obj 0x2A01 0x0B)))
      ∧ (t.loops.inputs.getD (5 + fan) {}).fault = false
      ∧ t.od = s.od := by
  have hrun : (!s.module.mainUp || decide (period = 0)) = false := by
    rw [hup, decide_eq_false hperiod]
    rfl
  unfold execTachometerPulse
  rw [if_neg (by rw [hrun]; exact nofun)]
  extract_lets s1 rpm src x s2
  have hdue : s1.clk = s.power.tachAt.getD fan 0 + period := atClk_clk hclk
  have hlen : 5 + fan.val < s2.loops.inputs.length := by
    have hfan := fan.isLt
    have hinputs : s2.loops.inputs.length = 12 := hloops.2.1
    omega
  have hinput : ((s2.fanSpeedIn fan rpm).settleOuts.fanRatioSample fan rpm).loops.inputs.getD (5 + fan) {} =
      { value := rpm, at_ := some s2.clk, fault := false } := by
    rw [(fanRatioSample_does ..).loops_eq, settleOuts_inputs]
    exact getD_set_self _ _ _ _ hlen
  refine ⟨_, rfl, ?_, ?_, congrArg LoopInput.value hinput, congrArg LoopInput.fault hinput, ?_⟩
  · rw [(fanRatioSample_does ..).clk_eq, (settleOuts_does _).clk_eq, (fanSpeedIn_does ..).clk_eq]
    exact hdue
  · rw [fanRatioSample_stalled, (settleOuts_does _).thermal_eq, (fanSpeedIn_does ..).thermal_eq]
    rfl
  · rw [(fanRatioSample_does ..).od_eq, (settleOuts_does _).od_eq, (fanSpeedIn_does ..).od_eq]
    rfl

end

/-! ### The pins (19 R505, R506, R508) -/

section
variable {s : State}

theorem execAirOkEdge_result {level : Bool} (hfed : s.islandFed = true) (hedge : s.pins.airOk ≠ level) :
    ∃ t, execAirOkEdge level s = .next t ∧ t.pins = { s.pins with airOk := level } ∧ t.module = s.module ∧ t.drive = s.drive := by
  have hrun : (!s.islandFed || decide (s.pins.airOk = level)) = false := by
    rw [hfed, decide_eq_false hedge]
    rfl
  unfold execAirOkEdge
  rw [if_neg (by rw [hrun]; exact nofun)]
  exact ⟨_, rfl, (raise_does ..).pins_eq, (raise_does ..).module_eq, (raise_does ..).drive_eq⟩

theorem execGuardOkEdge_result {level : Bool} (hfed : s.islandFed = true) (hedge : s.pins.guardOk ≠ level) :
    ∃ t, execGuardOkEdge level s = .next t ∧ t.pins = { s.pins with guardOk := level } ∧ t.module = s.module ∧ t.drive = s.drive := by
  have hrun : (!s.islandFed || decide (s.pins.guardOk = level)) = false := by
    rw [hfed, decide_eq_false hedge]
    rfl
  unfold execGuardOkEdge
  rw [if_neg (by rw [hrun]; exact nofun)]
  exact ⟨_, rfl, (raise_does ..).pins_eq, (raise_does ..).module_eq, (raise_does ..).drive_eq⟩

/-- An output that an overload has switched off is not on. -/
theorem State.outputOn_faulted {n u : Nat} (hn : n < 5) (h : s.pins.faults.getD n none = some u) : s.outputOn n = false := by
  unfold State.outputOn State.doutOn
  split
  · rw [h, Option.isNone_some, Bool.and_false, Bool.false_and]
  next hge =>
    obtain rfl : n = 4 := by omega
    rw [h, Option.isNone_some, Bool.and_false]

theorem State.outputOn_emit (s : State) (o : Output) (n : Nat) : (s.emit o).outputOn n = s.outputOn n := by
  unfold State.outputOn State.doutOn
  have h := emit_does s o
  rw [h.nat_eq, h.nat_eq, h.module_eq, h.power_eq, h.pins_eq, h.thermal_eq, h.loops_eq]

theorem execDoutOverload_result {out : Fin 5} (hpins : s.pins.shaped) (hon : s.outputOn out = true) :
    ∃ t, execDoutOverload out s = .next t ∧ t.pins.faults.getD out none = some s.clk ∧ t.outputOn out = false := by
  have hfault : ((((s.setFault out (some s.clk)).emit (.pin 2 [out, 0])).raise 0x1034 out).pins.faults.getD out none) = some s.clk := by
    rw [(raise_does ..).pins_eq]
    exact getD_set_self _ _ _ _ (lt_of_lt_of_eq out.isLt hpins.symm)
  unfold execDoutOverload
  rw [if_pos hon]
  exact ⟨_, rfl, hfault, outputOn_faulted out.isLt hfault⟩

theorem State.doutRetry_out (s : State) (n : Nat) :
    ((s.setFault n none).emit (.pin 2 [n, boolNat ((s.setFault n none).outputOn n)])).out =
      .pin 2 [n, boolNat (((s.setFault n none).emit (.pin 2 [n, boolNat ((s.setFault n none).outputOn n)])).outputOn n)] :: s.out := by
  rw [outputOn_emit]
  rfl

theorem execDoutRetry_result {out : Fin 5} {u : Nat} (hup : s.module.mainUp = true) (hseq : s.power.seqAt = none)
    (hoff : s.pins.faults.getD out none = some u) (hclk : s.clk ≤ u + secTicks) :
    ∃ t, execDoutRetry out s = .next t ∧ t.clk = u + secTicks ∧ t.pins.faults = s.pins.faults.set out none
      ∧ t.out = .pin 2 [out, boolNat (t.outputOn out)] :: s.out := by
  unfold execDoutRetry
  rw [hoff]
  dsimp only
  rw [if_neg (by rw [hup, hseq]; exact nofun)]
  have hdue := atClk_clk hclk
  have hsame := atClk_does s (u + secTicks)
  generalize s.atClk (u + secTicks) = s1 at hdue hsame ⊢
  refine ⟨_, rfl, hdue, congrArg (fun p => (Pins.faults p).set out none) hsame.pins_eq, ?_⟩
  rw [doutRetry_out, hsame.out_eq]

theorem execStrapRead_result {row : Nat} {westEnd : Bool} (hfed : s.islandFed = true)
    (hnew : s.strand.rowId ≠ row % 8 ∨ s.strand.westEnd ≠ westEnd) :
    ∃ t, execStrapRead row westEnd s = .next t ∧ t.strand.rowId = row % 8 ∧ t.strand.westEnd = westEnd := by
  have hrun : (!s.islandFed || decide (s.strand.rowId = row % 8 ∧ s.strand.westEnd = westEnd)) = false := by
    rw [hfed, decide_eq_false (not_and_or.2 hnew)]
    rfl
  unfold execStrapRead
  rw [if_neg (by simpa using hrun)]
  exact ⟨_, rfl, (learnId_strapsKept _).trans (refreshTopo_strapsKept _)⟩

end

/-! ### The island's own starts (11 R320, 12 R344) -/

section
variable {s : State}

theorem execVSbReturn_fed {mV : Nat} (hvsb : s.power.vsb = false) (hfed : s.islandFed = true) :
    ∃ t, execVSbReturn mV s = .next t ∧ t.power = { s.power with vsb := true } ∧ t.nat (obj 0x2C00 9) = min max16 mV
      ∧ t.nat (obj 0x2C00 0x0A) = 0 ∧ t.side = s.side := by
  unfold execVSbReturn
  rw [if_neg (by rw [hvsb]; exact nofun)]
  extract_lets fed s1 src s2
  have hvolt : s1.nat (obj 0x2C00 9) = min max16 mV := (nat_putNat_other _ _ (by decide)).trans (nat_putNat_self ..)
  have hlow : s1.nat (obj 0x2C00 0x0A) = 0 := nat_putNat_self ..
  have hpower : s1.power = s.power := rfl
  have hside : s1.side = s.side := rfl
  clear_value s1
  rw [if_pos hfed]
  have hdone : State.Does [.out, .pins] { s1 with power := { s1.power with vsb := true } } s2 := settleEnOut_does _
  refine ⟨_, rfl, hdone.power_eq.trans (congrArg (fun p => { p with vsb := true }) hpower), ?_, ?_, hdone.side_eq.trans hside⟩
  · exact (hdone.nat_eq _).trans <| (nat_same s1 { s1 with power := { s1.power with vsb := true } } rfl rfl rfl _).trans hvolt
  · exact (hdone.nat_eq _).trans <| (nat_same s1 { s1 with power := { s1.power with vsb := true } } rfl rfl rfl _).trans hlow

theorem execIslandWatchdogExpiry_result (hfed : s.islandFed = true) :
    ∃ t, execIslandWatchdogExpiry s = .next t ∧ t.module = { s.module with resetKind := 4 } ∧ t.power = s.power ∧ t.drive = s.drive
      ∧ t.time = s.time := by
  unfold execIslandWatchdogExpiry State.islandReset
  rw [if_pos hfed]
  have h : ({ s with module := { s.module with resetKind := 4 } } : State).Does [.out, .od, .backdrop, .strand, .side, .recorder]
      ((State.islandBoot { s with module := { s.module with resetKind := 4 } }).noteReset s) := .via (noteReset_does ..) (.of (islandBoot_does _))
  exact ⟨_, rfl, h.module_eq, h.power_eq, h.drive_eq, h.time_eq⟩

end

/-- Settles O26: each event of the die, the fans, the pins and the island from the lemma on its `exec` function. -/
theorem thermalPinResults : Obligations.ThermalPinResults := by
  unfold Obligations.ThermalPinResults
  exact ⟨fun _ hup hseq hsound hclk => execDieSample_broken hup hseq hsound hclk,
    fun _ _ hup hseq hgood hclk hcool => execDieSample_mean hup hseq hgood hclk hcool,
    fun _ _ hup hseq _ hgood hclk hhot => execDieSample_shutdown hup hseq hgood hclk hhot,
    fun _ hup hbroken hseq hlimit hst => execDiodeBrokenLimit_result hup hbroken hseq hlimit hst,
    fun _ _ _ hup hturns hduty hclk => execFanStall_result hup hturns hduty hclk,
    fun _ _ _ hloops _ hup hperiod hclk => execTachometerPulse_result hloops hup hperiod hclk,
    fun _ _ hfed hedge => execAirOkEdge_result hfed hedge, fun _ _ hfed hedge => execGuardOkEdge_result hfed hedge,
    fun _ _ hpins hon => execDoutOverload_result hpins hon, fun _ _ _ _ hup hseq hoff hclk => execDoutRetry_result hup hseq hoff hclk,
    fun _ _ _ hfed hnew => execStrapRead_result hfed hnew, fun _ _ hvsb hfed => execVSbReturn_fed hvsb hfed,
    fun _ hfed => execIslandWatchdogExpiry_result hfed⟩

end Sys2Proof.Machine
end


section
/-!
What the operations of the loop engine leave of a slot, of the dictionary, and of a master's answer.
-/
set_option Elab.async false
set_option linter.all false

namespace Sys2Proof.Machine

open Sys2Proof State

/-! ### Objects of a slot (09 R281) -/

section
variable {s t : State} {n i j : Nat}

theorem slotKey_div (n i : Nat) {j : Nat} (hj : j < 256) : slotKey n i j / 256 = i + 16 * n := by
  unfold slotKey obj
  omega

theorem slotKey_ne {a b : Nat} (h : obj i j ≠ obj a b) : slotKey n i j ≠ slotKey n a b := by
  intro e
  have hsum : (i + 16 * n) * 256 + j = (a + 16 * n) * 256 + b := e
  exact h (show i * 256 + j = a * 256 + b by linarith)

/-- The log of an event, and counters of a slot. -/
abbrev loopKeys (n : Nat) (js : List Nat) : List KeySet := .frames :: .events :: js.map fun j => .one (slotKey n 0x2A17 j)

theorem State.Keeps.nat_slotKey {js : List Nat} (h : s.Keeps (loopKeys n js) t) (hn : n < 8) {i j : Nat}
    (hk : ∀ a ∈ js, obj i j ≠ obj 0x2A17 a := by decide) (hi : 0x2A10 ≤ i ∧ i ≤ 0x2A17 := by decide) (hj : j < 256 := by decide) :
    t.nat (slotKey n i j) = s.nat (slotKey n i j) := by
  have hdiv := slotKey_div n i hj
  refine h.nat_eq fun x hx => ?_
  rcases List.mem_cons.1 hx with rfl | hx
  · exact fun hf => absurd (frames_has_lt hf) (by omega)
  rcases List.mem_cons.1 hx with rfl | hx
  · exact fun he => absurd (events_has_div he) (by omega)
  obtain ⟨a, ha, rfl⟩ := List.mem_map.1 hx
  exact slotKey_ne (hk a ha)

theorem State.real_congr {k : Nat} (h : t.nat k = s.nat k) : t.real k = s.real k := congrArg r32Value h

end

/-! ### One slot changes -/

/-- Of the slots at most slot `n` changes, to `x`. -/
def State.SlotTo (s : State) (n : Nat) (x : LoopSlot) (t : State) : Prop := t.loops.slots = s.loops.slots.set n x

section
variable {s t u : State} {n : Nat} {x y : LoopSlot}

theorem State.SlotTo.slot (h : s.SlotTo n x t) (hn : n < s.loops.slots.length) : t.slot n = x :=
  (congrArg (·.getD n {}) h).trans (getD_set_self _ _ _ _ hn)

theorem State.SlotTo.lt (h : s.SlotTo n x t) (hn : n < s.loops.slots.length) : n < t.loops.slots.length := by
  rw [h, List.length_set]
  exact hn

theorem State.SlotTo.trans (h : s.SlotTo n x t) (g : t.SlotTo n y u) : s.SlotTo n y u := by
  unfold State.SlotTo at *
  rw [g, h, List.set_set]

/-- An operation that leaves the slots, done last. -/
theorem State.SlotTo.past (h : s.SlotTo n x t) (g : u.loops.slots = t.loops.slots) : s.SlotTo n x u := Eq.trans g h

theorem State.SlotTo.same (h : n < s.loops.slots.length) (g : t.loops.slots = s.loops.slots) : s.SlotTo n (s.slot n) t := by
  unfold State.SlotTo State.slot
  rw [g, ← List.getElem_eq_getD (h := h), List.set_getElem_self]

theorem State.slot_eq (h : t.loops.slots = s.loops.slots) (n : Nat) : t.slot n = s.slot n := congrArg (·.getD n {}) h

theorem State.setSlot_to (s : State) (n : Nat) (x : LoopSlot) : s.SlotTo n x (s.setSlot n x) := rfl

end

/-! ### What the operations leave of a slot -/

/-- A swap that waits has taken effect (09 R269). -/
def LoopSlot.settled (x : LoopSlot) : LoopSlot :=
  { x with active := if x.swapPending then 1 - x.active else x.active, swapPending := false }

theorem LoopSlot.settled_of_none {x : LoopSlot} (h : x.swapPending = false) : x.settled = x := by
  unfold LoopSlot.settled
  cases x
  cases h
  rfl

section
variable {s : State} {n : Nat}

theorem State.swapBank_to (s : State) (n : Nat) :
    s.SlotTo n { s.slot n with active := 1 - (s.slot n).active, swapPending := false } (s.swapBank n) :=
  (setSlot_to ..).past (congrArg Loops.slots (raise_does ..).loops_eq)

theorem State.swapBank_settled (h : (s.slot n).swapPending = true) : s.SlotTo n (s.slot n).settled (s.swapBank n) := by
  unfold LoopSlot.settled
  rw [if_pos h]
  exact swapBank_to s n

/-- A slot that leaves warm-up and running: a swap that waits takes effect at once (09 R269). -/
theorem State.leaveLive_to (hn : n < s.loops.slots.length) : s.SlotTo n { (s.slot n).settled with rebase := false } (s.leaveLive n) := by
  unfold State.leaveLive
  dsimp only
  split
  next h =>
    have hswap := swapBank_settled h
    rw [hswap.slot hn]
    exact hswap.trans (setSlot_to ..)
  next h =>
    rw [LoopSlot.settled_of_none (Bool.eq_false_iff.2 h)]
    exact setSlot_to ..

theorem State.settleOut_slots (s : State) (o : Nat) : (s.settleOut o).loops.slots = s.loops.slots := by
  unfold State.settleOut
  dsimp only
  split <;> rfl

theorem State.settleOuts_slots (s : State) : s.settleOuts.loops.slots = s.loops.slots := by
  unfold State.settleOuts
  exact foldl_same (·.loops.slots) (fun t i => settleOut_slots t (i + 1)) _ s

theorem State.driveOut_to (s : State) (n : Nat) (v : ℚ) : s.SlotTo n { s.slot n with out := v } (s.driveOut n v) := by
  unfold State.driveOut
  dsimp only
  split
  · exact setSlot_to ..
  · exact (setSlot_to ..).past (settleOut_slots ..)

/-- A slot written, and its output driven. -/
theorem State.setSlot_driveOut_to (hn : n < s.loops.slots.length) (x : LoopSlot) (v : ℚ) :
    s.SlotTo n { x with out := v } ((s.setSlot n x).driveOut n v) := by
  have h := driveOut_to (s.setSlot n x) n v
  rw [setSlot_slot_self _ _ _ hn] at h
  exact (setSlot_to s n x).trans h

theorem State.safeOut_to (s : State) (n : Nat) : ∃ v, s.SlotTo n { s.slot n with out := v } (s.safeOut n) := by
  unfold State.safeOut
  split
  · exact ⟨_, driveOut_to ..⟩
  · exact ⟨_, driveOut_to ..⟩

theorem State.traceTrigger_slots (s : State) (t : Nat) : (s.traceTrigger t).loops.slots = s.loops.slots := by
  unfold State.traceTrigger
  dsimp only
  split <;> rfl

theorem State.traceLoopFault_slots (s : State) : s.traceLoopFault.loops.slots = s.loops.slots := by
  refine foldl_same (·.loops.slots) (fun t i => ?_) _ s
  split
  · exact traceTrigger_slots ..
  · rfl

/-- A slot that faults keeps its samples' count, its missed samples and its nodes (09 R276). -/
theorem State.loopFault_to (hn : n < s.loops.slots.length) (cause : Nat) :
    ∃ v, s.SlotTo n { (s.slot n).settled with rebase := false, state := .fault, cause := cause, out := v } (s.loopFault n cause) := by
  unfold State.loopFault
  extract_lets old s1 src s2 s3
  have hleft : s.SlotTo n _ s1 := leaveLive_to hn
  have hfault : s.SlotTo n { src with state := .fault, cause := cause } s2 := hleft.trans (setSlot_to ..)
  obtain ⟨v, hsafe⟩ := safeOut_to s2 n
  have hsrc : src = _ := hleft.slot hn
  rw [hfault.slot hn, hsrc] at hsafe
  exact ⟨v, (hfault.trans hsafe).past (traceLoopFault_slots _)⟩

theorem State.enterWarmUp_slot (hn : n < s.loops.slots.length) :
    ((s.enterWarmUp n).slot n).state = .warmUp ∧ ((s.enterWarmUp n).slot n).cause = 0
      ∧ ((s.enterWarmUp n).slot n).warm = s.nat (slotKey n 0x2A15 1) := by
  unfold State.enterWarmUp
  dsimp only
  rw [setSlot_slot_self _ _ _ hn]
  exact ⟨rfl, rfl, rfl⟩

theorem State.enterParked_state (hn : n < s.loops.slots.length) : ((s.enterParked n).slot n).state = .parked := by
  unfold State.enterParked
  extract_lets s1 x
  have h1 : n < s1.loops.slots.length := (leaveLive_to hn).lt hn
  rw [(setSlot_driveOut_to h1 _ _).slot h1]

theorem State.enterAuto_state (hn : n < s.loops.slots.length) :
    ((s.enterAuto n).slot n).state = if s.runCondition n then .warmUp else .parked := by
  unfold State.enterAuto
  split
  · exact (enterWarmUp_slot hn).1
  · exact enterParked_state hn

theorem State.runCondition_congr {t : State} (hm : t.module = s.module) (hk : t.nat (slotKey n 0x2A10 3) = s.nat (slotKey n 0x2A10 3)) :
    t.runCondition n = s.runCondition n := by
  unfold State.runCondition
  rw [hm, hk]

end

/-! ### What the operations leave of the dictionary -/

section
variable (s : State) (n : Nat)

theorem State.enterAuto_keeps : s.Keeps (swapKeys n) (s.enterAuto n) := by
  unfold State.enterAuto
  exact .ite (.past (enterWarmUp_does ..) .same) (enterParked_keeps ..)

theorem State.loopFault_keeps (cause : Nat) : s.Keeps (loopKeys n [4, 5]) (s.loopFault n cause) := by
  unfold State.loopFault
  dsimp only
  exact .past (traceLoopFault_does _) (.via (bump_keeps ..) (.past (safeOut_does ..) (.past (setSlot_does ..)
    (.of (leaveLive_keeps ..) (by simp)))) (by simp))

end

/-! ### A master that reaches the block still does -/

section
variable (s : State) (n : Nat) (m : Master)

theorem State.swapBank_reachable : (s.swapBank n).reachable m = s.reachable m := raise_reachable ..

theorem State.leaveLive_reachable : (s.leaveLive n).reachable m = s.reachable m := by
  unfold State.leaveLive
  dsimp only
  refine ((setSlot_does ..).reachable_eq m).trans ?_
  split
  · exact swapBank_reachable ..
  · rfl

theorem State.enterParked_reachable : (s.enterParked n).reachable m = s.reachable m := by
  unfold State.enterParked
  dsimp only
  exact ((driveOut_does ..).reachable_eq m).trans (((setSlot_does ..).reachable_eq m).trans (leaveLive_reachable ..))

theorem State.enterAuto_reachable : (s.enterAuto n).reachable m = s.reachable m := by
  unfold State.enterAuto
  split
  · exact (enterWarmUp_does ..).reachable_eq m
  · exact enterParked_reachable ..

end

end Sys2Proof.Machine
end


section
/-!
A channel of the DMA that reads a trace buffer which is armed anew: what the rest of its burst leaves of the side-band and of the dictionary.
-/
set_option Elab.async false
set_option linter.all false

namespace Sys2Proof.Machine

open Sys2Proof State

/-! ### The side-band but for its EMCY queue -/

/-- The side-band without its queue of EMCY frames, all that the log of an event touches there. -/
def State.quietSide (s : State) : Sideband := { s.side with emcy := [] }

section
variable {ps : List Part} {s t : State}

theorem State.Does.quietSide_eq (h : s.Does ps t) (k : Part.side ∉ ps := by decide) : t.quietSide = s.quietSide := by
  unfold State.quietSide
  rw [h.side_eq k]

theorem State.Does.reachable_of_quiet (h : s.Does ps t) (hq : t.quietSide = s.quietSide) (m : Master)
    (hm : Part.module ∉ ps := by decide) (hp : Part.power ∉ ps := by decide) : t.reachable m = s.reachable m := by
  have hid : t.side.nodeId = s.side.nodeId := (congrArg Sideband.nodeId hq :)
  have hswitching : t.side.switching = s.side.switching := (congrArg Sideband.switching hq :)
  have herrors : t.side.errors = s.side.errors := (congrArg Sideband.errors hq :)
  have hnmt : t.side.nmt = s.side.nmt := (congrArg Sideband.nmt hq :)
  unfold State.reachable State.nodeUp State.nodeOn State.canFed State.islandFed State.railsUp
  rw [h.module_eq hm, h.power_eq hp, hid, hswitching, herrors, hnmt]

end

section
variable (s : State) (c : Nat)

theorem State.queueEmcy_quietSide (e : Emcy) : (s.queueEmcy e).quietSide = s.quietSide := by
  obtain ⟨q, h⟩ := queueEmcy_side s e
  unfold State.quietSide
  rw [h]

theorem State.raiseChan_quietSide (kind sev arg : Nat) : (s.raiseChan c kind sev arg).quietSide = s.quietSide := by
  unfold State.raiseChan
  extract_lets +onlyGivenNames code s1 s2 s3 src s4
  have h1 : s1.quietSide = s.quietSide := (logEvent_does ..).quietSide_eq
  have h2 : s2.quietSide = s.quietSide := by
    unfold s2
    split
    · exact (sendEvent_does ..).quietSide_eq.trans h1
    · exact h1
  split
  · have h4 : s4.quietSide = s3.quietSide := rfl
    exact (severeTrigger_does ..).quietSide_eq.trans (h4.trans ((queueEmcy_quietSide ..).trans h2))
  · exact h2

theorem State.dmaFail_quietSide (cause : Nat) : (s.dmaFail c cause).quietSide = s.quietSide := by
  unfold State.dmaFail State.dmaError
  dsimp only
  refine (leaveFifo_does ..).quietSide_eq.trans ((raiseChan_quietSide ..).trans ?_)
  split <;> rfl

theorem State.takeDescriptor_quietSide (a : Nat) (bad : Bool) : (s.takeDescriptor c a bad).quietSide = s.quietSide := by
  unfold State.takeDescriptor
  dsimp only
  split
  · exact dmaFail_quietSide ..
  split
  · exact dmaFail_quietSide ..
  split
  · exact dmaFail_quietSide ..
  split
  · exact dmaFail_quietSide ..
  · exact (joinFifo_does ..).quietSide_eq

theorem State.followLink_quietSide (bad : Option MemError) : (s.followLink c bad).quietSide = s.quietSide := by
  unfold State.followLink
  dsimp only
  have hleft : (s.leaveFifo c).quietSide = s.quietSide := (leaveFifo_does ..).quietSide_eq
  split
  · exact dmaFail_quietSide ..
  split
  · exact (leaveFifo_does ..).quietSide_eq.trans (raiseChan_quietSide ..)
  split
  · exact (dmaFail_quietSide ..).trans hleft
  · exact (takeDescriptor_quietSide ..).trans hleft

theorem State.finishDescriptor_quietSide (bad : Option MemError) : (s.finishDescriptor c bad).quietSide = s.quietSide :=
  (followLink_quietSide ..).trans (countDescriptor_does ..).quietSide_eq

theorem State.settleHead_quietSide (n : Nat) : (State.settleHead n s).quietSide = s.quietSide := by
  induction n generalizing s with
  | zero => rfl
  | succ n ih =>
    unfold State.settleHead
    split
    · rfl
    · dsimp only
      split
      · exact (ih _).trans (finishDescriptor_quietSide ..)
      · rfl

end

/-! ### A trace buffer is released (16 R447) -/

section
variable (s : State) (c : Nat) (b : Burst) (data : List Byte)

/-- What the rest of a burst writes: the bytes moved, and the end of the descriptor. -/
abbrev burstKeys (c : Nat) : List KeySet := .one (obj 0x2F00 2) :: descriptorKeys c

theorem State.holdHead_keeps : s.Keeps (burstKeys c) (s.holdHead c b data) := by
  unfold State.holdHead
  split
  next t m h =>
    have ht : s.Keeps (burstKeys c) t := Keeps.pair h (.of (moveBytes_keeps ..) (by simp))
    exact .ite (.via (dmaFail_keeps ..) ht (by simp)) (.ite (.via (finishDescriptor_keeps ..) ht (by simp)) (.past (setChan_does ..) ht))

theorem State.holdHead_quietSide : (s.holdHead c b data).quietSide = s.quietSide := by
  unfold State.holdHead
  split
  next t m h =>
    have ht : t.quietSide = s.quietSide := (congrArg (·.1.quietSide) h).symm.trans (moveBytes_does ..).quietSide_eq
    split
    · exact (dmaFail_quietSide ..).trans ht
    split
    · exact (finishDescriptor_quietSide ..).trans ht
    · exact (setChan_does ..).quietSide_eq.trans ht

variable (t : Nat)

theorem State.traceRelease_quietSide : (s.traceRelease t).quietSide = s.quietSide := by
  unfold State.traceRelease
  split
  · exact (settleHead_quietSide ..).trans ((holdHead_quietSide ..).trans (freeBurst_does s).quietSide_eq)
  · rfl

theorem State.traceRelease_reachable (m : Master) : (s.traceRelease t).reachable m = s.reachable m :=
  (traceRelease_does ..).reachable_of_quiet (traceRelease_quietSide ..) m

variable {s}

/-- The objects below the engine's own stand, but for the counters of frames and events. -/
theorem State.traceRelease_val {k : Nat} (hk : k < obj 0x2F00 0) (hf : k ∉ frameKeys) (he : k ∉ eventKeys) :
    (s.traceRelease t).val k = s.val k := by
  unfold State.traceRelease
  split
  next c _ =>
    refine (settleHead_val _ hk hf he).trans (((holdHead_keeps ..).val k ?_).trans ((freeBurst_does s).keeps_all.val k nofun))
    have hchan : obj 0x2F00 0 ≤ obj 0x2F01 (c + 1) := by
      unfold obj
      omega
    simp only [List.mem_cons, List.not_mem_nil, or_false, forall_eq_or_imp, forall_eq]
    exact ⟨KeySet.one_above hk (by decide), KeySet.one_above hk (by decide), KeySet.one_above hk hchan, hf, he, KeySet.one_above hk (by decide),
      KeySet.one_above hk (by decide)⟩
  · rfl

theorem State.traceRelease_nat {k : Nat} (hlow : 0x2300 ≤ k / 256) (hhigh : k / 256 < 0x2D02) : (s.traceRelease t).nat k = s.nat k := by
  refine nat_congr (traceRelease_val t (by unfold obj; omega) (fun h => ?_) (fun h => ?_))
  · exact absurd (frames_has_lt h) (by omega)
  · exact absurd (events_has_div h) (by omega)

end

end Sys2Proof.Machine
end


section
/-!
Banks of coefficients, swaps, re-arming, enabling, and the commands of the traces.
-/
set_option Elab.async false
set_option linter.all false

namespace Sys2Proof.Machine

open Sys2Proof State

section
variable {s : State} {m : Master} {slot : Fin 8}

theorem slot_lt (hs : s.loops.shaped) (slot : Fin 8) : slot.val < s.loops.slots.length := by
  rw [hs.1]
  exact slot.isLt

theorem trace_lt (hs : s.loops.shaped) (t : Fin 4) : t.val < s.loops.traces.length := by
  rw [hs.2.2]
  exact t.isLt

/-! ### Banks (09 R268, R269) -/

theorem byteVal_of_val {k : Nat} {b : List Byte} (h : s.val k = .bytes b) : s.byteVal k = b := by
  unfold State.byteVal
  rw [h]

theorem execLoopBankWrite_taken {bank : Nat} {image : List Byte}
    (hw : s.writable m (slotKey slot (0x2A13 + bank % 2) 1) (.bytes image) = true) (hinactive : bank % 2 ≠ (s.slot slot).active)
    (hnone : (s.slot slot).swapPending = false) (hok : loopBankOk image = true) :
    ∃ t, execLoopBankWrite m slot bank image s = .next t ∧ t.byteVal (slotKey slot (0x2A13 + bank % 2) 1) = image
      ∧ t.loops = s.loops ∧ t.out = ack m (slotKey slot (0x2A13 + bank % 2) 1) :: s.out := by
  have hact : actLoopBank slot (bank % 2) image s = (s.put (slotKey slot (0x2A13 + bank % 2) 1) (.bytes image), 0) := by
    unfold actLoopBank
    dsimp only
    rw [if_neg (not_or.2 ⟨hinactive, by rw [hnone]; exact nofun⟩), if_neg (by rw [hok]; exact nofun)]
  have hval := val_put_self s (slotKey slot (0x2A13 + bank % 2) 1) (.bytes image)
  exact ⟨_, congrArg Host.Outcome.next (write_accepted hw hact (put_does ..)),
    byteVal_of_val ((val_congr rfl rfl rfl _).trans hval), rfl, rfl⟩

theorem execLoopBankWrite_refused {bank : Nat} {image : List Byte}
    (hw : s.writable m (slotKey slot (0x2A13 + bank % 2) 1) (.bytes image) = true)
    (huse : bank % 2 = (s.slot slot).active ∨ (s.slot slot).swapPending = true) :
    ∃ t, execLoopBankWrite m slot bank image s = .next t ∧ t.od = s.od ∧ t.loops = s.loops
      ∧ t.out = .reply m (slotKey slot (0x2A13 + bank % 2) 1 / 256) (slotKey slot (0x2A13 + bank % 2) 1 % 256) abortState [] :: s.out := by
  have hact : actLoopBank slot (bank % 2) image s = (s, abortState) := if_pos huse
  exact ⟨_, congrArg Host.Outcome.next (write_answered hw hact rfl), rfl, rfl, rfl⟩

/-! ### Swaps (09 R269) -/

theorem execLoopBankSwap_pending (hs : s.loops.shaped) (hw : s.writable m (slotKey slot 0x2A10 0x0D) (.num 1) = true)
    (hlive : (s.slot slot).state = .warmUp ∨ (s.slot slot).state = .running) :
    ∃ t, execLoopBankSwap m slot s = .next t ∧ t.slot slot = { s.slot slot with swapPending := true }
      ∧ t.out = ack m (slotKey slot 0x2A10 0x0D) :: s.out := by
  have hact : actLoopSwap slot s = (s.setSlot slot { s.slot slot with swapPending := true }, 0) := by
    unfold actLoopSwap
    dsimp only
    rcases hlive with h | h
    · rw [h]
    · rw [h]
  exact ⟨_, congrArg Host.Outcome.next (write_accepted hw hact (setSlot_does ..)), setSlot_slot_self _ _ _ (slot_lt hs slot), rfl⟩

theorem State.swapBank_counts {n : Nat} (hn : n < 8) : (s.swapBank n).nat (slotKey n 0x2A17 5) = s.counted (slotKey n 0x2A17 5) := by
  unfold State.swapBank
  extract_lets x
  have hraise := raise_keeps ((s.setSlot n { x with active := 1 - x.active, swapPending := false }).bump (slotKey n 0x2A17 5)) (0x8007 + 0x100 * n) n
  rw [Keeps.nat_slotKey (js := []) hraise hn, nat_bump_self, State.counted, (setSlot_does ..).nat_eq]

theorem execLoopBankSwap_atOnce (hs : s.loops.shaped) (hw : s.writable m (slotKey slot 0x2A10 0x0D) (.num 1) = true)
    (hwarm : (s.slot slot).state ≠ .warmUp) (hrun : (s.slot slot).state ≠ .running) :
    ∃ t, execLoopBankSwap m slot s = .next t
      ∧ t.slot slot = { s.slot slot with active := 1 - (s.slot slot).active, swapPending := false }
      ∧ t.nat (slotKey slot 0x2A17 5) = s.counted (slotKey slot 0x2A17 5) ∧ t.out.head? = some (ack m (slotKey slot 0x2A10 0x0D)) := by
  have hact : actLoopSwap slot s = (s.swapBank slot, 0) := by
    unfold actLoopSwap
    dsimp only
    split
    next h => exact absurd h hwarm
    next h => exact absurd h hrun
    next => rfl
  have hcount := (answer_does (s.swapBank slot) m (slotKey slot 0x2A10 0x0D) 0 []).nat_eq (slotKey slot 0x2A17 5)
  exact ⟨_, congrArg Host.Outcome.next (write_answered hw hact (swapBank_reachable ..)), (swapBank_to s slot).slot (slot_lt hs slot),
    hcount.trans (swapBank_counts slot.isLt), rfl⟩

/-! ### Re-arming (09 R276) -/

theorem execLoopRearm_warmUp (hs : s.loops.shaped) (hw : s.writable m (slotKey slot 0x2A10 4) (.num 1) = true)
    (hfault : (s.slot slot).state = .fault) (hon : s.nat (slotKey slot 0x2A10 2) ≠ 0) (hrun : s.runCondition slot = true) :
    ∃ t, execLoopRearm m slot s = .next t ∧ (t.slot slot).state = .warmUp ∧ (t.slot slot).cause = 0
      ∧ (t.slot slot).warm = s.nat (slotKey slot 0x2A15 1) ∧ t.out.head? = some (ack m (slotKey slot 0x2A10 4)) := by
  have hauto : s.enterAuto slot = s.enterWarmUp slot := if_pos hrun
  have hact : actLoopRearm slot s = ((s.enterWarmUp slot).raise (0x8006 + 0x100 * slot) slot, 0) := by
    unfold actLoopRearm
    rw [if_pos hfault, if_neg hon, hauto]
  have hreach := (raise_reachable _ (0x8006 + 0x100 * slot) slot m).trans ((enterWarmUp_does s slot).reachable_eq m)
  have hslot := slot_eq (congrArg Loops.slots (raise_does (s.enterWarmUp slot) (0x8006 + 0x100 * slot) slot).loops_eq) slot
  obtain ⟨hstate, hcause, hcount⟩ := enterWarmUp_slot (slot_lt hs slot)
  exact ⟨_, congrArg Host.Outcome.next (write_answered hw hact hreach), (congrArg LoopSlot.state hslot).trans hstate,
    (congrArg LoopSlot.cause hslot).trans hcause, (congrArg LoopSlot.warm hslot).trans hcount, rfl⟩

end

/-! ### Enabling (09 R272) -/

/-- A slot that a write of 0 disables: its output is given back. -/
def State.disableSlot (s : State) (n : Nat) : State :=
  ((s.leaveLive n).setSlot n { (s.leaveLive n).slot n with state := .disabled, out := 0 }).settleOuts

/-- A slot that a write of 2 turns to Manual, with the output of 0x2A10:08. -/
def State.enterManual (s : State) (n : Nat) : State :=
  ((s.leaveLive n).setSlot n { (s.leaveLive n).slot n with state := .manual }).driveOut n ((s.leaveLive n).real (slotKey n 0x2A10 8))

section
variable {s : State} {n : Nat}

theorem actLoopEnable_zero (hst : (s.slot n).state ≠ .fault) :
    actLoopEnable n 0 s = ((s.keep (slotKey n 0x2A10 2) 0).disableSlot n, 0) := by
  unfold actLoopEnable
  rw [if_neg fun h => h.1 rfl]
  exact if_neg hst

theorem enable_allowed {value : Nat} (hsrc : s.nat (slotKey n 0x2A11 1) ≠ 0) (hout : s.outputTaken n (s.nat (slotKey n 0x2A11 6)) = false) :
    ¬(value ≠ 0 ∧ (s.nat (slotKey n 0x2A11 1) = 0 ∨ s.outputTaken n (s.nat (slotKey n 0x2A11 6)) = true)) := by
  rintro ⟨-, h | h⟩
  · exact hsrc h
  · exact absurd (hout.symm.trans h) Bool.false_ne_true

theorem actLoopEnable_one (hsrc : s.nat (slotKey n 0x2A11 1) ≠ 0) (hout : s.outputTaken n (s.nat (slotKey n 0x2A11 6)) = false)
    (hst : (s.slot n).state = .disabled ∨ (s.slot n).state = .manual) :
    actLoopEnable n 1 s = ((s.keep (slotKey n 0x2A10 2) 1).enterAuto n, 0) := by
  have hkept : (s.keep (slotKey n 0x2A10 2) 1).slot n = s.slot n := rfl
  unfold actLoopEnable
  rw [if_neg (enable_allowed hsrc hout)]
  dsimp only
  rw [hkept]
  rcases hst with h | h
  · rw [h]
    rfl
  · rw [h]
    rfl

theorem actLoopEnable_two (hsrc : s.nat (slotKey n 0x2A11 1) ≠ 0) (hout : s.outputTaken n (s.nat (slotKey n 0x2A11 6)) = false)
    (hst : (s.slot n).state ≠ .fault) : actLoopEnable n 2 s = ((s.keep (slotKey n 0x2A10 2) 2).enterManual n, 0) := by
  unfold actLoopEnable
  rw [if_neg (enable_allowed hsrc hout)]
  exact if_neg hst

theorem State.disableSlot_to (hn : n < s.loops.slots.length) :
    s.SlotTo n { (s.slot n).settled with rebase := false, state := .disabled, out := 0 } (s.disableSlot n) := by
  unfold State.disableSlot
  rw [(leaveLive_to hn).slot hn]
  exact ((leaveLive_to hn).trans (setSlot_to ..)).past (settleOuts_slots _)

theorem State.disableSlot_keeps (s : State) (n : Nat) : s.Keeps (swapKeys n) (s.disableSlot n) :=
  .past (settleOuts_does _) (.past (setSlot_does ..) (leaveLive_keeps ..))

theorem State.disableSlot_reachable (s : State) (n : Nat) (m : Master) : (s.disableSlot n).reachable m = s.reachable m :=
  ((settleOuts_does _).reachable_eq m).trans (((setSlot_does ..).reachable_eq m).trans (leaveLive_reachable ..))

theorem State.enterManual_to (hn : n < s.loops.slots.length) :
    s.SlotTo n { (s.slot n).settled with rebase := false, state := .manual, out := (s.leaveLive n).real (slotKey n 0x2A10 8) }
      (s.enterManual n) := by
  unfold State.enterManual
  rw [(leaveLive_to hn).slot hn]
  exact (leaveLive_to hn).trans (setSlot_driveOut_to ((leaveLive_to hn).lt hn) _ _)

theorem State.enterManual_keeps (s : State) (n : Nat) : s.Keeps (swapKeys n) (s.enterManual n) :=
  .past (driveOut_does ..) (.past (setSlot_does ..) (leaveLive_keeps ..))

theorem State.enterManual_reachable (s : State) (n : Nat) (m : Master) : (s.enterManual n).reachable m = s.reachable m :=
  ((driveOut_does ..).reachable_eq m).trans (((setSlot_does ..).reachable_eq m).trans (leaveLive_reachable ..))

end

section
variable {s t : State} {m : Master} {slot : Fin 8} {value : Nat}

/-- A write of 0x2A10:02 that is carried out is held, whatever the slot's change, and acknowledged. -/
theorem execLoopEnableWrite_held (hw : s.writable m (slotKey slot 0x2A10 2) (.num value) = true)
    (hact : actLoopEnable slot value s = (t, 0)) (hkeeps : (s.keep (slotKey slot 0x2A10 2) value).Keeps (swapKeys slot) t)
    (hreach : t.reachable m = (s.keep (slotKey slot 0x2A10 2) value).reachable m) :
    ∃ u, execLoopEnableWrite m slot value s = .next u ∧ u.nat (slotKey slot 0x2A10 2) = value ∧ u.slot slot = t.slot slot
      ∧ u.out.head? = some (ack m (slotKey slot 0x2A10 2)) := by
  have hheld : t.nat (slotKey slot 0x2A10 2) = value :=
    (Keeps.nat_slotKey (js := [5]) hkeeps slot.isLt).trans (nat_putNat_self ..)
  exact ⟨_, congrArg Host.Outcome.next (write_answered hw hact (hreach.trans ((putNat_does ..).reachable_eq m))),
    ((answer_does ..).nat_eq _).trans hheld, rfl, rfl⟩

theorem execLoopEnableWrite_disables (hs : s.loops.shaped) (hw : s.writable m (slotKey slot 0x2A10 2) (.num 0) = true)
    (hst : (s.slot slot).state ≠ .fault) :
    ∃ t, execLoopEnableWrite m slot 0 s = .next t ∧ t.nat (slotKey slot 0x2A10 2) = 0 ∧ (t.slot slot).state = .disabled
      ∧ (t.slot slot).out = 0 ∧ (t.slot slot).swapPending = false ∧ (t.slot slot).rebase = false
      ∧ (t.slot slot).active = (if (s.slot slot).swapPending then 1 - (s.slot slot).active else (s.slot slot).active)
      ∧ t.out.head? = some (ack m (slotKey slot 0x2A10 2)) := by
  obtain ⟨t, hnext, hheld, hslot, hout⟩ := execLoopEnableWrite_held hw (actLoopEnable_zero hst) (disableSlot_keeps ..) (disableSlot_reachable ..)
  have hto := (disableSlot_to (s := s.keep (slotKey slot 0x2A10 2) 0) (slot_lt hs slot)).slot (slot_lt hs slot)
  refine ⟨t, hnext, hheld, ?_⟩
  rw [hslot, hto]
  exact ⟨rfl, rfl, rfl, rfl, rfl, hout⟩

theorem execLoopEnableWrite_automatic (hs : s.loops.shaped) (hw : s.writable m (slotKey slot 0x2A10 2) (.num 1) = true)
    (hsrc : s.nat (slotKey slot 0x2A11 1) ≠ 0) (hfree : s.outputTaken slot (s.nat (slotKey slot 0x2A11 6)) = false)
    (hst : (s.slot slot).state = .disabled ∨ (s.slot slot).state = .manual) :
    ∃ t, execLoopEnableWrite m slot 1 s = .next t ∧ t.nat (slotKey slot 0x2A10 2) = 1
      ∧ (t.slot slot).state = (if s.runCondition slot then .warmUp else .parked)
      ∧ t.out.head? = some (ack m (slotKey slot 0x2A10 2)) := by
  obtain ⟨t, hnext, hheld, hslot, hout⟩ := execLoopEnableWrite_held hw (actLoopEnable_one hsrc hfree hst) (enterAuto_keeps ..)
    (enterAuto_reachable ..)
  have hrun : (s.keep (slotKey slot 0x2A10 2) 1).runCondition slot = s.runCondition slot :=
    runCondition_congr rfl (nat_putNat_other _ _ (slotKey_ne (by decide)))
  have hstate := enterAuto_state (s := s.keep (slotKey slot 0x2A10 2) 1) (slot_lt hs slot)
  rw [hrun, ← hslot] at hstate
  exact ⟨t, hnext, hheld, hstate, hout⟩

theorem execLoopEnableWrite_manual (hs : s.loops.shaped) (hw : s.writable m (slotKey slot 0x2A10 2) (.num 2) = true)
    (hsrc : s.nat (slotKey slot 0x2A11 1) ≠ 0) (hfree : s.outputTaken slot (s.nat (slotKey slot 0x2A11 6)) = false)
    (hst : (s.slot slot).state ≠ .fault) :
    ∃ t, execLoopEnableWrite m slot 2 s = .next t ∧ t.nat (slotKey slot 0x2A10 2) = 2 ∧ (t.slot slot).state = .manual
      ∧ (t.slot slot).out = s.real (slotKey slot 0x2A10 8) ∧ (t.slot slot).swapPending = false ∧ (t.slot slot).rebase = false
      ∧ (t.slot slot).active = (if (s.slot slot).swapPending then 1 - (s.slot slot).active else (s.slot slot).active)
      ∧ t.out.head? = some (ack m (slotKey slot 0x2A10 2)) := by
  obtain ⟨t, hnext, hheld, hslot, hout⟩ := execLoopEnableWrite_held hw (actLoopEnable_two hsrc hfree hst) (enterManual_keeps ..)
    (enterManual_reachable ..)
  have hto := (enterManual_to (s := s.keep (slotKey slot 0x2A10 2) 2) (slot_lt hs slot)).slot (slot_lt hs slot)
  have hreal : ((s.keep (slotKey slot 0x2A10 2) 2).leaveLive slot).real (slotKey slot 0x2A10 8) = s.real (slotKey slot 0x2A10 8) :=
    real_congr <| (Keeps.nat_slotKey (js := [5]) (leaveLive_keeps ..) slot.isLt).trans (nat_putNat_other _ _ (slotKey_ne (by decide)))
  refine ⟨t, hnext, hheld, ?_⟩
  rw [hslot, hto]
  exact ⟨rfl, hreal, rfl, rfl, rfl, hout⟩

end

/-! ### The commands of the traces (09 R279) -/

section
variable {s : State} {m : Master} {t : Fin 4}

theorem execTraceArm_result (hs : s.loops.shaped) (hw : s.writable m (obj (0x2A90 + t) 7) (.num 1) = true) :
    ∃ t', execTraceArm m t s = .next t'
      ∧ t'.trace t = { state := if s.nat (obj (0x2A90 + t) 6) = 0 then 2 else 1, left := s.nat (obj (0x2A90 + t) 6), boundary := s.tick / 16000 + 1 }
      ∧ t'.out.head? = some (ack m (obj (0x2A90 + t) 7)) := by
  have ht := t.isLt
  have hsame := traceRelease_does s t
  have hpre : (s.traceRelease t).nat (obj (0x2A90 + t) 6) = s.nat (obj (0x2A90 + t) 6) :=
    traceRelease_nat _ (by unfold obj; omega) (by unfold obj; omega)
  have hbound : (s.traceRelease t).traceBoundary = s.tick / 16000 + 1 := congrArg (fun x : TimeSt => x.counter / 16000 + 1) hsame.time_eq
  have hlen : t.val < (s.traceRelease t).loops.traces.length := by
    rw [hsame.loops_eq]
    exact trace_lt hs t
  have hreach : (actTraceArm t s).1.reachable m = s.reachable m :=
    ((setTrace_does ..).reachable_eq m).trans (traceRelease_reachable s t m)
  refine ⟨_, congrArg Host.Outcome.next (write_answered hw rfl hreach), (setTrace_trace_self _ _ _ hlen).trans ?_, rfl⟩
  rw [hpre, hbound]

theorem State.traceTrigger_trace {n : Nat} (hn : n < s.loops.traces.length) (hst : (s.trace n).state = 2) :
    (s.traceTrigger n).trace n =
      { s.trace n with state := 3, left := 16384 - s.nat (obj (0x2A90 + n) 6), trigTick := s.tick } := by
  unfold State.traceTrigger
  dsimp only
  rw [if_neg (not_not.2 hst), setTrace_trace_self _ _ _ hn]

theorem execTraceForceTrigger_result (hs : s.loops.shaped) (hw : s.writable m (obj (0x2A90 + t) 7) (.num 2) = true)
    (hst : (s.trace t).state = 2) :
    ∃ t', execTraceForceTrigger m t s = .next t'
      ∧ t'.trace t = { s.trace t with state := 3, left := 16384 - s.nat (obj (0x2A90 + t) 6), trigTick := s.tick }
      ∧ t'.out = ack m (obj (0x2A90 + t) 7) :: s.out :=
  have hdoes := traceTrigger_does s t
  ⟨_, congrArg Host.Outcome.next (write_accepted hw rfl hdoes), traceTrigger_trace (trace_lt hs t) hst,
    congrArg (ack m (obj (0x2A90 + t) 7) :: ·) hdoes.out_eq⟩

theorem actTraceStop_trace {n : Nat} (hn : n < s.loops.traces.length) :
    (actTraceStop n s).1.trace n = if (s.trace n).state = 4 then s.trace n else { s.trace n with state := 0 } := by
  unfold actTraceStop
  dsimp only
  split
  · rfl
  · exact setTrace_trace_self _ _ _ hn

theorem execTraceStop_result (hs : s.loops.shaped) (hw : s.writable m (obj (0x2A90 + t) 7) (.num 0) = true) :
    ∃ t', execTraceStop m t s = .next t'
      ∧ t'.trace t = (if (s.trace t).state = 4 then s.trace t else { s.trace t with state := 0 })
      ∧ t'.out = ack m (obj (0x2A90 + t) 7) :: s.out :=
  have hdoes := actTraceStop_does t s
  ⟨_, congrArg Host.Outcome.next (write_accepted hw rfl hdoes), actTraceStop_trace (trace_lt hs t),
    congrArg (ack m (obj (0x2A90 + t) 7) :: ·) hdoes.out_eq⟩

end

/-- Settles O20: each command of the loops and the traces from the lemma on its `exec` function. -/
theorem loopCommandResults : Obligations.LoopCommandResults := by
  unfold Obligations.LoopCommandResults
  exact ⟨fun _ _ _ _ _ _ hw hinactive hnone hok => execLoopBankWrite_taken hw hinactive hnone hok,
    fun _ _ _ _ _ hw huse => execLoopBankWrite_refused hw huse, fun _ _ _ hs hw hlive => execLoopBankSwap_pending hs hw hlive,
    fun _ _ _ hs hw hwarm hrun => execLoopBankSwap_atOnce hs hw hwarm hrun,
    fun _ _ _ hs hw hfault hon hrun => execLoopRearm_warmUp hs hw hfault hon hrun,
    fun _ _ _ hs hw hst => execLoopEnableWrite_disables hs hw hst,
    fun _ _ _ hs hw hsrc hfree hst => execLoopEnableWrite_automatic hs hw hsrc hfree hst,
    fun _ _ _ hs hw hsrc hfree hst => execLoopEnableWrite_manual hs hw hsrc hfree hst,
    fun _ _ _ hs hw => execTraceArm_result hs hw, fun _ _ _ hs hw hst => execTraceForceTrigger_result hs hw hst,
    fun _ _ _ hs hw => execTraceStop_result hs hw⟩

end Sys2Proof.Machine
end


section
/-!
The samples of the loop engine: what a boundary computes, what it misses, and what it leaves of its slot and of the dictionary.
-/
set_option Elab.async false
set_option linter.all false

namespace Sys2Proof.Machine

open Sys2Proof State

/-! ### Sources and set-points are read from the inputs (09 R260, R261, R270) -/

section
variable {s t : State}

theorem State.loopInput_congr (hl : t.loops = s.loops) (hc : t.clk = s.clk) (hk : t.nat (obj 0x2A01 0x0A) = s.nat (obj 0x2A01 0x0A)) (i : Nat) :
    t.loopInput i = s.loopInput i := by
  unfold State.loopInput State.fanUpdate
  rw [hl, hc, hk]

theorem State.readSource_congr (hl : t.loops = s.loops) (hc : t.clk = s.clk) (hk : t.nat (obj 0x2A01 0x0A) = s.nat (obj 0x2A01 0x0A))
    (code limit : Nat) : t.readSource code limit = s.readSource code limit := by
  unfold State.readSource
  simp only [loopInput_congr hl hc hk, hc]

variable (s) (n : Nat)

theorem inputKey_ne : obj 0x2A01 0x0A ≠ slotKey n 0x2A17 1 :=
  (by unfold slotKey obj; linarith : obj 0x2A01 0x0A < slotKey n 0x2A17 1).ne

/-- The sample of a slot is counted (09 R258). -/
def State.countSample : State := s.bump (slotKey n 0x2A17 1)

theorem State.countSample_nat {k : Nat} (hk : k ≠ slotKey n 0x2A17 1) : (s.countSample n).nat k = s.nat k := nat_bump_other _ hk

theorem State.countSample_slotKey {i j : Nat} (h : obj i j ≠ obj 0x2A17 1 := by decide) :
    (s.countSample n).nat (slotKey n i j) = s.nat (slotKey n i j) := countSample_nat s n (slotKey_ne h)

theorem State.countSample_does : s.Does [.od] (s.countSample n) := bump_does ..

theorem State.countSample_inputKey : (s.countSample n).nat (obj 0x2A01 0x0A) = s.nat (obj 0x2A01 0x0A) := countSample_nat s n (inputKey_ne n)

theorem State.countSample_loopInput (i : Nat) : (s.countSample n).loopInput i = s.loopInput i :=
  loopInput_congr (countSample_does s n).loops_eq (countSample_does s n).clk_eq (countSample_inputKey s n) i

theorem State.countSample_readSource (code limit : Nat) : (s.countSample n).readSource code limit = s.readSource code limit :=
  readSource_congr (countSample_does s n).loops_eq (countSample_does s n).clk_eq (countSample_inputKey s n) code limit

theorem State.countSample_setPoint (ts : ℚ) : (s.countSample n).setPoint n ts = s.setPoint n ts := by
  have hvariant : (s.countSample n).variant = s.variant := rfl
  have hslot : (s.countSample n).slot n = s.slot n := rfl
  unfold State.setPoint
  rw [hvariant, hslot, real_congr (countSample_slotKey s n (i := 0x2A12) (j := 1)), real_congr (countSample_slotKey s n (i := 0x2A12) (j := 2)),
    real_congr (countSample_slotKey s n (i := 0x2A12) (j := 4)), real_congr (countSample_slotKey s n (i := 0x2A12) (j := 5)),
    countSample_slotKey s n (i := 0x2A12) (j := 3), countSample_loopInput]

end

/-! ### A swap that waits takes effect at the boundary (09 R269) -/

/-- A swap that waits takes effect, and sets I at the next sample that is computed. -/
def State.boundarySwap (s : State) (n : Nat) : State :=
  if (s.slot n).swapPending then (s.swapBank n).setSlot n { (s.swapBank n).slot n with rebase := true } else s

section
variable {s : State} {n : Nat}

theorem State.boundarySwap_to (hn : n < s.loops.slots.length) :
    s.SlotTo n { (s.slot n).settled with rebase := (s.slot n).rebase || (s.slot n).swapPending } (s.boundarySwap n) := by
  unfold State.boundarySwap
  split
  next h =>
    have hswap := swapBank_settled h
    rw [hswap.slot hn, h, Bool.or_true]
    exact hswap.trans (setSlot_to ..)
  next h =>
    have hnone := Bool.eq_false_iff.2 h
    rw [LoopSlot.settled_of_none hnone, hnone, Bool.or_false]
    exact .same hn rfl

theorem State.boundarySwap_keeps (s : State) (n : Nat) : s.Keeps (swapKeys n) (s.boundarySwap n) :=
  .ite (.past (setSlot_does ..) (swapBank_keeps ..)) .same

/-! ### A sample that is missed (09 R262, R271) -/

/-- A slot whose sample was missed: nothing is computed, and the run of missed samples grows. -/
structure LoopSlot.Missed (x y : LoopSlot) : Prop where
  next : y.next = x.next + 1
  stale : y.staleRun = x.staleRun + 1
  nodes : y.nodes = x.nodes

theorem State.missSample_to (hn : n < s.loops.slots.length) (h8 : n < 8) (cause : Nat) :
    ∃ x, s.SlotTo n x (s.missSample n cause) ∧ (s.slot n).Missed x
      ∧ x.state = if s.nat (slotKey n 0x2A11 5) ≤ (s.slot n).staleRun + 1 then .fault else (s.slot n).state := by
  unfold State.missSample
  extract_lets src s1 x s2
  have h1 : s.SlotTo n _ s1 := boundarySwap_to hn
  have hx : x = _ := h1.slot hn
  have h2 : s.SlotTo n { x with next := x.next + 1, staleRun := x.staleRun + 1 } s2 := h1.trans (setSlot_to ..)
  have hkeeps : s.Keeps (loopKeys n [2, 5]) s2 :=
    .via (bump_keeps ..) (.past (setSlot_does ..) (.of (boundarySwap_keeps s n) (by simp))) (by simp)
  have hstale : x.staleRun = (s.slot n).staleRun := (congrArg LoopSlot.staleRun hx :)
  rw [hkeeps.nat_slotKey h8, hstale]
  split
  · obtain ⟨v, hfault⟩ := loopFault_to (h2.lt hn) cause
    refine ⟨_, (h2.trans hfault).past (congrArg Loops.slots (raise_does ..).loops_eq), ?_, rfl⟩
    rw [h2.slot hn, hx]
    exact ⟨rfl, rfl, rfl⟩
  · refine ⟨_, h2, ?_, ?_⟩
    · rw [hx]
      exact ⟨rfl, rfl, rfl⟩
    · rw [hx]
      rfl

theorem State.missSample_keeps (s : State) (n cause : Nat) : s.Keeps (loopKeys n [2, 4, 5]) (s.missSample n cause) := by
  unfold State.missSample
  extract_lets src s1 x s2
  have h2 : s.Keeps (loopKeys n [2, 4, 5]) s2 :=
    .via (bump_keeps ..) (.past (setSlot_does ..) (.of (boundarySwap_keeps s n) (by simp))) (by simp)
  exact .ite (.via (raise_keeps ..) (.via (loopFault_keeps ..) h2 (by simp)) (by simp)) h2

theorem State.missSample_counts (h8 : n < 8) (cause : Nat) :
    (s.missSample n cause).nat (slotKey n 0x2A17 2) = s.counted (slotKey n 0x2A17 2) := by
  unfold State.missSample
  extract_lets src s1 x s2
  have hcounted : s2.nat (slotKey n 0x2A17 2) = s.counted (slotKey n 0x2A17 2) := by
    refine (nat_bump_self ..).trans ?_
    have h1 : s1.nat (slotKey n 0x2A17 2) = s.nat (slotKey n 0x2A17 2) := Keeps.nat_slotKey (js := [5]) (boundarySwap_keeps s n) h8
    rw [State.counted, (setSlot_does ..).nat_eq, h1]
  have hfault : s2.Keeps (loopKeys n [4, 5]) ((s2.loopFault n cause).raise (loopFaultEvent n cause) n) :=
    .via (raise_keeps ..) (loopFault_keeps ..) (by simp)
  split
  · exact (hfault.nat_slotKey h8).trans hcounted
  · exact hcounted

/-! ### A sample that is computed (09 R266) -/

/-- A slot whose sample was computed: the nodes are y_s, y, r, e, P, I, D, FF and v first. -/
structure LoopSlot.Computed (x : LoopSlot) (next : Nat) (ys r : ℚ) : Prop where
  next : x.next = next
  stale : x.staleRun = 0
  measured : x.nodes.getD 0 0 = ys
  setPoint : x.nodes.getD 2 0 = r
  error : x.nodes.getD 3 0 = r - x.nodes.getD 1 0
  sum : x.nodes.getD 8 0 = x.nodes.getD 4 0 + x.nodes.getD 5 0 + x.nodes.getD 6 0 + x.nodes.getD 7 0

/-- A slot written, its output driven, and a counter raised where it is due. -/
theorem State.setSlot_driveOut_bump_to (hn : n < s.loops.slots.length) (x : LoopSlot) (v : ℚ) (c : Prop) [Decidable c] (k : Nat) :
    s.SlotTo n { x with out := v } (if c then ((s.setSlot n x).driveOut n v).bump k else (s.setSlot n x).driveOut n v) := by
  split
  · exact setSlot_driveOut_to hn x v
  · exact setSlot_driveOut_to hn x v

theorem State.computeSample_to (hn : n < s.loops.slots.length) (ys r : ℚ) :
    ∃ x, s.SlotTo n x (s.computeSample n ys r).1 ∧ x.Computed ((s.slot n).next + 1) ys r := by
  unfold State.computeSample
  extract_lets +onlyGivenNames src s1 x0 done x
  have h1 : s.SlotTo n _ s1 := boundarySwap_to hn
  have hx0 : x0.next = (s.slot n).next := (congrArg LoopSlot.next (h1.slot hn) :)
  have hx : x.next = (s.slot n).next := by
    rw [← hx0]
    unfold x
    split <;> rfl
  clear_value x
  extract_lets
  exact ⟨_, h1.trans (setSlot_driveOut_bump_to (h1.lt hn) _ _ _ _), congrArg (· + 1) hx, rfl, rfl, rfl, rfl, rfl⟩

theorem State.computeSample_keeps (s : State) (n : Nat) (ys r : ℚ) : s.Keeps (loopKeys n [3, 5]) (s.computeSample n ys r).1 := by
  unfold State.computeSample
  extract_lets +onlyGivenNames src s1 x0 done x
  have h1 : s.Keeps (loopKeys n [3, 5]) s1 := .of (boundarySwap_keeps s n) (by simp)
  clear_value x s1
  extract_lets
  have hdriven : ∀ (y : LoopSlot) (v : ℚ), s.Keeps (loopKeys n [3, 5]) ((s1.setSlot n y).driveOut n v) :=
    fun y v => .past (driveOut_does ..) (.past (setSlot_does ..) h1)
  exact .ite (.via (bump_keeps ..) (hdriven ..) (by simp)) (hdriven ..)

/-! ### A sample of a slot in warm-up or running (09 R259) -/

/-- What follows a computed sample: the event of the end of warm-up, and the fault of a residual that stays high (09 R274, R275). -/
def State.checkSample (c : State × Bool) (n : Nat) : State :=
  let s := if c.2 then c.1.raise (0x8001 + 0x100 * n) n else c.1
  if s.nat (slotKey n 0x2A15 8) ≤ (s.slot n).residRun ∧ 0 < (s.slot n).residRun then (s.loopFault n 3).raise (loopFaultEvent n 3) n else s

theorem State.checkSample_to {c : State × Bool} {x : LoopSlot} {a : Nat} {ys r : ℚ} (hto : s.SlotTo n x c.1) (hx : x.Computed a ys r)
    (hn : n < s.loops.slots.length) : ∃ y, s.SlotTo n y (State.checkSample c n) ∧ y.Computed a ys r := by
  unfold State.checkSample
  extract_lets s1
  have h1 : s.SlotTo n x s1 := by
    refine hto.past ?_
    unfold s1
    split
    · exact congrArg Loops.slots (raise_does ..).loops_eq
    · rfl
  split
  · obtain ⟨v, hfault⟩ := loopFault_to (h1.lt hn) 3
    rw [h1.slot hn] at hfault
    exact ⟨_, (h1.trans hfault).past (congrArg Loops.slots (raise_does ..).loops_eq),
      hx.next, hx.stale, hx.measured, hx.setPoint, hx.error, hx.sum⟩
  · exact ⟨x, h1, hx⟩

theorem State.checkSample_keeps (c : State × Bool) (n : Nat) : c.1.Keeps (loopKeys n [4, 5]) (State.checkSample c n) := by
  unfold State.checkSample
  extract_lets s1
  have h1 : c.1.Keeps (loopKeys n [4, 5]) s1 := .ite (.of (raise_keeps ..) (by simp)) .same
  exact .ite (.via (raise_keeps ..) (.via (loopFault_keeps ..) h1 (by simp)) (by simp)) h1

theorem State.liveSample_of_fault
    (hsrc : (s.countSample n).readSource ((s.countSample n).nat (slotKey n 0x2A11 1)) ((s.countSample n).nat (slotKey n 0x2A11 4)) = .fault) :
    s.liveSample n = (s.countSample n).missSample n 1 := by
  unfold State.countSample at hsrc
  unfold State.liveSample
  dsimp only
  rw [hsrc]
  rfl

theorem State.liveSample_of_ok {v r : ℚ}
    (hsrc : (s.countSample n).readSource ((s.countSample n).nat (slotKey n 0x2A11 1)) ((s.countSample n).nat (slotKey n 0x2A11 4)) = .ok v)
    (hset : (s.countSample n).setPoint n (((s.countSample n).nat (slotKey n 0x2A10 6) : ℚ) / secTicks) = some r) :
    s.liveSample n = State.checkSample ((s.countSample n).computeSample n
      ((s.countSample n).real (slotKey n 0x2A11 2) * v + (s.countSample n).real (slotKey n 0x2A11 3)) r) n := by
  unfold State.countSample at hsrc hset
  unfold State.liveSample
  dsimp only
  rw [hsrc]
  dsimp only
  rw [hset]
  rfl

/-- A sample is missed, or computed and checked. -/
theorem State.liveSample_cases (s : State) (n : Nat) : (∃ cause, s.liveSample n = (s.countSample n).missSample n cause)
    ∨ ∃ ys r, s.liveSample n = State.checkSample ((s.countSample n).computeSample n ys r) n := by
  cases hsrc : (s.countSample n).readSource ((s.countSample n).nat (slotKey n 0x2A11 1)) ((s.countSample n).nat (slotKey n 0x2A11 4)) with
  | fault => exact .inl ⟨1, liveSample_of_fault hsrc⟩
  | ok v =>
    cases hset : (s.countSample n).setPoint n (((s.countSample n).nat (slotKey n 0x2A10 6) : ℚ) / secTicks) with
    | some r => exact .inr ⟨_, r, liveSample_of_ok hsrc hset⟩
    | none =>
      refine .inl ⟨4, ?_⟩
      unfold State.countSample at hsrc hset
      unfold State.liveSample
      dsimp only
      rw [hsrc]
      dsimp only
      rw [hset]
      rfl
  | stale =>
    unfold State.countSample at hsrc
    unfold State.liveSample
    dsimp only
    rw [hsrc]
    dsimp only
    split
    · exact .inl ⟨4, rfl⟩
    · exact .inl ⟨2, rfl⟩

theorem State.liveSample_next (hn : n < s.loops.slots.length) (h8 : n < 8) :
    ∃ x, s.SlotTo n x (s.liveSample n) ∧ x.next = (s.slot n).next + 1 := by
  rcases liveSample_cases s n with ⟨cause, h⟩ | ⟨ys, r, h⟩
  · obtain ⟨x, hto, hmissed, -⟩ := missSample_to (s := s.countSample n) hn h8 cause
    exact ⟨x, h ▸ hto, hmissed.next⟩
  · obtain ⟨x, hto, hx⟩ := computeSample_to (s := s.countSample n) hn ys r
    obtain ⟨y, hyto, hy⟩ := checkSample_to hto hx hn
    exact ⟨y, h ▸ hyto, hy.next⟩

theorem State.liveSample_counts (h8 : n < 8) : (s.liveSample n).nat (slotKey n 0x2A17 1) = s.counted (slotKey n 0x2A17 1) := by
  refine Eq.trans ?_ (nat_bump_self ..)
  rcases liveSample_cases s n with ⟨cause, h⟩ | ⟨ys, r, h⟩
  · rw [h]
    exact (missSample_keeps ..).nat_slotKey h8
  · rw [h]
    exact ((checkSample_keeps ..).nat_slotKey h8).trans ((computeSample_keeps ..).nat_slotKey h8)

end

end Sys2Proof.Machine
end


section
/-!
The boundaries of the loops and of the traces, and PIN0.
-/
set_option Elab.async false
set_option linter.all false

namespace Sys2Proof.Machine

open Sys2Proof State

/-! ### LOOP_SAMPLE (09 R258, R259) -/

/-- The slot's next boundary has come, and AIN0 to AIN3 are read. -/
def State.atSample (s : State) (n : Nat) (ains : List Int) : State :=
  (s.atTick (s.nat (slotKey n 0x2A10 7) + (s.slot n).next * s.nat (slotKey n 0x2A10 6))).readAins ains

section
variable {s : State} {n : Nat} {slot : Fin 8} {ains : List Int}

theorem State.atSample_nat (s : State) (n : Nat) (ains : List Int) (k : Nat) : (s.atSample n ains).nat k = s.nat k :=
  ((readAins_does ..).nat_eq k).trans ((atTick_does ..).nat_eq k)

/-- A boundary of a trace's clock (09 R278): the trigger node is read, and the boundary counts towards the decimation. -/
def State.passBoundary (s : State) (t : Nat) : State :=
  s.setTrace t { s.trace t with last := some (s.nodeValue (s.nat (obj (0x2A90 + t) 4))), skipped := (s.trace t).skipped + 1 }

/-- The clock of a trace that neither is stopped nor complete counts a boundary, and may trigger. -/
theorem State.traceClock_cases (s : State) (t : Nat) : ((s.trace t).state = 0 ∨ (s.trace t).state = 4) ∧ s.traceClock t = s
    ∨ s.traceClock t = s.passBoundary t ∨ s.traceClock t = (s.passBoundary t).traceTrigger t := by
  unfold State.traceClock
  extract_lets x v level rise fall mode fire s1
  split
  next h => exact .inl ⟨h, rfl⟩
  · split
    · exact .inr (.inr rfl)
    · exact .inr (.inl rfl)

theorem State.traceClock_slots (s : State) (t : Nat) : (s.traceClock t).loops.slots = s.loops.slots := by
  rcases traceClock_cases s t with ⟨-, h⟩ | h | h
  · rw [h]
  · rw [h]
    rfl
  · rw [h, traceTrigger_slots]
    rfl

theorem State.atSample_slotKey {i j : Nat} (h : obj i j ≠ obj 0x2A17 1 := by decide) :
    ((s.atSample n ains).countSample n).nat (slotKey n i j) = s.nat (slotKey n i j) :=
  (countSample_slotKey _ _ h).trans (atSample_nat ..)

theorem State.tracesOfSlot_slots (s : State) (n : Nat) : (s.tracesOfSlot n).loops.slots = s.loops.slots := by
  unfold State.tracesOfSlot
  refine foldl_same (·.loops.slots) (fun t i => ?_) _ s
  split
  · exact traceClock_slots ..
  · rfl

/-- Beyond the sample itself, a boundary in warm-up or running reaches the tally and the traces alone. -/
theorem execLoopSample_live (hlive : (s.slot slot).state = .warmUp ∨ (s.slot slot).state = .running) (hrun : s.timeRuns = true)
    (hgo : s.loops.stopped = false) :
    ∃ t, execLoopSample slot ains s = .next t ∧ t.loops.slots = ((s.atSample slot ains).liveSample slot).loops.slots
      ∧ ∀ k, t.nat k = ((s.atSample slot ains).liveSample slot).nat k := by
  have hexec : execLoopSample slot ains s = .next
      ((((s.atSample slot ains).liveSample slot).sample (13 + slot) (((s.atSample slot ains).liveSample slot).slot slot).y).tracesOfSlot slot) := by
    unfold execLoopSample
    dsimp only
    rw [if_neg (by rw [hrun, hgo]; exact nofun)]
    rcases hlive with h | h
    · rw [h]
      rfl
    · rw [h]
      rfl
  exact ⟨_, hexec, (tracesOfSlot_slots ..).trans (congrArg Loops.slots (sample_does ..).loops_eq),
    fun k => ((tracesOfSlot_does ..).nat_eq k).trans ((sample_does ..).nat_eq k)⟩

theorem execLoopSample_result (hs : s.loops.shaped) (hlive : (s.slot slot).state = .warmUp ∨ (s.slot slot).state = .running)
    (hrun : s.timeRuns = true) (hgo : s.loops.stopped = false) :
    ∃ t, execLoopSample slot ains s = .next t ∧ (t.slot slot).next = (s.slot slot).next + 1
      ∧ t.nat (slotKey slot 0x2A17 1) = s.counted (slotKey slot 0x2A17 1)
      ∧ ∀ x r, (s.atSample slot ains).readSource (s.nat (slotKey slot 0x2A11 1)) (s.nat (slotKey slot 0x2A11 4)) = .ok x →
        (s.atSample slot ains).setPoint slot ((s.nat (slotKey slot 0x2A10 6) : ℚ) / secTicks) = some r →
        (t.slot slot).Computed ((s.slot slot).next + 1) (s.real (slotKey slot 0x2A11 2) * x + s.real (slotKey slot 0x2A11 3)) r := by
  obtain ⟨t, hnext, hslots, hnat⟩ := execLoopSample_live (ains := ains) hlive hrun hgo
  have hn : slot.val < (s.atSample slot ains).loops.slots.length := slot_lt hs slot
  have hslot : t.slot slot = ((s.atSample slot ains).liveSample slot).slot slot := slot_eq hslots slot
  obtain ⟨x, hto, hx⟩ := liveSample_next hn slot.isLt
  refine ⟨t, hnext, ?_, ?_, fun v r hsrc hset => ?_⟩
  · rw [hslot, hto.slot hn, hx]
    rfl
  · rw [hnat, liveSample_counts slot.isLt, State.counted, atSample_nat]
  · have hcomputed := liveSample_of_ok (s := s.atSample slot ains) (n := slot) (v := v) (r := r)
      (by rw [countSample_readSource, atSample_slotKey, atSample_slotKey, hsrc])
      (by rw [countSample_setPoint, atSample_slotKey, hset])
    obtain ⟨x, hto, hx⟩ := computeSample_to (s := (s.atSample slot ains).countSample slot) hn
      (((s.atSample slot ains).countSample slot).real (slotKey slot 0x2A11 2) * v
        + ((s.atSample slot ains).countSample slot).real (slotKey slot 0x2A11 3)) r
    obtain ⟨y, hyto, hy⟩ := checkSample_to hto hx hn
    rw [← hcomputed] at hyto
    rw [hslot, hyto.slot hn]
    rw [real_congr (atSample_slotKey (i := 0x2A11) (j := 2)), real_congr (atSample_slotKey (i := 0x2A11) (j := 3))] at hy
    exact hy

theorem execLoopSample_sourceFault (hs : s.loops.shaped) (hlive : (s.slot slot).state = .warmUp ∨ (s.slot slot).state = .running)
    (hrun : s.timeRuns = true) (hgo : s.loops.stopped = false) (hsrc : s.nat (slotKey slot 0x2A11 1) = 1)
    (hfault : ((s.atSample slot ains).loopInput 0).fault = true) :
    ∃ t, execLoopSample slot ains s = .next t ∧ (s.slot slot).Missed (t.slot slot)
      ∧ t.nat (slotKey slot 0x2A17 2) = s.counted (slotKey slot 0x2A17 2)
      ∧ (t.slot slot).state = if s.nat (slotKey slot 0x2A11 5) ≤ (s.slot slot).staleRun + 1 then .fault else (s.slot slot).state := by
  obtain ⟨t, hnext, hslots, hnat⟩ := execLoopSample_live (ains := ains) hlive hrun hgo
  have hn : slot.val < (s.atSample slot ains).loops.slots.length := slot_lt hs slot
  have hslot : t.slot slot = ((s.atSample slot ains).liveSample slot).slot slot := slot_eq hslots slot
  have hread : ∀ limit, (s.atSample slot ains).readSource 1 limit = .fault := fun limit => if_pos hfault
  have hmissed := liveSample_of_fault (s := s.atSample slot ains) (n := slot)
    (by rw [countSample_readSource, atSample_slotKey, hsrc, hread])
  obtain ⟨x, hto, hx, hstate⟩ := missSample_to (s := (s.atSample slot ains).countSample slot) hn slot.isLt 1
  rw [← hmissed] at hto
  rw [atSample_slotKey] at hstate
  refine ⟨t, hnext, ?_, ?_, ?_⟩
  · rw [hslot, hto.slot hn]
    exact hx
  · rw [hnat, hmissed, missSample_counts slot.isLt, State.counted, atSample_slotKey]
  · rw [hslot, hto.slot hn]
    exact hstate

/-! ### PIN0_PULSE (09 R260) -/

theorem execPin0Pulse_frequency {tick u : Nat} (hs : s.loops.shaped) (hup : s.module.mainUp = true) (hrun : s.timeRuns = true)
    (hpin : s.loops.pinTick = some u) (hlater : u < tick) (hclk : s.time.counter ≤ tick) :
    ∃ t, execPin0Pulse tick s = .next t ∧ t.loops.pinTick = some tick
      ∧ (t.loops.inputs.getD 4 {}).value = (secTicks : ℚ) / ((tick - u : Nat) : ℚ) ∧ (t.loops.inputs.getD 4 {}).at_ = some t.clk
      ∧ t.time.counter = tick := by
  have hlen : 4 < s.loops.inputs.length := by
    rw [hs.2.1]
    decide
  have htick : (s.atTick tick).tick = tick := atTick_counter hrun hclk
  have hpinned : (s.atTick tick).loops.pinTick = some u := hpin
  unfold execPin0Pulse
  rw [if_neg (by rw [hup]; exact nofun)]
  dsimp only
  rw [hpinned, htick]
  dsimp only
  rw [if_pos hlater]
  have hread := fun x : LoopInput => getD_set_self (s.atTick tick).loops.inputs 4 x {} hlen
  exact ⟨_, rfl, rfl, congrArg LoopInput.value (hread _), congrArg LoopInput.at_ (hread _), htick⟩

/-! ### TRACE_SAMPLE (09 R278) -/

/-- A trace that has stored a sample. -/
def Trace.stored (x : Trace) (v : Nat) : Trace :=
  { x with
    ring := assocSet x.ring x.head v, head := (x.head + 1) % 16384, valid := min 16384 (x.valid + 1), skipped := 0, left := x.left - 1 }

/-- A sample that is due, and completes neither the pre-trigger count nor the buffer, is stored. -/
theorem State.traceStore_stores {t : Nat} (hst : (s.trace t).state = 2 ∨ (s.trace t).state = 1 ∧ 1 < (s.trace t).left)
    (hdue : s.nat (obj (0x2A90 + t) 2) ≤ (s.trace t).skipped) :
    s.traceStore t = s.setTrace t ((s.trace t).stored (r32Of (s.nodeValue (s.nat (obj (0x2A90 + t) 1))))) := by
  unfold State.traceStore
  dsimp only
  rw [if_neg (by omega), if_neg (by omega), if_neg (by omega)]
  rfl

theorem execTraceSample_node {t : Fin 4} (hs : s.loops.shaped) (hst : (s.trace t).state = 2) (hrun : s.timeRuns = true)
    (hnode : s.nat (obj (0x2A90 + t) 1) / 256 ≠ 0xFE) (hdue : s.nat (obj (0x2A90 + t) 2) ≤ (s.trace t).skipped) :
    ∃ t', execTraceSample t ains s = .next t'
      ∧ t'.trace t = (s.trace t).stored (r32Of (s.nodeValue (s.nat (obj (0x2A90 + t) 1)))) := by
  have hexec : execTraceSample t ains s = .next (s.traceStore t) := by
    unfold execTraceSample
    dsimp only
    rw [if_neg (by rw [hst, hrun]; decide), if_neg hnode]
  refine ⟨_, hexec, ?_⟩
  rw [traceStore_stores (.inl hst) hdue, setTrace_trace_self _ _ _ (trace_lt hs t)]

/-! ### A trace of an engine input (09 R278) -/

/-- From `s` to `u` a trace that fills before its trigger has passed `j` boundaries of the 50 kHz clock, none ahead of local time, and stored
nothing. -/
structure State.Passed (s : State) (t j : Nat) (u : State) : Prop where
  state : (u.trace t).state = 1
  boundary : (u.trace t).boundary = (s.trace t).boundary + j
  skipped : (u.trace t).skipped = (s.trace t).skipped + j
  left : (u.trace t).left = (s.trace t).left
  valid : (u.trace t).valid = (s.trace t).valid
  reached : u.time.counter ≤ 16000 * (u.trace t).boundary
  runs : u.timeRuns = true
  length : u.loops.traces.length = s.loops.traces.length
  nat : ∀ k, u.nat k = s.nat k

section
variable {t j : Nat} {u : State}

/-- A trace that fills before its trigger does not trigger. -/
theorem State.traceClock_fills (ht : t < u.loops.traces.length) (h : (u.trace t).state = 1) :
    ∃ last, (u.traceClock t).trace t = { u.trace t with last := last, skipped := (u.trace t).skipped + 1 }
      ∧ (u.traceClock t).loops.traces.length = u.loops.traces.length := by
  have hpassed : (u.passBoundary t).trace t = _ := setTrace_trace_self _ _ _ ht
  have hclock : u.traceClock t = u.passBoundary t := by
    rcases traceClock_cases u t with ⟨hstopped, -⟩ | hpass | htrigger
    · omega
    · exact hpass
    · rw [htrigger]
      exact if_pos (by rw [hpassed, h]; decide)
  rw [hclock]
  exact ⟨_, hpassed, List.length_set ..⟩

theorem State.traceTick_counter (hrun : u.timeRuns = true) (h : u.time.counter ≤ 16000 * (u.trace t).boundary) (ains : List Int) :
    (u.traceTick t ains).time.counter = 16000 * (u.trace t).boundary := by
  unfold State.traceTick
  dsimp only
  rw [(setTrace_does ..).time_eq, (traceClock_does ..).time_eq, (readAins_does ..).time_eq, atTick_counter hrun h]

theorem State.traceTick_fills (ht : t < u.loops.traces.length) (h : (u.trace t).state = 1) (ains : List Int) :
    ∃ last, (u.traceTick t ains).trace t =
        { u.trace t with last := last, skipped := (u.trace t).skipped + 1, boundary := (u.trace t).boundary + 1 }
      ∧ (u.traceTick t ains).loops.traces.length = u.loops.traces.length := by
  obtain ⟨last, htrace, hlen⟩ := traceClock_fills (u := (u.atTick (16000 * (u.trace t).boundary)).readAins ains) ht h
  unfold State.traceTick
  dsimp only
  rw [setTrace_trace_self _ _ _ (hlen.symm ▸ ht), htrace]
  exact ⟨last, rfl, (List.length_set ..).trans hlen⟩

theorem State.Passed.tick (h : s.Passed t j u) (ht : t < s.loops.traces.length) (ains : List Int) :
    s.Passed t (j + 1) (u.traceTick t ains) := by
  have htu : t < u.loops.traces.length := h.length.symm ▸ ht
  have hdoes := traceTick_does u t ains
  obtain ⟨last, htrace, hlen⟩ := traceTick_fills htu h.state ains
  refine ⟨?_, ?_, ?_, ?_, ?_, ?_, ?_, ?_, fun k => (hdoes.nat_eq k).trans (h.nat k)⟩
  · rw [htrace]
    exact h.state
  · rw [htrace, h.boundary]
    rfl
  · rw [htrace, h.skipped]
    rfl
  · rw [htrace]
    exact h.left
  · rw [htrace]
    exact h.valid
  · rw [traceTick_counter h.runs h.reached, htrace]
    exact Nat.mul_le_mul_left _ (Nat.le_succ _)
  · exact (congrArg Module.mainUp hdoes.module_eq).trans h.runs
  · rw [hlen, h.length]

theorem State.Passed.ticks (h : s.Passed t 0 s) (ht : t < s.loops.traces.length) (ains : Nat → List Int) (c : Nat) :
    s.Passed t c ((List.range c).foldl (fun u i => u.traceTick t (ains i)) s) := by
  induction c with
  | zero => exact h
  | succ c ih =>
    rw [List.range_succ, List.foldl_append]
    exact ih.tick ht _

end

theorem execTraceSample_input {t : Fin 4} (hs : s.loops.shaped) (hst : (s.trace t).state = 1) (hrun : s.timeRuns = true)
    (hnode : s.nat (obj (0x2A90 + t) 1) / 256 = 0xFE) (hleft : 1 < (s.trace t).left)
    (hdue : (s.trace t).skipped < s.nat (obj (0x2A90 + t) 2)) (hclk : s.time.counter ≤ 16000 * (s.trace t).boundary) :
    ∃ t', execTraceSample t ains s = .next t'
      ∧ t'.time.counter = 16000 * ((s.trace t).boundary + (s.nat (obj (0x2A90 + t) 2) - (s.trace t).skipped - 1))
      ∧ (t'.trace t).boundary = (s.trace t).boundary + (s.nat (obj (0x2A90 + t) 2) - (s.trace t).skipped)
      ∧ (t'.trace t).left = (s.trace t).left - 1
      ∧ (t'.trace t).valid = min 16384 ((s.trace t).valid + 1)
      ∧ (t'.trace t).state = 1 := by
  obtain ⟨c, hc⟩ := Nat.exists_eq_add_of_lt hdue
  have hcount : max 1 (s.nat (obj (0x2A90 + t) 2)) - (s.trace t).skipped = c + 1 := by omega
  have hlast : s.nat (obj (0x2A90 + t) 2) - (s.trace t).skipped - 1 = c := by omega
  have hall : s.nat (obj (0x2A90 + t) 2) - (s.trace t).skipped = c + 1 := by omega
  have ht := trace_lt hs t
  have hexec : execTraceSample t ains s =
      .next (((List.range (c + 1)).foldl (fun u j => u.traceTick t ((ains.drop (4 * j)).take 4)) s).traceStore t) := by
    unfold execTraceSample
    dsimp only
    rw [if_neg (by rw [hst, hrun]; decide), if_pos hnode, hcount]
  have hstart : s.Passed t 0 s := ⟨hst, rfl, rfl, rfl, rfl, hclk, hrun, rfl, fun _ => rfl⟩
  have hbefore := hstart.ticks ht (fun j => (ains.drop (4 * j)).take 4) c
  have hpassed := hbefore.tick ht ((ains.drop (4 * c)).take 4)
  have hcounter := traceTick_counter hbefore.runs hbefore.reached ((ains.drop (4 * c)).take 4)
  rw [List.range_succ, List.foldl_append, List.foldl_cons, List.foldl_nil] at hexec
  generalize State.traceTick _ t _ = u at hexec hpassed hcounter
  have htu : t.val < u.loops.traces.length := hpassed.length.symm ▸ ht
  have hstore := traceStore_stores (.inr ⟨hpassed.state, by rw [hpassed.left]; exact hleft⟩)
    (by rw [hpassed.nat, hpassed.skipped, hc, Nat.add_assoc])
  rw [hstore] at hexec
  refine ⟨_, hexec, ?_, ?_, ?_, ?_, ?_⟩
  · rw [hlast, (setTrace_does ..).time_eq, hcounter, hbefore.boundary]
  · rw [hall, setTrace_trace_self _ _ _ htu]
    exact hpassed.boundary
  · rw [setTrace_trace_self _ _ _ htu, ← hpassed.left]
    rfl
  · rw [setTrace_trace_self _ _ _ htu, ← hpassed.valid]
    rfl
  · rw [setTrace_trace_self _ _ _ htu]
    exact hpassed.state

end

/-- Settles O19: each event of the loops and the traces from the lemma on its `exec` function. -/
theorem loopSampleResults : Obligations.LoopSampleResults := by
  unfold Obligations.LoopSampleResults
  refine ⟨fun slot ains s hs hlive hrun hgo => ?_, fun slot ains s hs hlive hrun hgo hsrc hfault => ?_,
    fun _ _ _ hs hup hrun hpin hlater hclk => execPin0Pulse_frequency hs hup hrun hpin hlater hclk,
    fun _ _ _ hs hst hrun hnode hdue => execTraceSample_node hs hst hrun hnode hdue,
    fun _ _ _ hs hst hrun hnode hleft hdue hclk => execTraceSample_input hs hst hrun hnode hleft hdue hclk⟩
  · obtain ⟨t, hexec, hnext, hcount, hcomputed⟩ := execLoopSample_result (ains := ains) hs hlive hrun hgo
    refine ⟨t, hexec, hnext, hcount, fun x r hread hset => ?_⟩
    obtain ⟨-, hstale, hmeasured, hpoint, herror, hsum⟩ := hcomputed x r hread hset
    exact ⟨hmeasured, hpoint, herror, hsum, hstale⟩
  · obtain ⟨t, hexec, ⟨hnext, hstale, hnodes⟩, hcount, hstate⟩ := execLoopSample_sourceFault hs hlive hrun hgo hsrc hfault
    exact ⟨t, hexec, hnext, hstale, hnodes, hcount, hstate⟩

end Sys2Proof.Machine
end


section
/-!
A driver's pair whose saturation event overwrites the bytes its image is read from: the refutation of the driver's results.
-/
set_option Elab.async false
set_option linter.all false

namespace Sys2Proof.Machine

open Sys2Proof State

/-- The number of an image slot whose object is the count of events lost to the island buffer, 0x2D02:0F. -/
def strayImage : Nat := obj 0x2D02 0x0F - obj 0x2B10 0

/-- A waveform table (10 R287) with two pairs from level 0 to level 1, the first with all 16 scans driven, and no pair from level 0 to level 0. -/
def strayTable : List Byte := List.replicate 0x41 0#8 ++ 2#8 :: List.replicate 0x11F 0#8 ++ [0x40#8]

/-- The update of one cell towards that image, in its first pair since clock 0. -/
def strayRun : RegionRun := { req := { target := .image strayImage }, pairAt := some 0 }

/-- The update runs in slot 0; its cell's charge saturates with the pair; the island buffer is full of events at S2; and the dictionary holds bytes
for the counter 0x2D02:0F. -/
def strayTarget : State :=
  { State.reset with
    od := [(obj 0x2B01 3, .num 0), (obj 0x2B03 1, .bytes strayTable), (obj 0x2B04 1, .bytes []),
      (obj 0x2D02 0x0F, .bytes (List.replicate 0x20 0#8 ++ [1#8]))]
    backdrop := { State.reset.backdrop with
      panels := [{ charge := [(cellKey 0 0, 32767)] }, {}], slots := { run := some strayRun } :: List.replicate 7 {} }
    recorder := { State.reset.recorder with toIsland := true, island := List.replicate 128 ⟨0, 2, 0, 0⟩ } }

/-- The update of slot 0 in the next state. -/
def slotRun : Host.Outcome State Fault Refusal → Option (Option RegionRun)
  | .next t => some (t.backdrop.slots.getD 0 {}).run
  | _ => none

set_option maxRecDepth 20000 in
theorem runPairs_strayTarget : strayTarget.runPairs strayRun = 2 := by decide

set_option maxRecDepth 20000 in
theorem slotRun_pairComplete : slotRun (exec (.pairComplete 0) strayTarget) = some none := by decide

theorem strayTarget_shaped : strayTarget.backdrop.shaped := ⟨rfl, rfl, rfl⟩

/-- Refutes O22: the image number of a request may name the event counter 0x2D02:0F. Where the dictionary holds bytes for it, the event of the pair's
saturation counts there, the image then reads as empty and the update ends with a pair left. -/
theorem not_panelDriverResults : ¬ Obligations.PanelDriverResults := by
  rintro ⟨-, -, hpair, -⟩
  obtain ⟨t, ht, -, hrun⟩ := hpair 0 strayRun 0 strayTarget strayTarget_shaped (by decide) rfl rfl (Nat.zero_le _) rfl rfl
    (by rw [runPairs_strayTarget]; decide)
  have h : some (some { strayRun with pairs := 1, pairAt := some t.clk }) = some none :=
    (congrArg some hrun).symm.trans ((congrArg slotRun ht).symm.trans slotRun_pairComplete)
  exact absurd h (by simp)

end Sys2Proof.Machine
end


section
/-!
A sealed block (10 R288, R290): its header, its seal and its body; and the trim map whose write sets the other panel's map too.
-/
set_option Elab.async false
set_option linter.all false

namespace Sys2Proof.Machine

open Sys2Proof State

/-! ### Lengths and sizes -/

@[simp] theorem leBytes_length (n v : Nat) : (leBytes n v).length = n := by
  induction n generalizing v with
  | zero => rfl
  | succ n ih => rw [leBytes, List.length_cons, ih]

theorem ofLe_leBytes {n v : Nat} (h : v < 256 ^ n) : ofLe (leBytes n v) = v := by
  induction n generalizing v with
  | zero => rw [pow_zero] at h; exact (Nat.lt_one_iff.1 h).symm
  | succ n ih =>
    have hdiv : v / 256 < 256 ^ n := Nat.div_lt_of_lt_mul (by rwa [pow_succ'] at h)
    rw [leBytes, ofLe, ih hdiv, BitVec.toNat_ofNat, Nat.mod_mod, Nat.mod_add_div]

theorem crc32Shift_lt (k : Nat) {c : Nat} (h : c < 2 ^ 32) : crc32Shift k c < 2 ^ 32 := by
  induction k generalizing c with
  | zero => exact h
  | succ k ih =>
    have hhalf : c / 2 < 2 ^ 32 := by omega
    refine ih ?_
    split
    · exact Nat.xor_lt_two_pow hhalf (by decide)
    · exact hhalf

theorem crc32_lt (l : List Byte) : crc32 l < 2 ^ 32 := by
  refine Nat.xor_lt_two_pow (List.foldlRecOn (motive := (· < 2 ^ 32)) l _ (by decide) fun c hc b _ => ?_) (by decide)
  exact crc32Shift_lt 8 (Nat.xor_lt_two_pow hc (b.isLt.trans (by decide)))

theorem xorBlock_length (a b : List Nat) : (xorBlock a b).length = min a.length b.length := List.length_zipWith

theorem shiftRows_length (s : List Nat) : (shiftRows s).length = 16 := by rw [shiftRows, List.length_map, List.length_range]

theorem mixColumns_length (s : List Nat) : (mixColumns s).length = 16 := by rw [mixColumns, List.length_map, List.length_range]

theorem nextKey_length {k : List Nat} (rcon : Nat) (h : k.length = 16) : (nextKey rcon k).length = 16 := by
  simp [nextKey, xorBlock_length, h]

theorem aesRounds_length {k : List Nat} (n rcon : Nat) (s : List Nat) (h : k.length = 16) : (aesRounds (n + 1) rcon k s).length = 16 := by
  induction n generalizing rcon k s with
  | zero => simp [aesRounds, xorBlock_length, shiftRows_length, nextKey_length rcon h]
  | succ n ih => exact ih _ _ (nextKey_length rcon h)

theorem aesBlock_length {key : List Nat} (b : List Nat) (h : key.length = 16) : (aesBlock key b).length = 16 := aesRounds_length 9 1 _ h

theorem cmacChain_length {key c : List Nat} (n : Nat) (m : List Nat) (h : key.length = 16) (hc : c.length = 16) :
    (cmacChain key n c m).length = 16 := by
  induction n generalizing c m with
  | zero => exact hc
  | succ n ih =>
    unfold cmacChain
    split
    · exact ih _ (aesBlock_length _ h)
    · exact aesBlock_length _ h

theorem cmac_length {key : List Nat} (m : List Byte) (h : key.length = 16) : (cmac key m).length = 16 := by
  rw [cmac, List.length_map, cmacChain_length _ _ h List.length_replicate]

/-! ### A sealed block -/

/-- The seal key of the module, as bytes. -/
def sealKeyBytes : List Nat := (List.range 16).map fun i => (Config.sealKey i).toNat

/-- The header of a block with a body: panel 0, its length and the CRC of the body. -/
def sealedHead (body : List Byte) : List Byte := List.replicate 8 0#8 ++ leBytes 4 (0x20 + body.length) ++ leBytes 4 (crc32 body)

/-- The block with its seal (18 R480). -/
def sealedBlock (body : List Byte) : List Byte :=
  sealedHead body ++ (cmac sealKeyBytes (sealedHead body ++ List.replicate 16 0#8 ++ body) ++ body)

section
variable (body : List Byte)

theorem sealedHead_length : (sealedHead body).length = 0x10 := by simp [sealedHead]

theorem seal_length (m : List Byte) : (cmac sealKeyBytes m).length = 16 := cmac_length m (by rw [sealKeyBytes, List.length_map, List.length_range])

theorem sealedBlock_length : (sealedBlock body).length = 0x20 + body.length := by
  rw [sealedBlock, List.length_append, List.length_append, sealedHead_length, seal_length, ← Nat.add_assoc]

theorem take_sealedBlock : (sealedBlock body).take 0x10 = sealedHead body := List.take_left' (sealedHead_length body)

theorem drop_sealedBlock_head : (sealedBlock body).drop 0x10 = cmac sealKeyBytes (sealedHead body ++ List.replicate 16 0#8 ++ body) ++ body :=
  List.drop_left' (sealedHead_length body)

theorem drop_sealedBlock : (sealedBlock body).drop 0x20 = body := by
  rw [show (0x20 : Nat) = 0x10 + 0x10 from rfl, ← List.drop_drop, drop_sealedBlock_head, List.drop_left' (seal_length _)]

theorem slice_sealedBlock : slice (sealedBlock body) 0x10 16 = cmac sealKeyBytes (sealedHead body ++ List.replicate 16 0#8 ++ body) := by
  rw [slice, drop_sealedBlock_head, List.take_left' (seal_length _)]

theorem sealRight_sealedBlock : sealRight (sealedBlock body) = true := by
  rw [sealRight, slice_sealedBlock, take_sealedBlock, drop_sealedBlock]
  exact beq_self_eq_true _

/-- A field of the header is read from the header alone. -/
theorem field_sealedBlock {off n : Nat} (h : off + n ≤ 0x10) : field (sealedBlock body) off n = field (sealedHead body) off n := by
  have hlen := sealedHead_length body
  rw [field, field, slice, slice, sealedBlock, List.drop_append_of_le_length (by omega), List.take_append_of_le_length (by rw [List.length_drop]; omega)]

theorem field_sealedBlock_length (h : 0x20 + body.length < 256 ^ 4) : field (sealedBlock body) 8 4 = (sealedBlock body).length := by
  rw [field_sealedBlock _ (by decide), sealedBlock_length, field, slice, sealedHead, List.append_assoc, List.drop_left' List.length_replicate,
    List.take_left' (leBytes_length ..), ofLe_leBytes h]

theorem field_sealedBlock_crc : field (sealedBlock body) 0xC 4 = crc32 body := by
  rw [field_sealedBlock _ (by decide), field, slice, sealedHead, List.drop_left' (by simp), List.take_of_length_le (leBytes_length ..).le,
    ofLe_leBytes (crc32_lt body)]

theorem field_sealedBlock_panel : field (sealedBlock body) 2 1 = 0 := by
  rw [field_sealedBlock _ (by decide), sealedHead, List.append_assoc]
  rfl

theorem sealedAbort_sealedBlock (h : 0x20 + body.length < 256 ^ 4) : sealedAbort (sealedBlock body) = 0 := by
  rw [sealedAbort, if_neg (not_not.2 (field_sealedBlock_length body h)), drop_sealedBlock, field_sealedBlock_crc, sealRight_sealedBlock]
  simp

end

/-! ### The write of one panel's map -/

/-- The map of BF: every cell without trim. -/
def bareMap : List Byte := sealedBlock (List.replicate 8192 0#8)

/-- The main side is up; the half of the calibration page in force holds a map for BB that 0x2B04:02 does not show. -/
def staleMap : State :=
  { State.reset with
    variant := .aeh1282
    module := { State.reset.module with mainUp := true }
    od := [(obj 0x2B04 2, .bytes [])]
    update := { State.reset.update with halves := [{ valid := true, maps := [none, some [1]] }, {}] } }

theorem bareMap_length : bareMap.length = 8224 := by rw [bareMap, sealedBlock_length, List.length_replicate]

set_option maxRecDepth 20000 in
/-- A block of the right length passes the checks of a trim map write. -/
theorem staleMap_writable {d : List Byte} (hd : d.length = 8224) : staleMap.writable .host (obj 0x2B04 (0 + 1)) (.bytes d) = true := by
  have h : objRow? (obj 0x2B04 (0 + 1) / 256) (obj 0x2B04 (0 + 1) % 256)
      = some ((objRow? (obj 0x2B04 (0 + 1) / 256) (obj 0x2B04 (0 + 1) % 256)).get (by decide +kernel)) := by simp
  unfold State.writable State.checkWrite
  rw [h]
  simp only [valLen, hd]
  rfl

/-- The map of the other panel comes from the half in force with the new one. -/
theorem actTrimMap_staleMap {d : List Byte} (hsealed : sealedAbort d = 0) (hpanel : field d 2 1 = 0) :
    (actTrimMap 0 d staleMap).1.val (obj 0x2B04 2) = .bytes [1] := by
  rw [actTrimMap, if_neg (by rw [hsealed]; decide), if_neg (by rw [hsealed, hpanel]; decide)]
  rfl

/-- Refutes O54: a trim map write sets both maps from the half of the calibration page that it rewrites, and the frame lists the map of its own
panel alone. -/
theorem not_backdropFrames : ¬ Obligations.BackdropFrames := by
  rintro ⟨-, -, -, -, -, htrim, -⟩
  obtain ⟨t, ht, -, hkeeps⟩ := htrim .host 0 bareMap staleMap
  have hacts := State.write_acts (act := actTrimMap 0 bareMap) (staleMap_writable bareMap_length)
  have hshown : t.val (obj 0x2B04 2) = .bytes [1] := by
    obtain rfl : staleMap.write .host (obj 0x2B04 (0 + 1)) (.bytes bareMap) (actTrimMap 0 bareMap) = t := Host.Outcome.next.inj ht
    exact (val_congr hacts.od_eq hacts.variant_eq (congrArg _ hacts.side_eq) _).trans
      (actTrimMap_staleMap (sealedAbort_sealedBlock _ (by rw [List.length_replicate]; decide)) (field_sealedBlock_panel _))
  have hkept : t.val (obj 0x2B04 2) = .bytes [] := hkeeps.val_lacked
  exact absurd (hshown.symm.trans hkept) (by decide)

end Sys2Proof.Machine
end


section
/-!
Events below S2, and what is sent with an event.
-/
set_option Elab.async false
set_option linter.all false

namespace Sys2Proof.Machine

open Sys2Proof State

/-! ### An event below S2 is logged and sent, and triggers nothing (17 R472) -/

section
variable {ps : List Part} {s t u : State} {code arg : Nat} {m : Master}

theorem State.Does.backdrop_eq (h : s.Does ps t) (k : Part.backdrop ∉ ps := by decide) : t.backdrop = s.backdrop := h.only .backdrop k

theorem State.raise_low_does (s : State) (arg : Nat) (h : severityOf code < 2) : s.Does [.out, .od, .strand, .recorder] (s.raise code arg) := by
  unfold State.raise State.raiseAs
  dsimp only
  rw [if_neg (not_le.2 h)]
  exact raiseLow_does ..

theorem State.raiseSlow_low_does (s : State) (arg : Nat) (h : severityOf code < 2) :
    s.Does [.out, .od, .strand, .recorder] (s.raiseSlow code arg) := by
  unfold State.raiseSlow
  exact .ite (.via (raise_low_does _ arg h) (.of (noteRaised_does ..))) .same

/-! ### What has been sent stays sent -/

theorem State.Sends.refl (s : State) : s.Sends s := List.Subset.refl _

theorem State.Sends.trans (h : s.Sends t) (k : t.Sends u) : s.Sends u := List.Subset.trans h k

theorem State.Sends.ite {c : Prop} [Decidable c] (h : s.Sends t) (k : s.Sends u) : s.Sends (if c then t else u) := by
  split
  · exact h
  · exact k

theorem State.Does.sends (h : s.Does ps t) (k : Part.out ∉ ps := by decide) : s.Sends t := by
  unfold State.Sends
  rw [h.out_eq k]
  exact List.Subset.refl _

theorem State.emit_sends (s : State) (o : Output) : s.Sends (s.emit o) := List.subset_cons_self ..

theorem State.setLink_sends (s : State) (l : Nat) (c : LinkSt) : s.Sends (s.setLink l c) := List.Subset.refl _

theorem State.startFrame_sends (s : State) (l v : Nat) : s.Sends (s.startFrame l v) := by
  unfold State.startFrame
  dsimp only
  split
  · exact .refl s
  · exact (setLink_sends ..).trans ((emit_sends ..).trans (bump_does ..).sends)

theorem State.startAgain_sends (s : State) (l : Nat) : s.Sends (s.startAgain l) := by
  unfold State.startAgain
  dsimp only
  split
  · exact .refl s
  · exact (setLink_sends ..).trans (emit_sends ..)

theorem State.putOnWire_sends (s : State) (l : Nat) (w : Wire) : s.Sends (s.putOnWire l w) := by
  cases w with
  | frame v => exact startFrame_sends ..
  | again => exact startAgain_sends ..
  | interrupt left v => exact (setLink_sends ..).trans (startFrame_sends ..)
  | resume =>
    unfold State.putOnWire
    dsimp only
    split
    · exact .refl s
    · exact (setLink_sends ..).trans (emit_sends ..)

theorem State.drain_sends (n : Nat) (s : State) (l now : Nat) : s.Sends (State.drain n s l now) := by
  induction n generalizing s with
  | zero => exact .refl s
  | succ n ih =>
    unfold State.drain
    split
    · exact .refl s
    · exact (putOnWire_sends ..).trans (ih _)

theorem State.pump_sends (s : State) (l : Nat) : s.Sends (s.pump l) := by
  unfold State.pump
  exact .ite (.refl s) ((drain_sends ..).trans (setLink_sends ..))

theorem State.egress_sends (s : State) (l : Nat) (f : Frame) : s.Sends (s.egress l f) := by
  unfold State.egress
  exact (pump_sends s l).trans ((setLink_sends ..).trans (pump_sends ..))

theorem State.routeOut_sends (s : State) (f : Frame) : s.Sends (s.routeOut f).1 := by
  unfold State.routeOut
  split
  · exact .refl s
  · dsimp only
    refine Sends.trans (State.Does.sends (ps := [.od]) ?_) (egress_sends ..)
    exact .ite (.via (bump_does ..) (.ite (bump_does ..) .same)) (.ite (bump_does ..) .same)
  · exact (bump_does ..).sends
  · exact (bump_does ..).sends

theorem State.eventFrame_sends (s : State) (dest code sev arg : Nat) : s.Sends (s.eventFrame dest code sev arg).1 :=
  Sends.trans (t := { s with strand := { s.strand with eventSeq := (s.strand.eventSeq + 1) % 65536 } }) (List.Subset.refl _) (routeOut_sends ..)

theorem State.eventFrames_sends (code sev arg : Nat) (ns : List Nat) (s : State) : s.Sends (State.eventFrames code sev arg ns s).1 := by
  induction ns generalizing s with
  | nil => exact .refl s
  | cons n ns ih => exact (eventFrame_sends s n code sev arg).trans (ih _)

theorem State.eventToHost_sends (s : State) (code sev arg : Nat) : s.Sends (s.eventToHost code sev arg).1 := by
  unfold State.eventToHost
  split
  · exact (bump_does ..).sends
  · exact eventFrame_sends ..

theorem State.noteDropped_sends (s : State) (dropped : Bool) : s.Sends (s.noteDropped dropped) := by
  unfold State.noteDropped State.noteDrop
  exact .ite (.ite ((noteRaised_does ..).sends.trans ((logEvent_does ..).sends.trans (eventToHost_sends ..))) (.refl s)) (.refl s)

theorem State.sendEvent_sends (s : State) (code sev arg : Nat) : s.Sends (s.sendEvent code sev arg) := by
  unfold State.sendEvent
  exact .ite (.refl s) ((eventFrames_sends code sev arg _ s).trans ((eventToHost_sends ..).trans (noteDropped_sends ..)))

theorem State.raise_low_sends (s : State) (arg : Nat) (h : severityOf code < 2) : s.Sends (s.raise code arg) := by
  unfold State.raise State.raiseAs State.raiseLow
  dsimp only
  rw [if_neg (not_le.2 h)]
  exact (logEvent_does ..).sends.trans (sendEvent_sends ..)

/-! ### The error register's return to 0 (15 R431) -/

theorem State.noteReset_sends (s before : State) : s.Sends (s.noteReset before) := by
  unfold State.noteReset
  exact .ite ((raise_low_sends s 0 (by decide)).trans (queueEmcy_does ..).sends) (.refl s)

theorem State.noteReset_backdrop (s before : State) : (s.noteReset before).backdrop = s.backdrop := by
  unfold State.noteReset
  split
  · exact (queueEmcy_does ..).backdrop_eq.trans (raise_low_does s 0 (by decide)).backdrop_eq
  · rfl

end

end Sys2Proof.Machine
end


section
/-!
Writes of the backdrop's tables, images and trim maps.
-/
set_option Elab.async false
set_option linter.all false

namespace Sys2Proof.Machine

open Sys2Proof State

section
variable {s t : State} {m : Master} {k : Nat}

/-! ### A block put, or left as it was -/

/-- Events hold no object from 0x2300 up to the recorder's, 0x2D02. -/
theorem State.Keeps.val_engines (h : s.Keeps [.frames, .events] t) (hlow : 0x2300 ≤ k / 256 := by decide) (hhigh : k / 256 < 0x2D02 := by decide) :
    t.val k = s.val k := by
  refine h.val k ?_
  simp only [List.mem_cons, List.not_mem_nil, or_false, forall_eq_or_imp, forall_eq]
  refine ⟨fun h => ?_, fun h => ?_⟩
  · have := frames_has_lt h
    omega
  · have := events_has_div h
    omega

/-- An accepted block is read back, and only the acknowledgement is sent. -/
theorem State.write_puts {act : State → State × Nat} {d : List Byte} (hw : s.writable m k (.bytes d) = true) (hact : act s = (s.put k (.bytes d), 0)) :
    (s.write m k (.bytes d) act).byteVal k = d ∧ (s.write m k (.bytes d) act).out = Machine.ack m k :: s.out := by
  rw [write_accepted hw hact (put_does ..)]
  exact ⟨byteVal_of_val ((val_congr rfl rfl rfl _).trans (val_put_self ..)), rfl⟩

/-- A block refused with an event leaves its object, and the refusal is sent last. -/
theorem State.write_raises {act : State → State × Nat} {v : Val} {code arg c : Nat} (hw : s.writable m k v = true)
    (hact : act s = (s.raise code arg, c)) (hlow : 0x2300 ≤ k / 256) (hhigh : k / 256 < 0x2D02) :
    (s.write m k v act).val k = s.val k ∧ (s.write m k v act).out.head? = some (.reply m (k / 256) (k % 256) c []) := by
  rw [write_answered hw hact (raise_reachable ..)]
  exact ⟨(val_congr rfl rfl rfl _).trans ((raise_keeps ..).val_engines hlow hhigh), rfl⟩

theorem obj_div (index : Nat) {sub : Nat} (h : sub < 256) : obj index sub / 256 = index := by
  unfold obj
  omega

theorem obj_mod (index : Nat) {sub : Nat} (h : sub < 256) : obj index sub % 256 = sub := by
  unfold obj
  omega

/-! ### The IDs shown (10 R287, R296) -/

/-- Every object of the backdrop stands in both variants. -/
theorem State.absent_backdrop (s : State) (hlow : 0x2B00 ≤ k / 256) (hhigh : k / 256 < 0x2C00) : s.absent k = false := by
  unfold State.absent State.readsZero laneAbsent valvePair groupArray obj
  cases s.variant with
  | aeh2564 =>
    simp
    omega
  | aeh1282 =>
    simp
    omega

theorem State.shown_backdrop {index sub : Nat} (hsub : 0 < sub ∧ sub < 256) (hlow : 0x2B00 ≤ index) (hhigh : index < 0x2C00) :
    s.shown m (obj index sub) = (s.shownBackdrop index sub).getD (s.val (obj index sub)) := by
  have hdiv := obj_div index hsub.2
  unfold State.shown State.computed
  dsimp only
  rw [absent_backdrop s (by omega) (by omega), hdiv, obj_mod index hsub.2, show index / 256 = 0x2B by omega]
  simp [hsub.1.ne']
  omega

theorem State.shown_waveformId (p : Fin 2) : s.shown m (obj 0x2B03 (p + 3)) = .num (field (s.byteVal (obj 0x2B03 (p + 1))) 4 4) := by
  rw [shown_backdrop (by omega) (by decide) (by decide)]
  unfold State.shownBackdrop
  rw [if_neg (by decide), if_neg (by decide), if_pos (by omega)]
  rfl

theorem State.shown_imageId {k : Nat} (hk : 1 ≤ k ∧ k ≤ 8) : s.shown m (obj 0x2B11 k) = .num (field (s.byteVal (obj 0x2B10 k)) 4 4) := by
  rw [shown_backdrop (by omega) (by decide) (by decide)]
  unfold State.shownBackdrop
  rw [if_neg (by decide), if_neg (by decide), if_neg (by simp), if_pos ⟨rfl, hk⟩]
  rfl

/-! ### WAVEFORM_TABLE_WRITE (10 R288) -/

theorem execWaveformTableWrite_taken {panel : Fin 2} {table : List Byte} (hw : s.writable m (obj 0x2B03 (panel + 1)) (.bytes table) = true)
    (hidle : s.panelRunning panel = false) (hok : waveformOk table = true) :
    ∃ t, execWaveformTableWrite m panel table s = .next t ∧ t.byteVal (obj 0x2B03 (panel + 1)) = table
      ∧ t.shown m (obj 0x2B03 (panel + 3)) = .num (field table 4 4) ∧ t.out = ack m (obj 0x2B03 (panel + 1)) :: s.out := by
  have hact : actWaveform panel table s = (s.put (obj 0x2B03 (panel + 1)) (.bytes table), 0) := by
    rw [actWaveform, if_neg (by rw [hidle]; exact nofun), if_neg (by rw [hok]; exact nofun)]
  obtain ⟨htable, hout⟩ := write_puts hw hact
  exact ⟨_, rfl, htable, by rw [shown_waveformId, htable], hout⟩

theorem execWaveformTableWrite_fails {panel : Fin 2} {table : List Byte} (hw : s.writable m (obj 0x2B03 (panel + 1)) (.bytes table) = true)
    (hidle : s.panelRunning panel = false) (hbad : waveformOk table ≠ true) :
    ∃ t, execWaveformTableWrite m panel table s = .next t ∧ t.val (obj 0x2B03 (panel + 1)) = s.val (obj 0x2B03 (panel + 1))
      ∧ t.out.head? = some (.reply m 0x2B03 (panel + 1) abortData []) := by
  have hact : actWaveform panel table s = (s.raise 0x9008 panel, abortData) := by
    rw [actWaveform, if_neg (by rw [hidle]; exact nofun), if_pos (by simpa using hbad)]
  have hdiv : obj 0x2B03 (panel + 1) / 256 = 0x2B03 := obj_div _ (by omega)
  obtain ⟨hval, hout⟩ := write_raises hw hact (by omega) (by omega)
  rw [hdiv, obj_mod _ (by omega)] at hout
  exact ⟨_, rfl, hval, hout⟩

/-! ### IMAGE_SLOT_WRITE (10 R296) -/

theorem sealedAbort_cases (d : List Byte) : sealedAbort d = 0 ∨ sealedAbort d = abortLength ∨ sealedAbort d = abortData := by
  unfold sealedAbort
  split
  · exact .inr (.inl rfl)
  · split
    · exact .inr (.inr rfl)
    · exact .inl rfl

theorem execImageSlotWrite_taken {slot : Nat} {image : List Byte} (hslot : 1 ≤ slot ∧ slot ≤ 8)
    (hw : s.writable m (obj 0x2B10 slot) (.bytes image) = true) (hfree : s.imageInUse slot = false) (hok : sealedAbort image = 0) :
    ∃ t, execImageSlotWrite m slot image s = .next t ∧ t.byteVal (obj 0x2B10 slot) = image
      ∧ t.shown m (obj 0x2B11 slot) = .num (field image 4 4) ∧ t.out = ack m (obj 0x2B10 slot) :: s.out := by
  have hact : actImageSlot slot image s = (s.put (obj 0x2B10 slot) (.bytes image), 0) := by
    rw [actImageSlot, if_neg (by rw [hfree]; exact nofun), if_neg (by rw [hok]; decide), if_neg (not_not.2 hok)]
  obtain ⟨himage, hout⟩ := write_puts hw hact
  exact ⟨_, rfl, himage, by rw [shown_imageId hslot, himage], hout⟩

theorem execImageSlotWrite_fails {slot : Nat} {image : List Byte} (hslot : slot ≤ 8)
    (hw : s.writable m (obj 0x2B10 slot) (.bytes image) = true) (hfree : s.imageInUse slot = false) (hbad : sealedAbort image ≠ 0) :
    ∃ t, execImageSlotWrite m slot image s = .next t ∧ t.val (obj 0x2B10 slot) = s.val (obj 0x2B10 slot)
      ∧ t.out.head? = some (.reply m 0x2B10 slot (sealedAbort image) []) := by
  have hdiv : obj 0x2B10 slot / 256 = 0x2B10 := obj_div _ (by omega)
  have hmod : obj 0x2B10 slot % 256 = slot := obj_mod _ (by omega)
  rcases sealedAbort_cases image with h | h | h
  · exact absurd h hbad
  · have hact : actImageSlot slot image s = (s, sealedAbort image) := by
      rw [actImageSlot, if_neg (by rw [hfree]; exact nofun), if_neg (by rw [h]; decide), if_pos hbad]
    refine ⟨_, congrArg Host.Outcome.next (write_answered hw hact rfl), rfl, ?_⟩
    show some _ = _
    rw [hdiv, hmod]
  · have hact : actImageSlot slot image s = (s.raise 0x9009 slot, abortData) := by
      rw [actImageSlot, if_neg (by rw [hfree]; exact nofun), if_pos h]
    obtain ⟨hval, hout⟩ := write_raises hw hact (by omega) (by omega)
    rw [hdiv, hmod, ← h] at hout
    exact ⟨_, rfl, hval, hout⟩

/-! ### TRIM_MAP_WRITE (10 R290, 18 R477) -/

theorem State.halfInForce_pair {a b : CalHalf} (h : s.update.halves = [a, b]) :
    s.halfInForce = if a.valid && (!b.valid || decide (b.seq ≤ a.seq)) then some 0 else if b.valid then some 1 else none := by
  unfold State.halfInForce State.half
  rw [h]
  rfl

/-- The rewritten half comes into force, with the new map. -/
theorem State.halfInForce_rewriteHalf {p : Nat} (hp : p < 2) (d : List Byte) (hmaps : s.update.halves.map (fun h => h.maps.length) = [2, 2]) :
    ∃ n, (s.rewriteHalf p d).halfInForce = some n ∧ ((s.rewriteHalf p d).half n).maps.getD p none = some d := by
  obtain ⟨a, l, hal, ha, hl⟩ := List.map_eq_cons_iff.1 hmaps
  obtain ⟨b, l, rfl, hb, hnil⟩ := List.map_eq_cons_iff.1 hl
  obtain rfl := List.map_eq_nil_iff.1 hnil
  have hset : ∀ l : List (Option (List Byte)), l.length = 2 → (l.set p (some d)).getD p none = some d :=
    fun l hlen => getD_set_self _ _ _ _ (hlen.symm ▸ hp)
  have hforce := halfInForce_pair hal
  split at hforce
  next hvalid =>
    have hnew : (s.rewriteHalf p d).update.halves = [a, { seq := a.seq + 1, valid := true, maps := a.maps.set p (some d) }] := by
      unfold State.rewriteHalf State.half
      rw [hforce, hal]
      rfl
    refine ⟨1, ?_, ?_⟩
    · rw [halfInForce_pair hnew]
      simp
    · rw [State.half, hnew]
      exact hset _ ha
  next hfirst =>
    split at hforce
    next hvalid =>
      have hnew : (s.rewriteHalf p d).update.halves = [{ seq := b.seq + 1, valid := true, maps := b.maps.set p (some d) }, b] := by
        unfold State.rewriteHalf State.half
        rw [hforce, hal]
        rfl
      refine ⟨0, ?_, ?_⟩
      · rw [halfInForce_pair hnew]
        simp
      · rw [State.half, hnew]
        exact hset _ hb
    next hinvalid =>
      have hnew : (s.rewriteHalf p d).update.halves = [{ seq := 1, valid := true, maps := [none, none].set p (some d) }, b] := by
        unfold State.rewriteHalf State.half
        rw [hforce, hal]
        rfl
      refine ⟨0, ?_, ?_⟩
      · rw [halfInForce_pair hnew]
        simp [hinvalid]
      · rw [State.half, hnew]
        exact hset _ rfl

theorem State.val_unset_other (s : State) {k j : Nat} (h : j ≠ k) : (s.unset k).val j = s.val j := by
  unfold State.val State.unset
  simp only [assocGet_assocErase_ne _ _ _ h]
  rfl

/-- The map that the half in force holds for a panel is the one that the panel's object shows. -/
theorem State.val_putMaps {n : Nat} {d : List Byte} (p : Fin 2) (hforce : s.halfInForce = some n) (hmap : (s.half n).maps.getD p none = some d) :
    s.putMaps.val (obj 0x2B04 (p + 1)) = .bytes d := by
  unfold State.putMaps
  rw [hforce]
  simp only [List.range_succ, List.range_zero, List.nil_append, List.cons_append, List.foldl_cons, List.foldl_nil]
  match p, hmap with
  | 0, hmap =>
    rw [show (s.half n).maps.getD 0 none = some d from hmap]
    dsimp only
    split
    · exact (val_put_other _ _ (by decide)).trans (val_put_self ..)
    · exact (val_unset_other _ (by decide)).trans (val_put_self ..)
  | 1, hmap =>
    rw [show (s.half n).maps.getD 1 none = some d from hmap]
    exact val_put_self ..

theorem execTrimMapWrite_taken {panel : Fin 2} {map : List Byte} (hmaps : s.update.halves.map (fun h => h.maps.length) = [2, 2])
    (hw : s.writable m (obj 0x2B04 (panel + 1)) (.bytes map) = true) (hok : sealedAbort map = 0) (hpanel : field map 2 1 = panel) :
    ∃ t, execTrimMapWrite m panel map s = .next t ∧ t.byteVal (obj 0x2B04 (panel + 1)) = map
      ∧ t.out.head? = some (ack m (obj 0x2B04 (panel + 1))) := by
  have hact : actTrimMap panel map s = ((s.rewriteHalf panel map).putMaps.emit (.stored 4 [panel]), 0) := by
    rw [actTrimMap, if_neg (by rw [hok]; decide), if_neg (not_or.2 ⟨not_not.2 hok, not_not.2 hpanel⟩)]
  have hdoes : s.Does [.out, .od, .update] ((s.rewriteHalf panel map).putMaps.emit (.stored 4 [panel])) :=
    .via (emit_does ..) (.via (putMaps_does ..) (.of (rewriteHalf_does ..)))
  obtain ⟨n, hforce, hmap⟩ := halfInForce_rewriteHalf panel.isLt map hmaps
  exact ⟨_, congrArg Host.Outcome.next (write_accepted hw hact hdoes),
    byteVal_of_val ((val_congr rfl rfl rfl _).trans (val_putMaps panel hforce hmap)), rfl⟩

theorem execTrimMapWrite_fails {panel : Fin 2} {map : List Byte} (hw : s.writable m (obj 0x2B04 (panel + 1)) (.bytes map) = true)
    (hbad : ¬(sealedAbort map = 0 ∧ field map 2 1 = panel)) :
    ∃ t, execTrimMapWrite m panel map s = .next t ∧ t.val (obj 0x2B04 (panel + 1)) = s.val (obj 0x2B04 (panel + 1)) := by
  have hdiv : obj 0x2B04 (panel + 1) / 256 = 0x2B04 := obj_div _ (by omega)
  by_cases hlen : sealedAbort map = abortLength
  · have hact : actTrimMap panel map s = (s, abortLength) := if_pos hlen
    exact ⟨_, congrArg Host.Outcome.next (write_answered hw hact rfl), rfl⟩
  · have hact : actTrimMap panel map s = (s.raise 0x9009 panel, abortData) := by
      rw [actTrimMap, if_neg hlen, if_pos (not_and_or.1 hbad)]
    obtain ⟨hval, -⟩ := write_raises hw hact (by omega) (by omega)
    exact ⟨_, rfl, hval⟩

end

end Sys2Proof.Machine
end


section
/-!
Region requests and panel commands: the start of an update or a run, and the rails it requests.
-/
set_option Elab.async false
set_option linter.all false

namespace Sys2Proof.Machine

open Sys2Proof State

section
variable {s t : State} {m : Master}

/-! ### The rails requested while both panels answer (10 R297) -/

theorem State.requestRails_answering (h : s.backdrop.flex.any (·.isNone) = false) :
    s.requestRails = if s.backdrop.rails.state = 0 then
      { s with backdrop := { s.backdrop with rails := { state := 1, step := 1, since := s.clk } } }.emit (.rail 1 true) else s := by
  unfold State.requestRails
  rw [h, ite_not, if_neg (show ¬(false = true) from nofun)]

theorem State.requestRails_answering_does (h : s.backdrop.flex.any (·.isNone) = false) : s.Does [.out, .backdrop] s.requestRails := by
  rw [requestRails_answering h]
  exact .ite (.via (emit_does ..) (.of (Does.backdrop _ id))) .same

theorem State.requestRails_answering_backdrop (h : s.backdrop.flex.any (·.isNone) = false) :
    s.requestRails.backdrop = { s.backdrop with
      rails := if s.backdrop.rails.state = 0 then { state := 1, step := 1, since := s.clk } else s.backdrop.rails } := by
  rw [requestRails_answering h]
  split
  · rfl
  · rfl

/-! ### REGION_GO (10 R293, R294) -/

/-- The update that a request starts, from the levels that its panel shows. -/
abbrev State.updateOf (s : State) (q : RegionReq) : RegionRun := { req := q, start := (s.panel q.panel).levels }

theorem State.startUpdate_backdrop (s : State) (i : Nat) (x : RegionSlot) (q : RegionReq) :
    (s.startUpdate i x q none).backdrop = { s.backdrop with
      slots := s.backdrop.slots.set i { x with run := if s.runPairs (s.updateOf q) = 0 then none else some (s.updateOf q), next := none }
      idleAt := s.clk } := by
  unfold State.startUpdate
  dsimp only
  split
  · exact (bump_does ..).backdrop_eq
  · rfl

theorem regionSlot_lt (hs : s.backdrop.shaped) (slot : Fin 8) : slot.val < s.backdrop.slots.length := slot.isLt.trans_eq hs.2.1.symm

theorem execRegionGo_starts {slot : Fin 8} (hs : s.backdrop.shaped) (hw : s.writable m (obj (0x2B20 + slot) 7) (.num 1) = true)
    (hcause : s.regionCause slot (s.regionFields slot) = 0) (hfree : (s.backdrop.slots.getD slot {}).run = none)
    (hflex : s.backdrop.flex.any (·.isNone) = false) :
    ∃ t, execRegionGo m slot s = .next t
      ∧ (t.backdrop.slots.getD slot {}).run
        = (if s.runPairs (s.updateOf (s.regionFields slot)) = 0 then none else some (s.updateOf (s.regionFields slot)))
      ∧ t.backdrop.rails = (if s.backdrop.rails.state = 0 then { state := 1, step := 1, since := s.clk } else s.backdrop.rails)
      ∧ t.out.head? = some (ack m (obj (0x2B20 + slot) 7)) := by
  set u := s.startUpdate slot (s.backdrop.slots.getD slot {}) (s.regionFields slot) none
  have hact : actRegionGo slot s = (u.requestRails, 0) := by
    unfold actRegionGo
    dsimp only
    rw [if_neg (not_not.2 hcause), hfree]
  have hb : u.backdrop = _ := startUpdate_backdrop ..
  have huflex : u.backdrop.flex.any (·.isNone) = false := by rw [hb]; exact hflex
  have hdoes : s.Does [.out, .od, .backdrop] u.requestRails := .via (requestRails_answering_does huflex) (.of (startUpdate_does ..))
  have hrails := requestRails_answering_backdrop huflex
  have hclk : u.clk = s.clk := (startUpdate_does ..).clk_eq
  refine ⟨_, congrArg Host.Outcome.next (write_accepted hw hact hdoes), ?_, ?_, rfl⟩
  · show (u.requestRails.backdrop.slots.getD slot {}).run = _
    rw [hrails, hb]
    exact congrArg RegionSlot.run (getD_set_self _ _ _ _ (regionSlot_lt hs slot))
  · show u.requestRails.backdrop.rails = _
    rw [hrails, hb, hclk]

theorem execRegionGo_waits {slot : Fin 8} {x : RegionRun} (hs : s.backdrop.shaped) (hw : s.writable m (obj (0x2B20 + slot) 7) (.num 1) = true)
    (hcause : s.regionCause slot (s.regionFields slot) = 0) (hrun : (s.backdrop.slots.getD slot {}).run = some x) :
    ∃ t, execRegionGo m slot s = .next t ∧ (t.backdrop.slots.getD slot {}).run = some x
      ∧ (t.backdrop.slots.getD slot {}).next = some (s.regionFields slot) ∧ t.out = ack m (obj (0x2B20 + slot) 7) :: s.out := by
  set u := if (s.backdrop.slots.getD slot {}).next.isSome then s.bump (obj 0x2B00 7) else s
  have hact : actRegionGo slot s = ({ u with backdrop := { u.backdrop with
      slots := u.backdrop.slots.set slot { s.backdrop.slots.getD slot {} with next := some (s.regionFields slot) } } }, 0) := by
    unfold actRegionGo
    dsimp only
    rw [if_neg (not_not.2 hcause), hrun]
  have hudoes : s.Does [.od] u := .ite (bump_does ..) .same
  have hdoes := State.Does.via (ps := [.od, .backdrop]) (Does.backdrop (s := u) { u.backdrop with
      slots := u.backdrop.slots.set slot { s.backdrop.slots.getD slot {} with next := some (s.regionFields slot) } }
    fun h => ⟨h.1, by simpa using h.2.1, h.2.2⟩) (.of hudoes)
  have hslot : (u.backdrop.slots.set slot { s.backdrop.slots.getD slot {} with next := some (s.regionFields slot) }).getD slot {}
      = { s.backdrop.slots.getD slot {} with next := some (s.regionFields slot) } :=
    getD_set_self _ _ _ _ (by rw [hudoes.backdrop_eq]; exact regionSlot_lt hs slot)
  exact ⟨_, congrArg Host.Outcome.next (write_accepted hw hact hdoes), (congrArg RegionSlot.run hslot).trans hrun,
    congrArg RegionSlot.next hslot, congrArg (_ :: ·) hudoes.out_eq⟩

theorem execRegionGo_refused {slot : Fin 8} (hs : s.backdrop.shaped) (hw : s.writable m (obj (0x2B20 + slot) 7) (.num 1) = true)
    (hcause : s.regionCause slot (s.regionFields slot) ≠ 0) :
    ∃ t, execRegionGo m slot s = .next t
      ∧ t.backdrop.slots.getD slot {} = { s.backdrop.slots.getD slot {} with cause := s.regionCause slot (s.regionFields slot) }
      ∧ t.backdrop.rails = s.backdrop.rails ∧ t.nat (obj 0x2B00 8) = s.counted (obj 0x2B00 8)
      ∧ t.out.head? = some (.reply m (0x2B20 + slot) 7
        (if s.regionCause slot (s.regionFields slot) = 1 then abortRange else abortState) []) := by
  set u : State := { s with backdrop := { s.backdrop with
    slots := s.backdrop.slots.set slot { s.backdrop.slots.getD slot {} with cause := s.regionCause slot (s.regionFields slot) } } }
  have hact : actRegionGo slot s = ((u.bump (obj 0x2B00 8)).raiseSlow 0x9003 slot,
      if s.regionCause slot (s.regionFields slot) = 1 then abortRange else abortState) := by
    unfold actRegionGo
    dsimp only
    rw [if_pos hcause]
  have hudoes : s.Does [.backdrop] u := Does.backdrop _ fun h => ⟨h.1, by simpa using h.2.1, h.2.2⟩
  have hraise : u.Does [.out, .od, .strand, .recorder] ((u.bump (obj 0x2B00 8)).raiseSlow 0x9003 slot) :=
    .via (raiseSlow_low_does _ slot (by decide)) (.of (bump_does ..))
  have hdoes : s.Does [.out, .od, .strand, .recorder, .backdrop] ((u.bump (obj 0x2B00 8)).raiseSlow 0x9003 slot) := .via hraise (.of hudoes)
  have hb : ((u.bump (obj 0x2B00 8)).raiseSlow 0x9003 slot).backdrop = u.backdrop := hraise.backdrop_eq
  refine ⟨_, congrArg Host.Outcome.next (write_answered hw hact (hdoes.reachable_eq m)), ?_, ?_, ?_, ?_⟩
  · refine (congrArg (fun b : Backdrop => b.slots.getD slot {}) hb).trans ?_
    exact getD_set_self _ _ _ _ (regionSlot_lt hs slot)
  · show ((u.bump (obj 0x2B00 8)).raiseSlow 0x9003 slot).backdrop.rails = _
    rw [hb]
  · rw [(answer_does ..).nat_eq, (raiseSlow_keeps ..).nat_engines, nat_bump_self, State.counted, State.counted, hudoes.nat_eq]
  · show some _ = _
    rw [obj_div _ (by decide), obj_mod _ (by decide)]

/-! ### PANEL_GREY, PANEL_HOME (10 R303) -/

/-- Nothing stands against a panel command: no run, no region slot in use, no fault, and neither power-fail nor Moored. -/
structure State.PanelsFree (s : State) : Prop where
  run : s.backdrop.run = none
  slots : s.backdrop.slots.all (fun x => x.run.isNone && x.next.isNone) = true
  rails : s.backdrop.rails.state ≠ 4
  powerFail : s.backdrop.powerFail = false
  moor : s.power.moorAt = none
  flex : s.backdrop.flex.any (·.isNone) = false

/-- The pairs that the slowest cell of some rectangles needs. -/
abbrev State.rectPairs (s : State) (rects : List RegionReq) : Nat :=
  (rects.map (fun q => s.runPairs { req := q, start := (s.panel q.panel).levels })).foldl max 0

theorem State.byteVal_congr {k : Nat} (h : t.val k = s.val k) : t.byteVal k = s.byteVal k := by
  unfold State.byteVal
  rw [h]

/-- The pairs that a run needs turn on the dictionary alone. -/
theorem State.runPairs_congr (hod : t.od = s.od) (hv : t.variant = s.variant) (hn : t.side.nodeId = s.side.nodeId) (r : RegionRun) :
    t.runPairs r = s.runPairs r := by
  have hbyte := fun k => byteVal_congr (val_congr hod hv hn k)
  have hnat := fun k => nat_same s t hod hv hn k
  unfold State.runPairs State.targetLevel State.onReference State.imageSlot State.panelCols
  simp only [hbyte, hnat, hv]

/-- The run of a panel command. -/
def State.driveRun (s : State) (rects : List RegionReq) : PanelRun := s.beginPhase { phase := .drive rects } (.drive rects) []

/-- The state in which a panel command takes its pairs: calibration grey is left. -/
def State.leaveGrey (s : State) : State := { s with backdrop := { s.backdrop with atGrey := false } }

theorem State.driveRun_reqs (s : State) (rects : List RegionReq) : (s.driveRun rects).runs.map (·.req) = rects :=
  (List.map_map ..).trans (List.map_id' ..)

theorem State.phasePairs_driveRun (s : State) (rects : List RegionReq) :
    s.leaveGrey.phasePairs (s.leaveGrey.driveRun rects) = s.rectPairs rects := by
  unfold State.phasePairs State.driveRun State.beginPhase State.rectPairs
  dsimp only
  rw [List.map_map]
  exact congrArg (List.foldl max 0) (List.map_congr_left fun q _ => runPairs_congr (s := s) (t := s.leaveGrey) rfl rfl rfl _)

theorem State.PanelsFree.admits (h : s.PanelsFree) :
    (s.panelsBusy && (s.backdrop.run.isSome || s.backdrop.slots.any (fun x => x.run.isSome || x.next.isSome))
      || s.backdrop.rails.state == 4 || s.backdrop.powerFail || s.power.moorAt.isSome) = false := by
  have hslots : s.backdrop.slots.any (fun x => x.run.isSome || x.next.isSome) = false := by
    simpa [List.any_eq_false, List.all_eq_true] using h.slots
  rw [h.run, hslots, h.powerFail, h.moor, beq_eq_false_iff_ne.2 h.rails]
  simp

/-- The run as it begins. -/
def State.withRun (s : State) (rects : List RegionReq) : State :=
  { s.leaveGrey with backdrop := { s.leaveGrey.backdrop with run := some (s.leaveGrey.driveRun rects) } }

theorem State.settlePhase_driveRun (s : State) (rects : List RegionReq) :
    State.settlePhase 1 s.leaveGrey (s.leaveGrey.driveRun rects)
      = if 0 < s.rectPairs rects then (s.withRun rects, false) else (s.leaveGrey.endRun (s.leaveGrey.driveRun rects), true) := by
  rw [← phasePairs_driveRun]
  rfl

/-- A panel command ends at once, where no cell needs a pair, or begins its run and requests the rails. -/
theorem State.PanelsFree.panelCommand_eq (h : s.PanelsFree) (rects : List RegionReq) :
    s.panelCommand rects
      = (if s.rectPairs rects = 0 then s.leaveGrey.endRun (s.leaveGrey.driveRun rects) else (s.withRun rects).requestRails, 0) := by
  have hsettle := settlePhase_driveRun s rects
  have hcommand : s.panelCommand rects = (if (State.settlePhase 1 s.leaveGrey (s.leaveGrey.driveRun rects)).2
      then (State.settlePhase 1 s.leaveGrey (s.leaveGrey.driveRun rects)).1
      else (State.settlePhase 1 s.leaveGrey (s.leaveGrey.driveRun rects)).1.requestRails, 0) :=
    if_neg (by rw [h.admits]; exact nofun)
  rw [hcommand]
  by_cases hzero : s.rectPairs rects = 0
  · rw [if_neg (by omega)] at hsettle
    rw [hsettle, if_pos hzero]
    rfl
  · rw [if_pos (by omega)] at hsettle
    rw [hsettle, if_neg hzero]
    rfl

theorem State.endRun_driveRun_does (s : State) (rects : List RegionReq) :
    s.Does [.pipe, .backdrop] (s.leaveGrey.endRun (s.leaveGrey.driveRun rects)) := by
  have hgrey : s.Does [.backdrop] s.leaveGrey := Does.backdrop _ id
  have hend : s.leaveGrey.Does [.backdrop] { s.leaveGrey with backdrop := { s.leaveGrey.backdrop with run := none, idleAt := s.leaveGrey.clk } } :=
    Does.backdrop _ id
  exact .ite (.via (reachGrey_does ..) (.via hend (.of hgrey))) (.via hend (.of hgrey))

theorem State.endRun_driveRun_run (s : State) (rects : List RegionReq) :
    (s.leaveGrey.endRun (s.leaveGrey.driveRun rects)).backdrop.run = none := by
  show (if _ then _ else _ : State).backdrop.run = none
  split
  · rfl
  · rfl

section
variable {act : State → State × Nat} {rects : List RegionReq} {value : Nat}

/-- A panel command that no cell needs a pair for has ended. -/
theorem State.PanelsFree.write_ends (h : s.PanelsFree) (hw : s.writable m (obj 0x2B01 8) (.num value) = true) (hact : act s = s.panelCommand rects)
    (hzero : s.rectPairs rects = 0) :
    s.write m (obj 0x2B01 8) (.num value) act = (s.leaveGrey.endRun (s.leaveGrey.driveRun rects)).emit (Machine.ack m (obj 0x2B01 8)) := by
  rw [h.panelCommand_eq, if_pos hzero] at hact
  exact write_accepted hw hact (endRun_driveRun_does ..)

/-- A panel command that needs a pair runs over its rectangles, with the rails requested. -/
theorem State.PanelsFree.write_runs (h : s.PanelsFree) (hw : s.writable m (obj 0x2B01 8) (.num value) = true) (hact : act s = s.panelCommand rects)
    (hsome : s.rectPairs rects ≠ 0) :
    ((s.write m (obj 0x2B01 8) (.num value) act).backdrop.run.map fun r => r.runs.map fun x => x.req) = some rects
      ∧ (s.write m (obj 0x2B01 8) (.num value) act).backdrop.rails.state ≠ 0
      ∧ (s.write m (obj 0x2B01 8) (.num value) act).out.head? = some (Machine.ack m (obj 0x2B01 8)) := by
  rw [h.panelCommand_eq, if_neg hsome] at hact
  have hflex : (s.withRun rects).backdrop.flex.any (·.isNone) = false := h.flex
  have hgrey : s.Does [.backdrop] s.leaveGrey := Does.backdrop _ id
  have hrun : s.leaveGrey.Does [.backdrop] (s.withRun rects) := Does.backdrop _ id
  have hdoes : s.Does [.out, .backdrop] (s.withRun rects).requestRails := .via (requestRails_answering_does hflex) (.via hrun (.of hgrey))
  have hb := requestRails_answering_backdrop hflex
  rw [write_accepted hw hact hdoes]
  refine ⟨?_, ?_, rfl⟩
  · show ((s.withRun rects).requestRails.backdrop.run.map _) = _
    rw [hb]
    exact congrArg some (driveRun_reqs ..)
  · show (s.withRun rects).requestRails.backdrop.rails.state ≠ 0
    rw [hb]
    dsimp only
    split
    · exact Nat.one_ne_zero
    · assumption

end

/-- A run towards grey alone reaches it as it ends. -/
theorem State.endRun_greyRects (s : State) :
    (s.leaveGrey.endRun (s.leaveGrey.driveRun s.greyRects)).backdrop.greyReached = true
      ∧ (s.leaveGrey.endRun (s.leaveGrey.driveRun s.greyRects)).backdrop.atGrey = true := ⟨rfl, rfl⟩

theorem execPanelGrey_result (h : s.PanelsFree) (hw : s.writable m (obj 0x2B01 8) (.num 1) = true) :
    ∃ t, execPanelGrey m s = .next t
      ∧ (if s.rectPairs s.greyRects = 0 then t.backdrop.run = none ∧ t.backdrop.greyReached = true ∧ t.backdrop.atGrey = true
        else t.backdrop.run.map (fun r => r.runs.map (fun x => x.req)) = some s.greyRects ∧ t.backdrop.rails.state ≠ 0)
      ∧ t.out.head? = some (ack m (obj 0x2B01 8)) := by
  by_cases hzero : s.rectPairs s.greyRects = 0
  · obtain ⟨hreached, hgrey⟩ := endRun_greyRects s
    exact ⟨_, congrArg Host.Outcome.next (h.write_ends hw rfl hzero), (if_pos hzero).mpr ⟨endRun_driveRun_run .., hreached, hgrey⟩, rfl⟩
  · obtain ⟨hrun, hrails, hout⟩ := h.write_runs (act := actPanelGrey) hw rfl hzero
    exact ⟨_, rfl, (if_neg hzero).mpr ⟨hrun, hrails⟩, hout⟩

theorem execPanelHome_result (h : s.PanelsFree) (hw : s.writable m (obj 0x2B01 8) (.num 2) = true) :
    ∃ t, execPanelHome m s = .next t
      ∧ (if s.rectPairs s.homeRects = 0 then t.backdrop.run = none
        else t.backdrop.run.map (fun r => r.runs.map (fun x => x.req)) = some s.homeRects ∧ t.backdrop.rails.state ≠ 0)
      ∧ t.out.head? = some (ack m (obj 0x2B01 8)) := by
  by_cases hzero : s.rectPairs s.homeRects = 0
  · exact ⟨_, congrArg Host.Outcome.next (h.write_ends hw rfl hzero), (if_pos hzero).mpr (endRun_driveRun_run ..), rfl⟩
  · obtain ⟨hrun, hrails, hout⟩ := h.write_runs (act := actPanelHome) hw rfl hzero
    exact ⟨_, rfl, (if_neg hzero).mpr ⟨hrun, hrails⟩, hout⟩

end

end Sys2Proof.Machine
end


section
/-!
The event code's acknowledgement, the strobes, and the statement on the backdrop's commands.
-/
set_option Elab.async false
set_option linter.all false

namespace Sys2Proof.Machine

open Sys2Proof State

section
variable {s t : State} {m : Master}

/-! ### EVENT_CODE_ACK (10 R299) -/

theorem execEventCodeAck_result (hw : s.writable m (obj 0x2B30 3) (.num 1) = true) :
    ∃ t, execEventCodeAck m s = .next t ∧ t.backdrop = { s.backdrop with stripAcked := true } ∧ ack m (obj 0x2B30 3) ∈ t.out := by
  have hdoes : s.Does [.backdrop] (actEventAck s).1 := Does.backdrop _ id
  have hwrite := write_accepted (act := actEventAck) hw rfl hdoes
  refine ⟨_, rfl, ?_, ?_⟩
  · rw [noteReset_backdrop, hwrite]
    rfl
  · rw [hwrite]
    exact noteReset_sends _ _ (List.mem_cons_self ..)

/-! ### A channel's registers -/

theorem State.strobe_lt (hs : s.backdrop.shaped) (ch : Fin 4) : ch.val < s.backdrop.strobes.length := ch.isLt.trans_eq hs.2.2.symm

theorem State.setStrobe_strobe_self (s : State) (n : Nat) (x : StrobeCh) (h : n < s.backdrop.strobes.length) : (s.setStrobe n x).strobe n = x :=
  getD_set_self _ _ _ _ h

/-- The setting test leaves all of its channel but its verdict. -/
theorem State.testStrobe_strobe (s : State) (n : Nat) (h : n < s.backdrop.strobes.length) :
    ∃ b, (s.testStrobe n).strobe n = { s.strobe n with invalid := b } := by
  unfold State.testStrobe
  extract_lets +onlyGivenNames k x bad s1
  refine ⟨bad, ?_⟩
  have hset : s1.strobe n = { s.strobe n with invalid := bad } := setStrobe_strobe_self s n _ h
  split
  · unfold State.strobe
    rw [(raise_low_does s1 n (by decide)).backdrop_eq]
    exact hset
  · exact hset

theorem State.testStrobe_low_does (s : State) (n : Nat) : s.Does [.out, .od, .backdrop, .strand, .recorder] (s.testStrobe n) := by
  unfold State.testStrobe
  extract_lets +onlyGivenNames k x bad s1
  have hset : s.Does [.out, .od, .backdrop, .strand, .recorder] s1 := .of (setStrobe_does ..)
  exact .ite (.via (raise_low_does s1 n (by decide)) hset) hset

theorem State.testStrobe_leaves (s : State) (n : Nat) : s.Keeps [.frames, .events] (s.testStrobe n) := by
  unfold State.testStrobe
  extract_lets +onlyGivenNames k x bad s1
  have hset : s.Keeps [.frames, .events] s1 := .past (setStrobe_does ..) .same
  exact .ite (.via (raise_keeps ..) hset) hset

/-! ### STROBE_ENABLE (10 R308) -/

/-- The value is held, and the channel stands as the write set it, with the verdict of its setting test. -/
theorem execStrobeEnable_held {ch : Fin 4} {value : Nat} {x : StrobeCh} (hs : s.backdrop.shaped)
    (hw : s.writable m (obj (0x2B40 + ch) 1) (.num value) = true)
    (hact : actStrobeEnable ch value s = ((((s.putNat (obj (0x2B40 + ch) 1) value).setStrobe ch x).testStrobe ch), 0)) :
    ∃ t b, execStrobeEnable m ch value s = .next t ∧ t.nat (obj (0x2B40 + ch) 1) = value ∧ t.strobe ch = { x with invalid := b }
      ∧ t.out.head? = some (ack m (obj (0x2B40 + ch) 1)) := by
  set u := (s.putNat (obj (0x2B40 + ch) 1) value).setStrobe ch x
  have hdoes : s.Does [.out, .od, .backdrop, .strand, .recorder] (u.testStrobe ch) :=
    .via (testStrobe_low_does ..) (.via (setStrobe_does ..) (.of (putNat_does ..)))
  have hdiv : obj (0x2B40 + ch) 1 / 256 = 0x2B40 + ch := obj_div _ (by decide)
  obtain ⟨b, hstrobe⟩ := testStrobe_strobe u ch ((strobe_lt hs ch).trans_eq (List.length_set ..).symm)
  have hset : u.strobe ch = x := setStrobe_strobe_self _ _ _ (strobe_lt hs ch)
  refine ⟨_, b, congrArg Host.Outcome.next (write_accepted hw hact hdoes), ?_, ?_, rfl⟩
  · rw [(emit_does ..).nat_eq, (testStrobe_leaves ..).nat_engines (by omega) (by omega), (setStrobe_does ..).nat_eq, nat_putNat_self]
  · rw [← hset]
    exact hstrobe

theorem execStrobeEnable_off {ch : Fin 4} (hs : s.backdrop.shaped) (hw : s.writable m (obj (0x2B40 + ch) 1) (.num 0) = true) :
    ∃ t, execStrobeEnable m ch 0 s = .next t ∧ t.nat (obj (0x2B40 + ch) 1) = 0
      ∧ (t.strobe ch).cleared = ((s.strobe ch).fault != 0) ∧ (t.strobe ch).pulsed = false ∧ (t.strobe ch).fault = (s.strobe ch).fault
      ∧ t.out.head? = some (ack m (obj (0x2B40 + ch) 1)) := by
  obtain ⟨t, b, hexec, hheld, hstrobe, hout⟩ := execStrobeEnable_held
    (x := { s.strobe ch with cleared := (s.strobe ch).fault != 0, pulsed := false }) hs hw rfl
  exact ⟨t, hexec, hheld, by rw [hstrobe], by rw [hstrobe], by rw [hstrobe], hout⟩

theorem execStrobeEnable_on {ch : Fin 4} (hs : s.backdrop.shaped) (hw : s.writable m (obj (0x2B40 + ch) 1) (.num 1) = true)
    (hcleared : (s.strobe ch).cleared = true) :
    ∃ t, execStrobeEnable m ch 1 s = .next t ∧ t.nat (obj (0x2B40 + ch) 1) = 1 ∧ (t.strobe ch).fault = 0 ∧ (t.strobe ch).openRun = 0
      ∧ (t.strobe ch).shortRun = 0 ∧ (t.strobe ch).cleared = false ∧ t.out.head? = some (ack m (obj (0x2B40 + ch) 1)) := by
  have hact : actStrobeEnable ch 1 s = (((s.putNat (obj (0x2B40 + ch) 1) 1).setStrobe ch
      { s.strobe ch with fault := 0, openRun := 0, shortRun := 0, cleared := false }).testStrobe ch, 0) := by
    unfold actStrobeEnable
    dsimp only
    rw [if_neg (by decide), if_pos (show ((s.keep (obj (0x2B40 + ch) 1) 1).strobe ch).cleared = true from hcleared)]
    rfl
  obtain ⟨t, b, hexec, hheld, hstrobe, hout⟩ := execStrobeEnable_held hs hw hact
  exact ⟨t, hexec, hheld, by rw [hstrobe], by rw [hstrobe], by rw [hstrobe], by rw [hstrobe], hout⟩

/-! ### STROBE_PULSE (10 R306, R307) -/

/-- The effective current turns on the dictionary, the ledger and the derating, not on the clock. -/
theorem State.Does.strobeCurrent_eq (h : s.Does [.clk, .time] t) (n vf : Nat) : t.strobeCurrent n vf = s.strobeCurrent n vf := by
  have hnat := fun k => h.nat_eq k
  unfold State.strobeCurrent State.linePeriod
  simp only [hnat, h.ledger_eq, h.thermal_eq]

theorem execStrobePulse_result {ch : Fin 4} {vf : Nat} {c : Camera} (hs : s.backdrop.shaped) (hc : s.cam (s.nat (obj (0x2B40 + ch) 2)) = c)
    (hstate : c.state = .streaming) (hindex : c.nextIndex ≠ 0) (htrig : (s.strobe ch).trig ≠ some c.lastTrigger) (hhold : s.strobeHold ch = 0)
    (hvalid : (s.strobe ch).invalid = false) (hvf : 6000 ≤ vf) (hclk : s.time.counter ≤ c.lastTrigger + s.nat (obj (0x2B40 + ch) 3))
    (hrun : s.timeRuns = true) :
    ∃ t, execStrobePulse ch vf false s = .next t ∧ t.time.counter = c.lastTrigger + s.nat (obj (0x2B40 + ch) 3)
      ∧ (t.strobe ch).ieff = (s.strobeCurrent ch vf).1.floor.toNat ∧ (t.strobe ch).vf = vf ∧ (t.strobe ch).fault = 0
      ∧ t.nat (obj (0x2B40 + ch) 0x0A) = s.counted (obj (0x2B40 + ch) 0x0A)
      ∧ t.out = .strobe ch t.time.counter (s.nat (obj (0x2B40 + ch) 4)) (s.strobeCurrent ch vf).1.floor.toNat :: s.out := by
  unfold execStrobePulse
  extract_lets +onlyGivenNames k x d fresh s1 r i watts again s2 openRun shortRun fault s3 s4
  obtain rfl : d = c := hc
  have hfresh : fresh = true := by simp [fresh, hstate, hindex, htrig, x]
  rw [if_neg (by simp [hfresh, hhold, x, hvalid])]
  have hshort : shortRun = 0 := if_neg (Nat.not_lt.2 hvf)
  have hfault : fault = 0 := by simp [fault, openRun, hshort]
  rw [if_neg (by rw [hfault]; decide), if_neg (by rw [hfault]; decide)]
  have hs1 : s.Does [.clk, .time] s1 := atTick_does ..
  have hs2 : s1.Does [.od] s2 := .ite (bump_does ..) .same
  have hi : i = (s.strobeCurrent ch vf).1.floor.toNat := congrArg (fun r : ℚ × Bool => r.1.floor.toNat) (hs1.strobeCurrent_eq ch vf)
  have hcounter : s1.time.counter = d.lastTrigger + s.nat (obj k 3) := atTick_counter hrun hclk
  have hnat : ∀ j, j ≠ obj k 0x0B → s3.nat j = s.nat j := by
    intro j hj
    rw [(setStrobe_does ..).nat_eq, ← hs1.nat_eq j]
    unfold s2
    split
    · exact nat_bump_other _ hj
    · rfl
  have hstrobe : (s3.strobe ch).ieff = i ∧ (s3.strobe ch).vf = vf ∧ (s3.strobe ch).fault = fault := by
    unfold s3
    rw [setStrobe_strobe_self _ _ _ (by rw [hs2.backdrop_eq, hs1.backdrop_eq]; exact strobe_lt hs ch)]
    exact ⟨rfl, rfl, rfl⟩
  obtain ⟨hieff, hforward, hstate3⟩ := hstrobe
  have htime : s3.time.counter = s1.time.counter := congrArg TimeSt.counter ((setStrobe_does ..).time_eq.trans hs2.time_eq)
  have hsent : s3.out = s.out := (setStrobe_does ..).out_eq.trans (hs2.out_eq.trans hs1.out_eq)
  clear_value s3
  refine ⟨s4, rfl, htime.trans hcounter, hieff.trans hi, hforward, hstate3.trans hfault, ?_, ?_⟩
  · rw [(emit_does ..).nat_eq, nat_bump_self, State.counted, hnat _ (by unfold obj; omega)]
  · show Output.strobe ch s3.time.counter (s3.nat (obj k 4)) i :: s3.out = _
    rw [hnat _ (by unfold obj; omega), hi, hsent]
    rfl

end

/-- Settles O23: each command from the lemmas on its `exec` function. -/
theorem backdropCommandResults : Obligations.BackdropCommandResults := by
  unfold Obligations.BackdropCommandResults
  refine ⟨fun m panel table s hw hidle => ?_, fun m slot s hs hw hcause hfree hflex => execRegionGo_starts hs hw hcause hfree hflex,
    fun m slot x s hs hw hcause hrun => execRegionGo_waits hs hw hcause hrun, ?_, fun m slot image s hlow hhigh hw hfree => ?_,
    fun m panel map s hmaps hw => ?_, fun m s hw hrun hslots hrails hfail hmoor hflex => ?_,
    fun m s hw hrun hslots hrails hfail hmoor hflex => ?_, fun m s hw => execEventCodeAck_result hw,
    fun ch vf s hs hstate hindex htrig hhold hvalid hvf hclk hrun => execStrobePulse_result hs rfl hstate hindex htrig hhold hvalid hvf hclk hrun,
    fun m ch s hs hw => execStrobeEnable_off hs hw, fun m ch s hs hw hcleared => execStrobeEnable_on hs hw hcleared⟩
  · by_cases hok : waveformOk table = true
    · obtain ⟨t, hexec, htaken⟩ := execWaveformTableWrite_taken hw hidle hok
      exact ⟨t, hexec, (if_pos hok).mpr htaken⟩
    · obtain ⟨t, hexec, hfails⟩ := execWaveformTableWrite_fails hw hidle hok
      exact ⟨t, hexec, (if_neg hok).mpr hfails⟩
  · rintro m slot _ s hs hw rfl hcause
    exact execRegionGo_refused hs hw hcause
  · by_cases hok : sealedAbort image = 0
    · obtain ⟨t, hexec, htaken⟩ := execImageSlotWrite_taken ⟨hlow, hhigh⟩ hw hfree hok
      exact ⟨t, hexec, (if_pos hok).mpr htaken⟩
    · obtain ⟨t, hexec, hfails⟩ := execImageSlotWrite_fails hhigh hw hfree hok
      exact ⟨t, hexec, (if_neg hok).mpr hfails⟩
  · by_cases hok : sealedAbort map = 0 ∧ field map 2 1 = panel
    · obtain ⟨t, hexec, htaken⟩ := execTrimMapWrite_taken hmaps hw hok.1 hok.2
      exact ⟨t, hexec, (if_pos hok).mpr htaken⟩
    · obtain ⟨t, hexec, hfails⟩ := execTrimMapWrite_fails hw hok
      exact ⟨t, hexec, (if_neg hok).mpr hfails⟩
  · exact execPanelGrey_result ⟨hrun, hslots, hrails, hfail, hmoor, hflex⟩ hw
  · exact execPanelHome_result ⟨hrun, hslots, hrails, hfail, hmoor, hflex⟩ hw

end Sys2Proof.Machine
end
